-- ==== Sys2Proof/Word.lean ====
section
/-!
DEFINITION. Bytes, and the tables that hold numbered objects.
-/
namespace Sys2Proof

/-- A byte. -/
abbrev Byte := BitVec 8

/-- A table of numbered objects: pairs of a number and what it names, in rising order of the number. -/
abbrev Tbl (α : Type) := List (Nat × α)

end Sys2Proof
end

