-- ==== Sys2Proof/Syntax.lean ====
section
/-!
DEFINITION. The commands the block takes: the mailbox commands of the opcode index with their parameters, the events
at its pins and buses, and the steps its engines take at their instants.
-/
namespace Sys2Proof

/-- Where a mailbox command comes from: a mailbox (R441), the CONFIG section of the base image (R426), the CONFIG
section of overlay `n` (R427), a committed lifeline journal (R397), or none of these (a command given with no ring). -/
inductive CmdSrc where
  | mailbox (m : Nat)
  | config
  | overlay (n : Nat)
  | journal (m : Nat) (pos : BitVec 32)
  | direct
deriving DecidableEq, Repr, Inhabited

/-- A KTIME parameter (R447): seconds, nanoseconds and sub-nanoseconds as given. -/
structure KTime where
  /-- seconds, 8 bytes -/
  sec : Nat := 0
  /-- nanoseconds, 4 bytes -/
  ns : Nat := 0
  /-- sub-nanoseconds in 2^-16 ns, 2 bytes -/
  sub : Nat := 0
deriving DecidableEq, Repr, Inhabited

/-- A command as its 64-byte entry and extension hold it (R446): used where commands are carried in an image (R422)
or in a lifeline journal (R396). -/
structure RawCmd where
  /-- OPCODE -/
  opcode : Nat := 0
  /-- FLAGS -/
  flags : Nat := 0
  /-- the parameter area from offset 8 -/
  params : List Byte := []
  /-- mailbox it was submitted on -/
  mb : Nat := 0
  /-- its position -/
  pos : BitVec 32 := 0
deriving DecidableEq, Repr, Inhabited

/-- The event streams that carry fence markers (R466). -/
inductive StreamId where
  | tsq (n : Nat)
  | ring (n : Nat)
  | capture
  | cq (n : Nat)
  | log
deriving DecidableEq, Repr, Inhabited

/-- The lock that LOCK_LOSS declares lost (R45). -/
inductive LossKind where
  | cdr | block | marker | fec | hiBer | row
deriving DecidableEq, Repr, Inhabited

/-- The windows through which the host reads and writes registers (R24, R26): PF0 BAR0, PF0 BAR2 and PF1 BAR0. -/
inductive Win where
  | bar0 | bar2 | pf1
deriving DecidableEq, Repr, Inhabited

/-- The size of a window in bytes (R24, R26). -/
def Win.size : Win → Nat
  | .bar0 => 0x4000000
  | .bar2 => 0x10000000
  | .pf1 => 0x1000

/-- A member of an ECMP or multicast group as staged (R307, R308, R315): an ECMP group reads the next hop, a multicast
group the port, the egress VID and ROUTED. -/
structure Member where
  /-- next hop -/
  nh : Nat := 0
  /-- port -/
  port : Nat := 0
  /-- egress VID -/
  vid : Nat := 0
  /-- ROUTED -/
  routed : Bool := false
deriving DecidableEq, Repr, Inhabited

/-- What an IEEE 1149.1 instruction shifted into the debug TAP asks for (R433, R434): the boundary-scan instructions, and halting,
releasing, stepping and accessing core `n`, 14 being the Keeper. -/
inductive TapInstr where
  | bypass | idcode | sample | extest
  | halt (core : Nat)
  | release (core : Nat)
  | step (core : Nat)
  | access (core : Nat)
deriving DecidableEq, Repr, Inhabited

/-- The structure of shared control SRAM that an uncorrectable error strikes (R472, R478), or the local SRAM of a core (R468). -/
inductive SramWhat where
  | journal | standbyBuffer | staging | firmwareCache | coreData | eventLog | tableCopies | localSram
deriving DecidableEq, Repr, Inhabited


/-- Injected edges that fall in the same code (R134): `count` successive injection slots from slot `slot` of TICK on (slot k opens at TICK
16k), of which `struck` edges are struck out because an edge of the channel's own came within their blanking interval. -/
structure Injected where
  /-- the channel -/
  chan : Nat := 0
  /-- the first slot -/
  slot : Nat := 0
  /-- how many slots -/
  count : Nat := 0
  /-- the code -/
  code : Nat := 0
  /-- discarded edges -/
  struck : Nat := 0
deriving DecidableEq, Repr, Inhabited

/-- What the full calibration of one channel measures (R131): the widths of its 40 cells with nominal trims, the bias its DLL
settles at, whether its DLL locked throughout, and the hits of its 512 codes. -/
structure CalSet where
  /-- the channel -/
  chan : Nat := 0
  /-- the widths of the 40 cells, in U -/
  widths : List Nat := []
  /-- DLL_CODE -/
  dll : Nat := 2048
  /-- the DLL was locked throughout the collection -/
  locked : Bool := true
  /-- the hits of the codes -/
  hits : List Nat := []
deriving DecidableEq, Repr, Inhabited

/-- A part of the partner's record of a digest block (R402): the decision part, or the outcome part. -/
inductive DigestPart where
  | decision (nS : Nat) (hS hD : BitVec 64) (exempt : Bool) (nXdrop : Nat) (hXdrop : BitVec 64)
  | outcome (nDel nBen nFlt : Nat)
deriving DecidableEq, Repr, Inhabited

/-- PTP message types (R213, R220, R225). -/
inductive PtpType where
  | sync | delayReq | pdelayReq | pdelayResp | followUp | delayResp | pdelayRespFollowUp | announce | signaling | management
deriving DecidableEq, Repr, Inhabited

/-- A PTP message as received: the fields of IEEE 1588-2019 that R213 to R226 read, with its RX stamp (R218). -/
structure PtpRx where
  /-- messageType -/
  kind : PtpType := .sync
  /-- versionPTP -/
  major : Nat := 2
  /-- minorVersionPTP -/
  minor : Nat := 0
  /-- majorSdoId -/
  sdo : Nat := 0
  /-- domainNumber -/
  domain : Nat := 0
  /-- messageLength -/
  length : Nat := 0
  /-- bytes of payload received -/
  payload : Nat := 0
  /-- twoStepFlag -/
  twoStep : Bool := false
  /-- correctionField, in 2^-16 ns -/
  correction : Int := 0
  /-- clockIdentity of sourcePortIdentity -/
  clock : Nat := 0
  /-- portNumber of sourcePortIdentity -/
  portNumber : Nat := 0
  /-- sequenceId -/
  seq : Nat := 0
  /-- seconds of the timestamp -/
  sec : Nat := 0
  /-- nanoseconds of the timestamp -/
  ns : Nat := 0
  /-- clockIdentity of requestingPortIdentity -/
  reqClock : Nat := 0
  /-- portNumber of requestingPortIdentity -/
  reqPort : Nat := 0
  /-- grandmasterIdentity -/
  gm : Nat := 0
  /-- grandmasterPriority1 -/
  prio1 : Nat := 0
  /-- clockClass -/
  clockClass : Nat := 0
  /-- clockAccuracy -/
  accuracy : Nat := 0
  /-- offsetScaledLogVariance -/
  variance : Nat := 0
  /-- grandmasterPriority2 -/
  prio2 : Nat := 0
  /-- stepsRemoved -/
  steps : Nat := 0
  /-- flags of the L1_SYNC TLV of a Signaling message -/
  l1 : Option Nat := none
  /-- RX stamp TICK -/
  tick : Nat := 0
  /-- RX stamp SUB -/
  sub : Nat := 0
deriving DecidableEq, Repr, Inhabited

/-- A host read of a window (R25): where it starts and the byte enables of the bytes from there on. -/
structure ReadReq where
  /-- the offset of its first byte -/
  offset : Nat := 0
  /-- the byte enable of each byte -/
  enables : List Bool := []
deriving DecidableEq, Repr, Inhabited

/-- What the DLL of a channel shows in one CORE cycle (R130). -/
structure DllLoss where
  /-- the channel -/
  ch : Nat := 0
  /-- its phase error in U -/
  error : Int := 0
deriving DecidableEq, Repr, Inhabited

/-- What an unlocked DLL shows over successive CORE cycles (R129). -/
structure DllLock where
  /-- the channel -/
  ch : Nat := 0
  /-- the successive CORE cycles within the limit of lock -/
  within : Nat := 0
deriving DecidableEq, Repr, Inhabited
/-- The commands of the block: one constructor per row of the table of operations and events.
A mailbox command carries the source it comes from and its parameters as decoded from their layout (R447), whatever
their values; a hardware step carries what comes from outside the block with it. -/
inductive Instr where
  /-- NOP (R455): Mailbox command that does nothing and echoes the first 48 bytes of its parameters. -/
  | nop (src : CmdSrc) (bytes : List Byte)
  /-- FENCE (R463): Starts once every earlier command on every mailbox has completed, takes the next epoch, places the admission marker F and completes at F + 16. -/
  | fence (src : CmdSrc)
  /-- SYS_POWER_DOMAIN (R19): Switches power domain PD2 to PD9 on or off under the dependency and work-in-flight rules. -/
  | sysPowerDomain (src : CmdSrc) (on : Bool) (domain : Nat)
  /-- SYS_GET_STATUS (R456): Returns the identity registers and the fence epoch last assigned. -/
  | sysGetStatus (src : CmdSrc)
  /-- SYS_SET_BOARD (R456): Sets a board parameter; it is permitted only from the CONFIG section of the base image. -/
  | sysSetBoard (src : CmdSrc) (param period region base length mask : Nat)
  /-- SYS_RESET (R531): Accepts a WARM, UNIT or COLD reset request, which starts 1 ms after its response is written. -/
  | sysReset (src : CmdSrc) (kind : Nat)
  /-- SYS_GET_POWER (R542): Returns the boot stage, the domain states, the last reset kind and cause, the boot time and the supply readings. -/
  | sysGetPower (src : CmdSrc)
  /-- SYS_GET_THERMAL (R542): Returns the sensor means, T_hot, the thermal state and the throttle times. -/
  | sysGetThermal (src : CmdSrc)
  /-- SYS_CONFIGURE_THERMAL (R537): Sets WARN, THROTTLE_AT, the hysteresis and the throttle fraction. -/
  | sysConfigureThermal (src : CmdSrc) (warn throttleAt hyst : Int) (fraction : Nat)
  /-- SYS_SET_SENSOR (R536): Marks a temperature sensor faulty or clears that mark. -/
  | sysSetSensor (src : CmdSrc) (sensor mark : Nat)
  /-- IMG_LOAD (R428): Loads an image from host memory into an overlay slot or into the inactive base copy after verifying it. -/
  | imgLoad (src : CmdSrc) (target addr length : Nat) (data : Option (List Byte))
  /-- IMG_VALIDATE (R428): Applies every command of an overlay as a trial and moves the slot to VALID if all would succeed. -/
  | imgValidate (src : CmdSrc) (slot : Nat)
  /-- IMG_ARM (R429): Arms a valid overlay to switch at a fence or at a given KTIME. -/
  | imgArm (src : CmdSrc) (slot mode : Nat) (t : KTime)
  /-- IMG_DISARM (R430): Disarms an armed overlay, racing its TIME switch with exactly one outcome reported. -/
  | imgDisarm (src : CmdSrc) (slot : Nat)
  /-- IMG_GET_STATUS (R439): Returns the state and identity of an overlay slot or of the base image. -/
  | imgGetStatus (src : CmdSrc) (slot : Nat)
  /-- IMG_ERASE (R428): Empties an overlay slot that is not ARMED. -/
  | imgErase (src : CmdSrc) (slot : Nat)
  /-- PORT_CONFIGURE (R36): Sets a port's mode, width, FEC and maximum frame length while its lanes are DOWN or OFF. -/
  | portConfigure (src : CmdSrc) (port mode width fec maxFrame : Nat)
  /-- PORT_CAST_ON (R45): Moves a port from DOWN, FAULT or HELD to CASTING, latching settings and starting the cast-on timer. -/
  | portCastOn (src : CmdSrc) (port : Nat)
  /-- PORT_BIND_OFF (R45): Starts the bind-off of a port and completes when the port reaches DOWN or OFF. -/
  | portBindOff (src : CmdSrc) (port drain : Nat)
  /-- PORT_SET_POLICY (R47): Sets the per-port cast-on and bind-off timers, limits and recast policy. -/
  | portSetPolicy (src : CmdSrc) (port castTimeout holdDown flapLimit flapWindow recast : Nat)
  /-- LANE_GET_STATUS (R60): Returns a lane's state, last cause, lock flags, frequency offset and counts. -/
  | laneGetStatus (src : CmdSrc) (lane : Nat)
  /-- LANE_GET_LATENCY (R49): Returns a lane's reported RX and TX latency and its deskew term. -/
  | laneGetLatency (src : CmdSrc) (lane : Nat)
  /-- LANE_SET_CHANNEL_TABLE (R39): Checks and activates a replacement channel table, clearing every lane's latched settings. -/
  | laneSetChannelTable (src : CmdSrc) (sect : Nat)
  /-- LANE_RELATCH (R42): Clears the latched settings of one lane or of all lanes. -/
  | laneRelatch (src : CmdSrc) (lane : Nat)
  /-- LANE_SWATCH (R56): Starts, stops, injects into or reads the PRBS generator and checker of a lane. -/
  | laneSwatch (src : CmdSrc) (clear : Bool) (lane action txPattern rxPattern loopback injKind injArg : Nat)
  /-- LANE_SWEEP (R59): Starts an error-count sweep over the CTLE and DFE1 grid on a lane in SWATCH. -/
  | laneSweep (src : CmdSrc) (lane vga dwell : Nat)
  /-- LANE_SWEEP_READ (R59): Returns one page of 16 error counts from a complete sweep. -/
  | laneSweepRead (src : CmdSrc) (lane page : Nat)
  /-- SELVEDGE_CONFIGURE (R93): Sets a selvedge port's slot density, mark interval, outlier limit and ranging timeout. -/
  | selvedgeConfigure (src : CmdSrc) (port slots markInterval outlier rangeTimeout : Nat)
  /-- SELVEDGE_GET_RANGE (R93): Returns a selvedge port's ranging values, stale flag, row-lock state and check counts. -/
  | selvedgeGetRange (src : CmdSrc) (port : Nat)
  /-- MODULE_READ (R61): Reads CMIS management memory of a module over I2C. -/
  | moduleRead (src : CmdSrc) (module bank page offset length : Nat)
  /-- MODULE_WRITE (R61): Writes up to 8 bytes of CMIS management memory of a module over I2C. -/
  | moduleWrite (src : CmdSrc) (module bank page offset length : Nat) (data : List Byte)
  /-- TDC_CONFIGURE_EVT (R123): Configures an event channel's edge, filters, prescaler, ring, regression, offset and limits. -/
  | tdcConfigureEvt (src : CmdSrc) (enable regression : Bool) (channel edge hyst holdoff prescaler ring : Nat) (offset : Int) (rateLimit silence : Nat)
  /-- TDC_CONFIGURE_GROUP (R101): Sets a gate group's mode, level and lengths. -/
  | tdcConfigureGroup (src : CmdSrc) (group mode level pulse maxLen : Nat)
  /-- TDC_SET_INTERVAL (R116): Configures an interval engine's start and stop channels, window and ring. -/
  | tdcSetInterval (src : CmdSrc) (enable : Bool) (engine start stop window ring : Nat)
  /-- TDC_GET_CHANNEL (R124): Returns a channel's counts and last stamp, clearing the counts if asked. -/
  | tdcGetChannel (src : CmdSrc) (clear : Bool) (channel : Nat)
  /-- TDC_GET_LANE (R121): Returns a lane regression engine's published values, VALID, STALE and AGE. -/
  | tdcGetLane (src : CmdSrc) (lane : Nat)
  /-- TDC_SET_LANE_WINDOW (R120): Requests a new lane window length, taking effect at the first common boundary. -/
  | tdcSetLaneWindow (src : CmdSrc) (w : Nat)
  /-- TDC_CAPTURE_TAP (R122): Starts or stops copying a lane's raw tap stamps into a ring. -/
  | tdcCaptureTap (src : CmdSrc) (lane action ring d : Nat)
  /-- GAUGE_CONFIGURE (R148): Sets the gauge trigger, intervals, target, run timeout and sources. -/
  | gaugeConfigure (src : CmdSrc) (trigger : Int) (minInterval target runTimeout retry periodic source18 source19 : Nat)
  /-- GAUGE_RUN (R137): Queues a regional run for a region or for all regions. -/
  | gaugeRun (src : CmdSrc) (region : Nat)
  /-- GAUGE_FULL (R137): Orders a full calibration of a region. -/
  | gaugeFull (src : CmdSrc) (force : Bool) (region : Nat)
  /-- GAUGE_GET_STATUS (R148): Returns a region's gauge state, temperatures, epoch, hits and per-channel results. -/
  | gaugeGetStatus (src : CmdSrc) (region : Nat)
  /-- GAUGE_RESTORE (R147): Installs a region's staging sets in TABLE or FULL mode after range checks. -/
  | gaugeRestore (src : CmdSrc) (force : Bool) (region mode : Nat)
  /-- GAUGE_HOLD (R138): Defers the start of regional runs for a stated time, or releases the hold. -/
  | gaugeHold (src : CmdSrc) (duration : Nat)
  /-- REF_CONFIGURE_SLOT (R151): Configures a reference slot's source, priority, level and monitor limits. -/
  | refConfigureSlot (src : CmdSrc) (enable override esmc : Bool) (slot fNum fDen div edge source prio level : Nat) (acceptLim rejectLim : Int) (rejectHold acceptHold hitLim hitBudget coastLim : Nat)
  /-- REF_CONFIGURE_SELECTION (R160): Sets the selection and holdover parameters. -/
  | refConfigureSelection (src : CmdSrc) (qlMode revert wtr : Nat) (tieLimit : Int) (tieHold freeLevel avgTime guardTime inSpec : Nat)
  /-- REF_CONFIGURE_DPLL (R166): Sets the DPLL loop parameters. -/
  | refConfigureDpll (src : CmdSrc) (trackBw acqBw : Nat) (slope : Int) (lockThr lossThr : Nat)
  /-- REF_COMMAND (R177): Sets FORCE or LOCKOUT on a slot, clears them, or clears its wait-to-restore. -/
  | refCommand (src : CmdSrc) (slot action : Nat)
  /-- REF_GET_SLOT (R177): Returns a slot's state, measurements, build-out and counts. -/
  | refGetSlot (src : CmdSrc) (slot : Nat)
  /-- REF_GET_DPLL (R177): Returns the DPLL state, selection, level, errors and holdover estimate. -/
  | refGetDpll (src : CmdSrc)
  /-- REF_STEER (R171): Opens the loop, sets ROOT's offset, or closes the loop. -/
  | refSteer (src : CmdSrc) (action : Nat) (value : Int) (timeout level : Nat)
  /-- REF_CONFIGURE_PPS_OUT (R172): Configures a PPS output's enable, offset, width, slew rate and squelch. -/
  | refConfigurePpsOut (src : CmdSrc) (enable : Bool) (output : Nat) (offset : Int) (width slew squelch : Nat)
  /-- REF_CONFIGURE_CLKOUT (R174): Configures a CLKOUT output's frequency, phase mode, offset, slew, swing and squelch. -/
  | refConfigureClkout (src : CmdSrc) (enable : Bool) (output fNum fDen mode : Nat) (offset : Int) (slew swing squelch : Nat)
  /-- REF_GET_CLKOUT (R177): Returns a CLKOUT output's configuration, FTW and state. -/
  | refGetClkout (src : CmdSrc) (output : Nat)
  /-- TIME_SET (R189): Sets KTIME to a target at the next boundary, without the guard while UNSET. -/
  | timeSet (src : CmdSrc) (target : KTime)
  /-- TIME_STEP (R187): Requests a step of KTIME judged by the step guard at the next boundary. -/
  | timeStep (src : CmdSrc) (ns : Int) (sub : Nat)
  /-- TIME_SET_RATE (R186): Sets RATE_ADJ for a new segment at the next boundary. -/
  | timeSetRate (src : CmdSrc) (rate : Int)
  /-- TIME_SET_CONTROL (R192): Moves timescale control between HOST and SERVO. -/
  | timeSetControl (src : CmdSrc) (control : Nat)
  /-- TIME_GET (R210): Returns the timescale state, rate, guard, allowance and UTC fields at the next boundary. -/
  | timeGet (src : CmdSrc)
  /-- TIME_SET_UTC (R210): Sets the UTC offset and leap flags for readers. -/
  | timeSetUtc (src : CmdSrc) (leap61 leap59 : Bool) (offset : Nat)
  /-- SEC_SET_STEP_GUARD (R211): The Keeper installs a new step guard G and window V at the next boundary. -/
  | secSetStepGuard (src : CmdSrc) (g v : Nat)
  /-- SEC_AUTHORISE_STEP (R188): The Keeper grants an allowance for one large step in one direction. -/
  | secAuthoriseStep (src : CmdSrc) (direction magnitude validity : Nat)
  /-- PTP_CONFIGURE_INSTANCE (R238): Configures a PTP instance's profile, domain, identity and priorities. -/
  | ptpConfigureInstance (src : CmdSrc) (enable slaveOnly : Bool) (inst profile domain : Nat) (identity : List Byte) (prio1 prio2 localPrio : Nat)
  /-- PTP_CONFIGURE_PORT (R238): Configures a port's PTP instance, transport, intervals, limits and filter. -/
  | ptpConfigurePort (src : CmdSrc) (masterOnly : Bool) (port inst transport dest addr : Nat) (logSync logDelay logAnnounce : Int) (annTimeout syncTimeout delayTimeout twoStep localPrio coastLimit maxPath delayOutlier offsetOutlier filterLen : Nat)
  /-- PTP_GET_INSTANCE (R238): Returns a PTP instance's identities, parent, offset and port states. -/
  | ptpGetInstance (src : CmdSrc) (inst : Nat)
  /-- PTP_GET_PORT (R238): Returns a PTP port's state, delay, asymmetry and counts. -/
  | ptpGetPort (src : CmdSrc) (clear : Bool) (port : Nat)
  /-- PTP_CONFIGURE_TC (R220): Sets the transparent-clock mode and domains. -/
  | ptpConfigureTc (src : CmdSrc) (mode : Nat) (domains : BitVec 256)
  /-- SERVO_CONFIGURE (R238): Sets the time servo's source mode, bandwidth, slew, thresholds and PPS offset. -/
  | servoConfigure (src : CmdSrc) (mode slot bandwidth : Nat) (maxSlew : Int) (stepThr lockThr : Nat) (ppsOffset : Int)
  /-- SERVO_GET (R238): Returns the time servo's state, source, offset and counts. -/
  | servoGet (src : CmdSrc)
  /-- ASYM_CONFIGURE (R234): Sets a port's asymmetry mode and parameters. -/
  | asymConfigure (src : CmdSrc) (port mode : Nat) (c alpha : Int) (partner lambdaOut lambdaIn : Nat) (k : Int) (avg qLimit coast agree : Nat)
  /-- ASYM_GET (R238): Returns a port's asymmetry mode in use, asym and dual-colour state. -/
  | asymGet (src : CmdSrc) (port : Nat)
  /-- MCLK_CONFIGURE_CHANNEL (R255): Configures a machine-clock channel's source, limits, orbit and marker. -/
  | mclkConfigureChannel (src : CmdSrc) (enable : Bool) (chan source sourceIdx selector fNum fDen : Nat) (freqLim : Int) (hitLim actLim coastLim bandwidth orbitLen marker markerIdx : Nat) (markOffset : Int) (frameLen : Nat)
  /-- MCLK_CONFIGURE_OUTPUT (R267): Configures an MCLK output's channel, mode, ratio, offset, slew and squelch. -/
  | mclkConfigureOutput (src : CmdSrc) (squelch : Bool) (output chan mode m d : Nat) (offset slewLim : Int) (w swing : Nat)
  /-- MCLK_GET (R271): Returns a machine-clock channel's state, frequency, phase and orbit values. -/
  | mclkGet (src : CmdSrc) (chan : Nat)
  /-- MCLK_SET_ORBIT (R264): Aligns a channel's bunch number and orbit count at a given KTIME. -/
  | mclkSetOrbit (src : CmdSrc) (given : Bool) (chan : Nat) (t : KTime) (bunch orbit : Nat)
  /-- STITCH_CONFIGURE_GROUP (R249): Sets or changes the port membership of a target group. -/
  | stitchConfigureGroup (src : CmdSrc) (group action : Nat) (mask : BitVec 256) (port : Nat)
  /-- STITCH_CONFIGURE_TRIGGER (R245): Configures a trigger source's channel, kind, target, spacing and sequence. -/
  | stitchConfigureTrigger (src : CmdSrc) (enable seqReset : Bool) (source channel kind target spacing seq : Nat)
  /-- STITCH_CONFIGURE_BROADCAST (R259): Sets a channel's PHASE and BCN targets and intervals. -/
  | stitchConfigureBroadcast (src : CmdSrc) (chan phaseTarget setInterval bcnTarget bcnInterval : Nat)
  /-- STITCH_CONFIGURE_PORT (R248): Sets a selvedge port's compensation, relay targets, RX_LOG and error threshold. -/
  | stitchConfigurePort (src : CmdSrc) (compensate rxLog : Bool) (port relayTrig relayTimed relayUser errThr : Nat)
  /-- STITCH_SEND (R244): Sends a TRIGGER or USER stitch and completes when it is placed. -/
  | stitchSend (src : CmdSrc) (type target payload : Nat)
  /-- STITCH_SEND_TIMED (R246): Registers a pending TIMED stitch with its execute time, lead and repeats. -/
  | stitchSendTimed (src : CmdSrc) (target code : Nat) (e : KTime) (lead r : Nat)
  /-- STITCH_CANCEL_TIMED (R247): Cancels a pending TIMED stitch, racing the placement of its first copy. -/
  | stitchCancelTimed (src : CmdSrc) (handle : Nat)
  /-- STITCH_GET_PORT (R271): Returns a selvedge port's lattice, latency terms and stitch counts. -/
  | stitchGetPort (src : CmdSrc) (clear : Bool) (port : Nat)
  /-- STITCH_GET_SEQUENCER (R271): Returns the sequencer's queue fills, overflow and drop counts. -/
  | stitchGetSequencer (src : CmdSrc) (clear : Bool)
  /-- PARSE_CONFIGURE_PORT (R279): Sets a port's exception actions, extraction profile and class mapping. -/
  | parseConfigurePort (src : CmdSrc) (trustPcp trustDscp : Bool) (port malformed lenConflict profile pcpMap dscpMap defClass : Nat)
  /-- PARSE_CONFIGURE_EXTRACT (R287): Sets the two extractors of an extraction profile. -/
  | parseConfigureExtract (src : CmdSrc) (enable0 enable1 : Bool) (profile cond0 anchor0 offset0 width0 cond1 anchor1 offset1 width1 : Nat)
  /-- ACL_STAGE (R298): Stores one part of an ACL value or mask in the mailbox's staging buffer. -/
  | aclStage (src : CmdSrc) (part : Nat) (bytes : List Byte)
  /-- ACL_COMMIT (R289): Installs a staged ACL entry with its action and zeroes its hit count. -/
  | aclCommit (src : CmdSrc) (copy capture setClass steer redirect : Bool) (entry kind tc profile port : Nat)
  /-- ACL_DELETE (R298): Empties an ACL entry. -/
  | aclDelete (src : CmdSrc) (entry : Nat)
  /-- ACL_READ (R298): Returns a part of an ACL entry, its action and its hit count. -/
  | aclRead (src : CmdSrc) (clear : Bool) (entry part : Nat)
  /-- STEER_CONFIGURE_PROFILE (R294): Sets a steering profile's HASH or DIRECT settings. -/
  | steerConfigureProfile (src : CmdSrc) (symmetric : Bool) (profile mode fields seed field sh m b absent : Nat)
  /-- STEER_WRITE (R296): Writes up to 12 indirection entries in one cycle. -/
  | steerWrite (src : CmdSrc) (table first count : Nat) (entries : List Nat)
  /-- STEER_READ (R298): Returns up to 12 indirection entries. -/
  | steerRead (src : CmdSrc) (table first count : Nat)
  /-- SLOW_CONFIGURE (R283): Sets a slow-path reason's policer rate and burst. -/
  | slowConfigure (src : CmdSrc) (reason rate burst : Nat)
  /-- PARSE_GET_COUNTS (R298): Returns a port's parser counts and the slow-path counts. -/
  | parseGetCounts (src : CmdSrc) (clear : Bool) (port : Nat)
  /-- CLASS_SET_MAP (R292): Writes entries of a PCP or DSCP class map. -/
  | classSetMap (src : CmdSrc) (kind map first count : Nat) (classes : List Nat)
  /-- BUFFER_CONFIGURE_CLASS (R338): Sets a class's on-chip limit and spill thresholds. -/
  | bufferConfigureClass (src : CmdSrc) (cls cl spillOn returnLow : Nat)
  /-- QUEUE_CONFIGURE (R338): Sets a queue's limit and weight. -/
  | queueConfigure (src : CmdSrc) (port cls ql weight : Nat)
  /-- PORT_CONFIGURE_EGRESS (R334): Sets a port's bulk egress limit and cut-through. -/
  | portConfigureEgress (src : CmdSrc) (cut : Bool) (port limit : Nat)
  /-- SKEIN_CONFIGURE (R342): Enables or disables spill for a deep class. -/
  | skeinConfigure (src : CmdSrc) (spill : Bool) (cls : Nat)
  /-- SKEIN_GET_STATUS (R354): Returns the skein state, usage and error counts. -/
  | skeinGetStatus (src : CmdSrc) (clear : Bool)
  /-- CORE_GET_QUEUE (R354): Returns a queue's kind, cells, copies and counts. -/
  | coreGetQueue (src : CmdSrc) (clear : Bool) (port cls : Nat)
  /-- BUFFER_GET_STATUS (R354): Returns pool sizes and free cells. -/
  | bufferGetStatus (src : CmdSrc)
  /-- CAPTURE_CONFIGURE (R349): Configures a capture trigger. -/
  | captureConfigure (src : CmdSrc) (enable : Bool) (trigger snap port k : Nat) (mask : BitVec 256)
  /-- CLASS_SET_KIND (R356): Makes a class TC0 to TC3 deep or plain on a port. -/
  | classSetKind (src : CmdSrc) (port cls kind : Nat)
  /-- CONTRACT_SET (R365): Installs or replaces a feasible contract and takes its reservations. -/
  | contractSet (src : CmdSrc) (replace : Bool) (port cls lMax rate burst fmax : Nat) (mask : BitVec 256)
  /-- CONTRACT_DELETE (R366): Moves a contract to DRAINING. -/
  | contractDelete (src : CmdSrc) (port cls : Nat)
  /-- CONTRACT_CHECK (R365): Computes a contract's budget terms without installing it. -/
  | contractCheck (src : CmdSrc) (replace : Bool) (port cls lMax rate burst fmax : Nat) (mask : BitVec 256)
  /-- CONTRACT_GET (R375): Returns a contract's state, parameters, terms, bucket, maxima and counts. -/
  | contractGet (src : CmdSrc) (clear : Bool) (port cls : Nat)
  /-- GUARANTEED_POOL_SET (R375): Resizes the guaranteed pool against the shared pool. -/
  | guaranteedPoolSet (src : CmdSrc) (size : Nat)
  /-- VLAN_CONFIGURE (R301): Configures a VLAN's enable, masks, unknown action, flood group and L3. -/
  | vlanConfigure (src : CmdSrc) (enable l3 : Bool) (vid : Nat) (members untagged : BitVec 256) (unknown floodMgid rmac : Nat)
  /-- PORT_SET_PVID (R301): Sets a port's PVID. -/
  | portSetPvid (src : CmdSrc) (port pvid : Nat)
  /-- ROUTER_MAC_SET (R306): Writes a router MAC address. -/
  | routerMacSet (src : CmdSrc) (index mac : Nat)
  /-- L2_ADD (R303): Inserts or replaces an L2 entry. -/
  | l2Add (src : CmdSrc) (replace : Bool) (vid da result : Nat)
  /-- L2_DELETE (R314): Deletes an L2 entry. -/
  | l2Delete (src : CmdSrc) (vid da : Nat)
  /-- NH_WRITE (R306): Writes a next hop. -/
  | nhWrite (src : CmdSrc) (decTtl : Bool) (nh port vid da rmac : Nat)
  /-- NH_DELETE (R314): Deletes an unreferenced next hop. -/
  | nhDelete (src : CmdSrc) (nh : Nat)
  /-- HOST_ADD (R304): Inserts or replaces a host route. -/
  | hostAdd (src : CmdSrc) (replace : Bool) (family addr result : Nat)
  /-- HOST_DELETE (R314): Deletes a host route. -/
  | hostDelete (src : CmdSrc) (family addr : Nat)
  /-- LPM_ADD (R305): Inserts or replaces an LPM prefix. -/
  | lpmAdd (src : CmdSrc) (replace : Bool) (family pfx length result : Nat)
  /-- LPM_DELETE (R314): Deletes an LPM prefix. -/
  | lpmDelete (src : CmdSrc) (family pfx length : Nat)
  /-- MEMBER_STAGE (R315): Stores ECMP or multicast members in the mailbox's member staging buffer. -/
  | memberStage (src : CmdSrc) (first count : Nat) (members : List Member)
  /-- ECMP_COMMIT (R307): Installs an ECMP group from staged members. -/
  | ecmpCommit (src : CmdSrc) (group count profile : Nat)
  /-- ECMP_DELETE (R314): Deletes an unreferenced ECMP group. -/
  | ecmpDelete (src : CmdSrc) (group : Nat)
  /-- MCAST_COMMIT (R308): Installs a multicast group from staged members with its flags. -/
  | mcastCommit (src : CmdSrc) (aon prune : Bool) (mgid count : Nat)
  /-- TABLE_LOOKUP (R570): Looks up a key in a table and returns its result and location. -/
  | tableLookup (src : CmdSrc) (table : Nat) (key : List Byte)
  /-- TABLE_READ_INDEX (R318): Returns the state, key and result at a table location. -/
  | tableReadIndex (src : CmdSrc) (table location : Nat)
  /-- TABLE_CLEAR_LOST (R318): Empties a LOST table location. -/
  | tableClearLost (src : CmdSrc) (table location : Nat)
  /-- TABLE_GET_USAGE (R320): Returns table occupancy, LOST locations and device-wide counts. -/
  | tableGetUsage (src : CmdSrc) (clear : Bool)
  /-- PAIR_CONFIGURE (R415): Enables or disables the pair and sets its cycle, timeouts, watchdog, EtherType and PL_ASYM. -/
  | pairConfigure (src : CmdSrc) (enable : Bool) (cycle lead commitTimeout joinTimeout watchdog skewGuard window chunkAge closeTimeout outcomeTimeout etherType : Nat) (plAsym : Int)
  /-- PAIR_CONFIGURE_PORT (R388): Sets a port's attachment and source IDs. -/
  | pairConfigurePort (src : CmdSrc) (port attach source base count untagged : Nat)
  /-- PAIR_GET_STATUS (R415): Returns the pair status registers and counts. -/
  | pairGetStatus (src : CmdSrc) (clear : Bool)
  /-- PAIR_SWITCHOVER (R406): Exchanges the active and standby roles at the next apply boundary. -/
  | pairSwitchover (src : CmdSrc)
  /-- PAIR_RESYNC (R415): Sends the partner through SYNCING. -/
  | pairResync (src : CmdSrc)
  /-- PAIR_TEST (R410): Starts or stops a pair test on the standby. -/
  | pairTest (src : CmdSrc) (duration : Nat)
  /-- PAIR_GET_DIGEST (R415): Returns a source's digest verdict counts. -/
  | pairGetDigest (src : CmdSrc) (clear : Bool) (source : Nat)
  /-- PAIR_GET_DUP (R415): Returns a source's duplicate-table entry. -/
  | pairGetDup (src : CmdSrc) (source : Nat)
  /-- SEC_CHALLENGE (R432): Returns a nonce for an OPERATOR or DEBUG session. -/
  | secChallenge (src : CmdSrc) (role level : Nat)
  /-- SEC_RESPONSE (R432): Delivers a signature part and, on part 1, opens the session or sets the debug level. -/
  | secResponse (src : CmdSrc) (part : Nat) (bytes : List Byte)
  /-- SEC_CLOSE (R432): Closes the OPERATOR session. -/
  | secClose (src : CmdSrc)
  /-- SEC_DEBUG_LOCK (R433): Returns the debug level to LOCKED. -/
  | secDebugLock (src : CmdSrc)
  /-- SEC_REVOKE_KEY (R439): Revokes a fused key slot. -/
  | secRevokeKey (src : CmdSrc) (slot : Nat)
  /-- SEC_SET_MIN_VERSION (R439): Raises the fused minimum SEC_VERSION. -/
  | secSetMinVersion (src : CmdSrc) (minimum : Nat)
  /-- SEC_GET_STATUS (R439): Returns the debug level, session state and key states. -/
  | secGetStatus (src : CmdSrc)
  /-- COUNTER_CLEAR (R525): Clears a range of BAR2 counters in one cycle. -/
  | counterClear (src : CmdSrc) (block first count : Nat)
  /-- EVENT_INJECT (R526): Raises an event on a source with INJECTED set. -/
  | eventInject (src : CmdSrc) (source cause : Nat) (data : List Byte)
  /-- FENCE_MARKER_WRITE (R466): The marker of a fence epoch is written into an enabled event stream once that stream's earlier records are placed and it has room. -/
  | fenceMarkerWrite (stream : StreamId)
  /-- RESET_START (R530): An accepted reset starts and cycles its power domains, clearing the state that its kind clears. -/
  | resetStart
  /-- OVERLAY_SWITCH (R429): At the switch instant the armed overlay's commands apply in one CORE cycle with the next fence epoch. -/
  | overlaySwitch
  /-- SWATCH_LOCK (R57): The swatch checker locks after 256 consecutive error-free bits. -/
  | swatchLock (lane : Nat)
  /-- SWATCH_LOSS (R57): The swatch checker loses lock after more than 64 errors within 1,024 bits and re-seeds. -/
  | swatchLoss (lane bits errors : Nat)
  /-- SWEEP_DONE (R59): A lane sweep finishes its 1,024 points. -/
  | sweepDone (lane : Nat) (counts : List Nat)
  /-- LANE_LOCKED (R45): Every lane of a casting port acquires lock, and the port enters PROVING with a 2.0 ms window. -/
  | laneLocked (port : Nat)
  /-- CAST_ON_TIMER_EXPIRY (R45): The cast-on timer expires, sending a CASTING port to FAULT or being held in PROVING. -/
  | castOnTimerExpiry (port : Nat)
  /-- PROVING_WINDOW_END (R45): The proving window ends and the pointer and frequency checks decide between UP, CASTING, HELD and FAULT. -/
  | provingWindowEnd (port : Nat) (pointersOk : Bool) (offsets deskews : List Int)
  /-- LOS (R55): Loss of signal is declared after 1.0 µs of continuous absence of energy. -/
  | los (lane : Nat)
  /-- LOCK_LOSS (R45): A declared loss of CDR, block, alignment-marker or FEC lock, hi_ber or row lock takes the lane transitions for lock loss. -/
  | lockLoss (lane : Nat) (kind : LossKind)
  /-- FREQ_RANGE (R52): A lane's receive frequency has been outside its range continuously for 1 ms, or at the proving check. -/
  | freqRange (lane : Nat) (offset : Int)
  /-- HOLD_DOWN_EXPIRY (R45): The hold-down expires and a FAULT lane recasts under AUTO or goes to HELD under MANUAL. -/
  | holdDownExpiry (port : Nat)
  /-- EGRESS_QUEUES_EMPTY (R346): The egress queues of a BINDING port become empty and the bind-off linger starts. -/
  | egressQueuesEmpty (port : Nat)
  /-- DRAIN_TIMEOUT (R346): The drain timeout of a BINDING port expires, discarding its remaining copies with reason port down. -/
  | drainTimeout (port : Nat)
  /-- BIND_OFF_LINGER_END (R45): The 10 µs bind-off linger ends, the port enters DOWN and PORT_BIND_OFF completes. -/
  | bindOffLingerEnd (port : Nat)
  /-- SGPIO_FRAME (R55): An SGPIO frame is received, and module bits stable for three frames raise MODULE_CHANGE. -/
  | sgpioFrame (bits : List Nat)
  /-- SGPIO_STALL (R55): The SGPIO chain has been silent for 10 ms. -/
  | sgpioStall
  /-- STITCH_BLOCK_RX (R77): A block at a stitch slot position is received, tested for row lock, removed and, if accepted, acted on by its type. -/
  | stitchBlockRx (port index : Nat) (ctl : Bool) (word tick sub : Nat)
  /-- RANGE_TIMEOUT (R88): No echo pair has been accepted for the ranging timeout and the link delay becomes stale. -/
  | rangeTimeout (port : Nat)
  /-- STITCH_SLOT (R241): At a lattice slot the sequencer places ready broadcast stitches and fills free slots with link-scope stitches. -/
  | stitchSlot (group : Nat)
  /-- STITCH_ARRIVAL (R242): A broadcast stitch reaches the sequencer and is queued or dropped for each lattice group. -/
  | stitchArrival
  /-- STITCH_READY (R242): A queued broadcast stitch becomes ready 64 CORE cycles after arrival and competes for slots. -/
  | stitchReady
  /-- EVT_EDGE (R98): An edge at an event input is blanked, prescaled, gated and stamped into the channel's FIFO and engines. -/
  | evtEdge (ch tick phase fine : Nat) (falling : Bool)
  /-- INPUT_OPEN (R99): The fail-safe detects an open or shorted event input and stops stamping. -/
  | inputOpen (input : Nat)
  /-- RATE_WINDOW (R99): A 1 µs window of TICK ends and RATE_EXCEEDED is raised if accepted edges passed the hit-rate limit. -/
  | rateWindow (ch : Nat)
  /-- SILENT (R99): No edge has been accepted in an open gate for the silence timeout. -/
  | silent (ch : Nat)
  /-- TAP_EDGE (R51): A lane's divided phase-tap edge is stamped and fed to the lane regression engine. -/
  | tapEdge (lane tick phase fine : Nat)
  /-- RING_WRITE (R105): A ring writer drains a record from a hit FIFO into its ring, or counts it lost if the ring is full or disabled. -/
  | ringWrite (ring : Nat)
  /-- RING_TIMEOUT (R111): A record has stayed unread in a TDC ring for IDLE_TIMEOUT. -/
  | ringTimeout (ring : Nat)
  /-- RING_RD_COUNT_WRITE (R112): The host writes a TDC ring's RD_COUNT, which is ignored with RING_INDEX if it is out of order. -/
  | ringRdCountWrite (ring : Nat) (value : BitVec 32)
  /-- GATE_PIN_CHANGE (R102): A filtered GATE pin level changes and opens or closes the gate in LEVEL or PULSE mode. -/
  | gatePinChange (group : Nat) (level : Bool) (tick : Nat)
  /-- SW_GATE_OPEN (R103): A register write opens the gate of a group in SOFTWARE mode. -/
  | swGateOpen (value : BitVec 32)
  /-- SW_GATE_CLOSE (R103): A register write closes the gate of a group in SOFTWARE mode. -/
  | swGateClose (value : BitVec 32)
  /-- GATE_PULSE_END (R101): The pulse length of a PULSE or CONTINUOUS gate ends and closes it, reopening it in CONTINUOUS mode. -/
  | gatePulseEnd (group : Nat)
  /-- GATE_TIMEOUT (R101): A gate stays open for the maximum gate length and is closed with cause TIMEOUT. -/
  | gateTimeout (group : Nat)
  /-- INTERVAL_RESULT (R116): An interval engine writes the result for a start stamp once no closer stop can arrive. -/
  | intervalResult (engine : Nat)
  /-- GAUGE_HOLD_LAPSE (R138): A gauge hold reaches its duration and lapses. -/
  | gaugeHoldLapse
  /-- STAGE_LOAD (R145): A register write copies the selected channel's active gauge set into its staging set. -/
  | stageLoad (value : BitVec 32)
  /-- GAUGE_RUN_START (R137): A pending region starts its run when the engine is free, no hold applies and 10 ms have passed, and its channels become STALE. -/
  | gaugeRunStart
  /-- GAUGE_RUN_END (R136): A run ends when every channel has H hits or the run timeout expires, and each channel's new table is checked. -/
  | gaugeRunEnd (injected : List Injected)
  /-- FULL_CALIBRATION_DONE (R131): A region's full calibration ends and its table is committed. -/
  | fullCalibrationDone (region : Nat) (sets : List CalSet)
  /-- GAUGE_PERIODIC_TIMER (R137): The periodic or retry interval of a region elapses and the region becomes PENDING. -/
  | gaugePeriodicTimer (region : Nat)
  /-- GAUGE_TEMP_UNAVAILABLE (R128): A region with no valid sensor starts a regional run every 60 s. -/
  | gaugeTempUnavailable (region : Nat)
  /-- DLL_UNLOCK (R130): A channel's DLL error exceeds 2 LSB and the channel stops recording. -/
  | dllUnlock (loss : DllLoss)
  /-- DLL_RELOCK (R130): An unlocked DLL locks again and the channel resumes with STALE stamps and a queued run. -/
  | dllRelock (lock : DllLock)
  /-- DLL_RELOCK_TIMEOUT (R130): A DLL has not relocked within 1 ms and its region is taken to full calibration. -/
  | dllRelockTimeout (ch : Nat)
  /-- GAUGE_COPY_CHECK (R144): Once per second both gauge copies of every region are checked and repaired. -/
  | gaugeCopyCheck (region : Nat) (aOk bOk : Bool) (bEpoch : Nat) (bCentres : List (Nat × List Nat))
  /-- LANE_WINDOW_BOUNDARY (R163): At each lane-window boundary measurements are published, gauge commits, switches, slot states, selection, the DPLL update and timescale segments are processed. -/
  | laneWindowBoundary
  /-- REF_EDGE (R152): A reference or PPS input edge is filtered, range-checked and stamped. -/
  | refEdge (ch tick phase fine width : Nat)
  /-- REF_ACTIVITY_TIMEOUT (R152): A reference input shows no edge for its activity limit and its slot fails. -/
  | refActivityTimeout (slot : Nat)
  /-- XO_MONITOR_WINDOW (R15): A 1 µs XO_IN monitor window ends and three consecutive windows declare XO_IN absent or present. -/
  | xoMonitorWindow (edges : Nat)
  /-- HOLDOVER_INSPEC_EXPIRY (R170): The holdover in-spec time ends and the device level changes. -/
  | holdoverInspecExpiry
  /-- STEER_TIMEOUT (R171): No REF_STEER SET arrives within the steering timeout and the loop closes. -/
  | steerTimeout
  /-- LEVEL_TIMEOUT (R159): A slot's level source times out and its level becomes 15. -/
  | levelTimeout (slot : Nat)
  /-- ESMC_PDU_TX (R159): Firmware sends an ESMC information PDU each second, or an event PDU after a level change. -/
  | esmcPduTx (port : Nat)
  /-- PPS_OUT_PULSE (R173): A PPS output reaches its next rising edge instant, slewing toward a moved target. -/
  | ppsOutPulse (output : Nat)
  /-- ALLOWANCE_EXPIRED (R188): An allowance reaches its validity unused and expires. -/
  | allowanceExpired
  /-- HOLD_END (R190): KTIME reaches the held window time and the windows stop holding. -/
  | holdEnd
  /-- TAKE (R193): A read of TAKE returns a ticket and captures TICK and W into a snapshot slot. -/
  | take (pf1 : Bool)
  /-- TSQ_STAMP_TIMEOUT (R206): A TX stamp request reaches STAMP_TIMEOUT and its entry becomes final. -/
  | tsqStampTimeout (queue : Nat)
  /-- TSQ_RD_COUNT_WRITE (R208): The host writes a TSQ's RD_COUNT, which is ignored with TSQ_INDEX if it is out of order. -/
  | tsqRdCountWrite (queue : Nat) (value : BitVec 32)
  /-- PTP_MESSAGE_RX (R225): A PTP message received by an instance is checked and used for the BMCA, delay, offset and servo. -/
  | ptpMessageRx (port : Nat) (msg : PtpRx)
  /-- PTP_MESSAGE_TX (R216): An instance sends a Sync, Delay_Req, Pdelay_Req or Announce at its interval. -/
  | ptpMessageTx (port : Nat) (kind : PtpType) (tick sub : Nat)
  /-- ANNOUNCE_RECEIPT_TIMEOUT (R226): No Announce from the parent within the receipt timeout, and the BMCA runs again. -/
  | announceReceiptTimeout (inst : Nat)
  /-- SYNC_RECEIPT_TIMEOUT (R226): No Sync from the parent within the Sync receipt timeout, and the virtual reference fails. -/
  | syncReceiptTimeout (inst : Nat)
  /-- DELAY_RESPONSE_TIMEOUT (R226): Consecutive delay requests are unanswered and the last delay is held. -/
  | delayResponseTimeout (port : Nat)
  /-- DELAY_COAST_EXPIRY (R226): A held delay passes the delay coast limit and the source is treated as lost. -/
  | delayCoastExpiry (slot : Nat)
  /-- ASYM_FALLBACK (R236): No dual-colour sample has been accepted for the dual coast limit and both ports fall back to COEFFICIENT. -/
  | asymFallback (port : Nat)
  /-- TIMED_STITCH_READY (R246): A pending TIMED stitch becomes ready at E minus its lead when W reaches that instant. -/
  | timedStitchReady
  /-- PHASE_SET_ISSUE (R259): At each set interval the device issues one PHASE set per enabled channel. -/
  | phaseSetIssue (chan : Nat)
  /-- BCN_ISSUE (R266): At the start of every BCN interval of orbits the device issues a BCN stitch. -/
  | bcnIssue (chan : Nat)
  /-- MARKER_EDGE (R262): A marker edge is assigned to a bunch and three equal offsets start an orbit slew. -/
  | markerEdge (chan : Nat)
  /-- MARKER_LOST (R262): No marker has been accepted for 4 orbits. -/
  | markerLost (chan : Nat)
  /-- MC_ACTIVITY_TIMEOUT (R254): A machine-clock source shows no stamp or set for its activity limit and the channel coasts. -/
  | mcActivityTimeout (chan : Nat)
  /-- MC_COAST_LIMIT (R255): A coasting channel reaches its coast limit, clears VALID and may squelch its outputs. -/
  | mcCoastLimit (chan : Nat)
  /-- PARSE_WINDOW_CLOSE (R276): A frame's parse window closes and its header walk ends, with any exception judged. -/
  | parseWindowClose (port : Nat) (bytes : List Byte) (ended : Bool) (taps symbols tick : Nat)
  /-- ADMISSION_DECISION (R281): 120 CORE cycles after window close the frame is looked up, classified, steered, expanded and each copy admitted or refused. -/
  | admissionDecision (frame : Nat)
  /-- FRAME_END (R280): A frame ends and its FCS, L3 length and egress length are checked, returning or consuming charges. -/
  | frameEnd (frame : Nat) (bytes : List Byte) (tick : Nat)
  /-- CELL_SLOT (R326): Every 3.2 ns the matcher runs four request-grant-accept iterations and moves matched cells across the crossbar. -/
  | cellSlot
  /-- EGRESS_FRAME_BOUNDARY (R332): At a frame boundary an egress port picks its next copy, applying the late-guard to guaranteed copies. -/
  | egressFrameBoundary (port tick sub : Nat)
  /-- COPY_SENT (R206): A copy finishes transmission and its TSQ entry, counters and latency maxima are updated. -/
  | copySent (port tick : Nat)
  /-- SPILL_BURST (R340): The spill engine moves 16 cells of a deep VOQ's tail into the skein. -/
  | spillBurst
  /-- RETURN_BURST (R340): The return engine moves 16 cells from the skein to a deep VOQ's head. -/
  | returnBurst
  /-- SKEIN_INIT_DONE (R343): HBM3E initialisation after PD5 power-on passes or fails. -/
  | skeinInitDone (pass : Bool)
  /-- SKEIN_CELL_ERROR (R343): An uncorrectable error in a skein cell discards its copy and retires the location. -/
  | skeinCellError (copy : Nat) (fixed : Bool)
  /-- SKEIN_FAULT (R343): A stack or PHY fault or too many retired locations sends the skein to FAILED. -/
  | skeinFault
  /-- CELL_ECC_ERROR (R348): An uncorrectable cell error discards or stomps its copies and may retire the location. -/
  | cellEccError (copies : List Nat) (location : Nat) (fixed : Bool)
  /-- QUEUE_FLUSHED (R348): An uncorrectable descriptor or queue-link error flushes the whole queue. -/
  | queueFlushed (tile port cls : Nat) (egress : Bool)
  /-- CAP_RD_COUNT_WRITE (R351): The host writes the capture ring's RD_COUNT, which is ignored with CAP_INDEX if out of order. -/
  | capRdCountWrite (value : BitVec 32)
  /-- CAP_TIMEOUT (R351): A capture record has stayed unread for IDLE_TIMEOUT. -/
  | capTimeout
  /-- CONTRACT_DRAINED (R366): The last copy of a DRAINING contract leaves or is discarded and its reservations are released. -/
  | contractDrained (port cls : Nat)
  /-- TABLE_SCRUB (R318): A scrub pass checks table locations, correcting single errors and marking uncorrectable ones LOST. -/
  | tableScrub (table location : Nat) (fixed keyOk : Bool)
  /-- TABLE_REBUILT (R318): Firmware rebuilds a LOST LPM, VLAN or router-MAC location from its copy. -/
  | tableRebuilt (table location : Nat)
  /-- ACL_SCRUB (R319): An ACL scrub pass checks parity and makes failing entries LOST. -/
  | aclScrub (failing : List Nat)
  /-- PARTNER_HELLO (R381): A partner HELLO during JOINING leads to arbitration or MISMATCH. -/
  | partnerHello (strap : Bool) (epoch order stepping : Nat)
  /-- JOIN_TIMEOUT (R381): No partner appears within the join timeout and the unit becomes ACTIVE alone. -/
  | joinTimeout
  /-- PAIR_ALIVE_EDGE (R380): An edge on PAIR_ALIVE_IN is filtered and range-checked for the heartbeat. -/
  | pairAliveEdge (cycle stable : Nat)
  /-- HEARTBEAT_LOST (R380): No accepted PAIR_ALIVE_IN edge for 8.0 µs, and promotion is judged. -/
  | heartbeatLost
  /-- PAIR_ALIVE_TOGGLE (R379): PAIR_ALIVE_OUT toggles every 1.0 µs of TICK, omitting the alignment mark. -/
  | pairAliveToggle
  /-- PAIR_WATCHDOG_EXPIRY (R379): The pair watchdog expires, PAIR_ALIVE_OUT is held low and the role moves to JOINING. -/
  | pairWatchdogExpiry
  /-- PL_SILENT (R380): No CONTROL frame has arrived on the pair link for 20 µs. -/
  | plSilent
  /-- KEEPALIVE_TX (R380): A keep-alive is sent when no other CONTROL frame is due for 5 µs. -/
  | keepaliveTx
  /-- HEALTH_REPORT_TX (R413): Each cycle a unit sends its 64-byte health report. -/
  | healthReportTx
  /-- HEALTH_REPORT_RX (R380): A received health report is checked and updates partner health, level and divergence. -/
  | healthReportRx (bytes : List Byte)
  /-- HEALTH_LOST (R380): No health report has arrived for 2 cycles. -/
  | healthLost
  /-- TIME_PROBE (R409): Every 125 µs a time probe exchange measures TICK_OFFSET and the time error. -/
  | timeProbe (t1 t2 t3 t4 partner : Int)
  /-- ALIGN_TICK_START (R383): During an alignment TICK starts ALIGN_DELAY cycles after the first PLCKI edge following an alignment mark. -/
  | alignTickStart (edge : Nat)
  /-- LIFELINE_CYCLE_END (R396): At a cycle end the active unit sends the journal and its commit marker. -/
  | lifelineCycleEnd
  /-- COMMIT_MARKER_RX (R396): The standby checks a journal's marker and commits the buffer with an ACK, or frogs it with a NACK. -/
  | commitMarkerRx (cycle applyAt : Nat) (crcOk : Bool) (journal : List RawCmd)
  /-- LIFELINE_ACK_RX (R396): The active unit receives an ACK and sends CONFIRM if it is early enough. -/
  | lifelineAckRx (cycle : Nat)
  /-- LIFELINE_NACK_RX (R398): The active unit receives a NACK and sends the cycle again. -/
  | lifelineNackRx (cycle : Nat)
  /-- LIFELINE_CONFIRM_RX (R396): The standby receives a CONFIRM for a committed buffer. -/
  | lifelineConfirmRx (cycle : Nat)
  /-- LIFELINE_APPLY (R396): At the apply boundary a journal is applied in one cycle and its commands complete on the active unit. -/
  | lifelineApply
  /-- COMMIT_TIMEOUT (R399): A journal is not committed within the commit timeout and its commands complete with ST_PAIR_UNMIRRORED. -/
  | commitTimeout
  /-- XFEED_COPY_RX (R391): A cross-fed or relayed copy arrives from the pair link and enters the partner's lookup and admission. -/
  | xfeedCopyRx (cross : Bool) (port source seq egress : Nat) (bytes : List Byte) (tick sub : Nat) (stale coast : Bool) (kSec kSub : Nat)
  /-- DUP_ENTRY_EXPIRY (R393): A duplicate-table entry is freed after 1 s without a frame. -/
  | dupEntryExpiry (source : Nat)
  /-- DIGEST_BLOCK_CLOSE (R402): A digest block closes by frame or close timeout and its decision record is sent. -/
  | digestBlockClose (source block : Nat)
  /-- DIGEST_OUTCOME_TIMEOUT (R402): A block's outcome timeout expires and frames without outcome count as UNRESOLVED. -/
  | digestOutcomeTimeout (source block : Nat)
  /-- DIGEST_RECORD_RX (R404): A partner digest record is compared with the unit's own and a verdict is given. -/
  | digestRecordRx (source block : Nat) (part : DigestPart)
  /-- SELF_TEST (R412): A periodic self-test runs and a critical failure causes a switchover. -/
  | selfTest (test : Nat) (pass : Bool)
  /-- SESSION_EXPIRY (R432): An OPERATOR session reaches its session time and closes. -/
  | sessionExpiry
  /-- WATCHDOG (R418): A core's watchdog expires and the Keeper holds the core in reset and reloads it. -/
  | watchdog (core : Nat)
  /-- FIREWALL_FAULT (R420): The firewall refuses a core access, and 16 refusals in 1 s restart the core. -/
  | firewallFault (core addr : Nat)
  /-- CORE_RESTART (R470): A restarted core resumes and completes or aborts the commands it was serving. -/
  | coreRestart (core : Nat)
  /-- KEEPER_LOCKSTEP (R29): K0 and K1 disagree and the Keeper restarts from ROM, closing every session. -/
  | keeperLockstep
  /-- SHARED_SRAM_ERROR (R472): An uncorrectable shared control SRAM error is handled by the structure it strikes. -/
  | sharedSramError (what : SramWhat) (arg : Nat)
  /-- MAILBOX_FETCH (R442): A RUNNING mailbox fetches a submitted command entry and its extension from host memory. -/
  | mailboxFetch (mb : Nat) (entry ext : List Byte)
  /-- MB_FAULT (R445): A command or extension fetch meets a PCIe completion timeout and the mailbox enters FAULT. -/
  | mbFault (mb : Nat) (extension : Bool)
  /-- SUBMIT_COUNT_WRITE (R444): A doorbell write to SUBMIT_COUNT submits commands or is ignored with MB_INDEX. -/
  | submitCountWrite (mb : Nat) (value : BitVec 32)
  /-- RESP_RD_COUNT_WRITE (R444): The host writes RESP_RD_COUNT to consume responses, or it is ignored with MB_INDEX. -/
  | respRdCountWrite (mb : Nat) (value : BitVec 32)
  /-- MAILBOX_ENABLE_SET (R445): Setting ENABLE moves a DISABLED, DRAINING or FAULT mailbox to RUNNING. -/
  | mailboxEnableSet (mb : Nat)
  /-- MAILBOX_ENABLE_CLEAR (R445): Clearing ENABLE moves a RUNNING mailbox to DRAINING. -/
  | mailboxEnableClear (mb : Nat)
  /-- MAILBOX_DRAINED (R445): A DRAINING mailbox finishes its fetched commands and becomes DISABLED. -/
  | mailboxDrained (mb : Nat)
  /-- RESET (R445): Writing RESET to a DISABLED or FAULT mailbox aborts every unfetched command. -/
  | mailboxReset (mb : Nat)
  /-- ABORT_ALL (R453): Aborts every command between DONE_COUNT and SUBMIT_COUNT that is short of its commit point. -/
  | abortAll (mb : Nat)
  /-- ABORT_POS (R453): Aborts the command at a given position if it is short of its commit point. -/
  | abortPos (mb : Nat) (pos : BitVec 32)
  /-- COMMAND_TIMEOUT (R452): A command reaches its execution timeout before its commit point and completes with ST_TIMEOUT. -/
  | commandTimeout (mb : Nat)
  /-- PF0_FUNCTION_LEVEL_RESET (R481): A PF0 FLR resets PF0 configuration, drains mailboxes, ends DMA channels, clears TSQ enables and event routing. -/
  | pf0FunctionLevelReset
  /-- PF1_FUNCTION_LEVEL_RESET (R481): A PF1 FLR returns PF1 configuration space to reset values. -/
  | pf1FunctionLevelReset
  /-- HOT_RESET (R481): A hot reset, link down or PCIE_PERST_N acts as both functions' resets and retrains the link. -/
  | hotReset
  /-- BUS_MASTER_ENABLE (R482): A change of PF0 Bus Master Enable pauses or resumes DMA channels and mailbox fetches. -/
  | busMasterEnable (on : Bool)
  /-- CTX_INJECT (R485): A complete injection record in a CTX queue is injected in FORWARD or DIRECT mode. -/
  | ctxInject (queue : Nat)
  /-- CTX_RESET (R484): A register write empties a CTX queue and clears its FAULT. -/
  | ctxReset (value : BitVec 32)
  /-- SLOW_PATH_FRAME (R488): Slow-path firmware processes a frame, terminating it or writing a CRX record. -/
  | slowPathFrame (index : Nat)
  /-- START (R498): A register write starts a DMA chain at CHAIN_ADDR. -/
  | chainStart (chan : Nat)
  /-- ABORT (R499): A register write aborts a DMA channel, with exactly one outcome reported. -/
  | chainAbort (chan : Nat)
  /-- MOVE (R493): A DMA instruction that moves bytes between host, BAR or stream spaces in bursts. -/
  | chainMove (chan : Nat) (instr : List Byte)
  /-- DMA_BURST (R493): One burst of a MOVE completes, advancing stream positions and re-evaluating a gate. -/
  | dmaBurst (chan : Nat) (data : List Byte)
  /-- LOOP (R494): A DMA instruction that updates a loop counter and jumps or falls through. -/
  | chainLoop (chan : Nat) (instr : List Byte)
  /-- WAIT (R495): A DMA instruction that holds the channel until a stream, soft or TICK condition holds. -/
  | chainWait (chan : Nat) (instr : List Byte)
  /-- WAIT_CONDITION_MET (R495): The condition of a WAITING channel holds and it runs again. -/
  | waitConditionMet (chan : Nat)
  /-- WAIT_TIMEOUT (R495): A WAIT's timeout expires and the channel halts. -/
  | waitTimeout (chan : Nat)
  /-- SIGNAL (R496): A DMA instruction that writes a completion record and optionally raises an event. -/
  | chainSignal (chan : Nat) (instr : List Byte)
  /-- END (R496): A DMA instruction that writes its record and returns the channel to IDLE with outcome COMPLETE. -/
  | chainEnd (chan : Nat) (instr : List Byte)
  /-- CQ_ROOM (R498): A STALLED channel finds room in its completion queue and writes its waiting record. -/
  | cqRoom (chan : Nat)
  /-- CQ_RD_COUNT_WRITE (R504): The host writes CQ_RD_COUNT, which is ignored with DMA_INDEX if out of order. -/
  | cqRdCountWrite (chan : Nat) (value : BitVec 32)
  /-- DMA_WATCHDOG_EXPIRY (R500): A chain reaches its WATCHDOG time and halts. -/
  | dmaWatchdogExpiry (chan : Nat)
  /-- BUDGET_EXHAUSTED (R500): A chain reaches its instruction BUDGET and halts. -/
  | budgetExhausted (chan : Nat)
  /-- DMA_PCIE_ERROR (R501): An instruction fetch or read burst meets a completion timeout or error and the channel halts. -/
  | dmaPcieError (chan : Nat) (timeout : Bool)
  /-- VECTOR_TIMER_EXPIRY (R512): A vector's coalescing timer expires and it sends one message. -/
  | vectorTimerExpiry (vec : Nat)
  /-- MSIX_MESSAGE_SEND (R513): A held MSI-X message is sent once enable and masks allow it. -/
  | msixMessageSend (vec : Nat)
  /-- MASK_WRITE (R511): A MASK write unmasking a pending source counts one raise toward its vector. -/
  | maskWrite (reg : Nat) (value : BitVec 32)
  /-- VEC_CTRL_WRITE (R512): A vector control write changes coalescing and may send the held message at once. -/
  | vecCtrlWrite (vec : Nat) (value : BitVec 32)
  /-- LOG_RD_COUNT_WRITE (R518): The host writes LOG_RD_COUNT, which is ignored with LOG_INDEX if out of order. -/
  | logRdCountWrite (value : BitVec 32)
  /-- SNAP_NOW (R524): A register write takes a statistics snapshot at once. -/
  | snapNow
  /-- SNAP_AT_FENCE (R524): A register write arms a statistics snapshot at the next fence's admission marker. -/
  | snapAtFence
  /-- SNAP_DONE (R524): A snapshot finishes copying into the hidden bank and SNAP_SEQ increments. -/
  | snapDone
  /-- READ_CLEAR_FIELD (R10): A host read of an RC field returns and clears it. -/
  | readClearField (win : Win) (req : ReadReq)
  /-- REGISTER_WRITE (R25): A host write to any register without a row of its own is applied by access code, or ignored with BAD_ACCESS if partial. -/
  | registerWrite (win : Win) (offset : Nat) (data : List (Option Byte))
  /-- COLD_RESET (R540): RESET_N held low for 1 µs or more causes a COLD reset. -/
  | coldReset (low : Nat)
  /-- SUPPLY_FAULT (R529): A supply stays outside ±6 % for 10 µs and its domains are powered off or the device is reset. -/
  | supplyFault (supply : Nat)
  /-- SUPPLY_RESTORED (R529): A faulty always-on supply has been within limits for 10 ms and the held cold reset is released. -/
  | supplyRestored (supply : Nat)
  /-- THERMTRIP (R539): A sensor at the THERMTRIP limit for 10 µs drives THERMTRIP_N and powers off PD1 to PD9 in hardware. -/
  | thermtrip (sensor : Nat)
  /-- SENSOR_CONVERSION (R536): A temperature reading updates its sensor's mean, fault state and the thermal state. -/
  | sensorConversion (sensor : Nat) (value : Int)
  /-- SENSOR_CONVERSION_TIMEOUT (R536): No conversion completes for 10 ms and the sensor is faulty. -/
  | sensorConversionTimeout (sensor : Nat)
  /-- SENSOR_RECOVERED (R536): A faulty sensor has been sound for 10 s and returns. -/
  | sensorRecovered (sensor : Nat)
  /-- ROM_CHECK (R533): At POR fuses are read and the ROM checksum is verified. -/
  | romCheck (ok : Bool) (order serial : Nat) (strap : Bool) (hashes : List (Nat × List Byte)) (fullDebug : Bool)
  /-- FLASH_READ_DONE (R425): Both base-image copies are read and verified and one is chosen or recovery is entered. -/
  | flashReadDone (a b : Option (List Byte))
  /-- ROOT_LOCK (R533): ROOT locks after PD1 power-on and TICK runs. -/
  | rootLock
  /-- ROOT_LOCK_TIMEOUT (R533): ROOT does not lock within 100 ms, PD1 goes off and the stage is retried after 1 s. -/
  | rootLockTimeout
  /-- CORE_LOAD_DONE (R417): The Keeper has loaded the cores and set the firewalls after PD2 power-on. -/
  | coreLoadDone
  /-- BOOT_CONFIG_DONE (R426): The base image's CONFIG commands finish or stop, the mailboxes open and BOOT_DONE is raised. -/
  | bootConfigDone
  /-- OSPI_READ_ID (R541): OSPI transaction returning the device identity. -/
  | ospiReadId
  /-- OSPI_READ_STATUS (R541): OSPI transaction returning stage, reset, fault and thermal status. -/
  | ospiReadStatus
  /-- OSPI_READ_SENSORS (R541): OSPI transaction returning the 16 sensor means. -/
  | ospiReadSensors
  /-- RECOVERY_ERASE (R541): OSPI transaction in RECOVERY that erases the copy 1 area. -/
  | recoveryErase
  /-- RECOVERY_ERASE_DONE (R541): The erase of the copy 1 area completes. -/
  | recoveryEraseDone
  /-- RECOVERY_WRITE (R541): OSPI transaction in RECOVERY that writes image bytes into copy 1. -/
  | recoveryWrite (offset : Nat) (bytes : List Byte)
  /-- RECOVERY_COMMIT (R534): OSPI transaction that checks copy 1 and performs a COLD reset if it passes. -/
  | recoveryCommit
  /-- OSPI_RESET (R541): OSPI 0x66 then 0x99 transactions request a UNIT or COLD reset. -/
  | ospiReset (opcode kind : Nat)
  /-- OSPI_CS_TIMEOUT (R540): CS_N stays low for more than 10 ms and the OSPI transaction is ended. -/
  | ospiCsTimeout
  /-- CLKOUT_ALIGNED (R175): A KTIME-mode CLKOUT output finishes slewing toward its moved target and raises CLKOUT_ALIGNED. -/
  | clkoutAligned (output : Nat)
  /-- ORBIT_START (R261): A machine-clock channel reaches bunch 0, increments its orbit count and applies orbit slews, count replacement, frame starts and ORBIT and FRAME output pulses. -/
  | orbitStart (chan : Nat)
  /-- PAIR_TEST_END (R410): The duration of a PAIR_TEST on the standby expires, ending the test and REF28's usability for it. -/
  | pairTestEnd
  /-- KEEPER_RESTART_DONE (R29): The Keeper finishes its restart from ROM after a lockstep mismatch, and the requests that waited for it proceed. -/
  | keeperRestartDone
  /-- INPUT_RECOVERED (R99): An event input whose fail-safe was active recovers, INPUT_OPEN is cleared and stamping resumes. -/
  | inputRecovered (input : Nat) (level : Bool)
  /-- DEBUG_TAP_INSTRUCTION (R434): An IEEE 1149.1 instruction shifted into the debug TAP acts, or behaves as BYPASS when the debug level does not permit it. -/
  | debugTapInstruction (instr : TapInstr)
deriving DecidableEq, Repr

/-- The source of a mailbox command; none for a step of the hardware. -/
def Instr.src : Instr → Option CmdSrc
  | .nop src _ => some src
  | .fence src => some src
  | .sysPowerDomain src _ _ => some src
  | .sysGetStatus src => some src
  | .sysSetBoard src _ _ _ _ _ _ => some src
  | .sysReset src _ => some src
  | .sysGetPower src => some src
  | .sysGetThermal src => some src
  | .sysConfigureThermal src _ _ _ _ => some src
  | .sysSetSensor src _ _ => some src
  | .imgLoad src _ _ _ _ => some src
  | .imgValidate src _ => some src
  | .imgArm src _ _ _ => some src
  | .imgDisarm src _ => some src
  | .imgGetStatus src _ => some src
  | .imgErase src _ => some src
  | .portConfigure src _ _ _ _ _ => some src
  | .portCastOn src _ => some src
  | .portBindOff src _ _ => some src
  | .portSetPolicy src _ _ _ _ _ _ => some src
  | .laneGetStatus src _ => some src
  | .laneGetLatency src _ => some src
  | .laneSetChannelTable src _ => some src
  | .laneRelatch src _ => some src
  | .laneSwatch src _ _ _ _ _ _ _ _ => some src
  | .laneSweep src _ _ _ => some src
  | .laneSweepRead src _ _ => some src
  | .selvedgeConfigure src _ _ _ _ _ => some src
  | .selvedgeGetRange src _ => some src
  | .moduleRead src _ _ _ _ _ => some src
  | .moduleWrite src _ _ _ _ _ _ => some src
  | .tdcConfigureEvt src _ _ _ _ _ _ _ _ _ _ _ => some src
  | .tdcConfigureGroup src _ _ _ _ _ => some src
  | .tdcSetInterval src _ _ _ _ _ _ => some src
  | .tdcGetChannel src _ _ => some src
  | .tdcGetLane src _ => some src
  | .tdcSetLaneWindow src _ => some src
  | .tdcCaptureTap src _ _ _ _ => some src
  | .gaugeConfigure src _ _ _ _ _ _ _ _ => some src
  | .gaugeRun src _ => some src
  | .gaugeFull src _ _ => some src
  | .gaugeGetStatus src _ => some src
  | .gaugeRestore src _ _ _ => some src
  | .gaugeHold src _ => some src
  | .refConfigureSlot src _ _ _ _ _ _ _ _ _ _ _ _ _ _ _ _ _ _ => some src
  | .refConfigureSelection src _ _ _ _ _ _ _ _ _ => some src
  | .refConfigureDpll src _ _ _ _ _ => some src
  | .refCommand src _ _ => some src
  | .refGetSlot src _ => some src
  | .refGetDpll src => some src
  | .refSteer src _ _ _ _ => some src
  | .refConfigurePpsOut src _ _ _ _ _ _ => some src
  | .refConfigureClkout src _ _ _ _ _ _ _ _ _ => some src
  | .refGetClkout src _ => some src
  | .timeSet src _ => some src
  | .timeStep src _ _ => some src
  | .timeSetRate src _ => some src
  | .timeSetControl src _ => some src
  | .timeGet src => some src
  | .timeSetUtc src _ _ _ => some src
  | .secSetStepGuard src _ _ => some src
  | .secAuthoriseStep src _ _ _ => some src
  | .ptpConfigureInstance src _ _ _ _ _ _ _ _ _ => some src
  | .ptpConfigurePort src _ _ _ _ _ _ _ _ _ _ _ _ _ _ _ _ _ _ _ => some src
  | .ptpGetInstance src _ => some src
  | .ptpGetPort src _ _ => some src
  | .ptpConfigureTc src _ _ => some src
  | .servoConfigure src _ _ _ _ _ _ _ => some src
  | .servoGet src => some src
  | .asymConfigure src _ _ _ _ _ _ _ _ _ _ _ _ => some src
  | .asymGet src _ => some src
  | .mclkConfigureChannel src _ _ _ _ _ _ _ _ _ _ _ _ _ _ _ _ _ => some src
  | .mclkConfigureOutput src _ _ _ _ _ _ _ _ _ _ => some src
  | .mclkGet src _ => some src
  | .mclkSetOrbit src _ _ _ _ _ => some src
  | .stitchConfigureGroup src _ _ _ _ => some src
  | .stitchConfigureTrigger src _ _ _ _ _ _ _ _ => some src
  | .stitchConfigureBroadcast src _ _ _ _ _ => some src
  | .stitchConfigurePort src _ _ _ _ _ _ _ => some src
  | .stitchSend src _ _ _ => some src
  | .stitchSendTimed src _ _ _ _ _ => some src
  | .stitchCancelTimed src _ => some src
  | .stitchGetPort src _ _ => some src
  | .stitchGetSequencer src _ => some src
  | .parseConfigurePort src _ _ _ _ _ _ _ _ _ => some src
  | .parseConfigureExtract src _ _ _ _ _ _ _ _ _ _ _ => some src
  | .aclStage src _ _ => some src
  | .aclCommit src _ _ _ _ _ _ _ _ _ _ => some src
  | .aclDelete src _ => some src
  | .aclRead src _ _ _ => some src
  | .steerConfigureProfile src _ _ _ _ _ _ _ _ _ _ => some src
  | .steerWrite src _ _ _ _ => some src
  | .steerRead src _ _ _ => some src
  | .slowConfigure src _ _ _ => some src
  | .parseGetCounts src _ _ => some src
  | .classSetMap src _ _ _ _ _ => some src
  | .bufferConfigureClass src _ _ _ _ => some src
  | .queueConfigure src _ _ _ _ => some src
  | .portConfigureEgress src _ _ _ => some src
  | .skeinConfigure src _ _ => some src
  | .skeinGetStatus src _ => some src
  | .coreGetQueue src _ _ _ => some src
  | .bufferGetStatus src => some src
  | .captureConfigure src _ _ _ _ _ _ => some src
  | .classSetKind src _ _ _ => some src
  | .contractSet src _ _ _ _ _ _ _ _ => some src
  | .contractDelete src _ _ => some src
  | .contractCheck src _ _ _ _ _ _ _ _ => some src
  | .contractGet src _ _ _ => some src
  | .guaranteedPoolSet src _ => some src
  | .vlanConfigure src _ _ _ _ _ _ _ _ => some src
  | .portSetPvid src _ _ => some src
  | .routerMacSet src _ _ => some src
  | .l2Add src _ _ _ _ => some src
  | .l2Delete src _ _ => some src
  | .nhWrite src _ _ _ _ _ _ => some src
  | .nhDelete src _ => some src
  | .hostAdd src _ _ _ _ => some src
  | .hostDelete src _ _ => some src
  | .lpmAdd src _ _ _ _ _ => some src
  | .lpmDelete src _ _ _ => some src
  | .memberStage src _ _ _ => some src
  | .ecmpCommit src _ _ _ => some src
  | .ecmpDelete src _ => some src
  | .mcastCommit src _ _ _ _ => some src
  | .tableLookup src _ _ => some src
  | .tableReadIndex src _ _ => some src
  | .tableClearLost src _ _ => some src
  | .tableGetUsage src _ => some src
  | .pairConfigure src _ _ _ _ _ _ _ _ _ _ _ _ _ => some src
  | .pairConfigurePort src _ _ _ _ _ _ => some src
  | .pairGetStatus src _ => some src
  | .pairSwitchover src => some src
  | .pairResync src => some src
  | .pairTest src _ => some src
  | .pairGetDigest src _ _ => some src
  | .pairGetDup src _ => some src
  | .secChallenge src _ _ => some src
  | .secResponse src _ _ => some src
  | .secClose src => some src
  | .secDebugLock src => some src
  | .secRevokeKey src _ => some src
  | .secSetMinVersion src _ => some src
  | .secGetStatus src => some src
  | .counterClear src _ _ _ => some src
  | .eventInject src _ _ _ => some src
  | .fenceMarkerWrite _ => none
  | .resetStart => none
  | .overlaySwitch => none
  | .swatchLock _ => none
  | .swatchLoss _ _ _ => none
  | .sweepDone _ _ => none
  | .laneLocked _ => none
  | .castOnTimerExpiry _ => none
  | .provingWindowEnd _ _ _ _ => none
  | .los _ => none
  | .lockLoss _ _ => none
  | .freqRange _ _ => none
  | .holdDownExpiry _ => none
  | .egressQueuesEmpty _ => none
  | .drainTimeout _ => none
  | .bindOffLingerEnd _ => none
  | .sgpioFrame _ => none
  | .sgpioStall => none
  | .stitchBlockRx _ _ _ _ _ _ => none
  | .rangeTimeout _ => none
  | .stitchSlot _ => none
  | .stitchArrival => none
  | .stitchReady => none
  | .evtEdge _ _ _ _ _ => none
  | .inputOpen _ => none
  | .rateWindow _ => none
  | .silent _ => none
  | .tapEdge _ _ _ _ => none
  | .ringWrite _ => none
  | .ringTimeout _ => none
  | .ringRdCountWrite _ _ => none
  | .gatePinChange _ _ _ => none
  | .swGateOpen _ => none
  | .swGateClose _ => none
  | .gatePulseEnd _ => none
  | .gateTimeout _ => none
  | .intervalResult _ => none
  | .gaugeHoldLapse => none
  | .stageLoad _ => none
  | .gaugeRunStart => none
  | .gaugeRunEnd _ => none
  | .fullCalibrationDone _ _ => none
  | .gaugePeriodicTimer _ => none
  | .gaugeTempUnavailable _ => none
  | .dllUnlock _ => none
  | .dllRelock _ => none
  | .dllRelockTimeout _ => none
  | .gaugeCopyCheck _ _ _ _ _ => none
  | .laneWindowBoundary => none
  | .refEdge _ _ _ _ _ => none
  | .refActivityTimeout _ => none
  | .xoMonitorWindow _ => none
  | .holdoverInspecExpiry => none
  | .steerTimeout => none
  | .levelTimeout _ => none
  | .esmcPduTx _ => none
  | .ppsOutPulse _ => none
  | .allowanceExpired => none
  | .holdEnd => none
  | .take _ => none
  | .tsqStampTimeout _ => none
  | .tsqRdCountWrite _ _ => none
  | .ptpMessageRx _ _ => none
  | .ptpMessageTx _ _ _ _ => none
  | .announceReceiptTimeout _ => none
  | .syncReceiptTimeout _ => none
  | .delayResponseTimeout _ => none
  | .delayCoastExpiry _ => none
  | .asymFallback _ => none
  | .timedStitchReady => none
  | .phaseSetIssue _ => none
  | .bcnIssue _ => none
  | .markerEdge _ => none
  | .markerLost _ => none
  | .mcActivityTimeout _ => none
  | .mcCoastLimit _ => none
  | .parseWindowClose _ _ _ _ _ _ => none
  | .admissionDecision _ => none
  | .frameEnd _ _ _ => none
  | .cellSlot => none
  | .egressFrameBoundary _ _ _ => none
  | .copySent _ _ => none
  | .spillBurst => none
  | .returnBurst => none
  | .skeinInitDone _ => none
  | .skeinCellError _ _ => none
  | .skeinFault => none
  | .cellEccError _ _ _ => none
  | .queueFlushed _ _ _ _ => none
  | .capRdCountWrite _ => none
  | .capTimeout => none
  | .contractDrained _ _ => none
  | .tableScrub _ _ _ _ => none
  | .tableRebuilt _ _ => none
  | .aclScrub _ => none
  | .partnerHello _ _ _ _ => none
  | .joinTimeout => none
  | .pairAliveEdge _ _ => none
  | .heartbeatLost => none
  | .pairAliveToggle => none
  | .pairWatchdogExpiry => none
  | .plSilent => none
  | .keepaliveTx => none
  | .healthReportTx => none
  | .healthReportRx _ => none
  | .healthLost => none
  | .timeProbe _ _ _ _ _ => none
  | .alignTickStart _ => none
  | .lifelineCycleEnd => none
  | .commitMarkerRx _ _ _ _ => none
  | .lifelineAckRx _ => none
  | .lifelineNackRx _ => none
  | .lifelineConfirmRx _ => none
  | .lifelineApply => none
  | .commitTimeout => none
  | .xfeedCopyRx _ _ _ _ _ _ _ _ _ _ _ _ => none
  | .dupEntryExpiry _ => none
  | .digestBlockClose _ _ => none
  | .digestOutcomeTimeout _ _ => none
  | .digestRecordRx _ _ _ => none
  | .selfTest _ _ => none
  | .sessionExpiry => none
  | .watchdog _ => none
  | .firewallFault _ _ => none
  | .coreRestart _ => none
  | .keeperLockstep => none
  | .sharedSramError _ _ => none
  | .mailboxFetch _ _ _ => none
  | .mbFault _ _ => none
  | .submitCountWrite _ _ => none
  | .respRdCountWrite _ _ => none
  | .mailboxEnableSet _ => none
  | .mailboxEnableClear _ => none
  | .mailboxDrained _ => none
  | .mailboxReset _ => none
  | .abortAll _ => none
  | .abortPos _ _ => none
  | .commandTimeout _ => none
  | .pf0FunctionLevelReset => none
  | .pf1FunctionLevelReset => none
  | .hotReset => none
  | .busMasterEnable _ => none
  | .ctxInject _ => none
  | .ctxReset _ => none
  | .slowPathFrame _ => none
  | .chainStart _ => none
  | .chainAbort _ => none
  | .chainMove _ _ => none
  | .dmaBurst _ _ => none
  | .chainLoop _ _ => none
  | .chainWait _ _ => none
  | .waitConditionMet _ => none
  | .waitTimeout _ => none
  | .chainSignal _ _ => none
  | .chainEnd _ _ => none
  | .cqRoom _ => none
  | .cqRdCountWrite _ _ => none
  | .dmaWatchdogExpiry _ => none
  | .budgetExhausted _ => none
  | .dmaPcieError _ _ => none
  | .vectorTimerExpiry _ => none
  | .msixMessageSend _ => none
  | .maskWrite _ _ => none
  | .vecCtrlWrite _ _ => none
  | .logRdCountWrite _ => none
  | .snapNow => none
  | .snapAtFence => none
  | .snapDone => none
  | .readClearField _ _ => none
  | .registerWrite _ _ _ => none
  | .coldReset _ => none
  | .supplyFault _ => none
  | .supplyRestored _ => none
  | .thermtrip _ => none
  | .sensorConversion _ _ => none
  | .sensorConversionTimeout _ => none
  | .sensorRecovered _ => none
  | .romCheck _ _ _ _ _ _ => none
  | .flashReadDone _ _ => none
  | .rootLock => none
  | .rootLockTimeout => none
  | .coreLoadDone => none
  | .bootConfigDone => none
  | .ospiReadId => none
  | .ospiReadStatus => none
  | .ospiReadSensors => none
  | .recoveryErase => none
  | .recoveryEraseDone => none
  | .recoveryWrite _ _ => none
  | .recoveryCommit => none
  | .ospiReset _ _ => none
  | .ospiCsTimeout => none
  | .clkoutAligned _ => none
  | .orbitStart _ => none
  | .pairTestEnd => none
  | .keeperRestartDone => none
  | .inputRecovered _ _ => none
  | .debugTapInstruction _ => none

/-- The same command, from another source. -/
def withSource (src : CmdSrc) : Instr → Instr
  | .nop _ bytes => .nop src bytes
  | .fence _ => .fence src
  | .sysPowerDomain _ on domain => .sysPowerDomain src on domain
  | .sysGetStatus _ => .sysGetStatus src
  | .sysSetBoard _ param period region base length mask => .sysSetBoard src param period region base length mask
  | .sysReset _ kind => .sysReset src kind
  | .sysGetPower _ => .sysGetPower src
  | .sysGetThermal _ => .sysGetThermal src
  | .sysConfigureThermal _ warn throttleAt hyst fraction => .sysConfigureThermal src warn throttleAt hyst fraction
  | .sysSetSensor _ sensor mark => .sysSetSensor src sensor mark
  | .imgLoad _ target addr length data => .imgLoad src target addr length data
  | .imgValidate _ slot => .imgValidate src slot
  | .imgArm _ slot mode t => .imgArm src slot mode t
  | .imgDisarm _ slot => .imgDisarm src slot
  | .imgGetStatus _ slot => .imgGetStatus src slot
  | .imgErase _ slot => .imgErase src slot
  | .portConfigure _ port mode width fec maxFrame => .portConfigure src port mode width fec maxFrame
  | .portCastOn _ port => .portCastOn src port
  | .portBindOff _ port drain => .portBindOff src port drain
  | .portSetPolicy _ port castTimeout holdDown flapLimit flapWindow recast => .portSetPolicy src port castTimeout holdDown flapLimit flapWindow recast
  | .laneGetStatus _ lane => .laneGetStatus src lane
  | .laneGetLatency _ lane => .laneGetLatency src lane
  | .laneSetChannelTable _ sect => .laneSetChannelTable src sect
  | .laneRelatch _ lane => .laneRelatch src lane
  | .laneSwatch _ clear lane action txPattern rxPattern loopback injKind injArg => .laneSwatch src clear lane action txPattern rxPattern loopback injKind injArg
  | .laneSweep _ lane vga dwell => .laneSweep src lane vga dwell
  | .laneSweepRead _ lane page => .laneSweepRead src lane page
  | .selvedgeConfigure _ port slots markInterval outlier rangeTimeout => .selvedgeConfigure src port slots markInterval outlier rangeTimeout
  | .selvedgeGetRange _ port => .selvedgeGetRange src port
  | .moduleRead _ module bank page offset length => .moduleRead src module bank page offset length
  | .moduleWrite _ module bank page offset length data => .moduleWrite src module bank page offset length data
  | .tdcConfigureEvt _ enable regression channel edge hyst holdoff prescaler ring offset rateLimit silence => .tdcConfigureEvt src enable regression channel edge hyst holdoff prescaler ring offset rateLimit silence
  | .tdcConfigureGroup _ group mode level pulse maxLen => .tdcConfigureGroup src group mode level pulse maxLen
  | .tdcSetInterval _ enable engine start stop window ring => .tdcSetInterval src enable engine start stop window ring
  | .tdcGetChannel _ clear channel => .tdcGetChannel src clear channel
  | .tdcGetLane _ lane => .tdcGetLane src lane
  | .tdcSetLaneWindow _ w => .tdcSetLaneWindow src w
  | .tdcCaptureTap _ lane action ring d => .tdcCaptureTap src lane action ring d
  | .gaugeConfigure _ trigger minInterval target runTimeout retry periodic source18 source19 => .gaugeConfigure src trigger minInterval target runTimeout retry periodic source18 source19
  | .gaugeRun _ region => .gaugeRun src region
  | .gaugeFull _ force region => .gaugeFull src force region
  | .gaugeGetStatus _ region => .gaugeGetStatus src region
  | .gaugeRestore _ force region mode => .gaugeRestore src force region mode
  | .gaugeHold _ duration => .gaugeHold src duration
  | .refConfigureSlot _ enable override esmc slot fNum fDen div edge source prio level acceptLim rejectLim rejectHold acceptHold hitLim hitBudget coastLim => .refConfigureSlot src enable override esmc slot fNum fDen div edge source prio level acceptLim rejectLim rejectHold acceptHold hitLim hitBudget coastLim
  | .refConfigureSelection _ qlMode revert wtr tieLimit tieHold freeLevel avgTime guardTime inSpec => .refConfigureSelection src qlMode revert wtr tieLimit tieHold freeLevel avgTime guardTime inSpec
  | .refConfigureDpll _ trackBw acqBw slope lockThr lossThr => .refConfigureDpll src trackBw acqBw slope lockThr lossThr
  | .refCommand _ slot action => .refCommand src slot action
  | .refGetSlot _ slot => .refGetSlot src slot
  | .refGetDpll _ => .refGetDpll src
  | .refSteer _ action value timeout level => .refSteer src action value timeout level
  | .refConfigurePpsOut _ enable output offset width slew squelch => .refConfigurePpsOut src enable output offset width slew squelch
  | .refConfigureClkout _ enable output fNum fDen mode offset slew swing squelch => .refConfigureClkout src enable output fNum fDen mode offset slew swing squelch
  | .refGetClkout _ output => .refGetClkout src output
  | .timeSet _ target => .timeSet src target
  | .timeStep _ ns sub => .timeStep src ns sub
  | .timeSetRate _ rate => .timeSetRate src rate
  | .timeSetControl _ control => .timeSetControl src control
  | .timeGet _ => .timeGet src
  | .timeSetUtc _ leap61 leap59 offset => .timeSetUtc src leap61 leap59 offset
  | .secSetStepGuard _ g v => .secSetStepGuard src g v
  | .secAuthoriseStep _ direction magnitude validity => .secAuthoriseStep src direction magnitude validity
  | .ptpConfigureInstance _ enable slaveOnly inst profile domain identity prio1 prio2 localPrio => .ptpConfigureInstance src enable slaveOnly inst profile domain identity prio1 prio2 localPrio
  | .ptpConfigurePort _ masterOnly port inst transport dest addr logSync logDelay logAnnounce annTimeout syncTimeout delayTimeout twoStep localPrio coastLimit maxPath delayOutlier offsetOutlier filterLen => .ptpConfigurePort src masterOnly port inst transport dest addr logSync logDelay logAnnounce annTimeout syncTimeout delayTimeout twoStep localPrio coastLimit maxPath delayOutlier offsetOutlier filterLen
  | .ptpGetInstance _ inst => .ptpGetInstance src inst
  | .ptpGetPort _ clear port => .ptpGetPort src clear port
  | .ptpConfigureTc _ mode domains => .ptpConfigureTc src mode domains
  | .servoConfigure _ mode slot bandwidth maxSlew stepThr lockThr ppsOffset => .servoConfigure src mode slot bandwidth maxSlew stepThr lockThr ppsOffset
  | .servoGet _ => .servoGet src
  | .asymConfigure _ port mode c alpha partner lambdaOut lambdaIn k avg qLimit coast agree => .asymConfigure src port mode c alpha partner lambdaOut lambdaIn k avg qLimit coast agree
  | .asymGet _ port => .asymGet src port
  | .mclkConfigureChannel _ enable chan source sourceIdx selector fNum fDen freqLim hitLim actLim coastLim bandwidth orbitLen marker markerIdx markOffset frameLen => .mclkConfigureChannel src enable chan source sourceIdx selector fNum fDen freqLim hitLim actLim coastLim bandwidth orbitLen marker markerIdx markOffset frameLen
  | .mclkConfigureOutput _ squelch output chan mode m d offset slewLim w swing => .mclkConfigureOutput src squelch output chan mode m d offset slewLim w swing
  | .mclkGet _ chan => .mclkGet src chan
  | .mclkSetOrbit _ given chan t bunch orbit => .mclkSetOrbit src given chan t bunch orbit
  | .stitchConfigureGroup _ group action mask port => .stitchConfigureGroup src group action mask port
  | .stitchConfigureTrigger _ enable seqReset source channel kind target spacing seq => .stitchConfigureTrigger src enable seqReset source channel kind target spacing seq
  | .stitchConfigureBroadcast _ chan phaseTarget setInterval bcnTarget bcnInterval => .stitchConfigureBroadcast src chan phaseTarget setInterval bcnTarget bcnInterval
  | .stitchConfigurePort _ compensate rxLog port relayTrig relayTimed relayUser errThr => .stitchConfigurePort src compensate rxLog port relayTrig relayTimed relayUser errThr
  | .stitchSend _ type target payload => .stitchSend src type target payload
  | .stitchSendTimed _ target code e lead r => .stitchSendTimed src target code e lead r
  | .stitchCancelTimed _ handle => .stitchCancelTimed src handle
  | .stitchGetPort _ clear port => .stitchGetPort src clear port
  | .stitchGetSequencer _ clear => .stitchGetSequencer src clear
  | .parseConfigurePort _ trustPcp trustDscp port malformed lenConflict profile pcpMap dscpMap defClass => .parseConfigurePort src trustPcp trustDscp port malformed lenConflict profile pcpMap dscpMap defClass
  | .parseConfigureExtract _ enable0 enable1 profile cond0 anchor0 offset0 width0 cond1 anchor1 offset1 width1 => .parseConfigureExtract src enable0 enable1 profile cond0 anchor0 offset0 width0 cond1 anchor1 offset1 width1
  | .aclStage _ part bytes => .aclStage src part bytes
  | .aclCommit _ copy capture setClass steer redirect entry kind tc profile port => .aclCommit src copy capture setClass steer redirect entry kind tc profile port
  | .aclDelete _ entry => .aclDelete src entry
  | .aclRead _ clear entry part => .aclRead src clear entry part
  | .steerConfigureProfile _ symmetric profile mode fields seed field sh m b absent => .steerConfigureProfile src symmetric profile mode fields seed field sh m b absent
  | .steerWrite _ table first count entries => .steerWrite src table first count entries
  | .steerRead _ table first count => .steerRead src table first count
  | .slowConfigure _ reason rate burst => .slowConfigure src reason rate burst
  | .parseGetCounts _ clear port => .parseGetCounts src clear port
  | .classSetMap _ kind map first count classes => .classSetMap src kind map first count classes
  | .bufferConfigureClass _ cls cl spillOn returnLow => .bufferConfigureClass src cls cl spillOn returnLow
  | .queueConfigure _ port cls ql weight => .queueConfigure src port cls ql weight
  | .portConfigureEgress _ cut port limit => .portConfigureEgress src cut port limit
  | .skeinConfigure _ spill cls => .skeinConfigure src spill cls
  | .skeinGetStatus _ clear => .skeinGetStatus src clear
  | .coreGetQueue _ clear port cls => .coreGetQueue src clear port cls
  | .bufferGetStatus _ => .bufferGetStatus src
  | .captureConfigure _ enable trigger snap port k mask => .captureConfigure src enable trigger snap port k mask
  | .classSetKind _ port cls kind => .classSetKind src port cls kind
  | .contractSet _ replace port cls lMax rate burst fmax mask => .contractSet src replace port cls lMax rate burst fmax mask
  | .contractDelete _ port cls => .contractDelete src port cls
  | .contractCheck _ replace port cls lMax rate burst fmax mask => .contractCheck src replace port cls lMax rate burst fmax mask
  | .contractGet _ clear port cls => .contractGet src clear port cls
  | .guaranteedPoolSet _ size => .guaranteedPoolSet src size
  | .vlanConfigure _ enable l3 vid members untagged unknown floodMgid rmac => .vlanConfigure src enable l3 vid members untagged unknown floodMgid rmac
  | .portSetPvid _ port pvid => .portSetPvid src port pvid
  | .routerMacSet _ index mac => .routerMacSet src index mac
  | .l2Add _ replace vid da result => .l2Add src replace vid da result
  | .l2Delete _ vid da => .l2Delete src vid da
  | .nhWrite _ decTtl nh port vid da rmac => .nhWrite src decTtl nh port vid da rmac
  | .nhDelete _ nh => .nhDelete src nh
  | .hostAdd _ replace family addr result => .hostAdd src replace family addr result
  | .hostDelete _ family addr => .hostDelete src family addr
  | .lpmAdd _ replace family pfx length result => .lpmAdd src replace family pfx length result
  | .lpmDelete _ family pfx length => .lpmDelete src family pfx length
  | .memberStage _ first count members => .memberStage src first count members
  | .ecmpCommit _ group count profile => .ecmpCommit src group count profile
  | .ecmpDelete _ group => .ecmpDelete src group
  | .mcastCommit _ aon prune mgid count => .mcastCommit src aon prune mgid count
  | .tableLookup _ table key => .tableLookup src table key
  | .tableReadIndex _ table location => .tableReadIndex src table location
  | .tableClearLost _ table location => .tableClearLost src table location
  | .tableGetUsage _ clear => .tableGetUsage src clear
  | .pairConfigure _ enable cycle lead commitTimeout joinTimeout watchdog skewGuard window chunkAge closeTimeout outcomeTimeout etherType plAsym => .pairConfigure src enable cycle lead commitTimeout joinTimeout watchdog skewGuard window chunkAge closeTimeout outcomeTimeout etherType plAsym
  | .pairConfigurePort _ port attach source base count untagged => .pairConfigurePort src port attach source base count untagged
  | .pairGetStatus _ clear => .pairGetStatus src clear
  | .pairSwitchover _ => .pairSwitchover src
  | .pairResync _ => .pairResync src
  | .pairTest _ duration => .pairTest src duration
  | .pairGetDigest _ clear source => .pairGetDigest src clear source
  | .pairGetDup _ source => .pairGetDup src source
  | .secChallenge _ role level => .secChallenge src role level
  | .secResponse _ part bytes => .secResponse src part bytes
  | .secClose _ => .secClose src
  | .secDebugLock _ => .secDebugLock src
  | .secRevokeKey _ slot => .secRevokeKey src slot
  | .secSetMinVersion _ minimum => .secSetMinVersion src minimum
  | .secGetStatus _ => .secGetStatus src
  | .counterClear _ block first count => .counterClear src block first count
  | .eventInject _ source cause data => .eventInject src source cause data
  | i => i

/-- The opcode of a mailbox command (R458, and the command table of its owning chapter). -/
def Instr.opcode : Instr → Option Nat
  | .nop .. => some 0x0000
  | .fence .. => some 0x0001
  | .sysPowerDomain .. => some 0x0101
  | .sysGetStatus .. => some 0x0102
  | .sysSetBoard .. => some 0x0103
  | .sysReset .. => some 0x0110
  | .sysGetPower .. => some 0x0111
  | .sysGetThermal .. => some 0x0112
  | .sysConfigureThermal .. => some 0x0113
  | .sysSetSensor .. => some 0x0114
  | .imgLoad .. => some 0x0201
  | .imgValidate .. => some 0x0202
  | .imgArm .. => some 0x0203
  | .imgDisarm .. => some 0x0204
  | .imgGetStatus .. => some 0x0205
  | .imgErase .. => some 0x0206
  | .portConfigure .. => some 0x0301
  | .portCastOn .. => some 0x0302
  | .portBindOff .. => some 0x0303
  | .portSetPolicy .. => some 0x0304
  | .laneGetStatus .. => some 0x0305
  | .laneGetLatency .. => some 0x0306
  | .laneSetChannelTable .. => some 0x0307
  | .laneRelatch .. => some 0x0308
  | .laneSwatch .. => some 0x0309
  | .laneSweep .. => some 0x030A
  | .laneSweepRead .. => some 0x030B
  | .selvedgeConfigure .. => some 0x030C
  | .selvedgeGetRange .. => some 0x030D
  | .moduleRead .. => some 0x030E
  | .moduleWrite .. => some 0x030F
  | .tdcConfigureEvt .. => some 0x0801
  | .tdcConfigureGroup .. => some 0x0802
  | .tdcSetInterval .. => some 0x0803
  | .tdcGetChannel .. => some 0x0804
  | .tdcGetLane .. => some 0x0805
  | .tdcSetLaneWindow .. => some 0x0806
  | .tdcCaptureTap .. => some 0x0807
  | .gaugeConfigure .. => some 0x0810
  | .gaugeRun .. => some 0x0811
  | .gaugeFull .. => some 0x0812
  | .gaugeGetStatus .. => some 0x0813
  | .gaugeRestore .. => some 0x0814
  | .gaugeHold .. => some 0x0815
  | .refConfigureSlot .. => some 0x0701
  | .refConfigureSelection .. => some 0x0702
  | .refConfigureDpll .. => some 0x0703
  | .refCommand .. => some 0x0704
  | .refGetSlot .. => some 0x0705
  | .refGetDpll .. => some 0x0706
  | .refSteer .. => some 0x0707
  | .refConfigurePpsOut .. => some 0x0708
  | .refConfigureClkout .. => some 0x0709
  | .refGetClkout .. => some 0x070A
  | .timeSet .. => some 0x0601
  | .timeStep .. => some 0x0602
  | .timeSetRate .. => some 0x0603
  | .timeSetControl .. => some 0x0604
  | .timeGet .. => some 0x0605
  | .timeSetUtc .. => some 0x0606
  | .secSetStepGuard .. => some 0x0C10
  | .secAuthoriseStep .. => some 0x0C11
  | .ptpConfigureInstance .. => some 0x0610
  | .ptpConfigurePort .. => some 0x0611
  | .ptpGetInstance .. => some 0x0612
  | .ptpGetPort .. => some 0x0613
  | .ptpConfigureTc .. => some 0x0614
  | .servoConfigure .. => some 0x0618
  | .servoGet .. => some 0x0619
  | .asymConfigure .. => some 0x0620
  | .asymGet .. => some 0x0621
  | .mclkConfigureChannel .. => some 0x0901
  | .mclkConfigureOutput .. => some 0x0902
  | .mclkGet .. => some 0x0903
  | .mclkSetOrbit .. => some 0x0904
  | .stitchConfigureGroup .. => some 0x0905
  | .stitchConfigureTrigger .. => some 0x0906
  | .stitchConfigureBroadcast .. => some 0x0907
  | .stitchConfigurePort .. => some 0x0908
  | .stitchSend .. => some 0x0909
  | .stitchSendTimed .. => some 0x090A
  | .stitchCancelTimed .. => some 0x090B
  | .stitchGetPort .. => some 0x090C
  | .stitchGetSequencer .. => some 0x090D
  | .parseConfigurePort .. => some 0x0420
  | .parseConfigureExtract .. => some 0x0421
  | .aclStage .. => some 0x0422
  | .aclCommit .. => some 0x0423
  | .aclDelete .. => some 0x0424
  | .aclRead .. => some 0x0425
  | .steerConfigureProfile .. => some 0x0426
  | .steerWrite .. => some 0x0427
  | .steerRead .. => some 0x0428
  | .slowConfigure .. => some 0x0429
  | .parseGetCounts .. => some 0x042A
  | .classSetMap .. => some 0x0501
  | .bufferConfigureClass .. => some 0x0510
  | .queueConfigure .. => some 0x0511
  | .portConfigureEgress .. => some 0x0512
  | .skeinConfigure .. => some 0x0513
  | .skeinGetStatus .. => some 0x0514
  | .coreGetQueue .. => some 0x0515
  | .bufferGetStatus .. => some 0x0516
  | .captureConfigure .. => some 0x0B40
  | .classSetKind .. => some 0x0520
  | .contractSet .. => some 0x0521
  | .contractDelete .. => some 0x0522
  | .contractCheck .. => some 0x0523
  | .contractGet .. => some 0x0524
  | .guaranteedPoolSet .. => some 0x0525
  | .vlanConfigure .. => some 0x0401
  | .portSetPvid .. => some 0x0402
  | .routerMacSet .. => some 0x0403
  | .l2Add .. => some 0x0404
  | .l2Delete .. => some 0x0405
  | .nhWrite .. => some 0x0406
  | .nhDelete .. => some 0x0407
  | .hostAdd .. => some 0x0408
  | .hostDelete .. => some 0x0409
  | .lpmAdd .. => some 0x040A
  | .lpmDelete .. => some 0x040B
  | .memberStage .. => some 0x040C
  | .ecmpCommit .. => some 0x040D
  | .ecmpDelete .. => some 0x040E
  | .mcastCommit .. => some 0x040F
  | .tableLookup .. => some 0x0410
  | .tableReadIndex .. => some 0x0411
  | .tableClearLost .. => some 0x0412
  | .tableGetUsage .. => some 0x0413
  | .pairConfigure .. => some 0x0A01
  | .pairConfigurePort .. => some 0x0A02
  | .pairGetStatus .. => some 0x0A03
  | .pairSwitchover .. => some 0x0A04
  | .pairResync .. => some 0x0A05
  | .pairTest .. => some 0x0A06
  | .pairGetDigest .. => some 0x0A07
  | .pairGetDup .. => some 0x0A08
  | .secChallenge .. => some 0x0C01
  | .secResponse .. => some 0x0C02
  | .secClose .. => some 0x0C03
  | .secDebugLock .. => some 0x0C04
  | .secRevokeKey .. => some 0x0C05
  | .secSetMinVersion .. => some 0x0C06
  | .secGetStatus .. => some 0x0C07
  | .counterClear .. => some 0x0B01
  | .eventInject .. => some 0x0B02
  | _ => none

end Sys2Proof
end

