-- ==== Sys2Proof/Decode.lean ====
section
/-!
DEFINITION. The command that a table word spells: the rows of the opcode table give no bits, so there is none.
-/
namespace Sys2Proof

/-- The command that the low `nbits` bits of `w` spell by the table's bits. Every row of the table has an empty list of
fields and no fixed bits: the commands are events and register accesses, and a mailbox command's words are decoded by the
mailbox (`rawCommand`, R446, R447). -/
def decodeTableWord (_nbits _w : Nat) : Option Instr := none

end Sys2Proof
end

