-- ==== Sys2Proof/Machine/Bits.lean ====
section
/-!
DEFINITION. Plain helpers: numbered tables, byte order, rounding, saturation and the units of time.
-/
namespace Sys2Proof

/-- What table `t` holds under number `k`: the reset value of the object where it holds nothing. -/
def Tbl.get {α : Type} [Inhabited α] : Tbl α → Nat → α
  | [], _ => default
  | (i, v) :: t, k => if i = k then v else Tbl.get t k

/-- What table `t` holds under number `k`, or `none`. -/
def Tbl.find {α : Type} : Tbl α → Nat → Option α
  | [], _ => none
  | (i, v) :: t, k => if i = k then some v else Tbl.find t k

/-- What table `t` holds under number `k`, or `d`. -/
def Tbl.getD {α : Type} (t : Tbl α) (k : Nat) (d : α) : α := (Tbl.find t k).getD d

/-- `t` with `v` under number `k`, kept in rising order. -/
def Tbl.set {α : Type} : Tbl α → Nat → α → Tbl α
  | [], k, v => [(k, v)]
  | (i, w) :: t, k, v =>
    if k < i then (k, v) :: (i, w) :: t
    else if k = i then (k, v) :: t
    else (i, w) :: Tbl.set t k v

/-- `t` with what it holds under `k` changed by `f`. -/
def Tbl.upd {α : Type} [Inhabited α] (t : Tbl α) (k : Nat) (f : α → α) : Tbl α :=
  Tbl.set t k (f (Tbl.get t k))

/-- `t` without an entry under `k`. -/
def Tbl.del {α : Type} : Tbl α → Nat → Tbl α
  | [], _ => []
  | (i, w) :: t, k => if i = k then t else (i, w) :: Tbl.del t k

/-- Whether `t` holds something under `k`. -/
def Tbl.has {α : Type} (t : Tbl α) (k : Nat) : Bool := (Tbl.find t k).isSome

/-- Every object of `t` changed by `f`, which is given its number. -/
def Tbl.mapAll {α : Type} (t : Tbl α) (f : Nat → α → α) : Tbl α := t.map fun p => (p.1, f p.1 p.2)

/-- Numbers in strictly rising order: the canonical form of a table. -/
def Tbl.sorted {α : Type} : Tbl α → Bool
  | [] => true
  | [_] => true
  | (i, _) :: (j, w) :: t => decide (i < j) && Tbl.sorted ((j, w) :: t)

/-- The element `k` of a list, or its type's default. -/
def nth {α : Type} [Inhabited α] (l : List α) (k : Nat) : α := l.getD k default

/-- A sum that saturates at the largest value of `w` bits. -/
def satAdd (w a b : Nat) : Nat := min (a + b) (2 ^ w - 1)

/-- One more, saturating at 32 bits. -/
def inc32 (a : Nat) : Nat := satAdd 32 a 1

/-- `n` bytes of `v`, most significant first (R9). -/
def beBytes : Nat → Nat → List Byte
  | 0, _ => []
  | n + 1, v => BitVec.ofNat 8 (v / 256 ^ n) :: beBytes n v

/-- The value of bytes, most significant first (R9). -/
def ofBe : List Byte → Nat
  | l => l.foldl (fun a b => a * 256 + b.toNat) 0

/-- `n` bytes of `v`, least significant first. -/
def leBytes : Nat → Nat → List Byte
  | 0, _ => []
  | n + 1, v => BitVec.ofNat 8 v :: leBytes n (v / 256)

/-- The value of bytes, least significant first. -/
def ofLe : List Byte → Nat
  | [] => 0
  | b :: l => b.toNat + 256 * ofLe l

/-- `v` as an unsigned value of `w` bits, modulo 2^w (two's complement for a negative one). -/
def unsignedOf (w : Nat) (v : Int) : Nat := (v % (2 ^ w : Nat)).toNat

/-- A value of `w` bits read as two's complement. -/
def signedOf (w : Nat) (v : Nat) : Int :=
  let u := v % 2 ^ w
  if u < 2 ^ (w - 1) then u else (u : Int) - (2 ^ w : Nat)

/-- Bytes `first` to `first + n - 1` of `l`, zeros beyond its end. -/
def slice (l : List Byte) (first n : Nat) : List Byte :=
  (List.range n).map fun i => l.getD (first + i) 0

/-- `l` cut or padded with zeros to `n` bytes. -/
def padTo (n : Nat) (l : List Byte) : List Byte := slice l 0 n

/-- `a / b` rounded up; 0 where `b` is 0. -/
def ceilDiv (a b : Nat) : Nat := (a + b - 1) / b

/-- `a / b` rounded half away from zero. -/
def roundDiv (a : Int) (b : Nat) : Int :=
  if 0 ≤ a then (2 * a + b) / (2 * b) else -((2 * (-a) + b) / (2 * b))

/-- `v` held between `lo` and `hi`. -/
def clampInt (lo hi v : Int) : Int := max lo (min hi v)

/-- One nanosecond in the unit of durations, 2^-16 ns. -/
def nsU : Nat := 65536
/-- One microsecond in 2^-16 ns. -/
def usU : Nat := 65536000
/-- One millisecond in 2^-16 ns. -/
def msU : Nat := 65536000000
/-- One second in 2^-16 ns. -/
def secU : Nat := 65536000000000

/-- CORE cycles of 0.8 ns in one microsecond, millisecond, second (R12). -/
def usC : Nat := 1250
/-- CORE cycles in one millisecond. -/
def msC : Nat := 1250000
/-- CORE cycles in one second. -/
def secC : Nat := 1250000000

/-- A duration in 2^-16 ns as whole CORE cycles, rounded up: one cycle is 0.8 ns, which is 52,428.8 units. -/
def cyclesOf (d : Nat) : Nat := ceilDiv (d * 5) 262144

/-- Counts that wrap at 2^32: the forward distance from `a` to `b`. -/
def dist32 (a b : BitVec 32) : Nat := (b - a).toNat

/-- The instants of `l` that are younger than `w` cycles at `now`. -/
def recent (l : List Nat) (now w : Nat) : List Nat := l.filter fun t => now < t + w

/-- Whether an event limited to one in `w` cycles may be raised at `now`. -/
def mayRaise (last : Option Nat) (now w : Nat) : Bool :=
  match last with
  | none => true
  | some t => t + w ≤ now

/-- One step of a CRC without reflection: polynomial `p`, width `w`, one input bit. -/
def crcBit (w p crc : Nat) (b : Bool) : Nat :=
  let top := crc.testBit (w - 1)
  let sh := (crc * 2) % 2 ^ w
  if top != b then sh ^^^ p else sh

/-- A CRC without reflection over one byte, most significant bit first. -/
def crcByte (w p crc : Nat) (b : Byte) : Nat :=
  [7, 6, 5, 4, 3, 2, 1, 0].foldl (fun c i => crcBit w p c (b.toNat.testBit i)) crc

/-- A CRC without reflection over bytes, from the initial value `init`. -/
def crcOver (w p init : Nat) (l : List Byte) : Nat := l.foldl (crcByte w p) init

/-- One step of a reflected CRC: polynomial `p` as reflected. -/
def crcBitR (p crc : Nat) (b : Bool) : Nat :=
  let x := crc.testBit 0
  if x != b then (crc / 2) ^^^ p else crc / 2

/-- A reflected CRC over one byte, least significant bit first. -/
def crcByteR (p crc : Nat) (b : Byte) : Nat :=
  (List.range 8).foldl (fun c i => crcBitR p c (b.toNat.testBit i)) crc

/-- The IEEE 802.3 CRC-32 of bytes. -/
def crc32 (l : List Byte) : Nat := (l.foldl (crcByteR 0xEDB88320) 0xFFFFFFFF) ^^^ 0xFFFFFFFF

end Sys2Proof
end

