-- ==== Sys2Proof/Machine/Operands.lean ====
section
/-!
DEFINITION. The operand forms of mailbox commands: where each parameter lies in the parameter area (R446, R447), how it
is read, and the command an entry spells. Offsets are those of the rule: the area starts at offset 8, with PFLAGS.
-/
namespace Sys2Proof.Machine

/-- Flag `i` of PFLAGS. -/
def pF (l : List Byte) (i : Nat) : Bool := (l.getD 0 0).toNat.testBit i
/-- The unsigned parameter of `w` bytes at offset `o`. -/
def pU (l : List Byte) (o w : Nat) : Nat := ofBe (slice l (o - 8) w)
/-- The signed parameter of `w` bytes at offset `o`. -/
def pS (l : List Byte) (o w : Nat) : Int := signedOf (8 * w) (pU l o w)
/-- The KTIME parameter at offset `o`. -/
def pK (l : List Byte) (o : Nat) : KTime := { sec := pU l o 8, ns := pU l (o + 8) 4, sub := pU l (o + 12) 2 }
/-- The mask of 256 bits at offset `o`: byte 0 holds bits 255 to 248. -/
def pM (l : List Byte) (o : Nat) : BitVec 256 := BitVec.ofNat 256 (pU l o 32)
/-- The byte string of `n` bytes at offset `o`. -/
def pB (l : List Byte) (o n : Nat) : List Byte := slice l (o - 8) n
/-- The bytes from offset `o` to the end of the area. -/
def pRest (l : List Byte) (o : Nat) : List Byte := l.drop (o - 8)
/-- The entries of `w` bytes from offset `o` to the end of the area. -/
def pWords (l : List Byte) (o w : Nat) : List Nat :=
  (List.range ((l.length + 8 - o) / w)).map fun i => pU l (o + i * w) w

/-- The staged members from offset `o` to the end of the area, 8 bytes each (PRESUMED, log 4: the spec names the fields
of a member and not their places). -/
def pMembers (l : List Byte) (o : Nat) : List Member :=
  (List.range ((l.length + 8 - o) / 8)).map fun i =>
    { nh := pU l (o + 8 * i) 4, port := pU l (o + 8 * i) 2, vid := pU l (o + 8 * i + 2) 2,
      routed := (pU l (o + 8 * i + 4) 1).testBit 0 }

/-- The image that goes with an IMG_LOAD: what its reads of host memory return; none where they time out. An entry holds no image; in
a journal it follows the entry. -/
def pImage (l : List Byte) : Option (List Byte) := if l.length ≤ 56 then none else some (l.drop 56)

/-- Where the parameters of a command lie (R447): offset and width of each parameter that is no flag, in the order its
owning table lists them; width 0 for one that takes the rest of the area. `v6` says that the family parameter is IPv6,
which widens an address. -/
def spans (op : Nat) (v6 : Bool) : List (Nat × Nat) :=
  match op with
  | 0x0000 => [(8, 56)]
  | 0x0101 => [(10, 2)]
  | 0x0103 => [(9, 1), (16, 8), (24, 2), (28, 4), (32, 4), (36, 4)]
  | 0x0110 => [(9, 1)]
  | 0x0113 => [(12, 4), (16, 4), (20, 4), (24, 4)]
  | 0x0114 => [(10, 2), (12, 1)]
  | 0x0201 => [(9, 1), (16, 8), (24, 4)]
  | 0x0202 => [(10, 2)]
  | 0x0203 => [(10, 2), (12, 1), (16, 16)]
  | 0x0204 => [(10, 2)]
  | 0x0205 => [(10, 2)]
  | 0x0206 => [(10, 2)]
  | 0x0301 => [(10, 2), (12, 1), (16, 4), (20, 1), (24, 4)]
  | 0x0302 => [(10, 2)]
  | 0x0303 => [(10, 2), (16, 8)]
  | 0x0304 => [(10, 2), (16, 8), (24, 8), (32, 4), (40, 8), (48, 1)]
  | 0x0305 => [(10, 2)]
  | 0x0306 => [(10, 2)]
  | 0x0307 => [(10, 2)]
  | 0x0308 => [(10, 2)]
  | 0x0309 => [(10, 2), (12, 1), (13, 1), (14, 1), (15, 1), (16, 1), (20, 4)]
  | 0x030A => [(10, 2), (12, 4), (16, 8)]
  | 0x030B => [(10, 2), (12, 4)]
  | 0x030C => [(10, 2), (12, 4), (16, 4), (24, 8), (32, 8)]
  | 0x030D => [(10, 2)]
  | 0x030E => [(12, 4), (16, 4), (20, 4), (24, 4), (28, 4)]
  | 0x030F => [(12, 4), (16, 4), (20, 4), (24, 4), (28, 4), (32, 8)]
  | 0x0401 => [(12, 4), (16, 32), (48, 32), (80, 1), (84, 4), (88, 2)]
  | 0x0402 => [(10, 2), (12, 4)]
  | 0x0403 => [(10, 2), (12, 6)]
  | 0x0404 => [(12, 4), (16, 6), (24, 4)]
  | 0x0405 => [(12, 4), (16, 6)]
  | 0x0406 => [(12, 4), (16, 2), (20, 4), (24, 6), (30, 2)]
  | 0x0407 => [(12, 4)]
  | 0x0408 => if v6 then [(9, 1), (16, 16), (32, 4)] else [(9, 1), (12, 4), (16, 4)]
  | 0x0409 => if v6 then [(9, 1), (16, 16)] else [(9, 1), (12, 4)]
  | 0x040A => if v6 then [(9, 1), (16, 16), (32, 4), (36, 4)] else [(9, 1), (12, 4), (16, 4), (20, 4)]
  | 0x040B => if v6 then [(9, 1), (16, 16), (32, 4)] else [(9, 1), (12, 4), (16, 4)]
  | 0x040C => [(10, 2), (12, 2), (16, 0)]
  | 0x040D => [(10, 2), (12, 2), (14, 2)]
  | 0x040E => [(10, 2)]
  | 0x040F => [(12, 4), (16, 2)]
  | 0x0410 => [(10, 2), (12, 0)]
  | 0x0411 => [(10, 2), (12, 4)]
  | 0x0412 => [(10, 2), (12, 4)]
  | 0x0420 => [(10, 2), (12, 1), (13, 1), (14, 2), (16, 2), (18, 2), (20, 2)]
  | 0x0421 => [(10, 2), (12, 1), (13, 1), (16, 4), (20, 4), (24, 1), (25, 1), (28, 4), (32, 4)]
  | 0x0422 => [(10, 2), (16, 40)]
  | 0x0423 => [(10, 2), (12, 1), (14, 2), (16, 2), (18, 2)]
  | 0x0424 => [(10, 2)]
  | 0x0425 => [(10, 2), (12, 2)]
  | 0x0426 => [(10, 2), (12, 1), (16, 4), (20, 4), (24, 1), (28, 4), (32, 4), (36, 4), (40, 1)]
  | 0x0427 => [(10, 2), (12, 2), (14, 2), (16, 0)]
  | 0x0428 => [(10, 2), (12, 2), (14, 2)]
  | 0x0429 => [(10, 2), (12, 4), (16, 4)]
  | 0x042A => [(10, 2)]
  | 0x0501 => [(9, 1), (10, 2), (12, 2), (14, 2), (16, 0)]
  | 0x0510 => [(10, 2), (12, 4), (16, 4), (20, 4)]
  | 0x0511 => [(10, 2), (12, 2), (16, 4), (20, 4)]
  | 0x0512 => [(10, 2), (12, 4)]
  | 0x0513 => [(10, 2)]
  | 0x0515 => [(10, 2), (12, 2)]
  | 0x0520 => [(10, 2), (12, 2), (14, 1)]
  | 0x0521 => [(10, 2), (12, 2), (16, 8), (24, 4), (28, 4), (32, 4), (40, 32)]
  | 0x0522 => [(10, 2), (12, 2)]
  | 0x0523 => [(10, 2), (12, 2), (16, 8), (24, 4), (28, 4), (32, 4), (40, 32)]
  | 0x0524 => [(10, 2), (12, 2)]
  | 0x0525 => [(12, 4)]
  | 0x0601 => [(16, 16)]
  | 0x0602 => [(16, 8), (24, 2)]
  | 0x0603 => [(16, 8)]
  | 0x0604 => [(9, 1)]
  | 0x0606 => [(12, 4)]
  | 0x0610 => [(10, 2), (12, 1), (16, 4), (24, 8), (32, 2), (34, 2), (36, 2)]
  | 0x0611 => [(10, 2), (12, 2), (14, 1), (15, 1), (16, 16), (32, 4), (36, 4), (40, 4), (44, 4), (48, 4), (52, 4), (56, 1), (58, 2), (64, 8), (72, 8), (80, 8), (88, 8), (96, 4)]
  | 0x0612 => [(10, 2)]
  | 0x0613 => [(10, 2)]
  | 0x0614 => [(9, 1), (16, 32)]
  | 0x0618 => [(9, 1), (10, 2), (12, 4), (16, 8), (24, 8), (32, 8), (40, 8)]
  | 0x0620 => [(10, 2), (12, 1), (16, 8), (24, 8), (32, 2), (36, 4), (40, 4), (48, 8), (56, 8), (64, 4), (72, 8), (80, 8)]
  | 0x0621 => [(10, 2)]
  | 0x0701 => [(10, 2), (12, 4), (16, 4), (20, 4), (24, 1), (26, 2), (28, 2), (30, 2), (32, 8), (40, 8), (48, 8), (56, 8), (64, 8), (72, 4), (80, 8)]
  | 0x0702 => [(9, 1), (10, 1), (16, 8), (24, 8), (32, 8), (40, 2), (48, 8), (56, 8), (64, 8)]
  | 0x0703 => [(12, 4), (16, 4), (24, 8), (32, 8), (40, 8)]
  | 0x0704 => [(10, 2), (12, 1)]
  | 0x0705 => [(10, 2)]
  | 0x0707 => [(9, 1), (16, 8), (24, 8), (32, 2)]
  | 0x0708 => [(10, 2), (16, 8), (24, 8), (32, 8), (40, 2)]
  | 0x0709 => [(10, 2), (12, 4), (16, 4), (20, 1), (24, 8), (32, 8), (40, 1), (42, 2)]
  | 0x070A => [(10, 2)]
  | 0x0801 => [(10, 2), (12, 1), (13, 1), (14, 2), (16, 4), (20, 2), (24, 8), (32, 4), (40, 8)]
  | 0x0802 => [(10, 2), (12, 1), (13, 1), (16, 8), (24, 8)]
  | 0x0803 => [(10, 2), (12, 2), (14, 2), (16, 8), (24, 2)]
  | 0x0804 => [(10, 2)]
  | 0x0805 => [(10, 2)]
  | 0x0806 => [(9, 1)]
  | 0x0807 => [(10, 2), (12, 1), (14, 2), (16, 4)]
  | 0x0810 => [(12, 4), (16, 8), (24, 4), (32, 8), (40, 8), (48, 8), (56, 1), (57, 1)]
  | 0x0811 => [(10, 2)]
  | 0x0812 => [(10, 2)]
  | 0x0813 => [(10, 2)]
  | 0x0814 => [(10, 2), (12, 1)]
  | 0x0815 => [(16, 8)]
  | 0x0901 => [(10, 2), (12, 1), (14, 2), (16, 2), (20, 4), (24, 4), (32, 8), (40, 8), (48, 8), (56, 8), (64, 4), (68, 4), (72, 1), (74, 2), (80, 8), (88, 4)]
  | 0x0902 => [(10, 2), (12, 2), (14, 1), (16, 4), (20, 4), (24, 8), (32, 8), (40, 4), (44, 1)]
  | 0x0903 => [(10, 2)]
  | 0x0904 => [(10, 2), (16, 16), (32, 4), (40, 8)]
  | 0x0905 => [(10, 2), (12, 1), (16, 32), (48, 2)]
  | 0x0906 => [(10, 2), (12, 2), (14, 2), (16, 2), (24, 8), (32, 4)]
  | 0x0907 => [(10, 2), (12, 2), (16, 8), (24, 2), (28, 4)]
  | 0x0908 => [(10, 2), (12, 2), (14, 2), (16, 2), (20, 4)]
  | 0x0909 => [(9, 1), (10, 2), (16, 8)]
  | 0x090A => [(10, 2), (12, 2), (16, 16), (32, 8), (40, 4)]
  | 0x090B => [(12, 4)]
  | 0x090C => [(10, 2)]
  | 0x0A01 => [(16, 8), (24, 8), (32, 4), (40, 8), (48, 8), (56, 8), (64, 4), (72, 8), (80, 8), (88, 8), (96, 4), (104, 8)]
  | 0x0A02 => [(10, 2), (12, 1), (14, 2), (16, 2), (18, 2), (20, 1)]
  | 0x0A06 => [(16, 8)]
  | 0x0A07 => [(10, 2)]
  | 0x0A08 => [(10, 2)]
  | 0x0B01 => [(9, 1), (10, 2), (12, 2)]
  | 0x0B02 => [(10, 2), (12, 2), (16, 16)]
  | 0x0B40 => [(10, 2), (12, 4), (16, 2), (20, 4), (24, 32)]
  | 0x0C01 => [(9, 1), (10, 1)]
  | 0x0C02 => [(10, 2), (16, 48)]
  | 0x0C05 => [(10, 2)]
  | 0x0C06 => [(12, 4)]
  | 0x0C10 => [(16, 8), (24, 8)]
  | 0x0C11 => [(9, 1), (16, 8), (24, 8)]
  | _ => []

/-- How many flags PFLAGS holds for a command (R447). -/
def flagCount (op : Nat) : Nat :=
  match op with
  | 0x0101 => 1
  | 0x0309 => 1
  | 0x0401 => 2
  | 0x0404 => 1
  | 0x0406 => 1
  | 0x0408 => 1
  | 0x040A => 1
  | 0x040F => 2
  | 0x0413 => 1
  | 0x0420 => 2
  | 0x0421 => 2
  | 0x0423 => 5
  | 0x0425 => 1
  | 0x0426 => 1
  | 0x042A => 1
  | 0x0512 => 1
  | 0x0513 => 1
  | 0x0514 => 1
  | 0x0515 => 1
  | 0x0521 => 1
  | 0x0523 => 1
  | 0x0524 => 1
  | 0x0606 => 2
  | 0x0610 => 2
  | 0x0611 => 1
  | 0x0613 => 1
  | 0x0701 => 3
  | 0x0708 => 1
  | 0x0709 => 1
  | 0x0801 => 2
  | 0x0803 => 1
  | 0x0804 => 1
  | 0x0812 => 1
  | 0x0814 => 1
  | 0x0901 => 1
  | 0x0902 => 1
  | 0x0904 => 1
  | 0x0906 => 2
  | 0x0908 => 2
  | 0x090C => 1
  | 0x090D => 1
  | 0x0A01 => 1
  | 0x0A03 => 1
  | 0x0A07 => 1
  | 0x0B40 => 1
  | _ => 0

/-- The command that an entry of parameter area `l` (from offset 8 on) spells for opcode `op`, from source `src`: none for an
opcode outside the index (R458). -/
def decodeCmd (src : CmdSrc) (op : Nat) (l : List Byte) : Option Instr :=
  match op with
  | 0x0000 => some (.nop src (padTo 56 l))
  | 0x0001 => some (.fence src)
  | 0x0101 => some (.sysPowerDomain src (pF l 0) (pU l 10 2))
  | 0x0102 => some (.sysGetStatus src)
  | 0x0103 => some (.sysSetBoard src (pU l 9 1) (pU l 16 8) (pU l 24 2) (pU l 28 4) (pU l 32 4) (pU l 36 4))
  | 0x0110 => some (.sysReset src (pU l 9 1))
  | 0x0111 => some (.sysGetPower src)
  | 0x0112 => some (.sysGetThermal src)
  | 0x0113 => some (.sysConfigureThermal src (pS l 12 4) (pS l 16 4) (pS l 20 4) (pU l 24 4))
  | 0x0114 => some (.sysSetSensor src (pU l 10 2) (pU l 12 1))
  | 0x0201 => some (.imgLoad src (pU l 9 1) (pU l 16 8) (pU l 24 4) (pImage l))
  | 0x0202 => some (.imgValidate src (pU l 10 2))
  | 0x0203 => some (.imgArm src (pU l 10 2) (pU l 12 1) (pK l 16))
  | 0x0204 => some (.imgDisarm src (pU l 10 2))
  | 0x0205 => some (.imgGetStatus src (pU l 10 2))
  | 0x0206 => some (.imgErase src (pU l 10 2))
  | 0x0301 => some (.portConfigure src (pU l 10 2) (pU l 12 1) (pU l 16 4) (pU l 20 1) (pU l 24 4))
  | 0x0302 => some (.portCastOn src (pU l 10 2))
  | 0x0303 => some (.portBindOff src (pU l 10 2) (pU l 16 8))
  | 0x0304 => some (.portSetPolicy src (pU l 10 2) (pU l 16 8) (pU l 24 8) (pU l 32 4) (pU l 40 8) (pU l 48 1))
  | 0x0305 => some (.laneGetStatus src (pU l 10 2))
  | 0x0306 => some (.laneGetLatency src (pU l 10 2))
  | 0x0307 => some (.laneSetChannelTable src (pU l 10 2))
  | 0x0308 => some (.laneRelatch src (pU l 10 2))
  | 0x0309 => some (.laneSwatch src (pF l 0) (pU l 10 2) (pU l 12 1) (pU l 13 1) (pU l 14 1) (pU l 15 1) (pU l 16 1) (pU l 20 4))
  | 0x030A => some (.laneSweep src (pU l 10 2) (pU l 12 4) (pU l 16 8))
  | 0x030B => some (.laneSweepRead src (pU l 10 2) (pU l 12 4))
  | 0x030C => some (.selvedgeConfigure src (pU l 10 2) (pU l 12 4) (pU l 16 4) (pU l 24 8) (pU l 32 8))
  | 0x030D => some (.selvedgeGetRange src (pU l 10 2))
  | 0x030E => some (.moduleRead src (pU l 12 4) (pU l 16 4) (pU l 20 4) (pU l 24 4) (pU l 28 4))
  | 0x030F => some (.moduleWrite src (pU l 12 4) (pU l 16 4) (pU l 20 4) (pU l 24 4) (pU l 28 4) (pB l 32 8))
  | 0x0401 => some (.vlanConfigure src (pF l 0) (pF l 1) (pU l 12 4) (pM l 16) (pM l 48) (pU l 80 1) (pU l 84 4) (pU l 88 2))
  | 0x0402 => some (.portSetPvid src (pU l 10 2) (pU l 12 4))
  | 0x0403 => some (.routerMacSet src (pU l 10 2) (pU l 12 6))
  | 0x0404 => some (.l2Add src (pF l 0) (pU l 12 4) (pU l 16 6) (pU l 24 4))
  | 0x0405 => some (.l2Delete src (pU l 12 4) (pU l 16 6))
  | 0x0406 => some (.nhWrite src (pF l 0) (pU l 12 4) (pU l 16 2) (pU l 20 4) (pU l 24 6) (pU l 30 2))
  | 0x0407 => some (.nhDelete src (pU l 12 4))
  | 0x0408 => some (if pU l 9 1 = 1 then .hostAdd src (pF l 0) (pU l 9 1) (pU l 16 16) (pU l 32 4)
      else .hostAdd src (pF l 0) (pU l 9 1) (pU l 12 4) (pU l 16 4))
  | 0x0409 => some (if pU l 9 1 = 1 then .hostDelete src (pU l 9 1) (pU l 16 16)
      else .hostDelete src (pU l 9 1) (pU l 12 4))
  | 0x040A => some (if pU l 9 1 = 1 then .lpmAdd src (pF l 0) (pU l 9 1) (pU l 16 16) (pU l 32 4) (pU l 36 4)
      else .lpmAdd src (pF l 0) (pU l 9 1) (pU l 12 4) (pU l 16 4) (pU l 20 4))
  | 0x040B => some (if pU l 9 1 = 1 then .lpmDelete src (pU l 9 1) (pU l 16 16) (pU l 32 4)
      else .lpmDelete src (pU l 9 1) (pU l 12 4) (pU l 16 4))
  | 0x040C => some (.memberStage src (pU l 10 2) (pU l 12 2) (pMembers l 16))
  | 0x040D => some (.ecmpCommit src (pU l 10 2) (pU l 12 2) (pU l 14 2))
  | 0x040E => some (.ecmpDelete src (pU l 10 2))
  | 0x040F => some (.mcastCommit src (pF l 0) (pF l 1) (pU l 12 4) (pU l 16 2))
  | 0x0410 => some (.tableLookup src (pU l 10 2) (pRest l 12))
  | 0x0411 => some (.tableReadIndex src (pU l 10 2) (pU l 12 4))
  | 0x0412 => some (.tableClearLost src (pU l 10 2) (pU l 12 4))
  | 0x0413 => some (.tableGetUsage src (pF l 0))
  | 0x0420 => some (.parseConfigurePort src (pF l 0) (pF l 1) (pU l 10 2) (pU l 12 1) (pU l 13 1) (pU l 14 2) (pU l 16 2) (pU l 18 2) (pU l 20 2))
  | 0x0421 => some (.parseConfigureExtract src (pF l 0) (pF l 1) (pU l 10 2) (pU l 12 1) (pU l 13 1) (pU l 16 4) (pU l 20 4) (pU l 24 1) (pU l 25 1) (pU l 28 4) (pU l 32 4))
  | 0x0422 => some (.aclStage src (pU l 10 2) (pB l 16 40))
  | 0x0423 => some (.aclCommit src (pF l 0) (pF l 1) (pF l 2) (pF l 3) (pF l 4) (pU l 10 2) (pU l 12 1) (pU l 14 2) (pU l 16 2) (pU l 18 2))
  | 0x0424 => some (.aclDelete src (pU l 10 2))
  | 0x0425 => some (.aclRead src (pF l 0) (pU l 10 2) (pU l 12 2))
  | 0x0426 => some (.steerConfigureProfile src (pF l 0) (pU l 10 2) (pU l 12 1) (pU l 16 4) (pU l 20 4) (pU l 24 1) (pU l 28 4) (pU l 32 4) (pU l 36 4) (pU l 40 1))
  | 0x0427 => some (.steerWrite src (pU l 10 2) (pU l 12 2) (pU l 14 2) (pWords l 16 4))
  | 0x0428 => some (.steerRead src (pU l 10 2) (pU l 12 2) (pU l 14 2))
  | 0x0429 => some (.slowConfigure src (pU l 10 2) (pU l 12 4) (pU l 16 4))
  | 0x042A => some (.parseGetCounts src (pF l 0) (pU l 10 2))
  | 0x0501 => some (.classSetMap src (pU l 9 1) (pU l 10 2) (pU l 12 2) (pU l 14 2) (pWords l 16 2))
  | 0x0510 => some (.bufferConfigureClass src (pU l 10 2) (pU l 12 4) (pU l 16 4) (pU l 20 4))
  | 0x0511 => some (.queueConfigure src (pU l 10 2) (pU l 12 2) (pU l 16 4) (pU l 20 4))
  | 0x0512 => some (.portConfigureEgress src (pF l 0) (pU l 10 2) (pU l 12 4))
  | 0x0513 => some (.skeinConfigure src (pF l 0) (pU l 10 2))
  | 0x0514 => some (.skeinGetStatus src (pF l 0))
  | 0x0515 => some (.coreGetQueue src (pF l 0) (pU l 10 2) (pU l 12 2))
  | 0x0516 => some (.bufferGetStatus src)
  | 0x0520 => some (.classSetKind src (pU l 10 2) (pU l 12 2) (pU l 14 1))
  | 0x0521 => some (.contractSet src (pF l 0) (pU l 10 2) (pU l 12 2) (pU l 16 8) (pU l 24 4) (pU l 28 4) (pU l 32 4) (pM l 40))
  | 0x0522 => some (.contractDelete src (pU l 10 2) (pU l 12 2))
  | 0x0523 => some (.contractCheck src (pF l 0) (pU l 10 2) (pU l 12 2) (pU l 16 8) (pU l 24 4) (pU l 28 4) (pU l 32 4) (pM l 40))
  | 0x0524 => some (.contractGet src (pF l 0) (pU l 10 2) (pU l 12 2))
  | 0x0525 => some (.guaranteedPoolSet src (pU l 12 4))
  | 0x0601 => some (.timeSet src (pK l 16))
  | 0x0602 => some (.timeStep src (pS l 16 8) (pU l 24 2))
  | 0x0603 => some (.timeSetRate src (pS l 16 8))
  | 0x0604 => some (.timeSetControl src (pU l 9 1))
  | 0x0605 => some (.timeGet src)
  | 0x0606 => some (.timeSetUtc src (pF l 0) (pF l 1) (pU l 12 4))
  | 0x0610 => some (.ptpConfigureInstance src (pF l 0) (pF l 1) (pU l 10 2) (pU l 12 1) (pU l 16 4) (pB l 24 8) (pU l 32 2) (pU l 34 2) (pU l 36 2))
  | 0x0611 => some (.ptpConfigurePort src (pF l 0) (pU l 10 2) (pU l 12 2) (pU l 14 1) (pU l 15 1) (pU l 16 16) (pS l 32 4) (pS l 36 4) (pS l 40 4) (pU l 44 4) (pU l 48 4) (pU l 52 4) (pU l 56 1) (pU l 58 2) (pU l 64 8) (pU l 72 8) (pU l 80 8) (pU l 88 8) (pU l 96 4))
  | 0x0612 => some (.ptpGetInstance src (pU l 10 2))
  | 0x0613 => some (.ptpGetPort src (pF l 0) (pU l 10 2))
  | 0x0614 => some (.ptpConfigureTc src (pU l 9 1) (pM l 16))
  | 0x0618 => some (.servoConfigure src (pU l 9 1) (pU l 10 2) (pU l 12 4) (pS l 16 8) (pU l 24 8) (pU l 32 8) (pS l 40 8))
  | 0x0619 => some (.servoGet src)
  | 0x0620 => some (.asymConfigure src (pU l 10 2) (pU l 12 1) (pS l 16 8) (pS l 24 8) (pU l 32 2) (pU l 36 4) (pU l 40 4) (pS l 48 8) (pU l 56 8) (pU l 64 4) (pU l 72 8) (pU l 80 8))
  | 0x0621 => some (.asymGet src (pU l 10 2))
  | 0x0701 => some (.refConfigureSlot src (pF l 0) (pF l 1) (pF l 2) (pU l 10 2) (pU l 12 4) (pU l 16 4) (pU l 20 4) (pU l 24 1) (pU l 26 2) (pU l 28 2) (pU l 30 2) (pS l 32 8) (pS l 40 8) (pU l 48 8) (pU l 56 8) (pU l 64 8) (pU l 72 4) (pU l 80 8))
  | 0x0702 => some (.refConfigureSelection src (pU l 9 1) (pU l 10 1) (pU l 16 8) (pS l 24 8) (pU l 32 8) (pU l 40 2) (pU l 48 8) (pU l 56 8) (pU l 64 8))
  | 0x0703 => some (.refConfigureDpll src (pU l 12 4) (pU l 16 4) (pS l 24 8) (pU l 32 8) (pU l 40 8))
  | 0x0704 => some (.refCommand src (pU l 10 2) (pU l 12 1))
  | 0x0705 => some (.refGetSlot src (pU l 10 2))
  | 0x0706 => some (.refGetDpll src)
  | 0x0707 => some (.refSteer src (pU l 9 1) (pS l 16 8) (pU l 24 8) (pU l 32 2))
  | 0x0708 => some (.refConfigurePpsOut src (pF l 0) (pU l 10 2) (pS l 16 8) (pU l 24 8) (pU l 32 8) (pU l 40 2))
  | 0x0709 => some (.refConfigureClkout src (pF l 0) (pU l 10 2) (pU l 12 4) (pU l 16 4) (pU l 20 1) (pS l 24 8) (pU l 32 8) (pU l 40 1) (pU l 42 2))
  | 0x070A => some (.refGetClkout src (pU l 10 2))
  | 0x0801 => some (.tdcConfigureEvt src (pF l 0) (pF l 1) (pU l 10 2) (pU l 12 1) (pU l 13 1) (pU l 14 2) (pU l 16 4) (pU l 20 2) (pS l 24 8) (pU l 32 4) (pU l 40 8))
  | 0x0802 => some (.tdcConfigureGroup src (pU l 10 2) (pU l 12 1) (pU l 13 1) (pU l 16 8) (pU l 24 8))
  | 0x0803 => some (.tdcSetInterval src (pF l 0) (pU l 10 2) (pU l 12 2) (pU l 14 2) (pU l 16 8) (pU l 24 2))
  | 0x0804 => some (.tdcGetChannel src (pF l 0) (pU l 10 2))
  | 0x0805 => some (.tdcGetLane src (pU l 10 2))
  | 0x0806 => some (.tdcSetLaneWindow src (pU l 9 1))
  | 0x0807 => some (.tdcCaptureTap src (pU l 10 2) (pU l 12 1) (pU l 14 2) (pU l 16 4))
  | 0x0810 => some (.gaugeConfigure src (pS l 12 4) (pU l 16 8) (pU l 24 4) (pU l 32 8) (pU l 40 8) (pU l 48 8) (pU l 56 1) (pU l 57 1))
  | 0x0811 => some (.gaugeRun src (pU l 10 2))
  | 0x0812 => some (.gaugeFull src (pF l 0) (pU l 10 2))
  | 0x0813 => some (.gaugeGetStatus src (pU l 10 2))
  | 0x0814 => some (.gaugeRestore src (pF l 0) (pU l 10 2) (pU l 12 1))
  | 0x0815 => some (.gaugeHold src (pU l 16 8))
  | 0x0901 => some (.mclkConfigureChannel src (pF l 0) (pU l 10 2) (pU l 12 1) (pU l 14 2) (pU l 16 2) (pU l 20 4) (pU l 24 4) (pS l 32 8) (pU l 40 8) (pU l 48 8) (pU l 56 8) (pU l 64 4) (pU l 68 4) (pU l 72 1) (pU l 74 2) (pS l 80 8) (pU l 88 4))
  | 0x0902 => some (.mclkConfigureOutput src (pF l 0) (pU l 10 2) (pU l 12 2) (pU l 14 1) (pU l 16 4) (pU l 20 4) (pS l 24 8) (pS l 32 8) (pU l 40 4) (pU l 44 1))
  | 0x0903 => some (.mclkGet src (pU l 10 2))
  | 0x0904 => some (.mclkSetOrbit src (pF l 0) (pU l 10 2) (pK l 16) (pU l 32 4) (pU l 40 8))
  | 0x0905 => some (.stitchConfigureGroup src (pU l 10 2) (pU l 12 1) (pM l 16) (pU l 48 2))
  | 0x0906 => some (.stitchConfigureTrigger src (pF l 0) (pF l 1) (pU l 10 2) (pU l 12 2) (pU l 14 2) (pU l 16 2) (pU l 24 8) (pU l 32 4))
  | 0x0907 => some (.stitchConfigureBroadcast src (pU l 10 2) (pU l 12 2) (pU l 16 8) (pU l 24 2) (pU l 28 4))
  | 0x0908 => some (.stitchConfigurePort src (pF l 0) (pF l 1) (pU l 10 2) (pU l 12 2) (pU l 14 2) (pU l 16 2) (pU l 20 4))
  | 0x0909 => some (.stitchSend src (pU l 9 1) (pU l 10 2) (pU l 16 8))
  | 0x090A => some (.stitchSendTimed src (pU l 10 2) (pU l 12 2) (pK l 16) (pU l 32 8) (pU l 40 4))
  | 0x090B => some (.stitchCancelTimed src (pU l 12 4))
  | 0x090C => some (.stitchGetPort src (pF l 0) (pU l 10 2))
  | 0x090D => some (.stitchGetSequencer src (pF l 0))
  | 0x0A01 => some (.pairConfigure src (pF l 0) (pU l 16 8) (pU l 24 8) (pU l 32 4) (pU l 40 8) (pU l 48 8) (pU l 56 8) (pU l 64 4) (pU l 72 8) (pU l 80 8) (pU l 88 8) (pU l 96 4) (pS l 104 8))
  | 0x0A02 => some (.pairConfigurePort src (pU l 10 2) (pU l 12 1) (pU l 14 2) (pU l 16 2) (pU l 18 2) (pU l 20 1))
  | 0x0A03 => some (.pairGetStatus src (pF l 0))
  | 0x0A04 => some (.pairSwitchover src)
  | 0x0A05 => some (.pairResync src)
  | 0x0A06 => some (.pairTest src (pU l 16 8))
  | 0x0A07 => some (.pairGetDigest src (pF l 0) (pU l 10 2))
  | 0x0A08 => some (.pairGetDup src (pU l 10 2))
  | 0x0B01 => some (.counterClear src (pU l 9 1) (pU l 10 2) (pU l 12 2))
  | 0x0B02 => some (.eventInject src (pU l 10 2) (pU l 12 2) (pB l 16 16))
  | 0x0B40 => some (.captureConfigure src (pF l 0) (pU l 10 2) (pU l 12 4) (pU l 16 2) (pU l 20 4) (pM l 24))
  | 0x0C01 => some (.secChallenge src (pU l 9 1) (pU l 10 1))
  | 0x0C02 => some (.secResponse src (pU l 10 2) (pB l 16 48))
  | 0x0C03 => some (.secClose src)
  | 0x0C04 => some (.secDebugLock src)
  | 0x0C05 => some (.secRevokeKey src (pU l 10 2))
  | 0x0C06 => some (.secSetMinVersion src (pU l 12 4))
  | 0x0C07 => some (.secGetStatus src)
  | 0x0C10 => some (.secSetStepGuard src (pU l 16 8) (pU l 24 8))
  | 0x0C11 => some (.secAuthoriseStep src (pU l 9 1) (pU l 16 8) (pU l 24 8))
  | _ => none

/-- The source and the opcode of a mailbox command; none for any other command. -/
def cmdKey : Instr → Option (CmdSrc × Nat)
  | .nop src _ => some (src, 0x0000)
  | .fence src => some (src, 0x0001)
  | .sysPowerDomain src _ _ => some (src, 0x0101)
  | .sysGetStatus src => some (src, 0x0102)
  | .sysSetBoard src _ _ _ _ _ _ => some (src, 0x0103)
  | .sysReset src _ => some (src, 0x0110)
  | .sysGetPower src => some (src, 0x0111)
  | .sysGetThermal src => some (src, 0x0112)
  | .sysConfigureThermal src _ _ _ _ => some (src, 0x0113)
  | .sysSetSensor src _ _ => some (src, 0x0114)
  | .imgLoad src _ _ _ _ => some (src, 0x0201)
  | .imgValidate src _ => some (src, 0x0202)
  | .imgArm src _ _ _ => some (src, 0x0203)
  | .imgDisarm src _ => some (src, 0x0204)
  | .imgGetStatus src _ => some (src, 0x0205)
  | .imgErase src _ => some (src, 0x0206)
  | .portConfigure src _ _ _ _ _ => some (src, 0x0301)
  | .portCastOn src _ => some (src, 0x0302)
  | .portBindOff src _ _ => some (src, 0x0303)
  | .portSetPolicy src _ _ _ _ _ _ => some (src, 0x0304)
  | .laneGetStatus src _ => some (src, 0x0305)
  | .laneGetLatency src _ => some (src, 0x0306)
  | .laneSetChannelTable src _ => some (src, 0x0307)
  | .laneRelatch src _ => some (src, 0x0308)
  | .laneSwatch src _ _ _ _ _ _ _ _ => some (src, 0x0309)
  | .laneSweep src _ _ _ => some (src, 0x030A)
  | .laneSweepRead src _ _ => some (src, 0x030B)
  | .selvedgeConfigure src _ _ _ _ _ => some (src, 0x030C)
  | .selvedgeGetRange src _ => some (src, 0x030D)
  | .moduleRead src _ _ _ _ _ => some (src, 0x030E)
  | .moduleWrite src _ _ _ _ _ _ => some (src, 0x030F)
  | .vlanConfigure src _ _ _ _ _ _ _ _ => some (src, 0x0401)
  | .portSetPvid src _ _ => some (src, 0x0402)
  | .routerMacSet src _ _ => some (src, 0x0403)
  | .l2Add src _ _ _ _ => some (src, 0x0404)
  | .l2Delete src _ _ => some (src, 0x0405)
  | .nhWrite src _ _ _ _ _ _ => some (src, 0x0406)
  | .nhDelete src _ => some (src, 0x0407)
  | .hostAdd src _ _ _ _ => some (src, 0x0408)
  | .hostDelete src _ _ => some (src, 0x0409)
  | .lpmAdd src _ _ _ _ _ => some (src, 0x040A)
  | .lpmDelete src _ _ _ => some (src, 0x040B)
  | .memberStage src _ _ _ => some (src, 0x040C)
  | .ecmpCommit src _ _ _ => some (src, 0x040D)
  | .ecmpDelete src _ => some (src, 0x040E)
  | .mcastCommit src _ _ _ _ => some (src, 0x040F)
  | .tableLookup src _ _ => some (src, 0x0410)
  | .tableReadIndex src _ _ => some (src, 0x0411)
  | .tableClearLost src _ _ => some (src, 0x0412)
  | .tableGetUsage src _ => some (src, 0x0413)
  | .parseConfigurePort src _ _ _ _ _ _ _ _ _ => some (src, 0x0420)
  | .parseConfigureExtract src _ _ _ _ _ _ _ _ _ _ _ => some (src, 0x0421)
  | .aclStage src _ _ => some (src, 0x0422)
  | .aclCommit src _ _ _ _ _ _ _ _ _ _ => some (src, 0x0423)
  | .aclDelete src _ => some (src, 0x0424)
  | .aclRead src _ _ _ => some (src, 0x0425)
  | .steerConfigureProfile src _ _ _ _ _ _ _ _ _ _ => some (src, 0x0426)
  | .steerWrite src _ _ _ _ => some (src, 0x0427)
  | .steerRead src _ _ _ => some (src, 0x0428)
  | .slowConfigure src _ _ _ => some (src, 0x0429)
  | .parseGetCounts src _ _ => some (src, 0x042A)
  | .classSetMap src _ _ _ _ _ => some (src, 0x0501)
  | .bufferConfigureClass src _ _ _ _ => some (src, 0x0510)
  | .queueConfigure src _ _ _ _ => some (src, 0x0511)
  | .portConfigureEgress src _ _ _ => some (src, 0x0512)
  | .skeinConfigure src _ _ => some (src, 0x0513)
  | .skeinGetStatus src _ => some (src, 0x0514)
  | .coreGetQueue src _ _ _ => some (src, 0x0515)
  | .bufferGetStatus src => some (src, 0x0516)
  | .classSetKind src _ _ _ => some (src, 0x0520)
  | .contractSet src _ _ _ _ _ _ _ _ => some (src, 0x0521)
  | .contractDelete src _ _ => some (src, 0x0522)
  | .contractCheck src _ _ _ _ _ _ _ _ => some (src, 0x0523)
  | .contractGet src _ _ _ => some (src, 0x0524)
  | .guaranteedPoolSet src _ => some (src, 0x0525)
  | .timeSet src _ => some (src, 0x0601)
  | .timeStep src _ _ => some (src, 0x0602)
  | .timeSetRate src _ => some (src, 0x0603)
  | .timeSetControl src _ => some (src, 0x0604)
  | .timeGet src => some (src, 0x0605)
  | .timeSetUtc src _ _ _ => some (src, 0x0606)
  | .ptpConfigureInstance src _ _ _ _ _ _ _ _ _ => some (src, 0x0610)
  | .ptpConfigurePort src _ _ _ _ _ _ _ _ _ _ _ _ _ _ _ _ _ _ _ => some (src, 0x0611)
  | .ptpGetInstance src _ => some (src, 0x0612)
  | .ptpGetPort src _ _ => some (src, 0x0613)
  | .ptpConfigureTc src _ _ => some (src, 0x0614)
  | .servoConfigure src _ _ _ _ _ _ _ => some (src, 0x0618)
  | .servoGet src => some (src, 0x0619)
  | .asymConfigure src _ _ _ _ _ _ _ _ _ _ _ _ => some (src, 0x0620)
  | .asymGet src _ => some (src, 0x0621)
  | .refConfigureSlot src _ _ _ _ _ _ _ _ _ _ _ _ _ _ _ _ _ _ => some (src, 0x0701)
  | .refConfigureSelection src _ _ _ _ _ _ _ _ _ => some (src, 0x0702)
  | .refConfigureDpll src _ _ _ _ _ => some (src, 0x0703)
  | .refCommand src _ _ => some (src, 0x0704)
  | .refGetSlot src _ => some (src, 0x0705)
  | .refGetDpll src => some (src, 0x0706)
  | .refSteer src _ _ _ _ => some (src, 0x0707)
  | .refConfigurePpsOut src _ _ _ _ _ _ => some (src, 0x0708)
  | .refConfigureClkout src _ _ _ _ _ _ _ _ _ => some (src, 0x0709)
  | .refGetClkout src _ => some (src, 0x070A)
  | .tdcConfigureEvt src _ _ _ _ _ _ _ _ _ _ _ => some (src, 0x0801)
  | .tdcConfigureGroup src _ _ _ _ _ => some (src, 0x0802)
  | .tdcSetInterval src _ _ _ _ _ _ => some (src, 0x0803)
  | .tdcGetChannel src _ _ => some (src, 0x0804)
  | .tdcGetLane src _ => some (src, 0x0805)
  | .tdcSetLaneWindow src _ => some (src, 0x0806)
  | .tdcCaptureTap src _ _ _ _ => some (src, 0x0807)
  | .gaugeConfigure src _ _ _ _ _ _ _ _ => some (src, 0x0810)
  | .gaugeRun src _ => some (src, 0x0811)
  | .gaugeFull src _ _ => some (src, 0x0812)
  | .gaugeGetStatus src _ => some (src, 0x0813)
  | .gaugeRestore src _ _ _ => some (src, 0x0814)
  | .gaugeHold src _ => some (src, 0x0815)
  | .mclkConfigureChannel src _ _ _ _ _ _ _ _ _ _ _ _ _ _ _ _ _ => some (src, 0x0901)
  | .mclkConfigureOutput src _ _ _ _ _ _ _ _ _ _ => some (src, 0x0902)
  | .mclkGet src _ => some (src, 0x0903)
  | .mclkSetOrbit src _ _ _ _ _ => some (src, 0x0904)
  | .stitchConfigureGroup src _ _ _ _ => some (src, 0x0905)
  | .stitchConfigureTrigger src _ _ _ _ _ _ _ _ => some (src, 0x0906)
  | .stitchConfigureBroadcast src _ _ _ _ _ => some (src, 0x0907)
  | .stitchConfigurePort src _ _ _ _ _ _ _ => some (src, 0x0908)
  | .stitchSend src _ _ _ => some (src, 0x0909)
  | .stitchSendTimed src _ _ _ _ _ => some (src, 0x090A)
  | .stitchCancelTimed src _ => some (src, 0x090B)
  | .stitchGetPort src _ _ => some (src, 0x090C)
  | .stitchGetSequencer src _ => some (src, 0x090D)
  | .pairConfigure src _ _ _ _ _ _ _ _ _ _ _ _ _ => some (src, 0x0A01)
  | .pairConfigurePort src _ _ _ _ _ _ => some (src, 0x0A02)
  | .pairGetStatus src _ => some (src, 0x0A03)
  | .pairSwitchover src => some (src, 0x0A04)
  | .pairResync src => some (src, 0x0A05)
  | .pairTest src _ => some (src, 0x0A06)
  | .pairGetDigest src _ _ => some (src, 0x0A07)
  | .pairGetDup src _ => some (src, 0x0A08)
  | .counterClear src _ _ _ => some (src, 0x0B01)
  | .eventInject src _ _ _ => some (src, 0x0B02)
  | .captureConfigure src _ _ _ _ _ _ => some (src, 0x0B40)
  | .secChallenge src _ _ => some (src, 0x0C01)
  | .secResponse src _ _ => some (src, 0x0C02)
  | .secClose src => some (src, 0x0C03)
  | .secDebugLock src => some (src, 0x0C04)
  | .secRevokeKey src _ => some (src, 0x0C05)
  | .secSetMinVersion src _ => some (src, 0x0C06)
  | .secGetStatus src => some (src, 0x0C07)
  | .secSetStepGuard src _ _ => some (src, 0x0C10)
  | .secAuthoriseStep src _ _ _ => some (src, 0x0C11)
  | _ => none

end Sys2Proof.Machine
end

