-- ==== Sys2Proof/Machine/Causes.lean ====
section
/-!
DEFINITION. The cause codes of events (R509): CLASS in bits 15 to 8, INDEX in bits 7 to 0, counted from 1 in the order
of the owning chapter's event table.
-/
namespace Sys2Proof.Ev

/-- CAST_ON_DONE (lanes, R62) -/
def castOnDone : Nat := 0x0101
/-- CAST_ON_TIMEOUT (lanes, R62) -/
def castOnTimeout : Nat := 0x0102
/-- LOS (lanes, R62) -/
def los : Nat := 0x0103
/-- LOCK_LOSS (lanes, R62) -/
def lockLoss : Nat := 0x0104
/-- FREQ_RANGE (lanes, R62) -/
def freqRange : Nat := 0x0105
/-- LATENCY_FAULT (lanes, R62) -/
def latencyFault : Nat := 0x0106
/-- FLAP_LIMIT (lanes, R62) -/
def flapLimit : Nat := 0x0107
/-- DESKEW_CHANGED (lanes, R62) -/
def deskewChanged : Nat := 0x0108
/-- TEMP_EXTRAPOLATED (lanes, R62) -/
def tempExtrapolated : Nat := 0x0109
/-- TEMP_DRIFT (lanes, R62) -/
def tempDrift : Nat := 0x010A
/-- BIND_OFF_DONE (lanes, R62) -/
def bindOffDone : Nat := 0x010B
/-- SWATCH_LOCK (lanes, R62) -/
def swatchLock : Nat := 0x010C
/-- SWATCH_LOSS (lanes, R62) -/
def swatchLoss : Nat := 0x010D
/-- SWEEP_DONE (lanes, R62) -/
def sweepDone : Nat := 0x010E
/-- MODULE_CHANGE (lanes, R62) -/
def moduleChange : Nat := 0x010F
/-- TABLE_COPY_DIFFER (lanes, R62) -/
def tableCopyDiffer : Nat := 0x0110
/-- TABLE_ABSENT (lanes, R62) -/
def tableAbsent : Nat := 0x0111

/-- DENSITY_MISMATCH (selvedge, R94) -/
def densityMismatch : Nat := 0x0201
/-- RANGE_STEP (selvedge, R94) -/
def rangeStep : Nat := 0x0202
/-- RANGE_TIMEOUT (selvedge, R94) -/
def rangeTimeout : Nat := 0x0203
/-- RANGE_RECOVERED (selvedge, R94) -/
def rangeRecovered : Nat := 0x0204

/-- INPUT_OPEN (TDC, R126) -/
def inputOpen : Nat := 0x0301
/-- RATE_EXCEEDED (TDC, R126) -/
def rateExceeded : Nat := 0x0302
/-- SILENT (TDC, R126) -/
def silent : Nat := 0x0303
/-- RESULT (TDC, R126) -/
def result : Nat := 0x0304
/-- CHANNEL_LOST (TDC, R126) -/
def channelLost : Nat := 0x0305
/-- GATE_TIMEOUT (TDC, R126) -/
def gateTimeout : Nat := 0x0306
/-- RING_THRESH (TDC, R126) -/
def ringThresh : Nat := 0x0307
/-- RING_FULL (TDC, R126) -/
def ringFull : Nat := 0x0308
/-- RING_TIMEOUT (TDC, R126) -/
def ringTimeout : Nat := 0x0309
/-- RING_INDEX (TDC, R126) -/
def ringIndex : Nat := 0x030A

/-- FULL_DONE (gauge, R149) -/
def fullDone : Nat := 0x0401
/-- GAUGE_DONE (gauge, R149) -/
def gaugeDone : Nat := 0x0402
/-- GAUGE_FAIL (gauge, R149) -/
def gaugeFail : Nat := 0x0403
/-- DLL_UNLOCK (gauge, R149) -/
def dllUnlock : Nat := 0x0404
/-- DLL_RELOCK (gauge, R149) -/
def dllRelock : Nat := 0x0405
/-- GAUGE_COPY_DIFFER (gauge, R149) -/
def gaugeCopyDiffer : Nat := 0x0406
/-- GAUGE_COPY_REPAIRED (gauge, R149) -/
def gaugeCopyRepaired : Nat := 0x0407
/-- GAUGE_LOST (gauge, R149) -/
def gaugeLost : Nat := 0x0408
/-- GAUGE_TEMP_UNAVAILABLE (gauge, R149) -/
def gaugeTempUnavailable : Nat := 0x0409

/-- SLOT_QUALIFIED (references, R178) -/
def slotQualified : Nat := 0x0501
/-- SLOT_FAILED (references, R178) -/
def slotFailed : Nat := 0x0502
/-- WTR_DONE (references, R178) -/
def wtrDone : Nat := 0x0503
/-- PHASE_HIT (references, R178) -/
def phaseHit : Nat := 0x0504
/-- PHASE_HIT_ABSORBED (references, R178) -/
def phaseHitAbsorbed : Nat := 0x0505
/-- LEVEL_CHANGE (references, R178) -/
def levelChange : Nat := 0x0506
/-- TIE_DISAGREE (references, R178) -/
def tieDisagree : Nat := 0x0507
/-- PULL_LIMIT (references, R178) -/
def pullLimit : Nat := 0x0508
/-- STATE_CHANGE (references, R178) -/
def stateChange : Nat := 0x0509
/-- DPLL_LOCK_LOSS (references, R178) -/
def dpllLockLoss : Nat := 0x050A
/-- STEER_TIMEOUT (references, R178) -/
def steerTimeout : Nat := 0x050B
/-- HOLDOVER_SHORT (references, R178) -/
def holdoverShort : Nat := 0x050C
/-- XO_RANGE (references, R178) -/
def xoRange : Nat := 0x050D
/-- BW_LIMITED (references, R178) -/
def bwLimited : Nat := 0x050E
/-- DEVICE_LEVEL (references, R178) -/
def deviceLevel : Nat := 0x050F
/-- PPS_ALIGNED (references, R178) -/
def ppsAligned : Nat := 0x0510
/-- CLKOUT_ALIGNED (references, R178) -/
def clkoutAligned : Nat := 0x0511

/-- TIME_SET_DONE (timescale, R212) -/
def timeSetDone : Nat := 0x0601
/-- STEP_ADMITTED (timescale, R212) -/
def stepAdmitted : Nat := 0x0602
/-- STEP_REFUSED (timescale, R212) -/
def stepRefused : Nat := 0x0603
/-- HOLD_START (timescale, R212) -/
def holdStart : Nat := 0x0604
/-- HOLD_END (timescale, R212) -/
def holdEnd : Nat := 0x0605
/-- ALLOWANCE_EXPIRED (timescale, R212) -/
def allowanceExpired : Nat := 0x0606
/-- CONTROL_CHANGE (timescale, R212) -/
def controlChange : Nat := 0x0607
/-- PPS_CAPTURE (timescale, R212) -/
def ppsCapture : Nat := 0x0608
/-- TSQ_THRESH (timescale, R212) -/
def tsqThresh : Nat := 0x0609
/-- TSQ_REFUSED (timescale, R212) -/
def tsqRefused : Nat := 0x060A
/-- TSQ_TIMEOUT (timescale, R212) -/
def tsqTimeout : Nat := 0x060B
/-- TSQ_INDEX (timescale, R212) -/
def tsqIndex : Nat := 0x060C

/-- SERVO_LOCKED (PTP and servo, R239) -/
def servoLocked : Nat := 0x0701
/-- SERVO_UNLOCKED (PTP and servo, R239) -/
def servoUnlocked : Nat := 0x0702
/-- SERVO_COAST (PTP and servo, R239) -/
def servoCoast : Nat := 0x0703
/-- SERVO_STEP_REFUSED (PTP and servo, R239) -/
def servoStepRefused : Nat := 0x0704
/-- SOURCE_CHANGE (PTP and servo, R239) -/
def sourceChange : Nat := 0x0705
/-- PARENT_CHANGE (PTP and servo, R239) -/
def parentChange : Nat := 0x0706
/-- MASTER_LOSS (PTP and servo, R239) -/
def masterLoss : Nat := 0x0707
/-- PORT_STATE (PTP and servo, R239) -/
def portState : Nat := 0x0708
/-- DELAY_STEP (PTP and servo, R239) -/
def delayStep : Nat := 0x0709
/-- OFFSET_STEP (PTP and servo, R239) -/
def offsetStep : Nat := 0x070A
/-- ASYM_IMPLAUSIBLE (PTP and servo, R239) -/
def asymImplausible : Nat := 0x070B
/-- ASYM_PEER (PTP and servo, R239) -/
def asymPeer : Nat := 0x070C
/-- ASYM_FALLBACK (PTP and servo, R239) -/
def asymFallback : Nat := 0x070D

/-- STITCH_OVERFLOW (stitches, R272) -/
def stitchOverflow : Nat := 0x0801
/-- TIMED_LATE (stitches, R272) -/
def timedLate : Nat := 0x0802
/-- MC_STATE (stitches, R272) -/
def mcState : Nat := 0x0803
/-- MC_PHASE_HIT (stitches, R272) -/
def mcPhaseHit : Nat := 0x0804
/-- MC_PHASE_HIT_ABSORBED (stitches, R272) -/
def mcPhaseHitAbsorbed : Nat := 0x0805
/-- MC_SOURCE_SELECTED (stitches, R272) -/
def mcSourceSelected : Nat := 0x0806
/-- MARKER_LOST (stitches, R272) -/
def markerLost : Nat := 0x0807
/-- ORBIT_ALIGNED (stitches, R272) -/
def orbitAligned : Nat := 0x0808
/-- MCLK_ALIGNED (stitches, R272) -/
def mclkAligned : Nat := 0x0809
/-- MCLK_SQUELCH (stitches, R272) -/
def mclkSquelch : Nat := 0x080A
/-- STITCH_ERRORS (stitches, R272) -/
def stitchErrors : Nat := 0x080B
/-- STITCH_RX (stitches, R272) -/
def stitchRx : Nat := 0x080C

/-- SLOW_DROP (parser, R299) -/
def slowDrop : Nat := 0x0901
/-- STEER_ABSENT (parser, R299) -/
def steerAbsent : Nat := 0x0902
/-- STEER_INVALID (parser, R299) -/
def steerInvalid : Nat := 0x0903
/-- PAUSE_RX (parser, R299) -/
def pauseRx : Nat := 0x0904
/-- PARSE_EXCEPTION (parser, R299) -/
def parseException : Nat := 0x0905

/-- TABLE_ECC (tables, R321) -/
def tableEcc : Nat := 0x0A01
/-- TABLE_REBUILT (tables, R321) -/
def tableRebuilt : Nat := 0x0A02
/-- ACL_LOST (tables, R321) -/
def aclLost : Nat := 0x0A03
/-- MC_AON_REFUSED (tables, R321) -/
def mcAonRefused : Nat := 0x0A04
/-- TABLE_FULL (tables, R321) -/
def tableFull : Nat := 0x0A05

/-- QUEUE_FLUSHED (switch core, R355) -/
def queueFlushed : Nat := 0x0B01
/-- CELL_RETIRED (switch core, R355) -/
def cellRetired : Nat := 0x0B02
/-- TAIL_DROP (switch core, R355) -/
def tailDrop : Nat := 0x0B03
/-- SKEIN_READY (switch core, R355) -/
def skeinReady : Nat := 0x0B04
/-- SKEIN_FAULT (switch core, R355) -/
def skeinFault : Nat := 0x0B05
/-- CAP_THRESH (switch core, R355) -/
def capThresh : Nat := 0x0B06
/-- CAP_TIMEOUT (switch core, R355) -/
def capTimeout : Nat := 0x0B07
/-- CAP_INDEX (switch core, R355) -/
def capIndex : Nat := 0x0B08
/-- CAP_LOST (switch core, R355) -/
def capLost : Nat := 0x0B09

/-- LATE_GUARD (admission, R376) -/
def lateGuard : Nat := 0x0C01
/-- CONTRACT_SUSPENDED (admission, R376) -/
def contractSuspended : Nat := 0x0C02
/-- CONTRACT_RESUMED (admission, R376) -/
def contractResumed : Nat := 0x0C03
/-- CONTRACT_DRAINED (admission, R376) -/
def contractDrained : Nat := 0x0C04

/-- ROLE_CHANGE (pair, R416) -/
def roleChange : Nat := 0x0D01
/-- PAIR_FORMED (pair, R416) -/
def pairFormed : Nat := 0x0D02
/-- PAIR_MISMATCH (pair, R416) -/
def pairMismatch : Nat := 0x0D03
/-- SPLIT_RESOLVED (pair, R416) -/
def splitResolved : Nat := 0x0D04
/-- PARTNER_LOST (pair, R416) -/
def partnerLost : Nat := 0x0D05
/-- HEARTBEAT_LOST (pair, R416) -/
def heartbeatLost : Nat := 0x0D06
/-- ALIVE_FAULT (pair, R416) -/
def aliveFault : Nat := 0x0D07
/-- PL_SILENT (pair, R416) -/
def plSilent : Nat := 0x0D08
/-- LINK_HALF (pair, R416) -/
def linkHalf : Nat := 0x0D09
/-- ALIGN_FAIL (pair, R416) -/
def alignFail : Nat := 0x0D0A
/-- ALIGN_LOST (pair, R416) -/
def alignLost : Nat := 0x0D0B
/-- LIFELINE_DEGRADED (pair, R416) -/
def lifelineDegraded : Nat := 0x0D0C
/-- HEALTH_LOST (pair, R416) -/
def healthLost : Nat := 0x0D0D
/-- PAIR_FAULT (pair, R416) -/
def pairFault : Nat := 0x0D0E
/-- DIVERGENCE (pair, R416) -/
def divergence : Nat := 0x0D0F
/-- DUP_TABLE_FULL (pair, R416) -/
def dupTableFull : Nat := 0x0D10
/-- PATH_MISMATCH (pair, R416) -/
def pathMismatch : Nat := 0x0D11
/-- SELFTEST_FAIL (pair, R416) -/
def selftestFail : Nat := 0x0D12
/-- XFEED_DROP (pair, R416) -/
def xfeedDrop : Nat := 0x0D13
/-- STANDBY_UNREALISED (pair, R416) -/
def standbyUnrealised : Nat := 0x0D14

/-- WATCHDOG (firmware, R440) -/
def watchdog : Nat := 0x0E01
/-- CORE_RESTART (firmware, R440) -/
def coreRestart : Nat := 0x0E02
/-- FIREWALL_FAULT (firmware, R440) -/
def firewallFault : Nat := 0x0E03
/-- KEEPER_LOCKSTEP (firmware, R440) -/
def keeperLockstep : Nat := 0x0E04
/-- AUTH_FAIL (firmware, R440) -/
def authFail : Nat := 0x0E05
/-- SESSION_OPEN (firmware, R440) -/
def sessionOpen : Nat := 0x0E06
/-- SESSION_CLOSE (firmware, R440) -/
def sessionClose : Nat := 0x0E07
/-- DEBUG_UNLOCKED (firmware, R440) -/
def debugUnlocked : Nat := 0x0E08
/-- DEBUG_LOCKED (firmware, R440) -/
def debugLocked : Nat := 0x0E09
/-- IMAGE_LOADED (firmware, R440) -/
def imageLoaded : Nat := 0x0E0A
/-- IMAGE_REFUSED (firmware, R440) -/
def imageRefused : Nat := 0x0E0B
/-- BASE_COPY_DIFFER (firmware, R440) -/
def baseCopyDiffer : Nat := 0x0E0C
/-- BASE_COPY_INVALID (firmware, R440) -/
def baseCopyInvalid : Nat := 0x0E0D
/-- BOOT_CONFIG_FAIL (firmware, R440) -/
def bootConfigFail : Nat := 0x0E0E
/-- OVERLAY_APPLIED (firmware, R440) -/
def overlayApplied : Nat := 0x0E0F
/-- OVERLAY_DISARMED (firmware, R440) -/
def overlayDisarmed : Nat := 0x0E10

/-- MB_DONE (mailboxes, R459) -/
def mbDone : Nat := 0x0F01
/-- MB_THRESH (mailboxes, R459) -/
def mbThresh : Nat := 0x0F02
/-- MB_FAULT (mailboxes, R459) -/
def mbFault : Nat := 0x0F03
/-- MB_INDEX (mailboxes, R459) -/
def mbIndex : Nat := 0x0F04
/-- MB_TIMEOUT (mailboxes, R459) -/
def mbTimeout : Nat := 0x0F05
/-- MB_ABORTED (mailboxes, R459) -/
def mbAborted : Nat := 0x0F06

/-- RECOVERY_START (recovery, R478) -/
def recoveryStart : Nat := 0x1001
/-- RECOVERY_DONE (recovery, R478) -/
def recoveryDone : Nat := 0x1002
/-- EPOCH_RESTART (recovery, R478) -/
def epochRestart : Nat := 0x1003
/-- EPOCH_SKIP (recovery, R478) -/
def epochSkip : Nat := 0x1004

/-- DMA_SIGNAL (DMA and CPU port, R507) -/
def dmaSignal : Nat := 0x1101
/-- DMA_END (DMA and CPU port, R507) -/
def dmaEnd : Nat := 0x1102
/-- DMA_ABORTED (DMA and CPU port, R507) -/
def dmaAborted : Nat := 0x1103
/-- DMA_HALT (DMA and CPU port, R507) -/
def dmaHalt : Nat := 0x1104
/-- DMA_STALL (DMA and CPU port, R507) -/
def dmaStall : Nat := 0x1105
/-- DMA_THRESH (DMA and CPU port, R507) -/
def dmaThresh : Nat := 0x1106
/-- DMA_INDEX (DMA and CPU port, R507) -/
def dmaIndex : Nat := 0x1107
/-- CTX_FAULT (DMA and CPU port, R507) -/
def ctxFault : Nat := 0x1108
/-- CRX_FULL (DMA and CPU port, R507) -/
def crxFull : Nat := 0x1109

/-- BAD_ACCESS (device events, R527) -/
def badAccess : Nat := 0x1201
/-- SGPIO_STALL (device events, R527) -/
def sgpioStall : Nat := 0x1202
/-- LOG_THRESH (device events, R527) -/
def logThresh : Nat := 0x1203
/-- LOG_LOST (device events, R527) -/
def logLost : Nat := 0x1204
/-- LOG_INDEX (device events, R527) -/
def logIndex : Nat := 0x1205
/-- SNAP_DONE (device events, R527) -/
def snapDone : Nat := 0x1206

/-- THERM_STATE (sensors, domains and boot, R544) -/
def thermState : Nat := 0x1301
/-- SENSOR_FAULT (sensors, domains and boot, R544) -/
def sensorFault : Nat := 0x1302
/-- SENSOR_RECOVERED (sensors, domains and boot, R544) -/
def sensorRecovered : Nat := 0x1303
/-- PD_ON (sensors, domains and boot, R544) -/
def pdOn : Nat := 0x1304
/-- PD_OFF (sensors, domains and boot, R544) -/
def pdOff : Nat := 0x1305
/-- SUPPLY_FAULT (sensors, domains and boot, R544) -/
def supplyFault : Nat := 0x1306
/-- BOOT_DONE (sensors, domains and boot, R544) -/
def bootDone : Nat := 0x1307

/-- How many causes the event table of a class defines (R509); 0 for a class not used. -/
def causesOf : Nat → Nat
  | 0x01 => 17
  | 0x02 => 4
  | 0x03 => 10
  | 0x04 => 9
  | 0x05 => 17
  | 0x06 => 12
  | 0x07 => 13
  | 0x08 => 12
  | 0x09 => 5
  | 0x0A => 5
  | 0x0B => 9
  | 0x0C => 4
  | 0x0D => 20
  | 0x0E => 16
  | 0x0F => 6
  | 0x10 => 4
  | 0x11 => 9
  | 0x12 => 6
  | 0x13 => 7
  | _ => 0

end Sys2Proof.Ev
end

