-- ==== Sys2Proof/Config.lean ====
section
/-!
DEFINITION. What the spec leaves open, as constants without a body: nothing can evaluate one, so a statement about a
value of one holds for every value.
-/
namespace Sys2Proof

/-- A free number: what the `k`-th use of the model's counter gives. -/
opaque Config.freeNat : Nat → Nat
/-- A free byte. -/
opaque Config.freeByte : Nat → Byte
/-- The per-lane trim of the receive latency, measured at manufacture, in 2^-16 ns (R49). -/
opaque Config.rxTrim (lane : Nat) : Int
/-- The per-lane trim of the transmit latency, in 2^-16 ns (R49). -/
opaque Config.txTrim (lane : Nat) : Int
/-- The group-delay term of a lane at a rate for the latched CTLE and DFE settings, in 2^-16 ns (R49). -/
opaque Config.groupDelay (lane rate : Nat) (tx : Bool) (ctle dfe1 dfe2 dfe3 : Int) : Int
/-- How many ordered sets a lane has received between two reads of their count: the `k`-th draw, of a lane (R33, R65). -/
opaque Config.orderedSets (k lane : Nat) : Nat
/-- The state of a lane's scrambler before the block of a lattice slot: it depends on all that the lane has sent since its cast-on, where it
is arbitrary (R64). -/
opaque Config.scramblerAt (port slot : Nat) : BitVec 58
/-- What one step of the trim of a cell of a channel's fine line adds to the cell's width, in U: about 0.1 LSB, which is 12.8 U (R131). -/
opaque Config.trimStep (channel cell : Nat) : Int
/-- What a type-2 loop of a bandwidth in mHz makes of its input at the `k`-th update; the spec gives no gains (R166, R228, R253). -/
opaque Config.loopFilter (bandwidth : Nat) (input : Int) (k : Nat) : Nat
/-- The clockAccuracy that the device announces at a tension level (R157 gives the clockClass only). -/
opaque Config.ptpAccuracy (level : Nat) : Nat
/-- The offsetScaledLogVariance that the device announces at a tension level. -/
opaque Config.ptpVariance (level : Nat) : Nat
/-- The state digest of the mirrored tables: the spec names the sum of per-table digests and defines none of them (R413). -/
opaque Config.digestOf {α : Type} (tables : α) : Nat
/-- The bytes of a lifeline journal, of which the spec gives the length and the CRC and no record form (R396). -/
opaque Config.journalBytes {α : Type} (journal : α) : List Byte
/-- The CSR writes, number and value, of the firmware of a core between two looks of the host: the spec leaves firmware open (R435). -/
opaque Config.firmwareCsrs (k core : Nat) : List (Nat × Nat)
/-- How many events of a code of R436 the firmware of a core brings about between two looks of the host. -/
opaque Config.coreEvents (k core event : Nat) : Nat
/-- Which of C0 and C1 serves the command of a mailbox at a position: even for C0, odd for C1 (R441). -/
opaque Config.servingCore (mailbox position : Nat) : Nat
/-- SHA-384, which the spec names and does not define (R418, R421, R432): its 48 bytes. -/
opaque Config.sha384 (message : List Byte) : List Byte
/-- Whether an ECDSA signature over P-384 of a SHA-384 digest verifies under a public key, X then Y (R421, R432). -/
opaque Config.ecdsaOk (publicKey digest signature : List Byte) : Bool
/-- What a MODULE_MAP section says (R422, R55): module, I2C controller and lanes served; the spec gives no layout for it. -/
opaque Config.moduleMap (content : List Byte) : List (Nat × Nat × List Nat)

end Sys2Proof
end

