-- ==== Sys2Proof/Machine/State.lean ====
section
/-!
DEFINITION. The state of the block as plain data: everything the spec gives the machine, its reset value beside each
field, and the reasons for which a step may stop.
-/
namespace Sys2Proof.Machine

/-- Ordering codes (R1, R27). -/
inductive OrderCode where
  | hc | hx | lc
deriving DecidableEq, Repr, Inhabited

/-- Lane states (R44). -/
inductive LaneState where
  | off | down | casting | proving | up | fault | held | binding | swatch
deriving DecidableEq, Repr, Inhabited

/-- Row-lock states (R80). -/
inductive RowState where
  | hunt | confirm | locked
deriving DecidableEq, Repr, Inhabited

/-- Gauge region states, in the order of their codes (R137, R145). -/
inductive GState where
  | off | full | idle | pending | running
deriving DecidableEq, Repr, Inhabited

/-- Reference slot states (R155). -/
inductive SlotState where
  | disabled | failed | qualifying | qualified | waitRestore
deriving DecidableEq, Repr, Inhabited

/-- DPLL states (R162). -/
inductive DState where
  | freerun | acquire | locked | switching | holdover | steered
deriving DecidableEq, Repr, Inhabited

/-- Kinds of timescale change (R183, R192, R210, R211). -/
inductive TimeChgKind where
  | rate | step | set | control | utc | guard | allowance
deriving DecidableEq, Repr, Inhabited

/-- PTP port states (R217). -/
inductive PtpState where
  | initializing | faulty | disabled | listening | preMaster | master | passive | uncalibrated | slave
deriving DecidableEq, Repr, Inhabited

/-- Servo states (R228). -/
inductive ServoState where
  | noSource | acquire | track | coast
deriving DecidableEq, Repr, Inhabited

/-- Machine-clock channel states (R255). -/
inductive McState where
  | disabled | acquire | track | coast
deriving DecidableEq, Repr, Inhabited

/-- Skein states (R343). -/
inductive SkeinState where
  | off | ready | failed
deriving DecidableEq, Repr, Inhabited

/-- Contract states (R366). -/
inductive CState where
  | active | suspended | draining
deriving DecidableEq, Repr, Inhabited

/-- Mailbox states, in the order of their codes (R443, R445). -/
inductive MbState where
  | disabled | running | fault | draining
deriving DecidableEq, Repr, Inhabited

/-- Boot stages (R533). -/
inductive Stage where
  | por | xo | flash | pd1 | pd2 | config | ready | recovery | thermtrip
deriving DecidableEq, Repr, Inhabited

/-- Thermal states (R537). -/
inductive Therm where
  | normal | warn | throttle | over
deriving DecidableEq, Repr, Inhabited

/-- Port attachments in a pair (R385). -/
inductive Attach where
  | unpaired | dual | singleA | singleB
deriving DecidableEq, Repr, Inhabited

/-- Pair roles, in the order of their codes (R381, R414). -/
inductive Role where
  | alone | joining | syncing | standby | active | detached | mismatch
deriving DecidableEq, Repr, Inhabited

/-- Overlay slot states (R428). -/
inductive OvState where
  | empty | loaded | valid | armed
deriving DecidableEq, Repr, Inhabited

/-- Debug levels (R433). -/
inductive Debug where
  | locked | cores | full
deriving DecidableEq, Repr, Inhabited

/-- DMA channel states, in the order of their codes (R498, R505). -/
inductive DmaState where
  | idle | running | waiting | stalled | halted
deriving DecidableEq, Repr, Inhabited

/-- A placed marker that a stream still owes (R466). -/
structure FenceMark where
  /-- the stream -/
  stream : StreamId := .log
  /-- the fence epoch -/
  epoch : Nat := 0
  /-- TICK F of the admission marker -/
  f : Nat := 0
deriving DecidableEq, Repr, Inhabited

/-- A FENCE whose F is placed and which completes at F + 16 (R465). -/
structure ActiveFence where
  /-- its epoch -/
  epoch : Nat := 0
  /-- TICK F -/
  f : Nat := 0
  /-- the command to complete -/
  src : CmdSrc := .direct
  /-- true for an IMG_ARM of mode FENCE (R429), false for FENCE -/
  arm : Bool := false
  /-- the markers of F have been given to the enabled streams -/
  placed : Bool := false
deriving DecidableEq, Repr, Inhabited

/-- An item that waits for room in a ring (R466, R519): a marker of an epoch, or the losses on one side of it. -/
inductive RingWait where
  | mark (epoch : Nat)
  | loss (count tick : Nat)
deriving DecidableEq, Repr, Inhabited


/-- The action of an ACL entry (R291). -/
structure AclAction where
  /-- 0 PERMIT, 1 DENY, 2 TRAP -/
  kind : Nat := 0
  /-- COPY -/
  copy : Bool := false
  /-- CAPTURE -/
  capture : Bool := false
  /-- SET_CLASS -/
  cls : Option Nat := none
  /-- STEER -/
  steer : Option Nat := none
  /-- REDIRECT -/
  redirect : Option Nat := none
deriving DecidableEq, Repr, Inhabited

/-- What the parser found in a frame (R273 to R275): the headers by their first byte, and the ACL key (R288). -/
structure Parsed where
  /-- headers counted toward the depth limit -/
  count : Nat := 0
  /-- VLAN tags: first byte, TPID and TCI -/
  tags : List (Nat × Nat × Nat) := []
  /-- pair tag -/
  pairAt : Option Nat := none
  /-- the EtherType that ends the L2 headers -/
  etherType : Nat := 0
  /-- IPv4 or IPv6 header -/
  l3At : Option Nat := none
  /-- the L3 header is IPv6 -/
  v6 : Bool := false
  /-- L3 length (R278) -/
  l3Len : Nat := 0
  /-- bytes of the L3 headers walked -/
  l3Hdr : Nat := 0
  /-- FRAG -/
  frag : Bool := false
  /-- IP_PROTO -/
  proto : Nat := 0
  /-- UDP, TCP or ICMP header -/
  l4At : Option Nat := none
  /-- L4_TYPE -/
  l4 : Nat := 0
  /-- first byte after the UDP or TCP header -/
  payAt : Option Nat := none
  /-- first byte after the BTH -/
  bthEnd : Option Nat := none
  /-- PTP header -/
  ptpAt : Option Nat := none
  /-- the walk reached an LLDP header -/
  lldp : Bool := false
  /-- the ACL key -/
  key : BitVec 640 := 0
deriving DecidableEq, Repr, Inhabited

/-- The egress rewrite of a copy (R309, R389). -/
structure Rewrite where
  /-- egress VID, where the VLAN rule applies -/
  vid : Option Nat := none
  /-- the outer tag is removed or not added -/
  untag : Bool := false
  /-- new destination address -/
  da : Option Nat := none
  /-- new source address -/
  sa : Option Nat := none
  /-- TTL or Hop Limit is decremented -/
  ttl : Bool := false
  /-- pair tag: 0 as it is, 1 removed, 2 inserted, 3 PATH set -/
  pair : Nat := 0
  /-- source ID of an inserted pair tag -/
  source : Nat := 0
  /-- SEQ of an inserted pair tag -/
  seq : Nat := 0
  /-- PATH of the emitting unit -/
  path : Bool := false
deriving DecidableEq, Repr, Inhabited

/-- A copy that left the device (R332, R336): what its egress port sent. -/
structure TxRec where
  /-- egress port -/
  port : Nat := 0
  /-- class -/
  tc : Nat := 0
  /-- ingress port of its frame -/
  ingress : Nat := 0
  /-- the preamble and the SFD sent before them (R35) -/
  lead : List Byte := []
  /-- the bytes sent, through the FCS -/
  bytes : List Byte := []
  /-- TX stamp TICK -/
  tick : Nat := 0
  /-- TX stamp SUB -/
  sub : Nat := 0
  /-- cause of the stomp that ended it -/
  stomp : Option Nat := none
deriving DecidableEq, Repr, Inhabited

/-- A copy sent on the pair link (R390, R391): cross-fed or relayed. -/
structure XlinkFrame where
  /-- cross-fed (true) or relayed (false) -/
  cross : Bool := true
  /-- original ingress port -/
  port : Nat := 0
  /-- source ID -/
  source : Nat := 0
  /-- SEQ -/
  seq : Nat := 0
  /-- egress port of a relayed copy -/
  egress : Option Nat := none
  /-- class XG (true) or XB (false) -/
  guaranteed : Bool := false
  /-- KTIME of the RX stamp, in 2^-16 ns -/
  rxK : Int := 0
  /-- the RX stamp in the partner's TICK, in U -/
  rxU : Int := 0
  /-- STALE and COAST of the RX stamp -/
  stale : Bool := false
  coast : Bool := false
  /-- its bytes -/
  bytes : List Byte := []
deriving DecidableEq, Repr, Inhabited

/-- A CONTROL frame sent on the pair link (R378 to R416). -/
inductive PairMsg where
  | hello (epoch : Nat)
  | keepAlive
  | journal (cycle : Nat) (cmds : List Instr)
  | marker (cycle length applyAt : Nat) (crc : BitVec 64)
  | ack (cycle : Nat)
  | nack (cycle : Nat)
  | confirm (cycle : Nat)
  | health (report : List Byte)
  | probe (tick : Nat)
  | resync
  | decision (source block nS : Nat) (hS hD : BitVec 64) (exempt : Bool) (nX : Nat) (hX : BitVec 64)
  | outcome (source block nDel nBen nFlt : Nat)
deriving DecidableEq, Repr, Inhabited

/-- An allowance of the Keeper for one step beyond the guard (R188). -/
structure Allowance where
  /-- direction forward -/
  forward : Bool := true
  /-- magnitude in ns -/
  mag : Nat := 0
  /-- TICK at which it expires -/
  expiry : Nat := 0
deriving DecidableEq, Repr, Inhabited

/-- A slot of one lane claimed by a following word of a PHASE set (R259). -/
structure Reserved where
  /-- port -/
  port : Nat := 0
  /-- lattice slot -/
  slot : Nat := 0
  /-- stitch word bits [63:8] -/
  word : Nat := 0
deriving DecidableEq, Repr, Inhabited

/-- A stitch as sent (R241): the device's output. -/
structure SentStitch where
  /-- port -/
  port : Nat := 0
  /-- lattice slot -/
  slot : Nat := 0
  /-- the 64-bit stitch word -/
  word : Nat := 0
deriving DecidableEq, Repr, Inhabited

/-- A STITCH_SEND whose stitch is not yet placed in every lattice group (R244). -/
structure SendWait where
  /-- number of the STITCH_SEND -/
  id : Nat := 0
  /-- the command -/
  src : CmdSrc := .direct
  /-- lattice groups in which it still waits -/
  left : List Nat := []
  /-- slot instants by group: TICK and SUB -/
  slots : Tbl (Nat × Nat) := []
deriving DecidableEq, Repr, Inhabited

/-- A master as its Announce describes it (R226, R238): what the best-master algorithm compares. -/
structure PtpSource where
  /-- port of the instance it was heard on -/
  port : Nat := 0
  /-- clockIdentity of its port -/
  clock : Nat := 0
  /-- portNumber of its port -/
  portNumber : Nat := 0
  /-- grandmasterIdentity -/
  gm : Nat := 0
  /-- grandmasterPriority1 -/
  prio1 : Nat := 0
  /-- grandmasterClockQuality: clockClass -/
  clockClass : Nat := 0
  /-- clockAccuracy -/
  accuracy : Nat := 0
  /-- offsetScaledLogVariance -/
  variance : Nat := 0
  /-- grandmasterPriority2 -/
  prio2 : Nat := 0
  /-- stepsRemoved -/
  steps : Nat := 0
  /-- instants of its Announces, newest first -/
  heard : List Nat := []
deriving DecidableEq, Repr, Inhabited

/-- The last Sync of a slave port (R223, R225). -/
structure PtpSync where
  /-- sequenceId -/
  seq : Nat := 0
  /-- its twoStepFlag -/
  twoStep : Bool := false
  /-- complete: one-step, or its Follow_Up has come -/
  complete : Bool := false
  /-- t1, in 2^-16 ns -/
  t1 : Int := 0
  /-- corrections of the Sync and its Follow_Up -/
  cs : Int := 0
  /-- t2: KTIME of its RX stamp -/
  t2 : Int := 0
  /-- RX stamp TICK -/
  tick : Nat := 0
  /-- RX stamp SUB -/
  sub : Nat := 0
  /-- the stamp carried STALE -/
  stale : Bool := false
  /-- instant of its arrival, in CORE cycles -/
  at_ : Nat := 0
deriving DecidableEq, Repr, Inhabited

/-- An outstanding Delay_Req or Pdelay_Req of a port (R225). -/
structure PtpReq where
  /-- sequenceId -/
  seq : Nat := 0
  /-- KTIME of its TX stamp -/
  sent : Int := 0
  /-- instant at which it was sent, in CORE cycles -/
  at_ : Nat := 0
  /-- of a two-step Pdelay exchange whose response has come: t2, t4 and the response's correction -/
  part : Option (Int × Int × Int) := none
deriving DecidableEq, Repr, Inhabited

/-- A Pdelay_Req that a port has still to answer (R213). -/
structure PtpDue where
  /-- sequenceId -/
  seq : Nat := 0
  /-- its sourcePortIdentity -/
  clock : Nat := 0
  /-- its port number -/
  portNumber : Nat := 0
  /-- its correctionField -/
  correction : Int := 0
  /-- KTIME of its RX stamp -/
  t2 : Int := 0
deriving DecidableEq, Repr, Inhabited

/-- A PTP message that an instance has sent (R216, R218): the device's output. -/
structure PtpMsg where
  /-- port -/
  port : Nat := 0
  /-- messageType -/
  kind : PtpType := .sync
  /-- domainNumber -/
  domain : Nat := 0
  /-- sequenceId -/
  seq : Nat := 0
  /-- twoStepFlag -/
  twoStep : Bool := false
  /-- correctionField, in 2^-16 ns -/
  correction : Int := 0
  /-- timestamp, in whole nanoseconds since the origin of KTIME -/
  stamp : Int := 0
  /-- requestingPortIdentity: clockIdentity and portNumber -/
  req : Nat × Nat := (0, 0)
  /-- what an Announce carries -/
  source : Option PtpSource := none
  /-- flags of the L1_SYNC TLV that a Signaling message carries in its basic form (R213) -/
  l1 : Option Nat := none
deriving DecidableEq, Repr, Inhabited

/-- A LOST table location (R318). -/
structure LostLoc where
  /-- table code (R570) -/
  table : Nat := 0
  /-- location -/
  loc : Nat := 0
  /-- the key number of the entry that stood there -/
  key : Option Nat := none
  /-- the key word survived -/
  known : Bool := false
deriving DecidableEq, Repr, Inhabited
/-- What manufacture fixed: read again at every COLD reset (R27, R530) and never written by a command but SEC_REVOKE_KEY and SEC_SET_MIN_VERSION. -/
structure Fuses where
  /-- ORDER_CODE: 1 HC, 2 HX, 3 LC (4 bits; R1, R27) -/
  orderCode : OrderCode := .hc
  /-- UNIT_SERIAL (64 bits; R27) -/
  serial : Nat := 0
  /-- the PAIR_ID strap as sampled at RESET_N release (1 bit; R27, R540) -/
  pairStrap : Bool := false
  /-- fused revocations of key slots (8 key slots; R424, R439) -/
  revoked : List Nat := []
  /-- fused minimum SEC_VERSION (32 bits; R424, R439) -/
  minVersion : Nat := 0
  /-- SHA-384 of the public key that a slot holds; a slot not listed is blank (8 key slots of 48 bytes; R424) -/
  keyHash : Tbl (List Byte) := []
  /-- the fuse FULL_DEBUG_PERMIT (1 bit; R433) -/
  fullDebug : Bool := false
  /-- the fuses have been read since manufacture (1 bit; R533) -/
  fusesRead : Bool := false
deriving DecidableEq, Repr, Inhabited

/-- Identity and global registers, clocks and power domains (R12 to R29). -/
structure Glob where
  /-- SCRATCH (32 bits; R27) -/
  scratch : BitVec 32 := 0
  /-- COMPAT_KZ4096 (1 bit; R5, R27) -/
  compat : Bool := false
  /-- PD_ON, bit n while PDn is on; PD0 is the always-on domain (10 bits; R18, R27) -/
  pdOn : BitVec 10 := 1
  /-- XO_PRESENT (1 bit; R15, R27) -/
  xoPresent : Bool := false
  /-- consecutive bad XO_IN windows (0 to 3; R15) -/
  xoBad : Nat := 0
  /-- consecutive good XO_IN windows (0 to 3; R15) -/
  xoGood : Nat := 0
  /-- XO_IN has been declared absent since power-on (1 bit; R15) -/
  xoAbsent : Bool := false
  /-- instant at which XO_IN was declared present (CORE cycles; R15) -/
  xoSince : Nat := 0
  /-- ROOT_RUNNING (1 bit; R14, R27) -/
  rootRunning : Bool := false
  /-- KEEPER_ON_CTRL (1 bit; R14, R27) -/
  keeperOnCtrl : Bool := false
  /-- the Keeper is restarting and requests that need it wait (1 bit; R29, R471) -/
  keeperRestarting : Bool := false
  /-- the requests that wait for the Keeper, oldest first (list; R29) -/
  keeperWaiting : List Instr := []
deriving DecidableEq, Repr, Inhabited

/-- One entry of the channel table (R38). -/
structure EqEntry where
  /-- LANE (0 to 263; R38) -/
  lane : Nat := 0
  /-- RATE (2 bits; R38) -/
  rate : Nat := 0
  /-- FLAGS (8 bits; R38) -/
  flags : Nat := 0
  /-- FFE_PRE2 (-8 to 0; R38) -/
  pre2 : Int := 0
  /-- FFE_PRE1 (-24 to 0; R38) -/
  pre1 : Int := 0
  /-- FFE_MAIN (24 to 63; R38) -/
  main : Int := 24
  /-- FFE_POST1 (-24 to 0; R38) -/
  post1 : Int := 0
  /-- CTLE_LO (0 to 31; R38) -/
  ctleLo : Int := 0
  /-- CTLE_HI (0 to 31; R38) -/
  ctleHi : Int := 0
  /-- VGA_LO (0 to 63; R38) -/
  vgaLo : Int := 0
  /-- VGA_HI (0 to 63; R38) -/
  vgaHi : Int := 0
  /-- DFE1_LO (-64 to 63; R38) -/
  dfe1Lo : Int := 0
  /-- DFE1_HI (-64 to 63; R38) -/
  dfe1Hi : Int := 0
  /-- DFE2_LO (-32 to 31; R38) -/
  dfe2Lo : Int := 0
  /-- DFE2_HI (-32 to 31; R38) -/
  dfe2Hi : Int := 0
  /-- DFE3_LO (-32 to 31; R38) -/
  dfe3Lo : Int := 0
  /-- DFE3_HI (-32 to 31; R38) -/
  dfe3Hi : Int := 0
deriving DecidableEq, Repr, Inhabited

/-- An active channel table (R37). -/
structure ChanTable where
  /-- BOARD_ID (64 bits; R37) -/
  boardId : Nat := 0
  /-- EPOCH (64 bits; R37) -/
  epoch : Nat := 0
  /-- T_LO (16 bits, 1/16 degree; R37) -/
  tLo : Int := 0
  /-- T_HI (16 bits, 1/16 degree; R37) -/
  tHi : Int := 160
  /-- the entries (at most 1,056; R37) -/
  entries : List EqEntry := []
deriving DecidableEq, Repr, Inhabited

/-- The latched receiver settings of a lane at a rate (R42). -/
structure Latched where
  /-- rate code the settings are for (2 bits; R42) -/
  rate : Nat := 0
  /-- the temperature latched (16 bits, 1/16 degree; R42) -/
  temp : Int := 0
  /-- CTLE (0 to 31; R42) -/
  ctle : Int := 0
  /-- VGA (0 to 63; R42) -/
  vga : Int := 0
  /-- DFE1 (-64 to 63; R42) -/
  dfe1 : Int := 0
  /-- DFE2 (-32 to 31; R42) -/
  dfe2 : Int := 0
  /-- DFE3 (-32 to 31; R42) -/
  dfe3 : Int := 0
deriving DecidableEq, Repr, Inhabited

/-- The PRBS generator and checker of a lane, and its sweep (R56 to R59). -/
structure Swatch where
  /-- generator pattern, index in R56's table (9 names; R56) -/
  txPattern : Nat := 0
  /-- checker pattern (9 names; R56) -/
  rxPattern : Nat := 0
  /-- near-end PMA loopback (1 bit; R58) -/
  loopback : Bool := false
  /-- checker lock (1 bit; R57) -/
  locked : Bool := false
  /-- bits compared (48 bits, saturating; R57) -/
  bits : Nat := 0
  /-- bit errors (48 bits, saturating; R57) -/
  errors : Nat := 0
  /-- last error injection ordered (0 none, 1 single, 2 burst, 3 periodic; R58) -/
  injKind : Nat := 0
  /-- its argument (burst length or k; R58) -/
  injArg : Nat := 0
  /-- errors injected in loopback that the count of errors does not hold yet (bit errors; R57, R58) -/
  injDue : Nat := 0
  /-- a LANE_SWEEP is running (1 bit; R59) -/
  sweeping : Bool := false
  /-- VGA held by the sweep (0 to 63; R59) -/
  sweepVga : Nat := 0
  /-- its dwell (2^-16 ns, 1 to 1,000 ms; R59) -/
  sweepDwell : Nat := 0
  /-- earliest end of the sweep (CORE cycles; R59) -/
  sweepEnd : Nat := 0
  /-- a complete sweep is held (1 bit; R59) -/
  sweepDone : Bool := false
  /-- its error counts, point by point (1,024 counts of 16 bits; R59) -/
  sweepCounts : List Nat := []
deriving DecidableEq, Repr, Inhabited

/-- One lane, L0-L255 and PL0-PL7 as 256-263 (R44, R60). -/
structure Lane where
  /-- a lane is OFF while its quadrant is off, as it is at reset (9 states; R44) -/
  state : LaneState := .off
  /-- last cause (R509 code), 0 none (16 bits; R60) -/
  lastCause : Nat := 0
  /-- latched settings, none after power-on (one per rate; R42) -/
  latched : List Latched := []
  /-- settings in use since the last cast-on, which an activation or LANE_RELATCH leaves; none after power-on (record; R41, R49) -/
  inUse : Option Latched := none
  /-- instant since which signal energy has been present, none while none is (CORE cycles; R55) -/
  energySince : Option Nat := none
  /-- the lane is locked and its tap divider runs (1 bit; R51, R95) -/
  tapOn : Bool := false
  /-- lock flags (4 bits: CDR, block or alignment marker, FEC, row; R60) -/
  lockFlags : Nat := 0
  /-- receive frequency offset (2^-8 ppb; R52, R60) -/
  freqOff : Int := 0
  /-- a loss of signal after a LOCK_LOSS may still raise LOS once (1 bit; R45) -/
  losPending : Bool := false
  /-- TEMP_DRIFT has been raised since the lane reached UP (1 bit; R43) -/
  driftRaised : Bool := false
  /-- deskew term of the present cast-on (2^-16 ns; R49, R50) -/
  deskew : Int := 0
  /-- a cast-on has measured a deskew term (1 bit; R50) -/
  deskewKnown : Bool := false
  /-- swatch and sweep (record; R56) -/
  swatch : Swatch := {}
  /-- Clause 49 ordered sets on a selvedge lane (32 bits, saturating; R65, R93) -/
  ordered : Nat := 0
deriving DecidableEq, Repr, Inhabited

/-- One port, its configuration, policy and cast-on state (R32 to R47). -/
structure Port where
  /-- no port is configured at reset (CONFIG runs later) (1 bit; R34) -/
  configured : Bool := false
  /-- mode code (9 codes; R32) -/
  mode : Nat := 0
  /-- lanes (1, 2, 4 or 8; R32) -/
  width : Nat := 1
  /-- FEC code (3 codes; R32) -/
  fec : Nat := 0
  /-- maximum frame length (1,518 to 16,384; R35) -/
  maxFrame : Nat := 9216
  /-- cast-on timeout, 100 ms (2^-16 ns; R47) -/
  castTimeout : Nat := 6553600000000
  /-- hold-down, 10 ms (2^-16 ns; R47) -/
  holdDown : Nat := 655360000000
  /-- flap limit (1 to 255; R47) -/
  flapLimit : Nat := 4
  /-- flap window, 1 s (2^-16 ns; R47) -/
  flapWindow : Nat := 65536000000000
  /-- recast policy, AUTO at reset (1 bit; R47) -/
  recastManual : Bool := false
  /-- instant the running cast-on timer expires (CORE cycles; R45) -/
  castTimer : Option Nat := none
  /-- the cast-on timer expired in PROVING and is held (1 bit; R45) -/
  castExpired : Bool := false
  /-- end of the proving window (CORE cycles; R45) -/
  provingEnd : Option Nat := none
  /-- end of the hold-down (CORE cycles; R45) -/
  holdTimer : Option Nat := none
  /-- end of the drain of a bind-off (CORE cycles; R45) -/
  drainTimer : Option Nat := none
  /-- end of the bind-off linger (CORE cycles; R45) -/
  lingerTimer : Option Nat := none
  /-- TICK at which the port last entered BINDING: a frame that began by then is still received (TICK; R45) -/
  bindTick : Nat := 0
  /-- losses from UP inside the flap window (instants; R45) -/
  flaps : List Nat := []
  /-- pointer-failure count (0 to 3; R45) -/
  pointerFails : Nat := 0
  /-- cast-on timeout count (32 bits, saturating; R45, R60) -/
  castTimeouts : Nat := 0
  /-- PVID (12 bits; R301) -/
  pvid : Nat := 1
  /-- PORT_BIND_OFF commands that wait for this port (commands; R60) -/
  bindWait : List CmdSrc := []
deriving DecidableEq, Repr, Inhabited

/-- One CMIS module of the module map (R55, R61). -/
structure Module where
  /-- I2C controller (0 to 7; R61) -/
  controller : Nat := 0
  /-- lanes served (lanes served; R55) -/
  lanes : List Nat := []
  /-- SGPIO present bit as taken (1 bit; R55) -/
  present : Bool := false
  /-- SGPIO interrupt bit as taken (1 bit; R55) -/
  intr : Bool := false
  /-- bits of the last SGPIO frame (2 bits; R55) -/
  lastRaw : Nat := 0
  /-- equal frames seen in a row (0 to 3; R55) -/
  rawCount : Nat := 0
  /-- bank last selected; none when unknown (8 bits; R61) -/
  bank : Option Nat := none
  /-- page last selected (8 bits; R61) -/
  page : Option Nat := none
  /-- two-wire writes to the module, first offset and bytes: the device's output, newest first (list; R61) -/
  writes : List (Nat × List Byte) := []
deriving DecidableEq, Repr, Inhabited

/-- A marked row the device has sent (R84, R86). -/
structure MarkRow where
  /-- its row count N (40 bits; R84) -/
  row : Nat := 0
  /-- pin instant at which it started, since TICK 0 (25ths of 2^-16 ns; R87) -/
  t : Int := 0
deriving DecidableEq, Repr, Inhabited

/-- A selvedge port: configuration, row lock, ranging and counts (R66 to R93). -/
structure Selv where
  /-- slots per row (1, 2 or 4; R93) -/
  slots : Nat := 1
  /-- mark interval K (16 to 4,096 rows; R84, R93) -/
  markInterval : Nat := 256
  /-- the mark interval in force since the last mark (rows; R84, R93) -/
  markNow : Nat := 256
  /-- outlier limit, 1.0 ns (2^-16 ns; R88, R93) -/
  outlier : Nat := 65536
  /-- ranging timeout, 10 ms (2^-16 ns; R88, R93) -/
  rangeTimeout : Nat := 655360000000
  /-- row-lock state, reset to HUNT while block lock is lost (HUNT, CONFIRM, LOCKED; R80) -/
  rowState : RowState := .hunt
  /-- confirm count (0 to 4; R80) -/
  confirmCount : Nat := 0
  /-- the row in CONFIRM is the candidate itself, which is not tested again (1 bit; R80) -/
  rowBad : Bool := false
  /-- the slot blocks received since the candidate of CONFIRM: how many blocks after it, sync header and word (blocks; R80) -/
  held : List (Nat × Bool × Nat) := []
  /-- consecutive rows whose block 0 failed in LOCKED (0 to 4; R80) -/
  fail0 : Nat := 0
  /-- consecutive failures at positions 64, 128, 192 (3 counts; R80) -/
  failPos : List Nat := [0, 0, 0]
  /-- consecutive passes at unconfigured positions 64, 128, 192 (3 counts; R80) -/
  passPos : List Nat := [0, 0, 0]
  /-- the device's own row count (40 bits; R66, R84, R89) -/
  txRow : Nat := 0
  /-- full received row count, learnt from RANGE_MARK (40 bits; R86, R89) -/
  rxRow : Nat := 0
  /-- a RANGE_MARK has been received since cast-on (1 bit; R89) -/
  rxRowKnown : Bool := false
  /-- row of the last mark sent (40 bits; R84) -/
  lastMarkTx : Nat := 0
  /-- the last 16 marked rows (last 16; R86) -/
  marks : List MarkRow := []
  /-- payload of the ECHO_ROW received immediately before (40 bits; R86) -/
  echoRow : Option Nat := none
  /-- echo pair words waiting for free slots (link-scope words queued; R85) -/
  echoDue : List Nat := []
  /-- row count of the last mark echoed (40 bits; R85) -/
  lastEchoMark : Option Nat := none
  /-- TIME_SEC, TIME_NS, DELAY waiting for free slots (words queued; R90) -/
  timeDue : List Nat := []
  /-- downlink delay that the DELAY waiting carries (2^-16 ns; R90, R93) -/
  dueDown : Int := 0
  /-- uplink delay of the same instant (2^-16 ns; R90, R93) -/
  dueUp : Int := 0
  /-- row at which TENSION was last sent (40 bits; R91) -/
  lastTension : Nat := 0
  /-- a of the last accepted pair (2^-16 ns; R87, R93) -/
  aVal : Int := 0
  /-- b of the last accepted pair (2^-16 ns; R87, R93) -/
  bVal : Int := 0
  /-- filtered round trip (2^-16 ns; R88, R93) -/
  rtt : Int := 0
  /-- a round trip has been accepted (1 bit; R88) -/
  rttKnown : Bool := false
  /-- consecutive outliers (0 to 8; R88) -/
  outliers : Nat := 0
  /-- instant of the last accepted pair (CORE cycles; R88, R93) -/
  lastPair : Nat := 0
  /-- instant at which the ranging timeout in force expires unless a pair is accepted (CORE cycles; R88, R93) -/
  rangeEnd : Nat := 0
  /-- the link delay is stale (1 bit; R88) -/
  linkStale : Bool := false
  /-- downlink delay last sent (2^-16 ns; R93, R230) -/
  down : Int := 0
  /-- uplink delay last sent (2^-16 ns; R93, R230) -/
  up : Int := 0
  /-- level received in TENSION, 15 before any (4 bits; R91) -/
  tensionRx : Nat := 15
  /-- hops received in TENSION (8 bits; R76) -/
  tensionHops : Nat := 255
  /-- TENSION stitches received from an endpoint (32 bits, saturating; R91) -/
  tensionCount : Nat := 0
  /-- TIME_SEC received from an uplink (40 bits; R90, R232) -/
  timeSec : Option Nat := none
  /-- pin instant of the row that the last RANGE_MARK received named (25ths of 2^-16 ns; R232) -/
  markRxAt : Option Int := none
  /-- a complete set of time words has been received since cast-on (1 bit; R227) -/
  timeWords : Bool := false
  /-- TIME_NS received after it (40 bits; R90, R232) -/
  timeNs : Option Nat := none
  /-- SLOT_SYNC (32 bits, saturating; R77, R93) -/
  cSlotSync : Nat := 0
  /-- STITCH_CRC (32 bits, saturating; R77, R93) -/
  cCrc : Nat := 0
  /-- STITCH_TYPE (32 bits, saturating; R77, R93) -/
  cType : Nat := 0
  /-- STITCH_RANGE (32 bits, saturating; R77, R93) -/
  cRange : Nat := 0
  /-- ECHO_PAIR (32 bits, saturating; R86, R93) -/
  cEchoPair : Nat := 0
  /-- ECHO_RANGE (32 bits, saturating; R86, R93) -/
  cEchoRange : Nat := 0
  /-- ECHO_STALE (32 bits, saturating; R86, R93) -/
  cEchoStale : Nat := 0
  /-- RANGE_OUTLIER (32 bits, saturating; R88, R93) -/
  cOutlier : Nat := 0
  /-- check failures of the last second (instants; R251) -/
  errTimes : List Nat := []
deriving DecidableEq, Repr, Inhabited

/-- One TDC stamp (R96): TICK and SUB, with the raw codes and STALE. -/
structure Stamp where
  /-- TICK (64 bits; R96) -/
  tick : Nat := 0
  /-- SUB, in U (16 bits; R96) -/
  sub : Nat := 0
  /-- raw FINE (5 bits; R96) -/
  fine : Nat := 0
  /-- raw PHASE (4 bits; R96) -/
  phase : Nat := 0
  /-- EDGE (1 bit; R107) -/
  falling : Bool := false
  /-- STALE (1 bit; R107) -/
  stale : Bool := false
  /-- LOST: stamps of the channel were lost since the one before it (1 bit; R107) -/
  lost : Bool := false
deriving DecidableEq, Repr, Inhabited

/-- One 16-byte ring record (R107, R108). -/
structure TdcRec where
  /-- KIND (4 bits; R107) -/
  kind : Nat := 0
  /-- CHANNEL (9 bits; R107) -/
  channel : Nat := 0
  /-- EDGE, STALE, LOST, TRUNC, COINCIDENT, ORDER, MISS (bits 19 to 13 of W0 in place; R107) -/
  flags : Nat := 0
  /-- SEQ (8 bits; R107) -/
  seq : Nat := 0
  /-- W1 (32 bits; R108) -/
  w1 : BitVec 32 := 0
  /-- W2 (32 bits; R108) -/
  w2 : BitVec 32 := 0
  /-- W3 (32 bits; R108) -/
  w3 : BitVec 32 := 0
  /-- instant at which it was written (CORE cycles; R111) -/
  written : Nat := 0
deriving DecidableEq, Repr, Inhabited

/-- An entry of a hit FIFO: a stamp, or a LOST record (R105, R106). -/
structure FifoEnt where
  /-- the stamp of a HIT entry (record; R105) -/
  stamp : Stamp := {}
  /-- number lost, for a LOST entry; 0 for a HIT entry (32 bits; R106) -/
  lost : Nat := 0
  /-- TICK of the first one lost (64 bits; R106) -/
  lostTick : Nat := 0
deriving DecidableEq, Repr, Inhabited

/-- Records written together that wait for the ring writer (R109, R114). -/
structure QRec where
  /-- TICK by which they are placed (64 bits; R114) -/
  tick : Nat := 0
  /-- the records (1 or 3 records; R109) -/
  recs : List TdcRec := []
deriving DecidableEq, Repr, Inhabited

/-- One TDC channel, TDC0-TDC319 (R95 to R126). -/
structure TdcChan where
  /-- enabled (event channels) (1 bit; R123) -/
  enable : Bool := false
  /-- edge selection (0 rising, 1 falling, 2 both; R98, R123) -/
  edge : Nat := 0
  /-- hysteresis index (4 names; R99, R123) -/
  hyst : Nat := 0
  /-- hold-off code (4 bits; R98, R123) -/
  holdoff : Nat := 0
  /-- P (1 to 65,536; R100) -/
  prescaler : Nat := 1
  /-- ring the records go to (3 bits; R123) -/
  ring : Option Nat := none
  /-- channel regression (1 bit; R118, R123) -/
  regression : Bool := false
  /-- user OFFSET (2^-16 ns; R97, R123) -/
  offset : Int := 0
  /-- fuse-trimmed insertion delay (U; R97) -/
  insertion : Int := 0
  /-- hit-rate limit, 0 none (0 to 312; R99) -/
  rateLimit : Nat := 0
  /-- silence timeout, 0 off (2^-16 ns; R99) -/
  silence : Nat := 0
  /-- INPUT_OPEN (1 bit; R99, R113) -/
  inputOpen : Bool := false
  /-- EVT_LEVEL (1 bit; R113) -/
  level : Bool := false
  /-- instant of the last accepted edge (U since TICK 0; R98) -/
  lastEdge : Option Nat := none
  /-- prescaler count (0 to P-1; R100) -/
  preCount : Nat := 0
  /-- edges accepted in the gate, before the prescaler (32 bits; R108) -/
  edgesGate : Nat := 0
  /-- an edge was BLANKED during the gate (1 bit; R119) -/
  blankedGate : Bool := false
  /-- edges accepted in the present 1 us window (edges; R99) -/
  winEdges : Nat := 0
  /-- index of that window of TICK (windows; R99) -/
  winIndex : Nat := 0
  /-- RATE_EXCEEDED raised in this gate (1 bit; R99) -/
  rateRaised : Bool := false
  /-- SILENT raised in this gate (1 bit; R99) -/
  silentRaised : Bool := false
  /-- stamps of the gate, for regression (stamps of the gate; R118) -/
  regStamps : List Stamp := []
  /-- hit FIFO, oldest first (64 entries; R105, R106) -/
  fifo : List FifoEnt := []
  /-- stamps dropped since the FIFO was last not full (32 bits, saturating; R106) -/
  fifoLost : Nat := 0
  /-- TICK of the first one dropped (64 bits; R106) -/
  fifoLostTick : Nat := 0
  /-- a stamp has been lost since the last one made (1 bit; R107) -/
  lostSince : Bool := false
  /-- edges whose corrected stamps lie at or after the end of the gate, or before a gate that may open (stamps; R101) -/
  early : List Stamp := []
  /-- a LOST record has been written in the present loss period (1 bit; R126) -/
  lossPeriod : Bool := false
  /-- HITS (32 bits, saturating; R123) -/
  hits : Nat := 0
  /-- BLANKED (32 bits, saturating; R98) -/
  blanked : Nat := 0
  /-- LOST (32 bits, saturating; R106) -/
  lost : Nat := 0
  /-- RATE_EXCEEDED (32 bits, saturating; R99) -/
  rateExceeded : Nat := 0
  /-- GATE_IGNORED (32 bits, saturating; R101) -/
  gateIgnored : Nat := 0
  /-- last stamp (record; R123) -/
  lastStamp : Stamp := {}
  /-- DLL lock (1 bit; R129) -/
  dllLocked : Bool := true
  /-- STALE from a DLL relock until the next commit (1 bit; R130, R139) -/
  dllStale : Bool := false
  /-- end of the 1 ms relock limit (CORE cycles; R130) -/
  dllTimer : Option Nat := none
  /-- the DLL unlocked during the collection (1 bit; R136) -/
  dllUnlockInRun : Bool := false
  /-- stamps of the present lane window (lane taps and references) (tap stamps of the lane window; R120) -/
  winStamps : List Stamp := []
  /-- the lane lost lock or cast on in this window (1 bit; R121) -/
  winBad : Bool := false
  /-- fitted time of the last tap edge (TICK with a 32-bit fraction; R121) -/
  fitTick : Nat := 0
  /-- PERIOD (CORE periods, 32 fractional bits; R121) -/
  period : Nat := 0
  /-- frequency offset y (32 bits, 2^-8 ppb; R121) -/
  yOff : Int := 0
  /-- N (32 bits; R121) -/
  nStamps : Nat := 0
  /-- RESID (U; R121) -/
  resid : Nat := 0
  /-- the last window was VALID (1 bit; R121) -/
  valid : Bool := false
  /-- the published values used a STALE stamp (1 bit; R121, R139) -/
  staleWin : Bool := false
  /-- how many windows had closed when the last VALID one had: AGE counts those since (windows; R121) -/
  validAt : Nat := 0
  /-- fitted time as the consumers of a lane or pair lane use it: coasting through STALE windows, with the build-outs (TICK with a 32-bit fraction; R141) -/
  coastTick : Option Nat := none
  /-- sum of the gauge's build-outs of the lane (U; R141) -/
  buildOut : Int := 0
  /-- ring of a TDC_CAPTURE_TAP (3 bits; R122) -/
  capRing : Option Nat := none
  /-- a TDC_CAPTURE_TAP is running (1 bit; R122) -/
  capturing : Bool := false
  /-- D (1 to 65,536; R122) -/
  capD : Nat := 1
  /-- tap count modulo D (0 to D-1; R122) -/
  capCount : Nat := 0
deriving DecidableEq, Repr, Inhabited

/-- One gate group, G0-G3 (R101 to R103). -/
structure GateGrp where
  /-- mode (LEVEL, PULSE, SOFTWARE, CONTINUOUS; R101) -/
  mode : Nat := 0
  /-- active level low (1 bit; R101) -/
  activeLow : Bool := false
  /-- pulse length (1 us) (2^-16 ns; R101, R123) -/
  pulseLen : Nat := 65536000
  /-- maximum gate length, 10 s (2^-16 ns; R101) -/
  maxLen : Nat := 655360000000000
  /-- GATE_STATE (1 bit; R113) -/
  open_ : Bool := false
  /-- GATE_PIN, the filtered level (1 bit; R113) -/
  pin : Bool := false
  /-- open instant (64 bits; R101) -/
  openTick : Nat := 0
  /-- last close instant (64 bits; R101) -/
  closeTick : Nat := 0
  /-- end of the pulse length (TICK; R101) -/
  pulseEnd : Option Nat := none
  /-- end of the maximum gate length (TICK; R101) -/
  maxEnd : Option Nat := none
deriving DecidableEq, Repr, Inhabited

/-- One record ring, TR0-TR7 (R110 to R112). -/
structure Ring where
  /-- ENABLE (1 bit; R111) -/
  enable : Bool := false
  /-- WR_COUNT (32 bits; R111) -/
  wr : BitVec 32 := 0
  /-- RD_COUNT (32 bits; R111) -/
  rd : BitVec 32 := 0
  /-- THRESH (13 bits; R111) -/
  thresh : Nat := 0
  /-- LOST_SEEN (1 bit; R111) -/
  lostSeen : Bool := false
  /-- THRESH_HIT (1 bit; R111) -/
  threshHit : Bool := false
  /-- RING_LOST (32 bits, saturating; R111) -/
  ringLost : Nat := 0
  /-- IDLE_TIMEOUT (16 bits, us; R111) -/
  idleTimeout : Nat := 0
  /-- ring memory, by k mod 4,096 (4,096 records; R110) -/
  recs : Tbl TdcRec := []
  /-- records dropped while full and not yet reported (32 bits, saturating; R106) -/
  lostRun : Nat := 0
  /-- TICK of the first of them (64 bits; R106) -/
  lostTick : Nat := 0
  /-- markers (and the losses before each) that wait for room (list; R115, R466) -/
  waitMarks : List RingWait := []
  /-- records other than HIT that wait for the ring writer, in the order of their places (list; R105, R109) -/
  queue : List QRec := []
  /-- oldest unread record for which RING_TIMEOUT has been raised (record number; R126) -/
  timeoutSeen : Option Nat := none
deriving DecidableEq, Repr, Inhabited

/-- One interval engine, IP0-IP31 (R116, R117). -/
structure IntervalEng where
  /-- enabled (1 bit; R123) -/
  enable : Bool := false
  /-- start channel (9 bits; R116) -/
  start : Nat := 264
  /-- stop channel (9 bits; R116) -/
  stop : Nat := 265
  /-- W (CORE cycles; R116) -/
  window : Nat := 1
  /-- ring (3 bits; R123) -/
  ring : Nat := 0
  /-- start stamps not yet decided, in time order (list; R116) -/
  starts : List Stamp := []
  /-- stop stamps not yet paired (list; R116) -/
  stops : List Stamp := []
deriving DecidableEq, Repr, Inhabited

/-- The TDC bank (R95 to R126). -/
structure Tdc where
  /-- the channels (320 channels; R95) -/
  chans : Tbl TdcChan := []
  /-- the gate groups (4 groups; R101) -/
  groups : Tbl GateGrp := []
  /-- the rings (8 rings; R111) -/
  rings : Tbl Ring := []
  /-- the interval engines (32 engines; R116) -/
  intervals : Tbl IntervalEng := []
  /-- lane window length, 1 ms (index 0 to 7 of R120's list; R120) -/
  laneWin : Nat := 3
  /-- lane windows that have closed (windows; R121) -/
  windows : Nat := 0
  /-- pending new lane window length (index; R120) -/
  laneWinNext : Option Nat := none
  /-- the internal test pulse generator is enabled (1 bit; R95) -/
  testEnable : Bool := false
deriving DecidableEq, Repr, Inhabited

/-- The gauge set and run state of one channel (R129, R135, R140, R146). -/
structure ChanGauge where
  /-- centres that differ from the nominal 128c + 64 (512 centres of 16 bits; R135, R146) -/
  centre : Tbl Nat := []
  /-- centres of the inactive copy (512 centres of 16 bits; R143) -/
  other : Tbl Nat := []
  /-- DLL_CODE (12 bits; R129, R146) -/
  dllCode : Nat := 2048
  /-- CELL_SEL (40 bits; R146) -/
  cellSel : Nat := 4294967295
  /-- TRIM_0 to TRIM_3 (4 of 30 bits; R146) -/
  trim : List Nat := [613566756, 613566756, 613566756, 613566756]
  /-- cells that the physical line selects (40 bits; R129, R131) -/
  lineSel : Nat := 4294967295
  /-- trims of the physical line (4 of 30 bits; R131) -/
  lineTrim : List Nat := [613566756, 613566756, 613566756, 613566756]
  /-- bias of the physical line as last recorded (12 bits; R129) -/
  lineDll : Nat := 2048
  /-- COMMIT_DELTA (32 bits, U; R140, R146) -/
  delta : Int := 0
  /-- LAST_HITS (32 bits, saturating; R146) -/
  lastHits : Nat := 0
  /-- LAST_CAUSE (3 bits; R146) -/
  lastCause : Nat := 0
  /-- CH_DEGRADED (1 bit; R136, R146) -/
  degraded : Bool := false
  /-- OWN_CODE (9 bits; R140, R146) -/
  ownCode : Nat := 0
  /-- code histogram of the run (512 counts; R135) -/
  hist : Tbl Nat := []
  /-- codes of the channel's own stamps in this lane window (512 counts; R140) -/
  own : Tbl Nat := []
  /-- the channel takes part in the present run (1 bit; R137) -/
  inRun : Bool := false
  /-- centres that wait for the commit boundary (512 centres; R139) -/
  newCentre : Option (Tbl Nat) := none
  /-- hits and cause of the last evaluation, which the active page shows from the boundary (32 bits, 3 bits; R136, R146) -/
  judged : Option (Nat × Nat) := none
  /-- staging centres (0 at reset) (512 centres of 16 bits; R146) -/
  stCentre : Tbl Nat := []
  /-- staging DLL_CODE (12 bits; R146) -/
  stDll : Nat := 0
  /-- staging CELL_SEL (40 bits; R146) -/
  stSel : Nat := 0
  /-- staging trims (4 of 30 bits; R146) -/
  stTrim : List Nat := [0, 0, 0, 0]
deriving DecidableEq, Repr, Inhabited

/-- One gauge region, GR0-GR20 (R127, R137 to R147). -/
structure GRegion where
  /-- STATE (5 states; R137, R145) -/
  state : GState := .off
  /-- STALE (1 bit; R139, R145) -/
  stale : Bool := false
  /-- T_LAST (16 bits, 1/16 degree; R137, R145) -/
  tLast : Int := 0
  /-- epoch of the active copy (64 bits; R143, R145) -/
  epoch : Nat := 0
  /-- copy B is the active one (A or B; R143) -/
  active : Bool := false
  /-- CRC-32 of the active copy (32 bits; R143) -/
  crc : Nat := 0
  /-- CRC-32 of the other copy (32 bits; R143) -/
  crcB : Nat := 0
  /-- epoch of the other copy (64 bits; R143) -/
  epochB : Nat := 0
  /-- sum of the temperatures read during the collection (1/16 degree; R137) -/
  tSum : Int := 0
  /-- number of them (count; R137) -/
  tCount : Nat := 0
  /-- start of the run's collection (CORE cycles; R134, R137) -/
  runStart : Nat := 0
  /-- end of the run timeout (CORE cycles; R137) -/
  runEnd : Option Nat := none
  /-- end of the region's last run (CORE cycles; R137) -/
  lastEnd : Nat := 0
  /-- a channel failed in the last run: the retry interval runs (1 bit; R136, R137) -/
  failed : Bool := false
  /-- a commit waits for the boundary (1 bit; R139) -/
  commitDue : Bool := false
  /-- a full restore is in progress (1 bit; R147) -/
  restoreFull : Bool := false
  /-- what the commit that waits ends: 0 a regional run, 1 a full calibration, 2 a full restore, 3 a table restore (4 kinds; R137, R143, R147) -/
  commitKind : Nat := 0
  /-- the pending run was queued by R130 (1 bit; R130, R138) -/
  urgent : Bool := false
  /-- GAUGE_TEMP_UNAVAILABLE has been raised: instant of the last run it started (CORE cycles; R128) -/
  tempLost : Option Nat := none
deriving DecidableEq, Repr, Inhabited

/-- The gauge engine (R127 to R149). -/
structure Gauge where
  /-- the regions (21 regions; R127) -/
  regions : Tbl GRegion := []
  /-- the channels' sets (312 channels; R127) -/
  chans : Tbl ChanGauge := []
  /-- gauge trigger, 2.0 degrees (1/16 degree; R137, R148) -/
  trigger : Nat := 32
  /-- minimum interval, 1 s (2^-16 ns; R148) -/
  minInterval : Nat := 65536000000000
  /-- log2 of H (20 to 24; R135, R148) -/
  target : Nat := 22
  /-- run timeout, 10 s (2^-16 ns; R148) -/
  runTimeout : Nat := 655360000000000
  /-- retry interval, 60 s (2^-16 ns; R148) -/
  retry : Nat := 3932160000000000
  /-- periodic interval, off (2^-16 ns; R148) -/
  periodic : Nat := 0
  /-- GR18 uses SCATTER (1 bit; R133, R148) -/
  scatter18 : Bool := false
  /-- GR19 uses SCATTER (1 bit; R133, R148) -/
  scatter19 : Bool := false
  /-- pending regions in start order (regions; R137, R138) -/
  pendingQ : List Nat := []
  /-- RUN_REGION, none reads 0x1F (5 bits; R138, R145) -/
  running : Option Nat := none
  /-- regions in FULL that wait for the engine, in order (regions; R131, R132) -/
  fullQ : List Nat := []
  /-- end of the engine's previous run (CORE cycles; R137) -/
  lastRunEnd : Nat := 0
  /-- end of the GAUGE_HOLD in force (CORE cycles; R138, R145) -/
  hold : Option Nat := none
  /-- GW_CHANNEL (9 bits; R145) -/
  gwChannel : Nat := 0
deriving DecidableEq, Repr, Inhabited

/-- One reference slot, REF0-REF30 (R150 to R165). -/
structure RefSlot where
  /-- enabled (DISABLED otherwise) (1 bit; R151, R177) -/
  enable : Bool := false
  /-- slot state (5 states; R155) -/
  state : SlotState := .disabled
  /-- F_NUM (1 to 800,000,000; R151) -/
  fNum : Nat := 10000000
  /-- F_DEN (1 to 65,535; R151) -/
  fDen : Nat := 1
  /-- N (1 to 16,777,216; R151) -/
  div : Nat := 1
  /-- edge selected (1 bit; R151) -/
  falling : Bool := false
  /-- lane port of REF8-REF23, PTP instance of REF24-REF27 (port or PTP instance; R177) -/
  src : Nat := 0
  /-- priority (1 to 255; R160) -/
  prio : Nat := 255
  /-- configured level (4 bits; R159) -/
  cfgLevel : Nat := 8
  /-- override flag (1 bit; R159) -/
  overrideLevel : Bool := false
  /-- accept limit, 1,500 ppb (2^-8 ppb; R154) -/
  acceptLim : Nat := 384000
  /-- reject limit, 2,000 ppb (2^-8 ppb; R154) -/
  rejectLim : Nat := 512000
  /-- reject hold, 10 ms (2^-16 ns; R154) -/
  rejectHold : Nat := 655360000000
  /-- accept hold, 10 s (2^-16 ns; R154) -/
  acceptHold : Nat := 655360000000000
  /-- hit limit, 1.0 ns (2^-16 ns; R154) -/
  hitLim : Nat := 65536
  /-- hit budget (1 to 255; R154) -/
  hitBudget : Nat := 3
  /-- stale coast limit, 30 s (2^-16 ns; R154) -/
  coastLim : Nat := 1966080000000000
  /-- ESMC enabled (1 bit; R159, R177) -/
  esmc : Bool := false
  /-- FORCE (1 bit; R155) -/
  force_ : Bool := false
  /-- LOCKOUT (1 bit; R155) -/
  lockout : Bool := false
  /-- last failure cause: 0 NONE, 1 ACTIVITY, 2 LANE, 3 FREQUENCY, 4 HIT_BUDGET, 5 STALE (6 causes; R155, R177) -/
  cause : Nat := 0
  /-- level in use (4 bits; R159) -/
  level : Nat := 8
  /-- level last received from the level source, 15 once it has timed out (4 bits; R159) -/
  rxLevel : Nat := 8
  /-- hops received, 0 for a slot whose level source carries none (8 bits; R159) -/
  hops : Nat := 0
  /-- instant of the last valid level message (CORE cycles; R159) -/
  levelSeen : Nat := 0
  /-- the level source has timed out (1 bit; R159) -/
  levelDead : Bool := false
  /-- stamps since the last measurement (stamps; R153) -/
  stamps : List Stamp := []
  /-- instant of the last accepted divided edge (CORE cycles; R152) -/
  lastEdge : Nat := 0
  /-- activity is present (1 bit; R152) -/
  active : Bool := false
  /-- lattice origin (U since TICK 0; R153) -/
  origin : Int := 0
  /-- phase of the last measurement (2^-16 ns; R153) -/
  phi : Int := 0
  /-- instant of that measurement (CORE cycles; R156) -/
  phiAt : Nat := 0
  /-- frequency offset from ROOT (2^-8 ppb; R153) -/
  yr : Int := 0
  /-- offsets of the last measurements (last 16 measurements; R154) -/
  yHist : List Int := []
  /-- instants and phases of a pulse reference (last 16 pulse phases; R153) -/
  phiHist : List (Int × Int) := []
  /-- samples of a PTP virtual reference that the next boundary publishes: phase, instant in TICK, STALE, and the frequency where the lane gives it (list; R153, R213, R230) -/
  samples : List (Int × Int × Bool × Option Int) := []
  /-- a measurement has been published (1 bit; R153) -/
  measured : Bool := false
  /-- since when every measurement is STALE (CORE cycles; R154, R168) -/
  staleSince : Option Nat := none
  /-- start of the accept hold (CORE cycles; R155) -/
  qualSince : Nat := 0
  /-- since when the offset is beyond the reject limit (CORE cycles; R154) -/
  rejectSince : Option Nat := none
  /-- QUALIFIED since it was last enabled (1 bit; R155) -/
  everQual : Bool := false
  /-- end of the wait-to-restore (CORE cycles; R155) -/
  wtrEnd : Nat := 0
  /-- a CLEAR_WTR waits for the boundary (1 bit; R155) -/
  clearWtr : Bool := false
  /-- phase hits within 60 s (instants; R154, R156) -/
  hits : List Nat := []
  /-- measurements after a phase hit (up to 3 deviations; R156) -/
  hitPending : List Int := []
  /-- a phase hit is being judged (1 bit; R156) -/
  hitting : Bool := false
  /-- build-out (2^-16 ns; R166, R167) -/
  buildout : Int := 0
  /-- hit count (32 bits, saturating; R177) -/
  hitCount : Nat := 0
  /-- EXTRA_PULSE (32 bits, saturating; R152) -/
  extraPulse : Nat := 0
  /-- PULSE_WIDTH (32 bits, saturating; R152) -/
  pulseWidth : Nat := 0
  /-- QL_UNKNOWN (32 bits, saturating; R158) -/
  qlUnknown : Nat := 0
  /-- entry to the present state (CORE cycles; R177) -/
  since : Nat := 0
  /-- since when it disagrees with the current slot (CORE cycles; R165) -/
  tieSince : Option Nat := none
  /-- since when it agrees with it (CORE cycles; R165) -/
  tieAgree : Nat := 0
  /-- TIE_DISAGREE raised (1 bit; R165) -/
  tieRaised : Bool := false
  /-- consecutive lane windows not VALID (windows; R152) -/
  lastGood : Nat := 0
deriving DecidableEq, Repr, Inhabited

/-- One PPS output (R172, R173). -/
structure PpsOut where
  /-- enabled (1 bit; R172) -/
  enable : Bool := false
  /-- offset (2^-16 ns; R172) -/
  offset : Int := 0
  /-- pulse width, 100 ms (2^-16 ns; R172) -/
  width : Nat := 6553600000000
  /-- slew rate, 100 ns/s (2^-16 ns per s; R173) -/
  slew : Nat := 6553600
  /-- squelch threshold (4 bits; R172) -/
  squelch : Nat := 15
  /-- move of the target still to slew (2^-16 ns; R173) -/
  residual : Int := 0
  /-- the next pulse is placed at the target directly (1 bit; R173) -/
  direct : Bool := true
  /-- PPS_ALIGNED is raised at the next pulse placed directly (1 bit; R173) -/
  reportAligned : Bool := false
  /-- pulses produced: the device's output (count; R172) -/
  pulses : Nat := 0
  /-- KTIME of the last rising edge: the device's output (2^-16 ns of KTIME; R172, R173) -/
  lastPulse : Int := 0
  /-- end of the pulse (CORE cycles; R172) -/
  highEnd : Nat := 0
  /-- held low by the squelch (1 bit; R172) -/
  squelched : Bool := false
deriving DecidableEq, Repr, Inhabited

/-- One CLKOUT output (R174, R175). -/
structure ClkOut where
  /-- enabled (1 bit; R174) -/
  enable : Bool := false
  /-- F_NUM (Hz; R174) -/
  fNum : Nat := 1000000
  /-- F_DEN (1 to 65,535; R174) -/
  fDen : Nat := 1
  /-- phase mode KTIME (FREE at reset) (1 bit; R174) -/
  ktime : Bool := false
  /-- offset (2^-16 ns; R174) -/
  offset : Int := 0
  /-- slew rate, 100 ns/s (2^-16 ns per s; R175) -/
  slew : Nat := 6553600
  /-- swing, 600 mV (400, 600, 800 mV; R174) -/
  swing : Nat := 1
  /-- squelch threshold (4 bits; R174) -/
  squelch : Nat := 15
  /-- FTW (48 bits; R174) -/
  ftw : Nat := 0
  /-- slew remaining (2^-16 ns; R175, R177) -/
  residual : Int := 0
  /-- instant at which the residual stood (CORE cycles; R175) -/
  slewAt : Nat := 0
  /-- held static by the squelch (1 bit; R174) -/
  squelched : Bool := false
  /-- entry to the present state (CORE cycles; R177) -/
  since : Nat := 0
deriving DecidableEq, Repr, Inhabited

/-- References, selection, DPLL and the frequency outputs (R150 to R178). -/
structure Ref where
  /-- the slots (31 slots; R150) -/
  slots : Tbl RefSlot := []
  /-- slot and configuration commands that wait for the boundary, in completion order (list; R163) -/
  pendingCfg : List Instr := []
  /-- a REF_STEER CLOSE or a steering timeout waits for the boundary (1 bit; R162, R171) -/
  closing : Bool := false
  /-- QL-enabled mode (1 bit; R160) -/
  qlEnabled : Bool := true
  /-- revertive mode (1 bit; R161) -/
  revertive : Bool := false
  /-- wait-to-restore (2^-16 ns, 0 to 720 s; R161) -/
  wtr : Nat := 19660800000000000
  /-- tie limit, 10 ppb (2^-8 ppb; R165) -/
  tieLimit : Nat := 2560
  /-- tie hold, 1 s (2^-16 ns; R165) -/
  tieHold : Nat := 65536000000000
  /-- free-run level (3 to 14; R159) -/
  freeLevel : Nat := 8
  /-- averaging time (2^-16 ns, 1 to 10,000 s; R169) -/
  avgTime : Nat := 19660800000000000
  /-- guard time (2^-16 ns, 0 to 600 s; R169) -/
  guardTime : Nat := 655360000000000
  /-- in-spec time (2^-16 ns, 0 to 86,400 s; R170) -/
  inSpec : Nat := 39321600000000000
  /-- tracking bandwidth, 1.0 Hz (mHz; R166) -/
  trackBw : Nat := 1000
  /-- acquisition bandwidth, 10 Hz (mHz; R166) -/
  acqBw : Nat := 10000
  /-- ROOT frequency slope limit, 100 ppb/s (2^-8 ppb per s; R166) -/
  slope : Nat := 25600
  /-- lock threshold, 1.0 ns (2^-16 ns; R166) -/
  lockThr : Nat := 65536
  /-- loss threshold, 100 ns (2^-16 ns; R166) -/
  lossThr : Nat := 6553600
  /-- XO limit, 5 ppm (2^-8 ppb; R152) -/
  xoLimit : Nat := 1280000
  /-- DPLL state (7 states; R162) -/
  state : DState := .freerun
  /-- HOLDOVER has cause XO_LOSS (1 bit; R162) -/
  xoLoss : Bool := false
  /-- selected slot (5 bits; R160) -/
  selected : Option Nat := none
  /-- slot a SWITCHING goes to (5 bits; R164) -/
  switchTo : Option Nat := none
  /-- phase error (2^-16 ns; R166, R177) -/
  errPhase : Int := 0
  /-- the loop's filtered phase error (2^-16 ns; R167) -/
  errFilt : Int := 0
  /-- ROOT's offset from 50 x XO_IN: 0 in free-run (2^-48; R13, R171) -/
  rootOff : Int := 0
  /-- offset approached under the slope limit (2^-48; R171) -/
  rootGoal : Int := 0
  /-- since when the lock conditions hold in ACQUIRE (CORE cycles; R162) -/
  lockSince : Option Nat := none
  /-- BW_LIMITED (1 bit; R166) -/
  bwLimited : Bool := false
  /-- bandwidth in use (mHz; R166, R177) -/
  bwUse : Nat := 0
  /-- LOCKED windows kept for the holdover estimate: instant and ROOT offset, newest first (list; R169) -/
  history : List (Nat × Int) := []
  /-- holdover estimate (2^-48; R169) -/
  holdEst : Int := 0
  /-- the estimate is valid (1 bit; R169) -/
  estValid : Bool := false
  /-- SHORT (1 bit; R169) -/
  estShort : Bool := false
  /-- span of the estimate (CORE cycles; R169, R177) -/
  span : Nat := 0
  /-- instant of the event that ended LOCKED, none while LOCKED (CORE cycles; R169) -/
  lockedEnd : Option Nat := none
  /-- end of the in-spec time (CORE cycles; R170) -/
  inSpecEnd : Option Nat := none
  /-- the in-spec time has passed (1 bit; R159, R170) -/
  inSpecOver : Bool := false
  /-- device level, the free-run level at reset (4 bits; R159) -/
  level : Nat := 8
  /-- device level before holdover (4 bits; R159) -/
  levelBefore : Nat := 8
  /-- device hop count (8 bits; R159) -/
  hops : Nat := 0
  /-- level given in REF_STEER (3 to 14; R159, R171) -/
  steerLevel : Nat := 8
  /-- end of the steering timeout (CORE cycles; R171) -/
  steerEnd : Option Nat := none
  /-- steering timeout, 1 s (2^-16 ns; R171) -/
  steerTimeout : Nat := 65536000000000
  /-- entry to the present DPLL state (CORE cycles; R177) -/
  since : Nat := 0
  /-- stamps of TDC279 in this window (stamps of XO_IN / 100; R169) -/
  xoStamps : List Stamp := []
  /-- XO_IN's offset as measured on TDC279 (2^-8 ppb; R152, R169) -/
  xoYoff : Int := 0
  /-- XO_RANGE is raised and not cleared (1 bit; R152) -/
  xoRangeRaised : Bool := false
  /-- Ethernet ports whose ESMC event PDU is due after a level change (ports; R159) -/
  esmcDue : List Nat := []
  /-- ESMC PDUs sent (port, SSM and enhanced code): the device's output, newest first (list; R159) -/
  esmcSent : List (Nat × Nat) := []
  /-- PPS outputs (2 outputs; R172) -/
  pps : Tbl PpsOut := []
  /-- CLKOUT outputs (4 outputs; R174) -/
  clk : Tbl ClkOut := []
deriving DecidableEq, Repr, Inhabited

/-- One segment of the timescale (R182, R184, R197). -/
structure Segment where
  /-- segment number (64 bits; R184) -/
  num : Nat := 0
  /-- start TICK T_j (64 bits; R182) -/
  t0 : Nat := 0
  /-- base k_j: 0 for segment 0 (2^-16 ns; R182, R184) -/
  k0 : Int := 0
  /-- RATE_ADJ r_j (40 bits, 2^-48; R182) -/
  rate : Int := 0
  /-- STEP (1 bit; R197) -/
  step : Bool := false
  /-- CONT (1 bit; R197) -/
  cont : Bool := false
  /-- sum of steps at T_j (2^-16 ns; R197) -/
  stepSum : Int := 0
deriving DecidableEq, Repr, Inhabited

/-- One snapshot slot of a reading window (R193, R196). -/
structure Snap where
  /-- SLOT_TICKET and SLOT_TICKET_CHECK (32 bits; R196) -/
  ticket : BitVec 32 := 0
  /-- W at capture: SEC, NS and SUBNS (2^-16 ns; R196) -/
  w : Int := 0
  /-- HELD (1 bit; R196) -/
  held : Bool := false
  /-- UNSET (1 bit; R196) -/
  unset : Bool := false
  /-- SLOT_TICK (64 bits; R196) -/
  tick : Nat := 0
deriving DecidableEq, Repr, Inhabited

/-- One PPS_IN capture (R204). -/
structure PpsCap where
  /-- CAP_COUNT and CAP_COUNT_CHECK (32 bits; R204) -/
  count : BitVec 32 := 0
  /-- CAP_SUB (16 bits; R204) -/
  sub : Nat := 0
  /-- CAP_TICK (64 bits; R204) -/
  tick : Nat := 0
  /-- KTIME of the edge: CAP_SEC, CAP_NS, CAP_SUBNS (2^-16 ns; R204) -/
  k : Int := 0
  /-- CAP_STALE (1 bit; R204) -/
  stale : Bool := false
deriving DecidableEq, Repr, Inhabited

/-- One TSQ entry (R209). -/
structure TsqEntry where
  /-- KIND (4 bits; R209) -/
  kind : Nat := 0
  /-- PORT (8 bits; R209) -/
  port : Nat := 0
  /-- INFO (4 bits; R209) -/
  info : Nat := 0
  /-- ID (16 bits; R209) -/
  id : Nat := 0
  /-- W1: SUB or COUNT (32 bits; R209) -/
  w1 : Nat := 0
  /-- VALUE (64 bits; R209) -/
  value : Nat := 0
deriving DecidableEq, Repr, Inhabited

/-- A reserved TX stamp request (R205, R206). -/
structure TsqReq where
  /-- request ID (16 bits; R205) -/
  id : Nat := 0
  /-- the frame whose copies it follows (frame number; R205) -/
  frame : Nat := 0
  /-- instant of injection (CORE cycles; R206) -/
  injected : Nat := 0
  /-- STAMP_TIMEOUT after injection (CORE cycles; R206) -/
  deadline : Nat := 0
  /-- TICK of the frame's admission decision (TICK; R207) -/
  admittedAt : Option Nat := none
  /-- copies not yet sent, refused or discarded (copies; R206) -/
  left : Nat := 1
  /-- stamp of the sent copy on the lowest-numbered port (port, TICK, SUB; R206) -/
  sent : Option (Nat × Nat × Nat) := none
  /-- discard of the copy on the lowest-numbered port (port, reason; R206) -/
  lost : Option (Nat × Nat) := none
  /-- its entry, once final, while a marker holds it back (record; R206, R207) -/
  final_ : Option TsqEntry := none
deriving DecidableEq, Repr, Inhabited

/-- One TX timestamp queue, TSQ0-TSQ3 (R205 to R208). -/
structure Tsq where
  /-- ENABLE (1 bit; R208) -/
  enable : Bool := false
  /-- WR_COUNT (32 bits; R208) -/
  wr : BitVec 32 := 0
  /-- RD_COUNT (32 bits; R208) -/
  rd : BitVec 32 := 0
  /-- outstanding requests (OUTSTANDING; R205, R208) -/
  reqs : List TsqReq := []
  /-- MISSED_SEEN (1 bit; R208) -/
  missedSeen : Bool := false
  /-- a request has been refused since MISSED_SEEN was last cleared (1 bit; R212) -/
  refusedSeen : Bool := false
  /-- TIMEOUT_SEEN (1 bit; R208) -/
  timeoutSeen : Bool := false
  /-- THRESH_HIT (1 bit; R208) -/
  threshHit : Bool := false
  /-- TSQ_MISSED (32 bits, saturating; R208) -/
  missed : Nat := 0
  /-- STAMP_TIMEOUT (1 to 1,000 ms; R208) -/
  stampTimeout : Nat := 10
  /-- THRESH (7 bits; R208) -/
  thresh : Nat := 0
  /-- entries, by k mod 64 (64 entries; R209) -/
  entries : Tbl TsqEntry := []
  /-- refusals not yet reported by a REFUSED entry (32 bits, saturating; R205) -/
  refusedRun : Nat := 0
  /-- TICK of the first of them (64 bits; R209) -/
  refusedTick : Nat := 0
deriving DecidableEq, Repr, Inhabited

/-- A change the timescale has received and not yet applied (R183, R210). -/
structure TimeChg where
  /-- kind of change (7 kinds; R183, R210, R211) -/
  kind : TimeChgKind := .rate
  /-- target, step, rate or first parameter (per kind; R210) -/
  a : Int := 0
  /-- second parameter (per kind; R211) -/
  b : Int := 0
  /-- third parameter (per kind; R211) -/
  c : Int := 0
  /-- the command to complete (source; R192, R210) -/
  src : CmdSrc := .direct
  /-- requested by the servo or the pair firmware, not by a command (1 bit; R228, R405) -/
  own : Bool := false
  /-- it takes effect at the first lane-window boundary at or after this TICK (64 bits; R183) -/
  due : Nat := 0
deriving DecidableEq, Repr, Inhabited

/-- The timescale (R179 to R212). -/
structure Time where
  /-- TICK runs (PD1 is on and ROOT runs) (1 bit; R179) -/
  tickOn : Bool := false
  /-- instant at which TICK was 0 (CORE cycles; R179) -/
  tick0 : Nat := 0
  /-- segment history, newest first: segment 0 at reset (256 segments; R184) -/
  segs : List Segment := [{}]
  /-- SET (1 bit; R195) -/
  set_ : Bool := false
  /-- CONTROL: 0 HOST, 1 SERVO, 2 PAIR (2 bits; R195) -/
  control : Nat := 0
  /-- the mirrored controller value: 0 HOST, 1 SERVO (1 bit; R395, R407) -/
  mirrored : Nat := 0
  /-- STEP_GUARD (2^-16 ns, shown in ns in 20 bits; R195) -/
  guardG : Nat := 65536000
  /-- GUARD_WINDOW (2^-16 ns, shown in s in 12 bits; R195) -/
  guardV : Nat := 65536000000000
  /-- STEP_COUNT (32 bits; R195) -/
  stepCount : BitVec 32 := 0
  /-- STEP_REFUSED_COUNT (32 bits, saturating; R195) -/
  refused : Nat := 0
  /-- admitted steps inside the guard window: boundary TICK and step (list; R187) -/
  guardSteps : List (Nat × Int) := []
  /-- allowance in force (record; R188, R195) -/
  allowance : Option Allowance := none
  /-- value at which W holds (2^-16 ns; R190) -/
  wMax : Int := 0
  /-- HELD (1 bit; R190, R195) -/
  held : Bool := false
  /-- changes received, in order (list; R183) -/
  changes : List TimeChg := []
  /-- UTC_OFFSET (16 bits, s; R195) -/
  utc : Int := 0
  /-- LEAP61 (1 bit; R195) -/
  leap61 : Bool := false
  /-- LEAP59 (1 bit; R195) -/
  leap59 : Bool := false
  /-- UTC_VALID (1 bit; R195) -/
  utcValid : Bool := false
  /-- next ticket of PF0's window (32 bits; R193) -/
  ticket0 : BitVec 32 := 0
  /-- next ticket of PF1's window (32 bits; R193, R198) -/
  ticket1 : BitVec 32 := 0
  /-- PF0's slots (16 slots; R196) -/
  snaps0 : Tbl Snap := []
  /-- PF1's slots (16 slots; R198) -/
  snaps1 : Tbl Snap := []
  /-- PPS_IN captures (2 captures; R204) -/
  caps : Tbl PpsCap := []
  /-- TX timestamp queues (4 queues; R208) -/
  tsqs : Tbl Tsq := []
  /-- TIME_GET commands that wait for the boundary (commands; R210) -/
  getWait : List CmdSrc := []
deriving DecidableEq, Repr, Inhabited

/-- One PTP instance, PI0-PI3 (R213 to R230). -/
structure PtpInst where
  /-- enabled (1 bit; R238) -/
  enable : Bool := false
  /-- profile (4 names; R213) -/
  profile : Nat := 0
  /-- domain (8 bits; R213) -/
  domain : Nat := 0
  /-- clockIdentity (64 bits; R238) -/
  identity : Nat := 0
  /-- priority1 (8 bits; R238) -/
  prio1 : Nat := 128
  /-- priority2 (8 bits; R238) -/
  prio2 : Nat := 128
  /-- localPriority (8 bits; R238) -/
  localPrio : Nat := 128
  /-- slaveOnly (1 bit; R238) -/
  slaveOnly : Bool := false
  /-- parent data set of the selected parent, none when the instance is its own grandmaster (record; R226, R238) -/
  parent : Option PtpSource := none
  /-- port in SLAVE (8 bits; R238) -/
  slavePort : Option Nat := none
  /-- last accepted offset (2^-16 ns; R238) -/
  lastO : Int := 0
  /-- its instant (CORE cycles; R225) -/
  lastOAt : Nat := 0
  /-- an offset has been accepted from this parent (1 bit; R225) -/
  oKnown : Bool := false
  /-- rtt_f last used (2^-16 ns; R238) -/
  rttF : Int := 0
  /-- consecutive offset outliers (0 to 8; R225) -/
  oOutliers : Nat := 0
  /-- announce receipt timeout (CORE cycles; R226) -/
  announceEnd : Option Nat := none
  /-- Sync receipt timeout (CORE cycles; R226) -/
  syncEnd : Option Nat := none
  /-- delay coast limit (CORE cycles; R226) -/
  delayEnd : Option Nat := none
deriving DecidableEq, Repr, Inhabited

/-- The PTP configuration and state of one port (R215 to R226). -/
structure PtpPort where
  /-- instance (0-3, 4 HOST, 5 none; R219, R238) -/
  inst : Nat := 5
  /-- transport (3 names; R213) -/
  transport : Nat := 0
  /-- unicast destination, 0 for multicast (address; R238) -/
  unicast : Nat := 0
  /-- logSyncInterval (-7 to 1; R216) -/
  logSync : Int := 0
  /-- logMinDelayReqInterval (-7 to 5; R216) -/
  logDelay : Int := 0
  /-- logAnnounceInterval (-3 to 4; R216) -/
  logAnnounce : Int := 1
  /-- announceReceiptTimeout (2 to 255; R216) -/
  annTimeout : Nat := 3
  /-- Sync receipt timeout (2 to 255; R216) -/
  syncTimeout : Nat := 3
  /-- delay response timeout (1 to 255; R216) -/
  delayTimeout : Nat := 3
  /-- two-step (1 bit; R238) -/
  twoStep : Bool := false
  /-- masterOnly or notSlave (1 bit; R238) -/
  masterOnly : Bool := false
  /-- localPriority (1 to 255; R238) -/
  localPrio : Nat := 128
  /-- delay coast limit, 10 s (2^-16 ns; R226) -/
  coastLimit : Nat := 655360000000000
  /-- maximum path, 10 ms (2^-16 ns; R225) -/
  maxPath : Nat := 655360000000
  /-- delay outlier limit, 10 ns (2^-16 ns; R225) -/
  delayOutlier : Nat := 655360
  /-- offset outlier limit, 1 us (2^-16 ns; R225) -/
  offsetOutlier : Nat := 65536000
  /-- filter length F (1 to 256; R238) -/
  filterLen : Nat := 16
  /-- port state (9 states; R217, R238) -/
  state : PtpState := .disabled
  /-- accepted rtt samples (last F samples; R223) -/
  rtts : List Int := []
  /-- rtt_f (2^-16 ns; R223) -/
  rttF : Int := 0
  /-- consecutive delay outliers (0 to 8; R225) -/
  dOutliers : Nat := 0
  /-- last Sync, with its Follow_Up where two-step (record; R223, R225) -/
  sync : Option PtpSync := none
  /-- outstanding delay requests (list; R225) -/
  reqs : List PtpReq := []
  /-- consecutive unanswered requests (count; R226) -/
  unanswered : Nat := 0
  /-- next Sync sequenceId (16 bits; R216) -/
  seqSync : Nat := 0
  /-- next Delay_Req sequenceId (16 bits; R216) -/
  seqDelay : Nat := 0
  /-- next Announce sequenceId (16 bits; R216) -/
  seqAnnounce : Nat := 0
  /-- messages of the last second: type, source and instant (list; R225) -/
  rateTimes : List (Nat × Nat × Nat) := []
  /-- instants of the last messages sent: 0 Sync, 1 Delay_Req or Pdelay_Req, 2 Announce (by kind; R216) -/
  lastTx : Tbl Nat := []
  /-- end of PRE_MASTER (CORE cycles; R213) -/
  preEnd : Option Nat := none
  /-- announce receipt timeout of a LISTENING port (CORE cycles; R213, R216) -/
  annEnd : Option Nat := none
  /-- flags of the last L1_SYNC TLV received (16 bits; R213) -/
  l1Rx : Option Nat := none
  /-- Pdelay_Reqs still to be answered (list; R213) -/
  pdelayDue : List PtpDue := []
  /-- announced masters held for the BMCA (list; R225, R226) -/
  foreign : List PtpSource := []
  /-- counts of R225 in table order, then MGMT (14) and STAMP_COAST (15) (16 counts, 32 bits, saturating; R225) -/
  counts : Tbl Nat := []
deriving DecidableEq, Repr, Inhabited

/-- The asymmetry model of one port (R234 to R236). -/
structure Asym where
  /-- mode DUAL configured (COEFFICIENT at reset) (1 bit; R234) -/
  dual : Bool := false
  /-- c (2^-16 ns; R234) -/
  c : Int := 0
  /-- alpha (32 bits, 2^-40; R234) -/
  alpha : Int := 0
  /-- partner port (8 bits; R235) -/
  partner : Nat := 0
  /-- outgoing wavelength (pm; R235) -/
  lambdaOut : Nat := 1310000
  /-- incoming wavelength (pm; R235) -/
  lambdaIn : Nat := 1310000
  /-- symmetric round-trip term (2^-16 ns; R235) -/
  k : Int := 0
  /-- averaging time (2^-16 ns, 1 to 3,600 s; R235) -/
  avg : Nat := 3932160000000000
  /-- q limit (1 to 100,000 ps/nm; R236) -/
  qLimit : Nat := 2000
  /-- dual coast limit (2^-16 ns, 1 to 86,400 s; R236) -/
  coast : Nat := 39321600000000000
  /-- delay agreement limit, 50 ps (2^-16 ns; R232) -/
  agree : Nat := 3277
  /-- accepted q samples in the averaging time: instant and value in 2^-16 ps/nm (list; R235) -/
  qs : List (Nat × Int) := []
  /-- q_f (2^-16 ps/nm; R235, R238) -/
  qF : Int := 0
  /-- fallen back to COEFFICIENT (1 bit; R236) -/
  fallback : Bool := false
  /-- discarded samples (32 bits, saturating; R236, R238) -/
  discards : Nat := 0
  /-- consecutive samples discarded by the q limit (count; R236) -/
  discRun : Nat := 0
  /-- the last sample was discarded because the parents differ (1 bit; R236) -/
  peerOff : Bool := false
  /-- instant of the last accepted sample (CORE cycles; R236, R238) -/
  lastAccept : Nat := 0
  /-- a fresh rtt_f since the last boundary (1 bit; R235) -/
  freshRtt : Bool := false
  /-- accepted selvedge rtt samples (F of the port) (last F samples; R231) -/
  rtts : List Int := []
  /-- rtt_f of the port (2^-16 ns; R231) -/
  rttF : Int := 0
  /-- asymmetry in force when the last selvedge sample was accepted (2^-16 ns; R231) -/
  asymAt : Int := 0
  /-- end of the delay coast of a selvedge port whose delay is stale (CORE cycles; R233) -/
  coastEnd : Option Nat := none
  /-- DELAY_RANGE count (32 bits, saturating; R231) -/
  delayRange : Nat := 0
deriving DecidableEq, Repr, Inhabited

/-- The time servo (R227 to R229). -/
structure Servo where
  /-- source mode FIXED (AUTO at reset) (1 bit; R227) -/
  fixed : Bool := false
  /-- configured slot (8 to 30; R238) -/
  fixedSlot : Nat := 8
  /-- time bandwidth (mHz; R238) -/
  bandwidth : Nat := 50
  /-- maximum slew, 10 ppm (2^-8 ppb; R238) -/
  maxSlew : Nat := 2560000
  /-- step threshold, 500 ns (2^-16 ns; R238) -/
  stepThr : Nat := 32768000
  /-- lock threshold, 50 ns (2^-16 ns; R238) -/
  lockThr : Nat := 3276800
  /-- PPS input offset (2^-16 ns; R229, R238) -/
  ppsOffset : Int := 0
  /-- servo state (4 states; R228) -/
  state : ServoState := .noSource
  /-- source slot (5 bits; R227) -/
  source : Option Nat := none
  /-- last o (2^-16 ns; R238) -/
  lastO : Int := 0
  /-- consecutive samples within the lock threshold (0 to 16; R228) -/
  inLock : Nat := 0
  /-- consecutive samples beyond 4 times the lock threshold (0 to 16; R228) -/
  outLock : Nat := 0
  /-- RATE_ADJ requested (2^-48; R228, R238) -/
  rateReq : Int := 0
  /-- rate held at entry to ACQUIRE (2^-48; R228) -/
  rateHeld : Int := 0
  /-- last step requested (2^-16 ns; R238) -/
  lastStep : Int := 0
  /-- its outcome (1 bit; R238) -/
  lastStepOk : Bool := false
  /-- boundary of the last refused step (TICK; R228) -/
  refusedAt : Option Nat := none
  /-- boundary for which RATE_ADJ was last updated (TICK; R228) -/
  updatedAt : Option Nat := none
  /-- PPS_AMBIGUOUS (32 bits, saturating; R229) -/
  ppsAmbiguous : Nat := 0
  /-- DELAY_DISAGREE (32 bits, saturating; R232) -/
  delayDisagree : Nat := 0
deriving DecidableEq, Repr, Inhabited

/-- PTP, ranging delays, asymmetry and the servo (R213 to R239). -/
structure Ptp where
  /-- the instances (4 instances; R215) -/
  insts : Tbl PtpInst := []
  /-- the ports (256 ports; R215) -/
  ports : Tbl PtpPort := []
  /-- asymmetry of each port (256 ports; R234) -/
  asym : Tbl Asym := []
  /-- time servo (record; R227) -/
  servo : Servo := {}
  /-- transparent clock mode (OFF, E2E, P2P; R220, R238) -/
  tcMode : Nat := 0
  /-- domain bitmap (256 bits; R220, R238) -/
  tcDomains : BitVec 256 := 0
  /-- PTP messages the instances have sent: the device's output, newest first (list; R216) -/
  sent : List PtpMsg := []
  /-- configurations that wait for the boundary (list; R238) -/
  pendCfg : List Instr := []
deriving DecidableEq, Repr, Inhabited

/-- A broadcast stitch queued for one lattice group (R242). -/
structure QStitch where
  /-- TYPE (4 bits; R242) -/
  type : Nat := 0
  /-- TARGET (12 bits; R242) -/
  target : Nat := 0
  /-- PAYLOAD (of the first word of a PHASE set) (40 bits; R242) -/
  payload : Nat := 0
  /-- machine-clock channel of a PHASE set or BCN (2 bits; R259) -/
  chan : Nat := 0
  /-- ready instant (TICK; R242) -/
  ready : Nat := 0
  /-- fraction of the ready instant (U; R248) -/
  readySub : Nat := 0
  /-- instant at which it reaches the sequencer (TICK; R242, R245) -/
  arrive : Nat := 0
  /-- port that delivered a relayed stitch (8 bits; R248) -/
  notPort : Option Nat := none
  /-- handle of a TIMED stitch (32 bits; R246) -/
  handle : Option Nat := none
  /-- the STITCH_SEND to complete (number; R244) -/
  wait : Option Nat := none
deriving DecidableEq, Repr, Inhabited

/-- A stitch that has reached the sequencer and is not yet queued, or a pending TIMED stitch (R246). -/
structure Pending where
  /-- handle (32 bits; R246) -/
  handle : Nat := 0
  /-- target (12 bits; R246) -/
  target : Nat := 0
  /-- command code (8 bits; R246) -/
  code : Nat := 0
  /-- execute time E (2^-16 ns; R246) -/
  e : Int := 0
  /-- lead, 100 us (2^-16 ns; R246) -/
  lead : Nat := 6553600000
  /-- copies still to place (1 to 4; R246) -/
  copies : Nat := 1
  /-- it has become ready (1 bit; R246) -/
  queued : Bool := false
  /-- a copy has been placed (1 bit; R247) -/
  placed : Bool := false
deriving DecidableEq, Repr, Inhabited

/-- One trigger source, TRG0-TRG7 (R245). -/
structure TrigSrc where
  /-- enabled (1 bit; R245, R271) -/
  enable : Bool := false
  /-- event channel (9 bits; R245) -/
  channel : Nat := 280
  /-- kind (8 bits; R245) -/
  kind : Nat := 0
  /-- target group (12 bits; R245) -/
  target : Nat := 4095
  /-- minimum spacing (2^-16 ns; R245) -/
  spacing : Nat := 0
  /-- sequence number (32 bits; R245) -/
  seq : BitVec 32 := 0
  /-- previous accepted trigger (U since TICK 0; R245) -/
  last : Option Nat := none
deriving DecidableEq, Repr, Inhabited

/-- Stitch settings and counts of one selvedge port (R248, R251, R259). -/
structure StPort where
  /-- COMPENSATE (1 bit; R271) -/
  compensate : Bool := true
  /-- relay target of TRIGGER (12 bits; R248) -/
  relayTrig : Option Nat := none
  /-- relay target of TIMED (12 bits; R248) -/
  relayTimed : Option Nat := none
  /-- relay target of USER (12 bits; R248) -/
  relayUser : Option Nat := none
  /-- RX_LOG (1 bit; R248) -/
  rxLog : Bool := false
  /-- error threshold (1 to 65,535; R251) -/
  errThr : Nat := 16
  /-- stitches sent by type (13 counts, 32 bits; R271) -/
  txCounts : Tbl Nat := []
  /-- stitches received by type (13 counts, 32 bits; R271) -/
  rxCounts : Tbl Nat := []
  /-- RELAY_DUP (32 bits, saturating; R248) -/
  relayDup : Nat := 0
  /-- STITCH_ERRORS events (32 bits, saturating; R271) -/
  errEvents : Nat := 0
  /-- last STITCH_ERRORS event (CORE cycles; R251) -/
  errLast : Option Nat := none
  /-- PHASE words of the set in progress: selector and value (words received; R258, R260) -/
  mcSet : List (Nat × Nat) := []
  /-- pin instant of its STATUS block, the anchor (25ths of 2^-16 ns; R260) -/
  mcSetAt : Nat := 0
deriving DecidableEq, Repr, Inhabited

/-- One machine-clock channel, MC0-MC3 (R252 to R266). -/
structure McChan where
  /-- enabled (1 bit; R255) -/
  enable : Bool := false
  /-- source kind (EVT, REFIN, UPLINK; R252) -/
  srcKind : Nat := 0
  /-- source (channel, slot or port; R252) -/
  srcIdx : Nat := 280
  /-- selector channel of UPLINK (2 bits; R252) -/
  srcSel : Nat := 0
  /-- nominal F_NUM (Hz; R254) -/
  fNum : Nat := 40000000
  /-- nominal F_DEN (1 to 65,535; R254) -/
  fDen : Nat := 1
  /-- frequency limit, 100 ppm (2^-8 ppb; R254) -/
  freqLim : Nat := 25600000
  /-- hit limit, 200 ps (2^-16 ns; R254) -/
  hitLim : Nat := 13107
  /-- activity limit, 10 us (10 ms for UPLINK) (2^-16 ns; R254) -/
  actLim : Nat := 655360000
  /-- coast limit, 1 s (2^-16 ns; R255) -/
  coastLim : Nat := 65536000000000
  /-- tracking bandwidth, 10 Hz (mHz; R253) -/
  bw : Nat := 10000
  /-- L (12 bits; R261) -/
  orbitLen : Nat := 0
  /-- marker source kind, 3 for none (event channel, REFIN slot, UPLINK, none; R262) -/
  markSrc : Nat := 3
  /-- marker source (channel or slot; R262) -/
  markIdx : Nat := 0
  /-- marker offset (2^-16 ns; R262) -/
  markOffset : Int := 0
  /-- F (1 to 2^20; R265) -/
  frameLen : Nat := 1
  /-- state (4 states; R255) -/
  state : McState := .disabled
  /-- stamps of the present lane window (stamps of the window; R253) -/
  stamps : List Stamp := []
  /-- raw Q (2^-64; R253) -/
  rawQ : Nat := 0
  /-- raw phase (2^-32 cycle; R253) -/
  rawTheta : Nat := 0
  /-- Q_f (2^-64; R253, R258) -/
  qF : Nat := 0
  /-- theta_f at thetaAt (2^-32 cycle; R253, R258) -/
  thetaF : Nat := 0
  /-- boundary or anchor of theta_f (TICK; R253) -/
  thetaAt : Nat := 0
  /-- instant of the last stamp or set (CORE cycles; R254) -/
  lastSeen : Nat := 0
  /-- consecutive windows in range (0 to 16; R255) -/
  goodRun : Nat := 0
  /-- end of the coast limit (CORE cycles; R255) -/
  coastEnd : Option Nat := none
  /-- VALID in the sets (1 bit; R255, R258) -/
  valid : Bool := false
  /-- STALE in the sets (1 bit; R257, R258) -/
  stale : Bool := false
  /-- sets still to carry STEP (0 to 16; R255, R256) -/
  stepSets : Nat := 0
  /-- phase-hit count (32 bits, saturating; R256, R271) -/
  hits : Nat := 0
  /-- deviations after a phase hit (up to 3; R256) -/
  hitPending : List Int := []
  /-- a phase hit is being judged (1 bit; R256) -/
  hitting : Bool := false
  /-- TRACK has been entered since the channel was enabled (1 bit; R261, R269) -/
  tracked : Bool := false
  /-- orbit count (64 bits; R261) -/
  orbit : Nat := 0
  /-- whole cycles from the last orbit start to the instant of theta_f: the bunch number of the cycle then in progress (cycles; R261) -/
  bunch : Int := 0
  /-- cycles by which the orbit in progress is longer than L (-1, 0, 1; R263) -/
  orbitSlew : Int := 0
  /-- instant of the raw phase (25ths of 2^-16 ns; R253) -/
  rawAt : Int := 0
  /-- marker edges stamped and not yet assigned (stamps; R262) -/
  marks : List Stamp := []
  /-- orbit whose BCN has been issued (64 bits; R266) -/
  bcnDone : Option Nat := none
  /-- length of the frame in progress (orbits; R265) -/
  frameCur : Nat := 1
  /-- ORBIT_VALID (1 bit; R261) -/
  orbitValid : Bool := false
  /-- last delta (13 bits; R262, R271) -/
  delta : Int := 0
  /-- consecutive markers with the same non-zero delta (0 to 3; R262) -/
  markRun : Nat := 0
  /-- slew remaining (orbits; R263) -/
  slewLeft : Int := 0
  /-- MARKER_AMBIGUOUS (32 bits, saturating; R262) -/
  ambiguous : Nat := 0
  /-- orbits started since the last accepted marker (orbits; R262) -/
  markGap : Nat := 0
  /-- build-out absorbed at gauge commits (U; R257) -/
  buildOut : Int := 0
  /-- MARKER_LOST raised (1 bit; R262) -/
  markLostRaised : Bool := false
  /-- orbit count that waits for its KTIME (KTIME and count; R264) -/
  setCount : Option (Int × Nat) := none
  /-- alignment ordered by MCLK_SET_ORBIT (KTIME and bunch; R264) -/
  setAlign : Option (Int × Nat) := none
  /-- received BCN counts that differ (up to 3 counts; R264) -/
  bcnDiff : List Nat := []
  /-- orbits since the frame start (orbits; R265) -/
  framePos : Nat := 0
  /-- PHASE target (12 bits; R259, R271) -/
  phaseTarget : Nat := 4095
  /-- set interval, 100 us (2^-16 ns; R259) -/
  setInterval : Nat := 6553600000
  /-- instant of the next PHASE set (CORE cycles; R259) -/
  nextSet : Nat := 0
  /-- BCN target (12 bits; R266, R271) -/
  bcnTarget : Nat := 4095
  /-- BCN interval (0 to 65,536 orbits; R266) -/
  bcnInterval : Nat := 16
  /-- MC_SOURCE_SELECTED raised (1 bit; R252) -/
  selRaised : Bool := false
deriving DecidableEq, Repr, Inhabited

/-- One MCLK output (R267 to R269). -/
structure MclkOut where
  /-- channel (2 bits; R267) -/
  chan : Nat := 0
  /-- mode (OFF, CLOCK, ORBIT, FRAME; R267) -/
  mode : Nat := 0
  /-- M (1 to 64; R267) -/
  m : Nat := 1
  /-- D (1 to 64; R267) -/
  d : Nat := 1
  /-- output offset (2^-16 ns; R268) -/
  offset : Int := 0
  /-- slew limit, 1 ppm (2^-8 ppb; R268) -/
  slewLim : Nat := 256000
  /-- W (1 to 255; R269) -/
  w : Nat := 1
  /-- squelch flag (clear) (1 bit; R269) -/
  squelchFlag : Bool := false
  /-- swing, 600 mV (400, 600, 800 mV; R271) -/
  swing : Nat := 1
  /-- FTW (48 bits; R267) -/
  ftw : Nat := 0
  /-- loopback stamps of the window (loopback stamps; R268) -/
  stamps : List Stamp := []
  /-- phase error (2^-16 ns; R268, R271) -/
  phaseErr : Int := 0
  /-- the output runs (false: held low) (1 bit; R269) -/
  running : Bool := false
  /-- squelched (1 bit; R269) -/
  squelched : Bool := false
  /-- a slew is in progress (1 bit; R268) -/
  slewing : Bool := false
  /-- ORBIT or FRAME pulses produced: the device's output (count; R269) -/
  pulses : Nat := 0
deriving DecidableEq, Repr, Inhabited

/-- Stitch sequencer and machine clock (R240 to R272). -/
structure Stitch where
  /-- class queues by 8 x group + class (6 groups x 5 classes of 64; R242) -/
  queues : Tbl (List QStitch) := []
  /-- stitches that have reached the sequencer and are not ready (list; R242) -/
  arriving : List QStitch := []
  /-- overflow counts by 8 x group + class (30 counts, 32 bits; R242) -/
  overflow : Tbl Nat := []
  /-- last STITCH_OVERFLOW of each class (CORE cycles; R242) -/
  overflowAt : Tbl Nat := []
  /-- GROUP_EMPTY (32 bits, saturating; R242) -/
  groupEmpty : Nat := 0
  /-- TIMED_LATE (32 bits, saturating; R246) -/
  timedLate : Nat := 0
  /-- TRIGGER_SPACING (32 bits, saturating; R245) -/
  trigSpacing : Nat := 0
  /-- broadcast stitches of the last 16 slots: port and slot index with group (per lane; R241) -/
  history : List (Nat × Nat) := []
  /-- slots already claimed by the following words of a PHASE set (list; R242, R259) -/
  reserved : List Reserved := []
  /-- membership of the target groups (4,095 groups; R249) -/
  groups : Tbl (BitVec 256) := []
  /-- trigger sources (8 sources; R245) -/
  trigs : Tbl TrigSrc := []
  /-- pending TIMED stitches (at most 256; R246) -/
  timed : List Pending := []
  /-- next handle (32 bits; R246) -/
  nextHandle : BitVec 32 := 0
  /-- number of the next STITCH_SEND (count; R244) -/
  nextSeq : Nat := 0
  /-- stitches relayed in the last 64 us: type, payload and instant (list; R248) -/
  relayed : List (Nat × Nat × Nat) := []
  /-- selvedge port settings and counts (256 ports; R248) -/
  ports : Tbl StPort := []
  /-- machine-clock channels (4 channels; R252) -/
  mc : Tbl McChan := []
  /-- MCLK outputs (4 outputs; R267) -/
  mclk : Tbl MclkOut := []
  /-- stitches sent (port, slot, word): the device's output, newest first (list; R241) -/
  sent : List SentStitch := []
  /-- by lattice group, the first slot the sequencer has not served (slot index; R241) -/
  nextSlot : Tbl Nat := []
  /-- STITCH_SEND commands whose stitch is not placed in every group (list; R244) -/
  sendWait : List SendWait := []
deriving DecidableEq, Repr, Inhabited

/-- Parser and class settings of one port (R279, R292). -/
structure ParsePort where
  /-- HDR_MALFORMED action SLOW (1 bit; R279) -/
  malSlow : Bool := true
  /-- LEN_CONFLICT action SLOW (1 bit; R279) -/
  lenSlow : Bool := true
  /-- extraction profile (4 bits; R287) -/
  profile : Nat := 0
  /-- trust PCP (1 bit; R292) -/
  trustPcp : Bool := true
  /-- trust DSCP (1 bit; R292) -/
  trustDscp : Bool := false
  /-- PCP map (3 bits; R292) -/
  pcpMap : Nat := 0
  /-- DSCP map (3 bits; R292) -/
  dscpMap : Nat := 0
  /-- default class (3 bits; R292) -/
  defClass : Nat := 0
  /-- a PAUSE or PFC has raised PAUSE_RX since the last cast-on (1 bit; R285) -/
  pauseSeen : Bool := false
  /-- PARSE_EXCEPTION raised since the counts were cleared (1 bit; R299) -/
  excSeen : Bool := false
deriving DecidableEq, Repr, Inhabited

/-- One extractor (R287). -/
structure Extractor where
  /-- enable (off) (1 bit; R287) -/
  enable : Bool := false
  /-- condition (ANY, UDP, TCP, BTH; R287) -/
  cond : Nat := 0
  /-- anchor (L2, L3, L4, PAYLOAD, BTH_END; R287) -/
  anchor : Nat := 0
  /-- offset (0 to 255; R287) -/
  offset : Nat := 0
  /-- width (1 to 4; R287) -/
  width : Nat := 1
deriving DecidableEq, Repr, Inhabited

/-- One ACL entry (R289, R291). -/
structure AclEntry where
  /-- value (640 bits; R289) -/
  value : BitVec 640 := 0
  /-- mask (640 bits; R289) -/
  mask : BitVec 640 := 0
  /-- action (record; R291) -/
  act : AclAction := {}
  /-- hit count (64 bits; R289) -/
  hits : Nat := 0
  /-- LOST by a parity error (1 bit; R319) -/
  lost : Bool := false
deriving DecidableEq, Repr, Inhabited

/-- One steering profile (R293, R294). -/
structure SteerProf where
  /-- DIRECT mode (HASH at reset) (1 bit; R294) -/
  direct : Bool := false
  /-- field mask of HASH, bit i for the i-th field of R294 (14 fields; R294) -/
  fields : BitVec 14 := 0
  /-- SEED (32 bits; R294) -/
  seed : BitVec 32 := 0
  /-- SYMMETRIC (1 bit; R294) -/
  symmetric : Bool := false
  /-- field of DIRECT (5 names; R294) -/
  field : Nat := 0
  /-- SH (0 to 31; R294) -/
  sh : Nat := 0
  /-- M (1 to 4,096; R294) -/
  m : Nat := 1
  /-- B (0 to 4,095; R294) -/
  b : Nat := 0
  /-- ABSENT is SLOW (DEFAULT at reset) (1 bit; R294) -/
  absentSlow : Bool := false
  /-- last STEER_ABSENT event (CORE cycles; R299) -/
  absentAt : Option Nat := none
  /-- last STEER_INVALID event (CORE cycles; R299) -/
  invalidAt : Option Nat := none
deriving DecidableEq, Repr, Inhabited

/-- The token bucket of one slow-path reason (R283). -/
structure Policer where
  /-- rate; none is the reason's default (frames/s; R283) -/
  rate : Option Nat := none
  /-- burst; none is the reason's default (1 to 4,096; R283) -/
  burst : Option Nat := none
  /-- level, in token units of one frame x one second of CORE cycles; none is full (1/1,250,000,000 frame; R283) -/
  level : Option Nat := none
  /-- instant of the level (CORE cycles; R283) -/
  at_ : Nat := 0
  /-- last SLOW_DROP event (CORE cycles; R299) -/
  dropAt : Option Nat := none
deriving DecidableEq, Repr, Inhabited

/-- A frame held for the slow path (R283, R284). -/
structure SlowFrame where
  /-- ingress port (8 bits; R284) -/
  port : Nat := 0
  /-- reason code (6 bits; R282) -/
  reason : Nat := 0
  /-- the frame (frame number; R284) -/
  frame : Nat := 0
  /-- its bytes (bytes; R488) -/
  bytes : List Byte := []
  /-- cells of the reserve it holds (cells; R283) -/
  cells : Nat := 0
  /-- RX stamp TICK (TICK; R200) -/
  rxTick : Nat := 0
  /-- RX stamp SUB (U; R200) -/
  rxSub : Nat := 0
  /-- STALE, COAST and XFEED (3 bits; R202) -/
  flags : Nat := 0
  /-- class, 0 after an exception (3 bits; R488) -/
  cls : Nat := 0
  /-- pair-tag source ID, or 0 (16 bits; R488) -/
  pairSrc : Nat := 0
deriving DecidableEq, Repr, Inhabited

/-- Parser, ACL, classes, steering and slow path (R273 to R299). -/
structure Parse where
  /-- port settings (256 ports; R279) -/
  ports : Tbl ParsePort := []
  /-- USER0 of profile p at 2p, USER1 at 2p + 1 (32 extractors; R287) -/
  extract : Tbl Extractor := []
  /-- the ACL, empty at reset (32,768 entries; R289) -/
  acl : Tbl AclEntry := []
  /-- PCP map entries that differ from p to TCp, by 8 x map + p (64 entries; R292) -/
  pcp : Tbl Nat := []
  /-- DSCP map entries that differ from d / 8, by 64 x map + d (512 entries; R292) -/
  dscp : Tbl Nat := []
  /-- steering profiles (64 profiles; R294) -/
  steer : Tbl SteerProf := []
  /-- indirection entries, by 4,096 x table + index (262,144 entries; R295) -/
  ind : Tbl (BitVec 32) := []
  /-- slow-path policers (15 reasons; R283) -/
  policers : Tbl Policer := []
  /-- cells of the slow-path reserve in use (0 to 4,096 cells; R283) -/
  reserve : Nat := 0
  /-- frames waiting for the slow-path firmware, oldest first (list; R284) -/
  slow : List SlowFrame := []
deriving DecidableEq, Repr, Inhabited

/-- One VLAN (R301). -/
structure Vlan where
  /-- enable (1 bit; R301) -/
  enable : Bool := false
  /-- member mask (256 bits; R301) -/
  members : BitVec 256 := 0
  /-- untagged mask (256 bits; R301) -/
  untagged : BitVec 256 := 0
  /-- unknown-destination action (FLOOD) (FLOOD, DROP, SLOW; R301, R303) -/
  unknown : Nat := 0
  /-- flood MGID (16 bits; R301) -/
  floodMgid : Nat := 0
  /-- L3 enabled (1 bit; R301) -/
  l3 : Bool := false
  /-- router MAC index (6 bits; R301) -/
  rmac : Nat := 0
deriving DecidableEq, Repr, Inhabited

/-- One L2 entry (R303). -/
structure L2Entry where
  /-- result (32 bits; R302) -/
  result : BitVec 32 := 0
  /-- location it stands at (0 to 524,287; R570) -/
  loc : Nat := 0
deriving DecidableEq, Repr, Inhabited

/-- One host route (R304, R305). -/
structure HostEntry where
  /-- result (32 bits; R302) -/
  result : BitVec 32 := 0
  /-- its first unit (0 to 262,143; R570) -/
  loc : Nat := 0
  /-- the second unit of an IPv6 entry (0 to 262,143; R305) -/
  loc2 : Option Nat := none
deriving DecidableEq, Repr, Inhabited

/-- One LPM prefix (R305). -/
structure LpmEntry where
  /-- result (32 bits; R302) -/
  result : BitVec 32 := 0
  /-- location it stands at (0 to 262,143; R570) -/
  loc : Nat := 0
deriving DecidableEq, Repr, Inhabited

/-- One next hop (R306). -/
structure NextHop where
  /-- PORT (8 bits; R306) -/
  port : Nat := 0
  /-- VID (12 bits; R306) -/
  vid : Nat := 1
  /-- DA (48 bits; R306) -/
  da : Nat := 0
  /-- RMAC (6 bits; R306) -/
  rmac : Nat := 0
  /-- DEC_TTL (1 bit; R306) -/
  decTtl : Bool := true
deriving DecidableEq, Repr, Inhabited

/-- One ECMP group (R307). -/
structure EcmpGroup where
  /-- members (1 to 256 next hops; R307) -/
  members : List Nat := []
  /-- steering profile (6 bits; R307) -/
  profile : Nat := 0
  /-- member-pool locations of its members (0 to 65,535 each; R570) -/
  locs : List Nat := []
deriving DecidableEq, Repr, Inhabited

/-- One multicast group (R308). -/
structure McGroup where
  /-- members (empty at reset) (0 to 256 members; R308) -/
  members : List Member := []
  /-- AON (1 bit; R308) -/
  aon : Bool := false
  /-- PRUNE (1 bit; R308) -/
  prune : Bool := true
  /-- replication-pool locations of its members (0 to 524,287 each; R570) -/
  locs : List Nat := []
  /-- last MC_AON_REFUSED event (CORE cycles; R321) -/
  aonAt : Option Nat := none
deriving DecidableEq, Repr, Inhabited

/-- Forwarding tables (R300 to R321, R570). -/
structure Fwd where
  /-- VLANs (4,094; R301) -/
  vlans : Tbl Vlan := []
  /-- L2 entries by VID x 2^48 + DA, empty at reset (524,288 entries; R303) -/
  l2 : Tbl L2Entry := []
  /-- host entries by address, 2^128 + address for IPv6 (262,144 units; R305) -/
  hosts : Tbl HostEntry := []
  /-- IPv4 LPM entries by prefix x 256 + length (262,144 prefixes; R305) -/
  lpm4 : Tbl LpmEntry := []
  /-- IPv6 LPM entries by prefix x 256 + length (65,536 prefixes; R305) -/
  lpm6 : Tbl LpmEntry := []
  /-- next hops (65,536; R306) -/
  nhs : Tbl NextHop := []
  /-- router MACs (64 of 48 bits; R306) -/
  rmacs : Tbl Nat := []
  /-- ECMP groups (4,096; R307) -/
  ecmp : Tbl EcmpGroup := []
  /-- multicast groups (65,536; R308) -/
  mcast : Tbl McGroup := []
  /-- LOST locations (list; R318) -/
  lost : List LostLoc := []
  /-- locations whose copy in shared control SRAM is uncorrectable, so that no rebuild restores them (table and location; R472) -/
  badCopies : List (Nat × Nat) := []
  /-- corrected errors (64 bits; R318, R320) -/
  corrected : Nat := 0
deriving DecidableEq, Repr, Inhabited

/-- One contract, port and class (R357 to R369). -/
structure Contract where
  /-- contract state (ACTIVE, SUSPENDED, DRAINING; R366) -/
  state : CState := .active
  /-- L_MAX (600 to 100,000 ns; R357) -/
  lMax : Nat := 600
  /-- RATE (1 to 800,000 Mb/s; R357) -/
  rate : Nat := 1
  /-- BURST (1 to 4,096 cells; R357) -/
  burst : Nat := 1
  /-- FMAX (bytes; R357) -/
  fmax : Nat := 64
  /-- INGRESS_MASK (256 bits; R357) -/
  mask : BitVec 256 := 0
  /-- bucket level, full at activation (2^-40 cell; R360) -/
  level : Nat := 0
  /-- TICK of the last refill (TICK; R360) -/
  tLast : Nat := 0
  /-- R365 code of the suspension (3 bits; R367) -/
  susCode : Nat := 0
  /-- last LATE_GUARD event (CORE cycles; R369) -/
  guardAt : Option Nat := none
  /-- MAX_SEEN_GET (2^-16 ns; R369) -/
  maxSeenGet : Nat := 0
  /-- copies admitted under it and still in the device (copies; R366) -/
  copies : Nat := 0
deriving DecidableEq, Repr, Inhabited

/-- The contracts (R356 to R376). -/
structure Contracts where
  /-- by 4 x port + class - 4, none at reset (1,024 contracts; R357) -/
  table : Tbl Contract := []
  /-- MAX_SEEN, kept across deletion (1,024 values, 2^-16 ns; R369, R522) -/
  maxSeen : Tbl Nat := []
  /-- the CORE cycle that `late` is of (CORE cycles; R11, R375, R525) -/
  lateAt : Nat := 0
  /-- by contract, the largest latency recorded in that cycle, and MAX_SEEN_GET of before it (2^-16 ns; R11, R375, R525) -/
  late : Tbl (Nat × Nat) := []
deriving DecidableEq, Repr, Inhabited

/-- A command a mailbox has fetched and not completed (R442, R446, R451). -/
structure MbCmd where
  /-- position (32 bits; R442) -/
  pos : BitVec 32 := 0
  /-- OPCODE (16 bits; R446) -/
  opcode : Nat := 0
  /-- FLAGS (8 bits; R446) -/
  flags : Nat := 0
  /-- TAG (32 bits; R446) -/
  tag : BitVec 32 := 0
  /-- the parameter area from offset 8 (56 bytes and the extension; R447) -/
  params : List Byte := []
  /-- status that checks 1 to 4 of R450 have decided (status and DETAIL; R450) -/
  early : Option (Nat × Nat) := none
  /-- SUBMIT_COUNT of every mailbox when the doorbell that covers the command reached the device (8 positions; R461) -/
  earlier : List (BitVec 32) := []
  /-- the command has started (1 bit; R451) -/
  started : Bool := false
  /-- instant at which it started (CORE cycles; R452) -/
  startAt : Nat := 0
  /-- TIMEOUT in force then (ms; R452) -/
  timeout : Nat := 0
  /-- its commit point is recorded (1 bit; R452, R469) -/
  committed : Bool := false
  /-- its abort was sampled short of the commit point (1 bit; R453) -/
  aborted : Bool := false
  /-- instant at which PD2 hardware found a FENCE fetched with every earlier command complete (CORE cycles; R463) -/
  readyAt : Option Nat := none
deriving DecidableEq, Repr, Inhabited

/-- One mailbox, MB0-MB7 (R443). -/
structure Mailbox where
  /-- ENABLE (1 bit; R443) -/
  enable : Bool := false
  /-- STATE (2 bits; R443, R445) -/
  state : MbState := .disabled
  /-- ENABLE has been cleared since the FAULT (1 bit; R445) -/
  faultCleared : Bool := false
  /-- FETCH_FAULT (1 bit; R443) -/
  fetchFault : Bool := false
  /-- THRESH_HIT (1 bit; R443) -/
  threshHit : Bool := false
  /-- INDEX_FAULT (1 bit; R443) -/
  indexFault : Bool := false
  /-- CMD_BASE (64 bits; R443) -/
  cmdBase : BitVec 64 := 0
  /-- RESP_BASE (64 bits; R443) -/
  respBase : BitVec 64 := 0
  /-- EXT_BASE (64 bits; R443) -/
  extBase : BitVec 64 := 0
  /-- SUBMIT_COUNT (32 bits; R443) -/
  submit : BitVec 32 := 0
  /-- FETCH_COUNT (32 bits; R443) -/
  fetch : BitVec 32 := 0
  /-- DONE_COUNT (32 bits; R443) -/
  done : BitVec 32 := 0
  /-- RESP_RD_COUNT (32 bits; R443) -/
  respRd : BitVec 32 := 0
  /-- TIMEOUT (10 to 60,000 ms; R443) -/
  timeout : Nat := 1000
  /-- THRESH (9 bits; R443) -/
  thresh : Nat := 0
  /-- FAULT_ADDR (64 bits; R443) -/
  faultAddr : BitVec 64 := 0
  /-- LAST_STATUS (16 bits; R443) -/
  lastStatus : Nat := 0
  /-- LAST_OPCODE (16 bits; R443) -/
  lastOpcode : Nat := 0
  /-- LAST_TAG (32 bits; R443) -/
  lastTag : BitVec 32 := 0
  /-- LAST_POS (32 bits; R443) -/
  lastPos : BitVec 32 := 0
  /-- fetched commands not completed, in position order (at most 16; R445, R451) -/
  inFlight : List MbCmd := []
  /-- end of a span fixed by RESET whose commands still wait to complete with ST_ABORTED (32 bits; R445) -/
  resetTo : Option (BitVec 32) := none
  /-- positions aborted before their fetch (positions; R453) -/
  abortedAhead : List (BitVec 32) := []
  /-- doorbells not yet completed: the SUBMIT_COUNT each wrote, and the SUBMIT_COUNT of every mailbox when it reached the device (per doorbell; R461) -/
  doors : List (BitVec 32 × List (BitVec 32)) := []
  /-- positions below this one complete without a response, after a function-level reset (32 bits; R454) -/
  silentTo : Option (BitVec 32) := none
  /-- MB_ABORTED has been raised for the present abort or RESET (1 bit; R459) -/
  abortRaised : Bool := false
  /-- ACL staging buffer (4 parts; R298) -/
  aclStage : Tbl (List Byte) := []
  /-- member staging buffer (staged members; R315) -/
  memStage : Tbl Member := []
  /-- its commands that C0 has completed (count; R436) -/
  served0 : Nat := 0
  /-- its commands that C1 has completed (count; R436) -/
  served1 : Nat := 0
deriving DecidableEq, Repr, Inhabited

/-- Fences and recovery (R460 to R478). -/
structure Fence where
  /-- the fence epoch last assigned, 0 before the first (64 bits; R462) -/
  epoch : Nat := 0
  /-- TICK of the last admission marker placed (64 bits; R463) -/
  lastF : Nat := 0
  /-- placed markers whose streams still owe their marker (list; R466) -/
  marks : List FenceMark := []
  /-- FENCE commands whose F is placed and which complete at F + 16 (list; R465) -/
  active : List ActiveFence := []
  /-- a recovery of C0-C1 pauses the fetching of MB0-MB6 (1 bit; R470) -/
  recovery : Bool := false
  /-- FENCE commands that wait for earlier commands of other mailboxes (commands; R463) -/
  waiting : List CmdSrc := []
deriving DecidableEq, Repr, Inhabited

/-- ROUTE of one source (R517). -/
structure Route where
  /-- VECTOR (6 bits; R517) -/
  vector : Nat := 0
  /-- INT_N (1 bit; R517) -/
  intN : Bool := false
  /-- LOG (1 bit; R517) -/
  log : Bool := true
deriving DecidableEq, Repr, Inhabited

/-- LAST_CAUSE of one source (R517). -/
structure LastCause where
  /-- LAST_CAUSE (16 bits; R517) -/
  cause : Nat := 0
  /-- COUNT (16 bits, saturating; R517) -/
  count : Nat := 0
deriving DecidableEq, Repr, Inhabited

/-- One MSI-X vector (R512, R513, R517). -/
structure Vec where
  /-- COAL_COUNT (9 bits; R517) -/
  coalCount : Nat := 1
  /-- COAL_TIME (16 bits, us; R517) -/
  coalTime : Nat := 0
  /-- HELD (9 bits; R517) -/
  held : Nat := 0
  /-- expiry of the running timer (TIMER_RUNNING while some) (CORE cycles; R512, R517) -/
  timer : Option Nat := none
  /-- VEC_SENT (32 bits; R517) -/
  sent : BitVec 32 := 0
  /-- PBA bit (1 bit; R513) -/
  pba : Bool := false
  /-- MSI-X table address (64 bits; R513) -/
  addr : BitVec 64 := 0
  /-- MSI-X table data (32 bits; R513) -/
  data : BitVec 32 := 0
  /-- MSI-X vector mask (the PCIe reset value) (1 bit; R513) -/
  masked : Bool := true
deriving DecidableEq, Repr, Inhabited

/-- One event-log record (R518). -/
structure LogRec where
  /-- 0 EVENT, 1 MARKER, 2 LOST, 3 DAMAGED (4 bits; R518) -/
  kind : Nat := 0
  /-- SOURCE (10 bits; R518) -/
  source : Nat := 0
  /-- INJECTED (1 bit; R518) -/
  injected : Bool := false
  /-- CAUSE (16 bits; R518) -/
  cause : Nat := 0
  /-- DATA (16 bytes; R518) -/
  data : List Byte := []
  /-- VALUE (64 bits; R518) -/
  value : Nat := 0
deriving DecidableEq, Repr, Inhabited

/-- What hardware has set and counted in one CORE cycle, against which a host access of that cycle is judged (R11). -/
structure Cycle where
  /-- the cycle (CORE cycles; R11) -/
  at_ : Nat := 0
  /-- the W1C bits that hardware has set in it, each as 32 × offset + bit (register bits; R11) -/
  set_ : List Nat := []
  /-- of each RC field that hardware has incremented in it, by offset, what the field held before it (32 bits each; R11) -/
  before : Tbl Nat := []
deriving DecidableEq, Repr, Inhabited

/-- The event controller (R508 to R519). -/
structure Events where
  /-- INT_N_ENABLE (1 bit; R517) -/
  intNEnable : Bool := false
  /-- PENDING (1,024 bits; R510, R517) -/
  pending : BitVec 1024 := 0
  /-- MASK (1,024 bits; R511, R517) -/
  mask : BitVec 1024 := BitVec.allOnes 1024
  /-- ROUTE (1,024 sources; R517) -/
  routes : Tbl Route := []
  /-- LAST_CAUSE and COUNT (1,024 sources; R517) -/
  last : Tbl LastCause := []
  /-- vectors, MSI-X table and PBA (64 vectors; R517) -/
  vecs : Tbl Vec := []
  /-- MSI-X Enable (the PCIe reset value) (1 bit; R513) -/
  msixEnable : Bool := false
  /-- MSI-X function mask (1 bit; R513) -/
  fnMask : Bool := false
  /-- MSI-X messages sent, newest first: the device's output (list; R513) -/
  messages : List Nat := []
  /-- LOG_WR_COUNT (32 bits; R517) -/
  logWr : BitVec 32 := 0
  /-- LOG_RD_COUNT (32 bits; R517) -/
  logRd : BitVec 32 := 0
  /-- LOG_THRESH (11 bits; R517) -/
  logThresh : Nat := 0
  /-- LOG_LOST_SEEN (1 bit; R517) -/
  logLostSeen : Bool := false
  /-- LOG_THRESH_HIT (1 bit; R517) -/
  logThreshHit : Bool := false
  /-- LOG_LOST (32 bits, saturating; R517) -/
  logLost : Nat := 0
  /-- the log, by k mod 1,024 (1,024 records; R518) -/
  log : Tbl LogRec := []
  /-- records dropped since the last room or marker, not yet reported (count; R519) -/
  logRun : Nat := 0
  /-- TICK of the first of them (64 bits; R519) -/
  logRunTick : Nat := 0
  /-- markers (and the losses before each) that wait for room (list; R519) -/
  logWait : List RingWait := []
  /-- a loss period is open, so LOG_LOST has been raised (1 bit; R527) -/
  logLossPeriod : Bool := false
  /-- what hardware has set and counted in the present CORE cycle (record; R11) -/
  cycle : Cycle := {}
deriving DecidableEq, Repr, Inhabited

/-- The BAR2 statistics (R520 to R525). -/
structure Stats where
  /-- the live bank, by BAR2 offset (64 bits each, saturating; R520) -/
  live : Tbl Nat := []
  /-- the shown snapshot bank, by live offset (64 bits each; R520, R524) -/
  snap : Tbl Nat := []
  /-- the hidden bank (64 bits each; R524) -/
  hidden : Tbl Nat := []
  /-- BUSY (1 bit; R523) -/
  busy : Bool := false
  /-- ARMED (1 bit; R523) -/
  armed : Bool := false
  /-- SNAP_SEQ (32 bits; R523) -/
  seq : BitVec 32 := 0
  /-- SNAP_TICK shown (64 bits; R523) -/
  tick : Nat := 0
  /-- SNAP_EPOCH shown (64 bits; R523) -/
  epoch : Nat := 0
  /-- TICK of the snapshot being copied (64 bits; R524) -/
  pendTick : Nat := 0
  /-- epoch of the snapshot being copied (64 bits; R524) -/
  pendEpoch : Nat := 0
  /-- SNAP_OVERRUN (32 bits, saturating; R523) -/
  overrun : Nat := 0
  /-- counts that COUNTER_CLEAR has taken off the live bank, so that the GET commands count on (64 bits each; R525) -/
  cleared : Tbl Nat := []
  /-- the CORE cycle that grownBy is of (CORE cycles; R11, R525) -/
  grownAt : Nat := 0
  /-- what the live counters have grown by in that cycle (64 bits each; R11, R525) -/
  grownBy : Tbl Nat := []
  /-- what the counters and MAX_SEENs changed in that cycle stood at when it started, by BAR2 offset (64 bits each; R524, R525) -/
  startOf : Tbl Nat := []
  /-- baselines of the GET commands, by the BAR2 offset counted (64 bits each; R525) -/
  base : Tbl Nat := []
deriving DecidableEq, Repr, Inhabited

/-- One temperature sensor, TS0-TS15 (R536). -/
structure Sensor where
  /-- last readings, newest first (last 16, 1/16 degree; R536) -/
  readings : List Int := []
  /-- marked faulty by SYS_SET_SENSOR (1 bit; R536) -/
  hostMark : Bool := false
  /-- declared faulty (1 bit; R536) -/
  faulty : Bool := false
  /-- no conversion for 10 ms (1 bit; R536) -/
  noConv : Bool := false
  /-- the last reading was out of range (1 bit; R536) -/
  badReading : Bool := false
  /-- instant of the last conversion (CORE cycles; R536) -/
  convAt : Nat := 0
  /-- since when its mean deviates from the quadrant's median (CORE cycles; R536) -/
  devSince : Option Nat := none
  /-- since when none of the fault cases holds, none while one does (CORE cycles; R536) -/
  soundSince : Option Nat := some 0
deriving DecidableEq, Repr, Inhabited

/-- Power controller, resets, boot, thermal state and OSPI (R528 to R544). -/
structure Power where
  /-- boot stage (9 codes; R533) -/
  stage : Stage := .por
  /-- last reset kind (0 COLD, 1 UNIT, 2 WARM, 3 ALIGN) (4 kinds; R530, R542) -/
  resetKind : Nat := 0
  /-- last reset cause (6 causes; R542) -/
  resetCause : Nat := 0
  /-- accepted reset that has not started (kind and cause; R531) -/
  resetPending : Option (Nat × Nat) := none
  /-- instant at which it starts (CORE cycles; R531) -/
  resetAt : Nat := 0
  /-- reset in progress, from its start until READY, RECOVERY or THERMTRIP (kind; R531) -/
  resetting : Option Nat := some 0
  /-- instant at which this boot began (CORE cycles; R533) -/
  bootStart : Nat := 0
  /-- boot time (ms; R542) -/
  bootMs : Nat := 0
  /-- faulty supplies, in the order of R528 (9 supplies; R529) -/
  supplyFault : Tbl Bool := []
  /-- a cold reset is held for VDD_AON or VDDIO (1 bit; R529) -/
  supplyHold : Bool := false
  /-- instant at which PD1 is powered on again after ROOT did not lock (CORE cycles; R533) -/
  rootRetry : Option Nat := none
  /-- ROOT_FAULT shown on OSPI (1 bit; R533) -/
  rootFault : Bool := false
  /-- the ROM checksum was wrong (1 bit; R533) -/
  romFault : Bool := false
  /-- instant at which PD1 was powered on (CORE cycles; R533) -/
  pd1At : Nat := 0
  /-- to raise once PD2 is on: 1 BASE_COPY_DIFFER, 2 BASE_COPY_INVALID (0 to 2; R425) -/
  copyNote : Nat := 0
  /-- the sensors (16 sensors; R536) -/
  sensors : Tbl Sensor := []
  /-- thermal state (4 states; R537) -/
  therm : Therm := .normal
  /-- WARN; none is the default Tj_max - 10 (1/16 degree; R537) -/
  warn : Option Int := none
  /-- THROTTLE_AT; none is the default Tj_max - 5 (1/16 degree; R537) -/
  throttleAt : Option Int := none
  /-- hysteresis H, 3 degrees (1/16 degree; R537) -/
  hyst : Nat := 48
  /-- throttle fraction (10 to 100 percent; R538) -/
  fraction : Nat := 50
  /-- since when the state is THROTTLE or OVER (CORE cycles; R542) -/
  throttleSince : Nat := 0
  /-- time in THROTTLE (CORE cycles; R542) -/
  throttleTime : Nat := 0
  /-- time in OVER (CORE cycles; R542) -/
  overTime : Nat := 0
  /-- level of THERMTRIP_N (1 bit; R539) -/
  thermtripN : Bool := true
  /-- OSPI_BAD (16 bits, saturating; R540, R541) -/
  ospiBad : Nat := 0
  /-- the previous OSPI transaction was 0x66 (1 bit; R541) -/
  ospiArm : Bool := false
  /-- bytes shifted out by the last OSPI transaction (bytes; R541) -/
  ospiOut : List Byte := []
  /-- copy 1 has been erased in this RECOVERY (1 bit; R541) -/
  recErased : Bool := false
  /-- the erase runs (1 bit; R541) -/
  recErasing : Bool := false
  /-- failed check of the last recovery commit (8 bits; R534) -/
  recCheck : Nat := 0
  /-- bytes written into copy 1 in RECOVERY (0xFF elsewhere after the erase) (bytes by offset; R534, R541) -/
  copy1 : Tbl Nat := []
  /-- SGPIO_STALL raised for the present silence (1 bit; R55) -/
  sgpioStalled : Bool := false
deriving DecidableEq, Repr, Inhabited

/-- One of the cores C0-C13 (R417 to R420, R435 to R438). -/
structure CtrlCore where
  /-- CORE_STATE: 0 reset, 1 running, 2 halted by debug, 3 restarting (2 bits; R438) -/
  state : Nat := 0
  /-- RESTARTS (32 bits; R438) -/
  restarts : BitVec 32 := 0
  /-- FIREWALL_FAULT count (32 bits, saturating; R420) -/
  faultCount : Nat := 0
  /-- firewall faults of the last second (instants; R418) -/
  faults : List Nat := []
  /-- last FIREWALL_FAULT event (CORE cycles; R420) -/
  faultAt : Option Nat := none
  /-- KCNT0 to KCNT7 (8 of 32 bits; R435, R438) -/
  cnt : List (BitVec 32) := [0, 0, 0, 0, 0, 0, 0, 0]
  /-- KSEL0 to KSEL7: EVENT, ENABLE, CHAIN, OVF_IRQ (8 of 11 bits; R435, R438) -/
  ksel : List (BitVec 11) := [0, 0, 0, 0, 0, 0, 0, 0]
  /-- KOVF (8 bits; R437, R438) -/
  ovf : BitVec 8 := 0
  /-- interrupts taken for counter overflows (count; R437) -/
  irqs : Nat := 0
  /-- completed mailbox commands that the counters have counted (count; R436) -/
  servedSeen : Nat := 0
deriving DecidableEq, Repr, Inhabited

/-- One entry of the shared SRAM region map (R456). -/
structure MapEntry where
  /-- base (4 KiB units; R456) -/
  base : Nat := 0
  /-- length (4 KiB units; R456) -/
  length : Nat := 0
  /-- core mask (16 bits; R456) -/
  mask : BitVec 16 := 0
deriving DecidableEq, Repr, Inhabited

/-- Identity of an image held by the device (R421). -/
structure ImgInfo where
  /-- EPOCH (64 bits; R421) -/
  epoch : Nat := 0
  /-- SEC_VERSION (0 to 64; R421) -/
  secVersion : Nat := 0
  /-- LENGTH (bytes; R421) -/
  length : Nat := 0
  /-- KEY_SLOT (0 to 7; R421) -/
  keySlot : Nat := 0
  /-- COMPAT_KZ4096 (1 bit; R421) -/
  compat : Bool := false
  /-- commands of the CONFIG section, in order (at most 4,096; R422) -/
  cmds : List RawCmd := []
  /-- channel-table sections by section number or copy index, as their bytes (sections; R427) -/
  tables : Tbl (List Byte) := []
  /-- MODULE_MAP section (bytes; R422) -/
  modMap : List Byte := []
  /-- KEYS section: OPERATOR (false) or DEBUG (true) role and the public key (at most 4; R422) -/
  keys : List (Bool × List Byte) := []
deriving DecidableEq, Repr, Inhabited

/-- One overlay slot, OV0-OV15 (R427 to R430). -/
structure Overlay where
  /-- slot state (EMPTY, LOADED, VALID, ARMED; R428) -/
  state : OvState := .empty
  /-- the image it holds (record; R427) -/
  img : ImgInfo := {}
  /-- arm mode TIME (FENCE otherwise) (1 bit; R429) -/
  timeMode : Bool := false
  /-- arm KTIME (2^-16 ns of KTIME; R429) -/
  t : Int := 0
  /-- number of applications (count; R439) -/
  applied : Nat := 0
  /-- the IMG_ARM of mode FENCE to complete (source; R429) -/
  src : CmdSrc := .direct
  /-- ACL staging buffer of the overlay (4 parts; R427) -/
  aclStage : Tbl (List Byte) := []
  /-- member staging buffer of the overlay (staged members; R427) -/
  memStage : Tbl Member := []
deriving DecidableEq, Repr, Inhabited

/-- An open SEC_CHALLENGE (R432). -/
structure Challenge where
  /-- role DEBUG (OPERATOR otherwise) (1 bit; R432) -/
  debug : Bool := false
  /-- level FULL (CORES otherwise) (1 bit; R432) -/
  full : Bool := false
  /-- the nonce (256 bits; R432) -/
  nonce : Nat := 0
  /-- end of its 30 s (CORE cycles; R432) -/
  deadline : Nat := 0
deriving DecidableEq, Repr, Inhabited

/-- Processors, Keeper, images and sessions (R417 to R440). -/
structure Fw where
  /-- the cores C0 to C13 (14 cores; R417) -/
  cores : Tbl CtrlCore := []
  /-- core watchdog period, 10 ms (2^-16 ns; R418) -/
  wdPeriod : Nat := 655360000000
  /-- shared SRAM region map (64 regions; R456) -/
  map : Tbl MapEntry := []
  /-- instant of PD2 power-on, from which KCYCLE counts (CORE cycles; R435) -/
  kcycle0 : Nat := 0
  /-- overlay slots, EMPTY (16 slots; R427) -/
  overlays : Tbl Overlay := []
  /-- ACL staging buffer of the CONFIG section (4 parts; R426) -/
  cfgAclStage : Tbl (List Byte) := []
  /-- member staging buffer of the CONFIG section (staged members; R426) -/
  cfgMemStage : Tbl Member := []
  /-- last overlay applied, with its fence epoch (slot and epoch; R439) -/
  lastOverlay : Option (Nat × Nat) := none
  /-- the running base image (record; R425) -/
  base_ : ImgInfo := {}
  /-- copy the running image came from (1 bit; R425) -/
  baseCopy : Nat := 0
  /-- base images in boot flash, none where the copy is not valid (2 copies; R425) -/
  copies : List (Option ImgInfo) := [none, none]
  /-- the boot configuration has ended and the mailboxes are open (1 bit; R426) -/
  configDone : Bool := false
  /-- end of the open OPERATOR session (CORE cycles; R432) -/
  sessionEnd : Option Nat := none
  /-- session time, 300 s (2^-16 ns; R432) -/
  sessionTime : Nat := 19660800000000000
  /-- the open challenge (record; R432) -/
  challenge : Option Challenge := none
  /-- signature part 0, while SEC_RESPONSE part 0 was the last MB7 command (48 bytes; R432, R457) -/
  respPart0 : Option (List Byte) := none
  /-- failed responses of the last 60 s (instants; R432) -/
  authFails : List Nat := []
  /-- end of the 60 s in which SEC_CHALLENGE is busy (CORE cycles; R432) -/
  authBusy : Option Nat := none
  /-- debug level (LOCKED, CORES, FULL; R433) -/
  debug : Debug := .locked
  /-- the key-store cache holds keys (false once zeroised) (1 bit; R433) -/
  keyCache : Bool := true
  /-- instruction the debug TAP acts on (instruction; R434) -/
  tap : TapInstr := .bypass
deriving DecidableEq, Repr, Inhabited

/-- The pair configuration (R379, R388, R393, R395, R399, R402, R405, R415). -/
structure PairCfg where
  /-- lifeline cycle, 1 ms (2^-16 ns; R395) -/
  cycle : Nat := 65536000000
  /-- apply lead, 200 us (2^-16 ns; R396) -/
  lead : Nat := 13107200000
  /-- commit timeout (2 to 100 cycles; R399) -/
  commitTimeout : Nat := 10
  /-- join timeout (2^-16 ns; R415) -/
  joinTimeout : Nat := 655360000000000
  /-- pair watchdog period, 20 ms (2^-16 ns; R379) -/
  watchdog : Nat := 1310720000000
  /-- skew guard, 100 us (2^-16 ns; R405) -/
  skewGuard : Nat := 6553600000
  /-- W (1,024 to 65,536; R393) -/
  window : Nat := 65536
  /-- T, 2 ms (2^-16 ns; R393) -/
  chunkAge : Nat := 131072000000
  /-- block close timeout, 10 ms (2^-16 ns; R402) -/
  closeTimeout : Nat := 655360000000
  /-- outcome timeout, 60 s (2^-16 ns; R402) -/
  outcomeTimeout : Nat := 3932160000000000
  /-- pair-tag EtherType, 0x88B5 (16 bits; R386) -/
  etherType : Nat := 34997
  /-- PL_ASYM (2^-16 ns; R409) -/
  plAsym : Int := 0
deriving DecidableEq, Repr, Inhabited

/-- The attachment of one port (R385, R388, R391). -/
structure PairPort where
  /-- attachment (UNPAIRED) (4 names; R385) -/
  attach : Attach := .unpaired
  /-- source ID of a SINGLE port (16 bits; R385) -/
  source : Nat := 1
  /-- SOURCE_BASE of a DUAL port (16 bits; R388) -/
  base : Nat := 1
  /-- SOURCE_COUNT (1 to 16,384; R388) -/
  count : Nat := 1
  /-- untagged action DROP (SLOW at reset) (1 bit; R387) -/
  dropUntagged : Bool := false
  /-- next SEQ of a SINGLE source (24 bits; R391) -/
  seq : BitVec 24 := 0
  /-- PATH_MISMATCH raised since the last cast-on (1 bit; R387) -/
  pathSeen : Bool := false
deriving DecidableEq, Repr, Inhabited

/-- One chunk of 1,024 sequence numbers (R393). -/
structure DupChunk where
  /-- SEQ div 1,024 (14 bits; R393) -/
  index : Nat := 0
  /-- TICK of its first acceptance (TICK; R393) -/
  first : Nat := 0
  /-- accepted sequence numbers (1,024 bits; R393) -/
  bits : BitVec 1024 := 0
deriving DecidableEq, Repr, Inhabited

/-- One unit's record of one block (R402). -/
structure DigestRec where
  /-- block number b (14 bits; R402) -/
  block : Nat := 0
  /-- N_S (count; R402) -/
  nS : Nat := 0
  /-- H_S (64 bits; R402) -/
  hS : BitVec 64 := 0
  /-- H_D (64 bits; R402) -/
  hD : BitVec 64 := 0
  /-- N_DEL (count; R402) -/
  nDel : Nat := 0
  /-- N_BEN (count; R402) -/
  nBen : Nat := 0
  /-- N_FLT (count; R402) -/
  nFlt : Nat := 0
  /-- EXEMPT (1 bit; R402, R405) -/
  exempt : Bool := false
  /-- N_XDROP (count; R402) -/
  nXdrop : Nat := 0
  /-- H_XDROP (64 bits; R402) -/
  hXdrop : BitVec 64 := 0
  /-- the block has closed and its decision part is sent (1 bit; R402) -/
  closed : Bool := false
  /-- its outcome part is sent (1 bit; R402) -/
  sent : Bool := false
  /-- instant of its last frame (CORE cycles; R402) -/
  last : Nat := 0
deriving DecidableEq, Repr, Inhabited

/-- The duplicate-table entry and digest of one source ID (R393, R402). -/
structure DupEntry where
  /-- H (24 bits; R393) -/
  high : BitVec 24 := 0
  /-- the bitmap in chunks of 1,024 (W div 1,024 chunks; R393) -/
  chunks : List DupChunk := []
  /-- instant of creation (CORE cycles; R393) -/
  created : Nat := 0
  /-- instant of the last frame (CORE cycles; R393) -/
  lastSeen : Nat := 0
  /-- DUP of the source (64 bits; R393, R415) -/
  dup : Nat := 0
  /-- DUP_WINDOW of the source (64 bits; R393, R415) -/
  dupWindow : Nat := 0
  /-- the unit's own block records (list; R402) -/
  blocks : List DigestRec := []
  /-- the partner's block records not yet compared (list; R404) -/
  partner : List DigestRec := []
  /-- verdict counts in the order of R404's table (5 counts; R404, R415) -/
  verdicts : Tbl Nat := []
  /-- EXEMPT blocks compared (count; R415) -/
  exemptBlocks : Nat := 0
  /-- last block compared (14 bits; R415) -/
  lastBlock : Nat := 0
  /-- values of the verdict and EXEMPT counts at the last CLEAR (6 counts; R415) -/
  vBase : Tbl Nat := []
deriving DecidableEq, Repr, Inhabited

/-- A command completed by its journal (R396, R399). -/
structure JournalWait where
  /-- the command (command; R396) -/
  cmd : Instr := .nop .direct []
  /-- cycle whose journal holds it (count; R396) -/
  cycle : Nat := 0
  /-- instant at which it joined (CORE cycles; R399) -/
  joined : Nat := 0
deriving DecidableEq, Repr, Inhabited

/-- The double-knit pair (R377 to R416). -/
structure Pair where
  /-- pair enabled (ALONE at reset) (1 bit; R381, R415) -/
  enable : Bool := false
  /-- configuration (record; R415) -/
  cfg : PairCfg := {}
  /-- ROLE (7 codes; R381, R414) -/
  role : Role := .alone
  /-- ROLE_EPOCH (64 bits; R382, R414) -/
  epoch : Nat := 0
  /-- last partner ROLE_EPOCH received (64 bits; R382) -/
  partnerEpoch : Nat := 0
  /-- partner's ROLE in its last report (7 codes; R413) -/
  partnerRole : Role := .alone
  /-- end of the join timeout (CORE cycles; R381) -/
  joinEnd : Option Nat := none
  /-- level of PAIR_ALIVE_OUT: the device's output (1 bit; R379) -/
  aliveOut : Bool := false
  /-- the pair watchdog has expired (1 bit; R379, R408) -/
  watchdogDead : Bool := false
  /-- PARTNER_ALIVE, heartbeat present (1 bit; R380, R414) -/
  alive : Bool := false
  /-- filtered level of PAIR_ALIVE_IN (1 bit; R380) -/
  aliveIn : Bool := false
  /-- last accepted edge (CORE cycles; R380) -/
  aliveEdge : Option Nat := none
  /-- last long interval (alignment mark) (CORE cycles; R380, R383) -/
  aliveLong : Option Nat := none
  /-- consecutive in-range edges (0 to 64; R380) -/
  aliveRun : Nat := 0
  /-- ALIVE_RANGE (32 bits, saturating; R380, R414) -/
  aliveRange : Nat := 0
  /-- LINK_UP (1 bit; R378, R414) -/
  linkUp : Bool := false
  /-- LINK_HALF (1 bit; R378, R414) -/
  linkHalf : Bool := false
  /-- form being cast on: 0 full, 1 PL0-PL3, 2 PL4-PL7 (0 to 2; R378) -/
  castTry : Nat := 0
  /-- PL_SILENT holds (1 bit; R380) -/
  silent : Bool := false
  /-- last CONTROL frame received (CORE cycles; R380) -/
  controlRx : Nat := 0
  /-- last CONTROL frame sent (CORE cycles; R380) -/
  controlTx : Nat := 0
  /-- HEALTH_LOST holds (1 bit; R380) -/
  healthLost : Bool := false
  /-- HEALTH_TX: last report sent (64 bytes; R413, R414) -/
  healthTx : List Byte := []
  /-- HEALTH_RX: last report received (64 bytes; R413, R414) -/
  healthRx : List Byte := []
  /-- CYCLE of the last report received (64 bits; R380) -/
  healthCycle : Option Nat := none
  /-- instant of that report (CORE cycles; R380) -/
  healthAt : Nat := 0
  /-- HEALTH_OK (1 bit; R414) -/
  healthOk : Bool := false
  /-- CYCLE of the unit's own report: last cycle applied or committed (64 bits; R413, R414) -/
  reportCycle : Nat := 0
  /-- TICK_OFFSET with its fraction (U; R383, R414) -/
  tickOffset : Int := 0
  /-- TIME_ERROR (2^-16 ns; R409, R414) -/
  timeError : Int := 0
  /-- measured one-way pair-link delay d_pl (2^-16 ns; R392) -/
  dpl : Int := 0
  /-- ALIGN_DELAY (16 bits; R383, R414) -/
  alignDelay : Nat := 0
  /-- ALIGNED (1 bit; R383, R414) -/
  aligned : Bool := false
  /-- an alignment is in progress (1 bit; R383) -/
  aligning : Bool := false
  /-- alignment attempts made (0 to 3; R383) -/
  alignTries : Nat := 0
  /-- attachments (256 ports; R385) -/
  ports : Tbl PairPort := []
  /-- duplicate table by source ID (DUP_SOURCES entries, 0 at reset) (at most 16,384; R393) -/
  dup : Tbl DupEntry := []
  /-- DUP_FULL_PASS (32 bits, saturating; R394, R414) -/
  dupFullPass : Nat := 0
  /-- last DUP_TABLE_FULL event (CORE cycles; R394) -/
  dupFullAt : Option Nat := none
  /-- DIGEST_FAULTS (32 bits, saturating; R404, R414) -/
  digestFaults : Nat := 0
  /-- FROG_COUNT (32 bits, saturating; R398, R414) -/
  frogCount : Nat := 0
  /-- consecutive froggings (0 to 3; R398) -/
  frogRun : Nat := 0
  /-- MB_COMMIT_IDX, valid (MB_COMMIT_VALID) where listed (7 of 8 bits; R414) -/
  commitIdx : Tbl Nat := []
  /-- number n of the current cycle (64 bits; R396) -/
  cycleNo : Nat := 0
  /-- journal of the current cycle, in completion order (at most 1 MiB; R396) -/
  journal : List Instr := []
  /-- journal sent and not yet applied (at most 1 MiB; R396) -/
  sentJournal : List Instr := []
  /-- its cycle number (64 bits; R396) -/
  sentCycle : Option Nat := none
  /-- apply boundary A_n of the sent or confirmed journal (TICK; R396) -/
  applyAt : Option Nat := none
  /-- a marker has come since the last cycle end (1 bit; R398) -/
  markerSeen : Bool := false
  /-- a CONFIRM was sent (active) or received in time (standby) (1 bit; R396) -/
  confirmed : Bool := false
  /-- commands that wait for their journal (list; R396, R399) -/
  waits : List JournalWait := []
  /-- committed lifeline buffer of the standby (at most 1 MiB; R396) -/
  committed : List RawCmd := []
  /-- last committed cycle number (64 bits; R396, R398) -/
  committedNo : Option Nat := none
  /-- the committed buffer has been applied (1 bit; R396, R407) -/
  applied : Bool := true
  /-- commit markers that wait for the Keeper: cycle, apply boundary, CRC right, journal (list; R29) -/
  heldMarkers : List (Nat × Nat × Bool × List RawCmd) := []
  /-- instant of the last commit (MIRRORED) (CORE cycles; R414) -/
  lastCommit : Nat := 0
  /-- instant of the last apply boundary or overlay switch (CORE cycles; R405) -/
  lastApply : Nat := 0
  /-- a role exchange waits for its apply boundary (1 bit; R406) -/
  switchover : Bool := false
  /-- mirrored settings held on the standby until its local state allows, in order (commands; R397) -/
  held : List Instr := []
  /-- counts of PAIR_GET_STATUS in its order: cross-fed, relayed, XFEED_DROP, NOT_LOCAL, DUP, DUP_WINDOW, PATH_MISMATCH, SYNC_DISCARD, SOURCE_FOREIGN, STANDBY_UNREALISED, 5 verdicts (15 counts, 64 bits; R415) -/
  counts : Tbl Nat := []
  /-- their values at the last CLEAR (15 counts; R415) -/
  base : Tbl Nat := []
  /-- fill of the XG class at xbAt (1/276 cell; R378) -/
  xgFill : Nat := 0
  /-- fill of the XB queue at xbAt (1/276 cell, to 65,536 cells; R378) -/
  xbFill : Nat := 0
  /-- instant of those fills (CORE cycles; R378) -/
  xbAt : Nat := 0
  /-- last XFEED_DROP event (CORE cycles; R416) -/
  xfeedAt : Option Nat := none
  /-- copies sent on the pair link: the device's output, newest first (list; R390, R391) -/
  xlink : List XlinkFrame := []
  /-- CONTROL frames sent: the device's output, newest first (list; R378) -/
  control : List PairMsg := []
  /-- consecutive failures of each self-test (8 tests; R412) -/
  selfFail : Tbl Nat := []
  /-- critical failure flag (1 bit; R412, R413) -/
  critical : Bool := false
  /-- end of the PAIR_TEST in progress (CORE cycles; R410) -/
  testEnd : Option Nat := none
  /-- commands completed with ST_PAIR_UNMIRRORED since the units separated, per mailbox (7 counts; R400) -/
  unmirrored : Tbl Nat := []
  /-- DIGEST_FAULTS in this cycle (32 bits; R413) -/
  cycleFaults : Nat := 0
  /-- UNRESOLVED in this cycle (32 bits; R413) -/
  cycleUnresolved : Nat := 0
deriving DecidableEq, Repr, Inhabited

/-- A copy that a frame's lookup asks for (R300, R309, R371). -/
structure CopyPlan where
  /-- egress port (8 bits; R300) -/
  port : Nat := 0
  /-- kind of the class on it when the window closed (0 guaranteed, 1 deep, 2 plain; R356) -/
  kind : Nat := 2
  /-- its contract when the window closed (record; R371) -/
  contract : Option Contract := none
  /-- its rewrite (record; R309) -/
  rewrite : Rewrite := {}
deriving DecidableEq, Repr, Inhabited

/-- What the lookup of a frame came to when its window closed (R296, R300, R312). -/
structure Plan where
  /-- slow-path reason (6 bits; R282) -/
  slow : Option Nat := none
  /-- a copy goes to the slow path with reason ACL_COPY (1 bit; R291) -/
  aclCopy : Bool := false
  /-- the copies to be judged (copies; R300) -/
  copies : List CopyPlan := []
  /-- the copies are members of a multicast group (1 bit; R310) -/
  replicated : Bool := false
  /-- AON (1 bit; R308) -/
  aon : Bool := false
  /-- MGID of a replicated frame (16 bits; R321) -/
  group : Nat := 0
  /-- egress port mask after expansion and pruning (256 bits; R402) -/
  mask : BitVec 256 := 0
  /-- the lookup read a LOST location (TABLE_ECC) (1 bit; R403) -/
  fault : Bool := false
deriving DecidableEq, Repr, Inhabited

/-- A frame between its parse window and its last copy (R273 to R299, R323). -/
structure Frame where
  /-- ingress port (8 bits; R273) -/
  port : Nat := 0
  /-- bytes so far: the window, the whole frame once ended (bytes as received; R273) -/
  bytes : List Byte := []
  /-- the frame had ended when its window closed (1 bit; R339) -/
  ended : Bool := false
  /-- length through the FCS, 0 while unknown (bytes; R323) -/
  len : Nat := 0
  /-- the frame has ended (1 bit; R358) -/
  done : Bool := false
  /-- it ended with an error (1 bit; R358) -/
  bad : Bool := false
  /-- RX stamp TICK (TICK; R200) -/
  rxTick : Nat := 0
  /-- RX stamp SUB (U; R200) -/
  rxSub : Nat := 0
  /-- STALE (1 bit; R202) -/
  stale : Bool := false
  /-- COAST (1 bit; R202) -/
  coast : Bool := false
  /-- close of the parse window (TICK; R281) -/
  closeAt : Nat := 0
  /-- the admission decision has been made (1 bit; R281) -/
  decided : Bool := false
  /-- parse result and key (record; R274) -/
  parsed : Parsed := {}
  /-- 0 none, 1 PARSE_DEPTH, 2 HDR_MALFORMED, 3 LEN_CONFLICT (2 bits; R276) -/
  exc : Nat := 0
  /-- matching ACL entry (15 bits; R289) -/
  aclHit : Option Nat := none
  /-- forwarding result (32 bits; R302) -/
  result : BitVec 32 := 0
  /-- class (3 bits; R292) -/
  tc : Nat := 0
  /-- injected through the CPU port (1 bit; R485) -/
  cpu : Bool := false
  /-- TX stamp request (queue and ID; R205) -/
  tsq : Option (Nat × Nat) := none
  /-- received from the pair link (1 bit; R391) -/
  xfeed : Bool := false
  /-- KTIME of the RX stamp that a cross-fed frame carries (2^-16 ns; R222) -/
  rxK : Option Int := none
  /-- the frame waits for the slow path until its end (1 bit; R283) -/
  slow : Bool := false
  /-- reasons under which it was admitted to the slow path, until its end (reasons; R283) -/
  slowWait : List Nat := []
  /-- cells of the reserve it holds (cells; R283) -/
  slowCells : Nat := 0
  /-- its lookup (record; R296, R300) -/
  plan : Plan := {}
  /-- trigger that has fired by the window close (0 ACL, 1 SAMPLE; R349) -/
  capTrig : Option Nat := none
  /-- maximum frame length of its ingress port when it arrived (bytes; R339) -/
  maxFrame : Nat := 9216
  /-- its copies without an outcome (copies; R206, R403) -/
  left : Nat := 0
  /-- its guaranteed copies admitted, until the frame ends (port, class and charge; R358, R360) -/
  guar : List (Nat × Nat × Nat) := []
  /-- worst outcome so far (0 delivered, 1 benign, 2 fault; R403) -/
  worst : Nat := 0
  /-- the digest block it is folded into (source and block; R402) -/
  digest : Option (Nat × Nat) := none
  /-- source ID and SEQ given to a frame of a SINGLE port (source ID and SEQ; R391) -/
  tagSrc : Option (Nat × Nat) := none
  /-- received relayed from the pair link (1 bit; R390) -/
  relay : Bool := false
  /-- its copies for the pair link, sent whole when it ends (copies; R390, R391) -/
  xout : List XlinkFrame := []
  /-- a capture record has been made for it (1 bit; R349) -/
  captured : Bool := false
deriving DecidableEq, Repr, Inhabited

/-- One admitted copy of a frame (R323, R358, R371). -/
structure Copy where
  /-- its frame (frame number; R323) -/
  frame : Nat := 0
  /-- ingress tile (6 bits; R324) -/
  inTile : Nat := 0
  /-- egress port (8 bits; R324) -/
  port : Nat := 0
  /-- class (3 bits; R324) -/
  tc : Nat := 0
  /-- kind it was admitted under (0 guaranteed, 1 deep, 2 plain; R356) -/
  kind : Nat := 2
  /-- cells charged (cells; R339, R360) -/
  charge : Nat := 0
  /-- cells of the copy, once the frame has ended (cells; R323) -/
  cells : Nat := 0
  /-- cells that have arrived completely (cells; R325) -/
  arrived : Nat := 0
  /-- cells that have crossed (cells; R329) -/
  crossed : Nat := 0
  /-- cells in the skein (cells; R340) -/
  inSkein : Nat := 0
  /-- its cells ahead of those in the skein (cells; R340) -/
  head : Nat := 0
  /-- TICK of its admission decision (TICK; R333) -/
  admitted : Nat := 0
  /-- TICK at which its last cell was matched, or its first under cut-through (TICK; R333) -/
  crossAt : Nat := 0
  /-- deadline D (TICK and SUB; R359) -/
  deadline : Option (Nat × Nat) := none
  /-- cut through (1 bit; R334) -/
  cut : Bool := false
  /-- in transmission (1 bit; R332) -/
  sending : Bool := false
  /-- TX stamp TICK (TICK; R201) -/
  txTick : Nat := 0
  /-- TX stamp SUB (U; R201) -/
  txSub : Nat := 0
  /-- its egress rewrite (record; R309) -/
  rewrite : Rewrite := {}
  /-- the copy is to end stomped, with this cause (cause; R336) -/
  stomp : Option Nat := none
  /-- order in which its first cell reached the egress (count; R332) -/
  atEgress : Nat := 0
deriving DecidableEq, Repr, Inhabited

/-- Configuration and counts of one queue, port and class (R332, R338). -/
structure QCfg where
  /-- QL; none is the default of the queue's kind (cells; R338) -/
  ql : Option Nat := none
  /-- weight (1 to 127; R332) -/
  weight : Nat := 16
  /-- deficit counter of the egress round-robin (bytes; R332) -/
  deficit : Int := 0
  /-- peak cells (cells; R354) -/
  peak : Nat := 0
  /-- last TAIL_DROP of the queue (CORE cycles; R355) -/
  tailAt : Option Nat := none
  /-- stomps by cause (6 counts, 64 bits; R354) -/
  stomps : List Nat := [0, 0, 0, 0, 0, 0]
  /-- their values at the last CLEAR (6 counts; R354) -/
  stompBase : List Nat := [0, 0, 0, 0, 0, 0]
deriving DecidableEq, Repr, Inhabited

/-- Buffer settings of one class (R338, R340). -/
structure ClassCfg where
  /-- CL (0 to 524,288; R338) -/
  cl : Nat := 524288
  /-- SPILL_ON (16 to 65,536; R340) -/
  spillOn : Nat := 256
  /-- RETURN_LOW (16 to 65,536; R340) -/
  returnLow : Nat := 64
  /-- spill enabled (1 bit; R342) -/
  spill : Bool := false
deriving DecidableEq, Repr, Inhabited

/-- Egress settings of one port (R330, R334). -/
structure EgCfg where
  /-- EG_LIMIT_B (16 to 16,384; R330) -/
  limitB : Nat := 512
  /-- CUT_THROUGH (1 bit; R334) -/
  cut : Bool := true
  /-- class at which the deep and plain round-robin stands (class; R332) -/
  rr : Nat := 0
  /-- copy in transmission (copy number; R332) -/
  sending : Option Nat := none
  /-- earliest TX stamp of the next copy: the last one's, its bytes, the gap of 12 bytes and the 8 of preamble and SFD (U; R35, R72) -/
  freeAt : Nat := 0
  /-- earliest next start of a deep or plain copy under throttle (CORE cycles; R538) -/
  pace : Nat := 0
deriving DecidableEq, Repr, Inhabited

/-- One capture trigger (R349). -/
structure CapTrig where
  /-- enable (1 bit; R349, R354) -/
  enable : Bool := false
  /-- snap length (0, 64, 128, 192, 256; R349) -/
  snap : Nat := 0
  /-- SAMPLE port (8 bits; R349) -/
  port : Nat := 0
  /-- SAMPLE k (0 to 24; R349) -/
  k : Nat := 0
  /-- port mask (256 bits; R349) -/
  mask : BitVec 256 := 0
  /-- frames of the SAMPLE port counted (frames; R349) -/
  count : Nat := 0
deriving DecidableEq, Repr, Inhabited

/-- One capture record: header and snap (R350). -/
structure CapRec where
  /-- KIND (4 bits; R350) -/
  kind : Nat := 0
  /-- TRIGGER (4 bits; R350) -/
  trigger : Nat := 0
  /-- UNITS (1 to 9; R350) -/
  units : Nat := 1
  /-- SEQ (8 bits; R350) -/
  seq : Nat := 0
  /-- W1 (32 bits; R350) -/
  w1 : BitVec 32 := 0
  /-- W2 (32 bits; R350) -/
  w2 : BitVec 32 := 0
  /-- VALUE (64 bits; R350) -/
  value : Nat := 0
  /-- W5 (32 bits; R350) -/
  w5 : BitVec 32 := 0
  /-- W6 (32 bits; R350) -/
  w6 : BitVec 32 := 0
  /-- snap (0 to 256 bytes; R350) -/
  snap : List Byte := []
  /-- instant at which it was written (CORE cycles; R351) -/
  written : Nat := 0
deriving DecidableEq, Repr, Inhabited

/-- The capture engine and ring (R349 to R352). -/
structure Capture where
  /-- triggers (5 triggers; R349) -/
  trigs : Tbl CapTrig := []
  /-- ENABLE (1 bit; R351) -/
  enable : Bool := false
  /-- WR_COUNT (32 bits; R351) -/
  wr : BitVec 32 := 0
  /-- RD_COUNT (32 bits; R351) -/
  rd : BitVec 32 := 0
  /-- THRESH (19 bits; R351) -/
  thresh : Nat := 0
  /-- LOST_SEEN (1 bit; R351) -/
  lostSeen : Bool := false
  /-- THRESH_HIT (1 bit; R351) -/
  threshHit : Bool := false
  /-- CAP_LOST (32 bits, saturating; R351) -/
  lost : Nat := 0
  /-- IDLE_TIMEOUT (16 bits, us; R351) -/
  idleTimeout : Nat := 0
  /-- records by the unit they start at (262,144 units; R350) -/
  recs : Tbl CapRec := []
  /-- records written (8 bits; R350) -/
  seq : Nat := 0
  /-- records lost and not yet reported (count; R352) -/
  lostRun : Nat := 0
  /-- TICK of the first of them (TICK; R352) -/
  lostTick : Nat := 0
  /-- markers (and losses before each) that wait for room (list; R352, R466) -/
  wait : List RingWait := []
  /-- a loss period is open (1 bit; R355) -/
  lossPeriod : Bool := false
  /-- oldest unread record for which CAP_TIMEOUT was raised (unit number; R355) -/
  timeoutSeen : Option Nat := none
  /-- records held behind a marker, with the TICK of their causes (list; R352) -/
  held : List (Nat × CapRec) := []
  /-- instant to which the engine is taken by the records written (half CORE cycles; R352) -/
  engineAt : Nat := 0
deriving DecidableEq, Repr, Inhabited

/-- The switch core (R322 to R355). -/
structure Core where
  /-- frames in the device, by frame number (frames; R323) -/
  frames : Tbl Frame := []
  /-- copies in the device, by copy number (copies; R323) -/
  copies : Tbl Copy := []
  /-- next frame number (count; R323) -/
  nextFrame : Nat := 0
  /-- next copy number (count; R323) -/
  nextCopy : Nat := 0
  /-- copies of each VOQ in order, by (256 x tile + port) x 8 + class (131,072 VOQs; R324) -/
  voqs : Tbl (List Nat) := []
  /-- copies of each egress queue in order, by 8 x port + class (2,048 queues; R332) -/
  egress : Tbl (List Nat) := []
  /-- queue settings and counts (2,048 queues; R338) -/
  queues : Tbl QCfg := []
  /-- class settings (8 classes; R338) -/
  classes : Tbl ClassCfg := []
  /-- egress port settings (256 ports; R330) -/
  ports : Tbl EgCfg := []
  /-- round-robin pointers of the inputs, by 3 x input + level (192 pointers; R326) -/
  inPtr : Tbl Nat := []
  /-- round-robin pointers of the outputs, by 3 x output + level (192 pointers; R326) -/
  outPtr : Tbl Nat := []
  /-- round-robin over egress ports, by (64 x input + output tile) x 3 + level (pointers; R327) -/
  voqPtr : Tbl Nat := []
  /-- deficit counters of the inputs for bulk classes, by VOQ (deficits; R327) -/
  voqDef : Tbl Int := []
  /-- class at which the bulk round-robin of an input and port stands, by 256 x input + port (class pointers; R327) -/
  bulkRr : Tbl Nat := []
  /-- round-robin of the spill engine (VOQ; R341) -/
  spillPtr : Nat := 0
  /-- round-robin of the return engine (VOQ; R341) -/
  returnPtr : Nat := 0
  /-- GP_SIZE as set, which a standby reaches as cells become free (0 to 262,144; R375, R397) -/
  gpWanted : Nat := 65536
  /-- GP_SIZE (0 to 262,144; R375) -/
  gpSize : Nat := 65536
  /-- RETIRED_CELLS (64 bits; R348) -/
  retired : Nat := 0
  /-- locations that failed and when (list; R348) -/
  cellErr : List (Nat × Nat) := []
  /-- skein state (3 states; R343) -/
  skein : SkeinState := .off
  /-- correctable errors of cells, descriptors and queue links (64 bits; R348) -/
  corrected : Nat := 0
  /-- instant from which the spill engine is free (25ths of a CORE cycle; R341) -/
  spillNext : Nat := 0
  /-- instant from which the return engine is free (25ths of a CORE cycle; R341) -/
  returnNext : Nat := 0
  /-- retired skein locations (64 bits; R343) -/
  skRetired : Nat := 0
  /-- cells spilled since PD5 power-on (cells; R354) -/
  skSpilled : Nat := 0
  /-- cells returned since PD5 power-on (cells; R354) -/
  skReturned : Nat := 0
  /-- corrected errors (64 bits; R354) -/
  skCorrected : Nat := 0
  /-- uncorrectable errors (64 bits; R354) -/
  skUncorr : Nat := 0
  /-- values of the skein counts at the last CLEAR (4 counts; R354) -/
  skBase : List Nat := [0, 0, 0, 0]
  /-- instant of that CLEAR (CORE cycles; R354) -/
  skBaseAt : Nat := 0
  /-- deep classes, by 4 x port + class (plain at reset) (1,024 classes; R356) -/
  kinds : Tbl Bool := []
  /-- the capture engine (record; R349) -/
  capture : Capture := {}
  /-- copies sent: the device's output, newest first (list; R332) -/
  sent : List TxRec := []
  /-- order of arrival at the egress (count; R332) -/
  nextEgress : Nat := 0
deriving DecidableEq, Repr, Inhabited

/-- One 32-byte chain instruction as fetched (R491). -/
structure ChainInstr where
  /-- OP (8 bits; R491) -/
  op : Nat := 0
  /-- byte 1 (8 bits; R491) -/
  b1 : Nat := 0
  /-- byte 2 (8 bits; R491) -/
  b2 : Nat := 0
  /-- byte 3 (8 bits; R491) -/
  b3 : Nat := 0
  /-- bytes 4 to 7 (32 bits; R491) -/
  w4 : Nat := 0
  /-- bytes 8 to 15 (64 bits; R491) -/
  q8 : Nat := 0
  /-- bytes 16 to 23 (64 bits; R491) -/
  q16 : Nat := 0
  /-- bytes 24 to 31 (64 bits; R491) -/
  q24 : Nat := 0
deriving DecidableEq, Repr, Inhabited

/-- A completion record that waits for room (R503). -/
structure CqRec where
  /-- KIND (8 bits; R503) -/
  kind : Nat := 0
  /-- FLAGS without PHASE (3 bits; R503) -/
  flags : Nat := 0
  /-- CAUSE (8 bits; R503) -/
  cause : Nat := 0
  /-- VALUE32 (32 bits; R503) -/
  value32 : Nat := 0
  /-- VALUE64 (64 bits; R503) -/
  value64 : Nat := 0
deriving DecidableEq, Repr, Inhabited

/-- The gate a WAIT with GATE sets on the next MOVE (R495). -/
structure Gate where
  /-- kind (STREAM, SOFT, TICK; R495) -/
  kind : Nat := 0
  /-- stream number (5 bits; R495) -/
  stream : Nat := 0
  /-- LEVEL (32 bits; R495) -/
  level : Nat := 0
  /-- TICK value (64 bits; R495) -/
  tick : Nat := 0
  /-- timeout, 0 for none (us; R495) -/
  timeout : Nat := 0
deriving DecidableEq, Repr, Inhabited

/-- One DMA channel, DC0-DC31 (R490 to R505). -/
structure Chan where
  /-- STATE (3 bits; R498, R505) -/
  state : DmaState := .idle
  /-- OUTCOME: 0 NONE, 1 COMPLETE, 2 ABORTED, 3 HALTED (2 bits; R498, R505) -/
  outcome : Nat := 0
  /-- CAUSE (4 bits; R501, R505) -/
  cause : Nat := 0
  /-- STALL_SEEN (1 bit; R505) -/
  stallSeen : Bool := false
  /-- SOFT_REQ (1 bit; R495, R505) -/
  softReq : Bool := false
  /-- CHAIN_ADDR (64 bits; R505) -/
  chainAddr : BitVec 64 := 0
  /-- PRIORITY (2 bits; R505) -/
  priority : Nat := 0
  /-- BURST (2 bits; R505) -/
  burst : Nat := 2
  /-- BUDGET (32 bits; R505) -/
  budget : Nat := 16777216
  /-- WATCHDOG (20 bits, ms; R505) -/
  watchdog : Nat := 10000
  /-- POS_ADDR (64 bits; R505) -/
  posAddr : BitVec 64 := 0
  /-- POS_BYTES (32 bits; R505) -/
  posBytes : Nat := 0
  /-- RETIRED (32 bits, saturating; R505) -/
  retired : Nat := 0
  /-- CQ_BASE (64 bits; R505) -/
  cqBase : BitVec 64 := 0
  /-- CQ_SIZE (4 bits; R505) -/
  cqSize : Nat := 0
  /-- CQ_WR_COUNT (32 bits; R505) -/
  cqWr : BitVec 32 := 0
  /-- CQ_RD_COUNT (32 bits; R505) -/
  cqRd : BitVec 32 := 0
  /-- CQ_THRESH (13 bits; R505) -/
  cqThresh : Nat := 0
  /-- CQ_DROPPED (32 bits, saturating; R505) -/
  cqDropped : Nat := 0
  /-- address of the instruction in progress (64 bits; R490) -/
  pc : BitVec 64 := 0
  /-- loop counters, none while idle (4 counters; R494) -/
  loops : List (Option Nat) := [none, none, none, none]
  /-- the MOVE in progress (instruction; R493) -/
  move : Option ChainInstr := none
  /-- bytes of it whose writes have been issued (bytes; R493, R499) -/
  moveDone : Nat := 0
  /-- bytes of it that read bursts have brought (bytes; R493) -/
  moveRead : Nat := 0
  /-- bytes read and not yet written (bytes; R493) -/
  funnel : List Byte := []
  /-- the WAIT that holds the channel (instruction; R495) -/
  wait : Option ChainInstr := none
  /-- gate on the next MOVE (record; R495) -/
  gate : Option Gate := none
  /-- end of the running WAIT timeout (CORE cycles; R495) -/
  deadline : Option Nat := none
  /-- instructions retired since START, for BUDGET (count; R500) -/
  budgetUsed : Nat := 0
  /-- instant of START (CORE cycles; R500) -/
  startAt : Nat := 0
  /-- records that wait for room, oldest first (list; R498, R504) -/
  held : List CqRec := []
  /-- state entered when the ABORTED or HALTED record is written (state; R498) -/
  after : Option DmaState := none
  /-- streams the channel owns (stream numbers; R492) -/
  streams : List Nat := []
  /-- markers that follow the SIGNAL or END in progress (fence epochs; R504) -/
  marks : List Nat := []
deriving DecidableEq, Repr, Inhabited

/-- One injection queue, CTX0-CTX3 (R483 to R485). -/
structure CtxQ where
  /-- bytes held (CTX_FREE is 262,144 at reset) (262,144 bytes; R483, R489) -/
  bytes : List Byte := []
  /-- CTX_FAULT (1 bit; R484, R489) -/
  fault : Bool := false
deriving DecidableEq, Repr, Inhabited

/-- One receive queue, CRX0-CRX3 (R488). -/
structure CrxQ where
  /-- bytes held (524,288 bytes; R488, R489) -/
  bytes : List Byte := []
  /-- last CRX_FULL event (CORE cycles; R507) -/
  fullAt : Option Nat := none
  /-- the queue lacks room and CRX_FULL has been judged (1 bit; R507) -/
  lacked : Bool := false
deriving DecidableEq, Repr, Inhabited

/-- PCIe endpoint, CPU port and DMA chains (R479 to R507). -/
structure HostIf where
  /-- the PCIe link is up (1 bit; R481) -/
  linkUp : Bool := true
  /-- PF0 Bus Master Enable (the PCIe reset value) (1 bit; R482) -/
  bme : Bool := false
  /-- instant at which Bus Master Enable was last cleared (CORE cycles; R482) -/
  bmeOffAt : Nat := 0
  /-- max payload size (the PCIe reset value) (bytes; R479) -/
  mps : Nat := 128
  /-- max read request size (the PCIe reset value) (bytes; R479) -/
  mrrs : Nat := 512
  /-- PF0 is in D3hot (1 bit; R479) -/
  pmD3 : Bool := false
  /-- injection queues (4 queues; R483) -/
  ctx : Tbl CtxQ := []
  /-- receive queues (4 queues; R488) -/
  crx : Tbl CrxQ := []
  /-- CRX_MAP (32 bits; R489) -/
  crxMap : BitVec 32 := 0
  /-- CTX_BAD (32 bits, saturating; R489) -/
  ctxBad : Nat := 0
  /-- DMA channels (32 channels; R490) -/
  chans : Tbl Chan := []
  /-- round-robin of the arbiter, by PRIORITY (4 pointers; R497) -/
  rr : Tbl Nat := []
  /-- what the last host read returned, byte by byte, none for a byte it did not enable: the device's output (bytes in their lanes; R25) -/
  readData : List (Option Byte) := []
  /-- function-level resets and hot resets taken (count; R481) -/
  flushed : Nat := 0
deriving DecidableEq, Repr, Inhabited

/-- What the last mailbox command that completed reported (R448, R449): it is recorded for every source, a ring or not. -/
structure CmdOut where
  /-- OPCODE -/
  opcode : Nat := 0
  /-- STATUS -/
  status : Nat := 0
  /-- DETAIL -/
  detail : Nat := 0
  /-- RFLAGS bit 0 -/
  mirrored : Bool := false
  /-- RESULT and its extension, from byte 16 on -/
  result : List Byte := []
  /-- its source -/
  src : CmdSrc := .direct
  /-- commands completed: the model's own count -/
  count : Nat := 0
deriving DecidableEq, Repr, Inhabited

/-- The whole state. -/
structure State where
  /-- time of the model in CORE cycles since reset; the model's own clock, which runs while TICK does not -/
  now : Nat := 0
  /-- the model's own counter: which free value is taken next -/
  free : Nat := 0
  /-- the commands that wait, first in, first out -/
  pending : List Instr := []
  /-- the last command completed -/
  cmd : CmdOut := {}
  /-- bytes the device has written to host memory: responses, completion records, DMA data (R442, R503, R493) -/
  hostMem : List Host.Cell := []
  /-- fuses and straps -/
  fuses : Fuses := {}
  /-- identity, clocks and domains -/
  glob : Glob := {}
  /-- the active channel table (R37, R39) -/
  chan : Option ChanTable := none
  /-- the lanes, L0-L255, and PL0-PL7 as 256-263 (R44) -/
  lanes : Tbl Lane := []
  /-- the ports (R32) -/
  ports : Tbl Port := []
  /-- the CMIS modules of the module map (R55, R61) -/
  modules : Tbl Module := []
  /-- the selvedge ports (R63 to R94) -/
  selv : Tbl Selv := []
  /-- the TDC bank -/
  tdc : Tdc := {}
  /-- the gauge -/
  gauge : Gauge := {}
  /-- references and the DPLL -/
  ref : Ref := {}
  /-- the timescale -/
  time : Time := {}
  /-- PTP, asymmetry and the servo -/
  ptp : Ptp := {}
  /-- stitches and the machine clock -/
  stitch : Stitch := {}
  /-- parser, ACL, classes, steering, slow path -/
  parse : Parse := {}
  /-- forwarding tables -/
  fwd : Fwd := {}
  /-- the switch core -/
  core : Core := {}
  /-- the contracts -/
  contracts : Contracts := {}
  /-- the pair -/
  pair : Pair := {}
  /-- cores, Keeper, images and sessions -/
  fw : Fw := {}
  /-- the mailboxes MB0-MB7 (R443) -/
  mbs : Tbl Mailbox := []
  /-- fences and recovery -/
  fence : Fence := {}
  /-- the event controller -/
  events : Events := {}
  /-- the BAR2 statistics -/
  stats : Stats := {}
  /-- power, boot and thermal -/
  power : Power := {}
  /-- PCIe, CPU port and DMA -/
  host : HostIf := {}
deriving DecidableEq, Repr, Inhabited

/-- Why a step stops with a fault. -/
inductive Fault where
  /-- Raised by a hardware step that names an object the device does not have (lane 999, mailbox 9): no such step can
  happen on the device. Safe: the model stops where the device has no behaviour. -/
  | noSuchObject
  /-- Raised by a hardware step whose operands contradict one another (a frame of 300 bytes that ended within its window of 256): no
  such step can happen on the device. Safe: the model stops where the device has no behaviour. -/
  | impossibleInput
deriving DecidableEq, Repr

/-- Why a step is refused. -/
inductive Refusal where
  /-- Raised by an arm of `exec` whose command has no meaning yet. Safe: nothing is claimed about it. -/
  | notModelled (mnemonic : String)
deriving DecidableEq, Repr

/-- The machine right after power-on reset: every field at its default, which is the value the spec gives for reset, or
the value the assumption log names. -/
def State.reset : State := {}

end Sys2Proof.Machine
end

