-- ==== Sys2Proof/Machine/Flags.lean ====
section
/-!
DEFINITION. Status values of commands, and the flags that are computed from other state rather than held.
-/
namespace Sys2Proof.Machine

/-- ST_OK (R449) -/
def stOk : Nat := 0x0000
/-- ST_BUSY (R449) -/
def stBusy : Nat := 0x0001
/-- ST_RANGE (R449) -/
def stRange : Nat := 0x0002
/-- ST_UNKNOWN_OP (R449) -/
def stUnknownOp : Nat := 0x0003
/-- ST_NOT_PERMITTED (R449) -/
def stNotPermitted : Nat := 0x0004
/-- ST_BAD_STATE (R449) -/
def stBadState : Nat := 0x0005
/-- ST_TABLE_FULL (R449) -/
def stTableFull : Nat := 0x0006
/-- ST_STEP_REFUSED (R449) -/
def stStepRefused : Nat := 0x0007
/-- ST_CONTRACT_INFEASIBLE (R449) -/
def stInfeasible : Nat := 0x0008
/-- ST_TIMEOUT (R449) -/
def stTimeout : Nat := 0x0009
/-- ST_CRC (R449) -/
def stCrc : Nat := 0x000A
/-- ST_ABORTED (R449) -/
def stAborted : Nat := 0x000B
/-- ST_ABORTED_RECOVERY (R449) -/
def stAbortedRecovery : Nat := 0x000C
/-- ST_PAIR_UNMIRRORED (R449) -/
def stUnmirrored : Nat := 0x000D

/-- The code of a mailbox state in STATE (R443). -/
def MbState.code : MbState → Nat
  | .disabled => 0 | .running => 1 | .fault => 2 | .draining => 3

/-- The code of a pair role in ROLE (R414). -/
def Role.code : Role → Nat
  | .alone => 0 | .joining => 1 | .syncing => 2 | .standby => 3 | .active => 4 | .detached => 5 | .mismatch => 6

/-- The role a code names (R414). -/
def Role.ofCode : Nat → Role
  | 1 => .joining | 2 => .syncing | 3 => .standby | 4 => .active | 5 => .detached | 6 => .mismatch | _ => .alone

/-- The code of a DMA channel state in STATE (R505). -/
def DmaState.code : DmaState → Nat
  | .idle => 0 | .running => 1 | .waiting => 2 | .stalled => 3 | .halted => 4

/-- The code of a gauge region's state (R145). -/
def GState.code : GState → Nat
  | .off => 0 | .full => 1 | .idle => 2 | .pending => 3 | .running => 4

/-- ORDER_CODE (R27). -/
def OrderCode.code : OrderCode → Nat
  | .hc => 1 | .hx => 2 | .lc => 3

/-- SKEIN_PRESENT: the skein exists on HC and HX (R27). -/
def OrderCode.skein : OrderCode → Bool
  | .lc => false | _ => true

/-- DPLL_MODE (R27, R162). -/
def DState.mode : DState → Nat
  | .freerun => 0 | .acquire => 1 | .locked => 1 | .switching => 1 | .holdover => 2 | .steered => 3

/-- The code of a boot stage (R533). -/
def Stage.code : Stage → Nat
  | .por => 0 | .xo => 1 | .flash => 2 | .pd1 => 3 | .pd2 => 4 | .config => 5 | .ready => 6 | .recovery => 7 | .thermtrip => 8

/-- The code of a thermal state. -/
def Therm.code : Therm → Nat
  | .normal => 0 | .warn => 1 | .throttle => 2 | .over => 3

/-- Whether power domain `n` is on (R18). -/
def State.pdOn (s : State) (n : Nat) : Bool := s.glob.pdOn.getLsbD n

/-- The fill of the event log (R518). -/
def Events.fill (e : Events) : Nat := dist32 e.logRd e.logWr

/-- LOG_FULL (R517). -/
def Events.logFull (e : Events) : Bool := decide (1024 ≤ e.fill)

/-- INT_N is asserted low while INT_N_ENABLE is 1 and any source has PENDING 1, MASK 0 and ROUTE.INT_N 1 (R514). -/
def Events.intN (e : Events) : Bool :=
  e.intNEnable && e.routes.any fun p => p.2.intN && e.pending.getLsbD p.1 && !e.mask.getLsbD p.1

end Sys2Proof.Machine
end

