-- ==== Sys2Proof/Machine/Ops.lean ====
section
/-!
DEFINITION. The shared operations on the state: time, packed results, host memory, statistics and events.
-/
namespace Sys2Proof.Machine

/-! ## Time -/

/-- TICK (R179): CORE cycles since PD1 power-on completed, 0 while it does not run. -/
def State.tick (s : State) : Nat := if s.time.tickOn then s.now - s.time.tick0 else 0

/-- The next free value: the model's counter, which every use advances. -/
def State.takeFree (s : State) : Nat × State := (s.free, { s with free := s.free + 1 })

/-! ## Packed values (R447, R508) -/

/-- A value in a result or in event data: `u` unsigned of `w` bytes, `i` signed of `w` bytes, both aligned to `w`; `raw` the
bytes of a value of any other kind, with its alignment. -/
inductive Fld where
  | u (w v : Nat)
  | i (w : Nat) (v : Int)
  | raw (align : Nat) (l : List Byte)
deriving DecidableEq, Repr

/-- The alignment of a value. -/
def Fld.align : Fld → Nat
  | .u w _ => w
  | .i w _ => w
  | .raw a _ => a

/-- The bytes of a value, big-endian (R9). -/
def Fld.bytes : Fld → List Byte
  | .u w v => beBytes w v
  | .i w v => beBytes w (unsignedOf (8 * w) v)
  | .raw _ l => l

/-- The next offset at or after `off` that is a multiple of `a`. -/
def alignUp (off a : Nat) : Nat := if a = 0 then off else (off + a - 1) / a * a

/-- Values laid out from offset `off` on, each at the next multiple of its alignment (R447). -/
def packFrom (off : Nat) : List Fld → List Byte
  | [] => []
  | f :: fs =>
    let o := alignUp off f.align
    List.replicate (o - off) 0 ++ f.bytes ++ packFrom (o + f.bytes.length) fs

/-- The values that fit whole within `room` bytes from offset `off` on (R508). -/
def packWithin (off room : Nat) : List Fld → List Byte
  | [] => []
  | f :: fs =>
    let o := alignUp off f.align
    if o + f.bytes.length ≤ room then
      List.replicate (o - off) 0 ++ f.bytes ++ packWithin (o + f.bytes.length) room fs
    else []

/-- A KTIME value of `v` 2^-16 ns as a result: seconds 8 B, nanoseconds 4 B, sub-nanoseconds 2 B, 2 B of 0 (R447). -/
def Fld.ktime (v : Int) : Fld :=
  let u := v.toNat
  .raw 8 (beBytes 8 (u / secU) ++ beBytes 4 (u % secU / nsU) ++ beBytes 2 (u % nsU) ++ beBytes 2 0)

/-- A KTIME parameter in 2^-16 ns. -/
def KTime.units (k : KTime) : Nat := k.sec * secU + k.ns * nsU + k.sub

/-! ## Host memory: the bytes the device has written -/

/-- The byte the device has last written at host address `a`; `none` where it has written nothing. -/
def hostRead : List Host.Cell → Nat → Option Byte
  | [], _ => none
  | (i, b) :: l, a => if i = a then some b else hostRead l a

/-- `m` with byte `b` written at `a`, in rising order of addresses. -/
def hostWriteByte : List Host.Cell → Nat → Byte → List Host.Cell
  | [], a, b => [(a, b)]
  | (i, c) :: l, a, b =>
    if a < i then (a, b) :: (i, c) :: l
    else if a = i then (a, b) :: l
    else (i, c) :: hostWriteByte l a b

/-- `m` with bytes written from `a` on; addresses wrap at 2^64. -/
def hostWrite (m : List Host.Cell) (a : Nat) : List Byte → List Host.Cell
  | [] => m
  | b :: bs => hostWrite (hostWriteByte m (a % 2 ^ 64) b) (a + 1) bs

/-- Canonical form: addresses strictly rising. -/
def Memory.wf : List Host.Cell → Bool
  | [] => true
  | [_] => true
  | (i, _) :: (j, c) :: l => decide (i < j) && Memory.wf ((j, c) :: l)

/-! ## Races between hardware and host (R11) -/

/-- Where a register of PF0 BAR2 stands among those of both windows. -/
def bar2Key (o : Nat) : Nat := 0x4000000 + o

/-- What hardware has set and counted in the present CORE cycle. -/
def State.cycleNow (s : State) : Cycle := if s.events.cycle.at_ = s.now then s.events.cycle else { at_ := s.now }

/-- Hardware sets W1C bit `b` of the register at `o` in this cycle: a host write in the same cycle does not clear it (R11). -/
def State.hwSet (s : State) (o b : Nat) : State :=
  let c := s.cycleNow
  { s with events := { s.events with cycle := { c with set_ := (32 * o + b) :: c.set_ } } }

/-- Hardware increments the RC field at `o`, which holds `old`, in this cycle: a host read in the same cycle returns what the field held
before the cycle (R11). -/
def State.hwCount (s : State) (o old : Nat) : State :=
  let c := s.cycleNow
  { s with events := { s.events with cycle := if c.before.has o then c else { c with before := c.before.set o old } } }

/-- Whether a write of `v` to the register at `o` clears its W1C bit `b` (R10, R11). -/
def State.clears (s : State) (o v b : Nat) : Bool := v.testBit b && !s.cycleNow.set_.contains (32 * o + b)

/-! ## Statistics (R520 to R525) -/

/-- BAR2 offset of counter `o` of port `p` (R520, R521). -/
def portCtr (p o : Nat) : Nat := 0x00100000 + 0x400 * p + o
/-- BAR2 offset of counter `o` of queue `(p, c)` (R520, R522). -/
def queueCtr (p c o : Nat) : Nat := 0x00200000 + 0x800 * p + 0x100 * c + o
/-- BAR2 offset of counter `o` of contract `(p, c)` (R520, R522). -/
def contractCtr (p c o : Nat) : Nat := 0x00300000 + 0x400 * p + 0x100 * (c - 4) + o
/-- BAR2 offset of MAX_SEEN of contract `k` (R522). -/
def maxSeenCtr (k : Nat) : Nat := contractCtr (k / 4) (k % 4 + 4) 0x60
/-- BAR2 offset of counter `o` of the device block (R520, R522). -/
def deviceCtr (o : Nat) : Nat := 0x00400000 + o

/-- What the live counters have grown by in the CORE cycle `now`. -/
def Stats.grown (t : Stats) (now : Nat) : Tbl Nat := if t.grownAt = now then t.grownBy else []

/-- What the counters that have changed in the CORE cycle `now` stood at when it started. -/
def Stats.startsOf (t : Stats) (now : Nat) : Tbl Nat := if t.grownAt = now then t.startOf else []

/-- The counter at `off`, which holds `v`, is about to change in the CORE cycle `now`: what it stood at when the cycle started is kept. -/
def Stats.touch (t : Stats) (now off v : Nat) : Stats :=
  let l := t.startsOf now
  { t with grownAt := now, grownBy := t.grown now, startOf := if l.has off then l else l.set off v }

/-- The live counter at `off` grows by `n` in the CORE cycle `now`, saturating at 64 bits (R520). -/
def Stats.add (t : Stats) (now off n : Nat) : Stats :=
  let x := t.touch now off (t.live.get off)
  { x with live := t.live.upd off fun v => satAdd 64 v n, grownBy := x.grownBy.upd off (· + n) }

/-- The live counter at `off` grows by `n` now. -/
def State.count (s : State) (off n : Nat) : State := { s with stats := s.stats.add s.now off n }

/-- The live counter at `off` turns out to have grown by `n` before the present CORE cycle. -/
def State.countEarlier (s : State) (off n : Nat) : State :=
  let t := s.stats
  { s with stats := { t with
      live := t.live.upd off fun v => satAdd 64 v n
      startOf := if (t.startsOf s.now).has off then t.startOf.upd off fun v => satAdd 64 v n else t.startOf } }

/-- The counter at `off` as a GET command counts it: from its own baseline, as if BAR2 had not been cleared (R525). One that clears it returns
what it held before the present CORE cycle, an increment of which is kept for the next read (R11, R375). -/
def State.sinceBase (s : State) (clear : Bool) (off : Nat) : Nat :=
  let t := s.stats
  min (t.live.get off + t.cleared.get off - t.base.get off - if clear then (t.grown s.now).get off else 0) (2 ^ 64 - 1)

/-- The CLEAR of a GET command: the baselines of the counters at `l` become their totals of before the present CORE cycle (R11, R525). -/
def State.rebaseAll (s : State) (l : List Nat) : State :=
  let t := s.stats
  { s with
    stats := { t with base := l.foldl (fun b o => b.set o (t.live.get o + t.cleared.get o - (t.grown s.now).get o)) t.base } }

/-- By contract, the largest latency recorded in the CORE cycle `now`, and MAX_SEEN_GET of before it (R11, R375). -/
def Contracts.latest (c : Contracts) (now : Nat) : Tbl (Nat × Nat) := if c.lateAt = now then c.late else []

/-! ## Events (R508 to R519) -/

/-- Vector `v` sends its message now: it holds no raises and its timer stops. The message goes out if MSI-X Enable is 1 and
neither the function nor the vector is masked, and while Bus Master Enable lets the device write upstream (R482);
otherwise the PBA bit is set (R512, R513). -/
def State.vecSend (s : State) (v : Nat) : State :=
  let e := s.events
  let x := e.vecs.get v
  if e.msixEnable && !e.fnMask && !x.masked && s.host.bme then
    { s with events := { e with
        messages := v :: e.messages
        vecs := e.vecs.set v { x with held := 0, timer := none, sent := x.sent + 1 } } }
  else
    { s with events := { e with vecs := e.vecs.set v { x with held := 0, timer := none, pba := true } } }

/-- One raise toward vector `v`: the first held raise starts the timer, and the raise that reaches COAL_COUNT sends the
message (R512). -/
def State.vecRaise (s : State) (v : Nat) : State :=
  let x := s.events.vecs.get v
  if x.coalCount ≤ x.held + 1 then s.vecSend v
  else
    let x' := { x with held := x.held + 1, timer := if x.held = 0 then some (s.now + x.coalTime * usC) else x.timer }
    { s with events := { s.events with vecs := s.events.vecs.set v x' } }

/-- Where a record of source `src` raised at `tick` goes among the last records: before those of the same cycle with a
higher source (R519). `k` is the number of the first free place. -/
def logPlace (log : Tbl LogRec) (src tick : Nat) : Nat → Nat → Nat
  | 0, k => k
  | n + 1, k =>
    if k = 0 then 0
    else
      let r := log.get ((k - 1) % 1024)
      if r.kind = 0 && r.value = tick && src < r.source then logPlace log src tick n (k - 1) else k

/-- The records from number `k` up to `top - 1` moved one place on. -/
def logShift (log : Tbl LogRec) (k : Nat) : Nat → Tbl LogRec
  | 0 => log
  | top + 1 =>
    if top < k then log
    else logShift (log.set ((top + 1) % 1024) (log.get (top % 1024))) k top

/-- Record `r` is stored at the place of count `k` in the log that `e` holds: LOG_WR_COUNT moves on, and LOG_THRESH_HIT is set as the fill
reaches LOG_THRESH (R517, R518). -/
def State.logStore (s : State) (e : Events) (k : Nat) (r : LogRec) : State :=
  let hit := decide (e.logThresh ≠ 0 ∧ e.fill + 1 = e.logThresh)
  let s1 := { s with events := { e with
      log := e.log.set (k % 1024) r, logWr := e.logWr + 1, logThreshHit := e.logThreshHit || hit } }
  if hit then s1.hwSet 0x3001C 2 else s1

/-- A record enters the event log, or is dropped and counted when the log is full or items wait for room (R518, R519). -/
def State.logRecord (s : State) (r : LogRec) : State :=
  let e := s.events
  if e.logFull || !e.logWait.isEmpty then
    ({ s with events := { e with
        logLost := inc32 e.logLost, logLostSeen := true
        logRun := e.logRun + 1, logRunTick := if e.logRun = 0 then s.tick else e.logRunTick } } |>.hwCount 0x30020 e.logLost).hwSet 0x3001C 1
  else
    let top := e.logWr.toNat
    let fuel := min e.fill 1023
    let k := if r.kind = 0 then logPlace e.log r.source r.value fuel top else top
    s.logStore { e with log := logShift e.log k top } k r

/-- The marker of an epoch enters the event log, or waits with the losses before it (R466, R519). -/
def State.logMarker (s : State) (ep : Nat) : State :=
  let e := s.events
  if e.logFull || !e.logWait.isEmpty then
    let before := if 0 < e.logRun then [RingWait.loss e.logRun e.logRunTick] else []
    { s with events := { e with logWait := e.logWait ++ before ++ [.mark ep], logRun := 0 } }
  else s.logRecord { kind := 1, value := ep }

/-- The markers that the event log owes and whose instant has come enter it, before any record raised from F on (R466, R519). -/
def State.logOwed (s : State) : State :=
  s.fence.marks.foldl (fun (t : State) m =>
    if m.stream = .log ∧ m.f ≤ s.tick then ({ t with fence := { t.fence with marks := t.fence.marks.erase m } }).logMarker m.epoch else t) s

/-- The record of an event (R518). -/
def eventRecord (src cause : Nat) (inj : Bool) (data : List Byte) (tick : Nat) : LogRec :=
  { kind := 0, source := src, injected := inj, cause := cause, data := padTo 16 data, value := tick }

/-- A record of an event enters the log behind the markers owed before it (R518, R519). -/
def State.logEvent (s : State) (src cause : Nat) (inj : Bool) (data : List Byte) : State :=
  s.logOwed.logRecord (eventRecord src cause inj data s.tick)

/-- The four effects of a raise on source `src` in one cycle (R510): PENDING, LAST_CAUSE and COUNT, the log, the vector. -/
def State.raiseOne (s : State) (src cause : Nat) (inj : Bool) (data : List Byte) : State :=
  let e := s.events
  let rt := e.routes.get src
  let lc := e.last.get src
  let s1 := { s with events := { e with
    pending := e.pending ||| BitVec.ofNat 1024 (2 ^ src)
    last := e.last.set src { cause := cause, count := satAdd 16 lc.count 1 } } }.hwSet (0x30100 + src / 32 * 4) (src % 32)
  let s2 := if rt.log || src = 830 then s1.logEvent src cause inj data else s1
  if s2.events.mask.getLsbD src then s2 else s2.vecRaise rt.vector

/-- LOG_THRESH is raised on EV832 where a record written since `was` brought the fill to it (R517, R527). -/
def State.logReached (s was : State) : State :=
  if s.events.logThreshHit && s.events.fill = s.events.logThresh && s.events.logWr ≠ was.events.logWr then
    s.raiseOne 832 Ev.logThresh false []
  else s

/-- An event is raised on source `src` with cause code `cause` and the values it carries (R508, R510). -/
def State.raise (s : State) (src cause : Nat) (data : List Fld := []) (inj : Bool := false) : State :=
  (s.raiseOne src cause inj (packWithin 0 16 data)).logReached s

/-- A record that is written to the event log without a raise (R248). -/
def State.logOnly (s : State) (src cause : Nat) (data : List Fld) : State :=
  (s.logEvent src cause false (packWithin 0 16 data)).logReached s

/-- BAD_ACCESS, carrying the offset (R25, R527). -/
def State.badAccess (s : State) (off : Nat) : State := s.raise 832 Ev.badAccess [.u 4 off]

/-- Whether a DMA channel owns stream `k` (R492). -/
def State.streamOwned (s : State) (k : Nat) : Bool := s.host.chans.any fun c => c.2.streams.contains k

/-- A CONTROL frame is sent on the pair link (R378, R380). -/
def State.sendCtl (s : State) (m : PairMsg) : State :=
  { s with pair := { s.pair with control := m :: s.pair.control, controlTx := s.now } }

/-- The event source of port `p`: that of its first lane (R62); port p starts at lane p. -/
def portSrc (p : Nat) : Nat := p

/-! ## Updates of numbered objects -/

/-- Lane `l` changed by `f`. -/
def State.updLane (s : State) (l : Nat) (f : Lane → Lane) : State := { s with lanes := s.lanes.upd l f }
/-- Port `p` changed by `f`. -/
def State.updPort (s : State) (p : Nat) (f : Port → Port) : State := { s with ports := s.ports.upd p f }
/-- Selvedge port `p` changed by `f`. -/
def State.updSelv (s : State) (p : Nat) (f : Selv → Selv) : State := { s with selv := s.selv.upd p f }
/-- Mailbox `m` changed by `f`. -/
def State.updMb (s : State) (m : Nat) (f : Mailbox → Mailbox) : State := { s with mbs := s.mbs.upd m f }
/-- TDC channel `c` changed by `f`. -/
def State.updTdc (s : State) (c : Nat) (f : TdcChan → TdcChan) : State :=
  { s with tdc := { s.tdc with chans := s.tdc.chans.upd c f } }
/-- Record ring `r` changed by `f`. -/
def State.updRing (s : State) (r : Nat) (f : Ring → Ring) : State :=
  { s with tdc := { s.tdc with rings := s.tdc.rings.upd r f } }
/-- Gate group `g` changed by `f`. -/
def State.updGroup (s : State) (g : Nat) (f : GateGrp → GateGrp) : State :=
  { s with tdc := { s.tdc with groups := s.tdc.groups.upd g f } }
/-- Gauge region `r` changed by `f`. -/
def State.updRegion (s : State) (r : Nat) (f : GRegion → GRegion) : State :=
  { s with gauge := { s.gauge with regions := s.gauge.regions.upd r f } }
/-- Gauge set of channel `c` changed by `f`. -/
def State.updCG (s : State) (c : Nat) (f : ChanGauge → ChanGauge) : State :=
  { s with gauge := { s.gauge with chans := s.gauge.chans.upd c f } }
/-- Reference slot `n` changed by `f`. -/
def State.updSlot (s : State) (n : Nat) (f : RefSlot → RefSlot) : State :=
  { s with ref := { s.ref with slots := s.ref.slots.upd n f } }
/-- TX timestamp queue `q` changed by `f`. -/
def State.updTsq (s : State) (q : Nat) (f : Tsq → Tsq) : State :=
  { s with time := { s.time with tsqs := s.time.tsqs.upd q f } }
/-- PTP instance `i` changed by `f`. -/
def State.updInst (s : State) (i : Nat) (f : PtpInst → PtpInst) : State :=
  { s with ptp := { s.ptp with insts := s.ptp.insts.upd i f } }
/-- PTP port `p` changed by `f`. -/
def State.updPtp (s : State) (p : Nat) (f : PtpPort → PtpPort) : State :=
  { s with ptp := { s.ptp with ports := s.ptp.ports.upd p f } }
/-- Asymmetry of port `p` changed by `f`. -/
def State.updAsym (s : State) (p : Nat) (f : Asym → Asym) : State :=
  { s with ptp := { s.ptp with asym := s.ptp.asym.upd p f } }
/-- Machine-clock channel `c` changed by `f`. -/
def State.updMc (s : State) (c : Nat) (f : McChan → McChan) : State :=
  { s with stitch := { s.stitch with mc := s.stitch.mc.upd c f } }
/-- MCLK output `o` changed by `f`. -/
def State.updMclk (s : State) (o : Nat) (f : MclkOut → MclkOut) : State :=
  { s with stitch := { s.stitch with mclk := s.stitch.mclk.upd o f } }
/-- Stitch settings of port `p` changed by `f`. -/
def State.updSt (s : State) (p : Nat) (f : StPort → StPort) : State :=
  { s with stitch := { s.stitch with ports := s.stitch.ports.upd p f } }
/-- Parser settings of port `p` changed by `f`. -/
def State.updParse (s : State) (p : Nat) (f : ParsePort → ParsePort) : State :=
  { s with parse := { s.parse with ports := s.parse.ports.upd p f } }
/-- Frame `n` changed by `f`. -/
def State.updFrame (s : State) (n : Nat) (f : Frame → Frame) : State :=
  { s with core := { s.core with frames := s.core.frames.upd n f } }
/-- Copy `n` changed by `f`. -/
def State.updCopy (s : State) (n : Nat) (f : Copy → Copy) : State :=
  { s with core := { s.core with copies := s.core.copies.upd n f } }
/-- Queue `(p, c)` changed by `f`. -/
def State.updQueue (s : State) (p c : Nat) (f : QCfg → QCfg) : State :=
  { s with core := { s.core with queues := s.core.queues.upd (8 * p + c) f } }
/-- Control core `n` changed by `f`. -/
def State.updCore (s : State) (n : Nat) (f : CtrlCore → CtrlCore) : State :=
  { s with fw := { s.fw with cores := s.fw.cores.upd n f } }
/-- DMA channel `n` changed by `f`. -/
def State.updChan (s : State) (n : Nat) (f : Chan → Chan) : State :=
  { s with host := { s.host with chans := s.host.chans.upd n f } }
/-- Temperature sensor `n` changed by `f`. -/
def State.updSensor (s : State) (n : Nat) (f : Sensor → Sensor) : State :=
  { s with power := { s.power with sensors := s.power.sensors.upd n f } }

end Sys2Proof.Machine
end

