-- ==== Sys2Proof/Machine/Complete.lean ====
section
/-!
DEFINITION. How a mailbox command is checked, settled and completed (R441 to R454, R395 to R400), and how time advances
past the instants of fences (R463 to R465). The families of commands are written over these operations.
-/
namespace Sys2Proof.Machine

/-! ## Responses -/

/-- Mailbox event source (R459). -/
def mbSrc (m : Nat) : Nat := 648 + m

/-- Unread responses of a mailbox. -/
def Mailbox.unread (x : Mailbox) : Nat := dist32 x.respRd x.done

/-- The 64-byte response entry (R448). -/
def respEntry (opcode status tag pos detail : Nat) (mirrored : Bool) (res : List Byte) : List Byte :=
  beBytes 2 opcode ++ beBytes 2 status ++ beBytes 4 tag ++ beBytes 4 pos ++ beBytes 2 detail
    ++ beBytes 1 (ceilDiv (res.length - 48) 8) ++ beBytes 1 (if mirrored then 1 else 0) ++ padTo 48 res

/-- Whether the response at DONE_COUNT stays unwritten, its command having been fetched before a function-level reset
(R454). -/
def Mailbox.isSilent (x : Mailbox) : Bool :=
  match x.silentTo with
  | none => false
  | some p => decide (0 < dist32 x.done p ∧ dist32 x.done p ≤ 256)

/-- Where the registers of mailbox `m` begin in BAR0 (R24). -/
def mbOffset (m : Nat) : Nat := 0x10000 + 0x2000 * m

/-- The next response of mailbox `m` is written, at the position DONE_COUNT names: the result extension first, then the
entry, as posted writes; nothing is written after a function-level reset (R454). DONE_COUNT advances, the LAST registers
take the completion (R443), MB_DONE is raised with NOTIFY (R451) and MB_THRESH when the unread responses reach THRESH. -/
def State.respond (s : State) (m opcode tag status detail : Nat) (notify mirrored : Bool) (res : List Byte) : State :=
  let x := s.mbs.get m
  let k := x.done.toNat % 256
  let ext := res.drop 48
  let mem := if x.isSilent then s.hostMem
    else
      let m1 := if ext.isEmpty then s.hostMem
        else hostWrite s.hostMem (x.extBase.toNat + 512 * k) (padTo (8 * ceilDiv ext.length 8) ext)
      hostWrite m1 (x.respBase.toNat + 64 * k) (respEntry opcode status tag x.done.toNat detail mirrored res)
  let by1 := decide (Config.servingCore m x.done.toNat % 2 = 1)
  let x1 := { x with
    served0 := if by1 then x.served0 else x.served0 + 1, served1 := if by1 then x.served1 + 1 else x.served1
    done := x.done + 1, lastStatus := status, lastOpcode := opcode
    lastTag := BitVec.ofNat 32 tag, lastPos := x.done
    doors := x.doors.filter fun d => decide (0 < dist32 (x.done + 1) d.1 ∧ dist32 (x.done + 1) d.1 ≤ 256) }
  let hit := decide (x1.thresh ≠ 0 ∧ x1.unread = x1.thresh)
  let s0 := { s with hostMem := mem, mbs := s.mbs.set m { x1 with threshHit := x1.threshHit || hit } }
  let s1 := if hit then s0.hwSet (mbOffset m + 4) 3 else s0
  let s2 := if notify then s1.raise (mbSrc m) Ev.mbDone else s1
  if hit then s2.raise (mbSrc m) Ev.mbThresh else s2

/-- An ST_ABORTED completion raises MB_ABORTED the first time after an abort or RESET write, carrying the position (R459). -/
def State.noteAborted (s : State) (m : Nat) (pos : BitVec 32) : State :=
  if (s.mbs.get m).abortRaised then s
  else (s.updMb m fun x => { x with abortRaised := true }).raise (mbSrc m) Ev.mbAborted [.u 4 pos.toNat]

/-- The commands at the head of mailbox `m`'s fetched commands whose outcome is already fixed complete, in position order
(R450, R451, R453). While C0 or C1 restarts, no firmware writes a response of MB0 to MB6 (R470). -/
def State.sweepHead (s : State) (m : Nat) : Nat → State
  | 0 => s
  | n + 1 =>
    match (s.mbs.get m).inFlight with
    | [] => s
    | c :: rest =>
      if s.fence.recovery && decide (m < 7) then s else
      let pop := s.updMb m fun x => { x with inFlight := rest }
      if c.aborted then
        (pop.respond m c.opcode c.tag.toNat stAborted 0 (c.flags.testBit 0) false [] |>.noteAborted m c.pos).sweepHead m n
      else
        match c.early with
        | some (st, d) => (pop.respond m c.opcode c.tag.toNat st d (c.flags.testBit 0) false []).sweepHead m n
        | none => s

/-- The commands of a span fixed by RESET complete with ST_ABORTED, OPCODE 0 and TAG 0, once no fetched command is left
(R445). -/
def State.sweepReset (s : State) (m : Nat) : Nat → State
  | 0 => s
  | n + 1 =>
    let x := s.mbs.get m
    match x.resetTo with
    | none => s
    | some p =>
      if !x.inFlight.isEmpty then s
      else if x.done = p then s.updMb m fun y => { y with resetTo := none }
      else (s.respond m 0 0 stAborted 0 false false [] |>.noteAborted m x.done).sweepReset m n

/-- Every completion of mailbox `m` that is due is written. -/
def State.sweep (s : State) (m : Nat) : State :=
  (s.sweepHead m (s.mbs.get m).inFlight.length).sweepReset m 257

/-! ## Fences (R461 to R465) -/

/-- TICK F of a fence that starts at CORE cycle `t` (R463): the first multiple of 16 at or after t + 256. -/
def fenceF (t : Nat) : Nat := (t + 256 + 15) / 16 * 16

/-- Whether every command that `earlier` covers has completed on its mailbox (R461, R463). -/
def State.earlierDone (s : State) (earlier : List (BitVec 32)) : Bool :=
  (List.range 8).all fun m =>
    match earlier[m]? with
    | none => true
    | some e => decide (dist32 (s.mbs.get m).done e = 0 ∨ 256 < dist32 (s.mbs.get m).done e)

/-- A fence takes the next epoch and its admission marker, which is its commit point (R462, R463, R465). -/
def State.placeFence (s : State) (src : CmdSrc) (f : Nat) (arm : Bool) : State :=
  let s1 := { s with fence := { s.fence with
    epoch := s.fence.epoch + 1, lastF := f
    active := s.fence.active ++ [{ epoch := s.fence.epoch + 1, f := f, src := src, arm := arm }] } }
  match src with
  | .mailbox m => s1.updMb m fun x => { x with inFlight := match x.inFlight with
      | [] => []
      | c :: cs => { c with started := true, committed := true } :: cs }
  | _ => s1

/-- The positions that are earlier than the command at the head of the source's mailbox (R461). -/
def State.earlierOf (s : State) : CmdSrc → List (BitVec 32)
  | .mailbox m => match (s.mbs.get m).inFlight with
    | [] => []
    | c :: _ => (List.range 8).map fun k => if k = m then (s.mbs.get m).done else c.earlier.getD k 0
  | _ => []

/-- The streams (R466) that exist. -/
def allStreams : List StreamId :=
  (List.range 4).map .tsq ++ (List.range 8).map .ring ++ [.capture] ++ (List.range 32).map .cq ++ [.log]

/-- Whether a stream is enabled, and so receives the markers placed now (R467, R504). -/
def State.streamOn (s : State) : StreamId → Bool
  | .tsq q => (s.time.tsqs.get q).enable
  | .ring r => (s.tdc.rings.get r).enable
  | .capture => s.core.capture.enable
  | .cq n => decide ((s.host.chans.get n).cqSize ≠ 0)
  | .log => true

/-- The overlay slot whose IMG_ARM of mode FENCE comes from `src` and has not completed. -/
def State.armOf (s : State) (src : CmdSrc) : Option Nat :=
  if src = .direct then none else (s.fw.overlays.find? fun p => decide (p.2.src = src)).map (·.1)

/-- Overlay slot `n` is armed in mode FENCE with marker F (R428, R429): it must be VALID and no slot ARMED. -/
def State.armSlot (s : State) (n : Nat) (src : CmdSrc) (f : Nat) : Option State :=
  if (s.fw.overlays.get n).state = .valid && !(s.fw.overlays.any fun p => decide (p.2.state = .armed)) then
    some (({ s with fw := { s.fw with
      overlays := s.fw.overlays.upd n fun o => { o with state := .armed, timeMode := false, src := src } } }).placeFence src f true)
  else none

/-- TICK F of a FENCE that starts now (R463): from the cycle after the one in which it was found ready, or, where the command is taken up
so late in the model that this F has passed, from the next cycle. -/
def State.fenceAt (s : State) (src : CmdSrc) : Nat :=
  let late := fenceF (s.tick + 1)
  match src with
  | .mailbox m => match (s.mbs.get m).inFlight with
    | c :: _ => match c.readyAt with
      | some r => if fenceF (r - s.time.tick0 + 1) ≤ s.tick then late else fenceF (r - s.time.tick0 + 1)
      | none => late
    | [] => late
  | _ => late

/-- The FENCE at the head of a mailbox, or the IMG_ARM of mode FENCE, starts, its earlier commands having completed (R429, R463); an IMG_ARM
whose slot can no longer be armed completes with ST_BAD_STATE. -/
def State.startFence (s : State) (src : CmdSrc) : State :=
  let s1 := { s with fence := { s.fence with waiting := s.fence.waiting.filter (· ≠ src) } }
  let f := s.fenceAt src
  match s.armOf src, src with
  | none, _ => s1.placeFence src f false
  | some n, .mailbox m =>
    match s1.armSlot n src f with
    | some t => t
    | none =>
      let s2 := { s1 with fw := { s1.fw with overlays := s1.fw.overlays.upd n fun o => { o with src := .direct } } }
      (s2.updMb m fun x => { x with inFlight := match x.inFlight with
        | [] => []
        | c :: cs => { c with early := some (stBadState, 0) } :: cs }).sweep m
  | some _, _ => s1

/-- The FENCE and IMG_ARM commands at the head of a mailbox whose earlier commands have now completed are noted as ready: hardware tracks
these completions, so the instant does not depend on when firmware takes the command up (R463). -/
def State.markReady (s : State) : State :=
  (List.range 8).foldl (fun (t : State) m =>
    match (t.mbs.get m).inFlight with
    | [] => t
    | c :: cs =>
      if decide (c.opcode = 0x0001 ∨ c.opcode = 0x0203) && c.readyAt.isNone && t.earlierDone (t.earlierOf (.mailbox m)) then
        t.updMb m fun x => { x with inFlight := { c with readyAt := some t.now } :: cs }
      else t) s

/-- One round over the FENCE commands that wait. -/
def State.pokeOnce (s : State) : State :=
  s.fence.waiting.foldl (fun s src => if s.earlierDone (s.earlierOf src) then s.startFence src else s) s.markReady

/-- The FENCE commands that waited and whose earlier commands have now completed start (R463); one that ends at once may let another start. -/
def State.pokeFences (s : State) : State :=
  s.fence.waiting.foldl (fun s _ => s.pokeOnce) s.markReady

/-- Whether an opcode is of a family that the lifeline mirrors (R395): TABLE, CLASS, STITCH and MCLK, the PTP, transparent
clock and servo configuration, TIME_SET_CONTROL, TIME_SET_UTC, images and overlays, PAIR_CONFIGURE, PAIR_CONFIGURE_PORT,
PAIR_SWITCHOVER (R406) and FENCE. -/
def mirrored (op : Nat) : Bool :=
  op / 256 = 4 || op / 256 = 5 || op / 256 = 9 || op / 256 = 2 ||
  [0x0001, 0x0604, 0x0606, 0x0610, 0x0611, 0x0614, 0x0618, 0x0A01, 0x0A02, 0x0A04].contains op

/-- The commands of the mirrored families that only read (R400). -/
def readOnly (op : Nat) : Bool :=
  [0x0205, 0x0410, 0x0411, 0x0413, 0x0425, 0x0428, 0x042A, 0x0514, 0x0515, 0x0516, 0x0523, 0x0524, 0x0903, 0x090C,
   0x090D].contains op

/-! ## Completion -/

/-- The mailbox a source counts for. -/
def srcMb : CmdSrc → Nat
  | .mailbox m => m
  | .journal m _ => m
  | _ => 0

/-- A command completes: what it reports is recorded, counted where it is ST_PAIR_UNMIRRORED (R400), with MIRRORED where a mirrored command of an ACTIVE unit completes with ST_OK (R399,
R448); if it came from a mailbox whose oldest fetched command it is, its
response is written in position order, and the completions behind it that are due follow. -/
def State.finish (s : State) (src : CmdSrc) (opcode status detail : Nat) (res : List Fld) (unitLocal : Bool := false) : State :=
  let bytes := packFrom 16 res
  let mir := decide (status = stOk) && mirrored opcode && !readOnly opcode && !unitLocal && s.pair.enable && decide (s.pair.role = .active)
  let s1 := { s with cmd := { opcode := opcode, status := status, detail := detail, mirrored := mir, result := bytes,
                              src := src, count := s.cmd.count + 1 }
                     fw := if src = .mailbox 7 && opcode ≠ 0x0C02 then { s.fw with respPart0 := none } else s.fw
                     pair := if status = stUnmirrored then { s.pair with unmirrored := s.pair.unmirrored.upd (srcMb src) (· + 1) } else s.pair }
  match src with
  | .mailbox m =>
    match (s1.mbs.get m).inFlight with
    | [] => s1
    | c :: rest =>
      if c.opcode = opcode then
        (((s1.updMb m fun x => { x with inFlight := rest }).respond m c.opcode c.tag.toNat status detail
          (c.flags.testBit 0) mir bytes).sweep m).pokeFences
      else s1
  | _ => s1

/-- The command at the head of the source's mailbox has started and, if `commit`, is past its commit point (R452). -/
def State.markStarted (s : State) (src : CmdSrc) (commit : Bool) : State :=
  match src with
  | .mailbox m => s.updMb m fun x => { x with inFlight := match x.inFlight with
      | [] => []
      | c :: cs => { c with started := true, committed := c.committed || commit,
                            startAt := if c.started then c.startAt else s.now,
                            timeout := if c.started then c.timeout else x.timeout } :: cs }
  | _ => s

/-! ## What a command's own execution decides -/

/-- What the execution of a command comes to: a status with its DETAIL and the results the owning chapter names for it;
ST_RANGE for parameter `i`; ST_OK with the new state and its results; a status that comes with an effect (a module that does not answer); or an effect that
completes later. -/
inductive Rep where
  | fail (status : Nat) (res : List Fld)
  | range (i : Nat)
  | ok (s : State) (res : List Fld)
  | done (s : State) (status : Nat) (res : List Fld)
  | later (s : State) (commit : Bool)

/-- The first of a list of conditions that does not hold, counted from `k`. -/
def firstFalse (k : Nat) : List Bool → Option Nat
  | [] => none
  | true :: bs => firstFalse (k + 1) bs
  | false :: _ => some k

/-- ST_RANGE for the first parameter outside its range; `rest` where every parameter lies in its range. One condition per
parameter that is no flag, in the order of the owning table. -/
def Rep.ranges (bs : List Bool) (rest : Rep) : Rep :=
  match firstFalse 0 bs with
  | some i => .range i
  | none => rest

/-- ST_RANGE for the flags of PFLAGS, at offset 8. -/
def Rep.flags : Rep := .range 99

/-- ST_BAD_STATE. -/
def Rep.badState : Rep := .fail stBadState []

/-- Whether a mailbox accepts an opcode (R432, R441). -/
def mailboxAccepts (m op : Nat) : Bool :=
  if m = 7 then op / 256 = 0 || op / 256 = 0x0C else op / 256 ≠ 0x0C

/-- The SEC commands that need an open OPERATOR session (R432). -/
def needsSession (op : Nat) : Bool := [0x0C03, 0x0C04, 0x0C05, 0x0C06, 0x0C10, 0x0C11].contains op

/-- Whether a partner is in service as standby, as its last report says (R399). -/
def State.partnerStandby (s : State) : Bool :=
  decide (s.pair.partnerRole = .standby) && !s.pair.healthLost && s.pair.linkUp

/-- A dependent change (R428): every overlay slot that is VALID or ARMED returns to LOADED, with OVERLAY_DISARMED for one that
was ARMED. -/
def State.dependentChange (s : State) : State :=
  s.fw.overlays.foldl (fun s p =>
    let set (s : State) := { s with fw := { s.fw with overlays := s.fw.overlays.upd p.1 fun o => { o with state := .loaded } } }
    match p.2.state with
    | .valid => set s
    | .armed => (set s).raise 799 Ev.overlayDisarmed [.u 2 p.1]
    | _ => s) s

/-- Whether the completion of an opcode is a dependent change (R428). The image commands and FENCE change nothing an overlay
was validated against (DEDUCED, log 6). -/
def changesConfig (op : Nat) : Bool := mirrored op && !readOnly op && op / 256 ≠ 2 && op ≠ 1

/-- Whether a command's family parameter is IPv6, which widens its address (R447). -/
def familyV6 : Instr → Bool
  | .hostAdd _ _ f _ _ => decide (f = 1)
  | .hostDelete _ f _ => decide (f = 1)
  | .lpmAdd _ _ f _ _ _ => decide (f = 1)
  | .lpmDelete _ f _ _ => decide (f = 1)
  | _ => false

/-- Command `i` joins the journal of the current lifeline cycle, which is its commit point, and waits for it (R396, R452). -/
def State.joinJournal (s : State) (i : Instr) (src : CmdSrc) : State :=
  let w : JournalWait := { cmd := i, cycle := s.pair.cycleNo, joined := s.now }
  ({ s with pair := { s.pair with journal := s.pair.journal ++ [i], waits := s.pair.waits ++ [w] } }).markStarted src true

/-- The commands of mirrored families that concern this unit alone: IMG_LOAD to BASE (R439). -/
def unitLocal : Instr → Bool
  | .imgLoad _ target _ _ _ => decide (target = 16)
  | _ => false

/-- The status of a command whose effect is in force on this unit (R399): ST_PAIR_UNMIRRORED for a mirrored command of the
active unit of a pair that has no partner in service, else ST_OK. -/
def State.okStatus (s : State) (src : CmdSrc) (op : Nat) : Nat :=
  match src with
  | .journal _ _ => stOk
  | .overlay _ => stOk
  | _ => if mirrored op && !readOnly op && s.pair.enable && decide (s.pair.role = .active) && !s.partnerStandby then stUnmirrored else stOk

/-- Whether a command of this source joins the journal rather than acting at once (R396). -/
def State.journals (s : State) (i : Instr) (src : CmdSrc) (op : Nat) : Bool :=
  let own := match src with | .journal _ _ => false | .overlay _ => false | _ => true
  own && mirrored op && !readOnly op && !unitLocal i && s.pair.enable && decide (s.pair.role = .active) && s.partnerStandby

/-- The effect of a command takes place now, and the command completes or goes on (R449 to R452): no command joins a journal here. -/
def State.settleNow (s : State) (i : Instr) (src : CmdSrc) (op : Nat) (r : Rep) : State :=
  match r with
  | .fail st res => s.finish src op st 0 res
  | .range k => s.finish src op stRange ((spans op (familyV6 i)).getD k (8, 1)).1 []
  | .ok t res =>
    let t1 := if changesConfig op then t.dependentChange else t
    if s.okStatus src op = stUnmirrored ∧ !unitLocal i then t1.finish src op stUnmirrored 0 res
    else t1.finish src op stOk 0 res (unitLocal i)
  | .done t st res => t.finish src op st 0 res
  | .later t commit => (if changesConfig op then t.dependentChange else t).markStarted src commit

/-- The outcome `r` of command `i` is settled in state `s` (R399, R449 to R452): an error completes the command with nothing
changed; an effect takes place and the command completes; or, for a mirrored command that passes its checks on the active
unit of a pair whose partner is in service, the command joins the journal of the current cycle and waits for it. -/
def State.settle (s : State) (i : Instr) (src : CmdSrc) (op : Nat) (r : Rep) : State :=
  let passes := match r with | .ok _ _ => true | .later _ _ => true | _ => false
  if passes && s.journals i src op then s.joinJournal i src else s.settleNow i src op r

/-- The offset at which an entry breaks the layout of its command (R446, R447): a parameter that the area does not hold, a flag
bit that is no flag, or a byte that is no parameter's and is not 0. -/
def layoutError (op : Nat) (v6 : Bool) (l : List Byte) : Option Nat :=
  if op = 0 then none
  else
    let sp := spans op v6
    match sp.find? fun p => decide (l.length + 8 < p.1 + p.2) with
    | some p => some p.1
    | none =>
      if 2 ^ flagCount op ≤ (l.getD 0 0).toNat then some 8
      else (List.range l.length).findSome? fun i =>
        let o := i + 8
        if i = 0 || sp.any (fun p => decide (p.1 ≤ o) && (p.2 = 0 || decide (o < p.1 + p.2))) then none
        else if l.getD i 0 = 0 then none else some o

/-- The layout error of the command at the head of the source's mailbox, if it is the command of opcode `op` (R450, check 4). -/
def State.headLayout (s : State) (src : CmdSrc) (op : Nat) (v6 : Bool) : Option Nat :=
  match src with
  | .mailbox m => match (s.mbs.get m).inFlight with
    | c :: _ => if c.opcode = op then layoutError op v6 c.params else none
    | [] => none
  | _ => none

/-- Command `i` of opcode `op` executes: the mailbox, then the session, then the layout, then the role, then its own checks decide (R450).
`roleOk` says that R400 lets this command through on a unit that is not ACTIVE; IMG_LOAD to BASE, which is not mirrored, passes too (R439). While C0 or C1 restarts, no command of MB0 to MB6
executes (R470); while the Keeper restarts, a command that needs it waits (R29, R471). -/
def State.runCmd (s : State) (i : Instr) (src : CmdSrc) (op : Nat) (body : State → Rep) (roleOk : Bool := false) : State :=
  let accepted := match src with | .mailbox m => mailboxAccepts m op | .config => mailboxAccepts 0 op | _ => true
  let idle := match src with | .mailbox m => s.fence.recovery && decide (m < 7) | _ => false
  let keeper := s.glob.keeperRestarting && (decide (op = 0x0101 ∨ op = 0x0201) || match src with | .mailbox m => decide (m = 7) | _ => false)
  if idle then s
  else if keeper then ({ s with glob := { s.glob with keeperWaiting := s.glob.keeperWaiting ++ [i] } }).markStarted src false
  else if !accepted then s.finish src op stNotPermitted 0 []
  else if needsSession op && s.fw.sessionEnd.isNone then s.finish src op stNotPermitted 0 []
  else
    match s.headLayout src op (familyV6 i) with
    | some d => s.finish src op stRange d []
    | none =>
      let byRole := match src with | .journal _ _ => false | .overlay _ => false | _ => true
      if byRole && s.pair.enable && s.pair.role ≠ .active && mirrored op && !readOnly op && !unitLocal i && !roleOk then
        s.finish src op stNotPermitted 0 []
      else s.settle i src op (body s)

/-! ## Time passes -/

/-- A snapshot of every live counter and of MAX_SEEN, `seen`, as each stood at the start of the CORE cycle `now`, which is TICK `t`, for fence
epoch `e` (R522, R524). -/
def Stats.snapshot (x : Stats) (seen : Tbl Nat) (now t e : Nat) : Stats :=
  let stand := seen.foldl (fun b k => b.set (maxSeenCtr k.1) k.2) x.live
  { x with
    hidden := (x.startsOf now).foldl (fun b k => b.set k.1 k.2) stand
    busy := true, armed := false, pendTick := t, pendEpoch := e }

/-- RX_LPI of every Ethernet port that is UP is brought up to date: LPI ordered sets arrive outside any command, and are treated as idle
otherwise (R33). -/
def State.lpiNow (s : State) : State :=
  let (k, s1) := s.takeFree
  s.ports.foldl (fun (t : State) q =>
    if q.2.configured && decide (q.2.mode < 7) && decide ((s.lanes.get q.1).state = .up) then t.countEarlier (portCtr q.1 0x30) (Config.orderedSets k q.1)
    else t) s1

/-- The fences whose F lies at or before TICK `t` give their markers to the enabled streams, and an armed snapshot is taken
at F; those whose F + 16 lies at or before `t` complete (R465, R466, R524). -/
def State.fencesTo (s : State) (t : Nat) : State :=
  s.fence.active.foldl (fun s0 a =>
    let s := if !a.placed && a.f ≤ t && s0.stats.armed then s0.lpiNow else s0
    let s1 := if !a.placed && a.f ≤ t then
        { s with
          fence := { s.fence with
            marks := s.fence.marks ++ ((allStreams.filter s.streamOn).map fun st => { stream := st, epoch := a.epoch, f := a.f })
            active := s.fence.active.map fun b => if b.epoch = a.epoch then { b with placed := true } else b }
          stats := if s.stats.armed then s.stats.snapshot s.contracts.maxSeen s.now a.f a.epoch else s.stats }
      else s
    if a.f + 16 ≤ t && !a.arm then
      ({ s1 with fence := { s1.fence with active := s1.fence.active.filter fun b => b.epoch ≠ a.epoch } }).finish
        a.src 0x0001 (s1.okStatus a.src 0x0001) 0 [.u 8 a.epoch, .u 8 a.f]
    else s1) s

/-- Time moves on to CORE cycle `t` of the model's clock, if that lies ahead. -/
def State.advance (s : State) (t : Nat) : State :=
  if t ≤ s.now then s
  else
    let s1 := { s with now := t }
    if s1.fence.active.isEmpty then s1 else s1.fencesTo s1.tick

/-- Time moves on to TICK `t`, if TICK runs. -/
def State.advanceTick (s : State) (t : Nat) : State :=
  if s.time.tickOn then s.advance (s.time.tick0 + t) else s

end Sys2Proof.Machine
end

