-- ==== Sys2Proof/Machine/Mailboxes.lean ====
section
/-!
DEFINITION. The mailboxes: doorbells, fetching, states, aborts and timeouts (R441 to R459), NOP, FENCE and the status
commands of R456.
-/
namespace Sys2Proof.Machine

/-- The form every meaning has: the outcome of one command on the state without its queue. -/
abbrev Out := Host.Outcome State Fault Refusal

/-! ## Command entries -/

/-- The status that FLAGS, PEXT, the opcode index and the mailbox decide at the fetch (R450, checks 1 to 3). -/
def earlyStatus (m : Nat) (entry : List Byte) : Option (Nat × Nat) :=
  let op := ofBe (slice entry 0 2)
  if 2 ≤ ofBe (slice entry 2 1) then some (stRange, 2)
  else if 64 < ofBe (slice entry 3 1) then some (stRange, 3)
  else if (decodeCmd .direct op []).isNone then some (stUnknownOp, 0)
  else if !mailboxAccepts m op then some (stNotPermitted, 0)
  else none

/-- The command a fetched entry and its extension give (R446). -/
def fetchedCmd (x : Mailbox) (m : Nat) (entry ext : List Byte) : MbCmd :=
  let door := x.doors.find? fun d => decide (0 < dist32 x.fetch d.1 ∧ dist32 x.fetch d.1 ≤ 256)
  { pos := x.fetch
    opcode := ofBe (slice entry 0 2)
    flags := ofBe (slice entry 2 1)
    tag := BitVec.ofNat 32 (ofBe (slice entry 4 4))
    params := slice entry 8 56 ++ slice ext 0 (8 * min 64 (ofBe (slice entry 3 1)))
    early := earlyStatus m entry
    earlier := match door with | some d => d.2 | none => []
    aborted := x.abortedAhead.contains x.fetch }

/-- Whether mailbox `m` may fetch (R426, R445, R451, R470, R482): RUNNING, Bus Master Enable 1, the boot configuration ended, a
command submitted and not fetched, fewer than 16 ahead of DONE_COUNT, no recovery of C0-C1 in progress. -/
def State.mayFetch (s : State) (m : Nat) : Bool :=
  let x := s.mbs.get m
  decide (x.state = .running) && s.host.bme && s.fw.configDone && decide (x.fetch ≠ x.submit)
    && decide (dist32 x.done x.fetch < 16) && !(s.fence.recovery && decide (m < 7))

/-- MAILBOX_FETCH (R442): A RUNNING mailbox fetches a submitted command entry and its extension from host memory. -/
def execMailboxFetch (mb : Nat) (entry ext : List Byte) (s : State) : Out :=
  if 8 ≤ mb then .fault .noSuchObject
  else if !s.mayFetch mb then .next s
  else
    let x := s.mbs.get mb
    let c := fetchedCmd x mb entry ext
    let x1 := { x with fetch := x.fetch + 1, inFlight := x.inFlight ++ [c]
                       abortedAhead := x.abortedAhead.filter (· ≠ x.fetch) }
    .next (({ s with mbs := s.mbs.set mb x1 }.sweep mb).pokeFences)

/-- MB_FAULT (R445): A command or extension fetch meets a PCIe completion timeout and the mailbox enters FAULT. -/
def execMbFault (mb : Nat) (extension : Bool) (s : State) : Out :=
  if 8 ≤ mb then .fault .noSuchObject
  else if !s.mayFetch mb then .next s
  else
    let x := s.mbs.get mb
    let k := x.fetch.toNat % 256
    let a := if extension then x.extBase.toNat + 512 * k else x.cmdBase.toNat + 64 * k
    let x1 := { x with state := .fault, fetchFault := true, faultAddr := BitVec.ofNat 64 a, faultCleared := false }
    .next (({ s with mbs := s.mbs.set mb x1 }.hwSet (mbOffset mb + 4) 2).raise (mbSrc mb) Ev.mbFault [.u 8 (a % 2 ^ 64)])

/-- A count write that is ignored sets INDEX_FAULT and raises MB_INDEX (R444). -/
def State.mbIndexFault (s : State) (m : Nat) : State :=
  ((s.updMb m fun x => { x with indexFault := true }).hwSet (mbOffset m + 4) 4).raise (mbSrc m) Ev.mbIndex

/-- SUBMIT_COUNT_WRITE (R444): A doorbell write to SUBMIT_COUNT submits commands or is ignored with MB_INDEX. -/
def execSubmitCountWrite (mb : Nat) (value : BitVec 32) (s : State) : Out :=
  if 8 ≤ mb then .fault .noSuchObject
  else
    let x := s.mbs.get mb
    let fill := dist32 x.respRd value
    if fill ≤ 256 ∧ dist32 x.respRd x.submit ≤ fill then
      if value = x.submit then .next s
      else
        let s1 := s.updMb mb fun x => { x with submit := value }
        let all := (List.range 8).map fun k => (s1.mbs.get k).submit
        .next (s1.updMb mb fun x => { x with doors := x.doors ++ [(value, all)] })
    else .next (s.mbIndexFault mb)

/-- RESP_RD_COUNT_WRITE (R444): The host writes RESP_RD_COUNT to consume responses, or it is ignored with MB_INDEX. -/
def execRespRdCountWrite (mb : Nat) (value : BitVec 32) (s : State) : Out :=
  if 8 ≤ mb then .fault .noSuchObject
  else
    let x := s.mbs.get mb
    if dist32 x.respRd value ≤ dist32 x.respRd x.done then .next (s.updMb mb fun x => { x with respRd := value })
    else .next (s.mbIndexFault mb)

/-- MAILBOX_ENABLE_SET (R445): Setting ENABLE moves a DISABLED, DRAINING or FAULT mailbox to RUNNING. -/
def execMailboxEnableSet (mb : Nat) (s : State) : Out :=
  if 8 ≤ mb then .fault .noSuchObject
  else .next (s.updMb mb fun x =>
    match x.state with
    | .fault => if x.faultCleared then { x with enable := true, state := .running, faultCleared := false } else { x with enable := true }
    | _ => { x with enable := true, state := .running })

/-- MAILBOX_ENABLE_CLEAR (R445): Clearing ENABLE moves a RUNNING mailbox to DRAINING. -/
def execMailboxEnableClear (mb : Nat) (s : State) : Out :=
  if 8 ≤ mb then .fault .noSuchObject
  else .next (s.updMb mb fun x =>
    match x.state with
    | .running => { x with enable := false, state := .draining }
    | .fault => { x with enable := false, faultCleared := true }
    | _ => { x with enable := false })

/-- MAILBOX_DRAINED (R445): A DRAINING mailbox finishes its fetched commands and becomes DISABLED. -/
def execMailboxDrained (mb : Nat) (s : State) : Out :=
  if 8 ≤ mb then .fault .noSuchObject
  else .next (s.updMb mb fun x =>
    if x.state = .draining && x.done = x.fetch then { x with state := .disabled } else x)

/-- RESET (R445): Writing RESET to a DISABLED or FAULT mailbox aborts every unfetched command. -/
def execMailboxReset (mb : Nat) (s : State) : Out :=
  if 8 ≤ mb then .fault .noSuchObject
  else
    let x := s.mbs.get mb
    if x.state = .disabled ∨ x.state = .fault then
      let s1 := s.updMb mb fun x => { x with
        resetTo := if x.fetch = x.submit then x.resetTo else some x.submit
        fetch := x.submit, abortRaised := false, abortedAhead := [] }
      .next ((s1.sweep mb).pokeFences)
    else .next s

/-! ## Aborts (R453) -/

/-- A command that waits for other mailboxes forgets that it waits. -/
def State.forgetWaiting (s : State) (src : CmdSrc) : State :=
  let sends := (s.stitch.sendWait.filter fun w => decide (w.src = src)).map (·.id)
  { s with
    fence := { s.fence with waiting := s.fence.waiting.filter (· ≠ src) }
    time := { s.time with getWait := s.time.getWait.filter (· ≠ src) }
    fw := { s.fw with overlays := s.fw.overlays.mapAll fun _ o => if o.src = src && decide (o.state ≠ .armed) then { o with src := .direct } else o }
    glob := { s.glob with keeperWaiting := s.glob.keeperWaiting.filter fun i => decide ((cmdKey i).map (·.1) ≠ some src) }
    stitch := { s.stitch with
      queues := s.stitch.queues.mapAll fun _ q => q.filter fun x => !x.wait.any sends.contains
      sendWait := s.stitch.sendWait.filter fun w => decide (w.src ≠ src) } }

/-- The abort of position `pos` of mailbox `m` is sampled (R453): a position outside DONE_COUNT to SUBMIT_COUNT - 1 is ignored; a
command short of its commit point is to complete with ST_ABORTED; any other keeps the status its execution gives. -/
def State.sampleAbort (s : State) (m : Nat) (pos : BitVec 32) : State :=
  let x := s.mbs.get m
  if dist32 x.done x.submit ≤ dist32 x.done pos then s
  else if dist32 x.done pos < dist32 x.done x.fetch then
    let s1 := s.updMb m fun x => { x with
      inFlight := x.inFlight.map fun c => if c.pos = pos && !c.committed && c.early ≠ some (stAbortedRecovery, 0) then { c with aborted := true } else c }
    match (s1.mbs.get m).inFlight with
    | c :: _ => if c.aborted && c.pos = pos then s1.forgetWaiting (.mailbox m) else s1
    | [] => s1
  else s.updMb m fun x => { x with
    abortedAhead := if x.abortedAhead.contains pos then x.abortedAhead else x.abortedAhead ++ [pos] }

/-- ABORT_ALL (R453): Aborts every command between DONE_COUNT and SUBMIT_COUNT that is short of its commit point. -/
def execAbortAll (mb : Nat) (s : State) : Out :=
  if 8 ≤ mb then .fault .noSuchObject
  else
    let x := s.mbs.get mb
    let ps := (List.range (dist32 x.done x.submit)).map fun i => x.done + BitVec.ofNat 32 i
    let s1 := s.updMb mb fun x => { x with abortRaised := false }
    .next (((ps.foldl (fun s p => s.sampleAbort mb p) s1).sweep mb).pokeFences)

/-- ABORT_POS (R453): Aborts the command at a given position if it is short of its commit point. -/
def execAbortPos (mb : Nat) (pos : BitVec 32) (s : State) : Out :=
  if 8 ≤ mb then .fault .noSuchObject
  else .next ((((s.updMb mb fun x => { x with abortRaised := false }).sampleAbort mb pos).sweep mb).pokeFences)

/-- COMMAND_TIMEOUT (R452): A command reaches its execution timeout before its commit point and completes with ST_TIMEOUT. -/
def execCommandTimeout (mb : Nat) (s : State) : Out :=
  if 8 ≤ mb then .fault .noSuchObject
  else
    let x := s.mbs.get mb
    match x.inFlight with
    | [] => .next s
    | c :: _ =>
      if c.committed || c.aborted || c.early.isSome || s.fence.waiting.contains (.mailbox mb) then .next s
      else
        let t0 := if c.started then c.startAt else s.now
        let ms := if c.started then c.timeout else x.timeout
        let s1 := s.advance (t0 + ms * msC)
        .next (((s1.forgetWaiting (.mailbox mb)).finish (.mailbox mb) c.opcode stTimeout 0 []).raise (mbSrc mb) Ev.mbTimeout [.u 4 c.pos.toNat])

/-! ## NOP and FENCE (R455) -/

/-- What the own checks and effect of NOP come to (R455). -/
def bodyNop (bytes : List Byte) (s : State) : Rep :=
  .ok s [.raw 1 (slice bytes 0 48)]

/-- FENCE starts in the cycle after the last earlier command of every mailbox has completed, takes the next epoch and places its
marker F, or waits for those commands (R461 to R463). In a pair it is journaled, and F is the apply boundary, which is now. It
completes at F + 16. -/
def bodyFence (src : CmdSrc) (s : State) : Rep :=
  let journaled : Bool := match src with | .journal _ _ => true | _ => s.pair.enable && decide (s.pair.role = .active) && s.partnerStandby
  if journaled then .later (s.placeFence src s.tick false) true
  else if s.earlierDone (s.earlierOf src) then .later (s.placeFence src (s.fenceAt src) false) true
  else .later { s with fence := { s.fence with waiting := s.fence.waiting ++ [src] } } false

/-- NOP (R455): Mailbox command that does nothing and echoes the first 48 bytes of its parameters. -/
def execNop (src : CmdSrc) (bytes : List Byte) (s : State) : Out :=
  .next (s.runCmd (.nop src bytes) src 0x0000 (bodyNop bytes))


/-- FENCE (R463): Starts once every earlier command on every mailbox has completed, takes the next epoch, places the admission
marker F and completes at F + 16. -/
def execFence (src : CmdSrc) (s : State) : Out :=
  .next (s.runCmd (.fence src) src 0x0001 (bodyFence src))

/-! ## Status and board commands (R456) -/

/-- Identity register `k` of R27, at offset 4k. -/
def State.identReg (s : State) : Nat → Nat
  | 0 => 0x62561F3A
  | 1 => 0xB0 + 256 * s.fuses.orderCode.code
  | 2 => (if s.fuses.orderCode.skein then 1 else 0) + (if s.glob.compat then 2 else 0) + (if s.fuses.pairStrap then 4 else 0)
  | 3 => s.fuses.serial % 2 ^ 32
  | 4 => s.fuses.serial / 2 ^ 32 % 2 ^ 32
  | 5 => s.glob.pdOn.toNat
  | 6 => (if s.glob.xoPresent then 1 else 0) + (if s.glob.rootRunning then 2 else 0) + 4 * s.ref.state.mode
      + (if s.glob.keeperOnCtrl then 16 else 0)
  | 7 => s.glob.scratch.toNat
  | _ => 0

/-- What the own checks and effect of SYS_GET_STATUS come to (R456). -/
def bodySysGetStatus (s : State) : Rep :=
  .ok s (((List.range 7).map fun k => Fld.u 4 (s.identReg k)) ++ [.u 8 s.fence.epoch])

/-- What the own checks and effect of SYS_SET_BOARD come to (R456): a parameter that the chosen board parameter does not use must
be 0, and the command is permitted only from the CONFIG section of the base image. -/
def bodySysSetBoard (src : CmdSrc) (param period region base length mask : Nat) (s : State) : Rep :=
  let timed := param = 0 || param = 2
  .ranges [param ≤ 2, if timed then msU ≤ period && period ≤ 1000 * msU else period = 0,
           if timed then region = 0 else region ≤ 63, !timed || base = 0, !timed || length = 0,
           if timed then mask = 0 else mask < 65536] <|
    if src ≠ .config then .fail stNotPermitted []
    else match param with
      | 0 => .ok { s with fw := { s.fw with wdPeriod := period } } []
      | 1 =>
        let e : MapEntry := { base := base, length := length, mask := BitVec.ofNat 16 mask }
        .ok { s with fw := { s.fw with map := s.fw.map.set region e } } []
      | _ => .ok { s with pair := { s.pair with cfg := { s.pair.cfg with watchdog := period } } } []

/-- SYS_GET_STATUS (R456): Returns the identity registers and the fence epoch last assigned. -/
def execSysGetStatus (src : CmdSrc) (s : State) : Out :=
  .next (s.runCmd (.sysGetStatus src) src 0x0102 (bodySysGetStatus))


/-- SYS_SET_BOARD (R456): Sets a board parameter; it is permitted only from the CONFIG section of the base image. -/
def execSysSetBoard (src : CmdSrc) (param period region base length mask : Nat) (s : State) : Out :=
  .next (s.runCmd (.sysSetBoard src param period region base length mask) src 0x0103
    (bodySysSetBoard src param period region base length mask))

end Sys2Proof.Machine
end

