-- ==== Sys2Proof/Machine/Tdc.lean ====
section
/-!
DEFINITION. The TDC bank: stamps, records, rings, gates, interval engines, channel and lane regression (R95 to R126).
-/
namespace Sys2Proof.Machine

/-! ## Channels and stamps (R95 to R97, R127) -/

/-- The gauge region of a channel (R127); none for TDC312 to TDC315 and TDC317. -/
def regionOf (c : Nat) : Option Nat :=
  if c < 256 then some (c / 16)
  else if c < 264 then some 16
  else if c < 280 then some 17
  else if c < 296 then some 18
  else if c < 312 then some 19
  else if c = 316 ∨ c = 318 ∨ c = 319 then some 20
  else none

/-- The channels of a gauge region (R127). -/
def regionChans (r : Nat) : List Nat := (List.range 320).filter fun c => regionOf c = some r

/-- Event source of channel `c`, EV264 + c (R126). -/
def tdcSrc (c : Nat) : Nat := 264 + c

/-- The instant of a stamp in U since TICK 0 (R96). -/
def Stamp.u (x : Stamp) : Int := (x.tick : Int) * 65536 + x.sub

/-- SUB of code `k` of channel `c`: the centre in force, which is nominal where no commit has changed it (R96, R135). -/
def State.centreOf (s : State) (c k : Nat) : Nat := (s.gauge.chans.get c).centre.getD k (128 * k + 64)

/-- The phase error within which a DLL counts towards lock, ±0.5 LSB in U, and that beyond which it unlocks, ±2 LSB (R129); an LSB is 128 U. -/
def dllLockLimit : Nat := 64
/-- The limit of unlock. -/
def dllUnlockLimit : Nat := 256
/-- How many successive CORE cycles within the limit lock a DLL (R129). -/
def dllLockCycles : Nat := 1024

/-- Whether a channel's fine line is in service: its region neither OFF nor in full calibration (R132), its DLL locked (R130). -/
def State.inService (s : State) (c : Nat) : Bool :=
  match regionOf c with
  | none => true
  | some r => decide ((s.gauge.regions.get r).state ≠ .off ∧ (s.gauge.regions.get r).state ≠ .full)

/-- Whether a stamp of channel `c` made now carries STALE (R139). -/
def State.stampStale (s : State) (c : Nat) : Bool :=
  match regionOf c with
  | none => false
  | some r => (s.gauge.regions.get r).stale || (s.tdc.chans.get c).dllStale

/-- A user OFFSET in U: one U is 1/65,536 of 0.8 ns, so 2^-16 ns is 1.25 U (R96, R97). -/
def offsetU (o : Int) : Int := roundDiv (5 * o) 4

/-- What R97 subtracts from a stamp of channel `c`, in U. -/
def State.correction (s : State) (c : Nat) : Int :=
  let x := s.tdc.chans.get c
  (if 264 ≤ c then x.insertion else 0) + (if 280 ≤ c ∧ c < 312 then offsetU x.offset else 0)

/-- The stamp of channel `c` for the codes of an edge (R96, R97). -/
def State.makeStamp (s : State) (c tick phase fine : Nat) (falling : Bool) : Stamp :=
  let v := (tick : Int) * 65536 + s.centreOf c (phase * 32 + fine) - s.correction c
  { tick := unsignedOf 64 (v / 65536), sub := unsignedOf 16 v, fine := fine, phase := phase
    falling := falling, stale := s.stampStale c, lost := (s.tdc.chans.get c).lostSince }

/-- Whether a channel is armed apart from any gate (R95). -/
def State.armed (s : State) (c : Nat) : Bool :=
  if c < 264 then
    (s.lanes.get c).tapOn
  else if c < 272 then (s.ref.slots.get (c - 264)).enable
  else if c < 274 then true
  else if c < 278 then decide ((s.stitch.mclk.get (c - 274)).mode ≠ 0)
  else if c < 280 then true
  else if c < 312 then (s.tdc.chans.get c).enable
  else if c < 316 then true
  else if c = 316 then s.tdc.testEnable
  else if c = 318 ∨ c = 319 then (s.ref.pps.get (c - 318)).enable
  else false

/-! ## Records (R107, R108) -/

/-- Bit of a W0 flag, as a value of the flags field in place. -/
def flEdge : Nat := 2 ^ 13
/-- STALE. -/
def flStale : Nat := 2 ^ 14
/-- LOST. -/
def flLost : Nat := 2 ^ 15
/-- TRUNC. -/
def flTrunc : Nat := 2 ^ 16
/-- COINCIDENT. -/
def flCoincident : Nat := 2 ^ 17
/-- ORDER. -/
def flOrder : Nat := 2 ^ 18
/-- MISS. -/
def flMiss : Nat := 2 ^ 19

/-- The value of a flag that holds if `b`. -/
def flag (b : Bool) (v : Nat) : Nat := if b then v else 0

/-- W0 of a record (R107). -/
def TdcRec.w0 (x : TdcRec) : BitVec 32 :=
  BitVec.ofNat 32 (x.kind % 16 + 16 * (x.channel % 512) + x.flags + 2 ^ 24 * (x.seq % 256))

/-- A record whose W2 and W3 hold a 64-bit value. -/
def tdcRec (kind channel flags w1 v : Nat) : TdcRec :=
  { kind := kind, channel := channel, flags := flags, w1 := BitVec.ofNat 32 w1
    w2 := BitVec.ofNat 32 v, w3 := BitVec.ofNat 32 (v / 2 ^ 32) }

/-- The HIT record of a stamp. -/
def hitRec (c : Nat) (x : Stamp) : TdcRec :=
  tdcRec 0 c (flag x.falling flEdge + flag x.stale flStale + flag x.lost flLost) (x.sub + 2 ^ 16 * x.fine + 2 ^ 21 * x.phase) x.tick

/-- A LOST record: of channel `c`, or of a ring where `c` is 0x1FF (R106). -/
def lostRec (c n tick : Nat) : TdcRec := tdcRec 7 c flLost n tick

/-- A MARKER record (R115). -/
def markerRec (epoch : Nat) : TdcRec := tdcRec 8 0x1FF 0 0 epoch

/-! ## Rings (R105, R106, R109 to R115) -/

/-- Event source of ring `r`. -/
def ringSrc (r : Nat) : Nat := 800 + r

/-- Where the registers of ring `r` begin in BAR0 (R111). -/
def ringOffset (r : Nat) : Nat := 0x100000 + 0x40 * r

/-- `n` records lost are counted in RING_LOST of ring `r` (R106, R111). -/
def State.ringMiss (s : State) (r n : Nat) : State :=
  (((s.hwCount (ringOffset r + 0x14) (s.tdc.rings.get r).ringLost).hwSet (ringOffset r + 0x10) 1).updRing r fun y =>
    { y with ringLost := satAdd 32 y.ringLost n, lostSeen := true })

/-- The fill of a ring (R112). -/
def Ring.fill (x : Ring) : Nat := dist32 x.rd x.wr

/-- A record enters ring `r`, which has room for it: SEQ, WR_COUNT, RING_THRESH, RING_FULL, and RESULT for the last record of a
regression result (R107, R111, R126). -/
def State.ringStore (s : State) (r : Nat) (v : TdcRec) : State :=
  let x := s.tdc.rings.get r
  let n := x.wr.toNat
  let x1 := { x with recs := x.recs.set (n % 4096) { v with seq := n % 256, written := s.now }, wr := x.wr + 1 }
  let hit := decide (x1.thresh ≠ 0 ∧ x1.fill = x1.thresh)
  let s1 := s.updRing r fun _ => { x1 with threshHit := x1.threshHit || hit }
  let s2 := if hit then (s1.hwSet (ringOffset r + 0x10) 2).raise (ringSrc r) Ev.ringThresh else s1
  let s3 := if x1.fill = 4096 then s2.raise (ringSrc r) Ev.ringFull else s2
  if v.kind = 4 then s3.raise (tdcSrc v.channel) Ev.result else s3

/-- While ring `r` has room, what waits for room is written: markers with the losses before them, then the losses since
(R106, R115). -/
def State.ringDrain (s : State) (r : Nat) : Nat → State
  | 0 => s
  | n + 1 =>
    let x := s.tdc.rings.get r
    if 4096 ≤ x.fill then s
    else match x.waitMarks with
      | .mark e :: ws => ((s.updRing r fun y => { y with waitMarks := ws }).ringStore r (markerRec e)).ringDrain r n
      | .loss k t :: ws => ((s.updRing r fun y => { y with waitMarks := ws }).ringStore r (lostRec 0x1FF k t)).ringDrain r n
      | [] =>
        if x.lostRun = 0 then s
        else (s.updRing r fun y => { y with lostRun := 0 }).ringStore r (lostRec 0x1FF x.lostRun x.lostTick)

/-- The most items that can wait for room in a ring, and one. -/
def Ring.waiting (x : Ring) : Nat := x.waitMarks.length + 2

/-- Records placed at `tick` reach ring `r`: written together, or dropped and counted (R106, R109, R111). -/
def State.ringPut (s : State) (r : Nat) (vs : List TdcRec) (tick : Nat) : State :=
  let s1 := s.ringDrain r (s.tdc.rings.get r).waiting
  let x := s1.tdc.rings.get r
  if !x.enable then
    s1.ringMiss r vs.length
  else if !x.waitMarks.isEmpty || decide (x.lostRun ≠ 0) || decide (4096 < x.fill + vs.length) then
    (s1.ringMiss r vs.length).updRing r fun y => { y with
      lostTick := if y.lostRun = 0 then tick else y.lostTick, lostRun := satAdd 32 y.lostRun vs.length }
  else vs.foldl (fun s v => s.ringStore r v) s1

/-- The ring that a channel's HIT records go to: its own, or that of a tap capture (R122, R123). -/
def TdcChan.hitRing (x : TdcChan) : Option Nat :=
  match x.capRing with
  | some r => some r
  | none => x.ring

/-- The TICK by which a FIFO entry is placed (R114). -/
def FifoEnt.place (e : FifoEnt) : Nat := if e.lost = 0 then e.stamp.tick else e.lostTick

/-- What the ring writer of ring `r` takes next: the record placed earliest, with its place and the channel whose FIFO holds it,
or no channel for a record of another kind (R114). -/
def State.ringNext (s : State) (r : Nat) : Option (Nat × Option Nat) :=
  let q : Option (Nat × Option Nat) := match (s.tdc.rings.get r).queue with
    | [] => none
    | g :: _ => some (g.tick, none)
  s.tdc.chans.foldl (fun best p =>
    match p.2.fifo with
    | [] => best
    | e :: _ =>
      if p.2.hitRing = some r then
        match best with
        | none => some (e.place, some p.1)
        | some b => if e.place < b.1 then some (e.place, some p.1) else best
      else best) q

/-- The oldest fence marker that ring `r` still owes. -/
def State.ringMark (s : State) (r : Nat) : Option FenceMark := s.fence.marks.find? fun m => m.stream = .ring r

/-- Whether everything placed before TICK `f` on ring `r` has been made: `f` has passed by 16 cycles, and no interval whose start
lies before `f` is undecided (R115). -/
def State.ringPassed (s : State) (r f : Nat) : Bool :=
  decide (f + 16 ≤ s.tick) &&
  s.tdc.intervals.all fun p => !(p.2.enable && decide (p.2.ring = r) && p.2.starts.any fun x => decide (x.tick < f))

/-- The oldest marker of ring `r` is written, or waits for room with the losses before it (R115). -/
def State.ringPlaceMark (s : State) (r : Nat) (m : FenceMark) : State :=
  let s1 := { s with fence := { s.fence with marks := s.fence.marks.erase m } }
  let x := s1.tdc.rings.get r
  let loss := if x.lostRun = 0 then [] else [RingWait.loss x.lostRun x.lostTick]
  let s2 := s1.updRing r fun y => { y with waitMarks := y.waitMarks ++ loss ++ [.mark m.epoch], lostRun := 0 }
  s2.ringDrain r (s2.tdc.rings.get r).waiting

/-- A record of a kind other than HIT is written, unless earlier records of the ring still wait for its writer; then it waits in
its place among them (R105, R114). -/
def State.ringEmit (s : State) (r : Nat) (vs : List TdcRec) (tick : Nat) : State :=
  if !(s.tdc.rings.get r).enable then s.ringPut r vs tick
  else
    let held := match s.ringMark r with
      | some m => decide (m.f ≤ tick)
      | none => false
    if (s.ringNext r).isNone && !held then s.ringPut r vs tick
    else s.updRing r fun x => { x with
      queue := x.queue.takeWhile (fun q => q.tick ≤ tick) ++ [{ tick := tick, recs := vs }]
                 ++ x.queue.dropWhile (fun q => q.tick ≤ tick) }

/-- A LOST entry enters the FIFO of channel `c` once it has room for it and for a stamp behind it (R106). -/
def TdcChan.lossToFifo (x : TdcChan) : TdcChan :=
  if x.fifoLost ≠ 0 ∧ x.fifo.length + 2 ≤ 64 then
    { x with fifo := x.fifo ++ [{ lost := x.fifoLost, lostTick := x.fifoLostTick }], fifoLost := 0 }
  else x

/-- A stamp enters the hit FIFO, or is dropped and counted when there is no room (R105, R106). -/
def TdcChan.pushStamp (x : TdcChan) (v : Stamp) : TdcChan :=
  let y := x.lossToFifo
  if y.fifoLost = 0 ∧ y.fifo.length < 64 then { y with fifo := y.fifo ++ [{ stamp := v }] }
  else { y with lost := satAdd 32 y.lost 1, fifoLost := satAdd 32 y.fifoLost 1, lostSince := true
                fifoLostTick := if y.fifoLost = 0 then v.tick else y.fifoLostTick }

/-! ## The counts of a channel (R124) -/

/-- Count `i` of channel `c` among the fields that hardware increments (R11, R124). -/
def tdcKey (c i : Nat) : Nat := 0x20000000 + 8 * c + i

/-- HITS, BLANKED, LOST, RATE_EXCEEDED and GATE_IGNORED (R123). -/
def TdcChan.counts (x : TdcChan) : List Nat := [x.hits, x.blanked, x.lost, x.rateExceeded, x.gateIgnored]

/-- The five counts replaced. -/
def TdcChan.withCounts (x : TdcChan) (l : List Nat) : TdcChan :=
  { x with hits := l.getD 0 0, blanked := l.getD 1 0, lost := l.getD 2 0, rateExceeded := l.getD 3 0, gateIgnored := l.getD 4 0 }

/-- Hardware increments count `i` of channel `c` in this cycle. -/
def State.chanCount (s : State) (c i : Nat) : State := s.hwCount (tdcKey c i) ((s.tdc.chans.get c).counts.getD i 0)

/-- A read of the counts of channel `c` with CLEAR: what they held, an increment of this same cycle being kept for the next read (R124). -/
def State.chanClear (s : State) (c : Nat) : List Nat × State :=
  let cy := s.cycleNow
  let now := (s.tdc.chans.get c).counts
  let old := (List.range 5).map fun i => cy.before.getD (tdcKey c i) (now.getD i 0)
  let before := (List.range 5).foldl (fun t i => if t.has (tdcKey c i) then t.set (tdcKey c i) 0 else t) cy.before
  let s1 : State := { s with events := { s.events with cycle := { cy with before := before } } }
  (old, s1.updTdc c fun x => x.withCounts ((List.range 5).map fun i => now.getD i 0 - old.getD i 0))

/-- Channel `c` loses a stamp at TICK `t` that it could not form (R130): it is counted, and reported in a LOST record where the channel's
stamps go to a ring (R106). -/
def State.loseStamp (s : State) (c t : Nat) (toRing : Bool) : State :=
  (s.chanCount c 2).updTdc c fun y => { y with
    lost := satAdd 32 y.lost 1, lostSince := true, fifoLost := if toRing then satAdd 32 y.fifoLost 1 else y.fifoLost
    fifoLostTick := if toRing && decide (y.fifoLost = 0) then t else y.fifoLostTick }

/-- A stamp of channel `c` enters its hit FIFO. -/
def State.toFifo (s : State) (c : Nat) (v : Stamp) : State :=
  let x := s.tdc.chans.get c
  let y := x.pushStamp v
  (if y.lost = x.lost then s else s.chanCount c 2).updTdc c fun _ => y

/-- The ring writer writes the head of a channel's FIFO; a LOST record raises CHANNEL_LOST if it is the first after a loss-free
period, which an empty FIFO with no loss pending begins (R106, R126). -/
def State.writeHit (s : State) (r c : Nat) : State :=
  let x := s.tdc.chans.get c
  match x.fifo with
  | [] => s
  | e :: rest =>
    let y := { x with fifo := rest }.lossToFifo
    let period := if e.lost = 0 then !(y.fifo.isEmpty && decide (y.fifoLost = 0)) && x.lossPeriod else true
    let s1 := s.updTdc c fun _ => { y with lossPeriod := period }
    if e.lost = 0 then s1.ringPut r [hitRec c e.stamp] e.stamp.tick
    else
      let s2 := s1.ringPut r [lostRec c e.lost e.lostTick] e.lostTick
      if x.lossPeriod then s2 else s2.raise (tdcSrc c) Ev.channelLost

/-- The ring writer writes what `ringNext` names. -/
def State.writeNext (s : State) (r : Nat) (n : Nat × Option Nat) : State :=
  match n.2 with
  | some c => s.writeHit r c
  | none =>
    match (s.tdc.rings.get r).queue with
    | [] => s
    | g :: rest => (s.updRing r fun x => { x with queue := rest }).ringPut r g.recs g.tick

/-- The channel whose records are written next: that of the FIFO, or that which the record at the head of the queue names. -/
def State.nextChannel (s : State) (r : Nat) (n : Nat × Option Nat) : Nat :=
  match n.2 with
  | some c => c
  | none => match (s.tdc.rings.get r).queue with
    | g :: _ => (g.recs.headD {}).channel
    | [] => 512

/-- Whether the ring writer may write what `ringNext` names (R114): TICK has reached its place, and no interval of the ring is undecided whose
record must come before it, being of the same channel, or having a place that may lie more than 2.0 µs earlier. -/
def State.ringMay (s : State) (r : Nat) (n : Nat × Option Nat) : Bool :=
  decide (n.1 ≤ s.tick) && s.tdc.intervals.all fun p =>
    let x := p.2
    !(x.enable && decide (x.ring = r)) || match x.starts with
      | [] => true
      | a :: _ => if x.start = s.nextChannel r n then decide (n.1 ≤ a.tick) else decide (n.1 ≤ a.tick + 2 * usC)

/-- The markers that ring `r` owes up to a record placed at `p` are written, oldest first, as long as all that is placed before them has been
made; the flag says that none of them is left, so that the record may follow (R115). -/
def State.ringMarksTo (s : State) (r p : Nat) : Nat → State × Bool
  | 0 => (s, true)
  | n + 1 =>
    match s.ringMark r with
    | none => (s, true)
    | some m =>
      if p < m.f then (s, true)
      else if s.ringPassed r m.f then (s.ringPlaceMark r m).ringMarksTo r p n
      else (s, false)

/-- RING_WRITE (R105): A ring writer drains a record from a hit FIFO into its ring, or counts it lost if the ring is full or disabled. -/
def execRingWrite (ring : Nat) (s : State) : Out :=
  if 8 ≤ ring then .fault .noSuchObject
  else match s.ringNext ring with
    | none => .next s
    | some n =>
      if !s.ringMay ring n then .next s
      else
        let r := s.ringMarksTo ring n.1 s.fence.marks.length
        .next (if r.2 then r.1.writeNext ring n else r.1)

/-- The write of the marker that ring `r` owes, if everything placed before it has been written (R115, R466). -/
def State.ringMarkerDue (s : State) (r : Nat) : State :=
  match s.ringMark r with
  | none => s
  | some m =>
    let ahead := match s.ringNext r with
      | some n => decide (n.1 < m.f)
      | none => false
    if s.ringPassed r m.f && !ahead then s.ringPlaceMark r m else s

/-- RING_TIMEOUT (R111): A record has stayed unread in a TDC ring for IDLE_TIMEOUT. -/
def execRingTimeout (ring : Nat) (s : State) : Out :=
  if 8 ≤ ring then .fault .noSuchObject
  else
    let x := s.tdc.rings.get ring
    if x.fill = 0 ∨ x.idleTimeout = 0 ∨ x.timeoutSeen = some x.rd.toNat then .next s
    else
      let s1 := s.advance ((x.recs.get (x.rd.toNat % 4096)).written + x.idleTimeout * usC)
      .next ((s1.updRing ring fun y => { y with timeoutSeen := some y.rd.toNat }).raise (ringSrc ring) Ev.ringTimeout)

/-- RD_COUNT of ring `r` moves on to `value`, and what waits for room is written. -/
def State.ringAdvance (s : State) (r : Nat) (value : BitVec 32) : State :=
  let n := (s.tdc.rings.get r).waiting
  (s.updRing r fun y => { y with rd := value }).ringDrain r n

/-- RING_RD_COUNT_WRITE (R112): The host writes a TDC ring's RD_COUNT, which is ignored with RING_INDEX if it is out of order. -/
def execRingRdCountWrite (ring : Nat) (value : BitVec 32) (s : State) : Out :=
  if 8 ≤ ring then .fault .noSuchObject
  else
    let x := s.tdc.rings.get ring
    if s.streamOwned ring then .next (s.badAccess (0x00100008 + 0x40 * ring))
    else if x.fill < dist32 x.rd value then .next (s.raise (ringSrc ring) Ev.ringIndex)
    else .next (s.ringAdvance ring value)

/-! ## Regression (R118 to R121) -/

/-- Sums over stamps with edge indices 0, 1, …: of t, of n·t and of t², with t in U from `base`. -/
structure FitSums where
  st : Int
  snt : Int
  stt : Int
deriving DecidableEq, Repr, Inhabited

/-- The sums of the stamps `l`, the first of which has edge index `k`. -/
def fitSums (base : Int) : Nat → List Stamp → FitSums
  | _, [] => { st := 0, snt := 0, stt := 0 }
  | k, x :: xs =>
    let r := fitSums base (k + 1) xs
    let t := x.u - base
    { st := r.st + t, snt := r.snt + k * t, stt := r.stt + t * t }

/-- The integer square root by bits, from bit `k` down. -/
def isqrtFrom (v : Nat) : Nat → Nat → Nat
  | 0, r => r
  | k + 1, r => let c := r + 2 ^ k; if c * c ≤ v then isqrtFrom v k c else isqrtFrom v k r

/-- The square root of a number below 2^256, rounded down. -/
def isqrt (v : Nat) : Nat := isqrtFrom v 128 0

/-- A straight line through stamps (R118): the slope `a / b` in U per edge, the mean of the times from `base`, and the sum of
squares of the residuals as `res / (n · b)`. -/
structure Fit where
  n : Nat
  base : Int
  a : Int
  b : Nat
  sumT : Int
  res : Nat
deriving DecidableEq, Repr, Inhabited

/-- The line through at least two stamps. -/
def fitLine (l : List Stamp) : Fit :=
  let n := l.length
  let base := match l with | [] => 0 | x :: _ => x.u
  let f := fitSums base 0 l
  let sn : Int := n * (n - 1) / 2
  let snn : Int := n * (n - 1) * (2 * n - 1) / 6
  let b := (n * snn - sn * sn).toNat
  let a := n * f.snt - sn * f.st
  let c := n * f.stt - f.st * f.st
  { n := n, base := base, a := a, b := b, sumT := f.st, res := (c * b - a * a).toNat }

/-- PERIOD: the slope in CORE periods with 32 fractional bits (R108). -/
def Fit.period (f : Fit) : Int := roundDiv (f.a * 65536) f.b

/-- The value of the line at edge index `k`, in CORE periods with 32 fractional bits. -/
def Fit.at (f : Fit) (k : Nat) : Int :=
  let sn : Int := f.n * (f.n - 1) / 2
  f.base * 65536 + roundDiv ((f.sumT * f.b + f.a * (f.n * k - sn)) * 65536) (f.n * f.b)

/-- RESID: the RMS residual in U, rounded to the nearest. -/
def Fit.resid (f : Fit) : Nat :=
  let q := 4 * f.res / (f.n * f.b * (f.n - 2))
  (isqrt q + 1) / 2

/-- The three records of a regression result of channel `c`, over the stamps of its gate (R109, R118, R119). A residual that does not fit
RESID's 32 bits is given modulo 2^32 (DESIGN CHOICE, log entry 111: R108 gives the field and no rule for a larger value). -/
def TdcChan.result (x : TdcChan) (c : Nat) (trunc : Bool) : List TdcRec :=
  let l := x.regStamps
  let n := l.length
  let f := fitLine l
  let miss := decide (n < 3) || decide ((2 : Int) ^ 64 ≤ f.period)
  let fl := flag (l.any (·.stale)) flStale + flag x.blankedGate flLost + flag trunc flTrunc + flag miss flMiss
  let nref := (n - 1) / 2
  let fit := unsignedOf 96 (f.at nref)
  let z (v : Nat) := if miss then 0 else v
  [tdcRec 2 c fl n (z f.period.toNat), tdcRec 3 c fl (z (fit % 2 ^ 32)) (z (fit / 2 ^ 32)),
   tdcRec 4 c fl nref (z f.resid % 2 ^ 32 + 2 ^ 32 * x.edgesGate)]

/-- Channel `c` writes its pending regression result, placed at `tick` (R104, R118). -/
def State.writeResult (s : State) (c tick : Nat) (trunc : Bool) : State :=
  let x := s.tdc.chans.get c
  let s1 := s.updTdc c fun y => { y with regStamps := [] }
  match x.regression && x.enable, x.ring with
  | true, some r => s1.ringEmit r (x.result c trunc) tick
  | _, _ => s1

/-! ## Intervals (R116, R117) -/

/-- The stop that pairs with start `a`: not yet paired, within the window, the nearest, and of two equally near the earlier. -/
def nearestStop (a : Int) (w : Nat) : List Stamp → Option Stamp
  | [] => none
  | t :: ts =>
    let r := nearestStop a w ts
    if (t.u - a).natAbs ≤ w * 65536 then
      match r with
      | none => some t
      | some y => if (t.u - a).natAbs ≤ (y.u - a).natAbs then some t else some y
    else r

/-- The INTERVAL record of a start and its stop (R117), and its place (R114). -/
def intervalRec (k : Nat) (x : IntervalEng) (a : Stamp) (t : Option Stamp) : TdcRec × Nat :=
  let w1 := x.stop + 2 ^ 9 * k
  match t with
  | none => (tdcRec 1 x.start (flag a.stale flStale + flag a.lost flLost + flMiss) w1 0, a.tick)
  | some b =>
    let d := b.u - a.u
    let st := flag (a.stale || b.stale) flStale + flag a.lost flLost
    let place := max a.tick b.tick
    if d.natAbs ≤ 128 then (tdcRec 1 x.start (st + flCoincident) w1 0, place)
    else (tdcRec 1 x.start (st + flag (decide (d < 0)) flOrder) w1 (unsignedOf 64 d), place)

/-- The oldest start of engine `k` is decided over the stops held; with `miss`, without a stop. -/
def State.decideStart (s : State) (k : Nat) (miss : Bool) : State :=
  let x := s.tdc.intervals.get k
  match x.starts with
  | [] => s
  | a :: rest =>
    let t := if miss then none else nearestStop a.u x.window x.stops
    let stops := match t with | none => x.stops | some b => x.stops.erase b
    let x1 := { x with starts := rest, stops := stops.filter fun b => decide (a.u - x.window * 65536 ≤ b.u) }
    let r := intervalRec k x a t
    ({ s with tdc := { s.tdc with intervals := s.tdc.intervals.set k x1 } }).ringEmit x.ring [r.1] r.2

/-- Every pending start of engine `k` is decided at once. -/
def State.decideAll (s : State) (k : Nat) (miss : Bool) : Nat → State
  | 0 => s
  | n + 1 => (s.decideStart k miss).decideAll k miss n

/-- The stops that a start of engine `x` still to come may pair with: its corrected stamp lies no further back than the correction of its
channel (R97, R116). -/
def State.stopsLeft (s : State) (x : IntervalEng) : List Stamp :=
  x.stops.filter fun b => decide ((s.tick : Int) * 65536 - max 0 (s.correction x.start) - x.window * 65536 ≤ b.u)

/-- A stamp of channel `c` reaches the interval engines that take it as start or stop, before any FIFO (R105, R116). -/
def State.feedIntervals (s : State) (c : Nat) (v : Stamp) : State :=
  { s with tdc := { s.tdc with intervals := s.tdc.intervals.mapAll fun _ x =>
    if !x.enable then x
    else if x.start = c then { x with starts := x.starts ++ [v] }
    else if x.stop = c then
      let keep := if x.starts.isEmpty then s.stopsLeft x else x.stops
      { x with stops := keep ++ [v] }
    else x } }

/-- INTERVAL_RESULT (R116): An interval engine writes the result for a start stamp once no closer stop can arrive. -/
def execIntervalResult (engine : Nat) (s : State) : Out :=
  if 32 ≤ engine then .fault .noSuchObject
  else
    let x := s.tdc.intervals.get engine
    match x.starts with
    | [] => .next s
    | a :: _ =>
      if x.stops.any fun b => decide (a.u ≤ b.u) then .next (s.decideStart engine false)
      else .next ((s.advanceTick (a.tick + x.window + 1)).decideStart engine false)

/-! ## Gates (R101 to R104) -/

/-- The channels of group `g`. -/
def groupChans (g : Nat) : List Nat := (List.range 8).map (280 + 8 * g + ·)

/-- The group of an event channel. -/
def groupOf (c : Nat) : Nat := (c - 280) / 8

/-- The enabled rings that an enabled channel of group `g` feeds (R103). -/
def State.groupRings (s : State) (g : Nat) : List Nat :=
  (List.range 8).filter fun r =>
    (s.tdc.rings.get r).enable && (groupChans g).any fun c =>
      (s.tdc.chans.get c).enable && decide ((s.tdc.chans.get c).ring = some r)

/-- A gate record goes to every ring that the group feeds. -/
def State.gateRecord (s : State) (g : Nat) (v : TdcRec) (tick : Nat) : State :=
  (s.groupRings g).foldl (fun s r => s.ringEmit r [v] tick) s

/-- The gate of group `g` opens at `tick`, before any edge that waits for it (R100, R101, R103). -/
def State.gateOpen (s : State) (g tick : Nat) : State :=
  let x := s.tdc.groups.get g
  let x1 := { x with
    open_ := true, openTick := tick, maxEnd := some (tick + cyclesOf x.maxLen)
    pulseEnd := if x.mode = 1 ∨ x.mode = 3 then some (tick + cyclesOf x.pulseLen) else none }
  let s1 := s.updGroup g fun _ => x1
  let s2 := (groupChans g).foldl (fun s c => s.updTdc c fun y => { y with
    preCount := 0, edgesGate := 0, blankedGate := false, rateRaised := false, silentRaised := false, regStamps := [] }) s1
  s2.gateRecord g (tdcRec 5 (280 + 8 * g) 0 g tick) tick

/-- The stamps of channel `c` that lie at or after its gate's close instant `tick` are no stamps of the gate (R101, R104): none of them is left
in its regression, its FIFO or an interval engine. -/
def State.retract (s : State) (c tick : Nat) : State :=
  let s1 := s.updTdc c fun y => { y with
    regStamps := y.regStamps.filter fun v => decide (v.tick < tick)
    fifo := y.fifo.filter fun e => decide (e.lost ≠ 0 ∨ e.stamp.tick < tick) }
  { s1 with tdc := { s1.tdc with intervals := s1.tdc.intervals.mapAll fun _ x => { x with
      starts := if x.start = c then x.starts.filter (fun v => decide (v.tick < tick)) else x.starts
      stops := if x.stop = c then x.stops.filter (fun v => decide (v.tick < tick)) else x.stops } } }

/-- The gate of group `g` closes at `tick` with a cause code (0 pin or software, 1 TIMEOUT, 2 end of pulse length); its channels that are in
service write their regression results (R101, R103, R118, R132). -/
def State.gateClose (s : State) (g tick cause : Nat) (trunc : Bool) : State :=
  let s1 := s.updGroup g fun x => { x with open_ := false, closeTick := tick, maxEnd := none, pulseEnd := none }
  let s2 := (groupChans g).foldl (fun s c => let t := s.retract c tick; if t.inService c then t.writeResult c tick trunc else t) s1
  let s3 := s2.gateRecord g (tdcRec 6 (280 + 8 * g) (flag trunc flTrunc) (g + 4 * cause) tick) tick
  if cause = 1 then s3.raise (544 + 8 * g) Ev.gateTimeout else s3

/-- A new active edge on an open PULSE gate is counted on every channel of the group (R101). -/
def State.countIgnored (s : State) (g : Nat) : State :=
  (groupChans g).foldl (fun s c => (s.chanCount c 4).updTdc c fun y => { y with gateIgnored := satAdd 32 y.gateIgnored 1 }) s

/-! ## Event inputs (R98 to R100) -/

/-- The blanking interval of an event channel in U (R98). -/
def TdcChan.blanking (x : TdcChan) : Nat := max 4 x.holdoff * 65536

/-- The 1 µs window of TICK that an accepted edge falls in counts it (R99). -/
def TdcChan.countWindow (x : TdcChan) (tick : Nat) : TdcChan :=
  if x.winIndex = tick / usC then { x with winEdges := x.winEdges + 1 }
  else { x with winIndex := tick / usC, winEdges := 1 }

/-- A LIVE code-density edge enters the histogram of a running region until the channel has its H hits (R133, R135). -/
def State.liveEdge (s : State) (c code : Nat) : State :=
  match regionOf c with
  | some r =>
    let scatter := if r = 18 then s.gauge.scatter18 else s.gauge.scatter19
    if (r = 18 || r = 19) && !scatter && decide ((s.gauge.regions.get r).state = .running) && (s.gauge.chans.get c).inRun
        && decide ((s.gauge.chans.get c).hist.foldl (fun b p => b + p.2) 0 < 2 ^ s.gauge.target) then
      s.updCG c fun g => { g with hist := g.hist.upd code (· + 1) }
    else s
  | none => s

/-- Channel `c` makes a stamp that is one of its own (R140): the interval engines, the code counts and the last stamp take it. -/
def State.takeStamp (s : State) (c : Nat) (v : Stamp) : State :=
  (((s.chanCount c 0).updTdc c fun x => { x with hits := satAdd 32 x.hits 1, lastStamp := v, lostSince := false }).updCG c fun g =>
    { g with own := g.own.upd (v.phase * 32 + v.fine) (· + 1) }).feedIntervals c v

/-- The close instant of a gate as far as it is known: that of a closed gate, or of an open one the earlier of the ends of its pulse length
and of its maximum length; none while neither is set. -/
def GateGrp.closeAt (x : GateGrp) : Option Nat :=
  if !x.open_ then some x.closeTick
  else match x.pulseEnd, x.maxEnd with
    | some p, some m => some (min p m)
    | some p, none => some p
    | none, m => m

/-- Whether the stamp lies inside the gate of a group, which is open or has closed (R101, R104): at or after the open instant, and before the
close instant. -/
def GateGrp.inside (x : GateGrp) (v : Stamp) : Bool :=
  decide (x.openTick ≤ v.tick) && (match x.closeAt with | some t => decide (v.tick < t) | none => true)

/-- An accepted edge of an event channel inside its gate is prescaled and stamped (R100, R105, R118); the second result says
whether it was stamped. At 2^32 - 1 stamps the gate closes behind the last of them with TRUNC and cause 0, for which R108 has no code (DESIGN
CHOICE, log entry 111), and a CONTINUOUS gate opens again. -/
def State.gatedEdge (s : State) (c : Nat) (v : Stamp) : State × Bool :=
  let g := s.tdc.groups.get (groupOf c)
  let x := s.tdc.chans.get c
  let p := if x.preCount + 1 < x.prescaler then x.preCount + 1 else 0
  let s1 := s.updTdc c fun y => { y with preCount := p, edgesGate := satAdd 32 y.edgesGate 1 }
  if x.preCount ≠ 0 then (s1, false)
  else
    let s2 := s1.takeStamp c v
    let s3 := s2.updTdc c fun y => if y.regression && g.open_ then { y with regStamps := y.regStamps ++ [v] } else y
    let s4 := if x.ring.isSome then s3.toFifo c v else s3
    if x.regression && g.open_ && decide (x.regStamps.length + 1 = 2 ^ 32 - 1) then
      let s5 := s4.gateClose (groupOf c) (v.tick + 1) 0 true
      (if g.mode = 3 then s5.gateOpen (groupOf c) (v.tick + 1) else s5, true)
    else (s4, true)

/-! ## What follows a stamp (R245, R252, R262) -/

/-- A stitch is on its way to the sequencer, which it reaches at its arrival instant. -/
def State.stitchSend (s : State) (q : QStitch) : State :=
  let l := s.stitch.arriving
  let before := l.filter fun x => decide (x.arrive ≤ q.arrive)
  let after := l.filter fun x => !decide (x.arrive ≤ q.arrive)
  { s with stitch := { s.stitch with arriving := before ++ [q] ++ after } }

/-- A stamp of an event channel reaches the trigger sources bound to it (R245). The payload carries the sequence number that the
trigger found, so that the first after a sequence reset carries the start value. -/
def State.triggers (s : State) (ch : Nat) (v : Stamp) : State :=
  (List.range 8).foldl (fun s n =>
    let x := s.stitch.trigs.get n
    if !x.enable || decide (x.channel ≠ ch) then s
    else
      let u := v.u.toNat
      let near := match x.last with | some l => decide (u * 4 < l * 4 + x.spacing * 5) | none => false
      if near then { s with stitch := { s.stitch with trigSpacing := inc32 s.stitch.trigSpacing } }
      else
        let y := { x with last := some u, seq := x.seq + 1 }
        let s1 := { s with stitch := { s.stitch with trigs := s.stitch.trigs.set n y } }
        s1.stitchSend { type := 1, target := x.target, payload := x.kind * 2 ^ 32 + x.seq.toNat
                        arrive := v.tick + 24, ready := v.tick + 88 }) s

/-- A stamp of TDC channel `ch` reaches the machine-clock channels: as a sample of the window, and as a marker edge (R252, R262). -/
def State.feedClocks (s : State) (ch : Nat) (v : Stamp) : State :=
  { s with stitch := { s.stitch with mc := s.stitch.mc.mapAll fun _ x =>
    if !x.enable then x
    else
      let source := decide ((x.srcKind = 0 ∧ x.srcIdx = ch) ∨ (x.srcKind = 1 ∧ 264 + x.srcIdx = ch))
      let marker := decide ((x.markSrc = 0 ∧ x.markIdx = ch) ∨ (x.markSrc = 1 ∧ 264 + x.markIdx = ch))
      let y := if source then { x with stamps := x.stamps ++ [v], lastSeen := s.now } else x
      if marker then { y with marks := y.marks ++ [v] } else y } }

/-- What a stamp of event channel `c` feeds beside its ring: triggers and machine-clock channels (R245, R252). -/
def State.stampOut (s : State) (c : Nat) (v : Stamp) : State := (s.triggers c v).feedClocks c v

/-- The edges of channel `c` that came before their gate: those inside it now are stamped, and none waits any longer (R101). -/
def State.takeEarly (s : State) (c : Nat) : State :=
  let l := (s.tdc.chans.get c).early
  l.foldl (fun (t : State) v =>
    if (t.tdc.groups.get (groupOf c)).inside v then
      let r := t.gatedEdge c v
      if r.2 then r.1.stampOut c v else r.1
    else t)
    (s.updTdc c fun y => { y with early := [] })

/-- The gate of group `g` opens at `tick`, and the edges that came before it with stamps inside it are stamped (R101). -/
def State.gateStart (s : State) (g tick : Nat) : State := (groupChans g).foldl State.takeEarly (s.gateOpen g tick)

/-- An edge at the input of event channel `c` (R98 to R101): whether it was stamped, and with what. -/
def State.eventEdge (s : State) (c tick phase fine : Nat) (falling : Bool) : State × Option Stamp :=
  let s0 := s.updTdc c fun y => { y with level := !falling && !y.inputOpen }
  let x := s0.tdc.chans.get c
  let kind := decide (x.edge = 2) || decide ((x.edge = 1) = falling)
  if !x.enable || x.inputOpen || !kind || !s0.inService c then (s0, none)
  else
    let u := tick * 65536 + s0.centreOf c (phase * 32 + fine)
    let blank := match x.lastEdge with | some l => decide (u < l + x.blanking) | none => false
    let g := s0.tdc.groups.get (groupOf c)
    if blank then
      ((s0.chanCount c 1).updTdc c fun y => { y with blanked := satAdd 32 y.blanked 1, blankedGate := y.blankedGate || g.open_ }, none)
    else
      let s1 := (s0.updTdc c fun y => { y with lastEdge := some u }.countWindow tick).liveEdge c (phase * 32 + fine)
      let v := s1.makeStamp c tick phase fine falling
      let ahead := decide (s1.tick < v.tick ∨ (g.open_ ∧ g.openTick ≤ v.tick))
      if !g.inside v then (if ahead && x.dllLocked then s1.updTdc c fun y => { y with early := y.early ++ [v] } else s1, none)
      else if !x.dllLocked then (s1.loseStamp c v.tick x.ring.isSome, none)
      else
        let r := s1.gatedEdge c v
        (r.1, if r.2 then some v else none)

/-- An edge at a channel that is armed without a gate and feeds the interval engines: a reference or machine clock, the test pulse and the PPS_OUT
loopbacks (R95). Its stamps go to no ring: R95 says 'optionally a ring' or 'rings', but no command names a ring for these channels (DESIGN
CHOICE, log entry 111). -/
def State.plainEdge (s : State) (c tick phase fine : Nat) (falling : Bool) : State × Option Stamp :=
  if !s.armed c || !s.inService c then (s, none)
  else if !(s.tdc.chans.get c).dllLocked then (s.loseStamp c tick false, none)
  else
    let v := s.makeStamp c tick phase fine falling
    (s.takeStamp c v, some v)

/-! ## Gate rows (R101 to R103, R113) -/

/-- GATE_PIN_CHANGE (R102): A filtered GATE pin level changes and opens or closes the gate in LEVEL or PULSE mode. -/
def execGatePinChange (group : Nat) (level : Bool) (tick : Nat) (s : State) : Out :=
  if 4 ≤ group then .fault .noSuchObject
  else
    let s1 := s.advanceTick tick
    let x := s1.tdc.groups.get group
    if x.pin = level then .next s1
    else
      let s2 := s1.updGroup group fun y => { y with pin := level }
      let active := level != x.activeLow
      match x.mode, active with
      | 0, true => .next (if x.open_ then s2 else s2.gateStart group tick)
      | 0, false => .next (if x.open_ then s2.gateClose group tick 0 false else s2)
      | 1, true => .next (if x.open_ then s2.countIgnored group else s2.gateStart group tick)
      | _, _ => .next s2

/-- A write of `value` to SW_GATE_OPEN (R103, R113). -/
def State.swGateOpen (s : State) (value : Nat) : State :=
  (List.range 4).foldl (fun s g =>
    let x := s.tdc.groups.get g
    if value.testBit g && decide (x.mode = 2) && !x.open_ then s.gateStart g s.tick else s) s

/-- A write of `value` to SW_GATE_CLOSE (R103, R113). -/
def State.swGateClose (s : State) (value : Nat) : State :=
  (List.range 4).foldl (fun s g =>
    let x := s.tdc.groups.get g
    if value.testBit g && decide (x.mode = 2) && x.open_ then s.gateClose g s.tick 0 false else s) s

/-- SW_GATE_OPEN (R103): A register write opens the gate of a group in SOFTWARE mode. -/
def execSwGateOpen (value : BitVec 32) (s : State) : Out :=
  .next (s.swGateOpen value.toNat)

/-- SW_GATE_CLOSE (R103): A register write closes the gate of a group in SOFTWARE mode. -/
def execSwGateClose (value : BitVec 32) (s : State) : Out :=
  .next (s.swGateClose value.toNat)

/-- GATE_PULSE_END (R101): The pulse length of a PULSE or CONTINUOUS gate ends and closes it, reopening it in CONTINUOUS mode. -/
def execGatePulseEnd (group : Nat) (s : State) : Out :=
  if 4 ≤ group then .fault .noSuchObject
  else
    let x := s.tdc.groups.get group
    match x.pulseEnd, x.maxEnd with
    | some p, some m =>
      if x.open_ && decide (p ≤ m) then
        let s1 := (s.advanceTick p).gateClose group p 2 false
        .next (if x.mode = 3 then s1.gateStart group p else s1)
      else .next s
    | _, _ => .next s

/-- GATE_TIMEOUT (R101): A gate stays open for the maximum gate length and is closed with cause TIMEOUT. -/
def execGateTimeout (group : Nat) (s : State) : Out :=
  if 4 ≤ group then .fault .noSuchObject
  else
    let x := s.tdc.groups.get group
    match x.maxEnd with
    | some m =>
      let pulseFirst := match x.pulseEnd with | some p => decide (p ≤ m) | none => false
      if x.open_ && !pulseFirst then .next ((s.advanceTick m).gateClose group m 1 true) else .next s
    | none => .next s

/-! ## Input rows (R99) -/

/-- INPUT_OPEN (R99): The fail-safe detects an open or shorted event input and stops stamping. -/
def execInputOpen (input : Nat) (s : State) : Out :=
  if 32 ≤ input then .fault .noSuchObject
  else
    let c := 280 + input
    if (s.tdc.chans.get c).inputOpen then .next s
    else .next ((s.updTdc c fun x => { x with inputOpen := true, level := false }).raise (tdcSrc c) Ev.inputOpen)

/-- INPUT_RECOVERED (R99): An event input whose fail-safe was active recovers, INPUT_OPEN is cleared and stamping resumes. -/
def execInputRecovered (input : Nat) (level : Bool) (s : State) : Out :=
  if 32 ≤ input then .fault .noSuchObject
  else .next (s.updTdc (280 + input) fun x => if x.inputOpen then { x with inputOpen := false, level := level } else x)

/-- RATE_WINDOW (R99): A 1 µs window of TICK ends and RATE_EXCEEDED is raised if accepted edges passed the hit-rate limit. -/
def execRateWindow (ch : Nat) (s : State) : Out :=
  if ch < 280 ∨ 312 ≤ ch then .fault .noSuchObject
  else
    let x := s.tdc.chans.get ch
    let s1 := s.advanceTick ((x.winIndex + 1) * usC)
    let s2 := s1.updTdc ch fun y => { y with winEdges := 0 }
    if x.enable && decide (x.rateLimit ≠ 0) && decide (x.rateLimit < x.winEdges) then
      let s3 := (s2.chanCount ch 3).updTdc ch fun y => { y with rateExceeded := satAdd 32 y.rateExceeded 1, rateRaised := true }
      .next (if x.rateRaised then s3 else s3.raise (tdcSrc ch) Ev.rateExceeded)
    else .next s2

/-- SILENT (R99): No edge has been accepted in an open gate for the silence timeout. -/
def execSilent (ch : Nat) (s : State) : Out :=
  if ch < 280 ∨ 312 ≤ ch then .fault .noSuchObject
  else
    let x := s.tdc.chans.get ch
    let g := s.tdc.groups.get (groupOf ch)
    if x.enable && g.open_ && decide (x.silence ≠ 0) && !x.silentRaised then
      let from_ := max g.openTick (match x.lastEdge with | some u => u / 65536 | none => 0)
      .next (((s.advanceTick (from_ + cyclesOf x.silence)).updTdc ch fun y => { y with silentRaised := true }).raise
        (tdcSrc ch) Ev.silent)
    else .next s

/-! ## Lane taps and lane regression (R51, R120 to R122) -/

/-- TAP_EDGE (R51): A lane's divided phase-tap edge is stamped and fed to the lane regression engine. -/
def execTapEdge (lane tick phase fine : Nat) (s : State) : Out :=
  if 264 ≤ lane then .fault .noSuchObject
  else
    let s0 := s.advanceTick tick
    let s1 := if (s0.lanes.get lane).state = .casting then s0.updLane lane fun y => { y with tapOn := true } else s0
    if !s1.armed lane || !s1.inService lane then .next s1
    else if !(s1.tdc.chans.get lane).dllLocked then
      let x := s1.tdc.chans.get lane
      .next (s1.loseStamp lane tick (x.capturing && decide (x.capCount = 0)))
    else
      let v := s1.makeStamp lane tick (phase % 16) (fine % 32) false
      let s2 := (s1.takeStamp lane v).updTdc lane fun x => { x with winStamps := x.winStamps ++ [v] }
      let x := s2.tdc.chans.get lane
      if !x.capturing then .next s2
      else
        let s3 := s2.updTdc lane fun y => { y with capCount := if y.capCount + 1 < y.capD then y.capCount + 1 else 0 }
        .next (if x.capCount = 0 then s3.toFifo lane v else s3)

/-- The frequency offset y = 1,024 ÷ PERIOD − 1 in 2^-8 ppb, as 32 bits signed (R121). -/
def Fit.tapOffset (f : Fit) : Int :=
  if f.a ≤ 0 then 0
  else clampInt (-(2 ^ 31)) (2 ^ 31 - 1)
    (roundDiv ((1024 * 65536 * f.b - f.a) * 256000000000) f.a.toNat)

/-- The lane window in CORE cycles: index k of R120's list is 2^k times 0.125 ms. -/
def winCycles (k : Nat) : Nat := 156250 * 2 ^ k

/-- Whether `n` stamps are at least half of those expected in window `k` (R121). -/
def enoughTaps (k n : Nat) : Bool := decide (1220703125 * 2 ^ k ≤ n * 16000000)

/-- A time `t` of a periodic edge moved on by whole periods to the one nearest to `goal`. -/
def wholePeriods (t period goal : Int) : Int :=
  if period ≤ 0 then t else t + roundDiv (goal - t) period.toNat * period

/-- A lane's fitted time as its consumers use it (R141): the fit with the build-outs, or while the window is STALE the last one advanced by whole
tap periods of the frequency that the stale window measured. -/
def TdcChan.coasted (x : TdcChan) (fit period : Nat) (stale : Bool) : Nat :=
  let new : Int := fit + x.buildOut * 65536
  match stale, x.coastTick with
  | true, some t => unsignedOf 96 (wholePeriods t period new)
  | _, _ => unsignedOf 96 new

/-- A lane's engine closes its window, the `n`-th of all (R121): it publishes, or ages. -/
def TdcChan.closeWindow (x : TdcChan) (k n : Nat) (inService : Bool) : TdcChan :=
  let l := x.winStamps
  let y := { x with winStamps := [], winBad := false }
  if enoughTaps k l.length && !x.winBad && x.dllLocked && inService then
    let f := fitLine l
    let fit := unsignedOf 96 (f.at (l.length - 1))
    let stale := l.any (·.stale)
    { y with
      fitTick := fit, period := f.period.toNat, yOff := f.tapOffset
      nStamps := l.length, resid := f.resid, valid := true, staleWin := stale, validAt := n
      coastTick := some (x.coasted fit f.period.toNat stale) }
  else { y with valid := false }

/-- AGE of lane `c`: the windows closed since its last VALID one (R121). -/
def State.laneAge (s : State) (c : Nat) : Nat := min (2 ^ 32 - 1) (s.tdc.windows - (s.tdc.chans.get c).validAt)

/-- Every lane engine closes its window (R120, R121): one that has never made a stamp publishes nothing and only ages. -/
def State.closeLaneWindows (s : State) : State :=
  let n := s.tdc.windows + 1
  { s with tdc := { s.tdc with
    windows := n
    chans := s.tdc.chans.mapAll fun c x => if c < 264 then x.closeWindow s.tdc.laneWin n (s.inService c) else x } }

/-- A pending window length takes effect at a boundary common to both lengths (R120). -/
def State.applyLaneWin (s : State) (t : Nat) : State :=
  match s.tdc.laneWinNext with
  | none => s
  | some k =>
    if t % winCycles (max k s.tdc.laneWin) = 0 then { s with tdc := { s.tdc with laneWin := k, laneWinNext := none } } else s

/-! ## Commands (R123, R124) -/

/-- Event channel `c` is out of its gate as if disabled: it writes its pending result with TRUNC, and the intervals it started
are written with MISS (R104, R132). -/
def State.truncateChan (s : State) (c : Nat) : State :=
  let s1 := if (s.tdc.groups.get (groupOf c)).open_ then s.writeResult c s.tick true else s
  s1.tdc.intervals.foldl (fun s p =>
    if p.2.enable && decide (p.2.start = c) then s.decideAll p.1 true p.2.starts.length else s) s1

/-- Whether configuration `b` of a channel differs from `a` in more than being disabled (R104). -/
def TdcChan.sameSettings (a b : TdcChan) : Bool :=
  decide (a.edge = b.edge ∧ a.hyst = b.hyst ∧ a.holdoff = b.holdoff ∧ a.prescaler = b.prescaler ∧ a.ring = b.ring ∧
    a.regression = b.regression ∧ a.offset = b.offset ∧ a.rateLimit = b.rateLimit ∧ a.silence = b.silence)

/-- What the own checks and effect of TDC_CONFIGURE_EVT come to (R123). -/
def bodyTdcConfigureEvt (enable regression : Bool) (channel edge hyst holdoff prescaler ring : Nat) (offset : Int) (rateLimit silence : Nat) (s : State) : Rep :=
  Rep.ranges [decide (280 ≤ channel ∧ channel < 312),
      decide (edge < 2 ∨ (edge = 2 ∧ prescaler ≤ 1 ∧ regression = false)), decide (hyst < 4), decide (holdoff < 16),
      decide (1 ≤ prescaler ∧ prescaler ≤ 65536), decide (ring ≤ 8),
      decide (-(100 * nsU : Int) ≤ offset ∧ offset ≤ 100 * nsU), decide (rateLimit ≤ 312),
      decide (silence = 0 ∨ (usU ≤ silence ∧ silence ≤ 100 * secU))] <|
    let x := s.tdc.chans.get channel
    let g := s.tdc.groups.get (groupOf channel)
    let y := { x with
      enable := enable, edge := edge, hyst := hyst, holdoff := holdoff, prescaler := prescaler
      ring := if ring < 8 then some ring else none, regression := regression, offset := offset
      rateLimit := rateLimit, silence := silence }
    if g.open_ && !(x.sameSettings y && (!enable || x.enable)) then .badState
    else
      let off := x.enable && !enable
      let s1 := if off && g.open_ then s.truncateChan channel else s
      let s2 := if off then
          s1.tdc.intervals.foldl (fun s p =>
            if p.2.enable && decide (p.2.stop = channel) then s.decideAll p.1 false p.2.starts.length else s) s1
        else s1
      let s3 := if off then s2.updCG channel fun c => { c with inRun := false } else s2
      .ok (s3.updTdc channel fun z => { z with
        enable := enable, edge := edge, hyst := hyst, holdoff := holdoff, prescaler := prescaler
        ring := y.ring, regression := regression, offset := offset, rateLimit := rateLimit, silence := silence
        early := if enable then z.early else [] }) []

/-- What the own checks and effect of TDC_CONFIGURE_GROUP come to (R101). -/
def bodyTdcConfigureGroup (group mode level pulse maxLen : Nat) (s : State) : Rep :=
  Rep.ranges [decide (group < 4), decide (mode < 4), decide (level < 2),
      decide (usU ≤ pulse ∧ pulse ≤ 1000 * secU ∧ (mode = 3 → pulse ≤ maxLen)),
      decide (usU ≤ maxLen ∧ maxLen ≤ 1000 * secU)] <|
    if (s.tdc.groups.get group).open_ then .badState
    else
      let s1 := s.updGroup group fun x => { x with
        mode := mode, activeLow := decide (level = 1), pulseLen := pulse, maxLen := maxLen }
      .ok (if mode = 3 then s1.gateStart group s1.tick else s1) []

/-- The channels an interval engine may take (R116). -/
def intervalChan (c : Nat) : Bool := decide ((264 ≤ c ∧ c < 312) ∨ c = 316 ∨ c = 318 ∨ c = 319)

/-- A window in 2^-16 ns as a whole number of CORE cycles of 0.8 ns, if it is the nearest value to one (R116, R123). -/
def gridCycles (d : Nat) : Option Nat :=
  let k := (10 * d + 262144) / 524288
  if (2 * 262144 * k + 5) / 10 = d then some k else none

/-- What the own checks and effect of TDC_SET_INTERVAL come to (R116). -/
def bodyTdcSetInterval (enable : Bool) (engine start stop window ring : Nat) (s : State) : Rep :=
  let w := gridCycles window
  Rep.ranges [decide (engine < 32), intervalChan start, intervalChan stop && decide (start ≠ stop),
      decide (1 ≤ w.getD 0 ∧ w.getD 0 ≤ 1250000), decide (ring < 8)] <|
    let x := s.tdc.intervals.get engine
    let s1 := if x.enable then s.decideAll engine false x.starts.length else s
    let y : IntervalEng := { enable := enable, start := start, stop := stop, window := w.getD 0, ring := ring }
    .ok { s1 with tdc := { s1.tdc with intervals := s1.tdc.intervals.set engine y } } []

/-- What the own checks and effect of TDC_GET_CHANNEL come to (R124). -/
def bodyTdcGetChannel (clear : Bool) (channel : Nat) (s : State) : Rep :=
  Rep.ranges [decide (channel < 320)] <|
    let x := s.tdc.chans.get channel
    let r := if clear then s.chanClear channel else (x.counts, s)
    .ok r.2 ([.u 1 (if s.armed channel then 1 else 0), .u 1 (if x.inputOpen then 1 else 0)] ++ r.1.map (Fld.u 4) ++
      [.u 8 x.lastStamp.tick, .u 4 x.lastStamp.sub])

/-- What the own checks and effect of TDC_GET_LANE come to (R121). -/
def bodyTdcGetLane (lane : Nat) (s : State) : Rep :=
  Rep.ranges [decide (lane < 264)] <|
    let x := s.tdc.chans.get lane
    .ok s [.u 8 (x.fitTick / 2 ^ 32), .u 4 (x.fitTick % 2 ^ 32), .u 8 x.period, .i 4 x.yOff, .u 4 x.nStamps, .u 4 x.resid,
      .u 1 (if x.valid then 1 else 0), .u 1 (if x.staleWin then 1 else 0), .u 4 (s.laneAge lane)]

/-- What the own checks and effect of TDC_SET_LANE_WINDOW come to (R120). -/
def bodyTdcSetLaneWindow (w : Nat) (s : State) : Rep :=
  Rep.ranges [decide (w < 8)] <|
    .ok { s with tdc := { s.tdc with laneWinNext := if w = s.tdc.laneWin then none else some w } } []

/-- What the own checks and effect of TDC_CAPTURE_TAP come to (R122). -/
def bodyTdcCaptureTap (lane action ring d : Nat) (s : State) : Rep :=
  Rep.ranges [decide (lane < 264), decide (action < 2), decide (ring < 8 ∧ (action = 1 → ring = 0)),
      decide (if action = 0 then 1 ≤ d ∧ d ≤ 65536 else d = 0)] <|
    let captured := (s.tdc.chans.get lane).capturing
    if action = 0 then
      if 8 ≤ ((s.tdc.chans.filter fun p => p.2.capturing)).length then .fail stBusy []
      else .ok (s.updTdc lane fun x => { x with capRing := some ring, capturing := true, capD := d, capCount := 0 }) []
    else if !captured then .badState
    else .ok (s.updTdc lane fun x => { x with capturing := false }) []

/-- TDC_CONFIGURE_EVT (R123): Configures an event channel's edge, filters, prescaler, ring, regression, offset and limits. -/
def execTdcConfigureEvt (src : CmdSrc) (enable regression : Bool) (channel edge hyst holdoff prescaler ring : Nat) (offset : Int) (rateLimit silence : Nat) (s : State) : Out :=
  .next (s.runCmd (.tdcConfigureEvt src enable regression channel edge hyst holdoff prescaler ring offset rateLimit silence) src 0x0801 (bodyTdcConfigureEvt enable regression channel edge hyst holdoff prescaler ring offset rateLimit silence))

/-- TDC_CONFIGURE_GROUP (R101): Sets a gate group's mode, level and lengths. -/
def execTdcConfigureGroup (src : CmdSrc) (group mode level pulse maxLen : Nat) (s : State) : Out :=
  .next (s.runCmd (.tdcConfigureGroup src group mode level pulse maxLen) src 0x0802 (bodyTdcConfigureGroup group mode level pulse maxLen))

/-- TDC_SET_INTERVAL (R116): Configures an interval engine's start and stop channels, window and ring. -/
def execTdcSetInterval (src : CmdSrc) (enable : Bool) (engine start stop window ring : Nat) (s : State) : Out :=
  .next (s.runCmd (.tdcSetInterval src enable engine start stop window ring) src 0x0803 (bodyTdcSetInterval enable engine start stop window ring))

/-- TDC_GET_CHANNEL (R124): Returns a channel's counts and last stamp, clearing the counts if asked. -/
def execTdcGetChannel (src : CmdSrc) (clear : Bool) (channel : Nat) (s : State) : Out :=
  .next (s.runCmd (.tdcGetChannel src clear channel) src 0x0804 (bodyTdcGetChannel clear channel))

/-- TDC_GET_LANE (R121): Returns a lane regression engine's published values, VALID, STALE and AGE. -/
def execTdcGetLane (src : CmdSrc) (lane : Nat) (s : State) : Out :=
  .next (s.runCmd (.tdcGetLane src lane) src 0x0805 (bodyTdcGetLane lane))

/-- TDC_SET_LANE_WINDOW (R120): Requests a new lane window length, taking effect at the first common boundary. -/
def execTdcSetLaneWindow (src : CmdSrc) (w : Nat) (s : State) : Out :=
  .next (s.runCmd (.tdcSetLaneWindow src w) src 0x0806 (bodyTdcSetLaneWindow w))

/-- TDC_CAPTURE_TAP (R122): Starts or stops copying a lane's raw tap stamps into a ring. -/
def execTdcCaptureTap (src : CmdSrc) (lane action ring d : Nat) (s : State) : Out :=
  .next (s.runCmd (.tdcCaptureTap src lane action ring d) src 0x0807 (bodyTdcCaptureTap lane action ring d))


end Sys2Proof.Machine
end

