-- ==== Sys2Proof/Machine/Gauge.lean ====
section
/-!
DEFINITION. The gauge: temperature of a region, full calibration, regional runs, commits, copies and restores (R127 to R149).
-/
namespace Sys2Proof.Machine

/-! ## Temperatures (R127, R128, R536) -/

/-- The mean of a list of readings, rounded; none of an empty list. -/
def meanOf (l : List Int) : Option Int :=
  if l.isEmpty then none else some (roundDiv (l.foldl (· + ·) 0) l.length)

/-- Whether a sensor's reading is used (R128, R536). -/
def Sensor.valid (x : Sensor) : Bool := !x.faulty && !x.hostMark && !x.readings.isEmpty

/-- The mean of the last 16 readings of sensor `n`, if it is valid. -/
def State.sensorMean (s : State) (n : Nat) : Option Int :=
  let x := s.power.sensors.get n
  if x.valid then meanOf (x.readings.take 16) else none

/-- The mean over the valid ones of a list of sensors. -/
def State.meanOver (s : State) (l : List Nat) : Option Int := meanOf (l.filterMap s.sensorMean)

/-- The sensor of a region (R127). -/
def regionSensor (r : Nat) : Nat :=
  if r < 16 then r else if r = 16 then 0 else if r = 17 then 5 else if r = 18 then 6 else if r = 19 then 9 else 10

/-- The scatter oscillator of a region (R127). -/
def regionScatter (r : Nat) : Nat :=
  if r < 16 then r / 4 else if r = 16 then 0 else if r = 17 then 1 else if r = 18 ∨ r = 19 then 2 else 3

/-- The sensors that stand in for that of a region (R128). -/
def standInSensors (r : Nat) : List Nat :=
  if r < 16 then ((List.range 4).map (4 * (r / 4) + ·)).filter (· ≠ r)
  else if r = 16 then [1, 2, 3]
  else [5, 6, 9, 10]

/-- The temperature of a region in 1/16 °C (R128). -/
def State.regionTemp (s : State) (r : Nat) : Option Int :=
  match s.sensorMean (regionSensor r) with
  | some t => some t
  | none => s.meanOver (standInSensors r)

/-- The event source of a region: that of its first channel (R149). -/
def regionSrc (r : Nat) : Nat := tdcSrc ((regionChans r).headD 0)

/-! ## Requests (R137, R138) -/

/-- Region `r` is queued for a run, ahead of the others if R130 queues it; one that R130 has queued already keeps its place (R130, R138). -/
def State.queueRun (s : State) (r : Nat) (urgent : Bool) : State :=
  let g := s.gauge
  let x := g.regions.get r
  if x.state = .off ∨ x.state = .full then s
  else
    let u := urgent || (x.urgent && g.pendingQ.contains r)
    let rest := g.pendingQ.filter (· ≠ r)
    let q := if urgent && !(x.urgent && g.pendingQ.contains r) then
        (rest.filter fun n => (g.regions.get n).urgent) ++ [r] ++ rest.filter fun n => !(g.regions.get n).urgent
      else if g.pendingQ.contains r then g.pendingQ else g.pendingQ ++ [r]
    let st := if x.state = .idle then .pending else x.state
    { s with gauge := { g with pendingQ := q, regions := g.regions.set r { x with urgent := u, state := st } } }

/-- The engine takes the next region that waits for full calibration, if it is free (R132). -/
def State.nextFull (s : State) : State :=
  let g := s.gauge
  match g.running, g.fullQ with
  | none, r :: q => { s with gauge := { g with running := some r, fullQ := q } }
  | _, _ => s

/-- CELL_SEL with all 40 cells selected, and four registers of nominal trims (R131, R146). -/
def allCells : Nat := 2 ^ 40 - 1
/-- Nominal trims. -/
def nominalTrims : List Nat := [0x24924924, 0x24924924, 0x24924924, 0x24924924]

/-- The CRC-32 of a copy of region `r` (R143): over the centres of its channels in order, as the gauge window shows them. -/
def State.copyCrc (s : State) (r : Nat) (centre : ChanGauge → Tbl Nat) : Nat :=
  crc32 ((regionChans r).flatMap fun c =>
    let t := centre (s.gauge.chans.get c)
    (List.range 512).flatMap fun k => leBytes 2 (t.getD k (128 * k + 64)))

/-- The inactive copy of region `r` is made equal to the active one (R143, R144). -/
def State.copyOver (s : State) (r : Nat) : State :=
  let s1 := (regionChans r).foldl (fun s c => s.updCG c fun g => { g with other := g.centre }) s
  s1.updRegion r fun y => { y with epochB := y.epoch, crcB := y.crc }

/-- Region `r` goes to FULL: its histograms are discarded, with values that wait for a commit, its event channels report their gates as truncated,
its channels record nothing until full calibration ends, and its lines take all 40 cells and nominal trims (R131, R132, R137). -/
def State.enterFull (s : State) (r : Nat) (restore : Bool) : State :=
  let s1 := (regionChans r).foldl (fun s c =>
    let s1 := if 280 ≤ c ∧ c < 312 then s.truncateChan c else s
    (s1.updCG c fun g => { g with
      hist := [], inRun := false, newCentre := none, judged := none, lineSel := allCells, lineTrim := nominalTrims }).updTdc c fun x =>
      { x with dllTimer := none, winBad := true }) (s.copyOver r)
  let g := s1.gauge
  let x := g.regions.get r
  ({ s1 with gauge := { g with
    running := if g.running = some r then none else g.running
    fullQ := g.fullQ.filter (· ≠ r) ++ [r]
    pendingQ := g.pendingQ.filter (· ≠ r)
    regions := g.regions.set r { x with state := .full, runEnd := none, urgent := false, restoreFull := restore, commitDue := false, tSum := 0, tCount := 0 } } }).nextFull

/-- PD1 powers on: every region goes to FULL, in the order GR17, GR16, GR0 to GR15, GR18 to GR20 (R132, R137). -/
def State.gaugePowerOn (s : State) : State :=
  ([17, 16] ++ List.range 16 ++ [18, 19, 20]).foldl (fun s r => s.enterFull r false) s

/-- A reading of a region's temperature: it enters the mean of a collection, and a move beyond the trigger queues a run once the
minimum interval has passed (R137). -/
def State.gaugeTemp (s : State) (r : Nat) : State :=
  let x := s.gauge.regions.get r
  match s.regionTemp r with
  | none => s
  | some t =>
    let s1 := s.updRegion r fun y => { y with tempLost := none }
    if x.state = .running ∨ x.state = .full then
      s1.updRegion r fun y => { y with tSum := y.tSum + t, tCount := y.tCount + 1 }
    else if x.state = .idle ∧ s.gauge.trigger < (t - x.tLast).natAbs ∧ x.lastEnd + cyclesOf s.gauge.minInterval ≤ s.now then
      s1.queueRun r false
    else s1

/-- GAUGE_TEMP_UNAVAILABLE (R128): A region with no valid sensor starts a regional run every 60 s. -/
def execGaugeTempUnavailable (region : Nat) (s : State) : Out :=
  if 21 ≤ region then .fault .noSuchObject
  else
    let x := s.gauge.regions.get region
    if x.state = .off ∨ (s.regionTemp region).isSome then .next s
    else match x.tempLost with
      | none =>
        .next (((s.updRegion region fun y => { y with tempLost := some s.now }).raise
          (regionSrc region) Ev.gaugeTempUnavailable [.u 2 region]).queueRun region false)
      | some t =>
        let s1 := s.advance (t + 60 * secC)
        .next ((s1.updRegion region fun y => { y with tempLost := some s1.now }).queueRun region false)

/-- GAUGE_PERIODIC_TIMER (R137): The periodic or retry interval of a region elapses and the region becomes PENDING. -/
def execGaugePeriodicTimer (region : Nat) (s : State) : Out :=
  if 21 ≤ region then .fault .noSuchObject
  else
    let x := s.gauge.regions.get region
    if x.state ≠ .idle then .next s
    else
      let p := if s.gauge.periodic = 0 then none else some (x.lastEnd + cyclesOf s.gauge.periodic)
      let q := if x.failed then some (x.lastEnd + cyclesOf s.gauge.retry) else none
      match p, q with
      | none, none => .next s
      | some a, none => .next ((s.advance a).queueRun region false)
      | none, some b => .next ((s.advance b).queueRun region false)
      | some a, some b => .next ((s.advance (min a b)).queueRun region false)

/-! ## Holds (R138) -/

/-- Whether a GAUGE_HOLD is in force. -/
def State.gaugeHeld (s : State) : Bool :=
  match s.gauge.hold with
  | some t => decide (s.now < t)
  | none => false

/-- GAUGE_HOLD_LAPSE (R138): A gauge hold reaches its duration and lapses. -/
def execGaugeHoldLapse (s : State) : Out :=
  match s.gauge.hold with
  | none => .next s
  | some t =>
    let s1 := s.advance t
    .next { s1 with gauge := { s1.gauge with hold := none } }

/-! ## Runs (R133 to R137) -/

/-- Whether channel `c` takes part in a run of its region: every channel does but a disabled event input (R137). -/
def State.takesPart (s : State) (c : Nat) : Bool := !(decide (280 ≤ c ∧ c < 312) && !(s.tdc.chans.get c).enable)

/-- GAUGE_RUN_START (R137): A pending region starts its run when the engine is free, no hold applies and 10 ms have passed, and its channels become STALE. -/
def execGaugeRunStart (s : State) : Out :=
  match s.gauge.pendingQ, s.gauge.running with
  | r :: q, none =>
    let x := s.gauge.regions.get r
    if s.gaugeHeld && !x.urgent then .next s
    else
      let s1 := s.advance (s.gauge.lastRunEnd + 10 * msC)
      let s2 := (regionChans r).foldl (fun s c =>
        (s.updCG c fun g => { g with hist := [], inRun := s.takesPart c }).updTdc c fun y =>
          { y with dllUnlockInRun := !y.dllLocked }) s1
      .next { s2 with gauge := { s2.gauge with
        pendingQ := q, running := some r
        regions := s2.gauge.regions.set r { x with
          state := .running, stale := true, urgent := false, tSum := 0, tCount := 0, runStart := s2.now
          runEnd := some (s2.now + cyclesOf s2.gauge.runTimeout) } } }
  | _, _ => .next s

/-- The bin edges from code `k` on, from the hits below it (R135). -/
def binEdges (h cum : Nat) : List Nat → List Nat
  | [] => [(roundDiv (65536 * (min cum h : Nat)) h).toNat]
  | x :: xs => (roundDiv (65536 * (min cum h : Nat)) h).toNat :: binEdges h (cum + x) xs

/-- The centres between successive edges (R135). -/
def binCentres : List Nat → List Nat
  | a :: b :: l => (a + b) / 2 :: binCentres (b :: l)
  | _ => []

/-- The hits of a histogram, code by code. -/
def histList (h : Tbl Nat) : List Nat := (List.range 512).map h.get

/-- A list of 512 centres as a table. -/
def centreTbl (l : List Nat) : Tbl Nat := (List.range l.length).zip l

/-- Whether successive values of a list lie `lo` to `hi` apart. -/
def stepsWithin (lo hi : Nat) : List Nat → Bool
  | a :: b :: l => decide (a + lo ≤ b ∧ b ≤ a + hi) && stepsWithin lo hi (b :: l)
  | _ => true

/-- The first check of R136 that a channel's new table fails, as LAST_CAUSE codes it (R146); 0 where it passes. -/
def tableCheck (target : Nat) (hits : List Nat) (dllOk full : Bool) (old : Nat → Nat) : Nat :=
  let e := binEdges target 0 hits
  if hits.foldl (· + ·) 0 < target then 1
  else if !dllOk then 2
  else if !stepsWithin 32 320 e then 3
  else if !((List.range 16).all fun p => stepsWithin 4015 4177 [e.getD (32 * p) 0, e.getD (32 * p + 32) 0]) then 4
  else if !full && !((List.range 512).zip (binCentres e)).all (fun p => decide ((((p.2 : Int) - old p.1).natAbs) ≤ 512)) then 5
  else 0

/-- Channel `c`'s collection is judged; a table that passes waits for the commit boundary, and so does what the active page shows of the
evaluation (R136, R139, R146). -/
def State.judgeChan (s : State) (c : Nat) (hits : List Nat) (dllOk full : Bool) : State :=
  let h := 2 ^ s.gauge.target
  let cause := tableCheck h hits dllOk full (s.centreOf c)
  let n := min (hits.foldl (· + ·) 0) (2 ^ 32 - 1)
  if cause = 0 then
    s.updCG c fun g => { g with inRun := false, judged := some (n, 0), newCentre := some (centreTbl (binCentres (binEdges h 0 hits))) }
  else
    (s.updCG c fun g => { g with
      inRun := false, judged := some (n, cause), newCentre := if full then some [] else none }).raise (tdcSrc c) Ev.gaugeFail [.u 2 cause]

/-! ### Injected edges (R133, R134) -/

/-- Whether region `r` takes its code-density edges from its scatter oscillator (R133). -/
def State.injects (s : State) (r : Nat) : Bool :=
  if r = 18 then s.gauge.scatter18 else if r = 19 then s.gauge.scatter19 else true

/-- The length of an injection slot in CORE cycles (R134). -/
def slotC : Nat := 16

/-- Whether the slot that opens at TICK `t` lies within 8 CORE cycles of an edge that the channel's own period predicts (R134): the edges of a
VALID lane window, one period apart, in CORE periods with 32 fractional bits. -/
def TdcChan.slotSkipped (x : TdcChan) (t : Nat) : Bool :=
  x.valid && decide (x.period ≠ 0) &&
    let at_ : Int := (t : Int) * 2 ^ 32
    decide ((wholePeriods x.fitTick x.period at_ - at_).natAbs ≤ 8 * 2 ^ 32)

/-- How many of an item's injected edges enter the histogram: those of slots that are not skipped, less those struck out (R134). -/
def TdcChan.injectedHits (x : TdcChan) (i : Injected) : Nat :=
  let used := if x.valid then
      ((List.range i.count).filter fun k => !x.slotSkipped (slotC * (i.slot + k))).length
    else i.count
  used - i.struck

/-- Whether the slots of the items follow one another. -/
def slotsRise : Nat → List Injected → Bool
  | _, [] => true
  | n, i :: l => decide (n ≤ i.slot) && slotsRise (i.slot + i.count) l

/-- Whether an item's slots lie outside the present or last gate of channel `c` (R133). -/
def State.gateShut (s : State) (c : Nat) (i : Injected) : Bool :=
  let g := s.tdc.groups.get (groupOf c)
  decide (slotC * (i.slot + i.count) ≤ g.openTick) || (!g.open_ && decide (g.closeTick ≤ slotC * i.slot))

/-- Whether the injected edges can be those of region `r`'s collection: of each channel in successive slots since the collection began, and
for an event channel while its gate is closed (R133, R134). -/
def State.injectable (s : State) (r : Nat) (l : List Injected) : Bool :=
  let from_ := ceilDiv ((s.gauge.regions.get r).runStart - s.time.tick0) slotC
  (regionChans r).all fun c =>
    let m := l.filter fun i => i.chan = c
    slotsRise from_ m && m.all fun i =>
      decide (slotC * (i.slot + i.count) ≤ s.tick + slotC) && (!decide (280 ≤ c ∧ c < 312) || s.gateShut c i)

/-- The hits of channel `c` of region `r`, code by code: the channel's own edges where the source is LIVE, else those injected, up to H (R133, R135). -/
def State.runHits (s : State) (r c : Nat) (injected : List Injected) : List Nat :=
  if s.injects r then
    let t := (injected.filter fun i => i.chan = c).foldl (fun (t : Tbl Nat) i =>
      let have_ := t.foldl (fun b p => b + p.2) 0
      t.upd (i.code % 512) (· + min ((s.tdc.chans.get c).injectedHits i) (2 ^ s.gauge.target - have_))) []
    histList t
  else histList (s.gauge.chans.get c).hist

/-- The values of region `r` that passed are written into the inactive copy under epoch + 1, or under epoch 1 after a full calibration (R143 step
1). -/
def State.writeInactive (s : State) (r kind : Nat) : State :=
  let cs := (regionChans r).filter fun c => (s.gauge.chans.get c).newCentre.isSome
  let s1 := cs.foldl (fun s c => s.updCG c fun g => { g with other := g.newCentre.getD g.centre }) s
  if cs.isEmpty then s1
  else s1.updRegion r fun y => { y with
    epochB := if kind = 1 then 1 else y.epoch + 1, crcB := s1.copyCrc r ChanGauge.other }

/-- The engine has ended with region `r`, whose values wait for the commit boundary (R137). -/
def State.endRun (s : State) (r kind : Nat) (failed : Bool) : State :=
  let g := s.gauge
  let x := g.regions.get r
  let s1 := { s with gauge := { g with
    running := none, lastRunEnd := s.now
    regions := g.regions.set r { x with
      state := if g.pendingQ.contains r then .pending else .idle
      runEnd := none, lastEnd := s.now, commitDue := true, commitKind := kind, failed := failed
      stale := true } } }
  (s1.writeInactive r kind).nextFull

/-- Whether the evaluation of channel `c` that waits found a fault (R136). -/
def State.failsChan (s : State) (c : Nat) : Bool :=
  match (s.gauge.chans.get c).judged with
  | some j => decide (j.2 ≠ 0)
  | none => false

/-- GAUGE_RUN_END (R136): A run ends when every channel has H hits or the run timeout expires, and each channel's new table is checked. -/
def execGaugeRunEnd (injected : List Injected) (s : State) : Out :=
  match s.gauge.running with
  | none => .next s
  | some r =>
    let x := s.gauge.regions.get r
    if x.state ≠ .running then .next s
    else if s.injects r && !s.injectable r injected then .fault .impossibleInput
    else
      let cs := (regionChans r).filter fun c => (s.gauge.chans.get c).inRun
      let all := cs.all fun c => decide (2 ^ s.gauge.target ≤ (s.runHits r c injected).foldl (· + ·) 0)
      let s1 := if all then s else s.advance (x.runEnd.getD s.now)
      let s2 := cs.foldl (fun s c =>
        s.judgeChan c (s.runHits r c injected) (!(s.tdc.chans.get c).dllUnlockInRun && (s.tdc.chans.get c).dllLocked) false) s1
      .next (s2.endRun r 0 (cs.any s2.failsChan))

/-! ## Full calibration (R131, R137) -/

/-- How many of the other cells lie nearer to the median, `m2` being twice the median; of two equally far the lower counts as
nearer. -/
def nearerCells (w : List Nat) (m2 i : Nat) : Nat :=
  let dist (k : Nat) : Nat := ((2 * (w.getD k 0 : Nat) : Int) - m2).natAbs
  ((List.range 40).filter fun k => decide (dist k < dist i ∨ (dist k = dist i ∧ k < i))).length

/-- Insertion into a rising list. -/
def insertNat (a : Nat) : List Nat → List Nat
  | [] => [a]
  | b :: l => if a ≤ b then a :: b :: l else b :: insertNat a l

/-- A list in rising order. -/
def sortNat : List Nat → List Nat
  | [] => []
  | a :: l => insertNat a (sortNat l)

/-- CELL_SEL: the 8 cells whose widths lie furthest from the median are deselected (R131). -/
def selectCells (w : List Nat) : Nat :=
  let l := sortNat (padNat 40 w)
  let m2 := l.getD 19 0 + l.getD 20 0
  (List.range 40).foldl (fun a i => if nearerCells w m2 i < 32 then a + 2 ^ i else a) 0
where
  /-- A list cut or padded with 0 to `n` numbers. -/
  padNat (n : Nat) (l : List Nat) : List Nat := (List.range n).map fun i => l.getD i 0

/-- How far the width of a cell with trim `t` lies from 1 LSB of 128 U: the nominal trim 4 leaves the measured width, and each step changes it
by the cell's step (R131). -/
def trimMiss (c cell width t : Nat) : Nat := ((width : Int) + ((t : Int) - 4) * Config.trimStep c cell - 128).natAbs

/-- The 3-bit trim that brings a cell closest to 1 LSB; of equals the lowest (R131). -/
def bestTrim (c cell width : Nat) : Nat :=
  (List.range 8).foldl (fun b t => if trimMiss c cell width t < trimMiss c cell width b then t else b) 0

/-- The trims of the 40 cells: those selected come closest to 1 LSB, and the others keep the nominal trim (R131). -/
def cellTrims (c sel : Nat) (w : List Nat) : List Nat :=
  (List.range 40).map fun i => if sel.testBit i then bestTrim c i (w.getD i 0) else 4

/-- TRIM_0 to TRIM_3 from 40 trims of 3 bits (R146). -/
def trimRegs (t : List Nat) : List Nat :=
  (List.range 4).map fun j => (List.range 10).foldl (fun a i => a + (t.getD (10 * j + i) 0 % 8) * 2 ^ (3 * i)) 0

/-- The staged centres of a channel as a whole table. -/
def ChanGauge.staged (g : ChanGauge) : Tbl Nat := centreTbl ((List.range 512).map g.stCentre.get)

/-- One channel of a full restore is done (R147): its DLL has locked from the bias restored, or the channel fails and takes nominal centres (R137). -/
def State.restoreChan (s : State) (c : Nat) (w : CalSet) : State :=
  let s1 := (s.updCG c fun g => { g with
    lineDll := w.dll % 4096, judged := some (g.lastHits, if w.locked then 0 else 2)
    newCentre := if w.locked then g.newCentre else some [] }).updTdc c fun y => { y with dllLocked := w.locked, dllStale := false }
  if w.locked then s1 else s1.raise (tdcSrc c) Ev.gaugeFail [.u 2 2]

/-- One channel of a full calibration is done (R131): cells are deselected, the rest trimmed, and its bin table is judged. -/
def State.calibrateChan (s : State) (c : Nat) (w : CalSet) : State :=
  let sel := selectCells w.widths
  ((s.updCG c fun g => { g with
    lineSel := sel, lineTrim := trimRegs (cellTrims c sel w.widths), lineDll := w.dll % 4096 }).updTdc c fun y =>
      { y with dllLocked := w.locked, dllStale := false }).judgeChan c w.hits w.locked true

/-- FULL_CALIBRATION_DONE (R131): A region's full calibration ends and its table is committed. -/
def execFullCalibrationDone (region : Nat) (sets : List CalSet) (s : State) : Out :=
  if 21 ≤ region then .fault .noSuchObject
  else
    let x := s.gauge.regions.get region
    let set (c : Nat) : CalSet := (sets.find? fun y => y.chan = c).getD {}
    if x.state ≠ .full ∨ s.gauge.running ≠ some region then .next s
    else if x.restoreFull then
      let s1 := (regionChans region).foldl (fun s c => s.restoreChan c (set c)) s
      .next (((s1.endRun region 2 ((regionChans region).any s1.failsChan)).updRegion region fun y =>
        { y with restoreFull := false }).queueRun region false)
    else
      let s1 := (regionChans region).foldl (fun s c => s.calibrateChan c (set c)) s
      .next (s1.endRun region 1 ((regionChans region).any s1.failsChan))

/-! ## Commits (R139, R140, R143) -/

/-- The code with the most stamps; of equals the lowest. -/
def modeCode (h : Tbl Nat) : Nat := (h.foldl (fun b p => if b.2 < p.2 then p else b) (0, 0)).1

/-- What the active page of a channel shows from the commit boundary (R129, R136, R140, R146): the new centres with their COMMIT_DELTA `d`, the
line's configuration, and the evaluation. -/
def ChanGauge.commit (g : ChanGauge) (d : Int) : ChanGauge :=
  let j := g.judged.getD (g.lastHits, g.lastCause)
  let g1 := { g with
    judged := none, newCentre := none, lastHits := j.1, lastCause := j.2, ownCode := modeCode g.own
    degraded := if g.judged.isNone && g.newCentre.isNone then g.degraded else decide (j.2 ≠ 0) }
  match g.newCentre with
  | some t => { g1 with centre := t, delta := d, cellSel := g.lineSel, trim := g.lineTrim, dllCode := g.lineDll }
  | none => g1

/-- The bias that the DLL of each channel of region `r` with new values has reached (R129): a free value, since a regional run does not say
where the DLL stands. -/
def State.readBias (s : State) (cs : List Nat) : State :=
  cs.foldl (fun s c =>
    let (k, s1) := s.takeFree
    s1.updCG c fun g => { g with lineDll := Config.freeNat k % 4096 }) s

/-- The values of region `r` that wait take effect (R139, R143 steps 2 and 3); the result lists each channel with its COMMIT_DELTA. -/
def State.commitRegion (s : State) (r : Nat) : State × List (Nat × Int) :=
  let x := s.gauge.regions.get r
  let all := regionChans r
  let cs := all.filter fun c => (s.gauge.chans.get c).newCentre.isSome
  let delta (c : Nat) : Int :=
    let g := s.gauge.chans.get c
    let k := modeCode g.own
    ((g.newCentre.getD []).getD k (128 * k + 64) : Int) - s.centreOf c k
  let s0 := if x.commitKind = 0 then s.readBias cs else s
  let s1 := all.foldl (fun s c =>
    (s.updCG c fun g => g.commit (delta c)).updTdc c fun y => { y with dllStale := y.dllStale && decide (x.commitKind = 3) }) s0
  let tLast := if cs.isEmpty ∨ 2 ≤ x.commitKind then x.tLast
    else if x.tCount = 0 then (s.regionTemp r).getD x.tLast else roundDiv x.tSum x.tCount
  let s2 := s1.updRegion r fun y => { y with commitDue := false, stale := decide (y.state = .running), tLast := tLast }
  let s3 := if cs.isEmpty then s2
    else (s2.updRegion r fun y => { y with active := !y.active, epoch := y.epochB, crc := y.crcB }).copyOver r
  let passed := cs.any fun c => !s.failsChan c
  let s4 := if !passed ∨ x.commitKind = 3 then s3
    else if x.commitKind = 0 then s3.raise (regionSrc r) Ev.gaugeDone [.u 2 r]
    else s3.raise (regionSrc r) Ev.fullDone [.u 2 r]
  (s4, cs.map fun c => (c, delta c))

/-- At a lane-window boundary every region whose values wait commits them; the counts of each channel's own codes start again. -/
def State.gaugeCommit (s : State) : State × List (Nat × Int) :=
  let r := (List.range 21).foldl (fun (a : State × List (Nat × Int)) r =>
    if (a.1.gauge.regions.get r).commitDue then
      let c := a.1.commitRegion r
      (c.1, a.2 ++ c.2)
    else a) (s, [])
  ({ r.1 with gauge := { r.1.gauge with chans := r.1.gauge.chans.mapAll fun _ g => { g with own := [] } } }, r.2)

/-! ## The DLL of a line (R129, R130) -/

/-- DLL_UNLOCK (R130): A channel's DLL error exceeds 2 LSB and the channel stops recording. -/
def execDllUnlock (loss : DllLoss) (s : State) : Out :=
  if 320 ≤ loss.ch then .fault .noSuchObject
  else if !(s.tdc.chans.get loss.ch).dllLocked || !s.inService loss.ch || decide (loss.error.natAbs ≤ dllUnlockLimit) then .next s
  else
    .next ((s.updTdc loss.ch fun x => { x with
      dllLocked := false, dllTimer := some (s.now + msC), winBad := true, dllUnlockInRun := true }).raise
        (tdcSrc loss.ch) Ev.dllUnlock)

/-- DLL_RELOCK (R130): An unlocked DLL locks again and the channel resumes with STALE stamps and a queued run. -/
def execDllRelock (lock : DllLock) (s : State) : Out :=
  if 320 ≤ lock.ch then .fault .noSuchObject
  else if (s.tdc.chans.get lock.ch).dllLocked || !s.inService lock.ch || decide (lock.within < dllLockCycles) then .next s
  else
    let s1 := (s.updTdc lock.ch fun x => { x with dllLocked := true, dllTimer := none, dllStale := true }).raise
      (tdcSrc lock.ch) Ev.dllRelock
    .next (match regionOf lock.ch with
      | some r => s1.queueRun r true
      | none => s1)

/-- The line of channel `c` is at fault, by a DLL that does not lock again or by a parity error in its configuration: its region is taken to full
calibration (R130). The opcode table has no command for the parity error (log entry 114). -/
def State.lineFault (s : State) (c : Nat) : State :=
  match regionOf c with
  | some r => s.enterFull r false
  | none => s

/-- DLL_RELOCK_TIMEOUT (R130): A DLL has not relocked within 1 ms and its region is taken to full calibration. -/
def execDllRelockTimeout (ch : Nat) (s : State) : Out :=
  if 320 ≤ ch then .fault .noSuchObject
  else match (s.tdc.chans.get ch).dllTimer with
    | some t => if (regionOf ch).isSome then .next ((s.advance t).lineFault ch) else .next s
    | none => .next s

/-! ## The copies (R143, R144) -/

/-- GAUGE_COPY_CHECK (R144): Once per second both gauge copies of every region are checked and repaired. -/
def execGaugeCopyCheck (region : Nat) (aOk bOk : Bool) (bEpoch : Nat) (bCentres : List (Nat × List Nat)) (s : State) : Out :=
  if 21 ≤ region then .fault .noSuchObject
  else
    let x := s.gauge.regions.get region
    if x.state = .off ∨ x.commitDue then .next s
    else
      let cs := regionChans region
      let full (t : Tbl Nat) : List Nat := (List.range 512).map fun k => t.getD k (128 * k + 64)
      let found (c : Nat) : List Nat := ((bCentres.find? fun p => p.1 = c).map Prod.snd).getD (full (s.gauge.chans.get c).other)
      let s0 := cs.foldl (fun s c => s.updCG c fun g => { g with other := centreTbl (padTo512 (found c)) }) s
      let takeB : State := (cs.foldl (fun s c => s.updCG c fun g => { g with centre := g.other }) s0).updRegion region fun y =>
        { y with epoch := bEpoch, epochB := bEpoch, active := !y.active, crc := s0.copyCrc region ChanGauge.other, crcB := s0.copyCrc region ChanGauge.other }
      let raise (s : State) (c : Nat) : State := s.raise (regionSrc region) c [.u 2 region]
      match aOk, bOk with
      | true, true =>
        if x.epoch = bEpoch ∧ cs.all (fun c => decide (found c = full (s.gauge.chans.get c).centre)) then .next s
        else if x.epoch < bEpoch then .next (raise takeB Ev.gaugeCopyDiffer)
        else .next (raise (s.copyOver region) Ev.gaugeCopyDiffer)
      | true, false => .next (raise (s.copyOver region) Ev.gaugeCopyRepaired)
      | false, true => .next (raise takeB Ev.gaugeCopyRepaired)
      | false, false =>
        let s1 := cs.foldl (fun s c => s.updCG c fun g => { g with centre := [], other := [] }) s
        .next (raise ((s1.updRegion region fun y => { y with stale := true }).queueRun region true) Ev.gaugeLost)
where
  /-- A list cut or padded with 0 to 512 numbers. -/
  padTo512 (l : List Nat) : List Nat := (List.range 512).map fun i => l.getD i 0

/-! ## The gauge window (R145) -/

/-- The write of `value` to STAGE_LOAD: the selected channel's active set is copied into its staging set. -/
def State.stageLoad (s : State) (value : Nat) : State :=
  let c := s.gauge.gwChannel
  if value % 2 = 1 ∧ (regionOf c).isSome then
    s.updCG c fun g => { g with
      stCentre := centreTbl ((List.range 512).map fun k => g.centre.getD k (128 * k + 64))
      stDll := g.dllCode, stSel := g.cellSel, stTrim := g.trim }
  else s

/-- STAGE_LOAD (R145): A register write copies the selected channel's active gauge set into its staging set. -/
def execStageLoad (value : BitVec 32) (s : State) : Out :=
  .next (s.stageLoad value.toNat)

/-! ## Commands (R148) -/

/-- What the own checks and effect of GAUGE_CONFIGURE come to (R148). -/
def bodyGaugeConfigure (trigger : Int) (minInterval target runTimeout retry periodic source18 source19 : Nat) (s : State) : Rep :=
  Rep.ranges [decide (4 ≤ trigger ∧ trigger ≤ 160 ∧ trigger % 4 = 0),
      decide (secU ≤ minInterval ∧ minInterval ≤ 3600 * secU), decide (20 ≤ target ∧ target ≤ 24),
      decide (secU / 10 ≤ runTimeout ∧ runTimeout ≤ 100 * secU), decide (secU ≤ retry ∧ retry ≤ 3600 * secU),
      decide (periodic = 0 ∨ (secU ≤ periodic ∧ periodic ≤ 86400 * secU)), decide (source18 < 2), decide (source19 < 2)] <|
    let g := s.gauge
    let c18 := decide (source18 = 1) != g.scatter18 && decide ((g.regions.get 18).state = .running)
    let c19 := decide (source19 = 1) != g.scatter19 && decide ((g.regions.get 19).state = .running)
    if c18 || c19 then .badState
    else .ok { s with gauge := { g with
      trigger := trigger.toNat, minInterval := minInterval, target := target, runTimeout := runTimeout, retry := retry
      periodic := periodic, scatter18 := decide (source18 = 1), scatter19 := decide (source19 = 1) } } []

/-- What the own checks and effect of GAUGE_RUN come to (R137). -/
def bodyGaugeRun (region : Nat) (s : State) : Rep :=
  Rep.ranges [decide (region < 21 ∨ region = 0xFFFF)] <|
    let rs := if region = 0xFFFF then List.range 21 else [region]
    if rs.any fun r => decide ((s.gauge.regions.get r).state = .off ∨ (s.gauge.regions.get r).state = .full) then .badState
    else .ok (rs.foldl (fun s r => if (s.gauge.regions.get r).state = .idle then s.queueRun r false else s) s) []

/-- What the own checks and effect of GAUGE_FULL come to (R137). -/
def bodyGaugeFull (force : Bool) (region : Nat) (s : State) : Rep :=
  Rep.ranges [decide (region < 21)] <|
    let x := s.gauge.regions.get region
    if x.state = .off then .badState
    else if x.state = .full then .ok s []
    else if !force then .badState
    else .ok (s.enterFull region false) []

/- The hits that a collection of injected edges has so far are a free value up to H for each channel: the events that the model takes say only what
a whole collection holds. -/
/-- What the own checks and effect of GAUGE_GET_STATUS come to (R148). -/
def bodyGaugeGetStatus (region : Nat) (s : State) : Rep :=
  Rep.ranges [decide (region < 21)] <|
    let x := s.gauge.regions.get region
    let st := match x.state with | .off => 0 | .full => 1 | .idle => 2 | .pending => 3 | .running => 4
    let cs := regionChans region
    let own := cs.foldl (fun a c => a + ((s.gauge.chans.get c).hist.foldl (fun b p => b + p.2) 0)) 0
    let (k, s1) := s.takeFree
    let most := cs.length * 2 ^ s.gauge.target
    let hits := if x.state = .running && s.injects region then Config.freeNat k % (most + 1) else own
    .ok s1 ([.u 1 st, .u 1 (if x.stale then 1 else 0), .u 1 (if cs.any fun c => (s.gauge.chans.get c).degraded then 1 else 0),
        .i 4 x.tLast, .i 4 ((s.regionTemp region).getD (-32768)), .u 8 x.epoch, .u 8 hits]
      ++ cs.flatMap fun c => [Fld.u 2 (s.gauge.chans.get c).lastCause, .i 8 (s.gauge.chans.get c).delta])

/-- Whether a staged set meets the conditions of R147. -/
def ChanGauge.stagedOk (g : ChanGauge) : Bool :=
  let l := (List.range 512).map g.stCentre.get
  stepsWithin 32 320 l
    && ((List.range 15).all fun p => stepsWithin 4015 4177 [l.getD (32 * p) 0, l.getD (32 * p + 32) 0])
    && decide (((List.range 40).filter fun i => g.stSel.testBit i).length = 32)

/-- What the own checks and effect of GAUGE_RESTORE come to (R147). -/
def bodyGaugeRestore (force : Bool) (region mode : Nat) (s : State) : Rep :=
  let x := s.gauge.regions.get region
  let cs := regionChans region
  Rep.ranges [decide (region < 21) && cs.all (fun c => (s.gauge.chans.get c).stagedOk), decide (mode < 2)] <|
    let busy := (List.range 21).any fun r => decide (r ≠ region ∧ (s.gauge.regions.get r).state = .full)
    if x.state = .running then .badState
    else if mode = 0 then
      if x.state = .off ∨ x.state = .full
          ∨ cs.any (fun c => let g := s.gauge.chans.get c; decide (g.stSel ≠ g.cellSel ∨ g.stTrim ≠ g.trim ∨ g.stDll ≠ g.dllCode)) then .badState
      else if busy then .fail stBusy []
      else
        let s1 := cs.foldl (fun s c => s.updCG c fun g => { g with newCentre := some g.staged, judged := some (g.lastHits, 0) }) s
        let s2 := s1.updRegion region fun y => { y with commitDue := true, commitKind := if y.commitDue then y.commitKind else 3 }
        .ok ((s2.writeInactive region 3).queueRun region false) []
    else if !force && !(decide (x.state = .off ∨ x.state = .full)) then .badState
    else if busy then .fail stBusy []
    else
      .ok (cs.foldl (fun s c => s.updCG c fun g => { g with
        newCentre := some g.staged, lineSel := g.stSel, lineTrim := g.stTrim, lineDll := g.stDll }) (s.enterFull region true)) []

/-- What the own checks and effect of GAUGE_HOLD come to (R138). -/
def bodyGaugeHold (duration : Nat) (s : State) : Rep :=
  Rep.ranges [decide (duration = 0 ∨ (secU ≤ duration ∧ duration ≤ 86400 * secU))] <|
    .ok { s with gauge := { s.gauge with hold := if duration = 0 then none else some (s.now + cyclesOf duration) } } []

/-- GAUGE_CONFIGURE (R148): Sets the gauge trigger, intervals, target, run timeout and sources. -/
def execGaugeConfigure (src : CmdSrc) (trigger : Int) (minInterval target runTimeout retry periodic source18 source19 : Nat) (s : State) : Out :=
  .next (s.runCmd (.gaugeConfigure src trigger minInterval target runTimeout retry periodic source18 source19) src 0x0810 (bodyGaugeConfigure trigger minInterval target runTimeout retry periodic source18 source19))

/-- GAUGE_RUN (R137): Queues a regional run for a region or for all regions. -/
def execGaugeRun (src : CmdSrc) (region : Nat) (s : State) : Out :=
  .next (s.runCmd (.gaugeRun src region) src 0x0811 (bodyGaugeRun region))

/-- GAUGE_FULL (R137): Orders a full calibration of a region. -/
def execGaugeFull (src : CmdSrc) (force : Bool) (region : Nat) (s : State) : Out :=
  .next (s.runCmd (.gaugeFull src force region) src 0x0812 (bodyGaugeFull force region))

/-- GAUGE_GET_STATUS (R148): Returns a region's gauge state, temperatures, epoch, hits and per-channel results. -/
def execGaugeGetStatus (src : CmdSrc) (region : Nat) (s : State) : Out :=
  .next (s.runCmd (.gaugeGetStatus src region) src 0x0813 (bodyGaugeGetStatus region))

/-- GAUGE_RESTORE (R147): Installs a region's staging sets in TABLE or FULL mode after range checks. -/
def execGaugeRestore (src : CmdSrc) (force : Bool) (region mode : Nat) (s : State) : Out :=
  .next (s.runCmd (.gaugeRestore src force region mode) src 0x0814 (bodyGaugeRestore force region mode))

/-- GAUGE_HOLD (R138): Defers the start of regional runs for a stated time, or releases the hold. -/
def execGaugeHold (src : CmdSrc) (duration : Nat) (s : State) : Out :=
  .next (s.runCmd (.gaugeHold src duration) src 0x0815 (bodyGaugeHold duration))


end Sys2Proof.Machine
end

