-- ==== Sys2Proof/Machine/Streams.lean ====
section
/-!
DEFINITION. The TX timestamp queues and the capture ring: entries, records, losses and markers (R205 to R209, R349 to R352).
-/
namespace Sys2Proof.Machine

/-! ## TX timestamp queues (R205 to R209) -/

/-- Event source of TSQ q (R212). -/
def tsqSrc (q : Nat) : Nat := 660 + q

/-- Where the registers of queue `q` begin in BAR0 (R208). -/
def tsqOffset (q : Nat) : Nat := 0x21000 + 0x40 * q

/-- `n` requests refused or entries dropped are counted in TSQ_MISSED of queue `q` (R205, R208). -/
def State.tsqMiss (s : State) (q n : Nat) : State :=
  (((s.hwCount (tsqOffset q + 0x14) (s.time.tsqs.get q).missed).hwSet (tsqOffset q + 0x10) 1).updTsq q fun y =>
    { y with missed := satAdd 32 y.missed n, missedSeen := true })

/-- The fill of a queue (R208). -/
def Tsq.fill (x : Tsq) : Nat := dist32 x.rd x.wr

/-- The markers that queue `q` still owes. -/
def State.tsqMarks (s : State) (q : Nat) : List FenceMark := s.fence.marks.filter fun m => m.stream = .tsq q

/-- An entry is written at the place WR_COUNT names (R208, R209). -/
def State.tsqStore (s : State) (q : Nat) (e : TsqEntry) : State :=
  let x := s.time.tsqs.get q
  let x1 := { x with entries := x.entries.set (x.wr.toNat % 64) e, wr := x.wr + 1, timeoutSeen := x.timeoutSeen || decide (e.kind = 2) }
  let hit := decide (x1.thresh ≠ 0 ∧ x1.fill = x1.thresh)
  let s1 := s.updTsq q fun _ => { x1 with threshHit := x1.threshHit || hit }
  let s2 := if hit then (s1.hwSet (tsqOffset q + 0x10) 3).raise (tsqSrc q) Ev.tsqThresh else s1
  if e.kind = 2 then (s2.hwSet (tsqOffset q + 0x10) 2).raise (tsqSrc q) Ev.tsqTimeout else s2

/-- What takes a free slot ahead of any new request: the REFUSED entry and the markers that are due (R205, R207). A marker is due
once no request of a frame admitted before it is outstanding. -/
def State.tsqPoke (s : State) (q : Nat) : Nat → State
  | 0 => s
  | n + 1 =>
    let x := s.time.tsqs.get q
    let room := decide (x.fill + x.reqs.length < 64)
    if x.refusedRun ≠ 0 && room && x.enable then
      ((s.updTsq q fun y => { y with refusedRun := 0 }).tsqStore q
        { kind := 4, w1 := x.refusedRun, value := x.refusedTick }).tsqPoke q n
    else match s.tsqMarks q with
      | [] =>
        match x.reqs.find? fun r => r.final_.isSome with
        | none => s
        | some r => ((s.updTsq q fun y => { y with reqs := y.reqs.erase r }).tsqStore q (r.final_.getD {})).tsqPoke q n
      | m :: _ =>
        let early (r : TsqReq) : Bool := match r.admittedAt with | some t => decide (t < m.f) | none => false
        match x.reqs.find? fun r => r.final_.isSome && early r with
        | some r => ((s.updTsq q fun y => { y with reqs := y.reqs.erase r }).tsqStore q (r.final_.getD {})).tsqPoke q n
        | none =>
          if x.enable && room && !(x.reqs.any early) then
            (({ s with fence := { s.fence with marks := s.fence.marks.erase m } }).tsqStore q
              { kind := 3, value := m.epoch }).tsqPoke q n
          else s

/-- A bound on the items one call of `tsqPoke` can write. -/
def State.tsqWork (s : State) (q : Nat) : Nat := (s.time.tsqs.get q).reqs.length + (s.tsqMarks q).length + 2

/-- ENABLE of queue `q` is cleared: entries that are final but held behind a marker are dropped and counted, as are those of the
reservations still outstanding when they end (R208). -/
def State.tsqDisable (s : State) (q : Nat) : State :=
  let n := ((s.time.tsqs.get q).reqs.filter fun r => r.final_.isSome).length
  (if n = 0 then s else s.tsqMiss q n).updTsq q fun y => { y with enable := false, reqs := y.reqs.filter fun r => r.final_.isNone }

/-- A reservation ends with entry `e`: it takes its place after those that became final before it and is written, held behind a marker of an earlier fence, or dropped and counted if the queue
has been disabled (R206 to R208). -/
def State.tsqEnd (s : State) (q : Nat) (r : TsqReq) (e : TsqEntry) : State :=
  let x := s.time.tsqs.get q
  if !x.enable then
    let s1 := (s.tsqMiss q 1).updTsq q fun y => { y with reqs := y.reqs.erase r }
    s1.tsqPoke q (s1.tsqWork q)
  else
    let s1 := s.updTsq q fun y => { y with reqs := y.reqs.erase r ++ [{ r with final_ := some e }] }
    s1.tsqPoke q (s1.tsqWork q)

/-- The entry of a request none of whose copies waits any more (R206): STAMP of the sent copy on the lowest-numbered port, or
DISCARDED with the reason of the copy on the lowest-numbered port. -/
def TsqReq.entry (r : TsqReq) (now : Nat) : TsqEntry :=
  match r.sent with
  | some p => { kind := 0, port := p.1, id := r.id, w1 := p.2.2, value := p.2.1 }
  | none => { kind := 1, info := match r.lost with | some p => p.2 | none => 5, id := r.id, value := now }

/-- The outstanding request of frame `f`, with its queue. -/
def State.tsqOf (s : State) (f : Nat) : Option (Nat × TsqReq) :=
  (List.range 4).findSome? fun q =>
    ((s.time.tsqs.get q).reqs.find? fun r => decide (r.frame = f) && r.final_.isNone).map fun r => (q, r)

/-- A copy of frame `f` on port `p` was sent with a stamp, or was refused or discarded for a reason; the request of the frame
follows (R206). -/
def State.tsqCopy (s : State) (f p : Nat) (stamp : Option (Nat × Nat)) (reason : Nat) : State :=
  match s.tsqOf f with
  | none => s
  | some (q, r) =>
    let sent := match stamp, r.sent with
      | some t, none => some (p, t.1, t.2)
      | some t, some b => if p < b.1 then some (p, t.1, t.2) else some b
      | none, b => b
    let lost := match stamp, r.lost with
      | some _, b => b
      | none, none => some (p, reason)
      | none, some b => if p < b.1 then some (p, reason) else some b
    let r1 := { r with sent := sent, lost := lost, left := r.left - 1 }
    let s1 := s.updTsq q fun y => { y with reqs := y.reqs.map fun z => if z = r then r1 else z }
    if r1.left = 0 then s1.tsqEnd q r1 (r1.entry s.tick) else s1

/-! ## Capture (R349 to R352) -/

/-- The fill of the capture ring in units. -/
def Capture.fill (x : Capture) : Nat := dist32 x.rd x.wr

/-- The capture engine changed by `f`. -/
def State.updCap (s : State) (f : Capture → Capture) : State :=
  { s with core := { s.core with capture := f s.core.capture } }

/-- The units a record of `u` units takes, with the PAD record in front of one that would wrap (R350). -/
def Capture.unitsNeeded (x : Capture) (u : Nat) : Nat :=
  let at_ := x.wr.toNat % 262144
  if at_ + u ≤ 262144 then u else 262144 - at_ + u

/-- One record at the place WR_COUNT names. -/
def State.capStore (s : State) (r : CapRec) : State :=
  let x := s.core.capture
  let x1 := { x with
    recs := x.recs.set (x.wr.toNat % 262144) { r with seq := x.seq % 256, written := s.now }
    wr := x.wr + BitVec.ofNat 32 r.units, seq := (x.seq + 1) % 256 }
  let hit := decide (x1.thresh ≠ 0 ∧ x.fill < x1.thresh ∧ x1.thresh ≤ x1.fill)
  let s1 := s.updCap fun _ => { x1 with threshHit := x1.threshHit || hit }
  if hit then (s1.hwSet (bar2Key 0xF000010) 2).raise 828 Ev.capThresh else s1

/-- A record that has room is written, after a PAD record where it would wrap. -/
def State.capWrite (s : State) (r : CapRec) : State :=
  let at_ := s.core.capture.wr.toNat % 262144
  let s1 := if at_ + r.units ≤ 262144 then s else
    s.capStore { kind := 1, units := 262144 - at_ }
  s1.capStore r

/-- Whether a record of `u` units has room. -/
def Capture.room (x : Capture) (u : Nat) : Bool := decide (x.fill + x.unitsNeeded u ≤ 262144)

/-- While the ring has room, what waits for it is written: the LOST record and the markers, in the order in which they arose
(R352); the first LOST record after a loss-free period raises CAP_LOST (R355). -/
def State.capDrain (s : State) : Nat → State
  | 0 => s
  | n + 1 =>
    let x := s.core.capture
    if !x.room 1 then s
    else match x.wait with
      | .mark e :: ws => ((s.updCap fun y => { y with wait := ws }).capWrite { kind := 3, value := e }).capDrain n
      | .loss k t :: ws =>
        let s1 := (s.updCap fun y => { y with wait := ws, lossPeriod := true }).capWrite
          { kind := 2, value := t, w6 := BitVec.ofNat 32 k }
        (if x.lossPeriod then s1 else s1.raise 828 Ev.capLost).capDrain n
      | [] =>
        if x.lostRun = 0 then s.updCap fun y => { y with lossPeriod := false }
        else
          let s1 := (s.updCap fun y => { y with lostRun := 0, lossPeriod := true }).capWrite
            { kind := 2, value := x.lostTick, w6 := BitVec.ofNat 32 x.lostRun }
          if x.lossPeriod then s1 else s1.raise 828 Ev.capLost

/-- A bound on the items one call of `capDrain` can write. -/
def Capture.waiting (x : Capture) : Nat := x.wait.length + 2

/-- A record lost is counted in CAP_LOST_COUNT (R351). -/
def State.capMiss (s : State) : State :=
  (((s.hwCount (bar2Key 0xF000014) s.core.capture.lost).hwSet (bar2Key 0xF000010) 1).updCap fun y =>
    { y with lost := satAdd 32 y.lost 1, lostSeen := true })

/-- Whether the engine is saturated for one more record (R352): it writes one in 12.5 CORE cycles, and how many it can hold back meanwhile is not
stated, so that is a free value. -/
def State.capBusy (s : State) : State × Bool :=
  if s.core.capture.engineAt ≤ 2 * s.now then (s, false)
  else
    let (k, s1) := s.takeFree
    (s1, decide (Config.freeNat k % 2 = 1))

/-- A record due is written, or lost and counted: by a ring that is disabled, or has no room, or an engine that is saturated (R351, R352). -/
def State.capPut (s : State) (r : CapRec) : State :=
  if !s.core.capture.enable then s.capMiss
  else
    let (s0, busy) := s.capBusy
    let s1 := s0.capDrain s0.core.capture.waiting
    let x := s1.core.capture
    if x.wait.isEmpty && decide (x.lostRun = 0) && x.room r.units && !busy then
      (s1.capWrite r).updCap fun y => { y with engineAt := max y.engineAt (2 * s.now) + 25 }
    else s1.capMiss.updCap fun y => { y with
      lostTick := if y.lostRun = 0 then s.tick else y.lostTick, lostRun := satAdd 32 y.lostRun 1 }

/-- The write of the oldest marker that the capture ring owes (R352). -/
def State.capMarkerDue (s : State) : State :=
  match s.fence.marks.find? fun m => m.stream = .capture with
  | none => s
  | some m =>
    let s1 := { s with fence := { s.fence with marks := s.fence.marks.erase m } }
    if !s1.core.capture.enable then s1
    else
      let x := s1.core.capture
      let loss := if x.lostRun = 0 then [] else [RingWait.loss x.lostRun x.lostTick]
      let s2 := s1.updCap fun y => { y with wait := y.wait ++ loss ++ [.mark m.epoch], lostRun := 0 }
      s2.capDrain s2.core.capture.waiting

/-- Whether a frame may still make a record whose cause, the close of its window, lies before `f` (R352). -/
def State.capExpects (s : State) (f : Nat) : Bool := s.core.frames.any fun x => !x.2.decided && decide (x.2.closeAt < f)

/-- The markers that precede a record with its cause at `cause` are written (R352); the flag says that none of them waits for records before it. -/
def State.capMarks (s : State) (cause : Nat) : Nat → State × Bool
  | 0 => (s, true)
  | n + 1 =>
    match s.fence.marks.find? fun m => m.stream = .capture with
    | none => (s, true)
    | some m => if cause < m.f then (s, true) else if s.capExpects m.f then (s, false) else s.capMarkerDue.capMarks cause n

/-- A record with its cause at TICK `cause` is due: it is written in its place among the markers, or held behind one (R352). -/
def State.capTake (s : State) (cause : Nat) (r : CapRec) : State :=
  let (s1, free) := s.capMarks cause s.fence.marks.length
  if free then s1.capPut r else s1.updCap fun y => { y with held := y.held ++ [(cause, r)] }

/-- The records held behind a marker are taken again (R352). -/
def State.capFlush (s : State) : State :=
  s.core.capture.held.foldl (fun (t : State) h => t.capTake h.1 h.2) (s.updCap fun y => { y with held := [] })

/-- The record of frame `n` for a trigger (R349, R350); `egress` is the port of the copy concerned. -/
def State.captureRec (s : State) (n trigger : Nat) (egress : Option Nat) (tc kindOf reason : Nat) : CapRec :=
  let f := s.core.frames.get n
  let snapMax := (s.core.capture.trigs.get trigger).snap
  let snap := (f.bytes.take (min snapMax 256))
  let w1 := f.port % 256 + (match egress with | some p => 256 * p + 65536 | none => 0) + 2 ^ 17 * tc + 2 ^ 20 * kindOf
    + flag f.stale (2 ^ 22) + flag f.coast (2 ^ 23) + 2 ^ 24 * reason
  { kind := 0, trigger := trigger, units := 1 + ceilDiv snap.length 32
    w1 := BitVec.ofNat 32 w1
    w2 := BitVec.ofNat 32 (min f.len 65535 + 65536 * f.rxSub)
    value := f.rxTick
    w5 := BitVec.ofNat 32 (match f.aclHit with | some e => e + 32768 | none => 0)
    w6 := f.result, snap := snap }

/-- Frame `n` is captured, with its cause at TICK `cause`: once, whatever triggers fire for it (R349). -/
def State.captureFrame (s : State) (n cause : Nat) (r : CapRec) : State :=
  if (s.core.frames.get n).captured then s else (s.updFrame n fun f => { f with captured := true }).capTake cause r

/-- Trigger `t` fires for a copy of frame `n` on egress port `p`, if it is enabled for that port (R349). -/
def State.captureCopy (s : State) (n t p tc kindOf reason : Nat) : State :=
  let x := s.core.capture.trigs.get t
  if x.enable && x.mask.getLsbD p then s.captureFrame n s.tick (s.captureRec n t (some p) tc kindOf reason) else s

/-- RD_COUNT of the capture ring moves on to `value`, and what waits for room is written. -/
def State.capAdvance (s : State) (value : BitVec 32) : State :=
  let s1 := s.updCap fun y => { y with rd := value }
  s1.capDrain s1.core.capture.waiting

/-- CAP_RD_COUNT_WRITE (R351): The host writes the capture ring's RD_COUNT, which is ignored with CAP_INDEX if out of order. -/
def execCapRdCountWrite (value : BitVec 32) (s : State) : Out :=
  let x := s.core.capture
  if s.streamOwned 8 then .next (s.badAccess 0x0F000008)
  else if x.fill < dist32 x.rd value then .next (s.raise 828 Ev.capIndex)
  else .next (s.capAdvance value)

/-- CAP_TIMEOUT (R351): A capture record has stayed unread for IDLE_TIMEOUT. -/
def execCapTimeout (s : State) : Out :=
  let x := s.core.capture
  if x.fill = 0 ∨ x.idleTimeout = 0 ∨ x.timeoutSeen = some x.rd.toNat then .next s
  else
    let s1 := s.advance ((x.recs.get (x.rd.toNat % 262144)).written + x.idleTimeout * usC)
    .next ((s1.updCap fun y => { y with timeoutSeen := some y.rd.toNat }).raise 828 Ev.capTimeout)

/-- What the own checks and effect of CAPTURE_CONFIGURE come to (R349). -/
def bodyCaptureConfigure (enable : Bool) (trigger snap port k : Nat) (mask : BitVec 256) (s : State) : Rep :=
  Rep.ranges [decide (trigger < 5), decide (snap = 0 ∨ snap = 64 ∨ snap = 128 ∨ snap = 192 ∨ snap = 256),
      decide (if trigger = 1 then port < 256 else port = 0), decide (if trigger = 1 then k ≤ 24 else k = 0),
      decide (2 ≤ trigger) || decide (mask = 0)] <|
    .ok (s.updCap fun y => { y with trigs := y.trigs.upd trigger fun x =>
      { x with enable := enable, snap := snap, port := port, k := k, mask := mask } }) []

/-- CAPTURE_CONFIGURE (R349): Configures a capture trigger. -/
def execCaptureConfigure (src : CmdSrc) (enable : Bool) (trigger snap port k : Nat) (mask : BitVec 256) (s : State) : Out :=
  .next (s.runCmd (.captureConfigure src enable trigger snap port k mask) src 0x0B40 (bodyCaptureConfigure enable trigger snap port k mask))


/-- RD_COUNT of TSQ `q` moves on to `value`, and what waits for room is written. -/
def State.tsqAdvance (s : State) (q : Nat) (value : BitVec 32) : State :=
  let s1 := s.updTsq q fun y => { y with rd := value }
  s1.tsqPoke q (s1.tsqWork q)

/-- TSQ_RD_COUNT_WRITE (R208): The host writes a TSQ's RD_COUNT, which is ignored with TSQ_INDEX if it is out of order. -/
def execTsqRdCountWrite (queue : Nat) (value : BitVec 32) (s : State) : Out :=
  if 4 ≤ queue then .fault .noSuchObject
  else
    let x := s.time.tsqs.get queue
    if s.streamOwned (9 + queue) then .next (s.badAccess (0x00021008 + 0x40 * queue))
    else if x.fill < dist32 x.rd value then .next (s.raise (tsqSrc queue) Ev.tsqIndex)
    else .next (s.tsqAdvance queue value)

end Sys2Proof.Machine
end

