-- ==== Sys2Proof/Machine/Ports.lean ====
section
/-!
DEFINITION. Ports: modes, rates, words, latencies and states (R30 to R36, R44, R48, R72, R322, R364).
-/
namespace Sys2Proof.Machine

/-! ## Exact quantities -/

/-- An exact quantity: `num / den`. -/
structure Frac where
  num : Int
  den : Nat
deriving DecidableEq, Repr, Inhabited

/-- A whole number. -/
def Frac.ofInt (n : Int) : Frac := { num := n, den := 1 }
/-- Sum. -/
def Frac.add (a b : Frac) : Frac := { num := a.num * b.den + b.num * a.den, den := a.den * b.den }
/-- Whether `a ≤ b`. -/
def Frac.le (a b : Frac) : Bool := decide (a.num * b.den ≤ b.num * a.den)
/-- The larger. -/
def Frac.max (a b : Frac) : Frac := if a.le b then b else a
/-- The nearest whole number, half away from zero, of `k` times the quantity. -/
def Frac.times (a : Frac) (k : Nat) : Int := roundDiv (a.num * k) a.den

/-! ## Modes (R32, R364, R48) -/

/-- The lane rate code of mode, width and FEC, if they match one row of R32's table. -/
def laneRate (mode width fec : Nat) : Option Nat :=
  match mode, width, fec with
  | 0, 1, 0 => some 0
  | 1, 1, 0 => some 1
  | 1, 1, 1 => some 1
  | 2, 1, 2 => some 2
  | 3, 4, 1 => some 1
  | 3, 1, 2 => some 3
  | 4, 4, 2 => some 2
  | 4, 2, 2 => some 3
  | 5, 8, 2 => some 2
  | 5, 4, 2 => some 3
  | 6, 8, 2 => some 3
  | 7, 1, 0 => some 0
  | 8, 1, 0 => some 1
  | _, _, _ => none

/-- The lane rate code of a configured port. -/
def Port.rate (x : Port) : Nat := (laneRate x.mode x.width x.fec).getD 0

/-- Whether a port is a selvedge port. -/
def Port.isSelvedge (x : Port) : Bool := decide (7 ≤ x.mode)

/-- The rate of a mode in Mb/s before slot removal. -/
def modeMbps (mode : Nat) : Nat :=
  match mode with
  | 0 => 10000
  | 1 => 25000
  | 2 => 50000
  | 3 => 100000
  | 4 => 200000
  | 5 => 400000
  | 6 => 800000
  | 7 => 10000
  | _ => 25000

/-- The line rate, or for a selvedge port the frame capacity of R72, in 1/256 Mb/s. -/
def State.rate256 (s : State) (p : Nat) : Nat :=
  let x := s.ports.get p
  if x.isSelvedge then modeMbps x.mode * (256 - (s.selv.get p).slots) else modeMbps x.mode * 256

/-- The data-path word of a mode in bytes (R364). -/
def wordBytes (mode : Nat) : Nat :=
  match mode with
  | 4 => 128
  | 5 => 256
  | 6 => 512
  | _ => 64

/-- A time of `bits` bits at port `p`'s rate, in ns. -/
def State.bitTime (s : State) (p bits : Nat) : Frac := { num := bits * 256000, den := max 1 (s.rate256 p) }

/-- The data-path word time of port `p` in ns (R364). -/
def State.wordTime (s : State) (p : Nat) : Frac := s.bitTime p (8 * wordBytes (s.ports.get p).mode)

/-- Nominal RX latency in CORE cycles (R48): every value of the table is a whole number of them. -/
def rxCycles (mode fec : Nat) : Nat :=
  match mode with
  | 0 => 56
  | 1 => if fec = 1 then 296 else 32
  | 2 => 168
  | 3 => 104
  | 4 => 96
  | 7 => 48
  | 8 => 24
  | _ => 88

/-- Nominal TX latency in CORE cycles (R48). -/
def txCycles (mode fec : Nat) : Nat :=
  match mode with
  | 0 => 32
  | 1 => if fec = 1 then 24 else 16
  | 2 => 24
  | 7 => 24
  | 8 => 12
  | _ => 20

/-- Cycles of 0.8 ns in 2^-16 ns, rounded. -/
def cyclesU (c : Int) : Int := roundDiv (c * 262144) 5

/-! ## Ports and lanes (R34, R44, R322) -/

/-- The lanes of port `p`: itself and the next `width - 1`. -/
def State.portLanes (s : State) (p : Nat) : List Nat := (List.range (s.ports.get p).width).map (p + ·)

/-- The configured port that covers lane `l`. -/
def State.portOf (s : State) (l : Nat) : Option Nat :=
  (List.range 8).findSome? fun k =>
    if k ≤ l ∧ (s.ports.get (l - k)).configured ∧ k < (s.ports.get (l - k)).width then some (l - k) else none

/-- The state of a port: that of its first lane (R44). -/
def State.portState (s : State) (p : Nat) : LaneState := (s.lanes.get p).state

/-- Whether a port is configured and UP. -/
def State.portUp (s : State) (p : Nat) : Bool := (s.ports.get p).configured && decide (s.portState p = .up)

/-- The quadrant of a lane (R18): 64 lanes each. -/
def quadrantOf (l : Nat) : Nat := l / 64

/-- The tile a port is homed on (R322). -/
def tileOf (p : Nat) : Nat := p / 4

/-- The crossbar links of port `p`: one, or two for a width-8 port (R322). -/
def State.portLinks (s : State) (p : Nat) : List Nat :=
  if (s.ports.get p).width = 8 then [tileOf p, tileOf p + 1] else [tileOf p]

/-- Whether port `p` is a SINGLE port homed on the partner (R385). -/
def State.homedRemote (s : State) (p : Nat) : Bool :=
  s.pair.enable && match (s.pair.ports.get p).attach with
    | .singleA => s.fuses.pairStrap
    | .singleB => !s.fuses.pairStrap
    | _ => false

/-- Whether port `p` is a SINGLE port homed on this unit (R385). -/
def State.homedHere (s : State) (p : Nat) : Bool :=
  s.pair.enable && match (s.pair.ports.get p).attach with
    | .singleA => !s.fuses.pairStrap
    | .singleB => s.fuses.pairStrap
    | _ => false

end Sys2Proof.Machine
end

