-- ==== Sys2Proof/Machine/Line.lean ====
section
/-!
DEFINITION. What goes over a line: what each transmitter sends and each receiver does in a lane state, the swatch patterns, and the coding of a
selvedge lane, with its blocks, rows, bit order and scrambler (R35, R44, R53, R56, R58, R63, R64, R69 to R71, R82).
-/
namespace Sys2Proof.Machine

/-! ## Transmitters and receivers by state (R34, R44, R53, R82) -/

/-- What a transmitter sends (R44). -/
inductive TxKind where
  | unpowered | electricalIdle | idle | emptyRows | traffic | remoteFault | pattern
deriving DecidableEq, Repr

/-- What a receiver does (R44). -/
inductive RxKind where
  | unpowered | off | acquiring | checking | traffic | stopping | checker
deriving DecidableEq, Repr

/-- What the transmitter of a lane of a configured port sends in a state (R44): `selv` for a selvedge lane, `drains` while a BINDING port
still drains its traffic. -/
def LaneState.sends (st : LaneState) (selv drains : Bool) : TxKind :=
  match st with
  | .off => .unpowered
  | .down => .electricalIdle
  | .casting | .proving => if selv then .emptyRows else .idle
  | .up => .traffic
  | .fault | .held => if selv then .emptyRows else .remoteFault
  | .binding => if drains then .traffic else if selv then .emptyRows else .idle
  | .swatch => .pattern

/-- What the transmitter of lane `l` sends: a lane that belongs to no port is at electrical idle while its quadrant is powered, but for a
swatch (R34, R44). -/
def State.laneSends (s : State) (l : Nat) : TxKind :=
  let st := (s.lanes.get l).state
  match s.portOf l with
  | some p => st.sends (s.ports.get p).isSelvedge (s.ports.get p).drainTimer.isSome
  | none => match st with
    | .off => .unpowered
    | .swatch => .pattern
    | _ => .electricalIdle

/-- What the receiver of lane `l` does (R44): in FAULT it is off during the hold-down and acquires otherwise. -/
def State.laneHears (s : State) (l : Nat) : RxKind :=
  match (s.lanes.get l).state with
  | .off => .unpowered
  | .down | .held => .off
  | .casting => .acquiring
  | .proving => .checking
  | .up => .traffic
  | .fault => if (s.ports.get ((s.portOf l).getD l)).holdTimer.isSome then .off else .acquiring
  | .binding => .stopping
  | .swatch => .checker

/-- The frequency on PLCKO in Hz: LREF at 156.25 MHz whenever PD1 is on, and nothing otherwise (R53). -/
def State.plcko (s : State) : Option Nat := if s.glob.pdOn.getLsbD 1 then some 156250000 else none

/-! ## The swatch patterns (R56, R58) -/

/-- The delays whose exclusive-or gives the next bit of pattern `k` of R56's table, by its polynomial; SQUARE has none. -/
def prbsTaps (k : Nat) : List Nat :=
  match k with
  | 0 => [7, 6]
  | 1 => [9, 5]
  | 2 => [13, 12, 2, 1]
  | 3 => [15, 14]
  | 4 => [23, 18]
  | 5 => [31, 28]
  | 6 => [13, 12, 2, 1]
  | 7 => [31, 28]
  | _ => []

/-- The bit of pattern `k` that follows `past`, whose newest bit comes first. -/
def prbsNext (k : Nat) (past : List Bool) : Bool := (prbsTaps k).foldl (fun a d => a ^^ past.getD (d - 1) false) false

/-- The first `n` bits of pattern `k` after the bits `past`, newest first: SQUARE is 8 ones and 8 zeros. -/
def patternBits (k : Nat) (past : List Bool) : Nat → List Bool
  | 0 => past
  | n + 1 =>
    let l := patternBits k past n
    (if k = 8 then decide (n % 16 < 8) else prbsNext k l) :: l

/-- The PAM4 level of a pair of bits by the Gray mapping of IEEE 802.3 (R32, R56). -/
def grayLevel (msb lsb : Bool) : Nat :=
  match msb, lsb with
  | false, false => 0
  | false, true => 1
  | true, true => 2
  | true, false => 3

/-- The Gray-code bits of a PAM4 level. -/
def grayBits (level : Nat) : Bool × Bool :=
  match level with
  | 0 => (false, false)
  | 1 => (false, true)
  | 2 => (true, true)
  | _ => (true, false)

/-- The bit errors of a PAM4 symbol received as level `b` and sent as `a`: the Gray-code bits that differ (R57). -/
def symbolErrors (a b : Nat) : Nat :=
  flag ((grayBits a).1 != (grayBits b).1) 1 + flag ((grayBits a).2 != (grayBits b).2) 1

/-- Whether the generator inverts its bit `i`, counted from the order to inject (R58); on PAM4 `i` counts symbols, and it is the symbol's
least significant Gray bit that is inverted. -/
def Swatch.inverts (x : Swatch) (i : Nat) : Bool :=
  match x.injKind with
  | 1 => decide (i = 0)
  | 2 => decide (i < x.injArg)
  | 3 => decide (i % 2 ^ x.injArg = 2 ^ x.injArg - 1)
  | _ => false

/-- The bit that an NRZ generator sends where its pattern has `b` (R58). -/
def Swatch.nrzOut (x : Swatch) (i : Nat) (b : Bool) : Bool := b ^^ x.inverts i

/-- The level that a PAM4 generator sends where its pattern has the bits `msb` and `lsb` (R56, R58). -/
def Swatch.pamOut (x : Swatch) (i : Nat) (msb lsb : Bool) : Nat := grayLevel msb (lsb ^^ x.inverts i)

/-! ## Blocks of the line (R35, R63, R69, R70) -/

/-- A block of the 64b/66b stream: eight data octets, a control block of a type with the seven octets behind it, or a stitch block (R63, R69). -/
inductive LineBlock where
  | data (octets : List Byte)
  | ctl (type : Byte) (rest : List Byte)
  | stitch (word : Nat)
deriving DecidableEq, Repr

/-- The sync header of a block, first bit first: 01 for data and 10 for control, which a stitch block carries too (R63, R69). -/
def LineBlock.header : LineBlock → List Bool
  | .data _ => [false, true]
  | .ctl _ _ => [true, false]
  | .stitch _ => [true, false]

/-- The bits of an octet in the order in which Clause 49 sends them: the least significant first. -/
def octetBits (b : Byte) : List Bool := (List.range 8).map b.getLsbD

/-- The 64 payload bits of a block in the order in which they are sent: for a stitch block, bit 63 of its word first and bit 0 last (R63, R69). -/
def LineBlock.payload : LineBlock → List Bool
  | .data l => l.flatMap octetBits
  | .ctl t l => (t :: l).flatMap octetBits
  | .stitch w => (List.range 64).map fun i => w.testBit (63 - i)

/-- A block of eight idle characters: type 0x1E, and control characters of 0 (R63). -/
def idleBlock : LineBlock := .ctl 0x1E (List.replicate 7 0)

/-- The preamble and the SFD that the MAC sends before a frame (R35). -/
def macLead : List Byte := List.replicate 7 0x55 ++ [0xD5]

/-- The type of a terminate block behind `k` data octets (R63). -/
def termType (k : Nat) : Byte :=
  match k with
  | 0 => 0x87
  | 1 => 0x99
  | 2 => 0xAA
  | 3 => 0xB4
  | 4 => 0xCC
  | 5 => 0xD2
  | 6 => 0xE1
  | _ => 0xFF

/-- The octets of a frame in data blocks of eight, and the terminate block with what is left over. -/
def bodyBlocks (b : List Byte) : Nat → List LineBlock
  | 0 => []
  | n + 1 => if b.length < 8 then [.ctl (termType b.length) (b ++ List.replicate (7 - b.length) 0)]
    else .data (b.take 8) :: bodyBlocks (b.drop 8) n

/-- The stream blocks of a frame: a start block, which takes the place of the first preamble octet and carries the rest of the preamble with
the SFD, the frame, its end, and the idle blocks that bring the inter-packet gap to 12 octets at least (R35, R63, R70). The gap is counted in
stream blocks: a stitch block never counts toward it. -/
def frameBlocks (b : List Byte) : List LineBlock :=
  .ctl 0x78 (macLead.drop 1) :: bodyBlocks b (b.length / 8 + 1) ++ List.replicate ((11 + b.length % 8) / 8) idleBlock

/-- What is left of a row from block `i` on, `n` blocks of it: a stitch block at every slot position, in place of the next block of the stream,
which resumes with the block that follows; idle blocks where the stream holds no more (R68, R70). With it the rest of the stream. -/
def weave (slots : List Nat) (word : Nat → Nat) : Nat → Nat → List LineBlock → List LineBlock × List LineBlock
  | 0, _, st => ([], st)
  | n + 1, i, st =>
    if slots.contains i then
      let r := weave slots word n (i + 1) st
      (.stitch (word i) :: r.1, r.2)
    else
      let r := weave slots word n (i + 1) st.tail
      (st.headD idleBlock :: r.1, r.2)

/-- A row of 256 blocks with slots at `slots` (R66, R70). -/
def rowBlocks (slots : List Nat) (word : Nat → Nat) (st : List LineBlock) : List LineBlock × List LineBlock := weave slots word 256 0 st

/-- The receiver's stream from block `i` of a row on: the block at every slot position is removed, whatever it holds (R71). -/
def unweave (slots : List Nat) : Nat → List LineBlock → List LineBlock
  | _, [] => []
  | i, b :: l => if slots.contains i then unweave slots (i + 1) l else b :: unweave slots (i + 1) l

/-! ## The scrambler of Clause 49 (R64) -/

/-- One bit through a scrambler with the polynomial 1 + x^39 + x^58; `st` holds the last 58 bits sent, the newest in bit 0. -/
def scrambleBit (st : BitVec 58) (b : Bool) : BitVec 58 × Bool :=
  let o := b ^^ st.getLsbD 38 ^^ st.getLsbD 57
  (st <<< 1 ||| BitVec.ofNat 58 o.toNat, o)

/-- One received bit through the descrambler, which holds the last 58 bits received. -/
def descrambleBit (st : BitVec 58) (c : Bool) : BitVec 58 × Bool :=
  (st <<< 1 ||| BitVec.ofNat 58 c.toNat, c ^^ st.getLsbD 38 ^^ st.getLsbD 57)

/-- A sequence of bits scrambled from a state. -/
def scramble (st : BitVec 58) : List Bool → List Bool
  | [] => []
  | b :: l => (scrambleBit st b).2 :: scramble (scrambleBit st b).1 l

/-- A sequence of received bits descrambled from a state. -/
def descramble (st : BitVec 58) : List Bool → List Bool
  | [] => []
  | c :: l => (descrambleBit st c).2 :: descramble (descrambleBit st c).1 l

/-- A block as it goes over the line from a scrambler state: the sync header is not scrambled (R64). -/
def LineBlock.line (st : BitVec 58) (b : LineBlock) : List Bool := b.header ++ scramble st b.payload

/-- The number whose bits are `l`, the most significant first. -/
def ofBits (l : List Bool) : Nat := l.foldl (fun a b => 2 * a + b.toNat) 0

/-- What a receiver takes from the 66 bits of a slot block (R64, R69, R77): whether its sync header is that of a control block, and its word. -/
def slotOfLine (st : BitVec 58) (l : List Bool) : Bool × Nat := (decide (l.take 2 = [true, false]), ofBits (descramble st (l.drop 2)))

/-- The 66 bits of a stitch as the device sent it: the scrambler state before the block depends on what the lane has sent since its cast-on,
where it is arbitrary, so it is a free value (R64). -/
def SentStitch.line (x : SentStitch) : List Bool := (LineBlock.stitch x.word).line (Config.scramblerAt x.port x.slot)

end Sys2Proof.Machine
end

