-- ==== Sys2Proof/Machine/Roles.lean ====
section
/-!
DEFINITION. The roles of a pair, what a change of role carries with it, and the comparison of block digests (R379 to R384, R392,
R398, R400, R404 to R407).
-/
namespace Sys2Proof.Machine

/-- The CRC-64 of the pair chapter. -/
def crc64 (l : List Byte) : BitVec 64 := BitVec.ofNat 64 (crcOver 64 0x42F0E1EBA9EA3693 (2 ^ 64 - 1) l)

/-! ## Roles (R381, R382, R407) -/

/-- The timescale controller follows the role (R192, R407, R409): PAIR on a unit that is STANDBY or SYNCING; a unit that leaves these
roles takes the mirrored controller value. -/
def State.followControl (s : State) : State :=
  let pair := decide (s.pair.role = .standby ∨ s.pair.role = .syncing)
  let n := if pair then 2 else if s.time.control = 2 then s.time.mirrored else s.time.control
  if n = s.time.control then s else ({ s with time := { s.time with control := n } }).raise 656 Ev.controlChange

/-- The unit takes role `r`, with ROLE_CHANGE carrying the old and new roles and ROLE_EPOCH (R381, R416). -/
def State.setRole (s : State) (r : Role) : State :=
  let old := s.pair.role
  if old = r then s
  else (({ s with pair := { s.pair with role := r } }).followControl).raise 752 Ev.roleChange
    [.u 1 old.code, .u 1 r.code, .u 8 s.pair.epoch]

/-- The unit becomes ACTIVE: its ROLE_EPOCH is one more than the larger of its own and the last partner value (R382). -/
def State.becomeActive (s : State) : State :=
  ({ s with pair := { s.pair with epoch := (max s.pair.epoch s.pair.partnerEpoch + 1) % 2 ^ 64, joinEnd := none } }).setRole .active

/-- The unit enters SYNCING (R381, R401): it waits for the next journal; no earlier marker, CONFIRM or frogging counts on. -/
def State.enterSyncing (s : State) : State :=
  ({ s with pair := { s.pair with joinEnd := none, confirmed := false, applyAt := none, frogRun := 0, markerSeen := true } }).setRole .syncing

/-- Divergence (R406): the DIVERGENCE event carries the source and block; a standby enters SYNCING. -/
def State.diverge (s : State) (src b : Nat) : State :=
  let s1 := s.raise 757 Ev.divergence [.u 2 src, .u 2 b]
  if s.pair.role = .standby then s1.enterSyncing else s1

/-! ## Counts and records -/

/-- A count of PAIR_GET_STATUS grows: 0 cross-fed, 1 relayed, 2 XFEED_DROP, 3 NOT_LOCAL, 4 DUP, 5 DUP_WINDOW, 6 PATH_MISMATCH,
7 SYNC_DISCARD, 8 SOURCE_FOREIGN, 9 STANDBY_UNREALISED, 10 to 14 the verdicts (R415). -/
def State.pairCount (s : State) (k : Nat) : State :=
  { s with pair := { s.pair with counts := s.pair.counts.upd k fun v => satAdd 64 v 1 } }

/-- The duplicate-table entry of a source changed by `f`. -/
def State.updDup (s : State) (src : Nat) (f : DupEntry → DupEntry) : State :=
  { s with pair := { s.pair with dup := s.pair.dup.upd src f } }

/-- The own record of block `b` of source `src` changed by `f`. -/
def State.updBlock (s : State) (src b : Nat) (f : DigestRec → DigestRec) : State :=
  { s with pair := { s.pair with dup := s.pair.dup.upd src fun e => { e with
    blocks := e.blocks.map fun d => if d.block = b then f d else d } } }

/-! ## The comparison (R404) -/

/-- Whether one unit's decision part and the other's differ in the frames they saw, the home unit's XFEED_DROP frames apart. -/
def seenDiffer (a b : DigestRec) : Bool := decide (a.hS - a.hXdrop ≠ b.hS - b.hXdrop)

/-- The verdict of the first row of R404 that matches own record `a` and the partner's `b`: 0 UNIT_FAULT, 1 SEEN_DIFFER,
2 DECISION_DIFFER, 3 BENIGN, 4 AGREE. -/
def verdictOf (a b : DigestRec) : Nat :=
  if a.nFlt ≠ 0 ∨ b.nFlt ≠ 0 then 0
  else if seenDiffer a b then 1
  else if a.hD ≠ b.hD ∧ !a.exempt ∧ !b.exempt then 2
  else if a.nDel ≠ b.nDel then 3
  else 4

/-- Own record `a` of block `b` of a source is compared with the partner's record `p`: both are done with (R404, R415). -/
def State.compareWith (s : State) (src b : Nat) (a p : DigestRec) : State :=
  let v := verdictOf a p
  let s1 := (s.updDup src fun e => { e with
    blocks := e.blocks.filter fun d => decide (d.block ≠ b), partner := e.partner.filter fun d => decide (d.block ≠ b)
    verdicts := e.verdicts.upd v fun n => satAdd 64 n 1
    exemptBlocks := if a.exempt || p.exempt then e.exemptBlocks + 1 else e.exemptBlocks, lastBlock := b }).pairCount (10 + v)
  match v with
  | 0 =>
    ({ s1.hwCount 0x200030 s1.pair.digestFaults with pair := { s1.pair with digestFaults := inc32 s1.pair.digestFaults, cycleFaults := inc32 s1.pair.cycleFaults } }).raise 757
      Ev.pairFault [.u 2 src, .u 2 b, .u 1 (if a.nFlt ≠ 0 then 0 else 1)]
  | 2 => s1.diverge src b
  | _ => s1

/-- Block `b` of a source is compared once both parts of both records are there (R404). -/
def State.compareBlock (s : State) (src b : Nat) : State :=
  let e := s.pair.dup.get src
  match (e.blocks.find? fun d => d.block = b), (e.partner.find? fun d => d.block = b) with
  | some a, some p => if a.closed && a.sent && p.closed && p.sent then s.compareWith src b a p else s
  | none, some p => if p.closed && p.sent then s.compareWith src b {} p else s
  | _, _ => s

end Sys2Proof.Machine
end

