-- ==== Sys2Proof/Machine/Copies.lean ====
section
/-!
DEFINITION. Copies in the switch core: the cells they hold, and how they end (R322 to R348, R358, R359, R402, R403).
-/
namespace Sys2Proof.Machine

/-! ## Cells -/

/-- Cells of `n` bytes (R323). -/
def cellsOf (n : Nat) : Nat := ceilDiv n 256

/-- Cells a copy holds in the ingress buffer on chip: those charged that have neither crossed nor been spilled. -/
def Copy.onChip (x : Copy) : Nat := x.charge - x.crossed - x.inSkein

/-- VOQ number of ingress tile, egress port and class (R324). -/
def voqKey (t p c : Nat) : Nat := (256 * t + p) * 8 + c

/-- Sum over the copies in the device of what `f` gives. -/
def State.sumCopies (s : State) (f : Copy → Nat) : Nat := s.core.copies.foldl (fun a p => a + f p.2) 0

/-- Cells of the shared pool in use: those of the deep and plain copies on chip. -/
def State.sharedUsed (s : State) : Nat := s.sumCopies fun x => if x.kind = 0 then 0 else x.onChip

/-- The size of the shared pool (R338, R397): what the reserve, the guaranteed pool and retired cells leave. -/
def State.sharedSize (s : State) : Nat := 524288 - 4096 - s.core.gpWanted - s.core.retired

/-- Free cells of the shared pool. -/
def State.sharedFree (s : State) : Nat := s.sharedSize - s.sharedUsed

/-- On-chip cells of the deep and plain copies of class `c` (R338). -/
def State.classCells (s : State) (c : Nat) : Nat := s.sumCopies fun x => if x.kind ≠ 0 ∧ x.tc = c then x.onChip else 0

/-- Cells of queue `(p, c)` on chip, and in the skein. -/
def State.queueOnChip (s : State) (p c : Nat) : Nat := s.sumCopies fun x => if x.port = p ∧ x.tc = c then x.onChip else 0
/-- Cells of queue `(p, c)` in the skein. -/
def State.queueSkein (s : State) (p c : Nat) : Nat := s.sumCopies fun x => if x.port = p ∧ x.tc = c then x.inSkein else 0
/-- Cells of the skein in use. -/
def State.skeinCells (s : State) : Nat := s.sumCopies fun x => x.inSkein

/-- Egress buffer cells taken by a copy: those that have crossed; all of a copy in cut-through from its first cell on (R331). -/
def Copy.egressCells (x : Copy) : Nat := if x.cut && decide (1 ≤ x.crossed) then max x.crossed x.charge else x.crossed

/-- Egress buffer cells that the deep and plain classes of port `p` hold (R330). -/
def State.egressBulk (s : State) (p : Nat) : Nat := s.sumCopies fun x => if x.port = p ∧ x.kind ≠ 0 then x.egressCells else 0
/-- Free cells of the egress shared pool (R330): what the guaranteed reservations leave of 131,072, less bulk cells held. -/
def State.egressFree (s : State) (reserved : Nat) : Nat := 131072 - reserved - s.sumCopies fun x => if x.kind ≠ 0 then x.egressCells else 0

/-- A copy whose cells have all crossed is off its VOQ. -/
def State.leaveVoq (s : State) (k : Nat) : State :=
  let x := s.core.copies.get k
  if decide (0 < x.cells ∧ x.crossed = x.cells) then
    { s with core := { s.core with voqs := s.core.voqs.upd (voqKey x.inTile x.port x.tc) (·.filter (· ≠ k)) } }
  else s

/-! ## Digest outcomes (R402, R403) -/

/-- Frames of a block that have an outcome. -/
def DigestRec.resolved (d : DigestRec) : Nat := d.nDel + d.nBen + d.nFlt

/-- The outcome part of a closed block is sent once every frame of it has an outcome. -/
def State.sendOutcome (s : State) (src b : Nat) : State :=
  match (s.pair.dup.get src).blocks.find? fun d => d.block = b with
  | none => s
  | some d =>
    if d.closed && !d.sent && decide (d.resolved = d.nS) then
      (((s.updBlock src b fun e => { e with sent := true }).sendCtl (.outcome src b d.nDel d.nBen d.nFlt)).compareBlock src b)
    else s

/-- A frame's outcome enters its digest block: 0 delivered, 1 benign, 2 fault. -/
def State.foldOutcome (s : State) (src b o : Nat) : State :=
  (s.updBlock src b fun d =>
    match o with
    | 0 => { d with nDel := d.nDel + 1 }
    | 1 => { d with nBen := d.nBen + 1 }
    | _ => { d with nFlt := d.nFlt + 1 }).sendOutcome src b

/-- A frame that is done with, whose copies have all ended and which no slow path waits for, leaves the device. -/
def State.dropFrame (s : State) (n : Nat) : State :=
  let f := s.core.frames.get n
  if f.done && f.decided && decide (f.left = 0) && !f.slow then
    { s with core := { s.core with frames := s.core.frames.del n } }
  else s

/-- One copy of frame `n` has an outcome; the last one settles the frame's. -/
def State.resolveCopy (s : State) (n o : Nat) : State :=
  let f := s.core.frames.get n
  let s1 := s.updFrame n fun x => { x with worst := max x.worst o, left := x.left - 1 }
  let s2 := if f.left = 1 then
      match f.digest with
      | some d => s1.foldOutcome d.1 d.2 (max f.worst o)
      | none => s1
    else s1
  s2.dropFrame n

/-! ## The end of a copy -/

/-- Copy `k` leaves its queues and frees its cells; a contract under which it was admitted holds one copy less (R366). -/
def State.freeCopy (s : State) (k : Nat) : State :=
  let x := s.core.copies.get k
  let v := voqKey x.inTile x.port x.tc
  let e := 8 * x.port + x.tc
  let core := s.core
  let s1 := { s with core := { core with
    copies := core.copies.del k
    voqs := if core.voqs.has v then core.voqs.upd v (·.filter (· ≠ k)) else core.voqs
    egress := if core.egress.has e then core.egress.upd e (·.filter (· ≠ k)) else core.egress
    ports := if (core.ports.get x.port).sending = some k then core.ports.upd x.port fun y => { y with sending := none } else core.ports } }
  if x.kind = 0 then
    { s1 with contracts := { s1.contracts with table := s1.contracts.table.upd (4 * x.port + x.tc - 4) fun c =>
      { c with copies := c.copies - 1 } } }
  else s1

/-- The offset of a discard's counter in a queue block and in a contract block (R522), by the reason of R359: 1 port down,
2 memory error, 3 quadrant power-down, 4 late-guard. -/
def discardOffset (reason : Nat) : Nat := 0x18 + 8 * reason

/-- Whether a copy's admitted frame counts as a fault, benign or delivered when it is discarded for a reason (R403). -/
def discardOutcome (reason : Nat) : Nat := if reason = 2 ∨ reason = 4 then 2 else 1

/-- Copy `k`, of which no byte has left, is discarded: reasons 1 to 4 of R359, or 5 for a copy that counts as not admitted (R358).
The contract, the queue, the TX stamp request, the capture ring and the digest record it. -/
def State.discardCopy (s : State) (k reason : Nat) : State :=
  let x := s.core.copies.get k
  let s1 := if reason < 5 then
      let a := s.count (queueCtr x.port x.tc (discardOffset reason)) 1
      if x.kind = 0 then a.count (contractCtr x.port x.tc (0x30 + 8 * reason)) 1 else a
    else s
  let s2 := s1.captureCopy x.frame 3 x.port x.tc x.kind reason
  let s3 := (s2.tsqCopy x.frame x.port none reason).freeCopy k
  s3.resolveCopy x.frame (discardOutcome reason)

/-- Copy `k`, whose first byte has left, is to end with a stomped FCS (R336): cause 0 FCS, 1 TRUNC, 2 ECC, 3 PORT, 4 RELAY,
5 OVERSIZE; an uncorrectable memory error of an admitted guaranteed copy counts as its discard. -/
def State.stompCopy (s : State) (k cause : Nat) : State :=
  let x := s.core.copies.get k
  if x.stomp.isSome then s
  else
    let off := if cause = 5 then 0xF8 else 0x48 + 8 * cause
    let s1 := (s.updCopy k fun y => { y with stomp := some cause }).count (portCtr x.port off) 1
    let s2 := s1.updQueue x.port x.tc fun q => { q with stomps := q.stomps.set cause (satAdd 64 (q.stomps.getD cause 0) 1) }
    let s3 := if cause = 2 then
        let a := s2.count (queueCtr x.port x.tc (discardOffset 2)) 1
        if x.kind = 0 then a.count (contractCtr x.port x.tc 0x40) 1 else a
      else s2
    let s4 := s3.captureCopy x.frame 4 x.port x.tc x.kind (cause + 1)
    if cause = 2 then s4.updFrame x.frame fun f => { f with worst := 2 } else s4

/-- A copy ends: stomped if it is in transmission, discarded otherwise. -/
def State.endCopy (s : State) (k reason cause : Nat) : State :=
  if !s.core.copies.has k then s else if (s.core.copies.get k).sending then s.stompCopy k cause else s.discardCopy k reason

/-- The numbers of the copies that satisfy `p`. -/
def State.copiesWhere (s : State) (p : Copy → Bool) : List Nat := (s.core.copies.filter fun x => p x.2).map (·.1)

/-- Every copy queued for port `p` is discarded for a reason, and one in transmission ends as STOMP_PORT (R345). -/
def State.flushPort (s : State) (p reason : Nat) : State :=
  (s.copiesWhere fun x => decide (x.port = p)).foldl (fun s k => s.endCopy k reason 3) s

/-- A frame goes wrong: its copies in transmission are stomped, every other copy is discarded as not admitted (R280, R336, R347,
R358), and it is done. -/
def State.failFrame (s : State) (n cause : Nat) : State :=
  let s1 := s.updFrame n fun f => { f with done := true, bad := true, guar := [], slow := false }
  ((s.copiesWhere fun x => decide (x.frame = n)).foldl (fun s k => s.endCopy k 5 cause) s1).dropFrame n

/-- The bytes of frame `f` that have come, with four more for the FCS that its sender drops: of a frame still arriving, how many have come behind
its window, and which, are free values (R336). -/
def State.heldBytes (s : State) (f : Frame) : State × List Byte :=
  if f.done then (s, f.bytes)
  else
    let (k, s1) := s.takeFree
    let n := Config.freeNat k % max 1 (f.maxFrame - 256)
    (s1, f.bytes ++ (List.range n).map (fun i => Config.freeByte (65536 * k + i)) ++ List.replicate 4 0)

/-- A frame of `len` bytes, of which `bytes` are held, ends with an error: what it holds of the slow-path reserve and what a contract was charged beyond its cells
return (R283, R360), and its copies end as not admitted. -/
def State.badEnd (s : State) (n len : Nat) (bytes : List Byte) (cause : Nat) : State :=
  let f := s.core.frames.get n
  let cells := cellsOf len
  let back (t : Tbl Contract) (g : Nat × Nat × Nat) : Tbl Contract :=
    let key := 4 * g.1 + g.2.1 - 4
    if t.has key then t.upd key fun y => { y with level := min (y.burst * 2 ^ 40) (y.level + (g.2.2 - cells) * 2 ^ 40) } else t
  let s1 := { s with
    contracts := { s.contracts with table := f.guar.foldl back s.contracts.table }
    parse := { s.parse with reserve := s.parse.reserve - f.slowCells } }
  (s1.updFrame n fun g => { g with slowWait := [], slowCells := 0, xout := [], len := len, bytes := bytes }).failFrame n cause

/-- The frames still arriving on port `p` are ended there (R347). -/
def State.ingressDown (s : State) (p : Nat) : State :=
  ((s.core.frames.filter fun x => decide (x.2.port = p) && !x.2.done && !x.2.cpu && !x.2.xfeed).map (·.1)).foldl
    (fun (s : State) n =>
      let (s1, b) := s.heldBytes (s.core.frames.get n)
      s1.badEnd n (b.length - 4) b 3) s

/-- Whether the egress queues of port `p` hold nothing and it sends nothing (R346). -/
def State.egressIdle (s : State) (p : Nat) : Bool := (s.copiesWhere fun x => decide (x.port = p)).isEmpty

end Sys2Proof.Machine
end

