-- ==== Sys2Proof/Machine/Contracts.lean ====
section
/-!
DEFINITION. Kinds of class and contracts: the latency arithmetic, feasibility, states and commands (R356 to R376, R392).
-/
namespace Sys2Proof.Machine

/-- The key of the contract of port `p` and class `c`. -/
def contractKey (p c : Nat) : Nat := 4 * p + c - 4
/-- Its port. -/
def keyPort (k : Nat) : Nat := k / 4
/-- Its class. -/
def keyClass (k : Nat) : Nat := k % 4 + 4

/-- The kind of class `c` on port `p` (R356): 0 guaranteed, 1 deep, 2 plain. -/
def State.kindOf (s : State) (p c : Nat) : Nat :=
  if c < 4 then (if s.core.kinds.get (4 * p + c) then 1 else 2)
  else match s.contracts.table.find (contractKey p c) with
    | some x => if x.state = .draining then 2 else 0
    | none => 2

/-- RES of a contract in cells (R363). -/
def Contract.res (x : Contract) : Nat := x.burst + ceilDiv (x.rate * x.lMax) 2048000

/-- The ports of a mask that are configured. -/
def State.maskPorts (s : State) (m : BitVec 256) : List Nat :=
  (s.ports.filter fun x => x.2.configured && m.getLsbD x.1).map (·.1)

/-- The contracts that hold reservations, by key. -/
abbrev ContractTbl := Tbl Contract

/-- Σ RES over contracts. -/
def resSum (t : ContractTbl) : Nat := t.foldl (fun a x => a + x.2.res) 0

/-- The port rate that contracts count on, in 1/256 Mb/s: none for a port that is not configured. -/
def State.contractRate (s : State) (p : Nat) : Nat := if (s.ports.get p).configured then s.rate256 p else 0

/-- Whether CUT_THROUGH is set for a configured port. -/
def State.cutSet (s : State) (p : Nat) : Bool := decide (p < 256) && (s.ports.get p).configured && (s.core.ports.get p).cut

/-- Whether a contract takes frames of a port homed on the partner (R392). -/
def State.crossMask (s : State) (x : Contract) : Bool := (s.maskPorts x.mask).any s.homedRemote

/-- X_PAIR in ns (R392). -/
def State.xPair (s : State) (t : ContractTbl) : Frac :=
  let sum : Nat := t.foldl (fun a x => if s.crossMask x.2 then a + x.2.burst else a) 0
  ((Frac.mk 1904 10).add ⟨s.pair.dpl, 65536⟩).add ⟨8 * (276 * sum + 18536), 750⟩

/-- The largest of a list of times, 0 for none. -/
def maxFrac (l : List Frac) : Frac := l.foldl Frac.max (Frac.ofInt 0)

/-- lat_rx of port `i` in ns: nominal, and the deskew term of a wide port (R362). -/
def State.latRx (s : State) (i : Nat) : Frac :=
  let x := s.ports.get i
  let n : Frac := ⟨4 * rxCycles x.mode x.fec, 5⟩
  if 1 < x.width then n.add ⟨(s.lanes.get i).deskew, 65536⟩ else n

/-- F_fix of a contract on port `e` (R362). -/
def State.fFix (s : State) (t : ContractTbl) (e : Nat) (x : Contract) : Frac :=
  let per (i : Nat) : Frac :=
    let w := s.wordTime i
    let n := ceilDiv (min x.fmax 256 - 14) (wordBytes (s.ports.get i).mode)
    ((s.latRx i).add ⟨4, 5⟩).add ⟨w.num * n, w.den⟩
  let y := s.ports.get e
  let base := (((maxFrac ((s.maskPorts x.mask).map per)).add ⟨260, 1⟩).add (s.wordTime e)).add
    ⟨4 * txCycles y.mode y.fec + 4, 5⟩
  if s.crossMask x then base.add (s.xPair t) else base

/-- Whether frames of port `i` cannot cut through to port `e` (R334, R392). -/
def State.storesFrom (s : State) (i e : Nat) : Bool :=
  !(s.core.ports.get e).cut || decide (s.rate256 i < s.rate256 e)
    || (s.homedRemote i && s.pair.linkHalf && decide (400000 * 256 < s.rate256 i))

/-- S of a contract on port `e` (R362). -/
def State.sTerm (s : State) (e : Nat) (x : Contract) : Frac :=
  if x.fmax ≤ 256 then Frac.ofInt 0
  else
    let per (i : Nat) : Frac :=
      let r := if s.homedRemote i && s.pair.linkHalf then min (s.rate256 i) (400000 * 256) else s.rate256 i
      ⟨(x.fmax - 256) * 8 * 256000, max 1 r⟩
    maxFrac (((s.maskPorts x.mask).filter fun i => s.storesFrom i e).map per)

/-- The largest maximum frame length over configured ports that satisfy `p`, in cells. -/
def State.maxCells (s : State) (p : Nat → Bool) : Nat :=
  cellsOf (s.ports.foldl (fun a x => if decide (x.1 < 256) && x.2.configured && p x.1 then max a x.2.maxFrame else a) 0)

/-- X of the contract of key `k` (R362). -/
def State.xTerm (s : State) (t : ContractTbl) (k : Nat) (x : Contract) : Frac :=
  let tile := tileOf (keyPort k)
  let g : Nat := t.foldl (fun a y => if tileOf (keyPort y.1) = tile ∧ keyClass k ≤ keyClass y.1 then a + y.2.burst else a) 0
  let mo := if s.ports.any (fun y => decide (tileOf y.1 = tile) && s.cutSet y.1) then s.maxCells (fun _ => true) else 0
  let tiles := (s.maskPorts x.mask).map tileOf
  let mi := if s.ports.any (fun y => s.cutSet y.1) then s.maxCells (fun i => tiles.contains (tileOf i)) else 0
  ⟨32 * (64 * g + 4 * mo + 4 * mi), 10⟩

/-- Q of the contract of key `k` (R362): none where the higher classes leave the port no rate. -/
def State.qTerm (s : State) (t : ContractTbl) (k : Nat) : Option Frac :=
  let e := keyPort k
  let b : Nat := t.foldl (fun a y => if keyPort y.1 = e ∧ keyClass k ≤ keyClass y.1 then a + y.2.burst else a) 0
  let rho : Nat := t.foldl (fun a y => if keyPort y.1 = e ∧ keyClass k < keyClass y.1 then a + y.2.rate * 276 else a) 0
  let r := s.contractRate e
  if r ≤ rho then none
  else some ⟨8 * (276 * b + (s.ports.get e).maxFrame + 20) * 256000, r - rho⟩

/-- The terms of R362: F_fix, S, X and Q. -/
structure LTerms where
  f : Frac
  st : Frac
  x : Frac
  q : Option Frac
deriving DecidableEq, Repr, Inhabited

/-- The terms of the contract of key `k`. -/
def State.lTerms (s : State) (t : ContractTbl) (k : Nat) (x : Contract) : LTerms :=
  { f := s.fFix t (keyPort k) x, st := s.sTerm (keyPort k) x, x := s.xTerm t k x, q := s.qTerm t k }

/-- L_need, where every term exists. -/
def LTerms.need (l : LTerms) : Option Frac := l.q.map fun q => ((l.f.add l.st).add l.x).add q

/-- Condition LATENCY for one contract (R365). -/
def State.latencyOk (s : State) (t : ContractTbl) (k : Nat) (x : Contract) : Bool :=
  match (s.lTerms t k x).need with
  | some n => n.le (Frac.ofInt x.lMax)
  | none => false

/-- Condition RATE on the contract's port, and on the pair link for contracts that cross it (R365, R392). -/
def State.rateOk (s : State) (t : ContractTbl) (k : Nat) (x : Contract) : Bool :=
  let e := keyPort k
  let sum : Nat := t.foldl (fun a y => if keyPort y.1 = e then a + y.2.rate * 276 else a) 0
  let cross : Nat := t.foldl (fun a y => if s.crossMask y.2 then a + y.2.rate * 276 else a) 0
  decide (sum ≤ s.contractRate e)
    && (!(s.crossMask x) || decide (cross ≤ (if s.pair.linkHalf then 89600000 else 192000000)))

/-- Condition FRAME: the FMAX rule of R357 for the present configuration. -/
def State.frameOk (s : State) (k : Nat) (x : Contract) : Bool :=
  decide (x.fmax < 256) ||
    ((s.maskPorts x.mask).all (fun i => decide ((s.ports.get i).maxFrame ≤ x.fmax))
      && decide (x.fmax ≤ (s.ports.get (keyPort k)).maxFrame))

/-- The first condition of R365 that fails with contract `x` under key `k` in place, with the key of the contract that fails it.
DRAINING contracts stay in the sums and are not judged. -/
def State.infeasible (s : State) (t : ContractTbl) (k : Nat) (x : Contract) : Option (Nat × Nat) :=
  let others := t.filter fun y => decide (y.1 ≠ k ∧ y.2.state ≠ .draining ∧ tileOf (keyPort y.1) = tileOf (keyPort k)
    ∧ keyClass y.1 ≤ keyClass k)
  if !s.latencyOk t k x then some (1, k)
  else match others.find? fun y => !s.latencyOk t y.1 y.2 with
    | some y => some (1, y.1)
    | none =>
      if !s.rateOk t k x then some (2, k)
      else if s.core.gpSize < resSum t then some (3, k)
      else if 114688 < resSum t then some (4, k)
      else if !s.frameOk k x then some (5, k)
      else none

/-- The code of the first condition of R365 that contract `k` fails by itself, 0 for none (R367). -/
def State.judgeContract (s : State) (k : Nat) (x : Contract) : Nat :=
  let t := s.contracts.table
  if !s.latencyOk t k x then 1
  else if !s.rateOk t k x then 2
  else if s.core.gpSize < resSum t then 3
  else if 114688 < resSum t then 4
  else if !s.frameOk k x then 5
  else 0

/-- Contract `k` changed by `f`. -/
def State.updContract (s : State) (k : Nat) (f : Contract → Contract) : State :=
  { s with contracts := { s.contracts with table := s.contracts.table.upd k f } }

/-- Every contract is evaluated again: one that fails is suspended, one that passes again is resumed (R366, R367); overlays are to be
validated again (R428). -/
def State.reevaluate (s : State) : State :=
  State.dependentChange <| s.contracts.table.foldl (fun s y =>
    let code := s.judgeContract y.1 y.2
    let who := [Fld.u 2 (keyPort y.1), Fld.u 2 (keyClass y.1)]
    match y.2.state with
    | .active =>
      if code = 0 then s
      else (s.updContract y.1 fun x => { x with state := .suspended, susCode := code }).raise 829 Ev.contractSuspended
        (who ++ [.u 2 code])
    | .suspended =>
      if code ≠ 0 then s.updContract y.1 fun x => { x with susCode := code }
      else (s.updContract y.1 fun x => { x with state := .active, susCode := 0 }).raise 829 Ev.contractResumed who
    | .draining => s) s

/-- Cells of the ingress buffer that the reserve and retirement leave. -/
def State.poolCells (s : State) : Nat := 524288 - 4096 - s.core.retired

/-- GP_SIZE is to be `size`: the cells in use by the shared pool move as they become free (R397). -/
def State.takePool (s : State) (size : Nat) : State :=
  ({ s with core := { s.core with gpWanted := size, gpSize := min size (s.poolCells - s.sharedUsed) } }).reevaluate

/-- Cells that have become free move to the guaranteed pool, where it is short of its size (R397). -/
def State.poolFollow (s : State) : State :=
  if s.core.gpSize < min s.core.gpWanted (s.poolCells - s.sharedUsed) then s.takePool s.core.gpWanted else s

/-- CONTRACT_DRAINED (R366): The last copy of a DRAINING contract leaves or is discarded and its reservations are released. -/
def execContractDrained (port cls : Nat) (s : State) : Out :=
  if 256 ≤ port ∨ cls < 4 ∨ 8 ≤ cls then .fault .noSuchObject
  else
    let k := contractKey port cls
    match s.contracts.table.find k with
    | none => .next s
    | some x =>
      if x.state = .draining ∧ x.copies = 0 then
        let s1 := { s with contracts := { s.contracts with table := s.contracts.table.del k } }
        .next ((s1.raise 829 Ev.contractDrained [.u 2 port, .u 2 cls]).reevaluate)
      else .next s

/-- The results of CONTRACT_SET and CONTRACT_CHECK: L_need, its four terms and RES (R375). -/
def State.contractTerms (s : State) (t : ContractTbl) (k : Nat) (x : Contract) : List Fld :=
  let l := s.lTerms t k x
  let out (f : Option Frac) : Fld := .i 8 (match f with | some y => y.times 65536 | none => 2 ^ 63 - 1)
  [out l.need, out (some l.f), out (some l.st), out (some l.x), out l.q, .u 4 x.res]

/-- The range conditions of a contract's parameters (R357), in the order of R375. -/
def contractRanges (port cls lMax rate burst fmax : Nat) (mask : BitVec 256) : List Bool :=
  [decide (port < 256), decide (4 ≤ cls ∧ cls < 8), decide (lMax % nsU = 0 ∧ 600 * nsU ≤ lMax ∧ lMax ≤ 100000 * nsU),
    decide (1 ≤ rate ∧ rate ≤ 800000), decide (1 ≤ burst ∧ burst ≤ 4096 ∧ cellsOf fmax ≤ burst),
    decide (64 ≤ fmax ∧ fmax ≤ 16384), decide (mask ≠ 0)]

/-- The contract that CONTRACT_SET puts in place (R366): a new one with its bucket full, or new parameters with the level kept and
clamped. -/
def State.newContract (s : State) (k lMax rate burst fmax : Nat) (mask : BitVec 256) : Contract :=
  match s.contracts.table.find k with
  | none => { state := .active, lMax := lMax / nsU, rate := rate, burst := burst, fmax := fmax, mask := mask
              level := burst * 2 ^ 40, tLast := s.tick }
  | some x => { x with state := .active, lMax := lMax / nsU, rate := rate, burst := burst, fmax := fmax, mask := mask
                       level := min x.level (burst * 2 ^ 40), susCode := 0 }

/-- MAX_SEEN_GET of contract `k` as CONTRACT_GET returns it: a CLEAR in the CORE cycle of a latency returns the value of before that cycle, and
keeps that latency for the next read (R11, R375). -/
def State.maxSeenGet (s : State) (clear : Bool) (k : Nat) (x : Contract) : Nat :=
  if clear && (s.contracts.latest s.now).has k then ((s.contracts.latest s.now).get k).2 else x.maxSeenGet

/-- ST_CONTRACT_INFEASIBLE with the reason code, port and class (R365, R448). -/
def infeasibleRep (code key : Nat) : Rep := .fail stInfeasible [.u 2 code, .u 2 (keyPort key), .u 2 (keyClass key)]

/-- What the own checks and effect of CONTRACT_SET come to (R365). -/
def bodyContractSet (replace : Bool) (port cls lMax rate burst fmax : Nat) (mask : BitVec 256) (s : State) : Rep :=
  Rep.ranges (contractRanges port cls lMax rate burst fmax mask) <|
    let k := contractKey port cls
    let old := s.contracts.table.find k
    let blocked : Bool := match old with | some x => !replace || decide (x.state = .draining) | none => false
    if blocked then .badState
    else
      let x := s.newContract k lMax rate burst fmax mask
      let t := s.contracts.table.set k x
      match s.infeasible t k x with
      | some f => infeasibleRep f.1 f.2
      | none => .ok { s with contracts := { s.contracts with table := t } } (s.contractTerms t k x)

/-- What the own checks and effect of CONTRACT_CHECK come to (R365). -/
def bodyContractCheck (_replace : Bool) (port cls lMax rate burst fmax : Nat) (mask : BitVec 256) (s : State) : Rep :=
  Rep.ranges (contractRanges port cls lMax rate burst fmax mask) <|
    let k := contractKey port cls
    let x := s.newContract k lMax rate burst fmax mask
    let t := s.contracts.table.set k x
    match s.infeasible t k x with
    | some f => infeasibleRep f.1 f.2
    | none => .ok s (s.contractTerms t k x)

/-- What the own checks and effect of CONTRACT_DELETE come to (R366). -/
def bodyContractDelete (port cls : Nat) (s : State) : Rep :=
  Rep.ranges [decide (port < 256), decide (4 ≤ cls ∧ cls < 8)] <|
    let k := contractKey port cls
    match s.contracts.table.find k with
    | none => .ok s [.u 1 0]
    | some x =>
      if x.state = .draining then .ok s [.u 1 0]
      else .ok (s.updContract k fun y => { y with state := .draining }) [.u 1 1]

/-- What the own checks and effect of CONTRACT_GET come to (R375). -/
def bodyContractGet (clear : Bool) (port cls : Nat) (s : State) : Rep :=
  Rep.ranges [decide (port < 256), decide (4 ≤ cls ∧ cls < 8)] <|
    let k := contractKey port cls
    match s.contracts.table.find k with
    | none => .badState
    | some x =>
      let offs := (List.range 11).map fun i => contractCtr port cls (8 * i)
      let counts := offs.map fun o => Fld.u 8 (s.sinceBase clear o)
      let st := match x.state with | .active => 0 | .suspended => 1 | .draining => 2
      let res := [Fld.u 1 st, .u 8 (x.lMax * nsU), .u 4 x.rate, .u 4 x.burst, .u 4 x.fmax, .raw 8 (beBytes 32 x.mask.toNat)]
        ++ s.contractTerms s.contracts.table k x
        ++ [.i 8 x.level, .u 8 (s.contracts.maxSeen.get k), .u 8 (s.maxSeenGet clear k x)] ++ counts
      .ok (if clear then (s.rebaseAll offs).updContract k fun y => { y with maxSeenGet := ((s.contracts.latest s.now).get k).1 } else s) res

/-- What the own checks and effect of CLASS_SET_KIND come to (R356). -/
def bodyClassSetKind (port cls kind : Nat) (s : State) : Rep :=
  Rep.ranges [decide (port < 256 ∨ port = 0xFFFF), decide (cls < 4), decide (kind < 2)] <|
    let ps := if port = 0xFFFF then List.range 256 else [port]
    .ok { s with core := { s.core with kinds := ps.foldl (fun t p => t.set (4 * p + cls) (decide (kind = 0))) s.core.kinds } } []

/-- What the own checks and effect of GUARANTEED_POOL_SET come to (R375). -/
def bodyGuaranteedPoolSet (size : Nat) (s : State) : Rep :=
  Rep.ranges [decide (size ≤ 262144)] <|
    if size < resSum s.contracts.table then infeasibleRep 3 ((s.contracts.table.map (·.1)).headD 0)
    else if s.core.gpSize + s.sharedFree < size then .fail stBusy []
    else .ok ({ s with core := { s.core with gpSize := size, gpWanted := size } }.reevaluate) []

/-- CONTRACT_SET (R365): Installs or replaces a feasible contract and takes its reservations. -/
def execContractSet (src : CmdSrc) (replace : Bool) (port cls lMax rate burst fmax : Nat) (mask : BitVec 256) (s : State) : Out :=
  .next (s.runCmd (.contractSet src replace port cls lMax rate burst fmax mask) src 0x0521 (bodyContractSet replace port cls lMax rate burst fmax mask))

/-- CONTRACT_DELETE (R366): Moves a contract to DRAINING. -/
def execContractDelete (src : CmdSrc) (port cls : Nat) (s : State) : Out :=
  .next (s.runCmd (.contractDelete src port cls) src 0x0522 (bodyContractDelete port cls))

/-- CONTRACT_CHECK (R365): Computes a contract's budget terms without installing it. -/
def execContractCheck (src : CmdSrc) (replace : Bool) (port cls lMax rate burst fmax : Nat) (mask : BitVec 256) (s : State) : Out :=
  .next (s.runCmd (.contractCheck src replace port cls lMax rate burst fmax mask) src 0x0523 (bodyContractCheck replace port cls lMax rate burst fmax mask))

/-- CONTRACT_GET (R375): Returns a contract's state, parameters, terms, bucket, maxima and counts. -/
def execContractGet (src : CmdSrc) (clear : Bool) (port cls : Nat) (s : State) : Out :=
  .next (s.runCmd (.contractGet src clear port cls) src 0x0524 (bodyContractGet clear port cls))

/-- CLASS_SET_KIND (R356): Makes a class TC0 to TC3 deep or plain on a port. -/
def execClassSetKind (src : CmdSrc) (port cls kind : Nat) (s : State) : Out :=
  .next (s.runCmd (.classSetKind src port cls kind) src 0x0520 (bodyClassSetKind port cls kind))

/-- GUARANTEED_POOL_SET (R375): Resizes the guaranteed pool against the shared pool. -/
def execGuaranteedPoolSet (src : CmdSrc) (size : Nat) (s : State) : Out :=
  .next (s.runCmd (.guaranteedPoolSet src size) src 0x0525 (bodyGuaranteedPoolSet size))


end Sys2Proof.Machine
end

