-- ==== Sys2Proof/Machine/Lanes.lean ====
section
/-!
DEFINITION. Lanes and ports: the channel table, latched settings, temperatures, latencies, and the transitions of cast-on
and bind-off (R30 to R55).
-/
namespace Sys2Proof.Machine

/-! ## The channel table (R37 to R41) -/

/-- A signed byte at offset `o`. -/
def sByte (l : List Byte) (o : Nat) : Int := signedOf 8 (l.getD o 0).toNat

/-- The entry whose 32 bytes are `l` (R38). -/
def eqEntryOf (l : List Byte) : EqEntry :=
  { lane := ofBe (slice l 0 2), rate := (l.getD 2 0).toNat, flags := (l.getD 3 0).toNat
    pre2 := sByte l 4, pre1 := sByte l 5, main := sByte l 6, post1 := sByte l 7
    ctleLo := sByte l 8, ctleHi := sByte l 9, vgaLo := sByte l 10, vgaHi := sByte l 11
    dfe1Lo := sByte l 12, dfe1Hi := sByte l 13, dfe2Lo := sByte l 14, dfe2Hi := sByte l 15
    dfe3Lo := sByte l 16, dfe3Hi := sByte l 17 }

/-- Whether `v` lies between `lo` and `hi`. -/
def within (lo hi v : Int) : Bool := decide (lo ≤ v ∧ v ≤ hi)

/-- Whether an entry is within R38's ranges. -/
def EqEntry.ok (e : EqEntry) : Bool :=
  decide (e.lane < 264) && decide (e.rate < 4) && (decide (e.lane < 256) || decide (e.rate = 3)) &&
  decide (e.flags < 16) && (decide (e.flags < 4) || decide (2 ≤ e.rate)) &&
  within (-8) 0 e.pre2 && within (-24) 0 e.pre1 && within 24 63 e.main && within (-24) 0 e.post1 &&
  decide (-e.pre2 - e.pre1 + e.main - e.post1 ≤ 63) &&
  within 0 31 e.ctleLo && within 0 31 e.ctleHi && within 0 63 e.vgaLo && within 0 63 e.vgaHi &&
  within (-64) 63 e.dfe1Lo && within (-64) 63 e.dfe1Hi && within (-32) 31 e.dfe2Lo && within (-32) 31 e.dfe2Hi &&
  within (-32) 31 e.dfe3Lo && within (-32) 31 e.dfe3Hi

/-- Whether two entries name the same lane and rate. -/
def EqEntry.same (a b : EqEntry) : Bool := decide (a.lane = b.lane ∧ a.rate = b.rate)

/-- Whether no two entries of a list name the same lane and rate. -/
def entriesDistinct : List EqEntry → Bool
  | [] => true
  | e :: l => !(l.any e.same) && entriesDistinct l

/-- The channel table in `l` (R37): its status by R39, and the table where that is ST_OK. A record shorter than its
entries is a CRC failure. -/
def readTable (l : List Byte) : Nat × Option ChanTable :=
  let n := ofBe (slice l 6 2)
  let size := 32 + 32 * n
  let r := l.take size
  let crcBytes := r.take 28 ++ [0, 0, 0, 0] ++ r.drop 32
  if l.length < size ∨ crc32 crcBytes ≠ ofBe (slice r 28 4) then (stCrc, none)
  else
    let raw := (List.range n).map fun i => slice r (32 + 32 * i) 32
    let es := raw.map eqEntryOf
    let tLo := signedOf 16 (ofBe (slice r 24 2))
    let tHi := signedOf 16 (ofBe (slice r 26 2))
    let ok := decide (ofBe (slice r 0 4) = 0x4B5A4354) && decide (ofBe (slice r 4 2) = 1) && decide (1 ≤ n ∧ n ≤ 1056) &&
      decide (ofBe (slice r 16 8) ≠ 0) && within (-640) 2000 tLo && within (tLo + 160) 2000 tHi &&
      es.all EqEntry.ok && raw.all (fun x => (x.drop 18).all (· = 0)) && entriesDistinct es
    if ok then
      (stOk, some { boardId := ofBe (slice r 8 8), epoch := ofBe (slice r 16 8), tLo := tLo, tHi := tHi, entries := es })
    else (stRange, none)

/-- A table becomes the active one; every lane's latched settings are cleared, and the settings in use stay (R41). -/
def State.activateTable (s : State) (t : ChanTable) : State :=
  { s with chan := some t, lanes := s.lanes.mapAll fun _ x => { x with latched := [] } }

/-- At boot both copies of the base image are checked (R40). -/
def State.bootTables (s : State) (a b : List Byte) : State :=
  match (readTable a).2, (readTable b).2 with
  | some x, some y =>
    if x = y then s.activateTable x
    else (s.activateTable (if x.epoch < y.epoch then y else x)).raise 0 Ev.tableCopyDiffer
  | some x, none => (s.activateTable x).raise 0 Ev.tableCopyDiffer
  | none, some y => (s.activateTable y).raise 0 Ev.tableCopyDiffer
  | none, none => s.raise 0 Ev.tableAbsent

/-- The entry of a lane and rate in the active table. -/
def State.entryFor (s : State) (lane rate : Nat) : Option EqEntry :=
  match s.chan with
  | none => none
  | some t => t.entries.find? fun e => decide (e.lane = lane ∧ e.rate = rate)

/-- Whether every lane of port `p` has an entry at the port's rate. -/
def State.tableServes (s : State) (p : Nat) : Bool :=
  (s.portLanes p).all fun l => (s.entryFor l (s.ports.get p).rate).isSome

/-! ## Latched settings (R42, R43) -/

/-- The sensor of a lane, and those that stand in for it (R43). -/
def laneSensors (lane : Nat) : Nat × List Nat :=
  if lane < 256 then (lane / 16, (List.range 4).map (4 * (lane / 64) + ·)) else (0, [1, 2, 3])

/-- The temperature of a lane by its sensor or the valid ones that stand in; none where no sensor is valid. -/
def State.laneTemp (s : State) (lane : Nat) : Option Int :=
  match s.sensorMean (laneSensors lane).1 with
  | some t => some t
  | none => match s.meanOver (laneSensors lane).2 with
    | some t => some t
    | none => s.meanOver (List.range 16)

/-- A field interpolated at `tn` (R42): `f` is clamped to 0 to 1, and the value rounded half away from zero. -/
def interpolate (tLo tHi tn lo hi : Int) : Int :=
  let n := clampInt 0 (tHi - tLo) (tn - tLo)
  roundDiv (lo * (tHi - tLo) + (hi - lo) * n) (tHi - tLo).toNat

/-- The settings that an entry gives at temperature `tn`. -/
def EqEntry.settings (e : EqEntry) (t : ChanTable) (tn : Int) : Latched :=
  let v := interpolate t.tLo t.tHi tn
  { rate := e.rate, temp := tn, ctle := v e.ctleLo e.ctleHi, vga := v e.vgaLo e.vgaHi, dfe1 := v e.dfe1Lo e.dfe1Hi
    dfe2 := v e.dfe2Lo e.dfe2Hi, dfe3 := v e.dfe3Lo e.dfe3Hi }

/-- The latched settings of a lane at a rate. -/
def Lane.latchedAt (x : Lane) (rate : Nat) : Option Latched := x.latched.find? fun y => decide (y.rate = rate)

/-- Lane `l` takes its settings into use for a rate: those latched, or else those the table gives at this moment's
temperature, which are latched. The flag says that the temperature was unknown or outside the table's. -/
def State.latchLane (s : State) (l rate : Nat) : State × Bool :=
  let x := s.lanes.get l
  match x.latchedAt rate with
  | some y => (s.updLane l fun z => { z with inUse := some y }, false)
  | none =>
    match s.chan, s.entryFor l rate with
    | some t, some e =>
      let known := s.laneTemp l
      let tn := known.getD ((x.inUse.map (·.temp)).getD t.tLo)
      let y := e.settings t tn
      (s.updLane l fun z => { z with latched := y :: z.latched, inUse := some y },
        known.isNone || decide (tn < t.tLo ∨ t.tHi < tn))
    | _, _ => (s, false)

/-- The lanes of port `p` take their settings; TEMP_EXTRAPOLATED is raised where one was extrapolated (R42, R43). -/
def State.latchPort (s : State) (p : Nat) : State :=
  let rate := (s.ports.get p).rate
  let r := (s.portLanes p).foldl (fun (a : State × Bool) l => let b := a.1.latchLane l rate; (b.1, a.2 || b.2)) (s, false)
  if r.2 then r.1.raise (portSrc p) Ev.tempExtrapolated else r.1

/-- While a lane is UP, a temperature more than 30 °C from the latched one raises TEMP_DRIFT once (R43). -/
def State.tempDrift (s : State) : State :=
  s.ports.foldl (fun s q =>
    let p := q.1
    let drifted := (s.portLanes p).any fun l =>
      match s.laneTemp l, (s.lanes.get l).inUse with
      | some t, some y => decide (480 < (t - y.temp).natAbs)
      | _, _ => false
    if s.portUp p && drifted && !(s.lanes.get p).driftRaised then
      (s.updLane p fun x => { x with driftRaised := true }).raise (portSrc p) Ev.tempDrift
    else s) s

/-! ## Latency (R48 to R50) -/

/-- The group-delay term of lane `l` for the settings in use. -/
def State.groupDelay (s : State) (l rate : Nat) (tx : Bool) : Int :=
  match (s.lanes.get l).inUse with
  | none => 0
  | some y => Config.groupDelay l rate tx y.ctle y.dfe1 y.dfe2 y.dfe3

/-- The deskew term of lane `l` of port `p`: none for a port of width 1. -/
def State.deskewOf (s : State) (p l : Nat) : Int := if (s.ports.get p).width = 1 then 0 else (s.lanes.get l).deskew

/-- The actual RX latency of lane `l` of port `p` in 2^-16 ns (R49). -/
def State.rxLatency (s : State) (p l : Nat) : Int :=
  let x := s.ports.get p
  cyclesU (rxCycles x.mode x.fec) + Config.rxTrim l + s.groupDelay l x.rate false + s.deskewOf p l

/-- The actual TX latency of lane `l` of port `p` in 2^-16 ns (R49): the same four terms. -/
def State.txLatency (s : State) (p l : Nat) : Int :=
  let x := s.ports.get p
  cyclesU (txCycles x.mode x.fec) + Config.txTrim l + s.groupDelay l x.rate true + s.deskewOf p l

/-! ## Timing uplinks (R54, R150) -/

/-- Whether port `p` is designated a timing uplink: an enabled slot REF8 to REF23 names it. -/
def State.isUplink (s : State) (p : Nat) : Bool :=
  (List.range 16).any fun k => let x := s.ref.slots.get (8 + k); x.enable && decide (x.src = p)

/-- The accepted receive-frequency offset of port `p` in 2^-8 ppb (R52, R83). -/
def State.freqLimit (s : State) (p : Nat) : Nat :=
  if 256 ≤ p then 20000 * 256
  else if (s.ports.get p).isSelvedge then (if s.isUplink p then 20000 * 256 else 2000 * 256)
  else 200000 * 256

/-! ## Transitions (R45) -/

/-- Every lane of port `p` enters a state. -/
def State.setPort (s : State) (p : Nat) (st : LaneState) : State :=
  (s.portLanes p).foldl (fun s l => s.updLane l fun x => { x with state := st }) s

/-- Every lane of port `p` reports a cause as its last. -/
def State.setCause (s : State) (p c : Nat) : State :=
  (s.portLanes p).foldl (fun s l => s.updLane l fun x => { x with lastCause := c }) s

/-- The receiver of selvedge port `p` hunts for its rows (R80, R89); another port has none. -/
def State.huntRows (s : State) (p : Nat) : State :=
  if (s.ports.get p).isSelvedge then
    s.updSelv p fun x => { x with
      rowState := .hunt, confirmCount := 0, rowBad := false, held := [], fail0 := 0, failPos := [0, 0, 0], passPos := [0, 0, 0]
      rxRowKnown := false }
  else s

/-- The receiver of port `p` acquires anew: no lane is locked, the present lane window of its lanes is not VALID (R121), and a selvedge
port hunts for its rows (R80, R89). -/
def State.acquire (s : State) (p : Nat) : State :=
  ((s.portLanes p).foldl (fun (s : State) l =>
    (s.updLane l fun x => { x with lockFlags := 0, tapOn := false }).updTdc l fun c => { c with
      winBad := true, coastTick := none, buildOut := 0 }) s).huntRows p

/-- Lane `l` is no longer locked: its taps end, and its lane window is not VALID (R51, R121). -/
def State.laneUnlocked (s : State) (l : Nat) : State :=
  (s.updLane l fun x => { x with tapOn := false }).updTdc l fun c => { c with winBad := true }

/-- Port `p` is cast on: settings are latched, and the cast-on timer starts. A selvedge receiver learns its rows again (R89). Two points are
DESIGN CHOICES of log entry 102: under AUTO a lane with nothing latched latches at the temperature of the instant at which its hold-down
expires, and before any pair is accepted the age of the last pair and the ranging timeout count from the start of the cast-on. The link delay
stays stale until a pair is accepted (R88). -/
def State.startCasting (s : State) (p : Nat) : State :=
  let s1 := ((s.latchPort p).setPort p .casting).acquire p
  let s2 := s1.updPort p fun x => { x with
    castTimer := some (s.now + cyclesOf x.castTimeout), castExpired := false, holdTimer := none, provingEnd := none }
  if (s.ports.get p).isSelvedge then
    (s2.updAsym p fun x => { x with rtts := [], freshRtt := false }).updSelv p fun x => { x with
      rxRowKnown := false, marks := [], echoRow := none, echoDue := [], lastEchoMark := none, timeDue := []
      rttKnown := false, outliers := 0, lastPair := s.now, rangeEnd := s.now + cyclesOf x.rangeTimeout
      timeSec := none, timeNs := none, markRxAt := none, timeWords := false }
  else s2.updPtp p fun x => { x with rtts := [], dOutliers := 0 }

/-- Port `p` enters FAULT, and its hold-down starts (R45, R47). -/
def State.enterFault (s : State) (p : Nat) : State :=
  ((s.setPort p .fault).acquire p).updPort p fun x => { x with
    castTimer := none, castExpired := false, provingEnd := none, holdTimer := some (s.now + cyclesOf x.holdDown) }

/-- Port `p` enters HELD. -/
def State.enterHeld (s : State) (p : Nat) : State :=
  ((s.setPort p .held).acquire p).updPort p fun x => { x with
    castTimer := none, castExpired := false, provingEnd := none, holdTimer := none }

/-- An expiry of the cast-on timer of port `p`, just counted, sends it to FAULT: the first since PORT_CAST_ON raises CAST_ON_TIMEOUT (R45). -/
def State.castExpire (s : State) (p : Nat) : State :=
  let s1 := (s.enterFault p).setCause p Ev.castOnTimeout
  if (s.ports.get p).castTimeouts = 1 then s1.raise (portSrc p) Ev.castOnTimeout else s1

/-- Acquisition on port `p` restarts while the cast-on timer runs on; with the timer expired the port goes to FAULT (R45). -/
def State.recast (s : State) (p : Nat) : State :=
  if (s.ports.get p).castExpired then s.castExpire p
  else ((s.setPort p .casting).acquire p).updPort p fun x => { x with provingEnd := none }

/-- A loss from UP (R45): the flap count slides; the port goes to FAULT, or to HELD at the flap limit; every copy queued for it
and every frame arriving on it ends (R345, R347). -/
def State.upLoss (s : State) (p cause : Nat) : State :=
  let x := s.ports.get p
  let flaps := s.now :: recent x.flaps s.now (cyclesOf x.flapWindow)
  let s1 := s.updPort p fun y => { y with flaps := flaps }
  let s2 := (s.portLanes p).foldl (fun t l => t.updLane l fun y => { y with losPending := decide (cause = Ev.lockLoss) }) s1
  if x.flapLimit ≤ flaps.length then
    (((((s2.enterHeld p).setCause p Ev.flapLimit).flushPort p 1).ingressDown p).raise (portSrc p) cause).raise (portSrc p)
      Ev.flapLimit
  else ((((s2.enterFault p).setCause p cause).flushPort p 1).ingressDown p).raise (portSrc p) cause

/-- Port `p` reaches UP (R45): counts that a cast-on clears are cleared, and CAST_ON_DONE is raised. -/
def State.enterUp (s : State) (p : Nat) : State :=
  let s1 := (s.setPort p .up).updPort p fun x => { x with
    castTimer := none, castExpired := false, provingEnd := none, pointerFails := 0 }
  let s2 := (s.portLanes p).foldl (fun t l => t.updLane l fun y =>
    { y with losPending := false, driftRaised := false, lastCause := Ev.castOnDone }) s1
  { s2 with
    pair := { s2.pair with ports := s2.pair.ports.upd p fun y => { y with pathSeen := false } } }.raise (portSrc p) Ev.castOnDone

/-- The new deskew terms of port `p`: DESKEW_CHANGED is raised where one differs from that of the previous cast-on, and the
contracts are judged again (R50, R366). -/
def State.takeDeskew (s : State) (p : Nat) (ds : List Int) : State :=
  if (s.ports.get p).width = 1 then s
  else
    let pairs := (s.portLanes p).zip ds
    let changed := pairs.any fun q => (s.lanes.get q.1).deskewKnown && decide ((s.lanes.get q.1).deskew ≠ q.2)
    let s1 := pairs.foldl (fun t q => t.updLane q.1 fun y => { y with deskew := q.2, deskewKnown := true }) s
    if changed then (s1.raise (portSrc p) Ev.deskewChanged).reevaluate else s1

/-- The proving window of port `p` ends (R45, R46): the frequency check comes first, then the pointer check. -/
def State.proved (s : State) (p : Nat) (pointersOk : Bool) (offsets deskews : List Int) : State :=
  let s0 := ((s.portLanes p).zip offsets).foldl (fun t q => t.updLane q.1 fun y => { y with freqOff := q.2 }) s
  let lim : Nat := s.freqLimit p
  if offsets.any fun o => decide (lim < o.natAbs) then
    ((s0.enterFault p).setCause p Ev.freqRange).raise (portSrc p) Ev.freqRange
  else if pointersOk then (s0.takeDeskew p deskews).enterUp p
  else
    let n := (s.ports.get p).pointerFails + 1
    let s1 := s0.updPort p fun x => { x with pointerFails := n }
    if 3 ≤ n then ((s1.enterHeld p).setCause p Ev.latencyFault).raise (portSrc p) Ev.latencyFault
    else s1.recast p

/-- A declared loss on port `p` (R45). One that leaves the state of a port as it is still resets its row lock to HUNT (R80). -/
def State.portLoss (s : State) (p cause : Nat) : State :=
  match s.portState p with
  | .casting => (s.recast p).setCause p cause
  | .proving => (s.recast p).setCause p cause
  | .up => s.upLoss p cause
  | _ => if cause = Ev.lockLoss then s.huntRows p else s

/-- The PORT_BIND_OFF commands that wait for port `p` complete with ST_OK (R60). -/
def State.finishBinds (s : State) (p : Nat) : State :=
  let l := (s.ports.get p).bindWait
  l.foldl (fun t src => t.finish src 0x0303 stOk 0 []) (s.updPort p fun x => { x with bindWait := [] })

/-- Port `p` enters DOWN by bind-off, with BIND_OFF_DONE (R45); a frame still arriving ends with its receiver (R347). -/
def State.bindOffDone (s : State) (p : Nat) : State :=
  ((((((s.setPort p .down).acquire p).updPort p fun x => { x with
    castTimer := none, castExpired := false, provingEnd := none, holdTimer := none, drainTimer := none
    lingerTimer := none }).setCause p Ev.bindOffDone).ingressDown p).raise (portSrc p) Ev.bindOffDone).finishBinds p

/-- The egress of a BINDING port has nothing more to send: what is left is discarded with reason port down, and the
linger of 10 µs starts (R45, R346). -/
def State.startLinger (s : State) (p : Nat) : State :=
  (s.flushPort p 1).updPort p fun x => { x with drainTimer := none, lingerTimer := some (s.now + 10 * usC) }

/-- Bind-off of port `p` begins, with the drain timeout `drain` in 2^-16 ns (R45): from UP the port drains; from another state
of cast-on it goes to DOWN at once. -/
def State.bindOff (s : State) (p drain : Nat) : State :=
  match s.portState p with
  | .up => (s.setPort p .binding).updPort p fun x => { x with
      drainTimer := some (s.now + cyclesOf drain), lingerTimer := none, bindTick := s.tick }
  | .casting | .proving | .fault | .held => s.bindOffDone p
  | _ => s

/-! ## Power (R21, R44, R45) -/

/-- The lanes of quadrant `q`. -/
def quadrantLanes (q : Nat) : List Nat := (List.range 64).map (64 * q + ·)

/-- The configured ports of quadrant `q`. -/
def State.quadrantPorts (s : State) (q : Nat) : List Nat :=
  (s.ports.filter fun x => x.2.configured && decide (x.1 < 256 ∧ quadrantOf x.1 = q)).map (·.1)

/-- Quadrant `q` goes off: its lanes enter OFF; what is queued for its ports is discarded with reason quadrant power-down, the
frames arriving on them end there, and a PORT_BIND_OFF in progress completes (R21, R45, R347). -/
def State.quadrantOff (s : State) (q : Nat) : State :=
  let ports := s.quadrantPorts q
  let s1 := (quadrantLanes q).foldl (fun t l => t.updLane l fun x =>
    { x with state := .off, energySince := none, lockFlags := 0, tapOn := false
             swatch := { x.swatch with locked := false, sweeping := false } }) s
  ports.foldl (fun t p =>
    ((((t.acquire p).updPort p fun x => { x with
      castTimer := none, castExpired := false, provingEnd := none, holdTimer := none, drainTimer := none
      lingerTimer := none }).flushPort p 3).ingressDown p).finishBinds p) s1

/-- Quadrant `q` comes on: its lanes enter DOWN, and nothing is latched after power-on (R42, R45). -/
def State.quadrantOn (s : State) (q : Nat) : State :=
  (quadrantLanes q).foldl (fun t l => t.updLane l fun x => { x with state := .down, latched := [], inUse := none }) s

/-- The pair lanes come on with PD1 (R18). -/
def State.pairLanesOn (s : State) : State :=
  ((List.range 8).map (256 + ·)).foldl (fun t l => t.updLane l fun x =>
    { x with state := .down, latched := [], inUse := none }) s

end Sys2Proof.Machine
end

