-- ==== Sys2Proof/Machine/Timescale.lean ====
section
/-!
DEFINITION. The timescale: KTIME and its segments, steps and their guard, the reading windows, and TX stamp timeouts
(R179 to R212).
-/
namespace Sys2Proof.Machine

/-! ## KTIME (R181, R182) -/

/-- KTIME at TICK `t` with fraction `sub` by a segment, in 2^-16 ns (R182). -/
def Segment.ktime (g : Segment) (t sub : Nat) : Int :=
  let x : Int := ((t : Int) - g.t0) * 65536 + sub
  g.k0 + x * 4 * (281474976710656 + g.rate) / (5 * 281474976710656)

/-- The segment in force at TICK `t`: the newest that has started. -/
def segAt (l : List Segment) (t : Nat) : Segment :=
  match l.find? fun g => decide (g.t0 ≤ t) with
  | some g => g
  | none => l.getLastD {}

/-- The current segment. -/
def State.seg (s : State) : Segment := segAt s.time.segs s.tick

/-- KTIME of a stamp (R199). -/
def State.kOf (s : State) (tick sub : Nat) : Int := (segAt s.time.segs tick).ktime tick sub

/-- KTIME now. -/
def State.ktime (s : State) : Int := s.kOf s.tick 0

/-- The window time W (R190). -/
def State.wTime (s : State) : Int := max s.time.wMax s.ktime

/-- The first TICK at which a segment's KTIME reaches `k`. -/
def Segment.tickAt (g : Segment) (k : Int) : Nat :=
  let need := (k - g.k0) * 5 * 281474976710656
  let den := 4 * (281474976710656 + g.rate)
  if need ≤ 0 then g.t0
  else
    let x := (need + den - 1) / den
    g.t0 + ((x + 65535) / 65536).toNat

/-- The TICK of the first CORE cycle, from now on, in which W is at or after `k` (R191), by the present segment. -/
def State.fireTick (s : State) (k : Int) : Nat := if k ≤ s.wTime then s.tick else s.seg.tickAt k

/-- The TICK at which W first reaches `k`, by the segments from the oldest on (R190, R191): in the first of them in which KTIME reaches `k`
before the next one starts, or at that one's start. -/
def reachTick : List Segment → Int → Nat
  | [], _ => 0
  | [g], k => g.tickAt k
  | g :: h :: l, k => if g.tickAt k < h.t0 then g.tickAt k else reachTick (h :: l) k

/-! ## Lane-window boundaries (R120) -/

/-- The lane window in CORE cycles. -/
def State.winC (s : State) : Nat := winCycles s.tdc.laneWin

/-- The first lane-window boundary after TICK `t`. -/
def State.nextBoundary (s : State) (t : Nat) : Nat := (t / s.winC + 1) * s.winC

/-! ## Changes (R183, R187 to R192, R210, R211) -/

/-- The timescale receives a change: it takes effect at the first boundary at least 1,024 CORE cycles later (R183). -/
def State.timeChange (s : State) (kind : TimeChgKind) (a b c : Int) (src : CmdSrc) (own : Bool := false) : State :=
  { s with time := { s.time with
    changes := s.time.changes ++ [{ kind := kind, a := a, b := b, c := c, src := src, own := own, due := s.tick + 1024 }] } }

/-- The opcode of the command that gives a kind of change. -/
def TimeChgKind.opcode : TimeChgKind → Nat
  | .rate => 0x0603
  | .step => 0x0602
  | .set => 0x0601
  | .control => 0x0604
  | .utc => 0x0606
  | .guard => 0x0C10
  | .allowance => 0x0C11

/-- A change is settled: the command that gave it completes; for the firmware's own step, the servo learns its outcome, and a
refusal raises SERVO_STEP_REFUSED (R228). -/
def State.settleChange (s : State) (c : TimeChg) (st t : Nat) : State :=
  if c.own then
    if c.kind = .step then
      let s1 := { s with ptp := { s.ptp with servo := { s.ptp.servo with
        lastStepOk := decide (st = stOk), refusedAt := if st = stOk then s.ptp.servo.refusedAt else some t } } }
      if st = stOk then s1 else s1.raise 810 Ev.servoStepRefused
    else s
  else s.finish c.src c.kind.opcode st 0 (if st = stStepRefused then [] else [.u 8 t])

/-- What a boundary has made of the changes before it: the steps admitted, the rate, and how outputs take the move. -/
structure TimeAcc where
  /-- the state -/
  s : State
  /-- sum of admitted steps -/
  delta : Int := 0
  /-- part of it that outputs slew: steps admitted by the guard -/
  slew : Int := 0
  /-- a step under an allowance or a TIME_SET while UNSET took effect: outputs are placed directly (R173) -/
  direct : Bool := false
  /-- last rate received -/
  rate : Option Int := none
  /-- a step or TIME_SET took effect -/
  stepped : Bool := false
  /-- sum of the admitted steps, however they were admitted (R175) -/
  admitted : Int := 0
  /-- a TIME_SET while UNSET took effect (R173, R175) -/
  unset : Bool := false
  /-- a segment started -/
  started : Bool := false

/-- The sum of the steps admitted by the guard with boundaries in (T - V, T] (R187). -/
def guardSum (l : List (Nat × Int)) (v t : Nat) : Nat :=
  l.foldl (fun a p => if t < p.1 + cyclesOf v then a + p.2.natAbs else a) 0

/-- A step Δ of 2^-16 ns as events carry it, in the form of R210: whole nanoseconds, signed, and sub-nanoseconds added to them (R212). -/
def stepFlds (d : Int) : List Fld := [.i 8 (d / 65536), .u 2 (d % 65536).toNat]

/-- A step or TIME_SET refused with ST_STEP_REFUSED is counted and raises STEP_REFUSED with Δ (R187, R189). -/
def State.stepRefused (s : State) (d : Int) : State :=
  ({ s.hwCount 0x20028 s.time.refused with time := { s.time with refused := inc32 s.time.refused } }).raise 656 Ev.stepRefused (stepFlds d)

/-- A step of `d` taking effect at boundary `t` is judged by the guard and the allowance (R187, R188). -/
def TimeAcc.step (a : TimeAcc) (t : Nat) (d : Int) (c : TimeChg) : TimeAcc :=
  let s := a.s
  let x := s.time
  let refuse (_ : Unit) : TimeAcc :=
    { a with s := (s.stepRefused d).settleChange c stStepRefused t }
  let allow (y : Time) : State := ({ s with time := { y with stepCount := y.stepCount + 1 } }).raise 656 Ev.stepAdmitted (stepFlds d)
  if d.natAbs + guardSum x.guardSteps x.guardV t ≤ x.guardG then
    { a with
      s := (allow { x with guardSteps := (t, d) :: x.guardSteps }).settleChange c stOk t
      delta := a.delta + d, slew := a.slew + d, admitted := a.admitted + d, stepped := true }
  else
    match x.allowance with
    | some y =>
      if t < y.expiry && (decide (0 ≤ d) == y.forward) && decide (d.natAbs ≤ y.mag * nsU) then
        { a with
          s := (allow { x with allowance := none }).settleChange c stOk t
          delta := a.delta + d, direct := true, admitted := a.admitted + d, stepped := true }
      else refuse ()
    | none => refuse ()

/-- A change takes effect at boundary `t` (R183, R189, R192, R210, R211). -/
def TimeAcc.apply (t : Nat) (a : TimeAcc) (c : TimeChg) : TimeAcc :=
  let s := a.s
  let done (s : State) : State := s.settleChange c (s.okStatus c.src c.kind.opcode) t
  match c.kind with
  | .rate => { a with s := done s, rate := some c.a }
  | .step => a.step t c.a c
  | .set =>
    let k := s.seg.ktime t 0 + a.delta
    if s.time.set_ then
      let b := a.step t (c.a - k) c
      if b.s.time.stepCount = s.time.stepCount then b
      else { b with s := b.s.raise 656 Ev.timeSetDone }
    else if k ≤ c.a then
      { a with
        s := done (({ s with time := { s.time with set_ := true } }).raise 656 Ev.timeSetDone)
        delta := a.delta + (c.a - k), direct := true, unset := true, stepped := true }
    else
      { a with s := (s.stepRefused (c.a - k)).settleChange c stStepRefused t }
  | .control =>
    let n := c.a.toNat
    let n1 := if s.time.control = 2 then 2 else n
    let s1 := { s with time := { s.time with control := n1, mirrored := n } }
    { a with s := done (if s.time.control = n1 then s1 else s1.raise 656 Ev.controlChange) }
  | .utc =>
    { a with s := done { s with time := { s.time with
        utc := c.a, leap61 := decide (c.b = 1), leap59 := decide (c.c = 1), utcValid := true } } }
  | .guard => a
  | .allowance =>
    { a with s := done { s with time := { s.time with
        allowance := some { forward := decide (c.a = 0), mag := c.b.toNat, expiry := t + cyclesOf c.c.toNat } } } }

/-- The new guard limits due at a boundary are installed before any step is judged (R211). -/
def State.applyGuards (s : State) (t : Nat) (l : List TimeChg) : State :=
  l.foldl (fun s c =>
    if c.kind = .guard then
      ({ s with time := { s.time with guardG := c.a.toNat, guardV := c.b.toNat } }).finish c.src c.kind.opcode stOk 0 [.u 8 t]
    else s) s

/-- What TIME_GET returns (R210). -/
def State.timeStatus (s : State) : List Fld :=
  let x := s.time
  let al := x.allowance
  [.u 1 (flag x.set_ 1), .u 1 (flag x.held 1), .u 1 x.control, .i 8 s.seg.rate, .u 8 x.guardG, .u 8 x.guardV,
   .i 8 (guardSum x.guardSteps x.guardV s.tick),
   .u 1 (match al with | some y => flag (!y.forward) 1 | none => 0), .u 8 (match al with | some y => y.mag | none => 0),
   .u 8 (match al with | some y => (cyclesU (y.expiry - s.tick)).toNat | none => 0),
   .u 8 (s.seg.num + 1), .u 4 x.utc.toNat, .u 1 (flag x.leap61 1), .u 1 (flag x.leap59 1), .u 1 (flag x.utcValid 1)]

/-- The timescale's work at lane-window boundary `t`: the changes due take effect (the steps wait while the Keeper restarts, R29), one segment starts if any of them or
continuation asks for it, the windows start or stop holding, and the TIME_GETs complete (R183, R184, R190, R210). What the
outputs take from it is answered with the new state. -/
def State.timeBoundary (s : State) (t : Nat) : TimeAcc :=
  let now (c : TimeChg) : Bool := decide (c.due ≤ t) && !(s.glob.keeperRestarting && decide (c.kind = .step ∨ (c.kind = .set ∧ s.time.set_)))
  let due := s.time.changes.filter now
  let s1 := ({ s with time := { s.time with changes := s.time.changes.filter fun c => !now c } }).applyGuards t due
  let old := s1.seg
  let a := due.foldl (TimeAcc.apply t) { s := s1 }
  let kOld := old.ktime t 0
  let cont := decide (old.t0 + 68719476736 ≤ t)
  let starts := a.stepped || a.rate.isSome || cont
  let s2 := if starts then
      let g : Segment := { num := old.num + 1, t0 := t, k0 := kOld + a.delta, rate := a.rate.getD old.rate, step := a.stepped,
                           cont := cont && !a.stepped && a.rate.isNone, stepSum := a.delta }
      { a.s with time := { a.s.time with
        segs := (g :: a.s.time.segs).take 256, wMax := max a.s.time.wMax kOld
        guardSteps := a.s.time.guardSteps.filter fun p => decide (t < p.1 + 3600 * secC) } }
    else a.s
  let held := decide (kOld + (if starts then a.delta else 0) < s2.time.wMax) && decide (s2.time.wMax ≠ 0)
  let s3 := if held && !s2.time.held then ({ s2 with time := { s2.time with held := true } }).raise 656 Ev.holdStart
    else if !held && s2.time.held then ({ s2 with time := { s2.time with held := false } }).raise 656 Ev.holdEnd
    else s2
  let w := s3.time.getWait
  let s4 := { s3 with time := { s3.time with getWait := [] } }
  { a with s := w.foldl (fun s src => s.finish src 0x0605 stOk 0 s.timeStatus) s4, started := starts }

/-! ## Commands (R210, R211) -/

/-- Whether the host controls the timescale (R192). -/
def State.hostControls (s : State) : Bool := decide (s.time.control = 0)

/-- What the own checks and effect of TIME_SET come to (R210): the command completes at the boundary. -/
def bodyTimeSet (src : CmdSrc) (target : KTime) (s : State) : Rep :=
  Rep.ranges [decide (target.sec < 2 ^ 64 ∧ target.ns < 1000000000 ∧ target.sub < 65536)] <|
    if s.hostControls then .later (s.timeChange .set (KTime.units target) 0 0 src) true else .fail stNotPermitted []

/-- What the own checks and effect of TIME_STEP come to (R210). -/
def bodyTimeStep (src : CmdSrc) (ns : Int) (sub : Nat) (s : State) : Rep :=
  let d := ns * 65536 + sub
  Rep.ranges [decide (d.natAbs ≤ 10 ^ 18 * 65536), decide (sub < 65536)] <|
    if s.hostControls then .later (s.timeChange .step d 0 0 src) true else .fail stNotPermitted []

/-- What the own checks and effect of TIME_SET_RATE come to (R186, R210). -/
def bodyTimeSetRate (src : CmdSrc) (rate : Int) (s : State) : Rep :=
  Rep.ranges [decide (rate.natAbs ≤ 28147497671)] <|
    if s.hostControls then .later (s.timeChange .rate rate 0 0 src) true else .fail stNotPermitted []

/-- What the own checks and effect of TIME_SET_CONTROL come to (R192, R210). -/
def bodyTimeSetControl (src : CmdSrc) (control : Nat) (s : State) : Rep :=
  Rep.ranges [decide (control < 2)] <|
    let mirrored := match src with | .journal _ _ => true | _ => false
    if s.time.control = 2 ∧ !mirrored then Rep.badState else .later (s.timeChange .control control 0 0 src) true

/-- What the own checks and effect of TIME_GET come to (R210): it completes at the next lane-window boundary. -/
def bodyTimeGet (src : CmdSrc) (s : State) : Rep :=
  .later { s with time := { s.time with getWait := s.time.getWait ++ [src] } } false

/-- What the own checks and effect of TIME_SET_UTC come to (R210). -/
def bodyTimeSetUtc (src : CmdSrc) (leap61 leap59 : Bool) (offset : Nat) (s : State) : Rep :=
  if leap61 && leap59 then Rep.flags
  else Rep.ranges [decide (offset < 256)] <|
    .later (s.timeChange .utc offset (flag leap61 1) (flag leap59 1) src) true

/-- What the own checks and effect of SEC_SET_STEP_GUARD come to (R211): G and V in 2^-16 ns (R447), of which STEP_GUARD and GUARD_WINDOW show whole
nanoseconds and whole seconds. -/
def bodySecSetStepGuard (src : CmdSrc) (g v : Nat) (s : State) : Rep :=
  Rep.ranges [decide (g ≤ 1000000 * nsU), decide (secU ≤ v ∧ v ≤ 3600 * secU)] <|
    .later (s.timeChange .guard g v 0 src) true

/-- What the own checks and effect of SEC_AUTHORISE_STEP come to (R211). -/
def bodySecAuthoriseStep (src : CmdSrc) (direction magnitude validity : Nat) (s : State) : Rep :=
  let top := if direction = 0 then 10 ^ 18 else 10 ^ 9
  Rep.ranges [decide (direction < 2), decide (1 ≤ magnitude ∧ magnitude ≤ top), decide (secU ≤ validity ∧ validity ≤ 60 * secU)] <|
    .later (s.timeChange .allowance direction magnitude validity src) true

/-- TIME_SET (R189): Sets KTIME to a target at the next boundary, without the guard while UNSET. -/
def execTimeSet (src : CmdSrc) (target : KTime) (s : State) : Out :=
  .next (s.runCmd (.timeSet src target) src 0x0601 (bodyTimeSet src target))

/-- TIME_STEP (R187): Requests a step of KTIME judged by the step guard at the next boundary. -/
def execTimeStep (src : CmdSrc) (ns : Int) (sub : Nat) (s : State) : Out :=
  .next (s.runCmd (.timeStep src ns sub) src 0x0602 (bodyTimeStep src ns sub))

/-- TIME_SET_RATE (R186): Sets RATE_ADJ for a new segment at the next boundary. -/
def execTimeSetRate (src : CmdSrc) (rate : Int) (s : State) : Out :=
  .next (s.runCmd (.timeSetRate src rate) src 0x0603 (bodyTimeSetRate src rate))

/-- TIME_SET_CONTROL (R192): Moves timescale control between HOST and SERVO. -/
def execTimeSetControl (src : CmdSrc) (control : Nat) (s : State) : Out :=
  .next (s.runCmd (.timeSetControl src control) src 0x0604 (bodyTimeSetControl src control))

/-- TIME_GET (R210): Returns the timescale state, rate, guard, allowance and UTC fields at the next boundary. -/
def execTimeGet (src : CmdSrc) (s : State) : Out :=
  .next (s.runCmd (.timeGet src) src 0x0605 (bodyTimeGet src))

/-- TIME_SET_UTC (R210): Sets the UTC offset and leap flags for readers. -/
def execTimeSetUtc (src : CmdSrc) (leap61 leap59 : Bool) (offset : Nat) (s : State) : Out :=
  .next (s.runCmd (.timeSetUtc src leap61 leap59 offset) src 0x0606 (bodyTimeSetUtc src leap61 leap59 offset))

/-- SEC_SET_STEP_GUARD (R211): The Keeper installs a new step guard G and window V at the next boundary. -/
def execSecSetStepGuard (src : CmdSrc) (g v : Nat) (s : State) : Out :=
  .next (s.runCmd (.secSetStepGuard src g v) src 0x0C10 (bodySecSetStepGuard src g v))

/-- SEC_AUTHORISE_STEP (R188): The Keeper grants an allowance for one large step in one direction. -/
def execSecAuthoriseStep (src : CmdSrc) (direction magnitude validity : Nat) (s : State) : Out :=
  .next (s.runCmd (.secAuthoriseStep src direction magnitude validity) src 0x0C11 (bodySecAuthoriseStep src direction magnitude validity))


/-! ## Instants (R188, R190) -/

/-- ALLOWANCE_EXPIRED (R188): An allowance reaches its validity unused and expires. -/
def execAllowanceExpired (s : State) : Out :=
  match s.time.allowance with
  | none => .next s
  | some a =>
    let s1 := s.advanceTick a.expiry
    .next (({ s1 with time := { s1.time with allowance := none } }).raise 656 Ev.allowanceExpired)

/-- HOLD_END (R190): KTIME reaches the held window time and the windows stop holding. -/
def execHoldEnd (s : State) : Out :=
  if !s.time.held then .next s
  else
    let s1 := s.advanceTick (s.seg.tickAt s.time.wMax)
    .next (({ s1 with time := { s1.time with held := false } }).raise 656 Ev.holdEnd)

/-! ## Reading windows (R193 to R198, R204) -/

/-- TAKE (R193): A read of TAKE returns a ticket and captures TICK and W into a snapshot slot. -/
def execTake (pf1 : Bool) (s : State) : Out :=
  let x := s.time
  let t := if pf1 then x.ticket1 else x.ticket0
  let v : Snap := { ticket := t, w := s.wTime, held := x.held, unset := !x.set_, tick := s.tick }
  let h : HostIf := { s.host with readData := (leBytes 4 t.toNat).map some }
  if pf1 then .next { s with time := { x with ticket1 := t + 1, snaps1 := x.snaps1.set (t.toNat % 16) v }, host := h }
  else .next { s with time := { x with ticket0 := t + 1, snaps0 := x.snaps0.set (t.toNat % 16) v }, host := h }

/-- An accepted edge of PPS_IN `n` updates its capture (R204, R212). -/
def State.ppsCapture (s : State) (n : Nat) (v : Stamp) : State :=
  let c := s.time.caps.get n
  let x : PpsCap := { count := c.count + 1, sub := v.sub, tick := v.tick, k := s.kOf v.tick v.sub, stale := v.stale }
  ({ s with time := { s.time with caps := s.time.caps.set n x } }).raise (657 + n) Ev.ppsCapture

/-! ## TX stamp timeouts (R206) -/

/-- The outstanding request of a queue whose deadline comes first. -/
def firstDeadline (l : List TsqReq) : Option TsqReq :=
  l.foldl (fun b r => if r.final_.isSome then b else match b with
    | none => some r
    | some x => if r.deadline < x.deadline then some r else some x) none

/-- TSQ_STAMP_TIMEOUT (R206): A TX stamp request reaches STAMP_TIMEOUT and its entry becomes final. -/
def execTsqStampTimeout (queue : Nat) (s : State) : Out :=
  if 4 ≤ queue then .fault .noSuchObject
  else
    match firstDeadline (s.time.tsqs.get queue).reqs with
    | none => .next s
    | some r =>
      let s1 := s.advance r.deadline
      let e : TsqEntry := if r.sent.isSome then r.entry s1.tick else { kind := 2, id := r.id, value := s1.tick }
      .next (s1.tsqEnd queue r e)

end Sys2Proof.Machine
end

