-- ==== Sys2Proof/Machine/Servo.lean ====
section
/-!
DEFINITION. Levels of slots and of the device (R157 to R159), the asymmetry of links and the selvedge delays (R231, R234 to
R236), and the time servo (R227 to R229).
-/
namespace Sys2Proof.Machine

/-! ## Levels (R158, R159) -/

/-- The device level and hop count by the DPLL state (R159). -/
def State.deviceLevel (s : State) : Nat × Nat :=
  let r := s.ref
  let slot := r.slots.get (r.selected.getD 0)
  let hops := min 255 (slot.hops + 1)
  match r.state with
  | .locked => (slot.level, hops)
  | .switching => (slot.level, hops)
  | .acquire => (max slot.level 8, hops)
  | .holdover =>
    if r.xoLoss then (14, 0)
    else if r.inSpecOver || r.estShort || !r.estValid then (if r.levelBefore ≤ 8 then 8 else r.levelBefore, 0)
    else (if r.levelBefore ≤ 4 then 4 else r.levelBefore, 0)
  | .freerun => (r.freeLevel, 0)
  | .steered => (r.steerLevel, 0)

/-- The Ethernet ports with ESMC enabled: those of lane slots (R159, R177). -/
def State.esmcPorts (s : State) : List Nat :=
  (List.range 16).filterMap fun k =>
    let x := s.ref.slots.get (8 + k)
    if x.enable && x.esmc && !(s.ports.get x.src).isSelvedge then some x.src else none

/-- The squelch of the PPS and CLKOUT outputs follows the device level: the first edge after a squelch ends is placed at the
target directly (R172 to R175). -/
def State.squelchOutputs (s : State) : State :=
  let beyond (q : Nat) : Bool := decide (q < s.ref.level)
  { s with ref := { s.ref with
    pps := s.ref.pps.mapAll fun _ x =>
      { x with squelched := beyond x.squelch, direct := x.direct || x.squelched, residual := if x.squelched then 0 else x.residual
               highEnd := if x.enable && !beyond x.squelch then x.highEnd else 0 }
    clk := s.ref.clk.mapAll fun _ x =>
      if beyond x.squelch = x.squelched then x
      else { x with squelched := beyond x.squelch, residual := 0, since := s.now } } }

/-- The device level and hop count follow the DPLL; a change raises DEVICE_LEVEL, and a change of level has an ESMC event PDU sent
(R159, R178). -/
def State.refreshLevel (s : State) : State :=
  let v := s.deviceLevel
  if s.ref.level = v.1 ∧ s.ref.hops = v.2 then s
  else
    let due := if s.ref.level = v.1 then s.ref.esmcDue else s.esmcPorts
    (({ s with ref := { s.ref with level := v.1, hops := v.2, esmcDue := due } }).raise 808 Ev.deviceLevel).squelchOutputs

/-- The event source of a slot (R150). -/
def slotSrc (n : Nat) : Nat := 584 + n

/-- Slot `n` takes a level and a hop count from its level source, unless its override flag is set (R159). -/
def State.slotLevel (s : State) (n level hops : Nat) : State :=
  let x := s.ref.slots.get n
  let l := if x.overrideLevel then x.cfgLevel else level
  let s1 := s.updSlot n fun y => { y with level := l, rxLevel := level, hops := hops, levelSeen := s.now, levelDead := false }
  (if x.level = l then s1 else s1.raise (slotSrc n) Ev.levelChange).refreshLevel

/-- The enabled lane slot of port `p` (R54, R150). -/
def State.laneSlot (s : State) (p : Nat) : Option Nat :=
  ((List.range 16).map (8 + ·)).find? fun n => (s.ref.slots.get n).enable && decide ((s.ref.slots.get n).src = p)

/-! ## Asymmetry and delays (R231, R234 to R236) -/

/-- The asymmetry of port `p` at a round trip (R234, R235). -/
def State.asymOf (s : State) (p : Nat) (rtt : Int) : Int :=
  let x := s.ptp.asym.get p
  if x.dual && !x.fallback then x.c + roundDiv (x.qF * ((x.lambdaOut : Int) - x.lambdaIn)) 1000000
  else x.c + roundDiv (x.alpha * rtt) (2 ^ 40)

/-- The downlink delay of selvedge port `p`, with the asymmetry in force when its last sample was accepted (R231). -/
def State.dDown (s : State) (p : Nat) : Int := let x := s.ptp.asym.get p; roundDiv (x.rttF + x.asymAt) 2
/-- The uplink delay of port `p` (R231). -/
def State.dUp (s : State) (p : Nat) : Int := let x := s.ptp.asym.get p; roundDiv (x.rttF - x.asymAt) 2

/-- Asymmetry of port `p` changed by `f`, with its partner's. -/
def State.updDual (s : State) (p : Nat) (f : Asym → Asym) : State := (s.updAsym p f).updAsym (s.ptp.asym.get p).partner f

/-- The mean of a list, rounded. -/
def meanInt (l : List Int) : Int := if l.isEmpty then 0 else roundDiv (l.foldl (· + ·) 0) l.length

/-- The parents' identities of two ports' PTP instances differ (R236). -/
def State.peersDiffer (s : State) (a b : Nat) : Bool :=
  let id (p : Nat) : Option Nat := ((s.ptp.insts.get (s.ptp.ports.get p).inst).parent).map (·.clock)
  !(s.ports.get a).isSelvedge && decide (id a ≠ id b)

/-- The round trip that a port of a dual-colour pair offers. -/
def State.pairRtt (s : State) (p : Nat) : Int :=
  if (s.ports.get p).isSelvedge then (s.ptp.asym.get p).rttF else (s.ptp.ports.get p).rttF

/-- A dual-colour sample is discarded and counted on both ports (R236): by the q limit, or because the parents differ. -/
def State.discardDual (s : State) (p : Nat) (peer : Bool) : State :=
  s.updDual p fun x => { x with discards := inc32 x.discards, peerOff := peer, discRun := if peer then x.discRun else x.discRun + 1 }

/-- The dual-colour pair of ports `a` and `b` at a lane-window boundary (R235, R236). -/
def State.dualSample (s : State) (a b : Nat) : State :=
  let x := s.ptp.asym.get a
  let y := s.ptp.asym.get b
  let s0 := s.updDual a fun z => { z with freshRtt := false }
  let ports : List Fld := [.u 2 a, .u 2 b]
  if s.peersDiffer a b then
    let s1 := s0.discardDual a true
    if x.peerOff then s1 else s1.raise 815 Ev.asymPeer ports
  else
    let d : Int := ((x.lambdaOut : Int) + x.lambdaIn) - ((y.lambdaOut : Int) + y.lambdaIn)
    let n : Int := ((s.pairRtt a - x.k) - (s.pairRtt b - y.k)) * 1000000
    let q := if 0 ≤ d then roundDiv n d.toNat else roundDiv (-n) (-d).toNat
    if x.qLimit * 65536 < q.natAbs then
      let s1 := s0.discardDual a false
      if x.discRun + 1 = 16 then s1.raise 815 Ev.asymImplausible ports else s1
    else
      let old := if x.fallback then [] else x.qs.filter fun v => decide (s.now < v.1 + cyclesOf x.avg)
      let qs := (s.now, q) :: old
      s0.updDual a fun z => { z with
        qs := qs, qF := meanInt (qs.map (·.2)), fallback := false, discRun := 0, peerOff := false, lastAccept := s.now }

/-- Every dual-colour pair both of whose ports have a fresh round trip gives a sample (R235). -/
def State.dualBoundary (s : State) : State :=
  s.ptp.asym.foldl (fun s v =>
    let b := v.2.partner
    if v.2.dual && decide (v.1 < b) && v.2.freshRtt && (s.ptp.asym.get b).dual && (s.ptp.asym.get b).freshRtt then s.dualSample v.1 b else s) s

/-- ASYM_FALLBACK (R236): No dual-colour sample has been accepted for the dual coast limit and both ports fall back to COEFFICIENT. -/
def execAsymFallback (port : Nat) (s : State) : Out :=
  if 256 ≤ port then .fault .noSuchObject
  else
    let x := s.ptp.asym.get port
    if x.dual && !x.fallback then
      let s1 := s.advance (x.lastAccept + cyclesOf x.coast)
      .next ((s1.updDual port fun z => { z with fallback := true }).raise 815 Ev.asymFallback [.u 2 port, .u 2 x.partner])
    else .next s

/-! ## The time servo (R227 to R229) -/

/-- The servo changed by `f`. -/
def State.updServo (s : State) (f : Servo → Servo) : State := { s with ptp := { s.ptp with servo := f s.ptp.servo } }

/-- Whether the servo controls the timescale (R192). -/
def State.servoControls (s : State) : Bool := decide (s.time.control = 1)

/-- A rate offset of `v` 2^-8 ppb in 2^-48. -/
def rateOf (v : Nat) : Nat := (2 * v * 1099511627776 + 1000000000) / 2000000000

/-- The first boundary at which a change received now takes effect (R183). -/
def State.dueBoundary (s : State) : Nat := s.nextBoundary (s.tick + 1023)

/-- RATE_ADJ is held within the maximum slew of the rate held at entry to ACQUIRE, and within R186. -/
def Servo.limit (x : Servo) (r : Int) : Int :=
  clampInt (-28147497671) 28147497671 (clampInt (x.rateHeld - rateOf x.maxSlew) (x.rateHeld + rateOf x.maxSlew) r)

/-- The servo asks for a rate, if it controls the timescale, at most once per boundary (R228). -/
def State.servoRate (s : State) (r : Int) : State :=
  let b := s.dueBoundary
  if !s.servoControls || decide (s.ptp.servo.updatedAt = some b) then s
  else
    let v := s.ptp.servo.limit r
    (s.updServo fun x => { x with rateReq := v, updatedAt := some b }).timeChange .rate v 0 0 .direct true

/-- The loop's new rate for an accepted offset: a type-2 loop of the configured bandwidth whose gains the spec does not give, so
a free value within the limits (R228). -/
def State.servoLoop (s : State) : State :=
  let (k, s1) := s.takeFree
  let x := s.ptp.servo
  s1.servoRate ((Config.loopFilter x.bandwidth x.lastO k % 562949953421312 : Nat) - 281474976710656)

/-- The step threshold asks for a step of `o` (R228). -/
def Servo.beyondStep (x : Servo) (o : Int) : Bool := decide (x.stepThr ≠ 0 ∧ x.stepThr < o.natAbs)

/-- An accepted offset `o` of source slot `n` reaches the servo (R228). -/
def State.servoSample (s : State) (n : Nat) (o : Int) : State :=
  let x := s.ptp.servo
  if x.source ≠ some n then s
  else
    let s0 := s.updServo fun y => { y with lastO := o }
    if !s.time.set_ && s.servoControls then
      let b := s.dueBoundary
      if s.time.changes.any fun c => c.own && decide (c.kind = .set) then s0
      else s0.timeChange .set (s.seg.ktime b 0 + o) 0 0 .direct true
    else
      let recentRefusal := match x.refusedAt with | some t => decide (s.tick < t + cyclesOf s.time.guardV) | none => false
      let inL := if o.natAbs ≤ x.lockThr then min 16 (x.inLock + 1) else 0
      let outL := if 4 * x.lockThr < o.natAbs then min 16 (x.outLock + 1) else 0
      match x.state with
      | .acquire =>
        if x.beyondStep o && !recentRefusal then
          if s.servoControls && !(s.time.changes.any fun c => c.own && decide (c.kind = .step)) then
            ((s0.updServo fun y => { y with lastStep := o, lastStepOk := false, inLock := 0 }).timeChange .step o 0 0 .direct true).servoLoop
          else (s0.updServo fun y => { y with inLock := 0 }).servoLoop
        else if x.beyondStep o then
          (s0.updServo fun y => { y with inLock := 0 }).servoRate
            (if 0 ≤ o then x.rateHeld + rateOf x.maxSlew else x.rateHeld - rateOf x.maxSlew)
        else if inL = 16 then
          ((s0.updServo fun y => { y with state := .track, inLock := 0, outLock := 0 }).raise 810 Ev.servoLocked).servoLoop
        else (s0.updServo fun y => { y with inLock := inL }).servoLoop
      | .track =>
        if outL = 16 || x.beyondStep o then
          ((s0.updServo fun y => { y with state := .acquire, inLock := 0, outLock := 0, rateHeld := s.seg.rate }).raise 810
            Ev.servoUnlocked).servoLoop
        else (s0.updServo fun y => { y with outLock := outL }).servoLoop
      | _ => s0

/-- The servo's source becomes `n` (R227, R228): SOURCE_CHANGE is raised when it differs, and the servo acquires the new source, or
coasts without one. -/
def State.servoSource (s : State) (n : Option Nat) : State :=
  let x := s.ptp.servo
  if x.source = n then s
  else
    let s1 := (s.updServo fun y => { y with source := n, inLock := 0, outLock := 0 }).raise 810 Ev.sourceChange
    match n with
    | some _ => s1.updServo fun y => { y with state := .acquire, rateHeld := s.seg.rate }
    | none =>
      if x.state = .noSource ∨ x.state = .coast then s1
      else (s1.updServo fun y => { y with state := .coast }).raise 810 Ev.servoCoast

/-- An accepted PPS edge of a PPS slot gives an offset from the nearest whole second (R229); 0.4 s or more is ambiguous. -/
def State.ppsSample (s : State) (n : Nat) (v : Stamp) : State :=
  let k := s.kOf v.tick v.sub + s.ptp.servo.ppsOffset
  let o := roundDiv k secU * secU - k
  if 26214400000000 ≤ o.natAbs then
    s.updServo fun y => { y with ppsAmbiguous := inc32 y.ppsAmbiguous }
  else s.servoSample n o

/-- What the own checks and effect of SERVO_CONFIGURE come to (R238). -/
def bodyServoConfigure (mode slot bandwidth : Nat) (maxSlew : Int) (stepThr lockThr : Nat) (ppsOffset : Int) (s : State) : Rep :=
  Rep.ranges [decide (mode < 2), decide (if mode = 1 then 8 ≤ slot ∧ slot ≤ 30 else slot = 0),
      decide (1 ≤ bandwidth ∧ bandwidth ≤ 1000), decide (256 ≤ maxSlew ∧ maxSlew ≤ 100000 * 256),
      decide (stepThr = 0 ∨ (nsU ≤ stepThr ∧ stepThr ≤ secU)), decide (656 ≤ lockThr ∧ lockThr ≤ 65536000000),
      decide (ppsOffset.natAbs ≤ 500 * msU)] <|
    .ok { s with ptp := { s.ptp with pendCfg := s.ptp.pendCfg ++
      [.servoConfigure .direct mode slot bandwidth maxSlew stepThr lockThr ppsOffset] } } []

/-- What the own checks and effect of SERVO_GET come to (R238). -/
def bodyServoGet (s : State) : Rep :=
  let x := s.ptp.servo
  let code := match x.state with | .noSource => 0 | .acquire => 1 | .track => 2 | .coast => 3
  .ok s [.u 1 code, .u 2 (x.source.getD 0xFFFF), .i 8 x.lastO, .i 8 x.rateReq, .i 8 x.lastStep, .u 1 (flag x.lastStepOk 1),
    .u 4 x.ppsAmbiguous, .u 4 x.delayDisagree]

/-- SERVO_CONFIGURE (R238): Sets the time servo's source mode, bandwidth, slew, thresholds and PPS offset. -/
def execServoConfigure (src : CmdSrc) (mode slot bandwidth : Nat) (maxSlew : Int) (stepThr lockThr : Nat) (ppsOffset : Int) (s : State) : Out :=
  .next (s.runCmd (.servoConfigure src mode slot bandwidth maxSlew stepThr lockThr ppsOffset) src 0x0618 (bodyServoConfigure mode slot bandwidth maxSlew stepThr lockThr ppsOffset))

/-- SERVO_GET (R238): Returns the time servo's state, source, offset and counts. -/
def execServoGet (src : CmdSrc) (s : State) : Out :=
  .next (s.runCmd (.servoGet src) src 0x0619 (bodyServoGet))


end Sys2Proof.Machine
end

