-- ==== Sys2Proof/Machine/Selvedge.lean ====
section
/-!
DEFINITION. The selvedge link: rows and row lock, the stitch word, two-way ranging and time words (R63 to R94, R231 to R233).
Instants are in 25ths of 2^-16 ns since TICK 0, in which a CORE cycle, a U and both row periods are whole.
-/
namespace Sys2Proof.Machine

/-! ## Units (R66, R67, R240) -/

/-- One CORE cycle in 25ths of 2^-16 ns. -/
def cycleQ : Nat := 1310720
/-- The instant of TICK `t` and fraction `sub` in 25ths of 2^-16 ns. -/
def instQ (t sub : Nat) : Nat := t * cycleQ + sub * 20
/-- A span in 2^-16 ns, rounded. -/
def spanU (q : Int) : Int := roundDiv q 25
/-- The rate code of a selvedge port: 0 for mode 7, 1 for mode 8. -/
def Port.selvRate (x : Port) : Nat := if x.mode = 7 then 0 else 1
/-- The row period (R66): 2,048 CORE cycles at rate code 0, 819.2 at rate code 1. -/
def rowQ (rate : Nat) : Nat := if rate = 0 then 2684354560 else 1073741824
/-- The period of one block: 256 of them make a row. -/
def blockQ (rate : Nat) : Nat := rowQ rate / 256
/-- The slot spacing S (R67, R240). -/
def slotQ (rate slots : Nat) : Nat := rowQ rate / slots

/-- The row period as the lane's engine measures it on the received taps: two tap periods at rate code 0, four fifths of one at
rate code 1 (R51, R87); nominal before the first VALID window. -/
def State.rxRowQ (s : State) (p : Nat) : Nat :=
  let rate := (s.ports.get p).selvRate
  let t := (s.tdc.chans.get p).period
  if t = 0 then rowQ rate
  else if rate = 0 then t * 2 * cycleQ / 4294967296
  else t * 4 * cycleQ / (5 * 4294967296)

/-- The TX latency of port `p` in 25ths of 2^-16 ns (R49). -/
def State.latTxQ (s : State) (p : Nat) : Int := s.txLatency p p * 25

/-- KTIME at an instant in 25ths of 2^-16 ns since TICK 0. -/
def State.kOfQ (s : State) (q : Int) : Int :=
  let n := q.toNat
  s.kOf (n / cycleQ) (n % cycleQ / 20)

/-! ## The stitch word (R67, R74 to R78) -/

/-- The CRC-8 of stitch word bits [63:8] (R75). -/
def stitchCrc (w : Nat) : Nat := crcOver 8 0x07 0xFF (beBytes 7 w)

/-- The CRC mask of a block index (R67). -/
def slotMask (i : Nat) : Nat := if i = 64 then 0x3C else if i = 128 then 0x5A else if i = 192 then 0x96 else 0

/-- The stitch word whose bits [63:8] are `w`, as sent at block index `i`. -/
def stitchWord (w i : Nat) : Nat := w * 256 + (stitchCrc w ^^^ slotMask i)

/-- Bits [63:8] of a stitch of a type, target and payload (R74). -/
def stitchBits (type target payload : Nat) : Nat := type * 2 ^ 52 + target * 2 ^ 40 + payload

/-- Bits [63:8] of a link-scope stitch, whose TARGET is 0xFFF. -/
def linkBits (type payload : Nat) : Nat := stitchBits type 0xFFF payload

/-- The slot test at a block index (R80). -/
def slotTest (ctl : Bool) (i word : Nat) : Bool := ctl && decide (word % 256 = stitchCrc (word / 256) ^^^ slotMask i)

/-- Whether a type is link-scope (R76). -/
def linkScope (t : Nat) : Bool := [0, 5, 6, 7, 8, 9, 10, 11].contains t

/-- Whether a stitch meets the range rules of R78. -/
def stitchRangeOk (type payload : Nat) : Bool :=
  if type = 3 then decide (payload / 2 ^ 32 ≤ 0xEF)
  else if type = 10 then decide (payload / 2 ^ 10 ≤ 999999999)
  else true

/-! ## Row lock (R80, R81) -/

/-- The configured slot positions of a row (R67). -/
def slotPositions (slots : Nat) : List Nat := if slots = 4 then [0, 64, 128, 192] else if slots = 2 then [0, 128] else [0]

/-- What a slot test does to the row-lock state: nothing, a row-lock loss, or one with cause DENSITY_MISMATCH. -/
inductive RowTest where
  | none | loss | density
deriving DecidableEq, Repr

/-- One more row confirmed: LOCKED on the fourth (R80). -/
def Selv.confirmed (x : Selv) : Selv :=
  if x.confirmCount + 1 = 4 then
    { x with rowState := .locked, confirmCount := 0, held := [], fail0 := 0, failPos := [0, 0, 0], passPos := [0, 0, 0] }
  else { x with confirmCount := x.confirmCount + 1 }

/-- The receiver hunts for its rows. -/
def Selv.toHunt (x : Selv) : Selv := { x with rowState := .hunt, confirmCount := 0, rowBad := false, held := [], rxRowKnown := false }

/-- A block becomes block 0 of a candidate row (R80). -/
def Selv.candidate (x : Selv) : Selv := { x with rowState := .confirm, confirmCount := 0, rowBad := true, held := [] }

/-- In CONFIRM a slot test at block index `i` comes to `ok` (R80): the flag says that a configured position of the rows after the candidate's
failed. -/
def Selv.confirmTest (x : Selv) (i : Nat) (ok : Bool) : Selv × Bool :=
  let pos := slotPositions x.slots
  let last := decide (pos.getLastD 0 = i)
  if x.rowState ≠ .confirm then (x, false)
  else if i = 0 then (if !ok then (x, true) else (if last then { x with rowBad := false }.confirmed else { x with rowBad := false }, false))
  else if !pos.contains i || x.rowBad then (x, false)
  else if !ok then (x, true)
  else (if last then x.confirmed else x, false)

/-- How many blocks after the candidate the slot block at index `i` lies that follows those held. -/
def Selv.heldAt (x : Selv) (i : Nat) : Nat :=
  let rows := (x.held.filter fun e => decide (e.1 % 256 = 0)).length
  256 * (if i = 0 then rows + 1 else rows) + i

/-- The search of HUNT over blocks already received, given by how many blocks after the failed candidate each lies: the first that passes the
slot test for index 0 becomes the next candidate, and those behind it are tested against its rows (R80). -/
def Selv.search (x : Selv) : List (Nat × Bool × Nat) → Selv
  | [] => x
  | e :: l =>
    if slotTest e.2.1 0 e.2.2 then
      let r := l.foldl (fun (a : Selv × Bool) f =>
        if a.2 then a
        else
          let i := (f.1 - e.1) % 256
          let b := a.1.confirmTest i (slotTest f.2.1 i f.2.2)
          ({ b.1 with held := b.1.held ++ [(f.1 - e.1, f.2.1, f.2.2)] }, b.2)) (x.candidate, false)
      if r.2 then x.search l else r.1
    else x.search l

/-- A block with sync header `ctl` and descrambled word `word` comes at block index `i` (R80). After a failure in CONFIRM the search resumes at
the block after the candidate, among the slot blocks received since. -/
def Selv.rowTest (x : Selv) (i : Nat) (ctl : Bool) (word : Nat) : Selv × RowTest :=
  let pos := slotPositions x.slots
  let ok := slotTest ctl i word
  match x.rowState with
  | .hunt => if ok && decide (i = 0) then (x.candidate, .none) else (x, .none)
  | .confirm =>
    let e := (x.heldAt i, ctl, word)
    let r := x.confirmTest i ok
    if r.2 then (x.toHunt.search (x.held ++ [e]), .none)
    else (if r.1.rowState = .locked then r.1 else { r.1 with held := r.1.held ++ [e] }, .none)
  | .locked =>
    let k := i / 64 - 1
    if i = 0 then
      if ok then ({ x with fail0 := 0 }, .none)
      else if x.fail0 + 1 = 4 then (x.toHunt, .loss)
      else ({ x with fail0 := x.fail0 + 1 }, .none)
    else if pos.contains i then
      if ok then ({ x with failPos := x.failPos.set k 0 }, .none)
      else if x.failPos.getD k 0 + 1 = 4 then (x.toHunt, .density)
      else ({ x with failPos := x.failPos.set k (x.failPos.getD k 0 + 1) }, .none)
    else if !ok then ({ x with passPos := x.passPos.set k 0 }, .none)
    else if x.passPos.getD k 0 + 1 = 4 then (x.toHunt, .density)
    else ({ x with passPos := x.passPos.set k (x.passPos.getD k 0 + 1) }, .none)

/-! ## Acceptance and errors (R77, R251) -/

/-- The first check of R77 that a block at index `i` fails: 1 SLOT_SYNC, 2 STITCH_CRC, 3 STITCH_TYPE, 4 STITCH_RANGE, 0 none. -/
def stitchFails (ctl : Bool) (i word : Nat) : Nat :=
  let w := word / 256
  if !ctl then 1
  else if !slotTest ctl i word then 2
  else if 13 ≤ w / 2 ^ 52 then 3
  else if !stitchRangeOk (w / 2 ^ 52) (w % 2 ^ 40) then 4
  else 0

/-- A stitch check failure is counted; STITCH_ERRORS is raised when the counts grow by the error threshold within one second, at most
once per second (R77, R251). -/
def State.stitchError (s : State) (p fail : Nat) : State :=
  let times := s.now :: recent (s.selv.get p).errTimes s.now secC
  let s1 := s.updSelv p fun x => { x with
    cSlotSync := if fail = 1 then inc32 x.cSlotSync else x.cSlotSync
    cCrc := if fail = 2 then inc32 x.cCrc else x.cCrc
    cType := if fail = 3 then inc32 x.cType else x.cType
    cRange := if fail = 4 then inc32 x.cRange else x.cRange
    errTimes := times }
  let y := s.stitch.ports.get p
  if y.errThr ≤ times.length && mayRaise y.errLast s.now secC then
    ((s1.updSt p fun z => { z with errEvents := inc32 z.errEvents, errLast := some s.now }).updSelv p fun x =>
      { x with errTimes := [] }).raise (portSrc p) Ev.stitchErrors
  else s1

/-! ## Ranging (R84 to R89, R231) -/

/-- A round-trip sample of port `p` is filtered (R88, R231): in UP a sample beyond the outlier limit is discarded, until the ninth
in a row becomes the new value. An accepted pair ends a stale link delay. -/
def State.rangeSample (s : State) (p : Nat) (a b rtt : Int) : State :=
  let x := s.selv.get p
  let far := s.portUp p && x.rttKnown && decide (x.outlier < (rtt - x.rtt).natAbs)
  if far && decide (x.outliers < 8) then
    s.updSelv p fun y => { y with
      outliers := y.outliers + 1, cOutlier := inc32 y.cOutlier, rangeEnd := y.lastPair + cyclesOf y.rangeTimeout }
  else
    let l := if far then [rtt] else (rtt :: (s.ptp.asym.get p).rtts).take (s.ptp.ports.get p).filterLen
    let f := meanInt l
    let s1 := (s.updAsym p fun y => { y with
      rtts := l, rttF := f, freshRtt := true, asymAt := s.asymOf p f, coastEnd := none }).updSelv p fun y => { y with
      aVal := a, bVal := b, rtt := f, rttKnown := true, outliers := 0, lastPair := s.now, rangeEnd := s.now + cyclesOf y.rangeTimeout
      linkStale := false }
    let s2 := if far then s1.raise (portSrc p) Ev.rangeStep else s1
    if x.linkStale then s2.raise (portSrc p) Ev.rangeRecovered else s2

/-- A count of port `p` grows (R86). -/
def State.echoCount (s : State) (p which : Nat) : State :=
  s.updSelv p fun y => { y with
    cEchoPair := if which = 0 then inc32 y.cEchoPair else y.cEchoPair
    cEchoRange := if which = 1 then inc32 y.cEchoRange else y.cEchoRange
    cEchoStale := if which = 2 then inc32 y.cEchoStale else y.cEchoStale }

/-- An ECHO_PHASE whose payload is `v` completes a pair (R86, R87); `rowStart` is when the row being received started. -/
def State.echoPair (s : State) (p v : Nat) (rowStart : Int) : State :=
  let x := s.selv.get p
  let rate := (s.ports.get p).selvRate
  match x.echoRow with
  | none => s.echoCount p 0
  | some e =>
    let n16 := e % 65536
    let b := v % 2 ^ 32
    if n16 % 256 ≠ v / 2 ^ 32 then s.echoCount p 0
    else if rowQ rate ≤ b * 25 then s.echoCount p 1
    else match x.marks.find? fun m => decide (m.row % 65536 = n16) with
      | none => s.echoCount p 2
      | some m =>
        if !x.rxRowKnown then s.echoCount p 2
        else
          let back : Int := signedOf 24 (unsignedOf 24 ((e / 65536 : Nat) - (x.rxRow : Int)))
          let a := spanU (rowStart + back * s.rxRowQ p - m.t)
          let rtt := a + b
          if rtt < 0 ∨ 33554432 * 65536 < rtt then s.echoCount p 1 else s.rangeSample p a b rtt

/-- The echo pair for a received row that started at `a` and whose count is `n` (R85). -/
def State.echoWords (s : State) (p n : Nat) (a : Int) : List Nat :=
  let r : Int := rowQ (s.ports.get p).selvRate
  let lat := s.latTxQ p
  let m := (a - lat) / r
  let b := (a - lat - m * r).toNat / 25
  [linkBits 7 (unsignedOf 24 m * 65536 + n % 65536), linkBits 8 (n % 256 * 2 ^ 32 + b)]

/-- Whether the lane state is one in which ranging runs (R82). -/
def LaneState.ranges : LaneState → Bool
  | .casting => true
  | .proving => true
  | .up => true
  | .binding => true
  | _ => false

/-- Whether a mark of row count `n` may go without an echo: it comes less than 16 rows after the previous mark echoed (R85). -/
def Selv.skipsEcho (x : Selv) (n : Nat) : Bool :=
  match x.lastEchoMark with
  | some m => decide (unsignedOf 40 ((n : Int) - m) < 16)
  | none => false

/-- A RANGE_MARK is received: the row count is learnt, and an echo pair is queued, but for a mark that the rule lets go without one (R85, R89). -/
def State.markReceived (s : State) (p n : Nat) (rowStart : Int) : State :=
  let echo := (s.portState p).ranges && !(s.selv.get p).skipsEcho n
  s.updSelv p fun x => { x with
    rxRow := n, rxRowKnown := true, markRxAt := some rowStart, timeSec := none, timeNs := none
    echoDue := if echo then x.echoDue ++ s.echoWords p n rowStart else x.echoDue
    lastEchoMark := if echo then some n else x.lastEchoMark }

/-! ## Time words (R90, R232, R233) -/

/-- A complete set of time words from the partner of a timing uplink (R232). -/
def State.timeSet (s : State) (p sec tns delay : Nat) : State :=
  let x := s.selv.get p
  match s.laneSlot p, x.markRxAt with
  | some n, some t =>
    if x.linkStale || !x.rttKnown then s
    else if ((s.ptp.asym.get p).agree : Int) < ((delay : Int) - s.dUp p).natAbs then
      s.updServo fun y => { y with delayDisagree := inc32 y.delayDisagree }
    else
      let k : Int := (sec : Int) * secU + tns / 1024 * nsU + tns % 1024 * 64
      (s.updSelv p fun y => { y with timeWords := true }).servoSample n (k + delay - s.kOfQ t)
  | _, _ => s

/-- What the coasted phase of port `p`'s lane lies after the fitted one, in 25ths of 2^-16 ns (R141). -/
def State.coastShift (s : State) (p : Nat) : Int :=
  let x := s.tdc.chans.get p
  match x.coastTick with
  | some t => roundDiv (5 * ((t : Int) - x.fitTick)) 16384
  | none => 0

/-- A link-scope stitch is consumed (R77, R86, R90, R91); `start` is when its row started, as the lane's taps measure it, and ranging takes it
with the lane's coasted phase (R141). -/
def State.linkStitch (s : State) (p type v : Nat) (start : Int) : State :=
  let rowStart := start + s.coastShift p
  let x := s.selv.get p
  let s0 := s.updSelv p fun y => { y with echoRow := none }
  match type with
  | 5 =>
    let s1 := s0.updSelv p fun y => { y with tensionRx := v / 2 ^ 36, tensionHops := v / 2 ^ 28 % 256 }
    match s.laneSlot p with
    | some n => s1.slotLevel n (v / 2 ^ 36) (v / 2 ^ 28 % 256)
    | none => s1.updSelv p fun y => { y with tensionCount := inc32 y.tensionCount }
  | 6 => s0.markReceived p v rowStart
  | 7 => s.updSelv p fun y => { y with echoRow := some v }
  | 8 => (s.echoPair p v rowStart).updSelv p fun y => { y with echoRow := none }
  | 9 => s0.updSelv p fun y => { y with timeSec := some v, timeNs := none }
  | 10 => s0.updSelv p fun y => { y with timeNs := if y.timeSec.isSome && y.timeNs.isNone then some v else none
                                         timeSec := if y.timeNs.isNone then y.timeSec else none }
  | 11 =>
    let s1 := s0.updSelv p fun y => { y with timeSec := none, timeNs := none }
    match x.timeSec, x.timeNs with
    | some a, some b => s1.timeSet p a b v
    | _, _ => s1
  | _ => s0

/-- RANGE_TIMEOUT (R88): No echo pair has been accepted for the ranging timeout and the link delay becomes stale. -/
def execRangeTimeout (port : Nat) (s : State) : Out :=
  if 256 ≤ port then .fault .noSuchObject
  else
    let x := s.selv.get port
    if (s.ports.get port).configured && (s.ports.get port).isSelvedge && (s.portState port).ranges && !x.linkStale then
      let s1 := s.advance x.rangeEnd
      let s2 := s1.updAsym port fun y => { y with coastEnd := some (s1.now + cyclesOf (s1.ptp.ports.get port).coastLimit) }
      .next ((s2.updSelv port fun y => { y with linkStale := true, timeDue := [] }).raise (portSrc port) Ev.rangeTimeout)
    else .next s

/-! ## What the device sends in a slot left free (R82, R84, R85, R90, R91, R241) -/

/-- The time words for the row of a mark, which started at `t` (R90): none while the link delay is stale or not known. The flag says
that the downlink delay does not fit DELAY (R231). -/
def State.timeWords (s : State) (p : Nat) (t : Int) : List Nat × Bool :=
  let x := s.selv.get p
  if x.linkStale || !x.rttKnown || !(s.portState p = .up || s.portState p = .binding) then ([], false)
  else
    let d := s.dDown p
    if d < 0 ∨ 2 ^ 40 ≤ d then ([], true)
    else
      let k := roundDiv (s.kOfQ t) 64
      let sec := (k / (secU / 64 : Nat)).toNat
      let r := (k % (secU / 64 : Nat)).toNat
      ([linkBits 9 (sec % 2 ^ 40), linkBits 10 (r / 1024 * 1024 + r % 1024), linkBits 11 d.toNat], false)

/-- A RANGE_MARK of port `p` goes out in the row `row` (R84, R90): the row is kept with its start, and the time words of that row fall due. -/
def State.sendMark (s : State) (p row : Nat) : State × Nat :=
  let t : Int := (row * rowQ (s.ports.get p).selvRate : Nat) + s.latTxQ p
  let tw := s.timeWords p t
  let s1 := s.updSelv p fun y => { y with
    marks := ({ row := row % 2 ^ 40, t := t } :: y.marks).take 16, lastMarkTx := row, markNow := y.markInterval, timeDue := tw.1
    dueDown := s.dDown p, dueUp := s.dUp p, txRow := row % 2 ^ 40 }
  (if tw.2 then s1.updAsym p fun y => { y with delayRange := inc32 y.delayRange } else s1, linkBits 6 (row % 2 ^ 40))

/-- The lattice slot from which on a mark falls due (R84): before the mark interval has passed, so that the stitches ahead of it by R241 do not
make it late (DESIGN CHOICE, log entry 104). -/
def Selv.markSlot (x : Selv) : Nat := (x.lastMarkTx + x.markNow) * x.slots - min 13 (x.markNow * x.slots - 11)

/-- The lattice slot from which on a TENSION falls due (R91), early for the same reason (DESIGN CHOICE, log entry 104). -/
def Selv.tensionSlot (x : Selv) : Nat := x.lastTension * x.slots + max (x.markNow * x.slots - 16) (x.markNow * x.slots / 2)

/-- A TENSION of port `p` (R76, R82, R91): the device's level, or 15 before UP, and the device's own hop count in either case (the hop count
beside level 15 is a DESIGN CHOICE of log entry 104). -/
def State.sendTension (s : State) (p row : Nat) : State × Nat :=
  let level := if s.portState p = .up || s.portState p = .binding then s.ref.level else 15
  (s.updSelv p fun y => { y with lastTension := row, txRow := row % 2 ^ 40 }, linkBits 5 (level * 2 ^ 36 + s.ref.hops * 2 ^ 28))

/-- The next time word that waits goes out; with the last of the set, the delays put in it become those last sent (R90, R93). -/
def State.sendTime (s : State) (p : Nat) : State × Nat :=
  let l := (s.selv.get p).timeDue
  (s.updSelv p fun y => if l.length = 1 then { y with timeDue := [], down := y.dueDown, up := y.dueUp } else { y with timeDue := l.tail }, l.headD 0)

/-- The link-scope stitch that port `p` sends at lattice slot `k` (R82), as bits [63:8], in R241's order: an echo pair, a set of time words, a
mark, a TENSION, NULL. A pair or a set that has begun is finished first. -/
def State.linkSlot (s : State) (p k : Nat) : State × Nat :=
  let x := s.selv.get p
  let row := k / x.slots
  let begun := decide (x.timeDue.length = 1 ∨ x.timeDue.length = 2)
  if !(s.portState p).ranges then (s, linkBits 0 0)
  else if !x.echoDue.isEmpty && (!begun || decide (x.echoDue.length % 2 = 1)) then
    (s.updSelv p fun y => { y with echoDue := x.echoDue.tail }, x.echoDue.headD 0)
  else if !x.timeDue.isEmpty then s.sendTime p
  else if x.marks.isEmpty || decide (x.markSlot ≤ k) then s.sendMark p row
  else if x.tensionSlot ≤ k then s.sendTension p row
  else (s, linkBits 0 0)

/-! ## Commands (R93) -/

/-- Whether an outlier limit is a whole number of tenths of a nanosecond, to the nearest 2^-16 ns. -/
def tenthsOk (d : Nat) : Bool := decide ((d * 10 + 32768) / 65536 * 65536 + 5 ≤ d * 10 + 10 ∧ d * 10 ≤ (d * 10 + 32768) / 65536 * 65536 + 5)

/-- What the own checks and effect of SELVEDGE_CONFIGURE come to (R93). -/
def bodySelvedgeConfigure (port slots markInterval outlier rangeTimeout : Nat) (s : State) : Rep :=
  let x := s.ports.get port
  Rep.ranges [decide (port < 256), decide (slots = 1 ∨ slots = 2 ∨ slots = 4), decide (16 ≤ markInterval ∧ markInterval ≤ 4096),
      decide (6554 ≤ outlier ∧ outlier ≤ 100 * nsU) && tenthsOk outlier,
      decide (msU ≤ rangeTimeout ∧ rangeTimeout ≤ 1000 * msU)] <|
    if !x.configured || !x.isSelvedge then Rep.badState
    else if slots ≠ (s.selv.get port).slots ∧ s.portState port ≠ .down then Rep.badState
    else
      let s1 := s.updSelv port fun y => { y with
        slots := slots, markInterval := markInterval, outlier := outlier, rangeTimeout := rangeTimeout }
      .ok (if slots = (s.selv.get port).slots then s1 else s1.reevaluate) []

/-- What the own checks and effect of SELVEDGE_GET_RANGE come to (R93). -/
def bodySelvedgeGetRange (port : Nat) (s : State) : Rep :=
  let x := s.ports.get port
  Rep.ranges [decide (port < 256)] <|
    if !x.configured || !x.isSelvedge then Rep.badState
    else
      let (k, s1) := s.takeFree
      let n := satAdd 32 (s.lanes.get port).ordered (if s.portUp port then Config.orderedSets k port else 0)
      let y := s.selv.get port
      let rs := match y.rowState with | .hunt => 0 | .confirm => 1 | .locked => 2
      .ok (s1.updLane port fun z => { z with ordered := n }) ([.i 8 y.aVal, .i 8 y.bVal, .i 8 y.rtt, .i 8 y.down, .i 8 y.up, .u 4 (min (2 ^ 32 - 1) ((s.now - y.lastPair) / usC)),
        .u 1 (flag y.linkStale 1), .u 1 rs] ++
        ([y.cSlotSync, y.cCrc, y.cType, y.cRange, y.cEchoPair, y.cEchoRange, y.cEchoStale, y.cOutlier,
          n].map (Fld.u 4)))

/-- SELVEDGE_CONFIGURE (R93): Sets a selvedge port's slot density, mark interval, outlier limit and ranging timeout. -/
def execSelvedgeConfigure (src : CmdSrc) (port slots markInterval outlier rangeTimeout : Nat) (s : State) : Out :=
  .next (s.runCmd (.selvedgeConfigure src port slots markInterval outlier rangeTimeout) src 0x030C (bodySelvedgeConfigure port slots markInterval outlier rangeTimeout))

/-- SELVEDGE_GET_RANGE (R93): Returns a selvedge port's ranging values, stale flag, row-lock state and check counts. -/
def execSelvedgeGetRange (src : CmdSrc) (port : Nat) (s : State) : Out :=
  .next (s.runCmd (.selvedgeGetRange src port) src 0x030D (bodySelvedgeGetRange port))


end Sys2Proof.Machine
end

