-- ==== Sys2Proof/Machine/Refs.lean ====
section
/-!
DEFINITION. Reference slots, their measurement and monitors, selection, the DPLL, steering, and the pulse and frequency outputs
(R150 to R178).
-/
namespace Sys2Proof.Machine

/-! ## Slots (R150 to R153) -/

/-- The period of the edges that slot `n` stamps, in U as a fraction (R150, R151): the divided period of a REFIN slot, the tap
period of a lane slot, PLCKI ÷ 128, one second of a PPS slot. -/
def RefSlot.periodU (x : RefSlot) (n : Nat) : Nat × Nat :=
  if n < 8 then (81920000000000 * x.fDen * x.div, max 1 x.fNum)
  else if n < 24 ∨ n = 28 then (67108864, 1)
  else (81920000000000, 1)

/-- A REFIN slot with a nominal frequency below 1 kHz, and a PPS slot, is a pulse reference (R150, R151). -/
def RefSlot.pulse (x : RefSlot) (n : Nat) : Bool :=
  if n < 8 then decide (x.fNum < 1000 * x.fDen) else decide (n = 29 ∨ n = 30)

/-- The TDC channel of a slot (R150). -/
def RefSlot.channel (x : RefSlot) (n : Nat) : Option Nat :=
  if n < 8 then some (264 + n)
  else if n < 24 then some x.src
  else if n = 28 then some 278
  else if n = 29 ∨ n = 30 then some (243 + n)
  else none

/-- The slot of a reference channel. -/
def slotOfChan (c : Nat) : Nat := if c < 272 then c - 264 else if c < 274 then c - 243 else 28

/-- `k` periods in whole CORE cycles, rounded up. -/
def periodCycles (p : Nat × Nat) (k : Nat) : Nat := ceilDiv (k * p.1) (65536 * p.2)

/-- The measurement interval of slot `n` in CORE cycles (R153): the smallest whole multiple of the lane window that spans at least
16 divided periods; the lane window; the nominal period; for a sampled reference the time between its last two samples. -/
def State.measureC (s : State) (n : Nat) : Nat :=
  let x := s.ref.slots.get n
  let p := x.periodU n
  if 24 ≤ n ∧ n < 28 then match x.phiHist with
    | a :: b :: _ => (a.1 - b.1).toNat
    | _ => 0
  else if x.pulse n then periodCycles p 1
  else if 8 ≤ n ∧ n < 24 then s.winC
  else s.winC * ceilDiv (16 * p.1) (p.2 * 65536 * s.winC)

/-- A rate `y` in 2^-8 ppb over `c` CORE cycles, in 2^-16 ns. -/
def advPhi (y c : Int) : Int := roundDiv (2 * y * c) 9765625

/-- A value in U as 2^-16 ns. -/
def uToD (v : Int) : Int := roundDiv (4 * v) 5

/-- The lattice point nearest to an edge, less the edge, in 2^-16 ns: `t` is the edge in CORE periods with 32 fractional bits. The
sign is that of R167's example and of R230: a slot faster than ROOT has a rising phase (DEDUCED, log 30). -/
def latticePhase (p : Nat × Nat) (origin t : Int) : Int :=
  let per : Int := p.1 * 65536
  let r := ((t - origin * 65536) * p.2) % per
  let near := if per < 2 * r then r - per else r
  roundDiv (-near * 4) (p.2 * 327680)

/-- A phase moved by whole lattice periods to the one nearest to `pred` (R153). -/
def unwrapPhase (p : Nat × Nat) (pred phi : Int) : Int :=
  let k := roundDiv ((pred - phi) * p.2 * 5) (p.1 * 4)
  phi + roundDiv (k * p.1 * 4) (p.2 * 5)

/-- The slope of phases over instants, as a frequency offset in 2^-8 ppb (R153). -/
def slopeY (l : List (Int × Int)) : Int :=
  let t0 := match l with | [] => 0 | a :: _ => a.1
  let n : Int := l.length
  let m := l.map fun a => (a.1 - t0, a.2)
  let st := m.foldl (fun a b => a + b.1) 0
  let sp := m.foldl (fun a b => a + b.2) 0
  let stt := m.foldl (fun a b => a + b.1 * b.1) 0
  let stp := m.foldl (fun a b => a + b.1 * b.2) 0
  let den := n * stt - st * st
  if den ≤ 0 then 0 else roundDiv ((n * stp - st * sp) * 9765625) (2 * den).toNat

/-- The offset of a fitted line's period from the nominal one, in 2^-8 ppb. -/
def Fit.offsetFrom (f : Fit) (p : Nat × Nat) : Int :=
  if f.a ≤ 0 then 0 else roundDiv ((p.1 * f.b - f.a * p.2) * 256000000000) (f.a * p.2).toNat

/-- One completed measurement (R153): the phase, its instant in TICK, the frequency offset, none where it is the slope of the last samples, and
whether it was STALE. -/
structure Meas where
  phi : Int
  tick : Int
  y : Option Int
  stale : Bool
deriving DecidableEq, Repr, Inhabited

/-! ## Measurement and phase hits (R153, R156) -/

/-- Measurements that agree with one another within a limit. -/
def agreeWithin (lim : Nat) (l : List Int) : Bool :=
  match l with
  | [] => true
  | a :: r => decide ((r.foldl max a) - (r.foldl min a) ≤ lim)

/-- A measurement of slot `n` is published (R153), and judged against the prediction from the one before (R156). While it is STALE,
its phase is the last one advanced by its frequency (R141). -/
def State.publish (s : State) (n : Nat) (m : Meas) : State :=
  let x := s.ref.slots.get n
  let pred := x.phi + advPhi x.yr (m.tick - x.phiAt)
  let sampled := 24 ≤ n ∧ n < 28
  let phi := if x.measured then (if sampled then m.phi else unwrapPhase (x.periodU n) pred m.phi) else m.phi
  let hist := if x.pulse n ∨ sampled then ((m.tick, phi) :: x.phiHist).take 16 else []
  let y := m.y.getD (slopeY hist)
  let x1 := { x with
    measured := true, yr := y, yHist := (y :: x.yHist).take 16, phiHist := hist, phiAt := m.tick.toNat }
  let put (z : RefSlot) : State := s.updSlot n fun _ => z
  let dev := phi - pred
  if m.stale && x.measured then
    put { x1 with phi := pred, staleSince := some (x.staleSince.getD s.now) }
  else
    let x2 := { x1 with staleSince := if m.stale then some (x.staleSince.getD s.now) else none }
    if !x.measured then put { x2 with phi := phi }
    else if x.hitting then
      let l := x.hitPending ++ [dev]
      if l.length < 3 then put { x2 with phi := pred, hitPending := l }
      else if agreeWithin x.hitLim l then
        let x3 := { x2 with phi := phi, hitting := false, hitPending := [] }
        if s.ref.selected = some n then
          (put { x3 with buildout := x.buildout + dev }).raise (slotSrc n) Ev.phaseHitAbsorbed
        else put x3
      else put { x2 with phi := pred, hitting := false, hitPending := [] }
    else if x.hitLim < dev.natAbs then
      (put { x2 with
        phi := pred, hitting := true, hitPending := [], hitCount := inc32 x.hitCount
        hits := s.now :: recent x.hits s.now (60 * secC) }).raise (slotSrc n) Ev.phaseHit
    else put { x2 with phi := phi }

/-- The edge time and offset of a clock reference's stamps, by the fit of R118; none with fewer than 3 stamps. -/
def RefSlot.clockMeas (x : RefSlot) (n : Nat) : Option Meas :=
  if x.stamps.length < 3 then none
  else
    let f := fitLine x.stamps
    let t := f.at ((x.stamps.length - 1) / 2)
    some { phi := latticePhase (x.periodU n) x.origin t, tick := t / 4294967296, y := some (f.offsetFrom (x.periodU n))
           stale := x.stamps.any (·.stale) }

/-- The measurements of slot `n` that completed since the last boundary are published at boundary `t` (R153, R163 step 1). -/
def State.publishSlot (s : State) (t n : Nat) : State :=
  let x := s.ref.slots.get n
  if x.state = .disabled then s.updSlot n fun y => { y with stamps := [], samples := [] }
  else if 8 ≤ n ∧ n < 24 then
    let c := s.tdc.chans.get x.src
    let s1 := s.updSlot n fun y => { y with lastGood := if c.valid then 0 else inc32 y.lastGood }
    if c.valid then
      let t32 : Int := c.fitTick
      s1.publish n { phi := latticePhase (x.periodU n) x.origin t32, tick := t32 / 4294967296, y := some c.yOff, stale := c.staleWin }
    else s1
  else if 24 ≤ n ∧ n < 28 then
    x.samples.foldl (fun s v => s.publish n { phi := v.1, tick := v.2.1, y := v.2.2.2, stale := v.2.2.1 }) (s.updSlot n fun y => { y with samples := [] })
  else if x.pulse n then
    let s1 := s.updSlot n fun y => { y with stamps := [] }
    x.stamps.foldl (fun s v => s.publish n
      { phi := latticePhase (x.periodU n) x.origin (v.u * 65536), tick := v.tick, y := none, stale := v.stale }) s1
  else if t % (s.measureC n) = 0 then
    let s1 := s.updSlot n fun y => { y with stamps := [] }
    match x.clockMeas n with
    | some m => s1.publish n m
    | none => s1
  else s

/-! ## Edges (R152) -/

/-- The activity limit of slot `n` in CORE cycles (R152). -/
def State.activityC (s : State) (n : Nat) : Nat :=
  let x := s.ref.slots.get n
  if n = 28 then 10 * usC
  else if x.pulse n then ceilDiv (3 * (x.periodU n).1) (2 * 65536 * (x.periodU n).2)
  else max (periodCycles (x.periodU n) 2) (10 * usC)

/-- An edge of reference channel `c` (264 to 273, 278) is filtered, range-checked and stamped (R152): `width` is the length of its
pulse in 2^-16 ns. The stamp is answered where one was made. -/
def State.refEdge (s : State) (c tick phase fine width : Nat) : State × Option Stamp :=
  let n := slotOfChan c
  let x := s.ref.slots.get n
  let p := x.periodU n
  let half := p.1 * 2 / (p.2 * 5)
  if !s.armed c || !s.inService c || decide (width < 19661) then (s, none)
  else if !(s.tdc.chans.get c).dllLocked then (s.loseStamp c tick false, none)
  else if x.pulse n && x.active && decide ((s.now - x.lastEdge) * 2 * 65536 * p.2 < p.1) then
    (s.updSlot n fun y => { y with extraPulse := inc32 y.extraPulse }, none)
  else if x.pulse n && !(decide (100 * nsU ≤ width ∧ width ≤ half)) then
    (s.updSlot n fun y => { y with pulseWidth := inc32 y.pulseWidth }, none)
  else
    let v := s.makeStamp c tick phase fine x.falling
    let s1 := s.takeStamp c v
    let s2 := s1.updSlot n fun y => { y with
      lastEdge := s.now, active := true, stamps := if y.state = .disabled then [] else y.stamps ++ [v] }
    if n < 29 then (s2, some v)
    else
      let s3 := s2.ppsCapture (n - 29) v
      (if x.enable then s3.ppsSample n v else s3, some v)

/-- REF_ACTIVITY_TIMEOUT (R152): A reference input shows no edge for its activity limit and its slot fails. -/
def execRefActivityTimeout (slot : Nat) (s : State) : Out :=
  if 31 ≤ slot ∨ (8 ≤ slot ∧ slot < 28) then .fault .noSuchObject
  else
    let x := s.ref.slots.get slot
    if x.enable && x.active then
      .next ((s.advance (x.lastEdge + s.activityC slot)).updSlot slot fun y => { y with active := false })
    else .next s

/-! ## Slot states (R154, R155) -/

/-- A frequency offset in 2^-48 as 2^-8 ppb. -/
def q48ToPpb (v : Int) : Int := roundDiv (v * 256000000000) 281474976710656

/-- Slot `n`'s offset from the frequency basis over its last 16 measurements (R154): the holdover estimate while it is valid, else
50 × XO_IN. -/
def State.slotOffset (s : State) (n : Nat) : Int :=
  let basis := if s.ref.estValid then s.ref.holdEst else 0
  meanInt (s.ref.slots.get n).yHist + q48ToPpb (s.ref.rootOff - basis)

/-- Whether slot `n` has been STALE beyond its coast limit. -/
def State.staleBeyond (s : State) (n : Nat) : Bool :=
  let x := s.ref.slots.get n
  match x.staleSince with
  | some t => decide (t + cyclesOf x.coastLim < s.now)
  | none => false

/-- Whether slot `n`'s input is active: for a lane slot, the lane is UP and one of its last four windows was VALID (R152). -/
def State.slotActive (s : State) (n : Nat) : Bool :=
  let x := s.ref.slots.get n
  if 8 ≤ n ∧ n < 24 then s.portUp x.src && decide (x.lastGood < 4) else x.active

/-- The frequency of slot `n` cannot be followed within the pull range of ROOT (R166). -/
def State.beyondPull (s : State) (n : Nat) : Bool :=
  decide (s.ref.selected = some n) && decide (50000 * 256 < (meanInt (s.ref.slots.get n).yHist + q48ToPpb s.ref.rootOff).natAbs)

/-- Slot `n` enters a state (R155). -/
def State.slotTo (s : State) (n : Nat) (st : SlotState) : State :=
  s.updSlot n fun x => { x with state := st, since := s.now }

/-- Slot `n` fails, with SLOT_FAILED where it was usable (R155). -/
def State.slotFail (s : State) (n cause : Nat) : State :=
  match (s.ref.slots.get n).state with
  | .qualified | .waitRestore =>
    ((s.slotTo n .failed).updSlot n fun x => { x with cause := cause }).raise (slotSrc n) Ev.slotFailed [.u 1 cause]
  | .qualifying => s.slotTo n .failed
  | _ => s

/-- Why a usable slot fails at a boundary: its first cause in the order of R155; 0 for none. -/
def State.failCause (s : State) (n : Nat) : Nat :=
  let x := s.ref.slots.get n
  if !s.slotActive n then (if 8 ≤ n ∧ n < 24 then 2 else 1)
  else if (match x.rejectSince with | some t => decide (t + cyclesOf x.rejectHold ≤ s.now) | none => false) || s.beyondPull n
      || decide (n = 28 ∧ 20000 * 256 < x.yr.natAbs) then 3
  else if decide (x.hitBudget < (recent x.hits s.now (60 * secC)).length) then 4
  else if s.staleBeyond n then 5
  else 0

/-- The transition of slot `n` at a boundary, at most one (R155, R163 step 4). -/
def State.slotStep (s : State) (n : Nat) : State :=
  let x := s.ref.slots.get n
  let off := s.slotOffset n
  let s0 := s.updSlot n fun y => { y with
    clearWtr := false
    rejectSince := if y.rejectLim < off.natAbs then some (y.rejectSince.getD s.now) else none }
  let fit := s.slotActive n && x.measured && decide (off.natAbs ≤ x.acceptLim) && !s.staleBeyond n &&
    !(decide (n = 28 ∧ 20000 * 256 < x.yr.natAbs))
  match x.state with
  | .disabled =>
    if x.enable then
      (s0.slotTo n .failed).updSlot n fun y => { y with
        origin := (s.tick : Int) * 65536, cause := 0, measured := false, yHist := [], phiHist := []
        hits := [], hitting := false, hitPending := [], rejectSince := none, staleSince := none, everQual := false
        buildout := 0, stamps := [], samples := [], lastGood := 4, phi := 0, yr := 0 }
    else s0
  | st =>
    if !x.enable then s0.slotTo n .disabled
    else match st with
      | .failed => if fit then (s0.slotTo n .qualifying).updSlot n fun y => { y with qualSince := s.now } else s0
      | .qualifying =>
        if !fit || x.hitting || x.hits.any (fun h => decide (x.qualSince ≤ h)) then s0.slotTo n .failed
        else if x.qualSince + cyclesOf x.acceptHold ≤ s.now then
          let s1 := if x.everQual then (s0.slotTo n .waitRestore).updSlot n fun y => { y with wtrEnd := s.now + cyclesOf s.ref.wtr }
            else (s0.slotTo n .qualified).updSlot n fun y => { y with everQual := true }
          s1.raise (slotSrc n) Ev.slotQualified
        else s0
      | _ =>
        let c := s0.failCause n
        if c ≠ 0 then
          let s1 := s0.slotFail n c
          if s.beyondPull n then s1.raise (slotSrc n) Ev.pullLimit else s1
        else if st = .waitRestore && (x.clearWtr || decide (x.wtrEnd ≤ s.now)) then
          (s0.slotTo n .qualified).raise (slotSrc n) Ev.wtrDone
        else s0

/-! ## Selection (R160, R161, R165) -/

/-- The slots REF0 to REF30. -/
def allSlots : List Nat := List.range 31

/-- Whether slot `n` meets R160's conditions of eligibility. -/
def State.meetsEligible (s : State) (n : Nat) : Bool :=
  let x := s.ref.slots.get n
  decide (x.state = .qualified) && !x.lockout && decide (x.level < 15)

/-- Whether the last health report of the partner, while reports arrive, shows an ACTIVE unit whose DPLL is in HOLDOVER (R410, R413). -/
def State.partnerHoldover (s : State) : Bool :=
  !s.pair.healthLost && s.pair.healthRx.getD 1 0 == 4 && s.pair.healthRx.getD 40 0 == 2

/-- Whether REF28 is usable (R410): never on an ACTIVE unit. -/
def State.ref28Usable (s : State) : Bool :=
  decide (s.pair.role ≠ .active) &&
    (decide (s.pair.role = .syncing) || s.pair.testEnd.isSome || s.partnerHoldover
      || !(allSlots.any fun n => decide (n ≠ 28) && s.meetsEligible n))

/-- Whether selection may take slot `n`: REF28, the partner's clock, only where R410 marks it usable, since in service both units take the common
reference (R17). -/
def State.selectable (s : State) (n : Nat) : Bool := decide (n ≠ 28) || s.ref28Usable

/-- Whether slot `n` is eligible (R160). -/
def State.eligible (s : State) (n : Nat) : Bool := s.selectable n && s.meetsEligible n

/-- Whether slot `a` ranks strictly better than `b`, apart from their numbers (R160). -/
def State.ranksBetter (s : State) (a b : Nat) : Bool :=
  let x := s.ref.slots.get a
  let y := s.ref.slots.get b
  if s.ref.qlEnabled && decide (x.level ≠ y.level) then decide (x.level < y.level) else decide (x.prio < y.prio)

/-- The best-ranked slot of a list in rising order. -/
def State.bestSlot (s : State) (l : List Nat) : Option Nat :=
  l.foldl (fun b n => match b with
    | none => some n
    | some m => if s.ranksBetter n m then some n else some m) none

/-- The slots that rule 4 of R160 chooses among: those in WAIT_RESTORE. -/
def State.restoring (s : State) (n : Nat) : Bool := s.selectable n && decide ((s.ref.slots.get n).state = .waitRestore)

/-- The current slot, where no slot of the list ranks strictly better; else the best of the list. -/
def State.keepOrBest (s : State) (cur : Option Nat) (l : List Nat) : Option Nat :=
  match cur, s.bestSlot l with
  | some c, some b => if l.contains c && !s.ranksBetter b c then some c else some b
  | _, b => b

/-- The slot that the rules select (R160, R161). -/
def State.selectSlot (s : State) : Option Nat :=
  let r := s.ref
  let usable (n : Nat) : Bool := let st := (r.slots.get n).state; decide (st = .qualified ∨ st = .waitRestore)
  if s.ref28Usable && decide ((r.slots.get 28).state = .qualified) then some 28
  else match allSlots.find? fun n => s.selectable n && (r.slots.get n).force_ && usable n with
    | some n => some n
    | none =>
      let l := allSlots.filter s.eligible
      if l.isEmpty then s.keepOrBest r.selected (allSlots.filter s.restoring)
      else match r.selected with
        | some c =>
          if s.eligible c && !r.revertive then
            match s.bestSlot l with
            | some b => if r.qlEnabled && decide ((r.slots.get b).level < (r.slots.get c).level) then some b else some c
            | none => some c
          else s.keepOrBest (some c) l
        | none => s.bestSlot l

/-- Whether slot `n` disagrees with an eligible slot of equal rank by more than the tie limit (R165). -/
def State.tieDisagrees (s : State) (n : Nat) : Bool :=
  s.eligible n && allSlots.any fun m => decide (m ≠ n) && s.eligible m && !s.ranksBetter n m && !s.ranksBetter m n &&
    decide (s.ref.tieLimit < ((s.ref.slots.get n).yr - (s.ref.slots.get m).yr).natAbs)

/-- The tie monitor of slot `n` at a boundary (R165). -/
def State.tieStep (s : State) (n : Nat) : State :=
  let x := s.ref.slots.get n
  let hold := cyclesOf s.ref.tieHold
  if s.tieDisagrees n then
    let t := x.tieSince.getD s.now
    let s1 := s.updSlot n fun y => { y with tieSince := some t, tieAgree := s.now }
    if !x.tieRaised && decide (t + hold ≤ s.now) then
      (s1.updSlot n fun y => { y with tieRaised := true }).raise (slotSrc n) Ev.tieDisagree
    else s1
  else s.updSlot n fun y => { y with tieSince := none, tieRaised := y.tieRaised && decide (s.now < y.tieAgree + hold) }

/-! ## The DPLL (R162 to R171) -/

/-- The codes of the DPLL states, in the order of R162's table. -/
def DState.code : DState → Nat
  | .freerun => 0 | .acquire => 1 | .locked => 2 | .switching => 3 | .holdover => 4 | .steered => 5

/-- The DPLL takes a transition of R162: STATE_CHANGE carries the old and new states, the cause (1 for XO_LOSS) and the slots. -/
def State.dpllTo (s : State) (st : DState) (sel : Option Nat) (cause : Nat := 0) : State :=
  let r := s.ref
  ({ s with ref := { r with
    state := st, selected := sel, since := s.now, lockSince := none, xoLoss := decide (cause = 1)
    lockedEnd := match st, r.state with
      | .locked, _ => none
      | _, .locked => some s.now
      | _, _ => r.lockedEnd } }).raise
    808 Ev.stateChange [.u 1 r.state.code, .u 1 st.code, .u 1 cause, .u 2 (r.selected.getD 0xFFFF), .u 2 (sel.getD 0xFFFF)]

/-- The phase of slot `n` advanced to now (R166). -/
def State.phaseNow (s : State) (n : Nat) : Int :=
  let x := s.ref.slots.get n
  x.phi + advPhi x.yr ((s.tick : Int) - x.phiAt)

/-- The most that ROOT's offset moves in one lane window, in 2^-48 (R166). -/
def State.slopeStep (s : State) : Int := roundDiv ((s.ref.slope * 1099511627776 : Nat) * s.winC) (1000000000 * secC)

/-- ROOT's offset approaches a goal under the slope limit, within the pull range (R166, R169, R171). -/
def State.approach (s : State) (goal : Int) : State :=
  let d := s.slopeStep
  { s with ref := { s.ref with
    rootOff := clampInt (-14073748835) 14073748835 (clampInt (s.ref.rootOff - d) (s.ref.rootOff + d) goal) } }

/-- The LOCKED windows that the holdover estimate uses: not those in the guard time before the event that ended LOCKED, which while LOCKED
could come now, nor those beyond the averaging time before that (R169). -/
def State.estWindows (s : State) : List (Nat × Int) :=
  let t := s.ref.lockedEnd.getD s.now
  s.ref.history.filter fun h =>
    decide (h.1 + cyclesOf s.ref.guardTime ≤ t) && decide (t < h.1 + cyclesOf (s.ref.guardTime + s.ref.avgTime))

/-- The holdover estimate as the windows kept give it now (R169). -/
def State.estimate (s : State) : State :=
  let l := s.estWindows
  let span := l.length * s.winC
  let v := if secC ≤ span then meanInt (l.map (·.2)) else match s.ref.history with | h :: _ => h.2 | [] => s.ref.rootOff
  { s with ref := { s.ref with
    holdEst := v, span := span, estValid := decide (cyclesOf s.ref.avgTime ≤ span), estShort := decide (span < cyclesOf s.ref.avgTime) } }

/-- The DPLL enters holdover (R162, R169, R170). -/
def State.enterHoldover (s : State) (xo : Bool) : State :=
  let s1 := s.estimate
  let s2 := { s1 with ref := { s1.ref with
    rootGoal := s1.ref.holdEst, levelBefore := s.ref.level, inSpecOver := false, closing := false, steerEnd := none
    inSpecEnd := if s1.ref.estValid then some (s.now + cyclesOf s.ref.inSpec) else none } }
  let s3 := s2.dpllTo .holdover none (if xo then 1 else 0)
  if s3.ref.estShort && !xo then s3.raise 808 Ev.holdoverShort else s3

/-- A switch to slot `n` starts (R164, R167): the build-out takes up the slot's phase, less the loop's filtered error. -/
def State.startSwitch (s : State) (n : Nat) : State :=
  let e := match s.ref.state with | .acquire | .locked => s.ref.errFilt | _ => 0
  let s1 := s.updSlot n fun x => { x with buildout := s.phaseNow n - e }
  ({ s1 with ref := { s1.ref with switchTo := some n, closing := false, steerEnd := none } }).dpllTo .switching (some n)

/-- Selection at a boundary moves the DPLL (R162, R163 step 5). -/
def State.selectStep (s : State) : State :=
  let r := s.ref
  if r.state = .holdover && r.xoLoss then s
  else
    let c := s.selectSlot
    match r.state, c with
    | .freerun, some n =>
      (s.updSlot n fun x => { x with buildout := s.phaseNow n }).dpllTo .acquire (some n)
    | .freerun, none => s
    | .steered, _ =>
      if r.closing then match c with
        | some n => s.startSwitch n
        | none => s.enterHoldover false
      else { s with ref := { r with selected := c } }
    | .holdover, some n => s.startSwitch n
    | .holdover, none => s
    | _, some n => if r.selected = some n then s else s.startSwitch n
    | _, none => s.enterHoldover false

/-- The bandwidth in use, in mHz, and whether R166 limits it. -/
def State.bandwidth (s : State) (n : Nat) : Nat × Bool :=
  let want := if s.ref.state = .acquire then s.ref.acqBw else s.ref.trackBw
  let m := s.measureC n
  let top := if m = 0 then want else 1000 * secC / (20 * m)
  (min want top, decide (top < want))

/-- A LOCKED window that is not STALE counts for the holdover estimate (R169). -/
def State.keepWindow (s : State) (n : Nat) : State :=
  if s.ref.state ≠ .locked ∨ (s.ref.slots.get n).staleSince.isSome then s
  else
    let h := (s.now, s.ref.rootOff) :: s.ref.history
    let keep := h.filter fun v => decide (s.now < v.1 + cyclesOf (s.ref.guardTime + s.ref.avgTime))
    ({ s with ref := { s.ref with history := keep } }).estimate

/-- The loop's update on slot `n` (R166). The loop's gains and its error filter are not given: the filtered error and ROOT's offset
are free values, the offset within the slope limit and the pull range. While the slot's phase hit is judged, the
loop coasts as in holdover: ROOT moves to the estimate (R156, R169). -/
def State.loopStep (s : State) (n : Nat) : State :=
  let x := s.ref.slots.get n
  let bw := s.bandwidth n
  let s0 := { s with ref := { s.ref with bwUse := bw.1, bwLimited := bw.2 } }
  let s1 := if bw.2 && !s.ref.bwLimited then s0.raise 808 Ev.bwLimited else s0
  if !x.measured then s1
  else if x.hitting then
    let s2 := s1.estimate
    (s2.approach s2.ref.holdEst).keepWindow n
  else
    let e := s.phaseNow n - x.buildout
    let (k1, s2) := s1.takeFree
    let (k2, s3) := s2.takeFree
    let goal : Int := (Config.loopFilter bw.1 e k2 % 28147497671 : Nat) - 14073748835
    let s4 := s3.approach (if s.beyondPull n then (if 0 ≤ x.yr then 14073748835 else -14073748835) else goal)
    let s5 := { s4 with ref := { s4.ref with errPhase := e, errFilt := signedOf 64 (Config.loopFilter bw.1 e k1) } }
    match s5.ref.state with
    | .acquire =>
      if e.natAbs < s.ref.lockThr ∧ x.yr.natAbs < 256 then
        let t := s.ref.lockSince.getD s.now
        if t + secC ≤ s.now then s5.dpllTo .locked (some n) else { s5 with ref := { s5.ref with lockSince := some t } }
      else { s5 with ref := { s5.ref with lockSince := none } }
    | .locked =>
      if s.ref.lossThr < e.natAbs then (s5.dpllTo .acquire (some n)).raise 808 Ev.dpllLockLoss
      else s5.keepWindow n
    | _ => s5

/-- XO_IN against the selected reference while LOCKED (R152). -/
def State.xoRange (s : State) : State :=
  match s.ref.state, s.ref.selected with
  | .locked, some n =>
    let beyond := decide (s.ref.xoLimit < (s.ref.xoYoff - (s.ref.slots.get n).yr).natAbs)
    let s1 := { s with ref := { s.ref with xoRangeRaised := beyond } }
    if beyond && !s.ref.xoRangeRaised then s1.raise 808 Ev.xoRange else s1
  | _, _ => s

/-- The DPLL update of a boundary (R163 step 6). -/
def State.dpllStep (s : State) : State :=
  match s.ref.state, s.ref.selected with
  | .acquire, some n => s.loopStep n
  | .locked, some n => s.loopStep n
  | .steered, _ => s.approach s.ref.rootGoal
  | .holdover, _ => if s.ref.xoLoss then s else s.approach s.ref.rootGoal
  | _, _ => s

/-- A gauge commit moves the stamps of channel `c` by `d` U: the slots that it feeds, and the phase of a lane as PTP and ranging use it, take the
move as a build-out (R141, R168). -/
def State.commitBuildout (s : State) (c : Nat) (d : Int) : State :=
  let s0 := if c < 264 then s.updTdc c fun y => { y with buildOut := y.buildOut - d } else s
  allSlots.foldl (fun s n =>
    let x := s.ref.slots.get n
    if x.enable && decide (x.channel n = some c) then
      let v := uToD (-d)
      s.updSlot n fun y => { y with
        buildout := y.buildout + v, phi := y.phi + v, phiHist := y.phiHist.map fun h => (h.1, h.2 + v) }
    else s) s0

/-- XO_IN's offset from the fit of its stamps of the window that ends (R169). -/
def State.measureXo (s : State) : State :=
  let l := s.ref.xoStamps
  let y := if l.length < 3 then s.ref.xoYoff else (fitLine l).offsetFrom (81920000, 1)
  { s with ref := { s.ref with xoStamps := [], xoYoff := y } }

/-! ## Outputs (R172 to R175) -/

/-- FTW of a CLKOUT output (R174). -/
def ClkOut.tuning (x : ClkOut) (rate : Int) : Nat :=
  if x.ktime then (roundDiv (x.fNum * (281474976710656 + rate)) 5000000000).toNat
  else (roundDiv ((x.fNum : Int) * 281474976710656) (5000000000 * x.fDen)).toNat

/-- A move of a CLKOUT target reduced within one period (R175). -/
def ClkOut.reduce (x : ClkOut) (d : Int) : Int :=
  let r := (d * x.fNum) % (secU : Int)
  let near := if (secU : Int) < 2 * r then r - secU else r
  roundDiv near (max 1 x.fNum)

/-- What is left to slew at an instant (R175). -/
def ClkOut.left (x : ClkOut) (now : Nat) : Int :=
  let gone : Int := x.slew * (now - x.slewAt) / secC
  if 0 ≤ x.residual then max 0 (x.residual - gone) else min 0 (x.residual + gone)

/-- The target of a CLKOUT output moves by `d`: it slews (R175). -/
def ClkOut.move (x : ClkOut) (now : Nat) (d : Int) : ClkOut :=
  if !x.enable || !x.ktime || x.squelched || decide (d = 0) then x
  else
    let was := x.left now
    { x with residual := x.reduce (was + d), slewAt := now, since := if was = 0 then now else x.since }

/-- The outputs follow what a boundary made of the timescale (R173, R174, R175). -/
def State.outputsFollow (s : State) (a : TimeAcc) : State :=
  { s with ref := { s.ref with
    pps := s.ref.pps.mapAll fun _ x =>
      if a.direct then { x with direct := true, residual := 0, reportAligned := true, lastPulse := x.lastPulse + a.delta }
      else { x with residual := x.residual + a.slew, lastPulse := x.lastPulse + a.slew }
    clk := s.ref.clk.mapAll fun _ x =>
      let y := if a.unset && x.ktime then { x with residual := 0, since := if x.left s.now = 0 then x.since else s.now }
        else x.move s.now a.admitted
      if a.started && y.ktime then { y with ftw := y.tuning s.seg.rate } else y } }

/-- The level of a PPS output at an instant: high for the pulse width from a rising edge on, and low while it is disabled or squelched (R172). -/
def PpsOut.high (x : PpsOut) (now : Nat) : Bool := x.enable && !x.squelched && decide (now < x.highEnd)

/-- PPS_OUT_PULSE (R173): A PPS output reaches its next rising edge instant, slewing toward a moved target. -/
def execPpsOutPulse (output : Nat) (s : State) : Out :=
  if 2 ≤ output then .fault .noSuchObject
  else
    let x := s.ref.pps.get output
    if !x.enable || x.squelched then .next s
    else
      let slew : Int := x.slew
      let res := if x.direct then 0 else if 0 ≤ x.residual then max 0 (x.residual - slew) else min 0 (x.residual + slew)
      let floor := if x.direct then s.ktime else max s.ktime (x.lastPulse + 32768000000000)
      let base := x.offset + res
      let k := base + (floor - base + secU - 1) / (secU : Int) * secU
      let s1 := s.advanceTick (s.seg.tickAt k)
      let y := { x with residual := res, direct := false, reportAligned := false, pulses := x.pulses + 1, lastPulse := k
                        highEnd := s1.now + cyclesOf x.width }
      let s2 := { s1 with ref := { s1.ref with pps := s1.ref.pps.set output y } }
      let aligned := if x.direct then x.reportAligned else decide (x.residual ≠ 0 ∧ res = 0)
      .next (if aligned then s2.raise 809 Ev.ppsAligned [.u 2 output] else s2)

/-- CLKOUT_ALIGNED (R175): A KTIME-mode CLKOUT output finishes slewing toward its moved target and raises CLKOUT_ALIGNED. -/
def execClkoutAligned (output : Nat) (s : State) : Out :=
  if 4 ≤ output then .fault .noSuchObject
  else
    let x := s.ref.clk.get output
    if !x.enable || !x.ktime || x.squelched || decide (x.residual = 0) then .next s
    else
      let s1 := s.advance (x.slewAt + ceilDiv (x.residual.natAbs * secC) (max 1 x.slew))
      let y := { x with residual := 0, since := s1.now }
      .next (({ s1 with ref := { s1.ref with clk := s1.ref.clk.set output y } }).raise 809 Ev.clkoutAligned [.u 2 output])

/-! ## Configuration at a boundary (R163, R177) -/

/-- A slot configuration takes effect (R177). -/
def RefSlot.configure (x : RefSlot) (enable override esmc : Bool) (fNum fDen div edge source prio level : Nat)
    (acceptLim rejectLim : Int) (rejectHold acceptHold hitLim hitBudget coastLim : Nat) : RefSlot :=
  { x with
    enable := enable, overrideLevel := override, esmc := esmc, fNum := fNum, fDen := fDen, div := div
    falling := decide (edge = 1), src := source, prio := prio, cfgLevel := level, acceptLim := acceptLim.toNat
    rejectLim := rejectLim.toNat, rejectHold := rejectHold, acceptHold := acceptHold, hitLim := hitLim
    hitBudget := hitBudget, coastLim := coastLim }

/-- The action of REF_COMMAND on slot `n` (R177). -/
def State.refCommand (s : State) (n action : Nat) : State :=
  match action with
  | 0 => { s with ref := { s.ref with slots := s.ref.slots.mapAll fun k x => { x with force_ := decide (k = n) } } }
  | 1 => s.updSlot n fun x => { x with lockout := true }
  | 2 => s.updSlot n fun x => { x with force_ := false, lockout := false }
  | _ => s.updSlot n fun x => { x with clearWtr := true }

/-- A command that waited for the boundary takes effect (R163). -/
def State.applyRef (s : State) (i : Instr) : State :=
  match i with
  | .refConfigureSlot _ en ov es n fn fd dv ed so pr le al rl rh ah hl hb cl =>
    let x := s.ref.slots.get n
    let y := x.configure en ov es fn fd dv ed so pr le al rl rh ah hl hb cl
    let lev := if ov ∨ n < 8 ∨ n = 29 ∨ n = 30 then le else y.rxLevel
    let s1 := s.updSlot n fun _ => { y with level := lev, levelSeen := if x.enable then y.levelSeen else s.now }
    if x.level = lev then s1 else s1.raise (slotSrc n) Ev.levelChange
  | .refConfigureSelection _ ql rev wtr tl th fl av gu insp =>
    { s with ref := { s.ref with
      qlEnabled := decide (ql = 0), revertive := decide (rev = 0), wtr := wtr, tieLimit := tl.toNat, tieHold := th
      freeLevel := fl, avgTime := av, guardTime := gu, inSpec := insp } }
  | .refConfigureDpll _ tb ab sl lt lo =>
    { s with ref := { s.ref with trackBw := tb, acqBw := ab, slope := sl.toNat, lockThr := lt, lossThr := lo } }
  | .refCommand _ n a => s.refCommand n a
  | .refConfigurePpsOut _ en o off w sl sq =>
    let x := s.ref.pps.get o
    let res := if x.enable && !x.direct then x.residual + x.offset - off else 0
    let y := { x with
      enable := en, offset := off, width := w, slew := sl, squelch := sq, residual := res, direct := x.direct || !x.enable
      reportAligned := x.reportAligned && x.enable }
    ({ s with ref := { s.ref with pps := s.ref.pps.set o y } }).squelchOutputs
  | .refConfigureClkout _ en o fn fd m off sl sw sq =>
    let x := s.ref.clk.get o
    let kt := decide (m = 1)
    let same := x.enable && en && x.ktime && kt && decide (x.fNum = fn)
    let x1 := if same then x.move s.now (x.offset - off) else { x with residual := 0 }
    let y := { x1 with
      enable := en, fNum := fn, fDen := fd, ktime := kt, offset := off, slew := sl, swing := sw, squelch := sq
      since := if x.enable = en then x1.since else s.now }
    let z := { y with ftw := y.tuning s.seg.rate }
    ({ s with ref := { s.ref with clk := s.ref.clk.set o z } }).squelchOutputs
  | _ => s

/-- The steps of R163 at boundary `t`, with the build-outs of the gauge commits due there; the commands that completed before the
boundary take effect first. -/
def State.refBoundary (s : State) (t : Nat) (commits : List (Nat × Int)) : State :=
  let l := s.ref.pendingCfg
  let s0 := l.foldl State.applyRef { s with ref := { s.ref with pendingCfg := [] } }
  let s1 := (allSlots.foldl (fun s n => s.publishSlot t n) s0).measureXo
  let s2 := commits.foldl (fun s c => s.commitBuildout c.1 c.2) s1
  let s3 := if s2.ref.state = .switching then
      ({ s2 with ref := { s2.ref with switchTo := none } }).dpllTo .locked s2.ref.selected
    else s2
  let s4 := allSlots.foldl State.slotStep s3
  let s5 := (allSlots.foldl State.tieStep s4).selectStep
  (s5.dpllStep.xoRange).refreshLevel

/-! ## Timers and the XO_IN monitor (R15, R159, R170, R171) -/

/-- HOLDOVER_INSPEC_EXPIRY (R170): The holdover in-spec time ends and the device level changes. -/
def execHoldoverInspecExpiry (s : State) : Out :=
  match s.ref.state, s.ref.inSpecEnd with
  | .holdover, some t =>
    let s1 := s.advance t
    .next (({ s1 with ref := { s1.ref with inSpecOver := true, inSpecEnd := none } }).refreshLevel)
  | _, _ => .next s

/-- STEER_TIMEOUT (R171): No REF_STEER SET arrives within the steering timeout and the loop closes. -/
def execSteerTimeout (s : State) : Out :=
  match s.ref.state, s.ref.steerEnd with
  | .steered, some t =>
    let s1 := s.advance t
    .next (({ s1 with ref := { s1.ref with closing := true, steerEnd := none } }).raise 808 Ev.steerTimeout)
  | _, _ => .next s

/-- LEVEL_TIMEOUT (R159): A slot's level source times out and its level becomes 15. -/
def execLevelTimeout (slot : Nat) (s : State) : Out :=
  if slot < 8 ∨ 24 ≤ slot then .fault .noSuchObject
  else
    let x := s.ref.slots.get slot
    if !x.enable || x.levelDead then .next s
    else
      let limit := if (s.ports.get x.src).isSelvedge then 16 * msC else 5 * secC
      let s1 := s.advance (x.levelSeen + limit)
      let l := if x.overrideLevel then x.cfgLevel else 15
      let s2 := s1.updSlot slot fun y => { y with level := l, rxLevel := 15, levelDead := true }
      .next ((if x.level = l then s2 else s2.raise (slotSrc slot) Ev.levelChange).refreshLevel)

/-- XO_IN is declared absent or present while PD1 is on (R15, R162). -/
def State.xoDeclared (s : State) (present : Bool) : State :=
  let s1 := { s with glob := { s.glob with xoPresent := present, xoSince := s.now } }
  if !s1.pdOn 1 then s1
  else if !present then
    if s1.ref.state = .holdover && s1.ref.xoLoss then s1
    else (s1.enterHoldover true).refreshLevel
  else if s1.ref.state = .holdover && s1.ref.xoLoss then (s1.dpllTo .holdover none).refreshLevel
  else s1

/-- XO_MONITOR_WINDOW (R15): A 1 µs XO_IN monitor window ends and three consecutive windows declare XO_IN absent or present. -/
def execXoMonitorWindow (edges : Nat) (s : State) : Out :=
  let good := decide (80 ≤ edges ∧ edges ≤ 120)
  let g := s.glob
  let s1 := { s with glob := { g with xoGood := if good then min 3 (g.xoGood + 1) else 0, xoBad := if good then 0 else min 3 (g.xoBad + 1) } }
  let s2 := if good && decide (s1.glob.xoGood = 3) && !g.xoPresent then s1.xoDeclared true
    else if !good && decide (s1.glob.xoBad = 3) then
      let t := { s1 with glob := { s1.glob with xoAbsent := true } }
      if g.xoPresent then t.xoDeclared false else t
    else s1
  let held := s2.glob.xoAbsent && decide (s2.now < s2.glob.xoSince + 100 * msC)
  .next (if s2.power.stage = .xo && s2.glob.xoPresent && !held then { s2 with power := { s2.power with stage := .flash } } else s2)

/-! ## ESMC (R157 to R159) -/

/-- The SSM and the enhanced SSM code sent for a level; 0 for none (R157). -/
def esmcCodes (level : Nat) : Nat × Nat :=
  match level with
  | 0 => (0x2, 0x21)
  | 1 => (0x2, 0x20)
  | 2 => (0x2, 0x23)
  | 3 => (0x2, 0)
  | 4 => (0x4, 0)
  | 5 => (0x4, 0)
  | 6 => (0x8, 0)
  | 7 => (0xB, 0x22)
  | 15 => (0xF, 0)
  | _ => (0xB, 0)

/-- The level that a received SSM and enhanced code map to; none for a value that is not listed (R158). -/
def esmcLevel (ssm enhanced : Nat) : Option Nat :=
  match ssm, enhanced with
  | 0x2, 0x21 => some 0
  | 0x2, 0x20 => some 1
  | 0x2, 0x23 => some 2
  | 0x2, 0 => some 3
  | 0x4, _ => some 5
  | 0x8, _ => some 6
  | 0xB, 0x22 => some 7
  | 0xB, 0 => some 8
  | 0xF, _ => some 15
  | _, _ => none

/-- The clockClass sent for a level (R157). -/
def classOfLevel (level : Nat) : Nat :=
  if level ≤ 3 then 6 else if level = 4 then 7 else if level ≤ 7 then 135 else if level ≤ 13 then 165
  else if level = 14 then 248 else 255

/-- The level that a received clockClass maps to; none for a value that is not listed (R158). -/
def levelOfClass (c : Nat) : Option Nat :=
  if c = 6 then some 1 else if c = 7 then some 4 else if c = 135 then some 5
  else if c = 140 ∨ c = 150 ∨ c = 160 ∨ c = 165 then some 8 else if c = 248 then some 14 else if c = 255 then some 15 else none

/-- Slot `n` receives a level that a table of R158 maps, or a value not listed, which counts as level 15 (R158). -/
def State.receivedLevel (s : State) (n : Nat) (v : Option Nat) (hops : Nat) : State :=
  match v with
  | some l => s.slotLevel n l hops
  | none => (s.updSlot n fun x => { x with qlUnknown := inc32 x.qlUnknown }).slotLevel n 15 hops

/-- ESMC_PDU_TX (R159): Firmware sends an ESMC information PDU each second, or an event PDU after a level change. -/
def execEsmcPduTx (port : Nat) (s : State) : Out :=
  if 256 ≤ port then .fault .noSuchObject
  else if s.esmcPorts.contains port && s.portUp port then
    let c := esmcCodes s.ref.level
    .next { s with ref := { s.ref with
      esmcDue := s.ref.esmcDue.filter (· ≠ port), esmcSent := (port, c.1 * 256 + c.2) :: s.ref.esmcSent } }
  else .next s

/-! ## Commands (R177) -/

/-- Whether the source parameters of slot `n` are within their ranges (R151, R177): F_NUM, F_DEN, N, edge and source. -/
def slotSourceOk (n fNum fDen div edge source : Nat) : List Bool :=
  if n < 8 then
    [decide (1 ≤ fNum ∧ fNum ≤ 800000000), decide (1 ≤ fDen ∧ fDen ≤ 65535),
     decide (1 ≤ div ∧ div ≤ 16777216) &&
       (if 1000 * fDen ≤ fNum then decide (1000 * fDen * div ≤ fNum ∧ fNum ≤ 25000000 * fDen * div) else decide (div = 1)),
     decide (edge < 2), decide (source = 0)]
  else
    [decide (fNum = 0), decide (fDen = 0), decide (div = 0), decide (edge = 0),
     if n < 24 then decide (source < 256) else if n < 28 then decide (source < 4) else decide (source = 0)]

/-- What the own checks and effect of REF_CONFIGURE_SLOT come to (R151). -/
def bodyRefConfigureSlot (enable override esmc : Bool) (slot fNum fDen div edge source prio level : Nat) (acceptLim rejectLim : Int) (rejectHold acceptHold hitLim hitBudget coastLim : Nat) (s : State) : Rep :=
  let x := s.ref.slots.get slot
  if slot = 28 ∨ slot = 29 ∨ slot = 30 then
    if fNum ≠ 0 ∨ fDen ≠ 0 ∨ div ≠ 0 ∨ edge ≠ 0 ∨ source ≠ 0 then Rep.badState else rest x
  else rest x
where
  rest (x : RefSlot) : Rep :=
    Rep.ranges ([decide (slot < 31)] ++ slotSourceOk slot fNum fDen div edge source ++
      [decide (1 ≤ prio ∧ prio ≤ 255), decide (level < 16), decide (256 ≤ acceptLim ∧ acceptLim ≤ 49999 * 256 ∧ acceptLim < rejectLim),
       decide (512 ≤ rejectLim ∧ rejectLim ≤ 50000 * 256), decide (msU ≤ rejectHold ∧ rejectHold ≤ 10 * secU),
       decide (secU ≤ acceptHold ∧ acceptHold ≤ 3600 * secU), decide (6554 ≤ hitLim ∧ hitLim ≤ 1000 * nsU),
       decide (1 ≤ hitBudget ∧ hitBudget ≤ 255), decide (secU ≤ coastLim ∧ coastLim ≤ 600 * secU)]) <|
      let lane := decide (8 ≤ slot ∧ slot < 24)
      let sel := decide (s.ref.selected = some slot)
      let changed := if slot < 8 then decide (x.fNum ≠ fNum ∨ x.fDen ≠ fDen ∨ x.div ≠ div ∨ x.falling ≠ decide (edge = 1))
        else decide (slot < 28 ∧ x.src ≠ source)
      if esmc && !(lane && !(s.ports.get source).isSelvedge) then Rep.flags
      else if sel && changed then Rep.badState
      else if lane && decide ((s.ports.get source).width ≠ 1) then Rep.badState
      else if lane && enable && !(x.enable && decide (x.src = source)) && !s.portUp source then Rep.badState
      else .ok { s with ref := { s.ref with pendingCfg := s.ref.pendingCfg ++
        [.refConfigureSlot .direct enable override esmc slot (if slot < 8 then fNum else x.fNum) (if slot < 8 then fDen else x.fDen)
          (if slot < 8 then div else x.div) edge source prio level acceptLim rejectLim rejectHold acceptHold hitLim hitBudget
          coastLim] } } []

/-- What the own checks and effect of REF_CONFIGURE_SELECTION come to (R160). -/
def bodyRefConfigureSelection (qlMode revert wtr : Nat) (tieLimit : Int) (tieHold freeLevel avgTime guardTime inSpec : Nat) (s : State) : Rep :=
  Rep.ranges [decide (qlMode < 2), decide (revert < 2), decide (wtr ≤ 720 * secU),
      decide (26 ≤ tieLimit ∧ tieLimit ≤ 10000 * 256), decide (100 * msU ≤ tieHold ∧ tieHold ≤ 60 * secU),
      decide (3 ≤ freeLevel ∧ freeLevel ≤ 14), decide (secU ≤ avgTime ∧ avgTime ≤ 10000 * secU),
      decide (guardTime ≤ 600 * secU), decide (inSpec ≤ 86400 * secU)] <|
    .ok { s with ref := { s.ref with pendingCfg := s.ref.pendingCfg ++
      [.refConfigureSelection .direct qlMode revert wtr tieLimit tieHold freeLevel avgTime guardTime inSpec] } } []

/-- What the own checks and effect of REF_CONFIGURE_DPLL come to (R166). -/
def bodyRefConfigureDpll (trackBw acqBw : Nat) (slope : Int) (lockThr lossThr : Nat) (s : State) : Rep :=
  Rep.ranges [decide (1 ≤ trackBw ∧ trackBw ≤ 100000), decide (trackBw ≤ acqBw ∧ acqBw ≤ 100000),
      decide (256 ≤ slope ∧ slope ≤ 10000 * 256), decide (656 ≤ lockThr ∧ lockThr ≤ 1000 * nsU),
      decide (nsU ≤ lossThr ∧ lossThr ≤ 100000 * nsU ∧ lockThr < lossThr)] <|
    .ok { s with ref := { s.ref with pendingCfg := s.ref.pendingCfg ++
      [.refConfigureDpll .direct trackBw acqBw slope lockThr lossThr] } } []

/-- What the own checks and effect of REF_COMMAND come to (R177). -/
def bodyRefCommand (slot action : Nat) (s : State) : Rep :=
  Rep.ranges [decide (slot < 31), decide (action < 4)] <|
    if (s.ref.slots.get slot).state = .disabled then Rep.badState
    else .ok { s with ref := { s.ref with pendingCfg := s.ref.pendingCfg ++ [.refCommand .direct slot action] } } []

/-- The codes of the slot states, in the order of R155's table. -/
def SlotState.code : SlotState → Nat
  | .disabled => 0 | .failed => 1 | .qualifying => 2 | .waitRestore => 3 | .qualified => 4

/-- What the own checks and effect of REF_GET_SLOT come to (R177). -/
def bodyRefGetSlot (slot : Nat) (s : State) : Rep :=
  Rep.ranges [decide (slot < 31)] <|
    let x := s.ref.slots.get slot
    let basis := if s.ref.estValid then s.ref.holdEst else 0
    .ok s [.u 1 x.state.code, .u 1 (flag x.force_ 1 + flag x.lockout 2 + flag x.overrideLevel 4), .u 1 x.cause, .u 2 x.level,
      .u 2 x.hops, .i 8 x.yr, .i 8 (x.yr + q48ToPpb (s.ref.rootOff - basis)), .i 8 x.phi, .i 8 x.buildout, .u 4 x.hitCount,
      .u 4 x.extraPulse, .u 4 x.pulseWidth, .u 4 x.qlUnknown, .u 8 ((s.now - x.since) / msC)]

/-- What the own checks and effect of REF_GET_DPLL come to (R177). -/
def bodyRefGetDpll (s : State) : Rep :=
  let r := s.ref
  .ok s [.u 1 r.state.code, .u 1 (flag r.xoLoss 1), .u 2 (r.selected.getD 0xFFFF), .u 2 r.level, .u 2 r.hops, .i 8 r.errPhase,
    .i 8 r.rootOff, .i 8 r.holdEst, .u 8 (cyclesU r.span).toNat, .u 1 (flag r.estShort 1), .u 4 r.bwUse, .u 1 (flag r.bwLimited 1),
    .u 8 ((s.now - r.since) / msC)]

/-- What the own checks and effect of REF_STEER come to (R171). -/
def bodyRefSteer (action : Nat) (value : Int) (timeout level : Nat) (s : State) : Rep :=
  let open_ := decide (action = 0)
  let set_ := decide (action = 1)
  Rep.ranges [decide (action < 3), if set_ then decide (value.natAbs ≤ 14073748835) else decide (value = 0),
      if open_ then decide (10 * msU ≤ timeout ∧ timeout ≤ 60 * secU) else decide (timeout = 0),
      if open_ then decide (3 ≤ level ∧ level ≤ 14) else decide (level = 0)] <|
    let r := s.ref
    if open_ then
      if r.state = .holdover && r.xoLoss then Rep.badState
      else
        let s1 := if r.state = .steered then s else s.dpllTo .steered r.selected
        .ok (({ s1 with ref := { s1.ref with
          rootGoal := r.rootOff, steerLevel := level, steerTimeout := timeout, steerEnd := some (s.now + cyclesOf timeout)
          closing := false, switchTo := none } }).refreshLevel) []
    else if r.state ≠ .steered then Rep.badState
    else if set_ then
      .ok { s with ref := { r with rootGoal := value, steerEnd := if r.closing then none else some (s.now + cyclesOf r.steerTimeout) } } []
    else .ok { s with ref := { r with closing := true, steerEnd := none } } []

/-- What the own checks and effect of REF_CONFIGURE_PPS_OUT come to (R172). -/
def bodyRefConfigurePpsOut (enable : Bool) (output : Nat) (offset : Int) (width slew squelch : Nat) (s : State) : Rep :=
  Rep.ranges [decide (output < 2), decide (offset.natAbs ≤ 500 * msU), decide (usU ≤ width ∧ width ≤ 500 * msU),
      decide (6554 ≤ slew ∧ slew ≤ 10 * usU), decide (squelch < 16)] <|
    .ok { s with ref := { s.ref with pendingCfg := s.ref.pendingCfg ++
      [.refConfigurePpsOut .direct enable output offset width slew squelch] } } []

/-- What the own checks and effect of REF_CONFIGURE_CLKOUT come to (R174). -/
def bodyRefConfigureClkout (enable : Bool) (output fNum fDen mode : Nat) (offset : Int) (slew swing squelch : Nat) (s : State) : Rep :=
  Rep.ranges [decide (output < 4),
      decide (1000000 ≤ fNum ∧ fNum ≤ 750000000 ∧ (fDen = 0 ∨ 1000000 * fDen ≤ fNum)),
      decide (1 ≤ fDen ∧ fDen ≤ 65535 ∧ (mode = 1 → fDen = 1)), decide (mode < 2),
      if mode = 1 then decide (offset.natAbs ≤ 500 * msU) else decide (offset = 0),
      if mode = 1 then decide (6554 ≤ slew ∧ slew ≤ 10 * usU) else decide (slew = 0), decide (swing < 3), decide (squelch < 16)] <|
    let kept := if mode = 1 then slew else (s.ref.clk.get output).slew
    .ok { s with ref := { s.ref with pendingCfg := s.ref.pendingCfg ++
      [.refConfigureClkout .direct enable output fNum fDen mode offset kept swing squelch] } } []

/-- What the own checks and effect of REF_GET_CLKOUT come to (R177). -/
def bodyRefGetClkout (output : Nat) (s : State) : Rep :=
  Rep.ranges [decide (output < 4)] <|
    let x := s.ref.clk.get output
    let left := if x.ktime then x.left s.now else 0
    let code := if !x.enable then 0 else if x.squelched then 3 else if left ≠ 0 then 2 else 1
    .ok s [.u 1 (flag x.enable 1), .u 1 (flag x.ktime 1), .u 4 x.fNum, .u 4 x.fDen, .u 8 x.ftw, .u 1 code, .i 8 left,
      .u 8 ((s.now - x.since) / msC)]

/-- REF_CONFIGURE_SLOT (R151): Configures a reference slot's source, priority, level and monitor limits. -/
def execRefConfigureSlot (src : CmdSrc) (enable override esmc : Bool) (slot fNum fDen div edge source prio level : Nat) (acceptLim rejectLim : Int) (rejectHold acceptHold hitLim hitBudget coastLim : Nat) (s : State) : Out :=
  .next (s.runCmd (.refConfigureSlot src enable override esmc slot fNum fDen div edge source prio level acceptLim rejectLim rejectHold acceptHold hitLim hitBudget coastLim) src 0x0701 (bodyRefConfigureSlot enable override esmc slot fNum fDen div edge source prio level acceptLim rejectLim rejectHold acceptHold hitLim hitBudget coastLim))

/-- REF_CONFIGURE_SELECTION (R160): Sets the selection and holdover parameters. -/
def execRefConfigureSelection (src : CmdSrc) (qlMode revert wtr : Nat) (tieLimit : Int) (tieHold freeLevel avgTime guardTime inSpec : Nat) (s : State) : Out :=
  .next (s.runCmd (.refConfigureSelection src qlMode revert wtr tieLimit tieHold freeLevel avgTime guardTime inSpec) src 0x0702 (bodyRefConfigureSelection qlMode revert wtr tieLimit tieHold freeLevel avgTime guardTime inSpec))

/-- REF_CONFIGURE_DPLL (R166): Sets the DPLL loop parameters. -/
def execRefConfigureDpll (src : CmdSrc) (trackBw acqBw : Nat) (slope : Int) (lockThr lossThr : Nat) (s : State) : Out :=
  .next (s.runCmd (.refConfigureDpll src trackBw acqBw slope lockThr lossThr) src 0x0703 (bodyRefConfigureDpll trackBw acqBw slope lockThr lossThr))

/-- REF_COMMAND (R177): Sets FORCE or LOCKOUT on a slot, clears them, or clears its wait-to-restore. -/
def execRefCommand (src : CmdSrc) (slot action : Nat) (s : State) : Out :=
  .next (s.runCmd (.refCommand src slot action) src 0x0704 (bodyRefCommand slot action))

/-- REF_GET_SLOT (R177): Returns a slot's state, measurements, build-out and counts. -/
def execRefGetSlot (src : CmdSrc) (slot : Nat) (s : State) : Out :=
  .next (s.runCmd (.refGetSlot src slot) src 0x0705 (bodyRefGetSlot slot))

/-- REF_GET_DPLL (R177): Returns the DPLL state, selection, level, errors and holdover estimate. -/
def execRefGetDpll (src : CmdSrc) (s : State) : Out :=
  .next (s.runCmd (.refGetDpll src) src 0x0706 (bodyRefGetDpll))

/-- REF_STEER (R171): Opens the loop, sets ROOT's offset, or closes the loop. -/
def execRefSteer (src : CmdSrc) (action : Nat) (value : Int) (timeout level : Nat) (s : State) : Out :=
  .next (s.runCmd (.refSteer src action value timeout level) src 0x0707 (bodyRefSteer action value timeout level))

/-- REF_CONFIGURE_PPS_OUT (R172): Configures a PPS output's enable, offset, width, slew rate and squelch. -/
def execRefConfigurePpsOut (src : CmdSrc) (enable : Bool) (output : Nat) (offset : Int) (width slew squelch : Nat) (s : State) : Out :=
  .next (s.runCmd (.refConfigurePpsOut src enable output offset width slew squelch) src 0x0708 (bodyRefConfigurePpsOut enable output offset width slew squelch))

/-- REF_CONFIGURE_CLKOUT (R174): Configures a CLKOUT output's frequency, phase mode, offset, slew, swing and squelch. -/
def execRefConfigureClkout (src : CmdSrc) (enable : Bool) (output fNum fDen mode : Nat) (offset : Int) (slew swing squelch : Nat) (s : State) : Out :=
  .next (s.runCmd (.refConfigureClkout src enable output fNum fDen mode offset slew swing squelch) src 0x0709 (bodyRefConfigureClkout enable output fNum fDen mode offset slew swing squelch))

/-- REF_GET_CLKOUT (R177): Returns a CLKOUT output's configuration, FTW and state. -/
def execRefGetClkout (src : CmdSrc) (output : Nat) (s : State) : Out :=
  .next (s.runCmd (.refGetClkout src output) src 0x070A (bodyRefGetClkout output))


end Sys2Proof.Machine
end

