-- ==== Sys2Proof/Machine/PortCmds.lean ====
section
/-!
DEFINITION. The lane, port and module commands (R32 to R36, R44 to R61).
-/
namespace Sys2Proof.Machine

/-! ## Timing uplinks lose their lane (R54) -/

/-- The lane slots whose port was UP in `old` and is not now are disqualified at once (R54). -/
def State.disqualify (old s : State) : State :=
  (List.range 16).foldl (fun t k =>
    let n := 8 + k
    let p := (t.ref.slots.get n).src
    if old.portUp p && !t.portUp p then t.slotFail n 2 else t) s

/-! ## Ports (R31, R34, R36, R60) -/

/-- The modes and widths that some FEC completes to a row of R32's table. -/
def widthOk (mode width : Nat) : Bool := [0, 1, 2].any fun f => (laneRate mode width f).isSome

/-- The lane rates that the configured ports other than `p` use in octet `o` (R31). -/
def State.octetRates (s : State) (o p : Nat) : List Nat :=
  ((s.ports.filter fun q => q.2.configured && decide (q.1 ≠ p ∧ q.1 / 8 = o)).map fun q => q.2.rate).eraseDups

/-- Whether lanes `p` to `p + width - 1` meet a configured port other than `p` (R34). -/
def State.portsOverlap (s : State) (p width : Nat) : Bool :=
  s.ports.any fun q => q.2.configured && decide (q.1 ≠ p ∧ q.1 < p + width ∧ p < q.1 + q.2.width)

/-- What the own checks and effect of PORT_CONFIGURE come to (R36). -/
def bodyPortConfigure (port mode width fec maxFrame : Nat) (s : State) : Rep :=
  Rep.ranges [decide (port < 256 ∧ port % (max 1 width) = 0), decide (mode < 9),
      decide (width = 1 ∨ width = 2 ∨ width = 4 ∨ width = 8) && widthOk mode width, (laneRate mode width fec).isSome,
      decide (1518 ≤ maxFrame ∧ maxFrame ≤ 16384)] <|
    let x := s.ports.get port
    let rate := (laneRate mode width fec).getD 0
    let rates := s.octetRates (port / 8) port
    let lanes := (List.range (max width (if x.configured then x.width else 1))).map (port + ·)
    let idle := lanes.all fun l => decide ((s.lanes.get l).state = .down ∨ (s.lanes.get l).state = .off)
    if s.portsOverlap port width || !idle || (decide (2 ≤ rates.length) && !rates.contains rate) then Rep.badState
    else
      let s1 := s.updPort port fun y => { y with configured := true, mode := mode, width := width, fec := fec, maxFrame := maxFrame }
      .ok s1.reevaluate []

/-- What the own checks and effect of PORT_CAST_ON come to (R45). -/
def bodyPortCastOn (port : Nat) (s : State) : Rep :=
  Rep.ranges [decide (port < 256)] <|
    let x := s.ports.get port
    if !x.configured then Rep.badState
    else match s.portState port with
      | .casting | .proving | .up => .ok s []
      | .down =>
        if s.tableServes port then
          .ok ((s.updPort port fun y => { y with pointerFails := 0, castTimeouts := 0 }).startCasting port) []
        else Rep.badState
      | .fault | .held =>
        if s.tableServes port then
          .ok ((s.updPort port fun y => { y with pointerFails := 0, castTimeouts := 0, flaps := [] }).startCasting port) []
        else Rep.badState
      | .off | .binding | .swatch => Rep.badState

/-- What the own checks and effect of PORT_BIND_OFF come to (R60): it completes when the port reaches DOWN or OFF. Two DESIGN CHOICES of log
entry 102: for a port in SWATCH, of which R45 and R60 say nothing, it changes nothing and returns ST_OK; a second PORT_BIND_OFF of a port that
is BINDING completes with the first, and its drain timeout has no effect. -/
def bodyPortBindOff (src : CmdSrc) (port drain : Nat) (s : State) : Rep :=
  Rep.ranges [decide (port < 256), decide (drain ≤ 100 * msU)] <|
    if !(s.ports.get port).configured then .ok s []
    else match s.portState port with
      | .up => .later ((s.bindOff port drain).updPort port fun y => { y with bindWait := y.bindWait ++ [src] }) true
      | .binding => .later (s.updPort port fun y => { y with bindWait := y.bindWait ++ [src] }) true
      | .casting | .proving | .fault | .held => .ok (s.bindOff port drain) []
      | .down | .off | .swatch => .ok s []

/-- What the own checks and effect of PORT_SET_POLICY come to (R47). -/
def bodyPortSetPolicy (port castTimeout holdDown flapLimit flapWindow recast : Nat) (s : State) : Rep :=
  Rep.ranges [decide (port < 256), decide (10 * msU ≤ castTimeout ∧ castTimeout ≤ 10 * secU),
      decide (msU ≤ holdDown ∧ holdDown ≤ 10 * secU), decide (1 ≤ flapLimit ∧ flapLimit ≤ 255),
      decide (10 * msU ≤ flapWindow ∧ flapWindow ≤ 60 * secU), decide (recast < 2)] <|
    .ok (s.updPort port fun y => { y with
      castTimeout := castTimeout, holdDown := holdDown, flapLimit := flapLimit, flapWindow := flapWindow
      recastManual := decide (recast = 1) }) []

/-! ## Lanes (R41, R42, R49, R57 to R60) -/

/-- The temperature that LANE_GET_STATUS reports as latched: that of the settings in use, or 0 before any (a DESIGN CHOICE of log entry 102,
since R60 does not say which rate's, nor what it is before a cast-on). -/
def Lane.statusTemp (x : Lane) : Int := match x.inUse with | some y => y.temp | none => 0

/-- The codes of the lane states, in the order of R44's table. -/
def LaneState.code : LaneState → Nat
  | .off => 0 | .down => 1 | .casting => 2 | .proving => 3 | .up => 4 | .fault => 5 | .held => 6 | .binding => 7 | .swatch => 8

/-- What the own checks and effect of LANE_GET_STATUS come to (R60). -/
def bodyLaneGetStatus (lane : Nat) (s : State) : Rep :=
  Rep.ranges [decide (lane < 264)] <|
    let x := s.lanes.get lane
    let p := s.ports.get ((s.portOf lane).getD lane)
    .ok s [.u 1 x.state.code, .u 2 x.lastCause, .u 1 x.lockFlags, .i 8 x.freqOff,
      .u 2 (recent p.flaps s.now (cyclesOf p.flapWindow)).length, .u 4 p.castTimeouts, .i 4 x.statusTemp,
      .u 8 (match s.chan with | some t => t.boardId | none => 0)]

/-- What the own checks and effect of LANE_GET_LATENCY come to (R49). -/
def bodyLaneGetLatency (lane : Nat) (s : State) : Rep :=
  Rep.ranges [decide (lane < 264)] <|
    match s.portOf lane with
    | none => Rep.badState
    | some p =>
      if (s.lanes.get lane).state = .up then
        .ok s [.i 8 (s.rxLatency p lane), .i 8 (s.txLatency p lane), .i 8 (s.deskewOf p lane)]
      else Rep.badState

/-- The channel-table section that an identifier names (R437): section s of overlay n as 32 × n + s, or a copy of the base image as
0x200 or 0x201. -/
def State.tableSection (s : State) (id : Nat) : Option (List Byte) :=
  if id < 512 then
    let o := s.fw.overlays.get (id / 32)
    if o.state = .empty then none else o.img.tables.find (id % 32)
  else match s.fw.copies.getD (id - 512) none with
    | some i => match i.tables with
      | [] => none
      | t :: _ => some t.2
    | none => none

/-- What the own checks and effect of LANE_SET_CHANNEL_TABLE come to (R39). -/
def bodyLaneSetChannelTable (sect : Nat) (s : State) : Rep :=
  Rep.ranges [decide (sect < 514)] <|
    match s.tableSection sect with
    | none => Rep.badState
    | some l =>
      match readTable l with
      | (_, some t) => .ok (s.activateTable t) []
      | (st, none) => .fail st []

/-- What the own checks and effect of LANE_RELATCH come to (R42). -/
def bodyLaneRelatch (lane : Nat) (s : State) : Rep :=
  Rep.ranges [decide (lane < 264 ∨ lane = 0xFFFF)] <|
    if lane = 0xFFFF then .ok { s with lanes := s.lanes.mapAll fun _ x => { x with latched := [] } } []
    else .ok (s.updLane lane fun x => { x with latched := [] }) []

/-- Whether pattern `k` of R56's table runs at a rate code. -/
def patternAt (k rate : Nat) : Bool := decide (k = 8) || (if k < 6 then decide (rate < 2) else decide (k < 8 ∧ 2 ≤ rate))

/-- Whether pattern `k` suits lane `l`: that of the rate of its port; any, where the lane belongs to no port. -/
def State.patternOk (s : State) (l k : Nat) : Bool :=
  match s.portOf l with
  | some p => patternAt k (s.ports.get p).rate
  | none => decide (k < 9)

/-- A 48-bit count that has grown by an amount the spec does not give: the bits of a swatch are compared outside any command. -/
def grow48 (now k : Nat) : Nat := min (now + Config.freeNat k) (2 ^ 48 - 1)

/-- The errors that the generator's injection puts into `n` bits compared in near-end loopback: those of the last single error or burst that
are not counted yet, or one in every 2^k (R58). -/
def Swatch.injected (x : Swatch) (n : Nat) : Nat := x.injDue + if x.loopback && decide (x.injKind = 3) then n / 2 ^ x.injArg else 0

/-- The swatch counts of lane `l` as they stand at this moment (R57): what a locked checker has compared since they were last brought up to
date is added. In near-end loopback the errors follow the injection (R58). -/
def State.swatchNow (s : State) (l : Nat) : State :=
  let x := (s.lanes.get l).swatch
  if !x.locked then s
  else
    let (a, s1) := s.takeFree
    let (b, s2) := s1.takeFree
    let n := Config.freeNat a + x.injDue
    let bits := min (x.bits + n) (2 ^ 48 - 1)
    s2.updLane l fun y => { y with swatch := { y.swatch with
      bits := bits, errors := min bits (grow48 (x.errors + x.injected n) b), injDue := 0 } }

/-- The lanes of the port of lane `l`, or the lane alone. -/
def State.lanesWith (s : State) (l : Nat) : List Nat :=
  match s.portOf l with
  | some p => s.portLanes p
  | none => [l]

/-- What the own checks and effect of LANE_SWATCH come to (R56). -/
def bodyLaneSwatch (clear : Bool) (lane action txPattern rxPattern loopback injKind injArg : Nat) (s : State) : Rep :=
  let start := decide (action = 0)
  let inject := decide (action = 2)
  Rep.ranges [decide (lane < 264), decide (action < 4), if start then s.patternOk lane txPattern else decide (txPattern = 0),
      if start then s.patternOk lane rxPattern else decide (rxPattern = 0), if start then decide (loopback < 2) else decide (loopback = 0),
      if inject then decide (injKind < 3) else decide (injKind = 0),
      if inject then (match injKind with
        | 0 => decide (injArg = 0)
        | 1 => decide (1 ≤ injArg ∧ injArg ≤ 255)
        | _ => decide (10 ≤ injArg ∧ injArg ≤ 40)) else decide (injArg = 0)] <|
    let x := s.lanes.get lane
    if clear && decide (action ≠ 3) then Rep.flags
    else if 256 ≤ lane ∧ s.pair.linkUp then Rep.badState
    else if start then
      if x.state = .down ∨ x.state = .fault ∨ x.state = .held ∨ x.state = .swatch then
        let s1 := (s.lanesWith lane).foldl (fun t l => t.updLane l fun y => { y with state := .swatch, tapOn := false }) (s.swatchNow lane)
        let p := (s.portOf lane).getD lane
        let s2 := s1.updPort p fun y => { y with holdTimer := none, castTimer := none, castExpired := false, provingEnd := none }
        .ok (s2.updLane lane fun y => { y with swatch := { y.swatch with
          txPattern := txPattern, rxPattern := rxPattern, loopback := decide (loopback = 1), locked := false
          injKind := 0, injArg := 0, injDue := 0 } }) []
      else Rep.badState
    else if x.state ≠ .swatch then Rep.badState
    else if action = 1 then
      .ok ((s.lanesWith lane).foldl (fun t l => (t.swatchNow l).updLane l fun y =>
        { y with state := .down, swatch := { y.swatch with locked := false, sweeping := false, injDue := 0 } }) s) []
    else if inject then
      let s1 := s.swatchNow lane
      .ok (s1.updLane lane fun y => { y with swatch := { y.swatch with
        injKind := injKind + 1, injArg := injArg
        injDue := if y.swatch.loopback && y.swatch.locked then (match injKind with | 0 => 1 | 1 => injArg | _ => 0) else 0 } }) []
    else
      let s1 := s.swatchNow lane
      let v := (s1.lanes.get lane).swatch
      let s2 := if clear then s1.updLane lane fun y => { y with swatch := { y.swatch with bits := 0, errors := 0 } } else s1
      .ok s2 [.u 8 v.bits, .u 8 v.errors]

/-- What the own checks and effect of LANE_SWEEP come to (R59). -/
def bodyLaneSweep (lane vga dwell : Nat) (s : State) : Rep :=
  Rep.ranges [decide (lane < 264), decide (vga < 64), decide (msU ≤ dwell ∧ dwell ≤ 1000 * msU)] <|
    let x := s.lanes.get lane
    if x.state ≠ .swatch ∨ (256 ≤ lane ∧ s.pair.linkUp) then Rep.badState
    else if x.swatch.sweeping then .fail stBusy []
    else if !x.swatch.locked then Rep.badState
    else .ok (s.updLane lane fun y => { y with swatch := { y.swatch with
      sweeping := true, sweepVga := vga, sweepDwell := dwell, sweepEnd := s.now + 1024 * cyclesOf dwell
      sweepDone := false, sweepCounts := [] } }) []

/-- What the own checks and effect of LANE_SWEEP_READ come to (R59). -/
def bodyLaneSweepRead (lane page : Nat) (s : State) : Rep :=
  Rep.ranges [decide (lane < 264), decide (page < 64)] <|
    let x := (s.lanes.get lane).swatch
    if x.sweepDone then .ok s ((List.range 16).map fun i => Fld.u 2 (x.sweepCounts.getD (16 * page + i) 0)) else Rep.badState

/-! ## Modules (R61) -/

/-- The selects that an access of module `m` writes first, and what it then counts as selected. -/
def Module.select (x : Module) (bank page offset : Nat) : Module :=
  if offset < 128 ∨ (x.bank = some bank ∧ x.page = some page) then x
  else { x with
    bank := some bank, page := some page
    writes := (127, [BitVec.ofNat 8 page]) :: (126, [BitVec.ofNat 8 bank]) :: x.writes }

/-- Module `m` is in the map and present by its SGPIO bit. -/
def State.moduleThere (s : State) (m : Nat) : Bool := match s.modules.find m with | some x => x.present | none => false

/-- Whether a two-wire transaction of module `m` ends in a timeout: whether the module answers is outside the device, so it is a free value.
After a timeout the module's bank and page count as unknown (R61). -/
def State.moduleEnds (s : State) (m : Nat) : Bool × State :=
  let (k, s1) := s.takeFree
  if Config.freeNat k % 2 = 1 then (true, { s1 with modules := s1.modules.upd m fun x => { x with bank := none, page := none } }) else (false, s1)

/-- The fields that CMIS protects with a checksum, by page of the upper memory: first and last offset, and the offset of the checksum byte
(PRESUMED, log entry 103: the spec names CMIS and does not list them). -/
def cmisFields : List (Nat × Nat × Nat × Nat) := [(0, 128, 221, 222), (1, 130, 254, 255), (2, 128, 254, 255), (4, 128, 254, 255)]

/-- Whether the bytes `l` read from `offset` on of a page fail a checksum of CMIS: a read that covers a protected field with its checksum byte
is checked, by the low eight bits of the sum of the field (R61). -/
def cmisBad (page offset : Nat) (l : List Byte) : Bool :=
  decide (128 ≤ offset) && cmisFields.any fun f =>
    decide (f.1 = page ∧ offset ≤ f.2.1 ∧ f.2.2.2 < offset + l.length) &&
    decide (((l.drop (f.2.1 - offset)).take (f.2.2.1 + 1 - f.2.1)).foldl (fun a b => (a + b.toNat) % 256) 0 ≠ (l.getD (f.2.2.2 - offset) 0).toNat)

/-- A write of `data` from `offset` on goes to module `x`; one that reaches bytes 126 or 127 of the lower memory selects a bank or a page. -/
def Module.write (x : Module) (offset : Nat) (data : List Byte) : Module :=
  let at_ (o : Nat) (old : Option Nat) : Option Nat := if offset ≤ o ∧ o < offset + data.length then some (data.getD (o - offset) 0).toNat else old
  { x with writes := (offset, data) :: x.writes, bank := at_ 126 x.bank, page := at_ 127 x.page }

/-- What the own checks and effect of MODULE_READ come to (R61). -/
def bodyModuleRead (module bank page offset length : Nat) (s : State) : Rep :=
  Rep.ranges [decide (module < 256), decide (bank < 256), decide (page < 256), decide (offset < 256),
      decide (1 ≤ length ∧ length ≤ 128 ∧ offset + length ≤ 256 ∧ (128 ≤ offset ∨ offset + length ≤ 128))] <|
    if !s.moduleThere module then Rep.badState
    else
      let (late, s1) := ({ s with modules := s.modules.upd module fun x => x.select bank page offset }).moduleEnds module
      let (k, s2) := s1.takeFree
      let l := (List.range length).map fun i => Config.freeByte (65536 * k + i)
      if late then .done s2 stTimeout []
      else if cmisBad page offset l then .done s2 stCrc []
      else .done s2 stOk [.raw 8 l]

/-- What the own checks and effect of MODULE_WRITE come to (R61). -/
def bodyModuleWrite (module bank page offset length : Nat) (data : List Byte) (s : State) : Rep :=
  Rep.ranges [decide (module < 256), decide (bank < 256), decide (page < 256), decide (offset < 256),
      decide (1 ≤ length ∧ length ≤ 8 ∧ offset / 8 = (offset + length - 1) / 8), true] <|
    if !s.moduleThere module then Rep.badState
    else
      let (late, s1) := ({ s with modules := s.modules.upd module fun x =>
        (x.select bank page offset).write offset (data.take length) }).moduleEnds module
      .done s1 (if late then stTimeout else stOk) []

/-- PORT_CONFIGURE (R36): Sets a port's mode, width, FEC and maximum frame length while its lanes are DOWN or OFF. -/
def execPortConfigure (src : CmdSrc) (port mode width fec maxFrame : Nat) (s : State) : Out :=
  .next (s.runCmd (.portConfigure src port mode width fec maxFrame) src 0x0301 (bodyPortConfigure port mode width fec maxFrame))

/-- PORT_CAST_ON (R45): Moves a port from DOWN, FAULT or HELD to CASTING, latching settings and starting the cast-on timer. -/
def execPortCastOn (src : CmdSrc) (port : Nat) (s : State) : Out :=
  .next (s.runCmd (.portCastOn src port) src 0x0302 (bodyPortCastOn port))

/-- PORT_SET_POLICY (R47): Sets the per-port cast-on and bind-off timers, limits and recast policy. -/
def execPortSetPolicy (src : CmdSrc) (port castTimeout holdDown flapLimit flapWindow recast : Nat) (s : State) : Out :=
  .next (s.runCmd (.portSetPolicy src port castTimeout holdDown flapLimit flapWindow recast) src 0x0304 (bodyPortSetPolicy port castTimeout holdDown flapLimit flapWindow recast))

/-- LANE_GET_STATUS (R60): Returns a lane's state, last cause, lock flags, frequency offset and counts. -/
def execLaneGetStatus (src : CmdSrc) (lane : Nat) (s : State) : Out :=
  .next (s.runCmd (.laneGetStatus src lane) src 0x0305 (bodyLaneGetStatus lane))

/-- LANE_GET_LATENCY (R49): Returns a lane's reported RX and TX latency and its deskew term. -/
def execLaneGetLatency (src : CmdSrc) (lane : Nat) (s : State) : Out :=
  .next (s.runCmd (.laneGetLatency src lane) src 0x0306 (bodyLaneGetLatency lane))

/-- LANE_SET_CHANNEL_TABLE (R39): Checks and activates a replacement channel table, clearing every lane's latched settings. -/
def execLaneSetChannelTable (src : CmdSrc) (sect : Nat) (s : State) : Out :=
  .next (s.runCmd (.laneSetChannelTable src sect) src 0x0307 (bodyLaneSetChannelTable sect))

/-- LANE_RELATCH (R42): Clears the latched settings of one lane or of all lanes. -/
def execLaneRelatch (src : CmdSrc) (lane : Nat) (s : State) : Out :=
  .next (s.runCmd (.laneRelatch src lane) src 0x0308 (bodyLaneRelatch lane))

/-- LANE_SWATCH (R56): Starts, stops, injects into or reads the PRBS generator and checker of a lane. -/
def execLaneSwatch (src : CmdSrc) (clear : Bool) (lane action txPattern rxPattern loopback injKind injArg : Nat) (s : State) : Out :=
  .next (s.runCmd (.laneSwatch src clear lane action txPattern rxPattern loopback injKind injArg) src 0x0309 (bodyLaneSwatch clear lane action txPattern rxPattern loopback injKind injArg))

/-- LANE_SWEEP (R59): Starts an error-count sweep over the CTLE and DFE1 grid on a lane in SWATCH. -/
def execLaneSweep (src : CmdSrc) (lane vga dwell : Nat) (s : State) : Out :=
  .next (s.runCmd (.laneSweep src lane vga dwell) src 0x030A (bodyLaneSweep lane vga dwell))

/-- LANE_SWEEP_READ (R59): Returns one page of 16 error counts from a complete sweep. -/
def execLaneSweepRead (src : CmdSrc) (lane page : Nat) (s : State) : Out :=
  .next (s.runCmd (.laneSweepRead src lane page) src 0x030B (bodyLaneSweepRead lane page))

/-- MODULE_READ (R61): Reads CMIS management memory of a module over I2C. -/
def execModuleRead (src : CmdSrc) (module bank page offset length : Nat) (s : State) : Out :=
  .next (s.runCmd (.moduleRead src module bank page offset length) src 0x030E (bodyModuleRead module bank page offset length))

/-- MODULE_WRITE (R61): Writes up to 8 bytes of CMIS management memory of a module over I2C. -/
def execModuleWrite (src : CmdSrc) (module bank page offset length : Nat) (data : List Byte) (s : State) : Out :=
  .next (s.runCmd (.moduleWrite src module bank page offset length data) src 0x030F (bodyModuleWrite module bank page offset length data))


end Sys2Proof.Machine
end

