-- ==== Sys2Proof/Machine/Clocks.lean ====
section
/-!
DEFINITION. The machine-clock channels, their orbits and markers, and the MCLK outputs (R252 to R269). Instants are in 25ths of
2^-16 ns since TICK 0 where they may lie inside a CORE cycle; Q is in 2^-64 and phases in 2^-32 of a cycle.
-/
namespace Sys2Proof.Machine

/-- Event source of MC channel `c` (R272). -/
def mcSrc (c : Nat) : Nat := 817 + c

/-- The codes of the channel states, in the order of R255's table. -/
def McState.code : McState → Nat
  | .disabled => 0 | .acquire => 1 | .track => 2 | .coast => 3

/-- The instant now, in 25ths of 2^-16 ns. -/
def State.nowQ (s : State) : Int := instQ s.tick 0

/-- The cycles of the machine clock at an instant, in 2^-32 cycles from the start of the orbit in progress, by Q_f and θ_f. -/
def McChan.cycles (x : McChan) (q : Int) : Int :=
  x.bunch * 4294967296 + x.thetaF + x.qF * (q - x.thetaAt * cycleQ) / (cycleQ * 4294967296 : Nat)

/-- Cycle `n` after the start of the `k`-th orbit ahead: the orbit it falls in, counted from the one in progress, and its bunch number. The next
`fuel` orbits last `len` cycles and those behind them `l`. -/
def walkOrbits (l len : Int) : Nat → Int → Int → Int × Int
  | 0, k, n => (k + n / l, n % l)
  | fuel + 1, k, n => if n < len then (k, n) else walkOrbits l len fuel (k + 1) (n - len)

/-- The direction of a slew (R263). -/
def slewDir (d : Int) : Int := if 0 < d then 1 else if d < 0 then -1 else 0

/-- The place of a count of cycles: how many orbits from the one in progress it falls, and its bunch number, with the orbits that a slew
lengthens or shortens (R261, R263). -/
def McChan.place (x : McChan) (c : Int) : Int × Int :=
  let n := c / 4294967296
  let l : Int := x.orbitLen
  if x.orbitLen = 0 then (0, n)
  else if n < 0 then (n / l, n % l)
  else if n < l + x.orbitSlew then (0, n)
  else walkOrbits l (l + slewDir x.slewLeft) x.slewLeft.natAbs 1 (n - (l + x.orbitSlew))

/-- The bunch number of a count of cycles (R261). -/
def McChan.bunchOf (x : McChan) (c : Int) : Int := (x.place c).2

/-- δ as R262 takes it, between −⌊L/2⌋ and L − 1 − ⌊L/2⌋. -/
def McChan.deltaOf (x : McChan) (d : Int) : Int :=
  let l : Int := x.orbitLen
  if l = 0 then 0
  else
    let r := d % l
    if r ≤ l - 1 - l / 2 then r else r - l

/-- A raw Q lies within the frequency limit of the nominal frequency (R254). -/
def McChan.inRange (x : McChan) (q : Nat) : Bool :=
  let nom : Nat := x.fNum * 18446744073709551616
  let den : Nat := max 1 x.fDen * secC
  decide (((q * den : Nat) - (nom : Int)).natAbs * 256000000000 ≤ x.freqLim * nom)

/-- A difference of phases in 2^-32 cycles, centred, as a time in 2^-16 ns at frequency `q`. -/
def phaseTime (d : Int) (q : Nat) : Int :=
  if q = 0 then 0
  else
    let r := signedOf 32 (unsignedOf 32 d)
    roundDiv (r * 4294967296 * 262144) (5 * q)

/-- The raw phase that the last sample predicts for an instant. -/
def McChan.predicted (x : McChan) (q : Int) : Int := x.rawTheta + x.rawQ * (q - x.rawAt) / (cycleQ * 4294967296 : Nat)

/-! ## Channel states (R255, R269) -/

/-- The outputs of channel `c` follow its state (R269): held low outside TRACK and COAST; they start in TRACK. -/
def State.mcOutputs (s : State) (c : Nat) : State :=
  let st := (s.stitch.mc.get c).state
  { s with stitch := { s.stitch with mclk := s.stitch.mclk.mapAll fun _ o =>
    if o.chan ≠ c ∨ o.mode = 0 then o
    else match st with
      | .track => if o.running then o else { o with running := true, squelched := false, phaseErr := 0, slewing := false }
      | .coast => o
      | _ => { o with running := false, squelched := false } } }

/-- Channel `c` enters a state, with MC_STATE carrying the old and new states (R255, R272). -/
def State.mcTo (s : State) (c : Nat) (st : McState) : State :=
  let old := (s.stitch.mc.get c).state
  (((s.updMc c fun x => { x with state := st }).mcOutputs c).raise (mcSrc c) Ev.mcState [.u 1 old.code, .u 1 st.code])

/-- The source of channel `c` is lost (R255). -/
def State.mcLost (s : State) (c : Nat) : State :=
  let s1 := s.updMc c fun x => { x with goodRun := 0, hitting := false, hitPending := [] }
  if (s.stitch.mc.get c).state = .track then
    (s1.updMc c fun x => { x with coastEnd := some (s.now + cyclesOf x.coastLim) }).mcTo c .coast
  else s1

/-- Sixteen samples in range bring channel `c` to TRACK (R255, R261): the orbit counter starts at the first entry, with MC_STATE; after COAST,
which the table gives no event, STEP marks a phase that moved beyond the hit limit. -/
def State.mcTrack (s : State) (c : Nat) : State :=
  let x := s.stitch.mc.get c
  if x.state = .acquire then
    (s.updMc c fun y => if y.tracked then { y with valid := true, coastEnd := none }
      else { y with
        valid := true, coastEnd := none, tracked := true, orbit := 0, bunch := 0, markGap := 0, framePos := 0, frameCur := y.frameLen }).mcTo c .track
  else if x.state = .coast then
    let moved := decide (x.hitLim < (phaseTime (x.rawTheta - x.cycles x.rawAt) x.qF).natAbs)
    (s.updMc c fun y => { y with
      state := .track, valid := true, coastEnd := none, stepSets := if moved then 16 else y.stepSets }).mcOutputs c
  else s

/-- The bandwidth of channel `x`'s loop in mHz: that configured, and never more than 1 ÷ (20 × w) (R253). -/
def State.mcBandwidth (s : State) (x : McChan) : Nat := min x.bw (50 * secC / s.winC)

/-- The loop takes the raw phase and Q (R253). Its gains are not given, so what it makes of them is free, but for Q_f's bound of 0.32 and θ_f's
range; the whole cycles counted stay the nearest to those before, or start at 0 where none were counted. -/
def State.mcLoop (s : State) (c : Nat) (q : Int) (counted : Bool) : State :=
  let x := s.stitch.mc.get c
  let (k1, s1) := s.takeFree
  let (k2, s2) := s1.takeFree
  let bw := s.mcBandwidth x
  let th := Config.loopFilter bw x.rawTheta k2 % 4294967296
  let t := q / cycleQ
  let whole := roundDiv (x.cycles (t * cycleQ) - th) 4294967296
  s2.updMc c fun y => { y with
    qF := Config.loopFilter bw x.rawQ k1 % 5902958103587056517, thetaF := th, thetaAt := t.toNat, bunch := if counted then whole else 0 }

/-- A sample of channel `c`: raw Q and raw θ at instant `q` (R253 to R257). While the stamps are STALE, the channel coasts on Q_f; the build-outs
absorbed at commits stay in the phase. -/
def State.mcSample (s : State) (c rq rth : Nat) (q : Int) (stale : Bool) : State :=
  let x := s.stitch.mc.get c
  let s0 := s.updMc c fun y => { y with stale := stale }
  if !x.inRange rq then s0.mcLost c
  else
    let first := decide (x.rawQ = 0)
    let pred := unsignedOf 32 (x.predicted q)
    let built := unsignedOf 32 (rth + (rq : Int) * x.buildOut / 281474976710656)
    let th := if stale && !first then pred else built
    let dev := if first then 0 else phaseTime ((th : Int) - pred) x.rawQ
    let run := min 16 (x.goodRun + 1)
    let take (s : State) : State :=
      let s1 := s.updMc c fun y => { y with
        rawQ := rq, rawTheta := th, rawAt := q, goodRun := run, hitting := false, hitPending := [] }
      let s2 := if 16 ≤ run then s1.mcTrack c else s1
      if (s2.stitch.mc.get c).state = .coast ∨ (stale ∧ x.state = .track) then s2 else s2.mcLoop c q x.tracked
    let hold (s : State) (f : McChan → McChan) : State :=
      let n := if x.state = .coast then run else 0
      let s1 := s.updMc c fun y => f { y with rawTheta := pred, rawAt := q, goodRun := n }
      if n = 16 then s1.mcTrack c else s1
    if x.hitting then
      let l := x.hitPending ++ [dev]
      if l.length < 3 then hold s0 fun y => { y with hitPending := l }
      else if agreeWithin x.hitLim l then
        ((take s0).updMc c fun y => { y with stepSets := 16 }).raise (mcSrc c) Ev.mcPhaseHitAbsorbed
      else hold s0 fun y => { y with hitting := false, hitPending := [] }
    else if x.hitLim < dev.natAbs then
      (hold s0 fun y => { y with hitting := true, hitPending := [], hits := inc32 y.hits }).raise (mcSrc c) Ev.mcPhaseHit
    else take s0

/-- The prescaler or divider of a channel's source (R252). -/
def State.mcDivider (s : State) (x : McChan) : Nat :=
  if x.srcKind = 0 then (s.tdc.chans.get x.srcIdx).prescaler else (s.ref.slots.get x.srcIdx).div

/-- Channel `c` at a lane-window boundary (R252, R253). -/
def State.mcBoundary (s : State) (c : Nat) : State :=
  let x := s.stitch.mc.get c
  let s0 := s.updMc c fun y => { y with stamps := [] }
  let sel := decide (x.srcKind = 1 ∧ s.ref.selected = some x.srcIdx)
  let s1 := s0.updMc c fun y => { y with selRaised := sel }
  let s2 := if x.enable && sel && !x.selRaised then s1.raise (mcSrc c) Ev.mcSourceSelected else s1
  if !x.enable || x.srcKind = 2 then s2
  else if x.stamps.length < 3 then s2.updMc c fun y => { y with goodRun := 0 }
  else
    let f := fitLine x.stamps
    if f.a ≤ 0 then s2
    else
      let p := s.mcDivider x
      let rq := (roundDiv ((p * 65536 * f.b * 18446744073709551616 : Nat) : Int) f.a.toNat).toNat
      let dt := (s.tick : Int) * 4294967296 - f.at (x.stamps.length - 1)
      s2.mcSample c rq (unsignedOf 32 (rq * dt / 18446744073709551616)) s.nowQ (x.stamps.any (·.stale))

/-- A gauge commit moves the stamps of TDC channel `ch` by `d` U: the machine-clock channels it feeds take the move as a build-out (R257). An
edge measured earlier leaves more of a cycle elapsed, which the build-out takes back from every later sample. -/
def State.mcCommit (s : State) (ch : Nat) (d : Int) : State :=
  { s with stitch := { s.stitch with mc := s.stitch.mc.mapAll fun _ x =>
    let fed := decide ((x.srcKind = 0 ∧ x.srcIdx = ch) ∨ (x.srcKind = 1 ∧ 264 + x.srcIdx = ch))
    if x.enable && fed then { x with buildOut := x.buildOut + d } else x } }

/-- MC_ACTIVITY_TIMEOUT (R254): A machine-clock source shows no stamp or set for its activity limit and the channel coasts. -/
def execMcActivityTimeout (chan : Nat) (s : State) : Out :=
  if 4 ≤ chan then .fault .noSuchObject
  else
    let x := s.stitch.mc.get chan
    if x.enable && decide (x.state = .acquire ∨ x.state = .track) then
      .next ((s.advance (x.lastSeen + cyclesOf x.actLim)).mcLost chan)
    else .next s

/-- MC_COAST_LIMIT (R255): A coasting channel reaches its coast limit, clears VALID and may squelch its outputs. -/
def execMcCoastLimit (chan : Nat) (s : State) : Out :=
  if 4 ≤ chan then .fault .noSuchObject
  else
    let x := s.stitch.mc.get chan
    match x.state, x.coastEnd with
    | .coast, some t =>
      let s1 := (s.advance t).updMc chan fun y => { y with valid := false, coastEnd := none }
      let s2 := s1.mcTo chan .coast
      .next ((List.range 4).foldl (fun s o =>
        let y := s.stitch.mclk.get o
        if y.chan = chan && y.mode ≠ 0 && y.running && y.squelchFlag then
          (s.updMclk o fun z => { z with running := false, squelched := true }).raise (821 + o) Ev.mclkSquelch
        else s) s2)
    | _, _ => .next s

/-! ## Orbits and markers (R261 to R266) -/

/-- The length of the orbit in progress (R263). -/
def McChan.orbitNow (x : McChan) : Int := x.orbitLen + x.orbitSlew

/-- The TICK of the first CORE cycle at or after the start of the next orbit. -/
def McChan.orbitTick (x : McChan) : Nat :=
  let left := x.orbitNow * 4294967296 - (x.bunch * 4294967296 + x.thetaF)
  if left ≤ 0 || x.qF = 0 then x.thetaAt
  else x.thetaAt + ceilDiv (left.toNat * 4294967296) x.qF

/-- A marker on bunch `d` (as δ) is accepted (R262): three in a row with the same δ that is not 0 start a slew, unless one runs. -/
def State.markerDelta (s : State) (c : Nat) (d : Int) : State :=
  s.updMc c fun x =>
    let run := if d = 0 then 0 else if x.delta = d then x.markRun + 1 else 1
    let busy := decide (x.slewLeft ≠ 0 ∨ x.orbitSlew ≠ 0)
    let y := { x with delta := d, markGap := 0, markLostRaised := false, orbitValid := x.orbitValid || decide (d = 0) }
    if 3 ≤ run then { y with markRun := 0, slewLeft := if busy then x.slewLeft else d } else { y with markRun := run }

/-- MARKER_EDGE (R262): A marker edge is assigned to a bunch and three equal offsets start an orbit slew. -/
def execMarkerEdge (chan : Nat) (s : State) : Out :=
  if 4 ≤ chan then .fault .noSuchObject
  else
    let x := s.stitch.mc.get chan
    match x.marks with
    | [] => .next s
    | v :: rest =>
      let s1 := s.updMc chan fun y => { y with marks := rest }
      if !x.tracked || x.orbitLen = 0 then .next s1
      else
        let c := x.cycles (instQ v.tick v.sub + x.markOffset * 25)
        let f := c % 4294967296
        if f * 10 < 4294967296 ∨ 9 * 4294967296 < f * 10 then
          .next (s1.updMc chan fun y => { y with ambiguous := inc32 y.ambiguous })
        else .next (s1.markerDelta chan (x.deltaOf (x.bunchOf c)))

/-- MARKER_LOST (R262): No marker has been accepted for 4 orbits. -/
def execMarkerLost (chan : Nat) (s : State) : Out :=
  if 4 ≤ chan then .fault .noSuchObject
  else
    let x := s.stitch.mc.get chan
    if x.enable && x.tracked && decide (x.markSrc ≠ 3 ∧ 4 ≤ x.markGap) && !x.markLostRaised then
      .next ((s.updMc chan fun y => { y with markLostRaised := true }).raise (mcSrc chan) Ev.markerLost)
    else .next s

/-- The length of the frame that starts at an orbit of count `n` (R265): F, or one orbit more or less until the start is aligned. -/
def McChan.frameAt (x : McChan) (n : Nat) : Nat :=
  let off := n % (max 1 x.frameLen)
  if off = 0 then x.frameLen else if off * 2 ≤ x.frameLen then x.frameLen - 1 else x.frameLen + 1

/-- An alignment ordered by MCLK_SET_ORBIT whose KTIME has passed starts its slew (R264). -/
def State.orbitAlign (s : State) (c : Nat) : State :=
  let x := s.stitch.mc.get c
  match x.setAlign with
  | some (t, b) =>
    if t ≤ s.wTime then
      let q := instQ (reachTick s.time.segs.reverse t) 0
      let d := x.deltaOf (x.bunchOf (x.cycles q) - b)
      s.updMc c fun y => { y with setAlign := none, delta := d, slewLeft := d, orbitValid := y.orbitValid || decide (d = 0) }
    else s
  | none => s

/-- ORBIT_START (R261): A machine-clock channel reaches bunch 0, increments its orbit count and applies orbit slews, count replacement, frame starts and ORBIT and FRAME output pulses. -/
def execOrbitStart (chan : Nat) (s : State) : Out :=
  if 4 ≤ chan then .fault .noSuchObject
  else
    let x := s.stitch.mc.get chan
    if !x.enable || !x.tracked || x.orbitLen = 0 || decide (x.state = .acquire) then .next s
    else
      let s1 := (s.advanceTick x.orbitTick).orbitAlign chan
      let y := s1.stitch.mc.get chan
      let c := x.cycles s1.nowQ - x.orbitNow * 4294967296
      let aligned := decide (x.orbitSlew ≠ 0 ∧ y.slewLeft = 0)
      let dir := slewDir y.slewLeft
      let replaced := match x.setCount with | some (t, n) => if t ≤ s1.wTime then some n else none | none => none
      let orbit := (replaced.getD (x.orbit + 1)) % 18446744073709551616
      let frame := decide (x.frameCur ≤ x.framePos + 1)
      let s2 := s1.updMc chan fun z => { z with
        orbit := orbit, setCount := if replaced.isSome then none else z.setCount
        bunch := c / 4294967296, thetaF := (c % 4294967296).toNat, thetaAt := s1.tick
        orbitSlew := dir, slewLeft := y.slewLeft - dir, orbitValid := y.orbitValid || aligned
        markGap := z.markGap + 1
        framePos := if frame then 0 else z.framePos + 1, frameCur := if frame then z.frameAt orbit else z.frameCur }
      let s3 := { s2 with stitch := { s2.stitch with mclk := s2.stitch.mclk.mapAll fun _ o =>
        if o.chan = chan && o.running && (o.mode = 2 || (o.mode = 3 && frame)) then { o with pulses := o.pulses + 1 } else o } }
      .next (if aligned then s3.raise (mcSrc chan) Ev.orbitAligned else s3)

/-! ## MCLK outputs (R267 to R269) -/

/-- The feed-forward word of an output (R267): q_f × m ÷ (4 × d), in 2^-48. -/
def MclkOut.feedForward (o : MclkOut) (qF : Nat) : Nat := (roundDiv ((qF * o.m : Nat) : Int) (4 * o.d * 65536)).toNat

/-- The time of an output's last fitted rising edge less its target, in 2^-16 ns (R268). -/
def MclkOut.error (o : MclkOut) (x : McChan) : Int :=
  let n := o.stamps.length
  if n < 3 ∨ x.qF = 0 then o.phaseErr
  else
    let t := (fitLine o.stamps).at (n - 1)
    let q := t * 20 / 65536 - o.offset * 25
    let c := x.cycles q * o.m / o.d
    roundDiv (signedOf 32 (unsignedOf 32 c) * 4294967296 * 262144 * o.d) (5 * x.qF * o.m)

/-- Output `n` at a lane-window boundary (R267, R268): FTW is the feed-forward with a correction whose size is a free value within
the slew limit. A slew lasts while the edge lies more than 15 ps from its target. -/
def State.mclkBoundary (s : State) (n : Nat) : State :=
  let o := s.stitch.mclk.get n
  let x := s.stitch.mc.get o.chan
  if o.mode = 0 || !o.running then s.updMclk n fun y => { y with stamps := [] }
  else
    let e := o.error x
    let ff := o.feedForward x.qF
    let lim := ff * o.slewLim / 256000000000
    let (k, s1) := s.takeFree
    let ftw := ((ff : Int) + (Config.freeNat k % (2 * lim + 1) : Nat) - lim).toNat
    let far := decide (983 < e.natAbs)
    let s2 := s1.updMclk n fun y => { y with stamps := [], phaseErr := e, ftw := ftw, slewing := far }
    if o.slewing && !far then s2.raise (821 + n) Ev.mclkAligned else s2

/-- Whether the MCLK output `o` of channel `x` is high at an instant (R269): in ORBIT mode for W cycles from bunch 0 of every orbit, in FRAME mode
from the start of every frame; held low where it does not run. The level of a CLOCK output between its edges is not stated. -/
def MclkOut.high (o : MclkOut) (x : McChan) (q : Int) : Bool :=
  let v := x.place (x.cycles (q - o.offset * 25))
  let starts := decide (o.mode = 2) || decide (o.mode = 3 ∧ ((x.framePos + v.1) % x.frameCur = 0))
  o.running && starts && decide (0 ≤ v.2 ∧ v.2 < o.w)

/-! ## Commands (R271) -/

/-- Whether the source conditions of R252 hold for a channel configuration. -/
def State.mcSourceMet (s : State) (source idx : Nat) : Bool :=
  match source with
  | 0 => decide ((s.tdc.chans.get idx).edge ≠ 2 ∧ (s.tdc.groups.get (groupOf idx)).mode = 3)
  | 1 => (s.ref.slots.get idx).enable
  | _ => (s.ports.get idx).configured && (s.ports.get idx).isSelvedge

/-- Channel `x` with another enable (R255): its loop and counters are cleared when it is enabled. -/
def McChan.enableTo (x : McChan) (enable : Bool) (now : Nat) : McChan :=
  if x.enable = enable then x
  else if enable then
    { x with
      enable := true, state := .acquire, stamps := [], rawQ := 0, rawTheta := 0, rawAt := 0, qF := 0, thetaF := 0, thetaAt := 0
      lastSeen := now, goodRun := 0, coastEnd := none, valid := false, stale := false, stepSets := 0, hitPending := []
      hitting := false, tracked := false, orbit := 0, bunch := 0, orbitValid := false, delta := 0, markRun := 0, slewLeft := 0
      orbitSlew := 0, marks := [], markGap := 0, buildOut := 0, markLostRaised := false, setCount := none, setAlign := none, bcnDiff := []
      framePos := 0, frameCur := x.frameLen, bcnDone := none, nextSet := now + cyclesOf x.setInterval, selRaised := false }
  else { x with enable := false, state := .disabled, valid := false, coastEnd := none }

/-- What the own checks and effect of MCLK_CONFIGURE_CHANNEL come to (R255). -/
def bodyMclkConfigureChannel (enable : Bool) (chan source sourceIdx selector fNum fDen : Nat) (freqLim : Int) (hitLim actLim coastLim bandwidth orbitLen marker markerIdx : Nat) (markOffset : Int) (frameLen : Nat) (s : State) : Rep :=
  Rep.ranges [decide (chan < 4), decide (source < 3),
      (match source with | 0 => decide (280 ≤ sourceIdx ∧ sourceIdx < 312) | 1 => decide (sourceIdx < 8) | _ => decide (sourceIdx < 256)),
      if source = 2 then decide (selector < 4) else decide (selector = 0), decide (1 ≤ fNum ∧ fNum ≤ 400000000),
      decide (1 ≤ fDen ∧ fDen ≤ 65535), decide (25600 ≤ freqLim ∧ freqLim ≤ 2560000000), decide (66 ≤ hitLim ∧ hitLim ≤ 10 * nsU),
      decide (usU ≤ actLim ∧ actLim ≤ secU), decide (msU ≤ coastLim ∧ coastLim ≤ 3600 * secU),
      decide (1 ≤ bandwidth ∧ bandwidth ≤ 50000), decide (orbitLen = 0 ∨ (2 ≤ orbitLen ∧ orbitLen ≤ 4095)),
      decide (marker < 4 ∧ (marker = 2 → source = 2)),
      (match marker with | 0 => decide (280 ≤ markerIdx ∧ markerIdx < 312) | 1 => decide (markerIdx < 8) | _ => decide (markerIdx = 0)),
      if marker = 3 then decide (markOffset = 0) else decide (markOffset.natAbs ≤ usU), decide (1 ≤ frameLen ∧ frameLen ≤ 1048576)] <|
    let x := s.stitch.mc.get chan
    let moved := decide (x.srcKind ≠ source ∨ x.srcIdx ≠ sourceIdx ∨ x.srcSel ≠ selector)
    if x.enable && moved then Rep.badState
    else if enable && !s.mcSourceMet source sourceIdx then Rep.badState
    else
      let y := { x with
        srcKind := source, srcIdx := sourceIdx, srcSel := selector, fNum := fNum, fDen := fDen, freqLim := freqLim.toNat
        hitLim := hitLim, actLim := actLim, coastLim := coastLim, bw := bandwidth, orbitLen := orbitLen, markSrc := marker
        markIdx := markerIdx, markOffset := markOffset, frameLen := frameLen }
      .ok ((s.updMc chan fun _ => y.enableTo enable s.now).mcOutputs chan) []

/-- What the own checks and effect of MCLK_CONFIGURE_OUTPUT come to (R267). -/
def bodyMclkConfigureOutput (squelch : Bool) (output chan mode m d : Nat) (offset slewLim : Int) (w swing : Nat) (s : State) : Rep :=
  let x := s.stitch.mc.get chan
  let pulse := decide (mode = 2 ∨ mode = 3)
  Rep.ranges [decide (output < 4), decide (chan < 4), decide (mode < 4),
      (if mode = 1 then decide (1 ≤ m ∧ m ≤ 64 ∧ 1000000 * x.fDen * d ≤ x.fNum * m ∧ x.fNum * m ≤ 750000000 * x.fDen * d)
        else if pulse then decide (m = 1) else decide (m = 0)),
      (if mode = 1 then decide (1 ≤ d ∧ d ≤ 64 ∧ (x.orbitLen = 0 ∨ x.orbitLen % (max 1 d) = 0))
        else if pulse then decide (d = 1) else decide (d = 0)),
      if mode = 0 then decide (offset = 0) else decide (offset.natAbs ≤ 100 * nsU),
      if mode = 0 then decide (slewLim = 0) else decide (2560 ≤ slewLim ∧ slewLim ≤ 100000 * 256),
      if pulse then decide (1 ≤ w ∧ w ≤ 255 ∧ (x.orbitLen = 0 ∨ w + 2 ≤ x.orbitLen)) else decide (w = 0), decide (swing < 3)] <|
    if pulse && decide (x.orbitLen = 0) then Rep.badState
    else
      let s1 := s.updMclk output fun o =>
        if mode = 0 then { o with mode := 0, chan := chan, squelchFlag := squelch, swing := swing, running := false, squelched := false
                                  stamps := [], ftw := 0 }
        else { o with
          chan := chan, mode := mode, m := m, d := d, offset := offset, slewLim := slewLim.toNat, w := w, squelchFlag := squelch
          swing := swing, running := o.running && decide (o.mode = mode ∧ o.chan = chan), squelched := false, stamps := [] }
      .ok (s1.mcOutputs chan) []

/-- What the own checks and effect of MCLK_GET come to (R271). -/
def bodyMclkGet (chan : Nat) (s : State) : Rep :=
  Rep.ranges [decide (chan < 4)] <|
    let x := s.stitch.mc.get chan
    let c := x.cycles s.nowQ
    let outs := (List.range 4).flatMap fun n =>
      let o := s.stitch.mclk.get n
      if o.mode ≠ 0 ∧ o.chan = chan then [Fld.u 8 o.ftw, Fld.i 8 o.phaseErr] else []
    .ok s ([Fld.u 1 x.state.code, .u 8 x.qF, .u 4 (unsignedOf 32 c), .u 8 x.orbit, .u 2 (unsignedOf 16 (x.bunchOf c)), .i 4 x.delta,
      .i 4 (x.slewLeft + x.orbitSlew), .u 4 x.ambiguous, .u 4 x.hits] ++ outs)

/-- What the own checks and effect of MCLK_SET_ORBIT come to (R264). -/
def bodyMclkSetOrbit (given : Bool) (chan : Nat) (t : KTime) (bunch orbit : Nat) (s : State) : Rep :=
  Rep.ranges [decide (chan < 4), decide (t.ns < 1000000000 ∧ t.sub = 0 ∧ s.ktime < KTime.units t),
      decide ((s.stitch.mc.get chan).orbitLen = 0 ∨ bunch < (s.stitch.mc.get chan).orbitLen), given || decide (orbit = 0)] <|
    if (s.stitch.mc.get chan).orbitLen = 0 then Rep.badState
    else .ok (s.updMc chan fun x => { x with
      setAlign := some (KTime.units t, bunch), setCount := if given then some (KTime.units t, orbit) else x.setCount }) []

/-- MCLK_CONFIGURE_CHANNEL (R255): Configures a machine-clock channel's source, limits, orbit and marker. -/
def execMclkConfigureChannel (src : CmdSrc) (enable : Bool) (chan source sourceIdx selector fNum fDen : Nat) (freqLim : Int) (hitLim actLim coastLim bandwidth orbitLen marker markerIdx : Nat) (markOffset : Int) (frameLen : Nat) (s : State) : Out :=
  .next (s.runCmd (.mclkConfigureChannel src enable chan source sourceIdx selector fNum fDen freqLim hitLim actLim coastLim bandwidth orbitLen marker markerIdx markOffset frameLen) src 0x0901 (bodyMclkConfigureChannel enable chan source sourceIdx selector fNum fDen freqLim hitLim actLim coastLim bandwidth orbitLen marker markerIdx markOffset frameLen))

/-- MCLK_CONFIGURE_OUTPUT (R267): Configures an MCLK output's channel, mode, ratio, offset, slew and squelch. -/
def execMclkConfigureOutput (src : CmdSrc) (squelch : Bool) (output chan mode m d : Nat) (offset slewLim : Int) (w swing : Nat) (s : State) : Out :=
  .next (s.runCmd (.mclkConfigureOutput src squelch output chan mode m d offset slewLim w swing) src 0x0902 (bodyMclkConfigureOutput squelch output chan mode m d offset slewLim w swing))

/-- MCLK_GET (R271): Returns a machine-clock channel's state, frequency, phase and orbit values. -/
def execMclkGet (src : CmdSrc) (chan : Nat) (s : State) : Out :=
  .next (s.runCmd (.mclkGet src chan) src 0x0903 (bodyMclkGet chan))

/-- MCLK_SET_ORBIT (R264): Aligns a channel's bunch number and orbit count at a given KTIME. -/
def execMclkSetOrbit (src : CmdSrc) (given : Bool) (chan : Nat) (t : KTime) (bunch orbit : Nat) (s : State) : Out :=
  .next (s.runCmd (.mclkSetOrbit src given chan t bunch orbit) src 0x0904 (bodyMclkSetOrbit given chan t bunch orbit))


end Sys2Proof.Machine
end

