-- ==== Sys2Proof/Machine/Stitches.lean ====
section
/-!
DEFINITION. The stitch sequencer: the slot lattice, the class queues, broadcast sources, relays and PHASE sets (R240 to R251,
R258 to R260), and the edges and blocks that feed it.
-/
namespace Sys2Proof.Machine

/-! ## The slot lattice (R240) -/

/-- The lattice group of a selvedge port: its rate code and its slots per row (R240). -/
def State.latticeOf (s : State) (p : Nat) : Nat :=
  3 * (s.ports.get p).selvRate + (match (s.selv.get p).slots with | 4 => 2 | 2 => 1 | _ => 0)

/-- The slots per row of a lattice group. -/
def groupSlots (g : Nat) : Nat := if g % 3 = 2 then 4 else if g % 3 = 1 then 2 else 1

/-- The slot spacing S of a lattice group in 25ths of 2^-16 ns (R240). -/
def groupQ (g : Nat) : Nat := slotQ (g / 3) (groupSlots g)

/-- The block index of lattice slot `k` of a group (R240). -/
def slotBlock (g k : Nat) : Nat := k % groupSlots g * (256 / groupSlots g)

/-- The selvedge ports. -/
def State.selvPorts (s : State) : List Nat := (s.ports.filter fun q => q.2.configured && q.2.isSelvedge).map (·.1)

/-- The ports that a broadcast stitch of a target reaches: the selvedge ports in the group that are UP or BINDING, but not the one
that delivered it (R242, R248, R249). -/
def State.stitchPorts (s : State) (target : Nat) (notPort : Option Nat) : List Nat :=
  s.selvPorts.filter fun p =>
    decide (s.portState p = .up ∨ s.portState p = .binding) && decide (notPort ≠ some p) &&
    (decide (target = 0xFFF) || (s.stitch.groups.get target).getLsbD p)

/-- The lattice groups that have a port of a list. -/
def State.latticesOf (s : State) (ps : List Nat) : List Nat :=
  (List.range 6).filter fun g => ps.any fun p => decide (s.latticeOf p = g)

/-- The class of a broadcast type, in the order in which the sequencer serves the classes (R242). -/
def stitchClass (type : Nat) : Nat :=
  match type with
  | 1 => 0
  | 3 => 1
  | 2 => 2
  | 4 => 3
  | _ => 4

/-! ## The class queues (R242) -/

/-- Event source of the sequencer (R272). -/
def seqSrc : Nat := 816

/-- A stitch enters the queue of its class in lattice group `g`, or is dropped there and counted when the queue is full. -/
def State.stitchEnqueue (s : State) (q : QStitch) (g : Nat) : State :=
  let c := stitchClass q.type
  let k := 8 * g + c
  let l := s.stitch.queues.get k
  if l.length < 64 then { s with stitch := { s.stitch with queues := s.stitch.queues.set k (l ++ [q]) } }
  else
    let s1 := { s with stitch := { s.stitch with overflow := s.stitch.overflow.upd k inc32 } }
    if mayRaise (s.stitch.overflowAt.find c) s.now secC then
      ({ s1 with stitch := { s1.stitch with overflowAt := s1.stitch.overflowAt.set c s.now } }).raise seqSrc Ev.stitchOverflow [.u 2 c, .u 2 g]
    else s1

/-- A stitch reaches the queues: of every lattice group that has a target lane; with none, it is counted as GROUP_EMPTY (R242). -/
def State.stitchQueue (s : State) (q : QStitch) : State :=
  match s.latticesOf (s.stitchPorts q.target q.notPort) with
  | [] => { s with stitch := { s.stitch with groupEmpty := inc32 s.stitch.groupEmpty } }
  | l => l.foldl (fun s g => s.stitchEnqueue q g) s

/-- The stitches on the way that have reached the sequencer by TICK `t` are queued, in the order of their arrival. -/
def State.stitchArrivals (s : State) (t : Nat) : State :=
  let due := s.stitch.arriving.filter fun q => decide (q.arrive ≤ t)
  let rest := s.stitch.arriving.filter fun q => !decide (q.arrive ≤ t)
  due.foldl State.stitchQueue { s with stitch := { s.stitch with arriving := rest } }

/-- STITCH_ARRIVAL (R242): A broadcast stitch reaches the sequencer and is queued or dropped for each lattice group. -/
def execStitchArrival (s : State) : Out :=
  match s.stitch.arriving with
  | [] => .next s
  | q :: _ =>
    let s1 := s.advanceTick q.arrive
    .next (s1.stitchArrivals (max q.arrive s1.tick))

/-- The earliest of a list of instants that lies beyond `t`. -/
def nextAfter (t : Nat) (l : List Nat) : Option Nat :=
  l.foldl (fun b x => if x ≤ t then b else match b with | none => some x | some y => some (min x y)) none

/-- STITCH_READY (R242): A queued broadcast stitch becomes ready 64 CORE cycles after arrival and competes for slots. -/
def execStitchReady (s : State) : Out :=
  let l := s.stitch.queues.flatMap fun q => q.2.map (·.ready)
  match nextAfter s.tick l with
  | none => .next s
  | some t => .next (s.advanceTick t)

/-! ## Placement (R241, R242, R246, R259) -/

/-- The broadcast stitches that port `p` sends in slots `lo` to `hi`, sent or reserved. -/
def State.laneLoad (s : State) (p lo hi : Nat) : Nat :=
  (s.stitch.history.filter fun h => decide (h.1 = p ∧ lo ≤ h.2 ∧ h.2 ≤ hi)).length +
  (s.stitch.reserved.filter fun r => decide (r.port = p ∧ lo ≤ r.slot ∧ r.slot ≤ hi)).length

/-- Port `p` can take `n` broadcast stitches in consecutive slots from `k` on: each slot unclaimed, and no 16 consecutive slots
with more than 8 (R241). -/
def State.laneFree (s : State) (p k n : Nat) : Bool :=
  decide (s.laneLoad p k (k + n - 1) = 0) &&
  (List.range (n + 15)).all fun i =>
    let hi := k + i
    let lo := hi - 15
    let own := min (hi + 1) (k + n) - max lo k
    decide (s.laneLoad p lo hi + own ≤ 8)

/-- Bits [63:8] of word `w` go out on port `p` in slot `k`, counted by type. -/
def State.sendWord (s : State) (p k w : Nat) : State :=
  let g := s.latticeOf p
  let s1 := { s with stitch := { s.stitch with sent := { port := p, slot := k, word := stitchWord w (slotBlock g k) } :: s.stitch.sent } }
  s1.updSt p fun x => { x with txCounts := x.txCounts.upd (w / 2 ^ 52) inc32 }

/-- The anchor of a stitch that port `p` sends in slot `k` (R243, R259): the endpoint's pin instant, or without compensation that of the
device's own pin. The flag says that the anchor is not that of the present downlink delay. -/
def State.anchor (s : State) (p k : Nat) : Int × Bool :=
  let x := s.selv.get p
  let pin : Int := (k * groupQ (s.latticeOf p) : Nat) + s.latTxQ p
  if !(s.stitch.ports.get p).compensate then (pin, true)
  else if x.linkStale then (pin + x.down * 25, true)
  else (pin + s.dDown p * 25, false)

/-- The four words of a PHASE set of channel `c` with its anchor on port `p` (R258). -/
def State.phaseWords (s : State) (c target step : Nat) (p k : Nat) : List Nat :=
  let x := s.stitch.mc.get c
  let a := s.anchor p k
  let n := x.cycles a.1
  let status := flag x.valid (2 ^ 35) + flag (decide (x.state = .coast)) (2 ^ 34) + flag x.stale (2 ^ 33) + flag a.2 (2 ^ 32)
    + step * 2 ^ 31 + flag x.orbitValid (2 ^ 30) + unsignedOf 12 (x.bunchOf n)
  let word (i v : Nat) : Nat := stitchBits 4 target ((4 * c + i) * 2 ^ 36 + v)
  [word 0 status, word 1 (x.qF / 2 ^ 32 % 2 ^ 32), word 2 (x.qF % 2 ^ 32), word 3 (unsignedOf 32 n)]

/-- The words that a stitch puts on port `p` from slot `k` on. -/
def State.stitchWords (s : State) (q : QStitch) (p k : Nat) : List Nat :=
  if q.type = 4 then s.phaseWords q.chan q.target q.payload p k
  else if q.type = 2 then
    let x := s.stitch.mc.get q.chan
    let v := x.place (x.cycles (s.anchor p k).1)
    [stitchBits 2 q.target (unsignedOf 28 (x.orbit + v.1) * 2 ^ 12 + unsignedOf 12 v.2)]
  else [stitchBits q.type q.target q.payload]

/-- A waiting STITCH_SEND learns that its stitch was placed in group `g` at a slot instant, and completes once every group has placed it
(R244). -/
def State.sendPlaced (s : State) (wait : Option Nat) (g tick sub : Nat) : State :=
  match s.stitch.sendWait.find? fun w => decide (some w.id = wait) with
  | none => s
  | some w =>
    let y : SendWait := { w with left := w.left.filter (· ≠ g), slots := w.slots.set g (tick, sub) }
    let others := s.stitch.sendWait.filter fun v => decide (v.id ≠ w.id)
    if y.left.isEmpty then
      let res := (List.range 6).flatMap fun i => match y.slots.find i with
        | some v => [Fld.u 8 v.1, Fld.i 8 v.2]
        | none => [Fld.u 8 0, Fld.i 8 0]
      ({ s with stitch := { s.stitch with sendWait := others } }).finish w.src 0x0909 (s.okStatus w.src 0x0909) 0 res
    else ({ s with stitch := { s.stitch with sendWait := y :: others } }).markStarted w.src true

/-- A TIMED stitch that has no copy left to place is no longer pending. -/
def State.timedEnd (s : State) (h : Nat) : State :=
  if s.stitch.queues.any fun q => q.2.any fun x => decide (x.handle = some h) then s
  else { s with stitch := { s.stitch with timed := s.stitch.timed.filter fun x => decide (x.handle ≠ h) } }

/-- Execute time of a queued TIMED stitch: that of its handle, or for a relayed one the KTIME nearest to now whose low 32 bits it
carries (R246, R248). -/
def State.timedE (s : State) (q : QStitch) : Int :=
  match q.handle with
  | some h => match s.stitch.timed.find? fun x => decide (x.handle = h) with
    | some x => x.e
    | none => 0
  | none =>
    let n := s.ktime / (nsU : Int)
    (n + signedOf 32 (unsignedOf 32 (q.payload - n))) * nsU

/-- Whether slot `k` of group `g` is too late for a TIMED stitch that targets `ps` (R246). -/
def State.timedLate (s : State) (q : QStitch) (ps : List Nat) (g k : Nat) : Bool :=
  let far := ps.foldl (fun m p => max m (s.txLatency p p + s.dDown p)) 0
  decide (s.timedE q - usU - far < s.kOfQ (k * groupQ g : Nat))

/-- One more lattice slot at which a stitch was placed, on the lanes `ps`. -/
def State.placeStitch (s : State) (q : QStitch) (ps : List Nat) (k : Nat) : State :=
  ps.foldl (fun s p =>
    match s.stitchWords q p k with
    | [] => s
    | w :: ws =>
      let s1 := s.sendWord p k w
      { s1 with stitch := { s1.stitch with
        history := (p, k) :: s1.stitch.history
        reserved := s1.stitch.reserved ++ ((List.range ws.length).zip ws).map fun v => { port := p, slot := k + 1 + v.1, word := v.2 } } }) s

/-- The fate of one queued stitch at slot `k` of group `g`, whose instant is TICK `tick` and fraction `sub`: it stays queued
(`true`), or it is placed or dropped. `said` holds for a later copy of a TIMED stitch served before it at the same slot. -/
def State.serveStitch (s : State) (q : QStitch) (g k tick sub : Nat) (said : Bool) : State × Bool :=
  let ps := (s.stitchPorts q.target q.notPort).filter fun p => decide (s.latticeOf p = g)
  let n := if q.type = 4 then 4 else 1
  if k * groupQ g < instQ q.ready q.readySub then (s, true)
  else if q.type = 3 && s.timedLate q ps g k then
    let s1 := { s with stitch := { s.stitch with timedLate := inc32 s.stitch.timedLate } }
    (if said then s1 else s1.raise seqSrc Ev.timedLate [.u 4 (q.handle.getD 0)], false)
  else if ps.isEmpty then
    (({ s with stitch := { s.stitch with groupEmpty := inc32 s.stitch.groupEmpty } }).sendPlaced q.wait g 0 0, false)
  else if ps.all fun p => s.laneFree p k n then
    let s1 := s.placeStitch q ps k
    let s2 : State := match q.handle with
      | some h => { s1 with stitch := { s1.stitch with
          timed := s1.stitch.timed.map fun (x : Pending) => if x.handle = h then { x with placed := true } else x } }
      | none => s1
    (s2.sendPlaced q.wait g tick sub, false)
  else (s, true)

/-- It serves one Stitch of a class queue: with what stays queued, and the handles seen so far. -/
def State.serveOne (g k tick sub : Nat) (a : State × List QStitch × List Nat) (q : QStitch) : State × List QStitch × List Nat :=
  let v := a.1.serveStitch q g k tick sub (q.handle.any a.2.2.contains)
  (v.1, if v.2 then a.2.1 ++ [q] else a.2.1, q.handle.toList ++ a.2.2)

/-- The sequencer serves one class queue of group `g` at slot `k`, in arrival order. -/
def State.serveQueue (s : State) (g k tick sub c : Nat) : State :=
  let key := 8 * g + c
  let l := s.stitch.queues.get key
  let r := l.foldl (State.serveOne g k tick sub) (s, [], [])
  let s1 := { r.1 with stitch := { r.1.stitch with queues := r.1.stitch.queues.set key r.2.1 } }
  (l.filterMap (·.handle)).foldl State.timedEnd s1

/-- The words that earlier PHASE sets reserved in slot `k` go out, on the ports that still send broadcast stitches (R82). -/
def State.sendReserved (s : State) (g k : Nat) : State :=
  let due := s.stitch.reserved.filter fun r => decide (r.slot = k ∧ s.latticeOf r.port = g)
  let rest := s.stitch.reserved.filter fun r => !decide (r.slot = k ∧ s.latticeOf r.port = g)
  (due.filter fun r => decide (s.portState r.port = .up ∨ s.portState r.port = .binding)).foldl (fun s r =>
    let s1 := s.sendWord r.port k r.word
    { s1 with stitch := { s1.stitch with history := (r.port, k) :: s1.stitch.history } })
    { s with stitch := { s.stitch with reserved := rest } }

/-- The lanes of group `g` whose transmitter sends rows and that no broadcast stitch uses in slot `k` send a link-scope stitch
(R82, R241). -/
def State.fillSlot (s : State) (g k : Nat) : State :=
  (s.selvPorts.filter fun p => decide (s.latticeOf p = g)).foldl (fun s p =>
    let st := s.portState p
    if (st.ranges || decide (st = .fault ∨ st = .held)) && decide (s.laneLoad p k k = 0) then
      let r := s.linkSlot p k
      r.1.sendWord p k r.2
    else s) s

/-- STITCH_SLOT (R241): At a lattice slot the sequencer places ready broadcast stitches and fills free slots with link-scope stitches. -/
def execStitchSlot (group : Nat) (s : State) : Out :=
  if 6 ≤ group then .fault .noSuchObject
  else if !s.time.tickOn then .next s
  else
    let sq := groupQ group
    let k := max (s.stitch.nextSlot.get group) (ceilDiv (instQ s.tick 0) sq)
    let at_ := k * sq
    let tick := at_ / cycleQ
    let sub := at_ % cycleQ / 20
    let s1 := (s.advanceTick tick).stitchArrivals tick
    let s2 := (s1.sendReserved group k)
    let s3 := [0, 1, 2, 3, 4].foldl (fun s c => s.serveQueue group k tick sub c) s2
    let s4 := s3.fillSlot group k
    .next { s4 with stitch := { s4.stitch with
      nextSlot := s4.stitch.nextSlot.set group (k + 1)
      history := s4.stitch.history.filter fun h => !decide (s4.latticeOf h.1 = group) || decide (k < h.2 + 32) } }

/-! ## Timed stitches (R246, R247) -/

/-- A pending TIMED stitch becomes ready: its copies enter the TIMED class (R246). -/
def State.timedReady (s : State) (x : Pending) : State :=
  let ns := x.e / (nsU : Int)
  let q : QStitch := { type := 3, target := x.target, payload := x.code * 2 ^ 32 + unsignedOf 32 ns, ready := s.tick
                       arrive := s.tick, handle := some x.handle }
  let l := s.stitch.timed.map fun (y : Pending) => if y.handle = x.handle then { y with queued := true } else y
  let s1 : State := { s with stitch := { s.stitch with timed := l } }
  ((List.range x.copies).foldl (fun (s : State) _ => s.stitchQueue q) s1).timedEnd x.handle

/-- The pending TIMED stitch that becomes ready first. -/
def firstTimed (l : List Pending) : Option Pending :=
  l.foldl (fun b x => if x.queued then b else match b with
    | none => some x
    | some y => if x.e - x.lead < y.e - y.lead then some x else some y) none

/-- TIMED_STITCH_READY (R246): A pending TIMED stitch becomes ready at E minus its lead when W reaches that instant. -/
def execTimedStitchReady (s : State) : Out :=
  match firstTimed s.stitch.timed with
  | none => .next s
  | some x => .next ((s.advanceTick (s.fireTick (x.e - x.lead))).timedReady x)

/-! ## PHASE sets and BCNs (R259, R266) -/

/-- PHASE_SET_ISSUE (R259): At each set interval the device issues one PHASE set per enabled channel. -/
def execPhaseSetIssue (chan : Nat) (s : State) : Out :=
  if 4 ≤ chan then .fault .noSuchObject
  else
    let x := s.stitch.mc.get chan
    if !x.enable || x.setInterval = 0 then .next s
    else
      let s1 := s.advance x.nextSet
      let step := if x.stepSets = 0 then 0 else 1
      let s2 := s1.updMc chan fun y => { y with
        nextSet := max y.nextSet s1.now + cyclesOf y.setInterval, stepSets := y.stepSets - 1 }
      .next (s2.stitchQueue { type := 4, target := x.phaseTarget, payload := step, chan := chan, arrive := s1.tick, ready := s1.tick + 64 })

/-- BCN_ISSUE (R266): At the start of every BCN interval of orbits the device issues a BCN stitch. -/
def execBcnIssue (chan : Nat) (s : State) : Out :=
  if 4 ≤ chan then .fault .noSuchObject
  else
    let x := s.stitch.mc.get chan
    if !x.enable || !x.tracked || x.orbitLen = 0 || x.bcnInterval = 0 || x.orbit % x.bcnInterval ≠ 0 || x.bcnDone = some x.orbit then
      .next s
    else
      .next ((s.updMc chan fun y => { y with bcnDone := some x.orbit }).stitchQueue
        { type := 2, target := x.bcnTarget, chan := chan, arrive := s.tick, ready := s.tick })

/-! ## Received stitches (R77, R248, R253, R260, R264) -/

/-- A received BCN gives a channel with source UPLINK an orbit count: three in a row that differ replace the local one (R264). -/
def McChan.bcnCount (x : McChan) (v : Nat) : McChan :=
  if x.orbit % 2 ^ 28 = v then { x with bcnDiff := [] }
  else if x.bcnDiff.length < 2 then { x with bcnDiff := x.bcnDiff ++ [v] }
  else
    let d := signedOf 28 (unsignedOf 28 ((v : Int) - x.orbit))
    { x with bcnDiff := [], orbit := unsignedOf 64 (x.orbit + d) }

/-- A BCN received on port `p` reaches the channels with that source (R264). -/
def State.bcnReceived (s : State) (p v : Nat) : State :=
  (List.range 4).foldl (fun s c =>
    let x := s.stitch.mc.get c
    if x.enable && decide (x.srcKind = 2 ∧ x.srcIdx = p) then s.updMc c fun y => y.bcnCount v else s) s

/-- A complete PHASE set received on port `p` gives one sample to each channel with that source, and its bunch number one marker
(R253, R254, R262). -/
def State.phaseSet (s : State) (p sel : Nat) (words : List Nat) (anchor : Int) : State :=
  let st := words.getD 0 0
  let qUp : Nat := words.getD 1 0 % 4294967296 * 4294967296 + words.getD 2 0 % 4294967296
  let q : Int := (qUp : Int) + roundDiv ((qUp : Int) * (s.tdc.chans.get p).yOff) 256000000000
  if !st.testBit 35 then s
  else (List.range 4).foldl (fun s c =>
    let x := s.stitch.mc.get c
    if x.enable && decide (x.srcKind = 2 ∧ x.srcIdx = p ∧ x.srcSel = sel) then
      let s1 := (s.updMc c fun y => { y with lastSeen := s.now }).mcSample c q.toNat (words.getD 3 0 % 2 ^ 32) anchor
        (s.tdc.chans.get p).staleWin
      let y := s1.stitch.mc.get c
      if y.markSrc = 2 && y.tracked && decide (y.orbitLen ≠ 0) then
        s1.markerDelta c (y.deltaOf (y.bunchOf (y.cycles anchor) - (st % 4096 : Nat)))
      else s1
    else s) s

/-- A PHASE word received on port `p` at a pin instant joins the set in progress, if it is the next of its channel in the next slot
(R260). -/
def State.phaseWord (s : State) (p payload : Nat) (at_ : Nat) : State :=
  let sel := payload / 2 ^ 36
  let v := payload % 2 ^ 36
  let x := s.stitch.ports.get p
  let n := x.mcSet.length
  let spacing := s.rxRowQ p / max 1 (s.selv.get p).slots
  let steps := roundDiv ((at_ : Int) - x.mcSetAt) spacing
  let c := match x.mcSet with | [] => 0 | w :: _ => w.1 / 4
  if sel % 4 = 0 then s.updSt p fun y => { y with mcSet := [(sel, v)], mcSetAt := at_ }
  else if decide (1 ≤ n) && decide (sel = 4 * c + n) && decide (steps = n) then
    let l := x.mcSet ++ [(sel, v)]
    if l.length = 4 then (s.updSt p fun y => { y with mcSet := [] }).phaseSet p c (l.map (·.2)) (x.mcSetAt + s.coastShift p)
    else s.updSt p fun y => { y with mcSet := l }
  else s.updSt p fun y => { y with mcSet := [] }

/-- The relay target of a type on port `p` (R248). -/
def StPort.relay (x : StPort) (type : Nat) : Option Nat :=
  match type with
  | 1 => x.relayTrig
  | 3 => x.relayTimed
  | 12 => x.relayUser
  | _ => none

/-- An accepted broadcast stitch is handled by its type (R248): logged with RX_LOG, relayed, or fed to the machine-clock channels. -/
def State.broadcastRx (s : State) (p w tick sub at_ : Nat) : State :=
  let type := w / 2 ^ 52
  let payload := w % 2 ^ 40
  let x := s.stitch.ports.get p
  let s1 := if x.rxLog && (s.events.routes.get (portSrc p)).log then
      s.logOnly (portSrc p) Ev.stitchRx [.u 8 w]
    else s
  match type with
  | 4 => s1.phaseWord p payload at_
  | 2 => s1.bcnReceived p (payload / 4096)
  | _ =>
    match x.relay type with
    | none => s1
    | some g =>
      let seen := s1.stitch.relayed.filter fun r => decide (s1.now < r.2.2 + 64 * usC)
      if seen.any (fun r => decide (r.1 = type ∧ r.2.1 = payload)) then s1.updSt p fun y => { y with relayDup := inc32 y.relayDup }
      else
        ({ s1 with stitch := { s1.stitch with relayed := (type, payload, s1.now) :: seen } }).stitchSend
          { type := type, target := g, payload := payload, notPort := some p, arrive := tick + 32, ready := tick + 96, readySub := sub }

/-- Whether the receiver of a selvedge port takes rows (R44, R82): from CASTING to the end of BINDING, and in FAULT once its hold-down is over. -/
def State.hearsRows (s : State) (p : Nat) : Bool :=
  (s.ports.get p).configured && (s.ports.get p).isSelvedge &&
    ((s.portState p).ranges || (decide (s.portState p = .fault) && (s.ports.get p).holdTimer.isNone))

/-- STITCH_BLOCK_RX (R77): A block at a stitch slot position is received, tested for row lock, removed and, if accepted, acted on by its type. -/
def execStitchBlockRx (port index : Nat) (ctl : Bool) (word tick sub : Nat) (s : State) : Out :=
  if 256 ≤ port ∨ !([0, 64, 128, 192].contains index) then .fault .noSuchObject
  else
    let s1 := s.advanceTick tick
    let x := s1.selv.get port
    if !s1.hearsRows port then .next s1
    else
      let r := x.rowTest index ctl word
      let slot := decide (x.rowState = .locked) && (slotPositions x.slots).contains index
      let fail := if slot then stitchFails ctl index word else 0
      let s2 := s1.updSelv port fun _ => r.1
      let s3 := if fail = 0 then s2 else s2.stitchError port fail
      let drop (s : State) : State := State.disqualify s1 (s.portLoss port Ev.lockLoss)
      match r.2 with
      | .loss => .next (drop s3)
      | .density => .next (drop (s3.raise (portSrc port) Ev.densityMismatch))
      | .none =>
        if !slot then .next s3
        else
          let s3 := if index = 0 then s3.updSelv port fun y => { y with rxRow := (y.rxRow + 1) % 2 ^ 40 } else s3
          if fail ≠ 0 then .next s3
          else
            let w := word / 256
            let type := w / 2 ^ 52
            let at_ := instQ tick sub
            let s4 := s3.updSt port fun y => { y with rxCounts := y.rxCounts.upd type inc32 }
            if linkScope type then
              let rowStart : Int := (at_ : Int) - (index * (s4.rxRowQ port / 256) : Nat)
              .next (s4.linkStitch port type (w % 2 ^ 40) rowStart)
            else .next (s4.broadcastRx port w tick sub at_)

/-! ## Edges (R98, R152, R245, R252) -/

/-- A captured edge goes on to the triggers and the channels that follow it. -/
def edgeOut (ch : Nat) (r : State × Option Stamp) : Out :=
  match r.2 with
  | none => .next r.1
  | some v => .next (r.1.stampOut ch v)

/-- EVT_EDGE (R98): An edge at an event input is blanked, prescaled, gated and stamped into the channel's FIFO and engines. -/
def execEvtEdge (ch tick phase fine : Nat) (falling : Bool) (s : State) : Out :=
  let s1 := s.advanceTick tick
  if 280 ≤ ch ∧ ch < 312 then edgeOut ch (s1.eventEdge ch tick (phase % 16) (fine % 32) falling)
  else if ch = 316 ∨ ch = 318 ∨ ch = 319 then edgeOut ch (s1.plainEdge ch tick (phase % 16) (fine % 32) falling)
  else .fault .noSuchObject

/-- REF_EDGE (R152): A reference or PPS input edge is filtered, range-checked and stamped. -/
def execRefEdge (ch tick phase fine width : Nat) (s : State) : Out :=
  let s1 := s.advanceTick tick
  if (264 ≤ ch ∧ ch < 274) ∨ ch = 278 then
    let r := s1.refEdge ch tick (phase % 16) (fine % 32) width
    match r.2 with
    | some v => .next (r.1.feedClocks ch v)
    | none => .next r.1
  else if (274 ≤ ch ∧ ch < 278) ∨ ch = 279 then
    let r := s1.plainEdge ch tick (phase % 16) (fine % 32) false
    match r.2 with
    | none => .next r.1
    | some v =>
      if ch = 279 then .next { r.1 with ref := { r.1.ref with xoStamps := r.1.ref.xoStamps ++ [v] } }
      else .next (r.1.updMclk (ch - 274) fun o => { o with stamps := o.stamps ++ [v] })
  else .fault .noSuchObject

/-! ## Commands (R271) -/

/-- What the own checks and effect of STITCH_CONFIGURE_GROUP come to (R249). -/
def bodyStitchConfigureGroup (group action : Nat) (mask : BitVec 256) (port : Nat) (s : State) : Rep :=
  Rep.ranges [decide (group ≤ 0xFFE), decide (action < 3), action = 0 || decide (mask = 0),
      if action = 0 then decide (port = 0) else decide (port < 256)] <|
    let old := s.stitch.groups.get group
    let bit : BitVec 256 := BitVec.ofNat 256 (2 ^ port)
    let new := match action with | 0 => mask | 1 => old ||| bit | _ => old &&& ~~~bit
    .ok { s with stitch := { s.stitch with groups := s.stitch.groups.set group new } } []

/-- What the own checks and effect of STITCH_CONFIGURE_TRIGGER come to (R245). -/
def bodyStitchConfigureTrigger (enable seqReset : Bool) (source channel kind target spacing seq : Nat) (s : State) : Rep :=
  Rep.ranges [decide (source < 8), decide (280 ≤ channel ∧ channel < 312), decide (kind < 256), decide (target < 0x1000),
      decide (spacing ≤ 1000000 * nsU), seqReset || decide (seq = 0)] <|
    if (s.tdc.chans.get channel).edge = 2 then Rep.badState
    else
      let x := s.stitch.trigs.get source
      let y := { x with
        enable := enable, channel := channel, kind := kind, target := target, spacing := spacing
        seq := if seqReset then BitVec.ofNat 32 seq else x.seq, last := if x.enable && x.channel = channel then x.last else none }
      .ok { s with stitch := { s.stitch with trigs := s.stitch.trigs.set source y } } []

/-- What the own checks and effect of STITCH_CONFIGURE_BROADCAST come to (R259). -/
def bodyStitchConfigureBroadcast (chan phaseTarget setInterval bcnTarget bcnInterval : Nat) (s : State) : Rep :=
  Rep.ranges [decide (chan < 4), decide (phaseTarget < 0x1000),
      decide (setInterval = 0 ∨ (10 * usU ≤ setInterval ∧ setInterval ≤ 100 * msU)), decide (bcnTarget < 0x1000),
      decide (bcnInterval ≤ 65536)] <|
    if bcnInterval ≠ 0 ∧ (s.stitch.mc.get chan).orbitLen = 0 then Rep.badState
    else .ok (s.updMc chan fun x => { x with
      phaseTarget := phaseTarget, setInterval := setInterval, bcnTarget := bcnTarget, bcnInterval := bcnInterval
      nextSet := if x.setInterval = setInterval then x.nextSet else s.now + cyclesOf setInterval }) []

/-- A relay target parameter: a group, or 0x1000 for none. -/
def relayTarget (v : Nat) : Option Nat := if v = 0x1000 then none else some v

/-- What the own checks and effect of STITCH_CONFIGURE_PORT come to (R248). -/
def bodyStitchConfigurePort (compensate rxLog : Bool) (port relayTrig relayTimed relayUser errThr : Nat) (s : State) : Rep :=
  Rep.ranges [decide (port < 256), decide (relayTrig ≤ 0x1000), decide (relayTimed ≤ 0x1000), decide (relayUser ≤ 0x1000),
      decide (1 ≤ errThr ∧ errThr ≤ 65535)] <|
    if !(s.ports.get port).configured || !(s.ports.get port).isSelvedge then Rep.badState
    else .ok (s.updSt port fun x => { x with
      compensate := compensate, rxLog := rxLog, relayTrig := relayTarget relayTrig, relayTimed := relayTarget relayTimed
      relayUser := relayTarget relayUser, errThr := errThr }) []

/-- What the own checks and effect of STITCH_SEND come to (R244): it completes when the stitch is placed in every lattice group that
has a target lane. -/
def bodyStitchSend (src : CmdSrc) (type target payload : Nat) (s : State) : Rep :=
  Rep.ranges [decide (type < 2), decide (target < 0x1000), decide (payload < 2 ^ 40)] <|
    let ty := if type = 0 then 1 else 12
    let gs := s.latticesOf (s.stitchPorts target none)
    if gs.any fun g => decide (64 ≤ (s.stitch.queues.get (8 * g + stitchClass ty)).length) then .fail stBusy []
    else
      let id := s.stitch.nextSeq
      let q : QStitch := { type := ty, target := target, payload := payload, arrive := s.tick, ready := s.tick + 64, wait := some id }
      let s1 := s.stitchQueue q
      if gs.isEmpty then .ok s1 ((List.range 6).flatMap fun _ => [Fld.u 8 0, Fld.i 8 0])
      else
        let w : SendWait := { id := id, src := src, left := gs }
        .later { s1 with stitch := { s1.stitch with sendWait := s1.stitch.sendWait ++ [w], nextSeq := id + 1 } } false

/-- STITCH_SEND (R244): Sends a TRIGGER or USER stitch and completes when it is placed. -/
def execStitchSend (src : CmdSrc) (type target payload : Nat) (s : State) : Out :=
  .next (s.runCmd (.stitchSend src type target payload) src 0x0909 (bodyStitchSend src type target payload))


/-- What the own checks and effect of STITCH_SEND_TIMED come to (R246). -/
def bodyStitchSendTimed (target code : Nat) (e : KTime) (lead r : Nat) (s : State) : Rep :=
  Rep.ranges [decide (target < 0x1000), decide (code < 0xF0),
      decide (e.ns < 1000000000 ∧ e.sub = 0 ∧ s.ktime + 20 * usU ≤ KTime.units e), decide (10 * usU ≤ lead ∧ lead ≤ 2 * secU),
      decide (1 ≤ r ∧ r ≤ 4)] <|
    if 256 ≤ s.stitch.timed.length then .fail stBusy []
    else
      let h := s.stitch.nextHandle
      let x : Pending := { handle := h.toNat, target := target, code := code, e := KTime.units e, lead := lead, copies := r }
      let s1 := { s with stitch := { s.stitch with timed := s.stitch.timed ++ [x], nextHandle := h + 1 } }
      .ok (if x.e - lead ≤ s.wTime then s1.timedReady x else s1) [.u 4 h.toNat]

/-- What the own checks and effect of STITCH_CANCEL_TIMED come to (R247). -/
def bodyStitchCancelTimed (handle : Nat) (s : State) : Rep :=
  match s.stitch.timed.find? fun x => decide (x.handle = handle) with
  | none => Rep.badState
  | some x =>
    let s1 := { s with stitch := { s.stitch with
      timed := s.stitch.timed.filter fun y => decide (y.handle ≠ handle)
      queues := s.stitch.queues.mapAll fun _ q => q.filter fun y => decide (y.handle ≠ some handle) } }
    if x.placed then .done s1 stBadState [] else .ok s1 []

/-- What the own checks and effect of STITCH_GET_PORT come to (R271). -/
def bodyStitchGetPort (clear : Bool) (port : Nat) (s : State) : Rep :=
  Rep.ranges [decide (port < 256)] <|
    if !(s.ports.get port).configured || !(s.ports.get port).isSelvedge then Rep.badState
    else
      let x := s.stitch.ports.get port
      let g := s.latticeOf port
      let tx := s.txLatency port port
      let s1 := if clear then s.updSt port fun y => { y with txCounts := [], rxCounts := [], relayDup := 0, errEvents := 0 } else s
      .ok s1 ([Fld.u 2 g, .i 8 (spanU (groupQ g)), .i 8 tx, .i 8 (s.dDown port), .i 8 (tx + s.dDown port),
        .u 1 (flag (s.selv.get port).linkStale 1)] ++ (List.range 13).map (fun t => Fld.u 4 (x.txCounts.get t)) ++
        (List.range 13).map (fun t => Fld.u 4 (x.rxCounts.get t)) ++ [.u 4 x.relayDup, .u 4 x.errEvents])

/-- The keys of the class queues: five classes of six lattice groups. -/
def queueKeys : List Nat := (List.range 6).flatMap fun g => (List.range 5).map (8 * g + ·)

/-- What the own checks and effect of STITCH_GET_SEQUENCER come to (R271). -/
def bodyStitchGetSequencer (clear : Bool) (s : State) : Rep :=
  let x := s.stitch
  let s1 := if clear then { s with stitch := { x with overflow := [], groupEmpty := 0, timedLate := 0, trigSpacing := 0 } } else s
  .ok s1 (queueKeys.map (fun k => Fld.u 2 (x.queues.get k).length) ++ queueKeys.map (fun k => Fld.u 4 (x.overflow.get k)) ++
    [.u 4 x.groupEmpty, .u 4 x.timedLate, .u 4 x.trigSpacing, .u 2 x.timed.length] ++
    (List.range 8).map fun n => Fld.u 4 (x.trigs.get n).seq.toNat)

/-- STITCH_CONFIGURE_GROUP (R249): Sets or changes the port membership of a target group. -/
def execStitchConfigureGroup (src : CmdSrc) (group action : Nat) (mask : BitVec 256) (port : Nat) (s : State) : Out :=
  .next (s.runCmd (.stitchConfigureGroup src group action mask port) src 0x0905 (bodyStitchConfigureGroup group action mask port))

/-- STITCH_CONFIGURE_TRIGGER (R245): Configures a trigger source's channel, kind, target, spacing and sequence. -/
def execStitchConfigureTrigger (src : CmdSrc) (enable seqReset : Bool) (source channel kind target spacing seq : Nat) (s : State) : Out :=
  .next (s.runCmd (.stitchConfigureTrigger src enable seqReset source channel kind target spacing seq) src 0x0906 (bodyStitchConfigureTrigger enable seqReset source channel kind target spacing seq))

/-- STITCH_CONFIGURE_BROADCAST (R259): Sets a channel's PHASE and BCN targets and intervals. -/
def execStitchConfigureBroadcast (src : CmdSrc) (chan phaseTarget setInterval bcnTarget bcnInterval : Nat) (s : State) : Out :=
  .next (s.runCmd (.stitchConfigureBroadcast src chan phaseTarget setInterval bcnTarget bcnInterval) src 0x0907 (bodyStitchConfigureBroadcast chan phaseTarget setInterval bcnTarget bcnInterval))

/-- STITCH_CONFIGURE_PORT (R248): Sets a selvedge port's compensation, relay targets, RX_LOG and error threshold. -/
def execStitchConfigurePort (src : CmdSrc) (compensate rxLog : Bool) (port relayTrig relayTimed relayUser errThr : Nat) (s : State) : Out :=
  .next (s.runCmd (.stitchConfigurePort src compensate rxLog port relayTrig relayTimed relayUser errThr) src 0x0908 (bodyStitchConfigurePort compensate rxLog port relayTrig relayTimed relayUser errThr))

/-- STITCH_SEND_TIMED (R246): Registers a pending TIMED stitch with its execute time, lead and repeats. -/
def execStitchSendTimed (src : CmdSrc) (target code : Nat) (e : KTime) (lead r : Nat) (s : State) : Out :=
  .next (s.runCmd (.stitchSendTimed src target code e lead r) src 0x090A (bodyStitchSendTimed target code e lead r))

/-- STITCH_CANCEL_TIMED (R247): Cancels a pending TIMED stitch, racing the placement of its first copy. -/
def execStitchCancelTimed (src : CmdSrc) (handle : Nat) (s : State) : Out :=
  .next (s.runCmd (.stitchCancelTimed src handle) src 0x090B (bodyStitchCancelTimed handle))

/-- STITCH_GET_PORT (R271): Returns a selvedge port's lattice, latency terms and stitch counts. -/
def execStitchGetPort (src : CmdSrc) (clear : Bool) (port : Nat) (s : State) : Out :=
  .next (s.runCmd (.stitchGetPort src clear port) src 0x090C (bodyStitchGetPort clear port))

/-- STITCH_GET_SEQUENCER (R271): Returns the sequencer's queue fills, overflow and drop counts. -/
def execStitchGetSequencer (src : CmdSrc) (clear : Bool) (s : State) : Out :=
  .next (s.runCmd (.stitchGetSequencer src clear) src 0x090D (bodyStitchGetSequencer clear))


end Sys2Proof.Machine
end

