-- ==== Sys2Proof/Machine/Ptp.lean ====
section
/-!
DEFINITION. The PTP instances: messages received and sent, the best-master algorithm, delays and offsets, loss of a master
(R213 to R226, R230), the servo's choice of source (R227), and the commands of R238.
-/
namespace Sys2Proof.Machine

/-! ## Instances and ports -/

/-- The event source of instance `n` (R239). -/
def instSrc (n : Nat) : Nat := 811 + n

/-- The virtual reference slot of instance `n` (R215). -/
def virtSlot (n : Nat) : Nat := 24 + n

/-- The ports of instance `n`. -/
def State.instPorts (s : State) (n : Nat) : List Nat :=
  (List.range 256).filter fun p => decide ((s.ptp.ports.get p).inst = n)

/-- The running instance of port `p` (R215). -/
def State.instOf (s : State) (p : Nat) : Option Nat :=
  let n := (s.ptp.ports.get p).inst
  if decide (n < 4) && (s.ptp.insts.get n).enable then some n else none

/-- The portNumber of port `p` in its instance's clock. -/
def portNumberOf (p : Nat) : Nat := p + 1

/-- Codes of PTP port states in results and in PORT_STATE. -/
def PtpState.code : PtpState → Nat
  | .initializing => 1 | .faulty => 2 | .disabled => 3 | .listening => 4 | .preMaster => 5 | .master => 6 | .passive => 7
  | .uncalibrated => 8 | .slave => 9

/-- The peer-to-peer delay mechanism (R213). -/
def PtpInst.p2p (x : PtpInst) : Bool := decide (x.profile = 1)

/-- An interval of 2^`l` seconds in CORE cycles (R216). -/
def logCycles (l : Int) : Nat := if 0 ≤ l then secC * 2 ^ l.toNat else secC / 2 ^ (-l).toNat

/-- Messages per second of an interval of 2^`l` seconds, times 32. -/
def rate32 (l : Int) : Nat := 2 ^ (5 - l).toNat

/-- A count of port `p` grows (R225). -/
def State.ptpCount (s : State) (p k : Nat) : State := s.updPtp p fun x => { x with counts := x.counts.upd k inc32 }

/-- Port `p` enters a PTP port state; a change raises PORT_STATE (R239). -/
def State.ptpEnter (s : State) (p : Nat) (st : PtpState) : State :=
  if (s.ptp.ports.get p).state = st then s
  else (s.updPtp p fun x => { x with
    state := st, preEnd := none
    annEnd := if st = .listening then some (s.now + x.annTimeout * logCycles x.logAnnounce) else none }).raise (portSrc p) Ev.portState [.u 1 st.code]

/-- Every outstanding exchange of port `p` is dropped and its filter restarts empty (R223, R226). -/
def State.dropExchanges (s : State) (p : Nat) : State :=
  s.updPtp p fun x => { x with sync := none, reqs := [], unanswered := 0, rtts := [], rttF := 0, dOutliers := 0, pdelayDue := [] }

/-- Whether `p` is a port whose parent's messages count: the slave port of its instance (R225). -/
def PtpState.follows : PtpState → Bool
  | .slave => true
  | .uncalibrated => true
  | _ => false

/-! ## The best-master algorithm (R213, R217, R226) -/

/-- The first of two lists in lexical order. -/
def lexLess : List Nat → List Nat → Bool
  | [], _ => false
  | _, [] => false
  | a :: as, b :: bs => decide (a < b) || (decide (a = b) && lexLess as bs)

/-- The data set of a master, in the order of comparison: the default algorithm of IEEE 1588-2019, or the alternate one of
G.8275.1 with the localPriority of the port. -/
def PtpSource.key (alt : Bool) (lp : Nat) (x : PtpSource) : List Nat :=
  if alt then
    [x.clockClass, x.accuracy, x.variance, x.prio2, lp] ++ (if x.clockClass ≤ 127 then [x.steps] else [x.gm, x.steps])
      ++ [x.clock, x.portNumber, x.port]
  else [x.prio1, x.clockClass, x.accuracy, x.variance, x.prio2, x.gm, x.steps, x.clock, x.portNumber, x.port]

/-- The instance's own data set D0 (R157). -/
def State.ownSource (s : State) (n : Nat) : PtpSource :=
  let x := s.ptp.insts.get n
  { port := 0, clock := x.identity, portNumber := 0, gm := x.identity, prio1 := x.prio1, prio2 := x.prio2, steps := 0
    clockClass := classOfLevel s.ref.level, accuracy := Config.ptpAccuracy s.ref.level, variance := Config.ptpVariance s.ref.level }

/-- The key of a source heard by instance `n`. -/
def State.sourceKey (s : State) (n : Nat) (x : PtpSource) : List Nat :=
  x.key (decide ((s.ptp.insts.get n).profile = 3)) (s.ptp.ports.get x.port).localPrio

/-- The key of the instance's own data set. -/
def State.ownKey (s : State) (n : Nat) : List Nat :=
  (s.ownSource n).key (decide ((s.ptp.insts.get n).profile = 3)) (s.ptp.insts.get n).localPrio

/-- The better of two sources of instance `n`. -/
def State.betterSource (s : State) (n : Nat) (a : Option PtpSource) (b : PtpSource) : Option PtpSource :=
  match a with
  | none => some b
  | some x => if lexLess (s.sourceKey n b) (s.sourceKey n x) then some b else some x

/-- A foreign master is qualified: two Announces within four announce intervals (IEEE 1588-2019). -/
def PtpPort.qualified (x : PtpPort) (now : Nat) (f : PtpSource) : Bool :=
  decide (2 ≤ (recent f.heard now (4 * logCycles x.logAnnounce)).length)

/-- Erbest: the best qualified master heard on port `p` of instance `n`. -/
def State.portBest (s : State) (n p : Nat) : Option PtpSource :=
  let x := s.ptp.ports.get p
  (x.foreign.filter (x.qualified s.now)).foldl (s.betterSource n) none

/-- Ebest: the best master of instance `n`; a masterOnly or notSlave port gives none. -/
def State.instBest (s : State) (n : Nat) : Option PtpSource :=
  ((s.instPorts n).filterMap fun p => if (s.ptp.ports.get p).masterOnly then none else s.portBest n p).foldl (s.betterSource n) none

/-- The same master: its port identity and the port it is heard on. -/
def PtpSource.same (a b : PtpSource) : Bool := decide (a.clock = b.clock ∧ a.portNumber = b.portNumber ∧ a.port = b.port)

/-- The port would be MASTER: it stays LISTENING while the timescale is UNSET (R217). -/
def State.toMaster (s : State) (p : Nat) (wait : Nat) : State :=
  let x := s.ptp.ports.get p
  if !s.time.set_ then s.ptpEnter p .listening
  else if x.state = .master ∨ x.state = .preMaster then s
  else if wait = 0 then s.ptpEnter p .master
  else (s.ptpEnter p .preMaster).updPtp p fun y => { y with preEnd := some (s.now + wait) }

/-- The state decision of port `p` of instance `n` (IEEE 1588-2019, G.8275.1). A LISTENING port that hears no master
waits for one until its own announce receipt timeout. -/
def State.decidePort (s : State) (n : Nat) (best : Option PtpSource) (p : Nat) : State :=
  let i := s.ptp.insts.get n
  let x := s.ptp.ports.get p
  let own := s.ownKey n
  let mine := s.portBest n p
  let beats (b : Option PtpSource) : Bool := match b with | none => true | some e => lexLess own (s.sourceKey n e)
  if x.state = .faulty ∨ x.state = .disabled ∨ x.state = .initializing then s
  else if i.slaveOnly then
    match best with
    | some e => if e.port = p then (if x.state.follows then s else s.ptpEnter p .uncalibrated) else s.ptpEnter p .listening
    | none => s.ptpEnter p .listening
  else if decide (x.state = .listening) && mine.isNone && (match x.annEnd with | some e => decide (s.now < e) | none => true) then s
  else if x.masterOnly then s.toMaster p 0
  else if classOfLevel s.ref.level ≤ 127 then
    if beats mine then s.toMaster p 0 else s.ptpEnter p .passive
  else
    match best with
    | none => s.toMaster p 0
    | some e =>
      if beats best then s.toMaster p 0
      else if e.port = p then (if x.state.follows then s else s.ptpEnter p .uncalibrated)
      else
        match mine with
        | some m => if m.gm = e.gm then s.ptpEnter p .passive else s.toMaster p ((e.steps + 1) * logCycles x.logAnnounce)
        | none => s.toMaster p ((e.steps + 1) * logCycles x.logAnnounce)

/-- The receipt timeouts of the slave port of instance `n` start (R226). -/
def State.startReceipt (s : State) (n : Nat) : State :=
  match (s.ptp.insts.get n).slavePort with
  | none => s.updInst n fun i => { i with announceEnd := none, syncEnd := none, delayEnd := none }
  | some p =>
    let x := s.ptp.ports.get p
    s.updInst n fun i => { i with
      announceEnd := some (s.now + x.annTimeout * logCycles x.logAnnounce)
      syncEnd := some (s.now + x.syncTimeout * logCycles x.logSync), delayEnd := none }

/-- The instance's ports decide their states, and the parent follows: a new parent discards every outstanding exchange, and
PARENT_CHANGE is raised (R226, R239). -/
def State.bmca (s : State) (n : Nat) : State :=
  let i := s.ptp.insts.get n
  let s1 := (s.instPorts n).foldl (fun s p => s.decidePort n (s.instBest n) p) s
  let sp := (s1.instPorts n).find? fun p => (s1.ptp.ports.get p).state.follows
  let par := match sp with | some _ => s1.instBest n | none => none
  let same := match par, i.parent with | some a, some b => a.same b | none, none => true | _, _ => false
  let s2 := s1.updInst n fun y => { y with parent := par, slavePort := sp }
  if same then s2
  else
    let s3 := (s2.instPorts n).foldl State.dropExchanges s2
    let s4 := (s3.updInst n fun y => { y with oKnown := false, oOutliers := 0, rttF := 0 }).startReceipt n
    if par.isSome then s4.raise (instSrc n) Ev.parentChange else s4

/-! ## Loss of a master (R226) -/

/-- The instance's virtual reference loses its activity, so that it fails at the next boundary with cause ACTIVITY (R163 step 4), and MASTER_LOSS is
raised with its cause: 0 ANNOUNCE, 1 SYNC, 2 DELAY. -/
def State.masterLoss (s : State) (n cause : Nat) : State :=
  (s.updSlot (virtSlot n) fun x => { x with active := false }).raise (instSrc n) Ev.masterLoss [.u 1 cause]

/-- The level source of an instance's virtual reference times out (R159). -/
def State.levelGone (s : State) (n : Nat) : State :=
  if (s.ref.slots.get (virtSlot n)).enable then
    (s.slotLevel (virtSlot n) 15 0).updSlot (virtSlot n) fun x => { x with levelDead := true }
  else s

/-- No accepted Announce comes from the parent: it is forgotten, the BMCA runs again, the virtual reference fails and its level
times out. -/
def State.announceLost (s : State) (n : Nat) : State :=
  let i := s.ptp.insts.get n
  let s1 := match i.parent with
    | some e => s.updPtp e.port fun x => { x with foreign := x.foreign.filter fun f => !f.same e }
    | none => s
  let s2 := match i.slavePort with
    | some p => if (s1.ptp.ports.get p).state.follows then s1.ptpEnter p .listening else s1
    | none => s1
  let s3 := (s2.updInst n fun y => { y with announceEnd := none, syncEnd := none, delayEnd := none }).bmca n
  (s3.masterLoss n 0).levelGone n

/-- Port `p` leaves UP: it is FAULTY and drops every exchange, as for a missing Announce if it was SLAVE (R226). -/
def State.ptpPortDown (s : State) (p : Nat) : State :=
  match s.instOf p with
  | none => s
  | some n =>
    let was := (s.ptp.ports.get p).state
    let s1 := ((s.dropExchanges p).ptpEnter p .faulty).updPtp p fun x => { x with foreign := [] }
    if was.follows then s1.announceLost n else s1.bmca n

/-- Port `p` of an instance reaches UP: its filter is empty (R223) and it listens. -/
def State.ptpPortUp (s : State) (p : Nat) : State :=
  match s.instOf p with
  | none => s
  | some _ => (s.dropExchanges p).ptpEnter p .listening

/-- The ports of instances follow their lanes: what became UP or left UP since `old`. -/
def State.ptpFollow (old s : State) : State :=
  s.ptp.ports.foldl (fun s v =>
    if old.portUp v.1 && !s.portUp v.1 then s.ptpPortDown v.1
    else if !old.portUp v.1 && s.portUp v.1 then s.ptpPortUp v.1
    else s) s

/-! ## Delays and offsets (R223 to R225, R230) -/

/-- The median-free filter of R223 and its outlier check (R225) take a round trip of port `p` of instance `n`. -/
def State.takeRtt (s : State) (n p : Nat) (rtt : Int) : State :=
  let x := s.ptp.ports.get p
  if rtt < -(100 * nsU : Int) ∨ (x.maxPath : Int) < rtt then s.ptpCount p 11
  else
    let far := decide (x.filterLen ≤ x.rtts.length ∧ x.delayOutlier < (rtt - x.rttF).natAbs)
    if far && decide (x.dOutliers < 8) then (s.ptpCount p 12).updPtp p fun y => { y with dOutliers := y.dOutliers + 1 }
    else
      let l := if far then [rtt] else (rtt :: x.rtts).take x.filterLen
      let f := meanInt l
      let s1 := (s.updPtp p fun y => { y with rtts := l, rttF := f, dOutliers := 0 }).updAsym p fun y => { y with freshRtt := true }
      let s2 := if far then s1.raise (portSrc p) Ev.delayStep else s1
      s2.updInst n fun i => { i with rttF := if i.slavePort = some p then f else i.rttF, delayEnd := none }

/-- The zero-rate time of an instant of TICK, in 2^-16 ns (R182, R230). -/
def zeroRate (tick sub : Nat) : Int := roundDiv (((tick * 65536 + sub : Nat) : Int) * 4) 5

/-- The offset that a complete Sync gives: parent time minus KTIME at t2 (R223). The formula of R223 as printed is its negative; the
sign follows its comment, R228 to R230 and R232 (log 40). -/
def State.syncOffset (s : State) (p : Nat) (y : PtpSync) : Int :=
  let x := s.ptp.ports.get p
  let dIn := roundDiv (x.rttF - s.asymOf p x.rttF) 2
  dIn - (y.t2 - y.t1 - y.cs)

/-- The last accepted offset of instance `n` advanced by the servo's rate to now (R225). -/
def State.predictO (s : State) (n : Nat) : Int :=
  let i := s.ptp.insts.get n
  i.lastO - roundDiv (s.ptp.servo.rateReq * zeroRate (s.now - i.lastOAt) 0) 281474976710656

/-- A complete Sync of the parent gives an offset, once a round trip is known (R223, R225); an accepted one reaches the virtual
reference (R230) and the servo (R228). -/
def State.takeSync (s : State) (n p : Nat) (y : PtpSync) : State :=
  let x := s.ptp.ports.get p
  let i := s.ptp.insts.get n
  let s0 := s.updInst n fun v => { v with syncEnd := some (s.now + x.syncTimeout * logCycles x.logSync) }
  if x.rtts.isEmpty then s0
  else
    let o := s.syncOffset p y
    let far := decide (s.ptp.servo.state = .track) && decide (x.filterLen ≤ x.rtts.length) && i.oKnown &&
      decide (x.offsetOutlier < (o - s.predictO n).natAbs)
    if far && decide (i.oOutliers < 8) then (s.ptpCount p 13).updInst n fun v => { v with oOutliers := v.oOutliers + 1 }
    else
      let s1 := s0.updInst n fun v => { v with lastO := o, lastOAt := s.now, oKnown := true, oOutliers := 0, rttF := x.rttF }
      let s2 := if far then s1.raise (portSrc p) Ev.offsetStep else s1
      let s3 := if x.state = .uncalibrated then s2.ptpEnter p .slave else s2
      let slot := virtSlot n
      let s4 := if (s3.ref.slots.get slot).enable then
          s3.updSlot slot fun z => { z with
            active := true, samples := z.samples ++ [(y.t2 + o - zeroRate y.tick y.sub, (y.tick : Int), y.stale,
              if i.profile = 2 then some (s.tdc.chans.get p).yOff else none)] }
        else s3
      s4.servoSample slot o

/-- The exchange of port `p` carries COAST beyond 4 windows (R224). -/
def State.coastsLong (s : State) (p : Nat) : Bool := decide (4 < s.laneAge p)

/-! ## Messages received (R215, R225) -/

/-- The least messageLength of a type (IEEE 1588-2019). -/
def PtpType.minLength : PtpType → Nat
  | .announce => 64
  | .delayResp => 54 | .pdelayReq => 54 | .pdelayResp => 54 | .pdelayRespFollowUp => 54
  | .management => 48
  | _ => 44

/-- A code of each type, for the RATE check. -/
def PtpType.code : PtpType → Nat
  | .sync => 0 | .delayReq => 1 | .pdelayReq => 2 | .pdelayResp => 3 | .followUp => 8 | .delayResp => 9
  | .pdelayRespFollowUp => 10 | .announce => 11 | .signaling => 12 | .management => 13

/-- The configured log interval of a type of message; none where none is configured. -/
def PtpPort.logOf (x : PtpPort) : PtpType → Option Int
  | .sync => some x.logSync | .followUp => some x.logSync
  | .announce => some x.logAnnounce
  | .delayReq => some x.logDelay | .delayResp => some x.logDelay
  | .pdelayReq => some x.logDelay | .pdelayResp => some x.logDelay | .pdelayRespFollowUp => some x.logDelay
  | _ => none

/-- Messages of type and source that the RATE check lets pass in a second: 4 times the configured rate, at least one. -/
def rateLimit (l : Int) : Nat := max 1 (4 * rate32 l / 32)

/-- Messages of this type and source within the last second. -/
def PtpPort.rateCount (x : PtpPort) (now : Nat) (m : PtpRx) : Nat :=
  (x.rateTimes.filter fun t => decide (t.1 = (PtpType.code m.kind) ∧ t.2.1 = m.clock * 65536 + m.portNumber ∧ now < t.2.2 + secC)).length

/-- Event messages and Follow_Up, whose timestamp is checked (R225). -/
def PtpType.timed : PtpType → Bool
  | .sync => true | .delayReq => true | .pdelayReq => true | .pdelayResp => true | .followUp => true | _ => false

/-- Types with a correction to check (R225). -/
def PtpType.corrected : PtpType → Bool
  | .announce => false | .signaling => false | .management => false | _ => true

/-- The outstanding request that a response answers, within its timeout of 4 request intervals (R225). -/
def PtpPort.request (x : PtpPort) (now : Nat) (m : PtpRx) (two : Bool) : Option PtpReq :=
  x.reqs.find? fun r => decide (r.seq = m.seq) && (r.part.isSome == two) && decide (now < r.at_ + 4 * logCycles x.logDelay)

/-- The count that a message fails into by the checks of R225 on the message itself, in their order; none where it passes. -/
def State.messageFails (s : State) (n p : Nat) (m : PtpRx) : Option Nat :=
  let i := s.ptp.insts.get n
  let x := s.ptp.ports.get p
  let own := (List.range 4).any fun k =>
    (s.ptp.insts.get k).enable && decide ((s.ptp.insts.get k).identity = m.clock) &&
      (s.instPorts k).any fun q => decide (portNumberOf q = m.portNumber)
  let fromParent := match i.parent with
    | some e => decide (i.slavePort = some p ∧ e.clock = m.clock ∧ e.portNumber = m.portNumber)
    | none => false
  let forUs := decide (m.reqClock = i.identity ∧ m.reqPort = portNumberOf p)
  let needsParent := match m.kind with | .sync => true | .followUp => true | .delayResp => true | _ => false
  let followOk := match x.sync with
    | some y => y.twoStep && !y.complete && decide (y.seq = m.seq ∧ s.now ≤ y.at_ + logCycles x.logSync)
    | none => false
  let responseOk := match m.kind with
    | .delayResp => forUs && (x.request s.now m false).isSome
    | .pdelayResp => forUs && (x.request s.now m false).isSome
    | .pdelayRespFollowUp => forUs && (x.request s.now m true).isSome
    | _ => true
  if m.major ≠ 2 ∨ 1 < m.minor then some 0
  else if m.domain ≠ i.domain ∨ m.sdo ≠ 0 then some 1
  else if m.length < (PtpType.minLength m.kind) ∨ m.payload < m.length then some 2
  else if own then some 3
  else if m.kind = .management then some 14
  else if m.kind = .announce ∧ 255 ≤ m.steps then some 4
  else if (match x.logOf m.kind with | some l => decide (rateLimit l ≤ x.rateCount s.now m) | none => false) then some 5
  else if needsParent && !fromParent then some 6
  else if decide (m.kind = .followUp) && !followOk then some 7
  else if !responseOk then some 8
  else if (PtpType.timed m.kind) && decide (1000000000 ≤ m.ns) then some 9
  else if (PtpType.corrected m.kind) && decide (m.correction = 2 ^ 63 - 1 ∨ m.correction < -(secU : Int)) then some 10
  else none

/-- A timestamp in 2^-16 ns. -/
def PtpRx.stamp (m : PtpRx) : Int := (m.sec : Int) * secU + m.ns * nsU

/-- The master that an Announce describes. -/
def PtpRx.source (m : PtpRx) (p : Nat) : PtpSource :=
  { port := p, clock := m.clock, portNumber := m.portNumber, gm := m.gm, prio1 := m.prio1, clockClass := m.clockClass
    accuracy := m.accuracy, variance := m.variance, prio2 := m.prio2, steps := m.steps }

/-- An accepted Announce: the master is held for the BMCA, which runs; one from the parent restarts the receipt timeout and gives
the virtual reference its level (R158, R159, R226). -/
def State.announceRx (s : State) (n p : Nat) (m : PtpRx) : State :=
  let e := PtpRx.source m p
  let x := s.ptp.ports.get p
  let old := x.foreign.find? fun f => f.same e
  let heard := (s.now :: ((old.map (·.heard)).getD [])).take 8
  let s1 := (s.updPtp p fun y => { y with 
    foreign := { e with heard := heard } :: (y.foreign.filter fun f => !f.same e)
    annEnd := if y.annEnd.isSome then some (s.now + x.annTimeout * logCycles x.logAnnounce) else none }).bmca n
  match (s1.ptp.insts.get n).parent with
  | some q =>
    if q.same e then
      let s2 := s1.updInst n fun i => { i with
        parent := some { e with heard := heard }, announceEnd := some (s.now + x.annTimeout * logCycles x.logAnnounce) }
      if (s2.ref.slots.get (virtSlot n)).enable then s2.receivedLevel (virtSlot n) (levelOfClass m.clockClass) 0 else s2
    else s1
  | none => s1

/-- A message is sent. -/
def State.ptpSend (s : State) (m : PtpMsg) : State := { s with ptp := { s.ptp with sent := m :: s.ptp.sent } }

/-- Whether the PTP instances keep from transmitting as masters: on a STANDBY unit, until its promotion (R407, log 83). -/
def State.ptpMuted (s : State) : Bool := s.pair.enable && decide (s.pair.role = .standby)

/-- What a PTP timestamp field carries of an instant of KTIME: its whole nanoseconds, the seconds in their low 48 bits (R218). -/
def ptpStamp (k : Int) : Int := k / (secU : Int) % 281474976710656 * 1000000000 + k % (secU : Int) / (nsU : Int)

/-- A Delay_Req reaches a MASTER port, which answers (R213): the whole nanoseconds of t4 and its fraction with the request's
correction. -/
def State.delayReqRx (s : State) (n p : Nat) (m : PtpRx) : State :=
  if (s.ptp.insts.get n).p2p || decide ((s.ptp.ports.get p).state ≠ .master) || s.ptpMuted then s
  else
    let k := s.kOf m.tick m.sub
    s.ptpSend { port := p, kind := .delayResp, domain := m.domain, seq := m.seq, stamp := ptpStamp k
                correction := m.correction - k % (nsU : Int), req := (m.clock, m.portNumber) }

/-- What an accepted message does (R223 to R226). -/
def State.ptpAccepted (s : State) (n p : Nat) (m : PtpRx) : State :=
  let x := s.ptp.ports.get p
  let i := s.ptp.insts.get n
  let coast := s.coastsLong p
  match m.kind with
  | .announce => s.announceRx n p m
  | .sync =>
    if coast then s.ptpCount p 15
    else
      let y : PtpSync := {
        seq := m.seq, twoStep := m.twoStep, complete := !m.twoStep, t1 := (PtpRx.stamp m), cs := m.correction
        t2 := s.kOf m.tick m.sub, tick := m.tick, sub := m.sub, stale := s.stampStale p, at_ := s.now }
      let s1 := s.updPtp p fun z => { z with sync := some y }
      if m.twoStep then s1 else s1.takeSync n p y
  | .followUp =>
    match x.sync with
    | some y =>
      let z := { y with complete := true, t1 := (PtpRx.stamp m), cs := y.cs + m.correction }
      (s.updPtp p fun v => { v with sync := some z }).takeSync n p z
    | none => s
  | .delayReq => s.delayReqRx n p m
  | .delayResp =>
    match x.request s.now m false with
    | some r =>
      let s1 := s.updPtp p fun v => { v with reqs := v.reqs.filter fun q => decide (q.seq ≠ r.seq), unanswered := 0 }
      match x.sync with
      | some y => if y.complete then s1.takeRtt n p ((y.t2 - y.t1 - y.cs) + ((PtpRx.stamp m) - r.sent - m.correction)) else s1
      | none => s1
    | none => s
  | .pdelayReq =>
    if i.p2p then
      s.updPtp p fun v => { v with pdelayDue := v.pdelayDue ++
        [{ seq := m.seq, clock := m.clock, portNumber := m.portNumber, correction := m.correction, t2 := s.kOf m.tick m.sub }] }
    else s
  | .pdelayResp =>
    match x.request s.now m false with
    | some r =>
      let t4 := s.kOf m.tick m.sub
      if coast then (s.ptpCount p 15).updPtp p fun v => { v with reqs := v.reqs.filter fun q => decide (q.seq ≠ r.seq) }
      else if m.twoStep then
        s.updPtp p fun v => { v with reqs := v.reqs.map fun q =>
          if q.seq = r.seq then { q with part := some ((PtpRx.stamp m), t4, m.correction) } else q }
      else
        (s.updPtp p fun v => { v with reqs := v.reqs.filter fun q => decide (q.seq ≠ r.seq), unanswered := 0 }).takeRtt n p
          (t4 - r.sent - m.correction)
    | none => s
  | .pdelayRespFollowUp =>
    match x.request s.now m true with
    | some r =>
      match r.part with
      | some (t2, t4, c) =>
        (s.updPtp p fun v => { v with reqs := v.reqs.filter fun q => decide (q.seq ≠ r.seq), unanswered := 0 }).takeRtt n p
          ((t4 - r.sent) - ((PtpRx.stamp m) - t2) - c - m.correction)
      | none => s
    | none => s
  | .signaling => match m.l1 with
    | some v => if i.profile = 2 then s.updPtp p fun z => { z with l1Rx := some v } else s
    | none => s
  | .management => s

/-- PTP_MESSAGE_RX (R225): A PTP message received by an instance is checked and used for the BMCA, delay, offset and servo. -/
def execPtpMessageRx (port : Nat) (msg : PtpRx) (s : State) : Out :=
  if 256 ≤ port then .fault .noSuchObject
  else
    match s.instOf port with
    | none => .next (if (s.ptp.ports.get port).inst = 4 then s else s.ptpCount port 1)
    | some n =>
      if !s.portUp port then .next s
      else
        let s1 := s.updPtp port fun x => { x with
          rateTimes := ((PtpType.code msg.kind), msg.clock * 65536 + msg.portNumber, s.now) :: x.rateTimes.filter fun t => decide (s.now < t.2.2 + secC) }
        match s.messageFails n port msg with
        | some k => .next (s1.ptpCount port k)
        | none => .next (s1.ptpAccepted n port msg)

/-! ## Messages sent (R216, R218) -/

/-- What an Announce of instance `n` carries: its parent's grandmaster, or its own. -/
def State.announceData (s : State) (n p : Nat) : PtpSource :=
  let i := s.ptp.insts.get n
  match i.parent with
  | some e => { e with port := p, clock := i.identity, portNumber := portNumberOf p, steps := e.steps + 1, heard := [] }
  | none => { s.ownSource n with port := p, portNumber := portNumberOf p }

/-- The instant at which a message of kind `k` and interval 2^`l` s is due on port `p`. -/
def State.ptpDue (s : State) (p k : Nat) (l : Int) : Nat :=
  match (s.ptp.ports.get p).lastTx.find k with
  | some t => max s.now (t + logCycles l)
  | none => s.now

/-- A PRE_MASTER port whose wait has ended is MASTER. -/
def State.preMasterDone (s : State) (p : Nat) : State :=
  match (s.ptp.ports.get p).preEnd with
  | some e => if e ≤ s.now then s.ptpEnter p .master else s
  | none => s

/-- A message of kind `k` has been sent on port `p`. -/
def State.sentNow (s : State) (p k : Nat) : State := s.updPtp p fun x => { x with lastTx := x.lastTx.set k s.now }

/-- The KTIME of a TX stamp: the symbol's TICK and fraction at the TX stamp point, and the TX latency (R201). -/
def State.txK (s : State) (p tick sub : Nat) : Int :=
  let u := (tick : Int) * 65536 + sub + offsetU (s.txLatency p p)
  s.kOf (u / 65536).toNat (u % 65536).toNat

/- In the high accuracy profile a port sends the L1_SYNC TLV in its basic form in Signaling messages (R213); its configured and in-use flags are
free values, since no parameter of the device gives them. -/
/-- PTP_MESSAGE_TX (R216): An instance sends a Sync, Delay_Req, Pdelay_Req or Announce at its interval. -/
def execPtpMessageTx (port : Nat) (kind : PtpType) (tick sub : Nat) (s : State) : Out :=
  if 256 ≤ port then .fault .noSuchObject
  else
    let s0 := s.preMasterDone port
    match s0.instOf port with
    | none => .next s0
    | some n =>
      let x := s0.ptp.ports.get port
      let i := s0.ptp.insts.get n
      if !s0.portUp port then .next s0
      else
        match kind with
        | .sync =>
          if x.state ≠ .master ∨ s0.ptpMuted then .next s0
          else
            let s1 := s0.advance (s0.ptpDue port 0 x.logSync)
            let k := s1.txK port tick sub
            let s2 := (s1.sentNow port 0).updPtp port fun y => { y with seqSync := (y.seqSync + 1) % 65536 }
            if x.twoStep then
              .next ((s2.ptpSend { port := port, kind := .sync, domain := i.domain, seq := x.seqSync, twoStep := true }).ptpSend
                { port := port, kind := .followUp, domain := i.domain, seq := x.seqSync, stamp := ptpStamp k, correction := k % (nsU : Int) })
            else
              .next (s2.ptpSend
                { port := port, kind := .sync, domain := i.domain, seq := x.seqSync, stamp := ptpStamp k, correction := k % (nsU : Int) })
        | .announce =>
          if x.state ≠ .master ∨ s0.ptpMuted then .next s0
          else
            let s1 := s0.advance (s0.ptpDue port 2 x.logAnnounce)
            .next (((s1.sentNow port 2).updPtp port fun y => { y with seqAnnounce := (y.seqAnnounce + 1) % 65536 }).ptpSend
              { port := port, kind := .announce, domain := i.domain, seq := x.seqAnnounce, source := some (s1.announceData n port) })
        | .delayReq =>
          if i.p2p || !x.state.follows then .next s0
          else
            let s1 := s0.advance (s0.ptpDue port 1 x.logDelay)
            let s2 := (s1.sentNow port 1).updPtp port fun y => { y with
              seqDelay := (y.seqDelay + 1) % 65536, reqs := y.reqs ++ [{ seq := x.seqDelay, sent := s1.txK port tick sub, at_ := s1.now }] }
            .next (s2.ptpSend { port := port, kind := .delayReq, domain := i.domain, seq := x.seqDelay })
        | .pdelayReq =>
          if !i.p2p then .next s0
          else
            let s1 := s0.advance (s0.ptpDue port 1 x.logDelay)
            let s2 := (s1.sentNow port 1).updPtp port fun y => { y with
              seqDelay := (y.seqDelay + 1) % 65536, reqs := y.reqs ++ [{ seq := x.seqDelay, sent := s1.txK port tick sub, at_ := s1.now }] }
            .next (s2.ptpSend { port := port, kind := .pdelayReq, domain := i.domain, seq := x.seqDelay })
        | .pdelayResp =>
          match x.pdelayDue with
          | [] => .next s0
          | d :: rest =>
            let s1 := s0.updPtp port fun y => { y with pdelayDue := rest }
            let t3 := s1.txK port tick sub
            if x.twoStep then
              .next ((s1.ptpSend { port := port, kind := .pdelayResp, domain := i.domain, seq := d.seq, twoStep := true
                                   stamp := ptpStamp d.t2, correction := -(d.t2 % (nsU : Int)), req := (d.clock, d.portNumber) }).ptpSend
                { port := port, kind := .pdelayRespFollowUp, domain := i.domain, seq := d.seq, stamp := ptpStamp t3
                  correction := d.correction + t3 % (nsU : Int), req := (d.clock, d.portNumber) })
            else
              .next (s1.ptpSend { port := port, kind := .pdelayResp, domain := i.domain, seq := d.seq, correction := d.correction + (t3 - d.t2)
                                  req := (d.clock, d.portNumber) })
        | .signaling =>
          if i.profile ≠ 2 then .next s0
          else
            let (k, s1) := s0.takeFree
            .next (s1.ptpSend { port := port, kind := .signaling, domain := i.domain
                                l1 := some (Config.freeNat k % 8 + 256 * (Config.freeNat k / 8 % 8)) })
        | _ => .next s0

/-! ## Timeouts (R226) -/

/-- ANNOUNCE_RECEIPT_TIMEOUT (R226): No Announce from the parent within the receipt timeout, and the BMCA runs again. -/
def execAnnounceReceiptTimeout (inst : Nat) (s : State) : Out :=
  if 4 ≤ inst then .fault .noSuchObject
  else
    let i := s.ptp.insts.get inst
    let ends := i.announceEnd.toList ++ (s.instPorts inst).filterMap fun p => (s.ptp.ports.get p).annEnd
    match ends with
    | [] => .next s
    | e :: l =>
      let s1 := s.advance (l.foldl min e)
      let due := match i.announceEnd with | some t => decide (t ≤ s1.now) | none => false
      if due && i.parent.isSome then .next (s1.announceLost inst)
      else if due then .next (((s1.updInst inst fun i => { i with announceEnd := none }).bmca inst).levelGone inst)
      else .next (s1.bmca inst)

/-- SYNC_RECEIPT_TIMEOUT (R226): No Sync from the parent within the Sync receipt timeout, and the virtual reference fails. -/
def execSyncReceiptTimeout (inst : Nat) (s : State) : Out :=
  if 4 ≤ inst then .fault .noSuchObject
  else
    match (s.ptp.insts.get inst).syncEnd with
    | some e => .next (((s.advance e).updInst inst fun i => { i with syncEnd := none }).masterLoss inst 1)
    | none => .next s

/-- DELAY_RESPONSE_TIMEOUT (R226): Consecutive delay requests are unanswered and the last delay is held. -/
def execDelayResponseTimeout (port : Nat) (s : State) : Out :=
  if 256 ≤ port then .fault .noSuchObject
  else
    match s.instOf port, (s.ptp.ports.get port).reqs with
    | some n, r :: rest =>
      let x := s.ptp.ports.get port
      let s1 := (s.advance (r.at_ + 4 * logCycles x.logDelay)).updPtp port fun y => { y with reqs := rest, unanswered := y.unanswered + 1 }
      if x.unanswered + 1 = x.delayTimeout ∧ (s1.ptp.insts.get n).slavePort = some port then
        .next (s1.updInst n fun i => { i with delayEnd := some (s1.now + cyclesOf x.coastLimit) })
      else .next s1
    | _, _ => .next s

/-- DELAY_COAST_EXPIRY (R226): A held delay passes the delay coast limit and the source is treated as lost. -/
def execDelayCoastExpiry (slot : Nat) (s : State) : Out :=
  if slot < 8 ∨ 28 ≤ slot then .fault .noSuchObject
  else if 24 ≤ slot then
    match (s.ptp.insts.get (slot - 24)).delayEnd with
    | some e =>
      let s1 := (s.advance e).updInst (slot - 24) fun i => { i with delayEnd := none }
      let s2 := match (s1.ptp.insts.get (slot - 24)).slavePort with
        | some p => s1.updPtp p fun y => { y with rtts := [], rttF := 0 }
        | none => s1
      .next (s2.masterLoss (slot - 24) 2)
    | none => .next s
  else
    let p := (s.ref.slots.get slot).src
    match (s.ptp.asym.get p).coastEnd with
    | some e =>
      let s1 := ((s.advance e).updAsym p fun y => { y with coastEnd := none }).updSelv p fun y => { y with timeWords := false }
      .next (if s.ptp.servo.source = some slot then s1.servoSource none else s1)
    | none => .next s

/-! ## The servo's source (R227) -/

/-- Whether slot `n` is time-capable. -/
def State.timeCapable (s : State) (n : Nat) : Bool :=
  if 8 ≤ n ∧ n < 24 then
    let p := (s.ref.slots.get n).src
    (s.ports.get p).isSelvedge && (s.selv.get p).timeWords
  else decide ((24 ≤ n ∧ n < 28) ∨ n = 29 ∨ n = 30)

/-- The servo's choice at a boundary. -/
def State.servoChoose (s : State) : State :=
  let x := s.ptp.servo
  let l := allSlots.filter fun n => s.timeCapable n && s.eligible n
  let pick : Option Nat :=
    if x.fixed then (if s.timeCapable x.fixedSlot && s.eligible x.fixedSlot then some x.fixedSlot else none)
    else
      match s.ref.selected with
      | some n => if s.timeCapable n then some n else s.bestSlot l
      | none => s.bestSlot l
  s.servoSource pick

/-! ## Configurations take effect (R238) -/

/-- Instance `n` is enabled or disabled: its ports listen, or are DISABLED. -/
def State.instEnable (s : State) (n : Nat) (on : Bool) : State :=
  (s.instPorts n).foldl (fun s p =>
    (s.dropExchanges p).ptpEnter p (if !on then .disabled else if s.portUp p then .listening else .faulty)) s

/-- A port joins or leaves an instance. -/
def State.portJoin (s : State) (p : Nat) : State :=
  match s.instOf p with
  | some n =>
    let s1 := (s.dropExchanges p).ptpEnter p (if s.portUp p then .listening else .faulty)
    let x := s1.ptp.ports.get p
    if (s1.ptp.insts.get n).announceEnd.isSome then s1
    else s1.updInst n fun i => { i with announceEnd := some (s.now + x.annTimeout * logCycles x.logAnnounce) }
  | none => (s.dropExchanges p).ptpEnter p .disabled

/-- The colour average of a port restarts (R234). -/
def Asym.restart (x : Asym) (now : Nat) : Asym :=
  { x with qs := [], qF := 0, fallback := false, discRun := 0, peerOff := false, lastAccept := now, freshRtt := false }

/-- A configuration that waited for the boundary takes effect (R238). -/
def State.applyPtp (s : State) (c : Instr) : State :=
  match c with
  | .ptpConfigureInstance _ en so n pr dom ident p1 p2 lp =>
    let was := (s.ptp.insts.get n).enable
    let s1 := s.updInst n fun i => { i with
      enable := en, profile := pr, domain := dom, identity := ofBe ident, prio1 := p1, prio2 := p2, localPrio := lp, slaveOnly := so }
    let s2 := if was = en then s1 else s1.instEnable n en
    let s3 := if was && !en then
        (s2.updInst n fun i => { i with
          parent := none, slavePort := none, oKnown := false, announceEnd := none, syncEnd := none, delayEnd := none })
      else if en && !was then
        (s2.updInst n fun i => { i with announceEnd := some (s.now + (s2.instPorts n).foldl (fun a p =>
          max a ((s2.ptp.ports.get p).annTimeout * logCycles (s2.ptp.ports.get p).logAnnounce)) 0) })
      else s2
    if en && was then s3.bmca n
    else if was && (s.ptp.insts.get n).parent.isSome then s3.masterLoss n 0
    else s3
  | .ptpConfigurePort _ mo p inst tr dest addr ls ld la at_ st dt two lp co mp dol ool fl =>
    let old := s.ptp.ports.get p
    let s1 := s.updPtp p fun x => { x with
      inst := inst, transport := tr, unicast := if dest = 1 then addr else 0, logSync := ls, logDelay := ld, logAnnounce := la
      annTimeout := at_, syncTimeout := st, delayTimeout := dt, twoStep := decide (two = 1), masterOnly := mo, localPrio := lp
      coastLimit := co, maxPath := mp, delayOutlier := dol, offsetOutlier := ool, filterLen := fl
      rtts := x.rtts.take fl, rttF := meanInt (x.rtts.take fl) }
    if old.inst = inst then (match s1.instOf p with | some n => s1.bmca n | none => s1)
    else
      let s2 := s1.portJoin p
      match s.instOf p with
      | some n => if (s.ptp.insts.get n).slavePort = some p then s2.announceLost n else s2.bmca n
      | none => s2
  | .ptpConfigureTc _ m d => { s with ptp := { s.ptp with tcMode := m, tcDomains := d } }
  | .servoConfigure _ m sl bw ms st lt off =>
    s.updServo fun x => { x with
      fixed := decide (m = 1), fixedSlot := if m = 1 then sl else x.fixedSlot, bandwidth := bw, maxSlew := ms.toNat, stepThr := st
      lockThr := lt, ppsOffset := off }
  | .asymConfigure _ p m c al pa lo li k av ql co ag =>
    let now := s.now
    let x := s.ptp.asym.get p
    let s0 := if x.dual then s.updAsym x.partner fun y => y.restart now else s
    let s1 := s0.updAsym p fun y => ({ y with
      dual := decide (m = 1), c := c, alpha := al, agree := ag
      partner := if m = 1 then pa else y.partner, lambdaOut := if m = 1 then lo else y.lambdaOut
      lambdaIn := if m = 1 then li else y.lambdaIn, k := if m = 1 then k else y.k, avg := if m = 1 then av else y.avg
      qLimit := if m = 1 then ql else y.qLimit, coast := if m = 1 then co else y.coast }).restart now
    if m = 1 then s1.updAsym pa fun y => y.restart now else s1
  | _ => s

/-- The PTP, servo and asymmetry configurations that completed before a boundary take effect there (R238). -/
def State.ptpBoundary (s : State) : State :=
  s.ptp.pendCfg.foldl State.applyPtp { s with ptp := { s.ptp with pendCfg := [] } }

/-! ## Commands (R238) -/

/-- A configuration waits for the next lane-window boundary. -/
def State.pendPtp (s : State) (i : Instr) : Rep := .ok { s with ptp := { s.ptp with pendCfg := s.ptp.pendCfg ++ [i] } } []

/-- Instance, logSyncInterval, logMinDelayReqInterval and logAnnounceInterval of port `q` as the configurations that wait for the boundary leave
them. -/
def State.portAhead (s : State) (q : Nat) : Nat × Int × Int × Int :=
  s.ptp.pendCfg.foldl (fun a c => match c with
    | .ptpConfigurePort _ _ p inst _ _ _ ls ld la _ _ _ _ _ _ _ _ _ _ => if p = q then (inst, ls, ld, la) else a
    | _ => a) (let x := s.ptp.ports.get q; (x.inst, x.logSync, x.logDelay, x.logAnnounce))

/-- Enable, profile and domain of instance `n` as the configurations that wait leave them. -/
def State.instAhead (s : State) (n : Nat) : Bool × Nat × Nat :=
  s.ptp.pendCfg.foldl (fun a c => match c with
    | .ptpConfigureInstance _ en _ m pr dom _ _ _ _ => if m = n then (en, pr, dom) else a
    | _ => a) (let x := s.ptp.insts.get n; (x.enable, x.profile, x.domain))

/-- DUAL, partner, λ_out and λ_in of port `q` as the configurations that wait leave them. -/
def State.asymAhead (s : State) (q : Nat) : Bool × Nat × Nat × Nat :=
  s.ptp.pendCfg.foldl (fun a c => match c with
    | .asymConfigure _ p m _ _ pa lo li _ _ _ _ _ => if p = q then (decide (m = 1), pa, lo, li) else a
    | _ => a) (let x := s.ptp.asym.get q; (x.dual, x.partner, x.lambdaOut, x.lambdaIn))

/-- What the own checks and effect of PTP_CONFIGURE_INSTANCE come to (R238). -/
def bodyPtpConfigureInstance (enable slaveOnly : Bool) (inst profile domain : Nat) (identity : List Byte) (prio1 prio2 localPrio : Nat) (s : State) : Rep :=
  let id := ofBe identity
  Rep.ranges [decide (inst < 4), decide (profile < 4),
      decide (if profile = 3 then 24 ≤ domain ∧ domain ≤ 43 else domain ≤ 127), decide (id ≠ 0 ∧ id ≠ 2 ^ 64 - 1),
      decide (prio1 ≤ 255), decide (if profile = 3 then prio2 = 128 else prio2 ≤ 255),
      decide (if profile = 3 then 1 ≤ localPrio ∧ localPrio ≤ 255 else localPrio = 0)] <|
    let x := s.instAhead inst
    if x.1 && decide (x.2.1 ≠ profile ∨ x.2.2 ≠ domain) then Rep.badState
    else s.pendPtp (.ptpConfigureInstance .direct enable slaveOnly inst profile domain identity prio1 prio2 localPrio)

/-- Messages per second of every port of an instance, times 32, with port `p` as configured (R216); configurations that wait count. -/
def State.messageRate (s : State) (p inst : Nat) (ls ld la : Int) : Nat :=
  let others := (List.range 256).foldl (fun a q =>
    let x := s.portAhead q
    if q = p ∨ 4 ≤ x.1 then a else a + rate32 x.2.1 + rate32 x.2.2.1 + rate32 x.2.2.2) 0
  if 4 ≤ inst then others else others + rate32 ls + rate32 ld + rate32 la

/-- What the own checks and effect of PTP_CONFIGURE_PORT come to (R238). -/
def bodyPtpConfigurePort (masterOnly : Bool) (port inst transport dest addr : Nat) (logSync logDelay logAnnounce : Int) (annTimeout syncTimeout delayTimeout twoStep localPrio coastLimit maxPath delayOutlier offsetOutlier filterLen : Nat) (s : State) : Rep :=
  let prof := (s.instAhead inst).2.1
  let unicastOk := decide (if dest = 0 then addr = 0
    else transport ≠ 0 ∧ addr ≠ 0 ∧ (if transport = 1 then addr < 2 ^ 32 else addr < 2 ^ 128))
  let sum := decide (s.messageRate port inst logSync logDelay logAnnounce ≤ 65536 * 32)
  Rep.ranges [decide (port < 256), decide (inst < 6), decide (transport < 3 ∧ (inst < 4 ∧ prof = 3 → transport = 0)), decide (dest < 2),
      unicastOk, decide (-7 ≤ logSync ∧ logSync ≤ 1) && sum, decide (-7 ≤ logDelay ∧ logDelay ≤ 5),
      decide (-3 ≤ logAnnounce ∧ logAnnounce ≤ 4), decide (2 ≤ annTimeout ∧ annTimeout ≤ 255),
      decide (2 ≤ syncTimeout ∧ syncTimeout ≤ 255), decide (1 ≤ delayTimeout ∧ delayTimeout ≤ 255), decide (twoStep < 2),
      decide (1 ≤ localPrio ∧ localPrio ≤ 255), decide (secU ≤ coastLimit ∧ coastLimit ≤ 600 * secU),
      decide (usU ≤ maxPath ∧ maxPath ≤ 100 * msU), decide (6554 ≤ delayOutlier ∧ delayOutlier ≤ 100 * usU),
      decide (nsU ≤ offsetOutlier ∧ offsetOutlier ≤ secU), decide (1 ≤ filterLen ∧ filterLen ≤ 256)] <|
    let now := (s.portAhead port).1
    if (s.ports.get port).configured && (s.ports.get port).isSelvedge then Rep.badState
    else if now < 5 ∧ inst < 5 ∧ now ≠ inst then Rep.badState
    else s.pendPtp (.ptpConfigurePort .direct masterOnly port inst transport dest addr logSync logDelay logAnnounce annTimeout syncTimeout
      delayTimeout twoStep localPrio coastLimit maxPath delayOutlier offsetOutlier filterLen)

/-- What the own checks and effect of PTP_GET_INSTANCE come to (R238). -/
def bodyPtpGetInstance (inst : Nat) (s : State) : Rep :=
  Rep.ranges [decide (inst < 4)] <|
    let i := s.ptp.insts.get inst
    let own := s.ownSource inst
    let e := i.parent.getD own
    let states := (List.range 256).map fun p =>
      BitVec.ofNat 8 (if (s.ptp.ports.get p).inst = inst then (s.ptp.ports.get p).state.code else 0)
    .ok s [.u 8 i.identity, .u 8 e.clock, .u 8 e.gm, .u 1 e.clockClass, .u 2 (if i.parent.isSome then e.steps + 1 else 0),
      .u 2 (i.slavePort.getD 0xFFFF), .i 8 i.lastO, .i 8 i.rttF, .raw 1 states]

/-- What the own checks and effect of PTP_GET_PORT come to (R238). -/
def bodyPtpGetPort (clear : Bool) (port : Nat) (s : State) : Rep :=
  Rep.ranges [decide (port < 256)] <|
    let x := s.ptp.ports.get port
    .ok (if clear then s.updPtp port fun y => { y with counts := [] } else s)
      ([Fld.u 1 x.state.code, .i 8 x.rttF, .i 8 (s.asymOf port x.rttF)] ++
        (List.range 16).map fun k => Fld.u 4 (x.counts.get k))

/-- What the own checks and effect of PTP_CONFIGURE_TC come to (R220). -/
def bodyPtpConfigureTc (mode : Nat) (domains : BitVec 256) (s : State) : Rep :=
  Rep.ranges [decide (mode < 3)] <| s.pendPtp (.ptpConfigureTc .direct mode domains)

/-- Both ports can form a dual-colour pair: width 1, and both selvedge, or both of one instance (R235). -/
def State.pairable (s : State) (a b : Nat) : Bool :=
  let x := s.ports.get a
  let y := s.ports.get b
  x.configured && y.configured && decide (a ≠ b ∧ x.width = 1 ∧ y.width = 1) && (x.isSelvedge == y.isSelvedge) &&
    (x.isSelvedge || decide ((s.portAhead a).1 < 4 ∧ (s.portAhead a).1 = (s.portAhead b).1))

/-- What the own checks and effect of ASYM_CONFIGURE come to (R234). -/
def bodyAsymConfigure (port mode : Nat) (c alpha : Int) (partner lambdaOut lambdaIn : Nat) (k : Int) (avg qLimit coast agree : Nat) (s : State) : Rep :=
  let dual := decide (mode = 1)
  let y := s.asymAhead partner
  let lam (v : Nat) : Bool := if dual then decide (1260000 ≤ v ∧ v ≤ 1675000) else decide (v = 0)
  let apart := !dual || !(y.1 && decide (y.2.1 = port)) ||
    decide (2000 ≤ (((lambdaOut : Int) + lambdaIn) - ((y.2.2.1 : Int) + y.2.2.2)).natAbs)
  let whole (v lo hi : Nat) : Bool := if dual then decide (lo * secU ≤ v ∧ v ≤ hi * secU) else decide (v = 0)
  Rep.ranges [decide (port < 256), decide (mode < 2), decide (c.natAbs ≤ 100 * nsU), decide (-(2 ^ 31) ≤ alpha ∧ alpha < 2 ^ 31),
      decide (if mode = 1 then partner < 256 else partner = 0), lam lambdaOut && apart, lam lambdaIn,
      decide (if mode = 1 then k.natAbs ≤ 100 * nsU else k = 0), whole avg 1 3600,
      decide (if mode = 1 then 1 ≤ qLimit ∧ qLimit ≤ 100000 else qLimit = 0), whole coast 1 86400,
      decide (66 ≤ agree ∧ agree ≤ 100 * nsU)] <|
    if dual && (!s.pairable port partner || (y.1 && decide (y.2.1 ≠ port))) then Rep.badState
    else s.pendPtp (.asymConfigure .direct port mode c alpha partner lambdaOut lambdaIn k avg qLimit coast agree)

/-- What the own checks and effect of ASYM_GET come to (R238). -/
def bodyAsymGet (port : Nat) (s : State) : Rep :=
  Rep.ranges [decide (port < 256)] <|
    let x := s.ptp.asym.get port
    let rtt := s.pairRtt port
    .ok s [.u 1 (if x.dual then (if x.fallback then 2 else 1) else 0), .i 8 (s.asymOf port rtt), .i 8 x.qF, .u 4 x.qs.length,
      .u 4 x.discards, .u 8 (cyclesU (s.now - x.lastAccept : Nat)).toNat]

/-- PTP_CONFIGURE_INSTANCE (R238): Configures a PTP instance's profile, domain, identity and priorities. -/
def execPtpConfigureInstance (src : CmdSrc) (enable slaveOnly : Bool) (inst profile domain : Nat) (identity : List Byte) (prio1 prio2 localPrio : Nat) (s : State) : Out :=
  .next (s.runCmd (.ptpConfigureInstance src enable slaveOnly inst profile domain identity prio1 prio2 localPrio) src 0x0610 (bodyPtpConfigureInstance enable slaveOnly inst profile domain identity prio1 prio2 localPrio))

/-- PTP_CONFIGURE_PORT (R238): Configures a port's PTP instance, transport, intervals, limits and filter. -/
def execPtpConfigurePort (src : CmdSrc) (masterOnly : Bool) (port inst transport dest addr : Nat) (logSync logDelay logAnnounce : Int) (annTimeout syncTimeout delayTimeout twoStep localPrio coastLimit maxPath delayOutlier offsetOutlier filterLen : Nat) (s : State) : Out :=
  .next (s.runCmd (.ptpConfigurePort src masterOnly port inst transport dest addr logSync logDelay logAnnounce annTimeout syncTimeout delayTimeout twoStep localPrio coastLimit maxPath delayOutlier offsetOutlier filterLen) src 0x0611 (bodyPtpConfigurePort masterOnly port inst transport dest addr logSync logDelay logAnnounce annTimeout syncTimeout delayTimeout twoStep localPrio coastLimit maxPath delayOutlier offsetOutlier filterLen))

/-- PTP_GET_INSTANCE (R238): Returns a PTP instance's identities, parent, offset and port states. -/
def execPtpGetInstance (src : CmdSrc) (inst : Nat) (s : State) : Out :=
  .next (s.runCmd (.ptpGetInstance src inst) src 0x0612 (bodyPtpGetInstance inst))

/-- PTP_GET_PORT (R238): Returns a PTP port's state, delay, asymmetry and counts. -/
def execPtpGetPort (src : CmdSrc) (clear : Bool) (port : Nat) (s : State) : Out :=
  .next (s.runCmd (.ptpGetPort src clear port) src 0x0613 (bodyPtpGetPort clear port))

/-- PTP_CONFIGURE_TC (R220): Sets the transparent-clock mode and domains. -/
def execPtpConfigureTc (src : CmdSrc) (mode : Nat) (domains : BitVec 256) (s : State) : Out :=
  .next (s.runCmd (.ptpConfigureTc src mode domains) src 0x0614 (bodyPtpConfigureTc mode domains))

/-- ASYM_CONFIGURE (R234): Sets a port's asymmetry mode and parameters. -/
def execAsymConfigure (src : CmdSrc) (port mode : Nat) (c alpha : Int) (partner lambdaOut lambdaIn : Nat) (k : Int) (avg qLimit coast agree : Nat) (s : State) : Out :=
  .next (s.runCmd (.asymConfigure src port mode c alpha partner lambdaOut lambdaIn k avg qLimit coast agree) src 0x0620 (bodyAsymConfigure port mode c alpha partner lambdaOut lambdaIn k avg qLimit coast agree))

/-- ASYM_GET (R238): Returns a port's asymmetry mode in use, asym and dual-colour state. -/
def execAsymGet (src : CmdSrc) (port : Nat) (s : State) : Out :=
  .next (s.runCmd (.asymGet src port) src 0x0621 (bodyAsymGet port))


end Sys2Proof.Machine
end

