-- ==== Sys2Proof/Machine/Boundary.lean ====
section
/-!
DEFINITION. The lane-window boundary (R120, R163, R183, R227, R235, R253, R268).
-/
namespace Sys2Proof.Machine

/-- The machine-clock channels take the gauge's build-outs and fit their windows, and the MCLK outputs are corrected (R253, R257,
R268). -/
def State.clockBoundary (s : State) (commits : List (Nat × Int)) : State :=
  let s1 := commits.foldl (fun (s : State) c => s.mcCommit c.1 c.2) s
  let s2 := (List.range 4).foldl State.mcBoundary s1
  (List.range 4).foldl State.mclkBoundary s2

/-- The work of the lane-window boundary at TICK `t`, in order: the PTP, servo and asymmetry configurations that wait (R238); the
lane engines (R121); the gauge commits (R139); references and DPLL (R163); dual-colour samples (R235); the servo's source (R227);
the timescale and what follows it (R183, R173 to R175); the machine clocks; the window length (R120). -/
def State.boundary (s : State) (t : Nat) : State :=
  let s1 := s.ptpBoundary.closeLaneWindows
  let g := s1.gaugeCommit
  let s2 := ((g.1.refBoundary t g.2).dualBoundary).servoChoose
  let a := s2.timeBoundary t
  ((a.s.outputsFollow a).clockBoundary g.2).applyLaneWin t

/-- LANE_WINDOW_BOUNDARY (R163): At each lane-window boundary measurements are published, gauge commits, switches, slot states, selection, the DPLL update and timescale segments are processed. -/
def execLaneWindowBoundary (s : State) : Out :=
  if !s.time.tickOn then .next s
  else
    let t := s.nextBoundary s.tick
    .next ((s.advanceTick t).boundary t)

end Sys2Proof.Machine
end

