-- ==== Sys2Proof/Machine/Parse.lean ====
section
/-!
DEFINITION. The parse window: the header walk, its exceptions and the ACL key (R273 to R278, R287, R288), and the commands of the
parser, the ACL, the class maps and steering (R283, R289, R292, R294, R295, R298).
-/
namespace Sys2Proof.Machine

/-! ## Bytes of a frame -/

/-- Byte `i` of a frame, 0 where it is absent. -/
def fb (b : List Byte) (i : Nat) : Nat := (b.getD i 0).toNat
/-- The big-endian value of the two bytes at `i`. -/
def fb2 (b : List Byte) (i : Nat) : Nat := fb b i * 256 + fb b (i + 1)
/-- The big-endian value of `n` bytes at `i` (R9). -/
def fbn (b : List Byte) (i n : Nat) : Nat := ofBe (slice b i n)

/-! ## The header walk (R274 to R278) -/

/-- The headers of R274. -/
inductive Hdr where
  | eth | ctag | stag | pair | ipv4 | ipv6 | ext | frag | udp | tcp | icmp | bth | ptp | arp | macControl | slowProto | lldp
deriving DecidableEq, Repr, Inhabited

/-- What the walk reads: the window, the bytes before the FCS as far as they are known, whether the frame is shorter than the
window, and the pair-tag EtherType. -/
structure WalkCtx where
  b : List Byte
  lim : Nat
  short : Bool
  pairType : Nat
deriving DecidableEq, Repr, Inhabited

/-- The length of a header's fixed part. -/
def Hdr.fixed : Hdr → Nat
  | .eth => 14 | .ctag => 4 | .stag => 4 | .pair => 8 | .ipv4 => 20 | .ipv6 => 40 | .ext => 8 | .frag => 8 | .udp => 8 | .tcp => 20
  | .icmp => 4 | .bth => 12 | .ptp => 34 | .arp => 28 | .macControl => 4 | .slowProto => 1 | .lldp => 0

/-- The length of a header at `a`, from its length field where it has one within the frame (R276). -/
def WalkCtx.len (c : WalkCtx) (h : Hdr) (a : Nat) : Nat :=
  match h with
  | .ipv4 => if a < c.lim then 4 * (fb c.b a % 16) else 20
  | .ext => if a + 1 < c.lim then 8 * (fb c.b (a + 1) + 1) else 8
  | .tcp => if a + 12 < c.lim then 4 * (fb c.b (a + 12) / 16) else 20
  | _ => h.fixed

/-- The header that an EtherType names after header `prev` (R274). -/
def WalkCtx.afterEther (c : WalkCtx) (prev : Hdr) (et : Nat) : Option Hdr :=
  if et = 0x8100 then some .ctag
  else if et = 0x88A8 then (if prev = .eth ∨ prev = .pair then some .stag else none)
  else if et = c.pairType then (if prev = .pair then none else some .pair)
  else if et = 0x0800 then some .ipv4
  else if et = 0x86DD then some .ipv6
  else if et = 0x88F7 then some .ptp
  else if et = 0x0806 then some .arp
  else if prev ≠ .eth then none
  else if et = 0x8808 then some .macControl
  else if et = 0x8809 then some .slowProto
  else if et = 0x88CC then some .lldp
  else none

/-- The header that a Protocol or Next Header value names (R274). -/
def afterProto (v6 : Bool) (n : Nat) : Option Hdr :=
  if n = 17 then some .udp
  else if n = 6 then some .tcp
  else if v6 && decide (n = 58) then some .icmp
  else if !v6 && decide (n = 1) then some .icmp
  else if v6 && decide (n = 0 ∨ n = 43 ∨ n = 60) then some .ext
  else if v6 && decide (n = 44) then some .frag
  else none

/-- The sum of 16-bit words, folded to 16 bits. -/
def onesSum (b : List Byte) (a n : Nat) : Nat :=
  let t := (List.range (n / 2)).foldl (fun x i => x + fb2 b (a + 2 * i)) 0
  let u := t % 65536 + t / 65536
  u % 65536 + u / 65536

/-- PARSE_DEPTH (R276): the 11th header, a third VLAN tag or a second pair tag, or a header that would end beyond byte 256; a frame
shorter than the window meets it only by a count. -/
def WalkCtx.depth (c : WalkCtx) (p : Parsed) (h : Hdr) (a : Nat) : Bool :=
  decide (10 ≤ p.count) || (decide (h = .ctag ∨ h = .stag) && decide (2 ≤ p.tags.length)) || (decide (h = .pair) && p.pairAt.isSome) ||
    (!c.short && decide (256 < a + h.fixed ∨ 256 < a + c.len h a))

/-- HDR_MALFORMED (R277, R387), judged on bytes before the FCS. -/
def WalkCtx.malformed (c : WalkCtx) (h : Hdr) (a : Nat) : Bool :=
  match h with
  | .ipv4 =>
    let n := c.len .ipv4 a
    decide (a < c.lim) && (decide (fb c.b a / 16 ≠ 4 ∨ n < 20) || (decide (a + n ≤ c.lim) && decide (onesSum c.b a n ≠ 65535)))
  | .ipv6 => decide (a < c.lim ∧ fb c.b a / 16 ≠ 6)
  | .tcp => decide (a + 12 < c.lim ∧ c.len .tcp a < 20)
  | .pair =>
    let id := fb2 c.b (a + 1)
    decide (a < c.lim ∧ fb c.b a / 16 ≠ 1) || decide (a + 2 < c.lim ∧ (id = 0 ∨ id = 65535))
  | _ => false

/-- LEN_CONFLICT (R278). -/
def WalkCtx.conflict (c : WalkCtx) (p : Parsed) (h : Hdr) (a : Nat) : Bool :=
  let n := c.len h a
  decide (c.lim < a + n) ||
    match h with
    | .ipv4 => decide (fb2 c.b (a + 2) < n)
    | .ipv6 => decide (fb2 c.b (a + 4) = 0)
    | .ext => decide (p.l3Len < a + n - p.l3At.getD 0)
    | .frag => decide (p.l3Len < a + n - p.l3At.getD 0)
    | .udp => decide (fb2 c.b (a + 4) < 8 ∨ p.l3Len - p.l3Hdr < fb2 c.b (a + 4))
    | .tcp => decide (p.l3Len - p.l3Hdr < n)
    | .bth => decide (fb2 c.b (a - 4) < 24)
    | _ => false

/-- What a header without exception adds to the parse result, and the header after it (R274, R275). -/
def WalkCtx.take (c : WalkCtx) (p : Parsed) (h : Hdr) (a : Nat) : Parsed × Option Hdr :=
  let n := c.len h a
  let q := { p with count := p.count + 1 }
  match h with
  | .eth => let et := fb2 c.b 12; ({ q with etherType := et }, c.afterEther .eth et)
  | .ctag => let et := fb2 c.b (a + 2); ({ q with tags := q.tags ++ [(a, p.etherType, fb2 c.b a)], etherType := et }, c.afterEther .ctag et)
  | .stag => let et := fb2 c.b (a + 2); ({ q with tags := q.tags ++ [(a, p.etherType, fb2 c.b a)], etherType := et }, c.afterEther .stag et)
  | .pair => let et := fb2 c.b (a + 6); ({ q with pairAt := some a, etherType := et }, c.afterEther .pair et)
  | .ipv4 =>
    let pr := fb c.b (a + 9)
    let fr := decide (fb2 c.b (a + 6) % 16384 ≠ 0)
    ({ q with l3At := some a, l3Len := fb2 c.b (a + 2), l3Hdr := n, proto := pr, frag := fr }, if fr then none else afterProto false pr)
  | .ipv6 =>
    let pr := fb c.b (a + 6)
    ({ q with l3At := some a, v6 := true, l3Len := 40 + fb2 c.b (a + 4), l3Hdr := 40, proto := pr }, afterProto true pr)
  | .ext => let pr := fb c.b a; ({ q with l3Hdr := p.l3Hdr + n, proto := pr }, afterProto true pr)
  | .frag => ({ q with l3Hdr := p.l3Hdr + n, proto := fb c.b a, frag := true }, none)
  | .udp =>
    let d := fb2 c.b (a + 2)
    ({ q with l4At := some a, l4 := 1, payAt := some (a + 8) }, if d = 4791 then some .bth else if d = 319 ∨ d = 320 then some .ptp else none)
  | .tcp => ({ q with l4At := some a, l4 := 2, payAt := some (a + n) }, none)
  | .icmp => ({ q with l4At := some a, l4 := 3 }, none)
  | .bth => ({ q with l4 := 4, bthEnd := some (a + 12) }, none)
  | .ptp => ({ q with ptpAt := some a }, none)
  | .lldp => ({ q with lldp := true }, none)
  | .arp => (q, none)
  | .macControl => (q, none)
  | .slowProto => (q, none)

/-- The walk from header `h` at `a`: the parse result and the exception that ended it: 0 none, 1 PARSE_DEPTH, 2 HDR_MALFORMED,
3 LEN_CONFLICT (R275, R276). At most 11 headers are looked at. -/
def WalkCtx.walk (c : WalkCtx) : Nat → Parsed → Hdr → Nat → Parsed × Nat
  | 0, p, _, _ => (p, 0)
  | k + 1, p, h, a =>
    if c.depth p h a then (p, 1)
    else if c.malformed h a then (p, 2)
    else if c.conflict p h a then (p, 3)
    else
      match c.take p h a with
      | (q, none) => (q, 0)
      | (q, some g) => c.walk k q g (a + c.len h a)

/-- The walk over a window; `ended` says that the bytes are the whole frame with its FCS. -/
def State.walkFrame (s : State) (b : List Byte) (ended : Bool) : Parsed × Nat :=
  let c : WalkCtx := {
    b := b, lim := if ended && decide (b.length ≤ 256) then b.length - 4 else 256, short := ended && decide (b.length < 256), pairType := s.pair.cfg.etherType }
  c.walk 11 {} .eth 0

/-! ## Extraction and the key (R287, R288) -/

/-- Extractor `x` on a frame: its field, where it is valid (R287). -/
def Extractor.field (x : Extractor) (p : Parsed) (b : List Byte) (lim : Nat) : Option Nat :=
  let l4Start := if p.l4 = 1 ∨ p.l4 = 2 ∨ p.l4 = 4 then p.l4At else none
  let cond := match x.cond with
    | 0 => true
    | 1 => decide (p.l4 = 1 ∨ p.l4 = 4)
    | 2 => decide (p.l4 = 2)
    | _ => p.bthEnd.isSome
  let anchor := match x.anchor with
    | 0 => some 0
    | 1 => p.l3At
    | 2 => l4Start
    | 3 => p.payAt
    | _ => p.bthEnd
  match anchor with
  | some a => if x.enable && cond && decide (a + x.offset + x.width ≤ min lim 256) then some (fbn b (a + x.offset) x.width) else none
  | none => none

/-- The low bit of each field of the key, in key order (R288). -/
def keyOf (port : Nat) (p : Parsed) (b : List Byte) (u0 u1 : Option Nat) : BitVec 640 :=
  let a := p.l3At.getD 0
  let l := p.l4At.getD 0
  let l3 := p.l3At.isSome
  let t (k : Nat) : Nat := match p.tags[k]? with | some x => x.2.2 | none => 0
  let ports := decide (p.l4 = 1 ∨ p.l4 = 2 ∨ p.l4 = 4)
  let opt (c : Bool) (v : Nat) : Nat := if c then v else 0
  let fields : List (Nat × Nat) := [
    (632, port), (630, if l3 then (if p.v6 then 2 else 1) else 0), (627, p.l4), (626, opt p.frag 1), (624, p.tags.length),
    (608, t 0), (592, t 1), (576, p.etherType), (528, fbn b 0 6), (480, fbn b 6 6),
    (352, opt l3 (if p.v6 then fbn b (a + 8) 16 else fbn b (a + 12) 4)),
    (224, opt l3 (if p.v6 then fbn b (a + 24) 16 else fbn b (a + 16) 4)),
    (216, p.proto), (208, opt l3 (if p.v6 then fb2 b a / 16 % 256 else fb b (a + 1))),
    (200, opt l3 (if p.v6 then fb b (a + 7) else fb b (a + 8))), (180, opt p.v6 (fbn b a 4 % 2 ^ 20)), (164, p.l3Len % 65536),
    (148, opt ports (fb2 b l)), (132, opt ports (fb2 b (l + 2))), (124, opt (decide (p.l4 = 2)) (fb b (l + 13))),
    (100, match p.bthEnd with | some e => fbn b (e - 7) 3 | none => 0), (84, match p.pairAt with | some q => fb2 b (q + 1) | none => 0),
    (52, u0.getD 0), (20, u1.getD 0), (19, opt p.pairAt.isSome 1), (18, opt u0.isSome 1), (17, opt u1.isSome 1)]
  BitVec.ofNat 640 (fields.foldl (fun n f => n + f.2 * 2 ^ f.1) 0)

/-- A field of a key: `w` bits from bit `lo`. -/
def keyField (k : BitVec 640) (lo w : Nat) : Nat := k.toNat / 2 ^ lo % 2 ^ w

/-- The parse result of a frame of port `p`, with its key, and its exception. -/
def State.parseFrame (s : State) (p : Nat) (b : List Byte) (ended : Bool) : Parsed × Nat :=
  let r := s.walkFrame b ended
  if r.2 ≠ 0 then r
  else
    let lim := if ended && decide (b.length ≤ 256) then b.length - 4 else 256
    let xp := (s.parse.ports.get p).profile
    let u0 := (s.parse.extract.get (2 * xp)).field r.1 b lim
    let u1 := (s.parse.extract.get (2 * xp + 1)).field r.1 b lim
    ({ r.1 with key := keyOf p r.1 b u0 u1 }, 0)

/-! ## Access control and classes (R289 to R292, R319) -/

/-- Whether an entry matches a key: a LOST entry matches everything if it excludes traffic, and nothing if it passes it (R289, R319). -/
def AclEntry.hitBy (e : AclEntry) (k : BitVec 640) : Bool :=
  if e.lost then decide (e.act.kind ≠ 0) else (k ^^^ e.value) &&& e.mask == 0

/-- The lowest-numbered matching entry (R289). -/
def State.aclLookup (s : State) (k : BitVec 640) : Option (Nat × AclEntry) := s.parse.acl.find? fun x => x.2.hitBy k

/-- Entry `p` of PCP map `m` (R292). -/
def Parse.pcpClass (x : Parse) (m p : Nat) : Nat := match x.pcp.find (8 * m + p) with | some c => c | none => p
/-- Entry `d` of DSCP map `m` (R292). -/
def Parse.dscpClass (x : Parse) (m d : Nat) : Nat := match x.dscp.find (64 * m + d) with | some c => c | none => d / 8

/-- The class of a frame of port `p` (R292): the steering entry's, the ACL's, the maps' or the port's. -/
def State.classOf (s : State) (p : Nat) (k : BitVec 640) (steer acl : Option Nat) : Nat :=
  let x := s.parse.ports.get p
  match steer, acl with
  | some c, _ => c
  | none, some c => c
  | none, none =>
    if x.trustDscp && decide (1 ≤ keyField k 630 2 ∧ keyField k 630 2 ≤ 2) then s.parse.dscpClass x.dscpMap (keyField k 210 6)
    else if x.trustPcp && decide (1 ≤ keyField k 624 2) then s.parse.pcpClass x.pcpMap (keyField k 621 3)
    else x.defClass

/-! ## Steering (R293 to R295) -/

/-- CRC-32C, not reflected, without final XOR (R294). -/
def crc32c (seed : Nat) (l : List Byte) : Nat := crcOver 32 0x1EDC6F41 seed l

/-- The fields that HASH may select: bit in the key, width in bits and bytes fed, in key order. -/
def hashFields : List (Nat × Nat × Nat) :=
  [(632, 8, 1), (608, 12, 2), (576, 16, 2), (528, 48, 6), (480, 48, 6), (352, 128, 16), (224, 128, 16), (216, 8, 1), (180, 20, 3),
    (148, 16, 2), (132, 16, 2), (100, 24, 3), (52, 32, 4), (20, 32, 4)]

/-- What HASH feeds for field `i` of a key: with SYMMETRIC, the addresses and the ports in ascending order where both of a pair are
selected. -/
def SteerProf.fed (x : SteerProf) (k : BitVec 640) (i : Nat) : List Byte :=
  let get (j : Nat) : Nat := match hashFields[j]? with | some f => keyField k f.1 f.2.1 | none => 0
  let swap (a b : Nat) : Bool := x.symmetric && x.fields.getLsbD a && x.fields.getLsbD b && decide (get b < get a)
  let v := if i = 5 ∧ swap 5 6 then get 6 else if i = 6 ∧ swap 5 6 then get 5
    else if i = 9 ∧ swap 9 10 then get 10 else if i = 10 ∧ swap 9 10 then get 9 else get i
  match hashFields[i]? with | some f => beBytes f.2.2 v | none => []

/-- The index that HASH gives (R294). -/
def SteerProf.hash (x : SteerProf) (k : BitVec 640) : Nat :=
  let l := ((List.range 14).filter fun i => x.fields.getLsbD i).flatMap (x.fed k)
  let h := crc32c x.seed.toNat l
  (h ^^^ (h / 4096) ^^^ (h / 16777216)) % 4096

/-- The field that DIRECT reads, where it is present: USER0, USER1, BTH_DQP, L4_SRC or L4_DST. -/
def SteerProf.direct? (x : SteerProf) (k : BitVec 640) : Option Nat :=
  let l4 := keyField k 627 3
  match x.field with
  | 0 => if keyField k 18 1 = 1 then some (keyField k 52 32) else none
  | 1 => if keyField k 17 1 = 1 then some (keyField k 20 32) else none
  | 2 => if l4 = 4 then some (keyField k 100 24) else none
  | 3 => if l4 = 1 ∨ l4 = 2 ∨ l4 = 4 then some (keyField k 148 16) else none
  | _ => if l4 = 1 ∨ l4 = 2 ∨ l4 = 4 then some (keyField k 132 16) else none

/-- What steering by a profile comes to (R294): an index, with a flag for an absent field; or the slow path. -/
def SteerProf.index (x : SteerProf) (k : BitVec 640) : Option (Nat × Bool) :=
  if !x.direct then some (x.hash k, false)
  else
    match x.direct? k with
    | some v => some ((v / 2 ^ x.sh) % x.m + x.b, false)
    | none => if x.absentSlow then none else some (x.b, true)

/-! ## The slow path's admission (R283) -/

/-- The rate and burst of a reason that has not been configured. -/
def slowDefault (r : Nat) : Nat × Nat := if r = 4 ∨ r = 5 ∨ r = 6 then (1000, 64) else (10000, 256)

/-- Rate of a policer. -/
def Policer.rateOf (x : Policer) (r : Nat) : Nat := x.rate.getD (slowDefault r).1
/-- Burst of a policer. -/
def Policer.burstOf (x : Policer) (r : Nat) : Nat := x.burst.getD (slowDefault r).2

/-- The level of reason `r` now, in frames times a second of CORE cycles. -/
def Policer.levelNow (x : Policer) (r now : Nat) : Nat :=
  min (x.burstOf r * secC) (x.level.getD (x.burstOf r * secC) + (now - x.at_) * x.rateOf r)

/-- SLOW_DROP for reason `r`, at most once per second (R299). -/
def State.slowDrop (s : State) (r : Nat) : State :=
  if mayRaise (s.parse.policers.get r).dropAt s.now secC then
    ({ s with parse := { s.parse with policers := s.parse.policers.upd r fun x => { x with dropAt := some s.now } } }).raise 825
      Ev.slowDrop [.u 2 r]
  else s

/-- A frame of `cells` cells asks for the slow path under reason `r`: policed and held in the reserve, or dropped and counted. The
flag says that it is held. -/
def State.slowAdmit (s : State) (r cells : Nat) : State × Bool :=
  let x := s.parse.policers.get r
  let l := x.levelNow r s.now
  let set (v : Nat) : State :=
    { s with parse := { s.parse with policers := s.parse.policers.upd r fun y => { y with level := some v, at_ := s.now } } }
  if l < secC then (((set l).count (deviceCtr (0x20 * r + 8)) 1).slowDrop r, false)
  else if 4096 < s.parse.reserve + cells then (((set (l - secC)).count (deviceCtr (0x20 * r + 16)) 1).slowDrop r, false)
  else
    let s1 := set (l - secC)
    ({ s1 with parse := { s1.parse with reserve := s1.parse.reserve + cells } }, true)

/-! ## Commands (R298) -/

/-- The parser's state changed by `f`. -/
def State.updParser (s : State) (f : Parse → Parse) : State := { s with parse := f s.parse }

/-- What the own checks and effect of PARSE_CONFIGURE_PORT come to (R279). -/
def bodyParseConfigurePort (trustPcp trustDscp : Bool) (port malformed lenConflict profile pcpMap dscpMap defClass : Nat) (s : State) : Rep :=
  Rep.ranges [decide (port < 256), decide (malformed < 2), decide (lenConflict < 2), decide (profile < 16), decide (pcpMap < 8),
      decide (dscpMap < 8), decide (defClass < 8)] <|
    .ok (s.updParse port fun x => { x with
      malSlow := decide (malformed = 0), lenSlow := decide (lenConflict = 0), profile := profile, trustPcp := trustPcp
      trustDscp := trustDscp, pcpMap := pcpMap, dscpMap := dscpMap, defClass := defClass }) []

/-- What the own checks and effect of PARSE_CONFIGURE_EXTRACT come to (R287). -/
def bodyParseConfigureExtract (enable0 enable1 : Bool) (profile cond0 anchor0 offset0 width0 cond1 anchor1 offset1 width1 : Nat) (s : State) : Rep :=
  Rep.ranges [decide (profile < 16), decide (cond0 < 4), decide (anchor0 < 5), decide (offset0 < 256), decide (1 ≤ width0 ∧ width0 ≤ 4),
      decide (cond1 < 4), decide (anchor1 < 5), decide (offset1 < 256), decide (1 ≤ width1 ∧ width1 ≤ 4)] <|
    let e0 : Extractor := { enable := enable0, cond := cond0, anchor := anchor0, offset := offset0, width := width0 }
    let e1 : Extractor := { enable := enable1, cond := cond1, anchor := anchor1, offset := offset1, width := width1 }
    .ok (s.updParser fun x => { x with extract := (x.extract.set (2 * profile) e0).set (2 * profile + 1) e1 }) []

/-- The ACL staging buffer that a command uses: that of its mailbox, of the overlay or of the CONFIG section it stands in (R298, R427). -/
def State.aclStaged (s : State) : CmdSrc → Tbl (List Byte)
  | .overlay n => (s.fw.overlays.get n).aclStage
  | .config => s.fw.cfgAclStage
  | src => (s.mbs.get (srcMb src)).aclStage

/-- That buffer is replaced. -/
def State.setAclStage (s : State) (src : CmdSrc) (t : Tbl (List Byte)) : State :=
  match src with
  | .overlay n => { s with fw := { s.fw with overlays := s.fw.overlays.upd n fun o => { o with aclStage := t } } }
  | .config => { s with fw := { s.fw with cfgAclStage := t } }
  | src => s.updMb (srcMb src) fun x => { x with aclStage := t }

/-- The member staging buffer that a command uses (R315, R427). -/
def State.memStaged (s : State) : CmdSrc → Tbl Member
  | .overlay n => (s.fw.overlays.get n).memStage
  | .config => s.fw.cfgMemStage
  | src => (s.mbs.get (srcMb src)).memStage

/-- That buffer is replaced. -/
def State.setMemStage (s : State) (src : CmdSrc) (t : Tbl Member) : State :=
  match src with
  | .overlay n => { s with fw := { s.fw with overlays := s.fw.overlays.upd n fun o => { o with memStage := t } } }
  | .config => { s with fw := { s.fw with cfgMemStage := t } }
  | src => s.updMb (srcMb src) fun x => { x with memStage := t }

/-- What the own checks and effect of ACL_STAGE come to (R298). -/
def bodyAclStage (src : CmdSrc) (part : Nat) (bytes : List Byte) (s : State) : Rep :=
  Rep.ranges [decide (part < 4), true] <|
    .ok (s.setAclStage src ((s.aclStaged src).set part bytes)) []

/-- The modifiers of an action are ones that R291 allows. -/
def aclActionOk (copy setClass steer redirect : Bool) (kind : Nat) : Bool :=
  if kind = 0 then !(steer && redirect) else !(copy || setClass || steer || redirect)

/-- A staged entry is legal: no RSV bit in its mask, no value bit that the mask clears (R289). -/
def aclBitsOk (value mask : BitVec 640) : Bool := mask.toNat % 131072 = 0 && (value &&& ~~~mask) == 0

/-- What the own checks and effect of ACL_COMMIT come to (R289). -/
def bodyAclCommit (src : CmdSrc) (copy capture setClass steer redirect : Bool) (entry kind tc profile port : Nat) (s : State) : Rep :=
  let st := s.aclStaged src
  let part (k : Nat) : List Byte := padTo 40 (st.get k)
  let value := BitVec.ofNat 640 (ofBe (part 0 ++ part 1))
  let mask := BitVec.ofNat 640 (ofBe (part 2 ++ part 3))
  let full := (List.range 4).all fun k => st.has k
  let flagsOk := aclActionOk copy setClass steer redirect kind
  if !flagsOk then Rep.flags
  else
    Rep.ranges [decide (entry < 32768) && (!full || aclBitsOk value mask), decide (kind < 3),
        decide (if setClass then tc < 8 else tc = 0), decide (if steer then profile < 64 else profile = 0),
        decide (if redirect then port < 256 else port = 0)] <|
      if !full then Rep.badState
      else
        let act : AclAction := {
          kind := kind, copy := copy, capture := capture, cls := if setClass then some tc else none
          steer := if steer then some profile else none, redirect := if redirect then some port else none }
        .ok ((s.updParser fun x => { x with acl := x.acl.set entry { value := value, mask := mask, act := act } }).setAclStage src []) []

/-- What the own checks and effect of ACL_DELETE come to (R298). -/
def bodyAclDelete (entry : Nat) (s : State) : Rep :=
  Rep.ranges [decide (entry < 32768)] <| .ok (s.updParser fun x => { x with acl := x.acl.del entry }) []

/-- What the own checks and effect of ACL_READ come to (R298). -/
def bodyAclRead (clear : Bool) (entry part : Nat) (s : State) : Rep :=
  Rep.ranges [decide (entry < 32768), decide (part < 4)] <|
    match s.parse.acl.find entry with
    | none => Rep.badState
    | some e =>
      let v := if part < 2 then e.value else e.mask
      let bytes := slice (beBytes 80 v.toNat) (40 * (part % 2)) 40
      let a := e.act
      let fl := flag a.copy 1 + flag a.capture 2 + flag a.cls.isSome 4 + flag a.steer.isSome 8 + flag a.redirect.isSome 16
      .ok (if clear then s.updParser fun x => { x with acl := x.acl.set entry { e with hits := 0 } } else s)
        [.raw 1 bytes, .u 1 a.kind, .u 1 fl, .u 2 (a.cls.getD 0), .u 2 (a.steer.getD 0), .u 2 (a.redirect.getD 0), .u 8 e.hits]

/-- What the own checks and effect of STEER_CONFIGURE_PROFILE come to (R294). -/
def bodySteerConfigureProfile (symmetric : Bool) (profile mode fields seed field sh m b absent : Nat) (s : State) : Rep :=
  let direct := decide (mode = 1)
  if symmetric && direct then Rep.flags
  else
    Rep.ranges [decide (profile < 64), decide (mode < 2), decide (if mode = 1 then fields = 0 else fields < 16384),
        decide (mode = 0 ∨ seed = 0), decide (if mode = 1 then field < 5 else field = 0), decide (if mode = 1 then sh < 32 else sh = 0),
        decide (if mode = 1 then 1 ≤ m ∧ m ≤ 4096 else m = 0), decide (if mode = 1 then b + m ≤ 4096 ∧ b ≤ 4095 else b = 0),
        decide (if mode = 1 then absent < 2 else absent = 0)] <|
      .ok (s.updParser fun x => { x with steer := x.steer.upd profile fun y =>
        if direct then { y with direct := true, field := field, sh := sh, m := m, b := b, absentSlow := decide (absent = 1) }
        else { y with direct := false, fields := BitVec.ofNat 14 fields, seed := BitVec.ofNat 32 seed, symmetric := symmetric } }) []

/-- An indirection entry is legal: KIND 0 to 2, RSV 0 (R295). -/
def indOk (v : Nat) : Bool := decide (v / 2 ^ 28 % 8 < 3 ∧ v % 65536 = 0)

/-- Entries `l` of table `t` from index `first` on are written in one cycle (R296). -/
def Parse.writeInd (x : Parse) (t first : Nat) (l : List Nat) : Parse :=
  { x with ind := (l.zipIdx).foldl (fun m e =>
    if e.1 = 0 then m.del (4096 * t + first + e.2) else m.set (4096 * t + first + e.2) (BitVec.ofNat 32 e.1)) x.ind }

/-- What the own checks and effect of STEER_WRITE come to (R296). -/
def bodySteerWrite (table first count : Nat) (entries : List Nat) (s : State) : Rep :=
  Rep.ranges [decide (table < 64), decide (first < 4096), decide (1 ≤ count ∧ count ≤ 12 ∧ first + count ≤ 4096),
      decide (entries.length = count) && entries.all indOk] <|
    .ok (s.updParser fun x => x.writeInd table first entries) []

/-- What the own checks and effect of STEER_READ come to (R298). -/
def bodySteerRead (table first count : Nat) (s : State) : Rep :=
  Rep.ranges [decide (table < 64), decide (first < 4096), decide (1 ≤ count ∧ count ≤ 12 ∧ first + count ≤ 4096)] <|
    .ok s ((List.range count).map fun i => Fld.u 4 (s.parse.ind.get (4096 * table + first + i)).toNat)

/-- What the own checks and effect of SLOW_CONFIGURE come to (R283). -/
def bodySlowConfigure (reason rate burst : Nat) (s : State) : Rep :=
  Rep.ranges [decide (1 ≤ reason ∧ reason ≤ 15), decide (rate ≤ 1000000), decide (1 ≤ burst ∧ burst ≤ 4096)] <|
    .ok (s.updParser fun x => { x with policers := x.policers.upd reason fun y =>
      { y with rate := some rate, burst := some burst, level := some (min (y.levelNow reason s.now) (burst * secC)), at_ := s.now } }) []

/-- The BAR2 counters that PARSE_GET_COUNTS returns: those of the port, then SLOW_DELIVERED, SLOW_POLICED and SLOW_FULL of each reason. -/
def parseCounters (p : Nat) : List Nat :=
  ((List.range 9).map fun i => portCtr p (0x70 + 8 * i)) ++
    (List.range 15).flatMap fun r => (List.range 3).map fun i => deviceCtr (0x20 * (r + 1) + 8 * i)

/-- What the own checks and effect of PARSE_GET_COUNTS come to (R298). -/
def bodyParseGetCounts (clear : Bool) (port : Nat) (s : State) : Rep :=
  Rep.ranges [decide (port < 256)] <|
    let l := parseCounters port
    .ok (if clear then (s.rebaseAll l).updParse port fun x => { x with excSeen := false } else s) (l.map fun o => Fld.u 8 (s.sinceBase clear o))

/-- What the own checks and effect of CLASS_SET_MAP come to (R292). -/
def bodyClassSetMap (kind map first count : Nat) (classes : List Nat) (s : State) : Rep :=
  let n := if kind = 0 then 8 else 64
  Rep.ranges [decide (kind < 2), decide (map < 8), decide (first < n), decide (1 ≤ count ∧ first + count ≤ n),
      decide (classes.length = count) && classes.all fun c => decide (c < 8)] <|
    .ok (s.updParser fun x =>
      let put (t : Tbl Nat) : Tbl Nat := (classes.zipIdx).foldl (fun t c => t.set (n * map + first + c.2) c.1) t
      if kind = 0 then { x with pcp := put x.pcp } else { x with dscp := put x.dscp }) []

/-- PARSE_CONFIGURE_PORT (R279): Sets a port's exception actions, extraction profile and class mapping. -/
def execParseConfigurePort (src : CmdSrc) (trustPcp trustDscp : Bool) (port malformed lenConflict profile pcpMap dscpMap defClass : Nat) (s : State) : Out :=
  .next (s.runCmd (.parseConfigurePort src trustPcp trustDscp port malformed lenConflict profile pcpMap dscpMap defClass) src 0x0420 (bodyParseConfigurePort trustPcp trustDscp port malformed lenConflict profile pcpMap dscpMap defClass))

/-- PARSE_CONFIGURE_EXTRACT (R287): Sets the two extractors of an extraction profile. -/
def execParseConfigureExtract (src : CmdSrc) (enable0 enable1 : Bool) (profile cond0 anchor0 offset0 width0 cond1 anchor1 offset1 width1 : Nat) (s : State) : Out :=
  .next (s.runCmd (.parseConfigureExtract src enable0 enable1 profile cond0 anchor0 offset0 width0 cond1 anchor1 offset1 width1) src 0x0421 (bodyParseConfigureExtract enable0 enable1 profile cond0 anchor0 offset0 width0 cond1 anchor1 offset1 width1))

/-- ACL_DELETE (R298): Empties an ACL entry. -/
def execAclDelete (src : CmdSrc) (entry : Nat) (s : State) : Out :=
  .next (s.runCmd (.aclDelete src entry) src 0x0424 (bodyAclDelete entry))

/-- ACL_READ (R298): Returns a part of an ACL entry, its action and its hit count. -/
def execAclRead (src : CmdSrc) (clear : Bool) (entry part : Nat) (s : State) : Out :=
  .next (s.runCmd (.aclRead src clear entry part) src 0x0425 (bodyAclRead clear entry part))

/-- STEER_CONFIGURE_PROFILE (R294): Sets a steering profile's HASH or DIRECT settings. -/
def execSteerConfigureProfile (src : CmdSrc) (symmetric : Bool) (profile mode fields seed field sh m b absent : Nat) (s : State) : Out :=
  .next (s.runCmd (.steerConfigureProfile src symmetric profile mode fields seed field sh m b absent) src 0x0426 (bodySteerConfigureProfile symmetric profile mode fields seed field sh m b absent))

/-- STEER_WRITE (R296): Writes up to 12 indirection entries in one cycle. -/
def execSteerWrite (src : CmdSrc) (table first count : Nat) (entries : List Nat) (s : State) : Out :=
  .next (s.runCmd (.steerWrite src table first count entries) src 0x0427 (bodySteerWrite table first count entries))

/-- STEER_READ (R298): Returns up to 12 indirection entries. -/
def execSteerRead (src : CmdSrc) (table first count : Nat) (s : State) : Out :=
  .next (s.runCmd (.steerRead src table first count) src 0x0428 (bodySteerRead table first count))

/-- SLOW_CONFIGURE (R283): Sets a slow-path reason's policer rate and burst. -/
def execSlowConfigure (src : CmdSrc) (reason rate burst : Nat) (s : State) : Out :=
  .next (s.runCmd (.slowConfigure src reason rate burst) src 0x0429 (bodySlowConfigure reason rate burst))

/-- PARSE_GET_COUNTS (R298): Returns a port's parser counts and the slow-path counts. -/
def execParseGetCounts (src : CmdSrc) (clear : Bool) (port : Nat) (s : State) : Out :=
  .next (s.runCmd (.parseGetCounts src clear port) src 0x042A (bodyParseGetCounts clear port))

/-- CLASS_SET_MAP (R292): Writes entries of a PCP or DSCP class map. -/
def execClassSetMap (src : CmdSrc) (kind map first count : Nat) (classes : List Nat) (s : State) : Out :=
  .next (s.runCmd (.classSetMap src kind map first count classes) src 0x0501 (bodyClassSetMap kind map first count classes))

/-- ACL_STAGE (R298): Stores one part of an ACL value or mask in the mailbox's staging buffer. -/
def execAclStage (src : CmdSrc) (part : Nat) (bytes : List Byte) (s : State) : Out :=
  .next (s.runCmd (.aclStage src part bytes) src 0x0422 (bodyAclStage src part bytes))

/-- ACL_COMMIT (R289): Installs a staged ACL entry with its action and zeroes its hit count. -/
def execAclCommit (src : CmdSrc) (copy capture setClass steer redirect : Bool) (entry kind tc profile port : Nat) (s : State) : Out :=
  .next (s.runCmd (.aclCommit src copy capture setClass steer redirect entry kind tc profile port) src 0x0423 (bodyAclCommit src copy capture setClass steer redirect entry kind tc profile port))


end Sys2Proof.Machine
end

