-- ==== Sys2Proof/Machine/Forward.lean ====
section
/-!
DEFINITION. The forwarding tables: locations, lookups, references and memory errors, and the commands that write and read them
(R301 to R321, R570).
-/
namespace Sys2Proof.Machine

/-! ## Results (R302) -/

/-- KIND of a result. -/
def resKind (r : BitVec 32) : Nat := r.toNat / 2 ^ 29
/-- VALUE of a result. -/
def resValue (r : BitVec 32) : Nat := r.toNat % 65536
/-- The result of a kind and a value. -/
def mkResult (kind v : Nat) : BitVec 32 := BitVec.ofNat 32 (kind * 2 ^ 29 + v)

/-- A result that a table may hold: an allowed kind, RSV 0 and VALUE in range (R302). -/
def resultOk (kinds : List Nat) (r : Nat) : Bool :=
  let k := r / 2 ^ 29
  let v := r % 65536
  decide (r < 2 ^ 32 ∧ r / 65536 % 8192 = 0) && kinds.contains k &&
    match k with
    | 1 => decide (v < 256)
    | 3 => decide (v < 4096)
    | 2 => true
    | 4 => true
    | _ => decide (v = 0)

/-- The next hop or ECMP group that a result names exists (R302). -/
def State.resultExists (s : State) (r : Nat) : Bool :=
  match r / 2 ^ 29 with
  | 2 => s.fwd.nhs.has (r % 65536)
  | 3 => s.fwd.ecmp.has (r % 65536)
  | _ => true

/-! ## Locations (R305, R317, R570) -/

/-- The number of locations of a table or pool; VIDs run from 1. -/
def tableSize (t : Nat) : Nat :=
  match t with
  | 0 => 524288 | 1 => 262144 | 2 => 262144 | 3 => 65536 | 4 => 65536 | 5 => 4096 | 6 => 65536 | 7 => 65536 | 8 => 524288 | 9 => 4095
  | 10 => 64 | _ => 0

/-- Whether table `t` has a location `l`. -/
def locationOk (t l : Nat) : Bool := decide (l < tableSize t) && (decide (t ≠ 9) || decide (1 ≤ l))

/-- The forwarding tables changed by `f`. -/
def State.updFwd (s : State) (f : Fwd → Fwd) : State := { s with fwd := f s.fwd }

/-- Whether a location is LOST. -/
def State.isLost (s : State) (t l : Nat) : Bool := s.fwd.lost.any fun x => decide (x.table = t ∧ x.loc = l)

/-- Whether the entry of a key stood at a LOST location of table `t`. -/
def State.keyLost (s : State) (t k : Nat) : Bool := s.fwd.lost.any fun x => decide (x.table = t ∧ x.key = some k)

/-- The units of a host entry. -/
def HostEntry.units (x : HostEntry) : List Nat := match x.loc2 with | some b => [x.loc, b] | none => [x.loc]

/-- The locations of table `t` in which something stands. -/
def State.usedLocs (s : State) (t : Nat) : List Nat :=
  let f := s.fwd
  match t with
  | 0 => f.l2.map fun x => x.2.loc
  | 1 => f.hosts.flatMap fun x => x.2.units
  | 2 => f.lpm4.map fun x => x.2.loc
  | 3 => f.lpm6.map fun x => x.2.loc
  | 6 => f.ecmp.flatMap fun x => x.2.locs
  | 8 => f.mcast.flatMap fun x => x.2.locs
  | _ => []

/-- The locations of a table that a new entry cannot take: those in use and those LOST. -/
def State.takenLocs (s : State) (t : Nat) : List Nat :=
  s.usedLocs t ++ ((s.fwd.lost.filter fun x => decide (x.table = t)).map (·.loc)).filter fun l => !(s.usedLocs t).contains l

/-- The locations in use, in number (R317): a host table counts units, an indexed table its entries. -/
def State.occupancy (s : State) (t : Nat) : Nat :=
  match t with
  | 4 => s.fwd.nhs.length
  | 5 => s.fwd.ecmp.length
  | 7 => 65536
  | 9 => (s.fwd.vlans.filter fun x => x.2.enable).length
  | 10 => s.fwd.rmacs.length
  | _ => (s.usedLocs t).length

/-- The `k`-th location of `n` that is not in `taken`, counted modulo the number of them. -/
def freeLocation (n : Nat) (taken : List Nat) (k : Nat) : Nat :=
  let l := (List.range n).filter fun x => !taken.contains x
  l.getD (k % max 1 l.length) 0

/-- Locations for `n` new items of table `t`: which free ones the device takes is left open, so each is a free value. -/
def State.pickLocs (s : State) (t : Nat) (taken : List Nat) : Nat → State × List Nat
  | 0 => (s, [])
  | n + 1 =>
    let (v, s1) := s.takeFree
    let l := freeLocation (tableSize t) taken (Config.freeNat v)
    let (s2, ls) := s1.pickLocs t (l :: taken) n
    (s2, l :: ls)

/-- Whether `n` more items fit into table `t` beside those at `taken`. -/
def fits (t n : Nat) (taken : List Nat) : Bool := decide (taken.length + n ≤ tableSize t)

/-- The locations that a group which has `old` cannot take when it is written again: a LOST one stays LOST (R317, R318). -/
def State.takenBeside (s : State) (t : Nat) (old : List Nat) : List Nat :=
  (s.takenLocs t).filter fun l => !old.contains l || s.isLost t l

/-- ST_TABLE_FULL, with its event (R317, R321). -/
def State.tableFull (s : State) (t : Nat) : Rep := .done (s.raise 826 Ev.tableFull [.u 2 t]) stTableFull []

/-! ## Lookups (R303, R304, R318) -/

/-- What a lookup comes to: a miss, a LOST location, or a result. -/
inductive Hit where
  | miss
  | lost
  | found (r : BitVec 32)
deriving DecidableEq, Repr

/-- The key of an L2 entry. -/
def l2Key (vid da : Nat) : Nat := vid * 2 ^ 48 + da
/-- The key of a host entry. -/
def hostKey (v6 : Bool) (addr : Nat) : Nat := if v6 then 2 ^ 128 + addr else addr
/-- The bits of an address of a family. -/
def famBits (v6 : Bool) : Nat := if v6 then 128 else 32
/-- A prefix with the bits beyond its length cleared. -/
def maskPrefix (v6 : Bool) (addr len : Nat) : Nat := addr / 2 ^ (famBits v6 - len) * 2 ^ (famBits v6 - len)
/-- The key of an LPM entry. -/
def lpmKey (v6 : Bool) (addr len : Nat) : Nat := maskPrefix v6 addr len * 256 + len

/-- L2 lookup. -/
def State.l2Lookup (s : State) (vid da : Nat) : Hit :=
  if s.keyLost 0 (l2Key vid da) then .lost
  else match s.fwd.l2.find (l2Key vid da) with
    | some x => .found x.result
    | none => .miss

/-- Host lookup. -/
def State.hostLookup (s : State) (v6 : Bool) (addr : Nat) : Hit :=
  if s.keyLost 1 (hostKey v6 addr) then .lost
  else match s.fwd.hosts.find (hostKey v6 addr) with
    | some x => .found x.result
    | none => .miss

/-- The LPM table of a family. -/
def Fwd.lpm (f : Fwd) (v6 : Bool) : Tbl LpmEntry := if v6 then f.lpm6 else f.lpm4
/-- The code of the LPM table of a family. -/
def lpmCode (v6 : Bool) : Nat := if v6 then 3 else 2

/-- LPM lookup: the longest matching prefix, from `len` bits down. -/
def State.lpmLookup (s : State) (v6 : Bool) (addr : Nat) : Nat → Hit
  | 0 => match (s.fwd.lpm v6).find (lpmKey v6 addr 0) with
    | some x => if s.isLost (lpmCode v6) x.loc then .lost else .found x.result
    | none => .miss
  | n + 1 => match (s.fwd.lpm v6).find (lpmKey v6 addr (n + 1)) with
    | some x => if s.isLost (lpmCode v6) x.loc then .lost else .found x.result
    | none => s.lpmLookup v6 addr n

/-- The routing lookup: the host table, then the LPM table (R304). -/
def State.routeLookup (s : State) (v6 : Bool) (addr : Nat) : Hit :=
  match s.hostLookup v6 addr with
  | .miss => s.lpmLookup v6 addr (if v6 then 64 else 32)
  | h => h

/-- Whether member `i` of an ECMP or multicast group stands at a LOST pool location. -/
def State.memberLost (s : State) (t : Nat) (locs : List Nat) (i : Nat) : Bool :=
  match locs[i]? with | some l => s.isLost t l | none => false

/-! ## References (R314) -/

/-- The results of every host and LPM entry. -/
def State.routeResults (s : State) : List (BitVec 32) :=
  (s.fwd.hosts.map fun x => x.2.result) ++ (s.fwd.lpm4.map fun x => x.2.result) ++ s.fwd.lpm6.map fun x => x.2.result

/-- Whether something names next hop `n`. -/
def State.nhNamed (s : State) (n : Nat) : Bool :=
  (s.routeResults.any fun r => decide (r = mkResult 2 n)) || s.fwd.ecmp.any fun x => x.2.members.contains n

/-- Whether something names ECMP group `g`. -/
def State.ecmpNamed (s : State) (g : Nat) : Bool := s.routeResults.any fun r => decide (r = mkResult 3 g)

/-- Whether a VLAN is the egress VID of a next hop or member. -/
def State.vlanNamed (s : State) (v : Nat) : Bool :=
  (s.fwd.nhs.any fun x => decide (x.2.vid = v)) || s.fwd.mcast.any fun x => x.2.members.any fun m => decide (m.vid = v)

/-- Whether a VLAN is the explicit egress VID of a ROUTED member. -/
def State.vlanRouted (s : State) (v : Nat) : Bool :=
  s.fwd.mcast.any fun x => x.2.members.any fun m => decide (m.vid = v) && m.routed

/-! ## Commands (R320) -/

/-- A VID that a frame may have. -/
def vidOk (v : Nat) : Bool := decide (1 ≤ v ∧ v ≤ 4094)

/-- What the own checks and effect of VLAN_CONFIGURE come to (R301). -/
def bodyVlanConfigure (enable l3 : Bool) (vid : Nat) (members untagged : BitVec 256) (unknown floodMgid rmac : Nat) (s : State) : Rep :=
  Rep.ranges [vidOk vid, true, true, decide (unknown < 3), decide (floodMgid < 65536), decide (rmac < 64)] <|
    let v := s.fwd.vlans.get vid
    if v.enable && !enable && s.vlanNamed vid then Rep.badState
    else if v.l3 && !l3 && s.vlanRouted vid then Rep.badState
    else .ok (s.updFwd fun f => { f with vlans := f.vlans.set vid {
      enable := enable, members := members, untagged := untagged, unknown := unknown, floodMgid := floodMgid, l3 := l3, rmac := rmac } }) []

/-- What the own checks and effect of PORT_SET_PVID come to (R301). -/
def bodyPortSetPvid (port pvid : Nat) (s : State) : Rep :=
  Rep.ranges [decide (port < 256), vidOk pvid] <| .ok (s.updPort port fun x => { x with pvid := pvid }) []

/-- What the own checks and effect of ROUTER_MAC_SET come to (R306). -/
def bodyRouterMacSet (index mac : Nat) (s : State) : Rep :=
  Rep.ranges [decide (index < 64), true] <| .ok (s.updFwd fun f => { f with rmacs := f.rmacs.set index mac }) []

/-- What the own checks and effect of L2_ADD come to (R303). -/
def bodyL2Add (replace : Bool) (vid da result : Nat) (s : State) : Rep :=
  Rep.ranges [vidOk vid, true, resultOk [0, 1, 4, 5] result] <|
    let k := l2Key vid da
    match s.fwd.l2.find k with
    | some x =>
      if !replace then Rep.badState
      else .ok (s.updFwd fun f => { f with l2 := f.l2.set k { x with result := BitVec.ofNat 32 result } }) []
    | none =>
      if !fits 0 1 (s.takenLocs 0) then s.tableFull 0
      else
        let (s1, ls) := s.pickLocs 0 (s.takenLocs 0) 1
        .ok (s1.updFwd fun f => { f with l2 := f.l2.set k { result := BitVec.ofNat 32 result, loc := ls.headD 0 } }) []

/-- What the own checks and effect of L2_DELETE come to (R314). -/
def bodyL2Delete (vid da : Nat) (s : State) : Rep :=
  Rep.ranges [vidOk vid, true] <|
    let k := l2Key vid da
    .ok (s.updFwd fun f => { f with l2 := f.l2.del k }) [.u 1 (flag (s.fwd.l2.has k) 1)]

/-- What the own checks and effect of NH_WRITE come to (R306). -/
def bodyNhWrite (decTtl : Bool) (nh port vid da rmac : Nat) (s : State) : Rep :=
  Rep.ranges [decide (nh < 65536), decide (port < 256), vidOk vid, true, decide (rmac < 64)] <|
    .ok (s.updFwd fun f => { f with nhs := f.nhs.set nh { port := port, vid := vid, da := da, rmac := rmac, decTtl := decTtl } }) []

/-- What the own checks and effect of NH_DELETE come to (R314). -/
def bodyNhDelete (nh : Nat) (s : State) : Rep :=
  Rep.ranges [decide (nh < 65536)] <|
    if s.nhNamed nh then Rep.badState
    else .ok (s.updFwd fun f => { f with nhs := f.nhs.del nh }) []

/-- What the own checks and effect of HOST_ADD come to (R304). -/
def bodyHostAdd (replace : Bool) (family addr result : Nat) (s : State) : Rep :=
  let v6 := decide (family = 1)
  Rep.ranges [decide (family < 2), decide (addr < 2 ^ famBits v6), resultOk [0, 2, 3, 4, 5] result] <|
    if !s.resultExists result then Rep.badState
    else
      let k := hostKey v6 addr
      match s.fwd.hosts.find k with
      | some x =>
        if !replace then Rep.badState
        else .ok (s.updFwd fun f => { f with hosts := f.hosts.set k { x with result := BitVec.ofNat 32 result } }) []
      | none =>
        let n := if v6 then 2 else 1
        if !fits 1 n (s.takenLocs 1) then s.tableFull 1
        else
          let (s1, ls) := s.pickLocs 1 (s.takenLocs 1) n
          .ok (s1.updFwd fun f => { f with hosts := f.hosts.set k { result := BitVec.ofNat 32 result, loc := ls.headD 0, loc2 := ls[1]? } }) []

/-- What the own checks and effect of HOST_DELETE come to (R314). -/
def bodyHostDelete (family addr : Nat) (s : State) : Rep :=
  let v6 := decide (family = 1)
  Rep.ranges [decide (family < 2), decide (addr < 2 ^ famBits v6)] <|
    let k := hostKey v6 addr
    .ok (s.updFwd fun f => { f with hosts := f.hosts.del k }) [.u 1 (flag (s.fwd.hosts.has k) 1)]

/-- The LPM table of a family replaced. -/
def Fwd.setLpm (f : Fwd) (v6 : Bool) (t : Tbl LpmEntry) : Fwd := if v6 then { f with lpm6 := t } else { f with lpm4 := t }

/-- What the own checks and effect of LPM_ADD come to (R305). -/
def bodyLpmAdd (replace : Bool) (family pfx length result : Nat) (s : State) : Rep :=
  let v6 := decide (family = 1)
  Rep.ranges [decide (family < 2), decide (pfx < 2 ^ famBits v6), decide (length ≤ (if v6 then 64 else 32)),
      resultOk [0, 2, 3, 4, 5] result] <|
    if !s.resultExists result then Rep.badState
    else
      let k := lpmKey v6 pfx length
      match (s.fwd.lpm v6).find k with
      | some x =>
        if !replace then Rep.badState
        else .ok (s.updFwd fun f => f.setLpm v6 ((f.lpm v6).set k { x with result := BitVec.ofNat 32 result })) []
      | none =>
        let t := lpmCode v6
        if !fits t 1 (s.takenLocs t) then s.tableFull t
        else
          let (s1, ls) := s.pickLocs t (s.takenLocs t) 1
          .ok (s1.updFwd fun f => f.setLpm v6 ((f.lpm v6).set k { result := BitVec.ofNat 32 result, loc := ls.headD 0 })) []

/-- What the own checks and effect of LPM_DELETE come to (R314). -/
def bodyLpmDelete (family pfx length : Nat) (s : State) : Rep :=
  let v6 := decide (family = 1)
  Rep.ranges [decide (family < 2), decide (pfx < 2 ^ famBits v6), decide (length ≤ (if v6 then 64 else 32))] <|
    let k := lpmKey v6 pfx length
    .ok (s.updFwd fun f => f.setLpm v6 ((f.lpm v6).del k)) [.u 1 (flag ((s.fwd.lpm v6).has k) 1)]

/-- A staged member that is legal as a next hop or as a multicast member (R320). -/
def memberOk (m : Member) : Bool := decide (m.nh < 65536) || decide (m.port < 256 ∧ m.vid ≤ 4094)

/-- What the own checks and effect of MEMBER_STAGE come to (R315). -/
def bodyMemberStage (src : CmdSrc) (first count : Nat) (members : List Member) (s : State) : Rep :=
  Rep.ranges [decide (first < 256), decide (1 ≤ count ∧ count ≤ 12 ∧ first + count ≤ 256),
      decide (members.length = count) && members.all memberOk] <|
    .ok (s.setMemStage src ((members.zipIdx).foldl (fun t m => t.set (first + m.2) m.1) (s.memStaged src))) []

/-- What the own checks and effect of ECMP_COMMIT come to (R307). -/
def bodyEcmpCommit (src : CmdSrc) (group count profile : Nat) (s : State) : Rep :=
  let st := s.memStaged src
  let present := (List.range count).filter fun i => st.has i
  let nhs := (List.range count).map fun i => (st.get i).nh
  Rep.ranges [decide (group < 4096), decide (1 ≤ count ∧ count ≤ 256) && present.all (fun i => decide ((st.get i).nh < 65536)),
      decide (profile < 64)] <|
    if present.length ≠ count ∨ !nhs.all s.fwd.nhs.has then Rep.badState
    else
      let old := (s.fwd.ecmp.get group).locs
      let taken := s.takenBeside 6 old
      if !fits 6 count taken then s.tableFull 6
      else
        let (s1, ls) := s.pickLocs 6 taken count
        .ok ((s1.updFwd fun f => { f with ecmp := f.ecmp.set group { members := nhs, profile := profile, locs := ls } }).setMemStage
          src []) []

/-- What the own checks and effect of ECMP_DELETE come to (R314). -/
def bodyEcmpDelete (group : Nat) (s : State) : Rep :=
  Rep.ranges [decide (group < 4096)] <|
    if s.ecmpNamed group then Rep.badState
    else .ok (s.updFwd fun f => { f with ecmp := f.ecmp.del group }) []

/-- No port stands twice in a list of members (R308). -/
def portsOnce (l : List Member) : Bool := decide (l.map (·.port)).Nodup

/-- What the own checks and effect of MCAST_COMMIT come to (R308). -/
def bodyMcastCommit (src : CmdSrc) (aon prune : Bool) (mgid count : Nat) (s : State) : Rep :=
  let st := s.memStaged src
  let present := ((List.range count).filter fun i => st.has i).map fun i => st.get i
  Rep.ranges [decide (mgid < 65536),
      decide (count ≤ 256) && portsOnce present && present.all (fun m => decide (m.port < 256 ∧ m.vid ≤ 4094))] <|
    if present.length ≠ count ∨ (present.any fun m => m.routed && decide (m.vid ≠ 0) && !(s.fwd.vlans.get m.vid).l3) then Rep.badState
    else
      let old := s.fwd.mcast.get mgid
      let taken := s.takenBeside 8 old.locs
      if !fits 8 count taken then s.tableFull 8
      else
        let (s1, ls) := s.pickLocs 8 taken count
        .ok ((s1.updFwd fun f => { f with mcast := f.mcast.set mgid { old with
          members := present, aon := aon, prune := prune, locs := ls } }).setMemStage src []) []

/-! ## Reading the tables (R318, R320, R570) -/

/-- A key number of a table as its fields. -/
def keyFlds (t k : Nat) : List Fld :=
  match t with
  | 0 => [.u 4 (k / 2 ^ 48), .raw 2 (beBytes 6 (k % 2 ^ 48))]
  | 1 => if 2 ^ 128 ≤ k then [.u 1 1, .raw 4 (beBytes 16 (k % 2 ^ 128))] else [.u 1 0, .raw 4 (beBytes 4 k)]
  | 2 => [.raw 4 (beBytes 4 (k / 256)), .u 4 (k % 256)]
  | 3 => [.raw 4 (beBytes 16 (k / 256)), .u 4 (k % 256)]
  | 5 => [.u 2 k]
  | 10 => [.u 2 k]
  | _ => [.u 4 k]

/-- The fields of an indexed table's entry, in the order of the command that writes it. -/
def State.indexedFlds (s : State) (t l : Nat) : List Fld :=
  match t with
  | 4 =>
    let x := s.fwd.nhs.get l
    [.u 1 (flag x.decTtl 1), .u 2 x.port, .u 4 x.vid, .raw 2 (beBytes 6 x.da), .u 2 x.rmac]
  | 5 => let x := s.fwd.ecmp.get l; [.u 2 x.members.length, .u 2 x.profile]
  | 7 => let x := s.fwd.mcast.get l; [.u 1 (flag x.aon 1 + flag x.prune 2), .u 2 x.members.length]
  | 9 =>
    let x := s.fwd.vlans.get l
    [.u 1 (flag x.enable 1 + flag x.l3 2), .raw 8 (beBytes 32 x.members.toNat), .raw 8 (beBytes 32 x.untagged.toNat), .u 1 x.unknown,
      .u 4 x.floodMgid, .u 2 x.rmac]
  | _ => [.raw 2 (beBytes 6 (s.fwd.rmacs.get l))]

/-- Whether an indexed table holds an entry at `l`. -/
def State.indexedHas (s : State) (t l : Nat) : Bool :=
  match t with
  | 4 => s.fwd.nhs.has l
  | 5 => s.fwd.ecmp.has l
  | 7 => true
  | 9 => (s.fwd.vlans.get l).enable
  | _ => s.fwd.rmacs.has l

/-- The key, as a number, that the bytes after the table code of TABLE_LOOKUP give, and whether they lie in its ranges (R447, R570). -/
def lookupKey (t : Nat) (b : List Byte) : Nat × Bool :=
  let u (o w : Nat) : Nat := ofBe (slice b o w)
  let zero (o : Nat) : Bool := (b.drop o).all fun x => decide (x = 0)
  match t with
  | 0 => (l2Key (u 0 4) (u 4 6), vidOk (u 0 4) && zero 10)
  | 1 =>
    if u 0 1 = 0 then (hostKey false (u 4 4), decide (u 1 3 = 0) && zero 8)
    else (hostKey true (u 4 16), decide (u 0 1 = 1 ∧ u 1 3 = 0) && zero 20)
  | 2 => (lpmKey false (u 0 4) (u 4 4), decide (u 4 4 ≤ 32) && zero 8)
  | 3 => (lpmKey true (u 0 16) (u 16 4), decide (u 16 4 ≤ 64) && zero 20)
  | 4 => (u 0 4, decide (u 0 4 < 65536) && zero 4)
  | 5 => (u 0 2, decide (u 0 2 < 4096) && zero 2)
  | 7 => (u 0 4, decide (u 0 4 < 65536) && zero 4)
  | 9 => (u 0 4, vidOk (u 0 4) && zero 4)
  | 10 => (u 0 2, decide (u 0 2 < 64) && zero 2)
  | _ => (0, false)

/-- The result and the locations of the entry of key `k` in a keyed table. -/
def State.entryOf (s : State) (t k : Nat) : Option (BitVec 32 × List Nat) :=
  match t with
  | 0 => (s.fwd.l2.find k).map fun x => (x.result, [x.loc])
  | 1 => (s.fwd.hosts.find k).map fun x => (x.result, x.units)
  | 2 => (s.fwd.lpm4.find k).map fun x => (x.result, [x.loc])
  | 3 => (s.fwd.lpm6.find k).map fun x => (x.result, [x.loc])
  | _ => none

/-- What the own checks and effect of TABLE_LOOKUP come to (R570). -/
def bodyTableLookup (table : Nat) (key : List Byte) (s : State) : Rep :=
  let key := lookupKey table key
  Rep.ranges [decide (table < 11 ∧ table ≠ 6 ∧ table ≠ 8), key.2] <|
    let k := key.1
    if table < 4 then
      match s.entryOf table k with
      | some e => .ok s [.u 1 1, .u 4 e.1.toNat, .u 4 (e.2.headD 0), .u 1 (flag (e.2.any (s.isLost table)) 1)]
      | none =>
        match s.fwd.lost.find? fun x => decide (x.table = table ∧ x.key = some k) with
        | some x => .ok s [.u 1 0, .u 4 0, .u 4 x.loc, .u 1 1]
        | none => .ok s [.u 1 0, .u 4 0, .u 4 0, .u 1 0]
    else
      .ok s ([.u 1 (flag (s.indexedHas table k) 1)] ++ s.indexedFlds table k ++ [.u 4 k, .u 1 (flag (s.isLost table k) 1)])

/-- The key of the entry that stands at location `l` of a keyed table. -/
def State.keyAt (s : State) (t l : Nat) : Option Nat :=
  match t with
  | 0 => (s.fwd.l2.find? fun x => decide (x.2.loc = l)).map (·.1)
  | 1 => (s.fwd.hosts.find? fun x => x.2.units.contains l).map (·.1)
  | 2 => (s.fwd.lpm4.find? fun x => decide (x.2.loc = l)).map (·.1)
  | 3 => (s.fwd.lpm6.find? fun x => decide (x.2.loc = l)).map (·.1)
  | _ => none

/-- The member that stands at location `l` of a pool: the group and its place in it. -/
def State.memberAt (s : State) (t l : Nat) : Option (Nat × Nat) :=
  let look (g : Nat) (locs : List Nat) : Option (Nat × Nat) := (locs.idxOf? l).map fun i => (g, i)
  if t = 6 then s.fwd.ecmp.findSome? fun x => look x.1 x.2.locs else s.fwd.mcast.findSome? fun x => look x.1 x.2.locs

/-- What the own checks and effect of TABLE_READ_INDEX come to (R318). -/
def bodyTableReadIndex (table location : Nat) (s : State) : Rep :=
  Rep.ranges [decide (table < 11), locationOk table location] <|
    let lost := s.fwd.lost.find? fun x => decide (x.table = table ∧ x.loc = location)
    let state (has : Bool) : Nat := if lost.isSome then 2 else if has then 1 else 0
    if table < 4 then
      match s.keyAt table location with
      | some k =>
        let known := match lost with | some x => x.known | none => true
        .ok s ([.u 1 (state true)] ++ (if known then keyFlds table k else [])
          ++ (if lost.isNone then [.u 4 (match s.entryOf table k with | some e => e.1.toNat | none => 0)] else []))
      | none =>
        .ok s ([.u 1 (state false)] ++ match lost with
          | some x => if x.known then (match x.key with | some k => keyFlds table k | none => []) else []
          | none => [])
    else if table = 6 ∨ table = 8 then
      match s.memberAt table location with
      | some (g, i) =>
        .ok s ([.u 1 (state true), .u 4 g] ++ (if table = 6 then [.u 4 (nth (s.fwd.ecmp.get g).members i)] else
          let m : Member := nth (s.fwd.mcast.get g).members i
          [.u 2 m.port, .u 2 m.vid, .u 1 (flag m.routed 1)]))
      | none => .ok s [.u 1 (state false)]
    else if s.indexedHas table location then .ok s ([.u 1 (state true)] ++ keyFlds table location ++ s.indexedFlds table location)
    else .ok s [.u 1 (state false)]

/-- A list without its element `i`. -/
def dropAt {α : Type} (l : List α) (i : Nat) : List α := l.take i ++ l.drop (i + 1)

/-- Location `l` of table `t` emptied (R318). -/
def State.emptyLocation (s : State) (t l : Nat) : State :=
  s.updFwd fun f =>
    let f1 : Fwd := { f with
      lost := f.lost.filter (fun x => !decide (x.table = t ∧ x.loc = l)), badCopies := f.badCopies.filter (· ≠ (t, l)) }
    match t, s.keyAt t l with
    | 0, some k => { f1 with l2 := f1.l2.del k }
    | 1, some k => { f1 with hosts := f1.hosts.del k }
    | 2, some k => { f1 with lpm4 := f1.lpm4.del k }
    | 3, some k => { f1 with lpm6 := f1.lpm6.del k }
    | 4, _ => { f1 with nhs := f1.nhs.del l }
    | 5, _ => { f1 with ecmp := f1.ecmp.del l }
    | 6, _ => match s.memberAt 6 l with
      | some (g, i) => { f1 with ecmp := f1.ecmp.upd g fun x => { x with members := dropAt x.members i, locs := dropAt x.locs i } }
      | none => f1
    | 7, _ => { f1 with mcast := f1.mcast.del l }
    | 8, _ => match s.memberAt 8 l with
      | some (g, i) => { f1 with mcast := f1.mcast.upd g fun x => { x with members := dropAt x.members i, locs := dropAt x.locs i } }
      | none => f1
    | 9, _ => { f1 with vlans := f1.vlans.del l }
    | 10, _ => { f1 with rmacs := f1.rmacs.del l }
    | _, _ => f1

/-- What the own checks and effect of TABLE_CLEAR_LOST come to (R318). -/
def bodyTableClearLost (table location : Nat) (s : State) : Rep :=
  Rep.ranges [decide (table < 11), locationOk table location] <|
    if !s.isLost table location then Rep.badState else .ok (s.emptyLocation table location) []

/-- What the own checks and effect of TABLE_GET_USAGE come to (R320). -/
def bodyTableGetUsage (clear : Bool) (s : State) : Rep :=
  let cs := [deviceCtr 0x1018, deviceCtr 0x1000, deviceCtr 0x1008, deviceCtr 0x1010]
  .ok (if clear then s.rebaseAll cs else s)
    (((List.range 11).map fun t => Fld.u 4 (s.occupancy t))
      ++ ((List.range 11).map fun t => Fld.u 4 (s.fwd.lost.filter fun x => decide (x.table = t)).length)
      ++ cs.map fun o => Fld.u 8 (s.sinceBase clear o))

/-- VLAN_CONFIGURE (R301): Configures a VLAN's enable, masks, unknown action, flood group and L3. -/
def execVlanConfigure (src : CmdSrc) (enable l3 : Bool) (vid : Nat) (members untagged : BitVec 256) (unknown floodMgid rmac : Nat) (s : State) : Out :=
  .next (s.runCmd (.vlanConfigure src enable l3 vid members untagged unknown floodMgid rmac) src 0x0401 (bodyVlanConfigure enable l3 vid members untagged unknown floodMgid rmac))

/-- PORT_SET_PVID (R301): Sets a port's PVID. -/
def execPortSetPvid (src : CmdSrc) (port pvid : Nat) (s : State) : Out :=
  .next (s.runCmd (.portSetPvid src port pvid) src 0x0402 (bodyPortSetPvid port pvid))

/-- ROUTER_MAC_SET (R306): Writes a router MAC address. -/
def execRouterMacSet (src : CmdSrc) (index mac : Nat) (s : State) : Out :=
  .next (s.runCmd (.routerMacSet src index mac) src 0x0403 (bodyRouterMacSet index mac))

/-- L2_ADD (R303): Inserts or replaces an L2 entry. -/
def execL2Add (src : CmdSrc) (replace : Bool) (vid da result : Nat) (s : State) : Out :=
  .next (s.runCmd (.l2Add src replace vid da result) src 0x0404 (bodyL2Add replace vid da result))

/-- L2_DELETE (R314): Deletes an L2 entry. -/
def execL2Delete (src : CmdSrc) (vid da : Nat) (s : State) : Out :=
  .next (s.runCmd (.l2Delete src vid da) src 0x0405 (bodyL2Delete vid da))

/-- NH_WRITE (R306): Writes a next hop. -/
def execNhWrite (src : CmdSrc) (decTtl : Bool) (nh port vid da rmac : Nat) (s : State) : Out :=
  .next (s.runCmd (.nhWrite src decTtl nh port vid da rmac) src 0x0406 (bodyNhWrite decTtl nh port vid da rmac))

/-- NH_DELETE (R314): Deletes an unreferenced next hop. -/
def execNhDelete (src : CmdSrc) (nh : Nat) (s : State) : Out :=
  .next (s.runCmd (.nhDelete src nh) src 0x0407 (bodyNhDelete nh))

/-- HOST_ADD (R304): Inserts or replaces a host route. -/
def execHostAdd (src : CmdSrc) (replace : Bool) (family addr result : Nat) (s : State) : Out :=
  .next (s.runCmd (.hostAdd src replace family addr result) src 0x0408 (bodyHostAdd replace family addr result))

/-- HOST_DELETE (R314): Deletes a host route. -/
def execHostDelete (src : CmdSrc) (family addr : Nat) (s : State) : Out :=
  .next (s.runCmd (.hostDelete src family addr) src 0x0409 (bodyHostDelete family addr))

/-- LPM_ADD (R305): Inserts or replaces an LPM prefix. -/
def execLpmAdd (src : CmdSrc) (replace : Bool) (family pfx length result : Nat) (s : State) : Out :=
  .next (s.runCmd (.lpmAdd src replace family pfx length result) src 0x040A (bodyLpmAdd replace family pfx length result))

/-- LPM_DELETE (R314): Deletes an LPM prefix. -/
def execLpmDelete (src : CmdSrc) (family pfx length : Nat) (s : State) : Out :=
  .next (s.runCmd (.lpmDelete src family pfx length) src 0x040B (bodyLpmDelete family pfx length))

/-- ECMP_DELETE (R314): Deletes an unreferenced ECMP group. -/
def execEcmpDelete (src : CmdSrc) (group : Nat) (s : State) : Out :=
  .next (s.runCmd (.ecmpDelete src group) src 0x040E (bodyEcmpDelete group))

/-- TABLE_LOOKUP (R570): Looks up a key in a table and returns its result and location. -/
def execTableLookup (src : CmdSrc) (table : Nat) (key : List Byte) (s : State) : Out :=
  .next (s.runCmd (.tableLookup src table key) src 0x0410 (bodyTableLookup table key))

/-- TABLE_READ_INDEX (R318): Returns the state, key and result at a table location. -/
def execTableReadIndex (src : CmdSrc) (table location : Nat) (s : State) : Out :=
  .next (s.runCmd (.tableReadIndex src table location) src 0x0411 (bodyTableReadIndex table location))

/-- TABLE_CLEAR_LOST (R318): Empties a LOST table location. -/
def execTableClearLost (src : CmdSrc) (table location : Nat) (s : State) : Out :=
  .next (s.runCmd (.tableClearLost src table location) src 0x0412 (bodyTableClearLost table location))

/-- TABLE_GET_USAGE (R320): Returns table occupancy, LOST locations and device-wide counts. -/
def execTableGetUsage (src : CmdSrc) (clear : Bool) (s : State) : Out :=
  .next (s.runCmd (.tableGetUsage src clear) src 0x0413 (bodyTableGetUsage clear))

/-- MEMBER_STAGE (R315): Stores ECMP or multicast members in the mailbox's member staging buffer. -/
def execMemberStage (src : CmdSrc) (first count : Nat) (members : List Member) (s : State) : Out :=
  .next (s.runCmd (.memberStage src first count members) src 0x040C (bodyMemberStage src first count members))

/-- ECMP_COMMIT (R307): Installs an ECMP group from staged members. -/
def execEcmpCommit (src : CmdSrc) (group count profile : Nat) (s : State) : Out :=
  .next (s.runCmd (.ecmpCommit src group count profile) src 0x040D (bodyEcmpCommit src group count profile))

/-- MCAST_COMMIT (R308): Installs a multicast group from staged members with its flags. -/
def execMcastCommit (src : CmdSrc) (aon prune : Bool) (mgid count : Nat) (s : State) : Out :=
  .next (s.runCmd (.mcastCommit src aon prune mgid count) src 0x040F (bodyMcastCommit src aon prune mgid count))


/-! ## Memory errors (R318, R319) -/

/-- A location becomes LOST. An L2 or host entry whose key word did not survive is gone; the firmware's copy keeps an LPM entry. -/
def State.loseLocation (s : State) (t l : Nat) (keyOk : Bool) : State :=
  if s.isLost t l then s
  else
    let k := s.keyAt t l
    let s1 := s.updFwd fun f =>
      let f1 := { f with lost := f.lost ++ [{ table := t, loc := l, key := k, known := keyOk }] }
      match t, k with
      | 0, some k => if keyOk then f1 else { f1 with l2 := f1.l2.del k }
      | 1, some k => if keyOk then f1 else { f1 with hosts := f1.hosts.del k }
      | _, _ => f1
    s1.raise 826 Ev.tableEcc [.u 2 t, .u 4 l]

/-- TABLE_SCRUB (R318): A scrub pass checks table locations, correcting single errors and marking uncorrectable ones LOST. -/
def execTableScrub (table location : Nat) (fixed keyOk : Bool) (s : State) : Out :=
  if !locationOk table location then .fault .noSuchObject
  else if fixed then .next ((s.updFwd fun f => { f with corrected := satAdd 64 f.corrected 1 }).count (deviceCtr 0x1018) 1)
  else .next (s.loseLocation table location keyOk)

/-- TABLE_REBUILT (R318): Firmware rebuilds a LOST LPM, VLAN or router-MAC location from its copy. -/
def execTableRebuilt (table location : Nat) (s : State) : Out :=
  if !locationOk table location then .fault .noSuchObject
  else if !s.isLost table location || !([2, 3, 9, 10].contains table) || s.fwd.badCopies.contains (table, location) then .next s
  else
    let s1 := s.updFwd fun f => { f with lost := f.lost.filter fun x => !decide (x.table = table ∧ x.loc = location) }
    .next (s1.raise 826 Ev.tableRebuilt [.u 2 table, .u 4 location])

/-- ACL_SCRUB (R319): An ACL scrub pass checks parity and makes failing entries LOST. -/
def execAclScrub (failing : List Nat) (s : State) : Out :=
  if failing.any (fun e => decide (32768 ≤ e)) then .fault .noSuchObject
  else
    .next (failing.foldl (fun (s : State) e =>
      match s.parse.acl.find e with
      | some x =>
        if x.lost then s
        else (s.updParser fun y => { y with acl := y.acl.set e { x with lost := true } }).raise 826 Ev.aclLost [.u 2 e]
      | none => s) s)

end Sys2Proof.Machine
end

