-- ==== Sys2Proof/Machine/Rewrite.lean ====
section
/-!
DEFINITION. The egress rewrite of a copy: its length and its bytes (R309, R386, R389).
-/
namespace Sys2Proof.Machine

/-- Bytes `l` written over those of `b` from `i` on. -/
def putBytes (b : List Byte) (i : Nat) (l : List Byte) : List Byte := b.take i ++ l ++ b.drop (i + l.length)

/-- Bytes `l` inserted at `i`. -/
def insBytes (b : List Byte) (i : Nat) (l : List Byte) : List Byte := b.take i ++ l ++ b.drop i

/-- An internet checksum after a 16-bit word under it has changed from `m` to `m'`. -/
def csumUpdate (hc m m' : Nat) : Nat :=
  let t := (65535 - hc) + (65535 - m) + m'
  let u := t % 65536 + t / 65536
  65535 - (u % 65536 + u / 65536)

/-- The rewrite changes nothing. -/
def Rewrite.isNone (r : Rewrite) : Bool := decide (r = {})

/-- The rewrite adds, removes or keeps an outer tag of a frame with `n` VLAN tags: 0 keeps, 1 adds, 2 removes. -/
def Rewrite.tagChange (r : Rewrite) (n : Nat) : Nat :=
  if r.vid.isNone then 0 else if r.untag then (if n = 0 then 0 else 2) else if n = 0 then 1 else 0

/-- The pair tag is removed from a frame that has one. -/
def Rewrite.dropsPair (r : Rewrite) (p : Parsed) : Bool := decide (r.pair = 1) && p.pairAt.isSome

/-- The length of a frame of `len` bytes after the rewrite, padding included. -/
def Rewrite.newLen (r : Rewrite) (p : Parsed) (len : Nat) : Nat :=
  let c := r.tagChange p.tags.length
  let n := len + flag (decide (c = 1)) 4 + flag (decide (r.pair = 2)) 8 - flag (decide (c = 2)) 4 - flag (r.dropsPair p) 8
  if decide (c = 2) || r.dropsPair p then max 64 n else n

/-- The bytes whose index lies in none of the ranges of first index and length. -/
def dropRanges (b : List Byte) (l : List (Nat × Nat)) : List Byte :=
  (b.zipIdx.filter fun x => !l.any fun g => decide (g.1 ≤ x.2 ∧ x.2 < g.1 + g.2)).map (·.1)

/-- TTL or Hop Limit decremented, an IPv4 header's checksum updated with it. -/
def decTtl (p : Parsed) (b : List Byte) : List Byte :=
  match p.l3At with
  | none => b
  | some a =>
    if p.v6 then putBytes b (a + 7) (beBytes 1 (fb b (a + 7) + 255))
    else
      let m := fb2 b (a + 8)
      let m' := (fb b (a + 8) + 255) % 256 * 256 + fb b (a + 9)
      putBytes (putBytes b (a + 8) (beBytes 2 m')) (a + 10) (beBytes 2 (csumUpdate (fb2 b (a + 10)) m m'))

/-- First byte of a pair tag after its EtherType: VERSION 1 and PATH (R386). -/
def pairByte (path : Bool) : Nat := 16 + flag path 8

/-- The bytes of a copy as its egress port sends them: those of its frame, rewritten, with the FCS recomputed (R309, R389). -/
def Rewrite.apply (r : Rewrite) (p : Parsed) (etherType : Nat) (b : List Byte) : List Byte :=
  if r.isNone then b
  else
    let body := b.take (b.length - 4)
    let b1 := match r.da with | some d => putBytes body 0 (beBytes 6 d) | none => body
    let b2 := match r.sa with | some d => putBytes b1 6 (beBytes 6 d) | none => b1
    let b3 := if r.ttl then decTtl p b2 else b2
    let c := r.tagChange p.tags.length
    let outer := p.tags.head?
    let b4 := match r.vid, outer with
      | some v, some t => if r.untag then b3 else putBytes b3 t.1 (beBytes 2 (t.2.2 / 4096 * 4096 + v))
      | _, _ => b3
    let b5 := match p.pairAt with
      | some a => if r.pair = 3 then putBytes b4 a (beBytes 1 (fb b4 a / 16 * 16 + flag r.path 8)) else b4
      | none => b4
    let cut1 := match outer with | some t => if c = 2 then [(t.1 - 2, 4)] else [] | none => []
    let cut2 := match p.pairAt with | some a => if r.pair = 1 then [(a - 2, 8)] else [] | none => []
    let b6 := dropRanges b5 (cut1 ++ cut2)
    let b7 := match r.vid with
      | some v => if c = 1 then insBytes b6 12 (beBytes 2 0x8100 ++ beBytes 2 v) else b6
      | none => b6
    let n := p.tags.length + flag (decide (c = 1)) 1 - flag (decide (c = 2)) 1
    let b8 := if r.pair = 2 then
        insBytes b7 (12 + 4 * n) (beBytes 2 etherType ++ beBytes 1 (pairByte r.path) ++ beBytes 2 r.source ++ beBytes 3 r.seq)
      else b7
    let b9 := if decide (c = 2) || r.dropsPair p then b8 ++ List.replicate (60 - b8.length) 0 else b8
    b9 ++ leBytes 4 (crc32 b9)

end Sys2Proof.Machine
end

