-- ==== Sys2Proof/Machine/Dup.lean ====
section
/-!
DEFINITION. Sources of a pair: duplicate discard, block digests and the pair link's queues (R378, R388 to R394, R402 to R405, R567).
-/
namespace Sys2Proof.Machine

/-! ## The pair in service -/

/-- The pair is in service as this unit sees it: it is ACTIVE with a partner in STANDBY, or STANDBY with the link up (R390, R391). -/
def State.pairServing (s : State) : Bool :=
  s.pair.enable && ((decide (s.pair.role = .active) && s.partnerStandby) || (decide (s.pair.role = .standby) && s.pair.linkUp))

/-! ## Duplicate discard (R393, R394, R567) -/

/-- The entry of a source takes note of a frame with SEQ `q`, or is created by it; `false` where the table is full. -/
def State.dupTouch (s : State) (src q : Nat) : State × Bool :=
  if s.pair.dup.has src then (s.updDup src fun e => { e with lastSeen := s.now }, true)
  else if s.pair.dup.length < 16384 then
    (s.updDup src fun _ => { high := BitVec.ofNat 24 q, created := s.now, lastSeen := s.now }, true)
  else
    if mayRaise s.pair.dupFullAt s.now secC then
      (({ s with pair := { s.pair with dupFullAt := some s.now } }).raise 758 Ev.dupTableFull, false)
    else (s, false)

/-- The bits of a chunk for sequence numbers at a distance from `h` strictly between 0 and `d` cleared. -/
def DupChunk.clearAhead (c : DupChunk) (h d : Nat) : DupChunk :=
  { c with bits := (List.range 1024).foldl (fun b j =>
      let e := (c.index * 1024 + j + 2 ^ 24 - h) % 2 ^ 24
      if 0 < e ∧ e < d then b &&& ~~~(BitVec.ofNat 1024 (2 ^ j)) else b) c.bits }

/-- The chunks of which a sequence number lies among the last `w` up to `h`. -/
def keepChunks (l : List DupChunk) (h w : Nat) : List DupChunk :=
  l.filter fun c =>
    let e := (h + 2 ^ 24 - c.index * 1024) % 2 ^ 24
    decide (e < w + 1023)

/-- The bit of sequence number `q` set at TICK `t`. -/
def setSeq (l : List DupChunk) (q t : Nat) : List DupChunk :=
  let i := q / 1024
  let m := BitVec.ofNat 1024 (2 ^ (q % 1024))
  if l.any (fun c => decide (c.index = i) && c.bits != 0) then l.map fun c => if c.index = i then { c with bits := c.bits ||| m } else c
  else l.filter (fun c => decide (c.index ≠ i)) ++ [{ index := i, first := t, bits := m }]

/-- Duplicate discard of a copy with SEQ `q` of a source that has an entry: whether it passes (R393). -/
def State.dupJudge (s : State) (src q : Nat) : State × Bool :=
  let e := s.pair.dup.get src
  let h := e.high.toNat
  let w := s.pair.cfg.window
  let d := signedOf 24 ((q + 2 ^ 24 - h) % 2 ^ 24)
  let chunk := e.chunks.find? fun c => decide (c.index = q / 1024)
  let isSet := match chunk with | some c => c.bits.getLsbD (q % 1024) | none => false
  let young := match chunk with | some c => decide (s.tick - c.first < cyclesOf s.pair.cfg.chunkAge) | none => false
  if 0 < d then
    let l := if (w : Int) ≤ d then [] else keepChunks (e.chunks.map fun c => c.clearAhead h d.toNat) q w
    (s.updDup src fun x => { x with high := BitVec.ofNat 24 q, chunks := setSeq l q s.tick }, true)
  else if d ≤ -(w : Int) then
    (((s.updDup src fun x => { x with dupWindow := satAdd 64 x.dupWindow 1 }).pairCount 5).count (deviceCtr 0x1030) 1, true)
  else if isSet && young then
    (((s.updDup src fun x => { x with dup := satAdd 64 x.dup 1 }).pairCount 4).count (deviceCtr 0x1028) 1, false)
  else (s.updDup src fun x => { x with chunks := setSeq x.chunks q s.tick }, true)

/-- Whether a copy for a SINGLE port passes: one of a source without an entry, which the full table has not taken, passes as DUP_FULL_PASS (R394). -/
def State.dupPass (s : State) (src q : Nat) : State × Bool :=
  if s.pair.dup.has src then s.dupJudge src q
  else ({ s.hwCount 0x20002C s.pair.dupFullPass with pair := { s.pair with dupFullPass := inc32 s.pair.dupFullPass } }, true)

/-- DUP_ENTRY_EXPIRY (R393): A duplicate-table entry is freed after 1 s without a frame. -/
def execDupEntryExpiry (source : Nat) (s : State) : Out :=
  if 65536 ≤ source then .fault .noSuchObject
  else
    match s.pair.dup.find source with
    | none => .next s
    | some e =>
      let s1 := s.advance (e.lastSeen + secC)
      .next { s1 with pair := { s1.pair with dup := s1.pair.dup.del source } }

/-! ## Block digests (R402, R405) -/

/-- The instants of change that are placed and lie ahead, in TICK: the apply boundary of the journal on its way, and the switch of an armed
overlay. -/
def State.changesAhead (s : State) : List Nat :=
  s.pair.applyAt.toList ++ ((s.fence.active.filter fun a => a.arm).map (·.f)) ++
    (s.fw.overlays.filter fun o => decide (o.2.state = .armed) && o.2.timeMode).map fun o => s.fireTick o.2.t

/-- A frame judged now lies within the skew guard of an apply boundary or overlay switch, before it or after it (R405). -/
def State.inSkewGuard (s : State) : Bool :=
  let g := cyclesOf s.pair.cfg.skewGuard
  decide (s.now < s.pair.lastApply + g) || s.changesAhead.any fun t => decide (s.tick < t + g ∧ t < s.tick + g)

/-- Block `b` of a source closes: its decision part is sent, and its outcome part once it is due (R402). -/
def State.closeBlock (s : State) (src b : Nat) : State :=
  match (s.pair.dup.get src).blocks.find? fun d => d.block = b with
  | none => s
  | some d =>
    if d.closed then s
    else
      let s1 := s.updBlock src b fun e => { e with closed := true }
      let m : PairMsg := .decision src b d.nS d.hS d.hD d.exempt d.nXdrop d.hXdrop
      (s1.sendCtl m).sendOutcome src b

/-- The block of a sequence number. -/
def blockOf (q : Nat) : Nat := q / 1024 % 16384

/-- The own record of a block, made where it is missing. -/
def State.openBlock (s : State) (src b : Nat) : State :=
  s.updDup src fun e => if e.blocks.any (fun d => decide (d.block = b)) then e else { e with blocks := e.blocks ++ [{ block := b }] }

/-- A frame of a source enters its block: the SEQ, and the SEQ with the decision (R402); the block before the last one closes. -/
def State.foldFrame (s : State) (src q : Nat) (mask : BitVec 256) (result : BitVec 32) (tc : Nat) : State :=
  let b := blockOf q
  let hS := crc64 (beBytes 3 q)
  let hD := crc64 (beBytes 3 q ++ beBytes 32 mask.toNat ++ beBytes 4 result.toNat ++ beBytes 1 tc ++ beBytes 3 0)
  ((s.openBlock src b).updBlock src b fun d => { d with
    nS := d.nS + 1, hS := d.hS + hS, hD := d.hD + hD, exempt := d.exempt || s.inSkewGuard, last := s.now }).closeBlock src
      ((b + 16382) % 16384)

/-- A frame of a source was lost to XFEED_DROP (R402). -/
def State.foldXdrop (s : State) (src q : Nat) : State :=
  let b := blockOf q
  (s.openBlock src b).updBlock src b fun d => { d with nXdrop := d.nXdrop + 1, hXdrop := d.hXdrop + crc64 (beBytes 3 q) }

/-! ## The pair link's queue (R378, R392) -/

/-- What waits for the pair link now in classes XG and XB, in 276ths of a cell of 276 bytes on the link. XG goes before XB; the two have what CONTROL leaves them, which is the rate that
R392 counts on: 750 Gb/s, or 350 Gb/s with LINK_HALF. -/
def State.xlinkNow (s : State) : Nat × Nat :=
  let d := (s.now - s.pair.xbAt) * (if s.pair.linkHalf then 35 else 75)
  (s.pair.xgFill - d, s.pair.xbFill - (d - s.pair.xgFill))

/-- XFEED_DROP (R378, R416). -/
def State.xfeedDrop (s : State) : State :=
  let s1 := (s.pairCount 2).count (deviceCtr 0x1020) 1
  if mayRaise s.pair.xfeedAt s.now secC then
    ({ s1 with pair := { s1.pair with xfeedAt := some s.now } }).raise 760 Ev.xfeedDrop
  else s1

/-- A copy of `cells` cells asks for the pair link in class XG or XB: tail-dropped where the XB queue has no room (R378). -/
def State.xlinkTake (s : State) (xg : Bool) (cells : Nat) : State × Bool :=
  let f := s.xlinkNow
  let n := cells * 276
  if xg then ({ s with pair := { s.pair with xgFill := f.1 + n, xbFill := f.2, xbAt := s.now } }, true)
  else if 65536 * 276 < f.2 + n then (s.xfeedDrop, false)
  else ({ s with pair := { s.pair with xgFill := f.1, xbFill := f.2 + n, xbAt := s.now } }, true)

end Sys2Proof.Machine
end

