-- ==== Sys2Proof/Machine/Admit.lean ====
section
/-!
DEFINITION. The lookup of a frame and the admission of its copies (R281 to R296, R300 to R311, R334, R338, R339, R346, R349, R358 to
R361, R370, R371, R389 to R394).
-/
namespace Sys2Proof.Machine

/-! ## Where a frame comes from, and who emits a copy (R385 to R390) -/

/-- Whether port `p` is DUAL in an enabled pair. -/
def State.isDual (s : State) (p : Nat) : Bool := s.pair.enable && decide ((s.pair.ports.get p).attach = .dual)
/-- Whether port `p` is SINGLE in an enabled pair. -/
def State.isSingle (s : State) (p : Nat) : Bool := s.homedHere p || s.homedRemote p

/-- The kind of a frame's source: a port that is not paired, a DUAL port, a SINGLE port homed here, the pair link with a cross-fed or
a relayed copy, the CPU port (R485, R487). -/
inductive Origin where
  | unpaired | dual | single | cross | relayed | cpu
deriving DecidableEq, Repr

/-- The source of a frame of the device's own links. -/
def State.originOf (s : State) (p : Nat) (cpu : Bool) : Origin :=
  if cpu then .cpu else if s.isDual p then .dual else if s.isSingle p then .single else .unpaired

/-- What becomes of a copy for egress port `e` (R390): emitted here, not emitted, or relayed over the pair link. -/
inductive Emission where
  | emit | notLocal | relay
deriving DecidableEq, Repr

/-- The table of R390. -/
def State.emission (s : State) (o : Origin) (e : Nat) : Emission :=
  if !s.homedRemote e then .emit
  else match o with
    | .unpaired => .emit
    | .dual => if s.pairServing then .relay else .emit
    | .cpu => if s.pairServing then .relay else .emit
    | .single => .notLocal
    | .cross => .notLocal
    | .relayed => .notLocal

/-- The pair-tag part of a copy's rewrite for egress port `e` (R389): 0 as it is, 1 removed, 2 inserted, 3 PATH set. -/
def State.pairEdit (s : State) (o : Origin) (tagged : Bool) (e : Nat) : Nat :=
  if s.isDual e then (if tagged then 3 else match o with | .single => 2 | .cross => 2 | _ => 0)
  else if s.isSingle e then 1
  else 0

/-! ## The lookup sequence (R300) -/

/-- What a lookup reads: ingress port, bytes, the length where the frame has ended, parse result, ACL action and source. -/
structure LookIn where
  p : Nat
  b : List Byte
  len : Option Nat
  pr : Parsed
  act : AclAction
  origin : Origin
deriving DecidableEq, Repr

/-- What a lookup comes to. -/
structure Look where
  plan : Plan := {}
  result : BitVec 32 := 0
  tc : Nat := 0
deriving DecidableEq, Repr, Inhabited

/-- The look with COPY of the ACL: a copy goes to the slow path with reason ACL_COPY, whatever becomes of the original (R282, R291). -/
def Look.copied (l : Look) (copy : Bool) : Look := { l with plan := { l.plan with aclCopy := copy } }

/-- The lookup read a LOST location: the frame is discarded and counted (R318). -/
def State.lookEcc (s : State) (p tc : Nat) : State × Look := (s.count (portCtr p 0xE8) 1, { plan := { fault := true }, tc := tc })

/-- The frame is discarded, with its count on the ingress port. -/
def State.lookDrop (s : State) (p off tc : Nat) (r : BitVec 32) : State × Look := (s.count (portCtr p off) 1, { tc := tc, result := r })

/-- The frame goes to the slow path. -/
def lookSlow (reason tc : Nat) (r : BitVec 32) : Look := { plan := { slow := some reason }, tc := tc, result := r }

/-- The VID of a frame (R301). -/
def State.vidOf (s : State) (p : Nat) (pr : Parsed) : Nat :=
  match pr.tags.head? with
  | some t => if t.2.2 % 4096 = 0 then (s.ports.get p).pvid else t.2.2 % 4096
  | none => (s.ports.get p).pvid

/-- Copies for the outputs of a frame before their rewrite: port, egress VID where the VLAN rule applies, and the routed part. -/
structure OutSpec where
  port : Nat
  vid : Option Nat
  da : Option Nat := none
  routed : Bool := false
  ttl : Bool := false
  rmac : Nat := 0
deriving DecidableEq, Repr, Inhabited

/-- The output of a next hop (R306, R309). -/
def NextHop.out (x : NextHop) : OutSpec :=
  { port := x.port, vid := some x.vid, da := some x.da, routed := true, ttl := x.decTtl, rmac := x.rmac }

/-- The output of a multicast member for a frame of VLAN `vid` (R308, R309). -/
def State.memberOut (s : State) (vid : Nat) (m : Member) : OutSpec :=
  let v := if m.vid = 0 then vid else m.vid
  { port := m.port, vid := some v, routed := m.routed, ttl := m.routed, rmac := (s.fwd.vlans.get v).rmac }

/-- The egress rewrite of one output and its length check (R308, R309): a copy, or a discard counted on the egress port; `none` in the
first place where a LOST location was read. -/
def State.rewriteOut (s : State) (x : LookIn) (tc : Nat) (o : OutSpec) : State × Option (Option CopyPlan) :=
  let v := match o.vid with | some v => s.fwd.vlans.get v | none => {}
  let lost := (match o.vid with | some n => s.isLost 9 n | none => false) || (o.routed && s.isLost 10 o.rmac)
  let l3Bad := o.routed && o.da.isNone && !v.l3
  if lost then (s, none)
  else if l3Bad || (o.vid.isSome && !v.members.getLsbD o.port) then (s.count (portCtr o.port 0xC0) 1, some none)
  else
    let r : Rewrite := {
      vid := o.vid, untag := v.untagged.getLsbD o.port, da := o.da, sa := if o.routed then some (s.fwd.rmacs.get o.rmac) else none
      ttl := o.ttl, pair := s.pairEdit x.origin x.pr.pairAt.isSome o.port, path := s.fuses.pairStrap }
    let r1 := if o.vid.isNone ∧ r.pair = 0 then {} else r
    let here := decide (s.emission x.origin o.port = .emit)
    let long := match x.len with | some n => decide ((s.ports.get o.port).maxFrame < r1.newLen x.pr n) | none => false
    if here && long then (s.count (portCtr o.port 0xE0) 1, some none)
    else
      let k := s.kindOf o.port tc
      (s, some (some { port := o.port, kind := k, contract := if k = 0 then s.contracts.table.find (contractKey o.port tc) else none
                       rewrite := r1 }))

/-- The rewrites of a list of outputs; a LOST location read by any of them discards the frame. -/
def State.rewriteAll (s : State) (x : LookIn) (tc : Nat) : List OutSpec → State × Option (List CopyPlan)
  | [] => (s, some [])
  | o :: os =>
    match s.rewriteOut x tc o with
    | (s1, none) => (s1, none)
    | (s1, some c) =>
      match s1.rewriteAll x tc os with
      | (s2, none) => (s2, none)
      | (s2, some l) => (s2, some (match c with | some d => d :: l | none => l))

/-- The mask of a list of ports (R402). -/
def portMask (l : List Nat) : BitVec 256 := BitVec.ofNat 256 (l.foldl (fun a p => if a.testBit p then a else a + 2 ^ p) 0)

/-- The outputs of a frame become its copies (step 8 of R300). -/
def State.lookOut (s : State) (x : LookIn) (tc : Nat) (r : BitVec 32) (os : List OutSpec) (g : Option (Nat × Bool)) : State × Look :=
  match s.rewriteAll x tc os with
  | (s1, none) => s1.lookEcc x.p tc
  | (s1, some l) =>
    (s1, { plan := { copies := l, replicated := g.isSome, aon := (match g with | some y => y.2 | none => false)
                     group := (match g with | some y => y.1 | none => 0), mask := portMask (os.map (·.port)) }
           result := r, tc := tc })

/-- A STEER_ABSENT or STEER_INVALID event is due for a profile (R299). -/
def State.steerEvent (s : State) (prof idx : Nat) (absent : Bool) : State :=
  let x := s.parse.steer.get prof
  if absent then
    if mayRaise x.absentAt s.now secC then
      (s.updParser fun y => { y with steer := y.steer.upd prof fun z => { z with absentAt := some s.now } }).raise 825 Ev.steerAbsent
        [.u 2 prof]
    else s
  else if mayRaise x.invalidAt s.now secC then
    (s.updParser fun y => { y with steer := y.steer.upd prof fun z => { z with invalidAt := some s.now } }).raise 825 Ev.steerInvalid
      [.u 2 prof, .u 2 idx]
  else s

/-- What steering decides (R294, R295): the slow path, or the class it sets, a port that replaces the destination, and the ECMP member
number to be taken modulo the member count. -/
inductive Steered where
  | slow (reason : Nat)
  | go (cls port member : Option Nat)
deriving DecidableEq, Repr

/-- Steering of a frame of port `p` by a profile; `ecmp` says that the result names an ECMP group. -/
def State.steerBy (s : State) (p prof : Nat) (k : BitVec 640) (ecmp : Bool) : State × Steered :=
  match (s.parse.steer.get prof).index k with
  | none => (s, .slow 0x0A)
  | some (i, absent) =>
    let s1 := if absent then (s.count (portCtr p 0xB0) 1).steerEvent prof i true else s
    let e := (s.parse.ind.get (4096 * prof + i)).toNat
    let kind := e / 2 ^ 28 % 8
    let v := e / 2 ^ 20 % 256
    if e / 2 ^ 31 = 0 ∨ (kind = 1 ∧ !ecmp) then (s1.steerEvent prof i false, .slow 0x0B)
    else
      let cls := if e / 2 ^ 19 % 2 = 1 then some (e / 65536 % 8) else none
      (s1, .go cls (if kind = 0 then some v else none) (if kind = 1 then some v else if kind = 2 then some i else none))

/-- Step 7 and 8 of R300 for a table result `r` of VLAN `vid`; `direct` says that an override named the port. -/
def State.expand (s : State) (x : LookIn) (tc vid : Nat) (routed direct : Bool) (member : Option Nat) (r : BitVec 32) : State × Look :=
  let v := resValue r
  match resKind r with
  | 0 => s.lookDrop x.p 0xD0 tc r
  | 1 =>
    if direct then s.lookOut x tc r [{ port := v, vid := none }] none
    else if !routed && decide (v = x.p) then s.lookDrop x.p 0xC8 tc r
    else s.lookOut x tc r [{ port := v, vid := some vid }] none
  | 2 => if s.isLost 4 v then s.lookEcc x.p tc else s.lookOut x tc r [(s.fwd.nhs.get v).out] none
  | 3 =>
    let g := s.fwd.ecmp.get v
    let n := g.members.length
    let i := member.getD 0 % max 1 n
    let nh := nth g.members i
    if s.isLost 5 v || s.memberLost 6 g.locs i || s.isLost 4 nh then s.lookEcc x.p tc
    else s.lookOut x tc r [(s.fwd.nhs.get nh).out] none
  | 4 =>
    let g := s.fwd.mcast.get v
    let kept := g.members.filter fun m => !(g.prune && decide (m.port = x.p))
    if s.isLost 7 v || (List.range g.members.length).any (fun i => s.memberLost 8 g.locs i) then s.lookEcc x.p tc
    else if kept.isEmpty then (s.count (deviceCtr 0x1010) 1, { tc := tc, result := r })
    else s.lookOut x tc r (kept.map (s.memberOut vid)) (some (v, g.aon))
  | _ => (s, lookSlow 0x0E tc r)

/-- Steps 5 to 8 of R300: override, steering and expansion of a held result, or of a miss: 0xD8 for L2_MISS, 0 for the slow path. -/
def State.steerAndExpand (s : State) (x : LookIn) (vid : Nat) (routed : Bool) (held : BitVec 32) (miss : Option Nat) : State × Look :=
  let k := x.pr.key
  let tc0 := s.classOf x.p k none x.act.cls
  let r := match x.act.redirect with | some p => mkResult 1 p | none => held
  let direct := x.act.redirect.isSome
  let ecmp := decide (resKind r = 3) && (miss.isNone || direct)
  if ecmp && s.isLost 5 (resValue r) then s.lookEcc x.p tc0
  else
    let prof := match x.act.steer with | some n => some n | none => if ecmp then some (s.fwd.ecmp.get (resValue r)).profile else none
    let st : State × Steered := match prof with
      | some n => s.steerBy x.p n k ecmp
      | none => (s, .go none none none)
    match st.2 with
    | .slow reason => (st.1, lookSlow reason tc0 r)
    | .go cls port member =>
      let tc := s.classOf x.p k cls x.act.cls
      match port with
      | some q => st.1.expand x tc vid routed true none (mkResult 1 q)
      | none =>
        if direct then st.1.expand x tc vid routed true none r
        else match miss with
          | some 0 => (st.1, lookSlow 0x0C tc r)
          | some off => st.1.lookDrop x.p off tc r
          | none => st.1.expand x tc vid routed false member r

/-- The lookup sequence of R300. -/
def State.look (s : State) (x : LookIn) : State × Look :=
  let tc := s.classOf x.p x.pr.key none x.act.cls
  let vid := s.vidOf x.p x.pr
  let v := s.fwd.vlans.get vid
  if s.isLost 9 vid then s.lookEcc x.p tc
  else if !(vidOk vid && v.enable && v.members.getLsbD x.p) then s.lookDrop x.p 0xB8 tc 0
  else if v.l3 && x.pr.l3At.isSome && s.isLost 10 v.rmac then s.lookEcc x.p tc
  else
    let a := x.pr.l3At.getD 0
    let routed := v.l3 && x.pr.l3At.isSome && decide (fbn x.b 0 6 = s.fwd.rmacs.get v.rmac)
    if routed then
      if fb x.b (if x.pr.v6 then a + 7 else a + 8) ≤ 1 then (s, lookSlow 0x0D tc 0)
      else
        match s.routeLookup x.pr.v6 (if x.pr.v6 then fbn x.b (a + 24) 16 else fbn x.b (a + 16) 4) with
        | .lost => s.lookEcc x.p tc
        | .miss => s.steerAndExpand x vid true 0 (some 0)
        | .found r => s.steerAndExpand x vid true r none
    else
      match s.l2Lookup vid (fbn x.b 0 6) with
      | .lost => s.lookEcc x.p tc
      | .found r => s.steerAndExpand x vid false r none
      | .miss =>
        match v.unknown with
        | 0 => s.steerAndExpand x vid false (mkResult 4 v.floodMgid) none
        | 1 => s.steerAndExpand x vid false 0 (some 0xD8)
        | _ => s.steerAndExpand x vid false 0 (some 0)

/-! ## Judging one copy (R339, R346, R360, R361) -/

/-- The charge of a copy in cells: of a guaranteed class by its contract, else by the length or the ingress port's maximum. -/
def Frame.charge (f : Frame) (c : CopyPlan) : Nat :=
  if f.ended then cellsOf f.len
  else match c.contract with
    | some k => cellsOf k.fmax
    | none => cellsOf f.maxFrame

/-- The bucket level of a contract at the RX stamp TICK of a frame (R360), in 2^-40 cell. -/
def Contract.levelAt (x : Contract) (t : Nat) : Nat :=
  if x.tLast < t then min (x.burst * 2 ^ 40) (x.level + (t - x.tLast) * (x.rate * 2 ^ 40 / 2560000)) else x.level

/-- Deep classes behave as on KZ6256-LC: by the order code, or because the skein has FAILED (R343). -/
def State.asLc (s : State) : Bool := decide (s.fuses.orderCode = .lc) || decide (s.core.skein = .failed)

/-- QL of queue `(p, c)` for a kind (R338). -/
def State.queueLimit (s : State) (p c kind : Nat) : Nat :=
  match (s.core.queues.get (8 * p + c)).ql with
  | some n => if decide (kind = 1) && s.asLc then min n 524288 else n
  | none => if decide (kind = 1) && !s.asLc then 4194304 else 8192

/-- The verdict on a copy: 0 admitted; 1 to 5 the checks of R361 and R486; 6 TAIL_DROP. -/
def State.judgeCopy (s : State) (f : Frame) (c : CopyPlan) : Nat :=
  let charge := f.charge c
  if !s.portUp c.port then 1
  else match c.contract with
    | some k =>
      let live := (s.contracts.table.find (contractKey c.port f.tc)).getD k
      if k.state ≠ .active then 2
      else if f.cpu then 3
      else if !k.mask.getLsbD f.port then 3
      else if k.fmax < 256 ∧ !(f.ended && decide (f.len ≤ k.fmax)) then 4
      else if live.levelAt f.rxTick < charge * 2 ^ 40 then 5
      else 0
    | none =>
      if c.kind = 0 then (if f.cpu then 3 else 2)
      else
      let q := s.queueOnChip c.port f.tc + s.queueSkein c.port f.tc
      if s.sharedFree < charge ∨ (s.core.classes.get f.tc).cl < s.classCells f.tc + charge
          ∨ s.queueLimit c.port f.tc c.kind < q + charge then 6
      else 0

/-- Whether the copy is cut through (R334, R392). -/
def State.cutsThrough (s : State) (f : Frame) (c : CopyPlan) : Bool :=
  let rin := if f.xfeed && s.pair.linkHalf then min (s.rate256 f.port) (400000 * 256) else s.rate256 f.port
  let v := s.core.voqs.get (voqKey (tileOf f.port) c.port f.tc)
  !f.ended && decide (s.rate256 c.port ≤ rin) && (s.core.ports.get c.port).cut && v.all fun k => decide ((s.core.copies.get k).inSkein = 0)

/-- The deadline of a copy under a contract (R359): TICK and SUB. -/
def Frame.deadline (f : Frame) (k : Contract) : Nat × Nat :=
  let u := f.rxTick * 65536 + f.rxSub + k.lMax * 81920
  (u / 65536, u % 65536)

/-- The copy is admitted: it is charged and enters its VOQ; a guaranteed one counts as ADMITTED and draws on its contract. -/
def State.admitCopy (s : State) (n : Nat) (f : Frame) (c : CopyPlan) : State :=
  let charge := f.charge c
  let v := voqKey (tileOf f.port) c.port f.tc
  let k := s.core.nextCopy
  let x : Copy := {
    frame := n, inTile := tileOf f.port, port := c.port, tc := f.tc, kind := c.kind, charge := charge
    cells := if f.ended then cellsOf f.len else 0, arrived := if f.ended then cellsOf f.len else 1
    deadline := c.contract.map f.deadline, cut := s.cutsThrough f c, rewrite := c.rewrite, admitted := s.tick }
  let core := s.core
  let s1 := { s with core := { core with copies := core.copies.set k x, nextCopy := k + 1, voqs := core.voqs.upd v (· ++ [k]) } }
  let q := s1.queueOnChip c.port f.tc + s1.queueSkein c.port f.tc
  let s2 := s1.updQueue c.port f.tc fun y => { y with peak := max y.peak q }
  match c.contract with
  | none => s2
  | some k =>
    let key := contractKey c.port f.tc
    let live := (s.contracts.table.find key).getD k
    let lv := live.levelAt f.rxTick
    let s3 := if s.contracts.table.has key then
        s2.updContract key fun y => { y with level := lv - charge * 2 ^ 40, tLast := max y.tLast f.rxTick, copies := y.copies + 1 }
      else s2
    (s3.updFrame n fun g => { g with guar := g.guar ++ [(c.port, f.tc, charge)] }).count (contractCtr c.port f.tc 0) 1

/-- Check 5 of R361 brings the bucket of the copy's contract up to the RX stamp of its frame, whatever it decides (R360). -/
def State.refill (s : State) (f : Frame) (c : CopyPlan) : State :=
  let key := contractKey c.port f.tc
  if c.contract.isSome && s.contracts.table.has key then
    s.updContract key fun y => { y with level := y.levelAt f.rxTick, tLast := max y.tLast f.rxTick }
  else s

/-- A refusal is counted (R339, R346, R361): TAIL_DROP with its event, PORT_DOWN_REFUSED on the queue, a guaranteed copy's on its
contract. -/
def State.countRefusal (s : State) (f : Frame) (c : CopyPlan) (code : Nat) : State :=
  let p := c.port
  if code = 6 then
    let s1 := s.count (queueCtr p f.tc 0x10) 1
    let q := s.core.queues.get (8 * p + f.tc)
    let s2 := s1.updQueue p f.tc fun y => { y with tailAt := some s.now }
    if mayRaise q.tailAt s.now secC then s2.raise (672 + tileOf p) Ev.tailDrop else s2
  else
    let s1 := if code = 1 then s.count (queueCtr p f.tc 0x18) 1 else if code = 5 then s.refill f c else s
    if c.contract.isSome then s1.count (contractCtr p f.tc (0x08 + 8 * code)) 1 else s1

/-- REASON of a REFUSED capture record (R350, R361); code 7 is a copy that AON holds back. -/
def refusedReason (code : Nat) : Nat := if code = 1 then 3 else if code = 6 then 2 else if code = 7 then 4 else 1

/-! ## The admission decision (R281) -/

/-- The copies of a frame judged one by one (R310, AON = 0): the refusals, with their codes. -/
def State.admitEach (s : State) (n : Nat) : List CopyPlan → State × List (CopyPlan × Nat)
  | [] => (s, [])
  | c :: cs =>
    let f := s.core.frames.get n
    let code := s.judgeCopy f c
    let s1 := if code = 0 then s.admitCopy n f c else s.countRefusal f c code
    let (s2, l) := s1.admitEach n cs
    (s2, if code = 0 then l else (c, code) :: l)

/-- The verdicts on all copies in one cycle (R310, AON = 1), each as if those before it had been charged. -/
def State.judgeAll (s : State) (n : Nat) : List CopyPlan → List (CopyPlan × Nat)
  | [] => []
  | c :: cs =>
    let f := s.core.frames.get n
    let code := s.judgeCopy f c
    (c, code) :: (if code = 0 then s.admitCopy n f c else s).judgeAll n cs

/-- AON (R310, R370): every copy is admitted or none is, with the refusals counted and MC_AON_REFUSED. -/
def State.admitAon (s : State) (n g : Nat) (cs : List CopyPlan) : State × List (CopyPlan × Nat) :=
  let l := s.judgeAll n cs
  if l.all fun x => decide (x.2 = 0) then s.admitEach n cs
  else
    let f := s.core.frames.get n
    let s1 := l.foldl (fun (s : State) x => if x.2 = 0 then s.refill f x.1 else s.countRefusal f x.1 x.2) (s.count (deviceCtr 0x1000) 1)
    let s2 := if mayRaise (s.fwd.mcast.get g).aonAt s.now secC then
        (s1.updFwd fun w => { w with mcast := w.mcast.upd g fun y => { y with aonAt := some s.now } }).raise 826 Ev.mcAonRefused [.u 4 g]
      else s1
    (s2, l.map fun x => (x.1, if x.2 = 0 then 7 else x.2))

/-- The slow-path frame that a frame gives under a reason (R282, R488). -/
def Frame.slowItem (f : Frame) (n reason cells : Nat) (bytes : List Byte) : SlowFrame :=
  { port := f.port, reason := reason, frame := n, bytes := bytes, cells := cells, rxTick := f.rxTick, rxSub := f.rxSub
    flags := flag f.stale 1 + flag f.coast 2 + flag f.xfeed 4, cls := if f.exc = 0 then f.tc else 0
    pairSrc := match f.tagSrc with
      | some t => t.1
      | none => match f.parsed.pairAt with | some a => fb2 bytes (a + 1) | none => 0 }

/-- A frame asks for the slow path under a reason (R283): one that has ended is handed on, any other waits for its end. The flag says
that it was taken. -/
def State.toSlow (s : State) (n reason : Nat) : State × Bool :=
  let f := s.core.frames.get n
  let cells := cellsOf (if f.ended then f.len else f.maxFrame)
  let r := s.slowAdmit reason cells
  if !r.2 then (r.1, false)
  else if f.ended then
    (r.1.updParser fun y => { y with slow := y.slow ++ [f.slowItem n reason cells f.bytes] }, true)
  else
    (r.1.updFrame n fun g => { g with slow := true, slowWait := g.slowWait ++ [reason], slowCells := g.slowCells + cells }, true)

/-- A copy for the pair link: sent at once where the frame has ended, else kept until it ends (R390, R391). -/
def State.xlinkPut (s : State) (n : Nat) (x : XlinkFrame) : State :=
  if (s.core.frames.get n).ended then { s with pair := { s.pair with xlink := x :: s.pair.xlink } }
  else s.updFrame n fun f => { f with xout := f.xout ++ [x] }

/-- What frame `f` carries over the pair link: its ingress port, source ID and SEQ, and its RX stamp, in KTIME and converted to the partner's
TICK with TICK_OFFSET (R222, R391). -/
def State.xlinkFrame (s : State) (f : Frame) (source seq : Nat) (guaranteed : Bool) : XlinkFrame :=
  { port := f.port, source := source, seq := seq, guaranteed := guaranteed, rxK := f.rxK.getD (s.kOf f.rxTick f.rxSub)
    rxU := ((f.rxTick * 65536 + f.rxSub : Nat) : Int) + s.pair.tickOffset, stale := f.stale, coast := f.coast, bytes := f.bytes }

/-- The source ID and SEQ of a SINGLE port's frame, and its cross-feed (R391); the duplicate entry and digest of the source. -/
def State.crossFeed (s : State) (n : Nat) : State :=
  let f := s.core.frames.get n
  let y := s.pair.ports.get f.port
  let q := y.seq.toNat
  let s1 := { s with pair := { s.pair with ports := s.pair.ports.upd f.port fun z => { z with seq := z.seq + 1 } } }
  let s2 := s1.updFrame n fun g => { g with tagSrc := some (y.source, q) }
  if !s.pairServing then s2
  else
    let r := s2.dupTouch y.source q
    let xg := f.plan.copies.any fun c => decide (c.kind = 0)
    let x := r.1.xlinkTake xg (cellsOf (if f.ended then f.len else f.maxFrame))
    if x.2 then
      (x.1.xlinkPut n (s.xlinkFrame f y.source q xg)).pairCount 0
    else if r.2 then x.1.foldXdrop y.source q else x.1

/-- The frame enters the digest of its source, if that has an entry (R402). -/
def State.digestFrame (s : State) (n src q : Nat) : State :=
  if !s.pair.dup.has src then s
  else
    let f := s.core.frames.get n
    (s.foldFrame src q f.plan.mask f.result f.tc).updFrame n fun g => { g with digest := some (src, blockOf q) }

/-- One copy at emission: what this unit judges of it, and the worst outcome if it does not (R390, R393). -/
def State.emitOne (s : State) (n : Nat) (o : Origin) (tag : Option (Nat × Nat)) (c : CopyPlan) : State × Option CopyPlan × Nat :=
  let f := s.core.frames.get n
  match (if o = Origin.cpu ∧ c.kind = 0 then Emission.emit else s.emission o c.port) with
  | .notLocal => (s.pairCount 3, none, 0)
  | .relay =>
    let x := s.xlinkTake (decide (c.kind = 0)) (cellsOf (if f.ended then f.len else f.maxFrame))
    if x.2 then
      ((x.1.xlinkPut n { s.xlinkFrame f (tag.getD (0, 0)).1 (tag.getD (0, 0)).2 (decide (c.kind = 0)) with
        cross := false, egress := some c.port }).pairCount 1, none, 0)
    else (x.1, none, 1)
  | .emit =>
    match tag with
    | some t =>
      let c1 := if c.rewrite.pair = 2 then { c with rewrite := { c.rewrite with source := t.1, seq := t.2 } } else c
      if (decide (o = .dual) || decide (o = .relayed)) && s.homedHere c.port then
        let j := s.dupPass t.1 t.2
        if j.2 then (j.1, some c1, 0) else (j.1, none, 1)
      else (s, some c1, 0)
    | none => (s, some c, 0)

/-- The copies of a frame that this unit judges: those it emits, less duplicates; NOT_LOCAL copies are counted and relayed copies
sent (R390, R393). The number is the worst outcome of those that are not judged. -/
def State.emitCopies (s : State) (n : Nat) (o : Origin) (tag : Option (Nat × Nat)) : List CopyPlan → State × List CopyPlan × Nat
  | [] => (s, [], 0)
  | c :: cs =>
    let r := s.emitOne n o tag c
    let x := r.1.emitCopies n o tag cs
    (x.1, r.2.1.toList ++ x.2.1, max x.2.2 r.2.2)

/-- The one capture record of a frame at its decision (R349): ACL or SAMPLE as fired at its window, else the first refusal that
REFUSED is enabled for. -/
def State.captureDecision (s : State) (n : Nat) (refused : List (CopyPlan × Nat)) : State :=
  let f := s.core.frames.get n
  match f.capTrig with
  | some t =>
    let kind := if f.exc ≠ 0 ∨ f.plan.slow.isSome then 3 else match f.plan.copies with | c :: _ => c.kind | [] => 3
    s.captureFrame n f.closeAt (s.captureRec n t none f.tc kind 0)
  | none =>
    let x := s.core.capture.trigs.get 2
    match refused.find? fun c => x.enable && x.mask.getLsbD c.1.port with
    | some c => s.captureFrame n f.closeAt (s.captureRec n 2 (some c.1.port) f.tc c.1.kind (refusedReason c.2))
    | none => s

/-- The TX stamp request of a frame learns how many copies it waits for, and each refused one (R206). -/
def State.tsqDecide (s : State) (n total : Nat) (gone : List Nat) : State :=
  match s.tsqOf n with
  | none => s
  | some (q, r) =>
    let r1 := { r with left := total, admittedAt := some s.tick }
    let s1 := s.updTsq q fun y => { y with reqs := y.reqs.map fun z => if z = r then r1 else z }
    if total = 0 then s1.tsqEnd q r1 (r1.entry s.tick)
    else gone.foldl (fun (s : State) p => s.tsqCopy n p none 5) s1

/-- Frame `n` has ended without error and its decision has been made (R283, R309, R339, R358, R360): a copy that is too long for its
egress port counts as not admitted; the other guaranteed copies are accepted; surplus charges return; what waited for the end goes to
the slow path and the pair link. -/
def State.goodEnd (s : State) (n : Nat) : State :=
  let f := s.core.frames.get n
  let cells := cellsOf f.len
  let own := s.copiesWhere fun x => decide (x.frame = n)
  let s1 := own.foldl (fun (s : State) k =>
    (s.updCopy k fun x => { x with charge := cells, cells := cells, arrived := cells, crossed := min x.crossed cells }).leaveVoq k) s
  let long := if f.ended then [] else own.filter fun k =>
    let x := s1.core.copies.get k
    decide ((s1.ports.get x.port).maxFrame < x.rewrite.newLen f.parsed f.len)
  let longPorts := long.map fun k => (s1.core.copies.get k).port
  let s2 := f.guar.foldl (fun (s : State) g =>
    let key := contractKey g.1 g.2.1
    let s' := if s.contracts.table.has key then
        s.updContract key fun y => { y with level := min (y.burst * 2 ^ 40) (y.level + (g.2.2 - cells) * 2 ^ 40) }
      else s
    if longPorts.contains g.1 then s' else s'.count (contractCtr g.1 g.2.1 0x08) 1) s1
  let items : List SlowFrame := f.slowWait.map fun r => f.slowItem n r cells f.bytes
  let s3 := s2.updParser fun y => { y with slow := y.slow ++ items, reserve := y.reserve - f.slowCells + cells * items.length }
  let s4 := { s3 with pair := { s3.pair with xlink := (f.xout.map fun (x : XlinkFrame) => { x with bytes := f.bytes }).reverse ++ s3.pair.xlink } }
  let s5 := s4.updFrame n fun g => { g with guar := [], slowWait := [], slowCells := 0, slow := false, xout := [] }
  long.foldl (fun (s : State) k =>
    let x := s.core.copies.get k
    if x.sending then s.stompCopy k 5 else (s.count (portCtr x.port 0xE0) 1).discardCopy k 5) s5

/-- The frame's outcome after its decision: `w` is the worst among the copies that are settled, `left` the copies that wait (R403). -/
def State.settleDecision (s : State) (n w left : Nat) : State :=
  let s1 := (s.updFrame n fun f => { f with decided := true, worst := max f.worst w, left := left }).capFlush
  let s2 := if left = 0 then
      match (s.core.frames.get n).digest with
      | some d => s1.foldOutcome d.1 d.2 w
      | none => s1
    else s1
  (if (s2.core.frames.get n).done then s2.goodEnd n else s2).dropFrame n

/-- The source ID and SEQ the frame was given, or carries as its pair tag (R389, R391). -/
def Frame.pairTag (f : Frame) (o : Origin) : Option (Nat × Nat) :=
  match f.tagSrc with
  | some t => some t
  | none => if o = Origin.dual then f.parsed.pairAt.map fun a => (fb2 f.bytes (a + 1), fbn f.bytes (a + 3) 3) else none

/-- A frame with a tag enters the digest of its source (R402). -/
def State.foldDecided (s : State) (n : Nat) (o : Origin) (f : Frame) (tag : Option (Nat × Nat)) : State :=
  match tag with
  | some t =>
    if decide (f.exc = 0) && decide (f.plan.slow ≠ some 0x0F) && decide (o = Origin.dual ∨ o = Origin.single ∨ o = Origin.cross) then
      (if o = Origin.single then s else (s.dupTouch t.1 t.2).1).digestFrame n t.1 t.2
    else s
  | none => s

/-- The slow path copy for `reason`, if the frame makes one; 1 if it is refused (R283, R390). -/
def State.slowCopy (s : State) (n : Nat) (o : Origin) (reason : Option Nat) : State × Nat :=
  match reason with
  | some r =>
    if o = Origin.cross then (s, 0)
    else
      let x := s.toSlow n r
      (x.1, if x.2 then 0 else 1)
  | none => (s, 0)

/-- The copies of the frame are admitted or refused, and its outcome follows (R310, R311, R403); `w` is the worst of its slow path copies. -/
def State.admitCopies (s : State) (n : Nat) (o : Origin) (tag : Option (Nat × Nat)) (plan : Plan) (w : Nat) : State :=
  let x := s.emitCopies n o tag plan.copies
  let cs := x.2.1
  let down := if plan.replicated then cs.filter fun c => !x.1.portUp c.port else []
  let up := if plan.replicated then cs.filter fun c => x.1.portUp c.port else cs
  let s1 := if down.isEmpty then x.1 else x.1.count (deviceCtr 0x1008) down.length
  let a := if plan.aon then s1.admitAon n plan.group up else s1.admitEach n up
  let gone := (down.map (·.port)) ++ a.2.map fun c => c.1.port
  let left := up.length - a.2.length
  ((a.1.captureDecision n a.2).tsqDecide n cs.length gone).settleDecision n (max w (max x.2.2 (if gone.isEmpty then 0 else 1))) left

/-- The admission decision of frame `n` from source `o` (R281, R310). -/
def State.decideFrame (before : State) (n : Nat) (o : Origin) : State :=
  let s := before.poolFollow
  let f0 := s.core.frames.get n
  if f0.bad then (s.updFrame n fun f => { f with decided := true }).capFlush.dropFrame n
  else
    let s1 := if decide (o = Origin.single) && decide (f0.exc = 0) then s.crossFeed n else s
    let f1 := s1.core.frames.get n
    let tag := f1.pairTag o
    let s2 := s1.foldDecided n o f1 tag
    let f := s2.core.frames.get n
    let acl (s : State) : State × Nat := s.slowCopy n o (if f.plan.aclCopy then some 0x09 else none)
    if f.plan.fault then (((acl s2).1.captureDecision n []).tsqDecide n 0 []).settleDecision n 2 0
    else
      let x := s2.slowCopy n o f.plan.slow
      let y := acl x.1
      y.1.admitCopies n o tag f.plan (max x.2 y.2)

/-- ADMISSION_DECISION (R281): 120 CORE cycles after window close the frame is looked up, classified, steered, expanded and each copy admitted or refused. -/
def execAdmissionDecision (frame : Nat) (s : State) : Out :=
  if !s.core.frames.has frame then .fault .noSuchObject
  else
    let f := s.core.frames.get frame
    if f.decided then .next s
    else
      let s1 := s.advanceTick (f.closeAt + 120)
      .next (s1.decideFrame frame (if f.relay then .relayed else if f.xfeed then .cross else s1.originOf f.port f.cpu))

end Sys2Proof.Machine
end

