-- ==== Sys2Proof/Machine/Events.lean ====
section
/-!
DEFINITION. The event controller's registers and timers, the event log, the statistics snapshots and the counter commands
(R510 to R527).
-/
namespace Sys2Proof.Machine

/-! ## Vectors (R511 to R513) -/

/-- VECTOR_TIMER_EXPIRY (R512): A vector's coalescing timer expires and it sends one message. -/
def execVectorTimerExpiry (vec : Nat) (s : State) : Out :=
  if 64 ≤ vec then .fault .noSuchObject
  else match (s.events.vecs.get vec).timer with
    | none => .next s
    | some t => .next ((s.advance t).vecSend vec)

/-- MSIX_MESSAGE_SEND (R513): A held MSI-X message is sent once enable and masks allow it. -/
def execMsixMessageSend (vec : Nat) (s : State) : Out :=
  if 64 ≤ vec then .fault .noSuchObject
  else
    let e := s.events
    let x := e.vecs.get vec
    if x.pba && e.msixEnable && !e.fnMask && !x.masked && s.host.bme then
      .next { s with events := { e with
        messages := vec :: e.messages, vecs := e.vecs.set vec { x with pba := false, sent := x.sent + 1 } } }
    else .next s

/-- The raises that a MASK write makes: one toward the vector of each source whose bit goes from 1 to 0 while PENDING is 1
(R511). -/
def State.unmaskRaises (s : State) (old : BitVec 1024) (first : Nat) : State :=
  (List.range 32).foldl (fun s b =>
    let n := first + b
    if old.getLsbD n && !s.events.mask.getLsbD n && s.events.pending.getLsbD n then s.vecRaise (s.events.routes.get n).vector
    else s) s

/-- Register `i` of 32 bits of a field of 1,024 bits. -/
def reg32 (v : BitVec 1024) (i : Nat) : BitVec 32 := BitVec.ofNat 32 (v.toNat / 2 ^ (32 * i))

/-- `v` with register `i` of 32 bits replaced by `x`. -/
def setReg32 (v : BitVec 1024) (i : Nat) (x : BitVec 32) : BitVec 1024 :=
  (v &&& ~~~(BitVec.ofNat 1024 (0xFFFFFFFF * 2 ^ (32 * i)))) ||| BitVec.ofNat 1024 (x.toNat * 2 ^ (32 * i))

/-- MASK_WRITE (R511): A MASK write unmasking a pending source counts one raise toward its vector. -/
def execMaskWrite (reg : Nat) (value : BitVec 32) (s : State) : Out :=
  if 32 ≤ reg then .fault .noSuchObject
  else
    let old := s.events.mask
    .next (({ s with events := { s.events with mask := setReg32 old reg value } }).unmaskRaises old (32 * reg))

/-- BAR0 offset of the event controller (R24). -/
def evBase : Nat := 0x00030000

/-- VEC_CTRL_WRITE (R512): A vector control write changes coalescing and may send the held message at once. -/
def execVecCtrlWrite (vec : Nat) (value : BitVec 32) (s : State) : Out :=
  if 64 ≤ vec then .fault .noSuchObject
  else
    let c := value.toNat % 512
    let t := value.toNat / 65536
    if c = 0 ∨ 256 < c ∨ (2 ≤ c ∧ t = 0) then .next (s.badAccess (evBase + 0x400 + 0x10 * vec))
    else
      let x := s.events.vecs.get vec
      let s1 := { s with events := { s.events with vecs := s.events.vecs.set vec { x with coalCount := c, coalTime := t } } }
      .next (if 0 < x.held ∧ c ≤ x.held then s1.vecSend vec else s1)

/-! ## The event log (R518, R519) -/

/-- One waiting item is written into the log, ahead of any new record: a LOST record, or the marker of an epoch. -/
def State.logItem (s : State) (w : RingWait) : State :=
  let e := s.events
  let r : LogRec := match w with
    | .mark ep => { kind := 1, value := ep }
    | .loss n t => { kind := 2, data := padTo 16 (leBytes 4 n), value := t }
  let s1 := (s.logStore e e.logWr.toNat r).logReached s
  match w with
  | .mark _ => s1
  | .loss _ _ =>
    if e.logLossPeriod then s1
    else ({ s1 with events := { s1.events with logLossPeriod := true } }).raise 832 Ev.logLost

/-- While the log has room, the items that wait are written in the order in which they arose (R519): the losses before each
marker, the marker, and the losses after the last one. -/
def State.logDrain (s : State) : Nat → State
  | 0 => s
  | n + 1 =>
    if s.events.logFull then s
    else match s.events.logWait with
      | w :: ws => (({ s with events := { s.events with logWait := ws } }).logItem w).logDrain n
      | [] =>
        if 0 < s.events.logRun then
          let w := RingWait.loss s.events.logRun s.events.logRunTick
          (({ s with events := { s.events with logRun := 0 } }).logItem w).logDrain n
        else { s with events := { s.events with logLossPeriod := false } }

/-- LOG_RD_COUNT_WRITE (R518): The host writes LOG_RD_COUNT, which is ignored with LOG_INDEX if out of order. -/
def execLogRdCountWrite (value : BitVec 32) (s : State) : Out :=
  let e := s.events
  if dist32 e.logRd value ≤ dist32 e.logRd e.logWr then
    .next (({ s with events := { e with logRd := value } }).logDrain 2050)
  else .next (s.raise 832 Ev.logIndex)

/-! ## Snapshots (R523, R524) -/

/-- A request made while BUSY or ARMED is ignored and counted (R524). -/
def State.snapOverrun (s : State) : State :=
  { s.hwCount (bar2Key 0x1C) s.stats.overrun with stats := { s.stats with overrun := inc32 s.stats.overrun } }

/-- SNAP_NOW (R524): A register write takes a statistics snapshot at once. -/
def execSnapNow (s : State) : Out :=
  let x := s.stats
  .next (if x.busy || x.armed then s.snapOverrun else 
    let t := s.lpiNow
    { t with stats := t.stats.snapshot s.contracts.maxSeen s.now s.tick 0 })

/-- SNAP_AT_FENCE (R524): A register write arms a statistics snapshot at the next fence's admission marker. -/
def execSnapAtFence (s : State) : Out :=
  let x := s.stats
  .next (if x.busy || x.armed then s.snapOverrun else { s with stats := { x with armed := true } })

/-- SNAP_DONE (R524): A snapshot finishes copying into the hidden bank and SNAP_SEQ increments. -/
def execSnapDone (s : State) : Out :=
  let x := s.stats
  if x.busy then
    let s1 := { s with stats := { x with busy := false, snap := x.hidden, seq := x.seq + 1, tick := x.pendTick, epoch := x.pendEpoch } }
    .next (s1.raise 832 Ev.snapDone [.u 4 s1.stats.seq.toNat])
  else .next s

/-! ## Commands (R526) -/

/-- The BAR2 range of index `n` of a block of COUNTER_CLEAR: its start and length (R520, R526). -/
def clearRange (block n : Nat) : Nat × Nat :=
  match block with
  | 0 => (portCtr n 0, 0x400)
  | 1 => (queueCtr (n / 8) (n % 8) 0, 0x100)
  | 2 => (contractCtr (n / 4) (n % 4 + 4) 0, 0x100)
  | _ => (deviceCtr 0, 0x2000)

/-- How many indices a block of COUNTER_CLEAR has (R526). -/
def clearSize (block : Nat) : Nat :=
  match block with
  | 0 => 256
  | 1 => 2048
  | 2 => 1024
  | _ => 1

/-- Live counters with the ranges of `count` indices from `first` on cleared, what they held being kept for the GET commands
(R525); MAX_SEEN of a cleared contract becomes 0. What the present CORE cycle has added or recorded is kept. -/
def State.clearCounters (s : State) (block first count : Nat) : State :=
  let lo := (clearRange block first).1
  let hi := (clearRange block (first + count - 1)).1 + (clearRange block (first + count - 1)).2
  let inside := fun (o : Nat) => decide (lo ≤ o ∧ o < hi)
  let ours := fun (k : Nat) => decide (first ≤ k ∧ k < first + count)
  let gone := s.stats.live.filter fun p => inside p.1
  let kept := (s.stats.grown s.now).filter fun p => inside p.1
  let seen := s.contracts.maxSeen.filter fun p => decide (block = 2) && ours p.1
  let t := seen.foldl (fun (t : Stats) p => t.touch s.now (maxSeenCtr p.1) p.2)
    (gone.foldl (fun (t : Stats) p => t.touch s.now p.1 p.2) s.stats)
  { s with
    stats := { t with
      live := kept.foldl (fun t p => t.set p.1 p.2) (s.stats.live.filter fun p => !inside p.1)
      cleared := gone.foldl (fun t p => t.upd p.1 (· + (p.2 - Tbl.get kept p.1))) s.stats.cleared }
    contracts := if block = 2 then
        { s.contracts with
          maxSeen := ((s.contracts.latest s.now).filter fun p => ours p.1).foldl (fun t p => t.set p.1 p.2.1)
            (s.contracts.maxSeen.filter fun p => !ours p.1) }
      else s.contracts
    parse := if block = 0 then
        { s.parse with ports := s.parse.ports.mapAll fun n x =>
            if first ≤ n ∧ n < first + count then { x with excSeen := false } else x }
      else s.parse }

/-- What the own checks and effect of COUNTER_CLEAR come to (R525). -/
def bodyCounterClear (block first count : Nat) (s : State) : Rep :=
  .ranges [block ≤ 3, first < clearSize block, 0 < count && first + count ≤ clearSize block] <|
    .ok (s.clearCounters block first count) []

/-- What the own checks and effect of EVENT_INJECT come to (R526). -/
def bodyEventInject (source cause : Nat) (data : List Byte) (s : State) : Rep :=
  .ranges [source ≤ 832, 1 ≤ cause % 256 && cause % 256 ≤ Ev.causesOf (cause / 256) && cause < 65536, true] <|
    .ok (s.raise source cause [.raw 1 (padTo 16 data)] true) []

/-- COUNTER_CLEAR (R525): Clears a range of BAR2 counters in one cycle. -/
def execCounterClear (src : CmdSrc) (block first count : Nat) (s : State) : Out :=
  .next (s.runCmd (.counterClear src block first count) src 0x0B01 (bodyCounterClear block first count))

/-- EVENT_INJECT (R526): Raises an event on a source with INJECTED set. -/
def execEventInject (src : CmdSrc) (source cause : Nat) (data : List Byte) (s : State) : Out :=
  .next (s.runCmd (.eventInject src source cause data) src 0x0B02 (bodyEventInject source cause data))


end Sys2Proof.Machine
end

