-- ==== Sys2Proof/Machine/Cores.lean ====
section
/-!
DEFINITION. The performance counters of the cores: their CSRs, what they count, and what the firmware of a core does with them between two looks of the
host (R5, R435 to R438).
-/
namespace Sys2Proof.Machine

/-! ## Counting (R436, R437) -/

/-- ENABLE of a KSEL register. -/
def kEnable (v : BitVec 11) : Bool := v.getLsbD 8
/-- CHAIN of a KSEL register. -/
def kChain (v : BitVec 11) : Bool := v.getLsbD 9
/-- OVF_IRQ of a KSEL register. -/
def kIrq (v : BitVec 11) : Bool := v.getLsbD 10
/-- EVENT of a KSEL register. -/
def kEvent (v : BitVec 11) : Nat := v.toNat % 256

/-- How far counter `k` of a core counts for `n` events of code `event`, `wraps` being the wraps of the counter before it: a counter that is
chained to one counts its wraps and ignores its own EVENT (R437). -/
def CtrlCore.stepOf (x : CtrlCore) (event n wraps k : Nat) : Nat :=
  if !kEnable (nth x.ksel k) then 0
  else if decide (0 < k) && kChain (nth x.ksel (k - 1)) then wraps
  else if kEvent (nth x.ksel k) = event then n else 0

/-- Counters `k` and up of a core count `n` events of code `event`: a wrap sets KOVF and, with OVF_IRQ, the core takes an interrupt (R437). -/
def CtrlCore.countFrom (event n : Nat) : Nat → Nat → Nat → CtrlCore → CtrlCore
  | 0, _, _, x => x
  | fuel + 1, k, wraps, x =>
    let v := (nth x.cnt k).toNat + x.stepOf event n wraps k
    let w := v / 2 ^ 32
    countFrom event n fuel (k + 1) w { x with
      cnt := x.cnt.set k (BitVec.ofNat 32 v)
      ovf := if w = 0 then x.ovf else x.ovf ||| BitVec.ofNat 8 (2 ^ k)
      irqs := if kIrq (nth x.ksel k) then x.irqs + w else x.irqs }

/-- Whether a code is one that R436 lists; mailbox commands are counted on C0 and C1 alone. -/
def coreEvent (core event : Nat) : Bool := decide (1 ≤ event ∧ event ≤ 0x0A) || (decide (event = 0x0B) && decide (core < 2))

/-- The counters of core `core` count `n` events of code `event` (R436, R437); an interrupt that an overflow brings about counts as one taken. -/
def CtrlCore.count (x : CtrlCore) (core event n : Nat) : CtrlCore :=
  if !coreEvent core event then x
  else
    let y := CtrlCore.countFrom event n 8 0 0 x
    if y.irqs = x.irqs then y else CtrlCore.countFrom 0x07 (y.irqs - x.irqs) 8 0 0 y

/-! ## The CSRs (R5, R435) -/

/-- KCYCLE: CTRL cycles, of two CORE cycles each, since PD2 power-on. -/
def State.kcycle (s : State) : Nat := (s.now - s.fw.kcycle0) / 2 % 2 ^ 64

/-- A read of CSR `csr` by core `n`, in M-mode or in U-mode; none where it raises an illegal-instruction exception. The U-mode read exists in KZ4096
compatibility mode only, and the standard RISC-V counter CSRs do not exist (R5, R435). -/
def State.csrRead (s : State) (n csr : Nat) (machine : Bool) : Option Nat :=
  let x := s.fw.cores.get n
  let user := machine || s.fw.base_.compat
  if csr = 0x7C0 then (if machine then some s.kcycle else none)
  else if 0x7C1 ≤ csr ∧ csr ≤ 0x7C8 then (if machine then some (nth x.cnt (csr - 0x7C1)).toNat else none)
  else if 0x7C9 ≤ csr ∧ csr ≤ 0x7D0 then (if machine then some (nth x.ksel (csr - 0x7C9)).toNat else none)
  else if csr = 0x7D1 then (if machine then some x.ovf.toNat else none)
  else if csr = 0xCC0 then (if user then some s.kcycle else none)
  else if 0xCC1 ≤ csr ∧ csr ≤ 0xCC8 then (if user then some (nth x.cnt (csr - 0xCC1)).toNat else none)
  else none

/-- A write of `v` to CSR `csr` by a core in M-mode; none where it raises an illegal-instruction exception (R435). -/
def CtrlCore.csrWrite (x : CtrlCore) (csr v : Nat) : Option CtrlCore :=
  if csr = 0x7C0 then some x
  else if 0x7C1 ≤ csr ∧ csr ≤ 0x7C8 then some { x with cnt := x.cnt.set (csr - 0x7C1) (BitVec.ofNat 32 v) }
  else if 0x7C9 ≤ csr ∧ csr ≤ 0x7D0 then some { x with ksel := x.ksel.set (csr - 0x7C9) (BitVec.ofNat 11 v) }
  else if csr = 0x7D1 then some { x with ovf := x.ovf &&& ~~~BitVec.ofNat 8 v }
  else none

/-! ## What firmware does between two looks of the host -/

/-- Mailbox commands of MB0 to MB6 that core `n` has completed; which of C0 and C1 served a command is free. -/
def State.servedBy (s : State) (n : Nat) : Nat :=
  (List.range 7).foldl (fun a m => a + if n = 0 then (s.mbs.get m).served0 else if n = 1 then (s.mbs.get m).served1 else 0) 0

/-- A CSR write of a core in M-mode; one that is illegal is an exception taken. -/
def CtrlCore.firmwareWrite (core : Nat) (x : CtrlCore) (w : Nat × Nat) : CtrlCore :=
  match x.csrWrite w.1 w.2 with
  | some y => y
  | none => x.count core 0x08 1

/-- The host looks at the counters of core `n`. While the core runs, its firmware writes its CSRs as it likes, and retires instructions, stalls and accesses as
it likes: those are free. The mailbox commands that it has completed are not. -/
def State.coreLook (s : State) (n : Nat) : State :=
  if (s.fw.cores.get n).state ≠ 1 then s
  else
    let (k, s1) := s.takeFree
    let served := s1.servedBy n
    s1.updCore n fun x =>
      let y := (Config.firmwareCsrs k n).foldl (CtrlCore.firmwareWrite n) x
      let z := [1, 2, 3, 4, 5, 6, 7, 8, 0x0A].foldl (fun (c : CtrlCore) e => c.count n e (Config.coreEvents k n e)) y
      { z.count n 0x0B (served - x.servedSeen) with servedSeen := served }

end Sys2Proof.Machine
end

