-- ==== Sys2Proof/Machine/Arrive.lean ====
section
/-!
DEFINITION. Frames as they arrive: the close of the parse window, and the end of a frame (R35, R200, R202, R273 to R280, R285, R286,
R299, R349, R387, R388, R401).
-/
namespace Sys2Proof.Machine

/-! ## The MAC (R35) -/

/-- What the FCS of a frame says: 0 good, 1 bad, 2 the complement of the correct value. -/
def fcsOf (b : List Byte) : Nat :=
  let n := b.length - 4
  let c := crc32 (b.take n)
  let v := ofLe (b.drop n)
  if v = c then 0 else if v = c ^^^ 0xFFFFFFFF then 2 else 1

/-! ## The RX stamp (R200, R202) -/

/-- The tap divider of a lane rate (R30, R51). -/
def tapDiv (rate : Nat) : Nat :=
  match rate with
  | 0 => 8448
  | 1 => 21120
  | 2 => 21760
  | _ => 43520

/-- The RX stamp of a frame whose first symbol after the SFD lies `taps` tap periods and `symbols` symbols after the fit of its first lane as
consumers use it, coasting while STALE (R141): TICK and SUB. -/
def State.rxStamp (s : State) (p taps symbols : Nat) : Nat × Nat :=
  let x := s.tdc.chans.get p
  let t : Int := (x.coastTick.getD x.fitTick + taps * x.period + symbols * x.period / tapDiv (s.ports.get p).rate : Nat) - s.rxLatency p p * 81920
  let u := t.toNat / 65536
  (u / 65536, u % 65536)

/-! ## Exceptions and control frames (R276 to R280, R285, R286, R299) -/

/-- An exception of port `p` is counted at `off`; the first since the counts were cleared raises PARSE_EXCEPTION (R299). -/
def State.parseException (s : State) (p off : Nat) : State :=
  let s1 := s.count (portCtr p off) 1
  if (s.parse.ports.get p).excSeen then s1
  else (s1.updParse p fun x => { x with excSeen := true }).raise (portSrc p) Ev.parseException

/-- Whether a frame whose walk reached an IP header ends before its L3 length (R280): `n` is its length through the FCS. -/
def Parsed.truncated (p : Parsed) (n : Nat) : Bool :=
  match p.l3At with
  | some a => decide (n - 4 < a + p.l3Len)
  | none => false

/-- A received MAC control frame is counted by its opcode; the first PAUSE or PFC since the cast-on raises PAUSE_RX (R285). -/
def State.macControl (s : State) (p opcode : Nat) : State :=
  if opcode = 1 ∨ opcode = 0x0101 then
    let s1 := s.count (portCtr p (if opcode = 1 then 0x90 else 0x98)) 1
    if (s.parse.ports.get p).pauseSeen then s1
    else (s1.updParse p fun x => { x with pauseSeen := true }).raise (portSrc p) Ev.pauseRx
  else s.count (portCtr p 0xA0) 1

/-- A destination that is never forwarded (R286). -/
def linkLocal (da : Nat) : Bool := decide (da / 16 = 0x0180C200000)

/-- Whether the port's PTP instance terminates the message at `a`, or the port is left to a PTP stack on the host (R215, R219). -/
def State.ptpTaken (s : State) (p : Nat) (b : List Byte) (a : Nat) : Bool :=
  decide ((s.ptp.ports.get p).inst = 4) ||
    match s.instOf p with
    | some n => decide (fb b (a + 4) = (s.ptp.insts.get n).domain ∧ fb b a / 16 = 0)
    | none => false

/-! ## The pair tag on receipt (R387, R388) -/

/-- What the pair tag of a frame means for it: the slow path, a discard, or neither. -/
inductive TagVerdict where
  | pass | slow | drop
deriving DecidableEq, Repr

/-- The first PATH_MISMATCH since the cast-on raises its event (R387, R416). -/
def State.pathMismatch (s : State) (p : Nat) : State :=
  let s1 := (s.count (portCtr p 0xF0) 1).pairCount 6
  if (s.pair.ports.get p).pathSeen then s1
  else
    let s2 := { s1 with pair := { s1.pair with ports := s1.pair.ports.upd p fun y => { y with pathSeen := true } } }
    (s2.raise 758 Ev.pathMismatch).raise (portSrc p) Ev.pathMismatch

/-- The pair tag on receipt. -/
def State.tagRx (s : State) (p : Nat) (b : List Byte) (pr : Parsed) : State × TagVerdict :=
  let y := s.pair.ports.get p
  if s.isDual p then
    match pr.pairAt with
    | none => (s, if y.dropUntagged then .drop else .slow)
    | some a =>
      let id := fb2 b (a + 1)
      if y.base ≤ id ∧ id < y.base + y.count then
        ((if decide (fb b a / 8 % 2 = 1) != s.fuses.pairStrap then s.pathMismatch p else s), .pass)
      else (s.pairCount 8, .slow)
  else if s.isSingle p && pr.pairAt.isSome then (s, .slow)
  else (s, .pass)

/-! ## The window closes (R276, R296, R300, R312) -/

/-- What the device decides on a frame without exception when its window closes. -/
def State.classify (s : State) (x : LookIn) : State × Look :=
  let pr := x.pr
  let tc := s.classOf x.p pr.key none x.act.cls
  let untagged := pr.tags.isEmpty && pr.pairAt.isNone
  let da := fbn x.b 0 6
  let deny := decide (x.act.kind = 1)
  let slow (s : State) (r : Nat) : State × Look := if deny then (s, { tc := tc }) else (s, lookSlow r tc 0)
  if untagged && decide (pr.etherType = 0x8808) then slow (s.macControl x.p (fb2 x.b 14)) 0x04
  else if untagged && decide (pr.etherType = 0x8809) then slow s 0x05
  else if linkLocal da then
    match pr.ptpAt with
    | some a => if s.ptpTaken x.p x.b a then slow s 0x07 else (if deny then s else s.ptpCount x.p 1, { tc := tc })
    | none => slow (s.count (portCtr x.p 0xA8) 1) 0x06
  else if deny then (s, { tc := tc })
  else if (match pr.ptpAt with | some a => s.ptpTaken x.p x.b a | none => false) then (s, (lookSlow 0x07 tc 0).copied x.act.copy)
  else if x.act.kind = 2 then (s, lookSlow 0x08 tc 0)
  else
    let tag : State × TagVerdict := if x.origin = .cpu then (s, .pass) else s.tagRx x.p x.b pr
    match tag with
    | (s1, .slow) => (s1, (lookSlow 0x0F tc 0).copied x.act.copy)
    | (s1, .drop) => (s1, Look.copied { tc := tc } x.act.copy)
    | (s1, .pass) =>
      let (s2, l) := s1.look x
      (s2, l.copied x.act.copy)

/-- The ACL entry that decides a frame counts it (R289). -/
def State.aclHit (s : State) (e : Nat) : State :=
  s.updParser fun y => { y with acl := y.acl.upd e fun x => { x with hits := satAdd 64 x.hits 1 } }

/-- SAMPLE counts a frame of its port: whether it fires (R349). -/
def State.sampleFrame (s : State) (p : Nat) : State × Bool :=
  let x := s.core.capture.trigs.get 1
  if x.enable && decide (x.port = p) then
    (s.updCap fun y => { y with trigs := y.trigs.upd 1 fun z => { z with count := (z.count + 1) % 2 ^ z.k } }, decide ((x.count + 1) % 2 ^ x.k = 0))
  else (s, false)

/-- A frame of port `p` that has passed its MAC so far is parsed and looked up, and waits for its admission decision (R273 to R281). -/
def State.windowClose (s : State) (p : Nat) (b : List Byte) (ended : Bool) (stamp : Nat × Nat) (cpu : Bool) : State :=
  let n := s.core.nextFrame
  let (s1, sampled) := s.sampleFrame p
  let pe := s1.parseFrame p b ended
  let f : Frame := {
    port := p, bytes := b, ended := ended, len := if ended then b.length else 0, done := ended, rxTick := stamp.1, rxSub := stamp.2
    stale := !cpu && s.stampStale p, coast := !cpu && decide (s.laneAge p ≠ 0), closeAt := s.tick, parsed := pe.1, exc := pe.2, cpu := cpu
    maxFrame := (s.ports.get p).maxFrame, capTrig := if sampled then some 1 else none }
  let put (s : State) (f : Frame) : State :=
    { s with core := { s.core with frames := s.core.frames.set n f, nextFrame := n + 1 } }
  let y := s1.parse.ports.get p
  match pe.2 with
  | 1 => put (s1.parseException p 0x70) { f with plan := { slow := some 0x01 } }
  | 2 => put (s1.parseException p 0x78) { f with plan := { slow := if y.malSlow then some 0x03 else none } }
  | 3 => put (s1.parseException p 0x80) { f with plan := { slow := if y.lenSlow then some 0x02 else none } }
  | _ =>
    if ended && pe.1.truncated b.length then s1.parseException p 0x88
    else
      let hit := s1.aclLookup pe.1.key
      let s2 := match hit with | some h => s1.aclHit h.1 | none => s1
      let act := match hit with | some h => h.2.act | none => {}
      let (s3, l) := s2.classify { p := p, b := b, len := if ended then some b.length else none, pr := pe.1, act := act, origin := s.originOf p cpu }
      let acl := act.capture && (s.core.capture.trigs.get 0).enable
      put s3 { f with aclHit := hit.map (·.1), result := l.result, tc := l.tc, plan := l.plan, capTrig := if acl then some 0 else f.capTrig }

/-- Whether port `p` takes a frame whose stamped symbol arrived at TICK `t`: in UP, or while BINDING with the lane still locked if the frame had
begun when the port entered BINDING, since ingress stops at the next frame boundary (R45, R202). -/
def State.takesFrame (s : State) (p t : Nat) : Bool :=
  s.portUp p || ((s.ports.get p).configured && decide (s.portState p = .binding) && (s.lanes.get p).tapOn && decide (t ≤ (s.ports.get p).bindTick))

/-- PARSE_WINDOW_CLOSE (R276): A frame's parse window closes and its header walk ends, with any exception judged. -/
def execParseWindowClose (port : Nat) (bytes : List Byte) (ended : Bool) (taps symbols tick : Nat) (s : State) : Out :=
  if 256 ≤ port then .fault .noSuchObject
  else if (ended && decide (256 < bytes.length)) || (!ended && decide (bytes.length ≠ 256)) then .fault .impossibleInput
  else
    let s0 := s.advanceTick tick
    if !(s0.takesFrame port (s0.rxStamp port taps symbols).1 && s0.glob.pdOn.getLsbD 3) then .next s0
    else if ended && decide (bytes.length < 64) then .next (s0.count (portCtr port 0x18) 1)
    else if ended && decide (fcsOf bytes = 2) then .next (s0.count (portCtr port 0x28) 1)
    else if ended && decide (fcsOf bytes = 1) then .next (s0.count (portCtr port 0x10) 1)
    else
      let s1 := if ended then (s0.count (portCtr port 0) 1).count (portCtr port 8) bytes.length else s0
      if s1.pair.enable && decide (s1.pair.role = .syncing) then .next (s1.pairCount 7)
      else .next (s1.windowClose port bytes ended (s0.rxStamp port taps symbols) false)

/-! ## A longer frame ends (R35, R280, R336, R358) -/

/-- FRAME_END (R280): A frame ends and its FCS, L3 length and egress length are checked, returning or consuming charges. -/
def execFrameEnd (frame : Nat) (bytes : List Byte) (tick : Nat) (s : State) : Out :=
  match s.core.frames.find frame with
  | none => .fault .noSuchObject
  | some f =>
    if f.done then .next s
    else if bytes.length ≤ 256 ∨ bytes.take 256 ≠ f.bytes then .fault .impossibleInput
    else
      let s0 := s.advanceTick tick
      let n := bytes.length
      let p := f.port
      if f.maxFrame < n then .next ((s0.count (portCtr p 0x20) 1).badEnd frame (f.maxFrame + 1) (bytes.take (f.maxFrame + 1) ++ List.replicate 4 0) 0)
      else if fcsOf bytes = 2 then .next ((s0.count (portCtr p 0x28) 1).badEnd frame n bytes 4)
      else if fcsOf bytes = 1 then .next ((s0.count (portCtr p 0x10) 1).badEnd frame n bytes 0)
      else
        let s1 := (s0.count (portCtr p 0) 1).count (portCtr p 8) n
        if decide (f.exc = 0) && f.parsed.truncated n then .next ((s1.parseException p 0x88).badEnd frame n bytes 1)
        else
          let s2 := s1.updFrame frame fun g => { g with done := true, bytes := bytes, len := n }
          .next ((if f.decided then s2.goodEnd frame else s2).dropFrame frame)

end Sys2Proof.Machine
end

