-- ==== Sys2Proof/Machine/Switch.lean ====
section
/-!
DEFINITION. The switch core: the matcher, egress scheduling and transmission, the skein, memory errors and the core commands (R220 to
R222, R322 to R348, R354, R355, R368, R369, R538).
-/
namespace Sys2Proof.Machine

/-! ## Deficit round-robin (R327, R332) -/

/-- A class that competes: the bytes its head would send, its quantum and its deficit. -/
structure DrrCand where
  cls : Nat
  cost : Nat
  quantum : Nat
  deficit : Int
deriving DecidableEq, Repr, Inhabited

/-- The class that deficit round-robin chooses from class `p` on, and the deficits after the visits; `fresh` says that a visit to `p`
credits its quantum. -/
def drr (l : List DrrCand) (p : Nat) (fresh : Bool) : Nat → Option (Nat × List DrrCand)
  | 0 => none
  | n + 1 =>
    match l.find? fun x => decide (x.cls = p % 8) with
    | none => drr l (p + 1) true n
    | some x =>
      let y := if fresh then { x with deficit := x.deficit + x.quantum } else x
      let l1 := l.map fun z => if z.cls = x.cls then y else z
      if (y.cost : Int) ≤ y.deficit then some (x.cls, l1) else drr l1 (p + 1) true n

/-- Visits after which deficit round-robin has chosen: 64 quanta of 256 bytes hold the longest frame. -/
def drrFuel : Nat := 8 * 70

/-! ## The matcher (R325 to R329, R331) -/

/-- The crossbar links of home tile `t`: two where a port of width 8 is homed on it (R322). -/
def State.tileLinks (s : State) (t : Nat) : List Nat :=
  let x := s.ports.get (4 * t)
  if x.configured && decide (x.width = 8) then [t, t + 1] else [t]

/-- Egress cells that the guaranteed copies of port `p` hold (R331). -/
def State.egressGuar (s : State) (p : Nat) : Nat := s.sumCopies fun x => if x.port = p ∧ x.kind = 0 then x.egressCells else 0

/-- The guaranteed reservation of port `p` at the egress (R330, R363). -/
def State.egressReserve (s : State) (p : Nat) : Nat :=
  s.contracts.table.foldl (fun a y => if keyPort y.1 = p then a + y.2.res else a) 0

/-- Cells of a copy that have arrived completely (R325): while its frame is arriving, as many as its port's rate has brought since the window. -/
def State.cellsIn (s : State) (x : Copy) : Nat :=
  let f := s.core.frames.get x.frame
  if f.done then x.arrived
  else max x.arrived (min (cellsOf f.maxFrame) (1 + (s.tick - f.closeAt) * s.rate256 f.port / (2560000 * 256)))

/-- The CORE cycles from the admission decision to a match at the earliest: 16 until the head is eligible and 12 of the matcher's pipeline (R333). -/
def matchStages : Nat := 28

/-- The level at which a VOQ requests for its head copy, where it is eligible: 0 C, 1 G, 2 B (R325, R331). -/
def State.voqLevel (s : State) (k : Nat) : Option Nat :=
  let x := s.core.copies.get k
  if s.cellsIn x ≤ x.crossed ∨ (0 < x.inSkein ∧ x.crossed = x.head) ∨ s.tick < x.admitted + matchStages then none
  else if x.cut ∧ 1 ≤ x.crossed then some 0
  else if x.kind = 0 then (if s.egressGuar x.port < s.egressReserve x.port then some 1 else none)
  else if s.egressBulk x.port < (s.core.ports.get x.port).limitB ∧ 0 < s.egressFree (resSum s.contracts.table) then some 2
  else none

/-- A request of an input link to an output link. -/
structure Req where
  i : Nat
  o : Nat
  level : Nat
  voq : Nat
  copy : Nat
deriving DecidableEq, Repr, Inhabited

/-- The egress port of a VOQ, and its class. -/
def voqPort (v : Nat) : Nat := v / 8 % 256
/-- The class of a VOQ. -/
def voqClass (v : Nat) : Nat := v % 8

/-- The element of a list with the smallest measure. -/
def minBy {α : Type} (f : α → Nat) : List α → Option α
  | [] => none
  | x :: l => match minBy f l with
    | none => some x
    | some y => if f x ≤ f y then some x else some y

/-- The eligible VOQs as requests of every pair of links that could carry them. -/
def State.eligibleReqs (s : State) : List Req :=
  s.core.voqs.flatMap fun v =>
    match v.2 with
    | [] => []
    | k :: _ =>
      match s.voqLevel k with
      | none => []
      | some lv =>
        (s.tileLinks (v.1 / 2048)).flatMap fun i =>
          (s.tileLinks (tileOf (voqPort v.1))).map fun o => { i := i, o := o, level := lv, voq := v.1, copy := k }

/-- The deficit candidates of input `i` for egress port `p` among requests. -/
def State.bulkCands (s : State) (l : List Req) (p : Nat) : List DrrCand :=
  (l.filter fun r => decide (voqPort r.voq = p)).map fun r => {
    cls := voqClass r.voq, cost := 256, quantum := 256 * (s.core.queues.get (8 * p + voqClass r.voq)).weight
    deficit := s.core.voqDef.get r.voq }

/-- The one request of an input to an output (R327). -/
def State.chooseReq (s : State) (l : List Req) : Option Req :=
  match minBy (·.level) l with
  | none => none
  | some b =>
    let m := l.filter fun r => decide (r.level = b.level)
    let ptr := s.core.voqPtr.get ((64 * b.i + b.o) * 3 + b.level)
    let turn (r : Req) : Nat := (voqPort r.voq + 256 - ptr) % 256
    match b.level with
    | 0 => minBy turn m
    | 1 => minBy (fun r => (7 - voqClass r.voq) * 256 + turn r) m
    | _ =>
      match minBy turn m with
      | none => none
      | some f =>
        let p := voqPort f.voq
        match drr (s.bulkCands m p) (s.core.bulkRr.get (256 * b.i + p)) false drrFuel with
        | none => some f
        | some c => m.find? fun r => decide (voqPort r.voq = p ∧ voqClass r.voq = c.1)

/-- The requests of a slot: one for each pair of an input and an output (R325). -/
def State.requests (s : State) : List Req :=
  let l := s.eligibleReqs
  let pairs := (l.map fun r => (r.i, r.o)).eraseDups
  pairs.filterMap fun x => s.chooseReq (l.filter fun r => decide (r.i = x.1 ∧ r.o = x.2))

/-- How far input `i` stands from the first choice of output `o` in iteration `it` of slot `n` (R326). -/
def Core.outTurn (x : Core) (n it : Nat) (r : Req) : Nat :=
  if it = 0 then (r.i + 128 + n - r.o) % 64 else (r.i + 64 - x.outPtr.get (3 * r.o + r.level)) % 64

/-- How far output `o` stands from the first choice of input `i`. -/
def Core.inTurn (x : Core) (n it : Nat) (r : Req) : Nat :=
  if it = 0 then (r.o + 128 - r.i - n) % 64 else (r.o + 64 - x.inPtr.get (3 * r.i + r.level)) % 64

/-- One request, grant and accept iteration (R326): the core with its pointers, and the pairs matched so far. -/
def matchIter (n it : Nat) (reqs : List Req) (a : Core × List Req) : Core × List Req :=
  let (x, done) := a
  let open_ := reqs.filter fun r => !done.any fun d => decide (d.i = r.i ∨ d.o = r.o)
  let grants := (open_.map (·.o)).eraseDups.filterMap fun o =>
    minBy (fun r => r.level * 64 + x.outTurn n it r) (open_.filter fun r => decide (r.o = o))
  let accepts := (grants.map (·.i)).eraseDups.filterMap fun i =>
    minBy (fun r => r.level * 64 + x.inTurn n it r) (grants.filter fun r => decide (r.i = i))
  let y := if it = 0 then x
    else accepts.foldl (fun (y : Core) r => { y with
      outPtr := y.outPtr.set (3 * r.o + r.level) ((r.i + 1) % 64), inPtr := y.inPtr.set (3 * r.i + r.level) ((r.o + 1) % 64) }) x
  (y, done ++ accepts)

/-- One cell of a matched pair crosses (R327, R329): the first one puts its copy into the egress queue, the last one takes it off its
VOQ. -/
def State.moveCell (s : State) (r : Req) : State :=
  let x := s.core.copies.get r.copy
  match s.voqLevel r.copy with
  | none => s
  | some _ =>
    let p := voqPort r.voq
    let e := 8 * p + voqClass r.voq
    let y := { x with
      crossed := x.crossed + 1, atEgress := if x.crossed = 0 then s.core.nextEgress else x.atEgress
      crossAt := if x.cut ∧ 0 < x.crossed then x.crossAt else s.tick }
    let last := decide (0 < y.cells ∧ y.crossed = y.cells)
    let c := s.core
    let c1 := { c with
      copies := c.copies.set r.copy y
      egress := if x.crossed = 0 then c.egress.upd e (· ++ [r.copy]) else c.egress
      nextEgress := if x.crossed = 0 then c.nextEgress + 1 else c.nextEgress
      voqs := if last then c.voqs.upd r.voq (·.filter (· ≠ r.copy)) else c.voqs
      voqPtr := c.voqPtr.set ((64 * r.i + r.o) * 3 + r.level) ((p + 1) % 256) }
    let bulk := (s.eligibleReqs.filter fun q => decide (q.i = r.i ∧ q.o = r.o ∧ q.level = 2))
    let c2 := if r.level = 2 then
        match drr (s.bulkCands bulk p) (c.bulkRr.get (256 * r.i + p)) false drrFuel with
        | none => c1
        | some d =>
          let defs := d.2.foldl (fun t z => t.set (r.voq / 8 * 8 + z.cls) z.deficit) c1.voqDef
          if d.1 = voqClass r.voq then { c1 with bulkRr := c1.bulkRr.set (256 * r.i + p) d.1, voqDef := defs.upd r.voq (· - 256) } else c1
      else c1
    { s with core := c2 }

/-- CELL_SLOT (R326): Every 3.2 ns the matcher runs four request-grant-accept iterations and moves matched cells across the crossbar. -/
def execCellSlot (s : State) : Out :=
  let s1 := s.advanceTick ((s.tick / 4 + 1) * 4)
  let n := s1.tick / 4 % 64
  let reqs := s1.requests
  let m := [0, 1, 2, 3].foldl (fun a it => matchIter n it reqs a) (s1.core, [])
  .next (m.2.foldl State.moveCell { s1 with core := m.1 }).poolFollow

/-! ## The egress (R332, R334, R335, R368, R369) -/

/-- The CORE cycles from a match to the egress scheduler's choice at the earliest (R333): 4 of the transfer, 32 of the egress write, 8 of slack under
cut-through, 16 of the scheduler. -/
def Copy.egressStages (x : Copy) : Nat := 52 + flag x.cut 8

/-- Whether a copy is ready to be sent at TICK `now`: the egress holds all its cells, or its first under cut-through (R332, R333, R335). -/
def Copy.ready (x : Copy) (now : Nat) : Bool :=
  (decide (0 < x.cells ∧ x.crossed = x.cells) || (x.cut && decide (1 ≤ x.crossed))) && !x.sending && decide (x.crossAt + x.egressStages ≤ now)

/-- The copy that heads egress queue `(p, c)`, if it is ready. -/
def State.egressHead (s : State) (p c : Nat) : Option Nat :=
  match s.core.egress.get (8 * p + c) with
  | [] => none
  | k :: _ => if (s.core.copies.get k).ready s.tick then some k else none

/-- The bytes a copy is taken to send when it is scheduled: its length, or the ingress port's maximum while it is unknown. -/
def State.copyBytes (s : State) (k : Nat) : Nat :=
  let x := s.core.copies.get k
  let f := s.core.frames.get x.frame
  if f.done then x.rewrite.newLen f.parsed f.len else f.maxFrame

/-- The first guaranteed copy in strict priority from TC7 down. -/
def State.nextGuaranteed (s : State) (p : Nat) : Option Nat :=
  [7, 6, 5, 4].findSome? fun c => match s.egressHead p c with
    | some k => if (s.core.copies.get k).kind = 0 then some k else none
    | none => none

/-- The deep and plain classes of port `p` whose head is ready. -/
def State.egressCands (s : State) (p : Nat) : List DrrCand :=
  (List.range 8).filterMap fun c => match s.egressHead p c with
    | some k =>
      if (s.core.copies.get k).kind = 0 then none
      else
        let q := s.core.queues.get (8 * p + c)
        some { cls := c, cost := s.copyBytes k, quantum := 256 * q.weight, deficit := q.deficit }
    | none => none

/-- Copy `k` starts on port `p`, its stamped symbol leaving at the TX stamp `t`, in U (R201). -/
def State.startCopy (s : State) (p k t : Nat) : State :=
  let s1 := s.updCopy k fun x => { x with sending := true, txTick := t / 65536, txSub := t % 65536 }
  { s1 with core := { s1.core with ports := s1.core.ports.upd p fun y => { y with sending := some k } } }

/-- Whether bulk traffic is throttled (R538). -/
def State.throttled (s : State) : Bool := decide (s.power.therm = .throttle ∨ s.power.therm = .over)

/-- The cycles for which the next deep or plain copy of port `p` waits after one of `n` bytes under throttle (R538). -/
def State.paceCycles (s : State) (p n : Nat) : Nat :=
  ceilDiv ((n + 20) * 8 * 256000 * 5 * 100) (max 1 (s.rate256 p * 4 * s.power.fraction))

/-- A deep or plain copy is chosen and starts (R332). -/
def State.startBulk (s : State) (p t : Nat) : State :=
  let y := s.core.ports.get p
  if s.throttled && decide (s.now < y.pace) then s
  else
    match drr (s.egressCands p) y.rr false drrFuel with
    | none => s
    | some (c, l) =>
      match s.egressHead p c with
      | none => s
      | some k =>
        let n := s.copyBytes k
        let s1 := l.foldl (fun (s : State) z => s.updQueue p z.cls fun q => { q with deficit := z.deficit }) s
        let s2 := s1.updQueue p c fun q => { q with
          deficit := if (s1.core.egress.get (8 * p + c)).length ≤ 1 then 0 else q.deficit - n }
        let s3 := { s2 with core := { s2.core with ports := s2.core.ports.upd p fun z => { z with
          rr := c, pace := if s.throttled then s.now + s.paceCycles p n else z.pace } } }
        s3.startCopy p k t

/-- A firing of the late-guard (R368, R369): the copy is discarded, with the event at most once per second per contract. -/
def State.lateGuard (s : State) (k t d : Nat) : State :=
  let x := s.core.copies.get k
  let key := contractKey x.port x.tc
  let y := s.contracts.table.get key
  let s1 := s.discardCopy k 4
  if mayRaise y.guardAt s.now secC then
    (if s.contracts.table.has key then s1.updContract key fun z => { z with guardAt := some s.now } else s1).raise 829 Ev.lateGuard
      [.u 2 x.port, .u 2 x.tc, .u 8 (roundDiv ((t - d) * 4 : Nat) 5).toNat]
  else s1

/-- The port picks its next copy for a TX stamp at `t` (R332, R368). -/
def State.egressPick (s : State) (p t : Nat) : Nat → State
  | 0 => s
  | n + 1 =>
    match s.nextGuaranteed p with
    | none => s.startBulk p t
    | some k =>
      match (s.core.copies.get k).deadline with
      | none => s.startCopy p k t
      | some d =>
        let du := d.1 * 65536 + d.2
        if du < t then (s.lateGuard k t du).egressPick p t n else s.startCopy p k t

/-- EGRESS_FRAME_BOUNDARY (R332): At a frame boundary an egress port picks its next copy, applying the late-guard to guaranteed copies. -/
def execEgressFrameBoundary (port tick sub : Nat) (s : State) : Out :=
  if 256 ≤ port then .fault .noSuchObject
  else
    let s1 := s.advanceTick (tick - 117)
    let st := s1.portState port
    if !(s1.ports.get port).configured || !(decide (st = .up ∨ st = .binding)) || (s1.core.ports.get port).sending.isSome then .next s1
    else
      let t := max ((tick * 65536 + sub : Nat) + offsetU (s1.txLatency port port)).toNat (s1.core.ports.get port).freeAt
      .next (s1.egressPick port t (s1.core.copies.length + 1))

/-! ## Transparent clock (R220 to R222) -/

/-- The sum of the steps that this unit has admitted between the instant of KTIME `k` and TICK `t` (R222): those at the starts of the segments
in between. -/
def State.stepsBetween (s : State) (k : Int) (t : Nat) : Int :=
  s.time.segs.foldl (fun a g => if g.t0 ≤ t ∧ k ≤ g.k0 - g.stepSum then a + g.stepSum else a) 0

/-- The residence of a copy in 2^-16 ns: by the stamps and the rate in force at the TX stamp, or by KTIME for a cross-fed frame. -/
def State.residence (s : State) (f : Frame) (x : Copy) : Int :=
  let seg := segAt s.time.segs x.txTick
  match f.rxK with
  | some k => seg.ktime x.txTick x.txSub - k - s.stepsBetween k x.txTick
  | none =>
    let d : Int := ((x.txTick * 65536 + x.txSub : Nat) : Int) - ((f.rxTick * 65536 + f.rxSub : Nat) : Int)
    d * 4 * (2 ^ 48 + seg.rate) / (5 * 2 ^ 48)

/-- The checksum of 16-bit words after those from `a` on have changed from `b` to `b'`. -/
def csumOver (hc : Nat) (b b' : List Byte) (a : Nat) : Nat → Nat
  | 0 => hc
  | n + 1 => csumOver (csumUpdate hc (fb2 b a) (fb2 b' a)) b b' (a + 2) n

/-- The delay of the link behind ingress port `p`, from the peer to the device (R221, R231): by ranging on a selvedge port, else by the port's
filtered peer delay and its asymmetry. -/
def State.linkDelayIn (s : State) (p : Nat) : Int :=
  if (s.ports.get p).isSelvedge then s.dUp p
  else
    let r := (s.ptp.ports.get p).rttF
    roundDiv (r - s.asymOf p r) 2

/-- The bytes of a copy with the correctionField of a PTP event message corrected (R220, R221). `at_` is its PTP header in them. A frame injected
by a host has no RX stamp (R485), and so no residence: it goes out as it is. -/
def State.correctPtp (s : State) (f : Frame) (x : Copy) (at_ : Nat) (l4 : Option Nat) (b : List Byte) : List Byte :=
  let type := fb b at_ % 16
  if f.cpu ∨ s.ptp.tcMode = 0 ∨ 4 ≤ type ∨ !(s.ptp.tcDomains.getLsbD (fb b (at_ + 4))) then b
  else
    let path : Int := if s.ptp.tcMode = 2 ∧ type = 0 then s.linkDelayIn f.port else 0
    let old := signedOf 64 (fbn b (at_ + 8) 8)
    let new := min (old + s.residence f x + path) (2 ^ 63 - 1)
    let b1 := putBytes b (at_ + 8) (beBytes 8 (unsignedOf 64 new))
    let b2 := match l4 with
      | none => b1
      | some u =>
        let c := fb2 b (u + 6)
        if !f.parsed.v6 && decide (c = 0) then b1 else putBytes b1 (u + 6) (beBytes 2 (csumOver c b b1 (at_ + 8) 4))
    let body := b2.take (b2.length - 4)
    body ++ leBytes 4 (crc32 body)

/-- How far the rewrite of a copy moves the headers behind the tags. -/
def Rewrite.shift (r : Rewrite) (p : Parsed) (a : Nat) : Nat :=
  let c := r.tagChange p.tags.length
  let out := if c = 2 then 4 else 0
  let pr := match p.pairAt with | some q => if r.pair = 1 ∧ q < a then 8 else 0 | none => 0
  a + flag (decide (c = 1)) 4 + flag (decide (r.pair = 2)) 8 - out - pr

/-- The bytes of copy `x` of frame `f` as its port sends them. -/
def State.txBytes (s : State) (f : Frame) (x : Copy) : List Byte :=
  let b := x.rewrite.apply f.parsed s.pair.cfg.etherType f.bytes
  match f.parsed.ptpAt with
  | none => b
  | some a => s.correctPtp f x (x.rewrite.shift f.parsed a) (if f.parsed.l4 = 1 then f.parsed.l4At.map (x.rewrite.shift f.parsed) else none) b

/-- A copy that ends stomped after the bytes of `body` (R336): the complement of their CRC-32 follows. -/
def stompedBytes (body : List Byte) : List Byte := body ++ leBytes 4 (crc32 body ^^^ 0xFFFFFFFF)

/-- What a copy that ends with stomp `cause` sends (R336): the bytes it holds; behind a cell that cannot be corrected it holds none, and how many
lie before it is a free value. -/
def State.stompOut (s : State) (f : Frame) (x : Copy) (cause : Nat) : State × List Byte :=
  let (s1, held) := s.heldBytes f
  let b := s1.txBytes { f with bytes := held } x
  let body := b.take (b.length - 4)
  if cause = 2 then
    let (k, s2) := s1.takeFree
    (s2, stompedBytes (body.take (1 + Config.freeNat k % max 1 body.length)))
  else (s1, stompedBytes body)

/-! ## A copy has been sent (R201, R206, R336, R369) -/

/-- The largest latency of an accepted guaranteed copy (R369): its TX stamp less its RX stamp, in 2^-16 ns. -/
def State.noteLatency (s : State) (f : Frame) (x : Copy) : State :=
  let d := (x.txTick * 65536 + x.txSub) - (f.rxTick * 65536 + f.rxSub)
  let ns := (roundDiv (d * 4 : Nat) 5).toNat
  let key := contractKey x.port x.tc
  let c := s.contracts
  let l := c.latest s.now
  let was := if l.has key then l.get key else (0, (c.table.get key).maxSeenGet)
  let s1 := { s with
    stats := s.stats.touch s.now (maxSeenCtr key) (c.maxSeen.get key)
    contracts := { c with maxSeen := c.maxSeen.upd key (max ns), lateAt := s.now, late := l.set key (max was.1 ns, was.2) } }
  if s1.contracts.table.has key then s1.updContract key fun y => { y with maxSeenGet := max y.maxSeenGet ns } else s1

/-- The time in U that a frame of `n` bytes takes on port `p` with the preamble, the SFD and the inter-packet gap of 12 bytes, at the line rate or
the frame capacity of R72, rounded up (R35, R332). -/
def State.frameTime (s : State) (p n : Nat) : Nat := ceilDiv ((n + 20) * 8 * 256000 * 81920) (max 1 (s.rate256 p))

/-- Copy `k` of port `p` leaves: what was sent, its counts, its stamp and its outcome. -/
def State.copySent (s : State) (p k : Nat) : State :=
  let x := s.core.copies.get k
  let f := s.core.frames.get x.frame
  let (s, out) := match x.stomp with | some cause => s.stompOut f x cause | none => (s, s.txBytes f x)
  let rec_ : TxRec := { port := p, tc := x.tc, ingress := f.port, lead := macLead, bytes := out, tick := x.txTick, sub := x.txSub, stomp := x.stomp }
  let free := x.txTick * 65536 + x.txSub + s.frameTime p out.length
  let s0 := { s with core := { s.core with
    sent := rec_ :: s.core.sent, ports := s.core.ports.upd p fun y => { y with freeAt := free } } }
  match x.stomp with
  | some cause =>
    ((s0.tsqCopy x.frame p (some (x.txTick, x.txSub)) 0).freeCopy k).resolveCopy x.frame (if cause = 2 then 2 else 1)
  | none =>
    let s1 := (((s0.count (portCtr p 0x38) 1).count (portCtr p 0x40) out.length).count (queueCtr p x.tc 0) 1).count (queueCtr p x.tc 8) out.length
    let s2 := if x.kind = 0 then s1.noteLatency f x else s1
    ((s2.tsqCopy x.frame p (some (x.txTick, x.txSub)) 0).freeCopy k).resolveCopy x.frame 0

/-- COPY_SENT (R206): A copy finishes transmission and its TSQ entry, counters and latency maxima are updated. -/
def execCopySent (port tick : Nat) (s : State) : Out :=
  if 256 ≤ port then .fault .noSuchObject
  else
    match (s.core.ports.get port).sending with
    | none => .next s
    | some k =>
      let x := s.core.copies.get k
      if x.stomp.isNone && !(decide (0 < x.cells ∧ x.crossed = x.cells)) then .next s
      else .next ((s.advanceTick tick).copySent port k)

/-! ## The skein (R340 to R343) -/

/-- The time of a burst of 16 cells at 3.125 cells per CORE cycle, in 25ths of one (R341). -/
def burstTime : Nat := 128

/-- Capacity of the skein in cells. -/
def skeinSize : Nat := 134217728

/-- Cells of a VOQ's copies on chip ahead of its skein segment, or all of them where that is empty. -/
def State.voqHeadCells (s : State) : List Nat → Nat
  | [] => 0
  | k :: ks =>
    let x := s.core.copies.get k
    if 0 < x.inSkein then x.head - x.crossed else x.onChip + s.voqHeadCells ks

/-- Whether a VOQ's skein segment is not empty. -/
def State.voqInSkein (s : State) (l : List Nat) : Bool := l.any fun k => decide (0 < (s.core.copies.get k).inSkein)

/-- On-chip cells of a VOQ. -/
def State.voqOnChip (s : State) (l : List Nat) : Nat := l.foldl (fun a k => a + (s.core.copies.get k).onChip) 0

/-- Whether cells of a copy may be spilled (R340): deep, whole, and not in cut-through. -/
def Copy.spillable (x : Copy) : Bool := decide (x.kind = 1) && decide (0 < x.cells) && !x.cut

/-- The first `n` cells of a VOQ's tail that may be spilled, by copy: number, first cell and count. `skip` cells of a VOQ without a
skein segment form its head; `seen` says that the skein segment lies behind. -/
def State.spillCells (s : State) (n skip : Nat) (inSk : Bool) : List Nat → List (Nat × Nat × Nat)
  | [] => []
  | k :: ks =>
    let x := s.core.copies.get k
    if n = 0 then []
    else if inSk then
      let later := s.voqInSkein ks
      if later then s.spillCells n skip true ks
      else
        let first := x.head + x.inSkein
        let m := min n (x.cells - first)
        if m = 0 then s.spillCells n 0 false ks
        else if x.spillable then (k, first, m) :: s.spillCells (n - m) 0 false ks
        else []
    else
      let here := min skip (x.cells - x.crossed)
      let m := min n (x.cells - x.crossed - here)
      if m = 0 then s.spillCells n (skip - here) false ks
      else if x.spillable then (k, x.crossed + here, m) :: s.spillCells (n - m) 0 false ks
      else []

/-- What the spill engine would move of a VOQ. -/
def State.spillBurst (s : State) (v : Nat) (l : List Nat) : List (Nat × Nat × Nat) :=
  let c := s.core.classes.get (voqClass v)
  if voqClass v < 4 ∧ c.spill ∧ c.spillOn < s.voqOnChip l then s.spillCells 16 c.returnLow (s.voqInSkein l) l else []

/-- Whether the egress port of a VOQ is requesting: it grants credit for a bulk cell. -/
def State.portRequests (s : State) (v : Nat) : Bool :=
  decide (s.egressBulk (voqPort v) < (s.core.ports.get (voqPort v)).limitB ∧ 0 < s.egressFree (resSum s.contracts.table))

/-- The VOQ that an engine serves next: those of requesting ports first, then round-robin from `ptr` (R341). -/
def State.engineNext (s : State) (ptr : Nat) (l : List Nat) : Option Nat :=
  minBy (fun v => (if s.portRequests v then 0 else 131072) + (v + 131072 - ptr) % 131072) l

/-- SPILL_BURST (R340): The spill engine moves 16 cells of a deep VOQ's tail into the skein. -/
def execSpillBurst (s : State) : Out :=
  if s.core.skein ≠ .ready ∨ skeinSize < s.skeinCells + 16 then .next s
  else
    let ready := (s.core.voqs.filter fun v => decide (((s.spillBurst v.1 v.2).foldl (fun a x => a + x.2.2) 0) = 16)).map (·.1)
    match s.engineNext s.core.spillPtr ready with
    | none => .next s
    | some v =>
      let cells := s.spillBurst v (s.core.voqs.get v)
      let s1 := cells.foldl (fun (s : State) c => s.updCopy c.1 fun x => { x with
        head := if x.inSkein = 0 then c.2.1 else x.head, inSkein := x.inSkein + c.2.2 }) (s.advanceTick (ceilDiv s.core.spillNext 25))
      .next { s1 with core := { s1.core with
        spillPtr := (v + 1) % 131072, skSpilled := s1.core.skSpilled + 16, spillNext := max s.core.spillNext (s1.tick * 25) + burstTime } }.poolFollow

/-- The first `n` cells of a VOQ's skein segment, by copy. -/
def State.returnCells (s : State) (n : Nat) : List Nat → List (Nat × Nat)
  | [] => []
  | k :: ks =>
    let m := min n (s.core.copies.get k).inSkein
    if n = 0 then [] else if m = 0 then s.returnCells n ks else (k, m) :: s.returnCells (n - m) ks

/-- RETURN_BURST (R340): The return engine moves 16 cells from the skein to a deep VOQ's head. -/
def execReturnBurst (s : State) : Out :=
  if s.core.skein ≠ .ready then .next s
  else
    let ready := (s.core.voqs.filter fun v =>
      s.voqInSkein v.2 && decide (s.voqHeadCells v.2 < (s.core.classes.get (voqClass v.1)).returnLow)).map (·.1)
    match s.engineNext s.core.returnPtr ready with
    | none => .next s
    | some v =>
      let cells := s.returnCells 16 (s.core.voqs.get v)
      let n := cells.foldl (fun a x => a + x.2) 0
      let s1 := cells.foldl (fun (s : State) c => s.updCopy c.1 fun x => { x with head := x.head + c.2, inSkein := x.inSkein - c.2 })
        (s.advanceTick (ceilDiv s.core.returnNext 25))
      .next { s1 with core := { s1.core with
        returnPtr := (v + 1) % 131072, skReturned := s1.core.skReturned + n, returnNext := max s.core.returnNext (s1.tick * 25) + burstTime } }

/-- SKEIN_INIT_DONE (R343): HBM3E initialisation after PD5 power-on passes or fails. -/
def execSkeinInitDone (pass : Bool) (s : State) : Out :=
  if s.core.skein ≠ .off ∨ !(s.glob.pdOn.getLsbD 5) then .next s
  else if pass then .next (({ s with core := { s.core with skein := .ready } }).raise 827 Ev.skeinReady)
  else .next (({ s with core := { s.core with skein := .failed } }).raise 827 Ev.skeinFault)

/-- The skein fails: every copy with a cell in it is discarded (R343). -/
def State.skeinFail (s : State) : State :=
  let s1 := (s.copiesWhere fun x => decide (0 < x.inSkein)).foldl (fun s k => s.discardCopy k 2) s
  ({ s1 with core := { s1.core with skein := .failed } }).raise 827 Ev.skeinFault

/-- SKEIN_CELL_ERROR (R343): An uncorrectable error in a skein cell discards its copy and retires the location. -/
def execSkeinCellError (copy : Nat) (fixed : Bool) (s : State) : Out :=
  if s.core.skein ≠ .ready then .next s
  else if fixed then .next { s with core := { s.core with skCorrected := satAdd 64 s.core.skCorrected 1 } }
  else if (s.core.copies.get copy).inSkein = 0 then .fault .noSuchObject
  else
    let s1 := s.discardCopy copy 2
    let n : Nat := s.core.skRetired + 1
    let s2 : State := { s1 with core := { s1.core with skUncorr := satAdd 64 s1.core.skUncorr 1, skRetired := n } }
    if 64 < n then .next s2.skeinFail else .next s2

/-- SKEIN_FAULT (R343): A stack or PHY fault or too many retired locations sends the skein to FAILED. -/
def execSkeinFault (s : State) : Out :=
  if s.core.skein = .ready then .next s.skeinFail else .next s

/-! ## Memory errors (R348) -/

/-- CELL_ECC_ERROR (R348): An uncorrectable cell error discards or stomps its copies and may retire the location. -/
def execCellEccError (copies : List Nat) (location : Nat) (fixed : Bool) (s : State) : Out :=
  if 524288 ≤ location ∨ copies.any (fun k => !s.core.copies.has k) then .fault .noSuchObject
  else if fixed then .next { s with core := { s.core with corrected := satAdd 64 s.core.corrected 1 } }
  else
    let s1 := copies.foldl (fun (s : State) k => s.endCopy k 2 2) s
    let again := s.core.cellErr.any fun e => decide (e.1 = location ∧ s.now < e.2 + secC)
    if again then
      let s2 := { s1 with core := { s1.core with
        retired := s1.core.retired + 1, cellErr := s1.core.cellErr.filter fun e => decide (e.1 ≠ location) } }
      .next (s2.raise (672 + location / 8192) Ev.cellRetired)
    else
      let keep := s1.core.cellErr.filter fun e => decide (e.1 ≠ location)
      .next { s1 with core := { s1.core with cellErr := keep ++ [(location, s.now)] } }

/-- QUEUE_FLUSHED (R348): An uncorrectable descriptor or queue-link error flushes the whole queue. -/
def execQueueFlushed (tile port cls : Nat) (egress : Bool) (s : State) : Out :=
  if 64 ≤ tile ∨ 256 ≤ port ∨ 8 ≤ cls then .fault .noSuchObject
  else
    let l := if egress then s.core.egress.get (8 * port + cls) else s.core.voqs.get (voqKey tile port cls)
    .next ((l.foldl (fun (s : State) k => s.endCopy k 2 2) s).raise (672 + (if egress then tileOf port else tile)) Ev.queueFlushed [.u 2 port, .u 2 cls])

/-! ## Commands (R354) -/

/-- What the own checks and effect of BUFFER_CONFIGURE_CLASS come to (R338). -/
def bodyBufferConfigureClass (cls cl spillOn returnLow : Nat) (s : State) : Rep :=
  let deep (v : Nat) : Bool := if cls < 4 then decide (16 ≤ v ∧ v ≤ 65536) else decide (v = 0)
  Rep.ranges [decide (cls < 8), decide (cl ≤ 524288), deep spillOn, deep returnLow] <|
    .ok { s with core := { s.core with classes := s.core.classes.upd cls fun x =>
      if cls < 4 then { x with cl := cl, spillOn := spillOn, returnLow := returnLow } else { x with cl := cl } } } []

/-- What the own checks and effect of QUEUE_CONFIGURE come to (R338). -/
def bodyQueueConfigure (port cls ql weight : Nat) (s : State) : Rep :=
  let deep := decide (s.kindOf port cls = 1)
  Rep.ranges [decide (port < 256), decide (cls < 8), decide (1 ≤ ql ∧ ql ≤ (if deep then 134217728 else 524288)),
      decide (1 ≤ weight ∧ weight ≤ 127)] <|
    if deep && decide (s.fuses.orderCode = .lc) && decide (524288 < ql) then .fail stNotPermitted []
    else .ok (s.updQueue port cls fun x => { x with ql := some ql, weight := weight }) []

/-- What the own checks and effect of PORT_CONFIGURE_EGRESS come to (R334). -/
def bodyPortConfigureEgress (cut : Bool) (port limit : Nat) (s : State) : Rep :=
  Rep.ranges [decide (port < 256), decide (16 ≤ limit ∧ limit ≤ 16384)] <|
    .ok ({ s with core := { s.core with ports := s.core.ports.upd port fun x => { x with limitB := limit, cut := cut } } }).reevaluate []

/-- What the own checks and effect of SKEIN_CONFIGURE come to (R342). -/
def bodySkeinConfigure (spill : Bool) (cls : Nat) (s : State) : Rep :=
  Rep.ranges [decide (cls < 4)] <|
    if s.fuses.orderCode = .lc then .fail stNotPermitted []
    else if spill && !(s.glob.pdOn.getLsbD 5 && decide (s.core.skein = .ready)) then Rep.badState
    else .ok { s with core := { s.core with classes := s.core.classes.upd cls fun x => { x with spill := spill } } } []

/-- The code of a skein state. -/
def SkeinState.code : SkeinState → Nat
  | .off => 0 | .ready => 1 | .failed => 2

/-- What the own checks and effect of SKEIN_GET_STATUS come to (R354). -/
def bodySkeinGetStatus (clear : Bool) (s : State) : Rep :=
  if s.fuses.orderCode = .lc then .fail stNotPermitted []
  else
    let c := s.core
    let l := [c.skSpilled, c.skReturned, c.skCorrected, c.skUncorr]
    let d (i : Nat) : Nat := nth l i - nth c.skBase i
    let rate (n : Nat) : Nat := min (n * secC / max 1 (s.now - c.skBaseAt)) (2 ^ 32 - 1)
    .ok (if clear then { s with core := { c with skBase := l, skBaseAt := s.now } } else s)
      [.u 1 c.skein.code, .u 4 s.skeinCells, .u 4 c.skRetired, .u 4 (rate (d 0)), .u 4 (rate (d 1)), .u 8 (d 2), .u 8 (d 3)]

/-- What the own checks and effect of CORE_GET_QUEUE come to (R354). -/
def bodyCoreGetQueue (clear : Bool) (port cls : Nat) (s : State) : Rep :=
  Rep.ranges [decide (port < 256), decide (cls < 8)] <|
    let q := s.core.queues.get (8 * port + cls)
    let n := (s.copiesWhere fun x => decide (x.port = port ∧ x.tc = cls)).length
    let on := s.queueOnChip port cls
    let sk := s.queueSkein port cls
    let cs := [0x10, 0x18, 0x20, 0x28, 0x30, 0x38].map (queueCtr port cls)
    let s1 := if clear then
        (s.rebaseAll cs).updQueue port cls fun x => { x with peak := on + sk, stompBase := x.stomps }
      else s
    .ok s1 ([.u 1 (s.kindOf port cls), .u 4 on, .u 4 sk, .u 4 n, .u 4 q.peak]
      ++ (cs.map fun o => Fld.u 8 (s.sinceBase clear o))
      ++ (List.range 6).map fun i => Fld.u 8 (nth q.stomps i - nth q.stompBase i))

/-- What the own checks and effect of BUFFER_GET_STATUS come to (R354). -/
def bodyBufferGetStatus (s : State) : Rep :=
  .ok s [.u 4 s.sharedSize, .u 4 s.sharedFree, .u 4 s.core.gpSize, .u 4 s.parse.reserve, .u 4 s.core.retired,
    .u 4 (s.egressFree (resSum s.contracts.table))]

/-- BUFFER_CONFIGURE_CLASS (R338): Sets a class's on-chip limit and spill thresholds. -/
def execBufferConfigureClass (src : CmdSrc) (cls cl spillOn returnLow : Nat) (s : State) : Out :=
  .next (s.runCmd (.bufferConfigureClass src cls cl spillOn returnLow) src 0x0510 (bodyBufferConfigureClass cls cl spillOn returnLow))

/-- QUEUE_CONFIGURE (R338): Sets a queue's limit and weight. -/
def execQueueConfigure (src : CmdSrc) (port cls ql weight : Nat) (s : State) : Out :=
  .next (s.runCmd (.queueConfigure src port cls ql weight) src 0x0511 (bodyQueueConfigure port cls ql weight))

/-- PORT_CONFIGURE_EGRESS (R334): Sets a port's bulk egress limit and cut-through. -/
def execPortConfigureEgress (src : CmdSrc) (cut : Bool) (port limit : Nat) (s : State) : Out :=
  .next (s.runCmd (.portConfigureEgress src cut port limit) src 0x0512 (bodyPortConfigureEgress cut port limit))

/-- SKEIN_CONFIGURE (R342): Enables or disables spill for a deep class. -/
def execSkeinConfigure (src : CmdSrc) (spill : Bool) (cls : Nat) (s : State) : Out :=
  .next (s.runCmd (.skeinConfigure src spill cls) src 0x0513 (bodySkeinConfigure spill cls))

/-- SKEIN_GET_STATUS (R354): Returns the skein state, usage and error counts. -/
def execSkeinGetStatus (src : CmdSrc) (clear : Bool) (s : State) : Out :=
  .next (s.runCmd (.skeinGetStatus src clear) src 0x0514 (bodySkeinGetStatus clear))

/-- CORE_GET_QUEUE (R354): Returns a queue's kind, cells, copies and counts. -/
def execCoreGetQueue (src : CmdSrc) (clear : Bool) (port cls : Nat) (s : State) : Out :=
  .next (s.runCmd (.coreGetQueue src clear port cls) src 0x0515 (bodyCoreGetQueue clear port cls))

/-- BUFFER_GET_STATUS (R354): Returns pool sizes and free cells. -/
def execBufferGetStatus (src : CmdSrc) (s : State) : Out :=
  .next (s.runCmd (.bufferGetStatus src) src 0x0516 (bodyBufferGetStatus))


end Sys2Proof.Machine
end

