-- ==== Sys2Proof/Machine/PairCmds.lean ====
section
/-!
DEFINITION. The double-knit pair: the pair link, joining, the heartbeat, health reports, the lifeline's messages, copies from the pair
link, digests, self-tests and the pair commands (R377 to R416).
-/
namespace Sys2Proof.Machine

/-! ## The pair link (R378) -/

/-- The port and settings of a form of the pair link: 0 is 800GBASE-R over PL0 to PL7, 1 and 2 are 400GBASE-R over PL0 to PL3 and PL4
to PL7. -/
def linkForm (k : Nat) : Nat × Port :=
  match k with
  | 0 => (256, { configured := true, mode := 6, width := 8, fec := 2 })
  | 1 => (256, { configured := true, mode := 5, width := 4, fec := 2 })
  | _ => (260, { configured := true, mode := 5, width := 4, fec := 2 })

/-- The pair lanes. -/
def pairLanes : List Nat := (List.range 8).map (256 + ·)

/-- The pair lanes go to DOWN, and no pair port is configured (R378). -/
def State.unlink (s : State) : State :=
  let s1 := pairLanes.foldl (fun t l => t.updLane l fun x => { x with state := if x.state = .off then .off else .down, lockFlags := 0 }) s
  { s1 with
    ports := (s1.ports.del 256).del 260
    pair := { s1.pair with linkUp := false, linkHalf := false, castTry := 0 } }

/-- Form `k` of the pair link is cast on, while PD1 is on (R378). -/
def State.castLink (s : State) (k : Nat) : State :=
  let s1 := s.unlink
  if !s.pdOn 1 then s1
  else
    let f := linkForm k
    ({ s1 with ports := s1.ports.set f.1 f.2, pair := { s1.pair with castTry := k } }).startCasting f.1

/-! ## Joining and leaving (R381) -/

/-- The unit enters JOINING: the join timer runs, unless the pair watchdog has expired; the pair link is cast on, or the HELLO sent where
it is up (R379, R381). -/
def State.enterJoining (s : State) : State :=
  let t := if s.pair.watchdogDead then none else some (s.now + cyclesOf s.pair.cfg.joinTimeout)
  let s1 := ({ s with pair := { s.pair with joinEnd := t } }).setRole .joining
  if s1.pair.linkUp then (if s1.pair.watchdogDead then s1 else s1.sendCtl (.hello s1.pair.epoch))
  else s1.castLink 0

/-- The unit returns to ALONE: the pair link is bound off and PAIR_ALIVE_OUT held low (R378, R379, R381). -/
def State.enterAlone (s : State) : State :=
  ({ s with pair := { s.pair with joinEnd := none, aliveOut := false, aligning := false } }.unlink).setRole .alone

/-- A CONTROL frame has come (R380). -/
def State.ctlRx (s : State) : State := { s with pair := { s.pair with controlRx := s.now, silent := false } }

/-- PARTNER_HELLO (R381): A partner HELLO during JOINING leads to arbitration or MISMATCH. -/
def execPartnerHello (strap : Bool) (epoch order stepping : Nat) (s : State) : Out :=
  if !s.pair.enable || s.pair.watchdogDead || decide (s.pair.role = .alone ∨ s.pair.role = .mismatch) then .next s
  else if s.pair.role ≠ .joining then
    let s1 := s.ctlRx
    let s2 : State := { s1 with pair := { s1.pair with partnerEpoch := epoch } }
    if s.pair.role = .active ∧ s.pair.linkUp then .next (s2.sendCtl (.hello s2.pair.epoch)) else .next s2
  else
    let s1 := s.ctlRx
    let other := decide (order = 1 ∨ order = 2)
    if strap = s.fuses.pairStrap ∨ stepping ≠ 0xB0 ∨ other ≠ s.fuses.orderCode.skein then
      .next ((({ s1 with pair := { s1.pair with joinEnd := none, aliveOut := false } }).setRole .mismatch).raise 752 Ev.pairMismatch)
    else
      let s2 := { s1 with pair := { s1.pair with partnerEpoch := epoch } }
      if epoch < s.pair.epoch ∨ (epoch = s.pair.epoch ∧ !s.fuses.pairStrap) then .next s2.becomeActive
      else .next ({ s2 with pair := { s2.pair with alignTries := 0, aligned := false } }.enterSyncing)

/-- JOIN_TIMEOUT (R381): No partner appears within the join timeout and the unit becomes ACTIVE alone. -/
def execJoinTimeout (s : State) : Out :=
  match s.pair.joinEnd with
  | some t => if s.pair.role = .joining then .next ((s.advance t).becomeActive) else .next s
  | none => .next s

/-! ## The heartbeat (R379, R380) -/

/-- Whether PAIR_ALIVE_OUT toggles now that TICK has reached `t` (R379). -/
def State.aliveToggles (s : State) (t : Nat) : Bool :=
  s.pdOn 1 && !s.pair.watchdogDead && decide (s.pair.role ≠ .alone ∧ s.pair.role ≠ .mismatch) && decide (t % 320000000 ≠ 0)

/-- PAIR_ALIVE_TOGGLE (R379): PAIR_ALIVE_OUT toggles every 1.0 µs of TICK, omitting the alignment mark. -/
def execPairAliveToggle (s : State) : Out :=
  if !s.time.tickOn then .next s
  else
    let t := (s.tick / 1250 + 1) * 1250
    let s1 := s.advanceTick t
    if s1.aliveToggles t then .next { s1 with pair := { s1.pair with aliveOut := !s1.pair.aliveOut } } else .next s1

/-- Whether the interval `d` between accepted edges that ends at `t` is in range (R380), and whether it is a long one. -/
def Pair.edgeRange (x : Pair) (d t : Nat) : Bool × Bool :=
  if 625 ≤ d ∧ d ≤ 1875 then (true, false)
  else if 1875 < d ∧ d ≤ 3125 then (mayRaise x.aliveLong t (16 * msC), true)
  else (false, false)

/-- PAIR_ALIVE_EDGE (R380): An edge on PAIR_ALIVE_IN is filtered and range-checked for the heartbeat. -/
def execPairAliveEdge (cycle stable : Nat) (s : State) : Out :=
  if stable < 4 then .next s
  else if cycle < s.now then .fault .impossibleInput
  else
    let s1 := s.advance cycle
    let x := s1.pair
    let y : Pair := { x with aliveIn := !x.aliveIn, aliveEdge := some cycle }
    match x.aliveEdge with
    | none => .next { s1 with pair := { y with aliveRun := 0 } }
    | some e =>
      let r := x.edgeRange (cycle - e) cycle
      let z : Pair := { y with aliveLong := if r.2 then some cycle else x.aliveLong }
      if r.1 then
        let n := min 64 (x.aliveRun + 1)
        .next { s1 with pair := { z with aliveRun := n, alive := x.alive || decide (n = 64) } }
      else .next { s1.hwCount 0x200038 x.aliveRange with pair := { z with aliveRun := 0, aliveRange := inc32 x.aliveRange } }

/-- KEEPALIVE_TX (R380): A keep-alive is sent when no other CONTROL frame is due for 5 µs. -/
def execKeepaliveTx (s : State) : Out :=
  if !s.pair.linkUp || s.pair.watchdogDead then .next s
  else .next ((s.advance (s.pair.controlTx + 5 * usC)).sendCtl .keepAlive)

/-! ## Health reports (R413, R414) -/

/-- The mirrored tables (R395): those of the TABLE and CLASS families as the commands set them, and the pair's own settings. Locations, counts,
hit counts, bucket levels and instants of events belong to each unit. -/
def State.mirroredTables (s : State) :=
  let f := s.fwd
  let p := s.parse
  ((f.vlans, f.nhs, f.rmacs, f.ecmp.map fun x => (x.1, x.2.members, x.2.profile), f.mcast.map fun x => (x.1, x.2.members, x.2.aon, x.2.prune)),
    (f.l2.map fun x => (x.1, x.2.result), f.hosts.map fun x => (x.1, x.2.result), f.lpm4.map fun x => (x.1, x.2.result),
      f.lpm6.map fun x => (x.1, x.2.result)),
    (p.acl.map fun x => (x.1, x.2.value, x.2.mask, x.2.act), p.extract, p.pcp, p.dscp, p.ind,
      p.steer.map fun x => (x.1, { x.2 with absentAt := none, invalidAt := none }),
      p.ports.map fun x => (x.1, { x.2 with pauseSeen := false, excSeen := false }), p.policers.map fun x => (x.1, x.2.rate, x.2.burst)),
    (s.contracts.table.map fun x => (x.1, x.2.lMax, x.2.rate, x.2.burst, x.2.fmax, x.2.mask), s.core.gpWanted, s.core.kinds),
    (s.pair.cfg, s.pair.ports.map fun x => (x.1, { x.2 with seq := 0, pathSeen := false })))

/-- The state digest (R413): the sum of the per-table digests, which the spec does not define, as a free function of the mirrored
tables. -/
def State.stateDigest (s : State) : Nat := Config.digestOf s.mirroredTables % 2 ^ 64

/-- Bit `i` for each self-test that has failed (R412, R413). -/
def State.selfBits (s : State) : Nat := (List.range 8).foldl (fun a i => if s.pair.selfFail.get i = 0 then a else a + 2 ^ i) 0

/-- The highest mean of the sound sensors, in units of 1/16 degree. -/
def State.hottest (s : State) : Int := ((List.range 16).filterMap s.sensorMean).foldl max (-640)

/-- The health report that this unit sends now (R413). -/
def State.healthBytes (s : State) : List Byte :=
  let ups := (s.ports.filter fun x => decide (x.1 < 256) && s.portUp x.1).length
  let b := beBytes 1 1 ++ beBytes 1 s.pair.role.code ++ beBytes 2 (flag s.pair.critical 1 + flag s.fuses.orderCode.skein 2)
    ++ beBytes 4 s.selfBits ++ beBytes 8 s.pair.reportCycle ++ beBytes 8 s.pair.epoch ++ beBytes 8 s.stateDigest ++ beBytes 8 s.tick
    ++ beBytes 1 s.ref.state.mode ++ beBytes 1 s.ref.level ++ beBytes 1 s.ref.hops ++ beBytes 1 0
    ++ beBytes 2 (unsignedOf 16 s.hottest) ++ beBytes 2 ups ++ beBytes 4 s.pair.cycleFaults ++ beBytes 4 s.pair.cycleUnresolved
  b ++ beBytes 8 (crc64 b).toNat

/-- HEALTH_REPORT_TX (R413): Each cycle a unit sends its 64-byte health report. -/
def execHealthReportTx (s : State) : Out :=
  if !s.pair.linkUp || decide (s.pair.role = .alone ∨ s.pair.role = .mismatch) then .next s
  else
    let b := s.healthBytes
    .next ({ s with pair := { s.pair with healthTx := b, cycleFaults := 0, cycleUnresolved := 0 } }.sendCtl (.health b))

/-! ## The lifeline (R396, R398) -/

/-- TICK_OFFSET in whole cycles. -/
def State.offsetC (s : State) : Int := roundDiv s.pair.tickOffset 65536

/-- The unit's TICK at the next end of a lifeline cycle (R395). -/
def State.nextCycle (s : State) : Nat :=
  let c := cyclesOf s.pair.cfg.cycle
  let off := if s.pair.role = .active then 0 else s.offsetC
  (((s.tick : Int) + off) / c * c + c - off).toNat

/-- The standby frogs a buffer (R398). -/
def State.frog (s : State) (cycle : Nat) : State :=
  let n := s.pair.frogRun + 1
  let s1 := ({ s.hwCount 0x200034 s.pair.frogCount with pair := { s.pair with frogCount := inc32 s.pair.frogCount, frogRun := n } }).sendCtl (.nack cycle)
  if 3 ≤ n ∧ s.pair.role = .standby then s1.enterSyncing.raise 756 Ev.lifelineDegraded else s1

/-- Whether this unit takes journals: it is STANDBY or SYNCING (R396, R401). -/
def State.takesJournals (s : State) : Bool := s.pair.enable && decide (s.pair.role = .standby ∨ s.pair.role = .syncing)

/-- The journal of the cycle that ends is sent with its marker: a cycle that was not applied is sent again, merged, under its number;
16,384 commands of 64 bytes fill a journal (R396). -/
def State.sendJournal (s : State) : State :=
  let x := s.pair
  let all := x.sentJournal ++ x.journal
  let n := x.sentCycle.getD x.cycleNo
  let a := s.tick + cyclesOf x.cfg.lead
  let l := all.take 16384
  (({ s with pair := { x with
      sentJournal := l, journal := all.drop 16384, sentCycle := some n
      cycleNo := if x.sentCycle.isSome then x.cycleNo else x.cycleNo + 1, applyAt := some a, confirmed := false } }).sendCtl (.journal n l)).sendCtl
    (.marker n (64 * l.length) ((a : Int) + s.offsetC).toNat (crc64 (Config.journalBytes l)))

/-- LIFELINE_CYCLE_END (R396): At a cycle end the active unit sends the journal and its commit marker. -/
def execLifelineCycleEnd (s : State) : Out :=
  if !s.pair.enable || !s.time.tickOn then .next s
  else
    let s1 := s.advanceTick s.nextCycle
    if s.pair.role = .active then
      if s.pair.linkUp && decide (s.pair.partnerRole = .standby ∨ s.pair.partnerRole = .syncing) then .next s1.sendJournal else .next s1
    else if s.pair.role = .standby then
      let s2 := { s1 with pair := { s1.pair with markerSeen := false } }
      if s.pair.markerSeen then .next s2
      else .next (s2.frog (match s.pair.committedNo with | some n => n + 1 | none => 0))
    else .next s1

/-- A commit marker with its journal is taken (R396, R398): a committed buffer and its ACK, or a frogging. -/
def State.commitMarker (s : State) (cycle applyAt : Nat) (crcOk : Bool) (journal : List RawCmd) : State :=
  if !s.takesJournals then s
  else
    let s1 := s.ctlRx
    let s2 := { s1 with pair := { s1.pair with markerSeen := true } }
    let expected := match s.pair.committedNo with | some n => decide (cycle = n ∨ cycle = n + 1) | none => true
    if crcOk && expected then
      let idx := journal.foldl (fun t c => if c.mb < 7 then t.set c.mb (c.pos.toNat % 256) else t) s.pair.commitIdx
      ({ s2 with pair := { s2.pair with
        committed := journal, committedNo := some cycle, applied := false, confirmed := false, applyAt := some applyAt, frogRun := 0
        lastCommit := s.now, commitIdx := idx, reportCycle := cycle } }).sendCtl (.ack cycle)
    else s2.frog cycle

/-- COMMIT_MARKER_RX (R396): The standby checks a journal's marker and commits the buffer with an ACK, or frogs it with a NACK. -/
def execCommitMarkerRx (cycle applyAt : Nat) (crcOk : Bool) (journal : List RawCmd) (s : State) : Out :=
  if s.takesJournals && s.glob.keeperRestarting then
    .next { s with pair := { s.pair with heldMarkers := s.pair.heldMarkers ++ [(cycle, applyAt, crcOk, journal)] } }
  else .next (s.commitMarker cycle applyAt crcOk journal)

/-- LIFELINE_ACK_RX (R396): The active unit receives an ACK and sends CONFIRM if it is early enough. -/
def execLifelineAckRx (cycle : Nat) (s : State) : Out :=
  let s1 := s.ctlRx
  match s.pair.sentCycle, s.pair.applyAt with
  | some n, some a =>
    if s.pair.role = .active ∧ n = cycle then
      let s2 := { s1 with pair := { s1.pair with lastCommit := s.now } }
      if s.tick + 20 * usC ≤ a then .next ({ s2 with pair := { s2.pair with confirmed := true } }.sendCtl (.confirm n)) else .next s2
    else .next s1
  | _, _ => .next s1

/-- LIFELINE_NACK_RX (R398): The active unit receives a NACK and sends the cycle again. -/
def execLifelineNackRx (cycle : Nat) (s : State) : Out :=
  let s1 := s.ctlRx
  if s.pair.role = .active ∧ s.pair.sentCycle = some cycle then .next { s1 with pair := { s1.pair with confirmed := false, applyAt := none } }
  else .next s1

/-- LIFELINE_CONFIRM_RX (R396): The standby receives a CONFIRM for a committed buffer. -/
def execLifelineConfirmRx (cycle : Nat) (s : State) : Out :=
  let s1 := s.ctlRx
  match s.pair.applyAt with
  | some a =>
    if s.takesJournals ∧ s.pair.committedNo = some cycle ∧ s.tick + 10 * usC ≤ a then
      .next { s1 with pair := { s1.pair with confirmed := true } }
    else .next s1
  | none => .next s1

/-! ## Copies from the pair link (R390, R391) -/

/-- The lookup of a copy from the pair link: what its home unit sends to the slow path is named, and nothing of it is counted here. -/
def State.classifyX (s : State) (x : LookIn) : State × Look :=
  let pr := x.pr
  let tc := s.classOf x.p pr.key none x.act.cls
  let untagged := pr.tags.isEmpty && pr.pairAt.isNone
  if untagged && decide (pr.etherType = 0x8808) then (s, lookSlow 0x04 tc 0)
  else if untagged && decide (pr.etherType = 0x8809) then (s, lookSlow 0x05 tc 0)
  else if linkLocal (fbn x.b 0 6) then (s, lookSlow 0x06 tc 0)
  else if x.act.kind = 1 then (s, { tc := tc })
  else if (match pr.ptpAt with | some a => s.ptpTaken x.p x.b a | none => false) then (s, lookSlow 0x07 tc 0)
  else if x.act.kind = 2 then (s, lookSlow 0x08 tc 0)
  else if decide (x.origin = .cross) && pr.pairAt.isSome then (s, lookSlow 0x0F tc 0)
  else s.look x

/-- XFEED_COPY_RX (R391): A cross-fed or relayed copy arrives from the pair link and enters the partner's lookup and admission. -/
def execXfeedCopyRx (cross : Bool) (port source seq egress : Nat) (bytes : List Byte) (tick sub : Nat) (stale coast : Bool) (kSec kSub : Nat) (s : State) : Out :=
  if 256 ≤ port ∨ 65536 ≤ source ∨ 2 ^ 24 ≤ seq ∨ 256 ≤ egress then .fault .noSuchObject
  else if bytes.length < 64 ∨ 16384 < bytes.length then .fault .impossibleInput
  else if !s.pairServing then .next s
  else
    let n := s.core.nextFrame
    let origin : Origin := if cross then .cross else .relayed
    let pe := s.parseFrame port bytes true
    let hit := s.aclLookup pe.1.key
    let s1 := match hit with | some h => s.aclHit h.1 | none => s
    let act := match hit with | some h => h.2.act | none => {}
    let (s2, l) := s1.classifyX { p := port, b := bytes, len := some bytes.length, pr := pe.1, act := act, origin := origin }
    let plan := if cross then l.plan
      else { l.plan with slow := none, aclCopy := false, copies := l.plan.copies.filter fun c => decide (c.port = egress) }
    let f : Frame := {
      port := port, bytes := bytes, ended := true, len := bytes.length, done := true, rxTick := tick, rxSub := sub, stale := stale
      coast := coast, closeAt := s.tick, parsed := pe.1, aclHit := hit.map (·.1), result := l.result, tc := l.tc, plan := plan
      xfeed := true, relay := !cross, rxK := some (kSec * secU + kSub : Int), tagSrc := some (source, seq), maxFrame := (s.ports.get port).maxFrame }
    let s3 := { s2 with core := { s2.core with frames := s2.core.frames.set n f, nextFrame := n + 1 } }
    let s4 := if cross then s3 else (s3.dupTouch source seq).1
    .next (s4.decideFrame n origin)

/-! ## Digests (R402 to R404) -/

/-- DIGEST_BLOCK_CLOSE (R402): A digest block closes by frame or close timeout and its decision record is sent. -/
def execDigestBlockClose (source block : Nat) (s : State) : Out :=
  if 65536 ≤ source ∨ 16384 ≤ block then .fault .noSuchObject
  else match (s.pair.dup.get source).blocks.find? fun d => d.block = block with
  | none => .next s
  | some d => if d.closed then .next s else .next ((s.advance (d.last + cyclesOf s.pair.cfg.closeTimeout)).closeBlock source block)

/-- The outcome timeout of a block (R402, R404): frames without an outcome count in N_FLT as UNRESOLVED, the outcome part is sent, and a
partner's record that is still missing counts as N_S = 0. -/
def State.outcomeTimeout (s : State) (src : Nat) (d : DigestRec) : State :=
  let b := d.block
  let n := d.nS - d.resolved
  let s1 := if d.sent then s
    else
      let t := s.updBlock src b fun e => { e with closed := true, sent := true, nFlt := e.nFlt + n }
      ({ t with pair := { t.pair with cycleUnresolved := satAdd 32 t.pair.cycleUnresolved n } }).sendCtl (.outcome src b d.nDel d.nBen (d.nFlt + n))
  let e := s1.pair.dup.get src
  match e.blocks.find? fun x => x.block = b with
  | some a => s1.compareWith src b a ((e.partner.find? fun x => x.block = b).getD {})
  | none => s1

/-- DIGEST_OUTCOME_TIMEOUT (R402): A block's outcome timeout expires and frames without outcome count as UNRESOLVED. -/
def execDigestOutcomeTimeout (source block : Nat) (s : State) : Out :=
  if 65536 ≤ source ∨ 16384 ≤ block then .fault .noSuchObject
  else match (s.pair.dup.get source).blocks.find? fun d => d.block = block with
  | none => .next s
  | some d =>
    let s1 := s.advance (d.last + cyclesOf s.pair.cfg.outcomeTimeout)
    .next (s1.outcomeTimeout source d)

/-- DIGEST_RECORD_RX (R404): A partner digest record is compared with the unit's own and a verdict is given. -/
def execDigestRecordRx (source block : Nat) (part : DigestPart) (s : State) : Out :=
  if 65536 ≤ source ∨ 16384 ≤ block then .fault .noSuchObject
  else
    let s1 := s.ctlRx
    if !s.pair.dup.has source then .next s1
    else
      let put (d : DigestRec) : DigestRec :=
        match part with
        | .decision nS hS hD ex nX hX => { d with nS := nS, hS := hS, hD := hD, exempt := ex, nXdrop := nX, hXdrop := hX, closed := true }
        | .outcome a b c => { d with nDel := a, nBen := b, nFlt := c, sent := true }
      let s2 := s1.updDup source fun e => { e with
        partner := if e.partner.any fun d => decide (d.block = block) then e.partner.map fun d => if d.block = block then put d else d
          else e.partner ++ [put { block := block }] }
      .next (s2.compareBlock source block)

/-! ## Self-tests (R412) -/

/-- Whether test `i` with `n` consecutive failures is a critical failure. -/
def selfCritical (i n : Nat) : Bool := (decide (i = 0) && decide (3 ≤ n)) || (decide (1 ≤ i ∧ i ≤ 3) && decide (1 ≤ n))

/-- SELF_TEST (R412): A periodic self-test runs and a critical failure causes a switchover. -/
def execSelfTest (test : Nat) (pass : Bool) (s : State) : Out :=
  if 8 ≤ test then .fault .noSuchObject
  else
    let n := if pass then 0 else s.pair.selfFail.get test + 1
    let fails := s.pair.selfFail.set test n
    let s1 := { s with pair := { s.pair with
      selfFail := fails, critical := (List.range 8).any fun i => selfCritical i (fails.get i) } }
    if pass then .next s1
    else if selfCritical test n && s.pair.enable && decide (s.pair.role = .active) && s.partnerStandby && s.pair.healthOk then
      let has := s.pair.waits.any fun w => decide (w.cmd = .pairSwitchover .direct)
      .next (if has then s1 else s1.joinJournal (.pairSwitchover .direct) .direct)
    else .next (s1.raise 759 Ev.selftestFail [.u 1 test])

/-! ## The pair status registers (R414) -/

/-- MIRRORED (R414). -/
def State.isMirrored (s : State) : Bool :=
  s.partnerStandby && decide (s.now ≤ s.pair.lastCommit + s.pair.cfg.commitTimeout * cyclesOf s.pair.cfg.cycle)

/-- The pair status register at offset `o` (R414); unlisted offsets read as 0. -/
def State.pairReg (s : State) (o : Nat) : Nat :=
  let x := s.pair
  let off := unsignedOf 64 (x.tickOffset / 65536)
  match o with
  | 0x00 => x.role.code + flag x.alive 8 + flag x.linkUp 16 + flag x.linkHalf 32 + flag x.aligned 64 + flag s.isMirrored 128 + flag x.healthOk 256
  | 0x04 => x.epoch % 2 ^ 32
  | 0x08 => x.epoch / 2 ^ 32 % 2 ^ 32
  | 0x0C => x.reportCycle % 2 ^ 32
  | 0x10 => x.reportCycle / 2 ^ 32 % 2 ^ 32
  | 0x14 => off % 2 ^ 32
  | 0x18 => off / 2 ^ 32
  | 0x1C => unsignedOf 16 (x.tickOffset % 65536)
  | 0x20 => unsignedOf 32 (clampInt (-2147483648) 2147483647 x.timeError)
  | 0x24 => x.alignDelay
  | 0x28 => x.dup.length
  | 0x2C => x.dupFullPass
  | 0x30 => x.digestFaults
  | 0x34 => x.frogCount
  | 0x38 => x.aliveRange
  | _ =>
    if 0x40 ≤ o ∧ o < 0x5C ∧ o % 4 = 0 then
      match x.commitIdx.find ((o - 0x40) / 4) with
      | some i => 256 + i
      | none => 0
    else if 0x100 ≤ o ∧ o < 0x140 ∧ o % 4 = 0 then ofLe (slice x.healthTx (o - 0x100) 4)
    else if 0x140 ≤ o ∧ o < 0x180 ∧ o % 4 = 0 then ofLe (slice x.healthRx (o - 0x140) 4)
    else 0

/-- The offsets that R414 lists. -/
def pairOffsets : List Nat :=
  (List.range 15).map (4 * ·) ++ (List.range 7).map (fun m => 0x40 + 4 * m) ++ (List.range 32).map fun k => 0x100 + 4 * k

/-! ## Commands (R415) -/

/-- The EtherTypes that the pair tag may not take. -/
def etherTaken : List Nat := [0x0800, 0x0806, 0x8100, 0x86DD, 0x8808, 0x8809, 0x88A8, 0x88CC, 0x88F7]

/-- Enabling and disabling the pair (R381). -/
def State.pairEnable (s : State) (on : Bool) : State :=
  let s1 := { s with pair := { s.pair with enable := on } }
  if on then (if s.pair.role = .alone then s1.enterJoining else s1) else s1.enterAlone

/-- What the own checks and effect of PAIR_CONFIGURE come to (R395, R415): its enable field is not mirrored. -/
def bodyPairConfigure (src : CmdSrc) (enable : Bool) (cycle lead commitTimeout joinTimeout watchdog skewGuard window chunkAge closeTimeout
    outcomeTimeout etherType : Nat) (plAsym : Int) (s : State) : Rep :=
  Rep.ranges [decide (125 * usU ≤ cycle ∧ cycle ≤ 10 * msU ∧ cycle % (125 * usU) = 0),
      decide (50 * usU ≤ lead ∧ lead ≤ 5 * msU ∧ lead < cycle), decide (2 ≤ commitTimeout ∧ commitTimeout ≤ 100),
      decide (secU ≤ joinTimeout ∧ joinTimeout ≤ 600 * secU), decide (msU ≤ watchdog ∧ watchdog ≤ 1000 * msU),
      decide (usU ≤ skewGuard ∧ skewGuard ≤ 2 * msU), [1024, 2048, 4096, 8192, 16384, 32768, 65536].contains window,
      decide (10 * usU ≤ chunkAge ∧ chunkAge ≤ 2 * msU), decide (msU ≤ closeTimeout ∧ closeTimeout ≤ 100 * msU),
      decide (secU ≤ outcomeTimeout ∧ outcomeTimeout ≤ 600 * secU),
      decide (0x600 ≤ etherType ∧ etherType < 65536) && !etherTaken.contains etherType, decide (plAsym.natAbs ≤ nsU)] <|
    let dual := s.pair.ports.any fun x => decide (x.2.attach = .dual)
    if etherType ≠ s.pair.cfg.etherType ∧ dual ∧ s.pair.role ≠ .alone then Rep.badState
    else
      let c : PairCfg := {
        cycle := cycle, lead := lead, commitTimeout := commitTimeout, joinTimeout := joinTimeout, watchdog := watchdog
        skewGuard := skewGuard, window := window, chunkAge := chunkAge, closeTimeout := closeTimeout, outcomeTimeout := outcomeTimeout
        etherType := etherType, plAsym := plAsym }
      let s1 := { s with pair := { s.pair with cfg := c } }
      match src with
      | .journal _ _ => .ok s1 []
      | _ => .ok (s1.pairEnable enable) []

/-- Whether a PAIR_CONFIGURE only clears the enable field (R400). -/
def State.onlyDisables (s : State) (enable : Bool) (c : PairCfg) : Bool := !enable && decide (c = s.pair.cfg)

/-- Whether an attachment puts the port's link on the partner of this unit (R385). -/
def State.attachRemote (s : State) (a : Attach) : Bool :=
  match a with
  | .singleA => s.fuses.pairStrap
  | .singleB => !s.fuses.pairStrap
  | _ => false

/-- The source IDs of a port: first and count (R388). -/
def PairPort.sources (x : PairPort) : Nat × Nat :=
  match x.attach with
  | .unpaired => (0, 0)
  | .dual => (x.base, x.count)
  | _ => (x.source, 1)

/-- Whether the source IDs of two ports meet. -/
def PairPort.meets (x y : PairPort) : Bool :=
  let a := x.sources
  let b := y.sources
  decide (a.1 < b.1 + b.2 ∧ b.1 < a.1 + a.2)

/-- What the own checks and effect of PAIR_CONFIGURE_PORT come to (R388). -/
def bodyPairConfigurePort (port attach source base count untagged : Nat) (s : State) : Rep :=
  let single := decide (attach = 2 ∨ attach = 3)
  let dual := decide (attach = 1)
  Rep.ranges [decide (port < 256), decide (attach < 4), if single then decide (1 ≤ source ∧ source ≤ 0xFFFE) else decide (source = 0),
      if dual then decide (1 ≤ base ∧ base ≤ 0xFFFE) else decide (base = 0),
      if dual then decide (1 ≤ count ∧ count ≤ 16384 ∧ base + count ≤ 0xFFFF) else decide (count = 0),
      if dual then decide (untagged < 2) else decide (untagged = 0)] <|
    let old := s.pair.ports.get port
    let a : Attach := match attach with | 0 => .unpaired | 1 => .dual | 2 => .singleA | _ => .singleB
    let x : PairPort := {
      attach := a, source := source, base := base, count := count, dropUntagged := decide (untagged = 1)
      seq := if single && decide (old.source = source) then old.seq else 0, pathSeen := false }
    let clash := s.pair.ports.any fun y => decide (y.1 ≠ port) && x.meets y.2
    let here := !s.attachRemote a || !s.attachRemote old.attach
    if clash || (here && decide (s.portState port ≠ .down)) then Rep.badState
    else .ok { s with pair := { s.pair with ports := s.pair.ports.set port x } } []

/-- What the own checks and effect of PAIR_GET_STATUS come to (R415). -/
def bodyPairGetStatus (clear : Bool) (s : State) : Rep :=
  let counts := (List.range 15).map fun k => Fld.u 8 (s.pair.counts.get k - s.pair.base.get k)
  .ok (if clear then { s with pair := { s.pair with base := s.pair.counts } } else s) (pairOffsets.map (fun o => Fld.u 4 (s.pairReg o)) ++ counts)

/-- What the own checks and effect of PAIR_SWITCHOVER come to (R406, R415): the roles change at the apply boundary of its journal. -/
def bodyPairSwitchover (src : CmdSrc) (s : State) : Rep :=
  let go : Rep := .ok { s with pair := { s.pair with switchover := true } } []
  match src with
  | .journal _ _ => go
  | _ => if s.pair.enable && decide (s.pair.role = .active) && s.partnerStandby && s.pair.healthOk then go else Rep.badState

/-- What the own checks and effect of PAIR_RESYNC come to (R415). -/
def bodyPairResync (s : State) : Rep :=
  if s.pair.enable && (s.partnerStandby || decide (s.pair.partnerRole = .detached)) then .ok (s.sendCtl .resync) []
  else Rep.badState

/-- What the own checks and effect of PAIR_TEST come to (R410). -/
def bodyPairTest (duration : Nat) (s : State) : Rep :=
  Rep.ranges [decide (duration = 0 ∨ (secU ≤ duration ∧ duration ≤ 3600 * secU))] <|
    if s.pair.role ≠ .standby then Rep.badState
    else .ok { s with pair := { s.pair with testEnd := if duration = 0 then none else some (s.now + cyclesOf duration) } } []

/-- PAIR_TEST_END (R410): The duration of a PAIR_TEST on the standby expires, ending the test and REF28's usability for it. -/
def execPairTestEnd (s : State) : Out :=
  match s.pair.testEnd with
  | some t =>
    let s1 := s.advance t
    .next { s1 with pair := { s1.pair with testEnd := none } }
  | none => .next s

/-- What the own checks and effect of PAIR_GET_DIGEST come to (R415). -/
def bodyPairGetDigest (clear : Bool) (source : Nat) (s : State) : Rep :=
  Rep.ranges [decide (1 ≤ source ∧ source ≤ 0xFFFE)] <|
    match s.pair.dup.find source with
    | none => Rep.badState
    | some e =>
      let v (k : Nat) : Nat := (if k < 5 then e.verdicts.get k else e.exemptBlocks) - e.vBase.get k
      let base : Tbl Nat := (List.range 6).map fun k => (k, if k < 5 then e.verdicts.get k else e.exemptBlocks)
      .ok (if clear then s.updDup source fun x => { x with vBase := base } else s)
        ((List.range 6).map (fun k => Fld.u 8 (v k)) ++ [.u 4 e.lastBlock])

/-- What the own checks and effect of PAIR_GET_DUP come to (R415). -/
def bodyPairGetDup (source : Nat) (s : State) : Rep :=
  Rep.ranges [decide (1 ≤ source ∧ source ≤ 0xFFFE)] <|
    match s.pair.dup.find source with
    | none => Rep.badState
    | some e => .ok s [.u 4 e.high.toNat, .u 4 s.pair.cfg.window, .u 8 ((s.now - e.created) * 262144 / 5), .u 8 e.dup, .u 8 e.dupWindow]

/-- PAIR_SWITCHOVER (R406): Exchanges the active and standby roles at the next apply boundary. -/
def execPairSwitchover (src : CmdSrc) (s : State) : Out :=
  .next (s.runCmd (.pairSwitchover src) src 0x0A04 (bodyPairSwitchover src) true)

/-- PAIR_CONFIGURE_PORT (R388): Sets a port's attachment and source IDs. -/
def execPairConfigurePort (src : CmdSrc) (port attach source base count untagged : Nat) (s : State) : Out :=
  .next (s.runCmd (.pairConfigurePort src port attach source base count untagged) src 0x0A02 (bodyPairConfigurePort port attach source base count untagged))

/-- PAIR_GET_STATUS (R415): Returns the pair status registers and counts. -/
def execPairGetStatus (src : CmdSrc) (clear : Bool) (s : State) : Out :=
  .next (s.runCmd (.pairGetStatus src clear) src 0x0A03 (bodyPairGetStatus clear))

/-- PAIR_RESYNC (R415): Sends the partner through SYNCING. -/
def execPairResync (src : CmdSrc) (s : State) : Out :=
  .next (s.runCmd (.pairResync src) src 0x0A05 (bodyPairResync))

/-- PAIR_TEST (R410): Starts or stops a pair test on the standby. -/
def execPairTest (src : CmdSrc) (duration : Nat) (s : State) : Out :=
  .next (s.runCmd (.pairTest src duration) src 0x0A06 (bodyPairTest duration))

/-- PAIR_GET_DIGEST (R415): Returns a source's digest verdict counts. -/
def execPairGetDigest (src : CmdSrc) (clear : Bool) (source : Nat) (s : State) : Out :=
  .next (s.runCmd (.pairGetDigest src clear source) src 0x0A07 (bodyPairGetDigest clear source))

/-- PAIR_GET_DUP (R415): Returns a source's duplicate-table entry. -/
def execPairGetDup (src : CmdSrc) (source : Nat) (s : State) : Out :=
  .next (s.runCmd (.pairGetDup src source) src 0x0A08 (bodyPairGetDup source))


end Sys2Proof.Machine
end

