-- ==== Sys2Proof/Machine/Keeper.lean ====
section
/-!
DEFINITION. The Keeper: images and their checks, sessions, debug levels, keys, and the debug TAP (R421 to R424, R432 to R439).
-/
namespace Sys2Proof.Machine

/-! ## Images (R421 to R423) -/

/-- A section entry (R422). -/
structure Section where
  type : Nat
  attr : Nat
  offset : Nat
  length : Nat
deriving DecidableEq, Repr

/-- The section entries that SECTION_COUNT counts. -/
def imageSections (b : List Byte) : List Section :=
  (List.range (ofBe (slice b 13 1))).map fun i =>
    let o := 176 + 8 * i
    { type := ofBe (slice b o 1), attr := ofBe (slice b (o + 1) 1), offset := ofBe (slice b (o + 2) 3), length := ofBe (slice b (o + 5) 3) }

/-- Whether no two sections overlap. -/
def sectionsApart : List Section → Bool
  | [] => true
  | x :: l => (l.all fun y => decide (x.offset + x.length ≤ y.offset ∨ y.offset + y.length ≤ x.offset)) && sectionsApart l

/-- How many sections have a type, and of them an ATTR. -/
def countOf (l : List Section) (t : Nat) : Nat := (l.filter fun x => decide (x.type = t)).length

/-- Whether the bytes from `first` on, `n` of them, are 0. -/
def zeros (b : List Byte) (first n : Nat) : Bool := (slice b first n).all (· = 0)

/-- The bytes of a section. -/
def Section.bytes (x : Section) (b : List Byte) : List Byte := slice b x.offset x.length

/-- The entries of a KEYS section: role DEBUG or OPERATOR, and the public key. -/
def keysOf (l : List Byte) : List (Bool × List Byte) :=
  (List.range (l.length / 97)).map fun i => (decide (ofBe (slice l (97 * i) 1) = 2), slice l (97 * i + 1) 96)

/-- Whether a KEYS section holds at most 4 entries of roles 0x01 and 0x02. -/
def keysOk (l : List Byte) : Bool :=
  decide (l.length % 97 = 0 ∧ l.length / 97 ≤ 4) &&
    (List.range (l.length / 97)).all fun i => let r := ofBe (slice l (97 * i) 1); decide (r = 1 ∨ r = 2)

/-- The section rules of R422 for a base image. -/
def baseSectionsOk (b : List Byte) (l : List Section) : Bool :=
  let groups := (l.filter fun x => decide (x.type = 2)).map (·.attr)
  let tables := (l.filter fun x => decide (x.type = 4)).map (·.attr)
  decide (countOf l 1 = 1 ∧ countOf l 3 ≤ 1 ∧ countOf l 5 ≤ 1 ∧ countOf l 6 ≤ 1) &&
  decide (groups.length = 5) && (List.range 5).all (groups.contains ·) &&
  decide (tables.length = 2) && (List.range 2).all (tables.contains ·) &&
  l.all fun x =>
    match x.type with
    | 1 => decide (x.attr = 0 ∧ x.length ≤ 98304)
    | 2 => decide (x.length ≤ 262144)
    | 3 => decide (x.attr = 0) && keysOk (x.bytes b)
    | 4 => true
    | 5 => decide (x.attr = 0)
    | 6 => decide (x.attr = 0 ∧ x.length % 64 = 0 ∧ x.length ≤ 262144)
    | _ => false

/-- The section rules of R422 for an overlay image. -/
def overlaySectionsOk (l : List Section) : Bool :=
  decide (countOf l 6 ≤ 1) &&
  l.all fun x =>
    match x.type with
    | 4 => true
    | 6 => decide (x.attr = 0 ∧ x.length % 64 = 0 ∧ x.length ≤ 262144)
    | _ => false

/-- Check 1 of R423 for an image of kind base or overlay. -/
def imageForm (base : Bool) (b : List Byte) : Bool :=
  let l := imageSections b
  let len := ofBe (slice b 24 4)
  decide (576 ≤ b.length) && decide (ofBe (slice b 0 4) = 0x4B5A494D) && decide (ofBe (slice b 4 2) = 1) &&
  decide (ofBe (slice b 6 1) = if base then 1 else 2) && decide (ofBe (slice b 7 1) < if base then 2 else 1) &&
  decide (ofBe (slice b 8 4) ≤ 64) && decide (ofBe (slice b 12 1) < 8) && decide (1 ≤ l.length ∧ l.length ≤ 32) &&
  zeros b 14 2 && decide (ofBe (slice b 16 8) ≠ 0) && decide (len = b.length) &&
  decide (len ≤ if base then 16777216 else 262144) && zeros b 28 4 && zeros b 528 48 &&
  zeros b (176 + 8 * l.length) (8 * (32 - l.length)) &&
  (l.all fun x => decide (x.offset % 64 = 0 ∧ 576 ≤ x.offset ∧ x.offset + x.length ≤ len)) && sectionsApart l &&
  (if base then baseSectionsOk b l else overlaySectionsOk l)

/-- The commands of a CONFIG section (R422, R446): an extension occupies the entries that follow its command. -/
def configCmds : Nat → List Byte → List RawCmd
  | 0, _ => []
  | n + 1, b =>
    if b.isEmpty then []
    else
      let ext := 8 * min 64 (ofBe (slice b 3 1))
      let c : RawCmd := {
        opcode := ofBe (slice b 0 2), flags := ofBe (slice b 2 1), params := slice b 8 56 ++ slice b 64 ext }
      c :: configCmds n (b.drop (64 + 64 * ceilDiv ext 64))

/-- What the device keeps of an image that it has verified. -/
def imageInfo (base : Bool) (b : List Byte) : ImgInfo :=
  let l := imageSections b
  let one (t : Nat) : List Byte := match l.find? fun x => x.type = t with | some x => x.bytes b | none => []
  let numbered := (List.range l.length).zip l
  let tables := numbered.filter fun x => decide (x.2.type = 4)
  { epoch := ofBe (slice b 16 8), secVersion := ofBe (slice b 8 4), length := b.length, keySlot := ofBe (slice b 12 1)
    compat := decide (ofBe (slice b 7 1) = 1), cmds := configCmds 4096 (one 6)
    tables := tables.foldl (fun t x => t.set (if base then x.2.attr else x.1) (x.2.bytes b)) []
    modMap := one 5, keys := keysOf (one 3) }

/-- The checks of R423 in order: the number and status of the first that fails, or what the image gives. -/
def State.verifyImage (s : State) (base : Bool) (b : List Byte) : Sum (Nat × Nat) ImgInfo :=
  let key := slice b 32 96
  let slot := ofBe (slice b 12 1)
  if !imageForm base b then .inl (1, stRange)
  else if s.fuses.keyHash.find slot ≠ some (Config.sha384 key) ∨ s.fuses.revoked.contains slot then .inl (2, stNotPermitted)
  else if !Config.ecdsaOk key (Config.sha384 (b.take 432)) (slice b 432 96) then .inl (3, stNotPermitted)
  else if Config.sha384 (b.drop 576) ≠ slice b 128 48 then .inl (4, stCrc)
  else if ofBe (slice b 8 4) < s.fuses.minVersion then .inl (5, stNotPermitted)
  else .inr (imageInfo base b)

/-! ## Sessions and debug (R432, R433) -/

/-- The open OPERATOR session closes, with SESSION_CLOSE. -/
def State.closeSession (s : State) : State :=
  if s.fw.sessionEnd.isSome then ({ s with fw := { s.fw with sessionEnd := none } }).raise 798 Ev.sessionClose else s

/-- What the own checks and effect of SEC_CHALLENGE come to (R432). -/
def bodySecChallenge (role level : Nat) (s : State) : Rep :=
  Rep.ranges [decide (role < 2), if role = 1 then decide (level < 2) else decide (level = 0)] <|
    let busy := match s.fw.authBusy with | some t => decide (s.now < t) | none => false
    if busy then .fail stBusy []
    else if role = 1 ∧ level = 1 ∧ !s.fuses.fullDebug then .fail stNotPermitted []
    else
      let (k, s1) := s.takeFree
      let nonce := Config.freeNat k % 2 ^ 256
      let c : Challenge := { debug := decide (role = 1), full := decide (level = 1), nonce := nonce, deadline := s.now + 30 * secC }
      .ok { s1 with fw := { s1.fw with challenge := some c } } [.raw 8 (beBytes 32 nonce)]

/-- The message that a response signs: nonce, UNIT_SERIAL, role byte and level byte. -/
def State.challengeMessage (s : State) (c : Challenge) : List Byte :=
  beBytes 32 c.nonce ++ beBytes 8 s.fuses.serial ++ beBytes 1 (if c.debug then 2 else 1) ++ beBytes 1 (flag c.full 1)

/-- A response has failed (R432): AUTH_FAIL; the third within 60 s makes SEC_CHALLENGE busy for 60 s. -/
def State.authFail (s : State) : State :=
  let l := s.now :: recent s.fw.authFails s.now (60 * secC)
  let s1 := { s with fw := { s.fw with
    authFails := l, authBusy := if 3 ≤ l.length then some (s.now + 60 * secC) else s.fw.authBusy } }
  s1.raise 798 Ev.authFail

/-- A valid response opens the session or sets the debug level named in its challenge; entry to FULL zeroises the key-store cache and
closes every session (R432, R433). -/
def State.authPass (s : State) (c : Challenge) : State :=
  if !c.debug then ({ s with fw := { s.fw with sessionEnd := some (s.now + cyclesOf s.fw.sessionTime) } }).raise 798 Ev.sessionOpen
  else
    let l : Debug := if c.full then .full else .cores
    let s1 := { s with fw := { s.fw with debug := l, keyCache := s.fw.keyCache && !c.full } }
    let s2 := if c.full then s1.closeSession else s1
    if s.fw.debug = l then s2 else s2.raise 798 Ev.debugUnlocked

/-- What the own checks and effect of SEC_RESPONSE come to (R432). -/
def bodySecResponse (part : Nat) (bytes : List Byte) (s : State) : Rep :=
  Rep.ranges [decide (part < 2), true] <|
    match s.fw.challenge with
    | none => Rep.badState
    | some c =>
      if c.deadline < s.now then Rep.badState
      else if part = 0 then .ok { s with fw := { s.fw with respPart0 := some bytes } } []
      else match s.fw.respPart0 with
        | none => Rep.badState
        | some r =>
          let s1 := { s with fw := { s.fw with challenge := none, respPart0 := none } }
          let digest := Config.sha384 (s.challengeMessage c)
          if s.fw.base_.keys.any fun k => decide (k.1 = c.debug) && Config.ecdsaOk k.2 digest (r ++ bytes) then .ok (s1.authPass c) []
          else .done s1.authFail stNotPermitted []

/-- What the own checks and effect of SEC_CLOSE come to (R432). -/
def bodySecClose (s : State) : Rep :=
  .ok s.closeSession []

/-- What the own checks and effect of SEC_DEBUG_LOCK come to (R433). -/
def bodySecDebugLock (s : State) : Rep :=
  .ok (if s.fw.debug = .locked then s else ({ s with fw := { s.fw with debug := .locked } }).raise 798 Ev.debugLocked) []

/-- What the own checks and effect of SEC_REVOKE_KEY come to (R439). -/
def bodySecRevokeKey (slot : Nat) (s : State) : Rep :=
  Rep.ranges [decide (slot < 8)] <|
    if s.fw.base_.keySlot = slot then Rep.badState
    else .ok { s with fuses := { s.fuses with
      revoked := if s.fuses.revoked.contains slot then s.fuses.revoked else s.fuses.revoked ++ [slot] } } []

/-- What the own checks and effect of SEC_SET_MIN_VERSION come to (R439). -/
def bodySecSetMinVersion (minimum : Nat) (s : State) : Rep :=
  Rep.ranges [decide (minimum ≤ 64 ∧ s.fuses.minVersion ≤ minimum ∧ minimum ≤ s.fw.base_.secVersion)] <|
    .ok { s with fuses := { s.fuses with minVersion := minimum } } []

/-- State of a key slot: 0 blank, 1 valid, 2 revoked. -/
def State.keyState (s : State) (k : Nat) : Nat :=
  if s.fuses.revoked.contains k then 2 else if s.fuses.keyHash.has k then 1 else 0

/-- The code of a debug level. -/
def Debug.code : Debug → Nat
  | .locked => 0 | .cores => 1 | .full => 2

/-- What the own checks and effect of SEC_GET_STATUS come to (R439). -/
def bodySecGetStatus (s : State) : Rep :=
  let left := match s.fw.sessionEnd with | some t => (t - s.now) * 262144 / 5 | none => 0
  .ok s ([.u 1 (Debug.code s.fw.debug), .u 1 (flag s.fw.sessionEnd.isSome 1), .u 8 left] ++ (List.range 8).map (fun k => Fld.u 1 (s.keyState k))
    ++ [.u 4 s.fuses.minVersion])

/-- SEC_CHALLENGE (R432): Returns a nonce for an OPERATOR or DEBUG session. -/
def execSecChallenge (src : CmdSrc) (role level : Nat) (s : State) : Out :=
  .next (s.runCmd (.secChallenge src role level) src 0x0C01 (bodySecChallenge role level))

/-- SEC_RESPONSE (R432): Delivers a signature part and, on part 1, opens the session or sets the debug level. -/
def execSecResponse (src : CmdSrc) (part : Nat) (bytes : List Byte) (s : State) : Out :=
  .next (s.runCmd (.secResponse src part bytes) src 0x0C02 (bodySecResponse part bytes))

/-- SEC_CLOSE (R432): Closes the OPERATOR session. -/
def execSecClose (src : CmdSrc) (s : State) : Out :=
  .next (s.runCmd (.secClose src) src 0x0C03 (bodySecClose))

/-- SEC_DEBUG_LOCK (R433): Returns the debug level to LOCKED. -/
def execSecDebugLock (src : CmdSrc) (s : State) : Out :=
  .next (s.runCmd (.secDebugLock src) src 0x0C04 (bodySecDebugLock))

/-- SEC_REVOKE_KEY (R439): Revokes a fused key slot. -/
def execSecRevokeKey (src : CmdSrc) (slot : Nat) (s : State) : Out :=
  .next (s.runCmd (.secRevokeKey src slot) src 0x0C05 (bodySecRevokeKey slot))

/-- SEC_SET_MIN_VERSION (R439): Raises the fused minimum SEC_VERSION. -/
def execSecSetMinVersion (src : CmdSrc) (minimum : Nat) (s : State) : Out :=
  .next (s.runCmd (.secSetMinVersion src minimum) src 0x0C06 (bodySecSetMinVersion minimum))

/-- SEC_GET_STATUS (R439): Returns the debug level, session state and key states. -/
def execSecGetStatus (src : CmdSrc) (s : State) : Out :=
  .next (s.runCmd (.secGetStatus src) src 0x0C07 (bodySecGetStatus))


/-- SESSION_EXPIRY (R432): An OPERATOR session reaches its session time and closes. -/
def execSessionExpiry (s : State) : Out :=
  match s.fw.sessionEnd with
  | some t => .next ((s.advance t).closeSession)
  | none => .next s

/-! ## The debug TAP (R433, R434) -/

/-- The core that a TAP instruction acts on, 14 being the Keeper; none for the boundary-scan instructions. -/
def tapCore : TapInstr → Option Nat
  | .bypass => none
  | .idcode => none
  | .sample => none
  | .extest => none
  | .halt n => some n
  | .release n => some n
  | .step n => some n
  | .access n => some n

/-- Whether the debug level permits an instruction. -/
def Debug.permits (d : Debug) (i : TapInstr) : Bool :=
  match tapCore i with
  | none => true
  | some n => if n < 14 then decide (d ≠ .locked) else decide (d = .full)

/-- DEBUG_TAP_INSTRUCTION (R434): An IEEE 1149.1 instruction shifted into the debug TAP acts, or behaves as BYPASS when the debug level does not permit it. -/
def execDebugTapInstruction (instr : TapInstr) (s : State) : Out :=
  if (match tapCore instr with | some n => decide (15 ≤ n) | none => false) then .fault .noSuchObject
  else if !Debug.permits s.fw.debug instr then .next { s with fw := { s.fw with tap := .bypass } }
  else
    let s1 := { s with fw := { s.fw with tap := instr } }
    match instr with
    | .halt n =>
      if n < 14 ∧ (s.fw.cores.get n).state = 1 then .next (s1.updCore n fun c => { c with state := 2 }) else .next s1
    | .release n =>
      if n < 14 ∧ (s.fw.cores.get n).state = 2 then .next (s1.updCore n fun c => { c with state := 1 }) else .next s1
    | _ => .next s1

end Sys2Proof.Machine
end

