-- ==== Sys2Proof/Machine/Cpu.lean ====
section
/-!
DEFINITION. The CPU port: injection queues, TX stamp requests, the slow-path firmware and the receive queues (R205, R282 to R284,
R483 to R489).
-/
namespace Sys2Proof.Machine

/-! ## Injection headers (R483, R484) -/

/-- The event source of the CPU port (R507). -/
def cpuSrc : Nat := 831

/-- Whether an injection header is within the ranges of R483. -/
def ctxHeaderOk (h : List Byte) : Bool :=
  let mode := fb h 1
  let direct := decide (mode = 1)
  let ts := decide (fb h 9 = 1)
  decide (fb h 0 = 1) && decide (mode < 2) && decide (60 ≤ fb2 h 2 ∧ fb2 h 2 ≤ 16380) && decide (fb2 h 4 < 256) &&
    (if direct then decide (fb2 h 6 < 256) else decide (fb2 h 6 = 0)) && (if direct then decide (fb h 8 < 8) else decide (fb h 8 = 0)) &&
    decide (fb h 9 < 2) && (if ts then decide (fb h 10 < 4) else decide (fb h 10 = 0)) && decide (fb h 11 = 0) &&
    (ts || decide (fb2 h 12 = 0)) && (slice h 14 18).all (· = 0)

/-- The bytes of a record with its padding. -/
def ctxRecordLen (h : List Byte) : Nat := 32 + alignUp (fb2 h 2) 32

/-- The complete records, and what follows them, at the head of a queue: the bytes kept, and whether a bad header stands there. -/
def ctxScan : Nat → List Byte → List Byte × Bool
  | 0, b => (b, false)
  | n + 1, b =>
    if b.length < 32 then (b, false)
    else if !ctxHeaderOk b then ([], true)
    else
      let k := ctxRecordLen b
      if b.length < k then (b, false)
      else
        let r := ctxScan n (b.drop k)
        (b.take k ++ r.1, r.2)

/-- Bytes are written to queue `q`: dropped in FAULT; a header that breaks a range puts the queue in FAULT (R484). -/
def State.ctxPut (s : State) (q : Nat) (l : List Byte) : State :=
  let x := s.host.ctx.get q
  if x.fault then s
  else
    let r := ctxScan 8192 (x.bytes ++ l)
    let s1 := { s with host := { s.host with ctx := s.host.ctx.set q { bytes := r.1, fault := r.2 } } }
    if r.2 then ({ s1.hwCount 0x4080C s1.host.ctxBad with host := { s1.host with ctxBad := inc32 s1.host.ctxBad } }).raise cpuSrc Ev.ctxFault [.u 1 q] else s1

/-- CTX_RESET (R484): A register write empties a CTX queue and clears its FAULT. -/
def execCtxReset (value : BitVec 32) (s : State) : Out :=
  let v := value.toNat
  .next { s with host := { s.host with
    ctx := (List.range 4).foldl (fun t q => if v.testBit q then t.set q {} else t) s.host.ctx } }

/-! ## Injection (R205, R485 to R487) -/

/-- A TX stamp request of frame `n` reserves an entry of its queue, or is refused and counted (R205, R212). -/
def State.tsqReserve (s : State) (q id n : Nat) : State :=
  let x := s.time.tsqs.get q
  if !x.enable || decide (64 ≤ x.fill + x.reqs.length + (s.tsqMarks q).length) then
    let s1 := (s.tsqMiss q 1).updTsq q fun y => { y with
      refusedSeen := true, refusedRun := inc32 y.refusedRun
      refusedTick := if y.refusedRun = 0 then s.tick else y.refusedTick }
    let s2 := if x.refusedSeen then s1 else s1.raise (tsqSrc q) Ev.tsqRefused
    s2.tsqPoke q (s2.tsqWork q)
  else
    let r : TsqReq := { id := id, frame := n, injected := s.now, deadline := s.now + x.stampTimeout * msC }
    s.updTsq q fun y => { y with reqs := y.reqs ++ [r] }

/-- A frame injected in DIRECT mode: no parser, ACL, table, steering or rewriting; one copy. -/
def State.injectDirect (s : State) (proxy egress cls : Nat) (b : List Byte) : State :=
  let n := s.core.nextFrame
  let k := s.kindOf egress cls
  let copy : CopyPlan := { port := egress, kind := k, contract := if k = 0 then s.contracts.table.find (contractKey egress cls) else none }
  let f : Frame := {
    port := proxy, bytes := b, ended := true, len := b.length, done := true, closeAt := s.tick, cpu := true, tc := cls
    plan := { copies := [copy] }, maxFrame := (s.ports.get proxy).maxFrame }
  { s with core := { s.core with frames := s.core.frames.set n f, nextFrame := n + 1 } }

/-- The record at the head of a queue is injected (R485): the frame with its FCS, in its mode. -/
def State.injectRecord (s : State) (b : List Byte) : State :=
  let body := slice b 32 (fb2 b 2)
  let bytes := body ++ leBytes 4 (crc32 body)
  let n := s.core.nextFrame
  let s1 := if fb b 9 = 1 then s.tsqReserve (fb b 10) (fb2 b 12) n else s
  let s2 := if fb b 1 = 0 then s1.windowClose (fb2 b 4) bytes true (0, 0) true else s1.injectDirect (fb2 b 4) (fb2 b 6) (fb b 8) bytes
  if s2.core.frames.has n then s2 else s2.tsqDecide n 0 []

/-- CTX_INJECT (R485): A complete injection record in a CTX queue is injected in FORWARD or DIRECT mode. -/
def execCtxInject (queue : Nat) (s : State) : Out :=
  if 4 ≤ queue then .fault .noSuchObject
  else
    let b := (s.host.ctx.get queue).bytes
    if b.length < 32 ∨ b.length < ctxRecordLen b ∨ !s.pdOn 3 then .next s
    else
      let k := ctxRecordLen b
      let s1 := { s with host := { s.host with ctx := s.host.ctx.upd queue fun x => { x with bytes := b.drop k } } }
      .next (s1.injectRecord (b.take k))

/-! ## The slow-path firmware (R282, R284, R488) -/

/-- Whether the cores C6 to C9 run. -/
def State.slowCores (s : State) : Bool := [6, 7, 8, 9].all fun n => decide ((s.fw.cores.get n).state = 1)

/-- The level that an ESMC information or event PDU carries (R158, R159): the QL TLV of ITU-T G.8264 and the enhanced SSM code of its
extended QL TLV (PRESUMED, log 5: the spec names the codes and not their places). -/
def esmcPdu (b : List Byte) : Option Nat :=
  let ssm := fb b 27 % 16
  let enhanced := if b.length < 36 ∨ fb b 28 ≠ 2 then 0 else fb b 31
  esmcLevel ssm (if enhanced = 0xFF then 0 else enhanced)

/-- Whether a SLOW_PROTOCOL frame is an ESMC PDU: subtype 0x0A with the OUI of ITU-T (PRESUMED, log 5). -/
def isEsmc (b : List Byte) : Bool := decide (fb2 b 12 = 0x8809 ∧ fb b 14 = 0x0A ∧ fbn b 15 3 = 0x0019A7)

/-- Whether the device's own firmware terminates a slow-path frame (R219, R282): PTP of an instance, ESMC, LLDP. -/
def State.terminates (s : State) (f : SlowFrame) : Bool :=
  (decide (f.reason = 0x07) && decide ((s.ptp.ports.get f.port).inst ≠ 4)) ||
  (decide (f.reason = 0x05) && isEsmc f.bytes) || (decide (f.reason = 0x06) && decide (fb2 f.bytes 12 = 0x88CC))

/-- A CRX record (R488). -/
def crxRecord (f : SlowFrame) : List Byte :=
  let n := f.bytes.length
  let h := beBytes 1 1 ++ beBytes 1 f.reason ++ beBytes 2 n ++ beBytes 2 f.port ++ beBytes 1 f.cls ++ beBytes 1 f.flags
    ++ beBytes 8 f.rxTick ++ beBytes 2 f.rxSub ++ beBytes 2 f.pairSrc ++ beBytes 12 0
  padTo (32 + alignUp n 32) (h ++ f.bytes)

/-- Free bytes of receive queue `q`. -/
def State.crxRoom (s : State) (q : Nat) : Nat := 524288 - (s.host.crx.get q).bytes.length

/-- CRX_FULL of queue `q` (R489). -/
def State.crxFull (s : State) (q : Nat) : Bool := decide (s.crxRoom q < 16416)

/-- CRX_FULL is raised when a queue first lacks room, at most once per second (R507). -/
def State.crxJudge (s : State) (q : Nat) : State :=
  let x := s.host.crx.get q
  let set (f : CrxQ → CrxQ) : State := { s with host := { s.host with crx := s.host.crx.upd q f } }
  if !s.crxFull q then set fun y => { y with lacked := false }
  else if x.lacked then s
  else if mayRaise x.fullAt s.now secC then
    (set fun y => { y with lacked := true, fullAt := some s.now }).raise cpuSrc Ev.crxFull [.u 1 q]
  else set fun y => { y with lacked := true }

/-- A slow-path frame leaves the reserve. -/
def State.slowLeaves (s : State) (i : Nat) (f : SlowFrame) : State :=
  s.updParser fun y => { y with slow := y.slow.eraseIdx i, reserve := y.reserve - f.cells }

/-- SLOW_PATH_FRAME (R488): Slow-path firmware processes a frame, terminating it or writing a CRX record. -/
def execSlowPathFrame (index : Nat) (s : State) : Out :=
  match s.parse.slow[index]? with
  | none => .fault .noSuchObject
  | some f =>
    if (s.parse.slow.take index).any fun g => decide (g.port = f.port ∧ g.reason = f.reason) then .fault .impossibleInput
    else if !s.slowCores then .next s
    else if s.terminates f then
      let s1 := s.slowLeaves index f
      if f.reason = 0x05 then
        match s1.laneSlot f.port with
        | some n => .next (if (s1.ref.slots.get n).esmc then s1.receivedLevel n (esmcPdu f.bytes) 0 else s1)
        | none => .next s1
      else .next s1
    else
      let q := s.host.crxMap.toNat / 4 ^ f.reason % 4
      let r := crxRecord f
      if s.crxRoom q < r.length then .next (s.crxJudge q)
      else
        let s1 := s.slowLeaves index f
        .next (({ s1 with host := { s1.host with crx := s1.host.crx.upd q fun x => { x with bytes := x.bytes ++ r } } }).crxJudge q)

end Sys2Proof.Machine
end

