-- ==== Sys2Proof/Machine/Chains.lean ====
section
/-!
DEFINITION. DMA channels: their registers' actions, completion queues, and every chain instruction but MOVE (R482, R490 to R507).
-/
namespace Sys2Proof.Machine

/-- The event source of channel `n` (R507). -/
def dmaSrc (n : Nat) : Nat := 616 + n

/-- BAR0 offset of channel `n` (R24, R505). -/
def dmaBase (n : Nat) : Nat := 0x00040000 + 0x1000 * n

/-! ## Completion queues (R503, R504) -/

/-- The fill of the completion queue. -/
def Chan.cqFill (x : Chan) : Nat := dist32 x.cqRd x.cqWr

/-- The queue is full (R504). -/
def Chan.cqFull (x : Chan) : Bool := decide (2 ^ x.cqSize ≤ x.cqFill)

/-- The 16 bytes of record `k` of channel `n` (R503). -/
def cqBytes (n : Nat) (r : CqRec) (size k : Nat) : List Byte :=
  beBytes 1 r.kind ++ beBytes 1 (r.flags + 8 * (k / 2 ^ size % 2)) ++ beBytes 1 r.cause ++ beBytes 1 n ++ beBytes 4 r.value32
    ++ beBytes 8 r.value64

/-- A record is written at the place CQ_WR_COUNT names; DMA_THRESH at the fill of CQ_THRESH (R505, R507). -/
def State.cqStore (s : State) (n : Nat) (r : CqRec) : State :=
  let x := s.host.chans.get n
  let k := x.cqWr.toNat
  let mem := hostWrite s.hostMem (x.cqBase.toNat + 16 * (k % 2 ^ x.cqSize)) (cqBytes n r x.cqSize k)
  let x1 := { x with cqWr := x.cqWr + 1 }
  let s1 := ({ s with hostMem := mem }).updChan n fun _ => x1
  if x.cqThresh ≠ 0 ∧ x1.cqFill = x.cqThresh then s1.raise (dmaSrc n) Ev.dmaThresh else s1

/-- Where the registers of DMA channel `n` begin in BAR0 (R24). -/
def dmaOffset (n : Nat) : Nat := 0x40000 + 0x1000 * n

/-- A record is written, waits for room behind those that wait, or is counted where the channel has no queue; the flag says that it does
not wait. -/
def State.cqPut (s : State) (n : Nat) (r : CqRec) : State × Bool :=
  let x := s.host.chans.get n
  if x.cqSize = 0 then ((s.hwCount (dmaOffset n + 0x48) x.cqDropped).updChan n fun y => { y with cqDropped := inc32 y.cqDropped }, true)
  else if x.held.isEmpty && !x.cqFull then (s.cqStore n r, true)
  else (s.updChan n fun y => { y with held := y.held ++ [r] }, false)

/-- The channel enters STALLED, with DMA_STALL (R498). -/
def State.stallChan (s : State) (n : Nat) : State :=
  ((s.updChan n fun y => { y with state := .stalled, stallSeen := true }).hwSet (dmaOffset n + 8) 9).raise (dmaSrc n) Ev.dmaStall

/-- The marker of a fence epoch (R503). -/
def cqMarkRec (e : Nat) : CqRec := { kind := 5, value64 := e }

/-- A marker takes its place in the queue: a RUNNING channel that finds it full stalls (R498, R504). -/
def State.cqMarker (s : State) (n e : Nat) : State :=
  let x := s.host.chans.get n
  if x.cqSize = 0 then s
  else
    let r := s.cqPut n (cqMarkRec e)
    if r.2 || decide (x.state ≠ .running) then r.1 else r.1.stallChan n

/-- Whether a record ends its instruction: those of SIGNAL and END. -/
def CqRec.retires (r : CqRec) : Bool := decide (r.kind = 1 ∨ r.kind = 2)

/-- The write of the oldest marker that the queue of channel `n` owes: behind a SIGNAL or END in progress, or at once (R504). -/
def State.cqMarkerDue (s : State) (n : Nat) : State :=
  match s.fence.marks.find? fun m => m.stream = .cq n with
  | none => s
  | some m =>
    let s1 := { s with fence := { s.fence with marks := s.fence.marks.erase m } }
    if (s1.host.chans.get n).held.any CqRec.retires then s1.updChan n fun y => { y with marks := y.marks ++ [m.epoch] }
    else s1.cqMarker n m.epoch

/-- The markers of fences whose F has passed are placed before any later record. -/
def State.cqMarkers (s : State) (n : Nat) : State :=
  (s.fence.marks.filter fun m => m.stream = .cq n).foldl (fun (t : State) _ => t.cqMarkerDue n) s

/-! ## Instructions retire, and chains end (R496, R498 to R501) -/

/-- The instruction in progress retires, and the next one is at `pc`. -/
def Chan.retire (x : Chan) (pc : BitVec 64) : Chan :=
  { x with retired := inc32 x.retired, budgetUsed := x.budgetUsed + 1, pc := pc }

/-- The markers that followed the SIGNAL or END that has retired take their places. -/
def State.followMarks (s : State) (n : Nat) : State :=
  let l := (s.host.chans.get n).marks
  l.foldl (fun (t : State) e => t.cqMarker n e) (s.updChan n fun y => { y with marks := [] })

/-- The chain is over: the channel owns no stream and nothing of its program goes on. -/
def Chan.rest (x : Chan) : Chan := { x with move := none, moveRead := 0, funnel := [], wait := none, gate := none, deadline := none, streams := [] }

/-- A SIGNAL or END whose record is written, or counted, retires (R496): its event with IRQ; END leads to IDLE with COMPLETE. -/
def State.retireRec (s : State) (n : Nat) (r : CqRec) : State :=
  let irq := decide (4 ≤ r.flags)
  let s1 := if r.kind = 1 then
      let t := s.updChan n fun y => y.retire (y.pc + 32)
      if irq then t.raise (dmaSrc n) Ev.dmaSignal [.u 1 (r.flags % 4)] else t
    else
      let t := s.updChan n fun y =>
        { (y.retire y.pc).rest with state := .idle, outcome := 1, cause := 0, posAddr := y.pc, posBytes := 0 }
      if irq then t.raise (dmaSrc n) Ev.dmaEnd else t
  s1.followMarks n

/-- Whether the chain of a channel is going on: RUNNING, WAITING or STALLED, with no outcome fixed yet. -/
def Chan.live (x : Chan) : Bool := decide (x.state = .running ∨ x.state = .waiting ∨ x.state = .stalled) && x.after.isNone

/-- What POS_BYTES holds at an outcome: the bytes of a MOVE whose writes have been issued. -/
def Chan.written (x : Chan) : Nat := if x.move.isSome then x.moveDone else 0

/-- The chain ends as ABORTED (R499) or HALTED (R501): the outcome is fixed at once, and its record follows every record before it, the
channel reading STALLED while it waits. -/
def State.endChan (s : State) (n outcome cause : Nat) : State :=
  let s0 := (s.updChan n fun y => { y with held := y.held.filter fun r => !r.retires }).followMarks n
  let s1 := s0.cqMarkers n
  let x := s1.host.chans.get n
  let rec_ : CqRec := { kind := if outcome = 2 then 3 else 4, cause := cause, value32 := x.written, value64 := x.pc.toNat }
  let last : DmaState := if outcome = 2 then .idle else .halted
  let s2 := s1.updChan n fun y =>
    { y.rest with outcome := outcome, cause := cause, posAddr := y.pc, posBytes := y.written }
  let r := s2.cqPut n rec_
  let s3 := if r.2 then r.1.updChan n fun y => { y with state := last }
    else (r.1.updChan n fun y => { y with state := .stalled, stallSeen := true, after := some last }).hwSet (dmaOffset n + 8) 9
  if outcome = 2 then s3.raise (dmaSrc n) Ev.dmaAborted else s3.raise (dmaSrc n) Ev.dmaHalt [.u 1 cause, .u 8 x.pc.toNat]

/-- The channel halts with a cause of R501. -/
def State.haltChan (s : State) (n cause : Nat) : State := s.endChan n 3 cause

/-- BAD_INSTR. -/
def badInstr : Nat := 1

/-- START (R498): A register write starts a DMA chain at CHAIN_ADDR. -/
def execChainStart (chan : Nat) (s : State) : Out :=
  if 32 ≤ chan then .fault .noSuchObject
  else
    let x := s.host.chans.get chan
    if x.state = .idle ∨ x.state = .halted then
      .next (s.updChan chan fun y => { y.rest with
        state := .running, outcome := 0, cause := 0, pc := y.chainAddr, loops := [none, none, none, none], retired := 0, budgetUsed := 0
        startAt := s.now, moveDone := 0 })
    else .next (s.badAccess (dmaBase chan))

/-- ABORT (R499): A register write aborts a DMA channel, with exactly one outcome reported. -/
def execChainAbort (chan : Nat) (s : State) : Out :=
  if 32 ≤ chan then .fault .noSuchObject
  else if (s.host.chans.get chan).live then .next (s.endChan chan 2 0) else .next s

/-- DMA_WATCHDOG_EXPIRY (R500): A chain reaches its WATCHDOG time and halts. -/
def execDmaWatchdogExpiry (chan : Nat) (s : State) : Out :=
  if 32 ≤ chan then .fault .noSuchObject
  else
    let x := s.host.chans.get chan
    if x.live && decide (x.watchdog ≠ 0) then .next ((s.advance (x.startAt + x.watchdog * msC)).haltChan chan 5) else .next s

/-- Whether the chain has retired as many instructions as BUDGET allows (R500). -/
def Chan.spent (x : Chan) : Bool := decide (x.budget ≠ 0 ∧ x.budget ≤ x.budgetUsed)

/-- BUDGET_EXHAUSTED (R500): A chain reaches its instruction BUDGET and halts. -/
def execBudgetExhausted (chan : Nat) (s : State) : Out :=
  if 32 ≤ chan then .fault .noSuchObject
  else
    let x := s.host.chans.get chan
    if x.live && x.spent && decide (x.state ≠ .stalled) then .next (s.haltChan chan 4) else .next s

/-- DMA_PCIE_ERROR (R501): An instruction fetch or read burst meets a completion timeout or error and the channel halts. -/
def execDmaPcieError (chan : Nat) (timeout : Bool) (s : State) : Out :=
  if 32 ≤ chan then .fault .noSuchObject
  else
    let x := s.host.chans.get chan
    if x.live && decide (x.state = .running) && s.host.bme then .next (s.haltChan chan (if timeout then 2 else 3)) else .next s

/-- CQ_RD_COUNT_WRITE (R504): The host writes CQ_RD_COUNT, which is ignored with DMA_INDEX if out of order. -/
def execCqRdCountWrite (chan : Nat) (value : BitVec 32) (s : State) : Out :=
  if 32 ≤ chan then .fault .noSuchObject
  else
    let x := s.host.chans.get chan
    if x.cqFill < dist32 x.cqRd value then .next (s.raise (dmaSrc chan) Ev.dmaIndex)
    else .next (s.updChan chan fun y => { y with cqRd := value })

/-- The records that wait are written while the queue has room, in order; a SIGNAL or END retires as its record is written, and the
record of an outcome brings the channel to its last state (R498, R504). -/
def State.cqDrain (s : State) (n : Nat) : Nat → State
  | 0 => s
  | k + 1 =>
    let x := s.host.chans.get n
    match x.held with
    | [] => if x.state = .stalled ∧ x.after.isNone then s.updChan n fun y => { y with state := .running } else s
    | r :: rest =>
      if x.cqFull then s
      else
        let s1 := (s.updChan n fun y => { y with held := rest }).cqStore n r
        let s2 := if r.retires then s1.retireRec n r
          else if r.kind = 3 ∨ r.kind = 4 then
            s1.updChan n fun y => { y with state := y.after.getD y.state, after := none }
          else s1
        s2.cqDrain n k

/-- CQ_ROOM (R498): A STALLED channel finds room in its completion queue and writes its waiting record. -/
def execCqRoom (chan : Nat) (s : State) : Out :=
  if 32 ≤ chan then .fault .noSuchObject
  else
    let x := s.host.chans.get chan
    if !s.host.bme || x.cqFull || x.held.isEmpty then .next s else .next (s.cqDrain chan (x.held.length + x.marks.length + 2))

/-! ## Instructions as fetched (R491, R492) -/

/-- The fields of a 32-byte instruction. -/
def chainInstr (b : List Byte) : ChainInstr :=
  { op := fb b 0, b1 := fb b 1, b2 := fb b 2, b3 := fb b 3, w4 := fbn b 4 4, q8 := fbn b 8 8, q16 := fbn b 16 8, q24 := fbn b 24 8 }

/-- The granule of a stream. -/
def granule (k : Nat) : Nat := if k < 8 ∨ (9 ≤ k ∧ k ≤ 12) then 16 else 32

/-- Whether a stream is a sink. -/
def isSink (k : Nat) : Bool := decide (17 ≤ k ∧ k ≤ 20)

/-- Whether a LOOP is within the ranges of R491. -/
def ChainInstr.loopOk (i : ChainInstr) : Bool := decide (i.b1 < 4 ∧ i.b2 = 0 ∧ i.b3 = 0 ∧ i.q8 % 32 = 0 ∧ i.q16 = 0 ∧ i.q24 = 0)

/-- Whether a WAIT is. -/
def ChainInstr.waitOk (i : ChainInstr) : Bool :=
  decide (i.b1 < 2 ∧ i.q16 % 2 ^ 32 = 0 ∧ i.q24 = 0) &&
    match i.b2 with
    | 0 => decide (i.b3 ≤ 20 ∧ i.w4 % granule i.b3 = 0 ∧ i.q8 = 0)
    | 1 => decide (i.b3 = 0 ∧ i.w4 = 0 ∧ i.q8 = 0)
    | 2 => decide (i.b3 = 0 ∧ i.w4 = 0)
    | _ => false

/-- Whether a SIGNAL is. -/
def ChainInstr.signalOk (i : ChainInstr) : Bool :=
  decide (i.b1 < 8 ∧ i.b1 % 4 ≠ 3 ∧ i.b2 = 0 ∧ i.b3 = 0 ∧ i.q8 = 0 ∧ i.q16 = 0 ∧ i.q24 = 0)

/-- Whether an END is. -/
def ChainInstr.endOk (i : ChainInstr) : Bool :=
  decide ((i.b1 = 0 ∨ i.b1 = 4) ∧ i.b2 = 0 ∧ i.b3 = 0 ∧ i.q8 = 0 ∧ i.q16 = 0 ∧ i.q24 = 0)

/-- Whether a channel takes its next instruction now: RUNNING with no MOVE in progress, Bus Master Enable 1, its budget not spent. -/
def State.fetches (s : State) (n : Nat) : Bool :=
  let x := s.host.chans.get n
  decide (x.state = .running) && x.move.isNone && s.host.bme && !x.spent

/-- Instruction bytes `b` fetched by channel `n` in the step for `op`: nothing while the channel does not fetch; bytes that spell
another instruction of the table belong to another step; BAD_INSTR for an OP that is none, or where `ok` does not hold (R491). -/
def State.chainStep (s : State) (n op : Nat) (b : List Byte) (ok : ChainInstr → Bool) (run : ChainInstr → State) : Out :=
  let i := chainInstr b
  if 32 ≤ n then .fault .noSuchObject
  else if b.length ≠ 32 then .fault .impossibleInput
  else if !s.fetches n then .next s
  else if i.op ≠ op ∧ 1 ≤ i.op ∧ i.op ≤ 5 then .fault .impossibleInput
  else if i.op ≠ op ∨ !ok i then .next (s.haltChan n badInstr)
  else .next (run i)

/-! ## LOOP (R494) -/

/-- LOOP (R494): A DMA instruction that updates a loop counter and jumps or falls through. -/
def execChainLoop (chan : Nat) (instr : List Byte) (s : State) : Out :=
  s.chainStep chan 2 instr ChainInstr.loopOk fun i =>
    let x := s.host.chans.get chan
    let target := BitVec.ofNat 64 i.q8
    if i.w4 = 0 then s.updChan chan fun y => y.retire target
    else
      match (x.loops.getD i.b1 none).getD i.w4 with
      | 0 => s.updChan chan fun y => { y.retire (y.pc + 32) with loops := y.loops.set i.b1 none }
      | k + 1 => s.updChan chan fun y => { y.retire target with loops := y.loops.set i.b1 (some k) }

/-! ## WAIT (R492, R495) -/

/-- The fill of a source, or the room of a sink, in bytes (R492). -/
def State.streamFill (s : State) (k : Nat) : Nat :=
  if k < 8 then 16 * (let x := s.tdc.rings.get k; dist32 x.rd x.wr)
  else if k = 8 then 32 * s.core.capture.fill
  else if k ≤ 12 then 16 * (s.time.tsqs.get (k - 9)).fill
  else if k ≤ 16 then (s.host.crx.get (k - 13)).bytes.length
  else 262144 - (s.host.ctx.get (k - 17)).bytes.length

/-- Whether the condition of a gate holds. -/
def State.gateHolds (s : State) (n : Nat) (g : Gate) : Bool :=
  match g.kind with
  | 0 => decide (g.level ≤ s.streamFill g.stream)
  | 1 => (s.host.chans.get n).softReq
  | _ => decide (g.tick ≤ s.tick)

/-- The condition of a WAIT. -/
def ChainInstr.gate (i : ChainInstr) : Gate :=
  { kind := i.b2, stream := i.b3, level := i.w4, tick := i.q8, timeout := i.q16 / 2 ^ 32 }

/-- Whether another channel owns stream `k`. -/
def State.streamBusy (s : State) (n k : Nat) : Bool := s.host.chans.any fun c => decide (c.1 ≠ n) && c.2.streams.contains k

/-- Whether the power domain of stream `k` is off: the capture ring lies in PD3 (R18). -/
def State.streamOff (s : State) (k : Nat) : Bool := decide (k = 8) && !s.pdOn 3

/-- Channel `n` names stream `k`: it owns it from now on, or halts with STREAM_BUSY or DOMAIN. -/
def State.claimStream (s : State) (n k : Nat) : Sum Nat State :=
  if s.streamBusy n k then .inl 7
  else if s.streamOff k then .inl 9
  else .inr (s.updChan n fun y => { y with streams := if y.streams.contains k then y.streams else y.streams ++ [k] })

/-- The end of a timeout that starts now; 0 is none. -/
def State.waitEnd (s : State) (us : Nat) : Option Nat := if us = 0 then none else some (s.now + us * usC)

/-- A WAIT whose condition holds retires, and sets its gate on the next MOVE. -/
def State.retireWait (s : State) (n : Nat) (i : ChainInstr) : State :=
  s.updChan n fun y => { y.retire (y.pc + 32) with
    state := .running, wait := none, deadline := none, gate := if i.b1 = 1 then some i.gate else y.gate }

/-- WAIT (R495): A DMA instruction that holds the channel until a stream, soft or TICK condition holds. -/
def execChainWait (chan : Nat) (instr : List Byte) (s : State) : Out :=
  s.chainStep chan 3 instr ChainInstr.waitOk fun i =>
    match (if i.b2 = 0 then s.claimStream chan i.b3 else .inr s) with
    | .inl c => s.haltChan chan c
    | .inr t =>
      if t.gateHolds chan i.gate then t.retireWait chan i
      else t.updChan chan fun y => { y with state := .waiting, wait := some i, deadline := t.waitEnd i.gate.timeout }

/-- WAIT_CONDITION_MET (R495): The condition of a WAITING channel holds and it runs again. -/
def execWaitConditionMet (chan : Nat) (s : State) : Out :=
  if 32 ≤ chan then .fault .noSuchObject
  else
    let x := s.host.chans.get chan
    if x.state ≠ .waiting then .next s
    else match x.wait, x.gate with
      | some i, _ => .next (if s.gateHolds chan i.gate then s.retireWait chan i else s)
      | none, some g =>
        .next (if s.gateHolds chan g then s.updChan chan fun y => { y with state := .running, deadline := none } else s)
      | none, none => .next s

/-- WAIT_TIMEOUT (R495): A WAIT's timeout expires and the channel halts. -/
def execWaitTimeout (chan : Nat) (s : State) : Out :=
  if 32 ≤ chan then .fault .noSuchObject
  else
    let x := s.host.chans.get chan
    match x.deadline with
    | some t => if x.state = .waiting ∧ s.host.bme then .next ((s.advance t).haltChan chan 6) else .next s
    | none => .next s

/-! ## SIGNAL and END (R496) -/

/-- The record of a SIGNAL or END is written and the instruction retires, or waits for room in a full queue (R498). -/
def State.signalRec (s : State) (n : Nat) (r : CqRec) : State :=
  let s1 := s.cqMarkers n
  let p := s1.cqPut n r
  if p.2 then p.1.retireRec n r
  else if (s1.host.chans.get n).state = .stalled then p.1 else p.1.stallChan n

/-- SIGNAL (R496): A DMA instruction that writes a completion record and optionally raises an event. -/
def execChainSignal (chan : Nat) (instr : List Byte) (s : State) : Out :=
  s.chainStep chan 4 instr ChainInstr.signalOk fun i =>
    s.signalRec chan { kind := 1, flags := i.b1, value32 := i.w4, value64 := (s.host.chans.get chan).pc.toNat }

/-- END (R496): A DMA instruction that writes its record and returns the channel to IDLE with outcome COMPLETE. -/
def execChainEnd (chan : Nat) (instr : List Byte) (s : State) : Out :=
  s.chainStep chan 5 instr ChainInstr.endOk fun i =>
    s.signalRec chan { kind := 2, flags := i.b1, value32 := i.w4, value64 := (s.host.chans.get chan).pc.toNat }

end Sys2Proof.Machine
end

