-- ==== Sys2Proof/Machine/PcieReset.lean ====
section
/-!
DEFINITION. Resets of the PCIe side, Bus Master Enable and the two functions (R208, R454, R480, R481, R482, R502, R517).
-/
namespace Sys2Proof.Machine

/-! ## The functions (R480) -/

/-- What identifies a function of the endpoint, and its resources (R480). -/
structure PciFunction where
  vendor : Nat := 0x1F3A
  device : Nat := 0x6256
  classCode : Nat
  barSizes : List (Nat × Nat)
  wideBars : Bool
  busMaster : Bool
  vectors : Nat
  deriving DecidableEq, Repr

/-- PF0: BAR0 of 64 MiB and BAR2 of 256 MiB, 64-bit and non-prefetchable; a bus master with 64 MSI-X vectors. -/
def pf0Function : PciFunction :=
  { classCode := 0x028000, barSizes := [(0, Win.bar0.size), (2, Win.bar2.size)], wideBars := true, busMaster := true, vectors := 64 }

/-- PF1: BAR0 of 4 KiB, 32-bit and non-prefetchable; Bus Master Enable hard-wired to 0, no interrupts. -/
def pf1Function : PciFunction :=
  { classCode := 0x118000, barSizes := [(0, Win.pf1.size)], wideBars := false, busMaster := false, vectors := 0 }

/-- A mailbox at a PF0 function-level reset (R454): ENABLE and the bases clear, DRAINING, and what has been fetched completes with no
response. -/
def Mailbox.flr (x : Mailbox) : Mailbox :=
  { x with enable := false, cmdBase := 0, respBase := 0, extBase := 0, state := .draining, silentTo := some x.fetch, faultCleared := false }

/-- A channel at a PF0 function-level reset (R502): its chain ends as ABORTED with no record, and its settings clear. -/
def Chan.flr (x : Chan) : Chan :=
  let y : Chan := if x.live then { x with state := .idle, outcome := 2, cause := 0, posAddr := x.pc, posBytes := x.written }
    else match x.after with
      | some d => { x with state := d }
      | none => x
  { y.rest with
    after := none, held := [], marks := [], chainAddr := 0, priority := 0, burst := 2, budget := 16777216, watchdog := 10000
    cqBase := 0, cqSize := 0, cqWr := 0, cqRd := 0, cqThresh := 0, cqDropped := 0, softReq := false }

/-- A vector at a PF0 function-level reset (R517): its control, MSI-X table entry and PBA bit at reset, held raises discarded. -/
def Vec.flr (x : Vec) : Vec := { sent := x.sent }

/-- A queue keeps its complete records. -/
def CtxQ.whole (x : CtxQ) : CtxQ :=
  let rec go : Nat → List Byte → List Byte
    | 0, _ => []
    | n + 1, b =>
      if b.length < 32 ∨ b.length < ctxRecordLen b then []
      else b.take (ctxRecordLen b) ++ go n (b.drop (ctxRecordLen b))
  { x with bytes := go 8192 x.bytes }

/-- The event controller at a PF0 function-level reset: PENDING, LAST_CAUSE, COUNT and the log keep their contents (R515, R517). -/
def Events.flr (e : Events) : Events :=
  { e with
    mask := BitVec.allOnes 1024, routes := [], vecs := e.vecs.mapAll fun _ x => x.flr, intNEnable := false, msixEnable := false
    fnMask := false }

/-- A PF0 function-level reset (R481). -/
def State.flr0 (s : State) : State :=
  let h := s.host
  let live := (List.range 32).filter fun n => (h.chans.get n).live
  let s0 := (List.range 4).foldl (fun (t : State) q => t.tsqDisable q) s
  let s1 := { s0 with
    mbs := (List.range 8).foldl (fun t m => t.upd m Mailbox.flr) s.mbs
    host := { h with
      bme := false, bmeOffAt := if h.bme then s.now else h.bmeOffAt, mps := 128, mrrs := 512, pmD3 := false
      chans := h.chans.mapAll fun _ x => x.flr, ctx := h.ctx.mapAll fun _ x => x.whole, flushed := h.flushed + 1 }
    events := s0.events.flr }
  live.foldl (fun (t : State) n => t.raise (dmaSrc n) Ev.dmaAborted) s1

/-- PF0_FUNCTION_LEVEL_RESET (R481): A PF0 FLR resets PF0 configuration, drains mailboxes, ends DMA channels, clears TSQ enables and event routing. -/
def execPf0FunctionLevelReset (s : State) : Out :=
  .next s.flr0

/-- PF1_FUNCTION_LEVEL_RESET (R481): A PF1 FLR returns PF1 configuration space to reset values. -/
def execPf1FunctionLevelReset (s : State) : Out :=
  .next { s with host := { s.host with flushed := s.host.flushed + 1 } }

/-- HOT_RESET (R481): A hot reset, link down or PCIE_PERST_N acts as both functions' resets and retrains the link. -/
def execHotReset (s : State) : Out :=
  let s1 := s.flr0
  .next { s1 with host := { s1.host with flushed := s1.host.flushed + 1 } }

/-- BUS_MASTER_ENABLE (R482): A change of PF0 Bus Master Enable pauses or resumes DMA channels and mailbox fetches. -/
def execBusMasterEnable (on : Bool) (s : State) : Out :=
  let h := s.host
  if on = h.bme then .next s
  else if on then
    let d := s.now - h.bmeOffAt
    .next { s with host := { h with
      bme := true, chans := h.chans.mapAll fun _ x => { x with deadline := x.deadline.map fun t => t + d } } }
  else .next { s with host := { h with bme := false, bmeOffAt := s.now } }

end Sys2Proof.Machine
end

