-- ==== Sys2Proof/Machine/Power.lean ====
section
/-!
DEFINITION. Power domains, supplies, resets, boot, temperature and OSPI (R18 to R22, R425, R528 to R544). Reset kinds are 0 COLD, 1 UNIT,
2 WARM, 3 ALIGN; causes are 0 RESET_N, 1 BROWNOUT, 2 SYS_RESET, 3 OSPI, 4 RECOVERY, 5 ALIGN; supplies are numbered in the order of R528.
-/
namespace Sys2Proof.Machine

/-! ## Domains (R18 to R22) -/

/-- The event source of domain `d` (R544). -/
def domSrc (d : Nat) : Nat := 768 + d

/-- The domains that domain `d` requires (R18). -/
def domNeeds (d : Nat) : List Nat :=
  match d with
  | 0 => []
  | 1 => [0]
  | 2 => [1]
  | 3 => [2, 4]
  | 4 => [2]
  | 5 => [3]
  | _ => [1]

/-- The supplies that domain `d` uses (R18). -/
def domSupplies (d : Nat) : List Nat :=
  match d with
  | 0 => [0]
  | 1 => [2, 3, 5]
  | 2 => [4]
  | 3 => [4]
  | 4 => [4]
  | 5 => [7, 8, 6, 4]
  | _ => [3, 5, 4]

/-- Whether every supply of domain `d` is within its limits (R529). -/
def State.suppliesOk (s : State) (d : Nat) : Bool := (domSupplies d).all fun k => !s.power.supplyFault.get k

/-- PD_ON with the bit of domain `d` set to `on`. -/
def State.setPd (s : State) (d : Nat) (on : Bool) : State :=
  let b : BitVec 10 := BitVec.ofNat 10 (2 ^ d)
  { s with glob := { s.glob with pdOn := if on then s.glob.pdOn ||| b else s.glob.pdOn &&& ~~~b } }

/-- What happens to a domain's contents when it goes off at the host's request (R21, R343): a quadrant's lanes go off and what is queued
for them is discarded; PD3 and PD5 hold nothing in flight. Settings stay (a DESIGN CHOICE: the spec does not say that a command
clears them). -/
def State.domainOff (s : State) (d : Nat) : State :=
  let s1 := s.setPd d false
  let s2 : State :=
    if 6 ≤ d then ptpFollow s (disqualify s (s1.quadrantOff (d - 6)))
    else if d = 5 then { s1 with core := { s1.core with skein := .off } }
    else if d = 3 then
      let c := s1.core
      { s1 with
        core := { c with frames := [], copies := [], voqs := [], egress := [] }
        parse := { s1.parse with slow := [], reserve := 0 } }
    else s1
  s2.raise (domSrc d) Ev.pdOff

/-- A domain comes on at the host's request: the policers of the slow path start full, no cell of the buffer is retired, the counts of the
skein are of its present power-on, and the lanes of a quadrant are DOWN (R45, R283, R343, R348). -/
def State.domainOn (s : State) (d : Nat) : State :=
  let s1 := s.setPd d true
  let s2 : State :=
    if 6 ≤ d then s1.quadrantOn (d - 6)
    else if d = 5 then
      let c := s1.core
      { s1 with core := { c with skein := .off, skRetired := 0, skSpilled := 0, skReturned := 0, skCorrected := 0, skUncorr := 0,
                                 skBase := [0, 0, 0, 0], skBaseAt := s.now } }
    else if d = 4 then { s1 with core := { s1.core with retired := 0, cellErr := [] } }
    else if d = 3 then { s1 with parse := { s1.parse with policers := s1.parse.policers.mapAll fun _ x => { x with level := none } } }
    else s1
  s2.raise (domSrc d) Ev.pdOn

/-- Whether work in flight lets domain `d` go off (R21). -/
def State.mayPowerOff (s : State) (d : Nat) : Bool :=
  if d = 3 then s.ports.all fun x => !x.2.configured || decide (256 ≤ x.1) ||
    decide (s.portState x.1 = .down ∨ s.portState x.1 = .off ∨ s.portState x.1 = .swatch)
  else if d = 5 then !(s.core.classes.any fun x => x.2.spill) && decide (s.skeinCells = 0)
  else true

/-- What the own checks and effect of SYS_POWER_DOMAIN come to (R19). -/
def bodySysPowerDomain (on : Bool) (domain : Nat) (s : State) : Rep :=
  Rep.ranges [decide (2 ≤ domain ∧ domain ≤ 9)] <|
    if s.pdOn domain = on then .ok s []
    else if on then
      if !(domNeeds domain).all s.pdOn then Rep.badState
      else if domain = 5 ∧ !s.fuses.orderCode.skein then .fail stNotPermitted []
      else if s.suppliesOk domain then .ok (s.domainOn domain) []
      else Rep.badState
    else if (List.range 10).any fun d => (domNeeds d).contains domain && s.pdOn d then Rep.badState
    else if domain = 2 then .fail stNotPermitted []
    else if !s.mayPowerOff domain then Rep.badState
    else .ok (s.domainOff domain) []

/-! ## What a reset clears (R530, R475) -/

/-- Work in flight when PD2 goes off: the commands that mailboxes have fetched complete with ST_ABORTED_RECOVERY while the PCIe link allows,
copies in the skein are discarded, and guaranteed copies with reason quadrant power-down (R21, R475, R530). -/
def State.abortInFlight (s : State) : State :=
  if !s.host.bme then s
  else (List.range 8).foldl (fun (t : State) m =>
    (t.updMb m fun x => { x with
      inFlight := x.inFlight.map fun c =>
        if c.committed || c.aborted || c.early.isSome then c else { c with early := some (stAbortedRecovery, 0) } }).sweep m) s

/-- The work in flight in PD2 to PD9 ends; the lanes leave UP, which disqualifies their reference slots at once (R54). -/
def State.endWork (s : State) : State :=
  let s1 := s.abortInFlight
  let s2 := (s1.copiesWhere fun x => decide (0 < x.inSkein)).foldl (fun (t : State) k => t.discardCopy k 2) s1
  State.disqualify s ((List.range 4).foldl (fun (t : State) q => t.quadrantOff q) s2)

/-- The state once PD1 to PD9 are off: what PD0 holds stays, with the debug level, the sessions, ROLE_EPOCH and the BAR2 counters
(R530, R433). -/
def State.clearUnit (s : State) : State :=
  let g := s.glob
  let f := s.fw
  { State.reset with
    now := s.now, free := s.free, pending := s.pending, cmd := s.cmd, hostMem := s.hostMem, fuses := s.fuses
    glob := { g with scratch := 0, pdOn := 1, rootRunning := false, keeperOnCtrl := false, keeperWaiting := [] }
    fw := { base_ := f.base_, baseCopy := f.baseCopy, copies := f.copies, sessionEnd := f.sessionEnd, sessionTime := f.sessionTime,
            challenge := f.challenge, respPart0 := f.respPart0, authFails := f.authFails, authBusy := f.authBusy, debug := f.debug,
            keyCache := f.keyCache, tap := f.tap }
    pair := { epoch := s.pair.epoch }
    contracts := { maxSeen := s.contracts.maxSeen }
    stats := { s.stats with busy := false, armed := false }
    host := { flushed := s.host.flushed + 1 }
    power := s.power }

/-- The state once PD2 to PD9 are off while PD1 stays on: the timescale, TICK, the DPLL, the gauge, the TDC rings, the TSQs and the
segment history stay; a setting that waits no longer answers a command; the PCIe link went down, which ends TSQ ENABLE (R530, R208,
R481). -/
def State.clearWarm (s : State) : State :=
  let t := s.clearUnit
  let tm := s.time
  let st := s.stitch
  { t with
    glob := { t.glob with pdOn := 3, rootRunning := s.glob.rootRunning, keeperOnCtrl := s.glob.keeperOnCtrl }
    lanes := t.pairLanesOn.lanes
    tdc := s.tdc, gauge := s.gauge, ref := s.ref
    time := { tm with
      changes := tm.changes.map fun c => { c with src := .direct }, getWait := []
      tsqs := tm.tsqs.mapAll fun _ x => { x with enable := false } }
    stitch := { st with sendWait := [], queues := st.queues.mapAll fun _ q => q.map fun x => { x with wait := none } } }

/-- A cold reset: everything is cleared but boot flash and the fuses, which are read again (R530). -/
def State.coldReset (s : State) (cause : Nat) : State :=
  { State.reset with
    now := s.now, free := s.free, pending := s.pending, cmd := s.cmd, hostMem := s.hostMem, fuses := s.fuses
    fw := { copies := s.fw.copies }
    power := { copy1 := s.power.copy1, supplyFault := s.power.supplyFault, supplyHold := s.power.supplyHold, resetCause := cause,
               bootStart := s.now } }

/-! ## Powering on (R533) -/

/-- PD1 is powered on, if its supplies are within their limits (R529, R533). -/
def State.pd1Start (s : State) : State :=
  if s.suppliesOk 1 then
    let s1 := (s.setPd 1 true).pairLanesOn
    { s1 with power := { s1.power with pd1At := s.now, rootRetry := none } }
  else s

/-- PD2 is powered on, if VDD is within its limits; KCYCLE starts (R435, R533). -/
def State.pd2Start (s : State) : State :=
  if s.suppliesOk 2 then
    let s1 := s.setPd 2 true
    { s1 with fw := { s1.fw with kcycle0 := s.now } }
  else s

/-- PD1 power-on completes: TICK starts from 0, the gauge calibrates, the Keeper moves to CTRL, the pair link of a unit that is not ALONE is
cast on, and PD2 follows (R14, R132, R179, R378, R533). -/
def State.pd1Complete (s : State) : State :=
  let s1 : State := { s with
    time := { s.time with tickOn := true, tick0 := s.now }
    glob := { s.glob with keeperOnCtrl := true }
    power := { s.power with stage := .pd2, rootFault := false } }
  let s2 := s1.gaugePowerOn
  let s3 := if s2.pair.role = .alone then s2 else s2.castLink 0
  s3.pd2Start

/-- A reset of kind `k` and cause `c` starts (R530, R531). A unit that has not chosen a base image yet stays in its boot stage. -/
def State.startReset (s : State) (k c : Nat) : State :=
  if k = 0 then s.coldReset c
  else
    let e := s.endWork
    let early := decide (s.power.stage = .por ∨ s.power.stage = .xo ∨ s.power.stage = .flash ∨ s.power.stage = .recovery)
    let note (t : State) (st : Stage) : State := { t with power := { t.power with
      stage := if early then s.power.stage else st, resetKind := k, resetCause := c, resetPending := none
      resetting := if early then none else some k, bootStart := s.now, rootRetry := none, rootFault := false } }
    if k = 2 ∧ s.time.tickOn then
      (note e.clearWarm .pd2).pd2Start
    else
      let u := e.clearUnit
      let x := s.pair
      let kept : Pair := {
        epoch := x.epoch, enable := x.enable, cfg := x.cfg, role := x.role, partnerEpoch := x.partnerEpoch
        partnerRole := x.partnerRole, alignDelay := x.alignDelay, aligning := x.aligning, alignTries := x.alignTries
        alive := x.alive, aliveIn := x.aliveIn, aliveEdge := x.aliveEdge, aliveLong := x.aliveLong, aliveRun := x.aliveRun
        aliveRange := x.aliveRange }
      let v : State := if k = 3 then { u with pair := kept } else u
      let w := note v .pd1
      if early then w else w.pd1Start

/-- How many domains a reset cycles (R530). -/
def resetSize (k : Nat) : Nat := match k with | 0 => 10 | 2 => 8 | _ => 9

/-- The resets accepted or in progress (R531). -/
def State.resetsNow (s : State) : List Nat :=
  (match s.power.resetPending with | some p => [p.1] | none => []) ++ (match s.power.resetting with | some k => [k] | none => [])

/-- A request for a reset is accepted (R531): it starts `delay` cycles on, or at once where it takes over from one in progress; `none`
where it is refused. -/
def State.requestReset (s : State) (k c delay : Nat) : Option State :=
  let l := s.resetsNow
  if l.any fun o => decide (resetSize k ≤ resetSize o) then none
  else some { s with power := { s.power with
    resetPending := some (k, c), resetAt := if l.isEmpty then s.now + delay else s.now } }

/-- What the own checks and effect of SYS_RESET come to (R531). -/
def bodySysReset (kind : Nat) (s : State) : Rep :=
  Rep.ranges [decide (kind < 3)] <|
    match s.requestReset (2 - kind) 2 msC with
    | none => .fail stBusy []
    | some t => .ok t []

/-- SYS_POWER_DOMAIN (R19): Switches power domain PD2 to PD9 on or off under the dependency and work-in-flight rules. -/
def execSysPowerDomain (src : CmdSrc) (on : Bool) (domain : Nat) (s : State) : Out :=
  .next (s.runCmd (.sysPowerDomain src on domain) src 0x0101 (bodySysPowerDomain on domain))

/-- SYS_RESET (R531): Accepts a WARM, UNIT or COLD reset request, which starts 1 ms after its response is written. -/
def execSysReset (src : CmdSrc) (kind : Nat) (s : State) : Out :=
  .next (s.runCmd (.sysReset src kind) src 0x0110 (bodySysReset kind))


/-- RESET_START (R530): An accepted reset starts and cycles its power domains, clearing the state that its kind clears. -/
def execResetStart (s : State) : Out :=
  match s.power.resetPending with
  | none => .next s
  | some p => if s.glob.keeperRestarting then .next s else .next ((s.advance s.power.resetAt).startReset p.1 p.2)

/-- COLD_RESET (R540): RESET_N held low for 1 µs or more causes a COLD reset. -/
def execColdReset (low : Nat) (s : State) : Out :=
  let (k, s1) := s.takeFree
  if low < 125 then .next s
  else if 1250 ≤ low then .next (s.coldReset 0)
  else if Config.freeNat k % 2 = 0 then .next s1
  else .next (s1.coldReset 0)

/-! ## Supplies (R529); the monitors of group 3 are ignored on KZ6256-LC (R550) -/

/-- The boot goes on where it waited for a supply. -/
def State.resumePower (s : State) : State :=
  if s.power.stage = .pd1 ∧ !s.pdOn 1 ∧ s.power.rootRetry.isNone ∧ s.power.resetting.isSome then s.pd1Start
  else if s.power.stage = .pd2 ∧ !s.pdOn 2 ∧ s.power.resetting.isSome then s.pd2Start
  else s

/-- SUPPLY_FAULT (R529): A supply stays outside ±6 % for 10 µs and its domains are powered off or the device is reset. -/
def execSupplyFault (supply : Nat) (s : State) : Out :=
  if 9 ≤ supply then .fault .noSuchObject
  else if s.power.supplyFault.get supply ∨ (6 ≤ supply ∧ !s.fuses.orderCode.skein) then .next s
  else
    let s1 : State := { s with power := { s.power with supplyFault := s.power.supplyFault.set supply true } }
    if supply < 2 then
      let held : State := { s1 with power := { s1.power with supplyHold := true } }
      if s.power.stage = .thermtrip ∧ supply = 1 then .next held else .next (held.coldReset 1)
    else if supply = 4 then
      if s.pdOn 2 then .next (s1.endWork.clearWarm) else .next s1
    else if supply < 6 then
      if s.pdOn 1 then .next (s1.endWork.clearUnit) else .next s1
    else
      let s2 : State := if s.pdOn 5 then
          let t := (s1.copiesWhere fun x => decide (0 < x.inSkein)).foldl (fun (t : State) k => t.discardCopy k 2) s1
          ({ t with core := { t.core with skein := .off } }.setPd 5 false).raise (domSrc 5) Ev.pdOff
        else s1
      .next (if s.pdOn 2 then s2.raise (domSrc 5) Ev.supplyFault [.u 1 supply] else s2)

/-- SUPPLY_RESTORED (R529): A faulty always-on supply has been within limits for 10 ms and the held cold reset is released. -/
def execSupplyRestored (supply : Nat) (s : State) : Out :=
  if 9 ≤ supply then .fault .noSuchObject
  else
    let f := s.power.supplyFault.del supply
    let s1 : State := { s with power := { s.power with
      supplyFault := f, supplyHold := s.power.supplyHold && (f.get 0 || f.get 1) } }
    .next s1.resumePower

/-! ## Temperature (R536 to R539) -/

/-- The event source of sensor `n` (R544). -/
def tempSrc (n : Nat) : Nat := 736 + n

/-- `a` placed in a rising list. -/
def insertInt (a : Int) : List Int → List Int
  | [] => [a]
  | b :: l => if a ≤ b then a :: b :: l else b :: insertInt a l

/-- The median of a list of readings, rounded where it lies between two. -/
def medianOf (l : List Int) : Option Int :=
  let k := l.length
  let sorted := l.foldl (fun a b => insertInt b a) []
  if k = 0 then none
  else if k % 2 = 1 then some (nth sorted (k / 2))
  else some (roundDiv (nth sorted (k / 2 - 1) + nth sorted (k / 2)) 2)

/-- Whether the mean of sensor `n` lies more than 15 °C from the median of the other valid sensors of its quadrant. -/
def State.deviates (s : State) (n : Nat) : Bool :=
  let others := ((List.range 4).map (4 * (n / 4) + ·)).filter (· ≠ n)
  match meanOf ((s.power.sensors.get n).readings.take 16), medianOf (others.filterMap s.sensorMean) with
  | some a, some b => decide (240 < (a - b).natAbs)
  | _, _ => false

/-- Whether one of the cases that make a sensor faulty holds now. -/
def Sensor.bad (x : Sensor) (now : Nat) : Bool :=
  x.badReading || x.noConv || x.hostMark || (match x.devSince with | some t => decide (t + secC ≤ now) | none => false)

/-- Sensor `n` is judged (R536). -/
def State.judgeSensor (s : State) (n : Nat) : State :=
  let d := s.deviates n
  let s1 := s.updSensor n fun x => { x with devSince := if d then some (x.devSince.getD s.now) else none }
  let x := s1.power.sensors.get n
  if !x.bad s.now then s1.updSensor n fun y => { y with soundSince := some (y.soundSince.getD s.now) }
  else
    let s2 := s1.updSensor n fun y => { y with soundSince := none, faulty := true }
    if x.faulty then s2 else s2.raise (tempSrc n) Ev.sensorFault

/-- Tj_max in 1/16 °C (R537). -/
def State.tjMax (s : State) : Int := match s.fuses.orderCode with | .hx => 1760 | _ => 1680

/-- WARN, by default Tj_max − 10 °C. -/
def State.warnAt (s : State) : Int := s.power.warn.getD (s.tjMax - 160)

/-- THROTTLE_AT, by default Tj_max − 5 °C. -/
def State.throttleAt (s : State) : Int := s.power.throttleAt.getD (s.tjMax - 80)

/-- T_hot and the sensor that gives it. -/
def State.tHot (s : State) : Option (Nat × Int) :=
  (List.range 16).foldl (fun a n =>
    match s.sensorMean n, a with
    | some t, none => some (n, t)
    | some t, some b => if b.2 < t then some (n, t) else a
    | none, _ => a) none

/-- The thermal state that follows `st` at T_hot (R537). -/
def State.thermNext (s : State) (st : Therm) (t : Int) : Therm :=
  let h : Int := s.power.hyst
  match st with
  | .normal => if s.warnAt ≤ t then .warn else .normal
  | .warn => if s.throttleAt ≤ t then .throttle else if t < s.warnAt - h then .normal else .warn
  | .throttle => if s.tjMax < t then .over else if t < s.throttleAt - h then .warn else .throttle
  | .over => if t ≤ s.tjMax - h then .throttle else .over

/-- The time in THROTTLE and in OVER up to now. -/
def State.hotTimes (s : State) : Nat × Nat :=
  let p := s.power
  let d := s.now - p.throttleSince
  (if p.therm = .throttle then p.throttleTime + d else p.throttleTime, if p.therm = .over then p.overTime + d else p.overTime)

/-- The thermal state becomes `st`, with THERM_STATE on the source of sensor `n` carrying the old and new states and T_hot. -/
def State.thermTo (s : State) (st : Therm) (n : Nat) (t : Int) : State :=
  let old := s.power.therm
  let h := s.hotTimes
  ({ s with power := { s.power with therm := st, throttleSince := s.now, throttleTime := h.1, overTime := h.2 } }).raise
    (tempSrc n) Ev.thermState [.u 1 old.code, .u 1 st.code, .i 2 t]

/-- The thermal state follows T_hot, one transition of R537 after another; with every sensor faulty it is THROTTLE (R536). -/
def State.thermSteps (s : State) : Nat → State
  | 0 => s
  | k + 1 =>
    match s.tHot with
    | some h =>
      let st := s.thermNext s.power.therm h.2
      if st = s.power.therm then s else (s.thermTo st h.1 h.2).thermSteps k
    | none =>
      if (List.range 16).all (fun n => (s.power.sensors.get n).faulty) && decide (s.power.therm ≠ .throttle) then s.thermTo .throttle 0 0
      else s

/-- The temperatures of the lanes and of the gauge follow a reading of sensor `n` (R43, R127, R137). -/
def State.readingTaken (s : State) (n : Nat) : State :=
  let regions := (List.range 21).filter fun r =>
    if (s.sensorMean (regionSensor r)).isSome then decide (regionSensor r = n) else (standInSensors r).contains n
  regions.foldl (fun (t : State) r => t.gaugeTemp r) s.tempDrift

/-- The sensors of the quadrant of sensor `n`. -/
def quadrantSensors (n : Nat) : List Nat := (List.range 4).map (4 * (n / 4) + ·)

/-- SENSOR_CONVERSION (R536): A temperature reading updates its sensor's mean, fault state and the thermal state. -/
def execSensorConversion (sensor : Nat) (value : Int) (s : State) : Out :=
  if 16 ≤ sensor then .fault .noSuchObject
  else
    let s1 := s.updSensor sensor fun x => { x with
      readings := (value :: x.readings).take 16, convAt := s.now, noConv := false, badReading := decide (value < -880 ∨ 2400 < value) }
    let s2 := (quadrantSensors sensor).foldl (fun (t : State) n => t.judgeSensor n) s1
    .next ((s2.thermSteps 4).readingTaken sensor)

/-- SENSOR_CONVERSION_TIMEOUT (R536): No conversion completes for 10 ms and the sensor is faulty. -/
def execSensorConversionTimeout (sensor : Nat) (s : State) : Out :=
  if 16 ≤ sensor then .fault .noSuchObject
  else if (s.power.sensors.get sensor).noConv then .next s
  else
    let s1 := s.advance ((s.power.sensors.get sensor).convAt + 10 * msC)
    let s2 := s1.updSensor sensor fun x => { x with noConv := true }
    let s3 := (quadrantSensors sensor).foldl (fun (t : State) n => t.judgeSensor n) s2
    .next (s3.thermSteps 4)

/-- SENSOR_RECOVERED (R536): A faulty sensor has been sound for 10 s and returns. -/
def execSensorRecovered (sensor : Nat) (s : State) : Out :=
  if 16 ≤ sensor then .fault .noSuchObject
  else
    let x := s.power.sensors.get sensor
    match x.soundSince with
    | none => .next s
    | some t =>
      let s1 := if x.faulty then s.advance (t + 10 * secC) else s
      if !x.faulty || x.bad s1.now then .next s1
      else
        let s2 := s1.updSensor sensor fun y => { y with faulty := false }
        .next ((s2.raise (tempSrc sensor) Ev.sensorRecovered).thermSteps 4)

/-- THERMTRIP (R539): A sensor at the THERMTRIP limit for 10 µs drives THERMTRIP_N and powers off PD1 to PD9 in hardware. -/
def execThermtrip (sensor : Nat) (s : State) : Out :=
  if 16 ≤ sensor then .fault .noSuchObject
  else if (s.power.sensors.get sensor).faulty ∨ s.power.stage = .thermtrip then .next s
  else
    let s1 := s.endWork.clearUnit
    .next { s1 with power := { s1.power with
      stage := .thermtrip, thermtripN := false, resetting := none, resetPending := none, rootRetry := none } }

/-- What the own checks and effect of SYS_GET_POWER come to (R542). -/
def bodySysGetPower (s : State) : Rep :=
  let p := s.power
  let mv := (List.range 9).map fun i => Fld.u 2 (Config.freeNat (s.free + i) % 65536)
  let bits := (List.range 9).foldl (fun a i => if p.supplyFault.get i then a + 2 ^ i else a) 0
  .ok { s with free := s.free + 9 } ([.u 1 p.stage.code, .u 2 s.glob.pdOn.toNat, .u 1 p.resetKind, .u 1 p.resetCause, .u 4 p.bootMs]
    ++ mv ++ [.u 2 bits])

/-- The mean of sensor `n` as it is reported; a value that the spec leaves open where the sensor has given no reading. -/
def State.reportMean (s : State) (n k : Nat) : Int :=
  match meanOf ((s.power.sensors.get n).readings.take 16) with
  | some t => t
  | none => signedOf 16 (Config.freeNat (s.free + k))

/-- T_hot as it is reported; a value that the spec leaves open where no sensor is valid. -/
def State.reportHot (s : State) (k : Nat) : Int :=
  match s.tHot with
  | some h => h.2
  | none => signedOf 16 (Config.freeNat (s.free + k))

/-- What the own checks and effect of SYS_GET_THERMAL come to (R542). -/
def bodySysGetThermal (s : State) : Rep :=
  let p := s.power
  let faults := (List.range 16).foldl (fun a i => if (p.sensors.get i).faulty then a + 2 ^ i else a) 0
  let h := s.hotTimes
  .ok { s with free := s.free + 17 } ((List.range 16).map (fun n => Fld.i 2 (s.reportMean n n))
    ++ [.u 2 faults, .i 2 (s.reportHot 16), .u 1 p.therm.code, .u 1 (flag s.throttled 1), .u 4 (h.1 / secC), .u 4 (h.2 / secC)])

/-- What the own checks and effect of SYS_CONFIGURE_THERMAL come to (R537). -/
def bodySysConfigureThermal (warn throttleAt hyst : Int) (fraction : Nat) (s : State) : Rep :=
  let inRange (v : Int) : Bool := decide (800 ≤ v ∧ v ≤ s.tjMax ∧ v % 4 = 0)
  Rep.ranges [inRange warn, inRange throttleAt && decide (warn ≤ throttleAt), decide (16 ≤ hyst ∧ hyst ≤ 160),
      decide (10 ≤ fraction ∧ fraction ≤ 100)] <|
    let s1 : State := { s with power := { s.power with
      warn := some warn, throttleAt := some throttleAt, hyst := hyst.toNat, fraction := fraction } }
    .ok (s1.thermSteps 4) []

/-- What the own checks and effect of SYS_SET_SENSOR come to (R536). -/
def bodySysSetSensor (sensor mark : Nat) (s : State) : Rep :=
  Rep.ranges [decide (sensor < 16), decide (mark < 2)] <|
    let x := s.power.sensors.get sensor
    if mark = 1 then
      .ok (if x.hostMark then (s.updSensor sensor fun y => { y with hostMark := false }).judgeSensor sensor else s) []
    else if x.hostMark then .ok s []
    else if !x.faulty && ((List.range 16).all fun n => decide (n = sensor) || (s.power.sensors.get n).faulty) then Rep.badState
    else .ok (((s.updSensor sensor fun y => { y with hostMark := true }).judgeSensor sensor).thermSteps 4) []

/-- SYS_GET_POWER (R542): Returns the boot stage, the domain states, the last reset kind and cause, the boot time and the supply readings. -/
def execSysGetPower (src : CmdSrc) (s : State) : Out :=
  .next (s.runCmd (.sysGetPower src) src 0x0111 (bodySysGetPower))

/-- SYS_GET_THERMAL (R542): Returns the sensor means, T_hot, the thermal state and the throttle times. -/
def execSysGetThermal (src : CmdSrc) (s : State) : Out :=
  .next (s.runCmd (.sysGetThermal src) src 0x0112 (bodySysGetThermal))

/-- SYS_CONFIGURE_THERMAL (R537): Sets WARN, THROTTLE_AT, the hysteresis and the throttle fraction. -/
def execSysConfigureThermal (src : CmdSrc) (warn throttleAt hyst : Int) (fraction : Nat) (s : State) : Out :=
  .next (s.runCmd (.sysConfigureThermal src warn throttleAt hyst fraction) src 0x0113 (bodySysConfigureThermal warn throttleAt hyst fraction))

/-- SYS_SET_SENSOR (R536): Marks a temperature sensor faulty or clears that mark. -/
def execSysSetSensor (src : CmdSrc) (sensor mark : Nat) (s : State) : Out :=
  .next (s.runCmd (.sysSetSensor src sensor mark) src 0x0114 (bodySysSetSensor sensor mark))


/-! ## Boot (R417, R425, R533) -/

/-- An order code as fused (R27). -/
def OrderCode.ofCode : Nat → OrderCode
  | 2 => .hx | 3 => .lc | _ => .hc

/-- ROM_CHECK (R533): At POR fuses are read and the ROM checksum is verified. -/
def execRomCheck (ok : Bool) (order serial : Nat) (strap : Bool) (hashes : List (Nat × List Byte)) (fullDebug : Bool) (s : State) : Out :=
  let t : Tbl (List Byte) := hashes.foldl (fun t x => t.set x.1 x.2) []
  let f := s.fuses
  if s.power.stage ≠ .por ∨ s.power.supplyHold ∨ s.power.romFault then .next s
  else if order < 1 ∨ 3 < order ∨ 2 ^ 64 ≤ serial ∨ hashes.any (fun x => decide (8 ≤ x.1 ∨ x.2.length ≠ 48)) then .fault .impossibleInput
  else if f.fusesRead ∧ (f.orderCode ≠ OrderCode.ofCode order ∨ f.serial ≠ serial ∨ f.keyHash ≠ t ∨ f.fullDebug ≠ fullDebug) then
    .fault .impossibleInput
  else
    let s1 : State := { s with fuses := { f with
      orderCode := OrderCode.ofCode order, serial := serial, pairStrap := strap, keyHash := t, fullDebug := fullDebug, fusesRead := true } }
    if ok then .next { s1 with power := { s1.power with stage := .xo } }
    else .next { s1 with power := { s1.power with romFault := true } }

/-- FLASH_READ_DONE (R425): Both base-image copies are read and verified and one is chosen or recovery is entered. -/
def execFlashReadDone (a b : Option (List Byte)) (s : State) : Out :=
  if s.power.stage ≠ .flash then .next s
  else
    let check (x : Option (List Byte)) : Option ImgInfo := match x with
      | none => none
      | some b => match s.verifyImage true b with | .inl _ => none | .inr i => some i
    let ia := check a
    let ib := check b
    let pick (i : ImgInfo) (copy note : Nat) : State :=
      ({ s with
        fw := { s.fw with base_ := i, baseCopy := copy, copies := [ia, ib] }
        glob := { s.glob with compat := i.compat }
        power := { s.power with stage := .pd1, copyNote := note } }).pd1Start
    match ia, ib with
    | some x, some y =>
      if a = b then .next (pick x 0 0) else if x.epoch < y.epoch then .next (pick y 1 1) else .next (pick x 0 1)
    | some x, none => .next (pick x 0 2)
    | none, some y => .next (pick y 1 2)
    | none, none => .next { s with
        fw := { s.fw with copies := [none, none] }, power := { s.power with stage := .recovery, resetting := none } }

/-- ROOT_LOCK (R533): ROOT locks after PD1 power-on and TICK runs. -/
def execRootLock (s : State) : Out :=
  let s1 := match s.power.rootRetry with
    | some t => (s.advance t).pd1Start
    | none => s
  if s1.power.stage ≠ .pd1 ∨ !s1.pdOn 1 then .next s1
  else
    let s2 : State := { s1 with glob := { s1.glob with rootRunning := true } }
    if s2.power.resetting = some 3 then .next s2 else .next s2.pd1Complete

/-- ROOT_LOCK_TIMEOUT (R533): ROOT does not lock within 100 ms, PD1 goes off and the stage is retried after 1 s. -/
def execRootLockTimeout (s : State) : Out :=
  let s1 := match s.power.rootRetry with
    | some t => (s.advance t).pd1Start
    | none => s
  if s1.power.stage ≠ .pd1 ∨ !s1.pdOn 1 ∨ s1.glob.rootRunning then .next s1
  else
    let s2 := (s1.advance (s1.power.pd1At + 100 * msC)).setPd 1 false
    let s3 := pairLanes.foldl (fun (t : State) l => t.updLane l fun x => { x with state := .off }) s2
    .next { s3 with power := { s3.power with rootFault := true, rootRetry := some (s3.now + secC) } }

/-- CORE_LOAD_DONE (R417): The Keeper has loaded the cores and set the firewalls after PD2 power-on. -/
def execCoreLoadDone (s : State) : Out :=
  if s.power.stage ≠ .pd2 ∨ !s.pdOn 2 then .next s
  else
    let kind := s.power.resetKind
    let info := s.fw.base_
    let mods := (Config.moduleMap info.modMap).foldl (fun (t : Tbl Module) m =>
      t.set m.1 { controller := m.2.1, lanes := m.2.2 }) []
    let rings := ((List.range 8).filter fun r => (s.tdc.rings.get r).enable).map fun r =>
      ({ stream := .ring r, epoch := 0, f := s.tick } : FenceMark)
    let s1 : State := { s with
      fw := { s.fw with cores := (List.range 14).map fun n => (n, { s.fw.cores.get n with state := 1 }) }
      modules := mods
      fence := { s.fence with marks := s.fence.marks ++ rings }
      power := { s.power with stage := .config, copyNote := 0 } }
    let s2 := if kind = 2 then s1 else s1.raise (domSrc 1) Ev.pdOn [.u 1 kind]
    let s3 := (s2.raise (domSrc 2) Ev.pdOn [.u 1 kind]).raise 830 Ev.epochRestart
    let s4 := match s.power.copyNote with
      | 1 => s3.raise 799 Ev.baseCopyDiffer
      | 2 => s3.raise 799 Ev.baseCopyInvalid
      | _ => s3
    .next (s4.bootTables (info.tables.getD 0 []) (info.tables.getD 1 []))

/-! ## OSPI and recovery (R534, R540, R541) -/

/-- An OSPI transaction shifts `out` out. -/
def State.ospiDone (s : State) (out : List Byte) : State :=
  { s with power := { s.power with ospiArm := false, ospiOut := out } }

/-- An OSPI transaction that is not permitted, ignored or ended is counted (R540, R541). -/
def State.ospiBadOne (s : State) (out : List Byte) : State :=
  let s1 := s.ospiDone out
  { s1 with power := { s1.power with ospiBad := satAdd 16 s1.power.ospiBad 1 } }

/-- OSPI_READ_ID (R541): OSPI transaction returning the device identity. -/
def execOspiReadId (s : State) : Out :=
  .next (s.ospiDone (beBytes 2 0x6256 ++ beBytes 1 0xB0 ++ beBytes 1 s.fuses.orderCode.code))

/-- OSPI_READ_STATUS (R541): OSPI transaction returning stage, reset, fault and thermal status. -/
def execOspiReadStatus (s : State) : Out :=
  let p := s.power
  let bits := flag (!s.glob.xoPresent) 1 + flag p.rootFault 2 + flag (!p.thermtripN) 4
    + (List.range 9).foldl (fun a i => if p.supplyFault.get i then a + 2 ^ (3 + i) else a) 0
  let out := beBytes 1 p.stage.code ++ beBytes 1 p.resetKind ++ beBytes 1 p.resetCause ++ beBytes 2 s.glob.pdOn.toNat ++ beBytes 2 bits
    ++ beBytes 2 (unsignedOf 16 (s.reportHot 0)) ++ beBytes 1 p.therm.code ++ beBytes 2 p.ospiBad ++ beBytes 1 p.recCheck ++ beBytes 3 0
  .next (({ s with free := s.free + 1 }).ospiDone out)

/-- OSPI_READ_SENSORS (R541): OSPI transaction returning the 16 sensor means. -/
def execOspiReadSensors (s : State) : Out :=
  let one (n : Nat) : List Byte :=
    if (s.power.sensors.get n).faulty then beBytes 2 0x8000 else beBytes 2 (unsignedOf 16 (s.reportMean n n))
  .next (({ s with free := s.free + 16 }).ospiDone ((List.range 16).flatMap one))

/-- RECOVERY_ERASE (R541): OSPI transaction in RECOVERY that erases the copy 1 area. -/
def execRecoveryErase (s : State) : Out :=
  if s.power.stage ≠ .recovery then .next (s.ospiBadOne [])
  else
    let s1 := s.ospiDone []
    .next { s1 with power := { s1.power with recErased := false, recErasing := true, copy1 := [] } }

/-- RECOVERY_ERASE_DONE (R541): The erase of the copy 1 area completes. -/
def execRecoveryEraseDone (s : State) : Out :=
  if s.power.recErasing then .next { s with power := { s.power with recErasing := false, recErased := true } } else .next s

/-- RECOVERY_WRITE (R541): OSPI transaction in RECOVERY that writes image bytes into copy 1. -/
def execRecoveryWrite (offset : Nat) (bytes : List Byte) (s : State) : Out :=
  let n := bytes.length
  if s.power.stage ≠ .recovery ∨ !s.power.recErased then .next (s.ospiBadOne [])
  else if n = 0 ∨ 256 < n ∨ 256 < offset % 256 + n ∨ 16777216 < offset + n then .next (s.ospiBadOne [0xFF])
  else
    let s1 := s.ospiDone []
    let img := (List.range n).foldl (fun (t : Tbl Nat) i => t.set (offset + i) (bytes.getD i 0).toNat) s1.power.copy1
    .next { s1 with power := { s1.power with copy1 := img } }

/-- The bytes of copy 1 from its start on. -/
def Power.copy1Bytes (p : Power) (n : Nat) : List Byte := (List.range n).map fun i => BitVec.ofNat 8 (p.copy1.getD i 255)

/-- RECOVERY_COMMIT (R534): OSPI transaction that checks copy 1 and performs a COLD reset if it passes. -/
def execRecoveryCommit (s : State) : Out :=
  if s.power.stage ≠ .recovery then .next (s.ospiBadOne [])
  else
    let s1 := s.ospiDone []
    if !s1.power.recErased then
      let (k, s2) := s1.takeFree
      .next { s2 with power := { s2.power with recCheck := 1 + Config.freeNat k % 5 } }
    else
      let len := ofBe (slice (s1.power.copy1Bytes 28) 24 4)
      match s1.verifyImage true (s1.power.copy1Bytes (min 16777216 len)) with
      | .inr _ => .next (s1.coldReset 4)
      | .inl e => .next { s1 with power := { s1.power with recCheck := e.1 } }

/-- OSPI_RESET (R541): OSPI 0x66 then 0x99 transactions request a UNIT or COLD reset. -/
def execOspiReset (opcode kind : Nat) (s : State) : Out :=
  if opcode = 0x66 then
    if s.power.stage = .thermtrip then .next (s.ospiBadOne [])
    else
      let s1 := s.ospiDone []
      .next { s1 with power := { s1.power with ospiArm := true } }
  else if opcode = 0x99 then
    if s.power.stage = .thermtrip ∨ !s.power.ospiArm then .next (s.ospiBadOne [])
    else if 2 ≤ kind then .next (s.ospiBadOne [0xFF])
    else
      match (s.ospiDone []).requestReset (1 - kind) 3 0 with
      | none => .next (s.ospiBadOne [])
      | some t => .next t
  else if [0x9F, 0x05, 0x0B, 0x60, 0x02, 0x31].contains opcode then .fault .impossibleInput
  else .next (s.ospiBadOne [0xFF])

/-- OSPI_CS_TIMEOUT (R540): CS_N stays low for more than 10 ms and the OSPI transaction is ended. -/
def execOspiCsTimeout (s : State) : Out :=
  .next (s.ospiBadOne [0xFF])

end Sys2Proof.Machine
end

