-- ==== Sys2Proof/Machine/Recovery.lean ====
section
/-!
DEFINITION. Recovery: watchdogs, firewalls, restarts of cores and of the Keeper, errors in shared control SRAM, and the markers of fences
(R29, R418, R420, R466, R469 to R472, R478).
-/
namespace Sys2Proof.Machine

/-- The event source of core `n` (R440). -/
def coreSrc (n : Nat) : Nat := 784 + n

/-- The data of RECOVERY_START and RECOVERY_DONE (R478): KIND, WHERE, MAILBOX, FIRST and LAST. -/
def recoveryData (kind place mb first last : Nat) : List Fld := [.u 1 kind, .u 2 place, .u 2 mb, .u 4 first, .u 4 last]

/-- RECOVERY_START (R478). -/
def State.recoveryStart (s : State) (kind place : Nat) : State := s.raise 830 Ev.recoveryStart (recoveryData kind place 0 0 0)

/-- RECOVERY_DONE, once for each mailbox of `l` with its first and last position that completed with ST_ABORTED_RECOVERY, or once with no
mailbox (R478). -/
def State.recoveryDone (s : State) (kind place : Nat) (l : List (Nat × Nat × Nat)) : State :=
  if l.isEmpty then s.raise 830 Ev.recoveryDone (recoveryData kind place 0xFFFF 0 0)
  else l.foldl (fun (t : State) x => t.raise 830 Ev.recoveryDone (recoveryData kind place x.1 x.2.1 x.2.2)) s

/-! ## Cores (R418, R420, R469, R470) -/

/-- The commands of MB0 to MB6 that are in flight when a recovery of C0 or C1 begins will complete with ST_ABORTED_RECOVERY (R469). -/
def State.markInFlight (s : State) : State :=
  (List.range 7).foldl (fun (t : State) m =>
    let waits := match (t.mbs.get m).inFlight with
      | c :: _ => !c.committed && !c.aborted
      | [] => false
    let t1 := if waits then t.forgetWaiting (.mailbox m) else t
    t1.updMb m fun x => { x with
      inFlight := x.inFlight.map fun c =>
        if c.committed || c.aborted || c.early.isSome then c else { c with early := some (stAbortedRecovery, 0) } }) s

/-- The first and last positions of each mailbox that await ST_ABORTED_RECOVERY. -/
def State.recoverySpans (s : State) : List (Nat × Nat × Nat) :=
  (List.range 7).filterMap fun m =>
    let l := (s.mbs.get m).inFlight.filter fun c => decide (c.early = some (stAbortedRecovery, 0)) && !c.aborted
    match l, l.getLast? with
    | a :: _, some b => some (m, a.pos.toNat, b.pos.toNat)
    | _, _ => none

/-- The Keeper holds core `n` in reset and reloads it: a recovery of the commands that it serves begins (R418, R470). -/
def State.holdCore (s : State) (n : Nat) : State :=
  let s1 := (s.updCore n fun c => { c with state := 3, faults := [] }).recoveryStart 0 n
  if n < 2 then
    let s2 := s1.markInFlight
    { s2 with fence := { s2.fence with recovery := true } }
  else s1

/-- WATCHDOG (R418): A core's watchdog expires and the Keeper holds the core in reset and reloads it. -/
def execWatchdog (core : Nat) (s : State) : Out :=
  if 14 ≤ core then .fault .noSuchObject
  else if (s.fw.cores.get core).state ≠ 1 then .next s
  else .next ((s.raise (coreSrc core) Ev.watchdog).holdCore core)

/-- FIREWALL_FAULT (R420): The firewall refuses a core access, and 16 refusals in 1 s restart the core. -/
def execFirewallFault (core addr : Nat) (s : State) : Out :=
  if 14 ≤ core then .fault .noSuchObject
  else
    let x := s.fw.cores.get core
    if x.state ≠ 1 then .next s
    else
      let l := s.now :: recent x.faults s.now secC
      let raise := mayRaise x.faultAt s.now secC
      let s1 := s.updCore core fun c => { (c.count core 0x09 1).count core 0x08 1 with
        faultCount := inc32 c.faultCount, faults := l, faultAt := if raise then some s.now else c.faultAt }
      let s2 := if raise then s1.raise (coreSrc core) Ev.firewallFault [.u 8 addr] else s1
      .next (if 16 ≤ l.length then s2.holdCore core else s2)

/-- Firmware on C12 and C13 runs again and restarts the pair watchdog: the unit in JOINING joins anew (R379, R381). -/
def State.pairFirmwareBack (s : State) : State :=
  if !s.pair.watchdogDead then s
  else
    let s1 : State := { s with pair := { s.pair with watchdogDead := false } }
    if s1.pair.role = .joining then
      let s2 : State := { s1 with pair := { s1.pair with joinEnd := some (s1.now + cyclesOf s1.pair.cfg.joinTimeout) } }
      if s2.pair.linkUp then s2.sendCtl (.hello s2.pair.epoch) else s2
    else s1

/-- The staging buffers of every mailbox are cleared, as a firmware restart of the cores that serve the mailboxes does (R298, R315). -/
def State.clearStaging (s : State) : State := { s with mbs := s.mbs.mapAll fun _ x => { x with aclStage := [], memStage := [] } }

/-- CORE_RESTART (R470): A restarted core resumes and completes or aborts the commands it was serving. -/
def execCoreRestart (core : Nat) (s : State) : Out :=
  if 14 ≤ core then .fault .noSuchObject
  else if (s.fw.cores.get core).state ≠ 3 ∨ s.glob.keeperRestarting then .next s
  else
    let s1 := (s.updCore core fun c => { c with
      state := 1, restarts := c.restarts + 1, cnt := List.replicate 8 0, ksel := List.replicate 8 0, ovf := 0, servedSeen := s.servedBy core }).raise
        (coreSrc core) Ev.coreRestart
    let s1 : State := if core < 2 then s1.clearStaging else s1
    if core < 2 ∧ (s1.fw.cores.get (1 - core)).state ≠ 3 then
      let spans := s1.recoverySpans
      let s2 : State := { s1 with fence := { s1.fence with recovery := false } }
      let s3 := (List.range 7).foldl (fun (t : State) m => t.sweep m) s2
      .next ((s3.recoveryDone 0 core spans).pokeFences)
    else
      let s2 := if core = 12 ∨ core = 13 then s1.pairFirmwareBack else s1
      .next (s2.recoveryDone 0 core [])

/-! ## The Keeper (R29, R471) -/

/-- KEEPER_LOCKSTEP (R29): K0 and K1 disagree and the Keeper restarts from ROM, closing every session. -/
def execKeeperLockstep (s : State) : Out :=
  let s1 := (s.raise 798 Ev.keeperLockstep).closeSession
  let s2 : State := { s1 with
    glob := { s1.glob with keeperRestarting := true }
    fw := { s1.fw with challenge := none, respPart0 := none } }
  .next (s2.recoveryStart 1 0)

/-! ## Shared control SRAM (R472) -/

/-- The row of R472's table. -/
def sramRow : SramWhat → Nat
  | .journal => 0 | .standbyBuffer => 1 | .staging => 2 | .firmwareCache => 3 | .coreData => 4 | .eventLog => 5 | .tableCopies => 6 | .localSram => 7

/-- Every command of the journal of the current cycle completes with ST_ABORTED_RECOVERY; the flag's list tells where (R472). -/
def State.loseJournal (s : State) : State × List (Nat × Nat × Nat) :=
  let l := s.pair.journal
  let s1 : State := { s with pair := { s.pair with journal := [], waits := s.pair.waits.filter fun w => !l.contains w.cmd } }
  l.foldl (fun (a : State × List (Nat × Nat × Nat)) i =>
    match cmdKey i with
    | some (.mailbox m, op) =>
      let p := (a.1.mbs.get m).done.toNat
      (a.1.finish (.mailbox m) op stAbortedRecovery 0 [], a.2 ++ [(m, p, p)])
    | some (src, op) => (a.1.finish src op stAbortedRecovery 0 [], a.2)
    | none => a) (s1, [])

/-- What the handling of an error does to the structure that it strikes, and the mailboxes whose commands it aborts. `arg` is the mailbox of a
staging buffer, the core, the number of the log record, or table × 2^20 + location. -/
def State.sramHandle (s : State) (what : SramWhat) (arg : Nat) : State × List (Nat × Nat × Nat) :=
  match what with
  | .journal => s.loseJournal
  | .standbyBuffer => (if s.takesJournals then s.frog (s.pair.committedNo.getD 0) else s, [])
  | .staging => (s.updMb arg fun x => { x with aclStage := [], memStage := [] }, [])
  | .firmwareCache => (s, [])
  | .coreData => (s.holdCore arg, [])
  | .localSram => (s, [])
  | .eventLog =>
    (({ s with events := { s.events with
        log := s.events.log.set (arg % 1024) { kind := 3 }, logLost := inc32 s.events.logLost, logLostSeen := true } } |>.hwCount 0x30020
          s.events.logLost).hwSet 0x3001C 1, [])
  | .tableCopies =>
    let e := (arg / 1048576, arg % 1048576)
    ({ s with fwd := { s.fwd with badCopies := if s.fwd.badCopies.contains e then s.fwd.badCopies else s.fwd.badCopies ++ [e] } }, [])

/-- Whether the operand of an error names a structure that exists. -/
def State.sramArgOk (s : State) : SramWhat → Nat → Bool
  | .staging, arg => decide (arg < 7)
  | .coreData, arg => decide (arg < 14)
  | .localSram, arg => decide (arg < 14)
  | .eventLog, arg => decide (arg < 1024 ∧ (arg + 1024 - s.events.logRd.toNat % 1024) % 1024 < s.events.fill)
  | .tableCopies, arg => locationOk (arg / 1048576) (arg % 1048576)
  | _, arg => decide (arg = 0)

/-- SHARED_SRAM_ERROR (R472): An uncorrectable shared control SRAM error is handled by the structure it strikes. -/
def execSharedSramError (what : SramWhat) (arg : Nat) (s : State) : Out :=
  if !s.sramArgOk what arg then .fault .noSuchObject
  else if what = .localSram then .next (if (s.fw.cores.get arg).state = 1 then s.holdCore arg else s)
  else
    let r := (s.recoveryStart 2 (sramRow what)).sramHandle what arg
    .next (r.1.recoveryDone 2 (sramRow what) r.2)

/-! ## Markers in the streams (R466) -/

/-- Whether a stream is one that the device has. -/
def streamExists : StreamId → Bool
  | .tsq q => decide (q < 4)
  | .ring r => decide (r < 8)
  | .capture => true
  | .cq n => decide (n < 32)
  | .log => true

/-- The TICK by which a TDC ring, the capture ring and the event log have written the marker of F. -/
def State.markerAt (s : State) (st : StreamId) : Option Nat :=
  match s.fence.marks.find? fun m => m.stream = st with
  | none => none
  | some m => match st with
    | .tsq _ => some m.f
    | .cq _ => some m.f
    | _ => some (m.f + 2 * usC)

/-- FENCE_MARKER_WRITE (R466): The marker of a fence epoch is written into an enabled event stream once that stream's earlier records are placed and it has room. -/
def execFenceMarkerWrite (stream : StreamId) (s : State) : Out :=
  if !streamExists stream then .fault .noSuchObject
  else match s.markerAt stream with
    | none => .next s
    | some t =>
      let s1 := s.advanceTick t
      match stream with
      | .tsq q => .next (s1.tsqPoke q (s1.tsqWork q))
      | .ring r => .next (s1.ringMarkerDue r)
      | .capture => .next s1.capMarkerDue.capFlush
      | .cq n => .next (s1.cqMarkerDue n)
      | .log =>
        match s1.fence.marks.find? fun m => m.stream = .log with
        | none => .next s1
        | some m => .next (({ s1 with fence := { s1.fence with marks := s1.fence.marks.erase m } }).logMarker m.epoch)

end Sys2Proof.Machine
end

