-- ==== Sys2Proof/Machine/Regs.lean ====
section
/-!
DEFINITION. The registers of PF0 BAR0 and BAR2: what a read of each offset returns, what it clears, and what a write does (R8, R10, R24 to
R27, R110 to R113, R145, R146, R194 to R197, R204, R208, R209, R350, R351, R414, R438, R443, R489, R505, R516 to R518, R520 to R523).
-/
namespace Sys2Proof.Machine

/-- The low and the high 32 bits of a value. -/
def lo32 (v : Nat) : Nat := v % 2 ^ 32
/-- Bits 63 to 32. -/
def hi32 (v : Nat) : Nat := v / 2 ^ 32 % 2 ^ 32

/-- Half `h` of a 64-bit value, the low half first (R8). -/
def half (h v : Nat) : Nat := if h = 0 then lo32 v else hi32 v

/-- A Bool as bit `i`. -/
def bit (b : Bool) (i : Nat) : Nat := if b then 2 ^ i else 0

/-! ## Blocks of BAR0, read side -/

/-- Register at `o` of mailbox `m` (R443). -/
def State.mbReg (s : State) (m o : Nat) : Nat :=
  let x := s.mbs.get m
  match o with
  | 0x000 => bit x.enable 0
  | 0x004 => x.state.code + bit x.fetchFault 2 + bit x.threshHit 3 + bit x.indexFault 4
  | 0x008 => lo32 x.cmdBase.toNat
  | 0x00C => hi32 x.cmdBase.toNat
  | 0x010 => lo32 x.respBase.toNat
  | 0x014 => hi32 x.respBase.toNat
  | 0x018 => lo32 x.extBase.toNat
  | 0x01C => hi32 x.extBase.toNat
  | 0x020 => x.submit.toNat
  | 0x024 => x.fetch.toNat
  | 0x028 => x.done.toNat
  | 0x02C => x.respRd.toNat
  | 0x034 => x.timeout
  | 0x038 => x.thresh
  | 0x03C => lo32 x.faultAddr.toNat
  | 0x040 => hi32 x.faultAddr.toNat
  | 0x044 => x.lastStatus + 65536 * x.lastOpcode
  | 0x048 => x.lastTag.toNat
  | 0x04C => x.lastPos.toNat
  | _ => 0

/-- A KTIME of `k` 2^-16 ns as seconds, nanoseconds and sub-nanoseconds. -/
def ktimeParts (k : Int) : Nat × Nat × Nat := (k.toNat / secU, k.toNat % secU / nsU, k.toNat % nsU)

/-- Register at `o` of a snapshot slot (R196). -/
def Snap.reg (x : Snap) (o : Nat) : Nat :=
  let p := ktimeParts x.w
  match o with
  | 0x00 => x.ticket.toNat
  | 0x04 => lo32 p.1
  | 0x08 => hi32 p.1
  | 0x0C => p.2.1 + bit x.held 30 + bit x.unset 31
  | 0x10 => p.2.2
  | 0x14 => lo32 x.tick
  | 0x18 => hi32 x.tick
  | 0x1C => x.ticket.toNat
  | _ => 0

/-- Register at `o` of a PPS_IN capture (R204). -/
def PpsCap.reg (x : PpsCap) (o : Nat) : Nat :=
  let p := ktimeParts x.k
  match o with
  | 0x00 => x.count.toNat
  | 0x04 => x.sub + 65536 * p.2.2
  | 0x08 => lo32 x.tick
  | 0x0C => hi32 x.tick
  | 0x10 => lo32 p.1
  | 0x14 => hi32 p.1
  | 0x18 => p.2.1 + bit x.stale 30
  | 0x1C => x.count.toNat
  | _ => 0

/-- Register at `o` of a segment in the history (R197). -/
def Segment.reg (x : Segment) (o : Nat) : Nat :=
  let p := ktimeParts x.k0
  let st := unsignedOf 64 (x.stepSum / 65536)
  match o with
  | 0x00 => lo32 x.num
  | 0x04 => hi32 x.num
  | 0x08 => lo32 x.t0
  | 0x0C => hi32 x.t0
  | 0x10 => lo32 p.1
  | 0x14 => hi32 p.1
  | 0x18 => p.2.1 + bit x.step 30 + bit x.cont 31
  | 0x1C => p.2.2
  | 0x20 => lo32 (unsignedOf 40 x.rate)
  | 0x24 => hi32 (unsignedOf 40 x.rate)
  | 0x28 => lo32 st
  | 0x2C => hi32 st
  | 0x30 => (x.stepSum % 65536).toNat
  | 0x3C => lo32 x.num
  | _ => 0

/-- Register at `o` of TSQ `q` (R208). -/
def State.tsqReg (s : State) (q o : Nat) : Nat :=
  let x := s.time.tsqs.get q
  match o with
  | 0x00 => bit x.enable 0
  | 0x04 => x.wr.toNat
  | 0x08 => x.rd.toNat
  | 0x0C => x.reqs.length
  | 0x10 => bit (decide (x.fill + x.reqs.length + (s.tsqMarks q).length = 64)) 0 + bit x.missedSeen 1 + bit x.timeoutSeen 2 + bit x.threshHit 3
  | 0x14 => x.missed
  | 0x18 => x.stampTimeout
  | 0x1C => x.thresh
  | _ => 0

/-- Word `w` of a TSQ entry (R209). -/
def TsqEntry.word (x : TsqEntry) (w : Nat) : Nat :=
  match w with
  | 0 => x.kind + 16 * x.port + 4096 * x.info + 65536 * x.id
  | 1 => x.w1
  | 2 => lo32 x.value
  | _ => hi32 x.value

/-- The segment history as it is read (R184): a segment is published before its start TICK is reached, so from the 1,023rd cycle before a
lane-window boundary on, when no further change can join it (R183), the segment that the boundary will start stands there too. -/
def State.history (s : State) : List Segment :=
  let t := s.nextBoundary s.tick
  if s.time.tickOn && decide (t < s.tick + 1024) then (s.timeBoundary t).s.time.segs else s.time.segs

/-- Register at `o` of the entry for segment `n` of a history of `size` segments (R184, R197). -/
def State.segReg (s : State) (size n o : Nat) : Nat :=
  match s.history.find? fun g => decide (g.num % size = n) with
  | some g => g.reg o
  | none => 0

/-- Register at `o` of the timescale block (R194 to R197, R204, R208, R209). -/
def State.timeReg (s : State) (o : Nat) : Nat :=
  let x := s.time
  if o < 0x200 then
    match o with
    | 0x0000 => bit x.set_ 0 + bit x.held 1 + 4 * x.control + bit x.allowance.isSome 4
    | 0x0004 => x.guardG / nsU
    | 0x0008 => x.guardV / secU
    | 0x000C => x.stepCount.toNat
    | 0x0010 => lo32 s.tick
    | 0x0014 => hi32 s.tick
    | 0x0018 => lo32 (unsignedOf 40 s.seg.rate)
    | 0x001C => hi32 (unsignedOf 40 s.seg.rate)
    | 0x0020 => lo32 (s.seg.num + 1)
    | 0x0024 => hi32 (s.seg.num + 1)
    | 0x0028 => x.refused
    | 0x0040 => unsignedOf 16 x.utc + bit x.leap61 16 + bit x.leap59 17 + bit x.utcValid 18
    | 0x0100 => x.ticket0.toNat
    | _ => 0
  else if o < 0x400 then (x.snaps0.get ((o - 0x200) / 0x20)).reg (o % 0x20)
  else if o < 0x440 then (x.caps.get ((o - 0x400) / 0x20)).reg (o % 0x20)
  else if 0x1000 ≤ o ∧ o < 0x1100 then s.tsqReg ((o - 0x1000) / 0x40) (o % 0x40)
  else if 0x2000 ≤ o ∧ o < 0x3000 then
    ((x.tsqs.get ((o - 0x2000) / 0x400)).entries.get (o % 0x400 / 16)).word (o % 16 / 4)
  else if 0x8000 ≤ o ∧ o < 0xC000 then s.segReg 256 ((o - 0x8000) / 0x40) (o % 0x40)
  else 0

/-- Register at `o` of PF1 BAR0 (R198): the global registers without STEP_REFUSED_COUNT, PF1's own TAKE and slots, the captures, and the
last 32 segments. -/
def State.pf1Reg (s : State) (o : Nat) : Nat :=
  if o < 0x100 then (if o = 0x28 then 0 else s.timeReg o)
  else if o = 0x100 then s.time.ticket1.toNat
  else if 0x200 ≤ o ∧ o < 0x400 then (s.time.snaps1.get ((o - 0x200) / 0x20)).reg (o % 0x20)
  else if 0x400 ≤ o ∧ o < 0x440 then s.timeReg o
  else if 0x800 ≤ o ∧ o < 0x1000 then s.segReg 32 ((o - 0x800) / 0x40) (o % 0x40)
  else 0

/-- Word `w` of a record of the event log (R518). -/
def LogRec.word (r : LogRec) (w : Nat) : Nat :=
  match w with
  | 0 => r.kind + 16 * r.source + bit r.injected 14 + 65536 * r.cause
  | 5 => 0
  | 6 => lo32 r.value
  | 7 => hi32 r.value
  | k => ofLe (slice r.data (4 * (k - 1)) 4)

/-- Register at `o` of the event controller (R516 to R518); the vectors' entries of the MSI-X table and the PBA follow the PCIe layout
(R513). -/
def State.evReg (s : State) (o : Nat) : Nat :=
  let e := s.events
  if o < 0x100 then
    match o with
    | 0x0000 => bit e.intNEnable 0
    | 0x0004 => bit e.intN 0
    | 0x0010 => e.logWr.toNat
    | 0x0014 => e.logRd.toNat
    | 0x0018 => e.logThresh
    | 0x001C => bit e.logFull 0 + bit e.logLostSeen 1 + bit e.logThreshHit 2
    | 0x0020 => e.logLost
    | _ => 0
  else if o < 0x180 then (reg32 e.pending ((o - 0x100) / 4)).toNat
  else if 0x200 ≤ o ∧ o < 0x280 then (reg32 e.mask ((o - 0x200) / 4)).toNat
  else if 0x400 ≤ o ∧ o < 0x800 then
    let v := e.vecs.get ((o - 0x400) / 0x10)
    match o % 0x10 with
    | 0 => v.coalCount + 65536 * v.coalTime
    | 4 => v.held + bit v.timer.isSome 9
    | 8 => v.sent.toNat
    | _ => 0
  else if 0x1000 ≤ o ∧ o < 0x2000 then
    let r := e.routes.get ((o - 0x1000) / 4)
    r.vector + bit r.intN 8 + bit r.log 9
  else if 0x2000 ≤ o ∧ o < 0x2400 then
    let v := e.vecs.get ((o - 0x2000) / 16)
    match o % 16 / 4 with
    | 0 => lo32 v.addr.toNat
    | 1 => hi32 v.addr.toNat
    | 2 => v.data.toNat
    | _ => bit v.masked 0
  else if 0x3000 ≤ o ∧ o < 0x3008 then
    (List.range 32).foldl (fun a i => a + bit (e.vecs.get (8 * (o - 0x3000) + i)).pba i) 0
  else if 0x4000 ≤ o ∧ o < 0x5000 then
    let c := e.last.get ((o - 0x4000) / 4)
    c.cause + 65536 * c.count
  else if 0x8000 ≤ o ∧ o < 0x10000 then (e.log.get ((o - 0x8000) / 32)).word (o % 32 / 4)
  else 0

/-- Register at `o` of DMA channel `n` (R505), or of the CPU port in the block of channel 0 (R489). -/
def State.dmaReg (s : State) (n o : Nat) : Nat :=
  let x := s.host.chans.get n
  let h := s.host
  match o with
  | 0x04 => bit x.softReq 0
  | 0x08 => x.state.code + 8 * x.outcome + 32 * x.cause + bit x.stallSeen 9
  | 0x0C => lo32 x.chainAddr.toNat
  | 0x10 => hi32 x.chainAddr.toNat
  | 0x14 => x.priority + 4 * x.burst
  | 0x18 => x.budget
  | 0x1C => x.watchdog
  | 0x20 => lo32 x.posAddr.toNat
  | 0x24 => hi32 x.posAddr.toNat
  | 0x28 => x.posBytes
  | 0x2C => x.retired
  | 0x30 => lo32 x.cqBase.toNat
  | 0x34 => hi32 x.cqBase.toNat
  | 0x38 => x.cqSize
  | 0x3C => x.cqWr.toNat
  | 0x40 => x.cqRd.toNat
  | 0x44 => x.cqThresh
  | 0x48 => x.cqDropped
  | _ =>
    if n = 0 then
      if o = 0x800 then h.crxMap.toNat
      else if o = 0x804 then (List.range 4).foldl (fun a q => a + bit (h.ctx.get q).fault q + bit (s.crxFull q) (4 + q)) 0
      else if o = 0x80C then h.ctxBad
      else if 0x810 ≤ o ∧ o < 0x820 then 262144 - (h.ctx.get ((o - 0x810) / 4)).bytes.length
      else if 0x820 ≤ o ∧ o < 0x830 then (h.crx.get ((o - 0x820) / 4)).bytes.length
      else 0
    else 0

/-- Register at `o` of core `n` (R438). -/
def State.coreReg (s : State) (n o : Nat) : Nat :=
  let x := s.fw.cores.get n
  if o < 8 then half (o / 4) s.kcycle
  else if o < 0x28 then (nth x.cnt ((o - 8) / 4)).toNat
  else if o < 0x48 then (nth x.ksel ((o - 0x28) / 4)).toNat
  else if o = 0x48 then x.ovf.toNat
  else if o = 0x4C then x.state
  else if o = 0x50 then x.restarts.toNat
  else 0

/-- Word `w` of a TDC record (R107, R108). -/
def TdcRec.word (x : TdcRec) (w : Nat) : Nat :=
  match w with
  | 0 => x.w0.toNat
  | 1 => x.w1.toNat
  | 2 => x.w2.toNat
  | _ => x.w3.toNat

/-- Register at `o` of ring `r` (R111). -/
def State.ringReg (s : State) (r o : Nat) : Nat :=
  let x := s.tdc.rings.get r
  match o with
  | 0x00 => bit x.enable 0
  | 0x04 => x.wr.toNat
  | 0x08 => x.rd.toNat
  | 0x0C => x.thresh
  | 0x10 => bit (decide (4096 ≤ dist32 x.rd x.wr)) 0 + bit x.lostSeen 1 + bit x.threshHit 2
  | 0x14 => x.ringLost
  | 0x18 => x.idleTimeout
  | _ => 0

/-- Register at `o` of a page of the gauge window before SET_CRC (R146): the active page, or the staging page. -/
def ChanGauge.page (g : ChanGauge) (staging : Bool) (o : Nat) : Nat :=
  let centre (k : Nat) : Nat := if staging then g.stCentre.getD k 0 else g.centre.getD k (128 * k + 64)
  let sel := if staging then g.stSel else g.cellSel
  if o < 0x400 then centre (o / 2) + 65536 * centre (o / 2 + 1)
  else if o = 0x400 then (if staging then g.stDll else g.dllCode)
  else if o = 0x404 then lo32 sel
  else if o = 0x408 then hi32 sel
  else if o < 0x41C then nth (if staging then g.stTrim else g.trim) ((o - 0x40C) / 4)
  else if staging then 0
  else if o = 0x41C then unsignedOf 32 g.delta
  else if o = 0x420 then g.lastHits
  else if o = 0x424 then g.lastCause + bit g.degraded 3 + 16 * g.ownCode
  else 0

/-- Register at `o` of a page with SET_CRC, the CRC-32 over the page's first 0x41C bytes. -/
def ChanGauge.pageReg (g : ChanGauge) (staging : Bool) (o : Nat) : Nat :=
  if o = 0x428 then crc32 ((List.range 263).flatMap fun i => leBytes 4 (g.page staging (4 * i)))
  else g.page staging o

/-- Register at `o` of the gauge window (R145, R146). -/
def State.gaugeReg (s : State) (o : Nat) : Nat :=
  let g := s.gauge
  let shown := (regionOf g.gwChannel).isSome
  if o = 0 then g.gwChannel
  else if o = 8 then g.running.getD 31 + bit g.hold.isSome 5
  else if 0x100 ≤ o ∧ o < 0x250 then
    let r := (o - 0x100) / 0x10
    let x := g.regions.get r
    match o % 0x10 with
    | 0 => x.state.code + bit x.stale 3 + bit ((regionChans r).any fun c => (g.chans.get c).degraded) 4
    | 4 => unsignedOf 16 x.tLast
    | 8 => lo32 x.epoch
    | _ => hi32 x.epoch
  else if !shown then 0
  else if 0x1000 ≤ o ∧ o < 0x142C then (g.chans.get g.gwChannel).pageReg false (o - 0x1000)
  else if 0x2000 ≤ o ∧ o < 0x242C then (g.chans.get g.gwChannel).pageReg true (o - 0x2000)
  else 0

/-- Register at `o` of the TDC block (R110 to R113). -/
def State.tdcReg (s : State) (o : Nat) : Nat :=
  let inputs (f : TdcChan → Bool) : Nat := (List.range 32).foldl (fun a i => a + bit (f (s.tdc.chans.get (280 + i))) i) 0
  if o < 0x200 then s.ringReg (o / 0x40) (o % 0x40)
  else if o = 0x408 then
    (List.range 4).foldl (fun a g => a + bit (s.tdc.groups.get g).open_ g + bit (s.tdc.groups.get g).pin (4 + g)) 0
  else if o = 0x800 then inputs TdcChan.inputOpen
  else if o = 0x804 then inputs TdcChan.level
  else if 0x40000 ≤ o ∧ o < 0x80000 then s.gaugeReg (o - 0x40000)
  else if 0x80000 ≤ o then ((s.tdc.rings.get ((o - 0x80000) / 0x10000)).recs.get (o % 0x10000 / 16)).word (o % 16 / 4)
  else 0

/-- What the register at offset `o` of BAR0 holds, as a host read returns it (R24). -/
def State.bar0Reg (s : State) (o : Nat) : Nat :=
  if o < 0x10000 then (if o < 0x20 then s.identReg (o / 4) else 0)
  else if o < 0x20000 then s.mbReg ((o - 0x10000) / 0x2000) (o % 0x2000)
  else if o < 0x30000 then s.timeReg (o - 0x20000)
  else if o < 0x40000 then s.evReg (o - 0x30000)
  else if o < 0x60000 then s.dmaReg ((o - 0x40000) / 0x1000) (o % 0x1000)
  else if o < 0x80000 then 0
  else if o < 0x100000 then (if (o - 0x80000) / 0x100 < 14 then s.coreReg ((o - 0x80000) / 0x100) (o % 0x100) else 0)
  else if o < 0x200000 then s.tdcReg (o - 0x100000)
  else if o < 0x400000 then s.pairReg (o - 0x200000)
  else 0

/-! ## BAR2, read side -/

/-- Whether a live offset of BAR2 holds a counter or MAX_SEEN (R521, R522). -/
def liveListed (o : Nat) : Bool :=
  if 0x100000 ≤ o ∧ o < 0x140000 then decide (o % 0x400 < 0x100)
  else if 0x200000 ≤ o ∧ o < 0x280000 then decide (o % 0x100 < 0x40)
  else if 0x300000 ≤ o ∧ o < 0x340000 then decide (o % 0x100 < 0x58 ∨ (0x60 ≤ o % 0x100 ∧ o % 0x100 < 0x68))
  else if 0x400000 ≤ o ∧ o < 0x402000 then
    decide ((0x20 ≤ o - 0x400000 ∧ o - 0x400000 < 0x200 ∧ o % 0x20 < 0x18) ∨ (0x1000 ≤ o - 0x400000 ∧ o - 0x400000 < 0x1038))
  else false

/-- The 64-bit value at a live offset. -/
def State.liveAt (s : State) (o : Nat) : Nat :=
  if 0x300000 ≤ o ∧ o < 0x340000 ∧ o % 0x100 = 0x60 then s.contracts.maxSeen.get (4 * ((o - 0x300000) / 0x400) + o % 0x400 / 0x100)
  else s.stats.live.get o

/-- Word `w` of a capture record: header, then snap (R350). -/
def CapRec.word (r : CapRec) (w : Nat) : Nat :=
  match w with
  | 0 => r.kind + 16 * r.trigger + 256 * r.units + 4096 * r.seq
  | 1 => r.w1.toNat
  | 2 => r.w2.toNat
  | 3 => lo32 r.value
  | 4 => hi32 r.value
  | 5 => r.w5.toNat
  | 6 => r.w6.toNat
  | 7 => r.snap.length
  | k => ofLe (slice r.snap (4 * (k - 8)) 4)

/-- Word `w` of unit `u` of the capture ring: of the record written last among those that reach over the unit. -/
def Capture.unitWord (x : Capture) (u w : Nat) : Nat :=
  let hits := (List.range 10).filterMap fun j =>
    if j ≤ u then match x.recs.find (u - j) with
      | some r => if j < r.units then some (j, r) else none
      | none => none
    else none
  match hits.foldl (fun (a : Option (Nat × CapRec)) h => match a with
      | some b => if b.2.written < h.2.written then some h else a
      | none => some h) none with
  | some h => h.2.word (8 * h.1 + w)
  | none => 0

/-- Control registers of the capture ring (R351). -/
def State.capReg (s : State) (o : Nat) : Nat :=
  let x := s.core.capture
  match o with
  | 0x00 => bit x.enable 0
  | 0x04 => x.wr.toNat
  | 0x08 => x.rd.toNat
  | 0x0C => x.thresh
  | 0x10 => bit (!x.room 9) 0 + bit x.lostSeen 1 + bit x.threshHit 2
  | 0x14 => x.lost
  | 0x18 => x.idleTimeout
  | _ => 0

/-- Snapshot control (R523). -/
def Stats.reg (x : Stats) (o : Nat) : Nat :=
  match o with
  | 0x04 => bit x.busy 0 + bit x.armed 1
  | 0x08 => x.seq.toNat
  | 0x0C => lo32 x.tick
  | 0x10 => hi32 x.tick
  | 0x14 => lo32 x.epoch
  | 0x18 => hi32 x.epoch
  | 0x1C => x.overrun
  | _ => 0

/-- What the register at offset `o` of BAR2 holds, as a host read returns it (R520). -/
def State.bar2Reg (s : State) (o : Nat) : Nat :=
  let w := o / 8 * 8
  let h := o % 8 / 4
  if o < 0x100 then s.stats.reg o
  else if o < 0x8000000 then (if liveListed w then half h (s.liveAt w) else 0)
  else if o < 0xF000000 then (if liveListed (w - 0x8000000) then half h (s.stats.snap.get (w - 0x8000000)) else 0)
  else if o < 0xF800000 then s.capReg (o - 0xF000000)
  else s.core.capture.unitWord ((o - 0xF800000) / 32) (o % 32 / 4)

/-! ## Registers that exist -/

/-- Whether an offset of BAR0 is listed: the rest is reserved (R24, R25). -/
def bar0Listed (o : Nat) : Bool :=
  let among (b n : Nat) : Bool := decide (b ≤ o ∧ o < b + n)
  if o < 0x10000 then decide (o < 0x20)
  else if o < 0x20000 then decide (o % 0x2000 < 0x50)
  else if o < 0x30000 then
    among 0x20000 0x2C || among 0x20040 4 || among 0x20100 4 || among 0x20200 0x240 ||
      (among 0x21000 0x100 && decide (o % 0x40 < 0x20)) || among 0x22000 0x1000 || among 0x28000 0x4000
  else if o < 0x40000 then
    among 0x30000 8 || among 0x30010 0x14 || among 0x30100 0x80 || among 0x30200 0x80 ||
      (among 0x30400 0x400 && decide (o % 0x10 < 0xC)) || among 0x31000 0x1000 || among 0x32000 0x400 || among 0x33000 8 ||
      among 0x34000 0x1000 || among 0x38000 0x8000
  else if o < 0x60000 then decide (o % 0x1000 < 0x4C) || (among 0x40800 0x30)
  else if o < 0x80000 then false
  else if o < 0x100000 then decide ((o - 0x80000) / 0x100 < 14 ∧ o % 0x100 < 0x54)
  else if o < 0x200000 then
    (among 0x100000 0x200 && decide (o % 0x40 < 0x1C)) || among 0x100400 0xC || among 0x100800 8 || among 0x140000 0xC ||
      among 0x140100 0x150 || among 0x141000 0x42C || among 0x142000 0x42C || among 0x180000 0x80000
  else if o < 0x400000 then pairOffsets.contains (o - 0x200000)
  else false

/-- Whether an offset of BAR2 is listed. -/
def bar2Listed (o : Nat) : Bool :=
  let w := o / 8 * 8
  if o < 0x100 then decide (o < 0x20)
  else if o < 0x8000000 then liveListed w
  else if o < 0xF000000 then liveListed (w - 0x8000000)
  else if o < 0xF800000 then decide (o < 0xF00001C)
  else true

/-! ## Reads (R10, R25) -/

/-- The state that a step gives, or the one it started from. -/
def nextOf (s : State) (o : Out) : State := match o with | .next t => t | _ => s

/-- Whether the register at `o` of a window is an RC field (R10). -/
def isRc (w : Win) (o : Nat) : Bool :=
  match w with
  | .bar0 =>
    [0x20028, 0x30020, 0x4080C, 0x20002C, 0x200030, 0x200034, 0x200038].contains o ||
      decide ((0x21000 ≤ o ∧ o < 0x21100 ∧ o % 0x40 = 0x14) ∨ (0x40000 ≤ o ∧ o < 0x60000 ∧ o % 0x1000 = 0x48) ∨
        (0x100000 ≤ o ∧ o < 0x100200 ∧ o % 0x40 = 0x14))
  | .bar2 => decide (o = 0x1C ∨ o = 0xF000014)
  | .pf1 => false

/-- The RC field at `o` of BAR0 set to `v`. -/
def State.bar0Rc (s : State) (o v : Nat) : State :=
  if o = 0x20028 then { s with time := { s.time with refused := v } }
  else if 0x21000 ≤ o ∧ o < 0x21100 then s.updTsq ((o - 0x21000) / 0x40) fun x => { x with missed := v }
  else if o = 0x30020 then { s with events := { s.events with logLost := v } }
  else if o = 0x4080C then { s with host := { s.host with ctxBad := v } }
  else if 0x40000 ≤ o ∧ o < 0x60000 then s.updChan ((o - 0x40000) / 0x1000) fun x => { x with cqDropped := v }
  else if 0x100000 ≤ o ∧ o < 0x100200 then s.updRing ((o - 0x100000) / 0x40) fun x => { x with ringLost := v }
  else if o = 0x20002C then { s with pair := { s.pair with dupFullPass := v } }
  else if o = 0x200030 then { s with pair := { s.pair with digestFaults := v } }
  else if o = 0x200034 then { s with pair := { s.pair with frogCount := v } }
  else if o = 0x200038 then { s with pair := { s.pair with aliveRange := v } }
  else s

/-- The RC field at `o` of BAR2 set to `v`. -/
def State.bar2Rc (s : State) (o v : Nat) : State :=
  if o = 0x1C then { s with stats := { s.stats with overrun := v } } else s.updCap fun x => { x with lost := v }

/-- What the register at `o` of a window holds. -/
def State.winReg (s : State) (w : Win) (o : Nat) : Nat :=
  match w with
  | .bar0 => s.bar0Reg o
  | .bar2 => s.bar2Reg o
  | .pf1 => s.pf1Reg o

/-- A read of an RC field returns what it held before this CORE cycle and keeps what hardware has added in it (R11). -/
def State.readRc (s : State) (w : Win) (o : Nat) : Nat × State :=
  let key := if w = .bar2 then bar2Key o else o
  let c := s.cycleNow
  let all := s.winReg w o
  let v := c.before.getD key all
  let s1 := { s with events := { s.events with cycle := if c.before.has key then { c with before := c.before.set key 0 } else c } }
  (v, if w = .bar2 then s1.bar2Rc o (all - v) else s1.bar0Rc o (all - v))

/-- The core whose counters the register at `o` of BAR0 shows (R438). -/
def countsOf (o : Nat) : Option Nat :=
  let n := (o - 0x80000) / 0x100
  if 0x80000 ≤ o ∧ n < 14 ∧ 0x08 ≤ o % 0x100 ∧ o % 0x100 < 0x4C then some n else none

/-- A read of one register: its value and its effect. An RC field is cleared, TAKE captures a slot of its window (R10, R193), the
counters of a core show what its firmware has done, and RX_LPI what has been received (R33). -/
def State.readReg (s : State) (w : Win) (o : Nat) : Nat × State :=
  if isRc w o then s.readRc w o
  else if w = .bar0 ∧ o = 0x20100 then (s.winReg w o, nextOf s (execTake false s))
  else if w = .pf1 ∧ o = 0x100 then (s.winReg w o, nextOf s (execTake true s))
  else if w = .bar2 ∧ 0x100000 ≤ o ∧ o < 0x140000 ∧ o % 0x400 / 8 = 6 then (s.lpiNow.winReg w o, s.lpiNow)
  else if w = .bar0 ∧ (countsOf o).isSome then
    let t := s.coreLook ((countsOf o).getD 0)
    (t.winReg w o, t)
  else (s.winReg w o, s)

/-- The part of a read request that falls on the register at `o` (R25): if one of its bytes is enabled the register is read whole, and each
enabled byte is returned in its own lane. `enables` starts at `first`. -/
def State.readPart (w : Win) (first : Nat) (enables : List Bool) (a : State × List (Option Byte)) (o : Nat) : State × List (Option Byte) :=
  let lanes := (List.range 4).filter fun i => decide (first ≤ o + i ∧ o + i < first + enables.length)
  let on (i : Nat) : Bool := enables.getD (o + i - first) false
  if lanes.any on then
    let r := a.1.readReg w o
    (r.2, a.2 ++ lanes.map fun i => if on i then some (BitVec.ofNat 8 (r.1 / 256 ^ i)) else none)
  else (a.1, a.2 ++ lanes.map fun _ => none)

/-- The registers on which a request of `n` bytes at `first` falls, in ascending order (R25). -/
def regsOf (first n : Nat) : List Nat := (List.range (ceilDiv (first % 4 + n) 4)).map fun i => 4 * (first / 4 + i)

/-- READ_CLEAR_FIELD (R10): A host read of an RC field returns and clears it. -/
def execReadClearField (win : Win) (req : ReadReq) (s : State) : Out :=
  if win.size < req.offset + req.enables.length then .fault .noSuchObject
  else
    let r := (regsOf req.offset req.enables.length).foldl (State.readPart win req.offset req.enables) (s, [])
    .next { r.1 with host := { r.1.host with readData := r.2 } }

/-! ## Writes (R10, R25) -/


/-- The low or the high half of a 64-bit register replaced. -/
def setHalf (v : BitVec 64) (h x : Nat) : BitVec 64 :=
  if h = 0 then BitVec.ofNat 64 (hi32 v.toNat * 2 ^ 32 + x) else BitVec.ofNat 64 (x * 2 ^ 32 + lo32 v.toNat)

/-- A write of `v` to the register at `o` of mailbox `m`, at offset `full` of BAR0 (R443). -/
def State.mbWrite (s : State) (m o full v : Nat) : State :=
  let x := s.mbs.get m
  let b := BitVec.ofNat 32 v
  match o with
  | 0x000 =>
    let s1 := if v.testBit 1 then nextOf s (execMailboxReset m s) else s
    let s2 := if v.testBit 2 then nextOf s1 (execAbortAll m s1) else s1
    if v.testBit 0 then nextOf s2 (execMailboxEnableSet m s2) else nextOf s2 (execMailboxEnableClear m s2)
  | 0x004 => s.updMb m fun y => { y with
      fetchFault := y.fetchFault && !s.clears full v 2, threshHit := y.threshHit && !s.clears full v 3
      indexFault := y.indexFault && !s.clears full v 4 }
  | 0x020 => nextOf s (execSubmitCountWrite m b s)
  | 0x02C => nextOf s (execRespRdCountWrite m b s)
  | 0x030 => nextOf s (execAbortPos m b s)
  | 0x034 => if 10 ≤ v % 65536 ∧ v % 65536 ≤ 60000 then s.updMb m fun y => { y with timeout := v % 65536 } else s.badAccess full
  | 0x038 => if v % 512 ≤ 256 then s.updMb m fun y => { y with thresh := v % 512 } else s.badAccess full
  | _ =>
    if 0x008 ≤ o ∧ o < 0x020 then
      if x.state = .running ∨ x.state = .draining ∨ x.done ≠ x.submit then s.badAccess full
      else
        let h := o % 8 / 4
        let w := if h = 0 then v / 4096 * 4096 else v
        match o / 8 with
        | 1 => s.updMb m fun y => { y with cmdBase := setHalf y.cmdBase h w }
        | 2 => s.updMb m fun y => { y with respBase := setHalf y.respBase h w }
        | _ => s.updMb m fun y => { y with extBase := setHalf y.extBase h w }
    else s

/-- A write to TSQ `q` (R208). -/
def State.tsqWrite (s : State) (q o full v : Nat) : State :=
  match o with
  | 0x00 =>
    if v.testBit 0 then
      let s1 := s.updTsq q fun x => { x with enable := true }
      s1.tsqPoke q (s1.tsqWork q)
    else s.tsqDisable q
  | 0x08 => nextOf s (execTsqRdCountWrite q (BitVec.ofNat 32 v) s)
  | 0x10 => s.updTsq q fun x => { x with
      missedSeen := x.missedSeen && !s.clears full v 1, refusedSeen := x.refusedSeen && !s.clears full v 1
      timeoutSeen := x.timeoutSeen && !s.clears full v 2, threshHit := x.threshHit && !s.clears full v 3 }
  | 0x18 => if 1 ≤ v % 1024 ∧ v % 1024 ≤ 1000 then s.updTsq q fun x => { x with stampTimeout := v % 1024 } else s.badAccess full
  | 0x1C => s.updTsq q fun x => { x with thresh := v % 128 }
  | _ => s

/-- A write to the event controller (R511, R512, R517). -/
def State.evWrite (s : State) (o v : Nat) : State :=
  let e := s.events
  let b := BitVec.ofNat 32 v
  if o = 0x0000 then { s with events := { e with intNEnable := v.testBit 0 } }
  else if o = 0x0014 then nextOf s (execLogRdCountWrite b s)
  else if o = 0x0018 then { s with events := { e with logThresh := v % 2048 } }
  else if o = 0x001C then { s with events := { e with
    logLostSeen := e.logLostSeen && !s.clears 0x3001C v 1, logThreshHit := e.logThreshHit && !s.clears 0x3001C v 2 } }
  else if 0x100 ≤ o ∧ o < 0x180 then
    let i := (o - 0x100) / 4
    let clear := (List.range 32).foldl (fun a k => a + bit (s.clears (0x30100 + 4 * i) v k) k) 0
    { s with events := { e with pending := setReg32 e.pending i (reg32 e.pending i &&& ~~~BitVec.ofNat 32 clear) } }
  else if 0x200 ≤ o ∧ o < 0x280 then nextOf s (execMaskWrite ((o - 0x200) / 4) b s)
  else if 0x400 ≤ o ∧ o < 0x800 ∧ o % 0x10 = 0 then nextOf s (execVecCtrlWrite ((o - 0x400) / 0x10) b s)
  else if 0x1000 ≤ o ∧ o < 0x2000 then
    { s with events := { e with routes := e.routes.set ((o - 0x1000) / 4) { vector := v % 64, intN := v.testBit 8, log := v.testBit 9 } } }
  else if 0x2000 ≤ o ∧ o < 0x2400 then
    { s with events := { e with vecs := e.vecs.upd ((o - 0x2000) / 16) fun x => match o % 16 / 4 with
      | 0 => { x with addr := setHalf x.addr 0 (v / 4 * 4) }
      | 1 => { x with addr := setHalf x.addr 1 v }
      | 2 => { x with data := b }
      | _ => { x with masked := v.testBit 0 } } }
  else s

/-- A write to a register of DMA channel `n` that is held while its chain runs: ignored, with BAD_ACCESS, in RUNNING, WAITING and STALLED
(R505). -/
def State.dmaHeld (s : State) (n full : Nat) (f : Chan → Chan) : State :=
  let st := (s.host.chans.get n).state
  if st = .running ∨ st = .waiting ∨ st = .stalled then s.badAccess full else s.updChan n f

/-- A write to DMA channel `n`, or to the CPU port (R489, R505). -/
def State.dmaWrite (s : State) (n o full v : Nat) : State :=
  match o with
  | 0x00 =>
    let s1 := if v.testBit 0 then nextOf s (execChainStart n s) else s
    if v.testBit 1 then nextOf s1 (execChainAbort n s1) else s1
  | 0x04 => s.updChan n fun x => { x with softReq := v.testBit 0 }
  | 0x08 => s.updChan n fun x => { x with stallSeen := x.stallSeen && !s.clears full v 9 }
  | 0x0C => s.dmaHeld n full fun x => { x with chainAddr := setHalf x.chainAddr 0 (v / 32 * 32) }
  | 0x10 => s.dmaHeld n full fun x => { x with chainAddr := setHalf x.chainAddr 1 v }
  | 0x14 => (s.updChan n fun x => { x with priority := v % 4 }).dmaHeld n full fun x => { x with burst := v / 4 % 4 }
  | 0x18 => s.dmaHeld n full fun x => { x with budget := v }
  | 0x1C => s.updChan n fun x => { x with watchdog := v % 2 ^ 20 }
  | 0x30 => s.dmaHeld n full fun x => { x with cqBase := setHalf x.cqBase 0 (v / 4096 * 4096) }
  | 0x34 => s.dmaHeld n full fun x => { x with cqBase := setHalf x.cqBase 1 v }
  | 0x38 =>
    if v % 16 = 0 ∨ (4 ≤ v % 16 ∧ v % 16 ≤ 12) then s.dmaHeld n full fun x => { x with cqSize := v % 16 } else s.badAccess full
  | 0x40 => nextOf s (execCqRdCountWrite n (BitVec.ofNat 32 v) s)
  | 0x44 => s.updChan n fun x => { x with cqThresh := v % 8192 }
  | _ =>
    if n = 0 ∧ o = 0x800 then { s with host := { s.host with crxMap := BitVec.ofNat 32 (v / 4 * 4) } }
    else if n = 0 ∧ o = 0x808 then nextOf s (execCtxReset (BitVec.ofNat 32 v) s)
    else s

/-- A write to ring `r` (R111, R112). -/
def State.ringRegWrite (s : State) (r o v : Nat) : State :=
  match o with
  | 0x00 => s.updRing r fun x => { x with enable := v.testBit 0 }
  | 0x08 => nextOf s (execRingRdCountWrite r (BitVec.ofNat 32 v) s)
  | 0x0C => s.updRing r fun x => { x with thresh := v % 8192 }
  | 0x10 => s.updRing r fun x => { x with
      lostSeen := x.lostSeen && !s.clears (ringOffset r + 0x10) v 1, threshHit := x.threshHit && !s.clears (ringOffset r + 0x10) v 2 }
  | 0x18 => s.updRing r fun x => { x with idleTimeout := v % 65536 }
  | _ => s

/-- A write to the gauge window (R145, R146): the staging page of a channel inside a region is written. -/
def State.gaugeWrite (s : State) (o v : Nat) : State :=
  let c := s.gauge.gwChannel
  if o = 0 then { s with gauge := { s.gauge with gwChannel := v % 512 } }
  else if o = 4 then s.stageLoad v
  else if o < 0x2000 ∨ (regionOf c).isNone then s
  else
    let p := o - 0x2000
    if p < 0x400 then s.updCG c fun g => { g with stCentre := (g.stCentre.set (p / 2) (v % 65536)).set (p / 2 + 1) (v / 65536) }
    else if p = 0x400 then s.updCG c fun g => { g with stDll := v % 4096 }
    else if p = 0x404 then s.updCG c fun g => { g with stSel := hi32 g.stSel * 2 ^ 32 + v }
    else if p = 0x408 then s.updCG c fun g => { g with stSel := v % 256 * 2 ^ 32 + lo32 g.stSel }
    else if p < 0x41C then s.updCG c fun g => { g with stTrim := g.stTrim.set ((p - 0x40C) / 4) (v % 2 ^ 30) }
    else s

/-- A write of `v` to the whole register at offset `o` of BAR0: fields that the host may not write are left (R10). -/
def State.bar0Write (s : State) (o v : Nat) : State :=
  if o = 0x1C then { s with glob := { s.glob with scratch := BitVec.ofNat 32 v } }
  else if 0x10000 ≤ o ∧ o < 0x20000 then s.mbWrite ((o - 0x10000) / 0x2000) (o % 0x2000) o v
  else if 0x21000 ≤ o ∧ o < 0x21100 then s.tsqWrite ((o - 0x21000) / 0x40) (o % 0x40) o v
  else if 0x30000 ≤ o ∧ o < 0x40000 then s.evWrite (o - 0x30000) v
  else if 0x40000 ≤ o ∧ o < 0x60000 then s.dmaWrite ((o - 0x40000) / 0x1000) (o % 0x1000) o v
  else if 0x100000 ≤ o ∧ o < 0x100200 then s.ringRegWrite ((o - 0x100000) / 0x40) (o % 0x40) v
  else if o = 0x100400 then s.swGateOpen v
  else if o = 0x100404 then s.swGateClose v
  else if 0x140000 ≤ o ∧ o < 0x180000 then s.gaugeWrite (o - 0x140000) v
  else s

/-- A write of `v` to the whole register at offset `o` of BAR2 (R351, R523). -/
def State.bar2Write (s : State) (o v : Nat) : State :=
  match o with
  | 0x0 =>
    let s1 := if v.testBit 0 then nextOf s (execSnapNow s) else s
    if v.testBit 1 then nextOf s1 (execSnapAtFence s1) else s1
  | 0xF000000 => s.updCap fun x => { x with enable := v.testBit 0 }
  | 0xF000008 => nextOf s (execCapRdCountWrite (BitVec.ofNat 32 v) s)
  | 0xF00000C => s.updCap fun x => { x with thresh := v % 2 ^ 19 }
  | 0xF000010 => s.updCap fun x => { x with
      lostSeen := x.lostSeen && !s.clears (bar2Key 0xF000010) v 1, threshHit := x.threshHit && !s.clears (bar2Key 0xF000010) v 2 }
  | 0xF000018 => s.updCap fun x => { x with idleTimeout := v % 65536 }
  | _ => s

/-- A write of one register. Those of PF1 are read only (R26). -/
def State.writeReg (s : State) (w : Win) (o v : Nat) : State :=
  match w with
  | .bar0 => s.bar0Write o v
  | .bar2 => s.bar2Write o v
  | .pf1 => s

/-- The part of a write request that falls on the register at `o`: none of its bytes, all of them, or some (R25). `data` starts at `first`,
none standing for a byte that is not enabled. An offset that the map of a block does not list is a reserved range too, as R194 has it of the
timescale block (log 75), so a partial write there raises nothing; nor does any write to PF1 BAR0 (R26). -/
def State.writePart (s : State) (w : Win) (first : Nat) (data : List (Option Byte)) (o : Nat) : State :=
  let l := (List.range 4).map fun i => if first ≤ o + i then (data.getD (o + i - first) none) else none
  if l.all Option.isNone then s
  else if l.all Option.isSome then s.writeReg w o (ofLe (l.map fun b => b.getD 0))
  else match w with
    | .bar0 => if bar0Listed o then s.badAccess o else s
    | .bar2 => if bar2Listed o then s.badAccess o else s
    | .pf1 => s

/-- REGISTER_WRITE (R25): A host write to any register without a row of its own is applied by access code, or ignored with BAD_ACCESS if partial. -/
def execRegisterWrite (win : Win) (offset : Nat) (data : List (Option Byte)) (s : State) : Out :=
  if win.size < offset + data.length then .fault .noSuchObject
  else .next ((regsOf offset data.length).foldl (fun (t : State) o => t.writePart win offset data o) s)

end Sys2Proof.Machine
end

