-- ==== Sys2Proof/Machine/Moves.lean ====
section
/-!
DEFINITION. MOVE: its operands, its read and write bursts, its gate, the arbiter and its retirement (R491 to R493, R495, R497, R501).
-/
namespace Sys2Proof.Machine

/-! ## Operands of a MOVE (R491, R492) -/

/-- SRC_FIXED. -/
def ChainInstr.srcFixed (i : ChainInstr) : Bool := i.b1.testBit 0
/-- DST_FIXED. -/
def ChainInstr.dstFixed (i : ChainInstr) : Bool := i.b1.testBit 1

/-- The window that a memory space of a MOVE names (R491): BAR0 or BAR2. -/
def winOf (space : Nat) : Win := if space = 2 then .bar2 else .bar0

/-- Whether an operand of a MOVE of `len` bytes is within its space: address and LENGTH of a BAR are multiples of 4 and the bytes lie inside
the BAR; a stream is of the right kind, is FIXED, and LENGTH is a whole number of its granules. -/
def operandOk (space addr len : Nat) (fixed sink : Bool) : Bool :=
  match space with
  | 0 => true
  | 3 => fixed && decide (addr ≤ 20) && (isSink addr == sink) && decide (len % granule addr = 0)
  | k => decide (addr % 4 = 0 ∧ len % 4 = 0 ∧ addr + (if fixed then 4 else len) ≤ (winOf k).size)

/-- Whether a MOVE is within the ranges of R491 and R492. -/
def ChainInstr.moveOk (i : ChainInstr) : Bool :=
  decide (i.b1 < 4 ∧ i.b2 < 4 ∧ i.b3 < 4 ∧ 1 ≤ i.w4 ∧ i.w4 ≤ 16777216 ∧ i.q24 = 0) && !decide (i.b2 = 3 ∧ i.b3 = 3) &&
    operandOk i.b2 i.q8 i.w4 i.srcFixed false && operandOk i.b3 i.q16 i.w4 i.dstFixed true

/-- The power domain that holds the BAR2 range at `o`: the port blocks lie in their lane quadrants, the queue, contract and device blocks
and the capture ring in PD3 (R18, R520). -/
def bar2Domain (o : Nat) : Option Nat :=
  let b := if o < 0x8000000 ∨ 0xF000000 ≤ o then o else o - 0x8000000
  if 0x100000 ≤ b ∧ b < 0x140000 then some (6 + (b - 0x100000) / 0x10000)
  else if 0x200000 ≤ b ∧ b < 0x402000 then some 3
  else if 0xF000000 ≤ b then some 3
  else none

/-- Whether a BAR2 operand names a range whose power domain is off (R501). -/
def State.bar2Off (s : State) (addr len : Nat) (fixed : Bool) : Bool :=
  let last := if fixed then addr else addr + len - 4
  [addr, last].any fun a => match bar2Domain a with | some d => !s.pdOn d | none => false

/-- What stops a burst of a MOVE: DOMAIN or STREAM_FAULT (R501). -/
def State.moveBlocked (s : State) (i : ChainInstr) : Option Nat :=
  if i.b2 = 2 ∧ s.bar2Off i.q8 i.w4 i.srcFixed then some 9
  else if i.b3 = 2 ∧ s.bar2Off i.q16 i.w4 i.dstFixed then some 9
  else if i.b2 = 3 ∧ s.streamOff i.q8 then some 9
  else if i.b3 = 3 ∧ (s.host.ctx.get (i.q16 - 17)).fault then some 8
  else none

/-- The stream that a MOVE names. -/
def ChainInstr.stream (i : ChainInstr) : Option Nat := if i.b2 = 3 then some i.q8 else if i.b3 = 3 then some i.q16 else none

/-- The gate of channel `n` at a burst boundary: WAITING under its timeout while it does not hold (R495). -/
def State.judgeGate (s : State) (n : Nat) : State :=
  match (s.host.chans.get n).gate with
  | none => s
  | some g => if s.gateHolds n g then s else s.updChan n fun y => { y with state := .waiting, deadline := s.waitEnd g.timeout }

/-- MOVE (R493): A DMA instruction that moves bytes between host, BAR or stream spaces in bursts. -/
def execChainMove (chan : Nat) (instr : List Byte) (s : State) : Out :=
  s.chainStep chan 1 instr ChainInstr.moveOk fun i =>
    match (match i.stream with | some k => s.claimStream chan k | none => .inr s) with
    | .inl c => s.haltChan chan c
    | .inr t =>
      match t.moveBlocked i with
      | some c => t.haltChan chan c
      | none => (t.updChan chan fun y => { y with move := some i, moveDone := 0, moveRead := 0, funnel := [] }).judgeGate chan

/-! ## Bursts (R493) -/

/-- Bytes of a burst of a channel: BURST, limited to the max payload size (R505). -/
def State.burstBytes (s : State) (n : Nat) : Nat := min (64 * 2 ^ (s.host.chans.get n).burst) s.host.mps

/-- Bytes from `a` to the next multiple of `k`. -/
def toBoundary (a k : Nat) : Nat := k - a % k

/-- The bytes of a burst at `addr` of a space, of a limit `lim` and `left` bytes to go: an address that increments ends at the next
BURST-aligned boundary, and a HOST burst at a 4 KiB boundary. -/
def burstLen (space addr lim left : Nat) (fixed : Bool) : Nat :=
  let a := min lim left
  let b := if fixed then a else min a (toBoundary addr lim)
  if space = 0 then min b (toBoundary addr 4096) else b

/-- The address at which the burst begins that has `k` bytes before it. -/
def burstAt (addr k : Nat) (fixed : Bool) : Nat := if fixed then addr else addr + k

/-- The bytes of the next read burst of MOVE `i`: within the max read request size from HOST, and the fill of a stream. -/
def State.readLen (s : State) (n : Nat) (i : ChainInstr) : Nat :=
  let x := s.host.chans.get n
  let b := s.burstBytes n
  let l := burstLen i.b2 (burstAt i.q8 x.moveRead i.srcFixed) b (i.w4 - x.moveRead) i.srcFixed
  if i.b2 = 0 then min l s.host.mrrs else if i.b2 = 3 then min l (s.streamFill i.q8) else l

/-- The bytes of the next write burst of MOVE `i`. -/
def State.writeLen (s : State) (n : Nat) (i : ChainInstr) : Nat :=
  let x := s.host.chans.get n
  burstLen i.b3 (burstAt i.q16 x.moveDone i.dstFixed) (s.burstBytes n) (i.w4 - x.moveDone) i.dstFixed

/-- The bytes of `l` bytes of records at the head of stream `k`. -/
def State.streamBytes (s : State) (k l : Nat) : List Byte :=
  if k < 8 then
    let x := s.tdc.rings.get k
    (List.range (l / 16)).flatMap fun i => (List.range 4).flatMap fun w => leBytes 4 ((x.recs.get ((x.rd.toNat + i) % 4096)).word w)
  else if k = 8 then
    let x := s.core.capture
    (List.range (l / 32)).flatMap fun i => (List.range 8).flatMap fun w => leBytes 4 (x.unitWord ((x.rd.toNat + i) % 262144) w)
  else if k ≤ 12 then
    let x := s.time.tsqs.get (k - 9)
    (List.range (l / 16)).flatMap fun i => (List.range 4).flatMap fun w => leBytes 4 ((x.entries.get ((x.rd.toNat + i) % 64)).word w)
  else (s.host.crx.get (k - 13)).bytes.take l

/-- The read position of stream `k` moves on by `l` bytes. -/
def State.streamAdvance (s : State) (k l : Nat) : State :=
  if k < 8 then s.ringAdvance k ((s.tdc.rings.get k).rd + BitVec.ofNat 32 (l / 16))
  else if k = 8 then s.capAdvance (s.core.capture.rd + BitVec.ofNat 32 (l / 32))
  else if k ≤ 12 then s.tsqAdvance (k - 9) ((s.time.tsqs.get (k - 9)).rd + BitVec.ofNat 32 (l / 16))
  else ({ s with host := { s.host with crx := s.host.crx.upd (k - 13) fun x => { x with bytes := x.bytes.drop l } } }).crxJudge (k - 13)

/-- Registers read in ascending order from `o`, with the effects of host reads. -/
def State.readRegs (s : State) (w : Win) (o : Nat) : Nat → List Byte × State
  | 0 => ([], s)
  | k + 1 =>
    let r := s.readReg w o
    let t := r.2.readRegs w (o + 4) k
    (leBytes 4 r.1 ++ t.1, t.2)

/-- Registers written in ascending order from `o`. -/
def State.writeRegs (s : State) (w : Win) (o : Nat) : List Byte → State
  | a :: b :: c :: d :: l => (s.writeReg w o (ofLe [a, b, c, d])).writeRegs w (o + 4) l
  | _ => s

/-- The data of a read burst of `l` bytes, and its effects: `data` is what the host's memory returned. -/
def State.readBurst (s : State) (n : Nat) (i : ChainInstr) (l : Nat) (data : List Byte) : List Byte × State :=
  match i.b2 with
  | 0 => (data, s)
  | 3 => (s.streamBytes i.q8 l, s.streamAdvance i.q8 l)
  | k => s.readRegs (winOf k) (burstAt i.q8 (s.host.chans.get n).moveRead i.srcFixed) (l / 4)

/-- A write burst of bytes `l` at the place the MOVE has reached. -/
def State.writeBurst (s : State) (i : ChainInstr) (a : Nat) (l : List Byte) : State :=
  match i.b3 with
  | 0 => { s with hostMem := hostWrite s.hostMem a l }
  | 3 => s.ctxPut (i.q16 - 17) l
  | k => s.writeRegs (winOf k) a l

/-- Whether channel `n` is still carrying out MOVE `i` as far as byte `k`. -/
def State.moving (s : State) (n : Nat) (i : ChainInstr) (k : Nat) : Bool :=
  let x := s.host.chans.get n
  decide (x.state = .running ∧ x.move = some i ∧ x.moveDone = k)

/-- Whether the next write burst can go: its bytes are in the funnel, and a sink has room for them. -/
def State.writeReady (s : State) (n : Nat) (i : ChainInstr) : Bool :=
  let x := s.host.chans.get n
  let l := s.writeLen n i
  decide (x.moveDone < i.w4 ∧ l ≤ x.funnel.length) && (decide (i.b3 ≠ 3) || decide (l ≤ s.streamFill i.q16))

/-- The write bursts whose bytes the funnel holds, in order; a write that ends the chain, or a sink that enters FAULT, ends them. -/
def State.writeBursts (s : State) (n : Nat) (i : ChainInstr) : Nat → State
  | 0 => s
  | fuel + 1 =>
    if !s.writeReady n i then s
    else match s.moveBlocked i with
      | some c => s.haltChan n c
      | none =>
        let x := s.host.chans.get n
        let l := s.writeLen n i
        let k := x.moveDone + l
        let s1 := s.updChan n fun y => { y with moveDone := k, funnel := y.funnel.drop l }
        let s2 := s1.writeBurst i (burstAt i.q16 x.moveDone i.dstFixed) (x.funnel.take l)
        if s2.moving n i k then s2.writeBursts n i fuel else s2

/-- The boundary after a burst: the MOVE retires once all its writes are issued, or the gate is judged for the next burst. -/
def State.moveBoundary (s : State) (n : Nat) (i : ChainInstr) : State :=
  let x := s.host.chans.get n
  if x.state ≠ .running ∨ x.move ≠ some i then s
  else if x.moveDone = i.w4 then s.updChan n fun y =>
    { y.retire (y.pc + 32) with move := none, moveDone := 0, moveRead := 0, funnel := [], gate := none }
  else s.judgeGate n

/-- The writes that can go, and the boundary. -/
def State.moveWrites (s : State) (n : Nat) (i : ChainInstr) : State :=
  (s.writeBursts n i ((s.host.chans.get n).funnel.length + 1)).moveBoundary n i

/-! ## The arbiter (R497) -/

/-- A mailbox fetch, an instruction fetch or a completion record of any channel asks for the bus: levels 1 and 2 of the arbiter. -/
def State.fetchAsked (s : State) : Bool :=
  (List.range 8).any s.mayFetch ||
    s.host.chans.any fun c => s.fetches c.1 || (!c.2.held.isEmpty && !c.2.cqFull)

/-- Whether channel `n` asks for a data burst. -/
def State.burstAsked (s : State) (n : Nat) : Bool :=
  let x := s.host.chans.get n
  decide (x.state = .running) && x.move.isSome

/-- How far channel `n` is from its turn within its PRIORITY: round-robin from the channel served last. -/
def State.turnOf (s : State) (n : Nat) : Nat := (n + 31 - s.host.rr.get (s.host.chans.get n).priority) % 32

/-- Whether a data burst of channel `c` goes before one of channel `n`: a higher PRIORITY, or an earlier turn of the same. -/
def State.burstBefore (s : State) (c n : Nat) : Bool :=
  let p := (s.host.chans.get c).priority
  let q := (s.host.chans.get n).priority
  s.burstAsked c && (decide (q < p) || (decide (p = q) && decide (s.turnOf c < s.turnOf n)))

/-- Whether the arbiter has something to serve before a data burst of channel `n`. -/
def State.burstBehind (s : State) (n : Nat) : Bool :=
  s.fetchAsked || s.host.chans.any fun c => s.burstBefore c.1 n

/-- The arbiter serves a data burst of channel `n`: it is the last one served of its PRIORITY. -/
def State.burstServed (s : State) (n : Nat) : State :=
  { s with host := { s.host with rr := s.host.rr.set (s.host.chans.get n).priority n } }

/-- The turn of channel `n` at a burst opportunity: what comes before it is served first, unless at this opportunity that has no request at
the arbiter, whose reads may all be outstanding (8 for a channel, 256 for the device): the spec does not give when a request stands
there, so that is a free value. -/
def State.burstTurn (s : State) (n : Nat) : Bool × State :=
  if s.burstBehind n then
    let r := s.takeFree
    (decide (r.1 % 2 = 1), r.2)
  else (true, s)

/-- One burst of the MOVE that channel `chan` carries out; `data` is what the host's memory returned (R493, R495). -/
def State.dataBurst (s : State) (chan : Nat) (data : List Byte) : Out :=
  let x := s.host.chans.get chan
  match x.move with
  | none => .next s
  | some i =>
    let open_ : Bool := match x.gate with | some g => s.gateHolds chan g | none => true
    let pending : Bool := decide (x.moveRead = i.w4) || decide (x.moveDone < i.w4 ∧ s.writeLen chan i ≤ x.funnel.length)
    let l := if pending then 0 else s.readLen chan i
    if x.state ≠ .running ∨ !s.host.bme then .next s
    else if !open_ then .next (s.judgeGate chan)
    else match s.moveBlocked i with
      | some c => .next (s.haltChan chan c)
      | none =>
        if data.length ≠ (if i.b2 = 0 then l else 0) then .fault .impossibleInput
        else if pending then .next (s.moveWrites chan i)
        else if l = 0 then .next s
        else
          let r := s.readBurst chan i l data
          let s1 := r.2
          if !s1.moving chan i x.moveDone then .next s1
          else .next ((s1.updChan chan fun y =>
            { y with moveRead := y.moveRead + l, funnel := y.funnel ++ r.1 }).moveWrites chan i)

/-- DMA_BURST (R493): One burst of a MOVE completes, advancing stream positions and re-evaluating a gate. -/
def execDmaBurst (chan : Nat) (data : List Byte) (s : State) : Out :=
  if 32 ≤ chan then .fault .noSuchObject
  else if (s.host.chans.get chan).move.isNone then .next s
  else
    let r := s.burstTurn chan
    if r.1 then (r.2.burstServed chan).dataBurst chan data else .next r.2

end Sys2Proof.Machine
end

