-- ==== Sys2Proof/Machine/Bodies.lean ====
section
/-!
DEFINITION. The commands that an overlay may hold, each with the own checks and effect of its family (R427).
-/
namespace Sys2Proof.Machine

/-- What a command that an overlay may hold comes to; any other command is not permitted (R427). -/
def overlayBody (i : Instr) (s : State) : Rep :=
  match i with
  | .mclkConfigureChannel _ enable chan source sourceIdx selector fNum fDen freqLim hitLim actLim coastLim bandwidth orbitLen marker markerIdx markOffset frameLen => bodyMclkConfigureChannel enable chan source sourceIdx selector fNum fDen freqLim hitLim actLim coastLim bandwidth orbitLen marker markerIdx markOffset frameLen s
  | .mclkConfigureOutput _ squelch output chan mode m d offset slewLim w swing => bodyMclkConfigureOutput squelch output chan mode m d offset slewLim w swing s
  | .stitchConfigureGroup _ group action mask port => bodyStitchConfigureGroup group action mask port s
  | .stitchConfigureTrigger _ enable seqReset source channel kind target spacing seq => bodyStitchConfigureTrigger enable seqReset source channel kind target spacing seq s
  | .stitchConfigureBroadcast _ chan phaseTarget setInterval bcnTarget bcnInterval => bodyStitchConfigureBroadcast chan phaseTarget setInterval bcnTarget bcnInterval s
  | .stitchConfigurePort _ compensate rxLog port relayTrig relayTimed relayUser errThr => bodyStitchConfigurePort compensate rxLog port relayTrig relayTimed relayUser errThr s
  | .parseConfigurePort _ trustPcp trustDscp port malformed lenConflict profile pcpMap dscpMap defClass => bodyParseConfigurePort trustPcp trustDscp port malformed lenConflict profile pcpMap dscpMap defClass s
  | .parseConfigureExtract _ enable0 enable1 profile cond0 anchor0 offset0 width0 cond1 anchor1 offset1 width1 => bodyParseConfigureExtract enable0 enable1 profile cond0 anchor0 offset0 width0 cond1 anchor1 offset1 width1 s
  | .aclStage src part bytes => bodyAclStage src part bytes s
  | .aclCommit src copy capture setClass steer redirect entry kind tc profile port => bodyAclCommit src copy capture setClass steer redirect entry kind tc profile port s
  | .aclDelete _ entry => bodyAclDelete entry s
  | .steerConfigureProfile _ symmetric profile mode fields seed field sh m b absent => bodySteerConfigureProfile symmetric profile mode fields seed field sh m b absent s
  | .steerWrite _ table first count entries => bodySteerWrite table first count entries s
  | .slowConfigure _ reason rate burst => bodySlowConfigure reason rate burst s
  | .classSetMap _ kind map first count classes => bodyClassSetMap kind map first count classes s
  | .bufferConfigureClass _ cls cl spillOn returnLow => bodyBufferConfigureClass cls cl spillOn returnLow s
  | .queueConfigure _ port cls ql weight => bodyQueueConfigure port cls ql weight s
  | .portConfigureEgress _ cut port limit => bodyPortConfigureEgress cut port limit s
  | .skeinConfigure _ spill cls => bodySkeinConfigure spill cls s
  | .classSetKind _ port cls kind => bodyClassSetKind port cls kind s
  | .contractSet _ replace port cls lMax rate burst fmax mask => bodyContractSet replace port cls lMax rate burst fmax mask s
  | .contractDelete _ port cls => bodyContractDelete port cls s
  | .guaranteedPoolSet _ size => bodyGuaranteedPoolSet size s
  | .vlanConfigure _ enable l3 vid members untagged unknown floodMgid rmac => bodyVlanConfigure enable l3 vid members untagged unknown floodMgid rmac s
  | .portSetPvid _ port pvid => bodyPortSetPvid port pvid s
  | .routerMacSet _ index mac => bodyRouterMacSet index mac s
  | .l2Add _ replace vid da result => bodyL2Add replace vid da result s
  | .l2Delete _ vid da => bodyL2Delete vid da s
  | .nhWrite _ decTtl nh port vid da rmac => bodyNhWrite decTtl nh port vid da rmac s
  | .nhDelete _ nh => bodyNhDelete nh s
  | .hostAdd _ replace family addr result => bodyHostAdd replace family addr result s
  | .hostDelete _ family addr => bodyHostDelete family addr s
  | .lpmAdd _ replace family pfx length result => bodyLpmAdd replace family pfx length result s
  | .lpmDelete _ family pfx length => bodyLpmDelete family pfx length s
  | .memberStage src first count members => bodyMemberStage src first count members s
  | .ecmpCommit src group count profile => bodyEcmpCommit src group count profile s
  | .ecmpDelete _ group => bodyEcmpDelete group s
  | .mcastCommit src aon prune mgid count => bodyMcastCommit src aon prune mgid count s
  | .tableClearLost _ table location => bodyTableClearLost table location s
  | _ => .fail stNotPermitted []

end Sys2Proof.Machine
end

