-- ==== Sys2Proof/Machine/Images.lean ====
section
/-!
DEFINITION. Overlays and images by command: loading, trial, arming, disarming, status, erasure and the switch (R427 to R431, R439); and
what a setting comes to that its unit cannot take up at once (R397).
-/
namespace Sys2Proof.Machine

/-! ## Settings put in force whatever the unit's own state (R397) -/

/-- A setting that has been decided is put in force on a unit whose own state does not allow it at once: a contract is SUSPENDED, the
guaranteed pool takes its cells as they become free, and spill takes effect once the skein is READY; none for another command. -/
def State.force (s : State) (i : Instr) : Option State :=
  match i with
  | .contractSet _ _ port cls lMax rate burst fmax mask =>
    let k := contractKey port cls
    let x := s.newContract k lMax rate burst fmax mask
    let t := s.contracts.table.set k x
    if (s.contracts.table.get k).state = .draining ∧ s.contracts.table.has k then none
    else match s.infeasible t k x with
      | some f => some { s with contracts := { s.contracts with table := t.set k { x with state := .suspended, susCode := f.1 } } }
      | none => some { s with contracts := { s.contracts with table := t } }
  | .guaranteedPoolSet _ size => some (s.takePool size)
  | .skeinConfigure _ spill cls =>
    some { s with core := { s.core with classes := s.core.classes.upd cls fun x => { x with spill := spill } } }
  | _ => none

/-! ## The contents of an overlay (R427) -/

/-- The opcodes that an overlay may hold. -/
def overlayOp (op : Nat) : Bool :=
  ((decide (op / 256 = 4 ∨ op / 256 = 5)) && !readOnly op) || [0x0901, 0x0902, 0x0905, 0x0906, 0x0907, 0x0908].contains op

/-- A contained command by its entry: none where its layout or opcode does not allow it, with the status. -/
def containedCmd (src : CmdSrc) (c : RawCmd) : Sum Nat Instr :=
  if 2 ≤ c.flags then .inl stRange
  else match decodeCmd src c.opcode c.params with
    | none => .inl stUnknownOp
    | some i => if (layoutError c.opcode (familyV6 i) c.params).isSome then .inl stRange else .inr i

/-- The larger of each contract's old and new BURST and RATE (R372). -/
def transitional (old new : ContractTbl) : ContractTbl :=
  new.mapAll fun k x => match old.find k with
    | some y => { x with burst := max x.burst y.burst, rate := max x.rate y.rate }
    | none => x

/-- Σ of the larger of each contract's old and new RES (R372). -/
def transitionalRes (old new : ContractTbl) : Nat :=
  new.foldl (fun a x => a + max x.2.res (match old.find x.1 with | some y => y.res | none => 0)) 0

/-- The check of R365 that stands for the old L_MAX after the switch: `old` are the contracts in force (R372). -/
def State.transitionOk (s : State) (old : ContractTbl) (i : Instr) : Bool :=
  let sum := transitionalRes old s.contracts.table
  match i with
  | .contractSet _ _ port cls _ _ _ _ _ =>
    let k := contractKey port cls
    let t := transitional old s.contracts.table
    (s.infeasible t k (t.get k)).isNone && decide (sum ≤ s.core.gpSize ∧ sum ≤ 114688)
  | .guaranteedPoolSet _ size => decide (sum ≤ size)
  | _ => true

/-- The trial of one command of overlay `n` in state `s`: the state it leads to, or the status with which it fails (R428). -/
def State.trialCmd (s : State) (old : ContractTbl) (n : Nat) (c : RawCmd) : Sum Nat State :=
  if !overlayOp c.opcode then .inl stNotPermitted
  else match containedCmd (.overlay n) c with
    | .inl st => .inl st
    | .inr i =>
      match overlayBody i s with
      | .ok t _ => if t.transitionOk old i then .inr t else .inl stInfeasible
      | .later t _ => .inr t
      | .range _ => .inl stRange
      | .fail st _ => .inl st
      | .done _ st _ => .inl st

/-- The trial of a list of commands: the index and status of the first that fails. -/
def State.trial (s : State) (old : ContractTbl) (n k : Nat) : List RawCmd → Option (Nat × Nat)
  | [] => none
  | c :: cs =>
    match s.trialCmd old n c with
    | .inl st => some (k, st)
    | .inr t => t.trial old n (k + 1) cs

/-- Overlay slot `n` changed by `f`. -/
def State.updOverlay (s : State) (n : Nat) (f : Overlay → Overlay) : State :=
  { s with fw := { s.fw with overlays := s.fw.overlays.upd n f } }

/-- The staging buffers of overlay `n` are empty. -/
def State.clearStage (s : State) (n : Nat) : State := s.updOverlay n fun o => { o with aclStage := [], memStage := [] }

/-! ## The switch (R429) -/

/-- One command of overlay `n` takes effect. -/
def State.applyOverlayCmd (s : State) (n : Nat) (c : RawCmd) : State :=
  match containedCmd (.overlay n) c with
  | .inl _ => s
  | .inr i =>
    match overlayBody i s with
    | .ok t _ => t
    | .done t _ _ => t
    | .later t _ => t
    | .range _ => s
    | .fail _ _ => (s.force i).getD s

/-- Every command of overlay `n` takes effect in one CORE cycle, which took fence epoch `e`: the slot is LOADED again, the staging buffers
of every mailbox are empty, and other overlays are to be validated again. -/
def State.overlaySwitch (s : State) (n e : Nat) : State :=
  let cmds := (s.fw.overlays.get n).img.cmds
  let s1 := (s.updOverlay n fun o => { o with state := .loaded, src := .direct, applied := o.applied + 1 }).clearStage n
  let s2 := (cmds.foldl (fun (t : State) c => t.applyOverlayCmd n c) s1).clearStage n
  let s3 := s2.dependentChange
  let s4 := { s3 with
    mbs := s3.mbs.mapAll fun _ x => { x with aclStage := [], memStage := [] }
    fw := { s3.fw with lastOverlay := some (n, e) }
    pair := { s3.pair with lastApply := s3.now } }
  s4.raise 799 Ev.overlayApplied [.u 8 e]

/-- The switch of a slot armed in mode TIME, now: it takes the next fence epoch, whose markers enter every stream (R429, R462). -/
def State.timeSwitch (s : State) (n : Nat) : State :=
  let s1 := (s.placeFence .direct s.tick true).fencesTo s.tick
  let e := s1.fence.epoch
  let s2 := { s1 with fence := { s1.fence with active := s1.fence.active.filter fun a => a.epoch ≠ e } }
  s2.overlaySwitch n e

/-- The slot that is ARMED. -/
def State.armedSlot (s : State) : Option (Nat × Overlay) := s.fw.overlays.find? fun p => decide (p.2.state = .armed)

/-- The admission marker of an IMG_ARM of mode FENCE is reached: its slot switches and the command completes, or it fails where the slot has
been disarmed. -/
def State.fenceSwitch (s : State) (a : ActiveFence) : State :=
  let s1 := { s with fence := { s.fence with active := s.fence.active.filter fun b => b.epoch ≠ a.epoch } }
  match s1.armedSlot with
  | some p =>
    if !p.2.timeMode ∧ p.2.src = a.src then (s1.overlaySwitch p.1 a.epoch).finish a.src 0x0203 (s.okStatus a.src 0x0203) 0 [.u 8 a.epoch]
    else s1.finish a.src 0x0203 stBadState 0 []
  | none => s1.finish a.src 0x0203 stBadState 0 []

/-- OVERLAY_SWITCH (R429): At the switch instant the armed overlay's commands apply in one CORE cycle with the next fence epoch. -/
def execOverlaySwitch (s : State) : Out :=
  if !s.time.tickOn then .next s
  else match s.fence.active.find? fun a => a.arm with
    | some a => .next ((s.advanceTick a.f).fenceSwitch a)
    | none => match s.armedSlot with
      | some p => if p.2.timeMode then .next ((s.advanceTick (s.fireTick p.2.t)).timeSwitch p.1) else .next s
      | none => .next s

/-! ## Commands (R428, R439) -/

/-- A refused image: IMAGE_REFUSED with the number of the check (R423). -/
def State.imageRefused (s : State) (check st : Nat) : Rep := .done (s.raise 799 Ev.imageRefused [.u 1 check]) st []

/-- What the own checks and effect of IMG_LOAD come to (R423, R428, R439). -/
def bodyImgLoad (target addr length : Nat) (data : Option (List Byte)) (s : State) : Rep :=
  let base := decide (target = 16)
  Rep.ranges [decide (target ≤ 16), decide (addr % 4 = 0), decide (576 ≤ length ∧ length ≤ if base then 16777216 else 262144)] <|
    match data with
    | none => .fail stTimeout []
    | some b =>
      match s.verifyImage base b with
      | .inl f => s.imageRefused f.1 f.2
      | .inr i =>
        if base then .ok { s with fw := { s.fw with copies := s.fw.copies.set (1 - s.fw.baseCopy) (some i) } } []
        else if (s.fw.overlays.get target).state = .armed then Rep.badState
        else .ok ((s.updOverlay target fun _ => { state := .loaded, img := i }).raise 799 Ev.imageLoaded) []

/-- IMG_LOAD (R428): Loads an image from host memory into an overlay slot or into the inactive base copy after verifying it. -/
def execImgLoad (src : CmdSrc) (target addr length : Nat) (data : Option (List Byte)) (s : State) : Out :=
  match data with
  | some b =>
    if b.length = length then .next (s.runCmd (.imgLoad src target addr length data) src 0x0201 (bodyImgLoad target addr length data))
    else .fault .impossibleInput
  | none => .next (s.runCmd (.imgLoad src target addr length data) src 0x0201 (bodyImgLoad target addr length data))

/-- What the own checks and effect of IMG_VALIDATE come to (R428). -/
def bodyImgValidate (src : CmdSrc) (slot : Nat) (s : State) : Rep :=
  Rep.ranges [decide (slot < 16)] <|
    let o := s.fw.overlays.get slot
    let pass : State := s.updOverlay slot fun x => { x with state := .valid }
    if o.state ≠ .loaded ∧ o.state ≠ .valid then Rep.badState
    else match src with
      | .journal _ _ => .ok pass []
      | _ => match (s.clearStage slot).trial s.contracts.table slot 0 o.img.cmds with
        | some f => .fail f.2 [.u 2 f.1]
        | none => .ok pass []

/-- Arming in mode FENCE: the slot and its marker F at once, or once every earlier command has completed (R429, R431, R463). -/
def State.armFence (s : State) (src : CmdSrc) (slot : Nat) : Rep :=
  let journaled : Bool := match src with | .journal _ _ => true | _ => s.pair.enable && decide (s.pair.role = .active) && s.partnerStandby
  if journaled || s.earlierDone (s.earlierOf src) then
    match s.armSlot slot src (if journaled then s.tick else s.fenceAt src) with
    | some t => .later t true
    | none => Rep.badState
  else .later ({ s with fence := { s.fence with waiting := s.fence.waiting ++ [src] } }.updOverlay slot fun o => { o with src := src }) false

/-- What the own checks and effect of IMG_ARM come to (R429). -/
def bodyImgArm (src : CmdSrc) (slot mode : Nat) (t : KTime) (s : State) : Rep :=
  Rep.ranges [decide (slot < 16), decide (mode < 2),
      if mode = 0 then decide (t.sec = 0 ∧ t.ns = 0 ∧ t.sub = 0)
      else decide (t.ns < 1000000000 ∧ s.ktime + msU ≤ KTime.units t ∧ (KTime.units t : Int) ≤ s.ktime + 1000000 * secU)] <|
    if (s.fw.overlays.get slot).state ≠ .valid then Rep.badState
    else if s.armedSlot.isSome then .fail stBusy []
    else if mode = 1 then .ok (s.updOverlay slot fun o => { o with state := .armed, timeMode := true, t := KTime.units t, src := .direct }) []
    else s.armFence src slot

/-- What the own checks and effect of IMG_DISARM come to (R430). -/
def bodyImgDisarm (slot : Nat) (s : State) : Rep :=
  Rep.ranges [decide (slot < 16)] <|
    let o := s.fw.overlays.get slot
    if o.state ≠ .armed ∨ !o.timeMode then Rep.badState
    else if o.t ≤ s.wTime then .done (s.timeSwitch slot) stBadState []
    else .ok (s.updOverlay slot fun x => { x with state := .valid }) []

/-- The code of a slot state, in the order of R428. -/
def OvState.code : OvState → Nat
  | .empty => 0 | .loaded => 1 | .valid => 2 | .armed => 3

/-- What the own checks and effect of IMG_GET_STATUS come to (R439). -/
def bodyImgGetStatus (slot : Nat) (s : State) : Rep :=
  Rep.ranges [decide (slot < 16 ∨ slot = 0xFF)] <|
    let last := [Fld.u 2 (match s.fw.lastOverlay with | some p => p.1 | none => 0xFFFF),
      .u 8 (match s.fw.lastOverlay with | some p => p.2 | none => 0)]
    let info (st : Nat) (i : ImgInfo) (mode : Nat) (t : Int) (n : Nat) : List Fld :=
      [Fld.u 1 st, .u 8 i.epoch, .u 4 i.secVersion, .u 4 i.length, .u 1 mode, .ktime t, .u 4 n] ++ last
    if slot = 0xFF then .ok s (info 0 s.fw.base_ 0 0 0)
    else
      let o := s.fw.overlays.get slot
      let timed := decide (o.state = .armed) && o.timeMode
      .ok s (info o.state.code o.img (flag timed 1) (if timed then o.t else 0) o.applied)

/-- What the own checks and effect of IMG_ERASE come to (R428). -/
def bodyImgErase (slot : Nat) (s : State) : Rep :=
  Rep.ranges [decide (slot < 16)] <|
    if (s.fw.overlays.get slot).state = .armed then Rep.badState else .ok (s.updOverlay slot fun _ => {}) []

/-- IMG_VALIDATE (R428): Applies every command of an overlay as a trial and moves the slot to VALID if all would succeed. -/
def execImgValidate (src : CmdSrc) (slot : Nat) (s : State) : Out :=
  .next (s.runCmd (.imgValidate src slot) src 0x0202 (bodyImgValidate src slot))

/-- IMG_ARM (R429): Arms a valid overlay to switch at a fence or at a given KTIME. -/
def execImgArm (src : CmdSrc) (slot mode : Nat) (t : KTime) (s : State) : Out :=
  .next (s.runCmd (.imgArm src slot mode t) src 0x0203 (bodyImgArm src slot mode t))

/-- IMG_DISARM (R430): Disarms an armed overlay, racing its TIME switch with exactly one outcome reported. -/
def execImgDisarm (src : CmdSrc) (slot : Nat) (s : State) : Out :=
  .next (s.runCmd (.imgDisarm src slot) src 0x0204 (bodyImgDisarm slot))

/-- IMG_GET_STATUS (R439): Returns the state and identity of an overlay slot or of the base image. -/
def execImgGetStatus (src : CmdSrc) (slot : Nat) (s : State) : Out :=
  .next (s.runCmd (.imgGetStatus src slot) src 0x0205 (bodyImgGetStatus slot))

/-- IMG_ERASE (R428): Empties an overlay slot that is not ARMED. -/
def execImgErase (src : CmdSrc) (slot : Nat) (s : State) : Out :=
  .next (s.runCmd (.imgErase src slot) src 0x0206 (bodyImgErase slot))


end Sys2Proof.Machine
end

