-- ==== Sys2Proof/Machine/Commands.lean ====
section
/-!
DEFINITION. Every mailbox command by its own checks and effect, for the sources other than a mailbox: the CONFIG section of the base image and
the lifeline's journal (R397, R426).
-/
namespace Sys2Proof.Machine

/-- What the own checks and effect of a command come to; a row that is no mailbox command has no opcode (R458). -/
def commandBody (i : Instr) (s : State) : Rep :=
  match i with
  | .nop _ bytes => bodyNop bytes s
  | .fence src => bodyFence src s
  | .sysPowerDomain _ on domain => bodySysPowerDomain on domain s
  | .sysGetStatus _ => bodySysGetStatus s
  | .sysSetBoard src param period region base length mask => bodySysSetBoard src param period region base length mask s
  | .sysReset _ kind => bodySysReset kind s
  | .sysGetPower _ => bodySysGetPower s
  | .sysGetThermal _ => bodySysGetThermal s
  | .sysConfigureThermal _ warn throttleAt hyst fraction => bodySysConfigureThermal warn throttleAt hyst fraction s
  | .sysSetSensor _ sensor mark => bodySysSetSensor sensor mark s
  | .imgLoad _ target addr length data => bodyImgLoad target addr length data s
  | .imgValidate src slot => bodyImgValidate src slot s
  | .imgArm src slot mode t => bodyImgArm src slot mode t s
  | .imgDisarm _ slot => bodyImgDisarm slot s
  | .imgGetStatus _ slot => bodyImgGetStatus slot s
  | .imgErase _ slot => bodyImgErase slot s
  | .portConfigure _ port mode width fec maxFrame => bodyPortConfigure port mode width fec maxFrame s
  | .portCastOn _ port => bodyPortCastOn port s
  | .portBindOff src port drain => bodyPortBindOff src port drain s
  | .portSetPolicy _ port castTimeout holdDown flapLimit flapWindow recast => bodyPortSetPolicy port castTimeout holdDown flapLimit flapWindow recast s
  | .laneGetStatus _ lane => bodyLaneGetStatus lane s
  | .laneGetLatency _ lane => bodyLaneGetLatency lane s
  | .laneSetChannelTable _ sect => bodyLaneSetChannelTable sect s
  | .laneRelatch _ lane => bodyLaneRelatch lane s
  | .laneSwatch _ clear lane action txPattern rxPattern loopback injKind injArg => bodyLaneSwatch clear lane action txPattern rxPattern loopback injKind injArg s
  | .laneSweep _ lane vga dwell => bodyLaneSweep lane vga dwell s
  | .laneSweepRead _ lane page => bodyLaneSweepRead lane page s
  | .selvedgeConfigure _ port slots markInterval outlier rangeTimeout => bodySelvedgeConfigure port slots markInterval outlier rangeTimeout s
  | .selvedgeGetRange _ port => bodySelvedgeGetRange port s
  | .moduleRead _ module bank page offset length => bodyModuleRead module bank page offset length s
  | .moduleWrite _ module bank page offset length data => bodyModuleWrite module bank page offset length data s
  | .tdcConfigureEvt _ enable regression channel edge hyst holdoff prescaler ring offset rateLimit silence => bodyTdcConfigureEvt enable regression channel edge hyst holdoff prescaler ring offset rateLimit silence s
  | .tdcConfigureGroup _ group mode level pulse maxLen => bodyTdcConfigureGroup group mode level pulse maxLen s
  | .tdcSetInterval _ enable engine start stop window ring => bodyTdcSetInterval enable engine start stop window ring s
  | .tdcGetChannel _ clear channel => bodyTdcGetChannel clear channel s
  | .tdcGetLane _ lane => bodyTdcGetLane lane s
  | .tdcSetLaneWindow _ w => bodyTdcSetLaneWindow w s
  | .tdcCaptureTap _ lane action ring d => bodyTdcCaptureTap lane action ring d s
  | .gaugeConfigure _ trigger minInterval target runTimeout retry periodic source18 source19 => bodyGaugeConfigure trigger minInterval target runTimeout retry periodic source18 source19 s
  | .gaugeRun _ region => bodyGaugeRun region s
  | .gaugeFull _ force region => bodyGaugeFull force region s
  | .gaugeGetStatus _ region => bodyGaugeGetStatus region s
  | .gaugeRestore _ force region mode => bodyGaugeRestore force region mode s
  | .gaugeHold _ duration => bodyGaugeHold duration s
  | .refConfigureSlot _ enable override esmc slot fNum fDen div edge source prio level acceptLim rejectLim rejectHold acceptHold hitLim hitBudget coastLim => bodyRefConfigureSlot enable override esmc slot fNum fDen div edge source prio level acceptLim rejectLim rejectHold acceptHold hitLim hitBudget coastLim s
  | .refConfigureSelection _ qlMode revert wtr tieLimit tieHold freeLevel avgTime guardTime inSpec => bodyRefConfigureSelection qlMode revert wtr tieLimit tieHold freeLevel avgTime guardTime inSpec s
  | .refConfigureDpll _ trackBw acqBw slope lockThr lossThr => bodyRefConfigureDpll trackBw acqBw slope lockThr lossThr s
  | .refCommand _ slot action => bodyRefCommand slot action s
  | .refGetSlot _ slot => bodyRefGetSlot slot s
  | .refGetDpll _ => bodyRefGetDpll s
  | .refSteer _ action value timeout level => bodyRefSteer action value timeout level s
  | .refConfigurePpsOut _ enable output offset width slew squelch => bodyRefConfigurePpsOut enable output offset width slew squelch s
  | .refConfigureClkout _ enable output fNum fDen mode offset slew swing squelch => bodyRefConfigureClkout enable output fNum fDen mode offset slew swing squelch s
  | .refGetClkout _ output => bodyRefGetClkout output s
  | .timeSet src target => bodyTimeSet src target s
  | .timeStep src ns sub => bodyTimeStep src ns sub s
  | .timeSetRate src rate => bodyTimeSetRate src rate s
  | .timeSetControl src control => bodyTimeSetControl src control s
  | .timeGet src => bodyTimeGet src s
  | .timeSetUtc src leap61 leap59 offset => bodyTimeSetUtc src leap61 leap59 offset s
  | .secSetStepGuard src g v => bodySecSetStepGuard src g v s
  | .secAuthoriseStep src direction magnitude validity => bodySecAuthoriseStep src direction magnitude validity s
  | .ptpConfigureInstance _ enable slaveOnly inst profile domain identity prio1 prio2 localPrio => bodyPtpConfigureInstance enable slaveOnly inst profile domain identity prio1 prio2 localPrio s
  | .ptpConfigurePort _ masterOnly port inst transport dest addr logSync logDelay logAnnounce annTimeout syncTimeout delayTimeout twoStep localPrio coastLimit maxPath delayOutlier offsetOutlier filterLen => bodyPtpConfigurePort masterOnly port inst transport dest addr logSync logDelay logAnnounce annTimeout syncTimeout delayTimeout twoStep localPrio coastLimit maxPath delayOutlier offsetOutlier filterLen s
  | .ptpGetInstance _ inst => bodyPtpGetInstance inst s
  | .ptpGetPort _ clear port => bodyPtpGetPort clear port s
  | .ptpConfigureTc _ mode domains => bodyPtpConfigureTc mode domains s
  | .servoConfigure _ mode slot bandwidth maxSlew stepThr lockThr ppsOffset => bodyServoConfigure mode slot bandwidth maxSlew stepThr lockThr ppsOffset s
  | .servoGet _ => bodyServoGet s
  | .asymConfigure _ port mode c alpha partner lambdaOut lambdaIn k avg qLimit coast agree => bodyAsymConfigure port mode c alpha partner lambdaOut lambdaIn k avg qLimit coast agree s
  | .asymGet _ port => bodyAsymGet port s
  | .mclkGet _ chan => bodyMclkGet chan s
  | .mclkSetOrbit _ given chan t bunch orbit => bodyMclkSetOrbit given chan t bunch orbit s
  | .stitchSend src type target payload => bodyStitchSend src type target payload s
  | .stitchSendTimed _ target code e lead r => bodyStitchSendTimed target code e lead r s
  | .stitchCancelTimed _ handle => bodyStitchCancelTimed handle s
  | .stitchGetPort _ clear port => bodyStitchGetPort clear port s
  | .stitchGetSequencer _ clear => bodyStitchGetSequencer clear s
  | .aclRead _ clear entry part => bodyAclRead clear entry part s
  | .steerRead _ table first count => bodySteerRead table first count s
  | .parseGetCounts _ clear port => bodyParseGetCounts clear port s
  | .skeinGetStatus _ clear => bodySkeinGetStatus clear s
  | .coreGetQueue _ clear port cls => bodyCoreGetQueue clear port cls s
  | .bufferGetStatus _ => bodyBufferGetStatus s
  | .captureConfigure _ enable trigger snap port k mask => bodyCaptureConfigure enable trigger snap port k mask s
  | .contractCheck _ replace port cls lMax rate burst fmax mask => bodyContractCheck replace port cls lMax rate burst fmax mask s
  | .contractGet _ clear port cls => bodyContractGet clear port cls s
  | .tableLookup _ table key => bodyTableLookup table key s
  | .tableReadIndex _ table location => bodyTableReadIndex table location s
  | .tableGetUsage _ clear => bodyTableGetUsage clear s
  | .pairConfigure src enable cycle lead commitTimeout joinTimeout watchdog skewGuard window chunkAge closeTimeout outcomeTimeout etherType plAsym => bodyPairConfigure src enable cycle lead commitTimeout joinTimeout watchdog skewGuard window chunkAge closeTimeout outcomeTimeout etherType plAsym s
  | .pairConfigurePort _ port attach source base count untagged => bodyPairConfigurePort port attach source base count untagged s
  | .pairGetStatus _ clear => bodyPairGetStatus clear s
  | .pairSwitchover src => bodyPairSwitchover src s
  | .pairResync _ => bodyPairResync s
  | .pairTest _ duration => bodyPairTest duration s
  | .pairGetDigest _ clear source => bodyPairGetDigest clear source s
  | .pairGetDup _ source => bodyPairGetDup source s
  | .secChallenge _ role level => bodySecChallenge role level s
  | .secResponse _ part bytes => bodySecResponse part bytes s
  | .secClose _ => bodySecClose s
  | .secDebugLock _ => bodySecDebugLock s
  | .secRevokeKey _ slot => bodySecRevokeKey slot s
  | .secSetMinVersion _ minimum => bodySecSetMinVersion minimum s
  | .secGetStatus _ => bodySecGetStatus s
  | .counterClear _ block first count => bodyCounterClear block first count s
  | .eventInject _ source cause data => bodyEventInject source cause data s
  | i => overlayBody i s

end Sys2Proof.Machine
end

