-- ==== Sys2Proof/Machine/Apply.lean ====
section
/-!
DEFINITION. What the pair does as a whole: the standby's journal, promotion, lost partners, apply boundaries, health, time and alignment
(R379 to R384, R396 to R401, R406 to R409, R474); the end of the boot configuration (R426, R533); and the end of a Keeper restart (R29, R471).
-/
namespace Sys2Proof.Machine

/-! ## Commands from the journal and the boot configuration -/

/-- Whether R400 lets a mirrored command through on a unit that is not ACTIVE, though it does more than read. -/
def State.cmdRoleOk (s : State) (i : Instr) : Bool :=
  match i with
  | .pairSwitchover _ => true
  | .pairConfigure _ enable cycle lead commitTimeout joinTimeout watchdog skewGuard window chunkAge closeTimeout outcomeTimeout etherType plAsym =>
    s.onlyDisables enable {
      cycle := cycle, lead := lead, commitTimeout := commitTimeout, joinTimeout := joinTimeout, watchdog := watchdog
      skewGuard := skewGuard, window := window, chunkAge := chunkAge, closeTimeout := closeTimeout, outcomeTimeout := outcomeTimeout
      etherType := etherType, plAsym := plAsym }
  | _ => false

/-! ## The standby's journal (R397) -/

/-- A mirrored setting that this unit cannot take up now is put in force as far as its state allows, or held; STANDBY_UNREALISED carries its
opcode. -/
def State.unrealised (s : State) (i : Instr) (op : Nat) : State :=
  let s1 := match s.force i with
    | some t => t
    | none => { s with pair := { s.pair with held := s.pair.held ++ [i] } }
  (s1.pairCount 9).raise 760 Ev.standbyUnrealised [.u 2 op]

/-- A journaled command as the active unit decided it. -/
def State.applyInstr (s : State) (i : Instr) (op : Nat) : State :=
  match commandBody i s with
  | .ok t _ => if changesConfig op then t.dependentChange else t
  | .later t _ => if changesConfig op then t.dependentChange else t
  | .done t _ _ => t
  | .range _ => s.unrealised i op
  | .fail _ _ => s.unrealised i op

/-- An entry of a committed journal. -/
def State.applyEntry (s : State) (c : RawCmd) : State :=
  match containedCmd (.journal c.mb c.pos) c with
  | .inl _ => s
  | .inr i => s.applyInstr i c.opcode

/-- The settings held are tried again, in order. -/
def State.retryHeld (s : State) : State :=
  s.pair.held.foldl (fun (t : State) i =>
    match commandBody i t with
    | .ok u _ => { u with pair := { u.pair with held := u.pair.held.erase i } }
    | .later u _ => { u with pair := { u.pair with held := u.pair.held.erase i } }
    | _ => t) s

/-- The committed buffer is applied, in one cycle. -/
def State.applyCommitted (s : State) : State :=
  let s1 : State := { s with pair := { s.pair with applied := true, confirmed := false, applyAt := none, lastApply := s.now } }
  (s1.pair.committed.foldl State.applyEntry s1).retryHeld

/-! ## Commands that wait for their journal (R399, R400) -/

/-- A command that waits completes with its effect in force on this unit alone. -/
def State.completeAlone (s : State) (i : Instr) (src : CmdSrc) (op : Nat) : State :=
  match commandBody i s with
  | .ok t res => (if changesConfig op then t.dependentChange else t).finish src op stUnmirrored 0 res
  | r => s.settleNow i src op r

/-- A command that waits takes effect and completes: with its journal, or alone. -/
def State.completeWait (s : State) (i : Instr) (alone : Bool) : State :=
  match cmdKey i with
  | some (src, op) => if alone then s.completeAlone i src op else s.settleNow i src op (commandBody i s)
  | none => s

/-- The waits of a list end, in order. -/
def State.completeWaits (s : State) (l : List JournalWait) (alone : Bool) : State :=
  l.foldl (fun (t : State) w => t.completeWait w.cmd alone) { s with pair := { s.pair with waits := s.pair.waits.filter fun w => !l.contains w } }

/-- No journal is on its way. -/
def State.dropJournals (s : State) : State :=
  { s with pair := { s.pair with journal := [], sentJournal := [], sentCycle := none, applyAt := none, confirmed := false } }

/-- The commands that wait are not permitted any more, the unit having left the role ACTIVE. -/
def State.refuseWaits (s : State) : State :=
  let s1 := ({ s with pair := { s.pair with waits := [] } }).dropJournals
  s.pair.waits.foldl (fun (t : State) w => match cmdKey w.cmd with
    | some (src, op) => t.finish src op stNotPermitted 0 []
    | none => t) s1

/-! ## Promotion and lost partners (R381, R384, R399, R407, R408, R474) -/

/-- The indications of R384. -/
def State.lossSigns (s : State) : Nat :=
  flag (!s.pair.alive) 1 + flag (s.pair.silent || !s.pair.linkUp) 1 + flag s.pair.healthLost 1

/-- The standby is promoted (R407): the committed buffer is applied, ROLE_EPOCH and the role change, the controller leaves PAIR, and the epochs
skip ahead (R474). -/
def State.promote (s : State) : State :=
  let s1 := if s.pair.applied then s else s.applyCommitted
  let s2 := s1.becomeActive
  let e := s2.fence.epoch + 2 ^ 24
  let s3 : State := { s2 with fence := { s2.fence with epoch := e - 1 }, pair := { s2.pair with heldMarkers := [], applyAt := none, confirmed := false } }
  s3.raise 830 Ev.epochSkip [.u 8 e]

/-- What follows from a change of the pair's state, `old` being the state before: promotion, DETACHED, PARTNER_LOST, and the end of the waits of
a unit that has no partner, has left the role or has been disabled. -/
def State.pairSettle (s old : State) : State :=
  let s1 := if !s.pair.enable || decide (s.pair.role ≠ .standby) then s
    else if 2 ≤ s.lossSigns then s.promote
    else if !s.pair.linkUp then s.setRole .detached
    else s
  let lost := old.pair.enable && decide (old.pair.role = .active) && old.partnerStandby && s1.pair.enable && decide (s1.pair.role = .active) &&
    decide (s1.pair.partnerRole = .standby) && !s1.partnerStandby
  let s2 := if lost then s1.raise 752 Ev.partnerLost else s1
  if s2.pair.waits.isEmpty then s2
  else if s2.pair.enable && decide (s2.pair.role ≠ .active) then s2.refuseWaits
  else if s2.pair.enable && s2.partnerStandby then s2
  else s2.dropJournals.completeWaits s2.pair.waits false

/-! ## Ports that reach or leave UP (R54, R213, R226, R378, R381) -/

/-- The pair link by port `p` has reached or left UP since `old` (R378, R381). -/
def State.linkFollow (old : State) (s : State) (p : Nat) : State :=
  if !old.portUp p && s.portUp p then
    let half := decide (s.pair.castTry ≠ 0)
    let s1 : State := { s with pair := { s.pair with linkUp := true, linkHalf := half, silent := false, controlRx := s.now } }
    let s2 := if half then s1.raise 754 Ev.linkHalf else s1
    match s2.pair.role with
    | .joining => if s2.pair.watchdogDead then s2 else s2.sendCtl (.hello s2.pair.epoch)
    | .detached => s2.enterSyncing
    | _ => s2
  else if old.portUp p && !s.portUp p then { s with pair := { s.pair with linkUp := false, linkHalf := false } }
  else s

/-- What follows from ports that reached or left UP since `old`: timing uplinks are disqualified, PTP ports listen or fail, a port newly UP may
report PAUSE anew, and the pair link follows. -/
def State.laneFollow (old : State) (s : State) : State :=
  let s1 := State.ptpFollow old (State.disqualify old s)
  let s2 := s1.ports.foldl (fun (t : State) x =>
    if !old.portUp x.1 && t.portUp x.1 then t.updParse x.1 fun y => { y with pauseSeen := false } else t) s1
  ((State.linkFollow old (State.linkFollow old s2 256) 260)).pairSettle old

/-- PORT_BIND_OFF (R45): Drains a port and brings it to DOWN, completing at the end of the bind-off linger or on OFF. -/
def execPortBindOff (src : CmdSrc) (port drain : Nat) (s : State) : Out :=
  .next (State.laneFollow s (s.runCmd (.portBindOff src port drain) src 0x0303 (bodyPortBindOff src port drain)))

/-- A mailbox command runs from its own source (R450). -/
def State.runInstr (s : State) (i : Instr) : State :=
  match cmdKey i with
  | some (src, op) =>
    let t := s.runCmd i src op (commandBody i) (s.cmdRoleOk i)
    if op = 0x0303 then State.laneFollow s t else t
  | none => s

/-- PAIR_CONFIGURE (R381): Enables or disables the pair and sets its timing, window and EtherType parameters. -/
def execPairConfigure (src : CmdSrc) (enable : Bool) (cycle lead commitTimeout joinTimeout watchdog skewGuard window chunkAge closeTimeout
    outcomeTimeout etherType : Nat) (plAsym : Int) (s : State) : Out :=
  let i : Instr := .pairConfigure src enable cycle lead commitTimeout joinTimeout watchdog skewGuard window chunkAge closeTimeout outcomeTimeout
    etherType plAsym
  .next ((s.runCmd i src 0x0A01 (bodyPairConfigure src enable cycle lead commitTimeout joinTimeout watchdog skewGuard window chunkAge
    closeTimeout outcomeTimeout etherType plAsym) (s.cmdRoleOk i)).pairSettle s)

/-- A lost heartbeat alone raises ALIVE_FAULT on a standby (R384). -/
def State.loneHeartbeat (s : State) : State :=
  if decide (s.pair.role = .standby) && decide (s.lossSigns = 1) then s.raise 753 Ev.aliveFault else s

/-- HEARTBEAT_LOST (R380): No accepted PAIR_ALIVE_IN edge for 8.0 µs, and promotion is judged. -/
def execHeartbeatLost (s : State) : Out :=
  match s.pair.aliveEdge with
  | none => .next s
  | some e =>
    if !s.pair.alive then .next s
    else
      let s1 := s.advance (e + 8 * usC)
      let s2 := ({ s1 with pair := { s1.pair with alive := false, aliveRun := 0 } }).raise 753 Ev.heartbeatLost
      .next (s2.loneHeartbeat.pairSettle s)

/-- PL_SILENT (R380): No CONTROL frame has arrived on the pair link for 20 µs. -/
def execPlSilent (s : State) : Out :=
  if !s.pair.linkUp || s.pair.silent then .next s
  else
    let s1 := s.advance (s.pair.controlRx + 20 * usC)
    .next ((({ s1 with pair := { s1.pair with silent := true } }).raise 754 Ev.plSilent).pairSettle s)

/-- HEALTH_LOST (R380): No health report has arrived for 2 cycles. -/
def execHealthLost (s : State) : Out :=
  if s.pair.healthCycle.isNone || s.pair.healthLost || !s.pair.enable then .next s
  else
    let s1 := s.advance (s.pair.healthAt + 2 * cyclesOf s.pair.cfg.cycle)
    let s2 : State := { s1 with pair := { s1.pair with healthLost := true, healthOk := false } }
    .next (((s2.slotLevel 28 15 (s2.ref.slots.get 28).hops).raise 756 Ev.healthLost).pairSettle s)

/-- PAIR_WATCHDOG_EXPIRY (R379): The pair watchdog expires, PAIR_ALIVE_OUT is held low and the role moves to JOINING. -/
def execPairWatchdogExpiry (s : State) : Out :=
  if !s.pair.enable || s.pair.watchdogDead || decide (s.pair.role = .alone ∨ s.pair.role = .mismatch) then .next s
  else
    let s1 : State := { s with pair := { s.pair with watchdogDead := true, aliveOut := false, joinEnd := none } }
    let s2 := if s.pair.role = .active ∨ s.pair.role = .standby ∨ s.pair.role = .syncing then s1.enterJoining else s1
    .next (s2.pairSettle s)

/-! ## Health reports (R380 to R382, R400, R406, R413) -/

/-- A role by its code in a report (R414). -/
def roleOf : Nat → Role
  | 1 => .joining | 2 => .syncing | 3 => .standby | 4 => .active | 5 => .detached | 6 => .mismatch | _ => .alone

/-- Whether a report is valid: CHECK matches and VERSION is 1 (R380). -/
def reportValid (b : List Byte) : Bool := decide (fb b 0 = 1 ∧ ofBe (slice b 56 8) = (crc64 (b.take 56)).toNat)

/-- Two ACTIVE units meet: the one that loses under R382 enters SYNCING, with SPLIT_RESOLVED carrying the lost commands of each mailbox. -/
def State.meetActive (s : State) : State :=
  let loses := decide (s.pair.epoch < s.pair.partnerEpoch) || (decide (s.pair.epoch = s.pair.partnerEpoch) && s.fuses.pairStrap)
  if loses then
    let lost := (List.range 7).map fun m => Fld.u 2 (min 65535 (s.pair.unmirrored.get m))
    let s1 := ({ s with pair := { s.pair with unmirrored := [], alignTries := 0, aligned := false } }).enterSyncing
    s1.raise 752 Ev.splitResolved lost
  else s

/-- The state digests of two reports for one cycle differ while both units pass self-test (R406). -/
def State.digestsDiffer (s : State) (b : List Byte) : Bool :=
  let roles := decide ((s.pair.role = .active ∧ s.pair.partnerRole = .standby) ∨ (s.pair.role = .standby ∧ s.pair.partnerRole = .active))
  roles && decide (fbn b 8 8 = s.pair.reportCycle) && !s.pair.critical && decide (fb2 b 2 % 2 = 0) && decide (fbn b 24 8 ≠ s.stateDigest)

/-- HEALTH_REPORT_RX (R380): A received health report is checked and updates partner health, level and divergence. -/
def execHealthReportRx (bytes : List Byte) (s : State) : Out :=
  if bytes.length ≠ 64 then .fault .impossibleInput
  else if !s.pair.enable || decide (s.pair.role = .alone ∨ s.pair.role = .mismatch) then .next s
  else
    let s1 := s.ctlRx
    let cycle := fbn bytes 8 8
    let fresh := match s.pair.healthCycle with | some c => decide (c < cycle) | none => true
    if !reportValid bytes || !fresh then .next s1
    else
      let role := roleOf (fb bytes 1)
      let met := decide (role = .standby) && decide (s.pair.role = .active)
      let s2 : State := { s1 with pair := { s1.pair with
        healthRx := bytes, healthCycle := some cycle, healthAt := s1.now, healthLost := false, healthOk := decide (fb2 bytes 2 % 2 = 0)
        partnerRole := role, partnerEpoch := fbn bytes 16 8, unmirrored := if met then [] else s1.pair.unmirrored } }
      let s3 := s2.slotLevel 28 (fb bytes 41 % 16) (fb bytes 42)
      let s4 := if s3.pair.role = .active ∧ role = .active then s3.meetActive else s3
      let s5 := if s4.digestsDiffer bytes then s4.diverge 0 0 else s4
      .next (s5.pairSettle s)

/-! ## Apply boundaries (R396, R399, R401, R406) -/

/-- The roles are exchanged at the apply boundary of the cycle that journaled PAIR_SWITCHOVER (R406). -/
def State.exchange (s : State) : State :=
  if !s.pair.switchover then s
  else
    let s1 : State := { s with pair := { s.pair with switchover := false } }
    if s1.pair.role = .active then
      ({ s1 with pair := { s1.pair with partnerRole := .active } }.dropJournals).setRole .standby
    else if s1.pair.role = .standby then { s1.becomeActive with pair := { s1.becomeActive.pair with partnerRole := .standby } }
    else s1

/-- The active unit at A_n: the journal it confirmed is applied and its commands complete, in order. -/
def State.applyActive (s : State) (n : Nat) : State :=
  let sent := s.pair.sentJournal
  let s1 : State := { s with pair := { s.pair with
    sentJournal := [], sentCycle := none, applyAt := none, confirmed := false, reportCycle := n, lastApply := s.now } }
  sent.foldl (fun (t : State) i =>
    if t.pair.waits.any fun w => decide (w.cmd = i) then
      ({ t with pair := { t.pair with waits := t.pair.waits.eraseP fun w => decide (w.cmd = i) } }).completeWait i false
    else t) s1

/-- A SYNCING unit whose state digest equals the active unit's at an apply boundary is STANDBY (R381, R401). -/
def State.formed (s : State) : State :=
  if s.pair.role = .syncing ∧ !s.pair.aligning ∧ s.pair.aligned ∧ fbn s.pair.healthRx 24 8 = s.stateDigest ∧ s.pair.healthRx ≠ [] then
    (s.setRole .standby).raise 752 Ev.pairFormed
  else s

/-- LIFELINE_APPLY (R396): At the apply boundary a journal is applied in one cycle and its commands complete on the active unit. -/
def execLifelineApply (s : State) : Out :=
  match s.pair.applyAt with
  | none => .next s
  | some a =>
    if !s.pair.confirmed || !s.time.tickOn then .next s
    else
      let s1 := s.advanceTick a
      if s.pair.role = .active then
        match s.pair.sentCycle with
        | some n => .next (((s1.applyActive n).exchange).pairSettle s)
        | none => .next s
      else if s.takesJournals then .next (((s1.applyCommitted.exchange).formed).pairSettle s)
      else .next s

/-- COMMIT_TIMEOUT (R399): A journal is not committed within the commit timeout and its commands complete with ST_PAIR_UNMIRRORED. -/
def execCommitTimeout (s : State) : Out :=
  match s.pair.waits.filter fun w => !(s.pair.confirmed && s.pair.sentJournal.contains w.cmd) with
  | [] => .next s
  | w :: rest =>
    let limit := s.pair.cfg.commitTimeout * cyclesOf s.pair.cfg.cycle
    let s1 := s.advance (w.joined + limit)
    .next (s1.completeWaits ((w :: rest).filter fun x => decide (x.joined + limit ≤ s1.now)) true)

/-! ## Time probes and alignment (R383, R409) -/

/-- TICK_OFFSET by a probe exchange, in U: the partner's TICK minus the unit's own; PL_ASYM is in 2^-16 ns. -/
def probeOffset (t1 t2 t3 t4 asym : Int) : Int := ((t2 - t1) - (t4 - t3) - offsetU asym) / 2

/-- How far an offset in U lies from a multiple of 320,000,000 cycles. -/
def alignError (off : Int) : Int := off - roundDiv off (320000000 * 65536) * (320000000 * 65536)

/-- Whether an offset is within 0.4 cycle of a multiple of 320,000,000 (R383). -/
def alignedAt (off : Int) : Bool := decide (5 * (alignError off).natAbs ≤ 2 * 65536)

/-- Whether the cores C12 and C13 run. -/
def State.pairCores (s : State) : Bool := [12, 13].all fun n => decide ((s.fw.cores.get n).state = 1)

/-- The firmware of C12 and C13 steers KTIME towards the active unit's by RATE_ADJ and by steps within the guard; the spec does not give its law, so
rate and the choice of a step are free (R186, R187, R409). -/
def State.pairSteer (s : State) : State :=
  if s.time.control ≠ 2 ∨ !s.pairCores then s
  else
    let (k, s1) := s.takeFree
    let (j, s2) := s1.takeFree
    let rate : Int := (Config.freeNat k % 56294995343 : Nat) - 28147497671
    let s3 := if s2.time.changes.any fun c => c.own && decide (c.kind = .rate) then s2 else s2.timeChange .rate rate 0 0 .direct true
    if Config.freeNat j % 2 = 1 ∧ !(s3.time.changes.any fun c => c.own && decide (c.kind = .step)) then
      s3.timeChange .step s3.pair.timeError 0 0 .direct true
    else s3

/-- The Keeper, unless it restarts (R29), aligns the unit by an ALIGN reset, up to 3 attempts; then ALIGN_FAIL and ALONE (R383). ALIGN_DELAY is corrected by what an attempt
has left. -/
def State.alignAgain (s : State) : State :=
  if s.glob.keeperRestarting then s
  else if 3 ≤ s.pair.alignTries then (s.raise 755 Ev.alignFail).enterAlone
  else
    let left := roundDiv (alignError s.pair.tickOffset) 65536
    let d : Int := if s.pair.alignTries = 0 then s.pair.alignDelay else (s.pair.alignDelay : Int) - left
    let s1 : State := { s with pair := { s.pair with
      aligning := true, alignTries := s.pair.alignTries + 1, alignDelay := (clampInt 0 65535 d).toNat } }
    s1.startReset 3 5

/-- TIME_PROBE (R409): Every 125 µs a time probe exchange measures TICK_OFFSET and the time error. -/
def execTimeProbe (t1 t2 t3 t4 partner : Int) (s : State) : Out :=
  if !s.pair.enable || !s.pair.linkUp || decide (s.pair.role = .alone ∨ s.pair.role = .mismatch) then .next s
  else
    let s1 := (s.ctlRx).sendCtl (.probe s.tick)
    let off := probeOffset t1 t2 t3 t4 s.pair.cfg.plAsym
    let ok := alignedAt off
    let delay := roundDiv (4 * ((t2 - t1) + (t4 - t3))) 10
    let s2 : State := { s1 with pair := { s1.pair with
      tickOffset := if s.pair.aligned && ok && decide (roundDiv off 65536 = s.offsetC) then s.pair.tickOffset else off
      timeError := partner - s1.ktime, dpl := delay, aligned := ok } }
    let s3 := s2.pairSteer
    match s.pair.role with
    | .syncing =>
      if ok then .next { s3 with pair := { s3.pair with aligning := false, alignTries := 0 } } else .next (s3.alignAgain.pairSettle s)
    | .standby =>
      if ok then .next s3
      else .next (({ (s3.raise 755 Ev.alignLost) with pair := { s3.pair with alignTries := 0 } }).enterSyncing.pairSettle s)
    | _ => .next s3

/-- ALIGN_TICK_START (R383): During an alignment TICK starts ALIGN_DELAY cycles after the first PLCKI edge following an alignment mark. -/
def execAlignTickStart (edge : Nat) (s : State) : Out :=
  if s.power.stage ≠ .pd1 ∨ s.power.resetting ≠ some 3 ∨ !s.glob.rootRunning ∨ !s.pdOn 1 then .next s
  else if edge < s.now then .fault .impossibleInput
  else .next ((s.advance (edge + s.pair.alignDelay)).pd1Complete)

/-! ## The end of the boot configuration (R426, R533) -/

/-- The CONFIG commands in order, as if submitted on MB0, up to the first that completes with another status than ST_OK: its index and status. -/
def State.runConfig (s : State) (k : Nat) : List RawCmd → State × Option (Nat × Nat)
  | [] => (s, none)
  | c :: cs =>
    match containedCmd .config c with
    | .inl st => (s, some (k, st))
    | .inr i =>
      let t := s.runInstr i
      if t.cmd.count ≠ s.cmd.count ∧ t.cmd.status ≠ stOk then (t, some (k, t.cmd.status)) else t.runConfig (k + 1) cs

/-- BOOT_CONFIG_DONE (R426): The base image's CONFIG commands finish or stop, the mailboxes open and BOOT_DONE is raised. -/
def execBootConfigDone (s : State) : Out :=
  if s.power.stage ≠ .config ∨ s.glob.keeperRestarting then .next s
  else
    let r := s.runConfig 0 s.fw.base_.cmds
    let s1 := match r.2 with
      | some f => r.1.raise 799 Ev.bootConfigFail [.u 2 f.1, .u 2 f.2]
      | none => r.1
    let ms := (s1.now - s1.power.bootStart) / msC
    let s2 : State := { s1 with
      fw := { s1.fw with configDone := true, cfgAclStage := [], cfgMemStage := [] }
      power := { s1.power with stage := .ready, resetting := none, bootMs := ms } }
    .next ((s2.raise 768 Ev.bootDone [.u 1 s2.power.resetKind, .u 1 s2.power.resetCause, .u 4 ms]).pairSettle s)

/-! ## The end of a Keeper restart (R29, R471) -/

/-- KEEPER_RESTART_DONE (R29): The Keeper finishes its restart from ROM after a lockstep mismatch, and the requests that waited for it proceed. -/
def execKeeperRestartDone (s : State) : Out :=
  if !s.glob.keeperRestarting then .next s
  else
    let waiting := s.glob.keeperWaiting
    let markers := s.pair.heldMarkers
    let s1 : State := { s with glob := { s.glob with keeperRestarting := false, keeperWaiting := [] }, pair := { s.pair with heldMarkers := [] } }
    let s2 := waiting.foldl State.runInstr s1
    let s3 := markers.foldl (fun (t : State) m => t.commitMarker m.1 m.2.1 m.2.2.1 m.2.2.2) s2
    .next ((s3.recoveryDone 1 0 []).pairSettle s)

end Sys2Proof.Machine
end

