-- ==== Sys2Proof/Machine/LaneRows.lean ====
section
/-!
DEFINITION. Lanes and ports by event: locks and losses, the cast-on, proving, hold-down, drain and linger timers, the swatch checker, the sweep
and the SGPIO chain (R44 to R59).
-/
namespace Sys2Proof.Machine

/-! ## Signal energy (R55) -/

/-- Whether the LOS detector of a lane reports a loss: it is cleared by 100 µs of continuous presence of energy. -/
def Lane.los (x : Lane) (now : Nat) : Bool := match x.energySince with | some t => decide (now < t + 100 * usC) | none => true

/-- A lane shows that it receives: energy is present from now on at the latest. -/
def Lane.energy (x : Lane) (now : Nat) : Lane := { x with energySince := some (x.energySince.getD now) }

/-! ## The swatch (R57, R59) -/

/-- SWATCH_LOCK (R57): The swatch checker locks after 256 consecutive error-free bits. -/
def execSwatchLock (lane : Nat) (s : State) : Out :=
  if 264 ≤ lane then .fault .noSuchObject
  else
    let x := s.lanes.get lane
    if x.state ≠ .swatch ∨ x.swatch.locked then .next s
    else
      let s1 := if x.swatch.loopback then s else s.updLane lane fun y => y.energy s.now
      .next ((s1.updLane lane fun y => { y with swatch := { y.swatch with locked := true } }).raise lane Ev.swatchLock)

/-- SWATCH_LOSS (R57): The swatch checker loses lock after more than 64 errors within 1,024 bits and re-seeds. -/
def execSwatchLoss (lane bits errors : Nat) (s : State) : Out :=
  if 264 ≤ lane then .fault .noSuchObject
  else if bits < errors then .fault .impossibleInput
  else
    let x := s.lanes.get lane
    if x.state ≠ .swatch ∨ !x.swatch.locked then .next s
    else
      let s1 := s.updLane lane fun y => { y with swatch := { y.swatch with
        locked := false, bits := min (y.swatch.bits + max bits y.swatch.injDue) (2 ^ 48 - 1), injDue := 0
        errors := min (y.swatch.errors + max errors y.swatch.injDue) (2 ^ 48 - 1) } }
      .next (s1.raise lane Ev.swatchLoss)

/-- SWEEP_DONE (R59): A lane sweep finishes its 1,024 points. -/
def execSweepDone (lane : Nat) (counts : List Nat) (s : State) : Out :=
  if 264 ≤ lane then .fault .noSuchObject
  else if counts.length ≠ 1024 ∨ counts.any fun c => decide (65535 < c) then .fault .impossibleInput
  else
    let x := (s.lanes.get lane).swatch
    if !x.sweeping then .next s
    else
      let s1 := (s.advance x.sweepEnd).updLane lane fun y => { y with swatch := { y.swatch with
        sweeping := false, sweepDone := true, sweepCounts := counts } }
      .next (s1.raise lane Ev.sweepDone)

/-! ## Cast-on (R45, R46) -/

/-- Whether a port number names a port that may be configured: P0 to P255, or a form of the pair link. -/
def portNamed (p : Nat) : Bool := decide (p < 256 ∨ p = 256 ∨ p = 260)

/-- The lock flags of a locked lane of port `p`: CDR, block or alignment marker, FEC, row (R60). -/
def State.lockedFlags (s : State) (p : Nat) : Nat :=
  let x := s.ports.get p
  3 + flag (decide (x.fec ≠ 0)) 4 + flag x.isSelvedge 8

/-- LANE_LOCKED (R45): Every lane of a casting port acquires lock, and the port enters PROVING with a 2.0 ms window. -/
def execLaneLocked (port : Nat) (s : State) : Out :=
  if !portNamed port then .fault .noSuchObject
  else
    let x := s.ports.get port
    let rows := !x.isSelvedge || decide ((s.selv.get port).rowState = .locked)
    if !x.configured || decide (s.portState port ≠ .casting) || !rows then .next s
    else
      let s1 := (s.portLanes port).foldl (fun (t : State) l =>
        t.updLane l fun y => { y.energy s.now with lockFlags := s.lockedFlags port, tapOn := true }) (s.setPort port .proving)
      .next (s1.updPort port fun y => { y with provingEnd := some (s.now + 2 * msC) })

/-- CAST_ON_TIMER_EXPIRY (R45): The cast-on timer expires, sending a CASTING port to FAULT or being held in PROVING. -/
def execCastOnTimerExpiry (port : Nat) (s : State) : Out :=
  if !portNamed port then .fault .noSuchObject
  else
    match (s.ports.get port).castTimer with
    | none => .next s
    | some t =>
      let s0 := s.advance t
      let s1 := s0.updPort port fun y => { y with castTimer := none, castTimeouts := inc32 y.castTimeouts }
      match s1.portState port with
      | .casting =>
        let s2 := s1.castExpire port
        .next (State.laneFollow s (if 256 ≤ port then s2.castLink ((s2.pair.castTry + 1) % 3) else s2))
      | .proving => .next (s1.updPort port fun y => { y with castExpired := true })
      | _ => .next (s0.updPort port fun y => { y with castTimer := none })

/-- PROVING_WINDOW_END (R45): The proving window ends and the pointer and frequency checks decide between UP, CASTING, HELD and FAULT. -/
def execProvingWindowEnd (port : Nat) (pointersOk : Bool) (offsets deskews : List Int) (s : State) : Out :=
  if !portNamed port then .fault .noSuchObject
  else if offsets.length ≠ (s.ports.get port).width ∨ deskews.length ≠ (s.ports.get port).width then .fault .impossibleInput
  else
    match (s.ports.get port).provingEnd with
    | none => .next s
    | some t =>
      let s1 := s.advance t
      if s1.portState port ≠ .proving then .next s1 else .next (State.laneFollow s (s1.proved port pointersOk offsets deskews))

/-- HOLD_DOWN_EXPIRY (R45): The hold-down expires and a FAULT lane recasts under AUTO or goes to HELD under MANUAL. -/
def execHoldDownExpiry (port : Nat) (s : State) : Out :=
  if !portNamed port then .fault .noSuchObject
  else
    let x := s.ports.get port
    match x.holdTimer with
    | none => .next s
    | some t =>
      let s1 := (s.advance t).updPort port fun y => { y with holdTimer := none }
      if s1.portState port ≠ .fault then .next s1
      else if x.recastManual then .next (s1.enterHeld port)
      else if s1.tableServes port then .next (s1.startCasting port)
      else .next s1

/-! ## Losses (R45, R52, R55) -/

/-- LOS (R55): Loss of signal is declared after 1.0 µs of continuous absence of energy. -/
def execLos (lane : Nat) (s : State) : Out :=
  if 264 ≤ lane then .fault .noSuchObject
  else
    let x := s.lanes.get lane
    let s1 := (s.updLane lane fun y => { y with energySince := none }).laneUnlocked lane
    match s.portOf lane with
    | none => .next s1
    | some p =>
      if x.losPending then
        let s2 := (s.portLanes p).foldl (fun (t : State) l => t.updLane l fun y => { y with losPending := false, lastCause := Ev.los }) s1
        .next (s2.raise (portSrc p) Ev.los)
      else .next (State.laneFollow s (s1.portLoss p Ev.los))

/-- The lock flag that a loss clears. -/
def LossKind.bit : LossKind → Nat
  | .cdr => 1 | .block => 2 | .marker => 2 | .fec => 4 | .hiBer => 0 | .row => 8

/-- LOCK_LOSS (R45): A declared loss of CDR, block, alignment-marker or FEC lock, hi_ber or row lock takes the lane transitions for lock loss. -/
def execLockLoss (lane : Nat) (kind : LossKind) (s : State) : Out :=
  if 264 ≤ lane then .fault .noSuchObject
  else
    let b := LossKind.bit kind
    let s1 := (s.updLane lane fun y => { y with
      lockFlags := if b ≠ 0 ∧ y.lockFlags / b % 2 = 1 then y.lockFlags - b else y.lockFlags }).laneUnlocked lane
    match s.portOf lane with
    | none => .next s1
    | some p => .next (State.laneFollow s (s1.portLoss p Ev.lockLoss))

/-- FREQ_RANGE (R52): A lane's receive frequency has been outside its range continuously for 1 ms, or at the proving check. -/
def execFreqRange (lane : Nat) (offset : Int) (s : State) : Out :=
  if 264 ≤ lane then .fault .noSuchObject
  else
    let s1 := s.updLane lane fun y => { y with freqOff := offset }
    match s.portOf lane with
    | none => .next s1
    | some p =>
      if offset.natAbs ≤ s.freqLimit p then .next s1
      else match s.portState p with
        | .proving => .next (State.laneFollow s (((s1.enterFault p).setCause p Ev.freqRange).raise (portSrc p) Ev.freqRange))
        | .up => .next (State.laneFollow s (s1.upLoss p Ev.freqRange))
        | _ => .next s1

/-! ## Bind-off (R45, R346) -/

/-- EGRESS_QUEUES_EMPTY (R346): The egress queues of a BINDING port become empty and the bind-off linger starts. -/
def execEgressQueuesEmpty (port : Nat) (s : State) : Out :=
  if 256 ≤ port then .fault .noSuchObject
  else
    let x := s.ports.get port
    if s.portState port = .binding ∧ x.drainTimer.isSome ∧ s.egressIdle port then .next (s.startLinger port) else .next s

/-- DRAIN_TIMEOUT (R346): The drain timeout of a BINDING port expires, discarding its remaining copies with reason port down. -/
def execDrainTimeout (port : Nat) (s : State) : Out :=
  if 256 ≤ port then .fault .noSuchObject
  else
    match (s.ports.get port).drainTimer with
    | some t => if s.portState port = .binding then .next ((s.advance t).startLinger port) else .next s
    | none => .next s

/-- BIND_OFF_LINGER_END (R45): The 10 µs bind-off linger ends, the port enters DOWN and PORT_BIND_OFF completes. -/
def execBindOffLingerEnd (port : Nat) (s : State) : Out :=
  if 256 ≤ port then .fault .noSuchObject
  else
    match (s.ports.get port).lingerTimer with
    | some t => if s.portState port = .binding then .next ((s.advance t).bindOffDone port) else .next s
    | none => .next s

/-! ## SGPIO (R55) -/

/-- A module by the bits, present and interrupt, of one SGPIO frame: a change is taken after 3 equal frames; the flag says that one was taken.
The selects of a module whose presence changed are unknown. -/
def Module.frame (x : Module) (raw : Nat) : Module × Bool :=
  let n := if raw = x.lastRaw then min 3 (x.rawCount + 1) else 1
  let y := { x with lastRaw := raw, rawCount := n }
  let present := raw.testBit 0
  let intr := raw.testBit 1
  if n = 3 ∧ (present ≠ x.present ∨ intr ≠ x.intr) then
    let z := { y with present := present, intr := intr }
    (if present ≠ x.present then { z with bank := none, page := none } else z, true)
  else (y, false)

/-- SGPIO_FRAME (R55): An SGPIO frame is received, and module bits stable for three frames raise MODULE_CHANGE. -/
def execSgpioFrame (bits : List Nat) (s : State) : Out :=
  if bits.any fun b => decide (3 < b) then .fault .impossibleInput
  else
    let s0 : State := { s with power := { s.power with sgpioStalled := false } }
    .next (s.modules.foldl (fun (t : State) m =>
      let r := m.2.frame (bits.getD m.1 0)
      let t1 : State := { t with modules := t.modules.set m.1 r.1 }
      if r.2 then r.1.lanes.foldl (fun (u : State) l => u.raise l Ev.moduleChange) t1 else t1) s0)

/-- SGPIO_STALL (R55): The SGPIO chain has been silent for 10 ms. -/
def execSgpioStall (s : State) : Out :=
  if s.power.sgpioStalled then .next s
  else .next (({ s with power := { s.power with sgpioStalled := true } }).raise 832 Ev.sgpioStall)

end Sys2Proof.Machine
end

