-- ==== Sys2Proof/Machine/Dispatch.lean ====
section
/-!
DEFINITION. The meaning of every command, one arm per constructor of `Instr`: each arm is one call of the command's own
meaning, or a rejection by name.
-/
namespace Sys2Proof.Machine

/-- The effect of a command on everything but the queue. -/
def exec (i : Instr) (s : State) : Host.Outcome State Fault Refusal :=
  match i with
  | .nop src bytes => Sys2Proof.Machine.execNop src bytes s
  | .fence src => Sys2Proof.Machine.execFence src s
  | .fenceMarkerWrite stream => Sys2Proof.Machine.execFenceMarkerWrite stream s
  | .sysPowerDomain src on domain => Sys2Proof.Machine.execSysPowerDomain src on domain s
  | .sysGetStatus src => Sys2Proof.Machine.execSysGetStatus src s
  | .sysSetBoard src param period region base length mask => Sys2Proof.Machine.execSysSetBoard src param period region base length mask s
  | .sysReset src kind => Sys2Proof.Machine.execSysReset src kind s
  | .resetStart => Sys2Proof.Machine.execResetStart s
  | .sysGetPower src => Sys2Proof.Machine.execSysGetPower src s
  | .sysGetThermal src => Sys2Proof.Machine.execSysGetThermal src s
  | .sysConfigureThermal src warn throttleAt hyst fraction => Sys2Proof.Machine.execSysConfigureThermal src warn throttleAt hyst fraction s
  | .sysSetSensor src sensor mark => Sys2Proof.Machine.execSysSetSensor src sensor mark s
  | .imgLoad src target addr length data => Sys2Proof.Machine.execImgLoad src target addr length data s
  | .imgValidate src slot => Sys2Proof.Machine.execImgValidate src slot s
  | .imgArm src slot mode t => Sys2Proof.Machine.execImgArm src slot mode t s
  | .imgDisarm src slot => Sys2Proof.Machine.execImgDisarm src slot s
  | .imgGetStatus src slot => Sys2Proof.Machine.execImgGetStatus src slot s
  | .imgErase src slot => Sys2Proof.Machine.execImgErase src slot s
  | .overlaySwitch => Sys2Proof.Machine.execOverlaySwitch s
  | .portConfigure src port mode width fec maxFrame => Sys2Proof.Machine.execPortConfigure src port mode width fec maxFrame s
  | .portCastOn src port => Sys2Proof.Machine.execPortCastOn src port s
  | .portBindOff src port drain => Sys2Proof.Machine.execPortBindOff src port drain s
  | .portSetPolicy src port castTimeout holdDown flapLimit flapWindow recast => Sys2Proof.Machine.execPortSetPolicy src port castTimeout holdDown flapLimit flapWindow recast s
  | .laneGetStatus src lane => Sys2Proof.Machine.execLaneGetStatus src lane s
  | .laneGetLatency src lane => Sys2Proof.Machine.execLaneGetLatency src lane s
  | .laneSetChannelTable src sect => Sys2Proof.Machine.execLaneSetChannelTable src sect s
  | .laneRelatch src lane => Sys2Proof.Machine.execLaneRelatch src lane s
  | .laneSwatch src clear lane action txPattern rxPattern loopback injKind injArg => Sys2Proof.Machine.execLaneSwatch src clear lane action txPattern rxPattern loopback injKind injArg s
  | .swatchLock lane => Sys2Proof.Machine.execSwatchLock lane s
  | .swatchLoss lane bits errors => Sys2Proof.Machine.execSwatchLoss lane bits errors s
  | .laneSweep src lane vga dwell => Sys2Proof.Machine.execLaneSweep src lane vga dwell s
  | .sweepDone lane counts => Sys2Proof.Machine.execSweepDone lane counts s
  | .laneSweepRead src lane page => Sys2Proof.Machine.execLaneSweepRead src lane page s
  | .selvedgeConfigure src port slots markInterval outlier rangeTimeout => Sys2Proof.Machine.execSelvedgeConfigure src port slots markInterval outlier rangeTimeout s
  | .selvedgeGetRange src port => Sys2Proof.Machine.execSelvedgeGetRange src port s
  | .moduleRead src module bank page offset length => Sys2Proof.Machine.execModuleRead src module bank page offset length s
  | .moduleWrite src module bank page offset length data => Sys2Proof.Machine.execModuleWrite src module bank page offset length data s
  | .laneLocked port => Sys2Proof.Machine.execLaneLocked port s
  | .castOnTimerExpiry port => Sys2Proof.Machine.execCastOnTimerExpiry port s
  | .provingWindowEnd port pointersOk offsets deskews => Sys2Proof.Machine.execProvingWindowEnd port pointersOk offsets deskews s
  | .los lane => Sys2Proof.Machine.execLos lane s
  | .lockLoss lane kind => Sys2Proof.Machine.execLockLoss lane kind s
  | .freqRange lane offset => Sys2Proof.Machine.execFreqRange lane offset s
  | .holdDownExpiry port => Sys2Proof.Machine.execHoldDownExpiry port s
  | .egressQueuesEmpty port => Sys2Proof.Machine.execEgressQueuesEmpty port s
  | .drainTimeout port => Sys2Proof.Machine.execDrainTimeout port s
  | .bindOffLingerEnd port => Sys2Proof.Machine.execBindOffLingerEnd port s
  | .sgpioFrame bits => Sys2Proof.Machine.execSgpioFrame bits s
  | .sgpioStall => Sys2Proof.Machine.execSgpioStall s
  | .stitchBlockRx port index ctl word tick sub => Sys2Proof.Machine.execStitchBlockRx port index ctl word tick sub s
  | .rangeTimeout port => Sys2Proof.Machine.execRangeTimeout port s
  | .stitchSlot group => Sys2Proof.Machine.execStitchSlot group s
  | .stitchArrival => Sys2Proof.Machine.execStitchArrival s
  | .stitchReady => Sys2Proof.Machine.execStitchReady s
  | .tdcConfigureEvt src enable regression channel edge hyst holdoff prescaler ring offset rateLimit silence => Sys2Proof.Machine.execTdcConfigureEvt src enable regression channel edge hyst holdoff prescaler ring offset rateLimit silence s
  | .tdcConfigureGroup src group mode level pulse maxLen => Sys2Proof.Machine.execTdcConfigureGroup src group mode level pulse maxLen s
  | .tdcSetInterval src enable engine start stop window ring => Sys2Proof.Machine.execTdcSetInterval src enable engine start stop window ring s
  | .tdcGetChannel src clear channel => Sys2Proof.Machine.execTdcGetChannel src clear channel s
  | .tdcGetLane src lane => Sys2Proof.Machine.execTdcGetLane src lane s
  | .tdcSetLaneWindow src w => Sys2Proof.Machine.execTdcSetLaneWindow src w s
  | .tdcCaptureTap src lane action ring d => Sys2Proof.Machine.execTdcCaptureTap src lane action ring d s
  | .evtEdge ch tick phase fine falling => Sys2Proof.Machine.execEvtEdge ch tick phase fine falling s
  | .inputOpen input => Sys2Proof.Machine.execInputOpen input s
  | .rateWindow ch => Sys2Proof.Machine.execRateWindow ch s
  | .silent ch => Sys2Proof.Machine.execSilent ch s
  | .tapEdge lane tick phase fine => Sys2Proof.Machine.execTapEdge lane tick phase fine s
  | .ringWrite ring => Sys2Proof.Machine.execRingWrite ring s
  | .ringTimeout ring => Sys2Proof.Machine.execRingTimeout ring s
  | .ringRdCountWrite ring value => Sys2Proof.Machine.execRingRdCountWrite ring value s
  | .gatePinChange group level tick => Sys2Proof.Machine.execGatePinChange group level tick s
  | .swGateOpen value => Sys2Proof.Machine.execSwGateOpen value s
  | .swGateClose value => Sys2Proof.Machine.execSwGateClose value s
  | .gatePulseEnd group => Sys2Proof.Machine.execGatePulseEnd group s
  | .gateTimeout group => Sys2Proof.Machine.execGateTimeout group s
  | .intervalResult engine => Sys2Proof.Machine.execIntervalResult engine s
  | .gaugeConfigure src trigger minInterval target runTimeout retry periodic source18 source19 => Sys2Proof.Machine.execGaugeConfigure src trigger minInterval target runTimeout retry periodic source18 source19 s
  | .gaugeRun src region => Sys2Proof.Machine.execGaugeRun src region s
  | .gaugeFull src force region => Sys2Proof.Machine.execGaugeFull src force region s
  | .gaugeGetStatus src region => Sys2Proof.Machine.execGaugeGetStatus src region s
  | .gaugeRestore src force region mode => Sys2Proof.Machine.execGaugeRestore src force region mode s
  | .gaugeHold src duration => Sys2Proof.Machine.execGaugeHold src duration s
  | .gaugeHoldLapse => Sys2Proof.Machine.execGaugeHoldLapse s
  | .stageLoad value => Sys2Proof.Machine.execStageLoad value s
  | .gaugeRunStart => Sys2Proof.Machine.execGaugeRunStart s
  | .gaugeRunEnd injected => Sys2Proof.Machine.execGaugeRunEnd injected s
  | .fullCalibrationDone region sets => Sys2Proof.Machine.execFullCalibrationDone region sets s
  | .gaugePeriodicTimer region => Sys2Proof.Machine.execGaugePeriodicTimer region s
  | .gaugeTempUnavailable region => Sys2Proof.Machine.execGaugeTempUnavailable region s
  | .dllUnlock loss => Sys2Proof.Machine.execDllUnlock loss s
  | .dllRelock lock => Sys2Proof.Machine.execDllRelock lock s
  | .dllRelockTimeout ch => Sys2Proof.Machine.execDllRelockTimeout ch s
  | .gaugeCopyCheck region aOk bOk bEpoch bCentres => Sys2Proof.Machine.execGaugeCopyCheck region aOk bOk bEpoch bCentres s
  | .laneWindowBoundary => Sys2Proof.Machine.execLaneWindowBoundary s
  | .refEdge ch tick phase fine width => Sys2Proof.Machine.execRefEdge ch tick phase fine width s
  | .refActivityTimeout slot => Sys2Proof.Machine.execRefActivityTimeout slot s
  | .xoMonitorWindow edges => Sys2Proof.Machine.execXoMonitorWindow edges s
  | .holdoverInspecExpiry => Sys2Proof.Machine.execHoldoverInspecExpiry s
  | .steerTimeout => Sys2Proof.Machine.execSteerTimeout s
  | .levelTimeout slot => Sys2Proof.Machine.execLevelTimeout slot s
  | .esmcPduTx port => Sys2Proof.Machine.execEsmcPduTx port s
  | .refConfigureSlot src enable override esmc slot fNum fDen div edge source prio level acceptLim rejectLim rejectHold acceptHold hitLim hitBudget coastLim => Sys2Proof.Machine.execRefConfigureSlot src enable override esmc slot fNum fDen div edge source prio level acceptLim rejectLim rejectHold acceptHold hitLim hitBudget coastLim s
  | .refConfigureSelection src qlMode revert wtr tieLimit tieHold freeLevel avgTime guardTime inSpec => Sys2Proof.Machine.execRefConfigureSelection src qlMode revert wtr tieLimit tieHold freeLevel avgTime guardTime inSpec s
  | .refConfigureDpll src trackBw acqBw slope lockThr lossThr => Sys2Proof.Machine.execRefConfigureDpll src trackBw acqBw slope lockThr lossThr s
  | .refCommand src slot action => Sys2Proof.Machine.execRefCommand src slot action s
  | .refGetSlot src slot => Sys2Proof.Machine.execRefGetSlot src slot s
  | .refGetDpll src => Sys2Proof.Machine.execRefGetDpll src s
  | .refSteer src action value timeout level => Sys2Proof.Machine.execRefSteer src action value timeout level s
  | .refConfigurePpsOut src enable output offset width slew squelch => Sys2Proof.Machine.execRefConfigurePpsOut src enable output offset width slew squelch s
  | .refConfigureClkout src enable output fNum fDen mode offset slew swing squelch => Sys2Proof.Machine.execRefConfigureClkout src enable output fNum fDen mode offset slew swing squelch s
  | .refGetClkout src output => Sys2Proof.Machine.execRefGetClkout src output s
  | .ppsOutPulse output => Sys2Proof.Machine.execPpsOutPulse output s
  | .timeSet src target => Sys2Proof.Machine.execTimeSet src target s
  | .timeStep src ns sub => Sys2Proof.Machine.execTimeStep src ns sub s
  | .timeSetRate src rate => Sys2Proof.Machine.execTimeSetRate src rate s
  | .timeSetControl src control => Sys2Proof.Machine.execTimeSetControl src control s
  | .timeGet src => Sys2Proof.Machine.execTimeGet src s
  | .timeSetUtc src leap61 leap59 offset => Sys2Proof.Machine.execTimeSetUtc src leap61 leap59 offset s
  | .secSetStepGuard src g v => Sys2Proof.Machine.execSecSetStepGuard src g v s
  | .secAuthoriseStep src direction magnitude validity => Sys2Proof.Machine.execSecAuthoriseStep src direction magnitude validity s
  | .allowanceExpired => Sys2Proof.Machine.execAllowanceExpired s
  | .holdEnd => Sys2Proof.Machine.execHoldEnd s
  | .take pf1 => Sys2Proof.Machine.execTake pf1 s
  | .tsqStampTimeout queue => Sys2Proof.Machine.execTsqStampTimeout queue s
  | .tsqRdCountWrite queue value => Sys2Proof.Machine.execTsqRdCountWrite queue value s
  | .ptpConfigureInstance src enable slaveOnly inst profile domain identity prio1 prio2 localPrio => Sys2Proof.Machine.execPtpConfigureInstance src enable slaveOnly inst profile domain identity prio1 prio2 localPrio s
  | .ptpConfigurePort src masterOnly port inst transport dest addr logSync logDelay logAnnounce annTimeout syncTimeout delayTimeout twoStep localPrio coastLimit maxPath delayOutlier offsetOutlier filterLen => Sys2Proof.Machine.execPtpConfigurePort src masterOnly port inst transport dest addr logSync logDelay logAnnounce annTimeout syncTimeout delayTimeout twoStep localPrio coastLimit maxPath delayOutlier offsetOutlier filterLen s
  | .ptpGetInstance src inst => Sys2Proof.Machine.execPtpGetInstance src inst s
  | .ptpGetPort src clear port => Sys2Proof.Machine.execPtpGetPort src clear port s
  | .ptpConfigureTc src mode domains => Sys2Proof.Machine.execPtpConfigureTc src mode domains s
  | .servoConfigure src mode slot bandwidth maxSlew stepThr lockThr ppsOffset => Sys2Proof.Machine.execServoConfigure src mode slot bandwidth maxSlew stepThr lockThr ppsOffset s
  | .servoGet src => Sys2Proof.Machine.execServoGet src s
  | .asymConfigure src port mode c alpha partner lambdaOut lambdaIn k avg qLimit coast agree => Sys2Proof.Machine.execAsymConfigure src port mode c alpha partner lambdaOut lambdaIn k avg qLimit coast agree s
  | .asymGet src port => Sys2Proof.Machine.execAsymGet src port s
  | .ptpMessageRx port msg => Sys2Proof.Machine.execPtpMessageRx port msg s
  | .ptpMessageTx port kind tick sub => Sys2Proof.Machine.execPtpMessageTx port kind tick sub s
  | .announceReceiptTimeout inst => Sys2Proof.Machine.execAnnounceReceiptTimeout inst s
  | .syncReceiptTimeout inst => Sys2Proof.Machine.execSyncReceiptTimeout inst s
  | .delayResponseTimeout port => Sys2Proof.Machine.execDelayResponseTimeout port s
  | .delayCoastExpiry slot => Sys2Proof.Machine.execDelayCoastExpiry slot s
  | .asymFallback port => Sys2Proof.Machine.execAsymFallback port s
  | .mclkConfigureChannel src enable chan source sourceIdx selector fNum fDen freqLim hitLim actLim coastLim bandwidth orbitLen marker markerIdx markOffset frameLen => Sys2Proof.Machine.execMclkConfigureChannel src enable chan source sourceIdx selector fNum fDen freqLim hitLim actLim coastLim bandwidth orbitLen marker markerIdx markOffset frameLen s
  | .mclkConfigureOutput src squelch output chan mode m d offset slewLim w swing => Sys2Proof.Machine.execMclkConfigureOutput src squelch output chan mode m d offset slewLim w swing s
  | .mclkGet src chan => Sys2Proof.Machine.execMclkGet src chan s
  | .mclkSetOrbit src given chan t bunch orbit => Sys2Proof.Machine.execMclkSetOrbit src given chan t bunch orbit s
  | .stitchConfigureGroup src group action mask port => Sys2Proof.Machine.execStitchConfigureGroup src group action mask port s
  | .stitchConfigureTrigger src enable seqReset source channel kind target spacing seq => Sys2Proof.Machine.execStitchConfigureTrigger src enable seqReset source channel kind target spacing seq s
  | .stitchConfigureBroadcast src chan phaseTarget setInterval bcnTarget bcnInterval => Sys2Proof.Machine.execStitchConfigureBroadcast src chan phaseTarget setInterval bcnTarget bcnInterval s
  | .stitchConfigurePort src compensate rxLog port relayTrig relayTimed relayUser errThr => Sys2Proof.Machine.execStitchConfigurePort src compensate rxLog port relayTrig relayTimed relayUser errThr s
  | .stitchSend src type target payload => Sys2Proof.Machine.execStitchSend src type target payload s
  | .stitchSendTimed src target code e lead r => Sys2Proof.Machine.execStitchSendTimed src target code e lead r s
  | .stitchCancelTimed src handle => Sys2Proof.Machine.execStitchCancelTimed src handle s
  | .stitchGetPort src clear port => Sys2Proof.Machine.execStitchGetPort src clear port s
  | .stitchGetSequencer src clear => Sys2Proof.Machine.execStitchGetSequencer src clear s
  | .timedStitchReady => Sys2Proof.Machine.execTimedStitchReady s
  | .phaseSetIssue chan => Sys2Proof.Machine.execPhaseSetIssue chan s
  | .bcnIssue chan => Sys2Proof.Machine.execBcnIssue chan s
  | .markerEdge chan => Sys2Proof.Machine.execMarkerEdge chan s
  | .markerLost chan => Sys2Proof.Machine.execMarkerLost chan s
  | .mcActivityTimeout chan => Sys2Proof.Machine.execMcActivityTimeout chan s
  | .mcCoastLimit chan => Sys2Proof.Machine.execMcCoastLimit chan s
  | .parseConfigurePort src trustPcp trustDscp port malformed lenConflict profile pcpMap dscpMap defClass => Sys2Proof.Machine.execParseConfigurePort src trustPcp trustDscp port malformed lenConflict profile pcpMap dscpMap defClass s
  | .parseConfigureExtract src enable0 enable1 profile cond0 anchor0 offset0 width0 cond1 anchor1 offset1 width1 => Sys2Proof.Machine.execParseConfigureExtract src enable0 enable1 profile cond0 anchor0 offset0 width0 cond1 anchor1 offset1 width1 s
  | .aclStage src part bytes => Sys2Proof.Machine.execAclStage src part bytes s
  | .aclCommit src copy capture setClass steer redirect entry kind tc profile port => Sys2Proof.Machine.execAclCommit src copy capture setClass steer redirect entry kind tc profile port s
  | .aclDelete src entry => Sys2Proof.Machine.execAclDelete src entry s
  | .aclRead src clear entry part => Sys2Proof.Machine.execAclRead src clear entry part s
  | .steerConfigureProfile src symmetric profile mode fields seed field sh m b absent => Sys2Proof.Machine.execSteerConfigureProfile src symmetric profile mode fields seed field sh m b absent s
  | .steerWrite src table first count entries => Sys2Proof.Machine.execSteerWrite src table first count entries s
  | .steerRead src table first count => Sys2Proof.Machine.execSteerRead src table first count s
  | .slowConfigure src reason rate burst => Sys2Proof.Machine.execSlowConfigure src reason rate burst s
  | .parseGetCounts src clear port => Sys2Proof.Machine.execParseGetCounts src clear port s
  | .classSetMap src kind map first count classes => Sys2Proof.Machine.execClassSetMap src kind map first count classes s
  | .parseWindowClose port bytes ended taps symbols tick => Sys2Proof.Machine.execParseWindowClose port bytes ended taps symbols tick s
  | .admissionDecision frame => Sys2Proof.Machine.execAdmissionDecision frame s
  | .frameEnd frame bytes tick => Sys2Proof.Machine.execFrameEnd frame bytes tick s
  | .cellSlot => Sys2Proof.Machine.execCellSlot s
  | .egressFrameBoundary port tick sub => Sys2Proof.Machine.execEgressFrameBoundary port tick sub s
  | .copySent port tick => Sys2Proof.Machine.execCopySent port tick s
  | .spillBurst => Sys2Proof.Machine.execSpillBurst s
  | .returnBurst => Sys2Proof.Machine.execReturnBurst s
  | .skeinInitDone pass => Sys2Proof.Machine.execSkeinInitDone pass s
  | .skeinCellError copy fixed => Sys2Proof.Machine.execSkeinCellError copy fixed s
  | .skeinFault => Sys2Proof.Machine.execSkeinFault s
  | .cellEccError copies location fixed => Sys2Proof.Machine.execCellEccError copies location fixed s
  | .queueFlushed tile port cls egress => Sys2Proof.Machine.execQueueFlushed tile port cls egress s
  | .bufferConfigureClass src cls cl spillOn returnLow => Sys2Proof.Machine.execBufferConfigureClass src cls cl spillOn returnLow s
  | .queueConfigure src port cls ql weight => Sys2Proof.Machine.execQueueConfigure src port cls ql weight s
  | .portConfigureEgress src cut port limit => Sys2Proof.Machine.execPortConfigureEgress src cut port limit s
  | .skeinConfigure src spill cls => Sys2Proof.Machine.execSkeinConfigure src spill cls s
  | .skeinGetStatus src clear => Sys2Proof.Machine.execSkeinGetStatus src clear s
  | .coreGetQueue src clear port cls => Sys2Proof.Machine.execCoreGetQueue src clear port cls s
  | .bufferGetStatus src => Sys2Proof.Machine.execBufferGetStatus src s
  | .captureConfigure src enable trigger snap port k mask => Sys2Proof.Machine.execCaptureConfigure src enable trigger snap port k mask s
  | .capRdCountWrite value => Sys2Proof.Machine.execCapRdCountWrite value s
  | .capTimeout => Sys2Proof.Machine.execCapTimeout s
  | .classSetKind src port cls kind => Sys2Proof.Machine.execClassSetKind src port cls kind s
  | .contractSet src replace port cls lMax rate burst fmax mask => Sys2Proof.Machine.execContractSet src replace port cls lMax rate burst fmax mask s
  | .contractDelete src port cls => Sys2Proof.Machine.execContractDelete src port cls s
  | .contractCheck src replace port cls lMax rate burst fmax mask => Sys2Proof.Machine.execContractCheck src replace port cls lMax rate burst fmax mask s
  | .contractGet src clear port cls => Sys2Proof.Machine.execContractGet src clear port cls s
  | .guaranteedPoolSet src size => Sys2Proof.Machine.execGuaranteedPoolSet src size s
  | .contractDrained port cls => Sys2Proof.Machine.execContractDrained port cls s
  | .vlanConfigure src enable l3 vid members untagged unknown floodMgid rmac => Sys2Proof.Machine.execVlanConfigure src enable l3 vid members untagged unknown floodMgid rmac s
  | .portSetPvid src port pvid => Sys2Proof.Machine.execPortSetPvid src port pvid s
  | .routerMacSet src index mac => Sys2Proof.Machine.execRouterMacSet src index mac s
  | .l2Add src replace vid da result => Sys2Proof.Machine.execL2Add src replace vid da result s
  | .l2Delete src vid da => Sys2Proof.Machine.execL2Delete src vid da s
  | .nhWrite src decTtl nh port vid da rmac => Sys2Proof.Machine.execNhWrite src decTtl nh port vid da rmac s
  | .nhDelete src nh => Sys2Proof.Machine.execNhDelete src nh s
  | .hostAdd src replace family addr result => Sys2Proof.Machine.execHostAdd src replace family addr result s
  | .hostDelete src family addr => Sys2Proof.Machine.execHostDelete src family addr s
  | .lpmAdd src replace family pfx length result => Sys2Proof.Machine.execLpmAdd src replace family pfx length result s
  | .lpmDelete src family pfx length => Sys2Proof.Machine.execLpmDelete src family pfx length s
  | .memberStage src first count members => Sys2Proof.Machine.execMemberStage src first count members s
  | .ecmpCommit src group count profile => Sys2Proof.Machine.execEcmpCommit src group count profile s
  | .ecmpDelete src group => Sys2Proof.Machine.execEcmpDelete src group s
  | .mcastCommit src aon prune mgid count => Sys2Proof.Machine.execMcastCommit src aon prune mgid count s
  | .tableLookup src table key => Sys2Proof.Machine.execTableLookup src table key s
  | .tableReadIndex src table location => Sys2Proof.Machine.execTableReadIndex src table location s
  | .tableClearLost src table location => Sys2Proof.Machine.execTableClearLost src table location s
  | .tableGetUsage src clear => Sys2Proof.Machine.execTableGetUsage src clear s
  | .tableScrub table location fixed keyOk => Sys2Proof.Machine.execTableScrub table location fixed keyOk s
  | .tableRebuilt table location => Sys2Proof.Machine.execTableRebuilt table location s
  | .aclScrub failing => Sys2Proof.Machine.execAclScrub failing s
  | .pairConfigure src enable cycle lead commitTimeout joinTimeout watchdog skewGuard window chunkAge closeTimeout outcomeTimeout etherType plAsym => Sys2Proof.Machine.execPairConfigure src enable cycle lead commitTimeout joinTimeout watchdog skewGuard window chunkAge closeTimeout outcomeTimeout etherType plAsym s
  | .pairConfigurePort src port attach source base count untagged => Sys2Proof.Machine.execPairConfigurePort src port attach source base count untagged s
  | .pairGetStatus src clear => Sys2Proof.Machine.execPairGetStatus src clear s
  | .pairSwitchover src => Sys2Proof.Machine.execPairSwitchover src s
  | .pairResync src => Sys2Proof.Machine.execPairResync src s
  | .pairTest src duration => Sys2Proof.Machine.execPairTest src duration s
  | .pairGetDigest src clear source => Sys2Proof.Machine.execPairGetDigest src clear source s
  | .pairGetDup src source => Sys2Proof.Machine.execPairGetDup src source s
  | .partnerHello strap epoch order stepping => Sys2Proof.Machine.execPartnerHello strap epoch order stepping s
  | .joinTimeout => Sys2Proof.Machine.execJoinTimeout s
  | .pairAliveEdge cycle stable => Sys2Proof.Machine.execPairAliveEdge cycle stable s
  | .heartbeatLost => Sys2Proof.Machine.execHeartbeatLost s
  | .pairAliveToggle => Sys2Proof.Machine.execPairAliveToggle s
  | .pairWatchdogExpiry => Sys2Proof.Machine.execPairWatchdogExpiry s
  | .plSilent => Sys2Proof.Machine.execPlSilent s
  | .keepaliveTx => Sys2Proof.Machine.execKeepaliveTx s
  | .healthReportTx => Sys2Proof.Machine.execHealthReportTx s
  | .healthReportRx bytes => Sys2Proof.Machine.execHealthReportRx bytes s
  | .healthLost => Sys2Proof.Machine.execHealthLost s
  | .timeProbe t1 t2 t3 t4 partner => Sys2Proof.Machine.execTimeProbe t1 t2 t3 t4 partner s
  | .alignTickStart edge => Sys2Proof.Machine.execAlignTickStart edge s
  | .lifelineCycleEnd => Sys2Proof.Machine.execLifelineCycleEnd s
  | .commitMarkerRx cycle applyAt crcOk journal => Sys2Proof.Machine.execCommitMarkerRx cycle applyAt crcOk journal s
  | .lifelineAckRx cycle => Sys2Proof.Machine.execLifelineAckRx cycle s
  | .lifelineNackRx cycle => Sys2Proof.Machine.execLifelineNackRx cycle s
  | .lifelineConfirmRx cycle => Sys2Proof.Machine.execLifelineConfirmRx cycle s
  | .lifelineApply => Sys2Proof.Machine.execLifelineApply s
  | .commitTimeout => Sys2Proof.Machine.execCommitTimeout s
  | .xfeedCopyRx cross port source seq egress bytes tick sub stale coast kSec kSub => Sys2Proof.Machine.execXfeedCopyRx cross port source seq egress bytes tick sub stale coast kSec kSub s
  | .dupEntryExpiry source => Sys2Proof.Machine.execDupEntryExpiry source s
  | .digestBlockClose source block => Sys2Proof.Machine.execDigestBlockClose source block s
  | .digestOutcomeTimeout source block => Sys2Proof.Machine.execDigestOutcomeTimeout source block s
  | .digestRecordRx source block part => Sys2Proof.Machine.execDigestRecordRx source block part s
  | .selfTest test pass => Sys2Proof.Machine.execSelfTest test pass s
  | .secChallenge src role level => Sys2Proof.Machine.execSecChallenge src role level s
  | .secResponse src part bytes => Sys2Proof.Machine.execSecResponse src part bytes s
  | .secClose src => Sys2Proof.Machine.execSecClose src s
  | .secDebugLock src => Sys2Proof.Machine.execSecDebugLock src s
  | .secRevokeKey src slot => Sys2Proof.Machine.execSecRevokeKey src slot s
  | .secSetMinVersion src minimum => Sys2Proof.Machine.execSecSetMinVersion src minimum s
  | .secGetStatus src => Sys2Proof.Machine.execSecGetStatus src s
  | .sessionExpiry => Sys2Proof.Machine.execSessionExpiry s
  | .watchdog core => Sys2Proof.Machine.execWatchdog core s
  | .firewallFault core addr => Sys2Proof.Machine.execFirewallFault core addr s
  | .coreRestart core => Sys2Proof.Machine.execCoreRestart core s
  | .keeperLockstep => Sys2Proof.Machine.execKeeperLockstep s
  | .sharedSramError what arg => Sys2Proof.Machine.execSharedSramError what arg s
  | .mailboxFetch mb entry ext => Sys2Proof.Machine.execMailboxFetch mb entry ext s
  | .mbFault mb extension => Sys2Proof.Machine.execMbFault mb extension s
  | .submitCountWrite mb value => Sys2Proof.Machine.execSubmitCountWrite mb value s
  | .respRdCountWrite mb value => Sys2Proof.Machine.execRespRdCountWrite mb value s
  | .mailboxEnableSet mb => Sys2Proof.Machine.execMailboxEnableSet mb s
  | .mailboxEnableClear mb => Sys2Proof.Machine.execMailboxEnableClear mb s
  | .mailboxDrained mb => Sys2Proof.Machine.execMailboxDrained mb s
  | .mailboxReset mb => Sys2Proof.Machine.execMailboxReset mb s
  | .abortAll mb => Sys2Proof.Machine.execAbortAll mb s
  | .abortPos mb pos => Sys2Proof.Machine.execAbortPos mb pos s
  | .commandTimeout mb => Sys2Proof.Machine.execCommandTimeout mb s
  | .pf0FunctionLevelReset => Sys2Proof.Machine.execPf0FunctionLevelReset s
  | .pf1FunctionLevelReset => Sys2Proof.Machine.execPf1FunctionLevelReset s
  | .hotReset => Sys2Proof.Machine.execHotReset s
  | .busMasterEnable on => Sys2Proof.Machine.execBusMasterEnable on s
  | .ctxInject queue => Sys2Proof.Machine.execCtxInject queue s
  | .ctxReset value => Sys2Proof.Machine.execCtxReset value s
  | .slowPathFrame index => Sys2Proof.Machine.execSlowPathFrame index s
  | .chainStart chan => Sys2Proof.Machine.execChainStart chan s
  | .chainAbort chan => Sys2Proof.Machine.execChainAbort chan s
  | .chainMove chan instr => Sys2Proof.Machine.execChainMove chan instr s
  | .dmaBurst chan data => Sys2Proof.Machine.execDmaBurst chan data s
  | .chainLoop chan instr => Sys2Proof.Machine.execChainLoop chan instr s
  | .chainWait chan instr => Sys2Proof.Machine.execChainWait chan instr s
  | .waitConditionMet chan => Sys2Proof.Machine.execWaitConditionMet chan s
  | .waitTimeout chan => Sys2Proof.Machine.execWaitTimeout chan s
  | .chainSignal chan instr => Sys2Proof.Machine.execChainSignal chan instr s
  | .chainEnd chan instr => Sys2Proof.Machine.execChainEnd chan instr s
  | .cqRoom chan => Sys2Proof.Machine.execCqRoom chan s
  | .cqRdCountWrite chan value => Sys2Proof.Machine.execCqRdCountWrite chan value s
  | .dmaWatchdogExpiry chan => Sys2Proof.Machine.execDmaWatchdogExpiry chan s
  | .budgetExhausted chan => Sys2Proof.Machine.execBudgetExhausted chan s
  | .dmaPcieError chan timeout => Sys2Proof.Machine.execDmaPcieError chan timeout s
  | .vectorTimerExpiry vec => Sys2Proof.Machine.execVectorTimerExpiry vec s
  | .msixMessageSend vec => Sys2Proof.Machine.execMsixMessageSend vec s
  | .maskWrite reg value => Sys2Proof.Machine.execMaskWrite reg value s
  | .vecCtrlWrite vec value => Sys2Proof.Machine.execVecCtrlWrite vec value s
  | .logRdCountWrite value => Sys2Proof.Machine.execLogRdCountWrite value s
  | .snapNow => Sys2Proof.Machine.execSnapNow s
  | .snapAtFence => Sys2Proof.Machine.execSnapAtFence s
  | .snapDone => Sys2Proof.Machine.execSnapDone s
  | .counterClear src block first count => Sys2Proof.Machine.execCounterClear src block first count s
  | .eventInject src source cause data => Sys2Proof.Machine.execEventInject src source cause data s
  | .readClearField win req => Sys2Proof.Machine.execReadClearField win req s
  | .registerWrite win offset data => Sys2Proof.Machine.execRegisterWrite win offset data s
  | .coldReset low => Sys2Proof.Machine.execColdReset low s
  | .supplyFault supply => Sys2Proof.Machine.execSupplyFault supply s
  | .supplyRestored supply => Sys2Proof.Machine.execSupplyRestored supply s
  | .thermtrip sensor => Sys2Proof.Machine.execThermtrip sensor s
  | .sensorConversion sensor value => Sys2Proof.Machine.execSensorConversion sensor value s
  | .sensorConversionTimeout sensor => Sys2Proof.Machine.execSensorConversionTimeout sensor s
  | .sensorRecovered sensor => Sys2Proof.Machine.execSensorRecovered sensor s
  | .romCheck ok order serial strap hashes fullDebug => Sys2Proof.Machine.execRomCheck ok order serial strap hashes fullDebug s
  | .flashReadDone a b => Sys2Proof.Machine.execFlashReadDone a b s
  | .rootLock => Sys2Proof.Machine.execRootLock s
  | .rootLockTimeout => Sys2Proof.Machine.execRootLockTimeout s
  | .coreLoadDone => Sys2Proof.Machine.execCoreLoadDone s
  | .bootConfigDone => Sys2Proof.Machine.execBootConfigDone s
  | .ospiReadId => Sys2Proof.Machine.execOspiReadId s
  | .ospiReadStatus => Sys2Proof.Machine.execOspiReadStatus s
  | .ospiReadSensors => Sys2Proof.Machine.execOspiReadSensors s
  | .recoveryErase => Sys2Proof.Machine.execRecoveryErase s
  | .recoveryEraseDone => Sys2Proof.Machine.execRecoveryEraseDone s
  | .recoveryWrite offset bytes => Sys2Proof.Machine.execRecoveryWrite offset bytes s
  | .recoveryCommit => Sys2Proof.Machine.execRecoveryCommit s
  | .ospiReset opcode kind => Sys2Proof.Machine.execOspiReset opcode kind s
  | .ospiCsTimeout => Sys2Proof.Machine.execOspiCsTimeout s
  | .clkoutAligned output => Sys2Proof.Machine.execClkoutAligned output s
  | .orbitStart chan => Sys2Proof.Machine.execOrbitStart chan s
  | .pairTestEnd => Sys2Proof.Machine.execPairTestEnd s
  | .keeperRestartDone => Sys2Proof.Machine.execKeeperRestartDone s
  | .inputRecovered input level => Sys2Proof.Machine.execInputRecovered input level s
  | .debugTapInstruction instr => Sys2Proof.Machine.execDebugTapInstruction instr s

end Sys2Proof.Machine
end

