-- ==== Sys2Proof/WellFormed.lean ====
section
/-!
DEFINITION. Which commands can exist: a parameter of a mailbox command fits the width that its layout gives it (R447), and an event or a
step of an engine names an object the device has. A command that fails this is one that no host, board or engine can give.
-/
namespace Sys2Proof

/-- `v` fits `w` bits. -/
def fits (w v : Nat) : Bool := decide (v < 2 ^ w)

/-- `v` fits `w` bits, two's complement. -/
def fitsS (w : Nat) (v : Int) : Bool := decide (-(2 ^ (w - 1) : Int) ≤ v ∧ v < 2 ^ (w - 1))

/-- The mailboxes are MB0 to MB7, and an overlay slot is one of 0 to 15 (R441, R420). -/
def CmdSrc.wf : CmdSrc → Bool
  | .mailbox m => decide (m < 8)
  | .overlay n => decide (n < 16)
  | .journal m _ => decide (m < 8)
  | .config => true
  | .direct => true

/-- The widths of a KTIME parameter (R447). -/
def KTime.wf (k : KTime) : Bool := fits 64 k.sec && fits 32 k.ns && fits 16 k.sub

/-- The widths of a staged member (R315). -/
def Member.wf (m : Member) : Bool := fits 16 m.nh && fits 16 m.port && fits 16 m.vid

/-- The streams that carry fence markers (R466). -/
def StreamId.wf : StreamId → Bool
  | .tsq q => decide (q < 4)
  | .ring r => decide (r < 8)
  | .cq n => decide (n < 32)
  | .capture => true
  | .log => true

/-- The cores that the TAP reaches: C0 to C13 and the Keeper as 14 (R434). -/
def TapInstr.wf : TapInstr → Bool
  | .halt n => decide (n < 15)
  | .release n => decide (n < 15)
  | .step n => decide (n < 15)
  | .access n => decide (n < 15)
  | _ => true

/-- The port a lane state machine serves: a port, or a pair link, named by its first lane (R32). -/
def portWf (p : Nat) : Bool := decide (p < 256 ∨ p = 256 ∨ p = 260)

/-- The reference slots that have an activity timeout (R140). -/
def slotWf (n : Nat) : Bool := decide (n < 8 ∨ (28 ≤ n ∧ n < 31))

/-- A table of R302 and a location in it. -/
def tableLocWf (t l : Nat) : Bool := decide (t < 11) && fits 32 l

/-- The stamp of a received PTP message (R187): SUB lies below one CORE cycle. -/
def PtpRx.wf (x : PtpRx) : Bool := decide (x.sub < 65536)

/-- Whether a command can exist. -/
def Instr.wellFormed : Instr → Bool
  | .nop src bytes => src.wf && decide (bytes.length = 56)
  | .fence src => src.wf
  | .fenceMarkerWrite stream => stream.wf
  | .sysPowerDomain src _ domain => src.wf && fits 16 domain
  | .sysGetStatus src => src.wf
  | .sysSetBoard src param period region base length mask => src.wf && fits 8 param && fits 64 period && fits 16 region && fits 32 base && fits 32 length && fits 32 mask
  | .sysReset src kind => src.wf && fits 8 kind
  | .resetStart => true
  | .sysGetPower src => src.wf
  | .sysGetThermal src => src.wf
  | .sysConfigureThermal src warn throttleAt hyst fraction => src.wf && fitsS 32 warn && fitsS 32 throttleAt && fitsS 32 hyst && fits 32 fraction
  | .sysSetSensor src sensor mark => src.wf && fits 16 sensor && fits 8 mark
  | .imgLoad src target addr length _ => src.wf && fits 8 target && fits 64 addr && fits 32 length
  | .imgValidate src slot => src.wf && fits 16 slot
  | .imgArm src slot mode t => src.wf && fits 16 slot && fits 8 mode && t.wf
  | .imgDisarm src slot => src.wf && fits 16 slot
  | .imgGetStatus src slot => src.wf && fits 16 slot
  | .imgErase src slot => src.wf && fits 16 slot
  | .overlaySwitch => true
  | .portConfigure src port mode width fec maxFrame => src.wf && fits 16 port && fits 8 mode && fits 32 width && fits 8 fec && fits 32 maxFrame
  | .portCastOn src port => src.wf && fits 16 port
  | .portBindOff src port drain => src.wf && fits 16 port && fits 64 drain
  | .portSetPolicy src port castTimeout holdDown flapLimit flapWindow recast => src.wf && fits 16 port && fits 64 castTimeout && fits 64 holdDown && fits 32 flapLimit && fits 64 flapWindow && fits 8 recast
  | .laneGetStatus src lane => src.wf && fits 16 lane
  | .laneGetLatency src lane => src.wf && fits 16 lane
  | .laneSetChannelTable src sect => src.wf && fits 16 sect
  | .laneRelatch src lane => src.wf && fits 16 lane
  | .laneSwatch src _ lane action txPattern rxPattern loopback injKind injArg => src.wf && fits 16 lane && fits 8 action && fits 8 txPattern && fits 8 rxPattern && fits 8 loopback && fits 8 injKind && fits 32 injArg
  | .swatchLock lane => decide (lane < 264)
  | .swatchLoss lane bits errors => decide (lane < 264) && decide (errors ≤ bits)
  | .laneSweep src lane vga dwell => src.wf && fits 16 lane && fits 32 vga && fits 64 dwell
  | .sweepDone lane counts => decide (lane < 264) && decide (counts.length = 1024) && counts.all (fits 16)
  | .laneSweepRead src lane page => src.wf && fits 16 lane && fits 32 page
  | .selvedgeConfigure src port slots markInterval outlier rangeTimeout' => src.wf && fits 16 port && fits 32 slots && fits 32 markInterval && fits 64 outlier && fits 64 rangeTimeout'
  | .selvedgeGetRange src port => src.wf && fits 16 port
  | .moduleRead src module bank page offset length => src.wf && fits 32 module && fits 32 bank && fits 32 page && fits 32 offset && fits 32 length
  | .moduleWrite src module bank page offset length data => src.wf && fits 32 module && fits 32 bank && fits 32 page && fits 32 offset && fits 32 length && decide (data.length = 8)
  | .laneLocked port => portWf port
  | .castOnTimerExpiry port => portWf port
  | .provingWindowEnd port _ offsets deskews => portWf port && decide (offsets.length = deskews.length)
  | .los lane => decide (lane < 264)
  | .lockLoss lane _ => decide (lane < 264)
  | .freqRange lane _ => decide (lane < 264)
  | .holdDownExpiry port => portWf port
  | .egressQueuesEmpty port => decide (port < 256)
  | .drainTimeout port => decide (port < 256)
  | .bindOffLingerEnd port => decide (port < 256)
  | .sgpioFrame bits => bits.all fun b => decide (b < 4)
  | .sgpioStall => true
  | .stitchBlockRx port index _ _ _ _ => decide (port < 256) && [0, 64, 128, 192].contains index
  | .rangeTimeout port => decide (port < 256)
  | .stitchSlot group => decide (group < 6)
  | .stitchArrival => true
  | .stitchReady => true
  | .tdcConfigureEvt src _ _ channel edge hyst holdoff prescaler ring offset rateLimit silence => src.wf && fits 16 channel && fits 8 edge && fits 8 hyst && fits 16 holdoff && fits 32 prescaler && fits 16 ring && fitsS 64 offset && fits 32 rateLimit && fits 64 silence
  | .tdcConfigureGroup src group mode level pulse maxLen => src.wf && fits 16 group && fits 8 mode && fits 8 level && fits 64 pulse && fits 64 maxLen
  | .tdcSetInterval src _ engine start stop window ring => src.wf && fits 16 engine && fits 16 start && fits 16 stop && fits 64 window && fits 16 ring
  | .tdcGetChannel src _ channel => src.wf && fits 16 channel
  | .tdcGetLane src lane => src.wf && fits 16 lane
  | .tdcSetLaneWindow src w => src.wf && fits 8 w
  | .tdcCaptureTap src lane action ring d => src.wf && fits 16 lane && fits 8 action && fits 16 ring && fits 32 d
  | .evtEdge ch _ phase fine _ => decide (280 ≤ ch ∧ ch < 312) && decide (phase < 16) && decide (fine < 32)
  | .inputOpen input => decide (input < 32)
  | .rateWindow ch => decide (280 ≤ ch ∧ ch < 312)
  | .silent ch => decide (280 ≤ ch ∧ ch < 312)
  | .tapEdge lane _ phase fine => decide (lane < 264) && decide (phase < 16) && decide (fine < 32)
  | .ringWrite ring => decide (ring < 8)
  | .ringTimeout ring => decide (ring < 8)
  | .ringRdCountWrite ring _ => decide (ring < 8)
  | .gatePinChange group _ _ => decide (group < 4)
  | .swGateOpen _ => true
  | .swGateClose _ => true
  | .gatePulseEnd group => decide (group < 4)
  | .gateTimeout group => decide (group < 4)
  | .intervalResult engine => decide (engine < 32)
  | .gaugeConfigure src trigger minInterval target runTimeout retry periodic source18 source19 => src.wf && fitsS 32 trigger && fits 64 minInterval && fits 32 target && fits 64 runTimeout && fits 64 retry && fits 64 periodic && fits 8 source18 && fits 8 source19
  | .gaugeRun src region => src.wf && fits 16 region
  | .gaugeFull src _ region => src.wf && fits 16 region
  | .gaugeGetStatus src region => src.wf && fits 16 region
  | .gaugeRestore src _ region mode => src.wf && fits 16 region && fits 8 mode
  | .gaugeHold src duration => src.wf && fits 64 duration
  | .gaugeHoldLapse => true
  | .stageLoad _ => true
  | .gaugeRunStart => true
  | .gaugeRunEnd _ => true
  | .fullCalibrationDone region _ => decide (region < 21)
  | .gaugePeriodicTimer region => decide (region < 21)
  | .gaugeTempUnavailable region => decide (region < 21)
  | .dllUnlock loss => decide (loss.ch < 320)
  | .dllRelock lock => decide (lock.ch < 320)
  | .dllRelockTimeout ch => decide (ch < 320)
  | .gaugeCopyCheck region _ _ _ _ => decide (region < 21)
  | .laneWindowBoundary => true
  | .refEdge ch _ phase fine _ => decide (264 ≤ ch ∧ ch < 280) && decide (phase < 16) && decide (fine < 32)
  | .refActivityTimeout slot => slotWf slot
  | .xoMonitorWindow _ => true
  | .holdoverInspecExpiry => true
  | .steerTimeout => true
  | .levelTimeout slot => decide (8 ≤ slot ∧ slot < 24)
  | .esmcPduTx port => decide (port < 256)
  | .refConfigureSlot src _ _ _ slot fNum fDen div edge source prio level acceptLim rejectLim rejectHold acceptHold hitLim hitBudget coastLim => src.wf && fits 16 slot && fits 32 fNum && fits 32 fDen && fits 32 div && fits 8 edge && fits 16 source && fits 16 prio && fits 16 level && fitsS 64 acceptLim && fitsS 64 rejectLim && fits 64 rejectHold && fits 64 acceptHold && fits 64 hitLim && fits 32 hitBudget && fits 64 coastLim
  | .refConfigureSelection src qlMode revert wtr tieLimit tieHold freeLevel avgTime guardTime inSpec => src.wf && fits 8 qlMode && fits 8 revert && fits 64 wtr && fitsS 64 tieLimit && fits 64 tieHold && fits 16 freeLevel && fits 64 avgTime && fits 64 guardTime && fits 64 inSpec
  | .refConfigureDpll src trackBw acqBw slope lockThr lossThr => src.wf && fits 32 trackBw && fits 32 acqBw && fitsS 64 slope && fits 64 lockThr && fits 64 lossThr
  | .refCommand src slot action => src.wf && fits 16 slot && fits 8 action
  | .refGetSlot src slot => src.wf && fits 16 slot
  | .refGetDpll src => src.wf
  | .refSteer src action value timeout level => src.wf && fits 8 action && fitsS 64 value && fits 64 timeout && fits 16 level
  | .refConfigurePpsOut src _ output offset width slew squelch => src.wf && fits 16 output && fitsS 64 offset && fits 64 width && fits 64 slew && fits 16 squelch
  | .refConfigureClkout src _ output fNum fDen mode offset slew swing squelch => src.wf && fits 16 output && fits 32 fNum && fits 32 fDen && fits 8 mode && fitsS 64 offset && fits 64 slew && fits 8 swing && fits 16 squelch
  | .refGetClkout src output => src.wf && fits 16 output
  | .ppsOutPulse output => decide (output < 2)
  | .timeSet src target => src.wf && target.wf
  | .timeStep src ns sub => src.wf && fitsS 64 ns && fits 16 sub
  | .timeSetRate src rate => src.wf && fitsS 64 rate
  | .timeSetControl src control => src.wf && fits 8 control
  | .timeGet src => src.wf
  | .timeSetUtc src _ _ offset => src.wf && fits 32 offset
  | .secSetStepGuard src g v => src.wf && fits 64 g && fits 64 v
  | .secAuthoriseStep src direction magnitude validity => src.wf && fits 8 direction && fits 64 magnitude && fits 64 validity
  | .allowanceExpired => true
  | .holdEnd => true
  | .take _ => true
  | .tsqStampTimeout queue => decide (queue < 4)
  | .tsqRdCountWrite queue _ => decide (queue < 4)
  | .ptpConfigureInstance src _ _ inst profile domain identity prio1 prio2 localPrio => src.wf && fits 16 inst && fits 8 profile && fits 32 domain && decide (identity.length = 8) && fits 16 prio1 && fits 16 prio2 && fits 16 localPrio
  | .ptpConfigurePort src _ port inst transport dest addr logSync logDelay logAnnounce annTimeout syncTimeout delayTimeout twoStep localPrio coastLimit maxPath delayOutlier offsetOutlier filterLen => src.wf && fits 16 port && fits 16 inst && fits 8 transport && fits 8 dest && fits 128 addr && fitsS 32 logSync && fitsS 32 logDelay && fitsS 32 logAnnounce && fits 32 annTimeout && fits 32 syncTimeout && fits 32 delayTimeout && fits 8 twoStep && fits 16 localPrio && fits 64 coastLimit && fits 64 maxPath && fits 64 delayOutlier && fits 64 offsetOutlier && fits 32 filterLen
  | .ptpGetInstance src inst => src.wf && fits 16 inst
  | .ptpGetPort src _ port => src.wf && fits 16 port
  | .ptpConfigureTc src mode _ => src.wf && fits 8 mode
  | .servoConfigure src mode slot bandwidth maxSlew stepThr lockThr ppsOffset => src.wf && fits 8 mode && fits 16 slot && fits 32 bandwidth && fitsS 64 maxSlew && fits 64 stepThr && fits 64 lockThr && fitsS 64 ppsOffset
  | .servoGet src => src.wf
  | .asymConfigure src port mode c alpha partner lambdaOut lambdaIn k avg qLimit coast agree => src.wf && fits 16 port && fits 8 mode && fitsS 64 c && fitsS 64 alpha && fits 16 partner && fits 32 lambdaOut && fits 32 lambdaIn && fitsS 64 k && fits 64 avg && fits 32 qLimit && fits 64 coast && fits 64 agree
  | .asymGet src port => src.wf && fits 16 port
  | .ptpMessageRx port msg => decide (port < 256) && msg.wf
  | .ptpMessageTx port _ _ _ => decide (port < 256)
  | .announceReceiptTimeout inst => decide (inst < 4)
  | .syncReceiptTimeout inst => decide (inst < 4)
  | .delayResponseTimeout port => decide (port < 256)
  | .delayCoastExpiry slot => decide (8 ≤ slot ∧ slot < 28)
  | .asymFallback port => decide (port < 256)
  | .mclkConfigureChannel src _ chan source sourceIdx selector fNum fDen freqLim hitLim actLim coastLim bandwidth orbitLen marker markerIdx markOffset frameLen => src.wf && fits 16 chan && fits 8 source && fits 16 sourceIdx && fits 16 selector && fits 32 fNum && fits 32 fDen && fitsS 64 freqLim && fits 64 hitLim && fits 64 actLim && fits 64 coastLim && fits 32 bandwidth && fits 32 orbitLen && fits 8 marker && fits 16 markerIdx && fitsS 64 markOffset && fits 32 frameLen
  | .mclkConfigureOutput src _ output chan mode m d offset slewLim w swing => src.wf && fits 16 output && fits 16 chan && fits 8 mode && fits 32 m && fits 32 d && fitsS 64 offset && fitsS 64 slewLim && fits 32 w && fits 8 swing
  | .mclkGet src chan => src.wf && fits 16 chan
  | .mclkSetOrbit src _ chan t bunch orbit => src.wf && fits 16 chan && t.wf && fits 32 bunch && fits 64 orbit
  | .stitchConfigureGroup src group action _ port => src.wf && fits 16 group && fits 8 action && fits 16 port
  | .stitchConfigureTrigger src _ _ source channel kind target spacing seq => src.wf && fits 16 source && fits 16 channel && fits 16 kind && fits 16 target && fits 64 spacing && fits 32 seq
  | .stitchConfigureBroadcast src chan phaseTarget setInterval bcnTarget bcnInterval => src.wf && fits 16 chan && fits 16 phaseTarget && fits 64 setInterval && fits 16 bcnTarget && fits 32 bcnInterval
  | .stitchConfigurePort src _ _ port relayTrig relayTimed relayUser errThr => src.wf && fits 16 port && fits 16 relayTrig && fits 16 relayTimed && fits 16 relayUser && fits 32 errThr
  | .stitchSend src type target payload => src.wf && fits 8 type && fits 16 target && fits 64 payload
  | .stitchSendTimed src target code e lead r => src.wf && fits 16 target && fits 16 code && e.wf && fits 64 lead && fits 32 r
  | .stitchCancelTimed src handle => src.wf && fits 32 handle
  | .stitchGetPort src _ port => src.wf && fits 16 port
  | .stitchGetSequencer src _ => src.wf
  | .timedStitchReady => true
  | .phaseSetIssue chan => decide (chan < 4)
  | .bcnIssue chan => decide (chan < 4)
  | .markerEdge chan => decide (chan < 4)
  | .markerLost chan => decide (chan < 4)
  | .mcActivityTimeout chan => decide (chan < 4)
  | .mcCoastLimit chan => decide (chan < 4)
  | .parseConfigurePort src _ _ port malformed lenConflict profile pcpMap dscpMap defClass => src.wf && fits 16 port && fits 8 malformed && fits 8 lenConflict && fits 16 profile && fits 16 pcpMap && fits 16 dscpMap && fits 16 defClass
  | .parseConfigureExtract src _ _ profile cond0 anchor0 offset0 width0 cond1 anchor1 offset1 width1 => src.wf && fits 16 profile && fits 8 cond0 && fits 8 anchor0 && fits 32 offset0 && fits 32 width0 && fits 8 cond1 && fits 8 anchor1 && fits 32 offset1 && fits 32 width1
  | .aclStage src part bytes => src.wf && fits 16 part && decide (bytes.length = 40)
  | .aclCommit src _ _ _ _ _ entry kind tc profile port => src.wf && fits 16 entry && fits 8 kind && fits 16 tc && fits 16 profile && fits 16 port
  | .aclDelete src entry => src.wf && fits 16 entry
  | .aclRead src _ entry part => src.wf && fits 16 entry && fits 16 part
  | .steerConfigureProfile src _ profile mode fields seed field sh m b absent => src.wf && fits 16 profile && fits 8 mode && fits 32 fields && fits 32 seed && fits 8 field && fits 32 sh && fits 32 m && fits 32 b && fits 8 absent
  | .steerWrite src table first count entries => src.wf && fits 16 table && fits 16 first && fits 16 count && entries.all (fits 32)
  | .steerRead src table first count => src.wf && fits 16 table && fits 16 first && fits 16 count
  | .slowConfigure src reason rate burst => src.wf && fits 16 reason && fits 32 rate && fits 32 burst
  | .parseGetCounts src _ port => src.wf && fits 16 port
  | .classSetMap src kind map first count classes => src.wf && fits 8 kind && fits 16 map && fits 16 first && fits 16 count && classes.all (fits 16)
  | .parseWindowClose port bytes ended _ _ _ => decide (port < 256) && if ended then decide (bytes.length ≤ 256) else decide (bytes.length = 256)
  | .admissionDecision _ => true
  | .frameEnd _ bytes _ => decide (256 < bytes.length)
  | .cellSlot => true
  | .egressFrameBoundary port _ _ => decide (port < 256)
  | .copySent port _ => decide (port < 256)
  | .spillBurst => true
  | .returnBurst => true
  | .skeinInitDone _ => true
  | .skeinCellError _ _ => true
  | .skeinFault => true
  | .cellEccError _ location _ => decide (location < 524288)
  | .queueFlushed tile port cls _ => decide (port < 256) && decide (tile < 64) && decide (cls < 8)
  | .bufferConfigureClass src cls cl spillOn returnLow => src.wf && fits 16 cls && fits 32 cl && fits 32 spillOn && fits 32 returnLow
  | .queueConfigure src port cls ql weight => src.wf && fits 16 port && fits 16 cls && fits 32 ql && fits 32 weight
  | .portConfigureEgress src _ port limit => src.wf && fits 16 port && fits 32 limit
  | .skeinConfigure src _ cls => src.wf && fits 16 cls
  | .skeinGetStatus src _ => src.wf
  | .coreGetQueue src _ port cls => src.wf && fits 16 port && fits 16 cls
  | .bufferGetStatus src => src.wf
  | .captureConfigure src _ trigger snap port k _ => src.wf && fits 16 trigger && fits 32 snap && fits 16 port && fits 32 k
  | .capRdCountWrite _ => true
  | .capTimeout => true
  | .classSetKind src port cls kind => src.wf && fits 16 port && fits 16 cls && fits 8 kind
  | .contractSet src _ port cls lMax rate burst fmax _ => src.wf && fits 16 port && fits 16 cls && fits 64 lMax && fits 32 rate && fits 32 burst && fits 32 fmax
  | .contractDelete src port cls => src.wf && fits 16 port && fits 16 cls
  | .contractCheck src _ port cls lMax rate burst fmax _ => src.wf && fits 16 port && fits 16 cls && fits 64 lMax && fits 32 rate && fits 32 burst && fits 32 fmax
  | .contractGet src _ port cls => src.wf && fits 16 port && fits 16 cls
  | .guaranteedPoolSet src size => src.wf && fits 32 size
  | .contractDrained port cls => decide (port < 256) && decide (4 ≤ cls ∧ cls < 8)
  | .vlanConfigure src _ _ vid _ _ unknown floodMgid rmac => src.wf && fits 32 vid && fits 8 unknown && fits 32 floodMgid && fits 16 rmac
  | .portSetPvid src port pvid => src.wf && fits 16 port && fits 32 pvid
  | .routerMacSet src index mac => src.wf && fits 16 index && fits 48 mac
  | .l2Add src _ vid da result => src.wf && fits 32 vid && fits 48 da && fits 32 result
  | .l2Delete src vid da => src.wf && fits 32 vid && fits 48 da
  | .nhWrite src _ nh port vid da rmac => src.wf && fits 32 nh && fits 16 port && fits 32 vid && fits 48 da && fits 16 rmac
  | .nhDelete src nh => src.wf && fits 32 nh
  | .hostAdd src _ family addr result => src.wf && fits 8 family && fits 128 addr && fits 32 result
  | .hostDelete src family addr => src.wf && fits 8 family && fits 128 addr
  | .lpmAdd src _ family pfx length result => src.wf && fits 8 family && fits 128 pfx && fits 32 length && fits 32 result
  | .lpmDelete src family pfx length => src.wf && fits 8 family && fits 128 pfx && fits 32 length
  | .memberStage src first count members => src.wf && fits 16 first && fits 16 count && members.all Member.wf
  | .ecmpCommit src group count profile => src.wf && fits 16 group && fits 16 count && fits 16 profile
  | .ecmpDelete src group => src.wf && fits 16 group
  | .mcastCommit src _ _ mgid count => src.wf && fits 32 mgid && fits 16 count
  | .tableLookup src table _ => src.wf && fits 16 table
  | .tableReadIndex src table location => src.wf && fits 16 table && fits 32 location
  | .tableClearLost src table location => src.wf && fits 16 table && fits 32 location
  | .tableGetUsage src _ => src.wf
  | .tableScrub table location _ _ => tableLocWf table location
  | .tableRebuilt table location => tableLocWf table location
  | .aclScrub failing => failing.all fun e => decide (e < 32768)
  | .pairConfigure src _ cycle lead commitTimeout' joinTimeout' watchdog' skewGuard window chunkAge closeTimeout outcomeTimeout etherType plAsym => src.wf && fits 64 cycle && fits 64 lead && fits 32 commitTimeout' && fits 64 joinTimeout' && fits 64 watchdog' && fits 64 skewGuard && fits 32 window && fits 64 chunkAge && fits 64 closeTimeout && fits 64 outcomeTimeout && fits 32 etherType && fitsS 64 plAsym
  | .pairConfigurePort src port attach source base count untagged => src.wf && fits 16 port && fits 8 attach && fits 16 source && fits 16 base && fits 16 count && fits 8 untagged
  | .pairGetStatus src _ => src.wf
  | .pairSwitchover src => src.wf
  | .pairResync src => src.wf
  | .pairTest src duration => src.wf && fits 64 duration
  | .pairGetDigest src _ source => src.wf && fits 16 source
  | .pairGetDup src source => src.wf && fits 16 source
  | .partnerHello _ _ _ _ => true
  | .joinTimeout => true
  | .pairAliveEdge _ _ => true
  | .heartbeatLost => true
  | .pairAliveToggle => true
  | .pairWatchdogExpiry => true
  | .plSilent => true
  | .keepaliveTx => true
  | .healthReportTx => true
  | .healthReportRx bytes => decide (bytes.length = 64)
  | .healthLost => true
  | .timeProbe _ _ _ _ _ => true
  | .alignTickStart _ => true
  | .lifelineCycleEnd => true
  | .commitMarkerRx _ _ _ _ => true
  | .lifelineAckRx _ => true
  | .lifelineNackRx _ => true
  | .lifelineConfirmRx _ => true
  | .lifelineApply => true
  | .commitTimeout => true
  | .xfeedCopyRx _ port source seq egress bytes _ _ _ _ _ kSub => decide (port < 256) && decide (kSub < 65536000000000) && decide (source < 65536) && fits 24 seq && decide (egress < 256) && decide (64 ≤ bytes.length ∧ bytes.length ≤ 16384)
  | .dupEntryExpiry source => decide (source < 65536)
  | .digestBlockClose source block => decide (source < 65536) && decide (block < 16384)
  | .digestOutcomeTimeout source block => decide (source < 65536) && decide (block < 16384)
  | .digestRecordRx source block _ => decide (source < 65536) && decide (block < 16384)
  | .selfTest test _ => decide (test < 8)
  | .secChallenge src role level => src.wf && fits 8 role && fits 8 level
  | .secResponse src part bytes => src.wf && fits 16 part && decide (bytes.length = 48)
  | .secClose src => src.wf
  | .secDebugLock src => src.wf
  | .secRevokeKey src slot => src.wf && fits 16 slot
  | .secSetMinVersion src minimum => src.wf && fits 32 minimum
  | .secGetStatus src => src.wf
  | .sessionExpiry => true
  | .watchdog core => decide (core < 14)
  | .firewallFault core _ => decide (core < 14)
  | .coreRestart core => decide (core < 14)
  | .keeperLockstep => true
  | .sharedSramError _ _ => true
  | .mailboxFetch mb entry _ => decide (mb < 8) && decide (entry.length = 64)
  | .mbFault mb _ => decide (mb < 8)
  | .submitCountWrite mb _ => decide (mb < 8)
  | .respRdCountWrite mb _ => decide (mb < 8)
  | .mailboxEnableSet mb => decide (mb < 8)
  | .mailboxEnableClear mb => decide (mb < 8)
  | .mailboxDrained mb => decide (mb < 8)
  | .mailboxReset mb => decide (mb < 8)
  | .abortAll mb => decide (mb < 8)
  | .abortPos mb _ => decide (mb < 8)
  | .commandTimeout mb => decide (mb < 8)
  | .pf0FunctionLevelReset => true
  | .pf1FunctionLevelReset => true
  | .hotReset => true
  | .busMasterEnable _ => true
  | .ctxInject queue => decide (queue < 4)
  | .ctxReset _ => true
  | .slowPathFrame _ => true
  | .chainStart chan => decide (chan < 32)
  | .chainAbort chan => decide (chan < 32)
  | .chainMove chan instr => decide (chan < 32) && decide (instr.length = 32)
  | .dmaBurst chan _ => decide (chan < 32)
  | .chainLoop chan instr => decide (chan < 32) && decide (instr.length = 32)
  | .chainWait chan instr => decide (chan < 32) && decide (instr.length = 32)
  | .waitConditionMet chan => decide (chan < 32)
  | .waitTimeout chan => decide (chan < 32)
  | .chainSignal chan instr => decide (chan < 32) && decide (instr.length = 32)
  | .chainEnd chan instr => decide (chan < 32) && decide (instr.length = 32)
  | .cqRoom chan => decide (chan < 32)
  | .cqRdCountWrite chan _ => decide (chan < 32)
  | .dmaWatchdogExpiry chan => decide (chan < 32)
  | .budgetExhausted chan => decide (chan < 32)
  | .dmaPcieError chan _ => decide (chan < 32)
  | .vectorTimerExpiry vec => decide (vec < 64)
  | .msixMessageSend vec => decide (vec < 64)
  | .maskWrite reg _ => decide (reg < 32)
  | .vecCtrlWrite vec _ => decide (vec < 64)
  | .logRdCountWrite _ => true
  | .snapNow => true
  | .snapAtFence => true
  | .snapDone => true
  | .counterClear src block first count => src.wf && fits 8 block && fits 16 first && fits 16 count
  | .eventInject src source cause data => src.wf && fits 16 source && fits 16 cause && decide (data.length = 16)
  | .readClearField win req => decide (req.offset + req.enables.length ≤ win.size)
  | .registerWrite win offset data => decide (offset + data.length ≤ win.size)
  | .coldReset _ => true
  | .supplyFault supply => decide (supply < 9)
  | .supplyRestored supply => decide (supply < 9)
  | .thermtrip sensor => decide (sensor < 16)
  | .sensorConversion sensor _ => decide (sensor < 16)
  | .sensorConversionTimeout sensor => decide (sensor < 16)
  | .sensorRecovered sensor => decide (sensor < 16)
  | .romCheck _ order serial _ hashes _ => decide (1 ≤ order ∧ order ≤ 3) && fits 64 serial && hashes.all fun x => decide (x.1 < 8 ∧ x.2.length = 48)
  | .flashReadDone _ _ => true
  | .rootLock => true
  | .rootLockTimeout => true
  | .coreLoadDone => true
  | .bootConfigDone => true
  | .ospiReadId => true
  | .ospiReadStatus => true
  | .ospiReadSensors => true
  | .recoveryErase => true
  | .recoveryEraseDone => true
  | .recoveryWrite _ _ => true
  | .recoveryCommit => true
  | .ospiReset _ _ => true
  | .ospiCsTimeout => true
  | .clkoutAligned output => decide (output < 4)
  | .orbitStart chan => decide (chan < 4)
  | .pairTestEnd => true
  | .keeperRestartDone => true
  | .inputRecovered input _ => decide (input < 32)
  | .debugTapInstruction instr => instr.wf

end Sys2Proof
end

