-- ==== Sys2Proof/Safety.lean ====
section
/-!
DEFINITION. The terms in which claims about the block are made: the parts of the state and which of them a step keeps, which waiting
commands can exist, and when a mailbox command reaches its own checks and acts at once.
-/
namespace Sys2Proof.Machine

/-- The parts of the state, each a record or a table of `State`. -/
inductive Part where
  | clock | free | queue | cmd | hostMem | fuses | glob | chan | lanes | ports | modules | selv | tdc | gauge | ref | time | ptp | stitch
  | parse | fwd | core | contracts | pair | fw | mbs | fence | events | stats | power | host
deriving DecidableEq, Repr

/-- Part `p` holds in `t` what it holds in `s`. -/
def Part.same (p : Part) (s t : State) : Prop :=
  match p with
  | .clock => t.now = s.now
  | .free => t.free = s.free
  | .queue => t.pending = s.pending
  | .cmd => t.cmd = s.cmd
  | .hostMem => t.hostMem = s.hostMem
  | .fuses => t.fuses = s.fuses
  | .glob => t.glob = s.glob
  | .chan => t.chan = s.chan
  | .lanes => t.lanes = s.lanes
  | .ports => t.ports = s.ports
  | .modules => t.modules = s.modules
  | .selv => t.selv = s.selv
  | .tdc => t.tdc = s.tdc
  | .gauge => t.gauge = s.gauge
  | .ref => t.ref = s.ref
  | .time => t.time = s.time
  | .ptp => t.ptp = s.ptp
  | .stitch => t.stitch = s.stitch
  | .parse => t.parse = s.parse
  | .fwd => t.fwd = s.fwd
  | .core => t.core = s.core
  | .contracts => t.contracts = s.contracts
  | .pair => t.pair = s.pair
  | .fw => t.fw = s.fw
  | .mbs => t.mbs = s.mbs
  | .fence => t.fence = s.fence
  | .events => t.events = s.events
  | .stats => t.stats = s.stats
  | .power => t.power = s.power
  | .host => t.host = s.host

/-- Every part but those named is as it was. -/
def keepsAllBut (ps : List Part) (s t : State) : Prop := ∀ p : Part, p ∉ ps → p.same s t

/-- `t` comes after `s`: the clock has not run back, host memory is still in its canonical form, and of the one-time settings the minimum
version has not fallen and every revoked key slot is still revoked (R439). -/
def State.onward (s t : State) : Prop :=
  s.now ≤ t.now ∧ (Memory.wf s.hostMem = true → Memory.wf t.hostMem = true) ∧
  s.fuses.minVersion ≤ t.fuses.minVersion ∧ ∀ k ∈ s.fuses.revoked, k ∈ t.fuses.revoked

/-- The parts that the completion of a mailbox command touches whatever the command: what it reports, its mailbox with its response and
events, and the fences that waited for it (R448, R451, R463); in a pair, the count of commands completed unmirrored (R400). -/
def answerParts : List Part := [.cmd, .mbs, .hostMem, .events, .fence, .fw, .pair]

/-- Every part but those named and those of an answer is as it was. -/
def keepsBesideAnswer (ps : List Part) (s t : State) : Prop := keepsAllBut (ps ++ answerParts) s t

/-- Command `i` of opcode `op` from `src` passes checks 1 to 5 of R450 and nothing keeps it waiting. -/
def State.reaches (s : State) (i : Instr) (src : CmdSrc) (op : Nat) (roleOk : Bool := false) : Bool :=
  (match src with | .mailbox m => mailboxAccepts m op | .config => mailboxAccepts 0 op | _ => true) &&
  (match src with | .mailbox m => !(s.fence.recovery && decide (m < 7)) | _ => true) &&
  !(s.glob.keeperRestarting && (decide (op = 0x0101 ∨ op = 0x0201) || match src with | .mailbox m => decide (m = 7) | _ => false)) &&
  !(needsSession op && s.fw.sessionEnd.isNone) &&
  (s.headLayout src op (familyV6 i)).isNone &&
  !((match src with | .journal _ _ => false | .overlay _ => false | _ => true) && s.pair.enable && decide (s.pair.role ≠ .active) &&
    mirrored op && !readOnly op && !unitLocal i && !roleOk)

/-- It also acts at once: no lifeline journal carries it first (R396). -/
def State.acts (s : State) (i : Instr) (src : CmdSrc) (op : Nat) (roleOk : Bool := false) : Bool :=
  s.reaches i src op roleOk && !s.journals i src op

/-- Source `src` is pending, and the cause of its last event is `cause` (R510). -/
def State.hasRaised (s : State) (src cause : Nat) : Bool :=
  s.events.pending.getLsbD src && decide ((s.events.last.get src).cause = cause)

/-- Every lane of port `p` is in state `st` (R44). -/
def State.portIn (s : State) (p : Nat) (st : LaneState) : Bool := (s.portLanes p).all fun l => decide ((s.lanes.get l).state = st)

/-- The chain of channel `n` is over with `outcome` and `cause`: the channel is in state `last`, or STALLED until its record has room (R498). -/
def State.chainEnded (s : State) (n outcome cause : Nat) (last : DmaState) : Bool :=
  let x := s.host.chans.get n
  decide (x.outcome = outcome ∧ x.cause = cause ∧ (x.state = last ∨ x.state = .stalled ∧ x.after = some last) ∧
    x.move = none ∧ x.wait = none ∧ x.gate = none ∧ x.streams = [])

/-- Every command that waits can exist. -/
def State.queueOk (s : State) : Prop := ∀ c ∈ s.pending, c.wellFormed = true

/-- Whether a command comes from the lifeline's journal (R396). -/
def fromJournal : CmdSrc → Bool
  | .journal _ _ => true
  | _ => false

/-- Where command `i` of opcode `op` from `src` acts on `s`, it completes at once: with status `st` and results `res` from offset 16 on
(R446, R448), with `eff` of the state that follows, and with every part but `ps` and those of its answer kept. -/
def completesWith (i : Instr) (src : CmdSrc) (op : Nat) (s : State) (st : Nat) (res : List Fld) (ps : List Part) (eff : State → Prop) : Prop :=
  s.acts i src op = true → ∃ t, exec i s = .next t ∧ t.cmd.opcode = op ∧ t.cmd.status = st ∧
    t.cmd.result = packFrom 16 res ∧ keepsBesideAnswer ps s t ∧ eff t

/-- It completes at once with the status of its success (R399). -/
def completes (i : Instr) (src : CmdSrc) (op : Nat) (s : State) (res : List Fld) (ps : List Part) (eff : State → Prop) : Prop :=
  completesWith i src op s (s.okStatus src op) res ps eff

/-- The parts that a command which has begun may touch beside its own: its mailbox, and what a dependent change disarms (R428, R452). -/
def beginParts : List Part := [.mbs, .fw, .events, .fence]

/-- Every part but those named and those that a beginning touches is as it was. -/
def keepsBesideBeginning (ps : List Part) (s t : State) : Prop := keepsAllBut (ps ++ beginParts) s t

end Sys2Proof.Machine
end

