-- ==== Sys2Proof/Certificates/Slice0/Obligations.lean ====
section
/-!
DEFINITION. The statements: what the commands of the block do, by family, and what holds of every step.
-/
open Sys2Proof Sys2Proof.Machine

/-- NOP returns its parameter bytes; FENCE takes the next epoch and its marker tick, or waits for the commands before it. Where it acts, NOP
completes with ST_OK or its pair status, answers the first 48 bytes of its parameters and changes nothing else. A FENCE whose earlier
commands have all completed, on a unit without a partner standing by, and that no journal carries, starts at once: the epoch grows by 1, its
marker tick is the last F and the fence is the youngest active one; a FENCE with an earlier command outstanding joins the fences that wait.
(R455, R463, R461) -/
def Obligations.NopAndFence : Prop :=
  (∀ (src : CmdSrc) (bytes : List Byte) (s : State),
      s.acts (.nop src bytes) src 0x0000 = true →
      ∃ t, exec (.nop src bytes) s = .next t ∧
        t.cmd.opcode = 0x0000 ∧ t.cmd.status = s.okStatus src 0x0000 ∧ t.cmd.result = packFrom 16 [.raw 1 (slice bytes 0 48)] ∧
        keepsBesideAnswer [] s t) ∧
  (∀ (src : CmdSrc) (s : State),
      s.earlierDone (s.earlierOf src) = true →
      fromJournal src = false ∧ (s.pair.enable && decide (s.pair.role = .active) && s.partnerStandby) = false →
      s.acts (.fence src) src 0x0001 = true →
      ∃ t, exec (.fence src) s = .next t ∧
        keepsBesideBeginning [] s t ∧ t.fence.epoch = s.fence.epoch + 1 ∧ t.fence.lastF = s.fenceAt src ∧ t.fence.active = s.fence.active
          ++ [{ epoch := s.fence.epoch + 1, f := s.fenceAt src, src := src, arm := false }]) ∧
  (∀ (src : CmdSrc) (s : State),
      s.earlierDone (s.earlierOf src) = false →
      fromJournal src = false ∧ (s.pair.enable && decide (s.pair.role = .active) && s.partnerStandby) = false →
      s.acts (.fence src) src 0x0001 = true →
      ∃ t, exec (.fence src) s = .next t ∧
        keepsBesideBeginning [] s t ∧ t.fence.waiting = s.fence.waiting ++ [src] ∧ t.fence.epoch = s.fence.epoch)

/-- The SYS commands: power domains, status, board parameters, resets, power and thermal readings, thermal limits and sensors. Each SYS
command whose operands lie in their ranges, in a state that allows its effect, completes at once with that effect and touches nothing but
the parts named. A power domain ends in the state asked for; SYS_SET_BOARD, from the boot configuration only, sets the parameter it names;
SYS_RESET leaves a reset pending; the readings answer what is measured, the figures the spec does not give being free values; the limits and
the mark of a sensor are what was given. (R19, R456, R531, R536, R537, R542) -/
def Obligations.SystemCommands : Prop :=
  (∀ (src : CmdSrc) (on : Bool) (domain : Nat) (s : State),
      2 ≤ domain ∧ domain ≤ 9 ∧ s.pdOn domain = false ∧ on = true →
      (domain = 5 → s.fuses.orderCode.skein = true) →
      (domNeeds domain).all s.pdOn = true ∧ s.suppliesOk domain = true →
      s.acts (.sysPowerDomain src on domain) src 0x0101 = true →
      ∃ t, exec (.sysPowerDomain src on domain) s = .next t ∧
        t.cmd.opcode = 0x0101 ∧ t.cmd.status = s.okStatus src 0x0101 ∧ t.cmd.result = packFrom 16 [] ∧
        keepsBesideAnswer [.glob, .lanes, .parse, .core] s t ∧ t.pdOn domain = true) ∧
  (∀ (src : CmdSrc) (on : Bool) (domain : Nat) (s : State),
      3 ≤ domain ∧ domain ≤ 9 ∧ s.pdOn domain = true ∧ on = false →
      ((List.range 10).any fun d => (domNeeds d).contains domain && s.pdOn d) = false ∧ s.mayPowerOff domain = true →
      s.acts (.sysPowerDomain src on domain) src 0x0101 = true →
      ∃ t, exec (.sysPowerDomain src on domain) s = .next t ∧
        t.cmd.opcode = 0x0101 ∧ t.cmd.status = s.okStatus src 0x0101 ∧ t.cmd.result = packFrom 16 [] ∧
        keepsBesideAnswer [.free, .glob, .lanes, .ports, .selv, .tdc, .ref, .time, .ptp, .parse, .core, .contracts, .stats] s t ∧ t.pdOn
          domain = false) ∧
  (∀ (src : CmdSrc) (on : Bool) (domain : Nat) (s : State),
      2 ≤ domain ∧ domain ≤ 9 ∧ s.pdOn domain = on →
      s.acts (.sysPowerDomain src on domain) src 0x0101 = true →
      ∃ t, exec (.sysPowerDomain src on domain) s = .next t ∧
        t.cmd.opcode = 0x0101 ∧ t.cmd.status = s.okStatus src 0x0101 ∧ t.cmd.result = packFrom 16 [] ∧
        keepsBesideAnswer [] s t) ∧
  (∀ (src : CmdSrc) (s : State),
      s.acts (.sysGetStatus src) src 0x0102 = true →
      ∃ t, exec (.sysGetStatus src) s = .next t ∧
        t.cmd.opcode = 0x0102 ∧ t.cmd.status = s.okStatus src 0x0102 ∧ t.cmd.result = packFrom 16 (((List.range 7).map fun k => Fld.u 4
          (s.identReg k)) ++ [Fld.u 8 s.fence.epoch]) ∧
        keepsBesideAnswer [] s t) ∧
  (∀ (src : CmdSrc) (param period region base length mask : Nat) (s : State),
      src = .config ∧ param = 0 ∧ msU ≤ period ∧ period ≤ 1000 * msU ∧ region = 0 ∧ base = 0 ∧ length = 0 ∧ mask = 0 →
      s.acts (.sysSetBoard src param period region base length mask) src 0x0103 = true →
      ∃ t, exec (.sysSetBoard src param period region base length mask) s = .next t ∧
        t.cmd.opcode = 0x0103 ∧ t.cmd.status = s.okStatus src 0x0103 ∧ t.cmd.result = packFrom 16 [] ∧
        keepsBesideAnswer [] s t ∧ t.fw.wdPeriod = period) ∧
  (∀ (src : CmdSrc) (param period region base length mask : Nat) (s : State),
      src = .config ∧ param = 1 ∧ period = 0 ∧ region ≤ 63 ∧ mask < 65536 →
      s.acts (.sysSetBoard src param period region base length mask) src 0x0103 = true →
      ∃ t, exec (.sysSetBoard src param period region base length mask) s = .next t ∧
        t.cmd.opcode = 0x0103 ∧ t.cmd.status = s.okStatus src 0x0103 ∧ t.cmd.result = packFrom 16 [] ∧
        keepsBesideAnswer [] s t ∧ t.fw.map = s.fw.map.set region { base := base, length := length, mask := BitVec.ofNat 16 mask }) ∧
  (∀ (src : CmdSrc) (param period region base length mask : Nat) (s : State),
      src = .config ∧ param = 2 ∧ msU ≤ period ∧ period ≤ 1000 * msU ∧ region = 0 ∧ base = 0 ∧ length = 0 ∧ mask = 0 →
      s.acts (.sysSetBoard src param period region base length mask) src 0x0103 = true →
      ∃ t, exec (.sysSetBoard src param period region base length mask) s = .next t ∧
        t.cmd.opcode = 0x0103 ∧ t.cmd.status = s.okStatus src 0x0103 ∧ t.cmd.result = packFrom 16 [] ∧
        keepsBesideAnswer [] s t ∧ t.pair.cfg = { s.pair.cfg with watchdog := period }) ∧
  (∀ (src : CmdSrc) (kind : Nat) (s : State),
      kind < 3 →
      (s.resetsNow.any fun o => decide (resetSize (2 - kind) ≤ resetSize o)) = false →
      s.acts (.sysReset src kind) src 0x0110 = true →
      ∃ t, exec (.sysReset src kind) s = .next t ∧
        t.cmd.opcode = 0x0110 ∧ t.cmd.status = s.okStatus src 0x0110 ∧ t.cmd.result = packFrom 16 [] ∧
        keepsBesideAnswer [.power] s t ∧ t.power.resetPending = some (2 - kind, 2) ∧ t.power.resetAt = if s.resetsNow.isEmpty then s.now +
          msC else s.now) ∧
  (∀ (src : CmdSrc) (s : State),
      s.acts (.sysGetPower src) src 0x0111 = true →
      ∃ t, exec (.sysGetPower src) s = .next t ∧
        t.cmd.opcode = 0x0111 ∧ t.cmd.status = s.okStatus src 0x0111 ∧ t.cmd.result = packFrom 16 ([Fld.u 1 s.power.stage.code, Fld.u 2
          s.glob.pdOn.toNat, Fld.u 1 s.power.resetKind, Fld.u 1 s.power.resetCause, Fld.u 4 s.power.bootMs] ++ ((List.range 9).map fun i
          => Fld.u 2 (Config.freeNat (s.free + i) % 65536)) ++ [Fld.u 2 ((List.range 9).foldl (fun a i => if s.power.supplyFault.get i
          then a + 2 ^ i else a) 0)]) ∧
        keepsBesideAnswer [.free] s t ∧ t.free = s.free + 9) ∧
  (∀ (src : CmdSrc) (s : State),
      s.acts (.sysGetThermal src) src 0x0112 = true →
      ∃ t, exec (.sysGetThermal src) s = .next t ∧
        t.cmd.opcode = 0x0112 ∧ t.cmd.status = s.okStatus src 0x0112 ∧ t.cmd.result = packFrom 16 ((List.range 16).map (fun n => Fld.i 2
          (s.reportMean n n)) ++ [Fld.u 2 ((List.range 16).foldl (fun a i => if (s.power.sensors.get i).faulty then a + 2 ^ i else a) 0),
          Fld.i 2 (s.reportHot 16), Fld.u 1 s.power.therm.code, Fld.u 1 (flag s.throttled 1), Fld.u 4 (s.hotTimes.1 / secC), Fld.u 4
          (s.hotTimes.2 / secC)]) ∧
        keepsBesideAnswer [.free] s t ∧ t.free = s.free + 17) ∧
  (∀ (src : CmdSrc) (warn throttleAt hyst : Int) (fraction : Nat) (s : State),
      800 ≤ warn ∧ warn ≤ throttleAt ∧ throttleAt ≤ s.tjMax ∧ warn % 4 = 0 ∧ throttleAt % 4 = 0 →
      16 ≤ hyst ∧ hyst ≤ 160 ∧ 10 ≤ fraction ∧ fraction ≤ 100 →
      s.acts (.sysConfigureThermal src warn throttleAt hyst fraction) src 0x0113 = true →
      ∃ t, exec (.sysConfigureThermal src warn throttleAt hyst fraction) s = .next t ∧
        t.cmd.opcode = 0x0113 ∧ t.cmd.status = s.okStatus src 0x0113 ∧ t.cmd.result = packFrom 16 [] ∧
        keepsBesideAnswer [.power] s t ∧ t.power.warn = some warn ∧ t.power.throttleAt = some throttleAt ∧ t.power.hyst = hyst.toNat ∧
          t.power.fraction = fraction) ∧
  (∀ (src : CmdSrc) (sensor mark : Nat) (s : State),
      sensor < 16 ∧ mark = 1 →
      s.acts (.sysSetSensor src sensor mark) src 0x0114 = true →
      ∃ t, exec (.sysSetSensor src sensor mark) s = .next t ∧
        t.cmd.opcode = 0x0114 ∧ t.cmd.status = s.okStatus src 0x0114 ∧ t.cmd.result = packFrom 16 [] ∧
        keepsBesideAnswer [.power] s t ∧ (t.power.sensors.get sensor).hostMark = false) ∧
  (∀ (src : CmdSrc) (sensor mark : Nat) (s : State),
      sensor < 16 ∧ mark = 0 →
      (s.power.sensors.get sensor).hostMark = true ∨ (s.power.sensors.get sensor).faulty = true ∨ ((List.range 16).any fun n => decide (n
        ≠ sensor) && !(s.power.sensors.get n).faulty) = true →
      s.acts (.sysSetSensor src sensor mark) src 0x0114 = true →
      ∃ t, exec (.sysSetSensor src sensor mark) s = .next t ∧
        t.cmd.opcode = 0x0114 ∧ t.cmd.status = s.okStatus src 0x0114 ∧ t.cmd.result = packFrom 16 [] ∧
        keepsBesideAnswer [.power] s t ∧ (t.power.sensors.get sensor).hostMark = true)

/-- The IMG commands load, validate, arm, disarm, report and erase images. Where they act and no fence waits: IMG_LOAD of an image that
passes its checks replaces the copy of the base image that is not in use, or fills an overlay slot that is not ARMED, which becomes LOADED;
IMG_VALIDATE makes a LOADED or VALID slot VALID if none of its commands fails; IMG_ARM with a time arms a VALID slot for that time, and with
a fence starts a fence that carries the slot or waits; IMG_DISARM returns a slot armed for a time that has not come to VALID; IMG_ERASE
empties a slot that is not ARMED; IMG_GET_STATUS answers the slot's state. (R428, R429, R430, R439) -/
def Obligations.ImageCommands : Prop :=
  (∀ (src : CmdSrc) (target addr length : Nat) (data : Option (List Byte)) (l : List Byte) (s : State),
      target = 16 ∧ addr % 4 = 0 ∧ 576 ≤ length ∧ length ≤ 16777216 ∧ data = some l ∧ l.length = length →
      match s.verifyImage true l with
      | .inr i => completes (.imgLoad src target addr length data) src 0x0201 s [] [] fun t => t.fw.copies = s.fw.copies.set (1 -
        s.fw.baseCopy) (some i)
      | .inl f => completesWith (.imgLoad src target addr length data) src 0x0201 s f.2 [] [] fun t => t.fw.copies = s.fw.copies) ∧
  (∀ (src : CmdSrc) (target addr length : Nat) (data : Option (List Byte)) (l : List Byte) (s : State),
      target < 16 ∧ addr % 4 = 0 ∧ 576 ≤ length ∧ length ≤ 262144 ∧ data = some l ∧ l.length = length →
      (s.fw.overlays.get target).state ≠ .armed ∧ s.fence.waiting = [] →
      match s.verifyImage false l with
      | .inr i => completes (.imgLoad src target addr length data) src 0x0201 s [] [] fun t => t.fw.overlays.get target =
        { state := .loaded, img := i }
      | .inl f => completesWith (.imgLoad src target addr length data) src 0x0201 s f.2 [] [] fun t => t.fw.overlays.get target =
        s.fw.overlays.get target) ∧
  (∀ (src : CmdSrc) (slot : Nat) (s : State),
      slot < 16 ∧ ((s.fw.overlays.get slot).state = .loaded ∨ (s.fw.overlays.get slot).state = .valid) ∧ s.fence.waiting = [] →
      fromJournal src = true ∨ (s.clearStage slot).trial s.contracts.table slot 0 (s.fw.overlays.get slot).img.cmds = none →
      s.acts (.imgValidate src slot) src 0x0202 = true →
      ∃ t, exec (.imgValidate src slot) s = .next t ∧
        t.cmd.opcode = 0x0202 ∧ t.cmd.status = s.okStatus src 0x0202 ∧ t.cmd.result = packFrom 16 [] ∧
        keepsBesideAnswer [] s t ∧ t.fw.overlays.get slot = { s.fw.overlays.get slot with state := .valid }) ∧
  (∀ (src : CmdSrc) (slot mode : Nat) (t : KTime) (s : State),
      slot < 16 ∧ mode = 1 ∧ t.ns < 1000000000 ∧ s.ktime + msU ≤ KTime.units t ∧ (KTime.units t : Int) ≤ s.ktime + 1000000 * secU →
      (s.fw.overlays.get slot).state = .valid ∧ s.armedSlot = none ∧ s.fence.waiting = [] →
      s.acts (.imgArm src slot mode t) src 0x0203 = true →
      ∃ u, exec (.imgArm src slot mode t) s = .next u ∧
        u.cmd.opcode = 0x0203 ∧ u.cmd.status = s.okStatus src 0x0203 ∧ u.cmd.result = packFrom 16 [] ∧
        keepsBesideAnswer [] s u ∧ u.fw.overlays.get slot =
          { s.fw.overlays.get slot with state := .armed, timeMode := true, t := KTime.units t, src := .direct }) ∧
  (∀ (src : CmdSrc) (slot mode : Nat) (t : KTime) (s : State),
      slot < 16 ∧ mode = 0 ∧ t.sec = 0 ∧ t.ns = 0 ∧ t.sub = 0 →
      (s.fw.overlays.get slot).state = .valid ∧ s.armedSlot = none →
      fromJournal src = false ∧ (s.pair.enable && decide (s.pair.role = .active) && s.partnerStandby) = false ∧ s.earlierDone (s.earlierOf
        src) = true →
      s.acts (.imgArm src slot mode t) src 0x0203 = true →
      ∃ u, exec (.imgArm src slot mode t) s = .next u ∧
        keepsBesideBeginning [] s u ∧ u.fw.overlays.get slot =
          { s.fw.overlays.get slot with state := .armed, timeMode := false, src := src } ∧ u.fence.epoch = s.fence.epoch + 1 ∧
          u.fence.lastF = s.fenceAt src) ∧
  (∀ (src : CmdSrc) (slot mode : Nat) (t : KTime) (s : State),
      slot < 16 ∧ mode = 0 ∧ t.sec = 0 ∧ t.ns = 0 ∧ t.sub = 0 →
      (s.fw.overlays.get slot).state = .valid ∧ s.armedSlot = none →
      fromJournal src = false ∧ (s.pair.enable && decide (s.pair.role = .active) && s.partnerStandby) = false ∧ s.earlierDone (s.earlierOf
        src) = false →
      s.acts (.imgArm src slot mode t) src 0x0203 = true →
      ∃ u, exec (.imgArm src slot mode t) s = .next u ∧
        keepsBesideBeginning [] s u ∧ u.fence.waiting = s.fence.waiting ++ [src] ∧ u.fw.overlays.get slot =
          { s.fw.overlays.get slot with src := src }) ∧
  (∀ (src : CmdSrc) (slot : Nat) (s : State),
      slot < 16 ∧ (s.fw.overlays.get slot).state = .armed ∧ (s.fw.overlays.get slot).timeMode = true →
      s.wTime < (s.fw.overlays.get slot).t ∧ s.fence.waiting = [] →
      s.acts (.imgDisarm src slot) src 0x0204 = true →
      ∃ t, exec (.imgDisarm src slot) s = .next t ∧
        t.cmd.opcode = 0x0204 ∧ t.cmd.status = s.okStatus src 0x0204 ∧ t.cmd.result = packFrom 16 [] ∧
        keepsBesideAnswer [] s t ∧ t.fw.overlays.get slot = { s.fw.overlays.get slot with state := .valid }) ∧
  (∀ (src : CmdSrc) (slot : Nat) (s : State),
      slot < 16 →
      s.acts (.imgGetStatus src slot) src 0x0205 = true →
      ∃ t, exec (.imgGetStatus src slot) s = .next t ∧
        t.cmd.opcode = 0x0205 ∧ t.cmd.status = s.okStatus src 0x0205 ∧ t.cmd.result = packFrom 16 ([Fld.u 1 (s.fw.overlays.get
          slot).state.code, .u 8 (s.fw.overlays.get slot).img.epoch, .u 4 (s.fw.overlays.get slot).img.secVersion, .u 4 (s.fw.overlays.get
          slot).img.length, .u 1 (flag (decide ((s.fw.overlays.get slot).state = .armed) && (s.fw.overlays.get slot).timeMode) 1), .ktime
          (if (decide ((s.fw.overlays.get slot).state = .armed) && (s.fw.overlays.get slot).timeMode) then (s.fw.overlays.get slot).t else
          0), .u 4 (s.fw.overlays.get slot).applied, .u 2 (match s.fw.lastOverlay with | some p => p.1 | none => 0xFFFF), .u 8
          (match s.fw.lastOverlay with | some p => p.2 | none => 0)]) ∧
        keepsBesideAnswer [] s t) ∧
  (∀ (src : CmdSrc) (slot : Nat) (s : State),
      slot = 0xFF →
      s.acts (.imgGetStatus src slot) src 0x0205 = true →
      ∃ t, exec (.imgGetStatus src slot) s = .next t ∧
        t.cmd.opcode = 0x0205 ∧ t.cmd.status = s.okStatus src 0x0205 ∧ t.cmd.result = packFrom 16 ([Fld.u 1 0, .u 8 s.fw.base_.epoch, .u 4
          s.fw.base_.secVersion, .u 4 s.fw.base_.length, .u 1 0, .ktime 0, .u 4 0, .u 2
          (match s.fw.lastOverlay with | some p => p.1 | none => 0xFFFF), .u 8 (match s.fw.lastOverlay with | some p => p.2 | none => 0)])
          ∧
        keepsBesideAnswer [] s t) ∧
  (∀ (src : CmdSrc) (slot : Nat) (s : State),
      slot < 16 ∧ (s.fw.overlays.get slot).state ≠ .armed ∧ s.fence.waiting = [] →
      s.acts (.imgErase src slot) src 0x0206 = true →
      ∃ t, exec (.imgErase src slot) s = .next t ∧
        t.cmd.opcode = 0x0206 ∧ t.cmd.status = s.okStatus src 0x0206 ∧ t.cmd.result = packFrom 16 [] ∧
        keepsBesideAnswer [] s t ∧ t.fw.overlays.get slot = {})

/-- The PORT, SELVEDGE and MODULE commands configure, cast on and bind off ports and reach their modules. Where it acts and its operands lie
in their ranges: PORT_CONFIGURE of idle lanes that overlap no port sets mode, width, FEC and frame size, and answers ST_BAD_STATE for lanes
that are not idle. PORT_CAST_ON of a port in DOWN, FAULT or HELD that the channel table serves brings its lanes to CASTING, starts its
cast-on timer and clears its counts; a port casting, proving or up is left; another state is ST_BAD_STATE. PORT_BIND_OFF of a port in UP
brings it to BINDING with the drain timer given, and the command waits; in CASTING, PROVING, FAULT or HELD the port is DOWN at once with
BIND_OFF_DONE; at rest it completes. Model's choices (log entry 102): PORT_BIND_OFF in SWATCH completes with ST_OK, and a second one in
BINDING waits with the first. Policy and Selvedge settings are what was given; the range registers are answered (the ordered sets received
are free, log entry 105). A module that is there answers (its bytes are free values) or times out, a free choice (log entry 103), and after
a timeout its bank and page are unknown; an absent one is ST_BAD_STATE. (R36, R45, R47, R60, R61, R93, R44) -/
def Obligations.PortCommands : Prop :=
  (∀ (src : CmdSrc) (port mode width fec maxFrame : Nat) (s : State),
      port < 256 ∧ port % (max 1 width) = 0 ∧ mode < 9 ∧ (width = 1 ∨ width = 2 ∨ width = 4 ∨ width = 8) ∧ widthOk mode width = true →
      (laneRate mode width fec).isSome = true ∧ 1518 ≤ maxFrame ∧ maxFrame ≤ 16384 ∧ s.portsOverlap port width = false →
      (((List.range (max width (if (s.ports.get port).configured then (s.ports.get port).width else 1))).map (port + ·)).all fun l =>
        decide ((s.lanes.get l).state = .down ∨ (s.lanes.get l).state = .off)) = true →
      (s.octetRates (port / 8) port).length < 2 ∨ (s.octetRates (port / 8) port).contains ((laneRate mode width fec).getD 0) = true →
      s.acts (.portConfigure src port mode width fec maxFrame) src 0x0301 = true →
      ∃ t, exec (.portConfigure src port mode width fec maxFrame) s = .next t ∧
        t.cmd.opcode = 0x0301 ∧ t.cmd.status = s.okStatus src 0x0301 ∧ t.cmd.result = packFrom 16 [] ∧
        keepsBesideAnswer [.ports, .contracts] s t ∧ t.ports = s.ports.upd port fun x =>
          { x with configured := true, mode := mode, width := width, fec := fec, maxFrame := maxFrame }) ∧
  (∀ (src : CmdSrc) (port mode width fec maxFrame : Nat) (s : State),
      port < 256 ∧ port % (max 1 width) = 0 ∧ mode < 9 ∧ (width = 1 ∨ width = 2 ∨ width = 4 ∨ width = 8) ∧ widthOk mode width = true →
      (laneRate mode width fec).isSome = true ∧ 1518 ≤ maxFrame ∧ maxFrame ≤ 16384 ∧ (s.lanes.get port).state ≠ .down ∧ (s.lanes.get
        port).state ≠ .off →
      s.acts (.portConfigure src port mode width fec maxFrame) src 0x0301 = true →
      ∃ t, exec (.portConfigure src port mode width fec maxFrame) s = .next t ∧
        t.cmd.opcode = 0x0301 ∧ t.cmd.status = stBadState ∧ t.cmd.result = packFrom 16 [] ∧
        keepsBesideAnswer [] s t ∧ t.ports = s.ports) ∧
  (∀ (src : CmdSrc) (port : Nat) (s : State),
      port < 256 ∧ (s.ports.get port).configured = true ∧ (s.portState port = .casting ∨ s.portState port = .proving ∨ s.portState port =
        .up) →
      s.acts (.portCastOn src port) src 0x0302 = true →
      ∃ t, exec (.portCastOn src port) s = .next t ∧
        t.cmd.opcode = 0x0302 ∧ t.cmd.status = s.okStatus src 0x0302 ∧ t.cmd.result = packFrom 16 [] ∧
        keepsBesideAnswer [] s t) ∧
  (∀ (src : CmdSrc) (port : Nat) (s : State),
      port < 256 ∧ (s.ports.get port).configured = true ∧ s.portState port = .down ∧ s.tableServes port = true →
      s.acts (.portCastOn src port) src 0x0302 = true →
      ∃ t, exec (.portCastOn src port) s = .next t ∧
        t.cmd.opcode = 0x0302 ∧ t.cmd.status = s.okStatus src 0x0302 ∧ t.cmd.result = packFrom 16 [] ∧
        keepsBesideAnswer [.lanes, .ports, .selv, .tdc, .ptp] s t ∧ t.portIn port .casting = true ∧ t.ports = s.ports.upd port fun y =>
          { y with pointerFails := 0, castTimeouts := 0, castTimer := some (s.now + cyclesOf y.castTimeout), castExpired := false, holdTimer := none, provingEnd := none })
          ∧
  (∀ (src : CmdSrc) (port : Nat) (s : State),
      port < 256 ∧ (s.ports.get port).configured = true ∧ (s.portState port = .fault ∨ s.portState port = .held) ∧ s.tableServes port =
        true →
      s.acts (.portCastOn src port) src 0x0302 = true →
      ∃ t, exec (.portCastOn src port) s = .next t ∧
        t.cmd.opcode = 0x0302 ∧ t.cmd.status = s.okStatus src 0x0302 ∧ t.cmd.result = packFrom 16 [] ∧
        keepsBesideAnswer [.lanes, .ports, .selv, .tdc, .ptp] s t ∧ t.portIn port .casting = true ∧ t.ports = s.ports.upd port fun y =>
          { y with pointerFails := 0, castTimeouts := 0, flaps := [], castTimer := some (s.now + cyclesOf y.castTimeout), castExpired := false, holdTimer := none, provingEnd := none })
          ∧
  (∀ (src : CmdSrc) (port : Nat) (s : State),
      port < 256 ∧ ((s.ports.get port).configured = false ∨ s.portState port = .off ∨ s.portState port = .binding ∨ s.portState port =
        .swatch ∨ (s.portState port = .down ∨ s.portState port = .fault ∨ s.portState port = .held) ∧ s.tableServes port = false) →
      s.acts (.portCastOn src port) src 0x0302 = true →
      ∃ t, exec (.portCastOn src port) s = .next t ∧
        t.cmd.opcode = 0x0302 ∧ t.cmd.status = stBadState ∧ t.cmd.result = packFrom 16 [] ∧
        keepsBesideAnswer [] s t) ∧
  (∀ (src : CmdSrc) (port drain : Nat) (s : State),
      (s.pair.waits = [] ∧ (s.pair.enable = true → s.pair.role = .standby → s.pair.linkUp = true ∧ s.lossSigns < 2)) →
      port < 256 ∧ drain ≤ 100 * msU ∧ (s.ports.get port).configured = true ∧ s.portState port = .up ∧ 1 ≤ (s.ports.get port).width →
      s.acts (.portBindOff src port drain) src 0x0303 = true →
      ∃ t, exec (.portBindOff src port drain) s = .next t ∧
        keepsBesideBeginning [.clock, .free, .cmd, .hostMem, .fuses, .glob, .chan, .lanes, .ports, .modules, .selv, .tdc, .gauge, .ref,
          .time, .ptp, .stitch, .parse, .fwd, .core, .contracts, .pair, .stats, .power] s t ∧ t.portIn port .binding = true ∧ (t.ports.get
          port).drainTimer = some (s.now + cyclesOf drain) ∧ (t.ports.get port).bindWait = (s.ports.get port).bindWait ++ [src]) ∧
  (∀ (src : CmdSrc) (port drain : Nat) (s : State),
      (s.pair.waits = [] ∧ (s.pair.enable = true → s.pair.role = .standby → s.pair.linkUp = true ∧ s.lossSigns < 2)) →
      port < 256 ∧ drain ≤ 100 * msU ∧ (s.ports.get port).configured = true ∧ s.portState port = .binding →
      s.acts (.portBindOff src port drain) src 0x0303 = true →
      ∃ t, exec (.portBindOff src port drain) s = .next t ∧
        keepsBesideBeginning [.ports] s t ∧ t.ports = s.ports.upd port fun y => { y with bindWait := y.bindWait ++ [src] }) ∧
  (∀ (src : CmdSrc) (port drain : Nat) (s : State),
      (s.pair.waits = [] ∧ (s.pair.enable = true → s.pair.role = .standby → s.pair.linkUp = true ∧ s.lossSigns < 2)) →
      port < 256 ∧ drain ≤ 100 * msU ∧ ((s.ports.get port).configured = false ∨ s.portState port = .down ∨ s.portState port = .off ∨
        s.portState port = .swatch) →
      s.acts (.portBindOff src port drain) src 0x0303 = true →
      ∃ t, exec (.portBindOff src port drain) s = .next t ∧
        t.cmd.opcode = 0x0303 ∧ t.cmd.status = s.okStatus src 0x0303 ∧ t.cmd.result = packFrom 16 [] ∧
        keepsBesideAnswer [] s t) ∧
  (∀ (src : CmdSrc) (port drain : Nat) (s : State),
      (s.pair.waits = [] ∧ (s.pair.enable = true → s.pair.role = .standby → s.pair.linkUp = true ∧ s.lossSigns < 2)) →
      port < 256 ∧ drain ≤ 100 * msU ∧ (s.ports.get port).configured = true ∧ (s.portState port = .casting ∨ s.portState port = .proving ∨
        s.portState port = .fault ∨ s.portState port = .held) →
      s.acts (.portBindOff src port drain) src 0x0303 = true →
      ∃ t, exec (.portBindOff src port drain) s = .next t ∧
        t.cmd.opcode = 0x0303 ∧ t.cmd.status = s.okStatus src 0x0303 ∧ t.cmd.result = packFrom 16 [] ∧
        keepsBesideAnswer [.clock, .free, .fuses, .glob, .chan, .lanes, .ports, .modules, .selv, .tdc, .gauge, .ref, .time, .ptp, .stitch,
          .parse, .fwd, .core, .contracts, .stats, .power] s t ∧ t.portIn port .down = true ∧ t.hasRaised port Ev.bindOffDone = true ∧
          (t.ports.get port).castTimer = none ∧ (t.ports.get port).holdTimer = none) ∧
  (∀ (src : CmdSrc) (port castTimeout holdDown flapLimit flapWindow recast : Nat) (s : State),
      port < 256 ∧ 10 * msU ≤ castTimeout ∧ castTimeout ≤ 10 * secU ∧ msU ≤ holdDown ∧ holdDown ≤ 10 * secU →
      1 ≤ flapLimit ∧ flapLimit ≤ 255 ∧ 10 * msU ≤ flapWindow ∧ flapWindow ≤ 60 * secU ∧ recast < 2 →
      s.acts (.portSetPolicy src port castTimeout holdDown flapLimit flapWindow recast) src 0x0304 = true →
      ∃ t, exec (.portSetPolicy src port castTimeout holdDown flapLimit flapWindow recast) s = .next t ∧
        t.cmd.opcode = 0x0304 ∧ t.cmd.status = s.okStatus src 0x0304 ∧ t.cmd.result = packFrom 16 [] ∧
        keepsBesideAnswer [.ports] s t ∧ t.ports = s.ports.upd port fun x =>
          { x with castTimeout := castTimeout, holdDown := holdDown, flapLimit := flapLimit, flapWindow := flapWindow, recastManual := decide (recast = 1) })
          ∧
  (∀ (src : CmdSrc) (port slots markInterval outlier rangeTimeout : Nat) (s : State),
      port < 256 ∧ (slots = 1 ∨ slots = 2 ∨ slots = 4) ∧ 16 ≤ markInterval ∧ markInterval ≤ 4096 ∧ 6554 ≤ outlier ∧ outlier ≤ 100 * nsU ∧
        tenthsOk outlier = true →
      msU ≤ rangeTimeout ∧ rangeTimeout ≤ 1000 * msU ∧ (s.ports.get port).configured = true ∧ (s.ports.get port).isSelvedge = true →
      slots = (s.selv.get port).slots ∨ s.portState port = .down →
      s.acts (.selvedgeConfigure src port slots markInterval outlier rangeTimeout) src 0x030C = true →
      ∃ t, exec (.selvedgeConfigure src port slots markInterval outlier rangeTimeout) s = .next t ∧
        t.cmd.opcode = 0x030C ∧ t.cmd.status = s.okStatus src 0x030C ∧ t.cmd.result = packFrom 16 [] ∧
        keepsBesideAnswer [.selv, .contracts] s t ∧ t.selv = s.selv.upd port fun x =>
          { x with slots := slots, markInterval := markInterval, outlier := outlier, rangeTimeout := rangeTimeout }) ∧
  (∀ (src : CmdSrc) (port slots markInterval outlier rangeTimeout : Nat) (s : State),
      port < 256 ∧ (slots = 1 ∨ slots = 2 ∨ slots = 4) ∧ 16 ≤ markInterval ∧ markInterval ≤ 4096 ∧ 6554 ≤ outlier ∧ outlier ≤ 100 * nsU ∧
        tenthsOk outlier = true →
      msU ≤ rangeTimeout ∧ rangeTimeout ≤ 1000 * msU ∧ ((s.ports.get port).configured = false ∨ (s.ports.get port).isSelvedge = false ∨
        slots ≠ (s.selv.get port).slots ∧ s.portState port ≠ .down) →
      s.acts (.selvedgeConfigure src port slots markInterval outlier rangeTimeout) src 0x030C = true →
      ∃ t, exec (.selvedgeConfigure src port slots markInterval outlier rangeTimeout) s = .next t ∧
        t.cmd.opcode = 0x030C ∧ t.cmd.status = stBadState ∧ t.cmd.result = packFrom 16 [] ∧
        keepsBesideAnswer [] s t) ∧
  (∀ (src : CmdSrc) (port : Nat) (n : Nat) (s : State),
      n = satAdd 32 (s.lanes.get port).ordered (if s.portUp port then Config.orderedSets s.free port else 0) →
      port < 256 ∧ (s.ports.get port).configured = true ∧ (s.ports.get port).isSelvedge = true →
      s.acts (.selvedgeGetRange src port) src 0x030D = true →
      ∃ t, exec (.selvedgeGetRange src port) s = .next t ∧
        t.cmd.opcode = 0x030D ∧ t.cmd.status = s.okStatus src 0x030D ∧ t.cmd.result = packFrom 16 ([Fld.i 8 (s.selv.get port).aVal, Fld.i
          8 (s.selv.get port).bVal, Fld.i 8 (s.selv.get port).rtt, Fld.i 8 (s.selv.get port).down, Fld.i 8 (s.selv.get port).up, Fld.u 4
          (min (2 ^ 32 - 1) ((s.now - (s.selv.get port).lastPair) / usC)), Fld.u 1 (flag (s.selv.get port).linkStale 1), Fld.u 1
          (match (s.selv.get port).rowState with | .hunt => 0 | .confirm => 1 | .locked => 2)] ++ ([(s.selv.get port).cSlotSync,
          (s.selv.get port).cCrc, (s.selv.get port).cType, (s.selv.get port).cRange, (s.selv.get port).cEchoPair, (s.selv.get
          port).cEchoRange, (s.selv.get port).cEchoStale, (s.selv.get port).cOutlier, n].map (Fld.u 4))) ∧
        keepsBesideAnswer [.free, .lanes] s t ∧ t.free = s.free + 1 ∧ t.lanes = s.lanes.upd port fun z => { z with ordered := n }) ∧
  (∀ (src : CmdSrc) (module bank page offset length : Nat) (l : List Byte) (s : State),
      (l = (List.range length).map fun i => Config.freeByte (65536 * (s.free + 1) + i)) →
      module < 256 ∧ bank < 256 ∧ page < 256 ∧ offset < 256 ∧ 1 ≤ length ∧ length ≤ 128 ∧ offset + length ≤ 256 ∧ (128 ≤ offset ∨ offset +
        length ≤ 128) →
      s.moduleThere module = true →
      s.acts (.moduleRead src module bank page offset length) src 0x030E = true →
      ∃ t, exec (.moduleRead src module bank page offset length) s = .next t ∧
        t.cmd.opcode = 0x030E ∧ t.cmd.status = (if Config.freeNat s.free % 2 = 1 then stTimeout else if cmisBad page offset l then stCrc
          else stOk) ∧ t.cmd.result = packFrom 16 (if Config.freeNat s.free % 2 = 1 ∨ cmisBad page offset l = true then [] else [.raw 8
          l]) ∧
        keepsBesideAnswer [.free, .modules] s t ∧ t.free = s.free + 2 ∧ (Config.freeNat s.free % 2 = 0 → 128 ≤ offset → (t.modules.get
          module).bank = some bank ∧ (t.modules.get module).page = some page) ∧ (Config.freeNat s.free % 2 = 1 → (t.modules.get
          module).bank = none ∧ (t.modules.get module).page = none)) ∧
  (∀ (src : CmdSrc) (module bank page offset length : Nat) (s : State),
      module < 256 ∧ bank < 256 ∧ page < 256 ∧ offset < 256 ∧ 1 ≤ length ∧ length ≤ 128 ∧ offset + length ≤ 256 ∧ (128 ≤ offset ∨ offset +
        length ≤ 128) →
      s.moduleThere module = false →
      s.acts (.moduleRead src module bank page offset length) src 0x030E = true →
      ∃ t, exec (.moduleRead src module bank page offset length) s = .next t ∧
        t.cmd.opcode = 0x030E ∧ t.cmd.status = stBadState ∧ t.cmd.result = packFrom 16 [] ∧
        keepsBesideAnswer [] s t) ∧
  (∀ (src : CmdSrc) (module bank page offset length : Nat) (data : List Byte) (s : State),
      module < 256 ∧ bank < 256 ∧ page < 256 ∧ offset < 256 ∧ 1 ≤ length ∧ length ≤ 8 ∧ offset / 8 = (offset + length - 1) / 8 →
      s.moduleThere module = true →
      s.acts (.moduleWrite src module bank page offset length data) src 0x030F = true →
      ∃ t, exec (.moduleWrite src module bank page offset length data) s = .next t ∧
        t.cmd.opcode = 0x030F ∧ t.cmd.status = (if Config.freeNat s.free % 2 = 1 then stTimeout else stOk) ∧ t.cmd.result = packFrom 16 []
          ∧
        keepsBesideAnswer [.free, .modules] s t ∧ t.free = s.free + 1 ∧ (t.modules.get module).writes.head? = some (offset, data.take
          length) ∧ (Config.freeNat s.free % 2 = 1 → (t.modules.get module).bank = none ∧ (t.modules.get module).page = none)) ∧
  (∀ (src : CmdSrc) (module bank page offset length : Nat) (data : List Byte) (s : State),
      module < 256 ∧ bank < 256 ∧ page < 256 ∧ offset < 256 ∧ 1 ≤ length ∧ length ≤ 8 ∧ offset / 8 = (offset + length - 1) / 8 →
      s.moduleThere module = false →
      s.acts (.moduleWrite src module bank page offset length data) src 0x030F = true →
      ∃ t, exec (.moduleWrite src module bank page offset length data) s = .next t ∧
        t.cmd.opcode = 0x030F ∧ t.cmd.status = stBadState ∧ t.cmd.result = packFrom 16 [] ∧
        keepsBesideAnswer [] s t)

/-- The LANE commands report a lane, take the channel table, and run the swatch tests and sweeps. Where it acts and its operands lie in
their ranges: LANE_GET_STATUS and LANE_GET_LATENCY answer the lane's registers and figures (the latched temperature is that in use, or 0:
log entry 102); LANE_SET_CHANNEL_TABLE takes a section that reads as a table; LANE_RELATCH drops the latched rows of one lane or of all;
LANE_SWATCH starts a test on a lane at rest (one already testing starts anew: log entry 102), ends it, injects errors, or answers its
counts, to which what a locked checker compared since is added as free values; LANE_SWEEP starts a sweep on a locked test lane and
LANE_SWEEP_READ answers a page of a sweep that is done. (R39, R42, R49, R56, R57, R58, R59, R60) -/
def Obligations.LaneCommands : Prop :=
  (∀ (src : CmdSrc) (lane : Nat) (s : State),
      lane < 264 →
      s.acts (.laneGetStatus src lane) src 0x0305 = true →
      ∃ t, exec (.laneGetStatus src lane) s = .next t ∧
        t.cmd.opcode = 0x0305 ∧ t.cmd.status = s.okStatus src 0x0305 ∧ t.cmd.result = packFrom 16 [.u 1 (s.lanes.get lane).state.code, .u
          2 (s.lanes.get lane).lastCause, .u 1 (s.lanes.get lane).lockFlags, .i 8 (s.lanes.get lane).freqOff, .u 2 (recent (s.ports.get
          ((s.portOf lane).getD lane)).flaps s.now (cyclesOf (s.ports.get ((s.portOf lane).getD lane)).flapWindow)).length, .u 4
          (s.ports.get ((s.portOf lane).getD lane)).castTimeouts, .i 4
          (match (s.lanes.get lane).inUse with | some y => y.temp | none => 0), .u 8
          (match s.chan with | some y => y.boardId | none => 0)] ∧
        keepsBesideAnswer [] s t) ∧
  (∀ (src : CmdSrc) (lane : Nat) (p : Nat) (s : State),
      lane < 264 ∧ s.portOf lane = some p ∧ (s.lanes.get lane).state = .up →
      s.acts (.laneGetLatency src lane) src 0x0306 = true →
      ∃ t, exec (.laneGetLatency src lane) s = .next t ∧
        t.cmd.opcode = 0x0306 ∧ t.cmd.status = s.okStatus src 0x0306 ∧ t.cmd.result = packFrom 16 [.i 8 (s.rxLatency p lane), .i 8
          (s.txLatency p lane), .i 8 (s.deskewOf p lane)] ∧
        keepsBesideAnswer [] s t) ∧
  (∀ (src : CmdSrc) (sect : Nat) (l : List Byte) (s : State),
      sect < 514 ∧ s.tableSection sect = some l →
      match readTable l with
      | (_, some y) => completes (.laneSetChannelTable src sect) src 0x0307 s [] [.chan, .lanes] fun t =>
          t.chan = some y ∧ t.lanes = s.lanes.mapAll fun _ x => { x with latched := [] }
      | (st, none) => completesWith (.laneSetChannelTable src sect) src 0x0307 s st [] [] fun _ => True) ∧
  (∀ (src : CmdSrc) (lane : Nat) (s : State),
      lane = 0xFFFF →
      s.acts (.laneRelatch src lane) src 0x0308 = true →
      ∃ t, exec (.laneRelatch src lane) s = .next t ∧
        t.cmd.opcode = 0x0308 ∧ t.cmd.status = s.okStatus src 0x0308 ∧ t.cmd.result = packFrom 16 [] ∧
        keepsBesideAnswer [.lanes] s t ∧ t.lanes = s.lanes.mapAll fun _ x => { x with latched := [] }) ∧
  (∀ (src : CmdSrc) (lane : Nat) (s : State),
      lane < 264 →
      s.acts (.laneRelatch src lane) src 0x0308 = true →
      ∃ t, exec (.laneRelatch src lane) s = .next t ∧
        t.cmd.opcode = 0x0308 ∧ t.cmd.status = s.okStatus src 0x0308 ∧ t.cmd.result = packFrom 16 [] ∧
        keepsBesideAnswer [.lanes] s t ∧ t.lanes = s.lanes.upd lane fun x => { x with latched := [] }) ∧
  (∀ (src : CmdSrc) (clear : Bool) (lane action txPattern rxPattern loopback injKind injArg : Nat) (s : State),
      lane < 264 ∧ action = 0 ∧ clear = false ∧ s.patternOk lane txPattern = true ∧ s.patternOk lane rxPattern = true ∧ loopback < 2 ∧
        injKind = 0 ∧ injArg = 0 →
      lane < 256 ∨ s.pair.linkUp = false →
      (s.lanes.get lane).state = .down ∨ (s.lanes.get lane).state = .fault ∨ (s.lanes.get lane).state = .held ∨ (s.lanes.get lane).state =
        .swatch →
      s.acts (.laneSwatch src clear lane action txPattern rxPattern loopback injKind injArg) src 0x0309 = true →
      ∃ t, exec (.laneSwatch src clear lane action txPattern rxPattern loopback injKind injArg) s = .next t ∧
        t.cmd.opcode = 0x0309 ∧ t.cmd.status = s.okStatus src 0x0309 ∧ t.cmd.result = packFrom 16 [] ∧
        keepsBesideAnswer [.free, .lanes, .ports] s t ∧ t.portIn ((s.portOf lane).getD lane) .swatch = true ∧ (t.lanes.get lane).state =
          .swatch ∧ (t.lanes.get lane).swatch.txPattern = txPattern ∧ (t.lanes.get lane).swatch.rxPattern = rxPattern ∧ (t.lanes.get
          lane).swatch.loopback = decide (loopback = 1) ∧ (t.lanes.get lane).swatch.locked = false ∧ (t.lanes.get lane).swatch.injKind =
          0) ∧
  (∀ (src : CmdSrc) (clear : Bool) (lane action txPattern rxPattern loopback injKind injArg : Nat) (s : State),
      lane < 264 ∧ action = 1 ∧ clear = false ∧ txPattern = 0 ∧ rxPattern = 0 ∧ loopback = 0 ∧ injKind = 0 ∧ injArg = 0 →
      (lane < 256 ∨ s.pair.linkUp = false) ∧ (s.lanes.get lane).state = .swatch →
      s.acts (.laneSwatch src clear lane action txPattern rxPattern loopback injKind injArg) src 0x0309 = true →
      ∃ t, exec (.laneSwatch src clear lane action txPattern rxPattern loopback injKind injArg) s = .next t ∧
        t.cmd.opcode = 0x0309 ∧ t.cmd.status = s.okStatus src 0x0309 ∧ t.cmd.result = packFrom 16 [] ∧
        keepsBesideAnswer [.free, .lanes] s t ∧ ((s.lanesWith lane).all fun l => decide ((t.lanes.get l).state = .down) && !(t.lanes.get
          l).swatch.locked && !(t.lanes.get l).swatch.sweeping) = true) ∧
  (∀ (src : CmdSrc) (clear : Bool) (lane action txPattern rxPattern loopback injKind injArg : Nat) (s : State),
      lane < 264 ∧ action = 2 ∧ clear = false ∧ txPattern = 0 ∧ rxPattern = 0 ∧ loopback = 0 ∧ (injKind = 0 ∧ injArg = 0 ∨ injKind = 1 ∧ 1
        ≤ injArg ∧ injArg ≤ 255 ∨ injKind = 2 ∧ 10 ≤ injArg ∧ injArg ≤ 40) →
      (lane < 256 ∨ s.pair.linkUp = false) ∧ (s.lanes.get lane).state = .swatch →
      s.acts (.laneSwatch src clear lane action txPattern rxPattern loopback injKind injArg) src 0x0309 = true →
      ∃ t, exec (.laneSwatch src clear lane action txPattern rxPattern loopback injKind injArg) s = .next t ∧
        t.cmd.opcode = 0x0309 ∧ t.cmd.status = s.okStatus src 0x0309 ∧ t.cmd.result = packFrom 16 [] ∧
        keepsBesideAnswer [.free, .lanes] s t ∧ (t.lanes.get lane).swatch.injKind = injKind + 1 ∧ (t.lanes.get lane).swatch.injArg =
          injArg ∧ (t.lanes.get lane).state = .swatch) ∧
  (∀ (src : CmdSrc) (clear : Bool) (lane action txPattern rxPattern loopback injKind injArg : Nat) (s : State),
      lane < 264 ∧ action = 3 ∧ txPattern = 0 ∧ rxPattern = 0 ∧ loopback = 0 ∧ injKind = 0 ∧ injArg = 0 →
      (lane < 256 ∨ s.pair.linkUp = false) ∧ (s.lanes.get lane).state = .swatch →
      (s.lanes.get lane).swatch.locked = false →
      s.acts (.laneSwatch src clear lane action txPattern rxPattern loopback injKind injArg) src 0x0309 = true →
      ∃ t, exec (.laneSwatch src clear lane action txPattern rxPattern loopback injKind injArg) s = .next t ∧
        t.cmd.opcode = 0x0309 ∧ t.cmd.status = s.okStatus src 0x0309 ∧ t.cmd.result = packFrom 16 [.u 8 (s.lanes.get lane).swatch.bits, .u
          8 (s.lanes.get lane).swatch.errors] ∧
        keepsBesideAnswer [.lanes] s t ∧ (if clear then (t.lanes.get lane).swatch.bits = 0 ∧ (t.lanes.get lane).swatch.errors = 0 else
          t.lanes = s.lanes)) ∧
  (∀ (src : CmdSrc) (clear : Bool) (lane action txPattern rxPattern loopback injKind injArg : Nat) (b : Nat) (s : State),
      b = min ((s.lanes.get lane).swatch.bits + Config.freeNat s.free + (s.lanes.get lane).swatch.injDue) (2 ^ 48 - 1) →
      lane < 264 ∧ action = 3 ∧ txPattern = 0 ∧ rxPattern = 0 ∧ loopback = 0 ∧ injKind = 0 ∧ injArg = 0 →
      (lane < 256 ∨ s.pair.linkUp = false) ∧ (s.lanes.get lane).state = .swatch ∧ (s.lanes.get lane).swatch.locked = true ∧ (s.lanes.get
        lane).swatch.loopback = false →
      s.acts (.laneSwatch src clear lane action txPattern rxPattern loopback injKind injArg) src 0x0309 = true →
      ∃ t, exec (.laneSwatch src clear lane action txPattern rxPattern loopback injKind injArg) s = .next t ∧
        t.cmd.opcode = 0x0309 ∧ t.cmd.status = s.okStatus src 0x0309 ∧ t.cmd.result = packFrom 16 [.u 8 b, .u 8 (min b (grow48
          (s.lanes.get lane).swatch.errors (s.free + 1)))] ∧
        keepsBesideAnswer [.free, .lanes] s t ∧ t.free = s.free + 2 ∧ (if clear then (t.lanes.get lane).swatch.bits = 0 ∧ (t.lanes.get
          lane).swatch.errors = 0 else (t.lanes.get lane).swatch.bits = b)) ∧
  (∀ (src : CmdSrc) (lane vga dwell : Nat) (s : State),
      lane < 264 ∧ vga < 64 ∧ msU ≤ dwell ∧ dwell ≤ 1000 * msU ∧ (lane < 256 ∨ s.pair.linkUp = false) →
      (s.lanes.get lane).state = .swatch ∧ (s.lanes.get lane).swatch.sweeping = false ∧ (s.lanes.get lane).swatch.locked = true →
      s.acts (.laneSweep src lane vga dwell) src 0x030A = true →
      ∃ t, exec (.laneSweep src lane vga dwell) s = .next t ∧
        t.cmd.opcode = 0x030A ∧ t.cmd.status = s.okStatus src 0x030A ∧ t.cmd.result = packFrom 16 [] ∧
        keepsBesideAnswer [.lanes] s t ∧ t.lanes = s.lanes.upd lane fun x =>
          { x with swatch := { x.swatch with sweeping := true, sweepVga := vga, sweepDwell := dwell, sweepEnd := s.now + 1024 * cyclesOf dwell, sweepDone := false, sweepCounts := [] } })
          ∧
  (∀ (src : CmdSrc) (lane page : Nat) (s : State),
      lane < 264 ∧ page < 64 ∧ (s.lanes.get lane).swatch.sweepDone = true →
      s.acts (.laneSweepRead src lane page) src 0x030B = true →
      ∃ t, exec (.laneSweepRead src lane page) s = .next t ∧
        t.cmd.opcode = 0x030B ∧ t.cmd.status = s.okStatus src 0x030B ∧ t.cmd.result = packFrom 16 ((List.range 16).map fun i => Fld.u 2
          ((s.lanes.get lane).swatch.sweepCounts.getD (16 * page + i) 0)) ∧
        keepsBesideAnswer [] s t) ∧
  (∀ (src : CmdSrc) (lane page : Nat) (s : State),
      lane < 264 ∧ page < 64 ∧ (s.lanes.get lane).swatch.sweepDone = false →
      s.acts (.laneSweepRead src lane page) src 0x030B = true →
      ∃ t, exec (.laneSweepRead src lane page) s = .next t ∧
        t.cmd.opcode = 0x030B ∧ t.cmd.status = stBadState ∧ t.cmd.result = packFrom 16 [] ∧
        keepsBesideAnswer [] s t)

/-- The parser commands set a port's parser, an extraction profile, an ACL entry and a slow-path policer, and answer the counts. Where it
acts and its operands lie in their ranges, each command completes at once and touches only the parts named. PARSE_CONFIGURE_PORT and
PARSE_CONFIGURE_EXTRACT set what was given for one port or one profile; ACL_STAGE puts a part into the issuer's staging buffer; ACL_COMMIT
of a full buffer writes the entry and empties the buffer; ACL_DELETE removes an entry; ACL_READ answers a part of an entry, its action and
its hits, which FLAG clears; SLOW_CONFIGURE sets a policer's rate and burst and caps its level; PARSE_GET_COUNTS answers a port's counts,
saturated, and starts them anew where it clears. (R279, R283, R287, R289, R298) -/
def Obligations.ParserCommands : Prop :=
  (∀ (src : CmdSrc) (trustPcp trustDscp : Bool) (port malformed lenConflict profile pcpMap dscpMap defClass : Nat) (s : State),
      port < 256 ∧ malformed < 2 ∧ lenConflict < 2 ∧ profile < 16 ∧ pcpMap < 8 ∧ dscpMap < 8 ∧ defClass < 8 →
      s.acts (.parseConfigurePort src trustPcp trustDscp port malformed lenConflict profile pcpMap dscpMap defClass) src 0x0420 = true →
      ∃ t, exec (.parseConfigurePort src trustPcp trustDscp port malformed lenConflict profile pcpMap dscpMap defClass) s = .next t ∧
        t.cmd.opcode = 0x0420 ∧ t.cmd.status = s.okStatus src 0x0420 ∧ t.cmd.result = packFrom 16 [] ∧
        keepsBesideAnswer [.parse] s t ∧ t.parse =
          { s.parse with ports := s.parse.ports.upd port fun x => { x with malSlow := decide (malformed = 0), lenSlow := decide (lenConflict = 0), profile := profile, trustPcp := trustPcp, trustDscp := trustDscp, pcpMap := pcpMap, dscpMap := dscpMap, defClass := defClass } })
          ∧
  (∀ (src : CmdSrc) (enable0 enable1 : Bool) (profile cond0 anchor0 offset0 width0 cond1 anchor1 offset1 width1 : Nat) (s : State),
      profile < 16 ∧ cond0 < 4 ∧ anchor0 < 5 ∧ offset0 < 256 ∧ 1 ≤ width0 ∧ width0 ≤ 4 →
      cond1 < 4 ∧ anchor1 < 5 ∧ offset1 < 256 ∧ 1 ≤ width1 ∧ width1 ≤ 4 →
      s.acts (.parseConfigureExtract src enable0 enable1 profile cond0 anchor0 offset0 width0 cond1 anchor1 offset1 width1) src 0x0421 =
        true →
      ∃ t, exec (.parseConfigureExtract src enable0 enable1 profile cond0 anchor0 offset0 width0 cond1 anchor1 offset1 width1) s = .next t
        ∧
        t.cmd.opcode = 0x0421 ∧ t.cmd.status = s.okStatus src 0x0421 ∧ t.cmd.result = packFrom 16 [] ∧
        keepsBesideAnswer [.parse] s t ∧ t.parse =
          { s.parse with extract := (s.parse.extract.set (2 * profile) { enable := enable0, cond := cond0, anchor := anchor0, offset := offset0, width := width0 }).set (2 * profile + 1) { enable := enable1, cond := cond1, anchor := anchor1, offset := offset1, width := width1 } })
          ∧
  (∀ (src : CmdSrc) (part : Nat) (bytes : List Byte) (s : State),
      part < 4 ∧ s.fence.waiting = [] →
      s.acts (.aclStage src part bytes) src 0x0422 = true →
      ∃ t, exec (.aclStage src part bytes) s = .next t ∧
        t.cmd.opcode = 0x0422 ∧ t.cmd.status = s.okStatus src 0x0422 ∧ t.cmd.result = packFrom 16 [] ∧
        keepsBesideAnswer [] s t ∧ t.aclStaged src = (s.aclStaged src).set part bytes) ∧
  (∀ (src : CmdSrc) (copy capture setClass steer redirect : Bool) (entry kind tc profile port : Nat) (v : BitVec 640) (m : BitVec 640) (s
    : State),
      v = BitVec.ofNat 640 (ofBe (padTo 40 ((s.aclStaged src).get 0) ++ padTo 40 ((s.aclStaged src).get 1))) →
      m = BitVec.ofNat 640 (ofBe (padTo 40 ((s.aclStaged src).get 2) ++ padTo 40 ((s.aclStaged src).get 3))) →
      entry < 32768 ∧ kind < 3 ∧ aclActionOk copy setClass steer redirect kind = true ∧ aclBitsOk v m = true →
      ((List.range 4).all fun k => (s.aclStaged src).has k) = true ∧ s.fence.waiting = [] →
      (if setClass then tc < 8 else tc = 0) ∧ (if steer then profile < 64 else profile = 0) ∧ (if redirect then port < 256 else port = 0)
        →
      s.acts (.aclCommit src copy capture setClass steer redirect entry kind tc profile port) src 0x0423 = true →
      ∃ t, exec (.aclCommit src copy capture setClass steer redirect entry kind tc profile port) s = .next t ∧
        t.cmd.opcode = 0x0423 ∧ t.cmd.status = s.okStatus src 0x0423 ∧ t.cmd.result = packFrom 16 [] ∧
        keepsBesideAnswer [.parse] s t ∧ t.aclStaged src = [] ∧ t.parse =
          { s.parse with acl := s.parse.acl.set entry { value := v, mask := m, act := { kind := kind, copy := copy, capture := capture, cls := if setClass then some tc else none, steer := if steer then some profile else none, redirect := if redirect then some port else none } } })
          ∧
  (∀ (src : CmdSrc) (entry : Nat) (s : State),
      entry < 32768 →
      s.acts (.aclDelete src entry) src 0x0424 = true →
      ∃ t, exec (.aclDelete src entry) s = .next t ∧
        t.cmd.opcode = 0x0424 ∧ t.cmd.status = s.okStatus src 0x0424 ∧ t.cmd.result = packFrom 16 [] ∧
        keepsBesideAnswer [.parse] s t ∧ t.parse = { s.parse with acl := s.parse.acl.del entry }) ∧
  (∀ (src : CmdSrc) (clear : Bool) (entry part : Nat) (e : AclEntry) (s : State),
      entry < 32768 ∧ part < 4 ∧ s.parse.acl.find entry = some e →
      s.acts (.aclRead src clear entry part) src 0x0425 = true →
      ∃ t, exec (.aclRead src clear entry part) s = .next t ∧
        t.cmd.opcode = 0x0425 ∧ t.cmd.status = s.okStatus src 0x0425 ∧ t.cmd.result = packFrom 16 [.raw 1 (slice (beBytes 80 (if part < 2
          then e.value else e.mask).toNat) (40 * (part % 2)) 40), .u 1 e.act.kind, .u 1 (flag e.act.copy 1 + flag e.act.capture 2 + flag
          e.act.cls.isSome 4 + flag e.act.steer.isSome 8 + flag e.act.redirect.isSome 16), .u 2 (e.act.cls.getD 0), .u 2 (e.act.steer.getD
          0), .u 2 (e.act.redirect.getD 0), .u 8 e.hits] ∧
        keepsBesideAnswer [.parse] s t ∧ t.parse = if clear then { s.parse with acl := s.parse.acl.set entry { e with hits := 0 } } else
          s.parse) ∧
  (∀ (src : CmdSrc) (reason rate burst : Nat) (s : State),
      1 ≤ reason ∧ reason ≤ 15 ∧ rate ≤ 1000000 ∧ 1 ≤ burst ∧ burst ≤ 4096 →
      s.acts (.slowConfigure src reason rate burst) src 0x0429 = true →
      ∃ t, exec (.slowConfigure src reason rate burst) s = .next t ∧
        t.cmd.opcode = 0x0429 ∧ t.cmd.status = s.okStatus src 0x0429 ∧ t.cmd.result = packFrom 16 [] ∧
        keepsBesideAnswer [.parse] s t ∧ t.parse =
          { s.parse with policers := s.parse.policers.upd reason fun y => { y with rate := some rate, burst := some burst, level := some (min (y.levelNow reason s.now) (burst * secC)), at_ := s.now } })
          ∧
  (∀ (src : CmdSrc) (clear : Bool) (port : Nat) (s : State),
      port < 256 →
      s.acts (.parseGetCounts src clear port) src 0x042A = true →
      ∃ t, exec (.parseGetCounts src clear port) s = .next t ∧
        t.cmd.opcode = 0x042A ∧ t.cmd.status = s.okStatus src 0x042A ∧ t.cmd.result = packFrom 16 ((parseCounters port).map fun o => Fld.u
          8 (s.sinceBase clear o)) ∧
        keepsBesideAnswer [.parse, .stats] s t ∧ (clear = false → t.stats = s.stats ∧ t.parse = s.parse) ∧ (clear = true → ((parseCounters
          port).all fun o => decide (t.sinceBase false o ≤ (s.stats.grown s.now).get o)) = true ∧ t.parse =
          { s.parse with ports := s.parse.ports.upd port fun x => { x with excSeen := false } }))

/-- The STEER commands set a steering profile, write a run of an indirection table and read one. Where it acts and its operands lie in their
ranges, STEER_CONFIGURE_PROFILE sets the hash fields, seed and symmetry of a profile or its direct field, shift, modulus, base and absent
action, and leaves the settings of the other mode; STEER_WRITE writes up to twelve entries of one table at once and no entry beside them;
STEER_READ answers the entries. (R293, R294, R295, R296, R298) -/
def Obligations.SteeringCommands : Prop :=
  (∀ (src : CmdSrc) (symmetric : Bool) (profile mode fields seed field sh m b absent : Nat) (s : State),
      profile < 64 ∧ mode = 0 ∧ fields < 16384 ∧ field = 0 ∧ sh = 0 ∧ m = 0 ∧ b = 0 ∧ absent = 0 →
      s.acts (.steerConfigureProfile src symmetric profile mode fields seed field sh m b absent) src 0x0426 = true →
      ∃ t, exec (.steerConfigureProfile src symmetric profile mode fields seed field sh m b absent) s = .next t ∧
        t.cmd.opcode = 0x0426 ∧ t.cmd.status = s.okStatus src 0x0426 ∧ t.cmd.result = packFrom 16 [] ∧
        keepsBesideAnswer [.parse] s t ∧ t.parse =
          { s.parse with steer := s.parse.steer.upd profile fun y => { y with direct := false, fields := BitVec.ofNat 14 fields, seed := BitVec.ofNat 32 seed, symmetric := symmetric } })
          ∧
  (∀ (src : CmdSrc) (symmetric : Bool) (profile mode fields seed field sh m b absent : Nat) (s : State),
      symmetric = false ∧ profile < 64 ∧ mode = 1 ∧ fields = 0 ∧ seed = 0 ∧ field < 5 ∧ sh < 32 ∧ 1 ≤ m ∧ m ≤ 4096 ∧ b + m ≤ 4096 ∧ absent
        < 2 →
      s.acts (.steerConfigureProfile src symmetric profile mode fields seed field sh m b absent) src 0x0426 = true →
      ∃ t, exec (.steerConfigureProfile src symmetric profile mode fields seed field sh m b absent) s = .next t ∧
        t.cmd.opcode = 0x0426 ∧ t.cmd.status = s.okStatus src 0x0426 ∧ t.cmd.result = packFrom 16 [] ∧
        keepsBesideAnswer [.parse] s t ∧ t.parse =
          { s.parse with steer := s.parse.steer.upd profile fun y => { y with direct := true, field := field, sh := sh, m := m, b := b, absentSlow := decide (absent = 1) } })
          ∧
  (∀ (src : CmdSrc) (table first count : Nat) (entries : List Nat) (s : State),
      table < 64 ∧ first < 4096 ∧ 1 ≤ count ∧ count ≤ 12 ∧ first + count ≤ 4096 ∧ entries.length = count ∧ entries.all indOk = true →
      s.acts (.steerWrite src table first count entries) src 0x0427 = true →
      ∃ t, exec (.steerWrite src table first count entries) s = .next t ∧
        t.cmd.opcode = 0x0427 ∧ t.cmd.status = s.okStatus src 0x0427 ∧ t.cmd.result = packFrom 16 [] ∧
        keepsBesideAnswer [.parse] s t ∧ (∀ i, i < count → t.parse.ind.get (4096 * table + first + i) = BitVec.ofNat 32 (entries.getD i
          0)) ∧ (∀ k, k < 4096 * table + first ∨ 4096 * table + first + count ≤ k → t.parse.ind.get k = s.parse.ind.get k) ∧ t.parse =
          { s.parse with ind := t.parse.ind }) ∧
  (∀ (src : CmdSrc) (table first count : Nat) (s : State),
      table < 64 ∧ first < 4096 ∧ 1 ≤ count ∧ count ≤ 12 ∧ first + count ≤ 4096 →
      s.acts (.steerRead src table first count) src 0x0428 = true →
      ∃ t, exec (.steerRead src table first count) s = .next t ∧
        t.cmd.opcode = 0x0428 ∧ t.cmd.status = s.okStatus src 0x0428 ∧ t.cmd.result = packFrom 16 ((List.range count).map fun i => Fld.u 4
          (s.parse.ind.get (4096 * table + first + i)).toNat) ∧
        keepsBesideAnswer [] s t)

/-- The VLAN, port VID, router MAC, L2 and next-hop commands write their tables. Where it acts and its operands lie in their ranges:
VLAN_CONFIGURE writes a VLAN unless it disables one that a next hop or a group names, or stops routing one a group routes to; PORT_SET_PVID
and ROUTER_MAC_SET set one entry; L2_ADD writes a new entry at a free location where the table has room (the location is a free value),
replaces the result of one that exists where FLAG says so, and answers ST_BAD_STATE for one that exists where FLAG does not; L2_DELETE
removes an entry and answers whether it was there; NH_WRITE writes a next hop and NH_DELETE removes one that nothing names. (R301, R303,
R306, R314, R317, R318) -/
def Obligations.AddressTableCommands : Prop :=
  (∀ (src : CmdSrc) (enable l3 : Bool) (vid : Nat) (members untagged : BitVec 256) (unknown floodMgid rmac : Nat) (s : State),
      vidOk vid = true ∧ unknown < 3 ∧ floodMgid < 65536 ∧ rmac < 64 →
      (enable = true ∨ s.vlanNamed vid = false) ∧ (l3 = true ∨ s.vlanRouted vid = false) →
      s.acts (.vlanConfigure src enable l3 vid members untagged unknown floodMgid rmac) src 0x0401 = true →
      ∃ t, exec (.vlanConfigure src enable l3 vid members untagged unknown floodMgid rmac) s = .next t ∧
        t.cmd.opcode = 0x0401 ∧ t.cmd.status = s.okStatus src 0x0401 ∧ t.cmd.result = packFrom 16 [] ∧
        keepsBesideAnswer [.fwd] s t ∧ t.fwd =
          { s.fwd with vlans := s.fwd.vlans.set vid { enable := enable, members := members, untagged := untagged, unknown := unknown, floodMgid := floodMgid, l3 := l3, rmac := rmac } })
          ∧
  (∀ (src : CmdSrc) (enable l3 : Bool) (vid : Nat) (members untagged : BitVec 256) (unknown floodMgid rmac : Nat) (s : State),
      vidOk vid = true ∧ unknown < 3 ∧ floodMgid < 65536 ∧ rmac < 64 →
      (s.fwd.vlans.get vid).enable = true ∧ enable = false ∧ s.vlanNamed vid = true ∨ (s.fwd.vlans.get vid).l3 = true ∧ l3 = false ∧
        s.vlanRouted vid = true →
      s.acts (.vlanConfigure src enable l3 vid members untagged unknown floodMgid rmac) src 0x0401 = true →
      ∃ t, exec (.vlanConfigure src enable l3 vid members untagged unknown floodMgid rmac) s = .next t ∧
        t.cmd.opcode = 0x0401 ∧ t.cmd.status = stBadState ∧ t.cmd.result = packFrom 16 [] ∧
        keepsBesideAnswer [] s t) ∧
  (∀ (src : CmdSrc) (port pvid : Nat) (s : State),
      port < 256 ∧ vidOk pvid = true →
      s.acts (.portSetPvid src port pvid) src 0x0402 = true →
      ∃ t, exec (.portSetPvid src port pvid) s = .next t ∧
        t.cmd.opcode = 0x0402 ∧ t.cmd.status = s.okStatus src 0x0402 ∧ t.cmd.result = packFrom 16 [] ∧
        keepsBesideAnswer [.ports] s t ∧ t.ports = s.ports.upd port fun x => { x with pvid := pvid }) ∧
  (∀ (src : CmdSrc) (index mac : Nat) (s : State),
      index < 64 →
      s.acts (.routerMacSet src index mac) src 0x0403 = true →
      ∃ t, exec (.routerMacSet src index mac) s = .next t ∧
        t.cmd.opcode = 0x0403 ∧ t.cmd.status = s.okStatus src 0x0403 ∧ t.cmd.result = packFrom 16 [] ∧
        keepsBesideAnswer [.fwd] s t ∧ t.fwd = { s.fwd with rmacs := s.fwd.rmacs.set index mac }) ∧
  (∀ (src : CmdSrc) (replace : Bool) (vid da result : Nat) (s : State),
      vidOk vid = true ∧ resultOk [0, 1, 4, 5] result = true ∧ s.fwd.l2.find (l2Key vid da) = none ∧ fits 0 1 (s.takenLocs 0) = true →
      s.acts (.l2Add src replace vid da result) src 0x0404 = true →
      ∃ t, exec (.l2Add src replace vid da result) s = .next t ∧
        t.cmd.opcode = 0x0404 ∧ t.cmd.status = s.okStatus src 0x0404 ∧ t.cmd.result = packFrom 16 [] ∧
        keepsBesideAnswer [.free, .fwd] s t ∧ t.fwd =
          { s.fwd with l2 := s.fwd.l2.set (l2Key vid da) { result := BitVec.ofNat 32 result, loc := freeLocation (tableSize 0) (s.takenLocs 0) (Config.freeNat s.free) } }
          ∧ t.free = s.free + 1) ∧
  (∀ (src : CmdSrc) (replace : Bool) (vid da result : Nat) (x : L2Entry) (s : State),
      vidOk vid = true ∧ resultOk [0, 1, 4, 5] result = true ∧ replace = true ∧ s.fwd.l2.find (l2Key vid da) = some x →
      s.acts (.l2Add src replace vid da result) src 0x0404 = true →
      ∃ t, exec (.l2Add src replace vid da result) s = .next t ∧
        t.cmd.opcode = 0x0404 ∧ t.cmd.status = s.okStatus src 0x0404 ∧ t.cmd.result = packFrom 16 [] ∧
        keepsBesideAnswer [.fwd] s t ∧ t.fwd =
          { s.fwd with l2 := s.fwd.l2.set (l2Key vid da) { x with result := BitVec.ofNat 32 result } }) ∧
  (∀ (src : CmdSrc) (replace : Bool) (vid da result : Nat) (s : State),
      vidOk vid = true ∧ resultOk [0, 1, 4, 5] result = true ∧ replace = false ∧ (s.fwd.l2.find (l2Key vid da)).isSome = true →
      s.acts (.l2Add src replace vid da result) src 0x0404 = true →
      ∃ t, exec (.l2Add src replace vid da result) s = .next t ∧
        t.cmd.opcode = 0x0404 ∧ t.cmd.status = stBadState ∧ t.cmd.result = packFrom 16 [] ∧
        keepsBesideAnswer [] s t) ∧
  (∀ (src : CmdSrc) (vid da : Nat) (s : State),
      vidOk vid = true →
      s.acts (.l2Delete src vid da) src 0x0405 = true →
      ∃ t, exec (.l2Delete src vid da) s = .next t ∧
        t.cmd.opcode = 0x0405 ∧ t.cmd.status = s.okStatus src 0x0405 ∧ t.cmd.result = packFrom 16 [.u 1 (flag (s.fwd.l2.has (l2Key vid
          da)) 1)] ∧
        keepsBesideAnswer [.fwd] s t ∧ t.fwd = { s.fwd with l2 := s.fwd.l2.del (l2Key vid da) }) ∧
  (∀ (src : CmdSrc) (decTtl : Bool) (nh port vid da rmac : Nat) (s : State),
      nh < 65536 ∧ port < 256 ∧ vidOk vid = true ∧ rmac < 64 →
      s.acts (.nhWrite src decTtl nh port vid da rmac) src 0x0406 = true →
      ∃ t, exec (.nhWrite src decTtl nh port vid da rmac) s = .next t ∧
        t.cmd.opcode = 0x0406 ∧ t.cmd.status = s.okStatus src 0x0406 ∧ t.cmd.result = packFrom 16 [] ∧
        keepsBesideAnswer [.fwd] s t ∧ t.fwd =
          { s.fwd with nhs := s.fwd.nhs.set nh { port := port, vid := vid, da := da, rmac := rmac, decTtl := decTtl } }) ∧
  (∀ (src : CmdSrc) (nh : Nat) (s : State),
      nh < 65536 ∧ s.nhNamed nh = false →
      s.acts (.nhDelete src nh) src 0x0407 = true →
      ∃ t, exec (.nhDelete src nh) s = .next t ∧
        t.cmd.opcode = 0x0407 ∧ t.cmd.status = s.okStatus src 0x0407 ∧ t.cmd.result = packFrom 16 [] ∧
        keepsBesideAnswer [.fwd] s t ∧ t.fwd = { s.fwd with nhs := s.fwd.nhs.del nh }) ∧
  (∀ (src : CmdSrc) (nh : Nat) (s : State),
      nh < 65536 ∧ s.nhNamed nh = true →
      s.acts (.nhDelete src nh) src 0x0407 = true →
      ∃ t, exec (.nhDelete src nh) s = .next t ∧
        t.cmd.opcode = 0x0407 ∧ t.cmd.status = stBadState ∧ t.cmd.result = packFrom 16 [] ∧
        keepsBesideAnswer [] s t)

/-- The host-route, prefix, ECMP and multicast commands write their tables. Where it acts and its operands lie in their ranges: HOST_ADD and
LPM_ADD of a result that exists write a new entry at a free location (two for an IPv6 host; free values) or replace the result of an entry
that is there; their deletions remove the entry and answer whether it was there; MEMBER_STAGE puts members into the issuer's staging buffer;
ECMP_COMMIT and MCAST_COMMIT of a buffer with every member write the group at free locations and empty the buffer; ECMP_DELETE removes a
group that no entry names. ST_BAD_STATE answers a result that does not exist, an entry that exists where FLAG does not replace it, an empty
staging buffer, and a group that an entry names. (R304, R305, R307, R308, R314, R315, R317) -/
def Obligations.RouteCommands : Prop :=
  (∀ (src : CmdSrc) (replace : Bool) (family addr result : Nat) (s : State),
      family < 2 ∧ addr < 2 ^ famBits (decide (family = 1)) ∧ resultOk [0, 2, 3, 4, 5] result = true ∧ s.resultExists result = true →
      s.fwd.hosts.find (hostKey (decide (family = 1)) addr) = none ∧ fits 1 (family + 1) (s.takenLocs 1) = true →
      s.acts (.hostAdd src replace family addr result) src 0x0408 = true →
      ∃ t, exec (.hostAdd src replace family addr result) s = .next t ∧
        t.cmd.opcode = 0x0408 ∧ t.cmd.status = s.okStatus src 0x0408 ∧ t.cmd.result = packFrom 16 [] ∧
        keepsBesideAnswer [.free, .fwd] s t ∧ t.fwd =
          { s.fwd with hosts := s.fwd.hosts.set (hostKey (decide (family = 1)) addr) { result := BitVec.ofNat 32 result, loc := (s.pickLocs 1 (s.takenLocs 1) (family + 1)).2.headD 0, loc2 := (s.pickLocs 1 (s.takenLocs 1) (family + 1)).2[1]? } }
          ∧ t.free = s.free + (family + 1)) ∧
  (∀ (src : CmdSrc) (replace : Bool) (family addr result : Nat) (x : HostEntry) (s : State),
      family < 2 ∧ addr < 2 ^ famBits (decide (family = 1)) ∧ resultOk [0, 2, 3, 4, 5] result = true ∧ s.resultExists result = true →
      replace = true ∧ s.fwd.hosts.find (hostKey (decide (family = 1)) addr) = some x →
      s.acts (.hostAdd src replace family addr result) src 0x0408 = true →
      ∃ t, exec (.hostAdd src replace family addr result) s = .next t ∧
        t.cmd.opcode = 0x0408 ∧ t.cmd.status = s.okStatus src 0x0408 ∧ t.cmd.result = packFrom 16 [] ∧
        keepsBesideAnswer [.fwd] s t ∧ t.fwd =
          { s.fwd with hosts := s.fwd.hosts.set (hostKey (decide (family = 1)) addr) { x with result := BitVec.ofNat 32 result } }) ∧
  (∀ (src : CmdSrc) (replace : Bool) (family addr result : Nat) (s : State),
      family < 2 ∧ addr < 2 ^ famBits (decide (family = 1)) ∧ resultOk [0, 2, 3, 4, 5] result = true →
      s.resultExists result = false ∨ replace = false ∧ (s.fwd.hosts.find (hostKey (decide (family = 1)) addr)).isSome = true →
      s.acts (.hostAdd src replace family addr result) src 0x0408 = true →
      ∃ t, exec (.hostAdd src replace family addr result) s = .next t ∧
        t.cmd.opcode = 0x0408 ∧ t.cmd.status = stBadState ∧ t.cmd.result = packFrom 16 [] ∧
        keepsBesideAnswer [] s t) ∧
  (∀ (src : CmdSrc) (family addr : Nat) (s : State),
      family < 2 ∧ addr < 2 ^ famBits (decide (family = 1)) →
      s.acts (.hostDelete src family addr) src 0x0409 = true →
      ∃ t, exec (.hostDelete src family addr) s = .next t ∧
        t.cmd.opcode = 0x0409 ∧ t.cmd.status = s.okStatus src 0x0409 ∧ t.cmd.result = packFrom 16 [.u 1 (flag (s.fwd.hosts.has (hostKey
          (decide (family = 1)) addr)) 1)] ∧
        keepsBesideAnswer [.fwd] s t ∧ t.fwd = { s.fwd with hosts := s.fwd.hosts.del (hostKey (decide (family = 1)) addr) }) ∧
  (∀ (src : CmdSrc) (replace : Bool) (family pfx length result : Nat) (s : State),
      family < 2 ∧ pfx < 2 ^ famBits (decide (family = 1)) ∧ length ≤ (if family = 1 then 64 else 32) ∧ resultOk [0, 2, 3, 4, 5] result =
        true ∧ s.resultExists result = true →
      (s.fwd.lpm (decide (family = 1))).find (lpmKey (decide (family = 1)) pfx length) = none ∧ fits (family + 2) 1 (s.takenLocs (family +
        2)) = true →
      s.acts (.lpmAdd src replace family pfx length result) src 0x040A = true →
      ∃ t, exec (.lpmAdd src replace family pfx length result) s = .next t ∧
        t.cmd.opcode = 0x040A ∧ t.cmd.status = s.okStatus src 0x040A ∧ t.cmd.result = packFrom 16 [] ∧
        keepsBesideAnswer [.free, .fwd] s t ∧ t.fwd = s.fwd.setLpm (decide (family = 1)) ((s.fwd.lpm (decide (family = 1))).set (lpmKey
          (decide (family = 1)) pfx length)
          { result := BitVec.ofNat 32 result, loc := freeLocation (tableSize (family + 2)) (s.takenLocs (family + 2)) (Config.freeNat s.free) })
          ∧ t.free = s.free + 1) ∧
  (∀ (src : CmdSrc) (replace : Bool) (family pfx length result : Nat) (x : LpmEntry) (s : State),
      family < 2 ∧ pfx < 2 ^ famBits (decide (family = 1)) ∧ length ≤ (if family = 1 then 64 else 32) ∧ resultOk [0, 2, 3, 4, 5] result =
        true ∧ s.resultExists result = true →
      replace = true ∧ (s.fwd.lpm (decide (family = 1))).find (lpmKey (decide (family = 1)) pfx length) = some x →
      s.acts (.lpmAdd src replace family pfx length result) src 0x040A = true →
      ∃ t, exec (.lpmAdd src replace family pfx length result) s = .next t ∧
        t.cmd.opcode = 0x040A ∧ t.cmd.status = s.okStatus src 0x040A ∧ t.cmd.result = packFrom 16 [] ∧
        keepsBesideAnswer [.fwd] s t ∧ t.fwd = s.fwd.setLpm (decide (family = 1)) ((s.fwd.lpm (decide (family = 1))).set (lpmKey (decide
          (family = 1)) pfx length) { x with result := BitVec.ofNat 32 result })) ∧
  (∀ (src : CmdSrc) (replace : Bool) (family pfx length result : Nat) (s : State),
      family < 2 ∧ pfx < 2 ^ famBits (decide (family = 1)) ∧ length ≤ (if family = 1 then 64 else 32) ∧ resultOk [0, 2, 3, 4, 5] result =
        true →
      s.resultExists result = false ∨ replace = false ∧ ((s.fwd.lpm (decide (family = 1))).find (lpmKey (decide (family = 1)) pfx
        length)).isSome = true →
      s.acts (.lpmAdd src replace family pfx length result) src 0x040A = true →
      ∃ t, exec (.lpmAdd src replace family pfx length result) s = .next t ∧
        t.cmd.opcode = 0x040A ∧ t.cmd.status = stBadState ∧ t.cmd.result = packFrom 16 [] ∧
        keepsBesideAnswer [] s t) ∧
  (∀ (src : CmdSrc) (family pfx length : Nat) (s : State),
      family < 2 ∧ pfx < 2 ^ famBits (decide (family = 1)) ∧ length ≤ (if family = 1 then 64 else 32) →
      s.acts (.lpmDelete src family pfx length) src 0x040B = true →
      ∃ t, exec (.lpmDelete src family pfx length) s = .next t ∧
        t.cmd.opcode = 0x040B ∧ t.cmd.status = s.okStatus src 0x040B ∧ t.cmd.result = packFrom 16 [.u 1 (flag ((s.fwd.lpm (decide (family
          = 1))).has (lpmKey (decide (family = 1)) pfx length)) 1)] ∧
        keepsBesideAnswer [.fwd] s t ∧ t.fwd = s.fwd.setLpm (decide (family = 1)) ((s.fwd.lpm (decide (family = 1))).del (lpmKey (decide
          (family = 1)) pfx length))) ∧
  (∀ (src : CmdSrc) (first count : Nat) (members : List Member) (s : State),
      first < 256 ∧ 1 ≤ count ∧ count ≤ 12 ∧ first + count ≤ 256 ∧ members.length = count ∧ members.all memberOk = true ∧ s.fence.waiting
        = [] →
      s.acts (.memberStage src first count members) src 0x040C = true →
      ∃ t, exec (.memberStage src first count members) s = .next t ∧
        t.cmd.opcode = 0x040C ∧ t.cmd.status = s.okStatus src 0x040C ∧ t.cmd.result = packFrom 16 [] ∧
        keepsBesideAnswer [] s t ∧ t.memStaged src = (members.zipIdx).foldl (fun l m => l.set (first + m.2) m.1) (s.memStaged src)) ∧
  (∀ (src : CmdSrc) (group count profile : Nat) (s : State),
      group < 4096 ∧ 1 ≤ count ∧ count ≤ 256 ∧ profile < 64 ∧ s.fence.waiting = [] →
      ((List.range count).all fun i => (s.memStaged src).has i && decide (((s.memStaged src).get i).nh < 65536) && s.fwd.nhs.has
        ((s.memStaged src).get i).nh) = true →
      fits 6 count (s.takenBeside 6 (s.fwd.ecmp.get group).locs) = true →
      s.acts (.ecmpCommit src group count profile) src 0x040D = true →
      ∃ t, exec (.ecmpCommit src group count profile) s = .next t ∧
        t.cmd.opcode = 0x040D ∧ t.cmd.status = s.okStatus src 0x040D ∧ t.cmd.result = packFrom 16 [] ∧
        keepsBesideAnswer [.free, .fwd] s t ∧ t.memStaged src = [] ∧ t.free = s.free + count ∧ t.fwd =
          { s.fwd with ecmp := s.fwd.ecmp.set group { members := (List.range count).map (fun i => ((s.memStaged src).get i).nh), profile := profile, locs := (s.pickLocs 6 (s.takenBeside 6 (s.fwd.ecmp.get group).locs) count).2 } })
          ∧
  (∀ (src : CmdSrc) (group count profile : Nat) (s : State),
      group < 4096 ∧ 1 ≤ count ∧ count ≤ 256 ∧ profile < 64 ∧ s.fence.waiting = [] ∧ s.memStaged src = [] →
      s.acts (.ecmpCommit src group count profile) src 0x040D = true →
      ∃ t, exec (.ecmpCommit src group count profile) s = .next t ∧
        t.cmd.opcode = 0x040D ∧ t.cmd.status = stBadState ∧ t.cmd.result = packFrom 16 [] ∧
        keepsBesideAnswer [] s t) ∧
  (∀ (src : CmdSrc) (group : Nat) (s : State),
      group < 4096 ∧ s.ecmpNamed group = false →
      s.acts (.ecmpDelete src group) src 0x040E = true →
      ∃ t, exec (.ecmpDelete src group) s = .next t ∧
        t.cmd.opcode = 0x040E ∧ t.cmd.status = s.okStatus src 0x040E ∧ t.cmd.result = packFrom 16 [] ∧
        keepsBesideAnswer [.fwd] s t ∧ t.fwd = { s.fwd with ecmp := s.fwd.ecmp.del group }) ∧
  (∀ (src : CmdSrc) (group : Nat) (s : State),
      group < 4096 ∧ s.ecmpNamed group = true →
      s.acts (.ecmpDelete src group) src 0x040E = true →
      ∃ t, exec (.ecmpDelete src group) s = .next t ∧
        t.cmd.opcode = 0x040E ∧ t.cmd.status = stBadState ∧ t.cmd.result = packFrom 16 [] ∧
        keepsBesideAnswer [] s t) ∧
  (∀ (src : CmdSrc) (aon prune : Bool) (mgid count : Nat) (s : State),
      mgid < 65536 ∧ count ≤ 256 ∧ s.fence.waiting = [] ∧ portsOnce ((List.range count).map fun i => (s.memStaged src).get i) = true →
      ((List.range count).all fun i => (s.memStaged src).has i && decide (((s.memStaged src).get i).port < 256 ∧ ((s.memStaged src).get
        i).vid ≤ 4094)) = true →
      (((List.range count).map fun i => (s.memStaged src).get i).any fun m => m.routed && decide (m.vid ≠ 0) && !(s.fwd.vlans.get
        m.vid).l3) = false →
      fits 8 count (s.takenBeside 8 (s.fwd.mcast.get mgid).locs) = true →
      s.acts (.mcastCommit src aon prune mgid count) src 0x040F = true →
      ∃ t, exec (.mcastCommit src aon prune mgid count) s = .next t ∧
        t.cmd.opcode = 0x040F ∧ t.cmd.status = s.okStatus src 0x040F ∧ t.cmd.result = packFrom 16 [] ∧
        keepsBesideAnswer [.free, .fwd] s t ∧ t.memStaged src = [] ∧ t.free = s.free + count ∧ t.fwd =
          { s.fwd with mcast := s.fwd.mcast.set mgid { s.fwd.mcast.get mgid with members := (List.range count).map (fun i => (s.memStaged src).get i), aon := aon, prune := prune, locs := (s.pickLocs 8 (s.takenBeside 8 (s.fwd.mcast.get mgid).locs) count).2 } })

/-- TABLE_LOOKUP, TABLE_READ_INDEX, TABLE_CLEAR_LOST and TABLE_GET_USAGE read the tables and clear lost locations. Where it acts and its
operands lie in their ranges, TABLE_LOOKUP of the key answers the entry, the location that lost it, or that there is none; TABLE_READ_INDEX
of a location answers whether it holds an entry, is empty or is lost, with what is known of it; neither changes anything. TABLE_CLEAR_LOST
empties a lost location and is refused with ST_BAD_STATE for one that is not lost; TABLE_GET_USAGE answers the occupancy and the lost
locations of every table and the four table counters, which it starts anew where it clears. (R314, R318, R320, R570) -/
def Obligations.TableReadCommands : Prop :=
  (∀ (src : CmdSrc) (table : Nat) (key : List Byte) (e : BitVec 32 × List Nat) (s : State),
      table < 4 ∧ (lookupKey table key).2 = true ∧ s.entryOf table (lookupKey table key).1 = some e →
      s.acts (.tableLookup src table key) src 0x0410 = true →
      ∃ t, exec (.tableLookup src table key) s = .next t ∧
        t.cmd.opcode = 0x0410 ∧ t.cmd.status = s.okStatus src 0x0410 ∧ t.cmd.result = packFrom 16 [.u 1 1, .u 4 e.1.toNat, .u 4 (e.2.headD
          0), .u 1 (flag (e.2.any (s.isLost table)) 1)] ∧
        keepsBesideAnswer [] s t) ∧
  (∀ (src : CmdSrc) (table : Nat) (key : List Byte) (s : State),
      table < 4 ∧ (lookupKey table key).2 = true ∧ s.entryOf table (lookupKey table key).1 = none →
      (s.fwd.lost.any fun x => decide (x.table = table ∧ x.key = some (lookupKey table key).1)) = false →
      s.acts (.tableLookup src table key) src 0x0410 = true →
      ∃ t, exec (.tableLookup src table key) s = .next t ∧
        t.cmd.opcode = 0x0410 ∧ t.cmd.status = s.okStatus src 0x0410 ∧ t.cmd.result = packFrom 16 [.u 1 0, .u 4 0, .u 4 0, .u 1 0] ∧
        keepsBesideAnswer [] s t) ∧
  (∀ (src : CmdSrc) (table : Nat) (key : List Byte) (l : LostLoc) (s : State),
      table < 4 ∧ (lookupKey table key).2 = true ∧ s.entryOf table (lookupKey table key).1 = none →
      (s.fwd.lost.find? fun x => decide (x.table = table ∧ x.key = some (lookupKey table key).1)) = some l →
      s.acts (.tableLookup src table key) src 0x0410 = true →
      ∃ t, exec (.tableLookup src table key) s = .next t ∧
        t.cmd.opcode = 0x0410 ∧ t.cmd.status = s.okStatus src 0x0410 ∧ t.cmd.result = packFrom 16 [.u 1 0, .u 4 0, .u 4 l.loc, .u 1 1] ∧
        keepsBesideAnswer [] s t) ∧
  (∀ (src : CmdSrc) (table : Nat) (key : List Byte) (s : State),
      4 ≤ table ∧ table < 11 ∧ table ≠ 6 ∧ table ≠ 8 ∧ (lookupKey table key).2 = true →
      s.acts (.tableLookup src table key) src 0x0410 = true →
      ∃ t, exec (.tableLookup src table key) s = .next t ∧
        t.cmd.opcode = 0x0410 ∧ t.cmd.status = s.okStatus src 0x0410 ∧ t.cmd.result = packFrom 16 ([Fld.u 1 (flag (s.indexedHas table
          (lookupKey table key).1) 1)] ++ s.indexedFlds table (lookupKey table key).1 ++ [Fld.u 4 (lookupKey table key).1, Fld.u 1 (flag
          (s.isLost table (lookupKey table key).1) 1)]) ∧
        keepsBesideAnswer [] s t) ∧
  (∀ (src : CmdSrc) (table location : Nat) (k : Nat) (s : State),
      table < 4 ∧ locationOk table location = true ∧ s.keyAt table location = some k ∧ s.isLost table location = false →
      s.acts (.tableReadIndex src table location) src 0x0411 = true →
      ∃ t, exec (.tableReadIndex src table location) s = .next t ∧
        t.cmd.opcode = 0x0411 ∧ t.cmd.status = s.okStatus src 0x0411 ∧ t.cmd.result = packFrom 16 ([Fld.u 1 1] ++ keyFlds table k ++
          [Fld.u 4 (match s.entryOf table k with | some e => e.1.toNat | none => 0)]) ∧
        keepsBesideAnswer [] s t) ∧
  (∀ (src : CmdSrc) (table location : Nat) (s : State),
      table < 4 ∧ locationOk table location = true ∧ s.keyAt table location = none ∧ s.isLost table location = false →
      s.acts (.tableReadIndex src table location) src 0x0411 = true →
      ∃ t, exec (.tableReadIndex src table location) s = .next t ∧
        t.cmd.opcode = 0x0411 ∧ t.cmd.status = s.okStatus src 0x0411 ∧ t.cmd.result = packFrom 16 [.u 1 0] ∧
        keepsBesideAnswer [] s t) ∧
  (∀ (src : CmdSrc) (table location : Nat) (l : LostLoc) (s : State),
      table < 4 ∧ locationOk table location = true ∧ (s.fwd.lost.find? fun x => decide (x.table = table ∧ x.loc = location)) = some l ∧
        l.known = false →
      s.acts (.tableReadIndex src table location) src 0x0411 = true →
      ∃ t, exec (.tableReadIndex src table location) s = .next t ∧
        t.cmd.opcode = 0x0411 ∧ t.cmd.status = s.okStatus src 0x0411 ∧ t.cmd.result = packFrom 16 [.u 1 2] ∧
        keepsBesideAnswer [] s t) ∧
  (∀ (src : CmdSrc) (table location : Nat) (g : Nat) (i : Nat) (s : State),
      (table = 6 ∨ table = 8) ∧ locationOk table location = true ∧ s.memberAt table location = some (g, i) ∧ s.isLost table location =
        false →
      s.acts (.tableReadIndex src table location) src 0x0411 = true →
      ∃ t, exec (.tableReadIndex src table location) s = .next t ∧
        t.cmd.opcode = 0x0411 ∧ t.cmd.status = s.okStatus src 0x0411 ∧ t.cmd.result = packFrom 16 ([Fld.u 1 1, Fld.u 4 g] ++ (if table = 6
          then [Fld.u 4 (nth (s.fwd.ecmp.get g).members i)] else [Fld.u 2 (nth (s.fwd.mcast.get g).members i).port, Fld.u 2 (nth
          (s.fwd.mcast.get g).members i).vid, Fld.u 1 (flag (nth (s.fwd.mcast.get g).members i).routed 1)])) ∧
        keepsBesideAnswer [] s t) ∧
  (∀ (src : CmdSrc) (table location : Nat) (s : State),
      (table = 4 ∨ table = 5 ∨ table = 7 ∨ table = 9 ∨ table = 10) ∧ locationOk table location = true ∧ s.isLost table location = false →
      s.acts (.tableReadIndex src table location) src 0x0411 = true →
      ∃ t, exec (.tableReadIndex src table location) s = .next t ∧
        t.cmd.opcode = 0x0411 ∧ t.cmd.status = s.okStatus src 0x0411 ∧ t.cmd.result = packFrom 16 (if s.indexedHas table location then
          [Fld.u 1 1] ++ keyFlds table location ++ s.indexedFlds table location else [Fld.u 1 0]) ∧
        keepsBesideAnswer [] s t) ∧
  (∀ (src : CmdSrc) (table location : Nat) (s : State),
      table < 11 ∧ locationOk table location = true ∧ s.isLost table location = true →
      s.acts (.tableClearLost src table location) src 0x0412 = true →
      ∃ t, exec (.tableClearLost src table location) s = .next t ∧
        t.cmd.opcode = 0x0412 ∧ t.cmd.status = s.okStatus src 0x0412 ∧ t.cmd.result = packFrom 16 [] ∧
        keepsBesideAnswer [.fwd] s t ∧ t.isLost table location = false ∧ (table < 4 → ((s.keyAt table location).all fun k => (t.entryOf
          table k).isNone) = true) ∧ (table = 4 ∨ table = 5 ∨ table = 7 ∨ table = 9 ∨ table = 10 → t.indexedHas table location = false) ∧
          (table = 6 → ((s.memberAt 6 location).all fun y => decide ((t.fwd.ecmp.get y.1).members = dropAt (s.fwd.ecmp.get y.1).members
          y.2)) = true) ∧ (table = 8 → ((s.memberAt 8 location).all fun y => decide ((t.fwd.mcast.get y.1).members = dropAt
          (s.fwd.mcast.get y.1).members y.2)) = true)) ∧
  (∀ (src : CmdSrc) (table location : Nat) (s : State),
      table < 11 ∧ locationOk table location = true ∧ s.isLost table location = false →
      s.acts (.tableClearLost src table location) src 0x0412 = true →
      ∃ t, exec (.tableClearLost src table location) s = .next t ∧
        t.cmd.opcode = 0x0412 ∧ t.cmd.status = stBadState ∧ t.cmd.result = packFrom 16 [] ∧
        keepsBesideAnswer [] s t) ∧
  (∀ (src : CmdSrc) (clear : Bool) (s : State),
      s.acts (.tableGetUsage src clear) src 0x0413 = true →
      ∃ t, exec (.tableGetUsage src clear) s = .next t ∧
        t.cmd.opcode = 0x0413 ∧ t.cmd.status = s.okStatus src 0x0413 ∧ t.cmd.result = packFrom 16 (((List.range 11).map fun k => Fld.u 4
          (s.occupancy k)) ++ ((List.range 11).map fun k => Fld.u 4 (s.fwd.lost.filter fun x => decide (x.table = k)).length) ++
          [deviceCtr 0x1018, deviceCtr 0x1000, deviceCtr 0x1008, deviceCtr 0x1010].map fun o => Fld.u 8 (s.sinceBase clear o)) ∧
        keepsBesideAnswer [.stats] s t ∧ (clear = false → t.stats = s.stats) ∧ (clear = true → ([deviceCtr 0x1018, deviceCtr 0x1000,
          deviceCtr 0x1008, deviceCtr 0x1010].all fun o => decide (t.sinceBase false o ≤ (s.stats.grown s.now).get o)) = true))

/-- The class, buffer, queue, egress and skein commands set the switch core and answer its counts. Where it acts and its operands lie in
their ranges, each setting command sets what it names and nothing beside it: a class map, a class's limits, a queue's limit and weight (a
limit beyond the on-chip buffer is ST_NOT_PERMITTED on an LC part), a port's egress limit and mode (the contracts are judged anew), a
class's spilling (refused while the skein is not ready), a class's kind on one port or all. The reading commands answer the skein, the queue
and the buffer counts, which FLAG starts anew. (R292, R330, R334, R338, R342, R348, R354, R356) -/
def Obligations.CoreCommands : Prop :=
  (∀ (src : CmdSrc) (kind map first count : Nat) (classes : List Nat) (s : State),
      kind < 2 ∧ map < 8 ∧ first < (if kind = 0 then 8 else 64) ∧ 1 ≤ count ∧ first + count ≤ (if kind = 0 then 8 else 64) ∧
        classes.length = count ∧ (classes.all fun c => decide (c < 8)) = true →
      s.acts (.classSetMap src kind map first count classes) src 0x0501 = true →
      ∃ t, exec (.classSetMap src kind map first count classes) s = .next t ∧
        t.cmd.opcode = 0x0501 ∧ t.cmd.status = s.okStatus src 0x0501 ∧ t.cmd.result = packFrom 16 [] ∧
        keepsBesideAnswer [.parse] s t ∧ (kind = 0 → t.parse =
          { s.parse with pcp := (classes.zipIdx).foldl (fun l c => l.set (8 * map + first + c.2) c.1) s.parse.pcp })) ∧
  (∀ (src : CmdSrc) (kind map first count : Nat) (classes : List Nat) (s : State),
      kind = 1 ∧ map < 8 ∧ first < 64 ∧ 1 ≤ count ∧ first + count ≤ 64 ∧ classes.length = count ∧ (classes.all fun c => decide (c < 8)) =
        true →
      s.acts (.classSetMap src kind map first count classes) src 0x0501 = true →
      ∃ t, exec (.classSetMap src kind map first count classes) s = .next t ∧
        t.cmd.opcode = 0x0501 ∧ t.cmd.status = s.okStatus src 0x0501 ∧ t.cmd.result = packFrom 16 [] ∧
        keepsBesideAnswer [.parse] s t ∧ t.parse =
          { s.parse with dscp := (classes.zipIdx).foldl (fun l c => l.set (64 * map + first + c.2) c.1) s.parse.dscp }) ∧
  (∀ (src : CmdSrc) (cls cl spillOn returnLow : Nat) (s : State),
      cls < 8 ∧ cl ≤ 524288 →
      (if cls < 4 then 16 ≤ spillOn ∧ spillOn ≤ 65536 ∧ 16 ≤ returnLow ∧ returnLow ≤ 65536 else spillOn = 0 ∧ returnLow = 0) →
      s.acts (.bufferConfigureClass src cls cl spillOn returnLow) src 0x0510 = true →
      ∃ t, exec (.bufferConfigureClass src cls cl spillOn returnLow) s = .next t ∧
        t.cmd.opcode = 0x0510 ∧ t.cmd.status = s.okStatus src 0x0510 ∧ t.cmd.result = packFrom 16 [] ∧
        keepsBesideAnswer [.core] s t ∧ t.core =
          { s.core with classes := s.core.classes.upd cls fun x => if cls < 4 then { x with cl := cl, spillOn := spillOn, returnLow := returnLow } else { x with cl := cl } })
          ∧
  (∀ (src : CmdSrc) (port cls ql weight : Nat) (s : State),
      port < 256 ∧ cls < 8 ∧ 1 ≤ ql ∧ ql ≤ (if s.kindOf port cls = 1 then 134217728 else 524288) ∧ 1 ≤ weight ∧ weight ≤ 127 →
      (s.kindOf port cls = 1 → s.fuses.orderCode = .lc → ql ≤ 524288) →
      s.acts (.queueConfigure src port cls ql weight) src 0x0511 = true →
      ∃ t, exec (.queueConfigure src port cls ql weight) s = .next t ∧
        t.cmd.opcode = 0x0511 ∧ t.cmd.status = s.okStatus src 0x0511 ∧ t.cmd.result = packFrom 16 [] ∧
        keepsBesideAnswer [.core] s t ∧ t.core =
          { s.core with queues := s.core.queues.upd (8 * port + cls) fun x => { x with ql := some ql, weight := weight } }) ∧
  (∀ (src : CmdSrc) (port cls ql weight : Nat) (s : State),
      port < 256 ∧ cls < 8 ∧ 1 ≤ weight ∧ weight ≤ 127 ∧ s.kindOf port cls = 1 ∧ s.fuses.orderCode = .lc ∧ 524288 < ql ∧ ql ≤ 134217728 →
      s.acts (.queueConfigure src port cls ql weight) src 0x0511 = true →
      ∃ t, exec (.queueConfigure src port cls ql weight) s = .next t ∧
        t.cmd.opcode = 0x0511 ∧ t.cmd.status = stNotPermitted ∧ t.cmd.result = packFrom 16 [] ∧
        keepsBesideAnswer [] s t) ∧
  (∀ (src : CmdSrc) (cut : Bool) (port limit : Nat) (s : State),
      port < 256 ∧ 16 ≤ limit ∧ limit ≤ 16384 →
      s.acts (.portConfigureEgress src cut port limit) src 0x0512 = true →
      ∃ t, exec (.portConfigureEgress src cut port limit) s = .next t ∧
        t.cmd.opcode = 0x0512 ∧ t.cmd.status = s.okStatus src 0x0512 ∧ t.cmd.result = packFrom 16 [] ∧
        keepsBesideAnswer [.core, .contracts] s t ∧ t.core =
          { s.core with ports := s.core.ports.upd port fun x => { x with limitB := limit, cut := cut } }) ∧
  (∀ (src : CmdSrc) (spill : Bool) (cls : Nat) (s : State),
      (cls < 4 ∧ s.fuses.orderCode ≠ .lc ∧ (spill = true → s.glob.pdOn.getLsbD 5 = true ∧ s.core.skein = .ready)) →
      s.acts (.skeinConfigure src spill cls) src 0x0513 = true →
      ∃ t, exec (.skeinConfigure src spill cls) s = .next t ∧
        t.cmd.opcode = 0x0513 ∧ t.cmd.status = s.okStatus src 0x0513 ∧ t.cmd.result = packFrom 16 [] ∧
        keepsBesideAnswer [.core] s t ∧ t.core = { s.core with classes := s.core.classes.upd cls fun x => { x with spill := spill } }) ∧
  (∀ (src : CmdSrc) (spill : Bool) (cls : Nat) (s : State),
      cls < 4 ∧ s.fuses.orderCode = .lc →
      s.acts (.skeinConfigure src spill cls) src 0x0513 = true →
      ∃ t, exec (.skeinConfigure src spill cls) s = .next t ∧
        t.cmd.opcode = 0x0513 ∧ t.cmd.status = stNotPermitted ∧ t.cmd.result = packFrom 16 [] ∧
        keepsBesideAnswer [] s t) ∧
  (∀ (src : CmdSrc) (clear : Bool) (s : State),
      s.fuses.orderCode ≠ .lc →
      s.acts (.skeinGetStatus src clear) src 0x0514 = true →
      ∃ t, exec (.skeinGetStatus src clear) s = .next t ∧
        t.cmd.opcode = 0x0514 ∧ t.cmd.status = s.okStatus src 0x0514 ∧ t.cmd.result = packFrom 16 [.u 1 s.core.skein.code, .u 4
          s.skeinCells, .u 4 s.core.skRetired, .u 4 (min ((s.core.skSpilled - nth s.core.skBase 0) * secC / max 1 (s.now -
          s.core.skBaseAt)) (2 ^ 32 - 1)), .u 4 (min ((s.core.skReturned - nth s.core.skBase 1) * secC / max 1 (s.now - s.core.skBaseAt))
          (2 ^ 32 - 1)), .u 8 (s.core.skCorrected - nth s.core.skBase 2), .u 8 (s.core.skUncorr - nth s.core.skBase 3)] ∧
        keepsBesideAnswer [.core] s t ∧ t.core = if clear then
          { s.core with skBase := [s.core.skSpilled, s.core.skReturned, s.core.skCorrected, s.core.skUncorr], skBaseAt := s.now } else
          s.core) ∧
  (∀ (src : CmdSrc) (clear : Bool) (port cls : Nat) (s : State),
      port < 256 ∧ cls < 8 →
      s.acts (.coreGetQueue src clear port cls) src 0x0515 = true →
      ∃ t, exec (.coreGetQueue src clear port cls) s = .next t ∧
        t.cmd.opcode = 0x0515 ∧ t.cmd.status = s.okStatus src 0x0515 ∧ t.cmd.result = packFrom 16 ([Fld.u 1 (s.kindOf port cls), Fld.u 4
          (s.queueOnChip port cls), Fld.u 4 (s.queueSkein port cls), Fld.u 4 (s.copiesWhere fun x => decide (x.port = port ∧ x.tc =
          cls)).length, Fld.u 4 (s.core.queues.get (8 * port + cls)).peak] ++ ([0x10, 0x18, 0x20, 0x28, 0x30, 0x38].map fun o => Fld.u 8
          (s.sinceBase clear (queueCtr port cls o))) ++ (List.range 6).map fun i => Fld.u 8 (nth (s.core.queues.get (8 * port +
          cls)).stomps i - nth (s.core.queues.get (8 * port + cls)).stompBase i)) ∧
        keepsBesideAnswer [.core, .stats] s t ∧ t.core = if clear then
          { s.core with queues := s.core.queues.upd (8 * port + cls) fun x => { x with peak := s.queueOnChip port cls + s.queueSkein port cls, stompBase := x.stomps } }
          else s.core) ∧
  (∀ (src : CmdSrc) (s : State),
      s.acts (.bufferGetStatus src) src 0x0516 = true →
      ∃ t, exec (.bufferGetStatus src) s = .next t ∧
        t.cmd.opcode = 0x0516 ∧ t.cmd.status = s.okStatus src 0x0516 ∧ t.cmd.result = packFrom 16 [.u 4 s.sharedSize, .u 4 s.sharedFree,
          .u 4 s.core.gpSize, .u 4 s.parse.reserve, .u 4 s.core.retired, .u 4 (s.egressFree (resSum s.contracts.table))] ∧
        keepsBesideAnswer [] s t) ∧
  (∀ (src : CmdSrc) (port cls kind : Nat) (s : State),
      port < 256 ∧ cls < 4 ∧ kind < 2 →
      s.acts (.classSetKind src port cls kind) src 0x0520 = true →
      ∃ t, exec (.classSetKind src port cls kind) s = .next t ∧
        t.cmd.opcode = 0x0520 ∧ t.cmd.status = s.okStatus src 0x0520 ∧ t.cmd.result = packFrom 16 [] ∧
        keepsBesideAnswer [.core] s t ∧ t.core = { s.core with kinds := s.core.kinds.set (4 * port + cls) (decide (kind = 0)) }) ∧
  (∀ (src : CmdSrc) (port cls kind : Nat) (s : State),
      port = 0xFFFF ∧ cls < 4 ∧ kind < 2 →
      s.acts (.classSetKind src port cls kind) src 0x0520 = true →
      ∃ t, exec (.classSetKind src port cls kind) s = .next t ∧
        t.cmd.opcode = 0x0520 ∧ t.cmd.status = s.okStatus src 0x0520 ∧ t.cmd.result = packFrom 16 [] ∧
        keepsBesideAnswer [.core] s t ∧ t.core =
          { s.core with kinds := (List.range 256).foldl (fun l q => l.set (4 * q + cls) (decide (kind = 0))) s.core.kinds })

/-- The CONTRACT commands and GUARANTEED_POOL_SET judge, install, report and end contracts and size the guaranteed pool. Where it acts and
its operands lie in their ranges: CONTRACT_CHECK judges the contract as if it stood in the table and changes nothing; CONTRACT_SET of a
contract that is new, or replaces one that is not draining, installs it where it is feasible and answers its terms, and otherwise completes
with ST_INFEASIBLE and leaves the table; CONTRACT_DELETE starts the draining of a contract that is active or suspended and otherwise changes
nothing; CONTRACT_GET answers its state, parameters, terms and counts; GUARANTEED_POOL_SET that covers the reservations, from cells that are
free, sets the pool's size and judges the contracts anew, and otherwise completes with ST_INFEASIBLE or ST_BUSY. (R357, R365, R366, R367,
R369, R375) -/
def Obligations.ContractCommands : Prop :=
  (∀ (src : CmdSrc) (replace : Bool) (port cls lMax rate burst fmax : Nat) (mask : BitVec 256) (x : Contract) (s : State),
      (contractRanges port cls lMax rate burst fmax mask).all id = true ∧ x = s.newContract (contractKey port cls) lMax rate burst fmax
        mask →
      match s.infeasible (s.contracts.table.set (contractKey port cls) x) (contractKey port cls) x with
      | some f => completesWith (.contractCheck src replace port cls lMax rate burst fmax mask) src 0x0523 s stInfeasible [.u 2 f.1, .u 2
        (keyPort f.2), .u 2 (keyClass f.2)] [] fun _ => True
      | none => completes (.contractCheck src replace port cls lMax rate burst fmax mask) src 0x0523 s (s.contractTerms
        (s.contracts.table.set (contractKey port cls) x) (contractKey port cls) x) [] fun _ => True) ∧
  (∀ (src : CmdSrc) (replace : Bool) (port cls lMax rate burst fmax : Nat) (mask : BitVec 256) (x : Contract) (s : State),
      (contractRanges port cls lMax rate burst fmax mask).all id = true ∧ x = s.newContract (contractKey port cls) lMax rate burst fmax
        mask →
      (s.contracts.table.has (contractKey port cls) = true → replace = true ∧ (s.contracts.table.get (contractKey port cls)).state ≠
        .draining) →
      match s.infeasible (s.contracts.table.set (contractKey port cls) x) (contractKey port cls) x with
      | some f => completesWith (.contractSet src replace port cls lMax rate burst fmax mask) src 0x0521 s stInfeasible [.u 2 f.1, .u 2
        (keyPort f.2), .u 2 (keyClass f.2)] [] fun _ => True
      | none => completes (.contractSet src replace port cls lMax rate burst fmax mask) src 0x0521 s (s.contractTerms
        (s.contracts.table.set (contractKey port cls) x) (contractKey port cls) x) [.contracts] fun t => t.contracts =
        { s.contracts with table := s.contracts.table.set (contractKey port cls) x }) ∧
  (∀ (src : CmdSrc) (port cls : Nat) (s : State),
      port < 256 ∧ 4 ≤ cls ∧ cls < 8 ∧ s.contracts.table.has (contractKey port cls) = true ∧ (s.contracts.table.get (contractKey port
        cls)).state ≠ .draining →
      s.acts (.contractDelete src port cls) src 0x0522 = true →
      ∃ t, exec (.contractDelete src port cls) s = .next t ∧
        t.cmd.opcode = 0x0522 ∧ t.cmd.status = s.okStatus src 0x0522 ∧ t.cmd.result = packFrom 16 [.u 1 1] ∧
        keepsBesideAnswer [.contracts] s t ∧ t.contracts =
          { s.contracts with table := s.contracts.table.upd (contractKey port cls) fun y => { y with state := .draining } }) ∧
  (∀ (src : CmdSrc) (port cls : Nat) (s : State),
      (port < 256 ∧ 4 ≤ cls ∧ cls < 8 ∧ (s.contracts.table.has (contractKey port cls) = true → (s.contracts.table.get (contractKey port
        cls)).state = .draining)) →
      s.acts (.contractDelete src port cls) src 0x0522 = true →
      ∃ t, exec (.contractDelete src port cls) s = .next t ∧
        t.cmd.opcode = 0x0522 ∧ t.cmd.status = s.okStatus src 0x0522 ∧ t.cmd.result = packFrom 16 [.u 1 0] ∧
        keepsBesideAnswer [] s t) ∧
  (∀ (src : CmdSrc) (clear : Bool) (port cls : Nat) (x : Contract) (s : State),
      port < 256 ∧ 4 ≤ cls ∧ cls < 8 ∧ s.contracts.table.find (contractKey port cls) = some x →
      s.acts (.contractGet src clear port cls) src 0x0524 = true →
      ∃ t, exec (.contractGet src clear port cls) s = .next t ∧
        t.cmd.opcode = 0x0524 ∧ t.cmd.status = s.okStatus src 0x0524 ∧ t.cmd.result = packFrom 16 ([Fld.u 1
          (match x.state with | .active => 0 | .suspended => 1 | .draining => 2), Fld.u 8 (x.lMax * nsU), Fld.u 4 x.rate, Fld.u 4 x.burst,
          Fld.u 4 x.fmax, Fld.raw 8 (beBytes 32 x.mask.toNat)] ++ s.contractTerms s.contracts.table (contractKey port cls) x ++ [Fld.i 8
          x.level, Fld.u 8 (s.contracts.maxSeen.get (contractKey port cls)), Fld.u 8 (s.maxSeenGet clear (contractKey port cls) x)] ++
          (List.range 11).map fun i => Fld.u 8 (s.sinceBase clear (contractCtr port cls (8 * i)))) ∧
        keepsBesideAnswer [.contracts, .stats] s t ∧ t.contracts = if clear then
          { s.contracts with table := s.contracts.table.upd (contractKey port cls) fun y => { y with maxSeenGet := ((s.contracts.latest s.now).get (contractKey port cls)).1 } }
          else s.contracts) ∧
  (∀ (src : CmdSrc) (clear : Bool) (port cls : Nat) (s : State),
      port < 256 ∧ 4 ≤ cls ∧ cls < 8 ∧ s.contracts.table.find (contractKey port cls) = none →
      s.acts (.contractGet src clear port cls) src 0x0524 = true →
      ∃ t, exec (.contractGet src clear port cls) s = .next t ∧
        t.cmd.opcode = 0x0524 ∧ t.cmd.status = stBadState ∧ t.cmd.result = packFrom 16 [] ∧
        keepsBesideAnswer [] s t) ∧
  (∀ (src : CmdSrc) (size : Nat) (s : State),
      size ≤ 262144 ∧ resSum s.contracts.table ≤ size ∧ size ≤ s.core.gpSize + s.sharedFree →
      s.acts (.guaranteedPoolSet src size) src 0x0525 = true →
      ∃ t, exec (.guaranteedPoolSet src size) s = .next t ∧
        t.cmd.opcode = 0x0525 ∧ t.cmd.status = s.okStatus src 0x0525 ∧ t.cmd.result = packFrom 16 [] ∧
        keepsBesideAnswer [.core, .contracts] s t ∧ t.core = { s.core with gpSize := size, gpWanted := size }) ∧
  (∀ (src : CmdSrc) (size : Nat) (s : State),
      size ≤ 262144 ∧ resSum s.contracts.table ≤ size ∧ s.core.gpSize + s.sharedFree < size →
      s.acts (.guaranteedPoolSet src size) src 0x0525 = true →
      ∃ t, exec (.guaranteedPoolSet src size) s = .next t ∧
        t.cmd.opcode = 0x0525 ∧ t.cmd.status = stBusy ∧ t.cmd.result = packFrom 16 [] ∧
        keepsBesideAnswer [] s t)

/-- The TIME commands enter a change of the timescale 1,024 ticks ahead, or wait for the next reading. Where it acts and its operands lie in
their ranges, TIME_SET, TIME_STEP and TIME_SET_RATE by the host that controls the timescale, TIME_SET_CONTROL and TIME_SET_UTC enter their
change at the end of the queue of changes, due 1,024 ticks after the present one, and complete when it has taken effect; TIME_SET by a host
that does not control it completes with ST_NOT_PERMITTED, TIME_SET_CONTROL while the pair controls it with ST_BAD_STATE; TIME_GET joins
those that wait for the reading. (R186, R187, R189, R192, R210) -/
def Obligations.TimeCommands : Prop :=
  (∀ (src : CmdSrc) (target : KTime) (s : State),
      target.sec < 2 ^ 64 ∧ target.ns < 1000000000 ∧ target.sub < 65536 ∧ s.hostControls = true →
      s.acts (.timeSet src target) src 0x0601 = true →
      ∃ t, exec (.timeSet src target) s = .next t ∧
        keepsBesideBeginning [.time] s t ∧ t.time =
          { s.time with changes := s.time.changes ++ [{ kind := .set, a := KTime.units target, b := 0, c := 0, src := src, own := false, due := s.tick + 1024 }] })
          ∧
  (∀ (src : CmdSrc) (target : KTime) (s : State),
      target.sec < 2 ^ 64 ∧ target.ns < 1000000000 ∧ target.sub < 65536 ∧ s.hostControls = false →
      s.acts (.timeSet src target) src 0x0601 = true →
      ∃ t, exec (.timeSet src target) s = .next t ∧
        t.cmd.opcode = 0x0601 ∧ t.cmd.status = stNotPermitted ∧ t.cmd.result = packFrom 16 [] ∧
        keepsBesideAnswer [] s t) ∧
  (∀ (src : CmdSrc) (ns : Int) (sub : Nat) (s : State),
      (ns * 65536 + sub).natAbs ≤ 10 ^ 18 * 65536 ∧ sub < 65536 ∧ s.hostControls = true →
      s.acts (.timeStep src ns sub) src 0x0602 = true →
      ∃ t, exec (.timeStep src ns sub) s = .next t ∧
        keepsBesideBeginning [.time] s t ∧ t.time =
          { s.time with changes := s.time.changes ++ [{ kind := .step, a := ns * 65536 + sub, b := 0, c := 0, src := src, own := false, due := s.tick + 1024 }] })
          ∧
  (∀ (src : CmdSrc) (rate : Int) (s : State),
      rate.natAbs ≤ 28147497671 ∧ s.hostControls = true →
      s.acts (.timeSetRate src rate) src 0x0603 = true →
      ∃ t, exec (.timeSetRate src rate) s = .next t ∧
        keepsBesideBeginning [.time] s t ∧ t.time =
          { s.time with changes := s.time.changes ++ [{ kind := .rate, a := rate, b := 0, c := 0, src := src, own := false, due := s.tick + 1024 }] })
          ∧
  (∀ (src : CmdSrc) (control : Nat) (s : State),
      (control < 2 ∧ (s.time.control = 2 → fromJournal src = true)) →
      s.acts (.timeSetControl src control) src 0x0604 = true →
      ∃ t, exec (.timeSetControl src control) s = .next t ∧
        keepsBesideBeginning [.time] s t ∧ t.time =
          { s.time with changes := s.time.changes ++ [{ kind := .control, a := control, b := 0, c := 0, src := src, own := false, due := s.tick + 1024 }] })
          ∧
  (∀ (src : CmdSrc) (control : Nat) (s : State),
      control < 2 ∧ s.time.control = 2 ∧ fromJournal src = false →
      s.acts (.timeSetControl src control) src 0x0604 = true →
      ∃ t, exec (.timeSetControl src control) s = .next t ∧
        t.cmd.opcode = 0x0604 ∧ t.cmd.status = stBadState ∧ t.cmd.result = packFrom 16 [] ∧
        keepsBesideAnswer [] s t) ∧
  (∀ (src : CmdSrc) (s : State),
      s.acts (.timeGet src) src 0x0605 = true →
      ∃ t, exec (.timeGet src) s = .next t ∧
        keepsBesideBeginning [.time] s t ∧ t.time = { s.time with getWait := s.time.getWait ++ [src] }) ∧
  (∀ (src : CmdSrc) (leap61 leap59 : Bool) (offset : Nat) (s : State),
      (leap61 && leap59) = false ∧ offset < 256 →
      s.acts (.timeSetUtc src leap61 leap59 offset) src 0x0606 = true →
      ∃ t, exec (.timeSetUtc src leap61 leap59 offset) s = .next t ∧
        keepsBesideBeginning [.time] s t ∧ t.time =
          { s.time with changes := s.time.changes ++ [{ kind := .utc, a := offset, b := flag leap61 1, c := flag leap59 1, src := src, own := false, due := s.tick + 1024 }] })

/-- The PTP, servo and asymmetry commands enter their configuration for the next boundary and answer the registers. Where it acts and its
operands lie in their ranges, in a state that allows it, each configuring command completes at once and stands at the end of the
configurations that the next processing boundary takes up, whole; nothing else changes. The reading commands answer the instance, the port
(whose counts FLAG starts anew), the servo and the asymmetry. (R220, R227, R234, R238) -/
def Obligations.PtpCommands : Prop :=
  (∀ (src : CmdSrc) (enable slaveOnly : Bool) (inst profile domain : Nat) (identity : List Byte) (prio1 prio2 localPrio : Nat) (s :
    State),
      inst < 4 ∧ profile < 4 ∧ (if profile = 3 then 24 ≤ domain ∧ domain ≤ 43 else domain ≤ 127) ∧ ofBe identity ≠ 0 ∧ ofBe identity ≠ 2 ^
        64 - 1 →
      prio1 ≤ 255 ∧ (if profile = 3 then prio2 = 128 ∧ 1 ≤ localPrio ∧ localPrio ≤ 255 else prio2 ≤ 255 ∧ localPrio = 0) →
      ((s.instAhead inst).1 = true → (s.instAhead inst).2.1 = profile ∧ (s.instAhead inst).2.2 = domain) →
      s.acts (.ptpConfigureInstance src enable slaveOnly inst profile domain identity prio1 prio2 localPrio) src 0x0610 = true →
      ∃ t, exec (.ptpConfigureInstance src enable slaveOnly inst profile domain identity prio1 prio2 localPrio) s = .next t ∧
        t.cmd.opcode = 0x0610 ∧ t.cmd.status = s.okStatus src 0x0610 ∧ t.cmd.result = packFrom 16 [] ∧
        keepsBesideAnswer [.ptp] s t ∧ t.ptp =
          { s.ptp with pendCfg := s.ptp.pendCfg ++ [.ptpConfigureInstance .direct enable slaveOnly inst profile domain identity prio1 prio2 localPrio] })
          ∧
  (∀ (src : CmdSrc) (masterOnly : Bool) (port inst transport dest addr : Nat) (logSync logDelay logAnnounce : Int) (annTimeout syncTimeout
    delayTimeout twoStep localPrio coastLimit maxPath delayOutlier offsetOutlier filterLen : Nat) (s : State),
      (port < 256 ∧ inst < 6 ∧ transport < 3 ∧ (inst < 4 ∧ (s.instAhead inst).2.1 = 3 → transport = 0) ∧ dest < 2) →
      (if dest = 0 then addr = 0 else transport ≠ 0 ∧ addr ≠ 0 ∧ (if transport = 1 then addr < 2 ^ 32 else addr < 2 ^ 128)) →
      -7 ≤ logSync ∧ logSync ≤ 1 ∧ s.messageRate port inst logSync logDelay logAnnounce ≤ 65536 * 32 ∧ -7 ≤ logDelay ∧ logDelay ≤ 5 ∧ -3 ≤
        logAnnounce ∧ logAnnounce ≤ 4 →
      2 ≤ annTimeout ∧ annTimeout ≤ 255 ∧ 2 ≤ syncTimeout ∧ syncTimeout ≤ 255 ∧ 1 ≤ delayTimeout ∧ delayTimeout ≤ 255 ∧ twoStep < 2 ∧ 1 ≤
        localPrio ∧ localPrio ≤ 255 →
      secU ≤ coastLimit ∧ coastLimit ≤ 600 * secU ∧ usU ≤ maxPath ∧ maxPath ≤ 100 * msU ∧ 6554 ≤ delayOutlier ∧ delayOutlier ≤ 100 * usU ∧
        nsU ≤ offsetOutlier ∧ offsetOutlier ≤ secU ∧ 1 ≤ filterLen ∧ filterLen ≤ 256 →
      ((s.ports.get port).configured && (s.ports.get port).isSelvedge) = false ∧ (5 ≤ (s.portAhead port).1 ∨ 5 ≤ inst ∨ (s.portAhead
        port).1 = inst) →
      s.acts (.ptpConfigurePort src masterOnly port inst transport dest addr logSync logDelay logAnnounce annTimeout syncTimeout
        delayTimeout twoStep localPrio coastLimit maxPath delayOutlier offsetOutlier filterLen) src 0x0611 = true →
      ∃ t, exec (.ptpConfigurePort src masterOnly port inst transport dest addr logSync logDelay logAnnounce annTimeout syncTimeout
        delayTimeout twoStep localPrio coastLimit maxPath delayOutlier offsetOutlier filterLen) s = .next t ∧
        t.cmd.opcode = 0x0611 ∧ t.cmd.status = s.okStatus src 0x0611 ∧ t.cmd.result = packFrom 16 [] ∧
        keepsBesideAnswer [.ptp] s t ∧ t.ptp =
          { s.ptp with pendCfg := s.ptp.pendCfg ++ [.ptpConfigurePort .direct masterOnly port inst transport dest addr logSync logDelay logAnnounce annTimeout syncTimeout delayTimeout twoStep localPrio coastLimit maxPath delayOutlier offsetOutlier filterLen] })
          ∧
  (∀ (src : CmdSrc) (enable slaveOnly : Bool) (inst profile domain : Nat) (identity : List Byte) (prio1 prio2 localPrio : Nat) (s :
    State),
      inst < 4 ∧ profile < 4 ∧ (if profile = 3 then 24 ≤ domain ∧ domain ≤ 43 else domain ≤ 127) ∧ ofBe identity ≠ 0 ∧ ofBe identity ≠ 2 ^
        64 - 1 →
      prio1 ≤ 255 ∧ (if profile = 3 then prio2 = 128 ∧ 1 ≤ localPrio ∧ localPrio ≤ 255 else prio2 ≤ 255 ∧ localPrio = 0) →
      (s.instAhead inst).1 = true ∧ ((s.instAhead inst).2.1 ≠ profile ∨ (s.instAhead inst).2.2 ≠ domain) →
      s.acts (.ptpConfigureInstance src enable slaveOnly inst profile domain identity prio1 prio2 localPrio) src 0x0610 = true →
      ∃ t, exec (.ptpConfigureInstance src enable slaveOnly inst profile domain identity prio1 prio2 localPrio) s = .next t ∧
        t.cmd.opcode = 0x0610 ∧ t.cmd.status = stBadState ∧ t.cmd.result = packFrom 16 [] ∧
        keepsBesideAnswer [] s t) ∧
  (∀ (src : CmdSrc) (inst : Nat) (s : State),
      inst < 4 →
      s.acts (.ptpGetInstance src inst) src 0x0612 = true →
      ∃ t, exec (.ptpGetInstance src inst) s = .next t ∧
        t.cmd.opcode = 0x0612 ∧ t.cmd.status = s.okStatus src 0x0612 ∧ t.cmd.result = packFrom 16 [.u 8 (s.ptp.insts.get inst).identity,
          .u 8 ((s.ptp.insts.get inst).parent.getD (s.ownSource inst)).clock, .u 8 ((s.ptp.insts.get inst).parent.getD (s.ownSource
          inst)).gm, .u 1 ((s.ptp.insts.get inst).parent.getD (s.ownSource inst)).clockClass, .u 2 (if (s.ptp.insts.get
          inst).parent.isSome then ((s.ptp.insts.get inst).parent.getD (s.ownSource inst)).steps + 1 else 0), .u 2 ((s.ptp.insts.get
          inst).slavePort.getD 0xFFFF), .i 8 (s.ptp.insts.get inst).lastO, .i 8 (s.ptp.insts.get inst).rttF, .raw 1 ((List.range 256).map
          fun n => BitVec.ofNat 8 (if (s.ptp.ports.get n).inst = inst then (s.ptp.ports.get n).state.code else 0))] ∧
        keepsBesideAnswer [] s t) ∧
  (∀ (src : CmdSrc) (clear : Bool) (port : Nat) (s : State),
      port < 256 →
      s.acts (.ptpGetPort src clear port) src 0x0613 = true →
      ∃ t, exec (.ptpGetPort src clear port) s = .next t ∧
        t.cmd.opcode = 0x0613 ∧ t.cmd.status = s.okStatus src 0x0613 ∧ t.cmd.result = packFrom 16 ([Fld.u 1 (s.ptp.ports.get
          port).state.code, Fld.i 8 (s.ptp.ports.get port).rttF, Fld.i 8 (s.asymOf port (s.ptp.ports.get port).rttF)] ++ (List.range
          16).map fun k => Fld.u 4 ((s.ptp.ports.get port).counts.get k)) ∧
        keepsBesideAnswer [.ptp] s t ∧ t.ptp = if clear then { s.ptp with ports := s.ptp.ports.upd port fun y => { y with counts := [] } }
          else s.ptp) ∧
  (∀ (src : CmdSrc) (mode : Nat) (domains : BitVec 256) (s : State),
      mode < 3 →
      s.acts (.ptpConfigureTc src mode domains) src 0x0614 = true →
      ∃ t, exec (.ptpConfigureTc src mode domains) s = .next t ∧
        t.cmd.opcode = 0x0614 ∧ t.cmd.status = s.okStatus src 0x0614 ∧ t.cmd.result = packFrom 16 [] ∧
        keepsBesideAnswer [.ptp] s t ∧ t.ptp = { s.ptp with pendCfg := s.ptp.pendCfg ++ [.ptpConfigureTc .direct mode domains] }) ∧
  (∀ (src : CmdSrc) (mode slot bandwidth : Nat) (maxSlew : Int) (stepThr lockThr : Nat) (ppsOffset : Int) (s : State),
      mode < 2 ∧ (if mode = 1 then 8 ≤ slot ∧ slot ≤ 30 else slot = 0) ∧ 1 ≤ bandwidth ∧ bandwidth ≤ 1000 ∧ 256 ≤ maxSlew ∧ maxSlew ≤
        100000 * 256 →
      (stepThr = 0 ∨ nsU ≤ stepThr ∧ stepThr ≤ secU) ∧ 656 ≤ lockThr ∧ lockThr ≤ 65536000000 ∧ ppsOffset.natAbs ≤ 500 * msU →
      s.acts (.servoConfigure src mode slot bandwidth maxSlew stepThr lockThr ppsOffset) src 0x0618 = true →
      ∃ t, exec (.servoConfigure src mode slot bandwidth maxSlew stepThr lockThr ppsOffset) s = .next t ∧
        t.cmd.opcode = 0x0618 ∧ t.cmd.status = s.okStatus src 0x0618 ∧ t.cmd.result = packFrom 16 [] ∧
        keepsBesideAnswer [.ptp] s t ∧ t.ptp =
          { s.ptp with pendCfg := s.ptp.pendCfg ++ [.servoConfigure .direct mode slot bandwidth maxSlew stepThr lockThr ppsOffset] }) ∧
  (∀ (src : CmdSrc) (s : State),
      s.acts (.servoGet src) src 0x0619 = true →
      ∃ t, exec (.servoGet src) s = .next t ∧
        t.cmd.opcode = 0x0619 ∧ t.cmd.status = s.okStatus src 0x0619 ∧ t.cmd.result = packFrom 16 [.u 1
          (match s.ptp.servo.state with | .noSource => 0 | .acquire => 1 | .track => 2 | .coast => 3), .u 2 (s.ptp.servo.source.getD
          0xFFFF), .i 8 s.ptp.servo.lastO, .i 8 s.ptp.servo.rateReq, .i 8 s.ptp.servo.lastStep, .u 1 (flag s.ptp.servo.lastStepOk 1), .u 4
          s.ptp.servo.ppsAmbiguous, .u 4 s.ptp.servo.delayDisagree] ∧
        keepsBesideAnswer [] s t) ∧
  (∀ (src : CmdSrc) (port mode : Nat) (c alpha : Int) (partner lambdaOut lambdaIn : Nat) (k : Int) (avg qLimit coast agree : Nat) (s :
    State),
      port < 256 ∧ mode = 0 ∧ c.natAbs ≤ 100 * nsU ∧ -(2 ^ 31) ≤ alpha ∧ alpha < 2 ^ 31 ∧ 66 ≤ agree ∧ agree ≤ 100 * nsU →
      partner = 0 ∧ lambdaOut = 0 ∧ lambdaIn = 0 ∧ k = 0 ∧ avg = 0 ∧ qLimit = 0 ∧ coast = 0 →
      s.acts (.asymConfigure src port mode c alpha partner lambdaOut lambdaIn k avg qLimit coast agree) src 0x0620 = true →
      ∃ t, exec (.asymConfigure src port mode c alpha partner lambdaOut lambdaIn k avg qLimit coast agree) s = .next t ∧
        t.cmd.opcode = 0x0620 ∧ t.cmd.status = s.okStatus src 0x0620 ∧ t.cmd.result = packFrom 16 [] ∧
        keepsBesideAnswer [.ptp] s t ∧ t.ptp =
          { s.ptp with pendCfg := s.ptp.pendCfg ++ [.asymConfigure .direct port mode c alpha partner lambdaOut lambdaIn k avg qLimit coast agree] })
          ∧
  (∀ (src : CmdSrc) (port mode : Nat) (c alpha : Int) (partner lambdaOut lambdaIn : Nat) (k : Int) (avg qLimit coast agree : Nat) (s :
    State),
      port < 256 ∧ mode = 1 ∧ c.natAbs ≤ 100 * nsU ∧ -(2 ^ 31) ≤ alpha ∧ alpha < 2 ^ 31 ∧ 66 ≤ agree ∧ agree ≤ 100 * nsU →
      partner < 256 ∧ 1260000 ≤ lambdaOut ∧ lambdaOut ≤ 1675000 ∧ 1260000 ≤ lambdaIn ∧ lambdaIn ≤ 1675000 ∧ k.natAbs ≤ 100 * nsU ∧ 1 ≤
        qLimit ∧ qLimit ≤ 100000 →
      secU ≤ avg ∧ avg ≤ 3600 * secU ∧ secU ≤ coast ∧ coast ≤ 86400 * secU →
      (s.pairable port partner = true ∧ ((s.asymAhead partner).1 = true → (s.asymAhead partner).2.1 = port ∧ 2000 ≤ (((lambdaOut : Int) +
        lambdaIn) - (((s.asymAhead partner).2.2.1 : Int) + (s.asymAhead partner).2.2.2)).natAbs)) →
      s.acts (.asymConfigure src port mode c alpha partner lambdaOut lambdaIn k avg qLimit coast agree) src 0x0620 = true →
      ∃ t, exec (.asymConfigure src port mode c alpha partner lambdaOut lambdaIn k avg qLimit coast agree) s = .next t ∧
        t.cmd.opcode = 0x0620 ∧ t.cmd.status = s.okStatus src 0x0620 ∧ t.cmd.result = packFrom 16 [] ∧
        keepsBesideAnswer [.ptp] s t ∧ t.ptp =
          { s.ptp with pendCfg := s.ptp.pendCfg ++ [.asymConfigure .direct port mode c alpha partner lambdaOut lambdaIn k avg qLimit coast agree] })
          ∧
  (∀ (src : CmdSrc) (port mode : Nat) (c alpha : Int) (partner lambdaOut lambdaIn : Nat) (k : Int) (avg qLimit coast agree : Nat) (s :
    State),
      port < 256 ∧ mode = 1 ∧ c.natAbs ≤ 100 * nsU ∧ -(2 ^ 31) ≤ alpha ∧ alpha < 2 ^ 31 ∧ 66 ≤ agree ∧ agree ≤ 100 * nsU →
      partner < 256 ∧ 1260000 ≤ lambdaOut ∧ lambdaOut ≤ 1675000 ∧ 1260000 ≤ lambdaIn ∧ lambdaIn ≤ 1675000 ∧ k.natAbs ≤ 100 * nsU ∧ 1 ≤
        qLimit ∧ qLimit ≤ 100000 →
      secU ≤ avg ∧ avg ≤ 3600 * secU ∧ secU ≤ coast ∧ coast ≤ 86400 * secU →
      (s.pairable port partner = false ∧ ((s.asymAhead partner).1 = true → (s.asymAhead partner).2.1 ≠ port)) →
      s.acts (.asymConfigure src port mode c alpha partner lambdaOut lambdaIn k avg qLimit coast agree) src 0x0620 = true →
      ∃ t, exec (.asymConfigure src port mode c alpha partner lambdaOut lambdaIn k avg qLimit coast agree) s = .next t ∧
        t.cmd.opcode = 0x0620 ∧ t.cmd.status = stBadState ∧ t.cmd.result = packFrom 16 [] ∧
        keepsBesideAnswer [] s t) ∧
  (∀ (src : CmdSrc) (port : Nat) (s : State),
      port < 256 →
      s.acts (.asymGet src port) src 0x0621 = true →
      ∃ t, exec (.asymGet src port) s = .next t ∧
        t.cmd.opcode = 0x0621 ∧ t.cmd.status = s.okStatus src 0x0621 ∧ t.cmd.result = packFrom 16 [.u 1 (if (s.ptp.asym.get port).dual
          then (if (s.ptp.asym.get port).fallback then 2 else 1) else 0), .i 8 (s.asymOf port (s.pairRtt port)), .i 8 (s.ptp.asym.get
          port).qF, .u 4 (s.ptp.asym.get port).qs.length, .u 4 (s.ptp.asym.get port).discards, .u 8 (cyclesU (s.now - (s.ptp.asym.get
          port).lastAccept : Nat)).toNat] ∧
        keepsBesideAnswer [] s t)

/-- The REF commands enter reference configurations for the next boundary, steer the DPLL and answer its registers. Where it acts and its
operands lie in their ranges, in a state that allows it, each configuring command completes at once and stands whole at the end of the
configurations that wait for the next processing boundary. REF_STEER opens a steering session from the present root offset, sets its goal
and renews its timeout, or begins its end; out of a session the last two are ST_BAD_STATE. The reading commands answer the slot, the DPLL
and the clock output. (R151, R160, R166, R171, R172, R174, R177) -/
def Obligations.ReferenceCommands : Prop :=
  (∀ (src : CmdSrc) (enable override esmc : Bool) (slot fNum fDen div edge source prio level : Nat) (acceptLim rejectLim : Int)
    (rejectHold acceptHold hitLim hitBudget coastLim : Nat) (s : State),
      slot < 31 ∧ (slotSourceOk slot fNum fDen div edge source).all id = true ∧ 1 ≤ prio ∧ prio ≤ 255 ∧ level < 16 →
      ((slot = 28 ∨ slot = 29 ∨ slot = 30) → fNum = 0 ∧ fDen = 0 ∧ div = 0 ∧ edge = 0 ∧ source = 0) →
      256 ≤ acceptLim ∧ acceptLim ≤ 49999 * 256 ∧ acceptLim < rejectLim ∧ 512 ≤ rejectLim ∧ rejectLim ≤ 50000 * 256 ∧ msU ≤ rejectHold ∧
        rejectHold ≤ 10 * secU →
      secU ≤ acceptHold ∧ acceptHold ≤ 3600 * secU ∧ 6554 ≤ hitLim ∧ hitLim ≤ 1000 * nsU ∧ 1 ≤ hitBudget ∧ hitBudget ≤ 255 ∧ secU ≤
        coastLim ∧ coastLim ≤ 600 * secU →
      (esmc = true → 8 ≤ slot ∧ slot < 24 ∧ (s.ports.get source).isSelvedge = false) →
      (8 ≤ slot ∧ slot < 24 → (s.ports.get source).width = 1 ∧ (enable = true → s.portUp source = true)) →
      s.ref.selected ≠ some slot →
      s.acts (.refConfigureSlot src enable override esmc slot fNum fDen div edge source prio level acceptLim rejectLim rejectHold
        acceptHold hitLim hitBudget coastLim) src 0x0701 = true →
      ∃ t, exec (.refConfigureSlot src enable override esmc slot fNum fDen div edge source prio level acceptLim rejectLim rejectHold
        acceptHold hitLim hitBudget coastLim) s = .next t ∧
        t.cmd.opcode = 0x0701 ∧ t.cmd.status = s.okStatus src 0x0701 ∧ t.cmd.result = packFrom 16 [] ∧
        keepsBesideAnswer [.ref] s t ∧ t.ref =
          { s.ref with pendingCfg := s.ref.pendingCfg ++ [.refConfigureSlot .direct enable override esmc slot (if slot < 8 then fNum else (s.ref.slots.get slot).fNum) (if slot < 8 then fDen else (s.ref.slots.get slot).fDen) (if slot < 8 then div else (s.ref.slots.get slot).div) edge source prio level acceptLim rejectLim rejectHold acceptHold hitLim hitBudget coastLim] })
          ∧
  (∀ (src : CmdSrc) (enable override esmc : Bool) (slot fNum fDen div edge source prio level : Nat) (acceptLim rejectLim : Int)
    (rejectHold acceptHold hitLim hitBudget coastLim : Nat) (s : State),
      (slotSourceOk slot fNum fDen div edge source).all id = true ∧ 1 ≤ prio ∧ prio ≤ 255 ∧ level < 16 ∧ 8 ≤ slot ∧ slot < 24 ∧ esmc =
        false →
      256 ≤ acceptLim ∧ acceptLim ≤ 49999 * 256 ∧ acceptLim < rejectLim ∧ 512 ≤ rejectLim ∧ rejectLim ≤ 50000 * 256 ∧ msU ≤ rejectHold ∧
        rejectHold ≤ 10 * secU →
      secU ≤ acceptHold ∧ acceptHold ≤ 3600 * secU ∧ 6554 ≤ hitLim ∧ hitLim ≤ 1000 * nsU ∧ 1 ≤ hitBudget ∧ hitBudget ≤ 255 ∧ secU ≤
        coastLim ∧ coastLim ≤ 600 * secU →
      (s.ports.get source).width ≠ 1 ∨ s.ref.selected = some slot ∧ (s.ref.slots.get slot).src ≠ source ∨ enable = true ∧ (s.ref.slots.get
        slot).enable = false ∧ s.portUp source = false →
      s.acts (.refConfigureSlot src enable override esmc slot fNum fDen div edge source prio level acceptLim rejectLim rejectHold
        acceptHold hitLim hitBudget coastLim) src 0x0701 = true →
      ∃ t, exec (.refConfigureSlot src enable override esmc slot fNum fDen div edge source prio level acceptLim rejectLim rejectHold
        acceptHold hitLim hitBudget coastLim) s = .next t ∧
        t.cmd.opcode = 0x0701 ∧ t.cmd.status = stBadState ∧ t.cmd.result = packFrom 16 [] ∧
        keepsBesideAnswer [] s t) ∧
  (∀ (src : CmdSrc) (qlMode revert wtr : Nat) (tieLimit : Int) (tieHold freeLevel avgTime guardTime inSpec : Nat) (s : State),
      qlMode < 2 ∧ revert < 2 ∧ wtr ≤ 720 * secU ∧ 26 ≤ tieLimit ∧ tieLimit ≤ 10000 * 256 ∧ 100 * msU ≤ tieHold ∧ tieHold ≤ 60 * secU ∧ 3
        ≤ freeLevel ∧ freeLevel ≤ 14 →
      secU ≤ avgTime ∧ avgTime ≤ 10000 * secU ∧ guardTime ≤ 600 * secU ∧ inSpec ≤ 86400 * secU →
      s.acts (.refConfigureSelection src qlMode revert wtr tieLimit tieHold freeLevel avgTime guardTime inSpec) src 0x0702 = true →
      ∃ t, exec (.refConfigureSelection src qlMode revert wtr tieLimit tieHold freeLevel avgTime guardTime inSpec) s = .next t ∧
        t.cmd.opcode = 0x0702 ∧ t.cmd.status = s.okStatus src 0x0702 ∧ t.cmd.result = packFrom 16 [] ∧
        keepsBesideAnswer [.ref] s t ∧ t.ref =
          { s.ref with pendingCfg := s.ref.pendingCfg ++ [.refConfigureSelection .direct qlMode revert wtr tieLimit tieHold freeLevel avgTime guardTime inSpec] })
          ∧
  (∀ (src : CmdSrc) (trackBw acqBw : Nat) (slope : Int) (lockThr lossThr : Nat) (s : State),
      1 ≤ trackBw ∧ trackBw ≤ acqBw ∧ acqBw ≤ 100000 ∧ 256 ≤ slope ∧ slope ≤ 10000 * 256 ∧ 656 ≤ lockThr ∧ lockThr ≤ 1000 * nsU ∧ nsU ≤
        lossThr ∧ lossThr ≤ 100000 * nsU ∧ lockThr < lossThr →
      s.acts (.refConfigureDpll src trackBw acqBw slope lockThr lossThr) src 0x0703 = true →
      ∃ t, exec (.refConfigureDpll src trackBw acqBw slope lockThr lossThr) s = .next t ∧
        t.cmd.opcode = 0x0703 ∧ t.cmd.status = s.okStatus src 0x0703 ∧ t.cmd.result = packFrom 16 [] ∧
        keepsBesideAnswer [.ref] s t ∧ t.ref =
          { s.ref with pendingCfg := s.ref.pendingCfg ++ [.refConfigureDpll .direct trackBw acqBw slope lockThr lossThr] }) ∧
  (∀ (src : CmdSrc) (slot action : Nat) (s : State),
      slot < 31 ∧ action < 4 ∧ (s.ref.slots.get slot).state ≠ .disabled →
      s.acts (.refCommand src slot action) src 0x0704 = true →
      ∃ t, exec (.refCommand src slot action) s = .next t ∧
        t.cmd.opcode = 0x0704 ∧ t.cmd.status = s.okStatus src 0x0704 ∧ t.cmd.result = packFrom 16 [] ∧
        keepsBesideAnswer [.ref] s t ∧ t.ref = { s.ref with pendingCfg := s.ref.pendingCfg ++ [.refCommand .direct slot action] }) ∧
  (∀ (src : CmdSrc) (slot : Nat) (y : RefSlot) (s : State),
      slot < 31 ∧ y = s.ref.slots.get slot →
      s.acts (.refGetSlot src slot) src 0x0705 = true →
      ∃ t, exec (.refGetSlot src slot) s = .next t ∧
        t.cmd.opcode = 0x0705 ∧ t.cmd.status = s.okStatus src 0x0705 ∧ t.cmd.result = packFrom 16 [.u 1 y.state.code, .u 1 (flag y.force_
          1 + flag y.lockout 2 + flag y.overrideLevel 4), .u 1 y.cause, .u 2 y.level, .u 2 y.hops, .i 8 y.yr, .i 8 (y.yr + q48ToPpb
          (s.ref.rootOff - (if s.ref.estValid then s.ref.holdEst else 0))), .i 8 y.phi, .i 8 y.buildout, .u 4 y.hitCount, .u 4
          y.extraPulse, .u 4 y.pulseWidth, .u 4 y.qlUnknown, .u 8 ((s.now - y.since) / msC)] ∧
        keepsBesideAnswer [] s t) ∧
  (∀ (src : CmdSrc) (s : State),
      s.acts (.refGetDpll src) src 0x0706 = true →
      ∃ t, exec (.refGetDpll src) s = .next t ∧
        t.cmd.opcode = 0x0706 ∧ t.cmd.status = s.okStatus src 0x0706 ∧ t.cmd.result = packFrom 16 [.u 1 s.ref.state.code, .u 1 (flag
          s.ref.xoLoss 1), .u 2 (s.ref.selected.getD 0xFFFF), .u 2 s.ref.level, .u 2 s.ref.hops, .i 8 s.ref.errPhase, .i 8 s.ref.rootOff,
          .i 8 s.ref.holdEst, .u 8 (cyclesU s.ref.span).toNat, .u 1 (flag s.ref.estShort 1), .u 4 s.ref.bwUse, .u 1 (flag s.ref.bwLimited
          1), .u 8 ((s.now - s.ref.since) / msC)] ∧
        keepsBesideAnswer [] s t) ∧
  (∀ (src : CmdSrc) (action : Nat) (value : Int) (timeout level : Nat) (s : State),
      (action = 0 ∧ value = 0 ∧ 10 * msU ≤ timeout ∧ timeout ≤ 60 * secU ∧ 3 ≤ level ∧ level ≤ 14 ∧ (s.ref.state = .holdover →
        s.ref.xoLoss = false)) →
      s.acts (.refSteer src action value timeout level) src 0x0707 = true →
      ∃ t, exec (.refSteer src action value timeout level) s = .next t ∧
        t.cmd.opcode = 0x0707 ∧ t.cmd.status = s.okStatus src 0x0707 ∧ t.cmd.result = packFrom 16 [] ∧
        keepsBesideAnswer [.ref] s t ∧ t.ref.state = .steered ∧ t.ref.rootGoal = s.ref.rootOff ∧ t.ref.steerLevel = level ∧
          t.ref.steerTimeout = timeout ∧ t.ref.steerEnd = some (s.now + cyclesOf timeout) ∧ t.ref.closing = false) ∧
  (∀ (src : CmdSrc) (action : Nat) (value : Int) (timeout level : Nat) (s : State),
      action = 1 ∧ value.natAbs ≤ 14073748835 ∧ timeout = 0 ∧ level = 0 ∧ s.ref.state = .steered →
      s.acts (.refSteer src action value timeout level) src 0x0707 = true →
      ∃ t, exec (.refSteer src action value timeout level) s = .next t ∧
        t.cmd.opcode = 0x0707 ∧ t.cmd.status = s.okStatus src 0x0707 ∧ t.cmd.result = packFrom 16 [] ∧
        keepsBesideAnswer [.ref] s t ∧ t.ref =
          { s.ref with rootGoal := value, steerEnd := if s.ref.closing then none else some (s.now + cyclesOf s.ref.steerTimeout) }) ∧
  (∀ (src : CmdSrc) (action : Nat) (value : Int) (timeout level : Nat) (s : State),
      action = 2 ∧ value = 0 ∧ timeout = 0 ∧ level = 0 ∧ s.ref.state = .steered →
      s.acts (.refSteer src action value timeout level) src 0x0707 = true →
      ∃ t, exec (.refSteer src action value timeout level) s = .next t ∧
        t.cmd.opcode = 0x0707 ∧ t.cmd.status = s.okStatus src 0x0707 ∧ t.cmd.result = packFrom 16 [] ∧
        keepsBesideAnswer [.ref] s t ∧ t.ref = { s.ref with closing := true, steerEnd := none }) ∧
  (∀ (src : CmdSrc) (action : Nat) (value : Int) (timeout level : Nat) (s : State),
      action = 1 ∧ value.natAbs ≤ 14073748835 ∧ timeout = 0 ∧ level = 0 ∧ s.ref.state ≠ .steered →
      s.acts (.refSteer src action value timeout level) src 0x0707 = true →
      ∃ t, exec (.refSteer src action value timeout level) s = .next t ∧
        t.cmd.opcode = 0x0707 ∧ t.cmd.status = stBadState ∧ t.cmd.result = packFrom 16 [] ∧
        keepsBesideAnswer [] s t) ∧
  (∀ (src : CmdSrc) (enable : Bool) (output : Nat) (offset : Int) (width slew squelch : Nat) (s : State),
      output < 2 ∧ offset.natAbs ≤ 500 * msU ∧ usU ≤ width ∧ width ≤ 500 * msU ∧ 6554 ≤ slew ∧ slew ≤ 10 * usU ∧ squelch < 16 →
      s.acts (.refConfigurePpsOut src enable output offset width slew squelch) src 0x0708 = true →
      ∃ t, exec (.refConfigurePpsOut src enable output offset width slew squelch) s = .next t ∧
        t.cmd.opcode = 0x0708 ∧ t.cmd.status = s.okStatus src 0x0708 ∧ t.cmd.result = packFrom 16 [] ∧
        keepsBesideAnswer [.ref] s t ∧ t.ref =
          { s.ref with pendingCfg := s.ref.pendingCfg ++ [.refConfigurePpsOut .direct enable output offset width slew squelch] }) ∧
  (∀ (src : CmdSrc) (enable : Bool) (output fNum fDen mode : Nat) (offset : Int) (slew swing squelch : Nat) (s : State),
      output < 4 ∧ 1000000 ≤ fNum ∧ fNum ≤ 750000000 ∧ 1 ≤ fDen ∧ fDen ≤ 65535 ∧ 1000000 * fDen ≤ fNum ∧ mode < 2 ∧ swing < 3 ∧ squelch <
        16 →
      (if mode = 1 then fDen = 1 ∧ offset.natAbs ≤ 500 * msU ∧ 6554 ≤ slew ∧ slew ≤ 10 * usU else offset = 0 ∧ slew = 0) →
      s.acts (.refConfigureClkout src enable output fNum fDen mode offset slew swing squelch) src 0x0709 = true →
      ∃ t, exec (.refConfigureClkout src enable output fNum fDen mode offset slew swing squelch) s = .next t ∧
        t.cmd.opcode = 0x0709 ∧ t.cmd.status = s.okStatus src 0x0709 ∧ t.cmd.result = packFrom 16 [] ∧
        keepsBesideAnswer [.ref] s t ∧ t.ref =
          { s.ref with pendingCfg := s.ref.pendingCfg ++ [.refConfigureClkout .direct enable output fNum fDen mode offset (if mode = 1 then slew else (s.ref.clk.get output).slew) swing squelch] })
          ∧
  (∀ (src : CmdSrc) (output : Nat) (y : ClkOut) (s : State),
      output < 4 ∧ y = s.ref.clk.get output →
      s.acts (.refGetClkout src output) src 0x070A = true →
      ∃ t, exec (.refGetClkout src output) s = .next t ∧
        t.cmd.opcode = 0x070A ∧ t.cmd.status = s.okStatus src 0x070A ∧ t.cmd.result = packFrom 16 [.u 1 (flag y.enable 1), .u 1 (flag
          y.ktime 1), .u 4 y.fNum, .u 4 y.fDen, .u 8 y.ftw, .u 1 (if y.enable = false then 0 else if y.squelched then 3 else if (if
          y.ktime then y.left s.now else 0) ≠ 0 then 2 else 1), .i 8 (if y.ktime then y.left s.now else 0), .u 8 ((s.now - y.since) /
          msC)] ∧
        keepsBesideAnswer [] s t)

/-- The TDC commands configure event channels, groups, intervals, the lane window and a tap, and answer a channel or a lane. Where it acts
and its operands lie in their ranges: TDC_CONFIGURE_EVT sets a channel; while its group's gate is open it may not be enabled nor change its
edge or prescaler (ST_BAD_STATE). TDC_CONFIGURE_GROUP sets a group whose gate is closed (else ST_BAD_STATE), and opens it at the present
TICK in the CONTINUOUS mode; TDC_SET_INTERVAL sets an interval engine; the lane window is taken at its next boundary; TDC_CAPTURE_TAP starts
a tap while fewer than eight run (else ST_BUSY), or ends one that runs (else ST_BAD_STATE); the reading commands answer, and FLAG starts the
channel's counts anew. (R101, R116, R120, R121, R122, R123, R124) -/
def Obligations.TdcCommands : Prop :=
  (∀ (src : CmdSrc) (enable regression : Bool) (channel edge hyst holdoff prescaler ring : Nat) (offset : Int) (rateLimit silence : Nat)
    (y : TdcChan) (s : State),
      280 ≤ channel ∧ channel < 312 ∧ (edge < 2 ∨ edge = 2 ∧ prescaler ≤ 1 ∧ regression = false) ∧ hyst < 4 ∧ holdoff < 16 ∧ 1 ≤ prescaler
        ∧ prescaler ≤ 65536 ∧ ring ≤ 8 →
      -(100 * nsU : Int) ≤ offset ∧ offset ≤ 100 * nsU ∧ rateLimit ≤ 312 ∧ (silence = 0 ∨ usU ≤ silence ∧ silence ≤ 100 * secU) →
      (((s.tdc.groups.get (groupOf channel)).open_ = true → (s.tdc.chans.get channel).sameSettings y = true ∧ (enable = true →
        (s.tdc.chans.get channel).enable = true)) ∧ ((s.tdc.chans.get channel).enable = true → enable = true)) →
      y =
        { s.tdc.chans.get channel with enable := enable, edge := edge, hyst := hyst, holdoff := holdoff, prescaler := prescaler, ring := if ring < 8 then some ring else none, regression := regression, offset := offset, rateLimit := rateLimit, silence := silence }
        →
      s.acts (.tdcConfigureEvt src enable regression channel edge hyst holdoff prescaler ring offset rateLimit silence) src 0x0801 = true
        →
      ∃ t, exec (.tdcConfigureEvt src enable regression channel edge hyst holdoff prescaler ring offset rateLimit silence) s = .next t ∧
        t.cmd.opcode = 0x0801 ∧ t.cmd.status = s.okStatus src 0x0801 ∧ t.cmd.result = packFrom 16 [] ∧
        keepsBesideAnswer [.tdc] s t ∧ t.tdc = { s.tdc with chans := s.tdc.chans.set channel y }) ∧
  (∀ (src : CmdSrc) (enable regression : Bool) (channel edge hyst holdoff prescaler ring : Nat) (offset : Int) (rateLimit silence : Nat)
    (s : State),
      280 ≤ channel ∧ channel < 312 ∧ (edge < 2 ∨ edge = 2 ∧ prescaler ≤ 1 ∧ regression = false) ∧ hyst < 4 ∧ holdoff < 16 ∧ 1 ≤ prescaler
        ∧ prescaler ≤ 65536 ∧ ring ≤ 8 →
      -(100 * nsU : Int) ≤ offset ∧ offset ≤ 100 * nsU ∧ rateLimit ≤ 312 ∧ (silence = 0 ∨ usU ≤ silence ∧ silence ≤ 100 * secU) →
      (s.tdc.groups.get (groupOf channel)).open_ = false ∧ (s.tdc.chans.get channel).enable = true ∧ enable = false →
      s.acts (.tdcConfigureEvt src enable regression channel edge hyst holdoff prescaler ring offset rateLimit silence) src 0x0801 = true
        →
      ∃ t, exec (.tdcConfigureEvt src enable regression channel edge hyst holdoff prescaler ring offset rateLimit silence) s = .next t ∧
        t.cmd.opcode = 0x0801 ∧ t.cmd.status = s.okStatus src 0x0801 ∧ t.cmd.result = packFrom 16 [] ∧
        keepsBesideAnswer [.tdc, .gauge] s t ∧ (t.tdc.chans.get channel).enable = false ∧ (t.tdc.chans.get channel).edge = edge ∧
          (t.tdc.chans.get channel).prescaler = prescaler) ∧
  (∀ (src : CmdSrc) (enable regression : Bool) (channel edge hyst holdoff prescaler ring : Nat) (offset : Int) (rateLimit silence : Nat)
    (s : State),
      280 ≤ channel ∧ channel < 312 ∧ (edge < 2 ∨ edge = 2 ∧ prescaler ≤ 1 ∧ regression = false) ∧ hyst < 4 ∧ holdoff < 16 ∧ 1 ≤ prescaler
        ∧ prescaler ≤ 65536 ∧ ring ≤ 8 →
      -(100 * nsU : Int) ≤ offset ∧ offset ≤ 100 * nsU ∧ rateLimit ≤ 312 ∧ (silence = 0 ∨ usU ≤ silence ∧ silence ≤ 100 * secU) →
      (s.tdc.groups.get (groupOf channel)).open_ = true ∧ (enable = true ∧ (s.tdc.chans.get channel).enable = false ∨ edge ≠
        (s.tdc.chans.get channel).edge ∨ prescaler ≠ (s.tdc.chans.get channel).prescaler) →
      s.acts (.tdcConfigureEvt src enable regression channel edge hyst holdoff prescaler ring offset rateLimit silence) src 0x0801 = true
        →
      ∃ t, exec (.tdcConfigureEvt src enable regression channel edge hyst holdoff prescaler ring offset rateLimit silence) s = .next t ∧
        t.cmd.opcode = 0x0801 ∧ t.cmd.status = stBadState ∧ t.cmd.result = packFrom 16 [] ∧
        keepsBesideAnswer [] s t) ∧
  (∀ (src : CmdSrc) (group mode level pulse maxLen : Nat) (s : State),
      group < 4 ∧ mode < 3 ∧ level < 2 ∧ usU ≤ pulse ∧ pulse ≤ 1000 * secU ∧ usU ≤ maxLen ∧ maxLen ≤ 1000 * secU ∧ (s.tdc.groups.get
        group).open_ = false →
      s.acts (.tdcConfigureGroup src group mode level pulse maxLen) src 0x0802 = true →
      ∃ t, exec (.tdcConfigureGroup src group mode level pulse maxLen) s = .next t ∧
        t.cmd.opcode = 0x0802 ∧ t.cmd.status = s.okStatus src 0x0802 ∧ t.cmd.result = packFrom 16 [] ∧
        keepsBesideAnswer [.tdc] s t ∧ t.tdc =
          { s.tdc with groups := s.tdc.groups.upd group fun x => { x with mode := mode, activeLow := decide (level = 1), pulseLen := pulse, maxLen := maxLen } })
          ∧
  (∀ (src : CmdSrc) (group mode level pulse maxLen : Nat) (s : State),
      group < 4 ∧ mode = 3 ∧ level < 2 ∧ usU ≤ pulse ∧ pulse ≤ maxLen ∧ maxLen ≤ 1000 * secU ∧ (s.tdc.groups.get group).open_ = false →
      s.acts (.tdcConfigureGroup src group mode level pulse maxLen) src 0x0802 = true →
      ∃ t, exec (.tdcConfigureGroup src group mode level pulse maxLen) s = .next t ∧
        t.cmd.opcode = 0x0802 ∧ t.cmd.status = s.okStatus src 0x0802 ∧ t.cmd.result = packFrom 16 [] ∧
        keepsBesideAnswer [.tdc, .gauge, .stitch] s t ∧ (t.tdc.groups.get group).open_ = true ∧ (t.tdc.groups.get group).mode = 3 ∧
          (t.tdc.groups.get group).openTick = s.tick ∧ (t.tdc.groups.get group).pulseEnd = some (s.tick + cyclesOf pulse) ∧
          (t.tdc.groups.get group).maxEnd = some (s.tick + cyclesOf maxLen)) ∧
  (∀ (src : CmdSrc) (group mode level pulse maxLen : Nat) (s : State),
      (group < 4 ∧ mode < 4 ∧ level < 2 ∧ usU ≤ pulse ∧ pulse ≤ 1000 * secU ∧ (mode = 3 → pulse ≤ maxLen) ∧ usU ≤ maxLen ∧ maxLen ≤ 1000 *
        secU ∧ (s.tdc.groups.get group).open_ = true) →
      s.acts (.tdcConfigureGroup src group mode level pulse maxLen) src 0x0802 = true →
      ∃ t, exec (.tdcConfigureGroup src group mode level pulse maxLen) s = .next t ∧
        t.cmd.opcode = 0x0802 ∧ t.cmd.status = stBadState ∧ t.cmd.result = packFrom 16 [] ∧
        keepsBesideAnswer [] s t) ∧
  (∀ (src : CmdSrc) (enable : Bool) (engine start stop window ring : Nat) (s : State),
      engine < 32 ∧ intervalChan start = true ∧ intervalChan stop = true ∧ start ≠ stop ∧ 1 ≤ (gridCycles window).getD 0 ∧ (gridCycles
        window).getD 0 ≤ 1250000 ∧ ring < 8 →
      (s.tdc.intervals.get engine).enable = false →
      s.acts (.tdcSetInterval src enable engine start stop window ring) src 0x0803 = true →
      ∃ t, exec (.tdcSetInterval src enable engine start stop window ring) s = .next t ∧
        t.cmd.opcode = 0x0803 ∧ t.cmd.status = s.okStatus src 0x0803 ∧ t.cmd.result = packFrom 16 [] ∧
        keepsBesideAnswer [.tdc] s t ∧ t.tdc =
          { s.tdc with intervals := s.tdc.intervals.set engine { enable := enable, start := start, stop := stop, window := (gridCycles window).getD 0, ring := ring } })
          ∧
  (∀ (src : CmdSrc) (enable : Bool) (engine start stop window ring : Nat) (s : State),
      engine < 32 ∧ intervalChan start = true ∧ intervalChan stop = true ∧ start ≠ stop ∧ 1 ≤ (gridCycles window).getD 0 ∧ (gridCycles
        window).getD 0 ≤ 1250000 ∧ ring < 8 →
      (s.tdc.intervals.get engine).enable = true →
      s.acts (.tdcSetInterval src enable engine start stop window ring) src 0x0803 = true →
      ∃ t, exec (.tdcSetInterval src enable engine start stop window ring) s = .next t ∧
        t.cmd.opcode = 0x0803 ∧ t.cmd.status = s.okStatus src 0x0803 ∧ t.cmd.result = packFrom 16 [] ∧
        keepsBesideAnswer [.tdc] s t ∧ t.tdc.intervals.get engine =
          { enable := enable, start := start, stop := stop, window := (gridCycles window).getD 0, ring := ring }) ∧
  (∀ (src : CmdSrc) (clear : Bool) (channel : Nat) (y : TdcChan) (s : State),
      channel < 320 ∧ y = s.tdc.chans.get channel →
      s.acts (.tdcGetChannel src clear channel) src 0x0804 = true →
      ∃ t, exec (.tdcGetChannel src clear channel) s = .next t ∧
        t.cmd.opcode = 0x0804 ∧ t.cmd.status = s.okStatus src 0x0804 ∧ t.cmd.result = packFrom 16 [.u 1 (if s.armed channel then 1 else
          0), .u 1 (if y.inputOpen then 1 else 0), .u 4 y.hits, .u 4 y.blanked, .u 4 y.lost, .u 4 y.rateExceeded, .u 4 y.gateIgnored, .u 8
          y.lastStamp.tick, .u 4 y.lastStamp.sub] ∧
        keepsBesideAnswer [.tdc] s t ∧ t.tdc = if clear then
          { s.tdc with chans := s.tdc.chans.set channel { y with hits := 0, blanked := 0, lost := 0, rateExceeded := 0, gateIgnored := 0 } }
          else s.tdc) ∧
  (∀ (src : CmdSrc) (lane : Nat) (y : TdcChan) (s : State),
      lane < 264 ∧ y = s.tdc.chans.get lane →
      s.acts (.tdcGetLane src lane) src 0x0805 = true →
      ∃ t, exec (.tdcGetLane src lane) s = .next t ∧
        t.cmd.opcode = 0x0805 ∧ t.cmd.status = s.okStatus src 0x0805 ∧ t.cmd.result = packFrom 16 [.u 8 (y.fitTick / 2 ^ 32), .u 4
          (y.fitTick % 2 ^ 32), .u 8 y.period, .i 4 y.yOff, .u 4 y.nStamps, .u 4 y.resid, .u 1 (if y.valid then 1 else 0), .u 1 (if
          y.staleWin then 1 else 0), .u 4 (s.laneAge lane)] ∧
        keepsBesideAnswer [] s t) ∧
  (∀ (src : CmdSrc) (w : Nat) (s : State),
      w < 8 →
      s.acts (.tdcSetLaneWindow src w) src 0x0806 = true →
      ∃ t, exec (.tdcSetLaneWindow src w) s = .next t ∧
        t.cmd.opcode = 0x0806 ∧ t.cmd.status = s.okStatus src 0x0806 ∧ t.cmd.result = packFrom 16 [] ∧
        keepsBesideAnswer [.tdc] s t ∧ t.tdc = { s.tdc with laneWinNext := if w = s.tdc.laneWin then none else some w }) ∧
  (∀ (src : CmdSrc) (lane action ring d : Nat) (s : State),
      lane < 264 ∧ action = 0 ∧ ring < 8 ∧ 1 ≤ d ∧ d ≤ 65536 →
      (s.tdc.chans.filter fun q => q.2.capturing).length < 8 →
      s.acts (.tdcCaptureTap src lane action ring d) src 0x0807 = true →
      ∃ t, exec (.tdcCaptureTap src lane action ring d) s = .next t ∧
        t.cmd.opcode = 0x0807 ∧ t.cmd.status = s.okStatus src 0x0807 ∧ t.cmd.result = packFrom 16 [] ∧
        keepsBesideAnswer [.tdc] s t ∧ t.tdc =
          { s.tdc with chans := s.tdc.chans.upd lane fun x => { x with capRing := some ring, capturing := true, capD := d, capCount := 0 } })
          ∧
  (∀ (src : CmdSrc) (lane action ring d : Nat) (s : State),
      lane < 264 ∧ action = 0 ∧ ring < 8 ∧ 1 ≤ d ∧ d ≤ 65536 →
      8 ≤ (s.tdc.chans.filter fun q => q.2.capturing).length →
      s.acts (.tdcCaptureTap src lane action ring d) src 0x0807 = true →
      ∃ t, exec (.tdcCaptureTap src lane action ring d) s = .next t ∧
        t.cmd.opcode = 0x0807 ∧ t.cmd.status = stBusy ∧ t.cmd.result = packFrom 16 [] ∧
        keepsBesideAnswer [] s t) ∧
  (∀ (src : CmdSrc) (lane action ring d : Nat) (s : State),
      lane < 264 ∧ action = 1 ∧ ring = 0 ∧ d = 0 ∧ (s.tdc.chans.get lane).capturing = true →
      s.acts (.tdcCaptureTap src lane action ring d) src 0x0807 = true →
      ∃ t, exec (.tdcCaptureTap src lane action ring d) s = .next t ∧
        t.cmd.opcode = 0x0807 ∧ t.cmd.status = s.okStatus src 0x0807 ∧ t.cmd.result = packFrom 16 [] ∧
        keepsBesideAnswer [.tdc] s t ∧ t.tdc = { s.tdc with chans := s.tdc.chans.upd lane fun x => { x with capturing := false } }) ∧
  (∀ (src : CmdSrc) (lane action ring d : Nat) (s : State),
      lane < 264 ∧ action = 1 ∧ ring = 0 ∧ d = 0 ∧ (s.tdc.chans.get lane).capturing = false →
      s.acts (.tdcCaptureTap src lane action ring d) src 0x0807 = true →
      ∃ t, exec (.tdcCaptureTap src lane action ring d) s = .next t ∧
        t.cmd.opcode = 0x0807 ∧ t.cmd.status = stBadState ∧ t.cmd.result = packFrom 16 [] ∧
        keepsBesideAnswer [] s t)

/-- The GAUGE commands configure the gauge, start runs and full calibrations, report, restore and hold. Where it acts and its operands lie
in their ranges: GAUGE_CONFIGURE sets the gauge unless it changes the source of a running region; GAUGE_RUN queues a run of every region
named that is IDLE, unless one of them is OFF or FULL (ST_BAD_STATE); GAUGE_FULL with FORCE sends a region that is neither OFF nor FULL to
FULL, and leaves one that is FULL; GAUGE_GET_STATUS answers a region (the hits so far of an injected run are a free value, log entry 54);
GAUGE_RESTORE in mode 0 takes the staged codes as the new centres and queues a run, in mode 1 takes the staged settings and sends the region
to FULL; GAUGE_HOLD holds runs for a time or ends the hold. (R129, R137, R138, R147, R148) -/
def Obligations.GaugeCommands : Prop :=
  (∀ (src : CmdSrc) (trigger : Int) (minInterval target runTimeout retry periodic source18 source19 : Nat) (s : State),
      4 ≤ trigger ∧ trigger ≤ 160 ∧ trigger % 4 = 0 ∧ secU ≤ minInterval ∧ minInterval ≤ 3600 * secU ∧ 20 ≤ target ∧ target ≤ 24 ∧ secU /
        10 ≤ runTimeout ∧ runTimeout ≤ 100 * secU →
      secU ≤ retry ∧ retry ≤ 3600 * secU ∧ (periodic = 0 ∨ secU ≤ periodic ∧ periodic ≤ 86400 * secU) ∧ source18 < 2 ∧ source19 < 2 →
      ((s.gauge.regions.get 18).state = .running → s.gauge.scatter18 = decide (source18 = 1)) →
      ((s.gauge.regions.get 19).state = .running → s.gauge.scatter19 = decide (source19 = 1)) →
      s.acts (.gaugeConfigure src trigger minInterval target runTimeout retry periodic source18 source19) src 0x0810 = true →
      ∃ t, exec (.gaugeConfigure src trigger minInterval target runTimeout retry periodic source18 source19) s = .next t ∧
        t.cmd.opcode = 0x0810 ∧ t.cmd.status = s.okStatus src 0x0810 ∧ t.cmd.result = packFrom 16 [] ∧
        keepsBesideAnswer [.gauge] s t ∧ t.gauge =
          { s.gauge with trigger := trigger.toNat, minInterval := minInterval, target := target, runTimeout := runTimeout, retry := retry, periodic := periodic, scatter18 := decide (source18 = 1), scatter19 := decide (source19 = 1) })
          ∧
  (∀ (src : CmdSrc) (region : Nat) (rs : List Nat) (s : State),
      (region < 21 ∧ rs = [region] ∨ region = 0xFFFF ∧ rs = List.range 21) →
      (rs.any fun n => decide ((s.gauge.regions.get n).state = .off ∨ (s.gauge.regions.get n).state = .full)) = false →
      s.acts (.gaugeRun src region) src 0x0811 = true →
      ∃ t, exec (.gaugeRun src region) s = .next t ∧
        t.cmd.opcode = 0x0811 ∧ t.cmd.status = s.okStatus src 0x0811 ∧ t.cmd.result = packFrom 16 [] ∧
        keepsBesideAnswer [.gauge] s t ∧ (rs.all fun n => decide ((t.gauge.regions.get n).state = if (s.gauge.regions.get n).state = .idle
          then .pending else (s.gauge.regions.get n).state) && ((s.gauge.regions.get n).state != .idle || t.gauge.pendingQ.contains n)) =
          true) ∧
  (∀ (src : CmdSrc) (region : Nat) (s : State),
      region < 21 ∧ ((s.gauge.regions.get region).state = .off ∨ (s.gauge.regions.get region).state = .full) →
      s.acts (.gaugeRun src region) src 0x0811 = true →
      ∃ t, exec (.gaugeRun src region) s = .next t ∧
        t.cmd.opcode = 0x0811 ∧ t.cmd.status = stBadState ∧ t.cmd.result = packFrom 16 [] ∧
        keepsBesideAnswer [] s t) ∧
  (∀ (src : CmdSrc) (force : Bool) (region : Nat) (s : State),
      region < 21 ∧ (s.gauge.regions.get region).state = .full →
      s.acts (.gaugeFull src force region) src 0x0812 = true →
      ∃ t, exec (.gaugeFull src force region) s = .next t ∧
        t.cmd.opcode = 0x0812 ∧ t.cmd.status = s.okStatus src 0x0812 ∧ t.cmd.result = packFrom 16 [] ∧
        keepsBesideAnswer [] s t) ∧
  (∀ (src : CmdSrc) (force : Bool) (region : Nat) (s : State),
      region < 21 ∧ (s.gauge.regions.get region).state ≠ .off ∧ (s.gauge.regions.get region).state ≠ .full ∧ force = true →
      s.acts (.gaugeFull src force region) src 0x0812 = true →
      ∃ t, exec (.gaugeFull src force region) s = .next t ∧
        t.cmd.opcode = 0x0812 ∧ t.cmd.status = s.okStatus src 0x0812 ∧ t.cmd.result = packFrom 16 [] ∧
        keepsBesideAnswer [.tdc, .gauge] s t ∧ (t.gauge.regions.get region).state = .full ∧ (t.gauge.regions.get region).commitDue = false
          ∧ ((regionChans region).all fun n => (t.gauge.chans.get n).hist.isEmpty && !(t.gauge.chans.get n).inRun) = true) ∧
  (∀ (src : CmdSrc) (force : Bool) (region : Nat) (s : State),
      region < 21 ∧ ((s.gauge.regions.get region).state = .off ∨ (s.gauge.regions.get region).state ≠ .full ∧ force = false) →
      s.acts (.gaugeFull src force region) src 0x0812 = true →
      ∃ t, exec (.gaugeFull src force region) s = .next t ∧
        t.cmd.opcode = 0x0812 ∧ t.cmd.status = stBadState ∧ t.cmd.result = packFrom 16 [] ∧
        keepsBesideAnswer [] s t) ∧
  (∀ (src : CmdSrc) (region : Nat) (y : GRegion) (n : Nat) (s : State),
      n = (if (y.state = .running && s.injects region) then Config.freeNat s.free % ((regionChans region).length * 2 ^ s.gauge.target + 1)
        else (regionChans region).foldl (fun a n => a + ((s.gauge.chans.get n).hist.foldl (fun b q => b + q.2) 0)) 0) →
      region < 21 ∧ y = s.gauge.regions.get region →
      s.acts (.gaugeGetStatus src region) src 0x0813 = true →
      ∃ t, exec (.gaugeGetStatus src region) s = .next t ∧
        t.cmd.opcode = 0x0813 ∧ t.cmd.status = s.okStatus src 0x0813 ∧ t.cmd.result = packFrom 16 ([Fld.u 1
          (match y.state with | .off => 0 | .full => 1 | .idle => 2 | .pending => 3 | .running => 4), Fld.u 1 (if y.stale then 1 else 0),
          Fld.u 1 (if (regionChans region).any fun n => (s.gauge.chans.get n).degraded then 1 else 0), Fld.i 4 y.tLast, Fld.i 4
          ((s.regionTemp region).getD (-32768)), Fld.u 8 y.epoch, Fld.u 8 n] ++ (regionChans region).flatMap fun n => [Fld.u 2
          (s.gauge.chans.get n).lastCause, Fld.i 8 (s.gauge.chans.get n).delta]) ∧
        keepsBesideAnswer [.free] s t ∧ t.free = s.free + 1) ∧
  (∀ (src : CmdSrc) (force : Bool) (region mode : Nat) (s : State),
      region < 21 ∧ mode = 0 ∧ ((regionChans region).all fun n => (s.gauge.chans.get n).stagedOk) = true →
      (s.gauge.regions.get region).state = .idle ∨ (s.gauge.regions.get region).state = .pending →
      ((regionChans region).any fun n => decide ((s.gauge.chans.get n).stSel ≠ (s.gauge.chans.get n).cellSel ∨ (s.gauge.chans.get
        n).stTrim ≠ (s.gauge.chans.get n).trim ∨ (s.gauge.chans.get n).stDll ≠ (s.gauge.chans.get n).dllCode)) = false →
      ((List.range 21).any fun n => decide (n ≠ region ∧ (s.gauge.regions.get n).state = .full)) = false →
      s.acts (.gaugeRestore src force region mode) src 0x0814 = true →
      ∃ t, exec (.gaugeRestore src force region mode) s = .next t ∧
        t.cmd.opcode = 0x0814 ∧ t.cmd.status = s.okStatus src 0x0814 ∧ t.cmd.result = packFrom 16 [] ∧
        keepsBesideAnswer [.gauge] s t ∧ (∀ n, n ∈ regionChans region → (t.gauge.chans.get n).newCentre = some (s.gauge.chans.get
          n).staged) ∧ (t.gauge.regions.get region).commitDue = true) ∧
  (∀ (src : CmdSrc) (force : Bool) (region mode : Nat) (s : State),
      region < 21 ∧ mode = 1 ∧ ((regionChans region).all fun n => (s.gauge.chans.get n).stagedOk) = true →
      (s.gauge.regions.get region).state ≠ .running ∧ (force = true ∨ (s.gauge.regions.get region).state = .off ∨ (s.gauge.regions.get
        region).state = .full) →
      ((List.range 21).any fun n => decide (n ≠ region ∧ (s.gauge.regions.get n).state = .full)) = false →
      s.acts (.gaugeRestore src force region mode) src 0x0814 = true →
      ∃ t, exec (.gaugeRestore src force region mode) s = .next t ∧
        t.cmd.opcode = 0x0814 ∧ t.cmd.status = s.okStatus src 0x0814 ∧ t.cmd.result = packFrom 16 [] ∧
        keepsBesideAnswer [.tdc, .gauge] s t ∧ (t.gauge.regions.get region).state = .full) ∧
  (∀ (src : CmdSrc) (force : Bool) (region mode : Nat) (s : State),
      region < 21 ∧ mode < 2 ∧ ((regionChans region).all fun n => (s.gauge.chans.get n).stagedOk) = true →
      (s.gauge.regions.get region).state = .running ∨ mode = 0 ∧ ((s.gauge.regions.get region).state = .off ∨ (s.gauge.regions.get
        region).state = .full) ∨ mode = 1 ∧ force = false ∧ (s.gauge.regions.get region).state ≠ .off ∧ (s.gauge.regions.get region).state
        ≠ .full →
      s.acts (.gaugeRestore src force region mode) src 0x0814 = true →
      ∃ t, exec (.gaugeRestore src force region mode) s = .next t ∧
        t.cmd.opcode = 0x0814 ∧ t.cmd.status = stBadState ∧ t.cmd.result = packFrom 16 [] ∧
        keepsBesideAnswer [] s t) ∧
  (∀ (src : CmdSrc) (duration : Nat) (s : State),
      duration = 0 ∨ secU ≤ duration ∧ duration ≤ 86400 * secU →
      s.acts (.gaugeHold src duration) src 0x0815 = true →
      ∃ t, exec (.gaugeHold src duration) s = .next t ∧
        t.cmd.opcode = 0x0815 ∧ t.cmd.status = s.okStatus src 0x0815 ∧ t.cmd.result = packFrom 16 [] ∧
        keepsBesideAnswer [.gauge] s t ∧ t.gauge =
          { s.gauge with hold := if duration = 0 then none else some (s.now + cyclesOf duration) })

/-- The MCLK commands configure a machine-clock channel and an output, answer a channel and set its orbit. Where it acts and its operands
lie in their ranges: MCLK_CONFIGURE_CHANNEL sets a channel's source, frequency, limits and marker, enables it only if its source is met and
keeps the source of one that is enabled; MCLK_CONFIGURE_OUTPUT sets one output, a pulse output only on a channel with an orbit; MCLK_GET
answers the channel and its outputs; MCLK_SET_ORBIT enters the alignment, and the count where it is given, of a channel with an orbit;
STITCH_CONFIGURE_BROADCAST sets the channel's broadcasts. (R252, R255, R259, R264, R267, R271) -/
def Obligations.MachineClockCommands : Prop :=
  (∀ (src : CmdSrc) (enable : Bool) (chan source sourceIdx selector fNum fDen : Nat) (freqLim : Int) (hitLim actLim coastLim bandwidth
    orbitLen marker markerIdx : Nat) (markOffset : Int) (frameLen : Nat) (y : McChan) (s : State),
      chan < 4 ∧ source < 3 ∧ 1 ≤ fNum ∧ fNum ≤ 400000000 ∧ 1 ≤ fDen ∧ fDen ≤ 65535 ∧ 25600 ≤ freqLim ∧ freqLim ≤ 2560000000 ∧ 66 ≤ hitLim
        ∧ hitLim ≤ 10 * nsU →
      ((source = 0 → 280 ≤ sourceIdx ∧ sourceIdx < 312) ∧ (source = 1 → sourceIdx < 8) ∧ (source = 2 → sourceIdx < 256) ∧ (if source = 2
        then selector < 4 else selector = 0)) →
      usU ≤ actLim ∧ actLim ≤ secU ∧ msU ≤ coastLim ∧ coastLim ≤ 3600 * secU ∧ 1 ≤ bandwidth ∧ bandwidth ≤ 50000 ∧ (orbitLen = 0 ∨ 2 ≤
        orbitLen ∧ orbitLen ≤ 4095) →
      (marker < 4 ∧ (marker = 2 → source = 2) ∧ (marker = 0 → 280 ≤ markerIdx ∧ markerIdx < 312) ∧ (marker = 1 → markerIdx < 8) ∧ (2 ≤
        marker → markerIdx = 0)) →
      ((if marker = 3 then markOffset = 0 else markOffset.natAbs ≤ usU) ∧ 1 ≤ frameLen ∧ frameLen ≤ 1048576 ∧ (enable = true →
        s.mcSourceMet source sourceIdx = true)) →
      ((s.stitch.mc.get chan).enable = true → (s.stitch.mc.get chan).srcKind = source ∧ (s.stitch.mc.get chan).srcIdx = sourceIdx ∧
        (s.stitch.mc.get chan).srcSel = selector) →
      y =
        { s.stitch.mc.get chan with srcKind := source, srcIdx := sourceIdx, srcSel := selector, fNum := fNum, fDen := fDen, freqLim := freqLim.toNat, hitLim := hitLim, actLim := actLim, coastLim := coastLim, bw := bandwidth, orbitLen := orbitLen, markSrc := marker, markIdx := markerIdx, markOffset := markOffset, frameLen := frameLen }
        →
      s.acts (.mclkConfigureChannel src enable chan source sourceIdx selector fNum fDen freqLim hitLim actLim coastLim bandwidth orbitLen
        marker markerIdx markOffset frameLen) src 0x0901 = true →
      ∃ t, exec (.mclkConfigureChannel src enable chan source sourceIdx selector fNum fDen freqLim hitLim actLim coastLim bandwidth
        orbitLen marker markerIdx markOffset frameLen) s = .next t ∧
        t.cmd.opcode = 0x0901 ∧ t.cmd.status = s.okStatus src 0x0901 ∧ t.cmd.result = packFrom 16 [] ∧
        keepsBesideAnswer [.stitch] s t ∧ ((s.stitch.mc.get chan).enable = enable → t.stitch.mc = s.stitch.mc.set chan y) ∧ (enable = true
          → (s.stitch.mc.get chan).enable = false → t.stitch.mc = s.stitch.mc.set chan
          { y with enable := true, state := .acquire, stamps := [], rawQ := 0, rawTheta := 0, rawAt := 0, qF := 0, thetaF := 0, thetaAt := 0, lastSeen := s.now, goodRun := 0, coastEnd := none, valid := false, stale := false, stepSets := 0, hitPending := [], hitting := false, tracked := false, orbit := 0, bunch := 0, orbitValid := false, delta := 0, markRun := 0, slewLeft := 0, orbitSlew := 0, marks := [], markGap := 0, buildOut := 0, markLostRaised := false, setCount := none, setAlign := none, bcnDiff := [], framePos := 0, frameCur := frameLen, bcnDone := none, nextSet := s.now + cyclesOf y.setInterval, selRaised := false })
          ∧ (enable = false → (s.stitch.mc.get chan).enable = true → t.stitch.mc = s.stitch.mc.set chan
          { y with enable := false, state := .disabled, valid := false, coastEnd := none }) ∧ t.stitch =
          { s.stitch with mc := t.stitch.mc, mclk := t.stitch.mclk }) ∧
  (∀ (src : CmdSrc) (enable : Bool) (chan source sourceIdx selector fNum fDen : Nat) (freqLim : Int) (hitLim actLim coastLim bandwidth
    orbitLen marker markerIdx : Nat) (markOffset : Int) (frameLen : Nat) (s : State),
      chan < 4 ∧ source < 3 ∧ 1 ≤ fNum ∧ fNum ≤ 400000000 ∧ 1 ≤ fDen ∧ fDen ≤ 65535 ∧ 25600 ≤ freqLim ∧ freqLim ≤ 2560000000 ∧ 66 ≤ hitLim
        ∧ hitLim ≤ 10 * nsU →
      ((source = 0 → 280 ≤ sourceIdx ∧ sourceIdx < 312) ∧ (source = 1 → sourceIdx < 8) ∧ (source = 2 → sourceIdx < 256) ∧ (if source = 2
        then selector < 4 else selector = 0)) →
      usU ≤ actLim ∧ actLim ≤ secU ∧ msU ≤ coastLim ∧ coastLim ≤ 3600 * secU ∧ 1 ≤ bandwidth ∧ bandwidth ≤ 50000 ∧ (orbitLen = 0 ∨ 2 ≤
        orbitLen ∧ orbitLen ≤ 4095) →
      (marker < 4 ∧ (marker = 2 → source = 2) ∧ (marker = 0 → 280 ≤ markerIdx ∧ markerIdx < 312) ∧ (marker = 1 → markerIdx < 8) ∧ (2 ≤
        marker → markerIdx = 0)) →
      (if marker = 3 then markOffset = 0 else markOffset.natAbs ≤ usU) ∧ 1 ≤ frameLen ∧ frameLen ≤ 1048576 →
      enable = true ∧ s.mcSourceMet source sourceIdx = false ∨ (s.stitch.mc.get chan).enable = true ∧ (s.stitch.mc.get chan).srcIdx ≠
        sourceIdx →
      s.acts (.mclkConfigureChannel src enable chan source sourceIdx selector fNum fDen freqLim hitLim actLim coastLim bandwidth orbitLen
        marker markerIdx markOffset frameLen) src 0x0901 = true →
      ∃ t, exec (.mclkConfigureChannel src enable chan source sourceIdx selector fNum fDen freqLim hitLim actLim coastLim bandwidth
        orbitLen marker markerIdx markOffset frameLen) s = .next t ∧
        t.cmd.opcode = 0x0901 ∧ t.cmd.status = stBadState ∧ t.cmd.result = packFrom 16 [] ∧
        keepsBesideAnswer [] s t) ∧
  (∀ (src : CmdSrc) (squelch : Bool) (output chan mode m d : Nat) (offset slewLim : Int) (w swing : Nat) (s : State),
      output < 4 ∧ chan < 4 ∧ mode = 0 ∧ m = 0 ∧ d = 0 ∧ offset = 0 ∧ slewLim = 0 ∧ w = 0 ∧ swing < 3 →
      s.acts (.mclkConfigureOutput src squelch output chan mode m d offset slewLim w swing) src 0x0902 = true →
      ∃ t, exec (.mclkConfigureOutput src squelch output chan mode m d offset slewLim w swing) s = .next t ∧
        t.cmd.opcode = 0x0902 ∧ t.cmd.status = s.okStatus src 0x0902 ∧ t.cmd.result = packFrom 16 [] ∧
        keepsBesideAnswer [.stitch] s t ∧ (t.stitch.mclk.get output).mode = 0 ∧ (t.stitch.mclk.get output).running = false ∧ t.stitch =
          { s.stitch with mclk := t.stitch.mclk }) ∧
  (∀ (src : CmdSrc) (squelch : Bool) (output chan mode m d : Nat) (offset slewLim : Int) (w swing : Nat) (y : McChan) (s : State),
      output < 4 ∧ chan < 4 ∧ mode = 1 ∧ y = s.stitch.mc.get chan ∧ 1 ≤ m ∧ m ≤ 64 ∧ 1 ≤ d ∧ d ≤ 64 ∧ (y.orbitLen = 0 ∨ y.orbitLen % d =
        0) →
      1000000 * y.fDen * d ≤ y.fNum * m ∧ y.fNum * m ≤ 750000000 * y.fDen * d ∧ offset.natAbs ≤ 100 * nsU ∧ 2560 ≤ slewLim ∧ slewLim ≤
        100000 * 256 ∧ w = 0 ∧ swing < 3 →
      s.acts (.mclkConfigureOutput src squelch output chan mode m d offset slewLim w swing) src 0x0902 = true →
      ∃ t, exec (.mclkConfigureOutput src squelch output chan mode m d offset slewLim w swing) s = .next t ∧
        t.cmd.opcode = 0x0902 ∧ t.cmd.status = s.okStatus src 0x0902 ∧ t.cmd.result = packFrom 16 [] ∧
        keepsBesideAnswer [.stitch] s t ∧ (t.stitch.mclk.get output).chan = chan ∧ (t.stitch.mclk.get output).mode = 1 ∧
          (t.stitch.mclk.get output).m = m ∧ (t.stitch.mclk.get output).d = d ∧ (t.stitch.mclk.get output).offset = offset ∧ t.stitch =
          { s.stitch with mclk := t.stitch.mclk }) ∧
  (∀ (src : CmdSrc) (squelch : Bool) (output chan mode m d : Nat) (offset slewLim : Int) (w swing : Nat) (y : McChan) (s : State),
      output < 4 ∧ chan < 4 ∧ (mode = 2 ∨ mode = 3) ∧ m = 1 ∧ d = 1 ∧ y = s.stitch.mc.get chan ∧ y.orbitLen ≠ 0 ∧ 1 ≤ w ∧ w ≤ 255 ∧ w + 2
        ≤ y.orbitLen →
      offset.natAbs ≤ 100 * nsU ∧ 2560 ≤ slewLim ∧ slewLim ≤ 100000 * 256 ∧ swing < 3 →
      s.acts (.mclkConfigureOutput src squelch output chan mode m d offset slewLim w swing) src 0x0902 = true →
      ∃ t, exec (.mclkConfigureOutput src squelch output chan mode m d offset slewLim w swing) s = .next t ∧
        t.cmd.opcode = 0x0902 ∧ t.cmd.status = s.okStatus src 0x0902 ∧ t.cmd.result = packFrom 16 [] ∧
        keepsBesideAnswer [.stitch] s t ∧ (t.stitch.mclk.get output).chan = chan ∧ (t.stitch.mclk.get output).mode = mode ∧
          (t.stitch.mclk.get output).w = w ∧ t.stitch = { s.stitch with mclk := t.stitch.mclk }) ∧
  (∀ (src : CmdSrc) (squelch : Bool) (output chan mode m d : Nat) (offset slewLim : Int) (w swing : Nat) (s : State),
      output < 4 ∧ chan < 4 ∧ (mode = 2 ∨ mode = 3) ∧ m = 1 ∧ d = 1 ∧ (s.stitch.mc.get chan).orbitLen = 0 ∧ 1 ≤ w ∧ w ≤ 255 →
      offset.natAbs ≤ 100 * nsU ∧ 2560 ≤ slewLim ∧ slewLim ≤ 100000 * 256 ∧ swing < 3 →
      s.acts (.mclkConfigureOutput src squelch output chan mode m d offset slewLim w swing) src 0x0902 = true →
      ∃ t, exec (.mclkConfigureOutput src squelch output chan mode m d offset slewLim w swing) s = .next t ∧
        t.cmd.opcode = 0x0902 ∧ t.cmd.status = stBadState ∧ t.cmd.result = packFrom 16 [] ∧
        keepsBesideAnswer [] s t) ∧
  (∀ (src : CmdSrc) (chan : Nat) (y : McChan) (s : State),
      chan < 4 ∧ y = s.stitch.mc.get chan →
      s.acts (.mclkGet src chan) src 0x0903 = true →
      ∃ t, exec (.mclkGet src chan) s = .next t ∧
        t.cmd.opcode = 0x0903 ∧ t.cmd.status = s.okStatus src 0x0903 ∧ t.cmd.result = packFrom 16 ([Fld.u 1 y.state.code, Fld.u 8 y.qF,
          Fld.u 4 (unsignedOf 32 (y.cycles s.nowQ)), Fld.u 8 y.orbit, Fld.u 2 (unsignedOf 16 (y.bunchOf (y.cycles s.nowQ))), Fld.i 4
          y.delta, Fld.i 4 (y.slewLeft + y.orbitSlew), Fld.u 4 y.ambiguous, Fld.u 4 y.hits] ++ (List.range 4).flatMap fun n => if
          (s.stitch.mclk.get n).mode ≠ 0 ∧ (s.stitch.mclk.get n).chan = chan then [Fld.u 8 (s.stitch.mclk.get n).ftw, Fld.i 8
          (s.stitch.mclk.get n).phaseErr] else []) ∧
        keepsBesideAnswer [] s t) ∧
  (∀ (src : CmdSrc) (given : Bool) (chan : Nat) (t : KTime) (bunch orbit : Nat) (s : State),
      chan < 4 ∧ t.ns < 1000000000 ∧ t.sub = 0 ∧ s.ktime < KTime.units t ∧ (s.stitch.mc.get chan).orbitLen ≠ 0 ∧ bunch < (s.stitch.mc.get
        chan).orbitLen →
      (given = false → orbit = 0) →
      s.acts (.mclkSetOrbit src given chan t bunch orbit) src 0x0904 = true →
      ∃ u, exec (.mclkSetOrbit src given chan t bunch orbit) s = .next u ∧
        u.cmd.opcode = 0x0904 ∧ u.cmd.status = s.okStatus src 0x0904 ∧ u.cmd.result = packFrom 16 [] ∧
        keepsBesideAnswer [.stitch] s u ∧ u.stitch =
          { s.stitch with mc := s.stitch.mc.upd chan fun x => { x with setAlign := some (KTime.units t, bunch), setCount := if given then some (KTime.units t, orbit) else x.setCount } })
          ∧
  (∀ (src : CmdSrc) (given : Bool) (chan : Nat) (t : KTime) (bunch orbit : Nat) (s : State),
      (chan < 4 ∧ t.ns < 1000000000 ∧ t.sub = 0 ∧ s.ktime < KTime.units t ∧ (s.stitch.mc.get chan).orbitLen = 0 ∧ (given = false → orbit =
        0)) →
      s.acts (.mclkSetOrbit src given chan t bunch orbit) src 0x0904 = true →
      ∃ u, exec (.mclkSetOrbit src given chan t bunch orbit) s = .next u ∧
        u.cmd.opcode = 0x0904 ∧ u.cmd.status = stBadState ∧ u.cmd.result = packFrom 16 [] ∧
        keepsBesideAnswer [] s u) ∧
  (∀ (src : CmdSrc) (chan phaseTarget setInterval bcnTarget bcnInterval : Nat) (s : State),
      chan < 4 ∧ phaseTarget < 0x1000 ∧ (setInterval = 0 ∨ 10 * usU ≤ setInterval ∧ setInterval ≤ 100 * msU) ∧ bcnTarget < 0x1000 ∧
        bcnInterval ≤ 65536 →
      bcnInterval = 0 ∨ (s.stitch.mc.get chan).orbitLen ≠ 0 →
      s.acts (.stitchConfigureBroadcast src chan phaseTarget setInterval bcnTarget bcnInterval) src 0x0907 = true →
      ∃ t, exec (.stitchConfigureBroadcast src chan phaseTarget setInterval bcnTarget bcnInterval) s = .next t ∧
        t.cmd.opcode = 0x0907 ∧ t.cmd.status = s.okStatus src 0x0907 ∧ t.cmd.result = packFrom 16 [] ∧
        keepsBesideAnswer [.stitch] s t ∧ t.stitch =
          { s.stitch with mc := s.stitch.mc.upd chan fun x => { x with phaseTarget := phaseTarget, setInterval := setInterval, bcnTarget := bcnTarget, bcnInterval := bcnInterval, nextSet := if x.setInterval = setInterval then x.nextSet else s.now + cyclesOf setInterval } })

/-- The STITCH commands set groups, triggers and ports, send stitches and timed stitches, cancel them and answer the counts. Where it acts
and its operands lie in their ranges: the configuring commands set the group, the trigger source or the selvedge port named; STITCH_SEND
queues the stitch in every group that a port of its target uses, and completes at once if there is none, waits otherwise, and is ST_BUSY
where a queue is full; STITCH_SEND_TIMED takes a handle and joins the timed stitches while fewer than 256 wait (else ST_BUSY), and one whose
lead has come enters its queues at once; STITCH_CANCEL_TIMED removes the stitch from the list and from every queue, with ST_BAD_STATE where
a copy is placed already; the reading commands answer the counts, which FLAG starts anew. (R244, R245, R246, R247, R248, R249, R271) -/
def Obligations.StitchCommands : Prop :=
  (∀ (src : CmdSrc) (group action : Nat) (mask : BitVec 256) (port : Nat) (s : State),
      group ≤ 0xFFE ∧ action = 0 ∧ port = 0 →
      s.acts (.stitchConfigureGroup src group action mask port) src 0x0905 = true →
      ∃ t, exec (.stitchConfigureGroup src group action mask port) s = .next t ∧
        t.cmd.opcode = 0x0905 ∧ t.cmd.status = s.okStatus src 0x0905 ∧ t.cmd.result = packFrom 16 [] ∧
        keepsBesideAnswer [.stitch] s t ∧ t.stitch = { s.stitch with groups := s.stitch.groups.set group mask }) ∧
  (∀ (src : CmdSrc) (group action : Nat) (mask : BitVec 256) (port : Nat) (s : State),
      group ≤ 0xFFE ∧ (action = 1 ∨ action = 2) ∧ mask = 0 ∧ port < 256 →
      s.acts (.stitchConfigureGroup src group action mask port) src 0x0905 = true →
      ∃ t, exec (.stitchConfigureGroup src group action mask port) s = .next t ∧
        t.cmd.opcode = 0x0905 ∧ t.cmd.status = s.okStatus src 0x0905 ∧ t.cmd.result = packFrom 16 [] ∧
        keepsBesideAnswer [.stitch] s t ∧ t.stitch =
          { s.stitch with groups := s.stitch.groups.set group (if action = 1 then s.stitch.groups.get group ||| BitVec.ofNat 256 (2 ^ port) else s.stitch.groups.get group &&& ~~~BitVec.ofNat 256 (2 ^ port)) })
          ∧
  (∀ (src : CmdSrc) (enable seqReset : Bool) (source channel kind target spacing seq : Nat) (y : TrigSrc) (s : State),
      (source < 8 ∧ 280 ≤ channel ∧ channel < 312 ∧ kind < 256 ∧ target < 0x1000 ∧ spacing ≤ 1000000 * nsU ∧ (seqReset = false → seq = 0))
        →
      (s.tdc.chans.get channel).edge ≠ 2 ∧ y = s.stitch.trigs.get source →
      s.acts (.stitchConfigureTrigger src enable seqReset source channel kind target spacing seq) src 0x0906 = true →
      ∃ t, exec (.stitchConfigureTrigger src enable seqReset source channel kind target spacing seq) s = .next t ∧
        t.cmd.opcode = 0x0906 ∧ t.cmd.status = s.okStatus src 0x0906 ∧ t.cmd.result = packFrom 16 [] ∧
        keepsBesideAnswer [.stitch] s t ∧ t.stitch =
          { s.stitch with trigs := s.stitch.trigs.set source { y with enable := enable, channel := channel, kind := kind, target := target, spacing := spacing, seq := if seqReset then BitVec.ofNat 32 seq else y.seq, last := if y.enable && y.channel = channel then y.last else none } })
          ∧
  (∀ (src : CmdSrc) (compensate rxLog : Bool) (port relayTrig relayTimed relayUser errThr : Nat) (s : State),
      port < 256 ∧ relayTrig ≤ 0x1000 ∧ relayTimed ≤ 0x1000 ∧ relayUser ≤ 0x1000 ∧ 1 ≤ errThr ∧ errThr ≤ 65535 →
      (s.ports.get port).configured = true ∧ (s.ports.get port).isSelvedge = true →
      s.acts (.stitchConfigurePort src compensate rxLog port relayTrig relayTimed relayUser errThr) src 0x0908 = true →
      ∃ t, exec (.stitchConfigurePort src compensate rxLog port relayTrig relayTimed relayUser errThr) s = .next t ∧
        t.cmd.opcode = 0x0908 ∧ t.cmd.status = s.okStatus src 0x0908 ∧ t.cmd.result = packFrom 16 [] ∧
        keepsBesideAnswer [.stitch] s t ∧ t.stitch =
          { s.stitch with ports := s.stitch.ports.upd port fun x => { x with compensate := compensate, rxLog := rxLog, relayTrig := relayTarget relayTrig, relayTimed := relayTarget relayTimed, relayUser := relayTarget relayUser, errThr := errThr } })
          ∧
  (∀ (src : CmdSrc) (type target payload : Nat) (s : State),
      type < 2 ∧ target < 0x1000 ∧ payload < 2 ^ 40 ∧ s.latticesOf (s.stitchPorts target none) = [] →
      s.acts (.stitchSend src type target payload) src 0x0909 = true →
      ∃ t, exec (.stitchSend src type target payload) s = .next t ∧
        t.cmd.opcode = 0x0909 ∧ t.cmd.status = s.okStatus src 0x0909 ∧ t.cmd.result = packFrom 16 ((List.range 6).flatMap fun _ => [Fld.u
          8 0, Fld.i 8 0]) ∧
        keepsBesideAnswer [.stitch] s t ∧ t.stitch = { s.stitch with groupEmpty := inc32 s.stitch.groupEmpty }) ∧
  (∀ (src : CmdSrc) (type target payload : Nat) (g : List Nat) (q : QStitch) (s : State),
      type < 2 ∧ target < 0x1000 ∧ payload < 2 ^ 40 ∧ g = s.latticesOf (s.stitchPorts target none) ∧ g ≠ [] →
      q =
        { type := if type = 0 then 1 else 12, target := target, payload := payload, arrive := s.tick, ready := s.tick + 64, wait := some s.stitch.nextSeq }
        →
      (g.any fun n => decide (64 ≤ (s.stitch.queues.get (8 * n + stitchClass q.type)).length)) = false →
      s.acts (.stitchSend src type target payload) src 0x0909 = true →
      ∃ t, exec (.stitchSend src type target payload) s = .next t ∧
        keepsBesideBeginning [.stitch] s t ∧ t.stitch =
          { s.stitch with queues := t.stitch.queues, sendWait := s.stitch.sendWait ++ [{ id := s.stitch.nextSeq, src := src, left := g }], nextSeq := s.stitch.nextSeq + 1 }
          ∧ (g.all fun n => decide (t.stitch.queues.get (8 * n + stitchClass q.type) = s.stitch.queues.get (8 * n + stitchClass q.type) ++
          [q])) = true) ∧
  (∀ (src : CmdSrc) (type target payload : Nat) (s : State),
      type < 2 ∧ target < 0x1000 ∧ payload < 2 ^ 40 →
      ((s.latticesOf (s.stitchPorts target none)).any fun g => decide (64 ≤ (s.stitch.queues.get (8 * g + stitchClass (if type = 0 then 1
        else 12))).length)) = true →
      s.acts (.stitchSend src type target payload) src 0x0909 = true →
      ∃ t, exec (.stitchSend src type target payload) s = .next t ∧
        t.cmd.opcode = 0x0909 ∧ t.cmd.status = stBusy ∧ t.cmd.result = packFrom 16 [] ∧
        keepsBesideAnswer [] s t) ∧
  (∀ (src : CmdSrc) (target code : Nat) (e : KTime) (lead r : Nat) (x : Pending) (s : State),
      target < 0x1000 ∧ code < 0xF0 ∧ e.ns < 1000000000 ∧ e.sub = 0 ∧ s.ktime + 20 * usU ≤ KTime.units e ∧ 10 * usU ≤ lead ∧ lead ≤ 2 *
        secU ∧ 1 ≤ r ∧ r ≤ 4 →
      s.stitch.timed.length < 256 ∧ s.wTime < KTime.units e - lead ∧ x =
        { handle := s.stitch.nextHandle.toNat, target := target, code := code, e := KTime.units e, lead := lead, copies := r } →
      s.acts (.stitchSendTimed src target code e lead r) src 0x090A = true →
      ∃ t, exec (.stitchSendTimed src target code e lead r) s = .next t ∧
        t.cmd.opcode = 0x090A ∧ t.cmd.status = s.okStatus src 0x090A ∧ t.cmd.result = packFrom 16 [.u 4 s.stitch.nextHandle.toNat] ∧
        keepsBesideAnswer [.stitch] s t ∧ t.stitch =
          { s.stitch with timed := s.stitch.timed ++ [x], nextHandle := s.stitch.nextHandle + 1 }) ∧
  (∀ (src : CmdSrc) (target code : Nat) (e : KTime) (lead r : Nat) (x : Pending) (s : State),
      target < 0x1000 ∧ code < 0xF0 ∧ e.ns < 1000000000 ∧ e.sub = 0 ∧ s.ktime + 20 * usU ≤ KTime.units e ∧ 10 * usU ≤ lead ∧ lead ≤ 2 *
        secU ∧ 1 ≤ r ∧ r ≤ 4 →
      s.stitch.timed.length < 256 ∧ KTime.units e - lead ≤ s.wTime ∧ x =
        { handle := s.stitch.nextHandle.toNat, target := target, code := code, e := KTime.units e, lead := lead, copies := r } →
      s.acts (.stitchSendTimed src target code e lead r) src 0x090A = true →
      ∃ t, exec (.stitchSendTimed src target code e lead r) s = .next t ∧
        t.cmd.opcode = 0x090A ∧ t.cmd.status = s.okStatus src 0x090A ∧ t.cmd.result = packFrom 16 [.u 4 s.stitch.nextHandle.toNat] ∧
        keepsBesideAnswer [.stitch] s t ∧ t.stitch.nextHandle = s.stitch.nextHandle + 1 ∧ ((s.latticesOf (s.stitchPorts target none)).all
          fun n => decide (min 64 ((s.stitch.queues.get (8 * n + stitchClass 3)).length + r) ≤ (t.stitch.queues.get (8 * n + stitchClass
          3)).length)) = true) ∧
  (∀ (src : CmdSrc) (target code : Nat) (e : KTime) (lead r : Nat) (s : State),
      target < 0x1000 ∧ code < 0xF0 ∧ e.ns < 1000000000 ∧ e.sub = 0 ∧ s.ktime + 20 * usU ≤ KTime.units e ∧ 10 * usU ≤ lead ∧ lead ≤ 2 *
        secU ∧ 1 ≤ r ∧ r ≤ 4 ∧ 256 ≤ s.stitch.timed.length →
      s.acts (.stitchSendTimed src target code e lead r) src 0x090A = true →
      ∃ t, exec (.stitchSendTimed src target code e lead r) s = .next t ∧
        t.cmd.opcode = 0x090A ∧ t.cmd.status = stBusy ∧ t.cmd.result = packFrom 16 [] ∧
        keepsBesideAnswer [] s t) ∧
  (∀ (src : CmdSrc) (handle : Nat) (x : Pending) (s : State),
      (s.stitch.timed.find? fun y => decide (y.handle = handle)) = some x →
      s.acts (.stitchCancelTimed src handle) src 0x090B = true →
      ∃ t, exec (.stitchCancelTimed src handle) s = .next t ∧
        t.cmd.opcode = 0x090B ∧ t.cmd.status = (if x.placed then stBadState else s.okStatus src 0x090B) ∧ t.cmd.result = packFrom 16 [] ∧
        keepsBesideAnswer [.stitch] s t ∧ t.stitch =
          { s.stitch with timed := s.stitch.timed.filter (fun y => decide (y.handle ≠ handle)), queues := s.stitch.queues.mapAll fun _ q => q.filter fun y => decide (y.handle ≠ some handle) })
          ∧
  (∀ (src : CmdSrc) (handle : Nat) (s : State),
      (s.stitch.timed.find? fun y => decide (y.handle = handle)) = none →
      s.acts (.stitchCancelTimed src handle) src 0x090B = true →
      ∃ t, exec (.stitchCancelTimed src handle) s = .next t ∧
        t.cmd.opcode = 0x090B ∧ t.cmd.status = stBadState ∧ t.cmd.result = packFrom 16 [] ∧
        keepsBesideAnswer [] s t) ∧
  (∀ (src : CmdSrc) (clear : Bool) (port : Nat) (y : StPort) (s : State),
      port < 256 ∧ (s.ports.get port).configured = true ∧ (s.ports.get port).isSelvedge = true ∧ y = s.stitch.ports.get port →
      s.acts (.stitchGetPort src clear port) src 0x090C = true →
      ∃ t, exec (.stitchGetPort src clear port) s = .next t ∧
        t.cmd.opcode = 0x090C ∧ t.cmd.status = s.okStatus src 0x090C ∧ t.cmd.result = packFrom 16 ([Fld.u 2 (s.latticeOf port), Fld.i 8
          (spanU (groupQ (s.latticeOf port))), Fld.i 8 (s.txLatency port port), Fld.i 8 (s.dDown port), Fld.i 8 (s.txLatency port port +
          s.dDown port), Fld.u 1 (flag (s.selv.get port).linkStale 1)] ++ (List.range 13).map (fun k => Fld.u 4 (y.txCounts.get k)) ++
          (List.range 13).map (fun k => Fld.u 4 (y.rxCounts.get k)) ++ [Fld.u 4 y.relayDup, Fld.u 4 y.errEvents]) ∧
        keepsBesideAnswer [.stitch] s t ∧ t.stitch = if clear then
          { s.stitch with ports := s.stitch.ports.set port { y with txCounts := [], rxCounts := [], relayDup := 0, errEvents := 0 } } else
          s.stitch) ∧
  (∀ (src : CmdSrc) (clear : Bool) (s : State),
      s.acts (.stitchGetSequencer src clear) src 0x090D = true →
      ∃ t, exec (.stitchGetSequencer src clear) s = .next t ∧
        t.cmd.opcode = 0x090D ∧ t.cmd.status = s.okStatus src 0x090D ∧ t.cmd.result = packFrom 16 (queueKeys.map (fun k => Fld.u 2
          (s.stitch.queues.get k).length) ++ queueKeys.map (fun k => Fld.u 4 (s.stitch.overflow.get k)) ++ [Fld.u 4 s.stitch.groupEmpty,
          Fld.u 4 s.stitch.timedLate, Fld.u 4 s.stitch.trigSpacing, Fld.u 2 s.stitch.timed.length] ++ (List.range 8).map fun n => Fld.u 4
          (s.stitch.trigs.get n).seq.toNat) ∧
        keepsBesideAnswer [.stitch] s t ∧ t.stitch = if clear then
          { s.stitch with overflow := [], groupEmpty := 0, timedLate := 0, trigSpacing := 0 } else s.stitch)

/-- The PAIR commands configure the pair and its ports, report it, switch over, resynchronise, test and read the duplicate table. Where it
acts and its operands lie in their ranges: PAIR_CONFIGURE sets the pair's parameters and whether it is enabled; PAIR_CONFIGURE_PORT sets a
port that is DOWN, or is not this unit's, and whose sources meet no other port's; PAIR_SWITCHOVER is entered by an active unit with a
healthy standby, and by a journal always; PAIR_RESYNC of an enabled unit sends the request to a partner that stands by or is detached;
PAIR_TEST is a standby's alone; the reading commands answer the registers, the verdicts and the duplicate entry, and FLAG starts counts
anew. (R379, R388, R398, R406, R410, R415) -/
def Obligations.PairCommands : Prop :=
  (∀ (src : CmdSrc) (enable : Bool) (cycle lead commitTimeout joinTimeout watchdog skewGuard window chunkAge closeTimeout outcomeTimeout
    etherType : Nat) (plAsym : Int) (s : State),
      s.acts (.pairConfigure src enable cycle lead commitTimeout joinTimeout watchdog skewGuard window chunkAge closeTimeout
        outcomeTimeout etherType plAsym) src 0x0A01 (s.cmdRoleOk (.pairConfigure src enable cycle lead commitTimeout joinTimeout watchdog
        skewGuard window chunkAge closeTimeout outcomeTimeout etherType plAsym)) = true →
      125 * usU ≤ cycle ∧ cycle ≤ 10 * msU ∧ cycle % (125 * usU) = 0 ∧ 50 * usU ≤ lead ∧ lead ≤ 5 * msU ∧ lead < cycle ∧ 2 ≤ commitTimeout
        ∧ commitTimeout ≤ 100 →
      secU ≤ joinTimeout ∧ joinTimeout ≤ 600 * secU ∧ msU ≤ watchdog ∧ watchdog ≤ 1000 * msU ∧ usU ≤ skewGuard ∧ skewGuard ≤ 2 * msU ∧
        [1024, 2048, 4096, 8192, 16384, 32768, 65536].contains window = true →
      10 * usU ≤ chunkAge ∧ chunkAge ≤ 2 * msU ∧ msU ≤ closeTimeout ∧ closeTimeout ≤ 100 * msU ∧ secU ≤ outcomeTimeout ∧ outcomeTimeout ≤
        600 * secU →
      0x600 ≤ etherType ∧ etherType < 65536 ∧ etherTaken.contains etherType = false ∧ plAsym.natAbs ≤ nsU ∧ (etherType =
        s.pair.cfg.etherType ∨ s.pair.role = .alone) →
      ∃ t, exec (.pairConfigure src enable cycle lead commitTimeout joinTimeout watchdog skewGuard window chunkAge closeTimeout
        outcomeTimeout etherType plAsym) s = .next t ∧
        keepsAllBut [.clock, .free, .cmd, .hostMem, .fuses, .glob, .chan, .lanes, .ports, .modules, .selv, .tdc, .gauge, .ref, .time,
          .ptp, .stitch, .parse, .fwd, .core, .contracts, .pair, .fw, .mbs, .fence, .events, .stats, .power] s t ∧ (s.pair.waits = [] →
          t.cmd.opcode = 0x0A01 ∧ t.cmd.result = packFrom 16 []) ∧ t.pair.cfg =
          { cycle := cycle, lead := lead, commitTimeout := commitTimeout, joinTimeout := joinTimeout, watchdog := watchdog, skewGuard := skewGuard, window := window, chunkAge := chunkAge, closeTimeout := closeTimeout, outcomeTimeout := outcomeTimeout, etherType := etherType, plAsym := plAsym }
          ∧ (fromJournal src = false → t.pair.enable = enable)) ∧
  (∀ (src : CmdSrc) (port attach source base count untagged : Nat) (y : PairPort) (a : Attach) (s : State),
      port < 256 ∧ (attach = 0 ∧ a = .unpaired ∨ attach = 1 ∧ a = .dual ∨ attach = 2 ∧ a = .singleA ∨ attach = 3 ∧ a = .singleB) →
      (if 2 ≤ attach then 1 ≤ source ∧ source ≤ 0xFFFE else source = 0) ∧ (if attach = 1 then 1 ≤ base ∧ 1 ≤ count ∧ count ≤ 16384 ∧ base
        + count ≤ 0xFFFF ∧ untagged < 2 else base = 0 ∧ count = 0 ∧ untagged = 0) →
      y =
        { attach := a, source := source, base := base, count := count, dropUntagged := decide (untagged = 1), seq := if decide (2 ≤ attach) && decide ((s.pair.ports.get port).source = source) then (s.pair.ports.get port).seq else 0, pathSeen := false }
        →
      (s.pair.ports.any fun q => decide (q.1 ≠ port) && y.meets q.2) = false ∧ (s.portState port = .down ∨ s.attachRemote a = true ∧
        s.attachRemote (s.pair.ports.get port).attach = true) →
      s.acts (.pairConfigurePort src port attach source base count untagged) src 0x0A02 = true →
      ∃ t, exec (.pairConfigurePort src port attach source base count untagged) s = .next t ∧
        t.cmd.opcode = 0x0A02 ∧ t.cmd.status = s.okStatus src 0x0A02 ∧ t.cmd.result = packFrom 16 [] ∧
        keepsBesideAnswer [] s t ∧ t.pair = { s.pair with ports := s.pair.ports.set port y, unmirrored := t.pair.unmirrored }) ∧
  (∀ (src : CmdSrc) (clear : Bool) (s : State),
      s.acts (.pairGetStatus src clear) src 0x0A03 = true →
      ∃ t, exec (.pairGetStatus src clear) s = .next t ∧
        t.cmd.opcode = 0x0A03 ∧ t.cmd.status = s.okStatus src 0x0A03 ∧ t.cmd.result = packFrom 16 (pairOffsets.map (fun o => Fld.u 4
          (s.pairReg o)) ++ (List.range 15).map fun k => Fld.u 8 (s.pair.counts.get k - s.pair.base.get k)) ∧
        keepsBesideAnswer [] s t ∧ (clear = true → t.pair.base = s.pair.counts)) ∧
  (∀ (src : CmdSrc) (s : State),
      s.acts (.pairSwitchover src) src 0x0A04 true = true →
      fromJournal src = true ∨ s.pair.enable = true ∧ s.pair.role = .active ∧ s.partnerStandby = true ∧ s.pair.healthOk = true →
      ∃ t, exec (.pairSwitchover src) s = .next t ∧
        keepsAllBut [.cmd, .hostMem, .pair, .fw, .mbs, .fence, .events] s t ∧ t.cmd.opcode = 0x0A04 ∧ t.pair.switchover = true ∧ t.pair =
          { s.pair with switchover := true, counts := t.pair.counts }) ∧
  (∀ (src : CmdSrc) (s : State),
      s.pair.enable = true ∧ (s.partnerStandby = true ∨ s.pair.partnerRole = .detached) →
      s.acts (.pairResync src) src 0x0A05 = true →
      ∃ t, exec (.pairResync src) s = .next t ∧
        t.cmd.opcode = 0x0A05 ∧ t.cmd.status = s.okStatus src 0x0A05 ∧ t.cmd.result = packFrom 16 [] ∧
        keepsBesideAnswer [] s t ∧ t.pair.control = .resync :: s.pair.control ∧ t.pair.controlTx = s.now) ∧
  (∀ (src : CmdSrc) (s : State),
      s.pair.enable = false ∨ s.partnerStandby = false ∧ s.pair.partnerRole ≠ .detached →
      s.acts (.pairResync src) src 0x0A05 = true →
      ∃ t, exec (.pairResync src) s = .next t ∧
        t.cmd.opcode = 0x0A05 ∧ t.cmd.status = stBadState ∧ t.cmd.result = packFrom 16 [] ∧
        keepsBesideAnswer [] s t) ∧
  (∀ (src : CmdSrc) (duration : Nat) (s : State),
      (duration = 0 ∨ secU ≤ duration ∧ duration ≤ 3600 * secU) ∧ s.pair.role = .standby →
      s.acts (.pairTest src duration) src 0x0A06 = true →
      ∃ t, exec (.pairTest src duration) s = .next t ∧
        t.cmd.opcode = 0x0A06 ∧ t.cmd.status = s.okStatus src 0x0A06 ∧ t.cmd.result = packFrom 16 [] ∧
        keepsBesideAnswer [] s t ∧ t.pair.testEnd = if duration = 0 then none else some (s.now + cyclesOf duration)) ∧
  (∀ (src : CmdSrc) (duration : Nat) (s : State),
      (duration = 0 ∨ secU ≤ duration ∧ duration ≤ 3600 * secU) ∧ s.pair.role ≠ .standby →
      s.acts (.pairTest src duration) src 0x0A06 = true →
      ∃ t, exec (.pairTest src duration) s = .next t ∧
        t.cmd.opcode = 0x0A06 ∧ t.cmd.status = stBadState ∧ t.cmd.result = packFrom 16 [] ∧
        keepsBesideAnswer [] s t) ∧
  (∀ (src : CmdSrc) (clear : Bool) (source : Nat) (y : DupEntry) (s : State),
      1 ≤ source ∧ source ≤ 0xFFFE ∧ s.pair.dup.find source = some y →
      s.acts (.pairGetDigest src clear source) src 0x0A07 = true →
      ∃ t, exec (.pairGetDigest src clear source) s = .next t ∧
        t.cmd.opcode = 0x0A07 ∧ t.cmd.status = s.okStatus src 0x0A07 ∧ t.cmd.result = packFrom 16 ((List.range 6).map (fun k => Fld.u 8
          ((if k < 5 then y.verdicts.get k else y.exemptBlocks) - y.vBase.get k)) ++ [Fld.u 4 y.lastBlock]) ∧
        keepsBesideAnswer [] s t ∧ (clear = true → t.pair.dup = s.pair.dup.set source
          { y with vBase := (List.range 6).map fun k => (k, if k < 5 then y.verdicts.get k else y.exemptBlocks) })) ∧
  (∀ (src : CmdSrc) (source : Nat) (y : DupEntry) (s : State),
      1 ≤ source ∧ source ≤ 0xFFFE ∧ s.pair.dup.find source = some y →
      s.acts (.pairGetDup src source) src 0x0A08 = true →
      ∃ t, exec (.pairGetDup src source) s = .next t ∧
        t.cmd.opcode = 0x0A08 ∧ t.cmd.status = s.okStatus src 0x0A08 ∧ t.cmd.result = packFrom 16 [.u 4 y.high.toNat, .u 4
          s.pair.cfg.window, .u 8 ((s.now - y.created) * 262144 / 5), .u 8 y.dup, .u 8 y.dupWindow] ∧
        keepsBesideAnswer [] s t)

/-- The SEC commands guard time steps, authenticate a session, lock debugging, revoke keys and raise the minimum version. Where it acts, in
an open session where the command needs one: the step commands enter their change 1,024 ticks ahead; SEC_CHALLENGE answers a nonce, a free
value, open for 30 seconds; SEC_RESPONSE keeps its first part, and with its second ends the challenge and opens what it asked for where the
signature verifies (an uninterpreted function), and counts the failure otherwise, with ST_NOT_PERMITTED; SEC_CLOSE ends the session;
SEC_DEBUG_LOCK locks; a key not in use is revoked; a minimum version between the present one and the image's is set; SEC_GET_STATUS answers
them. (R188, R211, R432, R433, R439) -/
def Obligations.SecurityCommands : Prop :=
  (∀ (src : CmdSrc) (g v : Nat) (s : State),
      g ≤ 1000000 * nsU ∧ secU ≤ v ∧ v ≤ 3600 * secU →
      s.acts (.secSetStepGuard src g v) src 0x0C10 = true →
      ∃ t, exec (.secSetStepGuard src g v) s = .next t ∧
        keepsBesideBeginning [.time] s t ∧ t.time =
          { s.time with changes := s.time.changes ++ [{ kind := .guard, a := g, b := v, c := 0, src := src, own := false, due := s.tick + 1024 }] })
          ∧
  (∀ (src : CmdSrc) (direction magnitude validity : Nat) (s : State),
      direction < 2 ∧ 1 ≤ magnitude ∧ magnitude ≤ (if direction = 0 then 10 ^ 18 else 10 ^ 9) ∧ secU ≤ validity ∧ validity ≤ 60 * secU →
      s.acts (.secAuthoriseStep src direction magnitude validity) src 0x0C11 = true →
      ∃ t, exec (.secAuthoriseStep src direction magnitude validity) s = .next t ∧
        keepsBesideBeginning [.time] s t ∧ t.time =
          { s.time with changes := s.time.changes ++ [{ kind := .allowance, a := direction, b := magnitude, c := validity, src := src, own := false, due := s.tick + 1024 }] })
          ∧
  (∀ (src : CmdSrc) (role level : Nat) (s : State),
      (role < 2 ∧ (if role = 1 then level < 2 else level = 0) ∧ (role = 1 → level = 1 → s.fuses.fullDebug = true)) →
      (∀ n, s.fw.authBusy = some n → n ≤ s.now) →
      s.acts (.secChallenge src role level) src 0x0C01 = true →
      ∃ t, exec (.secChallenge src role level) s = .next t ∧
        t.cmd.opcode = 0x0C01 ∧ t.cmd.status = s.okStatus src 0x0C01 ∧ t.cmd.result = packFrom 16 [.raw 8 (beBytes 32 (Config.freeNat
          s.free % 2 ^ 256))] ∧
        keepsBesideAnswer [.free] s t ∧ t.free = s.free + 1 ∧ t.fw.challenge = some
          { debug := decide (role = 1), full := decide (level = 1), nonce := Config.freeNat s.free % 2 ^ 256, deadline := s.now + 30 * secC })
          ∧
  (∀ (src : CmdSrc) (part : Nat) (bytes : List Byte) (y : Challenge) (s : State),
      part = 0 ∧ s.fw.challenge = some y ∧ s.now ≤ y.deadline →
      s.acts (.secResponse src part bytes) src 0x0C02 = true →
      ∃ t, exec (.secResponse src part bytes) s = .next t ∧
        t.cmd.opcode = 0x0C02 ∧ t.cmd.status = s.okStatus src 0x0C02 ∧ t.cmd.result = packFrom 16 [] ∧
        keepsBesideAnswer [] s t ∧ t.fw.respPart0 = some bytes) ∧
  (∀ (src : CmdSrc) (part : Nat) (bytes : List Byte) (y : Challenge) (b : List Byte) (s : State),
      part = 1 ∧ s.fw.challenge = some y ∧ s.now ≤ y.deadline ∧ s.fw.respPart0 = some b →
      s.acts (.secResponse src part bytes) src 0x0C02 = true →
      ∃ t, exec (.secResponse src part bytes) s = .next t ∧
        t.cmd.opcode = 0x0C02 ∧ t.cmd.status = (if (s.fw.base_.keys.any fun k => decide (k.1 = y.debug) && Config.ecdsaOk k.2
          (Config.sha384 (s.challengeMessage y)) (b ++ bytes)) then s.okStatus src 0x0C02 else stNotPermitted) ∧ t.cmd.result = packFrom
          16 [] ∧
        keepsBesideAnswer [] s t ∧ t.fw.challenge = none ∧ t.fw.respPart0 = none) ∧
  (∀ (src : CmdSrc) (part : Nat) (bytes : List Byte) (s : State),
      part < 2 ∧ (s.fw.challenge = none ∨ (s.fw.challenge.any fun y => decide (y.deadline < s.now)) = true) →
      s.acts (.secResponse src part bytes) src 0x0C02 = true →
      ∃ t, exec (.secResponse src part bytes) s = .next t ∧
        t.cmd.opcode = 0x0C02 ∧ t.cmd.status = stBadState ∧ t.cmd.result = packFrom 16 [] ∧
        keepsBesideAnswer [] s t) ∧
  (∀ (src : CmdSrc) (s : State),
      s.acts (.secClose src) src 0x0C03 = true →
      ∃ t, exec (.secClose src) s = .next t ∧
        t.cmd.opcode = 0x0C03 ∧ t.cmd.status = s.okStatus src 0x0C03 ∧ t.cmd.result = packFrom 16 [] ∧
        keepsBesideAnswer [] s t ∧ t.fw.sessionEnd = none ∧ t.events.pending.getLsbD 798 = true) ∧
  (∀ (src : CmdSrc) (s : State),
      s.acts (.secDebugLock src) src 0x0C04 = true →
      ∃ t, exec (.secDebugLock src) s = .next t ∧
        t.cmd.opcode = 0x0C04 ∧ t.cmd.status = s.okStatus src 0x0C04 ∧ t.cmd.result = packFrom 16 [] ∧
        keepsBesideAnswer [] s t ∧ t.fw.debug = .locked ∧ (s.fw.debug ≠ .locked → t.events.pending.getLsbD 798 = true)) ∧
  (∀ (src : CmdSrc) (slot : Nat) (s : State),
      slot < 8 ∧ s.fw.base_.keySlot ≠ slot →
      s.acts (.secRevokeKey src slot) src 0x0C05 = true →
      ∃ t, exec (.secRevokeKey src slot) s = .next t ∧
        t.cmd.opcode = 0x0C05 ∧ t.cmd.status = s.okStatus src 0x0C05 ∧ t.cmd.result = packFrom 16 [] ∧
        keepsBesideAnswer [.fuses] s t ∧ t.fuses =
          { s.fuses with revoked := if s.fuses.revoked.contains slot then s.fuses.revoked else s.fuses.revoked ++ [slot] }) ∧
  (∀ (src : CmdSrc) (slot : Nat) (s : State),
      slot < 8 ∧ s.fw.base_.keySlot = slot →
      s.acts (.secRevokeKey src slot) src 0x0C05 = true →
      ∃ t, exec (.secRevokeKey src slot) s = .next t ∧
        t.cmd.opcode = 0x0C05 ∧ t.cmd.status = stBadState ∧ t.cmd.result = packFrom 16 [] ∧
        keepsBesideAnswer [] s t ∧ t.fuses = s.fuses) ∧
  (∀ (src : CmdSrc) (minimum : Nat) (s : State),
      minimum ≤ 64 ∧ s.fuses.minVersion ≤ minimum ∧ minimum ≤ s.fw.base_.secVersion →
      s.acts (.secSetMinVersion src minimum) src 0x0C06 = true →
      ∃ t, exec (.secSetMinVersion src minimum) s = .next t ∧
        t.cmd.opcode = 0x0C06 ∧ t.cmd.status = s.okStatus src 0x0C06 ∧ t.cmd.result = packFrom 16 [] ∧
        keepsBesideAnswer [.fuses] s t ∧ t.fuses = { s.fuses with minVersion := minimum }) ∧
  (∀ (src : CmdSrc) (s : State),
      s.acts (.secGetStatus src) src 0x0C07 = true →
      ∃ t, exec (.secGetStatus src) s = .next t ∧
        t.cmd.opcode = 0x0C07 ∧ t.cmd.status = s.okStatus src 0x0C07 ∧ t.cmd.result = packFrom 16 ([Fld.u 1 (Debug.code s.fw.debug), Fld.u
          1 (flag s.fw.sessionEnd.isSome 1), Fld.u 8 (match s.fw.sessionEnd with | some n => (n - s.now) * 262144 / 5 | none => 0)] ++
          (List.range 8).map (fun k => Fld.u 1 (s.keyState k)) ++ [Fld.u 4 s.fuses.minVersion]) ∧
        keepsBesideAnswer [] s t)

/-- CAPTURE_CONFIGURE sets a capture trigger; COUNTER_CLEAR clears counters; EVENT_INJECT raises an event marked as injected. Where it acts
and its operands lie in their ranges: CAPTURE_CONFIGURE sets one trigger; COUNTER_CLEAR of blocks of a group removes the live counts of
exactly those counters, but for what the present CORE cycle added, with a contract's its largest latency and with a port's its EXC_SEEN, and
touches no other; EVENT_INJECT of a known cause sets PENDING of its source, its LAST_CAUSE and its COUNT, as the hardware's own event would.
(R349, R525, R526) -/
def Obligations.EventAndCaptureCommands : Prop :=
  (∀ (src : CmdSrc) (enable : Bool) (trigger snap port k : Nat) (mask : BitVec 256) (s : State),
      trigger < 5 ∧ (snap = 0 ∨ snap = 64 ∨ snap = 128 ∨ snap = 192 ∨ snap = 256) ∧ (if trigger = 1 then port < 256 ∧ k ≤ 24 else port = 0
        ∧ k = 0) ∧ (2 ≤ trigger ∨ mask = 0) →
      s.acts (.captureConfigure src enable trigger snap port k mask) src 0x0B40 = true →
      ∃ t, exec (.captureConfigure src enable trigger snap port k mask) s = .next t ∧
        t.cmd.opcode = 0x0B40 ∧ t.cmd.status = s.okStatus src 0x0B40 ∧ t.cmd.result = packFrom 16 [] ∧
        keepsBesideAnswer [.core] s t ∧ t.core =
          { s.core with capture := { s.core.capture with trigs := s.core.capture.trigs.upd trigger fun x => { x with enable := enable, snap := snap, port := port, k := k, mask := mask } } })
          ∧
  (∀ (src : CmdSrc) (block first count : Nat) (s : State),
      block ≤ 3 ∧ first < clearSize block ∧ 0 < count ∧ first + count ≤ clearSize block →
      s.acts (.counterClear src block first count) src 0x0B01 = true →
      ∃ t, exec (.counterClear src block first count) s = .next t ∧
        t.cmd.opcode = 0x0B01 ∧ t.cmd.status = s.okStatus src 0x0B01 ∧ t.cmd.result = packFrom 16 [] ∧
        keepsBesideAnswer [.parse, .contracts, .stats] s t ∧ ((s.stats.live.all fun q => decide (if (clearRange block first).1 ≤ q.1 ∧ q.1
          < (clearRange block (first + count - 1)).1 + (clearRange block (first + count - 1)).2 then (s.stats.grown s.now).find q.1 = none
          → t.stats.live.get q.1 = 0 else t.stats.live.get q.1 = s.stats.live.get q.1)) = true) ∧ (block = 2 → s.contracts.latest s.now =
          [] → ((List.range count).all fun k => decide (t.contracts.maxSeen.get (first + k) = 0)) = true) ∧ (block ≠ 2 → t.contracts =
          s.contracts) ∧ (block = 0 → ((List.range count).all fun k => !(t.parse.ports.get (first + k)).excSeen) = true) ∧ (block ≠ 0 →
          t.parse = s.parse)) ∧
  (∀ (src : CmdSrc) (source cause : Nat) (data : List Byte) (s : State),
      source ≤ 832 ∧ 1 ≤ cause % 256 ∧ cause % 256 ≤ Ev.causesOf (cause / 256) ∧ cause < 65536 →
      s.acts (.eventInject src source cause data) src 0x0B02 = true →
      ∃ t, exec (.eventInject src source cause data) s = .next t ∧
        t.cmd.opcode = 0x0B02 ∧ t.cmd.status = s.okStatus src 0x0B02 ∧ t.cmd.result = packFrom 16 [] ∧
        keepsBesideAnswer [] s t ∧ t.events.pending.getLsbD source = true ∧ (s.fence.waiting = [] → src = .direct → source ≠ 832 →
          t.hasRaised source cause = true ∧ (t.events.last.get source).count = satAdd 16 (s.events.last.get source).count 1))

/-- Core holds and restarts, the Keeper's lockstep, SRAM errors, fence markers and overlay switches. FENCE_MARKER_WRITE writes the marker
that a stream owes: a TDC ring with room writes a MARKER record of the fence's epoch, a TSQ a KIND 3 entry, the log a KIND 1 record, the
capture ring and a completion queue take theirs; a stream that owes none changes nothing. WATCHDOG holds a running core, FIREWALL_FAULT
counts the refusal and holds the core at the sixteenth within a second; both leave a core that does not run. CORE_RESTART makes a held core
run anew with its counters at 0. KEEPER_LOCKSTEP closes the session, drops the challenge and restarts the Keeper. SHARED_SRAM_ERROR is
handled by the structure struck: a staging buffer is lost, a core is held, a log record is marked invalid and counted lost, a table copy is
marked bad; RECOVERY_START and RECOVERY_DONE are raised. OVERLAY_SWITCH gives an overlay armed for a time its effect with the next fence
epoch, the slot LOADED again; one armed by a fence with that fence's epoch, and a fence whose slot is disarmed completes ST_BAD_STATE. (R29,
R418, R420, R429, R466, R470, R472, R478) -/
def Obligations.RecoveryRows : Prop :=
  (∀ (stream : StreamId) (s : State),
      streamExists stream = true ∧ s.markerAt stream = none →
      ∃ t, exec (.fenceMarkerWrite stream) s = .next t ∧
        keepsAllBut [] s t ∧ t = s) ∧
  (∀ (stream : StreamId) (n : Nat) (m : FenceMark) (s : State),
      stream = .ring n ∧ n < 8 ∧ s.time.tickOn = true ∧ s.ringMark n = some m ∧ s.time.tick0 + m.f + 2 * usC ≤ s.now ∧ s.ringPassed n m.f
        = true ∧ s.ringNext n = none →
      (s.tdc.rings.get n).waitMarks = [] ∧ (s.tdc.rings.get n).lostRun = 0 ∧ (s.tdc.rings.get n).fill < 4096 →
      ∃ t, exec (.fenceMarkerWrite stream) s = .next t ∧
        keepsAllBut [.clock, .free, .cmd, .hostMem, .tdc, .time, .core, .pair, .fw, .mbs, .fence, .events, .stats, .host] s t ∧
          t.fence.marks = s.fence.marks.erase m ∧ (t.tdc.rings.get n).wr = (s.tdc.rings.get n).wr + 1 ∧ (t.tdc.rings.get n).recs.get
          ((s.tdc.rings.get n).wr.toNat % 4096) = { markerRec m.epoch with seq := (s.tdc.rings.get n).wr.toNat % 256, written := s.now })
          ∧
  (∀ (stream : StreamId) (q : Nat) (m : FenceMark) (s : State),
      stream = .tsq q ∧ q < 4 ∧ s.time.tickOn = true ∧ s.tsqMarks q = [m] ∧ s.markerAt stream = some m.f ∧ s.time.tick0 + m.f ≤ s.now ∧
        (s.time.tsqs.get q).enable = true ∧ (s.time.tsqs.get q).refusedRun = 0 ∧ (s.time.tsqs.get q).reqs = [] ∧ (s.time.tsqs.get q).fill
        < 64 →
      ∃ t, exec (.fenceMarkerWrite stream) s = .next t ∧
        keepsAllBut [.clock, .free, .cmd, .hostMem, .tdc, .time, .core, .pair, .fw, .mbs, .fence, .events, .stats, .host] s t ∧
          t.fence.marks = s.fence.marks.erase m ∧ (t.time.tsqs.get q).wr = (s.time.tsqs.get q).wr + 1 ∧ (t.time.tsqs.get q).entries.get
          ((s.time.tsqs.get q).wr.toNat % 64) = { kind := 3, value := m.epoch }) ∧
  (∀ (stream : StreamId) (m : FenceMark) (s : State),
      stream = .log ∧ s.time.tickOn = true ∧ (s.fence.marks.find? fun y => decide (y.stream = .log)) = some m ∧ s.time.tick0 + m.f + 2 *
        usC ≤ s.now →
      s.events.logFull = false ∧ s.events.logWait = [] ∧ s.events.logRun = 0 →
      ∃ t, exec (.fenceMarkerWrite stream) s = .next t ∧
        keepsAllBut [.clock, .free, .cmd, .hostMem, .tdc, .time, .core, .pair, .fw, .mbs, .fence, .events, .stats, .host] s t ∧
          t.fence.marks = s.fence.marks.erase m ∧ s.events.logWr + 1 ≤ t.events.logWr ∧ t.events.log.get (s.events.logWr.toNat % 1024) =
          { kind := 1, value := m.epoch }) ∧
  (∀ (stream : StreamId) (m : FenceMark) (s : State),
      (stream = .capture ∨ ∃ n ∈ List.range 32, stream = .cq n) ∧ s.time.tickOn = true ∧ (s.fence.marks.find? fun y => decide (y.stream =
        stream)) = some m ∧ s.time.tick0 + m.f + 2 * usC ≤ s.now →
      s.core.capture.held = [] →
      ∃ t, exec (.fenceMarkerWrite stream) s = .next t ∧
        keepsAllBut [.clock, .free, .cmd, .hostMem, .tdc, .time, .core, .pair, .fw, .mbs, .fence, .events, .stats, .host] s t ∧
          t.fence.marks = s.fence.marks.erase m) ∧
  (∀ (core : Nat) (s : State),
      core < 14 ∧ (s.fw.cores.get core).state = 1 →
      ∃ t, exec (.watchdog core) s = .next t ∧
        keepsAllBut [.glob, .time, .stitch, .fw, .mbs, .fence, .events] s t ∧ (t.fw.cores.get core).state = 3 ∧ (t.fw.cores.get
          core).faults = [] ∧ t.hasRaised (coreSrc core) Ev.watchdog = true ∧ t.fence.recovery = (decide (core < 2) || s.fence.recovery))
          ∧
  (∀ (core : Nat) (s : State),
      core < 14 ∧ (s.fw.cores.get core).state ≠ 1 →
      ∃ t, exec (.watchdog core) s = .next t ∧
        keepsAllBut [] s t ∧ t = s) ∧
  (∀ (core addr : Nat) (s : State),
      core < 14 ∧ (s.fw.cores.get core).state = 1 ∧ (recent (s.fw.cores.get core).faults s.now secC).length < 15 →
      ∃ t, exec (.firewallFault core addr) s = .next t ∧
        keepsAllBut [.fw, .fence, .events] s t ∧ (t.fw.cores.get core).faultCount = inc32 (s.fw.cores.get core).faultCount ∧
          (t.fw.cores.get core).faults = s.now :: recent (s.fw.cores.get core).faults s.now secC ∧ (t.fw.cores.get core).state = 1 ∧
          ((s.fw.cores.get core).faultAt = none → t.hasRaised (coreSrc core) Ev.firewallFault = true)) ∧
  (∀ (core addr : Nat) (s : State),
      core < 14 ∧ (s.fw.cores.get core).state = 1 ∧ 15 ≤ (recent (s.fw.cores.get core).faults s.now secC).length →
      ∃ t, exec (.firewallFault core addr) s = .next t ∧
        keepsAllBut [.glob, .time, .stitch, .fw, .mbs, .fence, .events, .stats] s t ∧ (t.fw.cores.get core).state = 3 ∧ (t.fw.cores.get
          core).faultCount = inc32 (s.fw.cores.get core).faultCount ∧ (t.fw.cores.get core).faults = []) ∧
  (∀ (core addr : Nat) (s : State),
      core < 14 ∧ (s.fw.cores.get core).state ≠ 1 →
      ∃ t, exec (.firewallFault core addr) s = .next t ∧
        keepsAllBut [] s t ∧ t = s) ∧
  (∀ (core : Nat) (s : State),
      core < 14 ∧ (s.fw.cores.get core).state = 3 ∧ s.glob.keeperRestarting = false ∧ s.fence.waiting = [] ∧ s.fence.active = [] →
      ∃ t, exec (.coreRestart core) s = .next t ∧
        keepsAllBut [.hostMem, .pair, .fw, .mbs, .fence, .events] s t ∧ (t.fw.cores.get core).state = 1 ∧ (t.fw.cores.get core).restarts =
          (s.fw.cores.get core).restarts + 1 ∧ (t.fw.cores.get core).cnt = List.replicate 8 0 ∧ (t.fw.cores.get core).ksel =
          List.replicate 8 0 ∧ t.events.pending.getLsbD (coreSrc core) = true) ∧
  (∀ (core : Nat) (s : State),
      core < 14 ∧ ((s.fw.cores.get core).state ≠ 3 ∨ s.glob.keeperRestarting = true) →
      ∃ t, exec (.coreRestart core) s = .next t ∧
        keepsAllBut [] s t ∧ t = s) ∧
  (∀ (s : State),
      ∃ t, exec .keeperLockstep s = .next t ∧
        keepsAllBut [.glob, .fw, .fence, .events] s t ∧ t.glob.keeperRestarting = true ∧ t.fw.sessionEnd = none ∧ t.fw.challenge = none ∧
          t.fw.respPart0 = none ∧ t.events.pending.getLsbD 798 = true ∧ t.hasRaised 830 Ev.recoveryStart = true) ∧
  (∀ (what : SramWhat) (arg : Nat) (s : State),
      what = .staging ∧ arg < 7 →
      ∃ t, exec (.sharedSramError what arg) s = .next t ∧
        keepsAllBut [.mbs, .fence, .events] s t ∧ (t.mbs.get arg).aclStage = [] ∧ (t.mbs.get arg).memStage = [] ∧ t.hasRaised 830
          Ev.recoveryDone = true) ∧
  (∀ (what : SramWhat) (arg : Nat) (s : State),
      (what = .coreData ∧ arg < 14 ∨ what = .localSram ∧ arg < 14 ∧ (s.fw.cores.get arg).state = 1) →
      ∃ t, exec (.sharedSramError what arg) s = .next t ∧
        keepsAllBut [.cmd, .hostMem, .glob, .time, .stitch, .fwd, .pair, .fw, .mbs, .fence, .events] s t ∧ (t.fw.cores.get arg).state = 3
          ∧ t.events.pending.getLsbD 830 = true) ∧
  (∀ (what : SramWhat) (arg : Nat) (s : State),
      what = .localSram ∧ arg < 14 ∧ (s.fw.cores.get arg).state ≠ 1 →
      ∃ t, exec (.sharedSramError what arg) s = .next t ∧
        keepsAllBut [] s t ∧ t = s) ∧
  (∀ (what : SramWhat) (arg : Nat) (s : State),
      what = .tableCopies ∧ s.sramArgOk what arg = true →
      ∃ t, exec (.sharedSramError what arg) s = .next t ∧
        keepsAllBut [.fwd, .fence, .events] s t ∧ t.fwd.badCopies.contains (arg / 1048576, arg % 1048576) = true ∧ t.hasRaised 830
          Ev.recoveryDone = true) ∧
  (∀ (what : SramWhat) (arg : Nat) (s : State),
      (what = .firmwareCache ∨ what = .standbyBuffer ∧ s.takesJournals = false) ∧ arg = 0 →
      ∃ t, exec (.sharedSramError what arg) s = .next t ∧
        keepsAllBut [.fence, .events] s t ∧ t.hasRaised 830 Ev.recoveryDone = true) ∧
  (∀ (what : SramWhat) (arg : Nat) (s : State),
      (what = .journal ∨ what = .standbyBuffer ∨ what = .eventLog) ∧ s.sramArgOk what arg = true →
      ∃ t, exec (.sharedSramError what arg) s = .next t ∧
        keepsAllBut [.cmd, .hostMem, .glob, .time, .stitch, .fwd, .pair, .fw, .mbs, .fence, .events] s t ∧ t.events.pending.getLsbD 830 =
          true) ∧
  (∀ (s : State),
      s.time.tickOn = false ∨ (s.fence.active.find? fun b => b.arm) = none ∧ s.armedSlot = none →
      ∃ t, exec .overlaySwitch s = .next t ∧
        keepsAllBut [] s t ∧ t = s) ∧
  (∀ (a : ActiveFence) (s : State),
      s.time.tickOn = true ∧ (s.fence.active.find? fun b => b.arm) = some a ∧ s.time.tick0 + a.f ≤ s.now ∧ s.armedSlot = none →
      ∃ t, exec .overlaySwitch s = .next t ∧
        keepsAllBut [.clock, .free, .cmd, .hostMem, .ports, .stitch, .parse, .fwd, .core, .contracts, .pair, .fw, .mbs, .fence, .events,
          .stats] s t ∧ t.cmd.opcode = 0x0203 ∧ t.cmd.status = stBadState) ∧
  (∀ (a : ActiveFence) (n : Nat) (o : Overlay) (s : State),
      s.time.tickOn = true ∧ (s.fence.active.find? fun b => b.arm) = some a ∧ s.time.tick0 + a.f ≤ s.now ∧ s.armedSlot = some (n, o) ∧
        o.timeMode = false ∧ o.src = a.src ∧ s.fence.waiting = [] →
      ∃ t, exec .overlaySwitch s = .next t ∧
        keepsAllBut [.clock, .free, .cmd, .hostMem, .ports, .stitch, .parse, .fwd, .core, .contracts, .pair, .fw, .mbs, .fence, .events,
          .stats] s t ∧ t.cmd.opcode = 0x0203 ∧ t.cmd.status = s.okStatus a.src 0x0203 ∧ t.fw.lastOverlay = some (n, a.epoch) ∧
          (t.fw.overlays.get n).state = .loaded ∧ (t.fw.overlays.get n).applied = (s.fw.overlays.get n).applied + 1 ∧ t.pair.lastApply =
          s.now) ∧
  (∀ (n : Nat) (o : Overlay) (s : State),
      s.time.tickOn = true ∧ (s.fence.active.find? fun b => b.arm) = none ∧ s.armedSlot = some (n, o) ∧ o.timeMode = true ∧ s.time.tick0 +
        s.fireTick o.t ≤ s.now ∧ s.fence.waiting = [] →
      ∃ t, exec .overlaySwitch s = .next t ∧
        keepsAllBut [.clock, .free, .cmd, .hostMem, .ports, .stitch, .parse, .fwd, .core, .contracts, .pair, .fw, .mbs, .fence, .events,
          .stats] s t ∧ t.fw.lastOverlay = some (n, s.fence.epoch + 1) ∧ (t.fw.overlays.get n).state = .loaded ∧ (t.fw.overlays.get
          n).applied = (s.fw.overlays.get n).applied + 1 ∧ t.fence.epoch = s.fence.epoch + 1 ∧ t.events.pending.getLsbD 799 = true)

/-- Supplies, over-temperature, sensor conversions and resets: what each does to the power state. RESET_START begins the pending reset at
its instant: a cold reset leaves what a cold reset leaves with its cause, the other two end all work, record kind and cause and go back to
PD1 or PD2 unless the boot had not come so far. COLD_RESET held low for 1,250 cycles resets, below 125 nothing happens, and between them
either may happen (a free choice, log entry 80). SUPPLY_FAULT marks the supply: VDDP or VDDX reset the unit and hold it, VDD ends what PD2
to PD9 hold, the analogue supplies end what PD1 to PD9 hold, a skein supply turns PD5 off; SUPPLY_RESTORED unmarks it. THERMTRIP ends all
work and stays until a cold reset. A conversion enters its reading as the newest of sixteen; a sensor that has not converted for 10 ms is
marked, and one sound for 10 s after a fault is sound again. (R19, R528, R530, R531, R534, R536, R537, R539, R540) -/
def Obligations.SupplyAndThermalRows : Prop :=
  (∀ (s : State),
      s.power.resetPending = none ∨ s.glob.keeperRestarting = true →
      ∃ t, exec .resetStart s = .next t ∧
        keepsAllBut [] s t ∧ t = s) ∧
  (∀ (c : Nat) (s : State),
      s.power.resetPending = some (0, c) ∧ s.power.resetAt ≤ s.now ∧ s.glob.keeperRestarting = false →
      ∃ t, exec .resetStart s = .next t ∧
        keepsAllBut [.clock, .free, .cmd, .hostMem, .glob, .chan, .lanes, .ports, .modules, .selv, .tdc, .gauge, .ref, .time, .ptp,
          .stitch, .parse, .fwd, .core, .contracts, .pair, .fw, .mbs, .fence, .events, .stats, .power, .host] s t ∧ t.power.resetCause = c
          ∧ t.power.stage = .por ∧ t.power.resetPending = none ∧ t.glob = State.reset.glob ∧ t.fuses = s.fuses ∧ t.hostMem = s.hostMem ∧
          t.lanes = [] ∧ t.fwd = {} ∧ t.now = s.now) ∧
  (∀ (k : Nat) (c : Nat) (s : State),
      s.power.resetPending = some (k, c) ∧ (k = 1 ∨ k = 3 ∨ k = 2) ∧ s.power.resetAt ≤ s.now ∧ s.glob.keeperRestarting = false →
      s.power.stage ≠ .por ∧ s.power.stage ≠ .xo ∧ s.power.stage ≠ .flash ∧ s.power.stage ≠ .recovery →
      ∃ t, exec .resetStart s = .next t ∧
        keepsAllBut [.clock, .free, .cmd, .hostMem, .glob, .chan, .lanes, .ports, .modules, .selv, .tdc, .gauge, .ref, .time, .ptp,
          .stitch, .parse, .fwd, .core, .contracts, .pair, .fw, .mbs, .fence, .events, .stats, .power, .host] s t ∧ t.power.resetKind = k
          ∧ t.power.resetCause = c ∧ t.power.resetPending = none ∧ t.power.resetting = some k ∧ t.power.stage = (if k = 2 ∧ s.time.tickOn
          = true then .pd2 else .pd1) ∧ t.fuses = s.fuses ∧ t.fwd = {} ∧ t.mbs = []) ∧
  (∀ (low : Nat) (s : State),
      1250 ≤ low →
      ∃ t, exec (.coldReset low) s = .next t ∧
        keepsAllBut [.free, .glob, .chan, .lanes, .ports, .modules, .selv, .tdc, .gauge, .ref, .time, .ptp, .stitch, .parse, .fwd, .core,
          .contracts, .pair, .fw, .mbs, .fence, .events, .stats, .power, .host] s t ∧ t.power.resetCause = 0 ∧ t.power.stage = .por ∧
          t.glob = State.reset.glob ∧ t.lanes = [] ∧ t.fwd = {} ∧ t.fuses = s.fuses ∧ t.now = s.now) ∧
  (∀ (low : Nat) (s : State),
      low < 125 →
      ∃ t, exec (.coldReset low) s = .next t ∧
        keepsAllBut [] s t ∧ t = s) ∧
  (∀ (low : Nat) (s : State),
      125 ≤ low ∧ low < 1250 →
      ∃ t, exec (.coldReset low) s = .next t ∧
        keepsAllBut [.free, .glob, .chan, .lanes, .ports, .modules, .selv, .tdc, .gauge, .ref, .time, .ptp, .stitch, .parse, .fwd, .core,
          .contracts, .pair, .fw, .mbs, .fence, .events, .stats, .power, .host] s t ∧ (Config.freeNat s.free % 2 = 0 → t =
          { s with free := s.free + 1 }) ∧ (Config.freeNat s.free % 2 = 1 → t.power.resetCause = 0 ∧ t.power.stage = .por ∧ t.glob =
          State.reset.glob ∧ t.lanes = [] ∧ t.fuses = s.fuses)) ∧
  (∀ (supply : Nat) (s : State),
      (supply = 0 ∨ supply = 1) ∧ s.power.supplyFault.get supply = false ∧ s.power.stage ≠ .thermtrip →
      ∃ t, exec (.supplyFault supply) s = .next t ∧
        keepsAllBut [.free, .cmd, .hostMem, .glob, .chan, .lanes, .ports, .modules, .selv, .tdc, .gauge, .ref, .time, .ptp, .stitch,
          .parse, .fwd, .core, .contracts, .pair, .fw, .mbs, .fence, .events, .stats, .power, .host] s t ∧ t.power.supplyFault =
          s.power.supplyFault.set supply true ∧ t.power.supplyHold = true ∧ t.power.resetCause = 1 ∧ t.power.stage = .por ∧ t.lanes = [] ∧
          t.fuses = s.fuses) ∧
  (∀ (supply : Nat) (s : State),
      supply = 1 ∧ s.power.supplyFault.get supply = false ∧ s.power.stage = .thermtrip →
      ∃ t, exec (.supplyFault supply) s = .next t ∧
        keepsAllBut [.power] s t ∧ t.power = { s.power with supplyFault := s.power.supplyFault.set supply true, supplyHold := true }) ∧
  (∀ (supply : Nat) (s : State),
      supply = 0 ∧ s.power.supplyFault.get supply = false ∧ s.power.stage = .thermtrip →
      ∃ t, exec (.supplyFault supply) s = .next t ∧
        keepsAllBut [.free, .cmd, .hostMem, .glob, .chan, .lanes, .ports, .modules, .selv, .tdc, .gauge, .ref, .time, .ptp, .stitch,
          .parse, .fwd, .core, .contracts, .pair, .fw, .mbs, .fence, .events, .stats, .power, .host] s t ∧ t.power.supplyFault =
          s.power.supplyFault.set supply true ∧ t.power.supplyHold = true ∧ t.power.resetCause = 1 ∧ t.power.stage = .por) ∧
  (∀ (supply : Nat) (s : State),
      supply = 4 ∧ s.power.supplyFault.get supply = false ∧ s.pdOn 2 = true →
      ∃ t, exec (.supplyFault supply) s = .next t ∧
        keepsAllBut [.free, .cmd, .hostMem, .glob, .chan, .lanes, .ports, .modules, .selv, .tdc, .gauge, .ref, .time, .ptp, .stitch,
          .parse, .fwd, .core, .contracts, .pair, .fw, .mbs, .fence, .events, .stats, .power, .host] s t ∧ t.power.supplyFault =
          s.power.supplyFault.set supply true ∧ t.glob.pdOn = 3 ∧ t.mbs = [] ∧ t.fwd = {} ∧ t.ref = s.ref ∧ t.fuses = s.fuses) ∧
  (∀ (supply : Nat) (s : State),
      (supply = 2 ∨ supply = 3 ∨ supply = 5) ∧ s.power.supplyFault.get supply = false ∧ s.pdOn 1 = true →
      ∃ t, exec (.supplyFault supply) s = .next t ∧
        keepsAllBut [.free, .cmd, .hostMem, .glob, .chan, .lanes, .ports, .modules, .selv, .tdc, .gauge, .ref, .time, .ptp, .stitch,
          .parse, .fwd, .core, .contracts, .pair, .fw, .mbs, .fence, .events, .stats, .power, .host] s t ∧ t.power.supplyFault =
          s.power.supplyFault.set supply true ∧ t.glob.pdOn = 1 ∧ t.glob.rootRunning = false ∧ t.mbs = [] ∧ t.lanes = [] ∧ t.fwd = {} ∧
          t.time.tickOn = false ∧ t.fuses = s.fuses) ∧
  (∀ (supply : Nat) (s : State),
      (supply = 4 ∧ s.pdOn 2 = false ∨ (supply = 2 ∨ supply = 3 ∨ supply = 5) ∧ s.pdOn 1 = false) ∧ s.power.supplyFault.get supply = false
        →
      ∃ t, exec (.supplyFault supply) s = .next t ∧
        keepsAllBut [.power] s t ∧ t.power = { s.power with supplyFault := s.power.supplyFault.set supply true }) ∧
  (∀ (supply : Nat) (s : State),
      6 ≤ supply ∧ supply < 9 ∧ s.power.supplyFault.get supply = false ∧ s.fuses.orderCode.skein = true →
      ∃ t, exec (.supplyFault supply) s = .next t ∧
        keepsAllBut [.free, .cmd, .hostMem, .glob, .chan, .lanes, .ports, .modules, .selv, .tdc, .gauge, .ref, .time, .ptp, .stitch,
          .parse, .fwd, .core, .contracts, .pair, .fw, .mbs, .fence, .events, .stats, .power, .host] s t ∧ t.power =
          { s.power with supplyFault := s.power.supplyFault.set supply true } ∧ t.pdOn 5 = false ∧ (s.pdOn 5 = true → t.core.skein = .off)
          ∧ (s.pdOn 2 = true → t.hasRaised (domSrc 5) Ev.supplyFault = true)) ∧
  (∀ (supply : Nat) (s : State),
      supply < 9 ∧ (s.power.supplyFault.get supply = true ∨ 6 ≤ supply ∧ s.fuses.orderCode.skein = false) →
      ∃ t, exec (.supplyFault supply) s = .next t ∧
        keepsAllBut [] s t ∧ t = s) ∧
  (∀ (supply : Nat) (s : State),
      supply < 9 →
      ∃ t, exec (.supplyRestored supply) s = .next t ∧
        keepsAllBut [.glob, .lanes, .fw, .power] s t ∧ t.power.supplyFault = s.power.supplyFault.del supply ∧ t.power.supplyHold =
          (s.power.supplyHold && ((s.power.supplyFault.del supply).get 0 || (s.power.supplyFault.del supply).get 1)) ∧ t.power.stage =
          s.power.stage) ∧
  (∀ (supply : Nat) (s : State),
      supply < 9 ∧ s.power.stage ≠ .pd1 ∧ s.power.stage ≠ .pd2 →
      ∃ t, exec (.supplyRestored supply) s = .next t ∧
        keepsAllBut [.power] s t ∧ t.power =
          { s.power with supplyFault := s.power.supplyFault.del supply, supplyHold := s.power.supplyHold && ((s.power.supplyFault.del supply).get 0 || (s.power.supplyFault.del supply).get 1) })
          ∧
  (∀ (sensor : Nat) (s : State),
      sensor < 16 ∧ (s.power.sensors.get sensor).faulty = false ∧ s.power.stage ≠ .thermtrip →
      ∃ t, exec (.thermtrip sensor) s = .next t ∧
        keepsAllBut [.free, .cmd, .hostMem, .glob, .chan, .lanes, .ports, .modules, .selv, .tdc, .gauge, .ref, .time, .ptp, .stitch,
          .parse, .fwd, .core, .contracts, .pair, .fw, .mbs, .fence, .events, .stats, .power, .host] s t ∧ t.power.stage = .thermtrip ∧
          t.power.thermtripN = false ∧ t.power.resetPending = none ∧ t.glob.pdOn = 1 ∧ t.fwd = {} ∧ t.lanes = []) ∧
  (∀ (sensor : Nat) (s : State),
      sensor < 16 ∧ ((s.power.sensors.get sensor).faulty = true ∨ s.power.stage = .thermtrip) →
      ∃ t, exec (.thermtrip sensor) s = .next t ∧
        keepsAllBut [] s t ∧ t = s) ∧
  (∀ (sensor : Nat) (value : Int) (s : State),
      sensor < 16 →
      ∃ t, exec (.sensorConversion sensor value) s = .next t ∧
        keepsAllBut [.lanes, .gauge, .fence, .events, .power] s t ∧ (t.power.sensors.get sensor).readings = (value :: (s.power.sensors.get
          sensor).readings).take 16 ∧ (t.power.sensors.get sensor).convAt = s.now ∧ (t.power.sensors.get sensor).noConv = false ∧
          (t.power.sensors.get sensor).badReading = decide (value < -880 ∨ 2400 < value) ∧ (value < -880 ∨ 2400 < value →
          (t.power.sensors.get sensor).faulty = true)) ∧
  (∀ (sensor : Nat) (s : State),
      sensor < 16 ∧ (s.power.sensors.get sensor).noConv = false →
      ∃ t, exec (.sensorConversionTimeout sensor) s = .next t ∧
        keepsAllBut [.clock, .free, .cmd, .hostMem, .pair, .fw, .mbs, .fence, .events, .stats, .power] s t ∧ (t.power.sensors.get
          sensor).noConv = true ∧ (t.power.sensors.get sensor).faulty = true ∧ (s.power.sensors.get sensor).convAt + 10 * msC ≤ t.now) ∧
  (∀ (sensor : Nat) (s : State),
      sensor < 16 ∧ (s.power.sensors.get sensor).noConv = true →
      ∃ t, exec (.sensorConversionTimeout sensor) s = .next t ∧
        keepsAllBut [] s t ∧ t = s) ∧
  (∀ (sensor : Nat) (n : Nat) (s : State),
      sensor < 16 ∧ (s.power.sensors.get sensor).faulty = true ∧ (s.power.sensors.get sensor).soundSince = some n ∧ n + 10 * secC ≤ s.now
        ∧ (s.power.sensors.get sensor).bad s.now = false →
      ∃ t, exec (.sensorRecovered sensor) s = .next t ∧
        keepsAllBut [.clock, .free, .cmd, .hostMem, .pair, .fw, .mbs, .fence, .events, .stats, .power] s t ∧ (t.power.sensors.get
          sensor).faulty = false ∧ t.hasRaised (tempSrc sensor) Ev.sensorRecovered = true) ∧
  (∀ (sensor : Nat) (s : State),
      sensor < 16 ∧ ((s.power.sensors.get sensor).faulty = false ∨ (s.power.sensors.get sensor).soundSince = none) →
      ∃ t, exec (.sensorRecovered sensor) s = .next t ∧
        keepsAllBut [] s t ∧ t = s)

/-- The boot steps and the OSPI recovery port: from the ROM's check to the configured unit. Where the boot stands at its stage, the ROM's
check reads the fuses and goes on or marks the fault; the two base images are checked, the better one taken, and recovery entered where
neither passes; the root clock's lock goes on to the next domain, and without it the domain ends and is tried again after a second; the core
load starts all fourteen cores and raises the epoch's restart. Out of its stage a boot step changes nothing. On the OSPI port the reads
answer identity, status and sensors; in recovery an erase starts and ends, a write enters its bytes into the erased copy, a commit checks it
(of a copy that is not erased the failed check is a free value, log entry 81); a bad command counts. (R531, R533, R534, R535, R538, R541) -/
def Obligations.BootRows : Prop :=
  (∀ (ok : Bool) (order serial : Nat) (strap : Bool) (hashes : List (Nat × List Byte)) (fullDebug : Bool) (s : State),
      s.power.stage = .por ∧ s.power.supplyHold = false ∧ s.power.romFault = false ∧ 1 ≤ order ∧ order ≤ 3 ∧ serial < 2 ^ 64 ∧ (hashes.any
        fun y => decide (8 ≤ y.1 ∨ y.2.length ≠ 48)) = false ∧ s.fuses.fusesRead = false →
      ∃ t, exec (.romCheck ok order serial strap hashes fullDebug) s = .next t ∧
        keepsAllBut [.fuses, .power] s t ∧ t.fuses.serial = serial ∧ t.fuses.orderCode = OrderCode.ofCode order ∧ t.fuses.pairStrap =
          strap ∧ t.fuses.fusesRead = true ∧ t.power = if ok then { s.power with stage := .xo } else { s.power with romFault := true }) ∧
  (∀ (ok : Bool) (order serial : Nat) (strap : Bool) (hashes : List (Nat × List Byte)) (fullDebug : Bool) (s : State),
      s.power.stage ≠ .por ∨ s.power.supplyHold = true ∨ s.power.romFault = true →
      ∃ t, exec (.romCheck ok order serial strap hashes fullDebug) s = .next t ∧
        keepsAllBut [] s t ∧ t = s) ∧
  (∀ (a b : Option (List Byte)) (s : State),
      s.power.stage ≠ .flash →
      ∃ t, exec (.flashReadDone a b) s = .next t ∧
        keepsAllBut [] s t ∧ t = s) ∧
  (∀ (a b : Option (List Byte)) (i : Option ImgInfo) (j : Option ImgInfo) (s : State),
      s.power.stage = .flash ∧ i = (a.bind fun l => (s.verifyImage true l).getRight?) ∧ j = (b.bind fun l => (s.verifyImage true
        l).getRight?) →
      ∃ t, exec (.flashReadDone a b) s = .next t ∧
        keepsAllBut [.glob, .lanes, .fw, .power] s t ∧ t.fw.copies = [i, j] ∧ (if i.isNone && j.isNone then t.power.stage = .recovery ∧
          t.power.resetting = none else if i.isNone || (j.isSome && decide (a ≠ b ∧ (i.getD {}).epoch < (j.getD {}).epoch)) then
          t.power.stage = .pd1 ∧ some t.fw.base_ = j ∧ t.fw.baseCopy = 1 ∧ t.glob.compat = (j.getD {}).compat ∧ t.power.copyNote = (if
          i.isNone then 2 else 1) else t.power.stage = .pd1 ∧ some t.fw.base_ = i ∧ t.fw.baseCopy = 0 ∧ t.glob.compat = (i.getD {}).compat
          ∧ t.power.copyNote = (if j.isNone then 2 else if a = b then 0 else 1))) ∧
  (∀ (s : State),
      s.power.rootRetry = none ∧ s.power.stage = .pd1 ∧ s.pdOn 1 = true ∧ s.power.resetting ≠ some 3 →
      ∃ t, exec .rootLock s = .next t ∧
        keepsAllBut [.clock, .free, .cmd, .hostMem, .glob, .lanes, .ports, .selv, .tdc, .gauge, .time, .ptp, .pair, .fw, .mbs, .fence,
          .events, .stats, .power] s t ∧ t.glob.rootRunning = true ∧ t.time.tickOn = true ∧ t.time.tick0 = s.now ∧ t.power.stage = .pd2 ∧
          t.power.rootFault = false) ∧
  (∀ (s : State),
      s.power.rootRetry = none ∧ s.power.stage = .pd1 ∧ s.pdOn 1 = true ∧ s.power.resetting = some 3 →
      ∃ t, exec .rootLock s = .next t ∧
        keepsAllBut [.glob] s t ∧ t.glob = { s.glob with rootRunning := true }) ∧
  (∀ (s : State),
      s.power.rootRetry = none ∧ (s.power.stage ≠ .pd1 ∨ s.pdOn 1 = false) →
      ∃ t, exec .rootLock s = .next t ∧
        keepsAllBut [] s t ∧ t = s) ∧
  (∀ (s : State),
      s.power.rootRetry = none ∧ (s.power.stage ≠ .pd1 ∨ s.pdOn 1 = false ∨ s.glob.rootRunning = true) →
      ∃ t, exec .rootLockTimeout s = .next t ∧
        keepsAllBut [] s t ∧ t = s) ∧
  (∀ (s : State),
      s.power.rootRetry = none ∧ s.power.stage = .pd1 ∧ s.pdOn 1 = true ∧ s.glob.rootRunning = false →
      ∃ t, exec .rootLockTimeout s = .next t ∧
        keepsAllBut [.clock, .free, .cmd, .hostMem, .glob, .lanes, .pair, .fw, .mbs, .fence, .events, .stats, .power] s t ∧ t.pdOn 1 =
          false ∧ t.power.rootFault = true ∧ t.power.rootRetry = some (t.now + secC) ∧ s.power.pd1At + 100 * msC ≤ t.now) ∧
  (∀ (s : State),
      s.power.stage = .pd2 ∧ s.pdOn 2 = true →
      ∃ t, exec .coreLoadDone s = .next t ∧
        keepsAllBut [.chan, .lanes, .modules, .fw, .fence, .events, .power] s t ∧ t.power =
          { s.power with stage := .config, copyNote := 0 } ∧ ((List.range 14).all fun n => decide ((t.fw.cores.get n).state = 1)) = true)
          ∧
  (∀ (s : State),
      s.power.stage ≠ .pd2 ∨ s.pdOn 2 = false →
      ∃ t, exec .coreLoadDone s = .next t ∧
        keepsAllBut [] s t ∧ t = s) ∧
  (∀ (s : State),
      ∃ t, exec .ospiReadId s = .next t ∧
        keepsAllBut [.power] s t ∧ t.power =
          { s.power with ospiArm := false, ospiOut := beBytes 2 0x6256 ++ beBytes 1 0xB0 ++ beBytes 1 s.fuses.orderCode.code }) ∧
  (∀ (s : State),
      ∃ t, exec .ospiReadStatus s = .next t ∧
        keepsAllBut [.free, .power] s t ∧ t.power.ospiOut.length = 16 ∧ t.power.ospiOut.take 3 = [BitVec.ofNat 8 s.power.stage.code,
          BitVec.ofNat 8 s.power.resetKind, BitVec.ofNat 8 s.power.resetCause] ∧ t.power.ospiArm = false ∧ t.free = s.free + 1) ∧
  (∀ (s : State),
      ∃ t, exec .ospiReadSensors s = .next t ∧
        keepsAllBut [.free, .power] s t ∧ t.power.ospiOut = (List.range 16).flatMap (fun n => if (s.power.sensors.get n).faulty then
          beBytes 2 0x8000 else beBytes 2 (unsignedOf 16 (s.reportMean n n))) ∧ t.free = s.free + 16) ∧
  (∀ (s : State),
      s.power.stage = .recovery →
      ∃ t, exec .recoveryErase s = .next t ∧
        keepsAllBut [.power] s t ∧ t.power =
          { s.power with ospiArm := false, ospiOut := [], recErased := false, recErasing := true, copy1 := [] }) ∧
  (∀ (s : State),
      s.power.stage ≠ .recovery →
      ∃ t, exec .recoveryErase s = .next t ∧
        keepsAllBut [.power] s t ∧ t.power = { s.power with ospiArm := false, ospiOut := [], ospiBad := satAdd 16 s.power.ospiBad 1 }) ∧
  (∀ (s : State),
      s.power.recErasing = true →
      ∃ t, exec .recoveryEraseDone s = .next t ∧
        keepsAllBut [.power] s t ∧ t.power = { s.power with recErasing := false, recErased := true }) ∧
  (∀ (s : State),
      s.power.recErasing = false →
      ∃ t, exec .recoveryEraseDone s = .next t ∧
        keepsAllBut [] s t ∧ t = s) ∧
  (∀ (offset : Nat) (bytes : List Byte) (s : State),
      s.power.stage ≠ .recovery ∨ s.power.recErased = false →
      ∃ t, exec (.recoveryWrite offset bytes) s = .next t ∧
        keepsAllBut [.power] s t ∧ t.power = { s.power with ospiArm := false, ospiOut := [], ospiBad := satAdd 16 s.power.ospiBad 1 }) ∧
  (∀ (offset : Nat) (bytes : List Byte) (s : State),
      s.power.stage = .recovery ∧ s.power.recErased = true ∧ bytes ≠ [] ∧ bytes.length ≤ 256 ∧ offset % 256 + bytes.length ≤ 256 ∧ offset
        + bytes.length ≤ 16777216 →
      ∃ t, exec (.recoveryWrite offset bytes) s = .next t ∧
        keepsAllBut [.power] s t ∧ t.power =
          { s.power with ospiArm := false, ospiOut := [], copy1 := (List.range bytes.length).foldl (fun (y : Tbl Nat) i => y.set (offset + i) (bytes.getD i 0).toNat) s.power.copy1 })
          ∧
  (∀ (offset : Nat) (bytes : List Byte) (s : State),
      s.power.stage = .recovery ∧ s.power.recErased = true ∧ (bytes = [] ∨ 256 < offset % 256 + bytes.length ∨ 16777216 < offset +
        bytes.length) →
      ∃ t, exec (.recoveryWrite offset bytes) s = .next t ∧
        keepsAllBut [.power] s t ∧ t.power = { s.power with ospiArm := false, ospiOut := [0xFF], ospiBad := satAdd 16 s.power.ospiBad 1 })
          ∧
  (∀ (s : State),
      s.power.stage = .recovery ∧ s.power.recErased = false →
      ∃ t, exec .recoveryCommit s = .next t ∧
        keepsAllBut [.free, .power] s t ∧ t.free = s.free + 1 ∧ t.power.recCheck = 1 + Config.freeNat s.free % 5) ∧
  (∀ (l : List Byte) (s : State),
      s.power.stage = .recovery ∧ s.power.recErased = true ∧ l = s.power.copy1Bytes (min 16777216 (ofBe (slice (s.power.copy1Bytes 28) 24
        4))) →
      ∃ t, exec .recoveryCommit s = .next t ∧
        keepsAllBut [.free, .glob, .chan, .lanes, .ports, .modules, .selv, .tdc, .gauge, .ref, .time, .ptp, .stitch, .parse, .fwd, .core,
          .contracts, .pair, .fw, .mbs, .fence, .events, .stats, .power, .host] s t ∧
          (match s.verifyImage true l with | .inr _ => t.power.resetCause = 4 ∧ t.power.stage = .por ∧ t.power.copy1 = s.power.copy1 ∧ t.lanes = [] ∧ t.fuses = s.fuses | .inl f => t.power = { s.power with ospiArm := false, ospiOut := [], recCheck := f.1 }))
          ∧
  (∀ (s : State),
      s.power.stage ≠ .recovery →
      ∃ t, exec .recoveryCommit s = .next t ∧
        keepsAllBut [.power] s t ∧ t.power = { s.power with ospiArm := false, ospiOut := [], ospiBad := satAdd 16 s.power.ospiBad 1 }) ∧
  (∀ (opcode kind : Nat) (s : State),
      (opcode = 0x66 ∨ opcode = 0x99) ∧ s.power.stage = .thermtrip ∨ opcode = 0x99 ∧ s.power.ospiArm = false →
      ∃ t, exec (.ospiReset opcode kind) s = .next t ∧
        keepsAllBut [.power] s t ∧ t.power = { s.power with ospiArm := false, ospiOut := [], ospiBad := satAdd 16 s.power.ospiBad 1 }) ∧
  (∀ (opcode kind : Nat) (s : State),
      opcode = 0x66 ∧ s.power.stage ≠ .thermtrip →
      ∃ t, exec (.ospiReset opcode kind) s = .next t ∧
        keepsAllBut [.power] s t ∧ t.power = { s.power with ospiArm := true, ospiOut := [] }) ∧
  (∀ (opcode kind : Nat) (s : State),
      opcode = 0x99 ∧ s.power.stage ≠ .thermtrip ∧ s.power.ospiArm = true ∧ kind < 2 ∧ s.resetsNow = [] →
      ∃ t, exec (.ospiReset opcode kind) s = .next t ∧
        keepsAllBut [.power] s t ∧ t.power =
          { s.power with ospiArm := false, ospiOut := [], resetPending := some (1 - kind, 3), resetAt := s.now }) ∧
  (∀ (s : State),
      ∃ t, exec .ospiCsTimeout s = .next t ∧
        keepsAllBut [.power] s t ∧ t.power = { s.power with ospiArm := false, ospiOut := [0xFF], ospiBad := satAdd 16 s.power.ospiBad 1 })

/-- Locks, losses, timers and module frames of the lanes and ports: what each does to the lane and port state. A swatch test that is not
locked locks; one that is locked loses lock and its counts take what was compared; a sweep ends with its results. A casting port whose lanes
(and rows, on a selvedge port) lock is PROVING for 2 ms. At the end of that window a frequency beyond the limit is FAULT, bad pointers
CASTING again or at the third time HELD, and else the port is UP with CAST_ON_DONE. The cast-on timer's expiry sends a casting port to FAULT
and counts; in PROVING it is remembered. The hold-down's end casts on anew, or is HELD under MANUAL. A loss of signal or lock, or a
frequency out of range, leaves a port that is UP in FAULT, or in HELD at the flap limit, and one in CASTING or PROVING casting again; a
BINDING port stays. The egress's end or the drain timeout starts a linger of 10 us, whose end is DOWN with BIND_OFF_DONE. An SGPIO frame is
taken by a module at the third equal sample, with MODULE_CHANGE. Out of these states a row changes nothing but what it reports. (R37, R40,
R41, R45, R46, R47, R55, R57, R59, R60) -/
def Obligations.LaneRows : Prop :=
  (∀ (lane : Nat) (s : State),
      lane < 264 ∧ (s.lanes.get lane).state = .swatch ∧ (s.lanes.get lane).swatch.locked = false →
      ∃ t, exec (.swatchLock lane) s = .next t ∧
        keepsAllBut [.lanes, .fence, .events] s t ∧ t.lanes = s.lanes.upd lane (fun y =>
          { y with energySince := if y.swatch.loopback then y.energySince else some (y.energySince.getD s.now), swatch := { y.swatch with locked := true } })
          ∧ t.hasRaised lane Ev.swatchLock = true) ∧
  (∀ (lane : Nat) (s : State),
      lane < 264 ∧ ((s.lanes.get lane).state ≠ .swatch ∨ (s.lanes.get lane).swatch.locked = true) →
      ∃ t, exec (.swatchLock lane) s = .next t ∧
        keepsAllBut [] s t ∧ t = s) ∧
  (∀ (lane bits errors : Nat) (s : State),
      lane < 264 ∧ errors ≤ bits ∧ (s.lanes.get lane).state = .swatch ∧ (s.lanes.get lane).swatch.locked = true →
      ∃ t, exec (.swatchLoss lane bits errors) s = .next t ∧
        keepsAllBut [.lanes, .fence, .events] s t ∧ t.lanes = s.lanes.upd lane (fun y =>
          { y with swatch := { y.swatch with locked := false, injDue := 0, bits := min (y.swatch.bits + max bits y.swatch.injDue) (2 ^ 48 - 1), errors := min (y.swatch.errors + max errors y.swatch.injDue) (2 ^ 48 - 1) } })
          ∧ t.hasRaised lane Ev.swatchLoss = true) ∧
  (∀ (lane bits errors : Nat) (s : State),
      lane < 264 ∧ errors ≤ bits ∧ ((s.lanes.get lane).state ≠ .swatch ∨ (s.lanes.get lane).swatch.locked = false) →
      ∃ t, exec (.swatchLoss lane bits errors) s = .next t ∧
        keepsAllBut [] s t ∧ t = s) ∧
  (∀ (lane : Nat) (counts : List Nat) (s : State),
      lane < 264 ∧ counts.length = 1024 ∧ (counts.any fun n => decide (65535 < n)) = false ∧ (s.lanes.get lane).swatch.sweeping = true →
      ∃ t, exec (.sweepDone lane counts) s = .next t ∧
        keepsAllBut [.clock, .free, .cmd, .hostMem, .lanes, .pair, .fw, .mbs, .fence, .events, .stats] s t ∧ t.lanes = s.lanes.upd lane
          (fun y => { y with swatch := { y.swatch with sweeping := false, sweepDone := true, sweepCounts := counts } }) ∧ (s.lanes.get
          lane).swatch.sweepEnd ≤ t.now ∧ t.hasRaised lane Ev.sweepDone = true) ∧
  (∀ (lane : Nat) (counts : List Nat) (s : State),
      lane < 264 ∧ counts.length = 1024 ∧ (counts.any fun n => decide (65535 < n)) = false ∧ (s.lanes.get lane).swatch.sweeping = false →
      ∃ t, exec (.sweepDone lane counts) s = .next t ∧
        keepsAllBut [] s t ∧ t = s) ∧
  (∀ (port : Nat) (s : State),
      (portNamed port = true ∧ (s.ports.get port).configured = true ∧ s.portState port = .casting ∧ ((s.ports.get port).isSelvedge = true
        → (s.selv.get port).rowState = .locked)) →
      ∃ t, exec (.laneLocked port) s = .next t ∧
        keepsAllBut [.lanes, .ports] s t ∧ t.ports = s.ports.upd port (fun y => { y with provingEnd := some (s.now + 2 * msC) }) ∧
          t.portIn port .proving = true ∧ ((s.portLanes port).all fun l => (t.lanes.get l).energySince.isSome && (t.lanes.get l).tapOn) =
          true) ∧
  (∀ (port : Nat) (s : State),
      portNamed port = true ∧ ((s.ports.get port).configured = false ∨ s.portState port ≠ .casting ∨ (s.ports.get port).isSelvedge = true
        ∧ (s.selv.get port).rowState ≠ .locked) →
      ∃ t, exec (.laneLocked port) s = .next t ∧
        keepsAllBut [] s t ∧ t = s) ∧
  (∀ (port : Nat) (n : Nat) (s : State),
      portNamed port = true ∧ (s.ports.get port).castTimer = some n ∧ s.portState port = .casting ∧ n ≤ s.now ∧ port < 256 →
      ∃ t, exec (.castOnTimerExpiry port) s = .next t ∧
        keepsAllBut [.clock, .free, .cmd, .hostMem, .fuses, .glob, .chan, .lanes, .ports, .modules, .selv, .tdc, .gauge, .ref, .time,
          .ptp, .stitch, .parse, .fwd, .core, .contracts, .pair, .fw, .mbs, .fence, .events, .stats, .power] s t ∧ t.portIn port .fault =
          true ∧ (t.ports.get port).castTimer = none ∧ (t.ports.get port).castTimeouts = inc32 (s.ports.get port).castTimeouts ∧
          (t.ports.get port).holdTimer = some (s.now + cyclesOf (s.ports.get port).holdDown)) ∧
  (∀ (port : Nat) (n : Nat) (s : State),
      portNamed port = true ∧ 256 ≤ port ∧ (s.ports.get port).castTimer = some n ∧ s.portState port = .casting ∧ n ≤ s.now ∧ s.pdOn 1 =
        true →
      ∃ t, exec (.castOnTimerExpiry port) s = .next t ∧
        keepsAllBut [.clock, .free, .cmd, .hostMem, .fuses, .glob, .chan, .lanes, .ports, .modules, .selv, .tdc, .gauge, .ref, .time,
          .ptp, .stitch, .parse, .fwd, .core, .contracts, .pair, .fw, .mbs, .fence, .events, .stats, .power] s t ∧ t.pair.castTry =
          (s.pair.castTry + 1) % 3 ∧ t.portIn (linkForm ((s.pair.castTry + 1) % 3)).1 .casting = true) ∧
  (∀ (port : Nat) (n : Nat) (s : State),
      portNamed port = true ∧ (s.ports.get port).castTimer = some n ∧ s.portState port = .proving →
      ∃ t, exec (.castOnTimerExpiry port) s = .next t ∧
        keepsAllBut [.clock, .free, .cmd, .hostMem, .fuses, .glob, .chan, .lanes, .ports, .modules, .selv, .tdc, .gauge, .ref, .time,
          .ptp, .stitch, .parse, .fwd, .core, .contracts, .pair, .fw, .mbs, .fence, .events, .stats, .power] s t ∧ (t.ports.get
          port).castTimer = none ∧ (t.ports.get port).castExpired = true ∧ (t.ports.get port).castTimeouts = inc32 (s.ports.get
          port).castTimeouts ∧ n ≤ t.now ∧ t.lanes = s.lanes) ∧
  (∀ (port : Nat) (s : State),
      portNamed port = true ∧ (s.ports.get port).castTimer = none →
      ∃ t, exec (.castOnTimerExpiry port) s = .next t ∧
        keepsAllBut [] s t ∧ t = s) ∧
  (∀ (port : Nat) (pointersOk : Bool) (offsets deskews : List Int) (n : Nat) (s : State),
      portNamed port = true ∧ (s.ports.get port).provingEnd = some n ∧ s.portState port = .proving ∧ n ≤ s.now ∧ offsets.length =
        (s.ports.get port).width ∧ deskews.length = (s.ports.get port).width →
      (offsets.any fun o => decide (s.freqLimit port < o.natAbs)) = true →
      ∃ t, exec (.provingWindowEnd port pointersOk offsets deskews) s = .next t ∧
        keepsAllBut [.clock, .free, .cmd, .hostMem, .fuses, .glob, .chan, .lanes, .ports, .modules, .selv, .tdc, .gauge, .ref, .time,
          .ptp, .stitch, .parse, .fwd, .core, .contracts, .pair, .fw, .mbs, .fence, .events, .stats, .power] s t ∧ t.portIn port .fault =
          true ∧ (t.ports.get port).holdTimer = some (s.now + cyclesOf (s.ports.get port).holdDown) ∧ ((s.portLanes port).all fun l =>
          decide ((t.lanes.get l).lastCause = Ev.freqRange)) = true) ∧
  (∀ (port : Nat) (pointersOk : Bool) (offsets deskews : List Int) (n : Nat) (s : State),
      portNamed port = true ∧ (s.ports.get port).provingEnd = some n ∧ s.portState port = .proving ∧ n ≤ s.now ∧ offsets.length =
        (s.ports.get port).width ∧ deskews.length = (s.ports.get port).width →
      (offsets.any fun o => decide (s.freqLimit port < o.natAbs)) = false ∧ pointersOk = true →
      ∃ t, exec (.provingWindowEnd port pointersOk offsets deskews) s = .next t ∧
        keepsAllBut [.clock, .free, .cmd, .hostMem, .fuses, .glob, .chan, .lanes, .ports, .modules, .selv, .tdc, .gauge, .ref, .time,
          .ptp, .stitch, .parse, .fwd, .core, .contracts, .pair, .fw, .mbs, .fence, .events, .stats, .power] s t ∧ t.portIn port .up =
          true ∧ (t.ports.get port).castTimer = none ∧ (t.ports.get port).pointerFails = 0 ∧ ((s.portLanes port).all fun l => decide
          ((t.lanes.get l).lastCause = Ev.castOnDone)) = true) ∧
  (∀ (port : Nat) (pointersOk : Bool) (offsets deskews : List Int) (n : Nat) (s : State),
      portNamed port = true ∧ (s.ports.get port).provingEnd = some n ∧ s.portState port = .proving ∧ n ≤ s.now ∧ offsets.length =
        (s.ports.get port).width ∧ deskews.length = (s.ports.get port).width →
      (offsets.any fun o => decide (s.freqLimit port < o.natAbs)) = false ∧ pointersOk = false →
      ∃ t, exec (.provingWindowEnd port pointersOk offsets deskews) s = .next t ∧
        keepsAllBut [.clock, .free, .cmd, .hostMem, .fuses, .glob, .chan, .lanes, .ports, .modules, .selv, .tdc, .gauge, .ref, .time,
          .ptp, .stitch, .parse, .fwd, .core, .contracts, .pair, .fw, .mbs, .fence, .events, .stats, .power] s t ∧ (t.ports.get
          port).pointerFails = (s.ports.get port).pointerFails + 1 ∧ t.portIn port (if 2 ≤ (s.ports.get port).pointerFails then .held else
          if (s.ports.get port).castExpired then .fault else .casting) = true) ∧
  (∀ (port : Nat) (pointersOk : Bool) (offsets deskews : List Int) (s : State),
      portNamed port = true ∧ (s.ports.get port).provingEnd = none ∧ offsets.length = (s.ports.get port).width ∧ deskews.length =
        (s.ports.get port).width →
      ∃ t, exec (.provingWindowEnd port pointersOk offsets deskews) s = .next t ∧
        keepsAllBut [] s t ∧ t = s) ∧
  (∀ (lane : Nat) (s : State),
      lane < 264 ∧ s.portOf lane = none →
      ∃ t, exec (.los lane) s = .next t ∧
        keepsAllBut [.lanes, .tdc] s t ∧ t.lanes = (s.lanes.upd lane fun y => { y with energySince := none }).upd lane (fun y =>
          { y with tapOn := false }) ∧ (t.tdc.chans.get lane).winBad = true) ∧
  (∀ (lane : Nat) (q : Nat) (s : State),
      lane < 264 ∧ s.portOf lane = some q ∧ (s.lanes.get lane).losPending = false ∧ s.portState q = .up →
      ∃ t, exec (.los lane) s = .next t ∧
        keepsAllBut [.clock, .free, .cmd, .hostMem, .fuses, .glob, .chan, .lanes, .ports, .modules, .selv, .tdc, .gauge, .ref, .time,
          .ptp, .stitch, .parse, .fwd, .core, .contracts, .pair, .fw, .mbs, .fence, .events, .stats, .power] s t ∧ (t.lanes.get
          lane).energySince = none ∧ (t.lanes.get lane).tapOn = false ∧ (t.ports.get q).flaps = s.now :: recent (s.ports.get q).flaps
          s.now (cyclesOf (s.ports.get q).flapWindow) ∧ t.portIn q (if (s.ports.get q).flapLimit ≤ (recent (s.ports.get q).flaps s.now
          (cyclesOf (s.ports.get q).flapWindow)).length + 1 then .held else .fault) = true) ∧
  (∀ (lane : Nat) (q : Nat) (s : State),
      lane < 264 ∧ s.portOf lane = some q ∧ (s.lanes.get lane).losPending = false ∧ (s.portState q = .casting ∨ s.portState q = .proving)
        →
      ∃ t, exec (.los lane) s = .next t ∧
        keepsAllBut [.clock, .free, .cmd, .hostMem, .fuses, .glob, .chan, .lanes, .ports, .modules, .selv, .tdc, .gauge, .ref, .time,
          .ptp, .stitch, .parse, .fwd, .core, .contracts, .pair, .fw, .mbs, .fence, .events, .stats, .power] s t ∧ (t.lanes.get
          lane).energySince = none ∧ (t.lanes.get lane).tapOn = false ∧ t.portIn q (if (s.ports.get q).castExpired then .fault else
          .casting) = true ∧ (t.ports.get q).provingEnd = none ∧ ((s.portLanes q).all fun l => decide ((t.lanes.get l).lastCause =
          Ev.los)) = true) ∧
  (∀ (lane : Nat) (q : Nat) (s : State),
      lane < 264 ∧ s.portOf lane = some q ∧ (s.lanes.get lane).losPending = false ∧ s.portState q ≠ .up ∧ s.portState q ≠ .casting ∧
        s.portState q ≠ .proving →
      ∃ t, exec (.los lane) s = .next t ∧
        keepsAllBut [.clock, .free, .cmd, .hostMem, .fuses, .glob, .chan, .lanes, .ports, .modules, .selv, .tdc, .gauge, .ref, .time,
          .ptp, .stitch, .parse, .fwd, .core, .contracts, .pair, .fw, .mbs, .fence, .events, .stats, .power] s t ∧ (t.lanes.get
          lane).energySince = none ∧ (t.lanes.get lane).tapOn = false ∧ t.ports = s.ports ∧ (t.lanes.get lane).state = (s.lanes.get
          lane).state) ∧
  (∀ (lane : Nat) (q : Nat) (s : State),
      lane < 264 ∧ s.portOf lane = some q ∧ (s.lanes.get lane).losPending = true →
      ∃ t, exec (.los lane) s = .next t ∧
        keepsAllBut [.lanes, .tdc, .fence, .events] s t ∧ (t.lanes.get lane).energySince = none ∧ t.hasRaised (portSrc q) Ev.los = true ∧
          ((s.portLanes q).all fun l => !(t.lanes.get l).losPending && decide ((t.lanes.get l).lastCause = Ev.los)) = true) ∧
  (∀ (lane : Nat) (kind : LossKind) (q : Nat) (s : State),
      lane < 264 ∧ s.portOf lane = some q ∧ s.portState q = .up →
      ∃ t, exec (.lockLoss lane kind) s = .next t ∧
        keepsAllBut [.clock, .free, .cmd, .hostMem, .fuses, .glob, .chan, .lanes, .ports, .modules, .selv, .tdc, .gauge, .ref, .time,
          .ptp, .stitch, .parse, .fwd, .core, .contracts, .pair, .fw, .mbs, .fence, .events, .stats, .power] s t ∧ t.portIn q (if
          (s.ports.get q).flapLimit ≤ (recent (s.ports.get q).flaps s.now (cyclesOf (s.ports.get q).flapWindow)).length + 1 then .held
          else .fault) = true ∧ (t.ports.get q).flaps = s.now :: recent (s.ports.get q).flaps s.now (cyclesOf (s.ports.get q).flapWindow)
          ∧ (t.lanes.get lane).lockFlags = 0 ∧ (t.lanes.get lane).losPending = true) ∧
  (∀ (lane : Nat) (kind : LossKind) (q : Nat) (s : State),
      lane < 264 ∧ s.portOf lane = some q ∧ (s.portState q = .casting ∨ s.portState q = .proving) →
      ∃ t, exec (.lockLoss lane kind) s = .next t ∧
        keepsAllBut [.clock, .free, .cmd, .hostMem, .fuses, .glob, .chan, .lanes, .ports, .modules, .selv, .tdc, .gauge, .ref, .time,
          .ptp, .stitch, .parse, .fwd, .core, .contracts, .pair, .fw, .mbs, .fence, .events, .stats, .power] s t ∧ t.portIn q (if
          (s.ports.get q).castExpired then .fault else .casting) = true ∧ (t.ports.get q).provingEnd = none ∧ (t.lanes.get lane).lockFlags
          = 0 ∧ ((s.portLanes q).all fun l => decide ((t.lanes.get l).lastCause = Ev.lockLoss)) = true) ∧
  (∀ (lane : Nat) (kind : LossKind) (s : State),
      lane < 264 ∧
        (match s.portOf lane with | none => true | some q => decide (s.portState q ≠ .up ∧ s.portState q ≠ .casting ∧ s.portState q ≠ .proving))
        = true →
      ∃ t, exec (.lockLoss lane kind) s = .next t ∧
        keepsAllBut [.clock, .free, .cmd, .hostMem, .fuses, .glob, .chan, .lanes, .ports, .modules, .selv, .tdc, .gauge, .ref, .time,
          .ptp, .stitch, .parse, .fwd, .core, .contracts, .pair, .fw, .mbs, .fence, .events, .stats, .power] s t ∧ t.ports = s.ports ∧
          (t.lanes.get lane).state = (s.lanes.get lane).state ∧ (t.lanes.get lane).tapOn = false ∧ (LossKind.bit kind ≠ 0 → (t.lanes.get
          lane).lockFlags / LossKind.bit kind % 2 = 0)) ∧
  (∀ (lane : Nat) (offset : Int) (s : State),
      lane < 264 ∧
        (match s.portOf lane with | none => true | some q => decide (offset.natAbs ≤ s.freqLimit q ∨ s.portState q ≠ .up ∧ s.portState q ≠ .proving))
        = true →
      ∃ t, exec (.freqRange lane offset) s = .next t ∧
        keepsAllBut [.lanes] s t ∧ t.lanes = s.lanes.upd lane fun y => { y with freqOff := offset }) ∧
  (∀ (lane : Nat) (offset : Int) (q : Nat) (s : State),
      lane < 264 ∧ s.portOf lane = some q ∧ s.freqLimit q < offset.natAbs ∧ s.portState q = .up →
      ∃ t, exec (.freqRange lane offset) s = .next t ∧
        keepsAllBut [.clock, .free, .cmd, .hostMem, .fuses, .glob, .chan, .lanes, .ports, .modules, .selv, .tdc, .gauge, .ref, .time,
          .ptp, .stitch, .parse, .fwd, .core, .contracts, .pair, .fw, .mbs, .fence, .events, .stats, .power] s t ∧ (t.lanes.get
          lane).freqOff = offset ∧ t.portIn q (if (s.ports.get q).flapLimit ≤ (recent (s.ports.get q).flaps s.now (cyclesOf (s.ports.get
          q).flapWindow)).length + 1 then .held else .fault) = true) ∧
  (∀ (lane : Nat) (offset : Int) (q : Nat) (s : State),
      lane < 264 ∧ s.portOf lane = some q ∧ s.freqLimit q < offset.natAbs ∧ s.portState q = .proving →
      ∃ t, exec (.freqRange lane offset) s = .next t ∧
        keepsAllBut [.clock, .free, .cmd, .hostMem, .fuses, .glob, .chan, .lanes, .ports, .modules, .selv, .tdc, .gauge, .ref, .time,
          .ptp, .stitch, .parse, .fwd, .core, .contracts, .pair, .fw, .mbs, .fence, .events, .stats, .power] s t ∧ (t.lanes.get
          lane).freqOff = offset ∧ t.portIn q .fault = true ∧ (t.ports.get q).holdTimer = some (s.now + cyclesOf (s.ports.get q).holdDown)
          ∧ (t.lanes.get lane).lastCause = Ev.freqRange) ∧
  (∀ (port : Nat) (n : Nat) (s : State),
      portNamed port = true ∧ (s.ports.get port).holdTimer = some n ∧ s.portState port = .fault ∧ (s.ports.get port).recastManual = true ∧
        n ≤ s.now →
      ∃ t, exec (.holdDownExpiry port) s = .next t ∧
        keepsAllBut [.clock, .free, .cmd, .hostMem, .lanes, .ports, .selv, .tdc, .ptp, .pair, .fw, .mbs, .fence, .events, .stats] s t ∧
          t.portIn port .held = true ∧ (t.ports.get port).holdTimer = none) ∧
  (∀ (port : Nat) (n : Nat) (s : State),
      portNamed port = true ∧ (s.ports.get port).holdTimer = some n ∧ s.portState port = .fault ∧ (s.ports.get port).recastManual = false
        ∧ n ≤ s.now ∧ s.tableServes port = true →
      ∃ t, exec (.holdDownExpiry port) s = .next t ∧
        keepsAllBut [.clock, .free, .cmd, .hostMem, .lanes, .ports, .selv, .tdc, .ptp, .pair, .fw, .mbs, .fence, .events, .stats] s t ∧
          t.portIn port .casting = true ∧ (t.ports.get port).holdTimer = none ∧ (t.ports.get port).castTimer = some (s.now + cyclesOf
          (s.ports.get port).castTimeout)) ∧
  (∀ (port : Nat) (s : State),
      portNamed port = true ∧ (s.ports.get port).holdTimer = none →
      ∃ t, exec (.holdDownExpiry port) s = .next t ∧
        keepsAllBut [] s t ∧ t = s) ∧
  (∀ (port : Nat) (s : State),
      port < 256 ∧ s.portState port = .binding ∧ (s.ports.get port).drainTimer.isSome = true ∧ s.egressIdle port = true →
      ∃ t, exec (.egressQueuesEmpty port) s = .next t ∧
        keepsAllBut [.free, .ports, .time, .core, .contracts, .pair, .fence, .events, .stats] s t ∧ (t.ports.get port).drainTimer = none ∧
          (t.ports.get port).lingerTimer = some (t.now + 10 * usC) ∧ t.lanes = s.lanes) ∧
  (∀ (port : Nat) (s : State),
      port < 256 ∧ (s.portState port ≠ .binding ∨ (s.ports.get port).drainTimer = none ∨ s.egressIdle port = false) →
      ∃ t, exec (.egressQueuesEmpty port) s = .next t ∧
        keepsAllBut [] s t ∧ t = s) ∧
  (∀ (port : Nat) (n : Nat) (s : State),
      port < 256 ∧ s.portState port = .binding ∧ (s.ports.get port).drainTimer = some n →
      ∃ t, exec (.drainTimeout port) s = .next t ∧
        keepsAllBut [.clock, .free, .cmd, .hostMem, .ports, .time, .core, .contracts, .pair, .fw, .mbs, .fence, .events, .stats] s t ∧
          (t.ports.get port).drainTimer = none ∧ (t.ports.get port).lingerTimer = some (t.now + 10 * usC) ∧ n ≤ t.now ∧ t.lanes = s.lanes)
          ∧
  (∀ (port : Nat) (s : State),
      port < 256 ∧ (s.portState port ≠ .binding ∨ (s.ports.get port).drainTimer = none) →
      ∃ t, exec (.drainTimeout port) s = .next t ∧
        keepsAllBut [] s t ∧ t = s) ∧
  (∀ (port : Nat) (n : Nat) (s : State),
      port < 256 ∧ s.portState port = .binding ∧ (s.ports.get port).lingerTimer = some n ∧ n ≤ s.now →
      ∃ t, exec (.bindOffLingerEnd port) s = .next t ∧
        keepsAllBut [.clock, .free, .cmd, .hostMem, .lanes, .ports, .selv, .tdc, .time, .parse, .core, .contracts, .pair, .fw, .mbs,
          .fence, .events, .stats] s t ∧ t.portIn port .down = true ∧ t.events.pending.getLsbD (portSrc port) = true ∧ (t.ports.get
          port).lingerTimer = none ∧ (t.ports.get port).bindWait = []) ∧
  (∀ (port : Nat) (s : State),
      port < 256 ∧ (s.portState port ≠ .binding ∨ (s.ports.get port).lingerTimer = none) →
      ∃ t, exec (.bindOffLingerEnd port) s = .next t ∧
        keepsAllBut [] s t ∧ t = s) ∧
  (∀ (bits : List Nat) (n : Nat) (m : Module) (b : Nat) (k : Nat) (s : State),
      (bits.any fun b => decide (3 < b)) = false ∧ s.modules = [(n, m)] ∧ b = bits.getD n 0 ∧ k = (if b = m.lastRaw then min 3 (m.rawCount
        + 1) else 1) →
      ∃ t, exec (.sgpioFrame bits) s = .next t ∧
        keepsAllBut [.modules, .fence, .events, .power] s t ∧ t.power = { s.power with sgpioStalled := false } ∧ (t.modules.get n).lastRaw
          = b ∧ (t.modules.get n).rawCount = k ∧ (t.modules.get n).present = (if k = 3 then b.testBit 0 else m.present) ∧ (t.modules.get
          n).intr = (if k = 3 then b.testBit 1 else m.intr) ∧ (k = 3 → (b.testBit 0 ≠ m.present ∨ b.testBit 1 ≠ m.intr) → (m.lanes.all fun
          l => t.events.pending.getLsbD l || decide (1024 ≤ l)) = true)) ∧
  (∀ (s : State),
      s.power.sgpioStalled = false →
      ∃ t, exec .sgpioStall s = .next t ∧
        keepsAllBut [.fence, .events, .power] s t ∧ t.power = { s.power with sgpioStalled := true } ∧ t.events.pending.getLsbD 832 = true)
          ∧
  (∀ (s : State),
      s.power.sgpioStalled = true →
      ∃ t, exec .sgpioStall s = .next t ∧
        keepsAllBut [] s t ∧ t = s)

/-- Blocks, slots, arrivals, edges and issues of the stitch hardware. A selvedge port that hunts becomes CONFIRM at a slot block of index 0
that passes; one whose rows are LOCKED counts a stitch that fails its test and a good one by its type, and loses its rows at the fourth
failure of index 0, a loss of lock; a port that does not receive changes nothing. A selvedge port without an accepted pair for its ranging
timeout is LINK_STALE, in CASTING, PROVING, UP and BINDING (model's choice, log entry 102). A lattice slot counts on; a stitch that arrives
joins its queues when its instant has come. An edge at an event input that is not armed, is open, of the other polarity or out of service
makes no stamp; one within the blanking is counted as blanked; one inside the gate is stamped and counted as a hit; an edge at a reference
input that is armed is stamped for its slot, at an MCLK output or XO_IN for its monitor. A timed stitch enters its queues; a phase set and a
beacon are issued where they are due. (R76, R77, R80, R82, R88, R89, R95, R241, R242, R246, R259) -/
def Obligations.StitchRows : Prop :=
  (∀ (port index : Nat) (ctl : Bool) (word tick sub : Nat) (s : State),
      port < 256 ∧ [0, 64, 128, 192].contains index = true ∧ s.time.tick0 + tick ≤ s.now ∧ s.hearsRows port = false →
      ∃ t, exec (.stitchBlockRx port index ctl word tick sub) s = .next t ∧
        keepsAllBut [] s t ∧ t = s) ∧
  (∀ (port index : Nat) (ctl : Bool) (word tick sub : Nat) (s : State),
      port < 256 ∧ [0, 64, 128, 192].contains index = true ∧ s.time.tick0 + tick ≤ s.now ∧ s.hearsRows port = true ∧ (s.selv.get
        port).rowState = .hunt →
      ∃ t, exec (.stitchBlockRx port index ctl word tick sub) s = .next t ∧
        keepsAllBut [.selv] s t ∧ (t.selv.get port).rowState = (if index = 0 ∧ slotTest ctl 0 word = true then .confirm else .hunt) ∧
          (index = 0 → slotTest ctl 0 word = true → (t.selv.get port).confirmCount = 0)) ∧
  (∀ (port index : Nat) (ctl : Bool) (word tick sub : Nat) (s : State),
      port < 256 ∧ index = 0 ∧ s.time.tick0 + tick ≤ s.now ∧ s.hearsRows port = true ∧ (s.selv.get port).rowState = .locked ∧ slotTest ctl
        0 word = false ∧ (s.selv.get port).fail0 = 3 →
      ∃ t, exec (.stitchBlockRx port index ctl word tick sub) s = .next t ∧
        keepsAllBut [.clock, .free, .cmd, .hostMem, .lanes, .ports, .selv, .tdc, .ref, .time, .ptp, .stitch, .parse, .core, .contracts,
          .pair, .fw, .mbs, .fence, .events, .stats] s t ∧ (t.selv.get port).rowState = .hunt ∧ (s.portState port = .proving → t.portState
          port ≠ .proving) ∧ (s.portState port = .up → t.portState port ≠ .up)) ∧
  (∀ (port index : Nat) (ctl : Bool) (word tick sub : Nat) (f : Nat) (s : State),
      port < 256 ∧ [0, 64, 128, 192].contains index = true ∧ s.time.tick0 + tick ≤ s.now ∧ s.hearsRows port = true ∧ (s.selv.get
        port).rowState = .locked →
      (slotPositions (s.selv.get port).slots).contains index = true ∧ f = stitchFails ctl index word ∧ f ≠ 0 ∧ (slotTest ctl index word =
        true ∨ (if index = 0 then (s.selv.get port).fail0 < 3 else (s.selv.get port).failPos.getD (index / 64 - 1) 0 < 3)) →
      ∃ t, exec (.stitchBlockRx port index ctl word tick sub) s = .next t ∧
        keepsAllBut [.selv, .stitch, .fence, .events] s t ∧ (t.selv.get port).rowState = .locked ∧ (t.selv.get port).cSlotSync = (if f = 1
          then inc32 (s.selv.get port).cSlotSync else (s.selv.get port).cSlotSync) ∧ (t.selv.get port).cCrc = (if f = 2 then inc32
          (s.selv.get port).cCrc else (s.selv.get port).cCrc) ∧ (t.selv.get port).cType = (if f = 3 then inc32 (s.selv.get port).cType
          else (s.selv.get port).cType) ∧ (t.selv.get port).cRange = (if f = 4 then inc32 (s.selv.get port).cRange else (s.selv.get
          port).cRange)) ∧
  (∀ (port index : Nat) (ctl : Bool) (word tick sub : Nat) (k : Nat) (s : State),
      port < 256 ∧ [0, 64, 128, 192].contains index = true ∧ s.time.tick0 + tick ≤ s.now ∧ s.hearsRows port = true ∧ (s.selv.get
        port).rowState = .locked →
      (slotPositions (s.selv.get port).slots).contains index = true ∧ stitchFails ctl index word = 0 ∧ k = word / 256 / 2 ^ 52 →
      ∃ t, exec (.stitchBlockRx port index ctl word tick sub) s = .next t ∧
        keepsAllBut [.clock, .free, .cmd, .hostMem, .lanes, .ports, .selv, .tdc, .ref, .time, .ptp, .stitch, .parse, .core, .contracts,
          .pair, .fw, .mbs, .fence, .events, .stats] s t ∧ (t.stitch.ports.get port).rxCounts.get k = inc32 ((s.stitch.ports.get
          port).rxCounts.get k) ∧ (t.selv.get port).rowState = .locked ∧ (k = 5 → (t.selv.get port).tensionRx = word / 256 % 2 ^ 40 / 2 ^
          36)) ∧
  (∀ (port : Nat) (s : State),
      port < 256 ∧ (s.ports.get port).configured = true ∧ (s.ports.get port).isSelvedge = true ∧ (s.portState port).ranges = true ∧
        (s.selv.get port).linkStale = false →
      ∃ t, exec (.rangeTimeout port) s = .next t ∧
        keepsAllBut [.clock, .free, .cmd, .hostMem, .selv, .ptp, .pair, .fw, .mbs, .fence, .events, .stats] s t ∧ (t.selv.get
          port).linkStale = true ∧ (t.selv.get port).timeDue = [] ∧ (s.selv.get port).rangeEnd ≤ t.now ∧ t.hasRaised (portSrc port)
          Ev.rangeTimeout = true) ∧
  (∀ (port : Nat) (s : State),
      port < 256 ∧ ((s.ports.get port).configured = false ∨ (s.ports.get port).isSelvedge = false ∨ (s.portState port).ranges = false ∨
        (s.selv.get port).linkStale = true) →
      ∃ t, exec (.rangeTimeout port) s = .next t ∧
        keepsAllBut [] s t ∧ t = s) ∧
  (∀ (group : Nat) (s : State),
      group < 6 ∧ s.time.tickOn = true →
      ∃ t, exec (.stitchSlot group) s = .next t ∧
        keepsAllBut [.clock, .free, .cmd, .hostMem, .selv, .ptp, .stitch, .pair, .fw, .mbs, .fence, .events, .stats] s t ∧
          t.stitch.nextSlot.get group = max (s.stitch.nextSlot.get group) (ceilDiv (instQ s.tick 0) (groupQ group)) + 1 ∧ s.now ≤ t.now) ∧
  (∀ (group : Nat) (s : State),
      group < 6 ∧ s.time.tickOn = false →
      ∃ t, exec (.stitchSlot group) s = .next t ∧
        keepsAllBut [] s t ∧ t = s) ∧
  (∀ (q : QStitch) (l : List QStitch) (s : State),
      s.stitch.arriving = q :: l ∧ s.time.tickOn = true ∧ s.time.tick0 + q.arrive ≤ s.now →
      ∃ t, exec .stitchArrival s = .next t ∧
        keepsAllBut [.clock, .free, .cmd, .hostMem, .stitch, .pair, .fw, .mbs, .fence, .events, .stats] s t ∧ t.stitch.arriving = (q ::
          l).filter (fun y => decide (s.tick < y.arrive)) ∧ (l = [] → ((s.latticesOf (s.stitchPorts q.target q.notPort)).all fun n =>
          decide ((s.stitch.queues.get (8 * n + stitchClass q.type)).length < 64 → t.stitch.queues.get (8 * n + stitchClass q.type) =
          s.stitch.queues.get (8 * n + stitchClass q.type) ++ [q])) = true)) ∧
  (∀ (s : State),
      s.stitch.arriving = [] →
      ∃ t, exec .stitchArrival s = .next t ∧
        keepsAllBut [] s t ∧ t = s) ∧
  (∀ (n : Nat) (s : State),
      nextAfter s.tick (s.stitch.queues.flatMap fun q => q.2.map (·.ready)) = some n ∧ s.time.tickOn = true →
      ∃ t, exec .stitchReady s = .next t ∧
        keepsAllBut [.clock, .free, .cmd, .hostMem, .pair, .fw, .mbs, .fence, .events, .stats] s t ∧ t.now = max s.now (s.time.tick0 + n))
          ∧
  (∀ (s : State),
      nextAfter s.tick (s.stitch.queues.flatMap fun q => q.2.map (·.ready)) = none →
      ∃ t, exec .stitchReady s = .next t ∧
        keepsAllBut [] s t ∧ t = s) ∧
  (∀ (ch tick phase fine : Nat) (falling : Bool) (y : TdcChan) (s : State),
      280 ≤ ch ∧ ch < 312 ∧ s.time.tick0 + tick ≤ s.now ∧ y = s.tdc.chans.get ch →
      y.enable = false ∨ y.inputOpen = true ∨ (y.edge ≠ 2 ∧ (if falling then y.edge ≠ 1 else y.edge = 1)) ∨ s.inService ch = false →
      ∃ t, exec (.evtEdge ch tick phase fine falling) s = .next t ∧
        keepsAllBut [.tdc] s t ∧ t.tdc = { s.tdc with chans := s.tdc.chans.set ch { y with level := !falling && !y.inputOpen } }) ∧
  (∀ (ch tick phase fine : Nat) (falling : Bool) (y : TdcChan) (l : Nat) (s : State),
      280 ≤ ch ∧ ch < 312 ∧ s.time.tick0 + tick ≤ s.now ∧ y = s.tdc.chans.get ch ∧ y.enable = true ∧ y.inputOpen = false ∧ (y.edge = 2 ∨
        (if falling then y.edge = 1 else y.edge ≠ 1)) ∧ s.inService ch = true →
      y.lastEdge = some l ∧ tick * 65536 + s.centreOf ch (phase % 16 * 32 + fine % 32) < l + y.blanking →
      ∃ t, exec (.evtEdge ch tick phase fine falling) s = .next t ∧
        keepsAllBut [.tdc, .events] s t ∧ (t.tdc.chans.get ch).blanked = satAdd 32 y.blanked 1 ∧ (t.tdc.chans.get ch).lastEdge =
          y.lastEdge ∧ (t.tdc.chans.get ch).hits = y.hits ∧ t.stitch = s.stitch) ∧
  (∀ (ch tick phase fine : Nat) (falling : Bool) (y : TdcChan) (v : Stamp) (s : State),
      280 ≤ ch ∧ ch < 312 ∧ s.time.tick0 + tick ≤ s.now ∧ y = s.tdc.chans.get ch ∧ y.enable = true ∧ y.inputOpen = false ∧ (y.edge = 2 ∨
        (if falling then y.edge = 1 else y.edge ≠ 1)) ∧ s.inService ch = true →
      y.lastEdge = none ∧ y.dllLocked = true ∧ y.preCount = 0 ∧ y.regression = false ∧ v = s.makeStamp ch tick (phase % 16) (fine % 32)
        falling ∧ (s.tdc.groups.get (groupOf ch)).inside v = true →
      ∃ t, exec (.evtEdge ch tick phase fine falling) s = .next t ∧
        keepsAllBut [.clock, .free, .cmd, .hostMem, .tdc, .gauge, .stitch, .pair, .fw, .mbs, .fence, .events, .stats] s t ∧
          (t.tdc.chans.get ch).hits = satAdd 32 y.hits 1 ∧ (t.tdc.chans.get ch).lastStamp = v ∧ (t.tdc.chans.get ch).lastEdge = some (tick
          * 65536 + s.centreOf ch (phase % 16 * 32 + fine % 32)) ∧ (t.tdc.chans.get ch).preCount = if 1 < y.prescaler then 1 else 0) ∧
  (∀ (ch tick phase fine : Nat) (falling : Bool) (s : State),
      (ch = 316 ∨ ch = 318 ∨ ch = 319) ∧ s.time.tick0 + tick ≤ s.now ∧ (s.armed ch = false ∨ s.inService ch = false) →
      ∃ t, exec (.evtEdge ch tick phase fine falling) s = .next t ∧
        keepsAllBut [] s t ∧ t = s) ∧
  (∀ (ch tick phase fine : Nat) (falling : Bool) (v : Stamp) (s : State),
      (ch = 316 ∨ ch = 318 ∨ ch = 319) ∧ s.time.tick0 + tick ≤ s.now ∧ s.armed ch = true ∧ s.inService ch = true ∧ (s.tdc.chans.get
        ch).dllLocked = true ∧ v = s.makeStamp ch tick (phase % 16) (fine % 32) falling →
      ∃ t, exec (.evtEdge ch tick phase fine falling) s = .next t ∧
        keepsAllBut [.clock, .free, .cmd, .hostMem, .tdc, .gauge, .stitch, .pair, .fw, .mbs, .fence, .events, .stats] s t ∧
          (t.tdc.chans.get ch).hits = satAdd 32 (s.tdc.chans.get ch).hits 1 ∧ (t.tdc.chans.get ch).lastStamp = v) ∧
  (∀ (ch tick phase fine width : Nat) (s : State),
      (264 ≤ ch ∧ ch < 279) ∧ s.time.tick0 + tick ≤ s.now ∧ (s.armed ch = false ∨ s.inService ch = false ∨ (ch < 274 ∨ ch = 278) ∧ width <
        19661) →
      ∃ t, exec (.refEdge ch tick phase fine width) s = .next t ∧
        keepsAllBut [] s t ∧ t = s) ∧
  (∀ (ch tick phase fine width : Nat) (v : Stamp) (n : Nat) (s : State),
      264 ≤ ch ∧ ch < 272 ∧ n = ch - 264 ∧ s.time.tick0 + tick ≤ s.now ∧ s.armed ch = true ∧ s.inService ch = true ∧ 19661 ≤ width ∧
        (s.tdc.chans.get ch).dllLocked = true ∧ (s.ref.slots.get n).pulse n = false →
      v = s.makeStamp ch tick (phase % 16) (fine % 32) (s.ref.slots.get n).falling →
      ∃ t, exec (.refEdge ch tick phase fine width) s = .next t ∧
        keepsAllBut [.clock, .free, .cmd, .hostMem, .lanes, .selv, .tdc, .gauge, .ref, .time, .ptp, .stitch, .pair, .fw, .mbs, .fence,
          .events, .stats] s t ∧ (t.tdc.chans.get ch).lastStamp = v ∧ (t.ref.slots.get n).lastEdge = s.now ∧ (t.ref.slots.get n).active =
          true ∧ ((s.ref.slots.get n).state ≠ .disabled → (t.ref.slots.get n).stamps = (s.ref.slots.get n).stamps ++ [v])) ∧
  (∀ (ch tick phase fine width : Nat) (v : Stamp) (s : State),
      (274 ≤ ch ∧ ch < 278 ∨ ch = 279) ∧ s.time.tick0 + tick ≤ s.now ∧ s.armed ch = true ∧ s.inService ch = true ∧ (s.tdc.chans.get
        ch).dllLocked = true ∧ v = s.makeStamp ch tick (phase % 16) (fine % 32) false →
      ∃ t, exec (.refEdge ch tick phase fine width) s = .next t ∧
        keepsAllBut [.clock, .free, .cmd, .hostMem, .lanes, .selv, .tdc, .gauge, .ref, .time, .ptp, .stitch, .pair, .fw, .mbs, .fence,
          .events, .stats] s t ∧ (ch = 279 → t.ref.xoStamps = s.ref.xoStamps ++ [v]) ∧ (ch ≠ 279 → (t.stitch.mclk.get (ch - 274)).stamps =
          (s.stitch.mclk.get (ch - 274)).stamps ++ [v]) ∧ (t.tdc.chans.get ch).lastStamp = v) ∧
  (∀ (s : State),
      firstTimed s.stitch.timed = none →
      ∃ t, exec .timedStitchReady s = .next t ∧
        keepsAllBut [] s t ∧ t = s) ∧
  (∀ (x : Pending) (s : State),
      firstTimed s.stitch.timed = some x ∧ s.time.tick0 + s.fireTick (x.e - x.lead) ≤ s.now →
      ∃ t, exec .timedStitchReady s = .next t ∧
        keepsAllBut [.clock, .free, .cmd, .hostMem, .stitch, .pair, .fw, .mbs, .fence, .events, .stats] s t ∧ ((s.latticesOf
          (s.stitchPorts x.target none)).all fun n => decide (min 64 ((s.stitch.queues.get (8 * n + stitchClass 3)).length + x.copies) ≤
          (t.stitch.queues.get (8 * n + stitchClass 3)).length)) = true ∧ (firstTimed t.stitch.timed).all (fun y => decide (y.handle ≠
          x.handle)) = true) ∧
  (∀ (chan : Nat) (y : McChan) (q : QStitch) (s : State),
      chan < 4 ∧ y = s.stitch.mc.get chan ∧ y.enable = true ∧ y.setInterval ≠ 0 ∧ y.nextSet ≤ s.now →
      q =
        { type := 4, target := y.phaseTarget, payload := (if y.stepSets = 0 then 0 else 1), chan := chan, arrive := s.tick, ready := s.tick + 64 }
        →
      ∃ t, exec (.phaseSetIssue chan) s = .next t ∧
        keepsAllBut [.stitch, .fence, .events] s t ∧ (t.stitch.mc.get chan).nextSet = s.now + cyclesOf y.setInterval ∧ (t.stitch.mc.get
          chan).stepSets = y.stepSets - 1 ∧ ((s.latticesOf (s.stitchPorts y.phaseTarget none)).all fun n => decide ((s.stitch.queues.get
          (8 * n + stitchClass 4)).length < 64 → t.stitch.queues.get (8 * n + stitchClass 4) = s.stitch.queues.get (8 * n + stitchClass 4)
          ++ [q])) = true) ∧
  (∀ (chan : Nat) (s : State),
      chan < 4 ∧ ((s.stitch.mc.get chan).enable = false ∨ (s.stitch.mc.get chan).setInterval = 0) →
      ∃ t, exec (.phaseSetIssue chan) s = .next t ∧
        keepsAllBut [] s t ∧ t = s) ∧
  (∀ (chan : Nat) (y : McChan) (q : QStitch) (s : State),
      chan < 4 ∧ y = s.stitch.mc.get chan ∧ y.enable = true ∧ y.tracked = true ∧ y.orbitLen ≠ 0 ∧ y.bcnInterval ≠ 0 ∧ y.orbit %
        y.bcnInterval = 0 ∧ y.bcnDone ≠ some y.orbit →
      q = { type := 2, target := y.bcnTarget, chan := chan, arrive := s.tick, ready := s.tick } →
      ∃ t, exec (.bcnIssue chan) s = .next t ∧
        keepsAllBut [.stitch, .fence, .events] s t ∧ (t.stitch.mc.get chan).bcnDone = some y.orbit ∧ ((s.latticesOf (s.stitchPorts
          y.bcnTarget none)).all fun n => decide ((s.stitch.queues.get (8 * n + stitchClass 2)).length < 64 → t.stitch.queues.get (8 * n +
          stitchClass 2) = s.stitch.queues.get (8 * n + stitchClass 2) ++ [q])) = true) ∧
  (∀ (chan : Nat) (s : State),
      chan < 4 ∧ ((s.stitch.mc.get chan).enable = false ∨ (s.stitch.mc.get chan).tracked = false ∨ (s.stitch.mc.get chan).orbitLen = 0 ∨
        (s.stitch.mc.get chan).bcnInterval = 0 ∨ (s.stitch.mc.get chan).orbit % (s.stitch.mc.get chan).bcnInterval ≠ 0 ∨ (s.stitch.mc.get
        chan).bcnDone = some (s.stitch.mc.get chan).orbit) →
      ∃ t, exec (.bcnIssue chan) s = .next t ∧
        keepsAllBut [] s t ∧ t = s)

/-- Inputs, windows, rings, gates and interval engines: what each does to the time-to-digital converters. An input opens with its level low,
or recovers with the level given. At the end of a rate window the edges count anew, and a channel beyond its limit is counted; a channel
without an edge for its silence time in an open gate is reported once. A tap edge of a lane that is armed and in service is stamped while
its DLL is locked and counted as lost otherwise; one that is not armed makes nothing. A ring with room writes its next record, a HIT or
another, is not touched where none is due, and counts as lost what finds no room; it times out once for its oldest unread record, takes a
read count that is not beyond what was written and answers another with RING_INDEX. A gate pin, the software gates and the gate's timers
open a closed group at their TICK and close an open one, and count an ignored pulse. An interval engine decides its oldest start. (R98, R99,
R100, R101, R105, R107, R108, R114, R116, R118, R122) -/
def Obligations.TdcRows : Prop :=
  (∀ (input : Nat) (s : State),
      input < 32 ∧ (s.tdc.chans.get (280 + input)).inputOpen = false →
      ∃ t, exec (.inputOpen input) s = .next t ∧
        keepsAllBut [.tdc, .fence, .events] s t ∧ t.tdc =
          { s.tdc with chans := s.tdc.chans.upd (280 + input) fun x => { x with inputOpen := true, level := false } } ∧ t.hasRaised
          (tdcSrc (280 + input)) Ev.inputOpen = true) ∧
  (∀ (input : Nat) (s : State),
      input < 32 ∧ (s.tdc.chans.get (280 + input)).inputOpen = true →
      ∃ t, exec (.inputOpen input) s = .next t ∧
        keepsAllBut [] s t ∧ t = s) ∧
  (∀ (input : Nat) (level : Bool) (s : State),
      input < 32 →
      ∃ t, exec (.inputRecovered input level) s = .next t ∧
        keepsAllBut [.tdc] s t ∧ t.tdc =
          { s.tdc with chans := s.tdc.chans.upd (280 + input) fun x => if x.inputOpen then { x with inputOpen := false, level := level } else x })
          ∧
  (∀ (ch : Nat) (y : TdcChan) (s : State),
      280 ≤ ch ∧ ch < 312 ∧ y = s.tdc.chans.get ch ∧ y.enable = true ∧ y.rateLimit ≠ 0 ∧ y.rateLimit < y.winEdges →
      ∃ t, exec (.rateWindow ch) s = .next t ∧
        keepsAllBut [.clock, .free, .cmd, .hostMem, .tdc, .pair, .fw, .mbs, .fence, .events, .stats] s t ∧ t.tdc =
          { s.tdc with chans := s.tdc.chans.set ch { y with winEdges := 0, rateExceeded := satAdd 32 y.rateExceeded 1, rateRaised := true } }
          ∧ (y.rateRaised = false → t.hasRaised (tdcSrc ch) Ev.rateExceeded = true)) ∧
  (∀ (ch : Nat) (y : TdcChan) (s : State),
      280 ≤ ch ∧ ch < 312 ∧ y = s.tdc.chans.get ch ∧ (y.enable = false ∨ y.rateLimit = 0 ∨ y.winEdges ≤ y.rateLimit) →
      ∃ t, exec (.rateWindow ch) s = .next t ∧
        keepsAllBut [.clock, .free, .cmd, .hostMem, .tdc, .pair, .fw, .mbs, .fence, .events, .stats] s t ∧ t.tdc =
          { s.tdc with chans := s.tdc.chans.set ch { y with winEdges := 0 } }) ∧
  (∀ (ch : Nat) (y : TdcChan) (s : State),
      280 ≤ ch ∧ ch < 312 ∧ y = s.tdc.chans.get ch ∧ y.enable = true ∧ (s.tdc.groups.get (groupOf ch)).open_ = true ∧ y.silence ≠ 0 ∧
        y.silentRaised = false →
      ∃ t, exec (.silent ch) s = .next t ∧
        keepsAllBut [.clock, .free, .cmd, .hostMem, .tdc, .pair, .fw, .mbs, .fence, .events, .stats] s t ∧ t.tdc =
          { s.tdc with chans := s.tdc.chans.set ch { y with silentRaised := true } } ∧ t.hasRaised (tdcSrc ch) Ev.silent = true ∧
          (s.time.tickOn = true → (s.tdc.groups.get (groupOf ch)).openTick + cyclesOf y.silence ≤ t.tick)) ∧
  (∀ (ch : Nat) (y : TdcChan) (s : State),
      280 ≤ ch ∧ ch < 312 ∧ y = s.tdc.chans.get ch ∧ (y.enable = false ∨ (s.tdc.groups.get (groupOf ch)).open_ = false ∨ y.silence = 0 ∨
        y.silentRaised = true) →
      ∃ t, exec (.silent ch) s = .next t ∧
        keepsAllBut [] s t ∧ t = s) ∧
  (∀ (lane tick phase fine : Nat) (s : State),
      lane < 264 ∧ s.time.tick0 + tick ≤ s.now ∧ (s.lanes.get lane).state ≠ .casting ∧ (s.armed lane && s.inService lane) = true ∧
        (s.tdc.chans.get lane).dllLocked = false ∧ (s.tdc.chans.get lane).capturing = false →
      ∃ t, exec (.tapEdge lane tick phase fine) s = .next t ∧
        keepsAllBut [.tdc, .events] s t ∧ t.tdc =
          { s.tdc with chans := s.tdc.chans.upd lane fun y => { y with lost := satAdd 32 y.lost 1, lostSince := true } }) ∧
  (∀ (lane tick phase fine : Nat) (s : State),
      lane < 264 ∧ s.time.tick0 + tick ≤ s.now ∧ (s.lanes.get lane).state ≠ .casting ∧ (s.armed lane && s.inService lane) = false →
      ∃ t, exec (.tapEdge lane tick phase fine) s = .next t ∧
        keepsAllBut [] s t ∧ t = s) ∧
  (∀ (lane tick phase fine : Nat) (k : Stamp) (s : State),
      lane < 264 ∧ s.time.tick0 + tick ≤ s.now ∧ ((s.lanes.get lane).state = .casting ∨ s.armed lane = true) ∧ s.inService lane = true ∧
        (s.tdc.chans.get lane).dllLocked = true ∧ k = s.makeStamp lane tick (phase % 16) (fine % 32) false →
      ∃ t, exec (.tapEdge lane tick phase fine) s = .next t ∧
        keepsAllBut [.clock, .free, .cmd, .hostMem, .lanes, .tdc, .gauge, .pair, .fw, .mbs, .fence, .events, .stats] s t ∧
          (t.tdc.chans.get lane).winStamps = (s.tdc.chans.get lane).winStamps ++ [k] ∧ (t.tdc.chans.get lane).lastStamp = k ∧
          (t.tdc.chans.get lane).hits = satAdd 32 (s.tdc.chans.get lane).hits 1 ∧ (t.lanes.get lane).tapOn = true) ∧
  (∀ (ring : Nat) (s : State),
      ring < 8 ∧ (s.ringNext ring = none ∨ ((s.ringNext ring).all fun n => !s.ringMay ring n) = true) →
      ∃ t, exec (.ringWrite ring) s = .next t ∧
        keepsAllBut [] s t ∧ t = s) ∧
  (∀ (ring : Nat) (n : Nat) (g : QRec) (l : List QRec) (x : Ring) (s : State),
      ring < 8 ∧ s.ringNext ring = some (n, none) ∧ s.ringMay ring (n, none) = true ∧ s.ringMark ring = none ∧ x = s.tdc.rings.get ring ∧
        x.queue = g :: l →
      x.enable = true ∧ x.waitMarks = [] ∧ x.lostRun = 0 ∧ x.fill + g.recs.length ≤ 4096 →
      ∃ t, exec (.ringWrite ring) s = .next t ∧
        keepsAllBut [.tdc, .fence, .events] s t ∧ (t.tdc.rings.get ring).queue = l ∧ (t.tdc.rings.get ring).wr = x.wr + BitVec.ofNat 32
          g.recs.length ∧ (g.recs.length = 1 → (t.tdc.rings.get ring).recs.get (x.wr.toNat % 4096) =
          { (g.recs.headD {}) with seq := x.wr.toNat % 256, written := s.now })) ∧
  (∀ (ring : Nat) (n : Nat) (g : QRec) (l : List QRec) (x : Ring) (s : State),
      ring < 8 ∧ s.ringNext ring = some (n, none) ∧ s.ringMay ring (n, none) = true ∧ s.ringMark ring = none ∧ x = s.tdc.rings.get ring ∧
        x.queue = g :: l →
      x.enable = true ∧ x.waitMarks = [] ∧ x.lostRun = 0 ∧ x.fill = 4096 ∧ 1 ≤ g.recs.length →
      ∃ t, exec (.ringWrite ring) s = .next t ∧
        keepsAllBut [.tdc, .fence, .events] s t ∧ (t.tdc.rings.get ring).queue = l ∧ (t.tdc.rings.get ring).wr = x.wr ∧ (t.tdc.rings.get
          ring).lostRun = min g.recs.length (2 ^ 32 - 1) ∧ (t.tdc.rings.get ring).lostTick = g.tick) ∧
  (∀ (ring : Nat) (n : Nat) (c : Nat) (k : FifoEnt) (l : List FifoEnt) (x : Ring) (s : State),
      ring < 8 ∧ s.ringNext ring = some (n, some c) ∧ s.ringMay ring (n, some c) = true ∧ s.ringMark ring = none ∧ x = s.tdc.rings.get
        ring ∧ (s.tdc.chans.get c).fifo = k :: l ∧ k.lost = 0 →
      x.enable = true ∧ x.waitMarks = [] ∧ x.lostRun = 0 ∧ x.fill < 4096 →
      ∃ t, exec (.ringWrite ring) s = .next t ∧
        keepsAllBut [.tdc, .fence, .events] s t ∧ (t.tdc.chans.get c).fifo = l ∧ (t.tdc.rings.get ring).wr = x.wr + 1 ∧ (t.tdc.rings.get
          ring).recs.get (x.wr.toNat % 4096) = { hitRec c k.stamp with seq := x.wr.toNat % 256, written := s.now }) ∧
  (∀ (ring : Nat) (y : Ring) (s : State),
      ring < 8 ∧ y = s.tdc.rings.get ring ∧ y.fill ≠ 0 ∧ y.idleTimeout ≠ 0 ∧ y.timeoutSeen ≠ some y.rd.toNat →
      ∃ t, exec (.ringTimeout ring) s = .next t ∧
        keepsAllBut [.clock, .free, .cmd, .hostMem, .tdc, .pair, .fw, .mbs, .fence, .events, .stats] s t ∧ t.tdc =
          { s.tdc with rings := s.tdc.rings.set ring { y with timeoutSeen := some y.rd.toNat } } ∧ (y.recs.get (y.rd.toNat %
          4096)).written + y.idleTimeout * usC ≤ t.now ∧ t.hasRaised (ringSrc ring) Ev.ringTimeout = true) ∧
  (∀ (ring : Nat) (y : Ring) (s : State),
      ring < 8 ∧ y = s.tdc.rings.get ring ∧ (y.fill = 0 ∨ y.idleTimeout = 0 ∨ y.timeoutSeen = some y.rd.toNat) →
      ∃ t, exec (.ringTimeout ring) s = .next t ∧
        keepsAllBut [] s t ∧ t = s) ∧
  (∀ (ring : Nat) (value : BitVec 32) (s : State),
      ring < 8 ∧ s.streamOwned ring = false ∧ dist32 (s.tdc.rings.get ring).rd value ≤ (s.tdc.rings.get ring).fill →
      ∃ t, exec (.ringRdCountWrite ring value) s = .next t ∧
        keepsAllBut [.tdc, .fence, .events] s t ∧ (t.tdc.rings.get ring).rd = value ∧ ((s.tdc.rings.get ring).waitMarks = [] →
          (s.tdc.rings.get ring).lostRun = 0 → (t.tdc.rings.get ring).wr = (s.tdc.rings.get ring).wr)) ∧
  (∀ (ring : Nat) (value : BitVec 32) (s : State),
      ring < 8 ∧ s.streamOwned ring = false ∧ (s.tdc.rings.get ring).fill < dist32 (s.tdc.rings.get ring).rd value →
      ∃ t, exec (.ringRdCountWrite ring value) s = .next t ∧
        keepsAllBut [.fence, .events] s t ∧ t.hasRaised (ringSrc ring) Ev.ringIndex = true) ∧
  (∀ (ring : Nat) (value : BitVec 32) (s : State),
      ring < 8 ∧ s.streamOwned ring = true →
      ∃ t, exec (.ringRdCountWrite ring value) s = .next t ∧
        keepsAllBut [.fence, .events] s t ∧ t.events.pending.getLsbD 832 = true) ∧
  (∀ (group : Nat) (level : Bool) (tick : Nat) (y : GateGrp) (s : State),
      group < 4 ∧ s.time.tick0 + tick ≤ s.now ∧ y = s.tdc.groups.get group ∧ (y.pin = level ∨ 2 ≤ y.mode ∨ y.mode = 0 ∧ y.open_ = (level
        != y.activeLow) ∨ y.mode = 1 ∧ level = y.activeLow) →
      ∃ t, exec (.gatePinChange group level tick) s = .next t ∧
        keepsAllBut [.tdc] s t ∧ (t.tdc = { s.tdc with groups := s.tdc.groups.set group { y with pin := level } } ∨ t = s)) ∧
  (∀ (group : Nat) (level : Bool) (tick : Nat) (y : GateGrp) (s : State),
      group < 4 ∧ s.time.tick0 + tick ≤ s.now ∧ y = s.tdc.groups.get group ∧ y.pin ≠ level ∧ (y.mode = 0 ∨ y.mode = 1) ∧ y.open_ = false ∧
        level ≠ y.activeLow →
      ∃ t, exec (.gatePinChange group level tick) s = .next t ∧
        keepsAllBut [.clock, .free, .cmd, .hostMem, .tdc, .gauge, .stitch, .pair, .fw, .mbs, .fence, .events, .stats] s t ∧
          (t.tdc.groups.get group).open_ = true ∧ (t.tdc.groups.get group).pin = level ∧ (t.tdc.groups.get group).openTick = tick ∧
          (t.tdc.groups.get group).maxEnd = some (tick + cyclesOf y.maxLen) ∧ (t.tdc.groups.get group).pulseEnd = if y.mode = 1 then some
          (tick + cyclesOf y.pulseLen) else none) ∧
  (∀ (group : Nat) (level : Bool) (tick : Nat) (y : GateGrp) (s : State),
      group < 4 ∧ s.time.tick0 + tick ≤ s.now ∧ y = s.tdc.groups.get group ∧ y.pin ≠ level ∧ y.mode = 0 ∧ y.open_ = true ∧ level =
        y.activeLow →
      ∃ t, exec (.gatePinChange group level tick) s = .next t ∧
        keepsAllBut [.clock, .free, .cmd, .hostMem, .tdc, .gauge, .stitch, .pair, .fw, .mbs, .fence, .events, .stats] s t ∧
          (t.tdc.groups.get group).open_ = false ∧ (t.tdc.groups.get group).pin = level ∧ (t.tdc.groups.get group).closeTick = tick ∧
          (t.tdc.groups.get group).maxEnd = none) ∧
  (∀ (group : Nat) (level : Bool) (tick : Nat) (y : GateGrp) (s : State),
      group < 4 ∧ s.time.tick0 + tick ≤ s.now ∧ y = s.tdc.groups.get group ∧ y.pin ≠ level ∧ y.mode = 1 ∧ y.open_ = true ∧ level ≠
        y.activeLow →
      ∃ t, exec (.gatePinChange group level tick) s = .next t ∧
        keepsAllBut [.clock, .free, .cmd, .hostMem, .tdc, .gauge, .stitch, .pair, .fw, .mbs, .fence, .events, .stats] s t ∧
          (t.tdc.groups.get group) = { y with pin := level } ∧ ((groupChans group).all fun c => decide ((t.tdc.chans.get c).gateIgnored =
          satAdd 32 (s.tdc.chans.get c).gateIgnored 1)) = true) ∧
  (∀ (value : BitVec 32) (s : State),
      ∃ t, exec (.swGateOpen value) s = .next t ∧
        keepsAllBut [.tdc, .gauge, .stitch, .fence, .events] s t ∧ ((List.range 4).all fun g => if value.getLsbD g && decide
          ((s.tdc.groups.get g).mode = 2) && !(s.tdc.groups.get g).open_ then (t.tdc.groups.get g).open_ && decide ((t.tdc.groups.get
          g).openTick = s.tick ∧ (t.tdc.groups.get g).maxEnd = some (s.tick + cyclesOf (s.tdc.groups.get g).maxLen)) else decide
          (t.tdc.groups.get g = s.tdc.groups.get g)) = true) ∧
  (∀ (value : BitVec 32) (s : State),
      ∃ t, exec (.swGateClose value) s = .next t ∧
        keepsAllBut [.tdc, .fence, .events] s t ∧ ((List.range 4).all fun g => if value.getLsbD g && decide ((s.tdc.groups.get g).mode =
          2) && (s.tdc.groups.get g).open_ then !(t.tdc.groups.get g).open_ && decide ((t.tdc.groups.get g).closeTick = s.tick) else
          decide (t.tdc.groups.get g = s.tdc.groups.get g)) = true) ∧
  (∀ (group : Nat) (y : GateGrp) (a : Nat) (b : Nat) (s : State),
      group < 4 ∧ y = s.tdc.groups.get group ∧ y.pulseEnd = some a ∧ y.maxEnd = some b ∧ y.open_ = true ∧ a ≤ b ∧ s.time.tick0 + a ≤ s.now
        →
      ∃ t, exec (.gatePulseEnd group) s = .next t ∧
        keepsAllBut [.clock, .free, .cmd, .hostMem, .tdc, .gauge, .stitch, .pair, .fw, .mbs, .fence, .events, .stats] s t ∧ (if y.mode = 3
          then (t.tdc.groups.get group).open_ = true ∧ (t.tdc.groups.get group).openTick = a else (t.tdc.groups.get group).open_ = false)
          ∧ (t.tdc.groups.get group).closeTick = a) ∧
  (∀ (group : Nat) (y : GateGrp) (s : State),
      group < 4 ∧ y = s.tdc.groups.get group ∧ (y.open_ = false ∨ y.pulseEnd = none ∨ y.maxEnd = none) →
      ∃ t, exec (.gatePulseEnd group) s = .next t ∧
        keepsAllBut [] s t ∧ t = s) ∧
  (∀ (group : Nat) (y : GateGrp) (b : Nat) (s : State),
      group < 4 ∧ y = s.tdc.groups.get group ∧ y.maxEnd = some b ∧ y.open_ = true ∧ (y.pulseEnd.all fun a => decide (b < a)) = true ∧
        s.time.tick0 + b ≤ s.now →
      ∃ t, exec (.gateTimeout group) s = .next t ∧
        keepsAllBut [.clock, .free, .cmd, .hostMem, .tdc, .pair, .fw, .mbs, .fence, .events, .stats] s t ∧ (t.tdc.groups.get group).open_
          = false ∧ (t.tdc.groups.get group).closeTick = b ∧ t.events.pending.getLsbD (544 + 8 * group) = true) ∧
  (∀ (group : Nat) (y : GateGrp) (s : State),
      group < 4 ∧ y = s.tdc.groups.get group ∧ (y.open_ = false ∨ y.maxEnd = none) →
      ∃ t, exec (.gateTimeout group) s = .next t ∧
        keepsAllBut [] s t ∧ t = s) ∧
  (∀ (engine : Nat) (s : State),
      engine < 32 ∧ (s.tdc.intervals.get engine).starts = [] →
      ∃ t, exec (.intervalResult engine) s = .next t ∧
        keepsAllBut [] s t ∧ t = s) ∧
  (∀ (engine : Nat) (y : IntervalEng) (a : Stamp) (l : List Stamp) (s : State),
      engine < 32 ∧ y = s.tdc.intervals.get engine ∧ y.starts = a :: l ∧ (y.stops.any fun b => decide (a.u ≤ b.u)) = true →
      ∃ t, exec (.intervalResult engine) s = .next t ∧
        keepsAllBut [.clock, .free, .cmd, .hostMem, .tdc, .pair, .fw, .mbs, .fence, .events, .stats] s t ∧ (t.tdc.intervals.get
          engine).starts = l ∧ ((t.tdc.intervals.get engine).stops.all fun b => y.stops.contains b) = true) ∧
  (∀ (engine : Nat) (y : IntervalEng) (a : Stamp) (l : List Stamp) (s : State),
      engine < 32 ∧ y = s.tdc.intervals.get engine ∧ y.starts = a :: l ∧ (y.stops.any fun b => decide (a.u ≤ b.u)) = false →
      ∃ t, exec (.intervalResult engine) s = .next t ∧
        keepsAllBut [.clock, .free, .cmd, .hostMem, .tdc, .pair, .fw, .mbs, .fence, .events, .stats] s t ∧ (t.tdc.intervals.get
          engine).starts = l ∧ (s.time.tickOn = true → a.tick + y.window + 1 ≤ t.tick))

/-- Holds, runs, full calibrations, timers, DLL events and copy checks of the gauge, and the lane-window boundary. A hold lapses at its
instant. STAGE_LOAD with bit 0 set copies the active DLL code, cells, trims and all 512 centres of the selected channel to its staging set.
The first pending region starts its run when none runs and no hold applies or R130 queued it, 10 ms after the last run's end at the
earliest, with its channels STALE. A run's end frees the engine, makes a commit due, and gives each channel that took part a new centre
table or a GAUGE_FAIL. A full calibration or restore ends likewise, with its kind of commit. A periodic or retry timer queues an idle region
once its interval has passed. A region without a valid sensor reports it once and is queued, and again every 60 s. A DLL whose error exceeds
2 LSB loses lock, with DLL_UNLOCK and 1 ms to lock again; 1,024 cycles within 0.5 LSB lock it, its region is queued ahead and its stamps are
STALE; when the 1 ms pass its region goes to FULL. The second copy of a region is repaired from a good first one, and the first from a good
second one, with GAUGE_COPY_REPAIRED; if both are bad the nominal set holds and the region is STALE, with GAUGE_LOST. A lane-window boundary
takes TICK to the next multiple of the window, leaves no commit and no reference configuration waiting. Out of these states a row changes
nothing. Log entry 114 names the operands as the model's choice. (R128, R130, R131, R133, R134, R136, R137, R138, R139, R144, R145, R147) -/
def Obligations.GaugeRows : Prop :=
  (∀ (n : Nat) (s : State),
      s.gauge.hold = some n →
      ∃ t, exec .gaugeHoldLapse s = .next t ∧
        keepsAllBut [.clock, .free, .cmd, .hostMem, .gauge, .pair, .fw, .mbs, .fence, .events, .stats] s t ∧ t.gauge =
          { s.gauge with hold := none } ∧ n ≤ t.now) ∧
  (∀ (s : State),
      s.gauge.hold = none →
      ∃ t, exec .gaugeHoldLapse s = .next t ∧
        keepsAllBut [] s t ∧ t = s) ∧
  (∀ (value : BitVec 32) (c : Nat) (s : State),
      value.toNat % 2 = 1 ∧ c = s.gauge.gwChannel ∧ (regionOf c).isSome = true →
      ∃ t, exec (.stageLoad value) s = .next t ∧
        keepsAllBut [.gauge] s t ∧ (t.gauge.chans.get c).stDll = (s.gauge.chans.get c).dllCode ∧ (t.gauge.chans.get c).stSel =
          (s.gauge.chans.get c).cellSel ∧ (t.gauge.chans.get c).stTrim = (s.gauge.chans.get c).trim ∧ ((List.range 512).all fun k =>
          decide ((t.gauge.chans.get c).stCentre.get k = (s.gauge.chans.get c).centre.getD k (128 * k + 64))) = true ∧ t.gauge.regions =
          s.gauge.regions) ∧
  (∀ (value : BitVec 32) (s : State),
      value.toNat % 2 = 0 ∨ regionOf s.gauge.gwChannel = none →
      ∃ t, exec (.stageLoad value) s = .next t ∧
        keepsAllBut [] s t ∧ t = s) ∧
  (∀ (n : Nat) (l : List Nat) (y : GRegion) (s : State),
      s.gauge.pendingQ = n :: l ∧ s.gauge.running = none ∧ y = s.gauge.regions.get n ∧ (s.gaugeHeld = false ∨ y.urgent = true) →
      ∃ t, exec .gaugeRunStart s = .next t ∧
        keepsAllBut [.clock, .free, .cmd, .hostMem, .tdc, .gauge, .pair, .fw, .mbs, .fence, .events, .stats] s t ∧ t.gauge.running = some
          n ∧ t.gauge.pendingQ = l ∧ (t.gauge.regions.get n).state = .running ∧ (t.gauge.regions.get n).stale = true ∧
          (t.gauge.regions.get n).urgent = false ∧ (t.gauge.regions.get n).runEnd = some (t.now + cyclesOf s.gauge.runTimeout) ∧
          s.gauge.lastRunEnd + 10 * msC ≤ t.now ∧ ((regionChans n).all fun c => decide ((t.gauge.chans.get c).hist = [] ∧
          (t.gauge.chans.get c).inRun = s.takesPart c)) = true) ∧
  (∀ (s : State),
      s.gauge.pendingQ = [] ∨ s.gauge.running.isSome = true ∨ s.gaugeHeld = true ∧ (s.gauge.regions.get (s.gauge.pendingQ.headD 0)).urgent
        = false →
      ∃ t, exec .gaugeRunStart s = .next t ∧
        keepsAllBut [] s t ∧ t = s) ∧
  (∀ (injected : List Injected) (n : Nat) (o : GRegion) (s : State),
      (s.gauge.running = some n ∧ o = s.gauge.regions.get n ∧ o.state = .running ∧ (s.injects n = true → s.injectable n injected = true))
        →
      ∃ t, exec (.gaugeRunEnd injected) s = .next t ∧
        keepsAllBut [.clock, .free, .cmd, .hostMem, .gauge, .pair, .fw, .mbs, .fence, .events, .stats] s t ∧ t.gauge.running =
          s.gauge.fullQ.head? ∧ t.gauge.fullQ = s.gauge.fullQ.tail ∧ (t.gauge.regions.get n).commitDue = true ∧ (t.gauge.regions.get
          n).commitKind = 0 ∧ (t.gauge.regions.get n).stale = true ∧ (t.gauge.regions.get n).lastEnd = t.now ∧ t.gauge.lastRunEnd = t.now)
          ∧
  (∀ (injected : List Injected) (n : Nat) (c : Nat) (s : State),
      (s.gauge.running = some n ∧ (s.gauge.regions.get n).state = .running ∧ (s.injects n = true → s.injectable n injected = true) ∧
        (regionChans n).contains c = true ∧ (s.gauge.chans.get c).inRun = true) →
      ∃ t, exec (.gaugeRunEnd injected) s = .next t ∧
        keepsAllBut [.clock, .free, .cmd, .hostMem, .gauge, .pair, .fw, .mbs, .fence, .events, .stats] s t ∧ (t.gauge.chans.get c).inRun =
          false ∧ (t.gauge.regions.get n).failed = ((regionChans n).any fun d => (s.gauge.chans.get d).inRun && t.failsChan d) ∧ (if
          t.failsChan c = true then (t.gauge.chans.get c).newCentre = none ∧ t.events.pending.getLsbD (tdcSrc c) = true else
          (t.gauge.chans.get c).newCentre.isSome = true)) ∧
  (∀ (injected : List Injected) (s : State),
      (match s.gauge.running with | none => true | some n => decide ((s.gauge.regions.get n).state ≠ .running)) = true →
      ∃ t, exec (.gaugeRunEnd injected) s = .next t ∧
        keepsAllBut [] s t ∧ t = s) ∧
  (∀ (region : Nat) (sets : List CalSet) (o : GRegion) (s : State),
      region < 21 ∧ o = s.gauge.regions.get region ∧ o.state = .full ∧ s.gauge.running = some region →
      ∃ t, exec (.fullCalibrationDone region sets) s = .next t ∧
        keepsAllBut [.tdc, .gauge, .fence, .events] s t ∧ (t.gauge.regions.get region).commitDue = true ∧ (t.gauge.regions.get
          region).commitKind = (if o.restoreFull then 2 else 1) ∧ (t.gauge.regions.get region).restoreFull = false ∧ (t.gauge.regions.get
          region).state = (if o.restoreFull || s.gauge.pendingQ.contains region then .pending else .idle) ∧ t.gauge.lastRunEnd = s.now ∧
          t.gauge.running = s.gauge.fullQ.head?) ∧
  (∀ (region : Nat) (sets : List CalSet) (c : Nat) (w : CalSet) (s : State),
      region < 21 ∧ (s.gauge.regions.get region).state = .full ∧ s.gauge.running = some region ∧ (regionChans region).contains c = true ∧
        w = (sets.find? fun x => x.chan = c).getD {} →
      ∃ t, exec (.fullCalibrationDone region sets) s = .next t ∧
        keepsAllBut [.tdc, .gauge, .fence, .events] s t ∧ (t.gauge.chans.get c).lineDll = w.dll % 4096 ∧ (t.tdc.chans.get c).dllLocked =
          w.locked ∧ (t.tdc.chans.get c).dllStale = false ∧ (w.locked = false → t.failsChan c = true ∧ (t.gauge.chans.get c).newCentre =
          some []) ∧ ((s.gauge.regions.get region).restoreFull = false → (t.gauge.chans.get c).lineSel = selectCells w.widths)) ∧
  (∀ (region : Nat) (sets : List CalSet) (s : State),
      region < 21 ∧ ((s.gauge.regions.get region).state ≠ .full ∨ s.gauge.running ≠ some region) →
      ∃ t, exec (.fullCalibrationDone region sets) s = .next t ∧
        keepsAllBut [] s t ∧ t = s) ∧
  (∀ (region : Nat) (y : GRegion) (s : State),
      region < 21 ∧ y = s.gauge.regions.get region ∧ y.state = .idle ∧ (s.gauge.periodic ≠ 0 ∨ y.failed = true) →
      ∃ t, exec (.gaugePeriodicTimer region) s = .next t ∧
        keepsAllBut [.clock, .free, .cmd, .hostMem, .gauge, .pair, .fw, .mbs, .fence, .events, .stats] s t ∧ (t.gauge.regions.get
          region).state = .pending ∧ t.gauge.pendingQ.contains region = true ∧ (if s.gauge.periodic = 0 then decide (y.lastEnd + cyclesOf
          s.gauge.retry ≤ t.now) else if y.failed = false then decide (y.lastEnd + cyclesOf s.gauge.periodic ≤ t.now) else decide
          (y.lastEnd + min (cyclesOf s.gauge.periodic) (cyclesOf s.gauge.retry) ≤ t.now)) = true) ∧
  (∀ (region : Nat) (y : GRegion) (s : State),
      region < 21 ∧ y = s.gauge.regions.get region ∧ (y.state ≠ .idle ∨ s.gauge.periodic = 0 ∧ y.failed = false) →
      ∃ t, exec (.gaugePeriodicTimer region) s = .next t ∧
        keepsAllBut [] s t ∧ t = s) ∧
  (∀ (region : Nat) (s : State),
      region < 21 ∧ (s.gauge.regions.get region).state = .idle ∧ s.regionTemp region = none ∧ (s.gauge.regions.get region).tempLost = none
        →
      ∃ t, exec (.gaugeTempUnavailable region) s = .next t ∧
        keepsAllBut [.gauge, .fence, .events] s t ∧ t.hasRaised (regionSrc region) Ev.gaugeTempUnavailable = true ∧ (t.gauge.regions.get
          region).tempLost = some s.now ∧ (t.gauge.regions.get region).state = .pending ∧ t.gauge.pendingQ.contains region = true) ∧
  (∀ (region : Nat) (n : Nat) (s : State),
      region < 21 ∧ (s.gauge.regions.get region).state = .idle ∧ s.regionTemp region = none ∧ (s.gauge.regions.get region).tempLost = some
        n →
      ∃ t, exec (.gaugeTempUnavailable region) s = .next t ∧
        keepsAllBut [.clock, .free, .cmd, .hostMem, .gauge, .pair, .fw, .mbs, .fence, .events, .stats] s t ∧ n + 60 * secC ≤ t.now ∧
          (t.gauge.regions.get region).tempLost = some t.now ∧ (t.gauge.regions.get region).state = .pending ∧ t.gauge.pendingQ.contains
          region = true) ∧
  (∀ (region : Nat) (s : State),
      region < 21 ∧ ((s.gauge.regions.get region).state = .off ∨ (s.regionTemp region).isSome = true) →
      ∃ t, exec (.gaugeTempUnavailable region) s = .next t ∧
        keepsAllBut [] s t ∧ t = s) ∧
  (∀ (loss : DllLoss) (s : State),
      loss.ch < 320 ∧ (s.tdc.chans.get loss.ch).dllLocked = true ∧ s.inService loss.ch = true ∧ dllUnlockLimit < loss.error.natAbs →
      ∃ t, exec (.dllUnlock loss) s = .next t ∧
        keepsAllBut [.tdc, .fence, .events] s t ∧ t.tdc =
          { s.tdc with chans := s.tdc.chans.upd loss.ch fun x => { x with dllLocked := false, dllTimer := some (s.now + msC), winBad := true, dllUnlockInRun := true } }
          ∧ t.hasRaised (tdcSrc loss.ch) Ev.dllUnlock = true) ∧
  (∀ (loss : DllLoss) (s : State),
      loss.ch < 320 ∧ ((s.tdc.chans.get loss.ch).dllLocked = false ∨ s.inService loss.ch = false ∨ loss.error.natAbs ≤ dllUnlockLimit) →
      ∃ t, exec (.dllUnlock loss) s = .next t ∧
        keepsAllBut [] s t ∧ t = s) ∧
  (∀ (lock : DllLock) (n : Nat) (s : State),
      lock.ch < 320 ∧ (s.tdc.chans.get lock.ch).dllLocked = false ∧ s.inService lock.ch = true ∧ regionOf lock.ch = some n ∧ 1024 ≤
        lock.within →
      ∃ t, exec (.dllRelock lock) s = .next t ∧
        keepsAllBut [.tdc, .gauge, .fence, .events] s t ∧ t.tdc =
          { s.tdc with chans := s.tdc.chans.upd lock.ch fun x => { x with dllLocked := true, dllTimer := none, dllStale := true } } ∧
          t.hasRaised (tdcSrc lock.ch) Ev.dllRelock = true ∧ ((s.gauge.regions.get n).state ≠ .off → (s.gauge.regions.get n).state ≠ .full
          → (t.gauge.regions.get n).urgent = true ∧ t.gauge.pendingQ.contains n = true)) ∧
  (∀ (lock : DllLock) (s : State),
      lock.ch < 320 ∧ ((s.tdc.chans.get lock.ch).dllLocked = true ∨ s.inService lock.ch = false ∨ lock.within < 1024) →
      ∃ t, exec (.dllRelock lock) s = .next t ∧
        keepsAllBut [] s t ∧ t = s) ∧
  (∀ (ch : Nat) (n : Nat) (d : Nat) (s : State),
      ch < 320 ∧ (s.tdc.chans.get ch).dllTimer = some d ∧ regionOf ch = some n →
      ∃ t, exec (.dllRelockTimeout ch) s = .next t ∧
        keepsAllBut [.clock, .free, .cmd, .hostMem, .tdc, .gauge, .pair, .fw, .mbs, .fence, .events, .stats] s t ∧ d ≤ t.now ∧
          (t.gauge.regions.get n).state = .full ∧ (t.gauge.running = some n ∨ t.gauge.fullQ.contains n = true) ∧ t.gauge.pendingQ.contains
          n = false ∧ (t.tdc.chans.get ch).dllTimer = none ∧ (t.tdc.chans.get ch).winBad = true) ∧
  (∀ (ch : Nat) (s : State),
      ch < 320 ∧ ((s.tdc.chans.get ch).dllTimer = none ∨ regionOf ch = none) →
      ∃ t, exec (.dllRelockTimeout ch) s = .next t ∧
        keepsAllBut [] s t ∧ t = s) ∧
  (∀ (region : Nat) (aOk bOk : Bool) (bEpoch : Nat) (bCentres : List (Nat × List Nat)) (s : State),
      region < 21 ∧ (s.gauge.regions.get region).state ≠ .off ∧ (s.gauge.regions.get region).commitDue = false ∧ aOk = true ∧ bOk = false
        →
      ∃ t, exec (.gaugeCopyCheck region aOk bOk bEpoch bCentres) s = .next t ∧
        keepsAllBut [.gauge, .fence, .events] s t ∧ t.hasRaised (regionSrc region) Ev.gaugeCopyRepaired = true ∧ (t.gauge.regions.get
          region).epochB = (s.gauge.regions.get region).epoch ∧ (t.gauge.regions.get region).epoch = (s.gauge.regions.get region).epoch ∧
          ((regionChans region).all fun c => decide ((t.gauge.chans.get c).other = (s.gauge.chans.get c).centre ∧ (t.gauge.chans.get
          c).centre = (s.gauge.chans.get c).centre)) = true) ∧
  (∀ (region : Nat) (aOk bOk : Bool) (bEpoch : Nat) (bCentres : List (Nat × List Nat)) (s : State),
      region < 21 ∧ (s.gauge.regions.get region).state ≠ .off ∧ (s.gauge.regions.get region).commitDue = false ∧ aOk = false ∧ bOk = true
        →
      ∃ t, exec (.gaugeCopyCheck region aOk bOk bEpoch bCentres) s = .next t ∧
        keepsAllBut [.gauge, .fence, .events] s t ∧ t.hasRaised (regionSrc region) Ev.gaugeCopyRepaired = true ∧ (t.gauge.regions.get
          region).epoch = bEpoch ∧ (t.gauge.regions.get region).active = !(s.gauge.regions.get region).active ∧ ((regionChans region).all
          fun c => decide ((t.gauge.chans.get c).centre = (t.gauge.chans.get c).other)) = true) ∧
  (∀ (region : Nat) (aOk bOk : Bool) (bEpoch : Nat) (bCentres : List (Nat × List Nat)) (s : State),
      region < 21 ∧ (s.gauge.regions.get region).state ≠ .off ∧ (s.gauge.regions.get region).commitDue = false ∧ aOk = true ∧ bOk = true ∧
        (s.gauge.regions.get region).epoch ≠ bEpoch →
      ∃ t, exec (.gaugeCopyCheck region aOk bOk bEpoch bCentres) s = .next t ∧
        keepsAllBut [.gauge, .fence, .events] s t ∧ t.hasRaised (regionSrc region) Ev.gaugeCopyDiffer = true ∧ (t.gauge.regions.get
          region).epoch = max (s.gauge.regions.get region).epoch bEpoch ∧ (t.gauge.regions.get region).epochB = max (s.gauge.regions.get
          region).epoch bEpoch) ∧
  (∀ (region : Nat) (aOk bOk : Bool) (bEpoch : Nat) (bCentres : List (Nat × List Nat)) (s : State),
      region < 21 ∧ (s.gauge.regions.get region).state ≠ .off ∧ (s.gauge.regions.get region).commitDue = false ∧ aOk = false ∧ bOk = false
        →
      ∃ t, exec (.gaugeCopyCheck region aOk bOk bEpoch bCentres) s = .next t ∧
        keepsAllBut [.gauge, .fence, .events] s t ∧ t.hasRaised (regionSrc region) Ev.gaugeLost = true ∧ ((regionChans region).all fun n
          => decide ((t.gauge.chans.get n).centre = [])) = true ∧ (t.gauge.regions.get region).stale = true) ∧
  (∀ (region : Nat) (aOk bOk : Bool) (bEpoch : Nat) (bCentres : List (Nat × List Nat)) (s : State),
      region < 21 ∧ ((s.gauge.regions.get region).state = .off ∨ (s.gauge.regions.get region).commitDue = true) →
      ∃ t, exec (.gaugeCopyCheck region aOk bOk bEpoch bCentres) s = .next t ∧
        keepsAllBut [] s t ∧ t = s) ∧
  (∀ (s : State),
      s.time.tickOn = true →
      ∃ t, exec .laneWindowBoundary s = .next t ∧
        keepsAllBut [.clock, .free, .cmd, .hostMem, .lanes, .selv, .tdc, .gauge, .ref, .time, .ptp, .stitch, .pair, .fw, .mbs, .fence,
          .events, .stats] s t ∧ s.time.tick0 + s.nextBoundary s.tick ≤ t.now ∧ ((List.range 21).all fun r => !(t.gauge.regions.get
          r).commitDue) = true ∧ t.ref.pendingCfg = []) ∧
  (∀ (s : State),
      s.time.tickOn = false →
      ∃ t, exec .laneWindowBoundary s = .next t ∧
        keepsAllBut [] s t ∧ t = s)

/-- Activity, oscillator, holdover, steering and level timers, ESMC frames, pulses and clock outputs of the references. A slot that is
enabled and active and has no edge for its activity limit turns inactive. A window of the oscillator's monitor with 80 to 120 edges is good
and any other bad; each kind ends the run of the other and is counted to 3; at the third the oscillator is declared present or absent.
Holdover leaves its specification at the end of the in-spec time. A steering session that is not renewed starts to close, with
STEER_TIMEOUT. A lane slot whose level source is silent for 5 s, or 16 ms on a selvedge port, has received level 15 and takes it unless
overridden, with LEVEL_CHANGE where that is a change. An ESMC port that is UP sends the code of the device's level and is no longer due. An
enabled PPS output that is not squelched rises at the next whole second of its offset and residual, which moves toward 0 by at most the
slew, or is 0 at once after a step; it is high for its width. A clock output slewing to KTIME is aligned once its residual has gone, with
CLKOUT_ALIGNED. Out of these states a row changes nothing. (R15, R152, R159, R162, R168, R171, R172, R173, R174, R175) -/
def Obligations.ReferenceRows : Prop :=
  (∀ (slot : Nat) (s : State),
      (slot < 8 ∨ 28 ≤ slot ∧ slot < 31) ∧ (s.ref.slots.get slot).enable = true ∧ (s.ref.slots.get slot).active = true →
      ∃ t, exec (.refActivityTimeout slot) s = .next t ∧
        keepsAllBut [.clock, .free, .cmd, .hostMem, .ref, .pair, .fw, .mbs, .fence, .events, .stats] s t ∧ t.ref =
          { s.ref with slots := s.ref.slots.upd slot fun y => { y with active := false } } ∧ (s.ref.slots.get slot).lastEdge + s.activityC
          slot ≤ t.now) ∧
  (∀ (slot : Nat) (s : State),
      (slot < 8 ∨ 28 ≤ slot ∧ slot < 31) ∧ ((s.ref.slots.get slot).enable = false ∨ (s.ref.slots.get slot).active = false) →
      ∃ t, exec (.refActivityTimeout slot) s = .next t ∧
        keepsAllBut [] s t ∧ t = s) ∧
  (∀ (edges : Nat) (s : State),
      80 ≤ edges ∧ edges ≤ 120 →
      ∃ t, exec (.xoMonitorWindow edges) s = .next t ∧
        keepsAllBut [.glob, .ref, .fence, .events, .power] s t ∧ t.glob.xoGood = min 3 (s.glob.xoGood + 1) ∧ t.glob.xoBad = 0 ∧
          t.glob.xoPresent = (s.glob.xoPresent || decide (2 ≤ s.glob.xoGood))) ∧
  (∀ (edges : Nat) (s : State),
      edges < 80 ∨ 120 < edges →
      ∃ t, exec (.xoMonitorWindow edges) s = .next t ∧
        keepsAllBut [.glob, .ref, .fence, .events, .power] s t ∧ t.glob.xoGood = 0 ∧ t.glob.xoBad = min 3 (s.glob.xoBad + 1) ∧
          t.glob.xoPresent = (s.glob.xoPresent && decide (s.glob.xoBad < 2)) ∧ (s.glob.xoPresent = true → 2 ≤ s.glob.xoBad → s.pdOn 1 =
          true → t.ref.state = .holdover)) ∧
  (∀ (n : Nat) (s : State),
      s.ref.state = .holdover ∧ s.ref.inSpecEnd = some n →
      ∃ t, exec .holdoverInspecExpiry s = .next t ∧
        keepsAllBut [.clock, .free, .cmd, .hostMem, .ref, .pair, .fw, .mbs, .fence, .events, .stats] s t ∧ t.ref.inSpecOver = true ∧
          t.ref.inSpecEnd = none ∧ t.ref.state = .holdover ∧ n ≤ t.now) ∧
  (∀ (s : State),
      s.ref.state ≠ .holdover ∨ s.ref.inSpecEnd = none →
      ∃ t, exec .holdoverInspecExpiry s = .next t ∧
        keepsAllBut [] s t ∧ t = s) ∧
  (∀ (n : Nat) (s : State),
      s.ref.state = .steered ∧ s.ref.steerEnd = some n →
      ∃ t, exec .steerTimeout s = .next t ∧
        keepsAllBut [.clock, .free, .cmd, .hostMem, .ref, .pair, .fw, .mbs, .fence, .events, .stats] s t ∧ t.ref =
          { s.ref with closing := true, steerEnd := none } ∧ t.hasRaised 808 Ev.steerTimeout = true ∧ n ≤ t.now) ∧
  (∀ (s : State),
      s.ref.state ≠ .steered ∨ s.ref.steerEnd = none →
      ∃ t, exec .steerTimeout s = .next t ∧
        keepsAllBut [] s t ∧ t = s) ∧
  (∀ (slot : Nat) (y : RefSlot) (l : Nat) (s : State),
      8 ≤ slot ∧ slot < 24 ∧ y = s.ref.slots.get slot ∧ y.enable = true ∧ y.levelDead = false ∧ l = (if y.overrideLevel then y.cfgLevel
        else 15) →
      ∃ t, exec (.levelTimeout slot) s = .next t ∧
        keepsAllBut [.clock, .free, .cmd, .hostMem, .ref, .pair, .fw, .mbs, .fence, .events, .stats] s t ∧ (t.ref.slots.get
          slot).levelDead = true ∧ (t.ref.slots.get slot).level = l ∧ (t.ref.slots.get slot).rxLevel = 15 ∧ y.levelSeen + (if (s.ports.get
          y.src).isSelvedge then 16 * msC else 5 * secC) ≤ t.now ∧ (y.level ≠ l → t.hasRaised (slotSrc slot) Ev.levelChange = true)) ∧
  (∀ (slot : Nat) (s : State),
      8 ≤ slot ∧ slot < 24 ∧ ((s.ref.slots.get slot).enable = false ∨ (s.ref.slots.get slot).levelDead = true) →
      ∃ t, exec (.levelTimeout slot) s = .next t ∧
        keepsAllBut [] s t ∧ t = s) ∧
  (∀ (port : Nat) (s : State),
      port < 256 ∧ s.esmcPorts.contains port = true ∧ s.portUp port = true →
      ∃ t, exec (.esmcPduTx port) s = .next t ∧
        keepsAllBut [.ref] s t ∧ t.ref =
          { s.ref with esmcDue := s.ref.esmcDue.filter (· ≠ port), esmcSent := (port, (esmcCodes s.ref.level).1 * 256 + (esmcCodes s.ref.level).2) :: s.ref.esmcSent })
          ∧
  (∀ (port : Nat) (s : State),
      port < 256 ∧ (s.esmcPorts.contains port = false ∨ s.portUp port = false) →
      ∃ t, exec (.esmcPduTx port) s = .next t ∧
        keepsAllBut [] s t ∧ t = s) ∧
  (∀ (output : Nat) (y : PpsOut) (s : State),
      output < 2 ∧ y = s.ref.pps.get output ∧ y.enable = true ∧ y.squelched = false ∧ y.direct = true →
      ∃ t, exec (.ppsOutPulse output) s = .next t ∧
        keepsAllBut [.clock, .free, .cmd, .hostMem, .ref, .pair, .fw, .mbs, .fence, .events, .stats] s t ∧ (t.ref.pps.get output).residual
          = 0 ∧ (t.ref.pps.get output).direct = false ∧ (t.ref.pps.get output).pulses = y.pulses + 1 ∧ ((t.ref.pps.get output).lastPulse -
          y.offset) % secU = 0 ∧ s.ktime ≤ (t.ref.pps.get output).lastPulse ∧ (t.ref.pps.get output).lastPulse < s.ktime + secU ∧
          (t.ref.pps.get output).highEnd = t.now + cyclesOf y.width ∧ (y.reportAligned = true → t.hasRaised 809 Ev.ppsAligned = true)) ∧
  (∀ (output : Nat) (y : PpsOut) (r : Int) (s : State),
      output < 2 ∧ y = s.ref.pps.get output ∧ y.enable = true ∧ y.squelched = false ∧ y.direct = false ∧ r = (if 0 ≤ y.residual then max 0
        (y.residual - y.slew) else min 0 (y.residual + y.slew)) →
      ∃ t, exec (.ppsOutPulse output) s = .next t ∧
        keepsAllBut [.clock, .free, .cmd, .hostMem, .ref, .pair, .fw, .mbs, .fence, .events, .stats] s t ∧ (t.ref.pps.get output).residual
          = r ∧ (t.ref.pps.get output).pulses = y.pulses + 1 ∧ ((t.ref.pps.get output).lastPulse - y.offset - r) % secU = 0 ∧ s.ktime ≤
          (t.ref.pps.get output).lastPulse ∧ (t.ref.pps.get output).highEnd = t.now + cyclesOf y.width ∧ (y.residual ≠ 0 → r = 0 →
          t.hasRaised 809 Ev.ppsAligned = true)) ∧
  (∀ (output : Nat) (s : State),
      output < 2 ∧ ((s.ref.pps.get output).enable = false ∨ (s.ref.pps.get output).squelched = true) →
      ∃ t, exec (.ppsOutPulse output) s = .next t ∧
        keepsAllBut [] s t ∧ t = s) ∧
  (∀ (output : Nat) (y : ClkOut) (s : State),
      output < 4 ∧ y = s.ref.clk.get output ∧ y.enable = true ∧ y.ktime = true ∧ y.squelched = false ∧ y.residual ≠ 0 →
      ∃ t, exec (.clkoutAligned output) s = .next t ∧
        keepsAllBut [.clock, .free, .cmd, .hostMem, .ref, .pair, .fw, .mbs, .fence, .events, .stats] s t ∧ t.ref =
          { s.ref with clk := s.ref.clk.set output { y with residual := 0, since := t.now } } ∧ t.hasRaised 809 Ev.clkoutAligned = true ∧
          y.slewAt + ceilDiv (y.residual.natAbs * secC) (max 1 y.slew) ≤ t.now) ∧
  (∀ (output : Nat) (y : ClkOut) (s : State),
      output < 4 ∧ y = s.ref.clk.get output ∧ (y.enable = false ∨ y.ktime = false ∨ y.squelched = true ∨ y.residual = 0) →
      ∃ t, exec (.clkoutAligned output) s = .next t ∧
        keepsAllBut [] s t ∧ t = s)

/-- The step allowance, the hold, the snapshots and the transmit-timestamp queues. A step allowance expires at its TICK, with
ALLOWANCE_EXPIRED. A hold ends when KTIME reaches the largest value it has shown, with HOLD_END. A take, by PF0 or PF1, stores the time,
whether it is held or unset, and the TICK in the slot of the next ticket, and the read returns that ticket's four bytes. A transmit
timestamp that is not there when its STAMP_TIMEOUT passes leaves its queue: as a TIMEOUT entry, with TSQ_TIMEOUT, or, where one copy of the
frame was sent, as that copy's STAMP, and, where the queue is disabled, as a count in TSQ_MISSED. A read count that is not beyond what was
written advances its queue, one beyond it raises TSQ_INDEX and one of a queue that a DMA channel owns BAD_ACCESS; both of those leave the
queue as it is. Out of these states a row changes nothing. (R188, R190, R193, R195, R196, R199, R205, R206, R208, R209) -/
def Obligations.TimeRows : Prop :=
  (∀ (a : Allowance) (s : State),
      s.time.allowance = some a →
      ∃ t, exec .allowanceExpired s = .next t ∧
        keepsAllBut [.clock, .free, .cmd, .hostMem, .time, .pair, .fw, .mbs, .fence, .events, .stats] s t ∧ t.time =
          { s.time with allowance := none } ∧ t.hasRaised 656 Ev.allowanceExpired = true ∧ (s.time.tickOn = true → s.time.tick0 + a.expiry
          ≤ t.now)) ∧
  (∀ (s : State),
      s.time.allowance = none →
      ∃ t, exec .allowanceExpired s = .next t ∧
        keepsAllBut [] s t ∧ t = s) ∧
  (∀ (s : State),
      s.time.held = true →
      ∃ t, exec .holdEnd s = .next t ∧
        keepsAllBut [.clock, .free, .cmd, .hostMem, .time, .pair, .fw, .mbs, .fence, .events, .stats] s t ∧ t.time =
          { s.time with held := false } ∧ t.hasRaised 656 Ev.holdEnd = true ∧ (s.time.tickOn = true → s.time.tick0 + s.seg.tickAt
          s.time.wMax ≤ t.now)) ∧
  (∀ (s : State),
      s.time.held = false →
      ∃ t, exec .holdEnd s = .next t ∧
        keepsAllBut [] s t ∧ t = s) ∧
  (∀ (pf1 : Bool) (s : State),
      pf1 = false →
      ∃ t, exec (.take pf1) s = .next t ∧
        keepsAllBut [.time, .host] s t ∧ t.time =
          { s.time with ticket0 := s.time.ticket0 + 1, snaps0 := s.time.snaps0.set (s.time.ticket0.toNat % 16) { ticket := s.time.ticket0, w := s.wTime, held := s.time.held, unset := !s.time.set_, tick := s.tick } }
          ∧ t.host.readData = (leBytes 4 s.time.ticket0.toNat).map some) ∧
  (∀ (pf1 : Bool) (s : State),
      pf1 = true →
      ∃ t, exec (.take pf1) s = .next t ∧
        keepsAllBut [.time, .host] s t ∧ t.time =
          { s.time with ticket1 := s.time.ticket1 + 1, snaps1 := s.time.snaps1.set (s.time.ticket1.toNat % 16) { ticket := s.time.ticket1, w := s.wTime, held := s.time.held, unset := !s.time.set_, tick := s.tick } }
          ∧ t.host.readData = (leBytes 4 s.time.ticket1.toNat).map some) ∧
  (∀ (queue : Nat) (x : Tsq) (r : TsqReq) (s : State),
      queue < 4 ∧ x = s.time.tsqs.get queue ∧ firstDeadline x.reqs = some r ∧ x.enable = true ∧ x.refusedRun = 0 ∧ s.tsqMarks queue = [] ∧
        (x.reqs.any fun y => y.final_.isSome) = false →
      ∃ t, exec (.tsqStampTimeout queue) s = .next t ∧
        keepsAllBut [.clock, .free, .cmd, .hostMem, .time, .pair, .fw, .mbs, .fence, .events, .stats] s t ∧ (t.time.tsqs.get queue).reqs =
          x.reqs.erase r ∧ (t.time.tsqs.get queue).wr = x.wr + 1 ∧ ((t.time.tsqs.get queue).entries.get (x.wr.toNat % 64)).id = r.id ∧
          ((t.time.tsqs.get queue).entries.get (x.wr.toNat % 64)).kind = (if r.sent.isSome then 0 else 2) ∧ (r.sent = none →
          (t.time.tsqs.get queue).timeoutSeen = true ∧ t.hasRaised (tsqSrc queue) Ev.tsqTimeout = true) ∧ r.deadline ≤ t.now) ∧
  (∀ (queue : Nat) (x : Tsq) (r : TsqReq) (s : State),
      queue < 4 ∧ x = s.time.tsqs.get queue ∧ firstDeadline x.reqs = some r ∧ x.enable = false ∧ s.tsqMarks queue = [] ∧ (x.reqs.any fun y
        => y.final_.isSome) = false →
      ∃ t, exec (.tsqStampTimeout queue) s = .next t ∧
        keepsAllBut [.clock, .free, .cmd, .hostMem, .time, .pair, .fw, .mbs, .fence, .events, .stats] s t ∧ (t.time.tsqs.get queue).reqs =
          x.reqs.erase r ∧ (t.time.tsqs.get queue).wr = x.wr ∧ (t.time.tsqs.get queue).missed = satAdd 32 x.missed 1 ∧ (t.time.tsqs.get
          queue).missedSeen = true ∧ r.deadline ≤ t.now) ∧
  (∀ (queue : Nat) (s : State),
      queue < 4 ∧ firstDeadline (s.time.tsqs.get queue).reqs = none →
      ∃ t, exec (.tsqStampTimeout queue) s = .next t ∧
        keepsAllBut [] s t ∧ t = s) ∧
  (∀ (queue : Nat) (value : BitVec 32) (x : Tsq) (s : State),
      queue < 4 ∧ s.streamOwned (9 + queue) = false ∧ x = s.time.tsqs.get queue ∧ dist32 x.rd value ≤ x.fill →
      ∃ t, exec (.tsqRdCountWrite queue value) s = .next t ∧
        keepsAllBut [.time, .fence, .events] s t ∧ (t.time.tsqs.get queue).rd = value ∧ (x.refusedRun = 0 → s.tsqMarks queue = [] →
          (x.reqs.any fun y => y.final_.isSome) = false → t.time.tsqs.get queue = { x with rd := value })) ∧
  (∀ (queue : Nat) (value : BitVec 32) (s : State),
      queue < 4 ∧ s.streamOwned (9 + queue) = false ∧ (s.time.tsqs.get queue).fill < dist32 (s.time.tsqs.get queue).rd value →
      ∃ t, exec (.tsqRdCountWrite queue value) s = .next t ∧
        keepsAllBut [.fence, .events] s t ∧ t.hasRaised (tsqSrc queue) Ev.tsqIndex = true) ∧
  (∀ (queue : Nat) (value : BitVec 32) (s : State),
      queue < 4 ∧ s.streamOwned (9 + queue) = true →
      ∃ t, exec (.tsqRdCountWrite queue value) s = .next t ∧
        keepsAllBut [.fence, .events] s t ∧ t.events.pending.getLsbD 832 = true)

/-- Messages received and sent, receipt timeouts, coasting limits and the asymmetry fallback. A message received on a port without an
instance is counted, one that fails a check under the first check that fails, in the order of R225. An Announce that passes is held for the
BMCA; a Sync gives its timestamps, or is counted on a port whose tap coasts; a Follow_Up completes its Sync; a master answers a Delay_Req
with the receive time, and a peer-to-peer port owes an answer to a Pdelay_Req; a Delay_Resp ends its request. When its interval has passed a
master port sends its Announce, or its Sync with the time of its TX stamp, one-step or with a Follow_Up, a port that follows its Delay_Req
and a peer-to-peer port its Pdelay_Req, numbered in order; an owed Pdelay_Resp is sent in order. A port whose PRE_MASTER has ended becomes
MASTER. When an Announce or a Sync does not come in time, or delay coasting ends, the instance's slot is inactive, with MASTER_LOSS; a delay
request not answered for 4 intervals is dropped and counted, and at the configured number delay coasting starts. A selvedge port whose
coasting ends gives no time words. A dual pair without a sample for the coast limit falls back, with ASYM_FALLBACK. Out of these states a
row changes nothing. Log entry 120 names what the model presumes of IEEE 1588. (R213, R214, R216, R218, R221, R223, R225, R226, R233, R236)
-/
def Obligations.PtpRows : Prop :=
  (∀ (port : Nat) (msg : PtpRx) (s : State),
      port < 256 ∧ s.instOf port = none ∧ (s.ptp.ports.get port).inst ≠ 4 →
      ∃ t, exec (.ptpMessageRx port msg) s = .next t ∧
        keepsAllBut [.ptp] s t ∧ t.ptp = { s.ptp with ports := s.ptp.ports.upd port fun x => { x with counts := x.counts.upd 1 inc32 } })
          ∧
  (∀ (port : Nat) (msg : PtpRx) (s : State),
      port < 256 ∧ s.instOf port = none ∧ (s.ptp.ports.get port).inst = 4 ∨ port < 256 ∧ s.instOf port ≠ none ∧ s.portUp port = false →
      ∃ t, exec (.ptpMessageRx port msg) s = .next t ∧
        keepsAllBut [] s t ∧ t = s) ∧
  (∀ (port : Nat) (msg : PtpRx) (n : Nat) (k : Nat) (s : State),
      port < 256 ∧ s.instOf port = some n ∧ s.portUp port = true ∧ s.messageFails n port msg = some k →
      ∃ t, exec (.ptpMessageRx port msg) s = .next t ∧
        keepsAllBut [.ptp] s t ∧ (t.ptp.ports.get port).counts = (s.ptp.ports.get port).counts.upd k inc32 ∧ t.ptp.insts = s.ptp.insts ∧
          t.ptp.sent = s.ptp.sent) ∧
  (∀ (port : Nat) (msg : PtpRx) (n : Nat) (s : State),
      port < 256 ∧ s.instOf port = some n ∧ s.portUp port = true ∧ (msg.major ≠ 2 ∨ 1 < msg.minor ∨ msg.domain ≠ (s.ptp.insts.get
        n).domain ∨ msg.sdo ≠ 0) →
      ∃ t, exec (.ptpMessageRx port msg) s = .next t ∧
        keepsAllBut [.ptp] s t ∧ (t.ptp.ports.get port).counts = (s.ptp.ports.get port).counts.upd (if msg.major ≠ 2 ∨ 1 < msg.minor then
          0 else 1) inc32) ∧
  (∀ (port : Nat) (msg : PtpRx) (n : Nat) (s : State),
      port < 256 ∧ s.instOf port = some n ∧ s.portUp port = true ∧ s.messageFails n port msg = none ∧ msg.kind = .announce →
      ∃ t, exec (.ptpMessageRx port msg) s = .next t ∧
        keepsAllBut [.free, .cmd, .hostMem, .lanes, .selv, .tdc, .ref, .time, .ptp, .pair, .fw, .mbs, .fence, .events] s t ∧
          ((t.ptp.ports.get port).foreign.any fun f => decide (f.clock = msg.clock ∧ f.portNumber = msg.portNumber ∧ f.prio1 = msg.prio1 ∧
          f.steps = msg.steps ∧ f.heard.head? = some s.now)) = true) ∧
  (∀ (port : Nat) (msg : PtpRx) (n : Nat) (s : State),
      port < 256 ∧ s.instOf port = some n ∧ s.portUp port = true ∧ s.messageFails n port msg = none ∧ msg.kind = .sync →
      ∃ t, exec (.ptpMessageRx port msg) s = .next t ∧
        keepsAllBut [.free, .cmd, .hostMem, .lanes, .selv, .tdc, .ref, .time, .ptp, .pair, .fw, .mbs, .fence, .events] s t ∧ (if
          s.coastsLong port = true then (t.ptp.ports.get port).counts = (s.ptp.ports.get port).counts.upd 15 inc32 else (t.ptp.ports.get
          port).sync = some
          { seq := msg.seq, twoStep := msg.twoStep, complete := !msg.twoStep, t1 := (msg.sec : Int) * secU + msg.ns * nsU, cs := msg.correction, t2 := s.kOf msg.tick msg.sub, tick := msg.tick, sub := msg.sub, stale := s.stampStale port, at_ := s.now }))
          ∧
  (∀ (port : Nat) (msg : PtpRx) (n : Nat) (y : PtpSync) (s : State),
      port < 256 ∧ s.instOf port = some n ∧ s.portUp port = true ∧ s.messageFails n port msg = none ∧ msg.kind = .followUp ∧
        (s.ptp.ports.get port).sync = some y →
      ∃ t, exec (.ptpMessageRx port msg) s = .next t ∧
        keepsAllBut [.free, .cmd, .hostMem, .lanes, .selv, .tdc, .ref, .time, .ptp, .pair, .fw, .mbs, .fence, .events] s t ∧
          (t.ptp.ports.get port).sync = some
          { y with complete := true, t1 := (msg.sec : Int) * secU + msg.ns * nsU, cs := y.cs + msg.correction }) ∧
  (∀ (port : Nat) (msg : PtpRx) (n : Nat) (s : State),
      port < 256 ∧ s.instOf port = some n ∧ s.portUp port = true ∧ s.messageFails n port msg = none ∧ msg.kind = .delayReq ∧
        (s.ptp.insts.get n).p2p = false ∧ (s.ptp.ports.get port).state = .master ∧ s.ptpMuted = false →
      ∃ t, exec (.ptpMessageRx port msg) s = .next t ∧
        keepsAllBut [.ptp] s t ∧ t.ptp.sent =
          { port := port, kind := .delayResp, domain := msg.domain, seq := msg.seq, stamp := ptpStamp (s.kOf msg.tick msg.sub), correction := msg.correction - s.kOf msg.tick msg.sub % (nsU : Int), req := (msg.clock, msg.portNumber) }
          :: s.ptp.sent) ∧
  (∀ (port : Nat) (msg : PtpRx) (n : Nat) (s : State),
      port < 256 ∧ s.instOf port = some n ∧ s.portUp port = true ∧ s.messageFails n port msg = none ∧ msg.kind = .pdelayReq ∧
        (s.ptp.insts.get n).p2p = true →
      ∃ t, exec (.ptpMessageRx port msg) s = .next t ∧
        keepsAllBut [.ptp] s t ∧ (t.ptp.ports.get port).pdelayDue = (s.ptp.ports.get port).pdelayDue ++
          [{ seq := msg.seq, clock := msg.clock, portNumber := msg.portNumber, correction := msg.correction, t2 := s.kOf msg.tick msg.sub }])
          ∧
  (∀ (port : Nat) (msg : PtpRx) (n : Nat) (r : PtpReq) (s : State),
      port < 256 ∧ s.instOf port = some n ∧ s.portUp port = true ∧ s.messageFails n port msg = none ∧ msg.kind = .delayResp ∧
        (s.ptp.ports.get port).request s.now msg false = some r →
      ∃ t, exec (.ptpMessageRx port msg) s = .next t ∧
        keepsAllBut [.free, .cmd, .hostMem, .lanes, .selv, .tdc, .ref, .time, .ptp, .pair, .fw, .mbs, .fence, .events] s t ∧
          ((t.ptp.ports.get port).reqs.any fun q => decide (q.seq = r.seq)) = false ∧ (t.ptp.ports.get port).unanswered = 0) ∧
  (∀ (port : Nat) (kind : PtpType) (tick sub : Nat) (n : Nat) (s : State),
      port < 256 ∧ kind = .announce ∧ (s.ptp.ports.get port).preEnd = none ∧ s.instOf port = some n ∧ s.portUp port = true ∧
        (s.ptp.ports.get port).state = .master ∧ s.ptpMuted = false →
      ∃ t, exec (.ptpMessageTx port kind tick sub) s = .next t ∧
        keepsAllBut [.clock, .free, .cmd, .hostMem, .ptp, .pair, .fw, .mbs, .fence, .events, .stats] s t ∧ (t.ptp.ports.get
          port).seqAnnounce = ((s.ptp.ports.get port).seqAnnounce + 1) % 65536 ∧ t.ptp.sent =
          { port := port, kind := .announce, domain := (s.ptp.insts.get n).domain, seq := (s.ptp.ports.get port).seqAnnounce, source := some (t.announceData n port) }
          :: s.ptp.sent ∧ s.ptpDue port 2 (s.ptp.ports.get port).logAnnounce ≤ t.now) ∧
  (∀ (port : Nat) (kind : PtpType) (tick sub : Nat) (n : Nat) (x : PtpPort) (s : State),
      port < 256 ∧ kind = .sync ∧ x = s.ptp.ports.get port ∧ x.preEnd = none ∧ s.instOf port = some n ∧ s.portUp port = true ∧ x.state =
        .master ∧ x.twoStep = false ∧ s.ptpMuted = false →
      ∃ t, exec (.ptpMessageTx port kind tick sub) s = .next t ∧
        keepsAllBut [.clock, .free, .cmd, .hostMem, .ptp, .pair, .fw, .mbs, .fence, .events, .stats] s t ∧ (t.ptp.ports.get port).seqSync
          = (x.seqSync + 1) % 65536 ∧ t.ptp.sent =
          { port := port, kind := .sync, domain := (s.ptp.insts.get n).domain, seq := x.seqSync, stamp := ptpStamp (t.txK port tick sub), correction := t.txK port tick sub % (nsU : Int) }
          :: s.ptp.sent ∧ s.ptpDue port 0 x.logSync ≤ t.now) ∧
  (∀ (port : Nat) (kind : PtpType) (tick sub : Nat) (n : Nat) (x : PtpPort) (s : State),
      port < 256 ∧ kind = .sync ∧ x = s.ptp.ports.get port ∧ x.preEnd = none ∧ s.instOf port = some n ∧ s.portUp port = true ∧ x.state =
        .master ∧ x.twoStep = true ∧ s.ptpMuted = false →
      ∃ t, exec (.ptpMessageTx port kind tick sub) s = .next t ∧
        keepsAllBut [.clock, .free, .cmd, .hostMem, .ptp, .pair, .fw, .mbs, .fence, .events, .stats] s t ∧ (t.ptp.ports.get port).seqSync
          = (x.seqSync + 1) % 65536 ∧ t.ptp.sent =
          { port := port, kind := .followUp, domain := (s.ptp.insts.get n).domain, seq := x.seqSync, stamp := ptpStamp (t.txK port tick sub), correction := t.txK port tick sub % (nsU : Int) }
          :: { port := port, kind := .sync, domain := (s.ptp.insts.get n).domain, seq := x.seqSync, twoStep := true } :: s.ptp.sent) ∧
  (∀ (port : Nat) (kind : PtpType) (tick sub : Nat) (n : Nat) (x : PtpPort) (s : State),
      port < 256 ∧ x = s.ptp.ports.get port ∧ x.preEnd = none ∧ s.instOf port = some n ∧ s.portUp port = true →
      (kind = .delayReq ∧ (s.ptp.insts.get n).p2p = false ∧ x.state.follows = true) ∨ (kind = .pdelayReq ∧ (s.ptp.insts.get n).p2p = true)
        →
      ∃ t, exec (.ptpMessageTx port kind tick sub) s = .next t ∧
        keepsAllBut [.clock, .free, .cmd, .hostMem, .ptp, .pair, .fw, .mbs, .fence, .events, .stats] s t ∧ (t.ptp.ports.get port).seqDelay
          = (x.seqDelay + 1) % 65536 ∧ (t.ptp.ports.get port).reqs = x.reqs ++
          [{ seq := x.seqDelay, sent := t.txK port tick sub, at_ := t.now }] ∧ t.ptp.sent =
          { port := port, kind := kind, domain := (s.ptp.insts.get n).domain, seq := x.seqDelay } :: s.ptp.sent ∧ s.ptpDue port 1
          x.logDelay ≤ t.now) ∧
  (∀ (port : Nat) (kind : PtpType) (tick sub : Nat) (n : Nat) (d : PtpDue) (l : List PtpDue) (s : State),
      port < 256 ∧ kind = .pdelayResp ∧ (s.ptp.ports.get port).preEnd = none ∧ s.instOf port = some n ∧ s.portUp port = true ∧
        (s.ptp.ports.get port).pdelayDue = d :: l ∧ (s.ptp.ports.get port).twoStep = false →
      ∃ t, exec (.ptpMessageTx port kind tick sub) s = .next t ∧
        keepsAllBut [.clock, .free, .cmd, .hostMem, .ptp, .pair, .fw, .mbs, .fence, .events, .stats] s t ∧ (t.ptp.ports.get
          port).pdelayDue = l ∧ t.ptp.sent =
          { port := port, kind := .pdelayResp, domain := (s.ptp.insts.get n).domain, seq := d.seq, correction := d.correction + (s.txK port tick sub - d.t2), req := (d.clock, d.portNumber) }
          :: s.ptp.sent) ∧
  (∀ (port : Nat) (kind : PtpType) (tick sub : Nat) (n : Nat) (s : State),
      port < 256 ∧ (s.ptp.ports.get port).preEnd = some n ∧ n ≤ s.now ∧ kind = .management ∧ (s.ptp.ports.get port).state ≠ .master →
      ∃ t, exec (.ptpMessageTx port kind tick sub) s = .next t ∧
        keepsAllBut [.clock, .free, .cmd, .hostMem, .ptp, .pair, .fw, .mbs, .fence, .events, .stats] s t ∧ (t.ptp.ports.get port).state =
          .master ∧ (t.ptp.ports.get port).preEnd = none ∧ t.hasRaised (portSrc port) Ev.portState = true) ∧
  (∀ (port : Nat) (kind : PtpType) (tick sub : Nat) (s : State),
      port < 256 ∧ (s.ptp.ports.get port).preEnd = none →
      s.instOf port = none ∨ s.portUp port = false ∨ ((kind = .sync ∨ kind = .announce) ∧ ((s.ptp.ports.get port).state ≠ .master ∨
        s.ptpMuted = true)) ∨ (kind = .pdelayResp ∧ (s.ptp.ports.get port).pdelayDue = []) →
      ∃ t, exec (.ptpMessageTx port kind tick sub) s = .next t ∧
        keepsAllBut [] s t ∧ t = s) ∧
  (∀ (inst : Nat) (n : Nat) (q : PtpSource) (s : State),
      inst < 4 ∧ (s.ptp.insts.get inst).announceEnd = some n ∧ (s.ptp.insts.get inst).parent = some q ∧ (((s.instPorts inst).filterMap fun
        p => (s.ptp.ports.get p).annEnd).all fun k => decide (n ≤ k)) = true →
      ∃ t, exec (.announceReceiptTimeout inst) s = .next t ∧
        keepsAllBut [.clock, .free, .cmd, .hostMem, .ref, .ptp, .pair, .fw, .mbs, .fence, .events, .stats] s t ∧ n ≤ t.now ∧
          ((t.ptp.ports.get q.port).foreign.any fun f => f.same q) = false ∧ (t.ref.slots.get (virtSlot inst)).active = false ∧
          t.hasRaised (instSrc inst) Ev.masterLoss = true) ∧
  (∀ (inst : Nat) (s : State),
      inst < 4 ∧ (s.ptp.insts.get inst).announceEnd = none ∧ ((s.instPorts inst).filterMap fun p => (s.ptp.ports.get p).annEnd) = [] →
      ∃ t, exec (.announceReceiptTimeout inst) s = .next t ∧
        keepsAllBut [] s t ∧ t = s) ∧
  (∀ (inst : Nat) (n : Nat) (s : State),
      inst < 4 ∧ (s.ptp.insts.get inst).syncEnd = some n →
      ∃ t, exec (.syncReceiptTimeout inst) s = .next t ∧
        keepsAllBut [.clock, .free, .cmd, .hostMem, .ref, .ptp, .pair, .fw, .mbs, .fence, .events, .stats] s t ∧ n ≤ t.now ∧
          (t.ptp.insts.get inst).syncEnd = none ∧ (t.ref.slots.get (virtSlot inst)).active = false ∧ t.hasRaised (instSrc inst)
          Ev.masterLoss = true) ∧
  (∀ (inst : Nat) (s : State),
      inst < 4 ∧ (s.ptp.insts.get inst).syncEnd = none →
      ∃ t, exec (.syncReceiptTimeout inst) s = .next t ∧
        keepsAllBut [] s t ∧ t = s) ∧
  (∀ (port : Nat) (r : PtpReq) (l : List PtpReq) (n : Nat) (x : PtpPort) (s : State),
      port < 256 ∧ s.instOf port = some n ∧ x = s.ptp.ports.get port ∧ x.reqs = r :: l →
      ∃ t, exec (.delayResponseTimeout port) s = .next t ∧
        keepsAllBut [.clock, .free, .cmd, .hostMem, .ptp, .pair, .fw, .mbs, .fence, .events, .stats] s t ∧ r.at_ + 4 * logCycles
          x.logDelay ≤ t.now ∧ (t.ptp.ports.get port).reqs = l ∧ (t.ptp.ports.get port).unanswered = x.unanswered + 1 ∧ (t.ptp.insts.get
          n).delayEnd = (if x.unanswered + 1 = x.delayTimeout ∧ (s.ptp.insts.get n).slavePort = some port then some (t.now + cyclesOf
          x.coastLimit) else (s.ptp.insts.get n).delayEnd)) ∧
  (∀ (port : Nat) (s : State),
      port < 256 ∧ (s.instOf port = none ∨ (s.ptp.ports.get port).reqs = []) →
      ∃ t, exec (.delayResponseTimeout port) s = .next t ∧
        keepsAllBut [] s t ∧ t = s) ∧
  (∀ (slot : Nat) (d : Nat) (s : State),
      slot < 28 ∧ 24 ≤ slot ∧ (s.ptp.insts.get (slot - 24)).delayEnd = some d →
      ∃ t, exec (.delayCoastExpiry slot) s = .next t ∧
        keepsAllBut [.clock, .free, .cmd, .hostMem, .lanes, .selv, .tdc, .ref, .ptp, .pair, .fw, .mbs, .fence, .events, .stats] s t ∧ d ≤
          t.now ∧ (t.ptp.insts.get (slot - 24)).delayEnd = none ∧ (t.ref.slots.get slot).active = false ∧ t.hasRaised (instSrc (slot -
          24)) Ev.masterLoss = true ∧ ((s.ptp.insts.get (slot - 24)).slavePort.all fun q => decide ((t.ptp.ports.get q).rtts = [])) =
          true) ∧
  (∀ (slot : Nat) (d : Nat) (q : Nat) (s : State),
      8 ≤ slot ∧ slot < 24 ∧ q = (s.ref.slots.get slot).src ∧ (s.ptp.asym.get q).coastEnd = some d →
      ∃ t, exec (.delayCoastExpiry slot) s = .next t ∧
        keepsAllBut [.clock, .free, .cmd, .hostMem, .lanes, .selv, .tdc, .ref, .ptp, .pair, .fw, .mbs, .fence, .events, .stats] s t ∧ d ≤
          t.now ∧ (t.ptp.asym.get q).coastEnd = none ∧ (t.selv.get q).timeWords = false ∧ t.ptp.servo.source ≠ some slot) ∧
  (∀ (slot : Nat) (s : State),
      (24 ≤ slot ∧ slot < 28 ∧ (s.ptp.insts.get (slot - 24)).delayEnd = none) ∨ (8 ≤ slot ∧ slot < 24 ∧ (s.ptp.asym.get (s.ref.slots.get
        slot).src).coastEnd = none) →
      ∃ t, exec (.delayCoastExpiry slot) s = .next t ∧
        keepsAllBut [] s t ∧ t = s) ∧
  (∀ (port : Nat) (y : Asym) (s : State),
      port < 256 ∧ y = s.ptp.asym.get port ∧ y.dual = true ∧ y.fallback = false →
      ∃ t, exec (.asymFallback port) s = .next t ∧
        keepsAllBut [.clock, .free, .cmd, .hostMem, .ptp, .pair, .fw, .mbs, .fence, .events, .stats] s t ∧ y.lastAccept + cyclesOf y.coast
          ≤ t.now ∧ (t.ptp.asym.get port).fallback = true ∧ (t.ptp.asym.get y.partner).fallback = true ∧ t.hasRaised 815 Ev.asymFallback =
          true) ∧
  (∀ (port : Nat) (s : State),
      port < 256 ∧ ((s.ptp.asym.get port).dual = false ∨ (s.ptp.asym.get port).fallback = true) →
      ∃ t, exec (.asymFallback port) s = .next t ∧
        keepsAllBut [] s t ∧ t = s)

/-- Marker edges, lost markers, activity and coasting limits, and the start of an orbit. A marker edge that waits is taken; where the
channel has not tracked or has no orbit nothing else changes; one within a tenth of a cycle of a cycle's start is counted as ambiguous, and
any other gives the distance of its bunch from the orbit's start, in the range of R262, and clears the count of orbits without a marker:
three in a row with the same distance, not 0, start a slew by it. A channel with a marker source and four orbits without a marker reports it
once, with MARKER_LOST. A source silent for its activity limit makes a tracking channel coast, for its coast limit, and an acquiring one
start over. At the coast limit the channel is not VALID and its running outputs with the squelch flag stop, with MCLK_SQUELCH. At its start
the orbit count is one more, or the count that is set for that time, an output that marks orbits gives a pulse, and the frame position
counts on or starts again. Out of these states a row changes nothing. (R252, R254, R255, R261, R262, R263, R264, R265) -/
def Obligations.MachineClockRows : Prop :=
  (∀ (chan : Nat) (s : State),
      chan < 4 ∧ (s.stitch.mc.get chan).marks = [] →
      ∃ t, exec (.markerEdge chan) s = .next t ∧
        keepsAllBut [] s t ∧ t = s) ∧
  (∀ (chan : Nat) (k : Stamp) (l : List Stamp) (s : State),
      chan < 4 ∧ (s.stitch.mc.get chan).marks = k :: l ∧ ((s.stitch.mc.get chan).tracked = false ∨ (s.stitch.mc.get chan).orbitLen = 0) →
      ∃ t, exec (.markerEdge chan) s = .next t ∧
        keepsAllBut [.stitch] s t ∧ t.stitch = { s.stitch with mc := s.stitch.mc.upd chan fun y => { y with marks := l } }) ∧
  (∀ (chan : Nat) (k : Stamp) (l : List Stamp) (y : McChan) (n : Int) (s : State),
      chan < 4 ∧ y = s.stitch.mc.get chan ∧ y.marks = k :: l ∧ y.tracked = true ∧ y.orbitLen ≠ 0 ∧ n = y.cycles (instQ k.tick k.sub +
        y.markOffset * 25) ∧ (n % 4294967296 * 10 < 4294967296 ∨ 9 * 4294967296 < n % 4294967296 * 10) →
      ∃ t, exec (.markerEdge chan) s = .next t ∧
        keepsAllBut [.stitch] s t ∧ t.stitch =
          { s.stitch with mc := s.stitch.mc.upd chan fun z => { z with marks := l, ambiguous := inc32 z.ambiguous } }) ∧
  (∀ (chan : Nat) (k : Stamp) (l : List Stamp) (y : McChan) (n : Int) (d : Int) (s : State),
      chan < 4 ∧ y = s.stitch.mc.get chan ∧ y.marks = k :: l ∧ y.tracked = true ∧ y.orbitLen ≠ 0 ∧ n = y.cycles (instQ k.tick k.sub +
        y.markOffset * 25) ∧ 4294967296 ≤ n % 4294967296 * 10 ∧ n % 4294967296 * 10 ≤ 9 * 4294967296 ∧ d = y.deltaOf (y.bunchOf n) →
      ∃ t, exec (.markerEdge chan) s = .next t ∧
        keepsAllBut [.stitch] s t ∧ (t.stitch.mc.get chan).marks = l ∧ (t.stitch.mc.get chan).delta = d ∧ (t.stitch.mc.get chan).markGap =
          0 ∧ (t.stitch.mc.get chan).markLostRaised = false ∧ -(y.orbitLen : Int) ≤ 2 * d ∧ 2 * d < (y.orbitLen : Int) ∧ (d = 0 →
          (t.stitch.mc.get chan).orbitValid = true ∧ (t.stitch.mc.get chan).markRun = 0) ∧ (d ≠ 0 → y.delta = d → 2 ≤ y.markRun →
          y.slewLeft = 0 → y.orbitSlew = 0 → (t.stitch.mc.get chan).slewLeft = d)) ∧
  (∀ (chan : Nat) (y : McChan) (s : State),
      chan < 4 ∧ y = s.stitch.mc.get chan ∧ y.enable = true ∧ y.tracked = true ∧ y.markSrc ≠ 3 ∧ 4 ≤ y.markGap ∧ y.markLostRaised = false
        →
      ∃ t, exec (.markerLost chan) s = .next t ∧
        keepsAllBut [.stitch, .fence, .events] s t ∧ t.stitch =
          { s.stitch with mc := s.stitch.mc.upd chan fun z => { z with markLostRaised := true } } ∧ t.hasRaised (mcSrc chan) Ev.markerLost
          = true) ∧
  (∀ (chan : Nat) (y : McChan) (s : State),
      chan < 4 ∧ y = s.stitch.mc.get chan ∧ (y.enable = false ∨ y.tracked = false ∨ y.markSrc = 3 ∨ y.markGap < 4 ∨ y.markLostRaised =
        true) →
      ∃ t, exec (.markerLost chan) s = .next t ∧
        keepsAllBut [] s t ∧ t = s) ∧
  (∀ (chan : Nat) (y : McChan) (s : State),
      chan < 4 ∧ y = s.stitch.mc.get chan ∧ y.enable = true ∧ y.state = .track →
      ∃ t, exec (.mcActivityTimeout chan) s = .next t ∧
        keepsAllBut [.clock, .free, .cmd, .hostMem, .lanes, .selv, .tdc, .stitch, .pair, .fw, .mbs, .fence, .events, .stats] s t ∧
          (t.stitch.mc.get chan).state = .coast ∧ (t.stitch.mc.get chan).coastEnd = some (t.now + cyclesOf y.coastLim) ∧ y.lastSeen +
          cyclesOf y.actLim ≤ t.now ∧ t.events.pending.getLsbD (mcSrc chan) = true) ∧
  (∀ (chan : Nat) (y : McChan) (s : State),
      chan < 4 ∧ y = s.stitch.mc.get chan ∧ y.enable = true ∧ y.state = .acquire →
      ∃ t, exec (.mcActivityTimeout chan) s = .next t ∧
        keepsAllBut [.clock, .free, .cmd, .hostMem, .lanes, .selv, .tdc, .stitch, .pair, .fw, .mbs, .fence, .events, .stats] s t ∧
          (t.stitch.mc.get chan).goodRun = 0 ∧ (t.stitch.mc.get chan).state = .acquire ∧ y.lastSeen + cyclesOf y.actLim ≤ t.now) ∧
  (∀ (chan : Nat) (y : McChan) (s : State),
      chan < 4 ∧ y = s.stitch.mc.get chan ∧ (y.enable = false ∨ y.state ≠ .track ∧ y.state ≠ .acquire) →
      ∃ t, exec (.mcActivityTimeout chan) s = .next t ∧
        keepsAllBut [] s t ∧ t = s) ∧
  (∀ (chan : Nat) (n : Nat) (s : State),
      chan < 4 ∧ (s.stitch.mc.get chan).state = .coast ∧ (s.stitch.mc.get chan).coastEnd = some n →
      ∃ t, exec (.mcCoastLimit chan) s = .next t ∧
        keepsAllBut [.clock, .free, .cmd, .hostMem, .stitch, .pair, .fw, .mbs, .fence, .events, .stats] s t ∧ (t.stitch.mc.get chan).valid
          = false ∧ (t.stitch.mc.get chan).coastEnd = none ∧ (t.stitch.mc.get chan).state = .coast ∧ n ≤ t.now ∧ ((List.range 4).all fun o
          => !(decide ((s.stitch.mclk.get o).chan = chan ∧ (s.stitch.mclk.get o).mode ≠ 0) && (s.stitch.mclk.get o).squelchFlag &&
          (t.stitch.mclk.get o).running)) = true) ∧
  (∀ (chan : Nat) (s : State),
      chan < 4 ∧ ((s.stitch.mc.get chan).state ≠ .coast ∨ (s.stitch.mc.get chan).coastEnd = none) →
      ∃ t, exec (.mcCoastLimit chan) s = .next t ∧
        keepsAllBut [] s t ∧ t = s) ∧
  (∀ (chan : Nat) (y : McChan) (s : State),
      chan < 4 ∧ y = s.stitch.mc.get chan ∧ y.enable = true ∧ y.tracked = true ∧ y.orbitLen ≠ 0 ∧ y.state ≠ .acquire ∧ y.setCount = none →
      ∃ t, exec (.orbitStart chan) s = .next t ∧
        keepsAllBut [.clock, .free, .cmd, .hostMem, .lanes, .selv, .tdc, .stitch, .pair, .fw, .mbs, .fence, .events, .stats] s t ∧
          (t.stitch.mc.get chan).orbit = (y.orbit + 1) % 18446744073709551616 ∧ (t.stitch.mc.get chan).markGap = y.markGap + 1 ∧
          (t.stitch.mc.get chan).framePos = (if y.frameCur ≤ y.framePos + 1 then 0 else y.framePos + 1) ∧ ((List.range 4).all fun o => if
          (decide ((s.stitch.mclk.get o).chan = chan ∧ (s.stitch.mclk.get o).mode = 2) && (s.stitch.mclk.get o).running) = true then
          decide ((t.stitch.mclk.get o).pulses = (s.stitch.mclk.get o).pulses + 1) else true) = true) ∧
  (∀ (chan : Nat) (y : McChan) (w : Int) (n : Nat) (s : State),
      chan < 4 ∧ y = s.stitch.mc.get chan ∧ y.enable = true ∧ y.tracked = true ∧ y.orbitLen ≠ 0 ∧ y.state ≠ .acquire ∧ y.setCount = some
        (w, n) ∧ w ≤ s.wTime →
      ∃ t, exec (.orbitStart chan) s = .next t ∧
        keepsAllBut [.clock, .free, .cmd, .hostMem, .lanes, .selv, .tdc, .stitch, .pair, .fw, .mbs, .fence, .events, .stats] s t ∧
          (t.stitch.mc.get chan).orbit = n % 18446744073709551616 ∧ (t.stitch.mc.get chan).setCount = none) ∧
  (∀ (chan : Nat) (y : McChan) (s : State),
      chan < 4 ∧ y = s.stitch.mc.get chan ∧ (y.enable = false ∨ y.tracked = false ∨ y.orbitLen = 0 ∨ y.state = .acquire) →
      ∃ t, exec (.orbitStart chan) s = .next t ∧
        keepsAllBut [] s t ∧ t = s)

/-- The parse window, the admission decision, the frame's end, the cell slot and the egress: what each does to frames and copies. A window
that ends with its frame in 63 bytes or fewer, with the complement of the FCS or with a bad FCS counts one error and makes no frame, and one
at a port that takes no frame does nothing. A window of 256 bytes makes the next frame, with its port and bytes, decided 120 cycles after
the close; one that ends with the frame counts it and its bytes, and a SYNCING unit makes no frame of it. A decided frame stays as it is; a
bad one is only marked. A frame longer than its port allows, or ending with the complement of the FCS or a bad FCS, is counted and ends bad,
and a good one ends with its bytes and is counted. At a cell slot TICK goes to the next multiple of 4, no copy loses cells that have
crossed, nothing is sent, and where no tile requests nothing moves. At a boundary a port that does not send, UP or BINDING, starts the first
guaranteed copy without a deadline in strict priority, and whatever it starts is in transmission from then; one that sends, or in no such
state, starts nothing. A stomped copy, or one whose cells have all crossed, is recorded as sent at its TX stamp and leaves the port and the
buffer; any other goes on. (R35, R276, R281, R323, R329, R331, R332, R333, R336, R339, R358) -/
def Obligations.FrameRows : Prop :=
  (∀ (port : Nat) (bytes : List Byte) (ended : Bool) (taps symbols tick : Nat) (s : State),
      port < 256 ∧ ended = true ∧ bytes.length < 64 ∧ s.time.tick0 + tick ≤ s.now ∧ (s.takesFrame port (s.rxStamp port taps symbols).1 &&
        s.glob.pdOn.getLsbD 3) = true →
      ∃ t, exec (.parseWindowClose port bytes ended taps symbols tick) s = .next t ∧
        keepsAllBut [.stats] s t ∧ t.stats.live.get (portCtr port 0x18) = satAdd 64 (s.stats.live.get (portCtr port 0x18)) 1) ∧
  (∀ (port : Nat) (bytes : List Byte) (ended : Bool) (taps symbols tick : Nat) (o : Nat) (s : State),
      port < 256 ∧ ended = true ∧ 64 ≤ bytes.length ∧ bytes.length ≤ 256 ∧ fcsOf bytes ≠ 0 ∧ s.time.tick0 + tick ≤ s.now ∧ (s.takesFrame
        port (s.rxStamp port taps symbols).1 && s.glob.pdOn.getLsbD 3) = true ∧ o = portCtr port (if fcsOf bytes = 2 then 0x28 else 0x10)
        →
      ∃ t, exec (.parseWindowClose port bytes ended taps symbols tick) s = .next t ∧
        keepsAllBut [.stats] s t ∧ t.stats.live.get o = satAdd 64 (s.stats.live.get o) 1) ∧
  (∀ (port : Nat) (bytes : List Byte) (ended : Bool) (taps symbols tick : Nat) (s : State),
      port < 256 ∧ (if ended = true then bytes.length ≤ 256 else bytes.length = 256) ∧ s.time.tick0 + tick ≤ s.now ∧ (s.takesFrame port
        (s.rxStamp port taps symbols).1 && s.glob.pdOn.getLsbD 3) = false →
      ∃ t, exec (.parseWindowClose port bytes ended taps symbols tick) s = .next t ∧
        keepsAllBut [] s t ∧ t = s) ∧
  (∀ (port : Nat) (bytes : List Byte) (ended : Bool) (taps symbols tick : Nat) (s : State),
      port < 256 ∧ ended = false ∧ bytes.length = 256 ∧ s.time.tick0 + tick ≤ s.now ∧ (s.takesFrame port (s.rxStamp port taps symbols).1
        && s.glob.pdOn.getLsbD 3) = true ∧ (s.pair.enable = false ∨ s.pair.role ≠ .syncing) →
      ∃ t, exec (.parseWindowClose port bytes ended taps symbols tick) s = .next t ∧
        keepsAllBut [.clock, .free, .cmd, .hostMem, .ptp, .parse, .core, .pair, .fw, .mbs, .fence, .events, .stats] s t ∧ t.core.nextFrame
          = s.core.nextFrame + 1 ∧ ((t.core.frames.find s.core.nextFrame).map fun f => decide (f.port = port ∧ f.bytes = bytes ∧ f.ended =
          false ∧ f.done = false ∧ f.decided = false ∧ f.closeAt = s.tick ∧ f.maxFrame = (s.ports.get port).maxFrame)) = some true) ∧
  (∀ (port : Nat) (bytes : List Byte) (ended : Bool) (taps symbols tick : Nat) (s : State),
      port < 256 ∧ ended = true ∧ 64 ≤ bytes.length ∧ bytes.length ≤ 256 ∧ fcsOf bytes = 0 ∧ s.time.tick0 + tick ≤ s.now ∧ (s.takesFrame
        port (s.rxStamp port taps symbols).1 && s.glob.pdOn.getLsbD 3) = true →
      ∃ t, exec (.parseWindowClose port bytes ended taps symbols tick) s = .next t ∧
        keepsAllBut [.clock, .free, .cmd, .hostMem, .ptp, .parse, .core, .pair, .fw, .mbs, .fence, .events, .stats] s t ∧ t.stats.live.get
          (portCtr port 0) = satAdd 64 (s.stats.live.get (portCtr port 0)) 1 ∧ t.stats.live.get (portCtr port 8) = satAdd 64
          (s.stats.live.get (portCtr port 8)) bytes.length ∧ (s.pair.enable = true → s.pair.role = .syncing → t.core = s.core)) ∧
  (∀ (frame : Nat) (f : Frame) (s : State),
      s.core.frames.find frame = some f ∧ f.decided = false ∧ f.bad = false →
      ∃ t, exec (.admissionDecision frame) s = .next t ∧
        keepsAllBut [.clock, .free, .cmd, .hostMem, .time, .parse, .fwd, .core, .contracts, .pair, .fw, .mbs, .fence, .events, .stats] s t
          ∧ (s.time.tickOn = true → s.time.tick0 + (f.closeAt + 120) ≤ t.now) ∧ ((t.core.frames.find frame).all fun g => g.decided) = true
          ∧ (t.core.copies.all fun q => s.core.copies.has q.1 || decide (q.2.frame = frame) && f.plan.copies.any fun c => decide (c.port =
          q.2.port)) = true) ∧
  (∀ (frame : Nat) (f : Frame) (s : State),
      s.core.frames.find frame = some f ∧ f.decided = false ∧ f.bad = false ∧ (f.plan.fault = true ∨ f.plan.copies = []) →
      ∃ t, exec (.admissionDecision frame) s = .next t ∧
        keepsAllBut [.clock, .free, .cmd, .hostMem, .time, .parse, .fwd, .core, .contracts, .pair, .fw, .mbs, .fence, .events, .stats] s t
          ∧ t.core.copies = s.core.copies) ∧
  (∀ (frame : Nat) (f : Frame) (s : State),
      s.core.frames.find frame = some f ∧ f.decided = false ∧ f.bad = true →
      ∃ t, exec (.admissionDecision frame) s = .next t ∧
        keepsAllBut [.clock, .free, .cmd, .hostMem, .time, .parse, .fwd, .core, .contracts, .pair, .fw, .mbs, .fence, .events, .stats] s t
          ∧ t.core.copies = s.core.copies ∧ ((t.core.frames.find frame).all fun g => g.decided) = true) ∧
  (∀ (frame : Nat) (f : Frame) (s : State),
      s.core.frames.find frame = some f ∧ f.decided = true →
      ∃ t, exec (.admissionDecision frame) s = .next t ∧
        keepsAllBut [] s t ∧ t = s) ∧
  (∀ (frame : Nat) (bytes : List Byte) (tick : Nat) (f : Frame) (o : Nat) (s : State),
      s.core.frames.find frame = some f ∧ f.done = false ∧ 256 < bytes.length ∧ bytes.take 256 = f.bytes ∧ (f.maxFrame < bytes.length ∨
        fcsOf bytes ≠ 0) →
      o = portCtr f.port (if f.maxFrame < bytes.length then 0x20 else if fcsOf bytes = 2 then 0x28 else 0x10) →
      ∃ t, exec (.frameEnd frame bytes tick) s = .next t ∧
        keepsAllBut [.clock, .free, .cmd, .hostMem, .time, .parse, .core, .contracts, .pair, .fw, .mbs, .fence, .events, .stats] s t ∧
          ((t.core.frames.find frame).all fun g => g.bad && g.done && decide (g.guar = [] ∧ g.slowWait = [] ∧ g.xout = [])) = true ∧ 1 ≤
          t.stats.live.get o ∧ ((t.core.copies.all fun q => decide (q.2.frame = frame → q.2.sending = true)) = true)) ∧
  (∀ (frame : Nat) (bytes : List Byte) (tick : Nat) (f : Frame) (s : State),
      s.core.frames.find frame = some f ∧ f.done = false ∧ 256 < bytes.length ∧ bytes.take 256 = f.bytes ∧ bytes.length ≤ f.maxFrame ∧
        fcsOf bytes = 0 ∧ (f.exc ≠ 0 ∨ f.parsed.truncated bytes.length = false) →
      ∃ t, exec (.frameEnd frame bytes tick) s = .next t ∧
        keepsAllBut [.clock, .free, .cmd, .hostMem, .time, .parse, .core, .contracts, .pair, .fw, .mbs, .fence, .events, .stats] s t ∧
          ((t.core.frames.find frame).all fun g => g.done && decide (g.bytes = bytes ∧ g.len = bytes.length ∧ g.bad = f.bad)) = true ∧ 1 ≤
          t.stats.live.get (portCtr f.port 0)) ∧
  (∀ (frame : Nat) (bytes : List Byte) (tick : Nat) (f : Frame) (s : State),
      s.core.frames.find frame = some f ∧ f.done = false ∧ 256 < bytes.length ∧ bytes.take 256 = f.bytes ∧ bytes.length ≤ f.maxFrame ∧
        fcsOf bytes = 0 ∧ f.exc = 0 ∧ f.parsed.truncated bytes.length = true →
      ∃ t, exec (.frameEnd frame bytes tick) s = .next t ∧
        keepsAllBut [.clock, .free, .cmd, .hostMem, .time, .parse, .core, .contracts, .pair, .fw, .mbs, .fence, .events, .stats] s t ∧
          ((t.core.frames.find frame).all fun g => g.bad && g.done && decide (g.guar = [] ∧ g.slowWait = [] ∧ g.xout = [])) = true ∧
          ((t.core.copies.all fun q => decide (q.2.frame = frame → q.2.sending = true)) = true) ∧ 1 ≤ t.stats.live.get (portCtr f.port 0))
          ∧
  (∀ (frame : Nat) (bytes : List Byte) (tick : Nat) (f : Frame) (s : State),
      s.core.frames.find frame = some f ∧ f.done = true →
      ∃ t, exec (.frameEnd frame bytes tick) s = .next t ∧
        keepsAllBut [] s t ∧ t = s) ∧
  (∀ (s : State),
      ∃ t, exec .cellSlot s = .next t ∧
        keepsAllBut [.clock, .free, .cmd, .hostMem, .core, .contracts, .pair, .fw, .mbs, .fence, .events, .stats] s t ∧ (s.time.tickOn =
          true → s.time.tick0 + (s.tick / 4 + 1) * 4 ≤ t.now) ∧ t.core.frames = s.core.frames ∧ t.core.sent = s.core.sent ∧
          (s.core.copies.all fun q => decide (s.core.copies.find q.1 = some q.2 → q.2.crossed ≤ (t.core.copies.get q.1).crossed)) = true)
          ∧
  (∀ (s : State),
      (s.advanceTick ((s.tick / 4 + 1) * 4)).requests = [] →
      ∃ t, exec .cellSlot s = .next t ∧
        keepsAllBut [.clock, .free, .cmd, .hostMem, .core, .contracts, .pair, .fw, .mbs, .fence, .events, .stats] s t ∧ t.core.copies =
          s.core.copies ∧ t.core.voqs = s.core.voqs ∧ t.core.egress = s.core.egress) ∧
  (∀ (port tick sub : Nat) (k : Nat) (s : State),
      port < 256 ∧ s.time.tick0 + (tick - 117) ≤ s.now ∧ (s.ports.get port).configured = true ∧ (s.portState port = .up ∨ s.portState port
        = .binding) ∧ (s.core.ports.get port).sending = none ∧ s.nextGuaranteed port = some k ∧ (s.core.copies.get k).deadline = none →
      ∃ t, exec (.egressFrameBoundary port tick sub) s = .next t ∧
        keepsAllBut [.clock, .free, .cmd, .hostMem, .time, .core, .contracts, .pair, .fw, .mbs, .fence, .events, .stats] s t ∧
          (t.core.ports.get port).sending = some k ∧ (t.core.copies.get k).sending = true) ∧
  (∀ (port tick sub : Nat) (s : State),
      port < 256 ∧ s.time.tick0 + (tick - 117) ≤ s.now ∧ (s.ports.get port).configured = true ∧ (s.portState port = .up ∨ s.portState port
        = .binding) ∧ (s.core.ports.get port).sending = none →
      ∃ t, exec (.egressFrameBoundary port tick sub) s = .next t ∧
        keepsAllBut [.clock, .free, .cmd, .hostMem, .time, .core, .contracts, .pair, .fw, .mbs, .fence, .events, .stats] s t ∧
          ((t.core.ports.get port).sending.all fun k => (t.core.copies.get k).sending) = true ∧ t.core.sent = s.core.sent) ∧
  (∀ (port tick sub : Nat) (s : State),
      port < 256 ∧ s.time.tick0 + (tick - 117) ≤ s.now ∧ ((s.ports.get port).configured = false ∨ s.portState port ≠ .up ∧ s.portState
        port ≠ .binding ∨ (s.core.ports.get port).sending.isSome = true) →
      ∃ t, exec (.egressFrameBoundary port tick sub) s = .next t ∧
        keepsAllBut [] s t ∧ t = s) ∧
  (∀ (port tick : Nat) (k : Nat) (x : Copy) (s : State),
      port < 256 ∧ (s.core.ports.get port).sending = some k ∧ x = s.core.copies.get k ∧ (x.stomp.isSome = true ∨ 0 < x.cells ∧ x.crossed =
        x.cells) ∧ s.time.tick0 + tick ≤ s.now →
      ∃ t, exec (.copySent port tick) s = .next t ∧
        keepsAllBut [.clock, .free, .cmd, .hostMem, .time, .core, .contracts, .pair, .fw, .mbs, .fence, .events, .stats] s t ∧
          t.core.copies = s.core.copies.del k ∧ (t.core.sent.head?.map fun r => (r.port, r.tc, r.tick, r.sub, r.stomp)) = some (port,
          x.tc, x.txTick, x.txSub, x.stomp) ∧ t.core.sent.tail = s.core.sent ∧ (x.port = port → (t.core.ports.get port).sending = none)) ∧
  (∀ (port tick : Nat) (s : State),
      port < 256 ∧
        (match (s.core.ports.get port).sending with | none => true | some k => (s.core.copies.get k).stomp.isNone && !decide (0 < (s.core.copies.get k).cells ∧ (s.core.copies.get k).crossed = (s.core.copies.get k).cells))
        = true →
      ∃ t, exec (.copySent port tick) s = .next t ∧
        keepsAllBut [] s t ∧ t = s)

/-- The skein's bursts and errors, buffer errors, flushes and the capture stream. The spill engine moves sixteen cells of the queue whose
turn it is to a skein that is ready and has room for them, and the return engine brings cells of one back: no copy then holds less, or more,
in the skein, the turn goes to the next queue and the cells are counted; without such a queue, or without a ready skein, nothing changes.
The skein is ready or failed after its initialisation, with SKEIN_READY or SKEIN_FAULT. A corrected error of the skein or of the buffer is
counted. An uncorrectable one in the skein discards the copy and is counted, and its location is retired, until more than 64 are: then the
skein fails, and with it go all copies that hold cells there. An uncorrectable one in the buffer ends the copies at the location, discarded
or stomped; a location that fails again within a second is retired, with CELL_RETIRED, else it is remembered. A flushed queue's copies all
end, with QUEUE_FLUSHED. The capture ring takes a read count that is not beyond what was written, answers another with CAP_INDEX, or
BAD_ACCESS where a DMA channel owns the stream, and times out once for its oldest unread record. (R336, R341, R343, R344, R347, R348, R351,
R355) -/
def Obligations.BufferRows : Prop :=
  (∀ (k : Nat) (s : State),
      s.core.skein = .ready ∧ s.skeinCells + 16 ≤ skeinSize ∧ s.engineNext s.core.spillPtr ((s.core.voqs.filter fun q => decide
        (((s.spillBurst q.1 q.2).foldl (fun a x => a + x.2.2) 0) = 16)).map (·.1)) = some k →
      ∃ t, exec .spillBurst s = .next t ∧
        keepsAllBut [.clock, .free, .cmd, .hostMem, .core, .contracts, .pair, .fw, .mbs, .fence, .events, .stats] s t ∧ t.core.spillPtr =
          (k + 1) % 131072 ∧ t.core.skSpilled = s.core.skSpilled + 16 ∧ (s.core.copies.all fun q => decide ((s.core.copies.get
          q.1).inSkein ≤ (t.core.copies.get q.1).inSkein ∧ (t.core.copies.get q.1).arrived = (s.core.copies.get q.1).arrived)) = true ∧
          (s.time.tickOn = true → s.time.tick0 + ceilDiv s.core.spillNext 25 ≤ t.now)) ∧
  (∀ (s : State),
      s.core.skein ≠ .ready ∨ skeinSize < s.skeinCells + 16 ∨ (s.core.voqs.all fun q => decide (((s.spillBurst q.1 q.2).foldl (fun a x =>
        a + x.2.2) 0) ≠ 16)) = true →
      ∃ t, exec .spillBurst s = .next t ∧
        keepsAllBut [] s t ∧ t = s) ∧
  (∀ (k : Nat) (s : State),
      s.core.skein = .ready ∧ s.engineNext s.core.returnPtr ((s.core.voqs.filter fun q => s.voqInSkein q.2 && decide (s.voqHeadCells q.2 <
        (s.core.classes.get (voqClass q.1)).returnLow)).map (·.1)) = some k →
      ∃ t, exec .returnBurst s = .next t ∧
        keepsAllBut [.clock, .free, .cmd, .hostMem, .core, .pair, .fw, .mbs, .fence, .events, .stats] s t ∧ t.core.returnPtr = (k + 1) %
          131072 ∧ t.core.skReturned = s.core.skReturned + (s.returnCells 16 (s.core.voqs.get k)).foldl (fun a x => a + x.2) 0 ∧
          (s.core.copies.all fun q => decide ((t.core.copies.get q.1).inSkein ≤ (s.core.copies.get q.1).inSkein ∧ (t.core.copies.get
          q.1).arrived = (s.core.copies.get q.1).arrived)) = true ∧ (s.time.tickOn = true → s.time.tick0 + ceilDiv s.core.returnNext 25 ≤
          t.now)) ∧
  (∀ (s : State),
      s.core.skein ≠ .ready ∨ (s.core.voqs.all fun q => !(s.voqInSkein q.2 && decide (s.voqHeadCells q.2 < (s.core.classes.get (voqClass
        q.1)).returnLow))) = true →
      ∃ t, exec .returnBurst s = .next t ∧
        keepsAllBut [] s t ∧ t = s) ∧
  (∀ (pass : Bool) (s : State),
      s.core.skein = .off ∧ s.glob.pdOn.getLsbD 5 = true →
      ∃ t, exec (.skeinInitDone pass) s = .next t ∧
        keepsAllBut [.core, .fence, .events] s t ∧ t.core = { s.core with skein := if pass then .ready else .failed } ∧ t.hasRaised 827
          (if pass then Ev.skeinReady else Ev.skeinFault) = true) ∧
  (∀ (pass : Bool) (s : State),
      s.core.skein ≠ .off ∨ s.glob.pdOn.getLsbD 5 = false →
      ∃ t, exec (.skeinInitDone pass) s = .next t ∧
        keepsAllBut [] s t ∧ t = s) ∧
  (∀ (copy : Nat) (fixed : Bool) (s : State),
      s.core.skein = .ready ∧ fixed = true →
      ∃ t, exec (.skeinCellError copy fixed) s = .next t ∧
        keepsAllBut [.core] s t ∧ t.core = { s.core with skCorrected := satAdd 64 s.core.skCorrected 1 }) ∧
  (∀ (copy : Nat) (fixed : Bool) (s : State),
      s.core.skein = .ready ∧ fixed = false ∧ 0 < (s.core.copies.get copy).inSkein →
      ∃ t, exec (.skeinCellError copy fixed) s = .next t ∧
        keepsAllBut [.free, .time, .core, .contracts, .pair, .fence, .events, .stats] s t ∧ (t.core.copies.any fun q => decide (q.1 =
          copy)) = false ∧ t.core.skUncorr = satAdd 64 s.core.skUncorr 1 ∧ t.core.skRetired = s.core.skRetired + 1 ∧ t.core.skein = (if 64
          < s.core.skRetired + 1 then .failed else .ready)) ∧
  (∀ (copy : Nat) (fixed : Bool) (s : State),
      s.core.skein ≠ .ready →
      ∃ t, exec (.skeinCellError copy fixed) s = .next t ∧
        keepsAllBut [] s t ∧ t = s) ∧
  (∀ (s : State),
      s.core.skein = .ready →
      ∃ t, exec .skeinFault s = .next t ∧
        keepsAllBut [.free, .time, .core, .contracts, .pair, .fence, .events, .stats] s t ∧ t.core.skein = .failed ∧ t.hasRaised 827
          Ev.skeinFault = true ∧ (t.core.copies.all fun q => decide (q.2.inSkein = 0)) = true) ∧
  (∀ (s : State),
      s.core.skein ≠ .ready →
      ∃ t, exec .skeinFault s = .next t ∧
        keepsAllBut [] s t ∧ t = s) ∧
  (∀ (copies : List Nat) (location : Nat) (fixed : Bool) (s : State),
      location < 524288 ∧ fixed = true ∧ (copies.all fun k => s.core.copies.has k) = true →
      ∃ t, exec (.cellEccError copies location fixed) s = .next t ∧
        keepsAllBut [.core] s t ∧ t.core = { s.core with corrected := satAdd 64 s.core.corrected 1 }) ∧
  (∀ (copies : List Nat) (location : Nat) (fixed : Bool) (s : State),
      location < 524288 ∧ fixed = false ∧ (copies.all fun k => s.core.copies.has k) = true ∧ (s.core.cellErr.any fun q => decide (q.1 =
        location ∧ s.now < q.2 + secC)) = true →
      ∃ t, exec (.cellEccError copies location fixed) s = .next t ∧
        keepsAllBut [.free, .time, .core, .contracts, .pair, .fence, .events, .stats] s t ∧ t.core.retired = s.core.retired + 1 ∧
          (t.core.cellErr.any fun q => decide (q.1 = location)) = false ∧ t.hasRaised (672 + location / 8192) Ev.cellRetired = true ∧
          (copies.all fun k => !t.core.copies.has k || (t.core.copies.get k).stomp.isSome) = true) ∧
  (∀ (copies : List Nat) (location : Nat) (fixed : Bool) (s : State),
      location < 524288 ∧ fixed = false ∧ (copies.all fun k => s.core.copies.has k) = true ∧ (s.core.cellErr.any fun q => decide (q.1 =
        location ∧ s.now < q.2 + secC)) = false →
      ∃ t, exec (.cellEccError copies location fixed) s = .next t ∧
        keepsAllBut [.free, .time, .core, .contracts, .pair, .fence, .events, .stats] s t ∧ t.core.retired = s.core.retired ∧
          t.core.cellErr = (s.core.cellErr.filter fun q => decide (q.1 ≠ location)) ++ [(location, s.now)] ∧ (copies.all fun k =>
          !t.core.copies.has k || (t.core.copies.get k).stomp.isSome) = true) ∧
  (∀ (tile port cls : Nat) (egress : Bool) (l : List Nat) (s : State),
      tile < 64 ∧ port < 256 ∧ cls < 8 ∧ l = (if egress then s.core.egress.get (8 * port + cls) else s.core.voqs.get (voqKey tile port
        cls)) →
      ∃ t, exec (.queueFlushed tile port cls egress) s = .next t ∧
        keepsAllBut [.free, .time, .core, .contracts, .pair, .fence, .events, .stats] s t ∧ t.hasRaised (672 + (if egress then tileOf port
          else tile)) Ev.queueFlushed = true ∧ (l.all fun k => !t.core.copies.has k || (t.core.copies.get k).stomp.isSome) = true) ∧
  (∀ (value : BitVec 32) (s : State),
      s.streamOwned 8 = false ∧ dist32 s.core.capture.rd value ≤ s.core.capture.fill →
      ∃ t, exec (.capRdCountWrite value) s = .next t ∧
        keepsAllBut [.core, .fence, .events] s t ∧ t.core.capture.rd = value ∧ (s.core.capture.wait = [] → s.core.capture.held = [] →
          s.core.capture.lostRun = 0 → t.core.capture = { s.core.capture with rd := value })) ∧
  (∀ (value : BitVec 32) (s : State),
      s.streamOwned 8 = false ∧ s.core.capture.fill < dist32 s.core.capture.rd value →
      ∃ t, exec (.capRdCountWrite value) s = .next t ∧
        keepsAllBut [.fence, .events] s t ∧ t.hasRaised 828 Ev.capIndex = true) ∧
  (∀ (value : BitVec 32) (s : State),
      s.streamOwned 8 = true →
      ∃ t, exec (.capRdCountWrite value) s = .next t ∧
        keepsAllBut [.fence, .events] s t ∧ t.events.pending.getLsbD 832 = true) ∧
  (∀ (y : Capture) (s : State),
      y = s.core.capture ∧ y.fill ≠ 0 ∧ y.idleTimeout ≠ 0 ∧ y.timeoutSeen ≠ some y.rd.toNat →
      ∃ t, exec .capTimeout s = .next t ∧
        keepsAllBut [.clock, .free, .cmd, .hostMem, .core, .pair, .fw, .mbs, .fence, .events, .stats] s t ∧ t.core =
          { s.core with capture := { y with timeoutSeen := some y.rd.toNat } } ∧ t.hasRaised 828 Ev.capTimeout = true ∧ (y.recs.get
          (y.rd.toNat % 262144)).written + y.idleTimeout * usC ≤ t.now) ∧
  (∀ (y : Capture) (s : State),
      y = s.core.capture ∧ (y.fill = 0 ∨ y.idleTimeout = 0 ∨ y.timeoutSeen = some y.rd.toNat) →
      ∃ t, exec .capTimeout s = .next t ∧
        keepsAllBut [] s t ∧ t = s)

/-- Contracts that have drained, table and ACL scrubs, expiring duplicates and sessions, and the debug tap. A draining contract with no copy
left leaves the table, with CONTRACT_DRAINED, and the others are evaluated again. A table error that scrubbing corrects is counted; a
location it cannot correct is LOST, with TABLE_ECC, and a learned or host entry whose key did not survive leaves its table; one that is LOST
already stays so. A LOST location of a table of which firmware keeps a good copy is rebuilt, with TABLE_REBUILT, and no other. An ACL entry
that fails is LOST and each that turns so raises ACL_LOST; no other entry changes. A source of the duplicate table not seen for a second
leaves it. A session is closed when it expires. A debug instruction that the debug level does not permit leaves the tap in bypass and no
core changes; one that it permits stands in the tap, and HALT stops a running core, RELEASE runs a halted one, and no other instruction
moves a core. (R298, R318, R366, R367, R393, R432, R433, R434) -/
def Obligations.TableAndDebugRows : Prop :=
  (∀ (port cls : Nat) (y : Contract) (s : State),
      port < 256 ∧ 4 ≤ cls ∧ cls < 8 ∧ s.contracts.table.find (contractKey port cls) = some y ∧ y.state = .draining ∧ y.copies = 0 →
      ∃ t, exec (.contractDrained port cls) s = .next t ∧
        keepsAllBut [.contracts, .fw, .fence, .events] s t ∧ t.contracts.table.length ≤ s.contracts.table.length ∧
          t.events.pending.getLsbD 829 = true ∧ ((s.contracts.table.map (·.1)).Nodup → t.contracts.table.has (contractKey port cls) =
          false)) ∧
  (∀ (port cls : Nat) (s : State),
      port < 256 ∧ 4 ≤ cls ∧ cls < 8 ∧
        (match s.contracts.table.find (contractKey port cls) with | none => true | some y => decide (y.state ≠ .draining ∨ y.copies ≠ 0))
        = true →
      ∃ t, exec (.contractDrained port cls) s = .next t ∧
        keepsAllBut [] s t ∧ t = s) ∧
  (∀ (table location : Nat) (fixed keyOk : Bool) (s : State),
      locationOk table location = true ∧ fixed = true →
      ∃ t, exec (.tableScrub table location fixed keyOk) s = .next t ∧
        keepsAllBut [.fwd, .stats] s t ∧ t.fwd = { s.fwd with corrected := satAdd 64 s.fwd.corrected 1 } ∧ t.stats.live.get (deviceCtr
          0x1018) = satAdd 64 (s.stats.live.get (deviceCtr 0x1018)) 1) ∧
  (∀ (table location : Nat) (fixed keyOk : Bool) (s : State),
      locationOk table location = true ∧ fixed = false ∧ s.isLost table location = false →
      ∃ t, exec (.tableScrub table location fixed keyOk) s = .next t ∧
        keepsAllBut [.fwd, .fence, .events, .stats] s t ∧ t.isLost table location = true ∧ t.hasRaised 826 Ev.tableEcc = true ∧
          t.fwd.lost.length = s.fwd.lost.length + 1 ∧ (keyOk = true → t.fwd.l2 = s.fwd.l2 ∧ t.fwd.hosts = s.fwd.hosts)) ∧
  (∀ (table location : Nat) (fixed keyOk : Bool) (s : State),
      locationOk table location = true ∧ fixed = false ∧ s.isLost table location = true →
      ∃ t, exec (.tableScrub table location fixed keyOk) s = .next t ∧
        keepsAllBut [] s t ∧ t = s) ∧
  (∀ (table location : Nat) (s : State),
      locationOk table location = true ∧ s.isLost table location = true ∧ [2, 3, 9, 10].contains table = true ∧ s.fwd.badCopies.contains
        (table, location) = false →
      ∃ t, exec (.tableRebuilt table location) s = .next t ∧
        keepsAllBut [.fwd, .fence, .events] s t ∧ t.fwd =
          { s.fwd with lost := s.fwd.lost.filter fun x => !decide (x.table = table ∧ x.loc = location) } ∧ t.isLost table location = false
          ∧ t.hasRaised 826 Ev.tableRebuilt = true) ∧
  (∀ (table location : Nat) (s : State),
      locationOk table location = true ∧ (s.isLost table location = false ∨ [2, 3, 9, 10].contains table = false ∨
        s.fwd.badCopies.contains (table, location) = true) →
      ∃ t, exec (.tableRebuilt table location) s = .next t ∧
        keepsAllBut [] s t ∧ t = s) ∧
  (∀ (failing : List Nat) (s : State),
      (failing.all fun n => decide (n < 32768)) = true →
      ∃ t, exec (.aclScrub failing) s = .next t ∧
        keepsAllBut [.parse, .fence, .events] s t ∧ (failing.all fun n => (t.parse.acl.find n).all fun y => y.lost) = true ∧
          (s.parse.acl.all fun q => !failing.contains q.1 || decide (t.parse.acl.find q.1 = (s.parse.acl.find q.1).map fun y =>
          { y with lost := true })) = true ∧ (s.parse.acl.all fun q => failing.contains q.1 || decide (t.parse.acl.find q.1 =
          s.parse.acl.find q.1)) = true ∧ ((failing.any fun n => (s.parse.acl.find n).any fun y => !y.lost) = true → t.hasRaised 826
          Ev.aclLost = true)) ∧
  (∀ (source : Nat) (y : DupEntry) (s : State),
      source < 65536 ∧ s.pair.dup.find source = some y →
      ∃ t, exec (.dupEntryExpiry source) s = .next t ∧
        keepsAllBut [.clock, .free, .cmd, .hostMem, .pair, .fw, .mbs, .fence, .events, .stats] s t ∧ t.pair =
          { s.pair with dup := s.pair.dup.del source } ∧ y.lastSeen + secC ≤ t.now) ∧
  (∀ (source : Nat) (s : State),
      source < 65536 ∧ s.pair.dup.find source = none →
      ∃ t, exec (.dupEntryExpiry source) s = .next t ∧
        keepsAllBut [] s t ∧ t = s) ∧
  (∀ (n : Nat) (s : State),
      s.fw.sessionEnd = some n →
      ∃ t, exec .sessionExpiry s = .next t ∧
        keepsAllBut [.clock, .free, .cmd, .hostMem, .pair, .fw, .mbs, .fence, .events, .stats] s t ∧ t.fw.sessionEnd = none ∧ n ≤ t.now) ∧
  (∀ (s : State),
      s.fw.sessionEnd = none →
      ∃ t, exec .sessionExpiry s = .next t ∧
        keepsAllBut [] s t ∧ t = s) ∧
  (∀ (instr : TapInstr) (n : Nat) (s : State),
      instr = .halt n ∧ n < 14 ∧ Debug.permits s.fw.debug instr = true ∧ (s.fw.cores.get n).state = 1 →
      ∃ t, exec (.debugTapInstruction instr) s = .next t ∧
        keepsAllBut [.fw] s t ∧ (t.fw.cores.get n).state = 2 ∧ t.fw.tap = .halt n) ∧
  (∀ (instr : TapInstr) (n : Nat) (s : State),
      instr = .release n ∧ n < 14 ∧ Debug.permits s.fw.debug instr = true ∧ (s.fw.cores.get n).state = 2 →
      ∃ t, exec (.debugTapInstruction instr) s = .next t ∧
        keepsAllBut [.fw] s t ∧ (t.fw.cores.get n).state = 1 ∧ t.fw.tap = .release n) ∧
  (∀ (instr : TapInstr) (s : State),
      ((tapCore instr).all fun n => decide (n < 15)) = true ∧ Debug.permits s.fw.debug instr = true →
      (match instr with | .halt n => decide (n = 14 ∨ (s.fw.cores.get n).state ≠ 1) | .release n => decide (n = 14 ∨ (s.fw.cores.get n).state ≠ 2) | _ => true)
        = true →
      ∃ t, exec (.debugTapInstruction instr) s = .next t ∧
        keepsAllBut [.fw] s t ∧ t.fw = { s.fw with tap := instr }) ∧
  (∀ (instr : TapInstr) (s : State),
      Debug.permits s.fw.debug instr = false ∧ ((tapCore instr).all fun n => decide (n < 15)) = true →
      ∃ t, exec (.debugTapInstruction instr) s = .next t ∧
        keepsAllBut [.fw] s t ∧ t.fw = { s.fw with tap := .bypass })

/-- Hellos, heartbeats, silence, health reports, time probes and self-tests of the pair link. A JOINING unit that hears a HELLO from a unit
with its own strap, another stepping or another order is MISMATCH, with PAIR_MISMATCH; the one with the larger ROLE_EPOCH, or by the strap,
is ACTIVE with an epoch above both, and the other SYNCING; any other unit in a pair notes the partner's epoch. A join without answer ends
ACTIVE. A heartbeat edge stable for 4 cycles 625 to 1,875 cycles after the last counts up to 64, when the heartbeat is present, the first
edge starts the count. A heartbeat, a link or a report silent for its limit is lost, with its event; a standby to which two of the three are
lost is ACTIVE. The own heartbeat toggles every 1,250 cycles while the watchdog and the role allow. An expired watchdog stops it, and a unit
that serves, stands by or synchronises is JOINING. A keep-alive and a report are sent. A report that is not valid or not newer is only noted
as heard; any other is entered with its role, epoch and level. A probe gives the offset and the time error, aligns a SYNCING unit or makes a
STANDBY that has lost its alignment SYNCING, with ALIGN_LOST. At the alignment edge and delay TICK starts from 0. A self-test's result is
counted, and a failure raises SELFTEST_FAIL unless it is critical on an ACTIVE unit with a healthy standby: then a switchover joins the
journal. The pair test ends. Out of these states a row changes nothing. (R378, R379, R380, R381, R382, R383, R384, R401, R405, R409, R412)
-/
def Obligations.PairLinkRows : Prop :=
  (∀ (strap : Bool) (epoch order stepping : Nat) (s : State),
      s.pair.enable = true ∧ s.pair.role = .joining ∧ s.pair.watchdogDead = false ∧ (strap = s.fuses.pairStrap ∨ stepping ≠ 0xB0 ∨ decide
        (order = 1 ∨ order = 2) ≠ s.fuses.orderCode.skein) →
      ∃ t, exec (.partnerHello strap epoch order stepping) s = .next t ∧
        keepsAllBut [.time, .pair, .fence, .events] s t ∧ t.pair.role = .mismatch ∧ t.pair.aliveOut = false ∧ t.pair.joinEnd = none ∧
          t.hasRaised 752 Ev.pairMismatch = true) ∧
  (∀ (strap : Bool) (epoch order stepping : Nat) (s : State),
      s.pair.enable = true ∧ s.pair.role = .joining ∧ s.pair.watchdogDead = false ∧ strap ≠ s.fuses.pairStrap ∧ stepping = 0xB0 ∧ decide
        (order = 1 ∨ order = 2) = s.fuses.orderCode.skein ∧ (epoch < s.pair.epoch ∨ epoch = s.pair.epoch ∧ s.fuses.pairStrap = false) →
      ∃ t, exec (.partnerHello strap epoch order stepping) s = .next t ∧
        keepsAllBut [.time, .pair, .fence, .events] s t ∧ t.pair.role = .active ∧ t.pair.partnerEpoch = epoch ∧ t.pair.epoch = (max
          s.pair.epoch epoch + 1) % 2 ^ 64 ∧ t.pair.joinEnd = none) ∧
  (∀ (strap : Bool) (epoch order stepping : Nat) (s : State),
      s.pair.enable = true ∧ s.pair.role = .joining ∧ s.pair.watchdogDead = false ∧ strap ≠ s.fuses.pairStrap ∧ stepping = 0xB0 ∧ decide
        (order = 1 ∨ order = 2) = s.fuses.orderCode.skein ∧ (s.pair.epoch < epoch ∨ epoch = s.pair.epoch ∧ s.fuses.pairStrap = true) →
      ∃ t, exec (.partnerHello strap epoch order stepping) s = .next t ∧
        keepsAllBut [.time, .pair, .fence, .events] s t ∧ t.pair.role = .syncing ∧ t.pair.partnerEpoch = epoch ∧ t.pair.aligned = false ∧
          t.pair.joinEnd = none) ∧
  (∀ (strap : Bool) (epoch order stepping : Nat) (s : State),
      s.pair.enable = true ∧ s.pair.watchdogDead = false ∧ (s.pair.role = .active ∨ s.pair.role = .standby ∨ s.pair.role = .syncing ∨
        s.pair.role = .detached) →
      ∃ t, exec (.partnerHello strap epoch order stepping) s = .next t ∧
        keepsAllBut [.time, .pair, .fence, .events] s t ∧ t.pair.role = s.pair.role ∧ t.pair.partnerEpoch = epoch ∧ t.pair.epoch =
          s.pair.epoch ∧ t.pair.controlRx = s.now) ∧
  (∀ (strap : Bool) (epoch order stepping : Nat) (s : State),
      s.pair.enable = false ∨ s.pair.watchdogDead = true ∨ s.pair.role = .alone ∨ s.pair.role = .mismatch →
      ∃ t, exec (.partnerHello strap epoch order stepping) s = .next t ∧
        keepsAllBut [] s t ∧ t = s) ∧
  (∀ (n : Nat) (s : State),
      s.pair.joinEnd = some n ∧ s.pair.role = .joining →
      ∃ t, exec .joinTimeout s = .next t ∧
        keepsAllBut [.clock, .free, .cmd, .hostMem, .time, .pair, .fw, .mbs, .fence, .events, .stats] s t ∧ t.pair.role = .active ∧
          t.pair.joinEnd = none ∧ n ≤ t.now ∧ t.pair.epoch = (max s.pair.epoch s.pair.partnerEpoch + 1) % 2 ^ 64) ∧
  (∀ (s : State),
      s.pair.joinEnd = none ∨ s.pair.role ≠ .joining →
      ∃ t, exec .joinTimeout s = .next t ∧
        keepsAllBut [] s t ∧ t = s) ∧
  (∀ (cycle stable : Nat) (n : Nat) (s : State),
      4 ≤ stable ∧ s.now ≤ cycle ∧ s.pair.aliveEdge = some n ∧ 625 ≤ cycle - n ∧ cycle - n ≤ 1875 →
      ∃ t, exec (.pairAliveEdge cycle stable) s = .next t ∧
        keepsAllBut [.clock, .free, .cmd, .hostMem, .pair, .fw, .mbs, .fence, .events, .stats] s t ∧ t.pair.aliveRun = min 64
          (s.pair.aliveRun + 1) ∧ t.pair.alive = (s.pair.alive || decide (64 ≤ s.pair.aliveRun + 1)) ∧ t.pair.aliveEdge = some cycle ∧
          t.pair.aliveIn = !s.pair.aliveIn ∧ t.now = cycle) ∧
  (∀ (cycle stable : Nat) (s : State),
      4 ≤ stable ∧ s.now ≤ cycle ∧ s.pair.aliveEdge = none →
      ∃ t, exec (.pairAliveEdge cycle stable) s = .next t ∧
        keepsAllBut [.clock, .free, .cmd, .hostMem, .pair, .fw, .mbs, .fence, .events, .stats] s t ∧ t.pair.aliveRun = 0 ∧ t.pair.alive =
          s.pair.alive ∧ t.pair.aliveEdge = some cycle ∧ t.pair.aliveIn = !s.pair.aliveIn) ∧
  (∀ (cycle stable : Nat) (n : Nat) (s : State),
      4 ≤ stable ∧ s.now ≤ cycle ∧ s.pair.aliveEdge = some n ∧ cycle - n < 625 →
      ∃ t, exec (.pairAliveEdge cycle stable) s = .next t ∧
        keepsAllBut [.clock, .free, .cmd, .hostMem, .pair, .fw, .mbs, .fence, .events, .stats] s t ∧ t.pair.aliveRun = 0 ∧ t.pair.alive =
          s.pair.alive ∧ t.pair.aliveEdge = some cycle ∧ t.pair.aliveRange = inc32 s.pair.aliveRange) ∧
  (∀ (cycle stable : Nat) (s : State),
      stable < 4 →
      ∃ t, exec (.pairAliveEdge cycle stable) s = .next t ∧
        keepsAllBut [] s t ∧ t = s) ∧
  (∀ (n : Nat) (s : State),
      s.pair.aliveEdge = some n ∧ s.pair.alive = true →
      ∃ t, exec .heartbeatLost s = .next t ∧
        keepsAllBut [.clock, .free, .cmd, .hostMem, .fuses, .glob, .chan, .lanes, .ports, .modules, .selv, .tdc, .gauge, .ref, .time,
          .ptp, .stitch, .parse, .fwd, .core, .contracts, .pair, .fw, .mbs, .fence, .events, .stats, .power] s t ∧ t.pair.alive = false ∧
          t.pair.aliveRun = 0 ∧ n + 8 * usC ≤ t.now ∧ t.events.pending.getLsbD 753 = true ∧ (s.pair.enable = true → s.pair.role = .standby
          → s.pair.healthLost = true → t.pair.role = .active)) ∧
  (∀ (s : State),
      s.pair.aliveEdge = none ∨ s.pair.alive = false →
      ∃ t, exec .heartbeatLost s = .next t ∧
        keepsAllBut [] s t ∧ t = s) ∧
  (∀ (n : Nat) (s : State),
      s.time.tickOn = true ∧ n = (s.tick / 1250 + 1) * 1250 →
      ∃ t, exec .pairAliveToggle s = .next t ∧
        keepsAllBut [.clock, .free, .cmd, .hostMem, .pair, .fw, .mbs, .fence, .events, .stats] s t ∧ s.time.tick0 + n ≤ t.now ∧
          t.pair.aliveOut = (if (s.pdOn 1 && !s.pair.watchdogDead && decide (s.pair.role ≠ .alone ∧ s.pair.role ≠ .mismatch ∧ n %
          320000000 ≠ 0)) = true then !s.pair.aliveOut else s.pair.aliveOut)) ∧
  (∀ (s : State),
      s.time.tickOn = false →
      ∃ t, exec .pairAliveToggle s = .next t ∧
        keepsAllBut [] s t ∧ t = s) ∧
  (∀ (s : State),
      s.pair.enable = true ∧ s.pair.watchdogDead = false ∧ s.pair.role ≠ .alone ∧ s.pair.role ≠ .mismatch →
      ∃ t, exec .pairWatchdogExpiry s = .next t ∧
        keepsAllBut [.clock, .free, .cmd, .hostMem, .fuses, .glob, .chan, .lanes, .ports, .modules, .selv, .tdc, .gauge, .ref, .time,
          .ptp, .stitch, .parse, .fwd, .core, .contracts, .pair, .fw, .mbs, .fence, .events, .stats, .power] s t ∧ t.pair.watchdogDead =
          true ∧ t.pair.aliveOut = false ∧ t.pair.joinEnd = none ∧ t.pair.role = (if s.pair.role = .active ∨ s.pair.role = .standby ∨
          s.pair.role = .syncing then .joining else s.pair.role)) ∧
  (∀ (s : State),
      s.pair.enable = false ∨ s.pair.watchdogDead = true ∨ s.pair.role = .alone ∨ s.pair.role = .mismatch →
      ∃ t, exec .pairWatchdogExpiry s = .next t ∧
        keepsAllBut [] s t ∧ t = s) ∧
  (∀ (s : State),
      s.pair.linkUp = true ∧ s.pair.silent = false →
      ∃ t, exec .plSilent s = .next t ∧
        keepsAllBut [.clock, .free, .cmd, .hostMem, .fuses, .glob, .chan, .lanes, .ports, .modules, .selv, .tdc, .gauge, .ref, .time,
          .ptp, .stitch, .parse, .fwd, .core, .contracts, .pair, .fw, .mbs, .fence, .events, .stats, .power] s t ∧ t.pair.silent = true ∧
          s.pair.controlRx + 20 * usC ≤ t.now ∧ t.hasRaised 754 Ev.plSilent = true ∧ (s.pair.enable = true → s.pair.role = .standby →
          (s.pair.alive = false ∨ s.pair.healthLost = true) → t.pair.role = .active)) ∧
  (∀ (s : State),
      s.pair.linkUp = false ∨ s.pair.silent = true →
      ∃ t, exec .plSilent s = .next t ∧
        keepsAllBut [] s t ∧ t = s) ∧
  (∀ (s : State),
      s.pair.linkUp = true ∧ s.pair.watchdogDead = false →
      ∃ t, exec .keepaliveTx s = .next t ∧
        keepsAllBut [.clock, .free, .cmd, .hostMem, .pair, .fw, .mbs, .fence, .events, .stats] s t ∧ t.pair.control.head? = some
          .keepAlive ∧ t.pair.control.tail = s.pair.control ∧ t.pair.controlTx = t.now ∧ s.pair.controlTx + 5 * usC ≤ t.now) ∧
  (∀ (s : State),
      s.pair.linkUp = false ∨ s.pair.watchdogDead = true →
      ∃ t, exec .keepaliveTx s = .next t ∧
        keepsAllBut [] s t ∧ t = s) ∧
  (∀ (s : State),
      s.pair.linkUp = true ∧ s.pair.role ≠ .alone ∧ s.pair.role ≠ .mismatch →
      ∃ t, exec .healthReportTx s = .next t ∧
        keepsAllBut [.pair] s t ∧ t.pair =
          { s.pair with healthTx := s.healthBytes, cycleFaults := 0, cycleUnresolved := 0, control := .health s.healthBytes :: s.pair.control, controlTx := s.now })
          ∧
  (∀ (s : State),
      s.pair.linkUp = false ∨ s.pair.role = .alone ∨ s.pair.role = .mismatch →
      ∃ t, exec .healthReportTx s = .next t ∧
        keepsAllBut [] s t ∧ t = s) ∧
  (∀ (bytes : List Byte) (s : State),
      bytes.length = 64 ∧ s.pair.enable = true ∧ s.pair.role ≠ .alone ∧ s.pair.role ≠ .mismatch →
      ∃ t, exec (.healthReportRx bytes) s = .next t ∧
        keepsAllBut [.clock, .free, .cmd, .hostMem, .fuses, .glob, .chan, .lanes, .ports, .modules, .selv, .tdc, .gauge, .ref, .time,
          .ptp, .stitch, .parse, .fwd, .core, .contracts, .pair, .fw, .mbs, .fence, .events, .stats, .power] s t ∧ t.pair.controlRx =
          s.now ∧ (reportValid bytes = false ∨ (s.pair.healthCycle.any fun n => decide (fbn bytes 8 8 ≤ n)) = true → t.pair =
          { s.pair with controlRx := s.now, silent := false })) ∧
  (∀ (bytes : List Byte) (s : State),
      bytes.length = 64 ∧ s.pair.enable = true ∧ s.pair.role ≠ .alone ∧ s.pair.role ≠ .mismatch ∧ (s.pair.healthCycle.all fun n => decide
        (n < fbn bytes 8 8)) = true →
      ∃ t, exec (.healthReportRx bytes) s = .next t ∧
        keepsAllBut [.clock, .free, .cmd, .hostMem, .fuses, .glob, .chan, .lanes, .ports, .modules, .selv, .tdc, .gauge, .ref, .time,
          .ptp, .stitch, .parse, .fwd, .core, .contracts, .pair, .fw, .mbs, .fence, .events, .stats, .power] s t ∧ (reportValid bytes =
          true → t.pair.healthRx = bytes ∧ t.pair.healthCycle = some (fbn bytes 8 8) ∧ t.pair.healthAt = s.now ∧ t.pair.healthLost = false
          ∧ t.pair.healthOk = decide (fb2 bytes 2 % 2 = 0) ∧ t.pair.partnerRole = roleOf (fb bytes 1) ∧ t.pair.partnerEpoch = fbn bytes 16
          8 ∧ (t.ref.slots.get 28).rxLevel = fb bytes 41 % 16 ∧ (t.ref.slots.get 28).hops = fb bytes 42)) ∧
  (∀ (bytes : List Byte) (s : State),
      bytes.length = 64 ∧ (s.pair.enable = false ∨ s.pair.role = .alone ∨ s.pair.role = .mismatch) →
      ∃ t, exec (.healthReportRx bytes) s = .next t ∧
        keepsAllBut [] s t ∧ t = s) ∧
  (∀ (s : State),
      s.pair.healthCycle.isSome = true ∧ s.pair.healthLost = false ∧ s.pair.enable = true →
      ∃ t, exec .healthLost s = .next t ∧
        keepsAllBut [.clock, .free, .cmd, .hostMem, .fuses, .glob, .chan, .lanes, .ports, .modules, .selv, .tdc, .gauge, .ref, .time,
          .ptp, .stitch, .parse, .fwd, .core, .contracts, .pair, .fw, .mbs, .fence, .events, .stats, .power] s t ∧ t.pair.healthLost =
          true ∧ t.pair.healthOk = false ∧ (t.ref.slots.get 28).rxLevel = 15 ∧ s.pair.healthAt + 2 * cyclesOf s.pair.cfg.cycle ≤ t.now ∧
          t.hasRaised 756 Ev.healthLost = true ∧ (s.pair.role = .standby → (s.pair.alive = false ∨ s.pair.silent = true ∨ s.pair.linkUp =
          false) → t.pair.role = .active)) ∧
  (∀ (s : State),
      s.pair.healthCycle = none ∨ s.pair.healthLost = true ∨ s.pair.enable = false →
      ∃ t, exec .healthLost s = .next t ∧
        keepsAllBut [] s t ∧ t = s) ∧
  (∀ (t1 t2 t3 t4 partner : Int) (o : Int) (s : State),
      s.pair.enable = true ∧ s.pair.linkUp = true ∧ s.pair.role ≠ .alone ∧ s.pair.role ≠ .mismatch ∧ o = probeOffset t1 t2 t3 t4
        s.pair.cfg.plAsym ∧ (s.pair.role = .active ∨ alignedAt o = true) →
      ∃ t, exec (.timeProbe t1 t2 t3 t4 partner) s = .next t ∧
        keepsAllBut [.clock, .free, .cmd, .hostMem, .fuses, .glob, .chan, .lanes, .ports, .modules, .selv, .tdc, .gauge, .ref, .time,
          .ptp, .stitch, .parse, .fwd, .core, .contracts, .pair, .fw, .mbs, .fence, .events, .stats, .power, .host] s t ∧ t.pair.role =
          s.pair.role ∧ t.pair.aligned = alignedAt o ∧ t.pair.tickOffset = (if s.pair.aligned && alignedAt o && decide (roundDiv o 65536 =
          s.offsetC) then s.pair.tickOffset else o) ∧ t.pair.timeError = partner - s.ktime ∧ t.pair.dpl = roundDiv (4 * ((t2 - t1) + (t4 -
          t3))) 10 ∧ (s.pair.role = .syncing → t.pair.aligning = false ∧ t.pair.alignTries = 0)) ∧
  (∀ (t1 t2 t3 t4 partner : Int) (s : State),
      s.pair.enable = true ∧ s.pair.linkUp = true ∧ s.pair.role = .standby ∧ alignedAt (probeOffset t1 t2 t3 t4 s.pair.cfg.plAsym) = false
        →
      ∃ t, exec (.timeProbe t1 t2 t3 t4 partner) s = .next t ∧
        keepsAllBut [.clock, .free, .cmd, .hostMem, .fuses, .glob, .chan, .lanes, .ports, .modules, .selv, .tdc, .gauge, .ref, .time,
          .ptp, .stitch, .parse, .fwd, .core, .contracts, .pair, .fw, .mbs, .fence, .events, .stats, .power, .host] s t ∧ t.pair.role =
          .syncing ∧ t.hasRaised 755 Ev.alignLost = true ∧ t.pair.aligned = false) ∧
  (∀ (t1 t2 t3 t4 partner : Int) (s : State),
      s.pair.enable = false ∨ s.pair.linkUp = false ∨ s.pair.role = .alone ∨ s.pair.role = .mismatch →
      ∃ t, exec (.timeProbe t1 t2 t3 t4 partner) s = .next t ∧
        keepsAllBut [] s t ∧ t = s) ∧
  (∀ (edge : Nat) (s : State),
      s.power.stage = .pd1 ∧ s.power.resetting = some 3 ∧ s.glob.rootRunning = true ∧ s.pdOn 1 = true ∧ s.now ≤ edge →
      ∃ t, exec (.alignTickStart edge) s = .next t ∧
        keepsAllBut [.clock, .free, .cmd, .hostMem, .glob, .lanes, .ports, .selv, .tdc, .gauge, .time, .ptp, .pair, .fw, .mbs, .fence,
          .events, .stats, .power] s t ∧ t.time.tickOn = true ∧ t.time.tick0 = edge + s.pair.alignDelay ∧ t.power.stage = .pd2 ∧
          t.glob.keeperOnCtrl = true) ∧
  (∀ (edge : Nat) (s : State),
      s.power.stage ≠ .pd1 ∨ s.power.resetting ≠ some 3 ∨ s.glob.rootRunning = false ∨ s.pdOn 1 = false →
      ∃ t, exec (.alignTickStart edge) s = .next t ∧
        keepsAllBut [] s t ∧ t = s) ∧
  (∀ (test : Nat) (pass : Bool) (s : State),
      test < 8 ∧ pass = true →
      ∃ t, exec (.selfTest test pass) s = .next t ∧
        keepsAllBut [.pair] s t ∧ t.pair.selfFail = s.pair.selfFail.set test 0 ∧ t.pair.critical = (List.range 8).any fun i =>
          selfCritical i ((s.pair.selfFail.set test 0).get i)) ∧
  (∀ (test : Nat) (pass : Bool) (s : State),
      test < 8 ∧ pass = false ∧ (s.pair.enable = false ∨ s.pair.role ≠ .active ∨ s.partnerStandby = false ∨ s.pair.healthOk = false ∨
        selfCritical test (s.pair.selfFail.get test + 1) = false) →
      ∃ t, exec (.selfTest test pass) s = .next t ∧
        keepsAllBut [.pair, .fence, .events] s t ∧ t.pair.selfFail.get test = s.pair.selfFail.get test + 1 ∧ (selfCritical test
          (s.pair.selfFail.get test + 1) = true → t.pair.critical = true) ∧ t.hasRaised 759 Ev.selftestFail = true ∧ t.pair.journal =
          s.pair.journal) ∧
  (∀ (test : Nat) (pass : Bool) (s : State),
      test < 8 ∧ pass = false ∧ s.pair.enable = true ∧ s.pair.role = .active ∧ s.partnerStandby = true ∧ s.pair.healthOk = true ∧
        selfCritical test (s.pair.selfFail.get test + 1) = true ∧ (s.pair.waits.any fun w => decide (w.cmd = .pairSwitchover .direct)) =
        false →
      ∃ t, exec (.selfTest test pass) s = .next t ∧
        keepsAllBut [.hostMem, .pair, .mbs, .fence, .events] s t ∧ t.pair.critical = true ∧ t.pair.journal = s.pair.journal ++
          [.pairSwitchover .direct]) ∧
  (∀ (n : Nat) (s : State),
      s.pair.testEnd = some n →
      ∃ t, exec .pairTestEnd s = .next t ∧
        keepsAllBut [.clock, .free, .cmd, .hostMem, .pair, .fw, .mbs, .fence, .events, .stats] s t ∧ t.pair.testEnd = none ∧ n ≤ t.now) ∧
  (∀ (s : State),
      s.pair.testEnd = none →
      ∃ t, exec .pairTestEnd s = .next t ∧
        keepsAllBut [] s t ∧ t = s)

/-- The lifeline's cycles, markers and acknowledgements, cross-fed copies and digest blocks; the boot configuration and the Keeper's return.
At the end of a cycle an ACTIVE unit with a partner sends its journal and its marker, to be applied one lead time later; a STANDBY that has
seen no marker refuses it, counts a frogging and at the third in a row is SYNCING, with LIFELINE_DEGRADED. A marker is held while the Keeper
restarts; a good one is committed, with its journal and apply boundary, and acknowledged, and any other is a frogging. An acknowledgement of
the cycle sent is confirmed if 20 us remain, a refusal undoes it, a confirmation 10 us before the boundary is taken. An agreed journal is
applied at its boundary: the ACTIVE unit's cycle ends, the STANDBY's buffer is applied, an ordered switchover exchanges the roles, and a
SYNCING unit with the active one's digest is STANDBY. Waits past the commit timeout end. A cross-fed or relayed copy becomes a frame of its
own while the pair serves. A digest block closes and its decision is sent; one whose outcome is overdue is compared and goes; the partner's
part is kept until both are there and then compared. The boot configuration ends READY, with BOOT_DONE. The Keeper's return takes the held
markers and raises RECOVERY_DONE. Out of these states a row changes nothing, or notes only that the partner was heard. (R29, R384, R390,
R396, R397, R398, R399, R401, R402, R404, R406) -/
def Obligations.PairJournalRows : Prop :=
  (∀ (s : State),
      s.pair.enable = true ∧ s.time.tickOn = true ∧ s.pair.role = .active ∧ (s.pair.linkUp && decide (s.pair.partnerRole = .standby ∨
        s.pair.partnerRole = .syncing)) = true ∧ s.fence.active = [] →
      ∃ t, exec .lifelineCycleEnd s = .next t ∧
        keepsAllBut [.clock, .free, .cmd, .hostMem, .time, .pair, .fw, .mbs, .fence, .events, .stats] s t ∧ t.pair.sentJournal =
          (s.pair.sentJournal ++ s.pair.journal).take 16384 ∧ t.pair.journal = (s.pair.sentJournal ++ s.pair.journal).drop 16384 ∧
          t.pair.sentCycle = some (s.pair.sentCycle.getD s.pair.cycleNo) ∧ t.pair.applyAt = some (t.tick + cyclesOf s.pair.cfg.lead) ∧
          t.pair.confirmed = false ∧ t.pair.control.drop 2 = s.pair.control) ∧
  (∀ (s : State),
      s.pair.enable = true ∧ s.time.tickOn = true ∧ s.pair.role = .active ∧ (s.pair.linkUp && decide (s.pair.partnerRole = .standby ∨
        s.pair.partnerRole = .syncing)) = true →
      ∃ t, exec .lifelineCycleEnd s = .next t ∧
        keepsAllBut [.clock, .free, .cmd, .hostMem, .time, .pair, .fw, .mbs, .fence, .events, .stats] s t ∧ t.pair.applyAt = some (t.tick
          + cyclesOf s.pair.cfg.lead) ∧ t.pair.confirmed = false ∧ t.pair.sentCycle.isSome = true ∧ s.time.tick0 + s.nextCycle ≤ t.now) ∧
  (∀ (s : State),
      s.pair.enable = true ∧ s.time.tickOn = true ∧ s.pair.role = .standby ∧ s.pair.markerSeen = true →
      ∃ t, exec .lifelineCycleEnd s = .next t ∧
        keepsAllBut [.clock, .free, .cmd, .hostMem, .time, .pair, .fw, .mbs, .fence, .events, .stats] s t ∧ t.pair.markerSeen = false ∧
          t.pair.frogCount = s.pair.frogCount ∧ t.pair.role = .standby ∧ s.time.tick0 + s.nextCycle ≤ t.now) ∧
  (∀ (s : State),
      s.pair.enable = true ∧ s.time.tickOn = true ∧ s.pair.role = .standby ∧ s.pair.markerSeen = false →
      ∃ t, exec .lifelineCycleEnd s = .next t ∧
        keepsAllBut [.clock, .free, .cmd, .hostMem, .time, .pair, .fw, .mbs, .fence, .events, .stats] s t ∧ t.pair.frogCount = inc32
          s.pair.frogCount ∧ (s.pair.frogRun < 2 → t.pair.role = .standby ∧ t.pair.frogRun = s.pair.frogRun + 1 ∧ t.pair.control.head? =
          some (.nack (match s.pair.committedNo with | some n => n + 1 | none => 0))) ∧ (2 ≤ s.pair.frogRun → t.pair.role = .syncing ∧
          t.hasRaised 756 Ev.lifelineDegraded = true)) ∧
  (∀ (s : State),
      s.pair.enable = false ∨ s.time.tickOn = false →
      ∃ t, exec .lifelineCycleEnd s = .next t ∧
        keepsAllBut [] s t ∧ t = s) ∧
  (∀ (cycle applyAt : Nat) (crcOk : Bool) (journal : List RawCmd) (s : State),
      s.takesJournals = true ∧ s.glob.keeperRestarting = true →
      ∃ t, exec (.commitMarkerRx cycle applyAt crcOk journal) s = .next t ∧
        keepsAllBut [.pair] s t ∧ t.pair = { s.pair with heldMarkers := s.pair.heldMarkers ++ [(cycle, applyAt, crcOk, journal)] }) ∧
  (∀ (cycle applyAt : Nat) (crcOk : Bool) (journal : List RawCmd) (s : State),
      s.takesJournals = true ∧ s.glob.keeperRestarting = false ∧ crcOk = true ∧ (s.pair.committedNo.all fun n => decide (cycle = n ∨ cycle
        = n + 1)) = true →
      ∃ t, exec (.commitMarkerRx cycle applyAt crcOk journal) s = .next t ∧
        keepsAllBut [.time, .pair, .fence, .events] s t ∧ t.pair.committed = journal ∧ t.pair.committedNo = some cycle ∧ t.pair.applied =
          false ∧ t.pair.confirmed = false ∧ t.pair.applyAt = some applyAt ∧ t.pair.frogRun = 0 ∧ t.pair.markerSeen = true ∧
          t.pair.control = .ack cycle :: s.pair.control ∧ t.pair.reportCycle = cycle) ∧
  (∀ (cycle applyAt : Nat) (crcOk : Bool) (journal : List RawCmd) (s : State),
      s.takesJournals = true ∧ s.glob.keeperRestarting = false ∧ (crcOk = false ∨ (s.pair.committedNo.any fun n => decide (cycle ≠ n ∧
        cycle ≠ n + 1)) = true) →
      ∃ t, exec (.commitMarkerRx cycle applyAt crcOk journal) s = .next t ∧
        keepsAllBut [.time, .pair, .fence, .events] s t ∧ t.pair.frogCount = inc32 s.pair.frogCount ∧ t.pair.markerSeen = true ∧
          t.pair.committed = s.pair.committed ∧ t.pair.control = .nack cycle :: s.pair.control) ∧
  (∀ (cycle applyAt : Nat) (crcOk : Bool) (journal : List RawCmd) (s : State),
      s.takesJournals = false →
      ∃ t, exec (.commitMarkerRx cycle applyAt crcOk journal) s = .next t ∧
        keepsAllBut [] s t ∧ t = s) ∧
  (∀ (cycle : Nat) (a : Nat) (s : State),
      s.pair.sentCycle = some cycle ∧ s.pair.applyAt = some a ∧ s.pair.role = .active ∧ s.tick + 20 * usC ≤ a →
      ∃ t, exec (.lifelineAckRx cycle) s = .next t ∧
        keepsAllBut [.pair] s t ∧ t.pair.confirmed = true ∧ t.pair.lastCommit = s.now ∧ t.pair.control = .confirm cycle :: s.pair.control)
          ∧
  (∀ (cycle : Nat) (a : Nat) (s : State),
      s.pair.sentCycle = some cycle ∧ s.pair.applyAt = some a ∧ s.pair.role = .active ∧ a < s.tick + 20 * usC →
      ∃ t, exec (.lifelineAckRx cycle) s = .next t ∧
        keepsAllBut [.pair] s t ∧ t.pair = { s.pair with controlRx := s.now, silent := false, lastCommit := s.now }) ∧
  (∀ (cycle : Nat) (s : State),
      s.pair.sentCycle ≠ some cycle ∨ s.pair.applyAt = none ∨ s.pair.role ≠ .active →
      ∃ t, exec (.lifelineAckRx cycle) s = .next t ∧
        keepsAllBut [.pair] s t ∧ t.pair = { s.pair with controlRx := s.now, silent := false }) ∧
  (∀ (cycle : Nat) (s : State),
      s.pair.role = .active ∧ s.pair.sentCycle = some cycle →
      ∃ t, exec (.lifelineNackRx cycle) s = .next t ∧
        keepsAllBut [.pair] s t ∧ t.pair = { s.pair with controlRx := s.now, silent := false, confirmed := false, applyAt := none }) ∧
  (∀ (cycle : Nat) (s : State),
      s.pair.role ≠ .active ∨ s.pair.sentCycle ≠ some cycle →
      ∃ t, exec (.lifelineNackRx cycle) s = .next t ∧
        keepsAllBut [.pair] s t ∧ t.pair = { s.pair with controlRx := s.now, silent := false }) ∧
  (∀ (cycle : Nat) (a : Nat) (s : State),
      s.pair.applyAt = some a ∧ s.takesJournals = true ∧ s.pair.committedNo = some cycle ∧ s.tick + 10 * usC ≤ a →
      ∃ t, exec (.lifelineConfirmRx cycle) s = .next t ∧
        keepsAllBut [.pair] s t ∧ t.pair = { s.pair with controlRx := s.now, silent := false, confirmed := true }) ∧
  (∀ (cycle : Nat) (s : State),
      s.takesJournals = false ∨ s.pair.committedNo ≠ some cycle ∨ (s.pair.applyAt.all fun a => decide (a < s.tick + 10 * usC)) = true →
      ∃ t, exec (.lifelineConfirmRx cycle) s = .next t ∧
        keepsAllBut [.pair] s t ∧ t.pair = { s.pair with controlRx := s.now, silent := false }) ∧
  (∀ (a : Nat) (n : Nat) (s : State),
      s.pair.applyAt = some a ∧ s.pair.confirmed = true ∧ s.time.tickOn = true ∧ s.pair.enable = true ∧ s.pair.role = .active ∧
        s.pair.sentCycle = some n ∧ s.pair.waits = [] ∧ s.fence.active = [] →
      ∃ t, exec .lifelineApply s = .next t ∧
        keepsAllBut [.clock, .free, .cmd, .hostMem, .fuses, .glob, .chan, .lanes, .ports, .modules, .selv, .tdc, .gauge, .ref, .time,
          .ptp, .stitch, .parse, .fwd, .core, .contracts, .pair, .fw, .mbs, .fence, .events, .stats, .power] s t ∧ s.time.tick0 + a ≤
          t.now ∧ t.pair.sentJournal = [] ∧ t.pair.sentCycle = none ∧ t.pair.applyAt = none ∧ t.pair.confirmed = false ∧
          t.pair.reportCycle = n ∧ t.pair.role = (if s.pair.switchover = true then .standby else .active) ∧ (s.pair.switchover = true →
          t.pair.partnerRole = .active)) ∧
  (∀ (a : Nat) (s : State),
      s.pair.applyAt = some a ∧ s.pair.confirmed = true ∧ s.time.tickOn = true ∧ s.takesJournals = true ∧ s.pair.committed = [] ∧
        s.pair.held = [] ∧ s.pair.waits = [] ∧ s.fence.active = [] →
      ∃ t, exec .lifelineApply s = .next t ∧
        keepsAllBut [.clock, .free, .cmd, .hostMem, .fuses, .glob, .chan, .lanes, .ports, .modules, .selv, .tdc, .gauge, .ref, .time,
          .ptp, .stitch, .parse, .fwd, .core, .contracts, .pair, .fw, .mbs, .fence, .events, .stats, .power] s t ∧ s.time.tick0 + a ≤
          t.now ∧ t.pair.applied = true ∧ t.pair.applyAt = none ∧ t.pair.confirmed = false ∧ (s.pair.role = .standby → s.pair.switchover =
          true → t.pair.role = .active ∧ t.pair.partnerRole = .standby) ∧ (s.pair.role = .syncing → s.pair.aligning = false →
          s.pair.aligned = true → s.pair.healthRx ≠ [] → t.pair.role = .syncing ∨ t.hasRaised 752 Ev.pairFormed = true)) ∧
  (∀ (s : State),
      s.pair.applyAt = none ∨ s.pair.confirmed = false ∨ s.time.tickOn = false →
      ∃ t, exec .lifelineApply s = .next t ∧
        keepsAllBut [] s t ∧ t = s) ∧
  (∀ (w : JournalWait) (l : List JournalWait) (s : State),
      (s.pair.waits.filter fun z => !(s.pair.confirmed && s.pair.sentJournal.contains z.cmd)) = w :: l →
      ∃ t, exec .commitTimeout s = .next t ∧
        keepsAllBut [.clock, .free, .cmd, .hostMem, .fuses, .glob, .chan, .lanes, .ports, .modules, .selv, .tdc, .gauge, .ref, .time,
          .ptp, .stitch, .parse, .fwd, .core, .contracts, .pair, .fw, .mbs, .fence, .events, .stats, .power] s t ∧ w.joined +
          s.pair.cfg.commitTimeout * cyclesOf s.pair.cfg.cycle ≤ t.now ∧ ((w :: l).all fun z => decide (z.joined +
          s.pair.cfg.commitTimeout * cyclesOf s.pair.cfg.cycle ≤ s.now → t.pair.waits.contains z = false)) = true) ∧
  (∀ (s : State),
      (s.pair.waits.filter fun z => !(s.pair.confirmed && s.pair.sentJournal.contains z.cmd)) = [] →
      ∃ t, exec .commitTimeout s = .next t ∧
        keepsAllBut [] s t ∧ t = s) ∧
  (∀ (cross : Bool) (port source seq egress : Nat) (bytes : List Byte) (tick sub : Nat) (stale coast : Bool) (kSec kSub : Nat) (s :
    State),
      port < 256 ∧ source < 65536 ∧ seq < 2 ^ 24 ∧ egress < 256 ∧ 64 ≤ bytes.length ∧ bytes.length ≤ 16384 ∧ s.pairServing = true →
      ∃ t, exec (.xfeedCopyRx cross port source seq egress bytes tick sub stale coast kSec kSub) s = .next t ∧
        keepsAllBut [.free, .time, .parse, .fwd, .core, .contracts, .pair, .fw, .fence, .events, .stats] s t ∧ t.core.nextFrame =
          s.core.nextFrame + 1 ∧ ((t.core.frames.find s.core.nextFrame).all fun f => decide (f.port = port ∧ f.bytes = bytes ∧ f.xfeed =
          true ∧ f.relay = !cross ∧ f.tagSrc = some (source, seq) ∧ f.rxTick = tick ∧ f.rxK = some (kSec * secU + kSub : Int) ∧ f.decided
          = true)) = true) ∧
  (∀ (cross : Bool) (port source seq egress : Nat) (bytes : List Byte) (tick sub : Nat) (stale coast : Bool) (kSec kSub : Nat) (s :
    State),
      port < 256 ∧ source < 65536 ∧ seq < 2 ^ 24 ∧ egress < 256 ∧ 64 ≤ bytes.length ∧ bytes.length ≤ 16384 ∧ s.pairServing = false →
      ∃ t, exec (.xfeedCopyRx cross port source seq egress bytes tick sub stale coast kSec kSub) s = .next t ∧
        keepsAllBut [] s t ∧ t = s) ∧
  (∀ (source block : Nat) (d : DigestRec) (s : State),
      source < 65536 ∧ block < 16384 ∧ ((s.pair.dup.get source).blocks.find? fun z => z.block = block) = some d ∧ d.closed = false →
      ∃ t, exec (.digestBlockClose source block) s = .next t ∧
        keepsAllBut [.clock, .free, .cmd, .hostMem, .time, .pair, .fw, .mbs, .fence, .events, .stats] s t ∧ d.last + cyclesOf
          s.pair.cfg.closeTimeout ≤ t.now ∧ t.pair.control.contains (.decision source block d.nS d.hS d.hD d.exempt d.nXdrop d.hXdrop) =
          true ∧ (((t.pair.dup.get source).blocks.find? fun z => z.block = block).all fun z => z.closed) = true) ∧
  (∀ (source block : Nat) (s : State),
      source < 65536 ∧ block < 16384 ∧ (((s.pair.dup.get source).blocks.find? fun z => z.block = block).all fun z => z.closed) = true →
      ∃ t, exec (.digestBlockClose source block) s = .next t ∧
        keepsAllBut [] s t ∧ t = s) ∧
  (∀ (source block : Nat) (d : DigestRec) (s : State),
      source < 65536 ∧ block < 16384 ∧ ((s.pair.dup.get source).blocks.find? fun z => z.block = block) = some d →
      ∃ t, exec (.digestOutcomeTimeout source block) s = .next t ∧
        keepsAllBut [.clock, .free, .cmd, .hostMem, .time, .pair, .fw, .mbs, .fence, .events, .stats] s t ∧ d.last + cyclesOf
          s.pair.cfg.outcomeTimeout ≤ t.now ∧ ((t.pair.dup.get source).blocks.any fun z => decide (z.block = block)) = false ∧ (d.sent =
          false → t.pair.cycleUnresolved = satAdd 32 s.pair.cycleUnresolved (d.nS - d.resolved))) ∧
  (∀ (source block : Nat) (s : State),
      source < 65536 ∧ block < 16384 ∧ ((s.pair.dup.get source).blocks.find? fun z => z.block = block) = none →
      ∃ t, exec (.digestOutcomeTimeout source block) s = .next t ∧
        keepsAllBut [] s t ∧ t = s) ∧
  (∀ (source block : Nat) (part : DigestPart) (s : State),
      source < 65536 ∧ block < 16384 ∧ s.pair.dup.has source = false →
      ∃ t, exec (.digestRecordRx source block part) s = .next t ∧
        keepsAllBut [.pair] s t ∧ t.pair = { s.pair with controlRx := s.now, silent := false }) ∧
  (∀ (source block : Nat) (part : DigestPart) (n : Nat) (a : Nat) (b : Nat) (s : State),
      source < 65536 ∧ block < 16384 ∧ s.pair.dup.has source = true ∧ (s.pair.dup.get source).partner = [] ∧ part = .outcome n a b →
      ∃ t, exec (.digestRecordRx source block part) s = .next t ∧
        keepsAllBut [.time, .pair, .fence, .events] s t ∧ (t.pair.dup.get source).partner =
          [{ block := block, nDel := n, nBen := a, nFlt := b, sent := true }] ∧ (t.pair.dup.get source).blocks = (s.pair.dup.get
          source).blocks) ∧
  (∀ (source block : Nat) (part : DigestPart) (n : Nat) (y : BitVec 64) (z : BitVec 64) (b : Bool) (m : Nat) (w : BitVec 64) (s : State),
      source < 65536 ∧ block < 16384 ∧ s.pair.dup.has source = true ∧ (s.pair.dup.get source).partner = [] ∧ part = .decision n y z b m w
        →
      ∃ t, exec (.digestRecordRx source block part) s = .next t ∧
        keepsAllBut [.time, .pair, .fence, .events] s t ∧ (t.pair.dup.get source).partner =
          [{ block := block, nS := n, hS := y, hD := z, exempt := b, nXdrop := m, hXdrop := w, closed := true }] ∧ (t.pair.dup.get
          source).blocks = (s.pair.dup.get source).blocks) ∧
  (∀ (source block : Nat) (part : DigestPart) (n : Nat) (a : Nat) (b : Nat) (r : DigestRec) (s : State),
      source < 65536 ∧ block < 16384 ∧ s.pair.dup.has source = true ∧ (s.pair.dup.get source).partner = [r] ∧ r.block = block ∧ r.closed =
        true ∧ part = .outcome n a b ∧ (s.pair.dup.get source).blocks = [] →
      ∃ t, exec (.digestRecordRx source block part) s = .next t ∧
        keepsAllBut [.time, .pair, .fence, .events] s t ∧ (t.pair.dup.get source).partner = [] ∧ (t.pair.dup.get source).lastBlock = block
          ∧ t.pair.counts.get (10 + verdictOf {} { r with nDel := n, nBen := a, nFlt := b, sent := true }) = satAdd 64 (s.pair.counts.get
          (10 + verdictOf {} { r with nDel := n, nBen := a, nFlt := b, sent := true })) 1) ∧
  (∀ (s : State),
      s.power.stage = .config ∧ s.glob.keeperRestarting = false →
      ∃ t, exec .bootConfigDone s = .next t ∧
        keepsAllBut [.clock, .free, .cmd, .hostMem, .fuses, .glob, .chan, .lanes, .ports, .modules, .selv, .tdc, .gauge, .ref, .time,
          .ptp, .stitch, .parse, .fwd, .core, .contracts, .pair, .fw, .mbs, .fence, .events, .stats, .power] s t ∧ t.power.stage = .ready
          ∧ t.power.resetting = none ∧ t.fw.configDone = true ∧ t.events.pending.getLsbD 768 = true ∧ t.power.bootMs = (t.now -
          t.power.bootStart) / msC) ∧
  (∀ (s : State),
      s.power.stage ≠ .config ∨ s.glob.keeperRestarting = true →
      ∃ t, exec .bootConfigDone s = .next t ∧
        keepsAllBut [] s t ∧ t = s) ∧
  (∀ (s : State),
      s.glob.keeperRestarting = true ∧ s.glob.keeperWaiting = [] →
      ∃ t, exec .keeperRestartDone s = .next t ∧
        keepsAllBut [.clock, .free, .cmd, .hostMem, .fuses, .glob, .chan, .lanes, .ports, .modules, .selv, .tdc, .gauge, .ref, .time,
          .ptp, .stitch, .parse, .fwd, .core, .contracts, .pair, .fw, .mbs, .fence, .events, .stats, .power] s t ∧ t.glob.keeperRestarting
          = false ∧ t.pair.heldMarkers = [] ∧ t.events.pending.getLsbD 830 = true) ∧
  (∀ (s : State),
      s.glob.keeperRestarting = true →
      ∃ t, exec .keeperRestartDone s = .next t ∧
        keepsAllBut [.clock, .free, .cmd, .hostMem, .fuses, .glob, .chan, .lanes, .ports, .modules, .selv, .tdc, .gauge, .ref, .time,
          .ptp, .stitch, .parse, .fwd, .core, .contracts, .pair, .fw, .mbs, .fence, .events, .stats, .power] s t ∧
          t.events.pending.getLsbD 830 = true) ∧
  (∀ (s : State),
      s.glob.keeperRestarting = false →
      ∃ t, exec .keeperRestartDone s = .next t ∧
        keepsAllBut [] s t ∧ t = s)

/-- Doorbells, fetches, faults, the enable bit, resets, aborts and timeouts of the mailboxes. A doorbell that keeps the counts in order
within 256 unread positions enters its SUBMIT_COUNT and is remembered until it completes; one with the count that stands changes nothing;
any other sets INDEX_FAULT, with MB_INDEX, as does a RESP_RD_COUNT beyond DONE_COUNT, while one within it is taken. A fetch that may take
place takes the next position, and its command waits behind those in flight; one that fails puts the mailbox in FAULT with FETCH_FAULT and
the address, with MB_FAULT. ENABLE set runs a mailbox, or one in FAULT once ENABLE has been cleared since; cleared, it drains one that runs.
A draining mailbox with nothing in flight is DISABLED. A reset of a DISABLED or FAULT mailbox passes over what was submitted and not
fetched. An abort of everything leaves no command in flight short of its commit point unmarked, an abort of a position marks its command or
remembers it until its fetch. A command whose time is over completes with ST_TIMEOUT, with MB_TIMEOUT. Out of these states a row changes
nothing. (R443, R444, R445, R451, R452, R453, R454, R459, R461) -/
def Obligations.MailboxRows : Prop :=
  (∀ (mb : Nat) (entry ext : List Byte) (x : Mailbox) (s : State),
      mb < 8 ∧ s.mayFetch mb = true ∧ x = s.mbs.get mb →
      ∃ t, exec (.mailboxFetch mb entry ext) s = .next t ∧
        keepsAllBut [.hostMem, .fw, .mbs, .fence, .events] s t ∧ (t.mbs.get mb).fetch = x.fetch + 1 ∧ (t.mbs.get mb).submit = x.submit ∧
          ((t.mbs.get mb).abortedAhead.contains x.fetch) = false ∧ (x.inFlight = [] → (fetchedCmd x mb entry ext).early = none →
          (fetchedCmd x mb entry ext).aborted = false → s.fence.waiting = [] → (t.mbs.get mb).inFlight = [fetchedCmd x mb entry ext])) ∧
  (∀ (mb : Nat) (entry ext : List Byte) (s : State),
      mb < 8 ∧ s.mayFetch mb = false →
      ∃ t, exec (.mailboxFetch mb entry ext) s = .next t ∧
        keepsAllBut [] s t ∧ t = s) ∧
  (∀ (mb : Nat) (extension : Bool) (a : Nat) (y : Mailbox) (s : State),
      mb < 8 ∧ s.mayFetch mb = true ∧ y = s.mbs.get mb ∧ a = (if extension then y.extBase.toNat + 512 * (y.fetch.toNat % 256) else
        y.cmdBase.toNat + 64 * (y.fetch.toNat % 256)) →
      ∃ t, exec (.mbFault mb extension) s = .next t ∧
        keepsAllBut [.mbs, .fence, .events] s t ∧ t.mbs = s.mbs.set mb
          { y with state := .fault, fetchFault := true, faultAddr := BitVec.ofNat 64 a, faultCleared := false } ∧ t.hasRaised (mbSrc mb)
          Ev.mbFault = true) ∧
  (∀ (mb : Nat) (extension : Bool) (s : State),
      mb < 8 ∧ s.mayFetch mb = false →
      ∃ t, exec (.mbFault mb extension) s = .next t ∧
        keepsAllBut [] s t ∧ t = s) ∧
  (∀ (mb : Nat) (value : BitVec 32) (y : Mailbox) (s : State),
      mb < 8 ∧ y = s.mbs.get mb ∧ dist32 y.respRd value ≤ 256 ∧ dist32 y.respRd y.submit ≤ dist32 y.respRd value ∧ value ≠ y.submit →
      ∃ t, exec (.submitCountWrite mb value) s = .next t ∧
        keepsAllBut [.mbs] s t ∧ (t.mbs.get mb).submit = value ∧ (t.mbs.get mb).fetch = y.fetch ∧ (t.mbs.get mb).done = y.done ∧
          (t.mbs.get mb).doors.length = y.doors.length + 1) ∧
  (∀ (mb : Nat) (value : BitVec 32) (s : State),
      mb < 8 ∧ value = (s.mbs.get mb).submit ∧ dist32 (s.mbs.get mb).respRd value ≤ 256 →
      ∃ t, exec (.submitCountWrite mb value) s = .next t ∧
        keepsAllBut [] s t ∧ t = s) ∧
  (∀ (mb : Nat) (value : BitVec 32) (y : Mailbox) (s : State),
      mb < 8 ∧ y = s.mbs.get mb ∧ (256 < dist32 y.respRd value ∨ dist32 y.respRd value < dist32 y.respRd y.submit) →
      ∃ t, exec (.submitCountWrite mb value) s = .next t ∧
        keepsAllBut [.mbs, .fence, .events] s t ∧ t.mbs = s.mbs.set mb { y with indexFault := true } ∧ t.hasRaised (mbSrc mb) Ev.mbIndex =
          true) ∧
  (∀ (mb : Nat) (value : BitVec 32) (y : Mailbox) (s : State),
      mb < 8 ∧ y = s.mbs.get mb ∧ dist32 y.respRd value ≤ dist32 y.respRd y.done →
      ∃ t, exec (.respRdCountWrite mb value) s = .next t ∧
        keepsAllBut [.mbs] s t ∧ t.mbs = s.mbs.set mb { y with respRd := value }) ∧
  (∀ (mb : Nat) (value : BitVec 32) (y : Mailbox) (s : State),
      mb < 8 ∧ y = s.mbs.get mb ∧ dist32 y.respRd y.done < dist32 y.respRd value →
      ∃ t, exec (.respRdCountWrite mb value) s = .next t ∧
        keepsAllBut [.mbs, .fence, .events] s t ∧ t.mbs = s.mbs.set mb { y with indexFault := true } ∧ t.hasRaised (mbSrc mb) Ev.mbIndex =
          true) ∧
  (∀ (mb : Nat) (s : State),
      mb < 8 ∧ (s.mbs.get mb).state ≠ .fault →
      ∃ t, exec (.mailboxEnableSet mb) s = .next t ∧
        keepsAllBut [.mbs] s t ∧ t.mbs = s.mbs.upd mb fun x => { x with enable := true, state := .running }) ∧
  (∀ (mb : Nat) (s : State),
      mb < 8 ∧ (s.mbs.get mb).state = .fault →
      ∃ t, exec (.mailboxEnableSet mb) s = .next t ∧
        keepsAllBut [.mbs] s t ∧ t.mbs = s.mbs.upd mb fun x => if x.faultCleared then
          { x with enable := true, state := .running, faultCleared := false } else { x with enable := true }) ∧
  (∀ (mb : Nat) (s : State),
      mb < 8 ∧ (s.mbs.get mb).state = .running →
      ∃ t, exec (.mailboxEnableClear mb) s = .next t ∧
        keepsAllBut [.mbs] s t ∧ t.mbs = s.mbs.upd mb fun x => { x with enable := false, state := .draining }) ∧
  (∀ (mb : Nat) (s : State),
      mb < 8 ∧ (s.mbs.get mb).state = .fault →
      ∃ t, exec (.mailboxEnableClear mb) s = .next t ∧
        keepsAllBut [.mbs] s t ∧ t.mbs = s.mbs.upd mb fun x => { x with enable := false, faultCleared := true }) ∧
  (∀ (mb : Nat) (s : State),
      mb < 8 ∧ (s.mbs.get mb).state ≠ .running ∧ (s.mbs.get mb).state ≠ .fault →
      ∃ t, exec (.mailboxEnableClear mb) s = .next t ∧
        keepsAllBut [.mbs] s t ∧ t.mbs = s.mbs.upd mb fun x => { x with enable := false }) ∧
  (∀ (mb : Nat) (s : State),
      mb < 8 ∧ (s.mbs.get mb).state = .draining ∧ (s.mbs.get mb).done = (s.mbs.get mb).fetch →
      ∃ t, exec (.mailboxDrained mb) s = .next t ∧
        keepsAllBut [.mbs] s t ∧ t.mbs = s.mbs.upd mb fun x => { x with state := .disabled }) ∧
  (∀ (mb : Nat) (s : State),
      mb < 8 ∧ ((s.mbs.get mb).state ≠ .draining ∨ (s.mbs.get mb).done ≠ (s.mbs.get mb).fetch) →
      ∃ t, exec (.mailboxDrained mb) s = .next t ∧
        keepsAllBut [.mbs] s t ∧ (∀ k ∈ List.range 8, t.mbs.get k = s.mbs.get k)) ∧
  (∀ (mb : Nat) (s : State),
      mb < 8 ∧ ((s.mbs.get mb).state = .disabled ∨ (s.mbs.get mb).state = .fault) →
      ∃ t, exec (.mailboxReset mb) s = .next t ∧
        keepsAllBut [.hostMem, .fw, .mbs, .fence, .events] s t ∧ (t.mbs.get mb).fetch = (s.mbs.get mb).submit ∧ (t.mbs.get mb).submit =
          (s.mbs.get mb).submit ∧ (t.mbs.get mb).state = (s.mbs.get mb).state ∧ (t.mbs.get mb).abortedAhead = []) ∧
  (∀ (mb : Nat) (s : State),
      mb < 8 ∧ (s.mbs.get mb).state ≠ .disabled ∧ (s.mbs.get mb).state ≠ .fault →
      ∃ t, exec (.mailboxReset mb) s = .next t ∧
        keepsAllBut [] s t ∧ t = s) ∧
  (∀ (mb : Nat) (x : Mailbox) (s : State),
      mb < 8 ∧ x = s.mbs.get mb ∧ dist32 x.done x.fetch ≤ dist32 x.done x.submit ∧ (x.inFlight.all fun k => decide (dist32 x.done k.pos <
        dist32 x.done x.fetch)) = true →
      ∃ t, exec (.abortAll mb) s = .next t ∧
        keepsAllBut [.hostMem, .glob, .time, .stitch, .fw, .mbs, .fence, .events] s t ∧ ((t.mbs.get mb).inFlight.all fun k => k.committed
          || k.aborted || k.early.isSome) = true ∧ (t.mbs.get mb).fetch = x.fetch ∧ (t.mbs.get mb).submit = x.submit) ∧
  (∀ (mb : Nat) (pos : BitVec 32) (x : Mailbox) (s : State),
      mb < 8 ∧ x = s.mbs.get mb ∧ dist32 x.done pos < dist32 x.done x.fetch ∧ dist32 x.done pos < dist32 x.done x.submit →
      ∃ t, exec (.abortPos mb pos) s = .next t ∧
        keepsAllBut [.hostMem, .glob, .time, .stitch, .fw, .mbs, .fence, .events] s t ∧ ((t.mbs.get mb).inFlight.all fun k => decide
          (k.pos ≠ pos) || k.committed || k.aborted || k.early.isSome) = true ∧ (t.mbs.get mb).fetch = x.fetch) ∧
  (∀ (mb : Nat) (pos : BitVec 32) (x : Mailbox) (s : State),
      mb < 8 ∧ x = s.mbs.get mb ∧ dist32 x.done x.fetch ≤ dist32 x.done pos ∧ dist32 x.done pos < dist32 x.done x.submit ∧ x.inFlight = []
        ∧ x.resetTo = none →
      ∃ t, exec (.abortPos mb pos) s = .next t ∧
        keepsAllBut [.hostMem, .glob, .time, .stitch, .fw, .mbs, .fence, .events] s t ∧ (t.mbs.get mb).abortedAhead.contains pos = true ∧
          (t.mbs.get mb).fetch = x.fetch) ∧
  (∀ (mb : Nat) (pos : BitVec 32) (x : Mailbox) (s : State),
      mb < 8 ∧ x = s.mbs.get mb ∧ dist32 x.done x.submit ≤ dist32 x.done pos →
      ∃ t, exec (.abortPos mb pos) s = .next t ∧
        keepsAllBut [.hostMem, .glob, .time, .stitch, .fw, .mbs, .fence, .events] s t ∧ (t.mbs.get mb).abortedAhead = x.abortedAhead ∧
          (t.mbs.get mb).fetch = x.fetch ∧ (t.mbs.get mb).inFlight.length ≤ x.inFlight.length) ∧
  (∀ (mb : Nat) (k : MbCmd) (l : List MbCmd) (s : State),
      mb < 8 ∧ (s.mbs.get mb).inFlight = k :: l ∧ k.committed = false ∧ k.aborted = false ∧ k.early = none ∧ s.fence.waiting.contains
        (.mailbox mb) = false ∧ s.fence.active = [] →
      ∃ t, exec (.commandTimeout mb) s = .next t ∧
        keepsAllBut [.clock, .free, .cmd, .hostMem, .glob, .time, .stitch, .pair, .fw, .mbs, .fence, .events, .stats] s t ∧
          (s.fence.waiting = [] → t.cmd.opcode = k.opcode ∧ t.cmd.status = stTimeout) ∧ t.events.pending.getLsbD (mbSrc mb) = true ∧
          ((t.mbs.get mb).inFlight.length ≤ l.length) ∧ (k.started = true → k.startAt + k.timeout * msC ≤ t.now)) ∧
  (∀ (mb : Nat) (k : MbCmd) (l : List MbCmd) (s : State),
      mb < 8 ∧ (s.mbs.get mb).inFlight = k :: l ∧ (k.committed = true ∨ k.aborted = true ∨ k.early.isSome = true ∨
        s.fence.waiting.contains (.mailbox mb) = true) →
      ∃ t, exec (.commandTimeout mb) s = .next t ∧
        keepsAllBut [] s t ∧ t = s) ∧
  (∀ (mb : Nat) (s : State),
      mb < 8 ∧ (s.mbs.get mb).inFlight = [] →
      ∃ t, exec (.commandTimeout mb) s = .next t ∧
        keepsAllBut [] s t ∧ t = s)

/-- The chain engines: starting, aborting, each instruction, waiting, the limits, and the completion queue. START of a channel that is IDLE
or HALTED runs it from CHAIN_ADDR with its counts cleared, of any other is BAD_ACCESS; ABORT ends one at work with outcome ABORTED. A
channel takes an instruction only where it runs with no MOVE, Bus Master Enable is 1 and the budget is not spent; one of unknown OP or wrong
fields halts it with BAD_INSTR. A MOVE begins, unless its stream is another's or its domain is off; then it halts with that cause; its bytes
are read, and written to the address they belong to, and it retires once all are written. LOOP jumps, counting down to 0, and then goes on.
WAIT goes on, with its gate where it sets one, or holds the channel until its condition or its timeout, which halts it with WAIT_TIMEOUT.
SIGNAL and END place their record, or wait STALLED for room, or are counted where there is no queue, and retire: END leaves the channel IDLE
with outcome COMPLETE. The watchdog, the spent budget and a PCIe error halt it, each with its cause. What waits for room is written in
order. A CQ_RD_COUNT beyond CQ_WR_COUNT is DMA_INDEX, any other is taken. Out of these states a row changes nothing. The order of bursts
among channels is free where R497 leaves it (log entry 128). (R490, R491, R492, R493, R494, R495, R496, R498, R500, R501, R504, R505) -/
def Obligations.DmaRows : Prop :=
  (∀ (chan : Nat) (y : Chan) (s : State),
      chan < 32 ∧ y = s.host.chans.get chan ∧ (y.state = .idle ∨ y.state = .halted) →
      ∃ t, exec (.chainStart chan) s = .next t ∧
        keepsAllBut [.host] s t ∧ (t.host.chans.get chan).state = .running ∧ (t.host.chans.get chan).pc = y.chainAddr ∧ (t.host.chans.get
          chan).retired = 0 ∧ (t.host.chans.get chan).budgetUsed = 0 ∧ (t.host.chans.get chan).loops = [none, none, none, none] ∧
          (t.host.chans.get chan).startAt = s.now ∧ (t.host.chans.get chan).outcome = 0 ∧ (t.host.chans.get chan).cause = 0 ∧
          (t.host.chans.get chan).move = none) ∧
  (∀ (chan : Nat) (s : State),
      chan < 32 ∧ (s.host.chans.get chan).state ≠ .idle ∧ (s.host.chans.get chan).state ≠ .halted →
      ∃ t, exec (.chainStart chan) s = .next t ∧
        keepsAllBut [.fence, .events] s t ∧ t.events.pending.getLsbD 832 = true) ∧
  (∀ (chan : Nat) (s : State),
      chan < 32 ∧ (s.host.chans.get chan).live = true →
      ∃ t, exec (.chainAbort chan) s = .next t ∧
        keepsAllBut [.hostMem, .fence, .events, .host] s t ∧ t.chainEnded chan 2 0 .idle = true ∧ t.hasRaised (dmaSrc chan) Ev.dmaAborted
          = true) ∧
  (∀ (chan : Nat) (s : State),
      chan < 32 ∧ (s.host.chans.get chan).live = false →
      ∃ t, exec (.chainAbort chan) s = .next t ∧
        keepsAllBut [] s t ∧ t = s) ∧
  (∀ (chan : Nat) (instr : List Byte) (s : State),
      chan < 32 ∧ instr.length = 32 ∧ s.fetches chan = false →
      ∃ t, exec (.chainMove chan instr) s = .next t ∧
        keepsAllBut [] s t ∧ t = s) ∧
  (∀ (chan : Nat) (instr : List Byte) (s : State),
      chan < 32 ∧ instr.length = 32 ∧ s.fetches chan = true ∧ ((chainInstr instr).op = 1 ∧ (chainInstr instr).moveOk = false ∨ (chainInstr
        instr).op = 0 ∨ 5 < (chainInstr instr).op) →
      ∃ t, exec (.chainMove chan instr) s = .next t ∧
        keepsAllBut [.hostMem, .fence, .events, .host] s t ∧ t.chainEnded chan 3 1 .halted = true ∧ t.hasRaised (dmaSrc chan) Ev.dmaHalt =
          true) ∧
  (∀ (chan : Nat) (instr : List Byte) (i : ChainInstr) (s : State),
      chan < 32 ∧ instr.length = 32 ∧ s.fetches chan = true ∧ i = chainInstr instr ∧ i.op = 1 ∧ i.moveOk = true ∧ (i.stream.all fun k =>
        !s.streamBusy chan k && !s.streamOff k) = true ∧ s.moveBlocked i = none →
      ∃ t, exec (.chainMove chan instr) s = .next t ∧
        keepsAllBut [.host] s t ∧ (t.host.chans.get chan).move = some i ∧ (t.host.chans.get chan).moveDone = 0 ∧ (t.host.chans.get
          chan).moveRead = 0 ∧ (t.host.chans.get chan).funnel = [] ∧ (t.host.chans.get chan).pc = (s.host.chans.get chan).pc ∧
          (i.stream.all fun k => (t.host.chans.get chan).streams.contains k) = true ∧ (t.host.chans.get chan).state = (if
          ((s.host.chans.get chan).gate.any fun g => !s.gateHolds chan g) = true then .waiting else .running)) ∧
  (∀ (chan : Nat) (instr : List Byte) (i : ChainInstr) (k : Nat) (s : State),
      chan < 32 ∧ instr.length = 32 ∧ s.fetches chan = true ∧ i = chainInstr instr ∧ i.op = 1 ∧ i.moveOk = true ∧ i.stream = some k ∧
        (s.streamBusy chan k = true ∨ s.streamOff k = true) →
      ∃ t, exec (.chainMove chan instr) s = .next t ∧
        keepsAllBut [.hostMem, .fence, .events, .host] s t ∧ t.chainEnded chan 3 (if s.streamBusy chan k then 7 else 9) .halted = true) ∧
  (∀ (chan : Nat) (data : List Byte) (s : State),
      chan < 32 ∧ (s.host.chans.get chan).move = none →
      ∃ t, exec (.dmaBurst chan data) s = .next t ∧
        keepsAllBut [] s t ∧ t = s) ∧
  (∀ (chan : Nat) (data : List Byte) (i : ChainInstr) (x : Chan) (s : State),
      chan < 32 ∧ x = s.host.chans.get chan ∧ x.move = some i ∧ x.state = .running ∧ s.host.bme = true ∧ x.gate = none ∧ s.burstBehind
        chan = false ∧ s.moveBlocked i = none ∧ i.b3 = 0 ∧ i.dstFixed = false ∧ x.moveRead = i.w4 ∧ x.moveDone < i.w4 ∧ s.writeLen chan i
        = x.funnel.length ∧ x.moveDone + x.funnel.length = i.w4 ∧ i.q16 + i.w4 < 2 ^ 64 ∧ data = [] →
      ∃ t, exec (.dmaBurst chan data) s = .next t ∧
        keepsAllBut [.clock, .free, .cmd, .hostMem, .glob, .tdc, .gauge, .time, .stitch, .core, .pair, .fw, .mbs, .fence, .events, .stats,
          .host] s t ∧ (t.host.chans.get chan).move = none ∧ (t.host.chans.get chan).pc = x.pc + 32 ∧ (t.host.chans.get chan).retired =
          inc32 x.retired ∧ ((List.range x.funnel.length).all fun k => decide (hostRead t.hostMem (i.q16 + x.moveDone + k) =
          x.funnel[k]?)) = true ∧ (t.hostMem.all fun q => decide (q.1 < i.q16 + x.moveDone ∨ i.q16 + i.w4 ≤ q.1 → hostRead s.hostMem q.1 =
          hostRead t.hostMem q.1)) = true) ∧
  (∀ (chan : Nat) (data : List Byte) (i : ChainInstr) (x : Chan) (n : Nat) (s : State),
      chan < 32 ∧ x = s.host.chans.get chan ∧ x.move = some i ∧ x.state = .running ∧ s.host.bme = true ∧ x.gate = none ∧ s.burstBehind
        chan = false ∧ s.moveBlocked i = none ∧ i.b2 = 0 ∧ i.b3 = 0 ∧ x.moveRead < i.w4 ∧ (i.w4 ≤ x.moveDone ∨ x.funnel.length <
        s.writeLen chan i) ∧ n = s.readLen chan i ∧ 0 < n ∧ data.length = n →
      ∃ t, exec (.dmaBurst chan data) s = .next t ∧
        keepsAllBut [.clock, .free, .cmd, .hostMem, .glob, .tdc, .gauge, .time, .stitch, .core, .pair, .fw, .mbs, .fence, .events, .stats,
          .host] s t ∧ (if (t.host.chans.get chan).move.isSome = true then (t.host.chans.get chan).moveRead = x.moveRead + n ∧
          (t.host.chans.get chan).pc = x.pc ∧ (t.host.chans.get chan).moveDone + (t.host.chans.get chan).funnel.length = x.moveDone +
          x.funnel.length + n else (t.host.chans.get chan).pc = x.pc + 32 ∧ (t.host.chans.get chan).retired = inc32 x.retired)) ∧
  (∀ (chan : Nat) (data : List Byte) (i : ChainInstr) (k : Nat) (x : Chan) (s : State),
      chan < 32 ∧ x = s.host.chans.get chan ∧ x.move = some i ∧ x.state = .running ∧ s.host.bme = true ∧ (x.gate.all fun g => s.gateHolds
        chan g) = true ∧ s.burstBehind chan = false ∧ s.moveBlocked i = some k →
      ∃ t, exec (.dmaBurst chan data) s = .next t ∧
        keepsAllBut [.clock, .free, .cmd, .hostMem, .glob, .tdc, .gauge, .time, .stitch, .core, .pair, .fw, .mbs, .fence, .events, .stats,
          .host] s t ∧ t.chainEnded chan 3 k .halted = true) ∧
  (∀ (chan : Nat) (instr : List Byte) (s : State),
      chan < 32 ∧ instr.length = 32 ∧ s.fetches chan = false →
      ∃ t, exec (.chainLoop chan instr) s = .next t ∧
        keepsAllBut [] s t ∧ t = s) ∧
  (∀ (chan : Nat) (instr : List Byte) (s : State),
      chan < 32 ∧ instr.length = 32 ∧ s.fetches chan = true ∧ ((chainInstr instr).op = 2 ∧ (chainInstr instr).loopOk = false ∨ (chainInstr
        instr).op = 0 ∨ 5 < (chainInstr instr).op) →
      ∃ t, exec (.chainLoop chan instr) s = .next t ∧
        keepsAllBut [.hostMem, .fence, .events, .host] s t ∧ t.chainEnded chan 3 1 .halted = true) ∧
  (∀ (chan : Nat) (instr : List Byte) (i : ChainInstr) (x : Chan) (l : Option Nat) (s : State),
      chan < 32 ∧ instr.length = 32 ∧ s.fetches chan = true ∧ i = chainInstr instr ∧ i.op = 2 ∧ i.loopOk = true ∧ x = s.host.chans.get
        chan ∧ l = (if i.w4 = 0 then some 0 else if (x.loops.getD i.b1 none).getD i.w4 = 0 then none else some ((x.loops.getD i.b1
        none).getD i.w4 - 1)) →
      ∃ t, exec (.chainLoop chan instr) s = .next t ∧
        keepsAllBut [.host] s t ∧ (t.host.chans.get chan).pc = (if l = none then x.pc + 32 else BitVec.ofNat 64 i.q8) ∧ (t.host.chans.get
          chan).retired = inc32 x.retired ∧ (t.host.chans.get chan).budgetUsed = x.budgetUsed + 1 ∧ (t.host.chans.get chan).loops = (if
          i.w4 = 0 then x.loops else x.loops.set i.b1 l) ∧ (t.host.chans.get chan).state = .running) ∧
  (∀ (chan : Nat) (instr : List Byte) (s : State),
      chan < 32 ∧ instr.length = 32 ∧ s.fetches chan = false →
      ∃ t, exec (.chainWait chan instr) s = .next t ∧
        keepsAllBut [] s t ∧ t = s) ∧
  (∀ (chan : Nat) (instr : List Byte) (s : State),
      chan < 32 ∧ instr.length = 32 ∧ s.fetches chan = true ∧ ((chainInstr instr).op = 3 ∧ (chainInstr instr).waitOk = false ∨ (chainInstr
        instr).op = 0 ∨ 5 < (chainInstr instr).op) →
      ∃ t, exec (.chainWait chan instr) s = .next t ∧
        keepsAllBut [.hostMem, .fence, .events, .host] s t ∧ t.chainEnded chan 3 1 .halted = true) ∧
  (∀ (chan : Nat) (instr : List Byte) (i : ChainInstr) (x : Chan) (s : State),
      (chan < 32 ∧ instr.length = 32 ∧ s.fetches chan = true ∧ i = chainInstr instr ∧ i.op = 3 ∧ i.waitOk = true ∧ (i.b2 = 0 →
        s.streamBusy chan i.b3 = false ∧ s.streamOff i.b3 = false) ∧ x = s.host.chans.get chan) →
      ∃ t, exec (.chainWait chan instr) s = .next t ∧
        keepsAllBut [.host] s t ∧ (if s.gateHolds chan i.gate = true then (t.host.chans.get chan).state = .running ∧ (t.host.chans.get
          chan).pc = x.pc + 32 ∧ (t.host.chans.get chan).retired = inc32 x.retired ∧ (t.host.chans.get chan).gate = (if i.b1 = 1 then some
          i.gate else x.gate) else (t.host.chans.get chan).state = .waiting ∧ (t.host.chans.get chan).wait = some i ∧ (t.host.chans.get
          chan).pc = x.pc ∧ (t.host.chans.get chan).deadline = s.waitEnd i.gate.timeout)) ∧
  (∀ (chan : Nat) (instr : List Byte) (i : ChainInstr) (s : State),
      chan < 32 ∧ instr.length = 32 ∧ s.fetches chan = true ∧ i = chainInstr instr ∧ i.op = 3 ∧ i.waitOk = true ∧ i.b2 = 0 ∧ (s.streamBusy
        chan i.b3 = true ∨ s.streamOff i.b3 = true) →
      ∃ t, exec (.chainWait chan instr) s = .next t ∧
        keepsAllBut [.hostMem, .fence, .events, .host] s t ∧ t.chainEnded chan 3 (if s.streamBusy chan i.b3 then 7 else 9) .halted = true)
          ∧
  (∀ (chan : Nat) (i : ChainInstr) (x : Chan) (s : State),
      chan < 32 ∧ x = s.host.chans.get chan ∧ x.state = .waiting ∧ x.wait = some i ∧ s.gateHolds chan i.gate = true →
      ∃ t, exec (.waitConditionMet chan) s = .next t ∧
        keepsAllBut [.host] s t ∧ (t.host.chans.get chan).state = .running ∧ (t.host.chans.get chan).pc = x.pc + 32 ∧ (t.host.chans.get
          chan).retired = inc32 x.retired ∧ (t.host.chans.get chan).wait = none ∧ (t.host.chans.get chan).deadline = none) ∧
  (∀ (chan : Nat) (g : Gate) (s : State),
      chan < 32 ∧ (s.host.chans.get chan).state = .waiting ∧ (s.host.chans.get chan).wait = none ∧ (s.host.chans.get chan).gate = some g ∧
        s.gateHolds chan g = true →
      ∃ t, exec (.waitConditionMet chan) s = .next t ∧
        keepsAllBut [.host] s t ∧ t.host =
          { s.host with chans := s.host.chans.upd chan fun y => { y with state := .running, deadline := none } }) ∧
  (∀ (chan : Nat) (x : Chan) (s : State),
      chan < 32 ∧ x = s.host.chans.get chan ∧ (x.state ≠ .waiting ∨
        (match x.wait with | some i => s.gateHolds chan i.gate | none => x.gate.any fun g => s.gateHolds chan g) = false) →
      ∃ t, exec (.waitConditionMet chan) s = .next t ∧
        keepsAllBut [] s t ∧ t = s) ∧
  (∀ (chan : Nat) (n : Nat) (s : State),
      chan < 32 ∧ (s.host.chans.get chan).deadline = some n ∧ (s.host.chans.get chan).state = .waiting ∧ s.host.bme = true →
      ∃ t, exec (.waitTimeout chan) s = .next t ∧
        keepsAllBut [.clock, .free, .cmd, .hostMem, .pair, .fw, .mbs, .fence, .events, .stats, .host] s t ∧ n ≤ t.now ∧ t.chainEnded chan
          3 6 .halted = true) ∧
  (∀ (chan : Nat) (s : State),
      chan < 32 ∧ ((s.host.chans.get chan).deadline = none ∨ (s.host.chans.get chan).state ≠ .waiting ∨ s.host.bme = false) →
      ∃ t, exec (.waitTimeout chan) s = .next t ∧
        keepsAllBut [] s t ∧ t = s) ∧
  (∀ (chan : Nat) (instr : List Byte) (s : State),
      chan < 32 ∧ instr.length = 32 ∧ s.fetches chan = false →
      ∃ t, exec (.chainSignal chan instr) s = .next t ∧
        keepsAllBut [] s t ∧ t = s) ∧
  (∀ (chan : Nat) (instr : List Byte) (s : State),
      chan < 32 ∧ instr.length = 32 ∧ s.fetches chan = true ∧ ((chainInstr instr).op = 4 ∧ (chainInstr instr).signalOk = false ∨
        (chainInstr instr).op = 0 ∨ 5 < (chainInstr instr).op) →
      ∃ t, exec (.chainSignal chan instr) s = .next t ∧
        keepsAllBut [.hostMem, .fence, .events, .host] s t ∧ t.chainEnded chan 3 1 .halted = true) ∧
  (∀ (chan : Nat) (instr : List Byte) (i : ChainInstr) (x : Chan) (s : State),
      chan < 32 ∧ instr.length = 32 ∧ s.fetches chan = true ∧ i = chainInstr instr ∧ i.op = 4 ∧ i.signalOk = true ∧ x = s.host.chans.get
        chan ∧ (s.fence.marks.any fun m => decide (m.stream = .cq chan)) = false ∧ x.marks = [] →
      ∃ t, exec (.chainSignal chan instr) s = .next t ∧
        keepsAllBut [.hostMem, .fence, .events, .host] s t ∧ (if x.cqSize ≠ 0 ∧ (x.held ≠ [] ∨ x.cqFull = true) then (t.host.chans.get
          chan).state = .stalled ∧ (t.host.chans.get chan).pc = x.pc ∧ (t.host.chans.get chan).held.length = x.held.length + 1 ∧
          t.hasRaised (dmaSrc chan) Ev.dmaStall = true else (t.host.chans.get chan).pc = x.pc + 32 ∧ (t.host.chans.get chan).retired =
          inc32 x.retired ∧ (t.host.chans.get chan).cqWr = (if x.cqSize = 0 then x.cqWr else x.cqWr + 1) ∧ (4 ≤ i.b1 → t.hasRaised (dmaSrc
          chan) Ev.dmaSignal = true))) ∧
  (∀ (chan : Nat) (instr : List Byte) (s : State),
      chan < 32 ∧ instr.length = 32 ∧ s.fetches chan = false →
      ∃ t, exec (.chainEnd chan instr) s = .next t ∧
        keepsAllBut [] s t ∧ t = s) ∧
  (∀ (chan : Nat) (instr : List Byte) (s : State),
      chan < 32 ∧ instr.length = 32 ∧ s.fetches chan = true ∧ ((chainInstr instr).op = 5 ∧ (chainInstr instr).endOk = false ∨ (chainInstr
        instr).op = 0 ∨ 5 < (chainInstr instr).op) →
      ∃ t, exec (.chainEnd chan instr) s = .next t ∧
        keepsAllBut [.hostMem, .fence, .events, .host] s t ∧ t.chainEnded chan 3 1 .halted = true) ∧
  (∀ (chan : Nat) (instr : List Byte) (i : ChainInstr) (x : Chan) (s : State),
      chan < 32 ∧ instr.length = 32 ∧ s.fetches chan = true ∧ i = chainInstr instr ∧ i.op = 5 ∧ i.endOk = true ∧ x = s.host.chans.get chan
        ∧ (s.fence.marks.any fun m => decide (m.stream = .cq chan)) = false ∧ x.marks = [] →
      ∃ t, exec (.chainEnd chan instr) s = .next t ∧
        keepsAllBut [.hostMem, .fence, .events, .host] s t ∧ (if x.cqSize ≠ 0 ∧ (x.held ≠ [] ∨ x.cqFull = true) then (t.host.chans.get
          chan).state = .stalled ∧ (t.host.chans.get chan).held.length = x.held.length + 1 else (t.host.chans.get chan).state = .idle ∧
          (t.host.chans.get chan).outcome = 1 ∧ (t.host.chans.get chan).posAddr = x.pc ∧ (t.host.chans.get chan).cqWr = (if x.cqSize = 0
          then x.cqWr else x.cqWr + 1) ∧ (4 ≤ i.b1 → t.hasRaised (dmaSrc chan) Ev.dmaEnd = true))) ∧
  (∀ (chan : Nat) (y : Chan) (s : State),
      chan < 32 ∧ s.host.bme = true ∧ y = s.host.chans.get chan ∧ y.cqFull = false ∧ y.held ≠ [] →
      ∃ t, exec (.cqRoom chan) s = .next t ∧
        keepsAllBut [.hostMem, .fence, .events, .host] s t ∧ (t.host.chans.get chan).held.length < y.held.length ∧ ((t.host.chans.get
          chan).held = [] ∨ (t.host.chans.get chan).cqFull = true)) ∧
  (∀ (chan : Nat) (y : Chan) (s : State),
      chan < 32 ∧ y = s.host.chans.get chan ∧ (s.host.bme = false ∨ y.cqFull = true ∨ y.held = []) →
      ∃ t, exec (.cqRoom chan) s = .next t ∧
        keepsAllBut [] s t ∧ t = s) ∧
  (∀ (chan : Nat) (value : BitVec 32) (s : State),
      chan < 32 ∧ dist32 (s.host.chans.get chan).cqRd value ≤ (s.host.chans.get chan).cqFill →
      ∃ t, exec (.cqRdCountWrite chan value) s = .next t ∧
        keepsAllBut [.host] s t ∧ t.host = { s.host with chans := s.host.chans.upd chan fun y => { y with cqRd := value } }) ∧
  (∀ (chan : Nat) (value : BitVec 32) (s : State),
      chan < 32 ∧ (s.host.chans.get chan).cqFill < dist32 (s.host.chans.get chan).cqRd value →
      ∃ t, exec (.cqRdCountWrite chan value) s = .next t ∧
        keepsAllBut [.fence, .events] s t ∧ t.hasRaised (dmaSrc chan) Ev.dmaIndex = true) ∧
  (∀ (chan : Nat) (y : Chan) (s : State),
      chan < 32 ∧ y = s.host.chans.get chan ∧ y.live = true ∧ y.watchdog ≠ 0 →
      ∃ t, exec (.dmaWatchdogExpiry chan) s = .next t ∧
        keepsAllBut [.clock, .free, .cmd, .hostMem, .pair, .fw, .mbs, .fence, .events, .stats, .host] s t ∧ y.startAt + y.watchdog * msC ≤
          t.now ∧ t.chainEnded chan 3 5 .halted = true) ∧
  (∀ (chan : Nat) (s : State),
      chan < 32 ∧ ((s.host.chans.get chan).live = false ∨ (s.host.chans.get chan).watchdog = 0) →
      ∃ t, exec (.dmaWatchdogExpiry chan) s = .next t ∧
        keepsAllBut [] s t ∧ t = s) ∧
  (∀ (chan : Nat) (y : Chan) (s : State),
      chan < 32 ∧ y = s.host.chans.get chan ∧ y.live = true ∧ y.spent = true ∧ y.state ≠ .stalled →
      ∃ t, exec (.budgetExhausted chan) s = .next t ∧
        keepsAllBut [.hostMem, .fence, .events, .host] s t ∧ t.chainEnded chan 3 4 .halted = true) ∧
  (∀ (chan : Nat) (y : Chan) (s : State),
      chan < 32 ∧ y = s.host.chans.get chan ∧ (y.live = false ∨ y.spent = false ∨ y.state = .stalled) →
      ∃ t, exec (.budgetExhausted chan) s = .next t ∧
        keepsAllBut [] s t ∧ t = s) ∧
  (∀ (chan : Nat) (timeout : Bool) (s : State),
      chan < 32 ∧ (s.host.chans.get chan).live = true ∧ (s.host.chans.get chan).state = .running ∧ s.host.bme = true →
      ∃ t, exec (.dmaPcieError chan timeout) s = .next t ∧
        keepsAllBut [.hostMem, .fence, .events, .host] s t ∧ t.chainEnded chan 3 (if timeout then 2 else 3) .halted = true) ∧
  (∀ (chan : Nat) (timeout : Bool) (s : State),
      chan < 32 ∧ ((s.host.chans.get chan).live = false ∨ (s.host.chans.get chan).state ≠ .running ∨ s.host.bme = false) →
      ∃ t, exec (.dmaPcieError chan timeout) s = .next t ∧
        keepsAllBut [] s t ∧ t = s)

/-- Function-level and hot resets, bus mastering, the CPU rings and the slow path. A reset of function 0 turns bus mastering off, restores
its sizes to 128 and 512 bytes, leaves every mailbox disabled and draining with its bases 0 and silent to what it has fetched, ends every
chain at work as ABORTED with DMA_ABORTED, puts a channel's registers to their reset values, disables the stamp queues, and leaves every
source masked with no route and no interrupt enabled; a reset of function 1 only flushes; a hot reset flushes both functions and does to
function 0 what its own reset does. Bus mastering on moves every wait's deadline by the time it was off; written with the value it has, it
changes nothing. A whole injection record leaves its context while the switch core is on, and nothing leaves it otherwise; a direct one is a
new frame of its proxy port with its bytes and their FCS, planned to its egress port and class; a forwarded one goes through the parser and,
where it is not a truncated frame, is a new frame in the same way. A context is reset by its bit, and the others stay. A frame at the head
of its slow path waits while the four cores do not all run; one that firmware terminates leaves; any other leaves as a record for its ring
where there is room, and waits otherwise. (R476, R479, R482, R483, R484, R485, R285) -/
def Obligations.HostRows : Prop :=
  (∀ (s : State),
      ∃ t, exec .pf0FunctionLevelReset s = .next t ∧
        keepsAllBut [.time, .mbs, .fence, .events, .host] s t ∧ t.host.bme = false ∧ t.host.mps = 128 ∧ t.host.mrrs = 512 ∧ t.host.pmD3 =
          false ∧ t.host.flushed = s.host.flushed + 1 ∧ t.events.mask = BitVec.allOnes 1024 ∧ t.events.routes = [] ∧ t.events.intNEnable =
          false ∧ t.events.msixEnable = false ∧ (∀ q ∈ List.range 4, (t.time.tsqs.get q).enable = false) ∧ (∀ m ∈ List.range 8, (t.mbs.get
          m).enable = false ∧ (t.mbs.get m).cmdBase = 0 ∧ (t.mbs.get m).respBase = 0 ∧ (t.mbs.get m).extBase = 0 ∧ (t.mbs.get m).state =
          .draining ∧ (t.mbs.get m).silentTo = some (s.mbs.get m).fetch ∧ (t.mbs.get m).submit = (s.mbs.get m).submit) ∧ (∀ n ∈ List.range
          32, (t.host.chans.get n).chainAddr = 0 ∧ (t.host.chans.get n).cqSize = 0 ∧ (t.host.chans.get n).watchdog = 10000 ∧
          (t.host.chans.get n).move = none ∧ ((s.host.chans.get n).live = true → (t.host.chans.get n).state = .idle ∧ (t.host.chans.get
          n).outcome = 2 ∧ (t.host.chans.get n).cause = 0 ∧ (t.host.chans.get n).posAddr = (s.host.chans.get n).pc ∧ t.hasRaised (dmaSrc
          n) Ev.dmaAborted = true))) ∧
  (∀ (s : State),
      ∃ t, exec .pf1FunctionLevelReset s = .next t ∧
        keepsAllBut [.host] s t ∧ t.host = { s.host with flushed := s.host.flushed + 1 }) ∧
  (∀ (s : State),
      ∃ t, exec .hotReset s = .next t ∧
        keepsAllBut [.time, .mbs, .fence, .events, .host] s t ∧ t.host.flushed = s.host.flushed + 2 ∧ t.host.bme = false ∧ t.host.mps =
          128 ∧ t.host.mrrs = 512 ∧ t.events.mask = BitVec.allOnes 1024 ∧ t.events.routes = [] ∧ (∀ m ∈ List.range 8, (t.mbs.get m).enable
          = false ∧ (t.mbs.get m).cmdBase = 0 ∧ (t.mbs.get m).state = .draining ∧ (t.mbs.get m).silentTo = some (s.mbs.get m).fetch) ∧ (∀
          n ∈ List.range 32, (t.host.chans.get n).chainAddr = 0 ∧ ((s.host.chans.get n).live = true → (t.host.chans.get n).state = .idle ∧
          (t.host.chans.get n).outcome = 2 ∧ t.hasRaised (dmaSrc n) Ev.dmaAborted = true))) ∧
  (∀ (on : Bool) (s : State),
      on = true ∧ s.host.bme = false →
      ∃ t, exec (.busMasterEnable on) s = .next t ∧
        keepsAllBut [.host] s t ∧ t.host.bme = true ∧ (∀ n ∈ List.range 32, (t.host.chans.get n).deadline = (s.host.chans.get
          n).deadline.map (fun d => d + (s.now - s.host.bmeOffAt)) ∧ (t.host.chans.get n).state = (s.host.chans.get n).state)) ∧
  (∀ (on : Bool) (s : State),
      on = false ∧ s.host.bme = true →
      ∃ t, exec (.busMasterEnable on) s = .next t ∧
        keepsAllBut [.host] s t ∧ t.host = { s.host with bme := false, bmeOffAt := s.now }) ∧
  (∀ (on : Bool) (s : State),
      on = s.host.bme →
      ∃ t, exec (.busMasterEnable on) s = .next t ∧
        keepsAllBut [] s t ∧ t = s) ∧
  (∀ (queue : Nat) (b : List Byte) (s : State),
      queue < 4 ∧ b = (s.host.ctx.get queue).bytes ∧ (b.length < 32 ∨ b.length < ctxRecordLen b ∨ s.pdOn 3 = false) →
      ∃ t, exec (.ctxInject queue) s = .next t ∧
        keepsAllBut [] s t ∧ t = s) ∧
  (∀ (queue : Nat) (b : List Byte) (d : List Byte) (s : State),
      queue < 4 ∧ b = (s.host.ctx.get queue).bytes ∧ 32 ≤ b.length ∧ ctxRecordLen b ≤ b.length ∧ s.pdOn 3 = true ∧ (b.getD 1 0).toNat = 1
        ∧ d = slice b 32 (fb2 b 2) →
      ∃ t, exec (.ctxInject queue) s = .next t ∧
        keepsAllBut [.time, .ptp, .parse, .core, .pair, .fence, .events, .stats, .host] s t ∧ (t.host.ctx.get queue).bytes = b.drop
          (ctxRecordLen b) ∧ t.core.nextFrame = s.core.nextFrame + 1 ∧ (t.core.frames.get s.core.nextFrame).port = fb2 b 4 ∧
          (t.core.frames.get s.core.nextFrame).bytes = d ++ leBytes 4 (crc32 d) ∧ (t.core.frames.get s.core.nextFrame).cpu = true ∧
          (t.core.frames.get s.core.nextFrame).tc = fb b 8 ∧ (t.core.frames.get s.core.nextFrame).plan.copies.map (fun c => c.port) = [fb2
          b 6]) ∧
  (∀ (queue : Nat) (b : List Byte) (d : List Byte) (s : State),
      queue < 4 ∧ b = (s.host.ctx.get queue).bytes ∧ 32 ≤ b.length ∧ ctxRecordLen b ≤ b.length ∧ s.pdOn 3 = true ∧ (b.getD 1 0).toNat = 0
        ∧ d = slice b 32 (fb2 b 2) →
      ∃ t, exec (.ctxInject queue) s = .next t ∧
        keepsAllBut [.time, .ptp, .parse, .core, .pair, .fence, .events, .stats, .host] s t ∧ (t.host.ctx.get queue).bytes = b.drop
          (ctxRecordLen b) ∧ (if t.core.nextFrame = s.core.nextFrame + 1 then (t.core.frames.get s.core.nextFrame).port = fb2 b 4 ∧
          (t.core.frames.get s.core.nextFrame).bytes = d ++ leBytes 4 (crc32 d) ∧ (t.core.frames.get s.core.nextFrame).cpu = true else
          t.core.nextFrame = s.core.nextFrame)) ∧
  (∀ (value : BitVec 32) (s : State),
      ∃ t, exec (.ctxReset value) s = .next t ∧
        keepsAllBut [.host] s t ∧ (∀ q, q < 4 → t.host.ctx.get q = if value.toNat.testBit q then {} else s.host.ctx.get q)) ∧
  (∀ (index : Nat) (f : SlowFrame) (s : State),
      s.parse.slow[index]? = some f ∧ ((s.parse.slow.take index).any fun g => decide (g.port = f.port ∧ g.reason = f.reason)) = false ∧
        s.slowCores = false →
      ∃ t, exec (.slowPathFrame index) s = .next t ∧
        keepsAllBut [] s t ∧ t = s) ∧
  (∀ (index : Nat) (f : SlowFrame) (s : State),
      s.parse.slow[index]? = some f ∧ ((s.parse.slow.take index).any fun g => decide (g.port = f.port ∧ g.reason = f.reason)) = false ∧
        s.slowCores = true ∧ s.terminates f = true →
      ∃ t, exec (.slowPathFrame index) s = .next t ∧
        keepsAllBut [.ref, .parse, .fence, .events, .host] s t ∧ t.parse.slow = s.parse.slow.eraseIdx index ∧ t.parse.reserve =
          s.parse.reserve - f.cells ∧ t.host = s.host) ∧
  (∀ (index : Nat) (f : SlowFrame) (q : Nat) (s : State),
      s.parse.slow[index]? = some f ∧ ((s.parse.slow.take index).any fun g => decide (g.port = f.port ∧ g.reason = f.reason)) = false ∧
        s.slowCores = true ∧ s.terminates f = false ∧ q = s.host.crxMap.toNat / 4 ^ f.reason % 4 ∧ s.crxRoom q < (crxRecord f).length →
      ∃ t, exec (.slowPathFrame index) s = .next t ∧
        keepsAllBut [.ref, .parse, .fence, .events, .host] s t ∧ t.parse = s.parse ∧ (t.host.crx.get q).bytes = (s.host.crx.get q).bytes)
          ∧
  (∀ (index : Nat) (f : SlowFrame) (q : Nat) (s : State),
      s.parse.slow[index]? = some f ∧ ((s.parse.slow.take index).any fun g => decide (g.port = f.port ∧ g.reason = f.reason)) = false ∧
        s.slowCores = true ∧ s.terminates f = false ∧ q = s.host.crxMap.toNat / 4 ^ f.reason % 4 ∧ (crxRecord f).length ≤ s.crxRoom q →
      ∃ t, exec (.slowPathFrame index) s = .next t ∧
        keepsAllBut [.ref, .parse, .fence, .events, .host] s t ∧ t.parse.slow = s.parse.slow.eraseIdx index ∧ t.parse.reserve =
          s.parse.reserve - f.cells ∧ (t.host.crx.get q).bytes = (s.host.crx.get q).bytes ++ crxRecord f)

/-- Vectors, masks, the event log, snapshots and the register file. A vector whose timer runs out holds no raise any more and is sent, or
has its PBA bit set where it cannot be; a pending vector that nothing masks is sent once and is no longer pending, any other stays. A mask
write replaces exactly the 32 bits of its register. A vector's coalescing is set where it is in its ranges, sending at once what it already
holds, and is BAD_ACCESS otherwise. The log takes a read count that is not beyond what was written, and raises LOG_INDEX otherwise. A
snapshot starts with the TICK of its instant, or is armed for the next fence, or is counted as an overrun while one is at work or armed; its
end shows it with the next number and raises SNAP_DONE. A read of one register answers its bytes in little-endian order on the lanes enabled
and nothing on the others, and with no lane enabled reads nothing at all; of two registers, each in the order of their addresses; the
identification and mailbox position registers, the pending and mask words, and a read-and-clear counter read as the rules say, the last
clearing. A write of a whole register acts as that register says (SCRATCH and the mask words are stated); of two, each in order; a write of
part of a listed register is BAD_ACCESS; of an offset that is not listed, or in the window of function 1, nothing. (R25, R510, R511, R512,
R513, R517, R519, R520, R522, R524, R448) -/
def Obligations.EventAndRegisterRows : Prop :=
  (∀ (vec : Nat) (n : Nat) (s : State),
      vec < 64 ∧ (s.events.vecs.get vec).timer = some n →
      ∃ t, exec (.vectorTimerExpiry vec) s = .next t ∧
        keepsAllBut [.clock, .free, .cmd, .hostMem, .pair, .fw, .mbs, .fence, .events, .stats] s t ∧ n ≤ t.now ∧ (t.events.vecs.get
          vec).timer = none ∧ (t.events.vecs.get vec).held = 0 ∧ (if (s.events.msixEnable && !s.events.fnMask && !(s.events.vecs.get
          vec).masked && s.host.bme) = true then t.events.messages = vec :: s.events.messages ∧ (t.events.vecs.get vec).sent =
          (s.events.vecs.get vec).sent + 1 else (t.events.vecs.get vec).pba = true ∧ t.events.messages = s.events.messages)) ∧
  (∀ (vec : Nat) (s : State),
      vec < 64 ∧ (s.events.vecs.get vec).timer = none →
      ∃ t, exec (.vectorTimerExpiry vec) s = .next t ∧
        keepsAllBut [] s t ∧ t = s) ∧
  (∀ (vec : Nat) (y : Vec) (s : State),
      vec < 64 ∧ y = s.events.vecs.get vec ∧ y.pba = true ∧ s.events.msixEnable = true ∧ s.events.fnMask = false ∧ y.masked = false ∧
        s.host.bme = true →
      ∃ t, exec (.msixMessageSend vec) s = .next t ∧
        keepsAllBut [.events] s t ∧ t.events =
          { s.events with messages := vec :: s.events.messages, vecs := s.events.vecs.set vec { y with pba := false, sent := y.sent + 1 } })
          ∧
  (∀ (vec : Nat) (y : Vec) (s : State),
      vec < 64 ∧ y = s.events.vecs.get vec ∧ (y.pba = false ∨ s.events.msixEnable = false ∨ s.events.fnMask = true ∨ y.masked = true ∨
        s.host.bme = false) →
      ∃ t, exec (.msixMessageSend vec) s = .next t ∧
        keepsAllBut [] s t ∧ t = s) ∧
  (∀ (reg : Nat) (value : BitVec 32) (s : State),
      reg < 32 →
      ∃ t, exec (.maskWrite reg value) s = .next t ∧
        keepsAllBut [.events] s t ∧ (∀ i ∈ List.range 1024, t.events.mask.getLsbD i = (if i / 32 = reg then value.getLsbD (i % 32) else
          s.events.mask.getLsbD i)) ∧ t.events.pending = s.events.pending) ∧
  (∀ (vec : Nat) (value : BitVec 32) (n : Nat) (a : Nat) (s : State),
      (vec < 64 ∧ n = value.toNat % 512 ∧ a = value.toNat / 65536 ∧ 1 ≤ n ∧ n ≤ 256 ∧ (2 ≤ n → a ≠ 0) ∧ ((s.events.vecs.get vec).held = 0
        ∨ (s.events.vecs.get vec).held < n)) →
      ∃ t, exec (.vecCtrlWrite vec value) s = .next t ∧
        keepsAllBut [.events] s t ∧ t.events =
          { s.events with vecs := s.events.vecs.upd vec fun x => { x with coalCount := n, coalTime := a } }) ∧
  (∀ (vec : Nat) (value : BitVec 32) (n : Nat) (a : Nat) (s : State),
      (vec < 64 ∧ n = value.toNat % 512 ∧ a = value.toNat / 65536 ∧ 1 ≤ n ∧ n ≤ 256 ∧ (2 ≤ n → a ≠ 0) ∧ n ≤ (s.events.vecs.get vec).held)
        →
      ∃ t, exec (.vecCtrlWrite vec value) s = .next t ∧
        keepsAllBut [.events] s t ∧ (t.events.vecs.get vec).coalCount = n ∧ (t.events.vecs.get vec).coalTime = a ∧ (t.events.vecs.get
          vec).held = 0 ∧ (t.events.vecs.get vec).timer = none ∧ (if (s.events.msixEnable && !s.events.fnMask && !(s.events.vecs.get
          vec).masked && s.host.bme) = true then t.events.messages = vec :: s.events.messages else (t.events.vecs.get vec).pba = true)) ∧
  (∀ (vec : Nat) (value : BitVec 32) (s : State),
      vec < 64 ∧ (value.toNat % 512 = 0 ∨ 256 < value.toNat % 512 ∨ 2 ≤ value.toNat % 512 ∧ value.toNat / 65536 = 0) →
      ∃ t, exec (.vecCtrlWrite vec value) s = .next t ∧
        keepsAllBut [.fence, .events] s t ∧ (t.events.pending.getLsbD 832 = true ∧ t.events.vecs.get vec = s.events.vecs.get vec ∨
          (s.events.routes.get 832).vector = vec ∧ t.events.pending.getLsbD 832 = true)) ∧
  (∀ (value : BitVec 32) (s : State),
      dist32 s.events.logRd value ≤ dist32 s.events.logRd s.events.logWr →
      ∃ t, exec (.logRdCountWrite value) s = .next t ∧
        keepsAllBut [.fence, .events] s t ∧ t.events.logRd = value) ∧
  (∀ (value : BitVec 32) (s : State),
      dist32 s.events.logRd s.events.logWr < dist32 s.events.logRd value →
      ∃ t, exec (.logRdCountWrite value) s = .next t ∧
        keepsAllBut [.fence, .events] s t ∧ t.events.logRd = s.events.logRd ∧ t.events.pending.getLsbD 832 = true) ∧
  (∀ (s : State),
      s.stats.busy = false ∧ s.stats.armed = false →
      ∃ t, exec .snapNow s = .next t ∧
        keepsAllBut [.clock, .free, .cmd, .hostMem, .pair, .fw, .mbs, .fence, .events, .stats] s t ∧ t.stats.busy = true ∧ t.stats.armed =
          false ∧ t.stats.pendTick = s.tick ∧ t.stats.pendEpoch = 0 ∧ t.stats.snap = s.stats.snap ∧ t.stats.seq = s.stats.seq ∧ (if
          t.stats.startsOf s.now = [] ∧ s.contracts.maxSeen = [] then t.stats.hidden = t.stats.live else t.stats.overrun =
          s.stats.overrun)) ∧
  (∀ (s : State),
      (s.stats.busy || s.stats.armed) = true →
      ∃ t, exec .snapNow s = .next t ∧
        keepsAllBut [.clock, .free, .cmd, .hostMem, .pair, .fw, .mbs, .fence, .events, .stats] s t ∧ t.stats =
          { s.stats with overrun := inc32 s.stats.overrun }) ∧
  (∀ (s : State),
      s.stats.busy = false ∧ s.stats.armed = false →
      ∃ t, exec .snapAtFence s = .next t ∧
        keepsAllBut [.stats] s t ∧ t.stats = { s.stats with armed := true }) ∧
  (∀ (s : State),
      (s.stats.busy || s.stats.armed) = true →
      ∃ t, exec .snapAtFence s = .next t ∧
        keepsAllBut [.events, .stats] s t ∧ t.stats = { s.stats with overrun := inc32 s.stats.overrun }) ∧
  (∀ (s : State),
      s.stats.busy = true →
      ∃ t, exec .snapDone s = .next t ∧
        keepsAllBut [.fence, .events, .stats] s t ∧ t.stats =
          { s.stats with busy := false, snap := s.stats.hidden, seq := s.stats.seq + 1, tick := s.stats.pendTick, epoch := s.stats.pendEpoch }
          ∧ t.events.pending.getLsbD 832 = true) ∧
  (∀ (s : State),
      s.stats.busy = false →
      ∃ t, exec .snapDone s = .next t ∧
        keepsAllBut [] s t ∧ t = s) ∧
  (∀ (win : Win) (req : ReadReq) (s : State),
      win = .bar0 ∧ req.offset = 0 ∧ req.enables = [true, true, true, true] →
      ∃ t, exec (.readClearField win req) s = .next t ∧
        keepsAllBut [.host] s t ∧ t.host = { s.host with readData := [some 0x3A, some 0x1F, some 0x56, some 0x62] }) ∧
  (∀ (win : Win) (req : ReadReq) (a : Bool) (b : Bool) (c : Bool) (d : Bool) (r : Nat) (s : State),
      req.offset + 4 ≤ win.size ∧ req.offset % 4 = 0 ∧ req.enables = [a, b, c, d] ∧ (a || b || c || d) = true ∧ r = (s.readReg win
        req.offset).1 →
      ∃ t, exec (.readClearField win req) s = .next t ∧
        keepsAllBut [.clock, .free, .cmd, .hostMem, .tdc, .time, .core, .pair, .fw, .mbs, .fence, .events, .stats, .host] s t ∧
          t.host.readData = [if a then some (BitVec.ofNat 8 r) else none, if b then some (BitVec.ofNat 8 (r / 256)) else none, if c then
          some (BitVec.ofNat 8 (r / 65536)) else none, if d then some (BitVec.ofNat 8 (r / 16777216)) else none]) ∧
  (∀ (win : Win) (req : ReadReq) (s : State),
      req.offset + req.enables.length ≤ win.size ∧ req.offset % 4 = 0 ∧ req.enables = [false, false, false, false] →
      ∃ t, exec (.readClearField win req) s = .next t ∧
        keepsAllBut [.host] s t ∧ t.host = { s.host with readData := [none, none, none, none] }) ∧
  (∀ (win : Win) (req : ReadReq) (u : State) (s : State),
      req.offset + 8 ≤ win.size ∧ req.offset % 4 = 0 ∧ req.enables = List.replicate 8 true ∧ u = (s.readReg win req.offset).2 →
      ∃ t, exec (.readClearField win req) s = .next t ∧
        keepsAllBut [.clock, .free, .cmd, .hostMem, .tdc, .time, .core, .pair, .fw, .mbs, .fence, .events, .stats, .host] s t ∧
          t.host.readData = (leBytes 4 (s.readReg win req.offset).1 ++ leBytes 4 (u.readReg win (req.offset + 4)).1).map some) ∧
  (∀ (win : Win) (req : ReadReq) (m : Nat) (r : BitVec 32) (s : State),
      m < 8 ∧ win = .bar0 ∧ req.enables = [true, true, true, true] ∧ (req.offset = 0x10020 + 0x2000 * m ∧ r = (s.mbs.get m).submit ∨
        req.offset = 0x10024 + 0x2000 * m ∧ r = (s.mbs.get m).fetch ∨ req.offset = 0x10028 + 0x2000 * m ∧ r = (s.mbs.get m).done) →
      ∃ t, exec (.readClearField win req) s = .next t ∧
        keepsAllBut [.host] s t ∧ t.host = { s.host with readData := (leBytes 4 r.toNat).map some }) ∧
  (∀ (win : Win) (req : ReadReq) (k : Nat) (r : BitVec 32) (s : State),
      k < 32 ∧ win = .bar0 ∧ req.enables = [true, true, true, true] ∧ (req.offset = 0x30100 + 4 * k ∧ r = s.events.pending.extractLsb' (32
        * k) 32 ∨ req.offset = 0x30200 + 4 * k ∧ r = s.events.mask.extractLsb' (32 * k) 32) →
      ∃ t, exec (.readClearField win req) s = .next t ∧
        keepsAllBut [.host] s t ∧ t.host = { s.host with readData := (leBytes 4 r.toNat).map some }) ∧
  (∀ (win : Win) (req : ReadReq) (s : State),
      win = .bar0 ∧ req.offset = 0x20028 ∧ req.enables = [true, true, true, true] ∧ s.cycleNow.before = [] →
      ∃ t, exec (.readClearField win req) s = .next t ∧
        keepsAllBut [.clock, .free, .cmd, .hostMem, .tdc, .time, .core, .pair, .fw, .mbs, .fence, .events, .stats, .host] s t ∧
          t.host.readData = (leBytes 4 s.time.refused).map some ∧ t.time.refused = 0) ∧
  (∀ (win : Win) (offset : Nat) (data : List (Option Byte)) (w : BitVec 32) (s : State),
      offset + 4 ≤ win.size ∧ offset % 4 = 0 ∧ data = (leBytes 4 w.toNat).map some →
      ∃ t, exec (.registerWrite win offset data) s = .next t ∧
        keepsAllBut [.clock, .free, .cmd, .hostMem, .glob, .tdc, .gauge, .time, .stitch, .core, .pair, .fw, .mbs, .fence, .events, .stats,
          .host] s t ∧ t = s.writeReg win offset w.toNat) ∧
  (∀ (win : Win) (offset : Nat) (data : List (Option Byte)) (a : BitVec 32) (b : BitVec 32) (s : State),
      offset + 8 ≤ win.size ∧ offset % 4 = 0 ∧ data = (leBytes 4 a.toNat ++ leBytes 4 b.toNat).map some →
      ∃ t, exec (.registerWrite win offset data) s = .next t ∧
        keepsAllBut [.clock, .free, .cmd, .hostMem, .glob, .tdc, .gauge, .time, .stitch, .core, .pair, .fw, .mbs, .fence, .events, .stats,
          .host] s t ∧ t = (s.writeReg win offset a.toNat).writeReg win (offset + 4) b.toNat) ∧
  (∀ (win : Win) (offset : Nat) (data : List (Option Byte)) (w : BitVec 32) (s : State),
      win = .bar0 ∧ offset = 0x1C ∧ data = (leBytes 4 w.toNat).map some →
      ∃ t, exec (.registerWrite win offset data) s = .next t ∧
        keepsAllBut [.glob] s t ∧ t.glob.scratch = w) ∧
  (∀ (win : Win) (offset : Nat) (data : List (Option Byte)) (w : BitVec 32) (k : Nat) (s : State),
      win = .bar0 ∧ k < 32 ∧ offset = 0x30200 + 4 * k ∧ data = (leBytes 4 w.toNat).map some →
      ∃ t, exec (.registerWrite win offset data) s = .next t ∧
        keepsAllBut [.clock, .free, .cmd, .hostMem, .glob, .tdc, .gauge, .time, .stitch, .core, .pair, .fw, .mbs, .fence, .events, .stats,
          .host] s t ∧ (∀ i ∈ List.range 1024, t.events.mask.getLsbD i = (if i / 32 = k then w.getLsbD (i % 32) else s.events.mask.getLsbD
          i))) ∧
  (∀ (win : Win) (offset : Nat) (data : List (Option Byte)) (a : Byte) (s : State),
      offset % 4 = 0 ∧ data = [some a] ∧ (win = .bar0 ∧ offset < 0x4000000 ∧ bar0Listed offset = true ∨ win = .bar2 ∧ offset < 0x10000000
        ∧ bar2Listed offset = true) →
      ∃ t, exec (.registerWrite win offset data) s = .next t ∧
        keepsAllBut [.fence, .events] s t ∧ t.events.pending.getLsbD 832 = true) ∧
  (∀ (win : Win) (offset : Nat) (data : List (Option Byte)) (s : State),
      offset + data.length ≤ win.size ∧ (win = .pf1 ∨ offset % 4 = 0 ∧ 0 < data.length ∧ data.length < 4 ∧ (win = .bar0 ∧ bar0Listed
        offset = false ∨ win = .bar2 ∧ bar2Listed offset = false)) →
      ∃ t, exec (.registerWrite win offset data) s = .next t ∧
        keepsAllBut [] s t ∧ t = s)

/-- The system, image, port, lane, parser and table commands complete. Where a command of one of these kinds, from any source, reaches its
own checks and acts at once, and its operands and the state meet what its rule asks, exec answers a next state in which it has completed
with its own status, or has begun what its rule says. One clause each for: nop, fence, sysPowerDomain, sysGetStatus, sysSetBoard, sysReset,
sysGetPower, sysGetThermal, sysConfigureThermal, sysSetSensor, imgLoad, imgValidate, imgArm, imgDisarm, imgGetStatus, imgErase,
portConfigure, portCastOn, portBindOff, portSetPolicy, selvedgeConfigure, selvedgeGetRange, moduleRead, moduleWrite, laneGetStatus,
laneGetLatency, laneSetChannelTable, laneRelatch, laneSwatch, laneSweep, laneSweepRead, parseConfigurePort, parseConfigureExtract, aclStage,
aclCommit, aclDelete, aclRead, slowConfigure, parseGetCounts, steerConfigureProfile, steerWrite, steerRead, vlanConfigure, portSetPvid,
routerMacSet, l2Add, l2Delete, nhWrite, nhDelete, hostAdd, hostDelete, lpmAdd, lpmDelete, memberStage, ecmpCommit, ecmpDelete, mcastCommit,
tableLookup, tableReadIndex, tableClearLost, tableGetUsage. (R399, R448, R450) -/
def Obligations.CompletionsOfSetupCommands : Prop :=
  (∀ (src : CmdSrc) (bytes : List Byte) (s : State),
      s.acts (.nop src bytes) src 0x0000 = true →
      ∃ t, exec (.nop src bytes) s = .next t ∧ t.cmd.opcode = 0x0000 ∧ t.cmd.status = s.okStatus src 0x0000) ∧
  (∀ (src : CmdSrc) (s : State),
      s.earlierDone (s.earlierOf src) = true →
      fromJournal src = false ∧ (s.pair.enable && decide (s.pair.role = .active) && s.partnerStandby) = false →
      s.acts (.fence src) src 0x0001 = true →
      ∃ t, exec (.fence src) s = .next t ∧ t.fence.epoch = s.fence.epoch + 1 ∧ t.fence.lastF = s.fenceAt src ∧ t.fence.active =
        s.fence.active ++ [{ epoch := s.fence.epoch + 1, f := s.fenceAt src, src := src, arm := false }]) ∧
  (∀ (src : CmdSrc) (on : Bool) (domain : Nat) (s : State),
      2 ≤ domain ∧ domain ≤ 9 ∧ s.pdOn domain = false ∧ on = true →
      (domain = 5 → s.fuses.orderCode.skein = true) →
      (domNeeds domain).all s.pdOn = true ∧ s.suppliesOk domain = true →
      s.acts (.sysPowerDomain src on domain) src 0x0101 = true →
      ∃ t, exec (.sysPowerDomain src on domain) s = .next t ∧ t.cmd.opcode = 0x0101 ∧ t.cmd.status = s.okStatus src 0x0101) ∧
  (∀ (src : CmdSrc) (s : State),
      s.acts (.sysGetStatus src) src 0x0102 = true →
      ∃ t, exec (.sysGetStatus src) s = .next t ∧ t.cmd.opcode = 0x0102 ∧ t.cmd.status = s.okStatus src 0x0102) ∧
  (∀ (src : CmdSrc) (param period region base length mask : Nat) (s : State),
      src = .config ∧ param = 0 ∧ msU ≤ period ∧ period ≤ 1000 * msU ∧ region = 0 ∧ base = 0 ∧ length = 0 ∧ mask = 0 →
      s.acts (.sysSetBoard src param period region base length mask) src 0x0103 = true →
      ∃ t, exec (.sysSetBoard src param period region base length mask) s = .next t ∧ t.cmd.opcode = 0x0103 ∧ t.cmd.status = s.okStatus
        src 0x0103) ∧
  (∀ (src : CmdSrc) (kind : Nat) (s : State),
      kind < 3 →
      (s.resetsNow.any fun o => decide (resetSize (2 - kind) ≤ resetSize o)) = false →
      s.acts (.sysReset src kind) src 0x0110 = true →
      ∃ t, exec (.sysReset src kind) s = .next t ∧ t.cmd.opcode = 0x0110 ∧ t.cmd.status = s.okStatus src 0x0110) ∧
  (∀ (src : CmdSrc) (s : State),
      s.acts (.sysGetPower src) src 0x0111 = true →
      ∃ t, exec (.sysGetPower src) s = .next t ∧ t.cmd.opcode = 0x0111 ∧ t.cmd.status = s.okStatus src 0x0111) ∧
  (∀ (src : CmdSrc) (s : State),
      s.acts (.sysGetThermal src) src 0x0112 = true →
      ∃ t, exec (.sysGetThermal src) s = .next t ∧ t.cmd.opcode = 0x0112 ∧ t.cmd.status = s.okStatus src 0x0112) ∧
  (∀ (src : CmdSrc) (warn throttleAt hyst : Int) (fraction : Nat) (s : State),
      800 ≤ warn ∧ warn ≤ throttleAt ∧ throttleAt ≤ s.tjMax ∧ warn % 4 = 0 ∧ throttleAt % 4 = 0 →
      16 ≤ hyst ∧ hyst ≤ 160 ∧ 10 ≤ fraction ∧ fraction ≤ 100 →
      s.acts (.sysConfigureThermal src warn throttleAt hyst fraction) src 0x0113 = true →
      ∃ t, exec (.sysConfigureThermal src warn throttleAt hyst fraction) s = .next t ∧ t.cmd.opcode = 0x0113 ∧ t.cmd.status = s.okStatus
        src 0x0113) ∧
  (∀ (src : CmdSrc) (sensor mark : Nat) (s : State),
      sensor < 16 ∧ mark = 1 →
      s.acts (.sysSetSensor src sensor mark) src 0x0114 = true →
      ∃ t, exec (.sysSetSensor src sensor mark) s = .next t ∧ t.cmd.opcode = 0x0114 ∧ t.cmd.status = s.okStatus src 0x0114) ∧
  (∀ (src : CmdSrc) (target addr length : Nat) (data : Option (List Byte)) (l : List Byte) (s : State),
      target = 16 ∧ addr % 4 = 0 ∧ 576 ≤ length ∧ length ≤ 16777216 ∧ data = some l ∧ l.length = length →
      s.acts (.imgLoad src target addr length data) src 0x0201 = true →
      ∃ t, exec (.imgLoad src target addr length data) s = .next t ∧ t.cmd.opcode = 0x0201 ∧ t.cmd.status =
        (match s.verifyImage true l with | .inr _ => s.okStatus src 0x0201 | .inl f => f.2)) ∧
  (∀ (src : CmdSrc) (slot : Nat) (s : State),
      slot < 16 ∧ ((s.fw.overlays.get slot).state = .loaded ∨ (s.fw.overlays.get slot).state = .valid) ∧ s.fence.waiting = [] →
      fromJournal src = true ∨ (s.clearStage slot).trial s.contracts.table slot 0 (s.fw.overlays.get slot).img.cmds = none →
      s.acts (.imgValidate src slot) src 0x0202 = true →
      ∃ t, exec (.imgValidate src slot) s = .next t ∧ t.cmd.opcode = 0x0202 ∧ t.cmd.status = s.okStatus src 0x0202) ∧
  (∀ (src : CmdSrc) (slot mode : Nat) (t : KTime) (s : State),
      slot < 16 ∧ mode = 1 ∧ t.ns < 1000000000 ∧ s.ktime + msU ≤ KTime.units t ∧ (KTime.units t : Int) ≤ s.ktime + 1000000 * secU →
      (s.fw.overlays.get slot).state = .valid ∧ s.armedSlot = none ∧ s.fence.waiting = [] →
      s.acts (.imgArm src slot mode t) src 0x0203 = true →
      ∃ u, exec (.imgArm src slot mode t) s = .next u ∧ u.cmd.opcode = 0x0203 ∧ u.cmd.status = s.okStatus src 0x0203) ∧
  (∀ (src : CmdSrc) (slot : Nat) (s : State),
      slot < 16 ∧ (s.fw.overlays.get slot).state = .armed ∧ (s.fw.overlays.get slot).timeMode = true →
      s.wTime < (s.fw.overlays.get slot).t ∧ s.fence.waiting = [] →
      s.acts (.imgDisarm src slot) src 0x0204 = true →
      ∃ t, exec (.imgDisarm src slot) s = .next t ∧ t.cmd.opcode = 0x0204 ∧ t.cmd.status = s.okStatus src 0x0204) ∧
  (∀ (src : CmdSrc) (slot : Nat) (s : State),
      slot < 16 →
      s.acts (.imgGetStatus src slot) src 0x0205 = true →
      ∃ t, exec (.imgGetStatus src slot) s = .next t ∧ t.cmd.opcode = 0x0205 ∧ t.cmd.status = s.okStatus src 0x0205) ∧
  (∀ (src : CmdSrc) (slot : Nat) (s : State),
      slot < 16 ∧ (s.fw.overlays.get slot).state ≠ .armed ∧ s.fence.waiting = [] →
      s.acts (.imgErase src slot) src 0x0206 = true →
      ∃ t, exec (.imgErase src slot) s = .next t ∧ t.cmd.opcode = 0x0206 ∧ t.cmd.status = s.okStatus src 0x0206) ∧
  (∀ (src : CmdSrc) (port mode width fec maxFrame : Nat) (s : State),
      port < 256 ∧ port % (max 1 width) = 0 ∧ mode < 9 ∧ (width = 1 ∨ width = 2 ∨ width = 4 ∨ width = 8) ∧ widthOk mode width = true →
      (laneRate mode width fec).isSome = true ∧ 1518 ≤ maxFrame ∧ maxFrame ≤ 16384 ∧ s.portsOverlap port width = false →
      (((List.range (max width (if (s.ports.get port).configured then (s.ports.get port).width else 1))).map (port + ·)).all fun l =>
        decide ((s.lanes.get l).state = .down ∨ (s.lanes.get l).state = .off)) = true →
      (s.octetRates (port / 8) port).length < 2 ∨ (s.octetRates (port / 8) port).contains ((laneRate mode width fec).getD 0) = true →
      s.acts (.portConfigure src port mode width fec maxFrame) src 0x0301 = true →
      ∃ t, exec (.portConfigure src port mode width fec maxFrame) s = .next t ∧ t.cmd.opcode = 0x0301 ∧ t.cmd.status = s.okStatus src
        0x0301) ∧
  (∀ (src : CmdSrc) (port : Nat) (s : State),
      port < 256 ∧ (s.ports.get port).configured = true ∧ (s.portState port = .casting ∨ s.portState port = .proving ∨ s.portState port =
        .up) →
      s.acts (.portCastOn src port) src 0x0302 = true →
      ∃ t, exec (.portCastOn src port) s = .next t ∧ t.cmd.opcode = 0x0302 ∧ t.cmd.status = s.okStatus src 0x0302) ∧
  (∀ (src : CmdSrc) (port drain : Nat) (s : State),
      (s.pair.waits = [] ∧ (s.pair.enable = true → s.pair.role = .standby → s.pair.linkUp = true ∧ s.lossSigns < 2)) →
      port < 256 ∧ drain ≤ 100 * msU ∧ ((s.ports.get port).configured = false ∨ s.portState port = .down ∨ s.portState port = .off ∨
        s.portState port = .swatch) →
      s.acts (.portBindOff src port drain) src 0x0303 = true →
      ∃ t, exec (.portBindOff src port drain) s = .next t ∧ t.cmd.opcode = 0x0303 ∧ t.cmd.status = s.okStatus src 0x0303) ∧
  (∀ (src : CmdSrc) (port castTimeout holdDown flapLimit flapWindow recast : Nat) (s : State),
      port < 256 ∧ 10 * msU ≤ castTimeout ∧ castTimeout ≤ 10 * secU ∧ msU ≤ holdDown ∧ holdDown ≤ 10 * secU →
      1 ≤ flapLimit ∧ flapLimit ≤ 255 ∧ 10 * msU ≤ flapWindow ∧ flapWindow ≤ 60 * secU ∧ recast < 2 →
      s.acts (.portSetPolicy src port castTimeout holdDown flapLimit flapWindow recast) src 0x0304 = true →
      ∃ t, exec (.portSetPolicy src port castTimeout holdDown flapLimit flapWindow recast) s = .next t ∧ t.cmd.opcode = 0x0304 ∧
        t.cmd.status = s.okStatus src 0x0304) ∧
  (∀ (src : CmdSrc) (port slots markInterval outlier rangeTimeout : Nat) (s : State),
      port < 256 ∧ (slots = 1 ∨ slots = 2 ∨ slots = 4) ∧ 16 ≤ markInterval ∧ markInterval ≤ 4096 ∧ 6554 ≤ outlier ∧ outlier ≤ 100 * nsU ∧
        tenthsOk outlier = true →
      msU ≤ rangeTimeout ∧ rangeTimeout ≤ 1000 * msU ∧ (s.ports.get port).configured = true ∧ (s.ports.get port).isSelvedge = true →
      slots = (s.selv.get port).slots ∨ s.portState port = .down →
      s.acts (.selvedgeConfigure src port slots markInterval outlier rangeTimeout) src 0x030C = true →
      ∃ t, exec (.selvedgeConfigure src port slots markInterval outlier rangeTimeout) s = .next t ∧ t.cmd.opcode = 0x030C ∧ t.cmd.status =
        s.okStatus src 0x030C) ∧
  (∀ (src : CmdSrc) (port : Nat) (n : Nat) (s : State),
      n = satAdd 32 (s.lanes.get port).ordered (if s.portUp port then Config.orderedSets s.free port else 0) →
      port < 256 ∧ (s.ports.get port).configured = true ∧ (s.ports.get port).isSelvedge = true →
      s.acts (.selvedgeGetRange src port) src 0x030D = true →
      ∃ t, exec (.selvedgeGetRange src port) s = .next t ∧ t.cmd.opcode = 0x030D ∧ t.cmd.status = s.okStatus src 0x030D) ∧
  (∀ (src : CmdSrc) (module bank page offset length : Nat) (l : List Byte) (s : State),
      (l = (List.range length).map fun i => Config.freeByte (65536 * (s.free + 1) + i)) →
      module < 256 ∧ bank < 256 ∧ page < 256 ∧ offset < 256 ∧ 1 ≤ length ∧ length ≤ 128 ∧ offset + length ≤ 256 ∧ (128 ≤ offset ∨ offset +
        length ≤ 128) →
      s.moduleThere module = true →
      s.acts (.moduleRead src module bank page offset length) src 0x030E = true →
      ∃ t, exec (.moduleRead src module bank page offset length) s = .next t ∧ t.cmd.opcode = 0x030E ∧ t.cmd.status = (if Config.freeNat
        s.free % 2 = 1 then stTimeout else if cmisBad page offset l then stCrc else stOk)) ∧
  (∀ (src : CmdSrc) (module bank page offset length : Nat) (data : List Byte) (s : State),
      module < 256 ∧ bank < 256 ∧ page < 256 ∧ offset < 256 ∧ 1 ≤ length ∧ length ≤ 8 ∧ offset / 8 = (offset + length - 1) / 8 →
      s.moduleThere module = true →
      s.acts (.moduleWrite src module bank page offset length data) src 0x030F = true →
      ∃ t, exec (.moduleWrite src module bank page offset length data) s = .next t ∧ t.cmd.opcode = 0x030F ∧ t.cmd.status = (if
        Config.freeNat s.free % 2 = 1 then stTimeout else stOk)) ∧
  (∀ (src : CmdSrc) (lane : Nat) (s : State),
      lane < 264 →
      s.acts (.laneGetStatus src lane) src 0x0305 = true →
      ∃ t, exec (.laneGetStatus src lane) s = .next t ∧ t.cmd.opcode = 0x0305 ∧ t.cmd.status = s.okStatus src 0x0305) ∧
  (∀ (src : CmdSrc) (lane : Nat) (p : Nat) (s : State),
      lane < 264 ∧ s.portOf lane = some p ∧ (s.lanes.get lane).state = .up →
      s.acts (.laneGetLatency src lane) src 0x0306 = true →
      ∃ t, exec (.laneGetLatency src lane) s = .next t ∧ t.cmd.opcode = 0x0306 ∧ t.cmd.status = s.okStatus src 0x0306) ∧
  (∀ (src : CmdSrc) (sect : Nat) (l : List Byte) (s : State),
      sect < 514 ∧ s.tableSection sect = some l →
      s.acts (.laneSetChannelTable src sect) src 0x0307 = true →
      ∃ t, exec (.laneSetChannelTable src sect) s = .next t ∧ t.cmd.opcode = 0x0307 ∧ t.cmd.status =
        (match readTable l with | (_, some _) => s.okStatus src 0x0307 | (st, none) => st)) ∧
  (∀ (src : CmdSrc) (lane : Nat) (s : State),
      lane = 0xFFFF →
      s.acts (.laneRelatch src lane) src 0x0308 = true →
      ∃ t, exec (.laneRelatch src lane) s = .next t ∧ t.cmd.opcode = 0x0308 ∧ t.cmd.status = s.okStatus src 0x0308) ∧
  (∀ (src : CmdSrc) (clear : Bool) (lane action txPattern rxPattern loopback injKind injArg : Nat) (s : State),
      lane < 264 ∧ action = 0 ∧ clear = false ∧ s.patternOk lane txPattern = true ∧ s.patternOk lane rxPattern = true ∧ loopback < 2 ∧
        injKind = 0 ∧ injArg = 0 →
      lane < 256 ∨ s.pair.linkUp = false →
      (s.lanes.get lane).state = .down ∨ (s.lanes.get lane).state = .fault ∨ (s.lanes.get lane).state = .held ∨ (s.lanes.get lane).state =
        .swatch →
      s.acts (.laneSwatch src clear lane action txPattern rxPattern loopback injKind injArg) src 0x0309 = true →
      ∃ t, exec (.laneSwatch src clear lane action txPattern rxPattern loopback injKind injArg) s = .next t ∧ t.cmd.opcode = 0x0309 ∧
        t.cmd.status = s.okStatus src 0x0309) ∧
  (∀ (src : CmdSrc) (lane vga dwell : Nat) (s : State),
      lane < 264 ∧ vga < 64 ∧ msU ≤ dwell ∧ dwell ≤ 1000 * msU ∧ (lane < 256 ∨ s.pair.linkUp = false) →
      (s.lanes.get lane).state = .swatch ∧ (s.lanes.get lane).swatch.sweeping = false ∧ (s.lanes.get lane).swatch.locked = true →
      s.acts (.laneSweep src lane vga dwell) src 0x030A = true →
      ∃ t, exec (.laneSweep src lane vga dwell) s = .next t ∧ t.cmd.opcode = 0x030A ∧ t.cmd.status = s.okStatus src 0x030A) ∧
  (∀ (src : CmdSrc) (lane page : Nat) (s : State),
      lane < 264 ∧ page < 64 ∧ (s.lanes.get lane).swatch.sweepDone = true →
      s.acts (.laneSweepRead src lane page) src 0x030B = true →
      ∃ t, exec (.laneSweepRead src lane page) s = .next t ∧ t.cmd.opcode = 0x030B ∧ t.cmd.status = s.okStatus src 0x030B) ∧
  (∀ (src : CmdSrc) (trustPcp trustDscp : Bool) (port malformed lenConflict profile pcpMap dscpMap defClass : Nat) (s : State),
      port < 256 ∧ malformed < 2 ∧ lenConflict < 2 ∧ profile < 16 ∧ pcpMap < 8 ∧ dscpMap < 8 ∧ defClass < 8 →
      s.acts (.parseConfigurePort src trustPcp trustDscp port malformed lenConflict profile pcpMap dscpMap defClass) src 0x0420 = true →
      ∃ t, exec (.parseConfigurePort src trustPcp trustDscp port malformed lenConflict profile pcpMap dscpMap defClass) s = .next t ∧
        t.cmd.opcode = 0x0420 ∧ t.cmd.status = s.okStatus src 0x0420) ∧
  (∀ (src : CmdSrc) (enable0 enable1 : Bool) (profile cond0 anchor0 offset0 width0 cond1 anchor1 offset1 width1 : Nat) (s : State),
      profile < 16 ∧ cond0 < 4 ∧ anchor0 < 5 ∧ offset0 < 256 ∧ 1 ≤ width0 ∧ width0 ≤ 4 →
      cond1 < 4 ∧ anchor1 < 5 ∧ offset1 < 256 ∧ 1 ≤ width1 ∧ width1 ≤ 4 →
      s.acts (.parseConfigureExtract src enable0 enable1 profile cond0 anchor0 offset0 width0 cond1 anchor1 offset1 width1) src 0x0421 =
        true →
      ∃ t, exec (.parseConfigureExtract src enable0 enable1 profile cond0 anchor0 offset0 width0 cond1 anchor1 offset1 width1) s = .next t
        ∧ t.cmd.opcode = 0x0421 ∧ t.cmd.status = s.okStatus src 0x0421) ∧
  (∀ (src : CmdSrc) (part : Nat) (bytes : List Byte) (s : State),
      part < 4 ∧ s.fence.waiting = [] →
      s.acts (.aclStage src part bytes) src 0x0422 = true →
      ∃ t, exec (.aclStage src part bytes) s = .next t ∧ t.cmd.opcode = 0x0422 ∧ t.cmd.status = s.okStatus src 0x0422) ∧
  (∀ (src : CmdSrc) (copy capture setClass steer redirect : Bool) (entry kind tc profile port : Nat) (v : BitVec 640) (m : BitVec 640) (s
    : State),
      v = BitVec.ofNat 640 (ofBe (padTo 40 ((s.aclStaged src).get 0) ++ padTo 40 ((s.aclStaged src).get 1))) →
      m = BitVec.ofNat 640 (ofBe (padTo 40 ((s.aclStaged src).get 2) ++ padTo 40 ((s.aclStaged src).get 3))) →
      entry < 32768 ∧ kind < 3 ∧ aclActionOk copy setClass steer redirect kind = true ∧ aclBitsOk v m = true →
      ((List.range 4).all fun k => (s.aclStaged src).has k) = true ∧ s.fence.waiting = [] →
      (if setClass then tc < 8 else tc = 0) ∧ (if steer then profile < 64 else profile = 0) ∧ (if redirect then port < 256 else port = 0)
        →
      s.acts (.aclCommit src copy capture setClass steer redirect entry kind tc profile port) src 0x0423 = true →
      ∃ t, exec (.aclCommit src copy capture setClass steer redirect entry kind tc profile port) s = .next t ∧ t.cmd.opcode = 0x0423 ∧
        t.cmd.status = s.okStatus src 0x0423) ∧
  (∀ (src : CmdSrc) (entry : Nat) (s : State),
      entry < 32768 →
      s.acts (.aclDelete src entry) src 0x0424 = true →
      ∃ t, exec (.aclDelete src entry) s = .next t ∧ t.cmd.opcode = 0x0424 ∧ t.cmd.status = s.okStatus src 0x0424) ∧
  (∀ (src : CmdSrc) (clear : Bool) (entry part : Nat) (e : AclEntry) (s : State),
      entry < 32768 ∧ part < 4 ∧ s.parse.acl.find entry = some e →
      s.acts (.aclRead src clear entry part) src 0x0425 = true →
      ∃ t, exec (.aclRead src clear entry part) s = .next t ∧ t.cmd.opcode = 0x0425 ∧ t.cmd.status = s.okStatus src 0x0425) ∧
  (∀ (src : CmdSrc) (reason rate burst : Nat) (s : State),
      1 ≤ reason ∧ reason ≤ 15 ∧ rate ≤ 1000000 ∧ 1 ≤ burst ∧ burst ≤ 4096 →
      s.acts (.slowConfigure src reason rate burst) src 0x0429 = true →
      ∃ t, exec (.slowConfigure src reason rate burst) s = .next t ∧ t.cmd.opcode = 0x0429 ∧ t.cmd.status = s.okStatus src 0x0429) ∧
  (∀ (src : CmdSrc) (clear : Bool) (port : Nat) (s : State),
      port < 256 →
      s.acts (.parseGetCounts src clear port) src 0x042A = true →
      ∃ t, exec (.parseGetCounts src clear port) s = .next t ∧ t.cmd.opcode = 0x042A ∧ t.cmd.status = s.okStatus src 0x042A) ∧
  (∀ (src : CmdSrc) (symmetric : Bool) (profile mode fields seed field sh m b absent : Nat) (s : State),
      profile < 64 ∧ mode = 0 ∧ fields < 16384 ∧ field = 0 ∧ sh = 0 ∧ m = 0 ∧ b = 0 ∧ absent = 0 →
      s.acts (.steerConfigureProfile src symmetric profile mode fields seed field sh m b absent) src 0x0426 = true →
      ∃ t, exec (.steerConfigureProfile src symmetric profile mode fields seed field sh m b absent) s = .next t ∧ t.cmd.opcode = 0x0426 ∧
        t.cmd.status = s.okStatus src 0x0426) ∧
  (∀ (src : CmdSrc) (table first count : Nat) (entries : List Nat) (s : State),
      table < 64 ∧ first < 4096 ∧ 1 ≤ count ∧ count ≤ 12 ∧ first + count ≤ 4096 ∧ entries.length = count ∧ entries.all indOk = true →
      s.acts (.steerWrite src table first count entries) src 0x0427 = true →
      ∃ t, exec (.steerWrite src table first count entries) s = .next t ∧ t.cmd.opcode = 0x0427 ∧ t.cmd.status = s.okStatus src 0x0427) ∧
  (∀ (src : CmdSrc) (table first count : Nat) (s : State),
      table < 64 ∧ first < 4096 ∧ 1 ≤ count ∧ count ≤ 12 ∧ first + count ≤ 4096 →
      s.acts (.steerRead src table first count) src 0x0428 = true →
      ∃ t, exec (.steerRead src table first count) s = .next t ∧ t.cmd.opcode = 0x0428 ∧ t.cmd.status = s.okStatus src 0x0428) ∧
  (∀ (src : CmdSrc) (enable l3 : Bool) (vid : Nat) (members untagged : BitVec 256) (unknown floodMgid rmac : Nat) (s : State),
      vidOk vid = true ∧ unknown < 3 ∧ floodMgid < 65536 ∧ rmac < 64 →
      (enable = true ∨ s.vlanNamed vid = false) ∧ (l3 = true ∨ s.vlanRouted vid = false) →
      s.acts (.vlanConfigure src enable l3 vid members untagged unknown floodMgid rmac) src 0x0401 = true →
      ∃ t, exec (.vlanConfigure src enable l3 vid members untagged unknown floodMgid rmac) s = .next t ∧ t.cmd.opcode = 0x0401 ∧
        t.cmd.status = s.okStatus src 0x0401) ∧
  (∀ (src : CmdSrc) (port pvid : Nat) (s : State),
      port < 256 ∧ vidOk pvid = true →
      s.acts (.portSetPvid src port pvid) src 0x0402 = true →
      ∃ t, exec (.portSetPvid src port pvid) s = .next t ∧ t.cmd.opcode = 0x0402 ∧ t.cmd.status = s.okStatus src 0x0402) ∧
  (∀ (src : CmdSrc) (index mac : Nat) (s : State),
      index < 64 →
      s.acts (.routerMacSet src index mac) src 0x0403 = true →
      ∃ t, exec (.routerMacSet src index mac) s = .next t ∧ t.cmd.opcode = 0x0403 ∧ t.cmd.status = s.okStatus src 0x0403) ∧
  (∀ (src : CmdSrc) (replace : Bool) (vid da result : Nat) (s : State),
      vidOk vid = true ∧ resultOk [0, 1, 4, 5] result = true ∧ s.fwd.l2.find (l2Key vid da) = none ∧ fits 0 1 (s.takenLocs 0) = true →
      s.acts (.l2Add src replace vid da result) src 0x0404 = true →
      ∃ t, exec (.l2Add src replace vid da result) s = .next t ∧ t.cmd.opcode = 0x0404 ∧ t.cmd.status = s.okStatus src 0x0404) ∧
  (∀ (src : CmdSrc) (vid da : Nat) (s : State),
      vidOk vid = true →
      s.acts (.l2Delete src vid da) src 0x0405 = true →
      ∃ t, exec (.l2Delete src vid da) s = .next t ∧ t.cmd.opcode = 0x0405 ∧ t.cmd.status = s.okStatus src 0x0405) ∧
  (∀ (src : CmdSrc) (decTtl : Bool) (nh port vid da rmac : Nat) (s : State),
      nh < 65536 ∧ port < 256 ∧ vidOk vid = true ∧ rmac < 64 →
      s.acts (.nhWrite src decTtl nh port vid da rmac) src 0x0406 = true →
      ∃ t, exec (.nhWrite src decTtl nh port vid da rmac) s = .next t ∧ t.cmd.opcode = 0x0406 ∧ t.cmd.status = s.okStatus src 0x0406) ∧
  (∀ (src : CmdSrc) (nh : Nat) (s : State),
      nh < 65536 ∧ s.nhNamed nh = false →
      s.acts (.nhDelete src nh) src 0x0407 = true →
      ∃ t, exec (.nhDelete src nh) s = .next t ∧ t.cmd.opcode = 0x0407 ∧ t.cmd.status = s.okStatus src 0x0407) ∧
  (∀ (src : CmdSrc) (replace : Bool) (family addr result : Nat) (s : State),
      family < 2 ∧ addr < 2 ^ famBits (decide (family = 1)) ∧ resultOk [0, 2, 3, 4, 5] result = true ∧ s.resultExists result = true →
      s.fwd.hosts.find (hostKey (decide (family = 1)) addr) = none ∧ fits 1 (family + 1) (s.takenLocs 1) = true →
      s.acts (.hostAdd src replace family addr result) src 0x0408 = true →
      ∃ t, exec (.hostAdd src replace family addr result) s = .next t ∧ t.cmd.opcode = 0x0408 ∧ t.cmd.status = s.okStatus src 0x0408) ∧
  (∀ (src : CmdSrc) (family addr : Nat) (s : State),
      family < 2 ∧ addr < 2 ^ famBits (decide (family = 1)) →
      s.acts (.hostDelete src family addr) src 0x0409 = true →
      ∃ t, exec (.hostDelete src family addr) s = .next t ∧ t.cmd.opcode = 0x0409 ∧ t.cmd.status = s.okStatus src 0x0409) ∧
  (∀ (src : CmdSrc) (replace : Bool) (family pfx length result : Nat) (s : State),
      family < 2 ∧ pfx < 2 ^ famBits (decide (family = 1)) ∧ length ≤ (if family = 1 then 64 else 32) ∧ resultOk [0, 2, 3, 4, 5] result =
        true ∧ s.resultExists result = true →
      (s.fwd.lpm (decide (family = 1))).find (lpmKey (decide (family = 1)) pfx length) = none ∧ fits (family + 2) 1 (s.takenLocs (family +
        2)) = true →
      s.acts (.lpmAdd src replace family pfx length result) src 0x040A = true →
      ∃ t, exec (.lpmAdd src replace family pfx length result) s = .next t ∧ t.cmd.opcode = 0x040A ∧ t.cmd.status = s.okStatus src 0x040A)
        ∧
  (∀ (src : CmdSrc) (family pfx length : Nat) (s : State),
      family < 2 ∧ pfx < 2 ^ famBits (decide (family = 1)) ∧ length ≤ (if family = 1 then 64 else 32) →
      s.acts (.lpmDelete src family pfx length) src 0x040B = true →
      ∃ t, exec (.lpmDelete src family pfx length) s = .next t ∧ t.cmd.opcode = 0x040B ∧ t.cmd.status = s.okStatus src 0x040B) ∧
  (∀ (src : CmdSrc) (first count : Nat) (members : List Member) (s : State),
      first < 256 ∧ 1 ≤ count ∧ count ≤ 12 ∧ first + count ≤ 256 ∧ members.length = count ∧ members.all memberOk = true ∧ s.fence.waiting
        = [] →
      s.acts (.memberStage src first count members) src 0x040C = true →
      ∃ t, exec (.memberStage src first count members) s = .next t ∧ t.cmd.opcode = 0x040C ∧ t.cmd.status = s.okStatus src 0x040C) ∧
  (∀ (src : CmdSrc) (group count profile : Nat) (s : State),
      group < 4096 ∧ 1 ≤ count ∧ count ≤ 256 ∧ profile < 64 ∧ s.fence.waiting = [] →
      ((List.range count).all fun i => (s.memStaged src).has i && decide (((s.memStaged src).get i).nh < 65536) && s.fwd.nhs.has
        ((s.memStaged src).get i).nh) = true →
      fits 6 count (s.takenBeside 6 (s.fwd.ecmp.get group).locs) = true →
      s.acts (.ecmpCommit src group count profile) src 0x040D = true →
      ∃ t, exec (.ecmpCommit src group count profile) s = .next t ∧ t.cmd.opcode = 0x040D ∧ t.cmd.status = s.okStatus src 0x040D) ∧
  (∀ (src : CmdSrc) (group : Nat) (s : State),
      group < 4096 ∧ s.ecmpNamed group = false →
      s.acts (.ecmpDelete src group) src 0x040E = true →
      ∃ t, exec (.ecmpDelete src group) s = .next t ∧ t.cmd.opcode = 0x040E ∧ t.cmd.status = s.okStatus src 0x040E) ∧
  (∀ (src : CmdSrc) (aon prune : Bool) (mgid count : Nat) (s : State),
      mgid < 65536 ∧ count ≤ 256 ∧ s.fence.waiting = [] ∧ portsOnce ((List.range count).map fun i => (s.memStaged src).get i) = true →
      ((List.range count).all fun i => (s.memStaged src).has i && decide (((s.memStaged src).get i).port < 256 ∧ ((s.memStaged src).get
        i).vid ≤ 4094)) = true →
      (((List.range count).map fun i => (s.memStaged src).get i).any fun m => m.routed && decide (m.vid ≠ 0) && !(s.fwd.vlans.get
        m.vid).l3) = false →
      fits 8 count (s.takenBeside 8 (s.fwd.mcast.get mgid).locs) = true →
      s.acts (.mcastCommit src aon prune mgid count) src 0x040F = true →
      ∃ t, exec (.mcastCommit src aon prune mgid count) s = .next t ∧ t.cmd.opcode = 0x040F ∧ t.cmd.status = s.okStatus src 0x040F) ∧
  (∀ (src : CmdSrc) (table : Nat) (key : List Byte) (e : BitVec 32 × List Nat) (s : State),
      table < 4 ∧ (lookupKey table key).2 = true ∧ s.entryOf table (lookupKey table key).1 = some e →
      s.acts (.tableLookup src table key) src 0x0410 = true →
      ∃ t, exec (.tableLookup src table key) s = .next t ∧ t.cmd.opcode = 0x0410 ∧ t.cmd.status = s.okStatus src 0x0410) ∧
  (∀ (src : CmdSrc) (table location : Nat) (k : Nat) (s : State),
      table < 4 ∧ locationOk table location = true ∧ s.keyAt table location = some k ∧ s.isLost table location = false →
      s.acts (.tableReadIndex src table location) src 0x0411 = true →
      ∃ t, exec (.tableReadIndex src table location) s = .next t ∧ t.cmd.opcode = 0x0411 ∧ t.cmd.status = s.okStatus src 0x0411) ∧
  (∀ (src : CmdSrc) (table location : Nat) (s : State),
      table < 11 ∧ locationOk table location = true ∧ s.isLost table location = true →
      s.acts (.tableClearLost src table location) src 0x0412 = true →
      ∃ t, exec (.tableClearLost src table location) s = .next t ∧ t.cmd.opcode = 0x0412 ∧ t.cmd.status = s.okStatus src 0x0412) ∧
  (∀ (src : CmdSrc) (clear : Bool) (s : State),
      s.acts (.tableGetUsage src clear) src 0x0413 = true →
      ∃ t, exec (.tableGetUsage src clear) s = .next t ∧ t.cmd.opcode = 0x0413 ∧ t.cmd.status = s.okStatus src 0x0413)

/-- The core, contract, time, reference, TDC, gauge, stitch, pair and security commands complete. Where a command of one of these kinds,
from any source, reaches its own checks and acts at once, and its operands and the state meet what its rule asks, exec answers a next state
in which it has completed with its own status, or has begun what its rule says. One clause each for: classSetMap, bufferConfigureClass,
queueConfigure, portConfigureEgress, skeinConfigure, skeinGetStatus, coreGetQueue, bufferGetStatus, classSetKind, contractCheck,
contractSet, contractDelete, contractGet, guaranteedPoolSet, timeSet, timeStep, timeSetRate, timeSetControl, timeGet, timeSetUtc,
ptpConfigureInstance, ptpConfigurePort, ptpGetInstance, ptpGetPort, ptpConfigureTc, servoConfigure, servoGet, asymConfigure, asymGet,
refConfigureSlot, refConfigureSelection, refConfigureDpll, refCommand, refGetSlot, refGetDpll, refSteer, refConfigurePpsOut,
refConfigureClkout, refGetClkout, tdcConfigureEvt, tdcConfigureGroup, tdcSetInterval, tdcGetChannel, tdcGetLane, tdcSetLaneWindow,
tdcCaptureTap, gaugeConfigure, gaugeRun, gaugeFull, gaugeGetStatus, gaugeRestore, gaugeHold, mclkConfigureChannel, mclkConfigureOutput,
mclkGet, mclkSetOrbit, stitchConfigureBroadcast, stitchConfigureGroup, stitchConfigureTrigger, stitchConfigurePort, stitchSend,
stitchSendTimed, stitchCancelTimed, stitchGetPort, stitchGetSequencer, pairConfigure, pairConfigurePort, pairGetStatus, pairSwitchover,
pairResync, pairTest, pairGetDigest, pairGetDup, secSetStepGuard, secAuthoriseStep, secChallenge, secResponse, secClose, secDebugLock,
secRevokeKey, secSetMinVersion, secGetStatus, captureConfigure, counterClear, eventInject. (R448, R450) -/
def Obligations.CompletionsOfServiceCommands : Prop :=
  (∀ (src : CmdSrc) (kind map first count : Nat) (classes : List Nat) (s : State),
      kind < 2 ∧ map < 8 ∧ first < (if kind = 0 then 8 else 64) ∧ 1 ≤ count ∧ first + count ≤ (if kind = 0 then 8 else 64) ∧
        classes.length = count ∧ (classes.all fun c => decide (c < 8)) = true →
      s.acts (.classSetMap src kind map first count classes) src 0x0501 = true →
      ∃ t, exec (.classSetMap src kind map first count classes) s = .next t ∧ t.cmd.opcode = 0x0501 ∧ t.cmd.status = s.okStatus src
        0x0501) ∧
  (∀ (src : CmdSrc) (cls cl spillOn returnLow : Nat) (s : State),
      cls < 8 ∧ cl ≤ 524288 →
      (if cls < 4 then 16 ≤ spillOn ∧ spillOn ≤ 65536 ∧ 16 ≤ returnLow ∧ returnLow ≤ 65536 else spillOn = 0 ∧ returnLow = 0) →
      s.acts (.bufferConfigureClass src cls cl spillOn returnLow) src 0x0510 = true →
      ∃ t, exec (.bufferConfigureClass src cls cl spillOn returnLow) s = .next t ∧ t.cmd.opcode = 0x0510 ∧ t.cmd.status = s.okStatus src
        0x0510) ∧
  (∀ (src : CmdSrc) (port cls ql weight : Nat) (s : State),
      port < 256 ∧ cls < 8 ∧ 1 ≤ ql ∧ ql ≤ (if s.kindOf port cls = 1 then 134217728 else 524288) ∧ 1 ≤ weight ∧ weight ≤ 127 →
      (s.kindOf port cls = 1 → s.fuses.orderCode = .lc → ql ≤ 524288) →
      s.acts (.queueConfigure src port cls ql weight) src 0x0511 = true →
      ∃ t, exec (.queueConfigure src port cls ql weight) s = .next t ∧ t.cmd.opcode = 0x0511 ∧ t.cmd.status = s.okStatus src 0x0511) ∧
  (∀ (src : CmdSrc) (cut : Bool) (port limit : Nat) (s : State),
      port < 256 ∧ 16 ≤ limit ∧ limit ≤ 16384 →
      s.acts (.portConfigureEgress src cut port limit) src 0x0512 = true →
      ∃ t, exec (.portConfigureEgress src cut port limit) s = .next t ∧ t.cmd.opcode = 0x0512 ∧ t.cmd.status = s.okStatus src 0x0512) ∧
  (∀ (src : CmdSrc) (spill : Bool) (cls : Nat) (s : State),
      (cls < 4 ∧ s.fuses.orderCode ≠ .lc ∧ (spill = true → s.glob.pdOn.getLsbD 5 = true ∧ s.core.skein = .ready)) →
      s.acts (.skeinConfigure src spill cls) src 0x0513 = true →
      ∃ t, exec (.skeinConfigure src spill cls) s = .next t ∧ t.cmd.opcode = 0x0513 ∧ t.cmd.status = s.okStatus src 0x0513) ∧
  (∀ (src : CmdSrc) (clear : Bool) (s : State),
      s.fuses.orderCode ≠ .lc →
      s.acts (.skeinGetStatus src clear) src 0x0514 = true →
      ∃ t, exec (.skeinGetStatus src clear) s = .next t ∧ t.cmd.opcode = 0x0514 ∧ t.cmd.status = s.okStatus src 0x0514) ∧
  (∀ (src : CmdSrc) (clear : Bool) (port cls : Nat) (s : State),
      port < 256 ∧ cls < 8 →
      s.acts (.coreGetQueue src clear port cls) src 0x0515 = true →
      ∃ t, exec (.coreGetQueue src clear port cls) s = .next t ∧ t.cmd.opcode = 0x0515 ∧ t.cmd.status = s.okStatus src 0x0515) ∧
  (∀ (src : CmdSrc) (s : State),
      s.acts (.bufferGetStatus src) src 0x0516 = true →
      ∃ t, exec (.bufferGetStatus src) s = .next t ∧ t.cmd.opcode = 0x0516 ∧ t.cmd.status = s.okStatus src 0x0516) ∧
  (∀ (src : CmdSrc) (port cls kind : Nat) (s : State),
      port < 256 ∧ cls < 4 ∧ kind < 2 →
      s.acts (.classSetKind src port cls kind) src 0x0520 = true →
      ∃ t, exec (.classSetKind src port cls kind) s = .next t ∧ t.cmd.opcode = 0x0520 ∧ t.cmd.status = s.okStatus src 0x0520) ∧
  (∀ (src : CmdSrc) (replace : Bool) (port cls lMax rate burst fmax : Nat) (mask : BitVec 256) (x : Contract) (s : State),
      (contractRanges port cls lMax rate burst fmax mask).all id = true ∧ x = s.newContract (contractKey port cls) lMax rate burst fmax
        mask →
      s.acts (.contractCheck src replace port cls lMax rate burst fmax mask) src 0x0523 = true →
      ∃ t, exec (.contractCheck src replace port cls lMax rate burst fmax mask) s = .next t ∧ t.cmd.opcode = 0x0523 ∧ t.cmd.status =
        (match s.infeasible (s.contracts.table.set (contractKey port cls) x) (contractKey port cls) x with | some _ => stInfeasible | none => s.okStatus src 0x0523))
        ∧
  (∀ (src : CmdSrc) (replace : Bool) (port cls lMax rate burst fmax : Nat) (mask : BitVec 256) (x : Contract) (s : State),
      (contractRanges port cls lMax rate burst fmax mask).all id = true ∧ x = s.newContract (contractKey port cls) lMax rate burst fmax
        mask →
      (s.contracts.table.has (contractKey port cls) = true → replace = true ∧ (s.contracts.table.get (contractKey port cls)).state ≠
        .draining) →
      s.acts (.contractSet src replace port cls lMax rate burst fmax mask) src 0x0521 = true →
      ∃ t, exec (.contractSet src replace port cls lMax rate burst fmax mask) s = .next t ∧ t.cmd.opcode = 0x0521 ∧ t.cmd.status =
        (match s.infeasible (s.contracts.table.set (contractKey port cls) x) (contractKey port cls) x with | some _ => stInfeasible | none => s.okStatus src 0x0521))
        ∧
  (∀ (src : CmdSrc) (port cls : Nat) (s : State),
      port < 256 ∧ 4 ≤ cls ∧ cls < 8 ∧ s.contracts.table.has (contractKey port cls) = true ∧ (s.contracts.table.get (contractKey port
        cls)).state ≠ .draining →
      s.acts (.contractDelete src port cls) src 0x0522 = true →
      ∃ t, exec (.contractDelete src port cls) s = .next t ∧ t.cmd.opcode = 0x0522 ∧ t.cmd.status = s.okStatus src 0x0522) ∧
  (∀ (src : CmdSrc) (clear : Bool) (port cls : Nat) (x : Contract) (s : State),
      port < 256 ∧ 4 ≤ cls ∧ cls < 8 ∧ s.contracts.table.find (contractKey port cls) = some x →
      s.acts (.contractGet src clear port cls) src 0x0524 = true →
      ∃ t, exec (.contractGet src clear port cls) s = .next t ∧ t.cmd.opcode = 0x0524 ∧ t.cmd.status = s.okStatus src 0x0524) ∧
  (∀ (src : CmdSrc) (size : Nat) (s : State),
      size ≤ 262144 ∧ resSum s.contracts.table ≤ size ∧ size ≤ s.core.gpSize + s.sharedFree →
      s.acts (.guaranteedPoolSet src size) src 0x0525 = true →
      ∃ t, exec (.guaranteedPoolSet src size) s = .next t ∧ t.cmd.opcode = 0x0525 ∧ t.cmd.status = s.okStatus src 0x0525) ∧
  (∀ (src : CmdSrc) (target : KTime) (s : State),
      target.sec < 2 ^ 64 ∧ target.ns < 1000000000 ∧ target.sub < 65536 ∧ s.hostControls = true →
      s.acts (.timeSet src target) src 0x0601 = true →
      ∃ t, exec (.timeSet src target) s = .next t ∧ t.time =
        { s.time with changes := s.time.changes ++ [{ kind := .set, a := KTime.units target, b := 0, c := 0, src := src, own := false, due := s.tick + 1024 }] })
        ∧
  (∀ (src : CmdSrc) (ns : Int) (sub : Nat) (s : State),
      (ns * 65536 + sub).natAbs ≤ 10 ^ 18 * 65536 ∧ sub < 65536 ∧ s.hostControls = true →
      s.acts (.timeStep src ns sub) src 0x0602 = true →
      ∃ t, exec (.timeStep src ns sub) s = .next t ∧ t.time =
        { s.time with changes := s.time.changes ++ [{ kind := .step, a := ns * 65536 + sub, b := 0, c := 0, src := src, own := false, due := s.tick + 1024 }] })
        ∧
  (∀ (src : CmdSrc) (rate : Int) (s : State),
      rate.natAbs ≤ 28147497671 ∧ s.hostControls = true →
      s.acts (.timeSetRate src rate) src 0x0603 = true →
      ∃ t, exec (.timeSetRate src rate) s = .next t ∧ t.time =
        { s.time with changes := s.time.changes ++ [{ kind := .rate, a := rate, b := 0, c := 0, src := src, own := false, due := s.tick + 1024 }] })
        ∧
  (∀ (src : CmdSrc) (control : Nat) (s : State),
      (control < 2 ∧ (s.time.control = 2 → fromJournal src = true)) →
      s.acts (.timeSetControl src control) src 0x0604 = true →
      ∃ t, exec (.timeSetControl src control) s = .next t ∧ t.time =
        { s.time with changes := s.time.changes ++ [{ kind := .control, a := control, b := 0, c := 0, src := src, own := false, due := s.tick + 1024 }] })
        ∧
  (∀ (src : CmdSrc) (s : State),
      s.acts (.timeGet src) src 0x0605 = true →
      ∃ t, exec (.timeGet src) s = .next t ∧ t.time = { s.time with getWait := s.time.getWait ++ [src] }) ∧
  (∀ (src : CmdSrc) (leap61 leap59 : Bool) (offset : Nat) (s : State),
      (leap61 && leap59) = false ∧ offset < 256 →
      s.acts (.timeSetUtc src leap61 leap59 offset) src 0x0606 = true →
      ∃ t, exec (.timeSetUtc src leap61 leap59 offset) s = .next t ∧ t.time =
        { s.time with changes := s.time.changes ++ [{ kind := .utc, a := offset, b := flag leap61 1, c := flag leap59 1, src := src, own := false, due := s.tick + 1024 }] })
        ∧
  (∀ (src : CmdSrc) (enable slaveOnly : Bool) (inst profile domain : Nat) (identity : List Byte) (prio1 prio2 localPrio : Nat) (s :
    State),
      inst < 4 ∧ profile < 4 ∧ (if profile = 3 then 24 ≤ domain ∧ domain ≤ 43 else domain ≤ 127) ∧ ofBe identity ≠ 0 ∧ ofBe identity ≠ 2 ^
        64 - 1 →
      prio1 ≤ 255 ∧ (if profile = 3 then prio2 = 128 ∧ 1 ≤ localPrio ∧ localPrio ≤ 255 else prio2 ≤ 255 ∧ localPrio = 0) →
      ((s.instAhead inst).1 = true → (s.instAhead inst).2.1 = profile ∧ (s.instAhead inst).2.2 = domain) →
      s.acts (.ptpConfigureInstance src enable slaveOnly inst profile domain identity prio1 prio2 localPrio) src 0x0610 = true →
      ∃ t, exec (.ptpConfigureInstance src enable slaveOnly inst profile domain identity prio1 prio2 localPrio) s = .next t ∧ t.cmd.opcode
        = 0x0610 ∧ t.cmd.status = s.okStatus src 0x0610) ∧
  (∀ (src : CmdSrc) (masterOnly : Bool) (port inst transport dest addr : Nat) (logSync logDelay logAnnounce : Int) (annTimeout syncTimeout
    delayTimeout twoStep localPrio coastLimit maxPath delayOutlier offsetOutlier filterLen : Nat) (s : State),
      (port < 256 ∧ inst < 6 ∧ transport < 3 ∧ (inst < 4 ∧ (s.instAhead inst).2.1 = 3 → transport = 0) ∧ dest < 2) →
      (if dest = 0 then addr = 0 else transport ≠ 0 ∧ addr ≠ 0 ∧ (if transport = 1 then addr < 2 ^ 32 else addr < 2 ^ 128)) →
      -7 ≤ logSync ∧ logSync ≤ 1 ∧ s.messageRate port inst logSync logDelay logAnnounce ≤ 65536 * 32 ∧ -7 ≤ logDelay ∧ logDelay ≤ 5 ∧ -3 ≤
        logAnnounce ∧ logAnnounce ≤ 4 →
      2 ≤ annTimeout ∧ annTimeout ≤ 255 ∧ 2 ≤ syncTimeout ∧ syncTimeout ≤ 255 ∧ 1 ≤ delayTimeout ∧ delayTimeout ≤ 255 ∧ twoStep < 2 ∧ 1 ≤
        localPrio ∧ localPrio ≤ 255 →
      secU ≤ coastLimit ∧ coastLimit ≤ 600 * secU ∧ usU ≤ maxPath ∧ maxPath ≤ 100 * msU ∧ 6554 ≤ delayOutlier ∧ delayOutlier ≤ 100 * usU ∧
        nsU ≤ offsetOutlier ∧ offsetOutlier ≤ secU ∧ 1 ≤ filterLen ∧ filterLen ≤ 256 →
      ((s.ports.get port).configured && (s.ports.get port).isSelvedge) = false ∧ (5 ≤ (s.portAhead port).1 ∨ 5 ≤ inst ∨ (s.portAhead
        port).1 = inst) →
      s.acts (.ptpConfigurePort src masterOnly port inst transport dest addr logSync logDelay logAnnounce annTimeout syncTimeout
        delayTimeout twoStep localPrio coastLimit maxPath delayOutlier offsetOutlier filterLen) src 0x0611 = true →
      ∃ t, exec (.ptpConfigurePort src masterOnly port inst transport dest addr logSync logDelay logAnnounce annTimeout syncTimeout
        delayTimeout twoStep localPrio coastLimit maxPath delayOutlier offsetOutlier filterLen) s = .next t ∧ t.cmd.opcode = 0x0611 ∧
        t.cmd.status = s.okStatus src 0x0611) ∧
  (∀ (src : CmdSrc) (inst : Nat) (s : State),
      inst < 4 →
      s.acts (.ptpGetInstance src inst) src 0x0612 = true →
      ∃ t, exec (.ptpGetInstance src inst) s = .next t ∧ t.cmd.opcode = 0x0612 ∧ t.cmd.status = s.okStatus src 0x0612) ∧
  (∀ (src : CmdSrc) (clear : Bool) (port : Nat) (s : State),
      port < 256 →
      s.acts (.ptpGetPort src clear port) src 0x0613 = true →
      ∃ t, exec (.ptpGetPort src clear port) s = .next t ∧ t.cmd.opcode = 0x0613 ∧ t.cmd.status = s.okStatus src 0x0613) ∧
  (∀ (src : CmdSrc) (mode : Nat) (domains : BitVec 256) (s : State),
      mode < 3 →
      s.acts (.ptpConfigureTc src mode domains) src 0x0614 = true →
      ∃ t, exec (.ptpConfigureTc src mode domains) s = .next t ∧ t.cmd.opcode = 0x0614 ∧ t.cmd.status = s.okStatus src 0x0614) ∧
  (∀ (src : CmdSrc) (mode slot bandwidth : Nat) (maxSlew : Int) (stepThr lockThr : Nat) (ppsOffset : Int) (s : State),
      mode < 2 ∧ (if mode = 1 then 8 ≤ slot ∧ slot ≤ 30 else slot = 0) ∧ 1 ≤ bandwidth ∧ bandwidth ≤ 1000 ∧ 256 ≤ maxSlew ∧ maxSlew ≤
        100000 * 256 →
      (stepThr = 0 ∨ nsU ≤ stepThr ∧ stepThr ≤ secU) ∧ 656 ≤ lockThr ∧ lockThr ≤ 65536000000 ∧ ppsOffset.natAbs ≤ 500 * msU →
      s.acts (.servoConfigure src mode slot bandwidth maxSlew stepThr lockThr ppsOffset) src 0x0618 = true →
      ∃ t, exec (.servoConfigure src mode slot bandwidth maxSlew stepThr lockThr ppsOffset) s = .next t ∧ t.cmd.opcode = 0x0618 ∧
        t.cmd.status = s.okStatus src 0x0618) ∧
  (∀ (src : CmdSrc) (s : State),
      s.acts (.servoGet src) src 0x0619 = true →
      ∃ t, exec (.servoGet src) s = .next t ∧ t.cmd.opcode = 0x0619 ∧ t.cmd.status = s.okStatus src 0x0619) ∧
  (∀ (src : CmdSrc) (port mode : Nat) (c alpha : Int) (partner lambdaOut lambdaIn : Nat) (k : Int) (avg qLimit coast agree : Nat) (s :
    State),
      port < 256 ∧ mode = 0 ∧ c.natAbs ≤ 100 * nsU ∧ -(2 ^ 31) ≤ alpha ∧ alpha < 2 ^ 31 ∧ 66 ≤ agree ∧ agree ≤ 100 * nsU →
      partner = 0 ∧ lambdaOut = 0 ∧ lambdaIn = 0 ∧ k = 0 ∧ avg = 0 ∧ qLimit = 0 ∧ coast = 0 →
      s.acts (.asymConfigure src port mode c alpha partner lambdaOut lambdaIn k avg qLimit coast agree) src 0x0620 = true →
      ∃ t, exec (.asymConfigure src port mode c alpha partner lambdaOut lambdaIn k avg qLimit coast agree) s = .next t ∧ t.cmd.opcode =
        0x0620 ∧ t.cmd.status = s.okStatus src 0x0620) ∧
  (∀ (src : CmdSrc) (port : Nat) (s : State),
      port < 256 →
      s.acts (.asymGet src port) src 0x0621 = true →
      ∃ t, exec (.asymGet src port) s = .next t ∧ t.cmd.opcode = 0x0621 ∧ t.cmd.status = s.okStatus src 0x0621) ∧
  (∀ (src : CmdSrc) (enable override esmc : Bool) (slot fNum fDen div edge source prio level : Nat) (acceptLim rejectLim : Int)
    (rejectHold acceptHold hitLim hitBudget coastLim : Nat) (s : State),
      slot < 31 ∧ (slotSourceOk slot fNum fDen div edge source).all id = true ∧ 1 ≤ prio ∧ prio ≤ 255 ∧ level < 16 →
      ((slot = 28 ∨ slot = 29 ∨ slot = 30) → fNum = 0 ∧ fDen = 0 ∧ div = 0 ∧ edge = 0 ∧ source = 0) →
      256 ≤ acceptLim ∧ acceptLim ≤ 49999 * 256 ∧ acceptLim < rejectLim ∧ 512 ≤ rejectLim ∧ rejectLim ≤ 50000 * 256 ∧ msU ≤ rejectHold ∧
        rejectHold ≤ 10 * secU →
      secU ≤ acceptHold ∧ acceptHold ≤ 3600 * secU ∧ 6554 ≤ hitLim ∧ hitLim ≤ 1000 * nsU ∧ 1 ≤ hitBudget ∧ hitBudget ≤ 255 ∧ secU ≤
        coastLim ∧ coastLim ≤ 600 * secU →
      (esmc = true → 8 ≤ slot ∧ slot < 24 ∧ (s.ports.get source).isSelvedge = false) →
      (8 ≤ slot ∧ slot < 24 → (s.ports.get source).width = 1 ∧ (enable = true → s.portUp source = true)) →
      s.ref.selected ≠ some slot →
      s.acts (.refConfigureSlot src enable override esmc slot fNum fDen div edge source prio level acceptLim rejectLim rejectHold
        acceptHold hitLim hitBudget coastLim) src 0x0701 = true →
      ∃ t, exec (.refConfigureSlot src enable override esmc slot fNum fDen div edge source prio level acceptLim rejectLim rejectHold
        acceptHold hitLim hitBudget coastLim) s = .next t ∧ t.cmd.opcode = 0x0701 ∧ t.cmd.status = s.okStatus src 0x0701) ∧
  (∀ (src : CmdSrc) (qlMode revert wtr : Nat) (tieLimit : Int) (tieHold freeLevel avgTime guardTime inSpec : Nat) (s : State),
      qlMode < 2 ∧ revert < 2 ∧ wtr ≤ 720 * secU ∧ 26 ≤ tieLimit ∧ tieLimit ≤ 10000 * 256 ∧ 100 * msU ≤ tieHold ∧ tieHold ≤ 60 * secU ∧ 3
        ≤ freeLevel ∧ freeLevel ≤ 14 →
      secU ≤ avgTime ∧ avgTime ≤ 10000 * secU ∧ guardTime ≤ 600 * secU ∧ inSpec ≤ 86400 * secU →
      s.acts (.refConfigureSelection src qlMode revert wtr tieLimit tieHold freeLevel avgTime guardTime inSpec) src 0x0702 = true →
      ∃ t, exec (.refConfigureSelection src qlMode revert wtr tieLimit tieHold freeLevel avgTime guardTime inSpec) s = .next t ∧
        t.cmd.opcode = 0x0702 ∧ t.cmd.status = s.okStatus src 0x0702) ∧
  (∀ (src : CmdSrc) (trackBw acqBw : Nat) (slope : Int) (lockThr lossThr : Nat) (s : State),
      1 ≤ trackBw ∧ trackBw ≤ acqBw ∧ acqBw ≤ 100000 ∧ 256 ≤ slope ∧ slope ≤ 10000 * 256 ∧ 656 ≤ lockThr ∧ lockThr ≤ 1000 * nsU ∧ nsU ≤
        lossThr ∧ lossThr ≤ 100000 * nsU ∧ lockThr < lossThr →
      s.acts (.refConfigureDpll src trackBw acqBw slope lockThr lossThr) src 0x0703 = true →
      ∃ t, exec (.refConfigureDpll src trackBw acqBw slope lockThr lossThr) s = .next t ∧ t.cmd.opcode = 0x0703 ∧ t.cmd.status =
        s.okStatus src 0x0703) ∧
  (∀ (src : CmdSrc) (slot action : Nat) (s : State),
      slot < 31 ∧ action < 4 ∧ (s.ref.slots.get slot).state ≠ .disabled →
      s.acts (.refCommand src slot action) src 0x0704 = true →
      ∃ t, exec (.refCommand src slot action) s = .next t ∧ t.cmd.opcode = 0x0704 ∧ t.cmd.status = s.okStatus src 0x0704) ∧
  (∀ (src : CmdSrc) (slot : Nat) (y : RefSlot) (s : State),
      slot < 31 ∧ y = s.ref.slots.get slot →
      s.acts (.refGetSlot src slot) src 0x0705 = true →
      ∃ t, exec (.refGetSlot src slot) s = .next t ∧ t.cmd.opcode = 0x0705 ∧ t.cmd.status = s.okStatus src 0x0705) ∧
  (∀ (src : CmdSrc) (s : State),
      s.acts (.refGetDpll src) src 0x0706 = true →
      ∃ t, exec (.refGetDpll src) s = .next t ∧ t.cmd.opcode = 0x0706 ∧ t.cmd.status = s.okStatus src 0x0706) ∧
  (∀ (src : CmdSrc) (action : Nat) (value : Int) (timeout level : Nat) (s : State),
      (action = 0 ∧ value = 0 ∧ 10 * msU ≤ timeout ∧ timeout ≤ 60 * secU ∧ 3 ≤ level ∧ level ≤ 14 ∧ (s.ref.state = .holdover →
        s.ref.xoLoss = false)) →
      s.acts (.refSteer src action value timeout level) src 0x0707 = true →
      ∃ t, exec (.refSteer src action value timeout level) s = .next t ∧ t.cmd.opcode = 0x0707 ∧ t.cmd.status = s.okStatus src 0x0707) ∧
  (∀ (src : CmdSrc) (enable : Bool) (output : Nat) (offset : Int) (width slew squelch : Nat) (s : State),
      output < 2 ∧ offset.natAbs ≤ 500 * msU ∧ usU ≤ width ∧ width ≤ 500 * msU ∧ 6554 ≤ slew ∧ slew ≤ 10 * usU ∧ squelch < 16 →
      s.acts (.refConfigurePpsOut src enable output offset width slew squelch) src 0x0708 = true →
      ∃ t, exec (.refConfigurePpsOut src enable output offset width slew squelch) s = .next t ∧ t.cmd.opcode = 0x0708 ∧ t.cmd.status =
        s.okStatus src 0x0708) ∧
  (∀ (src : CmdSrc) (enable : Bool) (output fNum fDen mode : Nat) (offset : Int) (slew swing squelch : Nat) (s : State),
      output < 4 ∧ 1000000 ≤ fNum ∧ fNum ≤ 750000000 ∧ 1 ≤ fDen ∧ fDen ≤ 65535 ∧ 1000000 * fDen ≤ fNum ∧ mode < 2 ∧ swing < 3 ∧ squelch <
        16 →
      (if mode = 1 then fDen = 1 ∧ offset.natAbs ≤ 500 * msU ∧ 6554 ≤ slew ∧ slew ≤ 10 * usU else offset = 0 ∧ slew = 0) →
      s.acts (.refConfigureClkout src enable output fNum fDen mode offset slew swing squelch) src 0x0709 = true →
      ∃ t, exec (.refConfigureClkout src enable output fNum fDen mode offset slew swing squelch) s = .next t ∧ t.cmd.opcode = 0x0709 ∧
        t.cmd.status = s.okStatus src 0x0709) ∧
  (∀ (src : CmdSrc) (output : Nat) (y : ClkOut) (s : State),
      output < 4 ∧ y = s.ref.clk.get output →
      s.acts (.refGetClkout src output) src 0x070A = true →
      ∃ t, exec (.refGetClkout src output) s = .next t ∧ t.cmd.opcode = 0x070A ∧ t.cmd.status = s.okStatus src 0x070A) ∧
  (∀ (src : CmdSrc) (enable regression : Bool) (channel edge hyst holdoff prescaler ring : Nat) (offset : Int) (rateLimit silence : Nat)
    (y : TdcChan) (s : State),
      280 ≤ channel ∧ channel < 312 ∧ (edge < 2 ∨ edge = 2 ∧ prescaler ≤ 1 ∧ regression = false) ∧ hyst < 4 ∧ holdoff < 16 ∧ 1 ≤ prescaler
        ∧ prescaler ≤ 65536 ∧ ring ≤ 8 →
      -(100 * nsU : Int) ≤ offset ∧ offset ≤ 100 * nsU ∧ rateLimit ≤ 312 ∧ (silence = 0 ∨ usU ≤ silence ∧ silence ≤ 100 * secU) →
      (((s.tdc.groups.get (groupOf channel)).open_ = true → (s.tdc.chans.get channel).sameSettings y = true ∧ (enable = true →
        (s.tdc.chans.get channel).enable = true)) ∧ ((s.tdc.chans.get channel).enable = true → enable = true)) →
      y =
        { s.tdc.chans.get channel with enable := enable, edge := edge, hyst := hyst, holdoff := holdoff, prescaler := prescaler, ring := if ring < 8 then some ring else none, regression := regression, offset := offset, rateLimit := rateLimit, silence := silence }
        →
      s.acts (.tdcConfigureEvt src enable regression channel edge hyst holdoff prescaler ring offset rateLimit silence) src 0x0801 = true
        →
      ∃ t, exec (.tdcConfigureEvt src enable regression channel edge hyst holdoff prescaler ring offset rateLimit silence) s = .next t ∧
        t.cmd.opcode = 0x0801 ∧ t.cmd.status = s.okStatus src 0x0801) ∧
  (∀ (src : CmdSrc) (group mode level pulse maxLen : Nat) (s : State),
      group < 4 ∧ mode < 3 ∧ level < 2 ∧ usU ≤ pulse ∧ pulse ≤ 1000 * secU ∧ usU ≤ maxLen ∧ maxLen ≤ 1000 * secU ∧ (s.tdc.groups.get
        group).open_ = false →
      s.acts (.tdcConfigureGroup src group mode level pulse maxLen) src 0x0802 = true →
      ∃ t, exec (.tdcConfigureGroup src group mode level pulse maxLen) s = .next t ∧ t.cmd.opcode = 0x0802 ∧ t.cmd.status = s.okStatus src
        0x0802) ∧
  (∀ (src : CmdSrc) (enable : Bool) (engine start stop window ring : Nat) (s : State),
      engine < 32 ∧ intervalChan start = true ∧ intervalChan stop = true ∧ start ≠ stop ∧ 1 ≤ (gridCycles window).getD 0 ∧ (gridCycles
        window).getD 0 ≤ 1250000 ∧ ring < 8 →
      (s.tdc.intervals.get engine).enable = false →
      s.acts (.tdcSetInterval src enable engine start stop window ring) src 0x0803 = true →
      ∃ t, exec (.tdcSetInterval src enable engine start stop window ring) s = .next t ∧ t.cmd.opcode = 0x0803 ∧ t.cmd.status = s.okStatus
        src 0x0803) ∧
  (∀ (src : CmdSrc) (clear : Bool) (channel : Nat) (y : TdcChan) (s : State),
      channel < 320 ∧ y = s.tdc.chans.get channel →
      s.acts (.tdcGetChannel src clear channel) src 0x0804 = true →
      ∃ t, exec (.tdcGetChannel src clear channel) s = .next t ∧ t.cmd.opcode = 0x0804 ∧ t.cmd.status = s.okStatus src 0x0804) ∧
  (∀ (src : CmdSrc) (lane : Nat) (y : TdcChan) (s : State),
      lane < 264 ∧ y = s.tdc.chans.get lane →
      s.acts (.tdcGetLane src lane) src 0x0805 = true →
      ∃ t, exec (.tdcGetLane src lane) s = .next t ∧ t.cmd.opcode = 0x0805 ∧ t.cmd.status = s.okStatus src 0x0805) ∧
  (∀ (src : CmdSrc) (w : Nat) (s : State),
      w < 8 →
      s.acts (.tdcSetLaneWindow src w) src 0x0806 = true →
      ∃ t, exec (.tdcSetLaneWindow src w) s = .next t ∧ t.cmd.opcode = 0x0806 ∧ t.cmd.status = s.okStatus src 0x0806) ∧
  (∀ (src : CmdSrc) (lane action ring d : Nat) (s : State),
      lane < 264 ∧ action = 0 ∧ ring < 8 ∧ 1 ≤ d ∧ d ≤ 65536 →
      (s.tdc.chans.filter fun q => q.2.capturing).length < 8 →
      s.acts (.tdcCaptureTap src lane action ring d) src 0x0807 = true →
      ∃ t, exec (.tdcCaptureTap src lane action ring d) s = .next t ∧ t.cmd.opcode = 0x0807 ∧ t.cmd.status = s.okStatus src 0x0807) ∧
  (∀ (src : CmdSrc) (trigger : Int) (minInterval target runTimeout retry periodic source18 source19 : Nat) (s : State),
      4 ≤ trigger ∧ trigger ≤ 160 ∧ trigger % 4 = 0 ∧ secU ≤ minInterval ∧ minInterval ≤ 3600 * secU ∧ 20 ≤ target ∧ target ≤ 24 ∧ secU /
        10 ≤ runTimeout ∧ runTimeout ≤ 100 * secU →
      secU ≤ retry ∧ retry ≤ 3600 * secU ∧ (periodic = 0 ∨ secU ≤ periodic ∧ periodic ≤ 86400 * secU) ∧ source18 < 2 ∧ source19 < 2 →
      ((s.gauge.regions.get 18).state = .running → s.gauge.scatter18 = decide (source18 = 1)) →
      ((s.gauge.regions.get 19).state = .running → s.gauge.scatter19 = decide (source19 = 1)) →
      s.acts (.gaugeConfigure src trigger minInterval target runTimeout retry periodic source18 source19) src 0x0810 = true →
      ∃ t, exec (.gaugeConfigure src trigger minInterval target runTimeout retry periodic source18 source19) s = .next t ∧ t.cmd.opcode =
        0x0810 ∧ t.cmd.status = s.okStatus src 0x0810) ∧
  (∀ (src : CmdSrc) (region : Nat) (rs : List Nat) (s : State),
      (region < 21 ∧ rs = [region] ∨ region = 0xFFFF ∧ rs = List.range 21) →
      (rs.any fun n => decide ((s.gauge.regions.get n).state = .off ∨ (s.gauge.regions.get n).state = .full)) = false →
      s.acts (.gaugeRun src region) src 0x0811 = true →
      ∃ t, exec (.gaugeRun src region) s = .next t ∧ t.cmd.opcode = 0x0811 ∧ t.cmd.status = s.okStatus src 0x0811) ∧
  (∀ (src : CmdSrc) (force : Bool) (region : Nat) (s : State),
      region < 21 ∧ (s.gauge.regions.get region).state = .full →
      s.acts (.gaugeFull src force region) src 0x0812 = true →
      ∃ t, exec (.gaugeFull src force region) s = .next t ∧ t.cmd.opcode = 0x0812 ∧ t.cmd.status = s.okStatus src 0x0812) ∧
  (∀ (src : CmdSrc) (region : Nat) (y : GRegion) (n : Nat) (s : State),
      n = (if (y.state = .running && s.injects region) then Config.freeNat s.free % ((regionChans region).length * 2 ^ s.gauge.target + 1)
        else (regionChans region).foldl (fun a n => a + ((s.gauge.chans.get n).hist.foldl (fun b q => b + q.2) 0)) 0) →
      region < 21 ∧ y = s.gauge.regions.get region →
      s.acts (.gaugeGetStatus src region) src 0x0813 = true →
      ∃ t, exec (.gaugeGetStatus src region) s = .next t ∧ t.cmd.opcode = 0x0813 ∧ t.cmd.status = s.okStatus src 0x0813) ∧
  (∀ (src : CmdSrc) (force : Bool) (region mode : Nat) (s : State),
      region < 21 ∧ mode = 0 ∧ ((regionChans region).all fun n => (s.gauge.chans.get n).stagedOk) = true →
      (s.gauge.regions.get region).state = .idle ∨ (s.gauge.regions.get region).state = .pending →
      ((regionChans region).any fun n => decide ((s.gauge.chans.get n).stSel ≠ (s.gauge.chans.get n).cellSel ∨ (s.gauge.chans.get
        n).stTrim ≠ (s.gauge.chans.get n).trim ∨ (s.gauge.chans.get n).stDll ≠ (s.gauge.chans.get n).dllCode)) = false →
      ((List.range 21).any fun n => decide (n ≠ region ∧ (s.gauge.regions.get n).state = .full)) = false →
      s.acts (.gaugeRestore src force region mode) src 0x0814 = true →
      ∃ t, exec (.gaugeRestore src force region mode) s = .next t ∧ t.cmd.opcode = 0x0814 ∧ t.cmd.status = s.okStatus src 0x0814) ∧
  (∀ (src : CmdSrc) (duration : Nat) (s : State),
      duration = 0 ∨ secU ≤ duration ∧ duration ≤ 86400 * secU →
      s.acts (.gaugeHold src duration) src 0x0815 = true →
      ∃ t, exec (.gaugeHold src duration) s = .next t ∧ t.cmd.opcode = 0x0815 ∧ t.cmd.status = s.okStatus src 0x0815) ∧
  (∀ (src : CmdSrc) (enable : Bool) (chan source sourceIdx selector fNum fDen : Nat) (freqLim : Int) (hitLim actLim coastLim bandwidth
    orbitLen marker markerIdx : Nat) (markOffset : Int) (frameLen : Nat) (y : McChan) (s : State),
      chan < 4 ∧ source < 3 ∧ 1 ≤ fNum ∧ fNum ≤ 400000000 ∧ 1 ≤ fDen ∧ fDen ≤ 65535 ∧ 25600 ≤ freqLim ∧ freqLim ≤ 2560000000 ∧ 66 ≤ hitLim
        ∧ hitLim ≤ 10 * nsU →
      ((source = 0 → 280 ≤ sourceIdx ∧ sourceIdx < 312) ∧ (source = 1 → sourceIdx < 8) ∧ (source = 2 → sourceIdx < 256) ∧ (if source = 2
        then selector < 4 else selector = 0)) →
      usU ≤ actLim ∧ actLim ≤ secU ∧ msU ≤ coastLim ∧ coastLim ≤ 3600 * secU ∧ 1 ≤ bandwidth ∧ bandwidth ≤ 50000 ∧ (orbitLen = 0 ∨ 2 ≤
        orbitLen ∧ orbitLen ≤ 4095) →
      (marker < 4 ∧ (marker = 2 → source = 2) ∧ (marker = 0 → 280 ≤ markerIdx ∧ markerIdx < 312) ∧ (marker = 1 → markerIdx < 8) ∧ (2 ≤
        marker → markerIdx = 0)) →
      ((if marker = 3 then markOffset = 0 else markOffset.natAbs ≤ usU) ∧ 1 ≤ frameLen ∧ frameLen ≤ 1048576 ∧ (enable = true →
        s.mcSourceMet source sourceIdx = true)) →
      ((s.stitch.mc.get chan).enable = true → (s.stitch.mc.get chan).srcKind = source ∧ (s.stitch.mc.get chan).srcIdx = sourceIdx ∧
        (s.stitch.mc.get chan).srcSel = selector) →
      y =
        { s.stitch.mc.get chan with srcKind := source, srcIdx := sourceIdx, srcSel := selector, fNum := fNum, fDen := fDen, freqLim := freqLim.toNat, hitLim := hitLim, actLim := actLim, coastLim := coastLim, bw := bandwidth, orbitLen := orbitLen, markSrc := marker, markIdx := markerIdx, markOffset := markOffset, frameLen := frameLen }
        →
      s.acts (.mclkConfigureChannel src enable chan source sourceIdx selector fNum fDen freqLim hitLim actLim coastLim bandwidth orbitLen
        marker markerIdx markOffset frameLen) src 0x0901 = true →
      ∃ t, exec (.mclkConfigureChannel src enable chan source sourceIdx selector fNum fDen freqLim hitLim actLim coastLim bandwidth
        orbitLen marker markerIdx markOffset frameLen) s = .next t ∧ t.cmd.opcode = 0x0901 ∧ t.cmd.status = s.okStatus src 0x0901) ∧
  (∀ (src : CmdSrc) (squelch : Bool) (output chan mode m d : Nat) (offset slewLim : Int) (w swing : Nat) (s : State),
      output < 4 ∧ chan < 4 ∧ mode = 0 ∧ m = 0 ∧ d = 0 ∧ offset = 0 ∧ slewLim = 0 ∧ w = 0 ∧ swing < 3 →
      s.acts (.mclkConfigureOutput src squelch output chan mode m d offset slewLim w swing) src 0x0902 = true →
      ∃ t, exec (.mclkConfigureOutput src squelch output chan mode m d offset slewLim w swing) s = .next t ∧ t.cmd.opcode = 0x0902 ∧
        t.cmd.status = s.okStatus src 0x0902) ∧
  (∀ (src : CmdSrc) (chan : Nat) (y : McChan) (s : State),
      chan < 4 ∧ y = s.stitch.mc.get chan →
      s.acts (.mclkGet src chan) src 0x0903 = true →
      ∃ t, exec (.mclkGet src chan) s = .next t ∧ t.cmd.opcode = 0x0903 ∧ t.cmd.status = s.okStatus src 0x0903) ∧
  (∀ (src : CmdSrc) (given : Bool) (chan : Nat) (t : KTime) (bunch orbit : Nat) (s : State),
      chan < 4 ∧ t.ns < 1000000000 ∧ t.sub = 0 ∧ s.ktime < KTime.units t ∧ (s.stitch.mc.get chan).orbitLen ≠ 0 ∧ bunch < (s.stitch.mc.get
        chan).orbitLen →
      (given = false → orbit = 0) →
      s.acts (.mclkSetOrbit src given chan t bunch orbit) src 0x0904 = true →
      ∃ u, exec (.mclkSetOrbit src given chan t bunch orbit) s = .next u ∧ u.cmd.opcode = 0x0904 ∧ u.cmd.status = s.okStatus src 0x0904) ∧
  (∀ (src : CmdSrc) (chan phaseTarget setInterval bcnTarget bcnInterval : Nat) (s : State),
      chan < 4 ∧ phaseTarget < 0x1000 ∧ (setInterval = 0 ∨ 10 * usU ≤ setInterval ∧ setInterval ≤ 100 * msU) ∧ bcnTarget < 0x1000 ∧
        bcnInterval ≤ 65536 →
      bcnInterval = 0 ∨ (s.stitch.mc.get chan).orbitLen ≠ 0 →
      s.acts (.stitchConfigureBroadcast src chan phaseTarget setInterval bcnTarget bcnInterval) src 0x0907 = true →
      ∃ t, exec (.stitchConfigureBroadcast src chan phaseTarget setInterval bcnTarget bcnInterval) s = .next t ∧ t.cmd.opcode = 0x0907 ∧
        t.cmd.status = s.okStatus src 0x0907) ∧
  (∀ (src : CmdSrc) (group action : Nat) (mask : BitVec 256) (port : Nat) (s : State),
      group ≤ 0xFFE ∧ action = 0 ∧ port = 0 →
      s.acts (.stitchConfigureGroup src group action mask port) src 0x0905 = true →
      ∃ t, exec (.stitchConfigureGroup src group action mask port) s = .next t ∧ t.cmd.opcode = 0x0905 ∧ t.cmd.status = s.okStatus src
        0x0905) ∧
  (∀ (src : CmdSrc) (enable seqReset : Bool) (source channel kind target spacing seq : Nat) (y : TrigSrc) (s : State),
      (source < 8 ∧ 280 ≤ channel ∧ channel < 312 ∧ kind < 256 ∧ target < 0x1000 ∧ spacing ≤ 1000000 * nsU ∧ (seqReset = false → seq = 0))
        →
      (s.tdc.chans.get channel).edge ≠ 2 ∧ y = s.stitch.trigs.get source →
      s.acts (.stitchConfigureTrigger src enable seqReset source channel kind target spacing seq) src 0x0906 = true →
      ∃ t, exec (.stitchConfigureTrigger src enable seqReset source channel kind target spacing seq) s = .next t ∧ t.cmd.opcode = 0x0906 ∧
        t.cmd.status = s.okStatus src 0x0906) ∧
  (∀ (src : CmdSrc) (compensate rxLog : Bool) (port relayTrig relayTimed relayUser errThr : Nat) (s : State),
      port < 256 ∧ relayTrig ≤ 0x1000 ∧ relayTimed ≤ 0x1000 ∧ relayUser ≤ 0x1000 ∧ 1 ≤ errThr ∧ errThr ≤ 65535 →
      (s.ports.get port).configured = true ∧ (s.ports.get port).isSelvedge = true →
      s.acts (.stitchConfigurePort src compensate rxLog port relayTrig relayTimed relayUser errThr) src 0x0908 = true →
      ∃ t, exec (.stitchConfigurePort src compensate rxLog port relayTrig relayTimed relayUser errThr) s = .next t ∧ t.cmd.opcode = 0x0908
        ∧ t.cmd.status = s.okStatus src 0x0908) ∧
  (∀ (src : CmdSrc) (type target payload : Nat) (s : State),
      type < 2 ∧ target < 0x1000 ∧ payload < 2 ^ 40 ∧ s.latticesOf (s.stitchPorts target none) = [] →
      s.acts (.stitchSend src type target payload) src 0x0909 = true →
      ∃ t, exec (.stitchSend src type target payload) s = .next t ∧ t.cmd.opcode = 0x0909 ∧ t.cmd.status = s.okStatus src 0x0909) ∧
  (∀ (src : CmdSrc) (target code : Nat) (e : KTime) (lead r : Nat) (x : Pending) (s : State),
      target < 0x1000 ∧ code < 0xF0 ∧ e.ns < 1000000000 ∧ e.sub = 0 ∧ s.ktime + 20 * usU ≤ KTime.units e ∧ 10 * usU ≤ lead ∧ lead ≤ 2 *
        secU ∧ 1 ≤ r ∧ r ≤ 4 →
      s.stitch.timed.length < 256 ∧ s.wTime < KTime.units e - lead ∧ x =
        { handle := s.stitch.nextHandle.toNat, target := target, code := code, e := KTime.units e, lead := lead, copies := r } →
      s.acts (.stitchSendTimed src target code e lead r) src 0x090A = true →
      ∃ t, exec (.stitchSendTimed src target code e lead r) s = .next t ∧ t.cmd.opcode = 0x090A ∧ t.cmd.status = s.okStatus src 0x090A) ∧
  (∀ (src : CmdSrc) (handle : Nat) (x : Pending) (s : State),
      (s.stitch.timed.find? fun y => decide (y.handle = handle)) = some x →
      s.acts (.stitchCancelTimed src handle) src 0x090B = true →
      ∃ t, exec (.stitchCancelTimed src handle) s = .next t ∧ t.cmd.opcode = 0x090B ∧ t.cmd.status = (if x.placed then stBadState else
        s.okStatus src 0x090B)) ∧
  (∀ (src : CmdSrc) (clear : Bool) (port : Nat) (y : StPort) (s : State),
      port < 256 ∧ (s.ports.get port).configured = true ∧ (s.ports.get port).isSelvedge = true ∧ y = s.stitch.ports.get port →
      s.acts (.stitchGetPort src clear port) src 0x090C = true →
      ∃ t, exec (.stitchGetPort src clear port) s = .next t ∧ t.cmd.opcode = 0x090C ∧ t.cmd.status = s.okStatus src 0x090C) ∧
  (∀ (src : CmdSrc) (clear : Bool) (s : State),
      s.acts (.stitchGetSequencer src clear) src 0x090D = true →
      ∃ t, exec (.stitchGetSequencer src clear) s = .next t ∧ t.cmd.opcode = 0x090D ∧ t.cmd.status = s.okStatus src 0x090D) ∧
  (∀ (src : CmdSrc) (enable : Bool) (cycle lead commitTimeout joinTimeout watchdog skewGuard window chunkAge closeTimeout outcomeTimeout
    etherType : Nat) (plAsym : Int) (s : State),
      s.acts (.pairConfigure src enable cycle lead commitTimeout joinTimeout watchdog skewGuard window chunkAge closeTimeout
        outcomeTimeout etherType plAsym) src 0x0A01 (s.cmdRoleOk (.pairConfigure src enable cycle lead commitTimeout joinTimeout watchdog
        skewGuard window chunkAge closeTimeout outcomeTimeout etherType plAsym)) = true →
      125 * usU ≤ cycle ∧ cycle ≤ 10 * msU ∧ cycle % (125 * usU) = 0 ∧ 50 * usU ≤ lead ∧ lead ≤ 5 * msU ∧ lead < cycle ∧ 2 ≤ commitTimeout
        ∧ commitTimeout ≤ 100 →
      secU ≤ joinTimeout ∧ joinTimeout ≤ 600 * secU ∧ msU ≤ watchdog ∧ watchdog ≤ 1000 * msU ∧ usU ≤ skewGuard ∧ skewGuard ≤ 2 * msU ∧
        [1024, 2048, 4096, 8192, 16384, 32768, 65536].contains window = true →
      10 * usU ≤ chunkAge ∧ chunkAge ≤ 2 * msU ∧ msU ≤ closeTimeout ∧ closeTimeout ≤ 100 * msU ∧ secU ≤ outcomeTimeout ∧ outcomeTimeout ≤
        600 * secU →
      0x600 ≤ etherType ∧ etherType < 65536 ∧ etherTaken.contains etherType = false ∧ plAsym.natAbs ≤ nsU ∧ (etherType =
        s.pair.cfg.etherType ∨ s.pair.role = .alone) →
      ∃ t, exec (.pairConfigure src enable cycle lead commitTimeout joinTimeout watchdog skewGuard window chunkAge closeTimeout
        outcomeTimeout etherType plAsym) s = .next t ∧ (s.pair.waits = [] → t.cmd.opcode = 0x0A01 ∧ t.cmd.result = packFrom 16 [])) ∧
  (∀ (src : CmdSrc) (port attach source base count untagged : Nat) (y : PairPort) (a : Attach) (s : State),
      port < 256 ∧ (attach = 0 ∧ a = .unpaired ∨ attach = 1 ∧ a = .dual ∨ attach = 2 ∧ a = .singleA ∨ attach = 3 ∧ a = .singleB) →
      (if 2 ≤ attach then 1 ≤ source ∧ source ≤ 0xFFFE else source = 0) ∧ (if attach = 1 then 1 ≤ base ∧ 1 ≤ count ∧ count ≤ 16384 ∧ base
        + count ≤ 0xFFFF ∧ untagged < 2 else base = 0 ∧ count = 0 ∧ untagged = 0) →
      y =
        { attach := a, source := source, base := base, count := count, dropUntagged := decide (untagged = 1), seq := if decide (2 ≤ attach) && decide ((s.pair.ports.get port).source = source) then (s.pair.ports.get port).seq else 0, pathSeen := false }
        →
      (s.pair.ports.any fun q => decide (q.1 ≠ port) && y.meets q.2) = false ∧ (s.portState port = .down ∨ s.attachRemote a = true ∧
        s.attachRemote (s.pair.ports.get port).attach = true) →
      s.acts (.pairConfigurePort src port attach source base count untagged) src 0x0A02 = true →
      ∃ t, exec (.pairConfigurePort src port attach source base count untagged) s = .next t ∧ t.cmd.opcode = 0x0A02 ∧ t.cmd.status =
        s.okStatus src 0x0A02) ∧
  (∀ (src : CmdSrc) (clear : Bool) (s : State),
      s.acts (.pairGetStatus src clear) src 0x0A03 = true →
      ∃ t, exec (.pairGetStatus src clear) s = .next t ∧ t.cmd.opcode = 0x0A03 ∧ t.cmd.status = s.okStatus src 0x0A03) ∧
  (∀ (src : CmdSrc) (s : State),
      s.acts (.pairSwitchover src) src 0x0A04 true = true →
      fromJournal src = true ∨ s.pair.enable = true ∧ s.pair.role = .active ∧ s.partnerStandby = true ∧ s.pair.healthOk = true →
      ∃ t, exec (.pairSwitchover src) s = .next t ∧ t.cmd.opcode = 0x0A04 ∧ t.pair.switchover = true ∧ t.pair =
        { s.pair with switchover := true, counts := t.pair.counts }) ∧
  (∀ (src : CmdSrc) (s : State),
      s.pair.enable = true ∧ (s.partnerStandby = true ∨ s.pair.partnerRole = .detached) →
      s.acts (.pairResync src) src 0x0A05 = true →
      ∃ t, exec (.pairResync src) s = .next t ∧ t.cmd.opcode = 0x0A05 ∧ t.cmd.status = s.okStatus src 0x0A05) ∧
  (∀ (src : CmdSrc) (duration : Nat) (s : State),
      (duration = 0 ∨ secU ≤ duration ∧ duration ≤ 3600 * secU) ∧ s.pair.role = .standby →
      s.acts (.pairTest src duration) src 0x0A06 = true →
      ∃ t, exec (.pairTest src duration) s = .next t ∧ t.cmd.opcode = 0x0A06 ∧ t.cmd.status = s.okStatus src 0x0A06) ∧
  (∀ (src : CmdSrc) (clear : Bool) (source : Nat) (y : DupEntry) (s : State),
      1 ≤ source ∧ source ≤ 0xFFFE ∧ s.pair.dup.find source = some y →
      s.acts (.pairGetDigest src clear source) src 0x0A07 = true →
      ∃ t, exec (.pairGetDigest src clear source) s = .next t ∧ t.cmd.opcode = 0x0A07 ∧ t.cmd.status = s.okStatus src 0x0A07) ∧
  (∀ (src : CmdSrc) (source : Nat) (y : DupEntry) (s : State),
      1 ≤ source ∧ source ≤ 0xFFFE ∧ s.pair.dup.find source = some y →
      s.acts (.pairGetDup src source) src 0x0A08 = true →
      ∃ t, exec (.pairGetDup src source) s = .next t ∧ t.cmd.opcode = 0x0A08 ∧ t.cmd.status = s.okStatus src 0x0A08) ∧
  (∀ (src : CmdSrc) (g v : Nat) (s : State),
      g ≤ 1000000 * nsU ∧ secU ≤ v ∧ v ≤ 3600 * secU →
      s.acts (.secSetStepGuard src g v) src 0x0C10 = true →
      ∃ t, exec (.secSetStepGuard src g v) s = .next t ∧ t.time =
        { s.time with changes := s.time.changes ++ [{ kind := .guard, a := g, b := v, c := 0, src := src, own := false, due := s.tick + 1024 }] })
        ∧
  (∀ (src : CmdSrc) (direction magnitude validity : Nat) (s : State),
      direction < 2 ∧ 1 ≤ magnitude ∧ magnitude ≤ (if direction = 0 then 10 ^ 18 else 10 ^ 9) ∧ secU ≤ validity ∧ validity ≤ 60 * secU →
      s.acts (.secAuthoriseStep src direction magnitude validity) src 0x0C11 = true →
      ∃ t, exec (.secAuthoriseStep src direction magnitude validity) s = .next t ∧ t.time =
        { s.time with changes := s.time.changes ++ [{ kind := .allowance, a := direction, b := magnitude, c := validity, src := src, own := false, due := s.tick + 1024 }] })
        ∧
  (∀ (src : CmdSrc) (role level : Nat) (s : State),
      (role < 2 ∧ (if role = 1 then level < 2 else level = 0) ∧ (role = 1 → level = 1 → s.fuses.fullDebug = true)) →
      (∀ n, s.fw.authBusy = some n → n ≤ s.now) →
      s.acts (.secChallenge src role level) src 0x0C01 = true →
      ∃ t, exec (.secChallenge src role level) s = .next t ∧ t.cmd.opcode = 0x0C01 ∧ t.cmd.status = s.okStatus src 0x0C01) ∧
  (∀ (src : CmdSrc) (part : Nat) (bytes : List Byte) (y : Challenge) (s : State),
      part = 0 ∧ s.fw.challenge = some y ∧ s.now ≤ y.deadline →
      s.acts (.secResponse src part bytes) src 0x0C02 = true →
      ∃ t, exec (.secResponse src part bytes) s = .next t ∧ t.cmd.opcode = 0x0C02 ∧ t.cmd.status = s.okStatus src 0x0C02) ∧
  (∀ (src : CmdSrc) (s : State),
      s.acts (.secClose src) src 0x0C03 = true →
      ∃ t, exec (.secClose src) s = .next t ∧ t.cmd.opcode = 0x0C03 ∧ t.cmd.status = s.okStatus src 0x0C03) ∧
  (∀ (src : CmdSrc) (s : State),
      s.acts (.secDebugLock src) src 0x0C04 = true →
      ∃ t, exec (.secDebugLock src) s = .next t ∧ t.cmd.opcode = 0x0C04 ∧ t.cmd.status = s.okStatus src 0x0C04) ∧
  (∀ (src : CmdSrc) (slot : Nat) (s : State),
      slot < 8 ∧ s.fw.base_.keySlot ≠ slot →
      s.acts (.secRevokeKey src slot) src 0x0C05 = true →
      ∃ t, exec (.secRevokeKey src slot) s = .next t ∧ t.cmd.opcode = 0x0C05 ∧ t.cmd.status = s.okStatus src 0x0C05) ∧
  (∀ (src : CmdSrc) (minimum : Nat) (s : State),
      minimum ≤ 64 ∧ s.fuses.minVersion ≤ minimum ∧ minimum ≤ s.fw.base_.secVersion →
      s.acts (.secSetMinVersion src minimum) src 0x0C06 = true →
      ∃ t, exec (.secSetMinVersion src minimum) s = .next t ∧ t.cmd.opcode = 0x0C06 ∧ t.cmd.status = s.okStatus src 0x0C06) ∧
  (∀ (src : CmdSrc) (s : State),
      s.acts (.secGetStatus src) src 0x0C07 = true →
      ∃ t, exec (.secGetStatus src) s = .next t ∧ t.cmd.opcode = 0x0C07 ∧ t.cmd.status = s.okStatus src 0x0C07) ∧
  (∀ (src : CmdSrc) (enable : Bool) (trigger snap port k : Nat) (mask : BitVec 256) (s : State),
      trigger < 5 ∧ (snap = 0 ∨ snap = 64 ∨ snap = 128 ∨ snap = 192 ∨ snap = 256) ∧ (if trigger = 1 then port < 256 ∧ k ≤ 24 else port = 0
        ∧ k = 0) ∧ (2 ≤ trigger ∨ mask = 0) →
      s.acts (.captureConfigure src enable trigger snap port k mask) src 0x0B40 = true →
      ∃ t, exec (.captureConfigure src enable trigger snap port k mask) s = .next t ∧ t.cmd.opcode = 0x0B40 ∧ t.cmd.status = s.okStatus
        src 0x0B40) ∧
  (∀ (src : CmdSrc) (block first count : Nat) (s : State),
      block ≤ 3 ∧ first < clearSize block ∧ 0 < count ∧ first + count ≤ clearSize block →
      s.acts (.counterClear src block first count) src 0x0B01 = true →
      ∃ t, exec (.counterClear src block first count) s = .next t ∧ t.cmd.opcode = 0x0B01 ∧ t.cmd.status = s.okStatus src 0x0B01) ∧
  (∀ (src : CmdSrc) (source cause : Nat) (data : List Byte) (s : State),
      source ≤ 832 ∧ 1 ≤ cause % 256 ∧ cause % 256 ≤ Ev.causesOf (cause / 256) ∧ cause < 65536 →
      s.acts (.eventInject src source cause data) src 0x0B02 = true →
      ∃ t, exec (.eventInject src source cause data) s = .next t ∧ t.cmd.opcode = 0x0B02 ∧ t.cmd.status = s.okStatus src 0x0B02)

/-- The steps of recovery, supplies, boot, lanes and stitches take place. In every state that meets what the rule of the step asks, exec
answers a next state that holds its own effect. One clause each for: fenceMarkerWrite, watchdog, firewallFault, coreRestart, keeperLockstep,
sharedSramError, overlaySwitch, resetStart, coldReset, supplyFault, supplyRestored, thermtrip, sensorConversion, sensorConversionTimeout,
sensorRecovered, romCheck, flashReadDone, rootLock, rootLockTimeout, coreLoadDone, ospiReadId, ospiReadStatus, ospiReadSensors,
recoveryErase, recoveryEraseDone, recoveryWrite, recoveryCommit, ospiReset, ospiCsTimeout, swatchLock, swatchLoss, sweepDone, laneLocked,
castOnTimerExpiry, provingWindowEnd, los, lockLoss, freqRange, holdDownExpiry, egressQueuesEmpty, drainTimeout, bindOffLingerEnd,
sgpioFrame, sgpioStall, stitchBlockRx, rangeTimeout, stitchSlot, stitchArrival, stitchReady, evtEdge, refEdge, timedStitchReady,
phaseSetIssue, bcnIssue. () -/
def Obligations.CompletionsOfPowerAndLinkRows : Prop :=
  (∀ (stream : StreamId) (n : Nat) (m : FenceMark) (s : State),
      stream = .ring n ∧ n < 8 ∧ s.time.tickOn = true ∧ s.ringMark n = some m ∧ s.time.tick0 + m.f + 2 * usC ≤ s.now ∧ s.ringPassed n m.f
        = true ∧ s.ringNext n = none →
      (s.tdc.rings.get n).waitMarks = [] ∧ (s.tdc.rings.get n).lostRun = 0 ∧ (s.tdc.rings.get n).fill < 4096 →
      ∃ t, exec (.fenceMarkerWrite stream) s = .next t ∧ t.fence.marks = s.fence.marks.erase m ∧ (t.tdc.rings.get n).wr = (s.tdc.rings.get
        n).wr + 1 ∧ (t.tdc.rings.get n).recs.get ((s.tdc.rings.get n).wr.toNat % 4096) =
        { markerRec m.epoch with seq := (s.tdc.rings.get n).wr.toNat % 256, written := s.now }) ∧
  (∀ (core : Nat) (s : State),
      core < 14 ∧ (s.fw.cores.get core).state = 1 →
      ∃ t, exec (.watchdog core) s = .next t ∧ (t.fw.cores.get core).state = 3 ∧ (t.fw.cores.get core).faults = [] ∧ t.hasRaised (coreSrc
        core) Ev.watchdog = true ∧ t.fence.recovery = (decide (core < 2) || s.fence.recovery)) ∧
  (∀ (core addr : Nat) (s : State),
      core < 14 ∧ (s.fw.cores.get core).state = 1 ∧ (recent (s.fw.cores.get core).faults s.now secC).length < 15 →
      ∃ t, exec (.firewallFault core addr) s = .next t ∧ (t.fw.cores.get core).faultCount = inc32 (s.fw.cores.get core).faultCount ∧
        (t.fw.cores.get core).faults = s.now :: recent (s.fw.cores.get core).faults s.now secC ∧ (t.fw.cores.get core).state = 1) ∧
  (∀ (core : Nat) (s : State),
      core < 14 ∧ (s.fw.cores.get core).state = 3 ∧ s.glob.keeperRestarting = false ∧ s.fence.waiting = [] ∧ s.fence.active = [] →
      ∃ t, exec (.coreRestart core) s = .next t ∧ (t.fw.cores.get core).state = 1 ∧ (t.fw.cores.get core).restarts = (s.fw.cores.get
        core).restarts + 1 ∧ (t.fw.cores.get core).cnt = List.replicate 8 0 ∧ (t.fw.cores.get core).ksel = List.replicate 8 0 ∧
        t.events.pending.getLsbD (coreSrc core) = true) ∧
  (∀ (s : State),
      ∃ t, exec .keeperLockstep s = .next t ∧ t.glob.keeperRestarting = true ∧ t.fw.sessionEnd = none ∧ t.fw.challenge = none ∧
        t.fw.respPart0 = none ∧ t.events.pending.getLsbD 798 = true ∧ t.hasRaised 830 Ev.recoveryStart = true) ∧
  (∀ (what : SramWhat) (arg : Nat) (s : State),
      what = .staging ∧ arg < 7 →
      ∃ t, exec (.sharedSramError what arg) s = .next t ∧ (t.mbs.get arg).aclStage = [] ∧ (t.mbs.get arg).memStage = [] ∧ t.hasRaised 830
        Ev.recoveryDone = true) ∧
  (∀ (a : ActiveFence) (n : Nat) (o : Overlay) (s : State),
      s.time.tickOn = true ∧ (s.fence.active.find? fun b => b.arm) = some a ∧ s.time.tick0 + a.f ≤ s.now ∧ s.armedSlot = some (n, o) ∧
        o.timeMode = false ∧ o.src = a.src ∧ s.fence.waiting = [] →
      ∃ t, exec .overlaySwitch s = .next t ∧ t.cmd.opcode = 0x0203 ∧ t.cmd.status = s.okStatus a.src 0x0203 ∧ t.fw.lastOverlay = some (n,
        a.epoch) ∧ (t.fw.overlays.get n).state = .loaded ∧ (t.fw.overlays.get n).applied = (s.fw.overlays.get n).applied + 1 ∧
        t.pair.lastApply = s.now) ∧
  (∀ (c : Nat) (s : State),
      s.power.resetPending = some (0, c) ∧ s.power.resetAt ≤ s.now ∧ s.glob.keeperRestarting = false →
      ∃ t, exec .resetStart s = .next t ∧ t.power.resetCause = c ∧ t.power.stage = .por ∧ t.power.resetPending = none ∧ t.glob =
        State.reset.glob ∧ t.fuses = s.fuses ∧ t.hostMem = s.hostMem ∧ t.lanes = [] ∧ t.fwd = {} ∧ t.now = s.now) ∧
  (∀ (low : Nat) (s : State),
      1250 ≤ low →
      ∃ t, exec (.coldReset low) s = .next t ∧ t.power.resetCause = 0 ∧ t.power.stage = .por ∧ t.glob = State.reset.glob ∧ t.lanes = [] ∧
        t.fwd = {} ∧ t.fuses = s.fuses ∧ t.now = s.now) ∧
  (∀ (supply : Nat) (s : State),
      (supply = 0 ∨ supply = 1) ∧ s.power.supplyFault.get supply = false ∧ s.power.stage ≠ .thermtrip →
      ∃ t, exec (.supplyFault supply) s = .next t ∧ t.power.supplyFault = s.power.supplyFault.set supply true ∧ t.power.supplyHold = true
        ∧ t.power.resetCause = 1 ∧ t.power.stage = .por ∧ t.lanes = [] ∧ t.fuses = s.fuses) ∧
  (∀ (supply : Nat) (s : State),
      supply < 9 →
      ∃ t, exec (.supplyRestored supply) s = .next t ∧ t.power.supplyFault = s.power.supplyFault.del supply ∧ t.power.supplyHold =
        (s.power.supplyHold && ((s.power.supplyFault.del supply).get 0 || (s.power.supplyFault.del supply).get 1)) ∧ t.power.stage =
        s.power.stage) ∧
  (∀ (sensor : Nat) (s : State),
      sensor < 16 ∧ (s.power.sensors.get sensor).faulty = false ∧ s.power.stage ≠ .thermtrip →
      ∃ t, exec (.thermtrip sensor) s = .next t ∧ t.power.stage = .thermtrip ∧ t.power.thermtripN = false ∧ t.power.resetPending = none ∧
        t.glob.pdOn = 1 ∧ t.fwd = {} ∧ t.lanes = []) ∧
  (∀ (sensor : Nat) (value : Int) (s : State),
      sensor < 16 →
      ∃ t, exec (.sensorConversion sensor value) s = .next t ∧ (t.power.sensors.get sensor).readings = (value :: (s.power.sensors.get
        sensor).readings).take 16 ∧ (t.power.sensors.get sensor).convAt = s.now ∧ (t.power.sensors.get sensor).noConv = false) ∧
  (∀ (sensor : Nat) (s : State),
      sensor < 16 ∧ (s.power.sensors.get sensor).noConv = false →
      ∃ t, exec (.sensorConversionTimeout sensor) s = .next t ∧ (t.power.sensors.get sensor).noConv = true ∧ (t.power.sensors.get
        sensor).faulty = true ∧ (s.power.sensors.get sensor).convAt + 10 * msC ≤ t.now) ∧
  (∀ (sensor : Nat) (n : Nat) (s : State),
      sensor < 16 ∧ (s.power.sensors.get sensor).faulty = true ∧ (s.power.sensors.get sensor).soundSince = some n ∧ n + 10 * secC ≤ s.now
        ∧ (s.power.sensors.get sensor).bad s.now = false →
      ∃ t, exec (.sensorRecovered sensor) s = .next t ∧ (t.power.sensors.get sensor).faulty = false ∧ t.hasRaised (tempSrc sensor)
        Ev.sensorRecovered = true) ∧
  (∀ (ok : Bool) (order serial : Nat) (strap : Bool) (hashes : List (Nat × List Byte)) (fullDebug : Bool) (s : State),
      s.power.stage = .por ∧ s.power.supplyHold = false ∧ s.power.romFault = false ∧ 1 ≤ order ∧ order ≤ 3 ∧ serial < 2 ^ 64 ∧ (hashes.any
        fun y => decide (8 ≤ y.1 ∨ y.2.length ≠ 48)) = false ∧ s.fuses.fusesRead = false →
      ∃ t, exec (.romCheck ok order serial strap hashes fullDebug) s = .next t ∧ t.fuses.serial = serial ∧ t.fuses.orderCode =
        OrderCode.ofCode order ∧ t.fuses.pairStrap = strap ∧ t.fuses.fusesRead = true ∧ t.power = if ok then { s.power with stage := .xo }
        else { s.power with romFault := true }) ∧
  (∀ (a b : Option (List Byte)) (i : Option ImgInfo) (j : Option ImgInfo) (s : State),
      s.power.stage = .flash ∧ i = (a.bind fun l => (s.verifyImage true l).getRight?) ∧ j = (b.bind fun l => (s.verifyImage true
        l).getRight?) →
      ∃ t, exec (.flashReadDone a b) s = .next t ∧ t.fw.copies = [i, j]) ∧
  (∀ (s : State),
      s.power.rootRetry = none ∧ s.power.stage = .pd1 ∧ s.pdOn 1 = true ∧ s.power.resetting ≠ some 3 →
      ∃ t, exec .rootLock s = .next t ∧ t.glob.rootRunning = true ∧ t.time.tickOn = true ∧ t.time.tick0 = s.now ∧ t.power.stage = .pd2 ∧
        t.power.rootFault = false) ∧
  (∀ (s : State),
      s.power.rootRetry = none ∧ s.power.stage = .pd1 ∧ s.pdOn 1 = true ∧ s.glob.rootRunning = false →
      ∃ t, exec .rootLockTimeout s = .next t ∧ t.pdOn 1 = false ∧ t.power.rootFault = true ∧ t.power.rootRetry = some (t.now + secC) ∧
        s.power.pd1At + 100 * msC ≤ t.now) ∧
  (∀ (s : State),
      s.power.stage = .pd2 ∧ s.pdOn 2 = true →
      ∃ t, exec .coreLoadDone s = .next t ∧ t.power = { s.power with stage := .config, copyNote := 0 } ∧ ((List.range 14).all fun n =>
        decide ((t.fw.cores.get n).state = 1)) = true) ∧
  (∀ (s : State),
      ∃ t, exec .ospiReadId s = .next t ∧ t.power =
        { s.power with ospiArm := false, ospiOut := beBytes 2 0x6256 ++ beBytes 1 0xB0 ++ beBytes 1 s.fuses.orderCode.code }) ∧
  (∀ (s : State),
      ∃ t, exec .ospiReadStatus s = .next t ∧ t.power.ospiOut.length = 16 ∧ t.power.ospiOut.take 3 = [BitVec.ofNat 8 s.power.stage.code,
        BitVec.ofNat 8 s.power.resetKind, BitVec.ofNat 8 s.power.resetCause] ∧ t.power.ospiArm = false ∧ t.free = s.free + 1) ∧
  (∀ (s : State),
      ∃ t, exec .ospiReadSensors s = .next t ∧ t.power.ospiOut = (List.range 16).flatMap (fun n => if (s.power.sensors.get n).faulty then
        beBytes 2 0x8000 else beBytes 2 (unsignedOf 16 (s.reportMean n n))) ∧ t.free = s.free + 16) ∧
  (∀ (s : State),
      s.power.stage = .recovery →
      ∃ t, exec .recoveryErase s = .next t ∧ t.power =
        { s.power with ospiArm := false, ospiOut := [], recErased := false, recErasing := true, copy1 := [] }) ∧
  (∀ (s : State),
      s.power.recErasing = true →
      ∃ t, exec .recoveryEraseDone s = .next t ∧ t.power = { s.power with recErasing := false, recErased := true }) ∧
  (∀ (offset : Nat) (bytes : List Byte) (s : State),
      s.power.stage = .recovery ∧ s.power.recErased = true ∧ bytes ≠ [] ∧ bytes.length ≤ 256 ∧ offset % 256 + bytes.length ≤ 256 ∧ offset
        + bytes.length ≤ 16777216 →
      ∃ t, exec (.recoveryWrite offset bytes) s = .next t ∧ t.power =
        { s.power with ospiArm := false, ospiOut := [], copy1 := (List.range bytes.length).foldl (fun (y : Tbl Nat) i => y.set (offset + i) (bytes.getD i 0).toNat) s.power.copy1 })
        ∧
  (∀ (l : List Byte) (s : State),
      s.power.stage = .recovery ∧ s.power.recErased = true ∧ l = s.power.copy1Bytes (min 16777216 (ofBe (slice (s.power.copy1Bytes 28) 24
        4))) →
      ∃ t, exec .recoveryCommit s = .next t ∧
        (match s.verifyImage true l with | .inr _ => t.power.resetCause = 4 ∧ t.power.stage = .por ∧ t.power.copy1 = s.power.copy1 ∧ t.lanes = [] ∧ t.fuses = s.fuses | .inl f => t.power = { s.power with ospiArm := false, ospiOut := [], recCheck := f.1 }))
        ∧
  (∀ (opcode kind : Nat) (s : State),
      opcode = 0x99 ∧ s.power.stage ≠ .thermtrip ∧ s.power.ospiArm = true ∧ kind < 2 ∧ s.resetsNow = [] →
      ∃ t, exec (.ospiReset opcode kind) s = .next t ∧ t.power =
        { s.power with ospiArm := false, ospiOut := [], resetPending := some (1 - kind, 3), resetAt := s.now }) ∧
  (∀ (s : State),
      ∃ t, exec .ospiCsTimeout s = .next t ∧ t.power =
        { s.power with ospiArm := false, ospiOut := [0xFF], ospiBad := satAdd 16 s.power.ospiBad 1 }) ∧
  (∀ (lane : Nat) (s : State),
      lane < 264 ∧ (s.lanes.get lane).state = .swatch ∧ (s.lanes.get lane).swatch.locked = false →
      ∃ t, exec (.swatchLock lane) s = .next t ∧ t.lanes = s.lanes.upd lane (fun y =>
        { y with energySince := if y.swatch.loopback then y.energySince else some (y.energySince.getD s.now), swatch := { y.swatch with locked := true } })
        ∧ t.hasRaised lane Ev.swatchLock = true) ∧
  (∀ (lane bits errors : Nat) (s : State),
      lane < 264 ∧ errors ≤ bits ∧ (s.lanes.get lane).state = .swatch ∧ (s.lanes.get lane).swatch.locked = true →
      ∃ t, exec (.swatchLoss lane bits errors) s = .next t ∧ t.lanes = s.lanes.upd lane (fun y =>
        { y with swatch := { y.swatch with locked := false, injDue := 0, bits := min (y.swatch.bits + max bits y.swatch.injDue) (2 ^ 48 - 1), errors := min (y.swatch.errors + max errors y.swatch.injDue) (2 ^ 48 - 1) } }))
        ∧
  (∀ (lane : Nat) (counts : List Nat) (s : State),
      lane < 264 ∧ counts.length = 1024 ∧ (counts.any fun n => decide (65535 < n)) = false ∧ (s.lanes.get lane).swatch.sweeping = true →
      ∃ t, exec (.sweepDone lane counts) s = .next t ∧ t.lanes = s.lanes.upd lane (fun y =>
        { y with swatch := { y.swatch with sweeping := false, sweepDone := true, sweepCounts := counts } }) ∧ (s.lanes.get
        lane).swatch.sweepEnd ≤ t.now ∧ t.hasRaised lane Ev.sweepDone = true) ∧
  (∀ (port : Nat) (s : State),
      (portNamed port = true ∧ (s.ports.get port).configured = true ∧ s.portState port = .casting ∧ ((s.ports.get port).isSelvedge = true
        → (s.selv.get port).rowState = .locked)) →
      ∃ t, exec (.laneLocked port) s = .next t ∧ t.ports = s.ports.upd port (fun y => { y with provingEnd := some (s.now + 2 * msC) }) ∧
        t.portIn port .proving = true ∧ ((s.portLanes port).all fun l => (t.lanes.get l).energySince.isSome && (t.lanes.get l).tapOn) =
        true) ∧
  (∀ (port : Nat) (n : Nat) (s : State),
      portNamed port = true ∧ (s.ports.get port).castTimer = some n ∧ s.portState port = .casting ∧ n ≤ s.now ∧ port < 256 →
      ∃ t, exec (.castOnTimerExpiry port) s = .next t ∧ t.portIn port .fault = true ∧ (t.ports.get port).castTimer = none ∧ (t.ports.get
        port).castTimeouts = inc32 (s.ports.get port).castTimeouts ∧ (t.ports.get port).holdTimer = some (s.now + cyclesOf (s.ports.get
        port).holdDown)) ∧
  (∀ (port : Nat) (pointersOk : Bool) (offsets deskews : List Int) (n : Nat) (s : State),
      portNamed port = true ∧ (s.ports.get port).provingEnd = some n ∧ s.portState port = .proving ∧ n ≤ s.now ∧ offsets.length =
        (s.ports.get port).width ∧ deskews.length = (s.ports.get port).width →
      (offsets.any fun o => decide (s.freqLimit port < o.natAbs)) = false ∧ pointersOk = true →
      ∃ t, exec (.provingWindowEnd port pointersOk offsets deskews) s = .next t ∧ t.portIn port .up = true ∧ (t.ports.get port).castTimer
        = none ∧ (t.ports.get port).pointerFails = 0 ∧ ((s.portLanes port).all fun l => decide ((t.lanes.get l).lastCause =
        Ev.castOnDone)) = true) ∧
  (∀ (lane : Nat) (q : Nat) (s : State),
      lane < 264 ∧ s.portOf lane = some q ∧ (s.lanes.get lane).losPending = false ∧ s.portState q = .up →
      ∃ t, exec (.los lane) s = .next t ∧ (t.lanes.get lane).energySince = none ∧ (t.lanes.get lane).tapOn = false ∧ (t.ports.get q).flaps
        = s.now :: recent (s.ports.get q).flaps s.now (cyclesOf (s.ports.get q).flapWindow)) ∧
  (∀ (lane : Nat) (kind : LossKind) (q : Nat) (s : State),
      lane < 264 ∧ s.portOf lane = some q ∧ s.portState q = .up →
      ∃ t, exec (.lockLoss lane kind) s = .next t ∧ t.portIn q (if (s.ports.get q).flapLimit ≤ (recent (s.ports.get q).flaps s.now
        (cyclesOf (s.ports.get q).flapWindow)).length + 1 then .held else .fault) = true) ∧
  (∀ (lane : Nat) (offset : Int) (s : State),
      lane < 264 ∧
        (match s.portOf lane with | none => true | some q => decide (offset.natAbs ≤ s.freqLimit q ∨ s.portState q ≠ .up ∧ s.portState q ≠ .proving))
        = true →
      ∃ t, exec (.freqRange lane offset) s = .next t ∧ t.lanes = s.lanes.upd lane fun y => { y with freqOff := offset }) ∧
  (∀ (port : Nat) (n : Nat) (s : State),
      portNamed port = true ∧ (s.ports.get port).holdTimer = some n ∧ s.portState port = .fault ∧ (s.ports.get port).recastManual = true ∧
        n ≤ s.now →
      ∃ t, exec (.holdDownExpiry port) s = .next t ∧ t.portIn port .held = true ∧ (t.ports.get port).holdTimer = none) ∧
  (∀ (port : Nat) (s : State),
      port < 256 ∧ s.portState port = .binding ∧ (s.ports.get port).drainTimer.isSome = true ∧ s.egressIdle port = true →
      ∃ t, exec (.egressQueuesEmpty port) s = .next t ∧ (t.ports.get port).drainTimer = none ∧ (t.ports.get port).lingerTimer = some
        (t.now + 10 * usC) ∧ t.lanes = s.lanes) ∧
  (∀ (port : Nat) (n : Nat) (s : State),
      port < 256 ∧ s.portState port = .binding ∧ (s.ports.get port).drainTimer = some n →
      ∃ t, exec (.drainTimeout port) s = .next t ∧ (t.ports.get port).drainTimer = none ∧ (t.ports.get port).lingerTimer = some (t.now +
        10 * usC) ∧ n ≤ t.now ∧ t.lanes = s.lanes) ∧
  (∀ (port : Nat) (n : Nat) (s : State),
      port < 256 ∧ s.portState port = .binding ∧ (s.ports.get port).lingerTimer = some n ∧ n ≤ s.now →
      ∃ t, exec (.bindOffLingerEnd port) s = .next t ∧ t.portIn port .down = true ∧ t.events.pending.getLsbD (portSrc port) = true ∧
        (t.ports.get port).lingerTimer = none ∧ (t.ports.get port).bindWait = []) ∧
  (∀ (bits : List Nat) (n : Nat) (m : Module) (b : Nat) (k : Nat) (s : State),
      (bits.any fun b => decide (3 < b)) = false ∧ s.modules = [(n, m)] ∧ b = bits.getD n 0 ∧ k = (if b = m.lastRaw then min 3 (m.rawCount
        + 1) else 1) →
      ∃ t, exec (.sgpioFrame bits) s = .next t ∧ t.power = { s.power with sgpioStalled := false } ∧ (t.modules.get n).lastRaw = b ∧
        (t.modules.get n).rawCount = k ∧ (t.modules.get n).present = (if k = 3 then b.testBit 0 else m.present) ∧ (t.modules.get n).intr =
        (if k = 3 then b.testBit 1 else m.intr)) ∧
  (∀ (s : State),
      s.power.sgpioStalled = false →
      ∃ t, exec .sgpioStall s = .next t ∧ t.power = { s.power with sgpioStalled := true } ∧ t.events.pending.getLsbD 832 = true) ∧
  (∀ (port index : Nat) (ctl : Bool) (word tick sub : Nat) (k : Nat) (s : State),
      port < 256 ∧ [0, 64, 128, 192].contains index = true ∧ s.time.tick0 + tick ≤ s.now ∧ s.hearsRows port = true ∧ (s.selv.get
        port).rowState = .locked →
      (slotPositions (s.selv.get port).slots).contains index = true ∧ stitchFails ctl index word = 0 ∧ k = word / 256 / 2 ^ 52 →
      ∃ t, exec (.stitchBlockRx port index ctl word tick sub) s = .next t ∧ (t.stitch.ports.get port).rxCounts.get k = inc32
        ((s.stitch.ports.get port).rxCounts.get k) ∧ (t.selv.get port).rowState = .locked ∧ (k = 5 → (t.selv.get port).tensionRx = word /
        256 % 2 ^ 40 / 2 ^ 36)) ∧
  (∀ (port : Nat) (s : State),
      port < 256 ∧ (s.ports.get port).configured = true ∧ (s.ports.get port).isSelvedge = true ∧ (s.portState port).ranges = true ∧
        (s.selv.get port).linkStale = false →
      ∃ t, exec (.rangeTimeout port) s = .next t ∧ (t.selv.get port).linkStale = true ∧ (t.selv.get port).timeDue = [] ∧ (s.selv.get
        port).rangeEnd ≤ t.now ∧ t.hasRaised (portSrc port) Ev.rangeTimeout = true) ∧
  (∀ (group : Nat) (s : State),
      group < 6 ∧ s.time.tickOn = true →
      ∃ t, exec (.stitchSlot group) s = .next t ∧ t.stitch.nextSlot.get group = max (s.stitch.nextSlot.get group) (ceilDiv (instQ s.tick
        0) (groupQ group)) + 1 ∧ s.now ≤ t.now) ∧
  (∀ (q : QStitch) (l : List QStitch) (s : State),
      s.stitch.arriving = q :: l ∧ s.time.tickOn = true ∧ s.time.tick0 + q.arrive ≤ s.now →
      ∃ t, exec .stitchArrival s = .next t ∧ t.stitch.arriving = (q :: l).filter (fun y => decide (s.tick < y.arrive))) ∧
  (∀ (n : Nat) (s : State),
      nextAfter s.tick (s.stitch.queues.flatMap fun q => q.2.map (·.ready)) = some n ∧ s.time.tickOn = true →
      ∃ t, exec .stitchReady s = .next t ∧ t.now = max s.now (s.time.tick0 + n)) ∧
  (∀ (ch tick phase fine : Nat) (falling : Bool) (y : TdcChan) (v : Stamp) (s : State),
      280 ≤ ch ∧ ch < 312 ∧ s.time.tick0 + tick ≤ s.now ∧ y = s.tdc.chans.get ch ∧ y.enable = true ∧ y.inputOpen = false ∧ (y.edge = 2 ∨
        (if falling then y.edge = 1 else y.edge ≠ 1)) ∧ s.inService ch = true →
      y.lastEdge = none ∧ y.dllLocked = true ∧ y.preCount = 0 ∧ y.regression = false ∧ v = s.makeStamp ch tick (phase % 16) (fine % 32)
        falling ∧ (s.tdc.groups.get (groupOf ch)).inside v = true →
      ∃ t, exec (.evtEdge ch tick phase fine falling) s = .next t ∧ (t.tdc.chans.get ch).hits = satAdd 32 y.hits 1 ∧ (t.tdc.chans.get
        ch).lastStamp = v ∧ (t.tdc.chans.get ch).lastEdge = some (tick * 65536 + s.centreOf ch (phase % 16 * 32 + fine % 32)) ∧
        (t.tdc.chans.get ch).preCount = if 1 < y.prescaler then 1 else 0) ∧
  (∀ (ch tick phase fine width : Nat) (v : Stamp) (n : Nat) (s : State),
      264 ≤ ch ∧ ch < 272 ∧ n = ch - 264 ∧ s.time.tick0 + tick ≤ s.now ∧ s.armed ch = true ∧ s.inService ch = true ∧ 19661 ≤ width ∧
        (s.tdc.chans.get ch).dllLocked = true ∧ (s.ref.slots.get n).pulse n = false →
      v = s.makeStamp ch tick (phase % 16) (fine % 32) (s.ref.slots.get n).falling →
      ∃ t, exec (.refEdge ch tick phase fine width) s = .next t ∧ (t.tdc.chans.get ch).lastStamp = v ∧ (t.ref.slots.get n).lastEdge =
        s.now ∧ (t.ref.slots.get n).active = true ∧ ((s.ref.slots.get n).state ≠ .disabled → (t.ref.slots.get n).stamps = (s.ref.slots.get
        n).stamps ++ [v])) ∧
  (∀ (x : Pending) (s : State),
      firstTimed s.stitch.timed = some x ∧ s.time.tick0 + s.fireTick (x.e - x.lead) ≤ s.now →
      ∃ t, exec .timedStitchReady s = .next t ∧ ((s.latticesOf (s.stitchPorts x.target none)).all fun n => decide (min 64
        ((s.stitch.queues.get (8 * n + stitchClass 3)).length + x.copies) ≤ (t.stitch.queues.get (8 * n + stitchClass 3)).length)) = true)
        ∧
  (∀ (chan : Nat) (y : McChan) (q : QStitch) (s : State),
      chan < 4 ∧ y = s.stitch.mc.get chan ∧ y.enable = true ∧ y.setInterval ≠ 0 ∧ y.nextSet ≤ s.now →
      q =
        { type := 4, target := y.phaseTarget, payload := (if y.stepSets = 0 then 0 else 1), chan := chan, arrive := s.tick, ready := s.tick + 64 }
        →
      ∃ t, exec (.phaseSetIssue chan) s = .next t ∧ (t.stitch.mc.get chan).nextSet = s.now + cyclesOf y.setInterval ∧ (t.stitch.mc.get
        chan).stepSets = y.stepSets - 1) ∧
  (∀ (chan : Nat) (y : McChan) (q : QStitch) (s : State),
      chan < 4 ∧ y = s.stitch.mc.get chan ∧ y.enable = true ∧ y.tracked = true ∧ y.orbitLen ≠ 0 ∧ y.bcnInterval ≠ 0 ∧ y.orbit %
        y.bcnInterval = 0 ∧ y.bcnDone ≠ some y.orbit →
      q = { type := 2, target := y.bcnTarget, chan := chan, arrive := s.tick, ready := s.tick } →
      ∃ t, exec (.bcnIssue chan) s = .next t ∧ (t.stitch.mc.get chan).bcnDone = some y.orbit)

/-- The steps of the TDC, gauge, references, time, PTP, machine clock and frames take place. In every state that meets what the rule of the
step asks, exec answers a next state that holds its own effect. One clause each for: inputOpen, inputRecovered, rateWindow, silent, tapEdge,
ringWrite, ringTimeout, ringRdCountWrite, gatePinChange, swGateOpen, swGateClose, gatePulseEnd, gateTimeout, intervalResult, gaugeHoldLapse,
stageLoad, gaugeRunStart, gaugeRunEnd, fullCalibrationDone, gaugePeriodicTimer, gaugeTempUnavailable, dllUnlock, dllRelock,
dllRelockTimeout, gaugeCopyCheck, laneWindowBoundary, refActivityTimeout, xoMonitorWindow, holdoverInspecExpiry, steerTimeout, levelTimeout,
esmcPduTx, ppsOutPulse, clkoutAligned, allowanceExpired, holdEnd, take, tsqStampTimeout, tsqRdCountWrite, ptpMessageRx, ptpMessageTx,
announceReceiptTimeout, syncReceiptTimeout, delayResponseTimeout, delayCoastExpiry, asymFallback, markerEdge, markerLost, mcActivityTimeout,
mcCoastLimit, orbitStart, parseWindowClose, admissionDecision, frameEnd, cellSlot, egressFrameBoundary, copySent, spillBurst, returnBurst,
skeinInitDone, skeinCellError, skeinFault, cellEccError, queueFlushed, capRdCountWrite, capTimeout. () -/
def Obligations.CompletionsOfTimeAndFrameRows : Prop :=
  (∀ (input : Nat) (s : State),
      input < 32 ∧ (s.tdc.chans.get (280 + input)).inputOpen = false →
      ∃ t, exec (.inputOpen input) s = .next t ∧ t.tdc =
        { s.tdc with chans := s.tdc.chans.upd (280 + input) fun x => { x with inputOpen := true, level := false } } ∧ t.hasRaised (tdcSrc
        (280 + input)) Ev.inputOpen = true) ∧
  (∀ (input : Nat) (level : Bool) (s : State),
      input < 32 →
      ∃ t, exec (.inputRecovered input level) s = .next t ∧ t.tdc =
        { s.tdc with chans := s.tdc.chans.upd (280 + input) fun x => if x.inputOpen then { x with inputOpen := false, level := level } else x })
        ∧
  (∀ (ch : Nat) (y : TdcChan) (s : State),
      280 ≤ ch ∧ ch < 312 ∧ y = s.tdc.chans.get ch ∧ y.enable = true ∧ y.rateLimit ≠ 0 ∧ y.rateLimit < y.winEdges →
      ∃ t, exec (.rateWindow ch) s = .next t ∧ t.tdc =
        { s.tdc with chans := s.tdc.chans.set ch { y with winEdges := 0, rateExceeded := satAdd 32 y.rateExceeded 1, rateRaised := true } }
        ∧ (y.rateRaised = false → t.hasRaised (tdcSrc ch) Ev.rateExceeded = true)) ∧
  (∀ (ch : Nat) (y : TdcChan) (s : State),
      280 ≤ ch ∧ ch < 312 ∧ y = s.tdc.chans.get ch ∧ y.enable = true ∧ (s.tdc.groups.get (groupOf ch)).open_ = true ∧ y.silence ≠ 0 ∧
        y.silentRaised = false →
      ∃ t, exec (.silent ch) s = .next t ∧ t.tdc = { s.tdc with chans := s.tdc.chans.set ch { y with silentRaised := true } } ∧
        t.hasRaised (tdcSrc ch) Ev.silent = true ∧ (s.time.tickOn = true → (s.tdc.groups.get (groupOf ch)).openTick + cyclesOf y.silence ≤
        t.tick)) ∧
  (∀ (lane tick phase fine : Nat) (k : Stamp) (s : State),
      lane < 264 ∧ s.time.tick0 + tick ≤ s.now ∧ ((s.lanes.get lane).state = .casting ∨ s.armed lane = true) ∧ s.inService lane = true ∧
        (s.tdc.chans.get lane).dllLocked = true ∧ k = s.makeStamp lane tick (phase % 16) (fine % 32) false →
      ∃ t, exec (.tapEdge lane tick phase fine) s = .next t ∧ (t.tdc.chans.get lane).winStamps = (s.tdc.chans.get lane).winStamps ++ [k] ∧
        (t.tdc.chans.get lane).lastStamp = k ∧ (t.tdc.chans.get lane).hits = satAdd 32 (s.tdc.chans.get lane).hits 1 ∧ (t.lanes.get
        lane).tapOn = true) ∧
  (∀ (ring : Nat) (n : Nat) (g : QRec) (l : List QRec) (x : Ring) (s : State),
      ring < 8 ∧ s.ringNext ring = some (n, none) ∧ s.ringMay ring (n, none) = true ∧ s.ringMark ring = none ∧ x = s.tdc.rings.get ring ∧
        x.queue = g :: l →
      x.enable = true ∧ x.waitMarks = [] ∧ x.lostRun = 0 ∧ x.fill + g.recs.length ≤ 4096 →
      ∃ t, exec (.ringWrite ring) s = .next t ∧ (t.tdc.rings.get ring).queue = l ∧ (t.tdc.rings.get ring).wr = x.wr + BitVec.ofNat 32
        g.recs.length ∧ (g.recs.length = 1 → (t.tdc.rings.get ring).recs.get (x.wr.toNat % 4096) =
        { (g.recs.headD {}) with seq := x.wr.toNat % 256, written := s.now })) ∧
  (∀ (ring : Nat) (y : Ring) (s : State),
      ring < 8 ∧ y = s.tdc.rings.get ring ∧ y.fill ≠ 0 ∧ y.idleTimeout ≠ 0 ∧ y.timeoutSeen ≠ some y.rd.toNat →
      ∃ t, exec (.ringTimeout ring) s = .next t ∧ t.tdc =
        { s.tdc with rings := s.tdc.rings.set ring { y with timeoutSeen := some y.rd.toNat } } ∧ (y.recs.get (y.rd.toNat % 4096)).written
        + y.idleTimeout * usC ≤ t.now ∧ t.hasRaised (ringSrc ring) Ev.ringTimeout = true) ∧
  (∀ (ring : Nat) (value : BitVec 32) (s : State),
      ring < 8 ∧ s.streamOwned ring = false ∧ dist32 (s.tdc.rings.get ring).rd value ≤ (s.tdc.rings.get ring).fill →
      ∃ t, exec (.ringRdCountWrite ring value) s = .next t ∧ (t.tdc.rings.get ring).rd = value ∧ ((s.tdc.rings.get ring).waitMarks = [] →
        (s.tdc.rings.get ring).lostRun = 0 → (t.tdc.rings.get ring).wr = (s.tdc.rings.get ring).wr)) ∧
  (∀ (group : Nat) (level : Bool) (tick : Nat) (y : GateGrp) (s : State),
      group < 4 ∧ s.time.tick0 + tick ≤ s.now ∧ y = s.tdc.groups.get group ∧ y.pin ≠ level ∧ (y.mode = 0 ∨ y.mode = 1) ∧ y.open_ = false ∧
        level ≠ y.activeLow →
      ∃ t, exec (.gatePinChange group level tick) s = .next t ∧ (t.tdc.groups.get group).open_ = true ∧ (t.tdc.groups.get group).pin =
        level ∧ (t.tdc.groups.get group).openTick = tick ∧ (t.tdc.groups.get group).maxEnd = some (tick + cyclesOf y.maxLen)) ∧
  (∀ (value : BitVec 32) (s : State),
      ∃ t, exec (.swGateOpen value) s = .next t ∧ ((List.range 4).all fun g => if value.getLsbD g && decide ((s.tdc.groups.get g).mode =
        2) && !(s.tdc.groups.get g).open_ then (t.tdc.groups.get g).open_ && decide ((t.tdc.groups.get g).openTick = s.tick ∧
        (t.tdc.groups.get g).maxEnd = some (s.tick + cyclesOf (s.tdc.groups.get g).maxLen)) else decide (t.tdc.groups.get g =
        s.tdc.groups.get g)) = true) ∧
  (∀ (value : BitVec 32) (s : State),
      ∃ t, exec (.swGateClose value) s = .next t ∧ ((List.range 4).all fun g => if value.getLsbD g && decide ((s.tdc.groups.get g).mode =
        2) && (s.tdc.groups.get g).open_ then !(t.tdc.groups.get g).open_ && decide ((t.tdc.groups.get g).closeTick = s.tick) else decide
        (t.tdc.groups.get g = s.tdc.groups.get g)) = true) ∧
  (∀ (group : Nat) (y : GateGrp) (a : Nat) (b : Nat) (s : State),
      group < 4 ∧ y = s.tdc.groups.get group ∧ y.pulseEnd = some a ∧ y.maxEnd = some b ∧ y.open_ = true ∧ a ≤ b ∧ s.time.tick0 + a ≤ s.now
        →
      ∃ t, exec (.gatePulseEnd group) s = .next t ∧ (if y.mode = 3 then (t.tdc.groups.get group).open_ = true ∧ (t.tdc.groups.get
        group).openTick = a else (t.tdc.groups.get group).open_ = false) ∧ (t.tdc.groups.get group).closeTick = a) ∧
  (∀ (group : Nat) (y : GateGrp) (b : Nat) (s : State),
      group < 4 ∧ y = s.tdc.groups.get group ∧ y.maxEnd = some b ∧ y.open_ = true ∧ (y.pulseEnd.all fun a => decide (b < a)) = true ∧
        s.time.tick0 + b ≤ s.now →
      ∃ t, exec (.gateTimeout group) s = .next t ∧ (t.tdc.groups.get group).open_ = false ∧ (t.tdc.groups.get group).closeTick = b ∧
        t.events.pending.getLsbD (544 + 8 * group) = true) ∧
  (∀ (engine : Nat) (y : IntervalEng) (a : Stamp) (l : List Stamp) (s : State),
      engine < 32 ∧ y = s.tdc.intervals.get engine ∧ y.starts = a :: l ∧ (y.stops.any fun b => decide (a.u ≤ b.u)) = true →
      ∃ t, exec (.intervalResult engine) s = .next t ∧ (t.tdc.intervals.get engine).starts = l ∧ ((t.tdc.intervals.get engine).stops.all
        fun b => y.stops.contains b) = true) ∧
  (∀ (n : Nat) (s : State),
      s.gauge.hold = some n →
      ∃ t, exec .gaugeHoldLapse s = .next t ∧ t.gauge = { s.gauge with hold := none } ∧ n ≤ t.now) ∧
  (∀ (value : BitVec 32) (c : Nat) (s : State),
      value.toNat % 2 = 1 ∧ c = s.gauge.gwChannel ∧ (regionOf c).isSome = true →
      ∃ t, exec (.stageLoad value) s = .next t ∧ (t.gauge.chans.get c).stDll = (s.gauge.chans.get c).dllCode ∧ (t.gauge.chans.get c).stSel
        = (s.gauge.chans.get c).cellSel ∧ (t.gauge.chans.get c).stTrim = (s.gauge.chans.get c).trim) ∧
  (∀ (n : Nat) (l : List Nat) (y : GRegion) (s : State),
      s.gauge.pendingQ = n :: l ∧ s.gauge.running = none ∧ y = s.gauge.regions.get n ∧ (s.gaugeHeld = false ∨ y.urgent = true) →
      ∃ t, exec .gaugeRunStart s = .next t ∧ t.gauge.running = some n ∧ t.gauge.pendingQ = l ∧ (t.gauge.regions.get n).state = .running ∧
        (t.gauge.regions.get n).stale = true ∧ (t.gauge.regions.get n).urgent = false ∧ (t.gauge.regions.get n).runEnd = some (t.now +
        cyclesOf s.gauge.runTimeout)) ∧
  (∀ (injected : List Injected) (n : Nat) (o : GRegion) (s : State),
      (s.gauge.running = some n ∧ o = s.gauge.regions.get n ∧ o.state = .running ∧ (s.injects n = true → s.injectable n injected = true))
        →
      ∃ t, exec (.gaugeRunEnd injected) s = .next t ∧ t.gauge.running = s.gauge.fullQ.head? ∧ t.gauge.fullQ = s.gauge.fullQ.tail ∧
        (t.gauge.regions.get n).commitDue = true ∧ (t.gauge.regions.get n).commitKind = 0 ∧ (t.gauge.regions.get n).stale = true ∧
        (t.gauge.regions.get n).lastEnd = t.now) ∧
  (∀ (region : Nat) (sets : List CalSet) (o : GRegion) (s : State),
      region < 21 ∧ o = s.gauge.regions.get region ∧ o.state = .full ∧ s.gauge.running = some region →
      ∃ t, exec (.fullCalibrationDone region sets) s = .next t ∧ (t.gauge.regions.get region).commitDue = true ∧ (t.gauge.regions.get
        region).commitKind = (if o.restoreFull then 2 else 1) ∧ (t.gauge.regions.get region).restoreFull = false) ∧
  (∀ (region : Nat) (y : GRegion) (s : State),
      region < 21 ∧ y = s.gauge.regions.get region ∧ y.state = .idle ∧ (s.gauge.periodic ≠ 0 ∨ y.failed = true) →
      ∃ t, exec (.gaugePeriodicTimer region) s = .next t ∧ (t.gauge.regions.get region).state = .pending ∧ t.gauge.pendingQ.contains
        region = true) ∧
  (∀ (region : Nat) (s : State),
      region < 21 ∧ (s.gauge.regions.get region).state = .idle ∧ s.regionTemp region = none ∧ (s.gauge.regions.get region).tempLost = none
        →
      ∃ t, exec (.gaugeTempUnavailable region) s = .next t ∧ t.hasRaised (regionSrc region) Ev.gaugeTempUnavailable = true ∧
        (t.gauge.regions.get region).tempLost = some s.now ∧ (t.gauge.regions.get region).state = .pending ∧ t.gauge.pendingQ.contains
        region = true) ∧
  (∀ (loss : DllLoss) (s : State),
      loss.ch < 320 ∧ (s.tdc.chans.get loss.ch).dllLocked = true ∧ s.inService loss.ch = true ∧ dllUnlockLimit < loss.error.natAbs →
      ∃ t, exec (.dllUnlock loss) s = .next t ∧ t.tdc =
        { s.tdc with chans := s.tdc.chans.upd loss.ch fun x => { x with dllLocked := false, dllTimer := some (s.now + msC), winBad := true, dllUnlockInRun := true } }
        ∧ t.hasRaised (tdcSrc loss.ch) Ev.dllUnlock = true) ∧
  (∀ (lock : DllLock) (n : Nat) (s : State),
      lock.ch < 320 ∧ (s.tdc.chans.get lock.ch).dllLocked = false ∧ s.inService lock.ch = true ∧ regionOf lock.ch = some n ∧ 1024 ≤
        lock.within →
      ∃ t, exec (.dllRelock lock) s = .next t ∧ t.tdc =
        { s.tdc with chans := s.tdc.chans.upd lock.ch fun x => { x with dllLocked := true, dllTimer := none, dllStale := true } } ∧
        t.hasRaised (tdcSrc lock.ch) Ev.dllRelock = true) ∧
  (∀ (ch : Nat) (n : Nat) (d : Nat) (s : State),
      ch < 320 ∧ (s.tdc.chans.get ch).dllTimer = some d ∧ regionOf ch = some n →
      ∃ t, exec (.dllRelockTimeout ch) s = .next t ∧ d ≤ t.now ∧ (t.gauge.regions.get n).state = .full ∧ (t.gauge.running = some n ∨
        t.gauge.fullQ.contains n = true) ∧ t.gauge.pendingQ.contains n = false ∧ (t.tdc.chans.get ch).dllTimer = none ∧ (t.tdc.chans.get
        ch).winBad = true) ∧
  (∀ (region : Nat) (aOk bOk : Bool) (bEpoch : Nat) (bCentres : List (Nat × List Nat)) (s : State),
      region < 21 ∧ (s.gauge.regions.get region).state ≠ .off ∧ (s.gauge.regions.get region).commitDue = false ∧ aOk = true ∧ bOk = false
        →
      ∃ t, exec (.gaugeCopyCheck region aOk bOk bEpoch bCentres) s = .next t ∧ t.hasRaised (regionSrc region) Ev.gaugeCopyRepaired = true
        ∧ (t.gauge.regions.get region).epochB = (s.gauge.regions.get region).epoch ∧ (t.gauge.regions.get region).epoch =
        (s.gauge.regions.get region).epoch) ∧
  (∀ (s : State),
      s.time.tickOn = true →
      ∃ t, exec .laneWindowBoundary s = .next t ∧ s.time.tick0 + s.nextBoundary s.tick ≤ t.now ∧ ((List.range 21).all fun r =>
        !(t.gauge.regions.get r).commitDue) = true ∧ t.ref.pendingCfg = []) ∧
  (∀ (slot : Nat) (s : State),
      (slot < 8 ∨ 28 ≤ slot ∧ slot < 31) ∧ (s.ref.slots.get slot).enable = true ∧ (s.ref.slots.get slot).active = true →
      ∃ t, exec (.refActivityTimeout slot) s = .next t ∧ t.ref =
        { s.ref with slots := s.ref.slots.upd slot fun y => { y with active := false } } ∧ (s.ref.slots.get slot).lastEdge + s.activityC
        slot ≤ t.now) ∧
  (∀ (edges : Nat) (s : State),
      80 ≤ edges ∧ edges ≤ 120 →
      ∃ t, exec (.xoMonitorWindow edges) s = .next t ∧ t.glob.xoGood = min 3 (s.glob.xoGood + 1) ∧ t.glob.xoBad = 0 ∧ t.glob.xoPresent =
        (s.glob.xoPresent || decide (2 ≤ s.glob.xoGood))) ∧
  (∀ (n : Nat) (s : State),
      s.ref.state = .holdover ∧ s.ref.inSpecEnd = some n →
      ∃ t, exec .holdoverInspecExpiry s = .next t ∧ t.ref.inSpecOver = true ∧ t.ref.inSpecEnd = none ∧ t.ref.state = .holdover ∧ n ≤
        t.now) ∧
  (∀ (n : Nat) (s : State),
      s.ref.state = .steered ∧ s.ref.steerEnd = some n →
      ∃ t, exec .steerTimeout s = .next t ∧ t.ref = { s.ref with closing := true, steerEnd := none } ∧ t.hasRaised 808 Ev.steerTimeout =
        true ∧ n ≤ t.now) ∧
  (∀ (slot : Nat) (y : RefSlot) (l : Nat) (s : State),
      8 ≤ slot ∧ slot < 24 ∧ y = s.ref.slots.get slot ∧ y.enable = true ∧ y.levelDead = false ∧ l = (if y.overrideLevel then y.cfgLevel
        else 15) →
      ∃ t, exec (.levelTimeout slot) s = .next t ∧ (t.ref.slots.get slot).levelDead = true ∧ (t.ref.slots.get slot).level = l ∧
        (t.ref.slots.get slot).rxLevel = 15 ∧ y.levelSeen + (if (s.ports.get y.src).isSelvedge then 16 * msC else 5 * secC) ≤ t.now) ∧
  (∀ (port : Nat) (s : State),
      port < 256 ∧ s.esmcPorts.contains port = true ∧ s.portUp port = true →
      ∃ t, exec (.esmcPduTx port) s = .next t ∧ t.ref =
        { s.ref with esmcDue := s.ref.esmcDue.filter (· ≠ port), esmcSent := (port, (esmcCodes s.ref.level).1 * 256 + (esmcCodes s.ref.level).2) :: s.ref.esmcSent })
        ∧
  (∀ (output : Nat) (y : PpsOut) (s : State),
      output < 2 ∧ y = s.ref.pps.get output ∧ y.enable = true ∧ y.squelched = false ∧ y.direct = true →
      ∃ t, exec (.ppsOutPulse output) s = .next t ∧ (t.ref.pps.get output).residual = 0 ∧ (t.ref.pps.get output).direct = false ∧
        (t.ref.pps.get output).pulses = y.pulses + 1 ∧ ((t.ref.pps.get output).lastPulse - y.offset) % secU = 0 ∧ s.ktime ≤ (t.ref.pps.get
        output).lastPulse) ∧
  (∀ (output : Nat) (y : ClkOut) (s : State),
      output < 4 ∧ y = s.ref.clk.get output ∧ y.enable = true ∧ y.ktime = true ∧ y.squelched = false ∧ y.residual ≠ 0 →
      ∃ t, exec (.clkoutAligned output) s = .next t ∧ t.ref =
        { s.ref with clk := s.ref.clk.set output { y with residual := 0, since := t.now } } ∧ t.hasRaised 809 Ev.clkoutAligned = true ∧
        y.slewAt + ceilDiv (y.residual.natAbs * secC) (max 1 y.slew) ≤ t.now) ∧
  (∀ (a : Allowance) (s : State),
      s.time.allowance = some a →
      ∃ t, exec .allowanceExpired s = .next t ∧ t.time = { s.time with allowance := none } ∧ t.hasRaised 656 Ev.allowanceExpired = true ∧
        (s.time.tickOn = true → s.time.tick0 + a.expiry ≤ t.now)) ∧
  (∀ (s : State),
      s.time.held = true →
      ∃ t, exec .holdEnd s = .next t ∧ t.time = { s.time with held := false } ∧ t.hasRaised 656 Ev.holdEnd = true ∧ (s.time.tickOn = true
        → s.time.tick0 + s.seg.tickAt s.time.wMax ≤ t.now)) ∧
  (∀ (pf1 : Bool) (s : State),
      pf1 = false →
      ∃ t, exec (.take pf1) s = .next t ∧ t.time =
        { s.time with ticket0 := s.time.ticket0 + 1, snaps0 := s.time.snaps0.set (s.time.ticket0.toNat % 16) { ticket := s.time.ticket0, w := s.wTime, held := s.time.held, unset := !s.time.set_, tick := s.tick } })
        ∧
  (∀ (queue : Nat) (x : Tsq) (r : TsqReq) (s : State),
      queue < 4 ∧ x = s.time.tsqs.get queue ∧ firstDeadline x.reqs = some r ∧ x.enable = true ∧ x.refusedRun = 0 ∧ s.tsqMarks queue = [] ∧
        (x.reqs.any fun y => y.final_.isSome) = false →
      ∃ t, exec (.tsqStampTimeout queue) s = .next t ∧ (t.time.tsqs.get queue).reqs = x.reqs.erase r ∧ (t.time.tsqs.get queue).wr = x.wr +
        1 ∧ ((t.time.tsqs.get queue).entries.get (x.wr.toNat % 64)).id = r.id ∧ ((t.time.tsqs.get queue).entries.get (x.wr.toNat %
        64)).kind = (if r.sent.isSome then 0 else 2)) ∧
  (∀ (queue : Nat) (value : BitVec 32) (x : Tsq) (s : State),
      queue < 4 ∧ s.streamOwned (9 + queue) = false ∧ x = s.time.tsqs.get queue ∧ dist32 x.rd value ≤ x.fill →
      ∃ t, exec (.tsqRdCountWrite queue value) s = .next t ∧ (t.time.tsqs.get queue).rd = value ∧ (x.refusedRun = 0 → s.tsqMarks queue =
        [] → (x.reqs.any fun y => y.final_.isSome) = false → t.time.tsqs.get queue = { x with rd := value })) ∧
  (∀ (port : Nat) (msg : PtpRx) (n : Nat) (s : State),
      port < 256 ∧ s.instOf port = some n ∧ s.portUp port = true ∧ s.messageFails n port msg = none ∧ msg.kind = .announce →
      ∃ t, exec (.ptpMessageRx port msg) s = .next t ∧ ((t.ptp.ports.get port).foreign.any fun f => decide (f.clock = msg.clock ∧
        f.portNumber = msg.portNumber ∧ f.prio1 = msg.prio1 ∧ f.steps = msg.steps ∧ f.heard.head? = some s.now)) = true) ∧
  (∀ (port : Nat) (kind : PtpType) (tick sub : Nat) (n : Nat) (s : State),
      port < 256 ∧ kind = .announce ∧ (s.ptp.ports.get port).preEnd = none ∧ s.instOf port = some n ∧ s.portUp port = true ∧
        (s.ptp.ports.get port).state = .master ∧ s.ptpMuted = false →
      ∃ t, exec (.ptpMessageTx port kind tick sub) s = .next t ∧ (t.ptp.ports.get port).seqAnnounce = ((s.ptp.ports.get port).seqAnnounce
        + 1) % 65536) ∧
  (∀ (inst : Nat) (n : Nat) (q : PtpSource) (s : State),
      inst < 4 ∧ (s.ptp.insts.get inst).announceEnd = some n ∧ (s.ptp.insts.get inst).parent = some q ∧ (((s.instPorts inst).filterMap fun
        p => (s.ptp.ports.get p).annEnd).all fun k => decide (n ≤ k)) = true →
      ∃ t, exec (.announceReceiptTimeout inst) s = .next t ∧ n ≤ t.now ∧ ((t.ptp.ports.get q.port).foreign.any fun f => f.same q) = false
        ∧ (t.ref.slots.get (virtSlot inst)).active = false ∧ t.hasRaised (instSrc inst) Ev.masterLoss = true) ∧
  (∀ (inst : Nat) (n : Nat) (s : State),
      inst < 4 ∧ (s.ptp.insts.get inst).syncEnd = some n →
      ∃ t, exec (.syncReceiptTimeout inst) s = .next t ∧ n ≤ t.now ∧ (t.ptp.insts.get inst).syncEnd = none ∧ (t.ref.slots.get (virtSlot
        inst)).active = false ∧ t.hasRaised (instSrc inst) Ev.masterLoss = true) ∧
  (∀ (port : Nat) (r : PtpReq) (l : List PtpReq) (n : Nat) (x : PtpPort) (s : State),
      port < 256 ∧ s.instOf port = some n ∧ x = s.ptp.ports.get port ∧ x.reqs = r :: l →
      ∃ t, exec (.delayResponseTimeout port) s = .next t ∧ r.at_ + 4 * logCycles x.logDelay ≤ t.now ∧ (t.ptp.ports.get port).reqs = l ∧
        (t.ptp.ports.get port).unanswered = x.unanswered + 1) ∧
  (∀ (slot : Nat) (d : Nat) (s : State),
      slot < 28 ∧ 24 ≤ slot ∧ (s.ptp.insts.get (slot - 24)).delayEnd = some d →
      ∃ t, exec (.delayCoastExpiry slot) s = .next t ∧ d ≤ t.now ∧ (t.ptp.insts.get (slot - 24)).delayEnd = none ∧ (t.ref.slots.get
        slot).active = false ∧ t.hasRaised (instSrc (slot - 24)) Ev.masterLoss = true ∧ ((s.ptp.insts.get (slot - 24)).slavePort.all fun q
        => decide ((t.ptp.ports.get q).rtts = [])) = true) ∧
  (∀ (port : Nat) (y : Asym) (s : State),
      port < 256 ∧ y = s.ptp.asym.get port ∧ y.dual = true ∧ y.fallback = false →
      ∃ t, exec (.asymFallback port) s = .next t ∧ y.lastAccept + cyclesOf y.coast ≤ t.now ∧ (t.ptp.asym.get port).fallback = true ∧
        (t.ptp.asym.get y.partner).fallback = true ∧ t.hasRaised 815 Ev.asymFallback = true) ∧
  (∀ (chan : Nat) (k : Stamp) (l : List Stamp) (y : McChan) (n : Int) (d : Int) (s : State),
      chan < 4 ∧ y = s.stitch.mc.get chan ∧ y.marks = k :: l ∧ y.tracked = true ∧ y.orbitLen ≠ 0 ∧ n = y.cycles (instQ k.tick k.sub +
        y.markOffset * 25) ∧ 4294967296 ≤ n % 4294967296 * 10 ∧ n % 4294967296 * 10 ≤ 9 * 4294967296 ∧ d = y.deltaOf (y.bunchOf n) →
      ∃ t, exec (.markerEdge chan) s = .next t ∧ (t.stitch.mc.get chan).marks = l ∧ (t.stitch.mc.get chan).delta = d ∧ (t.stitch.mc.get
        chan).markGap = 0 ∧ (t.stitch.mc.get chan).markLostRaised = false ∧ -(y.orbitLen : Int) ≤ 2 * d ∧ 2 * d < (y.orbitLen : Int)) ∧
  (∀ (chan : Nat) (y : McChan) (s : State),
      chan < 4 ∧ y = s.stitch.mc.get chan ∧ y.enable = true ∧ y.tracked = true ∧ y.markSrc ≠ 3 ∧ 4 ≤ y.markGap ∧ y.markLostRaised = false
        →
      ∃ t, exec (.markerLost chan) s = .next t ∧ t.stitch =
        { s.stitch with mc := s.stitch.mc.upd chan fun z => { z with markLostRaised := true } } ∧ t.hasRaised (mcSrc chan) Ev.markerLost =
        true) ∧
  (∀ (chan : Nat) (y : McChan) (s : State),
      chan < 4 ∧ y = s.stitch.mc.get chan ∧ y.enable = true ∧ y.state = .track →
      ∃ t, exec (.mcActivityTimeout chan) s = .next t ∧ (t.stitch.mc.get chan).state = .coast ∧ (t.stitch.mc.get chan).coastEnd = some
        (t.now + cyclesOf y.coastLim) ∧ y.lastSeen + cyclesOf y.actLim ≤ t.now ∧ t.events.pending.getLsbD (mcSrc chan) = true) ∧
  (∀ (chan : Nat) (n : Nat) (s : State),
      chan < 4 ∧ (s.stitch.mc.get chan).state = .coast ∧ (s.stitch.mc.get chan).coastEnd = some n →
      ∃ t, exec (.mcCoastLimit chan) s = .next t ∧ (t.stitch.mc.get chan).valid = false ∧ (t.stitch.mc.get chan).coastEnd = none ∧
        (t.stitch.mc.get chan).state = .coast ∧ n ≤ t.now) ∧
  (∀ (chan : Nat) (y : McChan) (s : State),
      chan < 4 ∧ y = s.stitch.mc.get chan ∧ y.enable = true ∧ y.tracked = true ∧ y.orbitLen ≠ 0 ∧ y.state ≠ .acquire ∧ y.setCount = none →
      ∃ t, exec (.orbitStart chan) s = .next t ∧ (t.stitch.mc.get chan).orbit = (y.orbit + 1) % 18446744073709551616 ∧ (t.stitch.mc.get
        chan).markGap = y.markGap + 1 ∧ (t.stitch.mc.get chan).framePos = (if y.frameCur ≤ y.framePos + 1 then 0 else y.framePos + 1)) ∧
  (∀ (port : Nat) (bytes : List Byte) (ended : Bool) (taps symbols tick : Nat) (s : State),
      port < 256 ∧ ended = true ∧ 64 ≤ bytes.length ∧ bytes.length ≤ 256 ∧ fcsOf bytes = 0 ∧ s.time.tick0 + tick ≤ s.now ∧ (s.takesFrame
        port (s.rxStamp port taps symbols).1 && s.glob.pdOn.getLsbD 3) = true →
      ∃ t, exec (.parseWindowClose port bytes ended taps symbols tick) s = .next t ∧ t.stats.live.get (portCtr port 0) = satAdd 64
        (s.stats.live.get (portCtr port 0)) 1 ∧ t.stats.live.get (portCtr port 8) = satAdd 64 (s.stats.live.get (portCtr port 8))
        bytes.length ∧ (s.pair.enable = true → s.pair.role = .syncing → t.core = s.core)) ∧
  (∀ (frame : Nat) (f : Frame) (s : State),
      s.core.frames.find frame = some f ∧ f.decided = false ∧ f.bad = false →
      ∃ t, exec (.admissionDecision frame) s = .next t ∧ (s.time.tickOn = true → s.time.tick0 + (f.closeAt + 120) ≤ t.now) ∧
        ((t.core.frames.find frame).all fun g => g.decided) = true) ∧
  (∀ (frame : Nat) (bytes : List Byte) (tick : Nat) (f : Frame) (s : State),
      s.core.frames.find frame = some f ∧ f.done = false ∧ 256 < bytes.length ∧ bytes.take 256 = f.bytes ∧ bytes.length ≤ f.maxFrame ∧
        fcsOf bytes = 0 ∧ (f.exc ≠ 0 ∨ f.parsed.truncated bytes.length = false) →
      ∃ t, exec (.frameEnd frame bytes tick) s = .next t ∧ ((t.core.frames.find frame).all fun g => g.done && decide (g.bytes = bytes ∧
        g.len = bytes.length ∧ g.bad = f.bad)) = true ∧ 1 ≤ t.stats.live.get (portCtr f.port 0)) ∧
  (∀ (s : State),
      ∃ t, exec .cellSlot s = .next t ∧ (s.time.tickOn = true → s.time.tick0 + (s.tick / 4 + 1) * 4 ≤ t.now) ∧ t.core.frames =
        s.core.frames ∧ t.core.sent = s.core.sent ∧ (s.core.copies.all fun q => decide (s.core.copies.find q.1 = some q.2 → q.2.crossed ≤
        (t.core.copies.get q.1).crossed)) = true) ∧
  (∀ (port tick sub : Nat) (k : Nat) (s : State),
      port < 256 ∧ s.time.tick0 + (tick - 117) ≤ s.now ∧ (s.ports.get port).configured = true ∧ (s.portState port = .up ∨ s.portState port
        = .binding) ∧ (s.core.ports.get port).sending = none ∧ s.nextGuaranteed port = some k ∧ (s.core.copies.get k).deadline = none →
      ∃ t, exec (.egressFrameBoundary port tick sub) s = .next t ∧ (t.core.ports.get port).sending = some k ∧ (t.core.copies.get
        k).sending = true) ∧
  (∀ (port tick : Nat) (k : Nat) (x : Copy) (s : State),
      port < 256 ∧ (s.core.ports.get port).sending = some k ∧ x = s.core.copies.get k ∧ (x.stomp.isSome = true ∨ 0 < x.cells ∧ x.crossed =
        x.cells) ∧ s.time.tick0 + tick ≤ s.now →
      ∃ t, exec (.copySent port tick) s = .next t ∧ t.core.copies = s.core.copies.del k ∧ (t.core.sent.head?.map fun r => (r.port, r.tc,
        r.tick, r.sub, r.stomp)) = some (port, x.tc, x.txTick, x.txSub, x.stomp) ∧ t.core.sent.tail = s.core.sent ∧ (x.port = port →
        (t.core.ports.get port).sending = none)) ∧
  (∀ (k : Nat) (s : State),
      s.core.skein = .ready ∧ s.skeinCells + 16 ≤ skeinSize ∧ s.engineNext s.core.spillPtr ((s.core.voqs.filter fun q => decide
        (((s.spillBurst q.1 q.2).foldl (fun a x => a + x.2.2) 0) = 16)).map (·.1)) = some k →
      ∃ t, exec .spillBurst s = .next t ∧ t.core.spillPtr = (k + 1) % 131072 ∧ t.core.skSpilled = s.core.skSpilled + 16 ∧
        (s.core.copies.all fun q => decide ((s.core.copies.get q.1).inSkein ≤ (t.core.copies.get q.1).inSkein ∧ (t.core.copies.get
        q.1).arrived = (s.core.copies.get q.1).arrived)) = true) ∧
  (∀ (k : Nat) (s : State),
      s.core.skein = .ready ∧ s.engineNext s.core.returnPtr ((s.core.voqs.filter fun q => s.voqInSkein q.2 && decide (s.voqHeadCells q.2 <
        (s.core.classes.get (voqClass q.1)).returnLow)).map (·.1)) = some k →
      ∃ t, exec .returnBurst s = .next t ∧ t.core.returnPtr = (k + 1) % 131072 ∧ t.core.skReturned = s.core.skReturned + (s.returnCells 16
        (s.core.voqs.get k)).foldl (fun a x => a + x.2) 0) ∧
  (∀ (pass : Bool) (s : State),
      s.core.skein = .off ∧ s.glob.pdOn.getLsbD 5 = true →
      ∃ t, exec (.skeinInitDone pass) s = .next t ∧ t.core = { s.core with skein := if pass then .ready else .failed } ∧ t.hasRaised 827
        (if pass then Ev.skeinReady else Ev.skeinFault) = true) ∧
  (∀ (copy : Nat) (fixed : Bool) (s : State),
      s.core.skein = .ready ∧ fixed = true →
      ∃ t, exec (.skeinCellError copy fixed) s = .next t ∧ t.core = { s.core with skCorrected := satAdd 64 s.core.skCorrected 1 }) ∧
  (∀ (s : State),
      s.core.skein = .ready →
      ∃ t, exec .skeinFault s = .next t ∧ t.core.skein = .failed ∧ t.hasRaised 827 Ev.skeinFault = true ∧ (t.core.copies.all fun q =>
        decide (q.2.inSkein = 0)) = true) ∧
  (∀ (copies : List Nat) (location : Nat) (fixed : Bool) (s : State),
      location < 524288 ∧ fixed = true ∧ (copies.all fun k => s.core.copies.has k) = true →
      ∃ t, exec (.cellEccError copies location fixed) s = .next t ∧ t.core = { s.core with corrected := satAdd 64 s.core.corrected 1 }) ∧
  (∀ (tile port cls : Nat) (egress : Bool) (l : List Nat) (s : State),
      tile < 64 ∧ port < 256 ∧ cls < 8 ∧ l = (if egress then s.core.egress.get (8 * port + cls) else s.core.voqs.get (voqKey tile port
        cls)) →
      ∃ t, exec (.queueFlushed tile port cls egress) s = .next t ∧ t.hasRaised (672 + (if egress then tileOf port else tile))
        Ev.queueFlushed = true ∧ (l.all fun k => !t.core.copies.has k || (t.core.copies.get k).stomp.isSome) = true) ∧
  (∀ (value : BitVec 32) (s : State),
      s.streamOwned 8 = false ∧ dist32 s.core.capture.rd value ≤ s.core.capture.fill →
      ∃ t, exec (.capRdCountWrite value) s = .next t ∧ t.core.capture.rd = value ∧ (s.core.capture.wait = [] → s.core.capture.held = [] →
        s.core.capture.lostRun = 0 → t.core.capture = { s.core.capture with rd := value })) ∧
  (∀ (y : Capture) (s : State),
      y = s.core.capture ∧ y.fill ≠ 0 ∧ y.idleTimeout ≠ 0 ∧ y.timeoutSeen ≠ some y.rd.toNat →
      ∃ t, exec .capTimeout s = .next t ∧ t.core = { s.core with capture := { y with timeoutSeen := some y.rd.toNat } } ∧ t.hasRaised 828
        Ev.capTimeout = true ∧ (y.recs.get (y.rd.toNat % 262144)).written + y.idleTimeout * usC ≤ t.now)

/-- The steps of tables, the pair, mailboxes, chains, the host and the event controller take place. In every state that meets what the rule
of the step asks, exec answers a next state that holds its own effect. One clause each for: contractDrained, tableScrub, tableRebuilt,
aclScrub, dupEntryExpiry, sessionExpiry, debugTapInstruction, partnerHello, joinTimeout, pairAliveEdge, heartbeatLost, pairAliveToggle,
pairWatchdogExpiry, plSilent, keepaliveTx, healthReportTx, healthReportRx, healthLost, timeProbe, alignTickStart, selfTest, pairTestEnd,
lifelineCycleEnd, commitMarkerRx, lifelineAckRx, lifelineNackRx, lifelineConfirmRx, lifelineApply, commitTimeout, xfeedCopyRx,
digestBlockClose, digestOutcomeTimeout, digestRecordRx, bootConfigDone, keeperRestartDone, mailboxFetch, mbFault, submitCountWrite,
respRdCountWrite, mailboxEnableSet, mailboxEnableClear, mailboxDrained, mailboxReset, abortAll, abortPos, commandTimeout, chainStart,
chainAbort, chainMove, dmaBurst, chainLoop, chainWait, waitConditionMet, waitTimeout, chainSignal, chainEnd, cqRoom, cqRdCountWrite,
dmaWatchdogExpiry, budgetExhausted, dmaPcieError, pf0FunctionLevelReset, pf1FunctionLevelReset, hotReset, busMasterEnable, ctxInject,
ctxReset, slowPathFrame, vectorTimerExpiry, msixMessageSend, maskWrite, vecCtrlWrite, logRdCountWrite, snapNow, snapAtFence, snapDone,
readClearField, registerWrite. () -/
def Obligations.CompletionsOfPairAndHostRows : Prop :=
  (∀ (port cls : Nat) (y : Contract) (s : State),
      port < 256 ∧ 4 ≤ cls ∧ cls < 8 ∧ s.contracts.table.find (contractKey port cls) = some y ∧ y.state = .draining ∧ y.copies = 0 →
      ∃ t, exec (.contractDrained port cls) s = .next t ∧ t.contracts.table.length ≤ s.contracts.table.length ∧ t.events.pending.getLsbD
        829 = true ∧ ((s.contracts.table.map (·.1)).Nodup → t.contracts.table.has (contractKey port cls) = false)) ∧
  (∀ (table location : Nat) (fixed keyOk : Bool) (s : State),
      locationOk table location = true ∧ fixed = true →
      ∃ t, exec (.tableScrub table location fixed keyOk) s = .next t ∧ t.fwd = { s.fwd with corrected := satAdd 64 s.fwd.corrected 1 } ∧
        t.stats.live.get (deviceCtr 0x1018) = satAdd 64 (s.stats.live.get (deviceCtr 0x1018)) 1) ∧
  (∀ (table location : Nat) (s : State),
      locationOk table location = true ∧ s.isLost table location = true ∧ [2, 3, 9, 10].contains table = true ∧ s.fwd.badCopies.contains
        (table, location) = false →
      ∃ t, exec (.tableRebuilt table location) s = .next t ∧ t.fwd =
        { s.fwd with lost := s.fwd.lost.filter fun x => !decide (x.table = table ∧ x.loc = location) } ∧ t.isLost table location = false ∧
        t.hasRaised 826 Ev.tableRebuilt = true) ∧
  (∀ (failing : List Nat) (s : State),
      (failing.all fun n => decide (n < 32768)) = true →
      ∃ t, exec (.aclScrub failing) s = .next t ∧ (failing.all fun n => (t.parse.acl.find n).all fun y => y.lost) = true ∧
        (s.parse.acl.all fun q => !failing.contains q.1 || decide (t.parse.acl.find q.1 = (s.parse.acl.find q.1).map fun y =>
        { y with lost := true })) = true) ∧
  (∀ (source : Nat) (y : DupEntry) (s : State),
      source < 65536 ∧ s.pair.dup.find source = some y →
      ∃ t, exec (.dupEntryExpiry source) s = .next t ∧ t.pair = { s.pair with dup := s.pair.dup.del source } ∧ y.lastSeen + secC ≤ t.now)
        ∧
  (∀ (n : Nat) (s : State),
      s.fw.sessionEnd = some n →
      ∃ t, exec .sessionExpiry s = .next t ∧ t.fw.sessionEnd = none ∧ n ≤ t.now) ∧
  (∀ (instr : TapInstr) (n : Nat) (s : State),
      instr = .halt n ∧ n < 14 ∧ Debug.permits s.fw.debug instr = true ∧ (s.fw.cores.get n).state = 1 →
      ∃ t, exec (.debugTapInstruction instr) s = .next t ∧ (t.fw.cores.get n).state = 2 ∧ t.fw.tap = .halt n) ∧
  (∀ (strap : Bool) (epoch order stepping : Nat) (s : State),
      s.pair.enable = true ∧ s.pair.role = .joining ∧ s.pair.watchdogDead = false ∧ strap ≠ s.fuses.pairStrap ∧ stepping = 0xB0 ∧ decide
        (order = 1 ∨ order = 2) = s.fuses.orderCode.skein ∧ (epoch < s.pair.epoch ∨ epoch = s.pair.epoch ∧ s.fuses.pairStrap = false) →
      ∃ t, exec (.partnerHello strap epoch order stepping) s = .next t ∧ t.pair.role = .active ∧ t.pair.partnerEpoch = epoch ∧
        t.pair.epoch = (max s.pair.epoch epoch + 1) % 2 ^ 64 ∧ t.pair.joinEnd = none) ∧
  (∀ (n : Nat) (s : State),
      s.pair.joinEnd = some n ∧ s.pair.role = .joining →
      ∃ t, exec .joinTimeout s = .next t ∧ t.pair.role = .active ∧ t.pair.joinEnd = none ∧ n ≤ t.now ∧ t.pair.epoch = (max s.pair.epoch
        s.pair.partnerEpoch + 1) % 2 ^ 64) ∧
  (∀ (cycle stable : Nat) (n : Nat) (s : State),
      4 ≤ stable ∧ s.now ≤ cycle ∧ s.pair.aliveEdge = some n ∧ 625 ≤ cycle - n ∧ cycle - n ≤ 1875 →
      ∃ t, exec (.pairAliveEdge cycle stable) s = .next t ∧ t.pair.aliveRun = min 64 (s.pair.aliveRun + 1) ∧ t.pair.alive = (s.pair.alive
        || decide (64 ≤ s.pair.aliveRun + 1)) ∧ t.pair.aliveEdge = some cycle ∧ t.pair.aliveIn = !s.pair.aliveIn ∧ t.now = cycle) ∧
  (∀ (n : Nat) (s : State),
      s.pair.aliveEdge = some n ∧ s.pair.alive = true →
      ∃ t, exec .heartbeatLost s = .next t ∧ t.pair.alive = false ∧ t.pair.aliveRun = 0 ∧ n + 8 * usC ≤ t.now ∧ t.events.pending.getLsbD
        753 = true ∧ (s.pair.enable = true → s.pair.role = .standby → s.pair.healthLost = true → t.pair.role = .active)) ∧
  (∀ (n : Nat) (s : State),
      s.time.tickOn = true ∧ n = (s.tick / 1250 + 1) * 1250 →
      ∃ t, exec .pairAliveToggle s = .next t ∧ s.time.tick0 + n ≤ t.now ∧ t.pair.aliveOut = (if (s.pdOn 1 && !s.pair.watchdogDead &&
        decide (s.pair.role ≠ .alone ∧ s.pair.role ≠ .mismatch ∧ n % 320000000 ≠ 0)) = true then !s.pair.aliveOut else s.pair.aliveOut)) ∧
  (∀ (s : State),
      s.pair.enable = true ∧ s.pair.watchdogDead = false ∧ s.pair.role ≠ .alone ∧ s.pair.role ≠ .mismatch →
      ∃ t, exec .pairWatchdogExpiry s = .next t ∧ t.pair.watchdogDead = true ∧ t.pair.aliveOut = false ∧ t.pair.joinEnd = none ∧
        t.pair.role = (if s.pair.role = .active ∨ s.pair.role = .standby ∨ s.pair.role = .syncing then .joining else s.pair.role)) ∧
  (∀ (s : State),
      s.pair.linkUp = true ∧ s.pair.silent = false →
      ∃ t, exec .plSilent s = .next t ∧ t.pair.silent = true ∧ s.pair.controlRx + 20 * usC ≤ t.now ∧ t.hasRaised 754 Ev.plSilent = true ∧
        (s.pair.enable = true → s.pair.role = .standby → (s.pair.alive = false ∨ s.pair.healthLost = true) → t.pair.role = .active)) ∧
  (∀ (s : State),
      s.pair.linkUp = true ∧ s.pair.watchdogDead = false →
      ∃ t, exec .keepaliveTx s = .next t ∧ t.pair.control.head? = some .keepAlive ∧ t.pair.control.tail = s.pair.control ∧
        t.pair.controlTx = t.now ∧ s.pair.controlTx + 5 * usC ≤ t.now) ∧
  (∀ (s : State),
      s.pair.linkUp = true ∧ s.pair.role ≠ .alone ∧ s.pair.role ≠ .mismatch →
      ∃ t, exec .healthReportTx s = .next t ∧ t.pair =
        { s.pair with healthTx := s.healthBytes, cycleFaults := 0, cycleUnresolved := 0, control := .health s.healthBytes :: s.pair.control, controlTx := s.now })
        ∧
  (∀ (bytes : List Byte) (s : State),
      bytes.length = 64 ∧ s.pair.enable = true ∧ s.pair.role ≠ .alone ∧ s.pair.role ≠ .mismatch →
      ∃ t, exec (.healthReportRx bytes) s = .next t ∧ t.pair.controlRx = s.now ∧ (reportValid bytes = false ∨ (s.pair.healthCycle.any fun
        n => decide (fbn bytes 8 8 ≤ n)) = true → t.pair = { s.pair with controlRx := s.now, silent := false })) ∧
  (∀ (s : State),
      s.pair.healthCycle.isSome = true ∧ s.pair.healthLost = false ∧ s.pair.enable = true →
      ∃ t, exec .healthLost s = .next t ∧ t.pair.healthLost = true ∧ t.pair.healthOk = false ∧ (t.ref.slots.get 28).rxLevel = 15 ∧
        s.pair.healthAt + 2 * cyclesOf s.pair.cfg.cycle ≤ t.now ∧ t.hasRaised 756 Ev.healthLost = true) ∧
  (∀ (t1 t2 t3 t4 partner : Int) (o : Int) (s : State),
      s.pair.enable = true ∧ s.pair.linkUp = true ∧ s.pair.role ≠ .alone ∧ s.pair.role ≠ .mismatch ∧ o = probeOffset t1 t2 t3 t4
        s.pair.cfg.plAsym ∧ (s.pair.role = .active ∨ alignedAt o = true) →
      ∃ t, exec (.timeProbe t1 t2 t3 t4 partner) s = .next t ∧ t.pair.role = s.pair.role ∧ t.pair.aligned = alignedAt o ∧
        t.pair.tickOffset = (if s.pair.aligned && alignedAt o && decide (roundDiv o 65536 = s.offsetC) then s.pair.tickOffset else o) ∧
        t.pair.timeError = partner - s.ktime) ∧
  (∀ (edge : Nat) (s : State),
      s.power.stage = .pd1 ∧ s.power.resetting = some 3 ∧ s.glob.rootRunning = true ∧ s.pdOn 1 = true ∧ s.now ≤ edge →
      ∃ t, exec (.alignTickStart edge) s = .next t ∧ t.time.tickOn = true ∧ t.time.tick0 = edge + s.pair.alignDelay ∧ t.power.stage = .pd2
        ∧ t.glob.keeperOnCtrl = true) ∧
  (∀ (test : Nat) (pass : Bool) (s : State),
      test < 8 ∧ pass = true →
      ∃ t, exec (.selfTest test pass) s = .next t ∧ t.pair.selfFail = s.pair.selfFail.set test 0 ∧ t.pair.critical = (List.range 8).any
        fun i => selfCritical i ((s.pair.selfFail.set test 0).get i)) ∧
  (∀ (n : Nat) (s : State),
      s.pair.testEnd = some n →
      ∃ t, exec .pairTestEnd s = .next t ∧ t.pair.testEnd = none ∧ n ≤ t.now) ∧
  (∀ (s : State),
      s.pair.enable = true ∧ s.time.tickOn = true ∧ s.pair.role = .active ∧ (s.pair.linkUp && decide (s.pair.partnerRole = .standby ∨
        s.pair.partnerRole = .syncing)) = true ∧ s.fence.active = [] →
      ∃ t, exec .lifelineCycleEnd s = .next t ∧ t.pair.sentJournal = (s.pair.sentJournal ++ s.pair.journal).take 16384 ∧ t.pair.journal =
        (s.pair.sentJournal ++ s.pair.journal).drop 16384 ∧ t.pair.sentCycle = some (s.pair.sentCycle.getD s.pair.cycleNo)) ∧
  (∀ (cycle applyAt : Nat) (crcOk : Bool) (journal : List RawCmd) (s : State),
      s.takesJournals = true ∧ s.glob.keeperRestarting = false ∧ crcOk = true ∧ (s.pair.committedNo.all fun n => decide (cycle = n ∨ cycle
        = n + 1)) = true →
      ∃ t, exec (.commitMarkerRx cycle applyAt crcOk journal) s = .next t ∧ t.pair.committed = journal ∧ t.pair.committedNo = some cycle ∧
        t.pair.applied = false ∧ t.pair.confirmed = false ∧ t.pair.applyAt = some applyAt ∧ t.pair.frogRun = 0 ∧ t.pair.markerSeen = true
        ∧ t.pair.control = .ack cycle :: s.pair.control) ∧
  (∀ (cycle : Nat) (a : Nat) (s : State),
      s.pair.sentCycle = some cycle ∧ s.pair.applyAt = some a ∧ s.pair.role = .active ∧ s.tick + 20 * usC ≤ a →
      ∃ t, exec (.lifelineAckRx cycle) s = .next t ∧ t.pair.confirmed = true ∧ t.pair.lastCommit = s.now ∧ t.pair.control = .confirm cycle
        :: s.pair.control) ∧
  (∀ (cycle : Nat) (s : State),
      s.pair.role = .active ∧ s.pair.sentCycle = some cycle →
      ∃ t, exec (.lifelineNackRx cycle) s = .next t ∧ t.pair =
        { s.pair with controlRx := s.now, silent := false, confirmed := false, applyAt := none }) ∧
  (∀ (cycle : Nat) (a : Nat) (s : State),
      s.pair.applyAt = some a ∧ s.takesJournals = true ∧ s.pair.committedNo = some cycle ∧ s.tick + 10 * usC ≤ a →
      ∃ t, exec (.lifelineConfirmRx cycle) s = .next t ∧ t.pair = { s.pair with controlRx := s.now, silent := false, confirmed := true })
        ∧
  (∀ (a : Nat) (n : Nat) (s : State),
      s.pair.applyAt = some a ∧ s.pair.confirmed = true ∧ s.time.tickOn = true ∧ s.pair.enable = true ∧ s.pair.role = .active ∧
        s.pair.sentCycle = some n ∧ s.pair.waits = [] ∧ s.fence.active = [] →
      ∃ t, exec .lifelineApply s = .next t ∧ s.time.tick0 + a ≤ t.now ∧ t.pair.sentJournal = [] ∧ t.pair.sentCycle = none ∧ t.pair.applyAt
        = none ∧ t.pair.confirmed = false ∧ t.pair.reportCycle = n ∧ t.pair.role = (if s.pair.switchover = true then .standby else
        .active)) ∧
  (∀ (w : JournalWait) (l : List JournalWait) (s : State),
      (s.pair.waits.filter fun z => !(s.pair.confirmed && s.pair.sentJournal.contains z.cmd)) = w :: l →
      ∃ t, exec .commitTimeout s = .next t ∧ w.joined + s.pair.cfg.commitTimeout * cyclesOf s.pair.cfg.cycle ≤ t.now ∧ ((w :: l).all fun z
        => decide (z.joined + s.pair.cfg.commitTimeout * cyclesOf s.pair.cfg.cycle ≤ s.now → t.pair.waits.contains z = false)) = true) ∧
  (∀ (cross : Bool) (port source seq egress : Nat) (bytes : List Byte) (tick sub : Nat) (stale coast : Bool) (kSec kSub : Nat) (s :
    State),
      port < 256 ∧ source < 65536 ∧ seq < 2 ^ 24 ∧ egress < 256 ∧ 64 ≤ bytes.length ∧ bytes.length ≤ 16384 ∧ s.pairServing = true →
      ∃ t, exec (.xfeedCopyRx cross port source seq egress bytes tick sub stale coast kSec kSub) s = .next t ∧ t.core.nextFrame =
        s.core.nextFrame + 1) ∧
  (∀ (source block : Nat) (d : DigestRec) (s : State),
      source < 65536 ∧ block < 16384 ∧ ((s.pair.dup.get source).blocks.find? fun z => z.block = block) = some d ∧ d.closed = false →
      ∃ t, exec (.digestBlockClose source block) s = .next t ∧ d.last + cyclesOf s.pair.cfg.closeTimeout ≤ t.now ∧ t.pair.control.contains
        (.decision source block d.nS d.hS d.hD d.exempt d.nXdrop d.hXdrop) = true ∧ (((t.pair.dup.get source).blocks.find? fun z =>
        z.block = block).all fun z => z.closed) = true) ∧
  (∀ (source block : Nat) (d : DigestRec) (s : State),
      source < 65536 ∧ block < 16384 ∧ ((s.pair.dup.get source).blocks.find? fun z => z.block = block) = some d →
      ∃ t, exec (.digestOutcomeTimeout source block) s = .next t ∧ d.last + cyclesOf s.pair.cfg.outcomeTimeout ≤ t.now ∧ ((t.pair.dup.get
        source).blocks.any fun z => decide (z.block = block)) = false ∧ (d.sent = false → t.pair.cycleUnresolved = satAdd 32
        s.pair.cycleUnresolved (d.nS - d.resolved))) ∧
  (∀ (source block : Nat) (part : DigestPart) (n : Nat) (a : Nat) (b : Nat) (s : State),
      source < 65536 ∧ block < 16384 ∧ s.pair.dup.has source = true ∧ (s.pair.dup.get source).partner = [] ∧ part = .outcome n a b →
      ∃ t, exec (.digestRecordRx source block part) s = .next t ∧ (t.pair.dup.get source).partner =
        [{ block := block, nDel := n, nBen := a, nFlt := b, sent := true }] ∧ (t.pair.dup.get source).blocks = (s.pair.dup.get
        source).blocks) ∧
  (∀ (s : State),
      s.power.stage = .config ∧ s.glob.keeperRestarting = false →
      ∃ t, exec .bootConfigDone s = .next t ∧ t.power.stage = .ready ∧ t.power.resetting = none ∧ t.fw.configDone = true ∧
        t.events.pending.getLsbD 768 = true ∧ t.power.bootMs = (t.now - t.power.bootStart) / msC) ∧
  (∀ (s : State),
      s.glob.keeperRestarting = true ∧ s.glob.keeperWaiting = [] →
      ∃ t, exec .keeperRestartDone s = .next t ∧ t.glob.keeperRestarting = false ∧ t.pair.heldMarkers = [] ∧ t.events.pending.getLsbD 830
        = true) ∧
  (∀ (mb : Nat) (entry ext : List Byte) (x : Mailbox) (s : State),
      mb < 8 ∧ s.mayFetch mb = true ∧ x = s.mbs.get mb →
      ∃ t, exec (.mailboxFetch mb entry ext) s = .next t ∧ (t.mbs.get mb).fetch = x.fetch + 1 ∧ (t.mbs.get mb).submit = x.submit ∧
        ((t.mbs.get mb).abortedAhead.contains x.fetch) = false) ∧
  (∀ (mb : Nat) (extension : Bool) (a : Nat) (y : Mailbox) (s : State),
      mb < 8 ∧ s.mayFetch mb = true ∧ y = s.mbs.get mb ∧ a = (if extension then y.extBase.toNat + 512 * (y.fetch.toNat % 256) else
        y.cmdBase.toNat + 64 * (y.fetch.toNat % 256)) →
      ∃ t, exec (.mbFault mb extension) s = .next t ∧ t.mbs = s.mbs.set mb
        { y with state := .fault, fetchFault := true, faultAddr := BitVec.ofNat 64 a, faultCleared := false } ∧ t.hasRaised (mbSrc mb)
        Ev.mbFault = true) ∧
  (∀ (mb : Nat) (value : BitVec 32) (y : Mailbox) (s : State),
      mb < 8 ∧ y = s.mbs.get mb ∧ dist32 y.respRd value ≤ 256 ∧ dist32 y.respRd y.submit ≤ dist32 y.respRd value ∧ value ≠ y.submit →
      ∃ t, exec (.submitCountWrite mb value) s = .next t ∧ (t.mbs.get mb).submit = value ∧ (t.mbs.get mb).fetch = y.fetch ∧ (t.mbs.get
        mb).done = y.done ∧ (t.mbs.get mb).doors.length = y.doors.length + 1) ∧
  (∀ (mb : Nat) (value : BitVec 32) (y : Mailbox) (s : State),
      mb < 8 ∧ y = s.mbs.get mb ∧ dist32 y.respRd value ≤ dist32 y.respRd y.done →
      ∃ t, exec (.respRdCountWrite mb value) s = .next t ∧ t.mbs = s.mbs.set mb { y with respRd := value }) ∧
  (∀ (mb : Nat) (s : State),
      mb < 8 ∧ (s.mbs.get mb).state ≠ .fault →
      ∃ t, exec (.mailboxEnableSet mb) s = .next t ∧ t.mbs = s.mbs.upd mb fun x => { x with enable := true, state := .running }) ∧
  (∀ (mb : Nat) (s : State),
      mb < 8 ∧ (s.mbs.get mb).state = .running →
      ∃ t, exec (.mailboxEnableClear mb) s = .next t ∧ t.mbs = s.mbs.upd mb fun x => { x with enable := false, state := .draining }) ∧
  (∀ (mb : Nat) (s : State),
      mb < 8 ∧ (s.mbs.get mb).state = .draining ∧ (s.mbs.get mb).done = (s.mbs.get mb).fetch →
      ∃ t, exec (.mailboxDrained mb) s = .next t ∧ t.mbs = s.mbs.upd mb fun x => { x with state := .disabled }) ∧
  (∀ (mb : Nat) (s : State),
      mb < 8 ∧ ((s.mbs.get mb).state = .disabled ∨ (s.mbs.get mb).state = .fault) →
      ∃ t, exec (.mailboxReset mb) s = .next t ∧ (t.mbs.get mb).fetch = (s.mbs.get mb).submit ∧ (t.mbs.get mb).submit = (s.mbs.get
        mb).submit ∧ (t.mbs.get mb).state = (s.mbs.get mb).state ∧ (t.mbs.get mb).abortedAhead = []) ∧
  (∀ (mb : Nat) (x : Mailbox) (s : State),
      mb < 8 ∧ x = s.mbs.get mb ∧ dist32 x.done x.fetch ≤ dist32 x.done x.submit ∧ (x.inFlight.all fun k => decide (dist32 x.done k.pos <
        dist32 x.done x.fetch)) = true →
      ∃ t, exec (.abortAll mb) s = .next t ∧ ((t.mbs.get mb).inFlight.all fun k => k.committed || k.aborted || k.early.isSome) = true ∧
        (t.mbs.get mb).fetch = x.fetch ∧ (t.mbs.get mb).submit = x.submit) ∧
  (∀ (mb : Nat) (pos : BitVec 32) (x : Mailbox) (s : State),
      mb < 8 ∧ x = s.mbs.get mb ∧ dist32 x.done pos < dist32 x.done x.fetch ∧ dist32 x.done pos < dist32 x.done x.submit →
      ∃ t, exec (.abortPos mb pos) s = .next t ∧ ((t.mbs.get mb).inFlight.all fun k => decide (k.pos ≠ pos) || k.committed || k.aborted ||
        k.early.isSome) = true ∧ (t.mbs.get mb).fetch = x.fetch) ∧
  (∀ (mb : Nat) (k : MbCmd) (l : List MbCmd) (s : State),
      mb < 8 ∧ (s.mbs.get mb).inFlight = k :: l ∧ k.committed = false ∧ k.aborted = false ∧ k.early = none ∧ s.fence.waiting.contains
        (.mailbox mb) = false ∧ s.fence.active = [] →
      ∃ t, exec (.commandTimeout mb) s = .next t ∧ (s.fence.waiting = [] → t.cmd.opcode = k.opcode ∧ t.cmd.status = stTimeout) ∧
        t.events.pending.getLsbD (mbSrc mb) = true ∧ ((t.mbs.get mb).inFlight.length ≤ l.length) ∧ (k.started = true → k.startAt +
        k.timeout * msC ≤ t.now)) ∧
  (∀ (chan : Nat) (y : Chan) (s : State),
      chan < 32 ∧ y = s.host.chans.get chan ∧ (y.state = .idle ∨ y.state = .halted) →
      ∃ t, exec (.chainStart chan) s = .next t ∧ (t.host.chans.get chan).state = .running ∧ (t.host.chans.get chan).pc = y.chainAddr ∧
        (t.host.chans.get chan).retired = 0 ∧ (t.host.chans.get chan).budgetUsed = 0 ∧ (t.host.chans.get chan).loops = [none, none, none,
        none]) ∧
  (∀ (chan : Nat) (s : State),
      chan < 32 ∧ (s.host.chans.get chan).live = true →
      ∃ t, exec (.chainAbort chan) s = .next t ∧ t.chainEnded chan 2 0 .idle = true ∧ t.hasRaised (dmaSrc chan) Ev.dmaAborted = true) ∧
  (∀ (chan : Nat) (instr : List Byte) (i : ChainInstr) (s : State),
      chan < 32 ∧ instr.length = 32 ∧ s.fetches chan = true ∧ i = chainInstr instr ∧ i.op = 1 ∧ i.moveOk = true ∧ (i.stream.all fun k =>
        !s.streamBusy chan k && !s.streamOff k) = true ∧ s.moveBlocked i = none →
      ∃ t, exec (.chainMove chan instr) s = .next t ∧ (t.host.chans.get chan).move = some i ∧ (t.host.chans.get chan).moveDone = 0 ∧
        (t.host.chans.get chan).moveRead = 0 ∧ (t.host.chans.get chan).funnel = [] ∧ (t.host.chans.get chan).pc = (s.host.chans.get
        chan).pc) ∧
  (∀ (chan : Nat) (data : List Byte) (i : ChainInstr) (x : Chan) (s : State),
      chan < 32 ∧ x = s.host.chans.get chan ∧ x.move = some i ∧ x.state = .running ∧ s.host.bme = true ∧ x.gate = none ∧ s.burstBehind
        chan = false ∧ s.moveBlocked i = none ∧ i.b3 = 0 ∧ i.dstFixed = false ∧ x.moveRead = i.w4 ∧ x.moveDone < i.w4 ∧ s.writeLen chan i
        = x.funnel.length ∧ x.moveDone + x.funnel.length = i.w4 ∧ i.q16 + i.w4 < 2 ^ 64 ∧ data = [] →
      ∃ t, exec (.dmaBurst chan data) s = .next t ∧ (t.host.chans.get chan).move = none ∧ (t.host.chans.get chan).pc = x.pc + 32 ∧
        (t.host.chans.get chan).retired = inc32 x.retired ∧ ((List.range x.funnel.length).all fun k => decide (hostRead t.hostMem (i.q16 +
        x.moveDone + k) = x.funnel[k]?)) = true) ∧
  (∀ (chan : Nat) (instr : List Byte) (i : ChainInstr) (x : Chan) (l : Option Nat) (s : State),
      chan < 32 ∧ instr.length = 32 ∧ s.fetches chan = true ∧ i = chainInstr instr ∧ i.op = 2 ∧ i.loopOk = true ∧ x = s.host.chans.get
        chan ∧ l = (if i.w4 = 0 then some 0 else if (x.loops.getD i.b1 none).getD i.w4 = 0 then none else some ((x.loops.getD i.b1
        none).getD i.w4 - 1)) →
      ∃ t, exec (.chainLoop chan instr) s = .next t ∧ (t.host.chans.get chan).pc = (if l = none then x.pc + 32 else BitVec.ofNat 64 i.q8)
        ∧ (t.host.chans.get chan).retired = inc32 x.retired ∧ (t.host.chans.get chan).budgetUsed = x.budgetUsed + 1) ∧
  (∀ (chan : Nat) (instr : List Byte) (i : ChainInstr) (x : Chan) (s : State),
      (chan < 32 ∧ instr.length = 32 ∧ s.fetches chan = true ∧ i = chainInstr instr ∧ i.op = 3 ∧ i.waitOk = true ∧ (i.b2 = 0 →
        s.streamBusy chan i.b3 = false ∧ s.streamOff i.b3 = false) ∧ x = s.host.chans.get chan) →
      ∃ t, exec (.chainWait chan instr) s = .next t ∧ (if s.gateHolds chan i.gate = true then (t.host.chans.get chan).state = .running ∧
        (t.host.chans.get chan).pc = x.pc + 32 ∧ (t.host.chans.get chan).retired = inc32 x.retired ∧ (t.host.chans.get chan).gate = (if
        i.b1 = 1 then some i.gate else x.gate) else (t.host.chans.get chan).state = .waiting ∧ (t.host.chans.get chan).wait = some i ∧
        (t.host.chans.get chan).pc = x.pc ∧ (t.host.chans.get chan).deadline = s.waitEnd i.gate.timeout)) ∧
  (∀ (chan : Nat) (i : ChainInstr) (x : Chan) (s : State),
      chan < 32 ∧ x = s.host.chans.get chan ∧ x.state = .waiting ∧ x.wait = some i ∧ s.gateHolds chan i.gate = true →
      ∃ t, exec (.waitConditionMet chan) s = .next t ∧ (t.host.chans.get chan).state = .running ∧ (t.host.chans.get chan).pc = x.pc + 32 ∧
        (t.host.chans.get chan).retired = inc32 x.retired ∧ (t.host.chans.get chan).wait = none ∧ (t.host.chans.get chan).deadline = none)
        ∧
  (∀ (chan : Nat) (n : Nat) (s : State),
      chan < 32 ∧ (s.host.chans.get chan).deadline = some n ∧ (s.host.chans.get chan).state = .waiting ∧ s.host.bme = true →
      ∃ t, exec (.waitTimeout chan) s = .next t ∧ n ≤ t.now ∧ t.chainEnded chan 3 6 .halted = true) ∧
  (∀ (chan : Nat) (instr : List Byte) (i : ChainInstr) (x : Chan) (s : State),
      chan < 32 ∧ instr.length = 32 ∧ s.fetches chan = true ∧ i = chainInstr instr ∧ i.op = 4 ∧ i.signalOk = true ∧ x = s.host.chans.get
        chan ∧ (s.fence.marks.any fun m => decide (m.stream = .cq chan)) = false ∧ x.marks = [] →
      ∃ t, exec (.chainSignal chan instr) s = .next t ∧ (if x.cqSize ≠ 0 ∧ (x.held ≠ [] ∨ x.cqFull = true) then (t.host.chans.get
        chan).state = .stalled ∧ (t.host.chans.get chan).pc = x.pc ∧ (t.host.chans.get chan).held.length = x.held.length + 1 ∧ t.hasRaised
        (dmaSrc chan) Ev.dmaStall = true else (t.host.chans.get chan).pc = x.pc + 32 ∧ (t.host.chans.get chan).retired = inc32 x.retired ∧
        (t.host.chans.get chan).cqWr = (if x.cqSize = 0 then x.cqWr else x.cqWr + 1) ∧ (4 ≤ i.b1 → t.hasRaised (dmaSrc chan) Ev.dmaSignal
        = true))) ∧
  (∀ (chan : Nat) (instr : List Byte) (i : ChainInstr) (x : Chan) (s : State),
      chan < 32 ∧ instr.length = 32 ∧ s.fetches chan = true ∧ i = chainInstr instr ∧ i.op = 5 ∧ i.endOk = true ∧ x = s.host.chans.get chan
        ∧ (s.fence.marks.any fun m => decide (m.stream = .cq chan)) = false ∧ x.marks = [] →
      ∃ t, exec (.chainEnd chan instr) s = .next t ∧ (if x.cqSize ≠ 0 ∧ (x.held ≠ [] ∨ x.cqFull = true) then (t.host.chans.get chan).state
        = .stalled ∧ (t.host.chans.get chan).held.length = x.held.length + 1 else (t.host.chans.get chan).state = .idle ∧
        (t.host.chans.get chan).outcome = 1 ∧ (t.host.chans.get chan).posAddr = x.pc ∧ (t.host.chans.get chan).cqWr = (if x.cqSize = 0
        then x.cqWr else x.cqWr + 1) ∧ (4 ≤ i.b1 → t.hasRaised (dmaSrc chan) Ev.dmaEnd = true))) ∧
  (∀ (chan : Nat) (y : Chan) (s : State),
      chan < 32 ∧ s.host.bme = true ∧ y = s.host.chans.get chan ∧ y.cqFull = false ∧ y.held ≠ [] →
      ∃ t, exec (.cqRoom chan) s = .next t ∧ (t.host.chans.get chan).held.length < y.held.length ∧ ((t.host.chans.get chan).held = [] ∨
        (t.host.chans.get chan).cqFull = true)) ∧
  (∀ (chan : Nat) (value : BitVec 32) (s : State),
      chan < 32 ∧ dist32 (s.host.chans.get chan).cqRd value ≤ (s.host.chans.get chan).cqFill →
      ∃ t, exec (.cqRdCountWrite chan value) s = .next t ∧ t.host =
        { s.host with chans := s.host.chans.upd chan fun y => { y with cqRd := value } }) ∧
  (∀ (chan : Nat) (y : Chan) (s : State),
      chan < 32 ∧ y = s.host.chans.get chan ∧ y.live = true ∧ y.watchdog ≠ 0 →
      ∃ t, exec (.dmaWatchdogExpiry chan) s = .next t ∧ y.startAt + y.watchdog * msC ≤ t.now ∧ t.chainEnded chan 3 5 .halted = true) ∧
  (∀ (chan : Nat) (y : Chan) (s : State),
      chan < 32 ∧ y = s.host.chans.get chan ∧ y.live = true ∧ y.spent = true ∧ y.state ≠ .stalled →
      ∃ t, exec (.budgetExhausted chan) s = .next t ∧ t.chainEnded chan 3 4 .halted = true) ∧
  (∀ (chan : Nat) (timeout : Bool) (s : State),
      chan < 32 ∧ (s.host.chans.get chan).live = true ∧ (s.host.chans.get chan).state = .running ∧ s.host.bme = true →
      ∃ t, exec (.dmaPcieError chan timeout) s = .next t ∧ t.chainEnded chan 3 (if timeout then 2 else 3) .halted = true) ∧
  (∀ (s : State),
      ∃ t, exec .pf0FunctionLevelReset s = .next t ∧ t.host.bme = false ∧ t.host.mps = 128 ∧ t.host.mrrs = 512 ∧ t.host.pmD3 = false ∧
        t.host.flushed = s.host.flushed + 1 ∧ t.events.mask = BitVec.allOnes 1024 ∧ t.events.routes = [] ∧ t.events.intNEnable = false ∧
        t.events.msixEnable = false) ∧
  (∀ (s : State),
      ∃ t, exec .pf1FunctionLevelReset s = .next t ∧ t.host = { s.host with flushed := s.host.flushed + 1 }) ∧
  (∀ (s : State),
      ∃ t, exec .hotReset s = .next t ∧ t.host.flushed = s.host.flushed + 2 ∧ t.host.bme = false ∧ t.host.mps = 128 ∧ t.host.mrrs = 512 ∧
        t.events.mask = BitVec.allOnes 1024 ∧ t.events.routes = []) ∧
  (∀ (on : Bool) (s : State),
      on = true ∧ s.host.bme = false →
      ∃ t, exec (.busMasterEnable on) s = .next t ∧ t.host.bme = true ∧ (∀ n ∈ List.range 32, (t.host.chans.get n).deadline =
        (s.host.chans.get n).deadline.map (fun d => d + (s.now - s.host.bmeOffAt)) ∧ (t.host.chans.get n).state = (s.host.chans.get
        n).state)) ∧
  (∀ (queue : Nat) (b : List Byte) (d : List Byte) (s : State),
      queue < 4 ∧ b = (s.host.ctx.get queue).bytes ∧ 32 ≤ b.length ∧ ctxRecordLen b ≤ b.length ∧ s.pdOn 3 = true ∧ (b.getD 1 0).toNat = 1
        ∧ d = slice b 32 (fb2 b 2) →
      ∃ t, exec (.ctxInject queue) s = .next t ∧ (t.host.ctx.get queue).bytes = b.drop (ctxRecordLen b) ∧ t.core.nextFrame =
        s.core.nextFrame + 1 ∧ (t.core.frames.get s.core.nextFrame).port = fb2 b 4 ∧ (t.core.frames.get s.core.nextFrame).bytes = d ++
        leBytes 4 (crc32 d)) ∧
  (∀ (value : BitVec 32) (s : State),
      ∃ t, exec (.ctxReset value) s = .next t ∧ (∀ q, q < 4 → t.host.ctx.get q = if value.toNat.testBit q then {} else s.host.ctx.get q))
        ∧
  (∀ (index : Nat) (f : SlowFrame) (s : State),
      s.parse.slow[index]? = some f ∧ ((s.parse.slow.take index).any fun g => decide (g.port = f.port ∧ g.reason = f.reason)) = false ∧
        s.slowCores = true ∧ s.terminates f = true →
      ∃ t, exec (.slowPathFrame index) s = .next t ∧ t.parse.slow = s.parse.slow.eraseIdx index ∧ t.parse.reserve = s.parse.reserve -
        f.cells ∧ t.host = s.host) ∧
  (∀ (vec : Nat) (n : Nat) (s : State),
      vec < 64 ∧ (s.events.vecs.get vec).timer = some n →
      ∃ t, exec (.vectorTimerExpiry vec) s = .next t ∧ n ≤ t.now ∧ (t.events.vecs.get vec).timer = none ∧ (t.events.vecs.get vec).held =
        0) ∧
  (∀ (vec : Nat) (y : Vec) (s : State),
      vec < 64 ∧ y = s.events.vecs.get vec ∧ y.pba = true ∧ s.events.msixEnable = true ∧ s.events.fnMask = false ∧ y.masked = false ∧
        s.host.bme = true →
      ∃ t, exec (.msixMessageSend vec) s = .next t ∧ t.events =
        { s.events with messages := vec :: s.events.messages, vecs := s.events.vecs.set vec { y with pba := false, sent := y.sent + 1 } })
        ∧
  (∀ (reg : Nat) (value : BitVec 32) (s : State),
      reg < 32 →
      ∃ t, exec (.maskWrite reg value) s = .next t ∧ (∀ i ∈ List.range 1024, t.events.mask.getLsbD i = (if i / 32 = reg then value.getLsbD
        (i % 32) else s.events.mask.getLsbD i)) ∧ t.events.pending = s.events.pending) ∧
  (∀ (vec : Nat) (value : BitVec 32) (n : Nat) (a : Nat) (s : State),
      (vec < 64 ∧ n = value.toNat % 512 ∧ a = value.toNat / 65536 ∧ 1 ≤ n ∧ n ≤ 256 ∧ (2 ≤ n → a ≠ 0) ∧ ((s.events.vecs.get vec).held = 0
        ∨ (s.events.vecs.get vec).held < n)) →
      ∃ t, exec (.vecCtrlWrite vec value) s = .next t ∧ t.events =
        { s.events with vecs := s.events.vecs.upd vec fun x => { x with coalCount := n, coalTime := a } }) ∧
  (∀ (value : BitVec 32) (s : State),
      dist32 s.events.logRd value ≤ dist32 s.events.logRd s.events.logWr →
      ∃ t, exec (.logRdCountWrite value) s = .next t ∧ t.events.logRd = value) ∧
  (∀ (s : State),
      s.stats.busy = false ∧ s.stats.armed = false →
      ∃ t, exec .snapNow s = .next t ∧ t.stats.busy = true ∧ t.stats.armed = false ∧ t.stats.pendTick = s.tick ∧ t.stats.pendEpoch = 0 ∧
        t.stats.snap = s.stats.snap ∧ t.stats.seq = s.stats.seq) ∧
  (∀ (s : State),
      s.stats.busy = false ∧ s.stats.armed = false →
      ∃ t, exec .snapAtFence s = .next t ∧ t.stats = { s.stats with armed := true }) ∧
  (∀ (s : State),
      s.stats.busy = true →
      ∃ t, exec .snapDone s = .next t ∧ t.stats =
        { s.stats with busy := false, snap := s.stats.hidden, seq := s.stats.seq + 1, tick := s.stats.pendTick, epoch := s.stats.pendEpoch }
        ∧ t.events.pending.getLsbD 832 = true) ∧
  (∀ (win : Win) (req : ReadReq) (s : State),
      win = .bar0 ∧ req.offset = 0 ∧ req.enables = [true, true, true, true] →
      ∃ t, exec (.readClearField win req) s = .next t ∧ t.host = { s.host with readData := [some 0x3A, some 0x1F, some 0x56, some 0x62] })
        ∧
  (∀ (win : Win) (offset : Nat) (data : List (Option Byte)) (w : BitVec 32) (s : State),
      offset + 4 ≤ win.size ∧ offset % 4 = 0 ∧ data = (leBytes 4 w.toNat).map some →
      ∃ t, exec (.registerWrite win offset data) s = .next t ∧ t = s.writeReg win offset w.toNat)

/-- A step takes the command at the front of the queue and runs it on the rest. For every command c, every list l of commands that wait
behind it and every state, the step of the state whose queue is c and then l is exec of c on the same state with the queue l. () -/
def Obligations.StepRunsFrontCommand : Prop :=
  ∀ (c : Instr) (l : List Instr) (s : State), step { s with pending := c :: l } = exec c { s with pending := l }

/-- With no command waiting, one CORE cycle passes. The model's choice (log entry 2): a step on an empty queue goes to a next state one CORE
cycle later, still with an empty queue; only the fences whose instants have come, their answers and the snapshot they take may change; with
no fence active nothing but the clock changes. () -/
def Obligations.IdleStep : Prop :=
  ∀ s : State, s.pending = [] →
    ∃ t, step s = .next t ∧ t.now = s.now + 1 ∧ t.pending = [] ∧
      keepsAllBut [.clock, .stats, .cmd, .mbs, .hostMem, .events, .fence, .fw, .pair] s t ∧
      (s.fence.active = [] → t = { s with now := s.now + 1 })

/-- What the device holds after reset. After reset only power domain 0 is on; the timescale is UNSET, TICK does not run and both tickets are
0; ROLE_EPOCH is 0 and the unit is ALONE; every mailbox is DISABLED with its counts at 0 and a TIMEOUT of 1,000 ms; every event source is
masked and none is pending; every DMA channel and queue, ring and table entry is at its reset value; no fence has been taken; and the
model's own queue is empty. (R18, R189, R195, R382, R443, R517) -/
def Obligations.ResetState : Prop :=
  State.reset.glob.pdOn = 1 ∧ State.reset.time.set_ = false ∧ State.reset.time.tickOn = false ∧
  State.reset.time.ticket0 = 0 ∧ State.reset.time.ticket1 = 0 ∧
  State.reset.pair.epoch = 0 ∧ State.reset.pair.role = .alone ∧
  (∀ m, (State.reset.mbs.get m).state = .disabled ∧ (State.reset.mbs.get m).submit = 0 ∧ (State.reset.mbs.get m).fetch = 0 ∧
    (State.reset.mbs.get m).done = 0 ∧ (State.reset.mbs.get m).respRd = 0 ∧ (State.reset.mbs.get m).timeout = 1000) ∧
  (∀ n < 1024, State.reset.events.mask.getLsbD n = true ∧ State.reset.events.pending.getLsbD n = false) ∧
  (∀ n, State.reset.host.chans.get n = {} ∧ State.reset.tdc.rings.get n = {} ∧ State.reset.time.tsqs.get n = {} ∧
    State.reset.fwd.l2.get n = default ∧ State.reset.contracts.table.get n = default) ∧
  State.reset.fence.epoch = 0 ∧ State.reset.fence.active = [] ∧ State.reset.pending = []

/-- The state after reset meets the invariant that every step keeps. After reset every waiting command can exist, for none waits, and host
memory is in its canonical form. () -/
def Obligations.ResetMeetsInvariant : Prop :=
  State.reset.queueOk ∧ Memory.wf State.reset.hostMem = true

/-- Every step keeps the queue well formed and host memory in its canonical form. From every state whose waiting commands can all exist and
whose host memory lists its bytes at rising addresses, whatever command stands in front, a step that goes to a next state goes to one that
is so too, and its queue is the tail of the queue before. () -/
def Obligations.StepKeepsInvariant : Prop :=
  ∀ s t : State, s.queueOk → Memory.wf s.hostMem = true → step s = .next t →
    t.queueOk ∧ Memory.wf t.hostMem = true ∧ t.pending = s.pending.tail

/-- No step turns the clock back, lowers the minimum security version or takes back a key revocation. From every state, whatever command
stands in front, a next state lies at the same instant or a later one; the minimum security version is not lower; and every key slot that
was revoked is still revoked. The clock is the model's own (log entry 2). (R439, R476, R187) -/
def Obligations.StepNeverGoesBack : Prop :=
  ∀ s t : State, step s = .next t →
    s.now ≤ t.now ∧ s.fuses.minVersion ≤ t.fuses.minVersion ∧ ∀ k ∈ s.fuses.revoked, k ∈ t.fuses.revoked

/-- No command of MB0 to MB6 changes a fuse or a one-time setting. Whatever command mailbox 0 to 6 holds, but PORT_BIND_OFF and
PAIR_CONFIGURE, which may let the commands of a journal through, it leaves every fuse, strap, revocation and the minimum version as they
were, from every state. (R432, R439, R441) -/
def Obligations.OneTimeSettingsNeedMb7 : Prop :=
  ∀ (c : Instr) (m op : Nat) (s t : State), c.src = some (.mailbox m) → m < 7 → c.opcode = some op → op ≠ 0x0303 → op ≠ 0x0A01 →
    exec c s = .next t → t.fuses = s.fuses

/-- No mailbox command stops the device. Every mailbox command, from every source and in every state, goes to a next state: it neither
faults nor is refused. The bytes of an IMG_LOAD, where its read succeeds, are as many as its length says. (R450, R452) -/
def Obligations.MailboxCommandsAlwaysGoOn : Prop :=
  ∀ (c : Instr) (op : Nat) (s : State), c.opcode = some op →
    (∀ src target addr length l, c = .imgLoad src target addr length (some l) → l.length = length) → ∃ t, exec c s = .next t

/-- On a unit of a pair that is not ACTIVE, a mirrored command that does not only read is refused and changes nothing. A command of a
mirrored family that does not only read, from a mailbox, the base image's configuration or no ring, that passes the checks before the role,
on a unit of an enabled pair that is not ACTIVE, completes with ST_NOT_PERMITTED and nothing but its answer changes. PAIR_CONFIGURE and
PAIR_SWITCHOVER have rules of their own, and IMG_LOAD to BASE is not mirrored (the model's reading, log entry 88). (R400, R395, R439, R450)
-/
def Obligations.RefusedByRole : Prop :=
  ∀ (c : Instr) (src : CmdSrc) (op : Nat) (s : State), c.src = some src → c.opcode = some op →
    ((∃ m, src = .mailbox m) ∨ src = .config ∨ src = .direct) → s.reaches c src op true = true →
    s.pair.enable = true → s.pair.role ≠ .active → mirrored op = true → readOnly op = false → unitLocal c = false → op ≠ 0x0A01 → op ≠
      0x0A04 →
    (∀ target addr length l, c = .imgLoad src target addr length (some l) → l.length = length) →
    ∃ t, exec c s = .next t ∧ t.cmd.opcode = op ∧ t.cmd.status = stNotPermitted ∧ t.cmd.result = packFrom 16 [] ∧ keepsAllBut answerParts
      s t

/-- The SEC commands act on MB7 alone, and all but three of them in an open session alone. On MB0 to MB6 every SEC command that firmware
takes up, no recovery being in progress, completes with ST_NOT_PERMITTED and changes nothing but its answer. On MB7, while the Keeper is not
restarting, SEC_CHALLENGE, SEC_RESPONSE and SEC_GET_STATUS are accepted with or without a session; every other SEC command is accepted with
an OPERATOR session open, and without one completes with ST_NOT_PERMITTED. An accepted command is one that no check before its own refuses,
its entry being laid out by the rules. (R432) -/
def Obligations.SecurityGate : Prop :=
  (∀ (c : Instr) (m op : Nat) (s : State), c.src = some (.mailbox m) → c.opcode = some op → op / 256 = 0x0C → m < 7 → s.fence.recovery =
    false →
    ∃ t, exec c s = .next t ∧ t.cmd.opcode = op ∧ t.cmd.status = stNotPermitted ∧ t.cmd.result = packFrom 16 [] ∧
      keepsAllBut answerParts s t) ∧
  (∀ (c : Instr) (op : Nat) (s : State), c.src = some (.mailbox 7) → c.opcode = some op → op / 256 = 0x0C → s.glob.keeperRestarting =
    false →
    ((op = 0x0C01 ∨ op = 0x0C02 ∨ op = 0x0C07) ∨ s.fw.sessionEnd.isSome = true) → s.headLayout (.mailbox 7) op (familyV6 c) = none →
    s.acts c (.mailbox 7) op = true ∧ ∃ t, exec c s = .next t) ∧
  (∀ (c : Instr) (op : Nat) (s : State), c.src = some (.mailbox 7) → c.opcode = some op → op / 256 = 0x0C → s.glob.keeperRestarting =
    false →
    op ≠ 0x0C01 → op ≠ 0x0C02 → op ≠ 0x0C07 → s.fw.sessionEnd = none →
    ∃ t, exec c s = .next t ∧ t.cmd.opcode = op ∧ t.cmd.status = stNotPermitted ∧ t.cmd.result = packFrom 16 [] ∧
      keepsAllBut answerParts s t)

/-- A read of TAKE returns the ticket and captures TICK and W into the slot of that ticket. In each window, a read of TAKE returns the
window's 32-bit ticket t and, with the clock where it was, stores TICK and W of that instant in slot t mod 16 of the window with SLOT_TICKET
t; every other slot, and the other window, is as before. A host read of the register at offset 0x20100 of function 0's BAR0 is such a read
of the first window, and one at offset 0x100 of function 1's BAR0 of the second: it answers the four bytes of the ticket and leaves the same
time-of-day state. (R193) -/
def Obligations.SnapshotTake : Prop :=
  (∀ (pf1 : Bool) (s : State), ∃ t, exec (.take pf1) s = .next t ∧ keepsAllBut [.time, .host] s t ∧
    t.host.readData = (leBytes 4 (if pf1 then s.time.ticket1 else s.time.ticket0).toNat).map some ∧
    (∀ k : Nat, t.time.snaps0.get k = if pf1 = false ∧ k = s.time.ticket0.toNat % 16 then
      { ticket := s.time.ticket0, w := s.wTime, held := s.time.held, unset := !s.time.set_, tick := s.tick } else s.time.snaps0.get k) ∧
    (∀ k : Nat, t.time.snaps1.get k = if pf1 = true ∧ k = s.time.ticket1.toNat % 16 then
      { ticket := s.time.ticket1, w := s.wTime, held := s.time.held, unset := !s.time.set_, tick := s.tick } else s.time.snaps1.get k) ∧
    t.time.ticket0 = (if pf1 then s.time.ticket0 else s.time.ticket0 + 1) ∧
    t.time.ticket1 = (if pf1 then s.time.ticket1 + 1 else s.time.ticket1)) ∧
  (∀ (pf1 : Bool) (s : State), ∃ t u, exec (.take pf1) s = .next u ∧
    exec (.readClearField (if pf1 then .pf1 else .bar0) { offset := if pf1 then 0x100 else 0x20100, enables := [true, true, true, true] })
      s = .next t ∧
    keepsAllBut [.time, .host] s t ∧ t.time = u.time ∧ t.host.readData = u.host.readData)

/-- INT_N is low exactly while it is enabled and a source is pending, unmasked and routed to it. Where the routes list each source at most
once, INT_N is asserted exactly when INT_N_ENABLE is 1 and some source has PENDING 1, MASK 0 and ROUTE.INT_N 1; and neither MSI-X, its
function mask, its vectors with their coalescing, nor a message sent changes it. A host read of bit 0 of EC_STATUS, at offset 0x30004 of
BAR0, shows the level. (R514) -/
def Obligations.IntNLevel : Prop :=
  (∀ e : Events, (e.routes.map (·.1)).Nodup →
    (e.intN = true ↔ e.intNEnable = true ∧ ∃ n < 1024, e.pending.getLsbD n = true ∧ e.mask.getLsbD n = false ∧ (e.routes.get n).intN =
      true)) ∧
  (∀ (e : Events) (v : Tbl Vec) (x f : Bool) (l : List Nat), Events.intN { e with vecs := v, msixEnable := x, fnMask := f, messages := l }
    = e.intN) ∧
  (∀ s : State, ∃ t, exec (.readClearField .bar0 { offset := 0x30004, enables := [true, true, true, true] }) s = .next t ∧ keepsAllBut
    [.host] s t ∧
    t.host.readData = [some (if s.events.intN then 1 else 0), some 0, some 0, some 0])

/-- A hardware step that names an object the device does not have stops. The model's choice (log entry 94): no such event can happen on the
device, so the model stops with the fault noSuchObject. So for a mailbox from 8 on, a DMA channel from 32 on, a machine-clock channel from 4
on, an MSI-X vector from 64 on, a mask register from 32 on, a lane from 264 on, a port from 256 on, a gauge region from 21 on, a delay-line
channel from 320 on, a sensor from 16 on, a supply from 9 on and a source of the duplicate table from 65536 on. () -/
def Obligations.AbsentObjectsStop : Prop :=
  (∀ (n : Nat) (s : State), 8 ≤ n → exec (.mailboxDrained n) s = .fault .noSuchObject ∧ exec (.mailboxReset n) s = .fault .noSuchObject) ∧
  (∀ (n : Nat) (s : State), 32 ≤ n → exec (.chainStart n) s = .fault .noSuchObject) ∧
  (∀ (n : Nat) (s : State), 4 ≤ n → exec (.markerEdge n) s = .fault .noSuchObject) ∧
  (∀ (n : Nat) (s : State), 64 ≤ n → exec (.vectorTimerExpiry n) s = .fault .noSuchObject) ∧
  (∀ (n : Nat) (v : BitVec 32) (s : State), 32 ≤ n → exec (.maskWrite n v) s = .fault .noSuchObject) ∧
  (∀ (n : Nat) (s : State), 264 ≤ n → exec (.los n) s = .fault .noSuchObject) ∧
  (∀ (n : Nat) (s : State), 256 ≤ n → exec (.egressQueuesEmpty n) s = .fault .noSuchObject) ∧
  (∀ (n : Nat) (s : State), 21 ≤ n → exec (.gaugePeriodicTimer n) s = .fault .noSuchObject) ∧
  (∀ (l : DllLoss) (s : State), 320 ≤ l.ch → exec (.dllUnlock l) s = .fault .noSuchObject) ∧
  (∀ (n : Nat) (s : State), 16 ≤ n → exec (.thermtrip n) s = .fault .noSuchObject) ∧
  (∀ (n : Nat) (s : State), 9 ≤ n → exec (.supplyFault n) s = .fault .noSuchObject) ∧
  (∀ (n : Nat) (s : State), 65536 ≤ n → exec (.dupEntryExpiry n) s = .fault .noSuchObject)
end

