-- ==== Sys2Proof/Laws/Bits.lean ====
section
/-!
SUPPORT. Reading a numbered table after a change of it, and host memory after a write of it.
-/
namespace Sys2Proof

@[simp] theorem Tbl.get_set_same {α : Type} [Inhabited α] (t : Tbl α) (k : Nat) (v : α) : (t.set k v).get k = v := by
  induction t with
  | nil => simp [Tbl.set, Tbl.get]
  | cons p t ih =>
    obtain ⟨i, w⟩ := p
    by_cases h1 : k < i
    · simp [Tbl.set, Tbl.get, h1]
    · by_cases h2 : k = i
      · simp [Tbl.set, Tbl.get, h2]
      · simp [Tbl.set, Tbl.get, h1, h2, Ne.symm h2, ih]

theorem Tbl.get_set_other {α : Type} [Inhabited α] (t : Tbl α) (k j : Nat) (v : α) (h : j ≠ k) : (t.set k v).get j = t.get j := by
  induction t with
  | nil => simp [Tbl.set, Tbl.get, Ne.symm h]
  | cons p t ih =>
    obtain ⟨i, w⟩ := p
    by_cases h1 : k < i
    · simp [Tbl.set, Tbl.get, h1, Ne.symm h]
    · by_cases h2 : k = i
      · subst h2; simp [Tbl.set, Tbl.get, Ne.symm h]
      · simp only [Tbl.set, Tbl.get, h1, h2, if_false]
        split <;> simp [ih]

@[simp] theorem Tbl.get_upd_same {α : Type} [Inhabited α] (t : Tbl α) (k : Nat) (f : α → α) : (t.upd k f).get k = f (t.get k) :=
  Tbl.get_set_same _ _ _

theorem Tbl.get_upd_other {α : Type} [Inhabited α] (t : Tbl α) (k j : Nat) (f : α → α) (h : j ≠ k) : (t.upd k f).get j = t.get j :=
  Tbl.get_set_other _ _ _ _ h

@[simp] theorem Tbl.find_set_same {α : Type} (t : Tbl α) (k : Nat) (v : α) : (t.set k v).find k = some v := by
  induction t with
  | nil => simp [Tbl.set, Tbl.find]
  | cons p t ih =>
    obtain ⟨i, w⟩ := p
    by_cases h1 : k < i
    · simp [Tbl.set, Tbl.find, h1]
    · by_cases h2 : k = i
      · simp [Tbl.set, Tbl.find, h2]
      · simp [Tbl.set, Tbl.find, h1, h2, Ne.symm h2, ih]

theorem Tbl.find_set_other {α : Type} (t : Tbl α) (k j : Nat) (v : α) (h : j ≠ k) : (t.set k v).find j = t.find j := by
  induction t with
  | nil => simp [Tbl.set, Tbl.find, Ne.symm h]
  | cons p t ih =>
    obtain ⟨i, w⟩ := p
    by_cases h1 : k < i
    · simp [Tbl.set, Tbl.find, h1, Ne.symm h]
    · by_cases h2 : k = i
      · subst h2; simp [Tbl.set, Tbl.find, Ne.symm h]
      · simp only [Tbl.set, Tbl.find, h1, h2, if_false]
        split <;> simp [ih]

namespace Machine

theorem hostRead_writeByte_same (m : List Host.Cell) (a : Nat) (b : Byte) : hostRead (hostWriteByte m a b) a = some b := by
  induction m with
  | nil => simp [hostWriteByte, hostRead]
  | cons p m ih =>
    obtain ⟨i, c⟩ := p
    by_cases h1 : a < i
    · simp [hostWriteByte, hostRead, h1]
    · by_cases h2 : a = i
      · simp [hostWriteByte, hostRead, h2]
      · simp [hostWriteByte, hostRead, h1, h2, Ne.symm h2, ih]

theorem hostRead_writeByte_other (m : List Host.Cell) (a j : Nat) (b : Byte) (h : j ≠ a) :
    hostRead (hostWriteByte m a b) j = hostRead m j := by
  induction m with
  | nil => simp [hostWriteByte, hostRead, Ne.symm h]
  | cons p m ih =>
    obtain ⟨i, c⟩ := p
    by_cases h1 : a < i
    · simp [hostWriteByte, hostRead, h1, Ne.symm h]
    · by_cases h2 : a = i
      · subst h2; simp [hostWriteByte, hostRead, Ne.symm h]
      · simp only [hostWriteByte, hostRead, h1, h2, if_false]
        split <;> simp [ih]

/-- The least address that a list in canonical form holds. -/
def Memory.above (a : Nat) : List Host.Cell → Bool
  | [] => true
  | (i, _) :: _ => decide (a < i)

theorem Memory.wf_cons (i : Nat) (c : Byte) (m : List Host.Cell) : Memory.wf ((i, c) :: m) = (Memory.above i m && Memory.wf m) := by
  cases m with
  | nil => simp [Memory.wf, Memory.above]
  | cons p m => obtain ⟨j, d⟩ := p; simp [Memory.wf, Memory.above]

theorem Memory.above_writeByte (m : List Host.Cell) (i a : Nat) (b : Byte) (hi : i < a) (h : Memory.above i m = true) :
    Memory.above i (hostWriteByte m a b) = true := by
  cases m with
  | nil => simpa [hostWriteByte, Memory.above] using hi
  | cons p m =>
    obtain ⟨j, c⟩ := p
    simp only [Memory.above, decide_eq_true_eq] at h
    unfold hostWriteByte
    split
    · simpa [Memory.above] using hi
    · split <;> simp [Memory.above] <;> omega

/-- Writing a byte keeps the canonical form. -/
theorem Memory.wf_writeByte (m : List Host.Cell) (a : Nat) (b : Byte) (h : Memory.wf m = true) : Memory.wf (hostWriteByte m a b) = true := by
  induction m with
  | nil => simp [hostWriteByte, Memory.wf]
  | cons p m ih =>
    obtain ⟨i, c⟩ := p
    rw [Memory.wf_cons, Bool.and_eq_true] at h
    unfold hostWriteByte
    split
    · rename_i hlt
      rw [Memory.wf_cons, Memory.wf_cons, h.1, h.2]
      simpa [Memory.above] using hlt
    · split
      · rename_i heq; subst heq; simp [Memory.wf_cons, h.1, h.2]
      · rw [Memory.wf_cons, Bool.and_eq_true]
        exact ⟨Memory.above_writeByte m i a b (by omega) h.1, ih h.2⟩

/-- Writing bytes keeps the canonical form. -/
theorem Memory.wf_write (bs : List Byte) (m : List Host.Cell) (a : Nat) (h : Memory.wf m = true) : Memory.wf (hostWrite m a bs) = true := by
  induction bs generalizing m a with
  | nil => simpa [hostWrite] using h
  | cons b bs ih => simpa [hostWrite] using ih _ _ (Memory.wf_writeByte _ _ _ h)

end Machine

end Sys2Proof
end

