-- ==== Sys2Proof/Laws/State.lean ====
section
/-!
SUPPORT. What each named update of a numbered object leaves in every part of the state: true by unfolding.
-/
namespace Sys2Proof.Machine

@[simp] theorem State.count_now {s : State} {off n : Nat} : (s.count off n).now = s.now := rfl
@[simp] theorem State.count_free {s : State} {off n : Nat} : (s.count off n).free = s.free := rfl
@[simp] theorem State.count_pending {s : State} {off n : Nat} : (s.count off n).pending = s.pending := rfl
@[simp] theorem State.count_cmd {s : State} {off n : Nat} : (s.count off n).cmd = s.cmd := rfl
@[simp] theorem State.count_hostMem {s : State} {off n : Nat} : (s.count off n).hostMem = s.hostMem := rfl
@[simp] theorem State.count_fuses {s : State} {off n : Nat} : (s.count off n).fuses = s.fuses := rfl
@[simp] theorem State.count_glob {s : State} {off n : Nat} : (s.count off n).glob = s.glob := rfl
@[simp] theorem State.count_chan {s : State} {off n : Nat} : (s.count off n).chan = s.chan := rfl
@[simp] theorem State.count_lanes {s : State} {off n : Nat} : (s.count off n).lanes = s.lanes := rfl
@[simp] theorem State.count_ports {s : State} {off n : Nat} : (s.count off n).ports = s.ports := rfl
@[simp] theorem State.count_modules {s : State} {off n : Nat} : (s.count off n).modules = s.modules := rfl
@[simp] theorem State.count_selv {s : State} {off n : Nat} : (s.count off n).selv = s.selv := rfl
@[simp] theorem State.count_tdc {s : State} {off n : Nat} : (s.count off n).tdc = s.tdc := rfl
@[simp] theorem State.count_gauge {s : State} {off n : Nat} : (s.count off n).gauge = s.gauge := rfl
@[simp] theorem State.count_ref {s : State} {off n : Nat} : (s.count off n).ref = s.ref := rfl
@[simp] theorem State.count_time {s : State} {off n : Nat} : (s.count off n).time = s.time := rfl
@[simp] theorem State.count_ptp {s : State} {off n : Nat} : (s.count off n).ptp = s.ptp := rfl
@[simp] theorem State.count_stitch {s : State} {off n : Nat} : (s.count off n).stitch = s.stitch := rfl
@[simp] theorem State.count_parse {s : State} {off n : Nat} : (s.count off n).parse = s.parse := rfl
@[simp] theorem State.count_fwd {s : State} {off n : Nat} : (s.count off n).fwd = s.fwd := rfl
@[simp] theorem State.count_core {s : State} {off n : Nat} : (s.count off n).core = s.core := rfl
@[simp] theorem State.count_contracts {s : State} {off n : Nat} : (s.count off n).contracts = s.contracts := rfl
@[simp] theorem State.count_pair {s : State} {off n : Nat} : (s.count off n).pair = s.pair := rfl
@[simp] theorem State.count_fw {s : State} {off n : Nat} : (s.count off n).fw = s.fw := rfl
@[simp] theorem State.count_mbs {s : State} {off n : Nat} : (s.count off n).mbs = s.mbs := rfl
@[simp] theorem State.count_fence {s : State} {off n : Nat} : (s.count off n).fence = s.fence := rfl
@[simp] theorem State.count_events {s : State} {off n : Nat} : (s.count off n).events = s.events := rfl
theorem State.count_stats {s : State} {off n : Nat} : (s.count off n).stats = s.stats.add s.now off n := rfl
@[simp] theorem State.count_power {s : State} {off n : Nat} : (s.count off n).power = s.power := rfl
@[simp] theorem State.count_host {s : State} {off n : Nat} : (s.count off n).host = s.host := rfl

@[simp] theorem State.updLane_now {s : State} {l : Nat} {f : Lane → Lane} : (s.updLane l f).now = s.now := rfl
@[simp] theorem State.updLane_free {s : State} {l : Nat} {f : Lane → Lane} : (s.updLane l f).free = s.free := rfl
@[simp] theorem State.updLane_pending {s : State} {l : Nat} {f : Lane → Lane} : (s.updLane l f).pending = s.pending := rfl
@[simp] theorem State.updLane_cmd {s : State} {l : Nat} {f : Lane → Lane} : (s.updLane l f).cmd = s.cmd := rfl
@[simp] theorem State.updLane_hostMem {s : State} {l : Nat} {f : Lane → Lane} : (s.updLane l f).hostMem = s.hostMem := rfl
@[simp] theorem State.updLane_fuses {s : State} {l : Nat} {f : Lane → Lane} : (s.updLane l f).fuses = s.fuses := rfl
@[simp] theorem State.updLane_glob {s : State} {l : Nat} {f : Lane → Lane} : (s.updLane l f).glob = s.glob := rfl
@[simp] theorem State.updLane_chan {s : State} {l : Nat} {f : Lane → Lane} : (s.updLane l f).chan = s.chan := rfl
theorem State.updLane_lanes {s : State} {l : Nat} {f : Lane → Lane} : (s.updLane l f).lanes = s.lanes.upd l f := rfl
@[simp] theorem State.updLane_ports {s : State} {l : Nat} {f : Lane → Lane} : (s.updLane l f).ports = s.ports := rfl
@[simp] theorem State.updLane_modules {s : State} {l : Nat} {f : Lane → Lane} : (s.updLane l f).modules = s.modules := rfl
@[simp] theorem State.updLane_selv {s : State} {l : Nat} {f : Lane → Lane} : (s.updLane l f).selv = s.selv := rfl
@[simp] theorem State.updLane_tdc {s : State} {l : Nat} {f : Lane → Lane} : (s.updLane l f).tdc = s.tdc := rfl
@[simp] theorem State.updLane_gauge {s : State} {l : Nat} {f : Lane → Lane} : (s.updLane l f).gauge = s.gauge := rfl
@[simp] theorem State.updLane_ref {s : State} {l : Nat} {f : Lane → Lane} : (s.updLane l f).ref = s.ref := rfl
@[simp] theorem State.updLane_time {s : State} {l : Nat} {f : Lane → Lane} : (s.updLane l f).time = s.time := rfl
@[simp] theorem State.updLane_ptp {s : State} {l : Nat} {f : Lane → Lane} : (s.updLane l f).ptp = s.ptp := rfl
@[simp] theorem State.updLane_stitch {s : State} {l : Nat} {f : Lane → Lane} : (s.updLane l f).stitch = s.stitch := rfl
@[simp] theorem State.updLane_parse {s : State} {l : Nat} {f : Lane → Lane} : (s.updLane l f).parse = s.parse := rfl
@[simp] theorem State.updLane_fwd {s : State} {l : Nat} {f : Lane → Lane} : (s.updLane l f).fwd = s.fwd := rfl
@[simp] theorem State.updLane_core {s : State} {l : Nat} {f : Lane → Lane} : (s.updLane l f).core = s.core := rfl
@[simp] theorem State.updLane_contracts {s : State} {l : Nat} {f : Lane → Lane} : (s.updLane l f).contracts = s.contracts := rfl
@[simp] theorem State.updLane_pair {s : State} {l : Nat} {f : Lane → Lane} : (s.updLane l f).pair = s.pair := rfl
@[simp] theorem State.updLane_fw {s : State} {l : Nat} {f : Lane → Lane} : (s.updLane l f).fw = s.fw := rfl
@[simp] theorem State.updLane_mbs {s : State} {l : Nat} {f : Lane → Lane} : (s.updLane l f).mbs = s.mbs := rfl
@[simp] theorem State.updLane_fence {s : State} {l : Nat} {f : Lane → Lane} : (s.updLane l f).fence = s.fence := rfl
@[simp] theorem State.updLane_events {s : State} {l : Nat} {f : Lane → Lane} : (s.updLane l f).events = s.events := rfl
@[simp] theorem State.updLane_stats {s : State} {l : Nat} {f : Lane → Lane} : (s.updLane l f).stats = s.stats := rfl
@[simp] theorem State.updLane_power {s : State} {l : Nat} {f : Lane → Lane} : (s.updLane l f).power = s.power := rfl
@[simp] theorem State.updLane_host {s : State} {l : Nat} {f : Lane → Lane} : (s.updLane l f).host = s.host := rfl

@[simp] theorem State.updPort_now {s : State} {p : Nat} {f : Port → Port} : (s.updPort p f).now = s.now := rfl
@[simp] theorem State.updPort_free {s : State} {p : Nat} {f : Port → Port} : (s.updPort p f).free = s.free := rfl
@[simp] theorem State.updPort_pending {s : State} {p : Nat} {f : Port → Port} : (s.updPort p f).pending = s.pending := rfl
@[simp] theorem State.updPort_cmd {s : State} {p : Nat} {f : Port → Port} : (s.updPort p f).cmd = s.cmd := rfl
@[simp] theorem State.updPort_hostMem {s : State} {p : Nat} {f : Port → Port} : (s.updPort p f).hostMem = s.hostMem := rfl
@[simp] theorem State.updPort_fuses {s : State} {p : Nat} {f : Port → Port} : (s.updPort p f).fuses = s.fuses := rfl
@[simp] theorem State.updPort_glob {s : State} {p : Nat} {f : Port → Port} : (s.updPort p f).glob = s.glob := rfl
@[simp] theorem State.updPort_chan {s : State} {p : Nat} {f : Port → Port} : (s.updPort p f).chan = s.chan := rfl
@[simp] theorem State.updPort_lanes {s : State} {p : Nat} {f : Port → Port} : (s.updPort p f).lanes = s.lanes := rfl
theorem State.updPort_ports {s : State} {p : Nat} {f : Port → Port} : (s.updPort p f).ports = s.ports.upd p f := rfl
@[simp] theorem State.updPort_modules {s : State} {p : Nat} {f : Port → Port} : (s.updPort p f).modules = s.modules := rfl
@[simp] theorem State.updPort_selv {s : State} {p : Nat} {f : Port → Port} : (s.updPort p f).selv = s.selv := rfl
@[simp] theorem State.updPort_tdc {s : State} {p : Nat} {f : Port → Port} : (s.updPort p f).tdc = s.tdc := rfl
@[simp] theorem State.updPort_gauge {s : State} {p : Nat} {f : Port → Port} : (s.updPort p f).gauge = s.gauge := rfl
@[simp] theorem State.updPort_ref {s : State} {p : Nat} {f : Port → Port} : (s.updPort p f).ref = s.ref := rfl
@[simp] theorem State.updPort_time {s : State} {p : Nat} {f : Port → Port} : (s.updPort p f).time = s.time := rfl
@[simp] theorem State.updPort_ptp {s : State} {p : Nat} {f : Port → Port} : (s.updPort p f).ptp = s.ptp := rfl
@[simp] theorem State.updPort_stitch {s : State} {p : Nat} {f : Port → Port} : (s.updPort p f).stitch = s.stitch := rfl
@[simp] theorem State.updPort_parse {s : State} {p : Nat} {f : Port → Port} : (s.updPort p f).parse = s.parse := rfl
@[simp] theorem State.updPort_fwd {s : State} {p : Nat} {f : Port → Port} : (s.updPort p f).fwd = s.fwd := rfl
@[simp] theorem State.updPort_core {s : State} {p : Nat} {f : Port → Port} : (s.updPort p f).core = s.core := rfl
@[simp] theorem State.updPort_contracts {s : State} {p : Nat} {f : Port → Port} : (s.updPort p f).contracts = s.contracts := rfl
@[simp] theorem State.updPort_pair {s : State} {p : Nat} {f : Port → Port} : (s.updPort p f).pair = s.pair := rfl
@[simp] theorem State.updPort_fw {s : State} {p : Nat} {f : Port → Port} : (s.updPort p f).fw = s.fw := rfl
@[simp] theorem State.updPort_mbs {s : State} {p : Nat} {f : Port → Port} : (s.updPort p f).mbs = s.mbs := rfl
@[simp] theorem State.updPort_fence {s : State} {p : Nat} {f : Port → Port} : (s.updPort p f).fence = s.fence := rfl
@[simp] theorem State.updPort_events {s : State} {p : Nat} {f : Port → Port} : (s.updPort p f).events = s.events := rfl
@[simp] theorem State.updPort_stats {s : State} {p : Nat} {f : Port → Port} : (s.updPort p f).stats = s.stats := rfl
@[simp] theorem State.updPort_power {s : State} {p : Nat} {f : Port → Port} : (s.updPort p f).power = s.power := rfl
@[simp] theorem State.updPort_host {s : State} {p : Nat} {f : Port → Port} : (s.updPort p f).host = s.host := rfl

@[simp] theorem State.updSelv_now {s : State} {p : Nat} {f : Selv → Selv} : (s.updSelv p f).now = s.now := rfl
@[simp] theorem State.updSelv_free {s : State} {p : Nat} {f : Selv → Selv} : (s.updSelv p f).free = s.free := rfl
@[simp] theorem State.updSelv_pending {s : State} {p : Nat} {f : Selv → Selv} : (s.updSelv p f).pending = s.pending := rfl
@[simp] theorem State.updSelv_cmd {s : State} {p : Nat} {f : Selv → Selv} : (s.updSelv p f).cmd = s.cmd := rfl
@[simp] theorem State.updSelv_hostMem {s : State} {p : Nat} {f : Selv → Selv} : (s.updSelv p f).hostMem = s.hostMem := rfl
@[simp] theorem State.updSelv_fuses {s : State} {p : Nat} {f : Selv → Selv} : (s.updSelv p f).fuses = s.fuses := rfl
@[simp] theorem State.updSelv_glob {s : State} {p : Nat} {f : Selv → Selv} : (s.updSelv p f).glob = s.glob := rfl
@[simp] theorem State.updSelv_chan {s : State} {p : Nat} {f : Selv → Selv} : (s.updSelv p f).chan = s.chan := rfl
@[simp] theorem State.updSelv_lanes {s : State} {p : Nat} {f : Selv → Selv} : (s.updSelv p f).lanes = s.lanes := rfl
@[simp] theorem State.updSelv_ports {s : State} {p : Nat} {f : Selv → Selv} : (s.updSelv p f).ports = s.ports := rfl
@[simp] theorem State.updSelv_modules {s : State} {p : Nat} {f : Selv → Selv} : (s.updSelv p f).modules = s.modules := rfl
theorem State.updSelv_selv {s : State} {p : Nat} {f : Selv → Selv} : (s.updSelv p f).selv = s.selv.upd p f := rfl
@[simp] theorem State.updSelv_tdc {s : State} {p : Nat} {f : Selv → Selv} : (s.updSelv p f).tdc = s.tdc := rfl
@[simp] theorem State.updSelv_gauge {s : State} {p : Nat} {f : Selv → Selv} : (s.updSelv p f).gauge = s.gauge := rfl
@[simp] theorem State.updSelv_ref {s : State} {p : Nat} {f : Selv → Selv} : (s.updSelv p f).ref = s.ref := rfl
@[simp] theorem State.updSelv_time {s : State} {p : Nat} {f : Selv → Selv} : (s.updSelv p f).time = s.time := rfl
@[simp] theorem State.updSelv_ptp {s : State} {p : Nat} {f : Selv → Selv} : (s.updSelv p f).ptp = s.ptp := rfl
@[simp] theorem State.updSelv_stitch {s : State} {p : Nat} {f : Selv → Selv} : (s.updSelv p f).stitch = s.stitch := rfl
@[simp] theorem State.updSelv_parse {s : State} {p : Nat} {f : Selv → Selv} : (s.updSelv p f).parse = s.parse := rfl
@[simp] theorem State.updSelv_fwd {s : State} {p : Nat} {f : Selv → Selv} : (s.updSelv p f).fwd = s.fwd := rfl
@[simp] theorem State.updSelv_core {s : State} {p : Nat} {f : Selv → Selv} : (s.updSelv p f).core = s.core := rfl
@[simp] theorem State.updSelv_contracts {s : State} {p : Nat} {f : Selv → Selv} : (s.updSelv p f).contracts = s.contracts := rfl
@[simp] theorem State.updSelv_pair {s : State} {p : Nat} {f : Selv → Selv} : (s.updSelv p f).pair = s.pair := rfl
@[simp] theorem State.updSelv_fw {s : State} {p : Nat} {f : Selv → Selv} : (s.updSelv p f).fw = s.fw := rfl
@[simp] theorem State.updSelv_mbs {s : State} {p : Nat} {f : Selv → Selv} : (s.updSelv p f).mbs = s.mbs := rfl
@[simp] theorem State.updSelv_fence {s : State} {p : Nat} {f : Selv → Selv} : (s.updSelv p f).fence = s.fence := rfl
@[simp] theorem State.updSelv_events {s : State} {p : Nat} {f : Selv → Selv} : (s.updSelv p f).events = s.events := rfl
@[simp] theorem State.updSelv_stats {s : State} {p : Nat} {f : Selv → Selv} : (s.updSelv p f).stats = s.stats := rfl
@[simp] theorem State.updSelv_power {s : State} {p : Nat} {f : Selv → Selv} : (s.updSelv p f).power = s.power := rfl
@[simp] theorem State.updSelv_host {s : State} {p : Nat} {f : Selv → Selv} : (s.updSelv p f).host = s.host := rfl

@[simp] theorem State.updMb_now {s : State} {m : Nat} {f : Mailbox → Mailbox} : (s.updMb m f).now = s.now := rfl
@[simp] theorem State.updMb_free {s : State} {m : Nat} {f : Mailbox → Mailbox} : (s.updMb m f).free = s.free := rfl
@[simp] theorem State.updMb_pending {s : State} {m : Nat} {f : Mailbox → Mailbox} : (s.updMb m f).pending = s.pending := rfl
@[simp] theorem State.updMb_cmd {s : State} {m : Nat} {f : Mailbox → Mailbox} : (s.updMb m f).cmd = s.cmd := rfl
@[simp] theorem State.updMb_hostMem {s : State} {m : Nat} {f : Mailbox → Mailbox} : (s.updMb m f).hostMem = s.hostMem := rfl
@[simp] theorem State.updMb_fuses {s : State} {m : Nat} {f : Mailbox → Mailbox} : (s.updMb m f).fuses = s.fuses := rfl
@[simp] theorem State.updMb_glob {s : State} {m : Nat} {f : Mailbox → Mailbox} : (s.updMb m f).glob = s.glob := rfl
@[simp] theorem State.updMb_chan {s : State} {m : Nat} {f : Mailbox → Mailbox} : (s.updMb m f).chan = s.chan := rfl
@[simp] theorem State.updMb_lanes {s : State} {m : Nat} {f : Mailbox → Mailbox} : (s.updMb m f).lanes = s.lanes := rfl
@[simp] theorem State.updMb_ports {s : State} {m : Nat} {f : Mailbox → Mailbox} : (s.updMb m f).ports = s.ports := rfl
@[simp] theorem State.updMb_modules {s : State} {m : Nat} {f : Mailbox → Mailbox} : (s.updMb m f).modules = s.modules := rfl
@[simp] theorem State.updMb_selv {s : State} {m : Nat} {f : Mailbox → Mailbox} : (s.updMb m f).selv = s.selv := rfl
@[simp] theorem State.updMb_tdc {s : State} {m : Nat} {f : Mailbox → Mailbox} : (s.updMb m f).tdc = s.tdc := rfl
@[simp] theorem State.updMb_gauge {s : State} {m : Nat} {f : Mailbox → Mailbox} : (s.updMb m f).gauge = s.gauge := rfl
@[simp] theorem State.updMb_ref {s : State} {m : Nat} {f : Mailbox → Mailbox} : (s.updMb m f).ref = s.ref := rfl
@[simp] theorem State.updMb_time {s : State} {m : Nat} {f : Mailbox → Mailbox} : (s.updMb m f).time = s.time := rfl
@[simp] theorem State.updMb_ptp {s : State} {m : Nat} {f : Mailbox → Mailbox} : (s.updMb m f).ptp = s.ptp := rfl
@[simp] theorem State.updMb_stitch {s : State} {m : Nat} {f : Mailbox → Mailbox} : (s.updMb m f).stitch = s.stitch := rfl
@[simp] theorem State.updMb_parse {s : State} {m : Nat} {f : Mailbox → Mailbox} : (s.updMb m f).parse = s.parse := rfl
@[simp] theorem State.updMb_fwd {s : State} {m : Nat} {f : Mailbox → Mailbox} : (s.updMb m f).fwd = s.fwd := rfl
@[simp] theorem State.updMb_core {s : State} {m : Nat} {f : Mailbox → Mailbox} : (s.updMb m f).core = s.core := rfl
@[simp] theorem State.updMb_contracts {s : State} {m : Nat} {f : Mailbox → Mailbox} : (s.updMb m f).contracts = s.contracts := rfl
@[simp] theorem State.updMb_pair {s : State} {m : Nat} {f : Mailbox → Mailbox} : (s.updMb m f).pair = s.pair := rfl
@[simp] theorem State.updMb_fw {s : State} {m : Nat} {f : Mailbox → Mailbox} : (s.updMb m f).fw = s.fw := rfl
theorem State.updMb_mbs {s : State} {m : Nat} {f : Mailbox → Mailbox} : (s.updMb m f).mbs = s.mbs.upd m f := rfl
@[simp] theorem State.updMb_fence {s : State} {m : Nat} {f : Mailbox → Mailbox} : (s.updMb m f).fence = s.fence := rfl
@[simp] theorem State.updMb_events {s : State} {m : Nat} {f : Mailbox → Mailbox} : (s.updMb m f).events = s.events := rfl
@[simp] theorem State.updMb_stats {s : State} {m : Nat} {f : Mailbox → Mailbox} : (s.updMb m f).stats = s.stats := rfl
@[simp] theorem State.updMb_power {s : State} {m : Nat} {f : Mailbox → Mailbox} : (s.updMb m f).power = s.power := rfl
@[simp] theorem State.updMb_host {s : State} {m : Nat} {f : Mailbox → Mailbox} : (s.updMb m f).host = s.host := rfl

@[simp] theorem State.updTdc_now {s : State} {c : Nat} {f : TdcChan → TdcChan} : (s.updTdc c f).now = s.now := rfl
@[simp] theorem State.updTdc_free {s : State} {c : Nat} {f : TdcChan → TdcChan} : (s.updTdc c f).free = s.free := rfl
@[simp] theorem State.updTdc_pending {s : State} {c : Nat} {f : TdcChan → TdcChan} : (s.updTdc c f).pending = s.pending := rfl
@[simp] theorem State.updTdc_cmd {s : State} {c : Nat} {f : TdcChan → TdcChan} : (s.updTdc c f).cmd = s.cmd := rfl
@[simp] theorem State.updTdc_hostMem {s : State} {c : Nat} {f : TdcChan → TdcChan} : (s.updTdc c f).hostMem = s.hostMem := rfl
@[simp] theorem State.updTdc_fuses {s : State} {c : Nat} {f : TdcChan → TdcChan} : (s.updTdc c f).fuses = s.fuses := rfl
@[simp] theorem State.updTdc_glob {s : State} {c : Nat} {f : TdcChan → TdcChan} : (s.updTdc c f).glob = s.glob := rfl
@[simp] theorem State.updTdc_chan {s : State} {c : Nat} {f : TdcChan → TdcChan} : (s.updTdc c f).chan = s.chan := rfl
@[simp] theorem State.updTdc_lanes {s : State} {c : Nat} {f : TdcChan → TdcChan} : (s.updTdc c f).lanes = s.lanes := rfl
@[simp] theorem State.updTdc_ports {s : State} {c : Nat} {f : TdcChan → TdcChan} : (s.updTdc c f).ports = s.ports := rfl
@[simp] theorem State.updTdc_modules {s : State} {c : Nat} {f : TdcChan → TdcChan} : (s.updTdc c f).modules = s.modules := rfl
@[simp] theorem State.updTdc_selv {s : State} {c : Nat} {f : TdcChan → TdcChan} : (s.updTdc c f).selv = s.selv := rfl
theorem State.updTdc_tdc {s : State} {c : Nat} {f : TdcChan → TdcChan} : (s.updTdc c f).tdc = { s.tdc with chans := s.tdc.chans.upd c f } := rfl
@[simp] theorem State.updTdc_gauge {s : State} {c : Nat} {f : TdcChan → TdcChan} : (s.updTdc c f).gauge = s.gauge := rfl
@[simp] theorem State.updTdc_ref {s : State} {c : Nat} {f : TdcChan → TdcChan} : (s.updTdc c f).ref = s.ref := rfl
@[simp] theorem State.updTdc_time {s : State} {c : Nat} {f : TdcChan → TdcChan} : (s.updTdc c f).time = s.time := rfl
@[simp] theorem State.updTdc_ptp {s : State} {c : Nat} {f : TdcChan → TdcChan} : (s.updTdc c f).ptp = s.ptp := rfl
@[simp] theorem State.updTdc_stitch {s : State} {c : Nat} {f : TdcChan → TdcChan} : (s.updTdc c f).stitch = s.stitch := rfl
@[simp] theorem State.updTdc_parse {s : State} {c : Nat} {f : TdcChan → TdcChan} : (s.updTdc c f).parse = s.parse := rfl
@[simp] theorem State.updTdc_fwd {s : State} {c : Nat} {f : TdcChan → TdcChan} : (s.updTdc c f).fwd = s.fwd := rfl
@[simp] theorem State.updTdc_core {s : State} {c : Nat} {f : TdcChan → TdcChan} : (s.updTdc c f).core = s.core := rfl
@[simp] theorem State.updTdc_contracts {s : State} {c : Nat} {f : TdcChan → TdcChan} : (s.updTdc c f).contracts = s.contracts := rfl
@[simp] theorem State.updTdc_pair {s : State} {c : Nat} {f : TdcChan → TdcChan} : (s.updTdc c f).pair = s.pair := rfl
@[simp] theorem State.updTdc_fw {s : State} {c : Nat} {f : TdcChan → TdcChan} : (s.updTdc c f).fw = s.fw := rfl
@[simp] theorem State.updTdc_mbs {s : State} {c : Nat} {f : TdcChan → TdcChan} : (s.updTdc c f).mbs = s.mbs := rfl
@[simp] theorem State.updTdc_fence {s : State} {c : Nat} {f : TdcChan → TdcChan} : (s.updTdc c f).fence = s.fence := rfl
@[simp] theorem State.updTdc_events {s : State} {c : Nat} {f : TdcChan → TdcChan} : (s.updTdc c f).events = s.events := rfl
@[simp] theorem State.updTdc_stats {s : State} {c : Nat} {f : TdcChan → TdcChan} : (s.updTdc c f).stats = s.stats := rfl
@[simp] theorem State.updTdc_power {s : State} {c : Nat} {f : TdcChan → TdcChan} : (s.updTdc c f).power = s.power := rfl
@[simp] theorem State.updTdc_host {s : State} {c : Nat} {f : TdcChan → TdcChan} : (s.updTdc c f).host = s.host := rfl

@[simp] theorem State.updRing_now {s : State} {r : Nat} {f : Ring → Ring} : (s.updRing r f).now = s.now := rfl
@[simp] theorem State.updRing_free {s : State} {r : Nat} {f : Ring → Ring} : (s.updRing r f).free = s.free := rfl
@[simp] theorem State.updRing_pending {s : State} {r : Nat} {f : Ring → Ring} : (s.updRing r f).pending = s.pending := rfl
@[simp] theorem State.updRing_cmd {s : State} {r : Nat} {f : Ring → Ring} : (s.updRing r f).cmd = s.cmd := rfl
@[simp] theorem State.updRing_hostMem {s : State} {r : Nat} {f : Ring → Ring} : (s.updRing r f).hostMem = s.hostMem := rfl
@[simp] theorem State.updRing_fuses {s : State} {r : Nat} {f : Ring → Ring} : (s.updRing r f).fuses = s.fuses := rfl
@[simp] theorem State.updRing_glob {s : State} {r : Nat} {f : Ring → Ring} : (s.updRing r f).glob = s.glob := rfl
@[simp] theorem State.updRing_chan {s : State} {r : Nat} {f : Ring → Ring} : (s.updRing r f).chan = s.chan := rfl
@[simp] theorem State.updRing_lanes {s : State} {r : Nat} {f : Ring → Ring} : (s.updRing r f).lanes = s.lanes := rfl
@[simp] theorem State.updRing_ports {s : State} {r : Nat} {f : Ring → Ring} : (s.updRing r f).ports = s.ports := rfl
@[simp] theorem State.updRing_modules {s : State} {r : Nat} {f : Ring → Ring} : (s.updRing r f).modules = s.modules := rfl
@[simp] theorem State.updRing_selv {s : State} {r : Nat} {f : Ring → Ring} : (s.updRing r f).selv = s.selv := rfl
theorem State.updRing_tdc {s : State} {r : Nat} {f : Ring → Ring} : (s.updRing r f).tdc = { s.tdc with rings := s.tdc.rings.upd r f } := rfl
@[simp] theorem State.updRing_gauge {s : State} {r : Nat} {f : Ring → Ring} : (s.updRing r f).gauge = s.gauge := rfl
@[simp] theorem State.updRing_ref {s : State} {r : Nat} {f : Ring → Ring} : (s.updRing r f).ref = s.ref := rfl
@[simp] theorem State.updRing_time {s : State} {r : Nat} {f : Ring → Ring} : (s.updRing r f).time = s.time := rfl
@[simp] theorem State.updRing_ptp {s : State} {r : Nat} {f : Ring → Ring} : (s.updRing r f).ptp = s.ptp := rfl
@[simp] theorem State.updRing_stitch {s : State} {r : Nat} {f : Ring → Ring} : (s.updRing r f).stitch = s.stitch := rfl
@[simp] theorem State.updRing_parse {s : State} {r : Nat} {f : Ring → Ring} : (s.updRing r f).parse = s.parse := rfl
@[simp] theorem State.updRing_fwd {s : State} {r : Nat} {f : Ring → Ring} : (s.updRing r f).fwd = s.fwd := rfl
@[simp] theorem State.updRing_core {s : State} {r : Nat} {f : Ring → Ring} : (s.updRing r f).core = s.core := rfl
@[simp] theorem State.updRing_contracts {s : State} {r : Nat} {f : Ring → Ring} : (s.updRing r f).contracts = s.contracts := rfl
@[simp] theorem State.updRing_pair {s : State} {r : Nat} {f : Ring → Ring} : (s.updRing r f).pair = s.pair := rfl
@[simp] theorem State.updRing_fw {s : State} {r : Nat} {f : Ring → Ring} : (s.updRing r f).fw = s.fw := rfl
@[simp] theorem State.updRing_mbs {s : State} {r : Nat} {f : Ring → Ring} : (s.updRing r f).mbs = s.mbs := rfl
@[simp] theorem State.updRing_fence {s : State} {r : Nat} {f : Ring → Ring} : (s.updRing r f).fence = s.fence := rfl
@[simp] theorem State.updRing_events {s : State} {r : Nat} {f : Ring → Ring} : (s.updRing r f).events = s.events := rfl
@[simp] theorem State.updRing_stats {s : State} {r : Nat} {f : Ring → Ring} : (s.updRing r f).stats = s.stats := rfl
@[simp] theorem State.updRing_power {s : State} {r : Nat} {f : Ring → Ring} : (s.updRing r f).power = s.power := rfl
@[simp] theorem State.updRing_host {s : State} {r : Nat} {f : Ring → Ring} : (s.updRing r f).host = s.host := rfl

@[simp] theorem State.updGroup_now {s : State} {g : Nat} {f : GateGrp → GateGrp} : (s.updGroup g f).now = s.now := rfl
@[simp] theorem State.updGroup_free {s : State} {g : Nat} {f : GateGrp → GateGrp} : (s.updGroup g f).free = s.free := rfl
@[simp] theorem State.updGroup_pending {s : State} {g : Nat} {f : GateGrp → GateGrp} : (s.updGroup g f).pending = s.pending := rfl
@[simp] theorem State.updGroup_cmd {s : State} {g : Nat} {f : GateGrp → GateGrp} : (s.updGroup g f).cmd = s.cmd := rfl
@[simp] theorem State.updGroup_hostMem {s : State} {g : Nat} {f : GateGrp → GateGrp} : (s.updGroup g f).hostMem = s.hostMem := rfl
@[simp] theorem State.updGroup_fuses {s : State} {g : Nat} {f : GateGrp → GateGrp} : (s.updGroup g f).fuses = s.fuses := rfl
@[simp] theorem State.updGroup_glob {s : State} {g : Nat} {f : GateGrp → GateGrp} : (s.updGroup g f).glob = s.glob := rfl
@[simp] theorem State.updGroup_chan {s : State} {g : Nat} {f : GateGrp → GateGrp} : (s.updGroup g f).chan = s.chan := rfl
@[simp] theorem State.updGroup_lanes {s : State} {g : Nat} {f : GateGrp → GateGrp} : (s.updGroup g f).lanes = s.lanes := rfl
@[simp] theorem State.updGroup_ports {s : State} {g : Nat} {f : GateGrp → GateGrp} : (s.updGroup g f).ports = s.ports := rfl
@[simp] theorem State.updGroup_modules {s : State} {g : Nat} {f : GateGrp → GateGrp} : (s.updGroup g f).modules = s.modules := rfl
@[simp] theorem State.updGroup_selv {s : State} {g : Nat} {f : GateGrp → GateGrp} : (s.updGroup g f).selv = s.selv := rfl
theorem State.updGroup_tdc {s : State} {g : Nat} {f : GateGrp → GateGrp} : (s.updGroup g f).tdc = { s.tdc with groups := s.tdc.groups.upd g f } := rfl
@[simp] theorem State.updGroup_gauge {s : State} {g : Nat} {f : GateGrp → GateGrp} : (s.updGroup g f).gauge = s.gauge := rfl
@[simp] theorem State.updGroup_ref {s : State} {g : Nat} {f : GateGrp → GateGrp} : (s.updGroup g f).ref = s.ref := rfl
@[simp] theorem State.updGroup_time {s : State} {g : Nat} {f : GateGrp → GateGrp} : (s.updGroup g f).time = s.time := rfl
@[simp] theorem State.updGroup_ptp {s : State} {g : Nat} {f : GateGrp → GateGrp} : (s.updGroup g f).ptp = s.ptp := rfl
@[simp] theorem State.updGroup_stitch {s : State} {g : Nat} {f : GateGrp → GateGrp} : (s.updGroup g f).stitch = s.stitch := rfl
@[simp] theorem State.updGroup_parse {s : State} {g : Nat} {f : GateGrp → GateGrp} : (s.updGroup g f).parse = s.parse := rfl
@[simp] theorem State.updGroup_fwd {s : State} {g : Nat} {f : GateGrp → GateGrp} : (s.updGroup g f).fwd = s.fwd := rfl
@[simp] theorem State.updGroup_core {s : State} {g : Nat} {f : GateGrp → GateGrp} : (s.updGroup g f).core = s.core := rfl
@[simp] theorem State.updGroup_contracts {s : State} {g : Nat} {f : GateGrp → GateGrp} : (s.updGroup g f).contracts = s.contracts := rfl
@[simp] theorem State.updGroup_pair {s : State} {g : Nat} {f : GateGrp → GateGrp} : (s.updGroup g f).pair = s.pair := rfl
@[simp] theorem State.updGroup_fw {s : State} {g : Nat} {f : GateGrp → GateGrp} : (s.updGroup g f).fw = s.fw := rfl
@[simp] theorem State.updGroup_mbs {s : State} {g : Nat} {f : GateGrp → GateGrp} : (s.updGroup g f).mbs = s.mbs := rfl
@[simp] theorem State.updGroup_fence {s : State} {g : Nat} {f : GateGrp → GateGrp} : (s.updGroup g f).fence = s.fence := rfl
@[simp] theorem State.updGroup_events {s : State} {g : Nat} {f : GateGrp → GateGrp} : (s.updGroup g f).events = s.events := rfl
@[simp] theorem State.updGroup_stats {s : State} {g : Nat} {f : GateGrp → GateGrp} : (s.updGroup g f).stats = s.stats := rfl
@[simp] theorem State.updGroup_power {s : State} {g : Nat} {f : GateGrp → GateGrp} : (s.updGroup g f).power = s.power := rfl
@[simp] theorem State.updGroup_host {s : State} {g : Nat} {f : GateGrp → GateGrp} : (s.updGroup g f).host = s.host := rfl

@[simp] theorem State.updRegion_now {s : State} {r : Nat} {f : GRegion → GRegion} : (s.updRegion r f).now = s.now := rfl
@[simp] theorem State.updRegion_free {s : State} {r : Nat} {f : GRegion → GRegion} : (s.updRegion r f).free = s.free := rfl
@[simp] theorem State.updRegion_pending {s : State} {r : Nat} {f : GRegion → GRegion} : (s.updRegion r f).pending = s.pending := rfl
@[simp] theorem State.updRegion_cmd {s : State} {r : Nat} {f : GRegion → GRegion} : (s.updRegion r f).cmd = s.cmd := rfl
@[simp] theorem State.updRegion_hostMem {s : State} {r : Nat} {f : GRegion → GRegion} : (s.updRegion r f).hostMem = s.hostMem := rfl
@[simp] theorem State.updRegion_fuses {s : State} {r : Nat} {f : GRegion → GRegion} : (s.updRegion r f).fuses = s.fuses := rfl
@[simp] theorem State.updRegion_glob {s : State} {r : Nat} {f : GRegion → GRegion} : (s.updRegion r f).glob = s.glob := rfl
@[simp] theorem State.updRegion_chan {s : State} {r : Nat} {f : GRegion → GRegion} : (s.updRegion r f).chan = s.chan := rfl
@[simp] theorem State.updRegion_lanes {s : State} {r : Nat} {f : GRegion → GRegion} : (s.updRegion r f).lanes = s.lanes := rfl
@[simp] theorem State.updRegion_ports {s : State} {r : Nat} {f : GRegion → GRegion} : (s.updRegion r f).ports = s.ports := rfl
@[simp] theorem State.updRegion_modules {s : State} {r : Nat} {f : GRegion → GRegion} : (s.updRegion r f).modules = s.modules := rfl
@[simp] theorem State.updRegion_selv {s : State} {r : Nat} {f : GRegion → GRegion} : (s.updRegion r f).selv = s.selv := rfl
@[simp] theorem State.updRegion_tdc {s : State} {r : Nat} {f : GRegion → GRegion} : (s.updRegion r f).tdc = s.tdc := rfl
theorem State.updRegion_gauge {s : State} {r : Nat} {f : GRegion → GRegion} : (s.updRegion r f).gauge = { s.gauge with regions := s.gauge.regions.upd r f } := rfl
@[simp] theorem State.updRegion_ref {s : State} {r : Nat} {f : GRegion → GRegion} : (s.updRegion r f).ref = s.ref := rfl
@[simp] theorem State.updRegion_time {s : State} {r : Nat} {f : GRegion → GRegion} : (s.updRegion r f).time = s.time := rfl
@[simp] theorem State.updRegion_ptp {s : State} {r : Nat} {f : GRegion → GRegion} : (s.updRegion r f).ptp = s.ptp := rfl
@[simp] theorem State.updRegion_stitch {s : State} {r : Nat} {f : GRegion → GRegion} : (s.updRegion r f).stitch = s.stitch := rfl
@[simp] theorem State.updRegion_parse {s : State} {r : Nat} {f : GRegion → GRegion} : (s.updRegion r f).parse = s.parse := rfl
@[simp] theorem State.updRegion_fwd {s : State} {r : Nat} {f : GRegion → GRegion} : (s.updRegion r f).fwd = s.fwd := rfl
@[simp] theorem State.updRegion_core {s : State} {r : Nat} {f : GRegion → GRegion} : (s.updRegion r f).core = s.core := rfl
@[simp] theorem State.updRegion_contracts {s : State} {r : Nat} {f : GRegion → GRegion} : (s.updRegion r f).contracts = s.contracts := rfl
@[simp] theorem State.updRegion_pair {s : State} {r : Nat} {f : GRegion → GRegion} : (s.updRegion r f).pair = s.pair := rfl
@[simp] theorem State.updRegion_fw {s : State} {r : Nat} {f : GRegion → GRegion} : (s.updRegion r f).fw = s.fw := rfl
@[simp] theorem State.updRegion_mbs {s : State} {r : Nat} {f : GRegion → GRegion} : (s.updRegion r f).mbs = s.mbs := rfl
@[simp] theorem State.updRegion_fence {s : State} {r : Nat} {f : GRegion → GRegion} : (s.updRegion r f).fence = s.fence := rfl
@[simp] theorem State.updRegion_events {s : State} {r : Nat} {f : GRegion → GRegion} : (s.updRegion r f).events = s.events := rfl
@[simp] theorem State.updRegion_stats {s : State} {r : Nat} {f : GRegion → GRegion} : (s.updRegion r f).stats = s.stats := rfl
@[simp] theorem State.updRegion_power {s : State} {r : Nat} {f : GRegion → GRegion} : (s.updRegion r f).power = s.power := rfl
@[simp] theorem State.updRegion_host {s : State} {r : Nat} {f : GRegion → GRegion} : (s.updRegion r f).host = s.host := rfl

@[simp] theorem State.updCG_now {s : State} {c : Nat} {f : ChanGauge → ChanGauge} : (s.updCG c f).now = s.now := rfl
@[simp] theorem State.updCG_free {s : State} {c : Nat} {f : ChanGauge → ChanGauge} : (s.updCG c f).free = s.free := rfl
@[simp] theorem State.updCG_pending {s : State} {c : Nat} {f : ChanGauge → ChanGauge} : (s.updCG c f).pending = s.pending := rfl
@[simp] theorem State.updCG_cmd {s : State} {c : Nat} {f : ChanGauge → ChanGauge} : (s.updCG c f).cmd = s.cmd := rfl
@[simp] theorem State.updCG_hostMem {s : State} {c : Nat} {f : ChanGauge → ChanGauge} : (s.updCG c f).hostMem = s.hostMem := rfl
@[simp] theorem State.updCG_fuses {s : State} {c : Nat} {f : ChanGauge → ChanGauge} : (s.updCG c f).fuses = s.fuses := rfl
@[simp] theorem State.updCG_glob {s : State} {c : Nat} {f : ChanGauge → ChanGauge} : (s.updCG c f).glob = s.glob := rfl
@[simp] theorem State.updCG_chan {s : State} {c : Nat} {f : ChanGauge → ChanGauge} : (s.updCG c f).chan = s.chan := rfl
@[simp] theorem State.updCG_lanes {s : State} {c : Nat} {f : ChanGauge → ChanGauge} : (s.updCG c f).lanes = s.lanes := rfl
@[simp] theorem State.updCG_ports {s : State} {c : Nat} {f : ChanGauge → ChanGauge} : (s.updCG c f).ports = s.ports := rfl
@[simp] theorem State.updCG_modules {s : State} {c : Nat} {f : ChanGauge → ChanGauge} : (s.updCG c f).modules = s.modules := rfl
@[simp] theorem State.updCG_selv {s : State} {c : Nat} {f : ChanGauge → ChanGauge} : (s.updCG c f).selv = s.selv := rfl
@[simp] theorem State.updCG_tdc {s : State} {c : Nat} {f : ChanGauge → ChanGauge} : (s.updCG c f).tdc = s.tdc := rfl
theorem State.updCG_gauge {s : State} {c : Nat} {f : ChanGauge → ChanGauge} : (s.updCG c f).gauge = { s.gauge with chans := s.gauge.chans.upd c f } := rfl
@[simp] theorem State.updCG_ref {s : State} {c : Nat} {f : ChanGauge → ChanGauge} : (s.updCG c f).ref = s.ref := rfl
@[simp] theorem State.updCG_time {s : State} {c : Nat} {f : ChanGauge → ChanGauge} : (s.updCG c f).time = s.time := rfl
@[simp] theorem State.updCG_ptp {s : State} {c : Nat} {f : ChanGauge → ChanGauge} : (s.updCG c f).ptp = s.ptp := rfl
@[simp] theorem State.updCG_stitch {s : State} {c : Nat} {f : ChanGauge → ChanGauge} : (s.updCG c f).stitch = s.stitch := rfl
@[simp] theorem State.updCG_parse {s : State} {c : Nat} {f : ChanGauge → ChanGauge} : (s.updCG c f).parse = s.parse := rfl
@[simp] theorem State.updCG_fwd {s : State} {c : Nat} {f : ChanGauge → ChanGauge} : (s.updCG c f).fwd = s.fwd := rfl
@[simp] theorem State.updCG_core {s : State} {c : Nat} {f : ChanGauge → ChanGauge} : (s.updCG c f).core = s.core := rfl
@[simp] theorem State.updCG_contracts {s : State} {c : Nat} {f : ChanGauge → ChanGauge} : (s.updCG c f).contracts = s.contracts := rfl
@[simp] theorem State.updCG_pair {s : State} {c : Nat} {f : ChanGauge → ChanGauge} : (s.updCG c f).pair = s.pair := rfl
@[simp] theorem State.updCG_fw {s : State} {c : Nat} {f : ChanGauge → ChanGauge} : (s.updCG c f).fw = s.fw := rfl
@[simp] theorem State.updCG_mbs {s : State} {c : Nat} {f : ChanGauge → ChanGauge} : (s.updCG c f).mbs = s.mbs := rfl
@[simp] theorem State.updCG_fence {s : State} {c : Nat} {f : ChanGauge → ChanGauge} : (s.updCG c f).fence = s.fence := rfl
@[simp] theorem State.updCG_events {s : State} {c : Nat} {f : ChanGauge → ChanGauge} : (s.updCG c f).events = s.events := rfl
@[simp] theorem State.updCG_stats {s : State} {c : Nat} {f : ChanGauge → ChanGauge} : (s.updCG c f).stats = s.stats := rfl
@[simp] theorem State.updCG_power {s : State} {c : Nat} {f : ChanGauge → ChanGauge} : (s.updCG c f).power = s.power := rfl
@[simp] theorem State.updCG_host {s : State} {c : Nat} {f : ChanGauge → ChanGauge} : (s.updCG c f).host = s.host := rfl

@[simp] theorem State.updSlot_now {s : State} {n : Nat} {f : RefSlot → RefSlot} : (s.updSlot n f).now = s.now := rfl
@[simp] theorem State.updSlot_free {s : State} {n : Nat} {f : RefSlot → RefSlot} : (s.updSlot n f).free = s.free := rfl
@[simp] theorem State.updSlot_pending {s : State} {n : Nat} {f : RefSlot → RefSlot} : (s.updSlot n f).pending = s.pending := rfl
@[simp] theorem State.updSlot_cmd {s : State} {n : Nat} {f : RefSlot → RefSlot} : (s.updSlot n f).cmd = s.cmd := rfl
@[simp] theorem State.updSlot_hostMem {s : State} {n : Nat} {f : RefSlot → RefSlot} : (s.updSlot n f).hostMem = s.hostMem := rfl
@[simp] theorem State.updSlot_fuses {s : State} {n : Nat} {f : RefSlot → RefSlot} : (s.updSlot n f).fuses = s.fuses := rfl
@[simp] theorem State.updSlot_glob {s : State} {n : Nat} {f : RefSlot → RefSlot} : (s.updSlot n f).glob = s.glob := rfl
@[simp] theorem State.updSlot_chan {s : State} {n : Nat} {f : RefSlot → RefSlot} : (s.updSlot n f).chan = s.chan := rfl
@[simp] theorem State.updSlot_lanes {s : State} {n : Nat} {f : RefSlot → RefSlot} : (s.updSlot n f).lanes = s.lanes := rfl
@[simp] theorem State.updSlot_ports {s : State} {n : Nat} {f : RefSlot → RefSlot} : (s.updSlot n f).ports = s.ports := rfl
@[simp] theorem State.updSlot_modules {s : State} {n : Nat} {f : RefSlot → RefSlot} : (s.updSlot n f).modules = s.modules := rfl
@[simp] theorem State.updSlot_selv {s : State} {n : Nat} {f : RefSlot → RefSlot} : (s.updSlot n f).selv = s.selv := rfl
@[simp] theorem State.updSlot_tdc {s : State} {n : Nat} {f : RefSlot → RefSlot} : (s.updSlot n f).tdc = s.tdc := rfl
@[simp] theorem State.updSlot_gauge {s : State} {n : Nat} {f : RefSlot → RefSlot} : (s.updSlot n f).gauge = s.gauge := rfl
theorem State.updSlot_ref {s : State} {n : Nat} {f : RefSlot → RefSlot} : (s.updSlot n f).ref = { s.ref with slots := s.ref.slots.upd n f } := rfl
@[simp] theorem State.updSlot_time {s : State} {n : Nat} {f : RefSlot → RefSlot} : (s.updSlot n f).time = s.time := rfl
@[simp] theorem State.updSlot_ptp {s : State} {n : Nat} {f : RefSlot → RefSlot} : (s.updSlot n f).ptp = s.ptp := rfl
@[simp] theorem State.updSlot_stitch {s : State} {n : Nat} {f : RefSlot → RefSlot} : (s.updSlot n f).stitch = s.stitch := rfl
@[simp] theorem State.updSlot_parse {s : State} {n : Nat} {f : RefSlot → RefSlot} : (s.updSlot n f).parse = s.parse := rfl
@[simp] theorem State.updSlot_fwd {s : State} {n : Nat} {f : RefSlot → RefSlot} : (s.updSlot n f).fwd = s.fwd := rfl
@[simp] theorem State.updSlot_core {s : State} {n : Nat} {f : RefSlot → RefSlot} : (s.updSlot n f).core = s.core := rfl
@[simp] theorem State.updSlot_contracts {s : State} {n : Nat} {f : RefSlot → RefSlot} : (s.updSlot n f).contracts = s.contracts := rfl
@[simp] theorem State.updSlot_pair {s : State} {n : Nat} {f : RefSlot → RefSlot} : (s.updSlot n f).pair = s.pair := rfl
@[simp] theorem State.updSlot_fw {s : State} {n : Nat} {f : RefSlot → RefSlot} : (s.updSlot n f).fw = s.fw := rfl
@[simp] theorem State.updSlot_mbs {s : State} {n : Nat} {f : RefSlot → RefSlot} : (s.updSlot n f).mbs = s.mbs := rfl
@[simp] theorem State.updSlot_fence {s : State} {n : Nat} {f : RefSlot → RefSlot} : (s.updSlot n f).fence = s.fence := rfl
@[simp] theorem State.updSlot_events {s : State} {n : Nat} {f : RefSlot → RefSlot} : (s.updSlot n f).events = s.events := rfl
@[simp] theorem State.updSlot_stats {s : State} {n : Nat} {f : RefSlot → RefSlot} : (s.updSlot n f).stats = s.stats := rfl
@[simp] theorem State.updSlot_power {s : State} {n : Nat} {f : RefSlot → RefSlot} : (s.updSlot n f).power = s.power := rfl
@[simp] theorem State.updSlot_host {s : State} {n : Nat} {f : RefSlot → RefSlot} : (s.updSlot n f).host = s.host := rfl

@[simp] theorem State.updTsq_now {s : State} {q : Nat} {f : Tsq → Tsq} : (s.updTsq q f).now = s.now := rfl
@[simp] theorem State.updTsq_free {s : State} {q : Nat} {f : Tsq → Tsq} : (s.updTsq q f).free = s.free := rfl
@[simp] theorem State.updTsq_pending {s : State} {q : Nat} {f : Tsq → Tsq} : (s.updTsq q f).pending = s.pending := rfl
@[simp] theorem State.updTsq_cmd {s : State} {q : Nat} {f : Tsq → Tsq} : (s.updTsq q f).cmd = s.cmd := rfl
@[simp] theorem State.updTsq_hostMem {s : State} {q : Nat} {f : Tsq → Tsq} : (s.updTsq q f).hostMem = s.hostMem := rfl
@[simp] theorem State.updTsq_fuses {s : State} {q : Nat} {f : Tsq → Tsq} : (s.updTsq q f).fuses = s.fuses := rfl
@[simp] theorem State.updTsq_glob {s : State} {q : Nat} {f : Tsq → Tsq} : (s.updTsq q f).glob = s.glob := rfl
@[simp] theorem State.updTsq_chan {s : State} {q : Nat} {f : Tsq → Tsq} : (s.updTsq q f).chan = s.chan := rfl
@[simp] theorem State.updTsq_lanes {s : State} {q : Nat} {f : Tsq → Tsq} : (s.updTsq q f).lanes = s.lanes := rfl
@[simp] theorem State.updTsq_ports {s : State} {q : Nat} {f : Tsq → Tsq} : (s.updTsq q f).ports = s.ports := rfl
@[simp] theorem State.updTsq_modules {s : State} {q : Nat} {f : Tsq → Tsq} : (s.updTsq q f).modules = s.modules := rfl
@[simp] theorem State.updTsq_selv {s : State} {q : Nat} {f : Tsq → Tsq} : (s.updTsq q f).selv = s.selv := rfl
@[simp] theorem State.updTsq_tdc {s : State} {q : Nat} {f : Tsq → Tsq} : (s.updTsq q f).tdc = s.tdc := rfl
@[simp] theorem State.updTsq_gauge {s : State} {q : Nat} {f : Tsq → Tsq} : (s.updTsq q f).gauge = s.gauge := rfl
@[simp] theorem State.updTsq_ref {s : State} {q : Nat} {f : Tsq → Tsq} : (s.updTsq q f).ref = s.ref := rfl
theorem State.updTsq_time {s : State} {q : Nat} {f : Tsq → Tsq} : (s.updTsq q f).time = { s.time with tsqs := s.time.tsqs.upd q f } := rfl
@[simp] theorem State.updTsq_ptp {s : State} {q : Nat} {f : Tsq → Tsq} : (s.updTsq q f).ptp = s.ptp := rfl
@[simp] theorem State.updTsq_stitch {s : State} {q : Nat} {f : Tsq → Tsq} : (s.updTsq q f).stitch = s.stitch := rfl
@[simp] theorem State.updTsq_parse {s : State} {q : Nat} {f : Tsq → Tsq} : (s.updTsq q f).parse = s.parse := rfl
@[simp] theorem State.updTsq_fwd {s : State} {q : Nat} {f : Tsq → Tsq} : (s.updTsq q f).fwd = s.fwd := rfl
@[simp] theorem State.updTsq_core {s : State} {q : Nat} {f : Tsq → Tsq} : (s.updTsq q f).core = s.core := rfl
@[simp] theorem State.updTsq_contracts {s : State} {q : Nat} {f : Tsq → Tsq} : (s.updTsq q f).contracts = s.contracts := rfl
@[simp] theorem State.updTsq_pair {s : State} {q : Nat} {f : Tsq → Tsq} : (s.updTsq q f).pair = s.pair := rfl
@[simp] theorem State.updTsq_fw {s : State} {q : Nat} {f : Tsq → Tsq} : (s.updTsq q f).fw = s.fw := rfl
@[simp] theorem State.updTsq_mbs {s : State} {q : Nat} {f : Tsq → Tsq} : (s.updTsq q f).mbs = s.mbs := rfl
@[simp] theorem State.updTsq_fence {s : State} {q : Nat} {f : Tsq → Tsq} : (s.updTsq q f).fence = s.fence := rfl
@[simp] theorem State.updTsq_events {s : State} {q : Nat} {f : Tsq → Tsq} : (s.updTsq q f).events = s.events := rfl
@[simp] theorem State.updTsq_stats {s : State} {q : Nat} {f : Tsq → Tsq} : (s.updTsq q f).stats = s.stats := rfl
@[simp] theorem State.updTsq_power {s : State} {q : Nat} {f : Tsq → Tsq} : (s.updTsq q f).power = s.power := rfl
@[simp] theorem State.updTsq_host {s : State} {q : Nat} {f : Tsq → Tsq} : (s.updTsq q f).host = s.host := rfl

@[simp] theorem State.updInst_now {s : State} {i : Nat} {f : PtpInst → PtpInst} : (s.updInst i f).now = s.now := rfl
@[simp] theorem State.updInst_free {s : State} {i : Nat} {f : PtpInst → PtpInst} : (s.updInst i f).free = s.free := rfl
@[simp] theorem State.updInst_pending {s : State} {i : Nat} {f : PtpInst → PtpInst} : (s.updInst i f).pending = s.pending := rfl
@[simp] theorem State.updInst_cmd {s : State} {i : Nat} {f : PtpInst → PtpInst} : (s.updInst i f).cmd = s.cmd := rfl
@[simp] theorem State.updInst_hostMem {s : State} {i : Nat} {f : PtpInst → PtpInst} : (s.updInst i f).hostMem = s.hostMem := rfl
@[simp] theorem State.updInst_fuses {s : State} {i : Nat} {f : PtpInst → PtpInst} : (s.updInst i f).fuses = s.fuses := rfl
@[simp] theorem State.updInst_glob {s : State} {i : Nat} {f : PtpInst → PtpInst} : (s.updInst i f).glob = s.glob := rfl
@[simp] theorem State.updInst_chan {s : State} {i : Nat} {f : PtpInst → PtpInst} : (s.updInst i f).chan = s.chan := rfl
@[simp] theorem State.updInst_lanes {s : State} {i : Nat} {f : PtpInst → PtpInst} : (s.updInst i f).lanes = s.lanes := rfl
@[simp] theorem State.updInst_ports {s : State} {i : Nat} {f : PtpInst → PtpInst} : (s.updInst i f).ports = s.ports := rfl
@[simp] theorem State.updInst_modules {s : State} {i : Nat} {f : PtpInst → PtpInst} : (s.updInst i f).modules = s.modules := rfl
@[simp] theorem State.updInst_selv {s : State} {i : Nat} {f : PtpInst → PtpInst} : (s.updInst i f).selv = s.selv := rfl
@[simp] theorem State.updInst_tdc {s : State} {i : Nat} {f : PtpInst → PtpInst} : (s.updInst i f).tdc = s.tdc := rfl
@[simp] theorem State.updInst_gauge {s : State} {i : Nat} {f : PtpInst → PtpInst} : (s.updInst i f).gauge = s.gauge := rfl
@[simp] theorem State.updInst_ref {s : State} {i : Nat} {f : PtpInst → PtpInst} : (s.updInst i f).ref = s.ref := rfl
@[simp] theorem State.updInst_time {s : State} {i : Nat} {f : PtpInst → PtpInst} : (s.updInst i f).time = s.time := rfl
theorem State.updInst_ptp {s : State} {i : Nat} {f : PtpInst → PtpInst} : (s.updInst i f).ptp = { s.ptp with insts := s.ptp.insts.upd i f } := rfl
@[simp] theorem State.updInst_stitch {s : State} {i : Nat} {f : PtpInst → PtpInst} : (s.updInst i f).stitch = s.stitch := rfl
@[simp] theorem State.updInst_parse {s : State} {i : Nat} {f : PtpInst → PtpInst} : (s.updInst i f).parse = s.parse := rfl
@[simp] theorem State.updInst_fwd {s : State} {i : Nat} {f : PtpInst → PtpInst} : (s.updInst i f).fwd = s.fwd := rfl
@[simp] theorem State.updInst_core {s : State} {i : Nat} {f : PtpInst → PtpInst} : (s.updInst i f).core = s.core := rfl
@[simp] theorem State.updInst_contracts {s : State} {i : Nat} {f : PtpInst → PtpInst} : (s.updInst i f).contracts = s.contracts := rfl
@[simp] theorem State.updInst_pair {s : State} {i : Nat} {f : PtpInst → PtpInst} : (s.updInst i f).pair = s.pair := rfl
@[simp] theorem State.updInst_fw {s : State} {i : Nat} {f : PtpInst → PtpInst} : (s.updInst i f).fw = s.fw := rfl
@[simp] theorem State.updInst_mbs {s : State} {i : Nat} {f : PtpInst → PtpInst} : (s.updInst i f).mbs = s.mbs := rfl
@[simp] theorem State.updInst_fence {s : State} {i : Nat} {f : PtpInst → PtpInst} : (s.updInst i f).fence = s.fence := rfl
@[simp] theorem State.updInst_events {s : State} {i : Nat} {f : PtpInst → PtpInst} : (s.updInst i f).events = s.events := rfl
@[simp] theorem State.updInst_stats {s : State} {i : Nat} {f : PtpInst → PtpInst} : (s.updInst i f).stats = s.stats := rfl
@[simp] theorem State.updInst_power {s : State} {i : Nat} {f : PtpInst → PtpInst} : (s.updInst i f).power = s.power := rfl
@[simp] theorem State.updInst_host {s : State} {i : Nat} {f : PtpInst → PtpInst} : (s.updInst i f).host = s.host := rfl

@[simp] theorem State.updPtp_now {s : State} {p : Nat} {f : PtpPort → PtpPort} : (s.updPtp p f).now = s.now := rfl
@[simp] theorem State.updPtp_free {s : State} {p : Nat} {f : PtpPort → PtpPort} : (s.updPtp p f).free = s.free := rfl
@[simp] theorem State.updPtp_pending {s : State} {p : Nat} {f : PtpPort → PtpPort} : (s.updPtp p f).pending = s.pending := rfl
@[simp] theorem State.updPtp_cmd {s : State} {p : Nat} {f : PtpPort → PtpPort} : (s.updPtp p f).cmd = s.cmd := rfl
@[simp] theorem State.updPtp_hostMem {s : State} {p : Nat} {f : PtpPort → PtpPort} : (s.updPtp p f).hostMem = s.hostMem := rfl
@[simp] theorem State.updPtp_fuses {s : State} {p : Nat} {f : PtpPort → PtpPort} : (s.updPtp p f).fuses = s.fuses := rfl
@[simp] theorem State.updPtp_glob {s : State} {p : Nat} {f : PtpPort → PtpPort} : (s.updPtp p f).glob = s.glob := rfl
@[simp] theorem State.updPtp_chan {s : State} {p : Nat} {f : PtpPort → PtpPort} : (s.updPtp p f).chan = s.chan := rfl
@[simp] theorem State.updPtp_lanes {s : State} {p : Nat} {f : PtpPort → PtpPort} : (s.updPtp p f).lanes = s.lanes := rfl
@[simp] theorem State.updPtp_ports {s : State} {p : Nat} {f : PtpPort → PtpPort} : (s.updPtp p f).ports = s.ports := rfl
@[simp] theorem State.updPtp_modules {s : State} {p : Nat} {f : PtpPort → PtpPort} : (s.updPtp p f).modules = s.modules := rfl
@[simp] theorem State.updPtp_selv {s : State} {p : Nat} {f : PtpPort → PtpPort} : (s.updPtp p f).selv = s.selv := rfl
@[simp] theorem State.updPtp_tdc {s : State} {p : Nat} {f : PtpPort → PtpPort} : (s.updPtp p f).tdc = s.tdc := rfl
@[simp] theorem State.updPtp_gauge {s : State} {p : Nat} {f : PtpPort → PtpPort} : (s.updPtp p f).gauge = s.gauge := rfl
@[simp] theorem State.updPtp_ref {s : State} {p : Nat} {f : PtpPort → PtpPort} : (s.updPtp p f).ref = s.ref := rfl
@[simp] theorem State.updPtp_time {s : State} {p : Nat} {f : PtpPort → PtpPort} : (s.updPtp p f).time = s.time := rfl
theorem State.updPtp_ptp {s : State} {p : Nat} {f : PtpPort → PtpPort} : (s.updPtp p f).ptp = { s.ptp with ports := s.ptp.ports.upd p f } := rfl
@[simp] theorem State.updPtp_stitch {s : State} {p : Nat} {f : PtpPort → PtpPort} : (s.updPtp p f).stitch = s.stitch := rfl
@[simp] theorem State.updPtp_parse {s : State} {p : Nat} {f : PtpPort → PtpPort} : (s.updPtp p f).parse = s.parse := rfl
@[simp] theorem State.updPtp_fwd {s : State} {p : Nat} {f : PtpPort → PtpPort} : (s.updPtp p f).fwd = s.fwd := rfl
@[simp] theorem State.updPtp_core {s : State} {p : Nat} {f : PtpPort → PtpPort} : (s.updPtp p f).core = s.core := rfl
@[simp] theorem State.updPtp_contracts {s : State} {p : Nat} {f : PtpPort → PtpPort} : (s.updPtp p f).contracts = s.contracts := rfl
@[simp] theorem State.updPtp_pair {s : State} {p : Nat} {f : PtpPort → PtpPort} : (s.updPtp p f).pair = s.pair := rfl
@[simp] theorem State.updPtp_fw {s : State} {p : Nat} {f : PtpPort → PtpPort} : (s.updPtp p f).fw = s.fw := rfl
@[simp] theorem State.updPtp_mbs {s : State} {p : Nat} {f : PtpPort → PtpPort} : (s.updPtp p f).mbs = s.mbs := rfl
@[simp] theorem State.updPtp_fence {s : State} {p : Nat} {f : PtpPort → PtpPort} : (s.updPtp p f).fence = s.fence := rfl
@[simp] theorem State.updPtp_events {s : State} {p : Nat} {f : PtpPort → PtpPort} : (s.updPtp p f).events = s.events := rfl
@[simp] theorem State.updPtp_stats {s : State} {p : Nat} {f : PtpPort → PtpPort} : (s.updPtp p f).stats = s.stats := rfl
@[simp] theorem State.updPtp_power {s : State} {p : Nat} {f : PtpPort → PtpPort} : (s.updPtp p f).power = s.power := rfl
@[simp] theorem State.updPtp_host {s : State} {p : Nat} {f : PtpPort → PtpPort} : (s.updPtp p f).host = s.host := rfl

@[simp] theorem State.updAsym_now {s : State} {p : Nat} {f : Asym → Asym} : (s.updAsym p f).now = s.now := rfl
@[simp] theorem State.updAsym_free {s : State} {p : Nat} {f : Asym → Asym} : (s.updAsym p f).free = s.free := rfl
@[simp] theorem State.updAsym_pending {s : State} {p : Nat} {f : Asym → Asym} : (s.updAsym p f).pending = s.pending := rfl
@[simp] theorem State.updAsym_cmd {s : State} {p : Nat} {f : Asym → Asym} : (s.updAsym p f).cmd = s.cmd := rfl
@[simp] theorem State.updAsym_hostMem {s : State} {p : Nat} {f : Asym → Asym} : (s.updAsym p f).hostMem = s.hostMem := rfl
@[simp] theorem State.updAsym_fuses {s : State} {p : Nat} {f : Asym → Asym} : (s.updAsym p f).fuses = s.fuses := rfl
@[simp] theorem State.updAsym_glob {s : State} {p : Nat} {f : Asym → Asym} : (s.updAsym p f).glob = s.glob := rfl
@[simp] theorem State.updAsym_chan {s : State} {p : Nat} {f : Asym → Asym} : (s.updAsym p f).chan = s.chan := rfl
@[simp] theorem State.updAsym_lanes {s : State} {p : Nat} {f : Asym → Asym} : (s.updAsym p f).lanes = s.lanes := rfl
@[simp] theorem State.updAsym_ports {s : State} {p : Nat} {f : Asym → Asym} : (s.updAsym p f).ports = s.ports := rfl
@[simp] theorem State.updAsym_modules {s : State} {p : Nat} {f : Asym → Asym} : (s.updAsym p f).modules = s.modules := rfl
@[simp] theorem State.updAsym_selv {s : State} {p : Nat} {f : Asym → Asym} : (s.updAsym p f).selv = s.selv := rfl
@[simp] theorem State.updAsym_tdc {s : State} {p : Nat} {f : Asym → Asym} : (s.updAsym p f).tdc = s.tdc := rfl
@[simp] theorem State.updAsym_gauge {s : State} {p : Nat} {f : Asym → Asym} : (s.updAsym p f).gauge = s.gauge := rfl
@[simp] theorem State.updAsym_ref {s : State} {p : Nat} {f : Asym → Asym} : (s.updAsym p f).ref = s.ref := rfl
@[simp] theorem State.updAsym_time {s : State} {p : Nat} {f : Asym → Asym} : (s.updAsym p f).time = s.time := rfl
theorem State.updAsym_ptp {s : State} {p : Nat} {f : Asym → Asym} : (s.updAsym p f).ptp = { s.ptp with asym := s.ptp.asym.upd p f } := rfl
@[simp] theorem State.updAsym_stitch {s : State} {p : Nat} {f : Asym → Asym} : (s.updAsym p f).stitch = s.stitch := rfl
@[simp] theorem State.updAsym_parse {s : State} {p : Nat} {f : Asym → Asym} : (s.updAsym p f).parse = s.parse := rfl
@[simp] theorem State.updAsym_fwd {s : State} {p : Nat} {f : Asym → Asym} : (s.updAsym p f).fwd = s.fwd := rfl
@[simp] theorem State.updAsym_core {s : State} {p : Nat} {f : Asym → Asym} : (s.updAsym p f).core = s.core := rfl
@[simp] theorem State.updAsym_contracts {s : State} {p : Nat} {f : Asym → Asym} : (s.updAsym p f).contracts = s.contracts := rfl
@[simp] theorem State.updAsym_pair {s : State} {p : Nat} {f : Asym → Asym} : (s.updAsym p f).pair = s.pair := rfl
@[simp] theorem State.updAsym_fw {s : State} {p : Nat} {f : Asym → Asym} : (s.updAsym p f).fw = s.fw := rfl
@[simp] theorem State.updAsym_mbs {s : State} {p : Nat} {f : Asym → Asym} : (s.updAsym p f).mbs = s.mbs := rfl
@[simp] theorem State.updAsym_fence {s : State} {p : Nat} {f : Asym → Asym} : (s.updAsym p f).fence = s.fence := rfl
@[simp] theorem State.updAsym_events {s : State} {p : Nat} {f : Asym → Asym} : (s.updAsym p f).events = s.events := rfl
@[simp] theorem State.updAsym_stats {s : State} {p : Nat} {f : Asym → Asym} : (s.updAsym p f).stats = s.stats := rfl
@[simp] theorem State.updAsym_power {s : State} {p : Nat} {f : Asym → Asym} : (s.updAsym p f).power = s.power := rfl
@[simp] theorem State.updAsym_host {s : State} {p : Nat} {f : Asym → Asym} : (s.updAsym p f).host = s.host := rfl

@[simp] theorem State.updMc_now {s : State} {c : Nat} {f : McChan → McChan} : (s.updMc c f).now = s.now := rfl
@[simp] theorem State.updMc_free {s : State} {c : Nat} {f : McChan → McChan} : (s.updMc c f).free = s.free := rfl
@[simp] theorem State.updMc_pending {s : State} {c : Nat} {f : McChan → McChan} : (s.updMc c f).pending = s.pending := rfl
@[simp] theorem State.updMc_cmd {s : State} {c : Nat} {f : McChan → McChan} : (s.updMc c f).cmd = s.cmd := rfl
@[simp] theorem State.updMc_hostMem {s : State} {c : Nat} {f : McChan → McChan} : (s.updMc c f).hostMem = s.hostMem := rfl
@[simp] theorem State.updMc_fuses {s : State} {c : Nat} {f : McChan → McChan} : (s.updMc c f).fuses = s.fuses := rfl
@[simp] theorem State.updMc_glob {s : State} {c : Nat} {f : McChan → McChan} : (s.updMc c f).glob = s.glob := rfl
@[simp] theorem State.updMc_chan {s : State} {c : Nat} {f : McChan → McChan} : (s.updMc c f).chan = s.chan := rfl
@[simp] theorem State.updMc_lanes {s : State} {c : Nat} {f : McChan → McChan} : (s.updMc c f).lanes = s.lanes := rfl
@[simp] theorem State.updMc_ports {s : State} {c : Nat} {f : McChan → McChan} : (s.updMc c f).ports = s.ports := rfl
@[simp] theorem State.updMc_modules {s : State} {c : Nat} {f : McChan → McChan} : (s.updMc c f).modules = s.modules := rfl
@[simp] theorem State.updMc_selv {s : State} {c : Nat} {f : McChan → McChan} : (s.updMc c f).selv = s.selv := rfl
@[simp] theorem State.updMc_tdc {s : State} {c : Nat} {f : McChan → McChan} : (s.updMc c f).tdc = s.tdc := rfl
@[simp] theorem State.updMc_gauge {s : State} {c : Nat} {f : McChan → McChan} : (s.updMc c f).gauge = s.gauge := rfl
@[simp] theorem State.updMc_ref {s : State} {c : Nat} {f : McChan → McChan} : (s.updMc c f).ref = s.ref := rfl
@[simp] theorem State.updMc_time {s : State} {c : Nat} {f : McChan → McChan} : (s.updMc c f).time = s.time := rfl
@[simp] theorem State.updMc_ptp {s : State} {c : Nat} {f : McChan → McChan} : (s.updMc c f).ptp = s.ptp := rfl
theorem State.updMc_stitch {s : State} {c : Nat} {f : McChan → McChan} : (s.updMc c f).stitch = { s.stitch with mc := s.stitch.mc.upd c f } := rfl
@[simp] theorem State.updMc_parse {s : State} {c : Nat} {f : McChan → McChan} : (s.updMc c f).parse = s.parse := rfl
@[simp] theorem State.updMc_fwd {s : State} {c : Nat} {f : McChan → McChan} : (s.updMc c f).fwd = s.fwd := rfl
@[simp] theorem State.updMc_core {s : State} {c : Nat} {f : McChan → McChan} : (s.updMc c f).core = s.core := rfl
@[simp] theorem State.updMc_contracts {s : State} {c : Nat} {f : McChan → McChan} : (s.updMc c f).contracts = s.contracts := rfl
@[simp] theorem State.updMc_pair {s : State} {c : Nat} {f : McChan → McChan} : (s.updMc c f).pair = s.pair := rfl
@[simp] theorem State.updMc_fw {s : State} {c : Nat} {f : McChan → McChan} : (s.updMc c f).fw = s.fw := rfl
@[simp] theorem State.updMc_mbs {s : State} {c : Nat} {f : McChan → McChan} : (s.updMc c f).mbs = s.mbs := rfl
@[simp] theorem State.updMc_fence {s : State} {c : Nat} {f : McChan → McChan} : (s.updMc c f).fence = s.fence := rfl
@[simp] theorem State.updMc_events {s : State} {c : Nat} {f : McChan → McChan} : (s.updMc c f).events = s.events := rfl
@[simp] theorem State.updMc_stats {s : State} {c : Nat} {f : McChan → McChan} : (s.updMc c f).stats = s.stats := rfl
@[simp] theorem State.updMc_power {s : State} {c : Nat} {f : McChan → McChan} : (s.updMc c f).power = s.power := rfl
@[simp] theorem State.updMc_host {s : State} {c : Nat} {f : McChan → McChan} : (s.updMc c f).host = s.host := rfl

@[simp] theorem State.updMclk_now {s : State} {o : Nat} {f : MclkOut → MclkOut} : (s.updMclk o f).now = s.now := rfl
@[simp] theorem State.updMclk_free {s : State} {o : Nat} {f : MclkOut → MclkOut} : (s.updMclk o f).free = s.free := rfl
@[simp] theorem State.updMclk_pending {s : State} {o : Nat} {f : MclkOut → MclkOut} : (s.updMclk o f).pending = s.pending := rfl
@[simp] theorem State.updMclk_cmd {s : State} {o : Nat} {f : MclkOut → MclkOut} : (s.updMclk o f).cmd = s.cmd := rfl
@[simp] theorem State.updMclk_hostMem {s : State} {o : Nat} {f : MclkOut → MclkOut} : (s.updMclk o f).hostMem = s.hostMem := rfl
@[simp] theorem State.updMclk_fuses {s : State} {o : Nat} {f : MclkOut → MclkOut} : (s.updMclk o f).fuses = s.fuses := rfl
@[simp] theorem State.updMclk_glob {s : State} {o : Nat} {f : MclkOut → MclkOut} : (s.updMclk o f).glob = s.glob := rfl
@[simp] theorem State.updMclk_chan {s : State} {o : Nat} {f : MclkOut → MclkOut} : (s.updMclk o f).chan = s.chan := rfl
@[simp] theorem State.updMclk_lanes {s : State} {o : Nat} {f : MclkOut → MclkOut} : (s.updMclk o f).lanes = s.lanes := rfl
@[simp] theorem State.updMclk_ports {s : State} {o : Nat} {f : MclkOut → MclkOut} : (s.updMclk o f).ports = s.ports := rfl
@[simp] theorem State.updMclk_modules {s : State} {o : Nat} {f : MclkOut → MclkOut} : (s.updMclk o f).modules = s.modules := rfl
@[simp] theorem State.updMclk_selv {s : State} {o : Nat} {f : MclkOut → MclkOut} : (s.updMclk o f).selv = s.selv := rfl
@[simp] theorem State.updMclk_tdc {s : State} {o : Nat} {f : MclkOut → MclkOut} : (s.updMclk o f).tdc = s.tdc := rfl
@[simp] theorem State.updMclk_gauge {s : State} {o : Nat} {f : MclkOut → MclkOut} : (s.updMclk o f).gauge = s.gauge := rfl
@[simp] theorem State.updMclk_ref {s : State} {o : Nat} {f : MclkOut → MclkOut} : (s.updMclk o f).ref = s.ref := rfl
@[simp] theorem State.updMclk_time {s : State} {o : Nat} {f : MclkOut → MclkOut} : (s.updMclk o f).time = s.time := rfl
@[simp] theorem State.updMclk_ptp {s : State} {o : Nat} {f : MclkOut → MclkOut} : (s.updMclk o f).ptp = s.ptp := rfl
theorem State.updMclk_stitch {s : State} {o : Nat} {f : MclkOut → MclkOut} : (s.updMclk o f).stitch = { s.stitch with mclk := s.stitch.mclk.upd o f } := rfl
@[simp] theorem State.updMclk_parse {s : State} {o : Nat} {f : MclkOut → MclkOut} : (s.updMclk o f).parse = s.parse := rfl
@[simp] theorem State.updMclk_fwd {s : State} {o : Nat} {f : MclkOut → MclkOut} : (s.updMclk o f).fwd = s.fwd := rfl
@[simp] theorem State.updMclk_core {s : State} {o : Nat} {f : MclkOut → MclkOut} : (s.updMclk o f).core = s.core := rfl
@[simp] theorem State.updMclk_contracts {s : State} {o : Nat} {f : MclkOut → MclkOut} : (s.updMclk o f).contracts = s.contracts := rfl
@[simp] theorem State.updMclk_pair {s : State} {o : Nat} {f : MclkOut → MclkOut} : (s.updMclk o f).pair = s.pair := rfl
@[simp] theorem State.updMclk_fw {s : State} {o : Nat} {f : MclkOut → MclkOut} : (s.updMclk o f).fw = s.fw := rfl
@[simp] theorem State.updMclk_mbs {s : State} {o : Nat} {f : MclkOut → MclkOut} : (s.updMclk o f).mbs = s.mbs := rfl
@[simp] theorem State.updMclk_fence {s : State} {o : Nat} {f : MclkOut → MclkOut} : (s.updMclk o f).fence = s.fence := rfl
@[simp] theorem State.updMclk_events {s : State} {o : Nat} {f : MclkOut → MclkOut} : (s.updMclk o f).events = s.events := rfl
@[simp] theorem State.updMclk_stats {s : State} {o : Nat} {f : MclkOut → MclkOut} : (s.updMclk o f).stats = s.stats := rfl
@[simp] theorem State.updMclk_power {s : State} {o : Nat} {f : MclkOut → MclkOut} : (s.updMclk o f).power = s.power := rfl
@[simp] theorem State.updMclk_host {s : State} {o : Nat} {f : MclkOut → MclkOut} : (s.updMclk o f).host = s.host := rfl

@[simp] theorem State.updSt_now {s : State} {p : Nat} {f : StPort → StPort} : (s.updSt p f).now = s.now := rfl
@[simp] theorem State.updSt_free {s : State} {p : Nat} {f : StPort → StPort} : (s.updSt p f).free = s.free := rfl
@[simp] theorem State.updSt_pending {s : State} {p : Nat} {f : StPort → StPort} : (s.updSt p f).pending = s.pending := rfl
@[simp] theorem State.updSt_cmd {s : State} {p : Nat} {f : StPort → StPort} : (s.updSt p f).cmd = s.cmd := rfl
@[simp] theorem State.updSt_hostMem {s : State} {p : Nat} {f : StPort → StPort} : (s.updSt p f).hostMem = s.hostMem := rfl
@[simp] theorem State.updSt_fuses {s : State} {p : Nat} {f : StPort → StPort} : (s.updSt p f).fuses = s.fuses := rfl
@[simp] theorem State.updSt_glob {s : State} {p : Nat} {f : StPort → StPort} : (s.updSt p f).glob = s.glob := rfl
@[simp] theorem State.updSt_chan {s : State} {p : Nat} {f : StPort → StPort} : (s.updSt p f).chan = s.chan := rfl
@[simp] theorem State.updSt_lanes {s : State} {p : Nat} {f : StPort → StPort} : (s.updSt p f).lanes = s.lanes := rfl
@[simp] theorem State.updSt_ports {s : State} {p : Nat} {f : StPort → StPort} : (s.updSt p f).ports = s.ports := rfl
@[simp] theorem State.updSt_modules {s : State} {p : Nat} {f : StPort → StPort} : (s.updSt p f).modules = s.modules := rfl
@[simp] theorem State.updSt_selv {s : State} {p : Nat} {f : StPort → StPort} : (s.updSt p f).selv = s.selv := rfl
@[simp] theorem State.updSt_tdc {s : State} {p : Nat} {f : StPort → StPort} : (s.updSt p f).tdc = s.tdc := rfl
@[simp] theorem State.updSt_gauge {s : State} {p : Nat} {f : StPort → StPort} : (s.updSt p f).gauge = s.gauge := rfl
@[simp] theorem State.updSt_ref {s : State} {p : Nat} {f : StPort → StPort} : (s.updSt p f).ref = s.ref := rfl
@[simp] theorem State.updSt_time {s : State} {p : Nat} {f : StPort → StPort} : (s.updSt p f).time = s.time := rfl
@[simp] theorem State.updSt_ptp {s : State} {p : Nat} {f : StPort → StPort} : (s.updSt p f).ptp = s.ptp := rfl
theorem State.updSt_stitch {s : State} {p : Nat} {f : StPort → StPort} : (s.updSt p f).stitch = { s.stitch with ports := s.stitch.ports.upd p f } := rfl
@[simp] theorem State.updSt_parse {s : State} {p : Nat} {f : StPort → StPort} : (s.updSt p f).parse = s.parse := rfl
@[simp] theorem State.updSt_fwd {s : State} {p : Nat} {f : StPort → StPort} : (s.updSt p f).fwd = s.fwd := rfl
@[simp] theorem State.updSt_core {s : State} {p : Nat} {f : StPort → StPort} : (s.updSt p f).core = s.core := rfl
@[simp] theorem State.updSt_contracts {s : State} {p : Nat} {f : StPort → StPort} : (s.updSt p f).contracts = s.contracts := rfl
@[simp] theorem State.updSt_pair {s : State} {p : Nat} {f : StPort → StPort} : (s.updSt p f).pair = s.pair := rfl
@[simp] theorem State.updSt_fw {s : State} {p : Nat} {f : StPort → StPort} : (s.updSt p f).fw = s.fw := rfl
@[simp] theorem State.updSt_mbs {s : State} {p : Nat} {f : StPort → StPort} : (s.updSt p f).mbs = s.mbs := rfl
@[simp] theorem State.updSt_fence {s : State} {p : Nat} {f : StPort → StPort} : (s.updSt p f).fence = s.fence := rfl
@[simp] theorem State.updSt_events {s : State} {p : Nat} {f : StPort → StPort} : (s.updSt p f).events = s.events := rfl
@[simp] theorem State.updSt_stats {s : State} {p : Nat} {f : StPort → StPort} : (s.updSt p f).stats = s.stats := rfl
@[simp] theorem State.updSt_power {s : State} {p : Nat} {f : StPort → StPort} : (s.updSt p f).power = s.power := rfl
@[simp] theorem State.updSt_host {s : State} {p : Nat} {f : StPort → StPort} : (s.updSt p f).host = s.host := rfl

@[simp] theorem State.updParse_now {s : State} {p : Nat} {f : ParsePort → ParsePort} : (s.updParse p f).now = s.now := rfl
@[simp] theorem State.updParse_free {s : State} {p : Nat} {f : ParsePort → ParsePort} : (s.updParse p f).free = s.free := rfl
@[simp] theorem State.updParse_pending {s : State} {p : Nat} {f : ParsePort → ParsePort} : (s.updParse p f).pending = s.pending := rfl
@[simp] theorem State.updParse_cmd {s : State} {p : Nat} {f : ParsePort → ParsePort} : (s.updParse p f).cmd = s.cmd := rfl
@[simp] theorem State.updParse_hostMem {s : State} {p : Nat} {f : ParsePort → ParsePort} : (s.updParse p f).hostMem = s.hostMem := rfl
@[simp] theorem State.updParse_fuses {s : State} {p : Nat} {f : ParsePort → ParsePort} : (s.updParse p f).fuses = s.fuses := rfl
@[simp] theorem State.updParse_glob {s : State} {p : Nat} {f : ParsePort → ParsePort} : (s.updParse p f).glob = s.glob := rfl
@[simp] theorem State.updParse_chan {s : State} {p : Nat} {f : ParsePort → ParsePort} : (s.updParse p f).chan = s.chan := rfl
@[simp] theorem State.updParse_lanes {s : State} {p : Nat} {f : ParsePort → ParsePort} : (s.updParse p f).lanes = s.lanes := rfl
@[simp] theorem State.updParse_ports {s : State} {p : Nat} {f : ParsePort → ParsePort} : (s.updParse p f).ports = s.ports := rfl
@[simp] theorem State.updParse_modules {s : State} {p : Nat} {f : ParsePort → ParsePort} : (s.updParse p f).modules = s.modules := rfl
@[simp] theorem State.updParse_selv {s : State} {p : Nat} {f : ParsePort → ParsePort} : (s.updParse p f).selv = s.selv := rfl
@[simp] theorem State.updParse_tdc {s : State} {p : Nat} {f : ParsePort → ParsePort} : (s.updParse p f).tdc = s.tdc := rfl
@[simp] theorem State.updParse_gauge {s : State} {p : Nat} {f : ParsePort → ParsePort} : (s.updParse p f).gauge = s.gauge := rfl
@[simp] theorem State.updParse_ref {s : State} {p : Nat} {f : ParsePort → ParsePort} : (s.updParse p f).ref = s.ref := rfl
@[simp] theorem State.updParse_time {s : State} {p : Nat} {f : ParsePort → ParsePort} : (s.updParse p f).time = s.time := rfl
@[simp] theorem State.updParse_ptp {s : State} {p : Nat} {f : ParsePort → ParsePort} : (s.updParse p f).ptp = s.ptp := rfl
@[simp] theorem State.updParse_stitch {s : State} {p : Nat} {f : ParsePort → ParsePort} : (s.updParse p f).stitch = s.stitch := rfl
theorem State.updParse_parse {s : State} {p : Nat} {f : ParsePort → ParsePort} : (s.updParse p f).parse = { s.parse with ports := s.parse.ports.upd p f } := rfl
@[simp] theorem State.updParse_fwd {s : State} {p : Nat} {f : ParsePort → ParsePort} : (s.updParse p f).fwd = s.fwd := rfl
@[simp] theorem State.updParse_core {s : State} {p : Nat} {f : ParsePort → ParsePort} : (s.updParse p f).core = s.core := rfl
@[simp] theorem State.updParse_contracts {s : State} {p : Nat} {f : ParsePort → ParsePort} : (s.updParse p f).contracts = s.contracts := rfl
@[simp] theorem State.updParse_pair {s : State} {p : Nat} {f : ParsePort → ParsePort} : (s.updParse p f).pair = s.pair := rfl
@[simp] theorem State.updParse_fw {s : State} {p : Nat} {f : ParsePort → ParsePort} : (s.updParse p f).fw = s.fw := rfl
@[simp] theorem State.updParse_mbs {s : State} {p : Nat} {f : ParsePort → ParsePort} : (s.updParse p f).mbs = s.mbs := rfl
@[simp] theorem State.updParse_fence {s : State} {p : Nat} {f : ParsePort → ParsePort} : (s.updParse p f).fence = s.fence := rfl
@[simp] theorem State.updParse_events {s : State} {p : Nat} {f : ParsePort → ParsePort} : (s.updParse p f).events = s.events := rfl
@[simp] theorem State.updParse_stats {s : State} {p : Nat} {f : ParsePort → ParsePort} : (s.updParse p f).stats = s.stats := rfl
@[simp] theorem State.updParse_power {s : State} {p : Nat} {f : ParsePort → ParsePort} : (s.updParse p f).power = s.power := rfl
@[simp] theorem State.updParse_host {s : State} {p : Nat} {f : ParsePort → ParsePort} : (s.updParse p f).host = s.host := rfl

@[simp] theorem State.updFrame_now {s : State} {n : Nat} {f : Frame → Frame} : (s.updFrame n f).now = s.now := rfl
@[simp] theorem State.updFrame_free {s : State} {n : Nat} {f : Frame → Frame} : (s.updFrame n f).free = s.free := rfl
@[simp] theorem State.updFrame_pending {s : State} {n : Nat} {f : Frame → Frame} : (s.updFrame n f).pending = s.pending := rfl
@[simp] theorem State.updFrame_cmd {s : State} {n : Nat} {f : Frame → Frame} : (s.updFrame n f).cmd = s.cmd := rfl
@[simp] theorem State.updFrame_hostMem {s : State} {n : Nat} {f : Frame → Frame} : (s.updFrame n f).hostMem = s.hostMem := rfl
@[simp] theorem State.updFrame_fuses {s : State} {n : Nat} {f : Frame → Frame} : (s.updFrame n f).fuses = s.fuses := rfl
@[simp] theorem State.updFrame_glob {s : State} {n : Nat} {f : Frame → Frame} : (s.updFrame n f).glob = s.glob := rfl
@[simp] theorem State.updFrame_chan {s : State} {n : Nat} {f : Frame → Frame} : (s.updFrame n f).chan = s.chan := rfl
@[simp] theorem State.updFrame_lanes {s : State} {n : Nat} {f : Frame → Frame} : (s.updFrame n f).lanes = s.lanes := rfl
@[simp] theorem State.updFrame_ports {s : State} {n : Nat} {f : Frame → Frame} : (s.updFrame n f).ports = s.ports := rfl
@[simp] theorem State.updFrame_modules {s : State} {n : Nat} {f : Frame → Frame} : (s.updFrame n f).modules = s.modules := rfl
@[simp] theorem State.updFrame_selv {s : State} {n : Nat} {f : Frame → Frame} : (s.updFrame n f).selv = s.selv := rfl
@[simp] theorem State.updFrame_tdc {s : State} {n : Nat} {f : Frame → Frame} : (s.updFrame n f).tdc = s.tdc := rfl
@[simp] theorem State.updFrame_gauge {s : State} {n : Nat} {f : Frame → Frame} : (s.updFrame n f).gauge = s.gauge := rfl
@[simp] theorem State.updFrame_ref {s : State} {n : Nat} {f : Frame → Frame} : (s.updFrame n f).ref = s.ref := rfl
@[simp] theorem State.updFrame_time {s : State} {n : Nat} {f : Frame → Frame} : (s.updFrame n f).time = s.time := rfl
@[simp] theorem State.updFrame_ptp {s : State} {n : Nat} {f : Frame → Frame} : (s.updFrame n f).ptp = s.ptp := rfl
@[simp] theorem State.updFrame_stitch {s : State} {n : Nat} {f : Frame → Frame} : (s.updFrame n f).stitch = s.stitch := rfl
@[simp] theorem State.updFrame_parse {s : State} {n : Nat} {f : Frame → Frame} : (s.updFrame n f).parse = s.parse := rfl
@[simp] theorem State.updFrame_fwd {s : State} {n : Nat} {f : Frame → Frame} : (s.updFrame n f).fwd = s.fwd := rfl
theorem State.updFrame_core {s : State} {n : Nat} {f : Frame → Frame} : (s.updFrame n f).core = { s.core with frames := s.core.frames.upd n f } := rfl
@[simp] theorem State.updFrame_contracts {s : State} {n : Nat} {f : Frame → Frame} : (s.updFrame n f).contracts = s.contracts := rfl
@[simp] theorem State.updFrame_pair {s : State} {n : Nat} {f : Frame → Frame} : (s.updFrame n f).pair = s.pair := rfl
@[simp] theorem State.updFrame_fw {s : State} {n : Nat} {f : Frame → Frame} : (s.updFrame n f).fw = s.fw := rfl
@[simp] theorem State.updFrame_mbs {s : State} {n : Nat} {f : Frame → Frame} : (s.updFrame n f).mbs = s.mbs := rfl
@[simp] theorem State.updFrame_fence {s : State} {n : Nat} {f : Frame → Frame} : (s.updFrame n f).fence = s.fence := rfl
@[simp] theorem State.updFrame_events {s : State} {n : Nat} {f : Frame → Frame} : (s.updFrame n f).events = s.events := rfl
@[simp] theorem State.updFrame_stats {s : State} {n : Nat} {f : Frame → Frame} : (s.updFrame n f).stats = s.stats := rfl
@[simp] theorem State.updFrame_power {s : State} {n : Nat} {f : Frame → Frame} : (s.updFrame n f).power = s.power := rfl
@[simp] theorem State.updFrame_host {s : State} {n : Nat} {f : Frame → Frame} : (s.updFrame n f).host = s.host := rfl

@[simp] theorem State.updCopy_now {s : State} {n : Nat} {f : Copy → Copy} : (s.updCopy n f).now = s.now := rfl
@[simp] theorem State.updCopy_free {s : State} {n : Nat} {f : Copy → Copy} : (s.updCopy n f).free = s.free := rfl
@[simp] theorem State.updCopy_pending {s : State} {n : Nat} {f : Copy → Copy} : (s.updCopy n f).pending = s.pending := rfl
@[simp] theorem State.updCopy_cmd {s : State} {n : Nat} {f : Copy → Copy} : (s.updCopy n f).cmd = s.cmd := rfl
@[simp] theorem State.updCopy_hostMem {s : State} {n : Nat} {f : Copy → Copy} : (s.updCopy n f).hostMem = s.hostMem := rfl
@[simp] theorem State.updCopy_fuses {s : State} {n : Nat} {f : Copy → Copy} : (s.updCopy n f).fuses = s.fuses := rfl
@[simp] theorem State.updCopy_glob {s : State} {n : Nat} {f : Copy → Copy} : (s.updCopy n f).glob = s.glob := rfl
@[simp] theorem State.updCopy_chan {s : State} {n : Nat} {f : Copy → Copy} : (s.updCopy n f).chan = s.chan := rfl
@[simp] theorem State.updCopy_lanes {s : State} {n : Nat} {f : Copy → Copy} : (s.updCopy n f).lanes = s.lanes := rfl
@[simp] theorem State.updCopy_ports {s : State} {n : Nat} {f : Copy → Copy} : (s.updCopy n f).ports = s.ports := rfl
@[simp] theorem State.updCopy_modules {s : State} {n : Nat} {f : Copy → Copy} : (s.updCopy n f).modules = s.modules := rfl
@[simp] theorem State.updCopy_selv {s : State} {n : Nat} {f : Copy → Copy} : (s.updCopy n f).selv = s.selv := rfl
@[simp] theorem State.updCopy_tdc {s : State} {n : Nat} {f : Copy → Copy} : (s.updCopy n f).tdc = s.tdc := rfl
@[simp] theorem State.updCopy_gauge {s : State} {n : Nat} {f : Copy → Copy} : (s.updCopy n f).gauge = s.gauge := rfl
@[simp] theorem State.updCopy_ref {s : State} {n : Nat} {f : Copy → Copy} : (s.updCopy n f).ref = s.ref := rfl
@[simp] theorem State.updCopy_time {s : State} {n : Nat} {f : Copy → Copy} : (s.updCopy n f).time = s.time := rfl
@[simp] theorem State.updCopy_ptp {s : State} {n : Nat} {f : Copy → Copy} : (s.updCopy n f).ptp = s.ptp := rfl
@[simp] theorem State.updCopy_stitch {s : State} {n : Nat} {f : Copy → Copy} : (s.updCopy n f).stitch = s.stitch := rfl
@[simp] theorem State.updCopy_parse {s : State} {n : Nat} {f : Copy → Copy} : (s.updCopy n f).parse = s.parse := rfl
@[simp] theorem State.updCopy_fwd {s : State} {n : Nat} {f : Copy → Copy} : (s.updCopy n f).fwd = s.fwd := rfl
theorem State.updCopy_core {s : State} {n : Nat} {f : Copy → Copy} : (s.updCopy n f).core = { s.core with copies := s.core.copies.upd n f } := rfl
@[simp] theorem State.updCopy_contracts {s : State} {n : Nat} {f : Copy → Copy} : (s.updCopy n f).contracts = s.contracts := rfl
@[simp] theorem State.updCopy_pair {s : State} {n : Nat} {f : Copy → Copy} : (s.updCopy n f).pair = s.pair := rfl
@[simp] theorem State.updCopy_fw {s : State} {n : Nat} {f : Copy → Copy} : (s.updCopy n f).fw = s.fw := rfl
@[simp] theorem State.updCopy_mbs {s : State} {n : Nat} {f : Copy → Copy} : (s.updCopy n f).mbs = s.mbs := rfl
@[simp] theorem State.updCopy_fence {s : State} {n : Nat} {f : Copy → Copy} : (s.updCopy n f).fence = s.fence := rfl
@[simp] theorem State.updCopy_events {s : State} {n : Nat} {f : Copy → Copy} : (s.updCopy n f).events = s.events := rfl
@[simp] theorem State.updCopy_stats {s : State} {n : Nat} {f : Copy → Copy} : (s.updCopy n f).stats = s.stats := rfl
@[simp] theorem State.updCopy_power {s : State} {n : Nat} {f : Copy → Copy} : (s.updCopy n f).power = s.power := rfl
@[simp] theorem State.updCopy_host {s : State} {n : Nat} {f : Copy → Copy} : (s.updCopy n f).host = s.host := rfl

@[simp] theorem State.updQueue_now {s : State} {p c : Nat} {f : QCfg → QCfg} : (s.updQueue p c f).now = s.now := rfl
@[simp] theorem State.updQueue_free {s : State} {p c : Nat} {f : QCfg → QCfg} : (s.updQueue p c f).free = s.free := rfl
@[simp] theorem State.updQueue_pending {s : State} {p c : Nat} {f : QCfg → QCfg} : (s.updQueue p c f).pending = s.pending := rfl
@[simp] theorem State.updQueue_cmd {s : State} {p c : Nat} {f : QCfg → QCfg} : (s.updQueue p c f).cmd = s.cmd := rfl
@[simp] theorem State.updQueue_hostMem {s : State} {p c : Nat} {f : QCfg → QCfg} : (s.updQueue p c f).hostMem = s.hostMem := rfl
@[simp] theorem State.updQueue_fuses {s : State} {p c : Nat} {f : QCfg → QCfg} : (s.updQueue p c f).fuses = s.fuses := rfl
@[simp] theorem State.updQueue_glob {s : State} {p c : Nat} {f : QCfg → QCfg} : (s.updQueue p c f).glob = s.glob := rfl
@[simp] theorem State.updQueue_chan {s : State} {p c : Nat} {f : QCfg → QCfg} : (s.updQueue p c f).chan = s.chan := rfl
@[simp] theorem State.updQueue_lanes {s : State} {p c : Nat} {f : QCfg → QCfg} : (s.updQueue p c f).lanes = s.lanes := rfl
@[simp] theorem State.updQueue_ports {s : State} {p c : Nat} {f : QCfg → QCfg} : (s.updQueue p c f).ports = s.ports := rfl
@[simp] theorem State.updQueue_modules {s : State} {p c : Nat} {f : QCfg → QCfg} : (s.updQueue p c f).modules = s.modules := rfl
@[simp] theorem State.updQueue_selv {s : State} {p c : Nat} {f : QCfg → QCfg} : (s.updQueue p c f).selv = s.selv := rfl
@[simp] theorem State.updQueue_tdc {s : State} {p c : Nat} {f : QCfg → QCfg} : (s.updQueue p c f).tdc = s.tdc := rfl
@[simp] theorem State.updQueue_gauge {s : State} {p c : Nat} {f : QCfg → QCfg} : (s.updQueue p c f).gauge = s.gauge := rfl
@[simp] theorem State.updQueue_ref {s : State} {p c : Nat} {f : QCfg → QCfg} : (s.updQueue p c f).ref = s.ref := rfl
@[simp] theorem State.updQueue_time {s : State} {p c : Nat} {f : QCfg → QCfg} : (s.updQueue p c f).time = s.time := rfl
@[simp] theorem State.updQueue_ptp {s : State} {p c : Nat} {f : QCfg → QCfg} : (s.updQueue p c f).ptp = s.ptp := rfl
@[simp] theorem State.updQueue_stitch {s : State} {p c : Nat} {f : QCfg → QCfg} : (s.updQueue p c f).stitch = s.stitch := rfl
@[simp] theorem State.updQueue_parse {s : State} {p c : Nat} {f : QCfg → QCfg} : (s.updQueue p c f).parse = s.parse := rfl
@[simp] theorem State.updQueue_fwd {s : State} {p c : Nat} {f : QCfg → QCfg} : (s.updQueue p c f).fwd = s.fwd := rfl
theorem State.updQueue_core {s : State} {p c : Nat} {f : QCfg → QCfg} : (s.updQueue p c f).core = { s.core with queues := s.core.queues.upd (8 * p + c) f } := rfl
@[simp] theorem State.updQueue_contracts {s : State} {p c : Nat} {f : QCfg → QCfg} : (s.updQueue p c f).contracts = s.contracts := rfl
@[simp] theorem State.updQueue_pair {s : State} {p c : Nat} {f : QCfg → QCfg} : (s.updQueue p c f).pair = s.pair := rfl
@[simp] theorem State.updQueue_fw {s : State} {p c : Nat} {f : QCfg → QCfg} : (s.updQueue p c f).fw = s.fw := rfl
@[simp] theorem State.updQueue_mbs {s : State} {p c : Nat} {f : QCfg → QCfg} : (s.updQueue p c f).mbs = s.mbs := rfl
@[simp] theorem State.updQueue_fence {s : State} {p c : Nat} {f : QCfg → QCfg} : (s.updQueue p c f).fence = s.fence := rfl
@[simp] theorem State.updQueue_events {s : State} {p c : Nat} {f : QCfg → QCfg} : (s.updQueue p c f).events = s.events := rfl
@[simp] theorem State.updQueue_stats {s : State} {p c : Nat} {f : QCfg → QCfg} : (s.updQueue p c f).stats = s.stats := rfl
@[simp] theorem State.updQueue_power {s : State} {p c : Nat} {f : QCfg → QCfg} : (s.updQueue p c f).power = s.power := rfl
@[simp] theorem State.updQueue_host {s : State} {p c : Nat} {f : QCfg → QCfg} : (s.updQueue p c f).host = s.host := rfl

@[simp] theorem State.updCore_now {s : State} {n : Nat} {f : CtrlCore → CtrlCore} : (s.updCore n f).now = s.now := rfl
@[simp] theorem State.updCore_free {s : State} {n : Nat} {f : CtrlCore → CtrlCore} : (s.updCore n f).free = s.free := rfl
@[simp] theorem State.updCore_pending {s : State} {n : Nat} {f : CtrlCore → CtrlCore} : (s.updCore n f).pending = s.pending := rfl
@[simp] theorem State.updCore_cmd {s : State} {n : Nat} {f : CtrlCore → CtrlCore} : (s.updCore n f).cmd = s.cmd := rfl
@[simp] theorem State.updCore_hostMem {s : State} {n : Nat} {f : CtrlCore → CtrlCore} : (s.updCore n f).hostMem = s.hostMem := rfl
@[simp] theorem State.updCore_fuses {s : State} {n : Nat} {f : CtrlCore → CtrlCore} : (s.updCore n f).fuses = s.fuses := rfl
@[simp] theorem State.updCore_glob {s : State} {n : Nat} {f : CtrlCore → CtrlCore} : (s.updCore n f).glob = s.glob := rfl
@[simp] theorem State.updCore_chan {s : State} {n : Nat} {f : CtrlCore → CtrlCore} : (s.updCore n f).chan = s.chan := rfl
@[simp] theorem State.updCore_lanes {s : State} {n : Nat} {f : CtrlCore → CtrlCore} : (s.updCore n f).lanes = s.lanes := rfl
@[simp] theorem State.updCore_ports {s : State} {n : Nat} {f : CtrlCore → CtrlCore} : (s.updCore n f).ports = s.ports := rfl
@[simp] theorem State.updCore_modules {s : State} {n : Nat} {f : CtrlCore → CtrlCore} : (s.updCore n f).modules = s.modules := rfl
@[simp] theorem State.updCore_selv {s : State} {n : Nat} {f : CtrlCore → CtrlCore} : (s.updCore n f).selv = s.selv := rfl
@[simp] theorem State.updCore_tdc {s : State} {n : Nat} {f : CtrlCore → CtrlCore} : (s.updCore n f).tdc = s.tdc := rfl
@[simp] theorem State.updCore_gauge {s : State} {n : Nat} {f : CtrlCore → CtrlCore} : (s.updCore n f).gauge = s.gauge := rfl
@[simp] theorem State.updCore_ref {s : State} {n : Nat} {f : CtrlCore → CtrlCore} : (s.updCore n f).ref = s.ref := rfl
@[simp] theorem State.updCore_time {s : State} {n : Nat} {f : CtrlCore → CtrlCore} : (s.updCore n f).time = s.time := rfl
@[simp] theorem State.updCore_ptp {s : State} {n : Nat} {f : CtrlCore → CtrlCore} : (s.updCore n f).ptp = s.ptp := rfl
@[simp] theorem State.updCore_stitch {s : State} {n : Nat} {f : CtrlCore → CtrlCore} : (s.updCore n f).stitch = s.stitch := rfl
@[simp] theorem State.updCore_parse {s : State} {n : Nat} {f : CtrlCore → CtrlCore} : (s.updCore n f).parse = s.parse := rfl
@[simp] theorem State.updCore_fwd {s : State} {n : Nat} {f : CtrlCore → CtrlCore} : (s.updCore n f).fwd = s.fwd := rfl
@[simp] theorem State.updCore_core {s : State} {n : Nat} {f : CtrlCore → CtrlCore} : (s.updCore n f).core = s.core := rfl
@[simp] theorem State.updCore_contracts {s : State} {n : Nat} {f : CtrlCore → CtrlCore} : (s.updCore n f).contracts = s.contracts := rfl
@[simp] theorem State.updCore_pair {s : State} {n : Nat} {f : CtrlCore → CtrlCore} : (s.updCore n f).pair = s.pair := rfl
theorem State.updCore_fw {s : State} {n : Nat} {f : CtrlCore → CtrlCore} : (s.updCore n f).fw = { s.fw with cores := s.fw.cores.upd n f } := rfl
@[simp] theorem State.updCore_mbs {s : State} {n : Nat} {f : CtrlCore → CtrlCore} : (s.updCore n f).mbs = s.mbs := rfl
@[simp] theorem State.updCore_fence {s : State} {n : Nat} {f : CtrlCore → CtrlCore} : (s.updCore n f).fence = s.fence := rfl
@[simp] theorem State.updCore_events {s : State} {n : Nat} {f : CtrlCore → CtrlCore} : (s.updCore n f).events = s.events := rfl
@[simp] theorem State.updCore_stats {s : State} {n : Nat} {f : CtrlCore → CtrlCore} : (s.updCore n f).stats = s.stats := rfl
@[simp] theorem State.updCore_power {s : State} {n : Nat} {f : CtrlCore → CtrlCore} : (s.updCore n f).power = s.power := rfl
@[simp] theorem State.updCore_host {s : State} {n : Nat} {f : CtrlCore → CtrlCore} : (s.updCore n f).host = s.host := rfl

@[simp] theorem State.updChan_now {s : State} {n : Nat} {f : Chan → Chan} : (s.updChan n f).now = s.now := rfl
@[simp] theorem State.updChan_free {s : State} {n : Nat} {f : Chan → Chan} : (s.updChan n f).free = s.free := rfl
@[simp] theorem State.updChan_pending {s : State} {n : Nat} {f : Chan → Chan} : (s.updChan n f).pending = s.pending := rfl
@[simp] theorem State.updChan_cmd {s : State} {n : Nat} {f : Chan → Chan} : (s.updChan n f).cmd = s.cmd := rfl
@[simp] theorem State.updChan_hostMem {s : State} {n : Nat} {f : Chan → Chan} : (s.updChan n f).hostMem = s.hostMem := rfl
@[simp] theorem State.updChan_fuses {s : State} {n : Nat} {f : Chan → Chan} : (s.updChan n f).fuses = s.fuses := rfl
@[simp] theorem State.updChan_glob {s : State} {n : Nat} {f : Chan → Chan} : (s.updChan n f).glob = s.glob := rfl
@[simp] theorem State.updChan_chan {s : State} {n : Nat} {f : Chan → Chan} : (s.updChan n f).chan = s.chan := rfl
@[simp] theorem State.updChan_lanes {s : State} {n : Nat} {f : Chan → Chan} : (s.updChan n f).lanes = s.lanes := rfl
@[simp] theorem State.updChan_ports {s : State} {n : Nat} {f : Chan → Chan} : (s.updChan n f).ports = s.ports := rfl
@[simp] theorem State.updChan_modules {s : State} {n : Nat} {f : Chan → Chan} : (s.updChan n f).modules = s.modules := rfl
@[simp] theorem State.updChan_selv {s : State} {n : Nat} {f : Chan → Chan} : (s.updChan n f).selv = s.selv := rfl
@[simp] theorem State.updChan_tdc {s : State} {n : Nat} {f : Chan → Chan} : (s.updChan n f).tdc = s.tdc := rfl
@[simp] theorem State.updChan_gauge {s : State} {n : Nat} {f : Chan → Chan} : (s.updChan n f).gauge = s.gauge := rfl
@[simp] theorem State.updChan_ref {s : State} {n : Nat} {f : Chan → Chan} : (s.updChan n f).ref = s.ref := rfl
@[simp] theorem State.updChan_time {s : State} {n : Nat} {f : Chan → Chan} : (s.updChan n f).time = s.time := rfl
@[simp] theorem State.updChan_ptp {s : State} {n : Nat} {f : Chan → Chan} : (s.updChan n f).ptp = s.ptp := rfl
@[simp] theorem State.updChan_stitch {s : State} {n : Nat} {f : Chan → Chan} : (s.updChan n f).stitch = s.stitch := rfl
@[simp] theorem State.updChan_parse {s : State} {n : Nat} {f : Chan → Chan} : (s.updChan n f).parse = s.parse := rfl
@[simp] theorem State.updChan_fwd {s : State} {n : Nat} {f : Chan → Chan} : (s.updChan n f).fwd = s.fwd := rfl
@[simp] theorem State.updChan_core {s : State} {n : Nat} {f : Chan → Chan} : (s.updChan n f).core = s.core := rfl
@[simp] theorem State.updChan_contracts {s : State} {n : Nat} {f : Chan → Chan} : (s.updChan n f).contracts = s.contracts := rfl
@[simp] theorem State.updChan_pair {s : State} {n : Nat} {f : Chan → Chan} : (s.updChan n f).pair = s.pair := rfl
@[simp] theorem State.updChan_fw {s : State} {n : Nat} {f : Chan → Chan} : (s.updChan n f).fw = s.fw := rfl
@[simp] theorem State.updChan_mbs {s : State} {n : Nat} {f : Chan → Chan} : (s.updChan n f).mbs = s.mbs := rfl
@[simp] theorem State.updChan_fence {s : State} {n : Nat} {f : Chan → Chan} : (s.updChan n f).fence = s.fence := rfl
@[simp] theorem State.updChan_events {s : State} {n : Nat} {f : Chan → Chan} : (s.updChan n f).events = s.events := rfl
@[simp] theorem State.updChan_stats {s : State} {n : Nat} {f : Chan → Chan} : (s.updChan n f).stats = s.stats := rfl
@[simp] theorem State.updChan_power {s : State} {n : Nat} {f : Chan → Chan} : (s.updChan n f).power = s.power := rfl
theorem State.updChan_host {s : State} {n : Nat} {f : Chan → Chan} : (s.updChan n f).host = { s.host with chans := s.host.chans.upd n f } := rfl

@[simp] theorem State.updSensor_now {s : State} {n : Nat} {f : Sensor → Sensor} : (s.updSensor n f).now = s.now := rfl
@[simp] theorem State.updSensor_free {s : State} {n : Nat} {f : Sensor → Sensor} : (s.updSensor n f).free = s.free := rfl
@[simp] theorem State.updSensor_pending {s : State} {n : Nat} {f : Sensor → Sensor} : (s.updSensor n f).pending = s.pending := rfl
@[simp] theorem State.updSensor_cmd {s : State} {n : Nat} {f : Sensor → Sensor} : (s.updSensor n f).cmd = s.cmd := rfl
@[simp] theorem State.updSensor_hostMem {s : State} {n : Nat} {f : Sensor → Sensor} : (s.updSensor n f).hostMem = s.hostMem := rfl
@[simp] theorem State.updSensor_fuses {s : State} {n : Nat} {f : Sensor → Sensor} : (s.updSensor n f).fuses = s.fuses := rfl
@[simp] theorem State.updSensor_glob {s : State} {n : Nat} {f : Sensor → Sensor} : (s.updSensor n f).glob = s.glob := rfl
@[simp] theorem State.updSensor_chan {s : State} {n : Nat} {f : Sensor → Sensor} : (s.updSensor n f).chan = s.chan := rfl
@[simp] theorem State.updSensor_lanes {s : State} {n : Nat} {f : Sensor → Sensor} : (s.updSensor n f).lanes = s.lanes := rfl
@[simp] theorem State.updSensor_ports {s : State} {n : Nat} {f : Sensor → Sensor} : (s.updSensor n f).ports = s.ports := rfl
@[simp] theorem State.updSensor_modules {s : State} {n : Nat} {f : Sensor → Sensor} : (s.updSensor n f).modules = s.modules := rfl
@[simp] theorem State.updSensor_selv {s : State} {n : Nat} {f : Sensor → Sensor} : (s.updSensor n f).selv = s.selv := rfl
@[simp] theorem State.updSensor_tdc {s : State} {n : Nat} {f : Sensor → Sensor} : (s.updSensor n f).tdc = s.tdc := rfl
@[simp] theorem State.updSensor_gauge {s : State} {n : Nat} {f : Sensor → Sensor} : (s.updSensor n f).gauge = s.gauge := rfl
@[simp] theorem State.updSensor_ref {s : State} {n : Nat} {f : Sensor → Sensor} : (s.updSensor n f).ref = s.ref := rfl
@[simp] theorem State.updSensor_time {s : State} {n : Nat} {f : Sensor → Sensor} : (s.updSensor n f).time = s.time := rfl
@[simp] theorem State.updSensor_ptp {s : State} {n : Nat} {f : Sensor → Sensor} : (s.updSensor n f).ptp = s.ptp := rfl
@[simp] theorem State.updSensor_stitch {s : State} {n : Nat} {f : Sensor → Sensor} : (s.updSensor n f).stitch = s.stitch := rfl
@[simp] theorem State.updSensor_parse {s : State} {n : Nat} {f : Sensor → Sensor} : (s.updSensor n f).parse = s.parse := rfl
@[simp] theorem State.updSensor_fwd {s : State} {n : Nat} {f : Sensor → Sensor} : (s.updSensor n f).fwd = s.fwd := rfl
@[simp] theorem State.updSensor_core {s : State} {n : Nat} {f : Sensor → Sensor} : (s.updSensor n f).core = s.core := rfl
@[simp] theorem State.updSensor_contracts {s : State} {n : Nat} {f : Sensor → Sensor} : (s.updSensor n f).contracts = s.contracts := rfl
@[simp] theorem State.updSensor_pair {s : State} {n : Nat} {f : Sensor → Sensor} : (s.updSensor n f).pair = s.pair := rfl
@[simp] theorem State.updSensor_fw {s : State} {n : Nat} {f : Sensor → Sensor} : (s.updSensor n f).fw = s.fw := rfl
@[simp] theorem State.updSensor_mbs {s : State} {n : Nat} {f : Sensor → Sensor} : (s.updSensor n f).mbs = s.mbs := rfl
@[simp] theorem State.updSensor_fence {s : State} {n : Nat} {f : Sensor → Sensor} : (s.updSensor n f).fence = s.fence := rfl
@[simp] theorem State.updSensor_events {s : State} {n : Nat} {f : Sensor → Sensor} : (s.updSensor n f).events = s.events := rfl
@[simp] theorem State.updSensor_stats {s : State} {n : Nat} {f : Sensor → Sensor} : (s.updSensor n f).stats = s.stats := rfl
theorem State.updSensor_power {s : State} {n : Nat} {f : Sensor → Sensor} : (s.updSensor n f).power = { s.power with sensors := s.power.sensors.upd n f } := rfl
@[simp] theorem State.updSensor_host {s : State} {n : Nat} {f : Sensor → Sensor} : (s.updSensor n f).host = s.host := rfl

end Sys2Proof.Machine
end

