-- ==== Sys2Proof/Laws/Frames.lean ====
section
/-!
SUPPORT. Which parts of the state the shared operations touch: raising an event, answering a command, serving the fences that wait, and
letting time pass.
-/
namespace Sys2Proof.Machine

/-- Every part but those named is as it was, and the machine has gone on and not back. -/
structure goesOn (ps : List Part) (s t : State) : Prop where
  keeps : keepsAllBut ps s t
  onward : s.onward t

theorem goesOn.of {ps : List Part} {s t : State} (h : keepsAllBut ps s t) (k : s.onward t) : goesOn ps s t := ⟨h, k⟩

theorem State.onward_refl (s : State) : s.onward s := ⟨Nat.le_refl _, id, Nat.le_refl _, fun _ h => h⟩

theorem State.onward_trans {s t u : State} (h : s.onward t) (k : t.onward u) : s.onward u :=
  ⟨Nat.le_trans h.1 k.1, fun w => k.2.1 (h.2.1 w), Nat.le_trans h.2.2.1 k.2.2.1, fun x m => k.2.2.2 x (h.2.2.2 x m)⟩

theorem keepsAllBut.refl (ps : List Part) (s : State) : keepsAllBut ps s s := by
  intro p _; cases p <;> rfl

theorem keepsAllBut.trans {ps : List Part} {s t u : State} (h : keepsAllBut ps s t) (k : keepsAllBut ps t u) : keepsAllBut ps s u := by
  intro p hp
  have a := h p hp
  have b := k p hp
  cases p <;> exact b.trans a

theorem keepsAllBut.mono {ps qs : List Part} {s t : State} (h : keepsAllBut ps s t) (hs : ∀ p ∈ ps, p ∈ qs) : keepsAllBut qs s t :=
  fun p hp => h p fun q => hp (hs p q)

theorem goesOn.refl (ps : List Part) (s : State) : goesOn ps s s := ⟨.refl _ _, s.onward_refl⟩

theorem goesOn.trans {ps : List Part} {s t u : State} (h : goesOn ps s t) (k : goesOn ps t u) : goesOn ps s u :=
  ⟨h.keeps.trans k.keeps, State.onward_trans h.onward k.onward⟩

theorem goesOn.mono {ps qs : List Part} {s t : State} (h : goesOn ps s t) (hs : ∀ p ∈ ps, p ∈ qs) : goesOn qs s t :=
  ⟨h.keeps.mono hs, h.onward⟩

/-- A change of parts that moves neither the clock, host memory nor the one-time settings goes on. -/
theorem goesOn.still {ps : List Part} {s t : State} (h : keepsAllBut ps s t) (hn : t.now = s.now) (hm : t.hostMem = s.hostMem)
    (hf : t.fuses = s.fuses) : goesOn ps s t :=
  ⟨h, Nat.le_of_eq hn.symm, fun w => hm ▸ w, Nat.le_of_eq (congrArg Fuses.minVersion hf.symm), fun _ m => hf ▸ m⟩

theorem goesOn.foldl {α : Type} {ps : List Part} (f : State → α → State) (hf : ∀ s a, goesOn ps s (f s a)) (l : List α)
    (s : State) : goesOn ps s (l.foldl f s) := by
  induction l generalizing s with
  | nil => exact .refl ps s
  | cons a l ih => exact (hf s a).trans (ih _)

theorem goesOn.ite {ps : List Part} {s a b : State} {c : Prop} [Decidable c] (h : goesOn ps s a) (k : goesOn ps s b) :
    goesOn ps s (if c then a else b) := by split <;> assumption

theorem keeps_events (s : State) (e : Events) : goesOn [.events] s { s with events := e } := by
  refine .still ?_ rfl rfl rfl
  intro p hp; cases p <;> first | rfl | exact absurd (by simp) hp

theorem keeps_fence (s : State) (e : Fence) : goesOn [.fence] s { s with fence := e } := by
  refine .still ?_ rfl rfl rfl
  intro p hp; cases p <;> first | rfl | exact absurd (by simp) hp

theorem keeps_mbs (s : State) (e : Tbl Mailbox) : goesOn [.mbs] s { s with mbs := e } := by
  refine .still ?_ rfl rfl rfl
  intro p hp; cases p <;> first | rfl | exact absurd (by simp) hp

theorem keeps_fw (s : State) (e : Fw) : goesOn [.fw] s { s with fw := e } := by
  refine .still ?_ rfl rfl rfl
  intro p hp; cases p <;> first | rfl | exact absurd (by simp) hp

/-! ## Events -/

theorem State.vecSend_keeps (s : State) (v : Nat) : goesOn [.events] s (s.vecSend v) := by
  unfold State.vecSend; dsimp only; split <;> exact keeps_events _ _

theorem State.vecRaise_keeps (s : State) (v : Nat) : goesOn [.events] s (s.vecRaise v) := by
  unfold State.vecRaise; dsimp only; split
  · exact State.vecSend_keeps _ _
  · exact keeps_events _ _

/-- A hardware set of a W1C bit touches the event controller's record of the cycle only. -/
theorem State.hwSet_keeps (s : State) (o b : Nat) : goesOn [.events] s (s.hwSet o b) := keeps_events _ _

/-- A hardware increment of an RC field touches the same record only. -/
theorem State.hwCount_keeps (s : State) (o old : Nat) : goesOn [.events] s (s.hwCount o old) := keeps_events _ _

theorem State.logStore_keeps (s : State) (e : Events) (k : Nat) (r : LogRec) : goesOn [.events] s (s.logStore e k r) := by
  unfold State.logStore; dsimp only; split
  · exact (keeps_events _ _).trans (State.hwSet_keeps _ _ _)
  · exact keeps_events _ _

theorem State.logRecord_keeps (s : State) (r : LogRec) : goesOn [.events] s (s.logRecord r) := by
  unfold State.logRecord; dsimp only; split
  · exact ((keeps_events _ _).trans (State.hwCount_keeps _ _ _)).trans (State.hwSet_keeps _ _ _)
  · exact State.logStore_keeps _ _ _ _

theorem State.logMarker_keeps (s : State) (ep : Nat) : goesOn [.events] s (s.logMarker ep) := by
  unfold State.logMarker; dsimp only; split
  · exact keeps_events _ _
  · exact State.logRecord_keeps _ _

theorem State.logOwed_keeps (s : State) : goesOn [.events, .fence] s s.logOwed := by
  unfold State.logOwed
  refine .foldl _ (fun t m => ?_) _ _
  split
  · exact ((keeps_fence _ _).mono (by simp)).trans ((State.logMarker_keeps _ _).mono (by simp))
  · exact .refl _ _

theorem State.raiseOne_keeps (s : State) (src cause : Nat) (inj : Bool) (data : List Byte) :
    goesOn [.events, .fence] s (s.raiseOne src cause inj data) := by
  unfold State.raiseOne; dsimp only
  have h1 : goesOn [.events, .fence] s <| State.hwSet { s with events := { s.events with
      pending := s.events.pending ||| BitVec.ofNat 1024 (2 ^ src)
      last := s.events.last.set src { cause := cause, count := satAdd 16 (s.events.last.get src).count 1 } } }
        (0x30100 + src / 32 * 4) (src % 32) :=
    ((keeps_events s _).trans (State.hwSet_keeps _ _ _)).mono (by simp)
  have h2 := fun (x : State) (r : LogRec) => (State.logOwed_keeps x).trans ((State.logRecord_keeps x.logOwed r).mono (qs := [.events, .fence]) (by simp))
  have h3 := fun (x : State) (v : Nat) => (State.vecRaise_keeps x v).mono (qs := [.events, .fence]) (by simp)
  split <;> split
  · exact h1.trans (h2 _ _)
  · exact (h1.trans (h2 _ _)).trans (h3 _ _)
  · exact h1
  · exact h1.trans (h3 _ _)

theorem State.logReached_keeps (t s : State) : goesOn [.events, .fence] t (t.logReached s) := by
  unfold State.logReached; split
  · exact State.raiseOne_keeps _ _ _ _ _
  · exact .refl _ _

/-- Raising an event touches the event controller, and the marks that the event log owes. -/
theorem State.raise_keeps (s : State) (src cause : Nat) (data : List Fld) (inj : Bool) :
    goesOn [.events, .fence] s (s.raise src cause data inj) := by
  exact (State.raiseOne_keeps _ _ _ _ _).trans (State.logReached_keeps _ _)

/-! ## Answers -/

theorem State.respond_keeps (s : State) (m opcode tag status detail : Nat) (notify mirrored : Bool) (res : List Byte) :
    goesOn [.mbs, .hostMem, .events, .fence] s (s.respond m opcode tag status detail notify mirrored res) := by
  unfold State.respond; dsimp only
  have h1 : ∀ (b : Tbl Mailbox), goesOn [.mbs, .hostMem, .events, .fence] s { s with
      hostMem := if (s.mbs.get m).isSilent then s.hostMem
        else hostWrite (if (res.drop 48).isEmpty then s.hostMem
          else hostWrite s.hostMem ((s.mbs.get m).extBase.toNat + 512 * ((s.mbs.get m).done.toNat % 256))
            (padTo (8 * ceilDiv (res.drop 48).length 8) (res.drop 48)))
          ((s.mbs.get m).respBase.toNat + 64 * ((s.mbs.get m).done.toNat % 256))
          (respEntry opcode status tag (s.mbs.get m).done.toNat detail mirrored res)
      mbs := b } := by
    intro b
    refine .of ?_ ⟨Nat.le_refl _, fun w => ?_, Nat.le_refl _, fun _ h => h⟩
    · intro p hp; cases p <;> first | rfl | exact absurd (by simp) hp
    · dsimp only
      split
      · exact w
      · refine Memory.wf_write _ _ _ ?_
        split
        · exact w
        · exact Memory.wf_write _ _ _ w
  have h2 := fun (x : State) (a b : Nat) => (State.raise_keeps x a b [] false).mono (qs := [.mbs, .hostMem, .events, .fence]) (by simp)
  have h3 := fun (x : State) (o b : Nat) => (State.hwSet_keeps x o b).mono (qs := [.mbs, .hostMem, .events, .fence]) (by simp)
  refine goesOn.ite (.trans (goesOn.ite (.trans (goesOn.ite ((h1 _).trans (h3 _ _ _)) (h1 _)) (h2 _ _ _)) (goesOn.ite ((h1 _).trans (h3 _ _ _)) (h1 _)))
    (h2 _ _ _)) (goesOn.ite (.trans (goesOn.ite ((h1 _).trans (h3 _ _ _)) (h1 _)) (h2 _ _ _)) (goesOn.ite ((h1 _).trans (h3 _ _ _)) (h1 _)))

/-- The parts that answering on a mailbox touches. -/
def ringParts : List Part := [.mbs, .hostMem, .events, .fence]

theorem State.updMb_ring (s : State) (m : Nat) (f : Mailbox → Mailbox) : goesOn ringParts s (s.updMb m f) :=
  (keeps_mbs s _).mono (by simp [ringParts])

theorem State.noteAborted_keeps (s : State) (m : Nat) (pos : BitVec 32) : goesOn ringParts s (s.noteAborted m pos) := by
  unfold State.noteAborted; split
  · exact .refl _ _
  · exact (State.updMb_ring _ _ _).trans ((State.raise_keeps _ _ _ _ _).mono (by simp [ringParts]))

theorem State.sweepHead_keeps (n : Nat) (s : State) (m : Nat) : goesOn ringParts s (s.sweepHead m n) := by
  induction n generalizing s with
  | zero => exact .refl _ _
  | succ n ih =>
    unfold State.sweepHead
    split
    · exact .refl _ _
    · split
      · exact .refl _ _
      · dsimp only; split
        · exact (((State.updMb_ring _ _ _).trans (State.respond_keeps _ _ _ _ _ _ _ _ _)).trans (State.noteAborted_keeps _ _ _)).trans (ih _)
        · split
          · exact ((State.updMb_ring _ _ _).trans (State.respond_keeps _ _ _ _ _ _ _ _ _)).trans (ih _)
          · exact .refl _ _

theorem State.sweepReset_keeps (n : Nat) (s : State) (m : Nat) : goesOn ringParts s (s.sweepReset m n) := by
  induction n generalizing s with
  | zero => exact .refl _ _
  | succ n ih =>
    unfold State.sweepReset; dsimp only
    split
    · exact .refl _ _
    · split
      · exact .refl _ _
      · split
        · exact State.updMb_ring _ _ _
        · exact ((State.respond_keeps _ _ _ _ _ _ _ _ _).trans (State.noteAborted_keeps _ _ _)).trans (ih _)

theorem State.sweep_keeps (s : State) (m : Nat) : goesOn ringParts s (s.sweep m) :=
  (State.sweepHead_keeps _ _ _).trans (State.sweepReset_keeps _ _ _)

/-! ## Fences -/

/-- The parts that serving the fences that wait touches. -/
def fenceParts : List Part := [.mbs, .hostMem, .events, .fence, .fw]

theorem State.placeFence_keeps (s : State) (src : CmdSrc) (f : Nat) (arm : Bool) : goesOn ringParts s (s.placeFence src f arm) := by
  unfold State.placeFence; dsimp only
  have h := fun e => (keeps_fence s e).mono (qs := ringParts) (by simp [ringParts])
  split
  · exact (h _).trans (State.updMb_ring _ _ _)
  · exact h _

theorem ring_fence {s t : State} (h : goesOn ringParts s t) : goesOn fenceParts s t := h.mono (by simp [ringParts, fenceParts])

theorem State.startFence_keeps (s : State) (src : CmdSrc) : goesOn fenceParts s (s.startFence src) := by
  unfold State.startFence; dsimp only
  have h := fun e => (keeps_fence s e).mono (qs := fenceParts) (by simp [fenceParts])
  have k := fun (x : State) (e : Fw) => (keeps_fw x e).mono (qs := fenceParts) (by simp [fenceParts])
  split
  · exact (h _).trans (ring_fence (State.placeFence_keeps _ _ _ _))
  · split
    · rename_i t ht
      unfold State.armSlot at ht
      split at ht
      · cases ht
        exact ((h _).trans (k _ _)).trans (ring_fence (State.placeFence_keeps _ _ _ _))
      · cases ht
    · refine .trans ?_ (ring_fence (State.sweep_keeps _ _))
      refine .trans ?_ (ring_fence (State.updMb_ring _ _ _))
      refine .still ?_ rfl rfl rfl
      intro p hp; cases p <;> first | rfl | exact absurd (by simp [fenceParts]) hp
  · exact h _

theorem State.markReady_keeps (s : State) : goesOn fenceParts s s.markReady := by
  unfold State.markReady
  refine .foldl _ (fun t m => ?_) _ _
  split
  · exact .refl _ _
  · split
    · exact ring_fence (State.updMb_ring _ _ _)
    · exact .refl _ _

theorem State.pokeOnce_keeps (s : State) : goesOn fenceParts s s.pokeOnce := by
  unfold State.pokeOnce
  refine (State.markReady_keeps s).trans (.foldl _ (fun t m => ?_) _ _)
  split
  · exact State.startFence_keeps _ _
  · exact .refl _ _

theorem State.pokeFences_keeps (s : State) : goesOn fenceParts s s.pokeFences := by
  unfold State.pokeFences
  exact (State.markReady_keeps s).trans (.foldl _ (fun t _ => State.pokeOnce_keeps t) _ _)

/-! ## Completion -/

/-- A command that completes touches the parts of its answer, and no other. -/
theorem State.finish_keeps (s : State) (src : CmdSrc) (opcode status detail : Nat) (res : List Fld) (ul : Bool) :
    goesOn answerParts s (s.finish src opcode status detail res ul) := by
  unfold State.finish; dsimp only
  have h : ∀ (a : CmdOut) (b : Fw) (c : Pair), goesOn answerParts s { s with cmd := a, fw := b, pair := c } := by
    intro a b c; refine .still ?_ rfl rfl rfl
    intro p hp; cases p <;> first | rfl | exact absurd (by simp [answerParts]) hp
  have r := fun {x y : State} (k : goesOn fenceParts x y) => k.mono (qs := answerParts) (by simp [fenceParts, answerParts])
  have q := fun {x y : State} (k : goesOn ringParts x y) => k.mono (qs := answerParts) (by simp [ringParts, answerParts])
  split
  · split
    · exact h _ _ _
    · split
      · exact ((((h _ _ _).trans (q (State.updMb_ring _ _ _))).trans (q (State.respond_keeps _ _ _ _ _ _ _ _ _))).trans
          (q (State.sweep_keeps _ _))).trans (r (State.pokeFences_keeps _))
      · exact h _ _ _
  · exact h _ _ _

/-- What a command that completes reports. -/
theorem State.finish_cmd (s : State) (src : CmdSrc) (opcode status detail : Nat) (res : List Fld) (ul : Bool) :
    (s.finish src opcode status detail res ul).cmd =
      { opcode := opcode, status := status, detail := detail
        mirrored := decide (status = stOk) && mirrored opcode && !readOnly opcode && !ul && s.pair.enable && decide (s.pair.role = .active)
        result := packFrom 16 res, src := src, count := s.cmd.count + 1 } := by
  unfold State.finish; dsimp only
  split
  · split
    · rfl
    · split
      · rw [(State.pokeFences_keeps _).keeps .cmd (by simp [fenceParts]), (State.sweep_keeps _ _).keeps .cmd (by simp [ringParts]),
          (State.respond_keeps _ _ _ _ _ _ _ _ _).keeps .cmd (by simp)]
        rfl
      · rfl
  · rfl

theorem State.markStarted_keeps (s : State) (src : CmdSrc) (c : Bool) : goesOn ringParts s (s.markStarted src c) := by
  unfold State.markStarted
  split
  · exact State.updMb_ring _ _ _
  · exact .refl _ _

theorem State.dependentChange_keeps (s : State) : goesOn [.fw, .events, .fence] s s.dependentChange := by
  unfold State.dependentChange
  refine .foldl _ (fun t p => ?_) _ _
  dsimp only
  have k := fun (x : State) (e : Fw) => (keeps_fw x e).mono (qs := [.fw, .events, .fence]) (by simp)
  split
  · exact k _ _
  · exact (k _ _).trans ((State.raise_keeps _ _ _ _ _).mono (by simp))
  · exact .refl _ _

/-! ## Time -/

/-- The parts that fences touch as time passes their instants. -/
def timeParts : List Part := [.clock, .free, .stats, .cmd, .mbs, .hostMem, .events, .fence, .fw, .pair]

theorem State.lpiNow_keeps (s : State) : goesOn timeParts s s.lpiNow := by
  unfold State.lpiNow State.takeFree
  have h : goesOn timeParts s { s with free := s.free + 1 } := by
    refine .still ?_ rfl rfl rfl
    intro p hp; cases p <;> first | rfl | exact absurd (by simp [timeParts]) hp
  refine h.trans (.foldl _ (fun t q => ?_) _ _)
  split
  · refine .still ?_ rfl rfl rfl
    intro p hp; cases p <;> first | rfl | exact absurd (by simp [timeParts]) hp
  · exact .refl _ _

theorem State.fencesTo_keeps (s : State) (t : Nat) : goesOn timeParts s (s.fencesTo t) := by
  unfold State.fencesTo
  refine .foldl _ (fun x a => ?_) _ _
  have h : ∀ (x : State) (e : Fence) (b : Stats), goesOn timeParts x { x with fence := e, stats := b } := by
    intro x e b; refine .still ?_ rfl rfl rfl
    intro p hp; cases p <;> first | rfl | exact absurd (by simp [timeParts]) hp
  have k := fun (x : State) (e : Fence) => (keeps_fence x e).mono (qs := timeParts) (by simp [timeParts])
  have f := fun (x : State) (s : CmdSrc) (o st d : Nat) (r : List Fld) =>
    (State.finish_keeps x s o st d r false).mono (qs := timeParts) (by simp [answerParts, timeParts])
  dsimp only
  generalize hy : (if (!a.placed && decide (a.f ≤ t) && x.stats.armed) = true then x.lpiNow else x) = y
  have g : goesOn timeParts x y := by
    rw [← hy]; split
    · exact State.lpiNow_keeps _
    · exact .refl _ _
  refine g.trans ?_
  split <;> split
  · exact ((h _ _ _).trans (k _ _)).trans (f _ _ _ _ _ _)
  · exact (k _ _).trans (f _ _ _ _ _ _)
  · exact h _ _ _
  · exact .refl _ _

/-- Time that passes touches the clock, and what the fences do at their instants. -/
theorem State.advance_keeps (s : State) (t : Nat) : goesOn timeParts s (s.advance t) := by
  unfold State.advance
  split
  · exact .refl _ _
  · rename_i hlt
    have h : goesOn timeParts s { s with now := t } := by
      refine .of ?_ ⟨Nat.le_of_not_le hlt, id, Nat.le_refl _, fun _ h => h⟩
      intro p hp; cases p <;> first | rfl | exact absurd (by simp [timeParts]) hp
    dsimp only; split
    · exact h
    · exact h.trans (State.fencesTo_keeps _ _)

theorem State.advanceTick_keeps (s : State) (t : Nat) : goesOn timeParts s (s.advanceTick t) := by
  unfold State.advanceTick; split
  · exact State.advance_keeps _ _
  · exact .refl _ _

end Sys2Proof.Machine
end

