-- ==== Sys2Proof/Laws/Kept.lean ====
section
/-!
SUPPORT. What the shared operations leave in each part of the state that they do not touch, one lemma for each.
-/
namespace Sys2Proof.Machine

@[simp] theorem State.raise_now {s : State} {src cause : Nat} {data : List Fld} {inj : Bool} : (s.raise src cause data inj).now = s.now :=
  (State.raise_keeps s src cause data inj).keeps .clock (by decide)
@[simp] theorem State.raise_free {s : State} {src cause : Nat} {data : List Fld} {inj : Bool} : (s.raise src cause data inj).free = s.free :=
  (State.raise_keeps s src cause data inj).keeps .free (by decide)
@[simp] theorem State.raise_pending {s : State} {src cause : Nat} {data : List Fld} {inj : Bool} : (s.raise src cause data inj).pending = s.pending :=
  (State.raise_keeps s src cause data inj).keeps .queue (by decide)
@[simp] theorem State.raise_cmd {s : State} {src cause : Nat} {data : List Fld} {inj : Bool} : (s.raise src cause data inj).cmd = s.cmd :=
  (State.raise_keeps s src cause data inj).keeps .cmd (by decide)
@[simp] theorem State.raise_hostMem {s : State} {src cause : Nat} {data : List Fld} {inj : Bool} : (s.raise src cause data inj).hostMem = s.hostMem :=
  (State.raise_keeps s src cause data inj).keeps .hostMem (by decide)
@[simp] theorem State.raise_fuses {s : State} {src cause : Nat} {data : List Fld} {inj : Bool} : (s.raise src cause data inj).fuses = s.fuses :=
  (State.raise_keeps s src cause data inj).keeps .fuses (by decide)
@[simp] theorem State.raise_glob {s : State} {src cause : Nat} {data : List Fld} {inj : Bool} : (s.raise src cause data inj).glob = s.glob :=
  (State.raise_keeps s src cause data inj).keeps .glob (by decide)
@[simp] theorem State.raise_chan {s : State} {src cause : Nat} {data : List Fld} {inj : Bool} : (s.raise src cause data inj).chan = s.chan :=
  (State.raise_keeps s src cause data inj).keeps .chan (by decide)
@[simp] theorem State.raise_lanes {s : State} {src cause : Nat} {data : List Fld} {inj : Bool} : (s.raise src cause data inj).lanes = s.lanes :=
  (State.raise_keeps s src cause data inj).keeps .lanes (by decide)
@[simp] theorem State.raise_ports {s : State} {src cause : Nat} {data : List Fld} {inj : Bool} : (s.raise src cause data inj).ports = s.ports :=
  (State.raise_keeps s src cause data inj).keeps .ports (by decide)
@[simp] theorem State.raise_modules {s : State} {src cause : Nat} {data : List Fld} {inj : Bool} : (s.raise src cause data inj).modules = s.modules :=
  (State.raise_keeps s src cause data inj).keeps .modules (by decide)
@[simp] theorem State.raise_selv {s : State} {src cause : Nat} {data : List Fld} {inj : Bool} : (s.raise src cause data inj).selv = s.selv :=
  (State.raise_keeps s src cause data inj).keeps .selv (by decide)
@[simp] theorem State.raise_tdc {s : State} {src cause : Nat} {data : List Fld} {inj : Bool} : (s.raise src cause data inj).tdc = s.tdc :=
  (State.raise_keeps s src cause data inj).keeps .tdc (by decide)
@[simp] theorem State.raise_gauge {s : State} {src cause : Nat} {data : List Fld} {inj : Bool} : (s.raise src cause data inj).gauge = s.gauge :=
  (State.raise_keeps s src cause data inj).keeps .gauge (by decide)
@[simp] theorem State.raise_ref {s : State} {src cause : Nat} {data : List Fld} {inj : Bool} : (s.raise src cause data inj).ref = s.ref :=
  (State.raise_keeps s src cause data inj).keeps .ref (by decide)
@[simp] theorem State.raise_time {s : State} {src cause : Nat} {data : List Fld} {inj : Bool} : (s.raise src cause data inj).time = s.time :=
  (State.raise_keeps s src cause data inj).keeps .time (by decide)
@[simp] theorem State.raise_ptp {s : State} {src cause : Nat} {data : List Fld} {inj : Bool} : (s.raise src cause data inj).ptp = s.ptp :=
  (State.raise_keeps s src cause data inj).keeps .ptp (by decide)
@[simp] theorem State.raise_stitch {s : State} {src cause : Nat} {data : List Fld} {inj : Bool} : (s.raise src cause data inj).stitch = s.stitch :=
  (State.raise_keeps s src cause data inj).keeps .stitch (by decide)
@[simp] theorem State.raise_parse {s : State} {src cause : Nat} {data : List Fld} {inj : Bool} : (s.raise src cause data inj).parse = s.parse :=
  (State.raise_keeps s src cause data inj).keeps .parse (by decide)
@[simp] theorem State.raise_fwd {s : State} {src cause : Nat} {data : List Fld} {inj : Bool} : (s.raise src cause data inj).fwd = s.fwd :=
  (State.raise_keeps s src cause data inj).keeps .fwd (by decide)
@[simp] theorem State.raise_core {s : State} {src cause : Nat} {data : List Fld} {inj : Bool} : (s.raise src cause data inj).core = s.core :=
  (State.raise_keeps s src cause data inj).keeps .core (by decide)
@[simp] theorem State.raise_contracts {s : State} {src cause : Nat} {data : List Fld} {inj : Bool} : (s.raise src cause data inj).contracts = s.contracts :=
  (State.raise_keeps s src cause data inj).keeps .contracts (by decide)
@[simp] theorem State.raise_pair {s : State} {src cause : Nat} {data : List Fld} {inj : Bool} : (s.raise src cause data inj).pair = s.pair :=
  (State.raise_keeps s src cause data inj).keeps .pair (by decide)
@[simp] theorem State.raise_fw {s : State} {src cause : Nat} {data : List Fld} {inj : Bool} : (s.raise src cause data inj).fw = s.fw :=
  (State.raise_keeps s src cause data inj).keeps .fw (by decide)
@[simp] theorem State.raise_mbs {s : State} {src cause : Nat} {data : List Fld} {inj : Bool} : (s.raise src cause data inj).mbs = s.mbs :=
  (State.raise_keeps s src cause data inj).keeps .mbs (by decide)
@[simp] theorem State.raise_stats {s : State} {src cause : Nat} {data : List Fld} {inj : Bool} : (s.raise src cause data inj).stats = s.stats :=
  (State.raise_keeps s src cause data inj).keeps .stats (by decide)
@[simp] theorem State.raise_power {s : State} {src cause : Nat} {data : List Fld} {inj : Bool} : (s.raise src cause data inj).power = s.power :=
  (State.raise_keeps s src cause data inj).keeps .power (by decide)
@[simp] theorem State.raise_host {s : State} {src cause : Nat} {data : List Fld} {inj : Bool} : (s.raise src cause data inj).host = s.host :=
  (State.raise_keeps s src cause data inj).keeps .host (by decide)

@[simp] theorem State.respond_now {s : State} {m opcode tag status detail : Nat} {notify mirrored : Bool} {res : List Byte} : (s.respond m opcode tag status detail notify mirrored res).now = s.now :=
  (State.respond_keeps s m opcode tag status detail notify mirrored res).keeps .clock (by decide)
@[simp] theorem State.respond_free {s : State} {m opcode tag status detail : Nat} {notify mirrored : Bool} {res : List Byte} : (s.respond m opcode tag status detail notify mirrored res).free = s.free :=
  (State.respond_keeps s m opcode tag status detail notify mirrored res).keeps .free (by decide)
@[simp] theorem State.respond_pending {s : State} {m opcode tag status detail : Nat} {notify mirrored : Bool} {res : List Byte} : (s.respond m opcode tag status detail notify mirrored res).pending = s.pending :=
  (State.respond_keeps s m opcode tag status detail notify mirrored res).keeps .queue (by decide)
@[simp] theorem State.respond_cmd {s : State} {m opcode tag status detail : Nat} {notify mirrored : Bool} {res : List Byte} : (s.respond m opcode tag status detail notify mirrored res).cmd = s.cmd :=
  (State.respond_keeps s m opcode tag status detail notify mirrored res).keeps .cmd (by decide)
@[simp] theorem State.respond_fuses {s : State} {m opcode tag status detail : Nat} {notify mirrored : Bool} {res : List Byte} : (s.respond m opcode tag status detail notify mirrored res).fuses = s.fuses :=
  (State.respond_keeps s m opcode tag status detail notify mirrored res).keeps .fuses (by decide)
@[simp] theorem State.respond_glob {s : State} {m opcode tag status detail : Nat} {notify mirrored : Bool} {res : List Byte} : (s.respond m opcode tag status detail notify mirrored res).glob = s.glob :=
  (State.respond_keeps s m opcode tag status detail notify mirrored res).keeps .glob (by decide)
@[simp] theorem State.respond_chan {s : State} {m opcode tag status detail : Nat} {notify mirrored : Bool} {res : List Byte} : (s.respond m opcode tag status detail notify mirrored res).chan = s.chan :=
  (State.respond_keeps s m opcode tag status detail notify mirrored res).keeps .chan (by decide)
@[simp] theorem State.respond_lanes {s : State} {m opcode tag status detail : Nat} {notify mirrored : Bool} {res : List Byte} : (s.respond m opcode tag status detail notify mirrored res).lanes = s.lanes :=
  (State.respond_keeps s m opcode tag status detail notify mirrored res).keeps .lanes (by decide)
@[simp] theorem State.respond_ports {s : State} {m opcode tag status detail : Nat} {notify mirrored : Bool} {res : List Byte} : (s.respond m opcode tag status detail notify mirrored res).ports = s.ports :=
  (State.respond_keeps s m opcode tag status detail notify mirrored res).keeps .ports (by decide)
@[simp] theorem State.respond_modules {s : State} {m opcode tag status detail : Nat} {notify mirrored : Bool} {res : List Byte} : (s.respond m opcode tag status detail notify mirrored res).modules = s.modules :=
  (State.respond_keeps s m opcode tag status detail notify mirrored res).keeps .modules (by decide)
@[simp] theorem State.respond_selv {s : State} {m opcode tag status detail : Nat} {notify mirrored : Bool} {res : List Byte} : (s.respond m opcode tag status detail notify mirrored res).selv = s.selv :=
  (State.respond_keeps s m opcode tag status detail notify mirrored res).keeps .selv (by decide)
@[simp] theorem State.respond_tdc {s : State} {m opcode tag status detail : Nat} {notify mirrored : Bool} {res : List Byte} : (s.respond m opcode tag status detail notify mirrored res).tdc = s.tdc :=
  (State.respond_keeps s m opcode tag status detail notify mirrored res).keeps .tdc (by decide)
@[simp] theorem State.respond_gauge {s : State} {m opcode tag status detail : Nat} {notify mirrored : Bool} {res : List Byte} : (s.respond m opcode tag status detail notify mirrored res).gauge = s.gauge :=
  (State.respond_keeps s m opcode tag status detail notify mirrored res).keeps .gauge (by decide)
@[simp] theorem State.respond_ref {s : State} {m opcode tag status detail : Nat} {notify mirrored : Bool} {res : List Byte} : (s.respond m opcode tag status detail notify mirrored res).ref = s.ref :=
  (State.respond_keeps s m opcode tag status detail notify mirrored res).keeps .ref (by decide)
@[simp] theorem State.respond_time {s : State} {m opcode tag status detail : Nat} {notify mirrored : Bool} {res : List Byte} : (s.respond m opcode tag status detail notify mirrored res).time = s.time :=
  (State.respond_keeps s m opcode tag status detail notify mirrored res).keeps .time (by decide)
@[simp] theorem State.respond_ptp {s : State} {m opcode tag status detail : Nat} {notify mirrored : Bool} {res : List Byte} : (s.respond m opcode tag status detail notify mirrored res).ptp = s.ptp :=
  (State.respond_keeps s m opcode tag status detail notify mirrored res).keeps .ptp (by decide)
@[simp] theorem State.respond_stitch {s : State} {m opcode tag status detail : Nat} {notify mirrored : Bool} {res : List Byte} : (s.respond m opcode tag status detail notify mirrored res).stitch = s.stitch :=
  (State.respond_keeps s m opcode tag status detail notify mirrored res).keeps .stitch (by decide)
@[simp] theorem State.respond_parse {s : State} {m opcode tag status detail : Nat} {notify mirrored : Bool} {res : List Byte} : (s.respond m opcode tag status detail notify mirrored res).parse = s.parse :=
  (State.respond_keeps s m opcode tag status detail notify mirrored res).keeps .parse (by decide)
@[simp] theorem State.respond_fwd {s : State} {m opcode tag status detail : Nat} {notify mirrored : Bool} {res : List Byte} : (s.respond m opcode tag status detail notify mirrored res).fwd = s.fwd :=
  (State.respond_keeps s m opcode tag status detail notify mirrored res).keeps .fwd (by decide)
@[simp] theorem State.respond_core {s : State} {m opcode tag status detail : Nat} {notify mirrored : Bool} {res : List Byte} : (s.respond m opcode tag status detail notify mirrored res).core = s.core :=
  (State.respond_keeps s m opcode tag status detail notify mirrored res).keeps .core (by decide)
@[simp] theorem State.respond_contracts {s : State} {m opcode tag status detail : Nat} {notify mirrored : Bool} {res : List Byte} : (s.respond m opcode tag status detail notify mirrored res).contracts = s.contracts :=
  (State.respond_keeps s m opcode tag status detail notify mirrored res).keeps .contracts (by decide)
@[simp] theorem State.respond_pair {s : State} {m opcode tag status detail : Nat} {notify mirrored : Bool} {res : List Byte} : (s.respond m opcode tag status detail notify mirrored res).pair = s.pair :=
  (State.respond_keeps s m opcode tag status detail notify mirrored res).keeps .pair (by decide)
@[simp] theorem State.respond_fw {s : State} {m opcode tag status detail : Nat} {notify mirrored : Bool} {res : List Byte} : (s.respond m opcode tag status detail notify mirrored res).fw = s.fw :=
  (State.respond_keeps s m opcode tag status detail notify mirrored res).keeps .fw (by decide)
@[simp] theorem State.respond_stats {s : State} {m opcode tag status detail : Nat} {notify mirrored : Bool} {res : List Byte} : (s.respond m opcode tag status detail notify mirrored res).stats = s.stats :=
  (State.respond_keeps s m opcode tag status detail notify mirrored res).keeps .stats (by decide)
@[simp] theorem State.respond_power {s : State} {m opcode tag status detail : Nat} {notify mirrored : Bool} {res : List Byte} : (s.respond m opcode tag status detail notify mirrored res).power = s.power :=
  (State.respond_keeps s m opcode tag status detail notify mirrored res).keeps .power (by decide)
@[simp] theorem State.respond_host {s : State} {m opcode tag status detail : Nat} {notify mirrored : Bool} {res : List Byte} : (s.respond m opcode tag status detail notify mirrored res).host = s.host :=
  (State.respond_keeps s m opcode tag status detail notify mirrored res).keeps .host (by decide)

@[simp] theorem State.sweep_now {s : State} {m : Nat} : (s.sweep m).now = s.now :=
  (State.sweep_keeps s m).keeps .clock (by decide)
@[simp] theorem State.sweep_free {s : State} {m : Nat} : (s.sweep m).free = s.free :=
  (State.sweep_keeps s m).keeps .free (by decide)
@[simp] theorem State.sweep_pending {s : State} {m : Nat} : (s.sweep m).pending = s.pending :=
  (State.sweep_keeps s m).keeps .queue (by decide)
@[simp] theorem State.sweep_cmd {s : State} {m : Nat} : (s.sweep m).cmd = s.cmd :=
  (State.sweep_keeps s m).keeps .cmd (by decide)
@[simp] theorem State.sweep_fuses {s : State} {m : Nat} : (s.sweep m).fuses = s.fuses :=
  (State.sweep_keeps s m).keeps .fuses (by decide)
@[simp] theorem State.sweep_glob {s : State} {m : Nat} : (s.sweep m).glob = s.glob :=
  (State.sweep_keeps s m).keeps .glob (by decide)
@[simp] theorem State.sweep_chan {s : State} {m : Nat} : (s.sweep m).chan = s.chan :=
  (State.sweep_keeps s m).keeps .chan (by decide)
@[simp] theorem State.sweep_lanes {s : State} {m : Nat} : (s.sweep m).lanes = s.lanes :=
  (State.sweep_keeps s m).keeps .lanes (by decide)
@[simp] theorem State.sweep_ports {s : State} {m : Nat} : (s.sweep m).ports = s.ports :=
  (State.sweep_keeps s m).keeps .ports (by decide)
@[simp] theorem State.sweep_modules {s : State} {m : Nat} : (s.sweep m).modules = s.modules :=
  (State.sweep_keeps s m).keeps .modules (by decide)
@[simp] theorem State.sweep_selv {s : State} {m : Nat} : (s.sweep m).selv = s.selv :=
  (State.sweep_keeps s m).keeps .selv (by decide)
@[simp] theorem State.sweep_tdc {s : State} {m : Nat} : (s.sweep m).tdc = s.tdc :=
  (State.sweep_keeps s m).keeps .tdc (by decide)
@[simp] theorem State.sweep_gauge {s : State} {m : Nat} : (s.sweep m).gauge = s.gauge :=
  (State.sweep_keeps s m).keeps .gauge (by decide)
@[simp] theorem State.sweep_ref {s : State} {m : Nat} : (s.sweep m).ref = s.ref :=
  (State.sweep_keeps s m).keeps .ref (by decide)
@[simp] theorem State.sweep_time {s : State} {m : Nat} : (s.sweep m).time = s.time :=
  (State.sweep_keeps s m).keeps .time (by decide)
@[simp] theorem State.sweep_ptp {s : State} {m : Nat} : (s.sweep m).ptp = s.ptp :=
  (State.sweep_keeps s m).keeps .ptp (by decide)
@[simp] theorem State.sweep_stitch {s : State} {m : Nat} : (s.sweep m).stitch = s.stitch :=
  (State.sweep_keeps s m).keeps .stitch (by decide)
@[simp] theorem State.sweep_parse {s : State} {m : Nat} : (s.sweep m).parse = s.parse :=
  (State.sweep_keeps s m).keeps .parse (by decide)
@[simp] theorem State.sweep_fwd {s : State} {m : Nat} : (s.sweep m).fwd = s.fwd :=
  (State.sweep_keeps s m).keeps .fwd (by decide)
@[simp] theorem State.sweep_core {s : State} {m : Nat} : (s.sweep m).core = s.core :=
  (State.sweep_keeps s m).keeps .core (by decide)
@[simp] theorem State.sweep_contracts {s : State} {m : Nat} : (s.sweep m).contracts = s.contracts :=
  (State.sweep_keeps s m).keeps .contracts (by decide)
@[simp] theorem State.sweep_pair {s : State} {m : Nat} : (s.sweep m).pair = s.pair :=
  (State.sweep_keeps s m).keeps .pair (by decide)
@[simp] theorem State.sweep_fw {s : State} {m : Nat} : (s.sweep m).fw = s.fw :=
  (State.sweep_keeps s m).keeps .fw (by decide)
@[simp] theorem State.sweep_stats {s : State} {m : Nat} : (s.sweep m).stats = s.stats :=
  (State.sweep_keeps s m).keeps .stats (by decide)
@[simp] theorem State.sweep_power {s : State} {m : Nat} : (s.sweep m).power = s.power :=
  (State.sweep_keeps s m).keeps .power (by decide)
@[simp] theorem State.sweep_host {s : State} {m : Nat} : (s.sweep m).host = s.host :=
  (State.sweep_keeps s m).keeps .host (by decide)

@[simp] theorem State.pokeFences_now {s : State} : (s.pokeFences).now = s.now :=
  (State.pokeFences_keeps s).keeps .clock (by decide)
@[simp] theorem State.pokeFences_free {s : State} : (s.pokeFences).free = s.free :=
  (State.pokeFences_keeps s).keeps .free (by decide)
@[simp] theorem State.pokeFences_pending {s : State} : (s.pokeFences).pending = s.pending :=
  (State.pokeFences_keeps s).keeps .queue (by decide)
@[simp] theorem State.pokeFences_cmd {s : State} : (s.pokeFences).cmd = s.cmd :=
  (State.pokeFences_keeps s).keeps .cmd (by decide)
@[simp] theorem State.pokeFences_fuses {s : State} : (s.pokeFences).fuses = s.fuses :=
  (State.pokeFences_keeps s).keeps .fuses (by decide)
@[simp] theorem State.pokeFences_glob {s : State} : (s.pokeFences).glob = s.glob :=
  (State.pokeFences_keeps s).keeps .glob (by decide)
@[simp] theorem State.pokeFences_chan {s : State} : (s.pokeFences).chan = s.chan :=
  (State.pokeFences_keeps s).keeps .chan (by decide)
@[simp] theorem State.pokeFences_lanes {s : State} : (s.pokeFences).lanes = s.lanes :=
  (State.pokeFences_keeps s).keeps .lanes (by decide)
@[simp] theorem State.pokeFences_ports {s : State} : (s.pokeFences).ports = s.ports :=
  (State.pokeFences_keeps s).keeps .ports (by decide)
@[simp] theorem State.pokeFences_modules {s : State} : (s.pokeFences).modules = s.modules :=
  (State.pokeFences_keeps s).keeps .modules (by decide)
@[simp] theorem State.pokeFences_selv {s : State} : (s.pokeFences).selv = s.selv :=
  (State.pokeFences_keeps s).keeps .selv (by decide)
@[simp] theorem State.pokeFences_tdc {s : State} : (s.pokeFences).tdc = s.tdc :=
  (State.pokeFences_keeps s).keeps .tdc (by decide)
@[simp] theorem State.pokeFences_gauge {s : State} : (s.pokeFences).gauge = s.gauge :=
  (State.pokeFences_keeps s).keeps .gauge (by decide)
@[simp] theorem State.pokeFences_ref {s : State} : (s.pokeFences).ref = s.ref :=
  (State.pokeFences_keeps s).keeps .ref (by decide)
@[simp] theorem State.pokeFences_time {s : State} : (s.pokeFences).time = s.time :=
  (State.pokeFences_keeps s).keeps .time (by decide)
@[simp] theorem State.pokeFences_ptp {s : State} : (s.pokeFences).ptp = s.ptp :=
  (State.pokeFences_keeps s).keeps .ptp (by decide)
@[simp] theorem State.pokeFences_stitch {s : State} : (s.pokeFences).stitch = s.stitch :=
  (State.pokeFences_keeps s).keeps .stitch (by decide)
@[simp] theorem State.pokeFences_parse {s : State} : (s.pokeFences).parse = s.parse :=
  (State.pokeFences_keeps s).keeps .parse (by decide)
@[simp] theorem State.pokeFences_fwd {s : State} : (s.pokeFences).fwd = s.fwd :=
  (State.pokeFences_keeps s).keeps .fwd (by decide)
@[simp] theorem State.pokeFences_core {s : State} : (s.pokeFences).core = s.core :=
  (State.pokeFences_keeps s).keeps .core (by decide)
@[simp] theorem State.pokeFences_contracts {s : State} : (s.pokeFences).contracts = s.contracts :=
  (State.pokeFences_keeps s).keeps .contracts (by decide)
@[simp] theorem State.pokeFences_pair {s : State} : (s.pokeFences).pair = s.pair :=
  (State.pokeFences_keeps s).keeps .pair (by decide)
@[simp] theorem State.pokeFences_stats {s : State} : (s.pokeFences).stats = s.stats :=
  (State.pokeFences_keeps s).keeps .stats (by decide)
@[simp] theorem State.pokeFences_power {s : State} : (s.pokeFences).power = s.power :=
  (State.pokeFences_keeps s).keeps .power (by decide)
@[simp] theorem State.pokeFences_host {s : State} : (s.pokeFences).host = s.host :=
  (State.pokeFences_keeps s).keeps .host (by decide)

@[simp] theorem State.finish_now {s : State} {src : CmdSrc} {opcode status detail : Nat} {res : List Fld} {ul : Bool} : (s.finish src opcode status detail res ul).now = s.now :=
  (State.finish_keeps s src opcode status detail res ul).keeps .clock (by decide)
@[simp] theorem State.finish_free {s : State} {src : CmdSrc} {opcode status detail : Nat} {res : List Fld} {ul : Bool} : (s.finish src opcode status detail res ul).free = s.free :=
  (State.finish_keeps s src opcode status detail res ul).keeps .free (by decide)
@[simp] theorem State.finish_pending {s : State} {src : CmdSrc} {opcode status detail : Nat} {res : List Fld} {ul : Bool} : (s.finish src opcode status detail res ul).pending = s.pending :=
  (State.finish_keeps s src opcode status detail res ul).keeps .queue (by decide)
@[simp] theorem State.finish_fuses {s : State} {src : CmdSrc} {opcode status detail : Nat} {res : List Fld} {ul : Bool} : (s.finish src opcode status detail res ul).fuses = s.fuses :=
  (State.finish_keeps s src opcode status detail res ul).keeps .fuses (by decide)
@[simp] theorem State.finish_glob {s : State} {src : CmdSrc} {opcode status detail : Nat} {res : List Fld} {ul : Bool} : (s.finish src opcode status detail res ul).glob = s.glob :=
  (State.finish_keeps s src opcode status detail res ul).keeps .glob (by decide)
@[simp] theorem State.finish_chan {s : State} {src : CmdSrc} {opcode status detail : Nat} {res : List Fld} {ul : Bool} : (s.finish src opcode status detail res ul).chan = s.chan :=
  (State.finish_keeps s src opcode status detail res ul).keeps .chan (by decide)
@[simp] theorem State.finish_lanes {s : State} {src : CmdSrc} {opcode status detail : Nat} {res : List Fld} {ul : Bool} : (s.finish src opcode status detail res ul).lanes = s.lanes :=
  (State.finish_keeps s src opcode status detail res ul).keeps .lanes (by decide)
@[simp] theorem State.finish_ports {s : State} {src : CmdSrc} {opcode status detail : Nat} {res : List Fld} {ul : Bool} : (s.finish src opcode status detail res ul).ports = s.ports :=
  (State.finish_keeps s src opcode status detail res ul).keeps .ports (by decide)
@[simp] theorem State.finish_modules {s : State} {src : CmdSrc} {opcode status detail : Nat} {res : List Fld} {ul : Bool} : (s.finish src opcode status detail res ul).modules = s.modules :=
  (State.finish_keeps s src opcode status detail res ul).keeps .modules (by decide)
@[simp] theorem State.finish_selv {s : State} {src : CmdSrc} {opcode status detail : Nat} {res : List Fld} {ul : Bool} : (s.finish src opcode status detail res ul).selv = s.selv :=
  (State.finish_keeps s src opcode status detail res ul).keeps .selv (by decide)
@[simp] theorem State.finish_tdc {s : State} {src : CmdSrc} {opcode status detail : Nat} {res : List Fld} {ul : Bool} : (s.finish src opcode status detail res ul).tdc = s.tdc :=
  (State.finish_keeps s src opcode status detail res ul).keeps .tdc (by decide)
@[simp] theorem State.finish_gauge {s : State} {src : CmdSrc} {opcode status detail : Nat} {res : List Fld} {ul : Bool} : (s.finish src opcode status detail res ul).gauge = s.gauge :=
  (State.finish_keeps s src opcode status detail res ul).keeps .gauge (by decide)
@[simp] theorem State.finish_ref {s : State} {src : CmdSrc} {opcode status detail : Nat} {res : List Fld} {ul : Bool} : (s.finish src opcode status detail res ul).ref = s.ref :=
  (State.finish_keeps s src opcode status detail res ul).keeps .ref (by decide)
@[simp] theorem State.finish_time {s : State} {src : CmdSrc} {opcode status detail : Nat} {res : List Fld} {ul : Bool} : (s.finish src opcode status detail res ul).time = s.time :=
  (State.finish_keeps s src opcode status detail res ul).keeps .time (by decide)
@[simp] theorem State.finish_ptp {s : State} {src : CmdSrc} {opcode status detail : Nat} {res : List Fld} {ul : Bool} : (s.finish src opcode status detail res ul).ptp = s.ptp :=
  (State.finish_keeps s src opcode status detail res ul).keeps .ptp (by decide)
@[simp] theorem State.finish_stitch {s : State} {src : CmdSrc} {opcode status detail : Nat} {res : List Fld} {ul : Bool} : (s.finish src opcode status detail res ul).stitch = s.stitch :=
  (State.finish_keeps s src opcode status detail res ul).keeps .stitch (by decide)
@[simp] theorem State.finish_parse {s : State} {src : CmdSrc} {opcode status detail : Nat} {res : List Fld} {ul : Bool} : (s.finish src opcode status detail res ul).parse = s.parse :=
  (State.finish_keeps s src opcode status detail res ul).keeps .parse (by decide)
@[simp] theorem State.finish_fwd {s : State} {src : CmdSrc} {opcode status detail : Nat} {res : List Fld} {ul : Bool} : (s.finish src opcode status detail res ul).fwd = s.fwd :=
  (State.finish_keeps s src opcode status detail res ul).keeps .fwd (by decide)
@[simp] theorem State.finish_core {s : State} {src : CmdSrc} {opcode status detail : Nat} {res : List Fld} {ul : Bool} : (s.finish src opcode status detail res ul).core = s.core :=
  (State.finish_keeps s src opcode status detail res ul).keeps .core (by decide)
@[simp] theorem State.finish_contracts {s : State} {src : CmdSrc} {opcode status detail : Nat} {res : List Fld} {ul : Bool} : (s.finish src opcode status detail res ul).contracts = s.contracts :=
  (State.finish_keeps s src opcode status detail res ul).keeps .contracts (by decide)
@[simp] theorem State.finish_stats {s : State} {src : CmdSrc} {opcode status detail : Nat} {res : List Fld} {ul : Bool} : (s.finish src opcode status detail res ul).stats = s.stats :=
  (State.finish_keeps s src opcode status detail res ul).keeps .stats (by decide)
@[simp] theorem State.finish_power {s : State} {src : CmdSrc} {opcode status detail : Nat} {res : List Fld} {ul : Bool} : (s.finish src opcode status detail res ul).power = s.power :=
  (State.finish_keeps s src opcode status detail res ul).keeps .power (by decide)
@[simp] theorem State.finish_host {s : State} {src : CmdSrc} {opcode status detail : Nat} {res : List Fld} {ul : Bool} : (s.finish src opcode status detail res ul).host = s.host :=
  (State.finish_keeps s src opcode status detail res ul).keeps .host (by decide)

@[simp] theorem State.markStarted_now {s : State} {src : CmdSrc} {c : Bool} : (s.markStarted src c).now = s.now :=
  (State.markStarted_keeps s src c).keeps .clock (by decide)
@[simp] theorem State.markStarted_free {s : State} {src : CmdSrc} {c : Bool} : (s.markStarted src c).free = s.free :=
  (State.markStarted_keeps s src c).keeps .free (by decide)
@[simp] theorem State.markStarted_pending {s : State} {src : CmdSrc} {c : Bool} : (s.markStarted src c).pending = s.pending :=
  (State.markStarted_keeps s src c).keeps .queue (by decide)
@[simp] theorem State.markStarted_cmd {s : State} {src : CmdSrc} {c : Bool} : (s.markStarted src c).cmd = s.cmd :=
  (State.markStarted_keeps s src c).keeps .cmd (by decide)
@[simp] theorem State.markStarted_fuses {s : State} {src : CmdSrc} {c : Bool} : (s.markStarted src c).fuses = s.fuses :=
  (State.markStarted_keeps s src c).keeps .fuses (by decide)
@[simp] theorem State.markStarted_glob {s : State} {src : CmdSrc} {c : Bool} : (s.markStarted src c).glob = s.glob :=
  (State.markStarted_keeps s src c).keeps .glob (by decide)
@[simp] theorem State.markStarted_chan {s : State} {src : CmdSrc} {c : Bool} : (s.markStarted src c).chan = s.chan :=
  (State.markStarted_keeps s src c).keeps .chan (by decide)
@[simp] theorem State.markStarted_lanes {s : State} {src : CmdSrc} {c : Bool} : (s.markStarted src c).lanes = s.lanes :=
  (State.markStarted_keeps s src c).keeps .lanes (by decide)
@[simp] theorem State.markStarted_ports {s : State} {src : CmdSrc} {c : Bool} : (s.markStarted src c).ports = s.ports :=
  (State.markStarted_keeps s src c).keeps .ports (by decide)
@[simp] theorem State.markStarted_modules {s : State} {src : CmdSrc} {c : Bool} : (s.markStarted src c).modules = s.modules :=
  (State.markStarted_keeps s src c).keeps .modules (by decide)
@[simp] theorem State.markStarted_selv {s : State} {src : CmdSrc} {c : Bool} : (s.markStarted src c).selv = s.selv :=
  (State.markStarted_keeps s src c).keeps .selv (by decide)
@[simp] theorem State.markStarted_tdc {s : State} {src : CmdSrc} {c : Bool} : (s.markStarted src c).tdc = s.tdc :=
  (State.markStarted_keeps s src c).keeps .tdc (by decide)
@[simp] theorem State.markStarted_gauge {s : State} {src : CmdSrc} {c : Bool} : (s.markStarted src c).gauge = s.gauge :=
  (State.markStarted_keeps s src c).keeps .gauge (by decide)
@[simp] theorem State.markStarted_ref {s : State} {src : CmdSrc} {c : Bool} : (s.markStarted src c).ref = s.ref :=
  (State.markStarted_keeps s src c).keeps .ref (by decide)
@[simp] theorem State.markStarted_time {s : State} {src : CmdSrc} {c : Bool} : (s.markStarted src c).time = s.time :=
  (State.markStarted_keeps s src c).keeps .time (by decide)
@[simp] theorem State.markStarted_ptp {s : State} {src : CmdSrc} {c : Bool} : (s.markStarted src c).ptp = s.ptp :=
  (State.markStarted_keeps s src c).keeps .ptp (by decide)
@[simp] theorem State.markStarted_stitch {s : State} {src : CmdSrc} {c : Bool} : (s.markStarted src c).stitch = s.stitch :=
  (State.markStarted_keeps s src c).keeps .stitch (by decide)
@[simp] theorem State.markStarted_parse {s : State} {src : CmdSrc} {c : Bool} : (s.markStarted src c).parse = s.parse :=
  (State.markStarted_keeps s src c).keeps .parse (by decide)
@[simp] theorem State.markStarted_fwd {s : State} {src : CmdSrc} {c : Bool} : (s.markStarted src c).fwd = s.fwd :=
  (State.markStarted_keeps s src c).keeps .fwd (by decide)
@[simp] theorem State.markStarted_core {s : State} {src : CmdSrc} {c : Bool} : (s.markStarted src c).core = s.core :=
  (State.markStarted_keeps s src c).keeps .core (by decide)
@[simp] theorem State.markStarted_contracts {s : State} {src : CmdSrc} {c : Bool} : (s.markStarted src c).contracts = s.contracts :=
  (State.markStarted_keeps s src c).keeps .contracts (by decide)
@[simp] theorem State.markStarted_pair {s : State} {src : CmdSrc} {c : Bool} : (s.markStarted src c).pair = s.pair :=
  (State.markStarted_keeps s src c).keeps .pair (by decide)
@[simp] theorem State.markStarted_fw {s : State} {src : CmdSrc} {c : Bool} : (s.markStarted src c).fw = s.fw :=
  (State.markStarted_keeps s src c).keeps .fw (by decide)
@[simp] theorem State.markStarted_stats {s : State} {src : CmdSrc} {c : Bool} : (s.markStarted src c).stats = s.stats :=
  (State.markStarted_keeps s src c).keeps .stats (by decide)
@[simp] theorem State.markStarted_power {s : State} {src : CmdSrc} {c : Bool} : (s.markStarted src c).power = s.power :=
  (State.markStarted_keeps s src c).keeps .power (by decide)
@[simp] theorem State.markStarted_host {s : State} {src : CmdSrc} {c : Bool} : (s.markStarted src c).host = s.host :=
  (State.markStarted_keeps s src c).keeps .host (by decide)

@[simp] theorem State.dependentChange_now {s : State} : (s.dependentChange).now = s.now :=
  (State.dependentChange_keeps s).keeps .clock (by decide)
@[simp] theorem State.dependentChange_free {s : State} : (s.dependentChange).free = s.free :=
  (State.dependentChange_keeps s).keeps .free (by decide)
@[simp] theorem State.dependentChange_pending {s : State} : (s.dependentChange).pending = s.pending :=
  (State.dependentChange_keeps s).keeps .queue (by decide)
@[simp] theorem State.dependentChange_cmd {s : State} : (s.dependentChange).cmd = s.cmd :=
  (State.dependentChange_keeps s).keeps .cmd (by decide)
@[simp] theorem State.dependentChange_hostMem {s : State} : (s.dependentChange).hostMem = s.hostMem :=
  (State.dependentChange_keeps s).keeps .hostMem (by decide)
@[simp] theorem State.dependentChange_fuses {s : State} : (s.dependentChange).fuses = s.fuses :=
  (State.dependentChange_keeps s).keeps .fuses (by decide)
@[simp] theorem State.dependentChange_glob {s : State} : (s.dependentChange).glob = s.glob :=
  (State.dependentChange_keeps s).keeps .glob (by decide)
@[simp] theorem State.dependentChange_chan {s : State} : (s.dependentChange).chan = s.chan :=
  (State.dependentChange_keeps s).keeps .chan (by decide)
@[simp] theorem State.dependentChange_lanes {s : State} : (s.dependentChange).lanes = s.lanes :=
  (State.dependentChange_keeps s).keeps .lanes (by decide)
@[simp] theorem State.dependentChange_ports {s : State} : (s.dependentChange).ports = s.ports :=
  (State.dependentChange_keeps s).keeps .ports (by decide)
@[simp] theorem State.dependentChange_modules {s : State} : (s.dependentChange).modules = s.modules :=
  (State.dependentChange_keeps s).keeps .modules (by decide)
@[simp] theorem State.dependentChange_selv {s : State} : (s.dependentChange).selv = s.selv :=
  (State.dependentChange_keeps s).keeps .selv (by decide)
@[simp] theorem State.dependentChange_tdc {s : State} : (s.dependentChange).tdc = s.tdc :=
  (State.dependentChange_keeps s).keeps .tdc (by decide)
@[simp] theorem State.dependentChange_gauge {s : State} : (s.dependentChange).gauge = s.gauge :=
  (State.dependentChange_keeps s).keeps .gauge (by decide)
@[simp] theorem State.dependentChange_ref {s : State} : (s.dependentChange).ref = s.ref :=
  (State.dependentChange_keeps s).keeps .ref (by decide)
@[simp] theorem State.dependentChange_time {s : State} : (s.dependentChange).time = s.time :=
  (State.dependentChange_keeps s).keeps .time (by decide)
@[simp] theorem State.dependentChange_ptp {s : State} : (s.dependentChange).ptp = s.ptp :=
  (State.dependentChange_keeps s).keeps .ptp (by decide)
@[simp] theorem State.dependentChange_stitch {s : State} : (s.dependentChange).stitch = s.stitch :=
  (State.dependentChange_keeps s).keeps .stitch (by decide)
@[simp] theorem State.dependentChange_parse {s : State} : (s.dependentChange).parse = s.parse :=
  (State.dependentChange_keeps s).keeps .parse (by decide)
@[simp] theorem State.dependentChange_fwd {s : State} : (s.dependentChange).fwd = s.fwd :=
  (State.dependentChange_keeps s).keeps .fwd (by decide)
@[simp] theorem State.dependentChange_core {s : State} : (s.dependentChange).core = s.core :=
  (State.dependentChange_keeps s).keeps .core (by decide)
@[simp] theorem State.dependentChange_contracts {s : State} : (s.dependentChange).contracts = s.contracts :=
  (State.dependentChange_keeps s).keeps .contracts (by decide)
@[simp] theorem State.dependentChange_pair {s : State} : (s.dependentChange).pair = s.pair :=
  (State.dependentChange_keeps s).keeps .pair (by decide)
@[simp] theorem State.dependentChange_mbs {s : State} : (s.dependentChange).mbs = s.mbs :=
  (State.dependentChange_keeps s).keeps .mbs (by decide)
@[simp] theorem State.dependentChange_stats {s : State} : (s.dependentChange).stats = s.stats :=
  (State.dependentChange_keeps s).keeps .stats (by decide)
@[simp] theorem State.dependentChange_power {s : State} : (s.dependentChange).power = s.power :=
  (State.dependentChange_keeps s).keeps .power (by decide)
@[simp] theorem State.dependentChange_host {s : State} : (s.dependentChange).host = s.host :=
  (State.dependentChange_keeps s).keeps .host (by decide)

@[simp] theorem State.advance_pending {s : State} {t : Nat} : (s.advance t).pending = s.pending :=
  (State.advance_keeps s t).keeps .queue (by decide)
@[simp] theorem State.advance_fuses {s : State} {t : Nat} : (s.advance t).fuses = s.fuses :=
  (State.advance_keeps s t).keeps .fuses (by decide)
@[simp] theorem State.advance_glob {s : State} {t : Nat} : (s.advance t).glob = s.glob :=
  (State.advance_keeps s t).keeps .glob (by decide)
@[simp] theorem State.advance_chan {s : State} {t : Nat} : (s.advance t).chan = s.chan :=
  (State.advance_keeps s t).keeps .chan (by decide)
@[simp] theorem State.advance_lanes {s : State} {t : Nat} : (s.advance t).lanes = s.lanes :=
  (State.advance_keeps s t).keeps .lanes (by decide)
@[simp] theorem State.advance_ports {s : State} {t : Nat} : (s.advance t).ports = s.ports :=
  (State.advance_keeps s t).keeps .ports (by decide)
@[simp] theorem State.advance_modules {s : State} {t : Nat} : (s.advance t).modules = s.modules :=
  (State.advance_keeps s t).keeps .modules (by decide)
@[simp] theorem State.advance_selv {s : State} {t : Nat} : (s.advance t).selv = s.selv :=
  (State.advance_keeps s t).keeps .selv (by decide)
@[simp] theorem State.advance_tdc {s : State} {t : Nat} : (s.advance t).tdc = s.tdc :=
  (State.advance_keeps s t).keeps .tdc (by decide)
@[simp] theorem State.advance_gauge {s : State} {t : Nat} : (s.advance t).gauge = s.gauge :=
  (State.advance_keeps s t).keeps .gauge (by decide)
@[simp] theorem State.advance_ref {s : State} {t : Nat} : (s.advance t).ref = s.ref :=
  (State.advance_keeps s t).keeps .ref (by decide)
@[simp] theorem State.advance_time {s : State} {t : Nat} : (s.advance t).time = s.time :=
  (State.advance_keeps s t).keeps .time (by decide)
@[simp] theorem State.advance_ptp {s : State} {t : Nat} : (s.advance t).ptp = s.ptp :=
  (State.advance_keeps s t).keeps .ptp (by decide)
@[simp] theorem State.advance_stitch {s : State} {t : Nat} : (s.advance t).stitch = s.stitch :=
  (State.advance_keeps s t).keeps .stitch (by decide)
@[simp] theorem State.advance_parse {s : State} {t : Nat} : (s.advance t).parse = s.parse :=
  (State.advance_keeps s t).keeps .parse (by decide)
@[simp] theorem State.advance_fwd {s : State} {t : Nat} : (s.advance t).fwd = s.fwd :=
  (State.advance_keeps s t).keeps .fwd (by decide)
@[simp] theorem State.advance_core {s : State} {t : Nat} : (s.advance t).core = s.core :=
  (State.advance_keeps s t).keeps .core (by decide)
@[simp] theorem State.advance_contracts {s : State} {t : Nat} : (s.advance t).contracts = s.contracts :=
  (State.advance_keeps s t).keeps .contracts (by decide)
@[simp] theorem State.advance_power {s : State} {t : Nat} : (s.advance t).power = s.power :=
  (State.advance_keeps s t).keeps .power (by decide)
@[simp] theorem State.advance_host {s : State} {t : Nat} : (s.advance t).host = s.host :=
  (State.advance_keeps s t).keeps .host (by decide)

@[simp] theorem State.advanceTick_pending {s : State} {t : Nat} : (s.advanceTick t).pending = s.pending :=
  (State.advanceTick_keeps s t).keeps .queue (by decide)
@[simp] theorem State.advanceTick_fuses {s : State} {t : Nat} : (s.advanceTick t).fuses = s.fuses :=
  (State.advanceTick_keeps s t).keeps .fuses (by decide)
@[simp] theorem State.advanceTick_glob {s : State} {t : Nat} : (s.advanceTick t).glob = s.glob :=
  (State.advanceTick_keeps s t).keeps .glob (by decide)
@[simp] theorem State.advanceTick_chan {s : State} {t : Nat} : (s.advanceTick t).chan = s.chan :=
  (State.advanceTick_keeps s t).keeps .chan (by decide)
@[simp] theorem State.advanceTick_lanes {s : State} {t : Nat} : (s.advanceTick t).lanes = s.lanes :=
  (State.advanceTick_keeps s t).keeps .lanes (by decide)
@[simp] theorem State.advanceTick_ports {s : State} {t : Nat} : (s.advanceTick t).ports = s.ports :=
  (State.advanceTick_keeps s t).keeps .ports (by decide)
@[simp] theorem State.advanceTick_modules {s : State} {t : Nat} : (s.advanceTick t).modules = s.modules :=
  (State.advanceTick_keeps s t).keeps .modules (by decide)
@[simp] theorem State.advanceTick_selv {s : State} {t : Nat} : (s.advanceTick t).selv = s.selv :=
  (State.advanceTick_keeps s t).keeps .selv (by decide)
@[simp] theorem State.advanceTick_tdc {s : State} {t : Nat} : (s.advanceTick t).tdc = s.tdc :=
  (State.advanceTick_keeps s t).keeps .tdc (by decide)
@[simp] theorem State.advanceTick_gauge {s : State} {t : Nat} : (s.advanceTick t).gauge = s.gauge :=
  (State.advanceTick_keeps s t).keeps .gauge (by decide)
@[simp] theorem State.advanceTick_ref {s : State} {t : Nat} : (s.advanceTick t).ref = s.ref :=
  (State.advanceTick_keeps s t).keeps .ref (by decide)
@[simp] theorem State.advanceTick_time {s : State} {t : Nat} : (s.advanceTick t).time = s.time :=
  (State.advanceTick_keeps s t).keeps .time (by decide)
@[simp] theorem State.advanceTick_ptp {s : State} {t : Nat} : (s.advanceTick t).ptp = s.ptp :=
  (State.advanceTick_keeps s t).keeps .ptp (by decide)
@[simp] theorem State.advanceTick_stitch {s : State} {t : Nat} : (s.advanceTick t).stitch = s.stitch :=
  (State.advanceTick_keeps s t).keeps .stitch (by decide)
@[simp] theorem State.advanceTick_parse {s : State} {t : Nat} : (s.advanceTick t).parse = s.parse :=
  (State.advanceTick_keeps s t).keeps .parse (by decide)
@[simp] theorem State.advanceTick_fwd {s : State} {t : Nat} : (s.advanceTick t).fwd = s.fwd :=
  (State.advanceTick_keeps s t).keeps .fwd (by decide)
@[simp] theorem State.advanceTick_core {s : State} {t : Nat} : (s.advanceTick t).core = s.core :=
  (State.advanceTick_keeps s t).keeps .core (by decide)
@[simp] theorem State.advanceTick_contracts {s : State} {t : Nat} : (s.advanceTick t).contracts = s.contracts :=
  (State.advanceTick_keeps s t).keeps .contracts (by decide)
@[simp] theorem State.advanceTick_power {s : State} {t : Nat} : (s.advanceTick t).power = s.power :=
  (State.advanceTick_keeps s t).keeps .power (by decide)
@[simp] theorem State.advanceTick_host {s : State} {t : Nat} : (s.advanceTick t).host = s.host :=
  (State.advanceTick_keeps s t).keeps .host (by decide)

end Sys2Proof.Machine
end

