-- ==== Sys2Proof/Laws/Complete.lean ====
section
/-!
SUPPORT. What executing a mailbox command comes to, once it reaches its own checks.
-/
namespace Sys2Proof.Machine

/-- A command that reaches its own checks comes to what they decide. -/
theorem State.runCmd_reaches {s : State} {i : Instr} {src : CmdSrc} {op : Nat} {body : State → Rep} {roleOk : Bool}
    (h : s.reaches i src op roleOk = true) : s.runCmd i src op body roleOk = s.settle i src op (body s) := by
  simp only [State.reaches, Bool.and_eq_true, Option.isNone_iff_eq_none] at h
  obtain ⟨⟨⟨⟨⟨h1, h2⟩, h3⟩, h4⟩, h5⟩, h6⟩ := h
  unfold State.runCmd
  cases src <;>
    simp only [Bool.not_eq_true', Bool.true_and, Bool.false_and] at h1 h2 h3 h4 h6 <;>
    simp only [h1, h2, h3, h4, h5, h6, Bool.false_eq_true, if_false, Bool.not_true, Bool.false_and, Bool.true_and]

theorem State.reaches_of_acts {s : State} {i : Instr} {src : CmdSrc} {op : Nat} {roleOk : Bool} (h : s.acts i src op roleOk = true) :
    s.reaches i src op roleOk = true := by
  simp only [State.acts, Bool.and_eq_true] at h; exact h.1

/-- A command that reaches its own checks and that no journal carries first comes to what they decide at once. -/
theorem State.runCmd_acts {s : State} {i : Instr} {src : CmdSrc} {op : Nat} {body : State → Rep} {roleOk : Bool}
    (h : s.acts i src op roleOk = true) : s.runCmd i src op body roleOk = s.settleNow i src op (body s) := by
  rw [State.runCmd_reaches (State.reaches_of_acts h)]
  simp only [State.acts, Bool.and_eq_true, Bool.not_eq_true'] at h
  unfold State.settle
  simp [h.2]

/-- Where every parameter lies in its range, the effect follows. -/
theorem Rep.ranges_true {bs : List Bool} {r : Rep} (h : bs.all (fun b => b) = true) : Rep.ranges bs r = r := by
  have : ∀ (k : Nat), firstFalse k bs = none := by
    induction bs with
    | nil => intro k; rfl
    | cons b bs ih =>
      intro k
      simp only [List.all_cons, Bool.and_eq_true] at h
      rw [h.1]; exact ih h.2 _
  simp [Rep.ranges, this 0]

/-- An effect of a command of this unit alone takes place and the command completes. -/
theorem State.settleNow_ok {s t : State} {i : Instr} {src : CmdSrc} {op : Nat} {res : List Fld} (hu : unitLocal i = false) :
    s.settleNow i src op (.ok t res) =
      (if changesConfig op then t.dependentChange else t).finish src op (s.okStatus src op) 0 res := by
  unfold State.settleNow
  have h : s.okStatus src op = stUnmirrored ∨ s.okStatus src op = stOk := by
    unfold State.okStatus; split <;> (try split) <;> simp
  rcases h with h | h <;> simp [h, hu, stOk, stUnmirrored]

/-- What a command that succeeds at once is shown to complete with. -/
theorem completes_ok {i : Instr} {src : CmdSrc} {op : Nat} {s u : State} {res : List Fld} {ps : List Part} {eff : State → Prop}
    {body : State → Rep} (hx : exec i s = .next (s.runCmd i src op body)) (hu : unitLocal i = false)
    (hb : s.acts i src op = true → body s = .ok u res) (hf : keepsAllBut (ps ++ answerParts) s u)
    (he : eff ((if changesConfig op then u.dependentChange else u).finish src op (s.okStatus src op) 0 res)) :
    completes i src op s res ps eff := by
  intro h
  rw [completes_ok.next hx hu (hb h) h]
  refine ⟨_, rfl, ?_, ?_, ?_, ?_, he⟩
  · rw [State.finish_cmd]
  · rw [State.finish_cmd]
  · rw [State.finish_cmd]
  · refine hf.trans ?_
    have k : keepsAllBut answerParts u (if changesConfig op then u.dependentChange else u) := by
      split
      · exact (State.dependentChange_keeps u).keeps.mono (by decide)
      · exact .refl _ _
    exact (k.trans ((State.finish_keeps _ _ _ _ _ _ _).keeps.mono (by decide))).mono (by simp +contextual)
where
  next {i : Instr} {src : CmdSrc} {op : Nat} {s u : State} {res : List Fld} {body : State → Rep}
      (hx : exec i s = .next (s.runCmd i src op body)) (hu : unitLocal i = false) (hb : body s = .ok u res)
      (h : s.acts i src op = true) : exec i s =
        .next ((if changesConfig op then u.dependentChange else u).finish src op (s.okStatus src op) 0 res) := by
    rw [hx, State.runCmd_acts h, hb, State.settleNow_ok hu]

/-- What a command that begins is shown to leave. -/
theorem begins_later {i : Instr} {src : CmdSrc} {op : Nat} {s u : State} {ps : List Part} {eff : State → Prop} {commit : Bool}
    {body : State → Rep} (hx : exec i s = .next (s.runCmd i src op body))
    (hb : s.acts i src op = true → body s = .later u commit) (hf : keepsAllBut (ps ++ beginParts) s u)
    (he : eff ((if changesConfig op then u.dependentChange else u).markStarted src commit)) (h : s.acts i src op = true) :
    ∃ t, exec i s = .next t ∧ keepsBesideBeginning ps s t ∧ eff t := by
  refine ⟨(if changesConfig op then u.dependentChange else u).markStarted src commit, ?_, ?_, he⟩
  · rw [hx, State.runCmd_acts h, hb h]; rfl
  · refine hf.trans ?_
    have k : keepsAllBut beginParts u (if changesConfig op then u.dependentChange else u) := by
      split
      · exact (State.dependentChange_keeps u).keeps.mono (by decide)
      · exact .refl _ _
    refine (k.trans ?_).mono (by simp +contextual)
    generalize (if changesConfig op then u.dependentChange else u) = w
    cases src <;> intro p hp <;> cases p <;> first | exact absurd (by decide) hp | rfl

/-- The status of a command that is not mirrored. -/
theorem State.okStatus_own {s : State} {src : CmdSrc} {op : Nat} (h : (mirrored op && !readOnly op) = false) :
    s.okStatus src op = stOk := by
  unfold State.okStatus; split <;> simp_all

end Sys2Proof.Machine
end

