-- ==== Sys2Proof/Laws/Keeps.lean ====
section
/-!
SUPPORT. How a frame is carried through a definition: updates of parts, choices, folds, what a command comes to.
-/
namespace Sys2Proof.Machine

theorem keeps_ite {ps : List Part} {s a b : State} {c : Prop} [Decidable c] (h : goesOn ps s a) (k : goesOn ps s b) :
    goesOn ps s (if c then a else b) := by split <;> assumption

theorem keeps_foldl {α : Type} {ps : List Part} {s t : State} {f : State → α → State} {l : List α} (h : goesOn ps s t)
    (hf : ∀ y a, goesOn ps s y → goesOn ps s (f y a)) : goesOn ps s (l.foldl f t) := by
  induction l generalizing t with
  | nil => exact h
  | cons a l ih => exact ih (hf _ _ h)

theorem keeps_ite1 {α : Type} {ps : List Part} {s : State} {a b : State × α} {c : Prop} [Decidable c] (h : goesOn ps s a.1)
    (k : goesOn ps s b.1) : goesOn ps s (if c then a else b).1 := by split <;> assumption

theorem keeps_mk1 {α : Type} {ps : List Part} {s t : State} {a : α} (h : goesOn ps s t) : goesOn ps s (t, a).1 := h

/-- The state of a pair keeps every part but those named. -/
def Fst.keeps {α : Type} (ps : List Part) (s : State) (p : State × α) : Prop := goesOn ps s p.1
theorem fst_mk {α : Type} {ps : List Part} {s t : State} {a : α} (h : goesOn ps s t) : Fst.keeps ps s (t, a) := h
theorem fst_ite {α : Type} {ps : List Part} {s : State} {a b : State × α} {c : Prop} [Decidable c] (h : Fst.keeps ps s a)
    (k : Fst.keeps ps s b) : Fst.keeps ps s (if c then a else b) := by split <;> assumption

theorem keeps_ite2 {α : Type} {ps : List Part} {s : State} {a b : α × State} {c : Prop} [Decidable c] (h : goesOn ps s a.2)
    (k : goesOn ps s b.2) : goesOn ps s (if c then a else b).2 := by split <;> assumption

theorem keeps_foldl1 {α β : Type} {ps : List Part} {s : State} {t : State × β} {f : State × β → α → State × β} {l : List α}
    (h : goesOn ps s t.1) (hf : ∀ y a, goesOn ps s y.1 → goesOn ps s (f y a).1) : goesOn ps s (l.foldl f t).1 := by
  induction l generalizing t with
  | nil => exact h
  | cons a l ih => exact ih (hf _ _ h)

theorem keeps_foldlA {α : Type} {ps : List Part} {s : State} {t : TimeAcc} {f : TimeAcc → α → TimeAcc} {l : List α}
    (h : goesOn ps s t.s) (hf : ∀ y a, goesOn ps s y.s → goesOn ps s (f y a).s) : goesOn ps s (l.foldl f t).s := by
  induction l generalizing t with
  | nil => exact h
  | cons a l ih => exact ih (hf _ _ h)

/-- What a command comes to keeps every part but those named. -/
def Rep.keeps (ps : List Part) (s : State) (r : Rep) : Prop :=
  match r with
  | .ok t _ => goesOn ps s t
  | .done t _ _ => goesOn ps s t
  | .later t _ => goesOn ps s t
  | .fail _ _ => True
  | .range _ => True

/-- What a command answers keeps every part but those named. -/
def Out.keeps (ps : List Part) (s : State) (o : Host.Outcome State Fault Refusal) : Prop := ∀ t, o = .next t → goesOn ps s t

theorem Rep.keeps.mono {ps qs : List Part} {s : State} {r : Rep} (h : Rep.keeps ps s r) (hs : ∀ p ∈ ps, p ∈ qs) : Rep.keeps qs s r := by
  cases r <;> simp only [Rep.keeps] at * <;> exact goesOn.mono h hs

theorem Out.keeps.mono {ps qs : List Part} {s : State} {o : Host.Outcome State Fault Refusal} (h : Out.keeps ps s o)
    (hs : ∀ p ∈ ps, p ∈ qs) : Out.keeps qs s o := fun t e => (h t e).mono hs

theorem keeps_fst {α : Type} {ps : List Part} {s t : State} {a : α} {p : State × α} (e : p = (t, a)) (h : goesOn ps s p.1) :
    goesOn ps s t := by subst e; exact h
theorem keeps_snd {α : Type} {ps : List Part} {s t : State} {a : α} {p : α × State} (e : p = (a, t)) (h : goesOn ps s p.2) :
    goesOn ps s t := by subst e; exact h

/-- The state an option holds keeps every part but those named. -/
def Opt.keeps (ps : List Part) (s : State) (o : Option State) : Prop := ∀ t, o = some t → goesOn ps s t
/-- The state the right alternative holds keeps every part but those named. -/
def Sm.keeps (ps : List Part) (s : State) (o : Sum Nat State) : Prop := ∀ t, o = .inr t → goesOn ps s t
theorem Opt.keeps.mono {ps qs : List Part} {s : State} {o : Option State} (h : Opt.keeps ps s o) (hs : ∀ p ∈ ps, p ∈ qs) :
    Opt.keeps qs s o := fun t e => (h t e).mono hs
theorem Sm.keeps.mono {ps qs : List Part} {s : State} {o : Sum Nat State} (h : Sm.keeps ps s o) (hs : ∀ p ∈ ps, p ∈ qs) :
    Sm.keeps qs s o := fun t e => (h t e).mono hs
theorem keeps_some {ps : List Part} {s t : State} {o : Option State} (e : o = some t) (h : Opt.keeps ps s o) : goesOn ps s t := h t e
theorem keeps_getD {ps : List Part} {s t : State} {o : Option State} (k : goesOn ps s t) (h : Opt.keeps ps s o) :
    goesOn ps s (o.getD t) := by
  cases o with
  | none => exact k
  | some u => exact h u rfl
theorem keeps_inr {ps : List Part} {s t : State} {o : Sum Nat State} (e : o = .inr t) (h : Sm.keeps ps s o) : goesOn ps s t := h t e
theorem opt_some {ps : List Part} {s t : State} (h : goesOn ps s t) : Opt.keeps ps s (some t) := by intro u e; cases e; exact h
theorem opt_none {ps : List Part} {s : State} : Opt.keeps ps s none := by intro u e; cases e
theorem opt_ite {ps : List Part} {s : State} {a b : Option State} {c : Prop} [Decidable c] (h : Opt.keeps ps s a) (k : Opt.keeps ps s b) :
    Opt.keeps ps s (if c then a else b) := by split <;> assumption
theorem sum_inr {ps : List Part} {s t : State} (h : goesOn ps s t) : Sm.keeps ps s (.inr t) := by intro u e; cases e; exact h
theorem sum_inl {ps : List Part} {s : State} {n : Nat} : Sm.keeps ps s (.inl n) := by intro u e; cases e
theorem sum_ite {ps : List Part} {s : State} {a b : Sum Nat State} {c : Prop} [Decidable c] (h : Sm.keeps ps s a) (k : Sm.keeps ps s b) :
    Sm.keeps ps s (if c then a else b) := by split <;> assumption
theorem keeps_repOk {ps : List Part} {s t : State} {r : Rep} {x : List Fld} (e : r = .ok t x) (h : Rep.keeps ps s r) :
    goesOn ps s t := by subst e; exact h
theorem keeps_repLater {ps : List Part} {s t : State} {r : Rep} {x : Bool} (e : r = .later t x) (h : Rep.keeps ps s r) :
    goesOn ps s t := by subst e; exact h
theorem keeps_repDone {ps : List Part} {s t : State} {r : Rep} {n : Nat} {x : List Fld} (e : r = .done t n x) (h : Rep.keeps ps s r) :
    goesOn ps s t := by subst e; exact h

theorem Opt.keeps.after {ps : List Part} {b s : State} {o : Option State} (h : goesOn ps b s) (k : Opt.keeps ps s o) :
    Opt.keeps ps b o := fun t e => h.trans (k t e)
theorem Sm.keeps.after {ps : List Part} {b s : State} {o : Sum Nat State} (h : goesOn ps b s) (k : Sm.keeps ps s o) :
    Sm.keeps ps b o := fun t e => h.trans (k t e)
theorem Out.keeps.after {ps : List Part} {b s : State} {o : Host.Outcome State Fault Refusal} (h : goesOn ps b s)
    (k : Out.keeps ps s o) : Out.keeps ps b o := fun t e => h.trans (k t e)
theorem Rep.keeps.after {ps : List Part} {b s : State} {r : Rep} (h : goesOn ps b s) (k : Rep.keeps ps s r) : Rep.keeps ps b r := by
  cases r <;> first | exact h.trans k | trivial

theorem rep_ok {ps : List Part} {s t : State} {res : List Fld} (h : goesOn ps s t) : Rep.keeps ps s (.ok t res) := h
theorem rep_done {ps : List Part} {s t : State} {st : Nat} {res : List Fld} (h : goesOn ps s t) : Rep.keeps ps s (.done t st res) := h
theorem rep_later {ps : List Part} {s t : State} {c : Bool} (h : goesOn ps s t) : Rep.keeps ps s (.later t c) := h
theorem rep_fail {ps : List Part} {s : State} {st : Nat} {res : List Fld} : Rep.keeps ps s (.fail st res) := trivial
theorem rep_range {ps : List Part} {s : State} {k : Nat} : Rep.keeps ps s (.range k) := trivial
theorem rep_bad {ps : List Part} {s : State} : Rep.keeps ps s Rep.badState := trivial
theorem rep_flags {ps : List Part} {s : State} : Rep.keeps ps s Rep.flags := trivial
theorem rep_ite {ps : List Part} {s : State} {a b : Rep} {c : Prop} [Decidable c] (h : Rep.keeps ps s a) (k : Rep.keeps ps s b) :
    Rep.keeps ps s (if c then a else b) := by split <;> assumption
theorem rep_ranges {ps : List Part} {s : State} {bs : List Bool} {r : Rep} (h : Rep.keeps ps s r) : Rep.keeps ps s (Rep.ranges bs r) := by
  unfold Rep.ranges; split
  · trivial
  · exact h

theorem out_next {ps : List Part} {s t : State} (h : goesOn ps s t) : Out.keeps ps s (.next t) := by
  intro u e; cases e; exact h
theorem out_fault {ps : List Part} {s : State} {f : Fault} : Out.keeps ps s (.fault f) := by intro u e; cases e
theorem out_ite {ps : List Part} {s : State} {a b : Host.Outcome State Fault Refusal} {c : Prop} [Decidable c] (h : Out.keeps ps s a)
    (k : Out.keeps ps s b) : Out.keeps ps s (if c then a else b) := by split <;> assumption

theorem kset_contracts {ps : List Part} {s t : State} {x_contracts : Contracts} (h : goesOn ps s t)
    (hp : ∀ p ∈ [.contracts], p ∈ ps) : goesOn ps s { t with contracts := x_contracts } := by
  refine h.trans (.of (fun p q => ?_) ⟨Nat.le_refl _, id, Nat.le_refl _, fun _ h => h⟩)
  cases p <;> first | rfl | exact absurd (hp _ (by simp)) q

theorem kset_core {ps : List Part} {s t : State} {x_core : Core} (h : goesOn ps s t)
    (hp : ∀ p ∈ [.core], p ∈ ps) : goesOn ps s { t with core := x_core } := by
  refine h.trans (.of (fun p q => ?_) ⟨Nat.le_refl _, id, Nat.le_refl _, fun _ h => h⟩)
  cases p <;> first | rfl | exact absurd (hp _ (by simp)) q

theorem kset_events {ps : List Part} {s t : State} {x_events : Events} (h : goesOn ps s t)
    (hp : ∀ p ∈ [.events], p ∈ ps) : goesOn ps s { t with events := x_events } := by
  refine h.trans (.of (fun p q => ?_) ⟨Nat.le_refl _, id, Nat.le_refl _, fun _ h => h⟩)
  cases p <;> first | rfl | exact absurd (hp _ (by simp)) q

theorem kset_fence {ps : List Part} {s t : State} {x_fence : Fence} (h : goesOn ps s t)
    (hp : ∀ p ∈ [.fence], p ∈ ps) : goesOn ps s { t with fence := x_fence } := by
  refine h.trans (.of (fun p q => ?_) ⟨Nat.le_refl _, id, Nat.le_refl _, fun _ h => h⟩)
  cases p <;> first | rfl | exact absurd (hp _ (by simp)) q

theorem kset_free {ps : List Part} {s t : State} {x_free : Nat} (h : goesOn ps s t)
    (hp : ∀ p ∈ [.free], p ∈ ps) : goesOn ps s { t with free := x_free } := by
  refine h.trans (.of (fun p q => ?_) ⟨Nat.le_refl _, id, Nat.le_refl _, fun _ h => h⟩)
  cases p <;> first | rfl | exact absurd (hp _ (by simp)) q

theorem kset_fuses {ps : List Part} {s t : State} {x_fuses : Fuses} (h : goesOn ps s t)
    (hp : ∀ p ∈ [.fuses], p ∈ ps) (hm : t.fuses.minVersion ≤ x_fuses.minVersion) (hr : ∀ k ∈ t.fuses.revoked, k ∈ x_fuses.revoked) : goesOn ps s { t with fuses := x_fuses } := by
  refine h.trans (.of (fun p q => ?_) ⟨Nat.le_refl _, id, hm, hr⟩)
  cases p <;> first | rfl | exact absurd (hp _ (by simp)) q

theorem kset_fw {ps : List Part} {s t : State} {x_fw : Fw} (h : goesOn ps s t)
    (hp : ∀ p ∈ [.fw], p ∈ ps) : goesOn ps s { t with fw := x_fw } := by
  refine h.trans (.of (fun p q => ?_) ⟨Nat.le_refl _, id, Nat.le_refl _, fun _ h => h⟩)
  cases p <;> first | rfl | exact absurd (hp _ (by simp)) q

theorem kset_fwd {ps : List Part} {s t : State} {x_fwd : Fwd} (h : goesOn ps s t)
    (hp : ∀ p ∈ [.fwd], p ∈ ps) : goesOn ps s { t with fwd := x_fwd } := by
  refine h.trans (.of (fun p q => ?_) ⟨Nat.le_refl _, id, Nat.le_refl _, fun _ h => h⟩)
  cases p <;> first | rfl | exact absurd (hp _ (by simp)) q

theorem kset_gauge {ps : List Part} {s t : State} {x_gauge : Gauge} (h : goesOn ps s t)
    (hp : ∀ p ∈ [.gauge], p ∈ ps) : goesOn ps s { t with gauge := x_gauge } := by
  refine h.trans (.of (fun p q => ?_) ⟨Nat.le_refl _, id, Nat.le_refl _, fun _ h => h⟩)
  cases p <;> first | rfl | exact absurd (hp _ (by simp)) q

theorem kset_glob {ps : List Part} {s t : State} {x_glob : Glob} (h : goesOn ps s t)
    (hp : ∀ p ∈ [.glob], p ∈ ps) : goesOn ps s { t with glob := x_glob } := by
  refine h.trans (.of (fun p q => ?_) ⟨Nat.le_refl _, id, Nat.le_refl _, fun _ h => h⟩)
  cases p <;> first | rfl | exact absurd (hp _ (by simp)) q

theorem kset_host {ps : List Part} {s t : State} {x_host : HostIf} (h : goesOn ps s t)
    (hp : ∀ p ∈ [.host], p ∈ ps) : goesOn ps s { t with host := x_host } := by
  refine h.trans (.of (fun p q => ?_) ⟨Nat.le_refl _, id, Nat.le_refl _, fun _ h => h⟩)
  cases p <;> first | rfl | exact absurd (hp _ (by simp)) q

theorem kset_hostMem {ps : List Part} {s t : State} {x_hostMem : List Host.Cell} (h : goesOn ps s t)
    (hp : ∀ p ∈ [.hostMem], p ∈ ps) (hw : Memory.wf t.hostMem = true → Memory.wf x_hostMem = true) : goesOn ps s { t with hostMem := x_hostMem } := by
  refine h.trans (.of (fun p q => ?_) ⟨Nat.le_refl _, hw, Nat.le_refl _, fun _ h => h⟩)
  cases p <;> first | rfl | exact absurd (hp _ (by simp)) q

theorem kset_lanes {ps : List Part} {s t : State} {x_lanes : Tbl Lane} (h : goesOn ps s t)
    (hp : ∀ p ∈ [.lanes], p ∈ ps) : goesOn ps s { t with lanes := x_lanes } := by
  refine h.trans (.of (fun p q => ?_) ⟨Nat.le_refl _, id, Nat.le_refl _, fun _ h => h⟩)
  cases p <;> first | rfl | exact absurd (hp _ (by simp)) q

theorem kset_mbs {ps : List Part} {s t : State} {x_mbs : Tbl Mailbox} (h : goesOn ps s t)
    (hp : ∀ p ∈ [.mbs], p ∈ ps) : goesOn ps s { t with mbs := x_mbs } := by
  refine h.trans (.of (fun p q => ?_) ⟨Nat.le_refl _, id, Nat.le_refl _, fun _ h => h⟩)
  cases p <;> first | rfl | exact absurd (hp _ (by simp)) q

theorem kset_modules {ps : List Part} {s t : State} {x_modules : Tbl Module} (h : goesOn ps s t)
    (hp : ∀ p ∈ [.modules], p ∈ ps) : goesOn ps s { t with modules := x_modules } := by
  refine h.trans (.of (fun p q => ?_) ⟨Nat.le_refl _, id, Nat.le_refl _, fun _ h => h⟩)
  cases p <;> first | rfl | exact absurd (hp _ (by simp)) q

theorem kset_pair {ps : List Part} {s t : State} {x_pair : Pair} (h : goesOn ps s t)
    (hp : ∀ p ∈ [.pair], p ∈ ps) : goesOn ps s { t with pair := x_pair } := by
  refine h.trans (.of (fun p q => ?_) ⟨Nat.le_refl _, id, Nat.le_refl _, fun _ h => h⟩)
  cases p <;> first | rfl | exact absurd (hp _ (by simp)) q

theorem kset_parse {ps : List Part} {s t : State} {x_parse : Parse} (h : goesOn ps s t)
    (hp : ∀ p ∈ [.parse], p ∈ ps) : goesOn ps s { t with parse := x_parse } := by
  refine h.trans (.of (fun p q => ?_) ⟨Nat.le_refl _, id, Nat.le_refl _, fun _ h => h⟩)
  cases p <;> first | rfl | exact absurd (hp _ (by simp)) q

theorem kset_ports {ps : List Part} {s t : State} {x_ports : Tbl Port} (h : goesOn ps s t)
    (hp : ∀ p ∈ [.ports], p ∈ ps) : goesOn ps s { t with ports := x_ports } := by
  refine h.trans (.of (fun p q => ?_) ⟨Nat.le_refl _, id, Nat.le_refl _, fun _ h => h⟩)
  cases p <;> first | rfl | exact absurd (hp _ (by simp)) q

theorem kset_power {ps : List Part} {s t : State} {x_power : Power} (h : goesOn ps s t)
    (hp : ∀ p ∈ [.power], p ∈ ps) : goesOn ps s { t with power := x_power } := by
  refine h.trans (.of (fun p q => ?_) ⟨Nat.le_refl _, id, Nat.le_refl _, fun _ h => h⟩)
  cases p <;> first | rfl | exact absurd (hp _ (by simp)) q

theorem kset_ptp {ps : List Part} {s t : State} {x_ptp : Ptp} (h : goesOn ps s t)
    (hp : ∀ p ∈ [.ptp], p ∈ ps) : goesOn ps s { t with ptp := x_ptp } := by
  refine h.trans (.of (fun p q => ?_) ⟨Nat.le_refl _, id, Nat.le_refl _, fun _ h => h⟩)
  cases p <;> first | rfl | exact absurd (hp _ (by simp)) q

theorem kset_ref {ps : List Part} {s t : State} {x_ref : Ref} (h : goesOn ps s t)
    (hp : ∀ p ∈ [.ref], p ∈ ps) : goesOn ps s { t with ref := x_ref } := by
  refine h.trans (.of (fun p q => ?_) ⟨Nat.le_refl _, id, Nat.le_refl _, fun _ h => h⟩)
  cases p <;> first | rfl | exact absurd (hp _ (by simp)) q

theorem kset_selv {ps : List Part} {s t : State} {x_selv : Tbl Selv} (h : goesOn ps s t)
    (hp : ∀ p ∈ [.selv], p ∈ ps) : goesOn ps s { t with selv := x_selv } := by
  refine h.trans (.of (fun p q => ?_) ⟨Nat.le_refl _, id, Nat.le_refl _, fun _ h => h⟩)
  cases p <;> first | rfl | exact absurd (hp _ (by simp)) q

theorem kset_stats {ps : List Part} {s t : State} {x_stats : Stats} (h : goesOn ps s t)
    (hp : ∀ p ∈ [.stats], p ∈ ps) : goesOn ps s { t with stats := x_stats } := by
  refine h.trans (.of (fun p q => ?_) ⟨Nat.le_refl _, id, Nat.le_refl _, fun _ h => h⟩)
  cases p <;> first | rfl | exact absurd (hp _ (by simp)) q

theorem kset_stitch {ps : List Part} {s t : State} {x_stitch : Stitch} (h : goesOn ps s t)
    (hp : ∀ p ∈ [.stitch], p ∈ ps) : goesOn ps s { t with stitch := x_stitch } := by
  refine h.trans (.of (fun p q => ?_) ⟨Nat.le_refl _, id, Nat.le_refl _, fun _ h => h⟩)
  cases p <;> first | rfl | exact absurd (hp _ (by simp)) q

theorem kset_tdc {ps : List Part} {s t : State} {x_tdc : Tdc} (h : goesOn ps s t)
    (hp : ∀ p ∈ [.tdc], p ∈ ps) : goesOn ps s { t with tdc := x_tdc } := by
  refine h.trans (.of (fun p q => ?_) ⟨Nat.le_refl _, id, Nat.le_refl _, fun _ h => h⟩)
  cases p <;> first | rfl | exact absurd (hp _ (by simp)) q

theorem kset_time {ps : List Part} {s t : State} {x_time : Time} (h : goesOn ps s t)
    (hp : ∀ p ∈ [.time], p ∈ ps) : goesOn ps s { t with time := x_time } := by
  refine h.trans (.of (fun p q => ?_) ⟨Nat.le_refl _, id, Nat.le_refl _, fun _ h => h⟩)
  cases p <;> first | rfl | exact absurd (hp _ (by simp)) q

theorem kset_chan_lanes {ps : List Part} {s t : State} {x_chan : Option ChanTable} {x_lanes : Tbl Lane} (h : goesOn ps s t)
    (hp : ∀ p ∈ [.chan, .lanes], p ∈ ps) : goesOn ps s { t with chan := x_chan, lanes := x_lanes } := by
  refine h.trans (.of (fun p q => ?_) ⟨Nat.le_refl _, id, Nat.le_refl _, fun _ h => h⟩)
  cases p <;> first | rfl | exact absurd (hp _ (by simp)) q

theorem kset_contracts_stats {ps : List Part} {s t : State} {x_contracts : Contracts} {x_stats : Stats} (h : goesOn ps s t)
    (hp : ∀ p ∈ [.contracts, .stats], p ∈ ps) : goesOn ps s { t with contracts := x_contracts, stats := x_stats } := by
  refine h.trans (.of (fun p q => ?_) ⟨Nat.le_refl _, id, Nat.le_refl _, fun _ h => h⟩)
  cases p <;> first | rfl | exact absurd (hp _ (by simp)) q

theorem kset_core_contracts {ps : List Part} {s t : State} {x_core : Core} {x_contracts : Contracts} (h : goesOn ps s t)
    (hp : ∀ p ∈ [.core, .contracts], p ∈ ps) : goesOn ps s { t with core := x_core, contracts := x_contracts } := by
  refine h.trans (.of (fun p q => ?_) ⟨Nat.le_refl _, id, Nat.le_refl _, fun _ h => h⟩)
  cases p <;> first | rfl | exact absurd (hp _ (by simp)) q

theorem kset_fuses_power {ps : List Part} {s t : State} {x_fuses : Fuses} {x_power : Power} (h : goesOn ps s t)
    (hp : ∀ p ∈ [.fuses, .power], p ∈ ps) (hm : t.fuses.minVersion ≤ x_fuses.minVersion) (hr : ∀ k ∈ t.fuses.revoked, k ∈ x_fuses.revoked) : goesOn ps s { t with fuses := x_fuses, power := x_power } := by
  refine h.trans (.of (fun p q => ?_) ⟨Nat.le_refl _, id, hm, hr⟩)
  cases p <;> first | rfl | exact absurd (hp _ (by simp)) q

theorem kset_fw_power {ps : List Part} {s t : State} {x_fw : Fw} {x_power : Power} (h : goesOn ps s t)
    (hp : ∀ p ∈ [.fw, .power], p ∈ ps) : goesOn ps s { t with fw := x_fw, power := x_power } := by
  refine h.trans (.of (fun p q => ?_) ⟨Nat.le_refl _, id, Nat.le_refl _, fun _ h => h⟩)
  cases p <;> first | rfl | exact absurd (hp _ (by simp)) q

theorem kset_fwd_events {ps : List Part} {s t : State} {x_fwd : Fwd} {x_events : Events} (h : goesOn ps s t)
    (hp : ∀ p ∈ [.fwd, .events], p ∈ ps) : goesOn ps s { t with fwd := x_fwd, events := x_events } := by
  refine h.trans (.of (fun p q => ?_) ⟨Nat.le_refl _, id, Nat.le_refl _, fun _ h => h⟩)
  cases p <;> first | rfl | exact absurd (hp _ (by simp)) q

theorem kset_glob_fw {ps : List Part} {s t : State} {x_glob : Glob} {x_fw : Fw} (h : goesOn ps s t)
    (hp : ∀ p ∈ [.glob, .fw], p ∈ ps) : goesOn ps s { t with glob := x_glob, fw := x_fw } := by
  refine h.trans (.of (fun p q => ?_) ⟨Nat.le_refl _, id, Nat.le_refl _, fun _ h => h⟩)
  cases p <;> first | rfl | exact absurd (hp _ (by simp)) q

theorem kset_glob_pair {ps : List Part} {s t : State} {x_glob : Glob} {x_pair : Pair} (h : goesOn ps s t)
    (hp : ∀ p ∈ [.glob, .pair], p ∈ ps) : goesOn ps s { t with glob := x_glob, pair := x_pair } := by
  refine h.trans (.of (fun p q => ?_) ⟨Nat.le_refl _, id, Nat.le_refl _, fun _ h => h⟩)
  cases p <;> first | rfl | exact absurd (hp _ (by simp)) q

theorem kset_pair_fence {ps : List Part} {s t : State} {x_pair : Pair} {x_fence : Fence} (h : goesOn ps s t)
    (hp : ∀ p ∈ [.pair, .fence], p ∈ ps) : goesOn ps s { t with pair := x_pair, fence := x_fence } := by
  refine h.trans (.of (fun p q => ?_) ⟨Nat.le_refl _, id, Nat.le_refl _, fun _ h => h⟩)
  cases p <;> first | rfl | exact absurd (hp _ (by simp)) q

theorem kset_parse_contracts {ps : List Part} {s t : State} {x_parse : Parse} {x_contracts : Contracts} (h : goesOn ps s t)
    (hp : ∀ p ∈ [.parse, .contracts], p ∈ ps) : goesOn ps s { t with parse := x_parse, contracts := x_contracts } := by
  refine h.trans (.of (fun p q => ?_) ⟨Nat.le_refl _, id, Nat.le_refl _, fun _ h => h⟩)
  cases p <;> first | rfl | exact absurd (hp _ (by simp)) q

theorem kset_parse_core {ps : List Part} {s t : State} {x_parse : Parse} {x_core : Core} (h : goesOn ps s t)
    (hp : ∀ p ∈ [.parse, .core], p ∈ ps) : goesOn ps s { t with parse := x_parse, core := x_core } := by
  refine h.trans (.of (fun p q => ?_) ⟨Nat.le_refl _, id, Nat.le_refl _, fun _ h => h⟩)
  cases p <;> first | rfl | exact absurd (hp _ (by simp)) q

theorem kset_ports_pair {ps : List Part} {s t : State} {x_ports : Tbl Port} {x_pair : Pair} (h : goesOn ps s t)
    (hp : ∀ p ∈ [.ports, .pair], p ∈ ps) : goesOn ps s { t with ports := x_ports, pair := x_pair } := by
  refine h.trans (.of (fun p q => ?_) ⟨Nat.le_refl _, id, Nat.le_refl _, fun _ h => h⟩)
  cases p <;> first | rfl | exact absurd (hp _ (by simp)) q

theorem kset_time_host {ps : List Part} {s t : State} {x_time : Time} {x_host : HostIf} (h : goesOn ps s t)
    (hp : ∀ p ∈ [.time, .host], p ∈ ps) : goesOn ps s { t with time := x_time, host := x_host } := by
  refine h.trans (.of (fun p q => ?_) ⟨Nat.le_refl _, id, Nat.le_refl _, fun _ h => h⟩)
  cases p <;> first | rfl | exact absurd (hp _ (by simp)) q

theorem kset_glob_fw_power {ps : List Part} {s t : State} {x_glob : Glob} {x_fw : Fw} {x_power : Power} (h : goesOn ps s t)
    (hp : ∀ p ∈ [.glob, .fw, .power], p ∈ ps) : goesOn ps s { t with glob := x_glob, fw := x_fw, power := x_power } := by
  refine h.trans (.of (fun p q => ?_) ⟨Nat.le_refl _, id, Nat.le_refl _, fun _ h => h⟩)
  cases p <;> first | rfl | exact absurd (hp _ (by simp)) q

theorem kset_glob_time_power {ps : List Part} {s t : State} {x_glob : Glob} {x_time : Time} {x_power : Power} (h : goesOn ps s t)
    (hp : ∀ p ∈ [.glob, .time, .power], p ∈ ps) : goesOn ps s { t with glob := x_glob, time := x_time, power := x_power } := by
  refine h.trans (.of (fun p q => ?_) ⟨Nat.le_refl _, id, Nat.le_refl _, fun _ h => h⟩)
  cases p <;> first | rfl | exact absurd (hp _ (by simp)) q

theorem kset_mbs_events_host {ps : List Part} {s t : State} {x_mbs : Tbl Mailbox} {x_events : Events} {x_host : HostIf} (h : goesOn ps s t)
    (hp : ∀ p ∈ [.mbs, .events, .host], p ∈ ps) : goesOn ps s { t with mbs := x_mbs, events := x_events, host := x_host } := by
  refine h.trans (.of (fun p q => ?_) ⟨Nat.le_refl _, id, Nat.le_refl _, fun _ h => h⟩)
  cases p <;> first | rfl | exact absurd (hp _ (by simp)) q

theorem kset_pair_fw_mbs {ps : List Part} {s t : State} {x_pair : Pair} {x_fw : Fw} {x_mbs : Tbl Mailbox} (h : goesOn ps s t)
    (hp : ∀ p ∈ [.pair, .fw, .mbs], p ∈ ps) : goesOn ps s { t with pair := x_pair, fw := x_fw, mbs := x_mbs } := by
  refine h.trans (.of (fun p q => ?_) ⟨Nat.le_refl _, id, Nat.le_refl _, fun _ h => h⟩)
  cases p <;> first | rfl | exact absurd (hp _ (by simp)) q

theorem kset_parse_contracts_stats {ps : List Part} {s t : State} {x_parse : Parse} {x_contracts : Contracts} {x_stats : Stats} (h : goesOn ps s t)
    (hp : ∀ p ∈ [.parse, .contracts, .stats], p ∈ ps) : goesOn ps s { t with parse := x_parse, contracts := x_contracts, stats := x_stats } := by
  refine h.trans (.of (fun p q => ?_) ⟨Nat.le_refl _, id, Nat.le_refl _, fun _ h => h⟩)
  cases p <;> first | rfl | exact absurd (hp _ (by simp)) q

theorem kset_modules_fw_fence_power {ps : List Part} {s t : State} {x_modules : Tbl Module} {x_fw : Fw} {x_fence : Fence} {x_power : Power} (h : goesOn ps s t)
    (hp : ∀ p ∈ [.modules, .fw, .fence, .power], p ∈ ps) : goesOn ps s { t with modules := x_modules, fw := x_fw, fence := x_fence, power := x_power } := by
  refine h.trans (.of (fun p q => ?_) ⟨Nat.le_refl _, id, Nat.le_refl _, fun _ h => h⟩)
  cases p <;> first | rfl | exact absurd (hp _ (by simp)) q

theorem kset_glob_time_stitch_fw_fence {ps : List Part} {s t : State} {x_glob : Glob} {x_time : Time} {x_stitch : Stitch} {x_fw : Fw} {x_fence : Fence} (h : goesOn ps s t)
    (hp : ∀ p ∈ [.glob, .time, .stitch, .fw, .fence], p ∈ ps) : goesOn ps s { t with glob := x_glob, time := x_time, stitch := x_stitch, fw := x_fw, fence := x_fence } := by
  refine h.trans (.of (fun p q => ?_) ⟨Nat.le_refl _, id, Nat.le_refl _, fun _ h => h⟩)
  cases p <;> first | rfl | exact absurd (hp _ (by simp)) q

theorem kset_glob_lanes_tdc_gauge_ref_time_stitch {ps : List Part} {s t : State} {x_glob : Glob} {x_lanes : Tbl Lane} {x_tdc : Tdc} {x_gauge : Gauge} {x_ref : Ref} {x_time : Time} {x_stitch : Stitch} (h : goesOn ps s t)
    (hp : ∀ p ∈ [.glob, .lanes, .tdc, .gauge, .ref, .time, .stitch], p ∈ ps) : goesOn ps s { t with glob := x_glob, lanes := x_lanes, tdc := x_tdc, gauge := x_gauge, ref := x_ref, time := x_time, stitch := x_stitch } := by
  refine h.trans (.of (fun p q => ?_) ⟨Nat.le_refl _, id, Nat.le_refl _, fun _ h => h⟩)
  cases p <;> first | rfl | exact absurd (hp _ (by simp)) q

theorem State.logReached_on {kp : List Part} {b0 : State} {s : State} {was : State} (hk : goesOn kp b0 s) (hq : ∀ p ∈ [.fence, .events], p ∈ kp) :
    goesOn kp b0 (State.logReached s was) := hk.trans ((goesOn.mono (qs := [.fence, .events]) (State.logReached_keeps s was) (by decide)).mono hq)
theorem State.hwSet_on {kp : List Part} {b0 : State} {s : State} {o : Nat} {b : Nat} (hk : goesOn kp b0 s) (hq : ∀ p ∈ [.events], p ∈ kp) :
    goesOn kp b0 (State.hwSet s o b) := hk.trans ((goesOn.mono (qs := [.events]) (State.hwSet_keeps s o b) (by decide)).mono hq)
theorem State.hwCount_on {kp : List Part} {b0 : State} {s : State} {o : Nat} {old : Nat} (hk : goesOn kp b0 s) (hq : ∀ p ∈ [.events], p ∈ kp) :
    goesOn kp b0 (State.hwCount s o old) := hk.trans ((goesOn.mono (qs := [.events]) (State.hwCount_keeps s o old) (by decide)).mono hq)
theorem State.logStore_on {kp : List Part} {b0 : State} {s : State} {e : Events} {k : Nat} {r : LogRec} (hk : goesOn kp b0 s) (hq : ∀ p ∈ [.events], p ∈ kp) :
    goesOn kp b0 (State.logStore s e k r) := hk.trans ((goesOn.mono (qs := [.events]) (State.logStore_keeps s e k r) (by decide)).mono hq)
theorem State.lpiNow_on {kp : List Part} {b0 : State} {s : State} (hk : goesOn kp b0 s) (hq : ∀ p ∈ [.clock, .free, .cmd, .hostMem, .pair, .fw, .mbs, .fence, .events, .stats], p ∈ kp) :
    goesOn kp b0 (State.lpiNow s) := hk.trans ((goesOn.mono (qs := [.clock, .free, .cmd, .hostMem, .pair, .fw, .mbs, .fence, .events, .stats]) (State.lpiNow_keeps s) (by decide)).mono hq)
theorem State.vecSend_on {kp : List Part} {b0 : State} {s : State} {v : Nat} (hk : goesOn kp b0 s) (hq : ∀ p ∈ [.events], p ∈ kp) :
    goesOn kp b0 (State.vecSend s v) := hk.trans ((goesOn.mono (qs := [.events]) (State.vecSend_keeps s v) (by decide)).mono hq)
theorem State.vecRaise_on {kp : List Part} {b0 : State} {s : State} {v : Nat} (hk : goesOn kp b0 s) (hq : ∀ p ∈ [.events], p ∈ kp) :
    goesOn kp b0 (State.vecRaise s v) := hk.trans ((goesOn.mono (qs := [.events]) (State.vecRaise_keeps s v) (by decide)).mono hq)
theorem State.logRecord_on {kp : List Part} {b0 : State} {s : State} {r : LogRec} (hk : goesOn kp b0 s) (hq : ∀ p ∈ [.events], p ∈ kp) :
    goesOn kp b0 (State.logRecord s r) := hk.trans ((goesOn.mono (qs := [.events]) (State.logRecord_keeps s r) (by decide)).mono hq)
theorem State.logMarker_on {kp : List Part} {b0 : State} {s : State} {ep : Nat} (hk : goesOn kp b0 s) (hq : ∀ p ∈ [.events], p ∈ kp) :
    goesOn kp b0 (State.logMarker s ep) := hk.trans ((goesOn.mono (qs := [.events]) (State.logMarker_keeps s ep) (by decide)).mono hq)
theorem State.logOwed_on {kp : List Part} {b0 : State} {s : State} (hk : goesOn kp b0 s) (hq : ∀ p ∈ [.fence, .events], p ∈ kp) :
    goesOn kp b0 (State.logOwed s) := hk.trans ((goesOn.mono (qs := [.fence, .events]) (State.logOwed_keeps s) (by decide)).mono hq)
theorem State.raiseOne_on {kp : List Part} {b0 : State} {s : State} {src : Nat} {cause : Nat} {inj : Bool} {data : List Byte} (hk : goesOn kp b0 s) (hq : ∀ p ∈ [.fence, .events], p ∈ kp) :
    goesOn kp b0 (State.raiseOne s src cause inj data) := hk.trans ((goesOn.mono (qs := [.fence, .events]) (State.raiseOne_keeps s src cause inj data) (by decide)).mono hq)
theorem State.raise_on {kp : List Part} {b0 : State} {s : State} {src : Nat} {cause : Nat} {data : List Fld} {inj : Bool} (hk : goesOn kp b0 s) (hq : ∀ p ∈ [.fence, .events], p ∈ kp) :
    goesOn kp b0 (State.raise s src cause data inj) := hk.trans ((goesOn.mono (qs := [.fence, .events]) (State.raise_keeps s src cause data inj) (by decide)).mono hq)
theorem State.respond_on {kp : List Part} {b0 : State} {s : State} {m : Nat} {opcode : Nat} {tag : Nat} {status : Nat} {detail : Nat} {notify : Bool} {mirrored : Bool} {res : List Byte} (hk : goesOn kp b0 s) (hq : ∀ p ∈ [.hostMem, .mbs, .fence, .events], p ∈ kp) :
    goesOn kp b0 (State.respond s m opcode tag status detail notify mirrored res) := hk.trans ((goesOn.mono (qs := [.hostMem, .mbs, .fence, .events]) (State.respond_keeps s m opcode tag status detail notify mirrored res) (by decide)).mono hq)
theorem State.noteAborted_on {kp : List Part} {b0 : State} {s : State} {m : Nat} {pos : BitVec 32} (hk : goesOn kp b0 s) (hq : ∀ p ∈ [.hostMem, .mbs, .fence, .events], p ∈ kp) :
    goesOn kp b0 (State.noteAborted s m pos) := hk.trans ((goesOn.mono (qs := [.hostMem, .mbs, .fence, .events]) (State.noteAborted_keeps s m pos) (by decide)).mono hq)
theorem State.sweep_on {kp : List Part} {b0 : State} {s : State} {m : Nat} (hk : goesOn kp b0 s) (hq : ∀ p ∈ [.hostMem, .mbs, .fence, .events], p ∈ kp) :
    goesOn kp b0 (State.sweep s m) := hk.trans ((goesOn.mono (qs := [.hostMem, .mbs, .fence, .events]) (State.sweep_keeps s m) (by decide)).mono hq)
theorem State.placeFence_on {kp : List Part} {b0 : State} {s : State} {src : CmdSrc} {f : Nat} {arm : Bool} (hk : goesOn kp b0 s) (hq : ∀ p ∈ [.hostMem, .mbs, .fence, .events], p ∈ kp) :
    goesOn kp b0 (State.placeFence s src f arm) := hk.trans ((goesOn.mono (qs := [.hostMem, .mbs, .fence, .events]) (State.placeFence_keeps s src f arm) (by decide)).mono hq)
theorem State.startFence_on {kp : List Part} {b0 : State} {s : State} {src : CmdSrc} (hk : goesOn kp b0 s) (hq : ∀ p ∈ [.hostMem, .fw, .mbs, .fence, .events], p ∈ kp) :
    goesOn kp b0 (State.startFence s src) := hk.trans ((goesOn.mono (qs := [.hostMem, .fw, .mbs, .fence, .events]) (State.startFence_keeps s src) (by decide)).mono hq)
theorem State.markReady_on {kp : List Part} {b0 : State} {s : State} (hk : goesOn kp b0 s) (hq : ∀ p ∈ [.hostMem, .fw, .mbs, .fence, .events], p ∈ kp) :
    goesOn kp b0 (State.markReady s) := hk.trans ((goesOn.mono (qs := [.hostMem, .fw, .mbs, .fence, .events]) (State.markReady_keeps s) (by decide)).mono hq)
theorem State.pokeOnce_on {kp : List Part} {b0 : State} {s : State} (hk : goesOn kp b0 s) (hq : ∀ p ∈ [.hostMem, .fw, .mbs, .fence, .events], p ∈ kp) :
    goesOn kp b0 (State.pokeOnce s) := hk.trans ((goesOn.mono (qs := [.hostMem, .fw, .mbs, .fence, .events]) (State.pokeOnce_keeps s) (by decide)).mono hq)
theorem State.pokeFences_on {kp : List Part} {b0 : State} {s : State} (hk : goesOn kp b0 s) (hq : ∀ p ∈ [.hostMem, .fw, .mbs, .fence, .events], p ∈ kp) :
    goesOn kp b0 (State.pokeFences s) := hk.trans ((goesOn.mono (qs := [.hostMem, .fw, .mbs, .fence, .events]) (State.pokeFences_keeps s) (by decide)).mono hq)
theorem State.finish_on {kp : List Part} {b0 : State} {s : State} {src : CmdSrc} {opcode : Nat} {status : Nat} {detail : Nat} {res : List Fld} {unitLocal : Bool} (hk : goesOn kp b0 s) (hq : ∀ p ∈ [.cmd, .hostMem, .pair, .fw, .mbs, .fence, .events], p ∈ kp) :
    goesOn kp b0 (State.finish s src opcode status detail res unitLocal) := hk.trans ((goesOn.mono (qs := [.cmd, .hostMem, .pair, .fw, .mbs, .fence, .events]) (State.finish_keeps s src opcode status detail res unitLocal) (by decide)).mono hq)
theorem State.markStarted_on {kp : List Part} {b0 : State} {s : State} {src : CmdSrc} {commit : Bool} (hk : goesOn kp b0 s) (hq : ∀ p ∈ [.hostMem, .mbs, .fence, .events], p ∈ kp) :
    goesOn kp b0 (State.markStarted s src commit) := hk.trans ((goesOn.mono (qs := [.hostMem, .mbs, .fence, .events]) (State.markStarted_keeps s src commit) (by decide)).mono hq)
theorem State.dependentChange_on {kp : List Part} {b0 : State} {s : State} (hk : goesOn kp b0 s) (hq : ∀ p ∈ [.fw, .fence, .events], p ∈ kp) :
    goesOn kp b0 (State.dependentChange s) := hk.trans ((goesOn.mono (qs := [.fw, .fence, .events]) (State.dependentChange_keeps s) (by decide)).mono hq)
theorem State.fencesTo_on {kp : List Part} {b0 : State} {s : State} {t : Nat} (hk : goesOn kp b0 s) (hq : ∀ p ∈ [.clock, .free, .cmd, .hostMem, .pair, .fw, .mbs, .fence, .events, .stats], p ∈ kp) :
    goesOn kp b0 (State.fencesTo s t) := hk.trans ((goesOn.mono (qs := [.clock, .free, .cmd, .hostMem, .pair, .fw, .mbs, .fence, .events, .stats]) (State.fencesTo_keeps s t) (by decide)).mono hq)
theorem State.advance_on {kp : List Part} {b0 : State} {s : State} {t : Nat} (hk : goesOn kp b0 s) (hq : ∀ p ∈ [.clock, .free, .cmd, .hostMem, .pair, .fw, .mbs, .fence, .events, .stats], p ∈ kp) :
    goesOn kp b0 (State.advance s t) := hk.trans ((goesOn.mono (qs := [.clock, .free, .cmd, .hostMem, .pair, .fw, .mbs, .fence, .events, .stats]) (State.advance_keeps s t) (by decide)).mono hq)
theorem State.advanceTick_on {kp : List Part} {b0 : State} {s : State} {t : Nat} (hk : goesOn kp b0 s) (hq : ∀ p ∈ [.clock, .free, .cmd, .hostMem, .pair, .fw, .mbs, .fence, .events, .stats], p ∈ kp) :
    goesOn kp b0 (State.advanceTick s t) := hk.trans ((goesOn.mono (qs := [.clock, .free, .cmd, .hostMem, .pair, .fw, .mbs, .fence, .events, .stats]) (State.advanceTick_keeps s t) (by decide)).mono hq)

/-- The parts that any mailbox command may touch beside its own: those of its answer, and the Keeper's queue. -/
def cmdParts : List Part := .glob :: answerParts

theorem cmdParts_mem {ps qs : List Part} (h : ∀ p ∈ cmdParts, p ∈ ps) (k : ∀ p ∈ qs, p ∈ cmdParts) : ∀ p ∈ qs, p ∈ ps :=
  fun p m => h p (k p m)

theorem keeps_settleNow {ps : List Part} {s t : State} {i : Instr} {src : CmdSrc} {op : Nat} {r : Rep} (h : goesOn ps s t)
    (hr : Rep.keeps ps s r) (hc : ∀ p ∈ cmdParts, p ∈ ps) : goesOn ps s (t.settleNow i src op r) := by
  have fin := fun (x : State) (st d : Nat) (r : List Fld) (ul : Bool) =>
    (State.finish_keeps x src op st d r ul).mono (cmdParts_mem hc (by decide))
  have dep := fun (x : State) => (State.dependentChange_keeps x).mono (cmdParts_mem hc (by decide))
  unfold State.settleNow
  split
  · exact h.trans (fin _ _ _ _ _)
  · exact h.trans (fin _ _ _ _ _)
  · rename_i u res
    have hx : goesOn ps s (if changesConfig op then u.dependentChange else u) := by
      split
      · exact goesOn.trans hr (dep _)
      · exact hr
    dsimp only
    split <;> exact hx.trans (fin _ _ _ _ _)
  · exact goesOn.trans hr (fin _ _ _ _ _)
  · rename_i u c
    have hx : goesOn ps s (if changesConfig op then u.dependentChange else u) := by
      split
      · exact goesOn.trans hr (dep _)
      · exact hr
    exact hx.trans ((State.markStarted_keeps _ _ _).mono (cmdParts_mem hc (by decide)))

/-- A mailbox command keeps what its own effect keeps, but for the parts of its answer. -/
theorem keeps_runCmd {ps : List Part} {s t : State} {i : Instr} {src : CmdSrc} {op : Nat} {body : State → Rep} {roleOk : Bool}
    (h : goesOn ps s t) (hb : ∀ y, Rep.keeps ps y (body y)) (hc : ∀ p ∈ cmdParts, p ∈ ps) :
    goesOn ps s (t.runCmd i src op body roleOk) := by
  have fin := fun (x : State) (st d : Nat) (r : List Fld) (ul : Bool) =>
    (State.finish_keeps x src op st d r ul).mono (cmdParts_mem hc (by decide))
  have ring := fun {x y : State} (k : goesOn ringParts x y) => k.mono (cmdParts_mem hc (by decide))
  have join : ∀ r, Rep.keeps ps t r → goesOn ps t (t.settle i src op r) := by
    intro r hr
    unfold State.settle
    refine keeps_ite ?_ (keeps_settleNow (.refl _ _) hr hc)
    unfold State.joinJournal
    refine goesOn.trans ?_ (ring (State.markStarted_keeps _ _ _))
    exact kset_pair (.refl _ _) (cmdParts_mem hc (by decide))
  refine h.trans ?_
  unfold State.runCmd
  dsimp only
  repeat' split
  all_goals first
    | exact .refl _ _
    | exact fin _ _ _ _ _
    | (refine goesOn.trans ?_ (ring (State.markStarted_keeps _ _ _)); exact kset_glob (.refl _ _) (cmdParts_mem hc (by decide)))
    | skip
  all_goals exact join _ (hb t)

theorem State.joinJournal_keeps (s : State) (i : Instr) (src : CmdSrc) :
    goesOn [.mbs, .hostMem, .events, .fence, .pair] s (s.joinJournal i src) := by
  unfold State.joinJournal
  exact (kset_pair (.refl _ _) (by decide)).trans ((State.markStarted_keeps _ _ _).mono (by decide))

/-- Arming a slot at its fence. -/
theorem State.armSlot_keeps (s : State) (n : Nat) (src : CmdSrc) (f : Nat) : Opt.keeps [.hostMem, .fw, .mbs, .fence, .events] s (s.armSlot n src f) := by
  unfold State.armSlot
  exact opt_ite (opt_some (State.placeFence_on (kset_fw (.refl _ _) (by decide)) (by decide))) opt_none
theorem State.armSlot_on {kp : List Part} {b0 s : State} {n : Nat} {src : CmdSrc} {f : Nat} (hk : goesOn kp b0 s)
    (hq : ∀ p ∈ [.hostMem, .fw, .mbs, .fence, .events], p ∈ kp) : Opt.keeps kp b0 (s.armSlot n src f) := .after hk ((State.armSlot_keeps s n src f).mono hq)

end Sys2Proof.Machine
end

