-- ==== Sys2Proof/Laws/Keeps/Ops.lean ====
section
/-!
SUPPORT. Which parts of the state each operation of Ops.lean touches.
-/
namespace Sys2Proof.Machine

theorem State.takeFree_keeps (s : State) :
    goesOn [.free] s (State.takeFree s).2 := by
  unfold State.takeFree
  try dsimp only
  repeat' with_reducible first
    | apply goesOn.refl | apply kset_free | decide

theorem State.takeFree_on {kp : List Part} {b0 : State} {s : State} (hk : goesOn kp b0 s) (hq : ∀ p ∈ [.free], p ∈ kp) :
    goesOn kp b0 (State.takeFree s).2 := hk.trans ((State.takeFree_keeps s).mono hq)

theorem State.count_keeps (s : State) (off : Nat) (n : Nat) :
    goesOn [.stats] s (State.count s off n) := by
  unfold State.count
  try dsimp only
  repeat' with_reducible first
    | apply goesOn.refl | apply kset_stats | decide

theorem State.count_on {kp : List Part} {b0 : State} {s : State} {off : Nat} {n : Nat} (hk : goesOn kp b0 s) (hq : ∀ p ∈ [.stats], p ∈ kp) :
    goesOn kp b0 (State.count s off n) := hk.trans ((State.count_keeps s off n).mono hq)

theorem State.countEarlier_keeps (s : State) (off : Nat) (n : Nat) :
    goesOn [.stats] s (State.countEarlier s off n) := by
  unfold State.countEarlier
  try dsimp only
  repeat' with_reducible first
    | apply goesOn.refl | assumption | apply keeps_ite | apply kset_stats | decide | split

theorem State.countEarlier_on {kp : List Part} {b0 : State} {s : State} {off : Nat} {n : Nat} (hk : goesOn kp b0 s) (hq : ∀ p ∈ [.stats], p ∈ kp) :
    goesOn kp b0 (State.countEarlier s off n) := hk.trans ((State.countEarlier_keeps s off n).mono hq)

theorem State.rebaseAll_keeps (s : State) (l : List Nat) :
    goesOn [.stats] s (State.rebaseAll s l) := by
  unfold State.rebaseAll
  try dsimp only
  repeat' with_reducible first
    | apply goesOn.refl | apply kset_stats | decide

theorem State.rebaseAll_on {kp : List Part} {b0 : State} {s : State} {l : List Nat} (hk : goesOn kp b0 s) (hq : ∀ p ∈ [.stats], p ∈ kp) :
    goesOn kp b0 (State.rebaseAll s l) := hk.trans ((State.rebaseAll_keeps s l).mono hq)

theorem State.logEvent_keeps (s : State) (src : Nat) (cause : Nat) (inj : Bool) (data : List Byte) :
    goesOn [.fence, .events] s (State.logEvent s src cause inj data) := by
  unfold State.logEvent
  try dsimp only
  repeat' with_reducible first
    | apply goesOn.refl | assumption | apply keeps_ite | apply State.logOwed_on | apply State.logRecord_on | decide | split

theorem State.logEvent_on {kp : List Part} {b0 : State} {s : State} {src : Nat} {cause : Nat} {inj : Bool} {data : List Byte} (hk : goesOn kp b0 s) (hq : ∀ p ∈ [.fence, .events], p ∈ kp) :
    goesOn kp b0 (State.logEvent s src cause inj data) := hk.trans ((State.logEvent_keeps s src cause inj data).mono hq)

theorem State.logOnly_keeps (s : State) (src : Nat) (cause : Nat) (data : List Fld) :
    goesOn [.fence, .events] s (State.logOnly s src cause data) := by
  unfold State.logOnly
  try dsimp only
  repeat' with_reducible first
    | apply goesOn.refl | assumption | apply keeps_ite | apply State.logEvent_on | apply State.logReached_on | decide | split

theorem State.logOnly_on {kp : List Part} {b0 : State} {s : State} {src : Nat} {cause : Nat} {data : List Fld} (hk : goesOn kp b0 s) (hq : ∀ p ∈ [.fence, .events], p ∈ kp) :
    goesOn kp b0 (State.logOnly s src cause data) := hk.trans ((State.logOnly_keeps s src cause data).mono hq)

theorem State.badAccess_keeps (s : State) (off : Nat) :
    goesOn [.fence, .events] s (State.badAccess s off) := by
  unfold State.badAccess
  try dsimp only
  repeat' with_reducible first
    | apply goesOn.refl | apply State.raise_on | decide

theorem State.badAccess_on {kp : List Part} {b0 : State} {s : State} {off : Nat} (hk : goesOn kp b0 s) (hq : ∀ p ∈ [.fence, .events], p ∈ kp) :
    goesOn kp b0 (State.badAccess s off) := hk.trans ((State.badAccess_keeps s off).mono hq)

theorem State.sendCtl_keeps (s : State) (m : PairMsg) :
    goesOn [.pair] s (State.sendCtl s m) := by
  unfold State.sendCtl
  try dsimp only
  repeat' with_reducible first
    | apply goesOn.refl | apply kset_pair | decide

theorem State.sendCtl_on {kp : List Part} {b0 : State} {s : State} {m : PairMsg} (hk : goesOn kp b0 s) (hq : ∀ p ∈ [.pair], p ∈ kp) :
    goesOn kp b0 (State.sendCtl s m) := hk.trans ((State.sendCtl_keeps s m).mono hq)

theorem State.updLane_keeps (s : State) (l : Nat) (f : Lane → Lane) :
    goesOn [.lanes] s (State.updLane s l f) := by
  unfold State.updLane
  try dsimp only
  repeat' with_reducible first
    | apply goesOn.refl | apply kset_lanes | decide

theorem State.updLane_on {kp : List Part} {b0 : State} {s : State} {l : Nat} {f : Lane → Lane} (hk : goesOn kp b0 s) (hq : ∀ p ∈ [.lanes], p ∈ kp) :
    goesOn kp b0 (State.updLane s l f) := hk.trans ((State.updLane_keeps s l f).mono hq)

theorem State.updPort_keeps (s : State) (p : Nat) (f : Port → Port) :
    goesOn [.ports] s (State.updPort s p f) := by
  unfold State.updPort
  try dsimp only
  repeat' with_reducible first
    | apply goesOn.refl | apply kset_ports | decide

theorem State.updPort_on {kp : List Part} {b0 : State} {s : State} {p : Nat} {f : Port → Port} (hk : goesOn kp b0 s) (hq : ∀ p ∈ [.ports], p ∈ kp) :
    goesOn kp b0 (State.updPort s p f) := hk.trans ((State.updPort_keeps s p f).mono hq)

theorem State.updSelv_keeps (s : State) (p : Nat) (f : Selv → Selv) :
    goesOn [.selv] s (State.updSelv s p f) := by
  unfold State.updSelv
  try dsimp only
  repeat' with_reducible first
    | apply goesOn.refl | apply kset_selv | decide

theorem State.updSelv_on {kp : List Part} {b0 : State} {s : State} {p : Nat} {f : Selv → Selv} (hk : goesOn kp b0 s) (hq : ∀ p ∈ [.selv], p ∈ kp) :
    goesOn kp b0 (State.updSelv s p f) := hk.trans ((State.updSelv_keeps s p f).mono hq)

theorem State.updMb_keeps (s : State) (m : Nat) (f : Mailbox → Mailbox) :
    goesOn [.mbs] s (State.updMb s m f) := by
  unfold State.updMb
  try dsimp only
  repeat' with_reducible first
    | apply goesOn.refl | apply kset_mbs | decide

theorem State.updMb_on {kp : List Part} {b0 : State} {s : State} {m : Nat} {f : Mailbox → Mailbox} (hk : goesOn kp b0 s) (hq : ∀ p ∈ [.mbs], p ∈ kp) :
    goesOn kp b0 (State.updMb s m f) := hk.trans ((State.updMb_keeps s m f).mono hq)

theorem State.updTdc_keeps (s : State) (c : Nat) (f : TdcChan → TdcChan) :
    goesOn [.tdc] s (State.updTdc s c f) := by
  unfold State.updTdc
  try dsimp only
  repeat' with_reducible first
    | apply goesOn.refl | apply kset_tdc | decide

theorem State.updTdc_on {kp : List Part} {b0 : State} {s : State} {c : Nat} {f : TdcChan → TdcChan} (hk : goesOn kp b0 s) (hq : ∀ p ∈ [.tdc], p ∈ kp) :
    goesOn kp b0 (State.updTdc s c f) := hk.trans ((State.updTdc_keeps s c f).mono hq)

theorem State.updRing_keeps (s : State) (r : Nat) (f : Ring → Ring) :
    goesOn [.tdc] s (State.updRing s r f) := by
  unfold State.updRing
  try dsimp only
  repeat' with_reducible first
    | apply goesOn.refl | apply kset_tdc | decide

theorem State.updRing_on {kp : List Part} {b0 : State} {s : State} {r : Nat} {f : Ring → Ring} (hk : goesOn kp b0 s) (hq : ∀ p ∈ [.tdc], p ∈ kp) :
    goesOn kp b0 (State.updRing s r f) := hk.trans ((State.updRing_keeps s r f).mono hq)

theorem State.updGroup_keeps (s : State) (g : Nat) (f : GateGrp → GateGrp) :
    goesOn [.tdc] s (State.updGroup s g f) := by
  unfold State.updGroup
  try dsimp only
  repeat' with_reducible first
    | apply goesOn.refl | apply kset_tdc | decide

theorem State.updGroup_on {kp : List Part} {b0 : State} {s : State} {g : Nat} {f : GateGrp → GateGrp} (hk : goesOn kp b0 s) (hq : ∀ p ∈ [.tdc], p ∈ kp) :
    goesOn kp b0 (State.updGroup s g f) := hk.trans ((State.updGroup_keeps s g f).mono hq)

theorem State.updRegion_keeps (s : State) (r : Nat) (f : GRegion → GRegion) :
    goesOn [.gauge] s (State.updRegion s r f) := by
  unfold State.updRegion
  try dsimp only
  repeat' with_reducible first
    | apply goesOn.refl | apply kset_gauge | decide

theorem State.updRegion_on {kp : List Part} {b0 : State} {s : State} {r : Nat} {f : GRegion → GRegion} (hk : goesOn kp b0 s) (hq : ∀ p ∈ [.gauge], p ∈ kp) :
    goesOn kp b0 (State.updRegion s r f) := hk.trans ((State.updRegion_keeps s r f).mono hq)

theorem State.updCG_keeps (s : State) (c : Nat) (f : ChanGauge → ChanGauge) :
    goesOn [.gauge] s (State.updCG s c f) := by
  unfold State.updCG
  try dsimp only
  repeat' with_reducible first
    | apply goesOn.refl | apply kset_gauge | decide

theorem State.updCG_on {kp : List Part} {b0 : State} {s : State} {c : Nat} {f : ChanGauge → ChanGauge} (hk : goesOn kp b0 s) (hq : ∀ p ∈ [.gauge], p ∈ kp) :
    goesOn kp b0 (State.updCG s c f) := hk.trans ((State.updCG_keeps s c f).mono hq)

theorem State.updSlot_keeps (s : State) (n : Nat) (f : RefSlot → RefSlot) :
    goesOn [.ref] s (State.updSlot s n f) := by
  unfold State.updSlot
  try dsimp only
  repeat' with_reducible first
    | apply goesOn.refl | apply kset_ref | decide

theorem State.updSlot_on {kp : List Part} {b0 : State} {s : State} {n : Nat} {f : RefSlot → RefSlot} (hk : goesOn kp b0 s) (hq : ∀ p ∈ [.ref], p ∈ kp) :
    goesOn kp b0 (State.updSlot s n f) := hk.trans ((State.updSlot_keeps s n f).mono hq)

theorem State.updTsq_keeps (s : State) (q : Nat) (f : Tsq → Tsq) :
    goesOn [.time] s (State.updTsq s q f) := by
  unfold State.updTsq
  try dsimp only
  repeat' with_reducible first
    | apply goesOn.refl | apply kset_time | decide

theorem State.updTsq_on {kp : List Part} {b0 : State} {s : State} {q : Nat} {f : Tsq → Tsq} (hk : goesOn kp b0 s) (hq : ∀ p ∈ [.time], p ∈ kp) :
    goesOn kp b0 (State.updTsq s q f) := hk.trans ((State.updTsq_keeps s q f).mono hq)

theorem State.updInst_keeps (s : State) (i : Nat) (f : PtpInst → PtpInst) :
    goesOn [.ptp] s (State.updInst s i f) := by
  unfold State.updInst
  try dsimp only
  repeat' with_reducible first
    | apply goesOn.refl | apply kset_ptp | decide

theorem State.updInst_on {kp : List Part} {b0 : State} {s : State} {i : Nat} {f : PtpInst → PtpInst} (hk : goesOn kp b0 s) (hq : ∀ p ∈ [.ptp], p ∈ kp) :
    goesOn kp b0 (State.updInst s i f) := hk.trans ((State.updInst_keeps s i f).mono hq)

theorem State.updPtp_keeps (s : State) (p : Nat) (f : PtpPort → PtpPort) :
    goesOn [.ptp] s (State.updPtp s p f) := by
  unfold State.updPtp
  try dsimp only
  repeat' with_reducible first
    | apply goesOn.refl | apply kset_ptp | decide

theorem State.updPtp_on {kp : List Part} {b0 : State} {s : State} {p : Nat} {f : PtpPort → PtpPort} (hk : goesOn kp b0 s) (hq : ∀ p ∈ [.ptp], p ∈ kp) :
    goesOn kp b0 (State.updPtp s p f) := hk.trans ((State.updPtp_keeps s p f).mono hq)

theorem State.updAsym_keeps (s : State) (p : Nat) (f : Asym → Asym) :
    goesOn [.ptp] s (State.updAsym s p f) := by
  unfold State.updAsym
  try dsimp only
  repeat' with_reducible first
    | apply goesOn.refl | apply kset_ptp | decide

theorem State.updAsym_on {kp : List Part} {b0 : State} {s : State} {p : Nat} {f : Asym → Asym} (hk : goesOn kp b0 s) (hq : ∀ p ∈ [.ptp], p ∈ kp) :
    goesOn kp b0 (State.updAsym s p f) := hk.trans ((State.updAsym_keeps s p f).mono hq)

theorem State.updMc_keeps (s : State) (c : Nat) (f : McChan → McChan) :
    goesOn [.stitch] s (State.updMc s c f) := by
  unfold State.updMc
  try dsimp only
  repeat' with_reducible first
    | apply goesOn.refl | apply kset_stitch | decide

theorem State.updMc_on {kp : List Part} {b0 : State} {s : State} {c : Nat} {f : McChan → McChan} (hk : goesOn kp b0 s) (hq : ∀ p ∈ [.stitch], p ∈ kp) :
    goesOn kp b0 (State.updMc s c f) := hk.trans ((State.updMc_keeps s c f).mono hq)

theorem State.updMclk_keeps (s : State) (o : Nat) (f : MclkOut → MclkOut) :
    goesOn [.stitch] s (State.updMclk s o f) := by
  unfold State.updMclk
  try dsimp only
  repeat' with_reducible first
    | apply goesOn.refl | apply kset_stitch | decide

theorem State.updMclk_on {kp : List Part} {b0 : State} {s : State} {o : Nat} {f : MclkOut → MclkOut} (hk : goesOn kp b0 s) (hq : ∀ p ∈ [.stitch], p ∈ kp) :
    goesOn kp b0 (State.updMclk s o f) := hk.trans ((State.updMclk_keeps s o f).mono hq)

theorem State.updSt_keeps (s : State) (p : Nat) (f : StPort → StPort) :
    goesOn [.stitch] s (State.updSt s p f) := by
  unfold State.updSt
  try dsimp only
  repeat' with_reducible first
    | apply goesOn.refl | apply kset_stitch | decide

theorem State.updSt_on {kp : List Part} {b0 : State} {s : State} {p : Nat} {f : StPort → StPort} (hk : goesOn kp b0 s) (hq : ∀ p ∈ [.stitch], p ∈ kp) :
    goesOn kp b0 (State.updSt s p f) := hk.trans ((State.updSt_keeps s p f).mono hq)

theorem State.updParse_keeps (s : State) (p : Nat) (f : ParsePort → ParsePort) :
    goesOn [.parse] s (State.updParse s p f) := by
  unfold State.updParse
  try dsimp only
  repeat' with_reducible first
    | apply goesOn.refl | apply kset_parse | decide

theorem State.updParse_on {kp : List Part} {b0 : State} {s : State} {p : Nat} {f : ParsePort → ParsePort} (hk : goesOn kp b0 s) (hq : ∀ p ∈ [.parse], p ∈ kp) :
    goesOn kp b0 (State.updParse s p f) := hk.trans ((State.updParse_keeps s p f).mono hq)

theorem State.updFrame_keeps (s : State) (n : Nat) (f : Frame → Frame) :
    goesOn [.core] s (State.updFrame s n f) := by
  unfold State.updFrame
  try dsimp only
  repeat' with_reducible first
    | apply goesOn.refl | apply kset_core | decide

theorem State.updFrame_on {kp : List Part} {b0 : State} {s : State} {n : Nat} {f : Frame → Frame} (hk : goesOn kp b0 s) (hq : ∀ p ∈ [.core], p ∈ kp) :
    goesOn kp b0 (State.updFrame s n f) := hk.trans ((State.updFrame_keeps s n f).mono hq)

theorem State.updCopy_keeps (s : State) (n : Nat) (f : Copy → Copy) :
    goesOn [.core] s (State.updCopy s n f) := by
  unfold State.updCopy
  try dsimp only
  repeat' with_reducible first
    | apply goesOn.refl | apply kset_core | decide

theorem State.updCopy_on {kp : List Part} {b0 : State} {s : State} {n : Nat} {f : Copy → Copy} (hk : goesOn kp b0 s) (hq : ∀ p ∈ [.core], p ∈ kp) :
    goesOn kp b0 (State.updCopy s n f) := hk.trans ((State.updCopy_keeps s n f).mono hq)

theorem State.updQueue_keeps (s : State) (p : Nat) (c : Nat) (f : QCfg → QCfg) :
    goesOn [.core] s (State.updQueue s p c f) := by
  unfold State.updQueue
  try dsimp only
  repeat' with_reducible first
    | apply goesOn.refl | apply kset_core | decide

theorem State.updQueue_on {kp : List Part} {b0 : State} {s : State} {p : Nat} {c : Nat} {f : QCfg → QCfg} (hk : goesOn kp b0 s) (hq : ∀ p ∈ [.core], p ∈ kp) :
    goesOn kp b0 (State.updQueue s p c f) := hk.trans ((State.updQueue_keeps s p c f).mono hq)

theorem State.updCore_keeps (s : State) (n : Nat) (f : CtrlCore → CtrlCore) :
    goesOn [.fw] s (State.updCore s n f) := by
  unfold State.updCore
  try dsimp only
  repeat' with_reducible first
    | apply goesOn.refl | apply kset_fw | decide

theorem State.updCore_on {kp : List Part} {b0 : State} {s : State} {n : Nat} {f : CtrlCore → CtrlCore} (hk : goesOn kp b0 s) (hq : ∀ p ∈ [.fw], p ∈ kp) :
    goesOn kp b0 (State.updCore s n f) := hk.trans ((State.updCore_keeps s n f).mono hq)

theorem State.updChan_keeps (s : State) (n : Nat) (f : Chan → Chan) :
    goesOn [.host] s (State.updChan s n f) := by
  unfold State.updChan
  try dsimp only
  repeat' with_reducible first
    | apply goesOn.refl | apply kset_host | decide

theorem State.updChan_on {kp : List Part} {b0 : State} {s : State} {n : Nat} {f : Chan → Chan} (hk : goesOn kp b0 s) (hq : ∀ p ∈ [.host], p ∈ kp) :
    goesOn kp b0 (State.updChan s n f) := hk.trans ((State.updChan_keeps s n f).mono hq)

theorem State.updSensor_keeps (s : State) (n : Nat) (f : Sensor → Sensor) :
    goesOn [.power] s (State.updSensor s n f) := by
  unfold State.updSensor
  try dsimp only
  repeat' with_reducible first
    | apply goesOn.refl | apply kset_power | decide

theorem State.updSensor_on {kp : List Part} {b0 : State} {s : State} {n : Nat} {f : Sensor → Sensor} (hk : goesOn kp b0 s) (hq : ∀ p ∈ [.power], p ∈ kp) :
    goesOn kp b0 (State.updSensor s n f) := hk.trans ((State.updSensor_keeps s n f).mono hq)

end Sys2Proof.Machine
end

