-- ==== Sys2Proof/Laws/Keeps/Mailboxes.lean ====
section
/-!
SUPPORT. Which parts of the state each operation of Mailboxes.lean touches.
-/
namespace Sys2Proof.Machine

theorem execMailboxFetch_keeps (mb : Nat) (entry : List Byte) (ext : List Byte) (s : State) :
    Out.keeps [.hostMem, .fw, .mbs, .fence, .events] s (execMailboxFetch mb entry ext s) := by
  unfold execMailboxFetch
  try dsimp only
  repeat' with_reducible first
    | apply goesOn.refl | apply State.pokeFences_on | apply State.sweep_on | apply kset_mbs | apply out_next | apply out_fault
    | apply out_ite | decide

theorem execMailboxFetch_on {kp : List Part} {b0 : State} {mb : Nat} {entry : List Byte} {ext : List Byte} {s : State} (hk : goesOn kp b0 s) (hq : ∀ p ∈ [.hostMem, .fw, .mbs, .fence, .events], p ∈ kp) :
    Out.keeps kp b0 (execMailboxFetch mb entry ext s) := .after hk ((execMailboxFetch_keeps mb entry ext s).mono hq)

theorem execMbFault_keeps (mb : Nat) (extension : Bool) (s : State) :
    Out.keeps [.mbs, .fence, .events] s (execMbFault mb extension s) := by
  unfold execMbFault
  try dsimp only
  repeat' with_reducible first
    | apply goesOn.refl | assumption | apply keeps_ite | apply State.hwSet_on | apply State.raise_on | apply kset_mbs
    | apply out_next | apply out_fault | apply out_ite | decide | split

theorem execMbFault_on {kp : List Part} {b0 : State} {mb : Nat} {extension : Bool} {s : State} (hk : goesOn kp b0 s) (hq : ∀ p ∈ [.mbs, .fence, .events], p ∈ kp) :
    Out.keeps kp b0 (execMbFault mb extension s) := .after hk ((execMbFault_keeps mb extension s).mono hq)

theorem State.mbIndexFault_keeps (s : State) (m : Nat) :
    goesOn [.mbs, .fence, .events] s (State.mbIndexFault s m) := by
  unfold State.mbIndexFault
  try dsimp only
  repeat' with_reducible first
    | apply goesOn.refl | assumption | apply keeps_ite | apply State.hwSet_on | apply State.raise_on | apply State.updMb_on
    | decide | split

theorem State.mbIndexFault_on {kp : List Part} {b0 : State} {s : State} {m : Nat} (hk : goesOn kp b0 s) (hq : ∀ p ∈ [.mbs, .fence, .events], p ∈ kp) :
    goesOn kp b0 (State.mbIndexFault s m) := hk.trans ((State.mbIndexFault_keeps s m).mono hq)

theorem execSubmitCountWrite_keeps (mb : Nat) (value : BitVec 32) (s : State) :
    Out.keeps [.mbs, .fence, .events] s (execSubmitCountWrite mb value s) := by
  unfold execSubmitCountWrite
  try dsimp only
  repeat' with_reducible first
    | apply goesOn.refl | apply State.mbIndexFault_on | apply State.updMb_on | apply out_next | apply out_fault | apply out_ite
    | decide

theorem execSubmitCountWrite_on {kp : List Part} {b0 : State} {mb : Nat} {value : BitVec 32} {s : State} (hk : goesOn kp b0 s) (hq : ∀ p ∈ [.mbs, .fence, .events], p ∈ kp) :
    Out.keeps kp b0 (execSubmitCountWrite mb value s) := .after hk ((execSubmitCountWrite_keeps mb value s).mono hq)

theorem execRespRdCountWrite_keeps (mb : Nat) (value : BitVec 32) (s : State) :
    Out.keeps [.mbs, .fence, .events] s (execRespRdCountWrite mb value s) := by
  unfold execRespRdCountWrite
  try dsimp only
  repeat' with_reducible first
    | apply goesOn.refl | apply State.mbIndexFault_on | apply State.updMb_on | apply out_next | apply out_fault | apply out_ite
    | decide

theorem execRespRdCountWrite_on {kp : List Part} {b0 : State} {mb : Nat} {value : BitVec 32} {s : State} (hk : goesOn kp b0 s) (hq : ∀ p ∈ [.mbs, .fence, .events], p ∈ kp) :
    Out.keeps kp b0 (execRespRdCountWrite mb value s) := .after hk ((execRespRdCountWrite_keeps mb value s).mono hq)

theorem execMailboxEnableSet_keeps (mb : Nat) (s : State) :
    Out.keeps [.mbs] s (execMailboxEnableSet mb s) := by
  unfold execMailboxEnableSet
  try dsimp only
  repeat' with_reducible first
    | apply goesOn.refl | apply State.updMb_on | apply out_next | apply out_fault | apply out_ite | decide

theorem execMailboxEnableSet_on {kp : List Part} {b0 : State} {mb : Nat} {s : State} (hk : goesOn kp b0 s) (hq : ∀ p ∈ [.mbs], p ∈ kp) :
    Out.keeps kp b0 (execMailboxEnableSet mb s) := .after hk ((execMailboxEnableSet_keeps mb s).mono hq)

theorem execMailboxEnableClear_keeps (mb : Nat) (s : State) :
    Out.keeps [.mbs] s (execMailboxEnableClear mb s) := by
  unfold execMailboxEnableClear
  try dsimp only
  repeat' with_reducible first
    | apply goesOn.refl | apply State.updMb_on | apply out_next | apply out_fault | apply out_ite | decide

theorem execMailboxEnableClear_on {kp : List Part} {b0 : State} {mb : Nat} {s : State} (hk : goesOn kp b0 s) (hq : ∀ p ∈ [.mbs], p ∈ kp) :
    Out.keeps kp b0 (execMailboxEnableClear mb s) := .after hk ((execMailboxEnableClear_keeps mb s).mono hq)

theorem execMailboxDrained_keeps (mb : Nat) (s : State) :
    Out.keeps [.mbs] s (execMailboxDrained mb s) := by
  unfold execMailboxDrained
  try dsimp only
  repeat' with_reducible first
    | apply goesOn.refl | apply State.updMb_on | apply out_next | apply out_fault | apply out_ite | decide

theorem execMailboxDrained_on {kp : List Part} {b0 : State} {mb : Nat} {s : State} (hk : goesOn kp b0 s) (hq : ∀ p ∈ [.mbs], p ∈ kp) :
    Out.keeps kp b0 (execMailboxDrained mb s) := .after hk ((execMailboxDrained_keeps mb s).mono hq)

theorem execMailboxReset_keeps (mb : Nat) (s : State) :
    Out.keeps [.hostMem, .fw, .mbs, .fence, .events] s (execMailboxReset mb s) := by
  unfold execMailboxReset
  try dsimp only
  repeat' with_reducible first
    | apply goesOn.refl | apply State.pokeFences_on | apply State.sweep_on | apply State.updMb_on | apply out_next
    | apply out_fault | apply out_ite | decide

theorem execMailboxReset_on {kp : List Part} {b0 : State} {mb : Nat} {s : State} (hk : goesOn kp b0 s) (hq : ∀ p ∈ [.hostMem, .fw, .mbs, .fence, .events], p ∈ kp) :
    Out.keeps kp b0 (execMailboxReset mb s) := .after hk ((execMailboxReset_keeps mb s).mono hq)

theorem State.forgetWaiting_keeps (s : State) (src : CmdSrc) :
    goesOn [.glob, .time, .stitch, .fw, .fence] s (State.forgetWaiting s src) := by
  unfold State.forgetWaiting
  try dsimp only
  repeat' with_reducible first
    | apply goesOn.refl | apply kset_glob_time_stitch_fw_fence | decide

theorem State.forgetWaiting_on {kp : List Part} {b0 : State} {s : State} {src : CmdSrc} (hk : goesOn kp b0 s) (hq : ∀ p ∈ [.glob, .time, .stitch, .fw, .fence], p ∈ kp) :
    goesOn kp b0 (State.forgetWaiting s src) := hk.trans ((State.forgetWaiting_keeps s src).mono hq)

theorem State.sampleAbort_keeps (s : State) (m : Nat) (pos : BitVec 32) :
    goesOn [.glob, .time, .stitch, .fw, .mbs, .fence] s (State.sampleAbort s m pos) := by
  unfold State.sampleAbort
  try dsimp only
  repeat' with_reducible first
    | apply goesOn.refl | apply keeps_ite | apply State.forgetWaiting_on | apply State.updMb_on | decide | split

theorem State.sampleAbort_on {kp : List Part} {b0 : State} {s : State} {m : Nat} {pos : BitVec 32} (hk : goesOn kp b0 s) (hq : ∀ p ∈ [.glob, .time, .stitch, .fw, .mbs, .fence], p ∈ kp) :
    goesOn kp b0 (State.sampleAbort s m pos) := hk.trans ((State.sampleAbort_keeps s m pos).mono hq)

theorem execAbortAll_keeps (mb : Nat) (s : State) :
    Out.keeps [.hostMem, .glob, .time, .stitch, .fw, .mbs, .fence, .events] s (execAbortAll mb s) := by
  unfold execAbortAll
  try dsimp only
  repeat' first
    | with_reducible apply goesOn.refl | with_reducible assumption
    | (with_reducible apply keeps_foldl; rotate_left 1; intro y a hy) | with_reducible apply State.pokeFences_on
    | with_reducible apply State.sampleAbort_on | with_reducible apply State.sweep_on | with_reducible apply State.updMb_on
    | with_reducible apply out_next | with_reducible apply out_fault | with_reducible apply out_ite | with_reducible decide

theorem execAbortAll_on {kp : List Part} {b0 : State} {mb : Nat} {s : State} (hk : goesOn kp b0 s) (hq : ∀ p ∈ [.hostMem, .glob, .time, .stitch, .fw, .mbs, .fence, .events], p ∈ kp) :
    Out.keeps kp b0 (execAbortAll mb s) := .after hk ((execAbortAll_keeps mb s).mono hq)

theorem execAbortPos_keeps (mb : Nat) (pos : BitVec 32) (s : State) :
    Out.keeps [.hostMem, .glob, .time, .stitch, .fw, .mbs, .fence, .events] s (execAbortPos mb pos s) := by
  unfold execAbortPos
  try dsimp only
  repeat' with_reducible first
    | apply goesOn.refl | apply State.pokeFences_on | apply State.sampleAbort_on | apply State.sweep_on | apply State.updMb_on
    | apply out_next | apply out_fault | apply out_ite | decide

theorem execAbortPos_on {kp : List Part} {b0 : State} {mb : Nat} {pos : BitVec 32} {s : State} (hk : goesOn kp b0 s) (hq : ∀ p ∈ [.hostMem, .glob, .time, .stitch, .fw, .mbs, .fence, .events], p ∈ kp) :
    Out.keeps kp b0 (execAbortPos mb pos s) := .after hk ((execAbortPos_keeps mb pos s).mono hq)

theorem execCommandTimeout_keeps (mb : Nat) (s : State) :
    Out.keeps [.clock, .free, .cmd, .hostMem, .glob, .time, .stitch, .pair, .fw, .mbs, .fence, .events, .stats] s (execCommandTimeout mb s) := by
  unfold execCommandTimeout
  try dsimp only
  repeat' with_reducible first
    | apply goesOn.refl | apply State.advance_on | apply State.finish_on | apply State.forgetWaiting_on | apply State.raise_on
    | apply out_next | apply out_fault | apply out_ite | decide | split

theorem execCommandTimeout_on {kp : List Part} {b0 : State} {mb : Nat} {s : State} (hk : goesOn kp b0 s) (hq : ∀ p ∈ [.clock, .free, .cmd, .hostMem, .glob, .time, .stitch, .pair, .fw, .mbs, .fence, .events, .stats], p ∈ kp) :
    Out.keeps kp b0 (execCommandTimeout mb s) := .after hk ((execCommandTimeout_keeps mb s).mono hq)

theorem bodyNop_keeps (bytes : List Byte) (s : State) :
    Rep.keeps [] s (bodyNop bytes s) := by
  unfold bodyNop
  try dsimp only
  repeat' with_reducible first
    | apply goesOn.refl | apply rep_ok

theorem bodyNop_on {kp : List Part} {b0 : State} {bytes : List Byte} {s : State} (hk : goesOn kp b0 s) (hq : ∀ p ∈ [], p ∈ kp) :
    Rep.keeps kp b0 (bodyNop bytes s) := .after hk ((bodyNop_keeps bytes s).mono hq)

theorem bodyFence_keeps (src : CmdSrc) (s : State) :
    Rep.keeps [.hostMem, .mbs, .fence, .events] s (bodyFence src s) := by
  unfold bodyFence
  try dsimp only
  repeat' with_reducible first
    | apply goesOn.refl | apply State.placeFence_on | apply kset_fence | apply rep_later | apply rep_ite | decide

theorem bodyFence_on {kp : List Part} {b0 : State} {src : CmdSrc} {s : State} (hk : goesOn kp b0 s) (hq : ∀ p ∈ [.hostMem, .mbs, .fence, .events], p ∈ kp) :
    Rep.keeps kp b0 (bodyFence src s) := .after hk ((bodyFence_keeps src s).mono hq)

theorem execNop_keeps (src : CmdSrc) (bytes : List Byte) (s : State) :
    Out.keeps [.cmd, .hostMem, .glob, .pair, .fw, .mbs, .fence, .events] s (execNop src bytes s) := by
  unfold execNop
  try dsimp only
  repeat' first
    | with_reducible apply goesOn.refl | with_reducible apply out_next
    | (with_reducible apply keeps_runCmd; rotate_left 1; intro y) | with_reducible apply bodyNop_on | with_reducible decide

theorem execNop_on {kp : List Part} {b0 : State} {src : CmdSrc} {bytes : List Byte} {s : State} (hk : goesOn kp b0 s) (hq : ∀ p ∈ [.cmd, .hostMem, .glob, .pair, .fw, .mbs, .fence, .events], p ∈ kp) :
    Out.keeps kp b0 (execNop src bytes s) := .after hk ((execNop_keeps src bytes s).mono hq)

theorem execFence_keeps (src : CmdSrc) (s : State) :
    Out.keeps [.cmd, .hostMem, .glob, .pair, .fw, .mbs, .fence, .events] s (execFence src s) := by
  unfold execFence
  try dsimp only
  repeat' first
    | with_reducible apply goesOn.refl | with_reducible apply out_next
    | (with_reducible apply keeps_runCmd; rotate_left 1; intro y) | with_reducible apply bodyFence_on | with_reducible decide

theorem execFence_on {kp : List Part} {b0 : State} {src : CmdSrc} {s : State} (hk : goesOn kp b0 s) (hq : ∀ p ∈ [.cmd, .hostMem, .glob, .pair, .fw, .mbs, .fence, .events], p ∈ kp) :
    Out.keeps kp b0 (execFence src s) := .after hk ((execFence_keeps src s).mono hq)

theorem bodySysGetStatus_keeps (s : State) :
    Rep.keeps [] s (bodySysGetStatus s) := by
  unfold bodySysGetStatus
  try dsimp only
  repeat' with_reducible first
    | apply goesOn.refl | apply rep_ok

theorem bodySysGetStatus_on {kp : List Part} {b0 : State} {s : State} (hk : goesOn kp b0 s) (hq : ∀ p ∈ [], p ∈ kp) :
    Rep.keeps kp b0 (bodySysGetStatus s) := .after hk ((bodySysGetStatus_keeps s).mono hq)

theorem bodySysSetBoard_keeps (src : CmdSrc) (param : Nat) (period : Nat) (region : Nat) (base : Nat) (length : Nat) (mask : Nat) (s : State) :
    Rep.keeps [.pair, .fw] s (bodySysSetBoard src param period region base length mask s) := by
  unfold bodySysSetBoard
  try dsimp only
  repeat' with_reducible first
    | apply goesOn.refl | apply kset_fw | apply kset_pair | apply rep_ok | apply rep_fail | apply rep_ranges | apply rep_ite
    | decide | split

theorem bodySysSetBoard_on {kp : List Part} {b0 : State} {src : CmdSrc} {param : Nat} {period : Nat} {region : Nat} {base : Nat} {length : Nat} {mask : Nat} {s : State} (hk : goesOn kp b0 s) (hq : ∀ p ∈ [.pair, .fw], p ∈ kp) :
    Rep.keeps kp b0 (bodySysSetBoard src param period region base length mask s) := .after hk ((bodySysSetBoard_keeps src param period region base length mask s).mono hq)

theorem execSysGetStatus_keeps (src : CmdSrc) (s : State) :
    Out.keeps [.cmd, .hostMem, .glob, .pair, .fw, .mbs, .fence, .events] s (execSysGetStatus src s) := by
  unfold execSysGetStatus
  try dsimp only
  repeat' first
    | with_reducible apply goesOn.refl | with_reducible apply out_next
    | (with_reducible apply keeps_runCmd; rotate_left 1; intro y) | with_reducible apply bodySysGetStatus_on
    | with_reducible decide

theorem execSysGetStatus_on {kp : List Part} {b0 : State} {src : CmdSrc} {s : State} (hk : goesOn kp b0 s) (hq : ∀ p ∈ [.cmd, .hostMem, .glob, .pair, .fw, .mbs, .fence, .events], p ∈ kp) :
    Out.keeps kp b0 (execSysGetStatus src s) := .after hk ((execSysGetStatus_keeps src s).mono hq)

theorem execSysSetBoard_keeps (src : CmdSrc) (param : Nat) (period : Nat) (region : Nat) (base : Nat) (length : Nat) (mask : Nat) (s : State) :
    Out.keeps [.cmd, .hostMem, .glob, .pair, .fw, .mbs, .fence, .events] s (execSysSetBoard src param period region base length mask s) := by
  unfold execSysSetBoard
  try dsimp only
  repeat' first
    | with_reducible apply goesOn.refl | with_reducible apply out_next
    | (with_reducible apply keeps_runCmd; rotate_left 1; intro y) | with_reducible apply bodySysSetBoard_on
    | with_reducible decide

theorem execSysSetBoard_on {kp : List Part} {b0 : State} {src : CmdSrc} {param : Nat} {period : Nat} {region : Nat} {base : Nat} {length : Nat} {mask : Nat} {s : State} (hk : goesOn kp b0 s) (hq : ∀ p ∈ [.cmd, .hostMem, .glob, .pair, .fw, .mbs, .fence, .events], p ∈ kp) :
    Out.keeps kp b0 (execSysSetBoard src param period region base length mask s) := .after hk ((execSysSetBoard_keeps src param period region base length mask s).mono hq)

end Sys2Proof.Machine
end

