-- ==== Sys2Proof/Laws/Keeps/Tdc.lean ====
section
/-!
SUPPORT. Which parts of the state each operation of Tdc.lean touches.
-/
namespace Sys2Proof.Machine

theorem State.ringMiss_keeps (s : State) (r : Nat) (n : Nat) :
    goesOn [.tdc, .events] s (State.ringMiss s r n) := by
  unfold State.ringMiss
  try dsimp only
  repeat' with_reducible first
    | apply goesOn.refl | assumption | apply keeps_ite | apply State.hwCount_on | apply State.hwSet_on | apply State.updRing_on
    | decide | split

theorem State.ringMiss_on {kp : List Part} {b0 : State} {s : State} {r : Nat} {n : Nat} (hk : goesOn kp b0 s) (hq : ∀ p ∈ [.tdc, .events], p ∈ kp) :
    goesOn kp b0 (State.ringMiss s r n) := hk.trans ((State.ringMiss_keeps s r n).mono hq)

theorem State.ringStore_keeps (s : State) (r : Nat) (v : TdcRec) :
    goesOn [.tdc, .fence, .events] s (State.ringStore s r v) := by
  unfold State.ringStore
  try dsimp only
  repeat' with_reducible first
    | apply goesOn.refl | assumption | apply keeps_ite | apply State.hwSet_on | apply State.raise_on | apply State.updRing_on
    | decide | split

theorem State.ringStore_on {kp : List Part} {b0 : State} {s : State} {r : Nat} {v : TdcRec} (hk : goesOn kp b0 s) (hq : ∀ p ∈ [.tdc, .fence, .events], p ∈ kp) :
    goesOn kp b0 (State.ringStore s r v) := hk.trans ((State.ringStore_keeps s r v).mono hq)

theorem State.ringDrain_keeps (kk : Nat) (s : State) (r : Nat) :
    goesOn [.tdc, .fence, .events] s (State.ringDrain s r kk) := by
  induction kk generalizing s r with
  | zero => exact .refl _ _
  | succ kk ih =>
    have ihon : ∀ {b0 : State} (s : State) (r : Nat), goesOn [.tdc, .fence, .events] b0 s → goesOn [.tdc, .fence, .events] b0 (State.ringDrain s r kk) := fun s r h => h.trans (ih _ _ )
    unfold State.ringDrain
    try dsimp only
    repeat' with_reducible first
      | apply ihon | apply goesOn.refl | apply keeps_ite | apply State.ringStore_on | apply State.updRing_on | decide | split

theorem State.ringDrain_on {kp : List Part} {b0 : State} {s : State} {r : Nat} {kk : Nat} (hk : goesOn kp b0 s) (hq : ∀ p ∈ [.tdc, .fence, .events], p ∈ kp) :
    goesOn kp b0 (State.ringDrain s r kk) := hk.trans ((State.ringDrain_keeps kk s r).mono hq)

theorem State.ringPut_keeps (s : State) (r : Nat) (vs : List TdcRec) (tick : Nat) :
    goesOn [.tdc, .fence, .events] s (State.ringPut s r vs tick) := by
  unfold State.ringPut
  try dsimp only
  repeat' first
    | with_reducible apply goesOn.refl | with_reducible assumption | with_reducible apply keeps_ite
    | (with_reducible apply keeps_foldl; rotate_left 1; intro y a hy) | with_reducible apply State.ringDrain_on
    | with_reducible apply State.ringMiss_on | with_reducible apply State.ringStore_on | with_reducible apply State.updRing_on
    | with_reducible decide | split

theorem State.ringPut_on {kp : List Part} {b0 : State} {s : State} {r : Nat} {vs : List TdcRec} {tick : Nat} (hk : goesOn kp b0 s) (hq : ∀ p ∈ [.tdc, .fence, .events], p ∈ kp) :
    goesOn kp b0 (State.ringPut s r vs tick) := hk.trans ((State.ringPut_keeps s r vs tick).mono hq)

theorem State.ringPlaceMark_keeps (s : State) (r : Nat) (m : FenceMark) :
    goesOn [.tdc, .fence, .events] s (State.ringPlaceMark s r m) := by
  unfold State.ringPlaceMark
  try dsimp only
  repeat' with_reducible first
    | apply goesOn.refl | apply State.ringDrain_on | apply State.updRing_on | apply kset_fence | decide

theorem State.ringPlaceMark_on {kp : List Part} {b0 : State} {s : State} {r : Nat} {m : FenceMark} (hk : goesOn kp b0 s) (hq : ∀ p ∈ [.tdc, .fence, .events], p ∈ kp) :
    goesOn kp b0 (State.ringPlaceMark s r m) := hk.trans ((State.ringPlaceMark_keeps s r m).mono hq)

theorem State.ringEmit_keeps (s : State) (r : Nat) (vs : List TdcRec) (tick : Nat) :
    goesOn [.tdc, .fence, .events] s (State.ringEmit s r vs tick) := by
  unfold State.ringEmit
  try dsimp only
  repeat' with_reducible first
    | apply goesOn.refl | apply keeps_ite | apply State.ringPut_on | apply State.updRing_on | decide

theorem State.ringEmit_on {kp : List Part} {b0 : State} {s : State} {r : Nat} {vs : List TdcRec} {tick : Nat} (hk : goesOn kp b0 s) (hq : ∀ p ∈ [.tdc, .fence, .events], p ∈ kp) :
    goesOn kp b0 (State.ringEmit s r vs tick) := hk.trans ((State.ringEmit_keeps s r vs tick).mono hq)

theorem State.chanCount_keeps (s : State) (c : Nat) (i : Nat) :
    goesOn [.events] s (State.chanCount s c i) := by
  unfold State.chanCount
  try dsimp only
  repeat' with_reducible first
    | apply goesOn.refl | assumption | apply keeps_ite | apply State.hwCount_on | decide | split

theorem State.chanCount_on {kp : List Part} {b0 : State} {s : State} {c : Nat} {i : Nat} (hk : goesOn kp b0 s) (hq : ∀ p ∈ [.events], p ∈ kp) :
    goesOn kp b0 (State.chanCount s c i) := hk.trans ((State.chanCount_keeps s c i).mono hq)

theorem State.chanClear_keeps (s : State) (c : Nat) :
    goesOn [.tdc, .events] s (State.chanClear s c).2 := by
  unfold State.chanClear
  try dsimp only
  repeat' first
    | with_reducible apply goesOn.refl | with_reducible assumption | with_reducible apply keeps_ite
    | (with_reducible apply keeps_foldl; rotate_left 1; intro y a hy) | with_reducible apply State.updTdc_on
    | with_reducible apply kset_events | with_reducible decide | split

theorem State.chanClear_on {kp : List Part} {b0 : State} {s : State} {c : Nat} (hk : goesOn kp b0 s) (hq : ∀ p ∈ [.tdc, .events], p ∈ kp) :
    goesOn kp b0 (State.chanClear s c).2 := hk.trans ((State.chanClear_keeps s c).mono hq)

theorem State.loseStamp_keeps (s : State) (c : Nat) (t : Nat) (toRing : Bool) :
    goesOn [.tdc, .events] s (State.loseStamp s c t toRing) := by
  unfold State.loseStamp
  try dsimp only
  repeat' with_reducible first
    | apply goesOn.refl | assumption | apply keeps_ite | apply State.chanCount_on | apply State.updTdc_on | decide | split

theorem State.loseStamp_on {kp : List Part} {b0 : State} {s : State} {c : Nat} {t : Nat} {toRing : Bool} (hk : goesOn kp b0 s) (hq : ∀ p ∈ [.tdc, .events], p ∈ kp) :
    goesOn kp b0 (State.loseStamp s c t toRing) := hk.trans ((State.loseStamp_keeps s c t toRing).mono hq)

theorem State.toFifo_keeps (s : State) (c : Nat) (v : Stamp) :
    goesOn [.tdc, .events] s (State.toFifo s c v) := by
  unfold State.toFifo
  try dsimp only
  repeat' with_reducible first
    | apply goesOn.refl | assumption | apply keeps_ite | apply State.chanCount_on | apply State.updTdc_on | decide | split

theorem State.toFifo_on {kp : List Part} {b0 : State} {s : State} {c : Nat} {v : Stamp} (hk : goesOn kp b0 s) (hq : ∀ p ∈ [.tdc, .events], p ∈ kp) :
    goesOn kp b0 (State.toFifo s c v) := hk.trans ((State.toFifo_keeps s c v).mono hq)

theorem State.writeHit_keeps (s : State) (r : Nat) (c : Nat) :
    goesOn [.tdc, .fence, .events] s (State.writeHit s r c) := by
  unfold State.writeHit
  try dsimp only
  repeat' with_reducible first
    | apply goesOn.refl | apply keeps_ite | apply State.raise_on | apply State.ringPut_on | apply State.updTdc_on | decide | split

theorem State.writeHit_on {kp : List Part} {b0 : State} {s : State} {r : Nat} {c : Nat} (hk : goesOn kp b0 s) (hq : ∀ p ∈ [.tdc, .fence, .events], p ∈ kp) :
    goesOn kp b0 (State.writeHit s r c) := hk.trans ((State.writeHit_keeps s r c).mono hq)

theorem State.writeNext_keeps (s : State) (r : Nat) (n : Nat × Option Nat) :
    goesOn [.tdc, .fence, .events] s (State.writeNext s r n) := by
  unfold State.writeNext
  try dsimp only
  repeat' with_reducible first
    | apply goesOn.refl | apply State.ringPut_on | apply State.updRing_on | apply State.writeHit_on | decide | split

theorem State.writeNext_on {kp : List Part} {b0 : State} {s : State} {r : Nat} {n : Nat × Option Nat} (hk : goesOn kp b0 s) (hq : ∀ p ∈ [.tdc, .fence, .events], p ∈ kp) :
    goesOn kp b0 (State.writeNext s r n) := hk.trans ((State.writeNext_keeps s r n).mono hq)

theorem State.ringMarksTo_keeps (kk : Nat) (s : State) (r : Nat) (p : Nat) :
    goesOn [.tdc, .fence, .events] s (State.ringMarksTo s r p kk).1 := by
  induction kk generalizing s r p with
  | zero => exact .refl _ _
  | succ kk ih =>
    have ihon : ∀ {b0 : State} (s : State) (r : Nat) (p : Nat), goesOn [.tdc, .fence, .events] b0 s → goesOn [.tdc, .fence, .events] b0 (State.ringMarksTo s r p kk).1 := fun s r p h => h.trans (ih _ _ _ )
    unfold State.ringMarksTo
    try dsimp only
    repeat' with_reducible first
      | apply ihon | apply goesOn.refl | assumption | apply keeps_ite | apply State.ringPlaceMark_on | decide | split

theorem State.ringMarksTo_on {kp : List Part} {b0 : State} {s : State} {r : Nat} {p : Nat} {kk : Nat} (hk : goesOn kp b0 s) (hq : ∀ p ∈ [.tdc, .fence, .events], p ∈ kp) :
    goesOn kp b0 (State.ringMarksTo s r p kk).1 := hk.trans ((State.ringMarksTo_keeps kk s r p).mono hq)

theorem execRingWrite_keeps (ring : Nat) (s : State) :
    Out.keeps [.tdc, .fence, .events] s (execRingWrite ring s) := by
  unfold execRingWrite
  try dsimp only
  repeat' with_reducible first
    | apply goesOn.refl | assumption | apply keeps_ite | apply State.ringMarksTo_on | apply State.writeNext_on | apply out_next
    | apply out_fault | apply out_ite | decide | split

theorem execRingWrite_on {kp : List Part} {b0 : State} {ring : Nat} {s : State} (hk : goesOn kp b0 s) (hq : ∀ p ∈ [.tdc, .fence, .events], p ∈ kp) :
    Out.keeps kp b0 (execRingWrite ring s) := .after hk ((execRingWrite_keeps ring s).mono hq)

theorem State.ringMarkerDue_keeps (s : State) (r : Nat) :
    goesOn [.tdc, .fence, .events] s (State.ringMarkerDue s r) := by
  unfold State.ringMarkerDue
  try dsimp only
  repeat' with_reducible first
    | apply goesOn.refl | apply keeps_ite | apply State.ringPlaceMark_on | decide | split

theorem State.ringMarkerDue_on {kp : List Part} {b0 : State} {s : State} {r : Nat} (hk : goesOn kp b0 s) (hq : ∀ p ∈ [.tdc, .fence, .events], p ∈ kp) :
    goesOn kp b0 (State.ringMarkerDue s r) := hk.trans ((State.ringMarkerDue_keeps s r).mono hq)

theorem execRingTimeout_keeps (ring : Nat) (s : State) :
    Out.keeps [.clock, .free, .cmd, .hostMem, .tdc, .pair, .fw, .mbs, .fence, .events, .stats] s (execRingTimeout ring s) := by
  unfold execRingTimeout
  try dsimp only
  repeat' with_reducible first
    | apply goesOn.refl | apply State.advance_on | apply State.raise_on | apply State.updRing_on | apply out_next
    | apply out_fault | apply out_ite | decide

theorem execRingTimeout_on {kp : List Part} {b0 : State} {ring : Nat} {s : State} (hk : goesOn kp b0 s) (hq : ∀ p ∈ [.clock, .free, .cmd, .hostMem, .tdc, .pair, .fw, .mbs, .fence, .events, .stats], p ∈ kp) :
    Out.keeps kp b0 (execRingTimeout ring s) := .after hk ((execRingTimeout_keeps ring s).mono hq)

theorem State.ringAdvance_keeps (s : State) (r : Nat) (value : BitVec 32) :
    goesOn [.tdc, .fence, .events] s (State.ringAdvance s r value) := by
  unfold State.ringAdvance
  try dsimp only
  repeat' with_reducible first
    | apply goesOn.refl | apply State.ringDrain_on | apply State.updRing_on | decide

theorem State.ringAdvance_on {kp : List Part} {b0 : State} {s : State} {r : Nat} {value : BitVec 32} (hk : goesOn kp b0 s) (hq : ∀ p ∈ [.tdc, .fence, .events], p ∈ kp) :
    goesOn kp b0 (State.ringAdvance s r value) := hk.trans ((State.ringAdvance_keeps s r value).mono hq)

theorem execRingRdCountWrite_keeps (ring : Nat) (value : BitVec 32) (s : State) :
    Out.keeps [.tdc, .fence, .events] s (execRingRdCountWrite ring value s) := by
  unfold execRingRdCountWrite
  try dsimp only
  repeat' with_reducible first
    | apply goesOn.refl | apply State.badAccess_on | apply State.raise_on | apply State.ringAdvance_on | apply out_next
    | apply out_fault | apply out_ite | decide

theorem execRingRdCountWrite_on {kp : List Part} {b0 : State} {ring : Nat} {value : BitVec 32} {s : State} (hk : goesOn kp b0 s) (hq : ∀ p ∈ [.tdc, .fence, .events], p ∈ kp) :
    Out.keeps kp b0 (execRingRdCountWrite ring value s) := .after hk ((execRingRdCountWrite_keeps ring value s).mono hq)

theorem State.writeResult_keeps (s : State) (c : Nat) (tick : Nat) (trunc : Bool) :
    goesOn [.tdc, .fence, .events] s (State.writeResult s c tick trunc) := by
  unfold State.writeResult
  try dsimp only
  repeat' with_reducible first
    | apply goesOn.refl | apply State.ringEmit_on | apply State.updTdc_on | decide | split

theorem State.writeResult_on {kp : List Part} {b0 : State} {s : State} {c : Nat} {tick : Nat} {trunc : Bool} (hk : goesOn kp b0 s) (hq : ∀ p ∈ [.tdc, .fence, .events], p ∈ kp) :
    goesOn kp b0 (State.writeResult s c tick trunc) := hk.trans ((State.writeResult_keeps s c tick trunc).mono hq)

theorem State.decideStart_keeps (s : State) (k : Nat) (miss : Bool) :
    goesOn [.tdc, .fence, .events] s (State.decideStart s k miss) := by
  unfold State.decideStart
  try dsimp only
  repeat' with_reducible first
    | apply goesOn.refl | apply State.ringEmit_on | decide | split | apply kset_tdc

theorem State.decideStart_on {kp : List Part} {b0 : State} {s : State} {k : Nat} {miss : Bool} (hk : goesOn kp b0 s) (hq : ∀ p ∈ [.tdc, .fence, .events], p ∈ kp) :
    goesOn kp b0 (State.decideStart s k miss) := hk.trans ((State.decideStart_keeps s k miss).mono hq)

theorem State.decideAll_keeps (kk : Nat) (s : State) (k : Nat) (miss : Bool) :
    goesOn [.tdc, .fence, .events] s (State.decideAll s k miss kk) := by
  induction kk generalizing s k miss with
  | zero => exact .refl _ _
  | succ kk ih =>
    have ihon : ∀ {b0 : State} (s : State) (k : Nat) (miss : Bool), goesOn [.tdc, .fence, .events] b0 s → goesOn [.tdc, .fence, .events] b0 (State.decideAll s k miss kk) := fun s k miss h => h.trans (ih _ _ _ )
    unfold State.decideAll
    try dsimp only
    repeat' with_reducible first
      | apply ihon | apply goesOn.refl | apply State.decideStart_on | decide

theorem State.decideAll_on {kp : List Part} {b0 : State} {s : State} {k : Nat} {miss : Bool} {kk : Nat} (hk : goesOn kp b0 s) (hq : ∀ p ∈ [.tdc, .fence, .events], p ∈ kp) :
    goesOn kp b0 (State.decideAll s k miss kk) := hk.trans ((State.decideAll_keeps kk s k miss).mono hq)

theorem State.feedIntervals_keeps (s : State) (c : Nat) (v : Stamp) :
    goesOn [.tdc] s (State.feedIntervals s c v) := by
  unfold State.feedIntervals
  try dsimp only
  repeat' with_reducible first
    | apply goesOn.refl | apply kset_tdc | decide

theorem State.feedIntervals_on {kp : List Part} {b0 : State} {s : State} {c : Nat} {v : Stamp} (hk : goesOn kp b0 s) (hq : ∀ p ∈ [.tdc], p ∈ kp) :
    goesOn kp b0 (State.feedIntervals s c v) := hk.trans ((State.feedIntervals_keeps s c v).mono hq)

theorem execIntervalResult_keeps (engine : Nat) (s : State) :
    Out.keeps [.clock, .free, .cmd, .hostMem, .tdc, .pair, .fw, .mbs, .fence, .events, .stats] s (execIntervalResult engine s) := by
  unfold execIntervalResult
  try dsimp only
  repeat' with_reducible first
    | apply goesOn.refl | apply State.advanceTick_on | apply State.decideStart_on | apply out_next | apply out_fault
    | apply out_ite | decide | split

theorem execIntervalResult_on {kp : List Part} {b0 : State} {engine : Nat} {s : State} (hk : goesOn kp b0 s) (hq : ∀ p ∈ [.clock, .free, .cmd, .hostMem, .tdc, .pair, .fw, .mbs, .fence, .events, .stats], p ∈ kp) :
    Out.keeps kp b0 (execIntervalResult engine s) := .after hk ((execIntervalResult_keeps engine s).mono hq)

theorem State.gateRecord_keeps (s : State) (g : Nat) (v : TdcRec) (tick : Nat) :
    goesOn [.tdc, .fence, .events] s (State.gateRecord s g v tick) := by
  unfold State.gateRecord
  try dsimp only
  repeat' first
    | with_reducible apply goesOn.refl | with_reducible assumption
    | (with_reducible apply keeps_foldl; rotate_left 1; intro y a hy) | with_reducible apply State.ringEmit_on
    | with_reducible decide

theorem State.gateRecord_on {kp : List Part} {b0 : State} {s : State} {g : Nat} {v : TdcRec} {tick : Nat} (hk : goesOn kp b0 s) (hq : ∀ p ∈ [.tdc, .fence, .events], p ∈ kp) :
    goesOn kp b0 (State.gateRecord s g v tick) := hk.trans ((State.gateRecord_keeps s g v tick).mono hq)

theorem State.gateOpen_keeps (s : State) (g : Nat) (tick : Nat) :
    goesOn [.tdc, .fence, .events] s (State.gateOpen s g tick) := by
  unfold State.gateOpen
  try dsimp only
  repeat' first
    | with_reducible apply goesOn.refl | with_reducible assumption
    | (with_reducible apply keeps_foldl; rotate_left 1; intro y a hy) | with_reducible apply State.gateRecord_on
    | with_reducible apply State.updGroup_on | with_reducible apply State.updTdc_on | with_reducible decide

theorem State.gateOpen_on {kp : List Part} {b0 : State} {s : State} {g : Nat} {tick : Nat} (hk : goesOn kp b0 s) (hq : ∀ p ∈ [.tdc, .fence, .events], p ∈ kp) :
    goesOn kp b0 (State.gateOpen s g tick) := hk.trans ((State.gateOpen_keeps s g tick).mono hq)

theorem State.retract_keeps (s : State) (c : Nat) (tick : Nat) :
    goesOn [.tdc] s (State.retract s c tick) := by
  unfold State.retract
  try dsimp only
  repeat' with_reducible first
    | apply goesOn.refl | assumption | apply keeps_ite | apply State.updTdc_on | apply kset_tdc | decide | split

theorem State.retract_on {kp : List Part} {b0 : State} {s : State} {c : Nat} {tick : Nat} (hk : goesOn kp b0 s) (hq : ∀ p ∈ [.tdc], p ∈ kp) :
    goesOn kp b0 (State.retract s c tick) := hk.trans ((State.retract_keeps s c tick).mono hq)

theorem State.gateClose_keeps (s : State) (g : Nat) (tick : Nat) (cause : Nat) (trunc : Bool) :
    goesOn [.tdc, .fence, .events] s (State.gateClose s g tick cause trunc) := by
  unfold State.gateClose
  try dsimp only
  repeat' first
    | with_reducible apply goesOn.refl | with_reducible assumption | with_reducible apply keeps_ite
    | (with_reducible apply keeps_foldl; rotate_left 1; intro y a hy) | with_reducible apply State.gateRecord_on
    | with_reducible apply State.raise_on | with_reducible apply State.retract_on | with_reducible apply State.updGroup_on
    | with_reducible apply State.writeResult_on | with_reducible decide | split

theorem State.gateClose_on {kp : List Part} {b0 : State} {s : State} {g : Nat} {tick : Nat} {cause : Nat} {trunc : Bool} (hk : goesOn kp b0 s) (hq : ∀ p ∈ [.tdc, .fence, .events], p ∈ kp) :
    goesOn kp b0 (State.gateClose s g tick cause trunc) := hk.trans ((State.gateClose_keeps s g tick cause trunc).mono hq)

theorem State.countIgnored_keeps (s : State) (g : Nat) :
    goesOn [.tdc, .events] s (State.countIgnored s g) := by
  unfold State.countIgnored
  try dsimp only
  repeat' first
    | with_reducible apply goesOn.refl | with_reducible assumption | with_reducible apply keeps_ite
    | (with_reducible apply keeps_foldl; rotate_left 1; intro y a hy) | with_reducible apply State.chanCount_on
    | with_reducible apply State.updTdc_on | with_reducible decide | split

theorem State.countIgnored_on {kp : List Part} {b0 : State} {s : State} {g : Nat} (hk : goesOn kp b0 s) (hq : ∀ p ∈ [.tdc, .events], p ∈ kp) :
    goesOn kp b0 (State.countIgnored s g) := hk.trans ((State.countIgnored_keeps s g).mono hq)

theorem State.liveEdge_keeps (s : State) (c : Nat) (code : Nat) :
    goesOn [.gauge] s (State.liveEdge s c code) := by
  unfold State.liveEdge
  try dsimp only
  repeat' with_reducible first
    | apply goesOn.refl | apply keeps_ite | apply State.updCG_on | decide | split

theorem State.liveEdge_on {kp : List Part} {b0 : State} {s : State} {c : Nat} {code : Nat} (hk : goesOn kp b0 s) (hq : ∀ p ∈ [.gauge], p ∈ kp) :
    goesOn kp b0 (State.liveEdge s c code) := hk.trans ((State.liveEdge_keeps s c code).mono hq)

theorem State.takeStamp_keeps (s : State) (c : Nat) (v : Stamp) :
    goesOn [.tdc, .gauge, .events] s (State.takeStamp s c v) := by
  unfold State.takeStamp
  try dsimp only
  repeat' with_reducible first
    | apply goesOn.refl | assumption | apply keeps_ite | apply State.chanCount_on | apply State.feedIntervals_on
    | apply State.updCG_on | apply State.updTdc_on | decide | split

theorem State.takeStamp_on {kp : List Part} {b0 : State} {s : State} {c : Nat} {v : Stamp} (hk : goesOn kp b0 s) (hq : ∀ p ∈ [.tdc, .gauge, .events], p ∈ kp) :
    goesOn kp b0 (State.takeStamp s c v) := hk.trans ((State.takeStamp_keeps s c v).mono hq)

theorem State.gatedEdge_keeps (s : State) (c : Nat) (v : Stamp) :
    goesOn [.tdc, .gauge, .fence, .events] s (State.gatedEdge s c v).1 := by
  unfold State.gatedEdge
  try dsimp only
  repeat' with_reducible first
    | apply goesOn.refl | assumption | apply keeps_ite | apply State.gateClose_on | apply State.gateOpen_on
    | apply State.takeStamp_on | apply State.toFifo_on | apply State.updTdc_on | decide | split

theorem State.gatedEdge_on {kp : List Part} {b0 : State} {s : State} {c : Nat} {v : Stamp} (hk : goesOn kp b0 s) (hq : ∀ p ∈ [.tdc, .gauge, .fence, .events], p ∈ kp) :
    goesOn kp b0 (State.gatedEdge s c v).1 := hk.trans ((State.gatedEdge_keeps s c v).mono hq)

theorem State.stitchSend_keeps (s : State) (q : QStitch) :
    goesOn [.stitch] s (State.stitchSend s q) := by
  unfold State.stitchSend
  try dsimp only
  repeat' with_reducible first
    | apply goesOn.refl | apply kset_stitch | decide

theorem State.stitchSend_on {kp : List Part} {b0 : State} {s : State} {q : QStitch} (hk : goesOn kp b0 s) (hq : ∀ p ∈ [.stitch], p ∈ kp) :
    goesOn kp b0 (State.stitchSend s q) := hk.trans ((State.stitchSend_keeps s q).mono hq)

theorem State.triggers_keeps (s : State) (ch : Nat) (v : Stamp) :
    goesOn [.stitch] s (State.triggers s ch v) := by
  unfold State.triggers
  try dsimp only
  repeat' first
    | with_reducible apply goesOn.refl | with_reducible assumption | with_reducible apply keeps_ite
    | (with_reducible apply keeps_foldl; rotate_left 1; intro y a hy) | with_reducible apply State.stitchSend_on
    | with_reducible apply kset_stitch | with_reducible decide

theorem State.triggers_on {kp : List Part} {b0 : State} {s : State} {ch : Nat} {v : Stamp} (hk : goesOn kp b0 s) (hq : ∀ p ∈ [.stitch], p ∈ kp) :
    goesOn kp b0 (State.triggers s ch v) := hk.trans ((State.triggers_keeps s ch v).mono hq)

theorem State.feedClocks_keeps (s : State) (ch : Nat) (v : Stamp) :
    goesOn [.stitch] s (State.feedClocks s ch v) := by
  unfold State.feedClocks
  try dsimp only
  repeat' with_reducible first
    | apply goesOn.refl | apply kset_stitch | decide

theorem State.feedClocks_on {kp : List Part} {b0 : State} {s : State} {ch : Nat} {v : Stamp} (hk : goesOn kp b0 s) (hq : ∀ p ∈ [.stitch], p ∈ kp) :
    goesOn kp b0 (State.feedClocks s ch v) := hk.trans ((State.feedClocks_keeps s ch v).mono hq)

theorem State.stampOut_keeps (s : State) (c : Nat) (v : Stamp) :
    goesOn [.stitch] s (State.stampOut s c v) := by
  unfold State.stampOut
  try dsimp only
  repeat' with_reducible first
    | apply goesOn.refl | assumption | apply keeps_ite | apply State.feedClocks_on | apply State.triggers_on | decide | split

theorem State.stampOut_on {kp : List Part} {b0 : State} {s : State} {c : Nat} {v : Stamp} (hk : goesOn kp b0 s) (hq : ∀ p ∈ [.stitch], p ∈ kp) :
    goesOn kp b0 (State.stampOut s c v) := hk.trans ((State.stampOut_keeps s c v).mono hq)

theorem State.takeEarly_keeps (s : State) (c : Nat) :
    goesOn [.tdc, .gauge, .stitch, .fence, .events] s (State.takeEarly s c) := by
  unfold State.takeEarly
  try dsimp only
  repeat' first
    | with_reducible apply goesOn.refl | with_reducible assumption | with_reducible apply keeps_ite
    | (with_reducible apply keeps_foldl; rotate_left 1; intro y a hy) | with_reducible apply State.gatedEdge_on
    | with_reducible apply State.stampOut_on | with_reducible apply State.updTdc_on | with_reducible decide | split

theorem State.takeEarly_on {kp : List Part} {b0 : State} {s : State} {c : Nat} (hk : goesOn kp b0 s) (hq : ∀ p ∈ [.tdc, .gauge, .stitch, .fence, .events], p ∈ kp) :
    goesOn kp b0 (State.takeEarly s c) := hk.trans ((State.takeEarly_keeps s c).mono hq)

theorem State.gateStart_keeps (s : State) (g : Nat) (tick : Nat) :
    goesOn [.tdc, .gauge, .stitch, .fence, .events] s (State.gateStart s g tick) := by
  unfold State.gateStart
  try dsimp only
  repeat' first
    | with_reducible apply goesOn.refl | with_reducible assumption | with_reducible apply keeps_ite
    | (with_reducible apply keeps_foldl; rotate_left 1; intro y a hy) | with_reducible apply State.gateOpen_on
    | with_reducible apply State.takeEarly_on | with_reducible decide | split

theorem State.gateStart_on {kp : List Part} {b0 : State} {s : State} {g : Nat} {tick : Nat} (hk : goesOn kp b0 s) (hq : ∀ p ∈ [.tdc, .gauge, .stitch, .fence, .events], p ∈ kp) :
    goesOn kp b0 (State.gateStart s g tick) := hk.trans ((State.gateStart_keeps s g tick).mono hq)

theorem State.eventEdge_keeps (s : State) (c : Nat) (tick : Nat) (phase : Nat) (fine : Nat) (falling : Bool) :
    goesOn [.tdc, .gauge, .fence, .events] s (State.eventEdge s c tick phase fine falling).1 := by
  unfold State.eventEdge
  try dsimp only
  repeat' with_reducible first
    | apply goesOn.refl | assumption | apply keeps_ite | apply keeps_ite1 | apply keeps_ite2 | apply State.chanCount_on
    | apply State.gatedEdge_on | apply State.liveEdge_on | apply State.loseStamp_on | apply State.updTdc_on
    | (apply keeps_fst; case e => assumption) | (apply keeps_snd; case e => assumption) | decide | split

theorem State.eventEdge_on {kp : List Part} {b0 : State} {s : State} {c : Nat} {tick : Nat} {phase : Nat} {fine : Nat} {falling : Bool} (hk : goesOn kp b0 s) (hq : ∀ p ∈ [.tdc, .gauge, .fence, .events], p ∈ kp) :
    goesOn kp b0 (State.eventEdge s c tick phase fine falling).1 := hk.trans ((State.eventEdge_keeps s c tick phase fine falling).mono hq)

theorem State.plainEdge_keeps (s : State) (c : Nat) (tick : Nat) (phase : Nat) (fine : Nat) (falling : Bool) :
    goesOn [.tdc, .gauge, .events] s (State.plainEdge s c tick phase fine falling).1 := by
  unfold State.plainEdge
  try dsimp only
  repeat' with_reducible first
    | apply goesOn.refl | assumption | apply keeps_ite | apply State.loseStamp_on | apply State.takeStamp_on | decide | split

theorem State.plainEdge_on {kp : List Part} {b0 : State} {s : State} {c : Nat} {tick : Nat} {phase : Nat} {fine : Nat} {falling : Bool} (hk : goesOn kp b0 s) (hq : ∀ p ∈ [.tdc, .gauge, .events], p ∈ kp) :
    goesOn kp b0 (State.plainEdge s c tick phase fine falling).1 := hk.trans ((State.plainEdge_keeps s c tick phase fine falling).mono hq)

theorem execGatePinChange_keeps (group : Nat) (level : Bool) (tick : Nat) (s : State) :
    Out.keeps [.clock, .free, .cmd, .hostMem, .tdc, .gauge, .stitch, .pair, .fw, .mbs, .fence, .events, .stats] s (execGatePinChange group level tick s) := by
  unfold execGatePinChange
  try dsimp only
  repeat' with_reducible first
    | apply goesOn.refl | assumption | apply keeps_ite | apply State.advanceTick_on | apply State.countIgnored_on
    | apply State.gateClose_on | apply State.gateStart_on | apply State.updGroup_on | apply out_next | apply out_fault
    | apply out_ite | decide | split

theorem execGatePinChange_on {kp : List Part} {b0 : State} {group : Nat} {level : Bool} {tick : Nat} {s : State} (hk : goesOn kp b0 s) (hq : ∀ p ∈ [.clock, .free, .cmd, .hostMem, .tdc, .gauge, .stitch, .pair, .fw, .mbs, .fence, .events, .stats], p ∈ kp) :
    Out.keeps kp b0 (execGatePinChange group level tick s) := .after hk ((execGatePinChange_keeps group level tick s).mono hq)

theorem State.swGateOpen_keeps (s : State) (value : Nat) :
    goesOn [.tdc, .gauge, .stitch, .fence, .events] s (State.swGateOpen s value) := by
  unfold State.swGateOpen
  try dsimp only
  repeat' first
    | with_reducible apply goesOn.refl | with_reducible assumption | with_reducible apply keeps_ite
    | (with_reducible apply keeps_foldl; rotate_left 1; intro y a hy) | with_reducible apply State.gateStart_on
    | with_reducible decide | split

theorem State.swGateOpen_on {kp : List Part} {b0 : State} {s : State} {value : Nat} (hk : goesOn kp b0 s) (hq : ∀ p ∈ [.tdc, .gauge, .stitch, .fence, .events], p ∈ kp) :
    goesOn kp b0 (State.swGateOpen s value) := hk.trans ((State.swGateOpen_keeps s value).mono hq)

theorem State.swGateClose_keeps (s : State) (value : Nat) :
    goesOn [.tdc, .fence, .events] s (State.swGateClose s value) := by
  unfold State.swGateClose
  try dsimp only
  repeat' first
    | with_reducible apply goesOn.refl | with_reducible assumption | with_reducible apply keeps_ite
    | (with_reducible apply keeps_foldl; rotate_left 1; intro y a hy) | with_reducible apply State.gateClose_on
    | with_reducible decide

theorem State.swGateClose_on {kp : List Part} {b0 : State} {s : State} {value : Nat} (hk : goesOn kp b0 s) (hq : ∀ p ∈ [.tdc, .fence, .events], p ∈ kp) :
    goesOn kp b0 (State.swGateClose s value) := hk.trans ((State.swGateClose_keeps s value).mono hq)

theorem execSwGateOpen_keeps (value : BitVec 32) (s : State) :
    Out.keeps [.tdc, .gauge, .stitch, .fence, .events] s (execSwGateOpen value s) := by
  unfold execSwGateOpen
  try dsimp only
  repeat' with_reducible first
    | apply goesOn.refl | apply State.swGateOpen_on | apply out_next | decide

theorem execSwGateOpen_on {kp : List Part} {b0 : State} {value : BitVec 32} {s : State} (hk : goesOn kp b0 s) (hq : ∀ p ∈ [.tdc, .gauge, .stitch, .fence, .events], p ∈ kp) :
    Out.keeps kp b0 (execSwGateOpen value s) := .after hk ((execSwGateOpen_keeps value s).mono hq)

theorem execSwGateClose_keeps (value : BitVec 32) (s : State) :
    Out.keeps [.tdc, .fence, .events] s (execSwGateClose value s) := by
  unfold execSwGateClose
  try dsimp only
  repeat' with_reducible first
    | apply goesOn.refl | apply State.swGateClose_on | apply out_next | decide

theorem execSwGateClose_on {kp : List Part} {b0 : State} {value : BitVec 32} {s : State} (hk : goesOn kp b0 s) (hq : ∀ p ∈ [.tdc, .fence, .events], p ∈ kp) :
    Out.keeps kp b0 (execSwGateClose value s) := .after hk ((execSwGateClose_keeps value s).mono hq)

theorem execGatePulseEnd_keeps (group : Nat) (s : State) :
    Out.keeps [.clock, .free, .cmd, .hostMem, .tdc, .gauge, .stitch, .pair, .fw, .mbs, .fence, .events, .stats] s (execGatePulseEnd group s) := by
  unfold execGatePulseEnd
  try dsimp only
  repeat' with_reducible first
    | apply goesOn.refl | assumption | apply keeps_ite | apply State.advanceTick_on | apply State.gateClose_on
    | apply State.gateStart_on | apply out_next | apply out_fault | apply out_ite | decide | split

theorem execGatePulseEnd_on {kp : List Part} {b0 : State} {group : Nat} {s : State} (hk : goesOn kp b0 s) (hq : ∀ p ∈ [.clock, .free, .cmd, .hostMem, .tdc, .gauge, .stitch, .pair, .fw, .mbs, .fence, .events, .stats], p ∈ kp) :
    Out.keeps kp b0 (execGatePulseEnd group s) := .after hk ((execGatePulseEnd_keeps group s).mono hq)

theorem execGateTimeout_keeps (group : Nat) (s : State) :
    Out.keeps [.clock, .free, .cmd, .hostMem, .tdc, .pair, .fw, .mbs, .fence, .events, .stats] s (execGateTimeout group s) := by
  unfold execGateTimeout
  try dsimp only
  repeat' with_reducible first
    | apply goesOn.refl | apply State.advanceTick_on | apply State.gateClose_on | apply out_next | apply out_fault | apply out_ite
    | decide | split

theorem execGateTimeout_on {kp : List Part} {b0 : State} {group : Nat} {s : State} (hk : goesOn kp b0 s) (hq : ∀ p ∈ [.clock, .free, .cmd, .hostMem, .tdc, .pair, .fw, .mbs, .fence, .events, .stats], p ∈ kp) :
    Out.keeps kp b0 (execGateTimeout group s) := .after hk ((execGateTimeout_keeps group s).mono hq)

theorem execInputOpen_keeps (input : Nat) (s : State) :
    Out.keeps [.tdc, .fence, .events] s (execInputOpen input s) := by
  unfold execInputOpen
  try dsimp only
  repeat' with_reducible first
    | apply goesOn.refl | apply State.raise_on | apply State.updTdc_on | apply out_next | apply out_fault | apply out_ite | decide

theorem execInputOpen_on {kp : List Part} {b0 : State} {input : Nat} {s : State} (hk : goesOn kp b0 s) (hq : ∀ p ∈ [.tdc, .fence, .events], p ∈ kp) :
    Out.keeps kp b0 (execInputOpen input s) := .after hk ((execInputOpen_keeps input s).mono hq)

theorem execInputRecovered_keeps (input : Nat) (level : Bool) (s : State) :
    Out.keeps [.tdc] s (execInputRecovered input level s) := by
  unfold execInputRecovered
  try dsimp only
  repeat' with_reducible first
    | apply goesOn.refl | apply State.updTdc_on | apply out_next | apply out_fault | apply out_ite | decide

theorem execInputRecovered_on {kp : List Part} {b0 : State} {input : Nat} {level : Bool} {s : State} (hk : goesOn kp b0 s) (hq : ∀ p ∈ [.tdc], p ∈ kp) :
    Out.keeps kp b0 (execInputRecovered input level s) := .after hk ((execInputRecovered_keeps input level s).mono hq)

theorem execRateWindow_keeps (ch : Nat) (s : State) :
    Out.keeps [.clock, .free, .cmd, .hostMem, .tdc, .pair, .fw, .mbs, .fence, .events, .stats] s (execRateWindow ch s) := by
  unfold execRateWindow
  try dsimp only
  repeat' with_reducible first
    | apply goesOn.refl | assumption | apply keeps_ite | apply State.advanceTick_on | apply State.chanCount_on
    | apply State.raise_on | apply State.updTdc_on | apply out_next | apply out_fault | apply out_ite | decide | split

theorem execRateWindow_on {kp : List Part} {b0 : State} {ch : Nat} {s : State} (hk : goesOn kp b0 s) (hq : ∀ p ∈ [.clock, .free, .cmd, .hostMem, .tdc, .pair, .fw, .mbs, .fence, .events, .stats], p ∈ kp) :
    Out.keeps kp b0 (execRateWindow ch s) := .after hk ((execRateWindow_keeps ch s).mono hq)

theorem execSilent_keeps (ch : Nat) (s : State) :
    Out.keeps [.clock, .free, .cmd, .hostMem, .tdc, .pair, .fw, .mbs, .fence, .events, .stats] s (execSilent ch s) := by
  unfold execSilent
  try dsimp only
  repeat' with_reducible first
    | apply goesOn.refl | apply State.advanceTick_on | apply State.raise_on | apply State.updTdc_on | apply out_next
    | apply out_fault | apply out_ite | decide

theorem execSilent_on {kp : List Part} {b0 : State} {ch : Nat} {s : State} (hk : goesOn kp b0 s) (hq : ∀ p ∈ [.clock, .free, .cmd, .hostMem, .tdc, .pair, .fw, .mbs, .fence, .events, .stats], p ∈ kp) :
    Out.keeps kp b0 (execSilent ch s) := .after hk ((execSilent_keeps ch s).mono hq)

theorem execTapEdge_keeps (lane : Nat) (tick : Nat) (phase : Nat) (fine : Nat) (s : State) :
    Out.keeps [.clock, .free, .cmd, .hostMem, .lanes, .tdc, .gauge, .pair, .fw, .mbs, .fence, .events, .stats] s (execTapEdge lane tick phase fine s) := by
  unfold execTapEdge
  try dsimp only
  repeat' with_reducible first
    | apply goesOn.refl | assumption | apply keeps_ite | apply State.advanceTick_on | apply State.loseStamp_on
    | apply State.takeStamp_on | apply State.toFifo_on | apply State.updLane_on | apply State.updTdc_on | apply out_next
    | apply out_fault | apply out_ite | decide | split

theorem execTapEdge_on {kp : List Part} {b0 : State} {lane : Nat} {tick : Nat} {phase : Nat} {fine : Nat} {s : State} (hk : goesOn kp b0 s) (hq : ∀ p ∈ [.clock, .free, .cmd, .hostMem, .lanes, .tdc, .gauge, .pair, .fw, .mbs, .fence, .events, .stats], p ∈ kp) :
    Out.keeps kp b0 (execTapEdge lane tick phase fine s) := .after hk ((execTapEdge_keeps lane tick phase fine s).mono hq)

theorem State.closeLaneWindows_keeps (s : State) :
    goesOn [.tdc] s (State.closeLaneWindows s) := by
  unfold State.closeLaneWindows
  try dsimp only
  repeat' with_reducible first
    | apply goesOn.refl | assumption | apply keeps_ite | apply kset_tdc | decide | split

theorem State.closeLaneWindows_on {kp : List Part} {b0 : State} {s : State} (hk : goesOn kp b0 s) (hq : ∀ p ∈ [.tdc], p ∈ kp) :
    goesOn kp b0 (State.closeLaneWindows s) := hk.trans ((State.closeLaneWindows_keeps s).mono hq)

theorem State.applyLaneWin_keeps (s : State) (t : Nat) :
    goesOn [.tdc] s (State.applyLaneWin s t) := by
  unfold State.applyLaneWin
  try dsimp only
  repeat' with_reducible first
    | apply goesOn.refl | apply keeps_ite | decide | split | apply kset_tdc

theorem State.applyLaneWin_on {kp : List Part} {b0 : State} {s : State} {t : Nat} (hk : goesOn kp b0 s) (hq : ∀ p ∈ [.tdc], p ∈ kp) :
    goesOn kp b0 (State.applyLaneWin s t) := hk.trans ((State.applyLaneWin_keeps s t).mono hq)

theorem State.truncateChan_keeps (s : State) (c : Nat) :
    goesOn [.tdc, .fence, .events] s (State.truncateChan s c) := by
  unfold State.truncateChan
  try dsimp only
  repeat' first
    | with_reducible apply goesOn.refl | with_reducible assumption | with_reducible apply keeps_ite
    | (with_reducible apply keeps_foldl; rotate_left 1; intro y a hy) | with_reducible apply State.decideAll_on
    | with_reducible apply State.writeResult_on | with_reducible decide

theorem State.truncateChan_on {kp : List Part} {b0 : State} {s : State} {c : Nat} (hk : goesOn kp b0 s) (hq : ∀ p ∈ [.tdc, .fence, .events], p ∈ kp) :
    goesOn kp b0 (State.truncateChan s c) := hk.trans ((State.truncateChan_keeps s c).mono hq)

theorem bodyTdcConfigureEvt_keeps (enable : Bool) (regression : Bool) (channel : Nat) (edge : Nat) (hyst : Nat) (holdoff : Nat) (prescaler : Nat) (ring : Nat) (offset : Int) (rateLimit : Nat) (silence : Nat) (s : State) :
    Rep.keeps [.tdc, .gauge, .fence, .events] s (bodyTdcConfigureEvt enable regression channel edge hyst holdoff prescaler ring offset rateLimit silence s) := by
  unfold bodyTdcConfigureEvt
  try dsimp only
  repeat' first
    | with_reducible apply goesOn.refl | with_reducible assumption | with_reducible apply keeps_ite
    | (with_reducible apply keeps_foldl; rotate_left 1; intro y a hy) | with_reducible apply State.decideAll_on
    | with_reducible apply State.truncateChan_on | with_reducible apply State.updCG_on | with_reducible apply State.updTdc_on
    | with_reducible apply rep_ok | with_reducible apply rep_bad | with_reducible apply rep_ranges | with_reducible apply rep_ite
    | with_reducible decide

theorem bodyTdcConfigureEvt_on {kp : List Part} {b0 : State} {enable : Bool} {regression : Bool} {channel : Nat} {edge : Nat} {hyst : Nat} {holdoff : Nat} {prescaler : Nat} {ring : Nat} {offset : Int} {rateLimit : Nat} {silence : Nat} {s : State} (hk : goesOn kp b0 s) (hq : ∀ p ∈ [.tdc, .gauge, .fence, .events], p ∈ kp) :
    Rep.keeps kp b0 (bodyTdcConfigureEvt enable regression channel edge hyst holdoff prescaler ring offset rateLimit silence s) := .after hk ((bodyTdcConfigureEvt_keeps enable regression channel edge hyst holdoff prescaler ring offset rateLimit silence s).mono hq)

theorem bodyTdcConfigureGroup_keeps (group : Nat) (mode : Nat) (level : Nat) (pulse : Nat) (maxLen : Nat) (s : State) :
    Rep.keeps [.tdc, .gauge, .stitch, .fence, .events] s (bodyTdcConfigureGroup group mode level pulse maxLen s) := by
  unfold bodyTdcConfigureGroup
  try dsimp only
  repeat' with_reducible first
    | apply goesOn.refl | assumption | apply keeps_ite | apply State.gateStart_on | apply State.updGroup_on
    | apply Rep.badState_on | apply Rep.ranges_on | apply rep_ok | apply rep_fail | apply rep_range | apply rep_bad
    | apply rep_flags | apply rep_done | apply rep_later | apply rep_ranges | apply rep_ite | decide | split

theorem bodyTdcConfigureGroup_on {kp : List Part} {b0 : State} {group : Nat} {mode : Nat} {level : Nat} {pulse : Nat} {maxLen : Nat} {s : State} (hk : goesOn kp b0 s) (hq : ∀ p ∈ [.tdc, .gauge, .stitch, .fence, .events], p ∈ kp) :
    Rep.keeps kp b0 (bodyTdcConfigureGroup group mode level pulse maxLen s) := .after hk ((bodyTdcConfigureGroup_keeps group mode level pulse maxLen s).mono hq)

theorem bodyTdcSetInterval_keeps (enable : Bool) (engine : Nat) (start : Nat) (stop : Nat) (window : Nat) (ring : Nat) (s : State) :
    Rep.keeps [.tdc, .fence, .events] s (bodyTdcSetInterval enable engine start stop window ring s) := by
  unfold bodyTdcSetInterval
  try dsimp only
  repeat' with_reducible first
    | apply goesOn.refl | apply keeps_ite | apply State.decideAll_on | apply kset_tdc | apply rep_ok | apply rep_ranges | decide

theorem bodyTdcSetInterval_on {kp : List Part} {b0 : State} {enable : Bool} {engine : Nat} {start : Nat} {stop : Nat} {window : Nat} {ring : Nat} {s : State} (hk : goesOn kp b0 s) (hq : ∀ p ∈ [.tdc, .fence, .events], p ∈ kp) :
    Rep.keeps kp b0 (bodyTdcSetInterval enable engine start stop window ring s) := .after hk ((bodyTdcSetInterval_keeps enable engine start stop window ring s).mono hq)

theorem bodyTdcGetChannel_keeps (clear : Bool) (channel : Nat) (s : State) :
    Rep.keeps [.tdc, .events] s (bodyTdcGetChannel clear channel s) := by
  unfold bodyTdcGetChannel
  try dsimp only
  repeat' with_reducible first
    | apply goesOn.refl | assumption | apply keeps_ite | apply State.chanClear_on | apply Rep.ranges_on | apply rep_ok
    | apply rep_fail | apply rep_range | apply rep_bad | apply rep_flags | apply rep_done | apply rep_later | apply rep_ranges
    | apply rep_ite | decide | split

theorem bodyTdcGetChannel_on {kp : List Part} {b0 : State} {clear : Bool} {channel : Nat} {s : State} (hk : goesOn kp b0 s) (hq : ∀ p ∈ [.tdc, .events], p ∈ kp) :
    Rep.keeps kp b0 (bodyTdcGetChannel clear channel s) := .after hk ((bodyTdcGetChannel_keeps clear channel s).mono hq)

theorem bodyTdcGetLane_keeps (lane : Nat) (s : State) :
    Rep.keeps [] s (bodyTdcGetLane lane s) := by
  unfold bodyTdcGetLane
  try dsimp only
  repeat' with_reducible first
    | apply goesOn.refl | apply rep_ok | apply rep_ranges

theorem bodyTdcGetLane_on {kp : List Part} {b0 : State} {lane : Nat} {s : State} (hk : goesOn kp b0 s) (hq : ∀ p ∈ [], p ∈ kp) :
    Rep.keeps kp b0 (bodyTdcGetLane lane s) := .after hk ((bodyTdcGetLane_keeps lane s).mono hq)

theorem bodyTdcSetLaneWindow_keeps (w : Nat) (s : State) :
    Rep.keeps [.tdc] s (bodyTdcSetLaneWindow w s) := by
  unfold bodyTdcSetLaneWindow
  try dsimp only
  repeat' with_reducible first
    | apply goesOn.refl | apply kset_tdc | apply rep_ok | apply rep_ranges | decide

theorem bodyTdcSetLaneWindow_on {kp : List Part} {b0 : State} {w : Nat} {s : State} (hk : goesOn kp b0 s) (hq : ∀ p ∈ [.tdc], p ∈ kp) :
    Rep.keeps kp b0 (bodyTdcSetLaneWindow w s) := .after hk ((bodyTdcSetLaneWindow_keeps w s).mono hq)

theorem bodyTdcCaptureTap_keeps (lane : Nat) (action : Nat) (ring : Nat) (d : Nat) (s : State) :
    Rep.keeps [.tdc] s (bodyTdcCaptureTap lane action ring d s) := by
  unfold bodyTdcCaptureTap
  try dsimp only
  repeat' with_reducible first
    | apply goesOn.refl | apply State.updTdc_on | apply rep_ok | apply rep_fail | apply rep_bad | apply rep_ranges | apply rep_ite
    | decide

theorem bodyTdcCaptureTap_on {kp : List Part} {b0 : State} {lane : Nat} {action : Nat} {ring : Nat} {d : Nat} {s : State} (hk : goesOn kp b0 s) (hq : ∀ p ∈ [.tdc], p ∈ kp) :
    Rep.keeps kp b0 (bodyTdcCaptureTap lane action ring d s) := .after hk ((bodyTdcCaptureTap_keeps lane action ring d s).mono hq)

theorem execTdcConfigureEvt_keeps (src : CmdSrc) (enable : Bool) (regression : Bool) (channel : Nat) (edge : Nat) (hyst : Nat) (holdoff : Nat) (prescaler : Nat) (ring : Nat) (offset : Int) (rateLimit : Nat) (silence : Nat) (s : State) :
    Out.keeps [.cmd, .hostMem, .glob, .tdc, .gauge, .pair, .fw, .mbs, .fence, .events] s (execTdcConfigureEvt src enable regression channel edge hyst holdoff prescaler ring offset rateLimit silence s) := by
  unfold execTdcConfigureEvt
  try dsimp only
  repeat' first
    | with_reducible apply goesOn.refl | with_reducible apply out_next
    | (with_reducible apply keeps_runCmd; rotate_left 1; intro y) | with_reducible apply bodyTdcConfigureEvt_on
    | with_reducible decide

theorem execTdcConfigureEvt_on {kp : List Part} {b0 : State} {src : CmdSrc} {enable : Bool} {regression : Bool} {channel : Nat} {edge : Nat} {hyst : Nat} {holdoff : Nat} {prescaler : Nat} {ring : Nat} {offset : Int} {rateLimit : Nat} {silence : Nat} {s : State} (hk : goesOn kp b0 s) (hq : ∀ p ∈ [.cmd, .hostMem, .glob, .tdc, .gauge, .pair, .fw, .mbs, .fence, .events], p ∈ kp) :
    Out.keeps kp b0 (execTdcConfigureEvt src enable regression channel edge hyst holdoff prescaler ring offset rateLimit silence s) := .after hk ((execTdcConfigureEvt_keeps src enable regression channel edge hyst holdoff prescaler ring offset rateLimit silence s).mono hq)

theorem execTdcConfigureGroup_keeps (src : CmdSrc) (group : Nat) (mode : Nat) (level : Nat) (pulse : Nat) (maxLen : Nat) (s : State) :
    Out.keeps [.cmd, .hostMem, .glob, .tdc, .gauge, .stitch, .pair, .fw, .mbs, .fence, .events] s (execTdcConfigureGroup src group mode level pulse maxLen s) := by
  unfold execTdcConfigureGroup
  try dsimp only
  repeat' first
    | with_reducible apply goesOn.refl | with_reducible apply out_next
    | (with_reducible apply keeps_runCmd; rotate_left 1; intro y) | with_reducible apply bodyTdcConfigureGroup_on
    | with_reducible decide

theorem execTdcConfigureGroup_on {kp : List Part} {b0 : State} {src : CmdSrc} {group : Nat} {mode : Nat} {level : Nat} {pulse : Nat} {maxLen : Nat} {s : State} (hk : goesOn kp b0 s) (hq : ∀ p ∈ [.cmd, .hostMem, .glob, .tdc, .gauge, .stitch, .pair, .fw, .mbs, .fence, .events], p ∈ kp) :
    Out.keeps kp b0 (execTdcConfigureGroup src group mode level pulse maxLen s) := .after hk ((execTdcConfigureGroup_keeps src group mode level pulse maxLen s).mono hq)

theorem execTdcSetInterval_keeps (src : CmdSrc) (enable : Bool) (engine : Nat) (start : Nat) (stop : Nat) (window : Nat) (ring : Nat) (s : State) :
    Out.keeps [.cmd, .hostMem, .glob, .tdc, .pair, .fw, .mbs, .fence, .events] s (execTdcSetInterval src enable engine start stop window ring s) := by
  unfold execTdcSetInterval
  try dsimp only
  repeat' first
    | with_reducible apply goesOn.refl | with_reducible apply out_next
    | (with_reducible apply keeps_runCmd; rotate_left 1; intro y) | with_reducible apply bodyTdcSetInterval_on
    | with_reducible decide

theorem execTdcSetInterval_on {kp : List Part} {b0 : State} {src : CmdSrc} {enable : Bool} {engine : Nat} {start : Nat} {stop : Nat} {window : Nat} {ring : Nat} {s : State} (hk : goesOn kp b0 s) (hq : ∀ p ∈ [.cmd, .hostMem, .glob, .tdc, .pair, .fw, .mbs, .fence, .events], p ∈ kp) :
    Out.keeps kp b0 (execTdcSetInterval src enable engine start stop window ring s) := .after hk ((execTdcSetInterval_keeps src enable engine start stop window ring s).mono hq)

theorem execTdcGetChannel_keeps (src : CmdSrc) (clear : Bool) (channel : Nat) (s : State) :
    Out.keeps [.cmd, .hostMem, .glob, .tdc, .pair, .fw, .mbs, .fence, .events] s (execTdcGetChannel src clear channel s) := by
  unfold execTdcGetChannel
  try dsimp only
  repeat' first
    | with_reducible apply goesOn.refl | with_reducible apply out_next
    | (with_reducible apply keeps_runCmd; rotate_left 1; intro y) | with_reducible apply bodyTdcGetChannel_on
    | with_reducible decide

theorem execTdcGetChannel_on {kp : List Part} {b0 : State} {src : CmdSrc} {clear : Bool} {channel : Nat} {s : State} (hk : goesOn kp b0 s) (hq : ∀ p ∈ [.cmd, .hostMem, .glob, .tdc, .pair, .fw, .mbs, .fence, .events], p ∈ kp) :
    Out.keeps kp b0 (execTdcGetChannel src clear channel s) := .after hk ((execTdcGetChannel_keeps src clear channel s).mono hq)

theorem execTdcGetLane_keeps (src : CmdSrc) (lane : Nat) (s : State) :
    Out.keeps [.cmd, .hostMem, .glob, .pair, .fw, .mbs, .fence, .events] s (execTdcGetLane src lane s) := by
  unfold execTdcGetLane
  try dsimp only
  repeat' first
    | with_reducible apply goesOn.refl | with_reducible apply out_next
    | (with_reducible apply keeps_runCmd; rotate_left 1; intro y) | with_reducible apply bodyTdcGetLane_on | with_reducible decide

theorem execTdcGetLane_on {kp : List Part} {b0 : State} {src : CmdSrc} {lane : Nat} {s : State} (hk : goesOn kp b0 s) (hq : ∀ p ∈ [.cmd, .hostMem, .glob, .pair, .fw, .mbs, .fence, .events], p ∈ kp) :
    Out.keeps kp b0 (execTdcGetLane src lane s) := .after hk ((execTdcGetLane_keeps src lane s).mono hq)

theorem execTdcSetLaneWindow_keeps (src : CmdSrc) (w : Nat) (s : State) :
    Out.keeps [.cmd, .hostMem, .glob, .tdc, .pair, .fw, .mbs, .fence, .events] s (execTdcSetLaneWindow src w s) := by
  unfold execTdcSetLaneWindow
  try dsimp only
  repeat' first
    | with_reducible apply goesOn.refl | with_reducible apply out_next
    | (with_reducible apply keeps_runCmd; rotate_left 1; intro y) | with_reducible apply bodyTdcSetLaneWindow_on
    | with_reducible decide

theorem execTdcSetLaneWindow_on {kp : List Part} {b0 : State} {src : CmdSrc} {w : Nat} {s : State} (hk : goesOn kp b0 s) (hq : ∀ p ∈ [.cmd, .hostMem, .glob, .tdc, .pair, .fw, .mbs, .fence, .events], p ∈ kp) :
    Out.keeps kp b0 (execTdcSetLaneWindow src w s) := .after hk ((execTdcSetLaneWindow_keeps src w s).mono hq)

theorem execTdcCaptureTap_keeps (src : CmdSrc) (lane : Nat) (action : Nat) (ring : Nat) (d : Nat) (s : State) :
    Out.keeps [.cmd, .hostMem, .glob, .tdc, .pair, .fw, .mbs, .fence, .events] s (execTdcCaptureTap src lane action ring d s) := by
  unfold execTdcCaptureTap
  try dsimp only
  repeat' first
    | with_reducible apply goesOn.refl | with_reducible apply out_next
    | (with_reducible apply keeps_runCmd; rotate_left 1; intro y) | with_reducible apply bodyTdcCaptureTap_on
    | with_reducible decide

theorem execTdcCaptureTap_on {kp : List Part} {b0 : State} {src : CmdSrc} {lane : Nat} {action : Nat} {ring : Nat} {d : Nat} {s : State} (hk : goesOn kp b0 s) (hq : ∀ p ∈ [.cmd, .hostMem, .glob, .tdc, .pair, .fw, .mbs, .fence, .events], p ∈ kp) :
    Out.keeps kp b0 (execTdcCaptureTap src lane action ring d s) := .after hk ((execTdcCaptureTap_keeps src lane action ring d s).mono hq)

end Sys2Proof.Machine
end

