-- ==== Sys2Proof/Laws/Keeps/Gauge.lean ====
section
/-!
SUPPORT. Which parts of the state each operation of Gauge.lean touches.
-/
namespace Sys2Proof.Machine

theorem State.queueRun_keeps (s : State) (r : Nat) (urgent : Bool) :
    goesOn [.gauge] s (State.queueRun s r urgent) := by
  unfold State.queueRun
  try dsimp only
  repeat' with_reducible first
    | apply goesOn.refl | apply keeps_ite | apply kset_gauge | decide

theorem State.queueRun_on {kp : List Part} {b0 : State} {s : State} {r : Nat} {urgent : Bool} (hk : goesOn kp b0 s) (hq : ∀ p ∈ [.gauge], p ∈ kp) :
    goesOn kp b0 (State.queueRun s r urgent) := hk.trans ((State.queueRun_keeps s r urgent).mono hq)

theorem State.nextFull_keeps (s : State) :
    goesOn [.gauge] s (State.nextFull s) := by
  unfold State.nextFull
  try dsimp only
  repeat' with_reducible first
    | apply goesOn.refl | decide | split | apply kset_gauge

theorem State.nextFull_on {kp : List Part} {b0 : State} {s : State} (hk : goesOn kp b0 s) (hq : ∀ p ∈ [.gauge], p ∈ kp) :
    goesOn kp b0 (State.nextFull s) := hk.trans ((State.nextFull_keeps s).mono hq)

theorem State.copyOver_keeps (s : State) (r : Nat) :
    goesOn [.gauge] s (State.copyOver s r) := by
  unfold State.copyOver
  try dsimp only
  repeat' first
    | with_reducible apply goesOn.refl | with_reducible assumption | with_reducible apply keeps_ite
    | (with_reducible apply keeps_foldl; rotate_left 1; intro y a hy) | with_reducible apply State.updCG_on
    | with_reducible apply State.updRegion_on | with_reducible decide | split

theorem State.copyOver_on {kp : List Part} {b0 : State} {s : State} {r : Nat} (hk : goesOn kp b0 s) (hq : ∀ p ∈ [.gauge], p ∈ kp) :
    goesOn kp b0 (State.copyOver s r) := hk.trans ((State.copyOver_keeps s r).mono hq)

theorem State.enterFull_keeps (s : State) (r : Nat) (restore : Bool) :
    goesOn [.tdc, .gauge, .fence, .events] s (State.enterFull s r restore) := by
  unfold State.enterFull
  try dsimp only
  repeat' first
    | with_reducible apply goesOn.refl | with_reducible assumption | with_reducible apply keeps_ite
    | (with_reducible apply keeps_foldl; rotate_left 1; intro y a hy) | with_reducible apply State.copyOver_on
    | with_reducible apply State.nextFull_on | with_reducible apply State.truncateChan_on | with_reducible apply State.updCG_on
    | with_reducible apply State.updTdc_on | with_reducible apply kset_gauge | with_reducible decide | split

theorem State.enterFull_on {kp : List Part} {b0 : State} {s : State} {r : Nat} {restore : Bool} (hk : goesOn kp b0 s) (hq : ∀ p ∈ [.tdc, .gauge, .fence, .events], p ∈ kp) :
    goesOn kp b0 (State.enterFull s r restore) := hk.trans ((State.enterFull_keeps s r restore).mono hq)

theorem State.gaugePowerOn_keeps (s : State) :
    goesOn [.tdc, .gauge, .fence, .events] s (State.gaugePowerOn s) := by
  unfold State.gaugePowerOn
  try dsimp only
  repeat' first
    | with_reducible apply goesOn.refl | with_reducible assumption
    | (with_reducible apply keeps_foldl; rotate_left 1; intro y a hy) | with_reducible apply State.enterFull_on
    | with_reducible decide

theorem State.gaugePowerOn_on {kp : List Part} {b0 : State} {s : State} (hk : goesOn kp b0 s) (hq : ∀ p ∈ [.tdc, .gauge, .fence, .events], p ∈ kp) :
    goesOn kp b0 (State.gaugePowerOn s) := hk.trans ((State.gaugePowerOn_keeps s).mono hq)

theorem State.gaugeTemp_keeps (s : State) (r : Nat) :
    goesOn [.gauge] s (State.gaugeTemp s r) := by
  unfold State.gaugeTemp
  try dsimp only
  repeat' with_reducible first
    | apply goesOn.refl | apply keeps_ite | apply State.queueRun_on | apply State.updRegion_on | decide | split

theorem State.gaugeTemp_on {kp : List Part} {b0 : State} {s : State} {r : Nat} (hk : goesOn kp b0 s) (hq : ∀ p ∈ [.gauge], p ∈ kp) :
    goesOn kp b0 (State.gaugeTemp s r) := hk.trans ((State.gaugeTemp_keeps s r).mono hq)

theorem execGaugeTempUnavailable_keeps (region : Nat) (s : State) :
    Out.keeps [.clock, .free, .cmd, .hostMem, .gauge, .pair, .fw, .mbs, .fence, .events, .stats] s (execGaugeTempUnavailable region s) := by
  unfold execGaugeTempUnavailable
  try dsimp only
  repeat' with_reducible first
    | apply goesOn.refl | apply State.advance_on | apply State.queueRun_on | apply State.raise_on | apply State.updRegion_on
    | apply out_next | apply out_fault | apply out_ite | decide | split

theorem execGaugeTempUnavailable_on {kp : List Part} {b0 : State} {region : Nat} {s : State} (hk : goesOn kp b0 s) (hq : ∀ p ∈ [.clock, .free, .cmd, .hostMem, .gauge, .pair, .fw, .mbs, .fence, .events, .stats], p ∈ kp) :
    Out.keeps kp b0 (execGaugeTempUnavailable region s) := .after hk ((execGaugeTempUnavailable_keeps region s).mono hq)

theorem execGaugePeriodicTimer_keeps (region : Nat) (s : State) :
    Out.keeps [.clock, .free, .cmd, .hostMem, .gauge, .pair, .fw, .mbs, .fence, .events, .stats] s (execGaugePeriodicTimer region s) := by
  unfold execGaugePeriodicTimer
  try dsimp only
  repeat' with_reducible first
    | apply goesOn.refl | apply State.advance_on | apply State.queueRun_on | apply out_next | apply out_fault | apply out_ite
    | decide | split

theorem execGaugePeriodicTimer_on {kp : List Part} {b0 : State} {region : Nat} {s : State} (hk : goesOn kp b0 s) (hq : ∀ p ∈ [.clock, .free, .cmd, .hostMem, .gauge, .pair, .fw, .mbs, .fence, .events, .stats], p ∈ kp) :
    Out.keeps kp b0 (execGaugePeriodicTimer region s) := .after hk ((execGaugePeriodicTimer_keeps region s).mono hq)

theorem execGaugeHoldLapse_keeps (s : State) :
    Out.keeps [.clock, .free, .cmd, .hostMem, .gauge, .pair, .fw, .mbs, .fence, .events, .stats] s (execGaugeHoldLapse s) := by
  unfold execGaugeHoldLapse
  try dsimp only
  repeat' with_reducible first
    | apply goesOn.refl | apply State.advance_on | apply kset_gauge | apply out_next | decide | split

theorem execGaugeHoldLapse_on {kp : List Part} {b0 : State} {s : State} (hk : goesOn kp b0 s) (hq : ∀ p ∈ [.clock, .free, .cmd, .hostMem, .gauge, .pair, .fw, .mbs, .fence, .events, .stats], p ∈ kp) :
    Out.keeps kp b0 (execGaugeHoldLapse s) := .after hk ((execGaugeHoldLapse_keeps s).mono hq)

theorem execGaugeRunStart_keeps (s : State) :
    Out.keeps [.clock, .free, .cmd, .hostMem, .tdc, .gauge, .pair, .fw, .mbs, .fence, .events, .stats] s (execGaugeRunStart s) := by
  unfold execGaugeRunStart
  try dsimp only
  repeat' first
    | with_reducible apply goesOn.refl | with_reducible assumption
    | (with_reducible apply keeps_foldl; rotate_left 1; intro y a hy) | with_reducible apply State.advance_on
    | with_reducible apply State.updCG_on | with_reducible apply State.updTdc_on | with_reducible apply kset_gauge
    | with_reducible apply out_next | with_reducible apply out_ite | with_reducible decide | split

theorem execGaugeRunStart_on {kp : List Part} {b0 : State} {s : State} (hk : goesOn kp b0 s) (hq : ∀ p ∈ [.clock, .free, .cmd, .hostMem, .tdc, .gauge, .pair, .fw, .mbs, .fence, .events, .stats], p ∈ kp) :
    Out.keeps kp b0 (execGaugeRunStart s) := .after hk ((execGaugeRunStart_keeps s).mono hq)

theorem State.judgeChan_keeps (s : State) (c : Nat) (hits : List Nat) (dllOk : Bool) (full : Bool) :
    goesOn [.gauge, .fence, .events] s (State.judgeChan s c hits dllOk full) := by
  unfold State.judgeChan
  try dsimp only
  repeat' with_reducible first
    | apply goesOn.refl | apply keeps_ite | apply State.raise_on | apply State.updCG_on | decide

theorem State.judgeChan_on {kp : List Part} {b0 : State} {s : State} {c : Nat} {hits : List Nat} {dllOk : Bool} {full : Bool} (hk : goesOn kp b0 s) (hq : ∀ p ∈ [.gauge, .fence, .events], p ∈ kp) :
    goesOn kp b0 (State.judgeChan s c hits dllOk full) := hk.trans ((State.judgeChan_keeps s c hits dllOk full).mono hq)

theorem State.writeInactive_keeps (s : State) (r : Nat) (kind : Nat) :
    goesOn [.gauge] s (State.writeInactive s r kind) := by
  unfold State.writeInactive
  try dsimp only
  repeat' first
    | with_reducible apply goesOn.refl | with_reducible assumption | with_reducible apply keeps_ite
    | (with_reducible apply keeps_foldl; rotate_left 1; intro y a hy) | with_reducible apply State.updCG_on
    | with_reducible apply State.updRegion_on | with_reducible decide | split

theorem State.writeInactive_on {kp : List Part} {b0 : State} {s : State} {r : Nat} {kind : Nat} (hk : goesOn kp b0 s) (hq : ∀ p ∈ [.gauge], p ∈ kp) :
    goesOn kp b0 (State.writeInactive s r kind) := hk.trans ((State.writeInactive_keeps s r kind).mono hq)

theorem State.endRun_keeps (s : State) (r : Nat) (kind : Nat) (failed : Bool) :
    goesOn [.gauge] s (State.endRun s r kind failed) := by
  unfold State.endRun
  try dsimp only
  repeat' with_reducible first
    | apply goesOn.refl | assumption | apply keeps_ite | apply State.nextFull_on | apply State.writeInactive_on | apply kset_gauge
    | decide | split

theorem State.endRun_on {kp : List Part} {b0 : State} {s : State} {r : Nat} {kind : Nat} {failed : Bool} (hk : goesOn kp b0 s) (hq : ∀ p ∈ [.gauge], p ∈ kp) :
    goesOn kp b0 (State.endRun s r kind failed) := hk.trans ((State.endRun_keeps s r kind failed).mono hq)

theorem execGaugeRunEnd_keeps (injected : List Injected) (s : State) :
    Out.keeps [.clock, .free, .cmd, .hostMem, .gauge, .pair, .fw, .mbs, .fence, .events, .stats] s (execGaugeRunEnd injected s) := by
  unfold execGaugeRunEnd
  try dsimp only
  repeat' first
    | with_reducible apply goesOn.refl | with_reducible assumption | with_reducible apply keeps_ite
    | (with_reducible apply keeps_foldl; rotate_left 1; intro y a hy) | with_reducible apply State.advance_on
    | with_reducible apply State.endRun_on | with_reducible apply State.judgeChan_on | with_reducible apply out_next
    | with_reducible apply out_fault | with_reducible apply out_ite | with_reducible decide | split

theorem execGaugeRunEnd_on {kp : List Part} {b0 : State} {injected : List Injected} {s : State} (hk : goesOn kp b0 s) (hq : ∀ p ∈ [.clock, .free, .cmd, .hostMem, .gauge, .pair, .fw, .mbs, .fence, .events, .stats], p ∈ kp) :
    Out.keeps kp b0 (execGaugeRunEnd injected s) := .after hk ((execGaugeRunEnd_keeps injected s).mono hq)

theorem State.restoreChan_keeps (s : State) (c : Nat) (w : CalSet) :
    goesOn [.tdc, .gauge, .fence, .events] s (State.restoreChan s c w) := by
  unfold State.restoreChan
  try dsimp only
  repeat' with_reducible first
    | apply goesOn.refl | assumption | apply keeps_ite | apply State.raise_on | apply State.updCG_on | apply State.updTdc_on
    | decide | split

theorem State.restoreChan_on {kp : List Part} {b0 : State} {s : State} {c : Nat} {w : CalSet} (hk : goesOn kp b0 s) (hq : ∀ p ∈ [.tdc, .gauge, .fence, .events], p ∈ kp) :
    goesOn kp b0 (State.restoreChan s c w) := hk.trans ((State.restoreChan_keeps s c w).mono hq)

theorem State.calibrateChan_keeps (s : State) (c : Nat) (w : CalSet) :
    goesOn [.tdc, .gauge, .fence, .events] s (State.calibrateChan s c w) := by
  unfold State.calibrateChan
  try dsimp only
  repeat' with_reducible first
    | apply goesOn.refl | assumption | apply keeps_ite | apply State.judgeChan_on | apply State.updCG_on | apply State.updTdc_on
    | decide | split

theorem State.calibrateChan_on {kp : List Part} {b0 : State} {s : State} {c : Nat} {w : CalSet} (hk : goesOn kp b0 s) (hq : ∀ p ∈ [.tdc, .gauge, .fence, .events], p ∈ kp) :
    goesOn kp b0 (State.calibrateChan s c w) := hk.trans ((State.calibrateChan_keeps s c w).mono hq)

theorem execFullCalibrationDone_keeps (region : Nat) (sets : List CalSet) (s : State) :
    Out.keeps [.tdc, .gauge, .fence, .events] s (execFullCalibrationDone region sets s) := by
  unfold execFullCalibrationDone
  try dsimp only
  repeat' first
    | with_reducible apply goesOn.refl | with_reducible assumption | with_reducible apply keeps_ite
    | (with_reducible apply keeps_foldl; rotate_left 1; intro y a hy) | with_reducible apply State.calibrateChan_on
    | with_reducible apply State.endRun_on | with_reducible apply State.queueRun_on | with_reducible apply State.restoreChan_on
    | with_reducible apply State.updRegion_on | with_reducible apply out_next | with_reducible apply out_fault
    | with_reducible apply out_ite | with_reducible decide | split

theorem execFullCalibrationDone_on {kp : List Part} {b0 : State} {region : Nat} {sets : List CalSet} {s : State} (hk : goesOn kp b0 s) (hq : ∀ p ∈ [.tdc, .gauge, .fence, .events], p ∈ kp) :
    Out.keeps kp b0 (execFullCalibrationDone region sets s) := .after hk ((execFullCalibrationDone_keeps region sets s).mono hq)

theorem State.readBias_keeps (s : State) (cs : List Nat) :
    goesOn [.free, .gauge] s (State.readBias s cs) := by
  unfold State.readBias
  try dsimp only
  repeat' first
    | with_reducible apply goesOn.refl | with_reducible assumption | with_reducible apply keeps_ite
    | (with_reducible apply keeps_foldl; rotate_left 1; intro y a hy) | with_reducible apply State.takeFree_on
    | with_reducible apply State.updCG_on | with_reducible decide | split

theorem State.readBias_on {kp : List Part} {b0 : State} {s : State} {cs : List Nat} (hk : goesOn kp b0 s) (hq : ∀ p ∈ [.free, .gauge], p ∈ kp) :
    goesOn kp b0 (State.readBias s cs) := hk.trans ((State.readBias_keeps s cs).mono hq)

theorem State.commitRegion_keeps (s : State) (r : Nat) :
    goesOn [.free, .tdc, .gauge, .fence, .events] s (State.commitRegion s r).1 := by
  unfold State.commitRegion
  try dsimp only
  repeat' first
    | with_reducible apply goesOn.refl | with_reducible assumption | with_reducible apply keeps_ite
    | (with_reducible apply keeps_foldl; rotate_left 1; intro y a hy) | with_reducible apply State.copyOver_on
    | with_reducible apply State.raise_on | with_reducible apply State.readBias_on | with_reducible apply State.updCG_on
    | with_reducible apply State.updRegion_on | with_reducible apply State.updTdc_on | with_reducible decide | split

theorem State.commitRegion_on {kp : List Part} {b0 : State} {s : State} {r : Nat} (hk : goesOn kp b0 s) (hq : ∀ p ∈ [.free, .tdc, .gauge, .fence, .events], p ∈ kp) :
    goesOn kp b0 (State.commitRegion s r).1 := hk.trans ((State.commitRegion_keeps s r).mono hq)

theorem State.gaugeCommit_keeps (s : State) :
    goesOn [.free, .tdc, .gauge, .fence, .events] s (State.gaugeCommit s).1 := by
  unfold State.gaugeCommit
  try dsimp only
  repeat' first
    | with_reducible apply goesOn.refl | with_reducible assumption | with_reducible apply keeps_ite1
    | (with_reducible apply keeps_foldl1; rotate_left 1; intro y a hy) | with_reducible apply State.commitRegion_on
    | with_reducible decide | with_reducible apply kset_gauge

theorem State.gaugeCommit_on {kp : List Part} {b0 : State} {s : State} (hk : goesOn kp b0 s) (hq : ∀ p ∈ [.free, .tdc, .gauge, .fence, .events], p ∈ kp) :
    goesOn kp b0 (State.gaugeCommit s).1 := hk.trans ((State.gaugeCommit_keeps s).mono hq)

theorem execDllUnlock_keeps (loss : DllLoss) (s : State) :
    Out.keeps [.tdc, .fence, .events] s (execDllUnlock loss s) := by
  unfold execDllUnlock
  try dsimp only
  repeat' with_reducible first
    | apply goesOn.refl | apply State.raise_on | apply State.updTdc_on | apply out_next | apply out_fault | apply out_ite | decide

theorem execDllUnlock_on {kp : List Part} {b0 : State} {loss : DllLoss} {s : State} (hk : goesOn kp b0 s) (hq : ∀ p ∈ [.tdc, .fence, .events], p ∈ kp) :
    Out.keeps kp b0 (execDllUnlock loss s) := .after hk ((execDllUnlock_keeps loss s).mono hq)

theorem execDllRelock_keeps (lock : DllLock) (s : State) :
    Out.keeps [.tdc, .gauge, .fence, .events] s (execDllRelock lock s) := by
  unfold execDllRelock
  try dsimp only
  repeat' with_reducible first
    | apply goesOn.refl | apply State.queueRun_on | apply State.raise_on | apply State.updTdc_on | apply out_next
    | apply out_fault | apply out_ite | decide | split

theorem execDllRelock_on {kp : List Part} {b0 : State} {lock : DllLock} {s : State} (hk : goesOn kp b0 s) (hq : ∀ p ∈ [.tdc, .gauge, .fence, .events], p ∈ kp) :
    Out.keeps kp b0 (execDllRelock lock s) := .after hk ((execDllRelock_keeps lock s).mono hq)

theorem State.lineFault_keeps (s : State) (c : Nat) :
    goesOn [.tdc, .gauge, .fence, .events] s (State.lineFault s c) := by
  unfold State.lineFault
  try dsimp only
  repeat' with_reducible first
    | apply goesOn.refl | assumption | apply keeps_ite | apply State.enterFull_on | decide | split

theorem State.lineFault_on {kp : List Part} {b0 : State} {s : State} {c : Nat} (hk : goesOn kp b0 s) (hq : ∀ p ∈ [.tdc, .gauge, .fence, .events], p ∈ kp) :
    goesOn kp b0 (State.lineFault s c) := hk.trans ((State.lineFault_keeps s c).mono hq)

theorem execDllRelockTimeout_keeps (ch : Nat) (s : State) :
    Out.keeps [.clock, .free, .cmd, .hostMem, .tdc, .gauge, .pair, .fw, .mbs, .fence, .events, .stats] s (execDllRelockTimeout ch s) := by
  unfold execDllRelockTimeout
  try dsimp only
  repeat' with_reducible first
    | apply goesOn.refl | assumption | apply keeps_ite | apply State.advance_on | apply State.lineFault_on | apply out_next
    | apply out_fault | apply out_ite | decide | split

theorem execDllRelockTimeout_on {kp : List Part} {b0 : State} {ch : Nat} {s : State} (hk : goesOn kp b0 s) (hq : ∀ p ∈ [.clock, .free, .cmd, .hostMem, .tdc, .gauge, .pair, .fw, .mbs, .fence, .events, .stats], p ∈ kp) :
    Out.keeps kp b0 (execDllRelockTimeout ch s) := .after hk ((execDllRelockTimeout_keeps ch s).mono hq)

theorem execGaugeCopyCheck_keeps (region : Nat) (aOk : Bool) (bOk : Bool) (bEpoch : Nat) (bCentres : List (Nat × List Nat)) (s : State) :
    Out.keeps [.gauge, .fence, .events] s (execGaugeCopyCheck region aOk bOk bEpoch bCentres s) := by
  unfold execGaugeCopyCheck execGaugeCopyCheck.padTo512
  try dsimp only
  repeat' first
    | with_reducible apply goesOn.refl | with_reducible assumption | with_reducible apply keeps_ite
    | (with_reducible apply keeps_foldl; rotate_left 1; intro y a hy) | with_reducible apply State.copyOver_on
    | with_reducible apply State.queueRun_on | with_reducible apply State.raise_on | with_reducible apply State.updCG_on
    | with_reducible apply State.updRegion_on | with_reducible apply out_next | with_reducible apply out_fault
    | with_reducible apply out_ite | with_reducible decide | split

theorem execGaugeCopyCheck_on {kp : List Part} {b0 : State} {region : Nat} {aOk : Bool} {bOk : Bool} {bEpoch : Nat} {bCentres : List (Nat × List Nat)} {s : State} (hk : goesOn kp b0 s) (hq : ∀ p ∈ [.gauge, .fence, .events], p ∈ kp) :
    Out.keeps kp b0 (execGaugeCopyCheck region aOk bOk bEpoch bCentres s) := .after hk ((execGaugeCopyCheck_keeps region aOk bOk bEpoch bCentres s).mono hq)

theorem State.stageLoad_keeps (s : State) (value : Nat) :
    goesOn [.gauge] s (State.stageLoad s value) := by
  unfold State.stageLoad
  try dsimp only
  repeat' with_reducible first
    | apply goesOn.refl | apply keeps_ite | apply State.updCG_on | decide

theorem State.stageLoad_on {kp : List Part} {b0 : State} {s : State} {value : Nat} (hk : goesOn kp b0 s) (hq : ∀ p ∈ [.gauge], p ∈ kp) :
    goesOn kp b0 (State.stageLoad s value) := hk.trans ((State.stageLoad_keeps s value).mono hq)

theorem execStageLoad_keeps (value : BitVec 32) (s : State) :
    Out.keeps [.gauge] s (execStageLoad value s) := by
  unfold execStageLoad
  try dsimp only
  repeat' with_reducible first
    | apply goesOn.refl | apply State.stageLoad_on | apply out_next | decide

theorem execStageLoad_on {kp : List Part} {b0 : State} {value : BitVec 32} {s : State} (hk : goesOn kp b0 s) (hq : ∀ p ∈ [.gauge], p ∈ kp) :
    Out.keeps kp b0 (execStageLoad value s) := .after hk ((execStageLoad_keeps value s).mono hq)

theorem bodyGaugeConfigure_keeps (trigger : Int) (minInterval : Nat) (target : Nat) (runTimeout : Nat) (retry : Nat) (periodic : Nat) (source18 : Nat) (source19 : Nat) (s : State) :
    Rep.keeps [.gauge] s (bodyGaugeConfigure trigger minInterval target runTimeout retry periodic source18 source19 s) := by
  unfold bodyGaugeConfigure
  try dsimp only
  repeat' with_reducible first
    | apply goesOn.refl | apply kset_gauge | apply rep_ok | apply rep_bad | apply rep_ranges | apply rep_ite | decide

theorem bodyGaugeConfigure_on {kp : List Part} {b0 : State} {trigger : Int} {minInterval : Nat} {target : Nat} {runTimeout : Nat} {retry : Nat} {periodic : Nat} {source18 : Nat} {source19 : Nat} {s : State} (hk : goesOn kp b0 s) (hq : ∀ p ∈ [.gauge], p ∈ kp) :
    Rep.keeps kp b0 (bodyGaugeConfigure trigger minInterval target runTimeout retry periodic source18 source19 s) := .after hk ((bodyGaugeConfigure_keeps trigger minInterval target runTimeout retry periodic source18 source19 s).mono hq)

theorem bodyGaugeRun_keeps (region : Nat) (s : State) :
    Rep.keeps [.gauge] s (bodyGaugeRun region s) := by
  unfold bodyGaugeRun
  try dsimp only
  repeat' first
    | with_reducible apply goesOn.refl | with_reducible assumption | with_reducible apply keeps_ite
    | (with_reducible apply keeps_foldl; rotate_left 1; intro y a hy) | with_reducible apply State.queueRun_on
    | with_reducible apply rep_ok | with_reducible apply rep_bad | with_reducible apply rep_ranges | with_reducible apply rep_ite
    | with_reducible decide

theorem bodyGaugeRun_on {kp : List Part} {b0 : State} {region : Nat} {s : State} (hk : goesOn kp b0 s) (hq : ∀ p ∈ [.gauge], p ∈ kp) :
    Rep.keeps kp b0 (bodyGaugeRun region s) := .after hk ((bodyGaugeRun_keeps region s).mono hq)

theorem bodyGaugeFull_keeps (force : Bool) (region : Nat) (s : State) :
    Rep.keeps [.tdc, .gauge, .core, .contracts, .fw, .fence, .events] s (bodyGaugeFull force region s) := by
  unfold bodyGaugeFull
  try dsimp only
  repeat' with_reducible first
    | apply goesOn.refl | apply State.enterFull_on | apply rep_ok | apply rep_bad | apply rep_ranges | apply rep_ite | decide

theorem bodyGaugeFull_on {kp : List Part} {b0 : State} {force : Bool} {region : Nat} {s : State} (hk : goesOn kp b0 s) (hq : ∀ p ∈ [.tdc, .gauge, .core, .contracts, .fw, .fence, .events], p ∈ kp) :
    Rep.keeps kp b0 (bodyGaugeFull force region s) := .after hk ((bodyGaugeFull_keeps force region s).mono hq)

theorem bodyGaugeGetStatus_keeps (region : Nat) (s : State) :
    Rep.keeps [.free] s (bodyGaugeGetStatus region s) := by
  unfold bodyGaugeGetStatus
  try dsimp only
  repeat' first
    | with_reducible apply goesOn.refl | with_reducible assumption | with_reducible apply keeps_ite
    | (with_reducible apply keeps_foldl; rotate_left 1; intro y a hy) | with_reducible apply State.takeFree_on
    | with_reducible apply Rep.ranges_on | with_reducible apply rep_ok | with_reducible apply rep_fail
    | with_reducible apply rep_range | with_reducible apply rep_bad | with_reducible apply rep_flags
    | with_reducible apply rep_done | with_reducible apply rep_later | with_reducible apply rep_ranges
    | with_reducible apply rep_ite | with_reducible decide | split

theorem bodyGaugeGetStatus_on {kp : List Part} {b0 : State} {region : Nat} {s : State} (hk : goesOn kp b0 s) (hq : ∀ p ∈ [.free], p ∈ kp) :
    Rep.keeps kp b0 (bodyGaugeGetStatus region s) := .after hk ((bodyGaugeGetStatus_keeps region s).mono hq)

theorem bodyGaugeRestore_keeps (force : Bool) (region : Nat) (mode : Nat) (s : State) :
    Rep.keeps [.tdc, .gauge, .core, .contracts, .fw, .fence, .events] s (bodyGaugeRestore force region mode s) := by
  unfold bodyGaugeRestore
  try dsimp only
  repeat' first
    | with_reducible apply goesOn.refl | with_reducible assumption | with_reducible apply keeps_ite
    | (with_reducible apply keeps_foldl; rotate_left 1; intro y a hy) | with_reducible apply State.enterFull_on
    | with_reducible apply State.queueRun_on | with_reducible apply State.updCG_on | with_reducible apply State.updRegion_on
    | with_reducible apply State.writeInactive_on | (with_reducible apply keeps_some; case e => with_reducible assumption)
    | with_reducible apply keeps_getD | with_reducible apply Rep.badState_on | with_reducible apply Rep.ranges_on
    | with_reducible apply State.force_on | with_reducible apply rep_ok | with_reducible apply rep_fail
    | with_reducible apply rep_range | with_reducible apply rep_bad | with_reducible apply rep_flags
    | with_reducible apply rep_done | with_reducible apply rep_later | with_reducible apply rep_ranges
    | with_reducible apply rep_ite | with_reducible decide | split

theorem bodyGaugeRestore_on {kp : List Part} {b0 : State} {force : Bool} {region : Nat} {mode : Nat} {s : State} (hk : goesOn kp b0 s) (hq : ∀ p ∈ [.tdc, .gauge, .core, .contracts, .fw, .fence, .events], p ∈ kp) :
    Rep.keeps kp b0 (bodyGaugeRestore force region mode s) := .after hk ((bodyGaugeRestore_keeps force region mode s).mono hq)

theorem bodyGaugeHold_keeps (duration : Nat) (s : State) :
    Rep.keeps [.gauge] s (bodyGaugeHold duration s) := by
  unfold bodyGaugeHold
  try dsimp only
  repeat' with_reducible first
    | apply goesOn.refl | apply kset_gauge | apply rep_ok | apply rep_ranges | decide

theorem bodyGaugeHold_on {kp : List Part} {b0 : State} {duration : Nat} {s : State} (hk : goesOn kp b0 s) (hq : ∀ p ∈ [.gauge], p ∈ kp) :
    Rep.keeps kp b0 (bodyGaugeHold duration s) := .after hk ((bodyGaugeHold_keeps duration s).mono hq)

theorem execGaugeConfigure_keeps (src : CmdSrc) (trigger : Int) (minInterval : Nat) (target : Nat) (runTimeout : Nat) (retry : Nat) (periodic : Nat) (source18 : Nat) (source19 : Nat) (s : State) :
    Out.keeps [.cmd, .hostMem, .glob, .gauge, .pair, .fw, .mbs, .fence, .events] s (execGaugeConfigure src trigger minInterval target runTimeout retry periodic source18 source19 s) := by
  unfold execGaugeConfigure
  try dsimp only
  repeat' first
    | with_reducible apply goesOn.refl | with_reducible apply out_next
    | (with_reducible apply keeps_runCmd; rotate_left 1; intro y) | with_reducible apply bodyGaugeConfigure_on
    | with_reducible decide

theorem execGaugeConfigure_on {kp : List Part} {b0 : State} {src : CmdSrc} {trigger : Int} {minInterval : Nat} {target : Nat} {runTimeout : Nat} {retry : Nat} {periodic : Nat} {source18 : Nat} {source19 : Nat} {s : State} (hk : goesOn kp b0 s) (hq : ∀ p ∈ [.cmd, .hostMem, .glob, .gauge, .pair, .fw, .mbs, .fence, .events], p ∈ kp) :
    Out.keeps kp b0 (execGaugeConfigure src trigger minInterval target runTimeout retry periodic source18 source19 s) := .after hk ((execGaugeConfigure_keeps src trigger minInterval target runTimeout retry periodic source18 source19 s).mono hq)

theorem execGaugeRun_keeps (src : CmdSrc) (region : Nat) (s : State) :
    Out.keeps [.cmd, .hostMem, .glob, .gauge, .pair, .fw, .mbs, .fence, .events] s (execGaugeRun src region s) := by
  unfold execGaugeRun
  try dsimp only
  repeat' first
    | with_reducible apply goesOn.refl | with_reducible apply out_next
    | (with_reducible apply keeps_runCmd; rotate_left 1; intro y) | with_reducible apply bodyGaugeRun_on | with_reducible decide

theorem execGaugeRun_on {kp : List Part} {b0 : State} {src : CmdSrc} {region : Nat} {s : State} (hk : goesOn kp b0 s) (hq : ∀ p ∈ [.cmd, .hostMem, .glob, .gauge, .pair, .fw, .mbs, .fence, .events], p ∈ kp) :
    Out.keeps kp b0 (execGaugeRun src region s) := .after hk ((execGaugeRun_keeps src region s).mono hq)

theorem execGaugeFull_keeps (src : CmdSrc) (force : Bool) (region : Nat) (s : State) :
    Out.keeps [.cmd, .hostMem, .glob, .tdc, .gauge, .core, .contracts, .pair, .fw, .mbs, .fence, .events] s (execGaugeFull src force region s) := by
  unfold execGaugeFull
  try dsimp only
  repeat' first
    | with_reducible apply goesOn.refl | with_reducible apply out_next
    | (with_reducible apply keeps_runCmd; rotate_left 1; intro y) | with_reducible apply bodyGaugeFull_on | with_reducible decide

theorem execGaugeFull_on {kp : List Part} {b0 : State} {src : CmdSrc} {force : Bool} {region : Nat} {s : State} (hk : goesOn kp b0 s) (hq : ∀ p ∈ [.cmd, .hostMem, .glob, .tdc, .gauge, .core, .contracts, .pair, .fw, .mbs, .fence, .events], p ∈ kp) :
    Out.keeps kp b0 (execGaugeFull src force region s) := .after hk ((execGaugeFull_keeps src force region s).mono hq)

theorem execGaugeGetStatus_keeps (src : CmdSrc) (region : Nat) (s : State) :
    Out.keeps [.free, .cmd, .hostMem, .glob, .pair, .fw, .mbs, .fence, .events] s (execGaugeGetStatus src region s) := by
  unfold execGaugeGetStatus
  try dsimp only
  repeat' first
    | with_reducible apply goesOn.refl | with_reducible apply out_next
    | (with_reducible apply keeps_runCmd; rotate_left 1; intro y) | with_reducible apply bodyGaugeGetStatus_on
    | with_reducible decide

theorem execGaugeGetStatus_on {kp : List Part} {b0 : State} {src : CmdSrc} {region : Nat} {s : State} (hk : goesOn kp b0 s) (hq : ∀ p ∈ [.free, .cmd, .hostMem, .glob, .pair, .fw, .mbs, .fence, .events], p ∈ kp) :
    Out.keeps kp b0 (execGaugeGetStatus src region s) := .after hk ((execGaugeGetStatus_keeps src region s).mono hq)

theorem execGaugeRestore_keeps (src : CmdSrc) (force : Bool) (region : Nat) (mode : Nat) (s : State) :
    Out.keeps [.cmd, .hostMem, .glob, .tdc, .gauge, .core, .contracts, .pair, .fw, .mbs, .fence, .events] s (execGaugeRestore src force region mode s) := by
  unfold execGaugeRestore
  try dsimp only
  repeat' first
    | with_reducible apply goesOn.refl | with_reducible apply out_next
    | (with_reducible apply keeps_runCmd; rotate_left 1; intro y) | with_reducible apply bodyGaugeRestore_on
    | with_reducible decide

theorem execGaugeRestore_on {kp : List Part} {b0 : State} {src : CmdSrc} {force : Bool} {region : Nat} {mode : Nat} {s : State} (hk : goesOn kp b0 s) (hq : ∀ p ∈ [.cmd, .hostMem, .glob, .tdc, .gauge, .core, .contracts, .pair, .fw, .mbs, .fence, .events], p ∈ kp) :
    Out.keeps kp b0 (execGaugeRestore src force region mode s) := .after hk ((execGaugeRestore_keeps src force region mode s).mono hq)

theorem execGaugeHold_keeps (src : CmdSrc) (duration : Nat) (s : State) :
    Out.keeps [.cmd, .hostMem, .glob, .gauge, .pair, .fw, .mbs, .fence, .events] s (execGaugeHold src duration s) := by
  unfold execGaugeHold
  try dsimp only
  repeat' first
    | with_reducible apply goesOn.refl | with_reducible apply out_next
    | (with_reducible apply keeps_runCmd; rotate_left 1; intro y) | with_reducible apply bodyGaugeHold_on | with_reducible decide

theorem execGaugeHold_on {kp : List Part} {b0 : State} {src : CmdSrc} {duration : Nat} {s : State} (hk : goesOn kp b0 s) (hq : ∀ p ∈ [.cmd, .hostMem, .glob, .gauge, .pair, .fw, .mbs, .fence, .events], p ∈ kp) :
    Out.keeps kp b0 (execGaugeHold src duration s) := .after hk ((execGaugeHold_keeps src duration s).mono hq)

end Sys2Proof.Machine
end

