-- ==== Sys2Proof/Laws/Keeps/Streams.lean ====
section
/-!
SUPPORT. Which parts of the state each operation of Streams.lean touches.
-/
namespace Sys2Proof.Machine

theorem State.tsqMiss_keeps (s : State) (q : Nat) (n : Nat) :
    goesOn [.time, .events] s (State.tsqMiss s q n) := by
  unfold State.tsqMiss
  try dsimp only
  repeat' with_reducible first
    | apply goesOn.refl | assumption | apply keeps_ite | apply State.hwCount_on | apply State.hwSet_on | apply State.updTsq_on
    | decide | split

theorem State.tsqMiss_on {kp : List Part} {b0 : State} {s : State} {q : Nat} {n : Nat} (hk : goesOn kp b0 s) (hq : ∀ p ∈ [.time, .events], p ∈ kp) :
    goesOn kp b0 (State.tsqMiss s q n) := hk.trans ((State.tsqMiss_keeps s q n).mono hq)

theorem State.tsqStore_keeps (s : State) (q : Nat) (e : TsqEntry) :
    goesOn [.time, .fence, .events] s (State.tsqStore s q e) := by
  unfold State.tsqStore
  try dsimp only
  repeat' with_reducible first
    | apply goesOn.refl | assumption | apply keeps_ite | apply State.hwSet_on | apply State.raise_on | apply State.updTsq_on
    | decide | split

theorem State.tsqStore_on {kp : List Part} {b0 : State} {s : State} {q : Nat} {e : TsqEntry} (hk : goesOn kp b0 s) (hq : ∀ p ∈ [.time, .fence, .events], p ∈ kp) :
    goesOn kp b0 (State.tsqStore s q e) := hk.trans ((State.tsqStore_keeps s q e).mono hq)

theorem State.tsqPoke_keeps (kk : Nat) (s : State) (q : Nat) :
    goesOn [.time, .fence, .events] s (State.tsqPoke s q kk) := by
  induction kk generalizing s q with
  | zero => exact .refl _ _
  | succ kk ih =>
    have ihon : ∀ {b0 : State} (s : State) (q : Nat), goesOn [.time, .fence, .events] b0 s → goesOn [.time, .fence, .events] b0 (State.tsqPoke s q kk) := fun s q h => h.trans (ih _ _ )
    unfold State.tsqPoke
    try dsimp only
    repeat' with_reducible first
      | apply ihon | apply goesOn.refl | apply keeps_ite | apply State.tsqStore_on | apply State.updTsq_on | decide | split | apply kset_fence

theorem State.tsqPoke_on {kp : List Part} {b0 : State} {s : State} {q : Nat} {kk : Nat} (hk : goesOn kp b0 s) (hq : ∀ p ∈ [.time, .fence, .events], p ∈ kp) :
    goesOn kp b0 (State.tsqPoke s q kk) := hk.trans ((State.tsqPoke_keeps kk s q).mono hq)

theorem State.tsqDisable_keeps (s : State) (q : Nat) :
    goesOn [.time, .events] s (State.tsqDisable s q) := by
  unfold State.tsqDisable
  try dsimp only
  repeat' with_reducible first
    | apply goesOn.refl | assumption | apply keeps_ite | apply State.tsqMiss_on | apply State.updTsq_on | decide | split

theorem State.tsqDisable_on {kp : List Part} {b0 : State} {s : State} {q : Nat} (hk : goesOn kp b0 s) (hq : ∀ p ∈ [.time, .events], p ∈ kp) :
    goesOn kp b0 (State.tsqDisable s q) := hk.trans ((State.tsqDisable_keeps s q).mono hq)

theorem State.tsqEnd_keeps (s : State) (q : Nat) (r : TsqReq) (e : TsqEntry) :
    goesOn [.time, .fence, .events] s (State.tsqEnd s q r e) := by
  unfold State.tsqEnd
  try dsimp only
  repeat' with_reducible first
    | apply goesOn.refl | assumption | apply keeps_ite | apply State.tsqMiss_on | apply State.tsqPoke_on | apply State.updTsq_on
    | decide | split

theorem State.tsqEnd_on {kp : List Part} {b0 : State} {s : State} {q : Nat} {r : TsqReq} {e : TsqEntry} (hk : goesOn kp b0 s) (hq : ∀ p ∈ [.time, .fence, .events], p ∈ kp) :
    goesOn kp b0 (State.tsqEnd s q r e) := hk.trans ((State.tsqEnd_keeps s q r e).mono hq)

theorem State.tsqCopy_keeps (s : State) (f : Nat) (p : Nat) (stamp : Option (Nat × Nat)) (reason : Nat) :
    goesOn [.time, .fence, .events] s (State.tsqCopy s f p stamp reason) := by
  unfold State.tsqCopy
  try dsimp only
  repeat' with_reducible first
    | apply goesOn.refl | apply keeps_ite | apply State.tsqEnd_on | apply State.updTsq_on | decide | split

theorem State.tsqCopy_on {kp : List Part} {b0 : State} {s : State} {f : Nat} {p : Nat} {stamp : Option (Nat × Nat)} {reason : Nat} (hk : goesOn kp b0 s) (hq : ∀ p ∈ [.time, .fence, .events], p ∈ kp) :
    goesOn kp b0 (State.tsqCopy s f p stamp reason) := hk.trans ((State.tsqCopy_keeps s f p stamp reason).mono hq)

theorem State.updCap_keeps (s : State) (f : Capture → Capture) :
    goesOn [.core] s (State.updCap s f) := by
  unfold State.updCap
  try dsimp only
  repeat' with_reducible first
    | apply goesOn.refl | apply kset_core | decide

theorem State.updCap_on {kp : List Part} {b0 : State} {s : State} {f : Capture → Capture} (hk : goesOn kp b0 s) (hq : ∀ p ∈ [.core], p ∈ kp) :
    goesOn kp b0 (State.updCap s f) := hk.trans ((State.updCap_keeps s f).mono hq)

theorem State.capStore_keeps (s : State) (r : CapRec) :
    goesOn [.core, .fence, .events] s (State.capStore s r) := by
  unfold State.capStore
  try dsimp only
  repeat' with_reducible first
    | apply goesOn.refl | assumption | apply keeps_ite | apply State.hwSet_on | apply State.raise_on | apply State.updCap_on
    | decide | split

theorem State.capStore_on {kp : List Part} {b0 : State} {s : State} {r : CapRec} (hk : goesOn kp b0 s) (hq : ∀ p ∈ [.core, .fence, .events], p ∈ kp) :
    goesOn kp b0 (State.capStore s r) := hk.trans ((State.capStore_keeps s r).mono hq)

theorem State.capWrite_keeps (s : State) (r : CapRec) :
    goesOn [.core, .fence, .events] s (State.capWrite s r) := by
  unfold State.capWrite
  try dsimp only
  repeat' with_reducible first
    | apply goesOn.refl | apply keeps_ite | apply State.capStore_on | decide

theorem State.capWrite_on {kp : List Part} {b0 : State} {s : State} {r : CapRec} (hk : goesOn kp b0 s) (hq : ∀ p ∈ [.core, .fence, .events], p ∈ kp) :
    goesOn kp b0 (State.capWrite s r) := hk.trans ((State.capWrite_keeps s r).mono hq)

theorem State.capDrain_keeps (kk : Nat) (s : State) :
    goesOn [.core, .fence, .events] s (State.capDrain s kk) := by
  induction kk generalizing s with
  | zero => exact .refl _ _
  | succ kk ih =>
    have ihon : ∀ {b0 : State} (s : State), goesOn [.core, .fence, .events] b0 s → goesOn [.core, .fence, .events] b0 (State.capDrain s kk) := fun s h => h.trans (ih _ )
    unfold State.capDrain
    try dsimp only
    repeat' with_reducible first
      | apply ihon | apply goesOn.refl | apply keeps_ite | apply State.capWrite_on | apply State.raise_on | apply State.updCap_on | decide
      | split

theorem State.capDrain_on {kp : List Part} {b0 : State} {s : State} {kk : Nat} (hk : goesOn kp b0 s) (hq : ∀ p ∈ [.core, .fence, .events], p ∈ kp) :
    goesOn kp b0 (State.capDrain s kk) := hk.trans ((State.capDrain_keeps kk s).mono hq)

theorem State.capMiss_keeps (s : State) :
    goesOn [.core, .events] s (State.capMiss s) := by
  unfold State.capMiss
  try dsimp only
  repeat' with_reducible first
    | apply goesOn.refl | assumption | apply keeps_ite | apply State.hwCount_on | apply State.hwSet_on | apply State.updCap_on
    | decide | split

theorem State.capMiss_on {kp : List Part} {b0 : State} {s : State} (hk : goesOn kp b0 s) (hq : ∀ p ∈ [.core, .events], p ∈ kp) :
    goesOn kp b0 (State.capMiss s) := hk.trans ((State.capMiss_keeps s).mono hq)

theorem State.capBusy_keeps (s : State) :
    goesOn [.free] s (State.capBusy s).1 := by
  unfold State.capBusy
  try dsimp only
  repeat' with_reducible first
    | apply goesOn.refl | assumption | apply keeps_ite | apply State.takeFree_on | decide | split

theorem State.capBusy_on {kp : List Part} {b0 : State} {s : State} (hk : goesOn kp b0 s) (hq : ∀ p ∈ [.free], p ∈ kp) :
    goesOn kp b0 (State.capBusy s).1 := hk.trans ((State.capBusy_keeps s).mono hq)

theorem State.capPut_keeps (s : State) (r : CapRec) :
    goesOn [.free, .core, .fence, .events] s (State.capPut s r) := by
  unfold State.capPut
  try dsimp only
  repeat' with_reducible first
    | apply goesOn.refl | assumption | apply keeps_ite | apply State.capBusy_on | apply State.capDrain_on | apply State.capMiss_on
    | apply State.capWrite_on | apply State.updCap_on | decide | split

theorem State.capPut_on {kp : List Part} {b0 : State} {s : State} {r : CapRec} (hk : goesOn kp b0 s) (hq : ∀ p ∈ [.free, .core, .fence, .events], p ∈ kp) :
    goesOn kp b0 (State.capPut s r) := hk.trans ((State.capPut_keeps s r).mono hq)

theorem State.capMarkerDue_keeps (s : State) :
    goesOn [.core, .fence, .events] s (State.capMarkerDue s) := by
  unfold State.capMarkerDue
  try dsimp only
  repeat' with_reducible first
    | apply goesOn.refl | apply keeps_ite | apply State.capDrain_on | apply State.updCap_on | decide | split | apply kset_fence

theorem State.capMarkerDue_on {kp : List Part} {b0 : State} {s : State} (hk : goesOn kp b0 s) (hq : ∀ p ∈ [.core, .fence, .events], p ∈ kp) :
    goesOn kp b0 (State.capMarkerDue s) := hk.trans ((State.capMarkerDue_keeps s).mono hq)

theorem State.capMarks_keeps (kk : Nat) (s : State) (cause : Nat) :
    goesOn [.core, .fence, .events] s (State.capMarks s cause kk).1 := by
  induction kk generalizing s cause with
  | zero => exact .refl _ _
  | succ kk ih =>
    have ihon : ∀ {b0 : State} (s : State) (cause : Nat), goesOn [.core, .fence, .events] b0 s → goesOn [.core, .fence, .events] b0 (State.capMarks s cause kk).1 := fun s cause h => h.trans (ih _ _ )
    unfold State.capMarks
    try dsimp only
    repeat' with_reducible first
      | apply ihon | apply goesOn.refl | assumption | apply keeps_ite | apply State.capMarkerDue_on | decide | split

theorem State.capMarks_on {kp : List Part} {b0 : State} {s : State} {cause : Nat} {kk : Nat} (hk : goesOn kp b0 s) (hq : ∀ p ∈ [.core, .fence, .events], p ∈ kp) :
    goesOn kp b0 (State.capMarks s cause kk).1 := hk.trans ((State.capMarks_keeps kk s cause).mono hq)

theorem State.capTake_keeps (s : State) (cause : Nat) (r : CapRec) :
    goesOn [.free, .core, .fence, .events] s (State.capTake s cause r) := by
  unfold State.capTake
  try dsimp only
  repeat' with_reducible first
    | apply goesOn.refl | assumption | apply keeps_ite | apply State.capMarks_on | apply State.capPut_on | apply State.updCap_on
    | decide | split

theorem State.capTake_on {kp : List Part} {b0 : State} {s : State} {cause : Nat} {r : CapRec} (hk : goesOn kp b0 s) (hq : ∀ p ∈ [.free, .core, .fence, .events], p ∈ kp) :
    goesOn kp b0 (State.capTake s cause r) := hk.trans ((State.capTake_keeps s cause r).mono hq)

theorem State.capFlush_keeps (s : State) :
    goesOn [.free, .core, .fence, .events] s (State.capFlush s) := by
  unfold State.capFlush
  try dsimp only
  repeat' first
    | with_reducible apply goesOn.refl | with_reducible assumption | with_reducible apply keeps_ite
    | (with_reducible apply keeps_foldl; rotate_left 1; intro y a hy) | with_reducible apply State.capTake_on
    | with_reducible apply State.updCap_on | with_reducible decide | split

theorem State.capFlush_on {kp : List Part} {b0 : State} {s : State} (hk : goesOn kp b0 s) (hq : ∀ p ∈ [.free, .core, .fence, .events], p ∈ kp) :
    goesOn kp b0 (State.capFlush s) := hk.trans ((State.capFlush_keeps s).mono hq)

theorem State.captureFrame_keeps (s : State) (n : Nat) (cause : Nat) (r : CapRec) :
    goesOn [.free, .core, .fence, .events] s (State.captureFrame s n cause r) := by
  unfold State.captureFrame
  try dsimp only
  repeat' with_reducible first
    | apply goesOn.refl | assumption | apply keeps_ite | apply State.capTake_on | apply State.updFrame_on | decide | split

theorem State.captureFrame_on {kp : List Part} {b0 : State} {s : State} {n : Nat} {cause : Nat} {r : CapRec} (hk : goesOn kp b0 s) (hq : ∀ p ∈ [.free, .core, .fence, .events], p ∈ kp) :
    goesOn kp b0 (State.captureFrame s n cause r) := hk.trans ((State.captureFrame_keeps s n cause r).mono hq)

theorem State.captureCopy_keeps (s : State) (n : Nat) (t : Nat) (p : Nat) (tc : Nat) (kindOf : Nat) (reason : Nat) :
    goesOn [.free, .core, .fence, .events] s (State.captureCopy s n t p tc kindOf reason) := by
  unfold State.captureCopy
  try dsimp only
  repeat' with_reducible first
    | apply goesOn.refl | assumption | apply keeps_ite | apply State.captureFrame_on | decide | split

theorem State.captureCopy_on {kp : List Part} {b0 : State} {s : State} {n : Nat} {t : Nat} {p : Nat} {tc : Nat} {kindOf : Nat} {reason : Nat} (hk : goesOn kp b0 s) (hq : ∀ p ∈ [.free, .core, .fence, .events], p ∈ kp) :
    goesOn kp b0 (State.captureCopy s n t p tc kindOf reason) := hk.trans ((State.captureCopy_keeps s n t p tc kindOf reason).mono hq)

theorem State.capAdvance_keeps (s : State) (value : BitVec 32) :
    goesOn [.core, .fence, .events] s (State.capAdvance s value) := by
  unfold State.capAdvance
  try dsimp only
  repeat' with_reducible first
    | apply goesOn.refl | apply State.capDrain_on | apply State.updCap_on | decide

theorem State.capAdvance_on {kp : List Part} {b0 : State} {s : State} {value : BitVec 32} (hk : goesOn kp b0 s) (hq : ∀ p ∈ [.core, .fence, .events], p ∈ kp) :
    goesOn kp b0 (State.capAdvance s value) := hk.trans ((State.capAdvance_keeps s value).mono hq)

theorem execCapRdCountWrite_keeps (value : BitVec 32) (s : State) :
    Out.keeps [.core, .fence, .events] s (execCapRdCountWrite value s) := by
  unfold execCapRdCountWrite
  try dsimp only
  repeat' with_reducible first
    | apply goesOn.refl | apply State.badAccess_on | apply State.capAdvance_on | apply State.raise_on | apply out_next
    | apply out_ite | decide

theorem execCapRdCountWrite_on {kp : List Part} {b0 : State} {value : BitVec 32} {s : State} (hk : goesOn kp b0 s) (hq : ∀ p ∈ [.core, .fence, .events], p ∈ kp) :
    Out.keeps kp b0 (execCapRdCountWrite value s) := .after hk ((execCapRdCountWrite_keeps value s).mono hq)

theorem execCapTimeout_keeps (s : State) :
    Out.keeps [.clock, .free, .cmd, .hostMem, .core, .pair, .fw, .mbs, .fence, .events, .stats] s (execCapTimeout s) := by
  unfold execCapTimeout
  try dsimp only
  repeat' with_reducible first
    | apply goesOn.refl | apply State.advance_on | apply State.raise_on | apply State.updCap_on | apply out_next | apply out_ite
    | decide

theorem execCapTimeout_on {kp : List Part} {b0 : State} {s : State} (hk : goesOn kp b0 s) (hq : ∀ p ∈ [.clock, .free, .cmd, .hostMem, .core, .pair, .fw, .mbs, .fence, .events, .stats], p ∈ kp) :
    Out.keeps kp b0 (execCapTimeout s) := .after hk ((execCapTimeout_keeps s).mono hq)

theorem bodyCaptureConfigure_keeps (enable : Bool) (trigger : Nat) (snap : Nat) (port : Nat) (k : Nat) (mask : BitVec 256) (s : State) :
    Rep.keeps [.core] s (bodyCaptureConfigure enable trigger snap port k mask s) := by
  unfold bodyCaptureConfigure
  try dsimp only
  repeat' with_reducible first
    | apply goesOn.refl | apply State.updCap_on | apply rep_ok | apply rep_ranges | decide

theorem bodyCaptureConfigure_on {kp : List Part} {b0 : State} {enable : Bool} {trigger : Nat} {snap : Nat} {port : Nat} {k : Nat} {mask : BitVec 256} {s : State} (hk : goesOn kp b0 s) (hq : ∀ p ∈ [.core], p ∈ kp) :
    Rep.keeps kp b0 (bodyCaptureConfigure enable trigger snap port k mask s) := .after hk ((bodyCaptureConfigure_keeps enable trigger snap port k mask s).mono hq)

theorem execCaptureConfigure_keeps (src : CmdSrc) (enable : Bool) (trigger : Nat) (snap : Nat) (port : Nat) (k : Nat) (mask : BitVec 256) (s : State) :
    Out.keeps [.cmd, .hostMem, .glob, .core, .pair, .fw, .mbs, .fence, .events] s (execCaptureConfigure src enable trigger snap port k mask s) := by
  unfold execCaptureConfigure
  try dsimp only
  repeat' first
    | with_reducible apply goesOn.refl | with_reducible apply out_next
    | (with_reducible apply keeps_runCmd; rotate_left 1; intro y) | with_reducible apply bodyCaptureConfigure_on
    | with_reducible decide

theorem execCaptureConfigure_on {kp : List Part} {b0 : State} {src : CmdSrc} {enable : Bool} {trigger : Nat} {snap : Nat} {port : Nat} {k : Nat} {mask : BitVec 256} {s : State} (hk : goesOn kp b0 s) (hq : ∀ p ∈ [.cmd, .hostMem, .glob, .core, .pair, .fw, .mbs, .fence, .events], p ∈ kp) :
    Out.keeps kp b0 (execCaptureConfigure src enable trigger snap port k mask s) := .after hk ((execCaptureConfigure_keeps src enable trigger snap port k mask s).mono hq)

theorem State.tsqAdvance_keeps (s : State) (q : Nat) (value : BitVec 32) :
    goesOn [.time, .fence, .events] s (State.tsqAdvance s q value) := by
  unfold State.tsqAdvance
  try dsimp only
  repeat' with_reducible first
    | apply goesOn.refl | apply State.tsqPoke_on | apply State.updTsq_on | decide

theorem State.tsqAdvance_on {kp : List Part} {b0 : State} {s : State} {q : Nat} {value : BitVec 32} (hk : goesOn kp b0 s) (hq : ∀ p ∈ [.time, .fence, .events], p ∈ kp) :
    goesOn kp b0 (State.tsqAdvance s q value) := hk.trans ((State.tsqAdvance_keeps s q value).mono hq)

theorem execTsqRdCountWrite_keeps (queue : Nat) (value : BitVec 32) (s : State) :
    Out.keeps [.time, .fence, .events] s (execTsqRdCountWrite queue value s) := by
  unfold execTsqRdCountWrite
  try dsimp only
  repeat' with_reducible first
    | apply goesOn.refl | apply State.badAccess_on | apply State.raise_on | apply State.tsqAdvance_on | apply out_next
    | apply out_fault | apply out_ite | decide

theorem execTsqRdCountWrite_on {kp : List Part} {b0 : State} {queue : Nat} {value : BitVec 32} {s : State} (hk : goesOn kp b0 s) (hq : ∀ p ∈ [.time, .fence, .events], p ∈ kp) :
    Out.keeps kp b0 (execTsqRdCountWrite queue value s) := .after hk ((execTsqRdCountWrite_keeps queue value s).mono hq)

end Sys2Proof.Machine
end

