-- ==== Sys2Proof/Laws/Keeps/Roles.lean ====
section
/-!
SUPPORT. Which parts of the state each operation of Roles.lean touches.
-/
namespace Sys2Proof.Machine

theorem State.followControl_keeps (s : State) :
    goesOn [.time, .fence, .events] s (State.followControl s) := by
  unfold State.followControl
  try dsimp only
  repeat' with_reducible first
    | apply goesOn.refl | apply keeps_ite | apply State.raise_on | apply kset_time | decide

theorem State.followControl_on {kp : List Part} {b0 : State} {s : State} (hk : goesOn kp b0 s) (hq : ∀ p ∈ [.time, .fence, .events], p ∈ kp) :
    goesOn kp b0 (State.followControl s) := hk.trans ((State.followControl_keeps s).mono hq)

theorem State.setRole_keeps (s : State) (r : Role) :
    goesOn [.time, .pair, .fence, .events] s (State.setRole s r) := by
  unfold State.setRole
  try dsimp only
  repeat' with_reducible first
    | apply goesOn.refl | apply keeps_ite | apply State.followControl_on | apply State.raise_on | apply kset_pair | decide

theorem State.setRole_on {kp : List Part} {b0 : State} {s : State} {r : Role} (hk : goesOn kp b0 s) (hq : ∀ p ∈ [.time, .pair, .fence, .events], p ∈ kp) :
    goesOn kp b0 (State.setRole s r) := hk.trans ((State.setRole_keeps s r).mono hq)

theorem State.becomeActive_keeps (s : State) :
    goesOn [.time, .pair, .fence, .events] s (State.becomeActive s) := by
  unfold State.becomeActive
  try dsimp only
  repeat' with_reducible first
    | apply goesOn.refl | apply State.setRole_on | apply kset_pair | decide

theorem State.becomeActive_on {kp : List Part} {b0 : State} {s : State} (hk : goesOn kp b0 s) (hq : ∀ p ∈ [.time, .pair, .fence, .events], p ∈ kp) :
    goesOn kp b0 (State.becomeActive s) := hk.trans ((State.becomeActive_keeps s).mono hq)

theorem State.enterSyncing_keeps (s : State) :
    goesOn [.time, .pair, .fence, .events] s (State.enterSyncing s) := by
  unfold State.enterSyncing
  try dsimp only
  repeat' with_reducible first
    | apply goesOn.refl | apply State.setRole_on | apply kset_pair | decide

theorem State.enterSyncing_on {kp : List Part} {b0 : State} {s : State} (hk : goesOn kp b0 s) (hq : ∀ p ∈ [.time, .pair, .fence, .events], p ∈ kp) :
    goesOn kp b0 (State.enterSyncing s) := hk.trans ((State.enterSyncing_keeps s).mono hq)

theorem State.diverge_keeps (s : State) (src : Nat) (b : Nat) :
    goesOn [.time, .pair, .fence, .events] s (State.diverge s src b) := by
  unfold State.diverge
  try dsimp only
  repeat' with_reducible first
    | apply goesOn.refl | apply keeps_ite | apply State.enterSyncing_on | apply State.raise_on | decide

theorem State.diverge_on {kp : List Part} {b0 : State} {s : State} {src : Nat} {b : Nat} (hk : goesOn kp b0 s) (hq : ∀ p ∈ [.time, .pair, .fence, .events], p ∈ kp) :
    goesOn kp b0 (State.diverge s src b) := hk.trans ((State.diverge_keeps s src b).mono hq)

theorem State.pairCount_keeps (s : State) (k : Nat) :
    goesOn [.pair] s (State.pairCount s k) := by
  unfold State.pairCount
  try dsimp only
  repeat' with_reducible first
    | apply goesOn.refl | apply kset_pair | decide

theorem State.pairCount_on {kp : List Part} {b0 : State} {s : State} {k : Nat} (hk : goesOn kp b0 s) (hq : ∀ p ∈ [.pair], p ∈ kp) :
    goesOn kp b0 (State.pairCount s k) := hk.trans ((State.pairCount_keeps s k).mono hq)

theorem State.updDup_keeps (s : State) (src : Nat) (f : DupEntry → DupEntry) :
    goesOn [.pair] s (State.updDup s src f) := by
  unfold State.updDup
  try dsimp only
  repeat' with_reducible first
    | apply goesOn.refl | apply kset_pair | decide

theorem State.updDup_on {kp : List Part} {b0 : State} {s : State} {src : Nat} {f : DupEntry → DupEntry} (hk : goesOn kp b0 s) (hq : ∀ p ∈ [.pair], p ∈ kp) :
    goesOn kp b0 (State.updDup s src f) := hk.trans ((State.updDup_keeps s src f).mono hq)

theorem State.updBlock_keeps (s : State) (src : Nat) (b : Nat) (f : DigestRec → DigestRec) :
    goesOn [.pair] s (State.updBlock s src b f) := by
  unfold State.updBlock
  try dsimp only
  repeat' with_reducible first
    | apply goesOn.refl | apply kset_pair | decide

theorem State.updBlock_on {kp : List Part} {b0 : State} {s : State} {src : Nat} {b : Nat} {f : DigestRec → DigestRec} (hk : goesOn kp b0 s) (hq : ∀ p ∈ [.pair], p ∈ kp) :
    goesOn kp b0 (State.updBlock s src b f) := hk.trans ((State.updBlock_keeps s src b f).mono hq)

theorem State.compareWith_keeps (s : State) (src : Nat) (b : Nat) (a : DigestRec) (p : DigestRec) :
    goesOn [.time, .pair, .fence, .events] s (State.compareWith s src b a p) := by
  unfold State.compareWith
  try dsimp only
  repeat' with_reducible first
    | apply goesOn.refl | assumption | apply keeps_ite | apply keeps_ite1 | apply keeps_ite2 | apply State.diverge_on
    | apply State.hwCount_on | apply State.pairCount_on | apply State.raise_on | apply State.updDup_on
    | (apply keeps_fst; case e => assumption) | (apply keeps_snd; case e => assumption) | decide | split | apply kset_pair

theorem State.compareWith_on {kp : List Part} {b0 : State} {s : State} {src : Nat} {b : Nat} {a : DigestRec} {p : DigestRec} (hk : goesOn kp b0 s) (hq : ∀ p ∈ [.time, .pair, .fence, .events], p ∈ kp) :
    goesOn kp b0 (State.compareWith s src b a p) := hk.trans ((State.compareWith_keeps s src b a p).mono hq)

theorem State.compareBlock_keeps (s : State) (src : Nat) (b : Nat) :
    goesOn [.time, .pair, .fence, .events] s (State.compareBlock s src b) := by
  unfold State.compareBlock
  try dsimp only
  repeat' with_reducible first
    | apply goesOn.refl | apply keeps_ite | apply State.compareWith_on | decide | split

theorem State.compareBlock_on {kp : List Part} {b0 : State} {s : State} {src : Nat} {b : Nat} (hk : goesOn kp b0 s) (hq : ∀ p ∈ [.time, .pair, .fence, .events], p ∈ kp) :
    goesOn kp b0 (State.compareBlock s src b) := hk.trans ((State.compareBlock_keeps s src b).mono hq)

end Sys2Proof.Machine
end

