-- ==== Sys2Proof/Laws/Keeps/Copies.lean ====
section
/-!
SUPPORT. Which parts of the state each operation of Copies.lean touches.
-/
namespace Sys2Proof.Machine

theorem State.leaveVoq_keeps (s : State) (k : Nat) :
    goesOn [.core] s (State.leaveVoq s k) := by
  unfold State.leaveVoq
  try dsimp only
  repeat' with_reducible first
    | apply goesOn.refl | assumption | apply keeps_ite | apply kset_core | decide | split

theorem State.leaveVoq_on {kp : List Part} {b0 : State} {s : State} {k : Nat} (hk : goesOn kp b0 s) (hq : ∀ p ∈ [.core], p ∈ kp) :
    goesOn kp b0 (State.leaveVoq s k) := hk.trans ((State.leaveVoq_keeps s k).mono hq)

theorem State.sendOutcome_keeps (s : State) (src : Nat) (b : Nat) :
    goesOn [.time, .pair, .fence, .events] s (State.sendOutcome s src b) := by
  unfold State.sendOutcome
  try dsimp only
  repeat' with_reducible first
    | apply goesOn.refl | apply keeps_ite | apply State.compareBlock_on | apply State.sendCtl_on | apply State.updBlock_on
    | decide | split

theorem State.sendOutcome_on {kp : List Part} {b0 : State} {s : State} {src : Nat} {b : Nat} (hk : goesOn kp b0 s) (hq : ∀ p ∈ [.time, .pair, .fence, .events], p ∈ kp) :
    goesOn kp b0 (State.sendOutcome s src b) := hk.trans ((State.sendOutcome_keeps s src b).mono hq)

theorem State.foldOutcome_keeps (s : State) (src : Nat) (b : Nat) (o : Nat) :
    goesOn [.time, .pair, .fence, .events] s (State.foldOutcome s src b o) := by
  unfold State.foldOutcome
  try dsimp only
  repeat' with_reducible first
    | apply goesOn.refl | apply State.sendOutcome_on | apply State.updBlock_on | decide

theorem State.foldOutcome_on {kp : List Part} {b0 : State} {s : State} {src : Nat} {b : Nat} {o : Nat} (hk : goesOn kp b0 s) (hq : ∀ p ∈ [.time, .pair, .fence, .events], p ∈ kp) :
    goesOn kp b0 (State.foldOutcome s src b o) := hk.trans ((State.foldOutcome_keeps s src b o).mono hq)

theorem State.dropFrame_keeps (s : State) (n : Nat) :
    goesOn [.core] s (State.dropFrame s n) := by
  unfold State.dropFrame
  try dsimp only
  repeat' with_reducible first
    | apply goesOn.refl | apply keeps_ite | apply kset_core | decide

theorem State.dropFrame_on {kp : List Part} {b0 : State} {s : State} {n : Nat} (hk : goesOn kp b0 s) (hq : ∀ p ∈ [.core], p ∈ kp) :
    goesOn kp b0 (State.dropFrame s n) := hk.trans ((State.dropFrame_keeps s n).mono hq)

theorem State.resolveCopy_keeps (s : State) (n : Nat) (o : Nat) :
    goesOn [.time, .core, .pair, .fence, .events] s (State.resolveCopy s n o) := by
  unfold State.resolveCopy
  try dsimp only
  repeat' with_reducible first
    | apply goesOn.refl | apply keeps_ite | apply State.dropFrame_on | apply State.foldOutcome_on | apply State.updFrame_on
    | decide | split

theorem State.resolveCopy_on {kp : List Part} {b0 : State} {s : State} {n : Nat} {o : Nat} (hk : goesOn kp b0 s) (hq : ∀ p ∈ [.time, .core, .pair, .fence, .events], p ∈ kp) :
    goesOn kp b0 (State.resolveCopy s n o) := hk.trans ((State.resolveCopy_keeps s n o).mono hq)

theorem State.freeCopy_keeps (s : State) (k : Nat) :
    goesOn [.core, .contracts] s (State.freeCopy s k) := by
  unfold State.freeCopy
  try dsimp only
  repeat' with_reducible first
    | apply goesOn.refl | apply keeps_ite | decide | split | apply kset_core_contracts

theorem State.freeCopy_on {kp : List Part} {b0 : State} {s : State} {k : Nat} (hk : goesOn kp b0 s) (hq : ∀ p ∈ [.core, .contracts], p ∈ kp) :
    goesOn kp b0 (State.freeCopy s k) := hk.trans ((State.freeCopy_keeps s k).mono hq)

theorem State.discardCopy_keeps (s : State) (k : Nat) (reason : Nat) :
    goesOn [.free, .time, .core, .contracts, .pair, .fence, .events, .stats] s (State.discardCopy s k reason) := by
  unfold State.discardCopy
  try dsimp only
  repeat' with_reducible first
    | apply goesOn.refl | apply keeps_ite | apply State.captureCopy_on | apply State.count_on | apply State.freeCopy_on
    | apply State.resolveCopy_on | apply State.tsqCopy_on | decide

theorem State.discardCopy_on {kp : List Part} {b0 : State} {s : State} {k : Nat} {reason : Nat} (hk : goesOn kp b0 s) (hq : ∀ p ∈ [.free, .time, .core, .contracts, .pair, .fence, .events, .stats], p ∈ kp) :
    goesOn kp b0 (State.discardCopy s k reason) := hk.trans ((State.discardCopy_keeps s k reason).mono hq)

theorem State.stompCopy_keeps (s : State) (k : Nat) (cause : Nat) :
    goesOn [.free, .core, .fence, .events, .stats] s (State.stompCopy s k cause) := by
  unfold State.stompCopy
  try dsimp only
  repeat' with_reducible first
    | apply goesOn.refl | apply keeps_ite | apply State.captureCopy_on | apply State.count_on | apply State.updCopy_on
    | apply State.updFrame_on | apply State.updQueue_on | decide

theorem State.stompCopy_on {kp : List Part} {b0 : State} {s : State} {k : Nat} {cause : Nat} (hk : goesOn kp b0 s) (hq : ∀ p ∈ [.free, .core, .fence, .events, .stats], p ∈ kp) :
    goesOn kp b0 (State.stompCopy s k cause) := hk.trans ((State.stompCopy_keeps s k cause).mono hq)

theorem State.endCopy_keeps (s : State) (k : Nat) (reason : Nat) (cause : Nat) :
    goesOn [.free, .time, .core, .contracts, .pair, .fence, .events, .stats] s (State.endCopy s k reason cause) := by
  unfold State.endCopy
  try dsimp only
  repeat' with_reducible first
    | apply goesOn.refl | apply keeps_ite | apply State.discardCopy_on | apply State.stompCopy_on | decide

theorem State.endCopy_on {kp : List Part} {b0 : State} {s : State} {k : Nat} {reason : Nat} {cause : Nat} (hk : goesOn kp b0 s) (hq : ∀ p ∈ [.free, .time, .core, .contracts, .pair, .fence, .events, .stats], p ∈ kp) :
    goesOn kp b0 (State.endCopy s k reason cause) := hk.trans ((State.endCopy_keeps s k reason cause).mono hq)

theorem State.flushPort_keeps (s : State) (p : Nat) (reason : Nat) :
    goesOn [.free, .time, .core, .contracts, .pair, .fence, .events, .stats] s (State.flushPort s p reason) := by
  unfold State.flushPort
  try dsimp only
  repeat' first
    | with_reducible apply goesOn.refl | with_reducible assumption
    | (with_reducible apply keeps_foldl; rotate_left 1; intro y a hy) | with_reducible apply State.endCopy_on
    | with_reducible decide

theorem State.flushPort_on {kp : List Part} {b0 : State} {s : State} {p : Nat} {reason : Nat} (hk : goesOn kp b0 s) (hq : ∀ p ∈ [.free, .time, .core, .contracts, .pair, .fence, .events, .stats], p ∈ kp) :
    goesOn kp b0 (State.flushPort s p reason) := hk.trans ((State.flushPort_keeps s p reason).mono hq)

theorem State.failFrame_keeps (s : State) (n : Nat) (cause : Nat) :
    goesOn [.free, .time, .core, .contracts, .pair, .fence, .events, .stats] s (State.failFrame s n cause) := by
  unfold State.failFrame
  try dsimp only
  repeat' first
    | with_reducible apply goesOn.refl | with_reducible assumption
    | (with_reducible apply keeps_foldl; rotate_left 1; intro y a hy) | with_reducible apply State.dropFrame_on
    | with_reducible apply State.endCopy_on | with_reducible apply State.updFrame_on | with_reducible decide

theorem State.failFrame_on {kp : List Part} {b0 : State} {s : State} {n : Nat} {cause : Nat} (hk : goesOn kp b0 s) (hq : ∀ p ∈ [.free, .time, .core, .contracts, .pair, .fence, .events, .stats], p ∈ kp) :
    goesOn kp b0 (State.failFrame s n cause) := hk.trans ((State.failFrame_keeps s n cause).mono hq)

theorem State.heldBytes_keeps (s : State) (f : Frame) :
    goesOn [.free] s (State.heldBytes s f).1 := by
  unfold State.heldBytes
  try dsimp only
  repeat' with_reducible first
    | apply goesOn.refl | assumption | apply keeps_ite | apply State.takeFree_on | decide | split

theorem State.heldBytes_on {kp : List Part} {b0 : State} {s : State} {f : Frame} (hk : goesOn kp b0 s) (hq : ∀ p ∈ [.free], p ∈ kp) :
    goesOn kp b0 (State.heldBytes s f).1 := hk.trans ((State.heldBytes_keeps s f).mono hq)

theorem State.badEnd_keeps (s : State) (n : Nat) (len : Nat) (bytes : List Byte) (cause : Nat) :
    goesOn [.free, .time, .parse, .core, .contracts, .pair, .fence, .events, .stats] s (State.badEnd s n len bytes cause) := by
  unfold State.badEnd
  try dsimp only
  repeat' with_reducible first
    | apply goesOn.refl | apply State.failFrame_on | apply State.updFrame_on | apply kset_parse_contracts | decide

theorem State.badEnd_on {kp : List Part} {b0 : State} {s : State} {n : Nat} {len : Nat} {bytes : List Byte} {cause : Nat} (hk : goesOn kp b0 s) (hq : ∀ p ∈ [.free, .time, .parse, .core, .contracts, .pair, .fence, .events, .stats], p ∈ kp) :
    goesOn kp b0 (State.badEnd s n len bytes cause) := hk.trans ((State.badEnd_keeps s n len bytes cause).mono hq)

theorem State.ingressDown_keeps (s : State) (p : Nat) :
    goesOn [.free, .time, .parse, .core, .contracts, .pair, .fence, .events, .stats] s (State.ingressDown s p) := by
  unfold State.ingressDown
  try dsimp only
  repeat' first
    | with_reducible apply goesOn.refl | with_reducible assumption | with_reducible apply keeps_ite
    | with_reducible apply keeps_ite1 | with_reducible apply keeps_ite2
    | (with_reducible apply keeps_foldl; rotate_left 1; intro y a hy)
    | (with_reducible apply keeps_foldl1; rotate_left 1; intro y a hy) | with_reducible apply State.badEnd_on
    | with_reducible apply State.heldBytes_on | (with_reducible apply keeps_fst; case e => with_reducible assumption)
    | (with_reducible apply keeps_snd; case e => with_reducible assumption) | with_reducible decide | split

theorem State.ingressDown_on {kp : List Part} {b0 : State} {s : State} {p : Nat} (hk : goesOn kp b0 s) (hq : ∀ p ∈ [.free, .time, .parse, .core, .contracts, .pair, .fence, .events, .stats], p ∈ kp) :
    goesOn kp b0 (State.ingressDown s p) := hk.trans ((State.ingressDown_keeps s p).mono hq)

end Sys2Proof.Machine
end

