-- ==== Sys2Proof/Laws/Keeps/Contracts.lean ====
section
/-!
SUPPORT. Which parts of the state each operation of Contracts.lean touches.
-/
namespace Sys2Proof.Machine

theorem State.updContract_keeps (s : State) (k : Nat) (f : Contract → Contract) :
    goesOn [.contracts] s (State.updContract s k f) := by
  unfold State.updContract
  try dsimp only
  repeat' with_reducible first
    | apply goesOn.refl | apply kset_contracts | decide

theorem State.updContract_on {kp : List Part} {b0 : State} {s : State} {k : Nat} {f : Contract → Contract} (hk : goesOn kp b0 s) (hq : ∀ p ∈ [.contracts], p ∈ kp) :
    goesOn kp b0 (State.updContract s k f) := hk.trans ((State.updContract_keeps s k f).mono hq)

theorem State.reevaluate_keeps (s : State) :
    goesOn [.contracts, .fw, .fence, .events] s (State.reevaluate s) := by
  unfold State.reevaluate
  try dsimp only
  repeat' first
    | with_reducible apply goesOn.refl | with_reducible assumption | with_reducible apply keeps_ite
    | (with_reducible apply keeps_foldl; rotate_left 1; intro y a hy) | with_reducible apply State.dependentChange_on
    | with_reducible apply State.raise_on | with_reducible apply State.updContract_on | with_reducible decide | split

theorem State.reevaluate_on {kp : List Part} {b0 : State} {s : State} (hk : goesOn kp b0 s) (hq : ∀ p ∈ [.contracts, .fw, .fence, .events], p ∈ kp) :
    goesOn kp b0 (State.reevaluate s) := hk.trans ((State.reevaluate_keeps s).mono hq)

theorem State.takePool_keeps (s : State) (size : Nat) :
    goesOn [.core, .contracts, .fw, .fence, .events] s (State.takePool s size) := by
  unfold State.takePool
  try dsimp only
  repeat' with_reducible first
    | apply goesOn.refl | apply State.reevaluate_on | apply kset_core | decide

theorem State.takePool_on {kp : List Part} {b0 : State} {s : State} {size : Nat} (hk : goesOn kp b0 s) (hq : ∀ p ∈ [.core, .contracts, .fw, .fence, .events], p ∈ kp) :
    goesOn kp b0 (State.takePool s size) := hk.trans ((State.takePool_keeps s size).mono hq)

theorem State.poolFollow_keeps (s : State) :
    goesOn [.core, .contracts, .fw, .fence, .events] s (State.poolFollow s) := by
  unfold State.poolFollow
  try dsimp only
  repeat' with_reducible first
    | apply goesOn.refl | apply keeps_ite | apply State.takePool_on | decide

theorem State.poolFollow_on {kp : List Part} {b0 : State} {s : State} (hk : goesOn kp b0 s) (hq : ∀ p ∈ [.core, .contracts, .fw, .fence, .events], p ∈ kp) :
    goesOn kp b0 (State.poolFollow s) := hk.trans ((State.poolFollow_keeps s).mono hq)

theorem execContractDrained_keeps (port : Nat) (cls : Nat) (s : State) :
    Out.keeps [.contracts, .fw, .fence, .events] s (execContractDrained port cls s) := by
  unfold execContractDrained
  try dsimp only
  repeat' with_reducible first
    | apply goesOn.refl | apply State.raise_on | apply State.reevaluate_on | apply kset_contracts | apply out_next
    | apply out_fault | apply out_ite | decide | split

theorem execContractDrained_on {kp : List Part} {b0 : State} {port : Nat} {cls : Nat} {s : State} (hk : goesOn kp b0 s) (hq : ∀ p ∈ [.contracts, .fw, .fence, .events], p ∈ kp) :
    Out.keeps kp b0 (execContractDrained port cls s) := .after hk ((execContractDrained_keeps port cls s).mono hq)

theorem infeasibleRep_on {ps : List Part} {s : State} {code key : Nat} : Rep.keeps ps s (infeasibleRep code key) := trivial

theorem bodyContractSet_keeps (replace : Bool) (port : Nat) (cls : Nat) (lMax : Nat) (rate : Nat) (burst : Nat) (fmax : Nat) (mask : BitVec 256) (s : State) :
    Rep.keeps [.contracts] s (bodyContractSet replace port cls lMax rate burst fmax mask s) := by
  unfold bodyContractSet
  try dsimp only
  repeat' with_reducible first
    | apply goesOn.refl | apply kset_contracts | apply infeasibleRep_on | apply rep_ok | apply rep_bad | apply rep_ranges
    | apply rep_ite | decide | split

theorem bodyContractSet_on {kp : List Part} {b0 : State} {replace : Bool} {port : Nat} {cls : Nat} {lMax : Nat} {rate : Nat} {burst : Nat} {fmax : Nat} {mask : BitVec 256} {s : State} (hk : goesOn kp b0 s) (hq : ∀ p ∈ [.contracts], p ∈ kp) :
    Rep.keeps kp b0 (bodyContractSet replace port cls lMax rate burst fmax mask s) := .after hk ((bodyContractSet_keeps replace port cls lMax rate burst fmax mask s).mono hq)

theorem bodyContractCheck_keeps (_replace : Bool) (port : Nat) (cls : Nat) (lMax : Nat) (rate : Nat) (burst : Nat) (fmax : Nat) (mask : BitVec 256) (s : State) :
    Rep.keeps [] s (bodyContractCheck _replace port cls lMax rate burst fmax mask s) := by
  unfold bodyContractCheck
  try dsimp only
  repeat' with_reducible first
    | apply goesOn.refl | apply infeasibleRep_on | apply rep_ok | apply rep_ranges | split

theorem bodyContractCheck_on {kp : List Part} {b0 : State} {_replace : Bool} {port : Nat} {cls : Nat} {lMax : Nat} {rate : Nat} {burst : Nat} {fmax : Nat} {mask : BitVec 256} {s : State} (hk : goesOn kp b0 s) (hq : ∀ p ∈ [], p ∈ kp) :
    Rep.keeps kp b0 (bodyContractCheck _replace port cls lMax rate burst fmax mask s) := .after hk ((bodyContractCheck_keeps _replace port cls lMax rate burst fmax mask s).mono hq)

theorem bodyContractDelete_keeps (port : Nat) (cls : Nat) (s : State) :
    Rep.keeps [.contracts] s (bodyContractDelete port cls s) := by
  unfold bodyContractDelete
  try dsimp only
  repeat' with_reducible first
    | apply goesOn.refl | apply State.updContract_on | apply rep_ok | apply rep_ranges | apply rep_ite | decide | split

theorem bodyContractDelete_on {kp : List Part} {b0 : State} {port : Nat} {cls : Nat} {s : State} (hk : goesOn kp b0 s) (hq : ∀ p ∈ [.contracts], p ∈ kp) :
    Rep.keeps kp b0 (bodyContractDelete port cls s) := .after hk ((bodyContractDelete_keeps port cls s).mono hq)

theorem bodyContractGet_keeps (clear : Bool) (port : Nat) (cls : Nat) (s : State) :
    Rep.keeps [.contracts, .stats] s (bodyContractGet clear port cls s) := by
  unfold bodyContractGet
  try dsimp only
  repeat' with_reducible first
    | apply goesOn.refl | assumption | apply keeps_ite | apply State.rebaseAll_on | apply State.updContract_on
    | apply Rep.badState_on | apply Rep.ranges_on | apply rep_ok | apply rep_fail | apply rep_range | apply rep_bad
    | apply rep_flags | apply rep_done | apply rep_later | apply rep_ranges | apply rep_ite | decide | split

theorem bodyContractGet_on {kp : List Part} {b0 : State} {clear : Bool} {port : Nat} {cls : Nat} {s : State} (hk : goesOn kp b0 s) (hq : ∀ p ∈ [.contracts, .stats], p ∈ kp) :
    Rep.keeps kp b0 (bodyContractGet clear port cls s) := .after hk ((bodyContractGet_keeps clear port cls s).mono hq)

theorem bodyClassSetKind_keeps (port : Nat) (cls : Nat) (kind : Nat) (s : State) :
    Rep.keeps [.core] s (bodyClassSetKind port cls kind s) := by
  unfold bodyClassSetKind
  try dsimp only
  repeat' with_reducible first
    | apply goesOn.refl | apply kset_core | apply rep_ok | apply rep_ranges | decide

theorem bodyClassSetKind_on {kp : List Part} {b0 : State} {port : Nat} {cls : Nat} {kind : Nat} {s : State} (hk : goesOn kp b0 s) (hq : ∀ p ∈ [.core], p ∈ kp) :
    Rep.keeps kp b0 (bodyClassSetKind port cls kind s) := .after hk ((bodyClassSetKind_keeps port cls kind s).mono hq)

theorem bodyGuaranteedPoolSet_keeps (size : Nat) (s : State) :
    Rep.keeps [.core, .contracts, .fw, .fence, .events] s (bodyGuaranteedPoolSet size s) := by
  unfold bodyGuaranteedPoolSet
  try dsimp only
  repeat' with_reducible first
    | apply goesOn.refl | apply State.reevaluate_on | apply kset_core | apply infeasibleRep_on | apply rep_ok | apply rep_fail
    | apply rep_ranges | apply rep_ite | decide

theorem bodyGuaranteedPoolSet_on {kp : List Part} {b0 : State} {size : Nat} {s : State} (hk : goesOn kp b0 s) (hq : ∀ p ∈ [.core, .contracts, .fw, .fence, .events], p ∈ kp) :
    Rep.keeps kp b0 (bodyGuaranteedPoolSet size s) := .after hk ((bodyGuaranteedPoolSet_keeps size s).mono hq)

theorem execContractSet_keeps (src : CmdSrc) (replace : Bool) (port : Nat) (cls : Nat) (lMax : Nat) (rate : Nat) (burst : Nat) (fmax : Nat) (mask : BitVec 256) (s : State) :
    Out.keeps [.cmd, .hostMem, .glob, .contracts, .pair, .fw, .mbs, .fence, .events] s (execContractSet src replace port cls lMax rate burst fmax mask s) := by
  unfold execContractSet
  try dsimp only
  repeat' first
    | with_reducible apply goesOn.refl | with_reducible apply out_next
    | (with_reducible apply keeps_runCmd; rotate_left 1; intro y) | with_reducible apply bodyContractSet_on
    | with_reducible decide

theorem execContractSet_on {kp : List Part} {b0 : State} {src : CmdSrc} {replace : Bool} {port : Nat} {cls : Nat} {lMax : Nat} {rate : Nat} {burst : Nat} {fmax : Nat} {mask : BitVec 256} {s : State} (hk : goesOn kp b0 s) (hq : ∀ p ∈ [.cmd, .hostMem, .glob, .contracts, .pair, .fw, .mbs, .fence, .events], p ∈ kp) :
    Out.keeps kp b0 (execContractSet src replace port cls lMax rate burst fmax mask s) := .after hk ((execContractSet_keeps src replace port cls lMax rate burst fmax mask s).mono hq)

theorem execContractDelete_keeps (src : CmdSrc) (port : Nat) (cls : Nat) (s : State) :
    Out.keeps [.cmd, .hostMem, .glob, .contracts, .pair, .fw, .mbs, .fence, .events] s (execContractDelete src port cls s) := by
  unfold execContractDelete
  try dsimp only
  repeat' first
    | with_reducible apply goesOn.refl | with_reducible apply out_next
    | (with_reducible apply keeps_runCmd; rotate_left 1; intro y) | with_reducible apply bodyContractDelete_on
    | with_reducible decide

theorem execContractDelete_on {kp : List Part} {b0 : State} {src : CmdSrc} {port : Nat} {cls : Nat} {s : State} (hk : goesOn kp b0 s) (hq : ∀ p ∈ [.cmd, .hostMem, .glob, .contracts, .pair, .fw, .mbs, .fence, .events], p ∈ kp) :
    Out.keeps kp b0 (execContractDelete src port cls s) := .after hk ((execContractDelete_keeps src port cls s).mono hq)

theorem execContractCheck_keeps (src : CmdSrc) (replace : Bool) (port : Nat) (cls : Nat) (lMax : Nat) (rate : Nat) (burst : Nat) (fmax : Nat) (mask : BitVec 256) (s : State) :
    Out.keeps [.cmd, .hostMem, .glob, .pair, .fw, .mbs, .fence, .events] s (execContractCheck src replace port cls lMax rate burst fmax mask s) := by
  unfold execContractCheck
  try dsimp only
  repeat' first
    | with_reducible apply goesOn.refl | with_reducible apply out_next
    | (with_reducible apply keeps_runCmd; rotate_left 1; intro y) | with_reducible apply bodyContractCheck_on
    | with_reducible decide

theorem execContractCheck_on {kp : List Part} {b0 : State} {src : CmdSrc} {replace : Bool} {port : Nat} {cls : Nat} {lMax : Nat} {rate : Nat} {burst : Nat} {fmax : Nat} {mask : BitVec 256} {s : State} (hk : goesOn kp b0 s) (hq : ∀ p ∈ [.cmd, .hostMem, .glob, .pair, .fw, .mbs, .fence, .events], p ∈ kp) :
    Out.keeps kp b0 (execContractCheck src replace port cls lMax rate burst fmax mask s) := .after hk ((execContractCheck_keeps src replace port cls lMax rate burst fmax mask s).mono hq)

theorem execContractGet_keeps (src : CmdSrc) (clear : Bool) (port : Nat) (cls : Nat) (s : State) :
    Out.keeps [.cmd, .hostMem, .glob, .contracts, .pair, .fw, .mbs, .fence, .events, .stats] s (execContractGet src clear port cls s) := by
  unfold execContractGet
  try dsimp only
  repeat' first
    | with_reducible apply goesOn.refl | with_reducible apply out_next
    | (with_reducible apply keeps_runCmd; rotate_left 1; intro y) | with_reducible apply bodyContractGet_on
    | with_reducible decide

theorem execContractGet_on {kp : List Part} {b0 : State} {src : CmdSrc} {clear : Bool} {port : Nat} {cls : Nat} {s : State} (hk : goesOn kp b0 s) (hq : ∀ p ∈ [.cmd, .hostMem, .glob, .contracts, .pair, .fw, .mbs, .fence, .events, .stats], p ∈ kp) :
    Out.keeps kp b0 (execContractGet src clear port cls s) := .after hk ((execContractGet_keeps src clear port cls s).mono hq)

theorem execClassSetKind_keeps (src : CmdSrc) (port : Nat) (cls : Nat) (kind : Nat) (s : State) :
    Out.keeps [.cmd, .hostMem, .glob, .core, .pair, .fw, .mbs, .fence, .events] s (execClassSetKind src port cls kind s) := by
  unfold execClassSetKind
  try dsimp only
  repeat' first
    | with_reducible apply goesOn.refl | with_reducible apply out_next
    | (with_reducible apply keeps_runCmd; rotate_left 1; intro y) | with_reducible apply bodyClassSetKind_on
    | with_reducible decide

theorem execClassSetKind_on {kp : List Part} {b0 : State} {src : CmdSrc} {port : Nat} {cls : Nat} {kind : Nat} {s : State} (hk : goesOn kp b0 s) (hq : ∀ p ∈ [.cmd, .hostMem, .glob, .core, .pair, .fw, .mbs, .fence, .events], p ∈ kp) :
    Out.keeps kp b0 (execClassSetKind src port cls kind s) := .after hk ((execClassSetKind_keeps src port cls kind s).mono hq)

theorem execGuaranteedPoolSet_keeps (src : CmdSrc) (size : Nat) (s : State) :
    Out.keeps [.cmd, .hostMem, .glob, .core, .contracts, .pair, .fw, .mbs, .fence, .events] s (execGuaranteedPoolSet src size s) := by
  unfold execGuaranteedPoolSet
  try dsimp only
  repeat' first
    | with_reducible apply goesOn.refl | with_reducible apply out_next
    | (with_reducible apply keeps_runCmd; rotate_left 1; intro y) | with_reducible apply bodyGuaranteedPoolSet_on
    | with_reducible decide

theorem execGuaranteedPoolSet_on {kp : List Part} {b0 : State} {src : CmdSrc} {size : Nat} {s : State} (hk : goesOn kp b0 s) (hq : ∀ p ∈ [.cmd, .hostMem, .glob, .core, .contracts, .pair, .fw, .mbs, .fence, .events], p ∈ kp) :
    Out.keeps kp b0 (execGuaranteedPoolSet src size s) := .after hk ((execGuaranteedPoolSet_keeps src size s).mono hq)

end Sys2Proof.Machine
end

