-- ==== Sys2Proof/Laws/Keeps/Lanes.lean ====
section
/-!
SUPPORT. Which parts of the state each operation of Lanes.lean touches.
-/
namespace Sys2Proof.Machine

theorem State.activateTable_keeps (s : State) (t : ChanTable) :
    goesOn [.chan, .lanes] s (State.activateTable s t) := by
  unfold State.activateTable
  try dsimp only
  repeat' with_reducible first
    | apply goesOn.refl | apply kset_chan_lanes | decide

theorem State.activateTable_on {kp : List Part} {b0 : State} {s : State} {t : ChanTable} (hk : goesOn kp b0 s) (hq : ∀ p ∈ [.chan, .lanes], p ∈ kp) :
    goesOn kp b0 (State.activateTable s t) := hk.trans ((State.activateTable_keeps s t).mono hq)

theorem State.bootTables_keeps (s : State) (a : List Byte) (b : List Byte) :
    goesOn [.chan, .lanes, .fence, .events] s (State.bootTables s a b) := by
  unfold State.bootTables
  try dsimp only
  repeat' with_reducible first
    | apply goesOn.refl | apply keeps_ite | apply State.activateTable_on | apply State.raise_on | decide | split

theorem State.bootTables_on {kp : List Part} {b0 : State} {s : State} {a : List Byte} {b : List Byte} (hk : goesOn kp b0 s) (hq : ∀ p ∈ [.chan, .lanes, .fence, .events], p ∈ kp) :
    goesOn kp b0 (State.bootTables s a b) := hk.trans ((State.bootTables_keeps s a b).mono hq)

theorem State.latchLane_keeps (s : State) (l : Nat) (rate : Nat) :
    goesOn [.lanes] s (State.latchLane s l rate).1 := by
  unfold State.latchLane
  try dsimp only
  repeat' with_reducible first
    | apply goesOn.refl | apply State.updLane_on | decide | split

theorem State.latchLane_on {kp : List Part} {b0 : State} {s : State} {l : Nat} {rate : Nat} (hk : goesOn kp b0 s) (hq : ∀ p ∈ [.lanes], p ∈ kp) :
    goesOn kp b0 (State.latchLane s l rate).1 := hk.trans ((State.latchLane_keeps s l rate).mono hq)

theorem State.latchPort_keeps (s : State) (p : Nat) :
    goesOn [.lanes, .fence, .events] s (State.latchPort s p) := by
  unfold State.latchPort
  try dsimp only
  repeat' first
    | with_reducible apply goesOn.refl | with_reducible assumption | with_reducible apply keeps_ite
    | (with_reducible apply keeps_foldl1; rotate_left 1; intro y a hy) | with_reducible apply State.latchLane_on
    | with_reducible apply State.raise_on | with_reducible decide

theorem State.latchPort_on {kp : List Part} {b0 : State} {s : State} {p : Nat} (hk : goesOn kp b0 s) (hq : ∀ p ∈ [.lanes, .fence, .events], p ∈ kp) :
    goesOn kp b0 (State.latchPort s p) := hk.trans ((State.latchPort_keeps s p).mono hq)

theorem State.tempDrift_keeps (s : State) :
    goesOn [.lanes, .fence, .events] s (State.tempDrift s) := by
  unfold State.tempDrift
  try dsimp only
  repeat' first
    | with_reducible apply goesOn.refl | with_reducible assumption | with_reducible apply keeps_ite
    | (with_reducible apply keeps_foldl; rotate_left 1; intro y a hy) | with_reducible apply State.raise_on
    | with_reducible apply State.updLane_on | with_reducible decide

theorem State.tempDrift_on {kp : List Part} {b0 : State} {s : State} (hk : goesOn kp b0 s) (hq : ∀ p ∈ [.lanes, .fence, .events], p ∈ kp) :
    goesOn kp b0 (State.tempDrift s) := hk.trans ((State.tempDrift_keeps s).mono hq)

theorem State.setPort_keeps (s : State) (p : Nat) (st : LaneState) :
    goesOn [.lanes] s (State.setPort s p st) := by
  unfold State.setPort
  try dsimp only
  repeat' first
    | with_reducible apply goesOn.refl | with_reducible assumption
    | (with_reducible apply keeps_foldl; rotate_left 1; intro y a hy) | with_reducible apply State.updLane_on
    | with_reducible decide

theorem State.setPort_on {kp : List Part} {b0 : State} {s : State} {p : Nat} {st : LaneState} (hk : goesOn kp b0 s) (hq : ∀ p ∈ [.lanes], p ∈ kp) :
    goesOn kp b0 (State.setPort s p st) := hk.trans ((State.setPort_keeps s p st).mono hq)

theorem State.setCause_keeps (s : State) (p : Nat) (c : Nat) :
    goesOn [.lanes] s (State.setCause s p c) := by
  unfold State.setCause
  try dsimp only
  repeat' first
    | with_reducible apply goesOn.refl | with_reducible assumption
    | (with_reducible apply keeps_foldl; rotate_left 1; intro y a hy) | with_reducible apply State.updLane_on
    | with_reducible decide

theorem State.setCause_on {kp : List Part} {b0 : State} {s : State} {p : Nat} {c : Nat} (hk : goesOn kp b0 s) (hq : ∀ p ∈ [.lanes], p ∈ kp) :
    goesOn kp b0 (State.setCause s p c) := hk.trans ((State.setCause_keeps s p c).mono hq)

theorem State.huntRows_keeps (s : State) (p : Nat) :
    goesOn [.selv] s (State.huntRows s p) := by
  unfold State.huntRows
  try dsimp only
  repeat' with_reducible first
    | apply goesOn.refl | assumption | apply keeps_ite | apply State.updSelv_on | decide | split

theorem State.huntRows_on {kp : List Part} {b0 : State} {s : State} {p : Nat} (hk : goesOn kp b0 s) (hq : ∀ p ∈ [.selv], p ∈ kp) :
    goesOn kp b0 (State.huntRows s p) := hk.trans ((State.huntRows_keeps s p).mono hq)

theorem State.acquire_keeps (s : State) (p : Nat) :
    goesOn [.lanes, .selv, .tdc] s (State.acquire s p) := by
  unfold State.acquire
  try dsimp only
  repeat' first
    | with_reducible apply goesOn.refl | with_reducible assumption | with_reducible apply keeps_ite
    | (with_reducible apply keeps_foldl; rotate_left 1; intro y a hy) | with_reducible apply State.huntRows_on
    | with_reducible apply State.updLane_on | with_reducible apply State.updTdc_on | with_reducible decide | split

theorem State.acquire_on {kp : List Part} {b0 : State} {s : State} {p : Nat} (hk : goesOn kp b0 s) (hq : ∀ p ∈ [.lanes, .selv, .tdc], p ∈ kp) :
    goesOn kp b0 (State.acquire s p) := hk.trans ((State.acquire_keeps s p).mono hq)

theorem State.laneUnlocked_keeps (s : State) (l : Nat) :
    goesOn [.lanes, .tdc] s (State.laneUnlocked s l) := by
  unfold State.laneUnlocked
  try dsimp only
  repeat' with_reducible first
    | apply goesOn.refl | assumption | apply keeps_ite | apply State.updLane_on | apply State.updTdc_on | decide | split

theorem State.laneUnlocked_on {kp : List Part} {b0 : State} {s : State} {l : Nat} (hk : goesOn kp b0 s) (hq : ∀ p ∈ [.lanes, .tdc], p ∈ kp) :
    goesOn kp b0 (State.laneUnlocked s l) := hk.trans ((State.laneUnlocked_keeps s l).mono hq)

theorem State.startCasting_keeps (s : State) (p : Nat) :
    goesOn [.lanes, .ports, .selv, .tdc, .ptp, .fence, .events] s (State.startCasting s p) := by
  unfold State.startCasting
  try dsimp only
  repeat' with_reducible first
    | apply goesOn.refl | apply keeps_ite | apply State.acquire_on | apply State.latchPort_on | apply State.setPort_on
    | apply State.updAsym_on | apply State.updPort_on | apply State.updPtp_on | apply State.updSelv_on | decide

theorem State.startCasting_on {kp : List Part} {b0 : State} {s : State} {p : Nat} (hk : goesOn kp b0 s) (hq : ∀ p ∈ [.lanes, .ports, .selv, .tdc, .ptp, .fence, .events], p ∈ kp) :
    goesOn kp b0 (State.startCasting s p) := hk.trans ((State.startCasting_keeps s p).mono hq)

theorem State.enterFault_keeps (s : State) (p : Nat) :
    goesOn [.lanes, .ports, .selv, .tdc] s (State.enterFault s p) := by
  unfold State.enterFault
  try dsimp only
  repeat' with_reducible first
    | apply goesOn.refl | apply State.acquire_on | apply State.setPort_on | apply State.updPort_on | decide

theorem State.enterFault_on {kp : List Part} {b0 : State} {s : State} {p : Nat} (hk : goesOn kp b0 s) (hq : ∀ p ∈ [.lanes, .ports, .selv, .tdc], p ∈ kp) :
    goesOn kp b0 (State.enterFault s p) := hk.trans ((State.enterFault_keeps s p).mono hq)

theorem State.enterHeld_keeps (s : State) (p : Nat) :
    goesOn [.lanes, .ports, .selv, .tdc] s (State.enterHeld s p) := by
  unfold State.enterHeld
  try dsimp only
  repeat' with_reducible first
    | apply goesOn.refl | apply State.acquire_on | apply State.setPort_on | apply State.updPort_on | decide

theorem State.enterHeld_on {kp : List Part} {b0 : State} {s : State} {p : Nat} (hk : goesOn kp b0 s) (hq : ∀ p ∈ [.lanes, .ports, .selv, .tdc], p ∈ kp) :
    goesOn kp b0 (State.enterHeld s p) := hk.trans ((State.enterHeld_keeps s p).mono hq)

theorem State.castExpire_keeps (s : State) (p : Nat) :
    goesOn [.lanes, .ports, .selv, .tdc, .fence, .events] s (State.castExpire s p) := by
  unfold State.castExpire
  try dsimp only
  repeat' with_reducible first
    | apply goesOn.refl | apply keeps_ite | apply State.enterFault_on | apply State.raise_on | apply State.setCause_on | decide

theorem State.castExpire_on {kp : List Part} {b0 : State} {s : State} {p : Nat} (hk : goesOn kp b0 s) (hq : ∀ p ∈ [.lanes, .ports, .selv, .tdc, .fence, .events], p ∈ kp) :
    goesOn kp b0 (State.castExpire s p) := hk.trans ((State.castExpire_keeps s p).mono hq)

theorem State.recast_keeps (s : State) (p : Nat) :
    goesOn [.lanes, .ports, .selv, .tdc, .fence, .events] s (State.recast s p) := by
  unfold State.recast
  try dsimp only
  repeat' with_reducible first
    | apply goesOn.refl | apply keeps_ite | apply State.acquire_on | apply State.castExpire_on | apply State.setPort_on
    | apply State.updPort_on | decide

theorem State.recast_on {kp : List Part} {b0 : State} {s : State} {p : Nat} (hk : goesOn kp b0 s) (hq : ∀ p ∈ [.lanes, .ports, .selv, .tdc, .fence, .events], p ∈ kp) :
    goesOn kp b0 (State.recast s p) := hk.trans ((State.recast_keeps s p).mono hq)

theorem State.upLoss_keeps (s : State) (p : Nat) (cause : Nat) :
    goesOn [.free, .lanes, .ports, .selv, .tdc, .time, .parse, .core, .contracts, .pair, .fence, .events, .stats] s (State.upLoss s p cause) := by
  unfold State.upLoss
  try dsimp only
  repeat' first
    | with_reducible apply goesOn.refl | with_reducible assumption | with_reducible apply keeps_ite
    | (with_reducible apply keeps_foldl; rotate_left 1; intro y a hy) | with_reducible apply State.enterFault_on
    | with_reducible apply State.enterHeld_on | with_reducible apply State.flushPort_on
    | with_reducible apply State.ingressDown_on | with_reducible apply State.raise_on | with_reducible apply State.setCause_on
    | with_reducible apply State.updLane_on | with_reducible apply State.updPort_on | with_reducible decide

theorem State.upLoss_on {kp : List Part} {b0 : State} {s : State} {p : Nat} {cause : Nat} (hk : goesOn kp b0 s) (hq : ∀ p ∈ [.free, .lanes, .ports, .selv, .tdc, .time, .parse, .core, .contracts, .pair, .fence, .events, .stats], p ∈ kp) :
    goesOn kp b0 (State.upLoss s p cause) := hk.trans ((State.upLoss_keeps s p cause).mono hq)

theorem State.enterUp_keeps (s : State) (p : Nat) :
    goesOn [.lanes, .ports, .pair, .fence, .events] s (State.enterUp s p) := by
  unfold State.enterUp
  try dsimp only
  repeat' first
    | with_reducible apply goesOn.refl | with_reducible assumption
    | (with_reducible apply keeps_foldl; rotate_left 1; intro y a hy) | with_reducible apply State.raise_on
    | with_reducible apply State.setPort_on | with_reducible apply State.updLane_on | with_reducible apply State.updPort_on
    | with_reducible apply kset_pair | with_reducible decide

theorem State.enterUp_on {kp : List Part} {b0 : State} {s : State} {p : Nat} (hk : goesOn kp b0 s) (hq : ∀ p ∈ [.lanes, .ports, .pair, .fence, .events], p ∈ kp) :
    goesOn kp b0 (State.enterUp s p) := hk.trans ((State.enterUp_keeps s p).mono hq)

theorem State.takeDeskew_keeps (s : State) (p : Nat) (ds : List Int) :
    goesOn [.lanes, .contracts, .fw, .fence, .events] s (State.takeDeskew s p ds) := by
  unfold State.takeDeskew
  try dsimp only
  repeat' first
    | with_reducible apply goesOn.refl | with_reducible assumption | with_reducible apply keeps_ite
    | (with_reducible apply keeps_foldl; rotate_left 1; intro y a hy) | with_reducible apply State.raise_on
    | with_reducible apply State.reevaluate_on | with_reducible apply State.updLane_on | with_reducible decide

theorem State.takeDeskew_on {kp : List Part} {b0 : State} {s : State} {p : Nat} {ds : List Int} (hk : goesOn kp b0 s) (hq : ∀ p ∈ [.lanes, .contracts, .fw, .fence, .events], p ∈ kp) :
    goesOn kp b0 (State.takeDeskew s p ds) := hk.trans ((State.takeDeskew_keeps s p ds).mono hq)

theorem State.proved_keeps (s : State) (p : Nat) (pointersOk : Bool) (offsets : List Int) (deskews : List Int) :
    goesOn [.lanes, .ports, .selv, .tdc, .contracts, .pair, .fw, .fence, .events] s (State.proved s p pointersOk offsets deskews) := by
  unfold State.proved
  try dsimp only
  repeat' first
    | with_reducible apply goesOn.refl | with_reducible assumption | with_reducible apply keeps_ite
    | (with_reducible apply keeps_foldl; rotate_left 1; intro y a hy) | with_reducible apply State.enterFault_on
    | with_reducible apply State.enterHeld_on | with_reducible apply State.enterUp_on | with_reducible apply State.raise_on
    | with_reducible apply State.recast_on | with_reducible apply State.setCause_on | with_reducible apply State.takeDeskew_on
    | with_reducible apply State.updLane_on | with_reducible apply State.updPort_on | with_reducible decide

theorem State.proved_on {kp : List Part} {b0 : State} {s : State} {p : Nat} {pointersOk : Bool} {offsets : List Int} {deskews : List Int} (hk : goesOn kp b0 s) (hq : ∀ p ∈ [.lanes, .ports, .selv, .tdc, .contracts, .pair, .fw, .fence, .events], p ∈ kp) :
    goesOn kp b0 (State.proved s p pointersOk offsets deskews) := hk.trans ((State.proved_keeps s p pointersOk offsets deskews).mono hq)

theorem State.portLoss_keeps (s : State) (p : Nat) (cause : Nat) :
    goesOn [.free, .lanes, .ports, .selv, .tdc, .time, .parse, .core, .contracts, .pair, .fence, .events, .stats] s (State.portLoss s p cause) := by
  unfold State.portLoss
  try dsimp only
  repeat' with_reducible first
    | apply goesOn.refl | assumption | apply keeps_ite | apply State.huntRows_on | apply State.recast_on | apply State.setCause_on
    | apply State.upLoss_on | decide | split

theorem State.portLoss_on {kp : List Part} {b0 : State} {s : State} {p : Nat} {cause : Nat} (hk : goesOn kp b0 s) (hq : ∀ p ∈ [.free, .lanes, .ports, .selv, .tdc, .time, .parse, .core, .contracts, .pair, .fence, .events, .stats], p ∈ kp) :
    goesOn kp b0 (State.portLoss s p cause) := hk.trans ((State.portLoss_keeps s p cause).mono hq)

theorem State.finishBinds_keeps (s : State) (p : Nat) :
    goesOn [.cmd, .hostMem, .ports, .pair, .fw, .mbs, .fence, .events] s (State.finishBinds s p) := by
  unfold State.finishBinds
  try dsimp only
  repeat' first
    | with_reducible apply goesOn.refl | with_reducible assumption
    | (with_reducible apply keeps_foldl; rotate_left 1; intro y a hy) | with_reducible apply State.finish_on
    | with_reducible apply State.updPort_on | with_reducible decide

theorem State.finishBinds_on {kp : List Part} {b0 : State} {s : State} {p : Nat} (hk : goesOn kp b0 s) (hq : ∀ p ∈ [.cmd, .hostMem, .ports, .pair, .fw, .mbs, .fence, .events], p ∈ kp) :
    goesOn kp b0 (State.finishBinds s p) := hk.trans ((State.finishBinds_keeps s p).mono hq)

theorem State.bindOffDone_keeps (s : State) (p : Nat) :
    goesOn [.free, .cmd, .hostMem, .lanes, .ports, .selv, .tdc, .time, .parse, .core, .contracts, .pair, .fw, .mbs, .fence, .events, .stats] s (State.bindOffDone s p) := by
  unfold State.bindOffDone
  try dsimp only
  repeat' with_reducible first
    | apply goesOn.refl | assumption | apply keeps_ite | apply State.acquire_on | apply State.finishBinds_on
    | apply State.ingressDown_on | apply State.raise_on | apply State.setCause_on | apply State.setPort_on
    | apply State.updPort_on | decide | split

theorem State.bindOffDone_on {kp : List Part} {b0 : State} {s : State} {p : Nat} (hk : goesOn kp b0 s) (hq : ∀ p ∈ [.free, .cmd, .hostMem, .lanes, .ports, .selv, .tdc, .time, .parse, .core, .contracts, .pair, .fw, .mbs, .fence, .events, .stats], p ∈ kp) :
    goesOn kp b0 (State.bindOffDone s p) := hk.trans ((State.bindOffDone_keeps s p).mono hq)

theorem State.startLinger_keeps (s : State) (p : Nat) :
    goesOn [.free, .ports, .time, .core, .contracts, .pair, .fence, .events, .stats] s (State.startLinger s p) := by
  unfold State.startLinger
  try dsimp only
  repeat' with_reducible first
    | apply goesOn.refl | apply State.flushPort_on | apply State.updPort_on | decide

theorem State.startLinger_on {kp : List Part} {b0 : State} {s : State} {p : Nat} (hk : goesOn kp b0 s) (hq : ∀ p ∈ [.free, .ports, .time, .core, .contracts, .pair, .fence, .events, .stats], p ∈ kp) :
    goesOn kp b0 (State.startLinger s p) := hk.trans ((State.startLinger_keeps s p).mono hq)

theorem State.bindOff_keeps (s : State) (p : Nat) (drain : Nat) :
    goesOn [.free, .cmd, .hostMem, .lanes, .ports, .selv, .tdc, .time, .parse, .core, .contracts, .pair, .fw, .mbs, .fence, .events, .stats] s (State.bindOff s p drain) := by
  unfold State.bindOff
  try dsimp only
  repeat' with_reducible first
    | apply goesOn.refl | apply State.bindOffDone_on | apply State.setPort_on | apply State.updPort_on | decide | split

theorem State.bindOff_on {kp : List Part} {b0 : State} {s : State} {p : Nat} {drain : Nat} (hk : goesOn kp b0 s) (hq : ∀ p ∈ [.free, .cmd, .hostMem, .lanes, .ports, .selv, .tdc, .time, .parse, .core, .contracts, .pair, .fw, .mbs, .fence, .events, .stats], p ∈ kp) :
    goesOn kp b0 (State.bindOff s p drain) := hk.trans ((State.bindOff_keeps s p drain).mono hq)

theorem State.quadrantOff_keeps (s : State) (q : Nat) :
    goesOn [.free, .cmd, .hostMem, .lanes, .ports, .selv, .tdc, .time, .parse, .core, .contracts, .pair, .fw, .mbs, .fence, .events, .stats] s (State.quadrantOff s q) := by
  unfold State.quadrantOff
  try dsimp only
  repeat' first
    | with_reducible apply goesOn.refl | with_reducible assumption
    | (with_reducible apply keeps_foldl; rotate_left 1; intro y a hy) | with_reducible apply State.acquire_on
    | with_reducible apply State.finishBinds_on | with_reducible apply State.flushPort_on
    | with_reducible apply State.ingressDown_on | with_reducible apply State.updLane_on | with_reducible apply State.updPort_on
    | with_reducible decide

theorem State.quadrantOff_on {kp : List Part} {b0 : State} {s : State} {q : Nat} (hk : goesOn kp b0 s) (hq : ∀ p ∈ [.free, .cmd, .hostMem, .lanes, .ports, .selv, .tdc, .time, .parse, .core, .contracts, .pair, .fw, .mbs, .fence, .events, .stats], p ∈ kp) :
    goesOn kp b0 (State.quadrantOff s q) := hk.trans ((State.quadrantOff_keeps s q).mono hq)

theorem State.quadrantOn_keeps (s : State) (q : Nat) :
    goesOn [.lanes] s (State.quadrantOn s q) := by
  unfold State.quadrantOn
  try dsimp only
  repeat' first
    | with_reducible apply goesOn.refl | with_reducible assumption
    | (with_reducible apply keeps_foldl; rotate_left 1; intro y a hy) | with_reducible apply State.updLane_on
    | with_reducible decide

theorem State.quadrantOn_on {kp : List Part} {b0 : State} {s : State} {q : Nat} (hk : goesOn kp b0 s) (hq : ∀ p ∈ [.lanes], p ∈ kp) :
    goesOn kp b0 (State.quadrantOn s q) := hk.trans ((State.quadrantOn_keeps s q).mono hq)

theorem State.pairLanesOn_keeps (s : State) :
    goesOn [.lanes] s (State.pairLanesOn s) := by
  unfold State.pairLanesOn
  try dsimp only
  repeat' first
    | with_reducible apply goesOn.refl | with_reducible assumption
    | (with_reducible apply keeps_foldl; rotate_left 1; intro y a hy) | with_reducible apply State.updLane_on
    | with_reducible decide

theorem State.pairLanesOn_on {kp : List Part} {b0 : State} {s : State} (hk : goesOn kp b0 s) (hq : ∀ p ∈ [.lanes], p ∈ kp) :
    goesOn kp b0 (State.pairLanesOn s) := hk.trans ((State.pairLanesOn_keeps s).mono hq)

end Sys2Proof.Machine
end

