-- ==== Sys2Proof/Laws/Keeps/Timescale.lean ====
section
/-!
SUPPORT. Which parts of the state each operation of Timescale.lean touches.
-/
namespace Sys2Proof.Machine

theorem State.timeChange_keeps (s : State) (kind : TimeChgKind) (a : Int) (b : Int) (c : Int) (src : CmdSrc) (own : Bool) :
    goesOn [.time] s (State.timeChange s kind a b c src own) := by
  unfold State.timeChange
  try dsimp only
  repeat' with_reducible first
    | apply goesOn.refl | apply kset_time | decide

theorem State.timeChange_on {kp : List Part} {b0 : State} {s : State} {kind : TimeChgKind} {a : Int} {b : Int} {c : Int} {src : CmdSrc} {own : Bool} (hk : goesOn kp b0 s) (hq : ∀ p ∈ [.time], p ∈ kp) :
    goesOn kp b0 (State.timeChange s kind a b c src own) := hk.trans ((State.timeChange_keeps s kind a b c src own).mono hq)

theorem State.settleChange_keeps (s : State) (c : TimeChg) (st : Nat) (t : Nat) :
    goesOn [.cmd, .hostMem, .time, .ptp, .pair, .fw, .mbs, .fence, .events] s (State.settleChange s c st t) := by
  unfold State.settleChange
  try dsimp only
  repeat' with_reducible first
    | apply goesOn.refl | apply keeps_ite | apply State.finish_on | apply State.raise_on | apply kset_ptp | decide

theorem State.settleChange_on {kp : List Part} {b0 : State} {s : State} {c : TimeChg} {st : Nat} {t : Nat} (hk : goesOn kp b0 s) (hq : ∀ p ∈ [.cmd, .hostMem, .time, .ptp, .pair, .fw, .mbs, .fence, .events], p ∈ kp) :
    goesOn kp b0 (State.settleChange s c st t) := hk.trans ((State.settleChange_keeps s c st t).mono hq)

theorem State.stepRefused_keeps (s : State) (d : Int) :
    goesOn [.time, .fence, .events] s (State.stepRefused s d) := by
  unfold State.stepRefused
  try dsimp only
  repeat' with_reducible first
    | apply goesOn.refl | assumption | apply keeps_ite | apply State.hwCount_on | apply State.raise_on | apply kset_time | decide
    | split

theorem State.stepRefused_on {kp : List Part} {b0 : State} {s : State} {d : Int} (hk : goesOn kp b0 s) (hq : ∀ p ∈ [.time, .fence, .events], p ∈ kp) :
    goesOn kp b0 (State.stepRefused s d) := hk.trans ((State.stepRefused_keeps s d).mono hq)

theorem TimeAcc.step_keeps (a : TimeAcc) (t : Nat) (d : Int) (c : TimeChg) :
    goesOn [.cmd, .hostMem, .time, .ptp, .pair, .fw, .mbs, .fence, .events] a.s (TimeAcc.step a t d c).s := by
  unfold TimeAcc.step
  try dsimp only
  repeat' with_reducible first
    | apply goesOn.refl | assumption | apply keeps_ite | apply keeps_ite1 | apply keeps_ite2 | apply State.raise_on
    | apply State.settleChange_on | apply State.stepRefused_on | (apply keeps_fst; case e => assumption)
    | (apply keeps_snd; case e => assumption) | decide | split | apply kset_time

theorem TimeAcc.step_on {kp : List Part} {b0 : State} {a : TimeAcc} {t : Nat} {d : Int} {c : TimeChg} (hk : goesOn kp b0 a.s) (hq : ∀ p ∈ [.cmd, .hostMem, .time, .ptp, .pair, .fw, .mbs, .fence, .events], p ∈ kp) :
    goesOn kp b0 (TimeAcc.step a t d c).s := hk.trans ((TimeAcc.step_keeps a t d c).mono hq)

theorem TimeAcc.apply_keeps (t : Nat) (a : TimeAcc) (c : TimeChg) :
    goesOn [.cmd, .hostMem, .time, .ptp, .pair, .fw, .mbs, .fence, .events] a.s (TimeAcc.apply t a c).s := by
  unfold TimeAcc.apply
  try dsimp only
  repeat' with_reducible first
    | apply goesOn.refl | assumption | apply keeps_ite | apply keeps_ite1 | apply keeps_ite2 | apply State.raise_on
    | apply State.settleChange_on | apply State.stepRefused_on | apply TimeAcc.step_on | (apply keeps_fst; case e => assumption)
    | (apply keeps_snd; case e => assumption) | decide | split | apply kset_time

theorem TimeAcc.apply_on {kp : List Part} {b0 : State} {t : Nat} {a : TimeAcc} {c : TimeChg} (hk : goesOn kp b0 a.s) (hq : ∀ p ∈ [.cmd, .hostMem, .time, .ptp, .pair, .fw, .mbs, .fence, .events], p ∈ kp) :
    goesOn kp b0 (TimeAcc.apply t a c).s := hk.trans ((TimeAcc.apply_keeps t a c).mono hq)

theorem State.applyGuards_keeps (s : State) (t : Nat) (l : List TimeChg) :
    goesOn [.cmd, .hostMem, .time, .pair, .fw, .mbs, .fence, .events] s (State.applyGuards s t l) := by
  unfold State.applyGuards
  try dsimp only
  repeat' first
    | with_reducible apply goesOn.refl | with_reducible assumption | with_reducible apply keeps_ite
    | (with_reducible apply keeps_foldl; rotate_left 1; intro y a hy) | with_reducible apply State.finish_on
    | with_reducible apply kset_time | with_reducible decide

theorem State.applyGuards_on {kp : List Part} {b0 : State} {s : State} {t : Nat} {l : List TimeChg} (hk : goesOn kp b0 s) (hq : ∀ p ∈ [.cmd, .hostMem, .time, .pair, .fw, .mbs, .fence, .events], p ∈ kp) :
    goesOn kp b0 (State.applyGuards s t l) := hk.trans ((State.applyGuards_keeps s t l).mono hq)

theorem State.timeBoundary_keeps (s : State) (t : Nat) :
    goesOn [.cmd, .hostMem, .time, .ptp, .pair, .fw, .mbs, .fence, .events] s (State.timeBoundary s t).s := by
  unfold State.timeBoundary
  try dsimp only
  repeat' first
    | with_reducible apply goesOn.refl | with_reducible assumption
    | (with_reducible apply keeps_foldlA; rotate_left 1; intro y a hy)
    | (with_reducible apply keeps_foldl; rotate_left 1; intro y a hy) | with_reducible apply State.applyGuards_on
    | with_reducible apply State.finish_on | with_reducible apply State.raise_on | with_reducible apply TimeAcc.apply_on
    | with_reducible decide | split | with_reducible apply kset_time

theorem State.timeBoundary_on {kp : List Part} {b0 : State} {s : State} {t : Nat} (hk : goesOn kp b0 s) (hq : ∀ p ∈ [.cmd, .hostMem, .time, .ptp, .pair, .fw, .mbs, .fence, .events], p ∈ kp) :
    goesOn kp b0 (State.timeBoundary s t).s := hk.trans ((State.timeBoundary_keeps s t).mono hq)

theorem bodyTimeSet_keeps (src : CmdSrc) (target : KTime) (s : State) :
    Rep.keeps [.time] s (bodyTimeSet src target s) := by
  unfold bodyTimeSet
  try dsimp only
  repeat' with_reducible first
    | apply goesOn.refl | apply State.timeChange_on | apply rep_fail | apply rep_later | apply rep_ranges | apply rep_ite | decide

theorem bodyTimeSet_on {kp : List Part} {b0 : State} {src : CmdSrc} {target : KTime} {s : State} (hk : goesOn kp b0 s) (hq : ∀ p ∈ [.time], p ∈ kp) :
    Rep.keeps kp b0 (bodyTimeSet src target s) := .after hk ((bodyTimeSet_keeps src target s).mono hq)

theorem bodyTimeStep_keeps (src : CmdSrc) (ns : Int) (sub : Nat) (s : State) :
    Rep.keeps [.cmd, .hostMem, .time, .ptp, .pair, .fw, .mbs, .fence, .events] s (bodyTimeStep src ns sub s) := by
  unfold bodyTimeStep
  try dsimp only
  repeat' with_reducible first
    | apply goesOn.refl | apply State.timeChange_on | apply rep_fail | apply rep_later | apply rep_ranges | apply rep_ite | decide

theorem bodyTimeStep_on {kp : List Part} {b0 : State} {src : CmdSrc} {ns : Int} {sub : Nat} {s : State} (hk : goesOn kp b0 s) (hq : ∀ p ∈ [.cmd, .hostMem, .time, .ptp, .pair, .fw, .mbs, .fence, .events], p ∈ kp) :
    Rep.keeps kp b0 (bodyTimeStep src ns sub s) := .after hk ((bodyTimeStep_keeps src ns sub s).mono hq)

theorem bodyTimeSetRate_keeps (src : CmdSrc) (rate : Int) (s : State) :
    Rep.keeps [.time] s (bodyTimeSetRate src rate s) := by
  unfold bodyTimeSetRate
  try dsimp only
  repeat' with_reducible first
    | apply goesOn.refl | apply State.timeChange_on | apply rep_fail | apply rep_later | apply rep_ranges | apply rep_ite | decide

theorem bodyTimeSetRate_on {kp : List Part} {b0 : State} {src : CmdSrc} {rate : Int} {s : State} (hk : goesOn kp b0 s) (hq : ∀ p ∈ [.time], p ∈ kp) :
    Rep.keeps kp b0 (bodyTimeSetRate src rate s) := .after hk ((bodyTimeSetRate_keeps src rate s).mono hq)

theorem bodyTimeSetControl_keeps (src : CmdSrc) (control : Nat) (s : State) :
    Rep.keeps [.time] s (bodyTimeSetControl src control s) := by
  unfold bodyTimeSetControl
  try dsimp only
  repeat' with_reducible first
    | apply goesOn.refl | apply State.timeChange_on | apply rep_bad | apply rep_later | apply rep_ranges | apply rep_ite | decide

theorem bodyTimeSetControl_on {kp : List Part} {b0 : State} {src : CmdSrc} {control : Nat} {s : State} (hk : goesOn kp b0 s) (hq : ∀ p ∈ [.time], p ∈ kp) :
    Rep.keeps kp b0 (bodyTimeSetControl src control s) := .after hk ((bodyTimeSetControl_keeps src control s).mono hq)

theorem bodyTimeGet_keeps (src : CmdSrc) (s : State) :
    Rep.keeps [.time] s (bodyTimeGet src s) := by
  unfold bodyTimeGet
  try dsimp only
  repeat' with_reducible first
    | apply goesOn.refl | apply kset_time | apply rep_later | decide

theorem bodyTimeGet_on {kp : List Part} {b0 : State} {src : CmdSrc} {s : State} (hk : goesOn kp b0 s) (hq : ∀ p ∈ [.time], p ∈ kp) :
    Rep.keeps kp b0 (bodyTimeGet src s) := .after hk ((bodyTimeGet_keeps src s).mono hq)

theorem bodyTimeSetUtc_keeps (src : CmdSrc) (leap61 : Bool) (leap59 : Bool) (offset : Nat) (s : State) :
    Rep.keeps [.time] s (bodyTimeSetUtc src leap61 leap59 offset s) := by
  unfold bodyTimeSetUtc
  try dsimp only
  repeat' with_reducible first
    | apply goesOn.refl | apply State.timeChange_on | apply rep_flags | apply rep_later | apply rep_ranges | apply rep_ite
    | decide

theorem bodyTimeSetUtc_on {kp : List Part} {b0 : State} {src : CmdSrc} {leap61 : Bool} {leap59 : Bool} {offset : Nat} {s : State} (hk : goesOn kp b0 s) (hq : ∀ p ∈ [.time], p ∈ kp) :
    Rep.keeps kp b0 (bodyTimeSetUtc src leap61 leap59 offset s) := .after hk ((bodyTimeSetUtc_keeps src leap61 leap59 offset s).mono hq)

theorem bodySecSetStepGuard_keeps (src : CmdSrc) (g : Nat) (v : Nat) (s : State) :
    Rep.keeps [.time] s (bodySecSetStepGuard src g v s) := by
  unfold bodySecSetStepGuard
  try dsimp only
  repeat' with_reducible first
    | apply goesOn.refl | apply State.timeChange_on | apply rep_later | apply rep_ranges | decide

theorem bodySecSetStepGuard_on {kp : List Part} {b0 : State} {src : CmdSrc} {g : Nat} {v : Nat} {s : State} (hk : goesOn kp b0 s) (hq : ∀ p ∈ [.time], p ∈ kp) :
    Rep.keeps kp b0 (bodySecSetStepGuard src g v s) := .after hk ((bodySecSetStepGuard_keeps src g v s).mono hq)

theorem bodySecAuthoriseStep_keeps (src : CmdSrc) (direction : Nat) (magnitude : Nat) (validity : Nat) (s : State) :
    Rep.keeps [.time] s (bodySecAuthoriseStep src direction magnitude validity s) := by
  unfold bodySecAuthoriseStep
  try dsimp only
  repeat' with_reducible first
    | apply goesOn.refl | apply State.timeChange_on | apply rep_later | apply rep_ranges | decide

theorem bodySecAuthoriseStep_on {kp : List Part} {b0 : State} {src : CmdSrc} {direction : Nat} {magnitude : Nat} {validity : Nat} {s : State} (hk : goesOn kp b0 s) (hq : ∀ p ∈ [.time], p ∈ kp) :
    Rep.keeps kp b0 (bodySecAuthoriseStep src direction magnitude validity s) := .after hk ((bodySecAuthoriseStep_keeps src direction magnitude validity s).mono hq)

theorem execTimeSet_keeps (src : CmdSrc) (target : KTime) (s : State) :
    Out.keeps [.free, .cmd, .hostMem, .glob, .lanes, .selv, .tdc, .time, .ptp, .pair, .fw, .mbs, .fence, .events] s (execTimeSet src target s) := by
  unfold execTimeSet
  try dsimp only
  repeat' first
    | with_reducible apply goesOn.refl | with_reducible apply out_next
    | (with_reducible apply keeps_runCmd; rotate_left 1; intro y) | with_reducible apply bodyTimeSet_on | with_reducible decide

theorem execTimeSet_on {kp : List Part} {b0 : State} {src : CmdSrc} {target : KTime} {s : State} (hk : goesOn kp b0 s) (hq : ∀ p ∈ [.free, .cmd, .hostMem, .glob, .lanes, .selv, .tdc, .time, .ptp, .pair, .fw, .mbs, .fence, .events], p ∈ kp) :
    Out.keeps kp b0 (execTimeSet src target s) := .after hk ((execTimeSet_keeps src target s).mono hq)

theorem execTimeStep_keeps (src : CmdSrc) (ns : Int) (sub : Nat) (s : State) :
    Out.keeps [.cmd, .hostMem, .glob, .time, .ptp, .pair, .fw, .mbs, .fence, .events] s (execTimeStep src ns sub s) := by
  unfold execTimeStep
  try dsimp only
  repeat' first
    | with_reducible apply goesOn.refl | with_reducible apply out_next
    | (with_reducible apply keeps_runCmd; rotate_left 1; intro y) | with_reducible apply bodyTimeStep_on | with_reducible decide

theorem execTimeStep_on {kp : List Part} {b0 : State} {src : CmdSrc} {ns : Int} {sub : Nat} {s : State} (hk : goesOn kp b0 s) (hq : ∀ p ∈ [.cmd, .hostMem, .glob, .time, .ptp, .pair, .fw, .mbs, .fence, .events], p ∈ kp) :
    Out.keeps kp b0 (execTimeStep src ns sub s) := .after hk ((execTimeStep_keeps src ns sub s).mono hq)

theorem execTimeSetRate_keeps (src : CmdSrc) (rate : Int) (s : State) :
    Out.keeps [.cmd, .hostMem, .glob, .time, .pair, .fw, .mbs, .fence, .events] s (execTimeSetRate src rate s) := by
  unfold execTimeSetRate
  try dsimp only
  repeat' first
    | with_reducible apply goesOn.refl | with_reducible apply out_next
    | (with_reducible apply keeps_runCmd; rotate_left 1; intro y) | with_reducible apply bodyTimeSetRate_on
    | with_reducible decide

theorem execTimeSetRate_on {kp : List Part} {b0 : State} {src : CmdSrc} {rate : Int} {s : State} (hk : goesOn kp b0 s) (hq : ∀ p ∈ [.cmd, .hostMem, .glob, .time, .pair, .fw, .mbs, .fence, .events], p ∈ kp) :
    Out.keeps kp b0 (execTimeSetRate src rate s) := .after hk ((execTimeSetRate_keeps src rate s).mono hq)

theorem execTimeSetControl_keeps (src : CmdSrc) (control : Nat) (s : State) :
    Out.keeps [.cmd, .hostMem, .glob, .time, .pair, .fw, .mbs, .fence, .events] s (execTimeSetControl src control s) := by
  unfold execTimeSetControl
  try dsimp only
  repeat' first
    | with_reducible apply goesOn.refl | with_reducible apply out_next
    | (with_reducible apply keeps_runCmd; rotate_left 1; intro y) | with_reducible apply bodyTimeSetControl_on
    | with_reducible decide

theorem execTimeSetControl_on {kp : List Part} {b0 : State} {src : CmdSrc} {control : Nat} {s : State} (hk : goesOn kp b0 s) (hq : ∀ p ∈ [.cmd, .hostMem, .glob, .time, .pair, .fw, .mbs, .fence, .events], p ∈ kp) :
    Out.keeps kp b0 (execTimeSetControl src control s) := .after hk ((execTimeSetControl_keeps src control s).mono hq)

theorem execTimeGet_keeps (src : CmdSrc) (s : State) :
    Out.keeps [.cmd, .hostMem, .glob, .time, .pair, .fw, .mbs, .fence, .events] s (execTimeGet src s) := by
  unfold execTimeGet
  try dsimp only
  repeat' first
    | with_reducible apply goesOn.refl | with_reducible apply out_next
    | (with_reducible apply keeps_runCmd; rotate_left 1; intro y) | with_reducible apply bodyTimeGet_on | with_reducible decide

theorem execTimeGet_on {kp : List Part} {b0 : State} {src : CmdSrc} {s : State} (hk : goesOn kp b0 s) (hq : ∀ p ∈ [.cmd, .hostMem, .glob, .time, .pair, .fw, .mbs, .fence, .events], p ∈ kp) :
    Out.keeps kp b0 (execTimeGet src s) := .after hk ((execTimeGet_keeps src s).mono hq)

theorem execTimeSetUtc_keeps (src : CmdSrc) (leap61 : Bool) (leap59 : Bool) (offset : Nat) (s : State) :
    Out.keeps [.cmd, .hostMem, .glob, .time, .pair, .fw, .mbs, .fence, .events] s (execTimeSetUtc src leap61 leap59 offset s) := by
  unfold execTimeSetUtc
  try dsimp only
  repeat' first
    | with_reducible apply goesOn.refl | with_reducible apply out_next
    | (with_reducible apply keeps_runCmd; rotate_left 1; intro y) | with_reducible apply bodyTimeSetUtc_on | with_reducible decide

theorem execTimeSetUtc_on {kp : List Part} {b0 : State} {src : CmdSrc} {leap61 : Bool} {leap59 : Bool} {offset : Nat} {s : State} (hk : goesOn kp b0 s) (hq : ∀ p ∈ [.cmd, .hostMem, .glob, .time, .pair, .fw, .mbs, .fence, .events], p ∈ kp) :
    Out.keeps kp b0 (execTimeSetUtc src leap61 leap59 offset s) := .after hk ((execTimeSetUtc_keeps src leap61 leap59 offset s).mono hq)

theorem execSecSetStepGuard_keeps (src : CmdSrc) (g : Nat) (v : Nat) (s : State) :
    Out.keeps [.cmd, .hostMem, .glob, .time, .pair, .fw, .mbs, .fence, .events] s (execSecSetStepGuard src g v s) := by
  unfold execSecSetStepGuard
  try dsimp only
  repeat' first
    | with_reducible apply goesOn.refl | with_reducible apply out_next
    | (with_reducible apply keeps_runCmd; rotate_left 1; intro y) | with_reducible apply bodySecSetStepGuard_on
    | with_reducible decide

theorem execSecSetStepGuard_on {kp : List Part} {b0 : State} {src : CmdSrc} {g : Nat} {v : Nat} {s : State} (hk : goesOn kp b0 s) (hq : ∀ p ∈ [.cmd, .hostMem, .glob, .time, .pair, .fw, .mbs, .fence, .events], p ∈ kp) :
    Out.keeps kp b0 (execSecSetStepGuard src g v s) := .after hk ((execSecSetStepGuard_keeps src g v s).mono hq)

theorem execSecAuthoriseStep_keeps (src : CmdSrc) (direction : Nat) (magnitude : Nat) (validity : Nat) (s : State) :
    Out.keeps [.cmd, .hostMem, .glob, .time, .pair, .fw, .mbs, .fence, .events] s (execSecAuthoriseStep src direction magnitude validity s) := by
  unfold execSecAuthoriseStep
  try dsimp only
  repeat' first
    | with_reducible apply goesOn.refl | with_reducible apply out_next
    | (with_reducible apply keeps_runCmd; rotate_left 1; intro y) | with_reducible apply bodySecAuthoriseStep_on
    | with_reducible decide

theorem execSecAuthoriseStep_on {kp : List Part} {b0 : State} {src : CmdSrc} {direction : Nat} {magnitude : Nat} {validity : Nat} {s : State} (hk : goesOn kp b0 s) (hq : ∀ p ∈ [.cmd, .hostMem, .glob, .time, .pair, .fw, .mbs, .fence, .events], p ∈ kp) :
    Out.keeps kp b0 (execSecAuthoriseStep src direction magnitude validity s) := .after hk ((execSecAuthoriseStep_keeps src direction magnitude validity s).mono hq)

theorem execAllowanceExpired_keeps (s : State) :
    Out.keeps [.clock, .free, .cmd, .hostMem, .time, .pair, .fw, .mbs, .fence, .events, .stats] s (execAllowanceExpired s) := by
  unfold execAllowanceExpired
  try dsimp only
  repeat' with_reducible first
    | apply goesOn.refl | apply State.advanceTick_on | apply State.raise_on | apply kset_time | apply out_next | decide | split

theorem execAllowanceExpired_on {kp : List Part} {b0 : State} {s : State} (hk : goesOn kp b0 s) (hq : ∀ p ∈ [.clock, .free, .cmd, .hostMem, .time, .pair, .fw, .mbs, .fence, .events, .stats], p ∈ kp) :
    Out.keeps kp b0 (execAllowanceExpired s) := .after hk ((execAllowanceExpired_keeps s).mono hq)

theorem execHoldEnd_keeps (s : State) :
    Out.keeps [.clock, .free, .cmd, .hostMem, .time, .pair, .fw, .mbs, .fence, .events, .stats] s (execHoldEnd s) := by
  unfold execHoldEnd
  try dsimp only
  repeat' with_reducible first
    | apply goesOn.refl | apply State.advanceTick_on | apply State.raise_on | apply kset_time | apply out_next | apply out_ite
    | decide

theorem execHoldEnd_on {kp : List Part} {b0 : State} {s : State} (hk : goesOn kp b0 s) (hq : ∀ p ∈ [.clock, .free, .cmd, .hostMem, .time, .pair, .fw, .mbs, .fence, .events, .stats], p ∈ kp) :
    Out.keeps kp b0 (execHoldEnd s) := .after hk ((execHoldEnd_keeps s).mono hq)

theorem execTake_keeps (pf1 : Bool) (s : State) :
    Out.keeps [.time, .host] s (execTake pf1 s) := by
  unfold execTake
  try dsimp only
  repeat' with_reducible first
    | apply goesOn.refl | assumption | apply keeps_ite | apply kset_time_host | apply out_next | apply out_fault | apply out_ite
    | decide

theorem execTake_on {kp : List Part} {b0 : State} {pf1 : Bool} {s : State} (hk : goesOn kp b0 s) (hq : ∀ p ∈ [.time, .host], p ∈ kp) :
    Out.keeps kp b0 (execTake pf1 s) := .after hk ((execTake_keeps pf1 s).mono hq)

theorem State.ppsCapture_keeps (s : State) (n : Nat) (v : Stamp) :
    goesOn [.time, .fence, .events, .stats] s (State.ppsCapture s n v) := by
  unfold State.ppsCapture
  try dsimp only
  repeat' with_reducible first
    | apply goesOn.refl | apply State.raise_on | apply kset_time | decide

theorem State.ppsCapture_on {kp : List Part} {b0 : State} {s : State} {n : Nat} {v : Stamp} (hk : goesOn kp b0 s) (hq : ∀ p ∈ [.time, .fence, .events, .stats], p ∈ kp) :
    goesOn kp b0 (State.ppsCapture s n v) := hk.trans ((State.ppsCapture_keeps s n v).mono hq)

theorem execTsqStampTimeout_keeps (queue : Nat) (s : State) :
    Out.keeps [.clock, .free, .cmd, .hostMem, .time, .pair, .fw, .mbs, .fence, .events, .stats] s (execTsqStampTimeout queue s) := by
  unfold execTsqStampTimeout
  try dsimp only
  repeat' with_reducible first
    | apply goesOn.refl | apply State.advance_on | apply State.tsqEnd_on | apply out_next | apply out_fault | apply out_ite
    | decide | split

theorem execTsqStampTimeout_on {kp : List Part} {b0 : State} {queue : Nat} {s : State} (hk : goesOn kp b0 s) (hq : ∀ p ∈ [.clock, .free, .cmd, .hostMem, .time, .pair, .fw, .mbs, .fence, .events, .stats], p ∈ kp) :
    Out.keeps kp b0 (execTsqStampTimeout queue s) := .after hk ((execTsqStampTimeout_keeps queue s).mono hq)

end Sys2Proof.Machine
end

