-- ==== Sys2Proof/Laws/Keeps/Servo.lean ====
section
/-!
SUPPORT. Which parts of the state each operation of Servo.lean touches.
-/
namespace Sys2Proof.Machine

theorem State.squelchOutputs_keeps (s : State) :
    goesOn [.ref] s (State.squelchOutputs s) := by
  unfold State.squelchOutputs
  try dsimp only
  repeat' with_reducible first
    | apply goesOn.refl | apply kset_ref | decide

theorem State.squelchOutputs_on {kp : List Part} {b0 : State} {s : State} (hk : goesOn kp b0 s) (hq : ∀ p ∈ [.ref], p ∈ kp) :
    goesOn kp b0 (State.squelchOutputs s) := hk.trans ((State.squelchOutputs_keeps s).mono hq)

theorem State.refreshLevel_keeps (s : State) :
    goesOn [.ref, .fence, .events] s (State.refreshLevel s) := by
  unfold State.refreshLevel
  try dsimp only
  repeat' with_reducible first
    | apply goesOn.refl | apply keeps_ite | apply State.raise_on | apply State.squelchOutputs_on | apply kset_ref | decide

theorem State.refreshLevel_on {kp : List Part} {b0 : State} {s : State} (hk : goesOn kp b0 s) (hq : ∀ p ∈ [.ref, .fence, .events], p ∈ kp) :
    goesOn kp b0 (State.refreshLevel s) := hk.trans ((State.refreshLevel_keeps s).mono hq)

theorem State.slotLevel_keeps (s : State) (n : Nat) (level : Nat) (hops : Nat) :
    goesOn [.ref, .fence, .events] s (State.slotLevel s n level hops) := by
  unfold State.slotLevel
  try dsimp only
  repeat' with_reducible first
    | apply goesOn.refl | apply keeps_ite | apply State.raise_on | apply State.refreshLevel_on | apply State.updSlot_on | decide

theorem State.slotLevel_on {kp : List Part} {b0 : State} {s : State} {n : Nat} {level : Nat} {hops : Nat} (hk : goesOn kp b0 s) (hq : ∀ p ∈ [.ref, .fence, .events], p ∈ kp) :
    goesOn kp b0 (State.slotLevel s n level hops) := hk.trans ((State.slotLevel_keeps s n level hops).mono hq)

theorem State.updDual_keeps (s : State) (p : Nat) (f : Asym → Asym) :
    goesOn [.ptp] s (State.updDual s p f) := by
  unfold State.updDual
  try dsimp only
  repeat' with_reducible first
    | apply goesOn.refl | apply State.updAsym_on | decide

theorem State.updDual_on {kp : List Part} {b0 : State} {s : State} {p : Nat} {f : Asym → Asym} (hk : goesOn kp b0 s) (hq : ∀ p ∈ [.ptp], p ∈ kp) :
    goesOn kp b0 (State.updDual s p f) := hk.trans ((State.updDual_keeps s p f).mono hq)

theorem State.discardDual_keeps (s : State) (p : Nat) (peer : Bool) :
    goesOn [.ptp] s (State.discardDual s p peer) := by
  unfold State.discardDual
  try dsimp only
  repeat' with_reducible first
    | apply goesOn.refl | apply State.updDual_on | decide

theorem State.discardDual_on {kp : List Part} {b0 : State} {s : State} {p : Nat} {peer : Bool} (hk : goesOn kp b0 s) (hq : ∀ p ∈ [.ptp], p ∈ kp) :
    goesOn kp b0 (State.discardDual s p peer) := hk.trans ((State.discardDual_keeps s p peer).mono hq)

theorem State.dualSample_keeps (s : State) (a : Nat) (b : Nat) :
    goesOn [.ptp, .fence, .events] s (State.dualSample s a b) := by
  unfold State.dualSample
  try dsimp only
  repeat' with_reducible first
    | apply goesOn.refl | apply keeps_ite | apply State.discardDual_on | apply State.raise_on | apply State.updDual_on | decide

theorem State.dualSample_on {kp : List Part} {b0 : State} {s : State} {a : Nat} {b : Nat} (hk : goesOn kp b0 s) (hq : ∀ p ∈ [.ptp, .fence, .events], p ∈ kp) :
    goesOn kp b0 (State.dualSample s a b) := hk.trans ((State.dualSample_keeps s a b).mono hq)

theorem State.dualBoundary_keeps (s : State) :
    goesOn [.ptp, .fence, .events] s (State.dualBoundary s) := by
  unfold State.dualBoundary
  try dsimp only
  repeat' first
    | with_reducible apply goesOn.refl | with_reducible assumption | with_reducible apply keeps_ite
    | (with_reducible apply keeps_foldl; rotate_left 1; intro y a hy) | with_reducible apply State.dualSample_on
    | with_reducible decide

theorem State.dualBoundary_on {kp : List Part} {b0 : State} {s : State} (hk : goesOn kp b0 s) (hq : ∀ p ∈ [.ptp, .fence, .events], p ∈ kp) :
    goesOn kp b0 (State.dualBoundary s) := hk.trans ((State.dualBoundary_keeps s).mono hq)

theorem execAsymFallback_keeps (port : Nat) (s : State) :
    Out.keeps [.clock, .free, .cmd, .hostMem, .ptp, .pair, .fw, .mbs, .fence, .events, .stats] s (execAsymFallback port s) := by
  unfold execAsymFallback
  try dsimp only
  repeat' with_reducible first
    | apply goesOn.refl | apply State.advance_on | apply State.raise_on | apply State.updDual_on | apply out_next
    | apply out_fault | apply out_ite | decide

theorem execAsymFallback_on {kp : List Part} {b0 : State} {port : Nat} {s : State} (hk : goesOn kp b0 s) (hq : ∀ p ∈ [.clock, .free, .cmd, .hostMem, .ptp, .pair, .fw, .mbs, .fence, .events, .stats], p ∈ kp) :
    Out.keeps kp b0 (execAsymFallback port s) := .after hk ((execAsymFallback_keeps port s).mono hq)

theorem State.updServo_keeps (s : State) (f : Servo → Servo) :
    goesOn [.ptp] s (State.updServo s f) := by
  unfold State.updServo
  try dsimp only
  repeat' with_reducible first
    | apply goesOn.refl | apply kset_ptp | decide

theorem State.updServo_on {kp : List Part} {b0 : State} {s : State} {f : Servo → Servo} (hk : goesOn kp b0 s) (hq : ∀ p ∈ [.ptp], p ∈ kp) :
    goesOn kp b0 (State.updServo s f) := hk.trans ((State.updServo_keeps s f).mono hq)

theorem State.servoRate_keeps (s : State) (r : Int) :
    goesOn [.time, .ptp] s (State.servoRate s r) := by
  unfold State.servoRate
  try dsimp only
  repeat' with_reducible first
    | apply goesOn.refl | apply keeps_ite | apply State.timeChange_on | apply State.updServo_on | decide

theorem State.servoRate_on {kp : List Part} {b0 : State} {s : State} {r : Int} (hk : goesOn kp b0 s) (hq : ∀ p ∈ [.time, .ptp], p ∈ kp) :
    goesOn kp b0 (State.servoRate s r) := hk.trans ((State.servoRate_keeps s r).mono hq)

theorem State.servoLoop_keeps (s : State) :
    goesOn [.free, .time, .ptp] s (State.servoLoop s) := by
  unfold State.servoLoop
  try dsimp only
  repeat' with_reducible first
    | apply goesOn.refl | apply State.servoRate_on | apply State.takeFree_on | decide

theorem State.servoLoop_on {kp : List Part} {b0 : State} {s : State} (hk : goesOn kp b0 s) (hq : ∀ p ∈ [.free, .time, .ptp], p ∈ kp) :
    goesOn kp b0 (State.servoLoop s) := hk.trans ((State.servoLoop_keeps s).mono hq)

theorem State.servoSample_keeps (s : State) (n : Nat) (o : Int) :
    goesOn [.free, .cmd, .hostMem, .lanes, .selv, .tdc, .time, .ptp, .pair, .fw, .mbs, .fence, .events] s (State.servoSample s n o) := by
  unfold State.servoSample
  try dsimp only
  repeat' with_reducible first
    | apply goesOn.refl | apply keeps_ite | apply State.raise_on | apply State.servoLoop_on | apply State.servoRate_on
    | apply State.timeChange_on | apply State.updServo_on | decide | split

theorem State.servoSample_on {kp : List Part} {b0 : State} {s : State} {n : Nat} {o : Int} (hk : goesOn kp b0 s) (hq : ∀ p ∈ [.free, .cmd, .hostMem, .lanes, .selv, .tdc, .time, .ptp, .pair, .fw, .mbs, .fence, .events], p ∈ kp) :
    goesOn kp b0 (State.servoSample s n o) := hk.trans ((State.servoSample_keeps s n o).mono hq)

theorem State.servoSource_keeps (s : State) (n : Option Nat) :
    goesOn [.lanes, .selv, .tdc, .ptp, .fence, .events] s (State.servoSource s n) := by
  unfold State.servoSource
  try dsimp only
  repeat' with_reducible first
    | apply goesOn.refl | apply keeps_ite | apply State.raise_on | apply State.updServo_on | decide | split

theorem State.servoSource_on {kp : List Part} {b0 : State} {s : State} {n : Option Nat} (hk : goesOn kp b0 s) (hq : ∀ p ∈ [.lanes, .selv, .tdc, .ptp, .fence, .events], p ∈ kp) :
    goesOn kp b0 (State.servoSource s n) := hk.trans ((State.servoSource_keeps s n).mono hq)

theorem State.ppsSample_keeps (s : State) (n : Nat) (v : Stamp) :
    goesOn [.free, .cmd, .hostMem, .lanes, .selv, .tdc, .time, .ptp, .pair, .fw, .mbs, .fence, .events] s (State.ppsSample s n v) := by
  unfold State.ppsSample
  try dsimp only
  repeat' with_reducible first
    | apply goesOn.refl | apply keeps_ite | apply State.servoSample_on | apply State.updServo_on | decide

theorem State.ppsSample_on {kp : List Part} {b0 : State} {s : State} {n : Nat} {v : Stamp} (hk : goesOn kp b0 s) (hq : ∀ p ∈ [.free, .cmd, .hostMem, .lanes, .selv, .tdc, .time, .ptp, .pair, .fw, .mbs, .fence, .events], p ∈ kp) :
    goesOn kp b0 (State.ppsSample s n v) := hk.trans ((State.ppsSample_keeps s n v).mono hq)

theorem bodyServoConfigure_keeps (mode : Nat) (slot : Nat) (bandwidth : Nat) (maxSlew : Int) (stepThr : Nat) (lockThr : Nat) (ppsOffset : Int) (s : State) :
    Rep.keeps [.ptp] s (bodyServoConfigure mode slot bandwidth maxSlew stepThr lockThr ppsOffset s) := by
  unfold bodyServoConfigure
  try dsimp only
  repeat' with_reducible first
    | apply goesOn.refl | apply kset_ptp | apply rep_ok | apply rep_ranges | decide

theorem bodyServoConfigure_on {kp : List Part} {b0 : State} {mode : Nat} {slot : Nat} {bandwidth : Nat} {maxSlew : Int} {stepThr : Nat} {lockThr : Nat} {ppsOffset : Int} {s : State} (hk : goesOn kp b0 s) (hq : ∀ p ∈ [.ptp], p ∈ kp) :
    Rep.keeps kp b0 (bodyServoConfigure mode slot bandwidth maxSlew stepThr lockThr ppsOffset s) := .after hk ((bodyServoConfigure_keeps mode slot bandwidth maxSlew stepThr lockThr ppsOffset s).mono hq)

theorem bodyServoGet_keeps (s : State) :
    Rep.keeps [.lanes, .selv, .tdc] s (bodyServoGet s) := by
  unfold bodyServoGet
  try dsimp only
  repeat' with_reducible first
    | apply goesOn.refl | apply rep_ok

theorem bodyServoGet_on {kp : List Part} {b0 : State} {s : State} (hk : goesOn kp b0 s) (hq : ∀ p ∈ [.lanes, .selv, .tdc], p ∈ kp) :
    Rep.keeps kp b0 (bodyServoGet s) := .after hk ((bodyServoGet_keeps s).mono hq)

theorem execServoConfigure_keeps (src : CmdSrc) (mode : Nat) (slot : Nat) (bandwidth : Nat) (maxSlew : Int) (stepThr : Nat) (lockThr : Nat) (ppsOffset : Int) (s : State) :
    Out.keeps [.cmd, .hostMem, .glob, .ptp, .pair, .fw, .mbs, .fence, .events] s (execServoConfigure src mode slot bandwidth maxSlew stepThr lockThr ppsOffset s) := by
  unfold execServoConfigure
  try dsimp only
  repeat' first
    | with_reducible apply goesOn.refl | with_reducible apply out_next
    | (with_reducible apply keeps_runCmd; rotate_left 1; intro y) | with_reducible apply bodyServoConfigure_on
    | with_reducible decide

theorem execServoConfigure_on {kp : List Part} {b0 : State} {src : CmdSrc} {mode : Nat} {slot : Nat} {bandwidth : Nat} {maxSlew : Int} {stepThr : Nat} {lockThr : Nat} {ppsOffset : Int} {s : State} (hk : goesOn kp b0 s) (hq : ∀ p ∈ [.cmd, .hostMem, .glob, .ptp, .pair, .fw, .mbs, .fence, .events], p ∈ kp) :
    Out.keeps kp b0 (execServoConfigure src mode slot bandwidth maxSlew stepThr lockThr ppsOffset s) := .after hk ((execServoConfigure_keeps src mode slot bandwidth maxSlew stepThr lockThr ppsOffset s).mono hq)

theorem execServoGet_keeps (src : CmdSrc) (s : State) :
    Out.keeps [.cmd, .hostMem, .glob, .lanes, .selv, .tdc, .pair, .fw, .mbs, .fence, .events] s (execServoGet src s) := by
  unfold execServoGet
  try dsimp only
  repeat' first
    | with_reducible apply goesOn.refl | with_reducible apply out_next
    | (with_reducible apply keeps_runCmd; rotate_left 1; intro y) | with_reducible apply bodyServoGet_on | with_reducible decide

theorem execServoGet_on {kp : List Part} {b0 : State} {src : CmdSrc} {s : State} (hk : goesOn kp b0 s) (hq : ∀ p ∈ [.cmd, .hostMem, .glob, .lanes, .selv, .tdc, .pair, .fw, .mbs, .fence, .events], p ∈ kp) :
    Out.keeps kp b0 (execServoGet src s) := .after hk ((execServoGet_keeps src s).mono hq)

end Sys2Proof.Machine
end

