-- ==== Sys2Proof/Laws/Keeps/Selvedge.lean ====
section
/-!
SUPPORT. Which parts of the state each operation of Selvedge.lean touches.
-/
namespace Sys2Proof.Machine

theorem State.stitchError_keeps (s : State) (p : Nat) (fail : Nat) :
    goesOn [.selv, .stitch, .fence, .events] s (State.stitchError s p fail) := by
  unfold State.stitchError
  try dsimp only
  repeat' with_reducible first
    | apply goesOn.refl | apply keeps_ite | apply State.raise_on | apply State.updSelv_on | apply State.updSt_on | decide

theorem State.stitchError_on {kp : List Part} {b0 : State} {s : State} {p : Nat} {fail : Nat} (hk : goesOn kp b0 s) (hq : ∀ p ∈ [.selv, .stitch, .fence, .events], p ∈ kp) :
    goesOn kp b0 (State.stitchError s p fail) := hk.trans ((State.stitchError_keeps s p fail).mono hq)

theorem State.rangeSample_keeps (s : State) (p : Nat) (a : Int) (b : Int) (rtt : Int) :
    goesOn [.selv, .ptp, .fence, .events] s (State.rangeSample s p a b rtt) := by
  unfold State.rangeSample
  try dsimp only
  repeat' with_reducible first
    | apply goesOn.refl | apply keeps_ite | apply State.raise_on | apply State.updAsym_on | apply State.updSelv_on | decide

theorem State.rangeSample_on {kp : List Part} {b0 : State} {s : State} {p : Nat} {a : Int} {b : Int} {rtt : Int} (hk : goesOn kp b0 s) (hq : ∀ p ∈ [.selv, .ptp, .fence, .events], p ∈ kp) :
    goesOn kp b0 (State.rangeSample s p a b rtt) := hk.trans ((State.rangeSample_keeps s p a b rtt).mono hq)

theorem State.echoCount_keeps (s : State) (p : Nat) (which : Nat) :
    goesOn [.selv] s (State.echoCount s p which) := by
  unfold State.echoCount
  try dsimp only
  repeat' with_reducible first
    | apply goesOn.refl | apply State.updSelv_on | decide

theorem State.echoCount_on {kp : List Part} {b0 : State} {s : State} {p : Nat} {which : Nat} (hk : goesOn kp b0 s) (hq : ∀ p ∈ [.selv], p ∈ kp) :
    goesOn kp b0 (State.echoCount s p which) := hk.trans ((State.echoCount_keeps s p which).mono hq)

theorem State.echoPair_keeps (s : State) (p : Nat) (v : Nat) (rowStart : Int) :
    goesOn [.selv, .ptp, .fence, .events] s (State.echoPair s p v rowStart) := by
  unfold State.echoPair
  try dsimp only
  repeat' with_reducible first
    | apply goesOn.refl | apply keeps_ite | apply State.echoCount_on | apply State.rangeSample_on | decide | split

theorem State.echoPair_on {kp : List Part} {b0 : State} {s : State} {p : Nat} {v : Nat} {rowStart : Int} (hk : goesOn kp b0 s) (hq : ∀ p ∈ [.selv, .ptp, .fence, .events], p ∈ kp) :
    goesOn kp b0 (State.echoPair s p v rowStart) := hk.trans ((State.echoPair_keeps s p v rowStart).mono hq)

theorem State.markReceived_keeps (s : State) (p : Nat) (n : Nat) (rowStart : Int) :
    goesOn [.selv] s (State.markReceived s p n rowStart) := by
  unfold State.markReceived
  try dsimp only
  repeat' with_reducible first
    | apply goesOn.refl | apply State.updSelv_on | decide

theorem State.markReceived_on {kp : List Part} {b0 : State} {s : State} {p : Nat} {n : Nat} {rowStart : Int} (hk : goesOn kp b0 s) (hq : ∀ p ∈ [.selv], p ∈ kp) :
    goesOn kp b0 (State.markReceived s p n rowStart) := hk.trans ((State.markReceived_keeps s p n rowStart).mono hq)

theorem State.timeSet_keeps (s : State) (p : Nat) (sec : Nat) (tns : Nat) (delay : Nat) :
    goesOn [.free, .cmd, .hostMem, .lanes, .selv, .tdc, .time, .ptp, .pair, .fw, .mbs, .fence, .events] s (State.timeSet s p sec tns delay) := by
  unfold State.timeSet
  try dsimp only
  repeat' with_reducible first
    | apply goesOn.refl | apply keeps_ite | apply State.servoSample_on | apply State.updSelv_on | apply State.updServo_on | decide
    | split

theorem State.timeSet_on {kp : List Part} {b0 : State} {s : State} {p : Nat} {sec : Nat} {tns : Nat} {delay : Nat} (hk : goesOn kp b0 s) (hq : ∀ p ∈ [.free, .cmd, .hostMem, .lanes, .selv, .tdc, .time, .ptp, .pair, .fw, .mbs, .fence, .events], p ∈ kp) :
    goesOn kp b0 (State.timeSet s p sec tns delay) := hk.trans ((State.timeSet_keeps s p sec tns delay).mono hq)

theorem State.linkStitch_keeps (s : State) (p : Nat) (type : Nat) (v : Nat) (start : Int) :
    goesOn [.free, .cmd, .hostMem, .lanes, .selv, .tdc, .ref, .time, .ptp, .pair, .fw, .mbs, .fence, .events] s (State.linkStitch s p type v start) := by
  unfold State.linkStitch
  try dsimp only
  repeat' with_reducible first
    | apply goesOn.refl | apply State.echoPair_on | apply State.markReceived_on | apply State.slotLevel_on
    | apply State.timeSet_on | apply State.updSelv_on | decide | split

theorem State.linkStitch_on {kp : List Part} {b0 : State} {s : State} {p : Nat} {type : Nat} {v : Nat} {start : Int} (hk : goesOn kp b0 s) (hq : ∀ p ∈ [.free, .cmd, .hostMem, .lanes, .selv, .tdc, .ref, .time, .ptp, .pair, .fw, .mbs, .fence, .events], p ∈ kp) :
    goesOn kp b0 (State.linkStitch s p type v start) := hk.trans ((State.linkStitch_keeps s p type v start).mono hq)

theorem execRangeTimeout_keeps (port : Nat) (s : State) :
    Out.keeps [.clock, .free, .cmd, .hostMem, .selv, .ptp, .pair, .fw, .mbs, .fence, .events, .stats] s (execRangeTimeout port s) := by
  unfold execRangeTimeout
  try dsimp only
  repeat' with_reducible first
    | apply goesOn.refl | assumption | apply keeps_ite | apply State.advance_on | apply State.raise_on | apply State.updAsym_on
    | apply State.updSelv_on | apply out_next | apply out_fault | apply out_ite | apply Rep.ranges_on | decide | split

theorem execRangeTimeout_on {kp : List Part} {b0 : State} {port : Nat} {s : State} (hk : goesOn kp b0 s) (hq : ∀ p ∈ [.clock, .free, .cmd, .hostMem, .selv, .ptp, .pair, .fw, .mbs, .fence, .events, .stats], p ∈ kp) :
    Out.keeps kp b0 (execRangeTimeout port s) := .after hk ((execRangeTimeout_keeps port s).mono hq)

theorem State.sendMark_keeps (s : State) (p : Nat) (row : Nat) :
    goesOn [.selv, .ptp] s (State.sendMark s p row).1 := by
  unfold State.sendMark
  try dsimp only
  repeat' with_reducible first
    | apply goesOn.refl | assumption | apply keeps_ite | apply State.updAsym_on | apply State.updSelv_on | decide | split

theorem State.sendMark_on {kp : List Part} {b0 : State} {s : State} {p : Nat} {row : Nat} (hk : goesOn kp b0 s) (hq : ∀ p ∈ [.selv, .ptp], p ∈ kp) :
    goesOn kp b0 (State.sendMark s p row).1 := hk.trans ((State.sendMark_keeps s p row).mono hq)

theorem State.sendTension_keeps (s : State) (p : Nat) (row : Nat) :
    goesOn [.selv] s (State.sendTension s p row).1 := by
  unfold State.sendTension
  try dsimp only
  repeat' with_reducible first
    | apply goesOn.refl | assumption | apply keeps_ite | apply State.updSelv_on | decide | split

theorem State.sendTension_on {kp : List Part} {b0 : State} {s : State} {p : Nat} {row : Nat} (hk : goesOn kp b0 s) (hq : ∀ p ∈ [.selv], p ∈ kp) :
    goesOn kp b0 (State.sendTension s p row).1 := hk.trans ((State.sendTension_keeps s p row).mono hq)

theorem State.sendTime_keeps (s : State) (p : Nat) :
    goesOn [.selv] s (State.sendTime s p).1 := by
  unfold State.sendTime
  try dsimp only
  repeat' with_reducible first
    | apply goesOn.refl | assumption | apply keeps_ite | apply State.updSelv_on | decide | split

theorem State.sendTime_on {kp : List Part} {b0 : State} {s : State} {p : Nat} (hk : goesOn kp b0 s) (hq : ∀ p ∈ [.selv], p ∈ kp) :
    goesOn kp b0 (State.sendTime s p).1 := hk.trans ((State.sendTime_keeps s p).mono hq)

theorem State.linkSlot_keeps (s : State) (p : Nat) (k : Nat) :
    goesOn [.selv, .ptp] s (State.linkSlot s p k).1 := by
  unfold State.linkSlot
  try dsimp only
  repeat' with_reducible first
    | apply goesOn.refl | assumption | apply keeps_ite | apply State.sendMark_on | apply State.sendTension_on
    | apply State.sendTime_on | apply State.updSelv_on | apply Rep.ranges_on | (apply keeps_repOk; case e => assumption)
    | (apply keeps_repLater; case e => assumption) | (apply keeps_repDone; case e => assumption) | decide | split

theorem State.linkSlot_on {kp : List Part} {b0 : State} {s : State} {p : Nat} {k : Nat} (hk : goesOn kp b0 s) (hq : ∀ p ∈ [.selv, .ptp], p ∈ kp) :
    goesOn kp b0 (State.linkSlot s p k).1 := hk.trans ((State.linkSlot_keeps s p k).mono hq)

theorem bodySelvedgeConfigure_keeps (port : Nat) (slots : Nat) (markInterval : Nat) (outlier : Nat) (rangeTimeout : Nat) (s : State) :
    Rep.keeps [.selv, .contracts, .fw, .fence, .events] s (bodySelvedgeConfigure port slots markInterval outlier rangeTimeout s) := by
  unfold bodySelvedgeConfigure
  try dsimp only
  repeat' with_reducible first
    | apply goesOn.refl | apply keeps_ite | apply State.reevaluate_on | apply State.updSelv_on | apply rep_ok | apply rep_bad
    | apply rep_ranges | apply rep_ite | decide

theorem bodySelvedgeConfigure_on {kp : List Part} {b0 : State} {port : Nat} {slots : Nat} {markInterval : Nat} {outlier : Nat} {rangeTimeout : Nat} {s : State} (hk : goesOn kp b0 s) (hq : ∀ p ∈ [.selv, .contracts, .fw, .fence, .events], p ∈ kp) :
    Rep.keeps kp b0 (bodySelvedgeConfigure port slots markInterval outlier rangeTimeout s) := .after hk ((bodySelvedgeConfigure_keeps port slots markInterval outlier rangeTimeout s).mono hq)

theorem bodySelvedgeGetRange_keeps (port : Nat) (s : State) :
    Rep.keeps [.free, .lanes] s (bodySelvedgeGetRange port s) := by
  unfold bodySelvedgeGetRange
  try dsimp only
  repeat' with_reducible first
    | apply goesOn.refl | assumption | apply keeps_ite | apply State.takeFree_on | apply State.updLane_on | apply Rep.badState_on
    | apply Rep.ranges_on | apply rep_ok | apply rep_fail | apply rep_range | apply rep_bad | apply rep_flags | apply rep_done
    | apply rep_later | apply rep_ranges | apply rep_ite | decide | split

theorem bodySelvedgeGetRange_on {kp : List Part} {b0 : State} {port : Nat} {s : State} (hk : goesOn kp b0 s) (hq : ∀ p ∈ [.free, .lanes], p ∈ kp) :
    Rep.keeps kp b0 (bodySelvedgeGetRange port s) := .after hk ((bodySelvedgeGetRange_keeps port s).mono hq)

theorem execSelvedgeConfigure_keeps (src : CmdSrc) (port : Nat) (slots : Nat) (markInterval : Nat) (outlier : Nat) (rangeTimeout : Nat) (s : State) :
    Out.keeps [.cmd, .hostMem, .glob, .selv, .contracts, .pair, .fw, .mbs, .fence, .events] s (execSelvedgeConfigure src port slots markInterval outlier rangeTimeout s) := by
  unfold execSelvedgeConfigure
  try dsimp only
  repeat' first
    | with_reducible apply goesOn.refl | with_reducible apply out_next
    | (with_reducible apply keeps_runCmd; rotate_left 1; intro y) | with_reducible apply bodySelvedgeConfigure_on
    | with_reducible decide

theorem execSelvedgeConfigure_on {kp : List Part} {b0 : State} {src : CmdSrc} {port : Nat} {slots : Nat} {markInterval : Nat} {outlier : Nat} {rangeTimeout : Nat} {s : State} (hk : goesOn kp b0 s) (hq : ∀ p ∈ [.cmd, .hostMem, .glob, .selv, .contracts, .pair, .fw, .mbs, .fence, .events], p ∈ kp) :
    Out.keeps kp b0 (execSelvedgeConfigure src port slots markInterval outlier rangeTimeout s) := .after hk ((execSelvedgeConfigure_keeps src port slots markInterval outlier rangeTimeout s).mono hq)

theorem execSelvedgeGetRange_keeps (src : CmdSrc) (port : Nat) (s : State) :
    Out.keeps [.free, .cmd, .hostMem, .glob, .lanes, .pair, .fw, .mbs, .fence, .events] s (execSelvedgeGetRange src port s) := by
  unfold execSelvedgeGetRange
  try dsimp only
  repeat' first
    | with_reducible apply goesOn.refl | with_reducible apply out_next
    | (with_reducible apply keeps_runCmd; rotate_left 1; intro y) | with_reducible apply bodySelvedgeGetRange_on
    | with_reducible decide

theorem execSelvedgeGetRange_on {kp : List Part} {b0 : State} {src : CmdSrc} {port : Nat} {s : State} (hk : goesOn kp b0 s) (hq : ∀ p ∈ [.free, .cmd, .hostMem, .glob, .lanes, .pair, .fw, .mbs, .fence, .events], p ∈ kp) :
    Out.keeps kp b0 (execSelvedgeGetRange src port s) := .after hk ((execSelvedgeGetRange_keeps src port s).mono hq)

end Sys2Proof.Machine
end

