-- ==== Sys2Proof/Laws/Keeps/Refs.lean ====
section
/-!
SUPPORT. Which parts of the state each operation of Refs.lean touches.
-/
namespace Sys2Proof.Machine

theorem State.publish_keeps (s : State) (n : Nat) (m : Meas) :
    goesOn [.ref, .fence, .events] s (State.publish s n m) := by
  unfold State.publish
  try dsimp only
  repeat' with_reducible first
    | apply goesOn.refl | apply keeps_ite | apply State.raise_on | apply State.updSlot_on | decide

theorem State.publish_on {kp : List Part} {b0 : State} {s : State} {n : Nat} {m : Meas} (hk : goesOn kp b0 s) (hq : ∀ p ∈ [.ref, .fence, .events], p ∈ kp) :
    goesOn kp b0 (State.publish s n m) := hk.trans ((State.publish_keeps s n m).mono hq)

theorem State.publishSlot_keeps (s : State) (t : Nat) (n : Nat) :
    goesOn [.ref, .fence, .events] s (State.publishSlot s t n) := by
  unfold State.publishSlot
  try dsimp only
  repeat' first
    | with_reducible apply goesOn.refl | with_reducible assumption | with_reducible apply keeps_ite
    | (with_reducible apply keeps_foldl; rotate_left 1; intro y a hy) | with_reducible apply State.publish_on
    | with_reducible apply State.updSlot_on | with_reducible decide | split

theorem State.publishSlot_on {kp : List Part} {b0 : State} {s : State} {t : Nat} {n : Nat} (hk : goesOn kp b0 s) (hq : ∀ p ∈ [.ref, .fence, .events], p ∈ kp) :
    goesOn kp b0 (State.publishSlot s t n) := hk.trans ((State.publishSlot_keeps s t n).mono hq)

theorem State.refEdge_keeps (s : State) (c : Nat) (tick : Nat) (phase : Nat) (fine : Nat) (width : Nat) :
    goesOn [.free, .cmd, .hostMem, .lanes, .selv, .tdc, .gauge, .ref, .time, .ptp, .pair, .fw, .mbs, .fence, .events, .stats] s (State.refEdge s c tick phase fine width).1 := by
  unfold State.refEdge
  try dsimp only
  repeat' with_reducible first
    | apply goesOn.refl | assumption | apply keeps_ite | apply State.loseStamp_on | apply State.ppsCapture_on
    | apply State.ppsSample_on | apply State.takeStamp_on | apply State.updSlot_on | decide | split

theorem State.refEdge_on {kp : List Part} {b0 : State} {s : State} {c : Nat} {tick : Nat} {phase : Nat} {fine : Nat} {width : Nat} (hk : goesOn kp b0 s) (hq : ∀ p ∈ [.free, .cmd, .hostMem, .lanes, .selv, .tdc, .gauge, .ref, .time, .ptp, .pair, .fw, .mbs, .fence, .events, .stats], p ∈ kp) :
    goesOn kp b0 (State.refEdge s c tick phase fine width).1 := hk.trans ((State.refEdge_keeps s c tick phase fine width).mono hq)

theorem execRefActivityTimeout_keeps (slot : Nat) (s : State) :
    Out.keeps [.clock, .free, .cmd, .hostMem, .ref, .pair, .fw, .mbs, .fence, .events, .stats] s (execRefActivityTimeout slot s) := by
  unfold execRefActivityTimeout
  try dsimp only
  repeat' with_reducible first
    | apply goesOn.refl | apply State.advance_on | apply State.updSlot_on | apply out_next | apply out_fault | apply out_ite
    | decide

theorem execRefActivityTimeout_on {kp : List Part} {b0 : State} {slot : Nat} {s : State} (hk : goesOn kp b0 s) (hq : ∀ p ∈ [.clock, .free, .cmd, .hostMem, .ref, .pair, .fw, .mbs, .fence, .events, .stats], p ∈ kp) :
    Out.keeps kp b0 (execRefActivityTimeout slot s) := .after hk ((execRefActivityTimeout_keeps slot s).mono hq)

theorem State.slotTo_keeps (s : State) (n : Nat) (st : SlotState) :
    goesOn [.ref] s (State.slotTo s n st) := by
  unfold State.slotTo
  try dsimp only
  repeat' with_reducible first
    | apply goesOn.refl | apply State.updSlot_on | decide

theorem State.slotTo_on {kp : List Part} {b0 : State} {s : State} {n : Nat} {st : SlotState} (hk : goesOn kp b0 s) (hq : ∀ p ∈ [.ref], p ∈ kp) :
    goesOn kp b0 (State.slotTo s n st) := hk.trans ((State.slotTo_keeps s n st).mono hq)

theorem State.slotFail_keeps (s : State) (n : Nat) (cause : Nat) :
    goesOn [.ref, .fence, .events] s (State.slotFail s n cause) := by
  unfold State.slotFail
  try dsimp only
  repeat' with_reducible first
    | apply goesOn.refl | apply State.raise_on | apply State.slotTo_on | apply State.updSlot_on | decide | split

theorem State.slotFail_on {kp : List Part} {b0 : State} {s : State} {n : Nat} {cause : Nat} (hk : goesOn kp b0 s) (hq : ∀ p ∈ [.ref, .fence, .events], p ∈ kp) :
    goesOn kp b0 (State.slotFail s n cause) := hk.trans ((State.slotFail_keeps s n cause).mono hq)

theorem State.slotStep_keeps (s : State) (n : Nat) :
    goesOn [.ref, .fence, .events] s (State.slotStep s n) := by
  unfold State.slotStep
  try dsimp only
  repeat' with_reducible first
    | apply goesOn.refl | apply keeps_ite | apply State.raise_on | apply State.slotFail_on | apply State.slotTo_on
    | apply State.updSlot_on | decide | split

theorem State.slotStep_on {kp : List Part} {b0 : State} {s : State} {n : Nat} (hk : goesOn kp b0 s) (hq : ∀ p ∈ [.ref, .fence, .events], p ∈ kp) :
    goesOn kp b0 (State.slotStep s n) := hk.trans ((State.slotStep_keeps s n).mono hq)

theorem State.tieStep_keeps (s : State) (n : Nat) :
    goesOn [.ref, .fence, .events] s (State.tieStep s n) := by
  unfold State.tieStep
  try dsimp only
  repeat' with_reducible first
    | apply goesOn.refl | apply keeps_ite | apply State.raise_on | apply State.updSlot_on | decide

theorem State.tieStep_on {kp : List Part} {b0 : State} {s : State} {n : Nat} (hk : goesOn kp b0 s) (hq : ∀ p ∈ [.ref, .fence, .events], p ∈ kp) :
    goesOn kp b0 (State.tieStep s n) := hk.trans ((State.tieStep_keeps s n).mono hq)

theorem State.dpllTo_keeps (s : State) (st : DState) (sel : Option Nat) (cause : Nat) :
    goesOn [.ref, .fence, .events] s (State.dpllTo s st sel cause) := by
  unfold State.dpllTo
  try dsimp only
  repeat' with_reducible first
    | apply goesOn.refl | apply State.raise_on | apply kset_ref | decide

theorem State.dpllTo_on {kp : List Part} {b0 : State} {s : State} {st : DState} {sel : Option Nat} {cause : Nat} (hk : goesOn kp b0 s) (hq : ∀ p ∈ [.ref, .fence, .events], p ∈ kp) :
    goesOn kp b0 (State.dpllTo s st sel cause) := hk.trans ((State.dpllTo_keeps s st sel cause).mono hq)

theorem State.approach_keeps (s : State) (goal : Int) :
    goesOn [.ref] s (State.approach s goal) := by
  unfold State.approach
  try dsimp only
  repeat' with_reducible first
    | apply goesOn.refl | apply kset_ref | decide

theorem State.approach_on {kp : List Part} {b0 : State} {s : State} {goal : Int} (hk : goesOn kp b0 s) (hq : ∀ p ∈ [.ref], p ∈ kp) :
    goesOn kp b0 (State.approach s goal) := hk.trans ((State.approach_keeps s goal).mono hq)

theorem State.estimate_keeps (s : State) :
    goesOn [.ref] s (State.estimate s) := by
  unfold State.estimate
  try dsimp only
  repeat' with_reducible first
    | apply goesOn.refl | apply kset_ref | decide

theorem State.estimate_on {kp : List Part} {b0 : State} {s : State} (hk : goesOn kp b0 s) (hq : ∀ p ∈ [.ref], p ∈ kp) :
    goesOn kp b0 (State.estimate s) := hk.trans ((State.estimate_keeps s).mono hq)

theorem State.enterHoldover_keeps (s : State) (xo : Bool) :
    goesOn [.ref, .fence, .events] s (State.enterHoldover s xo) := by
  unfold State.enterHoldover
  try dsimp only
  repeat' with_reducible first
    | apply goesOn.refl | apply keeps_ite | apply State.dpllTo_on | apply State.estimate_on | apply State.raise_on
    | apply kset_ref | decide

theorem State.enterHoldover_on {kp : List Part} {b0 : State} {s : State} {xo : Bool} (hk : goesOn kp b0 s) (hq : ∀ p ∈ [.ref, .fence, .events], p ∈ kp) :
    goesOn kp b0 (State.enterHoldover s xo) := hk.trans ((State.enterHoldover_keeps s xo).mono hq)

theorem State.startSwitch_keeps (s : State) (n : Nat) :
    goesOn [.lanes, .selv, .tdc, .ref, .fence, .events] s (State.startSwitch s n) := by
  unfold State.startSwitch
  try dsimp only
  repeat' with_reducible first
    | apply goesOn.refl | apply State.dpllTo_on | apply State.updSlot_on | apply kset_ref | decide

theorem State.startSwitch_on {kp : List Part} {b0 : State} {s : State} {n : Nat} (hk : goesOn kp b0 s) (hq : ∀ p ∈ [.lanes, .selv, .tdc, .ref, .fence, .events], p ∈ kp) :
    goesOn kp b0 (State.startSwitch s n) := hk.trans ((State.startSwitch_keeps s n).mono hq)

theorem State.selectStep_keeps (s : State) :
    goesOn [.lanes, .selv, .tdc, .ref, .fence, .events] s (State.selectStep s) := by
  unfold State.selectStep
  try dsimp only
  repeat' with_reducible first
    | apply goesOn.refl | apply keeps_ite | apply State.dpllTo_on | apply State.enterHoldover_on | apply State.startSwitch_on
    | apply State.updSlot_on | decide | split | apply kset_ref

theorem State.selectStep_on {kp : List Part} {b0 : State} {s : State} (hk : goesOn kp b0 s) (hq : ∀ p ∈ [.lanes, .selv, .tdc, .ref, .fence, .events], p ∈ kp) :
    goesOn kp b0 (State.selectStep s) := hk.trans ((State.selectStep_keeps s).mono hq)

theorem State.keepWindow_keeps (s : State) (n : Nat) :
    goesOn [.ref] s (State.keepWindow s n) := by
  unfold State.keepWindow
  try dsimp only
  repeat' with_reducible first
    | apply goesOn.refl | assumption | apply keeps_ite | apply State.estimate_on | apply kset_ref | decide | split

theorem State.keepWindow_on {kp : List Part} {b0 : State} {s : State} {n : Nat} (hk : goesOn kp b0 s) (hq : ∀ p ∈ [.ref], p ∈ kp) :
    goesOn kp b0 (State.keepWindow s n) := hk.trans ((State.keepWindow_keeps s n).mono hq)

theorem State.loopStep_keeps (s : State) (n : Nat) :
    goesOn [.free, .lanes, .selv, .tdc, .ref, .fence, .events] s (State.loopStep s n) := by
  unfold State.loopStep
  try dsimp only
  repeat' with_reducible first
    | apply goesOn.refl | assumption | apply keeps_ite | apply keeps_ite1 | apply keeps_ite2 | apply State.acquire_on
    | apply State.approach_on | apply State.dpllTo_on | apply State.estimate_on | apply State.keepWindow_on | apply State.raise_on
    | apply State.takeFree_on | (apply keeps_fst; case e => assumption) | (apply keeps_snd; case e => assumption) | decide | split
    | apply kset_ref

theorem State.loopStep_on {kp : List Part} {b0 : State} {s : State} {n : Nat} (hk : goesOn kp b0 s) (hq : ∀ p ∈ [.free, .lanes, .selv, .tdc, .ref, .fence, .events], p ∈ kp) :
    goesOn kp b0 (State.loopStep s n) := hk.trans ((State.loopStep_keeps s n).mono hq)

theorem State.xoRange_keeps (s : State) :
    goesOn [.ref, .fence, .events] s (State.xoRange s) := by
  unfold State.xoRange
  try dsimp only
  repeat' with_reducible first
    | apply goesOn.refl | apply keeps_ite | apply State.raise_on | decide | split | apply kset_ref

theorem State.xoRange_on {kp : List Part} {b0 : State} {s : State} (hk : goesOn kp b0 s) (hq : ∀ p ∈ [.ref, .fence, .events], p ∈ kp) :
    goesOn kp b0 (State.xoRange s) := hk.trans ((State.xoRange_keeps s).mono hq)

theorem State.dpllStep_keeps (s : State) :
    goesOn [.free, .lanes, .selv, .tdc, .ref, .fence, .events] s (State.dpllStep s) := by
  unfold State.dpllStep
  try dsimp only
  repeat' with_reducible first
    | apply goesOn.refl | apply keeps_ite | apply State.approach_on | apply State.loopStep_on | decide | split

theorem State.dpllStep_on {kp : List Part} {b0 : State} {s : State} (hk : goesOn kp b0 s) (hq : ∀ p ∈ [.free, .lanes, .selv, .tdc, .ref, .fence, .events], p ∈ kp) :
    goesOn kp b0 (State.dpllStep s) := hk.trans ((State.dpllStep_keeps s).mono hq)

theorem State.commitBuildout_keeps (s : State) (c : Nat) (d : Int) :
    goesOn [.tdc, .ref] s (State.commitBuildout s c d) := by
  unfold State.commitBuildout
  try dsimp only
  repeat' first
    | with_reducible apply goesOn.refl | with_reducible assumption | with_reducible apply keeps_ite
    | (with_reducible apply keeps_foldl; rotate_left 1; intro y a hy) | with_reducible apply State.updSlot_on
    | with_reducible apply State.updTdc_on | with_reducible decide | split

theorem State.commitBuildout_on {kp : List Part} {b0 : State} {s : State} {c : Nat} {d : Int} (hk : goesOn kp b0 s) (hq : ∀ p ∈ [.tdc, .ref], p ∈ kp) :
    goesOn kp b0 (State.commitBuildout s c d) := hk.trans ((State.commitBuildout_keeps s c d).mono hq)

theorem State.measureXo_keeps (s : State) :
    goesOn [.ref] s (State.measureXo s) := by
  unfold State.measureXo
  try dsimp only
  repeat' with_reducible first
    | apply goesOn.refl | apply kset_ref | decide

theorem State.measureXo_on {kp : List Part} {b0 : State} {s : State} (hk : goesOn kp b0 s) (hq : ∀ p ∈ [.ref], p ∈ kp) :
    goesOn kp b0 (State.measureXo s) := hk.trans ((State.measureXo_keeps s).mono hq)

theorem State.outputsFollow_keeps (s : State) (a : TimeAcc) :
    goesOn [.ref] s (State.outputsFollow s a) := by
  unfold State.outputsFollow
  try dsimp only
  repeat' with_reducible first
    | apply goesOn.refl | apply kset_ref | decide

theorem State.outputsFollow_on {kp : List Part} {b0 : State} {s : State} {a : TimeAcc} (hk : goesOn kp b0 s) (hq : ∀ p ∈ [.ref], p ∈ kp) :
    goesOn kp b0 (State.outputsFollow s a) := hk.trans ((State.outputsFollow_keeps s a).mono hq)

theorem execPpsOutPulse_keeps (output : Nat) (s : State) :
    Out.keeps [.clock, .free, .cmd, .hostMem, .ref, .pair, .fw, .mbs, .fence, .events, .stats] s (execPpsOutPulse output s) := by
  unfold execPpsOutPulse
  try dsimp only
  repeat' with_reducible first
    | apply goesOn.refl | apply keeps_ite | apply State.advanceTick_on | apply State.raise_on | apply kset_ref | apply out_next
    | apply out_fault | apply out_ite | decide

theorem execPpsOutPulse_on {kp : List Part} {b0 : State} {output : Nat} {s : State} (hk : goesOn kp b0 s) (hq : ∀ p ∈ [.clock, .free, .cmd, .hostMem, .ref, .pair, .fw, .mbs, .fence, .events, .stats], p ∈ kp) :
    Out.keeps kp b0 (execPpsOutPulse output s) := .after hk ((execPpsOutPulse_keeps output s).mono hq)

theorem execClkoutAligned_keeps (output : Nat) (s : State) :
    Out.keeps [.clock, .free, .cmd, .hostMem, .ref, .pair, .fw, .mbs, .fence, .events, .stats] s (execClkoutAligned output s) := by
  unfold execClkoutAligned
  try dsimp only
  repeat' with_reducible first
    | apply goesOn.refl | apply State.advance_on | apply State.raise_on | apply kset_ref | apply out_next | apply out_fault
    | apply out_ite | decide

theorem execClkoutAligned_on {kp : List Part} {b0 : State} {output : Nat} {s : State} (hk : goesOn kp b0 s) (hq : ∀ p ∈ [.clock, .free, .cmd, .hostMem, .ref, .pair, .fw, .mbs, .fence, .events, .stats], p ∈ kp) :
    Out.keeps kp b0 (execClkoutAligned output s) := .after hk ((execClkoutAligned_keeps output s).mono hq)

theorem State.refCommand_keeps (s : State) (n : Nat) (action : Nat) :
    goesOn [.ref] s (State.refCommand s n action) := by
  unfold State.refCommand
  try dsimp only
  repeat' with_reducible first
    | apply goesOn.refl | apply State.updSlot_on | decide | split | apply kset_ref

theorem State.refCommand_on {kp : List Part} {b0 : State} {s : State} {n : Nat} {action : Nat} (hk : goesOn kp b0 s) (hq : ∀ p ∈ [.ref], p ∈ kp) :
    goesOn kp b0 (State.refCommand s n action) := hk.trans ((State.refCommand_keeps s n action).mono hq)

theorem State.applyRef_keeps (s : State) (i : Instr) :
    goesOn [.ref, .fence, .events] s (State.applyRef s i) := by
  unfold State.applyRef
  try dsimp only
  repeat' with_reducible first
    | apply goesOn.refl | apply keeps_ite | apply State.raise_on | apply State.refCommand_on | apply State.squelchOutputs_on
    | apply State.updSlot_on | decide | split | apply kset_ref

theorem State.applyRef_on {kp : List Part} {b0 : State} {s : State} {i : Instr} (hk : goesOn kp b0 s) (hq : ∀ p ∈ [.ref, .fence, .events], p ∈ kp) :
    goesOn kp b0 (State.applyRef s i) := hk.trans ((State.applyRef_keeps s i).mono hq)

theorem State.refBoundary_keeps (s : State) (t : Nat) (commits : List (Nat × Int)) :
    goesOn [.free, .lanes, .selv, .tdc, .ref, .fence, .events] s (State.refBoundary s t commits) := by
  unfold State.refBoundary
  try dsimp only
  repeat' first
    | with_reducible apply goesOn.refl | with_reducible assumption | with_reducible apply keeps_ite
    | (with_reducible apply keeps_foldl; rotate_left 1; intro y a hy) | with_reducible apply State.applyRef_on
    | with_reducible apply State.commitBuildout_on | with_reducible apply State.dpllStep_on | with_reducible apply State.dpllTo_on
    | with_reducible apply State.measureXo_on | with_reducible apply State.publishSlot_on
    | with_reducible apply State.refreshLevel_on | with_reducible apply State.selectStep_on
    | with_reducible apply State.slotStep_on | with_reducible apply State.tieStep_on | with_reducible apply State.xoRange_on
    | with_reducible apply kset_ref | with_reducible decide

theorem State.refBoundary_on {kp : List Part} {b0 : State} {s : State} {t : Nat} {commits : List (Nat × Int)} (hk : goesOn kp b0 s) (hq : ∀ p ∈ [.free, .lanes, .selv, .tdc, .ref, .fence, .events], p ∈ kp) :
    goesOn kp b0 (State.refBoundary s t commits) := hk.trans ((State.refBoundary_keeps s t commits).mono hq)

theorem execHoldoverInspecExpiry_keeps (s : State) :
    Out.keeps [.clock, .free, .cmd, .hostMem, .ref, .pair, .fw, .mbs, .fence, .events, .stats] s (execHoldoverInspecExpiry s) := by
  unfold execHoldoverInspecExpiry
  try dsimp only
  repeat' with_reducible first
    | apply goesOn.refl | apply State.advance_on | apply State.refreshLevel_on | apply kset_ref | apply out_next | decide | split

theorem execHoldoverInspecExpiry_on {kp : List Part} {b0 : State} {s : State} (hk : goesOn kp b0 s) (hq : ∀ p ∈ [.clock, .free, .cmd, .hostMem, .ref, .pair, .fw, .mbs, .fence, .events, .stats], p ∈ kp) :
    Out.keeps kp b0 (execHoldoverInspecExpiry s) := .after hk ((execHoldoverInspecExpiry_keeps s).mono hq)

theorem execSteerTimeout_keeps (s : State) :
    Out.keeps [.clock, .free, .cmd, .hostMem, .ref, .pair, .fw, .mbs, .fence, .events, .stats] s (execSteerTimeout s) := by
  unfold execSteerTimeout
  try dsimp only
  repeat' with_reducible first
    | apply goesOn.refl | apply State.advance_on | apply State.raise_on | apply kset_ref | apply out_next | decide | split

theorem execSteerTimeout_on {kp : List Part} {b0 : State} {s : State} (hk : goesOn kp b0 s) (hq : ∀ p ∈ [.clock, .free, .cmd, .hostMem, .ref, .pair, .fw, .mbs, .fence, .events, .stats], p ∈ kp) :
    Out.keeps kp b0 (execSteerTimeout s) := .after hk ((execSteerTimeout_keeps s).mono hq)

theorem execLevelTimeout_keeps (slot : Nat) (s : State) :
    Out.keeps [.clock, .free, .cmd, .hostMem, .ref, .pair, .fw, .mbs, .fence, .events, .stats] s (execLevelTimeout slot s) := by
  unfold execLevelTimeout
  try dsimp only
  repeat' with_reducible first
    | apply goesOn.refl | apply keeps_ite | apply State.advance_on | apply State.raise_on | apply State.refreshLevel_on
    | apply State.updSlot_on | apply out_next | apply out_fault | apply out_ite | decide

theorem execLevelTimeout_on {kp : List Part} {b0 : State} {slot : Nat} {s : State} (hk : goesOn kp b0 s) (hq : ∀ p ∈ [.clock, .free, .cmd, .hostMem, .ref, .pair, .fw, .mbs, .fence, .events, .stats], p ∈ kp) :
    Out.keeps kp b0 (execLevelTimeout slot s) := .after hk ((execLevelTimeout_keeps slot s).mono hq)

theorem State.xoDeclared_keeps (s : State) (present : Bool) :
    goesOn [.glob, .ref, .fence, .events] s (State.xoDeclared s present) := by
  unfold State.xoDeclared
  try dsimp only
  repeat' with_reducible first
    | apply goesOn.refl | apply keeps_ite | apply State.dpllTo_on | apply State.enterHoldover_on | apply State.refreshLevel_on
    | apply kset_glob | decide

theorem State.xoDeclared_on {kp : List Part} {b0 : State} {s : State} {present : Bool} (hk : goesOn kp b0 s) (hq : ∀ p ∈ [.glob, .ref, .fence, .events], p ∈ kp) :
    goesOn kp b0 (State.xoDeclared s present) := hk.trans ((State.xoDeclared_keeps s present).mono hq)

theorem execXoMonitorWindow_keeps (edges : Nat) (s : State) :
    Out.keeps [.glob, .ref, .fence, .events, .power] s (execXoMonitorWindow edges s) := by
  unfold execXoMonitorWindow
  try dsimp only
  repeat' with_reducible first
    | apply goesOn.refl | apply keeps_ite | apply State.xoDeclared_on | apply kset_glob | apply kset_power | apply out_next
    | decide

theorem execXoMonitorWindow_on {kp : List Part} {b0 : State} {edges : Nat} {s : State} (hk : goesOn kp b0 s) (hq : ∀ p ∈ [.glob, .ref, .fence, .events, .power], p ∈ kp) :
    Out.keeps kp b0 (execXoMonitorWindow edges s) := .after hk ((execXoMonitorWindow_keeps edges s).mono hq)

theorem State.receivedLevel_keeps (s : State) (n : Nat) (v : Option Nat) (hops : Nat) :
    goesOn [.ref, .fence, .events] s (State.receivedLevel s n v hops) := by
  unfold State.receivedLevel
  try dsimp only
  repeat' with_reducible first
    | apply goesOn.refl | apply State.slotLevel_on | apply State.updSlot_on | decide | split

theorem State.receivedLevel_on {kp : List Part} {b0 : State} {s : State} {n : Nat} {v : Option Nat} {hops : Nat} (hk : goesOn kp b0 s) (hq : ∀ p ∈ [.ref, .fence, .events], p ∈ kp) :
    goesOn kp b0 (State.receivedLevel s n v hops) := hk.trans ((State.receivedLevel_keeps s n v hops).mono hq)

theorem execEsmcPduTx_keeps (port : Nat) (s : State) :
    Out.keeps [.ref] s (execEsmcPduTx port s) := by
  unfold execEsmcPduTx
  try dsimp only
  repeat' with_reducible first
    | apply goesOn.refl | apply kset_ref | apply out_next | apply out_fault | apply out_ite | decide

theorem execEsmcPduTx_on {kp : List Part} {b0 : State} {port : Nat} {s : State} (hk : goesOn kp b0 s) (hq : ∀ p ∈ [.ref], p ∈ kp) :
    Out.keeps kp b0 (execEsmcPduTx port s) := .after hk ((execEsmcPduTx_keeps port s).mono hq)

theorem bodyRefConfigureSlot_keeps (enable : Bool) (override : Bool) (esmc : Bool) (slot : Nat) (fNum : Nat) (fDen : Nat) (div : Nat) (edge : Nat) (source : Nat) (prio : Nat) (level : Nat) (acceptLim : Int) (rejectLim : Int) (rejectHold : Nat) (acceptHold : Nat) (hitLim : Nat) (hitBudget : Nat) (coastLim : Nat) (s : State) :
    Rep.keeps [.ref] s (bodyRefConfigureSlot enable override esmc slot fNum fDen div edge source prio level acceptLim rejectLim rejectHold acceptHold hitLim hitBudget coastLim s) := by
  unfold bodyRefConfigureSlot bodyRefConfigureSlot.rest
  try dsimp only
  repeat' with_reducible first
    | apply goesOn.refl | apply rep_ok | apply rep_bad | apply rep_flags | apply rep_ranges | apply rep_ite | decide | split
    | apply kset_ref

theorem bodyRefConfigureSlot_on {kp : List Part} {b0 : State} {enable : Bool} {override : Bool} {esmc : Bool} {slot : Nat} {fNum : Nat} {fDen : Nat} {div : Nat} {edge : Nat} {source : Nat} {prio : Nat} {level : Nat} {acceptLim : Int} {rejectLim : Int} {rejectHold : Nat} {acceptHold : Nat} {hitLim : Nat} {hitBudget : Nat} {coastLim : Nat} {s : State} (hk : goesOn kp b0 s) (hq : ∀ p ∈ [.ref], p ∈ kp) :
    Rep.keeps kp b0 (bodyRefConfigureSlot enable override esmc slot fNum fDen div edge source prio level acceptLim rejectLim rejectHold acceptHold hitLim hitBudget coastLim s) := .after hk ((bodyRefConfigureSlot_keeps enable override esmc slot fNum fDen div edge source prio level acceptLim rejectLim rejectHold acceptHold hitLim hitBudget coastLim s).mono hq)

theorem bodyRefConfigureSelection_keeps (qlMode : Nat) (revert : Nat) (wtr : Nat) (tieLimit : Int) (tieHold : Nat) (freeLevel : Nat) (avgTime : Nat) (guardTime : Nat) (inSpec : Nat) (s : State) :
    Rep.keeps [.ref] s (bodyRefConfigureSelection qlMode revert wtr tieLimit tieHold freeLevel avgTime guardTime inSpec s) := by
  unfold bodyRefConfigureSelection
  try dsimp only
  repeat' with_reducible first
    | apply goesOn.refl | apply kset_ref | apply rep_ok | apply rep_ranges | decide

theorem bodyRefConfigureSelection_on {kp : List Part} {b0 : State} {qlMode : Nat} {revert : Nat} {wtr : Nat} {tieLimit : Int} {tieHold : Nat} {freeLevel : Nat} {avgTime : Nat} {guardTime : Nat} {inSpec : Nat} {s : State} (hk : goesOn kp b0 s) (hq : ∀ p ∈ [.ref], p ∈ kp) :
    Rep.keeps kp b0 (bodyRefConfigureSelection qlMode revert wtr tieLimit tieHold freeLevel avgTime guardTime inSpec s) := .after hk ((bodyRefConfigureSelection_keeps qlMode revert wtr tieLimit tieHold freeLevel avgTime guardTime inSpec s).mono hq)

theorem bodyRefConfigureDpll_keeps (trackBw : Nat) (acqBw : Nat) (slope : Int) (lockThr : Nat) (lossThr : Nat) (s : State) :
    Rep.keeps [.ref] s (bodyRefConfigureDpll trackBw acqBw slope lockThr lossThr s) := by
  unfold bodyRefConfigureDpll
  try dsimp only
  repeat' with_reducible first
    | apply goesOn.refl | apply kset_ref | apply rep_ok | apply rep_ranges | decide

theorem bodyRefConfigureDpll_on {kp : List Part} {b0 : State} {trackBw : Nat} {acqBw : Nat} {slope : Int} {lockThr : Nat} {lossThr : Nat} {s : State} (hk : goesOn kp b0 s) (hq : ∀ p ∈ [.ref], p ∈ kp) :
    Rep.keeps kp b0 (bodyRefConfigureDpll trackBw acqBw slope lockThr lossThr s) := .after hk ((bodyRefConfigureDpll_keeps trackBw acqBw slope lockThr lossThr s).mono hq)

theorem bodyRefCommand_keeps (slot : Nat) (action : Nat) (s : State) :
    Rep.keeps [.ref] s (bodyRefCommand slot action s) := by
  unfold bodyRefCommand
  try dsimp only
  repeat' with_reducible first
    | apply goesOn.refl | apply kset_ref | apply rep_ok | apply rep_bad | apply rep_ranges | apply rep_ite | decide

theorem bodyRefCommand_on {kp : List Part} {b0 : State} {slot : Nat} {action : Nat} {s : State} (hk : goesOn kp b0 s) (hq : ∀ p ∈ [.ref], p ∈ kp) :
    Rep.keeps kp b0 (bodyRefCommand slot action s) := .after hk ((bodyRefCommand_keeps slot action s).mono hq)

theorem bodyRefGetSlot_keeps (slot : Nat) (s : State) :
    Rep.keeps [] s (bodyRefGetSlot slot s) := by
  unfold bodyRefGetSlot
  try dsimp only
  repeat' with_reducible first
    | apply goesOn.refl | apply rep_ok | apply rep_ranges

theorem bodyRefGetSlot_on {kp : List Part} {b0 : State} {slot : Nat} {s : State} (hk : goesOn kp b0 s) (hq : ∀ p ∈ [], p ∈ kp) :
    Rep.keeps kp b0 (bodyRefGetSlot slot s) := .after hk ((bodyRefGetSlot_keeps slot s).mono hq)

theorem bodyRefGetDpll_keeps (s : State) :
    Rep.keeps [] s (bodyRefGetDpll s) := by
  unfold bodyRefGetDpll
  try dsimp only
  repeat' with_reducible first
    | apply goesOn.refl | apply rep_ok

theorem bodyRefGetDpll_on {kp : List Part} {b0 : State} {s : State} (hk : goesOn kp b0 s) (hq : ∀ p ∈ [], p ∈ kp) :
    Rep.keeps kp b0 (bodyRefGetDpll s) := .after hk ((bodyRefGetDpll_keeps s).mono hq)

theorem bodyRefSteer_keeps (action : Nat) (value : Int) (timeout : Nat) (level : Nat) (s : State) :
    Rep.keeps [.ref, .fence, .events] s (bodyRefSteer action value timeout level s) := by
  unfold bodyRefSteer
  try dsimp only
  repeat' with_reducible first
    | apply goesOn.refl | apply keeps_ite | apply State.dpllTo_on | apply State.refreshLevel_on | apply kset_ref | apply rep_ok
    | apply rep_bad | apply rep_ranges | apply rep_ite | decide

theorem bodyRefSteer_on {kp : List Part} {b0 : State} {action : Nat} {value : Int} {timeout : Nat} {level : Nat} {s : State} (hk : goesOn kp b0 s) (hq : ∀ p ∈ [.ref, .fence, .events], p ∈ kp) :
    Rep.keeps kp b0 (bodyRefSteer action value timeout level s) := .after hk ((bodyRefSteer_keeps action value timeout level s).mono hq)

theorem bodyRefConfigurePpsOut_keeps (enable : Bool) (output : Nat) (offset : Int) (width : Nat) (slew : Nat) (squelch : Nat) (s : State) :
    Rep.keeps [.ref] s (bodyRefConfigurePpsOut enable output offset width slew squelch s) := by
  unfold bodyRefConfigurePpsOut
  try dsimp only
  repeat' with_reducible first
    | apply goesOn.refl | apply kset_ref | apply rep_ok | apply rep_ranges | decide

theorem bodyRefConfigurePpsOut_on {kp : List Part} {b0 : State} {enable : Bool} {output : Nat} {offset : Int} {width : Nat} {slew : Nat} {squelch : Nat} {s : State} (hk : goesOn kp b0 s) (hq : ∀ p ∈ [.ref], p ∈ kp) :
    Rep.keeps kp b0 (bodyRefConfigurePpsOut enable output offset width slew squelch s) := .after hk ((bodyRefConfigurePpsOut_keeps enable output offset width slew squelch s).mono hq)

theorem bodyRefConfigureClkout_keeps (enable : Bool) (output : Nat) (fNum : Nat) (fDen : Nat) (mode : Nat) (offset : Int) (slew : Nat) (swing : Nat) (squelch : Nat) (s : State) :
    Rep.keeps [.ref] s (bodyRefConfigureClkout enable output fNum fDen mode offset slew swing squelch s) := by
  unfold bodyRefConfigureClkout
  try dsimp only
  repeat' with_reducible first
    | apply goesOn.refl | apply kset_ref | apply rep_ok | apply rep_ranges | decide

theorem bodyRefConfigureClkout_on {kp : List Part} {b0 : State} {enable : Bool} {output : Nat} {fNum : Nat} {fDen : Nat} {mode : Nat} {offset : Int} {slew : Nat} {swing : Nat} {squelch : Nat} {s : State} (hk : goesOn kp b0 s) (hq : ∀ p ∈ [.ref], p ∈ kp) :
    Rep.keeps kp b0 (bodyRefConfigureClkout enable output fNum fDen mode offset slew swing squelch s) := .after hk ((bodyRefConfigureClkout_keeps enable output fNum fDen mode offset slew swing squelch s).mono hq)

theorem bodyRefGetClkout_keeps (output : Nat) (s : State) :
    Rep.keeps [] s (bodyRefGetClkout output s) := by
  unfold bodyRefGetClkout
  try dsimp only
  repeat' with_reducible first
    | apply goesOn.refl | apply rep_ok | apply rep_ranges

theorem bodyRefGetClkout_on {kp : List Part} {b0 : State} {output : Nat} {s : State} (hk : goesOn kp b0 s) (hq : ∀ p ∈ [], p ∈ kp) :
    Rep.keeps kp b0 (bodyRefGetClkout output s) := .after hk ((bodyRefGetClkout_keeps output s).mono hq)

theorem execRefConfigureSlot_keeps (src : CmdSrc) (enable : Bool) (override : Bool) (esmc : Bool) (slot : Nat) (fNum : Nat) (fDen : Nat) (div : Nat) (edge : Nat) (source : Nat) (prio : Nat) (level : Nat) (acceptLim : Int) (rejectLim : Int) (rejectHold : Nat) (acceptHold : Nat) (hitLim : Nat) (hitBudget : Nat) (coastLim : Nat) (s : State) :
    Out.keeps [.cmd, .hostMem, .glob, .ref, .pair, .fw, .mbs, .fence, .events] s (execRefConfigureSlot src enable override esmc slot fNum fDen div edge source prio level acceptLim rejectLim rejectHold acceptHold hitLim hitBudget coastLim s) := by
  unfold execRefConfigureSlot
  try dsimp only
  repeat' first
    | with_reducible apply goesOn.refl | with_reducible apply out_next
    | (with_reducible apply keeps_runCmd; rotate_left 1; intro y) | with_reducible apply bodyRefConfigureSlot_on
    | with_reducible decide

theorem execRefConfigureSlot_on {kp : List Part} {b0 : State} {src : CmdSrc} {enable : Bool} {override : Bool} {esmc : Bool} {slot : Nat} {fNum : Nat} {fDen : Nat} {div : Nat} {edge : Nat} {source : Nat} {prio : Nat} {level : Nat} {acceptLim : Int} {rejectLim : Int} {rejectHold : Nat} {acceptHold : Nat} {hitLim : Nat} {hitBudget : Nat} {coastLim : Nat} {s : State} (hk : goesOn kp b0 s) (hq : ∀ p ∈ [.cmd, .hostMem, .glob, .ref, .pair, .fw, .mbs, .fence, .events], p ∈ kp) :
    Out.keeps kp b0 (execRefConfigureSlot src enable override esmc slot fNum fDen div edge source prio level acceptLim rejectLim rejectHold acceptHold hitLim hitBudget coastLim s) := .after hk ((execRefConfigureSlot_keeps src enable override esmc slot fNum fDen div edge source prio level acceptLim rejectLim rejectHold acceptHold hitLim hitBudget coastLim s).mono hq)

theorem execRefConfigureSelection_keeps (src : CmdSrc) (qlMode : Nat) (revert : Nat) (wtr : Nat) (tieLimit : Int) (tieHold : Nat) (freeLevel : Nat) (avgTime : Nat) (guardTime : Nat) (inSpec : Nat) (s : State) :
    Out.keeps [.cmd, .hostMem, .glob, .ref, .pair, .fw, .mbs, .fence, .events] s (execRefConfigureSelection src qlMode revert wtr tieLimit tieHold freeLevel avgTime guardTime inSpec s) := by
  unfold execRefConfigureSelection
  try dsimp only
  repeat' first
    | with_reducible apply goesOn.refl | with_reducible apply out_next
    | (with_reducible apply keeps_runCmd; rotate_left 1; intro y) | with_reducible apply bodyRefConfigureSelection_on
    | with_reducible decide

theorem execRefConfigureSelection_on {kp : List Part} {b0 : State} {src : CmdSrc} {qlMode : Nat} {revert : Nat} {wtr : Nat} {tieLimit : Int} {tieHold : Nat} {freeLevel : Nat} {avgTime : Nat} {guardTime : Nat} {inSpec : Nat} {s : State} (hk : goesOn kp b0 s) (hq : ∀ p ∈ [.cmd, .hostMem, .glob, .ref, .pair, .fw, .mbs, .fence, .events], p ∈ kp) :
    Out.keeps kp b0 (execRefConfigureSelection src qlMode revert wtr tieLimit tieHold freeLevel avgTime guardTime inSpec s) := .after hk ((execRefConfigureSelection_keeps src qlMode revert wtr tieLimit tieHold freeLevel avgTime guardTime inSpec s).mono hq)

theorem execRefConfigureDpll_keeps (src : CmdSrc) (trackBw : Nat) (acqBw : Nat) (slope : Int) (lockThr : Nat) (lossThr : Nat) (s : State) :
    Out.keeps [.cmd, .hostMem, .glob, .ref, .pair, .fw, .mbs, .fence, .events] s (execRefConfigureDpll src trackBw acqBw slope lockThr lossThr s) := by
  unfold execRefConfigureDpll
  try dsimp only
  repeat' first
    | with_reducible apply goesOn.refl | with_reducible apply out_next
    | (with_reducible apply keeps_runCmd; rotate_left 1; intro y) | with_reducible apply bodyRefConfigureDpll_on
    | with_reducible decide

theorem execRefConfigureDpll_on {kp : List Part} {b0 : State} {src : CmdSrc} {trackBw : Nat} {acqBw : Nat} {slope : Int} {lockThr : Nat} {lossThr : Nat} {s : State} (hk : goesOn kp b0 s) (hq : ∀ p ∈ [.cmd, .hostMem, .glob, .ref, .pair, .fw, .mbs, .fence, .events], p ∈ kp) :
    Out.keeps kp b0 (execRefConfigureDpll src trackBw acqBw slope lockThr lossThr s) := .after hk ((execRefConfigureDpll_keeps src trackBw acqBw slope lockThr lossThr s).mono hq)

theorem execRefCommand_keeps (src : CmdSrc) (slot : Nat) (action : Nat) (s : State) :
    Out.keeps [.cmd, .hostMem, .glob, .ref, .pair, .fw, .mbs, .fence, .events] s (execRefCommand src slot action s) := by
  unfold execRefCommand
  try dsimp only
  repeat' first
    | with_reducible apply goesOn.refl | with_reducible apply out_next
    | (with_reducible apply keeps_runCmd; rotate_left 1; intro y) | with_reducible apply bodyRefCommand_on | with_reducible decide

theorem execRefCommand_on {kp : List Part} {b0 : State} {src : CmdSrc} {slot : Nat} {action : Nat} {s : State} (hk : goesOn kp b0 s) (hq : ∀ p ∈ [.cmd, .hostMem, .glob, .ref, .pair, .fw, .mbs, .fence, .events], p ∈ kp) :
    Out.keeps kp b0 (execRefCommand src slot action s) := .after hk ((execRefCommand_keeps src slot action s).mono hq)

theorem execRefGetSlot_keeps (src : CmdSrc) (slot : Nat) (s : State) :
    Out.keeps [.cmd, .hostMem, .glob, .pair, .fw, .mbs, .fence, .events] s (execRefGetSlot src slot s) := by
  unfold execRefGetSlot
  try dsimp only
  repeat' first
    | with_reducible apply goesOn.refl | with_reducible apply out_next
    | (with_reducible apply keeps_runCmd; rotate_left 1; intro y) | with_reducible apply bodyRefGetSlot_on | with_reducible decide

theorem execRefGetSlot_on {kp : List Part} {b0 : State} {src : CmdSrc} {slot : Nat} {s : State} (hk : goesOn kp b0 s) (hq : ∀ p ∈ [.cmd, .hostMem, .glob, .pair, .fw, .mbs, .fence, .events], p ∈ kp) :
    Out.keeps kp b0 (execRefGetSlot src slot s) := .after hk ((execRefGetSlot_keeps src slot s).mono hq)

theorem execRefGetDpll_keeps (src : CmdSrc) (s : State) :
    Out.keeps [.cmd, .hostMem, .glob, .pair, .fw, .mbs, .fence, .events] s (execRefGetDpll src s) := by
  unfold execRefGetDpll
  try dsimp only
  repeat' first
    | with_reducible apply goesOn.refl | with_reducible apply out_next
    | (with_reducible apply keeps_runCmd; rotate_left 1; intro y) | with_reducible apply bodyRefGetDpll_on | with_reducible decide

theorem execRefGetDpll_on {kp : List Part} {b0 : State} {src : CmdSrc} {s : State} (hk : goesOn kp b0 s) (hq : ∀ p ∈ [.cmd, .hostMem, .glob, .pair, .fw, .mbs, .fence, .events], p ∈ kp) :
    Out.keeps kp b0 (execRefGetDpll src s) := .after hk ((execRefGetDpll_keeps src s).mono hq)

theorem execRefSteer_keeps (src : CmdSrc) (action : Nat) (value : Int) (timeout : Nat) (level : Nat) (s : State) :
    Out.keeps [.cmd, .hostMem, .glob, .ref, .pair, .fw, .mbs, .fence, .events] s (execRefSteer src action value timeout level s) := by
  unfold execRefSteer
  try dsimp only
  repeat' first
    | with_reducible apply goesOn.refl | with_reducible apply out_next
    | (with_reducible apply keeps_runCmd; rotate_left 1; intro y) | with_reducible apply bodyRefSteer_on | with_reducible decide

theorem execRefSteer_on {kp : List Part} {b0 : State} {src : CmdSrc} {action : Nat} {value : Int} {timeout : Nat} {level : Nat} {s : State} (hk : goesOn kp b0 s) (hq : ∀ p ∈ [.cmd, .hostMem, .glob, .ref, .pair, .fw, .mbs, .fence, .events], p ∈ kp) :
    Out.keeps kp b0 (execRefSteer src action value timeout level s) := .after hk ((execRefSteer_keeps src action value timeout level s).mono hq)

theorem execRefConfigurePpsOut_keeps (src : CmdSrc) (enable : Bool) (output : Nat) (offset : Int) (width : Nat) (slew : Nat) (squelch : Nat) (s : State) :
    Out.keeps [.cmd, .hostMem, .glob, .ref, .pair, .fw, .mbs, .fence, .events] s (execRefConfigurePpsOut src enable output offset width slew squelch s) := by
  unfold execRefConfigurePpsOut
  try dsimp only
  repeat' first
    | with_reducible apply goesOn.refl | with_reducible apply out_next
    | (with_reducible apply keeps_runCmd; rotate_left 1; intro y) | with_reducible apply bodyRefConfigurePpsOut_on
    | with_reducible decide

theorem execRefConfigurePpsOut_on {kp : List Part} {b0 : State} {src : CmdSrc} {enable : Bool} {output : Nat} {offset : Int} {width : Nat} {slew : Nat} {squelch : Nat} {s : State} (hk : goesOn kp b0 s) (hq : ∀ p ∈ [.cmd, .hostMem, .glob, .ref, .pair, .fw, .mbs, .fence, .events], p ∈ kp) :
    Out.keeps kp b0 (execRefConfigurePpsOut src enable output offset width slew squelch s) := .after hk ((execRefConfigurePpsOut_keeps src enable output offset width slew squelch s).mono hq)

theorem execRefConfigureClkout_keeps (src : CmdSrc) (enable : Bool) (output : Nat) (fNum : Nat) (fDen : Nat) (mode : Nat) (offset : Int) (slew : Nat) (swing : Nat) (squelch : Nat) (s : State) :
    Out.keeps [.cmd, .hostMem, .glob, .ref, .pair, .fw, .mbs, .fence, .events] s (execRefConfigureClkout src enable output fNum fDen mode offset slew swing squelch s) := by
  unfold execRefConfigureClkout
  try dsimp only
  repeat' first
    | with_reducible apply goesOn.refl | with_reducible apply out_next
    | (with_reducible apply keeps_runCmd; rotate_left 1; intro y) | with_reducible apply bodyRefConfigureClkout_on
    | with_reducible decide

theorem execRefConfigureClkout_on {kp : List Part} {b0 : State} {src : CmdSrc} {enable : Bool} {output : Nat} {fNum : Nat} {fDen : Nat} {mode : Nat} {offset : Int} {slew : Nat} {swing : Nat} {squelch : Nat} {s : State} (hk : goesOn kp b0 s) (hq : ∀ p ∈ [.cmd, .hostMem, .glob, .ref, .pair, .fw, .mbs, .fence, .events], p ∈ kp) :
    Out.keeps kp b0 (execRefConfigureClkout src enable output fNum fDen mode offset slew swing squelch s) := .after hk ((execRefConfigureClkout_keeps src enable output fNum fDen mode offset slew swing squelch s).mono hq)

theorem execRefGetClkout_keeps (src : CmdSrc) (output : Nat) (s : State) :
    Out.keeps [.cmd, .hostMem, .glob, .pair, .fw, .mbs, .fence, .events] s (execRefGetClkout src output s) := by
  unfold execRefGetClkout
  try dsimp only
  repeat' first
    | with_reducible apply goesOn.refl | with_reducible apply out_next
    | (with_reducible apply keeps_runCmd; rotate_left 1; intro y) | with_reducible apply bodyRefGetClkout_on
    | with_reducible decide

theorem execRefGetClkout_on {kp : List Part} {b0 : State} {src : CmdSrc} {output : Nat} {s : State} (hk : goesOn kp b0 s) (hq : ∀ p ∈ [.cmd, .hostMem, .glob, .pair, .fw, .mbs, .fence, .events], p ∈ kp) :
    Out.keeps kp b0 (execRefGetClkout src output s) := .after hk ((execRefGetClkout_keeps src output s).mono hq)

end Sys2Proof.Machine
end

