-- ==== Sys2Proof/Laws/Keeps/PortCmds.lean ====
section
/-!
SUPPORT. Which parts of the state each operation of PortCmds.lean touches.
-/
namespace Sys2Proof.Machine

theorem State.disqualify_keeps (old : State) (s : State) :
    goesOn [.ref, .fence, .events] s (State.disqualify old s) := by
  unfold State.disqualify
  try dsimp only
  repeat' first
    | with_reducible apply goesOn.refl | with_reducible assumption | with_reducible apply keeps_ite
    | (with_reducible apply keeps_foldl; rotate_left 1; intro y a hy) | with_reducible apply State.slotFail_on
    | with_reducible decide

theorem State.disqualify_on {kp : List Part} {b0 : State} {old : State} {s : State} (hk : goesOn kp b0 s) (hq : ∀ p ∈ [.ref, .fence, .events], p ∈ kp) :
    goesOn kp b0 (State.disqualify old s) := hk.trans ((State.disqualify_keeps old s).mono hq)

theorem bodyPortConfigure_keeps (port : Nat) (mode : Nat) (width : Nat) (fec : Nat) (maxFrame : Nat) (s : State) :
    Rep.keeps [.ports, .contracts, .fw, .fence, .events] s (bodyPortConfigure port mode width fec maxFrame s) := by
  unfold bodyPortConfigure
  try dsimp only
  repeat' with_reducible first
    | apply goesOn.refl | apply State.reevaluate_on | apply State.updPort_on | apply rep_ok | apply rep_bad | apply rep_ranges
    | apply rep_ite | decide

theorem bodyPortConfigure_on {kp : List Part} {b0 : State} {port : Nat} {mode : Nat} {width : Nat} {fec : Nat} {maxFrame : Nat} {s : State} (hk : goesOn kp b0 s) (hq : ∀ p ∈ [.ports, .contracts, .fw, .fence, .events], p ∈ kp) :
    Rep.keeps kp b0 (bodyPortConfigure port mode width fec maxFrame s) := .after hk ((bodyPortConfigure_keeps port mode width fec maxFrame s).mono hq)

theorem bodyPortCastOn_keeps (port : Nat) (s : State) :
    Rep.keeps [.lanes, .ports, .selv, .tdc, .ptp, .fence, .events] s (bodyPortCastOn port s) := by
  unfold bodyPortCastOn
  try dsimp only
  repeat' with_reducible first
    | apply goesOn.refl | apply State.startCasting_on | apply State.updPort_on | apply rep_ok | apply rep_bad | apply rep_ranges
    | apply rep_ite | decide | split

theorem bodyPortCastOn_on {kp : List Part} {b0 : State} {port : Nat} {s : State} (hk : goesOn kp b0 s) (hq : ∀ p ∈ [.lanes, .ports, .selv, .tdc, .ptp, .fence, .events], p ∈ kp) :
    Rep.keeps kp b0 (bodyPortCastOn port s) := .after hk ((bodyPortCastOn_keeps port s).mono hq)

theorem bodyPortBindOff_keeps (src : CmdSrc) (port : Nat) (drain : Nat) (s : State) :
    Rep.keeps [.free, .cmd, .hostMem, .lanes, .ports, .selv, .tdc, .time, .parse, .core, .contracts, .pair, .fw, .mbs, .fence, .events, .stats] s (bodyPortBindOff src port drain s) := by
  unfold bodyPortBindOff
  try dsimp only
  repeat' with_reducible first
    | apply goesOn.refl | apply State.bindOff_on | apply State.updPort_on | apply rep_ok | apply rep_later | apply rep_ranges
    | apply rep_ite | decide | split

theorem bodyPortBindOff_on {kp : List Part} {b0 : State} {src : CmdSrc} {port : Nat} {drain : Nat} {s : State} (hk : goesOn kp b0 s) (hq : ∀ p ∈ [.free, .cmd, .hostMem, .lanes, .ports, .selv, .tdc, .time, .parse, .core, .contracts, .pair, .fw, .mbs, .fence, .events, .stats], p ∈ kp) :
    Rep.keeps kp b0 (bodyPortBindOff src port drain s) := .after hk ((bodyPortBindOff_keeps src port drain s).mono hq)

theorem bodyPortSetPolicy_keeps (port : Nat) (castTimeout : Nat) (holdDown : Nat) (flapLimit : Nat) (flapWindow : Nat) (recast : Nat) (s : State) :
    Rep.keeps [.lanes, .ports, .selv, .tdc, .fence, .events] s (bodyPortSetPolicy port castTimeout holdDown flapLimit flapWindow recast s) := by
  unfold bodyPortSetPolicy
  try dsimp only
  repeat' with_reducible first
    | apply goesOn.refl | apply State.updPort_on | apply rep_ok | apply rep_ranges | decide

theorem bodyPortSetPolicy_on {kp : List Part} {b0 : State} {port : Nat} {castTimeout : Nat} {holdDown : Nat} {flapLimit : Nat} {flapWindow : Nat} {recast : Nat} {s : State} (hk : goesOn kp b0 s) (hq : ∀ p ∈ [.lanes, .ports, .selv, .tdc, .fence, .events], p ∈ kp) :
    Rep.keeps kp b0 (bodyPortSetPolicy port castTimeout holdDown flapLimit flapWindow recast s) := .after hk ((bodyPortSetPolicy_keeps port castTimeout holdDown flapLimit flapWindow recast s).mono hq)

theorem bodyLaneGetStatus_keeps (lane : Nat) (s : State) :
    Rep.keeps [] s (bodyLaneGetStatus lane s) := by
  unfold bodyLaneGetStatus
  try dsimp only
  repeat' with_reducible first
    | apply goesOn.refl | apply rep_ok | apply rep_ranges

theorem bodyLaneGetStatus_on {kp : List Part} {b0 : State} {lane : Nat} {s : State} (hk : goesOn kp b0 s) (hq : ∀ p ∈ [], p ∈ kp) :
    Rep.keeps kp b0 (bodyLaneGetStatus lane s) := .after hk ((bodyLaneGetStatus_keeps lane s).mono hq)

theorem bodyLaneGetLatency_keeps (lane : Nat) (s : State) :
    Rep.keeps [] s (bodyLaneGetLatency lane s) := by
  unfold bodyLaneGetLatency
  try dsimp only
  repeat' with_reducible first
    | apply goesOn.refl | apply rep_ok | apply rep_bad | apply rep_ranges | apply rep_ite | split

theorem bodyLaneGetLatency_on {kp : List Part} {b0 : State} {lane : Nat} {s : State} (hk : goesOn kp b0 s) (hq : ∀ p ∈ [], p ∈ kp) :
    Rep.keeps kp b0 (bodyLaneGetLatency lane s) := .after hk ((bodyLaneGetLatency_keeps lane s).mono hq)

theorem bodyLaneSetChannelTable_keeps (sect : Nat) (s : State) :
    Rep.keeps [.chan, .lanes] s (bodyLaneSetChannelTable sect s) := by
  unfold bodyLaneSetChannelTable
  try dsimp only
  repeat' with_reducible first
    | apply goesOn.refl | apply State.activateTable_on | apply rep_ok | apply rep_fail | apply rep_bad | apply rep_ranges | decide
    | split

theorem bodyLaneSetChannelTable_on {kp : List Part} {b0 : State} {sect : Nat} {s : State} (hk : goesOn kp b0 s) (hq : ∀ p ∈ [.chan, .lanes], p ∈ kp) :
    Rep.keeps kp b0 (bodyLaneSetChannelTable sect s) := .after hk ((bodyLaneSetChannelTable_keeps sect s).mono hq)

theorem bodyLaneRelatch_keeps (lane : Nat) (s : State) :
    Rep.keeps [.lanes] s (bodyLaneRelatch lane s) := by
  unfold bodyLaneRelatch
  try dsimp only
  repeat' with_reducible first
    | apply goesOn.refl | apply State.updLane_on | apply kset_lanes | apply rep_ok | apply rep_ranges | apply rep_ite | decide

theorem bodyLaneRelatch_on {kp : List Part} {b0 : State} {lane : Nat} {s : State} (hk : goesOn kp b0 s) (hq : ∀ p ∈ [.lanes], p ∈ kp) :
    Rep.keeps kp b0 (bodyLaneRelatch lane s) := .after hk ((bodyLaneRelatch_keeps lane s).mono hq)

theorem State.swatchNow_keeps (s : State) (l : Nat) :
    goesOn [.free, .lanes] s (State.swatchNow s l) := by
  unfold State.swatchNow
  try dsimp only
  repeat' with_reducible first
    | apply goesOn.refl | apply keeps_ite | apply State.takeFree_on | apply State.updLane_on | decide

theorem State.swatchNow_on {kp : List Part} {b0 : State} {s : State} {l : Nat} (hk : goesOn kp b0 s) (hq : ∀ p ∈ [.free, .lanes], p ∈ kp) :
    goesOn kp b0 (State.swatchNow s l) := hk.trans ((State.swatchNow_keeps s l).mono hq)

theorem bodyLaneSwatch_keeps (clear : Bool) (lane : Nat) (action : Nat) (txPattern : Nat) (rxPattern : Nat) (loopback : Nat) (injKind : Nat) (injArg : Nat) (s : State) :
    Rep.keeps [.free, .lanes, .ports] s (bodyLaneSwatch clear lane action txPattern rxPattern loopback injKind injArg s) := by
  unfold bodyLaneSwatch
  try dsimp only
  repeat' first
    | with_reducible apply goesOn.refl | with_reducible assumption | with_reducible apply keeps_ite
    | (with_reducible apply keeps_foldl; rotate_left 1; intro y a hy) | with_reducible apply State.swatchNow_on
    | with_reducible apply State.updLane_on | with_reducible apply State.updPort_on | with_reducible apply rep_ok
    | with_reducible apply rep_bad | with_reducible apply rep_flags | with_reducible apply rep_ranges
    | with_reducible apply rep_ite | with_reducible decide

theorem bodyLaneSwatch_on {kp : List Part} {b0 : State} {clear : Bool} {lane : Nat} {action : Nat} {txPattern : Nat} {rxPattern : Nat} {loopback : Nat} {injKind : Nat} {injArg : Nat} {s : State} (hk : goesOn kp b0 s) (hq : ∀ p ∈ [.free, .lanes, .ports], p ∈ kp) :
    Rep.keeps kp b0 (bodyLaneSwatch clear lane action txPattern rxPattern loopback injKind injArg s) := .after hk ((bodyLaneSwatch_keeps clear lane action txPattern rxPattern loopback injKind injArg s).mono hq)

theorem bodyLaneSweep_keeps (lane : Nat) (vga : Nat) (dwell : Nat) (s : State) :
    Rep.keeps [.lanes] s (bodyLaneSweep lane vga dwell s) := by
  unfold bodyLaneSweep
  try dsimp only
  repeat' with_reducible first
    | apply goesOn.refl | apply State.updLane_on | apply rep_ok | apply rep_fail | apply rep_bad | apply rep_ranges
    | apply rep_ite | decide

theorem bodyLaneSweep_on {kp : List Part} {b0 : State} {lane : Nat} {vga : Nat} {dwell : Nat} {s : State} (hk : goesOn kp b0 s) (hq : ∀ p ∈ [.lanes], p ∈ kp) :
    Rep.keeps kp b0 (bodyLaneSweep lane vga dwell s) := .after hk ((bodyLaneSweep_keeps lane vga dwell s).mono hq)

theorem bodyLaneSweepRead_keeps (lane : Nat) (page : Nat) (s : State) :
    Rep.keeps [] s (bodyLaneSweepRead lane page s) := by
  unfold bodyLaneSweepRead
  try dsimp only
  repeat' with_reducible first
    | apply goesOn.refl | apply rep_ok | apply rep_bad | apply rep_ranges | apply rep_ite

theorem bodyLaneSweepRead_on {kp : List Part} {b0 : State} {lane : Nat} {page : Nat} {s : State} (hk : goesOn kp b0 s) (hq : ∀ p ∈ [], p ∈ kp) :
    Rep.keeps kp b0 (bodyLaneSweepRead lane page s) := .after hk ((bodyLaneSweepRead_keeps lane page s).mono hq)

theorem State.moduleEnds_keeps (s : State) (m : Nat) :
    goesOn [.free, .modules] s (State.moduleEnds s m).2 := by
  unfold State.moduleEnds
  try dsimp only
  repeat' with_reducible first
    | apply goesOn.refl | apply keeps_ite2 | apply State.takeFree_on | decide | apply kset_modules

theorem State.moduleEnds_on {kp : List Part} {b0 : State} {s : State} {m : Nat} (hk : goesOn kp b0 s) (hq : ∀ p ∈ [.free, .modules], p ∈ kp) :
    goesOn kp b0 (State.moduleEnds s m).2 := hk.trans ((State.moduleEnds_keeps s m).mono hq)

theorem bodyModuleRead_keeps (module : Nat) (bank : Nat) (page : Nat) (offset : Nat) (length : Nat) (s : State) :
    Rep.keeps [.free, .modules] s (bodyModuleRead module bank page offset length s) := by
  unfold bodyModuleRead
  try dsimp only
  repeat' with_reducible first
    | apply goesOn.refl | apply State.moduleEnds_on | apply State.takeFree_on | apply rep_bad | apply rep_done | apply rep_ranges
    | apply rep_ite | decide | apply kset_modules

theorem bodyModuleRead_on {kp : List Part} {b0 : State} {module : Nat} {bank : Nat} {page : Nat} {offset : Nat} {length : Nat} {s : State} (hk : goesOn kp b0 s) (hq : ∀ p ∈ [.free, .modules], p ∈ kp) :
    Rep.keeps kp b0 (bodyModuleRead module bank page offset length s) := .after hk ((bodyModuleRead_keeps module bank page offset length s).mono hq)

theorem bodyModuleWrite_keeps (module : Nat) (bank : Nat) (page : Nat) (offset : Nat) (length : Nat) (data : List Byte) (s : State) :
    Rep.keeps [.free, .modules] s (bodyModuleWrite module bank page offset length data s) := by
  unfold bodyModuleWrite
  try dsimp only
  repeat' with_reducible first
    | apply goesOn.refl | apply State.moduleEnds_on | apply rep_bad | apply rep_done | apply rep_ranges | apply rep_ite | decide
    | apply kset_modules

theorem bodyModuleWrite_on {kp : List Part} {b0 : State} {module : Nat} {bank : Nat} {page : Nat} {offset : Nat} {length : Nat} {data : List Byte} {s : State} (hk : goesOn kp b0 s) (hq : ∀ p ∈ [.free, .modules], p ∈ kp) :
    Rep.keeps kp b0 (bodyModuleWrite module bank page offset length data s) := .after hk ((bodyModuleWrite_keeps module bank page offset length data s).mono hq)

theorem execPortConfigure_keeps (src : CmdSrc) (port : Nat) (mode : Nat) (width : Nat) (fec : Nat) (maxFrame : Nat) (s : State) :
    Out.keeps [.cmd, .hostMem, .glob, .ports, .contracts, .pair, .fw, .mbs, .fence, .events] s (execPortConfigure src port mode width fec maxFrame s) := by
  unfold execPortConfigure
  try dsimp only
  repeat' first
    | with_reducible apply goesOn.refl | with_reducible apply out_next
    | (with_reducible apply keeps_runCmd; rotate_left 1; intro y) | with_reducible apply bodyPortConfigure_on
    | with_reducible decide

theorem execPortConfigure_on {kp : List Part} {b0 : State} {src : CmdSrc} {port : Nat} {mode : Nat} {width : Nat} {fec : Nat} {maxFrame : Nat} {s : State} (hk : goesOn kp b0 s) (hq : ∀ p ∈ [.cmd, .hostMem, .glob, .ports, .contracts, .pair, .fw, .mbs, .fence, .events], p ∈ kp) :
    Out.keeps kp b0 (execPortConfigure src port mode width fec maxFrame s) := .after hk ((execPortConfigure_keeps src port mode width fec maxFrame s).mono hq)

theorem execPortCastOn_keeps (src : CmdSrc) (port : Nat) (s : State) :
    Out.keeps [.cmd, .hostMem, .glob, .lanes, .ports, .selv, .tdc, .ptp, .pair, .fw, .mbs, .fence, .events] s (execPortCastOn src port s) := by
  unfold execPortCastOn
  try dsimp only
  repeat' first
    | with_reducible apply goesOn.refl | with_reducible apply out_next
    | (with_reducible apply keeps_runCmd; rotate_left 1; intro y) | with_reducible apply bodyPortCastOn_on | with_reducible decide

theorem execPortCastOn_on {kp : List Part} {b0 : State} {src : CmdSrc} {port : Nat} {s : State} (hk : goesOn kp b0 s) (hq : ∀ p ∈ [.cmd, .hostMem, .glob, .lanes, .ports, .selv, .tdc, .ptp, .pair, .fw, .mbs, .fence, .events], p ∈ kp) :
    Out.keeps kp b0 (execPortCastOn src port s) := .after hk ((execPortCastOn_keeps src port s).mono hq)

theorem execPortSetPolicy_keeps (src : CmdSrc) (port : Nat) (castTimeout : Nat) (holdDown : Nat) (flapLimit : Nat) (flapWindow : Nat) (recast : Nat) (s : State) :
    Out.keeps [.cmd, .hostMem, .glob, .lanes, .ports, .selv, .tdc, .pair, .fw, .mbs, .fence, .events] s (execPortSetPolicy src port castTimeout holdDown flapLimit flapWindow recast s) := by
  unfold execPortSetPolicy
  try dsimp only
  repeat' first
    | with_reducible apply goesOn.refl | with_reducible apply out_next
    | (with_reducible apply keeps_runCmd; rotate_left 1; intro y) | with_reducible apply bodyPortSetPolicy_on
    | with_reducible decide

theorem execPortSetPolicy_on {kp : List Part} {b0 : State} {src : CmdSrc} {port : Nat} {castTimeout : Nat} {holdDown : Nat} {flapLimit : Nat} {flapWindow : Nat} {recast : Nat} {s : State} (hk : goesOn kp b0 s) (hq : ∀ p ∈ [.cmd, .hostMem, .glob, .lanes, .ports, .selv, .tdc, .pair, .fw, .mbs, .fence, .events], p ∈ kp) :
    Out.keeps kp b0 (execPortSetPolicy src port castTimeout holdDown flapLimit flapWindow recast s) := .after hk ((execPortSetPolicy_keeps src port castTimeout holdDown flapLimit flapWindow recast s).mono hq)

theorem execLaneGetStatus_keeps (src : CmdSrc) (lane : Nat) (s : State) :
    Out.keeps [.cmd, .hostMem, .glob, .pair, .fw, .mbs, .fence, .events] s (execLaneGetStatus src lane s) := by
  unfold execLaneGetStatus
  try dsimp only
  repeat' first
    | with_reducible apply goesOn.refl | with_reducible apply out_next
    | (with_reducible apply keeps_runCmd; rotate_left 1; intro y) | with_reducible apply bodyLaneGetStatus_on
    | with_reducible decide

theorem execLaneGetStatus_on {kp : List Part} {b0 : State} {src : CmdSrc} {lane : Nat} {s : State} (hk : goesOn kp b0 s) (hq : ∀ p ∈ [.cmd, .hostMem, .glob, .pair, .fw, .mbs, .fence, .events], p ∈ kp) :
    Out.keeps kp b0 (execLaneGetStatus src lane s) := .after hk ((execLaneGetStatus_keeps src lane s).mono hq)

theorem execLaneGetLatency_keeps (src : CmdSrc) (lane : Nat) (s : State) :
    Out.keeps [.cmd, .hostMem, .glob, .pair, .fw, .mbs, .fence, .events] s (execLaneGetLatency src lane s) := by
  unfold execLaneGetLatency
  try dsimp only
  repeat' first
    | with_reducible apply goesOn.refl | with_reducible apply out_next
    | (with_reducible apply keeps_runCmd; rotate_left 1; intro y) | with_reducible apply bodyLaneGetLatency_on
    | with_reducible decide

theorem execLaneGetLatency_on {kp : List Part} {b0 : State} {src : CmdSrc} {lane : Nat} {s : State} (hk : goesOn kp b0 s) (hq : ∀ p ∈ [.cmd, .hostMem, .glob, .pair, .fw, .mbs, .fence, .events], p ∈ kp) :
    Out.keeps kp b0 (execLaneGetLatency src lane s) := .after hk ((execLaneGetLatency_keeps src lane s).mono hq)

theorem execLaneSetChannelTable_keeps (src : CmdSrc) (sect : Nat) (s : State) :
    Out.keeps [.cmd, .hostMem, .glob, .chan, .lanes, .pair, .fw, .mbs, .fence, .events] s (execLaneSetChannelTable src sect s) := by
  unfold execLaneSetChannelTable
  try dsimp only
  repeat' first
    | with_reducible apply goesOn.refl | with_reducible apply out_next
    | (with_reducible apply keeps_runCmd; rotate_left 1; intro y) | with_reducible apply bodyLaneSetChannelTable_on
    | with_reducible decide

theorem execLaneSetChannelTable_on {kp : List Part} {b0 : State} {src : CmdSrc} {sect : Nat} {s : State} (hk : goesOn kp b0 s) (hq : ∀ p ∈ [.cmd, .hostMem, .glob, .chan, .lanes, .pair, .fw, .mbs, .fence, .events], p ∈ kp) :
    Out.keeps kp b0 (execLaneSetChannelTable src sect s) := .after hk ((execLaneSetChannelTable_keeps src sect s).mono hq)

theorem execLaneRelatch_keeps (src : CmdSrc) (lane : Nat) (s : State) :
    Out.keeps [.cmd, .hostMem, .glob, .lanes, .pair, .fw, .mbs, .fence, .events] s (execLaneRelatch src lane s) := by
  unfold execLaneRelatch
  try dsimp only
  repeat' first
    | with_reducible apply goesOn.refl | with_reducible apply out_next
    | (with_reducible apply keeps_runCmd; rotate_left 1; intro y) | with_reducible apply bodyLaneRelatch_on
    | with_reducible decide

theorem execLaneRelatch_on {kp : List Part} {b0 : State} {src : CmdSrc} {lane : Nat} {s : State} (hk : goesOn kp b0 s) (hq : ∀ p ∈ [.cmd, .hostMem, .glob, .lanes, .pair, .fw, .mbs, .fence, .events], p ∈ kp) :
    Out.keeps kp b0 (execLaneRelatch src lane s) := .after hk ((execLaneRelatch_keeps src lane s).mono hq)

theorem execLaneSwatch_keeps (src : CmdSrc) (clear : Bool) (lane : Nat) (action : Nat) (txPattern : Nat) (rxPattern : Nat) (loopback : Nat) (injKind : Nat) (injArg : Nat) (s : State) :
    Out.keeps [.free, .cmd, .hostMem, .glob, .lanes, .ports, .pair, .fw, .mbs, .fence, .events] s (execLaneSwatch src clear lane action txPattern rxPattern loopback injKind injArg s) := by
  unfold execLaneSwatch
  try dsimp only
  repeat' first
    | with_reducible apply goesOn.refl | with_reducible apply out_next
    | (with_reducible apply keeps_runCmd; rotate_left 1; intro y) | with_reducible apply bodyLaneSwatch_on | with_reducible decide

theorem execLaneSwatch_on {kp : List Part} {b0 : State} {src : CmdSrc} {clear : Bool} {lane : Nat} {action : Nat} {txPattern : Nat} {rxPattern : Nat} {loopback : Nat} {injKind : Nat} {injArg : Nat} {s : State} (hk : goesOn kp b0 s) (hq : ∀ p ∈ [.free, .cmd, .hostMem, .glob, .lanes, .ports, .pair, .fw, .mbs, .fence, .events], p ∈ kp) :
    Out.keeps kp b0 (execLaneSwatch src clear lane action txPattern rxPattern loopback injKind injArg s) := .after hk ((execLaneSwatch_keeps src clear lane action txPattern rxPattern loopback injKind injArg s).mono hq)

theorem execLaneSweep_keeps (src : CmdSrc) (lane : Nat) (vga : Nat) (dwell : Nat) (s : State) :
    Out.keeps [.cmd, .hostMem, .glob, .lanes, .pair, .fw, .mbs, .fence, .events] s (execLaneSweep src lane vga dwell s) := by
  unfold execLaneSweep
  try dsimp only
  repeat' first
    | with_reducible apply goesOn.refl | with_reducible apply out_next
    | (with_reducible apply keeps_runCmd; rotate_left 1; intro y) | with_reducible apply bodyLaneSweep_on | with_reducible decide

theorem execLaneSweep_on {kp : List Part} {b0 : State} {src : CmdSrc} {lane : Nat} {vga : Nat} {dwell : Nat} {s : State} (hk : goesOn kp b0 s) (hq : ∀ p ∈ [.cmd, .hostMem, .glob, .lanes, .pair, .fw, .mbs, .fence, .events], p ∈ kp) :
    Out.keeps kp b0 (execLaneSweep src lane vga dwell s) := .after hk ((execLaneSweep_keeps src lane vga dwell s).mono hq)

theorem execLaneSweepRead_keeps (src : CmdSrc) (lane : Nat) (page : Nat) (s : State) :
    Out.keeps [.cmd, .hostMem, .glob, .pair, .fw, .mbs, .fence, .events] s (execLaneSweepRead src lane page s) := by
  unfold execLaneSweepRead
  try dsimp only
  repeat' first
    | with_reducible apply goesOn.refl | with_reducible apply out_next
    | (with_reducible apply keeps_runCmd; rotate_left 1; intro y) | with_reducible apply bodyLaneSweepRead_on
    | with_reducible decide

theorem execLaneSweepRead_on {kp : List Part} {b0 : State} {src : CmdSrc} {lane : Nat} {page : Nat} {s : State} (hk : goesOn kp b0 s) (hq : ∀ p ∈ [.cmd, .hostMem, .glob, .pair, .fw, .mbs, .fence, .events], p ∈ kp) :
    Out.keeps kp b0 (execLaneSweepRead src lane page s) := .after hk ((execLaneSweepRead_keeps src lane page s).mono hq)

theorem execModuleRead_keeps (src : CmdSrc) (module : Nat) (bank : Nat) (page : Nat) (offset : Nat) (length : Nat) (s : State) :
    Out.keeps [.free, .cmd, .hostMem, .glob, .modules, .pair, .fw, .mbs, .fence, .events] s (execModuleRead src module bank page offset length s) := by
  unfold execModuleRead
  try dsimp only
  repeat' first
    | with_reducible apply goesOn.refl | with_reducible apply out_next
    | (with_reducible apply keeps_runCmd; rotate_left 1; intro y) | with_reducible apply bodyModuleRead_on | with_reducible decide

theorem execModuleRead_on {kp : List Part} {b0 : State} {src : CmdSrc} {module : Nat} {bank : Nat} {page : Nat} {offset : Nat} {length : Nat} {s : State} (hk : goesOn kp b0 s) (hq : ∀ p ∈ [.free, .cmd, .hostMem, .glob, .modules, .pair, .fw, .mbs, .fence, .events], p ∈ kp) :
    Out.keeps kp b0 (execModuleRead src module bank page offset length s) := .after hk ((execModuleRead_keeps src module bank page offset length s).mono hq)

theorem execModuleWrite_keeps (src : CmdSrc) (module : Nat) (bank : Nat) (page : Nat) (offset : Nat) (length : Nat) (data : List Byte) (s : State) :
    Out.keeps [.free, .cmd, .hostMem, .glob, .modules, .pair, .fw, .mbs, .fence, .events] s (execModuleWrite src module bank page offset length data s) := by
  unfold execModuleWrite
  try dsimp only
  repeat' first
    | with_reducible apply goesOn.refl | with_reducible apply out_next
    | (with_reducible apply keeps_runCmd; rotate_left 1; intro y) | with_reducible apply bodyModuleWrite_on
    | with_reducible decide

theorem execModuleWrite_on {kp : List Part} {b0 : State} {src : CmdSrc} {module : Nat} {bank : Nat} {page : Nat} {offset : Nat} {length : Nat} {data : List Byte} {s : State} (hk : goesOn kp b0 s) (hq : ∀ p ∈ [.free, .cmd, .hostMem, .glob, .modules, .pair, .fw, .mbs, .fence, .events], p ∈ kp) :
    Out.keeps kp b0 (execModuleWrite src module bank page offset length data s) := .after hk ((execModuleWrite_keeps src module bank page offset length data s).mono hq)

end Sys2Proof.Machine
end

