-- ==== Sys2Proof/Laws/Keeps/Clocks.lean ====
section
/-!
SUPPORT. Which parts of the state each operation of Clocks.lean touches.
-/
namespace Sys2Proof.Machine

theorem State.mcOutputs_keeps (s : State) (c : Nat) :
    goesOn [.stitch] s (State.mcOutputs s c) := by
  unfold State.mcOutputs
  try dsimp only
  repeat' with_reducible first
    | apply goesOn.refl | apply kset_stitch | decide

theorem State.mcOutputs_on {kp : List Part} {b0 : State} {s : State} {c : Nat} (hk : goesOn kp b0 s) (hq : ∀ p ∈ [.stitch], p ∈ kp) :
    goesOn kp b0 (State.mcOutputs s c) := hk.trans ((State.mcOutputs_keeps s c).mono hq)

theorem State.mcTo_keeps (s : State) (c : Nat) (st : McState) :
    goesOn [.stitch, .fence, .events] s (State.mcTo s c st) := by
  unfold State.mcTo
  try dsimp only
  repeat' with_reducible first
    | apply goesOn.refl | apply State.mcOutputs_on | apply State.raise_on | apply State.updMc_on | decide

theorem State.mcTo_on {kp : List Part} {b0 : State} {s : State} {c : Nat} {st : McState} (hk : goesOn kp b0 s) (hq : ∀ p ∈ [.stitch, .fence, .events], p ∈ kp) :
    goesOn kp b0 (State.mcTo s c st) := hk.trans ((State.mcTo_keeps s c st).mono hq)

theorem State.mcLost_keeps (s : State) (c : Nat) :
    goesOn [.stitch, .fence, .events] s (State.mcLost s c) := by
  unfold State.mcLost
  try dsimp only
  repeat' with_reducible first
    | apply goesOn.refl | apply keeps_ite | apply State.mcTo_on | apply State.updMc_on | decide

theorem State.mcLost_on {kp : List Part} {b0 : State} {s : State} {c : Nat} (hk : goesOn kp b0 s) (hq : ∀ p ∈ [.stitch, .fence, .events], p ∈ kp) :
    goesOn kp b0 (State.mcLost s c) := hk.trans ((State.mcLost_keeps s c).mono hq)

theorem State.mcTrack_keeps (s : State) (c : Nat) :
    goesOn [.lanes, .selv, .tdc, .stitch, .fence, .events] s (State.mcTrack s c) := by
  unfold State.mcTrack
  try dsimp only
  repeat' with_reducible first
    | apply goesOn.refl | assumption | apply keeps_ite | apply State.acquire_on | apply State.mcOutputs_on | apply State.mcTo_on
    | apply State.updMc_on | decide | split

theorem State.mcTrack_on {kp : List Part} {b0 : State} {s : State} {c : Nat} (hk : goesOn kp b0 s) (hq : ∀ p ∈ [.lanes, .selv, .tdc, .stitch, .fence, .events], p ∈ kp) :
    goesOn kp b0 (State.mcTrack s c) := hk.trans ((State.mcTrack_keeps s c).mono hq)

theorem State.mcLoop_keeps (s : State) (c : Nat) (q : Int) (counted : Bool) :
    goesOn [.free, .stitch] s (State.mcLoop s c q counted) := by
  unfold State.mcLoop
  try dsimp only
  repeat' with_reducible first
    | apply goesOn.refl | apply State.takeFree_on | apply State.updMc_on | decide

theorem State.mcLoop_on {kp : List Part} {b0 : State} {s : State} {c : Nat} {q : Int} {counted : Bool} (hk : goesOn kp b0 s) (hq : ∀ p ∈ [.free, .stitch], p ∈ kp) :
    goesOn kp b0 (State.mcLoop s c q counted) := hk.trans ((State.mcLoop_keeps s c q counted).mono hq)

theorem State.mcSample_keeps (s : State) (c : Nat) (rq : Nat) (rth : Nat) (q : Int) (stale : Bool) :
    goesOn [.free, .lanes, .selv, .tdc, .stitch, .fence, .events] s (State.mcSample s c rq rth q stale) := by
  unfold State.mcSample
  try dsimp only
  repeat' with_reducible first
    | apply goesOn.refl | apply keeps_ite | apply State.mcLoop_on | apply State.mcLost_on | apply State.mcTrack_on
    | apply State.raise_on | apply State.updMc_on | decide

theorem State.mcSample_on {kp : List Part} {b0 : State} {s : State} {c : Nat} {rq : Nat} {rth : Nat} {q : Int} {stale : Bool} (hk : goesOn kp b0 s) (hq : ∀ p ∈ [.free, .lanes, .selv, .tdc, .stitch, .fence, .events], p ∈ kp) :
    goesOn kp b0 (State.mcSample s c rq rth q stale) := hk.trans ((State.mcSample_keeps s c rq rth q stale).mono hq)

theorem State.mcBoundary_keeps (s : State) (c : Nat) :
    goesOn [.free, .lanes, .selv, .tdc, .stitch, .fence, .events] s (State.mcBoundary s c) := by
  unfold State.mcBoundary
  try dsimp only
  repeat' with_reducible first
    | apply goesOn.refl | apply keeps_ite | apply State.mcSample_on | apply State.raise_on | apply State.updMc_on | decide

theorem State.mcBoundary_on {kp : List Part} {b0 : State} {s : State} {c : Nat} (hk : goesOn kp b0 s) (hq : ∀ p ∈ [.free, .lanes, .selv, .tdc, .stitch, .fence, .events], p ∈ kp) :
    goesOn kp b0 (State.mcBoundary s c) := hk.trans ((State.mcBoundary_keeps s c).mono hq)

theorem State.mcCommit_keeps (s : State) (ch : Nat) (d : Int) :
    goesOn [.stitch] s (State.mcCommit s ch d) := by
  unfold State.mcCommit
  try dsimp only
  repeat' with_reducible first
    | apply goesOn.refl | apply kset_stitch | decide

theorem State.mcCommit_on {kp : List Part} {b0 : State} {s : State} {ch : Nat} {d : Int} (hk : goesOn kp b0 s) (hq : ∀ p ∈ [.stitch], p ∈ kp) :
    goesOn kp b0 (State.mcCommit s ch d) := hk.trans ((State.mcCommit_keeps s ch d).mono hq)

theorem execMcActivityTimeout_keeps (chan : Nat) (s : State) :
    Out.keeps [.clock, .free, .cmd, .hostMem, .lanes, .selv, .tdc, .stitch, .pair, .fw, .mbs, .fence, .events, .stats] s (execMcActivityTimeout chan s) := by
  unfold execMcActivityTimeout
  try dsimp only
  repeat' with_reducible first
    | apply goesOn.refl | apply State.advance_on | apply State.mcLost_on | apply out_next | apply out_fault | apply out_ite
    | decide

theorem execMcActivityTimeout_on {kp : List Part} {b0 : State} {chan : Nat} {s : State} (hk : goesOn kp b0 s) (hq : ∀ p ∈ [.clock, .free, .cmd, .hostMem, .lanes, .selv, .tdc, .stitch, .pair, .fw, .mbs, .fence, .events, .stats], p ∈ kp) :
    Out.keeps kp b0 (execMcActivityTimeout chan s) := .after hk ((execMcActivityTimeout_keeps chan s).mono hq)

theorem execMcCoastLimit_keeps (chan : Nat) (s : State) :
    Out.keeps [.clock, .free, .cmd, .hostMem, .stitch, .pair, .fw, .mbs, .fence, .events, .stats] s (execMcCoastLimit chan s) := by
  unfold execMcCoastLimit
  try dsimp only
  repeat' first
    | with_reducible apply goesOn.refl | with_reducible assumption | with_reducible apply keeps_ite
    | (with_reducible apply keeps_foldl; rotate_left 1; intro y a hy) | with_reducible apply State.advance_on
    | with_reducible apply State.mcTo_on | with_reducible apply State.raise_on | with_reducible apply State.updMc_on
    | with_reducible apply State.updMclk_on | with_reducible apply out_next | with_reducible apply out_fault
    | with_reducible apply out_ite | with_reducible decide | split

theorem execMcCoastLimit_on {kp : List Part} {b0 : State} {chan : Nat} {s : State} (hk : goesOn kp b0 s) (hq : ∀ p ∈ [.clock, .free, .cmd, .hostMem, .stitch, .pair, .fw, .mbs, .fence, .events, .stats], p ∈ kp) :
    Out.keeps kp b0 (execMcCoastLimit chan s) := .after hk ((execMcCoastLimit_keeps chan s).mono hq)

theorem State.markerDelta_keeps (s : State) (c : Nat) (d : Int) :
    goesOn [.stitch] s (State.markerDelta s c d) := by
  unfold State.markerDelta
  try dsimp only
  repeat' with_reducible first
    | apply goesOn.refl | apply State.updMc_on | decide

theorem State.markerDelta_on {kp : List Part} {b0 : State} {s : State} {c : Nat} {d : Int} (hk : goesOn kp b0 s) (hq : ∀ p ∈ [.stitch], p ∈ kp) :
    goesOn kp b0 (State.markerDelta s c d) := hk.trans ((State.markerDelta_keeps s c d).mono hq)

theorem execMarkerEdge_keeps (chan : Nat) (s : State) :
    Out.keeps [.stitch] s (execMarkerEdge chan s) := by
  unfold execMarkerEdge
  try dsimp only
  repeat' with_reducible first
    | apply goesOn.refl | apply State.markerDelta_on | apply State.updMc_on | apply out_next | apply out_fault | apply out_ite
    | decide | split

theorem execMarkerEdge_on {kp : List Part} {b0 : State} {chan : Nat} {s : State} (hk : goesOn kp b0 s) (hq : ∀ p ∈ [.stitch], p ∈ kp) :
    Out.keeps kp b0 (execMarkerEdge chan s) := .after hk ((execMarkerEdge_keeps chan s).mono hq)

theorem execMarkerLost_keeps (chan : Nat) (s : State) :
    Out.keeps [.stitch, .fence, .events] s (execMarkerLost chan s) := by
  unfold execMarkerLost
  try dsimp only
  repeat' with_reducible first
    | apply goesOn.refl | apply State.raise_on | apply State.updMc_on | apply out_next | apply out_fault | apply out_ite | decide

theorem execMarkerLost_on {kp : List Part} {b0 : State} {chan : Nat} {s : State} (hk : goesOn kp b0 s) (hq : ∀ p ∈ [.stitch, .fence, .events], p ∈ kp) :
    Out.keeps kp b0 (execMarkerLost chan s) := .after hk ((execMarkerLost_keeps chan s).mono hq)

theorem State.orbitAlign_keeps (s : State) (c : Nat) :
    goesOn [.stitch] s (State.orbitAlign s c) := by
  unfold State.orbitAlign
  try dsimp only
  repeat' with_reducible first
    | apply goesOn.refl | apply keeps_ite | apply State.updMc_on | decide | split

theorem State.orbitAlign_on {kp : List Part} {b0 : State} {s : State} {c : Nat} (hk : goesOn kp b0 s) (hq : ∀ p ∈ [.stitch], p ∈ kp) :
    goesOn kp b0 (State.orbitAlign s c) := hk.trans ((State.orbitAlign_keeps s c).mono hq)

theorem execOrbitStart_keeps (chan : Nat) (s : State) :
    Out.keeps [.clock, .free, .cmd, .hostMem, .lanes, .selv, .tdc, .stitch, .pair, .fw, .mbs, .fence, .events, .stats] s (execOrbitStart chan s) := by
  unfold execOrbitStart
  try dsimp only
  repeat' with_reducible first
    | apply goesOn.refl | apply keeps_ite | apply State.advanceTick_on | apply State.orbitAlign_on | apply State.raise_on
    | apply State.updMc_on | apply kset_stitch | apply out_next | apply out_fault | apply out_ite | decide

theorem execOrbitStart_on {kp : List Part} {b0 : State} {chan : Nat} {s : State} (hk : goesOn kp b0 s) (hq : ∀ p ∈ [.clock, .free, .cmd, .hostMem, .lanes, .selv, .tdc, .stitch, .pair, .fw, .mbs, .fence, .events, .stats], p ∈ kp) :
    Out.keeps kp b0 (execOrbitStart chan s) := .after hk ((execOrbitStart_keeps chan s).mono hq)

theorem State.mclkBoundary_keeps (s : State) (n : Nat) :
    goesOn [.free, .stitch, .fence, .events] s (State.mclkBoundary s n) := by
  unfold State.mclkBoundary
  try dsimp only
  repeat' with_reducible first
    | apply goesOn.refl | apply keeps_ite | apply State.raise_on | apply State.takeFree_on | apply State.updMclk_on | decide

theorem State.mclkBoundary_on {kp : List Part} {b0 : State} {s : State} {n : Nat} (hk : goesOn kp b0 s) (hq : ∀ p ∈ [.free, .stitch, .fence, .events], p ∈ kp) :
    goesOn kp b0 (State.mclkBoundary s n) := hk.trans ((State.mclkBoundary_keeps s n).mono hq)

theorem bodyMclkConfigureChannel_keeps (enable : Bool) (chan : Nat) (source : Nat) (sourceIdx : Nat) (selector : Nat) (fNum : Nat) (fDen : Nat) (freqLim : Int) (hitLim : Nat) (actLim : Nat) (coastLim : Nat) (bandwidth : Nat) (orbitLen : Nat) (marker : Nat) (markerIdx : Nat) (markOffset : Int) (frameLen : Nat) (s : State) :
    Rep.keeps [.stitch] s (bodyMclkConfigureChannel enable chan source sourceIdx selector fNum fDen freqLim hitLim actLim coastLim bandwidth orbitLen marker markerIdx markOffset frameLen s) := by
  unfold bodyMclkConfigureChannel
  try dsimp only
  repeat' with_reducible first
    | apply goesOn.refl | apply State.mcOutputs_on | apply State.updMc_on | apply rep_ok | apply rep_bad | apply rep_ranges
    | apply rep_ite | decide

theorem bodyMclkConfigureChannel_on {kp : List Part} {b0 : State} {enable : Bool} {chan : Nat} {source : Nat} {sourceIdx : Nat} {selector : Nat} {fNum : Nat} {fDen : Nat} {freqLim : Int} {hitLim : Nat} {actLim : Nat} {coastLim : Nat} {bandwidth : Nat} {orbitLen : Nat} {marker : Nat} {markerIdx : Nat} {markOffset : Int} {frameLen : Nat} {s : State} (hk : goesOn kp b0 s) (hq : ∀ p ∈ [.stitch], p ∈ kp) :
    Rep.keeps kp b0 (bodyMclkConfigureChannel enable chan source sourceIdx selector fNum fDen freqLim hitLim actLim coastLim bandwidth orbitLen marker markerIdx markOffset frameLen s) := .after hk ((bodyMclkConfigureChannel_keeps enable chan source sourceIdx selector fNum fDen freqLim hitLim actLim coastLim bandwidth orbitLen marker markerIdx markOffset frameLen s).mono hq)

theorem bodyMclkConfigureOutput_keeps (squelch : Bool) (output : Nat) (chan : Nat) (mode : Nat) (m : Nat) (d : Nat) (offset : Int) (slewLim : Int) (w : Nat) (swing : Nat) (s : State) :
    Rep.keeps [.stitch] s (bodyMclkConfigureOutput squelch output chan mode m d offset slewLim w swing s) := by
  unfold bodyMclkConfigureOutput
  try dsimp only
  repeat' with_reducible first
    | apply goesOn.refl | apply State.mcOutputs_on | apply State.updMclk_on | apply rep_ok | apply rep_bad | apply rep_ranges
    | apply rep_ite | decide

theorem bodyMclkConfigureOutput_on {kp : List Part} {b0 : State} {squelch : Bool} {output : Nat} {chan : Nat} {mode : Nat} {m : Nat} {d : Nat} {offset : Int} {slewLim : Int} {w : Nat} {swing : Nat} {s : State} (hk : goesOn kp b0 s) (hq : ∀ p ∈ [.stitch], p ∈ kp) :
    Rep.keeps kp b0 (bodyMclkConfigureOutput squelch output chan mode m d offset slewLim w swing s) := .after hk ((bodyMclkConfigureOutput_keeps squelch output chan mode m d offset slewLim w swing s).mono hq)

theorem bodyMclkGet_keeps (chan : Nat) (s : State) :
    Rep.keeps [] s (bodyMclkGet chan s) := by
  unfold bodyMclkGet
  try dsimp only
  repeat' with_reducible first
    | apply goesOn.refl | apply rep_ok | apply rep_ranges

theorem bodyMclkGet_on {kp : List Part} {b0 : State} {chan : Nat} {s : State} (hk : goesOn kp b0 s) (hq : ∀ p ∈ [], p ∈ kp) :
    Rep.keeps kp b0 (bodyMclkGet chan s) := .after hk ((bodyMclkGet_keeps chan s).mono hq)

theorem bodyMclkSetOrbit_keeps (given : Bool) (chan : Nat) (t : KTime) (bunch : Nat) (orbit : Nat) (s : State) :
    Rep.keeps [.stitch] s (bodyMclkSetOrbit given chan t bunch orbit s) := by
  unfold bodyMclkSetOrbit
  try dsimp only
  repeat' with_reducible first
    | apply goesOn.refl | apply State.updMc_on | apply rep_ok | apply rep_bad | apply rep_ranges | apply rep_ite | decide

theorem bodyMclkSetOrbit_on {kp : List Part} {b0 : State} {given : Bool} {chan : Nat} {t : KTime} {bunch : Nat} {orbit : Nat} {s : State} (hk : goesOn kp b0 s) (hq : ∀ p ∈ [.stitch], p ∈ kp) :
    Rep.keeps kp b0 (bodyMclkSetOrbit given chan t bunch orbit s) := .after hk ((bodyMclkSetOrbit_keeps given chan t bunch orbit s).mono hq)

theorem execMclkConfigureChannel_keeps (src : CmdSrc) (enable : Bool) (chan : Nat) (source : Nat) (sourceIdx : Nat) (selector : Nat) (fNum : Nat) (fDen : Nat) (freqLim : Int) (hitLim : Nat) (actLim : Nat) (coastLim : Nat) (bandwidth : Nat) (orbitLen : Nat) (marker : Nat) (markerIdx : Nat) (markOffset : Int) (frameLen : Nat) (s : State) :
    Out.keeps [.cmd, .hostMem, .glob, .stitch, .pair, .fw, .mbs, .fence, .events] s (execMclkConfigureChannel src enable chan source sourceIdx selector fNum fDen freqLim hitLim actLim coastLim bandwidth orbitLen marker markerIdx markOffset frameLen s) := by
  unfold execMclkConfigureChannel
  try dsimp only
  repeat' first
    | with_reducible apply goesOn.refl | with_reducible apply out_next
    | (with_reducible apply keeps_runCmd; rotate_left 1; intro y) | with_reducible apply bodyMclkConfigureChannel_on
    | with_reducible decide

theorem execMclkConfigureChannel_on {kp : List Part} {b0 : State} {src : CmdSrc} {enable : Bool} {chan : Nat} {source : Nat} {sourceIdx : Nat} {selector : Nat} {fNum : Nat} {fDen : Nat} {freqLim : Int} {hitLim : Nat} {actLim : Nat} {coastLim : Nat} {bandwidth : Nat} {orbitLen : Nat} {marker : Nat} {markerIdx : Nat} {markOffset : Int} {frameLen : Nat} {s : State} (hk : goesOn kp b0 s) (hq : ∀ p ∈ [.cmd, .hostMem, .glob, .stitch, .pair, .fw, .mbs, .fence, .events], p ∈ kp) :
    Out.keeps kp b0 (execMclkConfigureChannel src enable chan source sourceIdx selector fNum fDen freqLim hitLim actLim coastLim bandwidth orbitLen marker markerIdx markOffset frameLen s) := .after hk ((execMclkConfigureChannel_keeps src enable chan source sourceIdx selector fNum fDen freqLim hitLim actLim coastLim bandwidth orbitLen marker markerIdx markOffset frameLen s).mono hq)

theorem execMclkConfigureOutput_keeps (src : CmdSrc) (squelch : Bool) (output : Nat) (chan : Nat) (mode : Nat) (m : Nat) (d : Nat) (offset : Int) (slewLim : Int) (w : Nat) (swing : Nat) (s : State) :
    Out.keeps [.cmd, .hostMem, .glob, .stitch, .pair, .fw, .mbs, .fence, .events] s (execMclkConfigureOutput src squelch output chan mode m d offset slewLim w swing s) := by
  unfold execMclkConfigureOutput
  try dsimp only
  repeat' first
    | with_reducible apply goesOn.refl | with_reducible apply out_next
    | (with_reducible apply keeps_runCmd; rotate_left 1; intro y) | with_reducible apply bodyMclkConfigureOutput_on
    | with_reducible decide

theorem execMclkConfigureOutput_on {kp : List Part} {b0 : State} {src : CmdSrc} {squelch : Bool} {output : Nat} {chan : Nat} {mode : Nat} {m : Nat} {d : Nat} {offset : Int} {slewLim : Int} {w : Nat} {swing : Nat} {s : State} (hk : goesOn kp b0 s) (hq : ∀ p ∈ [.cmd, .hostMem, .glob, .stitch, .pair, .fw, .mbs, .fence, .events], p ∈ kp) :
    Out.keeps kp b0 (execMclkConfigureOutput src squelch output chan mode m d offset slewLim w swing s) := .after hk ((execMclkConfigureOutput_keeps src squelch output chan mode m d offset slewLim w swing s).mono hq)

theorem execMclkGet_keeps (src : CmdSrc) (chan : Nat) (s : State) :
    Out.keeps [.cmd, .hostMem, .glob, .pair, .fw, .mbs, .fence, .events] s (execMclkGet src chan s) := by
  unfold execMclkGet
  try dsimp only
  repeat' first
    | with_reducible apply goesOn.refl | with_reducible apply out_next
    | (with_reducible apply keeps_runCmd; rotate_left 1; intro y) | with_reducible apply bodyMclkGet_on | with_reducible decide

theorem execMclkGet_on {kp : List Part} {b0 : State} {src : CmdSrc} {chan : Nat} {s : State} (hk : goesOn kp b0 s) (hq : ∀ p ∈ [.cmd, .hostMem, .glob, .pair, .fw, .mbs, .fence, .events], p ∈ kp) :
    Out.keeps kp b0 (execMclkGet src chan s) := .after hk ((execMclkGet_keeps src chan s).mono hq)

theorem execMclkSetOrbit_keeps (src : CmdSrc) (given : Bool) (chan : Nat) (t : KTime) (bunch : Nat) (orbit : Nat) (s : State) :
    Out.keeps [.cmd, .hostMem, .glob, .stitch, .pair, .fw, .mbs, .fence, .events] s (execMclkSetOrbit src given chan t bunch orbit s) := by
  unfold execMclkSetOrbit
  try dsimp only
  repeat' first
    | with_reducible apply goesOn.refl | with_reducible apply out_next
    | (with_reducible apply keeps_runCmd; rotate_left 1; intro y) | with_reducible apply bodyMclkSetOrbit_on
    | with_reducible decide

theorem execMclkSetOrbit_on {kp : List Part} {b0 : State} {src : CmdSrc} {given : Bool} {chan : Nat} {t : KTime} {bunch : Nat} {orbit : Nat} {s : State} (hk : goesOn kp b0 s) (hq : ∀ p ∈ [.cmd, .hostMem, .glob, .stitch, .pair, .fw, .mbs, .fence, .events], p ∈ kp) :
    Out.keeps kp b0 (execMclkSetOrbit src given chan t bunch orbit s) := .after hk ((execMclkSetOrbit_keeps src given chan t bunch orbit s).mono hq)

end Sys2Proof.Machine
end

