-- ==== Sys2Proof/Laws/Keeps/Stitches.lean ====
section
/-!
SUPPORT. Which parts of the state each operation of Stitches.lean touches.
-/
namespace Sys2Proof.Machine

theorem State.stitchEnqueue_keeps (s : State) (q : QStitch) (g : Nat) :
    goesOn [.stitch, .fence, .events] s (State.stitchEnqueue s q g) := by
  unfold State.stitchEnqueue
  try dsimp only
  repeat' with_reducible first
    | apply goesOn.refl | apply keeps_ite | apply State.raise_on | apply kset_stitch | decide

theorem State.stitchEnqueue_on {kp : List Part} {b0 : State} {s : State} {q : QStitch} {g : Nat} (hk : goesOn kp b0 s) (hq : ∀ p ∈ [.stitch, .fence, .events], p ∈ kp) :
    goesOn kp b0 (State.stitchEnqueue s q g) := hk.trans ((State.stitchEnqueue_keeps s q g).mono hq)

theorem State.stitchQueue_keeps (s : State) (q : QStitch) :
    goesOn [.stitch, .fence, .events] s (State.stitchQueue s q) := by
  unfold State.stitchQueue
  try dsimp only
  repeat' first
    | with_reducible apply goesOn.refl | with_reducible assumption
    | (with_reducible apply keeps_foldl; rotate_left 1; intro y a hy) | with_reducible apply State.stitchEnqueue_on
    | with_reducible decide | split | with_reducible apply kset_stitch

theorem State.stitchQueue_on {kp : List Part} {b0 : State} {s : State} {q : QStitch} (hk : goesOn kp b0 s) (hq : ∀ p ∈ [.stitch, .fence, .events], p ∈ kp) :
    goesOn kp b0 (State.stitchQueue s q) := hk.trans ((State.stitchQueue_keeps s q).mono hq)

theorem State.stitchArrivals_keeps (s : State) (t : Nat) :
    goesOn [.stitch, .fence, .events] s (State.stitchArrivals s t) := by
  unfold State.stitchArrivals
  try dsimp only
  repeat' first
    | with_reducible apply goesOn.refl | with_reducible assumption
    | (with_reducible apply keeps_foldl; rotate_left 1; intro y a hy) | with_reducible apply State.stitchQueue_on
    | with_reducible apply kset_stitch | with_reducible decide

theorem State.stitchArrivals_on {kp : List Part} {b0 : State} {s : State} {t : Nat} (hk : goesOn kp b0 s) (hq : ∀ p ∈ [.stitch, .fence, .events], p ∈ kp) :
    goesOn kp b0 (State.stitchArrivals s t) := hk.trans ((State.stitchArrivals_keeps s t).mono hq)

theorem execStitchArrival_keeps (s : State) :
    Out.keeps [.clock, .free, .cmd, .hostMem, .stitch, .pair, .fw, .mbs, .fence, .events, .stats] s (execStitchArrival s) := by
  unfold execStitchArrival
  try dsimp only
  repeat' with_reducible first
    | apply goesOn.refl | apply State.advanceTick_on | apply State.stitchArrivals_on | apply out_next | decide | split

theorem execStitchArrival_on {kp : List Part} {b0 : State} {s : State} (hk : goesOn kp b0 s) (hq : ∀ p ∈ [.clock, .free, .cmd, .hostMem, .stitch, .pair, .fw, .mbs, .fence, .events, .stats], p ∈ kp) :
    Out.keeps kp b0 (execStitchArrival s) := .after hk ((execStitchArrival_keeps s).mono hq)

theorem execStitchReady_keeps (s : State) :
    Out.keeps [.clock, .free, .cmd, .hostMem, .pair, .fw, .mbs, .fence, .events, .stats] s (execStitchReady s) := by
  unfold execStitchReady
  try dsimp only
  repeat' with_reducible first
    | apply goesOn.refl | apply State.advanceTick_on | apply out_next | decide | split

theorem execStitchReady_on {kp : List Part} {b0 : State} {s : State} (hk : goesOn kp b0 s) (hq : ∀ p ∈ [.clock, .free, .cmd, .hostMem, .pair, .fw, .mbs, .fence, .events, .stats], p ∈ kp) :
    Out.keeps kp b0 (execStitchReady s) := .after hk ((execStitchReady_keeps s).mono hq)

theorem State.sendWord_keeps (s : State) (p : Nat) (k : Nat) (w : Nat) :
    goesOn [.stitch] s (State.sendWord s p k w) := by
  unfold State.sendWord
  try dsimp only
  repeat' with_reducible first
    | apply goesOn.refl | apply State.updSt_on | apply kset_stitch | decide

theorem State.sendWord_on {kp : List Part} {b0 : State} {s : State} {p : Nat} {k : Nat} {w : Nat} (hk : goesOn kp b0 s) (hq : ∀ p ∈ [.stitch], p ∈ kp) :
    goesOn kp b0 (State.sendWord s p k w) := hk.trans ((State.sendWord_keeps s p k w).mono hq)

theorem State.sendPlaced_keeps (s : State) (wait : Option Nat) (g : Nat) (tick : Nat) (sub : Nat) :
    goesOn [.cmd, .hostMem, .stitch, .pair, .fw, .mbs, .fence, .events] s (State.sendPlaced s wait g tick sub) := by
  unfold State.sendPlaced
  try dsimp only
  repeat' with_reducible first
    | apply goesOn.refl | apply keeps_ite | apply State.finish_on | apply State.markStarted_on | decide | split
    | apply kset_stitch

theorem State.sendPlaced_on {kp : List Part} {b0 : State} {s : State} {wait : Option Nat} {g : Nat} {tick : Nat} {sub : Nat} (hk : goesOn kp b0 s) (hq : ∀ p ∈ [.cmd, .hostMem, .stitch, .pair, .fw, .mbs, .fence, .events], p ∈ kp) :
    goesOn kp b0 (State.sendPlaced s wait g tick sub) := hk.trans ((State.sendPlaced_keeps s wait g tick sub).mono hq)

theorem State.timedEnd_keeps (s : State) (h : Nat) :
    goesOn [.stitch] s (State.timedEnd s h) := by
  unfold State.timedEnd
  try dsimp only
  repeat' with_reducible first
    | apply goesOn.refl | apply keeps_ite | apply kset_stitch | decide

theorem State.timedEnd_on {kp : List Part} {b0 : State} {s : State} {h : Nat} (hk : goesOn kp b0 s) (hq : ∀ p ∈ [.stitch], p ∈ kp) :
    goesOn kp b0 (State.timedEnd s h) := hk.trans ((State.timedEnd_keeps s h).mono hq)

theorem State.placeStitch_keeps (s : State) (q : QStitch) (ps : List Nat) (k : Nat) :
    goesOn [.stitch] s (State.placeStitch s q ps k) := by
  unfold State.placeStitch
  try dsimp only
  repeat' first
    | with_reducible apply goesOn.refl | with_reducible assumption
    | (with_reducible apply keeps_foldl; rotate_left 1; intro y a hy) | with_reducible apply State.sendWord_on
    | with_reducible decide | split | with_reducible apply kset_stitch

theorem State.placeStitch_on {kp : List Part} {b0 : State} {s : State} {q : QStitch} {ps : List Nat} {k : Nat} (hk : goesOn kp b0 s) (hq : ∀ p ∈ [.stitch], p ∈ kp) :
    goesOn kp b0 (State.placeStitch s q ps k) := hk.trans ((State.placeStitch_keeps s q ps k).mono hq)

theorem State.serveStitch_keeps (s : State) (q : QStitch) (g : Nat) (k : Nat) (tick : Nat) (sub : Nat) (said : Bool) :
    goesOn [.cmd, .hostMem, .stitch, .pair, .fw, .mbs, .fence, .events] s (State.serveStitch s q g k tick sub said).1 := by
  unfold State.serveStitch
  repeat' with_reducible first
    | apply goesOn.refl | apply keeps_ite | apply keeps_ite1 | apply State.placeStitch_on | apply State.raise_on
    | apply State.sendPlaced_on | decide | split | apply kset_stitch

theorem State.serveStitch_on {kp : List Part} {b0 : State} {s : State} {q : QStitch} {g : Nat} {k : Nat} {tick : Nat} {sub : Nat} {said : Bool} (hk : goesOn kp b0 s) (hq : ∀ p ∈ [.cmd, .hostMem, .stitch, .pair, .fw, .mbs, .fence, .events], p ∈ kp) :
    goesOn kp b0 (State.serveStitch s q g k tick sub said).1 := hk.trans ((State.serveStitch_keeps s q g k tick sub said).mono hq)

theorem State.serveOne_keeps (g : Nat) (k : Nat) (tick : Nat) (sub : Nat) (a : State × List QStitch × List Nat) (q : QStitch) :
    goesOn [.cmd, .hostMem, .stitch, .pair, .fw, .mbs, .fence, .events] a.1 (State.serveOne g k tick sub a q).1 := by
  rw [State.serveOne]
  exact keeps_mk1 (State.serveStitch_keeps _ _ _ _ _ _ _)

theorem State.serveOne_on {kp : List Part} {b0 : State} {g : Nat} {k : Nat} {tick : Nat} {sub : Nat} {a : State × List QStitch × List Nat} {q : QStitch} (hk : goesOn kp b0 a.1) (hq : ∀ p ∈ [.cmd, .hostMem, .stitch, .pair, .fw, .mbs, .fence, .events], p ∈ kp) :
    goesOn kp b0 (State.serveOne g k tick sub a q).1 := hk.trans ((State.serveOne_keeps g k tick sub a q).mono hq)

theorem State.serveQueue_keeps (s : State) (g : Nat) (k : Nat) (tick : Nat) (sub : Nat) (c : Nat) :
    goesOn [.cmd, .hostMem, .stitch, .pair, .fw, .mbs, .fence, .events] s (State.serveQueue s g k tick sub c) := by
  unfold State.serveQueue
  try dsimp only
  repeat' first
    | with_reducible apply goesOn.refl | with_reducible assumption
    | (with_reducible apply keeps_foldl; rotate_left 1; intro y a hy)
    | (with_reducible apply keeps_foldl1; rotate_left 1; intro y a hy) | with_reducible apply State.serveOne_on
    | with_reducible apply State.timedEnd_on | with_reducible decide | with_reducible apply kset_stitch

theorem State.serveQueue_on {kp : List Part} {b0 : State} {s : State} {g : Nat} {k : Nat} {tick : Nat} {sub : Nat} {c : Nat} (hk : goesOn kp b0 s) (hq : ∀ p ∈ [.cmd, .hostMem, .stitch, .pair, .fw, .mbs, .fence, .events], p ∈ kp) :
    goesOn kp b0 (State.serveQueue s g k tick sub c) := hk.trans ((State.serveQueue_keeps s g k tick sub c).mono hq)

theorem State.sendReserved_keeps (s : State) (g : Nat) (k : Nat) :
    goesOn [.stitch] s (State.sendReserved s g k) := by
  unfold State.sendReserved
  try dsimp only
  repeat' first
    | with_reducible apply goesOn.refl | with_reducible assumption
    | (with_reducible apply keeps_foldl; rotate_left 1; intro y a hy) | with_reducible apply State.sendWord_on
    | with_reducible apply kset_stitch | with_reducible decide

theorem State.sendReserved_on {kp : List Part} {b0 : State} {s : State} {g : Nat} {k : Nat} (hk : goesOn kp b0 s) (hq : ∀ p ∈ [.stitch], p ∈ kp) :
    goesOn kp b0 (State.sendReserved s g k) := hk.trans ((State.sendReserved_keeps s g k).mono hq)

theorem State.fillSlot_keeps (s : State) (g : Nat) (k : Nat) :
    goesOn [.selv, .ptp, .stitch] s (State.fillSlot s g k) := by
  unfold State.fillSlot
  try dsimp only
  repeat' first
    | with_reducible apply goesOn.refl | with_reducible assumption | with_reducible apply keeps_ite
    | (with_reducible apply keeps_foldl; rotate_left 1; intro y a hy) | with_reducible apply State.linkSlot_on
    | with_reducible apply State.sendWord_on | with_reducible decide

theorem State.fillSlot_on {kp : List Part} {b0 : State} {s : State} {g : Nat} {k : Nat} (hk : goesOn kp b0 s) (hq : ∀ p ∈ [.selv, .ptp, .stitch], p ∈ kp) :
    goesOn kp b0 (State.fillSlot s g k) := hk.trans ((State.fillSlot_keeps s g k).mono hq)

theorem execStitchSlot_keeps (group : Nat) (s : State) :
    Out.keeps [.clock, .free, .cmd, .hostMem, .selv, .ptp, .stitch, .pair, .fw, .mbs, .fence, .events, .stats] s (execStitchSlot group s) := by
  unfold execStitchSlot
  try dsimp only
  repeat' first
    | with_reducible apply goesOn.refl | with_reducible assumption
    | (with_reducible apply keeps_foldl; rotate_left 1; intro y a hy) | with_reducible apply State.advanceTick_on
    | with_reducible apply State.fillSlot_on | with_reducible apply State.sendReserved_on
    | with_reducible apply State.serveQueue_on | with_reducible apply State.stitchArrivals_on | with_reducible apply kset_stitch
    | with_reducible apply out_next | with_reducible apply out_fault | with_reducible apply out_ite | with_reducible decide

theorem execStitchSlot_on {kp : List Part} {b0 : State} {group : Nat} {s : State} (hk : goesOn kp b0 s) (hq : ∀ p ∈ [.clock, .free, .cmd, .hostMem, .selv, .ptp, .stitch, .pair, .fw, .mbs, .fence, .events, .stats], p ∈ kp) :
    Out.keeps kp b0 (execStitchSlot group s) := .after hk ((execStitchSlot_keeps group s).mono hq)

theorem State.timedReady_keeps (s : State) (x : Pending) :
    goesOn [.stitch, .fence, .events] s (State.timedReady s x) := by
  unfold State.timedReady
  try dsimp only
  repeat' first
    | with_reducible apply goesOn.refl | with_reducible assumption
    | (with_reducible apply keeps_foldl; rotate_left 1; intro y a hy) | with_reducible apply State.stitchQueue_on
    | with_reducible apply State.timedEnd_on | with_reducible apply kset_stitch | with_reducible decide

theorem State.timedReady_on {kp : List Part} {b0 : State} {s : State} {x : Pending} (hk : goesOn kp b0 s) (hq : ∀ p ∈ [.stitch, .fence, .events], p ∈ kp) :
    goesOn kp b0 (State.timedReady s x) := hk.trans ((State.timedReady_keeps s x).mono hq)

theorem execTimedStitchReady_keeps (s : State) :
    Out.keeps [.clock, .free, .cmd, .hostMem, .stitch, .pair, .fw, .mbs, .fence, .events, .stats] s (execTimedStitchReady s) := by
  unfold execTimedStitchReady
  try dsimp only
  repeat' with_reducible first
    | apply goesOn.refl | apply State.advanceTick_on | apply State.timedReady_on | apply out_next | decide | split

theorem execTimedStitchReady_on {kp : List Part} {b0 : State} {s : State} (hk : goesOn kp b0 s) (hq : ∀ p ∈ [.clock, .free, .cmd, .hostMem, .stitch, .pair, .fw, .mbs, .fence, .events, .stats], p ∈ kp) :
    Out.keeps kp b0 (execTimedStitchReady s) := .after hk ((execTimedStitchReady_keeps s).mono hq)

theorem execPhaseSetIssue_keeps (chan : Nat) (s : State) :
    Out.keeps [.clock, .free, .cmd, .hostMem, .time, .ptp, .stitch, .pair, .fw, .mbs, .fence, .events, .stats] s (execPhaseSetIssue chan s) := by
  unfold execPhaseSetIssue
  try dsimp only
  repeat' with_reducible first
    | apply goesOn.refl | apply State.advance_on | apply State.stitchQueue_on | apply State.updMc_on | apply out_next
    | apply out_fault | apply out_ite | decide

theorem execPhaseSetIssue_on {kp : List Part} {b0 : State} {chan : Nat} {s : State} (hk : goesOn kp b0 s) (hq : ∀ p ∈ [.clock, .free, .cmd, .hostMem, .time, .ptp, .stitch, .pair, .fw, .mbs, .fence, .events, .stats], p ∈ kp) :
    Out.keeps kp b0 (execPhaseSetIssue chan s) := .after hk ((execPhaseSetIssue_keeps chan s).mono hq)

theorem execBcnIssue_keeps (chan : Nat) (s : State) :
    Out.keeps [.stitch, .fence, .events] s (execBcnIssue chan s) := by
  unfold execBcnIssue
  try dsimp only
  repeat' with_reducible first
    | apply goesOn.refl | apply State.stitchQueue_on | apply State.updMc_on | apply out_next | apply out_fault | apply out_ite
    | decide

theorem execBcnIssue_on {kp : List Part} {b0 : State} {chan : Nat} {s : State} (hk : goesOn kp b0 s) (hq : ∀ p ∈ [.stitch, .fence, .events], p ∈ kp) :
    Out.keeps kp b0 (execBcnIssue chan s) := .after hk ((execBcnIssue_keeps chan s).mono hq)

theorem State.bcnReceived_keeps (s : State) (p : Nat) (v : Nat) :
    goesOn [.stitch] s (State.bcnReceived s p v) := by
  unfold State.bcnReceived
  try dsimp only
  repeat' first
    | with_reducible apply goesOn.refl | with_reducible assumption | with_reducible apply keeps_ite
    | (with_reducible apply keeps_foldl; rotate_left 1; intro y a hy) | with_reducible apply State.updMc_on
    | with_reducible decide

theorem State.bcnReceived_on {kp : List Part} {b0 : State} {s : State} {p : Nat} {v : Nat} (hk : goesOn kp b0 s) (hq : ∀ p ∈ [.stitch], p ∈ kp) :
    goesOn kp b0 (State.bcnReceived s p v) := hk.trans ((State.bcnReceived_keeps s p v).mono hq)

theorem State.phaseSet_keeps (s : State) (p : Nat) (sel : Nat) (words : List Nat) (anchor : Int) :
    goesOn [.free, .lanes, .selv, .tdc, .stitch, .fence, .events] s (State.phaseSet s p sel words anchor) := by
  unfold State.phaseSet
  try dsimp only
  repeat' first
    | with_reducible apply goesOn.refl | with_reducible assumption | with_reducible apply keeps_ite
    | (with_reducible apply keeps_foldl; rotate_left 1; intro y a hy) | with_reducible apply State.markerDelta_on
    | with_reducible apply State.mcSample_on | with_reducible apply State.updMc_on | with_reducible decide

theorem State.phaseSet_on {kp : List Part} {b0 : State} {s : State} {p : Nat} {sel : Nat} {words : List Nat} {anchor : Int} (hk : goesOn kp b0 s) (hq : ∀ p ∈ [.free, .lanes, .selv, .tdc, .stitch, .fence, .events], p ∈ kp) :
    goesOn kp b0 (State.phaseSet s p sel words anchor) := hk.trans ((State.phaseSet_keeps s p sel words anchor).mono hq)

theorem State.phaseWord_keeps (s : State) (p : Nat) (payload : Nat) (at_ : Nat) :
    goesOn [.free, .lanes, .selv, .tdc, .stitch, .fence, .events] s (State.phaseWord s p payload at_) := by
  unfold State.phaseWord
  try dsimp only
  repeat' with_reducible first
    | apply goesOn.refl | apply keeps_ite | apply State.phaseSet_on | apply State.updSt_on | decide

theorem State.phaseWord_on {kp : List Part} {b0 : State} {s : State} {p : Nat} {payload : Nat} {at_ : Nat} (hk : goesOn kp b0 s) (hq : ∀ p ∈ [.free, .lanes, .selv, .tdc, .stitch, .fence, .events], p ∈ kp) :
    goesOn kp b0 (State.phaseWord s p payload at_) := hk.trans ((State.phaseWord_keeps s p payload at_).mono hq)

theorem State.broadcastRx_keeps (s : State) (p : Nat) (w : Nat) (tick : Nat) (sub : Nat) (at_ : Nat) :
    goesOn [.free, .lanes, .selv, .tdc, .stitch, .fence, .events] s (State.broadcastRx s p w tick sub at_) := by
  unfold State.broadcastRx
  try dsimp only
  repeat' with_reducible first
    | apply goesOn.refl | assumption | apply keeps_ite | apply keeps_ite1 | apply keeps_ite2 | apply State.bcnReceived_on
    | apply State.logOnly_on | apply State.phaseWord_on | apply State.stitchSend_on | apply State.updSt_on
    | (apply keeps_fst; case e => assumption) | (apply keeps_snd; case e => assumption) | decide | split | apply kset_stitch

theorem State.broadcastRx_on {kp : List Part} {b0 : State} {s : State} {p : Nat} {w : Nat} {tick : Nat} {sub : Nat} {at_ : Nat} (hk : goesOn kp b0 s) (hq : ∀ p ∈ [.free, .lanes, .selv, .tdc, .stitch, .fence, .events], p ∈ kp) :
    goesOn kp b0 (State.broadcastRx s p w tick sub at_) := hk.trans ((State.broadcastRx_keeps s p w tick sub at_).mono hq)

theorem execStitchBlockRx_keeps (port : Nat) (index : Nat) (ctl : Bool) (word : Nat) (tick : Nat) (sub : Nat) (s : State) :
    Out.keeps [.clock, .free, .cmd, .hostMem, .lanes, .ports, .selv, .tdc, .ref, .time, .ptp, .stitch, .parse, .core, .contracts, .pair, .fw, .mbs, .fence, .events, .stats] s (execStitchBlockRx port index ctl word tick sub s) := by
  unfold execStitchBlockRx
  try dsimp only
  repeat' with_reducible first
    | apply goesOn.refl | apply keeps_ite | apply State.advanceTick_on | apply State.broadcastRx_on | apply State.disqualify_on
    | apply State.linkStitch_on | apply State.portLoss_on | apply State.raise_on | apply State.stitchError_on
    | apply State.updSelv_on | apply State.updSt_on | apply out_next | apply out_fault | apply out_ite | decide | split

theorem execStitchBlockRx_on {kp : List Part} {b0 : State} {port : Nat} {index : Nat} {ctl : Bool} {word : Nat} {tick : Nat} {sub : Nat} {s : State} (hk : goesOn kp b0 s) (hq : ∀ p ∈ [.clock, .free, .cmd, .hostMem, .lanes, .ports, .selv, .tdc, .ref, .time, .ptp, .stitch, .parse, .core, .contracts, .pair, .fw, .mbs, .fence, .events, .stats], p ∈ kp) :
    Out.keeps kp b0 (execStitchBlockRx port index ctl word tick sub s) := .after hk ((execStitchBlockRx_keeps port index ctl word tick sub s).mono hq)

theorem edgeOut_keeps (ch : Nat) (r : State × Option Stamp) :
    Out.keeps [.stitch] r.1 (edgeOut ch r) := by
  unfold edgeOut
  try dsimp only
  repeat' with_reducible first
    | apply goesOn.refl | assumption | apply keeps_ite | apply keeps_ite1 | apply keeps_ite2 | apply State.stampOut_on
    | apply out_next | apply out_fault | apply out_ite | (apply keeps_fst; case e => assumption)
    | (apply keeps_snd; case e => assumption) | decide | split

theorem edgeOut_on {kp : List Part} {b0 : State} {ch : Nat} {r : State × Option Stamp} (hk : goesOn kp b0 r.1) (hq : ∀ p ∈ [.stitch], p ∈ kp) :
    Out.keeps kp b0 (edgeOut ch r) := .after hk ((edgeOut_keeps ch r).mono hq)

theorem execEvtEdge_keeps (ch : Nat) (tick : Nat) (phase : Nat) (fine : Nat) (falling : Bool) (s : State) :
    Out.keeps [.clock, .free, .cmd, .hostMem, .tdc, .gauge, .stitch, .pair, .fw, .mbs, .fence, .events, .stats] s (execEvtEdge ch tick phase fine falling s) := by
  unfold execEvtEdge
  try dsimp only
  repeat' with_reducible first
    | apply goesOn.refl | apply State.advanceTick_on | apply State.eventEdge_on | apply State.plainEdge_on | apply out_fault
    | apply out_ite | apply edgeOut_on | decide

theorem execEvtEdge_on {kp : List Part} {b0 : State} {ch : Nat} {tick : Nat} {phase : Nat} {fine : Nat} {falling : Bool} {s : State} (hk : goesOn kp b0 s) (hq : ∀ p ∈ [.clock, .free, .cmd, .hostMem, .tdc, .gauge, .stitch, .pair, .fw, .mbs, .fence, .events, .stats], p ∈ kp) :
    Out.keeps kp b0 (execEvtEdge ch tick phase fine falling s) := .after hk ((execEvtEdge_keeps ch tick phase fine falling s).mono hq)

theorem execRefEdge_keeps (ch : Nat) (tick : Nat) (phase : Nat) (fine : Nat) (width : Nat) (s : State) :
    Out.keeps [.clock, .free, .cmd, .hostMem, .lanes, .selv, .tdc, .gauge, .ref, .time, .ptp, .stitch, .pair, .fw, .mbs, .fence, .events, .stats] s (execRefEdge ch tick phase fine width s) := by
  unfold execRefEdge
  try dsimp only
  repeat' with_reducible first
    | apply goesOn.refl | apply State.advanceTick_on | apply State.feedClocks_on | apply State.plainEdge_on
    | apply State.refEdge_on | apply State.updMclk_on | apply out_next | apply out_fault | apply out_ite | decide | split
    | apply kset_ref

theorem execRefEdge_on {kp : List Part} {b0 : State} {ch : Nat} {tick : Nat} {phase : Nat} {fine : Nat} {width : Nat} {s : State} (hk : goesOn kp b0 s) (hq : ∀ p ∈ [.clock, .free, .cmd, .hostMem, .lanes, .selv, .tdc, .gauge, .ref, .time, .ptp, .stitch, .pair, .fw, .mbs, .fence, .events, .stats], p ∈ kp) :
    Out.keeps kp b0 (execRefEdge ch tick phase fine width s) := .after hk ((execRefEdge_keeps ch tick phase fine width s).mono hq)

theorem bodyStitchConfigureGroup_keeps (group : Nat) (action : Nat) (mask : BitVec 256) (port : Nat) (s : State) :
    Rep.keeps [.stitch] s (bodyStitchConfigureGroup group action mask port s) := by
  unfold bodyStitchConfigureGroup
  try dsimp only
  repeat' with_reducible first
    | apply goesOn.refl | apply kset_stitch | apply rep_ok | apply rep_ranges | decide

theorem bodyStitchConfigureGroup_on {kp : List Part} {b0 : State} {group : Nat} {action : Nat} {mask : BitVec 256} {port : Nat} {s : State} (hk : goesOn kp b0 s) (hq : ∀ p ∈ [.stitch], p ∈ kp) :
    Rep.keeps kp b0 (bodyStitchConfigureGroup group action mask port s) := .after hk ((bodyStitchConfigureGroup_keeps group action mask port s).mono hq)

theorem bodyStitchConfigureTrigger_keeps (enable : Bool) (seqReset : Bool) (source : Nat) (channel : Nat) (kind : Nat) (target : Nat) (spacing : Nat) (seq : Nat) (s : State) :
    Rep.keeps [.stitch] s (bodyStitchConfigureTrigger enable seqReset source channel kind target spacing seq s) := by
  unfold bodyStitchConfigureTrigger
  try dsimp only
  repeat' with_reducible first
    | apply goesOn.refl | apply kset_stitch | apply rep_ok | apply rep_bad | apply rep_ranges | apply rep_ite | decide

theorem bodyStitchConfigureTrigger_on {kp : List Part} {b0 : State} {enable : Bool} {seqReset : Bool} {source : Nat} {channel : Nat} {kind : Nat} {target : Nat} {spacing : Nat} {seq : Nat} {s : State} (hk : goesOn kp b0 s) (hq : ∀ p ∈ [.stitch], p ∈ kp) :
    Rep.keeps kp b0 (bodyStitchConfigureTrigger enable seqReset source channel kind target spacing seq s) := .after hk ((bodyStitchConfigureTrigger_keeps enable seqReset source channel kind target spacing seq s).mono hq)

theorem bodyStitchConfigureBroadcast_keeps (chan : Nat) (phaseTarget : Nat) (setInterval : Nat) (bcnTarget : Nat) (bcnInterval : Nat) (s : State) :
    Rep.keeps [.stitch] s (bodyStitchConfigureBroadcast chan phaseTarget setInterval bcnTarget bcnInterval s) := by
  unfold bodyStitchConfigureBroadcast
  try dsimp only
  repeat' with_reducible first
    | apply goesOn.refl | apply State.updMc_on | apply rep_ok | apply rep_bad | apply rep_ranges | apply rep_ite | decide

theorem bodyStitchConfigureBroadcast_on {kp : List Part} {b0 : State} {chan : Nat} {phaseTarget : Nat} {setInterval : Nat} {bcnTarget : Nat} {bcnInterval : Nat} {s : State} (hk : goesOn kp b0 s) (hq : ∀ p ∈ [.stitch], p ∈ kp) :
    Rep.keeps kp b0 (bodyStitchConfigureBroadcast chan phaseTarget setInterval bcnTarget bcnInterval s) := .after hk ((bodyStitchConfigureBroadcast_keeps chan phaseTarget setInterval bcnTarget bcnInterval s).mono hq)

theorem bodyStitchConfigurePort_keeps (compensate : Bool) (rxLog : Bool) (port : Nat) (relayTrig : Nat) (relayTimed : Nat) (relayUser : Nat) (errThr : Nat) (s : State) :
    Rep.keeps [.stitch] s (bodyStitchConfigurePort compensate rxLog port relayTrig relayTimed relayUser errThr s) := by
  unfold bodyStitchConfigurePort
  try dsimp only
  repeat' with_reducible first
    | apply goesOn.refl | apply State.updSt_on | apply rep_ok | apply rep_bad | apply rep_ranges | apply rep_ite | decide

theorem bodyStitchConfigurePort_on {kp : List Part} {b0 : State} {compensate : Bool} {rxLog : Bool} {port : Nat} {relayTrig : Nat} {relayTimed : Nat} {relayUser : Nat} {errThr : Nat} {s : State} (hk : goesOn kp b0 s) (hq : ∀ p ∈ [.stitch], p ∈ kp) :
    Rep.keeps kp b0 (bodyStitchConfigurePort compensate rxLog port relayTrig relayTimed relayUser errThr s) := .after hk ((bodyStitchConfigurePort_keeps compensate rxLog port relayTrig relayTimed relayUser errThr s).mono hq)

theorem bodyStitchSend_keeps (src : CmdSrc) (type : Nat) (target : Nat) (payload : Nat) (s : State) :
    Rep.keeps [.stitch, .fence, .events] s (bodyStitchSend src type target payload s) := by
  unfold bodyStitchSend
  try dsimp only
  repeat' with_reducible first
    | apply goesOn.refl | apply State.stitchQueue_on | apply kset_stitch | apply rep_ok | apply rep_fail | apply rep_later
    | apply rep_ranges | apply rep_ite | decide

theorem bodyStitchSend_on {kp : List Part} {b0 : State} {src : CmdSrc} {type : Nat} {target : Nat} {payload : Nat} {s : State} (hk : goesOn kp b0 s) (hq : ∀ p ∈ [.stitch, .fence, .events], p ∈ kp) :
    Rep.keeps kp b0 (bodyStitchSend src type target payload s) := .after hk ((bodyStitchSend_keeps src type target payload s).mono hq)

theorem execStitchSend_keeps (src : CmdSrc) (type : Nat) (target : Nat) (payload : Nat) (s : State) :
    Out.keeps [.cmd, .hostMem, .glob, .stitch, .pair, .fw, .mbs, .fence, .events] s (execStitchSend src type target payload s) := by
  unfold execStitchSend
  try dsimp only
  repeat' first
    | with_reducible apply goesOn.refl | with_reducible apply out_next
    | (with_reducible apply keeps_runCmd; rotate_left 1; intro y) | with_reducible apply bodyStitchSend_on | with_reducible decide

theorem execStitchSend_on {kp : List Part} {b0 : State} {src : CmdSrc} {type : Nat} {target : Nat} {payload : Nat} {s : State} (hk : goesOn kp b0 s) (hq : ∀ p ∈ [.cmd, .hostMem, .glob, .stitch, .pair, .fw, .mbs, .fence, .events], p ∈ kp) :
    Out.keeps kp b0 (execStitchSend src type target payload s) := .after hk ((execStitchSend_keeps src type target payload s).mono hq)

theorem bodyStitchSendTimed_keeps (target : Nat) (code : Nat) (e : KTime) (lead : Nat) (r : Nat) (s : State) :
    Rep.keeps [.stitch, .fence, .events] s (bodyStitchSendTimed target code e lead r s) := by
  unfold bodyStitchSendTimed
  try dsimp only
  repeat' with_reducible first
    | apply goesOn.refl | apply keeps_ite | apply State.timedReady_on | apply kset_stitch | apply rep_ok | apply rep_fail
    | apply rep_ranges | apply rep_ite | decide

theorem bodyStitchSendTimed_on {kp : List Part} {b0 : State} {target : Nat} {code : Nat} {e : KTime} {lead : Nat} {r : Nat} {s : State} (hk : goesOn kp b0 s) (hq : ∀ p ∈ [.stitch, .fence, .events], p ∈ kp) :
    Rep.keeps kp b0 (bodyStitchSendTimed target code e lead r s) := .after hk ((bodyStitchSendTimed_keeps target code e lead r s).mono hq)

theorem bodyStitchCancelTimed_keeps (handle : Nat) (s : State) :
    Rep.keeps [.stitch] s (bodyStitchCancelTimed handle s) := by
  unfold bodyStitchCancelTimed
  try dsimp only
  repeat' with_reducible first
    | apply goesOn.refl | apply kset_stitch | apply rep_ok | apply rep_bad | apply rep_done | apply rep_ite | decide | split

theorem bodyStitchCancelTimed_on {kp : List Part} {b0 : State} {handle : Nat} {s : State} (hk : goesOn kp b0 s) (hq : ∀ p ∈ [.stitch], p ∈ kp) :
    Rep.keeps kp b0 (bodyStitchCancelTimed handle s) := .after hk ((bodyStitchCancelTimed_keeps handle s).mono hq)

theorem bodyStitchGetPort_keeps (clear : Bool) (port : Nat) (s : State) :
    Rep.keeps [.stitch] s (bodyStitchGetPort clear port s) := by
  unfold bodyStitchGetPort
  try dsimp only
  repeat' with_reducible first
    | apply goesOn.refl | apply keeps_ite | apply State.updSt_on | apply rep_ok | apply rep_bad | apply rep_ranges | apply rep_ite
    | decide

theorem bodyStitchGetPort_on {kp : List Part} {b0 : State} {clear : Bool} {port : Nat} {s : State} (hk : goesOn kp b0 s) (hq : ∀ p ∈ [.stitch], p ∈ kp) :
    Rep.keeps kp b0 (bodyStitchGetPort clear port s) := .after hk ((bodyStitchGetPort_keeps clear port s).mono hq)

theorem bodyStitchGetSequencer_keeps (clear : Bool) (s : State) :
    Rep.keeps [.stitch] s (bodyStitchGetSequencer clear s) := by
  unfold bodyStitchGetSequencer
  try dsimp only
  repeat' with_reducible first
    | apply goesOn.refl | apply keeps_ite | apply kset_stitch | apply rep_ok | decide

theorem bodyStitchGetSequencer_on {kp : List Part} {b0 : State} {clear : Bool} {s : State} (hk : goesOn kp b0 s) (hq : ∀ p ∈ [.stitch], p ∈ kp) :
    Rep.keeps kp b0 (bodyStitchGetSequencer clear s) := .after hk ((bodyStitchGetSequencer_keeps clear s).mono hq)

theorem execStitchConfigureGroup_keeps (src : CmdSrc) (group : Nat) (action : Nat) (mask : BitVec 256) (port : Nat) (s : State) :
    Out.keeps [.cmd, .hostMem, .glob, .stitch, .pair, .fw, .mbs, .fence, .events] s (execStitchConfigureGroup src group action mask port s) := by
  unfold execStitchConfigureGroup
  try dsimp only
  repeat' first
    | with_reducible apply goesOn.refl | with_reducible apply out_next
    | (with_reducible apply keeps_runCmd; rotate_left 1; intro y) | with_reducible apply bodyStitchConfigureGroup_on
    | with_reducible decide

theorem execStitchConfigureGroup_on {kp : List Part} {b0 : State} {src : CmdSrc} {group : Nat} {action : Nat} {mask : BitVec 256} {port : Nat} {s : State} (hk : goesOn kp b0 s) (hq : ∀ p ∈ [.cmd, .hostMem, .glob, .stitch, .pair, .fw, .mbs, .fence, .events], p ∈ kp) :
    Out.keeps kp b0 (execStitchConfigureGroup src group action mask port s) := .after hk ((execStitchConfigureGroup_keeps src group action mask port s).mono hq)

theorem execStitchConfigureTrigger_keeps (src : CmdSrc) (enable : Bool) (seqReset : Bool) (source : Nat) (channel : Nat) (kind : Nat) (target : Nat) (spacing : Nat) (seq : Nat) (s : State) :
    Out.keeps [.cmd, .hostMem, .glob, .stitch, .pair, .fw, .mbs, .fence, .events] s (execStitchConfigureTrigger src enable seqReset source channel kind target spacing seq s) := by
  unfold execStitchConfigureTrigger
  try dsimp only
  repeat' first
    | with_reducible apply goesOn.refl | with_reducible apply out_next
    | (with_reducible apply keeps_runCmd; rotate_left 1; intro y) | with_reducible apply bodyStitchConfigureTrigger_on
    | with_reducible decide

theorem execStitchConfigureTrigger_on {kp : List Part} {b0 : State} {src : CmdSrc} {enable : Bool} {seqReset : Bool} {source : Nat} {channel : Nat} {kind : Nat} {target : Nat} {spacing : Nat} {seq : Nat} {s : State} (hk : goesOn kp b0 s) (hq : ∀ p ∈ [.cmd, .hostMem, .glob, .stitch, .pair, .fw, .mbs, .fence, .events], p ∈ kp) :
    Out.keeps kp b0 (execStitchConfigureTrigger src enable seqReset source channel kind target spacing seq s) := .after hk ((execStitchConfigureTrigger_keeps src enable seqReset source channel kind target spacing seq s).mono hq)

theorem execStitchConfigureBroadcast_keeps (src : CmdSrc) (chan : Nat) (phaseTarget : Nat) (setInterval : Nat) (bcnTarget : Nat) (bcnInterval : Nat) (s : State) :
    Out.keeps [.cmd, .hostMem, .glob, .stitch, .pair, .fw, .mbs, .fence, .events] s (execStitchConfigureBroadcast src chan phaseTarget setInterval bcnTarget bcnInterval s) := by
  unfold execStitchConfigureBroadcast
  try dsimp only
  repeat' first
    | with_reducible apply goesOn.refl | with_reducible apply out_next
    | (with_reducible apply keeps_runCmd; rotate_left 1; intro y) | with_reducible apply bodyStitchConfigureBroadcast_on
    | with_reducible decide

theorem execStitchConfigureBroadcast_on {kp : List Part} {b0 : State} {src : CmdSrc} {chan : Nat} {phaseTarget : Nat} {setInterval : Nat} {bcnTarget : Nat} {bcnInterval : Nat} {s : State} (hk : goesOn kp b0 s) (hq : ∀ p ∈ [.cmd, .hostMem, .glob, .stitch, .pair, .fw, .mbs, .fence, .events], p ∈ kp) :
    Out.keeps kp b0 (execStitchConfigureBroadcast src chan phaseTarget setInterval bcnTarget bcnInterval s) := .after hk ((execStitchConfigureBroadcast_keeps src chan phaseTarget setInterval bcnTarget bcnInterval s).mono hq)

theorem execStitchConfigurePort_keeps (src : CmdSrc) (compensate : Bool) (rxLog : Bool) (port : Nat) (relayTrig : Nat) (relayTimed : Nat) (relayUser : Nat) (errThr : Nat) (s : State) :
    Out.keeps [.cmd, .hostMem, .glob, .stitch, .pair, .fw, .mbs, .fence, .events] s (execStitchConfigurePort src compensate rxLog port relayTrig relayTimed relayUser errThr s) := by
  unfold execStitchConfigurePort
  try dsimp only
  repeat' first
    | with_reducible apply goesOn.refl | with_reducible apply out_next
    | (with_reducible apply keeps_runCmd; rotate_left 1; intro y) | with_reducible apply bodyStitchConfigurePort_on
    | with_reducible decide

theorem execStitchConfigurePort_on {kp : List Part} {b0 : State} {src : CmdSrc} {compensate : Bool} {rxLog : Bool} {port : Nat} {relayTrig : Nat} {relayTimed : Nat} {relayUser : Nat} {errThr : Nat} {s : State} (hk : goesOn kp b0 s) (hq : ∀ p ∈ [.cmd, .hostMem, .glob, .stitch, .pair, .fw, .mbs, .fence, .events], p ∈ kp) :
    Out.keeps kp b0 (execStitchConfigurePort src compensate rxLog port relayTrig relayTimed relayUser errThr s) := .after hk ((execStitchConfigurePort_keeps src compensate rxLog port relayTrig relayTimed relayUser errThr s).mono hq)

theorem execStitchSendTimed_keeps (src : CmdSrc) (target : Nat) (code : Nat) (e : KTime) (lead : Nat) (r : Nat) (s : State) :
    Out.keeps [.cmd, .hostMem, .glob, .stitch, .pair, .fw, .mbs, .fence, .events] s (execStitchSendTimed src target code e lead r s) := by
  unfold execStitchSendTimed
  try dsimp only
  repeat' first
    | with_reducible apply goesOn.refl | with_reducible apply out_next
    | (with_reducible apply keeps_runCmd; rotate_left 1; intro y) | with_reducible apply bodyStitchSendTimed_on
    | with_reducible decide

theorem execStitchSendTimed_on {kp : List Part} {b0 : State} {src : CmdSrc} {target : Nat} {code : Nat} {e : KTime} {lead : Nat} {r : Nat} {s : State} (hk : goesOn kp b0 s) (hq : ∀ p ∈ [.cmd, .hostMem, .glob, .stitch, .pair, .fw, .mbs, .fence, .events], p ∈ kp) :
    Out.keeps kp b0 (execStitchSendTimed src target code e lead r s) := .after hk ((execStitchSendTimed_keeps src target code e lead r s).mono hq)

theorem execStitchCancelTimed_keeps (src : CmdSrc) (handle : Nat) (s : State) :
    Out.keeps [.cmd, .hostMem, .glob, .stitch, .pair, .fw, .mbs, .fence, .events] s (execStitchCancelTimed src handle s) := by
  unfold execStitchCancelTimed
  try dsimp only
  repeat' first
    | with_reducible apply goesOn.refl | with_reducible apply out_next
    | (with_reducible apply keeps_runCmd; rotate_left 1; intro y) | with_reducible apply bodyStitchCancelTimed_on
    | with_reducible decide

theorem execStitchCancelTimed_on {kp : List Part} {b0 : State} {src : CmdSrc} {handle : Nat} {s : State} (hk : goesOn kp b0 s) (hq : ∀ p ∈ [.cmd, .hostMem, .glob, .stitch, .pair, .fw, .mbs, .fence, .events], p ∈ kp) :
    Out.keeps kp b0 (execStitchCancelTimed src handle s) := .after hk ((execStitchCancelTimed_keeps src handle s).mono hq)

theorem execStitchGetPort_keeps (src : CmdSrc) (clear : Bool) (port : Nat) (s : State) :
    Out.keeps [.cmd, .hostMem, .glob, .stitch, .pair, .fw, .mbs, .fence, .events] s (execStitchGetPort src clear port s) := by
  unfold execStitchGetPort
  try dsimp only
  repeat' first
    | with_reducible apply goesOn.refl | with_reducible apply out_next
    | (with_reducible apply keeps_runCmd; rotate_left 1; intro y) | with_reducible apply bodyStitchGetPort_on
    | with_reducible decide

theorem execStitchGetPort_on {kp : List Part} {b0 : State} {src : CmdSrc} {clear : Bool} {port : Nat} {s : State} (hk : goesOn kp b0 s) (hq : ∀ p ∈ [.cmd, .hostMem, .glob, .stitch, .pair, .fw, .mbs, .fence, .events], p ∈ kp) :
    Out.keeps kp b0 (execStitchGetPort src clear port s) := .after hk ((execStitchGetPort_keeps src clear port s).mono hq)

theorem execStitchGetSequencer_keeps (src : CmdSrc) (clear : Bool) (s : State) :
    Out.keeps [.cmd, .hostMem, .glob, .stitch, .pair, .fw, .mbs, .fence, .events] s (execStitchGetSequencer src clear s) := by
  unfold execStitchGetSequencer
  try dsimp only
  repeat' first
    | with_reducible apply goesOn.refl | with_reducible apply out_next
    | (with_reducible apply keeps_runCmd; rotate_left 1; intro y) | with_reducible apply bodyStitchGetSequencer_on
    | with_reducible decide

theorem execStitchGetSequencer_on {kp : List Part} {b0 : State} {src : CmdSrc} {clear : Bool} {s : State} (hk : goesOn kp b0 s) (hq : ∀ p ∈ [.cmd, .hostMem, .glob, .stitch, .pair, .fw, .mbs, .fence, .events], p ∈ kp) :
    Out.keeps kp b0 (execStitchGetSequencer src clear s) := .after hk ((execStitchGetSequencer_keeps src clear s).mono hq)

end Sys2Proof.Machine
end

