-- ==== Sys2Proof/Laws/Keeps/Ptp.lean ====
section
/-!
SUPPORT. Which parts of the state each operation of Ptp.lean touches.
-/
namespace Sys2Proof.Machine

theorem State.ptpCount_keeps (s : State) (p : Nat) (k : Nat) :
    goesOn [.ptp] s (State.ptpCount s p k) := by
  unfold State.ptpCount
  try dsimp only
  repeat' with_reducible first
    | apply goesOn.refl | apply State.updPtp_on | decide

theorem State.ptpCount_on {kp : List Part} {b0 : State} {s : State} {p : Nat} {k : Nat} (hk : goesOn kp b0 s) (hq : ∀ p ∈ [.ptp], p ∈ kp) :
    goesOn kp b0 (State.ptpCount s p k) := hk.trans ((State.ptpCount_keeps s p k).mono hq)

theorem State.ptpEnter_keeps (s : State) (p : Nat) (st : PtpState) :
    goesOn [.ptp, .fence, .events] s (State.ptpEnter s p st) := by
  unfold State.ptpEnter
  try dsimp only
  repeat' with_reducible first
    | apply goesOn.refl | apply keeps_ite | apply State.raise_on | apply State.updPtp_on | decide

theorem State.ptpEnter_on {kp : List Part} {b0 : State} {s : State} {p : Nat} {st : PtpState} (hk : goesOn kp b0 s) (hq : ∀ p ∈ [.ptp, .fence, .events], p ∈ kp) :
    goesOn kp b0 (State.ptpEnter s p st) := hk.trans ((State.ptpEnter_keeps s p st).mono hq)

theorem State.dropExchanges_keeps (s : State) (p : Nat) :
    goesOn [.ptp] s (State.dropExchanges s p) := by
  unfold State.dropExchanges
  try dsimp only
  repeat' with_reducible first
    | apply goesOn.refl | apply State.updPtp_on | decide

theorem State.dropExchanges_on {kp : List Part} {b0 : State} {s : State} {p : Nat} (hk : goesOn kp b0 s) (hq : ∀ p ∈ [.ptp], p ∈ kp) :
    goesOn kp b0 (State.dropExchanges s p) := hk.trans ((State.dropExchanges_keeps s p).mono hq)

theorem State.toMaster_keeps (s : State) (p : Nat) (wait : Nat) :
    goesOn [.ptp, .fence, .events] s (State.toMaster s p wait) := by
  unfold State.toMaster
  try dsimp only
  repeat' with_reducible first
    | apply goesOn.refl | apply keeps_ite | apply State.ptpEnter_on | apply State.updPtp_on | decide

theorem State.toMaster_on {kp : List Part} {b0 : State} {s : State} {p : Nat} {wait : Nat} (hk : goesOn kp b0 s) (hq : ∀ p ∈ [.ptp, .fence, .events], p ∈ kp) :
    goesOn kp b0 (State.toMaster s p wait) := hk.trans ((State.toMaster_keeps s p wait).mono hq)

theorem State.decidePort_keeps (s : State) (n : Nat) (best : Option PtpSource) (p : Nat) :
    goesOn [.ptp, .fence, .events] s (State.decidePort s n best p) := by
  unfold State.decidePort
  try dsimp only
  repeat' with_reducible first
    | apply goesOn.refl | apply keeps_ite | apply State.ptpEnter_on | apply State.toMaster_on | decide | split

theorem State.decidePort_on {kp : List Part} {b0 : State} {s : State} {n : Nat} {best : Option PtpSource} {p : Nat} (hk : goesOn kp b0 s) (hq : ∀ p ∈ [.ptp, .fence, .events], p ∈ kp) :
    goesOn kp b0 (State.decidePort s n best p) := hk.trans ((State.decidePort_keeps s n best p).mono hq)

theorem State.startReceipt_keeps (s : State) (n : Nat) :
    goesOn [.ptp] s (State.startReceipt s n) := by
  unfold State.startReceipt
  try dsimp only
  repeat' with_reducible first
    | apply goesOn.refl | apply State.updInst_on | decide | split

theorem State.startReceipt_on {kp : List Part} {b0 : State} {s : State} {n : Nat} (hk : goesOn kp b0 s) (hq : ∀ p ∈ [.ptp], p ∈ kp) :
    goesOn kp b0 (State.startReceipt s n) := hk.trans ((State.startReceipt_keeps s n).mono hq)

theorem State.bmca_keeps (s : State) (n : Nat) :
    goesOn [.ptp, .fence, .events] s (State.bmca s n) := by
  unfold State.bmca
  try dsimp only
  repeat' first
    | with_reducible apply goesOn.refl | with_reducible assumption | with_reducible apply keeps_ite
    | (with_reducible apply keeps_foldl; rotate_left 1; intro y a hy) | with_reducible apply State.decidePort_on
    | with_reducible apply State.dropExchanges_on | with_reducible apply State.raise_on
    | with_reducible apply State.startReceipt_on | with_reducible apply State.updInst_on | with_reducible decide

theorem State.bmca_on {kp : List Part} {b0 : State} {s : State} {n : Nat} (hk : goesOn kp b0 s) (hq : ∀ p ∈ [.ptp, .fence, .events], p ∈ kp) :
    goesOn kp b0 (State.bmca s n) := hk.trans ((State.bmca_keeps s n).mono hq)

theorem State.masterLoss_keeps (s : State) (n : Nat) (cause : Nat) :
    goesOn [.ref, .fence, .events] s (State.masterLoss s n cause) := by
  unfold State.masterLoss
  try dsimp only
  repeat' with_reducible first
    | apply goesOn.refl | apply State.raise_on | apply State.updSlot_on | decide

theorem State.masterLoss_on {kp : List Part} {b0 : State} {s : State} {n : Nat} {cause : Nat} (hk : goesOn kp b0 s) (hq : ∀ p ∈ [.ref, .fence, .events], p ∈ kp) :
    goesOn kp b0 (State.masterLoss s n cause) := hk.trans ((State.masterLoss_keeps s n cause).mono hq)

theorem State.levelGone_keeps (s : State) (n : Nat) :
    goesOn [.ref, .fence, .events] s (State.levelGone s n) := by
  unfold State.levelGone
  try dsimp only
  repeat' with_reducible first
    | apply goesOn.refl | assumption | apply keeps_ite | apply State.slotLevel_on | apply State.updSlot_on | decide | split

theorem State.levelGone_on {kp : List Part} {b0 : State} {s : State} {n : Nat} (hk : goesOn kp b0 s) (hq : ∀ p ∈ [.ref, .fence, .events], p ∈ kp) :
    goesOn kp b0 (State.levelGone s n) := hk.trans ((State.levelGone_keeps s n).mono hq)

theorem State.announceLost_keeps (s : State) (n : Nat) :
    goesOn [.ref, .ptp, .fence, .events] s (State.announceLost s n) := by
  unfold State.announceLost
  try dsimp only
  repeat' with_reducible first
    | apply goesOn.refl | assumption | apply keeps_ite | apply State.bmca_on | apply State.levelGone_on
    | apply State.masterLoss_on | apply State.ptpEnter_on | apply State.updInst_on | apply State.updPtp_on | decide | split

theorem State.announceLost_on {kp : List Part} {b0 : State} {s : State} {n : Nat} (hk : goesOn kp b0 s) (hq : ∀ p ∈ [.ref, .ptp, .fence, .events], p ∈ kp) :
    goesOn kp b0 (State.announceLost s n) := hk.trans ((State.announceLost_keeps s n).mono hq)

theorem State.ptpPortDown_keeps (s : State) (p : Nat) :
    goesOn [.ref, .ptp, .fence, .events] s (State.ptpPortDown s p) := by
  unfold State.ptpPortDown
  try dsimp only
  repeat' with_reducible first
    | apply goesOn.refl | apply keeps_ite | apply State.announceLost_on | apply State.bmca_on | apply State.dropExchanges_on
    | apply State.ptpEnter_on | apply State.updPtp_on | decide | split

theorem State.ptpPortDown_on {kp : List Part} {b0 : State} {s : State} {p : Nat} (hk : goesOn kp b0 s) (hq : ∀ p ∈ [.ref, .ptp, .fence, .events], p ∈ kp) :
    goesOn kp b0 (State.ptpPortDown s p) := hk.trans ((State.ptpPortDown_keeps s p).mono hq)

theorem State.ptpPortUp_keeps (s : State) (p : Nat) :
    goesOn [.ptp, .fence, .events] s (State.ptpPortUp s p) := by
  unfold State.ptpPortUp
  try dsimp only
  repeat' with_reducible first
    | apply goesOn.refl | apply State.dropExchanges_on | apply State.ptpEnter_on | decide | split

theorem State.ptpPortUp_on {kp : List Part} {b0 : State} {s : State} {p : Nat} (hk : goesOn kp b0 s) (hq : ∀ p ∈ [.ptp, .fence, .events], p ∈ kp) :
    goesOn kp b0 (State.ptpPortUp s p) := hk.trans ((State.ptpPortUp_keeps s p).mono hq)

theorem State.ptpFollow_keeps (old : State) (s : State) :
    goesOn [.ref, .ptp, .fence, .events] s (State.ptpFollow old s) := by
  unfold State.ptpFollow
  try dsimp only
  repeat' first
    | with_reducible apply goesOn.refl | with_reducible assumption | with_reducible apply keeps_ite
    | (with_reducible apply keeps_foldl; rotate_left 1; intro y a hy) | with_reducible apply State.ptpPortDown_on
    | with_reducible apply State.ptpPortUp_on | with_reducible decide

theorem State.ptpFollow_on {kp : List Part} {b0 : State} {old : State} {s : State} (hk : goesOn kp b0 s) (hq : ∀ p ∈ [.ref, .ptp, .fence, .events], p ∈ kp) :
    goesOn kp b0 (State.ptpFollow old s) := hk.trans ((State.ptpFollow_keeps old s).mono hq)

theorem State.takeRtt_keeps (s : State) (n : Nat) (p : Nat) (rtt : Int) :
    goesOn [.ptp, .fence, .events] s (State.takeRtt s n p rtt) := by
  unfold State.takeRtt
  try dsimp only
  repeat' with_reducible first
    | apply goesOn.refl | apply keeps_ite | apply State.ptpCount_on | apply State.raise_on | apply State.updAsym_on
    | apply State.updInst_on | apply State.updPtp_on | decide

theorem State.takeRtt_on {kp : List Part} {b0 : State} {s : State} {n : Nat} {p : Nat} {rtt : Int} (hk : goesOn kp b0 s) (hq : ∀ p ∈ [.ptp, .fence, .events], p ∈ kp) :
    goesOn kp b0 (State.takeRtt s n p rtt) := hk.trans ((State.takeRtt_keeps s n p rtt).mono hq)

theorem State.takeSync_keeps (s : State) (n : Nat) (p : Nat) (y : PtpSync) :
    goesOn [.free, .cmd, .hostMem, .lanes, .selv, .tdc, .ref, .time, .ptp, .pair, .fw, .mbs, .fence, .events] s (State.takeSync s n p y) := by
  unfold State.takeSync
  try dsimp only
  repeat' with_reducible first
    | apply goesOn.refl | apply keeps_ite | apply State.ptpCount_on | apply State.ptpEnter_on | apply State.raise_on
    | apply State.servoSample_on | apply State.updInst_on | apply State.updSlot_on | decide

theorem State.takeSync_on {kp : List Part} {b0 : State} {s : State} {n : Nat} {p : Nat} {y : PtpSync} (hk : goesOn kp b0 s) (hq : ∀ p ∈ [.free, .cmd, .hostMem, .lanes, .selv, .tdc, .ref, .time, .ptp, .pair, .fw, .mbs, .fence, .events], p ∈ kp) :
    goesOn kp b0 (State.takeSync s n p y) := hk.trans ((State.takeSync_keeps s n p y).mono hq)

theorem State.announceRx_keeps (s : State) (n : Nat) (p : Nat) (m : PtpRx) :
    goesOn [.ref, .ptp, .fence, .events] s (State.announceRx s n p m) := by
  unfold State.announceRx
  try dsimp only
  repeat' with_reducible first
    | apply goesOn.refl | apply keeps_ite | apply State.bmca_on | apply State.receivedLevel_on | apply State.updInst_on
    | apply State.updPtp_on | decide | split

theorem State.announceRx_on {kp : List Part} {b0 : State} {s : State} {n : Nat} {p : Nat} {m : PtpRx} (hk : goesOn kp b0 s) (hq : ∀ p ∈ [.ref, .ptp, .fence, .events], p ∈ kp) :
    goesOn kp b0 (State.announceRx s n p m) := hk.trans ((State.announceRx_keeps s n p m).mono hq)

theorem State.ptpSend_keeps (s : State) (m : PtpMsg) :
    goesOn [.ptp] s (State.ptpSend s m) := by
  unfold State.ptpSend
  try dsimp only
  repeat' with_reducible first
    | apply goesOn.refl | apply kset_ptp | decide

theorem State.ptpSend_on {kp : List Part} {b0 : State} {s : State} {m : PtpMsg} (hk : goesOn kp b0 s) (hq : ∀ p ∈ [.ptp], p ∈ kp) :
    goesOn kp b0 (State.ptpSend s m) := hk.trans ((State.ptpSend_keeps s m).mono hq)

theorem State.delayReqRx_keeps (s : State) (n : Nat) (p : Nat) (m : PtpRx) :
    goesOn [.ptp] s (State.delayReqRx s n p m) := by
  unfold State.delayReqRx
  try dsimp only
  repeat' with_reducible first
    | apply goesOn.refl | apply keeps_ite | apply State.ptpSend_on | decide

theorem State.delayReqRx_on {kp : List Part} {b0 : State} {s : State} {n : Nat} {p : Nat} {m : PtpRx} (hk : goesOn kp b0 s) (hq : ∀ p ∈ [.ptp], p ∈ kp) :
    goesOn kp b0 (State.delayReqRx s n p m) := hk.trans ((State.delayReqRx_keeps s n p m).mono hq)

theorem State.ptpAccepted_keeps (s : State) (n : Nat) (p : Nat) (m : PtpRx) :
    goesOn [.free, .cmd, .hostMem, .lanes, .selv, .tdc, .ref, .time, .ptp, .pair, .fw, .mbs, .fence, .events] s (State.ptpAccepted s n p m) := by
  unfold State.ptpAccepted
  try dsimp only
  repeat' with_reducible first
    | apply goesOn.refl | apply keeps_ite | apply State.announceRx_on | apply State.delayReqRx_on | apply State.ptpCount_on
    | apply State.takeRtt_on | apply State.takeSync_on | apply State.updPtp_on | decide | split

theorem State.ptpAccepted_on {kp : List Part} {b0 : State} {s : State} {n : Nat} {p : Nat} {m : PtpRx} (hk : goesOn kp b0 s) (hq : ∀ p ∈ [.free, .cmd, .hostMem, .lanes, .selv, .tdc, .ref, .time, .ptp, .pair, .fw, .mbs, .fence, .events], p ∈ kp) :
    goesOn kp b0 (State.ptpAccepted s n p m) := hk.trans ((State.ptpAccepted_keeps s n p m).mono hq)

theorem execPtpMessageRx_keeps (port : Nat) (msg : PtpRx) (s : State) :
    Out.keeps [.free, .cmd, .hostMem, .lanes, .selv, .tdc, .ref, .time, .ptp, .pair, .fw, .mbs, .fence, .events] s (execPtpMessageRx port msg s) := by
  unfold execPtpMessageRx
  try dsimp only
  repeat' with_reducible first
    | apply goesOn.refl | apply keeps_ite | apply State.ptpAccepted_on | apply State.ptpCount_on | apply State.updPtp_on
    | apply out_next | apply out_fault | apply out_ite | decide | split

theorem execPtpMessageRx_on {kp : List Part} {b0 : State} {port : Nat} {msg : PtpRx} {s : State} (hk : goesOn kp b0 s) (hq : ∀ p ∈ [.free, .cmd, .hostMem, .lanes, .selv, .tdc, .ref, .time, .ptp, .pair, .fw, .mbs, .fence, .events], p ∈ kp) :
    Out.keeps kp b0 (execPtpMessageRx port msg s) := .after hk ((execPtpMessageRx_keeps port msg s).mono hq)

theorem State.preMasterDone_keeps (s : State) (p : Nat) :
    goesOn [.ptp, .fence, .events] s (State.preMasterDone s p) := by
  unfold State.preMasterDone
  try dsimp only
  repeat' with_reducible first
    | apply goesOn.refl | apply keeps_ite | apply State.ptpEnter_on | decide | split

theorem State.preMasterDone_on {kp : List Part} {b0 : State} {s : State} {p : Nat} (hk : goesOn kp b0 s) (hq : ∀ p ∈ [.ptp, .fence, .events], p ∈ kp) :
    goesOn kp b0 (State.preMasterDone s p) := hk.trans ((State.preMasterDone_keeps s p).mono hq)

theorem State.sentNow_keeps (s : State) (p : Nat) (k : Nat) :
    goesOn [.ptp] s (State.sentNow s p k) := by
  unfold State.sentNow
  try dsimp only
  repeat' with_reducible first
    | apply goesOn.refl | apply State.updPtp_on | decide

theorem State.sentNow_on {kp : List Part} {b0 : State} {s : State} {p : Nat} {k : Nat} (hk : goesOn kp b0 s) (hq : ∀ p ∈ [.ptp], p ∈ kp) :
    goesOn kp b0 (State.sentNow s p k) := hk.trans ((State.sentNow_keeps s p k).mono hq)

theorem execPtpMessageTx_keeps (port : Nat) (kind : PtpType) (tick : Nat) (sub : Nat) (s : State) :
    Out.keeps [.clock, .free, .cmd, .hostMem, .ptp, .pair, .fw, .mbs, .fence, .events, .stats] s (execPtpMessageTx port kind tick sub s) := by
  unfold execPtpMessageTx
  try dsimp only
  repeat' with_reducible first
    | apply goesOn.refl | assumption | apply keeps_ite | apply State.advance_on | apply State.preMasterDone_on
    | apply State.ptpSend_on | apply State.sentNow_on | apply State.takeFree_on | apply State.updPtp_on | apply out_next
    | apply out_fault | apply out_ite | decide | split

theorem execPtpMessageTx_on {kp : List Part} {b0 : State} {port : Nat} {kind : PtpType} {tick : Nat} {sub : Nat} {s : State} (hk : goesOn kp b0 s) (hq : ∀ p ∈ [.clock, .free, .cmd, .hostMem, .ptp, .pair, .fw, .mbs, .fence, .events, .stats], p ∈ kp) :
    Out.keeps kp b0 (execPtpMessageTx port kind tick sub s) := .after hk ((execPtpMessageTx_keeps port kind tick sub s).mono hq)

theorem execAnnounceReceiptTimeout_keeps (inst : Nat) (s : State) :
    Out.keeps [.clock, .free, .cmd, .hostMem, .ref, .ptp, .pair, .fw, .mbs, .fence, .events, .stats] s (execAnnounceReceiptTimeout inst s) := by
  unfold execAnnounceReceiptTimeout
  try dsimp only
  repeat' first
    | with_reducible apply goesOn.refl | with_reducible assumption | with_reducible apply keeps_ite
    | (with_reducible apply keeps_foldl; rotate_left 1; intro y a hy) | with_reducible apply State.advance_on
    | with_reducible apply State.announceLost_on | with_reducible apply State.bmca_on | with_reducible apply State.levelGone_on
    | with_reducible apply State.updInst_on | with_reducible apply out_next | with_reducible apply out_fault
    | with_reducible apply out_ite | with_reducible decide | split

theorem execAnnounceReceiptTimeout_on {kp : List Part} {b0 : State} {inst : Nat} {s : State} (hk : goesOn kp b0 s) (hq : ∀ p ∈ [.clock, .free, .cmd, .hostMem, .ref, .ptp, .pair, .fw, .mbs, .fence, .events, .stats], p ∈ kp) :
    Out.keeps kp b0 (execAnnounceReceiptTimeout inst s) := .after hk ((execAnnounceReceiptTimeout_keeps inst s).mono hq)

theorem execSyncReceiptTimeout_keeps (inst : Nat) (s : State) :
    Out.keeps [.clock, .free, .cmd, .hostMem, .ref, .ptp, .pair, .fw, .mbs, .fence, .events, .stats] s (execSyncReceiptTimeout inst s) := by
  unfold execSyncReceiptTimeout
  try dsimp only
  repeat' with_reducible first
    | apply goesOn.refl | apply State.advance_on | apply State.masterLoss_on | apply State.updInst_on | apply out_next
    | apply out_fault | apply out_ite | decide | split

theorem execSyncReceiptTimeout_on {kp : List Part} {b0 : State} {inst : Nat} {s : State} (hk : goesOn kp b0 s) (hq : ∀ p ∈ [.clock, .free, .cmd, .hostMem, .ref, .ptp, .pair, .fw, .mbs, .fence, .events, .stats], p ∈ kp) :
    Out.keeps kp b0 (execSyncReceiptTimeout inst s) := .after hk ((execSyncReceiptTimeout_keeps inst s).mono hq)

theorem execDelayResponseTimeout_keeps (port : Nat) (s : State) :
    Out.keeps [.clock, .free, .cmd, .hostMem, .ptp, .pair, .fw, .mbs, .fence, .events, .stats] s (execDelayResponseTimeout port s) := by
  unfold execDelayResponseTimeout
  try dsimp only
  repeat' with_reducible first
    | apply goesOn.refl | apply State.advance_on | apply State.updInst_on | apply State.updPtp_on | apply out_next
    | apply out_fault | apply out_ite | decide | split

theorem execDelayResponseTimeout_on {kp : List Part} {b0 : State} {port : Nat} {s : State} (hk : goesOn kp b0 s) (hq : ∀ p ∈ [.clock, .free, .cmd, .hostMem, .ptp, .pair, .fw, .mbs, .fence, .events, .stats], p ∈ kp) :
    Out.keeps kp b0 (execDelayResponseTimeout port s) := .after hk ((execDelayResponseTimeout_keeps port s).mono hq)

theorem execDelayCoastExpiry_keeps (slot : Nat) (s : State) :
    Out.keeps [.clock, .free, .cmd, .hostMem, .lanes, .selv, .tdc, .ref, .ptp, .pair, .fw, .mbs, .fence, .events, .stats] s (execDelayCoastExpiry slot s) := by
  unfold execDelayCoastExpiry
  try dsimp only
  repeat' with_reducible first
    | apply goesOn.refl | assumption | apply keeps_ite | apply State.advance_on | apply State.masterLoss_on
    | apply State.servoSource_on | apply State.updAsym_on | apply State.updInst_on | apply State.updPtp_on
    | apply State.updSelv_on | apply out_next | apply out_fault | apply out_ite | decide | split

theorem execDelayCoastExpiry_on {kp : List Part} {b0 : State} {slot : Nat} {s : State} (hk : goesOn kp b0 s) (hq : ∀ p ∈ [.clock, .free, .cmd, .hostMem, .lanes, .selv, .tdc, .ref, .ptp, .pair, .fw, .mbs, .fence, .events, .stats], p ∈ kp) :
    Out.keeps kp b0 (execDelayCoastExpiry slot s) := .after hk ((execDelayCoastExpiry_keeps slot s).mono hq)

theorem State.servoChoose_keeps (s : State) :
    goesOn [.lanes, .selv, .tdc, .ptp, .fence, .events] s (State.servoChoose s) := by
  unfold State.servoChoose
  try dsimp only
  repeat' with_reducible first
    | apply goesOn.refl | apply State.servoSource_on | decide

theorem State.servoChoose_on {kp : List Part} {b0 : State} {s : State} (hk : goesOn kp b0 s) (hq : ∀ p ∈ [.lanes, .selv, .tdc, .ptp, .fence, .events], p ∈ kp) :
    goesOn kp b0 (State.servoChoose s) := hk.trans ((State.servoChoose_keeps s).mono hq)

theorem State.instEnable_keeps (s : State) (n : Nat) (on : Bool) :
    goesOn [.ptp, .fence, .events] s (State.instEnable s n on) := by
  unfold State.instEnable
  try dsimp only
  repeat' first
    | with_reducible apply goesOn.refl | with_reducible assumption
    | (with_reducible apply keeps_foldl; rotate_left 1; intro y a hy) | with_reducible apply State.dropExchanges_on
    | with_reducible apply State.ptpEnter_on | with_reducible decide

theorem State.instEnable_on {kp : List Part} {b0 : State} {s : State} {n : Nat} {on : Bool} (hk : goesOn kp b0 s) (hq : ∀ p ∈ [.ptp, .fence, .events], p ∈ kp) :
    goesOn kp b0 (State.instEnable s n on) := hk.trans ((State.instEnable_keeps s n on).mono hq)

theorem State.portJoin_keeps (s : State) (p : Nat) :
    goesOn [.ptp, .fence, .events] s (State.portJoin s p) := by
  unfold State.portJoin
  try dsimp only
  repeat' with_reducible first
    | apply goesOn.refl | apply keeps_ite | apply State.dropExchanges_on | apply State.ptpEnter_on | apply State.updInst_on
    | decide | split

theorem State.portJoin_on {kp : List Part} {b0 : State} {s : State} {p : Nat} (hk : goesOn kp b0 s) (hq : ∀ p ∈ [.ptp, .fence, .events], p ∈ kp) :
    goesOn kp b0 (State.portJoin s p) := hk.trans ((State.portJoin_keeps s p).mono hq)

theorem State.applyPtp_keeps (s : State) (c : Instr) :
    goesOn [.ref, .ptp, .fence, .events] s (State.applyPtp s c) := by
  unfold State.applyPtp
  try dsimp only
  repeat' with_reducible first
    | apply goesOn.refl | apply keeps_ite | apply State.announceLost_on | apply State.bmca_on | apply State.instEnable_on
    | apply State.masterLoss_on | apply State.portJoin_on | apply State.updAsym_on | apply State.updInst_on
    | apply State.updPtp_on | apply State.updServo_on | decide | split | apply kset_ptp

theorem State.applyPtp_on {kp : List Part} {b0 : State} {s : State} {c : Instr} (hk : goesOn kp b0 s) (hq : ∀ p ∈ [.ref, .ptp, .fence, .events], p ∈ kp) :
    goesOn kp b0 (State.applyPtp s c) := hk.trans ((State.applyPtp_keeps s c).mono hq)

theorem State.ptpBoundary_keeps (s : State) :
    goesOn [.ref, .ptp, .fence, .events] s (State.ptpBoundary s) := by
  unfold State.ptpBoundary
  try dsimp only
  repeat' first
    | with_reducible apply goesOn.refl | with_reducible assumption
    | (with_reducible apply keeps_foldl; rotate_left 1; intro y a hy) | with_reducible apply State.applyPtp_on
    | with_reducible apply kset_ptp | with_reducible decide

theorem State.ptpBoundary_on {kp : List Part} {b0 : State} {s : State} (hk : goesOn kp b0 s) (hq : ∀ p ∈ [.ref, .ptp, .fence, .events], p ∈ kp) :
    goesOn kp b0 (State.ptpBoundary s) := hk.trans ((State.ptpBoundary_keeps s).mono hq)

theorem State.pendPtp_keeps (s : State) (i : Instr) :
    Rep.keeps [.ptp] s (State.pendPtp s i) := by
  unfold State.pendPtp
  try dsimp only
  repeat' with_reducible first
    | apply goesOn.refl | apply kset_ptp | apply rep_ok | decide

theorem State.pendPtp_on {kp : List Part} {b0 : State} {s : State} {i : Instr} (hk : goesOn kp b0 s) (hq : ∀ p ∈ [.ptp], p ∈ kp) :
    Rep.keeps kp b0 (State.pendPtp s i) := .after hk ((State.pendPtp_keeps s i).mono hq)

theorem bodyPtpConfigureInstance_keeps (enable : Bool) (slaveOnly : Bool) (inst : Nat) (profile : Nat) (domain : Nat) (identity : List Byte) (prio1 : Nat) (prio2 : Nat) (localPrio : Nat) (s : State) :
    Rep.keeps [.ptp] s (bodyPtpConfigureInstance enable slaveOnly inst profile domain identity prio1 prio2 localPrio s) := by
  unfold bodyPtpConfigureInstance
  try dsimp only
  repeat' with_reducible first
    | apply goesOn.refl | apply State.pendPtp_on | apply rep_bad | apply rep_ranges | apply rep_ite | decide

theorem bodyPtpConfigureInstance_on {kp : List Part} {b0 : State} {enable : Bool} {slaveOnly : Bool} {inst : Nat} {profile : Nat} {domain : Nat} {identity : List Byte} {prio1 : Nat} {prio2 : Nat} {localPrio : Nat} {s : State} (hk : goesOn kp b0 s) (hq : ∀ p ∈ [.ptp], p ∈ kp) :
    Rep.keeps kp b0 (bodyPtpConfigureInstance enable slaveOnly inst profile domain identity prio1 prio2 localPrio s) := .after hk ((bodyPtpConfigureInstance_keeps enable slaveOnly inst profile domain identity prio1 prio2 localPrio s).mono hq)

theorem bodyPtpConfigurePort_keeps (masterOnly : Bool) (port : Nat) (inst : Nat) (transport : Nat) (dest : Nat) (addr : Nat) (logSync : Int) (logDelay : Int) (logAnnounce : Int) (annTimeout : Nat) (syncTimeout : Nat) (delayTimeout : Nat) (twoStep : Nat) (localPrio : Nat) (coastLimit : Nat) (maxPath : Nat) (delayOutlier : Nat) (offsetOutlier : Nat) (filterLen : Nat) (s : State) :
    Rep.keeps [.ptp] s (bodyPtpConfigurePort masterOnly port inst transport dest addr logSync logDelay logAnnounce annTimeout syncTimeout delayTimeout twoStep localPrio coastLimit maxPath delayOutlier offsetOutlier filterLen s) := by
  unfold bodyPtpConfigurePort
  try dsimp only
  repeat' with_reducible first
    | apply goesOn.refl | apply State.pendPtp_on | apply rep_bad | apply rep_ranges | apply rep_ite | decide

theorem bodyPtpConfigurePort_on {kp : List Part} {b0 : State} {masterOnly : Bool} {port : Nat} {inst : Nat} {transport : Nat} {dest : Nat} {addr : Nat} {logSync : Int} {logDelay : Int} {logAnnounce : Int} {annTimeout : Nat} {syncTimeout : Nat} {delayTimeout : Nat} {twoStep : Nat} {localPrio : Nat} {coastLimit : Nat} {maxPath : Nat} {delayOutlier : Nat} {offsetOutlier : Nat} {filterLen : Nat} {s : State} (hk : goesOn kp b0 s) (hq : ∀ p ∈ [.ptp], p ∈ kp) :
    Rep.keeps kp b0 (bodyPtpConfigurePort masterOnly port inst transport dest addr logSync logDelay logAnnounce annTimeout syncTimeout delayTimeout twoStep localPrio coastLimit maxPath delayOutlier offsetOutlier filterLen s) := .after hk ((bodyPtpConfigurePort_keeps masterOnly port inst transport dest addr logSync logDelay logAnnounce annTimeout syncTimeout delayTimeout twoStep localPrio coastLimit maxPath delayOutlier offsetOutlier filterLen s).mono hq)

theorem bodyPtpGetInstance_keeps (inst : Nat) (s : State) :
    Rep.keeps [] s (bodyPtpGetInstance inst s) := by
  unfold bodyPtpGetInstance
  try dsimp only
  repeat' with_reducible first
    | apply goesOn.refl | apply rep_ok | apply rep_ranges

theorem bodyPtpGetInstance_on {kp : List Part} {b0 : State} {inst : Nat} {s : State} (hk : goesOn kp b0 s) (hq : ∀ p ∈ [], p ∈ kp) :
    Rep.keeps kp b0 (bodyPtpGetInstance inst s) := .after hk ((bodyPtpGetInstance_keeps inst s).mono hq)

theorem bodyPtpGetPort_keeps (clear : Bool) (port : Nat) (s : State) :
    Rep.keeps [.ptp] s (bodyPtpGetPort clear port s) := by
  unfold bodyPtpGetPort
  try dsimp only
  repeat' with_reducible first
    | apply goesOn.refl | apply keeps_ite | apply State.updPtp_on | apply rep_ok | apply rep_ranges | decide

theorem bodyPtpGetPort_on {kp : List Part} {b0 : State} {clear : Bool} {port : Nat} {s : State} (hk : goesOn kp b0 s) (hq : ∀ p ∈ [.ptp], p ∈ kp) :
    Rep.keeps kp b0 (bodyPtpGetPort clear port s) := .after hk ((bodyPtpGetPort_keeps clear port s).mono hq)

theorem bodyPtpConfigureTc_keeps (mode : Nat) (domains : BitVec 256) (s : State) :
    Rep.keeps [.ptp] s (bodyPtpConfigureTc mode domains s) := by
  unfold bodyPtpConfigureTc
  try dsimp only
  repeat' with_reducible first
    | apply goesOn.refl | apply State.pendPtp_on | apply rep_ranges | decide

theorem bodyPtpConfigureTc_on {kp : List Part} {b0 : State} {mode : Nat} {domains : BitVec 256} {s : State} (hk : goesOn kp b0 s) (hq : ∀ p ∈ [.ptp], p ∈ kp) :
    Rep.keeps kp b0 (bodyPtpConfigureTc mode domains s) := .after hk ((bodyPtpConfigureTc_keeps mode domains s).mono hq)

theorem bodyAsymConfigure_keeps (port : Nat) (mode : Nat) (c : Int) (alpha : Int) (partner : Nat) (lambdaOut : Nat) (lambdaIn : Nat) (k : Int) (avg : Nat) (qLimit : Nat) (coast : Nat) (agree : Nat) (s : State) :
    Rep.keeps [.ptp] s (bodyAsymConfigure port mode c alpha partner lambdaOut lambdaIn k avg qLimit coast agree s) := by
  unfold bodyAsymConfigure
  try dsimp only
  repeat' with_reducible first
    | apply goesOn.refl | apply State.pendPtp_on | apply rep_bad | apply rep_ranges | apply rep_ite | decide

theorem bodyAsymConfigure_on {kp : List Part} {b0 : State} {port : Nat} {mode : Nat} {c : Int} {alpha : Int} {partner : Nat} {lambdaOut : Nat} {lambdaIn : Nat} {k : Int} {avg : Nat} {qLimit : Nat} {coast : Nat} {agree : Nat} {s : State} (hk : goesOn kp b0 s) (hq : ∀ p ∈ [.ptp], p ∈ kp) :
    Rep.keeps kp b0 (bodyAsymConfigure port mode c alpha partner lambdaOut lambdaIn k avg qLimit coast agree s) := .after hk ((bodyAsymConfigure_keeps port mode c alpha partner lambdaOut lambdaIn k avg qLimit coast agree s).mono hq)

theorem bodyAsymGet_keeps (port : Nat) (s : State) :
    Rep.keeps [] s (bodyAsymGet port s) := by
  unfold bodyAsymGet
  try dsimp only
  repeat' with_reducible first
    | apply goesOn.refl | apply rep_ok | apply rep_ranges

theorem bodyAsymGet_on {kp : List Part} {b0 : State} {port : Nat} {s : State} (hk : goesOn kp b0 s) (hq : ∀ p ∈ [], p ∈ kp) :
    Rep.keeps kp b0 (bodyAsymGet port s) := .after hk ((bodyAsymGet_keeps port s).mono hq)

theorem execPtpConfigureInstance_keeps (src : CmdSrc) (enable : Bool) (slaveOnly : Bool) (inst : Nat) (profile : Nat) (domain : Nat) (identity : List Byte) (prio1 : Nat) (prio2 : Nat) (localPrio : Nat) (s : State) :
    Out.keeps [.cmd, .hostMem, .glob, .ptp, .pair, .fw, .mbs, .fence, .events] s (execPtpConfigureInstance src enable slaveOnly inst profile domain identity prio1 prio2 localPrio s) := by
  unfold execPtpConfigureInstance
  try dsimp only
  repeat' first
    | with_reducible apply goesOn.refl | with_reducible apply out_next
    | (with_reducible apply keeps_runCmd; rotate_left 1; intro y) | with_reducible apply bodyPtpConfigureInstance_on
    | with_reducible decide

theorem execPtpConfigureInstance_on {kp : List Part} {b0 : State} {src : CmdSrc} {enable : Bool} {slaveOnly : Bool} {inst : Nat} {profile : Nat} {domain : Nat} {identity : List Byte} {prio1 : Nat} {prio2 : Nat} {localPrio : Nat} {s : State} (hk : goesOn kp b0 s) (hq : ∀ p ∈ [.cmd, .hostMem, .glob, .ptp, .pair, .fw, .mbs, .fence, .events], p ∈ kp) :
    Out.keeps kp b0 (execPtpConfigureInstance src enable slaveOnly inst profile domain identity prio1 prio2 localPrio s) := .after hk ((execPtpConfigureInstance_keeps src enable slaveOnly inst profile domain identity prio1 prio2 localPrio s).mono hq)

theorem execPtpConfigurePort_keeps (src : CmdSrc) (masterOnly : Bool) (port : Nat) (inst : Nat) (transport : Nat) (dest : Nat) (addr : Nat) (logSync : Int) (logDelay : Int) (logAnnounce : Int) (annTimeout : Nat) (syncTimeout : Nat) (delayTimeout : Nat) (twoStep : Nat) (localPrio : Nat) (coastLimit : Nat) (maxPath : Nat) (delayOutlier : Nat) (offsetOutlier : Nat) (filterLen : Nat) (s : State) :
    Out.keeps [.cmd, .hostMem, .glob, .ptp, .pair, .fw, .mbs, .fence, .events] s (execPtpConfigurePort src masterOnly port inst transport dest addr logSync logDelay logAnnounce annTimeout syncTimeout delayTimeout twoStep localPrio coastLimit maxPath delayOutlier offsetOutlier filterLen s) := by
  unfold execPtpConfigurePort
  try dsimp only
  repeat' first
    | with_reducible apply goesOn.refl | with_reducible apply out_next
    | (with_reducible apply keeps_runCmd; rotate_left 1; intro y) | with_reducible apply bodyPtpConfigurePort_on
    | with_reducible decide

theorem execPtpConfigurePort_on {kp : List Part} {b0 : State} {src : CmdSrc} {masterOnly : Bool} {port : Nat} {inst : Nat} {transport : Nat} {dest : Nat} {addr : Nat} {logSync : Int} {logDelay : Int} {logAnnounce : Int} {annTimeout : Nat} {syncTimeout : Nat} {delayTimeout : Nat} {twoStep : Nat} {localPrio : Nat} {coastLimit : Nat} {maxPath : Nat} {delayOutlier : Nat} {offsetOutlier : Nat} {filterLen : Nat} {s : State} (hk : goesOn kp b0 s) (hq : ∀ p ∈ [.cmd, .hostMem, .glob, .ptp, .pair, .fw, .mbs, .fence, .events], p ∈ kp) :
    Out.keeps kp b0 (execPtpConfigurePort src masterOnly port inst transport dest addr logSync logDelay logAnnounce annTimeout syncTimeout delayTimeout twoStep localPrio coastLimit maxPath delayOutlier offsetOutlier filterLen s) := .after hk ((execPtpConfigurePort_keeps src masterOnly port inst transport dest addr logSync logDelay logAnnounce annTimeout syncTimeout delayTimeout twoStep localPrio coastLimit maxPath delayOutlier offsetOutlier filterLen s).mono hq)

theorem execPtpGetInstance_keeps (src : CmdSrc) (inst : Nat) (s : State) :
    Out.keeps [.cmd, .hostMem, .glob, .pair, .fw, .mbs, .fence, .events] s (execPtpGetInstance src inst s) := by
  unfold execPtpGetInstance
  try dsimp only
  repeat' first
    | with_reducible apply goesOn.refl | with_reducible apply out_next
    | (with_reducible apply keeps_runCmd; rotate_left 1; intro y) | with_reducible apply bodyPtpGetInstance_on
    | with_reducible decide

theorem execPtpGetInstance_on {kp : List Part} {b0 : State} {src : CmdSrc} {inst : Nat} {s : State} (hk : goesOn kp b0 s) (hq : ∀ p ∈ [.cmd, .hostMem, .glob, .pair, .fw, .mbs, .fence, .events], p ∈ kp) :
    Out.keeps kp b0 (execPtpGetInstance src inst s) := .after hk ((execPtpGetInstance_keeps src inst s).mono hq)

theorem execPtpGetPort_keeps (src : CmdSrc) (clear : Bool) (port : Nat) (s : State) :
    Out.keeps [.cmd, .hostMem, .glob, .ptp, .pair, .fw, .mbs, .fence, .events] s (execPtpGetPort src clear port s) := by
  unfold execPtpGetPort
  try dsimp only
  repeat' first
    | with_reducible apply goesOn.refl | with_reducible apply out_next
    | (with_reducible apply keeps_runCmd; rotate_left 1; intro y) | with_reducible apply bodyPtpGetPort_on | with_reducible decide

theorem execPtpGetPort_on {kp : List Part} {b0 : State} {src : CmdSrc} {clear : Bool} {port : Nat} {s : State} (hk : goesOn kp b0 s) (hq : ∀ p ∈ [.cmd, .hostMem, .glob, .ptp, .pair, .fw, .mbs, .fence, .events], p ∈ kp) :
    Out.keeps kp b0 (execPtpGetPort src clear port s) := .after hk ((execPtpGetPort_keeps src clear port s).mono hq)

theorem execPtpConfigureTc_keeps (src : CmdSrc) (mode : Nat) (domains : BitVec 256) (s : State) :
    Out.keeps [.cmd, .hostMem, .glob, .ptp, .pair, .fw, .mbs, .fence, .events] s (execPtpConfigureTc src mode domains s) := by
  unfold execPtpConfigureTc
  try dsimp only
  repeat' first
    | with_reducible apply goesOn.refl | with_reducible apply out_next
    | (with_reducible apply keeps_runCmd; rotate_left 1; intro y) | with_reducible apply bodyPtpConfigureTc_on
    | with_reducible decide

theorem execPtpConfigureTc_on {kp : List Part} {b0 : State} {src : CmdSrc} {mode : Nat} {domains : BitVec 256} {s : State} (hk : goesOn kp b0 s) (hq : ∀ p ∈ [.cmd, .hostMem, .glob, .ptp, .pair, .fw, .mbs, .fence, .events], p ∈ kp) :
    Out.keeps kp b0 (execPtpConfigureTc src mode domains s) := .after hk ((execPtpConfigureTc_keeps src mode domains s).mono hq)

theorem execAsymConfigure_keeps (src : CmdSrc) (port : Nat) (mode : Nat) (c : Int) (alpha : Int) (partner : Nat) (lambdaOut : Nat) (lambdaIn : Nat) (k : Int) (avg : Nat) (qLimit : Nat) (coast : Nat) (agree : Nat) (s : State) :
    Out.keeps [.cmd, .hostMem, .glob, .ptp, .pair, .fw, .mbs, .fence, .events] s (execAsymConfigure src port mode c alpha partner lambdaOut lambdaIn k avg qLimit coast agree s) := by
  unfold execAsymConfigure
  try dsimp only
  repeat' first
    | with_reducible apply goesOn.refl | with_reducible apply out_next
    | (with_reducible apply keeps_runCmd; rotate_left 1; intro y) | with_reducible apply bodyAsymConfigure_on
    | with_reducible decide

theorem execAsymConfigure_on {kp : List Part} {b0 : State} {src : CmdSrc} {port : Nat} {mode : Nat} {c : Int} {alpha : Int} {partner : Nat} {lambdaOut : Nat} {lambdaIn : Nat} {k : Int} {avg : Nat} {qLimit : Nat} {coast : Nat} {agree : Nat} {s : State} (hk : goesOn kp b0 s) (hq : ∀ p ∈ [.cmd, .hostMem, .glob, .ptp, .pair, .fw, .mbs, .fence, .events], p ∈ kp) :
    Out.keeps kp b0 (execAsymConfigure src port mode c alpha partner lambdaOut lambdaIn k avg qLimit coast agree s) := .after hk ((execAsymConfigure_keeps src port mode c alpha partner lambdaOut lambdaIn k avg qLimit coast agree s).mono hq)

theorem execAsymGet_keeps (src : CmdSrc) (port : Nat) (s : State) :
    Out.keeps [.cmd, .hostMem, .glob, .pair, .fw, .mbs, .fence, .events] s (execAsymGet src port s) := by
  unfold execAsymGet
  try dsimp only
  repeat' first
    | with_reducible apply goesOn.refl | with_reducible apply out_next
    | (with_reducible apply keeps_runCmd; rotate_left 1; intro y) | with_reducible apply bodyAsymGet_on | with_reducible decide

theorem execAsymGet_on {kp : List Part} {b0 : State} {src : CmdSrc} {port : Nat} {s : State} (hk : goesOn kp b0 s) (hq : ∀ p ∈ [.cmd, .hostMem, .glob, .pair, .fw, .mbs, .fence, .events], p ∈ kp) :
    Out.keeps kp b0 (execAsymGet src port s) := .after hk ((execAsymGet_keeps src port s).mono hq)

end Sys2Proof.Machine
end

