-- ==== Sys2Proof/Laws/Keeps/Boundary.lean ====
section
/-!
SUPPORT. Which parts of the state each operation of Boundary.lean touches.
-/
namespace Sys2Proof.Machine

theorem State.clockBoundary_keeps (s : State) (commits : List (Nat × Int)) :
    goesOn [.free, .lanes, .selv, .tdc, .stitch, .fence, .events] s (State.clockBoundary s commits) := by
  unfold State.clockBoundary
  try dsimp only
  repeat' first
    | with_reducible apply goesOn.refl | with_reducible assumption
    | (with_reducible apply keeps_foldl; rotate_left 1; intro y a hy) | with_reducible apply State.mcBoundary_on
    | with_reducible apply State.mcCommit_on | with_reducible apply State.mclkBoundary_on | with_reducible decide

theorem State.clockBoundary_on {kp : List Part} {b0 : State} {s : State} {commits : List (Nat × Int)} (hk : goesOn kp b0 s) (hq : ∀ p ∈ [.free, .lanes, .selv, .tdc, .stitch, .fence, .events], p ∈ kp) :
    goesOn kp b0 (State.clockBoundary s commits) := hk.trans ((State.clockBoundary_keeps s commits).mono hq)

theorem State.boundary_keeps (s : State) (t : Nat) :
    goesOn [.free, .cmd, .hostMem, .lanes, .selv, .tdc, .gauge, .ref, .time, .ptp, .stitch, .pair, .fw, .mbs, .fence, .events] s (State.boundary s t) := by
  unfold State.boundary
  try dsimp only
  repeat' with_reducible first
    | apply goesOn.refl | apply State.applyLaneWin_on | apply State.clockBoundary_on | apply State.closeLaneWindows_on
    | apply State.dualBoundary_on | apply State.gaugeCommit_on | apply State.outputsFollow_on | apply State.ptpBoundary_on
    | apply State.refBoundary_on | apply State.servoChoose_on | apply State.timeBoundary_on | decide

theorem State.boundary_on {kp : List Part} {b0 : State} {s : State} {t : Nat} (hk : goesOn kp b0 s) (hq : ∀ p ∈ [.free, .cmd, .hostMem, .lanes, .selv, .tdc, .gauge, .ref, .time, .ptp, .stitch, .pair, .fw, .mbs, .fence, .events], p ∈ kp) :
    goesOn kp b0 (State.boundary s t) := hk.trans ((State.boundary_keeps s t).mono hq)

theorem execLaneWindowBoundary_keeps (s : State) :
    Out.keeps [.clock, .free, .cmd, .hostMem, .lanes, .selv, .tdc, .gauge, .ref, .time, .ptp, .stitch, .pair, .fw, .mbs, .fence, .events, .stats] s (execLaneWindowBoundary s) := by
  unfold execLaneWindowBoundary
  try dsimp only
  repeat' with_reducible first
    | apply goesOn.refl | apply State.advanceTick_on | apply State.boundary_on | apply out_next | apply out_ite | decide

theorem execLaneWindowBoundary_on {kp : List Part} {b0 : State} {s : State} (hk : goesOn kp b0 s) (hq : ∀ p ∈ [.clock, .free, .cmd, .hostMem, .lanes, .selv, .tdc, .gauge, .ref, .time, .ptp, .stitch, .pair, .fw, .mbs, .fence, .events, .stats], p ∈ kp) :
    Out.keeps kp b0 (execLaneWindowBoundary s) := .after hk ((execLaneWindowBoundary_keeps s).mono hq)

end Sys2Proof.Machine
end

