-- ==== Sys2Proof/Laws/Keeps/Parse.lean ====
section
/-!
SUPPORT. Which parts of the state each operation of Parse.lean touches.
-/
namespace Sys2Proof.Machine

theorem State.slowDrop_keeps (s : State) (r : Nat) :
    goesOn [.parse, .fence, .events] s (State.slowDrop s r) := by
  unfold State.slowDrop
  try dsimp only
  repeat' with_reducible first
    | apply goesOn.refl | apply keeps_ite | apply State.raise_on | apply kset_parse | decide

theorem State.slowDrop_on {kp : List Part} {b0 : State} {s : State} {r : Nat} (hk : goesOn kp b0 s) (hq : ∀ p ∈ [.parse, .fence, .events], p ∈ kp) :
    goesOn kp b0 (State.slowDrop s r) := hk.trans ((State.slowDrop_keeps s r).mono hq)

theorem State.slowAdmit_keeps (s : State) (r : Nat) (cells : Nat) :
    goesOn [.parse, .fence, .events, .stats] s (State.slowAdmit s r cells).1 := by
  unfold State.slowAdmit
  repeat' with_reducible first
    | apply goesOn.refl | apply keeps_ite1 | apply State.count_on | apply State.slowDrop_on | decide | apply kset_parse

theorem State.slowAdmit_on {kp : List Part} {b0 : State} {s : State} {r : Nat} {cells : Nat} (hk : goesOn kp b0 s) (hq : ∀ p ∈ [.parse, .fence, .events, .stats], p ∈ kp) :
    goesOn kp b0 (State.slowAdmit s r cells).1 := hk.trans ((State.slowAdmit_keeps s r cells).mono hq)

theorem State.updParser_keeps (s : State) (f : Parse → Parse) :
    goesOn [.parse] s (State.updParser s f) := by
  unfold State.updParser
  try dsimp only
  repeat' with_reducible first
    | apply goesOn.refl | apply kset_parse | decide

theorem State.updParser_on {kp : List Part} {b0 : State} {s : State} {f : Parse → Parse} (hk : goesOn kp b0 s) (hq : ∀ p ∈ [.parse], p ∈ kp) :
    goesOn kp b0 (State.updParser s f) := hk.trans ((State.updParser_keeps s f).mono hq)

theorem bodyParseConfigurePort_keeps (trustPcp : Bool) (trustDscp : Bool) (port : Nat) (malformed : Nat) (lenConflict : Nat) (profile : Nat) (pcpMap : Nat) (dscpMap : Nat) (defClass : Nat) (s : State) :
    Rep.keeps [.parse] s (bodyParseConfigurePort trustPcp trustDscp port malformed lenConflict profile pcpMap dscpMap defClass s) := by
  unfold bodyParseConfigurePort
  try dsimp only
  repeat' with_reducible first
    | apply goesOn.refl | apply State.updParse_on | apply rep_ok | apply rep_ranges | decide

theorem bodyParseConfigurePort_on {kp : List Part} {b0 : State} {trustPcp : Bool} {trustDscp : Bool} {port : Nat} {malformed : Nat} {lenConflict : Nat} {profile : Nat} {pcpMap : Nat} {dscpMap : Nat} {defClass : Nat} {s : State} (hk : goesOn kp b0 s) (hq : ∀ p ∈ [.parse], p ∈ kp) :
    Rep.keeps kp b0 (bodyParseConfigurePort trustPcp trustDscp port malformed lenConflict profile pcpMap dscpMap defClass s) := .after hk ((bodyParseConfigurePort_keeps trustPcp trustDscp port malformed lenConflict profile pcpMap dscpMap defClass s).mono hq)

theorem bodyParseConfigureExtract_keeps (enable0 : Bool) (enable1 : Bool) (profile : Nat) (cond0 : Nat) (anchor0 : Nat) (offset0 : Nat) (width0 : Nat) (cond1 : Nat) (anchor1 : Nat) (offset1 : Nat) (width1 : Nat) (s : State) :
    Rep.keeps [.parse] s (bodyParseConfigureExtract enable0 enable1 profile cond0 anchor0 offset0 width0 cond1 anchor1 offset1 width1 s) := by
  unfold bodyParseConfigureExtract
  try dsimp only
  repeat' with_reducible first
    | apply goesOn.refl | apply State.updParser_on | apply rep_ok | apply rep_ranges | decide

theorem bodyParseConfigureExtract_on {kp : List Part} {b0 : State} {enable0 : Bool} {enable1 : Bool} {profile : Nat} {cond0 : Nat} {anchor0 : Nat} {offset0 : Nat} {width0 : Nat} {cond1 : Nat} {anchor1 : Nat} {offset1 : Nat} {width1 : Nat} {s : State} (hk : goesOn kp b0 s) (hq : ∀ p ∈ [.parse], p ∈ kp) :
    Rep.keeps kp b0 (bodyParseConfigureExtract enable0 enable1 profile cond0 anchor0 offset0 width0 cond1 anchor1 offset1 width1 s) := .after hk ((bodyParseConfigureExtract_keeps enable0 enable1 profile cond0 anchor0 offset0 width0 cond1 anchor1 offset1 width1 s).mono hq)

theorem State.setAclStage_keeps (s : State) (src : CmdSrc) (t : Tbl (List Byte)) :
    goesOn [.fw, .mbs] s (State.setAclStage s src t) := by
  unfold State.setAclStage
  try dsimp only
  repeat' with_reducible first
    | apply goesOn.refl | apply State.updMb_on | decide | split | apply kset_fw

theorem State.setAclStage_on {kp : List Part} {b0 : State} {s : State} {src : CmdSrc} {t : Tbl (List Byte)} (hk : goesOn kp b0 s) (hq : ∀ p ∈ [.fw, .mbs], p ∈ kp) :
    goesOn kp b0 (State.setAclStage s src t) := hk.trans ((State.setAclStage_keeps s src t).mono hq)

theorem State.setMemStage_keeps (s : State) (src : CmdSrc) (t : Tbl Member) :
    goesOn [.fw, .mbs] s (State.setMemStage s src t) := by
  unfold State.setMemStage
  try dsimp only
  repeat' with_reducible first
    | apply goesOn.refl | apply State.updMb_on | decide | split | apply kset_fw

theorem State.setMemStage_on {kp : List Part} {b0 : State} {s : State} {src : CmdSrc} {t : Tbl Member} (hk : goesOn kp b0 s) (hq : ∀ p ∈ [.fw, .mbs], p ∈ kp) :
    goesOn kp b0 (State.setMemStage s src t) := hk.trans ((State.setMemStage_keeps s src t).mono hq)

theorem bodyAclStage_keeps (src : CmdSrc) (part : Nat) (bytes : List Byte) (s : State) :
    Rep.keeps [.fw, .mbs] s (bodyAclStage src part bytes s) := by
  unfold bodyAclStage
  try dsimp only
  repeat' with_reducible first
    | apply goesOn.refl | apply State.setAclStage_on | apply rep_ok | apply rep_ranges | decide

theorem bodyAclStage_on {kp : List Part} {b0 : State} {src : CmdSrc} {part : Nat} {bytes : List Byte} {s : State} (hk : goesOn kp b0 s) (hq : ∀ p ∈ [.fw, .mbs], p ∈ kp) :
    Rep.keeps kp b0 (bodyAclStage src part bytes s) := .after hk ((bodyAclStage_keeps src part bytes s).mono hq)

theorem bodyAclCommit_keeps (src : CmdSrc) (copy : Bool) (capture : Bool) (setClass : Bool) (steer : Bool) (redirect : Bool) (entry : Nat) (kind : Nat) (tc : Nat) (profile : Nat) (port : Nat) (s : State) :
    Rep.keeps [.parse, .fw, .mbs] s (bodyAclCommit src copy capture setClass steer redirect entry kind tc profile port s) := by
  unfold bodyAclCommit
  try dsimp only
  repeat' with_reducible first
    | apply goesOn.refl | apply State.setAclStage_on | apply State.updParser_on | apply rep_ok | apply rep_bad | apply rep_flags
    | apply rep_ranges | apply rep_ite | decide

theorem bodyAclCommit_on {kp : List Part} {b0 : State} {src : CmdSrc} {copy : Bool} {capture : Bool} {setClass : Bool} {steer : Bool} {redirect : Bool} {entry : Nat} {kind : Nat} {tc : Nat} {profile : Nat} {port : Nat} {s : State} (hk : goesOn kp b0 s) (hq : ∀ p ∈ [.parse, .fw, .mbs], p ∈ kp) :
    Rep.keeps kp b0 (bodyAclCommit src copy capture setClass steer redirect entry kind tc profile port s) := .after hk ((bodyAclCommit_keeps src copy capture setClass steer redirect entry kind tc profile port s).mono hq)

theorem bodyAclDelete_keeps (entry : Nat) (s : State) :
    Rep.keeps [.parse] s (bodyAclDelete entry s) := by
  unfold bodyAclDelete
  try dsimp only
  repeat' with_reducible first
    | apply goesOn.refl | apply State.updParser_on | apply rep_ok | apply rep_ranges | decide

theorem bodyAclDelete_on {kp : List Part} {b0 : State} {entry : Nat} {s : State} (hk : goesOn kp b0 s) (hq : ∀ p ∈ [.parse], p ∈ kp) :
    Rep.keeps kp b0 (bodyAclDelete entry s) := .after hk ((bodyAclDelete_keeps entry s).mono hq)

theorem bodyAclRead_keeps (clear : Bool) (entry : Nat) (part : Nat) (s : State) :
    Rep.keeps [.parse] s (bodyAclRead clear entry part s) := by
  unfold bodyAclRead
  try dsimp only
  repeat' with_reducible first
    | apply goesOn.refl | apply keeps_ite | apply State.updParser_on | apply rep_ok | apply rep_bad | apply rep_ranges | decide
    | split

theorem bodyAclRead_on {kp : List Part} {b0 : State} {clear : Bool} {entry : Nat} {part : Nat} {s : State} (hk : goesOn kp b0 s) (hq : ∀ p ∈ [.parse], p ∈ kp) :
    Rep.keeps kp b0 (bodyAclRead clear entry part s) := .after hk ((bodyAclRead_keeps clear entry part s).mono hq)

theorem bodySteerConfigureProfile_keeps (symmetric : Bool) (profile : Nat) (mode : Nat) (fields : Nat) (seed : Nat) (field : Nat) (sh : Nat) (m : Nat) (b : Nat) (absent : Nat) (s : State) :
    Rep.keeps [.parse] s (bodySteerConfigureProfile symmetric profile mode fields seed field sh m b absent s) := by
  unfold bodySteerConfigureProfile
  try dsimp only
  repeat' with_reducible first
    | apply goesOn.refl | apply State.updParser_on | apply rep_ok | apply rep_flags | apply rep_ranges | apply rep_ite | decide

theorem bodySteerConfigureProfile_on {kp : List Part} {b0 : State} {symmetric : Bool} {profile : Nat} {mode : Nat} {fields : Nat} {seed : Nat} {field : Nat} {sh : Nat} {m : Nat} {b : Nat} {absent : Nat} {s : State} (hk : goesOn kp b0 s) (hq : ∀ p ∈ [.parse], p ∈ kp) :
    Rep.keeps kp b0 (bodySteerConfigureProfile symmetric profile mode fields seed field sh m b absent s) := .after hk ((bodySteerConfigureProfile_keeps symmetric profile mode fields seed field sh m b absent s).mono hq)

theorem bodySteerWrite_keeps (table : Nat) (first : Nat) (count : Nat) (entries : List Nat) (s : State) :
    Rep.keeps [.parse, .stats] s (bodySteerWrite table first count entries s) := by
  unfold bodySteerWrite
  try dsimp only
  repeat' with_reducible first
    | apply goesOn.refl | apply State.updParser_on | apply rep_ok | apply rep_ranges | decide

theorem bodySteerWrite_on {kp : List Part} {b0 : State} {table : Nat} {first : Nat} {count : Nat} {entries : List Nat} {s : State} (hk : goesOn kp b0 s) (hq : ∀ p ∈ [.parse, .stats], p ∈ kp) :
    Rep.keeps kp b0 (bodySteerWrite table first count entries s) := .after hk ((bodySteerWrite_keeps table first count entries s).mono hq)

theorem bodySteerRead_keeps (table : Nat) (first : Nat) (count : Nat) (s : State) :
    Rep.keeps [.stats] s (bodySteerRead table first count s) := by
  unfold bodySteerRead
  try dsimp only
  repeat' with_reducible first
    | apply goesOn.refl | apply rep_ok | apply rep_ranges

theorem bodySteerRead_on {kp : List Part} {b0 : State} {table : Nat} {first : Nat} {count : Nat} {s : State} (hk : goesOn kp b0 s) (hq : ∀ p ∈ [.stats], p ∈ kp) :
    Rep.keeps kp b0 (bodySteerRead table first count s) := .after hk ((bodySteerRead_keeps table first count s).mono hq)

theorem bodySlowConfigure_keeps (reason : Nat) (rate : Nat) (burst : Nat) (s : State) :
    Rep.keeps [.parse] s (bodySlowConfigure reason rate burst s) := by
  unfold bodySlowConfigure
  try dsimp only
  repeat' with_reducible first
    | apply goesOn.refl | apply State.updParser_on | apply rep_ok | apply rep_ranges | decide

theorem bodySlowConfigure_on {kp : List Part} {b0 : State} {reason : Nat} {rate : Nat} {burst : Nat} {s : State} (hk : goesOn kp b0 s) (hq : ∀ p ∈ [.parse], p ∈ kp) :
    Rep.keeps kp b0 (bodySlowConfigure reason rate burst s) := .after hk ((bodySlowConfigure_keeps reason rate burst s).mono hq)

theorem bodyParseGetCounts_keeps (clear : Bool) (port : Nat) (s : State) :
    Rep.keeps [.parse, .stats] s (bodyParseGetCounts clear port s) := by
  unfold bodyParseGetCounts
  try dsimp only
  repeat' with_reducible first
    | apply goesOn.refl | apply keeps_ite | apply State.rebaseAll_on | apply State.updParse_on | apply rep_ok | apply rep_ranges
    | decide

theorem bodyParseGetCounts_on {kp : List Part} {b0 : State} {clear : Bool} {port : Nat} {s : State} (hk : goesOn kp b0 s) (hq : ∀ p ∈ [.parse, .stats], p ∈ kp) :
    Rep.keeps kp b0 (bodyParseGetCounts clear port s) := .after hk ((bodyParseGetCounts_keeps clear port s).mono hq)

theorem bodyClassSetMap_keeps (kind : Nat) (map : Nat) (first : Nat) (count : Nat) (classes : List Nat) (s : State) :
    Rep.keeps [.parse, .stats] s (bodyClassSetMap kind map first count classes s) := by
  unfold bodyClassSetMap
  try dsimp only
  repeat' with_reducible first
    | apply goesOn.refl | apply State.updParser_on | apply rep_ok | apply rep_ranges | decide

theorem bodyClassSetMap_on {kp : List Part} {b0 : State} {kind : Nat} {map : Nat} {first : Nat} {count : Nat} {classes : List Nat} {s : State} (hk : goesOn kp b0 s) (hq : ∀ p ∈ [.parse, .stats], p ∈ kp) :
    Rep.keeps kp b0 (bodyClassSetMap kind map first count classes s) := .after hk ((bodyClassSetMap_keeps kind map first count classes s).mono hq)

theorem execParseConfigurePort_keeps (src : CmdSrc) (trustPcp : Bool) (trustDscp : Bool) (port : Nat) (malformed : Nat) (lenConflict : Nat) (profile : Nat) (pcpMap : Nat) (dscpMap : Nat) (defClass : Nat) (s : State) :
    Out.keeps [.cmd, .hostMem, .glob, .parse, .pair, .fw, .mbs, .fence, .events] s (execParseConfigurePort src trustPcp trustDscp port malformed lenConflict profile pcpMap dscpMap defClass s) := by
  unfold execParseConfigurePort
  try dsimp only
  repeat' first
    | with_reducible apply goesOn.refl | with_reducible apply out_next
    | (with_reducible apply keeps_runCmd; rotate_left 1; intro y) | with_reducible apply bodyParseConfigurePort_on
    | with_reducible decide

theorem execParseConfigurePort_on {kp : List Part} {b0 : State} {src : CmdSrc} {trustPcp : Bool} {trustDscp : Bool} {port : Nat} {malformed : Nat} {lenConflict : Nat} {profile : Nat} {pcpMap : Nat} {dscpMap : Nat} {defClass : Nat} {s : State} (hk : goesOn kp b0 s) (hq : ∀ p ∈ [.cmd, .hostMem, .glob, .parse, .pair, .fw, .mbs, .fence, .events], p ∈ kp) :
    Out.keeps kp b0 (execParseConfigurePort src trustPcp trustDscp port malformed lenConflict profile pcpMap dscpMap defClass s) := .after hk ((execParseConfigurePort_keeps src trustPcp trustDscp port malformed lenConflict profile pcpMap dscpMap defClass s).mono hq)

theorem execParseConfigureExtract_keeps (src : CmdSrc) (enable0 : Bool) (enable1 : Bool) (profile : Nat) (cond0 : Nat) (anchor0 : Nat) (offset0 : Nat) (width0 : Nat) (cond1 : Nat) (anchor1 : Nat) (offset1 : Nat) (width1 : Nat) (s : State) :
    Out.keeps [.cmd, .hostMem, .glob, .parse, .pair, .fw, .mbs, .fence, .events] s (execParseConfigureExtract src enable0 enable1 profile cond0 anchor0 offset0 width0 cond1 anchor1 offset1 width1 s) := by
  unfold execParseConfigureExtract
  try dsimp only
  repeat' first
    | with_reducible apply goesOn.refl | with_reducible apply out_next
    | (with_reducible apply keeps_runCmd; rotate_left 1; intro y) | with_reducible apply bodyParseConfigureExtract_on
    | with_reducible decide

theorem execParseConfigureExtract_on {kp : List Part} {b0 : State} {src : CmdSrc} {enable0 : Bool} {enable1 : Bool} {profile : Nat} {cond0 : Nat} {anchor0 : Nat} {offset0 : Nat} {width0 : Nat} {cond1 : Nat} {anchor1 : Nat} {offset1 : Nat} {width1 : Nat} {s : State} (hk : goesOn kp b0 s) (hq : ∀ p ∈ [.cmd, .hostMem, .glob, .parse, .pair, .fw, .mbs, .fence, .events], p ∈ kp) :
    Out.keeps kp b0 (execParseConfigureExtract src enable0 enable1 profile cond0 anchor0 offset0 width0 cond1 anchor1 offset1 width1 s) := .after hk ((execParseConfigureExtract_keeps src enable0 enable1 profile cond0 anchor0 offset0 width0 cond1 anchor1 offset1 width1 s).mono hq)

theorem execAclDelete_keeps (src : CmdSrc) (entry : Nat) (s : State) :
    Out.keeps [.cmd, .hostMem, .glob, .parse, .pair, .fw, .mbs, .fence, .events] s (execAclDelete src entry s) := by
  unfold execAclDelete
  try dsimp only
  repeat' first
    | with_reducible apply goesOn.refl | with_reducible apply out_next
    | (with_reducible apply keeps_runCmd; rotate_left 1; intro y) | with_reducible apply bodyAclDelete_on | with_reducible decide

theorem execAclDelete_on {kp : List Part} {b0 : State} {src : CmdSrc} {entry : Nat} {s : State} (hk : goesOn kp b0 s) (hq : ∀ p ∈ [.cmd, .hostMem, .glob, .parse, .pair, .fw, .mbs, .fence, .events], p ∈ kp) :
    Out.keeps kp b0 (execAclDelete src entry s) := .after hk ((execAclDelete_keeps src entry s).mono hq)

theorem execAclRead_keeps (src : CmdSrc) (clear : Bool) (entry : Nat) (part : Nat) (s : State) :
    Out.keeps [.cmd, .hostMem, .glob, .parse, .pair, .fw, .mbs, .fence, .events] s (execAclRead src clear entry part s) := by
  unfold execAclRead
  try dsimp only
  repeat' first
    | with_reducible apply goesOn.refl | with_reducible apply out_next
    | (with_reducible apply keeps_runCmd; rotate_left 1; intro y) | with_reducible apply bodyAclRead_on | with_reducible decide

theorem execAclRead_on {kp : List Part} {b0 : State} {src : CmdSrc} {clear : Bool} {entry : Nat} {part : Nat} {s : State} (hk : goesOn kp b0 s) (hq : ∀ p ∈ [.cmd, .hostMem, .glob, .parse, .pair, .fw, .mbs, .fence, .events], p ∈ kp) :
    Out.keeps kp b0 (execAclRead src clear entry part s) := .after hk ((execAclRead_keeps src clear entry part s).mono hq)

theorem execSteerConfigureProfile_keeps (src : CmdSrc) (symmetric : Bool) (profile : Nat) (mode : Nat) (fields : Nat) (seed : Nat) (field : Nat) (sh : Nat) (m : Nat) (b : Nat) (absent : Nat) (s : State) :
    Out.keeps [.cmd, .hostMem, .glob, .parse, .pair, .fw, .mbs, .fence, .events] s (execSteerConfigureProfile src symmetric profile mode fields seed field sh m b absent s) := by
  unfold execSteerConfigureProfile
  try dsimp only
  repeat' first
    | with_reducible apply goesOn.refl | with_reducible apply out_next
    | (with_reducible apply keeps_runCmd; rotate_left 1; intro y) | with_reducible apply bodySteerConfigureProfile_on
    | with_reducible decide

theorem execSteerConfigureProfile_on {kp : List Part} {b0 : State} {src : CmdSrc} {symmetric : Bool} {profile : Nat} {mode : Nat} {fields : Nat} {seed : Nat} {field : Nat} {sh : Nat} {m : Nat} {b : Nat} {absent : Nat} {s : State} (hk : goesOn kp b0 s) (hq : ∀ p ∈ [.cmd, .hostMem, .glob, .parse, .pair, .fw, .mbs, .fence, .events], p ∈ kp) :
    Out.keeps kp b0 (execSteerConfigureProfile src symmetric profile mode fields seed field sh m b absent s) := .after hk ((execSteerConfigureProfile_keeps src symmetric profile mode fields seed field sh m b absent s).mono hq)

theorem execSteerWrite_keeps (src : CmdSrc) (table : Nat) (first : Nat) (count : Nat) (entries : List Nat) (s : State) :
    Out.keeps [.cmd, .hostMem, .glob, .parse, .pair, .fw, .mbs, .fence, .events, .stats] s (execSteerWrite src table first count entries s) := by
  unfold execSteerWrite
  try dsimp only
  repeat' first
    | with_reducible apply goesOn.refl | with_reducible apply out_next
    | (with_reducible apply keeps_runCmd; rotate_left 1; intro y) | with_reducible apply bodySteerWrite_on | with_reducible decide

theorem execSteerWrite_on {kp : List Part} {b0 : State} {src : CmdSrc} {table : Nat} {first : Nat} {count : Nat} {entries : List Nat} {s : State} (hk : goesOn kp b0 s) (hq : ∀ p ∈ [.cmd, .hostMem, .glob, .parse, .pair, .fw, .mbs, .fence, .events, .stats], p ∈ kp) :
    Out.keeps kp b0 (execSteerWrite src table first count entries s) := .after hk ((execSteerWrite_keeps src table first count entries s).mono hq)

theorem execSteerRead_keeps (src : CmdSrc) (table : Nat) (first : Nat) (count : Nat) (s : State) :
    Out.keeps [.cmd, .hostMem, .glob, .pair, .fw, .mbs, .fence, .events, .stats] s (execSteerRead src table first count s) := by
  unfold execSteerRead
  try dsimp only
  repeat' first
    | with_reducible apply goesOn.refl | with_reducible apply out_next
    | (with_reducible apply keeps_runCmd; rotate_left 1; intro y) | with_reducible apply bodySteerRead_on | with_reducible decide

theorem execSteerRead_on {kp : List Part} {b0 : State} {src : CmdSrc} {table : Nat} {first : Nat} {count : Nat} {s : State} (hk : goesOn kp b0 s) (hq : ∀ p ∈ [.cmd, .hostMem, .glob, .pair, .fw, .mbs, .fence, .events, .stats], p ∈ kp) :
    Out.keeps kp b0 (execSteerRead src table first count s) := .after hk ((execSteerRead_keeps src table first count s).mono hq)

theorem execSlowConfigure_keeps (src : CmdSrc) (reason : Nat) (rate : Nat) (burst : Nat) (s : State) :
    Out.keeps [.cmd, .hostMem, .glob, .parse, .pair, .fw, .mbs, .fence, .events] s (execSlowConfigure src reason rate burst s) := by
  unfold execSlowConfigure
  try dsimp only
  repeat' first
    | with_reducible apply goesOn.refl | with_reducible apply out_next
    | (with_reducible apply keeps_runCmd; rotate_left 1; intro y) | with_reducible apply bodySlowConfigure_on
    | with_reducible decide

theorem execSlowConfigure_on {kp : List Part} {b0 : State} {src : CmdSrc} {reason : Nat} {rate : Nat} {burst : Nat} {s : State} (hk : goesOn kp b0 s) (hq : ∀ p ∈ [.cmd, .hostMem, .glob, .parse, .pair, .fw, .mbs, .fence, .events], p ∈ kp) :
    Out.keeps kp b0 (execSlowConfigure src reason rate burst s) := .after hk ((execSlowConfigure_keeps src reason rate burst s).mono hq)

theorem execParseGetCounts_keeps (src : CmdSrc) (clear : Bool) (port : Nat) (s : State) :
    Out.keeps [.cmd, .hostMem, .glob, .parse, .pair, .fw, .mbs, .fence, .events, .stats] s (execParseGetCounts src clear port s) := by
  unfold execParseGetCounts
  try dsimp only
  repeat' first
    | with_reducible apply goesOn.refl | with_reducible apply out_next
    | (with_reducible apply keeps_runCmd; rotate_left 1; intro y) | with_reducible apply bodyParseGetCounts_on
    | with_reducible decide

theorem execParseGetCounts_on {kp : List Part} {b0 : State} {src : CmdSrc} {clear : Bool} {port : Nat} {s : State} (hk : goesOn kp b0 s) (hq : ∀ p ∈ [.cmd, .hostMem, .glob, .parse, .pair, .fw, .mbs, .fence, .events, .stats], p ∈ kp) :
    Out.keeps kp b0 (execParseGetCounts src clear port s) := .after hk ((execParseGetCounts_keeps src clear port s).mono hq)

theorem execClassSetMap_keeps (src : CmdSrc) (kind : Nat) (map : Nat) (first : Nat) (count : Nat) (classes : List Nat) (s : State) :
    Out.keeps [.cmd, .hostMem, .glob, .parse, .pair, .fw, .mbs, .fence, .events, .stats] s (execClassSetMap src kind map first count classes s) := by
  unfold execClassSetMap
  try dsimp only
  repeat' first
    | with_reducible apply goesOn.refl | with_reducible apply out_next
    | (with_reducible apply keeps_runCmd; rotate_left 1; intro y) | with_reducible apply bodyClassSetMap_on
    | with_reducible decide

theorem execClassSetMap_on {kp : List Part} {b0 : State} {src : CmdSrc} {kind : Nat} {map : Nat} {first : Nat} {count : Nat} {classes : List Nat} {s : State} (hk : goesOn kp b0 s) (hq : ∀ p ∈ [.cmd, .hostMem, .glob, .parse, .pair, .fw, .mbs, .fence, .events, .stats], p ∈ kp) :
    Out.keeps kp b0 (execClassSetMap src kind map first count classes s) := .after hk ((execClassSetMap_keeps src kind map first count classes s).mono hq)

theorem execAclStage_keeps (src : CmdSrc) (part : Nat) (bytes : List Byte) (s : State) :
    Out.keeps [.cmd, .hostMem, .glob, .pair, .fw, .mbs, .fence, .events] s (execAclStage src part bytes s) := by
  unfold execAclStage
  try dsimp only
  repeat' first
    | with_reducible apply goesOn.refl | with_reducible apply out_next
    | (with_reducible apply keeps_runCmd; rotate_left 1; intro y) | with_reducible apply bodyAclStage_on | with_reducible decide

theorem execAclStage_on {kp : List Part} {b0 : State} {src : CmdSrc} {part : Nat} {bytes : List Byte} {s : State} (hk : goesOn kp b0 s) (hq : ∀ p ∈ [.cmd, .hostMem, .glob, .pair, .fw, .mbs, .fence, .events], p ∈ kp) :
    Out.keeps kp b0 (execAclStage src part bytes s) := .after hk ((execAclStage_keeps src part bytes s).mono hq)

theorem execAclCommit_keeps (src : CmdSrc) (copy : Bool) (capture : Bool) (setClass : Bool) (steer : Bool) (redirect : Bool) (entry : Nat) (kind : Nat) (tc : Nat) (profile : Nat) (port : Nat) (s : State) :
    Out.keeps [.cmd, .hostMem, .glob, .parse, .pair, .fw, .mbs, .fence, .events] s (execAclCommit src copy capture setClass steer redirect entry kind tc profile port s) := by
  unfold execAclCommit
  try dsimp only
  repeat' first
    | with_reducible apply goesOn.refl | with_reducible apply out_next
    | (with_reducible apply keeps_runCmd; rotate_left 1; intro y) | with_reducible apply bodyAclCommit_on | with_reducible decide

theorem execAclCommit_on {kp : List Part} {b0 : State} {src : CmdSrc} {copy : Bool} {capture : Bool} {setClass : Bool} {steer : Bool} {redirect : Bool} {entry : Nat} {kind : Nat} {tc : Nat} {profile : Nat} {port : Nat} {s : State} (hk : goesOn kp b0 s) (hq : ∀ p ∈ [.cmd, .hostMem, .glob, .parse, .pair, .fw, .mbs, .fence, .events], p ∈ kp) :
    Out.keeps kp b0 (execAclCommit src copy capture setClass steer redirect entry kind tc profile port s) := .after hk ((execAclCommit_keeps src copy capture setClass steer redirect entry kind tc profile port s).mono hq)

end Sys2Proof.Machine
end

