-- ==== Sys2Proof/Laws/Keeps/Forward.lean ====
section
/-!
SUPPORT. Which parts of the state each operation of Forward.lean touches.
-/
namespace Sys2Proof.Machine

theorem State.updFwd_keeps (s : State) (f : Fwd → Fwd) :
    goesOn [.fwd] s (State.updFwd s f) := by
  unfold State.updFwd
  try dsimp only
  repeat' with_reducible first
    | apply goesOn.refl | apply kset_fwd | decide

theorem State.updFwd_on {kp : List Part} {b0 : State} {s : State} {f : Fwd → Fwd} (hk : goesOn kp b0 s) (hq : ∀ p ∈ [.fwd], p ∈ kp) :
    goesOn kp b0 (State.updFwd s f) := hk.trans ((State.updFwd_keeps s f).mono hq)

theorem State.pickLocs_keeps (kk : Nat) (s : State) (t : Nat) (taken : List Nat) :
    goesOn [.free] s (State.pickLocs s t taken kk).1 := by
  induction kk generalizing s t taken with
  | zero => exact .refl _ _
  | succ kk ih =>
    have ihon : ∀ {b0 : State} (s : State) (t : Nat) (taken : List Nat), goesOn [.free] b0 s → goesOn [.free] b0 (State.pickLocs s t taken kk).1 := fun s t taken h => h.trans (ih _ _ _ )
    unfold State.pickLocs
    try dsimp only
    repeat' with_reducible first
      | apply ihon | apply goesOn.refl | apply State.takeFree_on | decide

theorem State.pickLocs_on {kp : List Part} {b0 : State} {s : State} {t : Nat} {taken : List Nat} {kk : Nat} (hk : goesOn kp b0 s) (hq : ∀ p ∈ [.free], p ∈ kp) :
    goesOn kp b0 (State.pickLocs s t taken kk).1 := hk.trans ((State.pickLocs_keeps kk s t taken).mono hq)

theorem State.tableFull_keeps (s : State) (t : Nat) :
    Rep.keeps [.fence, .events] s (State.tableFull s t) := by
  unfold State.tableFull
  try dsimp only
  repeat' with_reducible first
    | apply goesOn.refl | apply State.raise_on | apply rep_done | decide

theorem State.tableFull_on {kp : List Part} {b0 : State} {s : State} {t : Nat} (hk : goesOn kp b0 s) (hq : ∀ p ∈ [.fence, .events], p ∈ kp) :
    Rep.keeps kp b0 (State.tableFull s t) := .after hk ((State.tableFull_keeps s t).mono hq)

theorem bodyVlanConfigure_keeps (enable : Bool) (l3 : Bool) (vid : Nat) (members : BitVec 256) (untagged : BitVec 256) (unknown : Nat) (floodMgid : Nat) (rmac : Nat) (s : State) :
    Rep.keeps [.fwd] s (bodyVlanConfigure enable l3 vid members untagged unknown floodMgid rmac s) := by
  unfold bodyVlanConfigure
  try dsimp only
  repeat' with_reducible first
    | apply goesOn.refl | apply State.updFwd_on | apply rep_ok | apply rep_bad | apply rep_ranges | apply rep_ite | decide

theorem bodyVlanConfigure_on {kp : List Part} {b0 : State} {enable : Bool} {l3 : Bool} {vid : Nat} {members : BitVec 256} {untagged : BitVec 256} {unknown : Nat} {floodMgid : Nat} {rmac : Nat} {s : State} (hk : goesOn kp b0 s) (hq : ∀ p ∈ [.fwd], p ∈ kp) :
    Rep.keeps kp b0 (bodyVlanConfigure enable l3 vid members untagged unknown floodMgid rmac s) := .after hk ((bodyVlanConfigure_keeps enable l3 vid members untagged unknown floodMgid rmac s).mono hq)

theorem bodyPortSetPvid_keeps (port : Nat) (pvid : Nat) (s : State) :
    Rep.keeps [.ports] s (bodyPortSetPvid port pvid s) := by
  unfold bodyPortSetPvid
  try dsimp only
  repeat' with_reducible first
    | apply goesOn.refl | apply State.updPort_on | apply rep_ok | apply rep_ranges | decide

theorem bodyPortSetPvid_on {kp : List Part} {b0 : State} {port : Nat} {pvid : Nat} {s : State} (hk : goesOn kp b0 s) (hq : ∀ p ∈ [.ports], p ∈ kp) :
    Rep.keeps kp b0 (bodyPortSetPvid port pvid s) := .after hk ((bodyPortSetPvid_keeps port pvid s).mono hq)

theorem bodyRouterMacSet_keeps (index : Nat) (mac : Nat) (s : State) :
    Rep.keeps [.fwd] s (bodyRouterMacSet index mac s) := by
  unfold bodyRouterMacSet
  try dsimp only
  repeat' with_reducible first
    | apply goesOn.refl | apply State.updFwd_on | apply rep_ok | apply rep_ranges | decide

theorem bodyRouterMacSet_on {kp : List Part} {b0 : State} {index : Nat} {mac : Nat} {s : State} (hk : goesOn kp b0 s) (hq : ∀ p ∈ [.fwd], p ∈ kp) :
    Rep.keeps kp b0 (bodyRouterMacSet index mac s) := .after hk ((bodyRouterMacSet_keeps index mac s).mono hq)

theorem bodyL2Add_keeps (replace : Bool) (vid : Nat) (da : Nat) (result : Nat) (s : State) :
    Rep.keeps [.free, .fwd, .fence, .events] s (bodyL2Add replace vid da result s) := by
  unfold bodyL2Add
  try dsimp only
  repeat' with_reducible first
    | apply goesOn.refl | apply State.pickLocs_on | apply State.updFwd_on | apply State.tableFull_on | apply rep_ok
    | apply rep_bad | apply rep_ranges | apply rep_ite | decide | split

theorem bodyL2Add_on {kp : List Part} {b0 : State} {replace : Bool} {vid : Nat} {da : Nat} {result : Nat} {s : State} (hk : goesOn kp b0 s) (hq : ∀ p ∈ [.free, .fwd, .fence, .events], p ∈ kp) :
    Rep.keeps kp b0 (bodyL2Add replace vid da result s) := .after hk ((bodyL2Add_keeps replace vid da result s).mono hq)

theorem bodyL2Delete_keeps (vid : Nat) (da : Nat) (s : State) :
    Rep.keeps [.fwd] s (bodyL2Delete vid da s) := by
  unfold bodyL2Delete
  try dsimp only
  repeat' with_reducible first
    | apply goesOn.refl | apply State.updFwd_on | apply rep_ok | apply rep_ranges | decide

theorem bodyL2Delete_on {kp : List Part} {b0 : State} {vid : Nat} {da : Nat} {s : State} (hk : goesOn kp b0 s) (hq : ∀ p ∈ [.fwd], p ∈ kp) :
    Rep.keeps kp b0 (bodyL2Delete vid da s) := .after hk ((bodyL2Delete_keeps vid da s).mono hq)

theorem bodyNhWrite_keeps (decTtl : Bool) (nh : Nat) (port : Nat) (vid : Nat) (da : Nat) (rmac : Nat) (s : State) :
    Rep.keeps [.fwd] s (bodyNhWrite decTtl nh port vid da rmac s) := by
  unfold bodyNhWrite
  try dsimp only
  repeat' with_reducible first
    | apply goesOn.refl | apply State.updFwd_on | apply rep_ok | apply rep_ranges | decide

theorem bodyNhWrite_on {kp : List Part} {b0 : State} {decTtl : Bool} {nh : Nat} {port : Nat} {vid : Nat} {da : Nat} {rmac : Nat} {s : State} (hk : goesOn kp b0 s) (hq : ∀ p ∈ [.fwd], p ∈ kp) :
    Rep.keeps kp b0 (bodyNhWrite decTtl nh port vid da rmac s) := .after hk ((bodyNhWrite_keeps decTtl nh port vid da rmac s).mono hq)

theorem bodyNhDelete_keeps (nh : Nat) (s : State) :
    Rep.keeps [.fwd] s (bodyNhDelete nh s) := by
  unfold bodyNhDelete
  try dsimp only
  repeat' with_reducible first
    | apply goesOn.refl | apply State.updFwd_on | apply rep_ok | apply rep_bad | apply rep_ranges | apply rep_ite | decide

theorem bodyNhDelete_on {kp : List Part} {b0 : State} {nh : Nat} {s : State} (hk : goesOn kp b0 s) (hq : ∀ p ∈ [.fwd], p ∈ kp) :
    Rep.keeps kp b0 (bodyNhDelete nh s) := .after hk ((bodyNhDelete_keeps nh s).mono hq)

theorem bodyHostAdd_keeps (replace : Bool) (family : Nat) (addr : Nat) (result : Nat) (s : State) :
    Rep.keeps [.free, .fwd, .fence, .events] s (bodyHostAdd replace family addr result s) := by
  unfold bodyHostAdd
  try dsimp only
  repeat' with_reducible first
    | apply goesOn.refl | apply State.pickLocs_on | apply State.updFwd_on | apply State.tableFull_on | apply rep_ok
    | apply rep_bad | apply rep_ranges | apply rep_ite | decide | split

theorem bodyHostAdd_on {kp : List Part} {b0 : State} {replace : Bool} {family : Nat} {addr : Nat} {result : Nat} {s : State} (hk : goesOn kp b0 s) (hq : ∀ p ∈ [.free, .fwd, .fence, .events], p ∈ kp) :
    Rep.keeps kp b0 (bodyHostAdd replace family addr result s) := .after hk ((bodyHostAdd_keeps replace family addr result s).mono hq)

theorem bodyHostDelete_keeps (family : Nat) (addr : Nat) (s : State) :
    Rep.keeps [.fwd] s (bodyHostDelete family addr s) := by
  unfold bodyHostDelete
  try dsimp only
  repeat' with_reducible first
    | apply goesOn.refl | apply State.updFwd_on | apply rep_ok | apply rep_ranges | decide

theorem bodyHostDelete_on {kp : List Part} {b0 : State} {family : Nat} {addr : Nat} {s : State} (hk : goesOn kp b0 s) (hq : ∀ p ∈ [.fwd], p ∈ kp) :
    Rep.keeps kp b0 (bodyHostDelete family addr s) := .after hk ((bodyHostDelete_keeps family addr s).mono hq)

theorem bodyLpmAdd_keeps (replace : Bool) (family : Nat) (pfx : Nat) (length : Nat) (result : Nat) (s : State) :
    Rep.keeps [.free, .fwd, .fence, .events] s (bodyLpmAdd replace family pfx length result s) := by
  unfold bodyLpmAdd
  try dsimp only
  repeat' with_reducible first
    | apply goesOn.refl | apply State.pickLocs_on | apply State.updFwd_on | apply State.tableFull_on | apply rep_ok
    | apply rep_bad | apply rep_ranges | apply rep_ite | decide | split

theorem bodyLpmAdd_on {kp : List Part} {b0 : State} {replace : Bool} {family : Nat} {pfx : Nat} {length : Nat} {result : Nat} {s : State} (hk : goesOn kp b0 s) (hq : ∀ p ∈ [.free, .fwd, .fence, .events], p ∈ kp) :
    Rep.keeps kp b0 (bodyLpmAdd replace family pfx length result s) := .after hk ((bodyLpmAdd_keeps replace family pfx length result s).mono hq)

theorem bodyLpmDelete_keeps (family : Nat) (pfx : Nat) (length : Nat) (s : State) :
    Rep.keeps [.fwd] s (bodyLpmDelete family pfx length s) := by
  unfold bodyLpmDelete
  try dsimp only
  repeat' with_reducible first
    | apply goesOn.refl | apply State.updFwd_on | apply rep_ok | apply rep_ranges | decide

theorem bodyLpmDelete_on {kp : List Part} {b0 : State} {family : Nat} {pfx : Nat} {length : Nat} {s : State} (hk : goesOn kp b0 s) (hq : ∀ p ∈ [.fwd], p ∈ kp) :
    Rep.keeps kp b0 (bodyLpmDelete family pfx length s) := .after hk ((bodyLpmDelete_keeps family pfx length s).mono hq)

theorem bodyMemberStage_keeps (src : CmdSrc) (first : Nat) (count : Nat) (members : List Member) (s : State) :
    Rep.keeps [.fw, .mbs, .stats] s (bodyMemberStage src first count members s) := by
  unfold bodyMemberStage
  try dsimp only
  repeat' with_reducible first
    | apply goesOn.refl | apply State.setMemStage_on | apply rep_ok | apply rep_ranges | decide

theorem bodyMemberStage_on {kp : List Part} {b0 : State} {src : CmdSrc} {first : Nat} {count : Nat} {members : List Member} {s : State} (hk : goesOn kp b0 s) (hq : ∀ p ∈ [.fw, .mbs, .stats], p ∈ kp) :
    Rep.keeps kp b0 (bodyMemberStage src first count members s) := .after hk ((bodyMemberStage_keeps src first count members s).mono hq)

theorem bodyEcmpCommit_keeps (src : CmdSrc) (group : Nat) (count : Nat) (profile : Nat) (s : State) :
    Rep.keeps [.free, .fwd, .fw, .mbs, .fence, .events, .stats] s (bodyEcmpCommit src group count profile s) := by
  unfold bodyEcmpCommit
  try dsimp only
  repeat' with_reducible first
    | apply goesOn.refl | apply State.pickLocs_on | apply State.setMemStage_on | apply State.updFwd_on | apply State.tableFull_on
    | apply rep_ok | apply rep_bad | apply rep_ranges | apply rep_ite | decide

theorem bodyEcmpCommit_on {kp : List Part} {b0 : State} {src : CmdSrc} {group : Nat} {count : Nat} {profile : Nat} {s : State} (hk : goesOn kp b0 s) (hq : ∀ p ∈ [.free, .fwd, .fw, .mbs, .fence, .events, .stats], p ∈ kp) :
    Rep.keeps kp b0 (bodyEcmpCommit src group count profile s) := .after hk ((bodyEcmpCommit_keeps src group count profile s).mono hq)

theorem bodyEcmpDelete_keeps (group : Nat) (s : State) :
    Rep.keeps [.fwd] s (bodyEcmpDelete group s) := by
  unfold bodyEcmpDelete
  try dsimp only
  repeat' with_reducible first
    | apply goesOn.refl | apply State.updFwd_on | apply rep_ok | apply rep_bad | apply rep_ranges | apply rep_ite | decide

theorem bodyEcmpDelete_on {kp : List Part} {b0 : State} {group : Nat} {s : State} (hk : goesOn kp b0 s) (hq : ∀ p ∈ [.fwd], p ∈ kp) :
    Rep.keeps kp b0 (bodyEcmpDelete group s) := .after hk ((bodyEcmpDelete_keeps group s).mono hq)

theorem bodyMcastCommit_keeps (src : CmdSrc) (aon : Bool) (prune : Bool) (mgid : Nat) (count : Nat) (s : State) :
    Rep.keeps [.free, .fwd, .fw, .mbs, .fence, .events, .stats] s (bodyMcastCommit src aon prune mgid count s) := by
  unfold bodyMcastCommit
  try dsimp only
  repeat' with_reducible first
    | apply goesOn.refl | apply State.pickLocs_on | apply State.setMemStage_on | apply State.updFwd_on | apply State.tableFull_on
    | apply rep_ok | apply rep_bad | apply rep_ranges | apply rep_ite | decide

theorem bodyMcastCommit_on {kp : List Part} {b0 : State} {src : CmdSrc} {aon : Bool} {prune : Bool} {mgid : Nat} {count : Nat} {s : State} (hk : goesOn kp b0 s) (hq : ∀ p ∈ [.free, .fwd, .fw, .mbs, .fence, .events, .stats], p ∈ kp) :
    Rep.keeps kp b0 (bodyMcastCommit src aon prune mgid count s) := .after hk ((bodyMcastCommit_keeps src aon prune mgid count s).mono hq)

theorem bodyTableLookup_keeps (table : Nat) (key : List Byte) (s : State) :
    Rep.keeps [] s (bodyTableLookup table key s) := by
  unfold bodyTableLookup
  try dsimp only
  repeat' with_reducible first
    | apply goesOn.refl | apply rep_ok | apply rep_ranges | apply rep_ite | split

theorem bodyTableLookup_on {kp : List Part} {b0 : State} {table : Nat} {key : List Byte} {s : State} (hk : goesOn kp b0 s) (hq : ∀ p ∈ [], p ∈ kp) :
    Rep.keeps kp b0 (bodyTableLookup table key s) := .after hk ((bodyTableLookup_keeps table key s).mono hq)

theorem bodyTableReadIndex_keeps (table : Nat) (location : Nat) (s : State) :
    Rep.keeps [] s (bodyTableReadIndex table location s) := by
  unfold bodyTableReadIndex
  try dsimp only
  repeat' with_reducible first
    | apply goesOn.refl | apply rep_ok | apply rep_ranges | apply rep_ite | split

theorem bodyTableReadIndex_on {kp : List Part} {b0 : State} {table : Nat} {location : Nat} {s : State} (hk : goesOn kp b0 s) (hq : ∀ p ∈ [], p ∈ kp) :
    Rep.keeps kp b0 (bodyTableReadIndex table location s) := .after hk ((bodyTableReadIndex_keeps table location s).mono hq)

theorem State.emptyLocation_keeps (s : State) (t : Nat) (l : Nat) :
    goesOn [.fwd] s (State.emptyLocation s t l) := by
  unfold State.emptyLocation
  try dsimp only
  repeat' with_reducible first
    | apply goesOn.refl | apply State.updFwd_on | decide

theorem State.emptyLocation_on {kp : List Part} {b0 : State} {s : State} {t : Nat} {l : Nat} (hk : goesOn kp b0 s) (hq : ∀ p ∈ [.fwd], p ∈ kp) :
    goesOn kp b0 (State.emptyLocation s t l) := hk.trans ((State.emptyLocation_keeps s t l).mono hq)

theorem bodyTableClearLost_keeps (table : Nat) (location : Nat) (s : State) :
    Rep.keeps [.fwd] s (bodyTableClearLost table location s) := by
  unfold bodyTableClearLost
  try dsimp only
  repeat' with_reducible first
    | apply goesOn.refl | apply State.emptyLocation_on | apply rep_ok | apply rep_bad | apply rep_ranges | apply rep_ite | decide

theorem bodyTableClearLost_on {kp : List Part} {b0 : State} {table : Nat} {location : Nat} {s : State} (hk : goesOn kp b0 s) (hq : ∀ p ∈ [.fwd], p ∈ kp) :
    Rep.keeps kp b0 (bodyTableClearLost table location s) := .after hk ((bodyTableClearLost_keeps table location s).mono hq)

theorem bodyTableGetUsage_keeps (clear : Bool) (s : State) :
    Rep.keeps [.stats] s (bodyTableGetUsage clear s) := by
  unfold bodyTableGetUsage
  try dsimp only
  repeat' with_reducible first
    | apply goesOn.refl | apply keeps_ite | apply State.rebaseAll_on | apply rep_ok | decide

theorem bodyTableGetUsage_on {kp : List Part} {b0 : State} {clear : Bool} {s : State} (hk : goesOn kp b0 s) (hq : ∀ p ∈ [.stats], p ∈ kp) :
    Rep.keeps kp b0 (bodyTableGetUsage clear s) := .after hk ((bodyTableGetUsage_keeps clear s).mono hq)

theorem execVlanConfigure_keeps (src : CmdSrc) (enable : Bool) (l3 : Bool) (vid : Nat) (members : BitVec 256) (untagged : BitVec 256) (unknown : Nat) (floodMgid : Nat) (rmac : Nat) (s : State) :
    Out.keeps [.cmd, .hostMem, .glob, .fwd, .pair, .fw, .mbs, .fence, .events] s (execVlanConfigure src enable l3 vid members untagged unknown floodMgid rmac s) := by
  unfold execVlanConfigure
  try dsimp only
  repeat' first
    | with_reducible apply goesOn.refl | with_reducible apply out_next
    | (with_reducible apply keeps_runCmd; rotate_left 1; intro y) | with_reducible apply bodyVlanConfigure_on
    | with_reducible decide

theorem execVlanConfigure_on {kp : List Part} {b0 : State} {src : CmdSrc} {enable : Bool} {l3 : Bool} {vid : Nat} {members : BitVec 256} {untagged : BitVec 256} {unknown : Nat} {floodMgid : Nat} {rmac : Nat} {s : State} (hk : goesOn kp b0 s) (hq : ∀ p ∈ [.cmd, .hostMem, .glob, .fwd, .pair, .fw, .mbs, .fence, .events], p ∈ kp) :
    Out.keeps kp b0 (execVlanConfigure src enable l3 vid members untagged unknown floodMgid rmac s) := .after hk ((execVlanConfigure_keeps src enable l3 vid members untagged unknown floodMgid rmac s).mono hq)

theorem execPortSetPvid_keeps (src : CmdSrc) (port : Nat) (pvid : Nat) (s : State) :
    Out.keeps [.cmd, .hostMem, .glob, .ports, .pair, .fw, .mbs, .fence, .events] s (execPortSetPvid src port pvid s) := by
  unfold execPortSetPvid
  try dsimp only
  repeat' first
    | with_reducible apply goesOn.refl | with_reducible apply out_next
    | (with_reducible apply keeps_runCmd; rotate_left 1; intro y) | with_reducible apply bodyPortSetPvid_on
    | with_reducible decide

theorem execPortSetPvid_on {kp : List Part} {b0 : State} {src : CmdSrc} {port : Nat} {pvid : Nat} {s : State} (hk : goesOn kp b0 s) (hq : ∀ p ∈ [.cmd, .hostMem, .glob, .ports, .pair, .fw, .mbs, .fence, .events], p ∈ kp) :
    Out.keeps kp b0 (execPortSetPvid src port pvid s) := .after hk ((execPortSetPvid_keeps src port pvid s).mono hq)

theorem execRouterMacSet_keeps (src : CmdSrc) (index : Nat) (mac : Nat) (s : State) :
    Out.keeps [.cmd, .hostMem, .glob, .fwd, .pair, .fw, .mbs, .fence, .events] s (execRouterMacSet src index mac s) := by
  unfold execRouterMacSet
  try dsimp only
  repeat' first
    | with_reducible apply goesOn.refl | with_reducible apply out_next
    | (with_reducible apply keeps_runCmd; rotate_left 1; intro y) | with_reducible apply bodyRouterMacSet_on
    | with_reducible decide

theorem execRouterMacSet_on {kp : List Part} {b0 : State} {src : CmdSrc} {index : Nat} {mac : Nat} {s : State} (hk : goesOn kp b0 s) (hq : ∀ p ∈ [.cmd, .hostMem, .glob, .fwd, .pair, .fw, .mbs, .fence, .events], p ∈ kp) :
    Out.keeps kp b0 (execRouterMacSet src index mac s) := .after hk ((execRouterMacSet_keeps src index mac s).mono hq)

theorem execL2Add_keeps (src : CmdSrc) (replace : Bool) (vid : Nat) (da : Nat) (result : Nat) (s : State) :
    Out.keeps [.free, .cmd, .hostMem, .glob, .fwd, .pair, .fw, .mbs, .fence, .events] s (execL2Add src replace vid da result s) := by
  unfold execL2Add
  try dsimp only
  repeat' first
    | with_reducible apply goesOn.refl | with_reducible apply out_next
    | (with_reducible apply keeps_runCmd; rotate_left 1; intro y) | with_reducible apply bodyL2Add_on | with_reducible decide

theorem execL2Add_on {kp : List Part} {b0 : State} {src : CmdSrc} {replace : Bool} {vid : Nat} {da : Nat} {result : Nat} {s : State} (hk : goesOn kp b0 s) (hq : ∀ p ∈ [.free, .cmd, .hostMem, .glob, .fwd, .pair, .fw, .mbs, .fence, .events], p ∈ kp) :
    Out.keeps kp b0 (execL2Add src replace vid da result s) := .after hk ((execL2Add_keeps src replace vid da result s).mono hq)

theorem execL2Delete_keeps (src : CmdSrc) (vid : Nat) (da : Nat) (s : State) :
    Out.keeps [.cmd, .hostMem, .glob, .fwd, .pair, .fw, .mbs, .fence, .events] s (execL2Delete src vid da s) := by
  unfold execL2Delete
  try dsimp only
  repeat' first
    | with_reducible apply goesOn.refl | with_reducible apply out_next
    | (with_reducible apply keeps_runCmd; rotate_left 1; intro y) | with_reducible apply bodyL2Delete_on | with_reducible decide

theorem execL2Delete_on {kp : List Part} {b0 : State} {src : CmdSrc} {vid : Nat} {da : Nat} {s : State} (hk : goesOn kp b0 s) (hq : ∀ p ∈ [.cmd, .hostMem, .glob, .fwd, .pair, .fw, .mbs, .fence, .events], p ∈ kp) :
    Out.keeps kp b0 (execL2Delete src vid da s) := .after hk ((execL2Delete_keeps src vid da s).mono hq)

theorem execNhWrite_keeps (src : CmdSrc) (decTtl : Bool) (nh : Nat) (port : Nat) (vid : Nat) (da : Nat) (rmac : Nat) (s : State) :
    Out.keeps [.cmd, .hostMem, .glob, .fwd, .pair, .fw, .mbs, .fence, .events] s (execNhWrite src decTtl nh port vid da rmac s) := by
  unfold execNhWrite
  try dsimp only
  repeat' first
    | with_reducible apply goesOn.refl | with_reducible apply out_next
    | (with_reducible apply keeps_runCmd; rotate_left 1; intro y) | with_reducible apply bodyNhWrite_on | with_reducible decide

theorem execNhWrite_on {kp : List Part} {b0 : State} {src : CmdSrc} {decTtl : Bool} {nh : Nat} {port : Nat} {vid : Nat} {da : Nat} {rmac : Nat} {s : State} (hk : goesOn kp b0 s) (hq : ∀ p ∈ [.cmd, .hostMem, .glob, .fwd, .pair, .fw, .mbs, .fence, .events], p ∈ kp) :
    Out.keeps kp b0 (execNhWrite src decTtl nh port vid da rmac s) := .after hk ((execNhWrite_keeps src decTtl nh port vid da rmac s).mono hq)

theorem execNhDelete_keeps (src : CmdSrc) (nh : Nat) (s : State) :
    Out.keeps [.cmd, .hostMem, .glob, .fwd, .pair, .fw, .mbs, .fence, .events] s (execNhDelete src nh s) := by
  unfold execNhDelete
  try dsimp only
  repeat' first
    | with_reducible apply goesOn.refl | with_reducible apply out_next
    | (with_reducible apply keeps_runCmd; rotate_left 1; intro y) | with_reducible apply bodyNhDelete_on | with_reducible decide

theorem execNhDelete_on {kp : List Part} {b0 : State} {src : CmdSrc} {nh : Nat} {s : State} (hk : goesOn kp b0 s) (hq : ∀ p ∈ [.cmd, .hostMem, .glob, .fwd, .pair, .fw, .mbs, .fence, .events], p ∈ kp) :
    Out.keeps kp b0 (execNhDelete src nh s) := .after hk ((execNhDelete_keeps src nh s).mono hq)

theorem execHostAdd_keeps (src : CmdSrc) (replace : Bool) (family : Nat) (addr : Nat) (result : Nat) (s : State) :
    Out.keeps [.free, .cmd, .hostMem, .glob, .fwd, .pair, .fw, .mbs, .fence, .events] s (execHostAdd src replace family addr result s) := by
  unfold execHostAdd
  try dsimp only
  repeat' first
    | with_reducible apply goesOn.refl | with_reducible apply out_next
    | (with_reducible apply keeps_runCmd; rotate_left 1; intro y) | with_reducible apply bodyHostAdd_on | with_reducible decide

theorem execHostAdd_on {kp : List Part} {b0 : State} {src : CmdSrc} {replace : Bool} {family : Nat} {addr : Nat} {result : Nat} {s : State} (hk : goesOn kp b0 s) (hq : ∀ p ∈ [.free, .cmd, .hostMem, .glob, .fwd, .pair, .fw, .mbs, .fence, .events], p ∈ kp) :
    Out.keeps kp b0 (execHostAdd src replace family addr result s) := .after hk ((execHostAdd_keeps src replace family addr result s).mono hq)

theorem execHostDelete_keeps (src : CmdSrc) (family : Nat) (addr : Nat) (s : State) :
    Out.keeps [.cmd, .hostMem, .glob, .fwd, .pair, .fw, .mbs, .fence, .events] s (execHostDelete src family addr s) := by
  unfold execHostDelete
  try dsimp only
  repeat' first
    | with_reducible apply goesOn.refl | with_reducible apply out_next
    | (with_reducible apply keeps_runCmd; rotate_left 1; intro y) | with_reducible apply bodyHostDelete_on | with_reducible decide

theorem execHostDelete_on {kp : List Part} {b0 : State} {src : CmdSrc} {family : Nat} {addr : Nat} {s : State} (hk : goesOn kp b0 s) (hq : ∀ p ∈ [.cmd, .hostMem, .glob, .fwd, .pair, .fw, .mbs, .fence, .events], p ∈ kp) :
    Out.keeps kp b0 (execHostDelete src family addr s) := .after hk ((execHostDelete_keeps src family addr s).mono hq)

theorem execLpmAdd_keeps (src : CmdSrc) (replace : Bool) (family : Nat) (pfx : Nat) (length : Nat) (result : Nat) (s : State) :
    Out.keeps [.free, .cmd, .hostMem, .glob, .fwd, .pair, .fw, .mbs, .fence, .events] s (execLpmAdd src replace family pfx length result s) := by
  unfold execLpmAdd
  try dsimp only
  repeat' first
    | with_reducible apply goesOn.refl | with_reducible apply out_next
    | (with_reducible apply keeps_runCmd; rotate_left 1; intro y) | with_reducible apply bodyLpmAdd_on | with_reducible decide

theorem execLpmAdd_on {kp : List Part} {b0 : State} {src : CmdSrc} {replace : Bool} {family : Nat} {pfx : Nat} {length : Nat} {result : Nat} {s : State} (hk : goesOn kp b0 s) (hq : ∀ p ∈ [.free, .cmd, .hostMem, .glob, .fwd, .pair, .fw, .mbs, .fence, .events], p ∈ kp) :
    Out.keeps kp b0 (execLpmAdd src replace family pfx length result s) := .after hk ((execLpmAdd_keeps src replace family pfx length result s).mono hq)

theorem execLpmDelete_keeps (src : CmdSrc) (family : Nat) (pfx : Nat) (length : Nat) (s : State) :
    Out.keeps [.cmd, .hostMem, .glob, .fwd, .pair, .fw, .mbs, .fence, .events] s (execLpmDelete src family pfx length s) := by
  unfold execLpmDelete
  try dsimp only
  repeat' first
    | with_reducible apply goesOn.refl | with_reducible apply out_next
    | (with_reducible apply keeps_runCmd; rotate_left 1; intro y) | with_reducible apply bodyLpmDelete_on | with_reducible decide

theorem execLpmDelete_on {kp : List Part} {b0 : State} {src : CmdSrc} {family : Nat} {pfx : Nat} {length : Nat} {s : State} (hk : goesOn kp b0 s) (hq : ∀ p ∈ [.cmd, .hostMem, .glob, .fwd, .pair, .fw, .mbs, .fence, .events], p ∈ kp) :
    Out.keeps kp b0 (execLpmDelete src family pfx length s) := .after hk ((execLpmDelete_keeps src family pfx length s).mono hq)

theorem execEcmpDelete_keeps (src : CmdSrc) (group : Nat) (s : State) :
    Out.keeps [.cmd, .hostMem, .glob, .fwd, .pair, .fw, .mbs, .fence, .events] s (execEcmpDelete src group s) := by
  unfold execEcmpDelete
  try dsimp only
  repeat' first
    | with_reducible apply goesOn.refl | with_reducible apply out_next
    | (with_reducible apply keeps_runCmd; rotate_left 1; intro y) | with_reducible apply bodyEcmpDelete_on | with_reducible decide

theorem execEcmpDelete_on {kp : List Part} {b0 : State} {src : CmdSrc} {group : Nat} {s : State} (hk : goesOn kp b0 s) (hq : ∀ p ∈ [.cmd, .hostMem, .glob, .fwd, .pair, .fw, .mbs, .fence, .events], p ∈ kp) :
    Out.keeps kp b0 (execEcmpDelete src group s) := .after hk ((execEcmpDelete_keeps src group s).mono hq)

theorem execTableLookup_keeps (src : CmdSrc) (table : Nat) (key : List Byte) (s : State) :
    Out.keeps [.cmd, .hostMem, .glob, .pair, .fw, .mbs, .fence, .events] s (execTableLookup src table key s) := by
  unfold execTableLookup
  try dsimp only
  repeat' first
    | with_reducible apply goesOn.refl | with_reducible apply out_next
    | (with_reducible apply keeps_runCmd; rotate_left 1; intro y) | with_reducible apply bodyTableLookup_on
    | with_reducible decide

theorem execTableLookup_on {kp : List Part} {b0 : State} {src : CmdSrc} {table : Nat} {key : List Byte} {s : State} (hk : goesOn kp b0 s) (hq : ∀ p ∈ [.cmd, .hostMem, .glob, .pair, .fw, .mbs, .fence, .events], p ∈ kp) :
    Out.keeps kp b0 (execTableLookup src table key s) := .after hk ((execTableLookup_keeps src table key s).mono hq)

theorem execTableReadIndex_keeps (src : CmdSrc) (table : Nat) (location : Nat) (s : State) :
    Out.keeps [.cmd, .hostMem, .glob, .pair, .fw, .mbs, .fence, .events] s (execTableReadIndex src table location s) := by
  unfold execTableReadIndex
  try dsimp only
  repeat' first
    | with_reducible apply goesOn.refl | with_reducible apply out_next
    | (with_reducible apply keeps_runCmd; rotate_left 1; intro y) | with_reducible apply bodyTableReadIndex_on
    | with_reducible decide

theorem execTableReadIndex_on {kp : List Part} {b0 : State} {src : CmdSrc} {table : Nat} {location : Nat} {s : State} (hk : goesOn kp b0 s) (hq : ∀ p ∈ [.cmd, .hostMem, .glob, .pair, .fw, .mbs, .fence, .events], p ∈ kp) :
    Out.keeps kp b0 (execTableReadIndex src table location s) := .after hk ((execTableReadIndex_keeps src table location s).mono hq)

theorem execTableClearLost_keeps (src : CmdSrc) (table : Nat) (location : Nat) (s : State) :
    Out.keeps [.cmd, .hostMem, .glob, .fwd, .pair, .fw, .mbs, .fence, .events] s (execTableClearLost src table location s) := by
  unfold execTableClearLost
  try dsimp only
  repeat' first
    | with_reducible apply goesOn.refl | with_reducible apply out_next
    | (with_reducible apply keeps_runCmd; rotate_left 1; intro y) | with_reducible apply bodyTableClearLost_on
    | with_reducible decide

theorem execTableClearLost_on {kp : List Part} {b0 : State} {src : CmdSrc} {table : Nat} {location : Nat} {s : State} (hk : goesOn kp b0 s) (hq : ∀ p ∈ [.cmd, .hostMem, .glob, .fwd, .pair, .fw, .mbs, .fence, .events], p ∈ kp) :
    Out.keeps kp b0 (execTableClearLost src table location s) := .after hk ((execTableClearLost_keeps src table location s).mono hq)

theorem execTableGetUsage_keeps (src : CmdSrc) (clear : Bool) (s : State) :
    Out.keeps [.cmd, .hostMem, .glob, .pair, .fw, .mbs, .fence, .events, .stats] s (execTableGetUsage src clear s) := by
  unfold execTableGetUsage
  try dsimp only
  repeat' first
    | with_reducible apply goesOn.refl | with_reducible apply out_next
    | (with_reducible apply keeps_runCmd; rotate_left 1; intro y) | with_reducible apply bodyTableGetUsage_on
    | with_reducible decide

theorem execTableGetUsage_on {kp : List Part} {b0 : State} {src : CmdSrc} {clear : Bool} {s : State} (hk : goesOn kp b0 s) (hq : ∀ p ∈ [.cmd, .hostMem, .glob, .pair, .fw, .mbs, .fence, .events, .stats], p ∈ kp) :
    Out.keeps kp b0 (execTableGetUsage src clear s) := .after hk ((execTableGetUsage_keeps src clear s).mono hq)

theorem execMemberStage_keeps (src : CmdSrc) (first : Nat) (count : Nat) (members : List Member) (s : State) :
    Out.keeps [.cmd, .hostMem, .glob, .pair, .fw, .mbs, .fence, .events, .stats] s (execMemberStage src first count members s) := by
  unfold execMemberStage
  try dsimp only
  repeat' first
    | with_reducible apply goesOn.refl | with_reducible apply out_next
    | (with_reducible apply keeps_runCmd; rotate_left 1; intro y) | with_reducible apply bodyMemberStage_on
    | with_reducible decide

theorem execMemberStage_on {kp : List Part} {b0 : State} {src : CmdSrc} {first : Nat} {count : Nat} {members : List Member} {s : State} (hk : goesOn kp b0 s) (hq : ∀ p ∈ [.cmd, .hostMem, .glob, .pair, .fw, .mbs, .fence, .events, .stats], p ∈ kp) :
    Out.keeps kp b0 (execMemberStage src first count members s) := .after hk ((execMemberStage_keeps src first count members s).mono hq)

theorem execEcmpCommit_keeps (src : CmdSrc) (group : Nat) (count : Nat) (profile : Nat) (s : State) :
    Out.keeps [.free, .cmd, .hostMem, .glob, .fwd, .pair, .fw, .mbs, .fence, .events, .stats] s (execEcmpCommit src group count profile s) := by
  unfold execEcmpCommit
  try dsimp only
  repeat' first
    | with_reducible apply goesOn.refl | with_reducible apply out_next
    | (with_reducible apply keeps_runCmd; rotate_left 1; intro y) | with_reducible apply bodyEcmpCommit_on | with_reducible decide

theorem execEcmpCommit_on {kp : List Part} {b0 : State} {src : CmdSrc} {group : Nat} {count : Nat} {profile : Nat} {s : State} (hk : goesOn kp b0 s) (hq : ∀ p ∈ [.free, .cmd, .hostMem, .glob, .fwd, .pair, .fw, .mbs, .fence, .events, .stats], p ∈ kp) :
    Out.keeps kp b0 (execEcmpCommit src group count profile s) := .after hk ((execEcmpCommit_keeps src group count profile s).mono hq)

theorem execMcastCommit_keeps (src : CmdSrc) (aon : Bool) (prune : Bool) (mgid : Nat) (count : Nat) (s : State) :
    Out.keeps [.free, .cmd, .hostMem, .glob, .fwd, .pair, .fw, .mbs, .fence, .events, .stats] s (execMcastCommit src aon prune mgid count s) := by
  unfold execMcastCommit
  try dsimp only
  repeat' first
    | with_reducible apply goesOn.refl | with_reducible apply out_next
    | (with_reducible apply keeps_runCmd; rotate_left 1; intro y) | with_reducible apply bodyMcastCommit_on
    | with_reducible decide

theorem execMcastCommit_on {kp : List Part} {b0 : State} {src : CmdSrc} {aon : Bool} {prune : Bool} {mgid : Nat} {count : Nat} {s : State} (hk : goesOn kp b0 s) (hq : ∀ p ∈ [.free, .cmd, .hostMem, .glob, .fwd, .pair, .fw, .mbs, .fence, .events, .stats], p ∈ kp) :
    Out.keeps kp b0 (execMcastCommit src aon prune mgid count s) := .after hk ((execMcastCommit_keeps src aon prune mgid count s).mono hq)

theorem State.loseLocation_keeps (s : State) (t : Nat) (l : Nat) (keyOk : Bool) :
    goesOn [.fwd, .fence, .events] s (State.loseLocation s t l keyOk) := by
  unfold State.loseLocation
  try dsimp only
  repeat' with_reducible first
    | apply goesOn.refl | apply keeps_ite | apply State.raise_on | apply State.updFwd_on | decide

theorem State.loseLocation_on {kp : List Part} {b0 : State} {s : State} {t : Nat} {l : Nat} {keyOk : Bool} (hk : goesOn kp b0 s) (hq : ∀ p ∈ [.fwd, .fence, .events], p ∈ kp) :
    goesOn kp b0 (State.loseLocation s t l keyOk) := hk.trans ((State.loseLocation_keeps s t l keyOk).mono hq)

theorem execTableScrub_keeps (table : Nat) (location : Nat) (fixed : Bool) (keyOk : Bool) (s : State) :
    Out.keeps [.fwd, .fence, .events, .stats] s (execTableScrub table location fixed keyOk s) := by
  unfold execTableScrub
  try dsimp only
  repeat' with_reducible first
    | apply goesOn.refl | apply State.count_on | apply State.loseLocation_on | apply State.updFwd_on | apply out_next
    | apply out_fault | apply out_ite | decide

theorem execTableScrub_on {kp : List Part} {b0 : State} {table : Nat} {location : Nat} {fixed : Bool} {keyOk : Bool} {s : State} (hk : goesOn kp b0 s) (hq : ∀ p ∈ [.fwd, .fence, .events, .stats], p ∈ kp) :
    Out.keeps kp b0 (execTableScrub table location fixed keyOk s) := .after hk ((execTableScrub_keeps table location fixed keyOk s).mono hq)

theorem execTableRebuilt_keeps (table : Nat) (location : Nat) (s : State) :
    Out.keeps [.fwd, .fence, .events] s (execTableRebuilt table location s) := by
  unfold execTableRebuilt
  try dsimp only
  repeat' with_reducible first
    | apply goesOn.refl | apply State.raise_on | apply State.updFwd_on | apply out_next | apply out_fault | apply out_ite | decide

theorem execTableRebuilt_on {kp : List Part} {b0 : State} {table : Nat} {location : Nat} {s : State} (hk : goesOn kp b0 s) (hq : ∀ p ∈ [.fwd, .fence, .events], p ∈ kp) :
    Out.keeps kp b0 (execTableRebuilt table location s) := .after hk ((execTableRebuilt_keeps table location s).mono hq)

theorem execAclScrub_keeps (failing : List Nat) (s : State) :
    Out.keeps [.parse, .fence, .events] s (execAclScrub failing s) := by
  unfold execAclScrub
  try dsimp only
  repeat' first
    | with_reducible apply goesOn.refl | with_reducible assumption | with_reducible apply keeps_ite
    | (with_reducible apply keeps_foldl; rotate_left 1; intro y a hy) | with_reducible apply State.raise_on
    | with_reducible apply State.updParser_on | with_reducible apply out_next | with_reducible apply out_fault
    | with_reducible apply out_ite | with_reducible decide | split

theorem execAclScrub_on {kp : List Part} {b0 : State} {failing : List Nat} {s : State} (hk : goesOn kp b0 s) (hq : ∀ p ∈ [.parse, .fence, .events], p ∈ kp) :
    Out.keeps kp b0 (execAclScrub failing s) := .after hk ((execAclScrub_keeps failing s).mono hq)

end Sys2Proof.Machine
end

