-- ==== Sys2Proof/Laws/Keeps/Dup.lean ====
section
/-!
SUPPORT. Which parts of the state each operation of Dup.lean touches.
-/
namespace Sys2Proof.Machine

theorem State.dupTouch_keeps (s : State) (src : Nat) (q : Nat) :
    goesOn [.pair, .fence, .events] s (State.dupTouch s src q).1 := by
  unfold State.dupTouch
  try dsimp only
  repeat' with_reducible first
    | apply goesOn.refl | apply keeps_ite1 | apply State.raise_on | apply State.updDup_on | decide | apply kset_pair

theorem State.dupTouch_on {kp : List Part} {b0 : State} {s : State} {src : Nat} {q : Nat} (hk : goesOn kp b0 s) (hq : ∀ p ∈ [.pair, .fence, .events], p ∈ kp) :
    goesOn kp b0 (State.dupTouch s src q).1 := hk.trans ((State.dupTouch_keeps s src q).mono hq)

theorem State.dupJudge_keeps (s : State) (src : Nat) (q : Nat) :
    goesOn [.pair, .stats] s (State.dupJudge s src q).1 := by
  unfold State.dupJudge
  repeat' with_reducible first
    | apply goesOn.refl | apply keeps_ite1 | apply State.count_on | apply State.pairCount_on | apply State.updDup_on | decide

theorem State.dupJudge_on {kp : List Part} {b0 : State} {s : State} {src : Nat} {q : Nat} (hk : goesOn kp b0 s) (hq : ∀ p ∈ [.pair, .stats], p ∈ kp) :
    goesOn kp b0 (State.dupJudge s src q).1 := hk.trans ((State.dupJudge_keeps s src q).mono hq)

theorem State.dupPass_keeps (s : State) (src : Nat) (q : Nat) :
    goesOn [.pair, .events, .stats] s (State.dupPass s src q).1 := by
  suffices h : Fst.keeps [.pair, .events, .stats] s (State.dupPass s src q) from h
  rw [State.dupPass.eq_def]
  refine fst_ite ((State.dupJudge_keeps s src q).mono (by decide)) (fst_mk ?_)
  have h := (State.hwCount_keeps s 0x20002C s.pair.dupFullPass).mono (qs := [.pair, .events, .stats]) (by decide)
  exact kset_pair h (by decide)

theorem State.dupPass_on {kp : List Part} {b0 : State} {s : State} {src : Nat} {q : Nat} (hk : goesOn kp b0 s) (hq : ∀ p ∈ [.pair, .events, .stats], p ∈ kp) :
    goesOn kp b0 (State.dupPass s src q).1 := hk.trans ((State.dupPass_keeps s src q).mono hq)

theorem execDupEntryExpiry_keeps (source : Nat) (s : State) :
    Out.keeps [.clock, .free, .cmd, .hostMem, .pair, .fw, .mbs, .fence, .events, .stats] s (execDupEntryExpiry source s) := by
  unfold execDupEntryExpiry
  try dsimp only
  repeat' with_reducible first
    | apply goesOn.refl | apply State.advance_on | apply kset_pair | apply out_next | apply out_fault | apply out_ite | decide
    | split

theorem execDupEntryExpiry_on {kp : List Part} {b0 : State} {source : Nat} {s : State} (hk : goesOn kp b0 s) (hq : ∀ p ∈ [.clock, .free, .cmd, .hostMem, .pair, .fw, .mbs, .fence, .events, .stats], p ∈ kp) :
    Out.keeps kp b0 (execDupEntryExpiry source s) := .after hk ((execDupEntryExpiry_keeps source s).mono hq)

theorem State.closeBlock_keeps (s : State) (src : Nat) (b : Nat) :
    goesOn [.time, .pair, .fence, .events] s (State.closeBlock s src b) := by
  unfold State.closeBlock
  try dsimp only
  repeat' with_reducible first
    | apply goesOn.refl | apply keeps_ite | apply State.sendCtl_on | apply State.sendOutcome_on | apply State.updBlock_on | decide
    | split

theorem State.closeBlock_on {kp : List Part} {b0 : State} {s : State} {src : Nat} {b : Nat} (hk : goesOn kp b0 s) (hq : ∀ p ∈ [.time, .pair, .fence, .events], p ∈ kp) :
    goesOn kp b0 (State.closeBlock s src b) := hk.trans ((State.closeBlock_keeps s src b).mono hq)

theorem State.openBlock_keeps (s : State) (src : Nat) (b : Nat) :
    goesOn [.pair] s (State.openBlock s src b) := by
  unfold State.openBlock
  try dsimp only
  repeat' with_reducible first
    | apply goesOn.refl | apply State.updDup_on | decide

theorem State.openBlock_on {kp : List Part} {b0 : State} {s : State} {src : Nat} {b : Nat} (hk : goesOn kp b0 s) (hq : ∀ p ∈ [.pair], p ∈ kp) :
    goesOn kp b0 (State.openBlock s src b) := hk.trans ((State.openBlock_keeps s src b).mono hq)

theorem State.foldFrame_keeps (s : State) (src : Nat) (q : Nat) (mask : BitVec 256) (result : BitVec 32) (tc : Nat) :
    goesOn [.time, .pair, .fence, .events] s (State.foldFrame s src q mask result tc) := by
  unfold State.foldFrame
  try dsimp only
  repeat' with_reducible first
    | apply goesOn.refl | apply State.closeBlock_on | apply State.openBlock_on | apply State.updBlock_on | decide

theorem State.foldFrame_on {kp : List Part} {b0 : State} {s : State} {src : Nat} {q : Nat} {mask : BitVec 256} {result : BitVec 32} {tc : Nat} (hk : goesOn kp b0 s) (hq : ∀ p ∈ [.time, .pair, .fence, .events], p ∈ kp) :
    goesOn kp b0 (State.foldFrame s src q mask result tc) := hk.trans ((State.foldFrame_keeps s src q mask result tc).mono hq)

theorem State.foldXdrop_keeps (s : State) (src : Nat) (q : Nat) :
    goesOn [.pair] s (State.foldXdrop s src q) := by
  unfold State.foldXdrop
  try dsimp only
  repeat' with_reducible first
    | apply goesOn.refl | apply State.openBlock_on | apply State.updBlock_on | decide

theorem State.foldXdrop_on {kp : List Part} {b0 : State} {s : State} {src : Nat} {q : Nat} (hk : goesOn kp b0 s) (hq : ∀ p ∈ [.pair], p ∈ kp) :
    goesOn kp b0 (State.foldXdrop s src q) := hk.trans ((State.foldXdrop_keeps s src q).mono hq)

theorem State.xfeedDrop_keeps (s : State) :
    goesOn [.pair, .fence, .events, .stats] s (State.xfeedDrop s) := by
  unfold State.xfeedDrop
  try dsimp only
  repeat' with_reducible first
    | apply goesOn.refl | apply keeps_ite | apply State.count_on | apply State.pairCount_on | apply State.raise_on
    | apply kset_pair | decide

theorem State.xfeedDrop_on {kp : List Part} {b0 : State} {s : State} (hk : goesOn kp b0 s) (hq : ∀ p ∈ [.pair, .fence, .events, .stats], p ∈ kp) :
    goesOn kp b0 (State.xfeedDrop s) := hk.trans ((State.xfeedDrop_keeps s).mono hq)

theorem State.xlinkTake_keeps (s : State) (xg : Bool) (cells : Nat) :
    goesOn [.pair, .fence, .events, .stats] s (State.xlinkTake s xg cells).1 := by
  unfold State.xlinkTake
  try dsimp only
  repeat' with_reducible first
    | apply goesOn.refl | apply keeps_ite1 | apply State.xfeedDrop_on | decide | apply kset_pair

theorem State.xlinkTake_on {kp : List Part} {b0 : State} {s : State} {xg : Bool} {cells : Nat} (hk : goesOn kp b0 s) (hq : ∀ p ∈ [.pair, .fence, .events, .stats], p ∈ kp) :
    goesOn kp b0 (State.xlinkTake s xg cells).1 := hk.trans ((State.xlinkTake_keeps s xg cells).mono hq)

end Sys2Proof.Machine
end

