-- ==== Sys2Proof/Laws/Keeps/Admit.lean ====
section
/-!
SUPPORT. Which parts of the state each operation of Admit.lean touches.
-/
namespace Sys2Proof.Machine

theorem State.lookEcc_keeps (s : State) (p : Nat) (tc : Nat) :
    goesOn [.stats] s (State.lookEcc s p tc).1 := by
  unfold State.lookEcc
  try dsimp only
  repeat' with_reducible first
    | apply goesOn.refl | apply State.count_on | decide

theorem State.lookEcc_on {kp : List Part} {b0 : State} {s : State} {p : Nat} {tc : Nat} (hk : goesOn kp b0 s) (hq : ∀ p ∈ [.stats], p ∈ kp) :
    goesOn kp b0 (State.lookEcc s p tc).1 := hk.trans ((State.lookEcc_keeps s p tc).mono hq)

theorem State.lookDrop_keeps (s : State) (p : Nat) (off : Nat) (tc : Nat) (r : BitVec 32) :
    goesOn [.stats] s (State.lookDrop s p off tc r).1 := by
  unfold State.lookDrop
  try dsimp only
  repeat' with_reducible first
    | apply goesOn.refl | apply State.count_on | decide

theorem State.lookDrop_on {kp : List Part} {b0 : State} {s : State} {p : Nat} {off : Nat} {tc : Nat} {r : BitVec 32} (hk : goesOn kp b0 s) (hq : ∀ p ∈ [.stats], p ∈ kp) :
    goesOn kp b0 (State.lookDrop s p off tc r).1 := hk.trans ((State.lookDrop_keeps s p off tc r).mono hq)

theorem State.rewriteOut_keeps (s : State) (x : LookIn) (tc : Nat) (o : OutSpec) :
    goesOn [.stats] s (State.rewriteOut s x tc o).1 := by
  unfold State.rewriteOut
  try dsimp only
  repeat' with_reducible first
    | apply goesOn.refl | apply State.count_on | decide | split

theorem State.rewriteOut_on {kp : List Part} {b0 : State} {s : State} {x : LookIn} {tc : Nat} {o : OutSpec} (hk : goesOn kp b0 s) (hq : ∀ p ∈ [.stats], p ∈ kp) :
    goesOn kp b0 (State.rewriteOut s x tc o).1 := hk.trans ((State.rewriteOut_keeps s x tc o).mono hq)

theorem State.rewriteAll_keeps (kk : List OutSpec) (s : State) (x : LookIn) (tc : Nat) :
    goesOn [.stats] s (State.rewriteAll s x tc kk).1 := by
  induction kk generalizing s x tc with
  | nil => exact .refl _ _
  | cons ka kk ih =>
    have ihon : ∀ {b0 : State} (s : State) (x : LookIn) (tc : Nat), goesOn [.stats] b0 s → goesOn [.stats] b0 (State.rewriteAll s x tc kk).1 := fun s x tc h => h.trans (ih _ _ _ )
    unfold State.rewriteAll
    try dsimp only
    repeat' with_reducible first
      | apply ihon | apply goesOn.refl | apply State.rewriteOut_on | (apply keeps_fst; case e => assumption) | decide | split

theorem State.rewriteAll_on {kp : List Part} {b0 : State} {s : State} {x : LookIn} {tc : Nat} {kk : List OutSpec} (hk : goesOn kp b0 s) (hq : ∀ p ∈ [.stats], p ∈ kp) :
    goesOn kp b0 (State.rewriteAll s x tc kk).1 := hk.trans ((State.rewriteAll_keeps kk s x tc).mono hq)

theorem State.lookOut_keeps (s : State) (x : LookIn) (tc : Nat) (r : BitVec 32) (os : List OutSpec) (g : Option (Nat × Bool)) :
    goesOn [.stats] s (State.lookOut s x tc r os g).1 := by
  unfold State.lookOut
  try dsimp only
  repeat' with_reducible first
    | apply goesOn.refl | apply State.lookEcc_on | apply State.rewriteAll_on | (apply keeps_fst; case e => assumption) | decide
    | split

theorem State.lookOut_on {kp : List Part} {b0 : State} {s : State} {x : LookIn} {tc : Nat} {r : BitVec 32} {os : List OutSpec} {g : Option (Nat × Bool)} (hk : goesOn kp b0 s) (hq : ∀ p ∈ [.stats], p ∈ kp) :
    goesOn kp b0 (State.lookOut s x tc r os g).1 := hk.trans ((State.lookOut_keeps s x tc r os g).mono hq)

theorem State.steerEvent_keeps (s : State) (prof : Nat) (idx : Nat) (absent : Bool) :
    goesOn [.parse, .fence, .events] s (State.steerEvent s prof idx absent) := by
  unfold State.steerEvent
  try dsimp only
  repeat' with_reducible first
    | apply goesOn.refl | apply keeps_ite | apply State.raise_on | apply State.updParser_on | decide

theorem State.steerEvent_on {kp : List Part} {b0 : State} {s : State} {prof : Nat} {idx : Nat} {absent : Bool} (hk : goesOn kp b0 s) (hq : ∀ p ∈ [.parse, .fence, .events], p ∈ kp) :
    goesOn kp b0 (State.steerEvent s prof idx absent) := hk.trans ((State.steerEvent_keeps s prof idx absent).mono hq)

theorem State.steerBy_keeps (s : State) (p : Nat) (prof : Nat) (k : BitVec 640) (ecmp : Bool) :
    goesOn [.parse, .fence, .events, .stats] s (State.steerBy s p prof k ecmp).1 := by
  unfold State.steerBy
  try dsimp only
  repeat' with_reducible first
    | apply goesOn.refl | apply keeps_ite | apply State.count_on | apply State.steerEvent_on | decide | split

theorem State.steerBy_on {kp : List Part} {b0 : State} {s : State} {p : Nat} {prof : Nat} {k : BitVec 640} {ecmp : Bool} (hk : goesOn kp b0 s) (hq : ∀ p ∈ [.parse, .fence, .events, .stats], p ∈ kp) :
    goesOn kp b0 (State.steerBy s p prof k ecmp).1 := hk.trans ((State.steerBy_keeps s p prof k ecmp).mono hq)

theorem State.expand_keeps (s : State) (x : LookIn) (tc : Nat) (vid : Nat) (routed : Bool) (direct : Bool) (member : Option Nat) (r : BitVec 32) :
    goesOn [.stats] s (State.expand s x tc vid routed direct member r).1 := by
  unfold State.expand
  try dsimp only
  repeat' with_reducible first
    | apply goesOn.refl | apply keeps_ite1 | apply State.count_on | apply State.lookDrop_on | apply State.lookEcc_on
    | apply State.lookOut_on | decide | split

theorem State.expand_on {kp : List Part} {b0 : State} {s : State} {x : LookIn} {tc : Nat} {vid : Nat} {routed : Bool} {direct : Bool} {member : Option Nat} {r : BitVec 32} (hk : goesOn kp b0 s) (hq : ∀ p ∈ [.stats], p ∈ kp) :
    goesOn kp b0 (State.expand s x tc vid routed direct member r).1 := hk.trans ((State.expand_keeps s x tc vid routed direct member r).mono hq)

theorem State.steerAndExpand_keeps (s : State) (x : LookIn) (vid : Nat) (routed : Bool) (held : BitVec 32) (miss : Option Nat) :
    goesOn [.parse, .fence, .events, .stats] s (State.steerAndExpand s x vid routed held miss).1 := by
  unfold State.steerAndExpand
  try dsimp only
  repeat' with_reducible first
    | apply goesOn.refl | apply keeps_ite1 | apply State.expand_on | apply State.lookDrop_on | apply State.lookEcc_on
    | apply State.steerBy_on | decide | split

theorem State.steerAndExpand_on {kp : List Part} {b0 : State} {s : State} {x : LookIn} {vid : Nat} {routed : Bool} {held : BitVec 32} {miss : Option Nat} (hk : goesOn kp b0 s) (hq : ∀ p ∈ [.parse, .fence, .events, .stats], p ∈ kp) :
    goesOn kp b0 (State.steerAndExpand s x vid routed held miss).1 := hk.trans ((State.steerAndExpand_keeps s x vid routed held miss).mono hq)

theorem State.look_keeps (s : State) (x : LookIn) :
    goesOn [.parse, .fence, .events, .stats] s (State.look s x).1 := by
  unfold State.look
  try dsimp only
  repeat' with_reducible first
    | apply goesOn.refl | apply keeps_ite1 | apply State.lookDrop_on | apply State.lookEcc_on | apply State.steerAndExpand_on
    | decide | split

theorem State.look_on {kp : List Part} {b0 : State} {s : State} {x : LookIn} (hk : goesOn kp b0 s) (hq : ∀ p ∈ [.parse, .fence, .events, .stats], p ∈ kp) :
    goesOn kp b0 (State.look s x).1 := hk.trans ((State.look_keeps s x).mono hq)

theorem State.admitCopy_keeps (s : State) (n : Nat) (f : Frame) (c : CopyPlan) :
    goesOn [.core, .contracts, .stats] s (State.admitCopy s n f c) := by
  unfold State.admitCopy
  try dsimp only
  repeat' with_reducible first
    | apply goesOn.refl | apply keeps_ite | apply State.count_on | apply State.updContract_on | apply State.updFrame_on
    | apply State.updQueue_on | decide | split | apply kset_core

theorem State.admitCopy_on {kp : List Part} {b0 : State} {s : State} {n : Nat} {f : Frame} {c : CopyPlan} (hk : goesOn kp b0 s) (hq : ∀ p ∈ [.core, .contracts, .stats], p ∈ kp) :
    goesOn kp b0 (State.admitCopy s n f c) := hk.trans ((State.admitCopy_keeps s n f c).mono hq)

theorem State.refill_keeps (s : State) (f : Frame) (c : CopyPlan) :
    goesOn [.contracts] s (State.refill s f c) := by
  unfold State.refill
  try dsimp only
  repeat' with_reducible first
    | apply goesOn.refl | assumption | apply keeps_ite | apply State.updContract_on | decide | split

theorem State.refill_on {kp : List Part} {b0 : State} {s : State} {f : Frame} {c : CopyPlan} (hk : goesOn kp b0 s) (hq : ∀ p ∈ [.contracts], p ∈ kp) :
    goesOn kp b0 (State.refill s f c) := hk.trans ((State.refill_keeps s f c).mono hq)

theorem State.countRefusal_keeps (s : State) (f : Frame) (c : CopyPlan) (code : Nat) :
    goesOn [.core, .contracts, .fence, .events, .stats] s (State.countRefusal s f c code) := by
  unfold State.countRefusal
  try dsimp only
  repeat' with_reducible first
    | apply goesOn.refl | assumption | apply keeps_ite | apply State.count_on | apply State.raise_on | apply State.refill_on
    | apply State.updQueue_on | decide | split

theorem State.countRefusal_on {kp : List Part} {b0 : State} {s : State} {f : Frame} {c : CopyPlan} {code : Nat} (hk : goesOn kp b0 s) (hq : ∀ p ∈ [.core, .contracts, .fence, .events, .stats], p ∈ kp) :
    goesOn kp b0 (State.countRefusal s f c code) := hk.trans ((State.countRefusal_keeps s f c code).mono hq)

theorem State.admitEach_keeps (kk : List CopyPlan) (s : State) (n : Nat) :
    goesOn [.core, .contracts, .fence, .events, .stats] s (State.admitEach s n kk).1 := by
  induction kk generalizing s n with
  | nil => exact .refl _ _
  | cons ka kk ih =>
    have ihon : ∀ {b0 : State} (s : State) (n : Nat), goesOn [.core, .contracts, .fence, .events, .stats] b0 s → goesOn [.core, .contracts, .fence, .events, .stats] b0 (State.admitEach s n kk).1 := fun s n h => h.trans (ih _ _ )
    unfold State.admitEach
    try dsimp only
    repeat' with_reducible first
      | apply ihon | apply goesOn.refl | apply keeps_ite | apply State.admitCopy_on | apply State.countRefusal_on | decide

theorem State.admitEach_on {kp : List Part} {b0 : State} {s : State} {n : Nat} {kk : List CopyPlan} (hk : goesOn kp b0 s) (hq : ∀ p ∈ [.core, .contracts, .fence, .events, .stats], p ∈ kp) :
    goesOn kp b0 (State.admitEach s n kk).1 := hk.trans ((State.admitEach_keeps kk s n).mono hq)

theorem State.admitAon_keeps (s : State) (n : Nat) (g : Nat) (cs : List CopyPlan) :
    goesOn [.fwd, .core, .contracts, .fence, .events, .stats] s (State.admitAon s n g cs).1 := by
  unfold State.admitAon
  try dsimp only
  repeat' first
    | with_reducible apply goesOn.refl | with_reducible assumption | with_reducible apply keeps_ite
    | with_reducible apply keeps_ite1 | with_reducible apply keeps_ite2
    | (with_reducible apply keeps_foldl; rotate_left 1; intro y a hy)
    | (with_reducible apply keeps_foldl1; rotate_left 1; intro y a hy) | with_reducible apply State.admitEach_on
    | with_reducible apply State.count_on | with_reducible apply State.countRefusal_on | with_reducible apply State.raise_on
    | with_reducible apply State.refill_on | with_reducible apply State.updFwd_on
    | (with_reducible apply keeps_fst; case e => with_reducible assumption)
    | (with_reducible apply keeps_snd; case e => with_reducible assumption) | with_reducible decide | split

theorem State.admitAon_on {kp : List Part} {b0 : State} {s : State} {n : Nat} {g : Nat} {cs : List CopyPlan} (hk : goesOn kp b0 s) (hq : ∀ p ∈ [.fwd, .core, .contracts, .fence, .events, .stats], p ∈ kp) :
    goesOn kp b0 (State.admitAon s n g cs).1 := hk.trans ((State.admitAon_keeps s n g cs).mono hq)

theorem State.toSlow_keeps (s : State) (n : Nat) (reason : Nat) :
    goesOn [.parse, .core, .fence, .events, .stats] s (State.toSlow s n reason).1 := by
  rw [State.toSlow]
  refine keeps_ite1 (keeps_mk1 ?_) (keeps_ite1 (keeps_mk1 (State.updParser_on ?_ (by decide))) (keeps_mk1 (State.updFrame_on ?_ (by decide))))
  all_goals exact (State.slowAdmit_keeps _ _ _).mono (by decide)

theorem State.toSlow_on {kp : List Part} {b0 : State} {s : State} {n : Nat} {reason : Nat} (hk : goesOn kp b0 s) (hq : ∀ p ∈ [.parse, .core, .fence, .events, .stats], p ∈ kp) :
    goesOn kp b0 (State.toSlow s n reason).1 := hk.trans ((State.toSlow_keeps s n reason).mono hq)

theorem State.xlinkPut_keeps (s : State) (n : Nat) (x : XlinkFrame) :
    goesOn [.core, .pair] s (State.xlinkPut s n x) := by
  unfold State.xlinkPut
  try dsimp only
  repeat' with_reducible first
    | apply goesOn.refl | apply keeps_ite | apply State.updFrame_on | apply kset_pair | decide

theorem State.xlinkPut_on {kp : List Part} {b0 : State} {s : State} {n : Nat} {x : XlinkFrame} (hk : goesOn kp b0 s) (hq : ∀ p ∈ [.core, .pair], p ∈ kp) :
    goesOn kp b0 (State.xlinkPut s n x) := hk.trans ((State.xlinkPut_keeps s n x).mono hq)

theorem State.crossFeed_keeps (s : State) (n : Nat) :
    goesOn [.core, .pair, .fence, .events, .stats] s (State.crossFeed s n) := by
  unfold State.crossFeed
  try dsimp only
  repeat' with_reducible first
    | apply goesOn.refl | apply keeps_ite | apply State.dupTouch_on | apply State.foldXdrop_on | apply State.pairCount_on
    | apply State.updFrame_on | apply State.xlinkPut_on | apply State.xlinkTake_on | decide | apply kset_pair

theorem State.crossFeed_on {kp : List Part} {b0 : State} {s : State} {n : Nat} (hk : goesOn kp b0 s) (hq : ∀ p ∈ [.core, .pair, .fence, .events, .stats], p ∈ kp) :
    goesOn kp b0 (State.crossFeed s n) := hk.trans ((State.crossFeed_keeps s n).mono hq)

theorem State.digestFrame_keeps (s : State) (n : Nat) (src : Nat) (q : Nat) :
    goesOn [.time, .core, .pair, .fence, .events] s (State.digestFrame s n src q) := by
  unfold State.digestFrame
  try dsimp only
  repeat' with_reducible first
    | apply goesOn.refl | apply keeps_ite | apply State.foldFrame_on | apply State.updFrame_on | decide

theorem State.digestFrame_on {kp : List Part} {b0 : State} {s : State} {n : Nat} {src : Nat} {q : Nat} (hk : goesOn kp b0 s) (hq : ∀ p ∈ [.time, .core, .pair, .fence, .events], p ∈ kp) :
    goesOn kp b0 (State.digestFrame s n src q) := hk.trans ((State.digestFrame_keeps s n src q).mono hq)

theorem State.emitOne_keeps (s : State) (n : Nat) (o : Origin) (tag : Option (Nat × Nat)) (c : CopyPlan) :
    goesOn [.core, .pair, .fence, .events, .stats] s (State.emitOne s n o tag c).1 := by
  suffices h : Fst.keeps [.core, .pair, .fence, .events, .stats] s (State.emitOne s n o tag c) from h
  rw [State.emitOne.eq_def]
  have hx : ∀ b k, goesOn [.core, .pair, .fence, .events, .stats] s (s.xlinkTake b k).1 := fun b k =>
    (State.xlinkTake_keeps s b k).mono (by decide)
  have hj : ∀ a k, goesOn [.core, .pair, .fence, .events, .stats] s (s.dupPass a k).1 := fun a k =>
    (State.dupPass_keeps s a k).mono (by decide)
  split
  · exact fst_mk (State.pairCount_on (.refl _ _) (by decide))
  · exact fst_ite (fst_mk (State.pairCount_on (State.xlinkPut_on (hx _ _) (by decide)) (by decide))) (fst_mk (hx _ _))
  · split
    · exact fst_ite (fst_ite (fst_mk (hj _ _)) (fst_mk (hj _ _))) (fst_mk (.refl _ _))
    · exact fst_mk (.refl _ _)

theorem State.emitOne_on {kp : List Part} {b0 : State} {s : State} {n : Nat} {o : Origin} {tag : Option (Nat × Nat)} {c : CopyPlan} (hk : goesOn kp b0 s) (hq : ∀ p ∈ [.core, .pair, .fence, .events, .stats], p ∈ kp) :
    goesOn kp b0 (State.emitOne s n o tag c).1 := hk.trans ((State.emitOne_keeps s n o tag c).mono hq)

theorem State.emitCopies_keeps (kk : List CopyPlan) (s : State) (n : Nat) (o : Origin) (tag : Option (Nat × Nat)) :
    goesOn [.core, .pair, .fence, .events, .stats] s (State.emitCopies s n o tag kk).1 := by
  induction kk generalizing s n o tag with
  | nil => exact .refl _ _
  | cons ka kk ih =>
    have ihon : ∀ {b0 : State} (s : State) (n : Nat) (o : Origin) (tag : Option (Nat × Nat)), goesOn [.core, .pair, .fence, .events, .stats] b0 s → goesOn [.core, .pair, .fence, .events, .stats] b0 (State.emitCopies s n o tag kk).1 := fun s n o tag h => h.trans (ih _ _ _ _ )
    unfold State.emitCopies
    try dsimp only
    repeat' with_reducible first
      | apply ihon | apply goesOn.refl | apply State.emitOne_on | decide

theorem State.emitCopies_on {kp : List Part} {b0 : State} {s : State} {n : Nat} {o : Origin} {tag : Option (Nat × Nat)} {kk : List CopyPlan} (hk : goesOn kp b0 s) (hq : ∀ p ∈ [.core, .pair, .fence, .events, .stats], p ∈ kp) :
    goesOn kp b0 (State.emitCopies s n o tag kk).1 := hk.trans ((State.emitCopies_keeps kk s n o tag).mono hq)

theorem State.captureDecision_keeps (s : State) (n : Nat) (refused : List (CopyPlan × Nat)) :
    goesOn [.free, .core, .fence, .events] s (State.captureDecision s n refused) := by
  unfold State.captureDecision
  try dsimp only
  repeat' with_reducible first
    | apply goesOn.refl | assumption | apply keeps_ite | apply State.captureFrame_on | decide | split

theorem State.captureDecision_on {kp : List Part} {b0 : State} {s : State} {n : Nat} {refused : List (CopyPlan × Nat)} (hk : goesOn kp b0 s) (hq : ∀ p ∈ [.free, .core, .fence, .events], p ∈ kp) :
    goesOn kp b0 (State.captureDecision s n refused) := hk.trans ((State.captureDecision_keeps s n refused).mono hq)

theorem State.tsqDecide_keeps (s : State) (n : Nat) (total : Nat) (gone : List Nat) :
    goesOn [.time, .fence, .events] s (State.tsqDecide s n total gone) := by
  unfold State.tsqDecide
  try dsimp only
  repeat' first
    | with_reducible apply goesOn.refl | with_reducible assumption | with_reducible apply keeps_ite
    | (with_reducible apply keeps_foldl; rotate_left 1; intro y a hy) | with_reducible apply State.tsqCopy_on
    | with_reducible apply State.tsqEnd_on | with_reducible apply State.updTsq_on | with_reducible decide | split

theorem State.tsqDecide_on {kp : List Part} {b0 : State} {s : State} {n : Nat} {total : Nat} {gone : List Nat} (hk : goesOn kp b0 s) (hq : ∀ p ∈ [.time, .fence, .events], p ∈ kp) :
    goesOn kp b0 (State.tsqDecide s n total gone) := hk.trans ((State.tsqDecide_keeps s n total gone).mono hq)

theorem State.goodEnd_keeps (s : State) (n : Nat) :
    goesOn [.free, .time, .parse, .core, .contracts, .pair, .fence, .events, .stats] s (State.goodEnd s n) := by
  unfold State.goodEnd
  try dsimp only
  repeat' first
    | with_reducible apply goesOn.refl | with_reducible assumption | with_reducible apply keeps_ite
    | (with_reducible apply keeps_foldl; rotate_left 1; intro y a hy) | with_reducible apply State.count_on
    | with_reducible apply State.discardCopy_on | with_reducible apply State.leaveVoq_on | with_reducible apply State.stompCopy_on
    | with_reducible apply State.updContract_on | with_reducible apply State.updCopy_on | with_reducible apply State.updFrame_on
    | with_reducible apply State.updParser_on | with_reducible apply kset_pair | with_reducible decide | split

theorem State.goodEnd_on {kp : List Part} {b0 : State} {s : State} {n : Nat} (hk : goesOn kp b0 s) (hq : ∀ p ∈ [.free, .time, .parse, .core, .contracts, .pair, .fence, .events, .stats], p ∈ kp) :
    goesOn kp b0 (State.goodEnd s n) := hk.trans ((State.goodEnd_keeps s n).mono hq)

theorem State.settleDecision_keeps (s : State) (n : Nat) (w : Nat) (left : Nat) :
    goesOn [.free, .time, .parse, .core, .contracts, .pair, .fence, .events, .stats] s (State.settleDecision s n w left) := by
  unfold State.settleDecision
  try dsimp only
  repeat' with_reducible first
    | apply goesOn.refl | assumption | apply keeps_ite | apply State.capFlush_on | apply State.dropFrame_on
    | apply State.foldOutcome_on | apply State.goodEnd_on | apply State.updFrame_on | decide | split

theorem State.settleDecision_on {kp : List Part} {b0 : State} {s : State} {n : Nat} {w : Nat} {left : Nat} (hk : goesOn kp b0 s) (hq : ∀ p ∈ [.free, .time, .parse, .core, .contracts, .pair, .fence, .events, .stats], p ∈ kp) :
    goesOn kp b0 (State.settleDecision s n w left) := hk.trans ((State.settleDecision_keeps s n w left).mono hq)

theorem State.foldDecided_keeps (s : State) (n : Nat) (o : Origin) (f : Frame) (tag : Option (Nat × Nat)) :
    goesOn [.time, .core, .pair, .fence, .events] s (State.foldDecided s n o f tag) := by
  unfold State.foldDecided
  try dsimp only
  repeat' with_reducible first
    | apply goesOn.refl | apply keeps_ite | apply State.digestFrame_on | apply State.dupTouch_on | decide | split

theorem State.foldDecided_on {kp : List Part} {b0 : State} {s : State} {n : Nat} {o : Origin} {f : Frame} {tag : Option (Nat × Nat)} (hk : goesOn kp b0 s) (hq : ∀ p ∈ [.time, .core, .pair, .fence, .events], p ∈ kp) :
    goesOn kp b0 (State.foldDecided s n o f tag) := hk.trans ((State.foldDecided_keeps s n o f tag).mono hq)

theorem State.slowCopy_keeps (s : State) (n : Nat) (o : Origin) (reason : Option Nat) :
    goesOn [.parse, .core, .fence, .events, .stats] s (State.slowCopy s n o reason).1 := by
  rw [State.slowCopy.eq_def]
  split
  · exact keeps_ite1 (keeps_mk1 (.refl _ _)) (keeps_mk1 (State.toSlow_keeps _ _ _))
  · exact keeps_mk1 (.refl _ _)

theorem State.slowCopy_on {kp : List Part} {b0 : State} {s : State} {n : Nat} {o : Origin} {reason : Option Nat} (hk : goesOn kp b0 s) (hq : ∀ p ∈ [.parse, .core, .fence, .events, .stats], p ∈ kp) :
    goesOn kp b0 (State.slowCopy s n o reason).1 := hk.trans ((State.slowCopy_keeps s n o reason).mono hq)

theorem State.admitCopies_keeps (s : State) (n : Nat) (o : Origin) (tag : Option (Nat × Nat)) (plan : Plan) (w : Nat) :
    goesOn [.free, .time, .parse, .fwd, .core, .contracts, .pair, .fence, .events, .stats] s (State.admitCopies s n o tag plan w) := by
  unfold State.admitCopies
  try dsimp only
  repeat' with_reducible first
    | apply goesOn.refl | apply keeps_ite | apply keeps_ite1 | apply State.admitAon_on | apply State.admitEach_on
    | apply State.captureDecision_on | apply State.count_on | apply State.emitCopies_on | apply State.settleDecision_on
    | apply State.tsqDecide_on | decide

theorem State.admitCopies_on {kp : List Part} {b0 : State} {s : State} {n : Nat} {o : Origin} {tag : Option (Nat × Nat)} {plan : Plan} {w : Nat} (hk : goesOn kp b0 s) (hq : ∀ p ∈ [.free, .time, .parse, .fwd, .core, .contracts, .pair, .fence, .events, .stats], p ∈ kp) :
    goesOn kp b0 (State.admitCopies s n o tag plan w) := hk.trans ((State.admitCopies_keeps s n o tag plan w).mono hq)

theorem State.decideFrame_keeps (before : State) (n : Nat) (o : Origin) :
    goesOn [.free, .time, .parse, .fwd, .core, .contracts, .pair, .fw, .fence, .events, .stats] before (State.decideFrame before n o) := by
  unfold State.decideFrame
  try dsimp only
  repeat' with_reducible first
    | apply goesOn.refl | assumption | apply keeps_ite | apply keeps_ite1 | apply keeps_ite2 | apply State.admitCopies_on
    | apply State.capFlush_on | apply State.captureDecision_on | apply State.crossFeed_on | apply State.dropFrame_on
    | apply State.foldDecided_on | apply State.poolFollow_on | apply State.settleDecision_on | apply State.slowCopy_on
    | apply State.tsqDecide_on | apply State.updFrame_on | (apply keeps_fst; case e => assumption)
    | (apply keeps_snd; case e => assumption) | decide | split

theorem State.decideFrame_on {kp : List Part} {b0 : State} {before : State} {n : Nat} {o : Origin} (hk : goesOn kp b0 before) (hq : ∀ p ∈ [.free, .time, .parse, .fwd, .core, .contracts, .pair, .fw, .fence, .events, .stats], p ∈ kp) :
    goesOn kp b0 (State.decideFrame before n o) := hk.trans ((State.decideFrame_keeps before n o).mono hq)

theorem execAdmissionDecision_keeps (frame : Nat) (s : State) :
    Out.keeps [.clock, .free, .cmd, .hostMem, .time, .parse, .fwd, .core, .contracts, .pair, .fw, .mbs, .fence, .events, .stats] s (execAdmissionDecision frame s) := by
  unfold execAdmissionDecision
  try dsimp only
  repeat' with_reducible first
    | apply goesOn.refl | apply State.advanceTick_on | apply State.decideFrame_on | apply out_next | apply out_fault
    | apply out_ite | decide

theorem execAdmissionDecision_on {kp : List Part} {b0 : State} {frame : Nat} {s : State} (hk : goesOn kp b0 s) (hq : ∀ p ∈ [.clock, .free, .cmd, .hostMem, .time, .parse, .fwd, .core, .contracts, .pair, .fw, .mbs, .fence, .events, .stats], p ∈ kp) :
    Out.keeps kp b0 (execAdmissionDecision frame s) := .after hk ((execAdmissionDecision_keeps frame s).mono hq)

end Sys2Proof.Machine
end

