-- ==== Sys2Proof/Laws/Keeps/Events.lean ====
section
/-!
SUPPORT. Which parts of the state each operation of Events.lean touches.
-/
namespace Sys2Proof.Machine

theorem execVectorTimerExpiry_keeps (vec : Nat) (s : State) :
    Out.keeps [.clock, .free, .cmd, .hostMem, .pair, .fw, .mbs, .fence, .events, .stats] s (execVectorTimerExpiry vec s) := by
  unfold execVectorTimerExpiry
  try dsimp only
  repeat' with_reducible first
    | apply goesOn.refl | apply State.advance_on | apply State.vecSend_on | apply out_next | apply out_fault | apply out_ite
    | decide | split

theorem execVectorTimerExpiry_on {kp : List Part} {b0 : State} {vec : Nat} {s : State} (hk : goesOn kp b0 s) (hq : ∀ p ∈ [.clock, .free, .cmd, .hostMem, .pair, .fw, .mbs, .fence, .events, .stats], p ∈ kp) :
    Out.keeps kp b0 (execVectorTimerExpiry vec s) := .after hk ((execVectorTimerExpiry_keeps vec s).mono hq)

theorem execMsixMessageSend_keeps (vec : Nat) (s : State) :
    Out.keeps [.events] s (execMsixMessageSend vec s) := by
  unfold execMsixMessageSend
  try dsimp only
  repeat' with_reducible first
    | apply goesOn.refl | apply kset_events | apply out_next | apply out_fault | apply out_ite | decide

theorem execMsixMessageSend_on {kp : List Part} {b0 : State} {vec : Nat} {s : State} (hk : goesOn kp b0 s) (hq : ∀ p ∈ [.events], p ∈ kp) :
    Out.keeps kp b0 (execMsixMessageSend vec s) := .after hk ((execMsixMessageSend_keeps vec s).mono hq)

theorem State.unmaskRaises_keeps (s : State) (old : BitVec 1024) (first : Nat) :
    goesOn [.events] s (State.unmaskRaises s old first) := by
  unfold State.unmaskRaises
  try dsimp only
  repeat' first
    | with_reducible apply goesOn.refl | with_reducible assumption | with_reducible apply keeps_ite
    | (with_reducible apply keeps_foldl; rotate_left 1; intro y a hy) | with_reducible apply State.vecRaise_on
    | with_reducible decide

theorem State.unmaskRaises_on {kp : List Part} {b0 : State} {s : State} {old : BitVec 1024} {first : Nat} (hk : goesOn kp b0 s) (hq : ∀ p ∈ [.events], p ∈ kp) :
    goesOn kp b0 (State.unmaskRaises s old first) := hk.trans ((State.unmaskRaises_keeps s old first).mono hq)

theorem execMaskWrite_keeps (reg : Nat) (value : BitVec 32) (s : State) :
    Out.keeps [.events] s (execMaskWrite reg value s) := by
  unfold execMaskWrite
  try dsimp only
  repeat' with_reducible first
    | apply goesOn.refl | apply State.unmaskRaises_on | apply kset_events | apply out_next | apply out_fault | apply out_ite
    | decide

theorem execMaskWrite_on {kp : List Part} {b0 : State} {reg : Nat} {value : BitVec 32} {s : State} (hk : goesOn kp b0 s) (hq : ∀ p ∈ [.events], p ∈ kp) :
    Out.keeps kp b0 (execMaskWrite reg value s) := .after hk ((execMaskWrite_keeps reg value s).mono hq)

theorem execVecCtrlWrite_keeps (vec : Nat) (value : BitVec 32) (s : State) :
    Out.keeps [.fence, .events] s (execVecCtrlWrite vec value s) := by
  unfold execVecCtrlWrite
  try dsimp only
  repeat' with_reducible first
    | apply goesOn.refl | apply keeps_ite | apply State.badAccess_on | apply State.vecSend_on | apply kset_events | apply out_next
    | apply out_fault | apply out_ite | decide

theorem execVecCtrlWrite_on {kp : List Part} {b0 : State} {vec : Nat} {value : BitVec 32} {s : State} (hk : goesOn kp b0 s) (hq : ∀ p ∈ [.fence, .events], p ∈ kp) :
    Out.keeps kp b0 (execVecCtrlWrite vec value s) := .after hk ((execVecCtrlWrite_keeps vec value s).mono hq)

theorem State.logItem_keeps (s : State) (w : RingWait) :
    goesOn [.fence, .events] s (State.logItem s w) := by
  unfold State.logItem
  try dsimp only
  repeat' with_reducible first
    | apply goesOn.refl | assumption | apply keeps_ite | apply keeps_ite1 | apply keeps_ite2 | apply State.logReached_on
    | apply State.logStore_on | apply State.raise_on | (apply keeps_fst; case e => assumption)
    | (apply keeps_snd; case e => assumption) | decide | split | apply kset_events

theorem State.logItem_on {kp : List Part} {b0 : State} {s : State} {w : RingWait} (hk : goesOn kp b0 s) (hq : ∀ p ∈ [.fence, .events], p ∈ kp) :
    goesOn kp b0 (State.logItem s w) := hk.trans ((State.logItem_keeps s w).mono hq)

theorem State.logDrain_keeps (kk : Nat) (s : State) :
    goesOn [.fence, .events] s (State.logDrain s kk) := by
  induction kk generalizing s with
  | zero => exact .refl _ _
  | succ kk ih =>
    have ihon : ∀ {b0 : State} (s : State), goesOn [.fence, .events] b0 s → goesOn [.fence, .events] b0 (State.logDrain s kk) := fun s h => h.trans (ih _ )
    unfold State.logDrain
    try dsimp only
    repeat' with_reducible first
      | apply ihon | apply goesOn.refl | apply keeps_ite | apply State.logItem_on | decide | split | apply kset_events

theorem State.logDrain_on {kp : List Part} {b0 : State} {s : State} {kk : Nat} (hk : goesOn kp b0 s) (hq : ∀ p ∈ [.fence, .events], p ∈ kp) :
    goesOn kp b0 (State.logDrain s kk) := hk.trans ((State.logDrain_keeps kk s).mono hq)

theorem execLogRdCountWrite_keeps (value : BitVec 32) (s : State) :
    Out.keeps [.fence, .events] s (execLogRdCountWrite value s) := by
  unfold execLogRdCountWrite
  try dsimp only
  repeat' with_reducible first
    | apply goesOn.refl | apply State.logDrain_on | apply State.raise_on | apply kset_events | apply out_next | apply out_ite
    | decide

theorem execLogRdCountWrite_on {kp : List Part} {b0 : State} {value : BitVec 32} {s : State} (hk : goesOn kp b0 s) (hq : ∀ p ∈ [.fence, .events], p ∈ kp) :
    Out.keeps kp b0 (execLogRdCountWrite value s) := .after hk ((execLogRdCountWrite_keeps value s).mono hq)

theorem State.snapOverrun_keeps (s : State) :
    goesOn [.events, .stats] s (State.snapOverrun s) := by
  unfold State.snapOverrun
  try dsimp only
  repeat' with_reducible first
    | apply goesOn.refl | assumption | apply keeps_ite | apply State.hwCount_on | apply kset_stats | decide | split

theorem State.snapOverrun_on {kp : List Part} {b0 : State} {s : State} (hk : goesOn kp b0 s) (hq : ∀ p ∈ [.events, .stats], p ∈ kp) :
    goesOn kp b0 (State.snapOverrun s) := hk.trans ((State.snapOverrun_keeps s).mono hq)

theorem execSnapNow_keeps (s : State) :
    Out.keeps [.clock, .free, .cmd, .hostMem, .pair, .fw, .mbs, .fence, .events, .stats] s (execSnapNow s) := by
  unfold execSnapNow
  try dsimp only
  repeat' with_reducible first
    | apply goesOn.refl | assumption | apply keeps_ite | apply State.lpiNow_on | apply State.snapOverrun_on | apply kset_stats
    | apply out_next | apply out_fault | apply out_ite | decide | split

theorem execSnapNow_on {kp : List Part} {b0 : State} {s : State} (hk : goesOn kp b0 s) (hq : ∀ p ∈ [.clock, .free, .cmd, .hostMem, .pair, .fw, .mbs, .fence, .events, .stats], p ∈ kp) :
    Out.keeps kp b0 (execSnapNow s) := .after hk ((execSnapNow_keeps s).mono hq)

theorem execSnapAtFence_keeps (s : State) :
    Out.keeps [.events, .stats] s (execSnapAtFence s) := by
  unfold execSnapAtFence
  try dsimp only
  repeat' with_reducible first
    | apply goesOn.refl | assumption | apply keeps_ite | apply State.snapOverrun_on | apply kset_stats | apply out_next
    | apply out_fault | apply out_ite | decide | split

theorem execSnapAtFence_on {kp : List Part} {b0 : State} {s : State} (hk : goesOn kp b0 s) (hq : ∀ p ∈ [.events, .stats], p ∈ kp) :
    Out.keeps kp b0 (execSnapAtFence s) := .after hk ((execSnapAtFence_keeps s).mono hq)

theorem execSnapDone_keeps (s : State) :
    Out.keeps [.fence, .events, .stats] s (execSnapDone s) := by
  unfold execSnapDone
  try dsimp only
  repeat' with_reducible first
    | apply goesOn.refl | apply State.raise_on | apply kset_stats | apply out_next | apply out_ite | decide

theorem execSnapDone_on {kp : List Part} {b0 : State} {s : State} (hk : goesOn kp b0 s) (hq : ∀ p ∈ [.fence, .events, .stats], p ∈ kp) :
    Out.keeps kp b0 (execSnapDone s) := .after hk ((execSnapDone_keeps s).mono hq)

theorem State.clearCounters_keeps (s : State) (block : Nat) (first : Nat) (count : Nat) :
    goesOn [.parse, .contracts, .stats] s (State.clearCounters s block first count) := by
  unfold State.clearCounters
  try dsimp only
  repeat' with_reducible first
    | apply goesOn.refl | apply kset_parse_contracts_stats | decide

theorem State.clearCounters_on {kp : List Part} {b0 : State} {s : State} {block : Nat} {first : Nat} {count : Nat} (hk : goesOn kp b0 s) (hq : ∀ p ∈ [.parse, .contracts, .stats], p ∈ kp) :
    goesOn kp b0 (State.clearCounters s block first count) := hk.trans ((State.clearCounters_keeps s block first count).mono hq)

theorem bodyCounterClear_keeps (block : Nat) (first : Nat) (count : Nat) (s : State) :
    Rep.keeps [.parse, .contracts, .stats] s (bodyCounterClear block first count s) := by
  unfold bodyCounterClear
  try dsimp only
  repeat' with_reducible first
    | apply goesOn.refl | apply State.clearCounters_on | apply rep_ok | apply rep_ranges | decide

theorem bodyCounterClear_on {kp : List Part} {b0 : State} {block : Nat} {first : Nat} {count : Nat} {s : State} (hk : goesOn kp b0 s) (hq : ∀ p ∈ [.parse, .contracts, .stats], p ∈ kp) :
    Rep.keeps kp b0 (bodyCounterClear block first count s) := .after hk ((bodyCounterClear_keeps block first count s).mono hq)

theorem bodyEventInject_keeps (source : Nat) (cause : Nat) (data : List Byte) (s : State) :
    Rep.keeps [.fence, .events] s (bodyEventInject source cause data s) := by
  unfold bodyEventInject
  try dsimp only
  repeat' with_reducible first
    | apply goesOn.refl | apply State.raise_on | apply rep_ok | apply rep_ranges | decide

theorem bodyEventInject_on {kp : List Part} {b0 : State} {source : Nat} {cause : Nat} {data : List Byte} {s : State} (hk : goesOn kp b0 s) (hq : ∀ p ∈ [.fence, .events], p ∈ kp) :
    Rep.keeps kp b0 (bodyEventInject source cause data s) := .after hk ((bodyEventInject_keeps source cause data s).mono hq)

theorem execCounterClear_keeps (src : CmdSrc) (block : Nat) (first : Nat) (count : Nat) (s : State) :
    Out.keeps [.cmd, .hostMem, .glob, .parse, .contracts, .pair, .fw, .mbs, .fence, .events, .stats] s (execCounterClear src block first count s) := by
  unfold execCounterClear
  try dsimp only
  repeat' first
    | with_reducible apply goesOn.refl | with_reducible apply out_next
    | (with_reducible apply keeps_runCmd; rotate_left 1; intro y) | with_reducible apply bodyCounterClear_on
    | with_reducible decide

theorem execCounterClear_on {kp : List Part} {b0 : State} {src : CmdSrc} {block : Nat} {first : Nat} {count : Nat} {s : State} (hk : goesOn kp b0 s) (hq : ∀ p ∈ [.cmd, .hostMem, .glob, .parse, .contracts, .pair, .fw, .mbs, .fence, .events, .stats], p ∈ kp) :
    Out.keeps kp b0 (execCounterClear src block first count s) := .after hk ((execCounterClear_keeps src block first count s).mono hq)

theorem execEventInject_keeps (src : CmdSrc) (source : Nat) (cause : Nat) (data : List Byte) (s : State) :
    Out.keeps [.cmd, .hostMem, .glob, .pair, .fw, .mbs, .fence, .events] s (execEventInject src source cause data s) := by
  unfold execEventInject
  try dsimp only
  repeat' first
    | with_reducible apply goesOn.refl | with_reducible apply out_next
    | (with_reducible apply keeps_runCmd; rotate_left 1; intro y) | with_reducible apply bodyEventInject_on
    | with_reducible decide

theorem execEventInject_on {kp : List Part} {b0 : State} {src : CmdSrc} {source : Nat} {cause : Nat} {data : List Byte} {s : State} (hk : goesOn kp b0 s) (hq : ∀ p ∈ [.cmd, .hostMem, .glob, .pair, .fw, .mbs, .fence, .events], p ∈ kp) :
    Out.keeps kp b0 (execEventInject src source cause data s) := .after hk ((execEventInject_keeps src source cause data s).mono hq)

end Sys2Proof.Machine
end

