-- ==== Sys2Proof/Laws/Keeps/Cores.lean ====
section
/-!
SUPPORT. Which parts of the state each operation of Cores.lean touches.
-/
namespace Sys2Proof.Machine

theorem State.coreLook_keeps (s : State) (n : Nat) :
    goesOn [.free, .fw, .stats] s (State.coreLook s n) := by
  unfold State.coreLook
  try dsimp only
  repeat' first
    | with_reducible apply goesOn.refl | with_reducible assumption | with_reducible apply keeps_ite
    | (with_reducible apply keeps_foldl; rotate_left 1; intro y a hy) | with_reducible apply State.count_on
    | with_reducible apply State.takeFree_on | with_reducible apply State.updCore_on | with_reducible decide | split

theorem State.coreLook_on {kp : List Part} {b0 : State} {s : State} {n : Nat} (hk : goesOn kp b0 s) (hq : ∀ p ∈ [.free, .fw, .stats], p ∈ kp) :
    goesOn kp b0 (State.coreLook s n) := hk.trans ((State.coreLook_keeps s n).mono hq)

end Sys2Proof.Machine
end

