-- ==== Sys2Proof/Laws/Keeps/Arrive.lean ====
section
/-!
SUPPORT. Which parts of the state each operation of Arrive.lean touches.
-/
namespace Sys2Proof.Machine

theorem State.parseException_keeps (s : State) (p : Nat) (off : Nat) :
    goesOn [.parse, .fence, .events, .stats] s (State.parseException s p off) := by
  unfold State.parseException
  try dsimp only
  repeat' with_reducible first
    | apply goesOn.refl | apply keeps_ite | apply State.count_on | apply State.raise_on | apply State.updParse_on | decide

theorem State.parseException_on {kp : List Part} {b0 : State} {s : State} {p : Nat} {off : Nat} (hk : goesOn kp b0 s) (hq : ∀ p ∈ [.parse, .fence, .events, .stats], p ∈ kp) :
    goesOn kp b0 (State.parseException s p off) := hk.trans ((State.parseException_keeps s p off).mono hq)

theorem State.macControl_keeps (s : State) (p : Nat) (opcode : Nat) :
    goesOn [.parse, .fence, .events, .stats] s (State.macControl s p opcode) := by
  unfold State.macControl
  try dsimp only
  repeat' with_reducible first
    | apply goesOn.refl | apply keeps_ite | apply State.count_on | apply State.raise_on | apply State.updParse_on | decide

theorem State.macControl_on {kp : List Part} {b0 : State} {s : State} {p : Nat} {opcode : Nat} (hk : goesOn kp b0 s) (hq : ∀ p ∈ [.parse, .fence, .events, .stats], p ∈ kp) :
    goesOn kp b0 (State.macControl s p opcode) := hk.trans ((State.macControl_keeps s p opcode).mono hq)

theorem State.pathMismatch_keeps (s : State) (p : Nat) :
    goesOn [.pair, .fence, .events, .stats] s (State.pathMismatch s p) := by
  unfold State.pathMismatch
  try dsimp only
  repeat' with_reducible first
    | apply goesOn.refl | apply keeps_ite | apply State.count_on | apply State.pairCount_on | apply State.raise_on
    | apply kset_pair | decide

theorem State.pathMismatch_on {kp : List Part} {b0 : State} {s : State} {p : Nat} (hk : goesOn kp b0 s) (hq : ∀ p ∈ [.pair, .fence, .events, .stats], p ∈ kp) :
    goesOn kp b0 (State.pathMismatch s p) := hk.trans ((State.pathMismatch_keeps s p).mono hq)

theorem State.tagRx_keeps (s : State) (p : Nat) (b : List Byte) (pr : Parsed) :
    goesOn [.pair, .fence, .events, .stats] s (State.tagRx s p b pr).1 := by
  unfold State.tagRx
  try dsimp only
  repeat' with_reducible first
    | apply goesOn.refl | apply keeps_ite | apply State.pairCount_on | apply State.pathMismatch_on | decide | split

theorem State.tagRx_on {kp : List Part} {b0 : State} {s : State} {p : Nat} {b : List Byte} {pr : Parsed} (hk : goesOn kp b0 s) (hq : ∀ p ∈ [.pair, .fence, .events, .stats], p ∈ kp) :
    goesOn kp b0 (State.tagRx s p b pr).1 := hk.trans ((State.tagRx_keeps s p b pr).mono hq)

theorem State.classify_keeps (s : State) (x : LookIn) :
    goesOn [.ptp, .parse, .pair, .fence, .events, .stats] s (State.classify s x).1 := by
  unfold State.classify
  try dsimp only
  repeat' with_reducible first
    | apply goesOn.refl | apply keeps_ite | apply keeps_ite1 | apply State.count_on | apply State.look_on
    | apply State.macControl_on | apply State.ptpCount_on | apply State.tagRx_on | (apply keeps_fst; case e => assumption)
    | decide | split

theorem State.classify_on {kp : List Part} {b0 : State} {s : State} {x : LookIn} (hk : goesOn kp b0 s) (hq : ∀ p ∈ [.ptp, .parse, .pair, .fence, .events, .stats], p ∈ kp) :
    goesOn kp b0 (State.classify s x).1 := hk.trans ((State.classify_keeps s x).mono hq)

theorem State.aclHit_keeps (s : State) (e : Nat) :
    goesOn [.parse] s (State.aclHit s e) := by
  unfold State.aclHit
  try dsimp only
  repeat' with_reducible first
    | apply goesOn.refl | apply State.updParser_on | decide

theorem State.aclHit_on {kp : List Part} {b0 : State} {s : State} {e : Nat} (hk : goesOn kp b0 s) (hq : ∀ p ∈ [.parse], p ∈ kp) :
    goesOn kp b0 (State.aclHit s e) := hk.trans ((State.aclHit_keeps s e).mono hq)

theorem State.sampleFrame_keeps (s : State) (p : Nat) :
    goesOn [.core, .stats] s (State.sampleFrame s p).1 := by
  unfold State.sampleFrame
  try dsimp only
  repeat' with_reducible first
    | apply goesOn.refl | apply State.updCap_on | decide | split

theorem State.sampleFrame_on {kp : List Part} {b0 : State} {s : State} {p : Nat} (hk : goesOn kp b0 s) (hq : ∀ p ∈ [.core, .stats], p ∈ kp) :
    goesOn kp b0 (State.sampleFrame s p).1 := hk.trans ((State.sampleFrame_keeps s p).mono hq)

theorem State.windowClose_keeps (s : State) (p : Nat) (b : List Byte) (ended : Bool) (stamp : Nat × Nat) (cpu : Bool) :
    goesOn [.ptp, .parse, .core, .pair, .fence, .events, .stats] s (State.windowClose s p b ended stamp cpu) := by
  unfold State.windowClose
  try dsimp only
  repeat' with_reducible first
    | apply goesOn.refl | apply keeps_ite | apply State.aclHit_on | apply State.classify_on | apply State.parseException_on
    | apply State.sampleFrame_on | decide | split | apply kset_core

theorem State.windowClose_on {kp : List Part} {b0 : State} {s : State} {p : Nat} {b : List Byte} {ended : Bool} {stamp : Nat × Nat} {cpu : Bool} (hk : goesOn kp b0 s) (hq : ∀ p ∈ [.ptp, .parse, .core, .pair, .fence, .events, .stats], p ∈ kp) :
    goesOn kp b0 (State.windowClose s p b ended stamp cpu) := hk.trans ((State.windowClose_keeps s p b ended stamp cpu).mono hq)

theorem execParseWindowClose_keeps (port : Nat) (bytes : List Byte) (ended : Bool) (taps : Nat) (symbols : Nat) (tick : Nat) (s : State) :
    Out.keeps [.clock, .free, .cmd, .hostMem, .ptp, .parse, .core, .pair, .fw, .mbs, .fence, .events, .stats] s (execParseWindowClose port bytes ended taps symbols tick s) := by
  unfold execParseWindowClose
  try dsimp only
  repeat' with_reducible first
    | apply goesOn.refl | apply keeps_ite | apply State.advanceTick_on | apply State.count_on | apply State.pairCount_on
    | apply State.windowClose_on | apply out_next | apply out_fault | apply out_ite | decide

theorem execParseWindowClose_on {kp : List Part} {b0 : State} {port : Nat} {bytes : List Byte} {ended : Bool} {taps : Nat} {symbols : Nat} {tick : Nat} {s : State} (hk : goesOn kp b0 s) (hq : ∀ p ∈ [.clock, .free, .cmd, .hostMem, .ptp, .parse, .core, .pair, .fw, .mbs, .fence, .events, .stats], p ∈ kp) :
    Out.keeps kp b0 (execParseWindowClose port bytes ended taps symbols tick s) := .after hk ((execParseWindowClose_keeps port bytes ended taps symbols tick s).mono hq)

theorem execFrameEnd_keeps (frame : Nat) (bytes : List Byte) (tick : Nat) (s : State) :
    Out.keeps [.clock, .free, .cmd, .hostMem, .time, .parse, .core, .contracts, .pair, .fw, .mbs, .fence, .events, .stats] s (execFrameEnd frame bytes tick s) := by
  unfold execFrameEnd
  try dsimp only
  repeat' with_reducible first
    | apply goesOn.refl | apply keeps_ite | apply State.advanceTick_on | apply State.badEnd_on | apply State.count_on
    | apply State.dropFrame_on | apply State.goodEnd_on | apply State.parseException_on | apply State.updFrame_on | apply out_next
    | apply out_fault | apply out_ite | decide | split

theorem execFrameEnd_on {kp : List Part} {b0 : State} {frame : Nat} {bytes : List Byte} {tick : Nat} {s : State} (hk : goesOn kp b0 s) (hq : ∀ p ∈ [.clock, .free, .cmd, .hostMem, .time, .parse, .core, .contracts, .pair, .fw, .mbs, .fence, .events, .stats], p ∈ kp) :
    Out.keeps kp b0 (execFrameEnd frame bytes tick s) := .after hk ((execFrameEnd_keeps frame bytes tick s).mono hq)

end Sys2Proof.Machine
end

