-- ==== Sys2Proof/Laws/Keeps/Switch.lean ====
section
/-!
SUPPORT. Which parts of the state each operation of Switch.lean touches.
-/
namespace Sys2Proof.Machine

theorem State.moveCell_keeps (s : State) (r : Req) :
    goesOn [.core] s (State.moveCell s r) := by
  unfold State.moveCell
  try dsimp only
  repeat' with_reducible first
    | apply goesOn.refl | decide | split | apply kset_core

theorem State.moveCell_on {kp : List Part} {b0 : State} {s : State} {r : Req} (hk : goesOn kp b0 s) (hq : ∀ p ∈ [.core], p ∈ kp) :
    goesOn kp b0 (State.moveCell s r) := hk.trans ((State.moveCell_keeps s r).mono hq)

theorem execCellSlot_keeps (s : State) :
    Out.keeps [.clock, .free, .cmd, .hostMem, .core, .contracts, .pair, .fw, .mbs, .fence, .events, .stats] s (execCellSlot s) := by
  unfold execCellSlot
  try dsimp only
  repeat' first
    | with_reducible apply goesOn.refl | with_reducible assumption
    | (with_reducible apply keeps_foldl; rotate_left 1; intro y a hy) | with_reducible apply State.advanceTick_on
    | with_reducible apply State.moveCell_on | with_reducible apply State.poolFollow_on | with_reducible apply kset_core
    | with_reducible apply out_next | with_reducible decide

theorem execCellSlot_on {kp : List Part} {b0 : State} {s : State} (hk : goesOn kp b0 s) (hq : ∀ p ∈ [.clock, .free, .cmd, .hostMem, .core, .contracts, .pair, .fw, .mbs, .fence, .events, .stats], p ∈ kp) :
    Out.keeps kp b0 (execCellSlot s) := .after hk ((execCellSlot_keeps s).mono hq)

theorem State.startCopy_keeps (s : State) (p : Nat) (k : Nat) (t : Nat) :
    goesOn [.core] s (State.startCopy s p k t) := by
  unfold State.startCopy
  try dsimp only
  repeat' with_reducible first
    | apply goesOn.refl | apply State.updCopy_on | apply kset_core | decide

theorem State.startCopy_on {kp : List Part} {b0 : State} {s : State} {p : Nat} {k : Nat} {t : Nat} (hk : goesOn kp b0 s) (hq : ∀ p ∈ [.core], p ∈ kp) :
    goesOn kp b0 (State.startCopy s p k t) := hk.trans ((State.startCopy_keeps s p k t).mono hq)

theorem State.startBulk_keeps (s : State) (p : Nat) (t : Nat) :
    goesOn [.core] s (State.startBulk s p t) := by
  unfold State.startBulk
  try dsimp only
  repeat' first
    | with_reducible apply goesOn.refl | with_reducible assumption | with_reducible apply keeps_ite
    | (with_reducible apply keeps_foldl; rotate_left 1; intro y a hy) | with_reducible apply State.startCopy_on
    | with_reducible apply State.updQueue_on | with_reducible decide | split | with_reducible apply kset_core

theorem State.startBulk_on {kp : List Part} {b0 : State} {s : State} {p : Nat} {t : Nat} (hk : goesOn kp b0 s) (hq : ∀ p ∈ [.core], p ∈ kp) :
    goesOn kp b0 (State.startBulk s p t) := hk.trans ((State.startBulk_keeps s p t).mono hq)

theorem State.lateGuard_keeps (s : State) (k : Nat) (t : Nat) (d : Nat) :
    goesOn [.free, .time, .core, .contracts, .pair, .fence, .events, .stats] s (State.lateGuard s k t d) := by
  unfold State.lateGuard
  try dsimp only
  repeat' with_reducible first
    | apply goesOn.refl | apply keeps_ite | apply State.discardCopy_on | apply State.raise_on | apply State.updContract_on
    | decide

theorem State.lateGuard_on {kp : List Part} {b0 : State} {s : State} {k : Nat} {t : Nat} {d : Nat} (hk : goesOn kp b0 s) (hq : ∀ p ∈ [.free, .time, .core, .contracts, .pair, .fence, .events, .stats], p ∈ kp) :
    goesOn kp b0 (State.lateGuard s k t d) := hk.trans ((State.lateGuard_keeps s k t d).mono hq)

theorem State.egressPick_keeps (kk : Nat) (s : State) (p : Nat) (t : Nat) :
    goesOn [.free, .time, .core, .contracts, .pair, .fence, .events, .stats] s (State.egressPick s p t kk) := by
  induction kk generalizing s p t with
  | zero => exact .refl _ _
  | succ kk ih =>
    have ihon : ∀ {b0 : State} (s : State) (p : Nat) (t : Nat), goesOn [.free, .time, .core, .contracts, .pair, .fence, .events, .stats] b0 s → goesOn [.free, .time, .core, .contracts, .pair, .fence, .events, .stats] b0 (State.egressPick s p t kk) := fun s p t h => h.trans (ih _ _ _ )
    unfold State.egressPick
    try dsimp only
    repeat' with_reducible first
      | apply ihon | apply goesOn.refl | apply keeps_ite | apply State.lateGuard_on | apply State.startBulk_on | apply State.startCopy_on
      | decide | split

theorem State.egressPick_on {kp : List Part} {b0 : State} {s : State} {p : Nat} {t : Nat} {kk : Nat} (hk : goesOn kp b0 s) (hq : ∀ p ∈ [.free, .time, .core, .contracts, .pair, .fence, .events, .stats], p ∈ kp) :
    goesOn kp b0 (State.egressPick s p t kk) := hk.trans ((State.egressPick_keeps kk s p t).mono hq)

theorem execEgressFrameBoundary_keeps (port : Nat) (tick : Nat) (sub : Nat) (s : State) :
    Out.keeps [.clock, .free, .cmd, .hostMem, .time, .core, .contracts, .pair, .fw, .mbs, .fence, .events, .stats] s (execEgressFrameBoundary port tick sub s) := by
  unfold execEgressFrameBoundary
  try dsimp only
  repeat' with_reducible first
    | apply goesOn.refl | apply State.advanceTick_on | apply State.egressPick_on | apply out_next | apply out_fault
    | apply out_ite | decide

theorem execEgressFrameBoundary_on {kp : List Part} {b0 : State} {port : Nat} {tick : Nat} {sub : Nat} {s : State} (hk : goesOn kp b0 s) (hq : ∀ p ∈ [.clock, .free, .cmd, .hostMem, .time, .core, .contracts, .pair, .fw, .mbs, .fence, .events, .stats], p ∈ kp) :
    Out.keeps kp b0 (execEgressFrameBoundary port tick sub s) := .after hk ((execEgressFrameBoundary_keeps port tick sub s).mono hq)

theorem State.stompOut_keeps (s : State) (f : Frame) (x : Copy) (cause : Nat) :
    goesOn [.free] s (State.stompOut s f x cause).1 := by
  unfold State.stompOut
  try dsimp only
  repeat' with_reducible first
    | apply goesOn.refl | assumption | apply keeps_ite | apply State.heldBytes_on | apply State.takeFree_on | decide | split

theorem State.stompOut_on {kp : List Part} {b0 : State} {s : State} {f : Frame} {x : Copy} {cause : Nat} (hk : goesOn kp b0 s) (hq : ∀ p ∈ [.free], p ∈ kp) :
    goesOn kp b0 (State.stompOut s f x cause).1 := hk.trans ((State.stompOut_keeps s f x cause).mono hq)

theorem State.noteLatency_keeps (s : State) (f : Frame) (x : Copy) :
    goesOn [.contracts, .stats] s (State.noteLatency s f x) := by
  unfold State.noteLatency
  try dsimp only
  repeat' with_reducible first
    | apply goesOn.refl | assumption | apply keeps_ite | apply State.updContract_on | apply kset_contracts_stats | decide | split

theorem State.noteLatency_on {kp : List Part} {b0 : State} {s : State} {f : Frame} {x : Copy} (hk : goesOn kp b0 s) (hq : ∀ p ∈ [.contracts, .stats], p ∈ kp) :
    goesOn kp b0 (State.noteLatency s f x) := hk.trans ((State.noteLatency_keeps s f x).mono hq)

theorem State.copySent_keeps (s : State) (p : Nat) (k : Nat) :
    goesOn [.free, .time, .core, .contracts, .pair, .fence, .events, .stats] s (State.copySent s p k) := by
  unfold State.copySent
  try dsimp only
  repeat' with_reducible first
    | apply goesOn.refl | assumption | apply keeps_ite | apply keeps_ite1 | apply keeps_ite2 | apply State.count_on
    | apply State.freeCopy_on | apply State.noteLatency_on | apply State.resolveCopy_on | apply State.stompOut_on
    | apply State.tsqCopy_on | (apply keeps_fst; case e => assumption) | (apply keeps_snd; case e => assumption) | decide | split
    | apply kset_core

theorem State.copySent_on {kp : List Part} {b0 : State} {s : State} {p : Nat} {k : Nat} (hk : goesOn kp b0 s) (hq : ∀ p ∈ [.free, .time, .core, .contracts, .pair, .fence, .events, .stats], p ∈ kp) :
    goesOn kp b0 (State.copySent s p k) := hk.trans ((State.copySent_keeps s p k).mono hq)

theorem execCopySent_keeps (port : Nat) (tick : Nat) (s : State) :
    Out.keeps [.clock, .free, .cmd, .hostMem, .time, .core, .contracts, .pair, .fw, .mbs, .fence, .events, .stats] s (execCopySent port tick s) := by
  unfold execCopySent
  try dsimp only
  repeat' with_reducible first
    | apply goesOn.refl | apply State.advanceTick_on | apply State.copySent_on | apply out_next | apply out_fault | apply out_ite
    | decide | split

theorem execCopySent_on {kp : List Part} {b0 : State} {port : Nat} {tick : Nat} {s : State} (hk : goesOn kp b0 s) (hq : ∀ p ∈ [.clock, .free, .cmd, .hostMem, .time, .core, .contracts, .pair, .fw, .mbs, .fence, .events, .stats], p ∈ kp) :
    Out.keeps kp b0 (execCopySent port tick s) := .after hk ((execCopySent_keeps port tick s).mono hq)

theorem execSpillBurst_keeps (s : State) :
    Out.keeps [.clock, .free, .cmd, .hostMem, .core, .contracts, .pair, .fw, .mbs, .fence, .events, .stats] s (execSpillBurst s) := by
  unfold execSpillBurst
  try dsimp only
  repeat' first
    | with_reducible apply goesOn.refl | with_reducible assumption | with_reducible apply keeps_ite
    | (with_reducible apply keeps_foldl; rotate_left 1; intro y a hy) | with_reducible apply State.advanceTick_on
    | with_reducible apply State.poolFollow_on | with_reducible apply State.updCopy_on | with_reducible apply kset_core
    | with_reducible apply out_next | with_reducible apply out_fault | with_reducible apply out_ite | with_reducible decide
    | split

theorem execSpillBurst_on {kp : List Part} {b0 : State} {s : State} (hk : goesOn kp b0 s) (hq : ∀ p ∈ [.clock, .free, .cmd, .hostMem, .core, .contracts, .pair, .fw, .mbs, .fence, .events, .stats], p ∈ kp) :
    Out.keeps kp b0 (execSpillBurst s) := .after hk ((execSpillBurst_keeps s).mono hq)

theorem execReturnBurst_keeps (s : State) :
    Out.keeps [.clock, .free, .cmd, .hostMem, .core, .pair, .fw, .mbs, .fence, .events, .stats] s (execReturnBurst s) := by
  unfold execReturnBurst
  try dsimp only
  repeat' first
    | with_reducible apply goesOn.refl | with_reducible assumption | with_reducible apply keeps_ite
    | (with_reducible apply keeps_foldl; rotate_left 1; intro y a hy) | with_reducible apply State.advanceTick_on
    | with_reducible apply State.updCopy_on | with_reducible apply kset_core | with_reducible apply out_next
    | with_reducible apply out_fault | with_reducible apply out_ite | with_reducible decide | split

theorem execReturnBurst_on {kp : List Part} {b0 : State} {s : State} (hk : goesOn kp b0 s) (hq : ∀ p ∈ [.clock, .free, .cmd, .hostMem, .core, .pair, .fw, .mbs, .fence, .events, .stats], p ∈ kp) :
    Out.keeps kp b0 (execReturnBurst s) := .after hk ((execReturnBurst_keeps s).mono hq)

theorem execSkeinInitDone_keeps (pass : Bool) (s : State) :
    Out.keeps [.core, .fence, .events] s (execSkeinInitDone pass s) := by
  unfold execSkeinInitDone
  try dsimp only
  repeat' with_reducible first
    | apply goesOn.refl | apply State.raise_on | apply kset_core | apply out_next | apply out_ite | decide

theorem execSkeinInitDone_on {kp : List Part} {b0 : State} {pass : Bool} {s : State} (hk : goesOn kp b0 s) (hq : ∀ p ∈ [.core, .fence, .events], p ∈ kp) :
    Out.keeps kp b0 (execSkeinInitDone pass s) := .after hk ((execSkeinInitDone_keeps pass s).mono hq)

theorem State.skeinFail_keeps (s : State) :
    goesOn [.free, .time, .core, .contracts, .pair, .fence, .events, .stats] s (State.skeinFail s) := by
  unfold State.skeinFail
  try dsimp only
  repeat' first
    | with_reducible apply goesOn.refl | with_reducible assumption
    | (with_reducible apply keeps_foldl; rotate_left 1; intro y a hy) | with_reducible apply State.discardCopy_on
    | with_reducible apply State.raise_on | with_reducible apply kset_core | with_reducible decide

theorem State.skeinFail_on {kp : List Part} {b0 : State} {s : State} (hk : goesOn kp b0 s) (hq : ∀ p ∈ [.free, .time, .core, .contracts, .pair, .fence, .events, .stats], p ∈ kp) :
    goesOn kp b0 (State.skeinFail s) := hk.trans ((State.skeinFail_keeps s).mono hq)

theorem execSkeinCellError_keeps (copy : Nat) (fixed : Bool) (s : State) :
    Out.keeps [.free, .time, .core, .contracts, .pair, .fence, .events, .stats] s (execSkeinCellError copy fixed s) := by
  unfold execSkeinCellError
  try dsimp only
  repeat' with_reducible first
    | apply goesOn.refl | apply State.discardCopy_on | apply State.skeinFail_on | apply kset_core | apply out_next
    | apply out_fault | apply out_ite | decide

theorem execSkeinCellError_on {kp : List Part} {b0 : State} {copy : Nat} {fixed : Bool} {s : State} (hk : goesOn kp b0 s) (hq : ∀ p ∈ [.free, .time, .core, .contracts, .pair, .fence, .events, .stats], p ∈ kp) :
    Out.keeps kp b0 (execSkeinCellError copy fixed s) := .after hk ((execSkeinCellError_keeps copy fixed s).mono hq)

theorem execSkeinFault_keeps (s : State) :
    Out.keeps [.free, .time, .core, .contracts, .pair, .fence, .events, .stats] s (execSkeinFault s) := by
  unfold execSkeinFault
  try dsimp only
  repeat' with_reducible first
    | apply goesOn.refl | apply State.skeinFail_on | apply out_next | apply out_ite | decide

theorem execSkeinFault_on {kp : List Part} {b0 : State} {s : State} (hk : goesOn kp b0 s) (hq : ∀ p ∈ [.free, .time, .core, .contracts, .pair, .fence, .events, .stats], p ∈ kp) :
    Out.keeps kp b0 (execSkeinFault s) := .after hk ((execSkeinFault_keeps s).mono hq)

theorem execCellEccError_keeps (copies : List Nat) (location : Nat) (fixed : Bool) (s : State) :
    Out.keeps [.free, .time, .core, .contracts, .pair, .fence, .events, .stats] s (execCellEccError copies location fixed s) := by
  unfold execCellEccError
  try dsimp only
  repeat' first
    | with_reducible apply goesOn.refl | with_reducible assumption
    | (with_reducible apply keeps_foldl; rotate_left 1; intro y a hy) | with_reducible apply State.endCopy_on
    | with_reducible apply State.raise_on | with_reducible apply kset_core | with_reducible apply out_next
    | with_reducible apply out_fault | with_reducible apply out_ite | with_reducible decide

theorem execCellEccError_on {kp : List Part} {b0 : State} {copies : List Nat} {location : Nat} {fixed : Bool} {s : State} (hk : goesOn kp b0 s) (hq : ∀ p ∈ [.free, .time, .core, .contracts, .pair, .fence, .events, .stats], p ∈ kp) :
    Out.keeps kp b0 (execCellEccError copies location fixed s) := .after hk ((execCellEccError_keeps copies location fixed s).mono hq)

theorem execQueueFlushed_keeps (tile : Nat) (port : Nat) (cls : Nat) (egress : Bool) (s : State) :
    Out.keeps [.free, .time, .core, .contracts, .pair, .fence, .events, .stats] s (execQueueFlushed tile port cls egress s) := by
  unfold execQueueFlushed
  try dsimp only
  repeat' first
    | with_reducible apply goesOn.refl | with_reducible assumption
    | (with_reducible apply keeps_foldl; rotate_left 1; intro y a hy) | with_reducible apply State.endCopy_on
    | with_reducible apply State.raise_on | with_reducible apply out_next | with_reducible apply out_fault
    | with_reducible apply out_ite | with_reducible decide

theorem execQueueFlushed_on {kp : List Part} {b0 : State} {tile : Nat} {port : Nat} {cls : Nat} {egress : Bool} {s : State} (hk : goesOn kp b0 s) (hq : ∀ p ∈ [.free, .time, .core, .contracts, .pair, .fence, .events, .stats], p ∈ kp) :
    Out.keeps kp b0 (execQueueFlushed tile port cls egress s) := .after hk ((execQueueFlushed_keeps tile port cls egress s).mono hq)

theorem bodyBufferConfigureClass_keeps (cls : Nat) (cl : Nat) (spillOn : Nat) (returnLow : Nat) (s : State) :
    Rep.keeps [.core] s (bodyBufferConfigureClass cls cl spillOn returnLow s) := by
  unfold bodyBufferConfigureClass
  try dsimp only
  repeat' with_reducible first
    | apply goesOn.refl | apply kset_core | apply rep_ok | apply rep_ranges | decide

theorem bodyBufferConfigureClass_on {kp : List Part} {b0 : State} {cls : Nat} {cl : Nat} {spillOn : Nat} {returnLow : Nat} {s : State} (hk : goesOn kp b0 s) (hq : ∀ p ∈ [.core], p ∈ kp) :
    Rep.keeps kp b0 (bodyBufferConfigureClass cls cl spillOn returnLow s) := .after hk ((bodyBufferConfigureClass_keeps cls cl spillOn returnLow s).mono hq)

theorem bodyQueueConfigure_keeps (port : Nat) (cls : Nat) (ql : Nat) (weight : Nat) (s : State) :
    Rep.keeps [.core] s (bodyQueueConfigure port cls ql weight s) := by
  unfold bodyQueueConfigure
  try dsimp only
  repeat' with_reducible first
    | apply goesOn.refl | apply State.updQueue_on | apply rep_ok | apply rep_fail | apply rep_ranges | apply rep_ite | decide

theorem bodyQueueConfigure_on {kp : List Part} {b0 : State} {port : Nat} {cls : Nat} {ql : Nat} {weight : Nat} {s : State} (hk : goesOn kp b0 s) (hq : ∀ p ∈ [.core], p ∈ kp) :
    Rep.keeps kp b0 (bodyQueueConfigure port cls ql weight s) := .after hk ((bodyQueueConfigure_keeps port cls ql weight s).mono hq)

theorem bodyPortConfigureEgress_keeps (cut : Bool) (port : Nat) (limit : Nat) (s : State) :
    Rep.keeps [.core, .contracts, .fw, .fence, .events] s (bodyPortConfigureEgress cut port limit s) := by
  unfold bodyPortConfigureEgress
  try dsimp only
  repeat' with_reducible first
    | apply goesOn.refl | apply State.reevaluate_on | apply kset_core | apply rep_ok | apply rep_ranges | decide

theorem bodyPortConfigureEgress_on {kp : List Part} {b0 : State} {cut : Bool} {port : Nat} {limit : Nat} {s : State} (hk : goesOn kp b0 s) (hq : ∀ p ∈ [.core, .contracts, .fw, .fence, .events], p ∈ kp) :
    Rep.keeps kp b0 (bodyPortConfigureEgress cut port limit s) := .after hk ((bodyPortConfigureEgress_keeps cut port limit s).mono hq)

theorem bodySkeinConfigure_keeps (spill : Bool) (cls : Nat) (s : State) :
    Rep.keeps [.core] s (bodySkeinConfigure spill cls s) := by
  unfold bodySkeinConfigure
  try dsimp only
  repeat' with_reducible first
    | apply goesOn.refl | apply kset_core | apply rep_ok | apply rep_fail | apply rep_bad | apply rep_ranges | apply rep_ite
    | decide

theorem bodySkeinConfigure_on {kp : List Part} {b0 : State} {spill : Bool} {cls : Nat} {s : State} (hk : goesOn kp b0 s) (hq : ∀ p ∈ [.core], p ∈ kp) :
    Rep.keeps kp b0 (bodySkeinConfigure spill cls s) := .after hk ((bodySkeinConfigure_keeps spill cls s).mono hq)

theorem bodySkeinGetStatus_keeps (clear : Bool) (s : State) :
    Rep.keeps [.core] s (bodySkeinGetStatus clear s) := by
  unfold bodySkeinGetStatus
  try dsimp only
  repeat' with_reducible first
    | apply goesOn.refl | apply keeps_ite | apply kset_core | apply rep_ok | apply rep_fail | apply rep_ite | decide

theorem bodySkeinGetStatus_on {kp : List Part} {b0 : State} {clear : Bool} {s : State} (hk : goesOn kp b0 s) (hq : ∀ p ∈ [.core], p ∈ kp) :
    Rep.keeps kp b0 (bodySkeinGetStatus clear s) := .after hk ((bodySkeinGetStatus_keeps clear s).mono hq)

theorem bodyCoreGetQueue_keeps (clear : Bool) (port : Nat) (cls : Nat) (s : State) :
    Rep.keeps [.core, .stats] s (bodyCoreGetQueue clear port cls s) := by
  unfold bodyCoreGetQueue
  try dsimp only
  repeat' with_reducible first
    | apply goesOn.refl | apply keeps_ite | apply State.rebaseAll_on | apply State.updQueue_on | apply rep_ok | apply rep_ranges
    | decide

theorem bodyCoreGetQueue_on {kp : List Part} {b0 : State} {clear : Bool} {port : Nat} {cls : Nat} {s : State} (hk : goesOn kp b0 s) (hq : ∀ p ∈ [.core, .stats], p ∈ kp) :
    Rep.keeps kp b0 (bodyCoreGetQueue clear port cls s) := .after hk ((bodyCoreGetQueue_keeps clear port cls s).mono hq)

theorem bodyBufferGetStatus_keeps (s : State) :
    Rep.keeps [] s (bodyBufferGetStatus s) := by
  unfold bodyBufferGetStatus
  try dsimp only
  repeat' with_reducible first
    | apply goesOn.refl | apply rep_ok

theorem bodyBufferGetStatus_on {kp : List Part} {b0 : State} {s : State} (hk : goesOn kp b0 s) (hq : ∀ p ∈ [], p ∈ kp) :
    Rep.keeps kp b0 (bodyBufferGetStatus s) := .after hk ((bodyBufferGetStatus_keeps s).mono hq)

theorem execBufferConfigureClass_keeps (src : CmdSrc) (cls : Nat) (cl : Nat) (spillOn : Nat) (returnLow : Nat) (s : State) :
    Out.keeps [.cmd, .hostMem, .glob, .core, .pair, .fw, .mbs, .fence, .events] s (execBufferConfigureClass src cls cl spillOn returnLow s) := by
  unfold execBufferConfigureClass
  try dsimp only
  repeat' first
    | with_reducible apply goesOn.refl | with_reducible apply out_next
    | (with_reducible apply keeps_runCmd; rotate_left 1; intro y) | with_reducible apply bodyBufferConfigureClass_on
    | with_reducible decide

theorem execBufferConfigureClass_on {kp : List Part} {b0 : State} {src : CmdSrc} {cls : Nat} {cl : Nat} {spillOn : Nat} {returnLow : Nat} {s : State} (hk : goesOn kp b0 s) (hq : ∀ p ∈ [.cmd, .hostMem, .glob, .core, .pair, .fw, .mbs, .fence, .events], p ∈ kp) :
    Out.keeps kp b0 (execBufferConfigureClass src cls cl spillOn returnLow s) := .after hk ((execBufferConfigureClass_keeps src cls cl spillOn returnLow s).mono hq)

theorem execQueueConfigure_keeps (src : CmdSrc) (port : Nat) (cls : Nat) (ql : Nat) (weight : Nat) (s : State) :
    Out.keeps [.cmd, .hostMem, .glob, .core, .pair, .fw, .mbs, .fence, .events] s (execQueueConfigure src port cls ql weight s) := by
  unfold execQueueConfigure
  try dsimp only
  repeat' first
    | with_reducible apply goesOn.refl | with_reducible apply out_next
    | (with_reducible apply keeps_runCmd; rotate_left 1; intro y) | with_reducible apply bodyQueueConfigure_on
    | with_reducible decide

theorem execQueueConfigure_on {kp : List Part} {b0 : State} {src : CmdSrc} {port : Nat} {cls : Nat} {ql : Nat} {weight : Nat} {s : State} (hk : goesOn kp b0 s) (hq : ∀ p ∈ [.cmd, .hostMem, .glob, .core, .pair, .fw, .mbs, .fence, .events], p ∈ kp) :
    Out.keeps kp b0 (execQueueConfigure src port cls ql weight s) := .after hk ((execQueueConfigure_keeps src port cls ql weight s).mono hq)

theorem execPortConfigureEgress_keeps (src : CmdSrc) (cut : Bool) (port : Nat) (limit : Nat) (s : State) :
    Out.keeps [.cmd, .hostMem, .glob, .core, .contracts, .pair, .fw, .mbs, .fence, .events] s (execPortConfigureEgress src cut port limit s) := by
  unfold execPortConfigureEgress
  try dsimp only
  repeat' first
    | with_reducible apply goesOn.refl | with_reducible apply out_next
    | (with_reducible apply keeps_runCmd; rotate_left 1; intro y) | with_reducible apply bodyPortConfigureEgress_on
    | with_reducible decide

theorem execPortConfigureEgress_on {kp : List Part} {b0 : State} {src : CmdSrc} {cut : Bool} {port : Nat} {limit : Nat} {s : State} (hk : goesOn kp b0 s) (hq : ∀ p ∈ [.cmd, .hostMem, .glob, .core, .contracts, .pair, .fw, .mbs, .fence, .events], p ∈ kp) :
    Out.keeps kp b0 (execPortConfigureEgress src cut port limit s) := .after hk ((execPortConfigureEgress_keeps src cut port limit s).mono hq)

theorem execSkeinConfigure_keeps (src : CmdSrc) (spill : Bool) (cls : Nat) (s : State) :
    Out.keeps [.cmd, .hostMem, .glob, .core, .pair, .fw, .mbs, .fence, .events] s (execSkeinConfigure src spill cls s) := by
  unfold execSkeinConfigure
  try dsimp only
  repeat' first
    | with_reducible apply goesOn.refl | with_reducible apply out_next
    | (with_reducible apply keeps_runCmd; rotate_left 1; intro y) | with_reducible apply bodySkeinConfigure_on
    | with_reducible decide

theorem execSkeinConfigure_on {kp : List Part} {b0 : State} {src : CmdSrc} {spill : Bool} {cls : Nat} {s : State} (hk : goesOn kp b0 s) (hq : ∀ p ∈ [.cmd, .hostMem, .glob, .core, .pair, .fw, .mbs, .fence, .events], p ∈ kp) :
    Out.keeps kp b0 (execSkeinConfigure src spill cls s) := .after hk ((execSkeinConfigure_keeps src spill cls s).mono hq)

theorem execSkeinGetStatus_keeps (src : CmdSrc) (clear : Bool) (s : State) :
    Out.keeps [.cmd, .hostMem, .glob, .core, .pair, .fw, .mbs, .fence, .events] s (execSkeinGetStatus src clear s) := by
  unfold execSkeinGetStatus
  try dsimp only
  repeat' first
    | with_reducible apply goesOn.refl | with_reducible apply out_next
    | (with_reducible apply keeps_runCmd; rotate_left 1; intro y) | with_reducible apply bodySkeinGetStatus_on
    | with_reducible decide

theorem execSkeinGetStatus_on {kp : List Part} {b0 : State} {src : CmdSrc} {clear : Bool} {s : State} (hk : goesOn kp b0 s) (hq : ∀ p ∈ [.cmd, .hostMem, .glob, .core, .pair, .fw, .mbs, .fence, .events], p ∈ kp) :
    Out.keeps kp b0 (execSkeinGetStatus src clear s) := .after hk ((execSkeinGetStatus_keeps src clear s).mono hq)

theorem execCoreGetQueue_keeps (src : CmdSrc) (clear : Bool) (port : Nat) (cls : Nat) (s : State) :
    Out.keeps [.cmd, .hostMem, .glob, .core, .pair, .fw, .mbs, .fence, .events, .stats] s (execCoreGetQueue src clear port cls s) := by
  unfold execCoreGetQueue
  try dsimp only
  repeat' first
    | with_reducible apply goesOn.refl | with_reducible apply out_next
    | (with_reducible apply keeps_runCmd; rotate_left 1; intro y) | with_reducible apply bodyCoreGetQueue_on
    | with_reducible decide

theorem execCoreGetQueue_on {kp : List Part} {b0 : State} {src : CmdSrc} {clear : Bool} {port : Nat} {cls : Nat} {s : State} (hk : goesOn kp b0 s) (hq : ∀ p ∈ [.cmd, .hostMem, .glob, .core, .pair, .fw, .mbs, .fence, .events, .stats], p ∈ kp) :
    Out.keeps kp b0 (execCoreGetQueue src clear port cls s) := .after hk ((execCoreGetQueue_keeps src clear port cls s).mono hq)

theorem execBufferGetStatus_keeps (src : CmdSrc) (s : State) :
    Out.keeps [.cmd, .hostMem, .glob, .pair, .fw, .mbs, .fence, .events] s (execBufferGetStatus src s) := by
  unfold execBufferGetStatus
  try dsimp only
  repeat' first
    | with_reducible apply goesOn.refl | with_reducible apply out_next
    | (with_reducible apply keeps_runCmd; rotate_left 1; intro y) | with_reducible apply bodyBufferGetStatus_on
    | with_reducible decide

theorem execBufferGetStatus_on {kp : List Part} {b0 : State} {src : CmdSrc} {s : State} (hk : goesOn kp b0 s) (hq : ∀ p ∈ [.cmd, .hostMem, .glob, .pair, .fw, .mbs, .fence, .events], p ∈ kp) :
    Out.keeps kp b0 (execBufferGetStatus src s) := .after hk ((execBufferGetStatus_keeps src s).mono hq)

end Sys2Proof.Machine
end

