-- ==== Sys2Proof/Laws/Keeps/PairCmds.lean ====
section
/-!
SUPPORT. Which parts of the state each operation of PairCmds.lean touches.
-/
namespace Sys2Proof.Machine

theorem State.unlink_keeps (s : State) :
    goesOn [.lanes, .ports, .pair] s (State.unlink s) := by
  unfold State.unlink
  try dsimp only
  repeat' first
    | with_reducible apply goesOn.refl | with_reducible assumption
    | (with_reducible apply keeps_foldl; rotate_left 1; intro y a hy) | with_reducible apply State.updLane_on
    | with_reducible apply kset_ports_pair | with_reducible decide

theorem State.unlink_on {kp : List Part} {b0 : State} {s : State} (hk : goesOn kp b0 s) (hq : ∀ p ∈ [.lanes, .ports, .pair], p ∈ kp) :
    goesOn kp b0 (State.unlink s) := hk.trans ((State.unlink_keeps s).mono hq)

theorem State.castLink_keeps (s : State) (k : Nat) :
    goesOn [.lanes, .ports, .selv, .tdc, .ptp, .pair, .fence, .events] s (State.castLink s k) := by
  unfold State.castLink
  try dsimp only
  repeat' with_reducible first
    | apply goesOn.refl | apply keeps_ite | apply State.startCasting_on | apply State.unlink_on | apply kset_ports_pair | decide

theorem State.castLink_on {kp : List Part} {b0 : State} {s : State} {k : Nat} (hk : goesOn kp b0 s) (hq : ∀ p ∈ [.lanes, .ports, .selv, .tdc, .ptp, .pair, .fence, .events], p ∈ kp) :
    goesOn kp b0 (State.castLink s k) := hk.trans ((State.castLink_keeps s k).mono hq)

theorem State.enterJoining_keeps (s : State) :
    goesOn [.lanes, .ports, .selv, .tdc, .time, .ptp, .pair, .fence, .events] s (State.enterJoining s) := by
  unfold State.enterJoining
  try dsimp only
  repeat' with_reducible first
    | apply goesOn.refl | apply keeps_ite | apply State.castLink_on | apply State.sendCtl_on | apply State.setRole_on
    | apply kset_pair | decide

theorem State.enterJoining_on {kp : List Part} {b0 : State} {s : State} (hk : goesOn kp b0 s) (hq : ∀ p ∈ [.lanes, .ports, .selv, .tdc, .time, .ptp, .pair, .fence, .events], p ∈ kp) :
    goesOn kp b0 (State.enterJoining s) := hk.trans ((State.enterJoining_keeps s).mono hq)

theorem State.enterAlone_keeps (s : State) :
    goesOn [.lanes, .ports, .time, .pair, .fence, .events] s (State.enterAlone s) := by
  unfold State.enterAlone
  try dsimp only
  repeat' with_reducible first
    | apply goesOn.refl | apply State.setRole_on | apply State.unlink_on | apply kset_pair | decide

theorem State.enterAlone_on {kp : List Part} {b0 : State} {s : State} (hk : goesOn kp b0 s) (hq : ∀ p ∈ [.lanes, .ports, .time, .pair, .fence, .events], p ∈ kp) :
    goesOn kp b0 (State.enterAlone s) := hk.trans ((State.enterAlone_keeps s).mono hq)

theorem State.ctlRx_keeps (s : State) :
    goesOn [.pair] s (State.ctlRx s) := by
  unfold State.ctlRx
  try dsimp only
  repeat' with_reducible first
    | apply goesOn.refl | apply kset_pair | decide

theorem State.ctlRx_on {kp : List Part} {b0 : State} {s : State} (hk : goesOn kp b0 s) (hq : ∀ p ∈ [.pair], p ∈ kp) :
    goesOn kp b0 (State.ctlRx s) := hk.trans ((State.ctlRx_keeps s).mono hq)

theorem execPartnerHello_keeps (strap : Bool) (epoch : Nat) (order : Nat) (stepping : Nat) (s : State) :
    Out.keeps [.time, .pair, .fence, .events] s (execPartnerHello strap epoch order stepping s) := by
  unfold execPartnerHello
  try dsimp only
  repeat' with_reducible first
    | apply goesOn.refl | assumption | apply keeps_ite | apply State.becomeActive_on | apply State.ctlRx_on
    | apply State.enterSyncing_on | apply State.raise_on | apply State.sendCtl_on | apply State.setRole_on | apply kset_pair
    | apply out_next | apply out_fault | apply out_ite | decide | split

theorem execPartnerHello_on {kp : List Part} {b0 : State} {strap : Bool} {epoch : Nat} {order : Nat} {stepping : Nat} {s : State} (hk : goesOn kp b0 s) (hq : ∀ p ∈ [.time, .pair, .fence, .events], p ∈ kp) :
    Out.keeps kp b0 (execPartnerHello strap epoch order stepping s) := .after hk ((execPartnerHello_keeps strap epoch order stepping s).mono hq)

theorem execJoinTimeout_keeps (s : State) :
    Out.keeps [.clock, .free, .cmd, .hostMem, .time, .pair, .fw, .mbs, .fence, .events, .stats] s (execJoinTimeout s) := by
  unfold execJoinTimeout
  try dsimp only
  repeat' with_reducible first
    | apply goesOn.refl | apply State.advance_on | apply State.becomeActive_on | apply out_next | apply out_ite | decide | split

theorem execJoinTimeout_on {kp : List Part} {b0 : State} {s : State} (hk : goesOn kp b0 s) (hq : ∀ p ∈ [.clock, .free, .cmd, .hostMem, .time, .pair, .fw, .mbs, .fence, .events, .stats], p ∈ kp) :
    Out.keeps kp b0 (execJoinTimeout s) := .after hk ((execJoinTimeout_keeps s).mono hq)

theorem execPairAliveToggle_keeps (s : State) :
    Out.keeps [.clock, .free, .cmd, .hostMem, .pair, .fw, .mbs, .fence, .events, .stats] s (execPairAliveToggle s) := by
  unfold execPairAliveToggle
  try dsimp only
  repeat' with_reducible first
    | apply goesOn.refl | apply State.advanceTick_on | apply kset_pair | apply out_next | apply out_ite | decide

theorem execPairAliveToggle_on {kp : List Part} {b0 : State} {s : State} (hk : goesOn kp b0 s) (hq : ∀ p ∈ [.clock, .free, .cmd, .hostMem, .pair, .fw, .mbs, .fence, .events, .stats], p ∈ kp) :
    Out.keeps kp b0 (execPairAliveToggle s) := .after hk ((execPairAliveToggle_keeps s).mono hq)

theorem execPairAliveEdge_keeps (cycle : Nat) (stable : Nat) (s : State) :
    Out.keeps [.clock, .free, .cmd, .hostMem, .pair, .fw, .mbs, .fence, .events, .stats] s (execPairAliveEdge cycle stable s) := by
  unfold execPairAliveEdge
  try dsimp only
  repeat' with_reducible first
    | apply goesOn.refl | assumption | apply keeps_ite | apply State.advance_on | apply State.hwCount_on | apply kset_pair
    | apply out_next | apply out_fault | apply out_ite | decide | split

theorem execPairAliveEdge_on {kp : List Part} {b0 : State} {cycle : Nat} {stable : Nat} {s : State} (hk : goesOn kp b0 s) (hq : ∀ p ∈ [.clock, .free, .cmd, .hostMem, .pair, .fw, .mbs, .fence, .events, .stats], p ∈ kp) :
    Out.keeps kp b0 (execPairAliveEdge cycle stable s) := .after hk ((execPairAliveEdge_keeps cycle stable s).mono hq)

theorem execKeepaliveTx_keeps (s : State) :
    Out.keeps [.clock, .free, .cmd, .hostMem, .pair, .fw, .mbs, .fence, .events, .stats] s (execKeepaliveTx s) := by
  unfold execKeepaliveTx
  try dsimp only
  repeat' with_reducible first
    | apply goesOn.refl | apply State.advance_on | apply State.sendCtl_on | apply out_next | apply out_ite | decide

theorem execKeepaliveTx_on {kp : List Part} {b0 : State} {s : State} (hk : goesOn kp b0 s) (hq : ∀ p ∈ [.clock, .free, .cmd, .hostMem, .pair, .fw, .mbs, .fence, .events, .stats], p ∈ kp) :
    Out.keeps kp b0 (execKeepaliveTx s) := .after hk ((execKeepaliveTx_keeps s).mono hq)

theorem execHealthReportTx_keeps (s : State) :
    Out.keeps [.pair] s (execHealthReportTx s) := by
  unfold execHealthReportTx
  try dsimp only
  repeat' with_reducible first
    | apply goesOn.refl | apply State.sendCtl_on | apply kset_pair | apply out_next | apply out_ite | decide

theorem execHealthReportTx_on {kp : List Part} {b0 : State} {s : State} (hk : goesOn kp b0 s) (hq : ∀ p ∈ [.pair], p ∈ kp) :
    Out.keeps kp b0 (execHealthReportTx s) := .after hk ((execHealthReportTx_keeps s).mono hq)

theorem State.frog_keeps (s : State) (cycle : Nat) :
    goesOn [.time, .pair, .fence, .events] s (State.frog s cycle) := by
  unfold State.frog
  try dsimp only
  repeat' with_reducible first
    | apply goesOn.refl | assumption | apply keeps_ite | apply State.enterSyncing_on | apply State.hwCount_on
    | apply State.raise_on | apply State.sendCtl_on | apply kset_pair | decide | split

theorem State.frog_on {kp : List Part} {b0 : State} {s : State} {cycle : Nat} (hk : goesOn kp b0 s) (hq : ∀ p ∈ [.time, .pair, .fence, .events], p ∈ kp) :
    goesOn kp b0 (State.frog s cycle) := hk.trans ((State.frog_keeps s cycle).mono hq)

theorem State.sendJournal_keeps (s : State) :
    goesOn [.pair] s (State.sendJournal s) := by
  unfold State.sendJournal
  try dsimp only
  repeat' with_reducible first
    | apply goesOn.refl | apply State.sendCtl_on | apply kset_pair | decide

theorem State.sendJournal_on {kp : List Part} {b0 : State} {s : State} (hk : goesOn kp b0 s) (hq : ∀ p ∈ [.pair], p ∈ kp) :
    goesOn kp b0 (State.sendJournal s) := hk.trans ((State.sendJournal_keeps s).mono hq)

theorem execLifelineCycleEnd_keeps (s : State) :
    Out.keeps [.clock, .free, .cmd, .hostMem, .time, .pair, .fw, .mbs, .fence, .events, .stats] s (execLifelineCycleEnd s) := by
  unfold execLifelineCycleEnd
  try dsimp only
  repeat' with_reducible first
    | apply goesOn.refl | apply State.advanceTick_on | apply State.frog_on | apply State.sendJournal_on | apply kset_pair
    | apply out_next | apply out_ite | decide

theorem execLifelineCycleEnd_on {kp : List Part} {b0 : State} {s : State} (hk : goesOn kp b0 s) (hq : ∀ p ∈ [.clock, .free, .cmd, .hostMem, .time, .pair, .fw, .mbs, .fence, .events, .stats], p ∈ kp) :
    Out.keeps kp b0 (execLifelineCycleEnd s) := .after hk ((execLifelineCycleEnd_keeps s).mono hq)

theorem State.commitMarker_keeps (s : State) (cycle : Nat) (applyAt : Nat) (crcOk : Bool) (journal : List RawCmd) :
    goesOn [.time, .pair, .fence, .events] s (State.commitMarker s cycle applyAt crcOk journal) := by
  unfold State.commitMarker
  try dsimp only
  repeat' with_reducible first
    | apply goesOn.refl | apply keeps_ite | apply State.ctlRx_on | apply State.frog_on | apply State.sendCtl_on | apply kset_pair
    | decide

theorem State.commitMarker_on {kp : List Part} {b0 : State} {s : State} {cycle : Nat} {applyAt : Nat} {crcOk : Bool} {journal : List RawCmd} (hk : goesOn kp b0 s) (hq : ∀ p ∈ [.time, .pair, .fence, .events], p ∈ kp) :
    goesOn kp b0 (State.commitMarker s cycle applyAt crcOk journal) := hk.trans ((State.commitMarker_keeps s cycle applyAt crcOk journal).mono hq)

theorem execCommitMarkerRx_keeps (cycle : Nat) (applyAt : Nat) (crcOk : Bool) (journal : List RawCmd) (s : State) :
    Out.keeps [.time, .pair, .fence, .events] s (execCommitMarkerRx cycle applyAt crcOk journal s) := by
  unfold execCommitMarkerRx
  try dsimp only
  repeat' with_reducible first
    | apply goesOn.refl | apply State.commitMarker_on | apply kset_pair | apply out_next | apply out_ite | decide

theorem execCommitMarkerRx_on {kp : List Part} {b0 : State} {cycle : Nat} {applyAt : Nat} {crcOk : Bool} {journal : List RawCmd} {s : State} (hk : goesOn kp b0 s) (hq : ∀ p ∈ [.time, .pair, .fence, .events], p ∈ kp) :
    Out.keeps kp b0 (execCommitMarkerRx cycle applyAt crcOk journal s) := .after hk ((execCommitMarkerRx_keeps cycle applyAt crcOk journal s).mono hq)

theorem execLifelineAckRx_keeps (cycle : Nat) (s : State) :
    Out.keeps [.pair] s (execLifelineAckRx cycle s) := by
  unfold execLifelineAckRx
  try dsimp only
  repeat' with_reducible first
    | apply goesOn.refl | apply State.ctlRx_on | apply State.sendCtl_on | apply kset_pair | apply out_next | apply out_ite
    | decide | split

theorem execLifelineAckRx_on {kp : List Part} {b0 : State} {cycle : Nat} {s : State} (hk : goesOn kp b0 s) (hq : ∀ p ∈ [.pair], p ∈ kp) :
    Out.keeps kp b0 (execLifelineAckRx cycle s) := .after hk ((execLifelineAckRx_keeps cycle s).mono hq)

theorem execLifelineNackRx_keeps (cycle : Nat) (s : State) :
    Out.keeps [.pair] s (execLifelineNackRx cycle s) := by
  unfold execLifelineNackRx
  try dsimp only
  repeat' with_reducible first
    | apply goesOn.refl | apply State.ctlRx_on | apply kset_pair | apply out_next | apply out_ite | decide

theorem execLifelineNackRx_on {kp : List Part} {b0 : State} {cycle : Nat} {s : State} (hk : goesOn kp b0 s) (hq : ∀ p ∈ [.pair], p ∈ kp) :
    Out.keeps kp b0 (execLifelineNackRx cycle s) := .after hk ((execLifelineNackRx_keeps cycle s).mono hq)

theorem execLifelineConfirmRx_keeps (cycle : Nat) (s : State) :
    Out.keeps [.pair] s (execLifelineConfirmRx cycle s) := by
  unfold execLifelineConfirmRx
  try dsimp only
  repeat' with_reducible first
    | apply goesOn.refl | apply State.ctlRx_on | apply kset_pair | apply out_next | apply out_ite | decide | split

theorem execLifelineConfirmRx_on {kp : List Part} {b0 : State} {cycle : Nat} {s : State} (hk : goesOn kp b0 s) (hq : ∀ p ∈ [.pair], p ∈ kp) :
    Out.keeps kp b0 (execLifelineConfirmRx cycle s) := .after hk ((execLifelineConfirmRx_keeps cycle s).mono hq)

theorem State.classifyX_keeps (s : State) (x : LookIn) :
    goesOn [.parse, .fence, .events, .stats] s (State.classifyX s x).1 := by
  unfold State.classifyX
  try dsimp only
  repeat' with_reducible first
    | apply goesOn.refl | apply keeps_ite1 | apply State.look_on | decide

theorem State.classifyX_on {kp : List Part} {b0 : State} {s : State} {x : LookIn} (hk : goesOn kp b0 s) (hq : ∀ p ∈ [.parse, .fence, .events, .stats], p ∈ kp) :
    goesOn kp b0 (State.classifyX s x).1 := hk.trans ((State.classifyX_keeps s x).mono hq)

theorem execXfeedCopyRx_keeps (cross : Bool) (port : Nat) (source : Nat) (seq : Nat) (egress : Nat) (bytes : List Byte) (tick : Nat) (sub : Nat) (stale : Bool) (coast : Bool) (kSec : Nat) (kSub : Nat) (s : State) :
    Out.keeps [.free, .time, .parse, .fwd, .core, .contracts, .pair, .fw, .fence, .events, .stats] s (execXfeedCopyRx cross port source seq egress bytes tick sub stale coast kSec kSub s) := by
  unfold execXfeedCopyRx
  try dsimp only
  repeat' with_reducible first
    | apply goesOn.refl | apply keeps_ite | apply State.aclHit_on | apply State.classifyX_on | apply State.decideFrame_on
    | apply State.dupTouch_on | apply out_next | apply out_fault | apply out_ite | decide | split | apply kset_core

theorem execXfeedCopyRx_on {kp : List Part} {b0 : State} {cross : Bool} {port : Nat} {source : Nat} {seq : Nat} {egress : Nat} {bytes : List Byte} {tick : Nat} {sub : Nat} {stale : Bool} {coast : Bool} {kSec : Nat} {kSub : Nat} {s : State} (hk : goesOn kp b0 s) (hq : ∀ p ∈ [.free, .time, .parse, .fwd, .core, .contracts, .pair, .fw, .fence, .events, .stats], p ∈ kp) :
    Out.keeps kp b0 (execXfeedCopyRx cross port source seq egress bytes tick sub stale coast kSec kSub s) := .after hk ((execXfeedCopyRx_keeps cross port source seq egress bytes tick sub stale coast kSec kSub s).mono hq)

theorem execDigestBlockClose_keeps (source : Nat) (block : Nat) (s : State) :
    Out.keeps [.clock, .free, .cmd, .hostMem, .time, .pair, .fw, .mbs, .fence, .events, .stats] s (execDigestBlockClose source block s) := by
  unfold execDigestBlockClose
  try dsimp only
  repeat' with_reducible first
    | apply goesOn.refl | apply State.advance_on | apply State.closeBlock_on | apply out_next | apply out_fault | apply out_ite
    | decide | split

theorem execDigestBlockClose_on {kp : List Part} {b0 : State} {source : Nat} {block : Nat} {s : State} (hk : goesOn kp b0 s) (hq : ∀ p ∈ [.clock, .free, .cmd, .hostMem, .time, .pair, .fw, .mbs, .fence, .events, .stats], p ∈ kp) :
    Out.keeps kp b0 (execDigestBlockClose source block s) := .after hk ((execDigestBlockClose_keeps source block s).mono hq)

theorem State.outcomeTimeout_keeps (s : State) (src : Nat) (d : DigestRec) :
    goesOn [.time, .pair, .fence, .events] s (State.outcomeTimeout s src d) := by
  unfold State.outcomeTimeout
  try dsimp only
  repeat' with_reducible first
    | apply goesOn.refl | apply keeps_ite | apply State.compareWith_on | apply State.sendCtl_on | apply State.updBlock_on | decide
    | split | apply kset_pair

theorem State.outcomeTimeout_on {kp : List Part} {b0 : State} {s : State} {src : Nat} {d : DigestRec} (hk : goesOn kp b0 s) (hq : ∀ p ∈ [.time, .pair, .fence, .events], p ∈ kp) :
    goesOn kp b0 (State.outcomeTimeout s src d) := hk.trans ((State.outcomeTimeout_keeps s src d).mono hq)

theorem execDigestOutcomeTimeout_keeps (source : Nat) (block : Nat) (s : State) :
    Out.keeps [.clock, .free, .cmd, .hostMem, .time, .pair, .fw, .mbs, .fence, .events, .stats] s (execDigestOutcomeTimeout source block s) := by
  unfold execDigestOutcomeTimeout
  try dsimp only
  repeat' with_reducible first
    | apply goesOn.refl | apply State.advance_on | apply State.outcomeTimeout_on | apply out_next | apply out_fault
    | apply out_ite | decide | split

theorem execDigestOutcomeTimeout_on {kp : List Part} {b0 : State} {source : Nat} {block : Nat} {s : State} (hk : goesOn kp b0 s) (hq : ∀ p ∈ [.clock, .free, .cmd, .hostMem, .time, .pair, .fw, .mbs, .fence, .events, .stats], p ∈ kp) :
    Out.keeps kp b0 (execDigestOutcomeTimeout source block s) := .after hk ((execDigestOutcomeTimeout_keeps source block s).mono hq)

theorem execDigestRecordRx_keeps (source : Nat) (block : Nat) (part : DigestPart) (s : State) :
    Out.keeps [.time, .pair, .fence, .events] s (execDigestRecordRx source block part s) := by
  unfold execDigestRecordRx
  try dsimp only
  repeat' with_reducible first
    | apply goesOn.refl | apply State.compareBlock_on | apply State.ctlRx_on | apply State.updDup_on | apply out_next
    | apply out_fault | apply out_ite | decide

theorem execDigestRecordRx_on {kp : List Part} {b0 : State} {source : Nat} {block : Nat} {part : DigestPart} {s : State} (hk : goesOn kp b0 s) (hq : ∀ p ∈ [.time, .pair, .fence, .events], p ∈ kp) :
    Out.keeps kp b0 (execDigestRecordRx source block part s) := .after hk ((execDigestRecordRx_keeps source block part s).mono hq)

theorem execSelfTest_keeps (test : Nat) (pass : Bool) (s : State) :
    Out.keeps [.hostMem, .pair, .mbs, .fence, .events] s (execSelfTest test pass s) := by
  unfold execSelfTest
  refine out_ite out_fault ?_
  dsimp only
  generalize hv : State.mk _ _ _ _ _ _ _ _ _ _ _ _ _ _ _ _ _ _ _ _ _ _ _ _ _ _ _ _ _ _ = v
  have hk : goesOn [.hostMem, .pair, .mbs, .fence, .events] s v := by rw [← hv]; exact kset_pair (.refl _ _) (by decide)
  refine out_ite (out_next hk) (out_ite (out_next (keeps_ite hk ?_)) (out_next ?_))
  · exact hk.trans ((State.joinJournal_keeps _ _ _).mono (by decide))
  · exact State.raise_on hk (by decide)

theorem execSelfTest_on {kp : List Part} {b0 : State} {test : Nat} {pass : Bool} {s : State} (hk : goesOn kp b0 s) (hq : ∀ p ∈ [.hostMem, .pair, .mbs, .fence, .events], p ∈ kp) :
    Out.keeps kp b0 (execSelfTest test pass s) := .after hk ((execSelfTest_keeps test pass s).mono hq)

theorem State.pairEnable_keeps (s : State) (on : Bool) :
    goesOn [.lanes, .ports, .selv, .tdc, .time, .ptp, .pair, .fence, .events] s (State.pairEnable s on) := by
  unfold State.pairEnable
  try dsimp only
  repeat' with_reducible first
    | apply goesOn.refl | apply keeps_ite | apply State.enterAlone_on | apply State.enterJoining_on | apply kset_pair | decide

theorem State.pairEnable_on {kp : List Part} {b0 : State} {s : State} {on : Bool} (hk : goesOn kp b0 s) (hq : ∀ p ∈ [.lanes, .ports, .selv, .tdc, .time, .ptp, .pair, .fence, .events], p ∈ kp) :
    goesOn kp b0 (State.pairEnable s on) := hk.trans ((State.pairEnable_keeps s on).mono hq)

theorem bodyPairConfigure_keeps (src : CmdSrc) (enable : Bool) (cycle : Nat) (lead : Nat) (commitTimeout : Nat) (joinTimeout : Nat) (watchdog : Nat) (skewGuard : Nat) (window : Nat) (chunkAge : Nat) (closeTimeout : Nat) (outcomeTimeout : Nat) (etherType : Nat) (plAsym : Int) (s : State) :
    Rep.keeps [.lanes, .ports, .selv, .tdc, .time, .ptp, .pair, .fence, .events] s (bodyPairConfigure src enable cycle lead commitTimeout joinTimeout watchdog skewGuard window chunkAge closeTimeout outcomeTimeout etherType plAsym s) := by
  unfold bodyPairConfigure
  try dsimp only
  repeat' with_reducible first
    | apply goesOn.refl | apply State.pairEnable_on | apply kset_pair | apply rep_ok | apply rep_bad | apply rep_ranges
    | apply rep_ite | decide | split

theorem bodyPairConfigure_on {kp : List Part} {b0 : State} {src : CmdSrc} {enable : Bool} {cycle : Nat} {lead : Nat} {commitTimeout : Nat} {joinTimeout : Nat} {watchdog : Nat} {skewGuard : Nat} {window : Nat} {chunkAge : Nat} {closeTimeout : Nat} {outcomeTimeout : Nat} {etherType : Nat} {plAsym : Int} {s : State} (hk : goesOn kp b0 s) (hq : ∀ p ∈ [.lanes, .ports, .selv, .tdc, .time, .ptp, .pair, .fence, .events], p ∈ kp) :
    Rep.keeps kp b0 (bodyPairConfigure src enable cycle lead commitTimeout joinTimeout watchdog skewGuard window chunkAge closeTimeout outcomeTimeout etherType plAsym s) := .after hk ((bodyPairConfigure_keeps src enable cycle lead commitTimeout joinTimeout watchdog skewGuard window chunkAge closeTimeout outcomeTimeout etherType plAsym s).mono hq)

theorem bodyPairConfigurePort_keeps (port : Nat) (attach : Nat) (source : Nat) (base : Nat) (count : Nat) (untagged : Nat) (s : State) :
    Rep.keeps [.pair, .stats] s (bodyPairConfigurePort port attach source base count untagged s) := by
  unfold bodyPairConfigurePort
  try dsimp only
  repeat' with_reducible first
    | apply goesOn.refl | apply kset_pair | apply rep_ok | apply rep_bad | apply rep_ranges | apply rep_ite | decide

theorem bodyPairConfigurePort_on {kp : List Part} {b0 : State} {port : Nat} {attach : Nat} {source : Nat} {base : Nat} {count : Nat} {untagged : Nat} {s : State} (hk : goesOn kp b0 s) (hq : ∀ p ∈ [.pair, .stats], p ∈ kp) :
    Rep.keeps kp b0 (bodyPairConfigurePort port attach source base count untagged s) := .after hk ((bodyPairConfigurePort_keeps port attach source base count untagged s).mono hq)

theorem bodyPairGetStatus_keeps (clear : Bool) (s : State) :
    Rep.keeps [.pair] s (bodyPairGetStatus clear s) := by
  unfold bodyPairGetStatus
  try dsimp only
  repeat' with_reducible first
    | apply goesOn.refl | apply keeps_ite | apply kset_pair | apply rep_ok | decide

theorem bodyPairGetStatus_on {kp : List Part} {b0 : State} {clear : Bool} {s : State} (hk : goesOn kp b0 s) (hq : ∀ p ∈ [.pair], p ∈ kp) :
    Rep.keeps kp b0 (bodyPairGetStatus clear s) := .after hk ((bodyPairGetStatus_keeps clear s).mono hq)

theorem bodyPairSwitchover_keeps (src : CmdSrc) (s : State) :
    Rep.keeps [.pair] s (bodyPairSwitchover src s) := by
  unfold bodyPairSwitchover
  try dsimp only
  repeat' with_reducible first
    | apply goesOn.refl | apply kset_pair | apply rep_ok | apply rep_bad | apply rep_ite | decide | split

theorem bodyPairSwitchover_on {kp : List Part} {b0 : State} {src : CmdSrc} {s : State} (hk : goesOn kp b0 s) (hq : ∀ p ∈ [.pair], p ∈ kp) :
    Rep.keeps kp b0 (bodyPairSwitchover src s) := .after hk ((bodyPairSwitchover_keeps src s).mono hq)

theorem bodyPairResync_keeps (s : State) :
    Rep.keeps [.pair] s (bodyPairResync s) := by
  unfold bodyPairResync
  try dsimp only
  repeat' with_reducible first
    | apply goesOn.refl | apply State.sendCtl_on | apply rep_ok | apply rep_bad | apply rep_ite | decide

theorem bodyPairResync_on {kp : List Part} {b0 : State} {s : State} (hk : goesOn kp b0 s) (hq : ∀ p ∈ [.pair], p ∈ kp) :
    Rep.keeps kp b0 (bodyPairResync s) := .after hk ((bodyPairResync_keeps s).mono hq)

theorem bodyPairTest_keeps (duration : Nat) (s : State) :
    Rep.keeps [.pair] s (bodyPairTest duration s) := by
  unfold bodyPairTest
  try dsimp only
  repeat' with_reducible first
    | apply goesOn.refl | apply kset_pair | apply rep_ok | apply rep_bad | apply rep_ranges | apply rep_ite | decide

theorem bodyPairTest_on {kp : List Part} {b0 : State} {duration : Nat} {s : State} (hk : goesOn kp b0 s) (hq : ∀ p ∈ [.pair], p ∈ kp) :
    Rep.keeps kp b0 (bodyPairTest duration s) := .after hk ((bodyPairTest_keeps duration s).mono hq)

theorem execPairTestEnd_keeps (s : State) :
    Out.keeps [.clock, .free, .cmd, .hostMem, .pair, .fw, .mbs, .fence, .events, .stats] s (execPairTestEnd s) := by
  unfold execPairTestEnd
  try dsimp only
  repeat' with_reducible first
    | apply goesOn.refl | apply State.advance_on | apply kset_pair | apply out_next | decide | split

theorem execPairTestEnd_on {kp : List Part} {b0 : State} {s : State} (hk : goesOn kp b0 s) (hq : ∀ p ∈ [.clock, .free, .cmd, .hostMem, .pair, .fw, .mbs, .fence, .events, .stats], p ∈ kp) :
    Out.keeps kp b0 (execPairTestEnd s) := .after hk ((execPairTestEnd_keeps s).mono hq)

theorem bodyPairGetDigest_keeps (clear : Bool) (source : Nat) (s : State) :
    Rep.keeps [.pair] s (bodyPairGetDigest clear source s) := by
  unfold bodyPairGetDigest
  try dsimp only
  repeat' with_reducible first
    | apply goesOn.refl | apply keeps_ite | apply State.updDup_on | apply rep_ok | apply rep_bad | apply rep_ranges | decide
    | split

theorem bodyPairGetDigest_on {kp : List Part} {b0 : State} {clear : Bool} {source : Nat} {s : State} (hk : goesOn kp b0 s) (hq : ∀ p ∈ [.pair], p ∈ kp) :
    Rep.keeps kp b0 (bodyPairGetDigest clear source s) := .after hk ((bodyPairGetDigest_keeps clear source s).mono hq)

theorem bodyPairGetDup_keeps (source : Nat) (s : State) :
    Rep.keeps [] s (bodyPairGetDup source s) := by
  unfold bodyPairGetDup
  try dsimp only
  repeat' with_reducible first
    | apply goesOn.refl | apply rep_ok | apply rep_bad | apply rep_ranges | split

theorem bodyPairGetDup_on {kp : List Part} {b0 : State} {source : Nat} {s : State} (hk : goesOn kp b0 s) (hq : ∀ p ∈ [], p ∈ kp) :
    Rep.keeps kp b0 (bodyPairGetDup source s) := .after hk ((bodyPairGetDup_keeps source s).mono hq)

theorem execPairSwitchover_keeps (src : CmdSrc) (s : State) :
    Out.keeps [.cmd, .hostMem, .glob, .pair, .fw, .mbs, .fence, .events] s (execPairSwitchover src s) := by
  unfold execPairSwitchover
  try dsimp only
  repeat' first
    | with_reducible apply goesOn.refl | with_reducible apply out_next
    | (with_reducible apply keeps_runCmd; rotate_left 1; intro y) | with_reducible apply bodyPairSwitchover_on
    | with_reducible decide

theorem execPairSwitchover_on {kp : List Part} {b0 : State} {src : CmdSrc} {s : State} (hk : goesOn kp b0 s) (hq : ∀ p ∈ [.cmd, .hostMem, .glob, .pair, .fw, .mbs, .fence, .events], p ∈ kp) :
    Out.keeps kp b0 (execPairSwitchover src s) := .after hk ((execPairSwitchover_keeps src s).mono hq)

theorem execPairConfigurePort_keeps (src : CmdSrc) (port : Nat) (attach : Nat) (source : Nat) (base : Nat) (count : Nat) (untagged : Nat) (s : State) :
    Out.keeps [.cmd, .hostMem, .glob, .pair, .fw, .mbs, .fence, .events, .stats] s (execPairConfigurePort src port attach source base count untagged s) := by
  unfold execPairConfigurePort
  try dsimp only
  repeat' first
    | with_reducible apply goesOn.refl | with_reducible apply out_next
    | (with_reducible apply keeps_runCmd; rotate_left 1; intro y) | with_reducible apply bodyPairConfigurePort_on
    | with_reducible decide

theorem execPairConfigurePort_on {kp : List Part} {b0 : State} {src : CmdSrc} {port : Nat} {attach : Nat} {source : Nat} {base : Nat} {count : Nat} {untagged : Nat} {s : State} (hk : goesOn kp b0 s) (hq : ∀ p ∈ [.cmd, .hostMem, .glob, .pair, .fw, .mbs, .fence, .events, .stats], p ∈ kp) :
    Out.keeps kp b0 (execPairConfigurePort src port attach source base count untagged s) := .after hk ((execPairConfigurePort_keeps src port attach source base count untagged s).mono hq)

theorem execPairGetStatus_keeps (src : CmdSrc) (clear : Bool) (s : State) :
    Out.keeps [.cmd, .hostMem, .glob, .pair, .fw, .mbs, .fence, .events] s (execPairGetStatus src clear s) := by
  unfold execPairGetStatus
  try dsimp only
  repeat' first
    | with_reducible apply goesOn.refl | with_reducible apply out_next
    | (with_reducible apply keeps_runCmd; rotate_left 1; intro y) | with_reducible apply bodyPairGetStatus_on
    | with_reducible decide

theorem execPairGetStatus_on {kp : List Part} {b0 : State} {src : CmdSrc} {clear : Bool} {s : State} (hk : goesOn kp b0 s) (hq : ∀ p ∈ [.cmd, .hostMem, .glob, .pair, .fw, .mbs, .fence, .events], p ∈ kp) :
    Out.keeps kp b0 (execPairGetStatus src clear s) := .after hk ((execPairGetStatus_keeps src clear s).mono hq)

theorem execPairResync_keeps (src : CmdSrc) (s : State) :
    Out.keeps [.cmd, .hostMem, .glob, .pair, .fw, .mbs, .fence, .events] s (execPairResync src s) := by
  unfold execPairResync
  try dsimp only
  repeat' first
    | with_reducible apply goesOn.refl | with_reducible apply out_next
    | (with_reducible apply keeps_runCmd; rotate_left 1; intro y) | with_reducible apply bodyPairResync_on | with_reducible decide

theorem execPairResync_on {kp : List Part} {b0 : State} {src : CmdSrc} {s : State} (hk : goesOn kp b0 s) (hq : ∀ p ∈ [.cmd, .hostMem, .glob, .pair, .fw, .mbs, .fence, .events], p ∈ kp) :
    Out.keeps kp b0 (execPairResync src s) := .after hk ((execPairResync_keeps src s).mono hq)

theorem execPairTest_keeps (src : CmdSrc) (duration : Nat) (s : State) :
    Out.keeps [.cmd, .hostMem, .glob, .pair, .fw, .mbs, .fence, .events] s (execPairTest src duration s) := by
  unfold execPairTest
  try dsimp only
  repeat' first
    | with_reducible apply goesOn.refl | with_reducible apply out_next
    | (with_reducible apply keeps_runCmd; rotate_left 1; intro y) | with_reducible apply bodyPairTest_on | with_reducible decide

theorem execPairTest_on {kp : List Part} {b0 : State} {src : CmdSrc} {duration : Nat} {s : State} (hk : goesOn kp b0 s) (hq : ∀ p ∈ [.cmd, .hostMem, .glob, .pair, .fw, .mbs, .fence, .events], p ∈ kp) :
    Out.keeps kp b0 (execPairTest src duration s) := .after hk ((execPairTest_keeps src duration s).mono hq)

theorem execPairGetDigest_keeps (src : CmdSrc) (clear : Bool) (source : Nat) (s : State) :
    Out.keeps [.cmd, .hostMem, .glob, .pair, .fw, .mbs, .fence, .events] s (execPairGetDigest src clear source s) := by
  unfold execPairGetDigest
  try dsimp only
  repeat' first
    | with_reducible apply goesOn.refl | with_reducible apply out_next
    | (with_reducible apply keeps_runCmd; rotate_left 1; intro y) | with_reducible apply bodyPairGetDigest_on
    | with_reducible decide

theorem execPairGetDigest_on {kp : List Part} {b0 : State} {src : CmdSrc} {clear : Bool} {source : Nat} {s : State} (hk : goesOn kp b0 s) (hq : ∀ p ∈ [.cmd, .hostMem, .glob, .pair, .fw, .mbs, .fence, .events], p ∈ kp) :
    Out.keeps kp b0 (execPairGetDigest src clear source s) := .after hk ((execPairGetDigest_keeps src clear source s).mono hq)

theorem execPairGetDup_keeps (src : CmdSrc) (source : Nat) (s : State) :
    Out.keeps [.cmd, .hostMem, .glob, .pair, .fw, .mbs, .fence, .events] s (execPairGetDup src source s) := by
  unfold execPairGetDup
  try dsimp only
  repeat' first
    | with_reducible apply goesOn.refl | with_reducible apply out_next
    | (with_reducible apply keeps_runCmd; rotate_left 1; intro y) | with_reducible apply bodyPairGetDup_on | with_reducible decide

theorem execPairGetDup_on {kp : List Part} {b0 : State} {src : CmdSrc} {source : Nat} {s : State} (hk : goesOn kp b0 s) (hq : ∀ p ∈ [.cmd, .hostMem, .glob, .pair, .fw, .mbs, .fence, .events], p ∈ kp) :
    Out.keeps kp b0 (execPairGetDup src source s) := .after hk ((execPairGetDup_keeps src source s).mono hq)

end Sys2Proof.Machine
end

