-- ==== Sys2Proof/Laws/Keeps/Keeper.lean ====
section
/-!
SUPPORT. Which parts of the state each operation of Keeper.lean touches.
-/
namespace Sys2Proof.Machine

theorem State.closeSession_keeps (s : State) :
    goesOn [.fw, .fence, .events] s (State.closeSession s) := by
  unfold State.closeSession
  try dsimp only
  repeat' with_reducible first
    | apply goesOn.refl | apply keeps_ite | apply State.raise_on | apply kset_fw | decide

theorem State.closeSession_on {kp : List Part} {b0 : State} {s : State} (hk : goesOn kp b0 s) (hq : ∀ p ∈ [.fw, .fence, .events], p ∈ kp) :
    goesOn kp b0 (State.closeSession s) := hk.trans ((State.closeSession_keeps s).mono hq)

theorem bodySecChallenge_keeps (role : Nat) (level : Nat) (s : State) :
    Rep.keeps [.free, .fw] s (bodySecChallenge role level s) := by
  unfold bodySecChallenge
  try dsimp only
  repeat' with_reducible first
    | apply goesOn.refl | apply State.takeFree_on | apply rep_ok | apply rep_fail | apply rep_ranges | apply rep_ite | decide
    | apply kset_fw

theorem bodySecChallenge_on {kp : List Part} {b0 : State} {role : Nat} {level : Nat} {s : State} (hk : goesOn kp b0 s) (hq : ∀ p ∈ [.free, .fw], p ∈ kp) :
    Rep.keeps kp b0 (bodySecChallenge role level s) := .after hk ((bodySecChallenge_keeps role level s).mono hq)

theorem State.authFail_keeps (s : State) :
    goesOn [.fw, .fence, .events] s (State.authFail s) := by
  unfold State.authFail
  try dsimp only
  repeat' with_reducible first
    | apply goesOn.refl | apply State.raise_on | apply kset_fw | decide

theorem State.authFail_on {kp : List Part} {b0 : State} {s : State} (hk : goesOn kp b0 s) (hq : ∀ p ∈ [.fw, .fence, .events], p ∈ kp) :
    goesOn kp b0 (State.authFail s) := hk.trans ((State.authFail_keeps s).mono hq)

theorem State.authPass_keeps (s : State) (c : Challenge) :
    goesOn [.fw, .fence, .events] s (State.authPass s c) := by
  unfold State.authPass
  try dsimp only
  repeat' with_reducible first
    | apply goesOn.refl | apply keeps_ite | apply State.closeSession_on | apply State.raise_on | apply kset_fw | decide

theorem State.authPass_on {kp : List Part} {b0 : State} {s : State} {c : Challenge} (hk : goesOn kp b0 s) (hq : ∀ p ∈ [.fw, .fence, .events], p ∈ kp) :
    goesOn kp b0 (State.authPass s c) := hk.trans ((State.authPass_keeps s c).mono hq)

theorem bodySecResponse_keeps (part : Nat) (bytes : List Byte) (s : State) :
    Rep.keeps [.fw, .fence, .events] s (bodySecResponse part bytes s) := by
  unfold bodySecResponse
  try dsimp only
  repeat' with_reducible first
    | apply goesOn.refl | apply State.authFail_on | apply State.authPass_on | apply kset_fw | apply rep_ok | apply rep_bad
    | apply rep_done | apply rep_ranges | apply rep_ite | decide | split

theorem bodySecResponse_on {kp : List Part} {b0 : State} {part : Nat} {bytes : List Byte} {s : State} (hk : goesOn kp b0 s) (hq : ∀ p ∈ [.fw, .fence, .events], p ∈ kp) :
    Rep.keeps kp b0 (bodySecResponse part bytes s) := .after hk ((bodySecResponse_keeps part bytes s).mono hq)

theorem bodySecClose_keeps (s : State) :
    Rep.keeps [.fw, .fence, .events] s (bodySecClose s) := by
  unfold bodySecClose
  try dsimp only
  repeat' with_reducible first
    | apply goesOn.refl | apply State.closeSession_on | apply rep_ok | decide

theorem bodySecClose_on {kp : List Part} {b0 : State} {s : State} (hk : goesOn kp b0 s) (hq : ∀ p ∈ [.fw, .fence, .events], p ∈ kp) :
    Rep.keeps kp b0 (bodySecClose s) := .after hk ((bodySecClose_keeps s).mono hq)

theorem bodySecDebugLock_keeps (s : State) :
    Rep.keeps [.fw, .fence, .events] s (bodySecDebugLock s) := by
  unfold bodySecDebugLock
  try dsimp only
  repeat' with_reducible first
    | apply goesOn.refl | apply keeps_ite | apply State.raise_on | apply kset_fw | apply rep_ok | decide

theorem bodySecDebugLock_on {kp : List Part} {b0 : State} {s : State} (hk : goesOn kp b0 s) (hq : ∀ p ∈ [.fw, .fence, .events], p ∈ kp) :
    Rep.keeps kp b0 (bodySecDebugLock s) := .after hk ((bodySecDebugLock_keeps s).mono hq)

theorem bodySecRevokeKey_keeps (slot : Nat) (s : State) :
    Rep.keeps [.fuses] s (bodySecRevokeKey slot s) := by
  refine rep_ranges (rep_ite rep_bad (rep_ok (kset_fuses (.refl _ _) (by decide) (Nat.le_refl _) fun k hk => ?_)))
  dsimp only
  split
  · exact hk
  · exact List.mem_append_left _ hk

theorem bodySecRevokeKey_on {kp : List Part} {b0 : State} {slot : Nat} {s : State} (hk : goesOn kp b0 s) (hq : ∀ p ∈ [.fuses], p ∈ kp) :
    Rep.keeps kp b0 (bodySecRevokeKey slot s) := .after hk ((bodySecRevokeKey_keeps slot s).mono hq)

theorem bodySecSetMinVersion_keeps (minimum : Nat) (s : State) :
    Rep.keeps [.fuses] s (bodySecSetMinVersion minimum s) := by
  unfold bodySecSetMinVersion Rep.ranges
  by_cases hc : minimum ≤ 64 ∧ s.fuses.minVersion ≤ minimum ∧ minimum ≤ s.fw.base_.secVersion
  · simp only [hc, and_self, decide_true, firstFalse]
    exact rep_ok (kset_fuses (.refl _ _) (by decide) hc.2.1 fun _ h => h)
  · simp only [hc, decide_false, firstFalse]
    exact rep_range

theorem bodySecSetMinVersion_on {kp : List Part} {b0 : State} {minimum : Nat} {s : State} (hk : goesOn kp b0 s) (hq : ∀ p ∈ [.fuses], p ∈ kp) :
    Rep.keeps kp b0 (bodySecSetMinVersion minimum s) := .after hk ((bodySecSetMinVersion_keeps minimum s).mono hq)

theorem bodySecGetStatus_keeps (s : State) :
    Rep.keeps [] s (bodySecGetStatus s) := by
  unfold bodySecGetStatus
  try dsimp only
  repeat' with_reducible first
    | apply goesOn.refl | apply rep_ok

theorem bodySecGetStatus_on {kp : List Part} {b0 : State} {s : State} (hk : goesOn kp b0 s) (hq : ∀ p ∈ [], p ∈ kp) :
    Rep.keeps kp b0 (bodySecGetStatus s) := .after hk ((bodySecGetStatus_keeps s).mono hq)

theorem execSecChallenge_keeps (src : CmdSrc) (role : Nat) (level : Nat) (s : State) :
    Out.keeps [.free, .cmd, .hostMem, .glob, .pair, .fw, .mbs, .fence, .events] s (execSecChallenge src role level s) := by
  unfold execSecChallenge
  try dsimp only
  repeat' first
    | with_reducible apply goesOn.refl | with_reducible apply out_next
    | (with_reducible apply keeps_runCmd; rotate_left 1; intro y) | with_reducible apply bodySecChallenge_on
    | with_reducible decide

theorem execSecChallenge_on {kp : List Part} {b0 : State} {src : CmdSrc} {role : Nat} {level : Nat} {s : State} (hk : goesOn kp b0 s) (hq : ∀ p ∈ [.free, .cmd, .hostMem, .glob, .pair, .fw, .mbs, .fence, .events], p ∈ kp) :
    Out.keeps kp b0 (execSecChallenge src role level s) := .after hk ((execSecChallenge_keeps src role level s).mono hq)

theorem execSecResponse_keeps (src : CmdSrc) (part : Nat) (bytes : List Byte) (s : State) :
    Out.keeps [.cmd, .hostMem, .glob, .pair, .fw, .mbs, .fence, .events] s (execSecResponse src part bytes s) := by
  unfold execSecResponse
  try dsimp only
  repeat' first
    | with_reducible apply goesOn.refl | with_reducible apply out_next
    | (with_reducible apply keeps_runCmd; rotate_left 1; intro y) | with_reducible apply bodySecResponse_on
    | with_reducible decide

theorem execSecResponse_on {kp : List Part} {b0 : State} {src : CmdSrc} {part : Nat} {bytes : List Byte} {s : State} (hk : goesOn kp b0 s) (hq : ∀ p ∈ [.cmd, .hostMem, .glob, .pair, .fw, .mbs, .fence, .events], p ∈ kp) :
    Out.keeps kp b0 (execSecResponse src part bytes s) := .after hk ((execSecResponse_keeps src part bytes s).mono hq)

theorem execSecClose_keeps (src : CmdSrc) (s : State) :
    Out.keeps [.cmd, .hostMem, .glob, .pair, .fw, .mbs, .fence, .events] s (execSecClose src s) := by
  unfold execSecClose
  try dsimp only
  repeat' first
    | with_reducible apply goesOn.refl | with_reducible apply out_next
    | (with_reducible apply keeps_runCmd; rotate_left 1; intro y) | with_reducible apply bodySecClose_on | with_reducible decide

theorem execSecClose_on {kp : List Part} {b0 : State} {src : CmdSrc} {s : State} (hk : goesOn kp b0 s) (hq : ∀ p ∈ [.cmd, .hostMem, .glob, .pair, .fw, .mbs, .fence, .events], p ∈ kp) :
    Out.keeps kp b0 (execSecClose src s) := .after hk ((execSecClose_keeps src s).mono hq)

theorem execSecDebugLock_keeps (src : CmdSrc) (s : State) :
    Out.keeps [.cmd, .hostMem, .glob, .pair, .fw, .mbs, .fence, .events] s (execSecDebugLock src s) := by
  unfold execSecDebugLock
  try dsimp only
  repeat' first
    | with_reducible apply goesOn.refl | with_reducible apply out_next
    | (with_reducible apply keeps_runCmd; rotate_left 1; intro y) | with_reducible apply bodySecDebugLock_on
    | with_reducible decide

theorem execSecDebugLock_on {kp : List Part} {b0 : State} {src : CmdSrc} {s : State} (hk : goesOn kp b0 s) (hq : ∀ p ∈ [.cmd, .hostMem, .glob, .pair, .fw, .mbs, .fence, .events], p ∈ kp) :
    Out.keeps kp b0 (execSecDebugLock src s) := .after hk ((execSecDebugLock_keeps src s).mono hq)

theorem execSecRevokeKey_keeps (src : CmdSrc) (slot : Nat) (s : State) :
    Out.keeps [.cmd, .hostMem, .fuses, .glob, .pair, .fw, .mbs, .fence, .events] s (execSecRevokeKey src slot s) := by
  unfold execSecRevokeKey
  try dsimp only
  repeat' first
    | with_reducible apply goesOn.refl | with_reducible apply out_next
    | (with_reducible apply keeps_runCmd; rotate_left 1; intro y) | with_reducible apply bodySecRevokeKey_on
    | with_reducible decide

theorem execSecRevokeKey_on {kp : List Part} {b0 : State} {src : CmdSrc} {slot : Nat} {s : State} (hk : goesOn kp b0 s) (hq : ∀ p ∈ [.cmd, .hostMem, .fuses, .glob, .pair, .fw, .mbs, .fence, .events], p ∈ kp) :
    Out.keeps kp b0 (execSecRevokeKey src slot s) := .after hk ((execSecRevokeKey_keeps src slot s).mono hq)

theorem execSecSetMinVersion_keeps (src : CmdSrc) (minimum : Nat) (s : State) :
    Out.keeps [.cmd, .hostMem, .fuses, .glob, .pair, .fw, .mbs, .fence, .events] s (execSecSetMinVersion src minimum s) := by
  unfold execSecSetMinVersion
  try dsimp only
  repeat' first
    | with_reducible apply goesOn.refl | with_reducible apply out_next
    | (with_reducible apply keeps_runCmd; rotate_left 1; intro y) | with_reducible apply bodySecSetMinVersion_on
    | with_reducible decide

theorem execSecSetMinVersion_on {kp : List Part} {b0 : State} {src : CmdSrc} {minimum : Nat} {s : State} (hk : goesOn kp b0 s) (hq : ∀ p ∈ [.cmd, .hostMem, .fuses, .glob, .pair, .fw, .mbs, .fence, .events], p ∈ kp) :
    Out.keeps kp b0 (execSecSetMinVersion src minimum s) := .after hk ((execSecSetMinVersion_keeps src minimum s).mono hq)

theorem execSecGetStatus_keeps (src : CmdSrc) (s : State) :
    Out.keeps [.cmd, .hostMem, .glob, .pair, .fw, .mbs, .fence, .events] s (execSecGetStatus src s) := by
  unfold execSecGetStatus
  try dsimp only
  repeat' first
    | with_reducible apply goesOn.refl | with_reducible apply out_next
    | (with_reducible apply keeps_runCmd; rotate_left 1; intro y) | with_reducible apply bodySecGetStatus_on
    | with_reducible decide

theorem execSecGetStatus_on {kp : List Part} {b0 : State} {src : CmdSrc} {s : State} (hk : goesOn kp b0 s) (hq : ∀ p ∈ [.cmd, .hostMem, .glob, .pair, .fw, .mbs, .fence, .events], p ∈ kp) :
    Out.keeps kp b0 (execSecGetStatus src s) := .after hk ((execSecGetStatus_keeps src s).mono hq)

theorem execSessionExpiry_keeps (s : State) :
    Out.keeps [.clock, .free, .cmd, .hostMem, .pair, .fw, .mbs, .fence, .events, .stats] s (execSessionExpiry s) := by
  unfold execSessionExpiry
  try dsimp only
  repeat' with_reducible first
    | apply goesOn.refl | apply State.advance_on | apply State.closeSession_on | apply out_next | decide | split

theorem execSessionExpiry_on {kp : List Part} {b0 : State} {s : State} (hk : goesOn kp b0 s) (hq : ∀ p ∈ [.clock, .free, .cmd, .hostMem, .pair, .fw, .mbs, .fence, .events, .stats], p ∈ kp) :
    Out.keeps kp b0 (execSessionExpiry s) := .after hk ((execSessionExpiry_keeps s).mono hq)

theorem execDebugTapInstruction_keeps (instr : TapInstr) (s : State) :
    Out.keeps [.fw] s (execDebugTapInstruction instr s) := by
  unfold execDebugTapInstruction
  try dsimp only
  repeat' with_reducible first
    | apply goesOn.refl | apply State.updCore_on | apply kset_fw | apply out_next | apply out_fault | apply out_ite | decide
    | split

theorem execDebugTapInstruction_on {kp : List Part} {b0 : State} {instr : TapInstr} {s : State} (hk : goesOn kp b0 s) (hq : ∀ p ∈ [.fw], p ∈ kp) :
    Out.keeps kp b0 (execDebugTapInstruction instr s) := .after hk ((execDebugTapInstruction_keeps instr s).mono hq)

end Sys2Proof.Machine
end

