-- ==== Sys2Proof/Laws/Keeps/Cpu.lean ====
section
/-!
SUPPORT. Which parts of the state each operation of Cpu.lean touches.
-/
namespace Sys2Proof.Machine

theorem State.ctxPut_keeps (s : State) (q : Nat) (l : List Byte) :
    goesOn [.fence, .events, .host] s (State.ctxPut s q l) := by
  unfold State.ctxPut
  try dsimp only
  repeat' with_reducible first
    | apply goesOn.refl | assumption | apply keeps_ite | apply State.hwCount_on | apply State.raise_on | apply kset_host | decide
    | split

theorem State.ctxPut_on {kp : List Part} {b0 : State} {s : State} {q : Nat} {l : List Byte} (hk : goesOn kp b0 s) (hq : ∀ p ∈ [.fence, .events, .host], p ∈ kp) :
    goesOn kp b0 (State.ctxPut s q l) := hk.trans ((State.ctxPut_keeps s q l).mono hq)

theorem execCtxReset_keeps (value : BitVec 32) (s : State) :
    Out.keeps [.host] s (execCtxReset value s) := by
  unfold execCtxReset
  try dsimp only
  repeat' with_reducible first
    | apply goesOn.refl | apply kset_host | apply out_next | decide

theorem execCtxReset_on {kp : List Part} {b0 : State} {value : BitVec 32} {s : State} (hk : goesOn kp b0 s) (hq : ∀ p ∈ [.host], p ∈ kp) :
    Out.keeps kp b0 (execCtxReset value s) := .after hk ((execCtxReset_keeps value s).mono hq)

theorem State.tsqReserve_keeps (s : State) (q : Nat) (id : Nat) (n : Nat) :
    goesOn [.time, .fence, .events] s (State.tsqReserve s q id n) := by
  unfold State.tsqReserve
  try dsimp only
  repeat' with_reducible first
    | apply goesOn.refl | assumption | apply keeps_ite | apply State.raise_on | apply State.tsqMiss_on | apply State.tsqPoke_on
    | apply State.updTsq_on | decide | split

theorem State.tsqReserve_on {kp : List Part} {b0 : State} {s : State} {q : Nat} {id : Nat} {n : Nat} (hk : goesOn kp b0 s) (hq : ∀ p ∈ [.time, .fence, .events], p ∈ kp) :
    goesOn kp b0 (State.tsqReserve s q id n) := hk.trans ((State.tsqReserve_keeps s q id n).mono hq)

theorem State.injectDirect_keeps (s : State) (proxy : Nat) (egress : Nat) (cls : Nat) (b : List Byte) :
    goesOn [.core] s (State.injectDirect s proxy egress cls b) := by
  unfold State.injectDirect
  try dsimp only
  repeat' with_reducible first
    | apply goesOn.refl | apply kset_core | decide

theorem State.injectDirect_on {kp : List Part} {b0 : State} {s : State} {proxy : Nat} {egress : Nat} {cls : Nat} {b : List Byte} (hk : goesOn kp b0 s) (hq : ∀ p ∈ [.core], p ∈ kp) :
    goesOn kp b0 (State.injectDirect s proxy egress cls b) := hk.trans ((State.injectDirect_keeps s proxy egress cls b).mono hq)

theorem State.injectRecord_keeps (s : State) (b : List Byte) :
    goesOn [.time, .ptp, .parse, .core, .pair, .fence, .events, .stats] s (State.injectRecord s b) := by
  unfold State.injectRecord
  try dsimp only
  repeat' with_reducible first
    | apply goesOn.refl | apply keeps_ite | apply State.injectDirect_on | apply State.tsqDecide_on | apply State.tsqReserve_on
    | apply State.windowClose_on | decide

theorem State.injectRecord_on {kp : List Part} {b0 : State} {s : State} {b : List Byte} (hk : goesOn kp b0 s) (hq : ∀ p ∈ [.time, .ptp, .parse, .core, .pair, .fence, .events, .stats], p ∈ kp) :
    goesOn kp b0 (State.injectRecord s b) := hk.trans ((State.injectRecord_keeps s b).mono hq)

theorem execCtxInject_keeps (queue : Nat) (s : State) :
    Out.keeps [.time, .ptp, .parse, .core, .pair, .fence, .events, .stats, .host] s (execCtxInject queue s) := by
  unfold execCtxInject
  try dsimp only
  repeat' with_reducible first
    | apply goesOn.refl | apply State.injectRecord_on | apply kset_host | apply out_next | apply out_fault | apply out_ite
    | decide

theorem execCtxInject_on {kp : List Part} {b0 : State} {queue : Nat} {s : State} (hk : goesOn kp b0 s) (hq : ∀ p ∈ [.time, .ptp, .parse, .core, .pair, .fence, .events, .stats, .host], p ∈ kp) :
    Out.keeps kp b0 (execCtxInject queue s) := .after hk ((execCtxInject_keeps queue s).mono hq)

theorem State.crxJudge_keeps (s : State) (q : Nat) :
    goesOn [.fence, .events, .host] s (State.crxJudge s q) := by
  unfold State.crxJudge
  try dsimp only
  repeat' with_reducible first
    | apply goesOn.refl | apply keeps_ite | apply State.raise_on | apply kset_host | decide

theorem State.crxJudge_on {kp : List Part} {b0 : State} {s : State} {q : Nat} (hk : goesOn kp b0 s) (hq : ∀ p ∈ [.fence, .events, .host], p ∈ kp) :
    goesOn kp b0 (State.crxJudge s q) := hk.trans ((State.crxJudge_keeps s q).mono hq)

theorem State.slowLeaves_keeps (s : State) (i : Nat) (f : SlowFrame) :
    goesOn [.parse] s (State.slowLeaves s i f) := by
  unfold State.slowLeaves
  try dsimp only
  repeat' with_reducible first
    | apply goesOn.refl | apply State.updParser_on | decide

theorem State.slowLeaves_on {kp : List Part} {b0 : State} {s : State} {i : Nat} {f : SlowFrame} (hk : goesOn kp b0 s) (hq : ∀ p ∈ [.parse], p ∈ kp) :
    goesOn kp b0 (State.slowLeaves s i f) := hk.trans ((State.slowLeaves_keeps s i f).mono hq)

theorem execSlowPathFrame_keeps (index : Nat) (s : State) :
    Out.keeps [.ref, .parse, .fence, .events, .host] s (execSlowPathFrame index s) := by
  unfold execSlowPathFrame
  try dsimp only
  repeat' with_reducible first
    | apply goesOn.refl | apply keeps_ite | apply State.crxJudge_on | apply State.receivedLevel_on | apply State.slowLeaves_on
    | apply kset_host | apply out_next | apply out_fault | apply out_ite | decide | split

theorem execSlowPathFrame_on {kp : List Part} {b0 : State} {index : Nat} {s : State} (hk : goesOn kp b0 s) (hq : ∀ p ∈ [.ref, .parse, .fence, .events, .host], p ∈ kp) :
    Out.keeps kp b0 (execSlowPathFrame index s) := .after hk ((execSlowPathFrame_keeps index s).mono hq)

end Sys2Proof.Machine
end

