-- ==== Sys2Proof/Laws/Keeps/Chains.lean ====
section
/-!
SUPPORT. Which parts of the state each operation of Chains.lean touches.
-/
namespace Sys2Proof.Machine

theorem State.cqStore_keeps (s : State) (n : Nat) (r : CqRec) :
    goesOn [.hostMem, .fence, .events, .host] s (State.cqStore s n r) := by
  unfold State.cqStore
  have h : goesOn [.hostMem, .fence, .events, .host] s { s with hostMem := hostWrite s.hostMem ((s.host.chans.get n).cqBase.toNat +
      16 * ((s.host.chans.get n).cqWr.toNat % 2 ^ (s.host.chans.get n).cqSize)) (cqBytes n r (s.host.chans.get n).cqSize (s.host.chans.get n).cqWr.toNat) } :=
    kset_hostMem (.refl _ _) (by decide) (Memory.wf_write _ _ _)
  have k := State.updChan_on (f := fun _ => { s.host.chans.get n with cqWr := (s.host.chans.get n).cqWr + 1 }) (n := n) h (by decide)
  exact keeps_ite (State.raise_on k (by decide)) k

theorem State.cqStore_on {kp : List Part} {b0 : State} {s : State} {n : Nat} {r : CqRec} (hk : goesOn kp b0 s) (hq : ∀ p ∈ [.hostMem, .fence, .events, .host], p ∈ kp) :
    goesOn kp b0 (State.cqStore s n r) := hk.trans ((State.cqStore_keeps s n r).mono hq)

theorem State.cqPut_keeps (s : State) (n : Nat) (r : CqRec) :
    goesOn [.hostMem, .fence, .events, .host] s (State.cqPut s n r).1 := by
  unfold State.cqPut
  try dsimp only
  repeat' with_reducible first
    | apply goesOn.refl | assumption | apply keeps_ite | apply State.cqStore_on | apply State.hwCount_on | apply State.updChan_on
    | decide | split

theorem State.cqPut_on {kp : List Part} {b0 : State} {s : State} {n : Nat} {r : CqRec} (hk : goesOn kp b0 s) (hq : ∀ p ∈ [.hostMem, .fence, .events, .host], p ∈ kp) :
    goesOn kp b0 (State.cqPut s n r).1 := hk.trans ((State.cqPut_keeps s n r).mono hq)

theorem State.stallChan_keeps (s : State) (n : Nat) :
    goesOn [.fence, .events, .host] s (State.stallChan s n) := by
  unfold State.stallChan
  try dsimp only
  repeat' with_reducible first
    | apply goesOn.refl | assumption | apply keeps_ite | apply State.hwSet_on | apply State.raise_on | apply State.updChan_on
    | decide | split

theorem State.stallChan_on {kp : List Part} {b0 : State} {s : State} {n : Nat} (hk : goesOn kp b0 s) (hq : ∀ p ∈ [.fence, .events, .host], p ∈ kp) :
    goesOn kp b0 (State.stallChan s n) := hk.trans ((State.stallChan_keeps s n).mono hq)

theorem State.cqMarker_keeps (s : State) (n : Nat) (e : Nat) :
    goesOn [.hostMem, .fence, .events, .host] s (State.cqMarker s n e) := by
  unfold State.cqMarker
  try dsimp only
  repeat' with_reducible first
    | apply goesOn.refl | apply keeps_ite | apply State.cqPut_on | apply State.stallChan_on | decide

theorem State.cqMarker_on {kp : List Part} {b0 : State} {s : State} {n : Nat} {e : Nat} (hk : goesOn kp b0 s) (hq : ∀ p ∈ [.hostMem, .fence, .events, .host], p ∈ kp) :
    goesOn kp b0 (State.cqMarker s n e) := hk.trans ((State.cqMarker_keeps s n e).mono hq)

theorem State.cqMarkerDue_keeps (s : State) (n : Nat) :
    goesOn [.hostMem, .fence, .events, .host] s (State.cqMarkerDue s n) := by
  unfold State.cqMarkerDue
  try dsimp only
  repeat' with_reducible first
    | apply goesOn.refl | apply keeps_ite | apply State.cqMarker_on | apply State.updChan_on | decide | split | apply kset_fence

theorem State.cqMarkerDue_on {kp : List Part} {b0 : State} {s : State} {n : Nat} (hk : goesOn kp b0 s) (hq : ∀ p ∈ [.hostMem, .fence, .events, .host], p ∈ kp) :
    goesOn kp b0 (State.cqMarkerDue s n) := hk.trans ((State.cqMarkerDue_keeps s n).mono hq)

theorem State.cqMarkers_keeps (s : State) (n : Nat) :
    goesOn [.hostMem, .fence, .events, .host] s (State.cqMarkers s n) := by
  unfold State.cqMarkers
  try dsimp only
  repeat' first
    | with_reducible apply goesOn.refl | with_reducible assumption
    | (with_reducible apply keeps_foldl; rotate_left 1; intro y a hy) | with_reducible apply State.cqMarkerDue_on
    | with_reducible decide

theorem State.cqMarkers_on {kp : List Part} {b0 : State} {s : State} {n : Nat} (hk : goesOn kp b0 s) (hq : ∀ p ∈ [.hostMem, .fence, .events, .host], p ∈ kp) :
    goesOn kp b0 (State.cqMarkers s n) := hk.trans ((State.cqMarkers_keeps s n).mono hq)

theorem State.followMarks_keeps (s : State) (n : Nat) :
    goesOn [.hostMem, .fence, .events, .host] s (State.followMarks s n) := by
  unfold State.followMarks
  try dsimp only
  repeat' first
    | with_reducible apply goesOn.refl | with_reducible assumption
    | (with_reducible apply keeps_foldl; rotate_left 1; intro y a hy) | with_reducible apply State.cqMarker_on
    | with_reducible apply State.updChan_on | with_reducible decide

theorem State.followMarks_on {kp : List Part} {b0 : State} {s : State} {n : Nat} (hk : goesOn kp b0 s) (hq : ∀ p ∈ [.hostMem, .fence, .events, .host], p ∈ kp) :
    goesOn kp b0 (State.followMarks s n) := hk.trans ((State.followMarks_keeps s n).mono hq)

theorem State.retireRec_keeps (s : State) (n : Nat) (r : CqRec) :
    goesOn [.hostMem, .fence, .events, .host] s (State.retireRec s n r) := by
  unfold State.retireRec
  try dsimp only
  repeat' with_reducible first
    | apply goesOn.refl | apply keeps_ite | apply State.followMarks_on | apply State.raise_on | apply State.updChan_on | decide

theorem State.retireRec_on {kp : List Part} {b0 : State} {s : State} {n : Nat} {r : CqRec} (hk : goesOn kp b0 s) (hq : ∀ p ∈ [.hostMem, .fence, .events, .host], p ∈ kp) :
    goesOn kp b0 (State.retireRec s n r) := hk.trans ((State.retireRec_keeps s n r).mono hq)

theorem State.endChan_keeps (s : State) (n : Nat) (outcome : Nat) (cause : Nat) :
    goesOn [.hostMem, .fence, .events, .host] s (State.endChan s n outcome cause) := by
  unfold State.endChan
  try dsimp only
  repeat' with_reducible first
    | apply goesOn.refl | assumption | apply keeps_ite | apply keeps_ite1 | apply keeps_ite2 | apply State.cqMarkers_on
    | apply State.cqPut_on | apply State.followMarks_on | apply State.hwSet_on | apply State.raise_on | apply State.updChan_on
    | (apply keeps_fst; case e => assumption) | (apply keeps_snd; case e => assumption) | decide | split

theorem State.endChan_on {kp : List Part} {b0 : State} {s : State} {n : Nat} {outcome : Nat} {cause : Nat} (hk : goesOn kp b0 s) (hq : ∀ p ∈ [.hostMem, .fence, .events, .host], p ∈ kp) :
    goesOn kp b0 (State.endChan s n outcome cause) := hk.trans ((State.endChan_keeps s n outcome cause).mono hq)

theorem State.haltChan_keeps (s : State) (n : Nat) (cause : Nat) :
    goesOn [.hostMem, .fence, .events, .host] s (State.haltChan s n cause) := by
  unfold State.haltChan
  try dsimp only
  repeat' with_reducible first
    | apply goesOn.refl | apply State.endChan_on | decide

theorem State.haltChan_on {kp : List Part} {b0 : State} {s : State} {n : Nat} {cause : Nat} (hk : goesOn kp b0 s) (hq : ∀ p ∈ [.hostMem, .fence, .events, .host], p ∈ kp) :
    goesOn kp b0 (State.haltChan s n cause) := hk.trans ((State.haltChan_keeps s n cause).mono hq)

theorem execChainStart_keeps (chan : Nat) (s : State) :
    Out.keeps [.fence, .events, .host] s (execChainStart chan s) := by
  unfold execChainStart
  try dsimp only
  repeat' with_reducible first
    | apply goesOn.refl | apply State.badAccess_on | apply State.updChan_on | apply out_next | apply out_fault | apply out_ite
    | decide

theorem execChainStart_on {kp : List Part} {b0 : State} {chan : Nat} {s : State} (hk : goesOn kp b0 s) (hq : ∀ p ∈ [.fence, .events, .host], p ∈ kp) :
    Out.keeps kp b0 (execChainStart chan s) := .after hk ((execChainStart_keeps chan s).mono hq)

theorem execChainAbort_keeps (chan : Nat) (s : State) :
    Out.keeps [.hostMem, .fence, .events, .host] s (execChainAbort chan s) := by
  unfold execChainAbort
  try dsimp only
  repeat' with_reducible first
    | apply goesOn.refl | apply State.endChan_on | apply out_next | apply out_fault | apply out_ite | decide

theorem execChainAbort_on {kp : List Part} {b0 : State} {chan : Nat} {s : State} (hk : goesOn kp b0 s) (hq : ∀ p ∈ [.hostMem, .fence, .events, .host], p ∈ kp) :
    Out.keeps kp b0 (execChainAbort chan s) := .after hk ((execChainAbort_keeps chan s).mono hq)

theorem execDmaWatchdogExpiry_keeps (chan : Nat) (s : State) :
    Out.keeps [.clock, .free, .cmd, .hostMem, .pair, .fw, .mbs, .fence, .events, .stats, .host] s (execDmaWatchdogExpiry chan s) := by
  unfold execDmaWatchdogExpiry
  try dsimp only
  repeat' with_reducible first
    | apply goesOn.refl | apply State.advance_on | apply State.haltChan_on | apply out_next | apply out_fault | apply out_ite
    | decide

theorem execDmaWatchdogExpiry_on {kp : List Part} {b0 : State} {chan : Nat} {s : State} (hk : goesOn kp b0 s) (hq : ∀ p ∈ [.clock, .free, .cmd, .hostMem, .pair, .fw, .mbs, .fence, .events, .stats, .host], p ∈ kp) :
    Out.keeps kp b0 (execDmaWatchdogExpiry chan s) := .after hk ((execDmaWatchdogExpiry_keeps chan s).mono hq)

theorem execBudgetExhausted_keeps (chan : Nat) (s : State) :
    Out.keeps [.hostMem, .fence, .events, .host] s (execBudgetExhausted chan s) := by
  unfold execBudgetExhausted
  try dsimp only
  repeat' with_reducible first
    | apply goesOn.refl | apply State.haltChan_on | apply out_next | apply out_fault | apply out_ite | decide

theorem execBudgetExhausted_on {kp : List Part} {b0 : State} {chan : Nat} {s : State} (hk : goesOn kp b0 s) (hq : ∀ p ∈ [.hostMem, .fence, .events, .host], p ∈ kp) :
    Out.keeps kp b0 (execBudgetExhausted chan s) := .after hk ((execBudgetExhausted_keeps chan s).mono hq)

theorem execDmaPcieError_keeps (chan : Nat) (timeout : Bool) (s : State) :
    Out.keeps [.hostMem, .fence, .events, .host] s (execDmaPcieError chan timeout s) := by
  unfold execDmaPcieError
  try dsimp only
  repeat' with_reducible first
    | apply goesOn.refl | apply State.haltChan_on | apply out_next | apply out_fault | apply out_ite | decide

theorem execDmaPcieError_on {kp : List Part} {b0 : State} {chan : Nat} {timeout : Bool} {s : State} (hk : goesOn kp b0 s) (hq : ∀ p ∈ [.hostMem, .fence, .events, .host], p ∈ kp) :
    Out.keeps kp b0 (execDmaPcieError chan timeout s) := .after hk ((execDmaPcieError_keeps chan timeout s).mono hq)

theorem execCqRdCountWrite_keeps (chan : Nat) (value : BitVec 32) (s : State) :
    Out.keeps [.fence, .events, .host] s (execCqRdCountWrite chan value s) := by
  unfold execCqRdCountWrite
  try dsimp only
  repeat' with_reducible first
    | apply goesOn.refl | apply State.raise_on | apply State.updChan_on | apply out_next | apply out_fault | apply out_ite
    | decide

theorem execCqRdCountWrite_on {kp : List Part} {b0 : State} {chan : Nat} {value : BitVec 32} {s : State} (hk : goesOn kp b0 s) (hq : ∀ p ∈ [.fence, .events, .host], p ∈ kp) :
    Out.keeps kp b0 (execCqRdCountWrite chan value s) := .after hk ((execCqRdCountWrite_keeps chan value s).mono hq)

theorem State.cqDrain_keeps (kk : Nat) (s : State) (n : Nat) :
    goesOn [.hostMem, .fence, .events, .host] s (State.cqDrain s n kk) := by
  induction kk generalizing s n with
  | zero => exact .refl _ _
  | succ kk ih =>
    have ihon : ∀ {b0 : State} (s : State) (n : Nat), goesOn [.hostMem, .fence, .events, .host] b0 s → goesOn [.hostMem, .fence, .events, .host] b0 (State.cqDrain s n kk) := fun s n h => h.trans (ih _ _ )
    unfold State.cqDrain
    try dsimp only
    repeat' with_reducible first
      | apply ihon | apply goesOn.refl | apply keeps_ite | apply State.cqStore_on | apply State.retireRec_on | apply State.updChan_on | decide
      | split

theorem State.cqDrain_on {kp : List Part} {b0 : State} {s : State} {n : Nat} {kk : Nat} (hk : goesOn kp b0 s) (hq : ∀ p ∈ [.hostMem, .fence, .events, .host], p ∈ kp) :
    goesOn kp b0 (State.cqDrain s n kk) := hk.trans ((State.cqDrain_keeps kk s n).mono hq)

theorem execCqRoom_keeps (chan : Nat) (s : State) :
    Out.keeps [.hostMem, .fence, .events, .host] s (execCqRoom chan s) := by
  unfold execCqRoom
  try dsimp only
  repeat' with_reducible first
    | apply goesOn.refl | apply State.cqDrain_on | apply out_next | apply out_fault | apply out_ite | decide

theorem execCqRoom_on {kp : List Part} {b0 : State} {chan : Nat} {s : State} (hk : goesOn kp b0 s) (hq : ∀ p ∈ [.hostMem, .fence, .events, .host], p ∈ kp) :
    Out.keeps kp b0 (execCqRoom chan s) := .after hk ((execCqRoom_keeps chan s).mono hq)

theorem State.chainStep_on {kp : List Part} {s : State} {n op : Nat} {b : List Byte} {ok : ChainInstr → Bool} {run : ChainInstr → State}
    (hr : ∀ i, goesOn kp s (run i)) (hq : ∀ p ∈ [.hostMem, .fence, .events, .host], p ∈ kp) : Out.keeps kp s (s.chainStep n op b ok run) := by
  unfold State.chainStep
  dsimp only
  repeat' first
    | (with_reducible apply out_ite)
    | (with_reducible apply out_fault)
    | (with_reducible apply out_next)
  all_goals first
    | exact .refl _ _
    | exact hr _
    | exact State.haltChan_on (.refl _ _) hq

theorem execChainLoop_keeps (chan : Nat) (instr : List Byte) (s : State) :
    Out.keeps [.hostMem, .fence, .events, .host] s (execChainLoop chan instr s) := by
  unfold execChainLoop
  try dsimp only
  repeat' with_reducible first
    | apply goesOn.refl | apply keeps_ite | apply State.updChan_on | apply State.chainStep_on | decide | intro (y : ChainInstr)
    | split

theorem execChainLoop_on {kp : List Part} {b0 : State} {chan : Nat} {instr : List Byte} {s : State} (hk : goesOn kp b0 s) (hq : ∀ p ∈ [.hostMem, .fence, .events, .host], p ∈ kp) :
    Out.keeps kp b0 (execChainLoop chan instr s) := .after hk ((execChainLoop_keeps chan instr s).mono hq)

theorem State.claimStream_keeps (s : State) (n : Nat) (k : Nat) :
    Sm.keeps [.host] s (State.claimStream s n k) := by
  unfold State.claimStream
  try dsimp only
  repeat' with_reducible first
    | apply goesOn.refl | apply State.updChan_on | apply sum_inr | apply sum_inl | apply sum_ite | decide

theorem State.claimStream_on {kp : List Part} {b0 : State} {s : State} {n : Nat} {k : Nat} (hk : goesOn kp b0 s) (hq : ∀ p ∈ [.host], p ∈ kp) :
    Sm.keeps kp b0 (State.claimStream s n k) := .after hk ((State.claimStream_keeps s n k).mono hq)

theorem State.retireWait_keeps (s : State) (n : Nat) (i : ChainInstr) :
    goesOn [.host] s (State.retireWait s n i) := by
  unfold State.retireWait
  try dsimp only
  repeat' with_reducible first
    | apply goesOn.refl | apply State.updChan_on | decide

theorem State.retireWait_on {kp : List Part} {b0 : State} {s : State} {n : Nat} {i : ChainInstr} (hk : goesOn kp b0 s) (hq : ∀ p ∈ [.host], p ∈ kp) :
    goesOn kp b0 (State.retireWait s n i) := hk.trans ((State.retireWait_keeps s n i).mono hq)

theorem execChainWait_keeps (chan : Nat) (instr : List Byte) (s : State) :
    Out.keeps [.hostMem, .fence, .events, .host] s (execChainWait chan instr s) := by
  unfold execChainWait
  try dsimp only
  repeat' with_reducible first
    | apply goesOn.refl | apply keeps_ite | apply State.haltChan_on | apply State.retireWait_on | apply State.updChan_on
    | apply sum_inr | apply sum_ite | (apply keeps_inr; case e => assumption) | apply State.chainStep_on
    | apply State.claimStream_on | decide | intro (y : ChainInstr) | split

theorem execChainWait_on {kp : List Part} {b0 : State} {chan : Nat} {instr : List Byte} {s : State} (hk : goesOn kp b0 s) (hq : ∀ p ∈ [.hostMem, .fence, .events, .host], p ∈ kp) :
    Out.keeps kp b0 (execChainWait chan instr s) := .after hk ((execChainWait_keeps chan instr s).mono hq)

theorem execWaitConditionMet_keeps (chan : Nat) (s : State) :
    Out.keeps [.host] s (execWaitConditionMet chan s) := by
  unfold execWaitConditionMet
  try dsimp only
  repeat' with_reducible first
    | apply goesOn.refl | apply keeps_ite | apply State.retireWait_on | apply State.updChan_on | apply out_next | apply out_fault
    | apply out_ite | decide | split

theorem execWaitConditionMet_on {kp : List Part} {b0 : State} {chan : Nat} {s : State} (hk : goesOn kp b0 s) (hq : ∀ p ∈ [.host], p ∈ kp) :
    Out.keeps kp b0 (execWaitConditionMet chan s) := .after hk ((execWaitConditionMet_keeps chan s).mono hq)

theorem execWaitTimeout_keeps (chan : Nat) (s : State) :
    Out.keeps [.clock, .free, .cmd, .hostMem, .pair, .fw, .mbs, .fence, .events, .stats, .host] s (execWaitTimeout chan s) := by
  unfold execWaitTimeout
  try dsimp only
  repeat' with_reducible first
    | apply goesOn.refl | apply State.advance_on | apply State.haltChan_on | apply out_next | apply out_fault | apply out_ite
    | decide | split

theorem execWaitTimeout_on {kp : List Part} {b0 : State} {chan : Nat} {s : State} (hk : goesOn kp b0 s) (hq : ∀ p ∈ [.clock, .free, .cmd, .hostMem, .pair, .fw, .mbs, .fence, .events, .stats, .host], p ∈ kp) :
    Out.keeps kp b0 (execWaitTimeout chan s) := .after hk ((execWaitTimeout_keeps chan s).mono hq)

theorem State.signalRec_keeps (s : State) (n : Nat) (r : CqRec) :
    goesOn [.hostMem, .fence, .events, .host] s (State.signalRec s n r) := by
  unfold State.signalRec
  try dsimp only
  repeat' with_reducible first
    | apply goesOn.refl | apply keeps_ite | apply State.cqMarkers_on | apply State.cqPut_on | apply State.retireRec_on
    | apply State.stallChan_on | decide

theorem State.signalRec_on {kp : List Part} {b0 : State} {s : State} {n : Nat} {r : CqRec} (hk : goesOn kp b0 s) (hq : ∀ p ∈ [.hostMem, .fence, .events, .host], p ∈ kp) :
    goesOn kp b0 (State.signalRec s n r) := hk.trans ((State.signalRec_keeps s n r).mono hq)

theorem execChainSignal_keeps (chan : Nat) (instr : List Byte) (s : State) :
    Out.keeps [.hostMem, .fence, .events, .host] s (execChainSignal chan instr s) := by
  unfold execChainSignal
  try dsimp only
  repeat' with_reducible first
    | apply goesOn.refl | apply State.signalRec_on | apply State.chainStep_on | decide | intro (y : ChainInstr)

theorem execChainSignal_on {kp : List Part} {b0 : State} {chan : Nat} {instr : List Byte} {s : State} (hk : goesOn kp b0 s) (hq : ∀ p ∈ [.hostMem, .fence, .events, .host], p ∈ kp) :
    Out.keeps kp b0 (execChainSignal chan instr s) := .after hk ((execChainSignal_keeps chan instr s).mono hq)

theorem execChainEnd_keeps (chan : Nat) (instr : List Byte) (s : State) :
    Out.keeps [.hostMem, .fence, .events, .host] s (execChainEnd chan instr s) := by
  unfold execChainEnd
  try dsimp only
  repeat' with_reducible first
    | apply goesOn.refl | apply State.signalRec_on | apply State.chainStep_on | decide | intro (y : ChainInstr)

theorem execChainEnd_on {kp : List Part} {b0 : State} {chan : Nat} {instr : List Byte} {s : State} (hk : goesOn kp b0 s) (hq : ∀ p ∈ [.hostMem, .fence, .events, .host], p ∈ kp) :
    Out.keeps kp b0 (execChainEnd chan instr s) := .after hk ((execChainEnd_keeps chan instr s).mono hq)

end Sys2Proof.Machine
end

