-- ==== Sys2Proof/Laws/Keeps/PcieReset.lean ====
section
/-!
SUPPORT. Which parts of the state each operation of PcieReset.lean touches.
-/
namespace Sys2Proof.Machine

theorem State.flr0_keeps (s : State) :
    goesOn [.time, .mbs, .fence, .events, .host] s (State.flr0 s) := by
  unfold State.flr0
  try dsimp only
  repeat' first
    | with_reducible apply goesOn.refl | with_reducible assumption | with_reducible apply keeps_ite
    | (with_reducible apply keeps_foldl; rotate_left 1; intro y a hy) | with_reducible apply State.raise_on
    | with_reducible apply State.tsqDisable_on | with_reducible apply kset_mbs_events_host | with_reducible decide | split

theorem State.flr0_on {kp : List Part} {b0 : State} {s : State} (hk : goesOn kp b0 s) (hq : ∀ p ∈ [.time, .mbs, .fence, .events, .host], p ∈ kp) :
    goesOn kp b0 (State.flr0 s) := hk.trans ((State.flr0_keeps s).mono hq)

theorem execPf0FunctionLevelReset_keeps (s : State) :
    Out.keeps [.time, .mbs, .fence, .events, .host] s (execPf0FunctionLevelReset s) := by
  unfold execPf0FunctionLevelReset
  try dsimp only
  repeat' with_reducible first
    | apply goesOn.refl | apply State.flr0_on | apply out_next | decide

theorem execPf0FunctionLevelReset_on {kp : List Part} {b0 : State} {s : State} (hk : goesOn kp b0 s) (hq : ∀ p ∈ [.time, .mbs, .fence, .events, .host], p ∈ kp) :
    Out.keeps kp b0 (execPf0FunctionLevelReset s) := .after hk ((execPf0FunctionLevelReset_keeps s).mono hq)

theorem execPf1FunctionLevelReset_keeps (s : State) :
    Out.keeps [.host] s (execPf1FunctionLevelReset s) := by
  unfold execPf1FunctionLevelReset
  try dsimp only
  repeat' with_reducible first
    | apply goesOn.refl | apply kset_host | apply out_next | decide

theorem execPf1FunctionLevelReset_on {kp : List Part} {b0 : State} {s : State} (hk : goesOn kp b0 s) (hq : ∀ p ∈ [.host], p ∈ kp) :
    Out.keeps kp b0 (execPf1FunctionLevelReset s) := .after hk ((execPf1FunctionLevelReset_keeps s).mono hq)

theorem execHotReset_keeps (s : State) :
    Out.keeps [.time, .mbs, .fence, .events, .host] s (execHotReset s) := by
  unfold execHotReset
  try dsimp only
  repeat' with_reducible first
    | apply goesOn.refl | apply State.flr0_on | apply kset_host | apply out_next | decide

theorem execHotReset_on {kp : List Part} {b0 : State} {s : State} (hk : goesOn kp b0 s) (hq : ∀ p ∈ [.time, .mbs, .fence, .events, .host], p ∈ kp) :
    Out.keeps kp b0 (execHotReset s) := .after hk ((execHotReset_keeps s).mono hq)

theorem execBusMasterEnable_keeps (on : Bool) (s : State) :
    Out.keeps [.host] s (execBusMasterEnable on s) := by
  unfold execBusMasterEnable
  try dsimp only
  repeat' with_reducible first
    | apply goesOn.refl | apply kset_host | apply out_next | apply out_ite | decide

theorem execBusMasterEnable_on {kp : List Part} {b0 : State} {on : Bool} {s : State} (hk : goesOn kp b0 s) (hq : ∀ p ∈ [.host], p ∈ kp) :
    Out.keeps kp b0 (execBusMasterEnable on s) := .after hk ((execBusMasterEnable_keeps on s).mono hq)

end Sys2Proof.Machine
end

