-- ==== Sys2Proof/Laws/Keeps/Power.lean ====
section
/-!
SUPPORT. Which parts of the state each operation of Power.lean touches.
-/
namespace Sys2Proof.Machine

theorem State.setPd_keeps (s : State) (d : Nat) (on : Bool) :
    goesOn [.glob] s (State.setPd s d on) := by
  unfold State.setPd
  try dsimp only
  repeat' with_reducible first
    | apply goesOn.refl | apply kset_glob | decide

theorem State.setPd_on {kp : List Part} {b0 : State} {s : State} {d : Nat} {on : Bool} (hk : goesOn kp b0 s) (hq : ∀ p ∈ [.glob], p ∈ kp) :
    goesOn kp b0 (State.setPd s d on) := hk.trans ((State.setPd_keeps s d on).mono hq)

theorem State.domainOff_keeps (s : State) (d : Nat) :
    goesOn [.free, .cmd, .hostMem, .glob, .lanes, .ports, .selv, .tdc, .ref, .time, .ptp, .parse, .core, .contracts, .pair, .fw, .mbs, .fence, .events, .stats] s (State.domainOff s d) := by
  unfold State.domainOff
  try dsimp only
  repeat' with_reducible first
    | apply goesOn.refl | apply keeps_ite | apply State.disqualify_on | apply State.ptpFollow_on | apply State.quadrantOff_on
    | apply State.raise_on | apply State.setPd_on | apply kset_parse_core | decide

theorem State.domainOff_on {kp : List Part} {b0 : State} {s : State} {d : Nat} (hk : goesOn kp b0 s) (hq : ∀ p ∈ [.free, .cmd, .hostMem, .glob, .lanes, .ports, .selv, .tdc, .ref, .time, .ptp, .parse, .core, .contracts, .pair, .fw, .mbs, .fence, .events, .stats], p ∈ kp) :
    goesOn kp b0 (State.domainOff s d) := hk.trans ((State.domainOff_keeps s d).mono hq)

theorem State.domainOn_keeps (s : State) (d : Nat) :
    goesOn [.glob, .lanes, .parse, .core, .fence, .events] s (State.domainOn s d) := by
  unfold State.domainOn
  try dsimp only
  repeat' with_reducible first
    | apply goesOn.refl | apply keeps_ite | apply State.quadrantOn_on | apply State.raise_on | apply State.setPd_on
    | apply kset_core | apply kset_parse | decide

theorem State.domainOn_on {kp : List Part} {b0 : State} {s : State} {d : Nat} (hk : goesOn kp b0 s) (hq : ∀ p ∈ [.glob, .lanes, .parse, .core, .fence, .events], p ∈ kp) :
    goesOn kp b0 (State.domainOn s d) := hk.trans ((State.domainOn_keeps s d).mono hq)

theorem bodySysPowerDomain_keeps (on : Bool) (domain : Nat) (s : State) :
    Rep.keeps [.free, .cmd, .hostMem, .glob, .lanes, .ports, .selv, .tdc, .ref, .time, .ptp, .parse, .core, .contracts, .pair, .fw, .mbs, .fence, .events, .stats] s (bodySysPowerDomain on domain s) := by
  unfold bodySysPowerDomain
  try dsimp only
  repeat' with_reducible first
    | apply goesOn.refl | apply State.domainOff_on | apply State.domainOn_on | apply rep_ok | apply rep_fail | apply rep_bad
    | apply rep_ranges | apply rep_ite | decide

theorem bodySysPowerDomain_on {kp : List Part} {b0 : State} {on : Bool} {domain : Nat} {s : State} (hk : goesOn kp b0 s) (hq : ∀ p ∈ [.free, .cmd, .hostMem, .glob, .lanes, .ports, .selv, .tdc, .ref, .time, .ptp, .parse, .core, .contracts, .pair, .fw, .mbs, .fence, .events, .stats], p ∈ kp) :
    Rep.keeps kp b0 (bodySysPowerDomain on domain s) := .after hk ((bodySysPowerDomain_keeps on domain s).mono hq)

theorem State.abortInFlight_keeps (s : State) :
    goesOn [.hostMem, .mbs, .fence, .events] s (State.abortInFlight s) := by
  unfold State.abortInFlight
  try dsimp only
  repeat' first
    | with_reducible apply goesOn.refl | with_reducible assumption | with_reducible apply keeps_ite
    | (with_reducible apply keeps_foldl; rotate_left 1; intro y a hy) | with_reducible apply State.sweep_on
    | with_reducible apply State.updMb_on | with_reducible decide

theorem State.abortInFlight_on {kp : List Part} {b0 : State} {s : State} (hk : goesOn kp b0 s) (hq : ∀ p ∈ [.hostMem, .mbs, .fence, .events], p ∈ kp) :
    goesOn kp b0 (State.abortInFlight s) := hk.trans ((State.abortInFlight_keeps s).mono hq)

theorem State.endWork_keeps (s : State) :
    goesOn [.free, .cmd, .hostMem, .lanes, .ports, .selv, .tdc, .ref, .time, .parse, .core, .contracts, .pair, .fw, .mbs, .fence, .events, .stats] s (State.endWork s) := by
  unfold State.endWork
  try dsimp only
  repeat' first
    | with_reducible apply goesOn.refl | with_reducible assumption | with_reducible apply keeps_ite
    | (with_reducible apply keeps_foldl; rotate_left 1; intro y a hy) | with_reducible apply State.abortInFlight_on
    | with_reducible apply State.discardCopy_on | with_reducible apply State.disqualify_on
    | with_reducible apply State.quadrantOff_on | with_reducible decide | split

theorem State.endWork_on {kp : List Part} {b0 : State} {s : State} (hk : goesOn kp b0 s) (hq : ∀ p ∈ [.free, .cmd, .hostMem, .lanes, .ports, .selv, .tdc, .ref, .time, .parse, .core, .contracts, .pair, .fw, .mbs, .fence, .events, .stats], p ∈ kp) :
    goesOn kp b0 (State.endWork s) := hk.trans ((State.endWork_keeps s).mono hq)

theorem State.clearUnit_keeps (s : State) :
    goesOn [.glob, .chan, .lanes, .ports, .modules, .selv, .tdc, .gauge, .ref, .time, .ptp, .stitch, .parse, .fwd, .core, .contracts, .pair, .fw, .mbs, .fence, .events, .stats, .host] s (State.clearUnit s) := by
  refine .of ?_ ⟨Nat.le_refl _, id, Nat.le_refl _, fun _ h => h⟩
  intro p hp
  cases p <;> first | exact absurd (by decide) hp | rfl

theorem State.clearUnit_on {kp : List Part} {b0 : State} {s : State} (hk : goesOn kp b0 s) (hq : ∀ p ∈ [.glob, .chan, .lanes, .ports, .modules, .selv, .tdc, .gauge, .ref, .time, .ptp, .stitch, .parse, .fwd, .core, .contracts, .pair, .fw, .mbs, .fence, .events, .stats, .host], p ∈ kp) :
    goesOn kp b0 (State.clearUnit s) := hk.trans ((State.clearUnit_keeps s).mono hq)

theorem State.clearWarm_keeps (s : State) :
    goesOn [.glob, .chan, .lanes, .ports, .modules, .selv, .tdc, .gauge, .ref, .time, .ptp, .stitch, .parse, .fwd, .core, .contracts, .pair, .fw, .mbs, .fence, .events, .stats, .host] s (State.clearWarm s) := by
  unfold State.clearWarm
  try dsimp only
  repeat' with_reducible first
    | apply goesOn.refl | apply State.clearUnit_on | apply kset_glob_lanes_tdc_gauge_ref_time_stitch | decide

theorem State.clearWarm_on {kp : List Part} {b0 : State} {s : State} (hk : goesOn kp b0 s) (hq : ∀ p ∈ [.glob, .chan, .lanes, .ports, .modules, .selv, .tdc, .gauge, .ref, .time, .ptp, .stitch, .parse, .fwd, .core, .contracts, .pair, .fw, .mbs, .fence, .events, .stats, .host], p ∈ kp) :
    goesOn kp b0 (State.clearWarm s) := hk.trans ((State.clearWarm_keeps s).mono hq)

theorem State.coldReset_keeps (s : State) (cause : Nat) :
    goesOn [.glob, .chan, .lanes, .ports, .modules, .selv, .tdc, .gauge, .ref, .time, .ptp, .stitch, .parse, .fwd, .core, .contracts, .pair, .fw, .mbs, .fence, .events, .stats, .power, .host] s (State.coldReset s cause) := by
  refine .of ?_ ⟨Nat.le_refl _, id, Nat.le_refl _, fun _ h => h⟩
  intro p hp
  cases p <;> first | exact absurd (by decide) hp | rfl

theorem State.coldReset_on {kp : List Part} {b0 : State} {s : State} {cause : Nat} (hk : goesOn kp b0 s) (hq : ∀ p ∈ [.glob, .chan, .lanes, .ports, .modules, .selv, .tdc, .gauge, .ref, .time, .ptp, .stitch, .parse, .fwd, .core, .contracts, .pair, .fw, .mbs, .fence, .events, .stats, .power, .host], p ∈ kp) :
    goesOn kp b0 (State.coldReset s cause) := hk.trans ((State.coldReset_keeps s cause).mono hq)

theorem State.pd1Start_keeps (s : State) :
    goesOn [.glob, .lanes, .power] s (State.pd1Start s) := by
  unfold State.pd1Start
  try dsimp only
  repeat' with_reducible first
    | apply goesOn.refl | apply keeps_ite | apply State.pairLanesOn_on | apply State.setPd_on | apply kset_power | decide

theorem State.pd1Start_on {kp : List Part} {b0 : State} {s : State} (hk : goesOn kp b0 s) (hq : ∀ p ∈ [.glob, .lanes, .power], p ∈ kp) :
    goesOn kp b0 (State.pd1Start s) := hk.trans ((State.pd1Start_keeps s).mono hq)

theorem State.pd2Start_keeps (s : State) :
    goesOn [.glob, .fw] s (State.pd2Start s) := by
  unfold State.pd2Start
  try dsimp only
  repeat' with_reducible first
    | apply goesOn.refl | apply keeps_ite | apply State.setPd_on | apply kset_fw | decide

theorem State.pd2Start_on {kp : List Part} {b0 : State} {s : State} (hk : goesOn kp b0 s) (hq : ∀ p ∈ [.glob, .fw], p ∈ kp) :
    goesOn kp b0 (State.pd2Start s) := hk.trans ((State.pd2Start_keeps s).mono hq)

theorem State.pd1Complete_keeps (s : State) :
    goesOn [.glob, .lanes, .ports, .selv, .tdc, .gauge, .time, .ptp, .pair, .fw, .fence, .events, .power] s (State.pd1Complete s) := by
  unfold State.pd1Complete
  try dsimp only
  repeat' with_reducible first
    | apply goesOn.refl | apply keeps_ite | apply State.castLink_on | apply State.gaugePowerOn_on | apply State.pd2Start_on
    | apply kset_glob_time_power | decide

theorem State.pd1Complete_on {kp : List Part} {b0 : State} {s : State} (hk : goesOn kp b0 s) (hq : ∀ p ∈ [.glob, .lanes, .ports, .selv, .tdc, .gauge, .time, .ptp, .pair, .fw, .fence, .events, .power], p ∈ kp) :
    goesOn kp b0 (State.pd1Complete s) := hk.trans ((State.pd1Complete_keeps s).mono hq)

theorem State.startReset_keeps (s : State) (k : Nat) (c : Nat) :
    goesOn [.free, .cmd, .hostMem, .glob, .chan, .lanes, .ports, .modules, .selv, .tdc, .gauge, .ref, .time, .ptp, .stitch, .parse, .fwd, .core, .contracts, .pair, .fw, .mbs, .fence, .events, .stats, .power, .host] s (State.startReset s k c) := by
  unfold State.startReset
  try dsimp only
  repeat' with_reducible first
    | apply goesOn.refl | apply keeps_ite | apply State.clearUnit_on | apply State.clearWarm_on | apply State.coldReset_on
    | apply State.endWork_on | apply State.pd1Start_on | apply State.pd2Start_on | apply kset_pair | apply kset_power | decide

theorem State.startReset_on {kp : List Part} {b0 : State} {s : State} {k : Nat} {c : Nat} (hk : goesOn kp b0 s) (hq : ∀ p ∈ [.free, .cmd, .hostMem, .glob, .chan, .lanes, .ports, .modules, .selv, .tdc, .gauge, .ref, .time, .ptp, .stitch, .parse, .fwd, .core, .contracts, .pair, .fw, .mbs, .fence, .events, .stats, .power, .host], p ∈ kp) :
    goesOn kp b0 (State.startReset s k c) := hk.trans ((State.startReset_keeps s k c).mono hq)

theorem State.requestReset_keeps (s : State) (k : Nat) (c : Nat) (delay : Nat) :
    Opt.keeps [.power] s (State.requestReset s k c delay) := by
  unfold State.requestReset
  try dsimp only
  repeat' with_reducible first
    | apply goesOn.refl | apply opt_some | apply opt_none | apply opt_ite | decide | split | apply kset_power

theorem State.requestReset_on {kp : List Part} {b0 : State} {s : State} {k : Nat} {c : Nat} {delay : Nat} (hk : goesOn kp b0 s) (hq : ∀ p ∈ [.power], p ∈ kp) :
    Opt.keeps kp b0 (State.requestReset s k c delay) := .after hk ((State.requestReset_keeps s k c delay).mono hq)

theorem bodySysReset_keeps (kind : Nat) (s : State) :
    Rep.keeps [.power] s (bodySysReset kind s) := by
  unfold bodySysReset
  try dsimp only
  repeat' with_reducible first
    | apply goesOn.refl | (apply keeps_some; case e => assumption) | apply State.requestReset_on | apply rep_ok | apply rep_fail
    | apply rep_ranges | decide | split

theorem bodySysReset_on {kp : List Part} {b0 : State} {kind : Nat} {s : State} (hk : goesOn kp b0 s) (hq : ∀ p ∈ [.power], p ∈ kp) :
    Rep.keeps kp b0 (bodySysReset kind s) := .after hk ((bodySysReset_keeps kind s).mono hq)

theorem execSysPowerDomain_keeps (src : CmdSrc) (on : Bool) (domain : Nat) (s : State) :
    Out.keeps [.free, .cmd, .hostMem, .glob, .lanes, .ports, .selv, .tdc, .ref, .time, .ptp, .parse, .core, .contracts, .pair, .fw, .mbs, .fence, .events, .stats] s (execSysPowerDomain src on domain s) := by
  unfold execSysPowerDomain
  try dsimp only
  repeat' first
    | with_reducible apply goesOn.refl | with_reducible apply out_next
    | (with_reducible apply keeps_runCmd; rotate_left 1; intro y) | with_reducible apply bodySysPowerDomain_on
    | with_reducible decide

theorem execSysPowerDomain_on {kp : List Part} {b0 : State} {src : CmdSrc} {on : Bool} {domain : Nat} {s : State} (hk : goesOn kp b0 s) (hq : ∀ p ∈ [.free, .cmd, .hostMem, .glob, .lanes, .ports, .selv, .tdc, .ref, .time, .ptp, .parse, .core, .contracts, .pair, .fw, .mbs, .fence, .events, .stats], p ∈ kp) :
    Out.keeps kp b0 (execSysPowerDomain src on domain s) := .after hk ((execSysPowerDomain_keeps src on domain s).mono hq)

theorem execSysReset_keeps (src : CmdSrc) (kind : Nat) (s : State) :
    Out.keeps [.cmd, .hostMem, .glob, .pair, .fw, .mbs, .fence, .events, .power] s (execSysReset src kind s) := by
  unfold execSysReset
  try dsimp only
  repeat' first
    | with_reducible apply goesOn.refl | with_reducible apply out_next
    | (with_reducible apply keeps_runCmd; rotate_left 1; intro y) | with_reducible apply bodySysReset_on | with_reducible decide

theorem execSysReset_on {kp : List Part} {b0 : State} {src : CmdSrc} {kind : Nat} {s : State} (hk : goesOn kp b0 s) (hq : ∀ p ∈ [.cmd, .hostMem, .glob, .pair, .fw, .mbs, .fence, .events, .power], p ∈ kp) :
    Out.keeps kp b0 (execSysReset src kind s) := .after hk ((execSysReset_keeps src kind s).mono hq)

theorem execResetStart_keeps (s : State) :
    Out.keeps [.clock, .free, .cmd, .hostMem, .glob, .chan, .lanes, .ports, .modules, .selv, .tdc, .gauge, .ref, .time, .ptp, .stitch, .parse, .fwd, .core, .contracts, .pair, .fw, .mbs, .fence, .events, .stats, .power, .host] s (execResetStart s) := by
  unfold execResetStart
  try dsimp only
  repeat' with_reducible first
    | apply goesOn.refl | apply State.advance_on | apply State.startReset_on | apply out_next | decide | split

theorem execResetStart_on {kp : List Part} {b0 : State} {s : State} (hk : goesOn kp b0 s) (hq : ∀ p ∈ [.clock, .free, .cmd, .hostMem, .glob, .chan, .lanes, .ports, .modules, .selv, .tdc, .gauge, .ref, .time, .ptp, .stitch, .parse, .fwd, .core, .contracts, .pair, .fw, .mbs, .fence, .events, .stats, .power, .host], p ∈ kp) :
    Out.keeps kp b0 (execResetStart s) := .after hk ((execResetStart_keeps s).mono hq)

theorem execColdReset_keeps (low : Nat) (s : State) :
    Out.keeps [.free, .glob, .chan, .lanes, .ports, .modules, .selv, .tdc, .gauge, .ref, .time, .ptp, .stitch, .parse, .fwd, .core, .contracts, .pair, .fw, .mbs, .fence, .events, .stats, .power, .host] s (execColdReset low s) := by
  unfold execColdReset
  try dsimp only
  repeat' with_reducible first
    | apply goesOn.refl | apply State.coldReset_on | apply State.takeFree_on | apply out_next | apply out_ite | decide

theorem execColdReset_on {kp : List Part} {b0 : State} {low : Nat} {s : State} (hk : goesOn kp b0 s) (hq : ∀ p ∈ [.free, .glob, .chan, .lanes, .ports, .modules, .selv, .tdc, .gauge, .ref, .time, .ptp, .stitch, .parse, .fwd, .core, .contracts, .pair, .fw, .mbs, .fence, .events, .stats, .power, .host], p ∈ kp) :
    Out.keeps kp b0 (execColdReset low s) := .after hk ((execColdReset_keeps low s).mono hq)

theorem State.resumePower_keeps (s : State) :
    goesOn [.glob, .lanes, .fw, .power] s (State.resumePower s) := by
  unfold State.resumePower
  try dsimp only
  repeat' with_reducible first
    | apply goesOn.refl | apply keeps_ite | apply State.pd1Start_on | apply State.pd2Start_on | decide

theorem State.resumePower_on {kp : List Part} {b0 : State} {s : State} (hk : goesOn kp b0 s) (hq : ∀ p ∈ [.glob, .lanes, .fw, .power], p ∈ kp) :
    goesOn kp b0 (State.resumePower s) := hk.trans ((State.resumePower_keeps s).mono hq)

theorem execSupplyFault_keeps (supply : Nat) (s : State) :
    Out.keeps [.free, .cmd, .hostMem, .glob, .chan, .lanes, .ports, .modules, .selv, .tdc, .gauge, .ref, .time, .ptp, .stitch, .parse, .fwd, .core, .contracts, .pair, .fw, .mbs, .fence, .events, .stats, .power, .host] s (execSupplyFault supply s) := by
  unfold execSupplyFault
  try dsimp only
  repeat' first
    | with_reducible apply goesOn.refl | with_reducible assumption | with_reducible apply keeps_ite
    | (with_reducible apply keeps_foldl; rotate_left 1; intro y a hy) | with_reducible apply State.clearUnit_on
    | with_reducible apply State.clearWarm_on | with_reducible apply State.coldReset_on
    | with_reducible apply State.discardCopy_on | with_reducible apply State.endWork_on | with_reducible apply State.raise_on
    | with_reducible apply State.setPd_on | with_reducible apply kset_core | with_reducible apply kset_power
    | with_reducible apply out_next | with_reducible apply out_fault | with_reducible apply out_ite | with_reducible decide

theorem execSupplyFault_on {kp : List Part} {b0 : State} {supply : Nat} {s : State} (hk : goesOn kp b0 s) (hq : ∀ p ∈ [.free, .cmd, .hostMem, .glob, .chan, .lanes, .ports, .modules, .selv, .tdc, .gauge, .ref, .time, .ptp, .stitch, .parse, .fwd, .core, .contracts, .pair, .fw, .mbs, .fence, .events, .stats, .power, .host], p ∈ kp) :
    Out.keeps kp b0 (execSupplyFault supply s) := .after hk ((execSupplyFault_keeps supply s).mono hq)

theorem execSupplyRestored_keeps (supply : Nat) (s : State) :
    Out.keeps [.glob, .lanes, .fw, .power] s (execSupplyRestored supply s) := by
  unfold execSupplyRestored
  try dsimp only
  repeat' with_reducible first
    | apply goesOn.refl | apply State.resumePower_on | apply kset_power | apply out_next | apply out_fault | apply out_ite
    | decide

theorem execSupplyRestored_on {kp : List Part} {b0 : State} {supply : Nat} {s : State} (hk : goesOn kp b0 s) (hq : ∀ p ∈ [.glob, .lanes, .fw, .power], p ∈ kp) :
    Out.keeps kp b0 (execSupplyRestored supply s) := .after hk ((execSupplyRestored_keeps supply s).mono hq)

theorem State.judgeSensor_keeps (s : State) (n : Nat) :
    goesOn [.fence, .events, .power] s (State.judgeSensor s n) := by
  unfold State.judgeSensor
  try dsimp only
  repeat' with_reducible first
    | apply goesOn.refl | apply keeps_ite | apply State.raise_on | apply State.updSensor_on | decide

theorem State.judgeSensor_on {kp : List Part} {b0 : State} {s : State} {n : Nat} (hk : goesOn kp b0 s) (hq : ∀ p ∈ [.fence, .events, .power], p ∈ kp) :
    goesOn kp b0 (State.judgeSensor s n) := hk.trans ((State.judgeSensor_keeps s n).mono hq)

theorem State.thermTo_keeps (s : State) (st : Therm) (n : Nat) (t : Int) :
    goesOn [.fence, .events, .power] s (State.thermTo s st n t) := by
  unfold State.thermTo
  try dsimp only
  repeat' with_reducible first
    | apply goesOn.refl | apply State.raise_on | apply kset_power | decide

theorem State.thermTo_on {kp : List Part} {b0 : State} {s : State} {st : Therm} {n : Nat} {t : Int} (hk : goesOn kp b0 s) (hq : ∀ p ∈ [.fence, .events, .power], p ∈ kp) :
    goesOn kp b0 (State.thermTo s st n t) := hk.trans ((State.thermTo_keeps s st n t).mono hq)

theorem State.thermSteps_keeps (kk : Nat) (s : State) :
    goesOn [.fence, .events, .power] s (State.thermSteps s kk) := by
  induction kk generalizing s with
  | zero => exact .refl _ _
  | succ kk ih =>
    have ihon : ∀ {b0 : State} (s : State), goesOn [.fence, .events, .power] b0 s → goesOn [.fence, .events, .power] b0 (State.thermSteps s kk) := fun s h => h.trans (ih _ )
    unfold State.thermSteps
    try dsimp only
    repeat' with_reducible first
      | apply ihon | apply goesOn.refl | apply keeps_ite | apply State.thermTo_on | decide | split

theorem State.thermSteps_on {kp : List Part} {b0 : State} {s : State} {kk : Nat} (hk : goesOn kp b0 s) (hq : ∀ p ∈ [.fence, .events, .power], p ∈ kp) :
    goesOn kp b0 (State.thermSteps s kk) := hk.trans ((State.thermSteps_keeps kk s).mono hq)

theorem State.readingTaken_keeps (s : State) (n : Nat) :
    goesOn [.lanes, .gauge, .fence, .events] s (State.readingTaken s n) := by
  unfold State.readingTaken
  try dsimp only
  repeat' first
    | with_reducible apply goesOn.refl | with_reducible assumption
    | (with_reducible apply keeps_foldl; rotate_left 1; intro y a hy) | with_reducible apply State.gaugeTemp_on
    | with_reducible apply State.tempDrift_on | with_reducible decide

theorem State.readingTaken_on {kp : List Part} {b0 : State} {s : State} {n : Nat} (hk : goesOn kp b0 s) (hq : ∀ p ∈ [.lanes, .gauge, .fence, .events], p ∈ kp) :
    goesOn kp b0 (State.readingTaken s n) := hk.trans ((State.readingTaken_keeps s n).mono hq)

theorem execSensorConversion_keeps (sensor : Nat) (value : Int) (s : State) :
    Out.keeps [.lanes, .gauge, .fence, .events, .power] s (execSensorConversion sensor value s) := by
  unfold execSensorConversion
  try dsimp only
  repeat' first
    | with_reducible apply goesOn.refl | with_reducible assumption
    | (with_reducible apply keeps_foldl; rotate_left 1; intro y a hy) | with_reducible apply State.judgeSensor_on
    | with_reducible apply State.readingTaken_on | with_reducible apply State.thermSteps_on
    | with_reducible apply State.updSensor_on | with_reducible apply out_next | with_reducible apply out_fault
    | with_reducible apply out_ite | with_reducible decide

theorem execSensorConversion_on {kp : List Part} {b0 : State} {sensor : Nat} {value : Int} {s : State} (hk : goesOn kp b0 s) (hq : ∀ p ∈ [.lanes, .gauge, .fence, .events, .power], p ∈ kp) :
    Out.keeps kp b0 (execSensorConversion sensor value s) := .after hk ((execSensorConversion_keeps sensor value s).mono hq)

theorem execSensorConversionTimeout_keeps (sensor : Nat) (s : State) :
    Out.keeps [.clock, .free, .cmd, .hostMem, .pair, .fw, .mbs, .fence, .events, .stats, .power] s (execSensorConversionTimeout sensor s) := by
  unfold execSensorConversionTimeout
  try dsimp only
  repeat' first
    | with_reducible apply goesOn.refl | with_reducible assumption
    | (with_reducible apply keeps_foldl; rotate_left 1; intro y a hy) | with_reducible apply State.advance_on
    | with_reducible apply State.judgeSensor_on | with_reducible apply State.thermSteps_on
    | with_reducible apply State.updSensor_on | with_reducible apply out_next | with_reducible apply out_fault
    | with_reducible apply out_ite | with_reducible decide

theorem execSensorConversionTimeout_on {kp : List Part} {b0 : State} {sensor : Nat} {s : State} (hk : goesOn kp b0 s) (hq : ∀ p ∈ [.clock, .free, .cmd, .hostMem, .pair, .fw, .mbs, .fence, .events, .stats, .power], p ∈ kp) :
    Out.keeps kp b0 (execSensorConversionTimeout sensor s) := .after hk ((execSensorConversionTimeout_keeps sensor s).mono hq)

theorem execSensorRecovered_keeps (sensor : Nat) (s : State) :
    Out.keeps [.clock, .free, .cmd, .hostMem, .pair, .fw, .mbs, .fence, .events, .stats, .power] s (execSensorRecovered sensor s) := by
  unfold execSensorRecovered
  try dsimp only
  repeat' with_reducible first
    | apply goesOn.refl | assumption | apply keeps_ite | apply State.advance_on | apply State.raise_on | apply State.thermSteps_on
    | apply State.updSensor_on | apply out_next | apply out_fault | apply out_ite | decide | split

theorem execSensorRecovered_on {kp : List Part} {b0 : State} {sensor : Nat} {s : State} (hk : goesOn kp b0 s) (hq : ∀ p ∈ [.clock, .free, .cmd, .hostMem, .pair, .fw, .mbs, .fence, .events, .stats, .power], p ∈ kp) :
    Out.keeps kp b0 (execSensorRecovered sensor s) := .after hk ((execSensorRecovered_keeps sensor s).mono hq)

theorem execThermtrip_keeps (sensor : Nat) (s : State) :
    Out.keeps [.free, .cmd, .hostMem, .glob, .chan, .lanes, .ports, .modules, .selv, .tdc, .gauge, .ref, .time, .ptp, .stitch, .parse, .fwd, .core, .contracts, .pair, .fw, .mbs, .fence, .events, .stats, .power, .host] s (execThermtrip sensor s) := by
  unfold execThermtrip
  try dsimp only
  repeat' with_reducible first
    | apply goesOn.refl | apply State.clearUnit_on | apply State.endWork_on | apply kset_power | apply out_next | apply out_fault
    | apply out_ite | decide

theorem execThermtrip_on {kp : List Part} {b0 : State} {sensor : Nat} {s : State} (hk : goesOn kp b0 s) (hq : ∀ p ∈ [.free, .cmd, .hostMem, .glob, .chan, .lanes, .ports, .modules, .selv, .tdc, .gauge, .ref, .time, .ptp, .stitch, .parse, .fwd, .core, .contracts, .pair, .fw, .mbs, .fence, .events, .stats, .power, .host], p ∈ kp) :
    Out.keeps kp b0 (execThermtrip sensor s) := .after hk ((execThermtrip_keeps sensor s).mono hq)

theorem bodySysGetPower_keeps (s : State) :
    Rep.keeps [.free] s (bodySysGetPower s) := by
  unfold bodySysGetPower
  try dsimp only
  repeat' with_reducible first
    | apply goesOn.refl | apply kset_free | apply rep_ok | decide

theorem bodySysGetPower_on {kp : List Part} {b0 : State} {s : State} (hk : goesOn kp b0 s) (hq : ∀ p ∈ [.free], p ∈ kp) :
    Rep.keeps kp b0 (bodySysGetPower s) := .after hk ((bodySysGetPower_keeps s).mono hq)

theorem bodySysGetThermal_keeps (s : State) :
    Rep.keeps [.free] s (bodySysGetThermal s) := by
  unfold bodySysGetThermal
  try dsimp only
  repeat' with_reducible first
    | apply goesOn.refl | apply kset_free | apply rep_ok | decide

theorem bodySysGetThermal_on {kp : List Part} {b0 : State} {s : State} (hk : goesOn kp b0 s) (hq : ∀ p ∈ [.free], p ∈ kp) :
    Rep.keeps kp b0 (bodySysGetThermal s) := .after hk ((bodySysGetThermal_keeps s).mono hq)

theorem bodySysConfigureThermal_keeps (warn : Int) (throttleAt : Int) (hyst : Int) (fraction : Nat) (s : State) :
    Rep.keeps [.fence, .events, .power] s (bodySysConfigureThermal warn throttleAt hyst fraction s) := by
  unfold bodySysConfigureThermal
  try dsimp only
  repeat' with_reducible first
    | apply goesOn.refl | apply State.thermSteps_on | apply kset_power | apply rep_ok | apply rep_ranges | decide

theorem bodySysConfigureThermal_on {kp : List Part} {b0 : State} {warn : Int} {throttleAt : Int} {hyst : Int} {fraction : Nat} {s : State} (hk : goesOn kp b0 s) (hq : ∀ p ∈ [.fence, .events, .power], p ∈ kp) :
    Rep.keeps kp b0 (bodySysConfigureThermal warn throttleAt hyst fraction s) := .after hk ((bodySysConfigureThermal_keeps warn throttleAt hyst fraction s).mono hq)

theorem bodySysSetSensor_keeps (sensor : Nat) (mark : Nat) (s : State) :
    Rep.keeps [.fence, .events, .power] s (bodySysSetSensor sensor mark s) := by
  unfold bodySysSetSensor
  try dsimp only
  repeat' with_reducible first
    | apply goesOn.refl | assumption | apply keeps_ite | apply State.judgeSensor_on | apply State.thermSteps_on
    | apply State.updSensor_on | apply Rep.badState_on | apply Rep.ranges_on | apply rep_ok | apply rep_fail | apply rep_range
    | apply rep_bad | apply rep_flags | apply rep_done | apply rep_later | apply rep_ranges | apply rep_ite | decide | split

theorem bodySysSetSensor_on {kp : List Part} {b0 : State} {sensor : Nat} {mark : Nat} {s : State} (hk : goesOn kp b0 s) (hq : ∀ p ∈ [.fence, .events, .power], p ∈ kp) :
    Rep.keeps kp b0 (bodySysSetSensor sensor mark s) := .after hk ((bodySysSetSensor_keeps sensor mark s).mono hq)

theorem execSysGetPower_keeps (src : CmdSrc) (s : State) :
    Out.keeps [.free, .cmd, .hostMem, .glob, .pair, .fw, .mbs, .fence, .events] s (execSysGetPower src s) := by
  unfold execSysGetPower
  try dsimp only
  repeat' first
    | with_reducible apply goesOn.refl | with_reducible apply out_next
    | (with_reducible apply keeps_runCmd; rotate_left 1; intro y) | with_reducible apply bodySysGetPower_on
    | with_reducible decide

theorem execSysGetPower_on {kp : List Part} {b0 : State} {src : CmdSrc} {s : State} (hk : goesOn kp b0 s) (hq : ∀ p ∈ [.free, .cmd, .hostMem, .glob, .pair, .fw, .mbs, .fence, .events], p ∈ kp) :
    Out.keeps kp b0 (execSysGetPower src s) := .after hk ((execSysGetPower_keeps src s).mono hq)

theorem execSysGetThermal_keeps (src : CmdSrc) (s : State) :
    Out.keeps [.free, .cmd, .hostMem, .glob, .pair, .fw, .mbs, .fence, .events] s (execSysGetThermal src s) := by
  unfold execSysGetThermal
  try dsimp only
  repeat' first
    | with_reducible apply goesOn.refl | with_reducible apply out_next
    | (with_reducible apply keeps_runCmd; rotate_left 1; intro y) | with_reducible apply bodySysGetThermal_on
    | with_reducible decide

theorem execSysGetThermal_on {kp : List Part} {b0 : State} {src : CmdSrc} {s : State} (hk : goesOn kp b0 s) (hq : ∀ p ∈ [.free, .cmd, .hostMem, .glob, .pair, .fw, .mbs, .fence, .events], p ∈ kp) :
    Out.keeps kp b0 (execSysGetThermal src s) := .after hk ((execSysGetThermal_keeps src s).mono hq)

theorem execSysConfigureThermal_keeps (src : CmdSrc) (warn : Int) (throttleAt : Int) (hyst : Int) (fraction : Nat) (s : State) :
    Out.keeps [.cmd, .hostMem, .glob, .pair, .fw, .mbs, .fence, .events, .power] s (execSysConfigureThermal src warn throttleAt hyst fraction s) := by
  unfold execSysConfigureThermal
  try dsimp only
  repeat' first
    | with_reducible apply goesOn.refl | with_reducible apply out_next
    | (with_reducible apply keeps_runCmd; rotate_left 1; intro y) | with_reducible apply bodySysConfigureThermal_on
    | with_reducible decide

theorem execSysConfigureThermal_on {kp : List Part} {b0 : State} {src : CmdSrc} {warn : Int} {throttleAt : Int} {hyst : Int} {fraction : Nat} {s : State} (hk : goesOn kp b0 s) (hq : ∀ p ∈ [.cmd, .hostMem, .glob, .pair, .fw, .mbs, .fence, .events, .power], p ∈ kp) :
    Out.keeps kp b0 (execSysConfigureThermal src warn throttleAt hyst fraction s) := .after hk ((execSysConfigureThermal_keeps src warn throttleAt hyst fraction s).mono hq)

theorem execSysSetSensor_keeps (src : CmdSrc) (sensor : Nat) (mark : Nat) (s : State) :
    Out.keeps [.cmd, .hostMem, .glob, .pair, .fw, .mbs, .fence, .events, .power] s (execSysSetSensor src sensor mark s) := by
  unfold execSysSetSensor
  try dsimp only
  repeat' first
    | with_reducible apply goesOn.refl | with_reducible apply out_next
    | (with_reducible apply keeps_runCmd; rotate_left 1; intro y) | with_reducible apply bodySysSetSensor_on
    | with_reducible decide

theorem execSysSetSensor_on {kp : List Part} {b0 : State} {src : CmdSrc} {sensor : Nat} {mark : Nat} {s : State} (hk : goesOn kp b0 s) (hq : ∀ p ∈ [.cmd, .hostMem, .glob, .pair, .fw, .mbs, .fence, .events, .power], p ∈ kp) :
    Out.keeps kp b0 (execSysSetSensor src sensor mark s) := .after hk ((execSysSetSensor_keeps src sensor mark s).mono hq)

theorem execRomCheck_keeps (ok : Bool) (order : Nat) (serial : Nat) (strap : Bool) (hashes : List (Nat × List Byte)) (fullDebug : Bool) (s : State) :
    Out.keeps [.fuses, .power] s (execRomCheck ok order serial strap hashes fullDebug s) := by
  unfold execRomCheck
  dsimp only
  refine out_ite (out_next (.refl _ _)) (out_ite out_fault (out_ite out_fault (out_ite (out_next ?_) (out_next ?_))))
  all_goals exact kset_fuses_power (.refl _ _) (by decide) (Nat.le_refl _) fun _ h => h

theorem execRomCheck_on {kp : List Part} {b0 : State} {ok : Bool} {order : Nat} {serial : Nat} {strap : Bool} {hashes : List (Nat × List Byte)} {fullDebug : Bool} {s : State} (hk : goesOn kp b0 s) (hq : ∀ p ∈ [.fuses, .power], p ∈ kp) :
    Out.keeps kp b0 (execRomCheck ok order serial strap hashes fullDebug s) := .after hk ((execRomCheck_keeps ok order serial strap hashes fullDebug s).mono hq)

theorem execFlashReadDone_keeps (a : Option (List Byte)) (b : Option (List Byte)) (s : State) :
    Out.keeps [.glob, .lanes, .fw, .power] s (execFlashReadDone a b s) := by
  unfold execFlashReadDone
  try dsimp only
  repeat' with_reducible first
    | apply goesOn.refl | apply State.pd1Start_on | apply kset_glob_fw_power | apply out_next | apply out_ite | decide | split

theorem execFlashReadDone_on {kp : List Part} {b0 : State} {a : Option (List Byte)} {b : Option (List Byte)} {s : State} (hk : goesOn kp b0 s) (hq : ∀ p ∈ [.glob, .lanes, .fw, .power], p ∈ kp) :
    Out.keeps kp b0 (execFlashReadDone a b s) := .after hk ((execFlashReadDone_keeps a b s).mono hq)

theorem execRootLock_keeps (s : State) :
    Out.keeps [.clock, .free, .cmd, .hostMem, .glob, .lanes, .ports, .selv, .tdc, .gauge, .time, .ptp, .pair, .fw, .mbs, .fence, .events, .stats, .power] s (execRootLock s) := by
  unfold execRootLock
  try dsimp only
  repeat' with_reducible first
    | apply goesOn.refl | apply State.advance_on | apply State.pd1Complete_on | apply State.pd1Start_on | apply out_next
    | apply out_ite | decide | split | apply kset_glob

theorem execRootLock_on {kp : List Part} {b0 : State} {s : State} (hk : goesOn kp b0 s) (hq : ∀ p ∈ [.clock, .free, .cmd, .hostMem, .glob, .lanes, .ports, .selv, .tdc, .gauge, .time, .ptp, .pair, .fw, .mbs, .fence, .events, .stats, .power], p ∈ kp) :
    Out.keeps kp b0 (execRootLock s) := .after hk ((execRootLock_keeps s).mono hq)

theorem execRootLockTimeout_keeps (s : State) :
    Out.keeps [.clock, .free, .cmd, .hostMem, .glob, .lanes, .pair, .fw, .mbs, .fence, .events, .stats, .power] s (execRootLockTimeout s) := by
  unfold execRootLockTimeout
  try dsimp only
  repeat' first
    | with_reducible apply goesOn.refl | with_reducible assumption
    | (with_reducible apply keeps_foldl; rotate_left 1; intro y a hy) | with_reducible apply State.advance_on
    | with_reducible apply State.pd1Start_on | with_reducible apply State.setPd_on | with_reducible apply State.updLane_on
    | with_reducible apply out_next | with_reducible apply out_ite | with_reducible decide | split
    | with_reducible apply kset_power

theorem execRootLockTimeout_on {kp : List Part} {b0 : State} {s : State} (hk : goesOn kp b0 s) (hq : ∀ p ∈ [.clock, .free, .cmd, .hostMem, .glob, .lanes, .pair, .fw, .mbs, .fence, .events, .stats, .power], p ∈ kp) :
    Out.keeps kp b0 (execRootLockTimeout s) := .after hk ((execRootLockTimeout_keeps s).mono hq)

theorem execCoreLoadDone_keeps (s : State) :
    Out.keeps [.chan, .lanes, .modules, .fw, .fence, .events, .power] s (execCoreLoadDone s) := by
  unfold execCoreLoadDone
  try dsimp only
  repeat' with_reducible first
    | apply goesOn.refl | apply keeps_ite | apply State.bootTables_on | apply State.raise_on | apply out_next | apply out_ite
    | decide | split | apply kset_modules_fw_fence_power

theorem execCoreLoadDone_on {kp : List Part} {b0 : State} {s : State} (hk : goesOn kp b0 s) (hq : ∀ p ∈ [.chan, .lanes, .modules, .fw, .fence, .events, .power], p ∈ kp) :
    Out.keeps kp b0 (execCoreLoadDone s) := .after hk ((execCoreLoadDone_keeps s).mono hq)

theorem State.ospiDone_keeps (s : State) (out : List Byte) :
    goesOn [.power] s (State.ospiDone s out) := by
  unfold State.ospiDone
  try dsimp only
  repeat' with_reducible first
    | apply goesOn.refl | apply kset_power | decide

theorem State.ospiDone_on {kp : List Part} {b0 : State} {s : State} {out : List Byte} (hk : goesOn kp b0 s) (hq : ∀ p ∈ [.power], p ∈ kp) :
    goesOn kp b0 (State.ospiDone s out) := hk.trans ((State.ospiDone_keeps s out).mono hq)

theorem State.ospiBadOne_keeps (s : State) (out : List Byte) :
    goesOn [.power] s (State.ospiBadOne s out) := by
  unfold State.ospiBadOne
  try dsimp only
  repeat' with_reducible first
    | apply goesOn.refl | apply State.ospiDone_on | apply kset_power | decide

theorem State.ospiBadOne_on {kp : List Part} {b0 : State} {s : State} {out : List Byte} (hk : goesOn kp b0 s) (hq : ∀ p ∈ [.power], p ∈ kp) :
    goesOn kp b0 (State.ospiBadOne s out) := hk.trans ((State.ospiBadOne_keeps s out).mono hq)

theorem execOspiReadId_keeps (s : State) :
    Out.keeps [.power] s (execOspiReadId s) := by
  unfold execOspiReadId
  try dsimp only
  repeat' with_reducible first
    | apply goesOn.refl | apply State.ospiDone_on | apply out_next | decide

theorem execOspiReadId_on {kp : List Part} {b0 : State} {s : State} (hk : goesOn kp b0 s) (hq : ∀ p ∈ [.power], p ∈ kp) :
    Out.keeps kp b0 (execOspiReadId s) := .after hk ((execOspiReadId_keeps s).mono hq)

theorem execOspiReadStatus_keeps (s : State) :
    Out.keeps [.free, .power] s (execOspiReadStatus s) := by
  unfold execOspiReadStatus
  try dsimp only
  repeat' with_reducible first
    | apply goesOn.refl | apply State.ospiDone_on | apply kset_free | apply out_next | decide

theorem execOspiReadStatus_on {kp : List Part} {b0 : State} {s : State} (hk : goesOn kp b0 s) (hq : ∀ p ∈ [.free, .power], p ∈ kp) :
    Out.keeps kp b0 (execOspiReadStatus s) := .after hk ((execOspiReadStatus_keeps s).mono hq)

theorem execOspiReadSensors_keeps (s : State) :
    Out.keeps [.free, .power] s (execOspiReadSensors s) := by
  unfold execOspiReadSensors
  try dsimp only
  repeat' with_reducible first
    | apply goesOn.refl | apply State.ospiDone_on | apply kset_free | apply out_next | decide

theorem execOspiReadSensors_on {kp : List Part} {b0 : State} {s : State} (hk : goesOn kp b0 s) (hq : ∀ p ∈ [.free, .power], p ∈ kp) :
    Out.keeps kp b0 (execOspiReadSensors s) := .after hk ((execOspiReadSensors_keeps s).mono hq)

theorem execRecoveryErase_keeps (s : State) :
    Out.keeps [.power] s (execRecoveryErase s) := by
  unfold execRecoveryErase
  try dsimp only
  repeat' with_reducible first
    | apply goesOn.refl | apply State.ospiBadOne_on | apply State.ospiDone_on | apply kset_power | apply out_next | apply out_ite
    | decide

theorem execRecoveryErase_on {kp : List Part} {b0 : State} {s : State} (hk : goesOn kp b0 s) (hq : ∀ p ∈ [.power], p ∈ kp) :
    Out.keeps kp b0 (execRecoveryErase s) := .after hk ((execRecoveryErase_keeps s).mono hq)

theorem execRecoveryEraseDone_keeps (s : State) :
    Out.keeps [.power] s (execRecoveryEraseDone s) := by
  unfold execRecoveryEraseDone
  try dsimp only
  repeat' with_reducible first
    | apply goesOn.refl | apply kset_power | apply out_next | apply out_ite | decide

theorem execRecoveryEraseDone_on {kp : List Part} {b0 : State} {s : State} (hk : goesOn kp b0 s) (hq : ∀ p ∈ [.power], p ∈ kp) :
    Out.keeps kp b0 (execRecoveryEraseDone s) := .after hk ((execRecoveryEraseDone_keeps s).mono hq)

theorem execRecoveryWrite_keeps (offset : Nat) (bytes : List Byte) (s : State) :
    Out.keeps [.power] s (execRecoveryWrite offset bytes s) := by
  unfold execRecoveryWrite
  try dsimp only
  repeat' with_reducible first
    | apply goesOn.refl | apply State.ospiBadOne_on | apply State.ospiDone_on | apply kset_power | apply out_next | apply out_ite
    | decide

theorem execRecoveryWrite_on {kp : List Part} {b0 : State} {offset : Nat} {bytes : List Byte} {s : State} (hk : goesOn kp b0 s) (hq : ∀ p ∈ [.power], p ∈ kp) :
    Out.keeps kp b0 (execRecoveryWrite offset bytes s) := .after hk ((execRecoveryWrite_keeps offset bytes s).mono hq)

theorem execRecoveryCommit_keeps (s : State) :
    Out.keeps [.free, .glob, .chan, .lanes, .ports, .modules, .selv, .tdc, .gauge, .ref, .time, .ptp, .stitch, .parse, .fwd, .core, .contracts, .pair, .fw, .mbs, .fence, .events, .stats, .power, .host] s (execRecoveryCommit s) := by
  unfold execRecoveryCommit
  try dsimp only
  repeat' with_reducible first
    | apply goesOn.refl | apply State.coldReset_on | apply State.ospiBadOne_on | apply State.ospiDone_on | apply State.takeFree_on
    | apply out_next | apply out_ite | decide | split | apply kset_power

theorem execRecoveryCommit_on {kp : List Part} {b0 : State} {s : State} (hk : goesOn kp b0 s) (hq : ∀ p ∈ [.free, .glob, .chan, .lanes, .ports, .modules, .selv, .tdc, .gauge, .ref, .time, .ptp, .stitch, .parse, .fwd, .core, .contracts, .pair, .fw, .mbs, .fence, .events, .stats, .power, .host], p ∈ kp) :
    Out.keeps kp b0 (execRecoveryCommit s) := .after hk ((execRecoveryCommit_keeps s).mono hq)

theorem execOspiReset_keeps (opcode : Nat) (kind : Nat) (s : State) :
    Out.keeps [.power] s (execOspiReset opcode kind s) := by
  unfold execOspiReset
  try dsimp only
  repeat' with_reducible first
    | apply goesOn.refl | apply State.ospiBadOne_on | apply State.ospiDone_on | (apply keeps_some; case e => assumption)
    | apply out_next | apply out_fault | apply out_ite | apply State.requestReset_on | decide | split | apply kset_power

theorem execOspiReset_on {kp : List Part} {b0 : State} {opcode : Nat} {kind : Nat} {s : State} (hk : goesOn kp b0 s) (hq : ∀ p ∈ [.power], p ∈ kp) :
    Out.keeps kp b0 (execOspiReset opcode kind s) := .after hk ((execOspiReset_keeps opcode kind s).mono hq)

theorem execOspiCsTimeout_keeps (s : State) :
    Out.keeps [.power] s (execOspiCsTimeout s) := by
  unfold execOspiCsTimeout
  try dsimp only
  repeat' with_reducible first
    | apply goesOn.refl | apply State.ospiBadOne_on | apply out_next | decide

theorem execOspiCsTimeout_on {kp : List Part} {b0 : State} {s : State} (hk : goesOn kp b0 s) (hq : ∀ p ∈ [.power], p ∈ kp) :
    Out.keeps kp b0 (execOspiCsTimeout s) := .after hk ((execOspiCsTimeout_keeps s).mono hq)

end Sys2Proof.Machine
end

