-- ==== Sys2Proof/Laws/Keeps/Recovery.lean ====
section
/-!
SUPPORT. Which parts of the state each operation of Recovery.lean touches.
-/
namespace Sys2Proof.Machine

theorem State.recoveryStart_keeps (s : State) (kind : Nat) (place : Nat) :
    goesOn [.fence, .events] s (State.recoveryStart s kind place) := by
  unfold State.recoveryStart
  try dsimp only
  repeat' with_reducible first
    | apply goesOn.refl | apply State.raise_on | decide

theorem State.recoveryStart_on {kp : List Part} {b0 : State} {s : State} {kind : Nat} {place : Nat} (hk : goesOn kp b0 s) (hq : ∀ p ∈ [.fence, .events], p ∈ kp) :
    goesOn kp b0 (State.recoveryStart s kind place) := hk.trans ((State.recoveryStart_keeps s kind place).mono hq)

theorem State.recoveryDone_keeps (s : State) (kind : Nat) (place : Nat) (l : List (Nat × Nat × Nat)) :
    goesOn [.fence, .events] s (State.recoveryDone s kind place l) := by
  unfold State.recoveryDone
  try dsimp only
  repeat' first
    | with_reducible apply goesOn.refl | with_reducible assumption | with_reducible apply keeps_ite
    | (with_reducible apply keeps_foldl; rotate_left 1; intro y a hy) | with_reducible apply State.raise_on
    | with_reducible decide

theorem State.recoveryDone_on {kp : List Part} {b0 : State} {s : State} {kind : Nat} {place : Nat} {l : List (Nat × Nat × Nat)} (hk : goesOn kp b0 s) (hq : ∀ p ∈ [.fence, .events], p ∈ kp) :
    goesOn kp b0 (State.recoveryDone s kind place l) := hk.trans ((State.recoveryDone_keeps s kind place l).mono hq)

theorem State.markInFlight_keeps (s : State) :
    goesOn [.glob, .time, .stitch, .fw, .mbs, .fence] s (State.markInFlight s) := by
  unfold State.markInFlight
  try dsimp only
  repeat' first
    | with_reducible apply goesOn.refl | with_reducible assumption | with_reducible apply keeps_ite
    | (with_reducible apply keeps_foldl; rotate_left 1; intro y a hy) | with_reducible apply State.forgetWaiting_on
    | with_reducible apply State.updMb_on | with_reducible decide

theorem State.markInFlight_on {kp : List Part} {b0 : State} {s : State} (hk : goesOn kp b0 s) (hq : ∀ p ∈ [.glob, .time, .stitch, .fw, .mbs, .fence], p ∈ kp) :
    goesOn kp b0 (State.markInFlight s) := hk.trans ((State.markInFlight_keeps s).mono hq)

theorem State.holdCore_keeps (s : State) (n : Nat) :
    goesOn [.glob, .time, .stitch, .fw, .mbs, .fence, .events] s (State.holdCore s n) := by
  unfold State.holdCore
  try dsimp only
  repeat' with_reducible first
    | apply goesOn.refl | apply keeps_ite | apply State.markInFlight_on | apply State.recoveryStart_on | apply State.updCore_on
    | apply kset_fence | decide

theorem State.holdCore_on {kp : List Part} {b0 : State} {s : State} {n : Nat} (hk : goesOn kp b0 s) (hq : ∀ p ∈ [.glob, .time, .stitch, .fw, .mbs, .fence, .events], p ∈ kp) :
    goesOn kp b0 (State.holdCore s n) := hk.trans ((State.holdCore_keeps s n).mono hq)

theorem execWatchdog_keeps (core : Nat) (s : State) :
    Out.keeps [.glob, .time, .stitch, .fw, .mbs, .fence, .events] s (execWatchdog core s) := by
  unfold execWatchdog
  try dsimp only
  repeat' with_reducible first
    | apply goesOn.refl | apply State.holdCore_on | apply State.raise_on | apply out_next | apply out_fault | apply out_ite
    | decide

theorem execWatchdog_on {kp : List Part} {b0 : State} {core : Nat} {s : State} (hk : goesOn kp b0 s) (hq : ∀ p ∈ [.glob, .time, .stitch, .fw, .mbs, .fence, .events], p ∈ kp) :
    Out.keeps kp b0 (execWatchdog core s) := .after hk ((execWatchdog_keeps core s).mono hq)

theorem execFirewallFault_keeps (core : Nat) (addr : Nat) (s : State) :
    Out.keeps [.glob, .time, .stitch, .fw, .mbs, .fence, .events, .stats] s (execFirewallFault core addr s) := by
  unfold execFirewallFault
  try dsimp only
  repeat' with_reducible first
    | apply goesOn.refl | apply keeps_ite | apply State.holdCore_on | apply State.raise_on | apply State.updCore_on
    | apply out_next | apply out_fault | apply out_ite | decide

theorem execFirewallFault_on {kp : List Part} {b0 : State} {core : Nat} {addr : Nat} {s : State} (hk : goesOn kp b0 s) (hq : ∀ p ∈ [.glob, .time, .stitch, .fw, .mbs, .fence, .events, .stats], p ∈ kp) :
    Out.keeps kp b0 (execFirewallFault core addr s) := .after hk ((execFirewallFault_keeps core addr s).mono hq)

theorem State.pairFirmwareBack_keeps (s : State) :
    goesOn [.pair] s (State.pairFirmwareBack s) := by
  unfold State.pairFirmwareBack
  try dsimp only
  repeat' with_reducible first
    | apply goesOn.refl | apply keeps_ite | apply State.sendCtl_on | apply kset_pair | decide

theorem State.pairFirmwareBack_on {kp : List Part} {b0 : State} {s : State} (hk : goesOn kp b0 s) (hq : ∀ p ∈ [.pair], p ∈ kp) :
    goesOn kp b0 (State.pairFirmwareBack s) := hk.trans ((State.pairFirmwareBack_keeps s).mono hq)

theorem State.clearStaging_keeps (s : State) :
    goesOn [.mbs] s (State.clearStaging s) := by
  unfold State.clearStaging
  try dsimp only
  repeat' with_reducible first
    | apply goesOn.refl | apply kset_mbs | decide

theorem State.clearStaging_on {kp : List Part} {b0 : State} {s : State} (hk : goesOn kp b0 s) (hq : ∀ p ∈ [.mbs], p ∈ kp) :
    goesOn kp b0 (State.clearStaging s) := hk.trans ((State.clearStaging_keeps s).mono hq)

theorem execCoreRestart_keeps (core : Nat) (s : State) :
    Out.keeps [.hostMem, .pair, .fw, .mbs, .fence, .events] s (execCoreRestart core s) := by
  unfold execCoreRestart
  try dsimp only
  repeat' first
    | with_reducible apply goesOn.refl | with_reducible assumption | with_reducible apply keeps_ite
    | (with_reducible apply keeps_foldl; rotate_left 1; intro y a hy) | with_reducible apply State.clearStaging_on
    | with_reducible apply State.pairFirmwareBack_on | with_reducible apply State.pokeFences_on
    | with_reducible apply State.raise_on | with_reducible apply State.recoveryDone_on | with_reducible apply State.sweep_on
    | with_reducible apply State.updCore_on | with_reducible apply kset_fence | with_reducible apply out_next
    | with_reducible apply out_fault | with_reducible apply out_ite | with_reducible decide

theorem execCoreRestart_on {kp : List Part} {b0 : State} {core : Nat} {s : State} (hk : goesOn kp b0 s) (hq : ∀ p ∈ [.hostMem, .pair, .fw, .mbs, .fence, .events], p ∈ kp) :
    Out.keeps kp b0 (execCoreRestart core s) := .after hk ((execCoreRestart_keeps core s).mono hq)

theorem execKeeperLockstep_keeps (s : State) :
    Out.keeps [.glob, .fw, .fence, .events] s (execKeeperLockstep s) := by
  unfold execKeeperLockstep
  try dsimp only
  repeat' with_reducible first
    | apply goesOn.refl | apply State.closeSession_on | apply State.raise_on | apply State.recoveryStart_on | apply kset_glob_fw
    | apply out_next | decide

theorem execKeeperLockstep_on {kp : List Part} {b0 : State} {s : State} (hk : goesOn kp b0 s) (hq : ∀ p ∈ [.glob, .fw, .fence, .events], p ∈ kp) :
    Out.keeps kp b0 (execKeeperLockstep s) := .after hk ((execKeeperLockstep_keeps s).mono hq)

theorem State.loseJournal_keeps (s : State) :
    goesOn [.cmd, .hostMem, .pair, .fw, .mbs, .fence, .events] s (State.loseJournal s).1 := by
  unfold State.loseJournal
  try dsimp only
  repeat' first
    | with_reducible apply goesOn.refl | with_reducible assumption
    | (with_reducible apply keeps_foldl1; rotate_left 1; intro y a hy) | with_reducible apply State.finish_on
    | with_reducible decide | split | with_reducible apply kset_pair

theorem State.loseJournal_on {kp : List Part} {b0 : State} {s : State} (hk : goesOn kp b0 s) (hq : ∀ p ∈ [.cmd, .hostMem, .pair, .fw, .mbs, .fence, .events], p ∈ kp) :
    goesOn kp b0 (State.loseJournal s).1 := hk.trans ((State.loseJournal_keeps s).mono hq)

theorem State.sramHandle_keeps (s : State) (what : SramWhat) (arg : Nat) :
    goesOn [.cmd, .hostMem, .glob, .time, .stitch, .fwd, .pair, .fw, .mbs, .fence, .events] s (State.sramHandle s what arg).1 := by
  unfold State.sramHandle
  try dsimp only
  repeat' with_reducible first
    | apply goesOn.refl | assumption | apply keeps_ite | apply keeps_ite1 | apply keeps_ite2 | apply State.frog_on
    | apply State.holdCore_on | apply State.hwCount_on | apply State.hwSet_on | apply State.loseJournal_on | apply State.updMb_on
    | (apply keeps_fst; case e => assumption) | (apply keeps_snd; case e => assumption) | decide | split | apply kset_fwd_events
    | apply kset_events | apply kset_fwd

theorem State.sramHandle_on {kp : List Part} {b0 : State} {s : State} {what : SramWhat} {arg : Nat} (hk : goesOn kp b0 s) (hq : ∀ p ∈ [.cmd, .hostMem, .glob, .time, .stitch, .fwd, .pair, .fw, .mbs, .fence, .events], p ∈ kp) :
    goesOn kp b0 (State.sramHandle s what arg).1 := hk.trans ((State.sramHandle_keeps s what arg).mono hq)

theorem execSharedSramError_keeps (what : SramWhat) (arg : Nat) (s : State) :
    Out.keeps [.cmd, .hostMem, .glob, .time, .stitch, .fwd, .pair, .fw, .mbs, .fence, .events] s (execSharedSramError what arg s) := by
  unfold execSharedSramError
  try dsimp only
  repeat' with_reducible first
    | apply goesOn.refl | assumption | apply keeps_ite | apply keeps_ite1 | apply keeps_ite2 | apply State.holdCore_on
    | apply State.recoveryDone_on | apply State.recoveryStart_on | apply State.sramHandle_on | apply out_next | apply out_fault
    | apply out_ite | (apply keeps_fst; case e => assumption) | (apply keeps_snd; case e => assumption) | decide | split

theorem execSharedSramError_on {kp : List Part} {b0 : State} {what : SramWhat} {arg : Nat} {s : State} (hk : goesOn kp b0 s) (hq : ∀ p ∈ [.cmd, .hostMem, .glob, .time, .stitch, .fwd, .pair, .fw, .mbs, .fence, .events], p ∈ kp) :
    Out.keeps kp b0 (execSharedSramError what arg s) := .after hk ((execSharedSramError_keeps what arg s).mono hq)

theorem execFenceMarkerWrite_keeps (stream : StreamId) (s : State) :
    Out.keeps [.clock, .free, .cmd, .hostMem, .tdc, .time, .core, .pair, .fw, .mbs, .fence, .events, .stats, .host] s (execFenceMarkerWrite stream s) := by
  unfold execFenceMarkerWrite
  try dsimp only
  repeat' with_reducible first
    | apply goesOn.refl | assumption | apply keeps_ite | apply State.advanceTick_on | apply State.capFlush_on
    | apply State.capMarkerDue_on | apply State.cqMarkerDue_on | apply State.logMarker_on | apply State.ringMarkerDue_on
    | apply State.tsqPoke_on | apply kset_fence | apply out_next | apply out_fault | apply out_ite | decide | split

theorem execFenceMarkerWrite_on {kp : List Part} {b0 : State} {stream : StreamId} {s : State} (hk : goesOn kp b0 s) (hq : ∀ p ∈ [.clock, .free, .cmd, .hostMem, .tdc, .time, .core, .pair, .fw, .mbs, .fence, .events, .stats, .host], p ∈ kp) :
    Out.keeps kp b0 (execFenceMarkerWrite stream s) := .after hk ((execFenceMarkerWrite_keeps stream s).mono hq)

end Sys2Proof.Machine
end

