-- ==== Sys2Proof/Laws/Keeps/Regs.lean ====
section
/-!
SUPPORT. Which parts of the state each operation of Regs.lean touches.
-/
namespace Sys2Proof.Machine

theorem nextOf_on {ps : List Part} {b0 s : State} {o : Out} (h : goesOn ps b0 s) (k : Out.keeps ps b0 o) :
    goesOn ps b0 (nextOf s o) := by
  unfold nextOf; split
  · exact k _ rfl
  · exact h

theorem State.bar0Rc_keeps (s : State) (o : Nat) (v : Nat) :
    goesOn [.tdc, .time, .pair, .events, .host] s (State.bar0Rc s o v) := by
  unfold State.bar0Rc
  try dsimp only
  repeat' with_reducible first
    | apply goesOn.refl | assumption | apply keeps_ite | apply State.updChan_on | apply State.updRing_on | apply State.updTsq_on
    | apply kset_events | apply kset_host | apply kset_pair | apply kset_time | decide | split

theorem State.bar0Rc_on {kp : List Part} {b0 : State} {s : State} {o : Nat} {v : Nat} (hk : goesOn kp b0 s) (hq : ∀ p ∈ [.tdc, .time, .pair, .events, .host], p ∈ kp) :
    goesOn kp b0 (State.bar0Rc s o v) := hk.trans ((State.bar0Rc_keeps s o v).mono hq)

theorem State.bar2Rc_keeps (s : State) (o : Nat) (v : Nat) :
    goesOn [.core, .stats] s (State.bar2Rc s o v) := by
  unfold State.bar2Rc
  try dsimp only
  repeat' with_reducible first
    | apply goesOn.refl | assumption | apply keeps_ite | apply State.updCap_on | apply kset_stats | decide | split

theorem State.bar2Rc_on {kp : List Part} {b0 : State} {s : State} {o : Nat} {v : Nat} (hk : goesOn kp b0 s) (hq : ∀ p ∈ [.core, .stats], p ∈ kp) :
    goesOn kp b0 (State.bar2Rc s o v) := hk.trans ((State.bar2Rc_keeps s o v).mono hq)

theorem State.readRc_keeps (s : State) (w : Win) (o : Nat) :
    goesOn [.tdc, .time, .core, .pair, .events, .stats, .host] s (State.readRc s w o).2 := by
  unfold State.readRc
  try dsimp only
  repeat' with_reducible first
    | apply goesOn.refl | assumption | apply keeps_ite | apply State.bar0Rc_on | apply State.bar2Rc_on | apply kset_events
    | decide | split

theorem State.readRc_on {kp : List Part} {b0 : State} {s : State} {w : Win} {o : Nat} (hk : goesOn kp b0 s) (hq : ∀ p ∈ [.tdc, .time, .core, .pair, .events, .stats, .host], p ∈ kp) :
    goesOn kp b0 (State.readRc s w o).2 := hk.trans ((State.readRc_keeps s w o).mono hq)

theorem State.readReg_keeps (s : State) (w : Win) (o : Nat) :
    goesOn [.clock, .free, .cmd, .hostMem, .tdc, .time, .core, .pair, .fw, .mbs, .fence, .events, .stats, .host] s (State.readReg s w o).2 := by
  unfold State.readReg
  try dsimp only
  repeat' with_reducible first
    | apply goesOn.refl | assumption | apply keeps_ite | apply State.coreLook_on | apply State.lpiNow_on | apply State.readRc_on
    | apply nextOf_on | apply execTake_on | decide | split

theorem State.readReg_on {kp : List Part} {b0 : State} {s : State} {w : Win} {o : Nat} (hk : goesOn kp b0 s) (hq : ∀ p ∈ [.clock, .free, .cmd, .hostMem, .tdc, .time, .core, .pair, .fw, .mbs, .fence, .events, .stats, .host], p ∈ kp) :
    goesOn kp b0 (State.readReg s w o).2 := hk.trans ((State.readReg_keeps s w o).mono hq)

theorem State.readPart_keeps (w : Win) (first : Nat) (enables : List Bool) (a : State × List (Option Byte)) (o : Nat) :
    goesOn [.clock, .free, .cmd, .hostMem, .tdc, .time, .core, .pair, .fw, .mbs, .fence, .events, .stats, .host] a.1 (State.readPart w first enables a o).1 := by
  suffices h : Fst.keeps [.clock, .free, .cmd, .hostMem, .tdc, .time, .core, .pair, .fw, .mbs, .fence, .events, .stats, .host] a.1 (State.readPart w first enables a o) from h
  rw [State.readPart.eq_def]
  exact fst_ite (fst_mk (State.readReg_keeps a.1 w o)) (fst_mk (.refl _ _))

theorem State.readPart_on {kp : List Part} {b0 : State} {w : Win} {first : Nat} {enables : List Bool} {a : State × List (Option Byte)} {o : Nat} (hk : goesOn kp b0 a.1) (hq : ∀ p ∈ [.clock, .free, .cmd, .hostMem, .tdc, .time, .core, .pair, .fw, .mbs, .fence, .events, .stats, .host], p ∈ kp) :
    goesOn kp b0 (State.readPart w first enables a o).1 := hk.trans ((State.readPart_keeps w first enables a o).mono hq)

theorem execReadClearField_keeps (win : Win) (req : ReadReq) (s : State) :
    Out.keeps [.clock, .free, .cmd, .hostMem, .tdc, .time, .core, .pair, .fw, .mbs, .fence, .events, .stats, .host] s (execReadClearField win req s) := by
  unfold execReadClearField
  refine out_ite out_fault (out_next (kset_host ?_ (by decide)))
  exact keeps_foldl1 (.refl _ _) fun y a h => h.trans (State.readPart_keeps _ _ _ _ _)

theorem execReadClearField_on {kp : List Part} {b0 : State} {win : Win} {req : ReadReq} {s : State} (hk : goesOn kp b0 s) (hq : ∀ p ∈ [.clock, .free, .cmd, .hostMem, .tdc, .time, .core, .pair, .fw, .mbs, .fence, .events, .stats, .host], p ∈ kp) :
    Out.keeps kp b0 (execReadClearField win req s) := .after hk ((execReadClearField_keeps win req s).mono hq)

theorem State.mbWrite_keeps (s : State) (m : Nat) (o : Nat) (full : Nat) (v : Nat) :
    goesOn [.hostMem, .glob, .time, .stitch, .fw, .mbs, .fence, .events] s (State.mbWrite s m o full v) := by
  unfold State.mbWrite
  try dsimp only
  repeat' with_reducible first
    | apply goesOn.refl | apply keeps_ite | apply State.badAccess_on | apply State.updMb_on | apply nextOf_on
    | apply execAbortAll_on | apply execAbortPos_on | apply execMailboxEnableClear_on | apply execMailboxEnableSet_on
    | apply execMailboxReset_on | apply execRespRdCountWrite_on | apply execSubmitCountWrite_on | decide | split

theorem State.mbWrite_on {kp : List Part} {b0 : State} {s : State} {m : Nat} {o : Nat} {full : Nat} {v : Nat} (hk : goesOn kp b0 s) (hq : ∀ p ∈ [.hostMem, .glob, .time, .stitch, .fw, .mbs, .fence, .events], p ∈ kp) :
    goesOn kp b0 (State.mbWrite s m o full v) := hk.trans ((State.mbWrite_keeps s m o full v).mono hq)

theorem State.tsqWrite_keeps (s : State) (q : Nat) (o : Nat) (full : Nat) (v : Nat) :
    goesOn [.time, .fence, .events] s (State.tsqWrite s q o full v) := by
  unfold State.tsqWrite
  try dsimp only
  repeat' with_reducible first
    | apply goesOn.refl | assumption | apply keeps_ite | apply keeps_ite1 | apply keeps_ite2 | apply State.badAccess_on
    | apply State.tsqDisable_on | apply State.tsqPoke_on | apply State.updTsq_on | apply nextOf_on | apply execTsqRdCountWrite_on
    | (apply keeps_fst; case e => assumption) | (apply keeps_snd; case e => assumption) | decide | split

theorem State.tsqWrite_on {kp : List Part} {b0 : State} {s : State} {q : Nat} {o : Nat} {full : Nat} {v : Nat} (hk : goesOn kp b0 s) (hq : ∀ p ∈ [.time, .fence, .events], p ∈ kp) :
    goesOn kp b0 (State.tsqWrite s q o full v) := hk.trans ((State.tsqWrite_keeps s q o full v).mono hq)

theorem State.evWrite_keeps (s : State) (o : Nat) (v : Nat) :
    goesOn [.fence, .events] s (State.evWrite s o v) := by
  unfold State.evWrite
  try dsimp only
  repeat' first
    | with_reducible apply goesOn.refl | with_reducible assumption | with_reducible apply keeps_ite
    | with_reducible apply keeps_ite1 | with_reducible apply keeps_ite2
    | (with_reducible apply keeps_foldl; rotate_left 1; intro y a hy)
    | (with_reducible apply keeps_foldl1; rotate_left 1; intro y a hy) | with_reducible apply nextOf_on
    | with_reducible apply execLogRdCountWrite_on | with_reducible apply execMaskWrite_on
    | with_reducible apply execVecCtrlWrite_on | (with_reducible apply keeps_fst; case e => with_reducible assumption)
    | (with_reducible apply keeps_snd; case e => with_reducible assumption) | with_reducible decide | split
    | with_reducible apply kset_events

theorem State.evWrite_on {kp : List Part} {b0 : State} {s : State} {o : Nat} {v : Nat} (hk : goesOn kp b0 s) (hq : ∀ p ∈ [.fence, .events], p ∈ kp) :
    goesOn kp b0 (State.evWrite s o v) := hk.trans ((State.evWrite_keeps s o v).mono hq)

theorem State.dmaHeld_keeps (s : State) (n : Nat) (full : Nat) (f : Chan → Chan) :
    goesOn [.fence, .events, .host] s (State.dmaHeld s n full f) := by
  unfold State.dmaHeld
  try dsimp only
  repeat' with_reducible first
    | apply goesOn.refl | apply keeps_ite | apply State.badAccess_on | apply State.updChan_on | decide

theorem State.dmaHeld_on {kp : List Part} {b0 : State} {s : State} {n : Nat} {full : Nat} {f : Chan → Chan} (hk : goesOn kp b0 s) (hq : ∀ p ∈ [.fence, .events, .host], p ∈ kp) :
    goesOn kp b0 (State.dmaHeld s n full f) := hk.trans ((State.dmaHeld_keeps s n full f).mono hq)

theorem State.dmaWrite_keeps (s : State) (n : Nat) (o : Nat) (full : Nat) (v : Nat) :
    goesOn [.hostMem, .fence, .events, .host] s (State.dmaWrite s n o full v) := by
  unfold State.dmaWrite
  try dsimp only
  repeat' with_reducible first
    | apply goesOn.refl | apply keeps_ite | apply State.badAccess_on | apply State.dmaHeld_on | apply State.updChan_on
    | apply nextOf_on | apply execChainAbort_on | apply execChainStart_on | apply execCqRdCountWrite_on | apply execCtxReset_on
    | decide | split | apply kset_host

theorem State.dmaWrite_on {kp : List Part} {b0 : State} {s : State} {n : Nat} {o : Nat} {full : Nat} {v : Nat} (hk : goesOn kp b0 s) (hq : ∀ p ∈ [.hostMem, .fence, .events, .host], p ∈ kp) :
    goesOn kp b0 (State.dmaWrite s n o full v) := hk.trans ((State.dmaWrite_keeps s n o full v).mono hq)

theorem State.ringRegWrite_keeps (s : State) (r : Nat) (o : Nat) (v : Nat) :
    goesOn [.tdc, .fence, .events] s (State.ringRegWrite s r o v) := by
  unfold State.ringRegWrite
  try dsimp only
  repeat' with_reducible first
    | apply goesOn.refl | apply State.updRing_on | apply nextOf_on | apply execRingRdCountWrite_on | decide | split

theorem State.ringRegWrite_on {kp : List Part} {b0 : State} {s : State} {r : Nat} {o : Nat} {v : Nat} (hk : goesOn kp b0 s) (hq : ∀ p ∈ [.tdc, .fence, .events], p ∈ kp) :
    goesOn kp b0 (State.ringRegWrite s r o v) := hk.trans ((State.ringRegWrite_keeps s r o v).mono hq)

theorem State.gaugeWrite_keeps (s : State) (o : Nat) (v : Nat) :
    goesOn [.gauge] s (State.gaugeWrite s o v) := by
  unfold State.gaugeWrite
  try dsimp only
  repeat' with_reducible first
    | apply goesOn.refl | apply keeps_ite | apply State.stageLoad_on | apply State.updCG_on | apply kset_gauge | decide

theorem State.gaugeWrite_on {kp : List Part} {b0 : State} {s : State} {o : Nat} {v : Nat} (hk : goesOn kp b0 s) (hq : ∀ p ∈ [.gauge], p ∈ kp) :
    goesOn kp b0 (State.gaugeWrite s o v) := hk.trans ((State.gaugeWrite_keeps s o v).mono hq)

theorem State.bar0Write_keeps (s : State) (o : Nat) (v : Nat) :
    goesOn [.hostMem, .glob, .tdc, .gauge, .time, .stitch, .fw, .mbs, .fence, .events, .host] s (State.bar0Write s o v) := by
  unfold State.bar0Write
  try dsimp only
  repeat' with_reducible first
    | apply goesOn.refl | apply keeps_ite | apply State.dmaWrite_on | apply State.evWrite_on | apply State.gaugeWrite_on
    | apply State.mbWrite_on | apply State.ringRegWrite_on | apply State.swGateClose_on | apply State.swGateOpen_on
    | apply State.tsqWrite_on | apply kset_glob | decide

theorem State.bar0Write_on {kp : List Part} {b0 : State} {s : State} {o : Nat} {v : Nat} (hk : goesOn kp b0 s) (hq : ∀ p ∈ [.hostMem, .glob, .tdc, .gauge, .time, .stitch, .fw, .mbs, .fence, .events, .host], p ∈ kp) :
    goesOn kp b0 (State.bar0Write s o v) := hk.trans ((State.bar0Write_keeps s o v).mono hq)

theorem State.bar2Write_keeps (s : State) (o : Nat) (v : Nat) :
    goesOn [.clock, .free, .cmd, .hostMem, .core, .pair, .fw, .mbs, .fence, .events, .stats] s (State.bar2Write s o v) := by
  unfold State.bar2Write
  try dsimp only
  repeat' with_reducible first
    | apply goesOn.refl | apply keeps_ite | apply State.updCap_on | apply nextOf_on | apply execCapRdCountWrite_on
    | apply execSnapAtFence_on | apply execSnapNow_on | decide | split

theorem State.bar2Write_on {kp : List Part} {b0 : State} {s : State} {o : Nat} {v : Nat} (hk : goesOn kp b0 s) (hq : ∀ p ∈ [.clock, .free, .cmd, .hostMem, .core, .pair, .fw, .mbs, .fence, .events, .stats], p ∈ kp) :
    goesOn kp b0 (State.bar2Write s o v) := hk.trans ((State.bar2Write_keeps s o v).mono hq)

theorem State.writeReg_keeps (s : State) (w : Win) (o : Nat) (v : Nat) :
    goesOn [.clock, .free, .cmd, .hostMem, .glob, .tdc, .gauge, .time, .stitch, .core, .pair, .fw, .mbs, .fence, .events, .stats, .host] s (State.writeReg s w o v) := by
  unfold State.writeReg
  try dsimp only
  repeat' with_reducible first
    | apply goesOn.refl | assumption | apply keeps_ite | apply State.bar0Write_on | apply State.bar2Write_on | decide | split

theorem State.writeReg_on {kp : List Part} {b0 : State} {s : State} {w : Win} {o : Nat} {v : Nat} (hk : goesOn kp b0 s) (hq : ∀ p ∈ [.clock, .free, .cmd, .hostMem, .glob, .tdc, .gauge, .time, .stitch, .core, .pair, .fw, .mbs, .fence, .events, .stats, .host], p ∈ kp) :
    goesOn kp b0 (State.writeReg s w o v) := hk.trans ((State.writeReg_keeps s w o v).mono hq)

theorem State.writePart_keeps (s : State) (w : Win) (first : Nat) (data : List (Option Byte)) (o : Nat) :
    goesOn [.clock, .free, .cmd, .hostMem, .glob, .tdc, .gauge, .time, .stitch, .core, .pair, .fw, .mbs, .fence, .events, .stats, .host] s (State.writePart s w first data o) := by
  unfold State.writePart
  try dsimp only
  repeat' with_reducible first
    | apply goesOn.refl | assumption | apply keeps_ite | apply State.badAccess_on | apply State.writeReg_on | decide | split

theorem State.writePart_on {kp : List Part} {b0 : State} {s : State} {w : Win} {first : Nat} {data : List (Option Byte)} {o : Nat} (hk : goesOn kp b0 s) (hq : ∀ p ∈ [.clock, .free, .cmd, .hostMem, .glob, .tdc, .gauge, .time, .stitch, .core, .pair, .fw, .mbs, .fence, .events, .stats, .host], p ∈ kp) :
    goesOn kp b0 (State.writePart s w first data o) := hk.trans ((State.writePart_keeps s w first data o).mono hq)

theorem execRegisterWrite_keeps (win : Win) (offset : Nat) (data : List (Option Byte)) (s : State) :
    Out.keeps [.clock, .free, .cmd, .hostMem, .glob, .tdc, .gauge, .time, .stitch, .core, .pair, .fw, .mbs, .fence, .events, .stats, .host] s (execRegisterWrite win offset data s) := by
  unfold execRegisterWrite
  try dsimp only
  repeat' first
    | with_reducible apply goesOn.refl | with_reducible assumption
    | (with_reducible apply keeps_foldl; rotate_left 1; intro y a hy) | with_reducible apply State.writePart_on
    | with_reducible apply out_next | with_reducible apply out_fault | with_reducible apply out_ite | with_reducible decide

theorem execRegisterWrite_on {kp : List Part} {b0 : State} {win : Win} {offset : Nat} {data : List (Option Byte)} {s : State} (hk : goesOn kp b0 s) (hq : ∀ p ∈ [.clock, .free, .cmd, .hostMem, .glob, .tdc, .gauge, .time, .stitch, .core, .pair, .fw, .mbs, .fence, .events, .stats, .host], p ∈ kp) :
    Out.keeps kp b0 (execRegisterWrite win offset data s) := .after hk ((execRegisterWrite_keeps win offset data s).mono hq)

end Sys2Proof.Machine
end

