-- ==== Sys2Proof/Laws/Keeps/Moves.lean ====
section
/-!
SUPPORT. Which parts of the state each operation of Moves.lean touches.
-/
namespace Sys2Proof.Machine

theorem State.judgeGate_keeps (s : State) (n : Nat) :
    goesOn [.host] s (State.judgeGate s n) := by
  unfold State.judgeGate
  try dsimp only
  repeat' with_reducible first
    | apply goesOn.refl | apply keeps_ite | apply State.updChan_on | decide | split

theorem State.judgeGate_on {kp : List Part} {b0 : State} {s : State} {n : Nat} (hk : goesOn kp b0 s) (hq : ∀ p ∈ [.host], p ∈ kp) :
    goesOn kp b0 (State.judgeGate s n) := hk.trans ((State.judgeGate_keeps s n).mono hq)

theorem execChainMove_keeps (chan : Nat) (instr : List Byte) (s : State) :
    Out.keeps [.hostMem, .fence, .events, .host] s (execChainMove chan instr s) := by
  unfold execChainMove
  try dsimp only
  repeat' with_reducible first
    | apply goesOn.refl | apply State.haltChan_on | apply State.judgeGate_on | apply State.updChan_on | apply sum_inr
    | (apply keeps_inr; case e => assumption) | apply State.chainStep_on | apply State.claimStream_on | decide
    | intro (y : ChainInstr) | split

theorem execChainMove_on {kp : List Part} {b0 : State} {chan : Nat} {instr : List Byte} {s : State} (hk : goesOn kp b0 s) (hq : ∀ p ∈ [.hostMem, .fence, .events, .host], p ∈ kp) :
    Out.keeps kp b0 (execChainMove chan instr s) := .after hk ((execChainMove_keeps chan instr s).mono hq)

theorem State.streamAdvance_keeps (s : State) (k : Nat) (l : Nat) :
    goesOn [.tdc, .time, .core, .fence, .events, .host] s (State.streamAdvance s k l) := by
  unfold State.streamAdvance
  try dsimp only
  repeat' with_reducible first
    | apply goesOn.refl | apply keeps_ite | apply State.capAdvance_on | apply State.crxJudge_on | apply State.ringAdvance_on
    | apply State.tsqAdvance_on | apply kset_host | decide

theorem State.streamAdvance_on {kp : List Part} {b0 : State} {s : State} {k : Nat} {l : Nat} (hk : goesOn kp b0 s) (hq : ∀ p ∈ [.tdc, .time, .core, .fence, .events, .host], p ∈ kp) :
    goesOn kp b0 (State.streamAdvance s k l) := hk.trans ((State.streamAdvance_keeps s k l).mono hq)

theorem State.readRegs_keeps (kk : Nat) (s : State) (w : Win) (o : Nat) :
    goesOn [.clock, .free, .cmd, .hostMem, .tdc, .time, .core, .pair, .fw, .mbs, .fence, .events, .stats, .host] s (State.readRegs s w o kk).2 := by
  induction kk generalizing s w o with
  | zero => exact .refl _ _
  | succ kk ih =>
    have ihon : ∀ {b0 : State} (s : State) (w : Win) (o : Nat), goesOn [.clock, .free, .cmd, .hostMem, .tdc, .time, .core, .pair, .fw, .mbs, .fence, .events, .stats, .host] b0 s → goesOn [.clock, .free, .cmd, .hostMem, .tdc, .time, .core, .pair, .fw, .mbs, .fence, .events, .stats, .host] b0 (State.readRegs s w o kk).2 := fun s w o h => h.trans (ih _ _ _ )
    unfold State.readRegs
    try dsimp only
    repeat' with_reducible first
      | apply ihon | apply goesOn.refl | apply State.readReg_on | decide

theorem State.readRegs_on {kp : List Part} {b0 : State} {s : State} {w : Win} {o : Nat} {kk : Nat} (hk : goesOn kp b0 s) (hq : ∀ p ∈ [.clock, .free, .cmd, .hostMem, .tdc, .time, .core, .pair, .fw, .mbs, .fence, .events, .stats, .host], p ∈ kp) :
    goesOn kp b0 (State.readRegs s w o kk).2 := hk.trans ((State.readRegs_keeps kk s w o).mono hq)

theorem State.writeRegs_keeps (s : State) (w : Win) (o : Nat) (l : List Byte) :
    goesOn [.clock, .free, .cmd, .hostMem, .glob, .tdc, .gauge, .time, .stitch, .core, .pair, .fw, .mbs, .fence, .events, .stats, .host] s (s.writeRegs w o l) := by
  fun_induction State.writeRegs s w o l with
  | case1 s o a b c d l ih => exact (State.writeReg_keeps s w o _).trans ih
  | case2 s o l h => exact .refl _ _
theorem State.writeRegs_on {kp : List Part} {b0 s : State} {w : Win} {o : Nat} {l : List Byte} (hk : goesOn kp b0 s)
    (hq : ∀ p ∈ [.clock, .free, .cmd, .hostMem, .glob, .tdc, .gauge, .time, .stitch, .core, .pair, .fw, .mbs, .fence, .events, .stats, .host], p ∈ kp) : goesOn kp b0 (s.writeRegs w o l) := hk.trans ((State.writeRegs_keeps s w o l).mono hq)

theorem State.readBurst_keeps (s : State) (n : Nat) (i : ChainInstr) (l : Nat) (data : List Byte) :
    goesOn [.clock, .free, .cmd, .hostMem, .tdc, .time, .core, .pair, .fw, .mbs, .fence, .events, .stats, .host] s (State.readBurst s n i l data).2 := by
  unfold State.readBurst
  try dsimp only
  repeat' with_reducible first
    | apply goesOn.refl | apply State.readRegs_on | apply State.streamAdvance_on | decide | split

theorem State.readBurst_on {kp : List Part} {b0 : State} {s : State} {n : Nat} {i : ChainInstr} {l : Nat} {data : List Byte} (hk : goesOn kp b0 s) (hq : ∀ p ∈ [.clock, .free, .cmd, .hostMem, .tdc, .time, .core, .pair, .fw, .mbs, .fence, .events, .stats, .host], p ∈ kp) :
    goesOn kp b0 (State.readBurst s n i l data).2 := hk.trans ((State.readBurst_keeps s n i l data).mono hq)

theorem State.writeBurst_keeps (s : State) (i : ChainInstr) (a : Nat) (l : List Byte) :
    goesOn [.clock, .free, .cmd, .hostMem, .glob, .tdc, .gauge, .time, .stitch, .core, .pair, .fw, .mbs, .fence, .events, .stats, .host] s (State.writeBurst s i a l) := by
  unfold State.writeBurst
  split
  · exact kset_hostMem (.refl _ _) (by decide) (Memory.wf_write _ _ _)
  · exact State.ctxPut_on (.refl _ _) (by decide)
  · exact State.writeRegs_on (.refl _ _) (by decide)

theorem State.writeBurst_on {kp : List Part} {b0 : State} {s : State} {i : ChainInstr} {a : Nat} {l : List Byte} (hk : goesOn kp b0 s) (hq : ∀ p ∈ [.clock, .free, .cmd, .hostMem, .glob, .tdc, .gauge, .time, .stitch, .core, .pair, .fw, .mbs, .fence, .events, .stats, .host], p ∈ kp) :
    goesOn kp b0 (State.writeBurst s i a l) := hk.trans ((State.writeBurst_keeps s i a l).mono hq)

theorem State.writeBursts_keeps (kk : Nat) (s : State) (n : Nat) (i : ChainInstr) :
    goesOn [.clock, .free, .cmd, .hostMem, .glob, .tdc, .gauge, .time, .stitch, .core, .pair, .fw, .mbs, .fence, .events, .stats, .host] s (State.writeBursts s n i kk) := by
  induction kk generalizing s n i with
  | zero => exact .refl _ _
  | succ kk ih =>
    have ihon : ∀ {b0 : State} (s : State) (n : Nat) (i : ChainInstr), goesOn [.clock, .free, .cmd, .hostMem, .glob, .tdc, .gauge, .time, .stitch, .core, .pair, .fw, .mbs, .fence, .events, .stats, .host] b0 s → goesOn [.clock, .free, .cmd, .hostMem, .glob, .tdc, .gauge, .time, .stitch, .core, .pair, .fw, .mbs, .fence, .events, .stats, .host] b0 (State.writeBursts s n i kk) := fun s n i h => h.trans (ih _ _ _ )
    unfold State.writeBursts
    try dsimp only
    repeat' with_reducible first
      | apply ihon | apply goesOn.refl | apply keeps_ite | apply State.haltChan_on | apply State.updChan_on | apply State.writeBurst_on | decide
      | split

theorem State.writeBursts_on {kp : List Part} {b0 : State} {s : State} {n : Nat} {i : ChainInstr} {kk : Nat} (hk : goesOn kp b0 s) (hq : ∀ p ∈ [.clock, .free, .cmd, .hostMem, .glob, .tdc, .gauge, .time, .stitch, .core, .pair, .fw, .mbs, .fence, .events, .stats, .host], p ∈ kp) :
    goesOn kp b0 (State.writeBursts s n i kk) := hk.trans ((State.writeBursts_keeps kk s n i).mono hq)

theorem State.moveBoundary_keeps (s : State) (n : Nat) (i : ChainInstr) :
    goesOn [.host] s (State.moveBoundary s n i) := by
  unfold State.moveBoundary
  try dsimp only
  repeat' with_reducible first
    | apply goesOn.refl | apply keeps_ite | apply State.judgeGate_on | apply State.updChan_on | decide

theorem State.moveBoundary_on {kp : List Part} {b0 : State} {s : State} {n : Nat} {i : ChainInstr} (hk : goesOn kp b0 s) (hq : ∀ p ∈ [.host], p ∈ kp) :
    goesOn kp b0 (State.moveBoundary s n i) := hk.trans ((State.moveBoundary_keeps s n i).mono hq)

theorem State.moveWrites_keeps (s : State) (n : Nat) (i : ChainInstr) :
    goesOn [.clock, .free, .cmd, .hostMem, .glob, .tdc, .gauge, .time, .stitch, .core, .pair, .fw, .mbs, .fence, .events, .stats, .host] s (State.moveWrites s n i) := by
  unfold State.moveWrites
  try dsimp only
  repeat' with_reducible first
    | apply goesOn.refl | apply State.moveBoundary_on | apply State.writeBursts_on | decide

theorem State.moveWrites_on {kp : List Part} {b0 : State} {s : State} {n : Nat} {i : ChainInstr} (hk : goesOn kp b0 s) (hq : ∀ p ∈ [.clock, .free, .cmd, .hostMem, .glob, .tdc, .gauge, .time, .stitch, .core, .pair, .fw, .mbs, .fence, .events, .stats, .host], p ∈ kp) :
    goesOn kp b0 (State.moveWrites s n i) := hk.trans ((State.moveWrites_keeps s n i).mono hq)

theorem State.burstServed_keeps (s : State) (n : Nat) :
    goesOn [.host] s (State.burstServed s n) := by
  unfold State.burstServed
  try dsimp only
  repeat' with_reducible first
    | apply goesOn.refl | assumption | apply keeps_ite | apply kset_host | decide | split

theorem State.burstServed_on {kp : List Part} {b0 : State} {s : State} {n : Nat} (hk : goesOn kp b0 s) (hq : ∀ p ∈ [.host], p ∈ kp) :
    goesOn kp b0 (State.burstServed s n) := hk.trans ((State.burstServed_keeps s n).mono hq)

theorem State.burstTurn_keeps (s : State) (n : Nat) :
    goesOn [.free] s (State.burstTurn s n).2 := by
  unfold State.burstTurn
  try dsimp only
  repeat' with_reducible first
    | apply goesOn.refl | assumption | apply keeps_ite | apply State.takeFree_on | decide | split

theorem State.burstTurn_on {kp : List Part} {b0 : State} {s : State} {n : Nat} (hk : goesOn kp b0 s) (hq : ∀ p ∈ [.free], p ∈ kp) :
    goesOn kp b0 (State.burstTurn s n).2 := hk.trans ((State.burstTurn_keeps s n).mono hq)

theorem State.dataBurst_keeps (s : State) (chan : Nat) (data : List Byte) :
    Out.keeps [.clock, .free, .cmd, .hostMem, .glob, .tdc, .gauge, .time, .stitch, .core, .pair, .fw, .mbs, .fence, .events, .stats, .host] s (State.dataBurst s chan data) := by
  unfold State.dataBurst
  try dsimp only
  repeat' with_reducible first
    | apply goesOn.refl | assumption | apply keeps_ite | apply State.haltChan_on | apply State.judgeGate_on
    | apply State.moveWrites_on | apply State.readBurst_on | apply State.updChan_on | apply out_next | apply out_fault
    | apply out_ite | decide | split

theorem State.dataBurst_on {kp : List Part} {b0 : State} {s : State} {chan : Nat} {data : List Byte} (hk : goesOn kp b0 s) (hq : ∀ p ∈ [.clock, .free, .cmd, .hostMem, .glob, .tdc, .gauge, .time, .stitch, .core, .pair, .fw, .mbs, .fence, .events, .stats, .host], p ∈ kp) :
    Out.keeps kp b0 (State.dataBurst s chan data) := .after hk ((State.dataBurst_keeps s chan data).mono hq)

theorem execDmaBurst_keeps (chan : Nat) (data : List Byte) (s : State) :
    Out.keeps [.clock, .free, .cmd, .hostMem, .glob, .tdc, .gauge, .time, .stitch, .core, .pair, .fw, .mbs, .fence, .events, .stats, .host] s (execDmaBurst chan data s) := by
  unfold execDmaBurst
  try dsimp only
  repeat' with_reducible first
    | apply goesOn.refl | assumption | apply keeps_ite | apply keeps_ite1 | apply keeps_ite2 | apply State.burstServed_on
    | apply State.burstTurn_on | apply out_next | apply out_fault | apply out_ite | apply State.dataBurst_on
    | (apply keeps_fst; case e => assumption) | (apply keeps_snd; case e => assumption) | decide | split

theorem execDmaBurst_on {kp : List Part} {b0 : State} {chan : Nat} {data : List Byte} {s : State} (hk : goesOn kp b0 s) (hq : ∀ p ∈ [.clock, .free, .cmd, .hostMem, .glob, .tdc, .gauge, .time, .stitch, .core, .pair, .fw, .mbs, .fence, .events, .stats, .host], p ∈ kp) :
    Out.keeps kp b0 (execDmaBurst chan data s) := .after hk ((execDmaBurst_keeps chan data s).mono hq)

end Sys2Proof.Machine
end

