-- ==== Sys2Proof/Laws/Keeps/Bodies.lean ====
section
/-!
SUPPORT. Which parts of the state each operation of Bodies.lean touches.
-/
namespace Sys2Proof.Machine

theorem overlayBody_keeps (i : Instr) (s : State) :
    Rep.keeps [.free, .ports, .stitch, .parse, .fwd, .core, .contracts, .fw, .mbs, .fence, .events, .stats] s (overlayBody i s) := by
  unfold overlayBody
  split
  · exact bodyMclkConfigureChannel_on (.refl _ _) (by decide)
  · exact bodyMclkConfigureOutput_on (.refl _ _) (by decide)
  · exact bodyStitchConfigureGroup_on (.refl _ _) (by decide)
  · exact bodyStitchConfigureTrigger_on (.refl _ _) (by decide)
  · exact bodyStitchConfigureBroadcast_on (.refl _ _) (by decide)
  · exact bodyStitchConfigurePort_on (.refl _ _) (by decide)
  · exact bodyParseConfigurePort_on (.refl _ _) (by decide)
  · exact bodyParseConfigureExtract_on (.refl _ _) (by decide)
  · exact bodyAclStage_on (.refl _ _) (by decide)
  · exact bodyAclCommit_on (.refl _ _) (by decide)
  · exact bodyAclDelete_on (.refl _ _) (by decide)
  · exact bodySteerConfigureProfile_on (.refl _ _) (by decide)
  · exact bodySteerWrite_on (.refl _ _) (by decide)
  · exact bodySlowConfigure_on (.refl _ _) (by decide)
  · exact bodyClassSetMap_on (.refl _ _) (by decide)
  · exact bodyBufferConfigureClass_on (.refl _ _) (by decide)
  · exact bodyQueueConfigure_on (.refl _ _) (by decide)
  · exact bodyPortConfigureEgress_on (.refl _ _) (by decide)
  · exact bodySkeinConfigure_on (.refl _ _) (by decide)
  · exact bodyClassSetKind_on (.refl _ _) (by decide)
  · exact bodyContractSet_on (.refl _ _) (by decide)
  · exact bodyContractDelete_on (.refl _ _) (by decide)
  · exact bodyGuaranteedPoolSet_on (.refl _ _) (by decide)
  · exact bodyVlanConfigure_on (.refl _ _) (by decide)
  · exact bodyPortSetPvid_on (.refl _ _) (by decide)
  · exact bodyRouterMacSet_on (.refl _ _) (by decide)
  · exact bodyL2Add_on (.refl _ _) (by decide)
  · exact bodyL2Delete_on (.refl _ _) (by decide)
  · exact bodyNhWrite_on (.refl _ _) (by decide)
  · exact bodyNhDelete_on (.refl _ _) (by decide)
  · exact bodyHostAdd_on (.refl _ _) (by decide)
  · exact bodyHostDelete_on (.refl _ _) (by decide)
  · exact bodyLpmAdd_on (.refl _ _) (by decide)
  · exact bodyLpmDelete_on (.refl _ _) (by decide)
  · exact bodyMemberStage_on (.refl _ _) (by decide)
  · exact bodyEcmpCommit_on (.refl _ _) (by decide)
  · exact bodyEcmpDelete_on (.refl _ _) (by decide)
  · exact bodyMcastCommit_on (.refl _ _) (by decide)
  · exact bodyTableClearLost_on (.refl _ _) (by decide)
  · exact rep_fail

theorem overlayBody_on {kp : List Part} {b0 : State} {i : Instr} {s : State} (hk : goesOn kp b0 s) (hq : ∀ p ∈ [.free, .ports, .stitch, .parse, .fwd, .core, .contracts, .fw, .mbs, .fence, .events, .stats], p ∈ kp) :
    Rep.keeps kp b0 (overlayBody i s) := .after hk ((overlayBody_keeps i s).mono hq)

end Sys2Proof.Machine
end

