-- ==== Sys2Proof/Laws/Keeps/Images.lean ====
section
/-!
SUPPORT. Which parts of the state each operation of Images.lean touches.
-/
namespace Sys2Proof.Machine

theorem State.force_keeps (s : State) (i : Instr) :
    Opt.keeps [.core, .contracts, .fw, .fence, .events] s (State.force s i) := by
  unfold State.force
  try dsimp only
  repeat' with_reducible first
    | apply goesOn.refl | apply State.takePool_on | apply opt_some | apply opt_none | apply opt_ite | decide | split
    | apply kset_core_contracts

theorem State.force_on {kp : List Part} {b0 : State} {s : State} {i : Instr} (hk : goesOn kp b0 s) (hq : ∀ p ∈ [.core, .contracts, .fw, .fence, .events], p ∈ kp) :
    Opt.keeps kp b0 (State.force s i) := .after hk ((State.force_keeps s i).mono hq)

theorem State.trialCmd_keeps (s : State) (old : ContractTbl) (n : Nat) (c : RawCmd) :
    Sm.keeps [.free, .ports, .stitch, .parse, .fwd, .core, .contracts, .fw, .mbs, .fence, .events, .stats] s (State.trialCmd s old n c) := by
  unfold State.trialCmd
  try dsimp only
  repeat' with_reducible first
    | apply goesOn.refl | apply overlayBody_on | apply sum_inr | apply sum_inl | apply sum_ite
    | (apply keeps_repOk; case e => assumption) | (apply keeps_repLater; case e => assumption) | decide | split

theorem State.trialCmd_on {kp : List Part} {b0 : State} {s : State} {old : ContractTbl} {n : Nat} {c : RawCmd} (hk : goesOn kp b0 s) (hq : ∀ p ∈ [.free, .ports, .stitch, .parse, .fwd, .core, .contracts, .fw, .mbs, .fence, .events, .stats], p ∈ kp) :
    Sm.keeps kp b0 (State.trialCmd s old n c) := .after hk ((State.trialCmd_keeps s old n c).mono hq)

theorem State.updOverlay_keeps (s : State) (n : Nat) (f : Overlay → Overlay) :
    goesOn [.fw] s (State.updOverlay s n f) := by
  unfold State.updOverlay
  try dsimp only
  repeat' with_reducible first
    | apply goesOn.refl | apply kset_fw | decide

theorem State.updOverlay_on {kp : List Part} {b0 : State} {s : State} {n : Nat} {f : Overlay → Overlay} (hk : goesOn kp b0 s) (hq : ∀ p ∈ [.fw], p ∈ kp) :
    goesOn kp b0 (State.updOverlay s n f) := hk.trans ((State.updOverlay_keeps s n f).mono hq)

theorem State.clearStage_keeps (s : State) (n : Nat) :
    goesOn [.fw] s (State.clearStage s n) := by
  unfold State.clearStage
  try dsimp only
  repeat' with_reducible first
    | apply goesOn.refl | apply State.updOverlay_on | decide

theorem State.clearStage_on {kp : List Part} {b0 : State} {s : State} {n : Nat} (hk : goesOn kp b0 s) (hq : ∀ p ∈ [.fw], p ∈ kp) :
    goesOn kp b0 (State.clearStage s n) := hk.trans ((State.clearStage_keeps s n).mono hq)

theorem State.applyOverlayCmd_keeps (s : State) (n : Nat) (c : RawCmd) :
    goesOn [.free, .ports, .stitch, .parse, .fwd, .core, .contracts, .fw, .mbs, .fence, .events, .stats] s (State.applyOverlayCmd s n c) := by
  unfold State.applyOverlayCmd
  try dsimp only
  repeat' with_reducible first
    | apply goesOn.refl | apply keeps_getD | apply State.force_on | apply overlayBody_on
    | (apply keeps_repOk; case e => assumption) | (apply keeps_repLater; case e => assumption)
    | (apply keeps_repDone; case e => assumption) | decide | split

theorem State.applyOverlayCmd_on {kp : List Part} {b0 : State} {s : State} {n : Nat} {c : RawCmd} (hk : goesOn kp b0 s) (hq : ∀ p ∈ [.free, .ports, .stitch, .parse, .fwd, .core, .contracts, .fw, .mbs, .fence, .events, .stats], p ∈ kp) :
    goesOn kp b0 (State.applyOverlayCmd s n c) := hk.trans ((State.applyOverlayCmd_keeps s n c).mono hq)

theorem State.overlaySwitch_keeps (s : State) (n : Nat) (e : Nat) :
    goesOn [.free, .ports, .stitch, .parse, .fwd, .core, .contracts, .pair, .fw, .mbs, .fence, .events, .stats] s (State.overlaySwitch s n e) := by
  unfold State.overlaySwitch
  try dsimp only
  repeat' first
    | with_reducible apply goesOn.refl | with_reducible assumption
    | (with_reducible apply keeps_foldl; rotate_left 1; intro y a hy) | with_reducible apply State.applyOverlayCmd_on
    | with_reducible apply State.clearStage_on | with_reducible apply State.dependentChange_on
    | with_reducible apply State.raise_on | with_reducible apply State.updOverlay_on | with_reducible apply kset_pair_fw_mbs
    | with_reducible decide

theorem State.overlaySwitch_on {kp : List Part} {b0 : State} {s : State} {n : Nat} {e : Nat} (hk : goesOn kp b0 s) (hq : ∀ p ∈ [.free, .ports, .stitch, .parse, .fwd, .core, .contracts, .pair, .fw, .mbs, .fence, .events, .stats], p ∈ kp) :
    goesOn kp b0 (State.overlaySwitch s n e) := hk.trans ((State.overlaySwitch_keeps s n e).mono hq)

theorem State.timeSwitch_keeps (s : State) (n : Nat) :
    goesOn [.clock, .free, .cmd, .hostMem, .ports, .stitch, .parse, .fwd, .core, .contracts, .pair, .fw, .mbs, .fence, .events, .stats] s (State.timeSwitch s n) := by
  unfold State.timeSwitch
  try dsimp only
  repeat' with_reducible first
    | apply goesOn.refl | apply State.fencesTo_on | apply State.overlaySwitch_on | apply State.placeFence_on | apply kset_fence
    | decide

theorem State.timeSwitch_on {kp : List Part} {b0 : State} {s : State} {n : Nat} (hk : goesOn kp b0 s) (hq : ∀ p ∈ [.clock, .free, .cmd, .hostMem, .ports, .stitch, .parse, .fwd, .core, .contracts, .pair, .fw, .mbs, .fence, .events, .stats], p ∈ kp) :
    goesOn kp b0 (State.timeSwitch s n) := hk.trans ((State.timeSwitch_keeps s n).mono hq)

theorem State.fenceSwitch_keeps (s : State) (a : ActiveFence) :
    goesOn [.free, .cmd, .hostMem, .ports, .stitch, .parse, .fwd, .core, .contracts, .pair, .fw, .mbs, .fence, .events, .stats] s (State.fenceSwitch s a) := by
  unfold State.fenceSwitch
  try dsimp only
  repeat' with_reducible first
    | apply goesOn.refl | apply keeps_ite | apply State.finish_on | apply State.overlaySwitch_on | decide | split
    | apply kset_fence

theorem State.fenceSwitch_on {kp : List Part} {b0 : State} {s : State} {a : ActiveFence} (hk : goesOn kp b0 s) (hq : ∀ p ∈ [.free, .cmd, .hostMem, .ports, .stitch, .parse, .fwd, .core, .contracts, .pair, .fw, .mbs, .fence, .events, .stats], p ∈ kp) :
    goesOn kp b0 (State.fenceSwitch s a) := hk.trans ((State.fenceSwitch_keeps s a).mono hq)

theorem execOverlaySwitch_keeps (s : State) :
    Out.keeps [.clock, .free, .cmd, .hostMem, .ports, .stitch, .parse, .fwd, .core, .contracts, .pair, .fw, .mbs, .fence, .events, .stats] s (execOverlaySwitch s) := by
  unfold execOverlaySwitch
  try dsimp only
  repeat' with_reducible first
    | apply goesOn.refl | apply State.advanceTick_on | apply State.fenceSwitch_on | apply State.timeSwitch_on | apply out_next
    | apply out_ite | decide | split

theorem execOverlaySwitch_on {kp : List Part} {b0 : State} {s : State} (hk : goesOn kp b0 s) (hq : ∀ p ∈ [.clock, .free, .cmd, .hostMem, .ports, .stitch, .parse, .fwd, .core, .contracts, .pair, .fw, .mbs, .fence, .events, .stats], p ∈ kp) :
    Out.keeps kp b0 (execOverlaySwitch s) := .after hk ((execOverlaySwitch_keeps s).mono hq)

theorem State.imageRefused_keeps (s : State) (check : Nat) (st : Nat) :
    Rep.keeps [.fence, .events] s (State.imageRefused s check st) := by
  unfold State.imageRefused
  try dsimp only
  repeat' with_reducible first
    | apply goesOn.refl | apply State.raise_on | apply rep_done | decide

theorem State.imageRefused_on {kp : List Part} {b0 : State} {s : State} {check : Nat} {st : Nat} (hk : goesOn kp b0 s) (hq : ∀ p ∈ [.fence, .events], p ∈ kp) :
    Rep.keeps kp b0 (State.imageRefused s check st) := .after hk ((State.imageRefused_keeps s check st).mono hq)

theorem bodyImgLoad_keeps (target : Nat) (addr : Nat) (length : Nat) (data : Option (List Byte)) (s : State) :
    Rep.keeps [.fw, .fence, .events] s (bodyImgLoad target addr length data s) := by
  unfold bodyImgLoad
  try dsimp only
  repeat' with_reducible first
    | apply goesOn.refl | apply State.raise_on | apply State.updOverlay_on | apply kset_fw | apply State.imageRefused_on
    | apply rep_ok | apply rep_fail | apply rep_bad | apply rep_ranges | apply rep_ite | decide | split

theorem bodyImgLoad_on {kp : List Part} {b0 : State} {target : Nat} {addr : Nat} {length : Nat} {data : Option (List Byte)} {s : State} (hk : goesOn kp b0 s) (hq : ∀ p ∈ [.fw, .fence, .events], p ∈ kp) :
    Rep.keeps kp b0 (bodyImgLoad target addr length data s) := .after hk ((bodyImgLoad_keeps target addr length data s).mono hq)

theorem execImgLoad_keeps (src : CmdSrc) (target : Nat) (addr : Nat) (length : Nat) (data : Option (List Byte)) (s : State) :
    Out.keeps [.cmd, .hostMem, .glob, .pair, .fw, .mbs, .fence, .events] s (execImgLoad src target addr length data s) := by
  unfold execImgLoad
  try dsimp only
  repeat' first
    | with_reducible apply goesOn.refl | with_reducible apply out_next | with_reducible apply out_fault
    | with_reducible apply out_ite | (with_reducible apply keeps_runCmd; rotate_left 1; intro y)
    | with_reducible apply bodyImgLoad_on | with_reducible decide | split

theorem execImgLoad_on {kp : List Part} {b0 : State} {src : CmdSrc} {target : Nat} {addr : Nat} {length : Nat} {data : Option (List Byte)} {s : State} (hk : goesOn kp b0 s) (hq : ∀ p ∈ [.cmd, .hostMem, .glob, .pair, .fw, .mbs, .fence, .events], p ∈ kp) :
    Out.keeps kp b0 (execImgLoad src target addr length data s) := .after hk ((execImgLoad_keeps src target addr length data s).mono hq)

theorem bodyImgValidate_keeps (src : CmdSrc) (slot : Nat) (s : State) :
    Rep.keeps [.fw] s (bodyImgValidate src slot s) := by
  unfold bodyImgValidate
  try dsimp only
  repeat' with_reducible first
    | apply goesOn.refl | apply State.updOverlay_on | apply rep_ok | apply rep_fail | apply rep_bad | apply rep_ranges
    | apply rep_ite | decide | split

theorem bodyImgValidate_on {kp : List Part} {b0 : State} {src : CmdSrc} {slot : Nat} {s : State} (hk : goesOn kp b0 s) (hq : ∀ p ∈ [.fw], p ∈ kp) :
    Rep.keeps kp b0 (bodyImgValidate src slot s) := .after hk ((bodyImgValidate_keeps src slot s).mono hq)

theorem State.armFence_keeps (s : State) (src : CmdSrc) (slot : Nat) :
    Rep.keeps [.hostMem, .fw, .mbs, .fence, .events] s (State.armFence s src slot) := by
  unfold State.armFence
  try dsimp only
  repeat' with_reducible first
    | apply goesOn.refl | apply State.updOverlay_on | (apply keeps_some; case e => assumption) | apply State.armSlot_on
    | apply rep_bad | apply rep_later | apply rep_ite | decide | split | apply kset_fence

theorem State.armFence_on {kp : List Part} {b0 : State} {s : State} {src : CmdSrc} {slot : Nat} (hk : goesOn kp b0 s) (hq : ∀ p ∈ [.hostMem, .fw, .mbs, .fence, .events], p ∈ kp) :
    Rep.keeps kp b0 (State.armFence s src slot) := .after hk ((State.armFence_keeps s src slot).mono hq)

theorem bodyImgArm_keeps (src : CmdSrc) (slot : Nat) (mode : Nat) (t : KTime) (s : State) :
    Rep.keeps [.hostMem, .fw, .mbs, .fence, .events] s (bodyImgArm src slot mode t s) := by
  unfold bodyImgArm
  try dsimp only
  repeat' with_reducible first
    | apply goesOn.refl | apply State.updOverlay_on | apply State.armFence_on | apply rep_ok | apply rep_fail | apply rep_bad
    | apply rep_ranges | apply rep_ite | decide

theorem bodyImgArm_on {kp : List Part} {b0 : State} {src : CmdSrc} {slot : Nat} {mode : Nat} {t : KTime} {s : State} (hk : goesOn kp b0 s) (hq : ∀ p ∈ [.hostMem, .fw, .mbs, .fence, .events], p ∈ kp) :
    Rep.keeps kp b0 (bodyImgArm src slot mode t s) := .after hk ((bodyImgArm_keeps src slot mode t s).mono hq)

theorem bodyImgDisarm_keeps (slot : Nat) (s : State) :
    Rep.keeps [.clock, .free, .cmd, .hostMem, .ports, .stitch, .parse, .fwd, .core, .contracts, .pair, .fw, .mbs, .fence, .events, .stats] s (bodyImgDisarm slot s) := by
  unfold bodyImgDisarm
  try dsimp only
  repeat' with_reducible first
    | apply goesOn.refl | apply State.timeSwitch_on | apply State.updOverlay_on | apply rep_ok | apply rep_bad | apply rep_done
    | apply rep_ranges | apply rep_ite | decide

theorem bodyImgDisarm_on {kp : List Part} {b0 : State} {slot : Nat} {s : State} (hk : goesOn kp b0 s) (hq : ∀ p ∈ [.clock, .free, .cmd, .hostMem, .ports, .stitch, .parse, .fwd, .core, .contracts, .pair, .fw, .mbs, .fence, .events, .stats], p ∈ kp) :
    Rep.keeps kp b0 (bodyImgDisarm slot s) := .after hk ((bodyImgDisarm_keeps slot s).mono hq)

theorem bodyImgGetStatus_keeps (slot : Nat) (s : State) :
    Rep.keeps [] s (bodyImgGetStatus slot s) := by
  unfold bodyImgGetStatus
  try dsimp only
  repeat' with_reducible first
    | apply goesOn.refl | apply rep_ok | apply rep_ranges | apply rep_ite

theorem bodyImgGetStatus_on {kp : List Part} {b0 : State} {slot : Nat} {s : State} (hk : goesOn kp b0 s) (hq : ∀ p ∈ [], p ∈ kp) :
    Rep.keeps kp b0 (bodyImgGetStatus slot s) := .after hk ((bodyImgGetStatus_keeps slot s).mono hq)

theorem bodyImgErase_keeps (slot : Nat) (s : State) :
    Rep.keeps [.fw] s (bodyImgErase slot s) := by
  unfold bodyImgErase
  try dsimp only
  repeat' with_reducible first
    | apply goesOn.refl | apply State.updOverlay_on | apply rep_ok | apply rep_bad | apply rep_ranges | apply rep_ite | decide

theorem bodyImgErase_on {kp : List Part} {b0 : State} {slot : Nat} {s : State} (hk : goesOn kp b0 s) (hq : ∀ p ∈ [.fw], p ∈ kp) :
    Rep.keeps kp b0 (bodyImgErase slot s) := .after hk ((bodyImgErase_keeps slot s).mono hq)

theorem execImgValidate_keeps (src : CmdSrc) (slot : Nat) (s : State) :
    Out.keeps [.cmd, .hostMem, .glob, .pair, .fw, .mbs, .fence, .events] s (execImgValidate src slot s) := by
  unfold execImgValidate
  try dsimp only
  repeat' first
    | with_reducible apply goesOn.refl | with_reducible apply out_next
    | (with_reducible apply keeps_runCmd; rotate_left 1; intro y) | with_reducible apply bodyImgValidate_on
    | with_reducible decide

theorem execImgValidate_on {kp : List Part} {b0 : State} {src : CmdSrc} {slot : Nat} {s : State} (hk : goesOn kp b0 s) (hq : ∀ p ∈ [.cmd, .hostMem, .glob, .pair, .fw, .mbs, .fence, .events], p ∈ kp) :
    Out.keeps kp b0 (execImgValidate src slot s) := .after hk ((execImgValidate_keeps src slot s).mono hq)

theorem execImgArm_keeps (src : CmdSrc) (slot : Nat) (mode : Nat) (t : KTime) (s : State) :
    Out.keeps [.cmd, .hostMem, .glob, .pair, .fw, .mbs, .fence, .events] s (execImgArm src slot mode t s) := by
  unfold execImgArm
  try dsimp only
  repeat' first
    | with_reducible apply goesOn.refl | with_reducible apply out_next
    | (with_reducible apply keeps_runCmd; rotate_left 1; intro y) | with_reducible apply bodyImgArm_on | with_reducible decide

theorem execImgArm_on {kp : List Part} {b0 : State} {src : CmdSrc} {slot : Nat} {mode : Nat} {t : KTime} {s : State} (hk : goesOn kp b0 s) (hq : ∀ p ∈ [.cmd, .hostMem, .glob, .pair, .fw, .mbs, .fence, .events], p ∈ kp) :
    Out.keeps kp b0 (execImgArm src slot mode t s) := .after hk ((execImgArm_keeps src slot mode t s).mono hq)

theorem execImgDisarm_keeps (src : CmdSrc) (slot : Nat) (s : State) :
    Out.keeps [.clock, .free, .cmd, .hostMem, .glob, .ports, .stitch, .parse, .fwd, .core, .contracts, .pair, .fw, .mbs, .fence, .events, .stats] s (execImgDisarm src slot s) := by
  unfold execImgDisarm
  try dsimp only
  repeat' first
    | with_reducible apply goesOn.refl | with_reducible apply out_next
    | (with_reducible apply keeps_runCmd; rotate_left 1; intro y) | with_reducible apply bodyImgDisarm_on | with_reducible decide

theorem execImgDisarm_on {kp : List Part} {b0 : State} {src : CmdSrc} {slot : Nat} {s : State} (hk : goesOn kp b0 s) (hq : ∀ p ∈ [.clock, .free, .cmd, .hostMem, .glob, .ports, .stitch, .parse, .fwd, .core, .contracts, .pair, .fw, .mbs, .fence, .events, .stats], p ∈ kp) :
    Out.keeps kp b0 (execImgDisarm src slot s) := .after hk ((execImgDisarm_keeps src slot s).mono hq)

theorem execImgGetStatus_keeps (src : CmdSrc) (slot : Nat) (s : State) :
    Out.keeps [.cmd, .hostMem, .glob, .pair, .fw, .mbs, .fence, .events] s (execImgGetStatus src slot s) := by
  unfold execImgGetStatus
  try dsimp only
  repeat' first
    | with_reducible apply goesOn.refl | with_reducible apply out_next
    | (with_reducible apply keeps_runCmd; rotate_left 1; intro y) | with_reducible apply bodyImgGetStatus_on
    | with_reducible decide

theorem execImgGetStatus_on {kp : List Part} {b0 : State} {src : CmdSrc} {slot : Nat} {s : State} (hk : goesOn kp b0 s) (hq : ∀ p ∈ [.cmd, .hostMem, .glob, .pair, .fw, .mbs, .fence, .events], p ∈ kp) :
    Out.keeps kp b0 (execImgGetStatus src slot s) := .after hk ((execImgGetStatus_keeps src slot s).mono hq)

theorem execImgErase_keeps (src : CmdSrc) (slot : Nat) (s : State) :
    Out.keeps [.cmd, .hostMem, .glob, .pair, .fw, .mbs, .fence, .events] s (execImgErase src slot s) := by
  unfold execImgErase
  try dsimp only
  repeat' first
    | with_reducible apply goesOn.refl | with_reducible apply out_next
    | (with_reducible apply keeps_runCmd; rotate_left 1; intro y) | with_reducible apply bodyImgErase_on | with_reducible decide

theorem execImgErase_on {kp : List Part} {b0 : State} {src : CmdSrc} {slot : Nat} {s : State} (hk : goesOn kp b0 s) (hq : ∀ p ∈ [.cmd, .hostMem, .glob, .pair, .fw, .mbs, .fence, .events], p ∈ kp) :
    Out.keeps kp b0 (execImgErase src slot s) := .after hk ((execImgErase_keeps src slot s).mono hq)

end Sys2Proof.Machine
end

