-- ==== Sys2Proof/Laws/Keeps/Commands.lean ====
section
/-!
SUPPORT. Which parts of the state each operation of Commands.lean touches.
-/
namespace Sys2Proof.Machine

theorem commandBody_keeps (i : Instr) (s : State) :
    Rep.keeps [.clock, .free, .cmd, .hostMem, .fuses, .glob, .chan, .lanes, .ports, .modules, .selv, .tdc, .gauge, .ref, .time, .ptp, .stitch, .parse, .fwd, .core, .contracts, .pair, .fw, .mbs, .fence, .events, .stats, .power] s (commandBody i s) := by
  unfold commandBody
  split
  · exact bodyNop_on (.refl _ _) (by decide)
  · exact bodyFence_on (.refl _ _) (by decide)
  · exact bodySysPowerDomain_on (.refl _ _) (by decide)
  · exact bodySysGetStatus_on (.refl _ _) (by decide)
  · exact bodySysSetBoard_on (.refl _ _) (by decide)
  · exact bodySysReset_on (.refl _ _) (by decide)
  · exact bodySysGetPower_on (.refl _ _) (by decide)
  · exact bodySysGetThermal_on (.refl _ _) (by decide)
  · exact bodySysConfigureThermal_on (.refl _ _) (by decide)
  · exact bodySysSetSensor_on (.refl _ _) (by decide)
  · exact bodyImgLoad_on (.refl _ _) (by decide)
  · exact bodyImgValidate_on (.refl _ _) (by decide)
  · exact bodyImgArm_on (.refl _ _) (by decide)
  · exact bodyImgDisarm_on (.refl _ _) (by decide)
  · exact bodyImgGetStatus_on (.refl _ _) (by decide)
  · exact bodyImgErase_on (.refl _ _) (by decide)
  · exact bodyPortConfigure_on (.refl _ _) (by decide)
  · exact bodyPortCastOn_on (.refl _ _) (by decide)
  · exact bodyPortBindOff_on (.refl _ _) (by decide)
  · exact bodyPortSetPolicy_on (.refl _ _) (by decide)
  · exact bodyLaneGetStatus_on (.refl _ _) (by decide)
  · exact bodyLaneGetLatency_on (.refl _ _) (by decide)
  · exact bodyLaneSetChannelTable_on (.refl _ _) (by decide)
  · exact bodyLaneRelatch_on (.refl _ _) (by decide)
  · exact bodyLaneSwatch_on (.refl _ _) (by decide)
  · exact bodyLaneSweep_on (.refl _ _) (by decide)
  · exact bodyLaneSweepRead_on (.refl _ _) (by decide)
  · exact bodySelvedgeConfigure_on (.refl _ _) (by decide)
  · exact bodySelvedgeGetRange_on (.refl _ _) (by decide)
  · exact bodyModuleRead_on (.refl _ _) (by decide)
  · exact bodyModuleWrite_on (.refl _ _) (by decide)
  · exact bodyTdcConfigureEvt_on (.refl _ _) (by decide)
  · exact bodyTdcConfigureGroup_on (.refl _ _) (by decide)
  · exact bodyTdcSetInterval_on (.refl _ _) (by decide)
  · exact bodyTdcGetChannel_on (.refl _ _) (by decide)
  · exact bodyTdcGetLane_on (.refl _ _) (by decide)
  · exact bodyTdcSetLaneWindow_on (.refl _ _) (by decide)
  · exact bodyTdcCaptureTap_on (.refl _ _) (by decide)
  · exact bodyGaugeConfigure_on (.refl _ _) (by decide)
  · exact bodyGaugeRun_on (.refl _ _) (by decide)
  · exact bodyGaugeFull_on (.refl _ _) (by decide)
  · exact bodyGaugeGetStatus_on (.refl _ _) (by decide)
  · exact bodyGaugeRestore_on (.refl _ _) (by decide)
  · exact bodyGaugeHold_on (.refl _ _) (by decide)
  · exact bodyRefConfigureSlot_on (.refl _ _) (by decide)
  · exact bodyRefConfigureSelection_on (.refl _ _) (by decide)
  · exact bodyRefConfigureDpll_on (.refl _ _) (by decide)
  · exact bodyRefCommand_on (.refl _ _) (by decide)
  · exact bodyRefGetSlot_on (.refl _ _) (by decide)
  · exact bodyRefGetDpll_on (.refl _ _) (by decide)
  · exact bodyRefSteer_on (.refl _ _) (by decide)
  · exact bodyRefConfigurePpsOut_on (.refl _ _) (by decide)
  · exact bodyRefConfigureClkout_on (.refl _ _) (by decide)
  · exact bodyRefGetClkout_on (.refl _ _) (by decide)
  · exact bodyTimeSet_on (.refl _ _) (by decide)
  · exact bodyTimeStep_on (.refl _ _) (by decide)
  · exact bodyTimeSetRate_on (.refl _ _) (by decide)
  · exact bodyTimeSetControl_on (.refl _ _) (by decide)
  · exact bodyTimeGet_on (.refl _ _) (by decide)
  · exact bodyTimeSetUtc_on (.refl _ _) (by decide)
  · exact bodySecSetStepGuard_on (.refl _ _) (by decide)
  · exact bodySecAuthoriseStep_on (.refl _ _) (by decide)
  · exact bodyPtpConfigureInstance_on (.refl _ _) (by decide)
  · exact bodyPtpConfigurePort_on (.refl _ _) (by decide)
  · exact bodyPtpGetInstance_on (.refl _ _) (by decide)
  · exact bodyPtpGetPort_on (.refl _ _) (by decide)
  · exact bodyPtpConfigureTc_on (.refl _ _) (by decide)
  · exact bodyServoConfigure_on (.refl _ _) (by decide)
  · exact bodyServoGet_on (.refl _ _) (by decide)
  · exact bodyAsymConfigure_on (.refl _ _) (by decide)
  · exact bodyAsymGet_on (.refl _ _) (by decide)
  · exact bodyMclkGet_on (.refl _ _) (by decide)
  · exact bodyMclkSetOrbit_on (.refl _ _) (by decide)
  · exact bodyStitchSend_on (.refl _ _) (by decide)
  · exact bodyStitchSendTimed_on (.refl _ _) (by decide)
  · exact bodyStitchCancelTimed_on (.refl _ _) (by decide)
  · exact bodyStitchGetPort_on (.refl _ _) (by decide)
  · exact bodyStitchGetSequencer_on (.refl _ _) (by decide)
  · exact bodyAclRead_on (.refl _ _) (by decide)
  · exact bodySteerRead_on (.refl _ _) (by decide)
  · exact bodyParseGetCounts_on (.refl _ _) (by decide)
  · exact bodySkeinGetStatus_on (.refl _ _) (by decide)
  · exact bodyCoreGetQueue_on (.refl _ _) (by decide)
  · exact bodyBufferGetStatus_on (.refl _ _) (by decide)
  · exact bodyCaptureConfigure_on (.refl _ _) (by decide)
  · exact bodyContractCheck_on (.refl _ _) (by decide)
  · exact bodyContractGet_on (.refl _ _) (by decide)
  · exact bodyTableLookup_on (.refl _ _) (by decide)
  · exact bodyTableReadIndex_on (.refl _ _) (by decide)
  · exact bodyTableGetUsage_on (.refl _ _) (by decide)
  · exact bodyPairConfigure_on (.refl _ _) (by decide)
  · exact bodyPairConfigurePort_on (.refl _ _) (by decide)
  · exact bodyPairGetStatus_on (.refl _ _) (by decide)
  · exact bodyPairSwitchover_on (.refl _ _) (by decide)
  · exact bodyPairResync_on (.refl _ _) (by decide)
  · exact bodyPairTest_on (.refl _ _) (by decide)
  · exact bodyPairGetDigest_on (.refl _ _) (by decide)
  · exact bodyPairGetDup_on (.refl _ _) (by decide)
  · exact bodySecChallenge_on (.refl _ _) (by decide)
  · exact bodySecResponse_on (.refl _ _) (by decide)
  · exact bodySecClose_on (.refl _ _) (by decide)
  · exact bodySecDebugLock_on (.refl _ _) (by decide)
  · exact bodySecRevokeKey_on (.refl _ _) (by decide)
  · exact bodySecSetMinVersion_on (.refl _ _) (by decide)
  · exact bodySecGetStatus_on (.refl _ _) (by decide)
  · exact bodyCounterClear_on (.refl _ _) (by decide)
  · exact bodyEventInject_on (.refl _ _) (by decide)
  · exact overlayBody_on (.refl _ _) (by decide)

theorem commandBody_on {kp : List Part} {b0 : State} {i : Instr} {s : State} (hk : goesOn kp b0 s) (hq : ∀ p ∈ [.clock, .free, .cmd, .hostMem, .fuses, .glob, .chan, .lanes, .ports, .modules, .selv, .tdc, .gauge, .ref, .time, .ptp, .stitch, .parse, .fwd, .core, .contracts, .pair, .fw, .mbs, .fence, .events, .stats, .power], p ∈ kp) :
    Rep.keeps kp b0 (commandBody i s) := .after hk ((commandBody_keeps i s).mono hq)

end Sys2Proof.Machine
end

