-- ==== Sys2Proof/Laws/Keeps/Apply.lean ====
section
/-!
SUPPORT. Which parts of the state each operation of Apply.lean touches.
-/
namespace Sys2Proof.Machine

theorem State.unrealised_keeps (s : State) (i : Instr) (op : Nat) :
    goesOn [.core, .contracts, .pair, .fw, .fence, .events] s (State.unrealised s i op) := by
  unfold State.unrealised
  try dsimp only
  repeat' with_reducible first
    | apply goesOn.refl | apply State.pairCount_on | apply State.raise_on | (apply keeps_some; case e => assumption)
    | apply State.force_on | decide | split | apply kset_pair

theorem State.unrealised_on {kp : List Part} {b0 : State} {s : State} {i : Instr} {op : Nat} (hk : goesOn kp b0 s) (hq : ∀ p ∈ [.core, .contracts, .pair, .fw, .fence, .events], p ∈ kp) :
    goesOn kp b0 (State.unrealised s i op) := hk.trans ((State.unrealised_keeps s i op).mono hq)

theorem State.applyInstr_keeps (s : State) (i : Instr) (op : Nat) :
    goesOn [.clock, .free, .cmd, .hostMem, .fuses, .glob, .chan, .lanes, .ports, .modules, .selv, .tdc, .gauge, .ref, .time, .ptp, .stitch, .parse, .fwd, .core, .contracts, .pair, .fw, .mbs, .fence, .events, .stats, .power] s (State.applyInstr s i op) := by
  unfold State.applyInstr
  try dsimp only
  repeat' with_reducible first
    | apply goesOn.refl | apply keeps_ite | apply State.dependentChange_on | apply State.unrealised_on | apply commandBody_on
    | (apply keeps_repOk; case e => assumption) | (apply keeps_repLater; case e => assumption)
    | (apply keeps_repDone; case e => assumption) | decide | split

theorem State.applyInstr_on {kp : List Part} {b0 : State} {s : State} {i : Instr} {op : Nat} (hk : goesOn kp b0 s) (hq : ∀ p ∈ [.clock, .free, .cmd, .hostMem, .fuses, .glob, .chan, .lanes, .ports, .modules, .selv, .tdc, .gauge, .ref, .time, .ptp, .stitch, .parse, .fwd, .core, .contracts, .pair, .fw, .mbs, .fence, .events, .stats, .power], p ∈ kp) :
    goesOn kp b0 (State.applyInstr s i op) := hk.trans ((State.applyInstr_keeps s i op).mono hq)

theorem State.applyEntry_keeps (s : State) (c : RawCmd) :
    goesOn [.clock, .free, .cmd, .hostMem, .fuses, .glob, .chan, .lanes, .ports, .modules, .selv, .tdc, .gauge, .ref, .time, .ptp, .stitch, .parse, .fwd, .core, .contracts, .pair, .fw, .mbs, .fence, .events, .stats, .power] s (State.applyEntry s c) := by
  unfold State.applyEntry
  try dsimp only
  repeat' with_reducible first
    | apply goesOn.refl | apply State.applyInstr_on | decide | split

theorem State.applyEntry_on {kp : List Part} {b0 : State} {s : State} {c : RawCmd} (hk : goesOn kp b0 s) (hq : ∀ p ∈ [.clock, .free, .cmd, .hostMem, .fuses, .glob, .chan, .lanes, .ports, .modules, .selv, .tdc, .gauge, .ref, .time, .ptp, .stitch, .parse, .fwd, .core, .contracts, .pair, .fw, .mbs, .fence, .events, .stats, .power], p ∈ kp) :
    goesOn kp b0 (State.applyEntry s c) := hk.trans ((State.applyEntry_keeps s c).mono hq)

theorem State.retryHeld_keeps (s : State) :
    goesOn [.clock, .free, .cmd, .hostMem, .fuses, .glob, .chan, .lanes, .ports, .modules, .selv, .tdc, .gauge, .ref, .time, .ptp, .stitch, .parse, .fwd, .core, .contracts, .pair, .fw, .mbs, .fence, .events, .stats, .power] s (State.retryHeld s) := by
  unfold State.retryHeld
  try dsimp only
  repeat' first
    | with_reducible apply goesOn.refl | with_reducible assumption
    | (with_reducible apply keeps_foldl; rotate_left 1; intro y a hy) | with_reducible apply commandBody_on
    | (with_reducible apply keeps_repOk; case e => with_reducible assumption)
    | (with_reducible apply keeps_repLater; case e => with_reducible assumption) | with_reducible decide | split
    | with_reducible apply kset_pair

theorem State.retryHeld_on {kp : List Part} {b0 : State} {s : State} (hk : goesOn kp b0 s) (hq : ∀ p ∈ [.clock, .free, .cmd, .hostMem, .fuses, .glob, .chan, .lanes, .ports, .modules, .selv, .tdc, .gauge, .ref, .time, .ptp, .stitch, .parse, .fwd, .core, .contracts, .pair, .fw, .mbs, .fence, .events, .stats, .power], p ∈ kp) :
    goesOn kp b0 (State.retryHeld s) := hk.trans ((State.retryHeld_keeps s).mono hq)

theorem State.applyCommitted_keeps (s : State) :
    goesOn [.clock, .free, .cmd, .hostMem, .fuses, .glob, .chan, .lanes, .ports, .modules, .selv, .tdc, .gauge, .ref, .time, .ptp, .stitch, .parse, .fwd, .core, .contracts, .pair, .fw, .mbs, .fence, .events, .stats, .power] s (State.applyCommitted s) := by
  unfold State.applyCommitted
  try dsimp only
  repeat' first
    | with_reducible apply goesOn.refl | with_reducible assumption
    | (with_reducible apply keeps_foldl; rotate_left 1; intro y a hy) | with_reducible apply State.applyEntry_on
    | with_reducible apply State.retryHeld_on | with_reducible apply kset_pair | with_reducible decide

theorem State.applyCommitted_on {kp : List Part} {b0 : State} {s : State} (hk : goesOn kp b0 s) (hq : ∀ p ∈ [.clock, .free, .cmd, .hostMem, .fuses, .glob, .chan, .lanes, .ports, .modules, .selv, .tdc, .gauge, .ref, .time, .ptp, .stitch, .parse, .fwd, .core, .contracts, .pair, .fw, .mbs, .fence, .events, .stats, .power], p ∈ kp) :
    goesOn kp b0 (State.applyCommitted s) := hk.trans ((State.applyCommitted_keeps s).mono hq)

theorem State.completeAlone_keeps (s : State) (i : Instr) (src : CmdSrc) (op : Nat) :
    goesOn [.clock, .free, .cmd, .hostMem, .fuses, .glob, .chan, .lanes, .ports, .modules, .selv, .tdc, .gauge, .ref, .time, .ptp, .stitch, .parse, .fwd, .core, .contracts, .pair, .fw, .mbs, .fence, .events, .stats, .power] s (State.completeAlone s i src op) := by
  unfold State.completeAlone
  try dsimp only
  repeat' with_reducible first
    | apply goesOn.refl | apply keeps_ite | apply State.dependentChange_on | apply State.finish_on | apply keeps_settleNow
    | apply commandBody_on | (apply keeps_repOk; case e => assumption) | decide | split

theorem State.completeAlone_on {kp : List Part} {b0 : State} {s : State} {i : Instr} {src : CmdSrc} {op : Nat} (hk : goesOn kp b0 s) (hq : ∀ p ∈ [.clock, .free, .cmd, .hostMem, .fuses, .glob, .chan, .lanes, .ports, .modules, .selv, .tdc, .gauge, .ref, .time, .ptp, .stitch, .parse, .fwd, .core, .contracts, .pair, .fw, .mbs, .fence, .events, .stats, .power], p ∈ kp) :
    goesOn kp b0 (State.completeAlone s i src op) := hk.trans ((State.completeAlone_keeps s i src op).mono hq)

theorem State.completeWait_keeps (s : State) (i : Instr) (alone : Bool) :
    goesOn [.clock, .free, .cmd, .hostMem, .fuses, .glob, .chan, .lanes, .ports, .modules, .selv, .tdc, .gauge, .ref, .time, .ptp, .stitch, .parse, .fwd, .core, .contracts, .pair, .fw, .mbs, .fence, .events, .stats, .power] s (State.completeWait s i alone) := by
  unfold State.completeWait
  try dsimp only
  repeat' with_reducible first
    | apply goesOn.refl | apply keeps_ite | apply State.completeAlone_on | apply keeps_settleNow | apply commandBody_on | decide
    | split

theorem State.completeWait_on {kp : List Part} {b0 : State} {s : State} {i : Instr} {alone : Bool} (hk : goesOn kp b0 s) (hq : ∀ p ∈ [.clock, .free, .cmd, .hostMem, .fuses, .glob, .chan, .lanes, .ports, .modules, .selv, .tdc, .gauge, .ref, .time, .ptp, .stitch, .parse, .fwd, .core, .contracts, .pair, .fw, .mbs, .fence, .events, .stats, .power], p ∈ kp) :
    goesOn kp b0 (State.completeWait s i alone) := hk.trans ((State.completeWait_keeps s i alone).mono hq)

theorem State.completeWaits_keeps (s : State) (l : List JournalWait) (alone : Bool) :
    goesOn [.clock, .free, .cmd, .hostMem, .fuses, .glob, .chan, .lanes, .ports, .modules, .selv, .tdc, .gauge, .ref, .time, .ptp, .stitch, .parse, .fwd, .core, .contracts, .pair, .fw, .mbs, .fence, .events, .stats, .power] s (State.completeWaits s l alone) := by
  unfold State.completeWaits
  try dsimp only
  repeat' first
    | with_reducible apply goesOn.refl | with_reducible assumption
    | (with_reducible apply keeps_foldl; rotate_left 1; intro y a hy) | with_reducible apply State.completeWait_on
    | with_reducible apply kset_pair | with_reducible decide

theorem State.completeWaits_on {kp : List Part} {b0 : State} {s : State} {l : List JournalWait} {alone : Bool} (hk : goesOn kp b0 s) (hq : ∀ p ∈ [.clock, .free, .cmd, .hostMem, .fuses, .glob, .chan, .lanes, .ports, .modules, .selv, .tdc, .gauge, .ref, .time, .ptp, .stitch, .parse, .fwd, .core, .contracts, .pair, .fw, .mbs, .fence, .events, .stats, .power], p ∈ kp) :
    goesOn kp b0 (State.completeWaits s l alone) := hk.trans ((State.completeWaits_keeps s l alone).mono hq)

theorem State.dropJournals_keeps (s : State) :
    goesOn [.pair] s (State.dropJournals s) := by
  unfold State.dropJournals
  try dsimp only
  repeat' with_reducible first
    | apply goesOn.refl | apply kset_pair | decide

theorem State.dropJournals_on {kp : List Part} {b0 : State} {s : State} (hk : goesOn kp b0 s) (hq : ∀ p ∈ [.pair], p ∈ kp) :
    goesOn kp b0 (State.dropJournals s) := hk.trans ((State.dropJournals_keeps s).mono hq)

theorem State.refuseWaits_keeps (s : State) :
    goesOn [.cmd, .hostMem, .pair, .fw, .mbs, .fence, .events] s (State.refuseWaits s) := by
  unfold State.refuseWaits
  try dsimp only
  repeat' first
    | with_reducible apply goesOn.refl | with_reducible assumption
    | (with_reducible apply keeps_foldl; rotate_left 1; intro y a hy) | with_reducible apply State.dropJournals_on
    | with_reducible apply State.finish_on | with_reducible decide | split | with_reducible apply kset_pair

theorem State.refuseWaits_on {kp : List Part} {b0 : State} {s : State} (hk : goesOn kp b0 s) (hq : ∀ p ∈ [.cmd, .hostMem, .pair, .fw, .mbs, .fence, .events], p ∈ kp) :
    goesOn kp b0 (State.refuseWaits s) := hk.trans ((State.refuseWaits_keeps s).mono hq)

theorem State.promote_keeps (s : State) :
    goesOn [.clock, .free, .cmd, .hostMem, .fuses, .glob, .chan, .lanes, .ports, .modules, .selv, .tdc, .gauge, .ref, .time, .ptp, .stitch, .parse, .fwd, .core, .contracts, .pair, .fw, .mbs, .fence, .events, .stats, .power] s (State.promote s) := by
  unfold State.promote
  try dsimp only
  repeat' with_reducible first
    | apply goesOn.refl | apply keeps_ite | apply State.applyCommitted_on | apply State.becomeActive_on | apply State.raise_on
    | apply kset_pair_fence | decide

theorem State.promote_on {kp : List Part} {b0 : State} {s : State} (hk : goesOn kp b0 s) (hq : ∀ p ∈ [.clock, .free, .cmd, .hostMem, .fuses, .glob, .chan, .lanes, .ports, .modules, .selv, .tdc, .gauge, .ref, .time, .ptp, .stitch, .parse, .fwd, .core, .contracts, .pair, .fw, .mbs, .fence, .events, .stats, .power], p ∈ kp) :
    goesOn kp b0 (State.promote s) := hk.trans ((State.promote_keeps s).mono hq)

theorem State.pairSettle_keeps (s : State) (old : State) :
    goesOn [.clock, .free, .cmd, .hostMem, .fuses, .glob, .chan, .lanes, .ports, .modules, .selv, .tdc, .gauge, .ref, .time, .ptp, .stitch, .parse, .fwd, .core, .contracts, .pair, .fw, .mbs, .fence, .events, .stats, .power] s (State.pairSettle s old) := by
  unfold State.pairSettle
  try dsimp only
  repeat' with_reducible first
    | apply goesOn.refl | apply keeps_ite | apply State.completeWaits_on | apply State.dropJournals_on | apply State.promote_on
    | apply State.raise_on | apply State.refuseWaits_on | apply State.setRole_on | decide

theorem State.pairSettle_on {kp : List Part} {b0 : State} {s : State} {old : State} (hk : goesOn kp b0 s) (hq : ∀ p ∈ [.clock, .free, .cmd, .hostMem, .fuses, .glob, .chan, .lanes, .ports, .modules, .selv, .tdc, .gauge, .ref, .time, .ptp, .stitch, .parse, .fwd, .core, .contracts, .pair, .fw, .mbs, .fence, .events, .stats, .power], p ∈ kp) :
    goesOn kp b0 (State.pairSettle s old) := hk.trans ((State.pairSettle_keeps s old).mono hq)

theorem State.linkFollow_keeps (old : State) (s : State) (p : Nat) :
    goesOn [.time, .pair, .fence, .events] s (State.linkFollow old s p) := by
  unfold State.linkFollow
  try dsimp only
  repeat' with_reducible first
    | apply goesOn.refl | apply keeps_ite | apply State.enterSyncing_on | apply State.raise_on | apply State.sendCtl_on | decide
    | split | apply kset_pair

theorem State.linkFollow_on {kp : List Part} {b0 : State} {old : State} {s : State} {p : Nat} (hk : goesOn kp b0 s) (hq : ∀ p ∈ [.time, .pair, .fence, .events], p ∈ kp) :
    goesOn kp b0 (State.linkFollow old s p) := hk.trans ((State.linkFollow_keeps old s p).mono hq)

theorem State.laneFollow_keeps (old : State) (s : State) :
    goesOn [.clock, .free, .cmd, .hostMem, .fuses, .glob, .chan, .lanes, .ports, .modules, .selv, .tdc, .gauge, .ref, .time, .ptp, .stitch, .parse, .fwd, .core, .contracts, .pair, .fw, .mbs, .fence, .events, .stats, .power] s (State.laneFollow old s) := by
  unfold State.laneFollow
  try dsimp only
  repeat' first
    | with_reducible apply goesOn.refl | with_reducible assumption | with_reducible apply keeps_ite
    | (with_reducible apply keeps_foldl; rotate_left 1; intro y a hy) | with_reducible apply State.disqualify_on
    | with_reducible apply State.linkFollow_on | with_reducible apply State.pairSettle_on
    | with_reducible apply State.ptpFollow_on | with_reducible apply State.updParse_on | with_reducible decide

theorem State.laneFollow_on {kp : List Part} {b0 : State} {old : State} {s : State} (hk : goesOn kp b0 s) (hq : ∀ p ∈ [.clock, .free, .cmd, .hostMem, .fuses, .glob, .chan, .lanes, .ports, .modules, .selv, .tdc, .gauge, .ref, .time, .ptp, .stitch, .parse, .fwd, .core, .contracts, .pair, .fw, .mbs, .fence, .events, .stats, .power], p ∈ kp) :
    goesOn kp b0 (State.laneFollow old s) := hk.trans ((State.laneFollow_keeps old s).mono hq)

theorem execPortBindOff_keeps (src : CmdSrc) (port : Nat) (drain : Nat) (s : State) :
    Out.keeps [.clock, .free, .cmd, .hostMem, .fuses, .glob, .chan, .lanes, .ports, .modules, .selv, .tdc, .gauge, .ref, .time, .ptp, .stitch, .parse, .fwd, .core, .contracts, .pair, .fw, .mbs, .fence, .events, .stats, .power] s (execPortBindOff src port drain s) := by
  unfold execPortBindOff
  try dsimp only
  repeat' first
    | with_reducible apply goesOn.refl | with_reducible apply State.laneFollow_on | with_reducible apply out_next
    | (with_reducible apply keeps_runCmd; rotate_left 1; intro y) | with_reducible apply bodyPortBindOff_on
    | with_reducible decide

theorem execPortBindOff_on {kp : List Part} {b0 : State} {src : CmdSrc} {port : Nat} {drain : Nat} {s : State} (hk : goesOn kp b0 s) (hq : ∀ p ∈ [.clock, .free, .cmd, .hostMem, .fuses, .glob, .chan, .lanes, .ports, .modules, .selv, .tdc, .gauge, .ref, .time, .ptp, .stitch, .parse, .fwd, .core, .contracts, .pair, .fw, .mbs, .fence, .events, .stats, .power], p ∈ kp) :
    Out.keeps kp b0 (execPortBindOff src port drain s) := .after hk ((execPortBindOff_keeps src port drain s).mono hq)

theorem State.runInstr_keeps (s : State) (i : Instr) :
    goesOn [.clock, .free, .cmd, .hostMem, .fuses, .glob, .chan, .lanes, .ports, .modules, .selv, .tdc, .gauge, .ref, .time, .ptp, .stitch, .parse, .fwd, .core, .contracts, .pair, .fw, .mbs, .fence, .events, .stats, .power] s (State.runInstr s i) := by
  unfold State.runInstr
  try dsimp only
  repeat' first
    | with_reducible apply goesOn.refl | with_reducible apply keeps_ite | with_reducible apply State.laneFollow_on
    | (with_reducible apply keeps_runCmd; rotate_left 1; intro y) | with_reducible apply commandBody_on | with_reducible decide
    | split

theorem State.runInstr_on {kp : List Part} {b0 : State} {s : State} {i : Instr} (hk : goesOn kp b0 s) (hq : ∀ p ∈ [.clock, .free, .cmd, .hostMem, .fuses, .glob, .chan, .lanes, .ports, .modules, .selv, .tdc, .gauge, .ref, .time, .ptp, .stitch, .parse, .fwd, .core, .contracts, .pair, .fw, .mbs, .fence, .events, .stats, .power], p ∈ kp) :
    goesOn kp b0 (State.runInstr s i) := hk.trans ((State.runInstr_keeps s i).mono hq)

theorem execPairConfigure_keeps (src : CmdSrc) (enable : Bool) (cycle : Nat) (lead : Nat) (commitTimeout : Nat) (joinTimeout : Nat) (watchdog : Nat) (skewGuard : Nat) (window : Nat) (chunkAge : Nat) (closeTimeout : Nat) (outcomeTimeout : Nat) (etherType : Nat) (plAsym : Int) (s : State) :
    Out.keeps [.clock, .free, .cmd, .hostMem, .fuses, .glob, .chan, .lanes, .ports, .modules, .selv, .tdc, .gauge, .ref, .time, .ptp, .stitch, .parse, .fwd, .core, .contracts, .pair, .fw, .mbs, .fence, .events, .stats, .power] s (execPairConfigure src enable cycle lead commitTimeout joinTimeout watchdog skewGuard window chunkAge closeTimeout outcomeTimeout etherType plAsym s) := by
  unfold execPairConfigure
  try dsimp only
  repeat' first
    | with_reducible apply goesOn.refl | with_reducible apply State.pairSettle_on | with_reducible apply out_next
    | (with_reducible apply keeps_runCmd; rotate_left 1; intro y) | with_reducible apply bodyPairConfigure_on
    | with_reducible decide

theorem execPairConfigure_on {kp : List Part} {b0 : State} {src : CmdSrc} {enable : Bool} {cycle : Nat} {lead : Nat} {commitTimeout : Nat} {joinTimeout : Nat} {watchdog : Nat} {skewGuard : Nat} {window : Nat} {chunkAge : Nat} {closeTimeout : Nat} {outcomeTimeout : Nat} {etherType : Nat} {plAsym : Int} {s : State} (hk : goesOn kp b0 s) (hq : ∀ p ∈ [.clock, .free, .cmd, .hostMem, .fuses, .glob, .chan, .lanes, .ports, .modules, .selv, .tdc, .gauge, .ref, .time, .ptp, .stitch, .parse, .fwd, .core, .contracts, .pair, .fw, .mbs, .fence, .events, .stats, .power], p ∈ kp) :
    Out.keeps kp b0 (execPairConfigure src enable cycle lead commitTimeout joinTimeout watchdog skewGuard window chunkAge closeTimeout outcomeTimeout etherType plAsym s) := .after hk ((execPairConfigure_keeps src enable cycle lead commitTimeout joinTimeout watchdog skewGuard window chunkAge closeTimeout outcomeTimeout etherType plAsym s).mono hq)

theorem State.loneHeartbeat_keeps (s : State) :
    goesOn [.fence, .events] s (State.loneHeartbeat s) := by
  unfold State.loneHeartbeat
  try dsimp only
  repeat' with_reducible first
    | apply goesOn.refl | apply keeps_ite | apply State.raise_on | decide

theorem State.loneHeartbeat_on {kp : List Part} {b0 : State} {s : State} (hk : goesOn kp b0 s) (hq : ∀ p ∈ [.fence, .events], p ∈ kp) :
    goesOn kp b0 (State.loneHeartbeat s) := hk.trans ((State.loneHeartbeat_keeps s).mono hq)

theorem execHeartbeatLost_keeps (s : State) :
    Out.keeps [.clock, .free, .cmd, .hostMem, .fuses, .glob, .chan, .lanes, .ports, .modules, .selv, .tdc, .gauge, .ref, .time, .ptp, .stitch, .parse, .fwd, .core, .contracts, .pair, .fw, .mbs, .fence, .events, .stats, .power] s (execHeartbeatLost s) := by
  unfold execHeartbeatLost
  try dsimp only
  repeat' with_reducible first
    | apply goesOn.refl | apply State.advance_on | apply State.loneHeartbeat_on | apply State.pairSettle_on | apply State.raise_on
    | apply kset_pair | apply out_next | apply out_ite | decide | split

theorem execHeartbeatLost_on {kp : List Part} {b0 : State} {s : State} (hk : goesOn kp b0 s) (hq : ∀ p ∈ [.clock, .free, .cmd, .hostMem, .fuses, .glob, .chan, .lanes, .ports, .modules, .selv, .tdc, .gauge, .ref, .time, .ptp, .stitch, .parse, .fwd, .core, .contracts, .pair, .fw, .mbs, .fence, .events, .stats, .power], p ∈ kp) :
    Out.keeps kp b0 (execHeartbeatLost s) := .after hk ((execHeartbeatLost_keeps s).mono hq)

theorem execPlSilent_keeps (s : State) :
    Out.keeps [.clock, .free, .cmd, .hostMem, .fuses, .glob, .chan, .lanes, .ports, .modules, .selv, .tdc, .gauge, .ref, .time, .ptp, .stitch, .parse, .fwd, .core, .contracts, .pair, .fw, .mbs, .fence, .events, .stats, .power] s (execPlSilent s) := by
  unfold execPlSilent
  try dsimp only
  repeat' with_reducible first
    | apply goesOn.refl | apply State.advance_on | apply State.pairSettle_on | apply State.raise_on | apply kset_pair
    | apply out_next | apply out_ite | decide

theorem execPlSilent_on {kp : List Part} {b0 : State} {s : State} (hk : goesOn kp b0 s) (hq : ∀ p ∈ [.clock, .free, .cmd, .hostMem, .fuses, .glob, .chan, .lanes, .ports, .modules, .selv, .tdc, .gauge, .ref, .time, .ptp, .stitch, .parse, .fwd, .core, .contracts, .pair, .fw, .mbs, .fence, .events, .stats, .power], p ∈ kp) :
    Out.keeps kp b0 (execPlSilent s) := .after hk ((execPlSilent_keeps s).mono hq)

theorem execHealthLost_keeps (s : State) :
    Out.keeps [.clock, .free, .cmd, .hostMem, .fuses, .glob, .chan, .lanes, .ports, .modules, .selv, .tdc, .gauge, .ref, .time, .ptp, .stitch, .parse, .fwd, .core, .contracts, .pair, .fw, .mbs, .fence, .events, .stats, .power] s (execHealthLost s) := by
  unfold execHealthLost
  refine out_ite (out_next (.refl _ _)) (out_next (State.pairSettle_on (State.raise_on (State.slotLevel_on (kset_pair
    (State.advance_on (.refl _ _) ?_) ?_) ?_) ?_) ?_))
  all_goals decide

theorem execHealthLost_on {kp : List Part} {b0 : State} {s : State} (hk : goesOn kp b0 s) (hq : ∀ p ∈ [.clock, .free, .cmd, .hostMem, .fuses, .glob, .chan, .lanes, .ports, .modules, .selv, .tdc, .gauge, .ref, .time, .ptp, .stitch, .parse, .fwd, .core, .contracts, .pair, .fw, .mbs, .fence, .events, .stats, .power], p ∈ kp) :
    Out.keeps kp b0 (execHealthLost s) := .after hk ((execHealthLost_keeps s).mono hq)

theorem execPairWatchdogExpiry_keeps (s : State) :
    Out.keeps [.clock, .free, .cmd, .hostMem, .fuses, .glob, .chan, .lanes, .ports, .modules, .selv, .tdc, .gauge, .ref, .time, .ptp, .stitch, .parse, .fwd, .core, .contracts, .pair, .fw, .mbs, .fence, .events, .stats, .power] s (execPairWatchdogExpiry s) := by
  unfold execPairWatchdogExpiry
  try dsimp only
  repeat' with_reducible first
    | apply goesOn.refl | apply keeps_ite | apply State.enterJoining_on | apply State.pairSettle_on | apply kset_pair
    | apply out_next | apply out_ite | decide

theorem execPairWatchdogExpiry_on {kp : List Part} {b0 : State} {s : State} (hk : goesOn kp b0 s) (hq : ∀ p ∈ [.clock, .free, .cmd, .hostMem, .fuses, .glob, .chan, .lanes, .ports, .modules, .selv, .tdc, .gauge, .ref, .time, .ptp, .stitch, .parse, .fwd, .core, .contracts, .pair, .fw, .mbs, .fence, .events, .stats, .power], p ∈ kp) :
    Out.keeps kp b0 (execPairWatchdogExpiry s) := .after hk ((execPairWatchdogExpiry_keeps s).mono hq)

theorem State.meetActive_keeps (s : State) :
    goesOn [.time, .pair, .fence, .events] s (State.meetActive s) := by
  unfold State.meetActive
  try dsimp only
  repeat' with_reducible first
    | apply goesOn.refl | apply keeps_ite | apply State.enterSyncing_on | apply State.raise_on | apply kset_pair | decide

theorem State.meetActive_on {kp : List Part} {b0 : State} {s : State} (hk : goesOn kp b0 s) (hq : ∀ p ∈ [.time, .pair, .fence, .events], p ∈ kp) :
    goesOn kp b0 (State.meetActive s) := hk.trans ((State.meetActive_keeps s).mono hq)

theorem execHealthReportRx_keeps (bytes : List Byte) (s : State) :
    Out.keeps [.clock, .free, .cmd, .hostMem, .fuses, .glob, .chan, .lanes, .ports, .modules, .selv, .tdc, .gauge, .ref, .time, .ptp, .stitch, .parse, .fwd, .core, .contracts, .pair, .fw, .mbs, .fence, .events, .stats, .power] s (execHealthReportRx bytes s) := by
  unfold execHealthReportRx
  try dsimp only
  repeat' with_reducible first
    | apply goesOn.refl | apply keeps_ite | apply State.ctlRx_on | apply State.diverge_on | apply State.meetActive_on
    | apply State.pairSettle_on | apply State.slotLevel_on | apply kset_pair | apply out_next | apply out_fault | apply out_ite
    | decide

theorem execHealthReportRx_on {kp : List Part} {b0 : State} {bytes : List Byte} {s : State} (hk : goesOn kp b0 s) (hq : ∀ p ∈ [.clock, .free, .cmd, .hostMem, .fuses, .glob, .chan, .lanes, .ports, .modules, .selv, .tdc, .gauge, .ref, .time, .ptp, .stitch, .parse, .fwd, .core, .contracts, .pair, .fw, .mbs, .fence, .events, .stats, .power], p ∈ kp) :
    Out.keeps kp b0 (execHealthReportRx bytes s) := .after hk ((execHealthReportRx_keeps bytes s).mono hq)

theorem State.exchange_keeps (s : State) :
    goesOn [.time, .pair, .fence, .events] s (State.exchange s) := by
  unfold State.exchange
  try dsimp only
  repeat' with_reducible first
    | apply goesOn.refl | apply keeps_ite | apply State.becomeActive_on | apply State.dropJournals_on | apply State.setRole_on
    | apply kset_pair | decide

theorem State.exchange_on {kp : List Part} {b0 : State} {s : State} (hk : goesOn kp b0 s) (hq : ∀ p ∈ [.time, .pair, .fence, .events], p ∈ kp) :
    goesOn kp b0 (State.exchange s) := hk.trans ((State.exchange_keeps s).mono hq)

theorem State.applyActive_keeps (s : State) (n : Nat) :
    goesOn [.clock, .free, .cmd, .hostMem, .fuses, .glob, .chan, .lanes, .ports, .modules, .selv, .tdc, .gauge, .ref, .time, .ptp, .stitch, .parse, .fwd, .core, .contracts, .pair, .fw, .mbs, .fence, .events, .stats, .power] s (State.applyActive s n) := by
  unfold State.applyActive
  try dsimp only
  repeat' first
    | with_reducible apply goesOn.refl | with_reducible assumption | with_reducible apply keeps_ite
    | (with_reducible apply keeps_foldl; rotate_left 1; intro y a hy) | with_reducible apply State.completeWait_on
    | with_reducible apply kset_pair | with_reducible decide

theorem State.applyActive_on {kp : List Part} {b0 : State} {s : State} {n : Nat} (hk : goesOn kp b0 s) (hq : ∀ p ∈ [.clock, .free, .cmd, .hostMem, .fuses, .glob, .chan, .lanes, .ports, .modules, .selv, .tdc, .gauge, .ref, .time, .ptp, .stitch, .parse, .fwd, .core, .contracts, .pair, .fw, .mbs, .fence, .events, .stats, .power], p ∈ kp) :
    goesOn kp b0 (State.applyActive s n) := hk.trans ((State.applyActive_keeps s n).mono hq)

theorem State.formed_keeps (s : State) :
    goesOn [.time, .pair, .fence, .events] s (State.formed s) := by
  unfold State.formed
  try dsimp only
  repeat' with_reducible first
    | apply goesOn.refl | apply keeps_ite | apply State.raise_on | apply State.setRole_on | decide

theorem State.formed_on {kp : List Part} {b0 : State} {s : State} (hk : goesOn kp b0 s) (hq : ∀ p ∈ [.time, .pair, .fence, .events], p ∈ kp) :
    goesOn kp b0 (State.formed s) := hk.trans ((State.formed_keeps s).mono hq)

theorem execLifelineApply_keeps (s : State) :
    Out.keeps [.clock, .free, .cmd, .hostMem, .fuses, .glob, .chan, .lanes, .ports, .modules, .selv, .tdc, .gauge, .ref, .time, .ptp, .stitch, .parse, .fwd, .core, .contracts, .pair, .fw, .mbs, .fence, .events, .stats, .power] s (execLifelineApply s) := by
  unfold execLifelineApply
  try dsimp only
  repeat' with_reducible first
    | apply goesOn.refl | apply State.advanceTick_on | apply State.applyActive_on | apply State.applyCommitted_on
    | apply State.exchange_on | apply State.formed_on | apply State.pairSettle_on | apply out_next | apply out_ite | decide
    | split

theorem execLifelineApply_on {kp : List Part} {b0 : State} {s : State} (hk : goesOn kp b0 s) (hq : ∀ p ∈ [.clock, .free, .cmd, .hostMem, .fuses, .glob, .chan, .lanes, .ports, .modules, .selv, .tdc, .gauge, .ref, .time, .ptp, .stitch, .parse, .fwd, .core, .contracts, .pair, .fw, .mbs, .fence, .events, .stats, .power], p ∈ kp) :
    Out.keeps kp b0 (execLifelineApply s) := .after hk ((execLifelineApply_keeps s).mono hq)

theorem execCommitTimeout_keeps (s : State) :
    Out.keeps [.clock, .free, .cmd, .hostMem, .fuses, .glob, .chan, .lanes, .ports, .modules, .selv, .tdc, .gauge, .ref, .time, .ptp, .stitch, .parse, .fwd, .core, .contracts, .pair, .fw, .mbs, .fence, .events, .stats, .power] s (execCommitTimeout s) := by
  unfold execCommitTimeout
  try dsimp only
  repeat' with_reducible first
    | apply goesOn.refl | apply State.advance_on | apply State.completeWaits_on | apply out_next | decide | split

theorem execCommitTimeout_on {kp : List Part} {b0 : State} {s : State} (hk : goesOn kp b0 s) (hq : ∀ p ∈ [.clock, .free, .cmd, .hostMem, .fuses, .glob, .chan, .lanes, .ports, .modules, .selv, .tdc, .gauge, .ref, .time, .ptp, .stitch, .parse, .fwd, .core, .contracts, .pair, .fw, .mbs, .fence, .events, .stats, .power], p ∈ kp) :
    Out.keeps kp b0 (execCommitTimeout s) := .after hk ((execCommitTimeout_keeps s).mono hq)

theorem State.pairSteer_keeps (s : State) :
    goesOn [.free, .cmd, .hostMem, .time, .ptp, .pair, .fw, .mbs, .fence, .events] s (State.pairSteer s) := by
  unfold State.pairSteer
  try dsimp only
  repeat' with_reducible first
    | apply goesOn.refl | apply keeps_ite | apply State.takeFree_on | apply State.timeChange_on | decide

theorem State.pairSteer_on {kp : List Part} {b0 : State} {s : State} (hk : goesOn kp b0 s) (hq : ∀ p ∈ [.free, .cmd, .hostMem, .time, .ptp, .pair, .fw, .mbs, .fence, .events], p ∈ kp) :
    goesOn kp b0 (State.pairSteer s) := hk.trans ((State.pairSteer_keeps s).mono hq)

theorem State.alignAgain_keeps (s : State) :
    goesOn [.free, .cmd, .hostMem, .glob, .chan, .lanes, .ports, .modules, .selv, .tdc, .gauge, .ref, .time, .ptp, .stitch, .parse, .fwd, .core, .contracts, .pair, .fw, .mbs, .fence, .events, .stats, .power, .host] s (State.alignAgain s) := by
  unfold State.alignAgain
  try dsimp only
  repeat' with_reducible first
    | apply goesOn.refl | apply keeps_ite | apply State.enterAlone_on | apply State.raise_on | apply State.startReset_on
    | apply kset_pair | decide

theorem State.alignAgain_on {kp : List Part} {b0 : State} {s : State} (hk : goesOn kp b0 s) (hq : ∀ p ∈ [.free, .cmd, .hostMem, .glob, .chan, .lanes, .ports, .modules, .selv, .tdc, .gauge, .ref, .time, .ptp, .stitch, .parse, .fwd, .core, .contracts, .pair, .fw, .mbs, .fence, .events, .stats, .power, .host], p ∈ kp) :
    goesOn kp b0 (State.alignAgain s) := hk.trans ((State.alignAgain_keeps s).mono hq)

theorem execTimeProbe_keeps (t1 : Int) (t2 : Int) (t3 : Int) (t4 : Int) (partner : Int) (s : State) :
    Out.keeps [.clock, .free, .cmd, .hostMem, .fuses, .glob, .chan, .lanes, .ports, .modules, .selv, .tdc, .gauge, .ref, .time, .ptp, .stitch, .parse, .fwd, .core, .contracts, .pair, .fw, .mbs, .fence, .events, .stats, .power, .host] s (execTimeProbe t1 t2 t3 t4 partner s) := by
  unfold execTimeProbe
  try dsimp only
  repeat' with_reducible first
    | apply goesOn.refl | apply State.alignAgain_on | apply State.ctlRx_on | apply State.enterSyncing_on
    | apply State.pairSettle_on | apply State.pairSteer_on | apply State.raise_on | apply State.sendCtl_on | apply kset_pair
    | apply out_next | apply out_ite | decide | split

theorem execTimeProbe_on {kp : List Part} {b0 : State} {t1 : Int} {t2 : Int} {t3 : Int} {t4 : Int} {partner : Int} {s : State} (hk : goesOn kp b0 s) (hq : ∀ p ∈ [.clock, .free, .cmd, .hostMem, .fuses, .glob, .chan, .lanes, .ports, .modules, .selv, .tdc, .gauge, .ref, .time, .ptp, .stitch, .parse, .fwd, .core, .contracts, .pair, .fw, .mbs, .fence, .events, .stats, .power, .host], p ∈ kp) :
    Out.keeps kp b0 (execTimeProbe t1 t2 t3 t4 partner s) := .after hk ((execTimeProbe_keeps t1 t2 t3 t4 partner s).mono hq)

theorem execAlignTickStart_keeps (edge : Nat) (s : State) :
    Out.keeps [.clock, .free, .cmd, .hostMem, .glob, .lanes, .ports, .selv, .tdc, .gauge, .time, .ptp, .pair, .fw, .mbs, .fence, .events, .stats, .power] s (execAlignTickStart edge s) := by
  unfold execAlignTickStart
  try dsimp only
  repeat' with_reducible first
    | apply goesOn.refl | apply State.advance_on | apply State.pd1Complete_on | apply out_next | apply out_fault | apply out_ite
    | decide

theorem execAlignTickStart_on {kp : List Part} {b0 : State} {edge : Nat} {s : State} (hk : goesOn kp b0 s) (hq : ∀ p ∈ [.clock, .free, .cmd, .hostMem, .glob, .lanes, .ports, .selv, .tdc, .gauge, .time, .ptp, .pair, .fw, .mbs, .fence, .events, .stats, .power], p ∈ kp) :
    Out.keeps kp b0 (execAlignTickStart edge s) := .after hk ((execAlignTickStart_keeps edge s).mono hq)

theorem State.runConfig_keeps (kk : List RawCmd) (s : State) (k : Nat) :
    goesOn [.clock, .free, .cmd, .hostMem, .fuses, .glob, .chan, .lanes, .ports, .modules, .selv, .tdc, .gauge, .ref, .time, .ptp, .stitch, .parse, .fwd, .core, .contracts, .pair, .fw, .mbs, .fence, .events, .stats, .power] s (State.runConfig s k kk).1 := by
  induction kk generalizing s k with
  | nil => exact .refl _ _
  | cons ka kk ih =>
    have ihon : ∀ {b0 : State} (s : State) (k : Nat), goesOn [.clock, .free, .cmd, .hostMem, .fuses, .glob, .chan, .lanes, .ports, .modules, .selv, .tdc, .gauge, .ref, .time, .ptp, .stitch, .parse, .fwd, .core, .contracts, .pair, .fw, .mbs, .fence, .events, .stats, .power] b0 s → goesOn [.clock, .free, .cmd, .hostMem, .fuses, .glob, .chan, .lanes, .ports, .modules, .selv, .tdc, .gauge, .ref, .time, .ptp, .stitch, .parse, .fwd, .core, .contracts, .pair, .fw, .mbs, .fence, .events, .stats, .power] b0 (State.runConfig s k kk).1 := fun s k h => h.trans (ih _ _ )
    unfold State.runConfig
    try dsimp only
    repeat' with_reducible first
      | apply ihon | apply goesOn.refl | apply keeps_ite1 | apply State.runInstr_on | decide | split

theorem State.runConfig_on {kp : List Part} {b0 : State} {s : State} {k : Nat} {kk : List RawCmd} (hk : goesOn kp b0 s) (hq : ∀ p ∈ [.clock, .free, .cmd, .hostMem, .fuses, .glob, .chan, .lanes, .ports, .modules, .selv, .tdc, .gauge, .ref, .time, .ptp, .stitch, .parse, .fwd, .core, .contracts, .pair, .fw, .mbs, .fence, .events, .stats, .power], p ∈ kp) :
    goesOn kp b0 (State.runConfig s k kk).1 := hk.trans ((State.runConfig_keeps kk s k).mono hq)

theorem execBootConfigDone_keeps (s : State) :
    Out.keeps [.clock, .free, .cmd, .hostMem, .fuses, .glob, .chan, .lanes, .ports, .modules, .selv, .tdc, .gauge, .ref, .time, .ptp, .stitch, .parse, .fwd, .core, .contracts, .pair, .fw, .mbs, .fence, .events, .stats, .power] s (execBootConfigDone s) := by
  unfold execBootConfigDone
  try dsimp only
  repeat' with_reducible first
    | apply goesOn.refl | apply State.pairSettle_on | apply State.raise_on | apply State.runConfig_on | apply out_next
    | apply out_ite | decide | split | apply kset_fw_power

theorem execBootConfigDone_on {kp : List Part} {b0 : State} {s : State} (hk : goesOn kp b0 s) (hq : ∀ p ∈ [.clock, .free, .cmd, .hostMem, .fuses, .glob, .chan, .lanes, .ports, .modules, .selv, .tdc, .gauge, .ref, .time, .ptp, .stitch, .parse, .fwd, .core, .contracts, .pair, .fw, .mbs, .fence, .events, .stats, .power], p ∈ kp) :
    Out.keeps kp b0 (execBootConfigDone s) := .after hk ((execBootConfigDone_keeps s).mono hq)

theorem execKeeperRestartDone_keeps (s : State) :
    Out.keeps [.clock, .free, .cmd, .hostMem, .fuses, .glob, .chan, .lanes, .ports, .modules, .selv, .tdc, .gauge, .ref, .time, .ptp, .stitch, .parse, .fwd, .core, .contracts, .pair, .fw, .mbs, .fence, .events, .stats, .power] s (execKeeperRestartDone s) := by
  unfold execKeeperRestartDone
  try dsimp only
  repeat' first
    | with_reducible apply goesOn.refl | with_reducible assumption
    | (with_reducible apply keeps_foldl; rotate_left 1; intro y a hy) | with_reducible apply State.commitMarker_on
    | with_reducible apply State.pairSettle_on | with_reducible apply State.recoveryDone_on
    | with_reducible apply State.runInstr_on | with_reducible apply kset_glob_pair | with_reducible apply out_next
    | with_reducible apply out_ite | with_reducible decide

theorem execKeeperRestartDone_on {kp : List Part} {b0 : State} {s : State} (hk : goesOn kp b0 s) (hq : ∀ p ∈ [.clock, .free, .cmd, .hostMem, .fuses, .glob, .chan, .lanes, .ports, .modules, .selv, .tdc, .gauge, .ref, .time, .ptp, .stitch, .parse, .fwd, .core, .contracts, .pair, .fw, .mbs, .fence, .events, .stats, .power], p ∈ kp) :
    Out.keeps kp b0 (execKeeperRestartDone s) := .after hk ((execKeeperRestartDone_keeps s).mono hq)

end Sys2Proof.Machine
end

