-- ==== Sys2Proof/Laws/Keeps/LaneRows.lean ====
section
/-!
SUPPORT. Which parts of the state each operation of LaneRows.lean touches.
-/
namespace Sys2Proof.Machine

theorem execSwatchLock_keeps (lane : Nat) (s : State) :
    Out.keeps [.lanes, .fence, .events] s (execSwatchLock lane s) := by
  unfold execSwatchLock
  try dsimp only
  repeat' with_reducible first
    | apply goesOn.refl | assumption | apply keeps_ite | apply State.raise_on | apply State.updLane_on | apply out_next
    | apply out_fault | apply out_ite | decide | split

theorem execSwatchLock_on {kp : List Part} {b0 : State} {lane : Nat} {s : State} (hk : goesOn kp b0 s) (hq : ∀ p ∈ [.lanes, .fence, .events], p ∈ kp) :
    Out.keeps kp b0 (execSwatchLock lane s) := .after hk ((execSwatchLock_keeps lane s).mono hq)

theorem execSwatchLoss_keeps (lane : Nat) (bits : Nat) (errors : Nat) (s : State) :
    Out.keeps [.lanes, .fence, .events] s (execSwatchLoss lane bits errors s) := by
  unfold execSwatchLoss
  try dsimp only
  repeat' with_reducible first
    | apply goesOn.refl | apply State.raise_on | apply State.updLane_on | apply out_next | apply out_fault | apply out_ite
    | decide

theorem execSwatchLoss_on {kp : List Part} {b0 : State} {lane : Nat} {bits : Nat} {errors : Nat} {s : State} (hk : goesOn kp b0 s) (hq : ∀ p ∈ [.lanes, .fence, .events], p ∈ kp) :
    Out.keeps kp b0 (execSwatchLoss lane bits errors s) := .after hk ((execSwatchLoss_keeps lane bits errors s).mono hq)

theorem execSweepDone_keeps (lane : Nat) (counts : List Nat) (s : State) :
    Out.keeps [.clock, .free, .cmd, .hostMem, .lanes, .pair, .fw, .mbs, .fence, .events, .stats] s (execSweepDone lane counts s) := by
  unfold execSweepDone
  try dsimp only
  repeat' with_reducible first
    | apply goesOn.refl | apply State.advance_on | apply State.raise_on | apply State.updLane_on | apply out_next
    | apply out_fault | apply out_ite | decide

theorem execSweepDone_on {kp : List Part} {b0 : State} {lane : Nat} {counts : List Nat} {s : State} (hk : goesOn kp b0 s) (hq : ∀ p ∈ [.clock, .free, .cmd, .hostMem, .lanes, .pair, .fw, .mbs, .fence, .events, .stats], p ∈ kp) :
    Out.keeps kp b0 (execSweepDone lane counts s) := .after hk ((execSweepDone_keeps lane counts s).mono hq)

theorem execLaneLocked_keeps (port : Nat) (s : State) :
    Out.keeps [.lanes, .ports] s (execLaneLocked port s) := by
  unfold execLaneLocked
  try dsimp only
  repeat' first
    | with_reducible apply goesOn.refl | with_reducible assumption
    | (with_reducible apply keeps_foldl; rotate_left 1; intro y a hy) | with_reducible apply State.setPort_on
    | with_reducible apply State.updLane_on | with_reducible apply State.updPort_on | with_reducible apply out_next
    | with_reducible apply out_fault | with_reducible apply out_ite | with_reducible decide

theorem execLaneLocked_on {kp : List Part} {b0 : State} {port : Nat} {s : State} (hk : goesOn kp b0 s) (hq : ∀ p ∈ [.lanes, .ports], p ∈ kp) :
    Out.keeps kp b0 (execLaneLocked port s) := .after hk ((execLaneLocked_keeps port s).mono hq)

theorem execCastOnTimerExpiry_keeps (port : Nat) (s : State) :
    Out.keeps [.clock, .free, .cmd, .hostMem, .fuses, .glob, .chan, .lanes, .ports, .modules, .selv, .tdc, .gauge, .ref, .time, .ptp, .stitch, .parse, .fwd, .core, .contracts, .pair, .fw, .mbs, .fence, .events, .stats, .power] s (execCastOnTimerExpiry port s) := by
  unfold execCastOnTimerExpiry
  try dsimp only
  repeat' with_reducible first
    | apply goesOn.refl | apply keeps_ite | apply State.advance_on | apply State.castExpire_on | apply State.castLink_on
    | apply State.laneFollow_on | apply State.updPort_on | apply out_next | apply out_fault | apply out_ite | decide | split

theorem execCastOnTimerExpiry_on {kp : List Part} {b0 : State} {port : Nat} {s : State} (hk : goesOn kp b0 s) (hq : ∀ p ∈ [.clock, .free, .cmd, .hostMem, .fuses, .glob, .chan, .lanes, .ports, .modules, .selv, .tdc, .gauge, .ref, .time, .ptp, .stitch, .parse, .fwd, .core, .contracts, .pair, .fw, .mbs, .fence, .events, .stats, .power], p ∈ kp) :
    Out.keeps kp b0 (execCastOnTimerExpiry port s) := .after hk ((execCastOnTimerExpiry_keeps port s).mono hq)

theorem execProvingWindowEnd_keeps (port : Nat) (pointersOk : Bool) (offsets : List Int) (deskews : List Int) (s : State) :
    Out.keeps [.clock, .free, .cmd, .hostMem, .fuses, .glob, .chan, .lanes, .ports, .modules, .selv, .tdc, .gauge, .ref, .time, .ptp, .stitch, .parse, .fwd, .core, .contracts, .pair, .fw, .mbs, .fence, .events, .stats, .power] s (execProvingWindowEnd port pointersOk offsets deskews s) := by
  unfold execProvingWindowEnd
  try dsimp only
  repeat' with_reducible first
    | apply goesOn.refl | apply State.advance_on | apply State.laneFollow_on | apply State.proved_on | apply out_next
    | apply out_fault | apply out_ite | decide | split

theorem execProvingWindowEnd_on {kp : List Part} {b0 : State} {port : Nat} {pointersOk : Bool} {offsets : List Int} {deskews : List Int} {s : State} (hk : goesOn kp b0 s) (hq : ∀ p ∈ [.clock, .free, .cmd, .hostMem, .fuses, .glob, .chan, .lanes, .ports, .modules, .selv, .tdc, .gauge, .ref, .time, .ptp, .stitch, .parse, .fwd, .core, .contracts, .pair, .fw, .mbs, .fence, .events, .stats, .power], p ∈ kp) :
    Out.keeps kp b0 (execProvingWindowEnd port pointersOk offsets deskews s) := .after hk ((execProvingWindowEnd_keeps port pointersOk offsets deskews s).mono hq)

theorem execHoldDownExpiry_keeps (port : Nat) (s : State) :
    Out.keeps [.clock, .free, .cmd, .hostMem, .lanes, .ports, .selv, .tdc, .ptp, .pair, .fw, .mbs, .fence, .events, .stats] s (execHoldDownExpiry port s) := by
  unfold execHoldDownExpiry
  try dsimp only
  repeat' with_reducible first
    | apply goesOn.refl | apply State.advance_on | apply State.enterHeld_on | apply State.startCasting_on | apply State.updPort_on
    | apply out_next | apply out_fault | apply out_ite | decide | split

theorem execHoldDownExpiry_on {kp : List Part} {b0 : State} {port : Nat} {s : State} (hk : goesOn kp b0 s) (hq : ∀ p ∈ [.clock, .free, .cmd, .hostMem, .lanes, .ports, .selv, .tdc, .ptp, .pair, .fw, .mbs, .fence, .events, .stats], p ∈ kp) :
    Out.keeps kp b0 (execHoldDownExpiry port s) := .after hk ((execHoldDownExpiry_keeps port s).mono hq)

theorem execLos_keeps (lane : Nat) (s : State) :
    Out.keeps [.clock, .free, .cmd, .hostMem, .fuses, .glob, .chan, .lanes, .ports, .modules, .selv, .tdc, .gauge, .ref, .time, .ptp, .stitch, .parse, .fwd, .core, .contracts, .pair, .fw, .mbs, .fence, .events, .stats, .power] s (execLos lane s) := by
  unfold execLos
  try dsimp only
  repeat' first
    | with_reducible apply goesOn.refl | with_reducible assumption | with_reducible apply keeps_ite
    | (with_reducible apply keeps_foldl; rotate_left 1; intro y a hy) | with_reducible apply State.laneFollow_on
    | with_reducible apply State.laneUnlocked_on | with_reducible apply State.portLoss_on | with_reducible apply State.raise_on
    | with_reducible apply State.updLane_on | with_reducible apply out_next | with_reducible apply out_fault
    | with_reducible apply out_ite | with_reducible decide | split

theorem execLos_on {kp : List Part} {b0 : State} {lane : Nat} {s : State} (hk : goesOn kp b0 s) (hq : ∀ p ∈ [.clock, .free, .cmd, .hostMem, .fuses, .glob, .chan, .lanes, .ports, .modules, .selv, .tdc, .gauge, .ref, .time, .ptp, .stitch, .parse, .fwd, .core, .contracts, .pair, .fw, .mbs, .fence, .events, .stats, .power], p ∈ kp) :
    Out.keeps kp b0 (execLos lane s) := .after hk ((execLos_keeps lane s).mono hq)

theorem execLockLoss_keeps (lane : Nat) (kind : LossKind) (s : State) :
    Out.keeps [.clock, .free, .cmd, .hostMem, .fuses, .glob, .chan, .lanes, .ports, .modules, .selv, .tdc, .gauge, .ref, .time, .ptp, .stitch, .parse, .fwd, .core, .contracts, .pair, .fw, .mbs, .fence, .events, .stats, .power] s (execLockLoss lane kind s) := by
  unfold execLockLoss
  try dsimp only
  repeat' with_reducible first
    | apply goesOn.refl | assumption | apply keeps_ite | apply State.laneFollow_on | apply State.laneUnlocked_on
    | apply State.portLoss_on | apply State.updLane_on | apply out_next | apply out_fault | apply out_ite | decide | split

theorem execLockLoss_on {kp : List Part} {b0 : State} {lane : Nat} {kind : LossKind} {s : State} (hk : goesOn kp b0 s) (hq : ∀ p ∈ [.clock, .free, .cmd, .hostMem, .fuses, .glob, .chan, .lanes, .ports, .modules, .selv, .tdc, .gauge, .ref, .time, .ptp, .stitch, .parse, .fwd, .core, .contracts, .pair, .fw, .mbs, .fence, .events, .stats, .power], p ∈ kp) :
    Out.keeps kp b0 (execLockLoss lane kind s) := .after hk ((execLockLoss_keeps lane kind s).mono hq)

theorem execFreqRange_keeps (lane : Nat) (offset : Int) (s : State) :
    Out.keeps [.clock, .free, .cmd, .hostMem, .fuses, .glob, .chan, .lanes, .ports, .modules, .selv, .tdc, .gauge, .ref, .time, .ptp, .stitch, .parse, .fwd, .core, .contracts, .pair, .fw, .mbs, .fence, .events, .stats, .power] s (execFreqRange lane offset s) := by
  unfold execFreqRange
  try dsimp only
  repeat' with_reducible first
    | apply goesOn.refl | apply State.enterFault_on | apply State.laneFollow_on | apply State.raise_on | apply State.setCause_on
    | apply State.upLoss_on | apply State.updLane_on | apply out_next | apply out_fault | apply out_ite | decide | split

theorem execFreqRange_on {kp : List Part} {b0 : State} {lane : Nat} {offset : Int} {s : State} (hk : goesOn kp b0 s) (hq : ∀ p ∈ [.clock, .free, .cmd, .hostMem, .fuses, .glob, .chan, .lanes, .ports, .modules, .selv, .tdc, .gauge, .ref, .time, .ptp, .stitch, .parse, .fwd, .core, .contracts, .pair, .fw, .mbs, .fence, .events, .stats, .power], p ∈ kp) :
    Out.keeps kp b0 (execFreqRange lane offset s) := .after hk ((execFreqRange_keeps lane offset s).mono hq)

theorem execEgressQueuesEmpty_keeps (port : Nat) (s : State) :
    Out.keeps [.free, .ports, .time, .core, .contracts, .pair, .fence, .events, .stats] s (execEgressQueuesEmpty port s) := by
  unfold execEgressQueuesEmpty
  try dsimp only
  repeat' with_reducible first
    | apply goesOn.refl | apply State.startLinger_on | apply out_next | apply out_fault | apply out_ite | decide

theorem execEgressQueuesEmpty_on {kp : List Part} {b0 : State} {port : Nat} {s : State} (hk : goesOn kp b0 s) (hq : ∀ p ∈ [.free, .ports, .time, .core, .contracts, .pair, .fence, .events, .stats], p ∈ kp) :
    Out.keeps kp b0 (execEgressQueuesEmpty port s) := .after hk ((execEgressQueuesEmpty_keeps port s).mono hq)

theorem execDrainTimeout_keeps (port : Nat) (s : State) :
    Out.keeps [.clock, .free, .cmd, .hostMem, .ports, .time, .core, .contracts, .pair, .fw, .mbs, .fence, .events, .stats] s (execDrainTimeout port s) := by
  unfold execDrainTimeout
  try dsimp only
  repeat' with_reducible first
    | apply goesOn.refl | apply State.advance_on | apply State.startLinger_on | apply out_next | apply out_fault | apply out_ite
    | decide | split

theorem execDrainTimeout_on {kp : List Part} {b0 : State} {port : Nat} {s : State} (hk : goesOn kp b0 s) (hq : ∀ p ∈ [.clock, .free, .cmd, .hostMem, .ports, .time, .core, .contracts, .pair, .fw, .mbs, .fence, .events, .stats], p ∈ kp) :
    Out.keeps kp b0 (execDrainTimeout port s) := .after hk ((execDrainTimeout_keeps port s).mono hq)

theorem execBindOffLingerEnd_keeps (port : Nat) (s : State) :
    Out.keeps [.clock, .free, .cmd, .hostMem, .lanes, .ports, .selv, .tdc, .time, .parse, .core, .contracts, .pair, .fw, .mbs, .fence, .events, .stats] s (execBindOffLingerEnd port s) := by
  unfold execBindOffLingerEnd
  try dsimp only
  repeat' with_reducible first
    | apply goesOn.refl | apply State.advance_on | apply State.bindOffDone_on | apply out_next | apply out_fault | apply out_ite
    | decide | split

theorem execBindOffLingerEnd_on {kp : List Part} {b0 : State} {port : Nat} {s : State} (hk : goesOn kp b0 s) (hq : ∀ p ∈ [.clock, .free, .cmd, .hostMem, .lanes, .ports, .selv, .tdc, .time, .parse, .core, .contracts, .pair, .fw, .mbs, .fence, .events, .stats], p ∈ kp) :
    Out.keeps kp b0 (execBindOffLingerEnd port s) := .after hk ((execBindOffLingerEnd_keeps port s).mono hq)

theorem execSgpioFrame_keeps (bits : List Nat) (s : State) :
    Out.keeps [.modules, .fence, .events, .power] s (execSgpioFrame bits s) := by
  unfold execSgpioFrame
  try dsimp only
  repeat' first
    | with_reducible apply goesOn.refl | with_reducible assumption | with_reducible apply keeps_ite
    | (with_reducible apply keeps_foldl; rotate_left 1; intro y a hy) | with_reducible apply State.raise_on
    | with_reducible apply kset_modules | with_reducible apply kset_power | with_reducible apply out_next
    | with_reducible apply out_fault | with_reducible apply out_ite | with_reducible decide

theorem execSgpioFrame_on {kp : List Part} {b0 : State} {bits : List Nat} {s : State} (hk : goesOn kp b0 s) (hq : ∀ p ∈ [.modules, .fence, .events, .power], p ∈ kp) :
    Out.keeps kp b0 (execSgpioFrame bits s) := .after hk ((execSgpioFrame_keeps bits s).mono hq)

theorem execSgpioStall_keeps (s : State) :
    Out.keeps [.fence, .events, .power] s (execSgpioStall s) := by
  unfold execSgpioStall
  try dsimp only
  repeat' with_reducible first
    | apply goesOn.refl | apply State.raise_on | apply kset_power | apply out_next | apply out_ite | decide

theorem execSgpioStall_on {kp : List Part} {b0 : State} {s : State} (hk : goesOn kp b0 s) (hq : ∀ p ∈ [.fence, .events, .power], p ∈ kp) :
    Out.keeps kp b0 (execSgpioStall s) := .after hk ((execSgpioStall_keeps s).mono hq)

end Sys2Proof.Machine
end

