-- ==== Sys2Proof/Laws/PerInstr.lean ====
section
/-!
SUPPORT. Statements made of each command as it stands in the opcode table: a command's mnemonic.
-/
namespace Sys2Proof

/-- The mnemonic of a command in spec/opcode_table.json. -/
def Instr.mnemonic : Instr → String
  | .nop _ _ => "NOP"
  | .fence _ => "FENCE"
  | .fenceMarkerWrite _ => "FENCE_MARKER_WRITE"
  | .sysPowerDomain _ _ _ => "SYS_POWER_DOMAIN"
  | .sysGetStatus _ => "SYS_GET_STATUS"
  | .sysSetBoard _ _ _ _ _ _ _ => "SYS_SET_BOARD"
  | .sysReset _ _ => "SYS_RESET"
  | .resetStart => "RESET_START"
  | .sysGetPower _ => "SYS_GET_POWER"
  | .sysGetThermal _ => "SYS_GET_THERMAL"
  | .sysConfigureThermal _ _ _ _ _ => "SYS_CONFIGURE_THERMAL"
  | .sysSetSensor _ _ _ => "SYS_SET_SENSOR"
  | .imgLoad _ _ _ _ _ => "IMG_LOAD"
  | .imgValidate _ _ => "IMG_VALIDATE"
  | .imgArm _ _ _ _ => "IMG_ARM"
  | .imgDisarm _ _ => "IMG_DISARM"
  | .imgGetStatus _ _ => "IMG_GET_STATUS"
  | .imgErase _ _ => "IMG_ERASE"
  | .overlaySwitch => "OVERLAY_SWITCH"
  | .portConfigure _ _ _ _ _ _ => "PORT_CONFIGURE"
  | .portCastOn _ _ => "PORT_CAST_ON"
  | .portBindOff _ _ _ => "PORT_BIND_OFF"
  | .portSetPolicy _ _ _ _ _ _ _ => "PORT_SET_POLICY"
  | .laneGetStatus _ _ => "LANE_GET_STATUS"
  | .laneGetLatency _ _ => "LANE_GET_LATENCY"
  | .laneSetChannelTable _ _ => "LANE_SET_CHANNEL_TABLE"
  | .laneRelatch _ _ => "LANE_RELATCH"
  | .laneSwatch _ _ _ _ _ _ _ _ _ => "LANE_SWATCH"
  | .swatchLock _ => "SWATCH_LOCK"
  | .swatchLoss _ _ _ => "SWATCH_LOSS"
  | .laneSweep _ _ _ _ => "LANE_SWEEP"
  | .sweepDone _ _ => "SWEEP_DONE"
  | .laneSweepRead _ _ _ => "LANE_SWEEP_READ"
  | .selvedgeConfigure _ _ _ _ _ _ => "SELVEDGE_CONFIGURE"
  | .selvedgeGetRange _ _ => "SELVEDGE_GET_RANGE"
  | .moduleRead _ _ _ _ _ _ => "MODULE_READ"
  | .moduleWrite _ _ _ _ _ _ _ => "MODULE_WRITE"
  | .laneLocked _ => "LANE_LOCKED"
  | .castOnTimerExpiry _ => "CAST_ON_TIMER_EXPIRY"
  | .provingWindowEnd _ _ _ _ => "PROVING_WINDOW_END"
  | .los _ => "LOS"
  | .lockLoss _ _ => "LOCK_LOSS"
  | .freqRange _ _ => "FREQ_RANGE"
  | .holdDownExpiry _ => "HOLD_DOWN_EXPIRY"
  | .egressQueuesEmpty _ => "EGRESS_QUEUES_EMPTY"
  | .drainTimeout _ => "DRAIN_TIMEOUT"
  | .bindOffLingerEnd _ => "BIND_OFF_LINGER_END"
  | .sgpioFrame _ => "SGPIO_FRAME"
  | .sgpioStall => "SGPIO_STALL"
  | .stitchBlockRx _ _ _ _ _ _ => "STITCH_BLOCK_RX"
  | .rangeTimeout _ => "RANGE_TIMEOUT"
  | .stitchSlot _ => "STITCH_SLOT"
  | .stitchArrival => "STITCH_ARRIVAL"
  | .stitchReady => "STITCH_READY"
  | .tdcConfigureEvt _ _ _ _ _ _ _ _ _ _ _ _ => "TDC_CONFIGURE_EVT"
  | .tdcConfigureGroup _ _ _ _ _ _ => "TDC_CONFIGURE_GROUP"
  | .tdcSetInterval _ _ _ _ _ _ _ => "TDC_SET_INTERVAL"
  | .tdcGetChannel _ _ _ => "TDC_GET_CHANNEL"
  | .tdcGetLane _ _ => "TDC_GET_LANE"
  | .tdcSetLaneWindow _ _ => "TDC_SET_LANE_WINDOW"
  | .tdcCaptureTap _ _ _ _ _ => "TDC_CAPTURE_TAP"
  | .evtEdge _ _ _ _ _ => "EVT_EDGE"
  | .inputOpen _ => "INPUT_OPEN"
  | .rateWindow _ => "RATE_WINDOW"
  | .silent _ => "SILENT"
  | .tapEdge _ _ _ _ => "TAP_EDGE"
  | .ringWrite _ => "RING_WRITE"
  | .ringTimeout _ => "RING_TIMEOUT"
  | .ringRdCountWrite _ _ => "RING_RD_COUNT_WRITE"
  | .gatePinChange _ _ _ => "GATE_PIN_CHANGE"
  | .swGateOpen _ => "SW_GATE_OPEN"
  | .swGateClose _ => "SW_GATE_CLOSE"
  | .gatePulseEnd _ => "GATE_PULSE_END"
  | .gateTimeout _ => "GATE_TIMEOUT"
  | .intervalResult _ => "INTERVAL_RESULT"
  | .gaugeConfigure _ _ _ _ _ _ _ _ _ => "GAUGE_CONFIGURE"
  | .gaugeRun _ _ => "GAUGE_RUN"
  | .gaugeFull _ _ _ => "GAUGE_FULL"
  | .gaugeGetStatus _ _ => "GAUGE_GET_STATUS"
  | .gaugeRestore _ _ _ _ => "GAUGE_RESTORE"
  | .gaugeHold _ _ => "GAUGE_HOLD"
  | .gaugeHoldLapse => "GAUGE_HOLD_LAPSE"
  | .stageLoad _ => "STAGE_LOAD"
  | .gaugeRunStart => "GAUGE_RUN_START"
  | .gaugeRunEnd _ => "GAUGE_RUN_END"
  | .fullCalibrationDone _ _ => "FULL_CALIBRATION_DONE"
  | .gaugePeriodicTimer _ => "GAUGE_PERIODIC_TIMER"
  | .gaugeTempUnavailable _ => "GAUGE_TEMP_UNAVAILABLE"
  | .dllUnlock _ => "DLL_UNLOCK"
  | .dllRelock _ => "DLL_RELOCK"
  | .dllRelockTimeout _ => "DLL_RELOCK_TIMEOUT"
  | .gaugeCopyCheck _ _ _ _ _ => "GAUGE_COPY_CHECK"
  | .laneWindowBoundary => "LANE_WINDOW_BOUNDARY"
  | .refEdge _ _ _ _ _ => "REF_EDGE"
  | .refActivityTimeout _ => "REF_ACTIVITY_TIMEOUT"
  | .xoMonitorWindow _ => "XO_MONITOR_WINDOW"
  | .holdoverInspecExpiry => "HOLDOVER_INSPEC_EXPIRY"
  | .steerTimeout => "STEER_TIMEOUT"
  | .levelTimeout _ => "LEVEL_TIMEOUT"
  | .esmcPduTx _ => "ESMC_PDU_TX"
  | .refConfigureSlot _ _ _ _ _ _ _ _ _ _ _ _ _ _ _ _ _ _ _ => "REF_CONFIGURE_SLOT"
  | .refConfigureSelection _ _ _ _ _ _ _ _ _ _ => "REF_CONFIGURE_SELECTION"
  | .refConfigureDpll _ _ _ _ _ _ => "REF_CONFIGURE_DPLL"
  | .refCommand _ _ _ => "REF_COMMAND"
  | .refGetSlot _ _ => "REF_GET_SLOT"
  | .refGetDpll _ => "REF_GET_DPLL"
  | .refSteer _ _ _ _ _ => "REF_STEER"
  | .refConfigurePpsOut _ _ _ _ _ _ _ => "REF_CONFIGURE_PPS_OUT"
  | .refConfigureClkout _ _ _ _ _ _ _ _ _ _ => "REF_CONFIGURE_CLKOUT"
  | .refGetClkout _ _ => "REF_GET_CLKOUT"
  | .ppsOutPulse _ => "PPS_OUT_PULSE"
  | .timeSet _ _ => "TIME_SET"
  | .timeStep _ _ _ => "TIME_STEP"
  | .timeSetRate _ _ => "TIME_SET_RATE"
  | .timeSetControl _ _ => "TIME_SET_CONTROL"
  | .timeGet _ => "TIME_GET"
  | .timeSetUtc _ _ _ _ => "TIME_SET_UTC"
  | .secSetStepGuard _ _ _ => "SEC_SET_STEP_GUARD"
  | .secAuthoriseStep _ _ _ _ => "SEC_AUTHORISE_STEP"
  | .allowanceExpired => "ALLOWANCE_EXPIRED"
  | .holdEnd => "HOLD_END"
  | .take _ => "TAKE"
  | .tsqStampTimeout _ => "TSQ_STAMP_TIMEOUT"
  | .tsqRdCountWrite _ _ => "TSQ_RD_COUNT_WRITE"
  | .ptpConfigureInstance _ _ _ _ _ _ _ _ _ _ => "PTP_CONFIGURE_INSTANCE"
  | .ptpConfigurePort _ _ _ _ _ _ _ _ _ _ _ _ _ _ _ _ _ _ _ _ => "PTP_CONFIGURE_PORT"
  | .ptpGetInstance _ _ => "PTP_GET_INSTANCE"
  | .ptpGetPort _ _ _ => "PTP_GET_PORT"
  | .ptpConfigureTc _ _ _ => "PTP_CONFIGURE_TC"
  | .servoConfigure _ _ _ _ _ _ _ _ => "SERVO_CONFIGURE"
  | .servoGet _ => "SERVO_GET"
  | .asymConfigure _ _ _ _ _ _ _ _ _ _ _ _ _ => "ASYM_CONFIGURE"
  | .asymGet _ _ => "ASYM_GET"
  | .ptpMessageRx _ _ => "PTP_MESSAGE_RX"
  | .ptpMessageTx _ _ _ _ => "PTP_MESSAGE_TX"
  | .announceReceiptTimeout _ => "ANNOUNCE_RECEIPT_TIMEOUT"
  | .syncReceiptTimeout _ => "SYNC_RECEIPT_TIMEOUT"
  | .delayResponseTimeout _ => "DELAY_RESPONSE_TIMEOUT"
  | .delayCoastExpiry _ => "DELAY_COAST_EXPIRY"
  | .asymFallback _ => "ASYM_FALLBACK"
  | .mclkConfigureChannel _ _ _ _ _ _ _ _ _ _ _ _ _ _ _ _ _ _ => "MCLK_CONFIGURE_CHANNEL"
  | .mclkConfigureOutput _ _ _ _ _ _ _ _ _ _ _ => "MCLK_CONFIGURE_OUTPUT"
  | .mclkGet _ _ => "MCLK_GET"
  | .mclkSetOrbit _ _ _ _ _ _ => "MCLK_SET_ORBIT"
  | .stitchConfigureGroup _ _ _ _ _ => "STITCH_CONFIGURE_GROUP"
  | .stitchConfigureTrigger _ _ _ _ _ _ _ _ _ => "STITCH_CONFIGURE_TRIGGER"
  | .stitchConfigureBroadcast _ _ _ _ _ _ => "STITCH_CONFIGURE_BROADCAST"
  | .stitchConfigurePort _ _ _ _ _ _ _ _ => "STITCH_CONFIGURE_PORT"
  | .stitchSend _ _ _ _ => "STITCH_SEND"
  | .stitchSendTimed _ _ _ _ _ _ => "STITCH_SEND_TIMED"
  | .stitchCancelTimed _ _ => "STITCH_CANCEL_TIMED"
  | .stitchGetPort _ _ _ => "STITCH_GET_PORT"
  | .stitchGetSequencer _ _ => "STITCH_GET_SEQUENCER"
  | .timedStitchReady => "TIMED_STITCH_READY"
  | .phaseSetIssue _ => "PHASE_SET_ISSUE"
  | .bcnIssue _ => "BCN_ISSUE"
  | .markerEdge _ => "MARKER_EDGE"
  | .markerLost _ => "MARKER_LOST"
  | .mcActivityTimeout _ => "MC_ACTIVITY_TIMEOUT"
  | .mcCoastLimit _ => "MC_COAST_LIMIT"
  | .parseConfigurePort _ _ _ _ _ _ _ _ _ _ => "PARSE_CONFIGURE_PORT"
  | .parseConfigureExtract _ _ _ _ _ _ _ _ _ _ _ _ => "PARSE_CONFIGURE_EXTRACT"
  | .aclStage _ _ _ => "ACL_STAGE"
  | .aclCommit _ _ _ _ _ _ _ _ _ _ _ => "ACL_COMMIT"
  | .aclDelete _ _ => "ACL_DELETE"
  | .aclRead _ _ _ _ => "ACL_READ"
  | .steerConfigureProfile _ _ _ _ _ _ _ _ _ _ _ => "STEER_CONFIGURE_PROFILE"
  | .steerWrite _ _ _ _ _ => "STEER_WRITE"
  | .steerRead _ _ _ _ => "STEER_READ"
  | .slowConfigure _ _ _ _ => "SLOW_CONFIGURE"
  | .parseGetCounts _ _ _ => "PARSE_GET_COUNTS"
  | .classSetMap _ _ _ _ _ _ => "CLASS_SET_MAP"
  | .parseWindowClose _ _ _ _ _ _ => "PARSE_WINDOW_CLOSE"
  | .admissionDecision _ => "ADMISSION_DECISION"
  | .frameEnd _ _ _ => "FRAME_END"
  | .cellSlot => "CELL_SLOT"
  | .egressFrameBoundary _ _ _ => "EGRESS_FRAME_BOUNDARY"
  | .copySent _ _ => "COPY_SENT"
  | .spillBurst => "SPILL_BURST"
  | .returnBurst => "RETURN_BURST"
  | .skeinInitDone _ => "SKEIN_INIT_DONE"
  | .skeinCellError _ _ => "SKEIN_CELL_ERROR"
  | .skeinFault => "SKEIN_FAULT"
  | .cellEccError _ _ _ => "CELL_ECC_ERROR"
  | .queueFlushed _ _ _ _ => "QUEUE_FLUSHED"
  | .bufferConfigureClass _ _ _ _ _ => "BUFFER_CONFIGURE_CLASS"
  | .queueConfigure _ _ _ _ _ => "QUEUE_CONFIGURE"
  | .portConfigureEgress _ _ _ _ => "PORT_CONFIGURE_EGRESS"
  | .skeinConfigure _ _ _ => "SKEIN_CONFIGURE"
  | .skeinGetStatus _ _ => "SKEIN_GET_STATUS"
  | .coreGetQueue _ _ _ _ => "CORE_GET_QUEUE"
  | .bufferGetStatus _ => "BUFFER_GET_STATUS"
  | .captureConfigure _ _ _ _ _ _ _ => "CAPTURE_CONFIGURE"
  | .capRdCountWrite _ => "CAP_RD_COUNT_WRITE"
  | .capTimeout => "CAP_TIMEOUT"
  | .classSetKind _ _ _ _ => "CLASS_SET_KIND"
  | .contractSet _ _ _ _ _ _ _ _ _ => "CONTRACT_SET"
  | .contractDelete _ _ _ => "CONTRACT_DELETE"
  | .contractCheck _ _ _ _ _ _ _ _ _ => "CONTRACT_CHECK"
  | .contractGet _ _ _ _ => "CONTRACT_GET"
  | .guaranteedPoolSet _ _ => "GUARANTEED_POOL_SET"
  | .contractDrained _ _ => "CONTRACT_DRAINED"
  | .vlanConfigure _ _ _ _ _ _ _ _ _ => "VLAN_CONFIGURE"
  | .portSetPvid _ _ _ => "PORT_SET_PVID"
  | .routerMacSet _ _ _ => "ROUTER_MAC_SET"
  | .l2Add _ _ _ _ _ => "L2_ADD"
  | .l2Delete _ _ _ => "L2_DELETE"
  | .nhWrite _ _ _ _ _ _ _ => "NH_WRITE"
  | .nhDelete _ _ => "NH_DELETE"
  | .hostAdd _ _ _ _ _ => "HOST_ADD"
  | .hostDelete _ _ _ => "HOST_DELETE"
  | .lpmAdd _ _ _ _ _ _ => "LPM_ADD"
  | .lpmDelete _ _ _ _ => "LPM_DELETE"
  | .memberStage _ _ _ _ => "MEMBER_STAGE"
  | .ecmpCommit _ _ _ _ => "ECMP_COMMIT"
  | .ecmpDelete _ _ => "ECMP_DELETE"
  | .mcastCommit _ _ _ _ _ => "MCAST_COMMIT"
  | .tableLookup _ _ _ => "TABLE_LOOKUP"
  | .tableReadIndex _ _ _ => "TABLE_READ_INDEX"
  | .tableClearLost _ _ _ => "TABLE_CLEAR_LOST"
  | .tableGetUsage _ _ => "TABLE_GET_USAGE"
  | .tableScrub _ _ _ _ => "TABLE_SCRUB"
  | .tableRebuilt _ _ => "TABLE_REBUILT"
  | .aclScrub _ => "ACL_SCRUB"
  | .pairConfigure _ _ _ _ _ _ _ _ _ _ _ _ _ _ => "PAIR_CONFIGURE"
  | .pairConfigurePort _ _ _ _ _ _ _ => "PAIR_CONFIGURE_PORT"
  | .pairGetStatus _ _ => "PAIR_GET_STATUS"
  | .pairSwitchover _ => "PAIR_SWITCHOVER"
  | .pairResync _ => "PAIR_RESYNC"
  | .pairTest _ _ => "PAIR_TEST"
  | .pairGetDigest _ _ _ => "PAIR_GET_DIGEST"
  | .pairGetDup _ _ => "PAIR_GET_DUP"
  | .partnerHello _ _ _ _ => "PARTNER_HELLO"
  | .joinTimeout => "JOIN_TIMEOUT"
  | .pairAliveEdge _ _ => "PAIR_ALIVE_EDGE"
  | .heartbeatLost => "HEARTBEAT_LOST"
  | .pairAliveToggle => "PAIR_ALIVE_TOGGLE"
  | .pairWatchdogExpiry => "PAIR_WATCHDOG_EXPIRY"
  | .plSilent => "PL_SILENT"
  | .keepaliveTx => "KEEPALIVE_TX"
  | .healthReportTx => "HEALTH_REPORT_TX"
  | .healthReportRx _ => "HEALTH_REPORT_RX"
  | .healthLost => "HEALTH_LOST"
  | .timeProbe _ _ _ _ _ => "TIME_PROBE"
  | .alignTickStart _ => "ALIGN_TICK_START"
  | .lifelineCycleEnd => "LIFELINE_CYCLE_END"
  | .commitMarkerRx _ _ _ _ => "COMMIT_MARKER_RX"
  | .lifelineAckRx _ => "LIFELINE_ACK_RX"
  | .lifelineNackRx _ => "LIFELINE_NACK_RX"
  | .lifelineConfirmRx _ => "LIFELINE_CONFIRM_RX"
  | .lifelineApply => "LIFELINE_APPLY"
  | .commitTimeout => "COMMIT_TIMEOUT"
  | .xfeedCopyRx _ _ _ _ _ _ _ _ _ _ _ _ => "XFEED_COPY_RX"
  | .dupEntryExpiry _ => "DUP_ENTRY_EXPIRY"
  | .digestBlockClose _ _ => "DIGEST_BLOCK_CLOSE"
  | .digestOutcomeTimeout _ _ => "DIGEST_OUTCOME_TIMEOUT"
  | .digestRecordRx _ _ _ => "DIGEST_RECORD_RX"
  | .selfTest _ _ => "SELF_TEST"
  | .secChallenge _ _ _ => "SEC_CHALLENGE"
  | .secResponse _ _ _ => "SEC_RESPONSE"
  | .secClose _ => "SEC_CLOSE"
  | .secDebugLock _ => "SEC_DEBUG_LOCK"
  | .secRevokeKey _ _ => "SEC_REVOKE_KEY"
  | .secSetMinVersion _ _ => "SEC_SET_MIN_VERSION"
  | .secGetStatus _ => "SEC_GET_STATUS"
  | .sessionExpiry => "SESSION_EXPIRY"
  | .watchdog _ => "WATCHDOG"
  | .firewallFault _ _ => "FIREWALL_FAULT"
  | .coreRestart _ => "CORE_RESTART"
  | .keeperLockstep => "KEEPER_LOCKSTEP"
  | .sharedSramError _ _ => "SHARED_SRAM_ERROR"
  | .mailboxFetch _ _ _ => "MAILBOX_FETCH"
  | .mbFault _ _ => "MB_FAULT"
  | .submitCountWrite _ _ => "SUBMIT_COUNT_WRITE"
  | .respRdCountWrite _ _ => "RESP_RD_COUNT_WRITE"
  | .mailboxEnableSet _ => "MAILBOX_ENABLE_SET"
  | .mailboxEnableClear _ => "MAILBOX_ENABLE_CLEAR"
  | .mailboxDrained _ => "MAILBOX_DRAINED"
  | .mailboxReset _ => "RESET"
  | .abortAll _ => "ABORT_ALL"
  | .abortPos _ _ => "ABORT_POS"
  | .commandTimeout _ => "COMMAND_TIMEOUT"
  | .pf0FunctionLevelReset => "PF0_FUNCTION_LEVEL_RESET"
  | .pf1FunctionLevelReset => "PF1_FUNCTION_LEVEL_RESET"
  | .hotReset => "HOT_RESET"
  | .busMasterEnable _ => "BUS_MASTER_ENABLE"
  | .ctxInject _ => "CTX_INJECT"
  | .ctxReset _ => "CTX_RESET"
  | .slowPathFrame _ => "SLOW_PATH_FRAME"
  | .chainStart _ => "START"
  | .chainAbort _ => "ABORT"
  | .chainMove _ _ => "MOVE"
  | .dmaBurst _ _ => "DMA_BURST"
  | .chainLoop _ _ => "LOOP"
  | .chainWait _ _ => "WAIT"
  | .waitConditionMet _ => "WAIT_CONDITION_MET"
  | .waitTimeout _ => "WAIT_TIMEOUT"
  | .chainSignal _ _ => "SIGNAL"
  | .chainEnd _ _ => "END"
  | .cqRoom _ => "CQ_ROOM"
  | .cqRdCountWrite _ _ => "CQ_RD_COUNT_WRITE"
  | .dmaWatchdogExpiry _ => "DMA_WATCHDOG_EXPIRY"
  | .budgetExhausted _ => "BUDGET_EXHAUSTED"
  | .dmaPcieError _ _ => "DMA_PCIE_ERROR"
  | .vectorTimerExpiry _ => "VECTOR_TIMER_EXPIRY"
  | .msixMessageSend _ => "MSIX_MESSAGE_SEND"
  | .maskWrite _ _ => "MASK_WRITE"
  | .vecCtrlWrite _ _ => "VEC_CTRL_WRITE"
  | .logRdCountWrite _ => "LOG_RD_COUNT_WRITE"
  | .snapNow => "SNAP_NOW"
  | .snapAtFence => "SNAP_AT_FENCE"
  | .snapDone => "SNAP_DONE"
  | .counterClear _ _ _ _ => "COUNTER_CLEAR"
  | .eventInject _ _ _ _ => "EVENT_INJECT"
  | .readClearField _ _ => "READ_CLEAR_FIELD"
  | .registerWrite _ _ _ => "REGISTER_WRITE"
  | .coldReset _ => "COLD_RESET"
  | .supplyFault _ => "SUPPLY_FAULT"
  | .supplyRestored _ => "SUPPLY_RESTORED"
  | .thermtrip _ => "THERMTRIP"
  | .sensorConversion _ _ => "SENSOR_CONVERSION"
  | .sensorConversionTimeout _ => "SENSOR_CONVERSION_TIMEOUT"
  | .sensorRecovered _ => "SENSOR_RECOVERED"
  | .romCheck _ _ _ _ _ _ => "ROM_CHECK"
  | .flashReadDone _ _ => "FLASH_READ_DONE"
  | .rootLock => "ROOT_LOCK"
  | .rootLockTimeout => "ROOT_LOCK_TIMEOUT"
  | .coreLoadDone => "CORE_LOAD_DONE"
  | .bootConfigDone => "BOOT_CONFIG_DONE"
  | .ospiReadId => "OSPI_READ_ID"
  | .ospiReadStatus => "OSPI_READ_STATUS"
  | .ospiReadSensors => "OSPI_READ_SENSORS"
  | .recoveryErase => "RECOVERY_ERASE"
  | .recoveryEraseDone => "RECOVERY_ERASE_DONE"
  | .recoveryWrite _ _ => "RECOVERY_WRITE"
  | .recoveryCommit => "RECOVERY_COMMIT"
  | .ospiReset _ _ => "OSPI_RESET"
  | .ospiCsTimeout => "OSPI_CS_TIMEOUT"
  | .clkoutAligned _ => "CLKOUT_ALIGNED"
  | .orbitStart _ => "ORBIT_START"
  | .pairTestEnd => "PAIR_TEST_END"
  | .keeperRestartDone => "KEEPER_RESTART_DONE"
  | .inputRecovered _ _ => "INPUT_RECOVERED"
  | .debugTapInstruction _ => "DEBUG_TAP_INSTRUCTION"

namespace Laws.Mnemonics

/-- A row of the table has an opcode of the index just where it has a source, and its opcode lies in the families that R458 lists. -/
def Statement (i : Instr) : Prop :=
  (match i.opcode, i.src with | some op, some _ => decide (op < 0x0D00) | none, none => true | _, _ => false) = true

theorem nop (src : CmdSrc) (bytes : List Byte) : Statement (.nop src bytes) := rfl
theorem fence (src : CmdSrc) : Statement (.fence src) := rfl
theorem fenceMarkerWrite (stream : StreamId) : Statement (.fenceMarkerWrite stream) := rfl
theorem sysPowerDomain (src : CmdSrc) (on : Bool) (domain : Nat) : Statement (.sysPowerDomain src on domain) := rfl
theorem sysGetStatus (src : CmdSrc) : Statement (.sysGetStatus src) := rfl
theorem sysSetBoard (src : CmdSrc) (param : Nat) (period : Nat) (region : Nat) (base : Nat) (length : Nat) (mask : Nat) : Statement (.sysSetBoard src param period region base length mask) := rfl
theorem sysReset (src : CmdSrc) (kind : Nat) : Statement (.sysReset src kind) := rfl
theorem resetStart : Statement .resetStart := rfl
theorem sysGetPower (src : CmdSrc) : Statement (.sysGetPower src) := rfl
theorem sysGetThermal (src : CmdSrc) : Statement (.sysGetThermal src) := rfl
theorem sysConfigureThermal (src : CmdSrc) (warn : Int) (throttleAt : Int) (hyst : Int) (fraction : Nat) : Statement (.sysConfigureThermal src warn throttleAt hyst fraction) := rfl
theorem sysSetSensor (src : CmdSrc) (sensor : Nat) (mark : Nat) : Statement (.sysSetSensor src sensor mark) := rfl
theorem imgLoad (src : CmdSrc) (target : Nat) (addr : Nat) (length : Nat) (data : Option (List Byte)) : Statement (.imgLoad src target addr length data) := rfl
theorem imgValidate (src : CmdSrc) (slot : Nat) : Statement (.imgValidate src slot) := rfl
theorem imgArm (src : CmdSrc) (slot : Nat) (mode : Nat) (t : KTime) : Statement (.imgArm src slot mode t) := rfl
theorem imgDisarm (src : CmdSrc) (slot : Nat) : Statement (.imgDisarm src slot) := rfl
theorem imgGetStatus (src : CmdSrc) (slot : Nat) : Statement (.imgGetStatus src slot) := rfl
theorem imgErase (src : CmdSrc) (slot : Nat) : Statement (.imgErase src slot) := rfl
theorem overlaySwitch : Statement .overlaySwitch := rfl
theorem portConfigure (src : CmdSrc) (port : Nat) (mode : Nat) (width : Nat) (fec : Nat) (maxFrame : Nat) : Statement (.portConfigure src port mode width fec maxFrame) := rfl
theorem portCastOn (src : CmdSrc) (port : Nat) : Statement (.portCastOn src port) := rfl
theorem portBindOff (src : CmdSrc) (port : Nat) (drain : Nat) : Statement (.portBindOff src port drain) := rfl
theorem portSetPolicy (src : CmdSrc) (port : Nat) (castTimeout : Nat) (holdDown : Nat) (flapLimit : Nat) (flapWindow : Nat) (recast : Nat) : Statement (.portSetPolicy src port castTimeout holdDown flapLimit flapWindow recast) := rfl
theorem laneGetStatus (src : CmdSrc) (lane : Nat) : Statement (.laneGetStatus src lane) := rfl
theorem laneGetLatency (src : CmdSrc) (lane : Nat) : Statement (.laneGetLatency src lane) := rfl
theorem laneSetChannelTable (src : CmdSrc) (sect : Nat) : Statement (.laneSetChannelTable src sect) := rfl
theorem laneRelatch (src : CmdSrc) (lane : Nat) : Statement (.laneRelatch src lane) := rfl
theorem laneSwatch (src : CmdSrc) (clear : Bool) (lane : Nat) (action : Nat) (txPattern : Nat) (rxPattern : Nat) (loopback : Nat) (injKind : Nat) (injArg : Nat) : Statement (.laneSwatch src clear lane action txPattern rxPattern loopback injKind injArg) := rfl
theorem swatchLock (lane : Nat) : Statement (.swatchLock lane) := rfl
theorem swatchLoss (lane : Nat) (bits : Nat) (errors : Nat) : Statement (.swatchLoss lane bits errors) := rfl
theorem laneSweep (src : CmdSrc) (lane : Nat) (vga : Nat) (dwell : Nat) : Statement (.laneSweep src lane vga dwell) := rfl
theorem sweepDone (lane : Nat) (counts : List Nat) : Statement (.sweepDone lane counts) := rfl
theorem laneSweepRead (src : CmdSrc) (lane : Nat) (page : Nat) : Statement (.laneSweepRead src lane page) := rfl
theorem selvedgeConfigure (src : CmdSrc) (port : Nat) (slots : Nat) (markInterval : Nat) (outlier : Nat) (rangeTimeout : Nat) : Statement (.selvedgeConfigure src port slots markInterval outlier rangeTimeout) := rfl
theorem selvedgeGetRange (src : CmdSrc) (port : Nat) : Statement (.selvedgeGetRange src port) := rfl
theorem moduleRead (src : CmdSrc) (module : Nat) (bank : Nat) (page : Nat) (offset : Nat) (length : Nat) : Statement (.moduleRead src module bank page offset length) := rfl
theorem moduleWrite (src : CmdSrc) (module : Nat) (bank : Nat) (page : Nat) (offset : Nat) (length : Nat) (data : List Byte) : Statement (.moduleWrite src module bank page offset length data) := rfl
theorem laneLocked (port : Nat) : Statement (.laneLocked port) := rfl
theorem castOnTimerExpiry (port : Nat) : Statement (.castOnTimerExpiry port) := rfl
theorem provingWindowEnd (port : Nat) (pointersOk : Bool) (offsets : List Int) (deskews : List Int) : Statement (.provingWindowEnd port pointersOk offsets deskews) := rfl
theorem los (lane : Nat) : Statement (.los lane) := rfl
theorem lockLoss (lane : Nat) (kind : LossKind) : Statement (.lockLoss lane kind) := rfl
theorem freqRange (lane : Nat) (offset : Int) : Statement (.freqRange lane offset) := rfl
theorem holdDownExpiry (port : Nat) : Statement (.holdDownExpiry port) := rfl
theorem egressQueuesEmpty (port : Nat) : Statement (.egressQueuesEmpty port) := rfl
theorem drainTimeout (port : Nat) : Statement (.drainTimeout port) := rfl
theorem bindOffLingerEnd (port : Nat) : Statement (.bindOffLingerEnd port) := rfl
theorem sgpioFrame (bits : List Nat) : Statement (.sgpioFrame bits) := rfl
theorem sgpioStall : Statement .sgpioStall := rfl
theorem stitchBlockRx (port : Nat) (index : Nat) (ctl : Bool) (word : Nat) (tick : Nat) (sub : Nat) : Statement (.stitchBlockRx port index ctl word tick sub) := rfl
theorem rangeTimeout (port : Nat) : Statement (.rangeTimeout port) := rfl
theorem stitchSlot (group : Nat) : Statement (.stitchSlot group) := rfl
theorem stitchArrival : Statement .stitchArrival := rfl
theorem stitchReady : Statement .stitchReady := rfl
theorem tdcConfigureEvt (src : CmdSrc) (enable : Bool) (regression : Bool) (channel : Nat) (edge : Nat) (hyst : Nat) (holdoff : Nat) (prescaler : Nat) (ring : Nat) (offset : Int) (rateLimit : Nat) (silence : Nat) : Statement (.tdcConfigureEvt src enable regression channel edge hyst holdoff prescaler ring offset rateLimit silence) := rfl
theorem tdcConfigureGroup (src : CmdSrc) (group : Nat) (mode : Nat) (level : Nat) (pulse : Nat) (maxLen : Nat) : Statement (.tdcConfigureGroup src group mode level pulse maxLen) := rfl
theorem tdcSetInterval (src : CmdSrc) (enable : Bool) (engine : Nat) (start : Nat) (stop : Nat) (window : Nat) (ring : Nat) : Statement (.tdcSetInterval src enable engine start stop window ring) := rfl
theorem tdcGetChannel (src : CmdSrc) (clear : Bool) (channel : Nat) : Statement (.tdcGetChannel src clear channel) := rfl
theorem tdcGetLane (src : CmdSrc) (lane : Nat) : Statement (.tdcGetLane src lane) := rfl
theorem tdcSetLaneWindow (src : CmdSrc) (w : Nat) : Statement (.tdcSetLaneWindow src w) := rfl
theorem tdcCaptureTap (src : CmdSrc) (lane : Nat) (action : Nat) (ring : Nat) (d : Nat) : Statement (.tdcCaptureTap src lane action ring d) := rfl
theorem evtEdge (ch : Nat) (tick : Nat) (phase : Nat) (fine : Nat) (falling : Bool) : Statement (.evtEdge ch tick phase fine falling) := rfl
theorem inputOpen (input : Nat) : Statement (.inputOpen input) := rfl
theorem rateWindow (ch : Nat) : Statement (.rateWindow ch) := rfl
theorem silent (ch : Nat) : Statement (.silent ch) := rfl
theorem tapEdge (lane : Nat) (tick : Nat) (phase : Nat) (fine : Nat) : Statement (.tapEdge lane tick phase fine) := rfl
theorem ringWrite (ring : Nat) : Statement (.ringWrite ring) := rfl
theorem ringTimeout (ring : Nat) : Statement (.ringTimeout ring) := rfl
theorem ringRdCountWrite (ring : Nat) (value : BitVec 32) : Statement (.ringRdCountWrite ring value) := rfl
theorem gatePinChange (group : Nat) (level : Bool) (tick : Nat) : Statement (.gatePinChange group level tick) := rfl
theorem swGateOpen (value : BitVec 32) : Statement (.swGateOpen value) := rfl
theorem swGateClose (value : BitVec 32) : Statement (.swGateClose value) := rfl
theorem gatePulseEnd (group : Nat) : Statement (.gatePulseEnd group) := rfl
theorem gateTimeout (group : Nat) : Statement (.gateTimeout group) := rfl
theorem intervalResult (engine : Nat) : Statement (.intervalResult engine) := rfl
theorem gaugeConfigure (src : CmdSrc) (trigger : Int) (minInterval : Nat) (target : Nat) (runTimeout : Nat) (retry : Nat) (periodic : Nat) (source18 : Nat) (source19 : Nat) : Statement (.gaugeConfigure src trigger minInterval target runTimeout retry periodic source18 source19) := rfl
theorem gaugeRun (src : CmdSrc) (region : Nat) : Statement (.gaugeRun src region) := rfl
theorem gaugeFull (src : CmdSrc) (force : Bool) (region : Nat) : Statement (.gaugeFull src force region) := rfl
theorem gaugeGetStatus (src : CmdSrc) (region : Nat) : Statement (.gaugeGetStatus src region) := rfl
theorem gaugeRestore (src : CmdSrc) (force : Bool) (region : Nat) (mode : Nat) : Statement (.gaugeRestore src force region mode) := rfl
theorem gaugeHold (src : CmdSrc) (duration : Nat) : Statement (.gaugeHold src duration) := rfl
theorem gaugeHoldLapse : Statement .gaugeHoldLapse := rfl
theorem stageLoad (value : BitVec 32) : Statement (.stageLoad value) := rfl
theorem gaugeRunStart : Statement .gaugeRunStart := rfl
theorem gaugeRunEnd (injected : List Injected) : Statement (.gaugeRunEnd injected) := rfl
theorem fullCalibrationDone (region : Nat) (sets : List CalSet) : Statement (.fullCalibrationDone region sets) := rfl
theorem gaugePeriodicTimer (region : Nat) : Statement (.gaugePeriodicTimer region) := rfl
theorem gaugeTempUnavailable (region : Nat) : Statement (.gaugeTempUnavailable region) := rfl
theorem dllUnlock (loss : DllLoss) : Statement (.dllUnlock loss) := rfl
theorem dllRelock (lock : DllLock) : Statement (.dllRelock lock) := rfl
theorem dllRelockTimeout (ch : Nat) : Statement (.dllRelockTimeout ch) := rfl
theorem gaugeCopyCheck (region : Nat) (aOk : Bool) (bOk : Bool) (bEpoch : Nat) (bCentres : List (Nat × List Nat)) : Statement (.gaugeCopyCheck region aOk bOk bEpoch bCentres) := rfl
theorem laneWindowBoundary : Statement .laneWindowBoundary := rfl
theorem refEdge (ch : Nat) (tick : Nat) (phase : Nat) (fine : Nat) (width : Nat) : Statement (.refEdge ch tick phase fine width) := rfl
theorem refActivityTimeout (slot : Nat) : Statement (.refActivityTimeout slot) := rfl
theorem xoMonitorWindow (edges : Nat) : Statement (.xoMonitorWindow edges) := rfl
theorem holdoverInspecExpiry : Statement .holdoverInspecExpiry := rfl
theorem steerTimeout : Statement .steerTimeout := rfl
theorem levelTimeout (slot : Nat) : Statement (.levelTimeout slot) := rfl
theorem esmcPduTx (port : Nat) : Statement (.esmcPduTx port) := rfl
theorem refConfigureSlot (src : CmdSrc) (enable : Bool) (override : Bool) (esmc : Bool) (slot : Nat) (fNum : Nat) (fDen : Nat) (div : Nat) (edge : Nat) (source : Nat) (prio : Nat) (level : Nat) (acceptLim : Int) (rejectLim : Int) (rejectHold : Nat) (acceptHold : Nat) (hitLim : Nat) (hitBudget : Nat) (coastLim : Nat) : Statement (.refConfigureSlot src enable override esmc slot fNum fDen div edge source prio level acceptLim rejectLim rejectHold acceptHold hitLim hitBudget coastLim) := rfl
theorem refConfigureSelection (src : CmdSrc) (qlMode : Nat) (revert : Nat) (wtr : Nat) (tieLimit : Int) (tieHold : Nat) (freeLevel : Nat) (avgTime : Nat) (guardTime : Nat) (inSpec : Nat) : Statement (.refConfigureSelection src qlMode revert wtr tieLimit tieHold freeLevel avgTime guardTime inSpec) := rfl
theorem refConfigureDpll (src : CmdSrc) (trackBw : Nat) (acqBw : Nat) (slope : Int) (lockThr : Nat) (lossThr : Nat) : Statement (.refConfigureDpll src trackBw acqBw slope lockThr lossThr) := rfl
theorem refCommand (src : CmdSrc) (slot : Nat) (action : Nat) : Statement (.refCommand src slot action) := rfl
theorem refGetSlot (src : CmdSrc) (slot : Nat) : Statement (.refGetSlot src slot) := rfl
theorem refGetDpll (src : CmdSrc) : Statement (.refGetDpll src) := rfl
theorem refSteer (src : CmdSrc) (action : Nat) (value : Int) (timeout : Nat) (level : Nat) : Statement (.refSteer src action value timeout level) := rfl
theorem refConfigurePpsOut (src : CmdSrc) (enable : Bool) (output : Nat) (offset : Int) (width : Nat) (slew : Nat) (squelch : Nat) : Statement (.refConfigurePpsOut src enable output offset width slew squelch) := rfl
theorem refConfigureClkout (src : CmdSrc) (enable : Bool) (output : Nat) (fNum : Nat) (fDen : Nat) (mode : Nat) (offset : Int) (slew : Nat) (swing : Nat) (squelch : Nat) : Statement (.refConfigureClkout src enable output fNum fDen mode offset slew swing squelch) := rfl
theorem refGetClkout (src : CmdSrc) (output : Nat) : Statement (.refGetClkout src output) := rfl
theorem ppsOutPulse (output : Nat) : Statement (.ppsOutPulse output) := rfl
theorem timeSet (src : CmdSrc) (target : KTime) : Statement (.timeSet src target) := rfl
theorem timeStep (src : CmdSrc) (ns : Int) (sub : Nat) : Statement (.timeStep src ns sub) := rfl
theorem timeSetRate (src : CmdSrc) (rate : Int) : Statement (.timeSetRate src rate) := rfl
theorem timeSetControl (src : CmdSrc) (control : Nat) : Statement (.timeSetControl src control) := rfl
theorem timeGet (src : CmdSrc) : Statement (.timeGet src) := rfl
theorem timeSetUtc (src : CmdSrc) (leap61 : Bool) (leap59 : Bool) (offset : Nat) : Statement (.timeSetUtc src leap61 leap59 offset) := rfl
theorem secSetStepGuard (src : CmdSrc) (g : Nat) (v : Nat) : Statement (.secSetStepGuard src g v) := rfl
theorem secAuthoriseStep (src : CmdSrc) (direction : Nat) (magnitude : Nat) (validity : Nat) : Statement (.secAuthoriseStep src direction magnitude validity) := rfl
theorem allowanceExpired : Statement .allowanceExpired := rfl
theorem holdEnd : Statement .holdEnd := rfl
theorem take (pf1 : Bool) : Statement (.take pf1) := rfl
theorem tsqStampTimeout (queue : Nat) : Statement (.tsqStampTimeout queue) := rfl
theorem tsqRdCountWrite (queue : Nat) (value : BitVec 32) : Statement (.tsqRdCountWrite queue value) := rfl
theorem ptpConfigureInstance (src : CmdSrc) (enable : Bool) (slaveOnly : Bool) (inst : Nat) (profile : Nat) (domain : Nat) (identity : List Byte) (prio1 : Nat) (prio2 : Nat) (localPrio : Nat) : Statement (.ptpConfigureInstance src enable slaveOnly inst profile domain identity prio1 prio2 localPrio) := rfl
theorem ptpConfigurePort (src : CmdSrc) (masterOnly : Bool) (port : Nat) (inst : Nat) (transport : Nat) (dest : Nat) (addr : Nat) (logSync : Int) (logDelay : Int) (logAnnounce : Int) (annTimeout : Nat) (syncTimeout : Nat) (delayTimeout : Nat) (twoStep : Nat) (localPrio : Nat) (coastLimit : Nat) (maxPath : Nat) (delayOutlier : Nat) (offsetOutlier : Nat) (filterLen : Nat) : Statement (.ptpConfigurePort src masterOnly port inst transport dest addr logSync logDelay logAnnounce annTimeout syncTimeout delayTimeout twoStep localPrio coastLimit maxPath delayOutlier offsetOutlier filterLen) := rfl
theorem ptpGetInstance (src : CmdSrc) (inst : Nat) : Statement (.ptpGetInstance src inst) := rfl
theorem ptpGetPort (src : CmdSrc) (clear : Bool) (port : Nat) : Statement (.ptpGetPort src clear port) := rfl
theorem ptpConfigureTc (src : CmdSrc) (mode : Nat) (domains : BitVec 256) : Statement (.ptpConfigureTc src mode domains) := rfl
theorem servoConfigure (src : CmdSrc) (mode : Nat) (slot : Nat) (bandwidth : Nat) (maxSlew : Int) (stepThr : Nat) (lockThr : Nat) (ppsOffset : Int) : Statement (.servoConfigure src mode slot bandwidth maxSlew stepThr lockThr ppsOffset) := rfl
theorem servoGet (src : CmdSrc) : Statement (.servoGet src) := rfl
theorem asymConfigure (src : CmdSrc) (port : Nat) (mode : Nat) (c : Int) (alpha : Int) (partner : Nat) (lambdaOut : Nat) (lambdaIn : Nat) (k : Int) (avg : Nat) (qLimit : Nat) (coast : Nat) (agree : Nat) : Statement (.asymConfigure src port mode c alpha partner lambdaOut lambdaIn k avg qLimit coast agree) := rfl
theorem asymGet (src : CmdSrc) (port : Nat) : Statement (.asymGet src port) := rfl
theorem ptpMessageRx (port : Nat) (msg : PtpRx) : Statement (.ptpMessageRx port msg) := rfl
theorem ptpMessageTx (port : Nat) (kind : PtpType) (tick : Nat) (sub : Nat) : Statement (.ptpMessageTx port kind tick sub) := rfl
theorem announceReceiptTimeout (inst : Nat) : Statement (.announceReceiptTimeout inst) := rfl
theorem syncReceiptTimeout (inst : Nat) : Statement (.syncReceiptTimeout inst) := rfl
theorem delayResponseTimeout (port : Nat) : Statement (.delayResponseTimeout port) := rfl
theorem delayCoastExpiry (slot : Nat) : Statement (.delayCoastExpiry slot) := rfl
theorem asymFallback (port : Nat) : Statement (.asymFallback port) := rfl
theorem mclkConfigureChannel (src : CmdSrc) (enable : Bool) (chan : Nat) (source : Nat) (sourceIdx : Nat) (selector : Nat) (fNum : Nat) (fDen : Nat) (freqLim : Int) (hitLim : Nat) (actLim : Nat) (coastLim : Nat) (bandwidth : Nat) (orbitLen : Nat) (marker : Nat) (markerIdx : Nat) (markOffset : Int) (frameLen : Nat) : Statement (.mclkConfigureChannel src enable chan source sourceIdx selector fNum fDen freqLim hitLim actLim coastLim bandwidth orbitLen marker markerIdx markOffset frameLen) := rfl
theorem mclkConfigureOutput (src : CmdSrc) (squelch : Bool) (output : Nat) (chan : Nat) (mode : Nat) (m : Nat) (d : Nat) (offset : Int) (slewLim : Int) (w : Nat) (swing : Nat) : Statement (.mclkConfigureOutput src squelch output chan mode m d offset slewLim w swing) := rfl
theorem mclkGet (src : CmdSrc) (chan : Nat) : Statement (.mclkGet src chan) := rfl
theorem mclkSetOrbit (src : CmdSrc) (given : Bool) (chan : Nat) (t : KTime) (bunch : Nat) (orbit : Nat) : Statement (.mclkSetOrbit src given chan t bunch orbit) := rfl
theorem stitchConfigureGroup (src : CmdSrc) (group : Nat) (action : Nat) (mask : BitVec 256) (port : Nat) : Statement (.stitchConfigureGroup src group action mask port) := rfl
theorem stitchConfigureTrigger (src : CmdSrc) (enable : Bool) (seqReset : Bool) (source : Nat) (channel : Nat) (kind : Nat) (target : Nat) (spacing : Nat) (seq : Nat) : Statement (.stitchConfigureTrigger src enable seqReset source channel kind target spacing seq) := rfl
theorem stitchConfigureBroadcast (src : CmdSrc) (chan : Nat) (phaseTarget : Nat) (setInterval : Nat) (bcnTarget : Nat) (bcnInterval : Nat) : Statement (.stitchConfigureBroadcast src chan phaseTarget setInterval bcnTarget bcnInterval) := rfl
theorem stitchConfigurePort (src : CmdSrc) (compensate : Bool) (rxLog : Bool) (port : Nat) (relayTrig : Nat) (relayTimed : Nat) (relayUser : Nat) (errThr : Nat) : Statement (.stitchConfigurePort src compensate rxLog port relayTrig relayTimed relayUser errThr) := rfl
theorem stitchSend (src : CmdSrc) (type : Nat) (target : Nat) (payload : Nat) : Statement (.stitchSend src type target payload) := rfl
theorem stitchSendTimed (src : CmdSrc) (target : Nat) (code : Nat) (e : KTime) (lead : Nat) (r : Nat) : Statement (.stitchSendTimed src target code e lead r) := rfl
theorem stitchCancelTimed (src : CmdSrc) (handle : Nat) : Statement (.stitchCancelTimed src handle) := rfl
theorem stitchGetPort (src : CmdSrc) (clear : Bool) (port : Nat) : Statement (.stitchGetPort src clear port) := rfl
theorem stitchGetSequencer (src : CmdSrc) (clear : Bool) : Statement (.stitchGetSequencer src clear) := rfl
theorem timedStitchReady : Statement .timedStitchReady := rfl
theorem phaseSetIssue (chan : Nat) : Statement (.phaseSetIssue chan) := rfl
theorem bcnIssue (chan : Nat) : Statement (.bcnIssue chan) := rfl
theorem markerEdge (chan : Nat) : Statement (.markerEdge chan) := rfl
theorem markerLost (chan : Nat) : Statement (.markerLost chan) := rfl
theorem mcActivityTimeout (chan : Nat) : Statement (.mcActivityTimeout chan) := rfl
theorem mcCoastLimit (chan : Nat) : Statement (.mcCoastLimit chan) := rfl
theorem parseConfigurePort (src : CmdSrc) (trustPcp : Bool) (trustDscp : Bool) (port : Nat) (malformed : Nat) (lenConflict : Nat) (profile : Nat) (pcpMap : Nat) (dscpMap : Nat) (defClass : Nat) : Statement (.parseConfigurePort src trustPcp trustDscp port malformed lenConflict profile pcpMap dscpMap defClass) := rfl
theorem parseConfigureExtract (src : CmdSrc) (enable0 : Bool) (enable1 : Bool) (profile : Nat) (cond0 : Nat) (anchor0 : Nat) (offset0 : Nat) (width0 : Nat) (cond1 : Nat) (anchor1 : Nat) (offset1 : Nat) (width1 : Nat) : Statement (.parseConfigureExtract src enable0 enable1 profile cond0 anchor0 offset0 width0 cond1 anchor1 offset1 width1) := rfl
theorem aclStage (src : CmdSrc) (part : Nat) (bytes : List Byte) : Statement (.aclStage src part bytes) := rfl
theorem aclCommit (src : CmdSrc) (copy : Bool) (capture : Bool) (setClass : Bool) (steer : Bool) (redirect : Bool) (entry : Nat) (kind : Nat) (tc : Nat) (profile : Nat) (port : Nat) : Statement (.aclCommit src copy capture setClass steer redirect entry kind tc profile port) := rfl
theorem aclDelete (src : CmdSrc) (entry : Nat) : Statement (.aclDelete src entry) := rfl
theorem aclRead (src : CmdSrc) (clear : Bool) (entry : Nat) (part : Nat) : Statement (.aclRead src clear entry part) := rfl
theorem steerConfigureProfile (src : CmdSrc) (symmetric : Bool) (profile : Nat) (mode : Nat) (fields : Nat) (seed : Nat) (field : Nat) (sh : Nat) (m : Nat) (b : Nat) (absent : Nat) : Statement (.steerConfigureProfile src symmetric profile mode fields seed field sh m b absent) := rfl
theorem steerWrite (src : CmdSrc) (table : Nat) (first : Nat) (count : Nat) (entries : List Nat) : Statement (.steerWrite src table first count entries) := rfl
theorem steerRead (src : CmdSrc) (table : Nat) (first : Nat) (count : Nat) : Statement (.steerRead src table first count) := rfl
theorem slowConfigure (src : CmdSrc) (reason : Nat) (rate : Nat) (burst : Nat) : Statement (.slowConfigure src reason rate burst) := rfl
theorem parseGetCounts (src : CmdSrc) (clear : Bool) (port : Nat) : Statement (.parseGetCounts src clear port) := rfl
theorem classSetMap (src : CmdSrc) (kind : Nat) (map : Nat) (first : Nat) (count : Nat) (classes : List Nat) : Statement (.classSetMap src kind map first count classes) := rfl
theorem parseWindowClose (port : Nat) (bytes : List Byte) (ended : Bool) (taps : Nat) (symbols : Nat) (tick : Nat) : Statement (.parseWindowClose port bytes ended taps symbols tick) := rfl
theorem admissionDecision (frame : Nat) : Statement (.admissionDecision frame) := rfl
theorem frameEnd (frame : Nat) (bytes : List Byte) (tick : Nat) : Statement (.frameEnd frame bytes tick) := rfl
theorem cellSlot : Statement .cellSlot := rfl
theorem egressFrameBoundary (port : Nat) (tick : Nat) (sub : Nat) : Statement (.egressFrameBoundary port tick sub) := rfl
theorem copySent (port : Nat) (tick : Nat) : Statement (.copySent port tick) := rfl
theorem spillBurst : Statement .spillBurst := rfl
theorem returnBurst : Statement .returnBurst := rfl
theorem skeinInitDone (pass : Bool) : Statement (.skeinInitDone pass) := rfl
theorem skeinCellError (copy : Nat) (fixed : Bool) : Statement (.skeinCellError copy fixed) := rfl
theorem skeinFault : Statement .skeinFault := rfl
theorem cellEccError (copies : List Nat) (location : Nat) (fixed : Bool) : Statement (.cellEccError copies location fixed) := rfl
theorem queueFlushed (tile : Nat) (port : Nat) (cls : Nat) (egress : Bool) : Statement (.queueFlushed tile port cls egress) := rfl
theorem bufferConfigureClass (src : CmdSrc) (cls : Nat) (cl : Nat) (spillOn : Nat) (returnLow : Nat) : Statement (.bufferConfigureClass src cls cl spillOn returnLow) := rfl
theorem queueConfigure (src : CmdSrc) (port : Nat) (cls : Nat) (ql : Nat) (weight : Nat) : Statement (.queueConfigure src port cls ql weight) := rfl
theorem portConfigureEgress (src : CmdSrc) (cut : Bool) (port : Nat) (limit : Nat) : Statement (.portConfigureEgress src cut port limit) := rfl
theorem skeinConfigure (src : CmdSrc) (spill : Bool) (cls : Nat) : Statement (.skeinConfigure src spill cls) := rfl
theorem skeinGetStatus (src : CmdSrc) (clear : Bool) : Statement (.skeinGetStatus src clear) := rfl
theorem coreGetQueue (src : CmdSrc) (clear : Bool) (port : Nat) (cls : Nat) : Statement (.coreGetQueue src clear port cls) := rfl
theorem bufferGetStatus (src : CmdSrc) : Statement (.bufferGetStatus src) := rfl
theorem captureConfigure (src : CmdSrc) (enable : Bool) (trigger : Nat) (snap : Nat) (port : Nat) (k : Nat) (mask : BitVec 256) : Statement (.captureConfigure src enable trigger snap port k mask) := rfl
theorem capRdCountWrite (value : BitVec 32) : Statement (.capRdCountWrite value) := rfl
theorem capTimeout : Statement .capTimeout := rfl
theorem classSetKind (src : CmdSrc) (port : Nat) (cls : Nat) (kind : Nat) : Statement (.classSetKind src port cls kind) := rfl
theorem contractSet (src : CmdSrc) (replace : Bool) (port : Nat) (cls : Nat) (lMax : Nat) (rate : Nat) (burst : Nat) (fmax : Nat) (mask : BitVec 256) : Statement (.contractSet src replace port cls lMax rate burst fmax mask) := rfl
theorem contractDelete (src : CmdSrc) (port : Nat) (cls : Nat) : Statement (.contractDelete src port cls) := rfl
theorem contractCheck (src : CmdSrc) (replace : Bool) (port : Nat) (cls : Nat) (lMax : Nat) (rate : Nat) (burst : Nat) (fmax : Nat) (mask : BitVec 256) : Statement (.contractCheck src replace port cls lMax rate burst fmax mask) := rfl
theorem contractGet (src : CmdSrc) (clear : Bool) (port : Nat) (cls : Nat) : Statement (.contractGet src clear port cls) := rfl
theorem guaranteedPoolSet (src : CmdSrc) (size : Nat) : Statement (.guaranteedPoolSet src size) := rfl
theorem contractDrained (port : Nat) (cls : Nat) : Statement (.contractDrained port cls) := rfl
theorem vlanConfigure (src : CmdSrc) (enable : Bool) (l3 : Bool) (vid : Nat) (members : BitVec 256) (untagged : BitVec 256) (unknown : Nat) (floodMgid : Nat) (rmac : Nat) : Statement (.vlanConfigure src enable l3 vid members untagged unknown floodMgid rmac) := rfl
theorem portSetPvid (src : CmdSrc) (port : Nat) (pvid : Nat) : Statement (.portSetPvid src port pvid) := rfl
theorem routerMacSet (src : CmdSrc) (index : Nat) (mac : Nat) : Statement (.routerMacSet src index mac) := rfl
theorem l2Add (src : CmdSrc) (replace : Bool) (vid : Nat) (da : Nat) (result : Nat) : Statement (.l2Add src replace vid da result) := rfl
theorem l2Delete (src : CmdSrc) (vid : Nat) (da : Nat) : Statement (.l2Delete src vid da) := rfl
theorem nhWrite (src : CmdSrc) (decTtl : Bool) (nh : Nat) (port : Nat) (vid : Nat) (da : Nat) (rmac : Nat) : Statement (.nhWrite src decTtl nh port vid da rmac) := rfl
theorem nhDelete (src : CmdSrc) (nh : Nat) : Statement (.nhDelete src nh) := rfl
theorem hostAdd (src : CmdSrc) (replace : Bool) (family : Nat) (addr : Nat) (result : Nat) : Statement (.hostAdd src replace family addr result) := rfl
theorem hostDelete (src : CmdSrc) (family : Nat) (addr : Nat) : Statement (.hostDelete src family addr) := rfl
theorem lpmAdd (src : CmdSrc) (replace : Bool) (family : Nat) (pfx : Nat) (length : Nat) (result : Nat) : Statement (.lpmAdd src replace family pfx length result) := rfl
theorem lpmDelete (src : CmdSrc) (family : Nat) (pfx : Nat) (length : Nat) : Statement (.lpmDelete src family pfx length) := rfl
theorem memberStage (src : CmdSrc) (first : Nat) (count : Nat) (members : List Member) : Statement (.memberStage src first count members) := rfl
theorem ecmpCommit (src : CmdSrc) (group : Nat) (count : Nat) (profile : Nat) : Statement (.ecmpCommit src group count profile) := rfl
theorem ecmpDelete (src : CmdSrc) (group : Nat) : Statement (.ecmpDelete src group) := rfl
theorem mcastCommit (src : CmdSrc) (aon : Bool) (prune : Bool) (mgid : Nat) (count : Nat) : Statement (.mcastCommit src aon prune mgid count) := rfl
theorem tableLookup (src : CmdSrc) (table : Nat) (key : List Byte) : Statement (.tableLookup src table key) := rfl
theorem tableReadIndex (src : CmdSrc) (table : Nat) (location : Nat) : Statement (.tableReadIndex src table location) := rfl
theorem tableClearLost (src : CmdSrc) (table : Nat) (location : Nat) : Statement (.tableClearLost src table location) := rfl
theorem tableGetUsage (src : CmdSrc) (clear : Bool) : Statement (.tableGetUsage src clear) := rfl
theorem tableScrub (table : Nat) (location : Nat) (fixed : Bool) (keyOk : Bool) : Statement (.tableScrub table location fixed keyOk) := rfl
theorem tableRebuilt (table : Nat) (location : Nat) : Statement (.tableRebuilt table location) := rfl
theorem aclScrub (failing : List Nat) : Statement (.aclScrub failing) := rfl
theorem pairConfigure (src : CmdSrc) (enable : Bool) (cycle : Nat) (lead : Nat) (commitTimeout : Nat) (joinTimeout : Nat) (watchdog : Nat) (skewGuard : Nat) (window : Nat) (chunkAge : Nat) (closeTimeout : Nat) (outcomeTimeout : Nat) (etherType : Nat) (plAsym : Int) : Statement (.pairConfigure src enable cycle lead commitTimeout joinTimeout watchdog skewGuard window chunkAge closeTimeout outcomeTimeout etherType plAsym) := rfl
theorem pairConfigurePort (src : CmdSrc) (port : Nat) (attach : Nat) (source : Nat) (base : Nat) (count : Nat) (untagged : Nat) : Statement (.pairConfigurePort src port attach source base count untagged) := rfl
theorem pairGetStatus (src : CmdSrc) (clear : Bool) : Statement (.pairGetStatus src clear) := rfl
theorem pairSwitchover (src : CmdSrc) : Statement (.pairSwitchover src) := rfl
theorem pairResync (src : CmdSrc) : Statement (.pairResync src) := rfl
theorem pairTest (src : CmdSrc) (duration : Nat) : Statement (.pairTest src duration) := rfl
theorem pairGetDigest (src : CmdSrc) (clear : Bool) (source : Nat) : Statement (.pairGetDigest src clear source) := rfl
theorem pairGetDup (src : CmdSrc) (source : Nat) : Statement (.pairGetDup src source) := rfl
theorem partnerHello (strap : Bool) (epoch : Nat) (order : Nat) (stepping : Nat) : Statement (.partnerHello strap epoch order stepping) := rfl
theorem joinTimeout : Statement .joinTimeout := rfl
theorem pairAliveEdge (cycle : Nat) (stable : Nat) : Statement (.pairAliveEdge cycle stable) := rfl
theorem heartbeatLost : Statement .heartbeatLost := rfl
theorem pairAliveToggle : Statement .pairAliveToggle := rfl
theorem pairWatchdogExpiry : Statement .pairWatchdogExpiry := rfl
theorem plSilent : Statement .plSilent := rfl
theorem keepaliveTx : Statement .keepaliveTx := rfl
theorem healthReportTx : Statement .healthReportTx := rfl
theorem healthReportRx (bytes : List Byte) : Statement (.healthReportRx bytes) := rfl
theorem healthLost : Statement .healthLost := rfl
theorem timeProbe (t1 : Int) (t2 : Int) (t3 : Int) (t4 : Int) (partner : Int) : Statement (.timeProbe t1 t2 t3 t4 partner) := rfl
theorem alignTickStart (edge : Nat) : Statement (.alignTickStart edge) := rfl
theorem lifelineCycleEnd : Statement .lifelineCycleEnd := rfl
theorem commitMarkerRx (cycle : Nat) (applyAt : Nat) (crcOk : Bool) (journal : List RawCmd) : Statement (.commitMarkerRx cycle applyAt crcOk journal) := rfl
theorem lifelineAckRx (cycle : Nat) : Statement (.lifelineAckRx cycle) := rfl
theorem lifelineNackRx (cycle : Nat) : Statement (.lifelineNackRx cycle) := rfl
theorem lifelineConfirmRx (cycle : Nat) : Statement (.lifelineConfirmRx cycle) := rfl
theorem lifelineApply : Statement .lifelineApply := rfl
theorem commitTimeout : Statement .commitTimeout := rfl
theorem xfeedCopyRx (cross : Bool) (port : Nat) (source : Nat) (seq : Nat) (egress : Nat) (bytes : List Byte) (tick : Nat) (sub : Nat) (stale : Bool) (coast : Bool) (kSec : Nat) (kSub : Nat) : Statement (.xfeedCopyRx cross port source seq egress bytes tick sub stale coast kSec kSub) := rfl
theorem dupEntryExpiry (source : Nat) : Statement (.dupEntryExpiry source) := rfl
theorem digestBlockClose (source : Nat) (block : Nat) : Statement (.digestBlockClose source block) := rfl
theorem digestOutcomeTimeout (source : Nat) (block : Nat) : Statement (.digestOutcomeTimeout source block) := rfl
theorem digestRecordRx (source : Nat) (block : Nat) (part : DigestPart) : Statement (.digestRecordRx source block part) := rfl
theorem selfTest (test : Nat) (pass : Bool) : Statement (.selfTest test pass) := rfl
theorem secChallenge (src : CmdSrc) (role : Nat) (level : Nat) : Statement (.secChallenge src role level) := rfl
theorem secResponse (src : CmdSrc) (part : Nat) (bytes : List Byte) : Statement (.secResponse src part bytes) := rfl
theorem secClose (src : CmdSrc) : Statement (.secClose src) := rfl
theorem secDebugLock (src : CmdSrc) : Statement (.secDebugLock src) := rfl
theorem secRevokeKey (src : CmdSrc) (slot : Nat) : Statement (.secRevokeKey src slot) := rfl
theorem secSetMinVersion (src : CmdSrc) (minimum : Nat) : Statement (.secSetMinVersion src minimum) := rfl
theorem secGetStatus (src : CmdSrc) : Statement (.secGetStatus src) := rfl
theorem sessionExpiry : Statement .sessionExpiry := rfl
theorem watchdog (core : Nat) : Statement (.watchdog core) := rfl
theorem firewallFault (core : Nat) (addr : Nat) : Statement (.firewallFault core addr) := rfl
theorem coreRestart (core : Nat) : Statement (.coreRestart core) := rfl
theorem keeperLockstep : Statement .keeperLockstep := rfl
theorem sharedSramError (what : SramWhat) (arg : Nat) : Statement (.sharedSramError what arg) := rfl
theorem mailboxFetch (mb : Nat) (entry : List Byte) (ext : List Byte) : Statement (.mailboxFetch mb entry ext) := rfl
theorem mbFault (mb : Nat) (extension : Bool) : Statement (.mbFault mb extension) := rfl
theorem submitCountWrite (mb : Nat) (value : BitVec 32) : Statement (.submitCountWrite mb value) := rfl
theorem respRdCountWrite (mb : Nat) (value : BitVec 32) : Statement (.respRdCountWrite mb value) := rfl
theorem mailboxEnableSet (mb : Nat) : Statement (.mailboxEnableSet mb) := rfl
theorem mailboxEnableClear (mb : Nat) : Statement (.mailboxEnableClear mb) := rfl
theorem mailboxDrained (mb : Nat) : Statement (.mailboxDrained mb) := rfl
theorem mailboxReset (mb : Nat) : Statement (.mailboxReset mb) := rfl
theorem abortAll (mb : Nat) : Statement (.abortAll mb) := rfl
theorem abortPos (mb : Nat) (pos : BitVec 32) : Statement (.abortPos mb pos) := rfl
theorem commandTimeout (mb : Nat) : Statement (.commandTimeout mb) := rfl
theorem pf0FunctionLevelReset : Statement .pf0FunctionLevelReset := rfl
theorem pf1FunctionLevelReset : Statement .pf1FunctionLevelReset := rfl
theorem hotReset : Statement .hotReset := rfl
theorem busMasterEnable (on : Bool) : Statement (.busMasterEnable on) := rfl
theorem ctxInject (queue : Nat) : Statement (.ctxInject queue) := rfl
theorem ctxReset (value : BitVec 32) : Statement (.ctxReset value) := rfl
theorem slowPathFrame (index : Nat) : Statement (.slowPathFrame index) := rfl
theorem chainStart (chan : Nat) : Statement (.chainStart chan) := rfl
theorem chainAbort (chan : Nat) : Statement (.chainAbort chan) := rfl
theorem chainMove (chan : Nat) (instr : List Byte) : Statement (.chainMove chan instr) := rfl
theorem dmaBurst (chan : Nat) (data : List Byte) : Statement (.dmaBurst chan data) := rfl
theorem chainLoop (chan : Nat) (instr : List Byte) : Statement (.chainLoop chan instr) := rfl
theorem chainWait (chan : Nat) (instr : List Byte) : Statement (.chainWait chan instr) := rfl
theorem waitConditionMet (chan : Nat) : Statement (.waitConditionMet chan) := rfl
theorem waitTimeout (chan : Nat) : Statement (.waitTimeout chan) := rfl
theorem chainSignal (chan : Nat) (instr : List Byte) : Statement (.chainSignal chan instr) := rfl
theorem chainEnd (chan : Nat) (instr : List Byte) : Statement (.chainEnd chan instr) := rfl
theorem cqRoom (chan : Nat) : Statement (.cqRoom chan) := rfl
theorem cqRdCountWrite (chan : Nat) (value : BitVec 32) : Statement (.cqRdCountWrite chan value) := rfl
theorem dmaWatchdogExpiry (chan : Nat) : Statement (.dmaWatchdogExpiry chan) := rfl
theorem budgetExhausted (chan : Nat) : Statement (.budgetExhausted chan) := rfl
theorem dmaPcieError (chan : Nat) (timeout : Bool) : Statement (.dmaPcieError chan timeout) := rfl
theorem vectorTimerExpiry (vec : Nat) : Statement (.vectorTimerExpiry vec) := rfl
theorem msixMessageSend (vec : Nat) : Statement (.msixMessageSend vec) := rfl
theorem maskWrite (reg : Nat) (value : BitVec 32) : Statement (.maskWrite reg value) := rfl
theorem vecCtrlWrite (vec : Nat) (value : BitVec 32) : Statement (.vecCtrlWrite vec value) := rfl
theorem logRdCountWrite (value : BitVec 32) : Statement (.logRdCountWrite value) := rfl
theorem snapNow : Statement .snapNow := rfl
theorem snapAtFence : Statement .snapAtFence := rfl
theorem snapDone : Statement .snapDone := rfl
theorem counterClear (src : CmdSrc) (block : Nat) (first : Nat) (count : Nat) : Statement (.counterClear src block first count) := rfl
theorem eventInject (src : CmdSrc) (source : Nat) (cause : Nat) (data : List Byte) : Statement (.eventInject src source cause data) := rfl
theorem readClearField (win : Win) (req : ReadReq) : Statement (.readClearField win req) := rfl
theorem registerWrite (win : Win) (offset : Nat) (data : List (Option Byte)) : Statement (.registerWrite win offset data) := rfl
theorem coldReset (low : Nat) : Statement (.coldReset low) := rfl
theorem supplyFault (supply : Nat) : Statement (.supplyFault supply) := rfl
theorem supplyRestored (supply : Nat) : Statement (.supplyRestored supply) := rfl
theorem thermtrip (sensor : Nat) : Statement (.thermtrip sensor) := rfl
theorem sensorConversion (sensor : Nat) (value : Int) : Statement (.sensorConversion sensor value) := rfl
theorem sensorConversionTimeout (sensor : Nat) : Statement (.sensorConversionTimeout sensor) := rfl
theorem sensorRecovered (sensor : Nat) : Statement (.sensorRecovered sensor) := rfl
theorem romCheck (ok : Bool) (order : Nat) (serial : Nat) (strap : Bool) (hashes : List (Nat × List Byte)) (fullDebug : Bool) : Statement (.romCheck ok order serial strap hashes fullDebug) := rfl
theorem flashReadDone (a : Option (List Byte)) (b : Option (List Byte)) : Statement (.flashReadDone a b) := rfl
theorem rootLock : Statement .rootLock := rfl
theorem rootLockTimeout : Statement .rootLockTimeout := rfl
theorem coreLoadDone : Statement .coreLoadDone := rfl
theorem bootConfigDone : Statement .bootConfigDone := rfl
theorem ospiReadId : Statement .ospiReadId := rfl
theorem ospiReadStatus : Statement .ospiReadStatus := rfl
theorem ospiReadSensors : Statement .ospiReadSensors := rfl
theorem recoveryErase : Statement .recoveryErase := rfl
theorem recoveryEraseDone : Statement .recoveryEraseDone := rfl
theorem recoveryWrite (offset : Nat) (bytes : List Byte) : Statement (.recoveryWrite offset bytes) := rfl
theorem recoveryCommit : Statement .recoveryCommit := rfl
theorem ospiReset (opcode : Nat) (kind : Nat) : Statement (.ospiReset opcode kind) := rfl
theorem ospiCsTimeout : Statement .ospiCsTimeout := rfl
theorem clkoutAligned (output : Nat) : Statement (.clkoutAligned output) := rfl
theorem orbitStart (chan : Nat) : Statement (.orbitStart chan) := rfl
theorem pairTestEnd : Statement .pairTestEnd := rfl
theorem keeperRestartDone : Statement .keeperRestartDone := rfl
theorem inputRecovered (input : Nat) (level : Bool) : Statement (.inputRecovered input level) := rfl
theorem debugTapInstruction (instr : TapInstr) : Statement (.debugTapInstruction instr) := rfl

end Laws.Mnemonics

end Sys2Proof
end

