-- ==== Sys2Proof/Laws/Queue.lean ====
section
/-!
SUPPORT. No command touches the queue of waiting commands: the step alone takes from it.
-/
namespace Sys2Proof.Machine

/-- Every part of the state but the queue and what drives the block from outside. -/
def blockParts : List Part :=
  [.clock, .free, .cmd, .hostMem, .fuses, .glob, .chan, .lanes, .ports, .modules, .selv, .tdc, .gauge, .ref, .time, .ptp, .stitch, .parse,
   .fwd, .core, .contracts, .pair, .fw, .mbs, .fence, .events, .stats, .power, .host]

theorem exec_keeps_queue (i : Instr) (s : State) : Out.keeps blockParts s (exec i s) := by
  cases i with
  | nop => exact execNop_on (.refl _ _) (by decide)
  | fence => exact execFence_on (.refl _ _) (by decide)
  | fenceMarkerWrite => exact execFenceMarkerWrite_on (.refl _ _) (by decide)
  | sysPowerDomain => exact execSysPowerDomain_on (.refl _ _) (by decide)
  | sysGetStatus => exact execSysGetStatus_on (.refl _ _) (by decide)
  | sysSetBoard => exact execSysSetBoard_on (.refl _ _) (by decide)
  | sysReset => exact execSysReset_on (.refl _ _) (by decide)
  | resetStart => exact execResetStart_on (.refl _ _) (by decide)
  | sysGetPower => exact execSysGetPower_on (.refl _ _) (by decide)
  | sysGetThermal => exact execSysGetThermal_on (.refl _ _) (by decide)
  | sysConfigureThermal => exact execSysConfigureThermal_on (.refl _ _) (by decide)
  | sysSetSensor => exact execSysSetSensor_on (.refl _ _) (by decide)
  | imgLoad => exact execImgLoad_on (.refl _ _) (by decide)
  | imgValidate => exact execImgValidate_on (.refl _ _) (by decide)
  | imgArm => exact execImgArm_on (.refl _ _) (by decide)
  | imgDisarm => exact execImgDisarm_on (.refl _ _) (by decide)
  | imgGetStatus => exact execImgGetStatus_on (.refl _ _) (by decide)
  | imgErase => exact execImgErase_on (.refl _ _) (by decide)
  | overlaySwitch => exact execOverlaySwitch_on (.refl _ _) (by decide)
  | portConfigure => exact execPortConfigure_on (.refl _ _) (by decide)
  | portCastOn => exact execPortCastOn_on (.refl _ _) (by decide)
  | portBindOff => exact execPortBindOff_on (.refl _ _) (by decide)
  | portSetPolicy => exact execPortSetPolicy_on (.refl _ _) (by decide)
  | laneGetStatus => exact execLaneGetStatus_on (.refl _ _) (by decide)
  | laneGetLatency => exact execLaneGetLatency_on (.refl _ _) (by decide)
  | laneSetChannelTable => exact execLaneSetChannelTable_on (.refl _ _) (by decide)
  | laneRelatch => exact execLaneRelatch_on (.refl _ _) (by decide)
  | laneSwatch => exact execLaneSwatch_on (.refl _ _) (by decide)
  | swatchLock => exact execSwatchLock_on (.refl _ _) (by decide)
  | swatchLoss => exact execSwatchLoss_on (.refl _ _) (by decide)
  | laneSweep => exact execLaneSweep_on (.refl _ _) (by decide)
  | sweepDone => exact execSweepDone_on (.refl _ _) (by decide)
  | laneSweepRead => exact execLaneSweepRead_on (.refl _ _) (by decide)
  | selvedgeConfigure => exact execSelvedgeConfigure_on (.refl _ _) (by decide)
  | selvedgeGetRange => exact execSelvedgeGetRange_on (.refl _ _) (by decide)
  | moduleRead => exact execModuleRead_on (.refl _ _) (by decide)
  | moduleWrite => exact execModuleWrite_on (.refl _ _) (by decide)
  | laneLocked => exact execLaneLocked_on (.refl _ _) (by decide)
  | castOnTimerExpiry => exact execCastOnTimerExpiry_on (.refl _ _) (by decide)
  | provingWindowEnd => exact execProvingWindowEnd_on (.refl _ _) (by decide)
  | los => exact execLos_on (.refl _ _) (by decide)
  | lockLoss => exact execLockLoss_on (.refl _ _) (by decide)
  | freqRange => exact execFreqRange_on (.refl _ _) (by decide)
  | holdDownExpiry => exact execHoldDownExpiry_on (.refl _ _) (by decide)
  | egressQueuesEmpty => exact execEgressQueuesEmpty_on (.refl _ _) (by decide)
  | drainTimeout => exact execDrainTimeout_on (.refl _ _) (by decide)
  | bindOffLingerEnd => exact execBindOffLingerEnd_on (.refl _ _) (by decide)
  | sgpioFrame => exact execSgpioFrame_on (.refl _ _) (by decide)
  | sgpioStall => exact execSgpioStall_on (.refl _ _) (by decide)
  | stitchBlockRx => exact execStitchBlockRx_on (.refl _ _) (by decide)
  | rangeTimeout => exact execRangeTimeout_on (.refl _ _) (by decide)
  | stitchSlot => exact execStitchSlot_on (.refl _ _) (by decide)
  | stitchArrival => exact execStitchArrival_on (.refl _ _) (by decide)
  | stitchReady => exact execStitchReady_on (.refl _ _) (by decide)
  | tdcConfigureEvt => exact execTdcConfigureEvt_on (.refl _ _) (by decide)
  | tdcConfigureGroup => exact execTdcConfigureGroup_on (.refl _ _) (by decide)
  | tdcSetInterval => exact execTdcSetInterval_on (.refl _ _) (by decide)
  | tdcGetChannel => exact execTdcGetChannel_on (.refl _ _) (by decide)
  | tdcGetLane => exact execTdcGetLane_on (.refl _ _) (by decide)
  | tdcSetLaneWindow => exact execTdcSetLaneWindow_on (.refl _ _) (by decide)
  | tdcCaptureTap => exact execTdcCaptureTap_on (.refl _ _) (by decide)
  | evtEdge => exact execEvtEdge_on (.refl _ _) (by decide)
  | inputOpen => exact execInputOpen_on (.refl _ _) (by decide)
  | rateWindow => exact execRateWindow_on (.refl _ _) (by decide)
  | silent => exact execSilent_on (.refl _ _) (by decide)
  | tapEdge => exact execTapEdge_on (.refl _ _) (by decide)
  | ringWrite => exact execRingWrite_on (.refl _ _) (by decide)
  | ringTimeout => exact execRingTimeout_on (.refl _ _) (by decide)
  | ringRdCountWrite => exact execRingRdCountWrite_on (.refl _ _) (by decide)
  | gatePinChange => exact execGatePinChange_on (.refl _ _) (by decide)
  | swGateOpen => exact execSwGateOpen_on (.refl _ _) (by decide)
  | swGateClose => exact execSwGateClose_on (.refl _ _) (by decide)
  | gatePulseEnd => exact execGatePulseEnd_on (.refl _ _) (by decide)
  | gateTimeout => exact execGateTimeout_on (.refl _ _) (by decide)
  | intervalResult => exact execIntervalResult_on (.refl _ _) (by decide)
  | gaugeConfigure => exact execGaugeConfigure_on (.refl _ _) (by decide)
  | gaugeRun => exact execGaugeRun_on (.refl _ _) (by decide)
  | gaugeFull => exact execGaugeFull_on (.refl _ _) (by decide)
  | gaugeGetStatus => exact execGaugeGetStatus_on (.refl _ _) (by decide)
  | gaugeRestore => exact execGaugeRestore_on (.refl _ _) (by decide)
  | gaugeHold => exact execGaugeHold_on (.refl _ _) (by decide)
  | gaugeHoldLapse => exact execGaugeHoldLapse_on (.refl _ _) (by decide)
  | stageLoad => exact execStageLoad_on (.refl _ _) (by decide)
  | gaugeRunStart => exact execGaugeRunStart_on (.refl _ _) (by decide)
  | gaugeRunEnd => exact execGaugeRunEnd_on (.refl _ _) (by decide)
  | fullCalibrationDone => exact execFullCalibrationDone_on (.refl _ _) (by decide)
  | gaugePeriodicTimer => exact execGaugePeriodicTimer_on (.refl _ _) (by decide)
  | gaugeTempUnavailable => exact execGaugeTempUnavailable_on (.refl _ _) (by decide)
  | dllUnlock => exact execDllUnlock_on (.refl _ _) (by decide)
  | dllRelock => exact execDllRelock_on (.refl _ _) (by decide)
  | dllRelockTimeout => exact execDllRelockTimeout_on (.refl _ _) (by decide)
  | gaugeCopyCheck => exact execGaugeCopyCheck_on (.refl _ _) (by decide)
  | laneWindowBoundary => exact execLaneWindowBoundary_on (.refl _ _) (by decide)
  | refEdge => exact execRefEdge_on (.refl _ _) (by decide)
  | refActivityTimeout => exact execRefActivityTimeout_on (.refl _ _) (by decide)
  | xoMonitorWindow => exact execXoMonitorWindow_on (.refl _ _) (by decide)
  | holdoverInspecExpiry => exact execHoldoverInspecExpiry_on (.refl _ _) (by decide)
  | steerTimeout => exact execSteerTimeout_on (.refl _ _) (by decide)
  | levelTimeout => exact execLevelTimeout_on (.refl _ _) (by decide)
  | esmcPduTx => exact execEsmcPduTx_on (.refl _ _) (by decide)
  | refConfigureSlot => exact execRefConfigureSlot_on (.refl _ _) (by decide)
  | refConfigureSelection => exact execRefConfigureSelection_on (.refl _ _) (by decide)
  | refConfigureDpll => exact execRefConfigureDpll_on (.refl _ _) (by decide)
  | refCommand => exact execRefCommand_on (.refl _ _) (by decide)
  | refGetSlot => exact execRefGetSlot_on (.refl _ _) (by decide)
  | refGetDpll => exact execRefGetDpll_on (.refl _ _) (by decide)
  | refSteer => exact execRefSteer_on (.refl _ _) (by decide)
  | refConfigurePpsOut => exact execRefConfigurePpsOut_on (.refl _ _) (by decide)
  | refConfigureClkout => exact execRefConfigureClkout_on (.refl _ _) (by decide)
  | refGetClkout => exact execRefGetClkout_on (.refl _ _) (by decide)
  | ppsOutPulse => exact execPpsOutPulse_on (.refl _ _) (by decide)
  | timeSet => exact execTimeSet_on (.refl _ _) (by decide)
  | timeStep => exact execTimeStep_on (.refl _ _) (by decide)
  | timeSetRate => exact execTimeSetRate_on (.refl _ _) (by decide)
  | timeSetControl => exact execTimeSetControl_on (.refl _ _) (by decide)
  | timeGet => exact execTimeGet_on (.refl _ _) (by decide)
  | timeSetUtc => exact execTimeSetUtc_on (.refl _ _) (by decide)
  | secSetStepGuard => exact execSecSetStepGuard_on (.refl _ _) (by decide)
  | secAuthoriseStep => exact execSecAuthoriseStep_on (.refl _ _) (by decide)
  | allowanceExpired => exact execAllowanceExpired_on (.refl _ _) (by decide)
  | holdEnd => exact execHoldEnd_on (.refl _ _) (by decide)
  | take => exact execTake_on (.refl _ _) (by decide)
  | tsqStampTimeout => exact execTsqStampTimeout_on (.refl _ _) (by decide)
  | tsqRdCountWrite => exact execTsqRdCountWrite_on (.refl _ _) (by decide)
  | ptpConfigureInstance => exact execPtpConfigureInstance_on (.refl _ _) (by decide)
  | ptpConfigurePort => exact execPtpConfigurePort_on (.refl _ _) (by decide)
  | ptpGetInstance => exact execPtpGetInstance_on (.refl _ _) (by decide)
  | ptpGetPort => exact execPtpGetPort_on (.refl _ _) (by decide)
  | ptpConfigureTc => exact execPtpConfigureTc_on (.refl _ _) (by decide)
  | servoConfigure => exact execServoConfigure_on (.refl _ _) (by decide)
  | servoGet => exact execServoGet_on (.refl _ _) (by decide)
  | asymConfigure => exact execAsymConfigure_on (.refl _ _) (by decide)
  | asymGet => exact execAsymGet_on (.refl _ _) (by decide)
  | ptpMessageRx => exact execPtpMessageRx_on (.refl _ _) (by decide)
  | ptpMessageTx => exact execPtpMessageTx_on (.refl _ _) (by decide)
  | announceReceiptTimeout => exact execAnnounceReceiptTimeout_on (.refl _ _) (by decide)
  | syncReceiptTimeout => exact execSyncReceiptTimeout_on (.refl _ _) (by decide)
  | delayResponseTimeout => exact execDelayResponseTimeout_on (.refl _ _) (by decide)
  | delayCoastExpiry => exact execDelayCoastExpiry_on (.refl _ _) (by decide)
  | asymFallback => exact execAsymFallback_on (.refl _ _) (by decide)
  | mclkConfigureChannel => exact execMclkConfigureChannel_on (.refl _ _) (by decide)
  | mclkConfigureOutput => exact execMclkConfigureOutput_on (.refl _ _) (by decide)
  | mclkGet => exact execMclkGet_on (.refl _ _) (by decide)
  | mclkSetOrbit => exact execMclkSetOrbit_on (.refl _ _) (by decide)
  | stitchConfigureGroup => exact execStitchConfigureGroup_on (.refl _ _) (by decide)
  | stitchConfigureTrigger => exact execStitchConfigureTrigger_on (.refl _ _) (by decide)
  | stitchConfigureBroadcast => exact execStitchConfigureBroadcast_on (.refl _ _) (by decide)
  | stitchConfigurePort => exact execStitchConfigurePort_on (.refl _ _) (by decide)
  | stitchSend => exact execStitchSend_on (.refl _ _) (by decide)
  | stitchSendTimed => exact execStitchSendTimed_on (.refl _ _) (by decide)
  | stitchCancelTimed => exact execStitchCancelTimed_on (.refl _ _) (by decide)
  | stitchGetPort => exact execStitchGetPort_on (.refl _ _) (by decide)
  | stitchGetSequencer => exact execStitchGetSequencer_on (.refl _ _) (by decide)
  | timedStitchReady => exact execTimedStitchReady_on (.refl _ _) (by decide)
  | phaseSetIssue => exact execPhaseSetIssue_on (.refl _ _) (by decide)
  | bcnIssue => exact execBcnIssue_on (.refl _ _) (by decide)
  | markerEdge => exact execMarkerEdge_on (.refl _ _) (by decide)
  | markerLost => exact execMarkerLost_on (.refl _ _) (by decide)
  | mcActivityTimeout => exact execMcActivityTimeout_on (.refl _ _) (by decide)
  | mcCoastLimit => exact execMcCoastLimit_on (.refl _ _) (by decide)
  | parseConfigurePort => exact execParseConfigurePort_on (.refl _ _) (by decide)
  | parseConfigureExtract => exact execParseConfigureExtract_on (.refl _ _) (by decide)
  | aclStage => exact execAclStage_on (.refl _ _) (by decide)
  | aclCommit => exact execAclCommit_on (.refl _ _) (by decide)
  | aclDelete => exact execAclDelete_on (.refl _ _) (by decide)
  | aclRead => exact execAclRead_on (.refl _ _) (by decide)
  | steerConfigureProfile => exact execSteerConfigureProfile_on (.refl _ _) (by decide)
  | steerWrite => exact execSteerWrite_on (.refl _ _) (by decide)
  | steerRead => exact execSteerRead_on (.refl _ _) (by decide)
  | slowConfigure => exact execSlowConfigure_on (.refl _ _) (by decide)
  | parseGetCounts => exact execParseGetCounts_on (.refl _ _) (by decide)
  | classSetMap => exact execClassSetMap_on (.refl _ _) (by decide)
  | parseWindowClose => exact execParseWindowClose_on (.refl _ _) (by decide)
  | admissionDecision => exact execAdmissionDecision_on (.refl _ _) (by decide)
  | frameEnd => exact execFrameEnd_on (.refl _ _) (by decide)
  | cellSlot => exact execCellSlot_on (.refl _ _) (by decide)
  | egressFrameBoundary => exact execEgressFrameBoundary_on (.refl _ _) (by decide)
  | copySent => exact execCopySent_on (.refl _ _) (by decide)
  | spillBurst => exact execSpillBurst_on (.refl _ _) (by decide)
  | returnBurst => exact execReturnBurst_on (.refl _ _) (by decide)
  | skeinInitDone => exact execSkeinInitDone_on (.refl _ _) (by decide)
  | skeinCellError => exact execSkeinCellError_on (.refl _ _) (by decide)
  | skeinFault => exact execSkeinFault_on (.refl _ _) (by decide)
  | cellEccError => exact execCellEccError_on (.refl _ _) (by decide)
  | queueFlushed => exact execQueueFlushed_on (.refl _ _) (by decide)
  | bufferConfigureClass => exact execBufferConfigureClass_on (.refl _ _) (by decide)
  | queueConfigure => exact execQueueConfigure_on (.refl _ _) (by decide)
  | portConfigureEgress => exact execPortConfigureEgress_on (.refl _ _) (by decide)
  | skeinConfigure => exact execSkeinConfigure_on (.refl _ _) (by decide)
  | skeinGetStatus => exact execSkeinGetStatus_on (.refl _ _) (by decide)
  | coreGetQueue => exact execCoreGetQueue_on (.refl _ _) (by decide)
  | bufferGetStatus => exact execBufferGetStatus_on (.refl _ _) (by decide)
  | captureConfigure => exact execCaptureConfigure_on (.refl _ _) (by decide)
  | capRdCountWrite => exact execCapRdCountWrite_on (.refl _ _) (by decide)
  | capTimeout => exact execCapTimeout_on (.refl _ _) (by decide)
  | classSetKind => exact execClassSetKind_on (.refl _ _) (by decide)
  | contractSet => exact execContractSet_on (.refl _ _) (by decide)
  | contractDelete => exact execContractDelete_on (.refl _ _) (by decide)
  | contractCheck => exact execContractCheck_on (.refl _ _) (by decide)
  | contractGet => exact execContractGet_on (.refl _ _) (by decide)
  | guaranteedPoolSet => exact execGuaranteedPoolSet_on (.refl _ _) (by decide)
  | contractDrained => exact execContractDrained_on (.refl _ _) (by decide)
  | vlanConfigure => exact execVlanConfigure_on (.refl _ _) (by decide)
  | portSetPvid => exact execPortSetPvid_on (.refl _ _) (by decide)
  | routerMacSet => exact execRouterMacSet_on (.refl _ _) (by decide)
  | l2Add => exact execL2Add_on (.refl _ _) (by decide)
  | l2Delete => exact execL2Delete_on (.refl _ _) (by decide)
  | nhWrite => exact execNhWrite_on (.refl _ _) (by decide)
  | nhDelete => exact execNhDelete_on (.refl _ _) (by decide)
  | hostAdd => exact execHostAdd_on (.refl _ _) (by decide)
  | hostDelete => exact execHostDelete_on (.refl _ _) (by decide)
  | lpmAdd => exact execLpmAdd_on (.refl _ _) (by decide)
  | lpmDelete => exact execLpmDelete_on (.refl _ _) (by decide)
  | memberStage => exact execMemberStage_on (.refl _ _) (by decide)
  | ecmpCommit => exact execEcmpCommit_on (.refl _ _) (by decide)
  | ecmpDelete => exact execEcmpDelete_on (.refl _ _) (by decide)
  | mcastCommit => exact execMcastCommit_on (.refl _ _) (by decide)
  | tableLookup => exact execTableLookup_on (.refl _ _) (by decide)
  | tableReadIndex => exact execTableReadIndex_on (.refl _ _) (by decide)
  | tableClearLost => exact execTableClearLost_on (.refl _ _) (by decide)
  | tableGetUsage => exact execTableGetUsage_on (.refl _ _) (by decide)
  | tableScrub => exact execTableScrub_on (.refl _ _) (by decide)
  | tableRebuilt => exact execTableRebuilt_on (.refl _ _) (by decide)
  | aclScrub => exact execAclScrub_on (.refl _ _) (by decide)
  | pairConfigure => exact execPairConfigure_on (.refl _ _) (by decide)
  | pairConfigurePort => exact execPairConfigurePort_on (.refl _ _) (by decide)
  | pairGetStatus => exact execPairGetStatus_on (.refl _ _) (by decide)
  | pairSwitchover => exact execPairSwitchover_on (.refl _ _) (by decide)
  | pairResync => exact execPairResync_on (.refl _ _) (by decide)
  | pairTest => exact execPairTest_on (.refl _ _) (by decide)
  | pairGetDigest => exact execPairGetDigest_on (.refl _ _) (by decide)
  | pairGetDup => exact execPairGetDup_on (.refl _ _) (by decide)
  | partnerHello => exact execPartnerHello_on (.refl _ _) (by decide)
  | joinTimeout => exact execJoinTimeout_on (.refl _ _) (by decide)
  | pairAliveEdge => exact execPairAliveEdge_on (.refl _ _) (by decide)
  | heartbeatLost => exact execHeartbeatLost_on (.refl _ _) (by decide)
  | pairAliveToggle => exact execPairAliveToggle_on (.refl _ _) (by decide)
  | pairWatchdogExpiry => exact execPairWatchdogExpiry_on (.refl _ _) (by decide)
  | plSilent => exact execPlSilent_on (.refl _ _) (by decide)
  | keepaliveTx => exact execKeepaliveTx_on (.refl _ _) (by decide)
  | healthReportTx => exact execHealthReportTx_on (.refl _ _) (by decide)
  | healthReportRx => exact execHealthReportRx_on (.refl _ _) (by decide)
  | healthLost => exact execHealthLost_on (.refl _ _) (by decide)
  | timeProbe => exact execTimeProbe_on (.refl _ _) (by decide)
  | alignTickStart => exact execAlignTickStart_on (.refl _ _) (by decide)
  | lifelineCycleEnd => exact execLifelineCycleEnd_on (.refl _ _) (by decide)
  | commitMarkerRx => exact execCommitMarkerRx_on (.refl _ _) (by decide)
  | lifelineAckRx => exact execLifelineAckRx_on (.refl _ _) (by decide)
  | lifelineNackRx => exact execLifelineNackRx_on (.refl _ _) (by decide)
  | lifelineConfirmRx => exact execLifelineConfirmRx_on (.refl _ _) (by decide)
  | lifelineApply => exact execLifelineApply_on (.refl _ _) (by decide)
  | commitTimeout => exact execCommitTimeout_on (.refl _ _) (by decide)
  | xfeedCopyRx => exact execXfeedCopyRx_on (.refl _ _) (by decide)
  | dupEntryExpiry => exact execDupEntryExpiry_on (.refl _ _) (by decide)
  | digestBlockClose => exact execDigestBlockClose_on (.refl _ _) (by decide)
  | digestOutcomeTimeout => exact execDigestOutcomeTimeout_on (.refl _ _) (by decide)
  | digestRecordRx => exact execDigestRecordRx_on (.refl _ _) (by decide)
  | selfTest => exact execSelfTest_on (.refl _ _) (by decide)
  | secChallenge => exact execSecChallenge_on (.refl _ _) (by decide)
  | secResponse => exact execSecResponse_on (.refl _ _) (by decide)
  | secClose => exact execSecClose_on (.refl _ _) (by decide)
  | secDebugLock => exact execSecDebugLock_on (.refl _ _) (by decide)
  | secRevokeKey => exact execSecRevokeKey_on (.refl _ _) (by decide)
  | secSetMinVersion => exact execSecSetMinVersion_on (.refl _ _) (by decide)
  | secGetStatus => exact execSecGetStatus_on (.refl _ _) (by decide)
  | sessionExpiry => exact execSessionExpiry_on (.refl _ _) (by decide)
  | watchdog => exact execWatchdog_on (.refl _ _) (by decide)
  | firewallFault => exact execFirewallFault_on (.refl _ _) (by decide)
  | coreRestart => exact execCoreRestart_on (.refl _ _) (by decide)
  | keeperLockstep => exact execKeeperLockstep_on (.refl _ _) (by decide)
  | sharedSramError => exact execSharedSramError_on (.refl _ _) (by decide)
  | mailboxFetch => exact execMailboxFetch_on (.refl _ _) (by decide)
  | mbFault => exact execMbFault_on (.refl _ _) (by decide)
  | submitCountWrite => exact execSubmitCountWrite_on (.refl _ _) (by decide)
  | respRdCountWrite => exact execRespRdCountWrite_on (.refl _ _) (by decide)
  | mailboxEnableSet => exact execMailboxEnableSet_on (.refl _ _) (by decide)
  | mailboxEnableClear => exact execMailboxEnableClear_on (.refl _ _) (by decide)
  | mailboxDrained => exact execMailboxDrained_on (.refl _ _) (by decide)
  | mailboxReset => exact execMailboxReset_on (.refl _ _) (by decide)
  | abortAll => exact execAbortAll_on (.refl _ _) (by decide)
  | abortPos => exact execAbortPos_on (.refl _ _) (by decide)
  | commandTimeout => exact execCommandTimeout_on (.refl _ _) (by decide)
  | pf0FunctionLevelReset => exact execPf0FunctionLevelReset_on (.refl _ _) (by decide)
  | pf1FunctionLevelReset => exact execPf1FunctionLevelReset_on (.refl _ _) (by decide)
  | hotReset => exact execHotReset_on (.refl _ _) (by decide)
  | busMasterEnable => exact execBusMasterEnable_on (.refl _ _) (by decide)
  | ctxInject => exact execCtxInject_on (.refl _ _) (by decide)
  | ctxReset => exact execCtxReset_on (.refl _ _) (by decide)
  | slowPathFrame => exact execSlowPathFrame_on (.refl _ _) (by decide)
  | chainStart => exact execChainStart_on (.refl _ _) (by decide)
  | chainAbort => exact execChainAbort_on (.refl _ _) (by decide)
  | chainMove => exact execChainMove_on (.refl _ _) (by decide)
  | dmaBurst => exact execDmaBurst_on (.refl _ _) (by decide)
  | chainLoop => exact execChainLoop_on (.refl _ _) (by decide)
  | chainWait => exact execChainWait_on (.refl _ _) (by decide)
  | waitConditionMet => exact execWaitConditionMet_on (.refl _ _) (by decide)
  | waitTimeout => exact execWaitTimeout_on (.refl _ _) (by decide)
  | chainSignal => exact execChainSignal_on (.refl _ _) (by decide)
  | chainEnd => exact execChainEnd_on (.refl _ _) (by decide)
  | cqRoom => exact execCqRoom_on (.refl _ _) (by decide)
  | cqRdCountWrite => exact execCqRdCountWrite_on (.refl _ _) (by decide)
  | dmaWatchdogExpiry => exact execDmaWatchdogExpiry_on (.refl _ _) (by decide)
  | budgetExhausted => exact execBudgetExhausted_on (.refl _ _) (by decide)
  | dmaPcieError => exact execDmaPcieError_on (.refl _ _) (by decide)
  | vectorTimerExpiry => exact execVectorTimerExpiry_on (.refl _ _) (by decide)
  | msixMessageSend => exact execMsixMessageSend_on (.refl _ _) (by decide)
  | maskWrite => exact execMaskWrite_on (.refl _ _) (by decide)
  | vecCtrlWrite => exact execVecCtrlWrite_on (.refl _ _) (by decide)
  | logRdCountWrite => exact execLogRdCountWrite_on (.refl _ _) (by decide)
  | snapNow => exact execSnapNow_on (.refl _ _) (by decide)
  | snapAtFence => exact execSnapAtFence_on (.refl _ _) (by decide)
  | snapDone => exact execSnapDone_on (.refl _ _) (by decide)
  | counterClear => exact execCounterClear_on (.refl _ _) (by decide)
  | eventInject => exact execEventInject_on (.refl _ _) (by decide)
  | readClearField => exact execReadClearField_on (.refl _ _) (by decide)
  | registerWrite => exact execRegisterWrite_on (.refl _ _) (by decide)
  | coldReset => exact execColdReset_on (.refl _ _) (by decide)
  | supplyFault => exact execSupplyFault_on (.refl _ _) (by decide)
  | supplyRestored => exact execSupplyRestored_on (.refl _ _) (by decide)
  | thermtrip => exact execThermtrip_on (.refl _ _) (by decide)
  | sensorConversion => exact execSensorConversion_on (.refl _ _) (by decide)
  | sensorConversionTimeout => exact execSensorConversionTimeout_on (.refl _ _) (by decide)
  | sensorRecovered => exact execSensorRecovered_on (.refl _ _) (by decide)
  | romCheck => exact execRomCheck_on (.refl _ _) (by decide)
  | flashReadDone => exact execFlashReadDone_on (.refl _ _) (by decide)
  | rootLock => exact execRootLock_on (.refl _ _) (by decide)
  | rootLockTimeout => exact execRootLockTimeout_on (.refl _ _) (by decide)
  | coreLoadDone => exact execCoreLoadDone_on (.refl _ _) (by decide)
  | bootConfigDone => exact execBootConfigDone_on (.refl _ _) (by decide)
  | ospiReadId => exact execOspiReadId_on (.refl _ _) (by decide)
  | ospiReadStatus => exact execOspiReadStatus_on (.refl _ _) (by decide)
  | ospiReadSensors => exact execOspiReadSensors_on (.refl _ _) (by decide)
  | recoveryErase => exact execRecoveryErase_on (.refl _ _) (by decide)
  | recoveryEraseDone => exact execRecoveryEraseDone_on (.refl _ _) (by decide)
  | recoveryWrite => exact execRecoveryWrite_on (.refl _ _) (by decide)
  | recoveryCommit => exact execRecoveryCommit_on (.refl _ _) (by decide)
  | ospiReset => exact execOspiReset_on (.refl _ _) (by decide)
  | ospiCsTimeout => exact execOspiCsTimeout_on (.refl _ _) (by decide)
  | clkoutAligned => exact execClkoutAligned_on (.refl _ _) (by decide)
  | orbitStart => exact execOrbitStart_on (.refl _ _) (by decide)
  | pairTestEnd => exact execPairTestEnd_on (.refl _ _) (by decide)
  | keeperRestartDone => exact execKeeperRestartDone_on (.refl _ _) (by decide)
  | inputRecovered => exact execInputRecovered_on (.refl _ _) (by decide)
  | debugTapInstruction => exact execDebugTapInstruction_on (.refl _ _) (by decide)

theorem exec_pending {i : Instr} {s t : State} (h : exec i s = .next t) : t.pending = s.pending :=
  (exec_keeps_queue i s t h).keeps .queue (by decide)

end Sys2Proof.Machine
end

