-- ==== Sys2Proof/Tests/Slice0.lean ====
section
/-!
SUPPORT. Small tests: terms that well-formedness refuses, the worked examples of the spec, and for every statement a state and operands that
meet its hypotheses. Each test names its source; none takes its expected result from the model.
-/
namespace Sys2Proof.Tests
open Sys2Proof Sys2Proof.Machine
set_option Elab.async false

/-! ## Small states -/

/-- After reset, every domain on. -/
def sOn : State := { State.reset with glob := { State.reset.glob with pdOn := 0x3FF } }
/-- An empty image. -/
def anImage : ImgInfo := {}
/-- Overlay slot 3 in state `st`. -/
def sSlot (st : OvState) (timed : Bool) (t : Int) : State := State.reset.updOverlay 3 fun o => { o with state := st, timeMode := timed, t := t }
/-- After boot: no reset holds. -/
def sRun : State := { sOn with power := { sOn.power with stage := .ready, resetPending := none, resetting := none } }
/-- Mailbox 2 holds a fetched FENCE behind a command of mailbox 1 that has not completed. -/
def sEarlier : State :=
  State.reset.updMb 2 fun x => { x with inFlight := [{ opcode := 1, earlier := [0, 1] }] }
/-- A channel table with one entry for lane `l` at rate `r`. -/
def sTable (l r : Nat) : State := { sRun with chan := some { entries := [{ lane := l, rate := r }] } }
/-- Port 8 configured in mode `m` of one lane, its lane in state `st`, served by the channel table. -/
def sPort (m : Nat) (st : LaneState) : State :=
  (({ sRun with chan := some { entries := [{ lane := 8, rate := 0 }] } }).updPort 8 fun x => { x with configured := true, mode := m }).updLane 8
    fun x => { x with state := st }
/-- Module 255 is there. -/
def sModule : State := { sRun with modules := [(255, { present := true })] }
/-- `n` code centres, each in the middle of its code. -/
def evenCentres (n : Nat) : Tbl Nat := (List.range n).map fun k => (k, 128 * k + 64)
/-- A channel whose staged set is the nominal one. -/
def gStaged : ChanGauge :=
  { stCentre := evenCentres 512, stDll := 2048, stSel := 4294967295,
    stTrim := [613566756, 613566756, 613566756, 613566756] }
/-- The channels of gauge region 20 have staged the nominal set; the region is in state `st`. -/
def sStaged (st : GState) : State :=
  { State.reset with gauge := { State.reset.gauge with
    chans := (regionChans 20).map (fun n => (n, gStaged)), regions := [(20, { state := st })] } }
/-- A Keeper session is open. -/
def sSession : State := { State.reset with fw := { State.reset.fw with sessionEnd := some 100 } }
/-- Port 8 is a selvedge port of mode 7 in state `st` and target group 5 holds it. -/
def sGroup (st : LaneState) : State :=
  { sPort 7 st with stitch := { (sPort 7 st).stitch with groups := [(5, BitVec.ofNat 256 (2 ^ 8))] } }
/-- Machine-clock channel 3 with an orbit of 100 bunches. -/
def sOrbit : State := { State.reset with stitch := { State.reset.stitch with mc := [(3, { orbitLen := 100, fNum := 100000000, fDen := 1 })] } }
/-- A pair unit in role `r`, its partner in role `q` with a healthy report. -/
def sPair (r q : Role) : State :=
  { State.reset with pair := { State.reset.pair with enable := true, role := r, partnerRole := q, linkUp := true, healthLost := false } }
/-- The duplicate table knows source 9. -/
def sDup : State := { State.reset with pair := { State.reset.pair with dup := [(9, {})] } }
/-- An authentication challenge is open, with the first part of its response. -/
def sChallenge : State :=
  { State.reset with fw := { State.reset.fw with challenge := some { deadline := 100 }, respPart0 := some [1] } }
/-- Firmware core `n` in state `st` (1 running, 3 held). -/
def sCore (n st : Nat) : State := { sRun with fw := { sRun.fw with cores := [(n, { state := st })] } }
/-- The boot stands at stage `st`, with domains `on`. -/
def sStage (st : Stage) (on : Nat) : State :=
  { State.reset with power := { State.reset.power with stage := st, resetPending := none }, glob := { State.reset.glob with pdOn := BitVec.ofNat 10 on } }
/-- TICK runs from instant 0. -/
def sTick : State := { sRun with time := { sRun.time with tickOn := true } }
/-- Port 8 in state `st` with timer fields set by `f`. -/
def sTimed (st : LaneState) (f : Port → Port) : State := (sPort 7 st).updPort 8 f
/-- Gauge region 20 in state `st`, `g` over the gauge. -/
def sRegion (st : GState) (g : Gauge → Gauge) : State :=
  { sTick with gauge := g { sTick.gauge with regions := [(20, { state := st })] } }
/-- Ring `n` is `x`. -/
def sRing (n : Nat) (x : Ring) : State := { sRun with tdc := { sRun.tdc with rings := [(n, x)] } }
/-- Ring `n` is `x`, and TICK has run for a while. -/
def sRingT (n : Nat) (x : Ring) : State := { sTick with now := 100, tdc := { sTick.tdc with rings := [(n, x)] } }
/-- Group 3 of the event inputs is `x`. -/
def sGate (x : GateGrp) : State := { sTick with tdc := { sTick.tdc with groups := [(3, x)] } }
/-- Lane 8 is up and its channel in service, its DLL locked or not. -/
def sTap (l : Bool) : State :=
  let t := (sPort 0 .up).updLane 8 fun x => { x with tapOn := true }
  { t with
    time := { State.reset.time with tickOn := true }
    gauge := { State.reset.gauge with regions := [(0, { state := .idle })] }
    tdc := { State.reset.tdc with chans := [(8, { dllLocked := l })] } }
/-- Port 8 is up and runs in PTP instance 0, which is enabled; `x` is its PTP state. -/
def sPtp (x : PtpPort) : State :=
  { sPort 0 .up with
    time := { State.reset.time with tickOn := true }
    ptp := { State.reset.ptp with insts := [(0, { enable := true })], ports := [(8, { x with inst := 0 })] } }
/-- Machine-clock channel 3 is `x`. -/
def sMc (x : McChan) : State := { sTick with stitch := { sTick.stitch with mc := [(3, x)] } }
/-- Capture is `x`. -/
def sCapture (x : Capture) : State := { sRun with core := { sRun.core with capture := x } }
/-- The skein is ready. -/
def sSkein : State := { sOn with core := { sOn.core with skein := .ready } }
/-- The skein is ready, queue 0 of class 0 spills, and holds copy 0. -/
def sSpill (x : Copy) : State :=
  { sSkein with core := { sSkein.core with
    classes := [(0, { spill := true, spillOn := 16, returnLow := 16 })], voqs := [(0, [0])], copies := [(0, x)] } }
/-- Mailbox 6 is `x`; its fetches are allowed. -/
def sMbox (x : Mailbox) : State :=
  { sRun with mbs := [(6, x)], host := { sRun.host with bme := true }, fw := { sRun.fw with configDone := true } }
/-- DMA channel 31 is `x`; bus mastering is on. -/
def sChan (x : Chan) : State := { sRun with host := { sRun.host with bme := true, chans := [(31, x)] } }
/-- MSI-X vector 63 is `x`; messages are enabled. -/
def sVec (x : Vec) : State :=
  { sRun with events := { sRun.events with msixEnable := true, fnMask := false, vecs := [(63, x)] }, host := { sRun.host with bme := true } }
/-- A paired unit in role `r`; `f` over the pair. -/
def sUnit (r : Role) (f : Pair → Pair) : State :=
  { sTick with pair := f { sTick.pair with enable := true, role := r } }
/-- The 32 bytes of a chain instruction whose first four bytes are given. -/
def anInstr (a b c d : Byte) : List Byte := [a, b, c, d] ++ List.replicate 28 0
/-- Channel 280 is `x`, its group is `g`, its gauge region idle. -/
def sEvt (x : TdcChan) (g : GateGrp) : State :=
  { sTick with
    tdc := { sTick.tdc with chans := [(280, x)], groups := [(0, g)] }
    gauge := { sTick.gauge with regions := (List.range 21).map fun r => (r, { state := .idle }) } }
/-- Lane 8 is in a swatch test and its checker is locked. -/
def sLocked : State := (sPort 0 .swatch).updLane 8 fun x => { x with swatch := { x.swatch with locked := true } }
/-- A frame waits on the slow path, the cores run, and CRX ring 0 holds `l`. -/
def sRoom (l : List Byte) : State :=
  { sRun with
    fw := { sRun.fw with cores := (List.range 14).map fun n => (n, { state := 1 }) }
    host := { sRun.host with crx := [(0, { bytes := l })] }
    parse := { sRun.parse with slow := [{}] } }

/-! ## Well-formedness -/

theorem test_wellFormed_refuses_1 :
    Instr.wellFormed (.nop (.mailbox 8) (List.replicate 56 0)) = false ∧
    Instr.wellFormed (.nop .direct []) = false ∧
    Instr.wellFormed (.fenceMarkerWrite (.ring 8)) = false ∧
    Instr.wellFormed (.sysPowerDomain .direct false 65536) = false ∧
    Instr.wellFormed (.sysSetBoard .direct 256 0 0 0 0 0) = false ∧
    Instr.wellFormed (.sysSetBoard .direct 0 18446744073709551616 0 0 0 0) = false ∧
    Instr.wellFormed (.sysSetBoard .direct 0 0 0 4294967296 0 0) = false ∧
    Instr.wellFormed (.sysConfigureThermal .direct 2147483648 0 0 0) = false ∧
    Instr.wellFormed (.imgArm .direct 0 0 { ns := 4294967296 }) = false ∧
    Instr.wellFormed (.swatchLock 264) = false ∧
    Instr.wellFormed (.swatchLoss 0 0 1) = false ∧
    Instr.wellFormed (.sweepDone 0 []) = false ∧
    Instr.wellFormed (.sweepDone 0 [65536]) = false ∧
    Instr.wellFormed (.moduleWrite .direct 0 0 0 0 0 []) = false ∧
    Instr.wellFormed (.laneLocked 257) = false ∧
    Instr.wellFormed (.provingWindowEnd 0 false [0] []) = false ∧
    Instr.wellFormed (.egressQueuesEmpty 256) = false ∧
    Instr.wellFormed (.sgpioFrame [4]) = false ∧
    Instr.wellFormed (.stitchBlockRx 0 1 false 0 0 0) = false ∧
    Instr.wellFormed (.stitchSlot 6) = false := by
  decide

theorem test_wellFormed_refuses_2 :
    Instr.wellFormed (.tdcConfigureEvt .direct false false 0 0 0 0 0 0 9223372036854775808 0 0) = false ∧
    Instr.wellFormed (.evtEdge 279 0 0 0 false) = false ∧
    Instr.wellFormed (.evtEdge 280 0 16 0 false) = false ∧
    Instr.wellFormed (.evtEdge 280 0 0 32 false) = false ∧
    Instr.wellFormed (.inputOpen 32) = false ∧
    Instr.wellFormed (.ringWrite 8) = false ∧
    Instr.wellFormed (.gatePinChange 4 false 0) = false ∧
    Instr.wellFormed (.intervalResult 32) = false ∧
    Instr.wellFormed (.fullCalibrationDone 21 []) = false ∧
    Instr.wellFormed (.dllUnlock { ch := 320 }) = false ∧
    Instr.wellFormed (.dllRelock { ch := 320 }) = false ∧
    Instr.wellFormed (.dllRelockTimeout 320) = false ∧
    Instr.wellFormed (.refEdge 263 0 0 0 0) = false ∧
    Instr.wellFormed (.refActivityTimeout 8) = false ∧
    Instr.wellFormed (.levelTimeout 7) = false ∧
    Instr.wellFormed (.ppsOutPulse 2) = false ∧
    Instr.wellFormed (.timeSet .direct { sub := 65536 }) = false ∧
    Instr.wellFormed (.tsqStampTimeout 4) = false ∧
    Instr.wellFormed (.ptpConfigureInstance .direct false false 0 0 0 [] 0 0 0) = false ∧
    Instr.wellFormed (.ptpConfigurePort .direct false 0 0 0 0 340282366920938463463374607431768211456 0 0 0 0 0 0 0 0 0 0 0 0 0) = false := by
  decide

theorem test_wellFormed_refuses_3 :
    Instr.wellFormed (.ptpMessageRx 0 { sub := 65536 }) = false ∧
    Instr.wellFormed (.announceReceiptTimeout 4) = false ∧
    Instr.wellFormed (.delayCoastExpiry 7) = false ∧
    Instr.wellFormed (.stitchSendTimed .direct 0 0 { sec := 18446744073709551616 } 0 0) = false ∧
    Instr.wellFormed (.phaseSetIssue 4) = false ∧
    Instr.wellFormed (.aclStage .direct 0 []) = false ∧
    Instr.wellFormed (.steerWrite .direct 0 0 0 [4294967296]) = false ∧
    Instr.wellFormed (.classSetMap .direct 0 0 0 0 [65536]) = false ∧
    Instr.wellFormed (.parseWindowClose 0 [] false 0 0 0) = false ∧
    Instr.wellFormed (.frameEnd 0 [] 0) = false ∧
    Instr.wellFormed (.cellEccError [] 524288 false) = false ∧
    Instr.wellFormed (.queueFlushed 64 0 0 false) = false ∧
    Instr.wellFormed (.queueFlushed 0 0 8 false) = false ∧
    Instr.wellFormed (.contractDrained 0 3) = false ∧
    Instr.wellFormed (.routerMacSet .direct 0 281474976710656) = false ∧
    Instr.wellFormed (.memberStage .direct 0 0 [{ nh := 65536 }]) = false ∧
    Instr.wellFormed (.tableScrub 11 0 false false) = false ∧
    Instr.wellFormed (.aclScrub [32768]) = false ∧
    Instr.wellFormed (.healthReportRx []) = false ∧
    Instr.wellFormed (.xfeedCopyRx false 0 0 0 0 (List.replicate 64 0) 0 0 false false 0 65536000000000) = false := by
  decide

theorem test_wellFormed_refuses_4 :
    Instr.wellFormed (.xfeedCopyRx false 0 65536 0 0 (List.replicate 64 0) 0 0 false false 0 0) = false ∧
    Instr.wellFormed (.xfeedCopyRx false 0 0 16777216 0 (List.replicate 64 0) 0 0 false false 0 0) = false ∧
    Instr.wellFormed (.xfeedCopyRx false 0 0 0 256 (List.replicate 64 0) 0 0 false false 0 0) = false ∧
    Instr.wellFormed (.xfeedCopyRx false 0 0 0 0 [] 0 0 false false 0 0) = false ∧
    Instr.wellFormed (.digestBlockClose 0 16384) = false ∧
    Instr.wellFormed (.selfTest 8 false) = false ∧
    Instr.wellFormed (.secResponse .direct 0 []) = false ∧
    Instr.wellFormed (.watchdog 14) = false ∧
    Instr.wellFormed (.mailboxFetch 8 (List.replicate 64 0) []) = false ∧
    Instr.wellFormed (.mailboxFetch 0 [] []) = false ∧
    Instr.wellFormed (.chainStart 32) = false ∧
    Instr.wellFormed (.chainMove 0 []) = false ∧
    Instr.wellFormed (.vectorTimerExpiry 64) = false ∧
    Instr.wellFormed (.maskWrite 32 default) = false ∧
    Instr.wellFormed (.eventInject .direct 0 0 []) = false ∧
    Instr.wellFormed (.readClearField .bar0 { offset := 0x4000001 }) = false ∧
    Instr.wellFormed (.registerWrite .bar0 0x4000001 []) = false ∧
    Instr.wellFormed (.supplyFault 9) = false ∧
    Instr.wellFormed (.thermtrip 16) = false ∧
    Instr.wellFormed (.romCheck false 0 0 false [] false) = false := by
  decide

theorem test_wellFormed_refuses_5 :
    Instr.wellFormed (.romCheck false 1 0 false [(8, [])] false) = false ∧
    Instr.wellFormed (.clkoutAligned 4) = false ∧
    Instr.wellFormed (.debugTapInstruction (.halt 15)) = false := by
  decide

/-! ## The spec's own worked examples -/

/-- R97's example: PHASE 11 and FINE 19 with nominal bins give SUB 47,552. -/
theorem test_stamp_sub : State.reset.centreOf 283 (11 * 32 + 19) = 47552 := by decide +kernel

/-- R183's example: TICK 5,000,000,000 and SUB 47,552 convert to 1,700,000,000 s, 1,000,000 ns and 37,065 sub. -/
theorem test_ktime_conversion :
    ({ num := 1, t0 := 4998750000, k0 := 1700000000 * secU, rate := -4194304 } : Segment).ktime 5000000000 47552
      = 1700000000 * secU + 1000000 * nsU + 37065 := by decide +kernel

/-- R187's example: the steps in the window before 0.9 s sum to 900 ns, and before 1.1 s to 300 ns (one second is 1.25 x 10^9 TICK). -/
theorem test_step_guard_window :
    guardSum [(1000000000, 0), (1000000000, 600), (1500000000, -300)] secU 2125000000 = 900 ∧
    guardSum [(1000000000, 600), (1500000000, -300)] secU 2375000000 = 300 := by decide +kernel

/-- R463's example: a FENCE that starts at TICK 7,000,000,005 has its marker at 7,000,000,272. -/
theorem test_fence_marker : fenceF 7000000005 = 7000000272 := by decide +kernel

/-- The example of R78: the stitch word of ECHO_ROW with PAYLOAD 0x0A_0007_3456 has bits [63:8] 0x7F_FF0A_0007_3456. -/
theorem test_stitch_bits : linkBits 7 0x0A00073456 = 0x7FFF0A00073456 := by decide +kernel

/-- The example of R259: the PHASE word of MC1 for group 0x012 has bits [63:8] 0x40_1270_4000_0000. -/
theorem test_phase_word_bits : stitchBits 4 0x012 0x7040000000 = 0x40127040000000 := by decide +kernel

/-- R42's example: the settings of lane L37 at 61.0 degrees. -/
theorem test_settings_interpolate :
    interpolate 400 1360 976 12 18 = 16 ∧ interpolate 400 1360 976 40 34 = 36 ∧ interpolate 400 1360 976 (-10) (-4) = -6 := by decide +kernel

/-- R509's example: PHASE_HIT has the code 0x0504, and of REF3 it is raised on EV587. -/
theorem test_event_code : Ev.phaseHit = 0x0504 ∧ slotSrc 3 = 587 := by decide +kernel

/-- R393's example: with H at 0xFF_FFF8 the copy of SEQ 5 passes, and then a copy of SEQ 0xFE_0000 passes and counts as DUP_WINDOW. -/
theorem test_duplicate_window :
    let s : State := { sTick with pair := { sTick.pair with dup := [(0x123, { high := 0xFFFFF8 })] } }
    (s.dupJudge 0x123 5).2 = true ∧ ((s.dupJudge 0x123 5).1.dupJudge 0x123 0xFE0000).2 = true ∧
    (((s.dupJudge 0x123 5).1.dupJudge 0x123 0xFE0000).1.pair.dup.get 0x123).dupWindow = 1 := by decide +kernel

/-- The example of R448: the first 16 bytes of the response to PORT_CAST_ON at position 510 with tag 0x11. -/
theorem test_response_entry :
    (respEntry 0x0302 0 0x11 510 0 false []).take 16 = [3, 2, 0, 0, 0, 0, 0, 0x11, 0, 0, 1, 0xFE, 0, 0, 0, 0] := by decide +kernel

/-- The example of R444: with all counts at 510, the doorbell 512 is accepted; 767 would exceed 256 responses and is ignored. -/
theorem test_doorbell :
    (match exec (.submitCountWrite 6 512) (sMbox { submit := 510, fetch := 510, done := 510, respRd := 510 }) with
      | .next t => ((t.mbs.get 6).submit, (t.mbs.get 6).indexFault) | _ => (0, true)) = (512, false) ∧
    (match exec (.submitCountWrite 6 767) (sMbox { submit := 510, fetch := 510, done := 510, respRd := 510 }) with
      | .next t => ((t.mbs.get 6).submit, (t.mbs.get 6).indexFault) | _ => (0, false)) = (510, true) := by decide +kernel

/-- R267's example: MCLK1 of MC1 with M = D = 1 has the frequency word 2^41 + 2^21 (Q_f in 2^-64). -/
theorem test_mclk_word : ({ m := 1, d := 1 } : MclkOut).feedForward (2 ^ 59 + 2 ^ 39) = 2199025352704 := by decide +kernel

/-- R117's example: a stop 5,536 U before its start carries ORDER, and one 100 U after it COINCIDENT and 0. -/
theorem test_interval :
    let eng : IntervalEng := { start := 280, stop := 281 }
    let s : Stamp := { tick := 1000, sub := 0 }
    let r := (intervalRec 4 eng s (some { tick := 999, sub := 60000 })).1
    let q := (intervalRec 4 eng s (some { tick := 1000, sub := 100 })).1
    (r.w2.toInt, r.flags / flOrder % 2, q.w2.toInt, q.flags / flCoincident % 2, q.flags / flOrder % 2) = (-5536, 1, 0, 1, 0) := by
  decide +kernel

/-! ## Steps -/

/-- R19: a quadrant requires PD1, so switching PD6 on with PD1 on succeeds, and switching PD4 off under PD3 gives ST_BAD_STATE. -/
theorem test_power_domains :
    (match step { sStage .ready 7 with pending := [.sysPowerDomain .direct true 6] } with
      | .next t => (t.cmd.status, t.pdOn 6) | _ => (99, false)) = (stOk, true) ∧
    (match step { sOn with pending := [.sysPowerDomain .direct false 4] } with
      | .next t => (t.cmd.status, t.pdOn 4) | _ => (99, false)) = (stBadState, true) := by decide +kernel

/-- R455: NOP answers the first 48 bytes of its parameters. -/
theorem test_nop_echo :
    (match step { State.reset with pending := [.nop .direct [1, 2, 3]] } with
      | .next t => t.cmd.result.take 4 | _ => []) = [1, 2, 3, 0] := by decide +kernel

/-- R193: a second take uses the next ticket and the next slot. -/
theorem test_take_twice :
    (match exec (.take false) sTick with
      | .next t => match exec (.take false) t with
        | .next u => ((u.time.snaps0.get 0).ticket, (u.time.snaps0.get 1).ticket, u.host.readData.head?) | _ => (9, 9, none)
      | _ => (9, 9, none)) = (0, 1, some (some 1)) := by decide +kernel

/-- R432: a SEC command of MB3 is not permitted. -/
theorem test_sec_on_mb3 :
    (match exec (.secGetStatus (.mailbox 3)) State.reset with | .next t => t.cmd.status | _ => 99) = stNotPermitted := by decide +kernel

/-- On an empty queue one cycle passes. -/
theorem test_idle : step State.reset = .next { State.reset with now := 1 } := rfl

/-! ## The general statements -/

/-- A well-formed NOP waits on MB3, and host memory holds a byte. -/
def sWaiting : State := { sRun with pending := [.nop (.mailbox 3) (List.replicate 56 0)], hostMem := [(5, 1)] }

/-- The hypotheses of StepKeepsInvariant and StepNeverGoesBack can be met. -/
theorem test_meets_StepKeepsInvariant :
    sWaiting.queueOk ∧ Memory.wf sWaiting.hostMem = true ∧ ∃ t, step sWaiting = .next t := by
  refine ⟨fun c h => ?_, by decide, _, rfl⟩
  rw [List.mem_singleton.mp h]; decide +kernel

/-- The hypothesis of IdleStep can be met, with and without an active fence. -/
theorem test_meets_IdleStep :
    State.reset.pending = [] ∧ State.reset.fence.active = [] ∧
    ({ State.reset with fence := { active := [{ epoch := 1, f := 272 }] } } : State).pending = [] := by decide +kernel

/-- The hypotheses of OneTimeSettingsNeedMb7 can be met by the last mailbox they name. -/
theorem test_meets_OneTimeSettingsNeedMb7 :
    Instr.src (.sysGetStatus (.mailbox 6)) = some (.mailbox 6) ∧ 6 < 7 ∧ Instr.opcode (.sysGetStatus (.mailbox 6)) = some 0x0102 ∧
    ∃ t, exec (.sysGetStatus (.mailbox 6)) sRun = .next t := ⟨rfl, by decide, rfl, _, rfl⟩

/-- The hypotheses of MailboxCommandsAlwaysGoOn can be met by an IMG_LOAD with bytes. -/
theorem test_meets_MailboxCommandsAlwaysGoOn :
    Instr.opcode (.imgLoad .direct 0 0 1 (some [7])) = some 0x0201 ∧
    ∀ src target addr length l, Instr.imgLoad .direct 0 0 1 (some [7]) = .imgLoad src target addr length (some l) → l.length = length :=
  ⟨rfl, fun _ _ _ _ _ h => by cases h; rfl⟩

/-- The hypotheses of RefusedByRole can be met by FENCE on a standby unit, from each source. -/
theorem test_meets_RefusedByRole :
    [CmdSrc.mailbox 0, .config, .direct].all (fun src =>
      decide (Instr.src (.fence src) = some src) && decide (Instr.opcode (.fence src) = some 1) &&
      (sPair .standby .active).reaches (.fence src) src 1 true && (sPair .standby .active).pair.enable &&
      decide ((sPair .standby .active).pair.role ≠ .active) && mirrored 1 && !readOnly 1 && !unitLocal (.fence src)) = true := by
  decide +kernel

/-- The hypotheses of each clause of SecurityGate can be met. -/
theorem test_meets_SecurityGate :
    (Instr.src (.secGetStatus (.mailbox 6)) = some (.mailbox 6) ∧ Instr.opcode (.secGetStatus (.mailbox 6)) = some 0x0C07 ∧
      0x0C07 / 256 = 0x0C ∧ State.reset.fence.recovery = false) ∧
    (Instr.src (.secClose (.mailbox 7)) = some (.mailbox 7) ∧ Instr.opcode (.secClose (.mailbox 7)) = some 0x0C03 ∧
      sSession.glob.keeperRestarting = false ∧ sSession.fw.sessionEnd.isSome = true ∧
      sSession.headLayout (.mailbox 7) 0x0C03 (familyV6 (.secClose (.mailbox 7))) = none) ∧
    (State.reset.glob.keeperRestarting = false ∧ State.reset.fw.sessionEnd = none) := by decide +kernel

/-- The hypothesis of IntNLevel can be met with the line asserted. -/
theorem test_meets_IntNLevel :
    let e : Events := { intNEnable := true, mask := 0, pending := 1, routes := [(0, { intN := true })] }
    (e.routes.map (·.1)).Nodup ∧ e.intN = true := by decide +kernel

/-- Where AbsentObjectsStop begins: mailbox 8 and channel 32 stop, mailbox 7 and channel 31 go on. -/
theorem test_meets_AbsentObjectsStop :
    exec (.mailboxDrained 8) sRun = .fault .noSuchObject ∧ (∃ t, exec (.mailboxDrained 7) sRun = .next t) ∧
    exec (.chainStart 32) sRun = .fault .noSuchObject ∧ (∃ t, exec (.egressQueuesEmpty 255) sRun = .next t) :=
  ⟨rfl, ⟨_, rfl⟩, rfl, ⟨_, rfl⟩⟩

/-! ## The statements about commands -/
set_option linter.unusedVariables false

theorem get_map (f : Nat → Nat) (i : Nat) : ∀ l : List Nat, i ∈ l → Tbl.get (l.map fun k => (k, f k)) i = f i
  | [], h => by cases h
  | a :: l, h => by
    rw [List.map_cons, Tbl.get]
    by_cases e : a = i
    · simp [e]
    · simp only [e, if_false]
      exact get_map f i l ((List.mem_cons.mp h).resolve_left fun x => e x.symm)

theorem evenCentres_get (n : Nat) : (List.range n).map (evenCentres n).get = (List.range n).map fun k => 128 * k + 64 :=
  List.map_congr_left fun k hk => get_map (fun k => 128 * k + 64) k _ hk

theorem gStaged_stagedOk : gStaged.stagedOk = true := by
  have e := evenCentres_get 512
  unfold ChanGauge.stagedOk gStaged
  dsimp only
  rw [e]
  decide +kernel

theorem sStaged_stagedOk (st : GState) : ((regionChans 20).all fun n => ((sStaged st).gauge.chans.get n).stagedOk) = true := by
  have e : regionChans 20 = [316, 318, 319] := by decide
  have h : (sStaged st).gauge.chans = [(316, gStaged), (318, gStaged), (319, gStaged)] := by
    show (regionChans 20).map (fun n => (n, gStaged)) = _
    rw [e]; simp only [List.map_cons, List.map_nil]
  have k (n : Nat) (g : ChanGauge) (hn : Tbl.get [(316, gStaged), (318, gStaged), (319, gStaged)] n = g) (hg : g = gStaged) :
      ((sStaged st).gauge.chans.get n).stagedOk = true := by
    rw [h, hn, hg]; exact gStaged_stagedOk
  rw [e]
  exact List.all_eq_true.mpr fun n hn => by
    rcases List.mem_cons.mp hn with rfl | hn
    · exact k _ gStaged (by simp only [Tbl.get]; simp) rfl
    rcases List.mem_cons.mp hn with rfl | hn
    · exact k _ gStaged (by simp only [Tbl.get]; simp) rfl
    rw [List.mem_singleton.mp hn]
    exact k _ gStaged (by simp only [Tbl.get]; simp) rfl

theorem sRoom_room (l : List Byte) (q : Nat) : (sRoom l).crxRoom q = if q = 0 then 524288 - l.length else 524288 := by
  cases q <;> rfl

/-- Thirty-two zero bytes. -/
def zeros32 : List Byte := List.replicate 32 0

theorem crc_zeros : (List.replicate 256 (0 : Byte)).foldl (crcByteR 0xEDB88320) 4294967295 = 4066998951 := by
  have e : List.replicate 256 (0 : Byte) = zeros32 ++ (zeros32 ++ (zeros32 ++ (zeros32 ++ (zeros32 ++ (zeros32 ++ (zeros32 ++ zeros32)))))) := by
    decide +kernel
  have k (a b : Nat) (h : zeros32.foldl (crcByteR 0xEDB88320) a = b) (l : List Byte) :
      (zeros32 ++ l).foldl (crcByteR 0xEDB88320) a = l.foldl (crcByteR 0xEDB88320) b := by rw [List.foldl_append, h]
  rw [e, k _ 3874859602 (by decide +kernel), k _ 2322767049 (by decide +kernel), k _ 1158388305 (by decide +kernel),
    k _ 1029113186 (by decide +kernel), k _ 1442360476 (by decide +kernel), k _ 1946220301 (by decide +kernel),
    k _ 3269371036 (by decide +kernel)]
  decide +kernel

theorem crc32_of (l : List Byte) (n : Nat) (h : l.foldl (crcByteR 0xEDB88320) 0xFFFFFFFF = n) : crc32 l = n ^^^ 0xFFFFFFFF := by
  unfold crc32; rw [h]

theorem crc32_zeros : crc32 (List.replicate 256 0) = 0x0d968558 := (crc32_of _ _ crc_zeros).trans (by decide)

theorem fcs_of (d f : List Byte) (c : Nat) (h : crc32 d = c) (k : f.length = 4) (v : ofLe f = c) : fcsOf (d ++ f) = 0 := by
  have n : (d ++ f).length - 4 = d.length := by rw [List.length_append, k]; omega
  unfold fcsOf
  simp only [n, List.take_left, List.drop_left, h, v, if_pos]

theorem fcs_zeros : fcsOf (List.replicate 256 (0 : Byte) ++ [0x58, 0x85, 0x96, 0x0d]) = 0 :=
  fcs_of _ _ _ crc32_zeros rfl (by decide +kernel)

/-- The hypotheses of each clause of NopAndFence can be met. -/
theorem test_meets_NopAndFence :
    ((fun (src : CmdSrc) (bytes : List Byte) (s : State) => decide (s.acts (.nop src bytes) src 0x0000 = true)) (.direct) ([1, 2])
        (State.reset) = true) ∧
    ((fun (src : CmdSrc) (s : State) => decide (s.acts (.fence src) src 0x0001 = true) && decide (s.earlierDone (s.earlierOf src) = true) &&
        decide (fromJournal src = false ∧ (s.pair.enable && decide (s.pair.role = .active) && s.partnerStandby) = false)) (.direct)
        (State.reset) = true) ∧
    ((fun (src : CmdSrc) (s : State) => decide (s.acts (.fence src) src 0x0001 = true) && decide (s.earlierDone (s.earlierOf src) = false) &&
        decide (fromJournal src = false ∧ (s.pair.enable && decide (s.pair.role = .active) && s.partnerStandby) = false)) (.mailbox 2)
        (sEarlier) = true) := by
  and_intros
  all_goals decide +kernel

/-- The hypotheses of each clause of SystemCommands can be met. -/
theorem test_meets_SystemCommands :
    ((fun (src : CmdSrc) (on : Bool) (domain : Nat) (s : State) => decide (s.acts (.sysPowerDomain src on domain) src 0x0101 = true) && decide
        (2 ≤ domain ∧ domain ≤ 9 ∧ s.pdOn domain = false ∧ on = true) && decide (domain = 5 → s.fuses.orderCode.skein = true) && decide
        ((domNeeds domain).all s.pdOn = true ∧ s.suppliesOk domain = true)) (.direct) (true) (2)
        ({ sOn with glob := { sOn.glob with pdOn := 0x3FB } }) = true) ∧
    ((fun (src : CmdSrc) (on : Bool) (domain : Nat) (s : State) => decide (s.acts (.sysPowerDomain src on domain) src 0x0101 = true) && decide
        (3 ≤ domain ∧ domain ≤ 9 ∧ s.pdOn domain = true ∧ on = false) && decide (((List.range 10).any fun d => (domNeeds d).contains domain &&
        s.pdOn d) = false ∧ s.mayPowerOff domain = true)) (.direct) (false) (9) (sOn) = true) ∧
    ((fun (src : CmdSrc) (on : Bool) (domain : Nat) (s : State) => decide (s.acts (.sysPowerDomain src on domain) src 0x0101 = true) && decide
        (2 ≤ domain ∧ domain ≤ 9 ∧ s.pdOn domain = on)) (.direct) (true) (9) (sOn) = true) ∧
    ((fun (src : CmdSrc) (s : State) => decide (s.acts (.sysGetStatus src) src 0x0102 = true)) (.mailbox 0) (State.reset) = true) ∧
    ((fun (src : CmdSrc) (param period region base length mask : Nat) (s : State) => decide (s.acts (.sysSetBoard src param period region base
        length mask) src 0x0103 = true) && decide (src = .config ∧ param = 0 ∧ msU ≤ period ∧ period ≤ 1000 * msU ∧ region = 0 ∧ base = 0 ∧
        length = 0 ∧ mask = 0)) (.config) (0) (msU) (0) (0) (0) (0) (State.reset) = true) ∧
    ((fun (src : CmdSrc) (param period region base length mask : Nat) (s : State) => decide (s.acts (.sysSetBoard src param period region base
        length mask) src 0x0103 = true) && decide (src = .config ∧ param = 1 ∧ period = 0 ∧ region ≤ 63 ∧ mask < 65536)) (.config) (1) (0) (63)
        (4096) (64) (65535) (State.reset) = true) ∧
    ((fun (src : CmdSrc) (param period region base length mask : Nat) (s : State) => decide (s.acts (.sysSetBoard src param period region base
        length mask) src 0x0103 = true) && decide (src = .config ∧ param = 2 ∧ msU ≤ period ∧ period ≤ 1000 * msU ∧ region = 0 ∧ base = 0 ∧
        length = 0 ∧ mask = 0)) (.config) (2) (msU) (0) (0) (0) (0) (State.reset) = true) ∧
    ((fun (src : CmdSrc) (kind : Nat) (s : State) => decide (s.acts (.sysReset src kind) src 0x0110 = true) && decide (kind < 3) && decide
        ((s.resetsNow.any fun o => decide (resetSize (2 - kind) ≤ resetSize o)) = false)) (.direct) (2) (sRun) = true) ∧
    ((fun (src : CmdSrc) (s : State) => decide (s.acts (.sysGetPower src) src 0x0111 = true)) (.direct) (State.reset) = true) ∧
    ((fun (src : CmdSrc) (s : State) => decide (s.acts (.sysGetThermal src) src 0x0112 = true)) (.direct) (State.reset) = true) ∧
    ((fun (src : CmdSrc) (warn throttleAt hyst : Int) (fraction : Nat) (s : State) => decide (s.acts (.sysConfigureThermal src warn throttleAt
        hyst fraction) src 0x0113 = true) && decide (800 ≤ warn ∧ warn ≤ throttleAt ∧ throttleAt ≤ s.tjMax ∧ warn % 4 = 0 ∧ throttleAt % 4 = 0)
        && decide (16 ≤ hyst ∧ hyst ≤ 160 ∧ 10 ≤ fraction ∧ fraction ≤ 100)) (.direct) (800) (1680) (16) (100) (State.reset) = true) ∧
    ((fun (src : CmdSrc) (sensor mark : Nat) (s : State) => decide (s.acts (.sysSetSensor src sensor mark) src 0x0114 = true) && decide (sensor
        < 16 ∧ mark = 1)) (.direct) (15) (1) (State.reset) = true) ∧
    ((fun (src : CmdSrc) (sensor mark : Nat) (s : State) => decide (s.acts (.sysSetSensor src sensor mark) src 0x0114 = true) && decide (sensor
        < 16 ∧ mark = 0) && decide ((s.power.sensors.get sensor).hostMark = true ∨ (s.power.sensors.get sensor).faulty = true ∨ ((List.range
        16).any fun n => decide (n ≠ sensor) && !(s.power.sensors.get n).faulty) = true)) (.direct) (0) (0) (State.reset) = true) := by
  and_intros
  all_goals decide +kernel

/-- The hypotheses of each clause of ImageCommands can be met. -/
theorem test_meets_ImageCommands :
    ((fun (src : CmdSrc) (target addr length : Nat) (data : Option (List Byte)) (s : State) => (fun (l : List Byte) => decide (target = 16 ∧
        addr % 4 = 0 ∧ 576 ≤ length ∧ length ≤ 16777216 ∧ data = some l ∧ l.length = length)) ((data).getD (List.replicate 576 0))) (.direct)
        (16) (4) (576) (some (List.replicate 576 0)) (State.reset) = true) ∧
    ((fun (src : CmdSrc) (target addr length : Nat) (data : Option (List Byte)) (s : State) => (fun (l : List Byte) => decide (target < 16 ∧
        addr % 4 = 0 ∧ 576 ≤ length ∧ length ≤ 262144 ∧ data = some l ∧ l.length = length) && decide ((s.fw.overlays.get target).state ≠ .armed
        ∧ s.fence.waiting = [])) ((data).getD (List.replicate 576 0))) (.direct) (15) (0) (576) (some (List.replicate 576 0)) (State.reset) =
        true) ∧
    ((fun (src : CmdSrc) (slot : Nat) (s : State) => decide (s.acts (.imgValidate src slot) src 0x0202 = true) && decide (slot < 16 ∧
        ((s.fw.overlays.get slot).state = .loaded ∨ (s.fw.overlays.get slot).state = .valid) ∧ s.fence.waiting = []) && decide (fromJournal src
        = true ∨ (s.clearStage slot).trial s.contracts.table slot 0 (s.fw.overlays.get slot).img.cmds = none)) (.direct) (3) (sSlot .loaded
        false 0) = true) ∧
    ((fun (src : CmdSrc) (slot mode : Nat) (t : KTime) (s : State) => decide (s.acts (.imgArm src slot mode t) src 0x0203 = true) && decide
        (slot < 16 ∧ mode = 1 ∧ t.ns < 1000000000 ∧ s.ktime + msU ≤ KTime.units t ∧ (KTime.units t : Int) ≤ s.ktime + 1000000 * secU) && decide
        ((s.fw.overlays.get slot).state = .valid ∧ s.armedSlot = none ∧ s.fence.waiting = [])) (.direct) (3) (1) ({ sec := 1000 }) (sSlot .valid
        false 0) = true) ∧
    ((fun (src : CmdSrc) (slot mode : Nat) (t : KTime) (s : State) => decide (s.acts (.imgArm src slot mode t) src 0x0203 = true) && decide
        (slot < 16 ∧ mode = 0 ∧ t.sec = 0 ∧ t.ns = 0 ∧ t.sub = 0) && decide ((s.fw.overlays.get slot).state = .valid ∧ s.armedSlot = none) &&
        decide (fromJournal src = false ∧ (s.pair.enable && decide (s.pair.role = .active) && s.partnerStandby) = false ∧ s.earlierDone
        (s.earlierOf src) = true)) (.direct) (3) (0) ({}) (sSlot .valid false 0) = true) ∧
    ((fun (src : CmdSrc) (slot mode : Nat) (t : KTime) (s : State) => decide (s.acts (.imgArm src slot mode t) src 0x0203 = true) && decide
        (slot < 16 ∧ mode = 0 ∧ t.sec = 0 ∧ t.ns = 0 ∧ t.sub = 0) && decide ((s.fw.overlays.get slot).state = .valid ∧ s.armedSlot = none) &&
        decide (fromJournal src = false ∧ (s.pair.enable && decide (s.pair.role = .active) && s.partnerStandby) = false ∧ s.earlierDone
        (s.earlierOf src) = false)) (.mailbox 2) (3) (0) ({}) ((sSlot .valid false 0).updMb 2 fun x =>
        { x with inFlight := [{ opcode := 0x203, params := List.replicate 56 0, earlier := [0, 1] }] }) = true) ∧
    ((fun (src : CmdSrc) (slot : Nat) (s : State) => decide (s.acts (.imgDisarm src slot) src 0x0204 = true) && decide (slot < 16 ∧
        (s.fw.overlays.get slot).state = .armed ∧ (s.fw.overlays.get slot).timeMode = true) && decide (s.wTime < (s.fw.overlays.get slot).t ∧
        s.fence.waiting = [])) (.direct) (3) (sSlot .armed true 1000) = true) ∧
    ((fun (src : CmdSrc) (slot : Nat) (s : State) => decide (s.acts (.imgGetStatus src slot) src 0x0205 = true) && decide (slot < 16))
        (.direct) (3) (sSlot .armed true 1000) = true) ∧
    ((fun (src : CmdSrc) (slot : Nat) (s : State) => decide (s.acts (.imgGetStatus src slot) src 0x0205 = true) && decide (slot = 0xFF))
        (.direct) (0xFF) (State.reset) = true) ∧
    ((fun (src : CmdSrc) (slot : Nat) (s : State) => decide (s.acts (.imgErase src slot) src 0x0206 = true) && decide (slot < 16 ∧
        (s.fw.overlays.get slot).state ≠ .armed ∧ s.fence.waiting = [])) (.direct) (15) (State.reset) = true) := by
  and_intros
  all_goals decide +kernel

/-- The hypotheses of each clause of PortCommands can be met. -/
theorem test_meets_PortCommands :
    ((fun (src : CmdSrc) (port mode width fec maxFrame : Nat) (s : State) => decide (s.acts (.portConfigure src port mode width fec maxFrame)
        src 0x0301 = true) && decide (port < 256 ∧ port % (max 1 width) = 0 ∧ mode < 9 ∧ (width = 1 ∨ width = 2 ∨ width = 4 ∨ width = 8) ∧
        widthOk mode width = true) && decide ((laneRate mode width fec).isSome = true ∧ 1518 ≤ maxFrame ∧ maxFrame ≤ 16384 ∧ s.portsOverlap port
        width = false) && decide ((((List.range (max width (if (s.ports.get port).configured then (s.ports.get port).width else 1))).map (port +
        ·)).all fun l => decide ((s.lanes.get l).state = .down ∨ (s.lanes.get l).state = .off)) = true) && decide ((s.octetRates (port / 8)
        port).length < 2 ∨ (s.octetRates (port / 8) port).contains ((laneRate mode width fec).getD 0) = true)) (.direct) (8) (7) (1) (0) (1518)
        ((sPort 7 .down)) = true) ∧
    ((fun (src : CmdSrc) (port mode width fec maxFrame : Nat) (s : State) => decide (s.acts (.portConfigure src port mode width fec maxFrame)
        src 0x0301 = true) && decide (port < 256 ∧ port % (max 1 width) = 0 ∧ mode < 9 ∧ (width = 1 ∨ width = 2 ∨ width = 4 ∨ width = 8) ∧
        widthOk mode width = true) && decide ((laneRate mode width fec).isSome = true ∧ 1518 ≤ maxFrame ∧ maxFrame ≤ 16384 ∧ (s.lanes.get
        port).state ≠ .down ∧ (s.lanes.get port).state ≠ .off)) (.direct) (8) (7) (1) (0) (1518) ((sPort 7 .up)) = true) ∧
    ((fun (src : CmdSrc) (port : Nat) (s : State) => decide (s.acts (.portCastOn src port) src 0x0302 = true) && decide (port < 256 ∧
        (s.ports.get port).configured = true ∧ (s.portState port = .casting ∨ s.portState port = .proving ∨ s.portState port = .up))) (.direct)
        (8) (sPort 0 .up) = true) ∧
    ((fun (src : CmdSrc) (port : Nat) (s : State) => decide (s.acts (.portCastOn src port) src 0x0302 = true) && decide (port < 256 ∧
        (s.ports.get port).configured = true ∧ s.portState port = .down ∧ s.tableServes port = true)) (.direct) (8) (sPort 0 .down) = true) ∧
    ((fun (src : CmdSrc) (port : Nat) (s : State) => decide (s.acts (.portCastOn src port) src 0x0302 = true) && decide (port < 256 ∧
        (s.ports.get port).configured = true ∧ (s.portState port = .fault ∨ s.portState port = .held) ∧ s.tableServes port = true)) (.direct)
        (8) (sPort 7 .held) = true) ∧
    ((fun (src : CmdSrc) (port : Nat) (s : State) => decide (s.acts (.portCastOn src port) src 0x0302 = true) && decide (port < 256 ∧
        ((s.ports.get port).configured = false ∨ s.portState port = .off ∨ s.portState port = .binding ∨ s.portState port = .swatch ∨
        (s.portState port = .down ∨ s.portState port = .fault ∨ s.portState port = .held) ∧ s.tableServes port = false))) (.direct) (8) (sPort 0
        .swatch) = true) ∧
    ((fun (src : CmdSrc) (port drain : Nat) (s : State) => decide (s.acts (.portBindOff src port drain) src 0x0303 = true) && decide
        (s.pair.waits = [] ∧ (s.pair.enable = true → s.pair.role = .standby → s.pair.linkUp = true ∧ s.lossSigns < 2)) && decide (port < 256 ∧
        drain ≤ 100 * msU ∧ (s.ports.get port).configured = true ∧ s.portState port = .up ∧ 1 ≤ (s.ports.get port).width)) (.direct) (8) (0)
        (sPort 0 .up) = true) ∧
    ((fun (src : CmdSrc) (port drain : Nat) (s : State) => decide (s.acts (.portBindOff src port drain) src 0x0303 = true) && decide
        (s.pair.waits = [] ∧ (s.pair.enable = true → s.pair.role = .standby → s.pair.linkUp = true ∧ s.lossSigns < 2)) && decide (port < 256 ∧
        drain ≤ 100 * msU ∧ (s.ports.get port).configured = true ∧ s.portState port = .binding)) (.direct) (8) (0) (sPort 0 .binding) = true) ∧
    ((fun (src : CmdSrc) (port drain : Nat) (s : State) => decide (s.acts (.portBindOff src port drain) src 0x0303 = true) && decide
        (s.pair.waits = [] ∧ (s.pair.enable = true → s.pair.role = .standby → s.pair.linkUp = true ∧ s.lossSigns < 2)) && decide (port < 256 ∧
        drain ≤ 100 * msU ∧ ((s.ports.get port).configured = false ∨ s.portState port = .down ∨ s.portState port = .off ∨ s.portState port =
        .swatch))) (.direct) (255) (0) (sPort 0 .up) = true) ∧
    ((fun (src : CmdSrc) (port drain : Nat) (s : State) => decide (s.acts (.portBindOff src port drain) src 0x0303 = true) && decide
        (s.pair.waits = [] ∧ (s.pair.enable = true → s.pair.role = .standby → s.pair.linkUp = true ∧ s.lossSigns < 2)) && decide (port < 256 ∧
        drain ≤ 100 * msU ∧ (s.ports.get port).configured = true ∧ (s.portState port = .casting ∨ s.portState port = .proving ∨ s.portState port
        = .fault ∨ s.portState port = .held))) (.direct) (8) (0) (sPort 0 .held) = true) ∧
    ((fun (src : CmdSrc) (port castTimeout holdDown flapLimit flapWindow recast : Nat) (s : State) => decide (s.acts (.portSetPolicy src port
        castTimeout holdDown flapLimit flapWindow recast) src 0x0304 = true) && decide (port < 256 ∧ 10 * msU ≤ castTimeout ∧ castTimeout ≤ 10 *
        secU ∧ msU ≤ holdDown ∧ holdDown ≤ 10 * secU) && decide (1 ≤ flapLimit ∧ flapLimit ≤ 255 ∧ 10 * msU ≤ flapWindow ∧ flapWindow ≤ 60 *
        secU ∧ recast < 2)) (.direct) (255) (10 * msU) (10 * secU) (255) (60 * secU) (1) (State.reset) = true) ∧
    ((fun (src : CmdSrc) (port slots markInterval outlier rangeTimeout : Nat) (s : State) => decide (s.acts (.selvedgeConfigure src port slots
        markInterval outlier rangeTimeout) src 0x030C = true) && decide (port < 256 ∧ (slots = 1 ∨ slots = 2 ∨ slots = 4) ∧ 16 ≤ markInterval ∧
        markInterval ≤ 4096 ∧ 6554 ≤ outlier ∧ outlier ≤ 100 * nsU ∧ tenthsOk outlier = true) && decide (msU ≤ rangeTimeout ∧ rangeTimeout ≤
        1000 * msU ∧ (s.ports.get port).configured = true ∧ (s.ports.get port).isSelvedge = true) && decide (slots = (s.selv.get port).slots ∨
        s.portState port = .down)) (.direct) (8) (4) (16) (655360) (msU) (sPort 7 .down) = true) ∧
    ((fun (src : CmdSrc) (port slots markInterval outlier rangeTimeout : Nat) (s : State) => decide (s.acts (.selvedgeConfigure src port slots
        markInterval outlier rangeTimeout) src 0x030C = true) && decide (port < 256 ∧ (slots = 1 ∨ slots = 2 ∨ slots = 4) ∧ 16 ≤ markInterval ∧
        markInterval ≤ 4096 ∧ 6554 ≤ outlier ∧ outlier ≤ 100 * nsU ∧ tenthsOk outlier = true) && decide (msU ≤ rangeTimeout ∧ rangeTimeout ≤
        1000 * msU ∧ ((s.ports.get port).configured = false ∨ (s.ports.get port).isSelvedge = false ∨ slots ≠ (s.selv.get port).slots ∧
        s.portState port ≠ .down))) (.direct) (8) (4) (16) (655360) (msU) (sPort 7 .up) = true) ∧
    ((fun (src : CmdSrc) (port : Nat) (s : State) => (fun (n : Nat) => (s.acts (.selvedgeGetRange src port) src 0x030D = true) ∧ (n = satAdd 32
        (s.lanes.get port).ordered (if s.portUp port then Config.orderedSets s.free port else 0)) ∧ (port < 256 ∧ (s.ports.get port).configured
        = true ∧ (s.ports.get port).isSelvedge = true)) (satAdd 32 (s.lanes.get port).ordered (if s.portUp port then Config.orderedSets s.free
        port else 0))) (.direct) (8) (sPort 8 .up)) ∧
    ((fun (src : CmdSrc) (module bank page offset length : Nat) (s : State) => (fun (l : List Byte) => (s.acts (.moduleRead src module bank
        page offset length) src 0x030E = true) ∧ (l = (List.range length).map fun i => Config.freeByte (65536 * (s.free + 1) + i)) ∧ (module <
        256 ∧ bank < 256 ∧ page < 256 ∧ offset < 256 ∧ 1 ≤ length ∧ length ≤ 128 ∧ offset + length ≤ 256 ∧ (128 ≤ offset ∨ offset + length ≤
        128)) ∧ (s.moduleThere module = true)) ((List.range length).map fun i => Config.freeByte (65536 * (s.free + 1) + i))) (.direct) (255)
        (0) (0) (128) (1) (sModule)) ∧
    ((fun (src : CmdSrc) (module bank page offset length : Nat) (s : State) => decide (s.acts (.moduleRead src module bank page offset length)
        src 0x030E = true) && decide (module < 256 ∧ bank < 256 ∧ page < 256 ∧ offset < 256 ∧ 1 ≤ length ∧ length ≤ 128 ∧ offset + length ≤ 256
        ∧ (128 ≤ offset ∨ offset + length ≤ 128)) && decide (s.moduleThere module = false)) (.direct) (255) (0) (0) (128) (128) (sRun) = true) ∧
    ((fun (src : CmdSrc) (module bank page offset length : Nat) (data : List Byte) (s : State) => decide (s.acts (.moduleWrite src module bank
        page offset length data) src 0x030F = true) && decide (module < 256 ∧ bank < 256 ∧ page < 256 ∧ offset < 256 ∧ 1 ≤ length ∧ length ≤ 8 ∧
        offset / 8 = (offset + length - 1) / 8) && decide (s.moduleThere module = true)) (.direct) (255) (0) (3) (248) (8) ([1, 2]) (sModule) =
        true) ∧
    ((fun (src : CmdSrc) (module bank page offset length : Nat) (data : List Byte) (s : State) => decide (s.acts (.moduleWrite src module bank
        page offset length data) src 0x030F = true) && decide (module < 256 ∧ bank < 256 ∧ page < 256 ∧ offset < 256 ∧ 1 ≤ length ∧ length ≤ 8 ∧
        offset / 8 = (offset + length - 1) / 8) && decide (s.moduleThere module = false)) (.direct) (255) (0) (3) (248) (8) ([1, 2]) (sRun) =
        true) := by
  and_intros
  all_goals first | decide +kernel | rfl

/-- The hypotheses of each clause of LaneCommands can be met. -/
theorem test_meets_LaneCommands :
    ((fun (src : CmdSrc) (lane : Nat) (s : State) => decide (s.acts (.laneGetStatus src lane) src 0x0305 = true) && decide (lane < 264))
        (.direct) (263) (State.reset) = true) ∧
    ((fun (src : CmdSrc) (lane : Nat) (s : State) => (fun (p : Nat) => decide (s.acts (.laneGetLatency src lane) src 0x0306 = true) && decide
        (lane < 264 ∧ s.portOf lane = some p ∧ (s.lanes.get lane).state = .up)) ((s.portOf lane).getD (8))) (.direct) (8) (sPort 0 .up) = true) ∧
    ((fun (src : CmdSrc) (sect : Nat) (s : State) => (fun (l : List Byte) => decide (sect < 514 ∧ s.tableSection sect = some l))
        ((s.tableSection sect).getD ([1, 2, 3]))) (.direct) (32) (State.reset.updOverlay 1 fun o =>
        { o with state := .loaded, img := { tables := [(0, [1, 2, 3])] } }) = true) ∧
    ((fun (src : CmdSrc) (lane : Nat) (s : State) => decide (s.acts (.laneRelatch src lane) src 0x0308 = true) && decide (lane = 0xFFFF))
        (.direct) (0xFFFF) (sPort 0 .up) = true) ∧
    ((fun (src : CmdSrc) (lane : Nat) (s : State) => decide (s.acts (.laneRelatch src lane) src 0x0308 = true) && decide (lane < 264))
        (.direct) (263) (State.reset) = true) ∧
    ((fun (src : CmdSrc) (clear : Bool) (lane action txPattern rxPattern loopback injKind injArg : Nat) (s : State) => decide (s.acts
        (.laneSwatch src clear lane action txPattern rxPattern loopback injKind injArg) src 0x0309 = true) && decide (lane < 264 ∧ action = 0 ∧
        clear = false ∧ s.patternOk lane txPattern = true ∧ s.patternOk lane rxPattern = true ∧ loopback < 2 ∧ injKind = 0 ∧ injArg = 0) &&
        decide (lane < 256 ∨ s.pair.linkUp = false) && decide ((s.lanes.get lane).state = .down ∨ (s.lanes.get lane).state = .fault ∨
        (s.lanes.get lane).state = .held ∨ (s.lanes.get lane).state = .swatch)) (.direct) (false) (8) (0) (8) (5) (1) (0) (0) (sPort 0 .down) =
        true) ∧
    ((fun (src : CmdSrc) (clear : Bool) (lane action txPattern rxPattern loopback injKind injArg : Nat) (s : State) => decide (s.acts
        (.laneSwatch src clear lane action txPattern rxPattern loopback injKind injArg) src 0x0309 = true) && decide (lane < 264 ∧ action = 1 ∧
        clear = false ∧ txPattern = 0 ∧ rxPattern = 0 ∧ loopback = 0 ∧ injKind = 0 ∧ injArg = 0) && decide ((lane < 256 ∨ s.pair.linkUp = false)
        ∧ (s.lanes.get lane).state = .swatch)) (.direct) (false) (8) (1) (0) (0) (0) (0) (0) (sPort 0 .swatch) = true) ∧
    ((fun (src : CmdSrc) (clear : Bool) (lane action txPattern rxPattern loopback injKind injArg : Nat) (s : State) => decide (s.acts
        (.laneSwatch src clear lane action txPattern rxPattern loopback injKind injArg) src 0x0309 = true) && decide (lane < 264 ∧ action = 2 ∧
        clear = false ∧ txPattern = 0 ∧ rxPattern = 0 ∧ loopback = 0 ∧ (injKind = 0 ∧ injArg = 0 ∨ injKind = 1 ∧ 1 ≤ injArg ∧ injArg ≤ 255 ∨
        injKind = 2 ∧ 10 ≤ injArg ∧ injArg ≤ 40)) && decide ((lane < 256 ∨ s.pair.linkUp = false) ∧ (s.lanes.get lane).state = .swatch))
        (.direct) (false) (8) (2) (0) (0) (0) (0) (0) (sPort 0 .swatch) = true) ∧
    ((fun (src : CmdSrc) (clear : Bool) (lane action txPattern rxPattern loopback injKind injArg : Nat) (s : State) => decide (s.acts
        (.laneSwatch src clear lane action txPattern rxPattern loopback injKind injArg) src 0x0309 = true) && decide (lane < 264 ∧ action = 3 ∧
        txPattern = 0 ∧ rxPattern = 0 ∧ loopback = 0 ∧ injKind = 0 ∧ injArg = 0) && decide ((lane < 256 ∨ s.pair.linkUp = false) ∧ (s.lanes.get
        lane).state = .swatch) && decide ((s.lanes.get lane).swatch.locked = false)) (.direct) (true) (8) (3) (0) (0) (0) (0) (0) (sPort 0
        .swatch) = true) ∧
    ((fun (src : CmdSrc) (clear : Bool) (lane action txPattern rxPattern loopback injKind injArg : Nat) (s : State) => (fun (b : Nat) =>
        (s.acts (.laneSwatch src clear lane action txPattern rxPattern loopback injKind injArg) src 0x0309 = true) ∧ (b = min ((s.lanes.get
        lane).swatch.bits + Config.freeNat s.free + (s.lanes.get lane).swatch.injDue) (2 ^ 48 - 1)) ∧ (lane < 264 ∧ action = 3 ∧ txPattern = 0 ∧
        rxPattern = 0 ∧ loopback = 0 ∧ injKind = 0 ∧ injArg = 0) ∧ ((lane < 256 ∨ s.pair.linkUp = false) ∧ (s.lanes.get lane).state = .swatch ∧
        (s.lanes.get lane).swatch.locked = true ∧ (s.lanes.get lane).swatch.loopback = false)) (min ((s.lanes.get lane).swatch.bits +
        Config.freeNat s.free + (s.lanes.get lane).swatch.injDue) (2 ^ 48 - 1))) (.direct) (true) (8) (3) (0) (0) (0) (0) (0) (sLocked)) ∧
    ((fun (src : CmdSrc) (lane vga dwell : Nat) (s : State) => decide (s.acts (.laneSweep src lane vga dwell) src 0x030A = true) && decide
        (lane < 264 ∧ vga < 64 ∧ msU ≤ dwell ∧ dwell ≤ 1000 * msU ∧ (lane < 256 ∨ s.pair.linkUp = false)) && decide ((s.lanes.get lane).state =
        .swatch ∧ (s.lanes.get lane).swatch.sweeping = false ∧ (s.lanes.get lane).swatch.locked = true)) (.direct) (8) (63) (1000 * msU) ((sPort
        0 .swatch).updLane 8 fun x => { x with swatch := { x.swatch with locked := true } }) = true) ∧
    ((fun (src : CmdSrc) (lane page : Nat) (s : State) => decide (s.acts (.laneSweepRead src lane page) src 0x030B = true) && decide (lane <
        264 ∧ page < 64 ∧ (s.lanes.get lane).swatch.sweepDone = true)) (.direct) (8) (63) ((sPort 0 .swatch).updLane 8 fun x =>
        { x with swatch := { x.swatch with sweepDone := true } }) = true) ∧
    ((fun (src : CmdSrc) (lane page : Nat) (s : State) => decide (s.acts (.laneSweepRead src lane page) src 0x030B = true) && decide (lane <
        264 ∧ page < 64 ∧ (s.lanes.get lane).swatch.sweepDone = false)) (.direct) (8) (63) (sPort 0 .swatch) = true) := by
  and_intros
  all_goals first | decide +kernel | rfl

/-- The hypotheses of each clause of ParserCommands can be met. -/
theorem test_meets_ParserCommands :
    ((fun (src : CmdSrc) (trustPcp trustDscp : Bool) (port malformed lenConflict profile pcpMap dscpMap defClass : Nat) (s : State) => decide
        (s.acts (.parseConfigurePort src trustPcp trustDscp port malformed lenConflict profile pcpMap dscpMap defClass) src 0x0420 = true) &&
        decide (port < 256 ∧ malformed < 2 ∧ lenConflict < 2 ∧ profile < 16 ∧ pcpMap < 8 ∧ dscpMap < 8 ∧ defClass < 8)) (.direct) (true) (false)
        (255) (1) (0) (15) (7) (0) (7) (State.reset) = true) ∧
    ((fun (src : CmdSrc) (enable0 enable1 : Bool) (profile cond0 anchor0 offset0 width0 cond1 anchor1 offset1 width1 : Nat) (s : State) =>
        decide (s.acts (.parseConfigureExtract src enable0 enable1 profile cond0 anchor0 offset0 width0 cond1 anchor1 offset1 width1) src 0x0421
        = true) && decide (profile < 16 ∧ cond0 < 4 ∧ anchor0 < 5 ∧ offset0 < 256 ∧ 1 ≤ width0 ∧ width0 ≤ 4) && decide (cond1 < 4 ∧ anchor1 < 5
        ∧ offset1 < 256 ∧ 1 ≤ width1 ∧ width1 ≤ 4)) (.direct) (true) (true) (15) (3) (4) (255) (1) (0) (0) (0) (4) (State.reset) = true) ∧
    ((fun (src : CmdSrc) (part : Nat) (bytes : List Byte) (s : State) => decide (s.acts (.aclStage src part bytes) src 0x0422 = true) && decide
        (part < 4 ∧ s.fence.waiting = [])) (.direct) (3) ([1, 2]) (State.reset) = true) ∧
    ((fun (src : CmdSrc) (copy capture setClass steer redirect : Bool) (entry kind tc profile port : Nat) (s : State) => (fun (v : BitVec 640)
        => (fun (m : BitVec 640) => decide (s.acts (.aclCommit src copy capture setClass steer redirect entry kind tc profile port) src 0x0423 =
        true) && decide (v = BitVec.ofNat 640 (ofBe (padTo 40 ((s.aclStaged src).get 0) ++ padTo 40 ((s.aclStaged src).get 1)))) && decide (m =
        BitVec.ofNat 640 (ofBe (padTo 40 ((s.aclStaged src).get 2) ++ padTo 40 ((s.aclStaged src).get 3)))) && decide (entry < 32768 ∧ kind < 3
        ∧ aclActionOk copy setClass steer redirect kind = true ∧ aclBitsOk v m = true) && decide (((List.range 4).all fun k => (s.aclStaged
        src).has k) = true ∧ s.fence.waiting = []) && decide ((if setClass then tc < 8 else tc = 0) ∧ (if steer then profile < 64 else profile =
        0) ∧ (if redirect then port < 256 else port = 0))) (BitVec.ofNat 640 (ofBe (padTo 40 ((s.aclStaged src).get 2) ++ padTo 40 ((s.aclStaged
        src).get 3))))) (BitVec.ofNat 640 (ofBe (padTo 40 ((s.aclStaged src).get 0) ++ padTo 40 ((s.aclStaged src).get 1))))) (.direct) (true)
        (true) (true) (false) (true) (32767) (0) (7) (0) (255) (State.reset.setAclStage .direct [(0, []), (1, []), (2, []), (3, [])]) = true) ∧
    ((fun (src : CmdSrc) (entry : Nat) (s : State) => decide (s.acts (.aclDelete src entry) src 0x0424 = true) && decide (entry < 32768))
        (.direct) (32767) (State.reset) = true) ∧
    ((fun (src : CmdSrc) (clear : Bool) (entry part : Nat) (s : State) => (fun (e : AclEntry) => decide (s.acts (.aclRead src clear entry part)
        src 0x0425 = true) && decide (entry < 32768 ∧ part < 4 ∧ s.parse.acl.find entry = some e)) ((s.parse.acl.find entry).getD
        ({ hits := 4 }))) (.direct) (true) (5) (3) ({ State.reset with parse := { State.reset.parse with acl := [(5, { hits := 4 })] } }) = true) ∧
    ((fun (src : CmdSrc) (reason rate burst : Nat) (s : State) => decide (s.acts (.slowConfigure src reason rate burst) src 0x0429 = true) &&
        decide (1 ≤ reason ∧ reason ≤ 15 ∧ rate ≤ 1000000 ∧ 1 ≤ burst ∧ burst ≤ 4096)) (.direct) (15) (1000000) (1) (State.reset) = true) ∧
    ((fun (src : CmdSrc) (clear : Bool) (port : Nat) (s : State) => decide (s.acts (.parseGetCounts src clear port) src 0x042A = true) &&
        decide (port < 256)) (.direct) (true) (255) (State.reset) = true) := by
  and_intros
  all_goals decide +kernel

/-- The hypotheses of each clause of SteeringCommands can be met. -/
theorem test_meets_SteeringCommands :
    ((fun (src : CmdSrc) (symmetric : Bool) (profile mode fields seed field sh m b absent : Nat) (s : State) => decide (s.acts
        (.steerConfigureProfile src symmetric profile mode fields seed field sh m b absent) src 0x0426 = true) && decide (profile < 64 ∧ mode =
        0 ∧ fields < 16384 ∧ field = 0 ∧ sh = 0 ∧ m = 0 ∧ b = 0 ∧ absent = 0)) (.direct) (true) (63) (0) (16383) (77) (0) (0) (0) (0) (0)
        (State.reset) = true) ∧
    ((fun (src : CmdSrc) (symmetric : Bool) (profile mode fields seed field sh m b absent : Nat) (s : State) => decide (s.acts
        (.steerConfigureProfile src symmetric profile mode fields seed field sh m b absent) src 0x0426 = true) && decide (symmetric = false ∧
        profile < 64 ∧ mode = 1 ∧ fields = 0 ∧ seed = 0 ∧ field < 5 ∧ sh < 32 ∧ 1 ≤ m ∧ m ≤ 4096 ∧ b + m ≤ 4096 ∧ absent < 2)) (.direct) (false)
        (63) (1) (0) (0) (4) (31) (1) (4095) (1) (State.reset) = true) ∧
    ((fun (src : CmdSrc) (table first count : Nat) (entries : List Nat) (s : State) => decide (s.acts (.steerWrite src table first count
        entries) src 0x0427 = true) && decide (table < 64 ∧ first < 4096 ∧ 1 ≤ count ∧ count ≤ 12 ∧ first + count ≤ 4096 ∧ entries.length =
        count ∧ entries.all indOk = true)) (.direct) (63) (4084) (12) (List.replicate 12 0x80000000) (State.reset) = true) ∧
    ((fun (src : CmdSrc) (table first count : Nat) (s : State) => decide (s.acts (.steerRead src table first count) src 0x0428 = true) &&
        decide (table < 64 ∧ first < 4096 ∧ 1 ≤ count ∧ count ≤ 12 ∧ first + count ≤ 4096)) (.direct) (63) (4095) (1) (State.reset) = true) := by
  and_intros
  all_goals decide +kernel

/-- The hypotheses of each clause of AddressTableCommands can be met. -/
theorem test_meets_AddressTableCommands :
    ((fun (src : CmdSrc) (enable l3 : Bool) (vid : Nat) (members untagged : BitVec 256) (unknown floodMgid rmac : Nat) (s : State) => decide
        (s.acts (.vlanConfigure src enable l3 vid members untagged unknown floodMgid rmac) src 0x0401 = true) && decide (vidOk vid = true ∧
        unknown < 3 ∧ floodMgid < 65536 ∧ rmac < 64) && decide ((enable = true ∨ s.vlanNamed vid = false) ∧ (l3 = true ∨ s.vlanRouted vid =
        false))) (.direct) (true) (false) (4094) (5) (1) (2) (65535) (63) (State.reset) = true) ∧
    ((fun (src : CmdSrc) (enable l3 : Bool) (vid : Nat) (members untagged : BitVec 256) (unknown floodMgid rmac : Nat) (s : State) => decide
        (s.acts (.vlanConfigure src enable l3 vid members untagged unknown floodMgid rmac) src 0x0401 = true) && decide (vidOk vid = true ∧
        unknown < 3 ∧ floodMgid < 65536 ∧ rmac < 64) && decide ((s.fwd.vlans.get vid).enable = true ∧ enable = false ∧ s.vlanNamed vid = true ∨
        (s.fwd.vlans.get vid).l3 = true ∧ l3 = false ∧ s.vlanRouted vid = true)) (.direct) (false) (false) (5) (5) (1) (2) (65535) (63)
        (State.reset.updFwd fun f => { f with vlans := [(5, { enable := true, l3 := true })], nhs := [(3, { vid := 5 })] }) = true) ∧
    ((fun (src : CmdSrc) (port pvid : Nat) (s : State) => decide (s.acts (.portSetPvid src port pvid) src 0x0402 = true) && decide (port < 256
        ∧ vidOk pvid = true)) (.direct) (255) (1) (State.reset) = true) ∧
    ((fun (src : CmdSrc) (index mac : Nat) (s : State) => decide (s.acts (.routerMacSet src index mac) src 0x0403 = true) && decide (index <
        64)) (.direct) (63) (5) (State.reset) = true) ∧
    ((fun (src : CmdSrc) (replace : Bool) (vid da result : Nat) (s : State) => decide (s.acts (.l2Add src replace vid da result) src 0x0404 =
        true) && decide (vidOk vid = true ∧ resultOk [0, 1, 4, 5] result = true ∧ s.fwd.l2.find (l2Key vid da) = none ∧ Machine.fits 0 1
        (s.takenLocs 0) = true)) (.direct) (false) (4094) (2 ^ 48 - 1) (0x200000FF) (State.reset) = true) ∧
    ((fun (src : CmdSrc) (replace : Bool) (vid da result : Nat) (s : State) => (fun (x : L2Entry) => decide (s.acts (.l2Add src replace vid da
        result) src 0x0404 = true) && decide (vidOk vid = true ∧ resultOk [0, 1, 4, 5] result = true ∧ replace = true ∧ s.fwd.l2.find (l2Key vid
        da) = some x)) ((s.fwd.l2.find (l2Key vid da)).getD ({}))) (.direct) (true) (1) (5) (0x80000000) (State.reset.updFwd fun f =>
        { f with l2 := [(l2Key 1 5, {})] }) = true) ∧
    ((fun (src : CmdSrc) (replace : Bool) (vid da result : Nat) (s : State) => decide (s.acts (.l2Add src replace vid da result) src 0x0404 =
        true) && decide (vidOk vid = true ∧ resultOk [0, 1, 4, 5] result = true ∧ replace = false ∧ (s.fwd.l2.find (l2Key vid da)).isSome =
        true)) (.direct) (false) (1) (5) (0x80000000) (State.reset.updFwd fun f => { f with l2 := [(l2Key 1 5, {})] }) = true) ∧
    ((fun (src : CmdSrc) (vid da : Nat) (s : State) => decide (s.acts (.l2Delete src vid da) src 0x0405 = true) && decide (vidOk vid = true))
        (.direct) (1) (5) (State.reset.updFwd fun f => { f with l2 := [(l2Key 1 5, {})] }) = true) ∧
    ((fun (src : CmdSrc) (decTtl : Bool) (nh port vid da rmac : Nat) (s : State) => decide (s.acts (.nhWrite src decTtl nh port vid da rmac)
        src 0x0406 = true) && decide (nh < 65536 ∧ port < 256 ∧ vidOk vid = true ∧ rmac < 64)) (.direct) (true) (65535) (255) (1) (7) (63)
        (State.reset) = true) ∧
    ((fun (src : CmdSrc) (nh : Nat) (s : State) => decide (s.acts (.nhDelete src nh) src 0x0407 = true) && decide (nh < 65536 ∧ s.nhNamed nh =
        false)) (.direct) (65535) (State.reset) = true) ∧
    ((fun (src : CmdSrc) (nh : Nat) (s : State) => decide (s.acts (.nhDelete src nh) src 0x0407 = true) && decide (nh < 65536 ∧ s.nhNamed nh =
        true)) (.direct) (7) (State.reset.updFwd fun f => { f with nhs := [(7, {})], ecmp := [(1, { members := [7], locs := [0] })] }) = true) := by
  and_intros
  all_goals decide +kernel

/-- The hypotheses of each clause of RouteCommands can be met. -/
theorem test_meets_RouteCommands :
    ((fun (src : CmdSrc) (replace : Bool) (family addr result : Nat) (s : State) => decide (s.acts (.hostAdd src replace family addr result)
        src 0x0408 = true) && decide (family < 2 ∧ addr < 2 ^ famBits (decide (family = 1)) ∧ resultOk [0, 2, 3, 4, 5] result = true ∧
        s.resultExists result = true) && decide (s.fwd.hosts.find (hostKey (decide (family = 1)) addr) = none ∧ Machine.fits 1 (family + 1)
        (s.takenLocs 1) = true)) (.direct) (false) (0) (2 ^ 32 - 1) (0x80000000) (State.reset) = true) ∧
    ((fun (src : CmdSrc) (replace : Bool) (family addr result : Nat) (s : State) => (fun (x : HostEntry) => decide (s.acts (.hostAdd src
        replace family addr result) src 0x0408 = true) && decide (family < 2 ∧ addr < 2 ^ famBits (decide (family = 1)) ∧ resultOk [0, 2, 3, 4,
        5] result = true ∧ s.resultExists result = true) && decide (replace = true ∧ s.fwd.hosts.find (hostKey (decide (family = 1)) addr) =
        some x)) ((s.fwd.hosts.find (hostKey (decide (family = 1)) addr)).getD ({}))) (.direct) (true) (0) (5) (0x80000000) (State.reset.updFwd
        fun f => { f with hosts := [(5, {})] }) = true) ∧
    ((fun (src : CmdSrc) (replace : Bool) (family addr result : Nat) (s : State) => decide (s.acts (.hostAdd src replace family addr result)
        src 0x0408 = true) && decide (family < 2 ∧ addr < 2 ^ famBits (decide (family = 1)) ∧ resultOk [0, 2, 3, 4, 5] result = true) && decide
        (s.resultExists result = false ∨ replace = false ∧ (s.fwd.hosts.find (hostKey (decide (family = 1)) addr)).isSome = true)) (.direct)
        (false) (0) (5) (0x80000000) (State.reset.updFwd fun f => { f with hosts := [(5, {})] }) = true) ∧
    ((fun (src : CmdSrc) (family addr : Nat) (s : State) => decide (s.acts (.hostDelete src family addr) src 0x0409 = true) && decide (family <
        2 ∧ addr < 2 ^ famBits (decide (family = 1)))) (.direct) (1) (2 ^ 128 - 1) (State.reset) = true) ∧
    ((fun (src : CmdSrc) (replace : Bool) (family pfx length result : Nat) (s : State) => decide (s.acts (.lpmAdd src replace family pfx length
        result) src 0x040A = true) && decide (family < 2 ∧ pfx < 2 ^ famBits (decide (family = 1)) ∧ length ≤ (if family = 1 then 64 else 32) ∧
        resultOk [0, 2, 3, 4, 5] result = true ∧ s.resultExists result = true) && decide ((s.fwd.lpm (decide (family = 1))).find (lpmKey (decide
        (family = 1)) pfx length) = none ∧ Machine.fits (family + 2) 1 (s.takenLocs (family + 2)) = true)) (.direct) (false) (0) (2 ^ 32 - 1)
        (32) (0x80000000) (State.reset) = true) ∧
    ((fun (src : CmdSrc) (replace : Bool) (family pfx length result : Nat) (s : State) => (fun (x : LpmEntry) => decide (s.acts (.lpmAdd src
        replace family pfx length result) src 0x040A = true) && decide (family < 2 ∧ pfx < 2 ^ famBits (decide (family = 1)) ∧ length ≤ (if
        family = 1 then 64 else 32) ∧ resultOk [0, 2, 3, 4, 5] result = true ∧ s.resultExists result = true) && decide (replace = true ∧
        (s.fwd.lpm (decide (family = 1))).find (lpmKey (decide (family = 1)) pfx length) = some x)) (((s.fwd.lpm (decide (family = 1))).find
        (lpmKey (decide (family = 1)) pfx length)).getD ({}))) (.direct) (true) (0) (0) (0) (0x80000000) (State.reset.updFwd fun f =>
        { f with lpm4 := [(0, {})] }) = true) ∧
    ((fun (src : CmdSrc) (replace : Bool) (family pfx length result : Nat) (s : State) => decide (s.acts (.lpmAdd src replace family pfx length
        result) src 0x040A = true) && decide (family < 2 ∧ pfx < 2 ^ famBits (decide (family = 1)) ∧ length ≤ (if family = 1 then 64 else 32) ∧
        resultOk [0, 2, 3, 4, 5] result = true) && decide (s.resultExists result = false ∨ replace = false ∧ ((s.fwd.lpm (decide (family =
        1))).find (lpmKey (decide (family = 1)) pfx length)).isSome = true)) (.direct) (false) (0) (0) (0) (0x80000000) (State.reset.updFwd fun
        f => { f with lpm4 := [(0, {})] }) = true) ∧
    ((fun (src : CmdSrc) (family pfx length : Nat) (s : State) => decide (s.acts (.lpmDelete src family pfx length) src 0x040B = true) &&
        decide (family < 2 ∧ pfx < 2 ^ famBits (decide (family = 1)) ∧ length ≤ (if family = 1 then 64 else 32))) (.direct) (1) (0) (64)
        (State.reset) = true) ∧
    ((fun (src : CmdSrc) (first count : Nat) (members : List Member) (s : State) => decide (s.acts (.memberStage src first count members) src
        0x040C = true) && decide (first < 256 ∧ 1 ≤ count ∧ count ≤ 12 ∧ first + count ≤ 256 ∧ members.length = count ∧ members.all memberOk =
        true ∧ s.fence.waiting = [])) (.direct) (255) (1) ([{ nh := 3 }]) (State.reset) = true) ∧
    ((fun (src : CmdSrc) (group count profile : Nat) (s : State) => decide (s.acts (.ecmpCommit src group count profile) src 0x040D = true) &&
        decide (group < 4096 ∧ 1 ≤ count ∧ count ≤ 256 ∧ profile < 64 ∧ s.fence.waiting = []) && decide (((List.range count).all fun i =>
        (s.memStaged src).has i && decide (((s.memStaged src).get i).nh < 65536) && s.fwd.nhs.has ((s.memStaged src).get i).nh) = true) &&
        decide (Machine.fits 6 count (s.takenBeside 6 (s.fwd.ecmp.get group).locs) = true)) (.direct) (4095) (2) (63) ((State.reset.updFwd fun f
        => { f with nhs := [(3, {})] }).setMemStage .direct [(0, { nh := 3 }), (1, { nh := 3 })]) = true) ∧
    ((fun (src : CmdSrc) (group count profile : Nat) (s : State) => decide (s.acts (.ecmpCommit src group count profile) src 0x040D = true) &&
        decide (group < 4096 ∧ 1 ≤ count ∧ count ≤ 256 ∧ profile < 64 ∧ s.fence.waiting = [] ∧ s.memStaged src = [])) (.direct) (4095) (2) (63)
        (State.reset) = true) ∧
    ((fun (src : CmdSrc) (group : Nat) (s : State) => decide (s.acts (.ecmpDelete src group) src 0x040E = true) && decide (group < 4096 ∧
        s.ecmpNamed group = false)) (.direct) (4095) (State.reset) = true) ∧
    ((fun (src : CmdSrc) (group : Nat) (s : State) => decide (s.acts (.ecmpDelete src group) src 0x040E = true) && decide (group < 4096 ∧
        s.ecmpNamed group = true)) (.direct) (9) (State.reset.updFwd fun f => { f with l2 := [], hosts := [(5, { result := mkResult 3 9 })] }) =
        true) ∧
    ((fun (src : CmdSrc) (aon prune : Bool) (mgid count : Nat) (s : State) => decide (s.acts (.mcastCommit src aon prune mgid count) src 0x040F
        = true) && decide (mgid < 65536 ∧ count ≤ 256 ∧ s.fence.waiting = [] ∧ portsOnce ((List.range count).map fun i => (s.memStaged src).get
        i) = true) && decide (((List.range count).all fun i => (s.memStaged src).has i && decide (((s.memStaged src).get i).port < 256 ∧
        ((s.memStaged src).get i).vid ≤ 4094)) = true) && decide ((((List.range count).map fun i => (s.memStaged src).get i).any fun m =>
        m.routed && decide (m.vid ≠ 0) && !(s.fwd.vlans.get m.vid).l3) = false) && decide (Machine.fits 8 count (s.takenBeside 8
        (s.fwd.mcast.get mgid).locs) = true)) (.direct) (true) (true) (65535) (0) (State.reset) = true) := by
  and_intros
  all_goals decide +kernel

/-- The hypotheses of each clause of TableReadCommands can be met. -/
theorem test_meets_TableReadCommands :
    ((fun (src : CmdSrc) (table : Nat) (key : List Byte) (s : State) => (fun (e : BitVec 32 × List Nat) => decide (s.acts (.tableLookup src
        table key) src 0x0410 = true) && decide (table < 4 ∧ (lookupKey table key).2 = true ∧ s.entryOf table (lookupKey table key).1 = some e))
        ((s.entryOf table (lookupKey table key).1).getD ((7, [9])))) (.direct) (0) ([0, 0, 0, 1, 0, 0, 0, 0, 0, 5]) (State.reset.updFwd fun f =>
        { f with l2 := [(l2Key 1 5, { result := 7, loc := 9 })] }) = true) ∧
    ((fun (src : CmdSrc) (table : Nat) (key : List Byte) (s : State) => decide (s.acts (.tableLookup src table key) src 0x0410 = true) &&
        decide (table < 4 ∧ (lookupKey table key).2 = true ∧ s.entryOf table (lookupKey table key).1 = none) && decide ((s.fwd.lost.any fun x =>
        decide (x.table = table ∧ x.key = some (lookupKey table key).1)) = false)) (.direct) (3) ([1]) (State.reset) = true) ∧
    ((fun (src : CmdSrc) (table : Nat) (key : List Byte) (s : State) => (fun (l : LostLoc) => decide (s.acts (.tableLookup src table key) src
        0x0410 = true) && decide (table < 4 ∧ (lookupKey table key).2 = true ∧ s.entryOf table (lookupKey table key).1 = none) && decide
        ((s.fwd.lost.find? fun x => decide (x.table = table ∧ x.key = some (lookupKey table key).1)) = some l)) (((s.fwd.lost.find? fun x =>
        decide (x.table = table ∧ x.key = some (lookupKey table key).1))).getD ({ table := 2, loc := 4, key := some 0 }))) (.direct) (2) ([])
        (State.reset.updFwd fun f => { f with lost := [{ table := 2, loc := 4, key := some 0 }] }) = true) ∧
    ((fun (src : CmdSrc) (table : Nat) (key : List Byte) (s : State) => decide (s.acts (.tableLookup src table key) src 0x0410 = true) &&
        decide (4 ≤ table ∧ table < 11 ∧ table ≠ 6 ∧ table ≠ 8 ∧ (lookupKey table key).2 = true)) (.direct) (10) ([0, 63]) (State.reset) = true) ∧
    ((fun (src : CmdSrc) (table location : Nat) (s : State) => (fun (k : Nat) => decide (s.acts (.tableReadIndex src table location) src 0x0411
        = true) && decide (table < 4 ∧ locationOk table location = true ∧ s.keyAt table location = some k ∧ s.isLost table location = false))
        ((s.keyAt table location).getD (l2Key 1 5))) (.direct) (0) (9) (State.reset.updFwd fun f =>
        { f with l2 := [(l2Key 1 5, { result := 7, loc := 9 })] }) = true) ∧
    ((fun (src : CmdSrc) (table location : Nat) (s : State) => decide (s.acts (.tableReadIndex src table location) src 0x0411 = true) && decide
        (table < 4 ∧ locationOk table location = true ∧ s.keyAt table location = none ∧ s.isLost table location = false)) (.direct) (3) (65535)
        (State.reset) = true) ∧
    ((fun (src : CmdSrc) (table location : Nat) (s : State) => (fun (l : LostLoc) => decide (s.acts (.tableReadIndex src table location) src
        0x0411 = true) && decide (table < 4 ∧ locationOk table location = true ∧ (s.fwd.lost.find? fun x => decide (x.table = table ∧ x.loc =
        location)) = some l ∧ l.known = false)) (((s.fwd.lost.find? fun x => decide (x.table = table ∧ x.loc = location))).getD
        ({ table := 2, loc := 4 }))) (.direct) (2) (4) (State.reset.updFwd fun f => { f with lost := [{ table := 2, loc := 4 }] }) = true) ∧
    ((fun (src : CmdSrc) (table location g i : Nat) (s : State) => decide (s.acts (.tableReadIndex src table location) src 0x0411 = true) &&
        decide ((table = 6 ∨ table = 8) ∧ locationOk table location = true ∧ s.memberAt table location = some (g, i) ∧ s.isLost table location =
        false)) (.direct) (6) (8) (4095) (1) (State.reset.updFwd fun f => { f with ecmp := [(4095, { members := [3, 4], locs := [7, 8] })] }) =
        true) ∧
    ((fun (src : CmdSrc) (table location : Nat) (s : State) => decide (s.acts (.tableReadIndex src table location) src 0x0411 = true) && decide
        ((table = 4 ∨ table = 5 ∨ table = 7 ∨ table = 9 ∨ table = 10) ∧ locationOk table location = true ∧ s.isLost table location = false))
        (.direct) (9) (4094) (State.reset) = true) ∧
    ((fun (src : CmdSrc) (table location : Nat) (s : State) => decide (s.acts (.tableClearLost src table location) src 0x0412 = true) && decide
        (table < 11 ∧ locationOk table location = true ∧ s.isLost table location = true)) (.direct) (2) (4) (State.reset.updFwd fun f =>
        { f with lost := [{ table := 2, loc := 4 }] }) = true) ∧
    ((fun (src : CmdSrc) (table location : Nat) (s : State) => decide (s.acts (.tableClearLost src table location) src 0x0412 = true) && decide
        (table < 11 ∧ locationOk table location = true ∧ s.isLost table location = false)) (.direct) (10) (63) (State.reset) = true) ∧
    ((fun (src : CmdSrc) (clear : Bool) (s : State) => decide (s.acts (.tableGetUsage src clear) src 0x0413 = true)) (.direct) (true)
        (State.reset) = true) := by
  and_intros
  all_goals decide +kernel

/-- The hypotheses of each clause of CoreCommands can be met. -/
theorem test_meets_CoreCommands :
    ((fun (src : CmdSrc) (kind map first count : Nat) (classes : List Nat) (s : State) => decide (s.acts (.classSetMap src kind map first count
        classes) src 0x0501 = true) && decide (kind < 2 ∧ map < 8 ∧ first < (if kind = 0 then 8 else 64) ∧ 1 ≤ count ∧ first + count ≤ (if kind
        = 0 then 8 else 64) ∧ classes.length = count ∧ (classes.all fun c => decide (c < 8)) = true)) (.direct) (0) (7) (0) (8) ([0, 1, 2, 3, 4,
        5, 6, 7]) (State.reset) = true) ∧
    ((fun (src : CmdSrc) (kind map first count : Nat) (classes : List Nat) (s : State) => decide (s.acts (.classSetMap src kind map first count
        classes) src 0x0501 = true) && decide (kind = 1 ∧ map < 8 ∧ first < 64 ∧ 1 ≤ count ∧ first + count ≤ 64 ∧ classes.length = count ∧
        (classes.all fun c => decide (c < 8)) = true)) (.direct) (1) (7) (63) (1) ([7]) (State.reset) = true) ∧
    ((fun (src : CmdSrc) (cls cl spillOn returnLow : Nat) (s : State) => decide (s.acts (.bufferConfigureClass src cls cl spillOn returnLow)
        src 0x0510 = true) && decide (cls < 8 ∧ cl ≤ 524288) && decide ((if cls < 4 then 16 ≤ spillOn ∧ spillOn ≤ 65536 ∧ 16 ≤ returnLow ∧
        returnLow ≤ 65536 else spillOn = 0 ∧ returnLow = 0))) (.direct) (3) (524288) (16) (65536) (State.reset) = true) ∧
    ((fun (src : CmdSrc) (port cls ql weight : Nat) (s : State) => decide (s.acts (.queueConfigure src port cls ql weight) src 0x0511 = true)
        && decide (port < 256 ∧ cls < 8 ∧ 1 ≤ ql ∧ ql ≤ (if s.kindOf port cls = 1 then 134217728 else 524288) ∧ 1 ≤ weight ∧ weight ≤ 127) &&
        decide (s.kindOf port cls = 1 → s.fuses.orderCode = .lc → ql ≤ 524288)) (.direct) (255) (7) (524288) (127) (State.reset) = true) ∧
    ((fun (src : CmdSrc) (port cls ql weight : Nat) (s : State) => decide (s.acts (.queueConfigure src port cls ql weight) src 0x0511 = true)
        && decide (port < 256 ∧ cls < 8 ∧ 1 ≤ weight ∧ weight ≤ 127 ∧ s.kindOf port cls = 1 ∧ s.fuses.orderCode = .lc ∧ 524288 < ql ∧ ql ≤
        134217728)) (.direct) (255) (3) (134217728) (1)
        ({ State.reset with core := { State.reset.core with kinds := [(1023, true)] }, fuses := { State.reset.fuses with orderCode := .lc } }) =
        true) ∧
    ((fun (src : CmdSrc) (cut : Bool) (port limit : Nat) (s : State) => decide (s.acts (.portConfigureEgress src cut port limit) src 0x0512 =
        true) && decide (port < 256 ∧ 16 ≤ limit ∧ limit ≤ 16384)) (.direct) (true) (255) (16384) (State.reset) = true) ∧
    ((fun (src : CmdSrc) (spill : Bool) (cls : Nat) (s : State) => decide (s.acts (.skeinConfigure src spill cls) src 0x0513 = true) && decide
        (cls < 4 ∧ s.fuses.orderCode ≠ .lc ∧ (spill = true → s.glob.pdOn.getLsbD 5 = true ∧ s.core.skein = .ready))) (.direct) (false) (3)
        (State.reset) = true) ∧
    ((fun (src : CmdSrc) (spill : Bool) (cls : Nat) (s : State) => decide (s.acts (.skeinConfigure src spill cls) src 0x0513 = true) && decide
        (cls < 4 ∧ s.fuses.orderCode = .lc)) (.direct) (false) (0) ({ State.reset with fuses := { State.reset.fuses with orderCode := .lc } }) =
        true) ∧
    ((fun (src : CmdSrc) (clear : Bool) (s : State) => decide (s.acts (.skeinGetStatus src clear) src 0x0514 = true) && decide
        (s.fuses.orderCode ≠ .lc)) (.direct) (true) (State.reset) = true) ∧
    ((fun (src : CmdSrc) (clear : Bool) (port cls : Nat) (s : State) => decide (s.acts (.coreGetQueue src clear port cls) src 0x0515 = true) &&
        decide (port < 256 ∧ cls < 8)) (.direct) (true) (255) (7) (State.reset) = true) ∧
    ((fun (src : CmdSrc) (s : State) => decide (s.acts (.bufferGetStatus src) src 0x0516 = true)) (.direct) (State.reset) = true) ∧
    ((fun (src : CmdSrc) (port cls kind : Nat) (s : State) => decide (s.acts (.classSetKind src port cls kind) src 0x0520 = true) && decide
        (port < 256 ∧ cls < 4 ∧ kind < 2)) (.direct) (255) (3) (0) (State.reset) = true) ∧
    ((fun (src : CmdSrc) (port cls kind : Nat) (s : State) => decide (s.acts (.classSetKind src port cls kind) src 0x0520 = true) && decide
        (port = 0xFFFF ∧ cls < 4 ∧ kind < 2)) (.direct) (0xFFFF) (0) (1) (State.reset) = true) := by
  and_intros
  all_goals decide +kernel

/-- The hypotheses of each clause of ContractCommands can be met. -/
theorem test_meets_ContractCommands :
    ((fun (src : CmdSrc) (replace : Bool) (port cls lMax rate burst fmax : Nat) (mask : BitVec 256) (s : State) => (fun (x : Contract) =>
        decide ((contractRanges port cls lMax rate burst fmax mask).all id = true ∧ x = s.newContract (contractKey port cls) lMax rate burst
        fmax mask)) (s.newContract (contractKey port cls) lMax rate burst fmax mask)) (.direct) (false) (255) (7) (600 * nsU) (1) (1) (64) (1)
        (State.reset) = true) ∧
    ((fun (src : CmdSrc) (replace : Bool) (port cls lMax rate burst fmax : Nat) (mask : BitVec 256) (s : State) => (fun (x : Contract) =>
        decide ((contractRanges port cls lMax rate burst fmax mask).all id = true ∧ x = s.newContract (contractKey port cls) lMax rate burst
        fmax mask) && decide (s.contracts.table.has (contractKey port cls) = true → replace = true ∧ (s.contracts.table.get (contractKey port
        cls)).state ≠ .draining)) (s.newContract (contractKey port cls) lMax rate burst fmax mask)) (.direct) (false) (255) (7) (600 * nsU) (1)
        (1) (64) (1) (State.reset) = true) ∧
    ((fun (src : CmdSrc) (port cls : Nat) (s : State) => decide (s.acts (.contractDelete src port cls) src 0x0522 = true) && decide (port < 256
        ∧ 4 ≤ cls ∧ cls < 8 ∧ s.contracts.table.has (contractKey port cls) = true ∧ (s.contracts.table.get (contractKey port cls)).state ≠
        .draining)) (.direct) (255) (7) ({ State.reset with contracts := { State.reset.contracts with table := [(contractKey 255 7, {})] } }) =
        true) ∧
    ((fun (src : CmdSrc) (port cls : Nat) (s : State) => decide (s.acts (.contractDelete src port cls) src 0x0522 = true) && decide (port < 256
        ∧ 4 ≤ cls ∧ cls < 8 ∧ (s.contracts.table.has (contractKey port cls) = true → (s.contracts.table.get (contractKey port cls)).state =
        .draining))) (.direct) (255) (7) (State.reset) = true) ∧
    ((fun (src : CmdSrc) (clear : Bool) (port cls : Nat) (s : State) => (fun (x : Contract) => decide (s.acts (.contractGet src clear port cls)
        src 0x0524 = true) && decide (port < 256 ∧ 4 ≤ cls ∧ cls < 8 ∧ s.contracts.table.find (contractKey port cls) = some x))
        ((s.contracts.table.find (contractKey port cls)).getD ({ maxSeenGet := 5 }))) (.direct) (true) (255) (7)
        ({ State.reset with contracts := { State.reset.contracts with table := [(contractKey 255 7, { maxSeenGet := 5 })] } }) = true) ∧
    ((fun (src : CmdSrc) (clear : Bool) (port cls : Nat) (s : State) => decide (s.acts (.contractGet src clear port cls) src 0x0524 = true) &&
        decide (port < 256 ∧ 4 ≤ cls ∧ cls < 8 ∧ s.contracts.table.find (contractKey port cls) = none)) (.direct) (false) (255) (7)
        (State.reset) = true) ∧
    ((fun (src : CmdSrc) (size : Nat) (s : State) => decide (s.acts (.guaranteedPoolSet src size) src 0x0525 = true) && decide (size ≤ 262144 ∧
        resSum s.contracts.table ≤ size ∧ size ≤ s.core.gpSize + s.sharedFree)) (.direct) (0) (State.reset) = true) ∧
    ((fun (src : CmdSrc) (size : Nat) (s : State) => decide (s.acts (.guaranteedPoolSet src size) src 0x0525 = true) && decide (size ≤ 262144 ∧
        resSum s.contracts.table ≤ size ∧ s.core.gpSize + s.sharedFree < size)) (.direct) (262144)
        ({ State.reset with core := { State.reset.core with retired := 524288 } }) = true) := by
  and_intros
  all_goals decide +kernel

/-- The hypotheses of each clause of TimeCommands can be met. -/
theorem test_meets_TimeCommands :
    ((fun (src : CmdSrc) (target : KTime) (s : State) => decide (s.acts (.timeSet src target) src 0x0601 = true) && decide (target.sec < 2 ^ 64
        ∧ target.ns < 1000000000 ∧ target.sub < 65536 ∧ s.hostControls = true)) (.direct) ({ sec := 2 ^ 64 - 1, ns := 999999999, sub := 65535 })
        (State.reset) = true) ∧
    ((fun (src : CmdSrc) (target : KTime) (s : State) => decide (s.acts (.timeSet src target) src 0x0601 = true) && decide (target.sec < 2 ^ 64
        ∧ target.ns < 1000000000 ∧ target.sub < 65536 ∧ s.hostControls = false)) (.direct) ({})
        ({ State.reset with time := { State.reset.time with control := 1 } }) = true) ∧
    ((fun (src : CmdSrc) (ns : Int) (sub : Nat) (s : State) => decide (s.acts (.timeStep src ns sub) src 0x0602 = true) && decide ((ns * 65536
        + sub).natAbs ≤ 10 ^ 18 * 65536 ∧ sub < 65536 ∧ s.hostControls = true)) (.direct) (-1000000000000000000) (0) (State.reset) = true) ∧
    ((fun (src : CmdSrc) (rate : Int) (s : State) => decide (s.acts (.timeSetRate src rate) src 0x0603 = true) && decide (rate.natAbs ≤
        28147497671 ∧ s.hostControls = true)) (.direct) (-28147497671) (State.reset) = true) ∧
    ((fun (src : CmdSrc) (control : Nat) (s : State) => decide (s.acts (.timeSetControl src control) src 0x0604 = true) && decide (control < 2
        ∧ (s.time.control = 2 → fromJournal src = true))) (.direct) (1) (State.reset) = true) ∧
    ((fun (src : CmdSrc) (control : Nat) (s : State) => decide (s.acts (.timeSetControl src control) src 0x0604 = true) && decide (control < 2
        ∧ s.time.control = 2 ∧ fromJournal src = false)) (.direct) (1) ({ State.reset with time := { State.reset.time with control := 2 } }) =
        true) ∧
    ((fun (src : CmdSrc) (s : State) => decide (s.acts (.timeGet src) src 0x0605 = true)) (.direct) (State.reset) = true) ∧
    ((fun (src : CmdSrc) (leap61 leap59 : Bool) (offset : Nat) (s : State) => decide (s.acts (.timeSetUtc src leap61 leap59 offset) src 0x0606
        = true) && decide ((leap61 && leap59) = false ∧ offset < 256)) (.direct) (true) (false) (255) (State.reset) = true) := by
  and_intros
  all_goals decide +kernel

/-- The hypotheses of each clause of PtpCommands can be met. -/
theorem test_meets_PtpCommands :
    ((fun (src : CmdSrc) (enable slaveOnly : Bool) (inst profile domain : Nat) (identity : List Byte) (prio1 prio2 localPrio : Nat) (s : State)
        => decide (s.acts (.ptpConfigureInstance src enable slaveOnly inst profile domain identity prio1 prio2 localPrio) src 0x0610 = true) &&
        decide (inst < 4 ∧ profile < 4 ∧ (if profile = 3 then 24 ≤ domain ∧ domain ≤ 43 else domain ≤ 127) ∧ ofBe identity ≠ 0 ∧ ofBe identity ≠
        2 ^ 64 - 1) && decide (prio1 ≤ 255 ∧ (if profile = 3 then prio2 = 128 ∧ 1 ≤ localPrio ∧ localPrio ≤ 255 else prio2 ≤ 255 ∧ localPrio =
        0)) && decide ((s.instAhead inst).1 = true → (s.instAhead inst).2.1 = profile ∧ (s.instAhead inst).2.2 = domain)) (.direct) (true)
        (false) (3) (3) (43) ([0, 0, 0, 0, 0, 0, 0, 1]) (255) (128) (255) (State.reset) = true) ∧
    ((fun (src : CmdSrc) (masterOnly : Bool) (port inst transport dest addr : Nat) (logSync logDelay logAnnounce : Int) (annTimeout syncTimeout
        delayTimeout twoStep localPrio coastLimit maxPath delayOutlier offsetOutlier filterLen : Nat) (s : State) => decide (s.acts
        (.ptpConfigurePort src masterOnly port inst transport dest addr logSync logDelay logAnnounce annTimeout syncTimeout delayTimeout twoStep
        localPrio coastLimit maxPath delayOutlier offsetOutlier filterLen) src 0x0611 = true) && decide (port < 256 ∧ inst < 6 ∧ transport < 3 ∧
        (inst < 4 ∧ (s.instAhead inst).2.1 = 3 → transport = 0) ∧ dest < 2) && decide ((if dest = 0 then addr = 0 else transport ≠ 0 ∧ addr ≠ 0
        ∧ (if transport = 1 then addr < 2 ^ 32 else addr < 2 ^ 128))) && decide (-7 ≤ logSync ∧ logSync ≤ 1 ∧ s.messageRate port inst logSync
        logDelay logAnnounce ≤ 65536 * 32 ∧ -7 ≤ logDelay ∧ logDelay ≤ 5 ∧ -3 ≤ logAnnounce ∧ logAnnounce ≤ 4) && decide (2 ≤ annTimeout ∧
        annTimeout ≤ 255 ∧ 2 ≤ syncTimeout ∧ syncTimeout ≤ 255 ∧ 1 ≤ delayTimeout ∧ delayTimeout ≤ 255 ∧ twoStep < 2 ∧ 1 ≤ localPrio ∧ localPrio
        ≤ 255) && decide (secU ≤ coastLimit ∧ coastLimit ≤ 600 * secU ∧ usU ≤ maxPath ∧ maxPath ≤ 100 * msU ∧ 6554 ≤ delayOutlier ∧ delayOutlier
        ≤ 100 * usU ∧ nsU ≤ offsetOutlier ∧ offsetOutlier ≤ secU ∧ 1 ≤ filterLen ∧ filterLen ≤ 256) && decide (((s.ports.get port).configured &&
        (s.ports.get port).isSelvedge) = false ∧ (5 ≤ (s.portAhead port).1 ∨ 5 ≤ inst ∨ (s.portAhead port).1 = inst))) (.direct) (true) (255)
        (5) (1) (1) (5) (0) (0) (1) (3) (3) (3) (0) (128) (secU) (usU) (6554) (nsU) (1) (State.reset) = true) ∧
    ((fun (src : CmdSrc) (enable slaveOnly : Bool) (inst profile domain : Nat) (identity : List Byte) (prio1 prio2 localPrio : Nat) (s : State)
        => decide (s.acts (.ptpConfigureInstance src enable slaveOnly inst profile domain identity prio1 prio2 localPrio) src 0x0610 = true) &&
        decide (inst < 4 ∧ profile < 4 ∧ (if profile = 3 then 24 ≤ domain ∧ domain ≤ 43 else domain ≤ 127) ∧ ofBe identity ≠ 0 ∧ ofBe identity ≠
        2 ^ 64 - 1) && decide (prio1 ≤ 255 ∧ (if profile = 3 then prio2 = 128 ∧ 1 ≤ localPrio ∧ localPrio ≤ 255 else prio2 ≤ 255 ∧ localPrio =
        0)) && decide ((s.instAhead inst).1 = true ∧ ((s.instAhead inst).2.1 ≠ profile ∨ (s.instAhead inst).2.2 ≠ domain))) (.direct) (true)
        (false) (0) (0) (127) ([0, 0, 0, 0, 0, 0, 0, 1]) (0) (0) (0) (sPtp {}) = true) ∧
    ((fun (src : CmdSrc) (inst : Nat) (s : State) => decide (s.acts (.ptpGetInstance src inst) src 0x0612 = true) && decide (inst < 4))
        (.direct) (3) (State.reset) = true) ∧
    ((fun (src : CmdSrc) (clear : Bool) (port : Nat) (s : State) => decide (s.acts (.ptpGetPort src clear port) src 0x0613 = true) && decide
        (port < 256)) (.direct) (true) (255) (State.reset) = true) ∧
    ((fun (src : CmdSrc) (mode : Nat) (domains : BitVec 256) (s : State) => decide (s.acts (.ptpConfigureTc src mode domains) src 0x0614 =
        true) && decide (mode < 3)) (.direct) (2) (1) (State.reset) = true) ∧
    ((fun (src : CmdSrc) (mode slot bandwidth : Nat) (maxSlew : Int) (stepThr lockThr : Nat) (ppsOffset : Int) (s : State) => decide (s.acts
        (.servoConfigure src mode slot bandwidth maxSlew stepThr lockThr ppsOffset) src 0x0618 = true) && decide (mode < 2 ∧ (if mode = 1 then 8
        ≤ slot ∧ slot ≤ 30 else slot = 0) ∧ 1 ≤ bandwidth ∧ bandwidth ≤ 1000 ∧ 256 ≤ maxSlew ∧ maxSlew ≤ 100000 * 256) && decide ((stepThr = 0 ∨
        nsU ≤ stepThr ∧ stepThr ≤ secU) ∧ 656 ≤ lockThr ∧ lockThr ≤ 65536000000 ∧ ppsOffset.natAbs ≤ 500 * msU)) (.direct) (1) (30) (1000)
        (25600000) (secU) (656) (-500 * msU) (State.reset) = true) ∧
    ((fun (src : CmdSrc) (s : State) => decide (s.acts (.servoGet src) src 0x0619 = true)) (.direct) (State.reset) = true) ∧
    ((fun (src : CmdSrc) (port mode : Nat) (c alpha : Int) (partner lambdaOut lambdaIn : Nat) (k : Int) (avg qLimit coast agree : Nat) (s :
        State) => decide (s.acts (.asymConfigure src port mode c alpha partner lambdaOut lambdaIn k avg qLimit coast agree) src 0x0620 = true)
        && decide (port < 256 ∧ mode = 0 ∧ c.natAbs ≤ 100 * nsU ∧ -(2 ^ 31) ≤ alpha ∧ alpha < 2 ^ 31 ∧ 66 ≤ agree ∧ agree ≤ 100 * nsU) && decide
        (partner = 0 ∧ lambdaOut = 0 ∧ lambdaIn = 0 ∧ k = 0 ∧ avg = 0 ∧ qLimit = 0 ∧ coast = 0)) (.direct) (255) (0) (100 * nsU) (-(2 ^ 31)) (0)
        (0) (0) (0) (0) (0) (0) (66) (State.reset) = true) ∧
    ((fun (src : CmdSrc) (port mode : Nat) (c alpha : Int) (partner lambdaOut lambdaIn : Nat) (k : Int) (avg qLimit coast agree : Nat) (s :
        State) => decide (s.acts (.asymConfigure src port mode c alpha partner lambdaOut lambdaIn k avg qLimit coast agree) src 0x0620 = true)
        && decide (port < 256 ∧ mode = 1 ∧ c.natAbs ≤ 100 * nsU ∧ -(2 ^ 31) ≤ alpha ∧ alpha < 2 ^ 31 ∧ 66 ≤ agree ∧ agree ≤ 100 * nsU) && decide
        (partner < 256 ∧ 1260000 ≤ lambdaOut ∧ lambdaOut ≤ 1675000 ∧ 1260000 ≤ lambdaIn ∧ lambdaIn ≤ 1675000 ∧ k.natAbs ≤ 100 * nsU ∧ 1 ≤ qLimit
        ∧ qLimit ≤ 100000) && decide (secU ≤ avg ∧ avg ≤ 3600 * secU ∧ secU ≤ coast ∧ coast ≤ 86400 * secU) && decide (s.pairable port partner =
        true ∧ ((s.asymAhead partner).1 = true → (s.asymAhead partner).2.1 = port ∧ 2000 ≤ (((lambdaOut : Int) + lambdaIn) - (((s.asymAhead
        partner).2.2.1 : Int) + (s.asymAhead partner).2.2.2)).natAbs))) (.direct) (8) (1) (0) (0) (9) (1260000) (1675000) (0) (secU) (1) (86400
        * secU) (66) (((sPort 7 .up).updPort 9 fun x => { x with configured := true, mode := 7 })) = true) ∧
    ((fun (src : CmdSrc) (port mode : Nat) (c alpha : Int) (partner lambdaOut lambdaIn : Nat) (k : Int) (avg qLimit coast agree : Nat) (s :
        State) => decide (s.acts (.asymConfigure src port mode c alpha partner lambdaOut lambdaIn k avg qLimit coast agree) src 0x0620 = true)
        && decide (port < 256 ∧ mode = 1 ∧ c.natAbs ≤ 100 * nsU ∧ -(2 ^ 31) ≤ alpha ∧ alpha < 2 ^ 31 ∧ 66 ≤ agree ∧ agree ≤ 100 * nsU) && decide
        (partner < 256 ∧ 1260000 ≤ lambdaOut ∧ lambdaOut ≤ 1675000 ∧ 1260000 ≤ lambdaIn ∧ lambdaIn ≤ 1675000 ∧ k.natAbs ≤ 100 * nsU ∧ 1 ≤ qLimit
        ∧ qLimit ≤ 100000) && decide (secU ≤ avg ∧ avg ≤ 3600 * secU ∧ secU ≤ coast ∧ coast ≤ 86400 * secU) && decide (s.pairable port partner =
        false ∧ ((s.asymAhead partner).1 = true → (s.asymAhead partner).2.1 ≠ port))) (.direct) (8) (1) (0) (0) (9) (1260000) (1675000) (0)
        (secU) (1) (86400 * secU) (66) (sPort 7 .up) = true) ∧
    ((fun (src : CmdSrc) (port : Nat) (s : State) => decide (s.acts (.asymGet src port) src 0x0621 = true) && decide (port < 256)) (.direct)
        (255) (State.reset) = true) := by
  and_intros
  all_goals decide +kernel

/-- The hypotheses of each clause of ReferenceCommands can be met. -/
theorem test_meets_ReferenceCommands :
    ((fun (src : CmdSrc) (enable override esmc : Bool) (slot fNum fDen div edge source prio level : Nat) (acceptLim rejectLim : Int)
        (rejectHold acceptHold hitLim hitBudget coastLim : Nat) (s : State) => decide (s.acts (.refConfigureSlot src enable override esmc slot
        fNum fDen div edge source prio level acceptLim rejectLim rejectHold acceptHold hitLim hitBudget coastLim) src 0x0701 = true) && decide
        (slot < 31 ∧ (slotSourceOk slot fNum fDen div edge source).all id = true ∧ 1 ≤ prio ∧ prio ≤ 255 ∧ level < 16) && decide ((slot = 28 ∨
        slot = 29 ∨ slot = 30) → fNum = 0 ∧ fDen = 0 ∧ div = 0 ∧ edge = 0 ∧ source = 0) && decide (256 ≤ acceptLim ∧ acceptLim ≤ 49999 * 256 ∧
        acceptLim < rejectLim ∧ 512 ≤ rejectLim ∧ rejectLim ≤ 50000 * 256 ∧ msU ≤ rejectHold ∧ rejectHold ≤ 10 * secU) && decide (secU ≤
        acceptHold ∧ acceptHold ≤ 3600 * secU ∧ 6554 ≤ hitLim ∧ hitLim ≤ 1000 * nsU ∧ 1 ≤ hitBudget ∧ hitBudget ≤ 255 ∧ secU ≤ coastLim ∧
        coastLim ≤ 600 * secU) && decide (esmc = true → 8 ≤ slot ∧ slot < 24 ∧ (s.ports.get source).isSelvedge = false) && decide (8 ≤ slot ∧
        slot < 24 → (s.ports.get source).width = 1 ∧ (enable = true → s.portUp source = true)) && decide (s.ref.selected ≠ some slot)) (.direct)
        (true) (false) (false) (30) (0) (0) (0) (0) (0) (255) (15) (256) (512) (msU) (secU) (6554) (1) (secU) (State.reset) = true) ∧
    ((fun (src : CmdSrc) (enable override esmc : Bool) (slot fNum fDen div edge source prio level : Nat) (acceptLim rejectLim : Int)
        (rejectHold acceptHold hitLim hitBudget coastLim : Nat) (s : State) => decide (s.acts (.refConfigureSlot src enable override esmc slot
        fNum fDen div edge source prio level acceptLim rejectLim rejectHold acceptHold hitLim hitBudget coastLim) src 0x0701 = true) && decide
        ((slotSourceOk slot fNum fDen div edge source).all id = true ∧ 1 ≤ prio ∧ prio ≤ 255 ∧ level < 16 ∧ 8 ≤ slot ∧ slot < 24 ∧ esmc = false)
        && decide (256 ≤ acceptLim ∧ acceptLim ≤ 49999 * 256 ∧ acceptLim < rejectLim ∧ 512 ≤ rejectLim ∧ rejectLim ≤ 50000 * 256 ∧ msU ≤
        rejectHold ∧ rejectHold ≤ 10 * secU) && decide (secU ≤ acceptHold ∧ acceptHold ≤ 3600 * secU ∧ 6554 ≤ hitLim ∧ hitLim ≤ 1000 * nsU ∧ 1 ≤
        hitBudget ∧ hitBudget ≤ 255 ∧ secU ≤ coastLim ∧ coastLim ≤ 600 * secU) && decide ((s.ports.get source).width ≠ 1 ∨ s.ref.selected = some
        slot ∧ (s.ref.slots.get slot).src ≠ source ∨ enable = true ∧ (s.ref.slots.get slot).enable = false ∧ s.portUp source = false)) (.direct)
        (true) (true) (false) (8) (0) (0) (0) (0) (8) (1) (0) (49999 * 256) (50000 * 256) (10 * secU) (3600 * secU) (1000 * nsU) (255) (600 *
        secU) (sPort 0 .down) = true) ∧
    ((fun (src : CmdSrc) (qlMode revert wtr : Nat) (tieLimit : Int) (tieHold freeLevel avgTime guardTime inSpec : Nat) (s : State) => decide
        (s.acts (.refConfigureSelection src qlMode revert wtr tieLimit tieHold freeLevel avgTime guardTime inSpec) src 0x0702 = true) && decide
        (qlMode < 2 ∧ revert < 2 ∧ wtr ≤ 720 * secU ∧ 26 ≤ tieLimit ∧ tieLimit ≤ 10000 * 256 ∧ 100 * msU ≤ tieHold ∧ tieHold ≤ 60 * secU ∧ 3 ≤
        freeLevel ∧ freeLevel ≤ 14) && decide (secU ≤ avgTime ∧ avgTime ≤ 10000 * secU ∧ guardTime ≤ 600 * secU ∧ inSpec ≤ 86400 * secU))
        (.direct) (1) (0) (720 * secU) (26) (100 * msU) (14) (secU) (600 * secU) (0) (State.reset) = true) ∧
    ((fun (src : CmdSrc) (trackBw acqBw : Nat) (slope : Int) (lockThr lossThr : Nat) (s : State) => decide (s.acts (.refConfigureDpll src
        trackBw acqBw slope lockThr lossThr) src 0x0703 = true) && decide (1 ≤ trackBw ∧ trackBw ≤ acqBw ∧ acqBw ≤ 100000 ∧ 256 ≤ slope ∧ slope
        ≤ 10000 * 256 ∧ 656 ≤ lockThr ∧ lockThr ≤ 1000 * nsU ∧ nsU ≤ lossThr ∧ lossThr ≤ 100000 * nsU ∧ lockThr < lossThr)) (.direct) (1)
        (100000) (256) (656) (100000 * nsU) (State.reset) = true) ∧
    ((fun (src : CmdSrc) (slot action : Nat) (s : State) => decide (s.acts (.refCommand src slot action) src 0x0704 = true) && decide (slot <
        31 ∧ action < 4 ∧ (s.ref.slots.get slot).state ≠ .disabled)) (.direct) (30) (3)
        ({ State.reset with ref := { State.reset.ref with slots := [(30, { state := .qualified })] } }) = true) ∧
    ((fun (src : CmdSrc) (slot : Nat) (s : State) => (fun (y : RefSlot) => decide (s.acts (.refGetSlot src slot) src 0x0705 = true) && decide
        (slot < 31 ∧ y = s.ref.slots.get slot)) (s.ref.slots.get slot)) (.direct) (30) (State.reset) = true) ∧
    ((fun (src : CmdSrc) (s : State) => decide (s.acts (.refGetDpll src) src 0x0706 = true)) (.direct) (State.reset) = true) ∧
    ((fun (src : CmdSrc) (action : Nat) (value : Int) (timeout level : Nat) (s : State) => decide (s.acts (.refSteer src action value timeout
        level) src 0x0707 = true) && decide (action = 0 ∧ value = 0 ∧ 10 * msU ≤ timeout ∧ timeout ≤ 60 * secU ∧ 3 ≤ level ∧ level ≤ 14 ∧
        (s.ref.state = .holdover → s.ref.xoLoss = false))) (.direct) (0) (0) (10 * msU) (3) (State.reset) = true) ∧
    ((fun (src : CmdSrc) (action : Nat) (value : Int) (timeout level : Nat) (s : State) => decide (s.acts (.refSteer src action value timeout
        level) src 0x0707 = true) && decide (action = 1 ∧ value.natAbs ≤ 14073748835 ∧ timeout = 0 ∧ level = 0 ∧ s.ref.state = .steered))
        (.direct) (1) (-14073748835) (0) (0) ({ State.reset with ref := { State.reset.ref with state := .steered } }) = true) ∧
    ((fun (src : CmdSrc) (action : Nat) (value : Int) (timeout level : Nat) (s : State) => decide (s.acts (.refSteer src action value timeout
        level) src 0x0707 = true) && decide (action = 2 ∧ value = 0 ∧ timeout = 0 ∧ level = 0 ∧ s.ref.state = .steered)) (.direct) (2) (0) (0)
        (0) ({ State.reset with ref := { State.reset.ref with state := .steered } }) = true) ∧
    ((fun (src : CmdSrc) (action : Nat) (value : Int) (timeout level : Nat) (s : State) => decide (s.acts (.refSteer src action value timeout
        level) src 0x0707 = true) && decide (action = 1 ∧ value.natAbs ≤ 14073748835 ∧ timeout = 0 ∧ level = 0 ∧ s.ref.state ≠ .steered))
        (.direct) (1) (5) (0) (0) (State.reset) = true) ∧
    ((fun (src : CmdSrc) (enable : Bool) (output : Nat) (offset : Int) (width slew squelch : Nat) (s : State) => decide (s.acts
        (.refConfigurePpsOut src enable output offset width slew squelch) src 0x0708 = true) && decide (output < 2 ∧ offset.natAbs ≤ 500 * msU ∧
        usU ≤ width ∧ width ≤ 500 * msU ∧ 6554 ≤ slew ∧ slew ≤ 10 * usU ∧ squelch < 16)) (.direct) (true) (1) (-500 * msU) (usU) (10 * usU) (15)
        (State.reset) = true) ∧
    ((fun (src : CmdSrc) (enable : Bool) (output fNum fDen mode : Nat) (offset : Int) (slew swing squelch : Nat) (s : State) => decide (s.acts
        (.refConfigureClkout src enable output fNum fDen mode offset slew swing squelch) src 0x0709 = true) && decide (output < 4 ∧ 1000000 ≤
        fNum ∧ fNum ≤ 750000000 ∧ 1 ≤ fDen ∧ fDen ≤ 65535 ∧ 1000000 * fDen ≤ fNum ∧ mode < 2 ∧ swing < 3 ∧ squelch < 16) && decide ((if mode = 1
        then fDen = 1 ∧ offset.natAbs ≤ 500 * msU ∧ 6554 ≤ slew ∧ slew ≤ 10 * usU else offset = 0 ∧ slew = 0))) (.direct) (true) (3) (1000000)
        (1) (1) (500 * msU) (6554) (2) (15) (State.reset) = true) ∧
    ((fun (src : CmdSrc) (output : Nat) (s : State) => (fun (y : ClkOut) => decide (s.acts (.refGetClkout src output) src 0x070A = true) &&
        decide (output < 4 ∧ y = s.ref.clk.get output)) (s.ref.clk.get output)) (.direct) (3) (State.reset) = true) := by
  and_intros
  all_goals decide +kernel

/-- The hypotheses of each clause of TdcCommands can be met. -/
theorem test_meets_TdcCommands :
    ((fun (src : CmdSrc) (enable regression : Bool) (channel edge hyst holdoff prescaler ring : Nat) (offset : Int) (rateLimit silence : Nat)
        (s : State) => (fun (y : TdcChan) => decide (s.acts (.tdcConfigureEvt src enable regression channel edge hyst holdoff prescaler ring
        offset rateLimit silence) src 0x0801 = true) && decide (280 ≤ channel ∧ channel < 312 ∧ (edge < 2 ∨ edge = 2 ∧ prescaler ≤ 1 ∧
        regression = false) ∧ hyst < 4 ∧ holdoff < 16 ∧ 1 ≤ prescaler ∧ prescaler ≤ 65536 ∧ ring ≤ 8) && decide (-(100 * nsU : Int) ≤ offset ∧
        offset ≤ 100 * nsU ∧ rateLimit ≤ 312 ∧ (silence = 0 ∨ usU ≤ silence ∧ silence ≤ 100 * secU)) && decide (((s.tdc.groups.get (groupOf
        channel)).open_ = true → (s.tdc.chans.get channel).sameSettings y = true ∧ (enable = true → (s.tdc.chans.get channel).enable = true)) ∧
        ((s.tdc.chans.get channel).enable = true → enable = true)) && decide (y =
        { s.tdc.chans.get channel with enable := enable, edge := edge, hyst := hyst, holdoff := holdoff, prescaler := prescaler, ring := if ring < 8 then some ring else none, regression := regression, offset := offset, rateLimit := rateLimit, silence := silence }))
        ({ s.tdc.chans.get channel with enable := enable, edge := edge, hyst := hyst, holdoff := holdoff, prescaler := prescaler, ring := if ring < 8 then some ring else none, regression := regression, offset := offset, rateLimit := rateLimit, silence := silence }))
        (.direct) (true) (false) (280) (2) (3) (15) (1) (7) (-100 * nsU) (312) (100 * secU) (State.reset) = true) ∧
    ((fun (src : CmdSrc) (enable regression : Bool) (channel edge hyst holdoff prescaler ring : Nat) (offset : Int) (rateLimit silence : Nat)
        (s : State) => decide (s.acts (.tdcConfigureEvt src enable regression channel edge hyst holdoff prescaler ring offset rateLimit silence)
        src 0x0801 = true) && decide (280 ≤ channel ∧ channel < 312 ∧ (edge < 2 ∨ edge = 2 ∧ prescaler ≤ 1 ∧ regression = false) ∧ hyst < 4 ∧
        holdoff < 16 ∧ 1 ≤ prescaler ∧ prescaler ≤ 65536 ∧ ring ≤ 8) && decide (-(100 * nsU : Int) ≤ offset ∧ offset ≤ 100 * nsU ∧ rateLimit ≤
        312 ∧ (silence = 0 ∨ usU ≤ silence ∧ silence ≤ 100 * secU)) && decide ((s.tdc.groups.get (groupOf channel)).open_ = false ∧
        (s.tdc.chans.get channel).enable = true ∧ enable = false)) (.direct) (false) (false) (280) (2) (3) (15) (1) (7) (0) (312) (0)
        ({ State.reset with tdc := { State.reset.tdc with chans := [(280, { enable := true })] } }) = true) ∧
    ((fun (src : CmdSrc) (enable regression : Bool) (channel edge hyst holdoff prescaler ring : Nat) (offset : Int) (rateLimit silence : Nat)
        (s : State) => decide (s.acts (.tdcConfigureEvt src enable regression channel edge hyst holdoff prescaler ring offset rateLimit silence)
        src 0x0801 = true) && decide (280 ≤ channel ∧ channel < 312 ∧ (edge < 2 ∨ edge = 2 ∧ prescaler ≤ 1 ∧ regression = false) ∧ hyst < 4 ∧
        holdoff < 16 ∧ 1 ≤ prescaler ∧ prescaler ≤ 65536 ∧ ring ≤ 8) && decide (-(100 * nsU : Int) ≤ offset ∧ offset ≤ 100 * nsU ∧ rateLimit ≤
        312 ∧ (silence = 0 ∨ usU ≤ silence ∧ silence ≤ 100 * secU)) && decide ((s.tdc.groups.get (groupOf channel)).open_ = true ∧ (enable =
        true ∧ (s.tdc.chans.get channel).enable = false ∨ edge ≠ (s.tdc.chans.get channel).edge ∨ prescaler ≠ (s.tdc.chans.get
        channel).prescaler))) (.direct) (true) (false) (280) (1) (3) (15) (1) (7) (0) (312) (0)
        ({ State.reset with tdc := { State.reset.tdc with groups := [(0, { open_ := true })] } }) = true) ∧
    ((fun (src : CmdSrc) (group mode level pulse maxLen : Nat) (s : State) => decide (s.acts (.tdcConfigureGroup src group mode level pulse
        maxLen) src 0x0802 = true) && decide (group < 4 ∧ mode < 3 ∧ level < 2 ∧ usU ≤ pulse ∧ pulse ≤ 1000 * secU ∧ usU ≤ maxLen ∧ maxLen ≤
        1000 * secU ∧ (s.tdc.groups.get group).open_ = false)) (.direct) (3) (2) (1) (usU) (1000 * secU) (State.reset) = true) ∧
    ((fun (src : CmdSrc) (group mode level pulse maxLen : Nat) (s : State) => decide (s.acts (.tdcConfigureGroup src group mode level pulse
        maxLen) src 0x0802 = true) && decide (group < 4 ∧ mode = 3 ∧ level < 2 ∧ usU ≤ pulse ∧ pulse ≤ maxLen ∧ maxLen ≤ 1000 * secU ∧
        (s.tdc.groups.get group).open_ = false)) (.direct) (3) (3) (0) (usU) (usU) (State.reset) = true) ∧
    ((fun (src : CmdSrc) (group mode level pulse maxLen : Nat) (s : State) => decide (s.acts (.tdcConfigureGroup src group mode level pulse
        maxLen) src 0x0802 = true) && decide (group < 4 ∧ mode < 4 ∧ level < 2 ∧ usU ≤ pulse ∧ pulse ≤ 1000 * secU ∧ (mode = 3 → pulse ≤ maxLen)
        ∧ usU ≤ maxLen ∧ maxLen ≤ 1000 * secU ∧ (s.tdc.groups.get group).open_ = true)) (.direct) (0) (2) (1) (usU) (1000 * secU)
        ({ State.reset with tdc := { State.reset.tdc with groups := [(0, { open_ := true })] } }) = true) ∧
    ((fun (src : CmdSrc) (enable : Bool) (engine start stop window ring : Nat) (s : State) => decide (s.acts (.tdcSetInterval src enable engine
        start stop window ring) src 0x0803 = true) && decide (engine < 32 ∧ intervalChan start = true ∧ intervalChan stop = true ∧ start ≠ stop
        ∧ 1 ≤ (gridCycles window).getD 0 ∧ (gridCycles window).getD 0 ≤ 1250000 ∧ ring < 8) && decide ((s.tdc.intervals.get engine).enable =
        false)) (.direct) (true) (31) (280) (311) (usU) (7) (State.reset) = true) ∧
    ((fun (src : CmdSrc) (enable : Bool) (engine start stop window ring : Nat) (s : State) => decide (s.acts (.tdcSetInterval src enable engine
        start stop window ring) src 0x0803 = true) && decide (engine < 32 ∧ intervalChan start = true ∧ intervalChan stop = true ∧ start ≠ stop
        ∧ 1 ≤ (gridCycles window).getD 0 ∧ (gridCycles window).getD 0 ≤ 1250000 ∧ ring < 8) && decide ((s.tdc.intervals.get engine).enable =
        true)) (.direct) (true) (31) (280) (311) (usU) (7)
        ({ State.reset with tdc := { State.reset.tdc with intervals := [(31, { enable := true })] } }) = true) ∧
    ((fun (src : CmdSrc) (clear : Bool) (channel : Nat) (s : State) => (fun (y : TdcChan) => decide (s.acts (.tdcGetChannel src clear channel)
        src 0x0804 = true) && decide (channel < 320 ∧ y = s.tdc.chans.get channel)) (s.tdc.chans.get channel)) (.direct) (true) (319)
        (State.reset) = true) ∧
    ((fun (src : CmdSrc) (lane : Nat) (s : State) => (fun (y : TdcChan) => decide (s.acts (.tdcGetLane src lane) src 0x0805 = true) && decide
        (lane < 264 ∧ y = s.tdc.chans.get lane)) (s.tdc.chans.get lane)) (.direct) (263) (State.reset) = true) ∧
    ((fun (src : CmdSrc) (w : Nat) (s : State) => decide (s.acts (.tdcSetLaneWindow src w) src 0x0806 = true) && decide (w < 8)) (.direct) (7)
        (State.reset) = true) ∧
    ((fun (src : CmdSrc) (lane action ring d : Nat) (s : State) => decide (s.acts (.tdcCaptureTap src lane action ring d) src 0x0807 = true) &&
        decide (lane < 264 ∧ action = 0 ∧ ring < 8 ∧ 1 ≤ d ∧ d ≤ 65536) && decide ((s.tdc.chans.filter fun q => q.2.capturing).length < 8))
        (.direct) (263) (0) (7) (65536) (State.reset) = true) ∧
    ((fun (src : CmdSrc) (lane action ring d : Nat) (s : State) => decide (s.acts (.tdcCaptureTap src lane action ring d) src 0x0807 = true) &&
        decide (lane < 264 ∧ action = 0 ∧ ring < 8 ∧ 1 ≤ d ∧ d ≤ 65536) && decide (8 ≤ (s.tdc.chans.filter fun q => q.2.capturing).length))
        (.direct) (263) (0) (7) (1)
        ({ State.reset with tdc := { State.reset.tdc with chans := (List.range 8).map fun n => (n, { capturing := true }) } }) = true) ∧
    ((fun (src : CmdSrc) (lane action ring d : Nat) (s : State) => decide (s.acts (.tdcCaptureTap src lane action ring d) src 0x0807 = true) &&
        decide (lane < 264 ∧ action = 1 ∧ ring = 0 ∧ d = 0 ∧ (s.tdc.chans.get lane).capturing = true)) (.direct) (5) (1) (0) (0)
        ({ State.reset with tdc := { State.reset.tdc with chans := [(5, { capturing := true })] } }) = true) ∧
    ((fun (src : CmdSrc) (lane action ring d : Nat) (s : State) => decide (s.acts (.tdcCaptureTap src lane action ring d) src 0x0807 = true) &&
        decide (lane < 264 ∧ action = 1 ∧ ring = 0 ∧ d = 0 ∧ (s.tdc.chans.get lane).capturing = false)) (.direct) (5) (1) (0) (0) (State.reset)
        = true) := by
  and_intros
  all_goals decide +kernel

/-- The hypotheses of each clause of GaugeCommands can be met. -/
theorem test_meets_GaugeCommands :
    ((fun (src : CmdSrc) (trigger : Int) (minInterval target runTimeout retry periodic source18 source19 : Nat) (s : State) => decide (s.acts
        (.gaugeConfigure src trigger minInterval target runTimeout retry periodic source18 source19) src 0x0810 = true) && decide (4 ≤ trigger ∧
        trigger ≤ 160 ∧ trigger % 4 = 0 ∧ secU ≤ minInterval ∧ minInterval ≤ 3600 * secU ∧ 20 ≤ target ∧ target ≤ 24 ∧ secU / 10 ≤ runTimeout ∧
        runTimeout ≤ 100 * secU) && decide (secU ≤ retry ∧ retry ≤ 3600 * secU ∧ (periodic = 0 ∨ secU ≤ periodic ∧ periodic ≤ 86400 * secU) ∧
        source18 < 2 ∧ source19 < 2) && decide ((s.gauge.regions.get 18).state = .running → s.gauge.scatter18 = decide (source18 = 1)) && decide
        ((s.gauge.regions.get 19).state = .running → s.gauge.scatter19 = decide (source19 = 1))) (.direct) (160) (secU) (20) (secU / 10) (3600 *
        secU) (86400 * secU) (1) (1) (State.reset) = true) ∧
    ((fun (src : CmdSrc) (region : Nat) (rs : List Nat) (s : State) => decide (s.acts (.gaugeRun src region) src 0x0811 = true) && decide
        ((region < 21 ∧ rs = [region] ∨ region = 0xFFFF ∧ rs = List.range 21)) && decide ((rs.any fun n => decide ((s.gauge.regions.get n).state
        = .off ∨ (s.gauge.regions.get n).state = .full)) = false)) (.direct) (20) ([20])
        ({ State.reset with gauge := { State.reset.gauge with regions := [(20, { state := .idle })] } }) = true) ∧
    ((fun (src : CmdSrc) (region : Nat) (s : State) => decide (s.acts (.gaugeRun src region) src 0x0811 = true) && decide (region < 21 ∧
        ((s.gauge.regions.get region).state = .off ∨ (s.gauge.regions.get region).state = .full))) (.direct) (20) (State.reset) = true) ∧
    ((fun (src : CmdSrc) (force : Bool) (region : Nat) (s : State) => decide (s.acts (.gaugeFull src force region) src 0x0812 = true) && decide
        (region < 21 ∧ (s.gauge.regions.get region).state = .full)) (.direct) (false) (20)
        ({ State.reset with gauge := { State.reset.gauge with regions := [(20, { state := .full })] } }) = true) ∧
    ((fun (src : CmdSrc) (force : Bool) (region : Nat) (s : State) => decide (s.acts (.gaugeFull src force region) src 0x0812 = true) && decide
        (region < 21 ∧ (s.gauge.regions.get region).state ≠ .off ∧ (s.gauge.regions.get region).state ≠ .full ∧ force = true)) (.direct) (true)
        (20) ({ State.reset with gauge := { State.reset.gauge with regions := [(20, { state := .idle })] } }) = true) ∧
    ((fun (src : CmdSrc) (force : Bool) (region : Nat) (s : State) => decide (s.acts (.gaugeFull src force region) src 0x0812 = true) && decide
        (region < 21 ∧ ((s.gauge.regions.get region).state = .off ∨ (s.gauge.regions.get region).state ≠ .full ∧ force = false))) (.direct)
        (false) (20) ({ State.reset with gauge := { State.reset.gauge with regions := [(20, { state := .idle })] } }) = true) ∧
    ((fun (src : CmdSrc) (region n : Nat) (s : State) => (fun (y : GRegion) => (s.acts (.gaugeGetStatus src region) src 0x0813 = true) ∧ (n =
        (if (y.state = .running && s.injects region) then Config.freeNat s.free % ((regionChans region).length * 2 ^ s.gauge.target + 1) else
        (regionChans region).foldl (fun a n => a + ((s.gauge.chans.get n).hist.foldl (fun b q => b + q.2) 0)) 0)) ∧ (region < 21 ∧ y =
        s.gauge.regions.get region)) (s.gauge.regions.get region)) (.direct) (20) (0) (State.reset)) ∧
    ((fun (src : CmdSrc) (force : Bool) (region mode : Nat) (s : State) => decide (s.acts (.gaugeRestore src force region mode) src 0x0814 =
        true) && decide (region < 21 ∧ mode = 0 ∧ ((regionChans region).all fun n => (s.gauge.chans.get n).stagedOk) = true) && decide
        ((s.gauge.regions.get region).state = .idle ∨ (s.gauge.regions.get region).state = .pending) && decide (((regionChans region).any fun n
        => decide ((s.gauge.chans.get n).stSel ≠ (s.gauge.chans.get n).cellSel ∨ (s.gauge.chans.get n).stTrim ≠ (s.gauge.chans.get n).trim ∨
        (s.gauge.chans.get n).stDll ≠ (s.gauge.chans.get n).dllCode)) = false) && decide (((List.range 21).any fun n => decide (n ≠ region ∧
        (s.gauge.regions.get n).state = .full)) = false)) (.direct) (true) (20) (0) (sStaged .idle) = true) ∧
    ((fun (src : CmdSrc) (force : Bool) (region mode : Nat) (s : State) => decide (s.acts (.gaugeRestore src force region mode) src 0x0814 =
        true) && decide (region < 21 ∧ mode = 1 ∧ ((regionChans region).all fun n => (s.gauge.chans.get n).stagedOk) = true) && decide
        ((s.gauge.regions.get region).state ≠ .running ∧ (force = true ∨ (s.gauge.regions.get region).state = .off ∨ (s.gauge.regions.get
        region).state = .full)) && decide (((List.range 21).any fun n => decide (n ≠ region ∧ (s.gauge.regions.get n).state = .full)) = false))
        (.direct) (true) (20) (1) (sStaged .idle) = true) ∧
    ((fun (src : CmdSrc) (force : Bool) (region mode : Nat) (s : State) => decide (s.acts (.gaugeRestore src force region mode) src 0x0814 =
        true) && decide (region < 21 ∧ mode < 2 ∧ ((regionChans region).all fun n => (s.gauge.chans.get n).stagedOk) = true) && decide
        ((s.gauge.regions.get region).state = .running ∨ mode = 0 ∧ ((s.gauge.regions.get region).state = .off ∨ (s.gauge.regions.get
        region).state = .full) ∨ mode = 1 ∧ force = false ∧ (s.gauge.regions.get region).state ≠ .off ∧ (s.gauge.regions.get region).state ≠
        .full)) (.direct) (true) (20) (0) (sStaged .off) = true) ∧
    ((fun (src : CmdSrc) (duration : Nat) (s : State) => decide (s.acts (.gaugeHold src duration) src 0x0815 = true) && decide (duration = 0 ∨
        secU ≤ duration ∧ duration ≤ 86400 * secU)) (.direct) (0) (State.reset) = true) := by
  and_intros
  all_goals first | (simp only [sStaged_stagedOk]; decide +kernel) | decide +kernel | rfl

/-- The hypotheses of each clause of MachineClockCommands can be met. -/
theorem test_meets_MachineClockCommands :
    ((fun (src : CmdSrc) (enable : Bool) (chan source sourceIdx selector fNum fDen : Nat) (freqLim : Int) (hitLim actLim coastLim bandwidth
        orbitLen marker markerIdx : Nat) (markOffset : Int) (frameLen : Nat) (s : State) => (fun (y : McChan) => decide (s.acts
        (.mclkConfigureChannel src enable chan source sourceIdx selector fNum fDen freqLim hitLim actLim coastLim bandwidth orbitLen marker
        markerIdx markOffset frameLen) src 0x0901 = true) && decide (chan < 4 ∧ source < 3 ∧ 1 ≤ fNum ∧ fNum ≤ 400000000 ∧ 1 ≤ fDen ∧ fDen ≤
        65535 ∧ 25600 ≤ freqLim ∧ freqLim ≤ 2560000000 ∧ 66 ≤ hitLim ∧ hitLim ≤ 10 * nsU) && decide ((source = 0 → 280 ≤ sourceIdx ∧ sourceIdx <
        312) ∧ (source = 1 → sourceIdx < 8) ∧ (source = 2 → sourceIdx < 256) ∧ (if source = 2 then selector < 4 else selector = 0)) && decide
        (usU ≤ actLim ∧ actLim ≤ secU ∧ msU ≤ coastLim ∧ coastLim ≤ 3600 * secU ∧ 1 ≤ bandwidth ∧ bandwidth ≤ 50000 ∧ (orbitLen = 0 ∨ 2 ≤
        orbitLen ∧ orbitLen ≤ 4095)) && decide (marker < 4 ∧ (marker = 2 → source = 2) ∧ (marker = 0 → 280 ≤ markerIdx ∧ markerIdx < 312) ∧
        (marker = 1 → markerIdx < 8) ∧ (2 ≤ marker → markerIdx = 0)) && decide ((if marker = 3 then markOffset = 0 else markOffset.natAbs ≤ usU)
        ∧ 1 ≤ frameLen ∧ frameLen ≤ 1048576 ∧ (enable = true → s.mcSourceMet source sourceIdx = true)) && decide ((s.stitch.mc.get chan).enable
        = true → (s.stitch.mc.get chan).srcKind = source ∧ (s.stitch.mc.get chan).srcIdx = sourceIdx ∧ (s.stitch.mc.get chan).srcSel = selector)
        && decide (y =
        { s.stitch.mc.get chan with srcKind := source, srcIdx := sourceIdx, srcSel := selector, fNum := fNum, fDen := fDen, freqLim := freqLim.toNat, hitLim := hitLim, actLim := actLim, coastLim := coastLim, bw := bandwidth, orbitLen := orbitLen, markSrc := marker, markIdx := markerIdx, markOffset := markOffset, frameLen := frameLen }))
        ({ s.stitch.mc.get chan with srcKind := source, srcIdx := sourceIdx, srcSel := selector, fNum := fNum, fDen := fDen, freqLim := freqLim.toNat, hitLim := hitLim, actLim := actLim, coastLim := coastLim, bw := bandwidth, orbitLen := orbitLen, markSrc := marker, markIdx := markerIdx, markOffset := markOffset, frameLen := frameLen }))
        (.direct) (true) (3) (2) (8) (3) (1) (65535) (25600) (66) (usU) (msU) (1) (4095) (2) (0) (usU) (1) (sPort 7 .up) = true) ∧
    ((fun (src : CmdSrc) (enable : Bool) (chan source sourceIdx selector fNum fDen : Nat) (freqLim : Int) (hitLim actLim coastLim bandwidth
        orbitLen marker markerIdx : Nat) (markOffset : Int) (frameLen : Nat) (s : State) => decide (s.acts (.mclkConfigureChannel src enable
        chan source sourceIdx selector fNum fDen freqLim hitLim actLim coastLim bandwidth orbitLen marker markerIdx markOffset frameLen) src
        0x0901 = true) && decide (chan < 4 ∧ source < 3 ∧ 1 ≤ fNum ∧ fNum ≤ 400000000 ∧ 1 ≤ fDen ∧ fDen ≤ 65535 ∧ 25600 ≤ freqLim ∧ freqLim ≤
        2560000000 ∧ 66 ≤ hitLim ∧ hitLim ≤ 10 * nsU) && decide ((source = 0 → 280 ≤ sourceIdx ∧ sourceIdx < 312) ∧ (source = 1 → sourceIdx < 8)
        ∧ (source = 2 → sourceIdx < 256) ∧ (if source = 2 then selector < 4 else selector = 0)) && decide (usU ≤ actLim ∧ actLim ≤ secU ∧ msU ≤
        coastLim ∧ coastLim ≤ 3600 * secU ∧ 1 ≤ bandwidth ∧ bandwidth ≤ 50000 ∧ (orbitLen = 0 ∨ 2 ≤ orbitLen ∧ orbitLen ≤ 4095)) && decide
        (marker < 4 ∧ (marker = 2 → source = 2) ∧ (marker = 0 → 280 ≤ markerIdx ∧ markerIdx < 312) ∧ (marker = 1 → markerIdx < 8) ∧ (2 ≤ marker
        → markerIdx = 0)) && decide ((if marker = 3 then markOffset = 0 else markOffset.natAbs ≤ usU) ∧ 1 ≤ frameLen ∧ frameLen ≤ 1048576) &&
        decide (enable = true ∧ s.mcSourceMet source sourceIdx = false ∨ (s.stitch.mc.get chan).enable = true ∧ (s.stitch.mc.get chan).srcIdx ≠
        sourceIdx)) (.direct) (true) (3) (2) (8) (3) (1) (65535) (25600) (66) (usU) (msU) (1) (4095) (2) (0) (usU) (1) (sPort 0 .up) = true) ∧
    ((fun (src : CmdSrc) (squelch : Bool) (output chan mode m d : Nat) (offset slewLim : Int) (w swing : Nat) (s : State) => decide (s.acts
        (.mclkConfigureOutput src squelch output chan mode m d offset slewLim w swing) src 0x0902 = true) && decide (output < 4 ∧ chan < 4 ∧
        mode = 0 ∧ m = 0 ∧ d = 0 ∧ offset = 0 ∧ slewLim = 0 ∧ w = 0 ∧ swing < 3)) (.direct) (true) (3) (3) (0) (0) (0) (0) (0) (0) (2)
        (State.reset) = true) ∧
    ((fun (src : CmdSrc) (squelch : Bool) (output chan mode m d : Nat) (offset slewLim : Int) (w swing : Nat) (s : State) => (fun (y : McChan)
        => decide (s.acts (.mclkConfigureOutput src squelch output chan mode m d offset slewLim w swing) src 0x0902 = true) && decide (output <
        4 ∧ chan < 4 ∧ mode = 1 ∧ y = s.stitch.mc.get chan ∧ 1 ≤ m ∧ m ≤ 64 ∧ 1 ≤ d ∧ d ≤ 64 ∧ (y.orbitLen = 0 ∨ y.orbitLen % d = 0)) && decide
        (1000000 * y.fDen * d ≤ y.fNum * m ∧ y.fNum * m ≤ 750000000 * y.fDen * d ∧ offset.natAbs ≤ 100 * nsU ∧ 2560 ≤ slewLim ∧ slewLim ≤ 100000
        * 256 ∧ w = 0 ∧ swing < 3)) (s.stitch.mc.get chan)) (.direct) (true) (3) (3) (1) (1) (50) (-100 * nsU) (2560) (0) (2) (sOrbit) = true) ∧
    ((fun (src : CmdSrc) (squelch : Bool) (output chan mode m d : Nat) (offset slewLim : Int) (w swing : Nat) (s : State) => (fun (y : McChan)
        => decide (s.acts (.mclkConfigureOutput src squelch output chan mode m d offset slewLim w swing) src 0x0902 = true) && decide (output <
        4 ∧ chan < 4 ∧ (mode = 2 ∨ mode = 3) ∧ m = 1 ∧ d = 1 ∧ y = s.stitch.mc.get chan ∧ y.orbitLen ≠ 0 ∧ 1 ≤ w ∧ w ≤ 255 ∧ w + 2 ≤ y.orbitLen)
        && decide (offset.natAbs ≤ 100 * nsU ∧ 2560 ≤ slewLim ∧ slewLim ≤ 100000 * 256 ∧ swing < 3)) (s.stitch.mc.get chan)) (.direct) (false)
        (0) (3) (3) (1) (1) (0) (100000 * 256) (98) (0) (sOrbit) = true) ∧
    ((fun (src : CmdSrc) (squelch : Bool) (output chan mode m d : Nat) (offset slewLim : Int) (w swing : Nat) (s : State) => decide (s.acts
        (.mclkConfigureOutput src squelch output chan mode m d offset slewLim w swing) src 0x0902 = true) && decide (output < 4 ∧ chan < 4 ∧
        (mode = 2 ∨ mode = 3) ∧ m = 1 ∧ d = 1 ∧ (s.stitch.mc.get chan).orbitLen = 0 ∧ 1 ≤ w ∧ w ≤ 255) && decide (offset.natAbs ≤ 100 * nsU ∧
        2560 ≤ slewLim ∧ slewLim ≤ 100000 * 256 ∧ swing < 3)) (.direct) (false) (0) (3) (3) (1) (1) (0) (100000 * 256) (98) (0) (State.reset) =
        true) ∧
    ((fun (src : CmdSrc) (chan : Nat) (s : State) => (fun (y : McChan) => decide (s.acts (.mclkGet src chan) src 0x0903 = true) && decide (chan
        < 4 ∧ y = s.stitch.mc.get chan)) (s.stitch.mc.get chan)) (.direct) (3) (sOrbit) = true) ∧
    ((fun (src : CmdSrc) (given : Bool) (chan : Nat) (t : KTime) (bunch orbit : Nat) (s : State) => decide (s.acts (.mclkSetOrbit src given
        chan t bunch orbit) src 0x0904 = true) && decide (chan < 4 ∧ t.ns < 1000000000 ∧ t.sub = 0 ∧ s.ktime < KTime.units t ∧ (s.stitch.mc.get
        chan).orbitLen ≠ 0 ∧ bunch < (s.stitch.mc.get chan).orbitLen) && decide (given = false → orbit = 0)) (.direct) (true) (3) ({ sec := 5 })
        (99) (7) (sOrbit) = true) ∧
    ((fun (src : CmdSrc) (given : Bool) (chan : Nat) (t : KTime) (bunch orbit : Nat) (s : State) => decide (s.acts (.mclkSetOrbit src given
        chan t bunch orbit) src 0x0904 = true) && decide (chan < 4 ∧ t.ns < 1000000000 ∧ t.sub = 0 ∧ s.ktime < KTime.units t ∧ (s.stitch.mc.get
        chan).orbitLen = 0 ∧ (given = false → orbit = 0))) (.direct) (true) (3) ({ sec := 5 }) (99) (7) (State.reset) = true) ∧
    ((fun (src : CmdSrc) (chan phaseTarget setInterval bcnTarget bcnInterval : Nat) (s : State) => decide (s.acts (.stitchConfigureBroadcast
        src chan phaseTarget setInterval bcnTarget bcnInterval) src 0x0907 = true) && decide (chan < 4 ∧ phaseTarget < 0x1000 ∧ (setInterval = 0
        ∨ 10 * usU ≤ setInterval ∧ setInterval ≤ 100 * msU) ∧ bcnTarget < 0x1000 ∧ bcnInterval ≤ 65536) && decide (bcnInterval = 0 ∨
        (s.stitch.mc.get chan).orbitLen ≠ 0)) (.direct) (3) (0xFFF) (100 * msU) (0) (65536) (sOrbit) = true) := by
  and_intros
  all_goals decide +kernel

/-- The hypotheses of each clause of StitchCommands can be met. -/
theorem test_meets_StitchCommands :
    ((fun (src : CmdSrc) (group action : Nat) (mask : BitVec 256) (port : Nat) (s : State) => decide (s.acts (.stitchConfigureGroup src group
        action mask port) src 0x0905 = true) && decide (group ≤ 0xFFE ∧ action = 0 ∧ port = 0)) (.direct) (0xFFE) (0) (5) (0) (State.reset) =
        true) ∧
    ((fun (src : CmdSrc) (group action : Nat) (mask : BitVec 256) (port : Nat) (s : State) => decide (s.acts (.stitchConfigureGroup src group
        action mask port) src 0x0905 = true) && decide (group ≤ 0xFFE ∧ (action = 1 ∨ action = 2) ∧ mask = 0 ∧ port < 256)) (.direct) (5) (2)
        (0) (8) (sGroup .up) = true) ∧
    ((fun (src : CmdSrc) (enable seqReset : Bool) (source channel kind target spacing seq : Nat) (s : State) => (fun (y : TrigSrc) => decide
        (s.acts (.stitchConfigureTrigger src enable seqReset source channel kind target spacing seq) src 0x0906 = true) && decide (source < 8 ∧
        280 ≤ channel ∧ channel < 312 ∧ kind < 256 ∧ target < 0x1000 ∧ spacing ≤ 1000000 * nsU ∧ (seqReset = false → seq = 0)) && decide
        ((s.tdc.chans.get channel).edge ≠ 2 ∧ y = s.stitch.trigs.get source)) (s.stitch.trigs.get source)) (.direct) (true) (true) (7) (311)
        (255) (0xFFF) (1000000 * nsU) (9) (State.reset) = true) ∧
    ((fun (src : CmdSrc) (compensate rxLog : Bool) (port relayTrig relayTimed relayUser errThr : Nat) (s : State) => decide (s.acts
        (.stitchConfigurePort src compensate rxLog port relayTrig relayTimed relayUser errThr) src 0x0908 = true) && decide (port < 256 ∧
        relayTrig ≤ 0x1000 ∧ relayTimed ≤ 0x1000 ∧ relayUser ≤ 0x1000 ∧ 1 ≤ errThr ∧ errThr ≤ 65535) && decide ((s.ports.get port).configured =
        true ∧ (s.ports.get port).isSelvedge = true)) (.direct) (true) (false) (8) (0) (0x1000) (0xFFF) (65535) (sPort 7 .down) = true) ∧
    ((fun (src : CmdSrc) (type target payload : Nat) (s : State) => decide (s.acts (.stitchSend src type target payload) src 0x0909 = true) &&
        decide (type < 2 ∧ target < 0x1000 ∧ payload < 2 ^ 40 ∧ s.latticesOf (s.stitchPorts target none) = [])) (.direct) (1) (0xFFF) (2 ^ 40 -
        1) (State.reset) = true) ∧
    ((fun (src : CmdSrc) (type target payload : Nat) (s : State) => (fun (g : List Nat) => (fun (q : QStitch) => decide (s.acts (.stitchSend
        src type target payload) src 0x0909 = true) && decide (type < 2 ∧ target < 0x1000 ∧ payload < 2 ^ 40 ∧ g = s.latticesOf (s.stitchPorts
        target none) ∧ g ≠ []) && decide (q =
        { type := if type = 0 then 1 else 12, target := target, payload := payload, arrive := s.tick, ready := s.tick + 64, wait := some s.stitch.nextSeq })
        && decide ((g.any fun n => decide (64 ≤ (s.stitch.queues.get (8 * n + stitchClass q.type)).length)) = false))
        ({ type := if type = 0 then 1 else 12, target := target, payload := payload, arrive := s.tick, ready := s.tick + 64, wait := some s.stitch.nextSeq }))
        (s.latticesOf (s.stitchPorts target none))) (.direct) (0) (5) (7) (sGroup .up) = true) ∧
    ((fun (src : CmdSrc) (type target payload : Nat) (s : State) => decide (s.acts (.stitchSend src type target payload) src 0x0909 = true) &&
        decide (type < 2 ∧ target < 0x1000 ∧ payload < 2 ^ 40) && decide (((s.latticesOf (s.stitchPorts target none)).any fun g => decide (64 ≤
        (s.stitch.queues.get (8 * g + stitchClass (if type = 0 then 1 else 12))).length)) = true)) (.direct) (0) (5) (7)
        ({ sGroup .up with stitch := { (sGroup .up).stitch with queues := queueKeys.map fun k => (k, List.replicate 64 {}) } }) = true) ∧
    ((fun (src : CmdSrc) (target code : Nat) (e : KTime) (lead r : Nat) (s : State) => (fun (x : Pending) => decide (s.acts (.stitchSendTimed
        src target code e lead r) src 0x090A = true) && decide (target < 0x1000 ∧ code < 0xF0 ∧ e.ns < 1000000000 ∧ e.sub = 0 ∧ s.ktime + 20 *
        usU ≤ KTime.units e ∧ 10 * usU ≤ lead ∧ lead ≤ 2 * secU ∧ 1 ≤ r ∧ r ≤ 4) && decide (s.stitch.timed.length < 256 ∧ s.wTime < KTime.units
        e - lead ∧ x = { handle := s.stitch.nextHandle.toNat, target := target, code := code, e := KTime.units e, lead := lead, copies := r }))
        ({ handle := s.stitch.nextHandle.toNat, target := target, code := code, e := KTime.units e, lead := lead, copies := r })) (.direct)
        (0xFFF) (0xEF) ({ sec := 3 }) (2 * secU) (4) (State.reset) = true) ∧
    ((fun (src : CmdSrc) (target code : Nat) (e : KTime) (lead r : Nat) (s : State) => (fun (x : Pending) => decide (s.acts (.stitchSendTimed
        src target code e lead r) src 0x090A = true) && decide (target < 0x1000 ∧ code < 0xF0 ∧ e.ns < 1000000000 ∧ e.sub = 0 ∧ s.ktime + 20 *
        usU ≤ KTime.units e ∧ 10 * usU ≤ lead ∧ lead ≤ 2 * secU ∧ 1 ≤ r ∧ r ≤ 4) && decide (s.stitch.timed.length < 256 ∧ KTime.units e - lead ≤
        s.wTime ∧ x = { handle := s.stitch.nextHandle.toNat, target := target, code := code, e := KTime.units e, lead := lead, copies := r }))
        ({ handle := s.stitch.nextHandle.toNat, target := target, code := code, e := KTime.units e, lead := lead, copies := r })) (.direct)
        (0xFFF) (0) ({ sec := 1 }) (2 * secU) (1) (State.reset) = true) ∧
    ((fun (src : CmdSrc) (target code : Nat) (e : KTime) (lead r : Nat) (s : State) => decide (s.acts (.stitchSendTimed src target code e lead
        r) src 0x090A = true) && decide (target < 0x1000 ∧ code < 0xF0 ∧ e.ns < 1000000000 ∧ e.sub = 0 ∧ s.ktime + 20 * usU ≤ KTime.units e ∧ 10
        * usU ≤ lead ∧ lead ≤ 2 * secU ∧ 1 ≤ r ∧ r ≤ 4 ∧ 256 ≤ s.stitch.timed.length)) (.direct) (5) (0) ({ sec := 1 }) (2 * secU) (3)
        ({ State.reset with stitch := { State.reset.stitch with timed := List.replicate 256 {} } }) = true) ∧
    ((fun (src : CmdSrc) (handle : Nat) (s : State) => (fun (x : Pending) => decide (s.acts (.stitchCancelTimed src handle) src 0x090B = true)
        && decide ((s.stitch.timed.find? fun y => decide (y.handle = handle)) = some x)) (((s.stitch.timed.find? fun y => decide (y.handle =
        handle))).getD ({ handle := 3 }))) (.direct) (3) ({ State.reset with stitch := { State.reset.stitch with timed := [{ handle := 3 }] } })
        = true) ∧
    ((fun (src : CmdSrc) (handle : Nat) (s : State) => decide (s.acts (.stitchCancelTimed src handle) src 0x090B = true) && decide
        ((s.stitch.timed.find? fun y => decide (y.handle = handle)) = none)) (.direct) (3) (State.reset) = true) ∧
    ((fun (src : CmdSrc) (clear : Bool) (port : Nat) (s : State) => (fun (y : StPort) => decide (s.acts (.stitchGetPort src clear port) src
        0x090C = true) && decide (port < 256 ∧ (s.ports.get port).configured = true ∧ (s.ports.get port).isSelvedge = true ∧ y =
        s.stitch.ports.get port)) (s.stitch.ports.get port)) (.direct) (true) (8) (sPort 7 .up) = true) ∧
    ((fun (src : CmdSrc) (clear : Bool) (s : State) => decide (s.acts (.stitchGetSequencer src clear) src 0x090D = true)) (.direct) (true)
        (State.reset) = true) := by
  and_intros
  all_goals decide +kernel

/-- The hypotheses of each clause of PairCommands can be met. -/
theorem test_meets_PairCommands :
    ((fun (src : CmdSrc) (enable : Bool) (cycle lead commitTimeout joinTimeout watchdog skewGuard window chunkAge closeTimeout outcomeTimeout
        etherType : Nat) (plAsym : Int) (s : State) => decide (s.acts (.pairConfigure src enable cycle lead commitTimeout joinTimeout watchdog
        skewGuard window chunkAge closeTimeout outcomeTimeout etherType plAsym) src 0x0A01 (s.cmdRoleOk (.pairConfigure src enable cycle lead
        commitTimeout joinTimeout watchdog skewGuard window chunkAge closeTimeout outcomeTimeout etherType plAsym)) = true) && decide (125 * usU
        ≤ cycle ∧ cycle ≤ 10 * msU ∧ cycle % (125 * usU) = 0 ∧ 50 * usU ≤ lead ∧ lead ≤ 5 * msU ∧ lead < cycle ∧ 2 ≤ commitTimeout ∧
        commitTimeout ≤ 100) && decide (secU ≤ joinTimeout ∧ joinTimeout ≤ 600 * secU ∧ msU ≤ watchdog ∧ watchdog ≤ 1000 * msU ∧ usU ≤ skewGuard
        ∧ skewGuard ≤ 2 * msU ∧ [1024, 2048, 4096, 8192, 16384, 32768, 65536].contains window = true) && decide (10 * usU ≤ chunkAge ∧ chunkAge
        ≤ 2 * msU ∧ msU ≤ closeTimeout ∧ closeTimeout ≤ 100 * msU ∧ secU ≤ outcomeTimeout ∧ outcomeTimeout ≤ 600 * secU) && decide (0x600 ≤
        etherType ∧ etherType < 65536 ∧ etherTaken.contains etherType = false ∧ plAsym.natAbs ≤ nsU ∧ (etherType = s.pair.cfg.etherType ∨
        s.pair.role = .alone))) (.direct) (true) (125 * usU) (50 * usU) (2) (secU) (msU) (usU) (1024) (10 * usU) (msU) (secU) (0x88B5) (-nsU)
        (State.reset) = true) ∧
    ((fun (src : CmdSrc) (port attach source base count untagged : Nat) (a : Attach) (s : State) => (fun (y : PairPort) => decide (s.acts
        (.pairConfigurePort src port attach source base count untagged) src 0x0A02 = true) && decide (port < 256 ∧ (attach = 0 ∧ a = .unpaired ∨
        attach = 1 ∧ a = .dual ∨ attach = 2 ∧ a = .singleA ∨ attach = 3 ∧ a = .singleB)) && decide ((if 2 ≤ attach then 1 ≤ source ∧ source ≤
        0xFFFE else source = 0) ∧ (if attach = 1 then 1 ≤ base ∧ 1 ≤ count ∧ count ≤ 16384 ∧ base + count ≤ 0xFFFF ∧ untagged < 2 else base = 0
        ∧ count = 0 ∧ untagged = 0)) && decide (y =
        { attach := a, source := source, base := base, count := count, dropUntagged := decide (untagged = 1), seq := if decide (2 ≤ attach) && decide ((s.pair.ports.get port).source = source) then (s.pair.ports.get port).seq else 0, pathSeen := false })
        && decide ((s.pair.ports.any fun q => decide (q.1 ≠ port) && y.meets q.2) = false ∧ (s.portState port = .down ∨ s.attachRemote a = true
        ∧ s.attachRemote (s.pair.ports.get port).attach = true)))
        ({ attach := a, source := source, base := base, count := count, dropUntagged := decide (untagged = 1), seq := if decide (2 ≤ attach) && decide ((s.pair.ports.get port).source = source) then (s.pair.ports.get port).seq else 0, pathSeen := false }))
        (.direct) (8) (1) (0) (1) (16384) (1) (.dual) (sPort 0 .down) = true) ∧
    ((fun (src : CmdSrc) (clear : Bool) (s : State) => decide (s.acts (.pairGetStatus src clear) src 0x0A03 = true)) (.direct) (true)
        (State.reset) = true) ∧
    ((fun (src : CmdSrc) (s : State) => decide (s.acts (.pairSwitchover src) src 0x0A04 true = true) && decide (fromJournal src = true ∨
        s.pair.enable = true ∧ s.pair.role = .active ∧ s.partnerStandby = true ∧ s.pair.healthOk = true)) (.journal 0 0) (sPair .standby
        .active) = true) ∧
    ((fun (src : CmdSrc) (s : State) => decide (s.acts (.pairResync src) src 0x0A05 = true) && decide (s.pair.enable = true ∧ (s.partnerStandby
        = true ∨ s.pair.partnerRole = .detached))) (.direct) (sPair .active .detached) = true) ∧
    ((fun (src : CmdSrc) (s : State) => decide (s.acts (.pairResync src) src 0x0A05 = true) && decide (s.pair.enable = false ∨ s.partnerStandby
        = false ∧ s.pair.partnerRole ≠ .detached)) (.direct) (State.reset) = true) ∧
    ((fun (src : CmdSrc) (duration : Nat) (s : State) => decide (s.acts (.pairTest src duration) src 0x0A06 = true) && decide ((duration = 0 ∨
        secU ≤ duration ∧ duration ≤ 3600 * secU) ∧ s.pair.role = .standby)) (.direct) (3600 * secU) (sPair .standby .active) = true) ∧
    ((fun (src : CmdSrc) (duration : Nat) (s : State) => decide (s.acts (.pairTest src duration) src 0x0A06 = true) && decide ((duration = 0 ∨
        secU ≤ duration ∧ duration ≤ 3600 * secU) ∧ s.pair.role ≠ .standby)) (.direct) (0) (State.reset) = true) ∧
    ((fun (src : CmdSrc) (clear : Bool) (source : Nat) (s : State) => (fun (y : DupEntry) => decide (s.acts (.pairGetDigest src clear source)
        src 0x0A07 = true) && decide (1 ≤ source ∧ source ≤ 0xFFFE ∧ s.pair.dup.find source = some y)) ((s.pair.dup.find source).getD ({})))
        (.direct) (true) (9) (sDup) = true) ∧
    ((fun (src : CmdSrc) (source : Nat) (s : State) => (fun (y : DupEntry) => decide (s.acts (.pairGetDup src source) src 0x0A08 = true) &&
        decide (1 ≤ source ∧ source ≤ 0xFFFE ∧ s.pair.dup.find source = some y)) ((s.pair.dup.find source).getD ({}))) (.direct) (9) (sDup) =
        true) := by
  and_intros
  all_goals decide +kernel

/-- The hypotheses of each clause of SecurityCommands can be met. -/
theorem test_meets_SecurityCommands :
    ((fun (src : CmdSrc) (g v : Nat) (s : State) => decide (s.acts (.secSetStepGuard src g v) src 0x0C10 = true) && decide (g ≤ 1000000 * nsU ∧
        secU ≤ v ∧ v ≤ 3600 * secU)) (.direct) (1000000 * nsU) (3600 * secU) (sSession) = true) ∧
    ((fun (src : CmdSrc) (direction magnitude validity : Nat) (s : State) => decide (s.acts (.secAuthoriseStep src direction magnitude
        validity) src 0x0C11 = true) && decide (direction < 2 ∧ 1 ≤ magnitude ∧ magnitude ≤ (if direction = 0 then 10 ^ 18 else 10 ^ 9) ∧ secU ≤
        validity ∧ validity ≤ 60 * secU)) (.direct) (0) (10 ^ 18) (60 * secU) (sSession) = true) ∧
    ((fun (src : CmdSrc) (role level : Nat) (s : State) => decide (s.acts (.secChallenge src role level) src 0x0C01 = true) && decide (role < 2
        ∧ (if role = 1 then level < 2 else level = 0) ∧ (role = 1 → level = 1 → s.fuses.fullDebug = true)) && decide (∀ n, s.fw.authBusy = some
        n → n ≤ s.now)) (.direct) (0) (0) (State.reset) = true) ∧
    ((fun (src : CmdSrc) (part : Nat) (bytes : List Byte) (s : State) => (fun (y : Challenge) => decide (s.acts (.secResponse src part bytes)
        src 0x0C02 = true) && decide (part = 0 ∧ s.fw.challenge = some y ∧ s.now ≤ y.deadline)) ((s.fw.challenge).getD ({ deadline := 100 })))
        (.direct) (0) ([1, 2]) (sChallenge) = true) ∧
    ((fun (src : CmdSrc) (part : Nat) (bytes : List Byte) (s : State) => (fun (y : Challenge) => (fun (b : List Byte) => decide (s.acts
        (.secResponse src part bytes) src 0x0C02 = true) && decide (part = 1 ∧ s.fw.challenge = some y ∧ s.now ≤ y.deadline ∧ s.fw.respPart0 =
        some b)) ((s.fw.respPart0).getD ([1]))) ((s.fw.challenge).getD ({ deadline := 100 }))) (.direct) (1) ([2]) (sChallenge) = true) ∧
    ((fun (src : CmdSrc) (part : Nat) (bytes : List Byte) (s : State) => decide (s.acts (.secResponse src part bytes) src 0x0C02 = true) &&
        decide (part < 2 ∧ (s.fw.challenge = none ∨ (s.fw.challenge.any fun y => decide (y.deadline < s.now)) = true))) (.direct) (1) ([])
        (State.reset) = true) ∧
    ((fun (src : CmdSrc) (s : State) => decide (s.acts (.secClose src) src 0x0C03 = true)) (.direct) (sSession) = true) ∧
    ((fun (src : CmdSrc) (s : State) => decide (s.acts (.secDebugLock src) src 0x0C04 = true)) (.direct) (sSession) = true) ∧
    ((fun (src : CmdSrc) (slot : Nat) (s : State) => decide (s.acts (.secRevokeKey src slot) src 0x0C05 = true) && decide (slot < 8 ∧
        s.fw.base_.keySlot ≠ slot)) (.direct) (7) (sSession) = true) ∧
    ((fun (src : CmdSrc) (slot : Nat) (s : State) => decide (s.acts (.secRevokeKey src slot) src 0x0C05 = true) && decide (slot < 8 ∧
        s.fw.base_.keySlot = slot)) (.direct) (0) (sSession) = true) ∧
    ((fun (src : CmdSrc) (minimum : Nat) (s : State) => decide (s.acts (.secSetMinVersion src minimum) src 0x0C06 = true) && decide (minimum ≤
        64 ∧ s.fuses.minVersion ≤ minimum ∧ minimum ≤ s.fw.base_.secVersion)) (.direct) (0) (sSession) = true) ∧
    ((fun (src : CmdSrc) (s : State) => decide (s.acts (.secGetStatus src) src 0x0C07 = true)) (.direct) (sSession) = true) := by
  and_intros
  all_goals decide +kernel

/-- The hypotheses of each clause of EventAndCaptureCommands can be met. -/
theorem test_meets_EventAndCaptureCommands :
    ((fun (src : CmdSrc) (enable : Bool) (trigger snap port k : Nat) (mask : BitVec 256) (s : State) => decide (s.acts (.captureConfigure src
        enable trigger snap port k mask) src 0x0B40 = true) && decide (trigger < 5 ∧ (snap = 0 ∨ snap = 64 ∨ snap = 128 ∨ snap = 192 ∨ snap =
        256) ∧ (if trigger = 1 then port < 256 ∧ k ≤ 24 else port = 0 ∧ k = 0) ∧ (2 ≤ trigger ∨ mask = 0))) (.direct) (true) (1) (256) (255)
        (24) (0) (State.reset) = true) ∧
    ((fun (src : CmdSrc) (block first count : Nat) (s : State) => decide (s.acts (.counterClear src block first count) src 0x0B01 = true) &&
        decide (block ≤ 3 ∧ first < clearSize block ∧ 0 < count ∧ first + count ≤ clearSize block)) (.direct) (1) (2047) (1) (State.reset) =
        true) ∧
    ((fun (src : CmdSrc) (source cause : Nat) (data : List Byte) (s : State) => decide (s.acts (.eventInject src source cause data) src 0x0B02
        = true) && decide (source ≤ 832 ∧ 1 ≤ cause % 256 ∧ cause % 256 ≤ Ev.causesOf (cause / 256) ∧ cause < 65536)) (.direct) (832) (0x0111)
        ([1, 2]) (State.reset) = true) := by
  and_intros
  all_goals decide +kernel

/-- The hypotheses of each clause of RecoveryRows can be met. -/
theorem test_meets_RecoveryRows :
    ((fun (stream : StreamId) (s : State) => decide (streamExists stream = true ∧ s.markerAt stream = none)) (.log) (State.reset) = true) ∧
    ((fun (stream : StreamId) (n : Nat) (s : State) => (fun (m : FenceMark) => decide (stream = .ring n ∧ n < 8 ∧ s.time.tickOn = true ∧
        s.ringMark n = some m ∧ s.time.tick0 + m.f + 2 * usC ≤ s.now ∧ s.ringPassed n m.f = true ∧ s.ringNext n = none) && decide
        ((s.tdc.rings.get n).waitMarks = [] ∧ (s.tdc.rings.get n).lostRun = 0 ∧ (s.tdc.rings.get n).fill < 4096)) ((s.ringMark n).getD
        ({ stream := .ring 3, epoch := 5, f := 0 }))) (.ring 3) (3)
        ({ sTick with now := 2 * usC, fence := { sTick.fence with marks := [{ stream := .ring 3, epoch := 5, f := 0 }] } }) = true) ∧
    ((fun (stream : StreamId) (q : Nat) (m : FenceMark) (s : State) => decide (stream = .tsq q ∧ q < 4 ∧ s.time.tickOn = true ∧ s.tsqMarks q =
        [m] ∧ s.markerAt stream = some m.f ∧ s.time.tick0 + m.f ≤ s.now ∧ (s.time.tsqs.get q).enable = true ∧ (s.time.tsqs.get q).refusedRun = 0
        ∧ (s.time.tsqs.get q).reqs = [] ∧ (s.time.tsqs.get q).fill < 64)) (.tsq 3) (3) ({ stream := .tsq 3, epoch := 5, f := 0 })
        ({ sTick with time := { sTick.time with tsqs := [(3, { enable := true })] }, fence := { sTick.fence with marks := [{ stream := .tsq 3, epoch := 5, f := 0 }] } })
        = true) ∧
    ((fun (stream : StreamId) (s : State) => (fun (m : FenceMark) => decide (stream = .log ∧ s.time.tickOn = true ∧ (s.fence.marks.find? fun y
        => decide (y.stream = .log)) = some m ∧ s.time.tick0 + m.f + 2 * usC ≤ s.now) && decide (s.events.logFull = false ∧ s.events.logWait =
        [] ∧ s.events.logRun = 0)) (((s.fence.marks.find? fun y => decide (y.stream = .log))).getD ({ stream := .log, epoch := 5, f := 0 })))
        (.log) ({ sTick with now := 2 * usC, fence := { sTick.fence with marks := [{ stream := .log, epoch := 5, f := 0 }] } }) = true) ∧
    ((fun (stream : StreamId) (s : State) => (fun (m : FenceMark) => decide ((stream = .capture ∨ ∃ n ∈ List.range 32, stream = .cq n) ∧
        s.time.tickOn = true ∧ (s.fence.marks.find? fun y => decide (y.stream = stream)) = some m ∧ s.time.tick0 + m.f + 2 * usC ≤ s.now) &&
        decide (s.core.capture.held = [])) (((s.fence.marks.find? fun y => decide (y.stream = stream))).getD
        ({ stream := .capture, epoch := 5, f := 0 }))) (.capture)
        ({ sTick with now := 2 * usC, fence := { sTick.fence with marks := [{ stream := .capture, epoch := 5, f := 0 }] } }) = true) ∧
    ((fun (core : Nat) (s : State) => decide (core < 14 ∧ (s.fw.cores.get core).state = 1)) (13) (sCore 13 1) = true) ∧
    ((fun (core : Nat) (s : State) => decide (core < 14 ∧ (s.fw.cores.get core).state ≠ 1)) (13) (sCore 13 3) = true) ∧
    ((fun (core addr : Nat) (s : State) => decide (core < 14 ∧ (s.fw.cores.get core).state = 1 ∧ (recent (s.fw.cores.get core).faults s.now
        secC).length < 15)) (13) (5) (sCore 13 1) = true) ∧
    ((fun (core addr : Nat) (s : State) => decide (core < 14 ∧ (s.fw.cores.get core).state = 1 ∧ 15 ≤ (recent (s.fw.cores.get core).faults
        s.now secC).length)) (3) (5) ({ sRun with fw := { sRun.fw with cores := [(3, { state := 1, faults := List.replicate 15 0 })] } }) = true) ∧
    ((fun (core addr : Nat) (s : State) => decide (core < 14 ∧ (s.fw.cores.get core).state ≠ 1)) (13) (5) (sCore 13 3) = true) ∧
    ((fun (core : Nat) (s : State) => decide (core < 14 ∧ (s.fw.cores.get core).state = 3 ∧ s.glob.keeperRestarting = false ∧ s.fence.waiting =
        [] ∧ s.fence.active = [])) (1) (sCore 1 3) = true) ∧
    ((fun (core : Nat) (s : State) => decide (core < 14 ∧ ((s.fw.cores.get core).state ≠ 3 ∨ s.glob.keeperRestarting = true))) (13) (sCore 13
        1) = true) ∧
    ((fun (what : SramWhat) (arg : Nat) (s : State) => decide (what = .staging ∧ arg < 7)) (.staging) (6) (sRun) = true) ∧
    ((fun (what : SramWhat) (arg : Nat) (s : State) => decide ((what = .coreData ∧ arg < 14 ∨ what = .localSram ∧ arg < 14 ∧ (s.fw.cores.get
        arg).state = 1))) (.coreData) (13) (sCore 13 1) = true) ∧
    ((fun (what : SramWhat) (arg : Nat) (s : State) => decide (what = .localSram ∧ arg < 14 ∧ (s.fw.cores.get arg).state ≠ 1)) (.localSram) (1)
        (sCore 1 3) = true) ∧
    ((fun (what : SramWhat) (arg : Nat) (s : State) => decide (what = .tableCopies ∧ s.sramArgOk what arg = true)) (.tableCopies) (2 * 1048576
        + 7) (sRun) = true) ∧
    ((fun (what : SramWhat) (arg : Nat) (s : State) => decide ((what = .firmwareCache ∨ what = .standbyBuffer ∧ s.takesJournals = false) ∧ arg
        = 0)) (.firmwareCache) (0) (sRun) = true) ∧
    ((fun (what : SramWhat) (arg : Nat) (s : State) => decide ((what = .journal ∨ what = .standbyBuffer ∨ what = .eventLog) ∧ s.sramArgOk what
        arg = true)) (.journal) (0) (sPair .active .standby) = true) ∧
    ((fun (s : State) => decide (s.time.tickOn = false ∨ (s.fence.active.find? fun b => b.arm) = none ∧ s.armedSlot = none)) (sTick) = true) ∧
    ((fun (s : State) => (fun (a : ActiveFence) => decide (s.time.tickOn = true ∧ (s.fence.active.find? fun b => b.arm) = some a ∧ s.time.tick0
        + a.f ≤ s.now ∧ s.armedSlot = none)) (((s.fence.active.find? fun b => b.arm)).getD ({ arm := true, epoch := 1 })))
        ({ sTick with fence := { sTick.fence with active := [{ arm := true, epoch := 1 }] } }) = true) ∧
    ((fun (n : Nat) (o : Overlay) (s : State) => (fun (a : ActiveFence) => decide (s.time.tickOn = true ∧ (s.fence.active.find? fun b => b.arm)
        = some a ∧ s.time.tick0 + a.f ≤ s.now ∧ s.armedSlot = some (n, o) ∧ o.timeMode = false ∧ o.src = a.src ∧ s.fence.waiting = []))
        (((s.fence.active.find? fun b => b.arm)).getD ({ arm := true, epoch := 1 }))) (3) ({ state := .armed })
        ({ (sSlot .armed false 0) with time := { State.reset.time with tickOn := true }, fence := { sTick.fence with active := [{ arm := true, epoch := 1 }] } })
        = true) ∧
    ((fun (n : Nat) (o : Overlay) (s : State) => decide (s.time.tickOn = true ∧ (s.fence.active.find? fun b => b.arm) = none ∧ s.armedSlot =
        some (n, o) ∧ o.timeMode = true ∧ s.time.tick0 + s.fireTick o.t ≤ s.now ∧ s.fence.waiting = [])) (3)
        ({ state := .armed, timeMode := true }) ({ (sSlot .armed true 0) with time := { State.reset.time with tickOn := true } }) = true) := by
  and_intros
  all_goals decide +kernel

/-- The hypotheses of each clause of SupplyAndThermalRows can be met. -/
theorem test_meets_SupplyAndThermalRows :
    ((fun (s : State) => decide (s.power.resetPending = none ∨ s.glob.keeperRestarting = true)) (sRun) = true) ∧
    ((fun (c : Nat) (s : State) => decide (s.power.resetPending = some (0, c) ∧ s.power.resetAt ≤ s.now ∧ s.glob.keeperRestarting = false)) (4)
        ({ State.reset with power := { State.reset.power with resetPending := some (0, 4), resetCause := 1 } }) = true) ∧
    ((fun (k c : Nat) (s : State) => decide (s.power.resetPending = some (k, c) ∧ (k = 1 ∨ k = 3 ∨ k = 2) ∧ s.power.resetAt ≤ s.now ∧
        s.glob.keeperRestarting = false) && decide (s.power.stage ≠ .por ∧ s.power.stage ≠ .xo ∧ s.power.stage ≠ .flash ∧ s.power.stage ≠
        .recovery)) (1) (3) ({ sRun with power := { sRun.power with resetPending := some (1, 3) } }) = true) ∧
    ((fun (low : Nat) (s : State) => decide (1250 ≤ low)) (1250) (sRun) = true) ∧
    ((fun (low : Nat) (s : State) => decide (low < 125)) (124) (sRun) = true) ∧
    ((fun (low : Nat) (s : State) => decide (125 ≤ low ∧ low < 1250)) (125) (sRun) = true) ∧
    ((fun (supply : Nat) (s : State) => decide ((supply = 0 ∨ supply = 1) ∧ s.power.supplyFault.get supply = false ∧ s.power.stage ≠
        .thermtrip)) (0) (sRun) = true) ∧
    ((fun (supply : Nat) (s : State) => decide (supply = 1 ∧ s.power.supplyFault.get supply = false ∧ s.power.stage = .thermtrip)) (1)
        ({ sRun with power := { sRun.power with stage := .thermtrip } }) = true) ∧
    ((fun (supply : Nat) (s : State) => decide (supply = 0 ∧ s.power.supplyFault.get supply = false ∧ s.power.stage = .thermtrip)) (0)
        ({ sRun with power := { sRun.power with stage := .thermtrip } }) = true) ∧
    ((fun (supply : Nat) (s : State) => decide (supply = 4 ∧ s.power.supplyFault.get supply = false ∧ s.pdOn 2 = true)) (4) (sRun) = true) ∧
    ((fun (supply : Nat) (s : State) => decide ((supply = 2 ∨ supply = 3 ∨ supply = 5) ∧ s.power.supplyFault.get supply = false ∧ s.pdOn 1 =
        true)) (3) (sRun) = true) ∧
    ((fun (supply : Nat) (s : State) => decide ((supply = 4 ∧ s.pdOn 2 = false ∨ (supply = 2 ∨ supply = 3 ∨ supply = 5) ∧ s.pdOn 1 = false) ∧
        s.power.supplyFault.get supply = false)) (5) (State.reset) = true) ∧
    ((fun (supply : Nat) (s : State) => decide (6 ≤ supply ∧ supply < 9 ∧ s.power.supplyFault.get supply = false ∧ s.fuses.orderCode.skein =
        true)) (8) (sRun) = true) ∧
    ((fun (supply : Nat) (s : State) => decide (supply < 9 ∧ (s.power.supplyFault.get supply = true ∨ 6 ≤ supply ∧ s.fuses.orderCode.skein =
        false))) (8) ({ State.reset with power := { State.reset.power with supplyFault := [(8, true)] } }) = true) ∧
    ((fun (supply : Nat) (s : State) => decide (supply < 9)) (8) ({ sRun with power := { sRun.power with supplyFault := [(8, true)] } }) = true) ∧
    ((fun (supply : Nat) (s : State) => decide (supply < 9 ∧ s.power.stage ≠ .pd1 ∧ s.power.stage ≠ .pd2)) (8)
        ({ sRun with power := { sRun.power with supplyFault := [(8, true)] } }) = true) ∧
    ((fun (sensor : Nat) (s : State) => decide (sensor < 16 ∧ (s.power.sensors.get sensor).faulty = false ∧ s.power.stage ≠ .thermtrip)) (15)
        (sRun) = true) ∧
    ((fun (sensor : Nat) (s : State) => decide (sensor < 16 ∧ ((s.power.sensors.get sensor).faulty = true ∨ s.power.stage = .thermtrip))) (15)
        ({ sRun with power := { sRun.power with stage := .thermtrip } }) = true) ∧
    ((fun (sensor : Nat) (value : Int) (s : State) => decide (sensor < 16)) (15) (800) (sRun) = true) ∧
    ((fun (sensor : Nat) (s : State) => decide (sensor < 16 ∧ (s.power.sensors.get sensor).noConv = false)) (15) (sRun) = true) ∧
    ((fun (sensor : Nat) (s : State) => decide (sensor < 16 ∧ (s.power.sensors.get sensor).noConv = true)) (15)
        ({ sRun with power := { sRun.power with sensors := [(15, { noConv := true })] } }) = true) ∧
    ((fun (sensor : Nat) (s : State) => (fun (n : Nat) => decide (sensor < 16 ∧ (s.power.sensors.get sensor).faulty = true ∧
        (s.power.sensors.get sensor).soundSince = some n ∧ n + 10 * secC ≤ s.now ∧ (s.power.sensors.get sensor).bad s.now = false))
        (((s.power.sensors.get sensor).soundSince).getD (0))) (15)
        ({ sRun with now := 10 * secC, power := { sRun.power with sensors := [(15, { faulty := true, soundSince := some 0 })] } }) = true) ∧
    ((fun (sensor : Nat) (s : State) => decide (sensor < 16 ∧ ((s.power.sensors.get sensor).faulty = false ∨ (s.power.sensors.get
        sensor).soundSince = none))) (15) (sRun) = true) := by
  and_intros
  all_goals decide +kernel

/-- The hypotheses of each clause of BootRows can be met. -/
theorem test_meets_BootRows :
    ((fun (ok : Bool) (order serial : Nat) (strap : Bool) (hashes : List (Nat × List Byte)) (fullDebug : Bool) (s : State) => decide
        (s.power.stage = .por ∧ s.power.supplyHold = false ∧ s.power.romFault = false ∧ 1 ≤ order ∧ order ≤ 3 ∧ serial < 2 ^ 64 ∧ (hashes.any
        fun y => decide (8 ≤ y.1 ∨ y.2.length ≠ 48)) = false ∧ s.fuses.fusesRead = false)) (true) (3) (2 ^ 64 - 1) (true) ([]) (false)
        (State.reset) = true) ∧
    ((fun (ok : Bool) (order serial : Nat) (strap : Bool) (hashes : List (Nat × List Byte)) (fullDebug : Bool) (s : State) => decide
        (s.power.stage ≠ .por ∨ s.power.supplyHold = true ∨ s.power.romFault = true)) (true) (3) (0) (false) ([]) (false) (sRun) = true) ∧
    ((fun (a b : Option (List Byte)) (s : State) => decide (s.power.stage ≠ .flash)) (none) (none) (sRun) = true) ∧
    ((fun (a b : Option (List Byte)) (s : State) => (fun (i : Option ImgInfo) => (fun (j : Option ImgInfo) => decide (s.power.stage = .flash ∧
        i = (a.bind fun l => (s.verifyImage true l).getRight?) ∧ j = (b.bind fun l => (s.verifyImage true l).getRight?))) ((b.bind fun l =>
        (s.verifyImage true l).getRight?))) ((a.bind fun l => (s.verifyImage true l).getRight?))) (none) (none) (sStage .flash 1) = true) ∧
    ((fun (s : State) => decide (s.power.rootRetry = none ∧ s.power.stage = .pd1 ∧ s.pdOn 1 = true ∧ s.power.resetting ≠ some 3)) (sStage .pd1
        3) = true) ∧
    ((fun (s : State) => decide (s.power.rootRetry = none ∧ s.power.stage = .pd1 ∧ s.pdOn 1 = true ∧ s.power.resetting = some 3))
        ({ sStage .pd1 3 with power := { (sStage .pd1 3).power with resetting := some 3 } }) = true) ∧
    ((fun (s : State) => decide (s.power.rootRetry = none ∧ (s.power.stage ≠ .pd1 ∨ s.pdOn 1 = false))) (sRun) = true) ∧
    ((fun (s : State) => decide (s.power.rootRetry = none ∧ (s.power.stage ≠ .pd1 ∨ s.pdOn 1 = false ∨ s.glob.rootRunning = true))) (sRun) =
        true) ∧
    ((fun (s : State) => decide (s.power.rootRetry = none ∧ s.power.stage = .pd1 ∧ s.pdOn 1 = true ∧ s.glob.rootRunning = false)) (sStage .pd1
        3) = true) ∧
    ((fun (s : State) => decide (s.power.stage = .pd2 ∧ s.pdOn 2 = true)) (sStage .pd2 7) = true) ∧
    ((fun (s : State) => decide (s.power.stage ≠ .pd2 ∨ s.pdOn 2 = false)) (sRun) = true) ∧
    ((fun (s : State) => decide (s.power.stage = .recovery)) (sStage .recovery 1) = true) ∧
    ((fun (s : State) => decide (s.power.stage ≠ .recovery)) (sRun) = true) ∧
    ((fun (s : State) => decide (s.power.recErasing = true)) ({ State.reset with power := { State.reset.power with recErasing := true } }) =
        true) ∧
    ((fun (s : State) => decide (s.power.recErasing = false)) (sRun) = true) ∧
    ((fun (offset : Nat) (bytes : List Byte) (s : State) => decide (s.power.stage ≠ .recovery ∨ s.power.recErased = false)) (0) ([7]) (sRun) =
        true) ∧
    ((fun (offset : Nat) (bytes : List Byte) (s : State) => decide (s.power.stage = .recovery ∧ s.power.recErased = true ∧ bytes ≠ [] ∧
        bytes.length ≤ 256 ∧ offset % 256 + bytes.length ≤ 256 ∧ offset + bytes.length ≤ 16777216)) (16777215) ([7])
        ({ sStage .recovery 1 with power := { (sStage .recovery 1).power with recErased := true } }) = true) ∧
    ((fun (offset : Nat) (bytes : List Byte) (s : State) => decide (s.power.stage = .recovery ∧ s.power.recErased = true ∧ (bytes = [] ∨ 256 <
        offset % 256 + bytes.length ∨ 16777216 < offset + bytes.length))) (255) ([1, 2])
        ({ sStage .recovery 1 with power := { (sStage .recovery 1).power with recErased := true } }) = true) ∧
    ((fun (s : State) => decide (s.power.stage = .recovery ∧ s.power.recErased = false)) (sStage .recovery 1) = true) ∧
    ((fun (s : State) => (fun (l : List Byte) => decide (s.power.stage = .recovery ∧ s.power.recErased = true ∧ l = s.power.copy1Bytes (min
        16777216 (ofBe (slice (s.power.copy1Bytes 28) 24 4))))) (s.power.copy1Bytes (min 16777216 (ofBe (slice (s.power.copy1Bytes 28) 24 4)))))
        ({ sStage .recovery 1 with power := { (sStage .recovery 1).power with recErased := true, copy1 := [(24, 0), (25, 0), (26, 0), (27, 28)] } })
        = true) ∧
    ((fun (s : State) => decide (s.power.stage ≠ .recovery)) (sRun) = true) ∧
    ((fun (opcode kind : Nat) (s : State) => decide ((opcode = 0x66 ∨ opcode = 0x99) ∧ s.power.stage = .thermtrip ∨ opcode = 0x99 ∧
        s.power.ospiArm = false)) (0x99) (1) (sRun) = true) ∧
    ((fun (opcode kind : Nat) (s : State) => decide (opcode = 0x66 ∧ s.power.stage ≠ .thermtrip)) (0x66) (0) (sRun) = true) ∧
    ((fun (opcode kind : Nat) (s : State) => decide (opcode = 0x99 ∧ s.power.stage ≠ .thermtrip ∧ s.power.ospiArm = true ∧ kind < 2 ∧
        s.resetsNow = [])) (0x99) (1) ({ sRun with power := { sRun.power with ospiArm := true } }) = true) := by
  and_intros
  all_goals decide +kernel

/-- The hypotheses of each clause of LaneRows can be met. -/
theorem test_meets_LaneRows :
    ((fun (lane : Nat) (s : State) => decide (lane < 264 ∧ (s.lanes.get lane).state = .swatch ∧ (s.lanes.get lane).swatch.locked = false)) (8)
        (sPort 0 .swatch) = true) ∧
    ((fun (lane : Nat) (s : State) => decide (lane < 264 ∧ ((s.lanes.get lane).state ≠ .swatch ∨ (s.lanes.get lane).swatch.locked = true))) (8)
        (sPort 0 .up) = true) ∧
    ((fun (lane bits errors : Nat) (s : State) => decide (lane < 264 ∧ errors ≤ bits ∧ (s.lanes.get lane).state = .swatch ∧ (s.lanes.get
        lane).swatch.locked = true)) (8) (2 ^ 48) (0) ((sPort 0 .swatch).updLane 8 fun x =>
        { x with swatch := { x.swatch with locked := true } }) = true) ∧
    ((fun (lane bits errors : Nat) (s : State) => decide (lane < 264 ∧ errors ≤ bits ∧ ((s.lanes.get lane).state ≠ .swatch ∨ (s.lanes.get
        lane).swatch.locked = false))) (8) (7) (0) (sPort 0 .up) = true) ∧
    ((fun (lane : Nat) (counts : List Nat) (s : State) => decide (lane < 264 ∧ counts.length = 1024 ∧ (counts.any fun n => decide (65535 < n))
        = false ∧ (s.lanes.get lane).swatch.sweeping = true)) (8) (List.replicate 1024 65535) ((sPort 0 .swatch).updLane 8 fun x =>
        { x with swatch := { x.swatch with sweeping := true, sweepEnd := 9 } }) = true) ∧
    ((fun (lane : Nat) (counts : List Nat) (s : State) => decide (lane < 264 ∧ counts.length = 1024 ∧ (counts.any fun n => decide (65535 < n))
        = false ∧ (s.lanes.get lane).swatch.sweeping = false)) (8) (List.replicate 1024 65535) (sPort 0 .swatch) = true) ∧
    ((fun (port : Nat) (s : State) => decide (portNamed port = true ∧ (s.ports.get port).configured = true ∧ s.portState port = .casting ∧
        ((s.ports.get port).isSelvedge = true → (s.selv.get port).rowState = .locked))) (8) (sPort 0 .casting) = true) ∧
    ((fun (port : Nat) (s : State) => decide (portNamed port = true ∧ ((s.ports.get port).configured = false ∨ s.portState port ≠ .casting ∨
        (s.ports.get port).isSelvedge = true ∧ (s.selv.get port).rowState ≠ .locked))) (8) (sPort 0 .up) = true) ∧
    ((fun (port : Nat) (s : State) => (fun (n : Nat) => decide (portNamed port = true ∧ (s.ports.get port).castTimer = some n ∧ s.portState
        port = .casting ∧ n ≤ s.now ∧ port < 256)) (((s.ports.get port).castTimer).getD (0))) (8) (sTimed .casting fun x =>
        { x with castTimer := some 0 }) = true) ∧
    ((fun (port : Nat) (s : State) => (fun (n : Nat) => decide (portNamed port = true ∧ 256 ≤ port ∧ (s.ports.get port).castTimer = some n ∧
        s.portState port = .casting ∧ n ≤ s.now ∧ s.pdOn 1 = true)) (((s.ports.get port).castTimer).getD (0))) (256) ((sRun.updPort 256 fun x =>
        { x with configured := true, width := 8, mode := 5, castTimer := some 0 }).updLane 256 fun x => { x with state := .casting }) = true) ∧
    ((fun (port : Nat) (s : State) => (fun (n : Nat) => decide (portNamed port = true ∧ (s.ports.get port).castTimer = some n ∧ s.portState
        port = .proving)) (((s.ports.get port).castTimer).getD (5))) (8) (sTimed .proving fun x => { x with castTimer := some 5 }) = true) ∧
    ((fun (port : Nat) (s : State) => decide (portNamed port = true ∧ (s.ports.get port).castTimer = none)) (8) (sPort 0 .up) = true) ∧
    ((fun (port : Nat) (pointersOk : Bool) (offsets deskews : List Int) (s : State) => (fun (n : Nat) => decide (portNamed port = true ∧
        (s.ports.get port).provingEnd = some n ∧ s.portState port = .proving ∧ n ≤ s.now ∧ offsets.length = (s.ports.get port).width ∧
        deskews.length = (s.ports.get port).width) && decide ((offsets.any fun o => decide (s.freqLimit port < o.natAbs)) = true))
        (((s.ports.get port).provingEnd).getD (0))) (8) (true) ([10 ^ 12]) ([0]) (sTimed .proving fun x => { x with provingEnd := some 0 }) =
        true) ∧
    ((fun (port : Nat) (pointersOk : Bool) (offsets deskews : List Int) (s : State) => (fun (n : Nat) => decide (portNamed port = true ∧
        (s.ports.get port).provingEnd = some n ∧ s.portState port = .proving ∧ n ≤ s.now ∧ offsets.length = (s.ports.get port).width ∧
        deskews.length = (s.ports.get port).width) && decide ((offsets.any fun o => decide (s.freqLimit port < o.natAbs)) = false ∧ pointersOk =
        true)) (((s.ports.get port).provingEnd).getD (0))) (8) (true) ([0]) ([0]) (sTimed .proving fun x => { x with provingEnd := some 0 }) =
        true) ∧
    ((fun (port : Nat) (pointersOk : Bool) (offsets deskews : List Int) (s : State) => (fun (n : Nat) => decide (portNamed port = true ∧
        (s.ports.get port).provingEnd = some n ∧ s.portState port = .proving ∧ n ≤ s.now ∧ offsets.length = (s.ports.get port).width ∧
        deskews.length = (s.ports.get port).width) && decide ((offsets.any fun o => decide (s.freqLimit port < o.natAbs)) = false ∧ pointersOk =
        false)) (((s.ports.get port).provingEnd).getD (0))) (8) (false) ([9]) ([0]) (sTimed .proving fun x => { x with provingEnd := some 0 }) =
        true) ∧
    ((fun (port : Nat) (pointersOk : Bool) (offsets deskews : List Int) (s : State) => decide (portNamed port = true ∧ (s.ports.get
        port).provingEnd = none ∧ offsets.length = (s.ports.get port).width ∧ deskews.length = (s.ports.get port).width)) (8) (true) ([0]) ([0])
        (sPort 0 .up) = true) ∧
    ((fun (lane : Nat) (s : State) => decide (lane < 264 ∧ s.portOf lane = none)) (9)
        ({ sPort 0 .up with lanes := [(9, { energySince := some 0 })] }) = true) ∧
    ((fun (lane : Nat) (s : State) => (fun (q : Nat) => decide (lane < 264 ∧ s.portOf lane = some q ∧ (s.lanes.get lane).losPending = false ∧
        s.portState q = .up)) ((s.portOf lane).getD (8))) (8) (sPort 7 .up) = true) ∧
    ((fun (lane : Nat) (s : State) => (fun (q : Nat) => decide (lane < 264 ∧ s.portOf lane = some q ∧ (s.lanes.get lane).losPending = false ∧
        (s.portState q = .casting ∨ s.portState q = .proving))) ((s.portOf lane).getD (8))) (8) (sPort 7 .proving) = true) ∧
    ((fun (lane : Nat) (s : State) => (fun (q : Nat) => decide (lane < 264 ∧ s.portOf lane = some q ∧ (s.lanes.get lane).losPending = false ∧
        s.portState q ≠ .up ∧ s.portState q ≠ .casting ∧ s.portState q ≠ .proving)) ((s.portOf lane).getD (8))) (8) (sPort 7 .binding) = true) ∧
    ((fun (lane : Nat) (s : State) => (fun (q : Nat) => decide (lane < 264 ∧ s.portOf lane = some q ∧ (s.lanes.get lane).losPending = true))
        ((s.portOf lane).getD (8))) (8) ((sPort 7 .fault).updLane 8 fun x => { x with losPending := true }) = true) ∧
    ((fun (lane : Nat) (kind : LossKind) (s : State) => (fun (q : Nat) => decide (lane < 264 ∧ s.portOf lane = some q ∧ s.portState q = .up))
        ((s.portOf lane).getD (8))) (8) (.cdr) ((sPort 7 .up).updLane 8 fun x => { x with lockFlags := 255 }) = true) ∧
    ((fun (lane : Nat) (kind : LossKind) (s : State) => (fun (q : Nat) => decide (lane < 264 ∧ s.portOf lane = some q ∧ (s.portState q =
        .casting ∨ s.portState q = .proving))) ((s.portOf lane).getD (8))) (8) (.block) ((sPort 7 .proving).updLane 8 fun x =>
        { x with lockFlags := 255 }) = true) ∧
    ((fun (lane : Nat) (kind : LossKind) (s : State) => decide (lane < 264 ∧
        (match s.portOf lane with | none => true | some q => decide (s.portState q ≠ .up ∧ s.portState q ≠ .casting ∧ s.portState q ≠ .proving))
        = true)) (8) (.cdr) ((sPort 7 .binding).updLane 8 fun x => { x with lockFlags := 255 }) = true) ∧
    ((fun (lane : Nat) (offset : Int) (s : State) => decide (lane < 264 ∧
        (match s.portOf lane with | none => true | some q => decide (offset.natAbs ≤ s.freqLimit q ∨ s.portState q ≠ .up ∧ s.portState q ≠ .proving))
        = true)) (8) (-1) (sPort 7 .up) = true) ∧
    ((fun (lane : Nat) (offset : Int) (s : State) => (fun (q : Nat) => decide (lane < 264 ∧ s.portOf lane = some q ∧ s.freqLimit q <
        offset.natAbs ∧ s.portState q = .up)) ((s.portOf lane).getD (8))) (8) (10 ^ 12) (sPort 7 .up) = true) ∧
    ((fun (lane : Nat) (offset : Int) (s : State) => (fun (q : Nat) => decide (lane < 264 ∧ s.portOf lane = some q ∧ s.freqLimit q <
        offset.natAbs ∧ s.portState q = .proving)) ((s.portOf lane).getD (8))) (8) (10 ^ 12) (sPort 7 .proving) = true) ∧
    ((fun (port : Nat) (s : State) => (fun (n : Nat) => decide (portNamed port = true ∧ (s.ports.get port).holdTimer = some n ∧ s.portState
        port = .fault ∧ (s.ports.get port).recastManual = true ∧ n ≤ s.now)) (((s.ports.get port).holdTimer).getD (0))) (8) (sTimed .fault fun x
        => { x with holdTimer := some 0, recastManual := true }) = true) ∧
    ((fun (port : Nat) (s : State) => (fun (n : Nat) => decide (portNamed port = true ∧ (s.ports.get port).holdTimer = some n ∧ s.portState
        port = .fault ∧ (s.ports.get port).recastManual = false ∧ n ≤ s.now ∧ s.tableServes port = true)) (((s.ports.get port).holdTimer).getD
        (0))) (8) (sTimed .fault fun x => { x with holdTimer := some 0 }) = true) ∧
    ((fun (port : Nat) (s : State) => decide (portNamed port = true ∧ (s.ports.get port).holdTimer = none)) (8) (sPort 0 .up) = true) ∧
    ((fun (port : Nat) (s : State) => decide (port < 256 ∧ s.portState port = .binding ∧ (s.ports.get port).drainTimer.isSome = true ∧
        s.egressIdle port = true)) (8) (sTimed .binding fun x => { x with drainTimer := some 50 }) = true) ∧
    ((fun (port : Nat) (s : State) => decide (port < 256 ∧ (s.portState port ≠ .binding ∨ (s.ports.get port).drainTimer = none ∨ s.egressIdle
        port = false))) (8) (sPort 0 .up) = true) ∧
    ((fun (port : Nat) (s : State) => (fun (n : Nat) => decide (port < 256 ∧ s.portState port = .binding ∧ (s.ports.get port).drainTimer = some
        n)) (((s.ports.get port).drainTimer).getD (50))) (8) (sTimed .binding fun x => { x with drainTimer := some 50 }) = true) ∧
    ((fun (port : Nat) (s : State) => decide (port < 256 ∧ (s.portState port ≠ .binding ∨ (s.ports.get port).drainTimer = none))) (8) (sPort 0
        .up) = true) ∧
    ((fun (port : Nat) (s : State) => (fun (n : Nat) => decide (port < 256 ∧ s.portState port = .binding ∧ (s.ports.get port).lingerTimer =
        some n ∧ n ≤ s.now)) (((s.ports.get port).lingerTimer).getD (0))) (8) (sTimed .binding fun x => { x with lingerTimer := some 0 }) = true) ∧
    ((fun (port : Nat) (s : State) => decide (port < 256 ∧ (s.portState port ≠ .binding ∨ (s.ports.get port).lingerTimer = none))) (8) (sPort 0
        .up) = true) ∧
    ((fun (bits : List Nat) (n : Nat) (m : Module) (s : State) => (fun (b : Nat) => (fun (k : Nat) => decide ((bits.any fun b => decide (3 <
        b)) = false ∧ s.modules = [(n, m)] ∧ b = bits.getD n 0 ∧ k = (if b = m.lastRaw then min 3 (m.rawCount + 1) else 1))) ((if b = m.lastRaw
        then min 3 (m.rawCount + 1) else 1))) (bits.getD n 0)) ([3, 1]) (1) ({ lastRaw := 1, rawCount := 2, lanes := [8, 9] })
        ({ sRun with modules := [(1, { lastRaw := 1, rawCount := 2, lanes := [8, 9] })] }) = true) ∧
    ((fun (s : State) => decide (s.power.sgpioStalled = false)) (sRun) = true) ∧
    ((fun (s : State) => decide (s.power.sgpioStalled = true)) ({ sRun with power := { sRun.power with sgpioStalled := true } }) = true) := by
  and_intros
  all_goals decide +kernel

/-- The hypotheses of each clause of StitchRows can be met. -/
theorem test_meets_StitchRows :
    ((fun (port index : Nat) (ctl : Bool) (word tick sub : Nat) (s : State) => decide (port < 256 ∧ [0, 64, 128, 192].contains index = true ∧
        s.time.tick0 + tick ≤ s.now ∧ s.hearsRows port = false)) (8) (0) (false) (0) (0) (0) (sPort 0 .up) = true) ∧
    ((fun (port index : Nat) (ctl : Bool) (word tick sub : Nat) (s : State) => decide (port < 256 ∧ [0, 64, 128, 192].contains index = true ∧
        s.time.tick0 + tick ≤ s.now ∧ s.hearsRows port = true ∧ (s.selv.get port).rowState = .hunt)) (8) (0) (false) (0) (0) (0) (sPort 7
        .casting) = true) ∧
    ((fun (port index : Nat) (ctl : Bool) (word tick sub : Nat) (s : State) => decide (port < 256 ∧ index = 0 ∧ s.time.tick0 + tick ≤ s.now ∧
        s.hearsRows port = true ∧ (s.selv.get port).rowState = .locked ∧ slotTest ctl 0 word = false ∧ (s.selv.get port).fail0 = 3)) (8) (0)
        (false) (0) (0) (0) ({ sPort 7 .up with selv := [(8, { rowState := .locked, fail0 := 3 })] }) = true) ∧
    ((fun (port index : Nat) (ctl : Bool) (word tick sub : Nat) (s : State) => (fun (f : Nat) => decide (port < 256 ∧ [0, 64, 128,
        192].contains index = true ∧ s.time.tick0 + tick ≤ s.now ∧ s.hearsRows port = true ∧ (s.selv.get port).rowState = .locked) && decide
        ((slotPositions (s.selv.get port).slots).contains index = true ∧ f = stitchFails ctl index word ∧ f ≠ 0 ∧ (slotTest ctl index word =
        true ∨ (if index = 0 then (s.selv.get port).fail0 < 3 else (s.selv.get port).failPos.getD (index / 64 - 1) 0 < 3)))) (stitchFails ctl
        index word)) (8) (64) (false) (0) (0) (0) ({ sPort 7 .up with selv := [(8, { slots := 4, rowState := .locked })] }) = true) ∧
    ((fun (port index : Nat) (ctl : Bool) (word tick sub : Nat) (s : State) => (fun (k : Nat) => decide (port < 256 ∧ [0, 64, 128,
        192].contains index = true ∧ s.time.tick0 + tick ≤ s.now ∧ s.hearsRows port = true ∧ (s.selv.get port).rowState = .locked) && decide
        ((slotPositions (s.selv.get port).slots).contains index = true ∧ stitchFails ctl index word = 0 ∧ k = word / 256 / 2 ^ 52)) (word / 256
        / 2 ^ 52)) (8) (64) (true) (12 * 2 ^ 60 + (stitchCrc (12 * 2 ^ 52) ^^^ slotMask 64)) (0) (0)
        ({ sPort 7 .up with selv := [(8, { slots := 4, rowState := .locked })] }) = true) ∧
    ((fun (port : Nat) (s : State) => decide (port < 256 ∧ (s.ports.get port).configured = true ∧ (s.ports.get port).isSelvedge = true ∧
        (s.portState port).ranges = true ∧ (s.selv.get port).linkStale = false)) (8) ((sPort 7 .up)) = true) ∧
    ((fun (port : Nat) (s : State) => decide (port < 256 ∧ ((s.ports.get port).configured = false ∨ (s.ports.get port).isSelvedge = false ∨
        (s.portState port).ranges = false ∨ (s.selv.get port).linkStale = true))) (8) ((sPort 7 .down)) = true) ∧
    ((fun (group : Nat) (s : State) => decide (group < 6 ∧ s.time.tickOn = true)) (5) (sTick) = true) ∧
    ((fun (group : Nat) (s : State) => decide (group < 6 ∧ s.time.tickOn = false)) (5) (sRun) = true) ∧
    ((fun (q : QStitch) (l : List QStitch) (s : State) => decide (s.stitch.arriving = q :: l ∧ s.time.tickOn = true ∧ s.time.tick0 + q.arrive ≤
        s.now)) ({}) ([]) ({ sTick with stitch := { sTick.stitch with arriving := [{}] } }) = true) ∧
    ((fun (s : State) => decide (s.stitch.arriving = [])) (sRun) = true) ∧
    ((fun (s : State) => (fun (n : Nat) => decide (nextAfter s.tick (s.stitch.queues.flatMap fun q => q.2.map (·.ready)) = some n ∧
        s.time.tickOn = true)) ((nextAfter s.tick (s.stitch.queues.flatMap fun q => q.2.map (·.ready))).getD (64)))
        ({ sTick with stitch := { sTick.stitch with queues := [(3, [{ ready := 64 }])] } }) = true) ∧
    ((fun (s : State) => decide (nextAfter s.tick (s.stitch.queues.flatMap fun q => q.2.map (·.ready)) = none)) (sTick) = true) ∧
    ((fun (ch tick phase fine : Nat) (falling : Bool) (s : State) => (fun (y : TdcChan) => decide (280 ≤ ch ∧ ch < 312 ∧ s.time.tick0 + tick ≤
        s.now ∧ y = s.tdc.chans.get ch) && decide (y.enable = false ∨ y.inputOpen = true ∨ (y.edge ≠ 2 ∧ (if falling then y.edge ≠ 1 else y.edge
        = 1)) ∨ s.inService ch = false)) (s.tdc.chans.get ch)) (280) (0) (0) (0) (false) (sTick) = true) ∧
    ((fun (ch tick phase fine : Nat) (falling : Bool) (s : State) => (fun (y : TdcChan) => (fun (l : Nat) => decide (280 ≤ ch ∧ ch < 312 ∧
        s.time.tick0 + tick ≤ s.now ∧ y = s.tdc.chans.get ch ∧ y.enable = true ∧ y.inputOpen = false ∧ (y.edge = 2 ∨ (if falling then y.edge = 1
        else y.edge ≠ 1)) ∧ s.inService ch = true) && decide (y.lastEdge = some l ∧ tick * 65536 + s.centreOf ch (phase % 16 * 32 + fine % 32) <
        l + y.blanking)) ((y.lastEdge).getD (10 ^ 9))) (s.tdc.chans.get ch)) (280) (0) (0) (0) (false) (sEvt
        { enable := true, edge := 2, lastEdge := some (10 ^ 9) } {}) = true) ∧
    ((fun (ch tick phase fine : Nat) (falling : Bool) (s : State) => (fun (y : TdcChan) => (fun (v : Stamp) => decide (280 ≤ ch ∧ ch < 312 ∧
        s.time.tick0 + tick ≤ s.now ∧ y = s.tdc.chans.get ch ∧ y.enable = true ∧ y.inputOpen = false ∧ (y.edge = 2 ∨ (if falling then y.edge = 1
        else y.edge ≠ 1)) ∧ s.inService ch = true) && decide (y.lastEdge = none ∧ y.dllLocked = true ∧ y.preCount = 0 ∧ y.regression = false ∧ v
        = s.makeStamp ch tick (phase % 16) (fine % 32) falling ∧ (s.tdc.groups.get (groupOf ch)).inside v = true)) (s.makeStamp ch tick (phase %
        16) (fine % 32) falling)) (s.tdc.chans.get ch)) (280) (0) (0) (0) (false) (sEvt { enable := true, edge := 2 } { open_ := true }) = true) ∧
    ((fun (ch tick phase fine : Nat) (falling : Bool) (s : State) => decide ((ch = 316 ∨ ch = 318 ∨ ch = 319) ∧ s.time.tick0 + tick ≤ s.now ∧
        (s.armed ch = false ∨ s.inService ch = false))) (318) (0) (0) (0) (false) (sTick) = true) ∧
    ((fun (ch tick phase fine : Nat) (falling : Bool) (s : State) => (fun (v : Stamp) => decide ((ch = 316 ∨ ch = 318 ∨ ch = 319) ∧
        s.time.tick0 + tick ≤ s.now ∧ s.armed ch = true ∧ s.inService ch = true ∧ (s.tdc.chans.get ch).dllLocked = true ∧ v = s.makeStamp ch
        tick (phase % 16) (fine % 32) falling)) (s.makeStamp ch tick (phase % 16) (fine % 32) falling)) (318) (0) (0) (0) (false)
        ({ sTick with ref := { sTick.ref with pps := [(0, { enable := true })] }, gauge := { sTick.gauge with regions := [(20, { state := .idle })] } })
        = true) ∧
    ((fun (ch tick phase fine width : Nat) (s : State) => decide ((264 ≤ ch ∧ ch < 279) ∧ s.time.tick0 + tick ≤ s.now ∧ (s.armed ch = false ∨
        s.inService ch = false ∨ (ch < 274 ∨ ch = 278) ∧ width < 19661))) (264) (0) (0) (0) (65536) (sTick) = true) ∧
    ((fun (ch tick phase fine width : Nat) (s : State) => (fun (n : Nat) => (fun (v : Stamp) => decide (264 ≤ ch ∧ ch < 272 ∧ n = ch - 264 ∧
        s.time.tick0 + tick ≤ s.now ∧ s.armed ch = true ∧ s.inService ch = true ∧ 19661 ≤ width ∧ (s.tdc.chans.get ch).dllLocked = true ∧
        (s.ref.slots.get n).pulse n = false) && decide (v = s.makeStamp ch tick (phase % 16) (fine % 32) (s.ref.slots.get n).falling))
        (s.makeStamp ch tick (phase % 16) (fine % 32) (s.ref.slots.get n).falling)) (ch - 264)) (264) (0) (0) (0) (65536)
        ({ sTick with ref := { sTick.ref with slots := [(0, { enable := true, fNum := 10000000, fDen := 1, state := .qualified })] }, gauge := { sTick.gauge with regions := [(17, { state := .idle })] } })
        = true) ∧
    ((fun (ch tick phase fine width : Nat) (s : State) => (fun (v : Stamp) => decide ((274 ≤ ch ∧ ch < 278 ∨ ch = 279) ∧ s.time.tick0 + tick ≤
        s.now ∧ s.armed ch = true ∧ s.inService ch = true ∧ (s.tdc.chans.get ch).dllLocked = true ∧ v = s.makeStamp ch tick (phase % 16) (fine %
        32) false)) (s.makeStamp ch tick (phase % 16) (fine % 32) false)) (279) (0) (0) (0) (65536)
        ({ sTick with gauge := { sTick.gauge with regions := [(17, { state := .idle })] } }) = true) ∧
    ((fun (s : State) => decide (firstTimed s.stitch.timed = none)) (sTick) = true) ∧
    ((fun (s : State) => (fun (x : Pending) => decide (firstTimed s.stitch.timed = some x ∧ s.time.tick0 + s.fireTick (x.e - x.lead) ≤ s.now))
        ((firstTimed s.stitch.timed).getD ({}))) ({ sTick with stitch := { sTick.stitch with timed := [{}] } }) = true) ∧
    ((fun (chan : Nat) (s : State) => (fun (y : McChan) => (fun (q : QStitch) => decide (chan < 4 ∧ y = s.stitch.mc.get chan ∧ y.enable = true
        ∧ y.setInterval ≠ 0 ∧ y.nextSet ≤ s.now) && decide (q =
        { type := 4, target := y.phaseTarget, payload := (if y.stepSets = 0 then 0 else 1), chan := chan, arrive := s.tick, ready := s.tick + 64 }))
        ({ type := 4, target := y.phaseTarget, payload := (if y.stepSets = 0 then 0 else 1), chan := chan, arrive := s.tick, ready := s.tick + 64 }))
        (s.stitch.mc.get chan)) (3) ({ sTick with stitch := { sTick.stitch with mc := [(3, { enable := true, setInterval := 655360 })] } }) =
        true) ∧
    ((fun (chan : Nat) (s : State) => decide (chan < 4 ∧ ((s.stitch.mc.get chan).enable = false ∨ (s.stitch.mc.get chan).setInterval = 0))) (3)
        (sTick) = true) ∧
    ((fun (chan : Nat) (s : State) => (fun (y : McChan) => (fun (q : QStitch) => decide (chan < 4 ∧ y = s.stitch.mc.get chan ∧ y.enable = true
        ∧ y.tracked = true ∧ y.orbitLen ≠ 0 ∧ y.bcnInterval ≠ 0 ∧ y.orbit % y.bcnInterval = 0 ∧ y.bcnDone ≠ some y.orbit) && decide (q =
        { type := 2, target := y.bcnTarget, chan := chan, arrive := s.tick, ready := s.tick }))
        ({ type := 2, target := y.bcnTarget, chan := chan, arrive := s.tick, ready := s.tick })) (s.stitch.mc.get chan)) (3)
        ({ sTick with stitch := { sTick.stitch with mc := [(3, { enable := true, tracked := true, orbitLen := 9, bcnInterval := 1 })] } }) =
        true) ∧
    ((fun (chan : Nat) (s : State) => decide (chan < 4 ∧ ((s.stitch.mc.get chan).enable = false ∨ (s.stitch.mc.get chan).tracked = false ∨
        (s.stitch.mc.get chan).orbitLen = 0 ∨ (s.stitch.mc.get chan).bcnInterval = 0 ∨ (s.stitch.mc.get chan).orbit % (s.stitch.mc.get
        chan).bcnInterval ≠ 0 ∨ (s.stitch.mc.get chan).bcnDone = some (s.stitch.mc.get chan).orbit))) (3) (sTick) = true) := by
  and_intros
  all_goals decide +kernel

/-- The hypotheses of each clause of TdcRows can be met. -/
theorem test_meets_TdcRows :
    ((fun (input : Nat) (s : State) => decide (input < 32 ∧ (s.tdc.chans.get (280 + input)).inputOpen = false)) (31) (sRun) = true) ∧
    ((fun (input : Nat) (s : State) => decide (input < 32 ∧ (s.tdc.chans.get (280 + input)).inputOpen = true)) (31)
        ({ sRun with tdc := { sRun.tdc with chans := [(311, { inputOpen := true })] } }) = true) ∧
    ((fun (input : Nat) (level : Bool) (s : State) => decide (input < 32)) (31) (true)
        ({ sRun with tdc := { sRun.tdc with chans := [(311, { inputOpen := true })] } }) = true) ∧
    ((fun (ch : Nat) (s : State) => (fun (y : TdcChan) => decide (280 ≤ ch ∧ ch < 312 ∧ y = s.tdc.chans.get ch ∧ y.enable = true ∧ y.rateLimit
        ≠ 0 ∧ y.rateLimit < y.winEdges)) (s.tdc.chans.get ch)) (311)
        ({ sTick with tdc := { sTick.tdc with chans := [(311, { enable := true, rateLimit := 1, winEdges := 2 })] } }) = true) ∧
    ((fun (ch : Nat) (s : State) => (fun (y : TdcChan) => decide (280 ≤ ch ∧ ch < 312 ∧ y = s.tdc.chans.get ch ∧ (y.enable = false ∨
        y.rateLimit = 0 ∨ y.winEdges ≤ y.rateLimit))) (s.tdc.chans.get ch)) (280)
        ({ sTick with tdc := { sTick.tdc with chans := [(280, { winEdges := 2 })] } }) = true) ∧
    ((fun (ch : Nat) (s : State) => (fun (y : TdcChan) => decide (280 ≤ ch ∧ ch < 312 ∧ y = s.tdc.chans.get ch ∧ y.enable = true ∧
        (s.tdc.groups.get (groupOf ch)).open_ = true ∧ y.silence ≠ 0 ∧ y.silentRaised = false)) (s.tdc.chans.get ch)) (280)
        ({ sTick with tdc := { sTick.tdc with chans := [(280, { enable := true, silence := 65536000 })], groups := [(groupOf 280, { open_ := true })] } })
        = true) ∧
    ((fun (ch : Nat) (s : State) => (fun (y : TdcChan) => decide (280 ≤ ch ∧ ch < 312 ∧ y = s.tdc.chans.get ch ∧ (y.enable = false ∨
        (s.tdc.groups.get (groupOf ch)).open_ = false ∨ y.silence = 0 ∨ y.silentRaised = true))) (s.tdc.chans.get ch)) (280) (sTick) = true) ∧
    ((fun (lane tick phase fine : Nat) (s : State) => decide (lane < 264 ∧ s.time.tick0 + tick ≤ s.now ∧ (s.lanes.get lane).state ≠ .casting ∧
        (s.armed lane && s.inService lane) = true ∧ (s.tdc.chans.get lane).dllLocked = false ∧ (s.tdc.chans.get lane).capturing = false)) (8)
        (0) (0) (0) (sTap false) = true) ∧
    ((fun (lane tick phase fine : Nat) (s : State) => decide (lane < 264 ∧ s.time.tick0 + tick ≤ s.now ∧ (s.lanes.get lane).state ≠ .casting ∧
        (s.armed lane && s.inService lane) = false)) (8) (0) (0) (0) (sPort 0 .down) = true) ∧
    ((fun (lane tick phase fine : Nat) (s : State) => (fun (k : Stamp) => decide (lane < 264 ∧ s.time.tick0 + tick ≤ s.now ∧ ((s.lanes.get
        lane).state = .casting ∨ s.armed lane = true) ∧ s.inService lane = true ∧ (s.tdc.chans.get lane).dllLocked = true ∧ k = s.makeStamp lane
        tick (phase % 16) (fine % 32) false)) (s.makeStamp lane tick (phase % 16) (fine % 32) false)) (8) (0) (0) (0) (sTap true) = true) ∧
    ((fun (ring : Nat) (s : State) => decide (ring < 8 ∧ (s.ringNext ring = none ∨ ((s.ringNext ring).all fun n => !s.ringMay ring n) = true)))
        (7) (sRing 7 {}) = true) ∧
    ((fun (ring n : Nat) (g : QRec) (l : List QRec) (s : State) => (fun (x : Ring) => decide (ring < 8 ∧ s.ringNext ring = some (n, none) ∧
        s.ringMay ring (n, none) = true ∧ s.ringMark ring = none ∧ x = s.tdc.rings.get ring ∧ x.queue = g :: l) && decide (x.enable = true ∧
        x.waitMarks = [] ∧ x.lostRun = 0 ∧ x.fill + g.recs.length ≤ 4096)) (s.tdc.rings.get ring)) (7) (5)
        ({ tick := 5, recs := [{ kind := 2 }] }) ([]) (sRingT 7 { enable := true, queue := [{ tick := 5, recs := [{ kind := 2 }] }] }) = true) ∧
    ((fun (ring n : Nat) (g : QRec) (l : List QRec) (s : State) => (fun (x : Ring) => decide (ring < 8 ∧ s.ringNext ring = some (n, none) ∧
        s.ringMay ring (n, none) = true ∧ s.ringMark ring = none ∧ x = s.tdc.rings.get ring ∧ x.queue = g :: l) && decide (x.enable = true ∧
        x.waitMarks = [] ∧ x.lostRun = 0 ∧ x.fill = 4096 ∧ 1 ≤ g.recs.length)) (s.tdc.rings.get ring)) (7) (5) ({ tick := 5, recs := [{}] })
        ([]) (sRingT 7 { enable := true, wr := 4096, queue := [{ tick := 5, recs := [{}] }] }) = true) ∧
    ((fun (ring n c : Nat) (k : FifoEnt) (l : List FifoEnt) (s : State) => (fun (x : Ring) => decide (ring < 8 ∧ s.ringNext ring = some (n,
        some c) ∧ s.ringMay ring (n, some c) = true ∧ s.ringMark ring = none ∧ x = s.tdc.rings.get ring ∧ (s.tdc.chans.get c).fifo = k :: l ∧
        k.lost = 0) && decide (x.enable = true ∧ x.waitMarks = [] ∧ x.lostRun = 0 ∧ x.fill < 4096)) (s.tdc.rings.get ring)) (7) (5) (280)
        ({ stamp := { tick := 5 } }) ([])
        ({ sRingT 7 { enable := true } with tdc := { (sRingT 7 { enable := true }).tdc with chans := [(280, { ring := some 7, enable := true, fifo := [{ stamp := { tick := 5 } }] })] } })
        = true) ∧
    ((fun (ring : Nat) (s : State) => (fun (y : Ring) => decide (ring < 8 ∧ y = s.tdc.rings.get ring ∧ y.fill ≠ 0 ∧ y.idleTimeout ≠ 0 ∧
        y.timeoutSeen ≠ some y.rd.toNat)) (s.tdc.rings.get ring)) (7) (sRing 7 { wr := 1, idleTimeout := 5 }) = true) ∧
    ((fun (ring : Nat) (s : State) => (fun (y : Ring) => decide (ring < 8 ∧ y = s.tdc.rings.get ring ∧ (y.fill = 0 ∨ y.idleTimeout = 0 ∨
        y.timeoutSeen = some y.rd.toNat))) (s.tdc.rings.get ring)) (7) (sRing 7 {}) = true) ∧
    ((fun (ring : Nat) (value : BitVec 32) (s : State) => decide (ring < 8 ∧ s.streamOwned ring = false ∧ dist32 (s.tdc.rings.get ring).rd
        value ≤ (s.tdc.rings.get ring).fill)) (7) (1) (sRing 7 { wr := 1 }) = true) ∧
    ((fun (ring : Nat) (value : BitVec 32) (s : State) => decide (ring < 8 ∧ s.streamOwned ring = false ∧ (s.tdc.rings.get ring).fill < dist32
        (s.tdc.rings.get ring).rd value)) (7) (2) (sRing 7 { wr := 1 }) = true) ∧
    ((fun (ring : Nat) (value : BitVec 32) (s : State) => decide (ring < 8 ∧ s.streamOwned ring = true)) (7) (2)
        ({ sRing 7 { wr := 1 } with host := { chans := [(3, { streams := [7] })] } }) = true) ∧
    ((fun (group : Nat) (level : Bool) (tick : Nat) (s : State) => (fun (y : GateGrp) => decide (group < 4 ∧ s.time.tick0 + tick ≤ s.now ∧ y =
        s.tdc.groups.get group ∧ (y.pin = level ∨ 2 ≤ y.mode ∨ y.mode = 0 ∧ y.open_ = (level != y.activeLow) ∨ y.mode = 1 ∧ level =
        y.activeLow))) (s.tdc.groups.get group)) (3) (true) (0) (sGate { mode := 2 }) = true) ∧
    ((fun (group : Nat) (level : Bool) (tick : Nat) (s : State) => (fun (y : GateGrp) => decide (group < 4 ∧ s.time.tick0 + tick ≤ s.now ∧ y =
        s.tdc.groups.get group ∧ y.pin ≠ level ∧ (y.mode = 0 ∨ y.mode = 1) ∧ y.open_ = false ∧ level ≠ y.activeLow)) (s.tdc.groups.get group))
        (3) (true) (0) (sGate {}) = true) ∧
    ((fun (group : Nat) (level : Bool) (tick : Nat) (s : State) => (fun (y : GateGrp) => decide (group < 4 ∧ s.time.tick0 + tick ≤ s.now ∧ y =
        s.tdc.groups.get group ∧ y.pin ≠ level ∧ y.mode = 0 ∧ y.open_ = true ∧ level = y.activeLow)) (s.tdc.groups.get group)) (3) (false) (0)
        (sGate { pin := true, open_ := true }) = true) ∧
    ((fun (group : Nat) (level : Bool) (tick : Nat) (s : State) => (fun (y : GateGrp) => decide (group < 4 ∧ s.time.tick0 + tick ≤ s.now ∧ y =
        s.tdc.groups.get group ∧ y.pin ≠ level ∧ y.mode = 1 ∧ y.open_ = true ∧ level ≠ y.activeLow)) (s.tdc.groups.get group)) (3) (true) (0)
        (sGate { mode := 1, open_ := true }) = true) ∧
    ((fun (group : Nat) (s : State) => (fun (y : GateGrp) => (fun (a : Nat) => (fun (b : Nat) => decide (group < 4 ∧ y = s.tdc.groups.get group
        ∧ y.pulseEnd = some a ∧ y.maxEnd = some b ∧ y.open_ = true ∧ a ≤ b ∧ s.time.tick0 + a ≤ s.now)) ((y.maxEnd).getD (0)))
        ((y.pulseEnd).getD (0))) (s.tdc.groups.get group)) (3) (sGate { open_ := true, mode := 1, pulseEnd := some 0, maxEnd := some 0 }) = true) ∧
    ((fun (group : Nat) (s : State) => (fun (y : GateGrp) => decide (group < 4 ∧ y = s.tdc.groups.get group ∧ (y.open_ = false ∨ y.pulseEnd =
        none ∨ y.maxEnd = none))) (s.tdc.groups.get group)) (3) (sGate {}) = true) ∧
    ((fun (group : Nat) (s : State) => (fun (y : GateGrp) => (fun (b : Nat) => decide (group < 4 ∧ y = s.tdc.groups.get group ∧ y.maxEnd = some
        b ∧ y.open_ = true ∧ (y.pulseEnd.all fun a => decide (b < a)) = true ∧ s.time.tick0 + b ≤ s.now)) ((y.maxEnd).getD (0)))
        (s.tdc.groups.get group)) (3) (sGate { open_ := true, maxEnd := some 0 }) = true) ∧
    ((fun (group : Nat) (s : State) => (fun (y : GateGrp) => decide (group < 4 ∧ y = s.tdc.groups.get group ∧ (y.open_ = false ∨ y.maxEnd =
        none))) (s.tdc.groups.get group)) (3) (sGate {}) = true) ∧
    ((fun (engine : Nat) (s : State) => decide (engine < 32 ∧ (s.tdc.intervals.get engine).starts = [])) (31) (sTick) = true) ∧
    ((fun (engine : Nat) (a : Stamp) (l : List Stamp) (s : State) => (fun (y : IntervalEng) => decide (engine < 32 ∧ y = s.tdc.intervals.get
        engine ∧ y.starts = a :: l ∧ (y.stops.any fun b => decide (a.u ≤ b.u)) = true)) (s.tdc.intervals.get engine)) (31) ({}) ([])
        ({ sTick with tdc := { sTick.tdc with intervals := [(31, { starts := [{}], stops := [{}] })] } }) = true) ∧
    ((fun (engine : Nat) (a : Stamp) (l : List Stamp) (s : State) => (fun (y : IntervalEng) => decide (engine < 32 ∧ y = s.tdc.intervals.get
        engine ∧ y.starts = a :: l ∧ (y.stops.any fun b => decide (a.u ≤ b.u)) = false)) (s.tdc.intervals.get engine)) (31) ({}) ([])
        ({ sTick with tdc := { sTick.tdc with intervals := [(31, { starts := [{}] })] } }) = true) := by
  and_intros
  all_goals decide +kernel

/-- The hypotheses of each clause of GaugeRows can be met. -/
theorem test_meets_GaugeRows :
    ((fun (s : State) => (fun (n : Nat) => decide (s.gauge.hold = some n)) ((s.gauge.hold).getD (9))) (sRegion .idle fun g =>
        { g with hold := some 9 }) = true) ∧
    ((fun (s : State) => decide (s.gauge.hold = none)) (sRun) = true) ∧
    ((fun (value : BitVec 32) (s : State) => (fun (c : Nat) => decide (value.toNat % 2 = 1 ∧ c = s.gauge.gwChannel ∧ (regionOf c).isSome =
        true)) (s.gauge.gwChannel)) (5) (sRegion .idle fun g =>
        { g with gwChannel := 319, chans := [(319, { centre := [(511, 7)], dllCode := 5 })] }) = true) ∧
    ((fun (value : BitVec 32) (s : State) => decide (value.toNat % 2 = 0 ∨ regionOf s.gauge.gwChannel = none)) (4) (sRun) = true) ∧
    ((fun (n : Nat) (l : List Nat) (s : State) => (fun (y : GRegion) => decide (s.gauge.pendingQ = n :: l ∧ s.gauge.running = none ∧ y =
        s.gauge.regions.get n ∧ (s.gaugeHeld = false ∨ y.urgent = true))) (s.gauge.regions.get n)) (20) ([]) (sRegion .pending fun g =>
        { g with pendingQ := [20] }) = true) ∧
    ((fun (s : State) => decide (s.gauge.pendingQ = [] ∨ s.gauge.running.isSome = true ∨ s.gaugeHeld = true ∧ (s.gauge.regions.get
        (s.gauge.pendingQ.headD 0)).urgent = false)) (sRegion .pending fun g => { g with pendingQ := [20], hold := some (10 ^ 20) }) = true) ∧
    ((fun (injected : List Injected) (s : State) => (fun (n : Nat) => (fun (o : GRegion) => decide (s.gauge.running = some n ∧ o =
        s.gauge.regions.get n ∧ o.state = .running ∧ (s.injects n = true → s.injectable n injected = true))) (s.gauge.regions.get n))
        ((s.gauge.running).getD (20))) ([]) (sRegion .running fun g => { g with running := some 20 }) = true) ∧
    ((fun (injected : List Injected) (c : Nat) (s : State) => (fun (n : Nat) => decide (s.gauge.running = some n ∧ (s.gauge.regions.get
        n).state = .running ∧ (s.injects n = true → s.injectable n injected = true) ∧ (regionChans n).contains c = true ∧ (s.gauge.chans.get
        c).inRun = true)) ((s.gauge.running).getD (20))) ([]) (316) (sRegion .running fun g =>
        { g with running := some 20, chans := [(316, { inRun := true })] }) = true) ∧
    ((fun (injected : List Injected) (s : State) => decide
        ((match s.gauge.running with | none => true | some n => decide ((s.gauge.regions.get n).state ≠ .running)) = true)) ([]) (sRegion .idle
        id) = true) ∧
    ((fun (region : Nat) (sets : List CalSet) (s : State) => (fun (o : GRegion) => decide (region < 21 ∧ o = s.gauge.regions.get region ∧
        o.state = .full ∧ s.gauge.running = some region)) (s.gauge.regions.get region)) (20) ([]) (sRegion .full fun g =>
        { g with running := some 20 }) = true) ∧
    ((fun (region : Nat) (sets : List CalSet) (c : Nat) (s : State) => (fun (w : CalSet) => decide (region < 21 ∧ (s.gauge.regions.get
        region).state = .full ∧ s.gauge.running = some region ∧ (regionChans region).contains c = true ∧ w = (sets.find? fun x => x.chan =
        c).getD {})) ((sets.find? fun x => x.chan = c).getD {})) (20) ([{ chan := 319, dll := 5000, locked := false }]) (319) (sRegion .full fun
        g => { g with running := some 20 }) = true) ∧
    ((fun (region : Nat) (sets : List CalSet) (s : State) => decide (region < 21 ∧ ((s.gauge.regions.get region).state ≠ .full ∨
        s.gauge.running ≠ some region))) (20) ([]) (sRegion .idle id) = true) ∧
    ((fun (region : Nat) (s : State) => (fun (y : GRegion) => decide (region < 21 ∧ y = s.gauge.regions.get region ∧ y.state = .idle ∧
        (s.gauge.periodic ≠ 0 ∨ y.failed = true))) (s.gauge.regions.get region)) (20) (sRegion .idle fun g => { g with periodic := secU }) =
        true) ∧
    ((fun (region : Nat) (s : State) => (fun (y : GRegion) => decide (region < 21 ∧ y = s.gauge.regions.get region ∧ (y.state ≠ .idle ∨
        s.gauge.periodic = 0 ∧ y.failed = false))) (s.gauge.regions.get region)) (20) (sRegion .running id) = true) ∧
    ((fun (region : Nat) (s : State) => decide (region < 21 ∧ (s.gauge.regions.get region).state = .idle ∧ s.regionTemp region = none ∧
        (s.gauge.regions.get region).tempLost = none)) (20)
        ({ sRegion .idle id with power := { sRun.power with sensors := (List.range 16).map fun n => (n, { faulty := true }) } }) = true) ∧
    ((fun (region : Nat) (s : State) => (fun (n : Nat) => decide (region < 21 ∧ (s.gauge.regions.get region).state = .idle ∧ s.regionTemp
        region = none ∧ (s.gauge.regions.get region).tempLost = some n)) (((s.gauge.regions.get region).tempLost).getD (7))) (20)
        ({ sRegion .idle fun g => { g with regions := [(20, { state := .idle, tempLost := some 7 })] } with power := { sRun.power with sensors := (List.range 16).map fun n => (n, { faulty := true }) } })
        = true) ∧
    ((fun (region : Nat) (s : State) => decide (region < 21 ∧ ((s.gauge.regions.get region).state = .off ∨ (s.regionTemp region).isSome =
        true))) (20) (sRun) = true) ∧
    ((fun (loss : DllLoss) (s : State) => decide (loss.ch < 320 ∧ (s.tdc.chans.get loss.ch).dllLocked = true ∧ s.inService loss.ch = true ∧
        dllUnlockLimit < loss.error.natAbs)) ({ ch := 319, error := 10 ^ 9 })
        ({ sTick with gauge := { sTick.gauge with regions := (List.range 21).map fun n => (n, { state := .idle }) }, tdc := { sTick.tdc with chans := [(319, { dllLocked := true })] } })
        = true) ∧
    ((fun (loss : DllLoss) (s : State) => decide (loss.ch < 320 ∧ ((s.tdc.chans.get loss.ch).dllLocked = false ∨ s.inService loss.ch = false ∨
        loss.error.natAbs ≤ dllUnlockLimit))) ({ ch := 319, error := 3 }) (sRun) = true) ∧
    ((fun (lock : DllLock) (s : State) => (fun (n : Nat) => decide (lock.ch < 320 ∧ (s.tdc.chans.get lock.ch).dllLocked = false ∧ s.inService
        lock.ch = true ∧ regionOf lock.ch = some n ∧ 1024 ≤ lock.within)) ((regionOf lock.ch).getD (20))) ({ ch := 319, within := 1024 })
        ({ sTick with gauge := { sTick.gauge with regions := (List.range 21).map fun n => (n, { state := .idle }) }, tdc := { sTick.tdc with chans := [(319, { dllLocked := false })] } })
        = true) ∧
    ((fun (lock : DllLock) (s : State) => decide (lock.ch < 320 ∧ ((s.tdc.chans.get lock.ch).dllLocked = true ∨ s.inService lock.ch = false ∨
        lock.within < 1024))) ({ ch := 319, within := 1023 }) (sRun) = true) ∧
    ((fun (ch : Nat) (s : State) => (fun (n : Nat) => (fun (d : Nat) => decide (ch < 320 ∧ (s.tdc.chans.get ch).dllTimer = some d ∧ regionOf ch
        = some n)) (((s.tdc.chans.get ch).dllTimer).getD (9))) ((regionOf ch).getD (20))) (319)
        ({ sRegion .idle id with tdc := { sTick.tdc with chans := [(319, { dllTimer := some 9 })] } }) = true) ∧
    ((fun (ch : Nat) (s : State) => decide (ch < 320 ∧ ((s.tdc.chans.get ch).dllTimer = none ∨ regionOf ch = none))) (319) (sRun) = true) ∧
    ((fun (region : Nat) (aOk bOk : Bool) (bEpoch : Nat) (bCentres : List (Nat × List Nat)) (s : State) => decide (region < 21 ∧
        (s.gauge.regions.get region).state ≠ .off ∧ (s.gauge.regions.get region).commitDue = false ∧ aOk = true ∧ bOk = false)) (20) (true)
        (false) (5) ([]) (sRegion .idle fun g => { g with regions := [(20, { state := .idle, epoch := 3 })] }) = true) ∧
    ((fun (region : Nat) (aOk bOk : Bool) (bEpoch : Nat) (bCentres : List (Nat × List Nat)) (s : State) => decide (region < 21 ∧
        (s.gauge.regions.get region).state ≠ .off ∧ (s.gauge.regions.get region).commitDue = false ∧ aOk = false ∧ bOk = true)) (20) (false)
        (true) (5) ([]) (sRegion .idle fun g => { g with regions := [(20, { state := .idle, epoch := 3 })] }) = true) ∧
    ((fun (region : Nat) (aOk bOk : Bool) (bEpoch : Nat) (bCentres : List (Nat × List Nat)) (s : State) => decide (region < 21 ∧
        (s.gauge.regions.get region).state ≠ .off ∧ (s.gauge.regions.get region).commitDue = false ∧ aOk = true ∧ bOk = true ∧
        (s.gauge.regions.get region).epoch ≠ bEpoch)) (20) (true) (true) (5) ([]) (sRegion .idle fun g =>
        { g with regions := [(20, { state := .idle, epoch := 3 })] }) = true) ∧
    ((fun (region : Nat) (aOk bOk : Bool) (bEpoch : Nat) (bCentres : List (Nat × List Nat)) (s : State) => decide (region < 21 ∧
        (s.gauge.regions.get region).state ≠ .off ∧ (s.gauge.regions.get region).commitDue = false ∧ aOk = false ∧ bOk = false)) (20) (false)
        (false) (0) ([]) (sRegion .idle id) = true) ∧
    ((fun (region : Nat) (aOk bOk : Bool) (bEpoch : Nat) (bCentres : List (Nat × List Nat)) (s : State) => decide (region < 21 ∧
        ((s.gauge.regions.get region).state = .off ∨ (s.gauge.regions.get region).commitDue = true))) (20) (false) (false) (0) ([]) (sRun) =
        true) ∧
    ((fun (s : State) => decide (s.time.tickOn = true)) (sTick) = true) ∧
    ((fun (s : State) => decide (s.time.tickOn = false)) (sRun) = true) := by
  and_intros
  all_goals decide +kernel

/-- The hypotheses of each clause of ReferenceRows can be met. -/
theorem test_meets_ReferenceRows :
    ((fun (slot : Nat) (s : State) => decide ((slot < 8 ∨ 28 ≤ slot ∧ slot < 31) ∧ (s.ref.slots.get slot).enable = true ∧ (s.ref.slots.get
        slot).active = true)) (30) ({ sTick with ref := { sTick.ref with slots := [(30, { enable := true, active := true })] } }) = true) ∧
    ((fun (slot : Nat) (s : State) => decide ((slot < 8 ∨ 28 ≤ slot ∧ slot < 31) ∧ ((s.ref.slots.get slot).enable = false ∨ (s.ref.slots.get
        slot).active = false))) (28) (sTick) = true) ∧
    ((fun (edges : Nat) (s : State) => decide (80 ≤ edges ∧ edges ≤ 120)) (100)
        ({ sRun with glob := { sRun.glob with xoPresent := false, xoBad := 2 } }) = true) ∧
    ((fun (edges : Nat) (s : State) => decide (edges < 80 ∨ 120 < edges)) (121)
        ({ sRun with glob := { sRun.glob with xoPresent := true, xoBad := 2 } }) = true) ∧
    ((fun (s : State) => (fun (n : Nat) => decide (s.ref.state = .holdover ∧ s.ref.inSpecEnd = some n)) ((s.ref.inSpecEnd).getD (9)))
        ({ sTick with ref := { sTick.ref with state := .holdover, inSpecEnd := some 9 } }) = true) ∧
    ((fun (s : State) => decide (s.ref.state ≠ .holdover ∨ s.ref.inSpecEnd = none)) (sTick) = true) ∧
    ((fun (s : State) => (fun (n : Nat) => decide (s.ref.state = .steered ∧ s.ref.steerEnd = some n)) ((s.ref.steerEnd).getD (9)))
        ({ sTick with ref := { sTick.ref with state := .steered, steerEnd := some 9 } }) = true) ∧
    ((fun (s : State) => decide (s.ref.state ≠ .steered ∨ s.ref.steerEnd = none)) (sTick) = true) ∧
    ((fun (slot : Nat) (s : State) => (fun (y : RefSlot) => (fun (l : Nat) => decide (8 ≤ slot ∧ slot < 24 ∧ y = s.ref.slots.get slot ∧
        y.enable = true ∧ y.levelDead = false ∧ l = (if y.overrideLevel then y.cfgLevel else 15))) ((if y.overrideLevel then y.cfgLevel else
        15))) (s.ref.slots.get slot)) (23) ({ sTick with ref := { sTick.ref with slots := [(23, { enable := true })] } }) = true) ∧
    ((fun (slot : Nat) (s : State) => decide (8 ≤ slot ∧ slot < 24 ∧ ((s.ref.slots.get slot).enable = false ∨ (s.ref.slots.get slot).levelDead
        = true))) (8) (sTick) = true) ∧
    ((fun (port : Nat) (s : State) => decide (port < 256 ∧ s.esmcPorts.contains port = true ∧ s.portUp port = true)) (8)
        ({ sPort 0 .up with ref := { sRun.ref with slots := [(8, { enable := true, src := 8, esmc := true })] } }) = true) ∧
    ((fun (port : Nat) (s : State) => decide (port < 256 ∧ (s.esmcPorts.contains port = false ∨ s.portUp port = false))) (8) (sPort 0 .up) =
        true) ∧
    ((fun (output : Nat) (s : State) => (fun (y : PpsOut) => decide (output < 2 ∧ y = s.ref.pps.get output ∧ y.enable = true ∧ y.squelched =
        false ∧ y.direct = true)) (s.ref.pps.get output)) (1)
        ({ sTick with ref := { sTick.ref with pps := [(1, { enable := true, direct := true })] } }) = true) ∧
    ((fun (output : Nat) (s : State) => (fun (y : PpsOut) => (fun (r : Int) => decide (output < 2 ∧ y = s.ref.pps.get output ∧ y.enable = true
        ∧ y.squelched = false ∧ y.direct = false ∧ r = (if 0 ≤ y.residual then max 0 (y.residual - y.slew) else min 0 (y.residual + y.slew))))
        ((if 0 ≤ y.residual then max 0 (y.residual - y.slew) else min 0 (y.residual + y.slew)))) (s.ref.pps.get output)) (0)
        ({ sTick with ref := { sTick.ref with pps := [(0, { enable := true, direct := false, residual := 10 ^ 9 })] } }) = true) ∧
    ((fun (output : Nat) (s : State) => decide (output < 2 ∧ ((s.ref.pps.get output).enable = false ∨ (s.ref.pps.get output).squelched =
        true))) (0) (sTick) = true) ∧
    ((fun (output : Nat) (s : State) => (fun (y : ClkOut) => decide (output < 4 ∧ y = s.ref.clk.get output ∧ y.enable = true ∧ y.ktime = true ∧
        y.squelched = false ∧ y.residual ≠ 0)) (s.ref.clk.get output)) (3)
        ({ sTick with ref := { sTick.ref with clk := [(3, { enable := true, ktime := true, residual := 5 })] } }) = true) ∧
    ((fun (output : Nat) (s : State) => (fun (y : ClkOut) => decide (output < 4 ∧ y = s.ref.clk.get output ∧ (y.enable = false ∨ y.ktime =
        false ∨ y.squelched = true ∨ y.residual = 0))) (s.ref.clk.get output)) (3) (sTick) = true) := by
  and_intros
  all_goals decide +kernel

/-- The hypotheses of each clause of TimeRows can be met. -/
theorem test_meets_TimeRows :
    ((fun (s : State) => (fun (a : Allowance) => decide (s.time.allowance = some a)) ((s.time.allowance).getD ({ expiry := 9 })))
        ({ sTick with time := { sTick.time with allowance := some { expiry := 9 } } }) = true) ∧
    ((fun (s : State) => decide (s.time.allowance = none)) (sTick) = true) ∧
    ((fun (s : State) => decide (s.time.held = true)) ({ sTick with time := { sTick.time with held := true } }) = true) ∧
    ((fun (s : State) => decide (s.time.held = false)) (sTick) = true) ∧
    ((fun (pf1 : Bool) (s : State) => decide (pf1 = false)) (false) (sTick) = true) ∧
    ((fun (pf1 : Bool) (s : State) => decide (pf1 = true)) (true) (sTick) = true) ∧
    ((fun (queue : Nat) (s : State) => (fun (x : Tsq) => (fun (r : TsqReq) => decide (queue < 4 ∧ x = s.time.tsqs.get queue ∧ firstDeadline
        x.reqs = some r ∧ x.enable = true ∧ x.refusedRun = 0 ∧ s.tsqMarks queue = [] ∧ (x.reqs.any fun y => y.final_.isSome) = false))
        ((firstDeadline x.reqs).getD ({}))) (s.time.tsqs.get queue)) (3)
        ({ sTick with time := { sTick.time with tsqs := [(3, { enable := true, reqs := [{}] })] } }) = true) ∧
    ((fun (queue : Nat) (s : State) => (fun (x : Tsq) => (fun (r : TsqReq) => decide (queue < 4 ∧ x = s.time.tsqs.get queue ∧ firstDeadline
        x.reqs = some r ∧ x.enable = false ∧ s.tsqMarks queue = [] ∧ (x.reqs.any fun y => y.final_.isSome) = false)) ((firstDeadline
        x.reqs).getD ({}))) (s.time.tsqs.get queue)) (3) ({ sTick with time := { sTick.time with tsqs := [(3, { reqs := [{}] })] } }) = true) ∧
    ((fun (queue : Nat) (s : State) => decide (queue < 4 ∧ firstDeadline (s.time.tsqs.get queue).reqs = none)) (3) (sTick) = true) ∧
    ((fun (queue : Nat) (value : BitVec 32) (s : State) => (fun (x : Tsq) => decide (queue < 4 ∧ s.streamOwned (9 + queue) = false ∧ x =
        s.time.tsqs.get queue ∧ dist32 x.rd value ≤ x.fill)) (s.time.tsqs.get queue)) (3) (1)
        ({ sTick with time := { sTick.time with tsqs := [(3, { wr := 1 })] } }) = true) ∧
    ((fun (queue : Nat) (value : BitVec 32) (s : State) => decide (queue < 4 ∧ s.streamOwned (9 + queue) = false ∧ (s.time.tsqs.get queue).fill
        < dist32 (s.time.tsqs.get queue).rd value)) (3) (2) ({ sTick with time := { sTick.time with tsqs := [(3, { wr := 1 })] } }) = true) ∧
    ((fun (queue : Nat) (value : BitVec 32) (s : State) => decide (queue < 4 ∧ s.streamOwned (9 + queue) = true)) (3) (1)
        ({ sTick with time := { sTick.time with tsqs := [(3, { wr := 1 })] }, host := { chans := [(5, { streams := [12] })] } }) = true) := by
  and_intros
  all_goals decide +kernel

/-- The hypotheses of each clause of PtpRows can be met. -/
theorem test_meets_PtpRows :
    ((fun (port : Nat) (msg : PtpRx) (s : State) => decide (port < 256 ∧ s.instOf port = none ∧ (s.ptp.ports.get port).inst ≠ 4)) (255) ({})
        (sRun) = true) ∧
    ((fun (port : Nat) (msg : PtpRx) (s : State) => decide (port < 256 ∧ s.instOf port = none ∧ (s.ptp.ports.get port).inst = 4 ∨ port < 256 ∧
        s.instOf port ≠ none ∧ s.portUp port = false)) (255) ({}) ({ sRun with ptp := { sRun.ptp with ports := [(255, { inst := 4 })] } }) =
        true) ∧
    ((fun (port : Nat) (msg : PtpRx) (s : State) => (fun (n : Nat) => (fun (k : Nat) => decide (port < 256 ∧ s.instOf port = some n ∧ s.portUp
        port = true ∧ s.messageFails n port msg = some k)) ((s.messageFails n port msg).getD (2))) ((s.instOf port).getD (0))) (8) ({}) (sPtp
        {}) = true) ∧
    ((fun (port : Nat) (msg : PtpRx) (s : State) => (fun (n : Nat) => decide (port < 256 ∧ s.instOf port = some n ∧ s.portUp port = true ∧
        (msg.major ≠ 2 ∨ 1 < msg.minor ∨ msg.domain ≠ (s.ptp.insts.get n).domain ∨ msg.sdo ≠ 0))) ((s.instOf port).getD (0))) (8)
        ({ major := 3 }) (sPtp {}) = true) ∧
    ((fun (port : Nat) (msg : PtpRx) (s : State) => (fun (n : Nat) => decide (port < 256 ∧ s.instOf port = some n ∧ s.portUp port = true ∧
        s.messageFails n port msg = none ∧ msg.kind = .announce)) ((s.instOf port).getD (0))) (8)
        ({ kind := .announce, major := 2, length := 64, payload := 64, clock := 5 }) (sPtp {}) = true) ∧
    ((fun (port : Nat) (msg : PtpRx) (s : State) => (fun (n : Nat) => decide (port < 256 ∧ s.instOf port = some n ∧ s.portUp port = true ∧
        s.messageFails n port msg = none ∧ msg.kind = .sync)) ((s.instOf port).getD (0))) (8)
        ({ kind := .sync, major := 2, length := 44, payload := 44, clock := 5 })
        ({ sPtp {} with ptp := { (sPtp {}).ptp with insts := [(0, { enable := true, parent := some { clock := 5 }, slavePort := some 8 })] } })
        = true) ∧
    ((fun (port : Nat) (msg : PtpRx) (s : State) => (fun (n : Nat) => (fun (y : PtpSync) => decide (port < 256 ∧ s.instOf port = some n ∧
        s.portUp port = true ∧ s.messageFails n port msg = none ∧ msg.kind = .followUp ∧ (s.ptp.ports.get port).sync = some y))
        (((s.ptp.ports.get port).sync).getD ({ twoStep := true }))) ((s.instOf port).getD (0))) (8)
        ({ kind := .followUp, major := 2, length := 44, payload := 44, clock := 5 })
        ({ sPtp {} with ptp := { (sPtp {}).ptp with insts := [(0, { enable := true, parent := some { clock := 5 }, slavePort := some 8 })], ports := [(8, { inst := 0, sync := some { twoStep := true } })] } })
        = true) ∧
    ((fun (port : Nat) (msg : PtpRx) (s : State) => (fun (n : Nat) => decide (port < 256 ∧ s.instOf port = some n ∧ s.portUp port = true ∧
        s.messageFails n port msg = none ∧ msg.kind = .delayReq ∧ (s.ptp.insts.get n).p2p = false ∧ (s.ptp.ports.get port).state = .master ∧
        s.ptpMuted = false)) ((s.instOf port).getD (0))) (8) ({ kind := .delayReq, major := 2, length := 44, payload := 44, clock := 5 }) (sPtp
        { state := .master }) = true) ∧
    ((fun (port : Nat) (msg : PtpRx) (s : State) => (fun (n : Nat) => decide (port < 256 ∧ s.instOf port = some n ∧ s.portUp port = true ∧
        s.messageFails n port msg = none ∧ msg.kind = .pdelayReq ∧ (s.ptp.insts.get n).p2p = true)) ((s.instOf port).getD (0))) (8)
        ({ kind := .pdelayReq, major := 2, length := 54, payload := 54, clock := 5 })
        ({ sPtp {} with ptp := { (sPtp {}).ptp with insts := [(0, { enable := true, profile := 1 })] } }) = true) ∧
    ((fun (port : Nat) (msg : PtpRx) (s : State) => (fun (n : Nat) => (fun (r : PtpReq) => decide (port < 256 ∧ s.instOf port = some n ∧
        s.portUp port = true ∧ s.messageFails n port msg = none ∧ msg.kind = .delayResp ∧ (s.ptp.ports.get port).request s.now msg false = some
        r)) (((s.ptp.ports.get port).request s.now msg false).getD ({}))) ((s.instOf port).getD (0))) (8)
        ({ kind := .delayResp, major := 2, length := 54, payload := 54, clock := 5, reqPort := 9 })
        ({ sPtp {} with ptp := { (sPtp {}).ptp with insts := [(0, { enable := true, parent := some { clock := 5 }, slavePort := some 8 })], ports := [(8, { inst := 0, reqs := [{}], unanswered := 2 })] } })
        = true) ∧
    ((fun (port : Nat) (kind : PtpType) (tick sub : Nat) (s : State) => (fun (n : Nat) => decide (port < 256 ∧ kind = .announce ∧
        (s.ptp.ports.get port).preEnd = none ∧ s.instOf port = some n ∧ s.portUp port = true ∧ (s.ptp.ports.get port).state = .master ∧
        s.ptpMuted = false)) ((s.instOf port).getD (0))) (8) (.announce) (0) (0) (sPtp { state := .master }) = true) ∧
    ((fun (port : Nat) (kind : PtpType) (tick sub : Nat) (s : State) => (fun (n : Nat) => (fun (x : PtpPort) => decide (port < 256 ∧ kind =
        .sync ∧ x = s.ptp.ports.get port ∧ x.preEnd = none ∧ s.instOf port = some n ∧ s.portUp port = true ∧ x.state = .master ∧ x.twoStep =
        false ∧ s.ptpMuted = false)) (s.ptp.ports.get port)) ((s.instOf port).getD (0))) (8) (.sync) (0) (0) (sPtp { state := .master }) = true) ∧
    ((fun (port : Nat) (kind : PtpType) (tick sub : Nat) (s : State) => (fun (n : Nat) => (fun (x : PtpPort) => decide (port < 256 ∧ kind =
        .sync ∧ x = s.ptp.ports.get port ∧ x.preEnd = none ∧ s.instOf port = some n ∧ s.portUp port = true ∧ x.state = .master ∧ x.twoStep =
        true ∧ s.ptpMuted = false)) (s.ptp.ports.get port)) ((s.instOf port).getD (0))) (8) (.sync) (0) (0) (sPtp
        { state := .master, twoStep := true }) = true) ∧
    ((fun (port : Nat) (kind : PtpType) (tick sub : Nat) (s : State) => (fun (n : Nat) => (fun (x : PtpPort) => decide (port < 256 ∧ x =
        s.ptp.ports.get port ∧ x.preEnd = none ∧ s.instOf port = some n ∧ s.portUp port = true) && decide ((kind = .delayReq ∧ (s.ptp.insts.get
        n).p2p = false ∧ x.state.follows = true) ∨ (kind = .pdelayReq ∧ (s.ptp.insts.get n).p2p = true))) (s.ptp.ports.get port)) ((s.instOf
        port).getD (0))) (8) (.delayReq) (0) (0) (sPtp { state := .slave }) = true) ∧
    ((fun (port : Nat) (kind : PtpType) (tick sub : Nat) (d : PtpDue) (l : List PtpDue) (s : State) => (fun (n : Nat) => decide (port < 256 ∧
        kind = .pdelayResp ∧ (s.ptp.ports.get port).preEnd = none ∧ s.instOf port = some n ∧ s.portUp port = true ∧ (s.ptp.ports.get
        port).pdelayDue = d :: l ∧ (s.ptp.ports.get port).twoStep = false)) ((s.instOf port).getD (0))) (8) (.pdelayResp) (0) (0) ({}) ([])
        (sPtp { pdelayDue := [{}] }) = true) ∧
    ((fun (port : Nat) (kind : PtpType) (tick sub : Nat) (s : State) => (fun (n : Nat) => decide (port < 256 ∧ (s.ptp.ports.get port).preEnd =
        some n ∧ n ≤ s.now ∧ kind = .management ∧ (s.ptp.ports.get port).state ≠ .master)) (((s.ptp.ports.get port).preEnd).getD (0))) (8)
        (.management) (0) (0) (sPtp { state := .preMaster, preEnd := some 0 }) = true) ∧
    ((fun (port : Nat) (kind : PtpType) (tick sub : Nat) (s : State) => decide (port < 256 ∧ (s.ptp.ports.get port).preEnd = none) && decide
        (s.instOf port = none ∨ s.portUp port = false ∨ ((kind = .sync ∨ kind = .announce) ∧ ((s.ptp.ports.get port).state ≠ .master ∨
        s.ptpMuted = true)) ∨ (kind = .pdelayResp ∧ (s.ptp.ports.get port).pdelayDue = []))) (8) (.announce) (0) (0) (sPtp
        { state := .passive }) = true) ∧
    ((fun (inst : Nat) (s : State) => (fun (n : Nat) => (fun (q : PtpSource) => decide (inst < 4 ∧ (s.ptp.insts.get inst).announceEnd = some n
        ∧ (s.ptp.insts.get inst).parent = some q ∧ (((s.instPorts inst).filterMap fun p => (s.ptp.ports.get p).annEnd).all fun k => decide (n ≤
        k)) = true)) (((s.ptp.insts.get inst).parent).getD ({}))) (((s.ptp.insts.get inst).announceEnd).getD (9))) (3)
        ({ sTick with ptp := { sTick.ptp with insts := [(3, { announceEnd := some 9, parent := some {} })] } }) = true) ∧
    ((fun (inst : Nat) (s : State) => decide (inst < 4 ∧ (s.ptp.insts.get inst).announceEnd = none ∧ ((s.instPorts inst).filterMap fun p =>
        (s.ptp.ports.get p).annEnd) = [])) (3) (sTick) = true) ∧
    ((fun (inst : Nat) (s : State) => (fun (n : Nat) => decide (inst < 4 ∧ (s.ptp.insts.get inst).syncEnd = some n)) (((s.ptp.insts.get
        inst).syncEnd).getD (9))) (3) ({ sTick with ptp := { sTick.ptp with insts := [(3, { syncEnd := some 9 })] } }) = true) ∧
    ((fun (inst : Nat) (s : State) => decide (inst < 4 ∧ (s.ptp.insts.get inst).syncEnd = none)) (3) (sTick) = true) ∧
    ((fun (port : Nat) (r : PtpReq) (l : List PtpReq) (s : State) => (fun (n : Nat) => (fun (x : PtpPort) => decide (port < 256 ∧ s.instOf port
        = some n ∧ x = s.ptp.ports.get port ∧ x.reqs = r :: l)) (s.ptp.ports.get port)) ((s.instOf port).getD (0))) (8) ({}) ([]) (sPtp
        { reqs := [{}] }) = true) ∧
    ((fun (port : Nat) (s : State) => decide (port < 256 ∧ (s.instOf port = none ∨ (s.ptp.ports.get port).reqs = []))) (8) (sTick) = true) ∧
    ((fun (slot : Nat) (s : State) => (fun (d : Nat) => decide (slot < 28 ∧ 24 ≤ slot ∧ (s.ptp.insts.get (slot - 24)).delayEnd = some d))
        (((s.ptp.insts.get (slot - 24)).delayEnd).getD (9))) (27)
        ({ sTick with ptp := { sTick.ptp with insts := [(3, { delayEnd := some 9 })] } }) = true) ∧
    ((fun (slot : Nat) (s : State) => (fun (q : Nat) => (fun (d : Nat) => decide (8 ≤ slot ∧ slot < 24 ∧ q = (s.ref.slots.get slot).src ∧
        (s.ptp.asym.get q).coastEnd = some d)) (((s.ptp.asym.get q).coastEnd).getD (9))) ((s.ref.slots.get slot).src)) (8)
        ({ sTick with ref := { sTick.ref with slots := [(8, { src := 8 })] }, ptp := { sTick.ptp with asym := [(8, { coastEnd := some 9 })] } })
        = true) ∧
    ((fun (slot : Nat) (s : State) => decide ((24 ≤ slot ∧ slot < 28 ∧ (s.ptp.insts.get (slot - 24)).delayEnd = none) ∨ (8 ≤ slot ∧ slot < 24 ∧
        (s.ptp.asym.get (s.ref.slots.get slot).src).coastEnd = none))) (8) (sTick) = true) ∧
    ((fun (port : Nat) (s : State) => (fun (y : Asym) => decide (port < 256 ∧ y = s.ptp.asym.get port ∧ y.dual = true ∧ y.fallback = false))
        (s.ptp.asym.get port)) (8) ({ sPort 0 .up with ptp := { sRun.ptp with asym := [(8, { dual := true, partner := 9 })] } }) = true) ∧
    ((fun (port : Nat) (s : State) => decide (port < 256 ∧ ((s.ptp.asym.get port).dual = false ∨ (s.ptp.asym.get port).fallback = true))) (8)
        (sTick) = true) := by
  and_intros
  all_goals decide +kernel

/-- The hypotheses of each clause of MachineClockRows can be met. -/
theorem test_meets_MachineClockRows :
    ((fun (chan : Nat) (s : State) => decide (chan < 4 ∧ (s.stitch.mc.get chan).marks = [])) (3) (sTick) = true) ∧
    ((fun (chan : Nat) (k : Stamp) (l : List Stamp) (s : State) => decide (chan < 4 ∧ (s.stitch.mc.get chan).marks = k :: l ∧ ((s.stitch.mc.get
        chan).tracked = false ∨ (s.stitch.mc.get chan).orbitLen = 0))) (3) ({}) ([]) (sMc { marks := [{}] }) = true) ∧
    ((fun (chan : Nat) (k : Stamp) (l : List Stamp) (s : State) => (fun (y : McChan) => (fun (n : Int) => decide (chan < 4 ∧ y =
        s.stitch.mc.get chan ∧ y.marks = k :: l ∧ y.tracked = true ∧ y.orbitLen ≠ 0 ∧ n = y.cycles (instQ k.tick k.sub + y.markOffset * 25) ∧ (n
        % 4294967296 * 10 < 4294967296 ∨ 9 * 4294967296 < n % 4294967296 * 10))) (y.cycles (instQ k.tick k.sub + y.markOffset * 25)))
        (s.stitch.mc.get chan)) (3) ({}) ([]) (sMc { tracked := true, orbitLen := 9, marks := [{}] }) = true) ∧
    ((fun (chan : Nat) (k : Stamp) (l : List Stamp) (s : State) => (fun (y : McChan) => (fun (n : Int) => (fun (d : Int) => decide (chan < 4 ∧
        y = s.stitch.mc.get chan ∧ y.marks = k :: l ∧ y.tracked = true ∧ y.orbitLen ≠ 0 ∧ n = y.cycles (instQ k.tick k.sub + y.markOffset * 25)
        ∧ 4294967296 ≤ n % 4294967296 * 10 ∧ n % 4294967296 * 10 ≤ 9 * 4294967296 ∧ d = y.deltaOf (y.bunchOf n))) (y.deltaOf (y.bunchOf n)))
        (y.cycles (instQ k.tick k.sub + y.markOffset * 25))) (s.stitch.mc.get chan)) (3) ({}) ([]) (sMc
        { tracked := true, orbitLen := 9, marks := [{}], thetaF := 2147483648, bunch := 4, markRun := 2, delta := 4 }) = true) ∧
    ((fun (chan : Nat) (s : State) => (fun (y : McChan) => decide (chan < 4 ∧ y = s.stitch.mc.get chan ∧ y.enable = true ∧ y.tracked = true ∧
        y.markSrc ≠ 3 ∧ 4 ≤ y.markGap ∧ y.markLostRaised = false)) (s.stitch.mc.get chan)) (3) (sMc
        { enable := true, tracked := true, markSrc := 0, markGap := 4 }) = true) ∧
    ((fun (chan : Nat) (s : State) => (fun (y : McChan) => decide (chan < 4 ∧ y = s.stitch.mc.get chan ∧ (y.enable = false ∨ y.tracked = false
        ∨ y.markSrc = 3 ∨ y.markGap < 4 ∨ y.markLostRaised = true))) (s.stitch.mc.get chan)) (3) (sTick) = true) ∧
    ((fun (chan : Nat) (s : State) => (fun (y : McChan) => decide (chan < 4 ∧ y = s.stitch.mc.get chan ∧ y.enable = true ∧ y.state = .track))
        (s.stitch.mc.get chan)) (3) (sMc { enable := true, state := .track }) = true) ∧
    ((fun (chan : Nat) (s : State) => (fun (y : McChan) => decide (chan < 4 ∧ y = s.stitch.mc.get chan ∧ y.enable = true ∧ y.state = .acquire))
        (s.stitch.mc.get chan)) (3) (sMc { enable := true, state := .acquire, goodRun := 5 }) = true) ∧
    ((fun (chan : Nat) (s : State) => (fun (y : McChan) => decide (chan < 4 ∧ y = s.stitch.mc.get chan ∧ (y.enable = false ∨ y.state ≠ .track ∧
        y.state ≠ .acquire))) (s.stitch.mc.get chan)) (3) (sTick) = true) ∧
    ((fun (chan : Nat) (s : State) => (fun (n : Nat) => decide (chan < 4 ∧ (s.stitch.mc.get chan).state = .coast ∧ (s.stitch.mc.get
        chan).coastEnd = some n)) (((s.stitch.mc.get chan).coastEnd).getD (9))) (3) (sMc { state := .coast, coastEnd := some 9, valid := true })
        = true) ∧
    ((fun (chan : Nat) (s : State) => decide (chan < 4 ∧ ((s.stitch.mc.get chan).state ≠ .coast ∨ (s.stitch.mc.get chan).coastEnd = none))) (3)
        (sTick) = true) ∧
    ((fun (chan : Nat) (s : State) => (fun (y : McChan) => decide (chan < 4 ∧ y = s.stitch.mc.get chan ∧ y.enable = true ∧ y.tracked = true ∧
        y.orbitLen ≠ 0 ∧ y.state ≠ .acquire ∧ y.setCount = none)) (s.stitch.mc.get chan)) (3) (sMc
        { enable := true, tracked := true, orbitLen := 9, state := .track, fNum := 1 }) = true) ∧
    ((fun (chan : Nat) (w : Int) (n : Nat) (s : State) => (fun (y : McChan) => decide (chan < 4 ∧ y = s.stitch.mc.get chan ∧ y.enable = true ∧
        y.tracked = true ∧ y.orbitLen ≠ 0 ∧ y.state ≠ .acquire ∧ y.setCount = some (w, n) ∧ w ≤ s.wTime)) (s.stitch.mc.get chan)) (3) (-10) (77)
        (sMc { enable := true, tracked := true, orbitLen := 9, state := .track, fNum := 1, setCount := some (-10, 77) }) = true) ∧
    ((fun (chan : Nat) (s : State) => (fun (y : McChan) => decide (chan < 4 ∧ y = s.stitch.mc.get chan ∧ (y.enable = false ∨ y.tracked = false
        ∨ y.orbitLen = 0 ∨ y.state = .acquire))) (s.stitch.mc.get chan)) (3) (sTick) = true) := by
  and_intros
  all_goals decide +kernel

/-- The hypotheses of each clause of FrameRows can be met. -/
theorem test_meets_FrameRows :
    ((fun (port : Nat) (bytes : List Byte) (ended : Bool) (taps symbols tick : Nat) (s : State) => decide (port < 256 ∧ ended = true ∧
        bytes.length < 64 ∧ s.time.tick0 + tick ≤ s.now ∧ (s.takesFrame port (s.rxStamp port taps symbols).1 && s.glob.pdOn.getLsbD 3) = true))
        (8) (List.replicate 63 0) (true) (0) (0) (0) ({ sPort 0 .up with time := { sRun.time with tickOn := true } }) = true) ∧
    ((fun (port : Nat) (bytes : List Byte) (ended : Bool) (taps symbols tick : Nat) (s : State) => (fun (o : Nat) => decide (port < 256 ∧ ended
        = true ∧ 64 ≤ bytes.length ∧ bytes.length ≤ 256 ∧ fcsOf bytes ≠ 0 ∧ s.time.tick0 + tick ≤ s.now ∧ (s.takesFrame port (s.rxStamp port
        taps symbols).1 && s.glob.pdOn.getLsbD 3) = true ∧ o = portCtr port (if fcsOf bytes = 2 then 0x28 else 0x10))) (portCtr port (if fcsOf
        bytes = 2 then 0x28 else 0x10))) (8) (List.replicate 64 7) (true) (0) (0) (0)
        ({ sPort 0 .up with time := { sRun.time with tickOn := true } }) = true) ∧
    ((fun (port : Nat) (bytes : List Byte) (ended : Bool) (taps symbols tick : Nat) (s : State) => decide (port < 256 ∧ (if ended = true then
        bytes.length ≤ 256 else bytes.length = 256) ∧ s.time.tick0 + tick ≤ s.now ∧ (s.takesFrame port (s.rxStamp port taps symbols).1 &&
        s.glob.pdOn.getLsbD 3) = false)) (8) (List.replicate 64 0) (true) (0) (0) (0)
        ({ sPort 0 .casting with time := { sRun.time with tickOn := true } }) = true) ∧
    ((fun (port : Nat) (bytes : List Byte) (ended : Bool) (taps symbols tick : Nat) (s : State) => decide (port < 256 ∧ ended = false ∧
        bytes.length = 256 ∧ s.time.tick0 + tick ≤ s.now ∧ (s.takesFrame port (s.rxStamp port taps symbols).1 && s.glob.pdOn.getLsbD 3) = true ∧
        (s.pair.enable = false ∨ s.pair.role ≠ .syncing))) (8) (List.replicate 256 0) (false) (0) (0) (0)
        ({ sPort 0 .up with time := { sRun.time with tickOn := true } }) = true) ∧
    ((fun (port : Nat) (bytes : List Byte) (ended : Bool) (taps symbols tick : Nat) (s : State) => decide (port < 256 ∧ ended = true ∧ 64 ≤
        bytes.length ∧ bytes.length ≤ 256 ∧ fcsOf bytes = 0 ∧ s.time.tick0 + tick ≤ s.now ∧ (s.takesFrame port (s.rxStamp port taps symbols).1
        && s.glob.pdOn.getLsbD 3) = true)) (8) (List.replicate 60 0 ++ leBytes 4 (crc32 (List.replicate 60 0))) (true) (0) (0) (0)
        ({ sPort 0 .up with time := { sRun.time with tickOn := true } }) = true) ∧
    ((fun (frame : Nat) (s : State) => (fun (f : Frame) => decide (s.core.frames.find frame = some f ∧ f.decided = false ∧ f.bad = false))
        ((s.core.frames.find frame).getD ({ plan := { copies := [{ port := 8 }] } }))) (5)
        ({ sPort 0 .up with now := 120, time := { sRun.time with tickOn := true }, core := { sTick.core with frames := [(5, { plan := { copies := [{ port := 8 }] }, bytes := List.replicate 64 0, ended := true, done := true, len := 64 })] } })
        = true) ∧
    ((fun (frame : Nat) (s : State) => (fun (f : Frame) => decide (s.core.frames.find frame = some f ∧ f.decided = false ∧ f.bad = false ∧
        (f.plan.fault = true ∨ f.plan.copies = []))) ((s.core.frames.find frame).getD ({}))) (5)
        ({ sTick with now := 120, core := { sTick.core with frames := [(5, { plan := { fault := true } })] } }) = true) ∧
    ((fun (frame : Nat) (s : State) => (fun (f : Frame) => decide (s.core.frames.find frame = some f ∧ f.decided = false ∧ f.bad = true))
        ((s.core.frames.find frame).getD ({}))) (5) ({ sTick with now := 120, core := { sTick.core with frames := [(5, { bad := true })] } }) =
        true) ∧
    ((fun (frame : Nat) (s : State) => (fun (f : Frame) => decide (s.core.frames.find frame = some f ∧ f.decided = true)) ((s.core.frames.find
        frame).getD ({}))) (5) ({ sTick with now := 120, core := { sTick.core with frames := [(5, { decided := true })] } }) = true) ∧
    ((fun (frame : Nat) (bytes : List Byte) (tick : Nat) (s : State) => (fun (f : Frame) => (fun (o : Nat) => decide (s.core.frames.find frame
        = some f ∧ f.done = false ∧ 256 < bytes.length ∧ bytes.take 256 = f.bytes ∧ (f.maxFrame < bytes.length ∨ fcsOf bytes ≠ 0)) && decide (o
        = portCtr f.port (if f.maxFrame < bytes.length then 0x20 else if fcsOf bytes = 2 then 0x28 else 0x10))) (portCtr f.port (if f.maxFrame <
        bytes.length then 0x20 else if fcsOf bytes = 2 then 0x28 else 0x10))) ((s.core.frames.find frame).getD
        ({ bytes := List.replicate 256 7, maxFrame := 256 }))) (5) (List.replicate 257 7) (0)
        ({ sTick with core := { sTick.core with frames := [(5, { bytes := List.replicate 256 7, maxFrame := 256 })] } }) = true) ∧
    ((fun (frame : Nat) (bytes : List Byte) (tick : Nat) (s : State) => (fun (f : Frame) => decide (s.core.frames.find frame = some f ∧ f.done
        = false ∧ 256 < bytes.length ∧ bytes.take 256 = f.bytes ∧ bytes.length ≤ f.maxFrame ∧ fcsOf bytes = 0 ∧ (f.exc ≠ 0 ∨ f.parsed.truncated
        bytes.length = false))) ((s.core.frames.find frame).getD ({}))) (5) (List.replicate 256 0 ++ [0x58, 0x85, 0x96, 0x0d]) (0)
        ({ sTick with core := { sTick.core with frames := [(5, { bytes := List.replicate 256 0, exc := 1 })] } }) = true) ∧
    ((fun (frame : Nat) (bytes : List Byte) (tick : Nat) (s : State) => (fun (f : Frame) => decide (s.core.frames.find frame = some f ∧ f.done
        = false ∧ 256 < bytes.length ∧ bytes.take 256 = f.bytes ∧ bytes.length ≤ f.maxFrame ∧ fcsOf bytes = 0 ∧ f.exc = 0 ∧ f.parsed.truncated
        bytes.length = true)) ((s.core.frames.find frame).getD
        ({ bytes := List.replicate 256 0, parsed := { l3At := some 14, l3Len := 300 } }))) (5) (List.replicate 256 0 ++ [0x58, 0x85, 0x96,
        0x0d]) (0)
        ({ sTick with core := { sTick.core with frames := [(5, { bytes := List.replicate 256 0, parsed := { l3At := some 14, l3Len := 300 } })] } })
        = true) ∧
    ((fun (frame : Nat) (bytes : List Byte) (tick : Nat) (s : State) => (fun (f : Frame) => decide (s.core.frames.find frame = some f ∧ f.done
        = true)) ((s.core.frames.find frame).getD ({}))) (5) ([]) (0)
        ({ sTick with core := { sTick.core with frames := [(5, { done := true })] } }) = true) ∧
    ((fun (s : State) => decide ((s.advanceTick ((s.tick / 4 + 1) * 4)).requests = [])) (sTick) = true) ∧
    ((fun (port tick sub : Nat) (s : State) => (fun (k : Nat) => decide (port < 256 ∧ s.time.tick0 + (tick - 117) ≤ s.now ∧ (s.ports.get
        port).configured = true ∧ (s.portState port = .up ∨ s.portState port = .binding) ∧ (s.core.ports.get port).sending = none ∧
        s.nextGuaranteed port = some k ∧ (s.core.copies.get k).deadline = none)) ((s.nextGuaranteed port).getD (4))) (8) (117) (0)
        ({ sPort 0 .up with now := 1000, time := { sRun.time with tickOn := true }, core := { sRun.core with copies := [(4, { kind := 0, port := 8, tc := 7, cells := 1, crossed := 1, arrived := 1 })], egress := [(71, [4])] } })
        = true) ∧
    ((fun (port tick sub : Nat) (s : State) => decide (port < 256 ∧ s.time.tick0 + (tick - 117) ≤ s.now ∧ (s.ports.get port).configured = true
        ∧ (s.portState port = .up ∨ s.portState port = .binding) ∧ (s.core.ports.get port).sending = none)) (8) (117) (0) (sPort 0 .up) = true) ∧
    ((fun (port tick sub : Nat) (s : State) => decide (port < 256 ∧ s.time.tick0 + (tick - 117) ≤ s.now ∧ ((s.ports.get port).configured =
        false ∨ s.portState port ≠ .up ∧ s.portState port ≠ .binding ∨ (s.core.ports.get port).sending.isSome = true))) (8) (117) (0) (sPort 0
        .casting) = true) ∧
    ((fun (port tick : Nat) (s : State) => (fun (k : Nat) => (fun (x : Copy) => decide (port < 256 ∧ (s.core.ports.get port).sending = some k ∧
        x = s.core.copies.get k ∧ (x.stomp.isSome = true ∨ 0 < x.cells ∧ x.crossed = x.cells) ∧ s.time.tick0 + tick ≤ s.now)) (s.core.copies.get
        k)) (((s.core.ports.get port).sending).getD (4))) (8) (0)
        ({ sTick with core := { sTick.core with copies := [(4, { port := 8, cells := 1, crossed := 1 })], ports := [(8, { sending := some 4 })] } })
        = true) ∧
    ((fun (port tick : Nat) (s : State) => decide (port < 256 ∧
        (match (s.core.ports.get port).sending with | none => true | some k => (s.core.copies.get k).stomp.isNone && !decide (0 < (s.core.copies.get k).cells ∧ (s.core.copies.get k).crossed = (s.core.copies.get k).cells))
        = true)) (8) (0)
        ({ sTick with core := { sTick.core with copies := [(4, { port := 8, cells := 2, crossed := 1 })], ports := [(8, { sending := some 4 })] } })
        = true) := by
  and_intros
  all_goals first | (simp only [fcs_zeros]; decide +kernel) | decide +kernel

/-- The hypotheses of each clause of BufferRows can be met. -/
theorem test_meets_BufferRows :
    ((fun (s : State) => (fun (k : Nat) => decide (s.core.skein = .ready ∧ s.skeinCells + 16 ≤ skeinSize ∧ s.engineNext s.core.spillPtr
        ((s.core.voqs.filter fun q => decide (((s.spillBurst q.1 q.2).foldl (fun a x => a + x.2.2) 0) = 16)).map (·.1)) = some k))
        ((s.engineNext s.core.spillPtr ((s.core.voqs.filter fun q => decide (((s.spillBurst q.1 q.2).foldl (fun a x => a + x.2.2) 0) = 16)).map
        (·.1))).getD (0))) (sSpill { cells := 64, arrived := 64, charge := 64, kind := 1 }) = true) ∧
    ((fun (s : State) => decide (s.core.skein ≠ .ready ∨ skeinSize < s.skeinCells + 16 ∨ (s.core.voqs.all fun q => decide (((s.spillBurst q.1
        q.2).foldl (fun a x => a + x.2.2) 0) ≠ 16)) = true)) (sSpill { cells := 4, arrived := 4 }) = true) ∧
    ((fun (s : State) => (fun (k : Nat) => decide (s.core.skein = .ready ∧ s.engineNext s.core.returnPtr ((s.core.voqs.filter fun q =>
        s.voqInSkein q.2 && decide (s.voqHeadCells q.2 < (s.core.classes.get (voqClass q.1)).returnLow)).map (·.1)) = some k)) ((s.engineNext
        s.core.returnPtr ((s.core.voqs.filter fun q => s.voqInSkein q.2 && decide (s.voqHeadCells q.2 < (s.core.classes.get (voqClass
        q.1)).returnLow)).map (·.1))).getD (0))) (sSpill { cells := 64, arrived := 64, inSkein := 32 }) = true) ∧
    ((fun (s : State) => decide (s.core.skein ≠ .ready ∨ (s.core.voqs.all fun q => !(s.voqInSkein q.2 && decide (s.voqHeadCells q.2 <
        (s.core.classes.get (voqClass q.1)).returnLow))) = true)) (sSpill { cells := 4, arrived := 4 }) = true) ∧
    ((fun (pass : Bool) (s : State) => decide (s.core.skein = .off ∧ s.glob.pdOn.getLsbD 5 = true)) (true) (sOn) = true) ∧
    ((fun (pass : Bool) (s : State) => decide (s.core.skein ≠ .off ∨ s.glob.pdOn.getLsbD 5 = false)) (true) (sSkein) = true) ∧
    ((fun (copy : Nat) (fixed : Bool) (s : State) => decide (s.core.skein = .ready ∧ fixed = true)) (9) (true) (sSkein) = true) ∧
    ((fun (copy : Nat) (fixed : Bool) (s : State) => decide (s.core.skein = .ready ∧ fixed = false ∧ 0 < (s.core.copies.get copy).inSkein)) (0)
        (false) (sSpill { cells := 64, arrived := 64, inSkein := 32 }) = true) ∧
    ((fun (copy : Nat) (fixed : Bool) (s : State) => decide (s.core.skein ≠ .ready)) (9) (false) (sOn) = true) ∧
    ((fun (s : State) => decide (s.core.skein = .ready)) (sSpill { cells := 64, arrived := 64, inSkein := 32 }) = true) ∧
    ((fun (s : State) => decide (s.core.skein ≠ .ready)) (sOn) = true) ∧
    ((fun (copies : List Nat) (location : Nat) (fixed : Bool) (s : State) => decide (location < 524288 ∧ fixed = true ∧ (copies.all fun k =>
        s.core.copies.has k) = true)) ([]) (524287) (true) (sRun) = true) ∧
    ((fun (copies : List Nat) (location : Nat) (fixed : Bool) (s : State) => decide (location < 524288 ∧ fixed = false ∧ (copies.all fun k =>
        s.core.copies.has k) = true ∧ (s.core.cellErr.any fun q => decide (q.1 = location ∧ s.now < q.2 + secC)) = true)) ([]) (524287) (false)
        ({ sRun with core := { sRun.core with cellErr := [(524287, 0)] } }) = true) ∧
    ((fun (copies : List Nat) (location : Nat) (fixed : Bool) (s : State) => decide (location < 524288 ∧ fixed = false ∧ (copies.all fun k =>
        s.core.copies.has k) = true ∧ (s.core.cellErr.any fun q => decide (q.1 = location ∧ s.now < q.2 + secC)) = false)) ([0]) (0) (false)
        (sSpill { cells := 64, arrived := 64, sending := true }) = true) ∧
    ((fun (tile port cls : Nat) (egress : Bool) (s : State) => (fun (l : List Nat) => decide (tile < 64 ∧ port < 256 ∧ cls < 8 ∧ l = (if egress
        then s.core.egress.get (8 * port + cls) else s.core.voqs.get (voqKey tile port cls)))) ((if egress then s.core.egress.get (8 * port +
        cls) else s.core.voqs.get (voqKey tile port cls)))) (0) (0) (0) (false) (sSpill { cells := 64, arrived := 64 }) = true) ∧
    ((fun (value : BitVec 32) (s : State) => decide (s.streamOwned 8 = false ∧ dist32 s.core.capture.rd value ≤ s.core.capture.fill)) (1)
        (sCapture { wr := 1 }) = true) ∧
    ((fun (value : BitVec 32) (s : State) => decide (s.streamOwned 8 = false ∧ s.core.capture.fill < dist32 s.core.capture.rd value)) (2)
        (sCapture { wr := 1 }) = true) ∧
    ((fun (value : BitVec 32) (s : State) => decide (s.streamOwned 8 = true)) (2)
        ({ sCapture { wr := 1 } with host := { chans := [(5, { streams := [8] })] } }) = true) ∧
    ((fun (s : State) => (fun (y : Capture) => decide (y = s.core.capture ∧ y.fill ≠ 0 ∧ y.idleTimeout ≠ 0 ∧ y.timeoutSeen ≠ some y.rd.toNat))
        (s.core.capture)) (sCapture { wr := 1, idleTimeout := 5 }) = true) ∧
    ((fun (s : State) => (fun (y : Capture) => decide (y = s.core.capture ∧ (y.fill = 0 ∨ y.idleTimeout = 0 ∨ y.timeoutSeen = some
        y.rd.toNat))) (s.core.capture)) (sRun) = true) := by
  and_intros
  all_goals decide +kernel

/-- The hypotheses of each clause of TableAndDebugRows can be met. -/
theorem test_meets_TableAndDebugRows :
    ((fun (port cls : Nat) (s : State) => (fun (y : Contract) => decide (port < 256 ∧ 4 ≤ cls ∧ cls < 8 ∧ s.contracts.table.find (contractKey
        port cls) = some y ∧ y.state = .draining ∧ y.copies = 0)) ((s.contracts.table.find (contractKey port cls)).getD
        ({ state := .draining }))) (255) (7)
        ({ sRun with contracts := { sRun.contracts with table := [(contractKey 255 7, { state := .draining })] } }) = true) ∧
    ((fun (port cls : Nat) (s : State) => decide (port < 256 ∧ 4 ≤ cls ∧ cls < 8 ∧
        (match s.contracts.table.find (contractKey port cls) with | none => true | some y => decide (y.state ≠ .draining ∨ y.copies ≠ 0)) =
        true)) (255) (7)
        ({ sRun with contracts := { sRun.contracts with table := [(contractKey 255 7, { state := .draining, copies := 1 })] } }) = true) ∧
    ((fun (table location : Nat) (fixed keyOk : Bool) (s : State) => decide (locationOk table location = true ∧ fixed = true)) (10) (63) (true)
        (false) (sRun) = true) ∧
    ((fun (table location : Nat) (fixed keyOk : Bool) (s : State) => decide (locationOk table location = true ∧ fixed = false ∧ s.isLost table
        location = false)) (10) (63) (false) (false) (sRun) = true) ∧
    ((fun (table location : Nat) (fixed keyOk : Bool) (s : State) => decide (locationOk table location = true ∧ fixed = false ∧ s.isLost table
        location = true)) (10) (63) (false) (false) ({ sRun with fwd := { sRun.fwd with lost := [{ table := 10, loc := 63 }] } }) = true) ∧
    ((fun (table location : Nat) (s : State) => decide (locationOk table location = true ∧ s.isLost table location = true ∧ [2, 3, 9,
        10].contains table = true ∧ s.fwd.badCopies.contains (table, location) = false)) (2) (4)
        ({ sRun with fwd := { sRun.fwd with lost := [{ table := 2, loc := 4 }] } }) = true) ∧
    ((fun (table location : Nat) (s : State) => decide (locationOk table location = true ∧ (s.isLost table location = false ∨ [2, 3, 9,
        10].contains table = false ∨ s.fwd.badCopies.contains (table, location) = true))) (2) (4) (sRun) = true) ∧
    ((fun (failing : List Nat) (s : State) => decide ((failing.all fun n => decide (n < 32768)) = true)) ([5, 5, 9])
        ({ sRun with parse := { sRun.parse with acl := [(5, {}), (7, {}), (9, { lost := true })] } }) = true) ∧
    ((fun (source : Nat) (s : State) => (fun (y : DupEntry) => decide (source < 65536 ∧ s.pair.dup.find source = some y)) ((s.pair.dup.find
        source).getD ({}))) (9) (sDup) = true) ∧
    ((fun (source : Nat) (s : State) => decide (source < 65536 ∧ s.pair.dup.find source = none)) (9) (sRun) = true) ∧
    ((fun (s : State) => (fun (n : Nat) => decide (s.fw.sessionEnd = some n)) ((s.fw.sessionEnd).getD (7)))
        ({ State.reset with fw := { State.reset.fw with sessionEnd := some 7 } }) = true) ∧
    ((fun (s : State) => decide (s.fw.sessionEnd = none)) (State.reset) = true) ∧
    ((fun (instr : TapInstr) (n : Nat) (s : State) => decide (instr = .halt n ∧ n < 14 ∧ Debug.permits s.fw.debug instr = true ∧
        (s.fw.cores.get n).state = 1)) (.halt 13) (13) ({ (sCore 13 1) with fw := { (sCore 13 1).fw with debug := .full } }) = true) ∧
    ((fun (instr : TapInstr) (n : Nat) (s : State) => decide (instr = .release n ∧ n < 14 ∧ Debug.permits s.fw.debug instr = true ∧
        (s.fw.cores.get n).state = 2)) (.release 0) (0) ({ (sCore 0 2) with fw := { (sCore 0 2).fw with debug := .full } }) = true) ∧
    ((fun (instr : TapInstr) (s : State) => decide (((tapCore instr).all fun n => decide (n < 15)) = true ∧ Debug.permits s.fw.debug instr =
        true) && decide
        ((match instr with | .halt n => decide (n = 14 ∨ (s.fw.cores.get n).state ≠ 1) | .release n => decide (n = 14 ∨ (s.fw.cores.get n).state ≠ 2) | _ => true)
        = true)) (.idcode) (sRun) = true) ∧
    ((fun (instr : TapInstr) (s : State) => decide (Debug.permits s.fw.debug instr = false ∧ ((tapCore instr).all fun n => decide (n < 15)) =
        true)) (.halt 3) ({ (sCore 3 1) with fw := { (sCore 3 1).fw with debug := .locked } }) = true) := by
  and_intros
  all_goals decide +kernel

/-- The hypotheses of each clause of PairLinkRows can be met. -/
theorem test_meets_PairLinkRows :
    ((fun (strap : Bool) (epoch order stepping : Nat) (s : State) => decide (s.pair.enable = true ∧ s.pair.role = .joining ∧
        s.pair.watchdogDead = false ∧ (strap = s.fuses.pairStrap ∨ stepping ≠ 0xB0 ∨ decide (order = 1 ∨ order = 2) ≠ s.fuses.orderCode.skein)))
        (false) (5) (1) (0xB0) (sUnit .joining id) = true) ∧
    ((fun (strap : Bool) (epoch order stepping : Nat) (s : State) => decide (s.pair.enable = true ∧ s.pair.role = .joining ∧
        s.pair.watchdogDead = false ∧ strap ≠ s.fuses.pairStrap ∧ stepping = 0xB0 ∧ decide (order = 1 ∨ order = 2) = s.fuses.orderCode.skein ∧
        (epoch < s.pair.epoch ∨ epoch = s.pair.epoch ∧ s.fuses.pairStrap = false))) (true) (5) (1) (0xB0) (sUnit .joining fun y =>
        { y with epoch := 6 }) = true) ∧
    ((fun (strap : Bool) (epoch order stepping : Nat) (s : State) => decide (s.pair.enable = true ∧ s.pair.role = .joining ∧
        s.pair.watchdogDead = false ∧ strap ≠ s.fuses.pairStrap ∧ stepping = 0xB0 ∧ decide (order = 1 ∨ order = 2) = s.fuses.orderCode.skein ∧
        (s.pair.epoch < epoch ∨ epoch = s.pair.epoch ∧ s.fuses.pairStrap = true))) (true) (7) (2) (0xB0) (sUnit .joining fun y =>
        { y with epoch := 6 }) = true) ∧
    ((fun (strap : Bool) (epoch order stepping : Nat) (s : State) => decide (s.pair.enable = true ∧ s.pair.watchdogDead = false ∧ (s.pair.role
        = .active ∨ s.pair.role = .standby ∨ s.pair.role = .syncing ∨ s.pair.role = .detached))) (true) (7) (2) (0xB0) (sUnit .active id) = true) ∧
    ((fun (strap : Bool) (epoch order stepping : Nat) (s : State) => decide (s.pair.enable = false ∨ s.pair.watchdogDead = true ∨ s.pair.role =
        .alone ∨ s.pair.role = .mismatch)) (true) (7) (2) (0xB0) (sRun) = true) ∧
    ((fun (s : State) => (fun (n : Nat) => decide (s.pair.joinEnd = some n ∧ s.pair.role = .joining)) ((s.pair.joinEnd).getD (9))) (sUnit
        .joining fun y => { y with joinEnd := some 9 }) = true) ∧
    ((fun (s : State) => decide (s.pair.joinEnd = none ∨ s.pair.role ≠ .joining)) (sRun) = true) ∧
    ((fun (cycle stable : Nat) (s : State) => (fun (n : Nat) => decide (4 ≤ stable ∧ s.now ≤ cycle ∧ s.pair.aliveEdge = some n ∧ 625 ≤ cycle -
        n ∧ cycle - n ≤ 1875)) ((s.pair.aliveEdge).getD (0))) (625) (4) (sUnit .active fun y => { y with aliveEdge := some 0 }) = true) ∧
    ((fun (cycle stable : Nat) (s : State) => decide (4 ≤ stable ∧ s.now ≤ cycle ∧ s.pair.aliveEdge = none)) (625) (4) (sUnit .active id) =
        true) ∧
    ((fun (cycle stable : Nat) (s : State) => (fun (n : Nat) => decide (4 ≤ stable ∧ s.now ≤ cycle ∧ s.pair.aliveEdge = some n ∧ cycle - n <
        625)) ((s.pair.aliveEdge).getD (0))) (624) (4) (sUnit .active fun y => { y with aliveEdge := some 0 }) = true) ∧
    ((fun (cycle stable : Nat) (s : State) => decide (stable < 4)) (5) (3) (sUnit .active id) = true) ∧
    ((fun (s : State) => (fun (n : Nat) => decide (s.pair.aliveEdge = some n ∧ s.pair.alive = true)) ((s.pair.aliveEdge).getD (0))) (sUnit
        .active fun y => { y with alive := true, aliveEdge := some 0 }) = true) ∧
    ((fun (s : State) => decide (s.pair.aliveEdge = none ∨ s.pair.alive = false)) (sRun) = true) ∧
    ((fun (s : State) => (fun (n : Nat) => decide (s.time.tickOn = true ∧ n = (s.tick / 1250 + 1) * 1250)) ((s.tick / 1250 + 1) * 1250)) (sUnit
        .active fun y => { y with watchdogDead := false }) = true) ∧
    ((fun (s : State) => decide (s.time.tickOn = false)) (sRun) = true) ∧
    ((fun (s : State) => decide (s.pair.enable = true ∧ s.pair.watchdogDead = false ∧ s.pair.role ≠ .alone ∧ s.pair.role ≠ .mismatch)) (sUnit
        .active id) = true) ∧
    ((fun (s : State) => decide (s.pair.enable = false ∨ s.pair.watchdogDead = true ∨ s.pair.role = .alone ∨ s.pair.role = .mismatch)) (sRun) =
        true) ∧
    ((fun (s : State) => decide (s.pair.linkUp = true ∧ s.pair.silent = false)) (sUnit .active (fun y => { y with linkUp := true })) = true) ∧
    ((fun (s : State) => decide (s.pair.linkUp = false ∨ s.pair.silent = true)) (sRun) = true) ∧
    ((fun (s : State) => decide (s.pair.linkUp = true ∧ s.pair.watchdogDead = false)) (sUnit .active fun y => { y with linkUp := true }) = true) ∧
    ((fun (s : State) => decide (s.pair.linkUp = false ∨ s.pair.watchdogDead = true)) (sRun) = true) ∧
    ((fun (s : State) => decide (s.pair.linkUp = true ∧ s.pair.role ≠ .alone ∧ s.pair.role ≠ .mismatch)) (sUnit .active fun y =>
        { y with linkUp := true }) = true) ∧
    ((fun (s : State) => decide (s.pair.linkUp = false ∨ s.pair.role = .alone ∨ s.pair.role = .mismatch)) (sRun) = true) ∧
    ((fun (bytes : List Byte) (s : State) => decide (bytes.length = 64 ∧ s.pair.enable = true ∧ s.pair.role ≠ .alone ∧ s.pair.role ≠
        .mismatch)) (List.replicate 64 0) (sUnit .active fun y => { y with controlRx := 5, silent := true }) = true) ∧
    ((fun (bytes : List Byte) (s : State) => decide (bytes.length = 64 ∧ s.pair.enable = true ∧ s.pair.role ≠ .alone ∧ s.pair.role ≠ .mismatch
        ∧ (s.pair.healthCycle.all fun n => decide (n < fbn bytes 8 8)) = true)) ([1, 1] ++ List.replicate 54 0 ++ beBytes 8 (crc64 ([1, 1] ++
        List.replicate 54 0)).toNat) (sUnit .active id) = true) ∧
    ((fun (bytes : List Byte) (s : State) => decide (bytes.length = 64 ∧ (s.pair.enable = false ∨ s.pair.role = .alone ∨ s.pair.role =
        .mismatch))) (List.replicate 64 0) (sRun) = true) ∧
    ((fun (s : State) => decide (s.pair.healthCycle.isSome = true ∧ s.pair.healthLost = false ∧ s.pair.enable = true)) (sUnit .active (fun y =>
        { y with healthCycle := some 1, healthLost := false })) = true) ∧
    ((fun (s : State) => decide (s.pair.healthCycle = none ∨ s.pair.healthLost = true ∨ s.pair.enable = false)) (sRun) = true) ∧
    ((fun (t1 t2 t3 t4 partner : Int) (s : State) => (fun (o : Int) => decide (s.pair.enable = true ∧ s.pair.linkUp = true ∧ s.pair.role ≠
        .alone ∧ s.pair.role ≠ .mismatch ∧ o = probeOffset t1 t2 t3 t4 s.pair.cfg.plAsym ∧ (s.pair.role = .active ∨ alignedAt o = true)))
        (probeOffset t1 t2 t3 t4 s.pair.cfg.plAsym)) (0) (5) (6) (11) (7) (sUnit .active fun y => { y with linkUp := true }) = true) ∧
    ((fun (t1 t2 t3 t4 partner : Int) (s : State) => decide (s.pair.enable = true ∧ s.pair.linkUp = true ∧ s.pair.role = .standby ∧ alignedAt
        (probeOffset t1 t2 t3 t4 s.pair.cfg.plAsym) = false)) (0) (10 ^ 12) (0) (0) (7) (sUnit .standby fun y => { y with linkUp := true }) =
        true) ∧
    ((fun (t1 t2 t3 t4 partner : Int) (s : State) => decide (s.pair.enable = false ∨ s.pair.linkUp = false ∨ s.pair.role = .alone ∨ s.pair.role
        = .mismatch)) (0) (5) (6) (11) (7) (sRun) = true) ∧
    ((fun (edge : Nat) (s : State) => decide (s.power.stage = .pd1 ∧ s.power.resetting = some 3 ∧ s.glob.rootRunning = true ∧ s.pdOn 1 = true ∧
        s.now ≤ edge)) (0)
        ({ sStage .pd1 3 with power := { (sStage .pd1 3).power with resetting := some 3 }, glob := { (sStage .pd1 3).glob with rootRunning := true } })
        = true) ∧
    ((fun (edge : Nat) (s : State) => decide (s.power.stage ≠ .pd1 ∨ s.power.resetting ≠ some 3 ∨ s.glob.rootRunning = false ∨ s.pdOn 1 =
        false)) (0) (sRun) = true) ∧
    ((fun (test : Nat) (pass : Bool) (s : State) => decide (test < 8 ∧ pass = true)) (7) (true) (sRun) = true) ∧
    ((fun (test : Nat) (pass : Bool) (s : State) => decide (test < 8 ∧ pass = false ∧ (s.pair.enable = false ∨ s.pair.role ≠ .active ∨
        s.partnerStandby = false ∨ s.pair.healthOk = false ∨ selfCritical test (s.pair.selfFail.get test + 1) = false))) (7) (false) (sRun) =
        true) ∧
    ((fun (test : Nat) (pass : Bool) (s : State) => decide (test < 8 ∧ pass = false ∧ s.pair.enable = true ∧ s.pair.role = .active ∧
        s.partnerStandby = true ∧ s.pair.healthOk = true ∧ selfCritical test (s.pair.selfFail.get test + 1) = true ∧ (s.pair.waits.any fun w =>
        decide (w.cmd = .pairSwitchover .direct)) = false)) (1) (false) (sUnit .active fun y =>
        { y with partnerRole := .standby, linkUp := true, healthOk := true }) = true) ∧
    ((fun (s : State) => (fun (n : Nat) => decide (s.pair.testEnd = some n)) ((s.pair.testEnd).getD (9))) (sUnit .standby fun y =>
        { y with testEnd := some 9 }) = true) ∧
    ((fun (s : State) => decide (s.pair.testEnd = none)) (sRun) = true) := by
  and_intros
  all_goals decide +kernel

/-- The hypotheses of each clause of PairJournalRows can be met. -/
theorem test_meets_PairJournalRows :
    ((fun (s : State) => decide (s.pair.enable = true ∧ s.time.tickOn = true ∧ s.pair.role = .active ∧ (s.pair.linkUp && decide
        (s.pair.partnerRole = .standby ∨ s.pair.partnerRole = .syncing)) = true ∧ s.fence.active = [])) (sUnit .active (fun y =>
        { y with linkUp := true, partnerRole := .standby })) = true) ∧
    ((fun (s : State) => decide (s.pair.enable = true ∧ s.time.tickOn = true ∧ s.pair.role = .active ∧ (s.pair.linkUp && decide
        (s.pair.partnerRole = .standby ∨ s.pair.partnerRole = .syncing)) = true)) (sUnit .active fun y =>
        { y with linkUp := true, partnerRole := .standby }) = true) ∧
    ((fun (s : State) => decide (s.pair.enable = true ∧ s.time.tickOn = true ∧ s.pair.role = .standby ∧ s.pair.markerSeen = true)) (sUnit
        .standby fun y => { y with markerSeen := true }) = true) ∧
    ((fun (s : State) => decide (s.pair.enable = true ∧ s.time.tickOn = true ∧ s.pair.role = .standby ∧ s.pair.markerSeen = false)) (sUnit
        .standby fun y => { y with markerSeen := false }) = true) ∧
    ((fun (s : State) => decide (s.pair.enable = false ∨ s.time.tickOn = false)) (sRun) = true) ∧
    ((fun (cycle applyAt : Nat) (crcOk : Bool) (journal : List RawCmd) (s : State) => decide (s.takesJournals = true ∧ s.glob.keeperRestarting
        = true)) (4) (9) (true) ([]) ({ sUnit .standby id with glob := { sTick.glob with keeperRestarting := true } }) = true) ∧
    ((fun (cycle applyAt : Nat) (crcOk : Bool) (journal : List RawCmd) (s : State) => decide (s.takesJournals = true ∧ s.glob.keeperRestarting
        = false ∧ crcOk = true ∧ (s.pair.committedNo.all fun n => decide (cycle = n ∨ cycle = n + 1)) = true)) (4) (9) (true) ([]) (sUnit
        .standby id) = true) ∧
    ((fun (cycle applyAt : Nat) (crcOk : Bool) (journal : List RawCmd) (s : State) => decide (s.takesJournals = true ∧ s.glob.keeperRestarting
        = false ∧ (crcOk = false ∨ (s.pair.committedNo.any fun n => decide (cycle ≠ n ∧ cycle ≠ n + 1)) = true))) (4) (9) (false) ([]) (sUnit
        .standby id) = true) ∧
    ((fun (cycle applyAt : Nat) (crcOk : Bool) (journal : List RawCmd) (s : State) => decide (s.takesJournals = false)) (4) (9) (true) ([])
        (sUnit .active id) = true) ∧
    ((fun (cycle : Nat) (s : State) => (fun (a : Nat) => decide (s.pair.sentCycle = some cycle ∧ s.pair.applyAt = some a ∧ s.pair.role =
        .active ∧ s.tick + 20 * usC ≤ a)) ((s.pair.applyAt).getD (20 * usC))) (4) (sUnit .active fun y =>
        { y with sentCycle := some 4, applyAt := some (20 * usC) }) = true) ∧
    ((fun (cycle : Nat) (s : State) => (fun (a : Nat) => decide (s.pair.sentCycle = some cycle ∧ s.pair.applyAt = some a ∧ s.pair.role =
        .active ∧ a < s.tick + 20 * usC)) ((s.pair.applyAt).getD (0))) (4) (sUnit .active fun y =>
        { y with sentCycle := some 4, applyAt := some 0, controlRx := 3 }) = true) ∧
    ((fun (cycle : Nat) (s : State) => decide (s.pair.sentCycle ≠ some cycle ∨ s.pair.applyAt = none ∨ s.pair.role ≠ .active)) (4) (sUnit
        .active fun y => { y with sentCycle := some 5, applyAt := some 0, controlRx := 3 }) = true) ∧
    ((fun (cycle : Nat) (s : State) => decide (s.pair.role = .active ∧ s.pair.sentCycle = some cycle)) (4) (sUnit .active fun y =>
        { y with sentCycle := some 4, applyAt := some 0 }) = true) ∧
    ((fun (cycle : Nat) (s : State) => decide (s.pair.role ≠ .active ∨ s.pair.sentCycle ≠ some cycle)) (4) (sUnit .active fun y =>
        { y with controlRx := 3 }) = true) ∧
    ((fun (cycle : Nat) (s : State) => (fun (a : Nat) => decide (s.pair.applyAt = some a ∧ s.takesJournals = true ∧ s.pair.committedNo = some
        cycle ∧ s.tick + 10 * usC ≤ a)) ((s.pair.applyAt).getD (10 * usC))) (4) (sUnit .standby fun y =>
        { y with committedNo := some 4, applyAt := some (10 * usC) }) = true) ∧
    ((fun (cycle : Nat) (s : State) => decide (s.takesJournals = false ∨ s.pair.committedNo ≠ some cycle ∨ (s.pair.applyAt.all fun a => decide
        (a < s.tick + 10 * usC)) = true)) (4) (sUnit .standby fun y => { y with controlRx := 3 }) = true) ∧
    ((fun (s : State) => (fun (a : Nat) => (fun (n : Nat) => decide (s.pair.applyAt = some a ∧ s.pair.confirmed = true ∧ s.time.tickOn = true ∧
        s.pair.enable = true ∧ s.pair.role = .active ∧ s.pair.sentCycle = some n ∧ s.pair.waits = [] ∧ s.fence.active = []))
        ((s.pair.sentCycle).getD (4))) ((s.pair.applyAt).getD (0))) (sUnit .active fun y =>
        { y with sentCycle := some 4, applyAt := some 0, confirmed := true }) = true) ∧
    ((fun (s : State) => (fun (a : Nat) => decide (s.pair.applyAt = some a ∧ s.pair.confirmed = true ∧ s.time.tickOn = true ∧ s.takesJournals =
        true ∧ s.pair.committed = [] ∧ s.pair.held = [] ∧ s.pair.waits = [] ∧ s.fence.active = [])) ((s.pair.applyAt).getD (0))) (sUnit .standby
        fun y => { y with applyAt := some 0, confirmed := true, switchover := true }) = true) ∧
    ((fun (s : State) => decide (s.pair.applyAt = none ∨ s.pair.confirmed = false ∨ s.time.tickOn = false)) (sRun) = true) ∧
    ((fun (w : JournalWait) (l : List JournalWait) (s : State) => decide ((s.pair.waits.filter fun z => !(s.pair.confirmed &&
        s.pair.sentJournal.contains z.cmd)) = w :: l)) ({}) ([]) ({ sUnit .active (fun y => { y with waits := [{}] }) with now := 10 ^ 12 }) =
        true) ∧
    ((fun (s : State) => decide ((s.pair.waits.filter fun z => !(s.pair.confirmed && s.pair.sentJournal.contains z.cmd)) = [])) (sRun) = true) ∧
    ((fun (cross : Bool) (port source seq egress : Nat) (bytes : List Byte) (tick sub : Nat) (stale coast : Bool) (kSec kSub : Nat) (s : State)
        => decide (port < 256 ∧ source < 65536 ∧ seq < 2 ^ 24 ∧ egress < 256 ∧ 64 ≤ bytes.length ∧ bytes.length ≤ 16384 ∧ s.pairServing = true))
        (true) (8) (3) (4) (9) (List.replicate 64 0) (0) (0) (false) (false) (0) (0) (sUnit .standby fun y => { y with linkUp := true }) = true) ∧
    ((fun (cross : Bool) (port source seq egress : Nat) (bytes : List Byte) (tick sub : Nat) (stale coast : Bool) (kSec kSub : Nat) (s : State)
        => decide (port < 256 ∧ source < 65536 ∧ seq < 2 ^ 24 ∧ egress < 256 ∧ 64 ≤ bytes.length ∧ bytes.length ≤ 16384 ∧ s.pairServing =
        false)) (true) (8) (3) (4) (9) (List.replicate 64 0) (0) (0) (false) (false) (0) (0) (sRun) = true) ∧
    ((fun (source block : Nat) (s : State) => (fun (d : DigestRec) => decide (source < 65536 ∧ block < 16384 ∧ ((s.pair.dup.get
        source).blocks.find? fun z => z.block = block) = some d ∧ d.closed = false)) ((((s.pair.dup.get source).blocks.find? fun z => z.block =
        block)).getD ({ block := 3 }))) (9) (3) (sUnit .active (fun y => { y with dup := [(9, { blocks := [{ block := 3 }] })] })) = true) ∧
    ((fun (source block : Nat) (s : State) => decide (source < 65536 ∧ block < 16384 ∧ (((s.pair.dup.get source).blocks.find? fun z => z.block
        = block).all fun z => z.closed) = true)) (9) (3) (sRun) = true) ∧
    ((fun (source block : Nat) (s : State) => (fun (d : DigestRec) => decide (source < 65536 ∧ block < 16384 ∧ ((s.pair.dup.get
        source).blocks.find? fun z => z.block = block) = some d)) ((((s.pair.dup.get source).blocks.find? fun z => z.block = block)).getD
        ({ block := 3, closed := true }))) (9) (3) (sUnit .active (fun y =>
        { y with dup := [(9, { blocks := [{ block := 3, closed := true }] })] })) = true) ∧
    ((fun (source block : Nat) (s : State) => decide (source < 65536 ∧ block < 16384 ∧ ((s.pair.dup.get source).blocks.find? fun z => z.block =
        block) = none)) (9) (3) (sRun) = true) ∧
    ((fun (source block : Nat) (part : DigestPart) (s : State) => decide (source < 65536 ∧ block < 16384 ∧ s.pair.dup.has source = false)) (9)
        (3) (.outcome 1 2 3) (sUnit .active fun y => { y with controlRx := 5, silent := true }) = true) ∧
    ((fun (source block : Nat) (part : DigestPart) (n a b : Nat) (s : State) => decide (source < 65536 ∧ block < 16384 ∧ s.pair.dup.has source
        = true ∧ (s.pair.dup.get source).partner = [] ∧ part = .outcome n a b)) (9) (3) (.outcome 1 2 3) (1) (2) (3) (sDup) = true) ∧
    ((fun (source block : Nat) (part : DigestPart) (n : Nat) (y z : BitVec 64) (b : Bool) (m : Nat) (w : BitVec 64) (s : State) => decide
        (source < 65536 ∧ block < 16384 ∧ s.pair.dup.has source = true ∧ (s.pair.dup.get source).partner = [] ∧ part = .decision n y z b m w))
        (9) (3) (.decision 1 2 3 true 4 5) (1) (2) (3) (true) (4) (5) (sDup) = true) ∧
    ((fun (source block : Nat) (part : DigestPart) (n a b : Nat) (r : DigestRec) (s : State) => decide (source < 65536 ∧ block < 16384 ∧
        s.pair.dup.has source = true ∧ (s.pair.dup.get source).partner = [r] ∧ r.block = block ∧ r.closed = true ∧ part = .outcome n a b ∧
        (s.pair.dup.get source).blocks = [])) (9) (3) (.outcome 1 2 3) (1) (2) (3) ({ block := 3, closed := true }) (sUnit .active (fun y =>
        { y with dup := [(9, { partner := [{ block := 3, closed := true }] })] })) = true) ∧
    ((fun (s : State) => decide (s.power.stage = .config ∧ s.glob.keeperRestarting = false)) (sStage .config 0x3FF) = true) ∧
    ((fun (s : State) => decide (s.power.stage ≠ .config ∨ s.glob.keeperRestarting = true)) (sRun) = true) ∧
    ((fun (s : State) => decide (s.glob.keeperRestarting = true ∧ s.glob.keeperWaiting = []))
        ({ sRun with glob := { sRun.glob with keeperRestarting := true } }) = true) ∧
    ((fun (s : State) => decide (s.glob.keeperRestarting = true))
        ({ sRun with glob := { sRun.glob with keeperRestarting := true, keeperWaiting := [.nop .direct []] } }) = true) ∧
    ((fun (s : State) => decide (s.glob.keeperRestarting = false)) (sRun) = true) := by
  and_intros
  all_goals decide +kernel

/-- The hypotheses of each clause of MailboxRows can be met. -/
theorem test_meets_MailboxRows :
    ((fun (mb : Nat) (entry ext : List Byte) (s : State) => (fun (x : Mailbox) => decide (mb < 8 ∧ s.mayFetch mb = true ∧ x = s.mbs.get mb))
        (s.mbs.get mb)) (6) (List.replicate 64 0) ([]) (sMbox { enable := true, state := .running, submit := 1 }) = true) ∧
    ((fun (mb : Nat) (entry ext : List Byte) (s : State) => decide (mb < 8 ∧ s.mayFetch mb = false)) (6) (List.replicate 64 0) ([]) (sMbox {})
        = true) ∧
    ((fun (mb : Nat) (extension : Bool) (s : State) => (fun (y : Mailbox) => (fun (a : Nat) => decide (mb < 8 ∧ s.mayFetch mb = true ∧ y =
        s.mbs.get mb ∧ a = (if extension then y.extBase.toNat + 512 * (y.fetch.toNat % 256) else y.cmdBase.toNat + 64 * (y.fetch.toNat % 256))))
        ((if extension then y.extBase.toNat + 512 * (y.fetch.toNat % 256) else y.cmdBase.toNat + 64 * (y.fetch.toNat % 256)))) (s.mbs.get mb))
        (6) (true) (sMbox { enable := true, state := .running, submit := 1 }) = true) ∧
    ((fun (mb : Nat) (extension : Bool) (s : State) => decide (mb < 8 ∧ s.mayFetch mb = false)) (6) (true) (sMbox {}) = true) ∧
    ((fun (mb : Nat) (value : BitVec 32) (s : State) => (fun (y : Mailbox) => decide (mb < 8 ∧ y = s.mbs.get mb ∧ dist32 y.respRd value ≤ 256 ∧
        dist32 y.respRd y.submit ≤ dist32 y.respRd value ∧ value ≠ y.submit)) (s.mbs.get mb)) (6) (256) (sMbox {}) = true) ∧
    ((fun (mb : Nat) (value : BitVec 32) (s : State) => decide (mb < 8 ∧ value = (s.mbs.get mb).submit ∧ dist32 (s.mbs.get mb).respRd value ≤
        256)) (6) (0) (sMbox {}) = true) ∧
    ((fun (mb : Nat) (value : BitVec 32) (s : State) => (fun (y : Mailbox) => decide (mb < 8 ∧ y = s.mbs.get mb ∧ (256 < dist32 y.respRd value
        ∨ dist32 y.respRd value < dist32 y.respRd y.submit))) (s.mbs.get mb)) (6) (257) (sMbox {}) = true) ∧
    ((fun (mb : Nat) (value : BitVec 32) (s : State) => (fun (y : Mailbox) => decide (mb < 8 ∧ y = s.mbs.get mb ∧ dist32 y.respRd value ≤
        dist32 y.respRd y.done)) (s.mbs.get mb)) (6) (2) (sMbox { done := 2 }) = true) ∧
    ((fun (mb : Nat) (value : BitVec 32) (s : State) => (fun (y : Mailbox) => decide (mb < 8 ∧ y = s.mbs.get mb ∧ dist32 y.respRd y.done <
        dist32 y.respRd value)) (s.mbs.get mb)) (6) (3) (sMbox { done := 2 }) = true) ∧
    ((fun (mb : Nat) (s : State) => decide (mb < 8 ∧ (s.mbs.get mb).state ≠ .fault)) (6) (sMbox {}) = true) ∧
    ((fun (mb : Nat) (s : State) => decide (mb < 8 ∧ (s.mbs.get mb).state = .fault)) (6) (sMbox { state := .fault, faultCleared := true }) =
        true) ∧
    ((fun (mb : Nat) (s : State) => decide (mb < 8 ∧ (s.mbs.get mb).state = .running)) (6) (sMbox { enable := true, state := .running }) = true) ∧
    ((fun (mb : Nat) (s : State) => decide (mb < 8 ∧ (s.mbs.get mb).state = .fault)) (6) (sMbox { enable := true, state := .fault }) = true) ∧
    ((fun (mb : Nat) (s : State) => decide (mb < 8 ∧ (s.mbs.get mb).state ≠ .running ∧ (s.mbs.get mb).state ≠ .fault)) (6) (sMbox
        { enable := true, state := .draining }) = true) ∧
    ((fun (mb : Nat) (s : State) => decide (mb < 8 ∧ (s.mbs.get mb).state = .draining ∧ (s.mbs.get mb).done = (s.mbs.get mb).fetch)) (6) (sMbox
        { state := .draining }) = true) ∧
    ((fun (mb : Nat) (s : State) => decide (mb < 8 ∧ ((s.mbs.get mb).state ≠ .draining ∨ (s.mbs.get mb).done ≠ (s.mbs.get mb).fetch))) (6)
        (sMbox { state := .draining, fetch := 3 }) = true) ∧
    ((fun (mb : Nat) (s : State) => decide (mb < 8 ∧ ((s.mbs.get mb).state = .disabled ∨ (s.mbs.get mb).state = .fault))) (6) (sMbox
        { state := .fault, submit := 3 }) = true) ∧
    ((fun (mb : Nat) (s : State) => decide (mb < 8 ∧ (s.mbs.get mb).state ≠ .disabled ∧ (s.mbs.get mb).state ≠ .fault)) (6) (sMbox
        { state := .running, submit := 3 }) = true) ∧
    ((fun (mb : Nat) (s : State) => (fun (x : Mailbox) => decide (mb < 8 ∧ x = s.mbs.get mb ∧ dist32 x.done x.fetch ≤ dist32 x.done x.submit ∧
        (x.inFlight.all fun k => decide (dist32 x.done k.pos < dist32 x.done x.fetch)) = true)) (s.mbs.get mb)) (6) (sMbox
        { abortRaised := true, submit := 2, fetch := 1, inFlight := [{ opcode := 9 }] }) = true) ∧
    ((fun (mb : Nat) (pos : BitVec 32) (s : State) => (fun (x : Mailbox) => decide (mb < 8 ∧ x = s.mbs.get mb ∧ dist32 x.done pos < dist32
        x.done x.fetch ∧ dist32 x.done pos < dist32 x.done x.submit)) (s.mbs.get mb)) (6) (0) (sMbox
        { submit := 3, fetch := 1, inFlight := [{ opcode := 9 }], abortRaised := true }) = true) ∧
    ((fun (mb : Nat) (pos : BitVec 32) (s : State) => (fun (x : Mailbox) => decide (mb < 8 ∧ x = s.mbs.get mb ∧ dist32 x.done x.fetch ≤ dist32
        x.done pos ∧ dist32 x.done pos < dist32 x.done x.submit ∧ x.inFlight = [] ∧ x.resetTo = none)) (s.mbs.get mb)) (6) (1) (sMbox
        { submit := 3, abortRaised := true }) = true) ∧
    ((fun (mb : Nat) (pos : BitVec 32) (s : State) => (fun (x : Mailbox) => decide (mb < 8 ∧ x = s.mbs.get mb ∧ dist32 x.done x.submit ≤ dist32
        x.done pos)) (s.mbs.get mb)) (6) (3) (sMbox { submit := 3, abortRaised := true }) = true) ∧
    ((fun (mb : Nat) (k : MbCmd) (l : List MbCmd) (s : State) => decide (mb < 8 ∧ (s.mbs.get mb).inFlight = k :: l ∧ k.committed = false ∧
        k.aborted = false ∧ k.early = none ∧ s.fence.waiting.contains (.mailbox mb) = false ∧ s.fence.active = [])) (6)
        ({ opcode := 0x605, started := true, timeout := 0 }) ([]) (sMbox
        { state := .running, inFlight := [{ opcode := 0x605, started := true, timeout := 0 }] }) = true) ∧
    ((fun (mb : Nat) (k : MbCmd) (l : List MbCmd) (s : State) => decide (mb < 8 ∧ (s.mbs.get mb).inFlight = k :: l ∧ (k.committed = true ∨
        k.aborted = true ∨ k.early.isSome = true ∨ s.fence.waiting.contains (.mailbox mb) = true))) (6) ({ committed := true }) ([]) (sMbox
        { inFlight := [{ committed := true }] }) = true) ∧
    ((fun (mb : Nat) (s : State) => decide (mb < 8 ∧ (s.mbs.get mb).inFlight = [])) (6) (sMbox {}) = true) := by
  and_intros
  all_goals decide +kernel

/-- The hypotheses of each clause of DmaRows can be met. -/
theorem test_meets_DmaRows :
    ((fun (chan : Nat) (s : State) => (fun (y : Chan) => decide (chan < 32 ∧ y = s.host.chans.get chan ∧ (y.state = .idle ∨ y.state =
        .halted))) (s.host.chans.get chan)) (31) (sChan { state := .halted, chainAddr := 64, retired := 4 }) = true) ∧
    ((fun (chan : Nat) (s : State) => decide (chan < 32 ∧ (s.host.chans.get chan).state ≠ .idle ∧ (s.host.chans.get chan).state ≠ .halted))
        (31) (sChan { state := .running }) = true) ∧
    ((fun (chan : Nat) (s : State) => decide (chan < 32 ∧ (s.host.chans.get chan).live = true)) (31) (sChan { state := .running }) = true) ∧
    ((fun (chan : Nat) (s : State) => decide (chan < 32 ∧ (s.host.chans.get chan).live = false)) (31) (sChan {}) = true) ∧
    ((fun (chan : Nat) (instr : List Byte) (s : State) => decide (chan < 32 ∧ instr.length = 32 ∧ s.fetches chan = false)) (31) (anInstr 1 0 0
        0) (sChan { state := .waiting }) = true) ∧
    ((fun (chan : Nat) (instr : List Byte) (s : State) => decide (chan < 32 ∧ instr.length = 32 ∧ s.fetches chan = true ∧ ((chainInstr
        instr).op = 1 ∧ (chainInstr instr).moveOk = false ∨ (chainInstr instr).op = 0 ∨ 5 < (chainInstr instr).op))) (31) (anInstr 1 4 0 0)
        (sChan { state := .running }) = true) ∧
    ((fun (chan : Nat) (instr : List Byte) (s : State) => (fun (i : ChainInstr) => decide (chan < 32 ∧ instr.length = 32 ∧ s.fetches chan =
        true ∧ i = chainInstr instr ∧ i.op = 1 ∧ i.moveOk = true ∧ (i.stream.all fun k => !s.streamBusy chan k && !s.streamOff k) = true ∧
        s.moveBlocked i = none)) (chainInstr instr)) (31) ([1, 0, 0, 0, 0, 0, 0, 4] ++ List.replicate 24 0) (sChan { state := .running }) = true) ∧
    ((fun (chan : Nat) (instr : List Byte) (s : State) => (fun (i : ChainInstr) => (fun (k : Nat) => decide (chan < 32 ∧ instr.length = 32 ∧
        s.fetches chan = true ∧ i = chainInstr instr ∧ i.op = 1 ∧ i.moveOk = true ∧ i.stream = some k ∧ (s.streamBusy chan k = true ∨
        s.streamOff k = true))) ((i.stream).getD (0))) (chainInstr instr)) (31) ([1, 1, 3, 0, 0, 0, 0, 64] ++ List.replicate 24 0)
        ({ sChan { state := .running } with host := { (sChan {}).host with bme := true, chans := [(31, { state := .running }), (3, { streams := [0] })] } })
        = true) ∧
    ((fun (chan : Nat) (data : List Byte) (s : State) => decide (chan < 32 ∧ (s.host.chans.get chan).move = none)) (31) ([]) (sChan
        { state := .running }) = true) ∧
    ((fun (chan : Nat) (data : List Byte) (s : State) => (fun (x : Chan) => (fun (i : ChainInstr) => decide (chan < 32 ∧ x = s.host.chans.get
        chan ∧ x.move = some i ∧ x.state = .running ∧ s.host.bme = true ∧ x.gate = none ∧ s.burstBehind chan = false ∧ s.moveBlocked i = none ∧
        i.b3 = 0 ∧ i.dstFixed = false ∧ x.moveRead = i.w4 ∧ x.moveDone < i.w4 ∧ s.writeLen chan i = x.funnel.length ∧ x.moveDone +
        x.funnel.length = i.w4 ∧ i.q16 + i.w4 < 2 ^ 64 ∧ data = [])) ((x.move).getD ({ op := 1, w4 := 4 }))) (s.host.chans.get chan)) (31) ([])
        (sChan { state := .running, move := some { op := 1, w4 := 4 }, moveRead := 4, funnel := [1, 2, 3, 4] }) = true) ∧
    ((fun (chan : Nat) (data : List Byte) (s : State) => (fun (x : Chan) => (fun (i : ChainInstr) => (fun (n : Nat) => decide (chan < 32 ∧ x =
        s.host.chans.get chan ∧ x.move = some i ∧ x.state = .running ∧ s.host.bme = true ∧ x.gate = none ∧ s.burstBehind chan = false ∧
        s.moveBlocked i = none ∧ i.b2 = 0 ∧ i.b3 = 0 ∧ x.moveRead < i.w4 ∧ (i.w4 ≤ x.moveDone ∨ x.funnel.length < s.writeLen chan i) ∧ n =
        s.readLen chan i ∧ 0 < n ∧ data.length = n)) (s.readLen chan i)) ((x.move).getD ({ op := 1, w4 := 4 }))) (s.host.chans.get chan)) (31)
        ([1, 2, 3, 4]) (sChan { state := .running, move := some { op := 1, w4 := 4 } }) = true) ∧
    ((fun (chan : Nat) (data : List Byte) (s : State) => (fun (x : Chan) => (fun (i : ChainInstr) => (fun (k : Nat) => decide (chan < 32 ∧ x =
        s.host.chans.get chan ∧ x.move = some i ∧ x.state = .running ∧ s.host.bme = true ∧ (x.gate.all fun g => s.gateHolds chan g) = true ∧
        s.burstBehind chan = false ∧ s.moveBlocked i = some k)) ((s.moveBlocked i).getD (9))) ((x.move).getD
        ({ op := 1, b2 := 3, q8 := 8, w4 := 16 }))) (s.host.chans.get chan)) (31) ([])
        ({ sChan { state := .running, move := some { op := 1, b2 := 3, q8 := 8, w4 := 16 } } with glob := State.reset.glob }) = true) ∧
    ((fun (chan : Nat) (instr : List Byte) (s : State) => decide (chan < 32 ∧ instr.length = 32 ∧ s.fetches chan = false)) (31) (anInstr 2 0 0
        0) (sChan { state := .waiting }) = true) ∧
    ((fun (chan : Nat) (instr : List Byte) (s : State) => decide (chan < 32 ∧ instr.length = 32 ∧ s.fetches chan = true ∧ ((chainInstr
        instr).op = 2 ∧ (chainInstr instr).loopOk = false ∨ (chainInstr instr).op = 0 ∨ 5 < (chainInstr instr).op))) (31) (anInstr 2 4 0 0)
        (sChan { state := .running }) = true) ∧
    ((fun (chan : Nat) (instr : List Byte) (s : State) => (fun (i : ChainInstr) => (fun (x : Chan) => (fun (l : Option Nat) => decide (chan <
        32 ∧ instr.length = 32 ∧ s.fetches chan = true ∧ i = chainInstr instr ∧ i.op = 2 ∧ i.loopOk = true ∧ x = s.host.chans.get chan ∧ l = (if
        i.w4 = 0 then some 0 else if (x.loops.getD i.b1 none).getD i.w4 = 0 then none else some ((x.loops.getD i.b1 none).getD i.w4 - 1)))) ((if
        i.w4 = 0 then some 0 else if (x.loops.getD i.b1 none).getD i.w4 = 0 then none else some ((x.loops.getD i.b1 none).getD i.w4 - 1))))
        (s.host.chans.get chan)) (chainInstr instr)) (31) (anInstr 2 0 0 0) (sChan { state := .running, pc := 64 }) = true) ∧
    ((fun (chan : Nat) (instr : List Byte) (s : State) => decide (chan < 32 ∧ instr.length = 32 ∧ s.fetches chan = false)) (31) (anInstr 3 0 0
        0) (sChan { state := .waiting }) = true) ∧
    ((fun (chan : Nat) (instr : List Byte) (s : State) => decide (chan < 32 ∧ instr.length = 32 ∧ s.fetches chan = true ∧ ((chainInstr
        instr).op = 3 ∧ (chainInstr instr).waitOk = false ∨ (chainInstr instr).op = 0 ∨ 5 < (chainInstr instr).op))) (31) (anInstr 3 4 0 0)
        (sChan { state := .running }) = true) ∧
    ((fun (chan : Nat) (instr : List Byte) (s : State) => (fun (i : ChainInstr) => (fun (x : Chan) => decide (chan < 32 ∧ instr.length = 32 ∧
        s.fetches chan = true ∧ i = chainInstr instr ∧ i.op = 3 ∧ i.waitOk = true ∧ (i.b2 = 0 → s.streamBusy chan i.b3 = false ∧ s.streamOff
        i.b3 = false) ∧ x = s.host.chans.get chan)) (s.host.chans.get chan)) (chainInstr instr)) (31) (anInstr 3 0 1 0) (sChan
        { state := .running }) = true) ∧
    ((fun (chan : Nat) (instr : List Byte) (s : State) => (fun (i : ChainInstr) => decide (chan < 32 ∧ instr.length = 32 ∧ s.fetches chan =
        true ∧ i = chainInstr instr ∧ i.op = 3 ∧ i.waitOk = true ∧ i.b2 = 0 ∧ (s.streamBusy chan i.b3 = true ∨ s.streamOff i.b3 = true)))
        (chainInstr instr)) (31) (anInstr 3 0 0 8) ({ sChan { state := .running } with glob := State.reset.glob }) = true) ∧
    ((fun (chan : Nat) (s : State) => (fun (x : Chan) => (fun (i : ChainInstr) => decide (chan < 32 ∧ x = s.host.chans.get chan ∧ x.state =
        .waiting ∧ x.wait = some i ∧ s.gateHolds chan i.gate = true)) ((x.wait).getD ({ op := 3, b2 := 2 }))) (s.host.chans.get chan)) (31)
        (sChan { state := .waiting, wait := some { op := 3, b2 := 2 } }) = true) ∧
    ((fun (chan : Nat) (s : State) => (fun (g : Gate) => decide (chan < 32 ∧ (s.host.chans.get chan).state = .waiting ∧ (s.host.chans.get
        chan).wait = none ∧ (s.host.chans.get chan).gate = some g ∧ s.gateHolds chan g = true)) (((s.host.chans.get chan).gate).getD
        ({ kind := 2 }))) (31) (sChan { state := .waiting, gate := some { kind := 2 } }) = true) ∧
    ((fun (chan : Nat) (s : State) => (fun (x : Chan) => decide (chan < 32 ∧ x = s.host.chans.get chan ∧ (x.state ≠ .waiting ∨
        (match x.wait with | some i => s.gateHolds chan i.gate | none => x.gate.any fun g => s.gateHolds chan g) = false))) (s.host.chans.get
        chan)) (31) (sChan { state := .waiting, gate := some { kind := 1 } }) = true) ∧
    ((fun (chan : Nat) (s : State) => (fun (n : Nat) => decide (chan < 32 ∧ (s.host.chans.get chan).deadline = some n ∧ (s.host.chans.get
        chan).state = .waiting ∧ s.host.bme = true)) (((s.host.chans.get chan).deadline).getD (9))) (31) (sChan
        { state := .waiting, deadline := some 9 }) = true) ∧
    ((fun (chan : Nat) (s : State) => decide (chan < 32 ∧ ((s.host.chans.get chan).deadline = none ∨ (s.host.chans.get chan).state ≠ .waiting ∨
        s.host.bme = false))) (31) (sChan {}) = true) ∧
    ((fun (chan : Nat) (instr : List Byte) (s : State) => decide (chan < 32 ∧ instr.length = 32 ∧ s.fetches chan = false)) (31) (anInstr 4 0 0
        0) (sChan { state := .waiting }) = true) ∧
    ((fun (chan : Nat) (instr : List Byte) (s : State) => decide (chan < 32 ∧ instr.length = 32 ∧ s.fetches chan = true ∧ ((chainInstr
        instr).op = 4 ∧ (chainInstr instr).signalOk = false ∨ (chainInstr instr).op = 0 ∨ 5 < (chainInstr instr).op))) (31) (anInstr 4 8 0 0)
        (sChan { state := .running }) = true) ∧
    ((fun (chan : Nat) (instr : List Byte) (s : State) => (fun (i : ChainInstr) => (fun (x : Chan) => decide (chan < 32 ∧ instr.length = 32 ∧
        s.fetches chan = true ∧ i = chainInstr instr ∧ i.op = 4 ∧ i.signalOk = true ∧ x = s.host.chans.get chan ∧ (s.fence.marks.any fun m =>
        decide (m.stream = .cq chan)) = false ∧ x.marks = [])) (s.host.chans.get chan)) (chainInstr instr)) (31) (anInstr 4 6 0 0) (sChan
        { state := .running }) = true) ∧
    ((fun (chan : Nat) (instr : List Byte) (s : State) => decide (chan < 32 ∧ instr.length = 32 ∧ s.fetches chan = false)) (31) (anInstr 5 0 0
        0) (sChan { state := .waiting }) = true) ∧
    ((fun (chan : Nat) (instr : List Byte) (s : State) => decide (chan < 32 ∧ instr.length = 32 ∧ s.fetches chan = true ∧ ((chainInstr
        instr).op = 5 ∧ (chainInstr instr).endOk = false ∨ (chainInstr instr).op = 0 ∨ 5 < (chainInstr instr).op))) (31) (anInstr 5 8 0 0)
        (sChan { state := .running }) = true) ∧
    ((fun (chan : Nat) (instr : List Byte) (s : State) => (fun (i : ChainInstr) => (fun (x : Chan) => decide (chan < 32 ∧ instr.length = 32 ∧
        s.fetches chan = true ∧ i = chainInstr instr ∧ i.op = 5 ∧ i.endOk = true ∧ x = s.host.chans.get chan ∧ (s.fence.marks.any fun m =>
        decide (m.stream = .cq chan)) = false ∧ x.marks = [])) (s.host.chans.get chan)) (chainInstr instr)) (31) (anInstr 5 4 0 0) (sChan
        { state := .running }) = true) ∧
    ((fun (chan : Nat) (s : State) => (fun (y : Chan) => decide (chan < 32 ∧ s.host.bme = true ∧ y = s.host.chans.get chan ∧ y.cqFull = false ∧
        y.held ≠ [])) (s.host.chans.get chan)) (31) (sChan { cqSize := 8, held := [{}] }) = true) ∧
    ((fun (chan : Nat) (s : State) => (fun (y : Chan) => decide (chan < 32 ∧ y = s.host.chans.get chan ∧ (s.host.bme = false ∨ y.cqFull = true
        ∨ y.held = []))) (s.host.chans.get chan)) (31) (sChan {}) = true) ∧
    ((fun (chan : Nat) (value : BitVec 32) (s : State) => decide (chan < 32 ∧ dist32 (s.host.chans.get chan).cqRd value ≤ (s.host.chans.get
        chan).cqFill)) (31) (1) (sChan { cqSize := 8, cqWr := 1 }) = true) ∧
    ((fun (chan : Nat) (value : BitVec 32) (s : State) => decide (chan < 32 ∧ (s.host.chans.get chan).cqFill < dist32 (s.host.chans.get
        chan).cqRd value)) (31) (2) (sChan { cqSize := 8, cqWr := 1 }) = true) ∧
    ((fun (chan : Nat) (s : State) => (fun (y : Chan) => decide (chan < 32 ∧ y = s.host.chans.get chan ∧ y.live = true ∧ y.watchdog ≠ 0))
        (s.host.chans.get chan)) (31) (sChan { state := .running, watchdog := 1 }) = true) ∧
    ((fun (chan : Nat) (s : State) => decide (chan < 32 ∧ ((s.host.chans.get chan).live = false ∨ (s.host.chans.get chan).watchdog = 0))) (31)
        (sChan {}) = true) ∧
    ((fun (chan : Nat) (s : State) => (fun (y : Chan) => decide (chan < 32 ∧ y = s.host.chans.get chan ∧ y.live = true ∧ y.spent = true ∧
        y.state ≠ .stalled)) (s.host.chans.get chan)) (31) (sChan { state := .running, budget := 3, budgetUsed := 3 }) = true) ∧
    ((fun (chan : Nat) (s : State) => (fun (y : Chan) => decide (chan < 32 ∧ y = s.host.chans.get chan ∧ (y.live = false ∨ y.spent = false ∨
        y.state = .stalled))) (s.host.chans.get chan)) (31) (sChan { state := .running }) = true) ∧
    ((fun (chan : Nat) (timeout : Bool) (s : State) => decide (chan < 32 ∧ (s.host.chans.get chan).live = true ∧ (s.host.chans.get chan).state
        = .running ∧ s.host.bme = true)) (31) (true) (sChan { state := .running }) = true) ∧
    ((fun (chan : Nat) (timeout : Bool) (s : State) => decide (chan < 32 ∧ ((s.host.chans.get chan).live = false ∨ (s.host.chans.get
        chan).state ≠ .running ∨ s.host.bme = false))) (31) (true) (sChan {}) = true) := by
  and_intros
  all_goals decide +kernel

/-- The hypotheses of each clause of HostRows can be met. -/
theorem test_meets_HostRows :
    ((fun (on : Bool) (s : State) => decide (on = true ∧ s.host.bme = false)) (true) (sRun) = true) ∧
    ((fun (on : Bool) (s : State) => decide (on = false ∧ s.host.bme = true)) (false) (sChan {}) = true) ∧
    ((fun (on : Bool) (s : State) => decide (on = s.host.bme)) (true) (sChan {}) = true) ∧
    ((fun (queue : Nat) (s : State) => (fun (b : List Byte) => decide (queue < 4 ∧ b = (s.host.ctx.get queue).bytes ∧ (b.length < 32 ∨ b.length
        < ctxRecordLen b ∨ s.pdOn 3 = false))) ((s.host.ctx.get queue).bytes)) (3) (sOn) = true) ∧
    ((fun (queue : Nat) (s : State) => (fun (b : List Byte) => (fun (d : List Byte) => decide (queue < 4 ∧ b = (s.host.ctx.get queue).bytes ∧
        32 ≤ b.length ∧ ctxRecordLen b ≤ b.length ∧ s.pdOn 3 = true ∧ (b.getD 1 0).toNat = 1 ∧ d = slice b 32 (fb2 b 2))) (slice b 32 (fb2 b
        2))) ((s.host.ctx.get queue).bytes)) (3)
        ({ sOn with host := { sOn.host with ctx := [(3, { bytes := [0, 1] ++ List.replicate 126 0 })] } }) = true) ∧
    ((fun (queue : Nat) (s : State) => (fun (b : List Byte) => (fun (d : List Byte) => decide (queue < 4 ∧ b = (s.host.ctx.get queue).bytes ∧
        32 ≤ b.length ∧ ctxRecordLen b ≤ b.length ∧ s.pdOn 3 = true ∧ (b.getD 1 0).toNat = 0 ∧ d = slice b 32 (fb2 b 2))) (slice b 32 (fb2 b
        2))) ((s.host.ctx.get queue).bytes)) (3) ({ sOn with host := { sOn.host with ctx := [(3, { bytes := List.replicate 128 0 })] } }) = true) ∧
    ((fun (index : Nat) (s : State) => (fun (f : SlowFrame) => decide (s.parse.slow[index]? = some f ∧ ((s.parse.slow.take index).any fun g =>
        decide (g.port = f.port ∧ g.reason = f.reason)) = false ∧ s.slowCores = false)) ((s.parse.slow[index]?).getD ({}))) (0)
        ({ sRun with parse := { sRun.parse with slow := [{}] } }) = true) ∧
    ((fun (index : Nat) (s : State) => (fun (f : SlowFrame) => decide (s.parse.slow[index]? = some f ∧ ((s.parse.slow.take index).any fun g =>
        decide (g.port = f.port ∧ g.reason = f.reason)) = false ∧ s.slowCores = true ∧ s.terminates f = true)) ((s.parse.slow[index]?).getD
        ({ reason := 7 }))) (0)
        ({ sRun with fw := { sRun.fw with cores := (List.range 14).map fun n => (n, { state := 1 }) }, ptp := { sRun.ptp with ports := [(0, { inst := 0 })] }, parse := { sRun.parse with slow := [{ reason := 7 }] } })
        = true) ∧
    ((fun (index : Nat) (s : State) => (fun (f : SlowFrame) => (fun (q : Nat) => decide (s.parse.slow[index]? = some f ∧ ((s.parse.slow.take
        index).any fun g => decide (g.port = f.port ∧ g.reason = f.reason)) = false ∧ s.slowCores = true ∧ s.terminates f = false ∧ q =
        s.host.crxMap.toNat / 4 ^ f.reason % 4 ∧ s.crxRoom q < (crxRecord f).length)) (s.host.crxMap.toNat / 4 ^ f.reason % 4))
        ((s.parse.slow[index]?).getD ({}))) (0) (sRoom (List.replicate 524288 0)) = true) ∧
    ((fun (index : Nat) (s : State) => (fun (f : SlowFrame) => (fun (q : Nat) => decide (s.parse.slow[index]? = some f ∧ ((s.parse.slow.take
        index).any fun g => decide (g.port = f.port ∧ g.reason = f.reason)) = false ∧ s.slowCores = true ∧ s.terminates f = false ∧ q =
        s.host.crxMap.toNat / 4 ^ f.reason % 4 ∧ (crxRecord f).length ≤ s.crxRoom q)) (s.host.crxMap.toNat / 4 ^ f.reason % 4))
        ((s.parse.slow[index]?).getD ({}))) (0)
        ({ sRun with fw := { sRun.fw with cores := (List.range 14).map fun n => (n, { state := 1 }) }, parse := { sRun.parse with slow := [{}] } })
        = true) := by
  and_intros
  all_goals first | (simp only [sRoom_room, List.length_replicate]; decide +kernel) | decide +kernel

/-- The hypotheses of each clause of EventAndRegisterRows can be met. -/
theorem test_meets_EventAndRegisterRows :
    ((fun (vec : Nat) (s : State) => (fun (n : Nat) => decide (vec < 64 ∧ (s.events.vecs.get vec).timer = some n)) (((s.events.vecs.get
        vec).timer).getD (0))) (63) (sVec { timer := some 0, held := 2, masked := false }) = true) ∧
    ((fun (vec : Nat) (s : State) => decide (vec < 64 ∧ (s.events.vecs.get vec).timer = none)) (63) (sVec {}) = true) ∧
    ((fun (vec : Nat) (s : State) => (fun (y : Vec) => decide (vec < 64 ∧ y = s.events.vecs.get vec ∧ y.pba = true ∧ s.events.msixEnable = true
        ∧ s.events.fnMask = false ∧ y.masked = false ∧ s.host.bme = true)) (s.events.vecs.get vec)) (63) (sVec { pba := true, masked := false })
        = true) ∧
    ((fun (vec : Nat) (s : State) => (fun (y : Vec) => decide (vec < 64 ∧ y = s.events.vecs.get vec ∧ (y.pba = false ∨ s.events.msixEnable =
        false ∨ s.events.fnMask = true ∨ y.masked = true ∨ s.host.bme = false))) (s.events.vecs.get vec)) (63) (sVec {}) = true) ∧
    ((fun (reg : Nat) (value : BitVec 32) (s : State) => decide (reg < 32)) (31) (5) (sRun) = true) ∧
    ((fun (vec : Nat) (value : BitVec 32) (s : State) => (fun (n : Nat) => (fun (a : Nat) => decide (vec < 64 ∧ n = value.toNat % 512 ∧ a =
        value.toNat / 65536 ∧ 1 ≤ n ∧ n ≤ 256 ∧ (2 ≤ n → a ≠ 0) ∧ ((s.events.vecs.get vec).held = 0 ∨ (s.events.vecs.get vec).held < n)))
        (value.toNat / 65536)) (value.toNat % 512)) (63) (0x00050100) (sRun) = true) ∧
    ((fun (vec : Nat) (value : BitVec 32) (s : State) => (fun (n : Nat) => (fun (a : Nat) => decide (vec < 64 ∧ n = value.toNat % 512 ∧ a =
        value.toNat / 65536 ∧ 1 ≤ n ∧ n ≤ 256 ∧ (2 ≤ n → a ≠ 0) ∧ n ≤ (s.events.vecs.get vec).held)) (value.toNat / 65536)) (value.toNat % 512))
        (63) (0x00050002) (sVec { held := 3 }) = true) ∧
    ((fun (vec : Nat) (value : BitVec 32) (s : State) => decide (vec < 64 ∧ (value.toNat % 512 = 0 ∨ 256 < value.toNat % 512 ∨ 2 ≤ value.toNat
        % 512 ∧ value.toNat / 65536 = 0))) (63) (257) (sRun) = true) ∧
    ((fun (value : BitVec 32) (s : State) => decide (dist32 s.events.logRd value ≤ dist32 s.events.logRd s.events.logWr)) (1)
        ({ sRun with events := { sRun.events with logWr := 1 } }) = true) ∧
    ((fun (value : BitVec 32) (s : State) => decide (dist32 s.events.logRd s.events.logWr < dist32 s.events.logRd value)) (2)
        ({ sRun with events := { sRun.events with logWr := 1 } }) = true) ∧
    ((fun (s : State) => decide (s.stats.busy = false ∧ s.stats.armed = false)) (sTick) = true) ∧
    ((fun (s : State) => decide ((s.stats.busy || s.stats.armed) = true)) ({ sTick with stats := { sTick.stats with armed := true } }) = true) ∧
    ((fun (s : State) => decide (s.stats.busy = false ∧ s.stats.armed = false)) (sTick) = true) ∧
    ((fun (s : State) => decide ((s.stats.busy || s.stats.armed) = true)) ({ sTick with stats := { sTick.stats with busy := true } }) = true) ∧
    ((fun (s : State) => decide (s.stats.busy = true)) ({ sTick with stats := { sTick.stats with busy := true } }) = true) ∧
    ((fun (s : State) => decide (s.stats.busy = false)) (sTick) = true) ∧
    ((fun (win : Win) (req : ReadReq) (s : State) => decide (win = .bar0 ∧ req.offset = 0 ∧ req.enables = [true, true, true, true])) (.bar0)
        ({ offset := 0, enables := [true, true, true, true] }) (sTick) = true) ∧
    ((fun (win : Win) (req : ReadReq) (a b c d : Bool) (s : State) => (fun (r : Nat) => decide (req.offset + 4 ≤ win.size ∧ req.offset % 4 = 0
        ∧ req.enables = [a, b, c, d] ∧ (a || b || c || d) = true ∧ r = (s.readReg win req.offset).1)) ((s.readReg win req.offset).1)) (.bar2)
        ({ offset := 8, enables := [true, false, true, true] }) (true) (false) (true) (true) (sTick) = true) ∧
    ((fun (win : Win) (req : ReadReq) (s : State) => decide (req.offset + req.enables.length ≤ win.size ∧ req.offset % 4 = 0 ∧ req.enables =
        [false, false, false, false])) (.bar0) ({ offset := 0x20028, enables := [false, false, false, false] }) (sTick) = true) ∧
    ((fun (win : Win) (req : ReadReq) (s : State) => (fun (u : State) => decide (req.offset + 8 ≤ win.size ∧ req.offset % 4 = 0 ∧ req.enables =
        List.replicate 8 true ∧ u = (s.readReg win req.offset).2)) ((s.readReg win req.offset).2)) (.bar0)
        ({ offset := 0x20010, enables := List.replicate 8 true }) (sTick) = true) ∧
    ((fun (win : Win) (req : ReadReq) (m : Nat) (r : BitVec 32) (s : State) => decide (m < 8 ∧ win = .bar0 ∧ req.enables = [true, true, true,
        true] ∧ (req.offset = 0x10020 + 0x2000 * m ∧ r = (s.mbs.get m).submit ∨ req.offset = 0x10024 + 0x2000 * m ∧ r = (s.mbs.get m).fetch ∨
        req.offset = 0x10028 + 0x2000 * m ∧ r = (s.mbs.get m).done))) (.bar0) ({ offset := 0x1E024, enables := [true, true, true, true] }) (7)
        (0) (sTick) = true) ∧
    ((fun (win : Win) (req : ReadReq) (k : Nat) (r : BitVec 32) (s : State) => decide (k < 32 ∧ win = .bar0 ∧ req.enables = [true, true, true,
        true] ∧ (req.offset = 0x30100 + 4 * k ∧ r = s.events.pending.extractLsb' (32 * k) 32 ∨ req.offset = 0x30200 + 4 * k ∧ r =
        s.events.mask.extractLsb' (32 * k) 32))) (.bar0) ({ offset := 0x3027C, enables := [true, true, true, true] }) (31) (4294967295)
        ({ sTick with events := { sTick.events with mask := BitVec.allOnes 1024 } }) = true) ∧
    ((fun (win : Win) (req : ReadReq) (s : State) => decide (win = .bar0 ∧ req.offset = 0x20028 ∧ req.enables = [true, true, true, true] ∧
        s.cycleNow.before = [])) (.bar0) ({ offset := 0x20028, enables := [true, true, true, true] })
        ({ sTick with time := { sTick.time with refused := 7 } }) = true) ∧
    ((fun (win : Win) (offset : Nat) (data : List (Option Byte)) (w : BitVec 32) (s : State) => decide (offset + 4 ≤ win.size ∧ offset % 4 = 0
        ∧ data = (leBytes 4 w.toNat).map some)) (.bar2) (0) ([some 0x78, some 0x56, some 0x34, some 0x12]) (0x12345678) (sTick) = true) ∧
    ((fun (win : Win) (offset : Nat) (data : List (Option Byte)) (a b : BitVec 32) (s : State) => decide (offset + 8 ≤ win.size ∧ offset % 4 =
        0 ∧ data = (leBytes 4 a.toNat ++ leBytes 4 b.toNat).map some)) (.bar0) (0x18) ((leBytes 4 1 ++ leBytes 4 2).map some) (1) (2) (sTick) =
        true) ∧
    ((fun (win : Win) (offset : Nat) (data : List (Option Byte)) (w : BitVec 32) (s : State) => decide (win = .bar0 ∧ offset = 0x1C ∧ data =
        (leBytes 4 w.toNat).map some)) (.bar0) (0x1C) ((leBytes 4 0x12345678).map some) (0x12345678) (sTick) = true) ∧
    ((fun (win : Win) (offset : Nat) (data : List (Option Byte)) (w : BitVec 32) (k : Nat) (s : State) => decide (win = .bar0 ∧ k < 32 ∧ offset
        = 0x30200 + 4 * k ∧ data = (leBytes 4 w.toNat).map some)) (.bar0) (0x3027C) ((leBytes 4 5).map some) (5) (31) (sTick) = true) ∧
    ((fun (win : Win) (offset : Nat) (data : List (Option Byte)) (a : Byte) (s : State) => decide (offset % 4 = 0 ∧ data = [some a] ∧ (win =
        .bar0 ∧ offset < 0x4000000 ∧ bar0Listed offset = true ∨ win = .bar2 ∧ offset < 0x10000000 ∧ bar2Listed offset = true))) (.bar0) (0x1C)
        ([some 1]) (1) (sTick) = true) ∧
    ((fun (win : Win) (offset : Nat) (data : List (Option Byte)) (s : State) => decide (offset + data.length ≤ win.size ∧ (win = .pf1 ∨ offset
        % 4 = 0 ∧ 0 < data.length ∧ data.length < 4 ∧ (win = .bar0 ∧ bar0Listed offset = false ∨ win = .bar2 ∧ bar2Listed offset = false))))
        (.pf1) (0) ([some 1, some 2]) (sTick) = true) := by
  and_intros
  all_goals decide +kernel

/-- The hypotheses of each clause of CompletionsOfSetupCommands can be met. -/
theorem test_meets_CompletionsOfSetupCommands :
    ((fun (src : CmdSrc) (bytes : List Byte) (s : State) => decide (s.acts (.nop src bytes) src 0x0000 = true)) (.direct) ([1, 2])
        (State.reset) = true) ∧
    ((fun (src : CmdSrc) (s : State) => decide (s.acts (.fence src) src 0x0001 = true) && decide (s.earlierDone (s.earlierOf src) = true) &&
        decide (fromJournal src = false ∧ (s.pair.enable && decide (s.pair.role = .active) && s.partnerStandby) = false)) (.direct)
        (State.reset) = true) ∧
    ((fun (src : CmdSrc) (on : Bool) (domain : Nat) (s : State) => decide (s.acts (.sysPowerDomain src on domain) src 0x0101 = true) && decide
        (2 ≤ domain ∧ domain ≤ 9 ∧ s.pdOn domain = false ∧ on = true) && decide (domain = 5 → s.fuses.orderCode.skein = true) && decide
        ((domNeeds domain).all s.pdOn = true ∧ s.suppliesOk domain = true)) (.direct) (true) (2)
        ({ sOn with glob := { sOn.glob with pdOn := 0x3FB } }) = true) ∧
    ((fun (src : CmdSrc) (s : State) => decide (s.acts (.sysGetStatus src) src 0x0102 = true)) (.mailbox 0) (State.reset) = true) ∧
    ((fun (src : CmdSrc) (param period region base length mask : Nat) (s : State) => decide (s.acts (.sysSetBoard src param period region base
        length mask) src 0x0103 = true) && decide (src = .config ∧ param = 0 ∧ msU ≤ period ∧ period ≤ 1000 * msU ∧ region = 0 ∧ base = 0 ∧
        length = 0 ∧ mask = 0)) (.config) (0) (msU) (0) (0) (0) (0) (State.reset) = true) ∧
    ((fun (src : CmdSrc) (kind : Nat) (s : State) => decide (s.acts (.sysReset src kind) src 0x0110 = true) && decide (kind < 3) && decide
        ((s.resetsNow.any fun o => decide (resetSize (2 - kind) ≤ resetSize o)) = false)) (.direct) (2) (sRun) = true) ∧
    ((fun (src : CmdSrc) (s : State) => decide (s.acts (.sysGetPower src) src 0x0111 = true)) (.direct) (State.reset) = true) ∧
    ((fun (src : CmdSrc) (s : State) => decide (s.acts (.sysGetThermal src) src 0x0112 = true)) (.direct) (State.reset) = true) ∧
    ((fun (src : CmdSrc) (warn throttleAt hyst : Int) (fraction : Nat) (s : State) => decide (s.acts (.sysConfigureThermal src warn throttleAt
        hyst fraction) src 0x0113 = true) && decide (800 ≤ warn ∧ warn ≤ throttleAt ∧ throttleAt ≤ s.tjMax ∧ warn % 4 = 0 ∧ throttleAt % 4 = 0)
        && decide (16 ≤ hyst ∧ hyst ≤ 160 ∧ 10 ≤ fraction ∧ fraction ≤ 100)) (.direct) (800) (1680) (16) (100) (State.reset) = true) ∧
    ((fun (src : CmdSrc) (sensor mark : Nat) (s : State) => decide (s.acts (.sysSetSensor src sensor mark) src 0x0114 = true) && decide (sensor
        < 16 ∧ mark = 1)) (.direct) (15) (1) (State.reset) = true) ∧
    ((fun (src : CmdSrc) (target addr length : Nat) (data : Option (List Byte)) (s : State) => (fun (l : List Byte) => decide (target = 16 ∧
        addr % 4 = 0 ∧ 576 ≤ length ∧ length ≤ 16777216 ∧ data = some l ∧ l.length = length)) ((data).getD (List.replicate 576 0))) (.direct)
        (16) (4) (576) (some (List.replicate 576 0)) (State.reset) = true) ∧
    ((fun (src : CmdSrc) (slot : Nat) (s : State) => decide (s.acts (.imgValidate src slot) src 0x0202 = true) && decide (slot < 16 ∧
        ((s.fw.overlays.get slot).state = .loaded ∨ (s.fw.overlays.get slot).state = .valid) ∧ s.fence.waiting = []) && decide (fromJournal src
        = true ∨ (s.clearStage slot).trial s.contracts.table slot 0 (s.fw.overlays.get slot).img.cmds = none)) (.direct) (3) (sSlot .loaded
        false 0) = true) ∧
    ((fun (src : CmdSrc) (slot mode : Nat) (t : KTime) (s : State) => decide (s.acts (.imgArm src slot mode t) src 0x0203 = true) && decide
        (slot < 16 ∧ mode = 1 ∧ t.ns < 1000000000 ∧ s.ktime + msU ≤ KTime.units t ∧ (KTime.units t : Int) ≤ s.ktime + 1000000 * secU) && decide
        ((s.fw.overlays.get slot).state = .valid ∧ s.armedSlot = none ∧ s.fence.waiting = [])) (.direct) (3) (1) ({ sec := 1000 }) (sSlot .valid
        false 0) = true) ∧
    ((fun (src : CmdSrc) (slot : Nat) (s : State) => decide (s.acts (.imgDisarm src slot) src 0x0204 = true) && decide (slot < 16 ∧
        (s.fw.overlays.get slot).state = .armed ∧ (s.fw.overlays.get slot).timeMode = true) && decide (s.wTime < (s.fw.overlays.get slot).t ∧
        s.fence.waiting = [])) (.direct) (3) (sSlot .armed true 1000) = true) ∧
    ((fun (src : CmdSrc) (slot : Nat) (s : State) => decide (s.acts (.imgGetStatus src slot) src 0x0205 = true) && decide (slot < 16))
        (.direct) (3) (sSlot .armed true 1000) = true) ∧
    ((fun (src : CmdSrc) (slot : Nat) (s : State) => decide (s.acts (.imgErase src slot) src 0x0206 = true) && decide (slot < 16 ∧
        (s.fw.overlays.get slot).state ≠ .armed ∧ s.fence.waiting = [])) (.direct) (15) (State.reset) = true) ∧
    ((fun (src : CmdSrc) (port mode width fec maxFrame : Nat) (s : State) => decide (s.acts (.portConfigure src port mode width fec maxFrame)
        src 0x0301 = true) && decide (port < 256 ∧ port % (max 1 width) = 0 ∧ mode < 9 ∧ (width = 1 ∨ width = 2 ∨ width = 4 ∨ width = 8) ∧
        widthOk mode width = true) && decide ((laneRate mode width fec).isSome = true ∧ 1518 ≤ maxFrame ∧ maxFrame ≤ 16384 ∧ s.portsOverlap port
        width = false) && decide ((((List.range (max width (if (s.ports.get port).configured then (s.ports.get port).width else 1))).map (port +
        ·)).all fun l => decide ((s.lanes.get l).state = .down ∨ (s.lanes.get l).state = .off)) = true) && decide ((s.octetRates (port / 8)
        port).length < 2 ∨ (s.octetRates (port / 8) port).contains ((laneRate mode width fec).getD 0) = true)) (.direct) (8) (7) (1) (0) (1518)
        ((sPort 7 .down)) = true) ∧
    ((fun (src : CmdSrc) (port : Nat) (s : State) => decide (s.acts (.portCastOn src port) src 0x0302 = true) && decide (port < 256 ∧
        (s.ports.get port).configured = true ∧ (s.portState port = .casting ∨ s.portState port = .proving ∨ s.portState port = .up))) (.direct)
        (8) (sPort 0 .up) = true) ∧
    ((fun (src : CmdSrc) (port drain : Nat) (s : State) => decide (s.acts (.portBindOff src port drain) src 0x0303 = true) && decide
        (s.pair.waits = [] ∧ (s.pair.enable = true → s.pair.role = .standby → s.pair.linkUp = true ∧ s.lossSigns < 2)) && decide (port < 256 ∧
        drain ≤ 100 * msU ∧ ((s.ports.get port).configured = false ∨ s.portState port = .down ∨ s.portState port = .off ∨ s.portState port =
        .swatch))) (.direct) (255) (0) (sPort 0 .up) = true) ∧
    ((fun (src : CmdSrc) (port castTimeout holdDown flapLimit flapWindow recast : Nat) (s : State) => decide (s.acts (.portSetPolicy src port
        castTimeout holdDown flapLimit flapWindow recast) src 0x0304 = true) && decide (port < 256 ∧ 10 * msU ≤ castTimeout ∧ castTimeout ≤ 10 *
        secU ∧ msU ≤ holdDown ∧ holdDown ≤ 10 * secU) && decide (1 ≤ flapLimit ∧ flapLimit ≤ 255 ∧ 10 * msU ≤ flapWindow ∧ flapWindow ≤ 60 *
        secU ∧ recast < 2)) (.direct) (255) (10 * msU) (10 * secU) (255) (60 * secU) (1) (State.reset) = true) ∧
    ((fun (src : CmdSrc) (port slots markInterval outlier rangeTimeout : Nat) (s : State) => decide (s.acts (.selvedgeConfigure src port slots
        markInterval outlier rangeTimeout) src 0x030C = true) && decide (port < 256 ∧ (slots = 1 ∨ slots = 2 ∨ slots = 4) ∧ 16 ≤ markInterval ∧
        markInterval ≤ 4096 ∧ 6554 ≤ outlier ∧ outlier ≤ 100 * nsU ∧ tenthsOk outlier = true) && decide (msU ≤ rangeTimeout ∧ rangeTimeout ≤
        1000 * msU ∧ (s.ports.get port).configured = true ∧ (s.ports.get port).isSelvedge = true) && decide (slots = (s.selv.get port).slots ∨
        s.portState port = .down)) (.direct) (8) (4) (16) (655360) (msU) (sPort 7 .down) = true) ∧
    ((fun (src : CmdSrc) (port : Nat) (s : State) => (fun (n : Nat) => (s.acts (.selvedgeGetRange src port) src 0x030D = true) ∧ (n = satAdd 32
        (s.lanes.get port).ordered (if s.portUp port then Config.orderedSets s.free port else 0)) ∧ (port < 256 ∧ (s.ports.get port).configured
        = true ∧ (s.ports.get port).isSelvedge = true)) (satAdd 32 (s.lanes.get port).ordered (if s.portUp port then Config.orderedSets s.free
        port else 0))) (.direct) (8) (sPort 8 .up)) ∧
    ((fun (src : CmdSrc) (module bank page offset length : Nat) (s : State) => (fun (l : List Byte) => (s.acts (.moduleRead src module bank
        page offset length) src 0x030E = true) ∧ (l = (List.range length).map fun i => Config.freeByte (65536 * (s.free + 1) + i)) ∧ (module <
        256 ∧ bank < 256 ∧ page < 256 ∧ offset < 256 ∧ 1 ≤ length ∧ length ≤ 128 ∧ offset + length ≤ 256 ∧ (128 ≤ offset ∨ offset + length ≤
        128)) ∧ (s.moduleThere module = true)) ((List.range length).map fun i => Config.freeByte (65536 * (s.free + 1) + i))) (.direct) (255)
        (0) (0) (128) (1) (sModule)) ∧
    ((fun (src : CmdSrc) (module bank page offset length : Nat) (data : List Byte) (s : State) => decide (s.acts (.moduleWrite src module bank
        page offset length data) src 0x030F = true) && decide (module < 256 ∧ bank < 256 ∧ page < 256 ∧ offset < 256 ∧ 1 ≤ length ∧ length ≤ 8 ∧
        offset / 8 = (offset + length - 1) / 8) && decide (s.moduleThere module = true)) (.direct) (255) (0) (3) (248) (8) ([1, 2]) (sModule) =
        true) ∧
    ((fun (src : CmdSrc) (lane : Nat) (s : State) => decide (s.acts (.laneGetStatus src lane) src 0x0305 = true) && decide (lane < 264))
        (.direct) (263) (State.reset) = true) ∧
    ((fun (src : CmdSrc) (lane : Nat) (s : State) => (fun (p : Nat) => decide (s.acts (.laneGetLatency src lane) src 0x0306 = true) && decide
        (lane < 264 ∧ s.portOf lane = some p ∧ (s.lanes.get lane).state = .up)) ((s.portOf lane).getD (8))) (.direct) (8) (sPort 0 .up) = true) ∧
    ((fun (src : CmdSrc) (sect : Nat) (s : State) => (fun (l : List Byte) => decide (sect < 514 ∧ s.tableSection sect = some l))
        ((s.tableSection sect).getD ([1, 2, 3]))) (.direct) (32) (State.reset.updOverlay 1 fun o =>
        { o with state := .loaded, img := { tables := [(0, [1, 2, 3])] } }) = true) ∧
    ((fun (src : CmdSrc) (lane : Nat) (s : State) => decide (s.acts (.laneRelatch src lane) src 0x0308 = true) && decide (lane = 0xFFFF))
        (.direct) (0xFFFF) (sPort 0 .up) = true) ∧
    ((fun (src : CmdSrc) (clear : Bool) (lane action txPattern rxPattern loopback injKind injArg : Nat) (s : State) => decide (s.acts
        (.laneSwatch src clear lane action txPattern rxPattern loopback injKind injArg) src 0x0309 = true) && decide (lane < 264 ∧ action = 0 ∧
        clear = false ∧ s.patternOk lane txPattern = true ∧ s.patternOk lane rxPattern = true ∧ loopback < 2 ∧ injKind = 0 ∧ injArg = 0) &&
        decide (lane < 256 ∨ s.pair.linkUp = false) && decide ((s.lanes.get lane).state = .down ∨ (s.lanes.get lane).state = .fault ∨
        (s.lanes.get lane).state = .held ∨ (s.lanes.get lane).state = .swatch)) (.direct) (false) (8) (0) (8) (5) (1) (0) (0) (sPort 0 .down) =
        true) ∧
    ((fun (src : CmdSrc) (lane vga dwell : Nat) (s : State) => decide (s.acts (.laneSweep src lane vga dwell) src 0x030A = true) && decide
        (lane < 264 ∧ vga < 64 ∧ msU ≤ dwell ∧ dwell ≤ 1000 * msU ∧ (lane < 256 ∨ s.pair.linkUp = false)) && decide ((s.lanes.get lane).state =
        .swatch ∧ (s.lanes.get lane).swatch.sweeping = false ∧ (s.lanes.get lane).swatch.locked = true)) (.direct) (8) (63) (1000 * msU) ((sPort
        0 .swatch).updLane 8 fun x => { x with swatch := { x.swatch with locked := true } }) = true) ∧
    ((fun (src : CmdSrc) (lane page : Nat) (s : State) => decide (s.acts (.laneSweepRead src lane page) src 0x030B = true) && decide (lane <
        264 ∧ page < 64 ∧ (s.lanes.get lane).swatch.sweepDone = true)) (.direct) (8) (63) ((sPort 0 .swatch).updLane 8 fun x =>
        { x with swatch := { x.swatch with sweepDone := true } }) = true) ∧
    ((fun (src : CmdSrc) (trustPcp trustDscp : Bool) (port malformed lenConflict profile pcpMap dscpMap defClass : Nat) (s : State) => decide
        (s.acts (.parseConfigurePort src trustPcp trustDscp port malformed lenConflict profile pcpMap dscpMap defClass) src 0x0420 = true) &&
        decide (port < 256 ∧ malformed < 2 ∧ lenConflict < 2 ∧ profile < 16 ∧ pcpMap < 8 ∧ dscpMap < 8 ∧ defClass < 8)) (.direct) (true) (false)
        (255) (1) (0) (15) (7) (0) (7) (State.reset) = true) ∧
    ((fun (src : CmdSrc) (enable0 enable1 : Bool) (profile cond0 anchor0 offset0 width0 cond1 anchor1 offset1 width1 : Nat) (s : State) =>
        decide (s.acts (.parseConfigureExtract src enable0 enable1 profile cond0 anchor0 offset0 width0 cond1 anchor1 offset1 width1) src 0x0421
        = true) && decide (profile < 16 ∧ cond0 < 4 ∧ anchor0 < 5 ∧ offset0 < 256 ∧ 1 ≤ width0 ∧ width0 ≤ 4) && decide (cond1 < 4 ∧ anchor1 < 5
        ∧ offset1 < 256 ∧ 1 ≤ width1 ∧ width1 ≤ 4)) (.direct) (true) (true) (15) (3) (4) (255) (1) (0) (0) (0) (4) (State.reset) = true) ∧
    ((fun (src : CmdSrc) (part : Nat) (bytes : List Byte) (s : State) => decide (s.acts (.aclStage src part bytes) src 0x0422 = true) && decide
        (part < 4 ∧ s.fence.waiting = [])) (.direct) (3) ([1, 2]) (State.reset) = true) ∧
    ((fun (src : CmdSrc) (copy capture setClass steer redirect : Bool) (entry kind tc profile port : Nat) (s : State) => (fun (v : BitVec 640)
        => (fun (m : BitVec 640) => decide (s.acts (.aclCommit src copy capture setClass steer redirect entry kind tc profile port) src 0x0423 =
        true) && decide (v = BitVec.ofNat 640 (ofBe (padTo 40 ((s.aclStaged src).get 0) ++ padTo 40 ((s.aclStaged src).get 1)))) && decide (m =
        BitVec.ofNat 640 (ofBe (padTo 40 ((s.aclStaged src).get 2) ++ padTo 40 ((s.aclStaged src).get 3)))) && decide (entry < 32768 ∧ kind < 3
        ∧ aclActionOk copy setClass steer redirect kind = true ∧ aclBitsOk v m = true) && decide (((List.range 4).all fun k => (s.aclStaged
        src).has k) = true ∧ s.fence.waiting = []) && decide ((if setClass then tc < 8 else tc = 0) ∧ (if steer then profile < 64 else profile =
        0) ∧ (if redirect then port < 256 else port = 0))) (BitVec.ofNat 640 (ofBe (padTo 40 ((s.aclStaged src).get 2) ++ padTo 40 ((s.aclStaged
        src).get 3))))) (BitVec.ofNat 640 (ofBe (padTo 40 ((s.aclStaged src).get 0) ++ padTo 40 ((s.aclStaged src).get 1))))) (.direct) (true)
        (true) (true) (false) (true) (32767) (0) (7) (0) (255) (State.reset.setAclStage .direct [(0, []), (1, []), (2, []), (3, [])]) = true) ∧
    ((fun (src : CmdSrc) (entry : Nat) (s : State) => decide (s.acts (.aclDelete src entry) src 0x0424 = true) && decide (entry < 32768))
        (.direct) (32767) (State.reset) = true) ∧
    ((fun (src : CmdSrc) (clear : Bool) (entry part : Nat) (s : State) => (fun (e : AclEntry) => decide (s.acts (.aclRead src clear entry part)
        src 0x0425 = true) && decide (entry < 32768 ∧ part < 4 ∧ s.parse.acl.find entry = some e)) ((s.parse.acl.find entry).getD
        ({ hits := 4 }))) (.direct) (true) (5) (3) ({ State.reset with parse := { State.reset.parse with acl := [(5, { hits := 4 })] } }) = true) ∧
    ((fun (src : CmdSrc) (reason rate burst : Nat) (s : State) => decide (s.acts (.slowConfigure src reason rate burst) src 0x0429 = true) &&
        decide (1 ≤ reason ∧ reason ≤ 15 ∧ rate ≤ 1000000 ∧ 1 ≤ burst ∧ burst ≤ 4096)) (.direct) (15) (1000000) (1) (State.reset) = true) ∧
    ((fun (src : CmdSrc) (clear : Bool) (port : Nat) (s : State) => decide (s.acts (.parseGetCounts src clear port) src 0x042A = true) &&
        decide (port < 256)) (.direct) (true) (255) (State.reset) = true) ∧
    ((fun (src : CmdSrc) (symmetric : Bool) (profile mode fields seed field sh m b absent : Nat) (s : State) => decide (s.acts
        (.steerConfigureProfile src symmetric profile mode fields seed field sh m b absent) src 0x0426 = true) && decide (profile < 64 ∧ mode =
        0 ∧ fields < 16384 ∧ field = 0 ∧ sh = 0 ∧ m = 0 ∧ b = 0 ∧ absent = 0)) (.direct) (true) (63) (0) (16383) (77) (0) (0) (0) (0) (0)
        (State.reset) = true) ∧
    ((fun (src : CmdSrc) (table first count : Nat) (entries : List Nat) (s : State) => decide (s.acts (.steerWrite src table first count
        entries) src 0x0427 = true) && decide (table < 64 ∧ first < 4096 ∧ 1 ≤ count ∧ count ≤ 12 ∧ first + count ≤ 4096 ∧ entries.length =
        count ∧ entries.all indOk = true)) (.direct) (63) (4084) (12) (List.replicate 12 0x80000000) (State.reset) = true) ∧
    ((fun (src : CmdSrc) (table first count : Nat) (s : State) => decide (s.acts (.steerRead src table first count) src 0x0428 = true) &&
        decide (table < 64 ∧ first < 4096 ∧ 1 ≤ count ∧ count ≤ 12 ∧ first + count ≤ 4096)) (.direct) (63) (4095) (1) (State.reset) = true) ∧
    ((fun (src : CmdSrc) (enable l3 : Bool) (vid : Nat) (members untagged : BitVec 256) (unknown floodMgid rmac : Nat) (s : State) => decide
        (s.acts (.vlanConfigure src enable l3 vid members untagged unknown floodMgid rmac) src 0x0401 = true) && decide (vidOk vid = true ∧
        unknown < 3 ∧ floodMgid < 65536 ∧ rmac < 64) && decide ((enable = true ∨ s.vlanNamed vid = false) ∧ (l3 = true ∨ s.vlanRouted vid =
        false))) (.direct) (true) (false) (4094) (5) (1) (2) (65535) (63) (State.reset) = true) ∧
    ((fun (src : CmdSrc) (port pvid : Nat) (s : State) => decide (s.acts (.portSetPvid src port pvid) src 0x0402 = true) && decide (port < 256
        ∧ vidOk pvid = true)) (.direct) (255) (1) (State.reset) = true) ∧
    ((fun (src : CmdSrc) (index mac : Nat) (s : State) => decide (s.acts (.routerMacSet src index mac) src 0x0403 = true) && decide (index <
        64)) (.direct) (63) (5) (State.reset) = true) ∧
    ((fun (src : CmdSrc) (replace : Bool) (vid da result : Nat) (s : State) => decide (s.acts (.l2Add src replace vid da result) src 0x0404 =
        true) && decide (vidOk vid = true ∧ resultOk [0, 1, 4, 5] result = true ∧ s.fwd.l2.find (l2Key vid da) = none ∧ Machine.fits 0 1
        (s.takenLocs 0) = true)) (.direct) (false) (4094) (2 ^ 48 - 1) (0x200000FF) (State.reset) = true) ∧
    ((fun (src : CmdSrc) (vid da : Nat) (s : State) => decide (s.acts (.l2Delete src vid da) src 0x0405 = true) && decide (vidOk vid = true))
        (.direct) (1) (5) (State.reset.updFwd fun f => { f with l2 := [(l2Key 1 5, {})] }) = true) ∧
    ((fun (src : CmdSrc) (decTtl : Bool) (nh port vid da rmac : Nat) (s : State) => decide (s.acts (.nhWrite src decTtl nh port vid da rmac)
        src 0x0406 = true) && decide (nh < 65536 ∧ port < 256 ∧ vidOk vid = true ∧ rmac < 64)) (.direct) (true) (65535) (255) (1) (7) (63)
        (State.reset) = true) ∧
    ((fun (src : CmdSrc) (nh : Nat) (s : State) => decide (s.acts (.nhDelete src nh) src 0x0407 = true) && decide (nh < 65536 ∧ s.nhNamed nh =
        false)) (.direct) (65535) (State.reset) = true) ∧
    ((fun (src : CmdSrc) (replace : Bool) (family addr result : Nat) (s : State) => decide (s.acts (.hostAdd src replace family addr result)
        src 0x0408 = true) && decide (family < 2 ∧ addr < 2 ^ famBits (decide (family = 1)) ∧ resultOk [0, 2, 3, 4, 5] result = true ∧
        s.resultExists result = true) && decide (s.fwd.hosts.find (hostKey (decide (family = 1)) addr) = none ∧ Machine.fits 1 (family + 1)
        (s.takenLocs 1) = true)) (.direct) (false) (0) (2 ^ 32 - 1) (0x80000000) (State.reset) = true) ∧
    ((fun (src : CmdSrc) (family addr : Nat) (s : State) => decide (s.acts (.hostDelete src family addr) src 0x0409 = true) && decide (family <
        2 ∧ addr < 2 ^ famBits (decide (family = 1)))) (.direct) (1) (2 ^ 128 - 1) (State.reset) = true) ∧
    ((fun (src : CmdSrc) (replace : Bool) (family pfx length result : Nat) (s : State) => decide (s.acts (.lpmAdd src replace family pfx length
        result) src 0x040A = true) && decide (family < 2 ∧ pfx < 2 ^ famBits (decide (family = 1)) ∧ length ≤ (if family = 1 then 64 else 32) ∧
        resultOk [0, 2, 3, 4, 5] result = true ∧ s.resultExists result = true) && decide ((s.fwd.lpm (decide (family = 1))).find (lpmKey (decide
        (family = 1)) pfx length) = none ∧ Machine.fits (family + 2) 1 (s.takenLocs (family + 2)) = true)) (.direct) (false) (0) (2 ^ 32 - 1)
        (32) (0x80000000) (State.reset) = true) ∧
    ((fun (src : CmdSrc) (family pfx length : Nat) (s : State) => decide (s.acts (.lpmDelete src family pfx length) src 0x040B = true) &&
        decide (family < 2 ∧ pfx < 2 ^ famBits (decide (family = 1)) ∧ length ≤ (if family = 1 then 64 else 32))) (.direct) (1) (0) (64)
        (State.reset) = true) ∧
    ((fun (src : CmdSrc) (first count : Nat) (members : List Member) (s : State) => decide (s.acts (.memberStage src first count members) src
        0x040C = true) && decide (first < 256 ∧ 1 ≤ count ∧ count ≤ 12 ∧ first + count ≤ 256 ∧ members.length = count ∧ members.all memberOk =
        true ∧ s.fence.waiting = [])) (.direct) (255) (1) ([{ nh := 3 }]) (State.reset) = true) ∧
    ((fun (src : CmdSrc) (group count profile : Nat) (s : State) => decide (s.acts (.ecmpCommit src group count profile) src 0x040D = true) &&
        decide (group < 4096 ∧ 1 ≤ count ∧ count ≤ 256 ∧ profile < 64 ∧ s.fence.waiting = []) && decide (((List.range count).all fun i =>
        (s.memStaged src).has i && decide (((s.memStaged src).get i).nh < 65536) && s.fwd.nhs.has ((s.memStaged src).get i).nh) = true) &&
        decide (Machine.fits 6 count (s.takenBeside 6 (s.fwd.ecmp.get group).locs) = true)) (.direct) (4095) (2) (63) ((State.reset.updFwd fun f
        => { f with nhs := [(3, {})] }).setMemStage .direct [(0, { nh := 3 }), (1, { nh := 3 })]) = true) ∧
    ((fun (src : CmdSrc) (group : Nat) (s : State) => decide (s.acts (.ecmpDelete src group) src 0x040E = true) && decide (group < 4096 ∧
        s.ecmpNamed group = false)) (.direct) (4095) (State.reset) = true) ∧
    ((fun (src : CmdSrc) (aon prune : Bool) (mgid count : Nat) (s : State) => decide (s.acts (.mcastCommit src aon prune mgid count) src 0x040F
        = true) && decide (mgid < 65536 ∧ count ≤ 256 ∧ s.fence.waiting = [] ∧ portsOnce ((List.range count).map fun i => (s.memStaged src).get
        i) = true) && decide (((List.range count).all fun i => (s.memStaged src).has i && decide (((s.memStaged src).get i).port < 256 ∧
        ((s.memStaged src).get i).vid ≤ 4094)) = true) && decide ((((List.range count).map fun i => (s.memStaged src).get i).any fun m =>
        m.routed && decide (m.vid ≠ 0) && !(s.fwd.vlans.get m.vid).l3) = false) && decide (Machine.fits 8 count (s.takenBeside 8
        (s.fwd.mcast.get mgid).locs) = true)) (.direct) (true) (true) (65535) (0) (State.reset) = true) ∧
    ((fun (src : CmdSrc) (table : Nat) (key : List Byte) (s : State) => (fun (e : BitVec 32 × List Nat) => decide (s.acts (.tableLookup src
        table key) src 0x0410 = true) && decide (table < 4 ∧ (lookupKey table key).2 = true ∧ s.entryOf table (lookupKey table key).1 = some e))
        ((s.entryOf table (lookupKey table key).1).getD ((7, [9])))) (.direct) (0) ([0, 0, 0, 1, 0, 0, 0, 0, 0, 5]) (State.reset.updFwd fun f =>
        { f with l2 := [(l2Key 1 5, { result := 7, loc := 9 })] }) = true) ∧
    ((fun (src : CmdSrc) (table location : Nat) (s : State) => (fun (k : Nat) => decide (s.acts (.tableReadIndex src table location) src 0x0411
        = true) && decide (table < 4 ∧ locationOk table location = true ∧ s.keyAt table location = some k ∧ s.isLost table location = false))
        ((s.keyAt table location).getD (l2Key 1 5))) (.direct) (0) (9) (State.reset.updFwd fun f =>
        { f with l2 := [(l2Key 1 5, { result := 7, loc := 9 })] }) = true) ∧
    ((fun (src : CmdSrc) (table location : Nat) (s : State) => decide (s.acts (.tableClearLost src table location) src 0x0412 = true) && decide
        (table < 11 ∧ locationOk table location = true ∧ s.isLost table location = true)) (.direct) (2) (4) (State.reset.updFwd fun f =>
        { f with lost := [{ table := 2, loc := 4 }] }) = true) ∧
    ((fun (src : CmdSrc) (clear : Bool) (s : State) => decide (s.acts (.tableGetUsage src clear) src 0x0413 = true)) (.direct) (true)
        (State.reset) = true) := by
  and_intros
  all_goals first | decide +kernel | rfl

/-- The hypotheses of each clause of CompletionsOfServiceCommands can be met. -/
theorem test_meets_CompletionsOfServiceCommands :
    ((fun (src : CmdSrc) (kind map first count : Nat) (classes : List Nat) (s : State) => decide (s.acts (.classSetMap src kind map first count
        classes) src 0x0501 = true) && decide (kind < 2 ∧ map < 8 ∧ first < (if kind = 0 then 8 else 64) ∧ 1 ≤ count ∧ first + count ≤ (if kind
        = 0 then 8 else 64) ∧ classes.length = count ∧ (classes.all fun c => decide (c < 8)) = true)) (.direct) (0) (7) (0) (8) ([0, 1, 2, 3, 4,
        5, 6, 7]) (State.reset) = true) ∧
    ((fun (src : CmdSrc) (cls cl spillOn returnLow : Nat) (s : State) => decide (s.acts (.bufferConfigureClass src cls cl spillOn returnLow)
        src 0x0510 = true) && decide (cls < 8 ∧ cl ≤ 524288) && decide ((if cls < 4 then 16 ≤ spillOn ∧ spillOn ≤ 65536 ∧ 16 ≤ returnLow ∧
        returnLow ≤ 65536 else spillOn = 0 ∧ returnLow = 0))) (.direct) (3) (524288) (16) (65536) (State.reset) = true) ∧
    ((fun (src : CmdSrc) (port cls ql weight : Nat) (s : State) => decide (s.acts (.queueConfigure src port cls ql weight) src 0x0511 = true)
        && decide (port < 256 ∧ cls < 8 ∧ 1 ≤ ql ∧ ql ≤ (if s.kindOf port cls = 1 then 134217728 else 524288) ∧ 1 ≤ weight ∧ weight ≤ 127) &&
        decide (s.kindOf port cls = 1 → s.fuses.orderCode = .lc → ql ≤ 524288)) (.direct) (255) (7) (524288) (127) (State.reset) = true) ∧
    ((fun (src : CmdSrc) (cut : Bool) (port limit : Nat) (s : State) => decide (s.acts (.portConfigureEgress src cut port limit) src 0x0512 =
        true) && decide (port < 256 ∧ 16 ≤ limit ∧ limit ≤ 16384)) (.direct) (true) (255) (16384) (State.reset) = true) ∧
    ((fun (src : CmdSrc) (spill : Bool) (cls : Nat) (s : State) => decide (s.acts (.skeinConfigure src spill cls) src 0x0513 = true) && decide
        (cls < 4 ∧ s.fuses.orderCode ≠ .lc ∧ (spill = true → s.glob.pdOn.getLsbD 5 = true ∧ s.core.skein = .ready))) (.direct) (false) (3)
        (State.reset) = true) ∧
    ((fun (src : CmdSrc) (clear : Bool) (s : State) => decide (s.acts (.skeinGetStatus src clear) src 0x0514 = true) && decide
        (s.fuses.orderCode ≠ .lc)) (.direct) (true) (State.reset) = true) ∧
    ((fun (src : CmdSrc) (clear : Bool) (port cls : Nat) (s : State) => decide (s.acts (.coreGetQueue src clear port cls) src 0x0515 = true) &&
        decide (port < 256 ∧ cls < 8)) (.direct) (true) (255) (7) (State.reset) = true) ∧
    ((fun (src : CmdSrc) (s : State) => decide (s.acts (.bufferGetStatus src) src 0x0516 = true)) (.direct) (State.reset) = true) ∧
    ((fun (src : CmdSrc) (port cls kind : Nat) (s : State) => decide (s.acts (.classSetKind src port cls kind) src 0x0520 = true) && decide
        (port < 256 ∧ cls < 4 ∧ kind < 2)) (.direct) (255) (3) (0) (State.reset) = true) ∧
    ((fun (src : CmdSrc) (replace : Bool) (port cls lMax rate burst fmax : Nat) (mask : BitVec 256) (s : State) => (fun (x : Contract) =>
        decide ((contractRanges port cls lMax rate burst fmax mask).all id = true ∧ x = s.newContract (contractKey port cls) lMax rate burst
        fmax mask)) (s.newContract (contractKey port cls) lMax rate burst fmax mask)) (.direct) (false) (255) (7) (600 * nsU) (1) (1) (64) (1)
        (State.reset) = true) ∧
    ((fun (src : CmdSrc) (replace : Bool) (port cls lMax rate burst fmax : Nat) (mask : BitVec 256) (s : State) => (fun (x : Contract) =>
        decide ((contractRanges port cls lMax rate burst fmax mask).all id = true ∧ x = s.newContract (contractKey port cls) lMax rate burst
        fmax mask) && decide (s.contracts.table.has (contractKey port cls) = true → replace = true ∧ (s.contracts.table.get (contractKey port
        cls)).state ≠ .draining)) (s.newContract (contractKey port cls) lMax rate burst fmax mask)) (.direct) (false) (255) (7) (600 * nsU) (1)
        (1) (64) (1) (State.reset) = true) ∧
    ((fun (src : CmdSrc) (port cls : Nat) (s : State) => decide (s.acts (.contractDelete src port cls) src 0x0522 = true) && decide (port < 256
        ∧ 4 ≤ cls ∧ cls < 8 ∧ s.contracts.table.has (contractKey port cls) = true ∧ (s.contracts.table.get (contractKey port cls)).state ≠
        .draining)) (.direct) (255) (7) ({ State.reset with contracts := { State.reset.contracts with table := [(contractKey 255 7, {})] } }) =
        true) ∧
    ((fun (src : CmdSrc) (clear : Bool) (port cls : Nat) (s : State) => (fun (x : Contract) => decide (s.acts (.contractGet src clear port cls)
        src 0x0524 = true) && decide (port < 256 ∧ 4 ≤ cls ∧ cls < 8 ∧ s.contracts.table.find (contractKey port cls) = some x))
        ((s.contracts.table.find (contractKey port cls)).getD ({ maxSeenGet := 5 }))) (.direct) (true) (255) (7)
        ({ State.reset with contracts := { State.reset.contracts with table := [(contractKey 255 7, { maxSeenGet := 5 })] } }) = true) ∧
    ((fun (src : CmdSrc) (size : Nat) (s : State) => decide (s.acts (.guaranteedPoolSet src size) src 0x0525 = true) && decide (size ≤ 262144 ∧
        resSum s.contracts.table ≤ size ∧ size ≤ s.core.gpSize + s.sharedFree)) (.direct) (0) (State.reset) = true) ∧
    ((fun (src : CmdSrc) (target : KTime) (s : State) => decide (s.acts (.timeSet src target) src 0x0601 = true) && decide (target.sec < 2 ^ 64
        ∧ target.ns < 1000000000 ∧ target.sub < 65536 ∧ s.hostControls = true)) (.direct) ({ sec := 2 ^ 64 - 1, ns := 999999999, sub := 65535 })
        (State.reset) = true) ∧
    ((fun (src : CmdSrc) (ns : Int) (sub : Nat) (s : State) => decide (s.acts (.timeStep src ns sub) src 0x0602 = true) && decide ((ns * 65536
        + sub).natAbs ≤ 10 ^ 18 * 65536 ∧ sub < 65536 ∧ s.hostControls = true)) (.direct) (-1000000000000000000) (0) (State.reset) = true) ∧
    ((fun (src : CmdSrc) (rate : Int) (s : State) => decide (s.acts (.timeSetRate src rate) src 0x0603 = true) && decide (rate.natAbs ≤
        28147497671 ∧ s.hostControls = true)) (.direct) (-28147497671) (State.reset) = true) ∧
    ((fun (src : CmdSrc) (control : Nat) (s : State) => decide (s.acts (.timeSetControl src control) src 0x0604 = true) && decide (control < 2
        ∧ (s.time.control = 2 → fromJournal src = true))) (.direct) (1) (State.reset) = true) ∧
    ((fun (src : CmdSrc) (s : State) => decide (s.acts (.timeGet src) src 0x0605 = true)) (.direct) (State.reset) = true) ∧
    ((fun (src : CmdSrc) (leap61 leap59 : Bool) (offset : Nat) (s : State) => decide (s.acts (.timeSetUtc src leap61 leap59 offset) src 0x0606
        = true) && decide ((leap61 && leap59) = false ∧ offset < 256)) (.direct) (true) (false) (255) (State.reset) = true) ∧
    ((fun (src : CmdSrc) (enable slaveOnly : Bool) (inst profile domain : Nat) (identity : List Byte) (prio1 prio2 localPrio : Nat) (s : State)
        => decide (s.acts (.ptpConfigureInstance src enable slaveOnly inst profile domain identity prio1 prio2 localPrio) src 0x0610 = true) &&
        decide (inst < 4 ∧ profile < 4 ∧ (if profile = 3 then 24 ≤ domain ∧ domain ≤ 43 else domain ≤ 127) ∧ ofBe identity ≠ 0 ∧ ofBe identity ≠
        2 ^ 64 - 1) && decide (prio1 ≤ 255 ∧ (if profile = 3 then prio2 = 128 ∧ 1 ≤ localPrio ∧ localPrio ≤ 255 else prio2 ≤ 255 ∧ localPrio =
        0)) && decide ((s.instAhead inst).1 = true → (s.instAhead inst).2.1 = profile ∧ (s.instAhead inst).2.2 = domain)) (.direct) (true)
        (false) (3) (3) (43) ([0, 0, 0, 0, 0, 0, 0, 1]) (255) (128) (255) (State.reset) = true) ∧
    ((fun (src : CmdSrc) (masterOnly : Bool) (port inst transport dest addr : Nat) (logSync logDelay logAnnounce : Int) (annTimeout syncTimeout
        delayTimeout twoStep localPrio coastLimit maxPath delayOutlier offsetOutlier filterLen : Nat) (s : State) => decide (s.acts
        (.ptpConfigurePort src masterOnly port inst transport dest addr logSync logDelay logAnnounce annTimeout syncTimeout delayTimeout twoStep
        localPrio coastLimit maxPath delayOutlier offsetOutlier filterLen) src 0x0611 = true) && decide (port < 256 ∧ inst < 6 ∧ transport < 3 ∧
        (inst < 4 ∧ (s.instAhead inst).2.1 = 3 → transport = 0) ∧ dest < 2) && decide ((if dest = 0 then addr = 0 else transport ≠ 0 ∧ addr ≠ 0
        ∧ (if transport = 1 then addr < 2 ^ 32 else addr < 2 ^ 128))) && decide (-7 ≤ logSync ∧ logSync ≤ 1 ∧ s.messageRate port inst logSync
        logDelay logAnnounce ≤ 65536 * 32 ∧ -7 ≤ logDelay ∧ logDelay ≤ 5 ∧ -3 ≤ logAnnounce ∧ logAnnounce ≤ 4) && decide (2 ≤ annTimeout ∧
        annTimeout ≤ 255 ∧ 2 ≤ syncTimeout ∧ syncTimeout ≤ 255 ∧ 1 ≤ delayTimeout ∧ delayTimeout ≤ 255 ∧ twoStep < 2 ∧ 1 ≤ localPrio ∧ localPrio
        ≤ 255) && decide (secU ≤ coastLimit ∧ coastLimit ≤ 600 * secU ∧ usU ≤ maxPath ∧ maxPath ≤ 100 * msU ∧ 6554 ≤ delayOutlier ∧ delayOutlier
        ≤ 100 * usU ∧ nsU ≤ offsetOutlier ∧ offsetOutlier ≤ secU ∧ 1 ≤ filterLen ∧ filterLen ≤ 256) && decide (((s.ports.get port).configured &&
        (s.ports.get port).isSelvedge) = false ∧ (5 ≤ (s.portAhead port).1 ∨ 5 ≤ inst ∨ (s.portAhead port).1 = inst))) (.direct) (true) (255)
        (5) (1) (1) (5) (0) (0) (1) (3) (3) (3) (0) (128) (secU) (usU) (6554) (nsU) (1) (State.reset) = true) ∧
    ((fun (src : CmdSrc) (inst : Nat) (s : State) => decide (s.acts (.ptpGetInstance src inst) src 0x0612 = true) && decide (inst < 4))
        (.direct) (3) (State.reset) = true) ∧
    ((fun (src : CmdSrc) (clear : Bool) (port : Nat) (s : State) => decide (s.acts (.ptpGetPort src clear port) src 0x0613 = true) && decide
        (port < 256)) (.direct) (true) (255) (State.reset) = true) ∧
    ((fun (src : CmdSrc) (mode : Nat) (domains : BitVec 256) (s : State) => decide (s.acts (.ptpConfigureTc src mode domains) src 0x0614 =
        true) && decide (mode < 3)) (.direct) (2) (1) (State.reset) = true) ∧
    ((fun (src : CmdSrc) (mode slot bandwidth : Nat) (maxSlew : Int) (stepThr lockThr : Nat) (ppsOffset : Int) (s : State) => decide (s.acts
        (.servoConfigure src mode slot bandwidth maxSlew stepThr lockThr ppsOffset) src 0x0618 = true) && decide (mode < 2 ∧ (if mode = 1 then 8
        ≤ slot ∧ slot ≤ 30 else slot = 0) ∧ 1 ≤ bandwidth ∧ bandwidth ≤ 1000 ∧ 256 ≤ maxSlew ∧ maxSlew ≤ 100000 * 256) && decide ((stepThr = 0 ∨
        nsU ≤ stepThr ∧ stepThr ≤ secU) ∧ 656 ≤ lockThr ∧ lockThr ≤ 65536000000 ∧ ppsOffset.natAbs ≤ 500 * msU)) (.direct) (1) (30) (1000)
        (25600000) (secU) (656) (-500 * msU) (State.reset) = true) ∧
    ((fun (src : CmdSrc) (s : State) => decide (s.acts (.servoGet src) src 0x0619 = true)) (.direct) (State.reset) = true) ∧
    ((fun (src : CmdSrc) (port mode : Nat) (c alpha : Int) (partner lambdaOut lambdaIn : Nat) (k : Int) (avg qLimit coast agree : Nat) (s :
        State) => decide (s.acts (.asymConfigure src port mode c alpha partner lambdaOut lambdaIn k avg qLimit coast agree) src 0x0620 = true)
        && decide (port < 256 ∧ mode = 0 ∧ c.natAbs ≤ 100 * nsU ∧ -(2 ^ 31) ≤ alpha ∧ alpha < 2 ^ 31 ∧ 66 ≤ agree ∧ agree ≤ 100 * nsU) && decide
        (partner = 0 ∧ lambdaOut = 0 ∧ lambdaIn = 0 ∧ k = 0 ∧ avg = 0 ∧ qLimit = 0 ∧ coast = 0)) (.direct) (255) (0) (100 * nsU) (-(2 ^ 31)) (0)
        (0) (0) (0) (0) (0) (0) (66) (State.reset) = true) ∧
    ((fun (src : CmdSrc) (port : Nat) (s : State) => decide (s.acts (.asymGet src port) src 0x0621 = true) && decide (port < 256)) (.direct)
        (255) (State.reset) = true) ∧
    ((fun (src : CmdSrc) (enable override esmc : Bool) (slot fNum fDen div edge source prio level : Nat) (acceptLim rejectLim : Int)
        (rejectHold acceptHold hitLim hitBudget coastLim : Nat) (s : State) => decide (s.acts (.refConfigureSlot src enable override esmc slot
        fNum fDen div edge source prio level acceptLim rejectLim rejectHold acceptHold hitLim hitBudget coastLim) src 0x0701 = true) && decide
        (slot < 31 ∧ (slotSourceOk slot fNum fDen div edge source).all id = true ∧ 1 ≤ prio ∧ prio ≤ 255 ∧ level < 16) && decide ((slot = 28 ∨
        slot = 29 ∨ slot = 30) → fNum = 0 ∧ fDen = 0 ∧ div = 0 ∧ edge = 0 ∧ source = 0) && decide (256 ≤ acceptLim ∧ acceptLim ≤ 49999 * 256 ∧
        acceptLim < rejectLim ∧ 512 ≤ rejectLim ∧ rejectLim ≤ 50000 * 256 ∧ msU ≤ rejectHold ∧ rejectHold ≤ 10 * secU) && decide (secU ≤
        acceptHold ∧ acceptHold ≤ 3600 * secU ∧ 6554 ≤ hitLim ∧ hitLim ≤ 1000 * nsU ∧ 1 ≤ hitBudget ∧ hitBudget ≤ 255 ∧ secU ≤ coastLim ∧
        coastLim ≤ 600 * secU) && decide (esmc = true → 8 ≤ slot ∧ slot < 24 ∧ (s.ports.get source).isSelvedge = false) && decide (8 ≤ slot ∧
        slot < 24 → (s.ports.get source).width = 1 ∧ (enable = true → s.portUp source = true)) && decide (s.ref.selected ≠ some slot)) (.direct)
        (true) (false) (false) (30) (0) (0) (0) (0) (0) (255) (15) (256) (512) (msU) (secU) (6554) (1) (secU) (State.reset) = true) ∧
    ((fun (src : CmdSrc) (qlMode revert wtr : Nat) (tieLimit : Int) (tieHold freeLevel avgTime guardTime inSpec : Nat) (s : State) => decide
        (s.acts (.refConfigureSelection src qlMode revert wtr tieLimit tieHold freeLevel avgTime guardTime inSpec) src 0x0702 = true) && decide
        (qlMode < 2 ∧ revert < 2 ∧ wtr ≤ 720 * secU ∧ 26 ≤ tieLimit ∧ tieLimit ≤ 10000 * 256 ∧ 100 * msU ≤ tieHold ∧ tieHold ≤ 60 * secU ∧ 3 ≤
        freeLevel ∧ freeLevel ≤ 14) && decide (secU ≤ avgTime ∧ avgTime ≤ 10000 * secU ∧ guardTime ≤ 600 * secU ∧ inSpec ≤ 86400 * secU))
        (.direct) (1) (0) (720 * secU) (26) (100 * msU) (14) (secU) (600 * secU) (0) (State.reset) = true) ∧
    ((fun (src : CmdSrc) (trackBw acqBw : Nat) (slope : Int) (lockThr lossThr : Nat) (s : State) => decide (s.acts (.refConfigureDpll src
        trackBw acqBw slope lockThr lossThr) src 0x0703 = true) && decide (1 ≤ trackBw ∧ trackBw ≤ acqBw ∧ acqBw ≤ 100000 ∧ 256 ≤ slope ∧ slope
        ≤ 10000 * 256 ∧ 656 ≤ lockThr ∧ lockThr ≤ 1000 * nsU ∧ nsU ≤ lossThr ∧ lossThr ≤ 100000 * nsU ∧ lockThr < lossThr)) (.direct) (1)
        (100000) (256) (656) (100000 * nsU) (State.reset) = true) ∧
    ((fun (src : CmdSrc) (slot action : Nat) (s : State) => decide (s.acts (.refCommand src slot action) src 0x0704 = true) && decide (slot <
        31 ∧ action < 4 ∧ (s.ref.slots.get slot).state ≠ .disabled)) (.direct) (30) (3)
        ({ State.reset with ref := { State.reset.ref with slots := [(30, { state := .qualified })] } }) = true) ∧
    ((fun (src : CmdSrc) (slot : Nat) (s : State) => (fun (y : RefSlot) => decide (s.acts (.refGetSlot src slot) src 0x0705 = true) && decide
        (slot < 31 ∧ y = s.ref.slots.get slot)) (s.ref.slots.get slot)) (.direct) (30) (State.reset) = true) ∧
    ((fun (src : CmdSrc) (s : State) => decide (s.acts (.refGetDpll src) src 0x0706 = true)) (.direct) (State.reset) = true) ∧
    ((fun (src : CmdSrc) (action : Nat) (value : Int) (timeout level : Nat) (s : State) => decide (s.acts (.refSteer src action value timeout
        level) src 0x0707 = true) && decide (action = 0 ∧ value = 0 ∧ 10 * msU ≤ timeout ∧ timeout ≤ 60 * secU ∧ 3 ≤ level ∧ level ≤ 14 ∧
        (s.ref.state = .holdover → s.ref.xoLoss = false))) (.direct) (0) (0) (10 * msU) (3) (State.reset) = true) ∧
    ((fun (src : CmdSrc) (enable : Bool) (output : Nat) (offset : Int) (width slew squelch : Nat) (s : State) => decide (s.acts
        (.refConfigurePpsOut src enable output offset width slew squelch) src 0x0708 = true) && decide (output < 2 ∧ offset.natAbs ≤ 500 * msU ∧
        usU ≤ width ∧ width ≤ 500 * msU ∧ 6554 ≤ slew ∧ slew ≤ 10 * usU ∧ squelch < 16)) (.direct) (true) (1) (-500 * msU) (usU) (10 * usU) (15)
        (State.reset) = true) ∧
    ((fun (src : CmdSrc) (enable : Bool) (output fNum fDen mode : Nat) (offset : Int) (slew swing squelch : Nat) (s : State) => decide (s.acts
        (.refConfigureClkout src enable output fNum fDen mode offset slew swing squelch) src 0x0709 = true) && decide (output < 4 ∧ 1000000 ≤
        fNum ∧ fNum ≤ 750000000 ∧ 1 ≤ fDen ∧ fDen ≤ 65535 ∧ 1000000 * fDen ≤ fNum ∧ mode < 2 ∧ swing < 3 ∧ squelch < 16) && decide ((if mode = 1
        then fDen = 1 ∧ offset.natAbs ≤ 500 * msU ∧ 6554 ≤ slew ∧ slew ≤ 10 * usU else offset = 0 ∧ slew = 0))) (.direct) (true) (3) (1000000)
        (1) (1) (500 * msU) (6554) (2) (15) (State.reset) = true) ∧
    ((fun (src : CmdSrc) (output : Nat) (s : State) => (fun (y : ClkOut) => decide (s.acts (.refGetClkout src output) src 0x070A = true) &&
        decide (output < 4 ∧ y = s.ref.clk.get output)) (s.ref.clk.get output)) (.direct) (3) (State.reset) = true) ∧
    ((fun (src : CmdSrc) (enable regression : Bool) (channel edge hyst holdoff prescaler ring : Nat) (offset : Int) (rateLimit silence : Nat)
        (s : State) => (fun (y : TdcChan) => decide (s.acts (.tdcConfigureEvt src enable regression channel edge hyst holdoff prescaler ring
        offset rateLimit silence) src 0x0801 = true) && decide (280 ≤ channel ∧ channel < 312 ∧ (edge < 2 ∨ edge = 2 ∧ prescaler ≤ 1 ∧
        regression = false) ∧ hyst < 4 ∧ holdoff < 16 ∧ 1 ≤ prescaler ∧ prescaler ≤ 65536 ∧ ring ≤ 8) && decide (-(100 * nsU : Int) ≤ offset ∧
        offset ≤ 100 * nsU ∧ rateLimit ≤ 312 ∧ (silence = 0 ∨ usU ≤ silence ∧ silence ≤ 100 * secU)) && decide (((s.tdc.groups.get (groupOf
        channel)).open_ = true → (s.tdc.chans.get channel).sameSettings y = true ∧ (enable = true → (s.tdc.chans.get channel).enable = true)) ∧
        ((s.tdc.chans.get channel).enable = true → enable = true)) && decide (y =
        { s.tdc.chans.get channel with enable := enable, edge := edge, hyst := hyst, holdoff := holdoff, prescaler := prescaler, ring := if ring < 8 then some ring else none, regression := regression, offset := offset, rateLimit := rateLimit, silence := silence }))
        ({ s.tdc.chans.get channel with enable := enable, edge := edge, hyst := hyst, holdoff := holdoff, prescaler := prescaler, ring := if ring < 8 then some ring else none, regression := regression, offset := offset, rateLimit := rateLimit, silence := silence }))
        (.direct) (true) (false) (280) (2) (3) (15) (1) (7) (-100 * nsU) (312) (100 * secU) (State.reset) = true) ∧
    ((fun (src : CmdSrc) (group mode level pulse maxLen : Nat) (s : State) => decide (s.acts (.tdcConfigureGroup src group mode level pulse
        maxLen) src 0x0802 = true) && decide (group < 4 ∧ mode < 3 ∧ level < 2 ∧ usU ≤ pulse ∧ pulse ≤ 1000 * secU ∧ usU ≤ maxLen ∧ maxLen ≤
        1000 * secU ∧ (s.tdc.groups.get group).open_ = false)) (.direct) (3) (2) (1) (usU) (1000 * secU) (State.reset) = true) ∧
    ((fun (src : CmdSrc) (enable : Bool) (engine start stop window ring : Nat) (s : State) => decide (s.acts (.tdcSetInterval src enable engine
        start stop window ring) src 0x0803 = true) && decide (engine < 32 ∧ intervalChan start = true ∧ intervalChan stop = true ∧ start ≠ stop
        ∧ 1 ≤ (gridCycles window).getD 0 ∧ (gridCycles window).getD 0 ≤ 1250000 ∧ ring < 8) && decide ((s.tdc.intervals.get engine).enable =
        false)) (.direct) (true) (31) (280) (311) (usU) (7) (State.reset) = true) ∧
    ((fun (src : CmdSrc) (clear : Bool) (channel : Nat) (s : State) => (fun (y : TdcChan) => decide (s.acts (.tdcGetChannel src clear channel)
        src 0x0804 = true) && decide (channel < 320 ∧ y = s.tdc.chans.get channel)) (s.tdc.chans.get channel)) (.direct) (true) (319)
        (State.reset) = true) ∧
    ((fun (src : CmdSrc) (lane : Nat) (s : State) => (fun (y : TdcChan) => decide (s.acts (.tdcGetLane src lane) src 0x0805 = true) && decide
        (lane < 264 ∧ y = s.tdc.chans.get lane)) (s.tdc.chans.get lane)) (.direct) (263) (State.reset) = true) ∧
    ((fun (src : CmdSrc) (w : Nat) (s : State) => decide (s.acts (.tdcSetLaneWindow src w) src 0x0806 = true) && decide (w < 8)) (.direct) (7)
        (State.reset) = true) ∧
    ((fun (src : CmdSrc) (lane action ring d : Nat) (s : State) => decide (s.acts (.tdcCaptureTap src lane action ring d) src 0x0807 = true) &&
        decide (lane < 264 ∧ action = 0 ∧ ring < 8 ∧ 1 ≤ d ∧ d ≤ 65536) && decide ((s.tdc.chans.filter fun q => q.2.capturing).length < 8))
        (.direct) (263) (0) (7) (65536) (State.reset) = true) ∧
    ((fun (src : CmdSrc) (trigger : Int) (minInterval target runTimeout retry periodic source18 source19 : Nat) (s : State) => decide (s.acts
        (.gaugeConfigure src trigger minInterval target runTimeout retry periodic source18 source19) src 0x0810 = true) && decide (4 ≤ trigger ∧
        trigger ≤ 160 ∧ trigger % 4 = 0 ∧ secU ≤ minInterval ∧ minInterval ≤ 3600 * secU ∧ 20 ≤ target ∧ target ≤ 24 ∧ secU / 10 ≤ runTimeout ∧
        runTimeout ≤ 100 * secU) && decide (secU ≤ retry ∧ retry ≤ 3600 * secU ∧ (periodic = 0 ∨ secU ≤ periodic ∧ periodic ≤ 86400 * secU) ∧
        source18 < 2 ∧ source19 < 2) && decide ((s.gauge.regions.get 18).state = .running → s.gauge.scatter18 = decide (source18 = 1)) && decide
        ((s.gauge.regions.get 19).state = .running → s.gauge.scatter19 = decide (source19 = 1))) (.direct) (160) (secU) (20) (secU / 10) (3600 *
        secU) (86400 * secU) (1) (1) (State.reset) = true) ∧
    ((fun (src : CmdSrc) (region : Nat) (rs : List Nat) (s : State) => decide (s.acts (.gaugeRun src region) src 0x0811 = true) && decide
        ((region < 21 ∧ rs = [region] ∨ region = 0xFFFF ∧ rs = List.range 21)) && decide ((rs.any fun n => decide ((s.gauge.regions.get n).state
        = .off ∨ (s.gauge.regions.get n).state = .full)) = false)) (.direct) (20) ([20])
        ({ State.reset with gauge := { State.reset.gauge with regions := [(20, { state := .idle })] } }) = true) ∧
    ((fun (src : CmdSrc) (force : Bool) (region : Nat) (s : State) => decide (s.acts (.gaugeFull src force region) src 0x0812 = true) && decide
        (region < 21 ∧ (s.gauge.regions.get region).state = .full)) (.direct) (false) (20)
        ({ State.reset with gauge := { State.reset.gauge with regions := [(20, { state := .full })] } }) = true) ∧
    ((fun (src : CmdSrc) (region n : Nat) (s : State) => (fun (y : GRegion) => (s.acts (.gaugeGetStatus src region) src 0x0813 = true) ∧ (n =
        (if (y.state = .running && s.injects region) then Config.freeNat s.free % ((regionChans region).length * 2 ^ s.gauge.target + 1) else
        (regionChans region).foldl (fun a n => a + ((s.gauge.chans.get n).hist.foldl (fun b q => b + q.2) 0)) 0)) ∧ (region < 21 ∧ y =
        s.gauge.regions.get region)) (s.gauge.regions.get region)) (.direct) (20) (0) (State.reset)) ∧
    ((fun (src : CmdSrc) (force : Bool) (region mode : Nat) (s : State) => decide (s.acts (.gaugeRestore src force region mode) src 0x0814 =
        true) && decide (region < 21 ∧ mode = 0 ∧ ((regionChans region).all fun n => (s.gauge.chans.get n).stagedOk) = true) && decide
        ((s.gauge.regions.get region).state = .idle ∨ (s.gauge.regions.get region).state = .pending) && decide (((regionChans region).any fun n
        => decide ((s.gauge.chans.get n).stSel ≠ (s.gauge.chans.get n).cellSel ∨ (s.gauge.chans.get n).stTrim ≠ (s.gauge.chans.get n).trim ∨
        (s.gauge.chans.get n).stDll ≠ (s.gauge.chans.get n).dllCode)) = false) && decide (((List.range 21).any fun n => decide (n ≠ region ∧
        (s.gauge.regions.get n).state = .full)) = false)) (.direct) (true) (20) (0) (sStaged .idle) = true) ∧
    ((fun (src : CmdSrc) (duration : Nat) (s : State) => decide (s.acts (.gaugeHold src duration) src 0x0815 = true) && decide (duration = 0 ∨
        secU ≤ duration ∧ duration ≤ 86400 * secU)) (.direct) (0) (State.reset) = true) ∧
    ((fun (src : CmdSrc) (enable : Bool) (chan source sourceIdx selector fNum fDen : Nat) (freqLim : Int) (hitLim actLim coastLim bandwidth
        orbitLen marker markerIdx : Nat) (markOffset : Int) (frameLen : Nat) (s : State) => (fun (y : McChan) => decide (s.acts
        (.mclkConfigureChannel src enable chan source sourceIdx selector fNum fDen freqLim hitLim actLim coastLim bandwidth orbitLen marker
        markerIdx markOffset frameLen) src 0x0901 = true) && decide (chan < 4 ∧ source < 3 ∧ 1 ≤ fNum ∧ fNum ≤ 400000000 ∧ 1 ≤ fDen ∧ fDen ≤
        65535 ∧ 25600 ≤ freqLim ∧ freqLim ≤ 2560000000 ∧ 66 ≤ hitLim ∧ hitLim ≤ 10 * nsU) && decide ((source = 0 → 280 ≤ sourceIdx ∧ sourceIdx <
        312) ∧ (source = 1 → sourceIdx < 8) ∧ (source = 2 → sourceIdx < 256) ∧ (if source = 2 then selector < 4 else selector = 0)) && decide
        (usU ≤ actLim ∧ actLim ≤ secU ∧ msU ≤ coastLim ∧ coastLim ≤ 3600 * secU ∧ 1 ≤ bandwidth ∧ bandwidth ≤ 50000 ∧ (orbitLen = 0 ∨ 2 ≤
        orbitLen ∧ orbitLen ≤ 4095)) && decide (marker < 4 ∧ (marker = 2 → source = 2) ∧ (marker = 0 → 280 ≤ markerIdx ∧ markerIdx < 312) ∧
        (marker = 1 → markerIdx < 8) ∧ (2 ≤ marker → markerIdx = 0)) && decide ((if marker = 3 then markOffset = 0 else markOffset.natAbs ≤ usU)
        ∧ 1 ≤ frameLen ∧ frameLen ≤ 1048576 ∧ (enable = true → s.mcSourceMet source sourceIdx = true)) && decide ((s.stitch.mc.get chan).enable
        = true → (s.stitch.mc.get chan).srcKind = source ∧ (s.stitch.mc.get chan).srcIdx = sourceIdx ∧ (s.stitch.mc.get chan).srcSel = selector)
        && decide (y =
        { s.stitch.mc.get chan with srcKind := source, srcIdx := sourceIdx, srcSel := selector, fNum := fNum, fDen := fDen, freqLim := freqLim.toNat, hitLim := hitLim, actLim := actLim, coastLim := coastLim, bw := bandwidth, orbitLen := orbitLen, markSrc := marker, markIdx := markerIdx, markOffset := markOffset, frameLen := frameLen }))
        ({ s.stitch.mc.get chan with srcKind := source, srcIdx := sourceIdx, srcSel := selector, fNum := fNum, fDen := fDen, freqLim := freqLim.toNat, hitLim := hitLim, actLim := actLim, coastLim := coastLim, bw := bandwidth, orbitLen := orbitLen, markSrc := marker, markIdx := markerIdx, markOffset := markOffset, frameLen := frameLen }))
        (.direct) (true) (3) (2) (8) (3) (1) (65535) (25600) (66) (usU) (msU) (1) (4095) (2) (0) (usU) (1) (sPort 7 .up) = true) ∧
    ((fun (src : CmdSrc) (squelch : Bool) (output chan mode m d : Nat) (offset slewLim : Int) (w swing : Nat) (s : State) => decide (s.acts
        (.mclkConfigureOutput src squelch output chan mode m d offset slewLim w swing) src 0x0902 = true) && decide (output < 4 ∧ chan < 4 ∧
        mode = 0 ∧ m = 0 ∧ d = 0 ∧ offset = 0 ∧ slewLim = 0 ∧ w = 0 ∧ swing < 3)) (.direct) (true) (3) (3) (0) (0) (0) (0) (0) (0) (2)
        (State.reset) = true) ∧
    ((fun (src : CmdSrc) (chan : Nat) (s : State) => (fun (y : McChan) => decide (s.acts (.mclkGet src chan) src 0x0903 = true) && decide (chan
        < 4 ∧ y = s.stitch.mc.get chan)) (s.stitch.mc.get chan)) (.direct) (3) (sOrbit) = true) ∧
    ((fun (src : CmdSrc) (given : Bool) (chan : Nat) (t : KTime) (bunch orbit : Nat) (s : State) => decide (s.acts (.mclkSetOrbit src given
        chan t bunch orbit) src 0x0904 = true) && decide (chan < 4 ∧ t.ns < 1000000000 ∧ t.sub = 0 ∧ s.ktime < KTime.units t ∧ (s.stitch.mc.get
        chan).orbitLen ≠ 0 ∧ bunch < (s.stitch.mc.get chan).orbitLen) && decide (given = false → orbit = 0)) (.direct) (true) (3) ({ sec := 5 })
        (99) (7) (sOrbit) = true) ∧
    ((fun (src : CmdSrc) (chan phaseTarget setInterval bcnTarget bcnInterval : Nat) (s : State) => decide (s.acts (.stitchConfigureBroadcast
        src chan phaseTarget setInterval bcnTarget bcnInterval) src 0x0907 = true) && decide (chan < 4 ∧ phaseTarget < 0x1000 ∧ (setInterval = 0
        ∨ 10 * usU ≤ setInterval ∧ setInterval ≤ 100 * msU) ∧ bcnTarget < 0x1000 ∧ bcnInterval ≤ 65536) && decide (bcnInterval = 0 ∨
        (s.stitch.mc.get chan).orbitLen ≠ 0)) (.direct) (3) (0xFFF) (100 * msU) (0) (65536) (sOrbit) = true) ∧
    ((fun (src : CmdSrc) (group action : Nat) (mask : BitVec 256) (port : Nat) (s : State) => decide (s.acts (.stitchConfigureGroup src group
        action mask port) src 0x0905 = true) && decide (group ≤ 0xFFE ∧ action = 0 ∧ port = 0)) (.direct) (0xFFE) (0) (5) (0) (State.reset) =
        true) ∧
    ((fun (src : CmdSrc) (enable seqReset : Bool) (source channel kind target spacing seq : Nat) (s : State) => (fun (y : TrigSrc) => decide
        (s.acts (.stitchConfigureTrigger src enable seqReset source channel kind target spacing seq) src 0x0906 = true) && decide (source < 8 ∧
        280 ≤ channel ∧ channel < 312 ∧ kind < 256 ∧ target < 0x1000 ∧ spacing ≤ 1000000 * nsU ∧ (seqReset = false → seq = 0)) && decide
        ((s.tdc.chans.get channel).edge ≠ 2 ∧ y = s.stitch.trigs.get source)) (s.stitch.trigs.get source)) (.direct) (true) (true) (7) (311)
        (255) (0xFFF) (1000000 * nsU) (9) (State.reset) = true) ∧
    ((fun (src : CmdSrc) (compensate rxLog : Bool) (port relayTrig relayTimed relayUser errThr : Nat) (s : State) => decide (s.acts
        (.stitchConfigurePort src compensate rxLog port relayTrig relayTimed relayUser errThr) src 0x0908 = true) && decide (port < 256 ∧
        relayTrig ≤ 0x1000 ∧ relayTimed ≤ 0x1000 ∧ relayUser ≤ 0x1000 ∧ 1 ≤ errThr ∧ errThr ≤ 65535) && decide ((s.ports.get port).configured =
        true ∧ (s.ports.get port).isSelvedge = true)) (.direct) (true) (false) (8) (0) (0x1000) (0xFFF) (65535) (sPort 7 .down) = true) ∧
    ((fun (src : CmdSrc) (type target payload : Nat) (s : State) => decide (s.acts (.stitchSend src type target payload) src 0x0909 = true) &&
        decide (type < 2 ∧ target < 0x1000 ∧ payload < 2 ^ 40 ∧ s.latticesOf (s.stitchPorts target none) = [])) (.direct) (1) (0xFFF) (2 ^ 40 -
        1) (State.reset) = true) ∧
    ((fun (src : CmdSrc) (target code : Nat) (e : KTime) (lead r : Nat) (s : State) => (fun (x : Pending) => decide (s.acts (.stitchSendTimed
        src target code e lead r) src 0x090A = true) && decide (target < 0x1000 ∧ code < 0xF0 ∧ e.ns < 1000000000 ∧ e.sub = 0 ∧ s.ktime + 20 *
        usU ≤ KTime.units e ∧ 10 * usU ≤ lead ∧ lead ≤ 2 * secU ∧ 1 ≤ r ∧ r ≤ 4) && decide (s.stitch.timed.length < 256 ∧ s.wTime < KTime.units
        e - lead ∧ x = { handle := s.stitch.nextHandle.toNat, target := target, code := code, e := KTime.units e, lead := lead, copies := r }))
        ({ handle := s.stitch.nextHandle.toNat, target := target, code := code, e := KTime.units e, lead := lead, copies := r })) (.direct)
        (0xFFF) (0xEF) ({ sec := 3 }) (2 * secU) (4) (State.reset) = true) ∧
    ((fun (src : CmdSrc) (handle : Nat) (s : State) => (fun (x : Pending) => decide (s.acts (.stitchCancelTimed src handle) src 0x090B = true)
        && decide ((s.stitch.timed.find? fun y => decide (y.handle = handle)) = some x)) (((s.stitch.timed.find? fun y => decide (y.handle =
        handle))).getD ({ handle := 3 }))) (.direct) (3) ({ State.reset with stitch := { State.reset.stitch with timed := [{ handle := 3 }] } })
        = true) ∧
    ((fun (src : CmdSrc) (clear : Bool) (port : Nat) (s : State) => (fun (y : StPort) => decide (s.acts (.stitchGetPort src clear port) src
        0x090C = true) && decide (port < 256 ∧ (s.ports.get port).configured = true ∧ (s.ports.get port).isSelvedge = true ∧ y =
        s.stitch.ports.get port)) (s.stitch.ports.get port)) (.direct) (true) (8) (sPort 7 .up) = true) ∧
    ((fun (src : CmdSrc) (clear : Bool) (s : State) => decide (s.acts (.stitchGetSequencer src clear) src 0x090D = true)) (.direct) (true)
        (State.reset) = true) ∧
    ((fun (src : CmdSrc) (enable : Bool) (cycle lead commitTimeout joinTimeout watchdog skewGuard window chunkAge closeTimeout outcomeTimeout
        etherType : Nat) (plAsym : Int) (s : State) => decide (s.acts (.pairConfigure src enable cycle lead commitTimeout joinTimeout watchdog
        skewGuard window chunkAge closeTimeout outcomeTimeout etherType plAsym) src 0x0A01 (s.cmdRoleOk (.pairConfigure src enable cycle lead
        commitTimeout joinTimeout watchdog skewGuard window chunkAge closeTimeout outcomeTimeout etherType plAsym)) = true) && decide (125 * usU
        ≤ cycle ∧ cycle ≤ 10 * msU ∧ cycle % (125 * usU) = 0 ∧ 50 * usU ≤ lead ∧ lead ≤ 5 * msU ∧ lead < cycle ∧ 2 ≤ commitTimeout ∧
        commitTimeout ≤ 100) && decide (secU ≤ joinTimeout ∧ joinTimeout ≤ 600 * secU ∧ msU ≤ watchdog ∧ watchdog ≤ 1000 * msU ∧ usU ≤ skewGuard
        ∧ skewGuard ≤ 2 * msU ∧ [1024, 2048, 4096, 8192, 16384, 32768, 65536].contains window = true) && decide (10 * usU ≤ chunkAge ∧ chunkAge
        ≤ 2 * msU ∧ msU ≤ closeTimeout ∧ closeTimeout ≤ 100 * msU ∧ secU ≤ outcomeTimeout ∧ outcomeTimeout ≤ 600 * secU) && decide (0x600 ≤
        etherType ∧ etherType < 65536 ∧ etherTaken.contains etherType = false ∧ plAsym.natAbs ≤ nsU ∧ (etherType = s.pair.cfg.etherType ∨
        s.pair.role = .alone))) (.direct) (true) (125 * usU) (50 * usU) (2) (secU) (msU) (usU) (1024) (10 * usU) (msU) (secU) (0x88B5) (-nsU)
        (State.reset) = true) ∧
    ((fun (src : CmdSrc) (port attach source base count untagged : Nat) (a : Attach) (s : State) => (fun (y : PairPort) => decide (s.acts
        (.pairConfigurePort src port attach source base count untagged) src 0x0A02 = true) && decide (port < 256 ∧ (attach = 0 ∧ a = .unpaired ∨
        attach = 1 ∧ a = .dual ∨ attach = 2 ∧ a = .singleA ∨ attach = 3 ∧ a = .singleB)) && decide ((if 2 ≤ attach then 1 ≤ source ∧ source ≤
        0xFFFE else source = 0) ∧ (if attach = 1 then 1 ≤ base ∧ 1 ≤ count ∧ count ≤ 16384 ∧ base + count ≤ 0xFFFF ∧ untagged < 2 else base = 0
        ∧ count = 0 ∧ untagged = 0)) && decide (y =
        { attach := a, source := source, base := base, count := count, dropUntagged := decide (untagged = 1), seq := if decide (2 ≤ attach) && decide ((s.pair.ports.get port).source = source) then (s.pair.ports.get port).seq else 0, pathSeen := false })
        && decide ((s.pair.ports.any fun q => decide (q.1 ≠ port) && y.meets q.2) = false ∧ (s.portState port = .down ∨ s.attachRemote a = true
        ∧ s.attachRemote (s.pair.ports.get port).attach = true)))
        ({ attach := a, source := source, base := base, count := count, dropUntagged := decide (untagged = 1), seq := if decide (2 ≤ attach) && decide ((s.pair.ports.get port).source = source) then (s.pair.ports.get port).seq else 0, pathSeen := false }))
        (.direct) (8) (1) (0) (1) (16384) (1) (.dual) (sPort 0 .down) = true) ∧
    ((fun (src : CmdSrc) (clear : Bool) (s : State) => decide (s.acts (.pairGetStatus src clear) src 0x0A03 = true)) (.direct) (true)
        (State.reset) = true) ∧
    ((fun (src : CmdSrc) (s : State) => decide (s.acts (.pairSwitchover src) src 0x0A04 true = true) && decide (fromJournal src = true ∨
        s.pair.enable = true ∧ s.pair.role = .active ∧ s.partnerStandby = true ∧ s.pair.healthOk = true)) (.journal 0 0) (sPair .standby
        .active) = true) ∧
    ((fun (src : CmdSrc) (s : State) => decide (s.acts (.pairResync src) src 0x0A05 = true) && decide (s.pair.enable = true ∧ (s.partnerStandby
        = true ∨ s.pair.partnerRole = .detached))) (.direct) (sPair .active .detached) = true) ∧
    ((fun (src : CmdSrc) (duration : Nat) (s : State) => decide (s.acts (.pairTest src duration) src 0x0A06 = true) && decide ((duration = 0 ∨
        secU ≤ duration ∧ duration ≤ 3600 * secU) ∧ s.pair.role = .standby)) (.direct) (3600 * secU) (sPair .standby .active) = true) ∧
    ((fun (src : CmdSrc) (clear : Bool) (source : Nat) (s : State) => (fun (y : DupEntry) => decide (s.acts (.pairGetDigest src clear source)
        src 0x0A07 = true) && decide (1 ≤ source ∧ source ≤ 0xFFFE ∧ s.pair.dup.find source = some y)) ((s.pair.dup.find source).getD ({})))
        (.direct) (true) (9) (sDup) = true) ∧
    ((fun (src : CmdSrc) (source : Nat) (s : State) => (fun (y : DupEntry) => decide (s.acts (.pairGetDup src source) src 0x0A08 = true) &&
        decide (1 ≤ source ∧ source ≤ 0xFFFE ∧ s.pair.dup.find source = some y)) ((s.pair.dup.find source).getD ({}))) (.direct) (9) (sDup) =
        true) ∧
    ((fun (src : CmdSrc) (g v : Nat) (s : State) => decide (s.acts (.secSetStepGuard src g v) src 0x0C10 = true) && decide (g ≤ 1000000 * nsU ∧
        secU ≤ v ∧ v ≤ 3600 * secU)) (.direct) (1000000 * nsU) (3600 * secU) (sSession) = true) ∧
    ((fun (src : CmdSrc) (direction magnitude validity : Nat) (s : State) => decide (s.acts (.secAuthoriseStep src direction magnitude
        validity) src 0x0C11 = true) && decide (direction < 2 ∧ 1 ≤ magnitude ∧ magnitude ≤ (if direction = 0 then 10 ^ 18 else 10 ^ 9) ∧ secU ≤
        validity ∧ validity ≤ 60 * secU)) (.direct) (0) (10 ^ 18) (60 * secU) (sSession) = true) ∧
    ((fun (src : CmdSrc) (role level : Nat) (s : State) => decide (s.acts (.secChallenge src role level) src 0x0C01 = true) && decide (role < 2
        ∧ (if role = 1 then level < 2 else level = 0) ∧ (role = 1 → level = 1 → s.fuses.fullDebug = true)) && decide (∀ n, s.fw.authBusy = some
        n → n ≤ s.now)) (.direct) (0) (0) (State.reset) = true) ∧
    ((fun (src : CmdSrc) (part : Nat) (bytes : List Byte) (s : State) => (fun (y : Challenge) => decide (s.acts (.secResponse src part bytes)
        src 0x0C02 = true) && decide (part = 0 ∧ s.fw.challenge = some y ∧ s.now ≤ y.deadline)) ((s.fw.challenge).getD ({ deadline := 100 })))
        (.direct) (0) ([1, 2]) (sChallenge) = true) ∧
    ((fun (src : CmdSrc) (s : State) => decide (s.acts (.secClose src) src 0x0C03 = true)) (.direct) (sSession) = true) ∧
    ((fun (src : CmdSrc) (s : State) => decide (s.acts (.secDebugLock src) src 0x0C04 = true)) (.direct) (sSession) = true) ∧
    ((fun (src : CmdSrc) (slot : Nat) (s : State) => decide (s.acts (.secRevokeKey src slot) src 0x0C05 = true) && decide (slot < 8 ∧
        s.fw.base_.keySlot ≠ slot)) (.direct) (7) (sSession) = true) ∧
    ((fun (src : CmdSrc) (minimum : Nat) (s : State) => decide (s.acts (.secSetMinVersion src minimum) src 0x0C06 = true) && decide (minimum ≤
        64 ∧ s.fuses.minVersion ≤ minimum ∧ minimum ≤ s.fw.base_.secVersion)) (.direct) (0) (sSession) = true) ∧
    ((fun (src : CmdSrc) (s : State) => decide (s.acts (.secGetStatus src) src 0x0C07 = true)) (.direct) (sSession) = true) ∧
    ((fun (src : CmdSrc) (enable : Bool) (trigger snap port k : Nat) (mask : BitVec 256) (s : State) => decide (s.acts (.captureConfigure src
        enable trigger snap port k mask) src 0x0B40 = true) && decide (trigger < 5 ∧ (snap = 0 ∨ snap = 64 ∨ snap = 128 ∨ snap = 192 ∨ snap =
        256) ∧ (if trigger = 1 then port < 256 ∧ k ≤ 24 else port = 0 ∧ k = 0) ∧ (2 ≤ trigger ∨ mask = 0))) (.direct) (true) (1) (256) (255)
        (24) (0) (State.reset) = true) ∧
    ((fun (src : CmdSrc) (block first count : Nat) (s : State) => decide (s.acts (.counterClear src block first count) src 0x0B01 = true) &&
        decide (block ≤ 3 ∧ first < clearSize block ∧ 0 < count ∧ first + count ≤ clearSize block)) (.direct) (1) (2047) (1) (State.reset) =
        true) ∧
    ((fun (src : CmdSrc) (source cause : Nat) (data : List Byte) (s : State) => decide (s.acts (.eventInject src source cause data) src 0x0B02
        = true) && decide (source ≤ 832 ∧ 1 ≤ cause % 256 ∧ cause % 256 ≤ Ev.causesOf (cause / 256) ∧ cause < 65536)) (.direct) (832) (0x0111)
        ([1, 2]) (State.reset) = true) := by
  and_intros
  all_goals first | (simp only [sStaged_stagedOk]; decide +kernel) | decide +kernel | rfl

/-- The hypotheses of each clause of CompletionsOfPowerAndLinkRows can be met. -/
theorem test_meets_CompletionsOfPowerAndLinkRows :
    ((fun (stream : StreamId) (n : Nat) (s : State) => (fun (m : FenceMark) => decide (stream = .ring n ∧ n < 8 ∧ s.time.tickOn = true ∧
        s.ringMark n = some m ∧ s.time.tick0 + m.f + 2 * usC ≤ s.now ∧ s.ringPassed n m.f = true ∧ s.ringNext n = none) && decide
        ((s.tdc.rings.get n).waitMarks = [] ∧ (s.tdc.rings.get n).lostRun = 0 ∧ (s.tdc.rings.get n).fill < 4096)) ((s.ringMark n).getD
        ({ stream := .ring 3, epoch := 5, f := 0 }))) (.ring 3) (3)
        ({ sTick with now := 2 * usC, fence := { sTick.fence with marks := [{ stream := .ring 3, epoch := 5, f := 0 }] } }) = true) ∧
    ((fun (core : Nat) (s : State) => decide (core < 14 ∧ (s.fw.cores.get core).state = 1)) (13) (sCore 13 1) = true) ∧
    ((fun (core addr : Nat) (s : State) => decide (core < 14 ∧ (s.fw.cores.get core).state = 1 ∧ (recent (s.fw.cores.get core).faults s.now
        secC).length < 15)) (13) (5) (sCore 13 1) = true) ∧
    ((fun (core : Nat) (s : State) => decide (core < 14 ∧ (s.fw.cores.get core).state = 3 ∧ s.glob.keeperRestarting = false ∧ s.fence.waiting =
        [] ∧ s.fence.active = [])) (1) (sCore 1 3) = true) ∧
    ((fun (what : SramWhat) (arg : Nat) (s : State) => decide (what = .staging ∧ arg < 7)) (.staging) (6) (sRun) = true) ∧
    ((fun (n : Nat) (o : Overlay) (s : State) => (fun (a : ActiveFence) => decide (s.time.tickOn = true ∧ (s.fence.active.find? fun b => b.arm)
        = some a ∧ s.time.tick0 + a.f ≤ s.now ∧ s.armedSlot = some (n, o) ∧ o.timeMode = false ∧ o.src = a.src ∧ s.fence.waiting = []))
        (((s.fence.active.find? fun b => b.arm)).getD ({ arm := true, epoch := 1 }))) (3) ({ state := .armed })
        ({ (sSlot .armed false 0) with time := { State.reset.time with tickOn := true }, fence := { sTick.fence with active := [{ arm := true, epoch := 1 }] } })
        = true) ∧
    ((fun (c : Nat) (s : State) => decide (s.power.resetPending = some (0, c) ∧ s.power.resetAt ≤ s.now ∧ s.glob.keeperRestarting = false)) (4)
        ({ State.reset with power := { State.reset.power with resetPending := some (0, 4), resetCause := 1 } }) = true) ∧
    ((fun (low : Nat) (s : State) => decide (1250 ≤ low)) (1250) (sRun) = true) ∧
    ((fun (supply : Nat) (s : State) => decide ((supply = 0 ∨ supply = 1) ∧ s.power.supplyFault.get supply = false ∧ s.power.stage ≠
        .thermtrip)) (0) (sRun) = true) ∧
    ((fun (supply : Nat) (s : State) => decide (supply < 9)) (8) ({ sRun with power := { sRun.power with supplyFault := [(8, true)] } }) = true) ∧
    ((fun (sensor : Nat) (s : State) => decide (sensor < 16 ∧ (s.power.sensors.get sensor).faulty = false ∧ s.power.stage ≠ .thermtrip)) (15)
        (sRun) = true) ∧
    ((fun (sensor : Nat) (value : Int) (s : State) => decide (sensor < 16)) (15) (800) (sRun) = true) ∧
    ((fun (sensor : Nat) (s : State) => decide (sensor < 16 ∧ (s.power.sensors.get sensor).noConv = false)) (15) (sRun) = true) ∧
    ((fun (sensor : Nat) (s : State) => (fun (n : Nat) => decide (sensor < 16 ∧ (s.power.sensors.get sensor).faulty = true ∧
        (s.power.sensors.get sensor).soundSince = some n ∧ n + 10 * secC ≤ s.now ∧ (s.power.sensors.get sensor).bad s.now = false))
        (((s.power.sensors.get sensor).soundSince).getD (0))) (15)
        ({ sRun with now := 10 * secC, power := { sRun.power with sensors := [(15, { faulty := true, soundSince := some 0 })] } }) = true) ∧
    ((fun (ok : Bool) (order serial : Nat) (strap : Bool) (hashes : List (Nat × List Byte)) (fullDebug : Bool) (s : State) => decide
        (s.power.stage = .por ∧ s.power.supplyHold = false ∧ s.power.romFault = false ∧ 1 ≤ order ∧ order ≤ 3 ∧ serial < 2 ^ 64 ∧ (hashes.any
        fun y => decide (8 ≤ y.1 ∨ y.2.length ≠ 48)) = false ∧ s.fuses.fusesRead = false)) (true) (3) (2 ^ 64 - 1) (true) ([]) (false)
        (State.reset) = true) ∧
    ((fun (a b : Option (List Byte)) (s : State) => (fun (i : Option ImgInfo) => (fun (j : Option ImgInfo) => decide (s.power.stage = .flash ∧
        i = (a.bind fun l => (s.verifyImage true l).getRight?) ∧ j = (b.bind fun l => (s.verifyImage true l).getRight?))) ((b.bind fun l =>
        (s.verifyImage true l).getRight?))) ((a.bind fun l => (s.verifyImage true l).getRight?))) (none) (none) (sStage .flash 1) = true) ∧
    ((fun (s : State) => decide (s.power.rootRetry = none ∧ s.power.stage = .pd1 ∧ s.pdOn 1 = true ∧ s.power.resetting ≠ some 3)) (sStage .pd1
        3) = true) ∧
    ((fun (s : State) => decide (s.power.rootRetry = none ∧ s.power.stage = .pd1 ∧ s.pdOn 1 = true ∧ s.glob.rootRunning = false)) (sStage .pd1
        3) = true) ∧
    ((fun (s : State) => decide (s.power.stage = .pd2 ∧ s.pdOn 2 = true)) (sStage .pd2 7) = true) ∧
    ((fun (s : State) => decide (s.power.stage = .recovery)) (sStage .recovery 1) = true) ∧
    ((fun (s : State) => decide (s.power.recErasing = true)) ({ State.reset with power := { State.reset.power with recErasing := true } }) =
        true) ∧
    ((fun (offset : Nat) (bytes : List Byte) (s : State) => decide (s.power.stage = .recovery ∧ s.power.recErased = true ∧ bytes ≠ [] ∧
        bytes.length ≤ 256 ∧ offset % 256 + bytes.length ≤ 256 ∧ offset + bytes.length ≤ 16777216)) (16777215) ([7])
        ({ sStage .recovery 1 with power := { (sStage .recovery 1).power with recErased := true } }) = true) ∧
    ((fun (s : State) => (fun (l : List Byte) => decide (s.power.stage = .recovery ∧ s.power.recErased = true ∧ l = s.power.copy1Bytes (min
        16777216 (ofBe (slice (s.power.copy1Bytes 28) 24 4))))) (s.power.copy1Bytes (min 16777216 (ofBe (slice (s.power.copy1Bytes 28) 24 4)))))
        ({ sStage .recovery 1 with power := { (sStage .recovery 1).power with recErased := true, copy1 := [(24, 0), (25, 0), (26, 0), (27, 28)] } })
        = true) ∧
    ((fun (opcode kind : Nat) (s : State) => decide (opcode = 0x99 ∧ s.power.stage ≠ .thermtrip ∧ s.power.ospiArm = true ∧ kind < 2 ∧
        s.resetsNow = [])) (0x99) (1) ({ sRun with power := { sRun.power with ospiArm := true } }) = true) ∧
    ((fun (lane : Nat) (s : State) => decide (lane < 264 ∧ (s.lanes.get lane).state = .swatch ∧ (s.lanes.get lane).swatch.locked = false)) (8)
        (sPort 0 .swatch) = true) ∧
    ((fun (lane bits errors : Nat) (s : State) => decide (lane < 264 ∧ errors ≤ bits ∧ (s.lanes.get lane).state = .swatch ∧ (s.lanes.get
        lane).swatch.locked = true)) (8) (2 ^ 48) (0) ((sPort 0 .swatch).updLane 8 fun x =>
        { x with swatch := { x.swatch with locked := true } }) = true) ∧
    ((fun (lane : Nat) (counts : List Nat) (s : State) => decide (lane < 264 ∧ counts.length = 1024 ∧ (counts.any fun n => decide (65535 < n))
        = false ∧ (s.lanes.get lane).swatch.sweeping = true)) (8) (List.replicate 1024 65535) ((sPort 0 .swatch).updLane 8 fun x =>
        { x with swatch := { x.swatch with sweeping := true, sweepEnd := 9 } }) = true) ∧
    ((fun (port : Nat) (s : State) => decide (portNamed port = true ∧ (s.ports.get port).configured = true ∧ s.portState port = .casting ∧
        ((s.ports.get port).isSelvedge = true → (s.selv.get port).rowState = .locked))) (8) (sPort 0 .casting) = true) ∧
    ((fun (port : Nat) (s : State) => (fun (n : Nat) => decide (portNamed port = true ∧ (s.ports.get port).castTimer = some n ∧ s.portState
        port = .casting ∧ n ≤ s.now ∧ port < 256)) (((s.ports.get port).castTimer).getD (0))) (8) (sTimed .casting fun x =>
        { x with castTimer := some 0 }) = true) ∧
    ((fun (port : Nat) (pointersOk : Bool) (offsets deskews : List Int) (s : State) => (fun (n : Nat) => decide (portNamed port = true ∧
        (s.ports.get port).provingEnd = some n ∧ s.portState port = .proving ∧ n ≤ s.now ∧ offsets.length = (s.ports.get port).width ∧
        deskews.length = (s.ports.get port).width) && decide ((offsets.any fun o => decide (s.freqLimit port < o.natAbs)) = false ∧ pointersOk =
        true)) (((s.ports.get port).provingEnd).getD (0))) (8) (true) ([0]) ([0]) (sTimed .proving fun x => { x with provingEnd := some 0 }) =
        true) ∧
    ((fun (lane : Nat) (s : State) => (fun (q : Nat) => decide (lane < 264 ∧ s.portOf lane = some q ∧ (s.lanes.get lane).losPending = false ∧
        s.portState q = .up)) ((s.portOf lane).getD (8))) (8) (sPort 7 .up) = true) ∧
    ((fun (lane : Nat) (kind : LossKind) (s : State) => (fun (q : Nat) => decide (lane < 264 ∧ s.portOf lane = some q ∧ s.portState q = .up))
        ((s.portOf lane).getD (8))) (8) (.cdr) ((sPort 7 .up).updLane 8 fun x => { x with lockFlags := 255 }) = true) ∧
    ((fun (lane : Nat) (offset : Int) (s : State) => decide (lane < 264 ∧
        (match s.portOf lane with | none => true | some q => decide (offset.natAbs ≤ s.freqLimit q ∨ s.portState q ≠ .up ∧ s.portState q ≠ .proving))
        = true)) (8) (-1) (sPort 7 .up) = true) ∧
    ((fun (port : Nat) (s : State) => (fun (n : Nat) => decide (portNamed port = true ∧ (s.ports.get port).holdTimer = some n ∧ s.portState
        port = .fault ∧ (s.ports.get port).recastManual = true ∧ n ≤ s.now)) (((s.ports.get port).holdTimer).getD (0))) (8) (sTimed .fault fun x
        => { x with holdTimer := some 0, recastManual := true }) = true) ∧
    ((fun (port : Nat) (s : State) => decide (port < 256 ∧ s.portState port = .binding ∧ (s.ports.get port).drainTimer.isSome = true ∧
        s.egressIdle port = true)) (8) (sTimed .binding fun x => { x with drainTimer := some 50 }) = true) ∧
    ((fun (port : Nat) (s : State) => (fun (n : Nat) => decide (port < 256 ∧ s.portState port = .binding ∧ (s.ports.get port).drainTimer = some
        n)) (((s.ports.get port).drainTimer).getD (50))) (8) (sTimed .binding fun x => { x with drainTimer := some 50 }) = true) ∧
    ((fun (port : Nat) (s : State) => (fun (n : Nat) => decide (port < 256 ∧ s.portState port = .binding ∧ (s.ports.get port).lingerTimer =
        some n ∧ n ≤ s.now)) (((s.ports.get port).lingerTimer).getD (0))) (8) (sTimed .binding fun x => { x with lingerTimer := some 0 }) = true) ∧
    ((fun (bits : List Nat) (n : Nat) (m : Module) (s : State) => (fun (b : Nat) => (fun (k : Nat) => decide ((bits.any fun b => decide (3 <
        b)) = false ∧ s.modules = [(n, m)] ∧ b = bits.getD n 0 ∧ k = (if b = m.lastRaw then min 3 (m.rawCount + 1) else 1))) ((if b = m.lastRaw
        then min 3 (m.rawCount + 1) else 1))) (bits.getD n 0)) ([3, 1]) (1) ({ lastRaw := 1, rawCount := 2, lanes := [8, 9] })
        ({ sRun with modules := [(1, { lastRaw := 1, rawCount := 2, lanes := [8, 9] })] }) = true) ∧
    ((fun (s : State) => decide (s.power.sgpioStalled = false)) (sRun) = true) ∧
    ((fun (port index : Nat) (ctl : Bool) (word tick sub : Nat) (s : State) => (fun (k : Nat) => decide (port < 256 ∧ [0, 64, 128,
        192].contains index = true ∧ s.time.tick0 + tick ≤ s.now ∧ s.hearsRows port = true ∧ (s.selv.get port).rowState = .locked) && decide
        ((slotPositions (s.selv.get port).slots).contains index = true ∧ stitchFails ctl index word = 0 ∧ k = word / 256 / 2 ^ 52)) (word / 256
        / 2 ^ 52)) (8) (64) (true) (12 * 2 ^ 60 + (stitchCrc (12 * 2 ^ 52) ^^^ slotMask 64)) (0) (0)
        ({ sPort 7 .up with selv := [(8, { slots := 4, rowState := .locked })] }) = true) ∧
    ((fun (port : Nat) (s : State) => decide (port < 256 ∧ (s.ports.get port).configured = true ∧ (s.ports.get port).isSelvedge = true ∧
        (s.portState port).ranges = true ∧ (s.selv.get port).linkStale = false)) (8) ((sPort 7 .up)) = true) ∧
    ((fun (group : Nat) (s : State) => decide (group < 6 ∧ s.time.tickOn = true)) (5) (sTick) = true) ∧
    ((fun (q : QStitch) (l : List QStitch) (s : State) => decide (s.stitch.arriving = q :: l ∧ s.time.tickOn = true ∧ s.time.tick0 + q.arrive ≤
        s.now)) ({}) ([]) ({ sTick with stitch := { sTick.stitch with arriving := [{}] } }) = true) ∧
    ((fun (s : State) => (fun (n : Nat) => decide (nextAfter s.tick (s.stitch.queues.flatMap fun q => q.2.map (·.ready)) = some n ∧
        s.time.tickOn = true)) ((nextAfter s.tick (s.stitch.queues.flatMap fun q => q.2.map (·.ready))).getD (64)))
        ({ sTick with stitch := { sTick.stitch with queues := [(3, [{ ready := 64 }])] } }) = true) ∧
    ((fun (ch tick phase fine : Nat) (falling : Bool) (s : State) => (fun (y : TdcChan) => (fun (v : Stamp) => decide (280 ≤ ch ∧ ch < 312 ∧
        s.time.tick0 + tick ≤ s.now ∧ y = s.tdc.chans.get ch ∧ y.enable = true ∧ y.inputOpen = false ∧ (y.edge = 2 ∨ (if falling then y.edge = 1
        else y.edge ≠ 1)) ∧ s.inService ch = true) && decide (y.lastEdge = none ∧ y.dllLocked = true ∧ y.preCount = 0 ∧ y.regression = false ∧ v
        = s.makeStamp ch tick (phase % 16) (fine % 32) falling ∧ (s.tdc.groups.get (groupOf ch)).inside v = true)) (s.makeStamp ch tick (phase %
        16) (fine % 32) falling)) (s.tdc.chans.get ch)) (280) (0) (0) (0) (false) (sEvt { enable := true, edge := 2 } { open_ := true }) = true) ∧
    ((fun (ch tick phase fine width : Nat) (s : State) => (fun (n : Nat) => (fun (v : Stamp) => decide (264 ≤ ch ∧ ch < 272 ∧ n = ch - 264 ∧
        s.time.tick0 + tick ≤ s.now ∧ s.armed ch = true ∧ s.inService ch = true ∧ 19661 ≤ width ∧ (s.tdc.chans.get ch).dllLocked = true ∧
        (s.ref.slots.get n).pulse n = false) && decide (v = s.makeStamp ch tick (phase % 16) (fine % 32) (s.ref.slots.get n).falling))
        (s.makeStamp ch tick (phase % 16) (fine % 32) (s.ref.slots.get n).falling)) (ch - 264)) (264) (0) (0) (0) (65536)
        ({ sTick with ref := { sTick.ref with slots := [(0, { enable := true, fNum := 10000000, fDen := 1, state := .qualified })] }, gauge := { sTick.gauge with regions := [(17, { state := .idle })] } })
        = true) ∧
    ((fun (s : State) => (fun (x : Pending) => decide (firstTimed s.stitch.timed = some x ∧ s.time.tick0 + s.fireTick (x.e - x.lead) ≤ s.now))
        ((firstTimed s.stitch.timed).getD ({}))) ({ sTick with stitch := { sTick.stitch with timed := [{}] } }) = true) ∧
    ((fun (chan : Nat) (s : State) => (fun (y : McChan) => (fun (q : QStitch) => decide (chan < 4 ∧ y = s.stitch.mc.get chan ∧ y.enable = true
        ∧ y.setInterval ≠ 0 ∧ y.nextSet ≤ s.now) && decide (q =
        { type := 4, target := y.phaseTarget, payload := (if y.stepSets = 0 then 0 else 1), chan := chan, arrive := s.tick, ready := s.tick + 64 }))
        ({ type := 4, target := y.phaseTarget, payload := (if y.stepSets = 0 then 0 else 1), chan := chan, arrive := s.tick, ready := s.tick + 64 }))
        (s.stitch.mc.get chan)) (3) ({ sTick with stitch := { sTick.stitch with mc := [(3, { enable := true, setInterval := 655360 })] } }) =
        true) ∧
    ((fun (chan : Nat) (s : State) => (fun (y : McChan) => (fun (q : QStitch) => decide (chan < 4 ∧ y = s.stitch.mc.get chan ∧ y.enable = true
        ∧ y.tracked = true ∧ y.orbitLen ≠ 0 ∧ y.bcnInterval ≠ 0 ∧ y.orbit % y.bcnInterval = 0 ∧ y.bcnDone ≠ some y.orbit) && decide (q =
        { type := 2, target := y.bcnTarget, chan := chan, arrive := s.tick, ready := s.tick }))
        ({ type := 2, target := y.bcnTarget, chan := chan, arrive := s.tick, ready := s.tick })) (s.stitch.mc.get chan)) (3)
        ({ sTick with stitch := { sTick.stitch with mc := [(3, { enable := true, tracked := true, orbitLen := 9, bcnInterval := 1 })] } }) =
        true) := by
  and_intros
  all_goals decide +kernel

/-- The hypotheses of each clause of CompletionsOfTimeAndFrameRows can be met. -/
theorem test_meets_CompletionsOfTimeAndFrameRows :
    ((fun (input : Nat) (s : State) => decide (input < 32 ∧ (s.tdc.chans.get (280 + input)).inputOpen = false)) (31) (sRun) = true) ∧
    ((fun (input : Nat) (level : Bool) (s : State) => decide (input < 32)) (31) (true)
        ({ sRun with tdc := { sRun.tdc with chans := [(311, { inputOpen := true })] } }) = true) ∧
    ((fun (ch : Nat) (s : State) => (fun (y : TdcChan) => decide (280 ≤ ch ∧ ch < 312 ∧ y = s.tdc.chans.get ch ∧ y.enable = true ∧ y.rateLimit
        ≠ 0 ∧ y.rateLimit < y.winEdges)) (s.tdc.chans.get ch)) (311)
        ({ sTick with tdc := { sTick.tdc with chans := [(311, { enable := true, rateLimit := 1, winEdges := 2 })] } }) = true) ∧
    ((fun (ch : Nat) (s : State) => (fun (y : TdcChan) => decide (280 ≤ ch ∧ ch < 312 ∧ y = s.tdc.chans.get ch ∧ y.enable = true ∧
        (s.tdc.groups.get (groupOf ch)).open_ = true ∧ y.silence ≠ 0 ∧ y.silentRaised = false)) (s.tdc.chans.get ch)) (280)
        ({ sTick with tdc := { sTick.tdc with chans := [(280, { enable := true, silence := 65536000 })], groups := [(groupOf 280, { open_ := true })] } })
        = true) ∧
    ((fun (lane tick phase fine : Nat) (s : State) => (fun (k : Stamp) => decide (lane < 264 ∧ s.time.tick0 + tick ≤ s.now ∧ ((s.lanes.get
        lane).state = .casting ∨ s.armed lane = true) ∧ s.inService lane = true ∧ (s.tdc.chans.get lane).dllLocked = true ∧ k = s.makeStamp lane
        tick (phase % 16) (fine % 32) false)) (s.makeStamp lane tick (phase % 16) (fine % 32) false)) (8) (0) (0) (0) (sTap true) = true) ∧
    ((fun (ring n : Nat) (g : QRec) (l : List QRec) (s : State) => (fun (x : Ring) => decide (ring < 8 ∧ s.ringNext ring = some (n, none) ∧
        s.ringMay ring (n, none) = true ∧ s.ringMark ring = none ∧ x = s.tdc.rings.get ring ∧ x.queue = g :: l) && decide (x.enable = true ∧
        x.waitMarks = [] ∧ x.lostRun = 0 ∧ x.fill + g.recs.length ≤ 4096)) (s.tdc.rings.get ring)) (7) (5)
        ({ tick := 5, recs := [{ kind := 2 }] }) ([]) (sRingT 7 { enable := true, queue := [{ tick := 5, recs := [{ kind := 2 }] }] }) = true) ∧
    ((fun (ring : Nat) (s : State) => (fun (y : Ring) => decide (ring < 8 ∧ y = s.tdc.rings.get ring ∧ y.fill ≠ 0 ∧ y.idleTimeout ≠ 0 ∧
        y.timeoutSeen ≠ some y.rd.toNat)) (s.tdc.rings.get ring)) (7) (sRing 7 { wr := 1, idleTimeout := 5 }) = true) ∧
    ((fun (ring : Nat) (value : BitVec 32) (s : State) => decide (ring < 8 ∧ s.streamOwned ring = false ∧ dist32 (s.tdc.rings.get ring).rd
        value ≤ (s.tdc.rings.get ring).fill)) (7) (1) (sRing 7 { wr := 1 }) = true) ∧
    ((fun (group : Nat) (level : Bool) (tick : Nat) (s : State) => (fun (y : GateGrp) => decide (group < 4 ∧ s.time.tick0 + tick ≤ s.now ∧ y =
        s.tdc.groups.get group ∧ y.pin ≠ level ∧ (y.mode = 0 ∨ y.mode = 1) ∧ y.open_ = false ∧ level ≠ y.activeLow)) (s.tdc.groups.get group))
        (3) (true) (0) (sGate {}) = true) ∧
    ((fun (group : Nat) (s : State) => (fun (y : GateGrp) => (fun (a : Nat) => (fun (b : Nat) => decide (group < 4 ∧ y = s.tdc.groups.get group
        ∧ y.pulseEnd = some a ∧ y.maxEnd = some b ∧ y.open_ = true ∧ a ≤ b ∧ s.time.tick0 + a ≤ s.now)) ((y.maxEnd).getD (0)))
        ((y.pulseEnd).getD (0))) (s.tdc.groups.get group)) (3) (sGate { open_ := true, mode := 1, pulseEnd := some 0, maxEnd := some 0 }) = true) ∧
    ((fun (group : Nat) (s : State) => (fun (y : GateGrp) => (fun (b : Nat) => decide (group < 4 ∧ y = s.tdc.groups.get group ∧ y.maxEnd = some
        b ∧ y.open_ = true ∧ (y.pulseEnd.all fun a => decide (b < a)) = true ∧ s.time.tick0 + b ≤ s.now)) ((y.maxEnd).getD (0)))
        (s.tdc.groups.get group)) (3) (sGate { open_ := true, maxEnd := some 0 }) = true) ∧
    ((fun (engine : Nat) (a : Stamp) (l : List Stamp) (s : State) => (fun (y : IntervalEng) => decide (engine < 32 ∧ y = s.tdc.intervals.get
        engine ∧ y.starts = a :: l ∧ (y.stops.any fun b => decide (a.u ≤ b.u)) = true)) (s.tdc.intervals.get engine)) (31) ({}) ([])
        ({ sTick with tdc := { sTick.tdc with intervals := [(31, { starts := [{}], stops := [{}] })] } }) = true) ∧
    ((fun (s : State) => (fun (n : Nat) => decide (s.gauge.hold = some n)) ((s.gauge.hold).getD (9))) (sRegion .idle fun g =>
        { g with hold := some 9 }) = true) ∧
    ((fun (value : BitVec 32) (s : State) => (fun (c : Nat) => decide (value.toNat % 2 = 1 ∧ c = s.gauge.gwChannel ∧ (regionOf c).isSome =
        true)) (s.gauge.gwChannel)) (5) (sRegion .idle fun g =>
        { g with gwChannel := 319, chans := [(319, { centre := [(511, 7)], dllCode := 5 })] }) = true) ∧
    ((fun (n : Nat) (l : List Nat) (s : State) => (fun (y : GRegion) => decide (s.gauge.pendingQ = n :: l ∧ s.gauge.running = none ∧ y =
        s.gauge.regions.get n ∧ (s.gaugeHeld = false ∨ y.urgent = true))) (s.gauge.regions.get n)) (20) ([]) (sRegion .pending fun g =>
        { g with pendingQ := [20] }) = true) ∧
    ((fun (injected : List Injected) (s : State) => (fun (n : Nat) => (fun (o : GRegion) => decide (s.gauge.running = some n ∧ o =
        s.gauge.regions.get n ∧ o.state = .running ∧ (s.injects n = true → s.injectable n injected = true))) (s.gauge.regions.get n))
        ((s.gauge.running).getD (20))) ([]) (sRegion .running fun g => { g with running := some 20 }) = true) ∧
    ((fun (region : Nat) (sets : List CalSet) (s : State) => (fun (o : GRegion) => decide (region < 21 ∧ o = s.gauge.regions.get region ∧
        o.state = .full ∧ s.gauge.running = some region)) (s.gauge.regions.get region)) (20) ([]) (sRegion .full fun g =>
        { g with running := some 20 }) = true) ∧
    ((fun (region : Nat) (s : State) => (fun (y : GRegion) => decide (region < 21 ∧ y = s.gauge.regions.get region ∧ y.state = .idle ∧
        (s.gauge.periodic ≠ 0 ∨ y.failed = true))) (s.gauge.regions.get region)) (20) (sRegion .idle fun g => { g with periodic := secU }) =
        true) ∧
    ((fun (region : Nat) (s : State) => decide (region < 21 ∧ (s.gauge.regions.get region).state = .idle ∧ s.regionTemp region = none ∧
        (s.gauge.regions.get region).tempLost = none)) (20)
        ({ sRegion .idle id with power := { sRun.power with sensors := (List.range 16).map fun n => (n, { faulty := true }) } }) = true) ∧
    ((fun (loss : DllLoss) (s : State) => decide (loss.ch < 320 ∧ (s.tdc.chans.get loss.ch).dllLocked = true ∧ s.inService loss.ch = true ∧
        dllUnlockLimit < loss.error.natAbs)) ({ ch := 319, error := 10 ^ 9 })
        ({ sTick with gauge := { sTick.gauge with regions := (List.range 21).map fun n => (n, { state := .idle }) }, tdc := { sTick.tdc with chans := [(319, { dllLocked := true })] } })
        = true) ∧
    ((fun (lock : DllLock) (s : State) => (fun (n : Nat) => decide (lock.ch < 320 ∧ (s.tdc.chans.get lock.ch).dllLocked = false ∧ s.inService
        lock.ch = true ∧ regionOf lock.ch = some n ∧ 1024 ≤ lock.within)) ((regionOf lock.ch).getD (20))) ({ ch := 319, within := 1024 })
        ({ sTick with gauge := { sTick.gauge with regions := (List.range 21).map fun n => (n, { state := .idle }) }, tdc := { sTick.tdc with chans := [(319, { dllLocked := false })] } })
        = true) ∧
    ((fun (ch : Nat) (s : State) => (fun (n : Nat) => (fun (d : Nat) => decide (ch < 320 ∧ (s.tdc.chans.get ch).dllTimer = some d ∧ regionOf ch
        = some n)) (((s.tdc.chans.get ch).dllTimer).getD (9))) ((regionOf ch).getD (20))) (319)
        ({ sRegion .idle id with tdc := { sTick.tdc with chans := [(319, { dllTimer := some 9 })] } }) = true) ∧
    ((fun (region : Nat) (aOk bOk : Bool) (bEpoch : Nat) (bCentres : List (Nat × List Nat)) (s : State) => decide (region < 21 ∧
        (s.gauge.regions.get region).state ≠ .off ∧ (s.gauge.regions.get region).commitDue = false ∧ aOk = true ∧ bOk = false)) (20) (true)
        (false) (5) ([]) (sRegion .idle fun g => { g with regions := [(20, { state := .idle, epoch := 3 })] }) = true) ∧
    ((fun (s : State) => decide (s.time.tickOn = true)) (sTick) = true) ∧
    ((fun (slot : Nat) (s : State) => decide ((slot < 8 ∨ 28 ≤ slot ∧ slot < 31) ∧ (s.ref.slots.get slot).enable = true ∧ (s.ref.slots.get
        slot).active = true)) (30) ({ sTick with ref := { sTick.ref with slots := [(30, { enable := true, active := true })] } }) = true) ∧
    ((fun (edges : Nat) (s : State) => decide (80 ≤ edges ∧ edges ≤ 120)) (100)
        ({ sRun with glob := { sRun.glob with xoPresent := false, xoBad := 2 } }) = true) ∧
    ((fun (s : State) => (fun (n : Nat) => decide (s.ref.state = .holdover ∧ s.ref.inSpecEnd = some n)) ((s.ref.inSpecEnd).getD (9)))
        ({ sTick with ref := { sTick.ref with state := .holdover, inSpecEnd := some 9 } }) = true) ∧
    ((fun (s : State) => (fun (n : Nat) => decide (s.ref.state = .steered ∧ s.ref.steerEnd = some n)) ((s.ref.steerEnd).getD (9)))
        ({ sTick with ref := { sTick.ref with state := .steered, steerEnd := some 9 } }) = true) ∧
    ((fun (slot : Nat) (s : State) => (fun (y : RefSlot) => (fun (l : Nat) => decide (8 ≤ slot ∧ slot < 24 ∧ y = s.ref.slots.get slot ∧
        y.enable = true ∧ y.levelDead = false ∧ l = (if y.overrideLevel then y.cfgLevel else 15))) ((if y.overrideLevel then y.cfgLevel else
        15))) (s.ref.slots.get slot)) (23) ({ sTick with ref := { sTick.ref with slots := [(23, { enable := true })] } }) = true) ∧
    ((fun (port : Nat) (s : State) => decide (port < 256 ∧ s.esmcPorts.contains port = true ∧ s.portUp port = true)) (8)
        ({ sPort 0 .up with ref := { sRun.ref with slots := [(8, { enable := true, src := 8, esmc := true })] } }) = true) ∧
    ((fun (output : Nat) (s : State) => (fun (y : PpsOut) => decide (output < 2 ∧ y = s.ref.pps.get output ∧ y.enable = true ∧ y.squelched =
        false ∧ y.direct = true)) (s.ref.pps.get output)) (1)
        ({ sTick with ref := { sTick.ref with pps := [(1, { enable := true, direct := true })] } }) = true) ∧
    ((fun (output : Nat) (s : State) => (fun (y : ClkOut) => decide (output < 4 ∧ y = s.ref.clk.get output ∧ y.enable = true ∧ y.ktime = true ∧
        y.squelched = false ∧ y.residual ≠ 0)) (s.ref.clk.get output)) (3)
        ({ sTick with ref := { sTick.ref with clk := [(3, { enable := true, ktime := true, residual := 5 })] } }) = true) ∧
    ((fun (s : State) => (fun (a : Allowance) => decide (s.time.allowance = some a)) ((s.time.allowance).getD ({ expiry := 9 })))
        ({ sTick with time := { sTick.time with allowance := some { expiry := 9 } } }) = true) ∧
    ((fun (s : State) => decide (s.time.held = true)) ({ sTick with time := { sTick.time with held := true } }) = true) ∧
    ((fun (pf1 : Bool) (s : State) => decide (pf1 = false)) (false) (sTick) = true) ∧
    ((fun (queue : Nat) (s : State) => (fun (x : Tsq) => (fun (r : TsqReq) => decide (queue < 4 ∧ x = s.time.tsqs.get queue ∧ firstDeadline
        x.reqs = some r ∧ x.enable = true ∧ x.refusedRun = 0 ∧ s.tsqMarks queue = [] ∧ (x.reqs.any fun y => y.final_.isSome) = false))
        ((firstDeadline x.reqs).getD ({}))) (s.time.tsqs.get queue)) (3)
        ({ sTick with time := { sTick.time with tsqs := [(3, { enable := true, reqs := [{}] })] } }) = true) ∧
    ((fun (queue : Nat) (value : BitVec 32) (s : State) => (fun (x : Tsq) => decide (queue < 4 ∧ s.streamOwned (9 + queue) = false ∧ x =
        s.time.tsqs.get queue ∧ dist32 x.rd value ≤ x.fill)) (s.time.tsqs.get queue)) (3) (1)
        ({ sTick with time := { sTick.time with tsqs := [(3, { wr := 1 })] } }) = true) ∧
    ((fun (port : Nat) (msg : PtpRx) (s : State) => (fun (n : Nat) => decide (port < 256 ∧ s.instOf port = some n ∧ s.portUp port = true ∧
        s.messageFails n port msg = none ∧ msg.kind = .announce)) ((s.instOf port).getD (0))) (8)
        ({ kind := .announce, major := 2, length := 64, payload := 64, clock := 5 }) (sPtp {}) = true) ∧
    ((fun (port : Nat) (kind : PtpType) (tick sub : Nat) (s : State) => (fun (n : Nat) => decide (port < 256 ∧ kind = .announce ∧
        (s.ptp.ports.get port).preEnd = none ∧ s.instOf port = some n ∧ s.portUp port = true ∧ (s.ptp.ports.get port).state = .master ∧
        s.ptpMuted = false)) ((s.instOf port).getD (0))) (8) (.announce) (0) (0) (sPtp { state := .master }) = true) ∧
    ((fun (inst : Nat) (s : State) => (fun (n : Nat) => (fun (q : PtpSource) => decide (inst < 4 ∧ (s.ptp.insts.get inst).announceEnd = some n
        ∧ (s.ptp.insts.get inst).parent = some q ∧ (((s.instPorts inst).filterMap fun p => (s.ptp.ports.get p).annEnd).all fun k => decide (n ≤
        k)) = true)) (((s.ptp.insts.get inst).parent).getD ({}))) (((s.ptp.insts.get inst).announceEnd).getD (9))) (3)
        ({ sTick with ptp := { sTick.ptp with insts := [(3, { announceEnd := some 9, parent := some {} })] } }) = true) ∧
    ((fun (inst : Nat) (s : State) => (fun (n : Nat) => decide (inst < 4 ∧ (s.ptp.insts.get inst).syncEnd = some n)) (((s.ptp.insts.get
        inst).syncEnd).getD (9))) (3) ({ sTick with ptp := { sTick.ptp with insts := [(3, { syncEnd := some 9 })] } }) = true) ∧
    ((fun (port : Nat) (r : PtpReq) (l : List PtpReq) (s : State) => (fun (n : Nat) => (fun (x : PtpPort) => decide (port < 256 ∧ s.instOf port
        = some n ∧ x = s.ptp.ports.get port ∧ x.reqs = r :: l)) (s.ptp.ports.get port)) ((s.instOf port).getD (0))) (8) ({}) ([]) (sPtp
        { reqs := [{}] }) = true) ∧
    ((fun (slot : Nat) (s : State) => (fun (d : Nat) => decide (slot < 28 ∧ 24 ≤ slot ∧ (s.ptp.insts.get (slot - 24)).delayEnd = some d))
        (((s.ptp.insts.get (slot - 24)).delayEnd).getD (9))) (27)
        ({ sTick with ptp := { sTick.ptp with insts := [(3, { delayEnd := some 9 })] } }) = true) ∧
    ((fun (port : Nat) (s : State) => (fun (y : Asym) => decide (port < 256 ∧ y = s.ptp.asym.get port ∧ y.dual = true ∧ y.fallback = false))
        (s.ptp.asym.get port)) (8) ({ sPort 0 .up with ptp := { sRun.ptp with asym := [(8, { dual := true, partner := 9 })] } }) = true) ∧
    ((fun (chan : Nat) (k : Stamp) (l : List Stamp) (s : State) => (fun (y : McChan) => (fun (n : Int) => (fun (d : Int) => decide (chan < 4 ∧
        y = s.stitch.mc.get chan ∧ y.marks = k :: l ∧ y.tracked = true ∧ y.orbitLen ≠ 0 ∧ n = y.cycles (instQ k.tick k.sub + y.markOffset * 25)
        ∧ 4294967296 ≤ n % 4294967296 * 10 ∧ n % 4294967296 * 10 ≤ 9 * 4294967296 ∧ d = y.deltaOf (y.bunchOf n))) (y.deltaOf (y.bunchOf n)))
        (y.cycles (instQ k.tick k.sub + y.markOffset * 25))) (s.stitch.mc.get chan)) (3) ({}) ([]) (sMc
        { tracked := true, orbitLen := 9, marks := [{}], thetaF := 2147483648, bunch := 4, markRun := 2, delta := 4 }) = true) ∧
    ((fun (chan : Nat) (s : State) => (fun (y : McChan) => decide (chan < 4 ∧ y = s.stitch.mc.get chan ∧ y.enable = true ∧ y.tracked = true ∧
        y.markSrc ≠ 3 ∧ 4 ≤ y.markGap ∧ y.markLostRaised = false)) (s.stitch.mc.get chan)) (3) (sMc
        { enable := true, tracked := true, markSrc := 0, markGap := 4 }) = true) ∧
    ((fun (chan : Nat) (s : State) => (fun (y : McChan) => decide (chan < 4 ∧ y = s.stitch.mc.get chan ∧ y.enable = true ∧ y.state = .track))
        (s.stitch.mc.get chan)) (3) (sMc { enable := true, state := .track }) = true) ∧
    ((fun (chan : Nat) (s : State) => (fun (n : Nat) => decide (chan < 4 ∧ (s.stitch.mc.get chan).state = .coast ∧ (s.stitch.mc.get
        chan).coastEnd = some n)) (((s.stitch.mc.get chan).coastEnd).getD (9))) (3) (sMc { state := .coast, coastEnd := some 9, valid := true })
        = true) ∧
    ((fun (chan : Nat) (s : State) => (fun (y : McChan) => decide (chan < 4 ∧ y = s.stitch.mc.get chan ∧ y.enable = true ∧ y.tracked = true ∧
        y.orbitLen ≠ 0 ∧ y.state ≠ .acquire ∧ y.setCount = none)) (s.stitch.mc.get chan)) (3) (sMc
        { enable := true, tracked := true, orbitLen := 9, state := .track, fNum := 1 }) = true) ∧
    ((fun (port : Nat) (bytes : List Byte) (ended : Bool) (taps symbols tick : Nat) (s : State) => decide (port < 256 ∧ ended = true ∧ 64 ≤
        bytes.length ∧ bytes.length ≤ 256 ∧ fcsOf bytes = 0 ∧ s.time.tick0 + tick ≤ s.now ∧ (s.takesFrame port (s.rxStamp port taps symbols).1
        && s.glob.pdOn.getLsbD 3) = true)) (8) (List.replicate 60 0 ++ leBytes 4 (crc32 (List.replicate 60 0))) (true) (0) (0) (0)
        ({ sPort 0 .up with time := { sRun.time with tickOn := true } }) = true) ∧
    ((fun (frame : Nat) (s : State) => (fun (f : Frame) => decide (s.core.frames.find frame = some f ∧ f.decided = false ∧ f.bad = false))
        ((s.core.frames.find frame).getD ({ plan := { copies := [{ port := 8 }] } }))) (5)
        ({ sPort 0 .up with now := 120, time := { sRun.time with tickOn := true }, core := { sTick.core with frames := [(5, { plan := { copies := [{ port := 8 }] }, bytes := List.replicate 64 0, ended := true, done := true, len := 64 })] } })
        = true) ∧
    ((fun (frame : Nat) (bytes : List Byte) (tick : Nat) (s : State) => (fun (f : Frame) => decide (s.core.frames.find frame = some f ∧ f.done
        = false ∧ 256 < bytes.length ∧ bytes.take 256 = f.bytes ∧ bytes.length ≤ f.maxFrame ∧ fcsOf bytes = 0 ∧ (f.exc ≠ 0 ∨ f.parsed.truncated
        bytes.length = false))) ((s.core.frames.find frame).getD ({}))) (5) (List.replicate 256 0 ++ [0x58, 0x85, 0x96, 0x0d]) (0)
        ({ sTick with core := { sTick.core with frames := [(5, { bytes := List.replicate 256 0, exc := 1 })] } }) = true) ∧
    ((fun (port tick sub : Nat) (s : State) => (fun (k : Nat) => decide (port < 256 ∧ s.time.tick0 + (tick - 117) ≤ s.now ∧ (s.ports.get
        port).configured = true ∧ (s.portState port = .up ∨ s.portState port = .binding) ∧ (s.core.ports.get port).sending = none ∧
        s.nextGuaranteed port = some k ∧ (s.core.copies.get k).deadline = none)) ((s.nextGuaranteed port).getD (4))) (8) (117) (0)
        ({ sPort 0 .up with now := 1000, time := { sRun.time with tickOn := true }, core := { sRun.core with copies := [(4, { kind := 0, port := 8, tc := 7, cells := 1, crossed := 1, arrived := 1 })], egress := [(71, [4])] } })
        = true) ∧
    ((fun (port tick : Nat) (s : State) => (fun (k : Nat) => (fun (x : Copy) => decide (port < 256 ∧ (s.core.ports.get port).sending = some k ∧
        x = s.core.copies.get k ∧ (x.stomp.isSome = true ∨ 0 < x.cells ∧ x.crossed = x.cells) ∧ s.time.tick0 + tick ≤ s.now)) (s.core.copies.get
        k)) (((s.core.ports.get port).sending).getD (4))) (8) (0)
        ({ sTick with core := { sTick.core with copies := [(4, { port := 8, cells := 1, crossed := 1 })], ports := [(8, { sending := some 4 })] } })
        = true) ∧
    ((fun (s : State) => (fun (k : Nat) => decide (s.core.skein = .ready ∧ s.skeinCells + 16 ≤ skeinSize ∧ s.engineNext s.core.spillPtr
        ((s.core.voqs.filter fun q => decide (((s.spillBurst q.1 q.2).foldl (fun a x => a + x.2.2) 0) = 16)).map (·.1)) = some k))
        ((s.engineNext s.core.spillPtr ((s.core.voqs.filter fun q => decide (((s.spillBurst q.1 q.2).foldl (fun a x => a + x.2.2) 0) = 16)).map
        (·.1))).getD (0))) (sSpill { cells := 64, arrived := 64, charge := 64, kind := 1 }) = true) ∧
    ((fun (s : State) => (fun (k : Nat) => decide (s.core.skein = .ready ∧ s.engineNext s.core.returnPtr ((s.core.voqs.filter fun q =>
        s.voqInSkein q.2 && decide (s.voqHeadCells q.2 < (s.core.classes.get (voqClass q.1)).returnLow)).map (·.1)) = some k)) ((s.engineNext
        s.core.returnPtr ((s.core.voqs.filter fun q => s.voqInSkein q.2 && decide (s.voqHeadCells q.2 < (s.core.classes.get (voqClass
        q.1)).returnLow)).map (·.1))).getD (0))) (sSpill { cells := 64, arrived := 64, inSkein := 32 }) = true) ∧
    ((fun (pass : Bool) (s : State) => decide (s.core.skein = .off ∧ s.glob.pdOn.getLsbD 5 = true)) (true) (sOn) = true) ∧
    ((fun (copy : Nat) (fixed : Bool) (s : State) => decide (s.core.skein = .ready ∧ fixed = true)) (9) (true) (sSkein) = true) ∧
    ((fun (s : State) => decide (s.core.skein = .ready)) (sSpill { cells := 64, arrived := 64, inSkein := 32 }) = true) ∧
    ((fun (copies : List Nat) (location : Nat) (fixed : Bool) (s : State) => decide (location < 524288 ∧ fixed = true ∧ (copies.all fun k =>
        s.core.copies.has k) = true)) ([]) (524287) (true) (sRun) = true) ∧
    ((fun (tile port cls : Nat) (egress : Bool) (s : State) => (fun (l : List Nat) => decide (tile < 64 ∧ port < 256 ∧ cls < 8 ∧ l = (if egress
        then s.core.egress.get (8 * port + cls) else s.core.voqs.get (voqKey tile port cls)))) ((if egress then s.core.egress.get (8 * port +
        cls) else s.core.voqs.get (voqKey tile port cls)))) (0) (0) (0) (false) (sSpill { cells := 64, arrived := 64 }) = true) ∧
    ((fun (value : BitVec 32) (s : State) => decide (s.streamOwned 8 = false ∧ dist32 s.core.capture.rd value ≤ s.core.capture.fill)) (1)
        (sCapture { wr := 1 }) = true) ∧
    ((fun (s : State) => (fun (y : Capture) => decide (y = s.core.capture ∧ y.fill ≠ 0 ∧ y.idleTimeout ≠ 0 ∧ y.timeoutSeen ≠ some y.rd.toNat))
        (s.core.capture)) (sCapture { wr := 1, idleTimeout := 5 }) = true) := by
  and_intros
  all_goals first | (simp only [fcs_zeros]; decide +kernel) | decide +kernel

/-- The hypotheses of each clause of CompletionsOfPairAndHostRows can be met. -/
theorem test_meets_CompletionsOfPairAndHostRows :
    ((fun (port cls : Nat) (s : State) => (fun (y : Contract) => decide (port < 256 ∧ 4 ≤ cls ∧ cls < 8 ∧ s.contracts.table.find (contractKey
        port cls) = some y ∧ y.state = .draining ∧ y.copies = 0)) ((s.contracts.table.find (contractKey port cls)).getD
        ({ state := .draining }))) (255) (7)
        ({ sRun with contracts := { sRun.contracts with table := [(contractKey 255 7, { state := .draining })] } }) = true) ∧
    ((fun (table location : Nat) (fixed keyOk : Bool) (s : State) => decide (locationOk table location = true ∧ fixed = true)) (10) (63) (true)
        (false) (sRun) = true) ∧
    ((fun (table location : Nat) (s : State) => decide (locationOk table location = true ∧ s.isLost table location = true ∧ [2, 3, 9,
        10].contains table = true ∧ s.fwd.badCopies.contains (table, location) = false)) (2) (4)
        ({ sRun with fwd := { sRun.fwd with lost := [{ table := 2, loc := 4 }] } }) = true) ∧
    ((fun (failing : List Nat) (s : State) => decide ((failing.all fun n => decide (n < 32768)) = true)) ([5, 5, 9])
        ({ sRun with parse := { sRun.parse with acl := [(5, {}), (7, {}), (9, { lost := true })] } }) = true) ∧
    ((fun (source : Nat) (s : State) => (fun (y : DupEntry) => decide (source < 65536 ∧ s.pair.dup.find source = some y)) ((s.pair.dup.find
        source).getD ({}))) (9) (sDup) = true) ∧
    ((fun (s : State) => (fun (n : Nat) => decide (s.fw.sessionEnd = some n)) ((s.fw.sessionEnd).getD (7)))
        ({ State.reset with fw := { State.reset.fw with sessionEnd := some 7 } }) = true) ∧
    ((fun (instr : TapInstr) (n : Nat) (s : State) => decide (instr = .halt n ∧ n < 14 ∧ Debug.permits s.fw.debug instr = true ∧
        (s.fw.cores.get n).state = 1)) (.halt 13) (13) ({ (sCore 13 1) with fw := { (sCore 13 1).fw with debug := .full } }) = true) ∧
    ((fun (strap : Bool) (epoch order stepping : Nat) (s : State) => decide (s.pair.enable = true ∧ s.pair.role = .joining ∧
        s.pair.watchdogDead = false ∧ strap ≠ s.fuses.pairStrap ∧ stepping = 0xB0 ∧ decide (order = 1 ∨ order = 2) = s.fuses.orderCode.skein ∧
        (epoch < s.pair.epoch ∨ epoch = s.pair.epoch ∧ s.fuses.pairStrap = false))) (true) (5) (1) (0xB0) (sUnit .joining fun y =>
        { y with epoch := 6 }) = true) ∧
    ((fun (s : State) => (fun (n : Nat) => decide (s.pair.joinEnd = some n ∧ s.pair.role = .joining)) ((s.pair.joinEnd).getD (9))) (sUnit
        .joining fun y => { y with joinEnd := some 9 }) = true) ∧
    ((fun (cycle stable : Nat) (s : State) => (fun (n : Nat) => decide (4 ≤ stable ∧ s.now ≤ cycle ∧ s.pair.aliveEdge = some n ∧ 625 ≤ cycle -
        n ∧ cycle - n ≤ 1875)) ((s.pair.aliveEdge).getD (0))) (625) (4) (sUnit .active fun y => { y with aliveEdge := some 0 }) = true) ∧
    ((fun (s : State) => (fun (n : Nat) => decide (s.pair.aliveEdge = some n ∧ s.pair.alive = true)) ((s.pair.aliveEdge).getD (0))) (sUnit
        .active fun y => { y with alive := true, aliveEdge := some 0 }) = true) ∧
    ((fun (s : State) => (fun (n : Nat) => decide (s.time.tickOn = true ∧ n = (s.tick / 1250 + 1) * 1250)) ((s.tick / 1250 + 1) * 1250)) (sUnit
        .active fun y => { y with watchdogDead := false }) = true) ∧
    ((fun (s : State) => decide (s.pair.enable = true ∧ s.pair.watchdogDead = false ∧ s.pair.role ≠ .alone ∧ s.pair.role ≠ .mismatch)) (sUnit
        .active id) = true) ∧
    ((fun (s : State) => decide (s.pair.linkUp = true ∧ s.pair.silent = false)) (sUnit .active (fun y => { y with linkUp := true })) = true) ∧
    ((fun (s : State) => decide (s.pair.linkUp = true ∧ s.pair.watchdogDead = false)) (sUnit .active fun y => { y with linkUp := true }) = true) ∧
    ((fun (s : State) => decide (s.pair.linkUp = true ∧ s.pair.role ≠ .alone ∧ s.pair.role ≠ .mismatch)) (sUnit .active fun y =>
        { y with linkUp := true }) = true) ∧
    ((fun (bytes : List Byte) (s : State) => decide (bytes.length = 64 ∧ s.pair.enable = true ∧ s.pair.role ≠ .alone ∧ s.pair.role ≠
        .mismatch)) (List.replicate 64 0) (sUnit .active fun y => { y with controlRx := 5, silent := true }) = true) ∧
    ((fun (s : State) => decide (s.pair.healthCycle.isSome = true ∧ s.pair.healthLost = false ∧ s.pair.enable = true)) (sUnit .active (fun y =>
        { y with healthCycle := some 1, healthLost := false })) = true) ∧
    ((fun (t1 t2 t3 t4 partner : Int) (s : State) => (fun (o : Int) => decide (s.pair.enable = true ∧ s.pair.linkUp = true ∧ s.pair.role ≠
        .alone ∧ s.pair.role ≠ .mismatch ∧ o = probeOffset t1 t2 t3 t4 s.pair.cfg.plAsym ∧ (s.pair.role = .active ∨ alignedAt o = true)))
        (probeOffset t1 t2 t3 t4 s.pair.cfg.plAsym)) (0) (5) (6) (11) (7) (sUnit .active fun y => { y with linkUp := true }) = true) ∧
    ((fun (edge : Nat) (s : State) => decide (s.power.stage = .pd1 ∧ s.power.resetting = some 3 ∧ s.glob.rootRunning = true ∧ s.pdOn 1 = true ∧
        s.now ≤ edge)) (0)
        ({ sStage .pd1 3 with power := { (sStage .pd1 3).power with resetting := some 3 }, glob := { (sStage .pd1 3).glob with rootRunning := true } })
        = true) ∧
    ((fun (test : Nat) (pass : Bool) (s : State) => decide (test < 8 ∧ pass = true)) (7) (true) (sRun) = true) ∧
    ((fun (s : State) => (fun (n : Nat) => decide (s.pair.testEnd = some n)) ((s.pair.testEnd).getD (9))) (sUnit .standby fun y =>
        { y with testEnd := some 9 }) = true) ∧
    ((fun (s : State) => decide (s.pair.enable = true ∧ s.time.tickOn = true ∧ s.pair.role = .active ∧ (s.pair.linkUp && decide
        (s.pair.partnerRole = .standby ∨ s.pair.partnerRole = .syncing)) = true ∧ s.fence.active = [])) (sUnit .active (fun y =>
        { y with linkUp := true, partnerRole := .standby })) = true) ∧
    ((fun (cycle applyAt : Nat) (crcOk : Bool) (journal : List RawCmd) (s : State) => decide (s.takesJournals = true ∧ s.glob.keeperRestarting
        = false ∧ crcOk = true ∧ (s.pair.committedNo.all fun n => decide (cycle = n ∨ cycle = n + 1)) = true)) (4) (9) (true) ([]) (sUnit
        .standby id) = true) ∧
    ((fun (cycle : Nat) (s : State) => (fun (a : Nat) => decide (s.pair.sentCycle = some cycle ∧ s.pair.applyAt = some a ∧ s.pair.role =
        .active ∧ s.tick + 20 * usC ≤ a)) ((s.pair.applyAt).getD (20 * usC))) (4) (sUnit .active fun y =>
        { y with sentCycle := some 4, applyAt := some (20 * usC) }) = true) ∧
    ((fun (cycle : Nat) (s : State) => decide (s.pair.role = .active ∧ s.pair.sentCycle = some cycle)) (4) (sUnit .active fun y =>
        { y with sentCycle := some 4, applyAt := some 0 }) = true) ∧
    ((fun (cycle : Nat) (s : State) => (fun (a : Nat) => decide (s.pair.applyAt = some a ∧ s.takesJournals = true ∧ s.pair.committedNo = some
        cycle ∧ s.tick + 10 * usC ≤ a)) ((s.pair.applyAt).getD (10 * usC))) (4) (sUnit .standby fun y =>
        { y with committedNo := some 4, applyAt := some (10 * usC) }) = true) ∧
    ((fun (s : State) => (fun (a : Nat) => (fun (n : Nat) => decide (s.pair.applyAt = some a ∧ s.pair.confirmed = true ∧ s.time.tickOn = true ∧
        s.pair.enable = true ∧ s.pair.role = .active ∧ s.pair.sentCycle = some n ∧ s.pair.waits = [] ∧ s.fence.active = []))
        ((s.pair.sentCycle).getD (4))) ((s.pair.applyAt).getD (0))) (sUnit .active fun y =>
        { y with sentCycle := some 4, applyAt := some 0, confirmed := true }) = true) ∧
    ((fun (w : JournalWait) (l : List JournalWait) (s : State) => decide ((s.pair.waits.filter fun z => !(s.pair.confirmed &&
        s.pair.sentJournal.contains z.cmd)) = w :: l)) ({}) ([]) ({ sUnit .active (fun y => { y with waits := [{}] }) with now := 10 ^ 12 }) =
        true) ∧
    ((fun (cross : Bool) (port source seq egress : Nat) (bytes : List Byte) (tick sub : Nat) (stale coast : Bool) (kSec kSub : Nat) (s : State)
        => decide (port < 256 ∧ source < 65536 ∧ seq < 2 ^ 24 ∧ egress < 256 ∧ 64 ≤ bytes.length ∧ bytes.length ≤ 16384 ∧ s.pairServing = true))
        (true) (8) (3) (4) (9) (List.replicate 64 0) (0) (0) (false) (false) (0) (0) (sUnit .standby fun y => { y with linkUp := true }) = true) ∧
    ((fun (source block : Nat) (s : State) => (fun (d : DigestRec) => decide (source < 65536 ∧ block < 16384 ∧ ((s.pair.dup.get
        source).blocks.find? fun z => z.block = block) = some d ∧ d.closed = false)) ((((s.pair.dup.get source).blocks.find? fun z => z.block =
        block)).getD ({ block := 3 }))) (9) (3) (sUnit .active (fun y => { y with dup := [(9, { blocks := [{ block := 3 }] })] })) = true) ∧
    ((fun (source block : Nat) (s : State) => (fun (d : DigestRec) => decide (source < 65536 ∧ block < 16384 ∧ ((s.pair.dup.get
        source).blocks.find? fun z => z.block = block) = some d)) ((((s.pair.dup.get source).blocks.find? fun z => z.block = block)).getD
        ({ block := 3, closed := true }))) (9) (3) (sUnit .active (fun y =>
        { y with dup := [(9, { blocks := [{ block := 3, closed := true }] })] })) = true) ∧
    ((fun (source block : Nat) (part : DigestPart) (n a b : Nat) (s : State) => decide (source < 65536 ∧ block < 16384 ∧ s.pair.dup.has source
        = true ∧ (s.pair.dup.get source).partner = [] ∧ part = .outcome n a b)) (9) (3) (.outcome 1 2 3) (1) (2) (3) (sDup) = true) ∧
    ((fun (s : State) => decide (s.power.stage = .config ∧ s.glob.keeperRestarting = false)) (sStage .config 0x3FF) = true) ∧
    ((fun (s : State) => decide (s.glob.keeperRestarting = true ∧ s.glob.keeperWaiting = []))
        ({ sRun with glob := { sRun.glob with keeperRestarting := true } }) = true) ∧
    ((fun (mb : Nat) (entry ext : List Byte) (s : State) => (fun (x : Mailbox) => decide (mb < 8 ∧ s.mayFetch mb = true ∧ x = s.mbs.get mb))
        (s.mbs.get mb)) (6) (List.replicate 64 0) ([]) (sMbox { enable := true, state := .running, submit := 1 }) = true) ∧
    ((fun (mb : Nat) (extension : Bool) (s : State) => (fun (y : Mailbox) => (fun (a : Nat) => decide (mb < 8 ∧ s.mayFetch mb = true ∧ y =
        s.mbs.get mb ∧ a = (if extension then y.extBase.toNat + 512 * (y.fetch.toNat % 256) else y.cmdBase.toNat + 64 * (y.fetch.toNat % 256))))
        ((if extension then y.extBase.toNat + 512 * (y.fetch.toNat % 256) else y.cmdBase.toNat + 64 * (y.fetch.toNat % 256)))) (s.mbs.get mb))
        (6) (true) (sMbox { enable := true, state := .running, submit := 1 }) = true) ∧
    ((fun (mb : Nat) (value : BitVec 32) (s : State) => (fun (y : Mailbox) => decide (mb < 8 ∧ y = s.mbs.get mb ∧ dist32 y.respRd value ≤ 256 ∧
        dist32 y.respRd y.submit ≤ dist32 y.respRd value ∧ value ≠ y.submit)) (s.mbs.get mb)) (6) (256) (sMbox {}) = true) ∧
    ((fun (mb : Nat) (value : BitVec 32) (s : State) => (fun (y : Mailbox) => decide (mb < 8 ∧ y = s.mbs.get mb ∧ dist32 y.respRd value ≤
        dist32 y.respRd y.done)) (s.mbs.get mb)) (6) (2) (sMbox { done := 2 }) = true) ∧
    ((fun (mb : Nat) (s : State) => decide (mb < 8 ∧ (s.mbs.get mb).state ≠ .fault)) (6) (sMbox {}) = true) ∧
    ((fun (mb : Nat) (s : State) => decide (mb < 8 ∧ (s.mbs.get mb).state = .running)) (6) (sMbox { enable := true, state := .running }) = true) ∧
    ((fun (mb : Nat) (s : State) => decide (mb < 8 ∧ (s.mbs.get mb).state = .draining ∧ (s.mbs.get mb).done = (s.mbs.get mb).fetch)) (6) (sMbox
        { state := .draining }) = true) ∧
    ((fun (mb : Nat) (s : State) => decide (mb < 8 ∧ ((s.mbs.get mb).state = .disabled ∨ (s.mbs.get mb).state = .fault))) (6) (sMbox
        { state := .fault, submit := 3 }) = true) ∧
    ((fun (mb : Nat) (s : State) => (fun (x : Mailbox) => decide (mb < 8 ∧ x = s.mbs.get mb ∧ dist32 x.done x.fetch ≤ dist32 x.done x.submit ∧
        (x.inFlight.all fun k => decide (dist32 x.done k.pos < dist32 x.done x.fetch)) = true)) (s.mbs.get mb)) (6) (sMbox
        { abortRaised := true, submit := 2, fetch := 1, inFlight := [{ opcode := 9 }] }) = true) ∧
    ((fun (mb : Nat) (pos : BitVec 32) (s : State) => (fun (x : Mailbox) => decide (mb < 8 ∧ x = s.mbs.get mb ∧ dist32 x.done pos < dist32
        x.done x.fetch ∧ dist32 x.done pos < dist32 x.done x.submit)) (s.mbs.get mb)) (6) (0) (sMbox
        { submit := 3, fetch := 1, inFlight := [{ opcode := 9 }], abortRaised := true }) = true) ∧
    ((fun (mb : Nat) (k : MbCmd) (l : List MbCmd) (s : State) => decide (mb < 8 ∧ (s.mbs.get mb).inFlight = k :: l ∧ k.committed = false ∧
        k.aborted = false ∧ k.early = none ∧ s.fence.waiting.contains (.mailbox mb) = false ∧ s.fence.active = [])) (6)
        ({ opcode := 0x605, started := true, timeout := 0 }) ([]) (sMbox
        { state := .running, inFlight := [{ opcode := 0x605, started := true, timeout := 0 }] }) = true) ∧
    ((fun (chan : Nat) (s : State) => (fun (y : Chan) => decide (chan < 32 ∧ y = s.host.chans.get chan ∧ (y.state = .idle ∨ y.state =
        .halted))) (s.host.chans.get chan)) (31) (sChan { state := .halted, chainAddr := 64, retired := 4 }) = true) ∧
    ((fun (chan : Nat) (s : State) => decide (chan < 32 ∧ (s.host.chans.get chan).live = true)) (31) (sChan { state := .running }) = true) ∧
    ((fun (chan : Nat) (instr : List Byte) (s : State) => (fun (i : ChainInstr) => decide (chan < 32 ∧ instr.length = 32 ∧ s.fetches chan =
        true ∧ i = chainInstr instr ∧ i.op = 1 ∧ i.moveOk = true ∧ (i.stream.all fun k => !s.streamBusy chan k && !s.streamOff k) = true ∧
        s.moveBlocked i = none)) (chainInstr instr)) (31) ([1, 0, 0, 0, 0, 0, 0, 4] ++ List.replicate 24 0) (sChan { state := .running }) = true) ∧
    ((fun (chan : Nat) (data : List Byte) (s : State) => (fun (x : Chan) => (fun (i : ChainInstr) => decide (chan < 32 ∧ x = s.host.chans.get
        chan ∧ x.move = some i ∧ x.state = .running ∧ s.host.bme = true ∧ x.gate = none ∧ s.burstBehind chan = false ∧ s.moveBlocked i = none ∧
        i.b3 = 0 ∧ i.dstFixed = false ∧ x.moveRead = i.w4 ∧ x.moveDone < i.w4 ∧ s.writeLen chan i = x.funnel.length ∧ x.moveDone +
        x.funnel.length = i.w4 ∧ i.q16 + i.w4 < 2 ^ 64 ∧ data = [])) ((x.move).getD ({ op := 1, w4 := 4 }))) (s.host.chans.get chan)) (31) ([])
        (sChan { state := .running, move := some { op := 1, w4 := 4 }, moveRead := 4, funnel := [1, 2, 3, 4] }) = true) ∧
    ((fun (chan : Nat) (instr : List Byte) (s : State) => (fun (i : ChainInstr) => (fun (x : Chan) => (fun (l : Option Nat) => decide (chan <
        32 ∧ instr.length = 32 ∧ s.fetches chan = true ∧ i = chainInstr instr ∧ i.op = 2 ∧ i.loopOk = true ∧ x = s.host.chans.get chan ∧ l = (if
        i.w4 = 0 then some 0 else if (x.loops.getD i.b1 none).getD i.w4 = 0 then none else some ((x.loops.getD i.b1 none).getD i.w4 - 1)))) ((if
        i.w4 = 0 then some 0 else if (x.loops.getD i.b1 none).getD i.w4 = 0 then none else some ((x.loops.getD i.b1 none).getD i.w4 - 1))))
        (s.host.chans.get chan)) (chainInstr instr)) (31) (anInstr 2 0 0 0) (sChan { state := .running, pc := 64 }) = true) ∧
    ((fun (chan : Nat) (instr : List Byte) (s : State) => (fun (i : ChainInstr) => (fun (x : Chan) => decide (chan < 32 ∧ instr.length = 32 ∧
        s.fetches chan = true ∧ i = chainInstr instr ∧ i.op = 3 ∧ i.waitOk = true ∧ (i.b2 = 0 → s.streamBusy chan i.b3 = false ∧ s.streamOff
        i.b3 = false) ∧ x = s.host.chans.get chan)) (s.host.chans.get chan)) (chainInstr instr)) (31) (anInstr 3 0 1 0) (sChan
        { state := .running }) = true) ∧
    ((fun (chan : Nat) (s : State) => (fun (x : Chan) => (fun (i : ChainInstr) => decide (chan < 32 ∧ x = s.host.chans.get chan ∧ x.state =
        .waiting ∧ x.wait = some i ∧ s.gateHolds chan i.gate = true)) ((x.wait).getD ({ op := 3, b2 := 2 }))) (s.host.chans.get chan)) (31)
        (sChan { state := .waiting, wait := some { op := 3, b2 := 2 } }) = true) ∧
    ((fun (chan : Nat) (s : State) => (fun (n : Nat) => decide (chan < 32 ∧ (s.host.chans.get chan).deadline = some n ∧ (s.host.chans.get
        chan).state = .waiting ∧ s.host.bme = true)) (((s.host.chans.get chan).deadline).getD (9))) (31) (sChan
        { state := .waiting, deadline := some 9 }) = true) ∧
    ((fun (chan : Nat) (instr : List Byte) (s : State) => (fun (i : ChainInstr) => (fun (x : Chan) => decide (chan < 32 ∧ instr.length = 32 ∧
        s.fetches chan = true ∧ i = chainInstr instr ∧ i.op = 4 ∧ i.signalOk = true ∧ x = s.host.chans.get chan ∧ (s.fence.marks.any fun m =>
        decide (m.stream = .cq chan)) = false ∧ x.marks = [])) (s.host.chans.get chan)) (chainInstr instr)) (31) (anInstr 4 6 0 0) (sChan
        { state := .running }) = true) ∧
    ((fun (chan : Nat) (instr : List Byte) (s : State) => (fun (i : ChainInstr) => (fun (x : Chan) => decide (chan < 32 ∧ instr.length = 32 ∧
        s.fetches chan = true ∧ i = chainInstr instr ∧ i.op = 5 ∧ i.endOk = true ∧ x = s.host.chans.get chan ∧ (s.fence.marks.any fun m =>
        decide (m.stream = .cq chan)) = false ∧ x.marks = [])) (s.host.chans.get chan)) (chainInstr instr)) (31) (anInstr 5 4 0 0) (sChan
        { state := .running }) = true) ∧
    ((fun (chan : Nat) (s : State) => (fun (y : Chan) => decide (chan < 32 ∧ s.host.bme = true ∧ y = s.host.chans.get chan ∧ y.cqFull = false ∧
        y.held ≠ [])) (s.host.chans.get chan)) (31) (sChan { cqSize := 8, held := [{}] }) = true) ∧
    ((fun (chan : Nat) (value : BitVec 32) (s : State) => decide (chan < 32 ∧ dist32 (s.host.chans.get chan).cqRd value ≤ (s.host.chans.get
        chan).cqFill)) (31) (1) (sChan { cqSize := 8, cqWr := 1 }) = true) ∧
    ((fun (chan : Nat) (s : State) => (fun (y : Chan) => decide (chan < 32 ∧ y = s.host.chans.get chan ∧ y.live = true ∧ y.watchdog ≠ 0))
        (s.host.chans.get chan)) (31) (sChan { state := .running, watchdog := 1 }) = true) ∧
    ((fun (chan : Nat) (s : State) => (fun (y : Chan) => decide (chan < 32 ∧ y = s.host.chans.get chan ∧ y.live = true ∧ y.spent = true ∧
        y.state ≠ .stalled)) (s.host.chans.get chan)) (31) (sChan { state := .running, budget := 3, budgetUsed := 3 }) = true) ∧
    ((fun (chan : Nat) (timeout : Bool) (s : State) => decide (chan < 32 ∧ (s.host.chans.get chan).live = true ∧ (s.host.chans.get chan).state
        = .running ∧ s.host.bme = true)) (31) (true) (sChan { state := .running }) = true) ∧
    ((fun (on : Bool) (s : State) => decide (on = true ∧ s.host.bme = false)) (true) (sRun) = true) ∧
    ((fun (queue : Nat) (s : State) => (fun (b : List Byte) => (fun (d : List Byte) => decide (queue < 4 ∧ b = (s.host.ctx.get queue).bytes ∧
        32 ≤ b.length ∧ ctxRecordLen b ≤ b.length ∧ s.pdOn 3 = true ∧ (b.getD 1 0).toNat = 1 ∧ d = slice b 32 (fb2 b 2))) (slice b 32 (fb2 b
        2))) ((s.host.ctx.get queue).bytes)) (3)
        ({ sOn with host := { sOn.host with ctx := [(3, { bytes := [0, 1] ++ List.replicate 126 0 })] } }) = true) ∧
    ((fun (index : Nat) (s : State) => (fun (f : SlowFrame) => decide (s.parse.slow[index]? = some f ∧ ((s.parse.slow.take index).any fun g =>
        decide (g.port = f.port ∧ g.reason = f.reason)) = false ∧ s.slowCores = true ∧ s.terminates f = true)) ((s.parse.slow[index]?).getD
        ({ reason := 7 }))) (0)
        ({ sRun with fw := { sRun.fw with cores := (List.range 14).map fun n => (n, { state := 1 }) }, ptp := { sRun.ptp with ports := [(0, { inst := 0 })] }, parse := { sRun.parse with slow := [{ reason := 7 }] } })
        = true) ∧
    ((fun (vec : Nat) (s : State) => (fun (n : Nat) => decide (vec < 64 ∧ (s.events.vecs.get vec).timer = some n)) (((s.events.vecs.get
        vec).timer).getD (0))) (63) (sVec { timer := some 0, held := 2, masked := false }) = true) ∧
    ((fun (vec : Nat) (s : State) => (fun (y : Vec) => decide (vec < 64 ∧ y = s.events.vecs.get vec ∧ y.pba = true ∧ s.events.msixEnable = true
        ∧ s.events.fnMask = false ∧ y.masked = false ∧ s.host.bme = true)) (s.events.vecs.get vec)) (63) (sVec { pba := true, masked := false })
        = true) ∧
    ((fun (reg : Nat) (value : BitVec 32) (s : State) => decide (reg < 32)) (31) (5) (sRun) = true) ∧
    ((fun (vec : Nat) (value : BitVec 32) (s : State) => (fun (n : Nat) => (fun (a : Nat) => decide (vec < 64 ∧ n = value.toNat % 512 ∧ a =
        value.toNat / 65536 ∧ 1 ≤ n ∧ n ≤ 256 ∧ (2 ≤ n → a ≠ 0) ∧ ((s.events.vecs.get vec).held = 0 ∨ (s.events.vecs.get vec).held < n)))
        (value.toNat / 65536)) (value.toNat % 512)) (63) (0x00050100) (sRun) = true) ∧
    ((fun (value : BitVec 32) (s : State) => decide (dist32 s.events.logRd value ≤ dist32 s.events.logRd s.events.logWr)) (1)
        ({ sRun with events := { sRun.events with logWr := 1 } }) = true) ∧
    ((fun (s : State) => decide (s.stats.busy = false ∧ s.stats.armed = false)) (sTick) = true) ∧
    ((fun (s : State) => decide (s.stats.busy = false ∧ s.stats.armed = false)) (sTick) = true) ∧
    ((fun (s : State) => decide (s.stats.busy = true)) ({ sTick with stats := { sTick.stats with busy := true } }) = true) ∧
    ((fun (win : Win) (req : ReadReq) (s : State) => decide (win = .bar0 ∧ req.offset = 0 ∧ req.enables = [true, true, true, true])) (.bar0)
        ({ offset := 0, enables := [true, true, true, true] }) (sTick) = true) ∧
    ((fun (win : Win) (offset : Nat) (data : List (Option Byte)) (w : BitVec 32) (s : State) => decide (offset + 4 ≤ win.size ∧ offset % 4 = 0
        ∧ data = (leBytes 4 w.toNat).map some)) (.bar2) (0) ([some 0x78, some 0x56, some 0x34, some 0x12]) (0x12345678) (sTick) = true) := by
  and_intros
  all_goals decide +kernel

end Sys2Proof.Tests
end

section
/-!
PROOF. What the device holds after reset.
-/
namespace Sys2Proof.Machine

/-- After reset MASK holds 1 for every source of the event controller (R517). -/
theorem reset_masks_source {n : Nat} (h : n < 1024) : State.reset.events.mask.getLsbD n = true := by
  have hm : State.reset.events.mask = BitVec.allOnes 1024 := rfl
  rw [hm, BitVec.getLsbD_allOnes, decide_eq_true h]

/-- After reset no source is pending (R517). -/
theorem reset_source_not_pending (n : Nat) : State.reset.events.pending.getLsbD n = false :=
  BitVec.getLsbD_zero

/-- Settles O50: each field named stands at its default, and a lookup in an empty table gives the entry's default. -/
theorem resetState : Obligations.ResetState := by
  unfold Obligations.ResetState
  have hmailbox : ∀ m, State.reset.mbs.get m = {} := fun _ => rfl
  have hentries : ∀ n, State.reset.host.chans.get n = {} ∧ State.reset.tdc.rings.get n = {} ∧ State.reset.time.tsqs.get n = {} ∧
      State.reset.fwd.l2.get n = default ∧ State.reset.contracts.table.get n = default :=
    fun _ => ⟨rfl, rfl, rfl, rfl, rfl⟩
  refine ⟨rfl, rfl, rfl, rfl, rfl, rfl, rfl, fun m => ?_, fun n h => ⟨reset_masks_source h, reset_source_not_pending n⟩, hentries,
    rfl, rfl, rfl⟩
  rw [hmailbox m]
  exact ⟨rfl, rfl, rfl, rfl, rfl, rfl⟩

end Sys2Proof.Machine
end

section
/-!
PROOF. Statements of the architecture family that fail, each with the state that shows it.
-/
namespace Sys2Proof.Machine

theorem State.advance_eq_self_of_le {s : State} {t : Nat} (h : t ≤ s.now) : s.advance t = s := by
  unfold State.advance
  rw [if_pos h]

theorem State.advanceTick_eq_self_of_le {s : State} {t : Nat} (h : s.time.tick0 + t ≤ s.now) : s.advanceTick t = s := by
  unfold State.advanceTick
  rw [State.advance_eq_self_of_le h, ite_self]

/-! ## Refutations -/

/-- Every sensor is faulty, which makes the thermal state THROTTLE (R536); sensor 0 reads 0 °C and has been sound again for 10 s. -/
def sensorZeroSoundAgain : State :=
  { now := 10 * secC
    power := {
      therm := .throttle
      sensors := (List.range 16).map fun n => (n, { faulty := true, readings := [0], soundSince := if n = 0 then some 0 else none }) } }

/-- The state after SENSOR_RECOVERED of sensor 0: T_hot exists again, and the thermal state follows it down. -/
def sensorZeroBack : State :=
  ((sensorZeroSoundAgain.updSensor 0 fun y => { y with faulty := false }).raise (tempSrc 0) Ev.sensorRecovered).thermSteps 4

theorem exec_sensorRecovered_sensorZero : exec (.sensorRecovered 0) sensorZeroSoundAgain = .next sensorZeroBack := rfl

/-- THERM_STATE carries the sensor that gives T_hot, which is sensor 0: it follows SENSOR_RECOVERED on the same source. -/
theorem sensorZeroBack_last_cause : (sensorZeroBack.events.last.get (tempSrc 0)).cause = Ev.thermState := by
  decide +kernel

/-- Refutes O24: where all sensors were faulty and one returns, it gives T_hot, so that the thermal state leaves THROTTLE in the same step
and THERM_STATE is the last cause on the sensor's source, not SENSOR_RECOVERED. -/
theorem not_supplyAndThermalRows : ¬ Obligations.SupplyAndThermalRows := by
  unfold Obligations.SupplyAndThermalRows
  rintro ⟨_, _, _, _, _, _, _, _, _, _, _, _, _, _, _, _, _, _, _, _, _, hrecovered, _⟩
  obtain ⟨t, hx, _, _, hraised⟩ := hrecovered 0 0 sensorZeroSoundAgain (by decide +kernel)
  rw [exec_sensorRecovered_sensorZero] at hx
  obtain rfl := Host.Outcome.next.inj hx
  have hcause : (sensorZeroBack.events.last.get (tempSrc 0)).cause = Ev.sensorRecovered := by
    simp only [State.hasRaised, Bool.and_eq_true, decide_eq_true_eq] at hraised
    exact hraised.2
  rw [sensorZeroBack_last_cause] at hcause
  exact absurd hcause (by decide)

/-- Vector 1 holds a raise until cycle 300, and MB0 waits for its FENCE with F = 256, whose response is to raise MB_DONE, unmasked and
routed to vector 0. MSI-X messages go out. -/
def vectorTimerBehindFence : State :=
  { time := { tickOn := true }
    fence := { epoch := 1, lastF := 256, active := [{ epoch := 1, f := 256, src := .mailbox 0 }] }
    mbs := [(0, { state := .running, submit := 1, fetch := 1, inFlight := [{ opcode := 1, flags := 1, started := true, committed := true }] })]
    host := { bme := true }
    events := {
      msixEnable := true
      mask := 0
      vecs := [(0, { masked := false }), (1, { masked := false, coalCount := 2, coalTime := 1, held := 1, timer := some 300 })] } }

/-- The state once the timer of vector 1 has run out, after the fence has completed. -/
def vectorTimerRunOut : State := (vectorTimerBehindFence.advance 300).vecSend 1

theorem exec_vectorTimerExpiry_behindFence : exec (.vectorTimerExpiry 1) vectorTimerBehindFence = .next vectorTimerRunOut := rfl

/-- MB_DONE sends the message of vector 0 before vector 1 sends its own. -/
theorem vectorTimerRunOut_messages : vectorTimerRunOut.events.messages = [1, 0] := by
  decide +kernel

/-- Refutes O42: time passes to the end of the vector's timer, a fence completes on the way, and the message of its MB_DONE goes out on
another vector, so that the vector's message is not the only new one. -/
theorem not_eventAndRegisterRows : ¬ Obligations.EventAndRegisterRows := by
  unfold Obligations.EventAndRegisterRows
  rintro ⟨hexpiry, _⟩
  obtain ⟨t, hx, _, _, _, _, hsent⟩ := hexpiry 1 300 vectorTimerBehindFence (by decide +kernel)
  rw [exec_vectorTimerExpiry_behindFence] at hx
  obtain rfl := Host.Outcome.next.inj hx
  rw [if_pos (by decide +kernel), vectorTimerRunOut_messages] at hsent
  exact absurd hsent.1 (by decide +kernel)

/-- A fence with F = 256 has given markers to the capture ring and to the event log, which both are still owed. The capture ring is enabled,
empty, and reports a fill of 1. -/
def captureAndLogOwed : State :=
  { now := 3000
    time := { tickOn := true }
    core := { capture := { enable := true, thresh := 1 } }
    fence := { epoch := 1, lastF := 256, marks := [{ stream := .capture, epoch := 1, f := 256 }, { stream := .log, epoch := 1, f := 256 }] } }

theorem exec_fenceMarkerWrite_captureAndLogOwed :
    exec (.fenceMarkerWrite .capture) captureAndLogOwed = .next captureAndLogOwed.capMarkerDue.capFlush := by
  have hdue : captureAndLogOwed.markerAt .capture = some (256 + 2 * usC) := by decide
  have hnow : captureAndLogOwed.advanceTick (256 + 2 * usC) = captureAndLogOwed :=
    State.advanceTick_eq_self_of_le (by decide)
  change execFenceMarkerWrite .capture captureAndLogOwed = _
  simp only [execFenceMarkerWrite, hdue, hnow, streamExists, Bool.not_true, Bool.false_eq_true, if_false]

/-- CAP_THRESH enters the event log, and the log's own marker goes in ahead of it (R519). -/
theorem captureAndLogOwed_marks_after : captureAndLogOwed.capMarkerDue.capFlush.fence.marks = [] := by
  decide +kernel

/-- Refutes O23: the marker brings the capture ring's fill to its threshold, CAP_THRESH is raised, and the record of that event is preceded in
the log by the marker the log owes; so the capture ring's marker is not the only one that is no longer owed. -/
theorem not_recoveryRows : ¬ Obligations.RecoveryRows := by
  unfold Obligations.RecoveryRows
  rintro ⟨_, _, _, _, hmarker, _⟩
  obtain ⟨t, hx, _, hmarks⟩ := hmarker .capture { stream := .capture, epoch := 1, f := 256 } captureAndLogOwed
    ⟨.inl rfl, by decide +kernel⟩ rfl
  rw [exec_fenceMarkerWrite_captureAndLogOwed] at hx
  obtain rfl := Host.Outcome.next.inj hx
  rw [captureAndLogOwed_marks_after] at hmarks
  exact absurd hmarks (by decide +kernel)

end Sys2Proof.Machine
end

section
/-!
PROOF. The SYS commands.
-/
namespace Sys2Proof.Machine

/-! ## Commands whose completion changes no configuration -/

/-- A command that no overlay depends on completes with an effect that its answer does not touch: it is enough to show the effect of every
state that differs from the one its checks lead to in the parts of an answer alone. -/
theorem completes_ok_beside {i : Instr} {src : CmdSrc} {op : Nat} {s u : State} {res : List Fld} {ps : List Part} {eff : State → Prop}
    {body : State → Rep} (hx : exec i s = .next (s.runCmd i src op body)) (hu : unitLocal i = false) (hop : changesConfig op = false)
    (hb : body s = .ok u res) (hf : keepsAllBut (ps ++ answerParts) s u) (he : ∀ t, keepsAllBut answerParts u t → eff t) :
    completes i src op s res ps eff := by
  refine completes_ok hx hu (fun _ => hb) hf ?_
  simp only [hop, Bool.false_eq_true, if_false]
  exact he _ (State.finish_keeps _ _ _ _ _ _ _).keeps

/-- A command that completes and of which nothing but its answer and its frame is claimed. -/
theorem completes.answer {i : Instr} {src : CmdSrc} {op : Nat} {s : State} {res : List Fld} {ps : List Part}
    (h : completes i src op s res ps fun _ => True) (hacts : s.acts i src op = true) :
    ∃ t, exec i s = .next t ∧ t.cmd.opcode = op ∧ t.cmd.status = s.okStatus src op ∧ t.cmd.result = packFrom 16 res ∧
      keepsBesideAnswer ps s t := by
  obtain ⟨t, hx, hop, hst, hres, hkeeps, -⟩ := h hacts
  exact ⟨t, hx, hop, hst, hres, hkeeps⟩

/-! ## Power domains (R19) -/

theorem State.setPd_true_pdOn (s : State) {d : Nat} (h : d < 10) : (s.setPd d true).pdOn d = true := by
  simp only [State.setPd, State.pdOn, if_true, BitVec.getLsbD_or, BitVec.getLsbD_ofNat, Nat.testBit_two_pow_self, h, decide_true,
    Bool.and_true, Bool.or_true]

theorem State.setPd_false_pdOn (s : State) {d : Nat} (h : d < 10) : (s.setPd d false).pdOn d = false := by
  simp only [State.setPd, State.pdOn, Bool.false_eq_true, if_false, BitVec.getLsbD_and, BitVec.getLsbD_not, BitVec.getLsbD_ofNat,
    Nat.testBit_two_pow_self, h, decide_true, Bool.and_true, Bool.not_true, Bool.and_false]

theorem State.domainOn_glob (s : State) (d : Nat) : (s.domainOn d).glob = (s.setPd d true).glob := by
  unfold State.domainOn
  rw [State.raise_glob]
  dsimp only
  split
  · exact (State.quadrantOn_keeps _ _).keeps .glob (by decide)
  · repeat' split
    all_goals rfl

theorem State.domainOff_glob (s : State) (d : Nat) : (s.domainOff d).glob = (s.setPd d false).glob := by
  unfold State.domainOff
  rw [State.raise_glob]
  dsimp only
  split
  · have hptp := (State.ptpFollow_keeps s (State.disqualify s ((s.setPd d false).quadrantOff (d - 6)))).keeps .glob (by decide)
    have href := (State.disqualify_keeps s ((s.setPd d false).quadrantOff (d - 6))).keeps .glob (by decide)
    exact hptp.trans (href.trans ((State.quadrantOff_keeps _ _).keeps .glob (by decide)))
  · repeat' split
    all_goals rfl

theorem bodySysPowerDomain_comesOn {d : Nat} {s : State} (hd : 2 ≤ d ∧ d ≤ 9) (hoff : s.pdOn d = false)
    (hskein : d = 5 → s.fuses.orderCode.skein = true) (hneeds : (domNeeds d).all s.pdOn = true) (hsupplies : s.suppliesOk d = true) :
    bodySysPowerDomain true d s = .ok (s.domainOn d) [] := by
  have hsk : ¬(d = 5 ∧ (!s.fuses.orderCode.skein) = true) := fun ⟨h5, h⟩ => by simp [hskein h5] at h
  unfold bodySysPowerDomain
  rw [Rep.ranges_true (by simpa using hd), if_neg (by simp [hoff]), if_pos rfl, if_neg (by simp [hneeds]), if_neg hsk, if_pos hsupplies]

theorem bodySysPowerDomain_goesOff {d : Nat} {s : State} (hd : 3 ≤ d ∧ d ≤ 9) (hon : s.pdOn d = true)
    (hfree : ((List.range 10).any fun k => (domNeeds k).contains d && s.pdOn k) = false) (hmay : s.mayPowerOff d = true) :
    bodySysPowerDomain false d s = .ok (s.domainOff d) [] := by
  unfold bodySysPowerDomain
  rw [Rep.ranges_true (by simp; omega), if_neg (by simp [hon]), if_neg (by simp), if_neg (by simp only [hfree, Bool.false_eq_true, not_false_eq_true]), if_neg (by omega),
    if_neg (by simp [hmay])]

theorem bodySysPowerDomain_stays {on : Bool} {d : Nat} {s : State} (hd : 2 ≤ d ∧ d ≤ 9) (h : s.pdOn d = on) :
    bodySysPowerDomain on d s = .ok s [] := by
  unfold bodySysPowerDomain
  rw [Rep.ranges_true (by simpa using hd), if_pos h]

theorem sysPowerDomain_comesOn (src : CmdSrc) {d : Nat} {s : State} (hd : 2 ≤ d ∧ d ≤ 9) (hoff : s.pdOn d = false)
    (hskein : d = 5 → s.fuses.orderCode.skein = true) (hneeds : (domNeeds d).all s.pdOn = true) (hsupplies : s.suppliesOk d = true) :
    completes (.sysPowerDomain src true d) src 0x0101 s [] [.glob, .lanes, .parse, .core] fun t => t.pdOn d = true := by
  refine completes_ok_beside rfl rfl rfl (bodySysPowerDomain_comesOn hd hoff hskein hneeds hsupplies)
    ((State.domainOn_keeps s d).keeps.mono (by decide)) fun t ht => ?_
  have hglob : t.glob = (s.setPd d true).glob := (ht .glob (by decide)).trans (s.domainOn_glob d)
  rw [State.pdOn, hglob]
  exact s.setPd_true_pdOn (by omega)

theorem sysPowerDomain_goesOff (src : CmdSrc) {d : Nat} {s : State} (hd : 3 ≤ d ∧ d ≤ 9) (hon : s.pdOn d = true)
    (hfree : ((List.range 10).any fun k => (domNeeds k).contains d && s.pdOn k) = false) (hmay : s.mayPowerOff d = true) :
    completes (.sysPowerDomain src false d) src 0x0101 s []
      [.free, .glob, .lanes, .ports, .selv, .tdc, .ref, .time, .ptp, .parse, .core, .contracts, .stats] fun t => t.pdOn d = false := by
  refine completes_ok_beside rfl rfl rfl (bodySysPowerDomain_goesOff hd hon hfree hmay)
    ((State.domainOff_keeps s d).keeps.mono (by decide)) fun t ht => ?_
  have hglob : t.glob = (s.setPd d false).glob := (ht .glob (by decide)).trans (s.domainOff_glob d)
  rw [State.pdOn, hglob]
  exact s.setPd_false_pdOn (by omega)

/-! ## Status, board parameters and resets (R456, R531) -/

theorem State.finish_config_fw (s : State) (opcode status detail : Nat) (res : List Fld) (ul : Bool) :
    (s.finish .config opcode status detail res ul).fw = s.fw := rfl

theorem State.finish_config_pairCfg (s : State) (opcode status detail : Nat) (res : List Fld) (ul : Bool) :
    (s.finish .config opcode status detail res ul).pair.cfg = s.pair.cfg := by
  unfold State.finish
  dsimp only
  split <;> rfl

/-- A board parameter given by the boot configuration: the completion leaves what it sets. -/
theorem sysSetBoard_completes {param period region base length mask : Nat} {s u : State} {eff : State → Prop}
    (hb : bodySysSetBoard .config param period region base length mask s = .ok u []) (hf : keepsAllBut answerParts s u)
    (he : ∀ t, t.fw = u.fw → t.pair.cfg = u.pair.cfg → eff t) :
    completes (.sysSetBoard .config param period region base length mask) .config 0x0103 s [] [] eff :=
  completes_ok rfl rfl (fun _ => hb) hf (he _ (State.finish_config_fw _ _ _ _ _ _) (State.finish_config_pairCfg _ _ _ _ _ _))

theorem bodySysSetBoard_coreWatchdog {period : Nat} (s : State) (h : msU ≤ period ∧ period ≤ 1000 * msU) :
    bodySysSetBoard .config 0 period 0 0 0 0 s = .ok { s with fw := { s.fw with wdPeriod := period } } [] := by
  unfold bodySysSetBoard
  rw [Rep.ranges_true (by simp [h])]
  rfl

theorem bodySysSetBoard_mapRegion {region base length mask : Nat} (s : State) (hr : region ≤ 63) (hm : mask < 65536) :
    bodySysSetBoard .config 1 0 region base length mask s = .ok { s with fw := { s.fw with
      map := s.fw.map.set region { base := base, length := length, mask := BitVec.ofNat 16 mask } } } [] := by
  unfold bodySysSetBoard
  rw [Rep.ranges_true (by simp [hr, hm])]
  rfl

theorem bodySysSetBoard_pairWatchdog {period : Nat} (s : State) (h : msU ≤ period ∧ period ≤ 1000 * msU) :
    bodySysSetBoard .config 2 period 0 0 0 0 s = .ok { s with pair := { s.pair with cfg := { s.pair.cfg with watchdog := period } } } [] := by
  unfold bodySysSetBoard
  rw [Rep.ranges_true (by simp [h])]
  rfl

/-- The state in which a reset of kind `k` waits for its instant, 1 ms on or at once where it takes over from another (R531). -/
def State.withReset (s : State) (k : Nat) : State :=
  { s with power := { s.power with resetPending := some (k, 2), resetAt := if s.resetsNow.isEmpty then s.now + msC else s.now } }

theorem bodySysReset_accepted {kind : Nat} {s : State} (hk : kind < 3)
    (hfree : (s.resetsNow.any fun o => decide (resetSize (2 - kind) ≤ resetSize o)) = false) :
    bodySysReset kind s = .ok (s.withReset (2 - kind)) [] := by
  unfold bodySysReset State.requestReset
  rw [Rep.ranges_true (by simpa using hk)]
  simp only [hfree, Bool.false_eq_true, if_false]
  rfl

/-! ## Temperatures (R536, R537) -/

theorem State.thermTo_power (s : State) (st : Therm) (n : Nat) (t : Int) :
    (s.thermTo st n t).power =
      { s.power with therm := st, throttleSince := s.now, throttleTime := s.hotTimes.1, overTime := s.hotTimes.2 } := by
  simp [State.thermTo]

/-- The thermal state moves on its own: the limits, the fraction and the sensors stay as they are. -/
theorem State.thermSteps_power (k : Nat) (s : State) : ∃ therm since hot past, (s.thermSteps k).power =
    { s.power with therm := therm, throttleSince := since, throttleTime := hot, overTime := past } := by
  induction k generalizing s with
  | zero => exact ⟨_, _, _, _, rfl⟩
  | succ k ih =>
    unfold State.thermSteps
    split
    · dsimp only
      split
      · exact ⟨_, _, _, _, rfl⟩
      · obtain ⟨therm, since, hot, past, h⟩ := ih (s.thermTo (s.thermNext s.power.therm _) _ _)
        exact ⟨therm, since, hot, past, by rw [h, State.thermTo_power]⟩
    · split
      · exact ⟨_, _, _, _, State.thermTo_power _ _ _ _⟩
      · exact ⟨_, _, _, _, rfl⟩

theorem State.thermSteps_sensors (k : Nat) (s : State) : (s.thermSteps k).power.sensors = s.power.sensors := by
  obtain ⟨_, _, _, _, h⟩ := s.thermSteps_power k
  rw [h]

theorem State.updSensor_hostMark {s : State} {n : Nat} {f : Sensor → Sensor} (hf : ∀ x, (f x).hostMark = x.hostMark) :
    ((s.updSensor n f).power.sensors.get n).hostMark = (s.power.sensors.get n).hostMark := by
  simp [State.updSensor_power, hf]

/-- Judging a sensor leaves the host's mark on it. -/
theorem State.judgeSensor_hostMark (s : State) (n : Nat) :
    ((s.judgeSensor n).power.sensors.get n).hostMark = (s.power.sensors.get n).hostMark := by
  unfold State.judgeSensor
  dsimp only
  have hdev := State.updSensor_hostMark (s := s) (n := n)
    (f := fun x => { x with devSince := if s.deviates n = true then some (x.devSince.getD s.now) else none }) fun _ => rfl
  generalize s.updSensor n _ = s1 at hdev ⊢
  refine Eq.trans ?_ hdev
  split
  · exact State.updSensor_hostMark fun _ => rfl
  · rw [apply_ite State.power, State.raise_power, ite_self]
    exact State.updSensor_hostMark fun _ => rfl

/-- The state with new thermal limits, before the thermal state follows them. -/
def State.withLimits (s : State) (warn throttleAt hyst : Int) (fraction : Nat) : State :=
  { s with power := { s.power with warn := some warn, throttleAt := some throttleAt, hyst := hyst.toNat, fraction := fraction } }

theorem bodySysConfigureThermal_inRange {warn throttleAt hyst : Int} {fraction : Nat} {s : State}
    (hlim : 800 ≤ warn ∧ warn ≤ throttleAt ∧ throttleAt ≤ s.tjMax ∧ warn % 4 = 0 ∧ throttleAt % 4 = 0)
    (hrest : 16 ≤ hyst ∧ hyst ≤ 160 ∧ 10 ≤ fraction ∧ fraction ≤ 100) :
    bodySysConfigureThermal warn throttleAt hyst fraction s = .ok ((s.withLimits warn throttleAt hyst fraction).thermSteps 4) [] := by
  obtain ⟨hw, hwt, ht, hw4, ht4⟩ := hlim
  obtain ⟨hh, hh', hf, hf'⟩ := hrest
  unfold bodySysConfigureThermal
  have hwarn : warn ≤ s.tjMax := Int.le_trans hwt ht
  have hthrottle : 800 ≤ throttleAt := Int.le_trans hw hwt
  rw [Rep.ranges_true (by simp [hw, hwt, ht, hw4, ht4, hh, hh', hf, hf', hwarn, hthrottle])]
  rfl

/-- The state with the host's mark on sensor `n` set to `b`, and the sensor judged. -/
def State.withMark (s : State) (n : Nat) (b : Bool) : State := (s.updSensor n fun y => { y with hostMark := b }).judgeSensor n

theorem State.withMark_hostMark (s : State) (n : Nat) (b : Bool) : ((s.withMark n b).power.sensors.get n).hostMark = b := by
  simp [State.withMark, State.judgeSensor_hostMark, State.updSensor_power]

theorem State.withMark_keeps (s : State) (n : Nat) (b : Bool) : goesOn [.fence, .events, .power] s (s.withMark n b) :=
  State.judgeSensor_on (State.updSensor_on (.refl _ _) (by decide)) (by decide)

theorem bodySysSetSensor_clears {sensor : Nat} (s : State) (h : sensor < 16) : bodySysSetSensor sensor 1 s =
    .ok (if (s.power.sensors.get sensor).hostMark then s.withMark sensor false else s) [] := by
  unfold bodySysSetSensor
  rw [Rep.ranges_true (by simpa using h)]
  rfl

/-- The last sound sensor is not marked; any other is, and the thermal state follows. -/
theorem bodySysSetSensor_marks {sensor : Nat} {s : State} (h : sensor < 16)
    (hmay : (s.power.sensors.get sensor).hostMark = true ∨ (s.power.sensors.get sensor).faulty = true ∨
      ((List.range 16).any fun n => decide (n ≠ sensor) && !(s.power.sensors.get n).faulty) = true) :
    bodySysSetSensor sensor 0 s =
      .ok (if (s.power.sensors.get sensor).hostMark then s else (s.withMark sensor true).thermSteps 4) [] := by
  unfold bodySysSetSensor
  rw [Rep.ranges_true (by simpa using h)]
  dsimp only
  rw [if_neg (by decide)]
  split
  · rfl
  · rename_i hunmarked
    rw [if_neg]
    · rfl
    · rintro hlast
      simp only [Bool.and_eq_true, Bool.not_eq_true', List.all_eq_true, Bool.or_eq_true, decide_eq_true_eq] at hlast
      obtain ⟨hsound, hothers⟩ := hlast
      simp only [hunmarked, hsound, Bool.false_eq_true, false_or, List.any_eq_true, Bool.and_eq_true, decide_eq_true_eq,
        Bool.not_eq_true'] at hmay
      obtain ⟨n, hn, hne, hnf⟩ := hmay
      rcases hothers n hn with heq | hfaulty
      · exact hne heq
      · simp [hnf] at hfaulty

/-! ## The statement -/

/-- Settles O2, command by command: what its own checks come to, and then its completion. -/
theorem systemCommands : Obligations.SystemCommands := by
  unfold Obligations.SystemCommands
  refine ⟨?_, ?_, ?_, ?_, ?_, ?_, ?_, ?_, ?_, ?_, ?_, ?_, ?_⟩
  · rintro src _ d s ⟨hd, hd', hoff, rfl⟩ hskein ⟨hneeds, hsupplies⟩
    exact sysPowerDomain_comesOn src ⟨hd, hd'⟩ hoff hskein hneeds hsupplies
  · rintro src _ d s ⟨hd, hd', hon, rfl⟩ ⟨hfree, hmay⟩
    exact sysPowerDomain_goesOff src ⟨hd, hd'⟩ hon hfree hmay
  · rintro src on d s ⟨hd, hd', h⟩
    exact (completes_ok_beside rfl rfl rfl (bodySysPowerDomain_stays ⟨hd, hd'⟩ h) (.refl _ _) fun _ _ => trivial).answer
  · intro src s
    exact (completes_ok_beside (body := bodySysGetStatus) rfl rfl rfl rfl (.refl _ _) fun _ _ => trivial).answer
  · rintro _ _ period _ _ _ _ s ⟨rfl, rfl, h, h', rfl, rfl, rfl, rfl⟩
    exact sysSetBoard_completes (bodySysSetBoard_coreWatchdog s ⟨h, h'⟩) (keeps_fw s _ |>.keeps.mono (by decide))
      fun t hfw _ => congrArg Fw.wdPeriod hfw
  · rintro _ _ _ region base length mask s ⟨rfl, rfl, rfl, hr, hm⟩
    exact sysSetBoard_completes (bodySysSetBoard_mapRegion s hr hm) (keeps_fw s _ |>.keeps.mono (by decide))
      fun t hfw _ => congrArg Fw.map hfw
  · rintro _ _ period _ _ _ _ s ⟨rfl, rfl, h, h', rfl, rfl, rfl, rfl⟩
    exact sysSetBoard_completes (bodySysSetBoard_pairWatchdog s ⟨h, h'⟩) (kset_pair (.refl [.pair] s) (by decide) |>.keeps.mono (by decide))
      fun t _ hcfg => hcfg
  · intro src kind s hk hfree
    refine completes_ok_beside rfl rfl rfl (bodySysReset_accepted hk hfree) (kset_power (.refl [.power] s) (by decide) |>.keeps.mono (by decide))
      fun t ht => ?_
    have hpower : t.power = (s.withReset (2 - kind)).power := ht .power (by decide)
    rw [hpower]
    exact ⟨rfl, rfl⟩
  · intro src s
    exact completes_ok_beside (body := bodySysGetPower) rfl rfl rfl rfl (kset_free (.refl [.free] s) (by decide) |>.keeps.mono (by decide))
      fun t ht => ht .free (by decide)
  · intro src s
    exact completes_ok_beside (body := bodySysGetThermal) rfl rfl rfl rfl (kset_free (.refl [.free] s) (by decide) |>.keeps.mono (by decide))
      fun t ht => ht .free (by decide)
  · intro src warn throttleAt hyst fraction s hlim hrest
    refine completes_ok_beside rfl rfl rfl (bodySysConfigureThermal_inRange hlim hrest)
      ((State.thermSteps_on (kset_power (.refl [.fence, .events, .power] s) (by decide)) (by decide)).keeps.mono (by decide)) fun t ht => ?_
    obtain ⟨_, _, _, _, hsteps⟩ := (s.withLimits warn throttleAt hyst fraction).thermSteps_power 4
    have hpower : t.power = _ := (ht .power (by decide)).trans hsteps
    rw [hpower]
    exact ⟨rfl, rfl, rfl, rfl⟩
  · rintro src sensor _ s ⟨h, rfl⟩
    refine completes_ok_beside rfl rfl rfl (bodySysSetSensor_clears s h)
      ((keeps_ite (s.withMark_keeps sensor false) (.refl _ _)).keeps.mono (by decide)) fun t ht => ?_
    rw [ht .power (by decide)]
    split
    · exact s.withMark_hostMark sensor false
    · rename_i hunmarked
      simpa using hunmarked
  · rintro src sensor _ s ⟨h, rfl⟩ hmay
    refine completes_ok_beside rfl rfl rfl (bodySysSetSensor_marks h hmay)
      ((keeps_ite (.refl _ _) (State.thermSteps_on (s.withMark_keeps sensor true) (by decide))).keeps.mono (by decide)) fun t ht => ?_
    rw [ht .power (by decide)]
    split
    · assumption
    · rw [State.thermSteps_sensors]
      exact s.withMark_hostMark sensor true

end Sys2Proof.Machine
end

section
/-!
PROOF. The timers and outputs of the references.
-/
namespace Sys2Proof.Machine

/-! ## What raises leave behind (R510) -/

/-- What the event controller holds of the raises so far: PENDING, and LAST_CAUSE and COUNT. -/
def State.raised (s : State) : BitVec 1024 × Tbl LastCause := (s.events.pending, s.events.last)

theorem State.vecSend_raised (s : State) (v : Nat) : (s.vecSend v).raised = s.raised := by
  unfold State.vecSend
  dsimp only
  split <;> rfl

theorem State.vecRaise_raised (s : State) (v : Nat) : (s.vecRaise v).raised = s.raised := by
  unfold State.vecRaise
  dsimp only
  split
  · exact s.vecSend_raised v
  · rfl

theorem State.logStore_raised (s : State) (e : Events) (k : Nat) (r : LogRec) : (s.logStore e k r).raised = (e.pending, e.last) := by
  unfold State.logStore
  dsimp only
  split <;> rfl

theorem State.logRecord_raised (s : State) (r : LogRec) : (s.logRecord r).raised = s.raised := by
  unfold State.logRecord
  dsimp only
  split
  · rfl
  · exact s.logStore_raised _ _ _

theorem State.logMarker_raised (s : State) (epoch : Nat) : (s.logMarker epoch).raised = s.raised := by
  unfold State.logMarker
  dsimp only
  split
  · rfl
  · exact s.logRecord_raised _

theorem State.logOwed_raised (s : State) : s.logOwed.raised = s.raised := by
  unfold State.logOwed
  refine List.foldlRecOn s.fence.marks _ (motive := fun t : State => t.raised = s.raised) rfl fun t ht m _ => ?_
  dsimp only
  split
  · exact (State.logMarker_raised _ _).trans ht
  · exact ht

theorem State.logEvent_raised (s : State) (src cause : Nat) (inj : Bool) (data : List Byte) :
    (s.logEvent src cause inj data).raised = s.raised :=
  (State.logRecord_raised _ _).trans s.logOwed_raised

theorem State.raiseOne_raised (s : State) (src cause : Nat) (inj : Bool) (data : List Byte) :
    (s.raiseOne src cause inj data).raised = (s.events.pending ||| BitVec.ofNat 1024 (2 ^ src),
      s.events.last.set src { cause := cause, count := satAdd 16 (s.events.last.get src).count 1 }) := by
  unfold State.raiseOne
  dsimp only
  split <;> split
  · exact State.logEvent_raised _ _ _ _ _
  · exact (State.vecRaise_raised _ _).trans (State.logEvent_raised _ _ _ _ _)
  · rfl
  · exact State.vecRaise_raised _ _

theorem State.hasRaised_eq_raised (s : State) (src cause : Nat) :
    s.hasRaised src cause = (s.raised.1.getLsbD src && decide ((s.raised.2.get src).cause = cause)) := rfl

theorem State.raiseOne_hasRaised (s : State) {src : Nat} (cause : Nat) (inj : Bool) (data : List Byte) (h : src < 1024) :
    (s.raiseOne src cause inj data).hasRaised src cause = true := by
  rw [State.hasRaised_eq_raised, State.raiseOne_raised]
  simp only [BitVec.getLsbD_or, BitVec.getLsbD_ofNat, Nat.testBit_two_pow_self, h, decide_true, Bool.and_true, Bool.or_true,
    Tbl.get_set_same]

theorem State.raiseOne_keeps_hasRaised {s : State} {src src' cause cause' : Nat} (inj : Bool) (data : List Byte) (hne : src ≠ src')
    (h : s.hasRaised src cause = true) : (s.raiseOne src' cause' inj data).hasRaised src cause = true := by
  simp only [State.hasRaised, Bool.and_eq_true, decide_eq_true_eq] at h
  rw [State.hasRaised_eq_raised, State.raiseOne_raised]
  simp only [BitVec.getLsbD_or, h.1, Bool.true_or, Tbl.get_set_other _ _ _ _ hne, h.2, decide_true, Bool.and_true]

theorem State.logReached_keeps_hasRaised {s was : State} {src cause : Nat} (hne : src ≠ 832) (h : s.hasRaised src cause = true) :
    (s.logReached was).hasRaised src cause = true := by
  unfold State.logReached
  split
  · exact State.raiseOne_keeps_hasRaised _ _ hne h
  · exact h

/-- A raise on a source other than that of the event log stands as the last on its source. -/
theorem State.raise_hasRaised (s : State) {src : Nat} (cause : Nat) (data : List Fld) (inj : Bool) (h : src < 1024) (hne : src ≠ 832) :
    (s.raise src cause data inj).hasRaised src cause = true :=
  State.logReached_keeps_hasRaised hne (s.raiseOne_hasRaised cause inj _ h)

/-- A raise on another source leaves what a source has raised. -/
theorem State.raise_keeps_hasRaised {s : State} {src src' cause cause' : Nat} (data : List Fld) (inj : Bool) (hlog : src ≠ 832)
    (hne : src ≠ src') (h : s.hasRaised src cause = true) : (s.raise src' cause' data inj).hasRaised src cause = true :=
  State.logReached_keeps_hasRaised hlog (State.raiseOne_keeps_hasRaised _ _ hne h)

/-! ## How a row is stated -/

/-- A row that goes to `t` within its frame. -/
theorem exec_next_within {i : Instr} {s t : State} {ps : List Part} {eff : State → Prop} (hx : exec i s = .next t)
    (hk : Out.keeps ps s (exec i s)) (he : eff t) : ∃ t, exec i s = .next t ∧ keepsAllBut ps s t ∧ eff t :=
  ⟨t, hx, (hk t hx).keeps, he⟩

/-- A row that changes nothing. -/
theorem exec_next_same {i : Instr} {s : State} (hx : exec i s = .next s) : ∃ t, exec i s = .next t ∧ keepsAllBut [] s t ∧ t = s :=
  ⟨s, hx, .refl _ _, rfl⟩

/-- Time that passes to an instant does not stop short of it. -/
theorem State.le_advance_now (s : State) (t : Nat) : t ≤ (s.advance t).now := by
  unfold State.advance
  split
  · assumption
  · dsimp only
    split
    · exact Nat.le_refl t
    · exact (State.fencesTo_keeps { s with now := t } _).onward.1

/-! ## The device level follows (R159) -/

/-- A new device level changes the level, the hop count, the ESMC frames due and the squelch of the outputs, and nothing else. -/
theorem State.refreshLevel_ref (s : State) : ∃ level hops due pps clk, s.refreshLevel.ref =
    { s.ref with level := level, hops := hops, esmcDue := due, pps := pps, clk := clk } := by
  unfold State.refreshLevel
  dsimp only
  split
  · exact ⟨_, _, _, _, _, rfl⟩
  · unfold State.squelchOutputs
    rw [State.raise_ref]
    exact ⟨_, _, _, _, _, rfl⟩

theorem State.refreshLevel_state (s : State) : s.refreshLevel.ref.state = s.ref.state := by
  obtain ⟨_, _, _, _, _, h⟩ := s.refreshLevel_ref
  rw [h]

theorem State.refreshLevel_slots (s : State) : s.refreshLevel.ref.slots = s.ref.slots := by
  obtain ⟨_, _, _, _, _, h⟩ := s.refreshLevel_ref
  rw [h]

theorem State.refreshLevel_inSpec (s : State) :
    s.refreshLevel.ref.inSpecOver = s.ref.inSpecOver ∧ s.refreshLevel.ref.inSpecEnd = s.ref.inSpecEnd := by
  obtain ⟨_, _, _, _, _, h⟩ := s.refreshLevel_ref
  rw [h]
  exact ⟨rfl, rfl⟩

theorem State.refreshLevel_now (s : State) : s.refreshLevel.now = s.now := (s.refreshLevel_keeps).keeps .clock (by decide)

theorem State.refreshLevel_glob (s : State) : s.refreshLevel.glob = s.glob := (s.refreshLevel_keeps).keeps .glob (by decide)

/-- DEVICE_LEVEL is raised on the source of the DPLL alone. -/
theorem State.refreshLevel_keeps_hasRaised {s : State} {src cause : Nat} (hlog : src ≠ 832) (hdpll : src ≠ 808)
    (h : s.hasRaised src cause = true) : s.refreshLevel.hasRaised src cause = true := by
  unfold State.refreshLevel
  dsimp only
  split
  · exact h
  · exact State.raise_keeps_hasRaised [] false hlog hdpll h

/-! ## Reference inputs (R152, R159) -/

theorem exec_refActivityTimeout_active {slot : Nat} {s : State} (hslot : slot < 8 ∨ 28 ≤ slot ∧ slot < 31)
    (he : (s.ref.slots.get slot).enable = true) (ha : (s.ref.slots.get slot).active = true) :
    exec (.refActivityTimeout slot) s = .next ((s.advance ((s.ref.slots.get slot).lastEdge + s.activityC slot)).updSlot slot
      fun y => { y with active := false }) := by
  change execRefActivityTimeout slot s = _
  unfold execRefActivityTimeout
  rw [if_neg (by omega)]
  dsimp only
  rw [if_pos (by rw [he, ha]; rfl)]

theorem exec_refActivityTimeout_idle {slot : Nat} {s : State} (hslot : slot < 8 ∨ 28 ≤ slot ∧ slot < 31)
    (h : (s.ref.slots.get slot).enable = false ∨ (s.ref.slots.get slot).active = false) :
    exec (.refActivityTimeout slot) s = .next s := by
  change execRefActivityTimeout slot s = _
  unfold execRefActivityTimeout
  rw [if_neg (by omega)]
  dsimp only
  rw [if_neg (by rcases h with h | h <;> simp [h])]

/-- The level that a slot takes once its level source is silent. -/
def RefSlot.silentLevel (y : RefSlot) : Nat := if y.overrideLevel then y.cfgLevel else 15

/-- The instant at which the level source of slot `n` has been silent for too long. -/
def State.levelDeadline (s : State) (n : Nat) : Nat :=
  (s.ref.slots.get n).levelSeen + (if (s.ports.get (s.ref.slots.get n).src).isSelvedge then 16 * msC else 5 * secC)

/-- The state at that instant, with the level of slot `n` taken. -/
def State.levelSilent (s : State) (n : Nat) : State :=
  (s.advance (s.levelDeadline n)).updSlot n fun y =>
    { y with level := (s.ref.slots.get n).silentLevel, rxLevel := 15, levelDead := true }

theorem exec_levelTimeout_silent {slot : Nat} {s : State} (hslot : 8 ≤ slot ∧ slot < 24) (he : (s.ref.slots.get slot).enable = true)
    (hd : (s.ref.slots.get slot).levelDead = false) :
    exec (.levelTimeout slot) s = .next (if (s.ref.slots.get slot).level = (s.ref.slots.get slot).silentLevel then s.levelSilent slot
      else (s.levelSilent slot).raise (slotSrc slot) Ev.levelChange).refreshLevel := by
  change execLevelTimeout slot s = _
  unfold execLevelTimeout
  rw [if_neg (by omega)]
  dsimp only
  rw [if_neg (by rw [he, hd]; decide)]
  rfl

theorem exec_levelTimeout_idle {slot : Nat} {s : State} (hslot : 8 ≤ slot ∧ slot < 24)
    (h : (s.ref.slots.get slot).enable = false ∨ (s.ref.slots.get slot).levelDead = true) : exec (.levelTimeout slot) s = .next s := by
  change execLevelTimeout slot s = _
  unfold execLevelTimeout
  rw [if_neg (by omega)]
  dsimp only
  rw [if_pos (by rcases h with h | h <;> simp [h])]

/-- What a slot holds once its level source is silent. -/
theorem State.levelSilent_slot (s : State) (n : Nat) : (s.levelSilent n).ref.slots.get n =
    { s.ref.slots.get n with level := (s.ref.slots.get n).silentLevel, rxLevel := 15, levelDead := true } := by
  simp [State.levelSilent, State.updSlot_ref]

theorem State.levelDeadline_le_levelSilent_now (s : State) (n : Nat) : s.levelDeadline n ≤ (s.levelSilent n).now :=
  s.le_advance_now _

/-! ## The oscillator's monitor (R15, R162) -/

theorem State.dpllTo_ref_state (s : State) (st : DState) (sel : Option Nat) (cause : Nat) : (s.dpllTo st sel cause).ref.state = st := by
  unfold State.dpllTo
  rw [State.raise_ref]

theorem State.enterHoldover_ref_state (s : State) (xo : Bool) : (s.enterHoldover xo).ref.state = .holdover := by
  unfold State.enterHoldover
  dsimp only
  rw [apply_ite State.ref, State.raise_ref, ite_self]
  exact State.dpllTo_ref_state _ _ _ _

theorem State.xoDeclared_glob (s : State) (present : Bool) :
    (s.xoDeclared present).glob = { s.glob with xoPresent := present, xoSince := s.now } := by
  have hdpll := fun (t : State) (st : DState) => (State.dpllTo_keeps t st none 0).keeps .glob (by decide)
  have hhold := fun (t : State) => (State.enterHoldover_keeps t true).keeps .glob (by decide)
  unfold State.xoDeclared
  dsimp only
  repeat' split
  · rfl
  · rfl
  · exact (State.refreshLevel_glob _).trans (hhold _)
  · exact (State.refreshLevel_glob _).trans (hdpll _ _)
  · rfl

/-- While PD1 is on, the DPLL is in holdover once the oscillator is declared absent. -/
theorem State.xoDeclared_absent_state {s : State} (h : s.pdOn 1 = true) : (s.xoDeclared false).ref.state = .holdover := by
  unfold State.xoDeclared
  dsimp only
  rw [if_neg (by simpa [State.pdOn] using h), if_pos (by decide)]
  split
  · rename_i hheld
    simp only [Bool.and_eq_true, decide_eq_true_eq] at hheld
    exact hheld.1
  · rw [State.refreshLevel_state]
    exact State.enterHoldover_ref_state _ _

/-- The state with the windows of the oscillator's monitor counted. -/
def State.countXo (s : State) (good bad : Nat) : State := { s with glob := { s.glob with xoGood := good, xoBad := bad } }

/-- The boot leaves its first stage once the oscillator is present and has not been absent for 100 ms. -/
def State.leaveXoStage (s : State) : State :=
  if s.power.stage = .xo && s.glob.xoPresent && !(s.glob.xoAbsent && decide (s.now < s.glob.xoSince + 100 * msC)) then
    { s with power := { s.power with stage := .flash } }
  else s

theorem State.leaveXoStage_glob (s : State) : s.leaveXoStage.glob = s.glob := by
  unfold State.leaveXoStage
  split <;> rfl

theorem State.leaveXoStage_ref (s : State) : s.leaveXoStage.ref = s.ref := by
  unfold State.leaveXoStage
  split <;> rfl

/-- What a good window makes of the state: at the third in a row an absent oscillator is declared present. -/
def State.xoGoodWindow (s : State) : State :=
  let t := s.countXo (min 3 (s.glob.xoGood + 1)) 0
  if decide (t.glob.xoGood = 3) && !s.glob.xoPresent then t.xoDeclared true else t

/-- What a bad window makes of the state: at the third in a row the oscillator is absent, and a present one is declared so. -/
def State.xoBadWindow (s : State) : State :=
  let t := s.countXo 0 (min 3 (s.glob.xoBad + 1))
  let u := { t with glob := { t.glob with xoAbsent := true } }
  if decide (t.glob.xoBad = 3) then if s.glob.xoPresent then u.xoDeclared false else u else t

theorem exec_xoMonitorWindow_good {edges : Nat} (s : State) (h : 80 ≤ edges ∧ edges ≤ 120) :
    exec (.xoMonitorWindow edges) s = .next s.xoGoodWindow.leaveXoStage := by
  change execXoMonitorWindow edges s = _
  unfold execXoMonitorWindow
  rw [decide_eq_true h]
  rfl

theorem exec_xoMonitorWindow_bad {edges : Nat} (s : State) (h : edges < 80 ∨ 120 < edges) :
    exec (.xoMonitorWindow edges) s = .next s.xoBadWindow.leaveXoStage := by
  change execXoMonitorWindow edges s = _
  unfold execXoMonitorWindow
  rw [decide_eq_false (by omega : ¬(80 ≤ edges ∧ edges ≤ 120))]
  rfl

/-- A count that stops at 3 is 3 after a window where it was at least 2 before. -/
theorem min_three_succ_eq (n : Nat) : decide (min 3 (n + 1) = 3) = decide (2 ≤ n) := by
  rw [decide_eq_decide]
  omega

theorem State.xoGoodWindow_glob (s : State) : s.xoGoodWindow.glob.xoGood = min 3 (s.glob.xoGood + 1) ∧ s.xoGoodWindow.glob.xoBad = 0 ∧
    s.xoGoodWindow.glob.xoPresent = (s.glob.xoPresent || decide (2 ≤ s.glob.xoGood)) := by
  unfold State.xoGoodWindow State.countXo
  dsimp only
  rw [min_three_succ_eq]
  split
  · rename_i hthird
    rw [State.xoDeclared_glob]
    refine ⟨rfl, rfl, ?_⟩
    rw [(Bool.and_eq_true_iff.1 hthird).1, Bool.or_true]
  · rename_i hother
    refine ⟨rfl, rfl, ?_⟩
    cases hpresent : s.glob.xoPresent with
    | true => rfl
    | false => simpa [hpresent] using hother

theorem State.xoBadWindow_glob (s : State) : s.xoBadWindow.glob.xoGood = 0 ∧ s.xoBadWindow.glob.xoBad = min 3 (s.glob.xoBad + 1) ∧
    s.xoBadWindow.glob.xoPresent = (s.glob.xoPresent && decide (s.glob.xoBad < 2)) := by
  unfold State.xoBadWindow State.countXo
  dsimp only
  rw [min_three_succ_eq]
  split
  · rename_i hthird
    have hbad : ¬ s.glob.xoBad < 2 := Nat.not_lt.2 (of_decide_eq_true hthird)
    split
    · rw [State.xoDeclared_glob]
      exact ⟨rfl, rfl, by rw [decide_eq_false hbad, Bool.and_false]⟩
    · rename_i habsent
      exact ⟨rfl, rfl, by rw [decide_eq_false hbad, Bool.and_false]; exact Bool.eq_false_iff.2 habsent⟩
  · rename_i hother
    have hbad : s.glob.xoBad < 2 := by simpa using hother
    exact ⟨rfl, rfl, by rw [decide_eq_true hbad, Bool.and_true]⟩

theorem State.xoBadWindow_state {s : State} (hpresent : s.glob.xoPresent = true) (hbad : 2 ≤ s.glob.xoBad) (hpd : s.pdOn 1 = true) :
    s.xoBadWindow.ref.state = .holdover := by
  unfold State.xoBadWindow State.countXo
  dsimp only
  rw [min_three_succ_eq, if_pos (decide_eq_true hbad), if_pos hpresent]
  exact State.xoDeclared_absent_state hpd

/-! ## Holdover, steering and ESMC (R159, R170, R171) -/

/-- The state when the in-spec time of holdover ends at `n`, before the device level follows. -/
def State.outOfSpec (s : State) (n : Nat) : State :=
  let t := s.advance n
  { t with ref := { t.ref with inSpecOver := true, inSpecEnd := none } }

theorem exec_holdoverInspecExpiry_due {n : Nat} {s : State} (hst : s.ref.state = .holdover) (hend : s.ref.inSpecEnd = some n) :
    exec .holdoverInspecExpiry s = .next (s.outOfSpec n).refreshLevel := by
  change execHoldoverInspecExpiry s = _
  unfold execHoldoverInspecExpiry
  rw [hst, hend]
  rfl

theorem exec_holdoverInspecExpiry_idle {s : State} (h : s.ref.state ≠ .holdover ∨ s.ref.inSpecEnd = none) :
    exec .holdoverInspecExpiry s = .next s := by
  change execHoldoverInspecExpiry s = _
  unfold execHoldoverInspecExpiry
  split
  · rename_i hst hend
    simp [hst, hend] at h
  · rfl

theorem exec_steerTimeout_due {n : Nat} {s : State} (hst : s.ref.state = .steered) (hend : s.ref.steerEnd = some n) :
    exec .steerTimeout s = .next (State.raise { s.advance n with ref := { (s.advance n).ref with closing := true, steerEnd := none } }
      808 Ev.steerTimeout) := by
  change execSteerTimeout s = _
  unfold execSteerTimeout
  rw [hst, hend]

theorem exec_steerTimeout_idle {s : State} (h : s.ref.state ≠ .steered ∨ s.ref.steerEnd = none) : exec .steerTimeout s = .next s := by
  change execSteerTimeout s = _
  unfold execSteerTimeout
  split
  · rename_i hst hend
    simp [hst, hend] at h
  · rfl

theorem exec_esmcPduTx_sends {port : Nat} {s : State} (hp : port < 256) (he : s.esmcPorts.contains port = true)
    (hu : s.portUp port = true) : exec (.esmcPduTx port) s = .next { s with ref := { s.ref with
      esmcDue := s.ref.esmcDue.filter (· ≠ port)
      esmcSent := (port, (esmcCodes s.ref.level).1 * 256 + (esmcCodes s.ref.level).2) :: s.ref.esmcSent } } := by
  change execEsmcPduTx port s = _
  unfold execEsmcPduTx
  rw [if_neg (by omega), if_pos (by rw [he, hu]; rfl)]

theorem exec_esmcPduTx_idle {port : Nat} {s : State} (hp : port < 256) (h : s.esmcPorts.contains port = false ∨ s.portUp port = false) :
    exec (.esmcPduTx port) s = .next s := by
  change execEsmcPduTx port s = _
  unfold execEsmcPduTx
  rw [if_neg (by omega), if_neg]
  rcases h with h | h <;> rw [h] <;> simp

/-! ## Outputs (R172 to R175) -/

/-- The first instant at or after `floor` that lies a whole number of `m` from `base`. -/
theorem next_whole_from (floor base : Int) {m : Int} (hm : 0 < m) : floor ≤ base + (floor - base + m - 1) / m * m ∧
    base + (floor - base + m - 1) / m * m < floor + m ∧ (base + (floor - base + m - 1) / m * m - base) % m = 0 := by
  have hlow := Int.lt_ediv_add_one_mul_self (floor - base + m - 1) hm
  have hhigh := Int.ediv_mul_le (floor - base + m - 1) (Int.ne_of_gt hm)
  rw [Int.add_mul, Int.one_mul] at hlow
  have hmod : (base + (floor - base + m - 1) / m * m - base) % m = 0 := by
    rw [Int.add_comm base, Int.add_sub_cancel]
    exact Int.mul_emod_left _ _
  refine ⟨?_, ?_, hmod⟩
  · omega
  · omega

/-- The residual of a PPS output at its next edge (R173). -/
def PpsOut.nextResidual (y : PpsOut) : Int :=
  if y.direct then 0 else if 0 ≤ y.residual then max 0 (y.residual - y.slew) else min 0 (y.residual + y.slew)

/-- The earliest KTIME of the next edge of a PPS output: now, or half a second after the last one. -/
def State.ppsFloor (s : State) (y : PpsOut) : Int := if y.direct then s.ktime else max s.ktime (y.lastPulse + 32768000000000)

/-- The KTIME of the next edge of a PPS output. -/
def State.ppsEdge (s : State) (y : PpsOut) : Int :=
  y.offset + y.nextResidual + (s.ppsFloor y - (y.offset + y.nextResidual) + secU - 1) / (secU : Int) * secU

theorem State.ktime_le_ppsEdge (s : State) (y : PpsOut) : s.ktime ≤ s.ppsEdge y := by
  have hfloor : s.ktime ≤ s.ppsFloor y := by
    unfold State.ppsFloor
    split
    · exact Int.le_refl _
    · exact Int.le_max_left _ _
  exact Int.le_trans hfloor (next_whole_from (s.ppsFloor y) (y.offset + y.nextResidual) (m := secU) (by decide)).1

theorem State.ppsEdge_direct_lt {s : State} {y : PpsOut} (h : y.direct = true) : s.ppsEdge y < s.ktime + secU := by
  have hfloor : s.ppsFloor y = s.ktime := if_pos h
  rw [← hfloor]
  exact (next_whole_from (s.ppsFloor y) (y.offset + y.nextResidual) (m := secU) (by decide)).2.1

theorem State.ppsEdge_whole (s : State) (y : PpsOut) : (s.ppsEdge y - y.offset - y.nextResidual) % secU = 0 := by
  rw [Int.sub_sub]
  exact (next_whole_from (s.ppsFloor y) (y.offset + y.nextResidual) (m := secU) (by decide)).2.2

/-- Whether the next edge of a PPS output ends a move of its target. -/
def PpsOut.aligns (y : PpsOut) : Bool := if y.direct then y.reportAligned else decide (y.residual ≠ 0 ∧ y.nextResidual = 0)

/-- The state at the next edge of PPS output `n`. -/
def State.ppsRisen (s : State) (n : Nat) : State :=
  let y := s.ref.pps.get n
  let t := s.advanceTick (s.seg.tickAt (s.ppsEdge y))
  { t with ref := { t.ref with pps := t.ref.pps.set n { y with
    residual := y.nextResidual, direct := false, reportAligned := false, pulses := y.pulses + 1, lastPulse := s.ppsEdge y
    highEnd := t.now + cyclesOf y.width } } }

theorem State.ppsRisen_pps (s : State) (n : Nat) : (s.ppsRisen n).ref.pps.get n = { s.ref.pps.get n with
    residual := (s.ref.pps.get n).nextResidual, direct := false, reportAligned := false, pulses := (s.ref.pps.get n).pulses + 1
    lastPulse := s.ppsEdge (s.ref.pps.get n), highEnd := (s.ppsRisen n).now + cyclesOf (s.ref.pps.get n).width } := by
  simp [State.ppsRisen]

/-- The state after the edge, with PPS_ALIGNED raised where the edge ends a move. -/
def State.ppsPulsed (s : State) (n : Nat) : State :=
  if (s.ref.pps.get n).aligns then (s.ppsRisen n).raise 809 Ev.ppsAligned [.u 2 n] else s.ppsRisen n

theorem State.ppsPulsed_ref (s : State) (n : Nat) : (s.ppsPulsed n).ref = (s.ppsRisen n).ref := by
  unfold State.ppsPulsed
  rw [apply_ite State.ref, State.raise_ref, ite_self]

theorem State.ppsPulsed_now (s : State) (n : Nat) : (s.ppsPulsed n).now = (s.ppsRisen n).now := by
  unfold State.ppsPulsed
  rw [apply_ite State.now, State.raise_now, ite_self]

theorem State.ppsPulsed_hasRaised {s : State} {n : Nat} (h : (s.ref.pps.get n).aligns = true) :
    (s.ppsPulsed n).hasRaised 809 Ev.ppsAligned = true := by
  unfold State.ppsPulsed
  rw [if_pos h]
  exact State.raise_hasRaised _ _ _ _ (by decide) (by decide)

theorem exec_ppsOutPulse_rises {n : Nat} {s : State} (hn : n < 2) (he : (s.ref.pps.get n).enable = true)
    (hs : (s.ref.pps.get n).squelched = false) : exec (.ppsOutPulse n) s = .next (s.ppsPulsed n) := by
  change execPpsOutPulse n s = _
  unfold execPpsOutPulse
  rw [if_neg (by omega)]
  dsimp only
  rw [if_neg (by rw [he, hs]; decide)]
  rfl

theorem exec_ppsOutPulse_idle {n : Nat} {s : State} (hn : n < 2)
    (h : (s.ref.pps.get n).enable = false ∨ (s.ref.pps.get n).squelched = true) : exec (.ppsOutPulse n) s = .next s := by
  change execPpsOutPulse n s = _
  unfold execPpsOutPulse
  rw [if_neg (by omega)]
  dsimp only
  rw [if_pos (by rcases h with h | h <;> simp [h])]

/-- The instant at which the residual of a clock output has gone (R175). -/
def ClkOut.alignedAt (y : ClkOut) : Nat := y.slewAt + ceilDiv (y.residual.natAbs * secC) (max 1 y.slew)

/-- The state at `stop` with clock output `n` aligned to its target. -/
def State.clkAligned (s : State) (n stop : Nat) : State :=
  let t := s.advance stop
  { t with ref := { t.ref with clk := t.ref.clk.set n { s.ref.clk.get n with residual := 0, since := t.now } } }

theorem State.clkAligned_ref (s : State) (n stop : Nat) : (s.clkAligned n stop).ref =
    { s.ref with clk := s.ref.clk.set n { s.ref.clk.get n with residual := 0, since := (s.clkAligned n stop).now } } := by
  unfold State.clkAligned
  dsimp only
  rw [State.advance_ref]

theorem State.le_clkAligned_now (s : State) (n stop : Nat) : stop ≤ (s.clkAligned n stop).now := s.le_advance_now _

theorem exec_clkoutAligned_due {n : Nat} {s : State} (hn : n < 4) (he : (s.ref.clk.get n).enable = true)
    (hk : (s.ref.clk.get n).ktime = true) (hs : (s.ref.clk.get n).squelched = false) (hr : (s.ref.clk.get n).residual ≠ 0) :
    exec (.clkoutAligned n) s = .next ((s.clkAligned n (s.ref.clk.get n).alignedAt).raise 809 Ev.clkoutAligned [.u 2 n]) := by
  change execClkoutAligned n s = _
  unfold execClkoutAligned
  rw [if_neg (by omega)]
  dsimp only
  rw [if_neg (by simp [he, hk, hs, hr])]
  rfl

theorem exec_clkoutAligned_idle {n : Nat} {s : State} (hn : n < 4) (h : (s.ref.clk.get n).enable = false ∨
    (s.ref.clk.get n).ktime = false ∨ (s.ref.clk.get n).squelched = true ∨ (s.ref.clk.get n).residual = 0) :
    exec (.clkoutAligned n) s = .next s := by
  change execClkoutAligned n s = _
  unfold execClkoutAligned
  rw [if_neg (by omega)]
  dsimp only
  rw [if_pos (by rcases h with h | h | h | h <;> simp [h])]

/-! ## The statement -/

/-- Settles O30, row by row: what the row goes to where it acts, and that it changes nothing elsewhere. -/
theorem referenceRows : Obligations.ReferenceRows := by
  unfold Obligations.ReferenceRows
  refine ⟨?_, ?_, ?_, ?_, ?_, ?_, ?_, ?_, ?_, ?_, ?_, ?_, ?_, ?_, ?_, ?_, ?_⟩
  · rintro slot s ⟨hslot, he, ha⟩
    refine exec_next_within (exec_refActivityTimeout_active hslot he ha) (execRefActivityTimeout_keeps _ _) ⟨?_, s.le_advance_now _⟩
    rw [State.updSlot_ref, State.advance_ref]
  · rintro slot s ⟨hslot, h⟩
    exact exec_next_same (exec_refActivityTimeout_idle hslot h)
  · intro edges s h
    refine exec_next_within (exec_xoMonitorWindow_good s h) (execXoMonitorWindow_keeps _ _) ?_
    rw [State.leaveXoStage_glob]
    exact s.xoGoodWindow_glob
  · intro edges s h
    refine exec_next_within (exec_xoMonitorWindow_bad s h) (execXoMonitorWindow_keeps _ _) ?_
    rw [State.leaveXoStage_glob, State.leaveXoStage_ref]
    obtain ⟨hgood, hbad, hpresent⟩ := s.xoBadWindow_glob
    exact ⟨hgood, hbad, hpresent, State.xoBadWindow_state⟩
  · rintro n s ⟨hst, hend⟩
    refine exec_next_within (exec_holdoverInspecExpiry_due hst hend) (execHoldoverInspecExpiry_keeps _) ?_
    have hstate : (s.outOfSpec n).ref.state = .holdover := by simpa [State.outOfSpec] using hst
    rw [State.refreshLevel_state, (State.refreshLevel_inSpec _).1, (State.refreshLevel_inSpec _).2, State.refreshLevel_now]
    exact ⟨rfl, rfl, hstate, s.le_advance_now n⟩
  · intro s h
    exact exec_next_same (exec_holdoverInspecExpiry_idle h)
  · rintro n s ⟨hst, hend⟩
    refine exec_next_within (exec_steerTimeout_due hst hend) (execSteerTimeout_keeps _)
      ⟨?_, State.raise_hasRaised _ _ _ _ (by decide) (by decide), ?_⟩
    · rw [State.raise_ref, State.advance_ref]
    · rw [State.raise_now]
      exact s.le_advance_now n
  · intro s h
    exact exec_next_same (exec_steerTimeout_idle h)
  · rintro slot y _ s ⟨hlow, hhigh, rfl, he, hd, rfl⟩
    refine exec_next_within (exec_levelTimeout_silent ⟨hlow, hhigh⟩ he hd) (execLevelTimeout_keeps _ _) ?_
    have hslots : ∀ t : State, (if (s.ref.slots.get slot).level = (s.ref.slots.get slot).silentLevel then t else
        t.raise (slotSrc slot) Ev.levelChange).ref = t.ref := fun t => by
      rw [apply_ite State.ref, State.raise_ref, ite_self]
    rw [State.refreshLevel_slots, hslots, State.levelSilent_slot, State.refreshLevel_now, apply_ite State.now, State.raise_now, ite_self]
    refine ⟨rfl, rfl, rfl, s.levelDeadline_le_levelSilent_now slot, fun hchange => ?_⟩
    rw [if_neg (show ¬ (s.ref.slots.get slot).level = (s.ref.slots.get slot).silentLevel from hchange)]
    exact State.refreshLevel_keeps_hasRaised (by unfold slotSrc; omega) (by unfold slotSrc; omega)
      (State.raise_hasRaised _ _ _ _ (by unfold slotSrc; omega) (by unfold slotSrc; omega))
  · rintro slot s ⟨hlow, hhigh, h⟩
    exact exec_next_same (exec_levelTimeout_idle ⟨hlow, hhigh⟩ h)
  · rintro port s ⟨hp, he, hu⟩
    exact exec_next_within (exec_esmcPduTx_sends hp he hu) (execEsmcPduTx_keeps _ _) rfl
  · rintro port s ⟨hp, h⟩
    exact exec_next_same (exec_esmcPduTx_idle hp h)
  · rintro n y s ⟨hn, rfl, he, hs, hdirect⟩
    refine exec_next_within (exec_ppsOutPulse_rises hn he hs) (execPpsOutPulse_keeps _ _) ?_
    have hres : (s.ref.pps.get n).nextResidual = 0 := if_pos hdirect
    have hwhole := s.ppsEdge_whole (s.ref.pps.get n)
    rw [hres, Int.sub_zero] at hwhole
    rw [State.ppsPulsed_ref, State.ppsRisen_pps, State.ppsPulsed_now]
    exact ⟨hres, rfl, rfl, hwhole, s.ktime_le_ppsEdge _, State.ppsEdge_direct_lt hdirect, rfl,
      fun hreport => State.ppsPulsed_hasRaised ((if_pos hdirect).trans hreport)⟩
  · rintro n y _ s ⟨hn, rfl, he, hs, hdirect, rfl⟩
    refine exec_next_within (exec_ppsOutPulse_rises hn he hs) (execPpsOutPulse_keeps _ _) ?_
    have hslews : ¬ (s.ref.pps.get n).direct = true := by simp [hdirect]
    have hres : (s.ref.pps.get n).nextResidual = _ := if_neg hslews
    rw [State.ppsPulsed_ref, State.ppsRisen_pps, State.ppsPulsed_now, ← hres]
    refine ⟨rfl, rfl, s.ppsEdge_whole _, s.ktime_le_ppsEdge _, rfl, fun hleft hgone => State.ppsPulsed_hasRaised ?_⟩
    exact (if_neg hslews).trans (decide_eq_true ⟨hleft, hgone⟩)
  · rintro n s ⟨hn, h⟩
    exact exec_next_same (exec_ppsOutPulse_idle hn h)
  · rintro n y s ⟨hn, rfl, he, hk, hs, hr⟩
    refine exec_next_within (exec_clkoutAligned_due hn he hk hs hr) (execClkoutAligned_keeps _ _)
      ⟨?_, State.raise_hasRaised _ _ _ _ (by decide) (by decide), ?_⟩
    · rw [State.raise_ref, State.raise_now, State.clkAligned_ref]
    · rw [State.raise_now]
      exact s.le_clkAligned_now n _
  · rintro n y s ⟨hn, rfl, h⟩
    exact exec_next_same (exec_clkoutAligned_idle hn h)

end Sys2Proof.Machine
end

section
/-!
PROOF. Statements of the lanes family that fail, each with the state that shows it.
-/
namespace Sys2Proof.Machine

/-! ## The port commands (R45, R60, R407) -/

/-- A standby without a heartbeat, whose pair link is UP on lane 256. Port 255 has width 2, covers that lane too, and is UP; the standby
holds a PORT_BIND_OFF of it, to be tried again at its promotion. -/
def portOverPairLink : State :=
  { lanes := [(255, { state := .up }), (256, { state := .up })]
    ports := [(255, { configured := true, width := 2 }), linkForm 0]
    pair := { enable := true, role := .standby, linkUp := true, applied := false, held := [.portBindOff (.journal 0 0) 255 0] } }

/-- The state after PORT_BIND_OFF of port 255: lane 256 leaves UP, and what follows from the loss of the pair link is the promotion. -/
def portOverPairLinkBinding : State :=
  State.laneFollow portOverPairLink
    (portOverPairLink.runCmd (.portBindOff .config 255 0) .config 0x0303 (bodyPortBindOff .config 255 0))

theorem exec_portBindOff_portOverPairLink : exec (.portBindOff .config 255 0) portOverPairLink = .next portOverPairLinkBinding := rfl

/-- The command held on the standby waits for port 255 behind the one given. -/
theorem portOverPairLinkBinding_bindWait : (portOverPairLinkBinding.ports.get 255).bindWait = [.config, .journal 0 0] := by
  decide +kernel

/-- Refutes O4: no premise keeps the lanes of the port apart from those of the pair link. Where port 255 has width 2, its bind-off takes
lane 256 out of UP; a standby with one sign of loss loses the pair link with it and is promoted, and a command that it holds joins those
that wait for the port. -/
theorem not_portCommands : ¬ Obligations.PortCommands := by
  unfold Obligations.PortCommands
  rintro ⟨_, _, _, _, _, _, hup, _⟩
  obtain ⟨t, hx, _, _, _, hwait⟩ := hup .config 255 0 portOverPairLink (by decide +kernel) (by decide +kernel) (by decide +kernel)
  rw [exec_portBindOff_portOverPairLink] at hx
  obtain rfl := Host.Outcome.next.inj hx
  rw [portOverPairLinkBinding_bindWait] at hwait
  exact absurd hwait (by decide +kernel)

/-! ## The lane commands (R56) -/

/-- Lane 0 is DOWN and belongs to no port, since port 0 is not configured; the entry of port 0 gives it width 2, and lane 1 is OFF. -/
def wideUnconfiguredPort : State :=
  { lanes := [(0, { state := .down })], ports := [(0, { width := 2 })] }

/-- The state after LANE_SWATCH has started a test on lane 0. -/
def wideUnconfiguredPortTested : State :=
  wideUnconfiguredPort.runCmd (.laneSwatch .config false 0 0 0 0 0 0 0) .config 0x0309 (bodyLaneSwatch false 0 0 0 0 0 0 0)

theorem exec_laneSwatch_wideUnconfiguredPort :
    exec (.laneSwatch .config false 0 0 0 0 0 0 0) wideUnconfiguredPort = .next wideUnconfiguredPortTested := rfl

/-- The test runs on lane 0 alone: lane 1 is OFF still. -/
theorem wideUnconfiguredPortTested_lanes :
    wideUnconfiguredPortTested.lanes.map (fun x => (x.1, x.2.state)) = [(0, .swatch)] ∧
      wideUnconfiguredPortTested.portIn 0 .swatch = false := by
  decide +kernel

/-- Refutes O5: of a lane that belongs to no port, LANE_SWATCH starts the test on the lane alone, and nothing says that an entry of the
port table that is not configured has width 1; with width 2, its second lane is not in SWATCH. -/
theorem not_laneCommands : ¬ Obligations.LaneCommands := by
  unfold Obligations.LaneCommands
  rintro ⟨_, _, _, _, _, hstart, _⟩
  obtain ⟨t, hx, _, _, _, _, hin, _⟩ := hstart .config false 0 0 0 0 0 0 0 wideUnconfiguredPort (by decide +kernel) (by decide)
    (by decide +kernel) (by decide +kernel)
  rw [exec_laneSwatch_wideUnconfiguredPort] at hx
  obtain rfl := Host.Outcome.next.inj hx
  have hport : (wideUnconfiguredPort.portOf 0).getD 0 = 0 := by decide +kernel
  rw [hport, wideUnconfiguredPortTested_lanes.2] at hin
  exact Bool.false_ne_true hin

/-! ## Lane and port rows (R45, R378, R399) -/

/-- PAIR_CONFIGURE from mailbox 0 that disables the pair, its settings at their defaults. -/
def disablePair : Instr :=
  .pairConfigure (.mailbox 0) false msU (200 * usU) 10 (10 * secU) (20 * msU) (100 * usU) 65536 (2 * msU) (10 * msU) (60 * secU) 0x88B5 0

/-- An ACTIVE unit with a partner standing by, its pair link UP on all eight lanes; PAIR_CONFIGURE, which is to disable the pair, waits for
its journal. -/
def disablePairWaits : State :=
  { lanes := (List.range 8).map fun k => (256 + k, { state := .up })
    ports := [linkForm 0]
    pair := { enable := true, role := .active, partnerRole := .standby, alive := true, linkUp := true, waits := [{ cmd := disablePair }] } }

/-- The state after LOS of lane 256: the port of the pair link is lost, and with the partner out of service the command completes. -/
def disablePairWaitsLost : State :=
  State.laneFollow disablePairWaits
    (((disablePairWaits.updLane 256 fun y => { y with energySince := none }).laneUnlocked 256).portLoss 256 Ev.los)

theorem exec_los_disablePairWaits : exec (.los 256) disablePairWaits = .next disablePairWaitsLost := rfl

/-- The pair is disabled and its link is gone: no pair port is configured, and lane 256 is DOWN, not in FAULT. -/
theorem disablePairWaitsLost_unlinked :
    disablePairWaitsLost.pair.enable = false ∧ disablePairWaitsLost.ports.has 256 = false ∧ disablePairWaitsLost.portState 256 = .down ∧
      disablePairWaitsLost.portIn 256 .fault = false := by
  decide +kernel

/-- Refutes O26: LOS on the pair link of an ACTIVE unit takes the partner out of service, and a PAIR_CONFIGURE that waits for its journal
completes in the same step; where it disables the pair, the link's lanes go to DOWN and are not left in FAULT. -/
theorem not_laneRows : ¬ Obligations.LaneRows := by
  unfold Obligations.LaneRows
  rintro ⟨_, _, _, _, _, _, _, _, _, _, _, _, _, _, _, _, _, hlos, _⟩
  obtain ⟨t, hx, _, _, _, _, hin⟩ := hlos 256 256 disablePairWaits (by decide +kernel)
  rw [exec_los_disablePairWaits] at hx
  obtain rfl := Host.Outcome.next.inj hx
  obtain ⟨_, _, _, hfault⟩ := disablePairWaitsLost_unlinked
  rw [if_neg (by decide +kernel), hfault] at hin
  exact Bool.false_ne_true hin

end Sys2Proof.Machine
end

section
/-!
PROOF. The statement of the stitch rows fails, with the state that shows it.
-/
namespace Sys2Proof.Machine

/-! ## Blocks of the stitch hardware (R34, R80) -/

/-- Port 8 is a selvedge port in UP whose rows are LOCKED, three failures of index 0 behind it; its entry gives it width 0, so that no
lane is its own. -/
def lanelessSelvedgePort : State :=
  { lanes := [(8, { state := .up })]
    ports := [(8, { configured := true, mode := 7, width := 0 })]
    selv := [(8, { rowState := .locked, fail0 := 3 })] }

/-- The state after the fourth block of index 0 that fails its test: the rows are lost, and the port has a loss of lock from UP. -/
def lanelessSelvedgePortLost : State :=
  State.disqualify lanelessSelvedgePort
    (((lanelessSelvedgePort.updSelv 8 Selv.toHunt).stitchError 8 1).portLoss 8 Ev.lockLoss)

theorem exec_stitchBlockRx_lanelessSelvedgePort :
    exec (.stitchBlockRx 8 0 false 0 0 0) lanelessSelvedgePort = .next lanelessSelvedgePortLost := rfl

/-- FAULT has reached no lane: lane 8, from which the port's state is read, is UP still. -/
theorem lanelessSelvedgePortLost_portState : lanelessSelvedgePortLost.portState 8 = .up := by
  decide +kernel

/-- Refutes O27: the clause on the fourth failure of index 0 has a port that was UP leave UP, and no premise says that a configured port
has a lane (R34: 1, 2, 4 or 8). With width 0 the loss of lock sends every lane of the port to FAULT, which is none, and the port's state,
read from the lane of its number, stays UP. -/
theorem not_stitchRows : ¬ Obligations.StitchRows := by
  unfold Obligations.StitchRows
  rintro ⟨_, _, hlost, _⟩
  obtain ⟨t, hx, _, _, _, hup⟩ := hlost 8 0 false 0 0 0 lanelessSelvedgePort (by decide +kernel)
  rw [exec_stitchBlockRx_lanelessSelvedgePort] at hx
  obtain rfl := Host.Outcome.next.inj hx
  exact hup (by decide +kernel) lanelessSelvedgePortLost_portState

end Sys2Proof.Machine
end

section
/-!
PROOF. The statements of the TDC family fail, each with a step of the machine that leads to the state that shows it.
-/
namespace Sys2Proof.Machine

/-! ## The counts of a channel (R11, R124) -/

/-- Region 17, which holds the channel of XO_IN, is IDLE, so that its channels stamp (R127, R132). -/
def xoInService : State :=
  { gauge := { regions := [(17, { state := .idle })] } }

/-- The state after an edge of XO_IN: TDC279 has counted its first hit, in the present CORE cycle. -/
def xoStamped : State :=
  let r := xoInService.plainEdge 279 0 0 0 false
  { r.1 with ref := { r.1.ref with xoStamps := r.2.toList } }

theorem exec_refEdge_xoInService : exec (.refEdge 279 0 0 0 0) xoInService = .next xoStamped := rfl

/-- The state after TDC_GET_CHANNEL with CLEAR has read TDC279 in that same cycle. -/
def xoStampedRead : State :=
  xoStamped.runCmd (.tdcGetChannel (.mailbox 0) true 279) (.mailbox 0) 0x0804 (bodyTdcGetChannel true 279)

theorem exec_tdcGetChannel_xoStamped : exec (.tdcGetChannel (.mailbox 0) true 279) xoStamped = .next xoStampedRead := rfl

/-- The hit of the present cycle is kept for the next read. -/
theorem xoStampedRead_hits : (xoStampedRead.tdc.chans.get 279).hits = 1 := by
  decide +kernel

/-- Refutes O16: TDC_GET_CHANNEL with CLEAR is said to leave every count of the channel at 0. R124 keeps an increment of the same cycle for
the next read, and so does the model: after a hit in the very cycle of the read, HITS is 1. -/
theorem not_tdcCommands : ¬ Obligations.TdcCommands := by
  unfold Obligations.TdcCommands
  rintro ⟨_, _, _, _, _, _, _, _, hread, _⟩
  obtain ⟨t, hx, _, _, _, _, htdc⟩ := hread (.mailbox 0) true 279 _ xoStamped ⟨by decide, rfl⟩ (by decide +kernel)
  rw [exec_tdcGetChannel_xoStamped] at hx
  obtain rfl := Host.Outcome.next.inj hx
  have hzero : (xoStampedRead.tdc.chans.get 279).hits = 0 := by
    rw [htdc, if_pos rfl, Tbl.get_set_same]
  rw [xoStampedRead_hits] at hzero
  exact Nat.one_ne_zero hzero

/-! ## The ring writer and the hit FIFO (R105, R106) -/

/-- The gate of group 0 is open, and EVT0 feeds ring 0, which is enabled and empty. One stamp waits in the hit FIFO; the DLL of the channel
is not locked, so that it can form no further stamp (R130). -/
def evtUnlocked : State :=
  { gauge := { regions := [(18, { state := .idle })] }
    tdc :=
      { groups := [(0, { open_ := true })]
        rings := [(0, { enable := true })]
        chans := [(280, { enable := true, ring := some 0, fifo := [{}], dllLocked := false })] } }

/-- The state after an edge of EVT0: its stamp is lost, and a LOST record is owed behind the stamp in the FIFO. -/
def evtLost : State := (evtUnlocked.eventEdge 280 0 0 0 false).1

theorem exec_evtEdge_evtUnlocked : exec (.evtEdge 280 0 0 0 false) evtUnlocked = .next evtLost := rfl

/-- The state after ring 0's writer has written that stamp. -/
def evtLostWritten : State := evtLost.writeNext 0 (0, some 280)

theorem exec_ringWrite_evtLost : exec (.ringWrite 0) evtLost = .next evtLostWritten := rfl

/-- As the FIFO has room again, the LOST entry has entered it. -/
theorem evtLostWritten_fifo : (evtLostWritten.tdc.chans.get 280).fifo = [{ lost := 1 }] := by
  decide +kernel

/-- Refutes O28: the clause on a HIT record leaves the FIFO of its channel with what stood behind the record. Where the channel has lost
stamps since, the room that the record leaves lets the LOST entry into the FIFO (R106), and no premise says that none is owed. -/
theorem not_tdcRows : ¬ Obligations.TdcRows := by
  unfold Obligations.TdcRows
  rintro ⟨_, _, _, _, _, _, _, _, _, _, _, _, _, hhit, _⟩
  obtain ⟨t, hx, _, hfifo, _⟩ := hhit 0 0 280 {} [] _ evtLost
    ⟨by decide, by decide +kernel, by decide +kernel, by decide +kernel, rfl, by decide +kernel, rfl⟩
    ⟨by decide +kernel, by decide +kernel, by decide +kernel, by decide +kernel⟩
  rw [exec_ringWrite_evtLost] at hx
  obtain rfl := Host.Outcome.next.inj hx
  rw [evtLostWritten_fifo] at hfifo
  exact List.cons_ne_nil _ _ hfifo

end Sys2Proof.Machine
end

section
/-!
PROOF. What the gauge's own operations do to its regions, its channels and its queues.
-/
namespace Sys2Proof.Machine

/-! ## Regions and their channels (R127, R149) -/

theorem regionOf_some_lt {c r : Nat} (h : regionOf c = some r) : c < 320 := by
  unfold regionOf at h
  grind

theorem mem_regionChans {r c : Nat} : c ∈ regionChans r ↔ regionOf c = some r := by
  simp only [regionChans, List.mem_filter, List.mem_range, decide_eq_true_eq, and_iff_right_iff_imp]
  exact regionOf_some_lt

theorem lt_of_mem_regionChans {r c : Nat} (h : c ∈ regionChans r) : c < 320 := regionOf_some_lt (mem_regionChans.mp h)

/-- The source of a region is that of a channel: below those of the slots, and not that of the event log. -/
theorem regionSrc_lt (r : Nat) : regionSrc r < 584 := by
  unfold regionSrc tdcSrc
  cases h : regionChans r with
  | nil => simp
  | cons c l =>
    have := lt_of_mem_regionChans (h ▸ List.mem_cons_self : c ∈ regionChans r)
    simp only [List.headD_cons]
    omega

/-! ## Updates of one region and of one channel -/

@[simp] theorem State.updRegion_same (s : State) (r : Nat) (f : GRegion → GRegion) :
    (s.updRegion r f).gauge.regions.get r = f (s.gauge.regions.get r) := Tbl.get_upd_same _ _ _

theorem State.updRegion_other (s : State) {r n : Nat} (f : GRegion → GRegion) (h : n ≠ r) :
    (s.updRegion r f).gauge.regions.get n = s.gauge.regions.get n := Tbl.get_upd_other _ _ _ _ h

@[simp] theorem State.updCG_same (s : State) (c : Nat) (f : ChanGauge → ChanGauge) :
    (s.updCG c f).gauge.chans.get c = f (s.gauge.chans.get c) := Tbl.get_upd_same _ _ _

theorem State.updCG_other (s : State) {c n : Nat} (f : ChanGauge → ChanGauge) (h : n ≠ c) :
    (s.updCG c f).gauge.chans.get n = s.gauge.chans.get n := Tbl.get_upd_other _ _ _ _ h

@[simp] theorem State.updTdc_same (s : State) (c : Nat) (f : TdcChan → TdcChan) :
    (s.updTdc c f).tdc.chans.get c = f (s.tdc.chans.get c) := Tbl.get_upd_same _ _ _

theorem State.updTdc_other (s : State) {c n : Nat} (f : TdcChan → TdcChan) (h : n ≠ c) :
    (s.updTdc c f).tdc.chans.get n = s.tdc.chans.get n := Tbl.get_upd_other _ _ _ _ h

/-! ## Folds over channels -/

/-- A fold that visits `n` leaves behind what each visit establishes of the channel visited and the visits of others leave alone;
`I` is what every visit keeps. -/
theorem foldl_visits {σ : Type} {I : σ → Prop} {Q : σ → Nat → Prop} {f : σ → Nat → σ} (hI : ∀ t c, I t → I (f t c))
    (hset : ∀ t c, I t → Q (f t c) c) (hkeep : ∀ t c n, n ≠ c → I t → Q t n → Q (f t c) n) {l : List Nat} {s : σ} {n : Nat}
    (h : I s) (hn : n ∈ l) : Q (l.foldl f s) n := by
  have stays : ∀ (l : List Nat) (s : σ), I s → Q s n → Q (l.foldl f s) n := fun l s h hq =>
    (List.foldlRecOn l f (motive := fun t => I t ∧ Q t n) ⟨h, hq⟩ fun t ⟨ht, hqt⟩ c _ =>
      ⟨hI t c ht, if hc : n = c then hc ▸ hset t c ht else hkeep t c n hc ht hqt⟩).2
  induction l generalizing s with
  | nil => cases hn
  | cons c l ih =>
    rcases List.mem_cons.mp hn with rfl | hl
    · exact stays l _ (hI s n h) (hset s n h)
    · exact ih (hI s c h) hl

/-- A fold keeps what each of its steps keeps. -/
theorem foldl_same {σ α β : Type} (view : σ → β) {f : σ → α → σ} {l : List α} {s : σ} (h : ∀ t, ∀ a ∈ l, view (f t a) = view t) :
    view (l.foldl f s) = view s :=
  List.foldlRecOn l f (motive := fun t => view t = view s) rfl fun t ht a ha => (h t a ha).trans ht

/-! ## The queue of runs (R137, R138) -/

/-- The state of a region that has been queued for a run. -/
def GState.queued : GState → GState
  | .idle => .pending
  | st => st

/-- Queuing a region for a run changes the queue and the regions, and nothing else of the gauge. -/
theorem State.queueRun_gauge (s : State) (r : Nat) (urgent : Bool) : ∃ q regions, (s.queueRun r urgent).gauge =
    { s.gauge with pendingQ := q, regions := regions } := by
  unfold State.queueRun
  dsimp only
  split
  · exact ⟨_, _, rfl⟩
  · exact ⟨_, _, rfl⟩

@[simp] theorem State.queueRun_chans (s : State) (r : Nat) (urgent : Bool) : (s.queueRun r urgent).gauge.chans = s.gauge.chans := by
  obtain ⟨_, _, h⟩ := s.queueRun_gauge r urgent
  rw [h]

/-- Of the region queued, only its state and the mark of R130 may change. -/
theorem State.queueRun_region (s : State) (r : Nat) (urgent : Bool) : ∃ u, (s.queueRun r urgent).gauge.regions.get r =
    { s.gauge.regions.get r with urgent := u, state := (s.gauge.regions.get r).state.queued } := by
  unfold State.queueRun
  dsimp only
  split
  · rename_i h
    refine ⟨(s.gauge.regions.get r).urgent, ?_⟩
    have hq : (s.gauge.regions.get r).state.queued = (s.gauge.regions.get r).state := by
      rcases h with h | h <;> rw [h] <;> rfl
    rw [hq]
  · simp only [Tbl.get_set_same]
    refine ⟨_, congrArg (GRegion.mk · _ _ _ _ _ _ _ _ _ _ _ _ _ _ _ _ _ _) ?_⟩
    cases (s.gauge.regions.get r).state <;> rfl

theorem State.queueRun_other (s : State) {r n : Nat} (urgent : Bool) (h : n ≠ r) :
    (s.queueRun r urgent).gauge.regions.get n = s.gauge.regions.get n := by
  unfold State.queueRun
  dsimp only
  split
  · rfl
  · exact Tbl.get_set_other _ _ _ _ h

/-- A region that is neither OFF nor FULL is in the queue once it has been queued. -/
theorem State.mem_queueRun {s : State} {r : Nat} (urgent : Bool) (hoff : (s.gauge.regions.get r).state ≠ .off)
    (hfull : (s.gauge.regions.get r).state ≠ .full) : r ∈ (s.queueRun r urgent).gauge.pendingQ := by
  unfold State.queueRun
  dsimp only
  rw [if_neg (by simp [hoff, hfull])]
  dsimp only
  split
  · simp
  · split
    · rename_i h
      simpa using h
    · simp

/-- Queuing a region keeps the others in the queue. -/
theorem State.queueRun_keeps_mem {s : State} {r n : Nat} (urgent : Bool) (h : n ∈ s.gauge.pendingQ) :
    n ∈ (s.queueRun r urgent).gauge.pendingQ := by
  unfold State.queueRun
  dsimp only
  split
  · exact h
  · dsimp only
    split
    · simp only [List.mem_append, List.mem_filter, List.mem_singleton, decide_eq_true_eq, Bool.not_eq_true']
      by_cases hr : n = r
      · exact .inl (.inr hr)
      · cases hu : (s.gauge.regions.get n).urgent
        · exact .inr ⟨⟨h, hr⟩, rfl⟩
        · exact .inl (.inl ⟨⟨h, hr⟩, rfl⟩)
    · split
      · exact h
      · exact List.mem_append_left _ h

/-- A region that R130 queues carries the mark of R130. -/
theorem State.queueRun_urgent {s : State} {r : Nat} (hoff : (s.gauge.regions.get r).state ≠ .off)
    (hfull : (s.gauge.regions.get r).state ≠ .full) : ((s.queueRun r true).gauge.regions.get r).urgent = true := by
  unfold State.queueRun
  dsimp only
  rw [if_neg (by simp [hoff, hfull])]
  simp only [Tbl.get_set_same, Bool.true_or]

/-! ## The queue of full calibrations (R132) -/

/-- The engine takes the next region, which changes nothing else of the gauge. -/
theorem State.nextFull_gauge (s : State) : ∃ running fullQ, s.nextFull.gauge =
    { s.gauge with running := running, fullQ := fullQ } := by
  unfold State.nextFull
  dsimp only
  split <;> exact ⟨_, _, rfl⟩

theorem State.nextFull_of_idle {s : State} (h : s.gauge.running = none) :
    s.nextFull.gauge.running = s.gauge.fullQ.head? ∧ s.nextFull.gauge.fullQ = s.gauge.fullQ.tail := by
  unfold State.nextFull
  dsimp only
  split
  · rename_i hq
    rw [hq]
    exact ⟨rfl, rfl⟩
  · rename_i hne
    cases hq : s.gauge.fullQ with
    | nil => exact ⟨h, rfl⟩
    | cons r q => exact absurd hq (hne r q h)

/-- A region that waits for full calibration has the engine, or waits still. -/
theorem State.nextFull_keeps_waiting {s : State} {r : Nat} (h : r ∈ s.gauge.fullQ) :
    s.nextFull.gauge.running = some r ∨ r ∈ s.nextFull.gauge.fullQ := by
  unfold State.nextFull
  dsimp only
  split
  · rename_i hq
    rw [hq] at h
    rcases List.mem_cons.mp h with rfl | h
    · exact .inl rfl
    · exact .inr h
  · exact .inr h

/-! ## The inactive copy (R143) -/

/-- The gauge of `t` is that of `s` but for the inactive copy of region `r`: its centres, its epoch and its CRC. -/
def State.recopied (r : Nat) (s t : State) : Prop :=
  ∃ chans regions, t.gauge = { s.gauge with chans := chans, regions := regions } ∧
    (∀ n, ∃ o, chans.get n = { s.gauge.chans.get n with other := o }) ∧
    (∃ e k, regions.get r = { s.gauge.regions.get r with epochB := e, crcB := k }) ∧
    ∀ n, n ≠ r → regions.get n = s.gauge.regions.get n

/-- Centres are written into the inactive copy of some channels. -/
theorem foldl_other_gauge (s : State) (l : List Nat) (other : ChanGauge → Tbl Nat) : ∃ chans,
    (l.foldl (fun s c => s.updCG c fun g => { g with other := other g }) s).gauge = { s.gauge with chans := chans } ∧
    ∀ n, ∃ o, chans.get n = { s.gauge.chans.get n with other := o } := by
  refine List.foldlRecOn l _ (motive := fun t : State => ∃ chans, t.gauge = { s.gauge with chans := chans } ∧
    ∀ n, ∃ o, chans.get n = { s.gauge.chans.get n with other := o }) ⟨_, rfl, fun _ => ⟨_, rfl⟩⟩ fun t ht c _ => ?_
  obtain ⟨chans, ht, hn⟩ := ht
  refine ⟨_, by rw [State.updCG_gauge, ht], fun n => ?_⟩
  obtain ⟨o, hn⟩ := hn n
  by_cases hc : n = c
  · subst hc
    exact ⟨_, (Tbl.get_upd_same _ _ _).trans (by rw [hn])⟩
  · exact ⟨o, (Tbl.get_upd_other _ _ _ _ hc).trans hn⟩

theorem State.recopied_of_gauge {r : Nat} {s t : State} {chans : Tbl ChanGauge} {f : GRegion → GRegion}
    (hg : t.gauge = { s.gauge with chans := chans }) (hn : ∀ n, ∃ o, chans.get n = { s.gauge.chans.get n with other := o })
    (hf : ∀ y, ∃ e k, f y = { y with epochB := e, crcB := k }) : s.recopied r (t.updRegion r f) := by
  refine ⟨chans, _, by rw [State.updRegion_gauge, hg], hn, ?_, fun n hne => ?_⟩
  · simpa only [hg, Tbl.get_upd_same] using hf _
  · simp only [Tbl.get_upd_other _ _ _ _ hne]

theorem State.copyOver_recopied (s : State) (r : Nat) : State.recopied r s (s.copyOver r) := by
  obtain ⟨_, hg, hn⟩ := foldl_other_gauge s (regionChans r) ChanGauge.centre
  exact State.recopied_of_gauge hg hn fun _ => ⟨_, _, rfl⟩

theorem State.writeInactive_recopied (s : State) (r kind : Nat) : State.recopied r s (s.writeInactive r kind) := by
  unfold State.writeInactive
  dsimp only
  obtain ⟨chans, hg, hn⟩ := foldl_other_gauge s ((regionChans r).filter fun c => (s.gauge.chans.get c).newCentre.isSome)
    fun g => g.newCentre.getD g.centre
  split
  · exact ⟨chans, _, hg, hn, ⟨_, _, rfl⟩, fun _ _ => rfl⟩
  · exact State.recopied_of_gauge hg hn fun _ => ⟨_, _, rfl⟩

/-- The inactive copy takes the centres of the active one, which stay as they are. -/
theorem State.copyOver_chan (s : State) {r c : Nat} (h : c ∈ regionChans r) :
    ((s.copyOver r).gauge.chans.get c).other = (s.gauge.chans.get c).centre ∧
      ((s.copyOver r).gauge.chans.get c).centre = (s.gauge.chans.get c).centre := by
  unfold State.copyOver
  rw [State.updRegion_gauge]
  refine foldl_visits (I := fun t : State => ∀ n, (t.gauge.chans.get n).centre = (s.gauge.chans.get n).centre)
    (Q := fun t c => (t.gauge.chans.get c).other = (s.gauge.chans.get c).centre ∧
      (t.gauge.chans.get c).centre = (s.gauge.chans.get c).centre) (fun t c ht n => ?_) (fun t c ht => ?_)
    (fun t c n hne _ hq => ?_) (fun _ => rfl) h
  · by_cases hc : n = c
    · subst hc
      rw [State.updCG_same]
      exact ht n
    · rw [State.updCG_other _ _ hc]
      exact ht n
  · rw [State.updCG_same]
    exact ⟨ht c, ht c⟩
  · rwa [State.updCG_other _ _ hne]

theorem State.copyOver_epochs (s : State) (r : Nat) :
    ((s.copyOver r).gauge.regions.get r).epochB = (s.gauge.regions.get r).epoch ∧
      ((s.copyOver r).gauge.regions.get r).epoch = (s.gauge.regions.get r).epoch := by
  obtain ⟨_, hg, _⟩ := foldl_other_gauge s (regionChans r) ChanGauge.centre
  unfold State.copyOver
  rw [State.updRegion_same, hg]
  exact ⟨rfl, rfl⟩

/-! ## The end of the engine's work (R137) -/

/-- The region whose collection or calibration has ended, but for its inactive copy. -/
def GRegion.ended (x : GRegion) (pending : Bool) (now kind : Nat) (failed : Bool) : GRegion :=
  { x with
    state := if pending then .pending else .idle
    runEnd := none, lastEnd := now, commitDue := true, commitKind := kind, failed := failed, stale := true }

theorem State.endRun_gauge (s : State) (r kind : Nat) (failed : Bool) : ∃ chans regions running fullQ,
    (s.endRun r kind failed).gauge =
      { s.gauge with chans := chans, regions := regions, running := running, fullQ := fullQ, lastRunEnd := s.now } ∧
    running = s.gauge.fullQ.head? ∧ fullQ = s.gauge.fullQ.tail ∧
    (∀ n, ∃ o, chans.get n = { s.gauge.chans.get n with other := o }) ∧
    ∃ e k, regions.get r =
      { (s.gauge.regions.get r).ended (s.gauge.pendingQ.contains r) s.now kind failed with epochB := e, crcB := k } := by
  unfold State.endRun
  dsimp only
  generalize hv : ({ s with gauge := _ } : State) = v
  obtain ⟨chans, regions, hw, hchan, ⟨e, k, hr⟩, _⟩ := v.writeInactive_recopied r kind
  obtain ⟨running, fullQ, hg⟩ := (v.writeInactive r kind).nextFull_gauge
  have hidle : (v.writeInactive r kind).gauge.running = none := by rw [hw, ← hv]
  obtain ⟨hrun, hfull⟩ := State.nextFull_of_idle hidle
  refine ⟨chans, regions, running, fullQ, ?_, ?_, ?_, ?_, e, k, ?_⟩
  · rw [hg, hw, ← hv]
  · rw [hg, hw, ← hv] at hrun
    exact hrun
  · rw [hg, hw, ← hv] at hfull
    exact hfull
  · intro n
    obtain ⟨o, hn⟩ := hchan n
    exact ⟨o, by rw [hn, ← hv]⟩
  · rw [hr, ← hv]
    simp only [Tbl.get_set_same]
    rfl

/-! ## An event channel leaves its gate (R104, R132) -/

@[simp] theorem State.ringStore_chans (s : State) (r : Nat) (v : TdcRec) : (s.ringStore r v).tdc.chans = s.tdc.chans := by
  unfold State.ringStore
  have hset : ∀ (t : State) (a b : Nat), (t.hwSet a b).tdc = t.tdc := fun _ _ _ => rfl
  simp only [apply_ite State.tdc, State.raise_tdc, hset, ite_self]
  rfl

@[simp] theorem State.ringDrain_chans (s : State) (r k : Nat) : (s.ringDrain r k).tdc.chans = s.tdc.chans := by
  induction k generalizing s with
  | zero => rfl
  | succ k ih =>
    unfold State.ringDrain
    dsimp only
    repeat' split
    · rfl
    · rw [ih, State.ringStore_chans]
      rfl
    · rw [ih, State.ringStore_chans]
      rfl
    · rfl
    · rw [State.ringStore_chans]
      rfl

@[simp] theorem State.ringPut_chans (s : State) (r : Nat) (vs : List TdcRec) (tick : Nat) :
    (s.ringPut r vs tick).tdc.chans = s.tdc.chans := by
  have hdrain := s.ringDrain_chans r (s.tdc.rings.get r).waiting
  unfold State.ringPut
  generalize s.ringDrain r (s.tdc.rings.get r).waiting = u at hdrain ⊢
  dsimp only
  split
  · exact hdrain
  · split
    · exact hdrain
    · exact (foldl_same (fun t : State => t.tdc.chans) fun t v _ => t.ringStore_chans r v).trans hdrain

@[simp] theorem State.ringEmit_chans (s : State) (r : Nat) (vs : List TdcRec) (tick : Nat) :
    (s.ringEmit r vs tick).tdc.chans = s.tdc.chans := by
  unfold State.ringEmit
  simp only [apply_ite State.tdc, apply_ite Tdc.chans, State.ringPut_chans, State.updRing_tdc, ite_self]

theorem State.decideStart_chans (s : State) (k : Nat) (miss : Bool) : (s.decideStart k miss).tdc.chans = s.tdc.chans := by
  unfold State.decideStart
  dsimp only
  split
  · rfl
  · exact State.ringEmit_chans _ _ _ _

theorem State.decideAll_chans (s : State) (k : Nat) (miss : Bool) (n : Nat) : (s.decideAll k miss n).tdc.chans = s.tdc.chans := by
  induction n generalizing s with
  | zero => rfl
  | succ n ih => exact (ih _).trans (s.decideStart_chans k miss)

theorem State.writeResult_chans (s : State) (c tick : Nat) (trunc : Bool) :
    (s.writeResult c tick trunc).tdc.chans = s.tdc.chans.upd c fun y => { y with regStamps := [] } := by
  unfold State.writeResult
  dsimp only
  split
  · exact State.ringEmit_chans _ _ _ _
  · rfl

/-- Of the channels, a truncation changes the stamps held for a regression alone. -/
theorem State.truncateChan_chan (s : State) (c n : Nat) : ∃ l, (s.truncateChan c).tdc.chans.get n =
    { s.tdc.chans.get n with regStamps := l } := by
  have hdecide : ∀ t : State, (t.tdc.intervals.foldl (fun s p =>
      if p.2.enable && decide (p.2.start = c) then s.decideAll p.1 true p.2.starts.length else s) t).tdc.chans = t.tdc.chans :=
    fun t => foldl_same (fun t : State => t.tdc.chans) fun t p _ => by
      split
      · exact t.decideAll_chans _ _ _
      · rfl
  unfold State.truncateChan
  dsimp only
  rw [hdecide]
  split
  · rw [State.writeResult_chans]
    by_cases hn : n = c
    · subst hn
      exact ⟨_, Tbl.get_upd_same _ _ _⟩
    · exact ⟨_, Tbl.get_upd_other _ _ _ _ hn⟩
  · exact ⟨_, rfl⟩

@[simp] theorem State.truncateChan_gauge (s : State) (c : Nat) : (s.truncateChan c).gauge = s.gauge :=
  (s.truncateChan_keeps c).keeps .gauge (by decide)

/-! ## A region goes to FULL (R131, R132) -/

/-- The channels of a region that goes to FULL, one by one. -/
def State.chanToFull (s : State) (c : Nat) : State :=
  let s1 := if 280 ≤ c ∧ c < 312 then s.truncateChan c else s
  (s1.updCG c fun g => { g with
    hist := [], inRun := false, newCentre := none, judged := none, lineSel := allCells, lineTrim := nominalTrims }).updTdc c fun x =>
    { x with dllTimer := none, winBad := true }

theorem State.chanToFull_gauge (s : State) (c : Nat) : ∃ chans, (s.chanToFull c).gauge = { s.gauge with chans := chans } ∧
    ((chans.get c).hist = [] ∧ (chans.get c).inRun = false) ∧ ∀ n, n ≠ c → chans.get n = s.gauge.chans.get n := by
  have hg : (if 280 ≤ c ∧ c < 312 then s.truncateChan c else s).gauge = s.gauge := by
    rw [apply_ite State.gauge, State.truncateChan_gauge, ite_self]
  unfold State.chanToFull
  dsimp only
  rw [State.updTdc_gauge, State.updCG_gauge, hg]
  exact ⟨_, rfl, by rw [Tbl.get_upd_same]; exact ⟨rfl, rfl⟩, fun n hn => Tbl.get_upd_other _ _ _ _ hn⟩

theorem State.chanToFull_dll (s : State) (c : Nat) : ((s.chanToFull c).tdc.chans.get c).dllTimer = none ∧
    ((s.chanToFull c).tdc.chans.get c).winBad = true := by
  unfold State.chanToFull
  rw [State.updTdc_same]
  exact ⟨rfl, rfl⟩

/-- A channel that goes to FULL leaves the DLLs of the others as they are. -/
theorem State.chanToFull_other_dll (s : State) {c n : Nat} (h : n ≠ c) :
    ((s.chanToFull c).tdc.chans.get n).dllTimer = (s.tdc.chans.get n).dllTimer ∧
      ((s.chanToFull c).tdc.chans.get n).winBad = (s.tdc.chans.get n).winBad := by
  unfold State.chanToFull
  rw [State.updTdc_other _ _ h, State.updCG_tdc]
  split
  · obtain ⟨_, hn⟩ := s.truncateChan_chan c n
    rw [hn]
    exact ⟨rfl, rfl⟩
  · exact ⟨rfl, rfl⟩

/-- A region in FULL that waits for the engine. -/
def GRegion.toFull (x : GRegion) (restore : Bool) : GRegion :=
  { x with state := .full, runEnd := none, urgent := false, restoreFull := restore, commitDue := false, tSum := 0, tCount := 0 }

theorem State.enterFull_eq (s : State) (r : Nat) (restore : Bool) : s.enterFull r restore =
    let s1 := (regionChans r).foldl State.chanToFull (s.copyOver r)
    ({ s1 with gauge := { s1.gauge with
      running := if s1.gauge.running = some r then none else s1.gauge.running
      fullQ := s1.gauge.fullQ.filter (· ≠ r) ++ [r]
      pendingQ := s1.gauge.pendingQ.filter (· ≠ r)
      regions := s1.gauge.regions.upd r fun x => x.toFull restore } } : State).nextFull := rfl

/-- The region is FULL, and no commit of it waits. -/
theorem State.enterFull_region (s : State) (r : Nat) (restore : Bool) :
    ((s.enterFull r restore).gauge.regions.get r).state = .full ∧ ((s.enterFull r restore).gauge.regions.get r).commitDue = false := by
  rw [State.enterFull_eq]
  obtain ⟨_, _, hg⟩ := State.nextFull_gauge _
  rw [hg]
  simp only [Tbl.get_upd_same]
  exact ⟨rfl, rfl⟩

/-- The region has the engine or waits for it, and no run of it waits any more. -/
theorem State.enterFull_queues (s : State) (r : Nat) (restore : Bool) :
    ((s.enterFull r restore).gauge.running = some r ∨ r ∈ (s.enterFull r restore).gauge.fullQ) ∧
      r ∉ (s.enterFull r restore).gauge.pendingQ := by
  rw [State.enterFull_eq]
  refine ⟨State.nextFull_keeps_waiting (List.mem_append_right _ (List.mem_singleton_self r)), ?_⟩
  obtain ⟨_, _, hg⟩ := State.nextFull_gauge _
  rw [hg]
  simp

/-- Its channels hold no collection. -/
theorem State.enterFull_chan (s : State) {r c : Nat} (restore : Bool) (h : c ∈ regionChans r) :
    ((s.enterFull r restore).gauge.chans.get c).hist = [] ∧ ((s.enterFull r restore).gauge.chans.get c).inRun = false := by
  rw [State.enterFull_eq]
  obtain ⟨_, _, hg⟩ := State.nextFull_gauge _
  rw [hg]
  refine foldl_visits (I := fun _ : State => True)
    (Q := fun t c => (t.gauge.chans.get c).hist = [] ∧ (t.gauge.chans.get c).inRun = false) (fun _ _ _ => trivial)
    (fun t c _ => ?_) (fun t c n hne _ hq => ?_) trivial h
  · obtain ⟨_, ht, hc, _⟩ := t.chanToFull_gauge c
    rwa [ht]
  · obtain ⟨_, ht, _, hn⟩ := t.chanToFull_gauge c
    rwa [ht, hn n hne]

/-- Its channels' DLLs have no timer, and their lane windows are bad. -/
theorem State.enterFull_dll (s : State) {r c : Nat} (restore : Bool) (h : c ∈ regionChans r) :
    ((s.enterFull r restore).tdc.chans.get c).dllTimer = none ∧ ((s.enterFull r restore).tdc.chans.get c).winBad = true := by
  rw [State.enterFull_eq]
  have htdc : ∀ t : State, t.nextFull.tdc = t.tdc := fun t => t.nextFull_keeps.keeps .tdc (by decide)
  rw [htdc]
  refine foldl_visits (I := fun _ : State => True)
    (Q := fun t c => (t.tdc.chans.get c).dllTimer = none ∧ (t.tdc.chans.get c).winBad = true) (fun _ _ _ => trivial)
    (fun t c _ => t.chanToFull_dll c) (fun t c n hne _ hq => ?_) trivial h
  obtain ⟨htimer, hbad⟩ := t.chanToFull_other_dll hne
  rwa [htimer, hbad]

end Sys2Proof.Machine
end

section
/-!
PROOF. The GAUGE commands.
-/
namespace Sys2Proof.Machine

/-- A command whose own checks refuse it completes with their status, and changes nothing but its answer. -/
theorem exec_refused {i : Instr} {src : CmdSrc} {op st : Nat} {s : State} {res : List Fld} {body : State → Rep}
    (hx : exec i s = .next (s.runCmd i src op body)) (hb : body s = .fail st res) (hacts : s.acts i src op = true) :
    ∃ t, exec i s = .next t ∧ t.cmd.opcode = op ∧ t.cmd.status = st ∧ t.cmd.result = packFrom 16 res ∧ keepsBesideAnswer [] s t := by
  refine ⟨s.finish src op st 0 res, ?_, ?_, ?_, ?_, (State.finish_keeps _ _ _ _ _ _ _).keeps⟩
  · rw [hx, State.runCmd_acts hacts, hb]
    rfl
  · rw [State.finish_cmd]
  · rw [State.finish_cmd]
  · rw [State.finish_cmd]

/-! ## GAUGE_CONFIGURE and GAUGE_HOLD (R138, R148) -/

/-- The gauge as GAUGE_CONFIGURE sets it. -/
def Gauge.configured (g : Gauge) (trigger : Int) (minInterval target runTimeout retry periodic source18 source19 : Nat) : Gauge :=
  { g with
    trigger := trigger.toNat, minInterval := minInterval, target := target, runTimeout := runTimeout, retry := retry
    periodic := periodic, scatter18 := decide (source18 = 1), scatter19 := decide (source19 = 1) }

theorem bodyGaugeConfigure_inRange {trigger : Int} {minInterval target runTimeout retry periodic source18 source19 : Nat} {s : State}
    (hrun : 4 ≤ trigger ∧ trigger ≤ 160 ∧ trigger % 4 = 0 ∧ secU ≤ minInterval ∧ minInterval ≤ 3600 * secU ∧ 20 ≤ target ∧
      target ≤ 24 ∧ secU / 10 ≤ runTimeout ∧ runTimeout ≤ 100 * secU)
    (hrest : secU ≤ retry ∧ retry ≤ 3600 * secU ∧ (periodic = 0 ∨ secU ≤ periodic ∧ periodic ≤ 86400 * secU) ∧ source18 < 2 ∧
      source19 < 2)
    (h18 : (s.gauge.regions.get 18).state = .running → s.gauge.scatter18 = decide (source18 = 1))
    (h19 : (s.gauge.regions.get 19).state = .running → s.gauge.scatter19 = decide (source19 = 1)) :
    bodyGaugeConfigure trigger minInterval target runTimeout retry periodic source18 source19 s =
      .ok { s with gauge := s.gauge.configured trigger minInterval target runTimeout retry periodic source18 source19 } [] := by
  obtain ⟨ht, ht', htm, hi, hi', hg, hg', hto, hto'⟩ := hrun
  obtain ⟨hr, hr', hp, hs, hs'⟩ := hrest
  unfold bodyGaugeConfigure
  rw [Rep.ranges_true (by simp [*])]
  dsimp only
  rw [if_neg]
  · rfl
  · simp only [Bool.or_eq_true, Bool.and_eq_true, bne_iff_ne, decide_eq_true_eq]
    rintro (⟨hne, hrun⟩ | ⟨hne, hrun⟩)
    · exact hne (h18 hrun).symm
    · exact hne (h19 hrun).symm

theorem bodyGaugeHold_inRange {duration : Nat} {s : State} (h : duration = 0 ∨ secU ≤ duration ∧ duration ≤ 86400 * secU) :
    bodyGaugeHold duration s = .ok { s with gauge :=
      { s.gauge with hold := if duration = 0 then none else some (s.now + cyclesOf duration) } } [] := by
  unfold bodyGaugeHold
  exact Rep.ranges_true (by simpa using h)

/-! ## GAUGE_RUN (R137) -/

/-- Region `r` is queued for a run if it is IDLE. -/
def State.runIfIdle (s : State) (r : Nat) : State := if (s.gauge.regions.get r).state = .idle then s.queueRun r false else s

/-- In `t`, region `n` has been queued for a run if it was IDLE in `s`, and is in its state of `s` otherwise. -/
def State.ranIfIdle (s t : State) (n : Nat) : Prop :=
  (t.gauge.regions.get n).state = (s.gauge.regions.get n).state.queued ∧
    ((s.gauge.regions.get n).state = .idle → n ∈ t.gauge.pendingQ)

theorem State.runIfIdle_other (s : State) {c n : Nat} (h : n ≠ c) :
    (s.runIfIdle c).gauge.regions.get n = s.gauge.regions.get n := by
  unfold State.runIfIdle
  split
  · exact s.queueRun_other false h
  · rfl

theorem State.runIfIdle_keeps_mem {s : State} {c n : Nat} (h : n ∈ s.gauge.pendingQ) : n ∈ (s.runIfIdle c).gauge.pendingQ := by
  unfold State.runIfIdle
  split
  · exact State.queueRun_keeps_mem false h
  · exact h

/-- The region visited has been queued if it was IDLE. -/
theorem State.runIfIdle_ranIfIdle (s : State) (c : Nat) : State.ranIfIdle s (s.runIfIdle c) c := by
  unfold State.runIfIdle State.ranIfIdle
  split
  · rename_i hidle
    obtain ⟨_, hr⟩ := s.queueRun_region c false
    rw [hr]
    exact ⟨rfl, fun _ => State.mem_queueRun false (by simp [hidle]) (by simp [hidle])⟩
  · rename_i hne
    refine ⟨?_, fun hidle => absurd hidle hne⟩
    revert hne
    cases (s.gauge.regions.get c).state <;> simp [GState.queued]

theorem State.ranIfIdle_congr {s t u : State} {n : Nat} (h : (s.gauge.regions.get n).state = (t.gauge.regions.get n).state) :
    State.ranIfIdle s u n ↔ State.ranIfIdle t u n := by
  unfold State.ranIfIdle
  rw [h]

/-- What has been queued stays so while further regions are. -/
theorem State.ranIfIdle_step {s t : State} {n : Nat} (c : Nat) (h : State.ranIfIdle s t n) : State.ranIfIdle s (t.runIfIdle c) n := by
  obtain ⟨hstate, hmem⟩ := h
  refine ⟨?_, fun hidle => State.runIfIdle_keeps_mem (hmem hidle)⟩
  by_cases hc : n = c
  · subst hc
    have hne : (t.gauge.regions.get n).state ≠ .idle := by
      rw [hstate]
      cases (s.gauge.regions.get n).state <;> simp [GState.queued]
    unfold State.runIfIdle
    rw [if_neg hne, hstate]
  · rw [State.runIfIdle_other t hc, hstate]

theorem State.foldl_runIfIdle (s : State) {l : List Nat} {n : Nat} (hn : n ∈ l) :
    State.ranIfIdle s (l.foldl State.runIfIdle s) n := by
  refine foldl_visits (I := fun t => ∀ n, (t.gauge.regions.get n).state = (s.gauge.regions.get n).state ∨ State.ranIfIdle s t n)
    (Q := State.ranIfIdle s) (fun t c ht n => ?_) (fun t c ht => ?_) (fun t c n _ _ hq => State.ranIfIdle_step c hq)
    (fun _ => .inl rfl) hn
  · rcases ht n with hsame | hran
    · by_cases hc : n = c
      · subst hc
        exact .inr ((State.ranIfIdle_congr hsame).mp (t.runIfIdle_ranIfIdle n))
      · exact .inl (by rw [State.runIfIdle_other t hc, hsame])
    · exact .inr (State.ranIfIdle_step c hran)
  · rcases ht c with hsame | hran
    · exact (State.ranIfIdle_congr hsame).mp (t.runIfIdle_ranIfIdle c)
    · exact State.ranIfIdle_step c hran

theorem State.runIfIdle_keeps (s : State) (r : Nat) : goesOn [.gauge] s (s.runIfIdle r) :=
  keeps_ite (s.queueRun_keeps r false) (.refl _ _)

theorem bodyGaugeRun_queues {region : Nat} {rs : List Nat} {s : State}
    (hrs : region < 21 ∧ rs = [region] ∨ region = 0xFFFF ∧ rs = List.range 21)
    (h : (rs.any fun n => decide ((s.gauge.regions.get n).state = .off ∨ (s.gauge.regions.get n).state = .full)) = false) :
    bodyGaugeRun region s = .ok (rs.foldl State.runIfIdle s) [] := by
  have hlist : (if region = 0xFFFF then List.range 21 else [region]) = rs := by
    rcases hrs with ⟨hr, rfl⟩ | ⟨rfl, rfl⟩
    · exact if_neg (by omega)
    · rfl
  unfold bodyGaugeRun
  rw [Rep.ranges_true (by rcases hrs with ⟨hr, -⟩ | ⟨hr, -⟩ <;> simp [hr])]
  dsimp only
  rw [hlist, h, if_neg Bool.false_ne_true]
  rfl

theorem bodyGaugeRun_refuses {region : Nat} {s : State} (hr : region < 21)
    (h : (s.gauge.regions.get region).state = .off ∨ (s.gauge.regions.get region).state = .full) :
    bodyGaugeRun region s = .fail stBadState [] := by
  unfold bodyGaugeRun
  rw [Rep.ranges_true (by simp [hr])]
  dsimp only
  rw [if_neg (show region ≠ 0xFFFF by omega), if_pos (by simp [h])]
  rfl

/-! ## GAUGE_FULL (R137) -/

theorem bodyGaugeFull_stays {force : Bool} {region : Nat} {s : State} (hr : region < 21)
    (h : (s.gauge.regions.get region).state = .full) : bodyGaugeFull force region s = .ok s [] := by
  unfold bodyGaugeFull
  rw [Rep.ranges_true (by simp [hr])]
  dsimp only
  rw [if_neg (by simp [h]), if_pos h]

theorem bodyGaugeFull_forces {region : Nat} {s : State} (hr : region < 21) (hoff : (s.gauge.regions.get region).state ≠ .off)
    (hfull : (s.gauge.regions.get region).state ≠ .full) : bodyGaugeFull true region s = .ok (s.enterFull region false) [] := by
  unfold bodyGaugeFull
  rw [Rep.ranges_true (by simp [hr])]
  dsimp only
  rw [if_neg hoff, if_neg hfull]
  rfl

theorem bodyGaugeFull_refuses {force : Bool} {region : Nat} {s : State} (hr : region < 21)
    (h : (s.gauge.regions.get region).state = .off ∨ (s.gauge.regions.get region).state ≠ .full ∧ force = false) :
    bodyGaugeFull force region s = .fail stBadState [] := by
  unfold bodyGaugeFull
  rw [Rep.ranges_true (by simp [hr])]
  dsimp only
  rcases h with hoff | ⟨hfull, rfl⟩
  · rw [if_pos hoff]
    rfl
  · rw [if_neg hfull]
    exact ite_self _

/-! ## GAUGE_GET_STATUS (R148) -/

/-- The code by which GAUGE_GET_STATUS answers a region's state (R145). -/
def GState.answerCode : GState → Nat
  | .off => 0 | .full => 1 | .idle => 2 | .pending => 3 | .running => 4

/-- The hits that GAUGE_GET_STATUS answers of a region: a free value during an injected run (log entry 54). -/
def State.answerHits (s : State) (r : Nat) : Nat :=
  if (s.gauge.regions.get r).state = .running && s.injects r then
    Config.freeNat s.free % ((regionChans r).length * 2 ^ s.gauge.target + 1)
  else (regionChans r).foldl (fun a n => a + ((s.gauge.chans.get n).hist.foldl (fun b q => b + q.2) 0)) 0

theorem bodyGaugeGetStatus_answers {region : Nat} {s : State} (hr : region < 21) :
    let y := s.gauge.regions.get region
    bodyGaugeGetStatus region s = .ok { s with free := s.free + 1 } ([Fld.u 1 y.state.answerCode, Fld.u 1 (if y.stale then 1 else 0),
      Fld.u 1 (if (regionChans region).any fun n => (s.gauge.chans.get n).degraded then 1 else 0), Fld.i 4 y.tLast,
      Fld.i 4 ((s.regionTemp region).getD (-32768)), Fld.u 8 y.epoch, Fld.u 8 (s.answerHits region)] ++
      (regionChans region).flatMap fun n => [Fld.u 2 (s.gauge.chans.get n).lastCause, Fld.i 8 (s.gauge.chans.get n).delta]) := by
  unfold bodyGaugeGetStatus
  exact Rep.ranges_true (by simp [hr])

/-! ## GAUGE_RESTORE (R147) -/

/-- What GAUGE_RESTORE in mode 0 leaves of channel `c`: the staged centres wait for the commit. -/
def State.stageTable (s : State) (c : Nat) : State :=
  s.updCG c fun g => { g with newCentre := some g.staged, judged := some (g.lastHits, 0) }

/-- What GAUGE_RESTORE in mode 1 leaves of channel `c`: the staged set, with the line's settings. -/
def State.stageLine (s : State) (c : Nat) : State :=
  s.updCG c fun g => { g with newCentre := some g.staged, lineSel := g.stSel, lineTrim := g.stTrim, lineDll := g.stDll }

/-- A commit of region `r` is due, of what waits already or of a table restore. -/
def State.tableDue (s : State) (r : Nat) : State :=
  s.updRegion r fun y => { y with commitDue := true, commitKind := if y.commitDue then y.commitKind else 3 }

/-- The state after GAUGE_RESTORE in mode 0. -/
def State.restoredTable (s : State) (r : Nat) : State :=
  (((((regionChans r).foldl State.stageTable s).tableDue r).writeInactive r 3).queueRun r false)

/-- The state after GAUGE_RESTORE in mode 1. -/
def State.restoredFull (s : State) (r : Nat) : State := (regionChans r).foldl State.stageLine (s.enterFull r true)

theorem State.restoredTable_keeps (s : State) (r : Nat) : goesOn [.gauge] s (s.restoredTable r) :=
  State.queueRun_on (State.writeInactive_on (State.updRegion_on (keeps_foldl (.refl _ _) fun _ _ h => State.updCG_on h (by decide))
    (by decide)) (by decide)) (by decide)

theorem State.restoredFull_keeps (s : State) (r : Nat) : goesOn [.tdc, .gauge, .fence, .events] s (s.restoredFull r) :=
  keeps_foldl (s.enterFull_keeps r true) fun _ _ h => State.updCG_on h (by decide)

/-- The staged centres of the region's channels wait for the commit. -/
theorem State.restoredTable_chan (s : State) {r c : Nat} (h : c ∈ regionChans r) :
    ((s.restoredTable r).gauge.chans.get c).newCentre = some (s.gauge.chans.get c).staged := by
  unfold State.restoredTable
  obtain ⟨_, _, hw, hchan, _⟩ := State.writeInactive_recopied (((regionChans r).foldl State.stageTable s).tableDue r) r 3
  obtain ⟨_, hc⟩ := hchan c
  rw [State.queueRun_chans, hw, hc]
  refine foldl_visits (I := fun t : State => ∀ n, (t.gauge.chans.get n).staged = (s.gauge.chans.get n).staged)
    (Q := fun t c => (t.gauge.chans.get c).newCentre = some (s.gauge.chans.get c).staged) (fun t c ht n => ?_) (fun t c ht => ?_)
    (fun t c n hne _ hq => ?_) (fun _ => rfl) h
  · by_cases hc : n = c
    · subst hc
      unfold State.stageTable
      rw [State.updCG_same]
      exact ht n
    · unfold State.stageTable
      rw [State.updCG_other _ _ hc]
      exact ht n
  · unfold State.stageTable
    rw [State.updCG_same]
    exact congrArg some (ht c)
  · unfold State.stageTable
    rwa [State.updCG_other _ _ hne]

theorem State.restoredTable_commitDue (s : State) (r : Nat) : ((s.restoredTable r).gauge.regions.get r).commitDue = true := by
  unfold State.restoredTable
  obtain ⟨_, _, hw, _, ⟨_, _, hr⟩, _⟩ := State.writeInactive_recopied (((regionChans r).foldl State.stageTable s).tableDue r) r 3
  obtain ⟨_, hq⟩ := ((((regionChans r).foldl State.stageTable s).tableDue r).writeInactive r 3).queueRun_region r false
  rw [hq, hw]
  dsimp only
  rw [hr]
  unfold State.tableDue
  rw [State.updRegion_same]

theorem State.restoredFull_state (s : State) (r : Nat) : ((s.restoredFull r).gauge.regions.get r).state = .full := by
  have hregions : (s.restoredFull r).gauge.regions = (s.enterFull r true).gauge.regions :=
    foldl_same (fun t : State => t.gauge.regions) fun _ _ _ => rfl
  rw [hregions]
  exact (s.enterFull_region r true).1

/-- Whether another region than `r` is in full calibration. -/
def State.otherFull (s : State) (r : Nat) : Bool :=
  (List.range 21).any fun n => decide (n ≠ r ∧ (s.gauge.regions.get n).state = .full)

/-- Whether a staged setting of a channel of region `r` differs from that in force. -/
def State.stagedDiffers (s : State) (r : Nat) : Bool :=
  (regionChans r).any fun n => decide ((s.gauge.chans.get n).stSel ≠ (s.gauge.chans.get n).cellSel ∨
    (s.gauge.chans.get n).stTrim ≠ (s.gauge.chans.get n).trim ∨ (s.gauge.chans.get n).stDll ≠ (s.gauge.chans.get n).dllCode)

/-- Where the operands are in their ranges, the state of the region and the mode decide. -/
theorem bodyGaugeRestore_inRange {force : Bool} {region mode : Nat} {s : State} (hr : region < 21) (hm : mode < 2)
    (hok : ((regionChans region).all fun n => (s.gauge.chans.get n).stagedOk) = true) :
    bodyGaugeRestore force region mode s =
      let x := s.gauge.regions.get region
      if x.state = .running then .badState
      else if mode = 0 then
        if x.state = .off ∨ x.state = .full ∨ s.stagedDiffers region = true then .badState
        else if s.otherFull region then .fail stBusy [] else .ok (s.restoredTable region) []
      else if !force && !(decide (x.state = .off ∨ x.state = .full)) then .badState
      else if s.otherFull region then .fail stBusy [] else .ok (s.restoredFull region) [] := by
  unfold bodyGaugeRestore
  exact Rep.ranges_true (by simp only [hr, hm, hok, decide_true, Bool.and_true, List.all_cons, List.all_nil])

theorem bodyGaugeRestore_table {force : Bool} {region : Nat} {s : State} (hr : region < 21)
    (hok : ((regionChans region).all fun n => (s.gauge.chans.get n).stagedOk) = true)
    (hst : (s.gauge.regions.get region).state = .idle ∨ (s.gauge.regions.get region).state = .pending)
    (hsame : s.stagedDiffers region = false) (hfree : s.otherFull region = false) :
    bodyGaugeRestore force region 0 s = .ok (s.restoredTable region) [] := by
  rw [bodyGaugeRestore_inRange hr (by decide) hok]
  dsimp only
  rw [hsame, hfree]
  rcases hst with h | h <;> simp [h]

theorem bodyGaugeRestore_full {force : Bool} {region : Nat} {s : State} (hr : region < 21)
    (hok : ((regionChans region).all fun n => (s.gauge.chans.get n).stagedOk) = true)
    (hst : (s.gauge.regions.get region).state ≠ .running ∧
      (force = true ∨ (s.gauge.regions.get region).state = .off ∨ (s.gauge.regions.get region).state = .full))
    (hfree : s.otherFull region = false) : bodyGaugeRestore force region 1 s = .ok (s.restoredFull region) [] := by
  obtain ⟨hrun, hmay⟩ := hst
  rw [bodyGaugeRestore_inRange hr (by decide) hok]
  dsimp only
  rw [if_neg hrun, if_neg (by decide), if_neg (by rcases hmay with h | h <;> simp [h]), hfree]
  rfl

theorem bodyGaugeRestore_refuses {force : Bool} {region mode : Nat} {s : State} (hr : region < 21) (hm : mode < 2)
    (hok : ((regionChans region).all fun n => (s.gauge.chans.get n).stagedOk) = true)
    (hst : (s.gauge.regions.get region).state = .running ∨
      mode = 0 ∧ ((s.gauge.regions.get region).state = .off ∨ (s.gauge.regions.get region).state = .full) ∨
      mode = 1 ∧ force = false ∧ (s.gauge.regions.get region).state ≠ .off ∧ (s.gauge.regions.get region).state ≠ .full) :
    bodyGaugeRestore force region mode s = .fail stBadState [] := by
  rw [bodyGaugeRestore_inRange hr hm hok]
  dsimp only
  rcases hst with hrun | ⟨rfl, h⟩ | ⟨rfl, rfl, hoff, hfull⟩
  · rw [if_pos hrun]
    rfl
  · rw [if_pos rfl, if_pos (h.imp_right .inl)]
    exact ite_self _
  · have hforce : (!false && !(decide ((s.gauge.regions.get region).state = .off ∨
        (s.gauge.regions.get region).state = .full))) = true := by
      simp [hoff, hfull]
    rw [if_neg Nat.one_ne_zero, if_pos hforce]
    exact ite_self _

/-! ## The statement -/

/-- Settles O17, command by command: what its own checks come to, and then its completion. -/
theorem gaugeCommands : Obligations.GaugeCommands := by
  unfold Obligations.GaugeCommands
  refine ⟨?_, ?_, ?_, ?_, ?_, ?_, ?_, ?_, ?_, ?_, ?_⟩
  · intro src trigger minInterval target runTimeout retry periodic source18 source19 s hrun hrest h18 h19
    exact completes_ok_beside rfl rfl rfl (bodyGaugeConfigure_inRange hrun hrest h18 h19)
      (kset_gauge (.refl [.gauge] s) (by decide) |>.keeps.mono (by decide)) fun t ht => ht .gauge (by decide)
  · intro src region rs s hrs h
    refine completes_ok_beside rfl rfl rfl (bodyGaugeRun_queues hrs h)
      ((keeps_foldl (.refl [.gauge] s) fun y r hy => hy.trans (y.runIfIdle_keeps r)).keeps.mono (by decide)) fun t ht => ?_
    have hgauge : t.gauge = (rs.foldl State.runIfIdle s).gauge := ht .gauge (by decide)
    rw [List.all_eq_true]
    intro n hn
    obtain ⟨hstate, hmem⟩ := s.foldl_runIfIdle hn
    rw [hgauge, hstate]
    revert hmem
    cases (s.gauge.regions.get n).state <;> simp [GState.queued]
  · rintro src region s ⟨hr, h⟩
    exact exec_refused rfl (bodyGaugeRun_refuses hr h)
  · rintro src force region s ⟨hr, h⟩
    exact (completes_ok_beside rfl rfl rfl (bodyGaugeFull_stays hr h) (.refl _ _) fun _ _ => trivial).answer
  · rintro src _ region s ⟨hr, hoff, hfull, rfl⟩
    refine completes_ok_beside rfl rfl rfl (bodyGaugeFull_forces hr hoff hfull)
      ((s.enterFull_keeps region false).keeps.mono (by decide)) fun t ht => ?_
    have hgauge : t.gauge = (s.enterFull region false).gauge := ht .gauge (by decide)
    obtain ⟨hstate, hdue⟩ := s.enterFull_region region false
    rw [hgauge, List.all_eq_true]
    refine ⟨hstate, hdue, fun c hc => ?_⟩
    obtain ⟨hhist, hrun⟩ := s.enterFull_chan false hc
    rw [hhist, hrun]
    rfl
  · rintro src force region s ⟨hr, h⟩
    exact exec_refused rfl (bodyGaugeFull_refuses hr h)
  · rintro src region _ _ s rfl ⟨hr, rfl⟩
    exact completes_ok_beside rfl rfl rfl (bodyGaugeGetStatus_answers hr)
      (kset_free (.refl [.free] s) (by decide) |>.keeps.mono (by decide)) fun t ht => ht .free (by decide)
  · rintro src force region _ s ⟨hr, rfl, hok⟩ hst hsame hfree
    refine completes_ok_beside rfl rfl rfl (bodyGaugeRestore_table hr hok hst hsame hfree)
      ((s.restoredTable_keeps region).keeps.mono (by decide)) fun t ht => ?_
    have hgauge : t.gauge = (s.restoredTable region).gauge := ht .gauge (by decide)
    rw [hgauge]
    exact ⟨fun c hc => s.restoredTable_chan hc, s.restoredTable_commitDue region⟩
  · rintro src force region _ s ⟨hr, rfl, hok⟩ hst hfree
    refine completes_ok_beside rfl rfl rfl (bodyGaugeRestore_full hr hok hst hfree)
      ((s.restoredFull_keeps region).keeps.mono (by decide)) fun t ht => ?_
    have hgauge : t.gauge = (s.restoredFull region).gauge := ht .gauge (by decide)
    rw [hgauge]
    exact s.restoredFull_state region
  · rintro src force region mode s ⟨hr, hm, hok⟩ hst
    exact exec_refused rfl (bodyGaugeRestore_refuses hr hm hok hst)
  · intro src duration s h
    exact completes_ok_beside rfl rfl rfl (bodyGaugeHold_inRange h)
      (kset_gauge (.refl [.gauge] s) (by decide) |>.keeps.mono (by decide)) fun t ht => ht .gauge (by decide)

end Sys2Proof.Machine
end

section
/-!
PROOF. What the events of the gauge lead to.
-/
namespace Sys2Proof.Machine

/-! ## Raises keep what is pending (R510) -/

/-- What is pending stays pending under a raise. -/
theorem State.raise_keeps_isPending {s : State} {n : Nat} (src cause : Nat) (data : List Fld) (inj : Bool)
    (h : s.events.pending.getLsbD n = true) : (s.raise src cause data inj).events.pending.getLsbD n = true := by
  have hone : ∀ (t : State) (src cause : Nat) (inj : Bool) (data : List Byte), t.events.pending.getLsbD n = true →
      (t.raiseOne src cause inj data).events.pending.getLsbD n = true := fun t src cause inj data ht => by
    have hp : (t.raiseOne src cause inj data).events.pending = _ := congrArg Prod.fst (t.raiseOne_raised src cause inj data)
    rw [hp, BitVec.getLsbD_or, ht, Bool.true_or]
  unfold State.raise State.logReached
  split
  · exact hone _ _ _ _ _ (hone s src cause inj _ h)
  · exact hone s src cause inj _ h

/-- The source raised is pending. -/
theorem State.raise_isPending (s : State) {src : Nat} (cause : Nat) (data : List Fld) (inj : Bool) (h : src < 1024) (hne : src ≠ 832) :
    (s.raise src cause data inj).events.pending.getLsbD src = true := by
  have hr := s.raise_hasRaised cause data inj h hne
  simp only [State.hasRaised, Bool.and_eq_true] at hr
  exact hr.1

theorem State.raise_region_hasRaised (s : State) (r cause : Nat) (data : List Fld) :
    (s.raise (regionSrc r) cause data).hasRaised (regionSrc r) cause = true := by
  have := regionSrc_lt r
  exact s.raise_hasRaised _ _ _ (by omega) (by omega)

/-! ## Holds and timers (R128, R137, R138) -/

theorem exec_gaugeHoldLapse_held {n : Nat} {s : State} (h : s.gauge.hold = some n) :
    exec .gaugeHoldLapse s = .next { s.advance n with gauge := { (s.advance n).gauge with hold := none } } := by
  change execGaugeHoldLapse s = _
  unfold execGaugeHoldLapse
  rw [h]

theorem exec_gaugeHoldLapse_idle {s : State} (h : s.gauge.hold = none) : exec .gaugeHoldLapse s = .next s := by
  change execGaugeHoldLapse s = _
  unfold execGaugeHoldLapse
  rw [h]

/-- The instant at which the periodic or the retry interval of a region has passed. -/
def State.runDue (s : State) (y : GRegion) : Nat :=
  if s.gauge.periodic = 0 then y.lastEnd + cyclesOf s.gauge.retry
  else if y.failed = false then y.lastEnd + cyclesOf s.gauge.periodic
  else y.lastEnd + min (cyclesOf s.gauge.periodic) (cyclesOf s.gauge.retry)

theorem exec_gaugePeriodicTimer_due {region : Nat} {s : State} (hr : region < 21) (hidle : (s.gauge.regions.get region).state = .idle)
    (h : s.gauge.periodic ≠ 0 ∨ (s.gauge.regions.get region).failed = true) :
    exec (.gaugePeriodicTimer region) s = .next ((s.advance (s.runDue (s.gauge.regions.get region))).queueRun region false) := by
  change execGaugePeriodicTimer region s = _
  unfold execGaugePeriodicTimer State.runDue
  rw [if_neg (by omega)]
  dsimp only
  rw [if_neg (by simp [hidle])]
  by_cases hp : s.gauge.periodic = 0
  · have hf : (s.gauge.regions.get region).failed = true := h.resolve_left (· hp)
    simp only [hp, hf, if_true]
  · cases hf : (s.gauge.regions.get region).failed
    · simp only [hp, if_false, if_true, Bool.false_eq_true]
    · simp only [hp, if_false, if_true, Bool.true_eq_false, Nat.add_min_add_left]

theorem exec_gaugePeriodicTimer_idle {region : Nat} {s : State} (hr : region < 21)
    (h : (s.gauge.regions.get region).state ≠ .idle ∨ s.gauge.periodic = 0 ∧ (s.gauge.regions.get region).failed = false) :
    exec (.gaugePeriodicTimer region) s = .next s := by
  change execGaugePeriodicTimer region s = _
  unfold execGaugePeriodicTimer
  rw [if_neg (by omega)]
  dsimp only
  split
  · rfl
  · rename_i hidle
    obtain ⟨hp, hf⟩ := h.resolve_left hidle
    simp only [hp, hf, if_true, Bool.false_eq_true, if_false]

/-- A region is queued that was IDLE: it is PENDING and in the queue. -/
theorem State.queueRun_idle {s : State} {r : Nat} (urgent : Bool) (h : (s.gauge.regions.get r).state = .idle) :
    ((s.queueRun r urgent).gauge.regions.get r).state = .pending ∧ (s.queueRun r urgent).gauge.pendingQ.contains r = true := by
  obtain ⟨_, hr⟩ := s.queueRun_region r urgent
  rw [hr]
  exact ⟨by rw [h]; rfl, List.contains_iff_mem.mpr (State.mem_queueRun urgent (by simp [h]) (by simp [h]))⟩

theorem State.queueRun_tempLost (s : State) (r : Nat) (urgent : Bool) :
    ((s.queueRun r urgent).gauge.regions.get r).tempLost = (s.gauge.regions.get r).tempLost := by
  obtain ⟨_, hr⟩ := s.queueRun_region r urgent
  rw [hr]

theorem State.queueRun_now (s : State) (r : Nat) (urgent : Bool) : (s.queueRun r urgent).now = s.now :=
  (s.queueRun_keeps r urgent).keeps .clock (by decide)

theorem State.queueRun_hasRaised (s : State) (r : Nat) (urgent : Bool) (src cause : Nat) :
    (s.queueRun r urgent).hasRaised src cause = s.hasRaised src cause := by
  have he : (s.queueRun r urgent).events = s.events := (s.queueRun_keeps r urgent).keeps .events (by decide)
  unfold State.hasRaised
  rw [he]

/-- The instant is noted at which a missing sensor has region `r` run. -/
def State.tempLostNow (s : State) (r : Nat) : State := s.updRegion r fun y => { y with tempLost := some s.now }

theorem State.tempLostNow_region (s : State) (r : Nat) : (s.tempLostNow r).gauge.regions.get r =
    { s.gauge.regions.get r with tempLost := some s.now } := State.updRegion_same _ _ _

theorem exec_gaugeTempUnavailable_first {region : Nat} {s : State} (hr : region < 21)
    (hidle : (s.gauge.regions.get region).state = .idle) (ht : s.regionTemp region = none)
    (h : (s.gauge.regions.get region).tempLost = none) :
    exec (.gaugeTempUnavailable region) s = .next
      (((s.tempLostNow region).raise (regionSrc region) Ev.gaugeTempUnavailable [.u 2 region]).queueRun region false) := by
  change execGaugeTempUnavailable region s = _
  unfold execGaugeTempUnavailable
  rw [if_neg (by omega)]
  dsimp only
  rw [if_neg (by simp [hidle, ht]), h]
  rfl

theorem exec_gaugeTempUnavailable_again {region n : Nat} {s : State} (hr : region < 21)
    (hidle : (s.gauge.regions.get region).state = .idle) (ht : s.regionTemp region = none)
    (h : (s.gauge.regions.get region).tempLost = some n) :
    exec (.gaugeTempUnavailable region) s = .next (((s.advance (n + 60 * secC)).tempLostNow region).queueRun region false) := by
  change execGaugeTempUnavailable region s = _
  unfold execGaugeTempUnavailable
  rw [if_neg (by omega)]
  dsimp only
  rw [if_neg (by simp [hidle, ht]), h]
  rfl

theorem exec_gaugeTempUnavailable_idle {region : Nat} {s : State} (hr : region < 21)
    (h : (s.gauge.regions.get region).state = .off ∨ (s.regionTemp region).isSome = true) :
    exec (.gaugeTempUnavailable region) s = .next s := by
  change execGaugeTempUnavailable region s = _
  unfold execGaugeTempUnavailable
  rw [if_neg (by omega)]
  dsimp only
  rw [if_pos h]

/-! ## The staging set (R145) -/

/-- A list as a table gives its entries. -/
theorem centreTbl_map_get (f : Nat → Nat) {n k : Nat} (h : k < n) : (centreTbl ((List.range n).map f)).get k = f k := by
  have hmap : centreTbl ((List.range n).map f) = (List.range n).map fun k => (k, f k) := by
    have hzip := List.zip_map' (f := id) (g := f) (l := List.range n)
    rw [List.map_id] at hzip
    unfold centreTbl
    rw [List.length_map, List.length_range, hzip]
    rfl
  have hget : ∀ l : List Nat, k ∈ l → Tbl.get (l.map fun k => (k, f k)) k = f k := fun l hk => by
    induction l with
    | nil => cases hk
    | cons i l ih =>
      by_cases hi : i = k
      · simp [Tbl.get, hi]
      · have hl : k ∈ l := (List.mem_cons.mp hk).resolve_left (Ne.symm hi)
        simp [Tbl.get, hi, ih hl]
  rw [hmap, hget _ (List.mem_range.mpr h)]

/-- The state in which the staging set of the selected channel holds what is active. -/
def State.stagedAsActive (s : State) : State := s.updCG s.gauge.gwChannel fun g => { g with
  stCentre := centreTbl ((List.range 512).map fun k => g.centre.getD k (128 * k + 64))
  stDll := g.dllCode, stSel := g.cellSel, stTrim := g.trim }

theorem exec_stageLoad_loads {s : State} {value : BitVec 32} (hv : value.toNat % 2 = 1)
    (hc : (regionOf s.gauge.gwChannel).isSome = true) : exec (.stageLoad value) s = .next s.stagedAsActive := by
  change execStageLoad value s = _
  unfold execStageLoad State.stageLoad
  rw [if_pos ⟨hv, hc⟩]
  rfl

/-- What the staging set of the selected channel then holds. -/
theorem State.stagedAsActive_chan (s : State) : s.stagedAsActive.gauge.chans.get s.gauge.gwChannel =
    { s.gauge.chans.get s.gauge.gwChannel with
      stCentre := centreTbl ((List.range 512).map fun k => (s.gauge.chans.get s.gauge.gwChannel).centre.getD k (128 * k + 64))
      stDll := (s.gauge.chans.get s.gauge.gwChannel).dllCode, stSel := (s.gauge.chans.get s.gauge.gwChannel).cellSel
      stTrim := (s.gauge.chans.get s.gauge.gwChannel).trim } := State.updCG_same _ _ _

theorem State.stagedAsActive_centre (s : State) {k : Nat} (h : k < 512) :
    (s.stagedAsActive.gauge.chans.get s.gauge.gwChannel).stCentre.get k =
      (s.gauge.chans.get s.gauge.gwChannel).centre.getD k (128 * k + 64) := by
  rw [State.stagedAsActive_chan]
  dsimp only
  rw [centreTbl_map_get _ h]

theorem exec_stageLoad_idle {s : State} {value : BitVec 32} (h : value.toNat % 2 = 0 ∨ regionOf s.gauge.gwChannel = none) :
    exec (.stageLoad value) s = .next s := by
  change execStageLoad value s = _
  unfold execStageLoad State.stageLoad
  rw [if_neg]
  rintro ⟨hv, hc⟩
  rcases h with h | h
  · omega
  · simp [h] at hc

/-! ## DLLs (R129, R130) -/

theorem exec_dllUnlock_loses {loss : DllLoss} {s : State} (hc : loss.ch < 320) (hlock : (s.tdc.chans.get loss.ch).dllLocked = true)
    (hin : s.inService loss.ch = true) (herr : dllUnlockLimit < loss.error.natAbs) :
    exec (.dllUnlock loss) s = .next ((s.updTdc loss.ch fun x => { x with
      dllLocked := false, dllTimer := some (s.now + msC), winBad := true, dllUnlockInRun := true }).raise
        (tdcSrc loss.ch) Ev.dllUnlock) := by
  change execDllUnlock loss s = _
  unfold execDllUnlock
  rw [if_neg (by omega), if_neg (by simp [hlock, hin, herr])]

theorem exec_dllUnlock_idle {loss : DllLoss} {s : State} (hc : loss.ch < 320)
    (h : (s.tdc.chans.get loss.ch).dllLocked = false ∨ s.inService loss.ch = false ∨ loss.error.natAbs ≤ dllUnlockLimit) :
    exec (.dllUnlock loss) s = .next s := by
  change execDllUnlock loss s = _
  unfold execDllUnlock
  rw [if_neg (by omega), if_pos (by rcases h with h | h | h <;> simp [h])]

/-- The state in which the DLL of channel `c` has locked again, its stamps STALE. -/
def State.dllRelocked (s : State) (c : Nat) : State :=
  (s.updTdc c fun x => { x with dllLocked := true, dllTimer := none, dllStale := true }).raise (tdcSrc c) Ev.dllRelock

theorem exec_dllRelock_locks {lock : DllLock} {n : Nat} {s : State} (hc : lock.ch < 320)
    (hlock : (s.tdc.chans.get lock.ch).dllLocked = false) (hin : s.inService lock.ch = true) (hr : regionOf lock.ch = some n)
    (hwithin : 1024 ≤ lock.within) : exec (.dllRelock lock) s = .next ((s.dllRelocked lock.ch).queueRun n true) := by
  change execDllRelock lock s = _
  unfold execDllRelock
  have hlong : decide (lock.within < dllLockCycles) = false := decide_eq_false (Nat.not_lt.mpr hwithin)
  rw [if_neg (by omega), if_neg (by simp [hlock, hin, hlong])]
  dsimp only
  rw [hr]
  rfl

theorem exec_dllRelock_idle {lock : DllLock} {s : State} (hc : lock.ch < 320)
    (h : (s.tdc.chans.get lock.ch).dllLocked = true ∨ s.inService lock.ch = false ∨ lock.within < 1024) :
    exec (.dllRelock lock) s = .next s := by
  change execDllRelock lock s = _
  unfold execDllRelock
  rw [if_neg (by omega), if_pos (by rcases h with h | h | h <;> simp [h, dllLockCycles])]

theorem exec_dllRelockTimeout_fails {ch n d : Nat} {s : State} (hc : ch < 320) (ht : (s.tdc.chans.get ch).dllTimer = some d)
    (hr : regionOf ch = some n) : exec (.dllRelockTimeout ch) s = .next ((s.advance d).enterFull n false) := by
  change execDllRelockTimeout ch s = _
  unfold execDllRelockTimeout State.lineFault
  rw [if_neg (by omega), ht, hr]
  rfl

theorem exec_dllRelockTimeout_idle {ch : Nat} {s : State} (hc : ch < 320)
    (h : (s.tdc.chans.get ch).dllTimer = none ∨ regionOf ch = none) : exec (.dllRelockTimeout ch) s = .next s := by
  change execDllRelockTimeout ch s = _
  unfold execDllRelockTimeout
  rw [if_neg (by omega)]
  rcases h with h | h
  · rw [h]
  · rw [h]
    split <;> rfl

/-! ## The copies (R143, R144) -/

/-- The centres found in the second copy of channel `c`. -/
def State.foundCentres (s : State) (found : List (Nat × List Nat)) (c : Nat) : List Nat :=
  ((found.find? fun p => p.1 = c).map Prod.snd).getD
    ((List.range 512).map fun k => (s.gauge.chans.get c).other.getD k (128 * k + 64))

/-- The state with the second copy of region `r` as found. -/
def State.secondFound (s : State) (r : Nat) (found : List (Nat × List Nat)) : State :=
  (regionChans r).foldl (fun t c => t.updCG c fun g =>
    { g with other := centreTbl (execGaugeCopyCheck.padTo512 (s.foundCentres found c)) }) s

/-- The state in which the first copy of region `r` is made from the second, which stands at `epoch`. -/
def State.takeSecond (s : State) (r epoch : Nat) (found : List (Nat × List Nat)) : State :=
  let crc := (s.secondFound r found).copyCrc r ChanGauge.other
  ((regionChans r).foldl (fun s c => s.updCG c fun g => { g with centre := g.other }) (s.secondFound r found)).updRegion r fun y =>
    { y with epoch := epoch, epochB := epoch, active := !y.active, crc := crc, crcB := crc }

/-- The state in which both copies of region `r` are gone: its channels take nominal centres, and a run is queued. -/
def State.loseCopies (s : State) (r : Nat) : State :=
  (((regionChans r).foldl (fun s c => s.updCG c fun g => { g with centre := [], other := [] }) s).updRegion r fun y =>
    { y with stale := true }).queueRun r true

theorem State.takeSecond_chan (s : State) {r c : Nat} (epoch : Nat) (found : List (Nat × List Nat)) (h : c ∈ regionChans r) :
    ((s.takeSecond r epoch found).gauge.chans.get c).centre = ((s.takeSecond r epoch found).gauge.chans.get c).other := by
  refine foldl_visits (I := fun _ : State => True) (Q := fun t c => (t.gauge.chans.get c).centre = (t.gauge.chans.get c).other)
    (fun _ _ _ => trivial) (fun t c _ => ?_) (fun t c n hne _ hq => ?_) trivial h
  · rw [State.updCG_same]
  · rwa [State.updCG_other _ _ hne]

theorem State.takeSecond_region (s : State) (r epoch : Nat) (found : List (Nat × List Nat)) :
    ((s.takeSecond r epoch found).gauge.regions.get r).epoch = epoch ∧
      ((s.takeSecond r epoch found).gauge.regions.get r).epochB = epoch ∧
      ((s.takeSecond r epoch found).gauge.regions.get r).active = !(s.gauge.regions.get r).active := by
  have hfound : (s.secondFound r found).gauge.regions = s.gauge.regions :=
    foldl_same (fun t : State => t.gauge.regions) fun _ _ _ => rfl
  have htaken : ((regionChans r).foldl (fun s c => s.updCG c fun g => { g with centre := g.other })
      (s.secondFound r found)).gauge.regions = (s.secondFound r found).gauge.regions :=
    foldl_same (fun t : State => t.gauge.regions) fun _ _ _ => rfl
  unfold State.takeSecond
  rw [State.updRegion_same, htaken, hfound]
  exact ⟨rfl, rfl, rfl⟩

theorem State.loseCopies_chan (s : State) {r c : Nat} (h : c ∈ regionChans r) :
    ((s.loseCopies r).gauge.chans.get c).centre = [] := by
  unfold State.loseCopies
  rw [State.queueRun_chans]
  refine foldl_visits (I := fun _ : State => True) (Q := fun t c => (t.gauge.chans.get c).centre = [])
    (fun _ _ _ => trivial) (fun t c _ => ?_) (fun t c n hne _ hq => ?_) trivial h
  · rw [State.updCG_same]
  · rwa [State.updCG_other _ _ hne]

theorem State.loseCopies_stale (s : State) (r : Nat) : ((s.loseCopies r).gauge.regions.get r).stale = true := by
  unfold State.loseCopies
  obtain ⟨_, hq⟩ := State.queueRun_region _ r true
  rw [hq]
  dsimp only
  rw [State.updRegion_same]

/-- A state of the copies of region `r`, reported with `cause`. -/
def State.reported (s : State) (r cause : Nat) : State := s.raise (regionSrc r) cause [.u 2 r]

section
variable {region bEpoch : Nat} {bCentres : List (Nat × List Nat)} {s : State} (hr : region < 21)
  (hoff : (s.gauge.regions.get region).state ≠ .off) (hdue : (s.gauge.regions.get region).commitDue = false)
include hr hoff hdue

theorem exec_gaugeCopyCheck_second_bad : exec (.gaugeCopyCheck region true false bEpoch bCentres) s =
    .next ((s.copyOver region).reported region Ev.gaugeCopyRepaired) := by
  change execGaugeCopyCheck region true false bEpoch bCentres s = _
  unfold execGaugeCopyCheck
  rw [if_neg (by omega)]
  dsimp only
  rw [if_neg (by simp [hoff, hdue])]
  rfl

theorem exec_gaugeCopyCheck_first_bad : exec (.gaugeCopyCheck region false true bEpoch bCentres) s =
    .next ((s.takeSecond region bEpoch bCentres).reported region Ev.gaugeCopyRepaired) := by
  change execGaugeCopyCheck region false true bEpoch bCentres s = _
  unfold execGaugeCopyCheck
  rw [if_neg (by omega)]
  dsimp only
  rw [if_neg (by simp [hoff, hdue])]
  rfl

theorem exec_gaugeCopyCheck_both_bad : exec (.gaugeCopyCheck region false false bEpoch bCentres) s =
    .next ((s.loseCopies region).reported region Ev.gaugeLost) := by
  change execGaugeCopyCheck region false false bEpoch bCentres s = _
  unfold execGaugeCopyCheck
  rw [if_neg (by omega)]
  dsimp only
  rw [if_neg (by simp [hoff, hdue])]
  rfl

theorem exec_gaugeCopyCheck_differ (hne : (s.gauge.regions.get region).epoch ≠ bEpoch) :
    exec (.gaugeCopyCheck region true true bEpoch bCentres) s =
      .next ((if (s.gauge.regions.get region).epoch < bEpoch then s.takeSecond region bEpoch bCentres else s.copyOver region).reported
        region Ev.gaugeCopyDiffer) := by
  change execGaugeCopyCheck region true true bEpoch bCentres s = _
  unfold execGaugeCopyCheck
  rw [if_neg (by omega)]
  dsimp only
  rw [if_neg (by simp [hoff, hdue]), if_neg (fun h => hne h.1)]
  split <;> rfl

end

theorem exec_gaugeCopyCheck_idle {region bEpoch : Nat} {aOk bOk : Bool} {bCentres : List (Nat × List Nat)} {s : State} (hr : region < 21)
    (h : (s.gauge.regions.get region).state = .off ∨ (s.gauge.regions.get region).commitDue = true) :
    exec (.gaugeCopyCheck region aOk bOk bEpoch bCentres) s = .next s := by
  change execGaugeCopyCheck region aOk bOk bEpoch bCentres s = _
  unfold execGaugeCopyCheck
  rw [if_neg (by omega)]
  dsimp only
  rw [if_pos h]

end Sys2Proof.Machine
end

section
/-!
PROOF. Runs, full calibrations and commits of the gauge.
-/
namespace Sys2Proof.Machine

/-! ## A collection is judged (R135, R136) -/

/-- A DLL that was not locked throughout fails a collection that has its hits, and one without its hits fails before (R136). -/
theorem tableCheck_unlocked (target : Nat) (hits : List Nat) (full : Bool) (old : Nat → Nat) :
    tableCheck target hits false full old ≠ 0 := by
  unfold tableCheck
  dsimp only
  split
  · decide
  · rw [if_pos (show (!false) = true from rfl)]
    decide

/-- What is judged of a channel's collection: the channel takes part no longer, and has a new table where no fault was found. -/
theorem State.judgeChan_gauge (s : State) (c : Nat) (hits : List Nat) (dllOk full : Bool) : ∃ n cause x,
    (s.judgeChan c hits dllOk full).gauge =
      (s.updCG c fun g => { g with inRun := false, judged := some (n, cause), newCentre := x }).gauge ∧
    (dllOk = false → cause ≠ 0) ∧
    if cause = 0 then x.isSome = true else x = if full then some [] else none := by
  unfold State.judgeChan
  dsimp only
  split
  · rename_i hpass
    refine ⟨_, 0, _, rfl, fun hdll => ?_, by rw [if_pos rfl]; rfl⟩
    subst hdll
    exact absurd hpass (tableCheck_unlocked _ _ _ _)
  · rename_i hfail
    exact ⟨_, _, _, State.raise_gauge, fun _ => hfail, by rw [if_neg hfail]⟩

/-- A judgement that finds a fault is reported (R149). -/
theorem State.judgeChan_reports {s : State} {c : Nat} {hits : List Nat} {dllOk full : Bool} (hc : c < 320)
    (h : (s.judgeChan c hits dllOk full).failsChan c = true) :
    (s.judgeChan c hits dllOk full).events.pending.getLsbD (tdcSrc c) = true := by
  unfold State.judgeChan at h ⊢
  dsimp only at h ⊢
  split at h
  · unfold State.failsChan at h
    rw [State.updCG_same] at h
    simp at h
  · rename_i hfail
    rw [if_neg hfail]
    exact State.raise_isPending _ _ _ _ (by unfold tdcSrc; omega) (by unfold tdcSrc; omega)

theorem State.judgeChan_keeps_isPending {s : State} {n : Nat} (c : Nat) (hits : List Nat) (dllOk full : Bool)
    (h : s.events.pending.getLsbD n = true) : (s.judgeChan c hits dllOk full).events.pending.getLsbD n = true := by
  unfold State.judgeChan
  dsimp only
  split
  · exact h
  · exact State.raise_keeps_isPending _ _ _ _ h

/-- Whether a channel's evaluation failed is read from what it holds. -/
theorem State.failsChan_congr {s t : State} {c : Nat} (h : (t.gauge.chans.get c).judged = (s.gauge.chans.get c).judged) :
    t.failsChan c = s.failsChan c := by
  unfold State.failsChan
  rw [h]

theorem State.failsChan_judged {s : State} {c n cause : Nat} (h : (s.gauge.chans.get c).judged = some (n, cause)) :
    s.failsChan c = decide (cause ≠ 0) := by
  unfold State.failsChan
  rw [h]

/-! ## The end of a run (R136, R137) -/

/-- Channel `c` of region `r` is judged at the end of a run. -/
def State.judgeRun (r : Nat) (injected : List Injected) (s : State) (c : Nat) : State :=
  s.judgeChan c (s.runHits r c injected) (!(s.tdc.chans.get c).dllUnlockInRun && (s.tdc.chans.get c).dllLocked) false

/-- The channels that take part in the run of region `r`. -/
def State.runChans (s : State) (r : Nat) : List Nat := (regionChans r).filter fun c => (s.gauge.chans.get c).inRun

/-- The state at the instant at which the run of region `r` ends: now where every channel has its hits, else at the timeout. -/
def State.runOver (s : State) (r : Nat) (injected : List Injected) : State :=
  if (s.runChans r).all fun c => decide (2 ^ s.gauge.target ≤ (s.runHits r c injected).foldl (· + ·) 0) then s
  else s.advance ((s.gauge.regions.get r).runEnd.getD s.now)

/-- The state in which the channels that took part have been judged. -/
def State.runJudged (s : State) (r : Nat) (injected : List Injected) : State :=
  (s.runChans r).foldl (State.judgeRun r injected) (s.runOver r injected)

/-- The state in which the run of region `r` has ended. -/
def State.runDone (s : State) (r : Nat) (injected : List Injected) : State :=
  (s.runJudged r injected).endRun r 0 ((s.runChans r).any (s.runJudged r injected).failsChan)

theorem exec_gaugeRunEnd_ends {injected : List Injected} {n : Nat} {s : State} (hrun : s.gauge.running = some n)
    (hst : (s.gauge.regions.get n).state = .running) (hinj : s.injects n = true → s.injectable n injected = true) :
    exec (.gaugeRunEnd injected) s = .next (s.runDone n injected) := by
  change execGaugeRunEnd injected s = _
  unfold execGaugeRunEnd
  rw [hrun]
  dsimp only
  rw [if_neg (by simp [hst]), if_neg (by simpa using hinj)]
  rfl

theorem exec_gaugeRunEnd_idle {injected : List Injected} {s : State}
    (h : ∀ n, s.gauge.running = some n → (s.gauge.regions.get n).state ≠ .running) : exec (.gaugeRunEnd injected) s = .next s := by
  change execGaugeRunEnd injected s = _
  unfold execGaugeRunEnd
  split
  · rfl
  · rename_i n hn
    exact if_pos (h n hn)

theorem State.runOver_gauge (s : State) (r : Nat) (injected : List Injected) : (s.runOver r injected).gauge = s.gauge := by
  unfold State.runOver
  rw [apply_ite State.gauge, State.advance_gauge, ite_self]

/-- Judging changes the channels alone. -/
theorem State.runJudged_gauge (s : State) (r : Nat) (injected : List Injected) : ∃ chans, (s.runJudged r injected).gauge =
    { s.gauge with chans := chans } := by
  unfold State.runJudged
  refine List.foldlRecOn _ _ (motive := fun t : State => ∃ chans, t.gauge = { s.gauge with chans := chans })
    ⟨_, s.runOver_gauge r injected⟩ fun t ⟨_, ht⟩ c _ => ?_
  obtain ⟨_, _, _, hj, _⟩ := t.judgeChan_gauge c (t.runHits r c injected)
    (!(t.tdc.chans.get c).dllUnlockInRun && (t.tdc.chans.get c).dllLocked) false
  exact ⟨_, by unfold State.judgeRun; rw [hj, State.updCG_gauge, ht]⟩

/-- What a run leaves of a channel that took part: a new table, or a fault that is reported. -/
def State.runResult (s : State) (c : Nat) : Prop :=
  (s.gauge.chans.get c).inRun = false ∧
    if s.failsChan c = true then (s.gauge.chans.get c).newCentre = none ∧ s.events.pending.getLsbD (tdcSrc c) = true
    else (s.gauge.chans.get c).newCentre.isSome = true

theorem State.judgeRun_result (s : State) {r c : Nat} (injected : List Injected) (hc : c < 320) :
    (s.judgeRun r injected c).runResult c := by
  obtain ⟨n, cause, x, hj, _, hx⟩ := s.judgeChan_gauge c (s.runHits r c injected)
    (!(s.tdc.chans.get c).dllUnlockInRun && (s.tdc.chans.get c).dllLocked) false
  have hchan := congrArg (fun g : Gauge => g.chans.get c) hj
  change _ = (State.updCG _ c _).gauge.chans.get c at hchan
  rw [State.updCG_same] at hchan
  have hfails := State.failsChan_judged (n := n) (cause := cause) (congrArg ChanGauge.judged hchan)
  unfold State.runResult State.judgeRun
  refine ⟨congrArg ChanGauge.inRun hchan, ?_⟩
  split
  · rename_i hf
    have hcause : cause ≠ 0 := by simpa [hfails] using hf
    rw [if_neg hcause] at hx
    exact ⟨(congrArg ChanGauge.newCentre hchan).trans hx, State.judgeChan_reports hc hf⟩
  · rename_i hf
    have hcause : cause = 0 := by simpa [hfails] using hf
    rw [if_pos hcause] at hx
    rw [hchan]
    exact hx

/-- Judging another channel leaves a result as it is. -/
theorem State.judgeRun_keeps_result {s : State} {r c n : Nat} (injected : List Injected) (hne : n ≠ c) (h : s.runResult n) :
    (s.judgeRun r injected c).runResult n := by
  obtain ⟨_, _, _, hj, _⟩ := s.judgeChan_gauge c (s.runHits r c injected)
    (!(s.tdc.chans.get c).dllUnlockInRun && (s.tdc.chans.get c).dllLocked) false
  have hchan : (s.judgeRun r injected c).gauge.chans.get n = s.gauge.chans.get n := by
    unfold State.judgeRun
    rw [hj, State.updCG_other _ _ hne]
  obtain ⟨hrun, hres⟩ := h
  unfold State.runResult
  rw [State.failsChan_congr (congrArg ChanGauge.judged hchan), hchan]
  refine ⟨hrun, ?_⟩
  split
  · rename_i hf
    rw [if_pos hf] at hres
    exact ⟨hres.1, State.judgeChan_keeps_isPending _ _ _ _ hres.2⟩
  · rename_i hf
    rwa [if_neg hf] at hres

theorem State.runJudged_result {s : State} {r c : Nat} (injected : List Injected) (hc : c ∈ regionChans r)
    (hrun : (s.gauge.chans.get c).inRun = true) : (s.runJudged r injected).runResult c := by
  have hmem : c ∈ s.runChans r := List.mem_filter.mpr ⟨hc, hrun⟩
  refine (foldl_visits (I := fun _ : State => True) (Q := fun t c => c < 320 → t.runResult c) (fun _ _ _ => trivial)
    (fun t c _ h => t.judgeRun_result injected h) (fun t c n hne _ hq h => State.judgeRun_keeps_result injected hne (hq h)) trivial
    hmem) (lt_of_mem_regionChans hc)

/-- The end of the engine's work leaves the results of the channels. -/
theorem State.endRun_failsChan (s : State) (r kind : Nat) (failed : Bool) (c : Nat) :
    (s.endRun r kind failed).failsChan c = s.failsChan c := by
  obtain ⟨_, _, _, _, hg, _, _, hchan, _⟩ := s.endRun_gauge r kind failed
  obtain ⟨_, hc⟩ := hchan c
  refine State.failsChan_congr ?_
  rw [hg]
  dsimp only
  rw [hc]

/-! ## The start of a run (R136, R137) -/

/-- Channel `c` begins a run. -/
def State.runBegins (s : State) (c : Nat) : State :=
  (s.updCG c fun g => { g with hist := [], inRun := s.takesPart c }).updTdc c fun y => { y with dllUnlockInRun := !y.dllLocked }

/-- The state in which the channels of region `r` have begun their run, 10 ms after the end of the run before. -/
def State.runPrepared (s : State) (r : Nat) : State :=
  (regionChans r).foldl State.runBegins (s.advance (s.gauge.lastRunEnd + 10 * msC))

/-- The state in which the run of region `r` has started, the regions of `q` being left in the queue. -/
def State.runStarted (s : State) (r : Nat) (q : List Nat) : State :=
  let u := s.runPrepared r
  { u with gauge := { u.gauge with
    pendingQ := q, running := some r
    regions := u.gauge.regions.set r { s.gauge.regions.get r with
      state := .running, stale := true, urgent := false, tSum := 0, tCount := 0, runStart := u.now
      runEnd := some (u.now + cyclesOf u.gauge.runTimeout) } } }

theorem exec_gaugeRunStart_starts {n : Nat} {l : List Nat} {s : State} (hq : s.gauge.pendingQ = n :: l)
    (hrun : s.gauge.running = none) (h : s.gaugeHeld = false ∨ (s.gauge.regions.get n).urgent = true) :
    exec .gaugeRunStart s = .next (s.runStarted n l) := by
  change execGaugeRunStart s = _
  unfold execGaugeRunStart
  rw [hq, hrun]
  dsimp only
  rw [if_neg (by rcases h with h | h <;> simp [h])]
  rfl

theorem exec_gaugeRunStart_idle {s : State} (h : s.gauge.pendingQ = [] ∨ s.gauge.running.isSome = true ∨
    s.gaugeHeld = true ∧ (s.gauge.regions.get (s.gauge.pendingQ.headD 0)).urgent = false) : exec .gaugeRunStart s = .next s := by
  change execGaugeRunStart s = _
  unfold execGaugeRunStart
  split
  · rename_i hq hrun
    obtain ⟨hheld, hurgent⟩ : s.gaugeHeld = true ∧ (s.gauge.regions.get (s.gauge.pendingQ.headD 0)).urgent = false := by
      simpa [hq, hrun] using h
    rw [hq] at hurgent
    exact if_pos (by simpa [hheld] using hurgent)
  · rfl

theorem State.runBegins_takesPart (s : State) (c n : Nat) : (s.runBegins c).takesPart n = s.takesPart n := by
  have henable : ((s.runBegins c).tdc.chans.get n).enable = (s.tdc.chans.get n).enable := by
    unfold State.runBegins
    by_cases hn : n = c
    · subst hn
      rw [State.updTdc_same]
      rfl
    · rw [State.updTdc_other _ _ hn]
      rfl
  unfold State.takesPart
  rw [henable]

/-- Preparing a run changes the channels alone, and time does not stop short. -/
theorem State.runPrepared_gauge (s : State) (r : Nat) : (∃ chans, (s.runPrepared r).gauge = { s.gauge with chans := chans }) ∧
    s.gauge.lastRunEnd + 10 * msC ≤ (s.runPrepared r).now := by
  have hnow : (s.runPrepared r).now = (s.advance (s.gauge.lastRunEnd + 10 * msC)).now :=
    foldl_same State.now fun _ _ _ => rfl
  refine ⟨?_, hnow ▸ s.le_advance_now _⟩
  exact List.foldlRecOn (regionChans r) State.runBegins (motive := fun t : State => ∃ chans, t.gauge = { s.gauge with chans := chans })
    ⟨_, State.advance_gauge⟩ fun t ⟨_, ht⟩ c _ => ⟨_, by unfold State.runBegins; rw [State.updTdc_gauge, State.updCG_gauge, ht]⟩

theorem State.runPrepared_chan (s : State) {r c : Nat} (h : c ∈ regionChans r) :
    ((s.runPrepared r).gauge.chans.get c).hist = [] ∧ ((s.runPrepared r).gauge.chans.get c).inRun = s.takesPart c := by
  refine foldl_visits (I := fun t : State => ∀ n, t.takesPart n = s.takesPart n)
    (Q := fun t c => (t.gauge.chans.get c).hist = [] ∧ (t.gauge.chans.get c).inRun = s.takesPart c)
    (fun t c ht n => (t.runBegins_takesPart c n).trans (ht n)) (fun t c ht => ?_) (fun t c n hne _ hq => ?_) (fun n => ?_) h
  · unfold State.runBegins
    rw [State.updTdc_gauge, State.updCG_same]
    exact ⟨rfl, ht c⟩
  · unfold State.runBegins
    rwa [State.updTdc_gauge, State.updCG_other _ _ hne]
  · unfold State.takesPart
    rw [State.advance_tdc]

/-! ## The end of a full calibration (R131, R137, R147) -/

/-- What the full calibration measured of channel `c`. -/
def calSetOf (sets : List CalSet) (c : Nat) : CalSet := (sets.find? fun x => x.chan = c).getD {}

/-- Channel `c` is done with full calibration, or with the full restore. -/
def State.fullChan (restore : Bool) (sets : List CalSet) (s : State) (c : Nat) : State :=
  if restore then s.restoreChan c (calSetOf sets c) else s.calibrateChan c (calSetOf sets c)

/-- The state in which the channels of region `r` are done. -/
def State.fullJudged (s : State) (restore : Bool) (r : Nat) (sets : List CalSet) : State :=
  (regionChans r).foldl (State.fullChan restore sets) s

/-- A full restore of region `r` has ended, which a run follows. -/
def State.restoreEnded (s : State) (r : Nat) : State := (s.updRegion r fun y => { y with restoreFull := false }).queueRun r false

/-- The state in which the full calibration or restore of region `r` has ended. -/
def State.fullDone (s : State) (restore : Bool) (r : Nat) (sets : List CalSet) : State :=
  let u := s.fullJudged restore r sets
  let failed := (regionChans r).any u.failsChan
  if restore then (u.endRun r 2 failed).restoreEnded r else u.endRun r 1 failed

theorem exec_fullCalibrationDone_ends {region : Nat} {sets : List CalSet} {s : State} (hr : region < 21)
    (hst : (s.gauge.regions.get region).state = .full) (hrun : s.gauge.running = some region) :
    exec (.fullCalibrationDone region sets) s = .next (s.fullDone (s.gauge.regions.get region).restoreFull region sets) := by
  have hjudged : ∀ restore, s.fullJudged restore region sets = (regionChans region).foldl (fun t c =>
      if restore then t.restoreChan c (calSetOf sets c) else t.calibrateChan c (calSetOf sets c)) s := fun _ => rfl
  change execFullCalibrationDone region sets s = _
  unfold execFullCalibrationDone State.fullDone
  rw [if_neg (by omega), hjudged]
  dsimp only
  rw [if_neg (by simp [hst, hrun])]
  cases (s.gauge.regions.get region).restoreFull
  · simp only [Bool.false_eq_true, if_false]
    rfl
  · simp only [if_true]
    rfl

theorem exec_fullCalibrationDone_idle {region : Nat} {sets : List CalSet} {s : State} (hr : region < 21)
    (h : (s.gauge.regions.get region).state ≠ .full ∨ s.gauge.running ≠ some region) :
    exec (.fullCalibrationDone region sets) s = .next s := by
  change execFullCalibrationDone region sets s = _
  unfold execFullCalibrationDone
  rw [if_neg (by omega)]
  dsimp only
  rw [if_pos h]

/-- What the end of full calibration leaves of channel `c`: its line's bias as measured, its DLL locked or reported at fault with nominal
centres, and, but for a restore, its cells selected by their widths. -/
def State.fullResult (s : State) (restore : Bool) (c : Nat) (w : CalSet) : Prop :=
  (s.gauge.chans.get c).lineDll = w.dll % 4096 ∧
    ((s.tdc.chans.get c).dllLocked = w.locked ∧ (s.tdc.chans.get c).dllStale = false) ∧
    (w.locked = false → s.failsChan c = true ∧ (s.gauge.chans.get c).newCentre = some []) ∧
    (restore = false → (s.gauge.chans.get c).lineSel = selectCells w.widths)

theorem State.restoreChan_gauge (s : State) (c : Nat) (w : CalSet) : ∃ n x, (s.restoreChan c w).gauge =
      (s.updCG c fun g => { g with lineDll := w.dll % 4096, judged := some (n, if w.locked then 0 else 2), newCentre := x }).gauge ∧
    (s.restoreChan c w).tdc = (s.updTdc c fun y => { y with dllLocked := w.locked, dllStale := false }).tdc ∧
    (w.locked = false → x = some []) := by
  unfold State.restoreChan
  dsimp only
  rw [apply_ite State.gauge, apply_ite State.tdc, State.raise_gauge, State.raise_tdc, ite_self, ite_self]
  exact ⟨_, _, rfl, rfl, fun h => by rw [h]; rfl⟩

theorem State.restoreChan_result (s : State) (c : Nat) (w : CalSet) : (s.restoreChan c w).fullResult true c w := by
  obtain ⟨n, x, hg, htdc, hx⟩ := s.restoreChan_gauge c w
  have hchan := congrArg (fun g : Gauge => g.chans.get c) hg
  change _ = (State.updCG _ c _).gauge.chans.get c at hchan
  rw [State.updCG_same] at hchan
  unfold State.fullResult
  rw [State.failsChan_judged (congrArg ChanGauge.judged hchan), hchan, htdc, State.updTdc_same]
  exact ⟨rfl, ⟨rfl, rfl⟩, fun h => ⟨by rw [h]; rfl, hx h⟩, fun h => absurd h (by decide)⟩

theorem State.calibrateChan_gauge (s : State) (c : Nat) (w : CalSet) : ∃ (u : State) (n cause : Nat) (x : Option (Tbl Nat)),
    (s.calibrateChan c w).gauge =
      (u.updCG c fun g => { g with inRun := false, judged := some (n, cause), newCentre := x }).gauge ∧
    (∃ l, u.gauge = (s.updCG c fun g =>
      { g with lineSel := selectCells w.widths, lineTrim := l, lineDll := w.dll % 4096 }).gauge) ∧
    (s.calibrateChan c w).tdc = (s.updTdc c fun y => { y with dllLocked := w.locked, dllStale := false }).tdc ∧
    (w.locked = false → cause ≠ 0 ∧ x = some []) := by
  unfold State.calibrateChan
  dsimp only
  generalize hu : State.updTdc _ c _ = u
  obtain ⟨n, cause, x, hj, hdll, hx⟩ := u.judgeChan_gauge c w.hits w.locked true
  have htdc : (u.judgeChan c w.hits w.locked true).tdc = u.tdc := (u.judgeChan_keeps c w.hits w.locked true).keeps .tdc (by decide)
  refine ⟨u, n, cause, x, hj, ⟨_, by rw [← hu]; rfl⟩, by rw [htdc, ← hu]; rfl, fun h => ?_⟩
  rw [if_neg (hdll h)] at hx
  exact ⟨hdll h, hx⟩

theorem State.calibrateChan_result (s : State) (c : Nat) (w : CalSet) : (s.calibrateChan c w).fullResult false c w := by
  obtain ⟨u, n, cause, x, hg, ⟨_, hu⟩, htdc, hx⟩ := s.calibrateChan_gauge c w
  have hchan := congrArg (fun g : Gauge => g.chans.get c) hg
  change _ = (State.updCG _ c _).gauge.chans.get c at hchan
  rw [State.updCG_same, hu, State.updCG_same] at hchan
  unfold State.fullResult
  rw [State.failsChan_judged (congrArg ChanGauge.judged hchan), hchan, htdc, State.updTdc_same]
  dsimp only
  exact ⟨rfl, ⟨rfl, rfl⟩, fun h => ⟨by simp [(hx h).1], (hx h).2⟩, fun _ => rfl⟩

theorem State.fullChan_result (s : State) (restore : Bool) (sets : List CalSet) (c : Nat) :
    (s.fullChan restore sets c).fullResult restore c (calSetOf sets c) := by
  cases restore
  · exact s.calibrateChan_result c _
  · exact s.restoreChan_result c _

/-- A channel that is done leaves the others, and all of the gauge but the channels, as they are. -/
theorem State.fullChan_others (s : State) (restore : Bool) (sets : List CalSet) (c : Nat) :
    (∃ chans, (s.fullChan restore sets c).gauge = { s.gauge with chans := chans } ∧
      ∀ n, n ≠ c → chans.get n = s.gauge.chans.get n) ∧
      ∀ n, n ≠ c → (s.fullChan restore sets c).tdc.chans.get n = s.tdc.chans.get n := by
  cases restore
  · obtain ⟨u, n, cause, x, hg, ⟨_, hu⟩, htdc, _⟩ := s.calibrateChan_gauge c (calSetOf sets c)
    refine ⟨⟨_, hg.trans (by rw [State.updCG_gauge, hu, State.updCG_gauge]), fun n hn => ?_⟩, fun n hn => ?_⟩
    · rw [Tbl.get_upd_other _ _ _ _ hn, Tbl.get_upd_other _ _ _ _ hn]
    · exact (congrArg (fun x : Tdc => x.chans.get n) htdc).trans (State.updTdc_other _ _ hn)
  · obtain ⟨n, x, hg, htdc, _⟩ := s.restoreChan_gauge c (calSetOf sets c)
    refine ⟨⟨_, hg.trans State.updCG_gauge, fun n hn => Tbl.get_upd_other _ _ _ _ hn⟩, fun n hn => ?_⟩
    exact (congrArg (fun x : Tdc => x.chans.get n) htdc).trans (State.updTdc_other _ _ hn)

/-- The result of a channel is read from what the gauge and the TDC hold of it. -/
theorem State.fullResult_congr {s t : State} {restore : Bool} {c : Nat} {w : CalSet}
    (htdc : t.tdc.chans.get c = s.tdc.chans.get c) (hg : ∃ o, t.gauge.chans.get c = { s.gauge.chans.get c with other := o })
    (h : s.fullResult restore c w) : t.fullResult restore c w := by
  obtain ⟨o, hg⟩ := hg
  unfold State.fullResult at h ⊢
  rw [htdc, State.failsChan_congr (s := s) (by rw [hg]), hg]
  exact h

theorem State.fullJudged_gauge (s : State) (restore : Bool) (r : Nat) (sets : List CalSet) : ∃ chans,
    (s.fullJudged restore r sets).gauge = { s.gauge with chans := chans } := by
  unfold State.fullJudged
  refine List.foldlRecOn _ _ (motive := fun t : State => ∃ chans, t.gauge = { s.gauge with chans := chans }) ⟨_, rfl⟩
    fun t ⟨_, ht⟩ c _ => ?_
  obtain ⟨⟨_, hg, _⟩, _⟩ := t.fullChan_others restore sets c
  exact ⟨_, by rw [hg, ht]⟩

theorem State.fullJudged_result (s : State) (restore : Bool) {r c : Nat} (sets : List CalSet) (hc : c ∈ regionChans r) :
    (s.fullJudged restore r sets).fullResult restore c (calSetOf sets c) :=
  foldl_visits (I := fun _ : State => True) (Q := fun t c => t.fullResult restore c (calSetOf sets c)) (fun _ _ _ => trivial)
    (fun t c _ => t.fullChan_result restore sets c)
    (fun t c n hne _ hq => by
      obtain ⟨⟨_, hg, hn⟩, htdc⟩ := t.fullChan_others restore sets c
      exact State.fullResult_congr (htdc n hne) ⟨_, by rw [hg, hn n hne]⟩ hq) trivial hc

theorem State.fullJudged_now (s : State) (restore : Bool) (r : Nat) (sets : List CalSet) : (s.fullJudged restore r sets).now = s.now :=
  foldl_same State.now fun t c _ => by
    unfold State.fullChan
    split
    · exact (t.restoreChan_keeps c _).keeps .clock (by decide)
    · exact (t.calibrateChan_keeps c _).keeps .clock (by decide)

/-- The end of the engine's work leaves the results of the channels. -/
theorem State.endRun_fullResult {s : State} {restore : Bool} {c : Nat} {w : CalSet} (r kind : Nat) (failed : Bool)
    (h : s.fullResult restore c w) : (s.endRun r kind failed).fullResult restore c w := by
  obtain ⟨_, _, _, _, hg, _, _, hchan, _⟩ := s.endRun_gauge r kind failed
  have htdc : (s.endRun r kind failed).tdc = s.tdc := (s.endRun_keeps r kind failed).keeps .tdc (by decide)
  obtain ⟨o, hc⟩ := hchan c
  exact State.fullResult_congr (by rw [htdc]) ⟨o, by rw [hg, hc]⟩ h

/-- What follows a restore changes the region and the queue alone. -/
theorem State.restoreEnded_gauge (s : State) (r : Nat) : ∃ q regions u, (s.restoreEnded r).gauge =
      { s.gauge with pendingQ := q, regions := regions } ∧
    regions.get r = { s.gauge.regions.get r with
      restoreFull := false, urgent := u, state := (s.gauge.regions.get r).state.queued } := by
  unfold State.restoreEnded
  generalize hv : s.updRegion r _ = v
  obtain ⟨q, regions, hg⟩ := v.queueRun_gauge r false
  obtain ⟨u, hr⟩ := v.queueRun_region r false
  refine ⟨q, regions, u, by rw [hg, ← hv, State.updRegion_gauge], ?_⟩
  rw [hg] at hr
  dsimp only at hr
  rw [hr, ← hv, State.updRegion_same]

theorem State.restoreEnded_fullResult {s : State} {restore : Bool} {c : Nat} {w : CalSet} (r : Nat)
    (h : s.fullResult restore c w) : (s.restoreEnded r).fullResult restore c w := by
  obtain ⟨_, _, _, hg, _⟩ := s.restoreEnded_gauge r
  have htdc : (s.restoreEnded r).tdc = s.tdc :=
    (State.queueRun_keeps _ r false).keeps .tdc (by decide)
  exact State.fullResult_congr (by rw [htdc]) ⟨_, by rw [hg]⟩ h

theorem State.fullDone_result (s : State) (restore : Bool) {r c : Nat} (sets : List CalSet) (hc : c ∈ regionChans r) :
    (s.fullDone restore r sets).fullResult restore c (calSetOf sets c) := by
  have hjudged := s.fullJudged_result restore sets hc
  unfold State.fullDone
  dsimp only
  split
  · exact State.restoreEnded_fullResult _ (State.endRun_fullResult _ _ _ hjudged)
  · exact State.endRun_fullResult _ _ _ hjudged

/-- What the end of full calibration leaves of the engine and of the region `r`. -/
theorem State.fullDone_region (s : State) (restore : Bool) (r : Nat) (sets : List CalSet) :
    (s.fullDone restore r sets).gauge.running = s.gauge.fullQ.head? ∧ (s.fullDone restore r sets).gauge.lastRunEnd = s.now ∧
      ∃ failed u e k st, (s.fullDone restore r sets).gauge.regions.get r =
        { (s.gauge.regions.get r).ended (s.gauge.pendingQ.contains r) s.now (if restore then 2 else 1) failed with
          epochB := e, crcB := k, urgent := u, restoreFull := !restore && (s.gauge.regions.get r).restoreFull, state := st } ∧
        st = if restore || s.gauge.pendingQ.contains r then .pending else .idle := by
  obtain ⟨_, hj⟩ := s.fullJudged_gauge restore r sets
  have hnow := s.fullJudged_now restore r sets
  unfold State.fullDone
  dsimp only
  generalize s.fullJudged restore r sets = u at hj hnow ⊢
  generalize (regionChans r).any u.failsChan = failed
  cases restore
  · obtain ⟨_, _, _, _, hg, hrun, _, _, e, k, hr⟩ := u.endRun_gauge r 1 failed
    rw [hj] at hrun hr
    rw [if_neg Bool.false_ne_true, hg]
    refine ⟨hrun, hnow, failed, (s.gauge.regions.get r).urgent, e, k, _, ?_, rfl⟩
    dsimp only
    rw [hr, hnow]
    rfl
  · obtain ⟨_, _, _, _, hg, hrun, _, _, e, k, hr⟩ := u.endRun_gauge r 2 failed
    obtain ⟨_, _, mark, hq, hqr⟩ := (u.endRun r 2 failed).restoreEnded_gauge r
    rw [hj] at hrun hr
    rw [if_pos rfl, hq, hg]
    refine ⟨hrun, hnow, failed, mark, e, k, _, ?_, rfl⟩
    dsimp only
    rw [hqr, hg]
    dsimp only
    rw [hr, hnow]
    dsimp only [GRegion.ended]
    cases s.gauge.pendingQ.contains r <;> rfl

end Sys2Proof.Machine
end

section
/-!
PROOF. The gauge and the references at a lane-window boundary.
-/
namespace Sys2Proof.Machine

/-! ## Commits (R139, R143) -/

theorem State.readBias_regions (s : State) (l : List Nat) : (s.readBias l).gauge.regions = s.gauge.regions :=
  foldl_same (fun t : State => t.gauge.regions) fun _ _ _ => rfl

/-- A commit of region `r` leaves no commit of it waiting, and the other regions as they are. -/
theorem State.commitRegion_regions (s : State) (r : Nat) :
    ((s.commitRegion r).1.gauge.regions.get r).commitDue = false ∧
      ∀ n, n ≠ r → (s.commitRegion r).1.gauge.regions.get n = s.gauge.regions.get n := by
  unfold State.commitRegion
  dsimp only
  generalize hcs : (regionChans r).filter _ = cs
  generalize hs1 : (regionChans r).foldl _ _ = s1
  have hregions : s1.gauge.regions = s.gauge.regions := by
    have hfold : s1.gauge.regions = (if (s.gauge.regions.get r).commitKind = 0 then s.readBias cs else s).gauge.regions :=
      hs1 ▸ foldl_same (fun t : State => t.gauge.regions) fun _ _ _ => rfl
    rw [hfold]
    split
    · exact s.readBias_regions cs
    · rfl
  generalize hs2 : s1.updRegion r _ = s2
  have h2 : (s2.gauge.regions.get r).commitDue = false ∧ ∀ n, n ≠ r → s2.gauge.regions.get n = s.gauge.regions.get n := by
    rw [← hs2, State.updRegion_same]
    exact ⟨rfl, fun n hn => by rw [State.updRegion_other _ _ hn, hregions]⟩
  obtain ⟨hdue, hothers⟩ := h2
  obtain ⟨_, _, hg, _, ⟨_, _, hr⟩, hn⟩ := (s2.updRegion r fun y =>
    { y with active := !y.active, epoch := y.epochB, crc := y.crcB }).copyOver_recopied r
  generalize hs3 : ite (cs.isEmpty = true) _ _ = s3
  have h3 : (s3.gauge.regions.get r).commitDue = false ∧ ∀ n, n ≠ r → s3.gauge.regions.get n = s.gauge.regions.get n := by
    rw [← hs3]
    split
    · exact ⟨hdue, hothers⟩
    · rw [hg]
      exact ⟨by rw [hr, State.updRegion_same]; exact hdue, fun n hne => by rw [hn n hne, State.updRegion_other _ _ hne, hothers n hne]⟩
  simp only [apply_ite State.gauge, State.raise_gauge, ite_self]
  exact h3

/-- After a boundary's commits no commit of a region waits. -/
theorem State.gaugeCommit_commitDue (s : State) {r : Nat} (h : r < 21) : (s.gaugeCommit.1.gauge.regions.get r).commitDue = false := by
  unfold State.gaugeCommit
  dsimp only
  refine foldl_visits (I := fun _ : State × List (Nat × Int) => True) (Q := fun a r => (a.1.gauge.regions.get r).commitDue = false)
    (fun _ _ _ => trivial) (fun a r _ => ?_) (fun a r n hne _ hq => ?_) trivial (List.mem_range.mpr h)
  · split
    · exact (a.1.commitRegion_regions r).1
    · rename_i hnot
      simpa using hnot
  · split
    · dsimp only
      rwa [(a.1.commitRegion_regions r).2 n hne]
    · exact hq

/-! ## What waits for the references (R163) -/

/-- The reference configurations that wait for a boundary. -/
def State.waitingCfg (s : State) : List Instr := s.ref.pendingCfg

theorem State.waitingCfg_of_ref {s t : State} (h : t.ref = s.ref) : t.waitingCfg = s.waitingCfg := congrArg Ref.pendingCfg h

@[simp] theorem State.raise_waitingCfg (s : State) (src cause : Nat) (data : List Fld) (inj : Bool) :
    (s.raise src cause data inj).waitingCfg = s.waitingCfg := State.waitingCfg_of_ref State.raise_ref

@[simp] theorem State.updSlot_waitingCfg (s : State) (n : Nat) (f : RefSlot → RefSlot) :
    (s.updSlot n f).waitingCfg = s.waitingCfg := rfl

@[simp] theorem State.slotTo_waitingCfg (s : State) (n : Nat) (st : SlotState) : (s.slotTo n st).waitingCfg = s.waitingCfg := rfl

@[simp] theorem State.estimate_waitingCfg (s : State) : s.estimate.waitingCfg = s.waitingCfg := rfl

@[simp] theorem State.approach_waitingCfg (s : State) (goal : Int) : (s.approach goal).waitingCfg = s.waitingCfg := rfl

@[simp] theorem State.takeFree_waitingCfg (s : State) : s.takeFree.2.waitingCfg = s.waitingCfg := rfl

@[simp] theorem State.measureXo_waitingCfg (s : State) : s.measureXo.waitingCfg = s.waitingCfg := rfl

@[simp] theorem State.dpllTo_waitingCfg (s : State) (st : DState) (sel : Option Nat) (cause : Nat) :
    (s.dpllTo st sel cause).waitingCfg = s.waitingCfg := State.raise_waitingCfg _ _ _ _ _

@[simp] theorem State.refreshLevel_waitingCfg (s : State) : s.refreshLevel.waitingCfg = s.waitingCfg := by
  obtain ⟨_, _, _, _, _, h⟩ := s.refreshLevel_ref
  exact (congrArg Ref.pendingCfg h).trans rfl

/-- A configuration that takes effect leaves those that wait. -/
@[simp] theorem State.applyRef_waitingCfg (s : State) (i : Instr) : (s.applyRef i).waitingCfg = s.waitingCfg := by
  unfold State.applyRef
  split
  · simp only [apply_ite State.waitingCfg, State.raise_waitingCfg, State.updSlot_waitingCfg, ite_self]
  · rfl
  · rfl
  · unfold State.refCommand
    split <;> rfl
  · rfl
  · rfl
  · rfl

@[simp] theorem State.publish_waitingCfg (s : State) (n : Nat) (m : Meas) : (s.publish n m).waitingCfg = s.waitingCfg := by
  unfold State.publish
  simp only [apply_ite State.waitingCfg, State.raise_waitingCfg, State.updSlot_waitingCfg, ite_self]

@[simp] theorem State.publishSlot_waitingCfg (s : State) (t n : Nat) : (s.publishSlot t n).waitingCfg = s.waitingCfg := by
  have hfold : ∀ {α : Type} (u : State) (l : List α) (m : α → Meas),
      (l.foldl (fun s v => s.publish n (m v)) u).waitingCfg = u.waitingCfg :=
    fun u l m => foldl_same State.waitingCfg fun s v _ => s.publish_waitingCfg n (m v)
  unfold State.publishSlot
  dsimp only
  split
  · rfl
  · split
    · split
      · exact State.publish_waitingCfg _ _ _
      · rfl
    · split
      · exact hfold _ _ _
      · split
        · exact hfold _ _ _
        · split
          · split
            · exact State.publish_waitingCfg _ _ _
            · rfl
          · rfl

/-- A commit of the gauge moves slots alone. -/
@[simp] theorem State.commitBuildout_waitingCfg (s : State) (c : Nat) (d : Int) :
    (s.commitBuildout c d).waitingCfg = s.waitingCfg := by
  unfold State.commitBuildout
  refine (foldl_same State.waitingCfg fun t n _ => ?_).trans ?_
  · dsimp only
    split <;> rfl
  · split <;> rfl

@[simp] theorem State.slotFail_waitingCfg (s : State) (n cause : Nat) : (s.slotFail n cause).waitingCfg = s.waitingCfg := by
  unfold State.slotFail
  split
  · exact State.raise_waitingCfg _ _ _ _ _
  · exact State.raise_waitingCfg _ _ _ _ _
  · rfl
  · rfl

@[simp] theorem State.slotStep_waitingCfg (s : State) (n : Nat) : (s.slotStep n).waitingCfg = s.waitingCfg := by
  unfold State.slotStep
  dsimp only
  split
  · simp only [apply_ite State.waitingCfg, State.updSlot_waitingCfg, State.slotTo_waitingCfg, ite_self]
  · split
    · rfl
    · split <;> simp only [apply_ite State.waitingCfg, State.raise_waitingCfg, State.updSlot_waitingCfg, State.slotTo_waitingCfg,
        State.slotFail_waitingCfg, ite_self]

@[simp] theorem State.tieStep_waitingCfg (s : State) (n : Nat) : (s.tieStep n).waitingCfg = s.waitingCfg := by
  unfold State.tieStep
  simp only [apply_ite State.waitingCfg, State.raise_waitingCfg, State.updSlot_waitingCfg, ite_self]

@[simp] theorem State.enterHoldover_waitingCfg (s : State) (xo : Bool) : (s.enterHoldover xo).waitingCfg = s.waitingCfg := by
  unfold State.enterHoldover
  simp only [apply_ite State.waitingCfg, State.raise_waitingCfg, State.dpllTo_waitingCfg, ite_self]
  rfl

@[simp] theorem State.startSwitch_waitingCfg (s : State) (n : Nat) : (s.startSwitch n).waitingCfg = s.waitingCfg :=
  State.dpllTo_waitingCfg _ _ _ _

@[simp] theorem State.selectStep_waitingCfg (s : State) : s.selectStep.waitingCfg = s.waitingCfg := by
  unfold State.selectStep
  dsimp only
  split
  · rfl
  · split
    · exact State.dpllTo_waitingCfg _ _ _ _
    · rfl
    · split
      · split
        · exact s.startSwitch_waitingCfg _
        · exact s.enterHoldover_waitingCfg _
      · rfl
    · exact s.startSwitch_waitingCfg _
    · rfl
    · split
      · rfl
      · exact s.startSwitch_waitingCfg _
    · exact s.enterHoldover_waitingCfg _

theorem State.setHistory_waitingCfg (s : State) (l : List (Nat × Int)) :
    ({ s with ref := { s.ref with history := l } } : State).waitingCfg = s.waitingCfg := rfl

@[simp] theorem State.keepWindow_waitingCfg (s : State) (n : Nat) : (s.keepWindow n).waitingCfg = s.waitingCfg := by
  unfold State.keepWindow
  split
  · rfl
  · exact (State.estimate_waitingCfg _).trans (s.setHistory_waitingCfg _)

/-- The bandwidth in use on slot `n` is noted. -/
def State.bwNoted (s : State) (n : Nat) : State :=
  let s0 := { s with ref := { s.ref with bwUse := (s.bandwidth n).1, bwLimited := (s.bandwidth n).2 } }
  if (s.bandwidth n).2 && !s.ref.bwLimited then s0.raise 808 Ev.bwLimited else s0

theorem State.bwNoted_waitingCfg (s : State) (n : Nat) : (s.bwNoted n).waitingCfg = s.waitingCfg := by
  unfold State.bwNoted
  dsimp only
  rw [apply_ite State.waitingCfg, State.raise_waitingCfg, ite_self]
  rfl

/-- ROOT moves by the loop's free values, which are drawn in `u`. -/
def State.loopMoved (s u : State) (n : Nat) : State :=
  let e := s.phaseNow n - (s.ref.slots.get n).buildout
  let goal : Int := (Config.loopFilter (s.bandwidth n).1 e u.takeFree.2.free % 28147497671 : Nat) - 14073748835
  let v := u.takeFree.2.takeFree.2.approach
    (if s.beyondPull n then (if 0 ≤ (s.ref.slots.get n).yr then 14073748835 else -14073748835) else goal)
  { v with ref := { v.ref with errPhase := e, errFilt := signedOf 64 (Config.loopFilter (s.bandwidth n).1 e u.free) } }

theorem State.loopMoved_waitingCfg (s u : State) (n : Nat) : (s.loopMoved u n).waitingCfg = u.waitingCfg := by
  have hmoved : (s.loopMoved u n).waitingCfg = (u.takeFree.2.takeFree.2.approach (if s.beyondPull n then
      (if 0 ≤ (s.ref.slots.get n).yr then 14073748835 else -14073748835) else
        (Config.loopFilter (s.bandwidth n).1 (s.phaseNow n - (s.ref.slots.get n).buildout) u.takeFree.2.free % 28147497671 : Nat) -
          14073748835)).waitingCfg := rfl
  rw [hmoved, State.approach_waitingCfg, State.takeFree_waitingCfg, State.takeFree_waitingCfg]

/-- What the loop's error decides once ROOT has moved. -/
def State.loopJudged (s u : State) (n : Nat) : State :=
  let e := s.phaseNow n - (s.ref.slots.get n).buildout
  match u.ref.state with
  | .acquire =>
    if e.natAbs < s.ref.lockThr ∧ (s.ref.slots.get n).yr.natAbs < 256 then
      let t := s.ref.lockSince.getD s.now
      if t + secC ≤ s.now then u.dpllTo .locked (some n) else { u with ref := { u.ref with lockSince := some t } }
    else { u with ref := { u.ref with lockSince := none } }
  | .locked =>
    if s.ref.lossThr < e.natAbs then (u.dpllTo .acquire (some n)).raise 808 Ev.dpllLockLoss
    else u.keepWindow n
  | _ => u

theorem State.loopJudged_waitingCfg (s u : State) (n : Nat) : (s.loopJudged u n).waitingCfg = u.waitingCfg := by
  unfold State.loopJudged
  dsimp only
  split
  · split
    · split
      · exact u.dpllTo_waitingCfg _ _ _
      · rfl
    · rfl
  · split
    · rw [State.raise_waitingCfg, State.dpllTo_waitingCfg]
    · exact u.keepWindow_waitingCfg n
  · rfl

theorem State.loopStep_eq (s : State) (n : Nat) : s.loopStep n =
    if !(s.ref.slots.get n).measured then s.bwNoted n
    else if (s.ref.slots.get n).hitting then
      ((s.bwNoted n).estimate.approach (s.bwNoted n).estimate.ref.holdEst).keepWindow n
    else s.loopJudged (s.loopMoved (s.bwNoted n) n) n := rfl

@[simp] theorem State.loopStep_waitingCfg (s : State) (n : Nat) : (s.loopStep n).waitingCfg = s.waitingCfg := by
  rw [State.loopStep_eq]
  split
  · exact s.bwNoted_waitingCfg n
  · split
    · rw [State.keepWindow_waitingCfg, State.approach_waitingCfg, State.estimate_waitingCfg, State.bwNoted_waitingCfg]
    · rw [State.loopJudged_waitingCfg, State.loopMoved_waitingCfg, State.bwNoted_waitingCfg]

@[simp] theorem State.dpllStep_waitingCfg (s : State) : s.dpllStep.waitingCfg = s.waitingCfg := by
  unfold State.dpllStep
  split
  · exact s.loopStep_waitingCfg _
  · exact s.loopStep_waitingCfg _
  · rfl
  · split <;> rfl
  · rfl

@[simp] theorem State.xoRange_waitingCfg (s : State) : s.xoRange.waitingCfg = s.waitingCfg := by
  unfold State.xoRange
  split
  · dsimp only
    rw [apply_ite State.waitingCfg, State.raise_waitingCfg, ite_self]
    rfl
  · rfl

/-- A switch that was under way is over at the boundary (R167). -/
def State.switchOver (s : State) : State :=
  if s.ref.state = .switching then ({ s with ref := { s.ref with switchTo := none } }).dpllTo .locked s.ref.selected else s

@[simp] theorem State.switchOver_waitingCfg (s : State) : s.switchOver.waitingCfg = s.waitingCfg := by
  unfold State.switchOver
  split
  · exact State.dpllTo_waitingCfg _ _ _ _
  · rfl

theorem State.refBoundary_eq (s : State) (t : Nat) (commits : List (Nat × Int)) : s.refBoundary t commits =
    (allSlots.foldl State.tieStep (allSlots.foldl State.slotStep (commits.foldl (fun s c => s.commitBuildout c.1 c.2)
      (allSlots.foldl (fun s n => s.publishSlot t n) (s.ref.pendingCfg.foldl State.applyRef
        { s with ref := { s.ref with pendingCfg := [] } })).measureXo).switchOver)).selectStep.dpllStep.xoRange.refreshLevel := rfl

/-- The steps of R163 leave no reference configuration waiting. -/
theorem State.refBoundary_waitingCfg (s : State) (t : Nat) (commits : List (Nat × Int)) :
    (s.refBoundary t commits).waitingCfg = [] := by
  have happly : ∀ (l : List Instr) (u : State), (l.foldl State.applyRef u).waitingCfg = u.waitingCfg := fun _ _ =>
    foldl_same State.waitingCfg fun v i _ => v.applyRef_waitingCfg i
  have hpublish : ∀ (l : List Nat) (u : State), (l.foldl (fun s n => s.publishSlot t n) u).waitingCfg = u.waitingCfg := fun _ _ =>
    foldl_same State.waitingCfg fun v n _ => v.publishSlot_waitingCfg t n
  have hcommit : ∀ u : State, (commits.foldl (fun s c => s.commitBuildout c.1 c.2) u).waitingCfg = u.waitingCfg := fun _ =>
    foldl_same State.waitingCfg fun v c _ => v.commitBuildout_waitingCfg c.1 c.2
  have hslots : ∀ (l : List Nat) (u : State), (l.foldl State.slotStep u).waitingCfg = u.waitingCfg := fun _ _ =>
    foldl_same State.waitingCfg fun v n _ => v.slotStep_waitingCfg n
  have hties : ∀ (l : List Nat) (u : State), (l.foldl State.tieStep u).waitingCfg = u.waitingCfg := fun _ _ =>
    foldl_same State.waitingCfg fun v n _ => v.tieStep_waitingCfg n
  rw [State.refBoundary_eq, State.refreshLevel_waitingCfg, State.xoRange_waitingCfg, State.dpllStep_waitingCfg,
    State.selectStep_waitingCfg, hties, hslots, State.switchOver_waitingCfg, hcommit, State.measureXo_waitingCfg, hpublish, happly]
  rfl

/-! ## The boundary -/

/-- The gauge's part in a boundary. -/
def State.boundaryCommits (s : State) : State × List (Nat × Int) := s.ptpBoundary.closeLaneWindows.gaugeCommit

/-- The part of PTP and of the timescale, with the outputs that follow it. -/
def State.boundaryTime (s : State) (t : Nat) : State :=
  let a := s.dualBoundary.servoChoose.timeBoundary t
  a.s.outputsFollow a

/-- The part of the machine clocks, and the window length. -/
def State.boundaryClocks (s : State) (commits : List (Nat × Int)) (t : Nat) : State := (s.clockBoundary commits).applyLaneWin t

theorem State.boundary_eq (s : State) (t : Nat) : s.boundary t =
    ((s.boundaryCommits.1.refBoundary t s.boundaryCommits.2).boundaryTime t).boundaryClocks s.boundaryCommits.2 t := rfl

theorem State.timePart_keeps (s : State) (t : Nat) :
    goesOn [.cmd, .hostMem, .lanes, .selv, .tdc, .time, .ptp, .pair, .fw, .mbs, .fence, .events] s
      (s.dualBoundary.servoChoose.timeBoundary t).s :=
  State.timeBoundary_on (State.servoChoose_on (State.dualBoundary_on (.refl _ _) (by decide)) (by decide)) (by decide)

theorem State.boundaryTime_keeps (s : State) (t : Nat) :
    goesOn [.cmd, .hostMem, .lanes, .selv, .tdc, .ref, .time, .ptp, .pair, .fw, .mbs, .fence, .events] s (s.boundaryTime t) :=
  State.outputsFollow_on ((s.timePart_keeps t).mono (by decide)) (by decide)

theorem State.boundaryTime_waitingCfg (s : State) (t : Nat) : (s.boundaryTime t).waitingCfg = s.waitingCfg := by
  have href : (s.dualBoundary.servoChoose.timeBoundary t).s.ref = s.ref := (s.timePart_keeps t).keeps .ref (by decide)
  have hfollow : ∀ a : TimeAcc, (a.s.outputsFollow a).waitingCfg = a.s.waitingCfg := fun _ => rfl
  exact (hfollow _).trans (State.waitingCfg_of_ref href)

theorem State.boundaryClocks_keeps (s : State) (commits : List (Nat × Int)) (t : Nat) :
    goesOn [.free, .lanes, .selv, .tdc, .stitch, .fence, .events] s (s.boundaryClocks commits t) :=
  State.applyLaneWin_on (s.clockBoundary_keeps commits) (by decide)

/-- The rest of a boundary's work leaves what the commits made of the gauge. -/
theorem State.boundary_gauge (s : State) (t : Nat) : (s.boundary t).gauge = s.boundaryCommits.1.gauge := by
  have href := (s.boundaryCommits.1.refBoundary_keeps t s.boundaryCommits.2).keeps .gauge (by decide)
  have htime := ((s.boundaryCommits.1.refBoundary t s.boundaryCommits.2).boundaryTime_keeps t).keeps .gauge (by decide)
  have hclocks := (State.boundaryClocks_keeps ((s.boundaryCommits.1.refBoundary t s.boundaryCommits.2).boundaryTime t)
    s.boundaryCommits.2 t).keeps .gauge (by decide)
  rw [State.boundary_eq]
  exact (hclocks.trans htime).trans href

theorem State.boundary_waitingCfg (s : State) (t : Nat) : (s.boundary t).waitingCfg = [] := by
  have hclocks := (State.boundaryClocks_keeps ((s.boundaryCommits.1.refBoundary t s.boundaryCommits.2).boundaryTime t)
    s.boundaryCommits.2 t).keeps .ref (by decide)
  rw [State.boundary_eq, State.waitingCfg_of_ref hclocks, State.boundaryTime_waitingCfg, State.refBoundary_waitingCfg]

theorem State.le_advanceTick_now {s : State} (h : s.time.tickOn = true) (t : Nat) : s.time.tick0 + t ≤ (s.advanceTick t).now := by
  unfold State.advanceTick
  rw [if_pos h]
  exact s.le_advance_now _

end Sys2Proof.Machine
end

section
/-!
PROOF. What the rows of the gauge, and the one of a lane-window boundary, leave behind.
-/
namespace Sys2Proof.Machine

/-! ## What a row leaves of its region and its channels -/

/-- A run that has started has the engine, and its region is RUNNING and STALE until the run's timeout. -/
theorem State.runStarted_gauge (s : State) (r : Nat) (q : List Nat) :
    (s.runStarted r q).gauge.running = some r ∧ (s.runStarted r q).gauge.pendingQ = q ∧
      s.gauge.lastRunEnd + 10 * msC ≤ (s.runStarted r q).now ∧
      (s.runStarted r q).gauge.regions.get r = { s.gauge.regions.get r with
        state := .running, stale := true, urgent := false, tSum := 0, tCount := 0, runStart := (s.runStarted r q).now
        runEnd := some ((s.runStarted r q).now + cyclesOf s.gauge.runTimeout) } := by
  obtain ⟨⟨_, hg⟩, hnow⟩ := s.runPrepared_gauge r
  refine ⟨rfl, rfl, hnow, ?_⟩
  have htimeout : (s.runPrepared r).gauge.runTimeout = s.gauge.runTimeout := by rw [hg]
  unfold State.runStarted
  dsimp only
  rw [Tbl.get_set_same, htimeout]

theorem State.runStarted_chan (s : State) {r c : Nat} (q : List Nat) (h : c ∈ regionChans r) :
    ((s.runStarted r q).gauge.chans.get c).hist = [] ∧ ((s.runStarted r q).gauge.chans.get c).inRun = s.takesPart c :=
  s.runPrepared_chan h

/-- What the end of a run leaves of the engine and of the region. -/
theorem State.runDone_region (s : State) (r : Nat) (injected : List Injected) :
    (s.runDone r injected).gauge.running = s.gauge.fullQ.head? ∧ (s.runDone r injected).gauge.fullQ = s.gauge.fullQ.tail ∧
      (s.runDone r injected).gauge.lastRunEnd = (s.runDone r injected).now ∧
      ∃ e k, (s.runDone r injected).gauge.regions.get r =
        { (s.gauge.regions.get r).ended (s.gauge.pendingQ.contains r) (s.runDone r injected).now 0
            ((s.runChans r).any (s.runJudged r injected).failsChan) with epochB := e, crcB := k } := by
  obtain ⟨_, hj⟩ := s.runJudged_gauge r injected
  unfold State.runDone
  generalize s.runJudged r injected = u at hj ⊢
  generalize (s.runChans r).any u.failsChan = failed
  have hnow : (u.endRun r 0 failed).now = u.now := (u.endRun_keeps r 0 failed).keeps .clock (by decide)
  obtain ⟨_, _, _, _, hg, hrun, hfull, _, e, k, hr⟩ := u.endRun_gauge r 0 failed
  rw [hj] at hrun hfull hr
  rw [hg, hnow]
  exact ⟨hrun, hfull, rfl, e, k, hr⟩

/-- The region is marked failed exactly where a channel that took part fails. -/
theorem State.runDone_failed (s : State) (r : Nat) (injected : List Injected) :
    ((s.runDone r injected).gauge.regions.get r).failed =
      ((regionChans r).any fun d => (s.gauge.chans.get d).inRun && (s.runDone r injected).failsChan d) := by
  obtain ⟨_, _, _, _, _, hr⟩ := s.runDone_region r injected
  have hfails : (s.runDone r injected).failsChan = (s.runJudged r injected).failsChan :=
    funext fun d => State.endRun_failsChan _ r 0 _ d
  rw [hr, hfails]
  unfold State.runChans
  rw [List.any_filter]
  rfl

theorem State.endRun_runResult {s : State} {c : Nat} (r kind : Nat) (failed : Bool) (h : s.runResult c) :
    (s.endRun r kind failed).runResult c := by
  obtain ⟨_, _, _, _, hg, _, _, hchan, _⟩ := s.endRun_gauge r kind failed
  have hevents : (s.endRun r kind failed).events = s.events := (s.endRun_keeps r kind failed).keeps .events (by decide)
  obtain ⟨_, hc⟩ := hchan c
  unfold State.runResult
  rw [State.endRun_failsChan, hevents, hg]
  dsimp only
  rw [hc]
  exact h

theorem State.runDone_result {s : State} {r c : Nat} (injected : List Injected) (hc : c ∈ regionChans r)
    (hrun : (s.gauge.chans.get c).inRun = true) : (s.runDone r injected).runResult c :=
  State.endRun_runResult _ _ _ (State.runJudged_result injected hc hrun)

/-- The state in which region `r` reports that it has no valid sensor and is queued. -/
def State.tempReported (s : State) (r : Nat) : State :=
  ((s.tempLostNow r).raise (regionSrc r) Ev.gaugeTempUnavailable [.u 2 r]).queueRun r false

theorem State.tempReported_keeps (s : State) (r : Nat) : goesOn [.gauge, .fence, .events] s (s.tempReported r) :=
  State.queueRun_on (State.raise_on (State.updRegion_on (.refl _ _) (by decide)) (by decide)) (by decide)

theorem State.tempReported_region {s : State} {r : Nat} (h : (s.gauge.regions.get r).state = .idle) :
    (s.tempReported r).hasRaised (regionSrc r) Ev.gaugeTempUnavailable = true ∧
      ((s.tempReported r).gauge.regions.get r).tempLost = some s.now ∧ ((s.tempReported r).gauge.regions.get r).state = .pending ∧
      (s.tempReported r).gauge.pendingQ.contains r = true := by
  unfold State.tempReported
  rw [State.queueRun_hasRaised, State.raise_region_hasRaised, State.queueRun_tempLost, State.raise_gauge, State.tempLostNow_region]
  refine ⟨rfl, rfl, State.queueRun_idle false ?_⟩
  rw [State.raise_gauge, State.tempLostNow_region]
  exact h

/-- Region `r` is queued at `n`, for it still has no valid sensor. -/
def State.tempQueued (s : State) (r n : Nat) : State := ((s.advance n).tempLostNow r).queueRun r false

theorem State.tempQueued_region {s : State} {r : Nat} (n : Nat) (h : (s.gauge.regions.get r).state = .idle) :
    n ≤ (s.tempQueued r n).now ∧ ((s.tempQueued r n).gauge.regions.get r).tempLost = some (s.tempQueued r n).now ∧
      ((s.tempQueued r n).gauge.regions.get r).state = .pending ∧ (s.tempQueued r n).gauge.pendingQ.contains r = true := by
  have hnow : (s.tempQueued r n).now = (s.advance n).now := State.queueRun_now _ r false
  rw [hnow]
  unfold State.tempQueued
  rw [State.queueRun_tempLost, State.tempLostNow_region]
  refine ⟨s.le_advance_now n, rfl, State.queueRun_idle false ?_⟩
  rw [State.tempLostNow_region, State.advance_gauge]
  exact h

theorem State.dllRelocked_gauge (s : State) (c : Nat) : (s.dllRelocked c).gauge = s.gauge := State.raise_gauge

theorem State.dllRelocked_tdc (s : State) (c : Nat) : (s.dllRelocked c).tdc =
    { s.tdc with chans := s.tdc.chans.upd c fun x => { x with dllLocked := true, dllTimer := none, dllStale := true } } :=
  State.raise_tdc

theorem State.raise_chan_hasRaised (s : State) {c : Nat} (cause : Nat) (h : c < 320) :
    (s.raise (tdcSrc c) cause).hasRaised (tdcSrc c) cause = true :=
  s.raise_hasRaised _ _ _ (by unfold tdcSrc; omega) (by unfold tdcSrc; omega)

/-- A region that is neither OFF nor FULL is queued ahead of the others. -/
theorem State.queueRun_ahead {s : State} {r : Nat} (hoff : (s.gauge.regions.get r).state ≠ .off)
    (hfull : (s.gauge.regions.get r).state ≠ .full) :
    ((s.queueRun r true).gauge.regions.get r).urgent = true ∧ (s.queueRun r true).gauge.pendingQ.contains r = true :=
  ⟨State.queueRun_urgent hoff hfull, List.contains_iff_mem.mpr (State.mem_queueRun true hoff hfull)⟩

theorem State.runDue_le (s : State) (y : GRegion) {n : Nat} (h : s.runDue y ≤ n) :
    (if s.gauge.periodic = 0 then decide (y.lastEnd + cyclesOf s.gauge.retry ≤ n)
      else if y.failed = false then decide (y.lastEnd + cyclesOf s.gauge.periodic ≤ n)
      else decide (y.lastEnd + min (cyclesOf s.gauge.periodic) (cyclesOf s.gauge.retry) ≤ n)) = true := by
  unfold State.runDue at h
  split
  · rename_i hp
    rw [if_pos hp] at h
    exact decide_eq_true h
  · rename_i hp
    rw [if_neg hp] at h
    split
    · rename_i hf
      rw [if_pos hf] at h
      exact decide_eq_true h
    · rename_i hf
      rw [if_neg hf] at h
      exact decide_eq_true h

/-! ## Copies (R144) -/

theorem State.reported_gauge (s : State) (r cause : Nat) : (s.reported r cause).gauge = s.gauge := State.raise_gauge

/-- The copies' greater epoch is that of both copies once one of them has been made from the other. -/
theorem State.newerCopied_epochs {s : State} {r bEpoch : Nat} (found : List (Nat × List Nat)) {u : State}
    (hu : u = if (s.gauge.regions.get r).epoch < bEpoch then s.takeSecond r bEpoch found else s.copyOver r) :
    (u.gauge.regions.get r).epoch = max (s.gauge.regions.get r).epoch bEpoch ∧
      (u.gauge.regions.get r).epochB = max (s.gauge.regions.get r).epoch bEpoch := by
  rw [hu]
  split
  · rename_i hlt
    rw [Nat.max_eq_right (Nat.le_of_lt hlt)]
    obtain ⟨ha, hb, _⟩ := s.takeSecond_region r bEpoch found
    exact ⟨ha, hb⟩
  · rename_i hge
    rw [Nat.max_eq_left (Nat.le_of_not_lt hge)]
    obtain ⟨hb, ha⟩ := s.copyOver_epochs r
    exact ⟨ha, hb⟩

/-! ## The lane-window boundary (R163) -/

/-- TICK goes to the next multiple of the window, and the boundary's work is done there. -/
def State.nextWindow (s : State) : State := (s.advanceTick (s.nextBoundary s.tick)).boundary (s.nextBoundary s.tick)

theorem exec_laneWindowBoundary_on {s : State} (h : s.time.tickOn = true) : exec .laneWindowBoundary s = .next s.nextWindow := by
  change execLaneWindowBoundary s = _
  unfold execLaneWindowBoundary
  rw [if_neg (by simp [h])]
  rfl

theorem exec_laneWindowBoundary_off {s : State} (h : s.time.tickOn = false) : exec .laneWindowBoundary s = .next s := by
  change execLaneWindowBoundary s = _
  unfold execLaneWindowBoundary
  rw [if_pos (by simp [h])]

theorem State.nextWindow_now {s : State} (h : s.time.tickOn = true) : s.time.tick0 + s.nextBoundary s.tick ≤ s.nextWindow.now := by
  have hnow : s.nextWindow.now = (s.advanceTick (s.nextBoundary s.tick)).now :=
    (State.boundary_keeps _ _).keeps .clock (by decide)
  rw [hnow]
  exact State.le_advanceTick_now h _

theorem State.nextWindow_commitDue (s : State) {r : Nat} (h : r < 21) : (s.nextWindow.gauge.regions.get r).commitDue = false := by
  unfold State.nextWindow
  rw [State.boundary_gauge]
  exact State.gaugeCommit_commitDue _ h

theorem State.nextWindow_waitingCfg (s : State) : s.nextWindow.waitingCfg = [] := by
  unfold State.nextWindow
  exact State.boundary_waitingCfg _ _

/-! ## The statement -/

/-- Settles O29, row by row: the state each leads to, and then what that state holds. -/
theorem gaugeRows : Obligations.GaugeRows := by
  unfold Obligations.GaugeRows
  refine ⟨?_, ?_, ?_, ?_, ?_, ?_, ?_, ?_, ?_, ?_, ?_, ?_, ?_, ?_, ?_, ?_, ?_, ?_, ?_, ?_, ?_, ?_, ?_, ?_, ?_, ?_, ?_, ?_, ?_, ?_⟩
  · intro n s h
    exact exec_next_within (exec_gaugeHoldLapse_held h) (execGaugeHoldLapse_keeps s)
      ⟨by dsimp only; rw [State.advance_gauge], s.le_advance_now n⟩
  · intro s h
    exact exec_next_same (exec_gaugeHoldLapse_idle h)
  · rintro value _ s ⟨hv, rfl, hc⟩
    refine exec_next_within (exec_stageLoad_loads hv hc) (execStageLoad_keeps value s) ?_
    have hchan := s.stagedAsActive_chan
    refine ⟨by rw [hchan], by rw [hchan], by rw [hchan], List.all_eq_true.mpr fun k hk => decide_eq_true ?_, rfl⟩
    exact s.stagedAsActive_centre (List.mem_range.mp hk)
  · intro value s h
    exact exec_next_same (exec_stageLoad_idle h)
  · rintro n l _ s ⟨hq, hrun, rfl, h⟩
    obtain ⟨hengine, hqueue, hnow, hregion⟩ := s.runStarted_gauge n l
    refine exec_next_within (exec_gaugeRunStart_starts hq hrun h) (execGaugeRunStart_keeps s) ?_
    rw [hregion, List.all_eq_true]
    exact ⟨hengine, hqueue, rfl, rfl, rfl, rfl, hnow, fun c hc => decide_eq_true (s.runStarted_chan l hc)⟩
  · intro s h
    exact exec_next_same (exec_gaugeRunStart_idle h)
  · rintro injected n _ s ⟨hrun, rfl, hst, hinj⟩
    obtain ⟨hengine, hfull, hend, _, _, hregion⟩ := s.runDone_region n injected
    refine exec_next_within (exec_gaugeRunEnd_ends hrun hst hinj) (execGaugeRunEnd_keeps injected s) ?_
    rw [hregion]
    exact ⟨hengine, hfull, rfl, rfl, rfl, rfl, hend⟩
  · rintro injected n c s ⟨hrun, hst, hinj, hc, hin⟩
    obtain ⟨hout, hresult⟩ := State.runDone_result injected (List.contains_iff_mem.mp hc) hin
    refine exec_next_within (exec_gaugeRunEnd_ends hrun hst hinj) (execGaugeRunEnd_keeps injected s) ?_
    exact ⟨hout, s.runDone_failed n injected, hresult⟩
  · intro injected s h
    refine exec_next_same (exec_gaugeRunEnd_idle fun n hn => ?_)
    rw [hn] at h
    exact of_decide_eq_true h
  · rintro region sets _ s ⟨hr, rfl, hst, hrun⟩
    obtain ⟨hengine, hend, _, _, _, _, _, hregion, hstate⟩ := s.fullDone_region (s.gauge.regions.get region).restoreFull region sets
    refine exec_next_within (exec_fullCalibrationDone_ends hr hst hrun) (execFullCalibrationDone_keeps region sets s) ?_
    rw [hregion]
    refine ⟨rfl, rfl, ?_, hstate, hend, hengine⟩
    exact Bool.not_and_self _
  · rintro region sets c _ s ⟨hr, hst, hrun, hc, rfl⟩
    obtain ⟨hline, ⟨hlock, hstale⟩, hfails, hcells⟩ := s.fullDone_result (s.gauge.regions.get region).restoreFull sets
      (List.contains_iff_mem.mp hc)
    exact exec_next_within (exec_fullCalibrationDone_ends hr hst hrun) (execFullCalibrationDone_keeps region sets s)
      ⟨hline, hlock, hstale, hfails, hcells⟩
  · rintro region sets s ⟨hr, h⟩
    exact exec_next_same (exec_fullCalibrationDone_idle hr h)
  · rintro region _ s ⟨hr, rfl, hidle, h⟩
    have hidle' : ((s.advance (s.runDue (s.gauge.regions.get region))).gauge.regions.get region).state = .idle := by
      rwa [State.advance_gauge]
    obtain ⟨hstate, hqueue⟩ := State.queueRun_idle false hidle'
    refine exec_next_within (exec_gaugePeriodicTimer_due hr hidle h) (execGaugePeriodicTimer_keeps region s)
      ⟨hstate, hqueue, s.runDue_le _ ?_⟩
    rw [State.queueRun_now]
    exact s.le_advance_now _
  · rintro region _ s ⟨hr, rfl, h⟩
    exact exec_next_same (exec_gaugePeriodicTimer_idle hr h)
  · rintro region s ⟨hr, hidle, ht, h⟩
    exact ⟨_, exec_gaugeTempUnavailable_first hr hidle ht h, (s.tempReported_keeps region).keeps, State.tempReported_region hidle⟩
  · rintro region n s ⟨hr, hidle, ht, h⟩
    exact exec_next_within (exec_gaugeTempUnavailable_again hr hidle ht h) (execGaugeTempUnavailable_keeps region s)
      (State.tempQueued_region _ hidle)
  · rintro region s ⟨hr, h⟩
    exact exec_next_same (exec_gaugeTempUnavailable_idle hr h)
  · rintro loss s ⟨hc, hlock, hin, herr⟩
    exact exec_next_within (exec_dllUnlock_loses hc hlock hin herr) (execDllUnlock_keeps loss s)
      ⟨State.raise_tdc, State.raise_chan_hasRaised _ _ hc⟩
  · rintro loss s ⟨hc, h⟩
    exact exec_next_same (exec_dllUnlock_idle hc h)
  · rintro lock n s ⟨hc, hlock, hin, hr, hwithin⟩
    have htdc : ((s.dllRelocked lock.ch).queueRun n true).tdc = (s.dllRelocked lock.ch).tdc :=
      (State.queueRun_keeps _ n true).keeps .tdc (by decide)
    refine exec_next_within (exec_dllRelock_locks hc hlock hin hr hwithin) (execDllRelock_keeps lock s)
      ⟨htdc.trans (s.dllRelocked_tdc _), ?_, fun hoff hfull => ?_⟩
    · rw [State.queueRun_hasRaised]
      exact State.raise_chan_hasRaised _ _ hc
    · rw [← s.dllRelocked_gauge lock.ch] at hoff hfull
      exact State.queueRun_ahead hoff hfull
  · rintro lock s ⟨hc, h⟩
    exact exec_next_same (exec_dllRelock_idle hc h)
  · rintro ch n d s ⟨hc, ht, hr⟩
    have hnow : ((s.advance d).enterFull n false).now = (s.advance d).now := (State.enterFull_keeps _ n false).keeps .clock (by decide)
    obtain ⟨hstate, _⟩ := (s.advance d).enterFull_region n false
    obtain ⟨hengine, hqueue⟩ := (s.advance d).enterFull_queues n false
    refine exec_next_within (exec_dllRelockTimeout_fails hc ht hr) (execDllRelockTimeout_keeps ch s)
      ⟨hnow ▸ s.le_advance_now d, hstate, hengine.imp_right List.contains_iff_mem.mpr, ?_,
        State.enterFull_dll _ false (mem_regionChans.mpr hr)⟩
    simpa using hqueue
  · rintro ch s ⟨hc, h⟩
    exact exec_next_same (exec_dllRelockTimeout_idle hc h)
  · rintro region _ _ bEpoch bCentres s ⟨hr, hoff, hdue, rfl, rfl⟩
    obtain ⟨hb, ha⟩ := s.copyOver_epochs region
    refine exec_next_within (exec_gaugeCopyCheck_second_bad hr hoff hdue) (execGaugeCopyCheck_keeps region true false bEpoch bCentres s)
      ⟨State.raise_region_hasRaised .., ?_⟩
    rw [State.reported_gauge, List.all_eq_true]
    exact ⟨hb, ha, fun c hc => decide_eq_true (s.copyOver_chan hc)⟩
  · rintro region _ _ bEpoch bCentres s ⟨hr, hoff, hdue, rfl, rfl⟩
    obtain ⟨hepoch, _, hactive⟩ := s.takeSecond_region region bEpoch bCentres
    refine exec_next_within (exec_gaugeCopyCheck_first_bad hr hoff hdue) (execGaugeCopyCheck_keeps region false true bEpoch bCentres s)
      ⟨State.raise_region_hasRaised .., ?_⟩
    rw [State.reported_gauge, List.all_eq_true]
    exact ⟨hepoch, hactive, fun c hc => decide_eq_true (s.takeSecond_chan bEpoch bCentres hc)⟩
  · rintro region _ _ bEpoch bCentres s ⟨hr, hoff, hdue, rfl, rfl, hne⟩
    refine exec_next_within (exec_gaugeCopyCheck_differ hr hoff hdue hne) (execGaugeCopyCheck_keeps region true true bEpoch bCentres s)
      ⟨State.raise_region_hasRaised .., ?_⟩
    rw [State.reported_gauge]
    exact State.newerCopied_epochs bCentres rfl
  · rintro region _ _ bEpoch bCentres s ⟨hr, hoff, hdue, rfl, rfl⟩
    refine exec_next_within (exec_gaugeCopyCheck_both_bad hr hoff hdue) (execGaugeCopyCheck_keeps region false false bEpoch bCentres s)
      ⟨State.raise_region_hasRaised .., ?_⟩
    rw [State.reported_gauge, List.all_eq_true]
    exact ⟨fun c hc => decide_eq_true (s.loseCopies_chan hc), s.loseCopies_stale region⟩
  · rintro region aOk bOk bEpoch bCentres s ⟨hr, h⟩
    exact exec_next_same (exec_gaugeCopyCheck_idle hr h)
  · intro s h
    refine exec_next_within (exec_laneWindowBoundary_on h) (execLaneWindowBoundary_keeps s)
      ⟨State.nextWindow_now h, ?_, s.nextWindow_waitingCfg⟩
    rw [List.all_eq_true]
    intro r hr
    rw [s.nextWindow_commitDue (List.mem_range.mp hr)]
    rfl
  · intro s h
    exact exec_next_same (exec_laneWindowBoundary_off h)

end Sys2Proof.Machine
end

section
/-!
PROOF. The REF commands.
-/
namespace Sys2Proof.Machine

-- Proofs are checked in the order of the text: with the proofs ahead, more threads at once do not fit in the memory of the check.
set_option Elab.async false

/-! ## Configurations that wait for the boundary (R163, R177) -/

/-- The state in which configuration `j` waits for the next processing boundary behind the others (R163). -/
def State.withPendingCfg (s : State) (j : Instr) : State := { s with ref := { s.ref with pendingCfg := s.ref.pendingCfg ++ [j] } }

/-- A command whose checks lead to a new `ref` completes with that `ref`. -/
theorem completes_ref {i : Instr} {src : CmdSrc} {op : Nat} {s : State} {x : Ref} {res : List Fld} {body : State → Rep}
    (hx : exec i s = .next (s.runCmd i src op body)) (hu : unitLocal i = false) (hop : changesConfig op = false)
    (hb : body s = .ok { s with ref := x } res) : completes i src op s res [.ref] fun t => t.ref = x :=
  completes_ok_beside hx hu hop hb (kset_ref (.refl [.ref] s) (by decide) |>.keeps.mono (by decide)) fun _ ht => ht .ref (by decide)

/-- A command that reads completes with what it reads. -/
theorem completes_reading {i : Instr} {src : CmdSrc} {op : Nat} {s : State} {res : List Fld} {body : State → Rep}
    (hx : exec i s = .next (s.runCmd i src op body)) (hu : unitLocal i = false) (hop : changesConfig op = false)
    (hb : body s = .ok s res) (hacts : s.acts i src op = true) : ∃ t, exec i s = .next t ∧ t.cmd.opcode = op ∧
      t.cmd.status = s.okStatus src op ∧ t.cmd.result = packFrom 16 res ∧ keepsBesideAnswer [] s t :=
  (completes_ok_beside hx hu hop hb (.refl _ _) fun _ _ => trivial).answer hacts

/-! ## REF_CONFIGURE_SLOT (R151) -/

section
variable {enable override esmc : Bool} {slot fNum fDen div edge source prio level : Nat} {acceptLim rejectLim : Int}
  {rejectHold acceptHold hitLim hitBudget coastLim : Nat} {s : State}

/-- The fixed sources of slots 28 to 30 have no parameters; where those are 0, the common checks decide. -/
theorem bodyRefConfigureSlot_eq_rest
    (h : (slot = 28 ∨ slot = 29 ∨ slot = 30) → fNum = 0 ∧ fDen = 0 ∧ div = 0 ∧ edge = 0 ∧ source = 0) :
    bodyRefConfigureSlot enable override esmc slot fNum fDen div edge source prio level acceptLim rejectLim rejectHold acceptHold
        hitLim hitBudget coastLim s =
      bodyRefConfigureSlot.rest enable override esmc slot fNum fDen div edge source prio level acceptLim rejectLim rejectHold
        acceptHold hitLim hitBudget coastLim s (s.ref.slots.get slot) := by
  unfold bodyRefConfigureSlot
  dsimp only
  split
  · rename_i hfixed
    obtain ⟨rfl, rfl, rfl, rfl, rfl⟩ := h hfixed
    exact if_neg (by simp)
  · rfl

variable (hslot : slot < 31) (hsource : (slotSourceOk slot fNum fDen div edge source).all id = true)
  (hprio : 1 ≤ prio ∧ prio ≤ 255 ∧ level < 16)
  (hlim : 256 ≤ acceptLim ∧ acceptLim ≤ 49999 * 256 ∧ acceptLim < rejectLim ∧ 512 ≤ rejectLim ∧ rejectLim ≤ 50000 * 256 ∧
    msU ≤ rejectHold ∧ rejectHold ≤ 10 * secU)
  (hhold : secU ≤ acceptHold ∧ acceptHold ≤ 3600 * secU ∧ 6554 ≤ hitLim ∧ hitLim ≤ 1000 * nsU ∧ 1 ≤ hitBudget ∧ hitBudget ≤ 255 ∧
    secU ≤ coastLim ∧ coastLim ≤ 600 * secU)
include hslot hsource hprio hlim hhold

/-- Every parameter of REF_CONFIGURE_SLOT lies in its range. -/
theorem refConfigureSlot_ranges : ([decide (slot < 31)] ++ slotSourceOk slot fNum fDen div edge source ++
    [decide (1 ≤ prio ∧ prio ≤ 255), decide (level < 16), decide (256 ≤ acceptLim ∧ acceptLim ≤ 49999 * 256 ∧ acceptLim < rejectLim),
     decide (512 ≤ rejectLim ∧ rejectLim ≤ 50000 * 256), decide (msU ≤ rejectHold ∧ rejectHold ≤ 10 * secU),
     decide (secU ≤ acceptHold ∧ acceptHold ≤ 3600 * secU), decide (6554 ≤ hitLim ∧ hitLim ≤ 1000 * nsU),
     decide (1 ≤ hitBudget ∧ hitBudget ≤ 255), decide (secU ≤ coastLim ∧ coastLim ≤ 600 * secU)]).all (fun b => b) = true := by
  have hsource' : (slotSourceOk slot fNum fDen div edge source).all (fun b => b) = true := hsource
  rw [List.all_append, List.all_append, hsource']
  simp only [List.all_cons, List.all_nil, Bool.and_true, Bool.and_eq_true, decide_eq_true_eq]
  omega

/-- A slot that is not selected takes its configuration at the boundary, if its flags and its port allow it. -/
theorem bodyRefConfigureSlot_enters
    (hfixed : (slot = 28 ∨ slot = 29 ∨ slot = 30) → fNum = 0 ∧ fDen = 0 ∧ div = 0 ∧ edge = 0 ∧ source = 0)
    (hesmc : esmc = true → 8 ≤ slot ∧ slot < 24 ∧ (s.ports.get source).isSelvedge = false)
    (hport : 8 ≤ slot ∧ slot < 24 → (s.ports.get source).width = 1 ∧ (enable = true → s.portUp source = true))
    (hsel : s.ref.selected ≠ some slot) :
    bodyRefConfigureSlot enable override esmc slot fNum fDen div edge source prio level acceptLim rejectLim rejectHold acceptHold
        hitLim hitBudget coastLim s =
      .ok (s.withPendingCfg (.refConfigureSlot .direct enable override esmc slot
        (if slot < 8 then fNum else (s.ref.slots.get slot).fNum) (if slot < 8 then fDen else (s.ref.slots.get slot).fDen)
        (if slot < 8 then div else (s.ref.slots.get slot).div) edge source prio level acceptLim rejectLim rejectHold acceptHold hitLim
        hitBudget coastLim)) [] := by
  rw [bodyRefConfigureSlot_eq_rest hfixed]
  unfold bodyRefConfigureSlot.rest
  rw [Rep.ranges_true (refConfigureSlot_ranges hslot hsource hprio hlim hhold)]
  dsimp only
  rw [if_neg, if_neg, if_neg, if_neg]
  · rfl
  · simp only [Bool.and_eq_true, decide_eq_true_eq, Bool.not_eq_true']
    rintro ⟨⟨⟨hlane, henable⟩, -⟩, hdown⟩
    rw [(hport hlane).2 henable] at hdown
    exact Bool.noConfusion hdown
  · simp only [Bool.and_eq_true, decide_eq_true_eq]
    exact fun ⟨hlane, hwidth⟩ => hwidth (hport hlane).1
  · simp [hsel]
  · simp only [Bool.and_eq_true, Bool.not_eq_true', Bool.and_eq_false_iff, decide_eq_false_iff_not, Bool.not_eq_false']
    rintro ⟨hon, hoff⟩
    obtain ⟨hlow, hhigh, hether⟩ := hesmc hon
    rcases hoff with hlane | hselvedge
    · exact hlane ⟨hlow, hhigh⟩
    · rw [hether] at hselvedge
      exact Bool.noConfusion hselvedge

/-- A lane slot takes no port of several lanes, no other source while it is selected, and is not enabled on a port that is not UP. -/
theorem bodyRefConfigureSlot_refuses (hlane : 8 ≤ slot ∧ slot < 24) (hesmc : esmc = false)
    (h : (s.ports.get source).width ≠ 1 ∨ s.ref.selected = some slot ∧ (s.ref.slots.get slot).src ≠ source ∨
      enable = true ∧ (s.ref.slots.get slot).enable = false ∧ s.portUp source = false) :
    bodyRefConfigureSlot enable override esmc slot fNum fDen div edge source prio level acceptLim rejectLim rejectHold acceptHold
      hitLim hitBudget coastLim s = .fail stBadState [] := by
  rw [bodyRefConfigureSlot_eq_rest (by omega)]
  unfold bodyRefConfigureSlot.rest
  rw [Rep.ranges_true (refConfigureSlot_ranges hslot hsource hprio hlim hhold)]
  dsimp only
  rw [if_neg (by simp [hesmc]), if_neg (by omega : ¬slot < 8)]
  rcases h with hwidth | ⟨hsel, hsrc⟩ | ⟨henable, hwas, hdown⟩
  · split
    · rfl
    · exact if_pos (by simp [hlane, hwidth])
  · have hlow : slot < 28 := by omega
    exact if_pos (by simp [hsel, hsrc, hlow])
  · split
    · rfl
    · split
      · rfl
      · exact if_pos (by simp [hlane, henable, hwas, hdown])

end

/-! ## The configurations of the selection, the DPLL and the outputs (R160, R166, R172, R174, R177) -/

theorem bodyRefConfigureSelection_enters {qlMode revert wtr : Nat} {tieLimit : Int} {tieHold freeLevel avgTime guardTime inSpec : Nat}
    (s : State)
    (htie : qlMode < 2 ∧ revert < 2 ∧ wtr ≤ 720 * secU ∧ 26 ≤ tieLimit ∧ tieLimit ≤ 10000 * 256 ∧ 100 * msU ≤ tieHold ∧
      tieHold ≤ 60 * secU ∧ 3 ≤ freeLevel ∧ freeLevel ≤ 14)
    (htimes : secU ≤ avgTime ∧ avgTime ≤ 10000 * secU ∧ guardTime ≤ 600 * secU ∧ inSpec ≤ 86400 * secU) :
    bodyRefConfigureSelection qlMode revert wtr tieLimit tieHold freeLevel avgTime guardTime inSpec s = .ok (s.withPendingCfg
      (.refConfigureSelection .direct qlMode revert wtr tieLimit tieHold freeLevel avgTime guardTime inSpec)) [] := by
  unfold bodyRefConfigureSelection
  refine Rep.ranges_true ?_
  simp only [List.all_cons, List.all_nil, Bool.and_true, Bool.and_eq_true, decide_eq_true_eq]
  omega

theorem bodyRefConfigureDpll_enters {trackBw acqBw : Nat} {slope : Int} {lockThr lossThr : Nat} (s : State)
    (h : 1 ≤ trackBw ∧ trackBw ≤ acqBw ∧ acqBw ≤ 100000 ∧ 256 ≤ slope ∧ slope ≤ 10000 * 256 ∧ 656 ≤ lockThr ∧ lockThr ≤ 1000 * nsU ∧
      nsU ≤ lossThr ∧ lossThr ≤ 100000 * nsU ∧ lockThr < lossThr) :
    bodyRefConfigureDpll trackBw acqBw slope lockThr lossThr s =
      .ok (s.withPendingCfg (.refConfigureDpll .direct trackBw acqBw slope lockThr lossThr)) [] := by
  unfold bodyRefConfigureDpll
  refine Rep.ranges_true ?_
  simp only [List.all_cons, List.all_nil, Bool.and_true, Bool.and_eq_true, decide_eq_true_eq]
  omega

theorem bodyRefCommand_enters {slot action : Nat} {s : State} (hslot : slot < 31) (haction : action < 4)
    (hst : (s.ref.slots.get slot).state ≠ .disabled) :
    bodyRefCommand slot action s = .ok (s.withPendingCfg (.refCommand .direct slot action)) [] := by
  unfold bodyRefCommand
  rw [Rep.ranges_true (by simp [hslot, haction]), if_neg hst]
  rfl

theorem bodyRefConfigurePpsOut_enters (enable : Bool) {output : Nat} {offset : Int} {width slew squelch : Nat} (s : State)
    (h : output < 2 ∧ offset.natAbs ≤ 500 * msU ∧ usU ≤ width ∧ width ≤ 500 * msU ∧ 6554 ≤ slew ∧ slew ≤ 10 * usU ∧ squelch < 16) :
    bodyRefConfigurePpsOut enable output offset width slew squelch s =
      .ok (s.withPendingCfg (.refConfigurePpsOut .direct enable output offset width slew squelch)) [] := by
  unfold bodyRefConfigurePpsOut
  exact Rep.ranges_true (by simp [h])

/-- In FREE mode the output keeps the slew rate it had (R174). -/
theorem bodyRefConfigureClkout_enters (enable : Bool) {output fNum fDen mode : Nat} {offset : Int} {slew swing squelch : Nat} (s : State)
    (h : output < 4 ∧ 1000000 ≤ fNum ∧ fNum ≤ 750000000 ∧ 1 ≤ fDen ∧ fDen ≤ 65535 ∧ 1000000 * fDen ≤ fNum ∧ mode < 2 ∧ swing < 3 ∧
      squelch < 16)
    (hmode : if mode = 1 then fDen = 1 ∧ offset.natAbs ≤ 500 * msU ∧ 6554 ≤ slew ∧ slew ≤ 10 * usU else offset = 0 ∧ slew = 0) :
    bodyRefConfigureClkout enable output fNum fDen mode offset slew swing squelch s =
      .ok (s.withPendingCfg (.refConfigureClkout .direct enable output fNum fDen mode offset
        (if mode = 1 then slew else (s.ref.clk.get output).slew) swing squelch)) [] := by
  unfold bodyRefConfigureClkout
  refine Rep.ranges_true ?_
  split at hmode <;> simp [*]

/-! ## REF_STEER (R171) -/

/-- The state in which a steering session has been opened, before the device level follows. -/
def State.steeringOpened (s : State) (timeout level : Nat) : State :=
  let s1 := if s.ref.state = .steered then s else s.dpllTo .steered s.ref.selected
  { s1 with ref := { s1.ref with
    rootGoal := s.ref.rootOff, steerLevel := level, steerTimeout := timeout, steerEnd := some (s.now + cyclesOf timeout)
    closing := false, switchTo := none } }

theorem State.steeringOpened_keeps (s : State) (timeout level : Nat) : goesOn [.ref, .fence, .events] s (s.steeringOpened timeout level) :=
  kset_ref (keeps_ite (.refl _ _) (s.dpllTo_keeps _ _ _)) (by decide)

theorem State.steeringOpened_state (s : State) (timeout level : Nat) : (s.steeringOpened timeout level).ref.state = .steered := by
  unfold State.steeringOpened
  dsimp only
  split
  · assumption
  · exact s.dpllTo_ref_state _ _ _

theorem bodyRefSteer_opens {timeout level : Nat} {s : State} (htimeout : 10 * msU ≤ timeout ∧ timeout ≤ 60 * secU)
    (hlevel : 3 ≤ level ∧ level ≤ 14) (hxo : s.ref.state = .holdover → s.ref.xoLoss = false) :
    bodyRefSteer 0 0 timeout level s = .ok (s.steeringOpened timeout level).refreshLevel [] := by
  unfold bodyRefSteer
  rw [Rep.ranges_true (by simp [htimeout, hlevel])]
  dsimp only
  rw [if_pos (by decide), if_neg]
  · rfl
  · simp only [Bool.and_eq_true, decide_eq_true_eq]
    rintro ⟨hhold, hloss⟩
    rw [hxo hhold] at hloss
    exact Bool.noConfusion hloss

theorem bodyRefSteer_sets {value : Int} {s : State} (hvalue : value.natAbs ≤ 14073748835) (hst : s.ref.state = .steered) :
    bodyRefSteer 1 value 0 0 s = .ok { s with ref := { s.ref with
      rootGoal := value, steerEnd := if s.ref.closing then none else some (s.now + cyclesOf s.ref.steerTimeout) } } [] := by
  unfold bodyRefSteer
  rw [Rep.ranges_true (by simpa using hvalue)]
  dsimp only
  rw [if_neg (by decide), if_neg (fun h => h hst), if_pos (by decide)]

theorem bodyRefSteer_closes {s : State} (hst : s.ref.state = .steered) :
    bodyRefSteer 2 0 0 0 s = .ok { s with ref := { s.ref with closing := true, steerEnd := none } } [] := by
  unfold bodyRefSteer
  rw [Rep.ranges_true (by decide)]
  dsimp only
  rw [if_neg (by decide), if_neg (fun h => h hst), if_neg (by decide)]

/-- Out of a session no goal is set. -/
theorem bodyRefSteer_refuses {value : Int} {s : State} (hvalue : value.natAbs ≤ 14073748835) (hst : s.ref.state ≠ .steered) :
    bodyRefSteer 1 value 0 0 s = .fail stBadState [] := by
  unfold bodyRefSteer
  rw [Rep.ranges_true (by simpa using hvalue)]
  dsimp only
  rw [if_neg (by decide), if_pos hst]
  rfl

/-! ## The reading commands (R177) -/

theorem bodyRefGetSlot_answers {slot : Nat} (s : State) (h : slot < 31) : bodyRefGetSlot slot s =
    let y := s.ref.slots.get slot
    .ok s [.u 1 y.state.code, .u 1 (flag y.force_ 1 + flag y.lockout 2 + flag y.overrideLevel 4), .u 1 y.cause, .u 2 y.level,
      .u 2 y.hops, .i 8 y.yr, .i 8 (y.yr + q48ToPpb (s.ref.rootOff - (if s.ref.estValid then s.ref.holdEst else 0))), .i 8 y.phi,
      .i 8 y.buildout, .u 4 y.hitCount, .u 4 y.extraPulse, .u 4 y.pulseWidth, .u 4 y.qlUnknown, .u 8 ((s.now - y.since) / msC)] := by
  unfold bodyRefGetSlot
  exact Rep.ranges_true (by simpa using h)

/-- The code of an output's state is 0 where it is disabled. -/
theorem bodyRefGetClkout_answers {output : Nat} (s : State) (h : output < 4) : bodyRefGetClkout output s =
    let y := s.ref.clk.get output
    .ok s [.u 1 (flag y.enable 1), .u 1 (flag y.ktime 1), .u 4 y.fNum, .u 4 y.fDen, .u 8 y.ftw,
      .u 1 (if y.enable = false then 0 else if y.squelched then 3 else if (if y.ktime then y.left s.now else 0) ≠ 0 then 2 else 1),
      .i 8 (if y.ktime then y.left s.now else 0), .u 8 ((s.now - y.since) / msC)] := by
  unfold bodyRefGetClkout
  rw [Rep.ranges_true (by simpa using h)]
  simp only [Bool.not_eq_true']

/-! ## The statement -/

/-- Settles O15, command by command: what its own checks come to, and then its completion. -/
theorem referenceCommands : Obligations.ReferenceCommands := by
  unfold Obligations.ReferenceCommands
  refine ⟨?_, ?_, ?_, ?_, ?_, ?_, ?_, ?_, ?_, ?_, ?_, ?_, ?_, ?_⟩
  · rintro src enable override esmc slot _ _ _ _ source _ _ _ _ _ _ _ _ _ s ⟨hslot, hsource, hprio⟩ hfixed hlim hhold hesmc hport hsel
    exact completes_ref rfl rfl rfl (bodyRefConfigureSlot_enters hslot hsource hprio hlim hhold hfixed hesmc hport hsel)
  · rintro src enable override esmc slot _ _ _ _ source _ _ _ _ _ _ _ _ _ s ⟨hsource, hp, hp', hlevel, hlow, hhigh, hesmc⟩ hlim hhold h
    exact exec_refused rfl
      (bodyRefConfigureSlot_refuses (by omega) hsource ⟨hp, hp', hlevel⟩ hlim hhold ⟨hlow, hhigh⟩ hesmc h)
  · intro src _ _ _ _ _ _ _ _ _ s htie htimes
    exact completes_ref rfl rfl rfl (bodyRefConfigureSelection_enters s htie htimes)
  · intro src _ _ _ _ _ s h
    exact completes_ref rfl rfl rfl (bodyRefConfigureDpll_enters s h)
  · rintro src slot action s ⟨hslot, haction, hst⟩
    exact completes_ref rfl rfl rfl (bodyRefCommand_enters hslot haction hst)
  · rintro src slot _ s ⟨hslot, rfl⟩
    exact completes_reading rfl rfl rfl (bodyRefGetSlot_answers s hslot)
  · intro src s
    exact completes_reading (body := bodyRefGetDpll) rfl rfl rfl rfl
  · rintro src _ _ timeout level s ⟨rfl, rfl, hlong, hshort, hlow, hhigh, hxo⟩
    have hkeeps : goesOn [.ref, .fence, .events] s (s.steeringOpened timeout level).refreshLevel :=
      State.refreshLevel_on (s.steeringOpened_keeps timeout level) (by decide)
    refine completes_ok_beside rfl rfl rfl (bodyRefSteer_opens ⟨hlong, hshort⟩ ⟨hlow, hhigh⟩ hxo)
      (hkeeps.keeps.mono (by decide)) fun t ht => ?_
    obtain ⟨_, _, _, _, _, hlevel⟩ := (s.steeringOpened timeout level).refreshLevel_ref
    have href : t.ref = _ := (ht .ref (by decide)).trans hlevel
    rw [href]
    exact ⟨s.steeringOpened_state timeout level, rfl, rfl, rfl, rfl, rfl⟩
  · rintro src _ value _ _ s ⟨rfl, hvalue, rfl, rfl, hst⟩
    exact completes_ref rfl rfl rfl (bodyRefSteer_sets hvalue hst)
  · rintro src _ _ _ _ s ⟨rfl, rfl, rfl, rfl, hst⟩
    exact completes_ref rfl rfl rfl (bodyRefSteer_closes hst)
  · rintro src _ value _ _ s ⟨rfl, hvalue, rfl, rfl, hst⟩
    exact exec_refused rfl (bodyRefSteer_refuses hvalue hst)
  · intro src enable _ _ _ _ _ s h
    exact completes_ref rfl rfl rfl (bodyRefConfigurePpsOut_enters enable s h)
  · intro src enable _ _ _ _ _ _ _ _ s h hmode
    exact completes_ref rfl rfl rfl (bodyRefConfigureClkout_enters enable s h hmode)
  · rintro src output _ s ⟨h, rfl⟩
    exact completes_reading rfl rfl rfl (bodyRefGetClkout_answers s h)

end Sys2Proof.Machine
end

section
/-!
PROOF. The snapshots of the reading windows.
-/
namespace Sys2Proof

-- Proofs are checked in the order of the text, as in the sections before: more threads at once do not fit in the memory of the check.
set_option Elab.async false

/-- Reading a table after an entry has been set. -/
theorem Tbl.get_set {α : Type} [Inhabited α] (t : Tbl α) (i k : Nat) (v : α) : (t.set i v).get k = if k = i then v else t.get k := by
  split
  · subst k
    exact Tbl.get_set_same t i v
  · exact Tbl.get_set_other t i k v ‹_›

namespace Machine

/-! ## TAKE (R193) -/

/-- The ticket that the next read of TAKE returns, by PF1 or by PF0. -/
def State.takeTicket (s : State) (pf1 : Bool) : BitVec 32 := if pf1 then s.time.ticket1 else s.time.ticket0

/-- What a snapshot slot holds of the present instant, under `ticket`. -/
def State.snapNow (s : State) (ticket : BitVec 32) : Snap :=
  { ticket := ticket, w := s.wTime, held := s.time.held, unset := !s.time.set_, tick := s.tick }

/-- The time of day after a read of TAKE: the ticket is given, and its slot holds the present instant. -/
def State.takenTime (s : State) : Bool → Time
  | false => { s.time with
      ticket0 := s.time.ticket0 + 1, snaps0 := s.time.snaps0.set (s.time.ticket0.toNat % 16) (s.snapNow s.time.ticket0) }
  | true => { s.time with
      ticket1 := s.time.ticket1 + 1, snaps1 := s.time.snaps1.set (s.time.ticket1.toNat % 16) (s.snapNow s.time.ticket1) }

/-- The state after a read of TAKE, the ticket's four bytes being what it returns. -/
def State.taken (s : State) (pf1 : Bool) : State :=
  { s with time := s.takenTime pf1, host := { s.host with readData := (leBytes 4 (s.takeTicket pf1).toNat).map some } }

theorem exec_take (pf1 : Bool) (s : State) : exec (.take pf1) s = .next (s.taken pf1) := by
  cases pf1 <;> rfl

theorem State.taken_keeps (s : State) (pf1 : Bool) : keepsAllBut [.time, .host] s (s.taken pf1) :=
  (execTake_keeps pf1 s _ (exec_take pf1 s)).keeps

/-! ## A host read of one register (R25) -/

/-- Four bytes, each with its shift written out, are the value in little-endian order. -/
theorem leBytes_four (v : Nat) : leBytes 4 v =
    [BitVec.ofNat 8 (v / 256 ^ 0), BitVec.ofNat 8 (v / 256 ^ 1), BitVec.ofNat 8 (v / 256 ^ 2), BitVec.ofNat 8 (v / 256 ^ 3)] := by
  simp [leBytes, Nat.div_div_eq_div_mul]

theorem regsOf_aligned {o : Nat} (h : o % 4 = 0) : regsOf o 4 = [o] := by
  have ho : 4 * (o / 4) = o := Nat.mul_div_cancel' (Nat.dvd_of_mod_eq_zero h)
  simp [regsOf, h, ceilDiv, ho]

/-- A part of a request that enables all four bytes of the register at `o` reads it, and returns each byte in its lane. -/
theorem State.readPart_whole (w : Win) (o : Nat) (s : State) :
    State.readPart w o [true, true, true, true] (s, []) o = ((s.readReg w o).2, (leBytes 4 (s.readReg w o).1).map some) := by
  have hlanes : ((List.range 4).filter fun i => decide (o ≤ o + i ∧ o + i < o + [true, true, true, true].length)) = [0, 1, 2, 3] := by
    simp [List.range, List.range.loop]
  unfold State.readPart
  rw [hlanes, leBytes_four]
  simp

/-- A host read of the four bytes of the register at `o`: its value in little-endian order, and its effect. -/
theorem exec_readClearField_word {w : Win} {o : Nat} (s : State) (ho : o % 4 = 0) (hsize : o + 4 ≤ w.size) :
    exec (.readClearField w { offset := o, enables := [true, true, true, true] }) s =
      .next { (s.readReg w o).2 with host :=
        { (s.readReg w o).2.host with readData := (leBytes 4 (s.readReg w o).1).map some } } := by
  change execReadClearField w _ s = _
  unfold execReadClearField
  dsimp only [List.length_cons, List.length_nil]
  rw [if_neg (by omega), regsOf_aligned ho, List.foldl_cons, List.foldl_nil, State.readPart_whole]

/-- The window in which a function reads its TAKE. -/
def takeWin (pf1 : Bool) : Win := if pf1 then .pf1 else .bar0

/-- The offset of TAKE in that window. -/
def takeOffset (pf1 : Bool) : Nat := if pf1 then 0x100 else 0x20100

theorem State.readReg_take (s : State) (pf1 : Bool) :
    s.readReg (takeWin pf1) (takeOffset pf1) = ((s.takeTicket pf1).toNat, s.taken pf1) := by
  cases pf1 <;> rfl

/-- A host read of TAKE's register is a read of TAKE. -/
theorem exec_readClearField_take (s : State) (pf1 : Bool) :
    exec (.readClearField (takeWin pf1) { offset := takeOffset pf1, enables := [true, true, true, true] }) s = .next (s.taken pf1) := by
  rw [exec_readClearField_word s (by cases pf1 <;> decide) (by cases pf1 <;> decide), State.readReg_take]
  rfl

/-- Settles O58: a read of TAKE and a host read of its register lead to the same state. -/
theorem snapshotTake : Obligations.SnapshotTake := by
  unfold Obligations.SnapshotTake
  refine ⟨fun pf1 s => ⟨s.taken pf1, exec_take pf1 s, s.taken_keeps pf1, rfl, ?_⟩, fun pf1 s =>
    ⟨s.taken pf1, s.taken pf1, exec_take pf1 s, exec_readClearField_take s pf1, s.taken_keeps pf1, rfl, rfl⟩⟩
  cases pf1 with
  | false =>
    exact ⟨fun k => (Tbl.get_set ..).trans (ite_congr (by simp) (fun _ => rfl) fun _ => rfl), fun k => (if_neg (by simp)).symm, rfl, rfl⟩
  | true =>
    exact ⟨fun k => (if_neg (by simp)).symm, fun k => (Tbl.get_set ..).trans (ite_congr (by simp) (fun _ => rfl) fun _ => rfl), rfl, rfl⟩

end Machine

end Sys2Proof
end

section
/-!
PROOF. The TIME commands.
-/
namespace Sys2Proof.Machine

-- Proofs are checked in the order of the text, as in the sections before: more threads at once do not fit in the memory of the check.
set_option Elab.async false

/-! ## Commands that enter a change of the timescale (R183, R210, R211) -/

/-- The change that a command from `src` enters, due 1,024 ticks after the present one. -/
def State.newChange (s : State) (kind : TimeChgKind) (a b c : Int) (src : CmdSrc) : TimeChg :=
  { kind := kind, a := a, b := b, c := c, src := src, own := false, due := s.tick + 1024 }

/-- A command whose checks lead to a new time of day begins, and leaves that time of day. -/
theorem begins_time {i : Instr} {src : CmdSrc} {op : Nat} {s : State} {x : Time} {commit : Bool} {body : State → Rep}
    (hx : exec i s = .next (s.runCmd i src op body)) (hb : body s = .later { s with time := x } commit)
    (hacts : s.acts i src op = true) : ∃ t, exec i s = .next t ∧ keepsBesideBeginning [.time] s t ∧ t.time = x := by
  refine begins_later hx (fun _ => hb) (kset_time (.refl [.time] s) (by decide) |>.keeps.mono (by decide)) ?_ hacts
  have hdep : ∀ u : State, u.dependentChange.time = u.time := fun u => u.dependentChange_keeps.keeps .time (by decide)
  rw [State.markStarted_time, apply_ite State.time, hdep, ite_self]

/-- A command whose checks lead to a change of the timescale enters it at the end of the queue of changes. -/
theorem begins_change {i : Instr} {src : CmdSrc} {op : Nat} {s : State} {kind : TimeChgKind} {a b c : Int} {body : State → Rep}
    (hx : exec i s = .next (s.runCmd i src op body)) (hb : body s = .later (s.timeChange kind a b c src) true)
    (hacts : s.acts i src op = true) : ∃ t, exec i s = .next t ∧ keepsBesideBeginning [.time] s t ∧
      t.time = { s.time with changes := s.time.changes ++ [s.newChange kind a b c src] } :=
  begins_time hx hb hacts

section
variable {src : CmdSrc} {s : State}

theorem bodyTimeSet_enters {target : KTime} (h : target.sec < 2 ^ 64 ∧ target.ns < 1000000000 ∧ target.sub < 65536)
    (hhost : s.hostControls = true) : bodyTimeSet src target s = .later (s.timeChange .set (KTime.units target) 0 0 src) true := by
  unfold bodyTimeSet
  rw [Rep.ranges_true (by simpa using h), if_pos hhost]

theorem bodyTimeSet_refuses {target : KTime} (h : target.sec < 2 ^ 64 ∧ target.ns < 1000000000 ∧ target.sub < 65536)
    (hhost : s.hostControls = false) : bodyTimeSet src target s = .fail stNotPermitted [] := by
  unfold bodyTimeSet
  rw [Rep.ranges_true (by simpa using h), if_neg (by simp [hhost])]

theorem bodyTimeStep_enters {ns : Int} {sub : Nat} (h : (ns * 65536 + sub).natAbs ≤ 10 ^ 18 * 65536) (hsub : sub < 65536)
    (hhost : s.hostControls = true) : bodyTimeStep src ns sub s = .later (s.timeChange .step (ns * 65536 + sub) 0 0 src) true := by
  unfold bodyTimeStep
  dsimp only
  rw [decide_eq_true h, decide_eq_true hsub, Rep.ranges_true rfl, if_pos hhost]

theorem bodyTimeSetRate_enters {rate : Int} (h : rate.natAbs ≤ 28147497671) (hhost : s.hostControls = true) :
    bodyTimeSetRate src rate s = .later (s.timeChange .rate rate 0 0 src) true := by
  unfold bodyTimeSetRate
  rw [Rep.ranges_true (by simpa using h), if_pos hhost]

/-- TIME_SET_CONTROL of a pair that controls the timescale passes from the journal alone (R192). -/
theorem bodyTimeSetControl_eq {control : Nat} (h : control < 2) : bodyTimeSetControl src control s =
    if s.time.control = 2 ∧ fromJournal src = false then .fail stBadState []
    else .later (s.timeChange .control control 0 0 src) true := by
  unfold bodyTimeSetControl
  rw [Rep.ranges_true (by simpa using h)]
  cases src <;> simp [fromJournal, Rep.badState]

theorem bodyTimeSetUtc_enters {leap61 leap59 : Bool} {offset : Nat} (hleap : (leap61 && leap59) = false) (h : offset < 256) :
    bodyTimeSetUtc src leap61 leap59 offset s =
      .later (s.timeChange .utc offset (flag leap61 1) (flag leap59 1) src) true := by
  unfold bodyTimeSetUtc
  rw [if_neg (by simp [hleap]), Rep.ranges_true (by simpa using h)]

end

/-! ## The statement -/

/-- Settles O13, command by command: what its own checks come to, and then the change that it enters, or its refusal. -/
theorem timeCommands : Obligations.TimeCommands := by
  unfold Obligations.TimeCommands
  refine ⟨?_, ?_, ?_, ?_, ?_, ?_, ?_, ?_⟩
  · rintro src target s ⟨hsec, hns, hsub, hhost⟩ hacts
    exact begins_change rfl (bodyTimeSet_enters ⟨hsec, hns, hsub⟩ hhost) hacts
  · rintro src target s ⟨hsec, hns, hsub, hhost⟩ hacts
    exact exec_refused rfl (bodyTimeSet_refuses ⟨hsec, hns, hsub⟩ hhost) hacts
  · rintro src ns sub s ⟨hstep, hsub, hhost⟩ hacts
    exact begins_change rfl (bodyTimeStep_enters hstep hsub hhost) hacts
  · rintro src rate s ⟨hrate, hhost⟩ hacts
    exact begins_change rfl (bodyTimeSetRate_enters hrate hhost) hacts
  · rintro src control s ⟨hcontrol, hpair⟩ hacts
    refine begins_change rfl ((bodyTimeSetControl_eq hcontrol).trans (if_neg ?_)) hacts
    rintro ⟨htwo, hown⟩
    exact Bool.false_ne_true (hown.symm.trans (hpair htwo))
  · rintro src control s ⟨hcontrol, htwo, hown⟩ hacts
    exact exec_refused rfl ((bodyTimeSetControl_eq hcontrol).trans (if_pos ⟨htwo, hown⟩)) hacts
  · intro src s hacts
    exact begins_time (body := bodyTimeGet src) rfl rfl hacts
  · rintro src leap61 leap59 offset s ⟨hleap, hoffset⟩ hacts
    exact begins_change rfl (bodyTimeSetUtc_enters hleap hoffset) hacts

end Sys2Proof.Machine
end

section
/-!
PROOF. The statement of the time rows fails, with the state that shows it.
-/
namespace Sys2Proof.Machine

-- Proofs are checked in the order of the text, as in the sections before: more threads at once do not fit in the memory of the check.
set_option Elab.async false

/-! ## A fence whose F comes before STAMP_TIMEOUT (R206, R207, R466) -/

/-- A request of a frame admitted at TICK 0, with its deadline 10 ms on. -/
def earlyRequest : TsqReq := { deadline := 10 * msC, admittedAt := some 0 }

/-- TSQ0 is enabled and empty, with that request outstanding. A fence with F = 256 is active, and has not yet given its markers. -/
def requestAheadOfFence : State :=
  { time := { tickOn := true, tsqs := [(0, { enable := true, reqs := [earlyRequest] })] }
    fence := { epoch := 1, lastF := 256, active := [{ epoch := 1, f := 256 }] } }

/-- The state once the request has timed out: the fence's marker has been given to TSQ0 on the way. -/
def requestAheadOfFenceTimedOut : State :=
  (requestAheadOfFence.advance (10 * msC)).tsqEnd 0 earlyRequest
    { kind := 2, value := (requestAheadOfFence.advance (10 * msC)).tick }

theorem exec_tsqStampTimeout_requestAheadOfFence :
    exec (.tsqStampTimeout 0) requestAheadOfFence = .next requestAheadOfFenceTimedOut := rfl

/-- TSQ0 holds two new entries: the TIMEOUT entry and, behind it, the marker, which waited for that request alone. -/
theorem requestAheadOfFenceTimedOut_entries :
    (requestAheadOfFenceTimedOut.time.tsqs.get 0).wr = 2 ∧
      (requestAheadOfFenceTimedOut.time.tsqs.get 0).entries.map (fun e => (e.1, e.2.kind)) = [(0, 2), (1, 3)] := by
  decide +kernel

/-- Refutes O31: F of an active fence passes before the request's STAMP_TIMEOUT, its marker waits in the queue for the request, and the
TIMEOUT entry makes way for it; so WR_COUNT moves on by two. -/
theorem not_timeRows : ¬ Obligations.TimeRows := by
  unfold Obligations.TimeRows
  rintro ⟨_, _, _, _, _, _, htimeout, _⟩
  obtain ⟨t, hx, _, _, hwr, _⟩ := htimeout 0 { enable := true, reqs := [earlyRequest] } earlyRequest requestAheadOfFence
    (by decide +kernel)
  rw [exec_tsqStampTimeout_requestAheadOfFence] at hx
  obtain rfl := Host.Outcome.next.inj hx
  rw [requestAheadOfFenceTimedOut_entries.1] at hwr
  exact absurd hwr (by decide)

end Sys2Proof.Machine
end

section
/-!
PROOF. What completions leave of the firmware's state and of what is pending.
-/
namespace Sys2Proof.Machine

-- Proofs are checked in the order of the text, as in the sections before: more threads at once do not fit in the memory of the check.
set_option Elab.async false

/-! ## Serving the mailboxes and the fences that wait (R429, R448, R463) -/

/-- From `s` to `t`, nothing of the firmware's state has moved but the overlay slots, and what was pending is pending still. -/
structure State.serves (s t : State) : Prop where
  fw : ∃ overlays, t.fw = { s.fw with overlays := overlays }
  pending : ∀ n, s.events.pending.getLsbD n = true → t.events.pending.getLsbD n = true

namespace State.serves

variable {s t u : State}

theorem of_same (hfw : t.fw = s.fw) (hevents : t.events.pending = s.events.pending) : s.serves t :=
  ⟨⟨s.fw.overlays, hfw⟩, fun _ h => hevents ▸ h⟩

theorem refl (s : State) : s.serves s := of_same rfl rfl

theorem trans (h : s.serves t) (k : t.serves u) : s.serves u := by
  obtain ⟨⟨_, ht⟩, hpt⟩ := h
  obtain ⟨⟨_, hu⟩, hpu⟩ := k
  exact ⟨⟨_, by rw [hu, ht]⟩, fun n hn => hpu n (hpt n hn)⟩

theorem ite {c : Prop} [Decidable c] (h : s.serves t) (k : s.serves u) : s.serves (if c then t else u) := by
  split <;> assumption

theorem foldl {α : Type} {f : State → α → State} (hf : ∀ (s : State) (a : α), s.serves (f s a)) (l : List α) (s : State) :
    s.serves (l.foldl f s) :=
  List.foldlRecOn l f (motive := fun t => s.serves t) (.refl s) fun t ht a _ => ht.trans (hf t a)

theorem raise {src cause : Nat} {data : List Fld} {inj : Bool} (h : s.serves t) : s.serves (t.raise src cause data inj) :=
  h.trans ⟨⟨t.fw.overlays, State.raise_fw⟩, fun _ => State.raise_keeps_isPending src cause data inj⟩

theorem updMb {m : Nat} {f : Mailbox → Mailbox} (h : s.serves t) : s.serves (t.updMb m f) := h.trans (of_same rfl rfl)

/-- The overlay slots may move. -/
theorem withOverlays (s : State) (o : Tbl Overlay) : s.serves { s with fw := { s.fw with overlays := o } } := ⟨⟨o, rfl⟩, fun _ => id⟩

end State.serves

theorem State.respond_serves (s : State) (m opcode tag status detail : Nat) (notify mirrored : Bool) (res : List Byte) :
    s.serves (s.respond m opcode tag status detail notify mirrored res) := by
  have hset : ∀ (c : Bool) (u : State) (o b : Nat), u.fw = s.fw → u.events.pending = s.events.pending →
      s.serves (if c then u.hwSet o b else u) := fun _ _ _ _ hfw hpending => .ite (.of_same hfw hpending) (.of_same hfw hpending)
  unfold State.respond
  exact .ite (.raise (.ite (.raise (hset _ _ _ _ rfl rfl)) (hset _ _ _ _ rfl rfl)))
    (.ite (.raise (hset _ _ _ _ rfl rfl)) (hset _ _ _ _ rfl rfl))

theorem State.noteAborted_serves (s : State) (m : Nat) (pos : BitVec 32) : s.serves (s.noteAborted m pos) := by
  unfold State.noteAborted
  exact .ite (.refl s) (.raise (.updMb (.refl s)))

theorem State.sweepHead_serves (m n : Nat) (s : State) : s.serves (s.sweepHead m n) := by
  induction n generalizing s with
  | zero => exact .refl s
  | succ n ih =>
    have hpop := fun (rest : List MbCmd) => State.serves.updMb (m := m) (f := fun x => { x with inFlight := rest }) (.refl s)
    unfold State.sweepHead
    split
    · exact .refl s
    · refine .ite (.refl s) (.ite ?_ ?_)
      · exact (((hpop _).trans (State.respond_serves ..)).trans (State.noteAborted_serves ..)).trans (ih _)
      · split
        · exact ((hpop _).trans (State.respond_serves ..)).trans (ih _)
        · exact .refl s

theorem State.sweepReset_serves (m n : Nat) (s : State) : s.serves (s.sweepReset m n) := by
  induction n generalizing s with
  | zero => exact .refl s
  | succ n ih =>
    unfold State.sweepReset
    dsimp only
    split
    · exact .refl s
    · exact .ite (.refl s) (.ite (.updMb (.refl s))
        (((State.respond_serves ..).trans (State.noteAborted_serves ..)).trans (ih _)))

theorem State.sweep_serves (s : State) (m : Nat) : s.serves (s.sweep m) :=
  (State.sweepHead_serves ..).trans (State.sweepReset_serves ..)

theorem State.placeFence_serves (s : State) (src : CmdSrc) (f : Nat) (arm : Bool) : s.serves (s.placeFence src f arm) := by
  cases src <;> exact .of_same rfl rfl

theorem State.startFence_serves (s : State) (src : CmdSrc) : s.serves (s.startFence src) := by
  have hleft : s.serves { s with fence := { s.fence with waiting := s.fence.waiting.filter (· ≠ src) } } := .of_same rfl rfl
  unfold State.startFence
  dsimp only
  split
  · exact hleft.trans (State.placeFence_serves ..)
  · split
    · rename_i t harmed
      unfold State.armSlot at harmed
      split at harmed
      · obtain rfl := Option.some.inj harmed
        exact (hleft.trans (.withOverlays _ _)).trans (State.placeFence_serves ..)
      · exact absurd harmed (by simp)
    · exact (hleft.trans (.updMb (.withOverlays _ _))).trans (State.sweep_serves ..)
  · exact hleft

theorem State.markReady_serves (s : State) : s.serves s.markReady := by
  refine State.serves.foldl (fun t m => ?_) _ s
  split
  · exact .refl t
  · exact .ite (.updMb (.refl t)) (.refl t)

theorem State.pokeOnce_serves (s : State) : s.serves s.pokeOnce :=
  s.markReady_serves.trans (State.serves.foldl (fun t src => .ite (t.startFence_serves src) (.refl t)) _ _)

theorem State.pokeFences_serves (s : State) : s.serves s.pokeFences :=
  s.markReady_serves.trans (State.serves.foldl (fun t _ => t.pokeOnce_serves) _ _)

/-! ## Completion (R432, R448) -/

/-- The first half of a response that a completion on MB7 leaves: that of SEC_RESPONSE alone (R432). -/
def State.respPart0After (s : State) (src : CmdSrc) (opcode : Nat) : Option (List Byte) :=
  if src = .mailbox 7 && opcode ≠ 0x0C02 then none else s.fw.respPart0

/-- A completion leaves of the firmware's state all but the overlay slots and the first half of a response, and what was pending. -/
theorem State.finish_serves (s : State) (src : CmdSrc) (opcode status detail : Nat) (res : List Fld) (ul : Bool) :
    State.serves { s with fw := { s.fw with respPart0 := s.respPart0After src opcode } } (s.finish src opcode status detail res ul) := by
  have hstart : ∀ (a : CmdOut) (b : Pair), State.serves { s with fw := { s.fw with respPart0 := s.respPart0After src opcode } }
      { s with cmd := a, pair := b,
               fw := if src = .mailbox 7 && opcode ≠ 0x0C02 then { s.fw with respPart0 := none } else s.fw } := fun a b => by
    refine .of_same ?_ rfl
    unfold State.respPart0After
    dsimp only
    split <;> rfl
  unfold State.finish
  dsimp only
  split
  · split
    · exact hstart _ _
    · exact .ite ((((hstart _ _).updMb.trans (State.respond_serves ..)).trans (State.sweep_serves ..)).trans
        (State.pokeFences_serves _)) (hstart _ _)
  · exact hstart _ _

theorem State.finish_fw (s : State) (src : CmdSrc) (opcode status detail : Nat) (res : List Fld) (ul : Bool) :
    ∃ overlays, (s.finish src opcode status detail res ul).fw =
      { s.fw with respPart0 := s.respPart0After src opcode, overlays := overlays } :=
  (s.finish_serves ..).fw

theorem State.finish_keeps_isPending {s : State} {n : Nat} (src : CmdSrc) (opcode status detail : Nat) (res : List Fld) (ul : Bool)
    (h : s.events.pending.getLsbD n = true) : (s.finish src opcode status detail res ul).events.pending.getLsbD n = true :=
  (s.finish_serves ..).pending n h

end Sys2Proof.Machine
end

section
/-!
PROOF. The SEC commands.
-/
namespace Sys2Proof.Machine

-- Proofs are checked in the order of the text, as in the sections before: more threads at once do not fit in the memory of the check.
set_option Elab.async false

/-! ## How a SEC command completes -/

/-- A command whose own checks give a status beside an effect completes with both: it is enough to show the effect of the completion. -/
theorem exec_done {i : Instr} {src : CmdSrc} {op st : Nat} {s u : State} {res : List Fld} {ps : List Part} {eff : State → Prop}
    {body : State → Rep} (hx : exec i s = .next (s.runCmd i src op body)) (hb : body s = .done u st res)
    (hf : keepsAllBut (ps ++ answerParts) s u) (he : eff (u.finish src op st 0 res)) (hacts : s.acts i src op = true) :
    ∃ t, exec i s = .next t ∧ t.cmd.opcode = op ∧ t.cmd.status = st ∧ t.cmd.result = packFrom 16 res ∧
      keepsBesideAnswer ps s t ∧ eff t := by
  refine ⟨u.finish src op st 0 res, ?_, ?_, ?_, ?_, hf.trans ((State.finish_keeps _ _ _ _ _ _ _).keeps.mono (by simp +contextual)), he⟩
  · rw [hx, State.runCmd_acts hacts, hb]
    rfl
  · rw [State.finish_cmd]
  · rw [State.finish_cmd]
  · rw [State.finish_cmd]

/-- A command that needs a session acts in an open one (R432). -/
theorem State.session_of_acts {s : State} {i : Instr} {src : CmdSrc} {op : Nat} (hop : needsSession op = true)
    (h : s.acts i src op = true) : s.fw.sessionEnd.isSome = true := by
  have hreaches := State.reaches_of_acts h
  simp only [State.reaches, Bool.and_eq_true, hop, Bool.true_and, Bool.not_eq_true'] at hreaches
  obtain ⟨⟨⟨_, hsession⟩, _⟩, _⟩ := hreaches
  simpa using hsession

/-! ## Step guard and allowance (R188, R211) -/

theorem bodySecSetStepGuard_enters {src : CmdSrc} {g v : Nat} (s : State) (hg : g ≤ 1000000 * nsU) (hv : secU ≤ v ∧ v ≤ 3600 * secU) :
    bodySecSetStepGuard src g v s = .later (s.timeChange .guard g v 0 src) true := by
  unfold bodySecSetStepGuard
  rw [decide_eq_true hg, decide_eq_true hv, Rep.ranges_true rfl]

theorem bodySecAuthoriseStep_enters {src : CmdSrc} {direction magnitude validity : Nat} (s : State) (hdir : direction < 2)
    (hmag : 1 ≤ magnitude ∧ magnitude ≤ (if direction = 0 then 10 ^ 18 else 10 ^ 9)) (hval : secU ≤ validity ∧ validity ≤ 60 * secU) :
    bodySecAuthoriseStep src direction magnitude validity s =
      .later (s.timeChange .allowance direction magnitude validity src) true := by
  unfold bodySecAuthoriseStep
  dsimp only
  rw [decide_eq_true hdir, decide_eq_true hmag, decide_eq_true hval, Rep.ranges_true rfl]

/-! ## Challenge and response (R432) -/

/-- The challenge that SEC_CHALLENGE opens, its nonce the next free value. -/
def State.newChallenge (s : State) (role level : Nat) : Challenge :=
  { debug := decide (role = 1), full := decide (level = 1), nonce := Config.freeNat s.free % 2 ^ 256, deadline := s.now + 30 * secC }

/-- The state with that challenge open. -/
def State.challenged (s : State) (role level : Nat) : State :=
  { s with free := s.free + 1, fw := { s.fw with challenge := some (s.newChallenge role level) } }

theorem bodySecChallenge_opens {role level : Nat} {s : State} (hrole : role < 2) (hlevel : if role = 1 then level < 2 else level = 0)
    (hfull : role = 1 → level = 1 → s.fuses.fullDebug = true) (hbusy : ∀ n, s.fw.authBusy = some n → n ≤ s.now) :
    bodySecChallenge role level s =
      .ok (s.challenged role level) [.raw 8 (beBytes 32 (Config.freeNat s.free % 2 ^ 256))] := by
  have hmay : ¬(role = 1 ∧ level = 1 ∧ (!s.fuses.fullDebug) = true) := fun ⟨hr, hl, hnot⟩ => by simp [hfull hr hl] at hnot
  unfold bodySecChallenge
  rw [Rep.ranges_true (by split at hlevel <;> simp [*])]
  dsimp only
  rw [if_neg, if_neg hmay]
  · rfl
  · split
    · simpa using hbusy _ ‹_›
    · exact Bool.false_ne_true

theorem bodySecResponse_keepsPart {bytes : List Byte} {y : Challenge} {s : State} (hy : s.fw.challenge = some y)
    (hopen : s.now ≤ y.deadline) : bodySecResponse 0 bytes s = .ok { s with fw := { s.fw with respPart0 := some bytes } } [] := by
  unfold bodySecResponse
  rw [Rep.ranges_true rfl, hy]
  dsimp only
  rw [if_neg (Nat.not_lt.2 hopen), if_pos rfl]

/-- Whether the signature of the two parts verifies against a key of the role that the challenge names. -/
def State.verifies (s : State) (y : Challenge) (signature : List Byte) : Bool :=
  s.fw.base_.keys.any fun k => decide (k.1 = y.debug) && Config.ecdsaOk k.2 (Config.sha384 (s.challengeMessage y)) signature

/-- The state in which the challenge has ended. -/
def State.unchallenged (s : State) : State := { s with fw := { s.fw with challenge := none, respPart0 := none } }

theorem bodySecResponse_ends {bytes b : List Byte} {y : Challenge} {s : State} (hy : s.fw.challenge = some y)
    (hopen : s.now ≤ y.deadline) (hb : s.fw.respPart0 = some b) : bodySecResponse 1 bytes s =
      if s.verifies y (b ++ bytes) then .ok (s.unchallenged.authPass y) [] else .done s.unchallenged.authFail stNotPermitted [] := by
  unfold bodySecResponse
  rw [Rep.ranges_true rfl, hy]
  dsimp only
  rw [if_neg (Nat.not_lt.2 hopen), if_neg Nat.one_ne_zero, hb]
  rfl

theorem bodySecResponse_refuses {part : Nat} {bytes : List Byte} {s : State} (hpart : part < 2)
    (h : s.fw.challenge = none ∨ (s.fw.challenge.any fun y => decide (y.deadline < s.now)) = true) :
    bodySecResponse part bytes s = .fail stBadState [] := by
  unfold bodySecResponse
  rw [Rep.ranges_true (by simpa using hpart)]
  cases hy : s.fw.challenge with
  | none => rfl
  | some y => exact if_pos (by simpa [hy] using h)

/-- The end of a session touches nothing else of the firmware's state. -/
theorem State.closeSession_fw (s : State) : s.closeSession.fw = { s.fw with sessionEnd := none } := by
  unfold State.closeSession
  split
  · exact State.raise_fw
  · rename_i hnone
    rw [← Option.not_isSome_iff_eq_none.1 hnone]

/-- A response that verifies moves the session, the debug level and the key cache, and nothing else of the firmware's state. -/
theorem State.authPass_fw (s : State) (y : Challenge) : ∃ session level cache, (s.authPass y).fw =
    { s.fw with sessionEnd := session, debug := level, keyCache := cache } := by
  unfold State.authPass
  dsimp only
  split
  · exact ⟨_, _, _, State.raise_fw⟩
  · rw [apply_ite State.fw, State.raise_fw, ite_self]
    split
    · exact ⟨_, _, _, State.closeSession_fw _⟩
    · exact ⟨_, _, _, rfl⟩

/-- A response that fails is noted, and may close SEC_CHALLENGE for a time. -/
theorem State.authFail_fw (s : State) : ∃ fails busy, s.authFail.fw = { s.fw with authFails := fails, authBusy := busy } :=
  ⟨_, _, State.raise_fw⟩

/-- After a completion, no challenge and no first half of a response stand where there were none before it. -/
theorem State.finish_unchallenged {s : State} (src : CmdSrc) (opcode status : Nat) (hc : s.fw.challenge = none)
    (hp : s.fw.respPart0 = none) : (s.finish src opcode status 0 []).fw.challenge = none ∧
      (s.finish src opcode status 0 []).fw.respPart0 = none := by
  obtain ⟨_, hfw⟩ := s.finish_fw src opcode status 0 [] false
  rw [hfw]
  exact ⟨hc, by rw [State.respPart0After, hp, ite_self]⟩

/-! ## Session, debug level, keys and versions (R432, R433, R439) -/

theorem State.closeSession_isPending {s : State} (h : s.fw.sessionEnd.isSome = true) :
    s.closeSession.events.pending.getLsbD 798 = true := by
  unfold State.closeSession
  rw [if_pos h]
  exact State.raise_isPending _ _ _ _ (by decide) (by decide)

/-- The state in which the debug level is LOCKED, with DEBUG_LOCKED where it was not. -/
def State.debugLock (s : State) : State :=
  if s.fw.debug = .locked then s else ({ s with fw := { s.fw with debug := .locked } }).raise 798 Ev.debugLocked

theorem State.debugLock_keeps (s : State) : goesOn [.fw, .fence, .events] s s.debugLock :=
  keeps_ite (.refl _ _) (State.raise_on (kset_fw (.refl _ _) (by decide)) (by decide))

theorem State.debugLock_debug (s : State) : s.debugLock.fw.debug = .locked := by
  unfold State.debugLock
  split
  · assumption
  · rw [State.raise_fw]

theorem State.debugLock_isPending {s : State} (h : s.fw.debug ≠ .locked) : s.debugLock.events.pending.getLsbD 798 = true := by
  unfold State.debugLock
  rw [if_neg h]
  exact State.raise_isPending _ _ _ _ (by decide) (by decide)

theorem bodySecRevokeKey_revokes {slot : Nat} {s : State} (h : slot < 8) (hother : s.fw.base_.keySlot ≠ slot) :
    bodySecRevokeKey slot s = .ok { s with fuses := { s.fuses with
      revoked := if s.fuses.revoked.contains slot then s.fuses.revoked else s.fuses.revoked ++ [slot] } } [] := by
  unfold bodySecRevokeKey
  rw [Rep.ranges_true (by simpa using h), if_neg hother]

theorem bodySecRevokeKey_refuses {slot : Nat} {s : State} (h : slot < 8) (hsame : s.fw.base_.keySlot = slot) :
    bodySecRevokeKey slot s = .fail stBadState [] := by
  unfold bodySecRevokeKey
  rw [Rep.ranges_true (by simpa using h), if_pos hsame]
  rfl

theorem bodySecSetMinVersion_sets {minimum : Nat} {s : State}
    (h : minimum ≤ 64 ∧ s.fuses.minVersion ≤ minimum ∧ minimum ≤ s.fw.base_.secVersion) :
    bodySecSetMinVersion minimum s = .ok { s with fuses := { s.fuses with minVersion := minimum } } [] := by
  unfold bodySecSetMinVersion
  rw [Rep.ranges_true (by simpa using h)]

/-- A command whose checks lead to new one-time settings completes with those. -/
theorem completes_fuses {i : Instr} {src : CmdSrc} {op : Nat} {s : State} {x : Fuses} {res : List Fld} {body : State → Rep}
    (hx : exec i s = .next (s.runCmd i src op body)) (hu : unitLocal i = false) (hop : changesConfig op = false)
    (hb : body s = .ok { s with fuses := x } res) : completes i src op s res [.fuses] fun t => t.fuses = x := by
  refine completes_ok_beside hx hu hop hb (fun p hp => ?_) fun _ ht => ht .fuses (by decide)
  cases p with
  | fuses => exact absurd (by decide) hp
  | _ => rfl

/-! ## Completion of challenge, response, session and debug level -/

theorem secChallenge_completes (src : CmdSrc) {role level : Nat} {s : State} (hrole : role < 2)
    (hlevel : if role = 1 then level < 2 else level = 0) (hfull : role = 1 → level = 1 → s.fuses.fullDebug = true)
    (hbusy : ∀ n, s.fw.authBusy = some n → n ≤ s.now) :
    completes (.secChallenge src role level) src 0x0C01 s [.raw 8 (beBytes 32 (Config.freeNat s.free % 2 ^ 256))] [.free] fun t =>
      t.free = s.free + 1 ∧ t.fw.challenge = some (s.newChallenge role level) := by
  have hbody := bodySecChallenge_opens hrole hlevel hfull hbusy
  have hopened : goesOn [.free, .fw] s (s.challenged role level) := by
    have hkeeps := bodySecChallenge_keeps role level s
    rwa [hbody] at hkeeps
  refine completes_ok rfl rfl (fun _ => hbody) (hopened.keeps.mono (by decide)) ⟨State.finish_free, ?_⟩
  obtain ⟨_, hfw⟩ := (s.challenged role level).finish_fw src 0x0C01 (s.okStatus src 0x0C01) 0
    [.raw 8 (beBytes 32 (Config.freeNat s.free % 2 ^ 256))] false
  exact congrArg Fw.challenge hfw

theorem secResponse_keepsPart (src : CmdSrc) {bytes : List Byte} {y : Challenge} {s : State} (hy : s.fw.challenge = some y)
    (hopen : s.now ≤ y.deadline) :
    completes (.secResponse src 0 bytes) src 0x0C02 s [] [] fun t => t.fw.respPart0 = some bytes := by
  refine completes_ok rfl rfl (fun _ => bodySecResponse_keepsPart hy hopen)
    (kset_fw (.refl [.fw] s) (by decide) |>.keeps.mono (by decide)) ?_
  obtain ⟨_, hfw⟩ := State.finish_fw { s with fw := { s.fw with respPart0 := some bytes } } src 0x0C02 (s.okStatus src 0x0C02) 0 [] false
  refine (congrArg Fw.respPart0 hfw).trans ?_
  exact if_neg (by simp)

/-- The second part ends the challenge, whether the signature verifies or not. -/
theorem secResponse_ends (src : CmdSrc) {bytes b : List Byte} {y : Challenge} {s : State} (hy : s.fw.challenge = some y)
    (hopen : s.now ≤ y.deadline) (hb : s.fw.respPart0 = some b) :
    completesWith (.secResponse src 1 bytes) src 0x0C02 s (if s.verifies y (b ++ bytes) then s.okStatus src 0x0C02 else stNotPermitted)
      [] [] fun t => t.fw.challenge = none ∧ t.fw.respPart0 = none := by
  have hended : goesOn [.fw, .fence, .events] s s.unchallenged := kset_fw (.refl _ _) (by decide)
  have hbody := bodySecResponse_ends (bytes := bytes) hy hopen hb
  by_cases hv : s.verifies y (b ++ bytes) = true
  · rw [if_pos hv] at hbody ⊢
    obtain ⟨_, _, _, hfw⟩ := s.unchallenged.authPass_fw y
    exact completes_ok rfl rfl (fun _ => hbody) ((State.authPass_on hended (by decide)).keeps.mono (by decide))
      (State.finish_unchallenged _ _ _ (congrArg Fw.challenge hfw) (congrArg Fw.respPart0 hfw))
  · rw [if_neg hv] at hbody ⊢
    obtain ⟨_, _, hfw⟩ := s.unchallenged.authFail_fw
    exact exec_done rfl hbody ((State.authFail_on hended (by decide)).keeps.mono (by decide))
      (State.finish_unchallenged _ _ _ (congrArg Fw.challenge hfw) (congrArg Fw.respPart0 hfw))

theorem secClose_completes (src : CmdSrc) {s : State} (hsession : s.fw.sessionEnd.isSome = true) :
    completes (.secClose src) src 0x0C03 s [] [] fun t => t.fw.sessionEnd = none ∧ t.events.pending.getLsbD 798 = true := by
  refine completes_ok (body := bodySecClose) rfl rfl (fun _ => rfl) (s.closeSession_keeps.keeps.mono (by decide))
    ⟨?_, State.finish_keeps_isPending _ _ _ _ _ _ (State.closeSession_isPending hsession)⟩
  obtain ⟨_, hfw⟩ := s.closeSession.finish_fw src 0x0C03 (s.okStatus src 0x0C03) 0 [] false
  exact (congrArg Fw.sessionEnd hfw).trans (congrArg Fw.sessionEnd s.closeSession_fw)

theorem secDebugLock_completes (src : CmdSrc) (s : State) :
    completes (.secDebugLock src) src 0x0C04 s [] [] fun t =>
      t.fw.debug = .locked ∧ (s.fw.debug ≠ .locked → t.events.pending.getLsbD 798 = true) := by
  refine completes_ok (u := s.debugLock) (body := bodySecDebugLock) rfl rfl (fun _ => rfl) (s.debugLock_keeps.keeps.mono (by decide))
    ⟨?_, fun hopen => State.finish_keeps_isPending _ _ _ _ _ _ (State.debugLock_isPending hopen)⟩
  obtain ⟨_, hfw⟩ := s.debugLock.finish_fw src 0x0C04 (s.okStatus src 0x0C04) 0 [] false
  exact (congrArg Fw.debug hfw).trans s.debugLock_debug

/-! ## The statement -/

/-- Settles O21, command by command: what its own checks come to, and then its completion or its beginning. -/
theorem securityCommands : Obligations.SecurityCommands := by
  unfold Obligations.SecurityCommands
  refine ⟨?_, ?_, ?_, ?_, ?_, ?_, ?_, ?_, ?_, ?_, ?_, ?_⟩
  · rintro src g v s ⟨hg, hv, hv'⟩ hacts
    exact begins_change rfl (bodySecSetStepGuard_enters s hg ⟨hv, hv'⟩) hacts
  · rintro src direction magnitude validity s ⟨hdir, hmag, hmag', hval, hval'⟩ hacts
    exact begins_change rfl (bodySecAuthoriseStep_enters s hdir ⟨hmag, hmag'⟩ ⟨hval, hval'⟩) hacts
  · rintro src role level s ⟨hrole, hlevel, hfull⟩ hbusy
    exact secChallenge_completes src hrole hlevel hfull hbusy
  · rintro src _ bytes y s ⟨rfl, hy, hopen⟩
    exact secResponse_keepsPart src hy hopen
  · rintro src _ bytes y b s ⟨rfl, hy, hopen, hb⟩
    exact secResponse_ends src hy hopen hb
  · rintro src part bytes s ⟨hpart, h⟩ hacts
    exact exec_refused rfl (bodySecResponse_refuses hpart h) hacts
  · intro src s hacts
    exact secClose_completes src (State.session_of_acts rfl hacts) hacts
  · intro src s
    exact secDebugLock_completes src s
  · rintro src slot s ⟨hslot, hother⟩
    exact completes_fuses rfl rfl rfl (bodySecRevokeKey_revokes hslot hother)
  · rintro src slot s ⟨hslot, hsame⟩ hacts
    obtain ⟨t, hx, hop, hst, hres, hkeeps⟩ := exec_refused (i := .secRevokeKey src slot) rfl (bodySecRevokeKey_refuses hslot hsame) hacts
    exact ⟨t, hx, hop, hst, hres, hkeeps, hkeeps .fuses (by decide)⟩
  · intro src minimum s h
    exact completes_fuses rfl rfl rfl (bodySecSetMinVersion_sets h)
  · intro src s
    exact completes_reading (body := bodySecGetStatus) rfl rfl rfl rfl

end Sys2Proof.Machine
end

section
/-!
PROOF. What a completion leaves of the staging buffers, how a command that sets one part completes, and what the reading commands start anew.
-/
namespace Sys2Proof

-- Proofs are checked in the order of the text, as in the sections before: more threads at once do not fit in the memory of the check.
set_option Elab.async false

/-- An entry that a list of settings names holds what is set, and so does one that held it before. -/
theorem Tbl.get_foldl_set {α : Type} [Inhabited α] (f : Nat → α) {k : Nat} (l : List Nat) (t : Tbl α) (h : k ∈ l ∨ t.get k = f k) :
    (l.foldl (fun t k => t.set k (f k)) t).get k = f k := by
  induction l generalizing t with
  | nil => simpa using h
  | cons i l ih =>
    refine ih _ ?_
    rw [Tbl.get_set]
    rcases h with hmem | hheld
    · rcases List.mem_cons.1 hmem with rfl | hrest
      · exact .inr (if_pos rfl)
      · exact .inl hrest
    · right
      split
      · rw [‹k = i›]
      · exact hheld

namespace Machine

/-! ## Completion (R428, R448) -/

/-- The state in which a command whose effect led to `u` has completed: the dependent change of one that changes the configuration, then
its answer. -/
def State.completed (u : State) (src : CmdSrc) (op status : Nat) (res : List Fld) : State :=
  (if changesConfig op then u.dependentChange else u).finish src op status 0 res

theorem State.completed_keeps (u : State) (src : CmdSrc) (op status : Nat) (res : List Fld) :
    keepsAllBut answerParts u (u.completed src op status res) := by
  refine .trans ?_ (State.finish_keeps _ _ _ _ _ _ _).keeps
  split
  · exact (State.dependentChange_keeps u).keeps.mono (by decide)
  · exact .refl _ _

/-- A command completes with an effect that neither a dependent change nor its answer touches: it is enough to show the effect of every
state that differs from the one its checks lead to in the parts of an answer alone. -/
theorem completes_ok_kept {i : Instr} {src : CmdSrc} {op : Nat} {s u : State} {res : List Fld} {qs ps : List Part} {eff : State → Prop}
    {body : State → Rep} (hx : exec i s = .next (s.runCmd i src op body)) (hu : unitLocal i = false) (hb : body s = .ok u res)
    (hk : Rep.keeps qs s (body s)) (hq : ∀ p ∈ qs, p ∈ ps ++ answerParts) (he : ∀ t, keepsAllBut answerParts u t → eff t) :
    completes i src op s res ps eff := by
  rw [hb] at hk
  exact completes_ok hx hu (fun _ => hb) (hk.keeps.mono hq) (he _ (u.completed_keeps _ _ _ _))

/-- A command whose checks lead to a new `parse` completes with that `parse`. -/
theorem completes_parse {i : Instr} {src : CmdSrc} {op : Nat} {s : State} {x : Parse} {res : List Fld} {body : State → Rep}
    (hx : exec i s = .next (s.runCmd i src op body)) (hu : unitLocal i = false) (hb : body s = .ok { s with parse := x } res) :
    completes i src op s res [.parse] fun t => t.parse = x :=
  completes_ok_kept (qs := [.parse]) hx hu hb (by rw [hb]; exact kset_parse (.refl _ _) (by decide)) (by decide)
    fun _ ht => ht .parse (by decide)

/-- A command whose checks lead to a new `core` completes with that `core`. -/
theorem completes_core {i : Instr} {src : CmdSrc} {op : Nat} {s : State} {x : Core} {res : List Fld} {body : State → Rep}
    (hx : exec i s = .next (s.runCmd i src op body)) (hu : unitLocal i = false) (hb : body s = .ok { s with core := x } res) :
    completes i src op s res [.core] fun t => t.core = x :=
  completes_ok_kept (qs := [.core]) hx hu hb (by rw [hb]; exact kset_core (.refl _ _) (by decide)) (by decide)
    fun _ ht => ht .core (by decide)

/-! ## Counts that a reading starts anew (R11, R525) -/

/-- After a CLEAR of the counters of `l`, none of them counts more than its growth in the present CORE cycle. -/
theorem State.sinceBase_rebaseAll_le {s t : State} {l : List Nat} (ht : t.stats = (s.rebaseAll l).stats) {o : Nat} (ho : o ∈ l) :
    t.sinceBase false o ≤ (s.stats.grown s.now).get o := by
  have hbase : t.stats.base.get o = s.stats.live.get o + s.stats.cleared.get o - (s.stats.grown s.now).get o := by
    rw [ht]
    exact Tbl.get_foldl_set (fun k => s.stats.live.get k + s.stats.cleared.get k - (s.stats.grown s.now).get k) l s.stats.base (.inl ho)
  have hlive : t.stats.live = s.stats.live := by rw [ht]; rfl
  have hcleared : t.stats.cleared = s.stats.cleared := by rw [ht]; rfl
  unfold State.sinceBase
  simp only [hbase, hlive, hcleared, Bool.false_eq_true, if_false]
  omega

/-! ## The staging buffers (R298, R315, R427) -/

/-- The ACL parts and the members that `src` has staged. -/
def State.staged (s : State) (src : CmdSrc) : Tbl (List Byte) × Tbl Member := (s.aclStaged src, s.memStaged src)

/-- Every issuer's staging buffers stand in `t` as in `s`. -/
structure State.stagesAs (s t : State) : Prop where
  staged : ∀ src, t.staged src = s.staged src

namespace State.stagesAs

variable {s t u : State}

theorem refl (s : State) : s.stagesAs s := ⟨fun _ => rfl⟩

theorem trans (h : s.stagesAs t) (k : t.stagesAs u) : s.stagesAs u :=
  ⟨fun src => (k.staged src).trans (h.staged src)⟩

theorem ite {c : Prop} [Decidable c] (h : s.stagesAs t) (k : s.stagesAs u) : s.stagesAs (if c then t else u) := by
  split <;> assumption

theorem foldl {α : Type} {f : State → α → State} (hf : ∀ (s : State) (a : α), s.stagesAs (f s a)) (l : List α) (s : State) :
    s.stagesAs (l.foldl f s) :=
  List.foldlRecOn l f (motive := fun t => s.stagesAs t) (.refl s) fun t ht a _ => ht.trans (hf t a)

/-- The buffers stand in the mailboxes, in the overlay slots and in the CONFIG section. -/
theorem of_buffers (hmbs : ∀ m, (t.mbs.get m).aclStage = (s.mbs.get m).aclStage ∧ (t.mbs.get m).memStage = (s.mbs.get m).memStage)
    (hoverlays : ∀ n, (t.fw.overlays.get n).aclStage = (s.fw.overlays.get n).aclStage ∧
      (t.fw.overlays.get n).memStage = (s.fw.overlays.get n).memStage)
    (hconfig : t.fw.cfgAclStage = s.fw.cfgAclStage ∧ t.fw.cfgMemStage = s.fw.cfgMemStage) : s.stagesAs t where
  staged
    | .mailbox m => Prod.ext (hmbs m).1 (hmbs m).2
    | .journal m _ => Prod.ext (hmbs m).1 (hmbs m).2
    | .direct => Prod.ext (hmbs 0).1 (hmbs 0).2
    | .overlay n => Prod.ext (hoverlays n).1 (hoverlays n).2
    | .config => Prod.ext hconfig.1 hconfig.2

theorem of_same (hmbs : t.mbs = s.mbs) (hfw : t.fw = s.fw) : s.stagesAs t :=
  of_buffers (fun _ => by rw [hmbs]; exact ⟨rfl, rfl⟩) (fun _ => by rw [hfw]; exact ⟨rfl, rfl⟩) (by rw [hfw]; exact ⟨rfl, rfl⟩)

theorem raise {src cause : Nat} {data : List Fld} {inj : Bool} (h : s.stagesAs t) : s.stagesAs (t.raise src cause data inj) :=
  h.trans (of_same State.raise_mbs State.raise_fw)

/-- A mailbox changes beside its buffers. -/
theorem of_mailbox {m : Nat} {x : Mailbox} (hmbs : t.mbs = s.mbs.set m x) (hfw : t.fw = s.fw) (hacl : x.aclStage = (s.mbs.get m).aclStage)
    (hmem : x.memStage = (s.mbs.get m).memStage) : s.stagesAs t := by
  refine of_buffers (fun k => ?_) (fun _ => by rw [hfw]; exact ⟨rfl, rfl⟩) (by rw [hfw]; exact ⟨rfl, rfl⟩)
  rw [hmbs, Tbl.get_set]
  split
  · rw [‹k = m›]
    exact ⟨hacl, hmem⟩
  · exact ⟨rfl, rfl⟩

theorem updMb {m : Nat} {f : Mailbox → Mailbox} (h : s.stagesAs t) (hacl : ∀ x, (f x).aclStage = x.aclStage := by exact fun _ => rfl)
    (hmem : ∀ x, (f x).memStage = x.memStage := by exact fun _ => rfl) : s.stagesAs (t.updMb m f) :=
  h.trans (of_mailbox rfl rfl (hacl _) (hmem _))

/-- An overlay slot changes beside its buffers. -/
theorem updOverlay {n : Nat} {f : Overlay → Overlay} (h : s.stagesAs t) (hacl : ∀ o, (f o).aclStage = o.aclStage := by exact fun _ => rfl)
    (hmem : ∀ o, (f o).memStage = o.memStage := by exact fun _ => rfl) :
    s.stagesAs { t with fw := { t.fw with overlays := t.fw.overlays.upd n f } } := by
  refine h.trans (of_buffers (fun _ => ⟨rfl, rfl⟩) (fun k => ?_) ⟨rfl, rfl⟩)
  dsimp only [Tbl.upd]
  rw [Tbl.get_set]
  split
  · rw [‹k = n›]
    exact ⟨hacl _, hmem _⟩
  · exact ⟨rfl, rfl⟩

end State.stagesAs

theorem State.respond_stagesAs (s : State) (m opcode tag status detail : Nat) (notify mirrored : Bool) (res : List Byte) :
    s.stagesAs (s.respond m opcode tag status detail notify mirrored res) := by
  have hset : ∀ (c : Bool) (u : State) (o b : Nat), s.stagesAs u → s.stagesAs (if c then u.hwSet o b else u) :=
    fun _ _ _ _ h => .ite (h.trans (.of_same rfl rfl)) h
  unfold State.respond
  exact .ite (.raise (.ite (.raise (hset _ _ _ _ (.of_mailbox rfl rfl rfl rfl))) (hset _ _ _ _ (.of_mailbox rfl rfl rfl rfl))))
    (.ite (.raise (hset _ _ _ _ (.of_mailbox rfl rfl rfl rfl))) (hset _ _ _ _ (.of_mailbox rfl rfl rfl rfl)))

theorem State.noteAborted_stagesAs (s : State) (m : Nat) (pos : BitVec 32) : s.stagesAs (s.noteAborted m pos) := by
  unfold State.noteAborted
  exact .ite (.refl s) (.raise (.updMb (.refl s)))

theorem State.sweepHead_stagesAs (m n : Nat) (s : State) : s.stagesAs (s.sweepHead m n) := by
  induction n generalizing s with
  | zero => exact .refl s
  | succ n ih =>
    have hpop := fun (rest : List MbCmd) => State.stagesAs.updMb (m := m) (f := fun x => { x with inFlight := rest }) (.refl s)
    unfold State.sweepHead
    split
    · exact .refl s
    · refine .ite (.refl s) (.ite ?_ ?_)
      · exact (((hpop _).trans (State.respond_stagesAs ..)).trans (State.noteAborted_stagesAs ..)).trans (ih _)
      · split
        · exact ((hpop _).trans (State.respond_stagesAs ..)).trans (ih _)
        · exact .refl s

theorem State.sweepReset_stagesAs (m n : Nat) (s : State) : s.stagesAs (s.sweepReset m n) := by
  induction n generalizing s with
  | zero => exact .refl s
  | succ n ih =>
    unfold State.sweepReset
    dsimp only
    split
    · exact .refl s
    · exact .ite (.refl s) (.ite (.updMb (.refl s))
        (((State.respond_stagesAs ..).trans (State.noteAborted_stagesAs ..)).trans (ih _)))

theorem State.sweep_stagesAs (s : State) (m : Nat) : s.stagesAs (s.sweep m) :=
  (State.sweepHead_stagesAs ..).trans (State.sweepReset_stagesAs ..)

theorem State.placeFence_stagesAs (s : State) (src : CmdSrc) (f : Nat) (arm : Bool) : s.stagesAs (s.placeFence src f arm) := by
  have hplaced : s.stagesAs { s with fence := { s.fence with
      epoch := s.fence.epoch + 1, lastF := f
      active := s.fence.active ++ [{ epoch := s.fence.epoch + 1, f := f, src := src, arm := arm }] } } := .of_same rfl rfl
  cases src with
  | mailbox m => exact .updMb hplaced
  | _ => exact hplaced

theorem State.startFence_stagesAs (s : State) (src : CmdSrc) : s.stagesAs (s.startFence src) := by
  have hleft : s.stagesAs { s with fence := { s.fence with waiting := s.fence.waiting.filter (· ≠ src) } } := .of_same rfl rfl
  unfold State.startFence
  dsimp only
  split
  · exact hleft.trans (State.placeFence_stagesAs ..)
  · split
    · rename_i t harmed
      unfold State.armSlot at harmed
      split at harmed
      · obtain rfl := Option.some.inj harmed
        exact hleft.updOverlay.trans (State.placeFence_stagesAs ..)
      · exact absurd harmed (by simp)
    · exact hleft.updOverlay.updMb.trans (State.sweep_stagesAs ..)
  · exact hleft

theorem State.markReady_stagesAs (s : State) : s.stagesAs s.markReady := by
  refine State.stagesAs.foldl (fun t m => ?_) _ s
  split
  · exact .refl t
  · exact .ite (.updMb (.refl t)) (.refl t)

theorem State.pokeOnce_stagesAs (s : State) : s.stagesAs s.pokeOnce :=
  s.markReady_stagesAs.trans (State.stagesAs.foldl (fun t src => .ite (t.startFence_stagesAs src) (.refl t)) _ _)

theorem State.pokeFences_stagesAs (s : State) : s.stagesAs s.pokeFences :=
  s.markReady_stagesAs.trans (State.stagesAs.foldl (fun t _ => t.pokeOnce_stagesAs) _ _)

theorem State.finish_stagesAs (s : State) (src : CmdSrc) (opcode status detail : Nat) (res : List Fld) (ul : Bool) :
    s.stagesAs (s.finish src opcode status detail res ul) := by
  have hstart : ∀ (a : CmdOut) (b : Pair), s.stagesAs { s with
      cmd := a, pair := b
      fw := if src = .mailbox 7 && opcode ≠ 0x0C02 then { s.fw with respPart0 := none } else s.fw } := fun a b => by
    refine .of_buffers (fun _ => ⟨rfl, rfl⟩) (fun _ => ?_) ?_ <;> dsimp only <;> split <;> exact ⟨rfl, rfl⟩
  unfold State.finish
  dsimp only
  split
  · split
    · exact hstart _ _
    · exact .ite (((hstart _ _).updMb.trans (State.respond_stagesAs ..)).trans (State.sweep_stagesAs ..) |>.trans
        (State.pokeFences_stagesAs _)) (hstart _ _)
  · exact hstart _ _

theorem State.dependentChange_stagesAs (s : State) : s.stagesAs s.dependentChange := by
  refine State.stagesAs.foldl (fun t p => ?_) _ s
  dsimp only
  split
  · exact .updOverlay (.refl t)
  · exact .raise (.updOverlay (.refl t))
  · exact .refl t

/-- A completion leaves every staging buffer as the command's own effect left it. -/
theorem State.completed_stagesAs (u : State) (src : CmdSrc) (op status : Nat) (res : List Fld) :
    u.stagesAs (u.completed src op status res) :=
  .trans (.ite u.dependentChange_stagesAs (.refl u)) (State.finish_stagesAs ..)

theorem State.completed_aclStaged (u : State) (src src' : CmdSrc) (op status : Nat) (res : List Fld) :
    (u.completed src op status res).aclStaged src' = u.aclStaged src' :=
  congrArg Prod.fst ((u.completed_stagesAs src op status res).staged src')

theorem State.setAclStage_aclStaged (s : State) (src : CmdSrc) (t : Tbl (List Byte)) : (s.setAclStage src t).aclStaged src = t := by
  have hmb : ∀ m, (((s.updMb m fun x => { x with aclStage := t }).mbs).get m).aclStage = t := fun m => by
    rw [State.updMb, Tbl.get_upd_same]
  cases src with
  | overlay n => exact congrArg Overlay.aclStage (Tbl.get_upd_same s.fw.overlays n fun o => { o with aclStage := t })
  | config => rfl
  | mailbox m => exact hmb m
  | journal m _ => exact hmb m
  | direct => exact hmb 0

end Machine

end Sys2Proof
end

section
/-!
PROOF. The parser commands.
-/
namespace Sys2Proof.Machine

-- Proofs are checked in the order of the text, as in the sections before: more threads at once do not fit in the memory of the check.
set_option Elab.async false

/-! ## A port's parser and an extraction profile (R279, R287) -/

theorem bodyParseConfigurePort_sets {trustPcp trustDscp : Bool} {port malformed lenConflict profile pcpMap dscpMap defClass : Nat}
    (s : State) (h : port < 256 ∧ malformed < 2 ∧ lenConflict < 2 ∧ profile < 16 ∧ pcpMap < 8 ∧ dscpMap < 8 ∧ defClass < 8) :
    bodyParseConfigurePort trustPcp trustDscp port malformed lenConflict profile pcpMap dscpMap defClass s =
      .ok { s with parse := { s.parse with ports := s.parse.ports.upd port fun x => { x with
        malSlow := decide (malformed = 0), lenSlow := decide (lenConflict = 0), profile := profile, trustPcp := trustPcp
        trustDscp := trustDscp, pcpMap := pcpMap, dscpMap := dscpMap, defClass := defClass } } } [] := by
  unfold bodyParseConfigurePort
  rw [Rep.ranges_true (by simpa using h)]
  rfl

theorem bodyParseConfigureExtract_sets {enable0 enable1 : Bool}
    {profile cond0 anchor0 offset0 width0 cond1 anchor1 offset1 width1 : Nat} (s : State)
    (h0 : profile < 16 ∧ cond0 < 4 ∧ anchor0 < 5 ∧ offset0 < 256 ∧ 1 ≤ width0 ∧ width0 ≤ 4)
    (h1 : cond1 < 4 ∧ anchor1 < 5 ∧ offset1 < 256 ∧ 1 ≤ width1 ∧ width1 ≤ 4) :
    bodyParseConfigureExtract enable0 enable1 profile cond0 anchor0 offset0 width0 cond1 anchor1 offset1 width1 s =
      .ok { s with parse := { s.parse with
        extract := (s.parse.extract.set (2 * profile)
          { enable := enable0, cond := cond0, anchor := anchor0, offset := offset0, width := width0 }).set (2 * profile + 1)
          { enable := enable1, cond := cond1, anchor := anchor1, offset := offset1, width := width1 } } } [] := by
  unfold bodyParseConfigureExtract
  rw [Rep.ranges_true (by simp [h0, h1])]
  rfl

/-! ## Access control (R289, R291, R298) -/

theorem bodyAclStage_stages {part : Nat} (src : CmdSrc) (bytes : List Byte) (s : State) (h : part < 4) :
    bodyAclStage src part bytes s = .ok (s.setAclStage src ((s.aclStaged src).set part bytes)) [] := by
  unfold bodyAclStage
  rw [Rep.ranges_true (by simpa using h)]

/-- The first (`k = 0`) or last (`k = 2`) two parts of a staging buffer as one vector: the value or the mask of an entry. -/
def aclVector (staged : Tbl (List Byte)) (k : Nat) : BitVec 640 :=
  BitVec.ofNat 640 (ofBe (padTo 40 (staged.get k) ++ padTo 40 (staged.get (k + 1))))

/-- The action that ACL_COMMIT gives an entry. -/
def aclActionOf (copy capture setClass steer redirect : Bool) (kind tc profile port : Nat) : AclAction :=
  { kind := kind, copy := copy, capture := capture, cls := if setClass then some tc else none
    steer := if steer then some profile else none, redirect := if redirect then some port else none }

/-- The parser with the entry that stands in a staging buffer written under `entry`. -/
def Parse.withAcl (x : Parse) (staged : Tbl (List Byte)) (entry : Nat) (act : AclAction) : Parse :=
  { x with acl := x.acl.set entry { value := aclVector staged 0, mask := aclVector staged 2, act := act } }

/-- The state in which the entry that `src` has staged is written, and its buffer empty. -/
def State.aclCommitted (s : State) (src : CmdSrc) (entry : Nat) (act : AclAction) : State :=
  (s.updParser fun x => x.withAcl (s.aclStaged src) entry act).setAclStage src []

theorem bodyAclCommit_writes {src : CmdSrc} {copy capture setClass steer redirect : Bool} {entry kind tc profile port : Nat} {s : State}
    (hentry : entry < 32768 ∧ kind < 3) (haction : aclActionOk copy setClass steer redirect kind = true)
    (hbits : aclBitsOk (aclVector (s.aclStaged src) 0) (aclVector (s.aclStaged src) 2) = true)
    (hfull : ((List.range 4).all fun k => (s.aclStaged src).has k) = true)
    (hoperands : (if setClass then tc < 8 else tc = 0) ∧ (if steer then profile < 64 else profile = 0) ∧
      (if redirect then port < 256 else port = 0)) :
    bodyAclCommit src copy capture setClass steer redirect entry kind tc profile port s =
      .ok (s.aclCommitted src entry (aclActionOf copy capture setClass steer redirect kind tc profile port)) [] := by
  unfold bodyAclCommit
  dsimp only
  unfold aclVector at hbits
  rw [if_neg (by simp [haction]), Rep.ranges_true (by simp only [List.all_cons, hentry, hfull, hbits, hoperands, decide_true, Bool.not_true,
    Bool.false_or, Bool.and_true, List.all_nil]), if_neg (by simp [hfull])]
  rfl

theorem State.aclCommitted_parse (s : State) (src : CmdSrc) (entry : Nat) (act : AclAction) :
    (s.aclCommitted src entry act).parse = s.parse.withAcl (s.aclStaged src) entry act :=
  (State.setAclStage_keeps _ _ _).keeps .parse (by decide)

theorem bodyAclDelete_deletes {entry : Nat} (s : State) (h : entry < 32768) :
    bodyAclDelete entry s = .ok { s with parse := { s.parse with acl := s.parse.acl.del entry } } [] := by
  unfold bodyAclDelete
  rw [Rep.ranges_true (by simpa using h)]
  rfl

/-- What ACL_READ answers of an entry: a part of its value or mask, its action and its hits. -/
def AclEntry.answer (e : AclEntry) (part : Nat) : List Fld :=
  [.raw 1 (slice (beBytes 80 (if part < 2 then e.value else e.mask).toNat) (40 * (part % 2)) 40), .u 1 e.act.kind,
    .u 1 (flag e.act.copy 1 + flag e.act.capture 2 + flag e.act.cls.isSome 4 + flag e.act.steer.isSome 8 +
      flag e.act.redirect.isSome 16),
    .u 2 (e.act.cls.getD 0), .u 2 (e.act.steer.getD 0), .u 2 (e.act.redirect.getD 0), .u 8 e.hits]

theorem bodyAclRead_answers {entry part : Nat} {e : AclEntry} {s : State} (clear : Bool) (hentry : entry < 32768) (hpart : part < 4)
    (he : s.parse.acl.find entry = some e) : bodyAclRead clear entry part s = .ok { s with parse :=
      if clear then { s.parse with acl := s.parse.acl.set entry { e with hits := 0 } } else s.parse } (e.answer part) := by
  unfold bodyAclRead
  rw [Rep.ranges_true (by simp [hentry, hpart]), he]
  cases clear <;> rfl

/-! ## The slow path and the counts (R283, R298) -/

theorem bodySlowConfigure_sets {reason rate burst : Nat} (s : State) (hreason : 1 ≤ reason ∧ reason ≤ 15) (hrate : rate ≤ 1000000)
    (hburst : 1 ≤ burst ∧ burst ≤ 4096) : bodySlowConfigure reason rate burst s =
      .ok { s with parse := { s.parse with policers := s.parse.policers.upd reason fun y => { y with
        rate := some rate, burst := some burst, level := some (min (y.levelNow reason s.now) (burst * secC)), at_ := s.now } } } [] := by
  unfold bodySlowConfigure
  rw [Rep.ranges_true (by simp [hreason, hrate, hburst])]
  rfl

/-- The state in which the parser's counts of port `port` start anew. -/
def State.parseCleared (s : State) (port : Nat) : State :=
  (s.rebaseAll (parseCounters port)).updParse port fun x => { x with excSeen := false }

theorem bodyParseGetCounts_answers {port : Nat} (clear : Bool) (s : State) (h : port < 256) : bodyParseGetCounts clear port s =
    .ok (if clear then s.parseCleared port else s) ((parseCounters port).map fun o => Fld.u 8 (s.sinceBase clear o)) := by
  unfold bodyParseGetCounts
  rw [Rep.ranges_true (by simpa using h)]
  rfl

/-! ## The statement -/

/-- Settles O6, command by command: what its own checks come to, and then its completion. -/
theorem parserCommands : Obligations.ParserCommands := by
  unfold Obligations.ParserCommands
  refine ⟨?_, ?_, ?_, ?_, ?_, ?_, ?_, ?_⟩
  · intro src trustPcp trustDscp port malformed lenConflict profile pcpMap dscpMap defClass s h
    exact completes_parse rfl rfl (bodyParseConfigurePort_sets s h)
  · intro src enable0 enable1 profile cond0 anchor0 offset0 width0 cond1 anchor1 offset1 width1 s h0 h1
    exact completes_parse rfl rfl (bodyParseConfigureExtract_sets s h0 h1)
  · rintro src part bytes s ⟨hpart, _⟩
    refine completes_ok rfl rfl (fun _ => bodyAclStage_stages src bytes s hpart)
      ((State.setAclStage_keeps _ _ _).keeps.mono (by decide)) ?_
    exact (State.completed_aclStaged ..).trans (s.setAclStage_aclStaged src _)
  · rintro src copy capture setClass steer redirect entry kind tc profile port _ _ s rfl rfl ⟨hentry, hkind, haction, hbits⟩ ⟨hfull, _⟩
      hoperands
    have hbody := bodyAclCommit_writes (capture := capture) ⟨hentry, hkind⟩ haction hbits hfull hoperands
    have hkeeps := bodyAclCommit_keeps src copy capture setClass steer redirect entry kind tc profile port s
    rw [hbody] at hkeeps
    refine completes_ok rfl rfl (fun _ => hbody) (hkeeps.keeps.mono (by decide)) ⟨?_, ?_⟩
    · exact (State.completed_aclStaged ..).trans (State.setAclStage_aclStaged ..)
    · exact (State.completed_keeps _ _ _ _ _ .parse (by decide)).trans (s.aclCommitted_parse ..)
  · intro src entry s h
    exact completes_parse rfl rfl (bodyAclDelete_deletes s h)
  · rintro src clear entry part e s ⟨hentry, hpart, he⟩
    exact completes_parse rfl rfl (bodyAclRead_answers clear hentry hpart he)
  · rintro src reason rate burst s ⟨hreason, hreason', hrate, hburst⟩
    exact completes_parse rfl rfl (bodySlowConfigure_sets s ⟨hreason, hreason'⟩ hrate hburst)
  · intro src clear port s h
    refine completes_ok_kept rfl rfl (bodyParseGetCounts_answers clear s h) (bodyParseGetCounts_keeps clear port s) (by decide)
      fun t ht => ?_
    have hstats : t.stats = _ := ht .stats (by decide)
    have hparse : t.parse = _ := ht .parse (by decide)
    refine ⟨?_, ?_⟩
    · rintro rfl
      exact ⟨hstats, hparse⟩
    · rintro rfl
      refine ⟨?_, hparse⟩
      rw [List.all_eq_true]
      exact fun o ho => decide_eq_true (State.sinceBase_rebaseAll_le hstats ho)

end Sys2Proof.Machine
end

section
/-!
PROOF. The class, buffer, queue, egress and skein commands.
-/
namespace Sys2Proof.Machine

-- Proofs are checked in the order of the text, as in the sections before: more threads at once do not fit in the memory of the check.
set_option Elab.async false

/-! ## Class maps and kinds (R292, R356) -/

/-- The parser with classes `classes` in map `map` of kind `kind`, PCP or DSCP, from entry `first` on. -/
def Parse.withClasses (x : Parse) (kind map first : Nat) (classes : List Nat) : Parse :=
  if kind = 0 then { x with pcp := (classes.zipIdx).foldl (fun l c => l.set (8 * map + first + c.2) c.1) x.pcp }
  else { x with dscp := (classes.zipIdx).foldl (fun l c => l.set (64 * map + first + c.2) c.1) x.dscp }

theorem bodyClassSetMap_sets {kind map first count : Nat} {classes : List Nat} (s : State) (hmap : kind < 2 ∧ map < 8)
    (hspan : first < (if kind = 0 then 8 else 64) ∧ 1 ≤ count ∧ first + count ≤ (if kind = 0 then 8 else 64))
    (hclasses : classes.length = count ∧ (classes.all fun c => decide (c < 8)) = true) :
    bodyClassSetMap kind map first count classes s =
      .ok { s with parse := s.parse.withClasses kind map first classes } [] := by
  unfold bodyClassSetMap Parse.withClasses
  dsimp only
  rw [Rep.ranges_true (by simp only [List.all_cons, List.all_nil, hmap, hspan, hclasses, and_self, decide_true,
    Bool.and_true])]
  by_cases hkind : kind = 0
  · simp only [if_pos hkind]
    rfl
  · simp only [if_neg hkind]
    rfl

theorem classSetMap_completes (src : CmdSrc) {kind map first count : Nat} {classes : List Nat} (s : State) (hmap : kind < 2 ∧ map < 8)
    (hspan : first < (if kind = 0 then 8 else 64) ∧ 1 ≤ count ∧ first + count ≤ (if kind = 0 then 8 else 64))
    (hclasses : classes.length = count ∧ (classes.all fun c => decide (c < 8)) = true) :
    completes (.classSetMap src kind map first count classes) src 0x0501 s [] [.parse]
      fun t => t.parse = s.parse.withClasses kind map first classes :=
  completes_parse rfl rfl (bodyClassSetMap_sets s hmap hspan hclasses)

/-- The core with class `cls` of the ports `ps` of kind `kind`, deep or plain. -/
def Core.withKind (x : Core) (ps : List Nat) (cls kind : Nat) : Core :=
  { x with kinds := ps.foldl (fun l q => l.set (4 * q + cls) (decide (kind = 0))) x.kinds }

theorem bodyClassSetKind_sets {port cls kind : Nat} (s : State) (hport : port < 256 ∨ port = 0xFFFF) (hcls : cls < 4) (hkind : kind < 2) :
    bodyClassSetKind port cls kind s =
      .ok { s with core := s.core.withKind (if port = 0xFFFF then List.range 256 else [port]) cls kind } [] := by
  unfold bodyClassSetKind
  rw [decide_eq_true hport, decide_eq_true hcls, decide_eq_true hkind, Rep.ranges_true rfl]
  rfl

/-! ## Limits, weights and spilling (R334, R338, R342) -/

theorem bodyBufferConfigureClass_sets {cls cl spillOn returnLow : Nat} (s : State) (hcls : cls < 8 ∧ cl ≤ 524288)
    (hdeep : if cls < 4 then 16 ≤ spillOn ∧ spillOn ≤ 65536 ∧ 16 ≤ returnLow ∧ returnLow ≤ 65536 else spillOn = 0 ∧ returnLow = 0) :
    bodyBufferConfigureClass cls cl spillOn returnLow s =
      .ok { s with core := { s.core with classes := s.core.classes.upd cls fun x =>
        if cls < 4 then { x with cl := cl, spillOn := spillOn, returnLow := returnLow } else { x with cl := cl } } } [] := by
  unfold bodyBufferConfigureClass
  rw [Rep.ranges_true]
  split at hdeep <;> simp [*]

theorem bodyQueueConfigure_sets {port cls ql weight : Nat} {s : State} (hqueue : port < 256 ∧ cls < 8)
    (hql : 1 ≤ ql ∧ ql ≤ (if s.kindOf port cls = 1 then 134217728 else 524288)) (hweight : 1 ≤ weight ∧ weight ≤ 127)
    (hchip : s.kindOf port cls = 1 → s.fuses.orderCode = .lc → ql ≤ 524288) : bodyQueueConfigure port cls ql weight s =
      .ok { s with core := { s.core with queues := s.core.queues.upd (8 * port + cls) fun x =>
        { x with ql := some ql, weight := weight } } } [] := by
  have hmay : ¬((decide (s.kindOf port cls = 1) && decide (s.fuses.orderCode = .lc) && decide (524288 < ql)) = true) := by
    simp only [Bool.and_eq_true, decide_eq_true_eq]
    rintro ⟨⟨hdeep, hlc⟩, hbeyond⟩
    exact absurd (hchip hdeep hlc) (Nat.not_le.2 hbeyond)
  unfold bodyQueueConfigure
  rw [Rep.ranges_true (by simp [hqueue, hql, hweight]), if_neg hmay]
  rfl

theorem bodyQueueConfigure_refuses {port cls ql weight : Nat} {s : State} (hqueue : port < 256 ∧ cls < 8)
    (hweight : 1 ≤ weight ∧ weight ≤ 127) (hdeep : s.kindOf port cls = 1) (hlc : s.fuses.orderCode = .lc)
    (hbeyond : 524288 < ql) (hql : ql ≤ 134217728) : bodyQueueConfigure port cls ql weight s = .fail stNotPermitted [] := by
  have hpos : 1 ≤ ql := Nat.le_trans (by decide) hbeyond
  unfold bodyQueueConfigure
  rw [Rep.ranges_true (by simp [hqueue, hweight, hdeep, hpos, hql]), if_pos (by simp [hdeep, hlc, hbeyond])]

/-- The state with the egress limit and mode of port `port` set, the contracts not judged yet. -/
def State.withEgress (s : State) (cut : Bool) (port limit : Nat) : State :=
  { s with core := { s.core with ports := s.core.ports.upd port fun x => { x with limitB := limit, cut := cut } } }

theorem bodyPortConfigureEgress_sets {port limit : Nat} (cut : Bool) (s : State) (hport : port < 256)
    (hlimit : 16 ≤ limit ∧ limit ≤ 16384) : bodyPortConfigureEgress cut port limit s = .ok (s.withEgress cut port limit).reevaluate [] := by
  unfold bodyPortConfigureEgress
  rw [Rep.ranges_true (by simp [hport, hlimit])]
  rfl

theorem bodySkeinConfigure_sets {cls : Nat} {spill : Bool} {s : State} (hcls : cls < 4) (hskein : s.fuses.orderCode ≠ .lc)
    (hready : spill = true → s.glob.pdOn.getLsbD 5 = true ∧ s.core.skein = .ready) : bodySkeinConfigure spill cls s =
      .ok { s with core := { s.core with classes := s.core.classes.upd cls fun x => { x with spill := spill } } } [] := by
  have hmay : ¬((spill && !(s.glob.pdOn.getLsbD 5 && decide (s.core.skein = .ready))) = true) := by
    cases spill with
    | false => exact Bool.false_ne_true
    | true => simp [hready rfl]
  unfold bodySkeinConfigure
  rw [Rep.ranges_true (by simpa using hcls), if_neg hskein, if_neg hmay]

theorem bodySkeinConfigure_refuses {cls : Nat} {s : State} (spill : Bool) (hcls : cls < 4) (hlc : s.fuses.orderCode = .lc) :
    bodySkeinConfigure spill cls s = .fail stNotPermitted [] := by
  unfold bodySkeinConfigure
  rw [Rep.ranges_true (by simpa using hcls), if_pos hlc]

/-! ## What the reading commands answer (R348, R354) -/

/-- What SKEIN_GET_STATUS answers. -/
def State.skeinAnswer (s : State) : List Fld :=
  [.u 1 s.core.skein.code, .u 4 s.skeinCells, .u 4 s.core.skRetired,
    .u 4 (min ((s.core.skSpilled - nth s.core.skBase 0) * secC / max 1 (s.now - s.core.skBaseAt)) (2 ^ 32 - 1)),
    .u 4 (min ((s.core.skReturned - nth s.core.skBase 1) * secC / max 1 (s.now - s.core.skBaseAt)) (2 ^ 32 - 1)),
    .u 8 (s.core.skCorrected - nth s.core.skBase 2), .u 8 (s.core.skUncorr - nth s.core.skBase 3)]

theorem bodySkeinGetStatus_answers {s : State} (clear : Bool) (hskein : s.fuses.orderCode ≠ .lc) : bodySkeinGetStatus clear s =
    .ok { s with core := if clear then { s.core with
      skBase := [s.core.skSpilled, s.core.skReturned, s.core.skCorrected, s.core.skUncorr], skBaseAt := s.now } else s.core }
      s.skeinAnswer := by
  unfold bodySkeinGetStatus
  rw [if_neg hskein]
  cases clear <;> rfl

/-- The BAR2 counters of a queue that CORE_GET_QUEUE returns. -/
def queueCounters (port cls : Nat) : List Nat := [0x10, 0x18, 0x20, 0x28, 0x30, 0x38].map (queueCtr port cls)

/-- What CORE_GET_QUEUE answers. -/
def State.queueAnswer (s : State) (clear : Bool) (port cls : Nat) : List Fld :=
  [Fld.u 1 (s.kindOf port cls), Fld.u 4 (s.queueOnChip port cls), Fld.u 4 (s.queueSkein port cls),
    Fld.u 4 (s.copiesWhere fun x => decide (x.port = port ∧ x.tc = cls)).length, Fld.u 4 (s.core.queues.get (8 * port + cls)).peak] ++
    ((queueCounters port cls).map fun o => Fld.u 8 (s.sinceBase clear o)) ++
    (List.range 6).map fun i => Fld.u 8 (nth (s.core.queues.get (8 * port + cls)).stomps i -
      nth (s.core.queues.get (8 * port + cls)).stompBase i)

/-- The state in which the counts of a queue start anew. -/
def State.queueCleared (s : State) (port cls : Nat) : State :=
  (s.rebaseAll (queueCounters port cls)).updQueue port cls fun x =>
    { x with peak := s.queueOnChip port cls + s.queueSkein port cls, stompBase := x.stomps }

theorem bodyCoreGetQueue_answers {port cls : Nat} (clear : Bool) (s : State) (hport : port < 256) (hcls : cls < 8) :
    bodyCoreGetQueue clear port cls s = .ok (if clear then s.queueCleared port cls else s) (s.queueAnswer clear port cls) := by
  unfold bodyCoreGetQueue
  rw [Rep.ranges_true (by simp [hport, hcls])]
  rfl

/-! ## The statement -/

/-- Settles O11, command by command: what its own checks come to, and then its completion or its refusal. -/
theorem coreCommands : Obligations.CoreCommands := by
  unfold Obligations.CoreCommands
  refine ⟨?_, ?_, ?_, ?_, ?_, ?_, ?_, ?_, ?_, ?_, ?_, ?_, ?_⟩
  · rintro src kind map first count classes s ⟨hkind, hmap, hfirst, hcount, hspan, hclasses⟩ hacts
    obtain ⟨t, hx, hop, hst, hres, hkeeps, hparse⟩ :=
      classSetMap_completes src s ⟨hkind, hmap⟩ ⟨hfirst, hcount, hspan⟩ hclasses hacts
    refine ⟨t, hx, hop, hst, hres, hkeeps, ?_⟩
    rintro rfl
    exact hparse
  · rintro src _ map first count classes s ⟨rfl, hmap, hfirst, hcount, hspan, hclasses⟩
    exact classSetMap_completes src s ⟨by decide, hmap⟩ ⟨hfirst, hcount, hspan⟩ hclasses
  · intro src cls cl spillOn returnLow s hcls hdeep
    exact completes_core rfl rfl (bodyBufferConfigureClass_sets s hcls hdeep)
  · rintro src port cls ql weight s ⟨hport, hcls, hql, hql', hweight⟩ hchip
    exact completes_core rfl rfl (bodyQueueConfigure_sets ⟨hport, hcls⟩ ⟨hql, hql'⟩ hweight hchip)
  · rintro src port cls ql weight s ⟨hport, hcls, hweight, hweight', hdeep, hlc, hbeyond, hql⟩ hacts
    exact exec_refused rfl (bodyQueueConfigure_refuses ⟨hport, hcls⟩ ⟨hweight, hweight'⟩ hdeep hlc hbeyond hql) hacts
  · rintro src cut port limit s ⟨hport, hlimit⟩
    exact completes_ok_kept rfl rfl (bodyPortConfigureEgress_sets cut s hport hlimit) (bodyPortConfigureEgress_keeps cut port limit s)
      (by decide) fun t ht => (ht .core (by decide)).trans ((State.reevaluate_keeps _).keeps .core (by decide))
  · rintro src spill cls s ⟨hcls, hskein, hready⟩
    exact completes_core rfl rfl (bodySkeinConfigure_sets hcls hskein hready)
  · rintro src spill cls s ⟨hcls, hlc⟩ hacts
    exact exec_refused rfl (bodySkeinConfigure_refuses spill hcls hlc) hacts
  · intro src clear s hskein
    exact completes_core rfl rfl (bodySkeinGetStatus_answers clear hskein)
  · rintro src clear port cls s ⟨hport, hcls⟩
    refine completes_ok_kept rfl rfl (bodyCoreGetQueue_answers clear s hport hcls) (bodyCoreGetQueue_keeps clear port cls s) (by decide)
      fun t ht => (ht .core (by decide)).trans ?_
    cases clear <;> rfl
  · intro src s
    exact completes_reading (body := bodyBufferGetStatus) rfl rfl rfl rfl
  · rintro src port cls kind s ⟨hport, hcls, hkind⟩
    have hbody := bodyClassSetKind_sets s (.inl hport) hcls hkind
    rw [if_neg (Nat.ne_of_lt (Nat.lt_trans hport (by decide)))] at hbody
    exact completes_core rfl rfl hbody
  · rintro src _ cls kind s ⟨rfl, hcls, hkind⟩
    exact completes_core rfl rfl (bodyClassSetKind_sets s (.inr rfl) hcls hkind)

end Sys2Proof.Machine
end

section
/-!
PROOF. The statement of the steering commands fails, with the state that shows it.
-/
namespace Sys2Proof.Machine

-- Proofs are checked in the order of the text, as in the sections before: more threads at once do not fit in the memory of the check.
set_option Elab.async false

/-- An indirection table that lists entry 0 twice. -/
def indEntryTwice : State := { parse := { ind := [(0, 0x10000000), (0, 0x20000000)] } }

/-- The state with 0 written to entry 0. -/
def indEntryTwiceWritten : State := indEntryTwice.updParser fun x => x.writeInd 0 0 [0]

theorem exec_steerWrite_indEntryTwice : exec (.steerWrite .direct 0 0 1 [0]) indEntryTwice =
    .next (indEntryTwiceWritten.dependentChange.finish .direct 0x0427 stOk 0 []) := rfl

/-- The first of the two entries is gone, and the second is read in its place. -/
theorem indEntryTwiceWritten_entry : indEntryTwiceWritten.parse.ind.get (4096 * 0 + 0 + 0) = 0x20000000 := by
  decide

/-- Refutes O7: STEER_WRITE of 0 takes an entry out of the table, and no premise says that the table lists each entry once. Where it lists
one twice, the entry does not read as 0 afterwards. -/
theorem not_steeringCommands : ¬ Obligations.SteeringCommands := by
  unfold Obligations.SteeringCommands
  rintro ⟨_, _, hwrite, _⟩
  obtain ⟨t, hx, _, _, _, _, hentries, _⟩ := hwrite .direct 0 0 1 [0] indEntryTwice (by decide) (by decide)
  rw [exec_steerWrite_indEntryTwice] at hx
  obtain rfl := Host.Outcome.next.inj hx
  have hzero := hentries 0 (by decide)
  rw [State.finish_parse, State.dependentChange_parse, indEntryTwiceWritten_entry] at hzero
  exact absurd hzero (by decide)

end Sys2Proof.Machine
end

section
/-!
PROOF. The statement of the table and debug rows fails, with the state that shows it.
-/
namespace Sys2Proof.Machine

-- Proofs are checked in the order of the text, as in the sections before: more threads at once do not fit in the memory of the check.
set_option Elab.async false

/-- An ACTIVE unit without a partner: a FENCE of mailbox 0 has F = 256 and is still to complete, and source 0 of the duplicate table has sent
nothing since cycle 0. -/
def fenceBeforeExpiry : State :=
  { time := { tickOn := true }
    pair := { enable := true, role := .active, dup := [(0, {})] }
    fence := { epoch := 1, lastF := 256, active := [{ epoch := 1, f := 256, src := .mailbox 0 }] }
    mbs := [(0, { state := .running, submit := 1, fetch := 1, inFlight := [{ opcode := 1, started := true, committed := true }] })] }

/-- The same unit a second on, before the source leaves the table: the FENCE has completed on the way. -/
def fenceBeforeExpiryPassed : State := fenceBeforeExpiry.advance secC

theorem exec_dupEntryExpiry_fenceBeforeExpiry : exec (.dupEntryExpiry 0) fenceBeforeExpiry =
    .next { fenceBeforeExpiryPassed with pair := { fenceBeforeExpiryPassed.pair with dup := fenceBeforeExpiryPassed.pair.dup.del 0 } } :=
  rfl

theorem fenceBeforeExpiryPassed_unmirrored : fenceBeforeExpiryPassed.pair.unmirrored = [(0, 1)] := by
  decide +kernel

/-- Refutes O36: in the second until a source of the duplicate table has gone unseen, a FENCE of an ACTIVE unit without a partner completes
with ST_PAIR_UNMIRRORED, and the pair counts it (R400); so the source's entry is not all of the pair's state that changes. -/
theorem not_tableAndDebugRows : ¬ Obligations.TableAndDebugRows := by
  unfold Obligations.TableAndDebugRows
  rintro ⟨_, _, _, _, _, _, _, _, hexpiry, _⟩
  obtain ⟨t, hx, _, hpair, _⟩ := hexpiry 0 {} fenceBeforeExpiry ⟨by decide, rfl⟩
  rw [exec_dupEntryExpiry_fenceBeforeExpiry] at hx
  obtain rfl := Host.Outcome.next.inj hx
  have hcount : fenceBeforeExpiryPassed.pair.unmirrored = [] := congrArg Pair.unmirrored hpair
  rw [fenceBeforeExpiryPassed_unmirrored] at hcount
  exact absurd hcount (by decide)

end Sys2Proof.Machine
end

section
/-!
PROOF. The VLAN, L2 and next-hop commands, and the host-route, LPM, ECMP and multicast commands.
-/
namespace Sys2Proof.Machine

-- Proofs are checked in the order of the text, as in the sections before: more threads at once do not fit in the memory of the check.
set_option Elab.async false

/-! ## How a command that writes a forwarding table completes -/

/-- A command whose checks lead to new forwarding tables completes with those. -/
theorem completes_fwd {i : Instr} {src : CmdSrc} {op : Nat} {s : State} {x : Fwd} {res : List Fld} {body : State → Rep}
    (hx : exec i s = .next (s.runCmd i src op body)) (hu : unitLocal i = false) (hb : body s = .ok { s with fwd := x } res) :
    completes i src op s res [.fwd] fun t => t.fwd = x :=
  completes_ok_kept (qs := [.fwd]) hx hu hb (by rw [hb]; exact kset_fwd (.refl _ _) (by decide)) (by decide)
    fun _ ht => ht .fwd (by decide)

/-- The state with forwarding tables `x` after `n` locations have been picked, each a free value. -/
def State.placed (s : State) (n : Nat) (x : Fwd) : State := { s with free := s.free + n, fwd := x }

theorem State.placed_keeps (s : State) (n : Nat) (x : Fwd) : goesOn [.free, .fwd] s (s.placed n x) :=
  kset_fwd (t := { s with free := s.free + n }) (kset_free (.refl _ _) (by decide)) (by decide)

/-- A command whose checks place `n` new items completes with the tables that hold them. -/
theorem completes_placed {i : Instr} {src : CmdSrc} {op n : Nat} {s : State} {x : Fwd} {res : List Fld} {body : State → Rep}
    (hx : exec i s = .next (s.runCmd i src op body)) (hu : unitLocal i = false) (hb : body s = .ok (s.placed n x) res) :
    completes i src op s res [.free, .fwd] fun t => t.fwd = x ∧ t.free = s.free + n :=
  completes_ok_kept (qs := [.free, .fwd]) hx hu hb (by rw [hb]; exact s.placed_keeps n x) (by decide)
    fun _ ht => ⟨ht .fwd (by decide), ht .free (by decide)⟩

/-! ## Picking locations (R305, R317) -/

/-- Picking `n` locations uses up `n` free values and changes nothing else. -/
theorem State.pickLocs_eq (s : State) (t : Nat) (taken : List Nat) (n : Nat) :
    s.pickLocs t taken n = ({ s with free := s.free + n }, (s.pickLocs t taken n).2) := by
  refine Prod.ext ?_ rfl
  induction n generalizing s taken with
  | zero => rfl
  | succ n ih =>
    refine (ih s.takeFree.2 _).trans ?_
    simp only [State.takeFree, Nat.add_right_comm s.free 1 n, Nat.add_assoc]

theorem State.pickLocs_one_headD (s : State) (t : Nat) (taken : List Nat) :
    (s.pickLocs t taken 1).2.headD 0 = freeLocation (tableSize t) taken (Config.freeNat s.free) :=
  rfl

/-! ## VLANs, router MACs and port VIDs (R301, R306) -/

theorem bodyVlanConfigure_writes {enable l3 : Bool} {vid : Nat} (members untagged : BitVec 256) {unknown floodMgid rmac : Nat} {s : State}
    (hvid : vidOk vid = true) (hrest : unknown < 3 ∧ floodMgid < 65536 ∧ rmac < 64) (hnamed : enable = true ∨ s.vlanNamed vid = false)
    (hrouted : l3 = true ∨ s.vlanRouted vid = false) : bodyVlanConfigure enable l3 vid members untagged unknown floodMgid rmac s =
      .ok { s with fwd := { s.fwd with
        vlans := s.fwd.vlans.set vid {
          enable := enable, members := members, untagged := untagged, unknown := unknown, floodMgid := floodMgid, l3 := l3
          rmac := rmac } } } [] := by
  have hmayDisable : ¬(((s.fwd.vlans.get vid).enable && !enable && s.vlanNamed vid) = true) := by
    rcases hnamed with h | h <;> simp [h]
  have hmayStop : ¬(((s.fwd.vlans.get vid).l3 && !l3 && s.vlanRouted vid) = true) := by
    rcases hrouted with h | h <;> simp [h]
  unfold bodyVlanConfigure
  rw [Rep.ranges_true (by simp [hvid, hrest])]
  dsimp only
  rw [if_neg hmayDisable, if_neg hmayStop]
  rfl

theorem bodyVlanConfigure_refuses {enable l3 : Bool} {vid : Nat} (members untagged : BitVec 256) {unknown floodMgid rmac : Nat} {s : State}
    (hvid : vidOk vid = true) (hrest : unknown < 3 ∧ floodMgid < 65536 ∧ rmac < 64)
    (hinUse : (s.fwd.vlans.get vid).enable = true ∧ enable = false ∧ s.vlanNamed vid = true ∨
      (s.fwd.vlans.get vid).l3 = true ∧ l3 = false ∧ s.vlanRouted vid = true) :
    bodyVlanConfigure enable l3 vid members untagged unknown floodMgid rmac s = .fail stBadState [] := by
  unfold bodyVlanConfigure
  rw [Rep.ranges_true (by simp [hvid, hrest])]
  rcases hinUse with ⟨hon, rfl, hnamed⟩ | ⟨hon, rfl, hrouted⟩
  · exact if_pos (by simp [hon, hnamed])
  · have hstops : ((s.fwd.vlans.get vid).l3 && !false && s.vlanRouted vid) = true := by simp [hon, hrouted]
    dsimp only
    rw [if_pos hstops, Rep.badState, ite_self]

theorem bodyPortSetPvid_sets {port pvid : Nat} (s : State) (hport : port < 256) (hpvid : vidOk pvid = true) :
    bodyPortSetPvid port pvid s = .ok { s with ports := s.ports.upd port fun x => { x with pvid := pvid } } [] := by
  unfold bodyPortSetPvid
  rw [Rep.ranges_true (by simp [hport, hpvid])]
  rfl

theorem bodyRouterMacSet_sets {index : Nat} (mac : Nat) (s : State) (h : index < 64) :
    bodyRouterMacSet index mac s = .ok { s with fwd := { s.fwd with rmacs := s.fwd.rmacs.set index mac } } [] := by
  unfold bodyRouterMacSet
  rw [Rep.ranges_true (by simpa using h)]
  rfl

/-! ## L2 entries (R303, R314) -/

section
variable {vid da result : Nat} {s : State}

theorem bodyL2Add_adds (replace : Bool) (hvid : vidOk vid = true) (hres : resultOk [0, 1, 4, 5] result = true)
    (hnew : s.fwd.l2.find (l2Key vid da) = none) (hfits : fits 0 1 (s.takenLocs 0) = true) : bodyL2Add replace vid da result s =
      .ok (s.placed 1 { s.fwd with
        l2 := s.fwd.l2.set (l2Key vid da) {
          result := BitVec.ofNat 32 result
          loc := freeLocation (tableSize 0) (s.takenLocs 0) (Config.freeNat s.free) } }) [] := by
  unfold bodyL2Add
  rw [Rep.ranges_true (by simp [hvid, hres])]
  dsimp only
  rw [hnew]
  dsimp only
  rw [if_neg (by simp [hfits]), State.pickLocs_eq, ← State.pickLocs_one_headD]
  rfl

theorem bodyL2Add_replaces {x : L2Entry} (hvid : vidOk vid = true) (hres : resultOk [0, 1, 4, 5] result = true)
    (hold : s.fwd.l2.find (l2Key vid da) = some x) : bodyL2Add true vid da result s =
      .ok { s with fwd := { s.fwd with l2 := s.fwd.l2.set (l2Key vid da) { x with result := BitVec.ofNat 32 result } } } [] := by
  unfold bodyL2Add
  rw [Rep.ranges_true (by simp [hvid, hres])]
  dsimp only
  rw [hold]
  rfl

theorem bodyL2Add_refuses (hvid : vidOk vid = true) (hres : resultOk [0, 1, 4, 5] result = true)
    (hold : (s.fwd.l2.find (l2Key vid da)).isSome = true) : bodyL2Add false vid da result s = .fail stBadState [] := by
  obtain ⟨x, hx⟩ := Option.isSome_iff_exists.1 hold
  unfold bodyL2Add
  rw [Rep.ranges_true (by simp [hvid, hres])]
  dsimp only
  rw [hx]
  rfl

end

theorem bodyL2Delete_deletes {vid : Nat} (da : Nat) (s : State) (hvid : vidOk vid = true) : bodyL2Delete vid da s =
    .ok { s with fwd := { s.fwd with l2 := s.fwd.l2.del (l2Key vid da) } } [.u 1 (flag (s.fwd.l2.has (l2Key vid da)) 1)] := by
  unfold bodyL2Delete
  rw [Rep.ranges_true (by simp [hvid])]
  rfl

/-! ## Next hops (R306, R314) -/

theorem bodyNhWrite_writes {nh port vid rmac : Nat} (decTtl : Bool) (da : Nat) (s : State)
    (h : nh < 65536 ∧ port < 256 ∧ vidOk vid = true ∧ rmac < 64) : bodyNhWrite decTtl nh port vid da rmac s =
      .ok { s with fwd := { s.fwd with nhs := s.fwd.nhs.set nh { port := port, vid := vid, da := da, rmac := rmac, decTtl := decTtl } } }
        [] := by
  unfold bodyNhWrite
  rw [Rep.ranges_true (by simp [h])]
  rfl

theorem bodyNhDelete_deletes {nh : Nat} {s : State} (h : nh < 65536) (hfree : s.nhNamed nh = false) :
    bodyNhDelete nh s = .ok { s with fwd := { s.fwd with nhs := s.fwd.nhs.del nh } } [] := by
  unfold bodyNhDelete
  rw [Rep.ranges_true (by simpa using h), if_neg (by simp [hfree])]
  rfl

theorem bodyNhDelete_refuses {nh : Nat} {s : State} (h : nh < 65536) (hnamed : s.nhNamed nh = true) :
    bodyNhDelete nh s = .fail stBadState [] := by
  unfold bodyNhDelete
  rw [Rep.ranges_true (by simpa using h), if_pos hnamed]
  rfl

/-! ## Host routes (R304, R314) -/

section
variable {family addr result : Nat} {s : State}

theorem bodyHostAdd_adds (replace : Bool) (haddr : family < 2 ∧ addr < 2 ^ famBits (decide (family = 1)))
    (hres : resultOk [0, 2, 3, 4, 5] result = true) (hexists : s.resultExists result = true)
    (hnew : s.fwd.hosts.find (hostKey (decide (family = 1)) addr) = none) (hfits : fits 1 (family + 1) (s.takenLocs 1) = true) :
    bodyHostAdd replace family addr result s =
      .ok (s.placed (family + 1) { s.fwd with
        hosts := s.fwd.hosts.set (hostKey (decide (family = 1)) addr) {
          result := BitVec.ofNat 32 result
          loc := (s.pickLocs 1 (s.takenLocs 1) (family + 1)).2.headD 0
          loc2 := (s.pickLocs 1 (s.takenLocs 1) (family + 1)).2[1]? } }) [] := by
  have hunits : (if decide (family = 1) = true then 2 else 1) = family + 1 := by
    simp only [decide_eq_true_eq]
    split <;> omega
  unfold bodyHostAdd
  dsimp only
  rw [Rep.ranges_true (by simp [haddr, hres]), if_neg (by simp [hexists]), hnew]
  dsimp only
  rw [hunits, if_neg (by simp [hfits]), State.pickLocs_eq]
  rfl

theorem bodyHostAdd_replaces {x : HostEntry} (haddr : family < 2 ∧ addr < 2 ^ famBits (decide (family = 1)))
    (hres : resultOk [0, 2, 3, 4, 5] result = true) (hexists : s.resultExists result = true)
    (hold : s.fwd.hosts.find (hostKey (decide (family = 1)) addr) = some x) : bodyHostAdd true family addr result s =
      .ok { s with fwd := { s.fwd with
        hosts := s.fwd.hosts.set (hostKey (decide (family = 1)) addr) { x with result := BitVec.ofNat 32 result } } } [] := by
  unfold bodyHostAdd
  dsimp only
  rw [Rep.ranges_true (by simp [haddr, hres]), if_neg (by simp [hexists]), hold]
  rfl

theorem bodyHostAdd_refuses {replace : Bool} (haddr : family < 2 ∧ addr < 2 ^ famBits (decide (family = 1)))
    (hres : resultOk [0, 2, 3, 4, 5] result = true) (h : s.resultExists result = false ∨
      replace = false ∧ (s.fwd.hosts.find (hostKey (decide (family = 1)) addr)).isSome = true) :
    bodyHostAdd replace family addr result s = .fail stBadState [] := by
  unfold bodyHostAdd
  dsimp only
  rw [Rep.ranges_true (by simp [haddr, hres])]
  rcases h with hmissing | ⟨rfl, hold⟩
  · exact if_pos (by simp [hmissing])
  · obtain ⟨x, hx⟩ := Option.isSome_iff_exists.1 hold
    rw [hx]
    exact ite_self _

theorem bodyHostDelete_deletes (s : State) (haddr : family < 2 ∧ addr < 2 ^ famBits (decide (family = 1))) :
    bodyHostDelete family addr s =
      .ok { s with fwd := { s.fwd with hosts := s.fwd.hosts.del (hostKey (decide (family = 1)) addr) } }
        [.u 1 (flag (s.fwd.hosts.has (hostKey (decide (family = 1)) addr)) 1)] := by
  unfold bodyHostDelete
  dsimp only
  rw [Rep.ranges_true (by simp [haddr])]
  rfl

end

/-! ## LPM entries (R305, R314) -/

/-- The first `length` bits of `pfx` may be a key of the LPM table of family `family`. -/
def lpmKeyOk (family pfx length : Nat) : Prop :=
  family < 2 ∧ pfx < 2 ^ famBits (decide (family = 1)) ∧ length ≤ (if family = 1 then 64 else 32)

theorem lpmKeyOk.all_ranges {family pfx length : Nat} (h : lpmKeyOk family pfx length) {bs : List Bool} (hbs : bs.all id = true) :
    (decide (family < 2) :: decide (pfx < 2 ^ famBits (decide (family = 1))) ::
      decide (length ≤ (if decide (family = 1) = true then 64 else 32)) :: bs).all (fun b => b) = true := by
  obtain ⟨hfamily, hpfx, hlength⟩ := h
  simp only [List.all_cons, hfamily, hpfx, decide_eq_true_eq, hlength, decide_true, Bool.true_and]
  exact hbs

theorem lpmCode_eq {family : Nat} (h : family < 2) : lpmCode (decide (family = 1)) = family + 2 := by
  simp only [lpmCode, decide_eq_true_eq]
  split <;> omega

section
variable {family pfx length result : Nat} {s : State}

theorem bodyLpmAdd_adds (replace : Bool) (hpfx : lpmKeyOk family pfx length) (hres : resultOk [0, 2, 3, 4, 5] result = true)
    (hexists : s.resultExists result = true)
    (hnew : (s.fwd.lpm (decide (family = 1))).find (lpmKey (decide (family = 1)) pfx length) = none)
    (hfits : fits (family + 2) 1 (s.takenLocs (family + 2)) = true) : bodyLpmAdd replace family pfx length result s =
      .ok (s.placed 1 (s.fwd.setLpm (decide (family = 1)) ((s.fwd.lpm (decide (family = 1))).set (lpmKey (decide (family = 1)) pfx length)
        { result := BitVec.ofNat 32 result
          loc := freeLocation (tableSize (family + 2)) (s.takenLocs (family + 2)) (Config.freeNat s.free) }))) [] := by
  unfold bodyLpmAdd
  dsimp only
  rw [Rep.ranges_true (hpfx.all_ranges (by simp [hres])), if_neg (by simp [hexists]), hnew]
  dsimp only
  rw [lpmCode_eq hpfx.1, if_neg (by simp [hfits]), State.pickLocs_eq, ← State.pickLocs_one_headD]
  rfl

theorem bodyLpmAdd_replaces {x : LpmEntry} (hpfx : lpmKeyOk family pfx length) (hres : resultOk [0, 2, 3, 4, 5] result = true)
    (hexists : s.resultExists result = true)
    (hold : (s.fwd.lpm (decide (family = 1))).find (lpmKey (decide (family = 1)) pfx length) = some x) :
    bodyLpmAdd true family pfx length result s = .ok { s with
      fwd := s.fwd.setLpm (decide (family = 1)) ((s.fwd.lpm (decide (family = 1))).set (lpmKey (decide (family = 1)) pfx length)
        { x with result := BitVec.ofNat 32 result }) } [] := by
  unfold bodyLpmAdd
  dsimp only
  rw [Rep.ranges_true (hpfx.all_ranges (by simp [hres])), if_neg (by simp [hexists]), hold]
  rfl

theorem bodyLpmAdd_refuses {replace : Bool} (hpfx : lpmKeyOk family pfx length) (hres : resultOk [0, 2, 3, 4, 5] result = true)
    (h : s.resultExists result = false ∨
      replace = false ∧ ((s.fwd.lpm (decide (family = 1))).find (lpmKey (decide (family = 1)) pfx length)).isSome = true) :
    bodyLpmAdd replace family pfx length result s = .fail stBadState [] := by
  unfold bodyLpmAdd
  dsimp only
  rw [Rep.ranges_true (hpfx.all_ranges (by simp [hres]))]
  rcases h with hmissing | ⟨rfl, hold⟩
  · exact if_pos (by simp [hmissing])
  · obtain ⟨x, hx⟩ := Option.isSome_iff_exists.1 hold
    rw [hx]
    exact ite_self _

theorem bodyLpmDelete_deletes (s : State) (hpfx : lpmKeyOk family pfx length) : bodyLpmDelete family pfx length s =
    .ok { s with
      fwd := s.fwd.setLpm (decide (family = 1)) ((s.fwd.lpm (decide (family = 1))).del (lpmKey (decide (family = 1)) pfx length)) }
      [.u 1 (flag ((s.fwd.lpm (decide (family = 1))).has (lpmKey (decide (family = 1)) pfx length)) 1)] := by
  unfold bodyLpmDelete
  dsimp only
  rw [Rep.ranges_true (hpfx.all_ranges rfl)]
  rfl

end

/-! ## The staging buffer of members (R315, R427) -/

theorem State.completed_memStaged (u : State) (src src' : CmdSrc) (op status : Nat) (res : List Fld) :
    (u.completed src op status res).memStaged src' = u.memStaged src' :=
  congrArg Prod.snd ((u.completed_stagesAs src op status res).staged src')

theorem State.setMemStage_memStaged (s : State) (src : CmdSrc) (t : Tbl Member) : (s.setMemStage src t).memStaged src = t := by
  have hmb : ∀ m, (((s.updMb m fun x => { x with memStage := t }).mbs).get m).memStage = t := fun m => by
    rw [State.updMb, Tbl.get_upd_same]
  cases src with
  | overlay n => exact congrArg Overlay.memStage (Tbl.get_upd_same s.fw.overlays n fun o => { o with memStage := t })
  | config => rfl
  | mailbox m => exact hmb m
  | journal m _ => exact hmb m
  | direct => exact hmb 0

theorem bodyMemberStage_stages {first count : Nat} {members : List Member} (src : CmdSrc) (s : State) (hfirst : first < 256)
    (hcount : 1 ≤ count ∧ count ≤ 12 ∧ first + count ≤ 256) (hmembers : members.length = count ∧ members.all memberOk = true) :
    bodyMemberStage src first count members s =
      .ok (s.setMemStage src ((members.zipIdx).foldl (fun l m => l.set (first + m.2) m.1) (s.memStaged src))) [] := by
  obtain ⟨hlength, hok⟩ := hmembers
  unfold bodyMemberStage
  rw [Rep.ranges_true (by simp only [List.all_cons, List.all_nil, hfirst, hcount, hlength, hok, and_self, decide_true, Bool.and_true])]

/-! ## Groups (R307, R308, R314) -/

/-- The state in which `n` locations have been picked, the tables are `x`, and the staging buffer of `src` is empty. -/
def State.committed (s : State) (src : CmdSrc) (n : Nat) (x : Fwd) : State := (s.placed n x).setMemStage src []

theorem State.committed_keeps (s : State) (src : CmdSrc) (n : Nat) (x : Fwd) :
    goesOn [.free, .fwd, .fw, .mbs] s (s.committed src n x) :=
  State.setMemStage_on ((s.placed_keeps n x).mono (by decide)) (by decide)

/-- A command whose checks commit a group completes with its buffer empty and the tables that hold the group. -/
theorem completes_committed {i : Instr} {src : CmdSrc} {op n : Nat} {s : State} {x : Fwd} {res : List Fld} {body : State → Rep}
    (hx : exec i s = .next (s.runCmd i src op body)) (hu : unitLocal i = false) (hb : body s = .ok (s.committed src n x) res) :
    completes i src op s res [.free, .fwd] fun t => t.memStaged src = [] ∧ t.free = s.free + n ∧ t.fwd = x := by
  have hstage : ∀ p ∉ [Part.fw, Part.mbs], p.same (s.placed n x) (s.committed src n x) := (State.setMemStage_keeps _ _ _).keeps
  have hdone := (s.committed src n x).completed_keeps src op (s.okStatus src op) res
  refine completes_ok hx hu (fun _ => hb) ((s.committed_keeps src n x).keeps.mono (by decide)) ⟨?_, ?_, ?_⟩
  · exact (State.completed_memStaged ..).trans (State.setMemStage_memStaged ..)
  · exact (hdone .free (by decide)).trans (hstage .free (by decide))
  · exact (hdone .fwd (by decide)).trans (hstage .fwd (by decide))

/-- ECMP group `group` with the `count` members that `src` has staged, at the locations picked for them. -/
def State.withEcmp (s : State) (src : CmdSrc) (group count profile : Nat) : Fwd :=
  { s.fwd with ecmp := s.fwd.ecmp.set group {
    members := (List.range count).map fun i => ((s.memStaged src).get i).nh
    profile := profile
    locs := (s.pickLocs 6 (s.takenBeside 6 (s.fwd.ecmp.get group).locs) count).2 } }

theorem bodyEcmpCommit_writes {src : CmdSrc} {group count profile : Nat} {s : State} (hgroup : group < 4096) (hprofile : profile < 64)
    (hcount : 1 ≤ count ∧ count ≤ 256) (hmembers : ∀ i ∈ List.range count, (s.memStaged src).has i = true ∧
      ((s.memStaged src).get i).nh < 65536 ∧ s.fwd.nhs.has ((s.memStaged src).get i).nh = true)
    (hfits : fits 6 count (s.takenBeside 6 (s.fwd.ecmp.get group).locs) = true) :
    bodyEcmpCommit src group count profile s = .ok (s.committed src count (s.withEcmp src group count profile)) [] := by
  have hpresent : ((List.range count).filter fun i => (s.memStaged src).has i) = List.range count :=
    List.filter_eq_self.2 fun i hi => (hmembers i hi).1
  have hrange : ((List.range count).all fun i => decide (((s.memStaged src).get i).nh < 65536)) = true :=
    List.all_eq_true.2 fun i hi => decide_eq_true (hmembers i hi).2.1
  have hnhs : (((List.range count).map fun i => ((s.memStaged src).get i).nh).all s.fwd.nhs.has) = true := by
    rw [List.all_map]
    exact List.all_eq_true.2 fun i hi => (hmembers i hi).2.2
  unfold bodyEcmpCommit
  dsimp only
  rw [hpresent, Rep.ranges_true (by simp only [List.all_cons, List.all_nil, hgroup, hcount, hrange, hprofile, and_self, decide_true,
    Bool.and_true]), if_neg (by simp only [hnhs, List.length_range, ne_eq, not_true, Bool.not_true, Bool.false_eq_true, or_self,
    not_false_eq_true]), if_neg (by simp [hfits]), State.pickLocs_eq]
  rfl

theorem bodyEcmpCommit_refuses_empty {src : CmdSrc} {group count profile : Nat} {s : State} (hgroup : group < 4096)
    (hprofile : profile < 64) (hcount : 1 ≤ count ∧ count ≤ 256) (hempty : s.memStaged src = []) :
    bodyEcmpCommit src group count profile s = .fail stBadState [] := by
  have hpresent : ((List.range count).filter fun i => (s.memStaged src).has i) = [] := by
    rw [hempty]
    exact List.filter_eq_nil_iff.2 fun _ _ => Bool.false_ne_true
  unfold bodyEcmpCommit
  dsimp only
  rw [hpresent, Rep.ranges_true (by simp [hgroup, hcount, hprofile])]
  exact if_pos (.inl (Nat.ne_of_lt hcount.1))

theorem bodyEcmpDelete_deletes {group : Nat} {s : State} (h : group < 4096) (hfree : s.ecmpNamed group = false) :
    bodyEcmpDelete group s = .ok { s with fwd := { s.fwd with ecmp := s.fwd.ecmp.del group } } [] := by
  unfold bodyEcmpDelete
  rw [Rep.ranges_true (by simpa using h), if_neg (by simp [hfree])]
  rfl

theorem bodyEcmpDelete_refuses {group : Nat} {s : State} (h : group < 4096) (hnamed : s.ecmpNamed group = true) :
    bodyEcmpDelete group s = .fail stBadState [] := by
  unfold bodyEcmpDelete
  rw [Rep.ranges_true (by simpa using h), if_pos hnamed]
  rfl

/-- The first `count` members that `src` has staged. -/
def State.stagedMembers (s : State) (src : CmdSrc) (count : Nat) : List Member := (List.range count).map fun i => (s.memStaged src).get i

/-- Multicast group `mgid` with the `count` members that `src` has staged, at the locations picked for them. -/
def State.withMcast (s : State) (src : CmdSrc) (aon prune : Bool) (mgid count : Nat) : Fwd :=
  { s.fwd with mcast := s.fwd.mcast.set mgid { s.fwd.mcast.get mgid with
    members := s.stagedMembers src count
    aon := aon
    prune := prune
    locs := (s.pickLocs 8 (s.takenBeside 8 (s.fwd.mcast.get mgid).locs) count).2 } }

theorem bodyMcastCommit_writes {src : CmdSrc} {mgid count : Nat} {s : State} (aon prune : Bool) (hmgid : mgid < 65536)
    (hcount : count ≤ 256) (honce : portsOnce (s.stagedMembers src count) = true)
    (hmembers : ∀ i ∈ List.range count, (s.memStaged src).has i = true ∧
      ((s.memStaged src).get i).port < 256 ∧ ((s.memStaged src).get i).vid ≤ 4094)
    (hrouted : ((s.stagedMembers src count).any fun m => m.routed && decide (m.vid ≠ 0) && !(s.fwd.vlans.get m.vid).l3) = false)
    (hfits : fits 8 count (s.takenBeside 8 (s.fwd.mcast.get mgid).locs) = true) :
    bodyMcastCommit src aon prune mgid count s = .ok (s.committed src count (s.withMcast src aon prune mgid count)) [] := by
  have hpresent : (((List.range count).filter fun i => (s.memStaged src).has i).map fun i => (s.memStaged src).get i) =
      s.stagedMembers src count := by
    rw [List.filter_eq_self.2 fun i hi => (hmembers i hi).1]
    rfl
  have hlegal : ((s.stagedMembers src count).all fun m => decide (m.port < 256 ∧ m.vid ≤ 4094)) = true := by
    rw [State.stagedMembers, List.all_map]
    exact List.all_eq_true.2 fun i hi => decide_eq_true (hmembers i hi).2
  have hlength : (s.stagedMembers src count).length = count := by simp [State.stagedMembers]
  unfold bodyMcastCommit
  dsimp only
  rw [hpresent, Rep.ranges_true (by simp only [List.all_cons, List.all_nil, hmgid, hcount, honce, hlegal, decide_true, Bool.and_true]),
    if_neg (by simp only [hlength, hrouted, ne_eq, not_true, Bool.false_eq_true, or_self, not_false_eq_true]), if_neg (by simp [hfits]),
    State.pickLocs_eq]
  rfl

/-! ## The statements -/

/-- Settles O8, command by command: what its own checks come to, and then its completion or its refusal. -/
theorem addressTableCommands : Obligations.AddressTableCommands := by
  unfold Obligations.AddressTableCommands
  refine ⟨?_, ?_, ?_, ?_, ?_, ?_, ?_, ?_, ?_, ?_, ?_⟩
  · rintro src enable l3 vid members untagged unknown floodMgid rmac s ⟨hvid, hrest⟩ ⟨hnamed, hrouted⟩
    exact completes_fwd rfl rfl (bodyVlanConfigure_writes members untagged hvid hrest hnamed hrouted)
  · rintro src enable l3 vid members untagged unknown floodMgid rmac s ⟨hvid, hrest⟩ hinUse hacts
    exact exec_refused rfl (bodyVlanConfigure_refuses members untagged hvid hrest hinUse) hacts
  · rintro src port pvid s ⟨hport, hpvid⟩
    exact completes_ok_kept rfl rfl (bodyPortSetPvid_sets s hport hpvid) (bodyPortSetPvid_keeps port pvid s) (by decide)
      fun t ht => ht .ports (by decide)
  · intro src index mac s h
    exact completes_fwd rfl rfl (bodyRouterMacSet_sets mac s h)
  · rintro src replace vid da result s ⟨hvid, hres, hnew, hfits⟩
    exact completes_placed rfl rfl (bodyL2Add_adds replace hvid hres hnew hfits)
  · rintro src _ vid da result x s ⟨hvid, hres, rfl, hold⟩
    exact completes_fwd rfl rfl (bodyL2Add_replaces hvid hres hold)
  · rintro src _ vid da result s ⟨hvid, hres, rfl, hold⟩ hacts
    exact exec_refused rfl (bodyL2Add_refuses hvid hres hold) hacts
  · intro src vid da s hvid
    exact completes_fwd rfl rfl (bodyL2Delete_deletes da s hvid)
  · intro src decTtl nh port vid da rmac s h
    exact completes_fwd rfl rfl (bodyNhWrite_writes decTtl da s h)
  · rintro src nh s ⟨h, hfree⟩
    exact completes_fwd rfl rfl (bodyNhDelete_deletes h hfree)
  · rintro src nh s ⟨h, hnamed⟩ hacts
    exact exec_refused rfl (bodyNhDelete_refuses h hnamed) hacts

/-- Settles O9, command by command: what its own checks come to, and then its completion or its refusal. -/
theorem routeCommands : Obligations.RouteCommands := by
  unfold Obligations.RouteCommands
  refine ⟨?_, ?_, ?_, ?_, ?_, ?_, ?_, ?_, ?_, ?_, ?_, ?_, ?_, ?_⟩
  · rintro src replace family addr result s ⟨hfamily, haddr, hres, hexists⟩ ⟨hnew, hfits⟩
    exact completes_placed rfl rfl (bodyHostAdd_adds replace ⟨hfamily, haddr⟩ hres hexists hnew hfits)
  · rintro src _ family addr result x s ⟨hfamily, haddr, hres, hexists⟩ ⟨rfl, hold⟩
    exact completes_fwd rfl rfl (bodyHostAdd_replaces ⟨hfamily, haddr⟩ hres hexists hold)
  · rintro src replace family addr result s ⟨hfamily, haddr, hres⟩ h hacts
    exact exec_refused rfl (bodyHostAdd_refuses ⟨hfamily, haddr⟩ hres h) hacts
  · intro src family addr s haddr
    exact completes_fwd rfl rfl (bodyHostDelete_deletes s haddr)
  · rintro src replace family pfx length result s ⟨hfamily, hpfx, hlength, hres, hexists⟩ ⟨hnew, hfits⟩
    exact completes_placed rfl rfl (bodyLpmAdd_adds replace ⟨hfamily, hpfx, hlength⟩ hres hexists hnew hfits)
  · rintro src _ family pfx length result x s ⟨hfamily, hpfx, hlength, hres, hexists⟩ ⟨rfl, hold⟩
    exact completes_fwd rfl rfl (bodyLpmAdd_replaces ⟨hfamily, hpfx, hlength⟩ hres hexists hold)
  · rintro src replace family pfx length result s ⟨hfamily, hpfx, hlength, hres⟩ h hacts
    exact exec_refused rfl (bodyLpmAdd_refuses ⟨hfamily, hpfx, hlength⟩ hres h) hacts
  · intro src family pfx length s hpfx
    exact completes_fwd rfl rfl (bodyLpmDelete_deletes s hpfx)
  · rintro src first count members s ⟨hfirst, hcount, hcount', hspan, hlength, hok, _⟩
    refine completes_ok rfl rfl (fun _ => bodyMemberStage_stages src s hfirst ⟨hcount, hcount', hspan⟩ ⟨hlength, hok⟩)
      ((State.setMemStage_keeps _ _ _).keeps.mono (by decide)) ?_
    exact (State.completed_memStaged ..).trans (s.setMemStage_memStaged src _)
  · rintro src group count profile s ⟨hgroup, hcount, hcount', hprofile, _⟩ hmembers hfits
    simp only [List.all_eq_true, Bool.and_eq_true, decide_eq_true_eq, and_assoc] at hmembers
    exact completes_committed rfl rfl (bodyEcmpCommit_writes hgroup hprofile ⟨hcount, hcount'⟩ hmembers hfits)
  · rintro src group count profile s ⟨hgroup, hcount, hcount', hprofile, _, hempty⟩ hacts
    exact exec_refused rfl (bodyEcmpCommit_refuses_empty hgroup hprofile ⟨hcount, hcount'⟩ hempty) hacts
  · rintro src group s ⟨h, hfree⟩
    exact completes_fwd rfl rfl (bodyEcmpDelete_deletes h hfree)
  · rintro src group s ⟨h, hnamed⟩ hacts
    exact exec_refused rfl (bodyEcmpDelete_refuses h hnamed) hacts
  · rintro src aon prune mgid count s ⟨hmgid, hcount, _, honce⟩ hmembers hrouted hfits
    simp only [List.all_eq_true, Bool.and_eq_true, decide_eq_true_eq] at hmembers
    exact completes_committed rfl rfl (bodyMcastCommit_writes aon prune hmgid hcount honce hmembers hrouted hfits)

end Sys2Proof.Machine
end
